-- ==== Sys2Proof/Word.lean ====
section
/-! DEFINITION. The byte type and the plainest arithmetic on lists of bytes and on association lists.
Multi-byte values are little-endian (R5); bits are numbered from 0 at the least significant end (R4). -/

namespace Sys2Proof

/-- One byte, as the node stores and sends it. -/
abbrev Byte := BitVec 8

/-- A byte string: a descriptor, a message, a DOMAIN value, a line. -/
abbrev Bytes := List Byte

end Sys2Proof
end

