-- ==== Sys2Proof/Payload.lean ====
section
/-! DEFINITION. What the commands of the node carry: host reads, CAP requests, Strand frames, messages between nodes,
sensor and media reports. A command carries what arrives with it; everything else it needs stands in the state. -/

namespace Sys2Proof

/-- The three paths of the Catalogue Access Protocol (R554, R564, R565), with the requester's address. -/
inductive Path where
  /-- A frame on the field network from a MAC address, sent to the node's own address or to the broadcast address. -/
  | field (mac : Nat) (broadcast : Bool)
  | mailbox
  /-- A MESSAGE of type 0x00F0 from a node, in a traffic class. -/
  | strand (src cls : Nat)
  deriving DecidableEq, Repr

/-- A CAP request: the 32-byte header's fields and the data carried (the table "CAP header"). -/
structure CapReq where
  path : Path
  version : Nat
  op : Nat
  flags : Nat
  session : Nat
  seq : Nat
  index : Nat
  sub : Nat
  typeCode : Nat
  offset : Nat
  length : Nat
  tideField : Nat
  totalLength : Nat
  data : Bytes
  deriving DecidableEq, Repr

/-- An image transfer input: of the mailbox command 0xC001, or a request of Op IMAGE (R532, R611). -/
inductive ImageXfer where
  | mailbox (input : Bytes)
  | cap (req : CapReq)
  deriving DecidableEq, Repr

/-- How a read of host memory ends when it does not return data (R411, R523). -/
inductive ReadFault where
  | unsupported | abort | poisoned | timeout
  deriving DecidableEq, Repr

/-- What a read of host memory returned. -/
inductive HostRead where
  | ok (bytes : Bytes)
  | bad (fault : ReadFault)
  deriving DecidableEq, Repr

/-- A frame: the header's fields of the table "Frame header" and the payload. The two CRCs are functions of these. -/
structure Frame where
  kind : Nat
  cls : Nat
  adaptive : Bool
  hops : Nat
  vc : Nat
  dest : Nat
  src : Nat
  job : Nat
  seq : Nat
  addr : Nat
  status : Nat
  param : Nat
  payload : Bytes
  deriving DecidableEq, Repr

/-- A change as it travels: the fields of a change forward. -/
structure Change where
  coll : Nat
  shoal : Nat
  item : Nat
  deaccession : Bool
  ifAbsent : Bool
  vec : Bytes
  metadata : Bytes
  intake : Nat
  tag : Nat
  deriving DecidableEq, Repr

/-- The outcome of a change, as the primary reports it to the intake node. -/
structure ChangeDone where
  tag : Nat
  status : Nat
  commit : Nat
  /-- ChangeResult's bits. -/
  result : Nat
  retry : Nat
  /-- The change reached a node that is not the shoal's primary (R231). -/
  misdirected : Bool
  deriving DecidableEq, Repr

/-- The replica's report for a change. -/
structure Ack where
  coll : Nat
  shoal : Nat
  seq : Nat
  status : Nat
  /-- The writes were completed by the boundary C (R228). -/
  inTime : Bool
  result : Nat
  deriving DecidableEq, Repr

/-- What a filling copy and its source send each other (R245, R246): the request for a fill, the first forwarded
sequence number, the items, marks and end of the stream, and the report that the copy serves. -/
inductive FillItem where
  | request (coll shoal : Nat)
  | start (coll shoal seq : Nat)
  | record (coll shoal id accTide : Nat) (vec metadata : Bytes)
  | mark (coll shoal item boundary : Nat)
  | finish (coll shoal seq : Nat)
  | serving (coll shoal : Nat)
  deriving DecidableEq, Repr

/-- What a Tiered page is: an HDM page, page n of a berth (by its BerthId), page n of a run's scratch, a page of a checkpoint. -/
inductive PageId where
  | hdm (p : Nat)
  | berth (b n : Nat)
  | scratch (run n : Nat)
  /-- Page n of a berth's checkpoint at its shadow: of the checkpoint under way, or of the last whole one (R375). -/
  | held (b n : Nat) (coming : Bool)
  deriving DecidableEq, Repr

/-- The cache geometry and size of a berth. -/
structure Geometry where
  layers : Nat
  kvHeads : Nat
  headDim : Nat
  fmt : Nat
  capacity : Nat
  dataPages : Nat
  deriving DecidableEq, Repr

/-- Why berth pages are sent. -/
inductive BerthUse where
  | copy | checkpoint | park
  deriving DecidableEq, Repr

/-- A berth page that another node sends, with the record fields that travel with it (R375). -/
structure BerthPage where
  berth : Nat
  use : BerthUse
  page : Nat
  bytes : Bytes
  states : List (Nat × Bool)
  ownerSlot : Nat
  geo : Geometry
  pinned : Bool
  tokens : List Nat
  /-- The number of the checkpoint that it belongs to. -/
  ckpt : Nat
  deriving DecidableEq, Repr

inductive BerthMsg where
  /-- The word names the receiver, with this sequence and lease; after a takeover, the number of the last checkpoint recorded. -/
  | installed (berth seq lease ckpt : Nat)
  | discard (berth : Nat)
  /-- The owner reports a checkpoint, by its number, to the home. -/
  | report (berth ckpt : Nat) (tokens : List Nat)
  /-- CREATE with its home at the receiver (R363), and the home's answer: status, number, sequence, lease and shadow. -/
  | create (cmd ownerSlot : Nat) (geo : Geometry) (pinned : Bool)
  | created (cmd status num seq lease : Nat) (shadow : Option Nat)
  /-- The home names the berth's shadow to its owner; the owner reports a shadow that failed or refused (R376). -/
  | shadow (berth : Nat) (node : Option Nat)
  | refused (berth node : Nat)
  /-- The node that a takeover names holds no checkpoint of the berth; the sequence of that takeover (R377). -/
  | lost (berth seq : Nat)
  deriving DecidableEq, Repr

/-- Rows of a PUT that an intake node sends to a shoal node. -/
structure PutRows where
  tag : Nat
  table : Nat
  apply : Nat
  rows : List (Nat × Bytes)
  deriving DecidableEq, Repr

/-- What a message of table sums and forwards says (type 0x0031): updates of a requester (row, requester sequence, row);
to a storage node, sums for a commit boundary (row, pointer of the version below, sums), the pointer from which a migration copies its
base, replacement rows, a reservation for a row's next version, a pointer that is named no more with the boundary at which its granules
are free, and the end of a migration; from a storage node, the version it has installed (row, pointer), a row to migrate (row, target)
and a base copy that failed. -/
inductive SumKind where
  | updates | sums | base | replace | installed | reserve | free | abandon | migrate | failed
  deriving DecidableEq, Repr

structure UpdateMsg where
  table : Nat
  kind : SumKind
  commit : Nat
  rows : List (Nat × Nat × Bytes)
  deriving DecidableEq, Repr

/-- CXL.cache snoops of the host (R416). -/
inductive Snoop where
  | data | inv | cur
  deriving DecidableEq, Repr

/-- What enumeration found of one flash target (R471, R472). -/
structure Target where
  chan : Nat
  target : Nat
  /-- A parameter page copy with a valid CRC. -/
  crcOk : Bool
  /-- ONFI revision × 10. -/
  revision : Nat
  dataBytes : Nat
  spareBytes : Nat
  pagesPerBlock : Nat
  planes : Nat
  luns : Nat
  blocksPerLun : Nat
  badBlocks : Nat
  /-- Pages of a word line. -/
  wordLinePages : Nat
  shared : Bool
  volume : Bool
  suspend : Bool
  /-- NV-LPDDR4 rates it supports, and those at which it trains. -/
  rates : List Nat
  trains : List Nat
  deriving DecidableEq, Repr

/-- What CMIS reads of one port's module gave: powers per lane and the low-power thresholds, in μW. -/
structure CmisPort where
  port : Nat
  tx : List Nat
  rx : List Nat
  /-- Low-power warning and alarm thresholds of the transmit and of the receive power. -/
  txWarning : Nat
  txAlarm : Nat
  rxWarning : Nat
  rxAlarm : Nat
  deriving DecidableEq, Repr

/-- A check of the node has detected an error: event code, unit ID, place in the unit, detail (R582's tables). -/
structure ErrorReport where
  code : Nat
  unit : Nat
  place : Nat
  detail : Nat
  /-- Of a memory line (codes 1 and 2): the 72 bytes by which its cells differ from what they held; empty where only the code is
  reported. -/
  cells : Bytes
  deriving DecidableEq, Repr

/-- The instructions of the test access port. -/
inductive Tap where
  | idcode | bypass | sample | extest | clamp | highz
  deriving DecidableEq, Repr

end Sys2Proof
end

