-- ==== Sys2Proof/Syntax.lean ====
section
/-! DEFINITION. The commands that the node takes: one constructor per row of spec/opcode_table.json. -/

namespace Sys2Proof

/-- A command, named as the table names it. The commands without operands stand last. -/
inductive Instr where
  /-- TIDE_IN_EDGE (R43). -/
  | tideInEdge (interval : Nat) (fall : Option Nat)
  /-- TIDE_BEACON (R49). -/
  | tideBeacon (port : Nat) (block : Bytes)
  /-- COLLECTION_ID_WRITE (R109). -/
  | collectionIdWrite (req : CapReq)
  /-- COLLECTION_OPEN (R110). -/
  | collectionOpen (req : CapReq)
  /-- COLLECTION_CLOSE (R111). -/
  | collectionClose (req : CapReq)
  /-- COLLECTION_STORAGE_RELEASE (R111). -/
  | collectionStorageRelease (coll : Nat)
  /-- SHOAL_MAP_WRITE (R112). -/
  | shoalMapWrite (req : CapReq)
  /-- SHOAL_RELEASE (R112). -/
  | shoalRelease (coll shoal : Nat)
  /-- QUERY (R121). -/
  | query (cmd : Nat) (input filter : HostRead)
  /-- FRAGMENT_REQUEST (R153). -/
  | fragmentRequest (src : Nat) (data : Bytes)
  /-- FRAGMENT_REPLY (R155). -/
  | fragmentReply (src : Nat) (data : Bytes)
  /-- FRAGMENT_CUTOFF (R148). -/
  | fragmentCutoff (frag : Nat)
  /-- FRAGMENT_COMPLETE (R137). -/
  | fragmentComplete (frag : Nat)
  /-- QUERY_DEADLINE (R150). -/
  | queryDeadline (query : Nat)
  /-- VERIFY_READ_DONE (R136). -/
  | verifyReadDone (frag loc : Nat)
  /-- ACCESSION (R221). -/
  | accession (cmd : Nat) (vec metadata : HostRead)
  /-- DEACCESSION (R221). -/
  | deaccession (cmd : Nat)
  /-- CHANGE_AT_PRIMARY (R225). -/
  | changeAtPrimary (src : Nat) (change : Change)
  /-- CHANGE_AT_REPLICA (R226). -/
  | changeAtReplica (src : Nat) (change : Change) (seq commit result : Nat)
  /-- CHANGE_ACKNOWLEDGEMENT (R228). -/
  | changeAcknowledgement (src : Nat) (ack : Ack)
  /-- CHANGE_OUTCOME (R229). -/
  | changeOutcome (src : Nat) (done : ChangeDone)
  /-- REPLICA_ACK_TIMEOUT (R228). -/
  | replicaAckTimeout (coll shoal seq : Nat)
  /-- INTAKE_GIVE_UP (R230). -/
  | intakeGiveUp (tag : Nat)
  /-- SHOAL_FILL_STREAM (R246). -/
  | shoalFillStream (src : Nat) (item : FillItem)
  /-- FILL_COMPLETE (R245). -/
  | fillComplete (coll shoal : Nat)
  /-- HOST_MEM_READ (R527). -/
  | hostMemRead (hpa : Nat)
  /-- HOST_MEM_WRITE (R267). -/
  | hostMemWrite (hpa : Nat) (data : Bytes)
  /-- HOLD_TIMEOUT (R529). -/
  | holdTimeout (id : Nat)
  /-- PAGE_MOVE_SWITCH (R276). -/
  | pageMoveSwitch (page : PageId)
  /-- SWEEP_COMPLETE (R259). -/
  | sweepComplete (slot : Nat)
  /-- NB_SEQUENCE_ISSUE (R293). -/
  | nbSequenceIssue (desc : Bytes)
  /-- NB_SEQUENCE_START (R296). -/
  | nbSequenceStart (bank : Nat)
  /-- ROWCOPY (R290). -/
  | rowcopy (bank : Nat)
  /-- ROWINIT (R290). -/
  | rowinit (bank : Nat)
  /-- ROWLOGIC (R299). -/
  | rowlogic (bank : Nat)
  /-- OPLOAD (R298). -/
  | opload (bank : Nat)
  /-- POPACC (R300). -/
  | popacc (bank : Nat)
  /-- ACCOUT (R302). -/
  | accout (bank : Nat)
  /-- END (R297). -/
  | seqEnd (bank : Nat)
  /-- BANK_SLOT (R310). -/
  | bankSlot (bank : Nat) (external : Option Nat)
  /-- REFRESH_VISIT (R314). -/
  | refreshVisit (bank : Nat)
  /-- NEIGHBOUR_REFRESH (R317). -/
  | neighbourRefresh (bank row : Nat)
  /-- STACK_TEMP_READ (R315). -/
  | stackTempRead (temps : List Nat)
  /-- GRAPH_LOAD (R327). -/
  | graphLoad (cmd : Nat) (image : HostRead)
  /-- GRAPH_RUN (R349). -/
  | graphRun (cmd : Nat) (inTable outTable : HostRead) (inputs : List HostRead)
  /-- GRAPH_UNLOAD (R354). -/
  | graphUnload (cmd : Nat)
  /-- UNLOAD_COMPLETE (R354). -/
  | unloadComplete (slot : Nat)
  /-- RUN_HOLD_RELEASE (R351). -/
  | runHoldRelease (run : Nat)
  /-- RUN_DEADLINE (R352). -/
  | runDeadline (run : Nat)
  /-- CONVERT (R331). -/
  | convert (run : Nat)
  /-- RESHAPE (R331). -/
  | reshape (run : Nat)
  /-- TRANSPOSE (R331). -/
  | transpose (run : Nat)
  /-- ELEMENTWISE (R332). -/
  | elementwise (run : Nat)
  /-- REDUCE (R214). -/
  | reduce (run : Nat)
  /-- SOFTMAX (R215). -/
  | softmax (run : Nat)
  /-- NORM (R216). -/
  | norm (run : Nat)
  /-- QUANTISE (R194). -/
  | quantise (run : Nat)
  /-- DEQUANTISE (R198). -/
  | dequantise (run : Nat)
  /-- MATMUL (R333). -/
  | matmul (run : Nat)
  /-- CHUNK_FILL_DONE (R285). -/
  | chunkFillDone (run : Nat)
  /-- DISTANCE (R334). -/
  | distance (run : Nat)
  /-- SELECT (R335). -/
  | select (run : Nat)
  /-- MERGE (R336). -/
  | merge (run : Nat)
  /-- FILTER (R337). -/
  | filter (run : Nat)
  /-- GATHER (R339). The Unit operand carries nothing: what other nodes hold comes as READ_RESPONSE. -/
  | gather (run : Nat) (remote : Unit)
  /-- SCATTER (R338). -/
  | scatter (run : Nat)
  /-- MERGE_UPDATE (R340). -/
  | mergeUpdate (run : Nat)
  /-- NB_MATVEC (R304). -/
  | nbMatvec (run : Nat)
  /-- ATTEND_QK (R344). -/
  | attendQk (run : Nat)
  /-- ATTEND_PV (R344). -/
  | attendPv (run : Nat)
  /-- ATTEND (R344). -/
  | attend (run : Nat)
  /-- BERTH_APPEND (R345). -/
  | berthAppend (run : Nat)
  /-- LOOP (R341). -/
  | loop (run : Nat)
  /-- BRANCH (R342). -/
  | branch (run : Nat)
  /-- TIDE_WAIT (R343). -/
  | tideWait (run : Nat)
  /-- TIDE_WAIT_RELEASE (R343). -/
  | tideWaitRelease (run : Nat)
  /-- CREATE (R363). The Unit operand carries nothing: what a remote home answers comes as BERTH_CONTROL. -/
  | create (cmd : Nat) (answer : Unit)
  /-- PARK (R366). -/
  | park (cmd : Nat)
  /-- PARK_DONE (R366). -/
  | parkDone (berth : Nat)
  /-- WAKE (R367). -/
  | wake (cmd : Nat)
  /-- WAKE_READY (R367). -/
  | wakeReady (berth : Nat)
  /-- ATTEND_COMMAND (R368). -/
  | attendCommand (cmd : Nat) (inTable outTable : HostRead) (inputs : List HostRead)
  /-- RELEASE (R369). -/
  | release (cmd : Nat)
  /-- HANDOFF (R373). -/
  | handoff (cmd : Nat)
  /-- CHECKPOINT (R375). -/
  | checkpoint (cmd : Nat)
  /-- BERTH_PAGES (R375). -/
  | berthPages (src : Nat) (page : BerthPage)
  /-- BERTH_CONTROL (R374). -/
  | berthControl (src : Nat) (msg : BerthMsg)
  /-- BERTH_COMMAND_RELEASE (R365). -/
  | berthCommandRelease (berth : Nat)
  /-- AUTO_PARK (R370). -/
  | autoPark (berth : Nat)
  /-- LEASE_RENEWAL (R372). -/
  | leaseRenewal (berth : Nat)
  /-- LEASE_EXPIRY (R372). -/
  | leaseExpiry (berth : Nat)
  /-- RESOLVE_READ (R374). -/
  | resolveRead (berth : Nat)
  /-- TAKEOVER (R377). -/
  | takeover (num : Nat)
  /-- TABLE_ID_WRITE (R381). -/
  | tableIdWrite (req : CapReq)
  /-- TABLE_OPEN (R381). -/
  | tableOpen (req : CapReq)
  /-- TABLE_CLOSE (R381). -/
  | tableClose (req : CapReq)
  /-- TABLE_STORAGE_RELEASE (R381). -/
  | tableStorageRelease (table : Nat)
  /-- ROW_GET (R382). The Unit operand carries nothing: what other nodes hold comes as READ_RESPONSE. -/
  | rowGet (cmd : Nat) (rows : HostRead) (remote : Unit)
  /-- ROW_PUT (R387). -/
  | rowPut (cmd : Nat) (rows data : HostRead)
  /-- ROW_UPDATE (R389). -/
  | rowUpdate (cmd : Nat) (rows data : HostRead)
  /-- TABLE_PUT_ROWS (R388). -/
  | tablePutRows (src : Nat) (put : PutRows)
  /-- TABLE_PUT_COMMIT (R388). -/
  | tablePutCommit (src tag : Nat)
  /-- TABLE_PUT_WITHDRAW (R388). -/
  | tablePutWithdraw (src tag : Nat)
  /-- PUT_ANSWER_DEADLINE (R388). -/
  | putAnswerDeadline (cmd : Nat)
  /-- TABLE_UPDATE_SUMS (R389). -/
  | tableUpdateSums (src : Nat) (sums : UpdateMsg)
  /-- TABLE_LOAD_REPORT (R392). -/
  | tableLoadReport (src table load : Nat)
  /-- MIGRATION_SWITCH (R392). -/
  | migrationSwitch (table row : Nat)
  /-- HOT_ROW_REFRESH (R391). -/
  | hotRowRefresh (table : Nat)
  /-- CACHE_READ (R403). -/
  | cacheRead (core owner line : Nat)
  /-- READ_OWN (R402). -/
  | readOwn (core owner line off : Nat) (data : Bytes)
  /-- UPGRADE (R402). -/
  | upgrade (core owner line off : Nat) (data : Bytes)
  /-- WRITE_LINE (R402). -/
  | writeLine (owner line : Nat) (data : Bytes)
  /-- READ_ONCE (R402). -/
  | readOnce (owner line : Nat)
  /-- WRITEBACK (R401). -/
  | writeback (core line : Nat) (lost : Bool)
  /-- EVICTION_NOTICE (R401). -/
  | evictionNotice (core line : Nat)
  /-- CACHE_ATOMIC (R408). -/
  | cacheAtomic (owner addr op : Nat) (operand expected : Bytes)
  /-- INVALIDATION_ACK (R402). -/
  | invalidationAck (core line : Nat)
  /-- FIRMWARE_WRITEBACK (R418). -/
  | firmwareWriteback (addr lines : Nat)
  /-- FIRMWARE_INVALIDATE (R418). -/
  | firmwareInvalidate (addr lines : Nat)
  /-- HOST_SNOOP (R416). -/
  | hostSnoop (line : Nat) (snoop : Snoop)
  /-- BISNP_RESPONSE (R410). -/
  | bisnpResponse (line : Nat)
  /-- SIGNAL_DETECT (R425). -/
  | signalDetect (port : Nat)
  /-- EQUALISE_DONE (R425). -/
  | equaliseDone (port : Nat)
  /-- ALIGN_DONE (R425). -/
  | alignDone (port lanes : Nat) (reversed : Bool) (polarity : Nat)
  /-- HELLO (R426). -/
  | hello (port : Nat) (block : Bytes)
  /-- TRAIN_TIMEOUT (R425). -/
  | trainTimeout (port : Nat)
  /-- DOWN_RETRY (R425). -/
  | downRetry (port : Nat)
  /-- MISWIRED_HELLO_REPEAT (R426). -/
  | miswiredHelloRepeat (port : Nat)
  /-- LANEMAP (R427). -/
  | lanemap (port : Nat) (block : Bytes)
  /-- LANE_SWITCH (R427). -/
  | laneSwitch (port : Nat)
  /-- CREDIT (R431). -/
  | credit (port : Nat) (block : Bytes)
  /-- ACK (R430). -/
  | ack (port : Nat) (block : Bytes)
  /-- NAK (R430). -/
  | nak (port : Nat) (block : Bytes)
  /-- FRAME_RECEIVED (R430). -/
  | frameReceived (port link : Nat) (frame : Frame) (headerCrc frameCrc : Nat) (fecLost : Bool)
  /-- EGRESS_SELECT (R462). -/
  | egressSelect (port : Nat)
  /-- STRAND_READ (R448). -/
  | strandRead (frame : Frame)
  /-- STRAND_WRITE (R451). -/
  | strandWrite (frame : Frame)
  /-- STRAND_ATOMIC (R458). -/
  | strandAtomic (frame : Frame)
  /-- REGISTER (R452). -/
  | register (frame : Frame)
  /-- UNREGISTER (R453). -/
  | unregister (frame : Frame)
  /-- PUBLISH (R454). -/
  | publish (frame : Frame)
  /-- INVALIDATE (R456). -/
  | invalidate (frame : Frame)
  /-- MESSAGE_SEGMENT (R446). -/
  | messageSegment (frame : Frame)
  /-- MESSAGE_REASSEMBLY_TIMEOUT (R446). -/
  | messageReassemblyTimeout (src id : Nat)
  /-- READ_RESPONSE (R455). -/
  | readResponse (frame : Frame)
  /-- WRITE_RESPONSE (R451). -/
  | writeResponse (frame : Frame)
  /-- ATOMIC_RESPONSE (R460). -/
  | atomicResponse (frame : Frame)
  /-- REGISTER_RESPONSE (R452). -/
  | registerResponse (frame : Frame)
  /-- PUBLISH_RESPONSE (R454). -/
  | publishResponse (frame : Frame)
  /-- INVALIDATE_RESPONSE (R454). -/
  | invalidateResponse (frame : Frame)
  /-- MESSAGE_RESPONSE (R446). -/
  | messageResponse (frame : Frame)
  /-- READ_RESEND (R451). -/
  | readResend (seq : Nat)
  /-- STRAND_GIVE_UP (R451). -/
  | strandGiveUp (seq : Nat)
  /-- ATOMIC_RESEND (R460). -/
  | atomicResend (seq : Nat)
  /-- ATOMIC_GIVE_UP (R460). -/
  | atomicGiveUp (seq : Nat)
  /-- INVALIDATE_RESEND (R456). -/
  | invalidateResend (seq src : Nat)
  /-- PUBLISH_GIVE_UP (R456). -/
  | publishGiveUp (seq : Nat)
  /-- FLASH_ENUMERATION_DONE (R473). -/
  | flashEnumerationDone (targets : List Target)
  /-- LUN_READ_DISPATCH (R485). -/
  | lunReadDispatch (chan die : Nat)
  /-- FLASH_READ_DONE (R484). -/
  | flashReadDone (id fails corrected : Nat)
  /-- WRITE_FLUSH_TIMER (R479). -/
  | writeFlushTimer (chan : Nat)
  /-- FLASH_PROGRAM_DONE (R479). -/
  | flashProgramDone (chan block : Nat) (ok : Bool)
  /-- BLOCK_ERASE (R501). -/
  | blockErase (chan block : Nat)
  /-- ERASE_DONE (R502). -/
  | eraseDone (chan block : Nat) (ok : Bool)
  /-- URGENT_GC (R497). -/
  | urgentGc (chan : Nat)
  /-- URGENT_RELOCATION (R499). -/
  | urgentRelocation (chan block : Nat)
  /-- QUEUE_ENABLE (R517). -/
  | queueEnable (pair word : Nat)
  /-- QUEUE_DISABLE (R657). -/
  | queueDisable (pair word : Nat)
  /-- QUEUE_DISABLE_DONE (R657). -/
  | queueDisableDone (pair : Nat)
  /-- SQ_TAIL_DOORBELL (R518). -/
  | sqTailDoorbell (pair value : Nat)
  /-- CQ_HEAD_DOORBELL (R518). -/
  | cqHeadDoorbell (pair value : Nat)
  /-- BAR0_WRITE (R515). -/
  | bar0Write (offset size value : Nat)
  /-- SQ_FETCH (R519). -/
  | sqFetch (pair : Nat) (read : HostRead)
  /-- COALESCE_TIMER (R525). -/
  | coalesceTimer (pair : Nat)
  /-- MSIX_UNMASK (R525). -/
  | msixUnmask (vector : Nat)
  /-- LINK_TRAINED (R514). -/
  | linkTrained (width rate : Nat)
  /-- HDM_COMMIT (R526). -/
  | hdmCommit (base size : Nat)
  /-- GET_LOG (R530). -/
  | getLog (input : Bytes)
  /-- CATALOGUE_TRANSACTION (R531). -/
  | catalogueTransaction (input : Bytes)
  /-- IMAGE_START (R532). -/
  | imageStart (xfer : ImageXfer)
  /-- IMAGE_DATA (R532). -/
  | imageData (xfer : ImageXfer)
  /-- IMAGE_END (R532). -/
  | imageEnd (xfer : ImageXfer)
  /-- IMAGE_WRITE_DONE (R613). -/
  | imageWriteDone (verified : Bool)
  /-- DOE_DISCOVERY (R513). -/
  | doeDiscovery (index : Nat)
  /-- CDAT (R513). -/
  | cdat (handle : Nat)
  /-- SPDM (R513). -/
  | spdm (request : Bytes)
  /-- IDE_KM (R513). -/
  | ideKm (request : Bytes)
  /-- CAP_READ (R559). -/
  | capRead (req : CapReq)
  /-- CAP_READ_PENDING (R542). -/
  | capReadPending (req : CapReq)
  /-- CAP_WRITE (R541). -/
  | capWrite (req : CapReq)
  /-- LOCK (R561). -/
  | lock (req : CapReq)
  /-- LOCK_FORCE (R562). -/
  | lockForce (req : CapReq)
  /-- UNLOCK (R561). -/
  | unlock (req : CapReq)
  /-- DESCRIBE (R549). -/
  | describe (req : CapReq)
  /-- PROVENANCE_NONCE_WRITE (R615). -/
  | provenanceNonceWrite (req : CapReq)
  /-- PROVENANCE_RECORD_READ (R615). -/
  | provenanceRecordRead (req : CapReq)
  /-- EVENT_RECORDS_READ (R583). -/
  | eventRecordsRead (req : CapReq)
  /-- CREATE_KEY (R603). -/
  | createKey (req : CapReq)
  /-- DESTROY (R605). -/
  | destroy (req : CapReq)
  /-- REGISTER_GRAPH_KEY (R604). -/
  | registerGraphKey (req : CapReq)
  /-- REMOVE_GRAPH_KEY (R604). -/
  | removeGraphKey (req : CapReq)
  /-- FENCE (R590). -/
  | fence (req : CapReq)
  /-- UNFENCE (R590). -/
  | unfence (req : CapReq)
  /-- EXPEL (R591). -/
  | expel (req : CapReq)
  /-- REINSTATE (R592). -/
  | reinstate (req : CapReq)
  /-- SET_FAULT_KEYS (R589). -/
  | setFaultKeys (req : CapReq)
  /-- FAULT_KEYS_WRITE (R589). -/
  | faultKeysWrite (req : CapReq)
  /-- COLD_RESET_REQUEST (R627). -/
  | coldResetRequest (req : CapReq)
  /-- WARM_RESET_REQUEST (R627). -/
  | warmResetRequest (req : CapReq)
  /-- DOMAIN_RESET_REQUEST (R627). -/
  | domainResetRequest (req : CapReq)
  /-- BLOCK_RESET_REQUEST (R627). -/
  | blockResetRequest (req : CapReq)
  /-- POWER_ON (R621). -/
  | powerOn (copyA copyB : Bool)
  /-- RAIL_UNDERVOLTAGE (R643). -/
  | railUndervoltage (rail : Nat)
  /-- RELEASE_POINT (R642). -/
  | releasePoint (straps : Nat)
  /-- DOMAIN_RELEASE (R618). -/
  | domainRelease (avsFails : Bool)
  /-- SELF_TEST_ESCALATION (R576). -/
  | selfTestEscalation (unit place : Nat)
  /-- JUNCTION_SENSOR_READ (R653). -/
  | junctionSensorRead (temps : List Nat)
  /-- BLOCK_QUIESCE (R628). -/
  | blockQuiesce (req : CapReq)
  /-- BLOCK_QUIESCED (R628). -/
  | blockQuiesced (block : Nat)
  /-- FUNCTION_DISABLE (R630). -/
  | functionDisable (req : CapReq)
  /-- FUNCTION_ENABLE (R630). -/
  | functionEnable (req : CapReq)
  /-- DRAIN_LIMIT (R630). -/
  | drainLimit (bit : Nat)
  /-- NEAP_REQUEST (R633). -/
  | neapRequest (req : CapReq)
  /-- ACTIVE_REQUEST (R635). -/
  | activeRequest (req : CapReq)
  /-- SLACK_ENTRY (R632). -/
  | slackEntry (cluster : Nat)
  /-- RAIL_CURRENT_SAMPLE (R25). -/
  | railCurrentSample (watts : Nat) (amps : List Nat)
  /-- MARGIN_SAMPLE (R584). -/
  | marginSample (millivolts slack : List Nat) (avsFails : Bool)
  /-- CMIS_POLL (R586). -/
  | cmisPoll (ports : List CmisPort)
  /-- TRNG_STARTUP_DONE (R600). -/
  | trngStartupDone (ok : Bool)
  /-- ERROR_EVENT (R567). -/
  | errorEvent (event : ErrorReport)
  /-- SELF_TEST_DONE (R573). -/
  | selfTestDone (unit place column : Nat) (passed : Bool)
  /-- SELF_TEST_REQUEST (R571). -/
  | selfTestRequest (req : CapReq)
  /-- STRAGGLER_HOLD_EXPIRY (R594). -/
  | stragglerHoldExpiry (node : Nat)
  /-- CHECKPOINT_INSTALLED (R377). -/
  | checkpointInstalled (berth : Nat)
  /-- TAP_INSTRUCTION (R650). -/
  | tapInstruction (tap : Tap)
  /-- MASTER_BOUNDARY (R41). -/
  | masterBoundary
  /-- MISSED_EDGE (R50). -/
  | missedEdge
  /-- COUNT_FRAME (R47). -/
  | countFrame
  /-- SUB_TICK (R37). -/
  | subTick
  /-- TIDE_UNIT_START (R39). -/
  | tideUnitStart
  /-- TW_APPLY (R59). -/
  | twApply
  /-- SLOT_SETTLE (R87). -/
  | slotSettle
  /-- INDEX_AGE_LIMIT (R88). -/
  | indexAgeLimit
  /-- RETIRED_RECLAIM (R240). -/
  | retiredReclaim
  /-- CHANGE_HELD_ACCEPT (R225). -/
  | changeHeldAccept
  /-- UPKEEP_WINDOW_OPEN (R241). -/
  | upkeepWindowOpen
  /-- UPKEEP_WINDOW_CLOSE (R241). -/
  | upkeepWindowClose
  /-- STACK_DEMOTION (R278). -/
  | stackDemotion
  /-- SHELF_DEMOTION (R279). -/
  | shelfDemotion
  /-- USAGE_REPORT (R380). -/
  | usageReport
  /-- LOAD_PERIOD (R392). -/
  | loadPeriod
  /-- GRANULE_FREE (R384). -/
  | granuleFree
  /-- FRESH_CLEAR (R384). -/
  | freshClear
  /-- FIRMWARE_FENCE (R417). -/
  | firmwareFence
  /-- REPLAY_ENTRY_EXPIRY (R459). -/
  | replayEntryExpiry
  /-- HISTOGRAM_PERIOD (R465). -/
  | histogramPeriod
  /-- JOURNAL_FLUSH (R488). -/
  | journalFlush
  /-- JOURNAL_FLUSH_DONE (R488). -/
  | journalFlushDone
  /-- REBUILD_DONE (R489). -/
  | rebuildDone
  /-- HOUSEKEEPING_WINDOW_OPEN (R496). -/
  | housekeepingWindowOpen
  /-- HOUSEKEEPING_WINDOW_CLOSE (R496). -/
  | housekeepingWindowClose
  /-- CONTROLLER_ENABLE (R516). -/
  | controllerEnable
  /-- READY_SET (R516). -/
  | readySet
  /-- CONTROLLER_DISABLE (R537). -/
  | controllerDisable
  /-- HOST_DISABLE_EFFECT (R537). -/
  | hostDisableEffect
  /-- HOST_DRAIN_LIMIT (R537). -/
  | hostDrainLimit
  /-- LINK_LOST_CLEAR (R535). -/
  | linkLostClear
  /-- LINK_LOSS (R535). -/
  | linkLoss
  /-- GET_SUPPORTED_LOGS (R530). -/
  | getSupportedLogs
  /-- IMAGE_VERIFY_DONE (R613). -/
  | imageVerifyDone
  /-- LOCK_EXPIRY (R561). -/
  | lockExpiry
  /-- SNAPSHOT_EXPIRY (R559). -/
  | snapshotExpiry
  /-- SIGNED_COMMAND_EFFECT (R588). -/
  | signedCommandEffect
  /-- RESET_ASSERT (R627). -/
  | resetAssert
  /-- RESET_N_LOW (R622). -/
  | resetNLow
  /-- RESET_N_RISE (R642). -/
  | resetNRise
  /-- CLOCK_STOP (R643). -/
  | clockStop
  /-- WATCHDOG_EXPIRY (R621). -/
  | watchdogExpiry
  /-- NEAP_POWER_OFF (R633). -/
  | neapPowerOff
  /-- NEAP_EXIT_DONE (R635). -/
  | neapExitDone
  /-- MARGIN_PERIOD (R584). -/
  | marginPeriod
  /-- TRNG_HEALTH_FAIL (R600). -/
  | trngHealthFail
  /-- FIRMWARE_IMAGE_STARTED (R619). -/
  | firmwareImageStarted
  deriving DecidableEq, Repr

end Sys2Proof
end

