-- ==== Sys2Proof/Config.lean ====
section
/-! DEFINITION. What one part has fused and what the manual leaves free: opaque constants with no body, so that no
proof can see a value of them (notes/assumptions/1.md to 9.md, 90.md, 94.md and 97.md name each one). -/

namespace Sys2Proof

/-- An IDE stream with its key (R513): on CXL.cachemem, else on CXL.io; in skid, else in containment mode. -/
structure IdeStream where
  cachemem : Bool
  skid : Bool
  key : Nat
  deriving DecidableEq, Repr, Inhabited

end Sys2Proof

namespace Sys2Proof.Config

open Sys2Proof

/-- SerialNumber (0x1000.04), fused per part. -/
opaque serialNumber : Nat
/-- MacAddress (0x1200.04), fused per part. -/
opaque macAddress : Nat
/-- IdentityModulus (0xA000.01), which follows from the fused device seed. -/
opaque identityModulus : Bytes
/-- IdentityKeyDigest (0x1000.07), fused at manufacture; R598 compares it with the digest of the derived key. -/
opaque identityKeyDigest : Nat
/-- IdentityCertificate (0xA000.02), issued at manufacture. -/
opaque identityCertificate : Bytes
/-- FirmwareKeyDigests (0xA000.03): the fused digest at each KeyIndex 0-3. -/
opaque firmwareKeyDigest : Nat → Nat
/-- The modulus whose digest is fused at a KeyIndex (R608): the ROM finds it by its digest. -/
opaque firmwareKeyModulus : Nat → Bytes
/-- JtagIdcode (0xB400.01), fused. -/
opaque jtagIdcode : Nat
/-- A private-key signature (RSASSA-PSS with a random salt) under the device identity key over a byte string, for the
n-th draw of the generator: 512 bytes that no rule fixes. -/
opaque identitySign : Nat → Bytes → Bytes
/-- The n-th 512-bit value drawn from the CTR_DRBG (R599). -/
opaque drbgDraw : Nat → BitVec 512
/-- A value that the manual leaves open, the n-th one met (the counter stands in State). -/
opaque freeValue : Nat → Nat
/-- What a counter reads once it has counted past its width: the manual states no wrap and no saturation. -/
opaque overflowed : Nat → Nat → Nat
/-- The byte layout of a Strand message whose type the manual names and whose fields it does not lay out: the words that
the firmware of every node reads from such a message (R446). -/
opaque decodeMessage : Nat → Bytes → Option (List Nat × List Bytes)
/-- The same layout in the other direction: the bytes of a message of such a type. -/
opaque encodeMessage : Nat → List Nat → List Bytes → Bytes
/-- Where the windows of a table's job put its storage, in job-relative addresses: the first line of the directory of a table (by TableId)
and shoal, and the first 512 bytes of a node's exported range (R382; the manual names neither place). -/
opaque directoryLine : Nat → Nat → Nat
opaque exportGranule : Nat → Nat → Nat
/-- What CXL 3.1, PCIe and SPDM lay out and the manual does not: the logs of the mailbox, the DOE answers (the CDAT by
handle, HdmBytes and the width and rate of the link), the IDE streams that a series of IDE_KM requests leaves keyed, where the
mailbox lies among the device registers and what a register reads that the host has not written. An answer to SPDM depends on the requests
so far and on the n-th random draw. -/
opaque supportedLogs : Bytes
opaque effectsLogUuid : BitVec 128
opaque effectsLog : Bytes
opaque doeDiscovery : Nat → Bytes
opaque cdat : Nat → Nat → Nat → Nat → Bytes
opaque mailboxBase : BitVec 16
opaque barDefault : Nat → BitVec 32
opaque spdmAnswer : Nat → List Bytes → Bytes
opaque ideKmAnswer : Nat → List Bytes → Bytes
opaque ideStreams : List Bytes → List IdeStream
/-- The firmware image that the reserved flash blocks hold when the part is delivered. -/
opaque factoryImage : Bytes
/-- A correctly rounded exponential or logarithm whose interval enclosure did not separate the two neighbours within the
precision the model carries: the bit pattern stays open. -/
opaque unroundedExp : Nat → Nat
opaque unroundedLog : Nat → Nat
/-- The node's storage key, which follows from the fused seed; an owner slot's key is a draw of `drbgDraw`. Key material is
never read out (R597). -/
opaque storageKey : BitVec 512

/-- The firmware's layout in region 5 (R474) of a berth record with its word (R361), of a flush (R488), and of a P entry's value (R547). -/
opaque encodeRecord : List Nat → Bytes
opaque encodeFlush : List (Nat × Nat) → Bytes
opaque encodeEntry : Nat → Nat → Bytes → Bytes
/-- The codeword of an owner slot's graph keys (R604): the Catalogue write count and the moduli. -/
opaque encodeGraphKeys : Nat → List Bytes → Bytes

end Sys2Proof.Config
end

