-- ==== Sys2Proof/Machine/Entries.lean ====
section
/-! DEFINITION. The entry tables of the Catalogue (R539, R540): one record per entry of the manual's tables, with its
type, access right, default, persistence class, range and moment of effect, and a name for every entry's key. -/

namespace Sys2Proof.Machine

open Sys2Proof

/-- An entry type of R540; `u w` is an unsigned integer of w bytes. -/
inductive Typ where
  | bool | u (w : Nat) | str | dom
  deriving DecidableEq, Repr

/-- An access right of the manual's table (R540 ff.). -/
inductive Access where
  | const | ro | rw | wo | tw
  deriving DecidableEq, Repr

/-- A persistence class (R546, R547). -/
inductive Class where
  | p | w | v
  deriving DecidableEq, Repr

/-- When a written RW value takes effect (R541). -/
inductive Moment where
  | boundary | once | warm | cold | training | visit
  deriving DecidableEq, Repr

/-- The range in an entry's Meaning (R544). -/
inductive Range where
  | any
  | nat (lo hi : Nat)
  | step (lo hi from_ by_ : Nat)
  | oneOf (vs : List Nat)
  | zeroOr (lo hi : Nat)
  | multiple (unit greatest : Nat)
  | exact (len : Nat)
  | codebook | schema | routes | jobs | windows | shapers
  deriving DecidableEq, Repr

/-- The value of an entry: a number, or a byte string for STRING and DOMAIN. -/
inductive Val where
  | n (v : Nat)
  | b (v : Bytes)
  deriving DecidableEq, Repr

/-- One row of an entry table; a family of `count` instances starts at index `base`. -/
structure Entry where
  base : Nat
  count : Nat
  sub : Nat
  name : String
  typ : Typ
  acc : Access
  cls : Class
  dflt : Val
  shared : Bool
  timed : Bool
  moment : Moment
  range : Range
  maxLen : Nat
  deriving DecidableEq, Repr

/-- The ASCII bytes of a name. -/
def asciiOf (s : String) : Bytes := s.toList.map fun c => BitVec.ofNat 8 c.toNat

/-- A number as `w` little-endian bytes (R5). -/
def leBytes : Nat → Nat → Bytes
  | 0, _ => []
  | w + 1, v => BitVec.ofNat 8 v :: leBytes w (v / 256)

/-- FirmwareKeyDigests (0xA000.03): four fused digests by KeyIndex. -/
def fusedKeyDigests : Bytes := (List.range 4).flatMap fun i => leBytes 8 (Config.firmwareKeyDigest i)

/-- The built counts of SpareInventory (0x9000.0A), R570's kinds in order: (kind, built, free at reset). Kinds 10 and 11
read 0 until flash enumeration ends. -/
def spareKinds : List (Nat × Nat × Nat) := [(1, 36, 36), (2, 4, 4), (3, 72, 72), (4, 72, 72), (5, 271360, 271360), (6, 135680, 135680), (7, 4194304, 4194304), (8, 1024, 1024), (9, 6, 6), (10, 0, 0), (11, 0, 0), (12, 128, 128)]

/-- One 12-byte record of SpareInventory. -/
def spareRecord (kind built free : Nat) : Bytes := leBytes 4 kind ++ leBytes 4 built ++ leBytes 4 free

def builtSpares : Bytes := spareKinds.flatMap fun k => spareRecord k.1 k.2.1 k.2.2

/-- The default weight of each egress queue (the class table of R462). -/
def queueWeights : List Nat := [1, 1, 8, 16, 8, 4, 8, 4, 2, 1, 1, 1, 1, 1, 1, 1]

/-- ShaperTable's default: Rate 0, Burst 65,536 and the class weights, 12 bytes a queue (0x75pp.01). -/
def shaperDefaults : Bytes := queueWeights.flatMap fun w => leBytes 4 0 ++ leBytes 4 65536 ++ leBytes 4 w

/-- SliceMap's default: home slot h at logical cluster h (0x3500.01). -/
def sliceMapDefault : Bytes := (List.range 32).map (BitVec.ofNat 8)

/-- SlotStates' default: slot 0 is Node (3), the others Empty (0xA100.02). -/
def slotStatesDefault : Bytes := 3 :: List.replicate 4095 0

/-- Entry tables, part 0. -/
def entries0 : List Entry := [
  ⟨0x1000, 1, 0x01, "VendorName", .str, .const, .p, .b (asciiOf "Lumeitrix"), false, false, .boundary, .any, 255⟩,
  ⟨0x1000, 1, 0x02, "OrderingCode", .str, .const, .p, .b (asciiOf "LMX-TK960"), false, false, .boundary, .any, 255⟩,
  ⟨0x1000, 1, 0x03, "Stepping", .str, .const, .p, .b (asciiOf "B1"), false, false, .boundary, .any, 255⟩,
  ⟨0x1000, 1, 0x04, "SerialNumber", .u 8, .const, .p, .n Config.serialNumber, false, false, .boundary, .any, 8⟩,
  ⟨0x1000, 1, 0x05, "FirmwareVersion", .u 4, .ro, .v, .n 0, false, false, .boundary, .any, 4⟩,
  ⟨0x1000, 1, 0x06, "FirmwareDigest", .u 8, .ro, .v, .n 0, false, false, .boundary, .any, 8⟩,
  ⟨0x1000, 1, 0x07, "IdentityKeyDigest", .u 8, .const, .p, .n Config.identityKeyDigest, false, false, .boundary, .any, 8⟩,
  ⟨0x1000, 1, 0x08, "CatalogueVersion", .u 2, .const, .p, .n 1, false, false, .boundary, .any, 2⟩,
  ⟨0x1000, 1, 0x09, "ConfigGeneration", .u 8, .ro, .p, .n 0, false, false, .boundary, .any, 8⟩,
  ⟨0x1000, 1, 0x0A, "ConfigDigest", .u 8, .ro, .v, .n 0, false, false, .boundary, .any, 8⟩,
  ⟨0x1000, 1, 0x0B, "ConfigState", .dom, .ro, .v, .b [], false, false, .boundary, .any, 24⟩,
  ⟨0x1000, 1, 0x0C, "ScopeDigests", .dom, .ro, .v, .b [], false, false, .boundary, .any, 8208⟩,
  ⟨0x1000, 1, 0x0D, "WriteLockHolder", .dom, .ro, .v, .b [], false, false, .boundary, .any, 16⟩,
  ⟨0x1000, 1, 0x0E, "CatalogueWrites", .u 8, .ro, .p, .n 0, false, false, .boundary, .any, 8⟩,
  ⟨0x1100, 1, 0x01, "BuiltClusters", .u 1, .const, .p, .n 36, false, false, .boundary, .any, 1⟩,
  ⟨0x1100, 1, 0x02, "ActiveClusters", .u 1, .ro, .v, .n 32, false, false, .boundary, .any, 1⟩,
  ⟨0x1100, 1, 0x03, "ActiveCores", .u 2, .ro, .v, .n 512, false, false, .boundary, .any, 2⟩,
  ⟨0x1100, 1, 0x04, "SpareCoresFree", .u 1, .ro, .p, .n 32, false, false, .boundary, .any, 1⟩,
  ⟨0x1100, 1, 0x05, "SpareClustersFree", .u 1, .ro, .p, .n 4, false, false, .boundary, .any, 1⟩,
  ⟨0x1100, 1, 0x06, "ActiveMatrixEngines", .u 1, .ro, .v, .n 32, false, false, .boundary, .any, 1⟩,
  ⟨0x1100, 1, 0x07, "StackBytes", .u 8, .ro, .v, .n 687194767360, false, false, .boundary, .any, 8⟩,
  ⟨0x1100, 1, 0x08, "ShelfBytes", .u 8, .ro, .v, .n 17179869184, false, false, .boundary, .any, 8⟩,
  ⟨0x1100, 1, 0x09, "FlashRawBytes", .u 8, .ro, .v, .n 0, false, false, .boundary, .any, 8⟩,
  ⟨0x1100, 1, 0x0A, "ClusterClockMHz", .u 2, .ro, .v, .n 2500, false, false, .boundary, .any, 2⟩,
  ⟨0x1200, 1, 0x01, "FieldNodeId", .u 1, .rw, .p, .n 255, false, false, .warm, .any, 1⟩,
  ⟨0x1200, 1, 0x02, "PlcaNodeCount", .u 1, .rw, .p, .n 8, false, false, .warm, (.nat 1 255), 1⟩,
  ⟨0x1200, 1, 0x03, "PlcaMaxBurst", .u 1, .rw, .p, .n 0, false, false, .warm, .any, 1⟩,
  ⟨0x1200, 1, 0x04, "MacAddress", .u 8, .const, .p, .n Config.macAddress, false, false, .boundary, .any, 8⟩,
  ⟨0x1200, 1, 0x05, "FieldWriteEnable", .bool, .rw, .p, .n 1, false, false, .once, .any, 1⟩,
  ⟨0x1200, 1, 0x06, "LockLeaseTides", .u 4, .rw, .p, .n 10000, false, true, .boundary, (.nat 100 1000000), 4⟩,
  ⟨0x1200, 1, 0x07, "CapSessionsMax", .u 1, .const, .p, .n 16, false, false, .boundary, .any, 1⟩,
  ⟨0x1200, 1, 0x08, "CapRequests", .u 8, .ro, .v, .n 0, false, false, .boundary, .any, 8⟩,
  ⟨0x1200, 1, 0x09, "CapErrors", .u 8, .ro, .v, .n 0, false, false, .boundary, .any, 8⟩,
  ⟨0x1200, 1, 0x0A, "FramesDiscarded", .u 8, .ro, .v, .n 0, false, false, .boundary, .any, 8⟩,
  ⟨0x1200, 1, 0x0B, "LockForceBreaks", .u 4, .ro, .w, .n 0, false, false, .boundary, .any, 4⟩,
  ⟨0x1200, 1, 0x0C, "PlcaState", .u 1, .ro, .v, .n 0, false, false, .boundary, .any, 1⟩,
  ⟨0x2000, 1, 0x01, "TideCount", .u 8, .ro, .v, .n 0, false, false, .boundary, .any, 8⟩,
  ⟨0x2000, 1, 0x02, "TidePhase", .u 2, .ro, .v, .n 0, false, false, .boundary, .any, 2⟩,
  ⟨0x2000, 1, 0x03, "TideState", .u 1, .ro, .v, .n 0, false, false, .boundary, .any, 1⟩,
  ⟨0x2000, 1, 0x04, "MissedRun", .u 1, .ro, .v, .n 0, false, false, .boundary, .any, 1⟩]

/-- Entry tables, part 1. -/
def entries1 : List Entry := [
  ⟨0x2000, 1, 0x05, "MissedTotal", .u 4, .ro, .w, .n 0, false, false, .boundary, .any, 4⟩,
  ⟨0x2000, 1, 0x06, "TwPending", .u 2, .ro, .v, .n 0, false, false, .boundary, .any, 2⟩,
  ⟨0x2000, 1, 0x07, "TwMissed", .u 4, .ro, .w, .n 0, false, false, .boundary, .any, 4⟩,
  ⟨0x2000, 1, 0x08, "BeaconMismatch", .u 4, .ro, .v, .n 0, false, false, .boundary, .any, 4⟩,
  ⟨0x2000, 1, 0x09, "GlitchEdges", .u 4, .ro, .v, .n 0, false, false, .boundary, .any, 4⟩,
  ⟨0x2000, 1, 0x0A, "LastLockTide", .u 8, .ro, .v, .n 0, false, false, .boundary, .any, 8⟩,
  ⟨0x2000, 1, 0x0B, "MeasuredPeriodNs", .u 4, .ro, .v, .n 0, false, false, .boundary, .any, 4⟩,
  ⟨0x2000, 1, 0x0C, "TideFaults", .u 1, .ro, .v, .n 0, false, false, .boundary, .any, 1⟩,
  ⟨0x2000, 1, 0x0D, "HoldoverEdges", .u 1, .const, .p, .n 3, false, false, .boundary, .any, 1⟩,
  ⟨0x2000, 1, 0x0E, "AdriftEdges", .u 1, .const, .p, .n 64, false, false, .boundary, .any, 1⟩,
  ⟨0x2100, 1, 0x01, "TideRole", .u 1, .rw, .p, .n 0, false, false, .warm, (.nat 0 1), 1⟩,
  ⟨0x2100, 1, 0x02, "TidePeriodNs", .u 4, .rw, .p, .n 100000, false, false, .warm, (.step 10000 1000000 0 10), 4⟩,
  ⟨0x2100, 1, 0x03, "TideInDelayNs", .u 2, .rw, .p, .n 0, false, false, .warm, .any, 2⟩,
  ⟨0x2100, 1, 0x04, "TideStartCount", .u 8, .rw, .p, .n 1, false, false, .warm, (.nat 1 0xFFFFFFFFFFFF), 8⟩,
  ⟨0x2100, 1, 0x05, "TideHighWater", .u 8, .ro, .p, .n 0, false, false, .boundary, .any, 8⟩,
  ⟨0x2100, 1, 0x06, "TwLeadMin", .u 4, .rw, .p, .n 8, false, true, .boundary, (.nat 2 65536), 4⟩,
  ⟨0x2100, 1, 0x07, "QueryStampWindow", .u 2, .rw, .p, .n 256, false, true, .boundary, (.nat 16 4096), 2⟩,
  ⟨0x3000, 1, 0x01, "ShelfTierBytes", .u 8, .rw, .p, .n 2147483648, false, true, .boundary, (.step 0 12884901888 0 65536), 8⟩,
  ⟨0x3000, 1, 0x02, "StackLowMarkPages", .u 4, .rw, .p, .n 4096, false, true, .boundary, (.nat 256 1048576), 4⟩,
  ⟨0x3000, 1, 0x03, "StackHighMarkPages", .u 4, .rw, .p, .n 8192, false, true, .boundary, (.nat 0 2097152), 4⟩,
  ⟨0x3000, 1, 0x04, "ShelfPromoteCount", .u 1, .rw, .p, .n 12, false, true, .boundary, (.nat 0 16), 1⟩,
  ⟨0x3000, 1, 0x05, "PinnedMaxPages", .u 4, .rw, .p, .n 65536, false, true, .boundary, (.nat 0 1048576), 4⟩,
  ⟨0x3000, 1, 0x06, "FixedPages", .u 4, .ro, .v, .n 0, false, false, .boundary, .any, 4⟩,
  ⟨0x3000, 1, 0x07, "ExportedPages", .u 4, .ro, .v, .n 0, false, false, .boundary, .any, 4⟩,
  ⟨0x3000, 1, 0x08, "TieredShelfPages", .u 4, .ro, .v, .n 0, false, false, .boundary, .any, 4⟩,
  ⟨0x3000, 1, 0x09, "TieredStackPages", .u 4, .ro, .v, .n 0, false, false, .boundary, .any, 4⟩,
  ⟨0x3000, 1, 0x0A, "TieredFlashPages", .u 8, .ro, .v, .n 0, false, false, .boundary, .any, 8⟩,
  ⟨0x3000, 1, 0x0B, "FreeStackPages", .u 4, .ro, .v, .n 0, false, false, .boundary, .any, 4⟩,
  ⟨0x3000, 1, 0x0C, "Promotions", .u 8, .ro, .v, .n 0, false, false, .boundary, .any, 8⟩,
  ⟨0x3000, 1, 0x0D, "Demotions", .u 8, .ro, .v, .n 0, false, false, .boundary, .any, 8⟩,
  ⟨0x3000, 1, 0x0E, "CancelledMoves", .u 8, .ro, .v, .n 0, false, false, .boundary, .any, 8⟩,
  ⟨0x3000, 1, 0x0F, "HeldHostAccesses", .u 8, .ro, .v, .n 0, false, false, .boundary, .any, 8⟩,
  ⟨0x3000, 1, 0x10, "MaxHoldNs", .u 4, .ro, .v, .n 0, false, false, .boundary, .any, 4⟩,
  ⟨0x3000, 1, 0x11, "AllocationStalls", .u 8, .ro, .v, .n 0, false, false, .boundary, .any, 8⟩,
  ⟨0x3000, 1, 0x12, "OldestStackAge", .u 8, .ro, .v, .n 0, false, false, .boundary, .any, 8⟩,
  ⟨0x3000, 1, 0x13, "ExportBytes", .u 8, .rw, .p, .n 0, false, false, .cold, (.step 0 343597383680 0 268435456), 8⟩,
  ⟨0x3000, 1, 0x14, "SweepPending", .u 2, .ro, .v, .n 0, false, false, .boundary, .any, 2⟩,
  ⟨0x3100, 1, 0x01, "HdmBytes", .u 8, .rw, .p, .n 0, false, false, .cold, (.step 0 549755813888 0 268435456), 8⟩,
  ⟨0x3100, 1, 0x02, "HdmOwnerSlot", .u 2, .rw, .p, .n 0, false, false, .cold, .any, 2⟩,
  ⟨0x3100, 1, 0x03, "HdmPinRanges", .dom, .rw, .p, .b [], false, false, .boundary, (.multiple 16 256), 256⟩]

/-- Entry tables, part 2. -/
def entries2 : List Entry := [
  ⟨0x3100, 1, 0x04, "HdmBackedPages", .u 4, .ro, .v, .n 0, false, false, .boundary, .any, 4⟩,
  ⟨0x3100, 1, 0x05, "HdmFlashReserved", .u 8, .ro, .v, .n 0, false, false, .boundary, .any, 8⟩,
  ⟨0x3200, 1, 0x01, "WindowBytesInUse", .u 8, .ro, .v, .n 0, false, false, .boundary, .any, 8⟩,
  ⟨0x3200, 1, 0x02, "WindowStreamBytes", .u 8, .ro, .v, .n 0, false, false, .boundary, .any, 8⟩,
  ⟨0x3200, 1, 0x03, "WindowWaitNs", .u 8, .ro, .v, .n 0, false, false, .boundary, .any, 8⟩,
  ⟨0x3200, 1, 0x04, "WindowShelfMax", .u 8, .rw, .p, .n 8589934592, false, true, .boundary, (.nat 0 15032385536), 8⟩,
  ⟨0x3300, 1, 0x01, "NearBankDutyMax", .u 1, .rw, .p, .n 16, false, true, .boundary, (.nat 1 16), 1⟩,
  ⟨0x3300, 1, 0x02, "ExternalBurstMax", .u 1, .rw, .p, .n 8, false, true, .boundary, (.nat 1 32), 1⟩,
  ⟨0x3300, 1, 0x03, "RefreshSkip", .bool, .rw, .p, .n 1, false, false, .visit, .any, 1⟩,
  ⟨0x3300, 1, 0x04, "NeighbourRefreshLimit", .u 4, .rw, .p, .n 16384, false, false, .once, (.nat 1024 65536), 4⟩,
  ⟨0x3300, 1, 0x05, "SequenceQueueDepth", .u 1, .const, .p, .n 8, false, false, .boundary, .any, 1⟩,
  ⟨0x3300, 1, 0x06, "MaxSequenceCommands", .u 4, .const, .p, .n 65536, false, false, .boundary, .any, 4⟩,
  ⟨0x3300, 1, 0x07, "NearBankClockMHz", .u 2, .const, .p, .n 1000, false, false, .boundary, .any, 2⟩,
  ⟨0x3400, 1, 0x01, "SequencesCompleted", .u 8, .ro, .v, .n 0, false, false, .boundary, .any, 8⟩,
  ⟨0x3400, 1, 0x02, "SequencesFailed", .u 8, .ro, .v, .n 0, false, false, .boundary, .any, 8⟩,
  ⟨0x3400, 1, 0x03, "RowOpens", .u 8, .ro, .v, .n 0, false, false, .boundary, .any, 8⟩,
  ⟨0x3400, 1, 0x04, "RowWrites", .u 8, .ro, .v, .n 0, false, false, .boundary, .any, 8⟩,
  ⟨0x3400, 1, 0x05, "ExternalPreemptions", .u 8, .ro, .v, .n 0, false, false, .boundary, .any, 8⟩,
  ⟨0x3400, 1, 0x06, "RefreshEvents", .u 8, .ro, .v, .n 0, false, false, .boundary, .any, 8⟩,
  ⟨0x3400, 1, 0x07, "RefreshSkipped", .u 8, .ro, .v, .n 0, false, false, .boundary, .any, 8⟩,
  ⟨0x3400, 1, 0x08, "NeighbourRefreshes", .u 8, .ro, .v, .n 0, false, false, .boundary, .any, 8⟩,
  ⟨0x3400, 1, 0x09, "RefreshWindowMs", .dom, .ro, .v, .b (List.replicate 8 32), false, false, .boundary, .any, 8⟩,
  ⟨0x3400, 1, 0x0A, "StackTempC", .dom, .ro, .v, .b (List.replicate 8 0), false, false, .boundary, .any, 8⟩,
  ⟨0x3400, 1, 0x0B, "DutyInForce", .dom, .ro, .v, .b (List.replicate 8 16), false, false, .boundary, .any, 8⟩,
  ⟨0x3400, 1, 0x0C, "EmulatedBanks", .u 2, .ro, .p, .n 0, false, false, .boundary, .any, 2⟩,
  ⟨0x3400, 1, 0x0D, "MaxExternalWaitNs", .u 2, .ro, .v, .n 0, false, false, .boundary, .any, 2⟩,
  ⟨0x3400, 1, 0x0E, "SaturatedOutputs", .u 8, .ro, .v, .n 0, false, false, .boundary, .any, 8⟩,
  ⟨0x3500, 1, 0x01, "SliceMap", .dom, .ro, .w, .b sliceMapDefault, false, false, .boundary, .any, 32⟩,
  ⟨0x3500, 1, 0x02, "LostLines", .dom, .ro, .w, .b [], false, false, .boundary, .any, 32768⟩,
  ⟨0x3500, 1, 0x03, "LostLineCount", .u 2, .ro, .w, .n 0, false, false, .boundary, .any, 2⟩,
  ⟨0x3500, 1, 0x04, "DirectoryRecalls", .u 8, .ro, .v, .n 0, false, false, .boundary, .any, 8⟩,
  ⟨0x3500, 1, 0x05, "CoarseEntries", .u 8, .ro, .v, .n 0, false, false, .boundary, .any, 8⟩,
  ⟨0x3500, 1, 0x06, "SliceAtomics", .u 8, .ro, .v, .n 0, false, false, .boundary, .any, 8⟩,
  ⟨0x3500, 1, 0x07, "MemoryAtomics", .u 8, .ro, .v, .n 0, false, false, .boundary, .any, 8⟩,
  ⟨0x3500, 1, 0x08, "HostBackInvalidates", .u 8, .ro, .v, .n 0, false, false, .boundary, .any, 8⟩,
  ⟨0x3500, 1, 0x09, "WritebackOps", .u 8, .ro, .v, .n 0, false, false, .boundary, .any, 8⟩,
  ⟨0x3500, 1, 0x0A, "DirectoryEntries", .u 4, .const, .p, .n 32768, false, false, .boundary, .any, 4⟩,
  ⟨0x4000, 1, 0x01, "MaxCollections", .u 2, .const, .p, .n 256, false, false, .boundary, .any, 2⟩,
  ⟨0x4000, 1, 0x02, "LeafIdsUsed", .u 4, .ro, .v, .n 0, false, false, .boundary, .any, 4⟩,
  ⟨0x4000, 1, 0x03, "LeafIdsMax", .u 4, .const, .p, .n 3710976, false, false, .boundary, .any, 4⟩]

/-- Entry tables, part 3. -/
def entries3 : List Entry := [
  ⟨0x4000, 1, 0x04, "ItemSlotsMax", .u 8, .const, .p, .n 3800039424, false, false, .boundary, .any, 8⟩,
  ⟨0x4000, 1, 0x05, "ShoalsHeld", .u 2, .ro, .v, .n 0, false, false, .boundary, .any, 2⟩,
  ⟨0x4000, 1, 0x06, "TreeShelfBudget", .u 8, .rw, .p, .n 2147483648, false, true, .boundary, (.nat 0 8589934592), 8⟩,
  ⟨0x4000, 1, 0x07, "LowWaterStamp", .u 8, .ro, .v, .n 0, false, false, .boundary, .any, 8⟩,
  ⟨0x4000, 1, 0x08, "IndexAgeLimit", .u 2, .const, .p, .n 4096, false, false, .boundary, .any, 2⟩,
  ⟨0x4000, 1, 0x09, "SettleLagMax", .u 2, .const, .p, .n 6144, false, false, .boundary, .any, 2⟩,
  ⟨0x4000, 1, 0x0A, "LedgerUsed", .u 4, .ro, .v, .n 0, false, false, .boundary, .any, 4⟩,
  ⟨0x4000, 1, 0x0B, "LedgerRefusals", .u 4, .ro, .w, .n 0, false, false, .boundary, .any, 4⟩,
  ⟨0x4000, 1, 0x0C, "QueriesInFlight", .u 2, .ro, .v, .n 0, false, false, .boundary, .any, 2⟩,
  ⟨0x4000, 1, 0x0D, "QueryTableSize", .u 2, .const, .p, .n 4096, false, false, .boundary, .any, 2⟩,
  ⟨0x4000, 1, 0x0E, "FragmentTableSize", .u 2, .const, .p, .n 16384, false, false, .boundary, .any, 2⟩,
  ⟨0x4000, 1, 0x0F, "FragmentsReissued", .u 4, .ro, .w, .n 0, false, false, .boundary, .any, 4⟩,
  ⟨0x4000, 1, 0x10, "SelectPassK", .u 2, .const, .p, .n 256, false, false, .boundary, .any, 2⟩,
  ⟨0x4000, 1, 0x11, "MaxK", .u 2, .const, .p, .n 4096, false, false, .boundary, .any, 2⟩,
  ⟨0x4000, 1, 0x12, "MergeListsMax", .u 4, .const, .p, .n 65536, false, false, .boundary, .any, 4⟩,
  ⟨0x4000, 1, 0x13, "DuplicatesDropped", .u 8, .ro, .v, .n 0, false, false, .boundary, .any, 8⟩,
  ⟨0x4000, 1, 0x14, "TieCompletions", .u 8, .ro, .v, .n 0, false, false, .boundary, .any, 8⟩,
  ⟨0x4000, 1, 0x15, "NaNSelected", .u 8, .ro, .v, .n 0, false, false, .boundary, .any, 8⟩,
  ⟨0x4000, 1, 0x16, "ChangeCutoffPhase", .u 2, .rw, .p, .n 768, false, true, .boundary, (.nat 512 960), 2⟩,
  ⟨0x4000, 1, 0x17, "ReplicaAckLimit", .u 2, .rw, .p, .n 16, false, true, .boundary, (.nat 4 1024), 2⟩,
  ⟨0x4000, 1, 0x18, "IntakeGiveUp", .u 1, .rw, .p, .n 48, false, true, .boundary, (.nat 8 255), 1⟩,
  ⟨0x4000, 1, 0x19, "ChangeTableSize", .u 4, .const, .p, .n 65536, false, false, .boundary, .any, 4⟩,
  ⟨0x4000, 1, 0x1A, "UpkeepPeriod", .u 2, .rw, .p, .n 1024, false, true, .boundary, (.nat 64 65535), 2⟩,
  ⟨0x4000, 1, 0x1B, "UpkeepLength", .u 2, .rw, .p, .n 128, false, true, .boundary, (.nat 1 65535), 2⟩,
  ⟨0x4000, 1, 0x1C, "UpkeepOffset", .u 2, .rw, .p, .n 0, false, true, .boundary, (.nat 0 65534), 2⟩,
  ⟨0x4000, 1, 0x1D, "MoveBudget", .u 4, .rw, .p, .n 32, false, true, .boundary, (.nat 0 1024), 4⟩,
  ⟨0x4000, 1, 0x1E, "FullTreeRefusals", .u 4, .ro, .w, .n 0, false, false, .boundary, .any, 4⟩,
  ⟨0x4000, 1, 0x1F, "ItemsMoved", .u 8, .ro, .v, .n 0, false, false, .boundary, .any, 8⟩,
  ⟨0x4100, 256, 0x01, "CollectionId", .u 4, .rw, .p, .n 0, true, false, .once, .any, 4⟩,
  ⟨0x4100, 256, 0x02, "Metric", .u 1, .rw, .p, .n 0, true, false, .boundary, (.nat 0 3), 1⟩,
  ⟨0x4100, 256, 0x03, "Format", .u 1, .rw, .p, .n 1, true, false, .boundary, (.nat 0 6), 1⟩,
  ⟨0x4100, 256, 0x04, "Dimension", .u 2, .rw, .p, .n 1024, true, false, .boundary, (.step 128 4096 0 64), 2⟩,
  ⟨0x4100, 256, 0x05, "PqBytes", .u 1, .rw, .p, .n 64, true, false, .boundary, (.oneOf [0, 16, 32, 64, 128]), 1⟩,
  ⟨0x4100, 256, 0x06, "MetadataBytes", .u 2, .rw, .p, .n 0, true, false, .boundary, (.nat 0 256), 2⟩,
  ⟨0x4100, 256, 0x07, "SketchSeed", .u 8, .rw, .p, .n 1, true, false, .boundary, (.nat 1 0xFFFFFFFFFFFFFFFF), 8⟩,
  ⟨0x4100, 256, 0x08, "ShoalCount", .u 4, .rw, .p, .n 1, true, false, .boundary, (.nat 1 65536), 4⟩,
  ⟨0x4100, 256, 0x09, "ShelfLevels", .u 1, .rw, .p, .n 3, false, false, .boundary, (.nat 0 8), 1⟩,
  ⟨0x4100, 256, 0x0A, "OwnerSlot", .u 2, .rw, .p, .n 0, true, false, .boundary, .any, 2⟩,
  ⟨0x4100, 256, 0x0B, "JobId", .u 2, .rw, .p, .n 0, true, false, .boundary, .any, 2⟩,
  ⟨0x4100, 256, 0x0C, "Codebook", .dom, .rw, .p, .b [], true, false, .boundary, (.codebook), 2097152⟩]

/-- Entry tables, part 4. -/
def entries4 : List Entry := [
  ⟨0x4100, 256, 0x0D, "MetadataSchema", .dom, .rw, .p, .b [], true, false, .boundary, (.schema), 256⟩,
  ⟨0x4100, 256, 0x0F, "CollectionControl", .u 1, .tw, .v, .n 0, true, false, .boundary, (.nat 1 2), 1⟩,
  ⟨0x4100, 256, 0x10, "PrefetchWidth", .u 1, .rw, .p, .n 4, false, false, .boundary, (.nat 1 16), 1⟩,
  ⟨0x4100, 256, 0x11, "PrefetchPerLeaf", .u 1, .rw, .p, .n 8, false, false, .boundary, (.nat 0 64), 1⟩,
  ⟨0x4100, 256, 0x12, "DefaultDeadline", .u 4, .rw, .p, .n 20480, false, true, .boundary, (.nat 1024 4194304), 4⟩,
  ⟨0x4100, 256, 0x13, "ReturnMargin", .u 2, .rw, .p, .n 256, false, true, .boundary, (.nat 0 8192), 2⟩,
  ⟨0x4100, 256, 0x14, "CompactionTombPercent", .u 1, .rw, .p, .n 25, false, true, .boundary, (.nat 5 90), 1⟩,
  ⟨0x4100, 256, 0x15, "MergeLiveMax", .u 2, .rw, .p, .n 256, false, true, .boundary, (.nat 0 512), 2⟩,
  ⟨0x4100, 256, 0x16, "RebalanceRadiusPercent", .u 2, .rw, .p, .n 150, false, true, .boundary, (.nat 110 1000), 2⟩,
  ⟨0x4200, 256, 0x01, "CollectionState", .u 1, .ro, .p, .n 0, false, false, .boundary, .any, 1⟩,
  ⟨0x4200, 256, 0x02, "ShoalsHere", .u 2, .ro, .v, .n 0, false, false, .boundary, .any, 2⟩,
  ⟨0x4200, 256, 0x03, "VisibleItems", .u 8, .ro, .v, .n 0, false, false, .boundary, .any, 8⟩,
  ⟨0x4200, 256, 0x04, "Leaves", .u 4, .ro, .v, .n 0, false, false, .boundary, .any, 4⟩,
  ⟨0x4200, 256, 0x05, "TreeLevels", .u 1, .ro, .v, .n 0, false, false, .boundary, .any, 1⟩,
  ⟨0x4200, 256, 0x06, "ShelfTreeBytes", .u 8, .ro, .v, .n 0, false, false, .boundary, .any, 8⟩,
  ⟨0x4200, 256, 0x07, "DisplacedTreeBytes", .u 8, .ro, .v, .n 0, false, false, .boundary, .any, 8⟩,
  ⟨0x4200, 256, 0x08, "RecordBytes", .u 8, .ro, .v, .n 0, false, false, .boundary, .any, 8⟩,
  ⟨0x4200, 256, 0x09, "OpenItems", .u 8, .ro, .v, .n 0, false, false, .boundary, .any, 8⟩,
  ⟨0x4200, 256, 0x0A, "QueriesLed", .u 8, .ro, .v, .n 0, false, false, .boundary, .any, 8⟩,
  ⟨0x4200, 256, 0x0B, "FragmentsServed", .u 8, .ro, .v, .n 0, false, false, .boundary, .any, 8⟩,
  ⟨0x4200, 256, 0x0C, "Uncertified", .u 8, .ro, .v, .n 0, false, false, .boundary, .any, 8⟩,
  ⟨0x4200, 256, 0x0D, "VerifyReads", .u 8, .ro, .v, .n 0, false, false, .boundary, .any, 8⟩,
  ⟨0x4200, 256, 0x0E, "PrefetchUnused", .u 8, .ro, .v, .n 0, false, false, .boundary, .any, 8⟩,
  ⟨0x4200, 256, 0x0F, "OpenQueries", .u 8, .ro, .v, .n 0, false, false, .boundary, .any, 8⟩,
  ⟨0x4200, 256, 0x10, "AccessionsCommitted", .u 8, .ro, .v, .n 0, false, false, .boundary, .any, 8⟩,
  ⟨0x4200, 256, 0x11, "DeaccessionsCommitted", .u 8, .ro, .v, .n 0, false, false, .boundary, .any, 8⟩,
  ⟨0x4200, 256, 0x12, "Upserts", .u 8, .ro, .v, .n 0, false, false, .boundary, .any, 8⟩,
  ⟨0x4200, 256, 0x13, "AbsentDeaccessions", .u 8, .ro, .v, .n 0, false, false, .boundary, .any, 8⟩,
  ⟨0x4200, 256, 0x14, "ShoalCopyStates", .dom, .ro, .v, .b [], false, false, .boundary, .any, 2048⟩,
  ⟨0x4200, 256, 0x15, "StaleEvents", .u 4, .ro, .w, .n 0, false, false, .boundary, .any, 4⟩,
  ⟨0x4200, 256, 0x16, "RetiredEntries", .u 8, .ro, .v, .n 0, false, false, .boundary, .any, 8⟩,
  ⟨0x4300, 256, 0x01, "ShoalMap", .dom, .tw, .p, .b [], true, false, .boundary, (.multiple 8 524288), 524288⟩,
  ⟨0x5000, 1, 0x01, "MaxIntReduction", .u 4, .const, .p, .n 131071, false, false, .boundary, .any, 4⟩,
  ⟨0x5000, 1, 0x02, "MaxFloatReduction", .u 4, .const, .p, .n 1048576, false, false, .boundary, .any, 4⟩,
  ⟨0x5000, 1, 0x03, "QuantisedRows", .u 8, .ro, .v, .n 0, false, false, .boundary, .any, 8⟩,
  ⟨0x5000, 1, 0x04, "ZeroScaleRows", .u 8, .ro, .v, .n 0, false, false, .boundary, .any, 8⟩,
  ⟨0x5000, 1, 0x05, "NonFiniteRows", .u 8, .ro, .v, .n 0, false, false, .boundary, .any, 8⟩,
  ⟨0x5000, 1, 0x06, "SeedsDrawn", .u 4, .ro, .v, .n 0, false, false, .boundary, .any, 4⟩,
  ⟨0x5000, 1, 0x07, "StochasticRows", .u 8, .ro, .v, .n 0, false, false, .boundary, .any, 8⟩,
  ⟨0x5000, 1, 0x08, "OverflowOutputs", .u 8, .ro, .v, .n 0, false, false, .boundary, .any, 8⟩]

/-- Entry tables, part 5. -/
def entries5 : List Entry := [
  ⟨0x5000, 1, 0x09, "GraphSlots", .u 2, .const, .p, .n 255, false, false, .boundary, .any, 2⟩,
  ⟨0x5000, 1, 0x0A, "GraphClusterMax", .u 1, .rw, .p, .n 16, false, true, .boundary, (.nat 1 32), 1⟩,
  ⟨0x5000, 1, 0x0B, "RunTableSize", .u 2, .const, .p, .n 1024, false, false, .boundary, .any, 2⟩,
  ⟨0x5000, 1, 0x0C, "RunsInFlight", .u 2, .ro, .v, .n 0, false, false, .boundary, .any, 2⟩,
  ⟨0x5000, 1, 0x0D, "RunsCompleted", .u 8, .ro, .v, .n 0, false, false, .boundary, .any, 8⟩,
  ⟨0x5000, 1, 0x0E, "RunsFailed", .u 8, .ro, .v, .n 0, false, false, .boundary, .any, 8⟩,
  ⟨0x5000, 1, 0x0F, "DefaultRunDeadline", .u 4, .rw, .p, .n 0, false, true, .boundary, (.nat 0 4194304), 4⟩,
  ⟨0x5000, 1, 0x10, "IndexFaults", .u 8, .ro, .v, .n 0, false, false, .boundary, .any, 8⟩,
  ⟨0x5000, 1, 0x11, "LoadsRefused", .u 4, .ro, .w, .n 0, false, false, .boundary, .any, 4⟩,
  ⟨0x5000, 1, 0x12, "MaxImageBytes", .u 8, .const, .p, .n 68719476736, false, false, .boundary, .any, 8⟩,
  ⟨0x5101, 255, 0x01, "SlotState", .u 1, .ro, .w, .n 0, false, false, .boundary, .any, 1⟩,
  ⟨0x5101, 255, 0x02, "ImageDigest", .u 8, .ro, .w, .n 0, false, false, .boundary, .any, 8⟩,
  ⟨0x5101, 255, 0x03, "SlotOwner", .u 2, .ro, .w, .n 0, false, false, .boundary, .any, 2⟩,
  ⟨0x5101, 255, 0x04, "SlotKind", .u 1, .ro, .w, .n 0, false, false, .boundary, .any, 1⟩,
  ⟨0x5101, 255, 0x05, "WeightBytes", .u 8, .ro, .w, .n 0, false, false, .boundary, .any, 8⟩,
  ⟨0x5101, 255, 0x06, "ScratchBytes", .u 8, .ro, .w, .n 0, false, false, .boundary, .any, 8⟩,
  ⟨0x5101, 255, 0x07, "SlotRuns", .u 8, .ro, .v, .n 0, false, false, .boundary, .any, 8⟩,
  ⟨0x5101, 255, 0x08, "SlotFailedRuns", .u 8, .ro, .v, .n 0, false, false, .boundary, .any, 8⟩,
  ⟨0x5101, 255, 0x09, "LastFailedOperator", .u 2, .ro, .v, .n 65535, false, false, .boundary, .any, 2⟩,
  ⟨0x6000, 1, 0x01, "CompositionId", .u 4, .rw, .p, .n 0, true, false, .cold, .any, 4⟩,
  ⟨0x6000, 1, 0x02, "PoolRole", .u 1, .rw, .p, .n 0, false, false, .cold, (.nat 0 2), 1⟩,
  ⟨0x6000, 1, 0x03, "CompositionMap", .dom, .rw, .p, .b [], true, false, .cold, (.multiple 8 8388608), 8388608⟩,
  ⟨0x6000, 1, 0x04, "RoleInForce", .u 1, .ro, .v, .n 0, false, false, .boundary, .any, 1⟩,
  ⟨0x6100, 1, 0x01, "BerthsMax", .u 4, .const, .p, .n 1048576, false, false, .boundary, .any, 4⟩,
  ⟨0x6100, 1, 0x02, "BerthPagesMax", .u 4, .const, .p, .n 262144, false, false, .boundary, .any, 4⟩,
  ⟨0x6100, 1, 0x03, "BerthsResident", .u 4, .ro, .v, .n 0, false, false, .boundary, .any, 4⟩,
  ⟨0x6100, 1, 0x04, "BerthsParked", .u 4, .ro, .v, .n 0, false, false, .boundary, .any, 4⟩,
  ⟨0x6100, 1, 0x05, "BerthsLost", .u 4, .ro, .w, .n 0, false, false, .boundary, .any, 4⟩,
  ⟨0x6100, 1, 0x06, "WakeFlashShare", .u 1, .rw, .p, .n 50, false, true, .boundary, (.nat 10 100), 1⟩,
  ⟨0x6100, 1, 0x07, "AutoParkAge", .u 4, .rw, .p, .n 0, false, true, .boundary, (.zeroOr 16 0xFFFFFFFF), 4⟩,
  ⟨0x6100, 1, 0x08, "MaxWakeTides", .u 4, .ro, .v, .n 0, false, false, .boundary, .any, 4⟩,
  ⟨0x6200, 1, 0x01, "LeaseTides", .u 2, .rw, .p, .n 1024, true, true, .boundary, (.nat 64 16384), 2⟩,
  ⟨0x6200, 1, 0x02, "ResolvePeriod", .u 2, .rw, .p, .n 16, false, true, .boundary, (.nat 1 1024), 2⟩,
  ⟨0x6200, 1, 0x03, "Handoffs", .u 8, .ro, .v, .n 0, false, false, .boundary, .any, 8⟩,
  ⟨0x6200, 1, 0x04, "HandoffsStale", .u 4, .ro, .w, .n 0, false, false, .boundary, .any, 4⟩,
  ⟨0x6200, 1, 0x05, "Takeovers", .u 4, .ro, .w, .n 0, false, false, .boundary, .any, 4⟩,
  ⟨0x6200, 1, 0x06, "Checkpoints", .u 8, .ro, .v, .n 0, false, false, .boundary, .any, 8⟩,
  ⟨0x6200, 1, 0x07, "UnconfirmedCopies", .u 4, .ro, .v, .n 0, false, false, .boundary, .any, 4⟩,
  ⟨0x6300, 1, 0x01, "MeterPeriod", .u 4, .tw, .p, .n 10000, true, false, .boundary, (.nat 1000 1000000), 4⟩,
  ⟨0x6300, 1, 0x02, "ReportSeq", .u 4, .ro, .p, .n 0, false, false, .boundary, .any, 4⟩]

/-- Entry tables, part 6. -/
def entries6 : List Entry := [
  ⟨0x6300, 1, 0x03, "LatestReport", .dom, .ro, .v, .b [], false, false, .boundary, .any, 8388608⟩,
  ⟨0x6300, 1, 0x04, "ReportSelect", .u 4, .rw, .v, .n 0, false, false, .boundary, .any, 4⟩,
  ⟨0x6300, 1, 0x05, "SelectedReport", .dom, .ro, .v, .b [], false, false, .boundary, .any, 8388608⟩,
  ⟨0x6400, 1, 0x01, "TableSlots", .u 2, .const, .p, .n 256, false, false, .boundary, .any, 2⟩,
  ⟨0x6400, 1, 0x02, "MergeCutoffPhase", .u 2, .rw, .p, .n 896, false, true, .boundary, (.nat 512 960), 2⟩,
  ⟨0x6400, 1, 0x03, "MergeQueueRows", .u 4, .const, .p, .n 65536, false, false, .boundary, .any, 4⟩,
  ⟨0x6400, 1, 0x04, "SwapLeadMin", .u 2, .rw, .p, .n 8, false, true, .boundary, (.nat 2 65536), 2⟩,
  ⟨0x6400, 1, 0x05, "TableAgeLimit", .u 2, .const, .p, .n 4096, false, false, .boundary, .any, 2⟩,
  ⟨0x6400, 1, 0x06, "LoadPeriod", .u 2, .rw, .p, .n 64, false, true, .boundary, (.nat 16 4096), 2⟩,
  ⟨0x6400, 1, 0x07, "SnapshotMisses", .u 8, .ro, .v, .n 0, false, false, .boundary, .any, 8⟩,
  ⟨0x6400, 1, 0x08, "LookupRestarts", .u 8, .ro, .v, .n 0, false, false, .boundary, .any, 8⟩,
  ⟨0x6500, 256, 0x01, "TableId", .u 4, .rw, .p, .n 0, true, false, .once, .any, 4⟩,
  ⟨0x6500, 256, 0x02, "OwnerSlot", .u 2, .rw, .p, .n 0, true, false, .boundary, .any, 2⟩,
  ⟨0x6500, 256, 0x03, "Mode", .u 1, .rw, .p, .n 0, true, false, .boundary, (.nat 0 1), 1⟩,
  ⟨0x6500, 256, 0x04, "RowFormat", .u 1, .rw, .p, .n 1, true, false, .boundary, (.oneOf [0, 1, 2, 5, 7]), 1⟩,
  ⟨0x6500, 256, 0x05, "RowElements", .u 2, .rw, .p, .n 128, true, false, .boundary, (.nat 1 4096), 2⟩,
  ⟨0x6500, 256, 0x06, "RowCount", .u 8, .rw, .p, .n 1, true, false, .boundary, (.nat 1 1099511627776), 8⟩,
  ⟨0x6500, 256, 0x07, "ShoalCount", .u 2, .rw, .p, .n 1, true, false, .boundary, (.nat 1 4096), 2⟩,
  ⟨0x6500, 256, 0x08, "ShoalMap", .dom, .tw, .p, .b [], true, false, .boundary, (.multiple 4 16384), 16384⟩,
  ⟨0x6500, 256, 0x09, "HotRefreshTides", .u 2, .rw, .p, .n 64, false, true, .boundary, (.nat 1 4096), 2⟩,
  ⟨0x6500, 256, 0x0A, "SkewLimitPercent", .u 2, .rw, .p, .n 200, false, true, .boundary, (.nat 110 1000), 2⟩,
  ⟨0x6500, 256, 0x0B, "CacheBytes", .u 4, .rw, .p, .n 0, false, true, .boundary, (.nat 0 268435456), 4⟩,
  ⟨0x6500, 256, 0x0C, "MigrateRowsMax", .u 2, .rw, .p, .n 64, false, true, .boundary, (.nat 0 4096), 2⟩,
  ⟨0x6500, 256, 0x0D, "JobId", .u 2, .rw, .p, .n 0, true, false, .boundary, .any, 2⟩,
  ⟨0x6500, 256, 0x0F, "TableControl", .u 1, .tw, .v, .n 0, true, false, .boundary, (.nat 1 2), 1⟩,
  ⟨0x6600, 256, 0x01, "TableState", .u 1, .ro, .p, .n 0, false, false, .boundary, .any, 1⟩,
  ⟨0x6600, 256, 0x02, "Lookups", .u 8, .ro, .v, .n 0, false, false, .boundary, .any, 8⟩,
  ⟨0x6600, 256, 0x03, "CacheHits", .u 8, .ro, .v, .n 0, false, false, .boundary, .any, 8⟩,
  ⟨0x6600, 256, 0x04, "VersionsInstalled", .u 8, .ro, .v, .n 0, false, false, .boundary, .any, 8⟩,
  ⟨0x6600, 256, 0x05, "Migrations", .u 4, .ro, .v, .n 0, false, false, .boundary, .any, 4⟩,
  ⟨0x6600, 256, 0x06, "ShoalLoad", .u 8, .ro, .v, .n 0, false, false, .boundary, .any, 8⟩,
  ⟨0x7000, 1, 0x01, "NodeId", .u 4, .rw, .p, .n 0, false, false, .cold, .any, 4⟩,
  ⟨0x7000, 1, 0x02, "DimX", .u 1, .rw, .p, .n 1, true, false, .cold, (.nat 1 128), 1⟩,
  ⟨0x7000, 1, 0x03, "DimY", .u 1, .rw, .p, .n 1, true, false, .cold, (.nat 1 128), 1⟩,
  ⟨0x7000, 1, 0x04, "DimZ", .u 1, .rw, .p, .n 1, true, false, .cold, (.nat 1 64), 1⟩,
  ⟨0x7000, 1, 0x05, "PortEnable", .u 1, .rw, .p, .n 63, false, false, .warm, .any, 1⟩,
  ⟨0x7000, 1, 0x06, "HopLimit", .u 1, .rw, .p, .n 255, false, true, .boundary, (.nat 8 255), 1⟩,
  ⟨0x7000, 1, 0x07, "ColdStartTide", .u 8, .ro, .w, .n 0, false, false, .boundary, .any, 8⟩,
  ⟨0x7000, 1, 0x08, "TrainTimeoutMs", .u 2, .rw, .p, .n 500, false, false, .boundary, (.nat 100 5000), 2⟩,
  ⟨0x7000, 1, 0x09, "LaneErrorLimitExp", .u 1, .rw, .p, .n 4, false, false, .boundary, (.nat 2 8), 1⟩]

/-- Entry tables, part 7. -/
def entries7 : List Entry := [
  ⟨0x7000, 1, 0x0A, "HistPeriod", .u 2, .rw, .p, .n 1024, false, true, .boundary, (.nat 16 65535), 2⟩,
  ⟨0x7000, 1, 0x0B, "RequesterSeqNext", .u 4, .ro, .v, .n 0, false, false, .boundary, .any, 4⟩,
  ⟨0x7000, 1, 0x0C, "StrandFaults", .u 1, .ro, .v, .n 0, false, false, .boundary, .any, 1⟩,
  ⟨0x7100, 6, 0x01, "PortState", .u 1, .ro, .v, .n 0, false, false, .boundary, .any, 1⟩,
  ⟨0x7100, 6, 0x02, "ActiveLanes", .u 1, .ro, .v, .n 0, false, false, .boundary, .any, 1⟩,
  ⟨0x7100, 6, 0x03, "LaneMask", .u 2, .ro, .v, .n 0, false, false, .boundary, .any, 2⟩,
  ⟨0x7100, 6, 0x04, "NeighbourId", .u 4, .ro, .v, .n 0, false, false, .boundary, .any, 4⟩,
  ⟨0x7100, 6, 0x05, "FecCorrected", .u 8, .ro, .v, .n 0, false, false, .boundary, .any, 8⟩,
  ⟨0x7100, 6, 0x06, "FecUncorrectable", .u 8, .ro, .v, .n 0, false, false, .boundary, .any, 8⟩,
  ⟨0x7100, 6, 0x07, "LinkRetries", .u 8, .ro, .v, .n 0, false, false, .boundary, .any, 8⟩,
  ⟨0x7100, 6, 0x08, "StompedFrames", .u 8, .ro, .v, .n 0, false, false, .boundary, .any, 8⟩,
  ⟨0x7100, 6, 0x09, "SpareLaneFree", .bool, .ro, .p, .n 1, false, false, .boundary, .any, 1⟩,
  ⟨0x7100, 6, 0x0A, "Retrains", .u 4, .ro, .w, .n 0, false, false, .boundary, .any, 4⟩,
  ⟨0x7100, 6, 0x0B, "FramesDropped", .u 8, .ro, .v, .n 0, false, false, .boundary, .any, 8⟩,
  ⟨0x7100, 6, 0x0C, "PortFaults", .u 1, .ro, .v, .n 0, false, false, .boundary, .any, 1⟩,
  ⟨0x7200, 1, 0x01, "RouteExceptions", .dom, .rw, .p, .b [], false, false, .boundary, (.routes), 8192⟩,
  ⟨0x7200, 1, 0x02, "UnroutableFrames", .u 8, .ro, .v, .n 0, false, false, .boundary, .any, 8⟩,
  ⟨0x7200, 1, 0x03, "HopLimitDrops", .u 8, .ro, .v, .n 0, false, false, .boundary, .any, 8⟩,
  ⟨0x7300, 1, 0x01, "JobTable", .dom, .tw, .p, .b [], false, true, .boundary, (.jobs), 131072⟩,
  ⟨0x7300, 1, 0x02, "WindowTable", .dom, .tw, .p, .b [], false, false, .boundary, (.windows), 131072⟩,
  ⟨0x7300, 1, 0x03, "BadJobRefusals", .u 8, .ro, .v, .n 0, false, false, .boundary, .any, 8⟩,
  ⟨0x7300, 1, 0x04, "AccessRefusals", .u 8, .ro, .v, .n 0, false, false, .boundary, .any, 8⟩,
  ⟨0x7300, 1, 0x05, "RegTableSize", .u 4, .const, .p, .n 2097152, false, false, .boundary, .any, 4⟩,
  ⟨0x7300, 1, 0x06, "RegEntriesUsed", .u 4, .ro, .v, .n 0, false, false, .boundary, .any, 4⟩,
  ⟨0x7300, 1, 0x07, "RegRefusals", .u 8, .ro, .v, .n 0, false, false, .boundary, .any, 8⟩,
  ⟨0x7300, 1, 0x08, "InvalidateResend", .u 1, .rw, .p, .n 4, false, true, .boundary, (.nat 1 16), 1⟩,
  ⟨0x7300, 1, 0x09, "PublishesIndeterminate", .u 4, .ro, .w, .n 0, false, false, .boundary, .any, 4⟩,
  ⟨0x7400, 1, 0x01, "ReplayEntries", .u 4, .const, .p, .n 262144, false, false, .boundary, .any, 4⟩,
  ⟨0x7400, 1, 0x02, "ReplayWindow", .u 1, .const, .p, .n 64, false, false, .boundary, .any, 1⟩,
  ⟨0x7400, 1, 0x03, "RequesterGiveUp", .u 1, .const, .p, .n 48, false, false, .boundary, .any, 1⟩,
  ⟨0x7400, 1, 0x04, "AtomicRetryTides", .u 1, .rw, .p, .n 4, false, true, .boundary, (.nat 1 16), 1⟩,
  ⟨0x7400, 1, 0x05, "ReplayUsed", .u 4, .ro, .v, .n 0, false, false, .boundary, .any, 4⟩,
  ⟨0x7400, 1, 0x06, "ReplayHits", .u 8, .ro, .v, .n 0, false, false, .boundary, .any, 8⟩,
  ⟨0x7400, 1, 0x07, "ReplayFullRefusals", .u 8, .ro, .v, .n 0, false, false, .boundary, .any, 8⟩,
  ⟨0x7400, 1, 0x08, "ResponderResets", .u 4, .ro, .w, .n 0, false, false, .boundary, .any, 4⟩,
  ⟨0x7400, 1, 0x09, "AtomicsIndeterminate", .u 4, .ro, .w, .n 0, false, false, .boundary, .any, 4⟩,
  ⟨0x7500, 6, 0x01, "ShaperTable", .dom, .tw, .p, .b shaperDefaults, false, true, .boundary, (.shapers), 192⟩,
  ⟨0x7500, 6, 0x02, "QueueDepthBytes", .dom, .ro, .v, .b (List.replicate 64 0), false, false, .boundary, .any, 64⟩,
  ⟨0x7500, 6, 0x03, "DepthHistogram", .dom, .ro, .v, .b (List.replicate 1024 0), false, false, .boundary, .any, 1024⟩,
  ⟨0x7500, 6, 0x04, "DelayHistogram", .dom, .ro, .v, .b (List.replicate 1024 0), false, false, .boundary, .any, 1024⟩]

/-- Entry tables, part 8. -/
def entries8 : List Entry := [
  ⟨0x7500, 6, 0x05, "FramesSent", .u 8, .ro, .v, .n 0, false, false, .boundary, .any, 8⟩,
  ⟨0x7600, 1, 0x01, "GreenFrames", .u 8, .ro, .v, .n 0, false, false, .boundary, .any, 8⟩,
  ⟨0x7600, 1, 0x02, "YellowFrames", .u 8, .ro, .v, .n 0, false, false, .boundary, .any, 8⟩,
  ⟨0x7600, 1, 0x03, "RedFrames", .u 8, .ro, .v, .n 0, false, false, .boundary, .any, 8⟩,
  ⟨0x7600, 1, 0x04, "JobMeterCounts", .dom, .ro, .v, .b [], false, false, .boundary, .any, 131072⟩,
  ⟨0x8000, 1, 0x01, "FlashMaxMTs", .u 2, .rw, .p, .n 3600, false, false, .cold, (.oneOf [1600, 2400, 3200, 3600]), 2⟩,
  ⟨0x8000, 1, 0x02, "JournalFlushTides", .u 2, .rw, .p, .n 16, false, true, .boundary, (.nat 4 256), 2⟩,
  ⟨0x8000, 1, 0x03, "WriteFlushSubticks", .u 2, .rw, .p, .n 128, false, true, .boundary, (.nat 16 1024), 2⟩,
  ⟨0x8000, 1, 0x04, "HousekeepPeriod", .u 2, .rw, .p, .n 1024, false, true, .boundary, (.nat 64 65535), 2⟩,
  ⟨0x8000, 1, 0x05, "HousekeepLength", .u 2, .rw, .p, .n 256, false, true, .boundary, (.nat 1 65535), 2⟩,
  ⟨0x8000, 1, 0x06, "HousekeepOffset", .u 2, .rw, .p, .n 512, false, true, .boundary, (.nat 0 65534), 2⟩,
  ⟨0x8000, 1, 0x07, "HousekeepShare", .u 1, .rw, .p, .n 25, false, true, .boundary, (.nat 5 75), 1⟩,
  ⟨0x8000, 1, 0x08, "GcHighBlocks", .u 2, .rw, .p, .n 64, false, true, .boundary, (.nat 16 4096), 2⟩,
  ⟨0x8000, 1, 0x09, "GcUrgentBlocks", .u 2, .rw, .p, .n 16, false, true, .boundary, (.nat 4 2048), 2⟩,
  ⟨0x8000, 1, 0x0A, "WearSpreadLimit", .u 2, .rw, .p, .n 200, false, true, .boundary, (.nat 50 2000), 2⟩,
  ⟨0x8000, 1, 0x0B, "ReadDisturbLimit", .u 4, .rw, .p, .n 100000, false, true, .boundary, (.nat 10000 10000000), 4⟩,
  ⟨0x8000, 1, 0x0C, "RefreshAgeHours", .u 2, .rw, .p, .n 2160, false, false, .boundary, (.nat 24 8760), 2⟩,
  ⟨0x8000, 1, 0x0D, "ReadRetryMax", .u 1, .rw, .p, .n 8, false, false, .boundary, (.nat 0 15), 1⟩,
  ⟨0x8000, 1, 0x0E, "OverProvisionPercent", .u 1, .const, .p, .n 12, false, false, .boundary, .any, 1⟩,
  ⟨0x8000, 1, 0x0F, "JournalReserveBlocks", .u 2, .const, .p, .n 32, false, false, .boundary, .any, 2⟩,
  ⟨0x8000, 1, 0x10, "SpareBlocksPercent", .u 1, .const, .p, .n 2, false, false, .boundary, .any, 1⟩,
  ⟨0x8000, 1, 0x11, "TieredFlashMax", .u 8, .rw, .p, .n 0, false, true, .boundary, (.step 0 0xFFFFFFFFFFFFFFFF 0 65536), 8⟩,
  ⟨0x8000, 1, 0x12, "SuspendMax", .u 1, .rw, .p, .n 4, false, false, .boundary, (.nat 0 16), 1⟩,
  ⟨0x8000, 1, 0x13, "RelocateBits", .u 2, .rw, .p, .n 96, false, false, .boundary, (.nat 8 512), 2⟩,
  ⟨0x8100, 1, 0x01, "FlashReady", .bool, .ro, .v, .n 0, false, false, .boundary, .any, 1⟩,
  ⟨0x8100, 1, 0x02, "TargetsAccepted", .u 2, .ro, .v, .n 0, false, false, .boundary, .any, 2⟩,
  ⟨0x8100, 1, 0x03, "TargetsRefused", .u 2, .ro, .v, .n 0, false, false, .boundary, .any, 2⟩,
  ⟨0x8100, 1, 0x04, "UserCapacityBytes", .u 8, .ro, .v, .n 0, false, false, .boundary, .any, 8⟩,
  ⟨0x8100, 1, 0x05, "MappedBytes", .u 8, .ro, .v, .n 0, false, false, .boundary, .any, 8⟩,
  ⟨0x8100, 1, 0x06, "ReservedBytes", .u 8, .ro, .v, .n 0, false, false, .boundary, .any, 8⟩,
  ⟨0x8100, 1, 0x07, "JournalReserveUsed", .u 1, .ro, .v, .n 0, false, false, .boundary, .any, 1⟩,
  ⟨0x8100, 1, 0x08, "WriteSequence", .u 8, .ro, .v, .n 0, false, false, .boundary, .any, 8⟩,
  ⟨0x8100, 1, 0x09, "LastFlushTide", .u 8, .ro, .v, .n 0, false, false, .boundary, .any, 8⟩,
  ⟨0x8100, 1, 0x0A, "RebuildCodewords", .u 8, .ro, .v, .n 0, false, false, .boundary, .any, 8⟩,
  ⟨0x8100, 1, 0x0B, "UncorrectableCodewords", .u 8, .ro, .w, .n 0, false, false, .boundary, .any, 8⟩,
  ⟨0x8100, 1, 0x0C, "ReadRetries", .u 8, .ro, .v, .n 0, false, false, .boundary, .any, 8⟩,
  ⟨0x8100, 1, 0x0D, "RetiredBlocks", .u 4, .ro, .p, .n 0, false, false, .boundary, .any, 4⟩,
  ⟨0x8100, 1, 0x0E, "SpareBlocksFree", .u 4, .ro, .p, .n 0, false, false, .boundary, .any, 4⟩,
  ⟨0x8100, 1, 0x0F, "ProgramFailures", .u 4, .ro, .p, .n 0, false, false, .boundary, .any, 4⟩,
  ⟨0x8100, 1, 0x10, "EraseFailures", .u 4, .ro, .p, .n 0, false, false, .boundary, .any, 4⟩]

/-- Entry tables, part 9. -/
def entries9 : List Entry := [
  ⟨0x8100, 1, 0x11, "MediaFullRefusals", .u 8, .ro, .w, .n 0, false, false, .boundary, .any, 8⟩,
  ⟨0x8100, 1, 0x12, "RelocatedCodewords", .u 8, .ro, .v, .n 0, false, false, .boundary, .any, 8⟩,
  ⟨0x8100, 1, 0x13, "UrgentGcTides", .u 4, .ro, .v, .n 0, false, false, .boundary, .any, 4⟩,
  ⟨0x8100, 1, 0x14, "DiesOutOfService", .u 2, .ro, .p, .n 0, false, false, .boundary, .any, 2⟩,
  ⟨0x8100, 1, 0x15, "LostCodewords", .u 8, .ro, .p, .n 0, false, false, .boundary, .any, 8⟩,
  ⟨0x8100, 1, 0x16, "MapBytes", .u 8, .ro, .v, .n 0, false, false, .boundary, .any, 8⟩,
  ⟨0x8200, 32, 0x01, "ChannelMTs", .u 2, .ro, .v, .n 0, false, false, .boundary, .any, 2⟩,
  ⟨0x8200, 32, 0x02, "Targets", .u 1, .ro, .v, .n 0, false, false, .boundary, .any, 1⟩,
  ⟨0x8200, 32, 0x03, "FreeBlocks", .u 4, .ro, .v, .n 0, false, false, .boundary, .any, 4⟩,
  ⟨0x8200, 32, 0x04, "EraseCountMin", .u 4, .ro, .v, .n 0, false, false, .boundary, .any, 4⟩,
  ⟨0x8200, 32, 0x05, "EraseCountMax", .u 4, .ro, .v, .n 0, false, false, .boundary, .any, 4⟩,
  ⟨0x8200, 32, 0x06, "ChannelSparesFree", .u 4, .ro, .p, .n 0, false, false, .boundary, .any, 4⟩,
  ⟨0x8200, 32, 0x07, "CodewordsRead", .u 8, .ro, .v, .n 0, false, false, .boundary, .any, 8⟩,
  ⟨0x8200, 32, 0x08, "BusyPercent", .u 1, .ro, .v, .n 0, false, false, .boundary, .any, 1⟩,
  ⟨0x9000, 1, 0x01, "SelfTestHoldoffTides", .u 4, .rw, .p, .n 1024, false, true, .boundary, (.nat 16 65536), 4⟩,
  ⟨0x9000, 1, 0x02, "TransientLimit", .u 1, .rw, .p, .n 8, false, true, .boundary, (.nat 2 64), 1⟩,
  ⟨0x9000, 1, 0x03, "TransientWindowTides", .u 4, .rw, .p, .n 65536, false, true, .boundary, (.nat 1024 16777216), 4⟩,
  ⟨0x9000, 1, 0x04, "ErrorEvents", .u 8, .ro, .w, .n 0, false, false, .boundary, .any, 8⟩,
  ⟨0x9000, 1, 0x05, "TransientEvents", .u 8, .ro, .w, .n 0, false, false, .boundary, .any, 8⟩,
  ⟨0x9000, 1, 0x06, "LastingFaults", .u 4, .ro, .p, .n 0, false, false, .boundary, .any, 4⟩,
  ⟨0x9000, 1, 0x07, "SelfTestsRunning", .u 2, .ro, .v, .n 0, false, false, .boundary, .any, 2⟩,
  ⟨0x9000, 1, 0x08, "Escalations", .u 4, .ro, .p, .n 0, false, false, .boundary, .any, 4⟩,
  ⟨0x9000, 1, 0x0A, "SpareInventory", .dom, .ro, .p, .b builtSpares, false, false, .boundary, .any, 144⟩,
  ⟨0x9000, 1, 0x0B, "DegradedFlags", .u 2, .ro, .p, .n 0, false, false, .boundary, .any, 2⟩,
  ⟨0x9000, 1, 0x0C, "RetiredPages", .u 4, .ro, .p, .n 0, false, false, .boundary, .any, 4⟩,
  ⟨0x9100, 1, 0x01, "EventSeqNext", .u 8, .ro, .p, .n 0, false, false, .boundary, .any, 8⟩,
  ⟨0x9100, 1, 0x02, "EventSelect", .u 8, .rw, .v, .n 0, false, false, .once, .any, 8⟩,
  ⟨0x9100, 1, 0x03, "EventRecords", .dom, .ro, .v, .b [], false, false, .boundary, .any, 2048⟩,
  ⟨0x9100, 1, 0x04, "LastingRecords", .dom, .ro, .p, .b [], false, false, .boundary, .any, 8192⟩,
  ⟨0x9100, 1, 0x05, "EventsOverwritten", .u 8, .ro, .w, .n 0, false, false, .boundary, .any, 8⟩,
  ⟨0x9200, 1, 0x01, "MarginPeriod", .u 2, .rw, .p, .n 1024, false, true, .boundary, (.nat 16 65535), 2⟩,
  ⟨0x9200, 1, 0x02, "RailDroopMv", .dom, .ro, .v, .b (List.replicate 14 0), false, false, .boundary, .any, 14⟩,
  ⟨0x9200, 1, 0x03, "ClusterSlackPs", .dom, .ro, .v, .b (List.replicate 64 0), false, false, .boundary, .any, 64⟩,
  ⟨0x9200, 1, 0x04, "SlackLimitPs", .u 2, .rw, .p, .n 20, false, true, .boundary, (.nat 5 200), 2⟩,
  ⟨0x9200, 1, 0x05, "VddCoreMv", .u 2, .ro, .v, .n 0, false, false, .boundary, .any, 2⟩,
  ⟨0x9200, 1, 0x06, "OpticalRxUw", .dom, .ro, .v, .b (List.replicate 108 0), false, false, .boundary, .any, 108⟩,
  ⟨0x9200, 1, 0x07, "OpticalTxUw", .dom, .ro, .v, .b (List.replicate 108 0), false, false, .boundary, .any, 108⟩,
  ⟨0x9300, 1, 0x01, "FaultAuthority", .u 1, .rw, .p, .n 1, false, false, .once, (.nat 0 1), 1⟩,
  ⟨0x9300, 1, 0x02, "FaultKeys", .dom, .rw, .p, .b [], true, false, .boundary, (.exact 2561), 2561⟩,
  ⟨0x9300, 1, 0x03, "QuorumNeeded", .u 1, .ro, .p, .n 3, true, false, .boundary, .any, 1⟩]

/-- Entry tables, part 10. -/
def entries10 : List Entry := [
  ⟨0x9300, 1, 0x04, "SignedNonce", .u 8, .ro, .p, .n 0, false, false, .boundary, .any, 8⟩,
  ⟨0x9300, 1, 0x05, "NodeServiceState", .u 1, .ro, .w, .n 0, false, false, .boundary, .any, 1⟩,
  ⟨0x9300, 1, 0x06, "ExpelledNodes", .dom, .ro, .p, .b [], false, false, .boundary, .any, 4096⟩,
  ⟨0x9300, 1, 0x07, "SignedRefusals", .u 4, .ro, .w, .n 0, false, false, .boundary, .any, 4⟩,
  ⟨0x9400, 1, 0x01, "StragglerFactorPercent", .u 2, .rw, .p, .n 300, false, true, .boundary, (.nat 150 1000), 2⟩,
  ⟨0x9400, 1, 0x02, "StragglerFloorNs", .u 4, .rw, .p, .n 200000, false, true, .boundary, (.nat 10000 100000000), 4⟩,
  ⟨0x9400, 1, 0x03, "StragglerHoldTides", .u 2, .rw, .p, .n 64, false, true, .boundary, (.nat 1 4096), 2⟩,
  ⟨0x9400, 1, 0x04, "ShoalQueueDelay", .dom, .ro, .v, .b [], false, false, .boundary, .any, 2048⟩,
  ⟨0x9400, 1, 0x05, "StragglersMarked", .u 8, .ro, .v, .n 0, false, false, .boundary, .any, 8⟩,
  ⟨0x9400, 1, 0x06, "FragmentsRerouted", .u 8, .ro, .v, .n 0, false, false, .boundary, .any, 8⟩,
  ⟨0xA000, 1, 0x01, "IdentityModulus", .dom, .const, .p, .b Config.identityModulus, false, false, .boundary, .any, 512⟩,
  ⟨0xA000, 1, 0x02, "IdentityCertificate", .dom, .const, .p, .b Config.identityCertificate, false, false, .boundary, .any, 8388608⟩,
  ⟨0xA000, 1, 0x03, "FirmwareKeyDigests", .dom, .const, .p, .b fusedKeyDigests, false, false, .boundary, .any, 32⟩,
  ⟨0xA000, 1, 0x04, "FirmwareKeyRevoked", .u 1, .ro, .p, .n 0, false, false, .boundary, .any, 1⟩,
  ⟨0xA000, 1, 0x05, "SecurityFloor", .u 1, .ro, .p, .n 0, false, false, .boundary, .any, 1⟩,
  ⟨0xA000, 1, 0x06, "TrngState", .u 1, .ro, .v, .n 0, false, false, .boundary, .any, 1⟩,
  ⟨0xA000, 1, 0x07, "TrngFailures", .u 4, .ro, .w, .n 0, false, false, .boundary, .any, 4⟩,
  ⟨0xA000, 1, 0x08, "BootState", .u 1, .ro, .v, .n 0, false, false, .boundary, .any, 1⟩,
  ⟨0xA100, 1, 0x01, "KeyCommand", .dom, .wo, .v, .b [], false, false, .once, .any, 8388608⟩,
  ⟨0xA100, 1, 0x02, "SlotStates", .dom, .ro, .p, .b slotStatesDefault, false, false, .boundary, .any, 4096⟩,
  ⟨0xA100, 1, 0x03, "SlotsActive", .u 2, .ro, .v, .n 0, false, false, .boundary, .any, 2⟩,
  ⟨0xA100, 1, 0x04, "GraphKeyTable", .dom, .ro, .p, .b [], false, false, .boundary, .any, 16384⟩,
  ⟨0xA100, 1, 0x05, "Destroys", .u 4, .ro, .p, .n 0, false, false, .boundary, .any, 4⟩,
  ⟨0xA200, 1, 0x01, "FirmwareUpdateState", .u 1, .ro, .v, .n 0, false, false, .boundary, .any, 1⟩,
  ⟨0xA200, 1, 0x02, "StagedImageDigest", .u 8, .ro, .v, .n 0, false, false, .boundary, .any, 8⟩,
  ⟨0xA200, 1, 0x03, "StagedFirmwareVersion", .u 4, .ro, .v, .n 0, false, false, .boundary, .any, 4⟩,
  ⟨0xA200, 1, 0x04, "StagedSecurityVersion", .u 1, .ro, .v, .n 0, false, false, .boundary, .any, 1⟩,
  ⟨0xA200, 1, 0x05, "ImagesWritten", .u 4, .ro, .w, .n 0, false, false, .boundary, .any, 4⟩,
  ⟨0xA300, 1, 0x01, "ProvenanceNonce", .dom, .rw, .v, .b [], false, false, .once, (.exact 32), 32⟩,
  ⟨0xA300, 1, 0x02, "ProvenanceRecord", .dom, .ro, .v, .b [], false, false, .boundary, .any, 8388608⟩,
  ⟨0xA300, 1, 0x03, "RecordsIssued", .u 8, .ro, .v, .n 0, false, false, .boundary, .any, 8⟩,
  ⟨0xB000, 1, 0x01, "LastResetCause", .dom, .ro, .w, .b [], false, false, .boundary, .any, 16⟩,
  ⟨0xB000, 1, 0x02, "ResetRequest", .dom, .wo, .v, .b [], false, false, .once, (.exact 8), 8⟩,
  ⟨0xB000, 1, 0x03, "ResetLevelMap", .dom, .const, .p, .b [0, 0, 1, 1, 0, 0, 1], false, false, .boundary, .any, 7⟩,
  ⟨0xB000, 1, 0x04, "ResetCounts", .dom, .ro, .p, .b (List.replicate 16 0), false, false, .boundary, .any, 16⟩,
  ⟨0xB000, 1, 0x05, "WatchdogMs", .u 2, .rw, .p, .n 1000, false, false, .once, (.nat 100 10000), 2⟩,
  ⟨0xB000, 1, 0x06, "ResetGlitches", .u 4, .ro, .w, .n 0, false, false, .boundary, .any, 4⟩,
  ⟨0xB000, 1, 0x07, "BlockQuiesce", .u 4, .wo, .v, .n 0, false, false, .once, .any, 4⟩,
  ⟨0xB000, 1, 0x08, "QuiescedBlocks", .dom, .ro, .w, .b [], false, false, .boundary, .any, 256⟩,
  ⟨0xB000, 1, 0x09, "MaxJunctionC", .dom, .ro, .v, .b (List.replicate 6 0), false, false, .boundary, .any, 6⟩]

/-- Entry tables, part 11. -/
def entries11 : List Entry := [
  ⟨0xB100, 1, 0x01, "PackageLimitW", .u 2, .rw, .p, .n 1500, false, false, .boundary, (.nat 800 1500), 2⟩,
  ⟨0xB100, 1, 0x02, "PackagePowerW", .u 2, .ro, .v, .n 0, false, false, .boundary, .any, 2⟩,
  ⟨0xB100, 1, 0x03, "PeakPowerW", .u 2, .ro, .v, .n 0, false, false, .boundary, .any, 2⟩,
  ⟨0xB100, 1, 0x04, "ThrottledTides", .u 4, .ro, .v, .n 0, false, false, .boundary, .any, 4⟩,
  ⟨0xB100, 1, 0x05, "ClockFloorMHz", .u 2, .rw, .p, .n 1600, false, false, .boundary, (.step 1600 2500 1600 100), 2⟩,
  ⟨0xB200, 1, 0x01, "PowerStateRequest", .u 1, .tw, .v, .n 0, false, false, .boundary, (.oneOf [0, 2]), 1⟩,
  ⟨0xB200, 1, 0x02, "PowerState", .u 1, .ro, .v, .n 0, false, false, .boundary, .any, 1⟩,
  ⟨0xB200, 1, 0x03, "SlackClusters", .u 1, .ro, .v, .n 0, false, false, .boundary, .any, 1⟩,
  ⟨0xB200, 1, 0x04, "SlackIdleNs", .u 4, .rw, .p, .n 4000, false, true, .boundary, (.nat 1000 1000000), 4⟩,
  ⟨0xB200, 1, 0x05, "NeapEntries", .u 4, .ro, .w, .n 0, false, false, .boundary, .any, 4⟩,
  ⟨0xB200, 1, 0x06, "NeapExitCause", .u 1, .ro, .w, .n 0, false, false, .boundary, .any, 1⟩,
  ⟨0xB300, 1, 0x01, "FunctionEnable", .u 1, .tw, .w, .n 31, false, false, .boundary, .any, 1⟩,
  ⟨0xB300, 1, 0x02, "DrainLimitTides", .u 2, .rw, .p, .n 256, false, true, .boundary, (.nat 1 65535), 2⟩,
  ⟨0xB300, 1, 0x03, "DisabledAborts", .u 8, .ro, .w, .n 0, false, false, .boundary, .any, 8⟩,
  ⟨0xB400, 1, 0x01, "JtagIdcode", .u 4, .const, .p, .n Config.jtagIdcode, false, false, .boundary, .any, 4⟩,
  ⟨0xB400, 1, 0x02, "StrapsSampled", .u 1, .ro, .w, .n 0, false, false, .boundary, .any, 1⟩,
  ⟨0xB400, 1, 0x03, "JunctionTempC", .dom, .ro, .v, .b (List.replicate 6 0), false, false, .boundary, .any, 6⟩,
  ⟨0xB400, 1, 0x04, "RailMv", .dom, .ro, .v, .b (List.replicate 14 0), false, false, .boundary, .any, 14⟩,
  ⟨0xB400, 1, 0x05, "RailAmps", .dom, .ro, .v, .b (List.replicate 14 0), false, false, .boundary, .any, 14⟩,
  ⟨0xB400, 1, 0x06, "AvsFaults", .u 4, .ro, .w, .n 0, false, false, .boundary, .any, 4⟩,
  ⟨0xC000, 1, 0x01, "HostDrainTides", .u 2, .rw, .p, .n 64, false, true, .boundary, (.nat 1 4096), 2⟩,
  ⟨0xC000, 1, 0x02, "HoldLimitNs", .u 4, .rw, .p, .n 10000000, false, true, .boundary, (.nat 1000000 100000000), 4⟩,
  ⟨0xC000, 1, 0x03, "LinkWidthMax", .u 1, .rw, .p, .n 8, false, false, .training, (.oneOf [2, 4, 8]), 1⟩,
  ⟨0xC000, 1, 0x04, "LinkRateMax", .u 1, .rw, .p, .n 64, false, false, .training, (.oneOf [32, 64]), 1⟩,
  ⟨0xC100, 1, 0x01, "LinkState", .u 1, .ro, .v, .n 0, false, false, .boundary, .any, 1⟩,
  ⟨0xC100, 1, 0x02, "LinkWidth", .u 1, .ro, .v, .n 0, false, false, .boundary, .any, 1⟩,
  ⟨0xC100, 1, 0x03, "LinkRate", .u 1, .ro, .v, .n 0, false, false, .boundary, .any, 1⟩,
  ⟨0xC100, 1, 0x04, "QueuePairsEnabled", .u 1, .ro, .v, .n 0, false, false, .boundary, .any, 1⟩,
  ⟨0xC100, 1, 0x05, "CommandsCompleted", .u 8, .ro, .v, .n 0, false, false, .boundary, .any, 8⟩,
  ⟨0xC100, 1, 0x06, "CompletionsDiscarded", .u 8, .ro, .w, .n 0, false, false, .boundary, .any, 8⟩,
  ⟨0xC100, 1, 0x07, "HoldTimeouts", .u 8, .ro, .w, .n 0, false, false, .boundary, .any, 8⟩,
  ⟨0xC100, 1, 0x08, "PoisonResponses", .u 8, .ro, .w, .n 0, false, false, .boundary, .any, 8⟩,
  ⟨0xC100, 1, 0x09, "LinkLosses", .u 4, .ro, .w, .n 0, false, false, .boundary, .any, 4⟩,
  ⟨0xC100, 1, 0x0A, "QueueFaults", .u 4, .ro, .w, .n 0, false, false, .boundary, .any, 4⟩,
  ⟨0xF000, 1, 0x01, "SelfTestRequest", .u 4, .wo, .v, .n 0, false, false, .once, .any, 4⟩,
  ⟨0xF000, 1, 0x02, "SelfTestsRequested", .u 4, .ro, .v, .n 0, false, false, .boundary, .any, 4⟩]

/-- Every entry of the manual, in ascending index and subindex. -/
def entries : List Entry :=
  entries0 ++ entries1 ++ entries2 ++ entries3 ++ entries4 ++ entries5 ++ entries6 ++ entries7 ++ entries8 ++ entries9 ++ entries10 ++ entries11

/-- The key of an entry: its index and subindex in one number. -/
def key (index sub : Nat) : Nat := index * 256 + sub

/-! The keys of the entries the machine itself reads or maintains, by their manual names. -/
namespace Ent
abbrev vendorName : Nat := 0x100001
abbrev orderingCode : Nat := 0x100002
abbrev stepping : Nat := 0x100003
abbrev serialNumber : Nat := 0x100004
abbrev firmwareVersion : Nat := 0x100005
abbrev firmwareDigest : Nat := 0x100006
abbrev identityKeyDigest : Nat := 0x100007
abbrev catalogueVersion : Nat := 0x100008
abbrev configGeneration : Nat := 0x100009
abbrev configDigest : Nat := 0x10000A
abbrev configState : Nat := 0x10000B
abbrev scopeDigests : Nat := 0x10000C
abbrev writeLockHolder : Nat := 0x10000D
abbrev catalogueWrites : Nat := 0x10000E
abbrev builtClusters : Nat := 0x110001
abbrev activeClusters : Nat := 0x110002
abbrev activeCores : Nat := 0x110003
abbrev spareCoresFree : Nat := 0x110004
abbrev spareClustersFree : Nat := 0x110005
abbrev activeMatrixEngines : Nat := 0x110006
abbrev stackBytes : Nat := 0x110007
abbrev shelfBytes : Nat := 0x110008
abbrev flashRawBytes : Nat := 0x110009
abbrev clusterClockMHz : Nat := 0x11000A
abbrev fieldNodeId : Nat := 0x120001
abbrev plcaNodeCount : Nat := 0x120002
abbrev plcaMaxBurst : Nat := 0x120003
abbrev macAddress : Nat := 0x120004
abbrev fieldWriteEnable : Nat := 0x120005
abbrev lockLeaseTides : Nat := 0x120006
abbrev capSessionsMax : Nat := 0x120007
abbrev capRequests : Nat := 0x120008
abbrev capErrors : Nat := 0x120009
abbrev framesDiscarded : Nat := 0x12000A
abbrev lockForceBreaks : Nat := 0x12000B
abbrev plcaState : Nat := 0x12000C
abbrev tideCount : Nat := 0x200001
abbrev tidePhase : Nat := 0x200002
abbrev tideState : Nat := 0x200003
abbrev missedRun : Nat := 0x200004
abbrev missedTotal : Nat := 0x200005
abbrev twPending : Nat := 0x200006
abbrev twMissed : Nat := 0x200007
abbrev beaconMismatch : Nat := 0x200008
abbrev glitchEdges : Nat := 0x200009
abbrev lastLockTide : Nat := 0x20000A
abbrev measuredPeriodNs : Nat := 0x20000B
abbrev tideFaults : Nat := 0x20000C
abbrev holdoverEdges : Nat := 0x20000D
abbrev adriftEdges : Nat := 0x20000E
abbrev tideRole : Nat := 0x210001
abbrev tidePeriodNs : Nat := 0x210002
abbrev tideInDelayNs : Nat := 0x210003
abbrev tideStartCount : Nat := 0x210004
abbrev tideHighWater : Nat := 0x210005
abbrev twLeadMin : Nat := 0x210006
abbrev queryStampWindow : Nat := 0x210007
abbrev shelfTierBytes : Nat := 0x300001
abbrev stackLowMarkPages : Nat := 0x300002
abbrev stackHighMarkPages : Nat := 0x300003
abbrev shelfPromoteCount : Nat := 0x300004
abbrev pinnedMaxPages : Nat := 0x300005
abbrev fixedPages : Nat := 0x300006
abbrev exportedPages : Nat := 0x300007
abbrev tieredShelfPages : Nat := 0x300008
abbrev tieredStackPages : Nat := 0x300009
abbrev tieredFlashPages : Nat := 0x30000A
abbrev freeStackPages : Nat := 0x30000B
abbrev promotions : Nat := 0x30000C
abbrev demotions : Nat := 0x30000D
abbrev cancelledMoves : Nat := 0x30000E
abbrev heldHostAccesses : Nat := 0x30000F
abbrev maxHoldNs : Nat := 0x300010
abbrev allocationStalls : Nat := 0x300011
abbrev oldestStackAge : Nat := 0x300012
abbrev exportBytes : Nat := 0x300013
abbrev sweepPending : Nat := 0x300014
abbrev hdmBytes : Nat := 0x310001
abbrev hdmOwnerSlot : Nat := 0x310002
abbrev hdmPinRanges : Nat := 0x310003
abbrev hdmBackedPages : Nat := 0x310004
abbrev hdmFlashReserved : Nat := 0x310005
abbrev windowBytesInUse : Nat := 0x320001
abbrev windowStreamBytes : Nat := 0x320002
abbrev windowWaitNs : Nat := 0x320003
abbrev windowShelfMax : Nat := 0x320004
abbrev nearBankDutyMax : Nat := 0x330001
abbrev externalBurstMax : Nat := 0x330002
abbrev refreshSkip : Nat := 0x330003
abbrev neighbourRefreshLimit : Nat := 0x330004
abbrev sequenceQueueDepth : Nat := 0x330005
abbrev maxSequenceCommands : Nat := 0x330006
abbrev nearBankClockMHz : Nat := 0x330007
abbrev sequencesCompleted : Nat := 0x340001
abbrev sequencesFailed : Nat := 0x340002
abbrev rowOpens : Nat := 0x340003
abbrev rowWrites : Nat := 0x340004
abbrev externalPreemptions : Nat := 0x340005
abbrev refreshEvents : Nat := 0x340006
abbrev refreshSkipped : Nat := 0x340007
abbrev neighbourRefreshes : Nat := 0x340008
abbrev refreshWindowMs : Nat := 0x340009
abbrev stackTempC : Nat := 0x34000A
abbrev dutyInForce : Nat := 0x34000B
abbrev emulatedBanks : Nat := 0x34000C
abbrev maxExternalWaitNs : Nat := 0x34000D
abbrev saturatedOutputs : Nat := 0x34000E
abbrev sliceMap : Nat := 0x350001
abbrev lostLines : Nat := 0x350002
abbrev lostLineCount : Nat := 0x350003
abbrev directoryRecalls : Nat := 0x350004
abbrev coarseEntries : Nat := 0x350005
abbrev sliceAtomics : Nat := 0x350006
abbrev memoryAtomics : Nat := 0x350007
abbrev hostBackInvalidates : Nat := 0x350008
abbrev writebackOps : Nat := 0x350009
abbrev directoryEntries : Nat := 0x35000A
abbrev maxCollections : Nat := 0x400001
abbrev leafIdsUsed : Nat := 0x400002
abbrev leafIdsMax : Nat := 0x400003
abbrev itemSlotsMax : Nat := 0x400004
abbrev shoalsHeld : Nat := 0x400005
abbrev treeShelfBudget : Nat := 0x400006
abbrev lowWaterStamp : Nat := 0x400007
abbrev indexAgeLimit : Nat := 0x400008
abbrev settleLagMax : Nat := 0x400009
abbrev ledgerUsed : Nat := 0x40000A
abbrev ledgerRefusals : Nat := 0x40000B
abbrev queriesInFlight : Nat := 0x40000C
abbrev queryTableSize : Nat := 0x40000D
abbrev fragmentTableSize : Nat := 0x40000E
abbrev fragmentsReissued : Nat := 0x40000F
abbrev selectPassK : Nat := 0x400010
abbrev maxK : Nat := 0x400011
abbrev mergeListsMax : Nat := 0x400012
abbrev duplicatesDropped : Nat := 0x400013
abbrev tieCompletions : Nat := 0x400014
abbrev naNSelected : Nat := 0x400015
abbrev changeCutoffPhase : Nat := 0x400016
abbrev replicaAckLimit : Nat := 0x400017
abbrev intakeGiveUp : Nat := 0x400018
abbrev changeTableSize : Nat := 0x400019
abbrev upkeepPeriod : Nat := 0x40001A
abbrev upkeepLength : Nat := 0x40001B
abbrev upkeepOffset : Nat := 0x40001C
abbrev moveBudget : Nat := 0x40001D
abbrev fullTreeRefusals : Nat := 0x40001E
abbrev itemsMoved : Nat := 0x40001F
abbrev collCollectionId (i : Nat) : Nat := 0x410001 + 256 * i
abbrev collMetric (i : Nat) : Nat := 0x410002 + 256 * i
abbrev collFormat (i : Nat) : Nat := 0x410003 + 256 * i
abbrev collDimension (i : Nat) : Nat := 0x410004 + 256 * i
abbrev collPqBytes (i : Nat) : Nat := 0x410005 + 256 * i
abbrev collMetadataBytes (i : Nat) : Nat := 0x410006 + 256 * i
abbrev collSketchSeed (i : Nat) : Nat := 0x410007 + 256 * i
abbrev collShoalCount (i : Nat) : Nat := 0x410008 + 256 * i
abbrev collShelfLevels (i : Nat) : Nat := 0x410009 + 256 * i
abbrev collOwnerSlot (i : Nat) : Nat := 0x41000A + 256 * i
abbrev collJobId (i : Nat) : Nat := 0x41000B + 256 * i
abbrev collCodebook (i : Nat) : Nat := 0x41000C + 256 * i
abbrev collMetadataSchema (i : Nat) : Nat := 0x41000D + 256 * i
abbrev collCollectionControl (i : Nat) : Nat := 0x41000F + 256 * i
abbrev collPrefetchWidth (i : Nat) : Nat := 0x410010 + 256 * i
abbrev collPrefetchPerLeaf (i : Nat) : Nat := 0x410011 + 256 * i
abbrev collDefaultDeadline (i : Nat) : Nat := 0x410012 + 256 * i
abbrev collReturnMargin (i : Nat) : Nat := 0x410013 + 256 * i
abbrev collCompactionTombPercent (i : Nat) : Nat := 0x410014 + 256 * i
abbrev collMergeLiveMax (i : Nat) : Nat := 0x410015 + 256 * i
abbrev collRebalanceRadiusPercent (i : Nat) : Nat := 0x410016 + 256 * i
abbrev collStCollectionState (i : Nat) : Nat := 0x420001 + 256 * i
abbrev collStShoalsHere (i : Nat) : Nat := 0x420002 + 256 * i
abbrev collStVisibleItems (i : Nat) : Nat := 0x420003 + 256 * i
abbrev collStLeaves (i : Nat) : Nat := 0x420004 + 256 * i
abbrev collStTreeLevels (i : Nat) : Nat := 0x420005 + 256 * i
abbrev collStShelfTreeBytes (i : Nat) : Nat := 0x420006 + 256 * i
abbrev collStDisplacedTreeBytes (i : Nat) : Nat := 0x420007 + 256 * i
abbrev collStRecordBytes (i : Nat) : Nat := 0x420008 + 256 * i
abbrev collStOpenItems (i : Nat) : Nat := 0x420009 + 256 * i
abbrev collStQueriesLed (i : Nat) : Nat := 0x42000A + 256 * i
abbrev collStFragmentsServed (i : Nat) : Nat := 0x42000B + 256 * i
abbrev collStUncertified (i : Nat) : Nat := 0x42000C + 256 * i
abbrev collStVerifyReads (i : Nat) : Nat := 0x42000D + 256 * i
abbrev collStPrefetchUnused (i : Nat) : Nat := 0x42000E + 256 * i
abbrev collStOpenQueries (i : Nat) : Nat := 0x42000F + 256 * i
abbrev collStAccessionsCommitted (i : Nat) : Nat := 0x420010 + 256 * i
abbrev collStDeaccessionsCommitted (i : Nat) : Nat := 0x420011 + 256 * i
abbrev collStUpserts (i : Nat) : Nat := 0x420012 + 256 * i
abbrev collStAbsentDeaccessions (i : Nat) : Nat := 0x420013 + 256 * i
abbrev collStShoalCopyStates (i : Nat) : Nat := 0x420014 + 256 * i
abbrev collStStaleEvents (i : Nat) : Nat := 0x420015 + 256 * i
abbrev collStRetiredEntries (i : Nat) : Nat := 0x420016 + 256 * i
abbrev collShoalMap (i : Nat) : Nat := 0x430001 + 256 * i
abbrev maxIntReduction : Nat := 0x500001
abbrev maxFloatReduction : Nat := 0x500002
abbrev quantisedRows : Nat := 0x500003
abbrev zeroScaleRows : Nat := 0x500004
abbrev nonFiniteRows : Nat := 0x500005
abbrev seedsDrawn : Nat := 0x500006
abbrev stochasticRows : Nat := 0x500007
abbrev overflowOutputs : Nat := 0x500008
abbrev graphSlots : Nat := 0x500009
abbrev graphClusterMax : Nat := 0x50000A
abbrev runTableSize : Nat := 0x50000B
abbrev runsInFlight : Nat := 0x50000C
abbrev runsCompleted : Nat := 0x50000D
abbrev runsFailed : Nat := 0x50000E
abbrev defaultRunDeadline : Nat := 0x50000F
abbrev indexFaults : Nat := 0x500010
abbrev loadsRefused : Nat := 0x500011
abbrev maxImageBytes : Nat := 0x500012
abbrev slotSlotState (i : Nat) : Nat := 0x510001 + 256 * i
abbrev slotImageDigest (i : Nat) : Nat := 0x510002 + 256 * i
abbrev slotSlotOwner (i : Nat) : Nat := 0x510003 + 256 * i
abbrev slotSlotKind (i : Nat) : Nat := 0x510004 + 256 * i
abbrev slotWeightBytes (i : Nat) : Nat := 0x510005 + 256 * i
abbrev slotScratchBytes (i : Nat) : Nat := 0x510006 + 256 * i
abbrev slotSlotRuns (i : Nat) : Nat := 0x510007 + 256 * i
abbrev slotSlotFailedRuns (i : Nat) : Nat := 0x510008 + 256 * i
abbrev slotLastFailedOperator (i : Nat) : Nat := 0x510009 + 256 * i
abbrev compositionId : Nat := 0x600001
abbrev poolRole : Nat := 0x600002
abbrev compositionMap : Nat := 0x600003
abbrev roleInForce : Nat := 0x600004
abbrev berthsMax : Nat := 0x610001
abbrev berthPagesMax : Nat := 0x610002
abbrev berthsResident : Nat := 0x610003
abbrev berthsParked : Nat := 0x610004
abbrev berthsLost : Nat := 0x610005
abbrev wakeFlashShare : Nat := 0x610006
abbrev autoParkAge : Nat := 0x610007
abbrev maxWakeTides : Nat := 0x610008
abbrev leaseTides : Nat := 0x620001
abbrev resolvePeriod : Nat := 0x620002
abbrev handoffs : Nat := 0x620003
abbrev handoffsStale : Nat := 0x620004
abbrev takeovers : Nat := 0x620005
abbrev checkpoints : Nat := 0x620006
abbrev unconfirmedCopies : Nat := 0x620007
abbrev meterPeriod : Nat := 0x630001
abbrev reportSeq : Nat := 0x630002
abbrev latestReport : Nat := 0x630003
abbrev reportSelect : Nat := 0x630004
abbrev selectedReport : Nat := 0x630005
abbrev tableSlots : Nat := 0x640001
abbrev mergeCutoffPhase : Nat := 0x640002
abbrev mergeQueueRows : Nat := 0x640003
abbrev swapLeadMin : Nat := 0x640004
abbrev tableAgeLimit : Nat := 0x640005
abbrev loadPeriod : Nat := 0x640006
abbrev snapshotMisses : Nat := 0x640007
abbrev lookupRestarts : Nat := 0x640008
abbrev tableTableId (i : Nat) : Nat := 0x650001 + 256 * i
abbrev tableOwnerSlot (i : Nat) : Nat := 0x650002 + 256 * i
abbrev tableMode (i : Nat) : Nat := 0x650003 + 256 * i
abbrev tableRowFormat (i : Nat) : Nat := 0x650004 + 256 * i
abbrev tableRowElements (i : Nat) : Nat := 0x650005 + 256 * i
abbrev tableRowCount (i : Nat) : Nat := 0x650006 + 256 * i
abbrev tableShoalCount (i : Nat) : Nat := 0x650007 + 256 * i
abbrev tableShoalMap (i : Nat) : Nat := 0x650008 + 256 * i
abbrev tableHotRefreshTides (i : Nat) : Nat := 0x650009 + 256 * i
abbrev tableSkewLimitPercent (i : Nat) : Nat := 0x65000A + 256 * i
abbrev tableCacheBytes (i : Nat) : Nat := 0x65000B + 256 * i
abbrev tableMigrateRowsMax (i : Nat) : Nat := 0x65000C + 256 * i
abbrev tableJobId (i : Nat) : Nat := 0x65000D + 256 * i
abbrev tableTableControl (i : Nat) : Nat := 0x65000F + 256 * i
abbrev tableStTableState (i : Nat) : Nat := 0x660001 + 256 * i
abbrev tableStLookups (i : Nat) : Nat := 0x660002 + 256 * i
abbrev tableStCacheHits (i : Nat) : Nat := 0x660003 + 256 * i
abbrev tableStVersionsInstalled (i : Nat) : Nat := 0x660004 + 256 * i
abbrev tableStMigrations (i : Nat) : Nat := 0x660005 + 256 * i
abbrev tableStShoalLoad (i : Nat) : Nat := 0x660006 + 256 * i
abbrev nodeId : Nat := 0x700001
abbrev dimX : Nat := 0x700002
abbrev dimY : Nat := 0x700003
abbrev dimZ : Nat := 0x700004
abbrev portEnable : Nat := 0x700005
abbrev hopLimit : Nat := 0x700006
abbrev coldStartTide : Nat := 0x700007
abbrev trainTimeoutMs : Nat := 0x700008
abbrev laneErrorLimitExp : Nat := 0x700009
abbrev histPeriod : Nat := 0x70000A
abbrev requesterSeqNext : Nat := 0x70000B
abbrev strandFaults : Nat := 0x70000C
abbrev portPortState (i : Nat) : Nat := 0x710001 + 256 * i
abbrev portActiveLanes (i : Nat) : Nat := 0x710002 + 256 * i
abbrev portLaneMask (i : Nat) : Nat := 0x710003 + 256 * i
abbrev portNeighbourId (i : Nat) : Nat := 0x710004 + 256 * i
abbrev portFecCorrected (i : Nat) : Nat := 0x710005 + 256 * i
abbrev portFecUncorrectable (i : Nat) : Nat := 0x710006 + 256 * i
abbrev portLinkRetries (i : Nat) : Nat := 0x710007 + 256 * i
abbrev portStompedFrames (i : Nat) : Nat := 0x710008 + 256 * i
abbrev portSpareLaneFree (i : Nat) : Nat := 0x710009 + 256 * i
abbrev portRetrains (i : Nat) : Nat := 0x71000A + 256 * i
abbrev portFramesDropped (i : Nat) : Nat := 0x71000B + 256 * i
abbrev portPortFaults (i : Nat) : Nat := 0x71000C + 256 * i
abbrev routeExceptions : Nat := 0x720001
abbrev unroutableFrames : Nat := 0x720002
abbrev hopLimitDrops : Nat := 0x720003
abbrev jobTable : Nat := 0x730001
abbrev windowTable : Nat := 0x730002
abbrev badJobRefusals : Nat := 0x730003
abbrev accessRefusals : Nat := 0x730004
abbrev regTableSize : Nat := 0x730005
abbrev regEntriesUsed : Nat := 0x730006
abbrev regRefusals : Nat := 0x730007
abbrev invalidateResend : Nat := 0x730008
abbrev publishesIndeterminate : Nat := 0x730009
abbrev replayEntries : Nat := 0x740001
abbrev replayWindow : Nat := 0x740002
abbrev requesterGiveUp : Nat := 0x740003
abbrev atomicRetryTides : Nat := 0x740004
abbrev replayUsed : Nat := 0x740005
abbrev replayHits : Nat := 0x740006
abbrev replayFullRefusals : Nat := 0x740007
abbrev responderResets : Nat := 0x740008
abbrev atomicsIndeterminate : Nat := 0x740009
abbrev egressShaperTable (i : Nat) : Nat := 0x750001 + 256 * i
abbrev egressQueueDepthBytes (i : Nat) : Nat := 0x750002 + 256 * i
abbrev egressDepthHistogram (i : Nat) : Nat := 0x750003 + 256 * i
abbrev egressDelayHistogram (i : Nat) : Nat := 0x750004 + 256 * i
abbrev egressFramesSent (i : Nat) : Nat := 0x750005 + 256 * i
abbrev greenFrames : Nat := 0x760001
abbrev yellowFrames : Nat := 0x760002
abbrev redFrames : Nat := 0x760003
abbrev jobMeterCounts : Nat := 0x760004
abbrev flashMaxMTs : Nat := 0x800001
abbrev journalFlushTides : Nat := 0x800002
abbrev writeFlushSubticks : Nat := 0x800003
abbrev housekeepPeriod : Nat := 0x800004
abbrev housekeepLength : Nat := 0x800005
abbrev housekeepOffset : Nat := 0x800006
abbrev housekeepShare : Nat := 0x800007
abbrev gcHighBlocks : Nat := 0x800008
abbrev gcUrgentBlocks : Nat := 0x800009
abbrev wearSpreadLimit : Nat := 0x80000A
abbrev readDisturbLimit : Nat := 0x80000B
abbrev refreshAgeHours : Nat := 0x80000C
abbrev readRetryMax : Nat := 0x80000D
abbrev overProvisionPercent : Nat := 0x80000E
abbrev journalReserveBlocks : Nat := 0x80000F
abbrev spareBlocksPercent : Nat := 0x800010
abbrev tieredFlashMax : Nat := 0x800011
abbrev suspendMax : Nat := 0x800012
abbrev relocateBits : Nat := 0x800013
abbrev flashReady : Nat := 0x810001
abbrev targetsAccepted : Nat := 0x810002
abbrev targetsRefused : Nat := 0x810003
abbrev userCapacityBytes : Nat := 0x810004
abbrev mappedBytes : Nat := 0x810005
abbrev reservedBytes : Nat := 0x810006
abbrev journalReserveUsed : Nat := 0x810007
abbrev writeSequence : Nat := 0x810008
abbrev lastFlushTide : Nat := 0x810009
abbrev rebuildCodewords : Nat := 0x81000A
abbrev uncorrectableCodewords : Nat := 0x81000B
abbrev readRetries : Nat := 0x81000C
abbrev retiredBlocks : Nat := 0x81000D
abbrev spareBlocksFree : Nat := 0x81000E
abbrev programFailures : Nat := 0x81000F
abbrev eraseFailures : Nat := 0x810010
abbrev mediaFullRefusals : Nat := 0x810011
abbrev relocatedCodewords : Nat := 0x810012
abbrev urgentGcTides : Nat := 0x810013
abbrev diesOutOfService : Nat := 0x810014
abbrev lostCodewords : Nat := 0x810015
abbrev mapBytes : Nat := 0x810016
abbrev chanChannelMTs (i : Nat) : Nat := 0x820001 + 256 * i
abbrev chanTargets (i : Nat) : Nat := 0x820002 + 256 * i
abbrev chanFreeBlocks (i : Nat) : Nat := 0x820003 + 256 * i
abbrev chanEraseCountMin (i : Nat) : Nat := 0x820004 + 256 * i
abbrev chanEraseCountMax (i : Nat) : Nat := 0x820005 + 256 * i
abbrev chanChannelSparesFree (i : Nat) : Nat := 0x820006 + 256 * i
abbrev chanCodewordsRead (i : Nat) : Nat := 0x820007 + 256 * i
abbrev chanBusyPercent (i : Nat) : Nat := 0x820008 + 256 * i
abbrev selfTestHoldoffTides : Nat := 0x900001
abbrev transientLimit : Nat := 0x900002
abbrev transientWindowTides : Nat := 0x900003
abbrev errorEvents : Nat := 0x900004
abbrev transientEvents : Nat := 0x900005
abbrev lastingFaults : Nat := 0x900006
abbrev selfTestsRunning : Nat := 0x900007
abbrev escalations : Nat := 0x900008
abbrev spareInventory : Nat := 0x90000A
abbrev degradedFlags : Nat := 0x90000B
abbrev retiredPages : Nat := 0x90000C
abbrev eventSeqNext : Nat := 0x910001
abbrev eventSelect : Nat := 0x910002
abbrev eventRecords : Nat := 0x910003
abbrev lastingRecords : Nat := 0x910004
abbrev eventsOverwritten : Nat := 0x910005
abbrev marginPeriod : Nat := 0x920001
abbrev railDroopMv : Nat := 0x920002
abbrev clusterSlackPs : Nat := 0x920003
abbrev slackLimitPs : Nat := 0x920004
abbrev vddCoreMv : Nat := 0x920005
abbrev opticalRxUw : Nat := 0x920006
abbrev opticalTxUw : Nat := 0x920007
abbrev faultAuthority : Nat := 0x930001
abbrev faultKeys : Nat := 0x930002
abbrev quorumNeeded : Nat := 0x930003
abbrev signedNonce : Nat := 0x930004
abbrev nodeServiceState : Nat := 0x930005
abbrev expelledNodes : Nat := 0x930006
abbrev signedRefusals : Nat := 0x930007
abbrev stragglerFactorPercent : Nat := 0x940001
abbrev stragglerFloorNs : Nat := 0x940002
abbrev stragglerHoldTides : Nat := 0x940003
abbrev shoalQueueDelay : Nat := 0x940004
abbrev stragglersMarked : Nat := 0x940005
abbrev fragmentsRerouted : Nat := 0x940006
abbrev identityModulus : Nat := 0xA00001
abbrev identityCertificate : Nat := 0xA00002
abbrev firmwareKeyDigests : Nat := 0xA00003
abbrev firmwareKeyRevoked : Nat := 0xA00004
abbrev securityFloor : Nat := 0xA00005
abbrev trngState : Nat := 0xA00006
abbrev trngFailures : Nat := 0xA00007
abbrev bootState : Nat := 0xA00008
abbrev keyCommand : Nat := 0xA10001
abbrev slotStates : Nat := 0xA10002
abbrev slotsActive : Nat := 0xA10003
abbrev graphKeyTable : Nat := 0xA10004
abbrev destroys : Nat := 0xA10005
abbrev firmwareUpdateState : Nat := 0xA20001
abbrev stagedImageDigest : Nat := 0xA20002
abbrev stagedFirmwareVersion : Nat := 0xA20003
abbrev stagedSecurityVersion : Nat := 0xA20004
abbrev imagesWritten : Nat := 0xA20005
abbrev provenanceNonce : Nat := 0xA30001
abbrev provenanceRecord : Nat := 0xA30002
abbrev recordsIssued : Nat := 0xA30003
abbrev lastResetCause : Nat := 0xB00001
abbrev resetRequest : Nat := 0xB00002
abbrev resetLevelMap : Nat := 0xB00003
abbrev resetCounts : Nat := 0xB00004
abbrev watchdogMs : Nat := 0xB00005
abbrev resetGlitches : Nat := 0xB00006
abbrev blockQuiesce : Nat := 0xB00007
abbrev quiescedBlocks : Nat := 0xB00008
abbrev maxJunctionC : Nat := 0xB00009
abbrev packageLimitW : Nat := 0xB10001
abbrev packagePowerW : Nat := 0xB10002
abbrev peakPowerW : Nat := 0xB10003
abbrev throttledTides : Nat := 0xB10004
abbrev clockFloorMHz : Nat := 0xB10005
abbrev powerStateRequest : Nat := 0xB20001
abbrev powerState : Nat := 0xB20002
abbrev slackClusters : Nat := 0xB20003
abbrev slackIdleNs : Nat := 0xB20004
abbrev neapEntries : Nat := 0xB20005
abbrev neapExitCause : Nat := 0xB20006
abbrev functionEnable : Nat := 0xB30001
abbrev drainLimitTides : Nat := 0xB30002
abbrev disabledAborts : Nat := 0xB30003
abbrev jtagIdcode : Nat := 0xB40001
abbrev strapsSampled : Nat := 0xB40002
abbrev junctionTempC : Nat := 0xB40003
abbrev railMv : Nat := 0xB40004
abbrev railAmps : Nat := 0xB40005
abbrev avsFaults : Nat := 0xB40006
abbrev hostDrainTides : Nat := 0xC00001
abbrev holdLimitNs : Nat := 0xC00002
abbrev linkWidthMax : Nat := 0xC00003
abbrev linkRateMax : Nat := 0xC00004
abbrev linkState : Nat := 0xC10001
abbrev linkWidth : Nat := 0xC10002
abbrev linkRate : Nat := 0xC10003
abbrev queuePairsEnabled : Nat := 0xC10004
abbrev commandsCompleted : Nat := 0xC10005
abbrev completionsDiscarded : Nat := 0xC10006
abbrev holdTimeouts : Nat := 0xC10007
abbrev poisonResponses : Nat := 0xC10008
abbrev linkLosses : Nat := 0xC10009
abbrev queueFaults : Nat := 0xC1000A
abbrev selfTestRequest : Nat := 0xF00001
abbrev selfTestsRequested : Nat := 0xF00002
end Ent

end Sys2Proof.Machine
end

