-- ==== Sys2Proof/Machine/Units.lean ====
section
/-! DEFINITION. The records of the node's units: what each unit holds, as plain data. State.lean joins them. -/

namespace Sys2Proof.Machine

open Sys2Proof

/-! Tide unit (02_tide.md). -/

/-- The four Tide states, as TideState and the beacons report them. -/
inductive TideState where
  | acquiring | locked | holdover | adrift
  deriving DecidableEq, Repr

/-- A pulse symbol (R45). -/
inductive Symbol where
  | zero | one | marker | invalid
  deriving DecidableEq, Repr

/-- A count that a beacon of a Locked neighbour gives to the next edge, with the node that sent it (R51). -/
structure BeaconCount where
  sender : Nat
  count : Nat
  deriving DecidableEq, Repr

/-- The Tide unit: count, phase, state and the follower's edge and frame history. -/
structure TideUnit where
  /-- The unit has taken its role and period and started (R39). -/
  running : Bool
  master : Bool
  periodNs : Nat
  delayNs : Nat
  /-- Period and delay that a warm reset left for the next boundary (R656). -/
  nextPeriod : Option (Nat × Nat)
  /-- 0 while the unit holds no count (R34). -/
  count : Nat
  phase : Nat
  /-- Sub-ticks counted past phase 1023 while the next boundary is still to be made. -/
  overrun : Nat
  state : TideState
  missedRun : Nat
  /-- Consecutive good edges since a count was adopted in Acquiring. -/
  goodRun : Nat
  /-- Consecutive edges at the period (R36). -/
  periodRun : Nat
  /-- A rising edge has been seen on TIDE_IN (R51). -/
  anyEdge : Bool
  /-- Nanoseconds from the last edge that was not ignored to the last ignored one. -/
  ignoredNs : Nat
  /-- Nanoseconds from the edge that placed a boundary last to the latest edge, and the boundaries that the node has made of
  itself since then: what the window of the next edge is measured from (R50). -/
  placedNs : Nat
  made : Nat
  /-- The last 64 intervals between rising edges, oldest first. -/
  intervals : List Nat
  measuredNs : Nat
  periodFault : Bool
  conflictFault : Bool
  /-- The last 64 classified pulse symbols, oldest first. -/
  symbols : List Symbol
  /-- The implied count that a valid frame gives to the next edge (R47). -/
  implied : Option Nat
  beacons : List BeaconCount
  /-- The count that beacons of two Locked neighbours give to the next edge (R51). -/
  beaconAdopt : Option Nat
  deriving DecidableEq, Repr

/-! Catalogue (16_catalogue.md). -/

/-- A pending TW apply (R56 to R59). -/
structure TwPend where
  key : Nat
  val : Val
  apply : Nat
  deriving DecidableEq, Repr

/-- The value in force of an entry whose written value waits for its moment (R541). -/
structure InForce where
  key : Nat
  val : Val
  moment : Moment
  /-- The Tide of the write. -/
  tide : Nat
  deriving DecidableEq, Repr

/-- The value that governed work stamped before `tide` (R60). -/
structure History where
  key : Nat
  tide : Nat
  val : Val
  deriving DecidableEq, Repr

/-- A boot copy of the P entries (R607): its tag verifies, the write count of its last write, its values. -/
structure BootCopy where
  valid : Bool
  writes : Nat
  vals : List (Nat × Val)
  deriving DecidableEq, Repr

/-- A P value in region 5 with the Catalogue write count it carries (R547). -/
structure FlashVal where
  key : Nat
  val : Val
  writes : Nat
  /-- Its region 5 codewords, and the flash log write that holds it. -/
  words : List Nat
  write : Nat
  deriving DecidableEq, Repr

/-- A CAP response: the header's fields and the data (the table "CAP header"). -/
structure CapResp where
  op : Nat
  status : Nat
  session : Nat
  seq : Nat
  index : Nat
  sub : Nat
  typeCode : Nat
  offset : Nat
  tideField : Nat
  totalLength : Nat
  data : Bytes
  deriving DecidableEq, Repr

/-- The answer to a CAP write of a P entry, held until the value is durable (R547): the request, the message that brought it over Strand. -/
structure Owed where
  req : CapReq
  resp : CapResp
  frame : Option Frame
  deriving DecidableEq, Repr

/-- The values from which the digests of a boundary are computed (R551). -/
structure Published where
  tide : Nat
  vals : List (Nat × Val)
  waiting : List InForce
  deriving DecidableEq, Repr

structure CatUnit where
  /-- Values last written or maintained, in ascending key; an entry not listed holds its default. -/
  vals : List (Nat × Val)
  waiting : List InForce
  history : List History
  tw : List TwPend
  bootA : BootCopy
  bootB : BootCopy
  region5 : List FlashVal
  /-- With the flash log write that holds the value. -/
  owed : List (Nat × Owed)
  /-- Both boot copies were invalid at the last cold reset, and the L0 reset of R607 has been asserted for it. -/
  bootRetry : Bool
  /-- What the latest boundary took its digests over; none before the first. -/
  published : Option Published
  deriving DecidableEq, Repr

/-- A value staged from segments (R558). -/
structure Staged where
  op : Nat
  key : Nat
  total : Nat
  tideField : Nat
  data : Bytes
  deriving DecidableEq, Repr

/-- The address that names a session beside its SessionId (R556). -/
inductive Who where
  | field (mac : Nat) | mailbox | strand (src : Nat)
  deriving DecidableEq, Repr

/-- The state kept for one CAP session (R556). -/
structure Session where
  who : Who
  id : Nat
  lastSeq : Option Nat
  lastResp : Option CapResp
  /-- The Tide of its latest request. -/
  lastTide : Nat
  /-- Rises with every request of any session: the order of idleness. -/
  lastUse : Nat
  staged : Option Staged
  /-- Read snapshot: the key (2^32 more for a Pending read), the apply Tide of a Pending read, the value (R559). -/
  snapshot : Option (Nat × Nat × Bytes)
  /-- ProvenanceNonce of the session (R615). -/
  nonce : Option Bytes
  deriving DecidableEq, Repr

structure CapUnit where
  sessions : List Session
  /-- The write lock's holder and its expiry Tide (R560, R561). -/
  lock : Option (Who × Nat × Nat)
  uses : Nat
  deriving DecidableEq, Repr

/-! Event log (17_reliability.md, R582, R583). -/

structure EventRec where
  seq : Nat
  tide : Nat
  phase : Nat
  code : Nat
  outcome : Nat
  status : Nat
  spareKind : Nat
  unit : Nat
  detail : Nat
  read : Bool
  deriving DecidableEq, Repr

structure EventLog where
  /-- The ring of the 4,096 most recent records, oldest first. -/
  ring : List EventRec
  /-- LastingRecords: the 256 most recent with Outcome 2, 3 or 4. -/
  lasting : List EventRec
  deriving DecidableEq, Repr

/-! Strand (13_strand_fabric.md). -/

/-- The credit pool of an ingress port that a waiting frame occupies (R431). -/
structure Pool where
  port : Nat
  cls : Nat
  vc : Nat
  deriving DecidableEq, Repr

/-- A frame waiting in an egress queue, with the sub-tick at which it was enqueued. -/
structure Queued where
  frame : Frame
  at_ : Nat
  pool : Option Pool
  /-- It ends with the inverse of its CRC (R432). -/
  stomped : Bool
  deriving DecidableEq, Repr

/-- The port states of PortState (0x71pp.01). -/
inductive PortState where
  | disabled | detect | equalise | align | hello | up | miswired | down
  deriving DecidableEq, Repr

/-- A frame kept for link retry, under its link sequence number (R430). -/
structure Retry where
  link : Nat
  frame : Frame
  stomped : Bool
  deriving DecidableEq, Repr

/-- A lane switch agreed by a LaneMap block (R427). -/
structure LaneSwitch where
  lane : Nat
  codeword : Nat
  mask : Nat
  deriving DecidableEq, Repr

structure Port where
  state : PortState
  /-- Bit i: physical lane i active. -/
  mask : Nat
  reversed : Bool
  /-- Bit i: polarity of lane i inverted. -/
  polarity : Nat
  neighbour : Nat
  txSeq : Nat
  rxSeq : Nat
  retry : List Retry
  /-- Credits held at the next hop: pool class × 3 + VC (R431). -/
  credits : List Nat
  queues : List (List Queued)
  buckets : List Nat
  deficits : List Nat
  /-- The queue at which the next round-robin visit goes on. -/
  next : Nat
  depthHist : List Nat
  delayHist : List Nat
  laneSwitch : Option LaneSwitch
  /-- Physical lanes marked failed. -/
  failed : List Nat
  /-- The spare lane has failed or carries a lane's traffic. -/
  spareUsed : Bool
  /-- A lane failed for good while the spare was in use: the port runs on 4 lanes (R428). -/
  fourLanes : Bool
  faults : Nat
  helloTide : Nat
  deriving DecidableEq, Repr

/-- Who reads rows that another node holds: a run, a host command, a refresh of a table's hot-row cache, a migration's base copy. -/
inductive RowUser where
  | run (id : Nat) | cmd (id : Nat) | cache (slot : Nat) | base (slot row : Nat)
  deriving DecidableEq, Repr

/-- What an outstanding request of this node is for. -/
inductive Purpose where
  | none
  /-- A read of a remote line for an agent. -/
  | line
  | publish
  /-- A berth's ownership word: a lease renewal, a handoff step, a read of the word, a takeover, a recovery end. -/
  | lease (berth : Nat) | handoff (berth : Nat) | resolve (berth : Nat) | takeover (berth : Nat) | recovered (berth : Nat)
  | register (page : Nat)
  /-- A command on a berth of another owner, which reports the owner that the word names (R364). -/
  | stale (cmd : Nat)
  /-- A row of a table: its directory entry, or a line of its granules by number; each with the Tide of the entry read (R383). -/
  | entry (user : RowUser) (slot row tide : Nat) | granule (user : RowUser) (slot row line tide : Nat)
  deriving DecidableEq, Repr

/-- An outstanding READ, WRITE, ATOMIC, REGISTER, UNREGISTER or PUBLISH of this node. -/
structure Request where
  frame : Frame
  issue : Nat
  lastSend : Nat
  purpose : Purpose
  /-- An INVALIDATE of the line arrived while the READ was outstanding (R455). -/
  invalidated : Bool
  /-- It has not been sent yet: the node was Fenced or Expelled (R590), or a PUBLISH whose WRITEs are not all answered (R453). `issue` is
  then not its first send. -/
  held : Bool
  deriving DecidableEq, Repr

/-- A request of this node that has ended, as the agent that asked for it sees it. -/
structure Ended where
  seq : Nat
  kind : Nat
  status : Nat
  data : Bytes
  /-- The Tide suggested with RETRY (R441). -/
  retry : Nat
  deriving DecidableEq, Repr

/-- What an outgoing message is for: the unit that acts on its one response. -/
inductive MsgUse where
  | none
  | fragment (query : Nat) (sub : Nat)
  | reply
  | forward (tag : Nat) | toReplica (tag : Nat) | ack | outcome
  | fill
  | pages (berth page : Nat) (why : BerthUse) | control (berth : Nat)
  /-- A CREATE asked of another home (R363). -/
  | create (cmd : Nat)
  | rows (cmd : Nat) (shoal : Nat) | sums (run : Nat) | forward_ | load
  /-- A request of a shoal node to a storage node (R389, R392). -/
  | storage (tag : Nat)
  deriving DecidableEq, Repr

/-- A message sent and not yet answered: words and byte strings stand for the fields that the message carries. -/
structure OutMsg where
  id : Nat
  dest : Nat
  cls : Nat
  job : Nat
  type : Nat
  words : List Nat
  blobs : List Bytes
  use : MsgUse
  sent : Nat
  deriving DecidableEq, Repr

/-- A message being reassembled (R446). -/
structure InMsg where
  src : Nat
  id : Nat
  cls : Nat
  job : Nat
  type : Nat
  count : Nat
  segments : List (Nat × Bytes)
  first : Nat
  /-- Refused at a segment: it has been answered, and its other segments are dropped. -/
  refused : Bool
  /-- A segment of it was metered yellow (R468). -/
  yellow : Bool
  deriving DecidableEq, Repr

/-- A message that has arrived whole and waits for the unit that acts on it to answer (R446). -/
structure Delivered where
  src : Nat
  id : Nat
  cls : Nat
  job : Nat
  type : Nat
  yellow : Bool
  deriving DecidableEq, Repr

/-- A replay cache entry (R459). -/
structure Replay where
  src : Nat
  seq : Nat
  issue : Nat
  old : Bytes
  status : Nat
  exec : Nat
  deriving DecidableEq, Repr

/-- A publish that waits for its readers (R453, R456). -/
structure Publish where
  frame : Frame
  /-- The tag that its INVALIDATEs carry. -/
  tag : Nat
  /-- Node physical address and length of the range. -/
  start : Nat
  length : Nat
  /-- Readers that have not answered, with the Tide of the last INVALIDATE to each. -/
  readers : List (Nat × Nat)
  /-- The INVALIDATEs have been sent; a publish of an overlapping range arrived earlier while this is false. -/
  active : Bool
  deriving DecidableEq, Repr

/-- The ingress meter of a job (R466, R467). -/
structure Meter where
  job : Nat
  c : Nat
  p : Nat
  green : Nat
  yellow : Nat
  red : Nat
  deriving DecidableEq, Repr

structure StrandUnit where
  ports : List Port
  /-- Node ID and torus size taken at the cold reset (R434). -/
  nodeId : Nat
  dimX : Nat
  dimY : Nat
  dimZ : Nat
  coordFault : Bool
  requests : List Request
  ended : List Ended
  outMsgs : List OutMsg
  inMsgs : List InMsg
  delivered : List Delivered
  nextMsg : Nat
  nextTag : Nat
  requesterSeq : Nat
  replay : List Replay
  /-- The Fixed stack pages of the replay cache (R459). -/
  replayPages : List Nat
  /-- Registrations at this home: page number and reader. -/
  regs : List (Nat × Nat)
  /-- Pages of other nodes for which this node is registered: home, job and page. -/
  registered : List (Nat × Nat × Nat)
  /-- Lines of other nodes cached here in S: home, job, address and data (R415). -/
  remoteLines : List (Nat × Nat × Nat × Bytes)
  publishes : List Publish
  meters : List Meter
  deriving DecidableEq, Repr

/-! Host interface (15_host_interface.md). -/

/-- One queue pair: its queue block, doorbells and the node's side of them. -/
structure Pair where
  sqBase : Nat
  cqBase : Nat
  sqM1 : Nat
  cqM1 : Nat
  qEnable : Bool
  intEnable : Bool
  vector : Nat
  enabled : Bool
  fault : Bool
  cause : Nat
  coalCount : Nat
  coalUs : Nat
  sqTail : Nat
  cqHead : Nat
  sqHead : Nat
  cqTail : Nat
  phase : Bool
  /-- Fetching from the SQ has ended: a wind-down (R657) or a fault (R518, R521). -/
  stopped : Bool
  winding : Bool
  /-- Entries written since the last MSI-X message. -/
  uncovered : Nat
  deriving DecidableEq, Repr

structure MsixEntry where
  addr : Nat
  data : Nat
  masked : Bool
  pending : Bool
  deriving DecidableEq, Repr

/-- A command fetched from a submission queue and not yet completed. -/
structure HostCmd where
  id : Nat
  pair : Nat
  opcode : Nat
  commandId : Nat
  desc : Bytes
  /-- Fetched before a link loss: its completion is never written (R534). -/
  lost : Bool
  /-- Dispatched to its unit, so that its row has run. -/
  started : Bool
  /-- It waits for a free stack page, which AllocationStalls has counted (R281). -/
  stalled : Bool
  /-- Its acceptance, in Tides and in sub-ticks, once its row has met it and it waits (R31). -/
  accepted : Option (Nat × Nat)
  /-- The input buffers for which it waits: address and bytes (R264). -/
  inputs : List (Nat × Nat)
  deriving DecidableEq, Repr

/-- A host CXL.mem access held while its page lies in flash (R268, R529). -/
structure HeldAccess where
  id : Nat
  hpa : Nat
  write : Option Bytes
  since : Nat
  /-- A descriptor address in the node's own HDM range (R411): no CXL.mem answer is due. -/
  inside : Bool
  /-- Held for the promotion of its page (R268). -/
  promotion : Bool
  deriving DecidableEq, Repr

/-- A back-invalidation: host line, lines of its block (1 or 4), and the write that waits for the answer (R410, R527). -/
structure BackInv where
  line : Nat
  count : Nat
  off : Nat
  data : Bytes
  /-- The host's copy is the zeroing's (R269): nothing is written after the answer. -/
  zeroing : Bool
  /-- The memory line of a request of a cache that waits for the answer (R410). -/
  grants : Option Nat
  deriving DecidableEq, Repr

/-- What a parked write of the node holds back (R412): the completion entry of a command with its status, figures and suggested
Tide, or the interrupt of a pair. -/
inductive Late where
  | entry (cmd : HostCmd) (status : Nat) (specific : Bytes) (retry : Nat)
  | signal (pair : Nat)
  deriving DecidableEq, Repr

def Late.isEntry : Late → Bool
  | .entry .. => true
  | .signal _ => false

/-- The pair of an entry that waits. -/
def Late.entryOf : Late → Option Nat
  | .entry c .. => some c.pair
  | .signal _ => none

structure HostUnit where
  linkUp : Bool
  /-- Configuration access only (R514). -/
  degraded : Bool
  /-- The IDE streams that IDE_KM has keyed (R513). -/
  ide : List IdeStream
  width : Nat
  rate : Nat
  enable : Bool
  ready : Bool
  draining : Bool
  linkLost : Bool
  /-- Enable = 1 written in this Tide: Ready at the next boundary (R516). -/
  enablePending : Option Nat
  /-- Enable = 0 written in this Tide: the disable takes effect at the next boundary (R537). -/
  disablePending : Option Nat
  /-- Enable = 1 written during a drain, in this Tide: fetching resumes at the next boundary. -/
  resumePending : Option Nat
  /-- The boundary D of a drain in progress. -/
  drainFrom : Nat
  pairs : List Pair
  msix : List MsixEntry
  cmds : List HostCmd
  nextCmd : Nat
  hdmCommitted : Bool
  hdmBase : Nat
  hdmError : Bool
  /-- HDM lines (host physical address / 64) that the host may hold (R410). -/
  hostHeld : List Nat
  /-- Back-invalidations in order; the first 64 are outstanding, the others wait (R527). -/
  bisnp : List BackInv
  /-- The zeroing of R269: the host lines whose back-invalidation is still to be issued, from the next one up to the end. -/
  zeroNext : Nat
  zeroEnd : Nat
  held : List HeldAccess
  nextHeld : Nat
  /-- Completion entries and interrupts that go once earlier writes of the node are done (R412). -/
  late : List Late
  /-- A mailbox command is under way (R530). -/
  mailBusy : Bool
  /-- CXL component and device registers of BAR0, which the CXL specification lays out: offset and 4-byte value. -/
  bar : List (Nat × Nat)
  deriving DecidableEq, Repr

/-! Resets, straps and power states (19_reset_power.md, 20_electrical.md). -/

/-- A reset: its source code, level, domain, block and requester (R621, LastResetCause). -/
structure Cause where
  source : Nat
  level : Nat
  domain : Nat
  /-- The BlockId at L3. -/
  block : Nat
  /-- The node ID of a Strand reset command (source 5). -/
  requester : Nat
  tide : Nat
  deriving DecidableEq, Repr

/-- What holds the release sequence. -/
inductive Pause where
  | none | firmware | thermal | strap
  deriving DecidableEq, Repr

/-- A function whose disable drains: its bit and the boundary D (R630). -/
structure Drain where
  bit : Nat
  from_ : Nat
  deriving DecidableEq, Repr

structure ResetUnit where
  /-- A reset asserted whose release point has not passed. -/
  asserted : Option Cause
  /-- The reset whose domains the sequencer is releasing. -/
  running : Option Cause
  /-- Domains still to be released, in release order. -/
  toRelease : List Nat
  /-- Domains in service. -/
  released : List Nat
  pause : Pause
  /-- The boot ROM has found a valid image and is copying it. -/
  romStarting : Bool
  recovery : Bool
  identityFault : Bool
  /-- The accepted ResetRequest write that asserts at the next boundary, with the Tide of the write (R627). -/
  requested : Option Cause
  resetN : Bool
  railsGood : Bool
  alert : Bool
  thermTrip : Bool
  /-- A junction reading reached 105 °C and not every reading has been below 100 °C since. -/
  hot : Bool
  /-- BlockQuiesce writes that take effect at the next boundary, blocks that drain, blocks idle. -/
  quiesceNext : List Nat
  quiescing : List Nat
  quiesced : List Nat
  powerState : Nat
  neapFrom : Nat
  drains : List Drain
  /-- Clusters whose clocks are gated (R632). -/
  slack : List Nat
  tap : Tap
  deriving DecidableEq, Repr

end Sys2Proof.Machine
end

