-- ==== Sys2Proof/Machine/UnitsSearch.lean ====
section
/-! DEFINITION. What the node holds for collections, shoals, trees, queries, fragments and changes (03_index_tree.md to
07_accession.md). -/

namespace Sys2Proof.Machine

open Sys2Proof

/-! Trees (03_index_tree.md). -/

/-- A slot of a leaf: its stamp word (R83), item ID, residual norm (bf16 bits), sketch and PQ code. -/
structure Slot where
  word : Nat
  id : Nat
  norm : Nat
  sketch : Nat
  code : Bytes
  deriving DecidableEq, Repr

/-- A summary record of a leaf (R108). -/
structure Summary where
  attr : Nat
  mode : Nat
  low : Nat
  high : Nat
  deriving DecidableEq, Repr

/-- A leaf (R90 to R93): its header's fields and its slots below HighWater. -/
structure Leaf where
  id : Nat
  /-- Its byte address in stack memory, as the leaf table holds it; 0 before it is placed. -/
  at_ : Nat
  /-- The root of the tree it belonged to when its copy gave that tree up (R112, R238); none in a copy's own tree. -/
  kept : Option Nat
  coll : Nat
  shoal : Nat
  watermark : Nat
  parent : Nat
  created : Nat
  maxNorm : Nat
  summaries : List Summary
  slots : List Slot
  deriving DecidableEq, Repr

inductive ChildRef where
  | empty
  | node (addr : Nat)
  | leaf (id : Nat)
  deriving DecidableEq, Repr

/-- A child entry with its centroid (R94); `radius0` is the radius it had when it was created (R242). -/
structure Child where
  ref : ChildRef
  radius : Nat
  radius0 : Nat
  maxNorm : Nat
  retired : Nat
  count : Nat
  centroid : Bytes
  deriving DecidableEq, Repr

/-- An internal node: its header's fields, whether it lies in shelf memory (R101; none before it is placed), its 64
children. `addr` is its number in this model: references go by it. -/
structure TreeNode where
  addr : Nat
  /-- Its byte address, 0 before it is placed. -/
  at_ : Nat
  /-- As for a leaf. -/
  kept : Option Nat
  level : Nat
  coll : Nat
  shoal : Nat
  parent : Nat
  created : Nat
  shelf : Option Bool
  kids : List Child
  deriving DecidableEq, Repr

inductive CopyState where
  | serving | filling | stale
  deriving DecidableEq, Repr

/-- A shoal copy that the node holds. -/
structure ShoalCopy where
  coll : Nat
  shoal : Nat
  replica : Bool
  state : CopyState
  /-- A Serving copy: the boundary at which it began to serve. Its tree holds what older work sees only from there on (R30). -/
  since : Nat
  root : Nat
  /-- Primary: the next change sequence number. Replica: the next one to apply. -/
  seq : Nat
  /-- The stream from the source has ended (R245). -/
  streamEnded : Bool
  /-- The sequence number up to which the source had forwarded when it ended the stream (R245). -/
  endSeq : Nat
  /-- The copy becomes Serving at the next boundary. -/
  servingNext : Bool
  /-- Deaccession marks of a fill: item and D (R246). -/
  marks : List (Nat × Nat)
  /-- A map of this boundary took the shoal away: freed once L passes it (R112). -/
  releaseAt : Option Nat
  /-- The primary holds the replica Stale (R228). -/
  replicaStale : Bool
  /-- The boundary F from which the source forwards changes to a filling copy (R245), 0 when none fills. -/
  forwardFrom : Nat
  /-- As a source: the leaves already streamed, while a stream runs, and the leaf whose records are being read. -/
  streamed : Option (List Nat)
  reading : Option Nat
  /-- It fills because a cold reset lost its tree: its own flash may rebuild it (R247). -/
  cold : Bool
  deriving DecidableEq, Repr

/-- A collection slot with a boundary: the closing boundary (R111) or the opening boundary. -/
structure Closing where
  slot : Nat
  boundary : Nat
  deriving DecidableEq, Repr

/-- An item record on flash (R102, R103), by the local index of its slot. -/
structure ItemRec where
  local_ : Nat
  id : Nat
  collId : Nat
  accTide : Nat
  dim : Nat
  format : Nat
  vec : Bytes
  metadata : Bytes
  deriving DecidableEq, Repr

/-- A deaccession's entry in the change log (R237). -/
structure LogEntry where
  coll : Nat
  shoal : Nat
  item : Nat
  local_ : Nat
  boundary : Nat
  /-- It withdraws the change that wrote this slot's record for this boundary (R227). -/
  withdrawn : Bool
  /-- Its logical codeword in region 4 (R474). -/
  codeword : Nat
  deriving DecidableEq, Repr

/-- An upkeep job of the open window (R242, R243): it replaces children of a node. What it makes stands in no child entry
until everything that it replaces has a new slot. -/
structure Upkeep where
  node : Nat
  entries : List Nat
  /-- The one child is an internal node that is split in two. -/
  split : Bool
  /-- Its new leaves and internal nodes have been made. -/
  begun : Bool
  /-- The new children go through entry 62 (R243). -/
  top : Bool
  /-- Once it has begun: the children that it replaces, as their entries name them. -/
  replaced : List ChildRef
  /-- The new child entries of the node. -/
  links : List Child
  /-- Each source leaf with the leaf that takes its live slots. -/
  moves : List (Nat × Nat)
  /-- The old and the new local index of every slot written so far. -/
  staged : List (Nat × Nat)
  nodes : List Nat
  leaves : List Nat
  deriving DecidableEq, Repr

/-- A job that has not begun. -/
def Upkeep.plan (node : Nat) (entries : List Nat) (split : Bool) : Upkeep := ⟨node, entries, split, false, false, [], [], [], [], [], []⟩

/-- A move that commits at the coming boundary (R242, R244): the local indexes of the old and the new slot, the stamp word
that the old slot held. -/
structure MovedItem where
  old : Nat
  new : Nat
  word : Nat
  deriving DecidableEq, Repr

/-- A tree that its copy no longer uses: running work may still read it, until L exceeds `until_` (R112, R238). -/
structure KeptTree where
  coll : Nat
  shoal : Nat
  root : Nat
  /-- The boundary at which it began to serve; past `until_` where it never did (R30). -/
  since : Nat
  until_ : Nat
  deriving DecidableEq, Repr

/-- An entry of the item directory (R237). -/
structure ItemEntry where
  coll : Nat
  shoal : Nat
  item : Nat
  local_ : Nat
  /-- The logical codeword in region 4 that holds it (R474). -/
  codeword : Nat
  deriving DecidableEq, Repr

/-- A record found on flash: its logical codewords, the record, the write sequence of its first codeword. -/
structure FoundRec where
  logicals : List Nat
  item : ItemRec
  seq : Nat
  deriving DecidableEq, Repr

structure IndexUnit where
  copies : List ShoalCopy
  nodes : List TreeNode
  leaves : List Leaf
  /-- The change ledger: local index and C (R86). -/
  ledger : List (Nat × Nat)
  nextAddr : Nat
  closings : List Closing
  /-- The opening boundary of every slot that is Open or Closing. -/
  openings : List Closing
  kept : List KeptTree
  /-- An upkeep window is open until this boundary; 0 when none is (R241). -/
  windowEnd : Nat
  /-- Items moved in the current Tide. -/
  movedNow : Nat
  jobs : List Upkeep
  /-- The moves that commit at the coming boundary. -/
  moved : List MovedItem
  records : List ItemRec
  /-- The item records that the rebuild after a cold reset read, for copies that rebuild themselves (R247). -/
  found : List FoundRec
  changeLog : List LogEntry
  directory : List ItemEntry
  /-- The stack and shelf pages that leaves and internal nodes lie in: first address and page count. -/
  extents : List (Nat × Nat)
  deriving DecidableEq, Repr

/-! Queries and fragments (04_query_execution.md). -/

/-- One entry of a list that leaves a node: item, score bits, Exact, shoal. -/
structure ListEntry where
  id : Nat
  score : Nat
  exact : Bool
  shoal : Nat
  deriving DecidableEq, Repr

/-- A fragment reply's figures and list (R154). -/
structure Reply where
  status : Nat
  /-- The suggested retry Tide of a refusal, as the response carried it; 0 with none. -/
  retry : Nat
  /-- A refusal for the age of the stamp (R33). -/
  aged : Bool
  certified : Bool
  openQuery : Bool
  notServed : Nat
  tiedLeftOut : Nat
  ceiling : Nat
  sumRest : Nat
  restCount : Nat
  verifyReads : Nat
  leavesScanned : Nat
  nodesExpanded : Nat
  list : List ListEntry
  deriving DecidableEq, Repr

/-- A fragment as its lead node sees it. -/
structure LeadFrag where
  /-- The tag of this request: a fresh one for each. -/
  sub : Nat
  /-- Its place in the list order of the merge: the lowest shoal of the fragment, or of the failed one it replaces (R187). -/
  place : Nat
  node : Nat
  shoals : List Nat
  /-- A reissue: the tag of the failed request whose shoals it carries (R156). -/
  reissueOf : Option Nat
  /-- It failed, and its shoals were reissued. -/
  reissued : Bool
  reply : Option Reply
  /-- When the request was sent, in sub-ticks (R594). -/
  sent : Nat
  deriving DecidableEq, Repr

/-- A query led and not yet completed (R121, R122). -/
structure Query where
  tag : Nat
  cmd : Nat
  coll : Nat
  stamp : Nat
  k : Nat
  commandId : Nat
  resultAddr : Nat
  width : Nat
  deadline : Nat
  cutoff : Nat
  openQuery : Bool
  filter : Bytes
  /-- D fp32 patterns, or the D/8 bytes of a Hamming query, one element each. -/
  vec : List Nat
  /-- Its encoder run has not ended yet (R119). -/
  encoding : Bool
  /-- Each shoal with the copy chosen at acceptance and the other copy (R595). -/
  routes : List (Nat × Nat × Nat)
  frags : List LeadFrag
  deriving DecidableEq, Repr

/-- A frontier entry: a child with its bound H as an ordered key, the least H on its path, centroid and radius. -/
structure Front where
  ref : ChildRef
  h : Nat
  least : Nat
  centroid : Bytes
  radius : Nat
  openSub : Bool
  shoal : Nat
  deriving DecidableEq, Repr

/-- An unresolved slot: its PQ interval as ordered keys and its B(x) (R130, R138). -/
structure Cand where
  local_ : Nat
  id : Nat
  shoal : Nat
  lo : Nat
  hi : Nat
  least : Nat
  reading : Bool
  deriving DecidableEq, Repr

/-- A resolved slot: its score's key, whether it passes the filter, and its B(x). -/
structure Resolved where
  id : Nat
  shoal : Nat
  key : Nat
  passes : Bool
  least : Nat
  deriving DecidableEq, Repr

/-- A fragment served here. -/
structure Fragment where
  id : Nat
  lead : Nat
  tag : Nat
  sub : Nat
  /-- Served for a query that this node leads. -/
  own : Bool
  coll : Nat
  stamp : Nat
  cutoff : Nat
  k : Nat
  width : Nat
  openQuery : Bool
  filter : Bytes
  vec : List Nat
  shoals : List Nat
  /-- Held until the boundary of its stamp (R32). -/
  held : Bool
  /-- Its shoals that it found not Serving when it began (R154, R245). -/
  unserved : Nat
  front : List Front
  cands : List Cand
  resolved : List Resolved
  verifyReads : Nat
  leavesScanned : Nat
  nodesExpanded : Nat
  /-- Reads in flight: local index and whether the read was a prefetch (R143). -/
  reads : List (Nat × Bool)
  arrived : Nat
  /-- Leaves whose sketch scan has ended, with the bytes that its ACCOUT gave (R142, R305); none where the scan failed. -/
  scans : List (Nat × Option Bytes)
  /-- It has met a leaf or node with an uncorrectable line (R570). -/
  failed : Bool
  deriving DecidableEq, Repr

structure QueryUnit where
  queries : List Query
  frags : List Fragment
  nextTag : Nat
  nextFrag : Nat
  /-- Turnaround times of replies of the current Tide: node, time in ns (R594). -/
  turnaround : List (Nat × Nat)
  /-- Nodes marked as stragglers: node and the boundary at which the mark ends (R594). -/
  stragglers : List (Nat × Nat)
  /-- Queue delays of fragments begun in the current Tide: collection, shoal, ns (R593). -/
  delays : List (Nat × Nat × Nat)
  /-- Routing draws made so far: the round-robin counter of R595. -/
  turns : Nat
  deriving DecidableEq, Repr

/-! Changes (07_accession.md). -/

/-- A change at its intake node. -/
structure Intake where
  tag : Nat
  cmd : Nat
  change : Change
  accepted : Nat
  done : Option ChangeDone
  deriving DecidableEq, Repr

/-- A slot that a change rewrote: its local index, the stamp word it held before and the C that the change ledger held
for it. -/
structure OldSlot where
  local_ : Nat
  word : Nat
  ledger : Option Nat
  deriving DecidableEq, Repr

/-- A change accepted at its primary and not yet complete (R225 to R229). -/
structure Accepted where
  change : Change
  seq : Nat
  commit : Nat
  result : Nat
  newSlot : Option Nat
  old : List OldSlot
  /-- The flash log write that this copy made for it (R237). -/
  write : Option Nat
  /-- The upkeep move that it undid (R244). -/
  undone : Option MovedItem
  ownDurable : Bool
  replicaDurable : Bool
  withdrawn : Bool
  deriving DecidableEq, Repr

/-- A sequenced change at the replica, applied or waiting for an earlier sequence number. -/
structure Sequenced where
  change : Change
  seq : Nat
  commit : Nat
  result : Nat
  primary : Nat
  applied : Bool
  /-- The flash log write that this copy made for it. -/
  write : Option Nat
  deriving DecidableEq, Repr

structure ChangeUnit where
  intakes : List Intake
  /-- Held past the cutoff with the Tide of arrival, in order (R225). -/
  held : List (Nat × Change)
  accepted : List Accepted
  sequenced : List Sequenced
  /-- Changes applied and not yet committed: collection, kind (0 accession, 1 deaccession, 2 upsert), boundary. -/
  committing : List (Nat × Nat × Nat)
  nextTag : Nat
  deriving DecidableEq, Repr

end Sys2Proof.Machine
end

