-- ==== Sys2Proof/Machine/UnitsMemory.lean ====
section
/-! DEFINITION. What the node holds of memory: pages and lines (08_memory_tiers.md), near-bank units (09_near_bank.md),
caches and home slices (12_coherence.md), flash channels and the Curator's map (14_flash_curator.md), owner slots. -/

namespace Sys2Proof.Machine

open Sys2Proof

/-! Stack and shelf memory. -/

/-- The metadata of a line that is not Free (R251): its line number, owner slot, and Plane instead of Data. -/
structure LineTag where
  line : Nat
  owner : Nat
  plane : Bool
  deriving DecidableEq, Repr

/-- Where a Tiered page lies: a stack or shelf page by its address, or flash. -/
inductive Tier where
  | stack (addr : Nat)
  | shelf (addr : Nat)
  | flash
  deriving DecidableEq, Repr

/-- A Tiered page (R262 to R265). -/
structure Page where
  id : PageId
  owner : Nat
  plane : Bool
  tier : Tier
  /-- Swap slot in region 3 (R474). -/
  swap : Nat
  /-- In flash: the lines that are not Free, with their Plane states (R273). -/
  states : List (Nat × Bool)
  /-- In flash: the lines whose data were uncorrectable when the page left memory (R570). -/
  lostLines : List Nat
  hist : Nat
  touched : Bool
  last : Nat
  /-- The work of a graph operator that waits for other pages holds the page busy (R264, R295). -/
  busy : Bool
  pinned : Bool
  deriving DecidableEq, Repr

/-- A page move in progress (R271 to R277). -/
structure Move where
  id : PageId
  to_ : Tier
  /-- Lines written during the move. -/
  marked : List Nat
  deriving DecidableEq, Repr

/-- A Fixed page that holds addressable lines: address, owner, Plane. -/
structure FixedPage where
  addr : Nat
  owner : Nat
  plane : Bool
  deriving DecidableEq, Repr

structure MemUnit where
  /-- Data bytes of the lines in plaintext; an unlisted byte reads 0 (a Free line reads as zeros, R251). The 72 bytes that the
  cells hold of a line, ciphertext with metadata and check bytes, are `storedLine`. -/
  cells : List Host.Cell
  tags : List LineTag
  /-- Lines whose check bytes show more than 3 erroneous bytes, or whose line state is reserved (R253). -/
  bad : List Nat
  /-- The erroneous bytes of a line: the difference of its 72 cell bytes from `storedLine` (R252, R568). -/
  cellErrors : List (Nat × Bytes)
  pages : List Page
  fixed : List FixedPage
  moves : List Move
  /-- Exported pages: the last pages of stack memory, so many (R261). -/
  exported : Nat
  /-- Addresses of pages out of service (R574), and those of them whose contents still wait to move away. -/
  retired : List Nat
  leaving : List Nat
  nextSwap : Nat
  /-- A stack demotion runs until free pages reach the high mark (R278). -/
  demoting : Bool
  /-- Shelf bytes reserved by loaded graphs for windows and scale areas. -/
  windowBytes : Nat
  /-- Shelf pages of the hot-row caches (R391). -/
  cachePages : Nat
  /-- Lines of a leaf or an internal node that a near-bank command has made Free (R290). -/
  blank : List Nat
  deriving DecidableEq, Repr

/-! Owner key slots (R601): slot and state (1 Active, 2 Sweeping); slot 0 is Node, every other slot Empty. -/
structure KeyUnit where
  slots : List (Nat × Nat)
  /-- Each slot's key, as the number of its draw (R603). -/
  gens : List (Nat × Nat)
  /-- Destroyed slots whose unmaps are not yet in a complete flush, with the flush epoch of the unmaps (R493). -/
  sweeping : List (Nat × Nat)
  deriving DecidableEq, Repr

/-! Caches and home slices. -/

inductive CState where
  | m | o | e | f | s
  deriving DecidableEq, Repr

/-- A line in an L1: its tag is the owner slot, or none for the Free mark (R396). -/
structure L1Line where
  core : Nat
  line : Nat
  st : CState
  data : Bytes
  tag : Option Nat
  deriving DecidableEq, Repr

/-- A line in the data array of its home slice. -/
structure SliceLine where
  line : Nat
  data : Bytes
  dirty : Bool
  tag : Option Nat
  deriving DecidableEq, Repr

/-- The sharers that a directory entry names: pointers, or clusters once Coarse is set. -/
structure Dir where
  line : Nat
  sharers : List Nat
  coarse : Bool
  deriving DecidableEq, Repr

inductive CohKind where
  | read | readOwn | upgrade | writeLine | readOnce | atomic
  deriving DecidableEq, Repr

/-- A request at a home slice. -/
structure CohReq where
  kind : CohKind
  core : Nat
  owner : Nat
  line : Nat
  off : Nat
  data : Bytes
  op : Nat
  expected : Bytes
  /-- From Strand, on a line of an Exported page: executes at the memory controller (R408). -/
  atMemory : Bool
  deriving DecidableEq, Repr

/-- A line whose request waits for acknowledgements, and the requests behind it (R402). -/
structure CohBusy where
  req : CohReq
  /-- The caches whose acknowledgement is due, `hostAgent` for the host's (R410). -/
  acks : List Nat
  queue : List CohReq
  deriving DecidableEq, Repr

/-- How a request at a home slice ended. -/
structure CohEnd where
  kind : CohKind
  core : Nat
  line : Nat
  status : Nat
  data : Bytes
  deriving DecidableEq, Repr

structure CohUnit where
  l1 : List L1Line
  slice : List SliceLine
  dirs : List Dir
  busy : List CohBusy
  ended : List CohEnd
  /-- LostLines (R405), and the boundary from which a lost line that found it full stops new work (R407). -/
  lost : List Nat
  fullFrom : Option Nat
  /-- Lines of host memory held in a slice under CXL.cache: host line, state letter as CXL.cache names it, data (R416). -/
  hostLines : List (Nat × Nat × Bytes)
  deriving DecidableEq, Repr

/-! Near-bank units. -/

/-- A command of a sequence, decoded. -/
inductive NbCmd where
  | end_
  | rowCopy (src dst : Nat)
  | rowInit (dst pattern reg : Nat)
  | rowLogic (dst a b op : Nat)
  | opLoadInline (reg value : Nat)
  | opLoadRow (reg row span : Nat)
  | popAcc (row start segs widthLog maskOp reg planes base weight shift : Nat) (subtract signedMask : Bool)
  | accOut (mode base count row line threshold : Nat)
  deriving DecidableEq, Repr

/-- What a sketch sequence is for (R305): its fragment and leaf, the page that takes its output, the Threshold. -/
structure SketchScan where
  frag : Nat
  leaf : Nat
  page : Option Nat
  threshold : Nat
  deriving DecidableEq, Repr

/-- A sequence accepted by a bank: its commands with their positions in the list. -/
structure NbSeq where
  owner : Nat
  tag : Nat
  completion : Nat
  cmds : List (Nat × NbCmd)
  /-- Commands still to run. -/
  left : List (Nat × NbCmd)
  count : Nat
  done : Nat
  pages : List Nat
  outputBytes : Nat
  saturated : Nat
  /-- Lines written so far. -/
  wrote : List Nat
  status : Nat
  failed : Nat
  /-- A sketch scan of node firmware; none for a sequence with a descriptor. -/
  scan : Option SketchScan
  deriving DecidableEq, Repr

inductive Grant where
  | none | refresh | external | unit
  deriving DecidableEq, Repr

structure Bank where
  id : Nat
  queue : List NbSeq
  /-- The sequence at the head of the queue has started. -/
  running : Bool
  acc : List Int
  regs : List Nat
  emulated : Bool
  /-- Opens of each row since its neighbours were last refreshed (R317). -/
  opens : List (Nat × Nat)
  /-- Rows that have been opened, with the bank's clock at the latest open (R316). -/
  opened : List (Nat × Nat)
  /-- The next refresh group. -/
  group : Nat
  /-- Slots that a due refresh still takes. -/
  refreshSlots : Nat
  /-- Rows in the unit's two staging buffers, the latest first, with their lines as read; none is a Free line. -/
  staged : List (Nat × List (Option Bytes))
  /-- How long the waiting external request has waited for the unit, in ns (R313). -/
  extWait : Nat
  grant : Grant
  /-- Use of the last 16 slots by the unit (R311), newest first. -/
  recent : List Bool
  /-- Consecutive slots through which the unit has waited for external requests (R310). -/
  waited : Nat
  /-- The bank's own clock: each refresh visit adds the refresh window in ms, of which 10,368 visits make a window (R314). -/
  visits : Nat
  /-- An external request was waiting at the last slot boundary and was not served (R313). -/
  extWaiting : Bool
  deriving DecidableEq, Repr

/-- A stack: its refresh window in ms, its latest temperature, consecutive readings at most 93 and at most 83 °C, whether
its duty is capped. -/
structure Stack where
  window : Nat
  temp : Nat
  cool95 : Nat
  cool85 : Nat
  capped : Bool
  deriving DecidableEq, Repr

/-- A sequence descriptor held at the issue port, and the pages that its commands name (R264, R275). -/
structure HeldIssue where
  desc : Bytes
  pages : List Nat
  deriving DecidableEq, Repr

structure NbUnit where
  /-- Banks that have had work or an event; every other bank is idle with zero registers. -/
  banks : List Bank
  thermal : List Stack
  /-- The power manager's near-bank duty in sixteenths (R312). -/
  duty : Nat
  /-- The issue port's answer to the latest descriptor: its tag and status. -/
  answer : Option (Nat × Nat)
  /-- Banks and rows in which work of an operator or a scan met an uncorrectable line; their test is still to start (R319). -/
  badRows : List (Nat × Nat)
  /-- Descriptors that name a page in flash or on the move, held until it lies in memory (R272, R275). -/
  issues : List HeldIssue
  deriving DecidableEq, Repr

/-! Flash. -/

/-- A physical codeword: its tag (R477) and data. -/
structure Cw where
  logical : Nat
  seq : Nat
  owner : Nat
  kind : Nat
  data : Bytes
  /-- The key under which it was encrypted (R475). -/
  key : BitVec 512
  deriving DecidableEq, Repr

/-- A physical place: channel, block, codeword position in the block. -/
structure Phys where
  chan : Nat
  block : Nat
  pos : Nat
  deriving DecidableEq, Repr

inductive BlockStage where
  | free | open_ | closed | erasing | retired
  deriving DecidableEq, Repr

/-- A block that has been used; a block never used is not listed. -/
structure Block where
  chan : Nat
  num : Nat
  stage : BlockStage
  erases : Nat
  reads : Nat
  fails : Nat
  /-- It belongs to the journal reserve (R507, R509). -/
  reserve : Bool
  /-- Flush epoch in which it was opened. -/
  openedEpoch : Nat
  /-- How many of its codewords were programmed when the latest complete flush began: the others' tags are applied by a rebuild (R489). -/
  flushedCws : Nat
  /-- Marked for relocation (R484, R494). -/
  marked : Bool
  /-- Tide of its oldest program. -/
  oldest : Nat
  /-- Flush epoch of the last map change that moved a codeword off it (R501). -/
  movedEpoch : Nat
  cws : List Cw
  deriving DecidableEq, Repr

/-- A codeword waiting in a word-line buffer of a channel. `src` is the source of a relocation; `num` numbers the flash log write that
it belongs to (R237, R479). -/
structure WriteItem where
  logical : Nat
  owner : Nat
  data : Bytes
  arrival : Nat
  src : Option Phys
  num : Nat
  deriving DecidableEq, Repr

/-- What a word line is programmed with: writes, copies of a relocation, or what the journal reserve holds (R509). -/
inductive Stream where
  | data | copy | log
  deriving DecidableEq, Repr

/-- A word line program in flight. -/
structure Program where
  chan : Nat
  block : Nat
  stream : Stream
  items : List (Nat × WriteItem)
  suspends : Nat
  deriving DecidableEq, Repr

structure EraseOp where
  chan : Nat
  block : Nat
  suspends : Nat
  deriving DecidableEq, Repr

/-- A relocation of a channel: the block, the target in use, entries switched so far with their source places. -/
structure Reloc where
  chan : Nat
  source : Nat
  target : Option Nat
  moved : List (Nat × Phys)
  /-- Started as urgent work (R497, R499). -/
  urgent : Bool
  deriving DecidableEq, Repr

/-- What a flash read is for. -/
inductive ReadUse where
  | verify (frag local_ : Nat)
  | page (id : PageId)
  | fill (coll shoal local_ : Nat)
  | wake (berth page : Nat)
  /-- A berth copy: a page in flash that a checkpoint, handoff or park takes (R485). -/
  | copy (berth page : Nat)
  /-- A rebuild's read of a physical codeword (R485, R489). -/
  | scan (chan block pos : Nat)
  | reloc
  deriving DecidableEq, Repr

structure FlashRead where
  id : Nat
  at_ : Phys
  logical : Nat
  owner : Nat
  cls : Nat
  use : ReadUse
  /-- Dispatched to its LUN. -/
  active : Bool
  deriving DecidableEq, Repr

/-- A flash read that has ended: OK or UNCORRECTABLE. -/
structure FlashDone where
  use : ReadUse
  logical : Nat
  status : Nat
  data : Bytes
  deriving DecidableEq, Repr

/-- A channel after enumeration. -/
structure Chan where
  num : Nat
  rate : Nat
  targets : Nat
  luns : Nat
  /-- The accepted targets' numbers and whether each advertises suspend (R486). -/
  ids : List Nat
  suspends : List Bool
  /-- Raw bytes of a LUN. -/
  lunBytes : Nat
  /-- Codewords of a block and of a word line. -/
  perBlock : Nat
  wordLine : Nat
  /-- Data blocks in service; blocks never used start at `fresh`. -/
  inService : Nat
  fresh : Nat
  spares : Nat
  /-- Blocks of the journal reserve (R507). -/
  reserve : Nat
  /-- Buffers of writes, of relocations and of the journal reserve. -/
  writes : List WriteItem
  copies : List WriteItem
  logs : List WriteItem
  reads : Nat
  deriving DecidableEq, Repr

/-- A flush in progress: its boundary, the map that it makes recoverable, its epoch, its region 5 codewords, and whether they hold the
whole map. -/
structure Flush where
  boundary : Nat
  map : List (Nat × Phys)
  epoch : Nat
  words : List Nat
  whole : Bool
  /-- The blocks in use when it began: channel, block, codewords programmed. -/
  places : List (Nat × Nat × Nat)
  deriving DecidableEq, Repr

/-- How far the rebuild after a cold reset has come: it reads the tags, then the item records and the directory. -/
inductive Rebuild where
  | none | tags | records
  deriving DecidableEq, Repr

structure FlashUnit where
  enumerated : Bool
  rebuild : Rebuild
  chans : List Chan
  blocks : List Block
  map : List (Nat × Phys)
  /-- The map of the latest complete flush (R489). -/
  flushed : List (Nat × Phys)
  lastFlush : Nat
  /-- When the next flush is due. -/
  flushDue : Nat
  flush : Option Flush
  /-- Map changes carry the current epoch; those below the durable epoch are in a complete flush. -/
  epoch : Nat
  durable : Nat
  programs : List Program
  erases : List EraseOp
  relocs : List Reloc
  reads : List FlashRead
  done : List FlashDone
  nextRead : Nat
  seq : Nat
  windowEnd : Nat
  /-- Channels that collect urgently (R497), and whether one did in the current Tide. -/
  urgent : List Nat
  urgentTide : Bool
  /-- Relocations that wait for the one under way on their channel: channel, block, urgent (R499, R504). -/
  queue : List (Nat × Nat × Bool)
  /-- The number of the next flash log write. -/
  nextWrite : Nat
  /-- Retirements since the latest flush began (R488), and the next offset of a retirement in region 5 (R490). -/
  retirements : List (Nat × Nat)
  nextRetire : Nat
  /-- Lost logical codewords (R506). -/
  lost : List Nat
  /-- Dies out of service: channel and die. -/
  deadDies : List (Nat × Nat)
  /-- The set of accepted targets whose blocks have been divided (R507). -/
  divided : List (Nat × Nat)
  /-- Next offset in region 4. -/
  nextLog : Nat
  /-- The region 5 codewords of the complete flushes that describe `flushed`, and the next offset of one. -/
  journal : List Nat
  nextJournal : Nat
  /-- The Fixed stack pages that hold the map (R476). -/
  mapPages : List Nat
  deriving DecidableEq, Repr

end Sys2Proof.Machine
end

