-- ==== Sys2Proof/Machine/UnitsModel.lean ====
section
/-! DEFINITION. What the node holds for graphs and runs (10_operator_graphs.md), berths, metering and embedding tables
(11_sessions_pools_tables.md). -/

namespace Sys2Proof.Machine

open Sys2Proof

/-! Graphs. -/

inductive SlotStage where
  | empty | loading | loaded | unloading
  deriving DecidableEq, Repr

/-- A chunk of a streamed weight tensor in a half of the window (R284): the run and operator it was filled for, its number, the status
with which its bytes were read from stack memory, and those bytes. -/
structure Fill where
  run : Nat
  op : Nat
  chunk : Nat
  status : Nat
  data : Bytes
  deriving DecidableEq, Repr

/-- A graph slot that is not Empty: its image and what it holds. -/
structure GraphSlot where
  num : Nat
  stage : SlotStage
  image : Bytes
  digest : Nat
  owner : Nat
  kind : Nat
  weightBytes : Nat
  scratchBytes : Nat
  /-- Fixed stack and shelf pages that it holds, and the shelf bytes of its window. -/
  pages : List Nat
  shelf : Nat
  /-- The unload command that waits for its runs (R354). -/
  unload : Option Nat
  /-- The pages that hold each stored tensor, in order (R329). -/
  places : List (Nat × List Nat)
  /-- The two halves of the window, and the half that the next chunk fills (R285). -/
  halves : List (Option Fill)
  turn : Nat
  /-- The scale area: the tensor whose scale vector it holds, the status of its read, its bytes (R284). -/
  scales : Option (Nat × Nat × Bytes)
  deriving DecidableEq, Repr

/-- A LOOP in progress: its operator, its LastOp, its count, the iteration. -/
structure Loop where
  op : Nat
  last : Nat
  count : Nat
  iter : Nat
  deriving DecidableEq, Repr

/-- What a run is for: a host command, or the encoder of a query (R356). -/
inductive RunUse where
  | command (cmd : Nat)
  | encode (query : Nat)
  deriving DecidableEq, Repr

structure Run where
  id : Nat
  use : RunUse
  slot : Nat
  owner : Nat
  stamp : Nat
  seed : Nat
  /-- Sub-tick of the deadline, 0 for none. -/
  deadline : Nat
  berth : Option Nat
  phaseEnd : Bool
  /-- It waits for a hold on its berth (R351, R365). -/
  waiting : Bool
  pc : Nat
  /-- Tensors written so far, by number. -/
  tensors : List (Nat × List Nat)
  loops : List Loop
  /-- Held by TIDE_WAIT until this boundary. -/
  holdTide : Option Nat
  /-- Chunks that the engines have released for the operator at pc (R285), the bytes of those chunks, and the scale vector as it stood
  before the first of them. -/
  fills : Nat
  streamed : Bytes
  scaleVec : Bytes
  outputs : List (Nat × Nat)
  pages : Nat
  /-- MERGE_UPDATE has sent its rows; the highest status of the answers so far (R340). -/
  asked : Bool
  answer : Nat
  /-- Pages that it waits for; they are busy (R264). -/
  needs : List PageId
  deriving DecidableEq, Repr

structure GraphUnit where
  slots : List GraphSlot
  runs : List Run
  nextRun : Nat
  /-- The output registers and the 48-byte summary of the last select operation (R167). -/
  selected : Bytes
  summary : Bytes
  deriving DecidableEq, Repr

/-! Berths. -/

inductive BerthState where
  | free | resident | moving | parking | parked | waking | recovering | lost
  deriving DecidableEq, Repr

/-- The ownership word (R371). -/
structure Word where
  owner : Nat
  seq : Nat
  lease : Nat
  parked : Bool
  recovering : Bool
  deriving DecidableEq, Repr

/-- A berth command that waits (R365). -/
structure BerthWait where
  cmd : Nat
  opcode : Nat
  deriving DecidableEq, Repr

/-- A berth record at its home (R360), with its ownership word; a Free number keeps its word's sequence (R369). -/
structure HomeBerth where
  num : Nat
  state : BerthState
  ownerSlot : Nat
  geo : Geometry
  pinned : Bool
  shadow : Option Nat
  checkpoints : Nat
  checkpointTide : Nat
  word : Word
  tokens : List Nat
  parkTide : Nat
  /-- The parked copy counts as the checkpoint (R376). -/
  parkedCopy : Bool
  /-- Parked pages: number and line states (R273). -/
  parkedPages : List (Nat × List (Nat × Bool))
  /-- The number of the checkpoint whose park found no space here; 0 for none (R366, R508). -/
  refusedPark : Nat
  /-- The node that holds the last checkpoint recorded (R376, R377). -/
  ckptAt : Option Nat
  /-- The number of the last checkpoint recorded. -/
  lastCkpt : Nat
  /-- Its owner slot was destroyed while it was in use (R370). -/
  swept : Bool
  /-- Commands that wait on it while it is Parked (R365). -/
  waits : List BerthWait
  deriving DecidableEq, Repr

/-- What an owner does with its berth. -/
inductive BerthTask where
  | none
  | park (cmd : Option Nat)
  | wake (cmd : Option Nat) (began : Nat)
  | handoff (cmd target : Nat) (swapped : Bool)
  | checkpoint (cmd : Option Nat)
  /-- The checkpoint of an ATTEND with PhaseEnd: its command, run seed, status and failing operator (R368). -/
  | phaseEnd (cmd seed status failed : Nat)
  deriving DecidableEq, Repr

/-- A berth that this node holds: as owner, or as an unconfirmed copy (R374). -/
structure OwnedBerth where
  id : Nat
  state : BerthState
  ownerSlot : Nat
  geo : Geometry
  pinned : Bool
  tokens : List Nat
  seq : Nat
  /-- Expiry of the last successful renewal (R372). -/
  lease : Nat
  renewed : Nat
  unconfirmed : Bool
  /-- The next read of the word (R374). -/
  resolveAt : Nat
  shadow : Option Nat
  /-- Pages written since the last checkpoint; a checkpoint after a replacement is full. -/
  dirty : List Nat
  /-- Pages sent to the shadow and not yet acknowledged. -/
  unacked : List Nat
  /-- Pages sent to a handoff's target, or to a remote home for a park, and not yet acknowledged. -/
  uncopied : List Nat
  /-- Pages in flash that are read for a copy (R483): page, use, destination. -/
  fetch : List (Nat × BerthUse × Nat)
  /-- Checkpoints begun since it came here; a checkpoint waits for the home to name a shadow (R376). -/
  made : Nat
  seeking : Bool
  /-- Its lease has run out (R372). -/
  expired : Bool
  task : BerthTask
  /-- The run that holds the berth (R351). -/
  holder : Option Nat
  waits : List BerthWait
  /-- All pages of the wake have been read; it becomes Resident at the next boundary. -/
  wakeReady : Bool
  eventTide : Nat
  deriving DecidableEq, Repr

/-- A checkpoint at the shadow (R375); its pages are Tiered pages. The number of the newest one, of which pages come in, with its token
counts, and the token counts of the one before. -/
structure HeldRecord where
  berth : Nat
  ownerSlot : Nat
  geo : Geometry
  pinned : Bool
  number : Nat
  tokens : List Nat
  lastTokens : List Nat
  deriving DecidableEq, Repr

/-- What waits until a berth record is durable (R361): a completion, the answer to a whole message, a message, a word atomic's response. -/
inductive BerthAnswer where
  | done (cmd status : Nat) (specific : Bytes) (retry : Nat)
  | message (src type status : Nat)
  | control (dest : Nat) (words : List Nat)
  | word (req : Frame) (status : Nat) (old : Bytes)
  deriving DecidableEq, Repr

/-- A message that waits for stack pages (R281): a berth page, or a CREATE of another node with its home here. -/
inductive BerthHeld where
  | page (src : Nat) (page : BerthPage)
  | create (src cmd ownerSlot : Nat) (geo : Geometry) (pinned : Bool)
  deriving DecidableEq, Repr

structure BerthUnit where
  homes : List HomeBerth
  owned : List OwnedBerth
  heldRecords : List HeldRecord
  /-- The Fixed stack pages of records and words: the group of 1,024 numbers and the page's address (R361). -/
  recordPages : List (Nat × Nat)
  /-- Answers held for the journal, each with the number of the flash log write it waits for (R361). -/
  answers : List (Nat × BerthAnswer)
  /-- Messages held for stack pages (R281). -/
  held : List BerthHeld
  /-- Nodes that refused or failed the last shadow request of a berth (R376). -/
  refused : List (Nat × Nat)
  /-- Metering: owner slot, class, resource-Tides; the first boundary counted; the reports kept (R379, R380). -/
  meters : List (Nat × Nat × Nat)
  firstTide : Nat
  reports : List (Nat × Bytes)
  deriving DecidableEq, Repr

/-! Tables. -/

/-- A directory entry that this shoal node holds: its two row pointers. -/
structure DirEntry where
  slot : Nat
  row : Nat
  cur : Nat
  prior : Nat
  deriving DecidableEq, Repr

/-- An update accepted for a Tide (R389): the commit boundary, requester node and sequence, the row's bytes. -/
structure RowUpdate where
  slot : Nat
  row : Nat
  commit : Nat
  node : Nat
  seq : Nat
  data : Bytes
  /-- The granule reserved for the row's next version, 0 where another node stores the row. -/
  granule : Nat
  /-- The sum has gone to the row's storage node, whose version is awaited (R389). -/
  sent : Bool
  deriving DecidableEq, Repr

/-- Rows of a tide-snapshot PUT staged here (R388). -/
structure StagedRow where
  slot : Nat
  row : Nat
  granule : Nat
  apply : Nat
  put : Nat × Nat
  committed : Bool
  deriving DecidableEq, Repr

/-- A row that this node reads from other nodes (R382, R383). -/
structure FarRow where
  user : RowUser
  slot : Nat
  row : Nat
  stamp : Nat
  /-- Tide P of the entry read. -/
  tide : Nat
  /-- The entry's two pointers, once read. -/
  entry : Option (Nat × Nat)
  /-- The version chosen, and the lines of its granules that have come, by number. -/
  ptr : Nat
  lines : List (Nat × Bytes)
  /-- The end: a status, and the row's bytes. -/
  done : Option (Nat × Bytes)
  deriving DecidableEq, Repr

/-- Who awaits the outcome of an update or replacement at a shoal node: a host command or a run of the node, or the sender of a message. -/
inductive Asker where
  | cmd (id : Nat) | run (id : Nat) | msg (m : Delivered) | nobody
  deriving DecidableEq, Repr

/-- What a shoal node has asked of a storage node. -/
inductive AskKind where
  /-- Granules for the row's next version: the updates that wait for them, each with its requester. -/
  | reserve (updates : List (Asker × Nat × Nat × Bytes))
  /-- A replacement of the row by a PUT. -/
  | replace (who : Asker)
  /-- The sum of a Tide. -/
  | sums
  /-- A base copy, or a sum, of a migration. -/
  | migration
  deriving DecidableEq, Repr

structure Ask where
  tag : Nat
  slot : Nat
  row : Nat
  commit : Nat
  kind : AskKind
  deriving DecidableEq, Repr

/-- A migration's copy that this node makes as H1: the version copied, its Tide, and the sums that wait for it (R392). -/
structure BaseCopy where
  slot : Nat
  row : Nat
  shoal : Nat
  commit : Nat
  sums : List (Nat × Bytes)
  deriving DecidableEq, Repr

/-- Reads of a stored row in a load period: how often, and how many bytes (R392). -/
structure ServedRow where
  slot : Nat
  row : Nat
  count : Nat
  bytes : Nat
  deriving DecidableEq, Repr

/-- A PUT or UPDATE at its intake node. -/
structure RowCommand where
  cmd : Nat
  slot : Nat
  put : Bool
  apply : Nat
  /-- Shoal nodes that have not answered. -/
  waiting : List Nat
  nodes : List Nat
  failed : Bool
  committed : Bool
  status : Nat
  deriving DecidableEq, Repr

/-- A migration that this shoal node runs (R392). -/
structure Migration where
  slot : Nat
  row : Nat
  target : Nat
  /-- Boundary M, at which H1 is sent the pointer; it has been sent. -/
  mark : Nat
  begun : Bool
  /-- The version that H1's copy holds: its pointer at H1, once reported. -/
  copy : Option Nat
  switchAt : Option Nat
  deriving DecidableEq, Repr

/-- Lookups of a row since the last refresh (R391). -/
structure LookedRow where
  slot : Nat
  row : Nat
  count : Nat
  deriving DecidableEq, Repr

/-- A cached hot row: the pointer it was filled under and its bytes (R391). -/
structure HotRow where
  slot : Nat
  row : Nat
  ptr : Nat
  data : Bytes
  deriving DecidableEq, Repr

/-- A table slot with its closing or opening boundary (R381). -/
structure TableClosing where
  slot : Nat
  boundary : Nat
  deriving DecidableEq, Repr

structure TableUnit where
  dirs : List DirEntry
  /-- Granules in use, by table slot, and first granules of versions that ceased to be named, by table slot, with the
  boundary at which they are freed (R384). -/
  granules : List (Nat × Nat)
  freeing : List (Nat × Nat × Nat)
  updates : List RowUpdate
  staged : List StagedRow
  commands : List RowCommand
  migrations : List Migration
  hot : List HotRow
  looked : List LookedRow
  /-- Shelf pages of each table's hot-row cache: slot and pages. -/
  cachePages : List (Nat × Nat)
  /-- Stored rows read in the load period, and those of the period before, which are ranked. -/
  served : List ServedRow
  ranked : List ServedRow
  /-- Loads of the current period that other shoal nodes reported: slot, node, load. -/
  loads : List (Nat × Nat × Nat)
  closings : List TableClosing
  /-- The opening boundary of every slot that is Open or Closing. -/
  openings : List TableClosing
  /-- Rows being read from other nodes. -/
  far : List FarRow
  /-- Requests to storage nodes, and the whole messages whose answer waits for them, with the status so far. -/
  asks : List Ask
  nextAsk : Nat
  owed : List (Delivered × Nat)
  /-- The versions that this node holds for other shoal nodes or as a migration's copy: slot, row, pointer; granules reserved for their
  next versions; base copies under way. -/
  stored : List (Nat × Nat × Nat)
  ahead : List (Nat × Nat × Nat)
  bases : List BaseCopy
  /-- READs of directory lines held for a version that a storage node has not installed (R389), with their colour: a yellow one is served
  after every green one of its class (R468). -/
  heldReads : List (Frame × Bool)
  deriving DecidableEq, Repr

end Sys2Proof.Machine
end

