-- ==== Sys2Proof/Machine/UnitsService.lean ====
section
/-! DEFINITION. What the node holds for errors, tests, spares, signed commands, margins and power (17_reliability.md,
19_reset_power.md, 20_electrical.md), and for keys, firmware images and provenance (18_security.md). -/

namespace Sys2Proof.Machine

open Sys2Proof

/-- An error event that waits for the result of its unit's test: code, status given, detail, Tide and phase. -/
structure EventWait where
  code : Nat
  status : Nat
  detail : Nat
  tide : Nat
  phase : Nat
  deriving DecidableEq, Repr

/-- A targeted self-test in progress (R571): the unit, the place inside it (a row, a lane), its start in sub-ticks. -/
structure Test where
  unit : Nat
  place : Nat
  /-- It runs; a test of a parent unit waits for the one before it (R575). -/
  begun : Bool
  began : Nat
  events : List EventWait
  /-- Requested by SelfTestRequest, not by an error. -/
  requested : Bool
  /-- The test of a block after its reset (R628). -/
  afterReset : Bool
  /-- The free block that a flash die's test programs, reads and erases (R578): channel and block. -/
  block : Option (Nat × Nat)
  deriving DecidableEq, Repr

/-- Spares of a kind taken in a parent unit. -/
structure SpareUse where
  kind : Nat
  parent : Nat
  used : Nat
  deriving DecidableEq, Repr

/-- An accepted signed command that takes effect at a boundary (R589). -/
structure SignedEffect where
  at_ : Nat
  command : Nat
  target : Nat
  keys : Bytes
  deriving DecidableEq, Repr

structure RelUnit where
  tests : List Test
  /-- Transient events: unit, the row in it where rows are tested each, and Tide (R573). -/
  transients : List (Nat × Nat × Nat)
  /-- Latest passed test of each unit or row. -/
  passed : List (Nat × Nat × Nat)
  spares : List SpareUse
  /-- Logical cores without a core, clusters out of service (R19, R20). -/
  deadCores : List Nat
  deadClusters : List Nat
  /-- Lasting faults of whole kinds: matrix engines, TSV channels at half width, lanes. -/
  halfChannels : List Nat
  /-- The cluster that each die's spare cluster replaces: die and cluster. -/
  clusterOn : List (Nat × Nat)
  /-- Rows served from a spare row, for a test or for good: unit, row, the number of the spare (R572). The latest spare of a row serves it. -/
  spareRows : List (Nat × Nat × Nat)
  /-- Columns that failed in a row: unit, row, column (R572). -/
  badColumns : List (Nat × Nat × Nat)
  /-- Key cells lost for want of a spare: security block and owner slot (R579). -/
  badKeys : List (Nat × Nat)
  signed : List SignedEffect
  /-- Fragment failures that make a copy avoided: node, shoal owner collection and shoal, until Tide (R595). -/
  avoided : List (Nat × Nat × Nat × Nat)
  /-- Rail droop maxima in mV and cluster slack minima in ps of the current MarginPeriod, and when it began. -/
  droop : List Nat
  slack : List Nat
  marginFrom : Nat
  /-- Clusters whose low slack has been logged in this MarginPeriod. -/
  logged : List Nat
  deriving DecidableEq, Repr

/-- Power management (R24 to R26, R632 ff.). -/
structure PowerUnit where
  clockMHz : Nat
  /-- By how much R25 has lowered the clock, and the issue rates of the matrix and distance engines in sixteenths. -/
  lowered : Nat
  matrixRate : Nat
  distanceRate : Nat
  /-- Samples of package power of the current 100 μs average, in W, oldest first. -/
  samples : List Nat
  throttled : Bool
  /-- The current Tide has been counted as throttled. -/
  counted : Bool
  /-- The VDD_CORE regulator has failed to respond (R640). -/
  avsLost : Bool
  deriving DecidableEq, Repr

/-- A firmware image being received or written (R612 to R614). -/
structure ImageRx where
  /-- The CAP request of the end action that awaits its response; none over the mailbox command. -/
  req : Option CapReq
  bytes : Bytes
  /-- The whole image has arrived and is being verified. -/
  verifying : Bool
  /-- Verified and being written. -/
  writing : Bool
  /-- The Strand message that brought the end action. -/
  frame : Option Frame
  deriving DecidableEq, Repr

structure SecUnit where
  /-- Graph keys: owner slot and 512-byte modulus (R604). -/
  graphKeys : List (Nat × Bytes)
  /-- Registered keys that are not durable yet. -/
  keysPending : List (Nat × Bytes)
  /-- The image in the reserved blocks, the image in use, an image being received. -/
  image : Bytes
  running : Bytes
  rx : Option ImageRx
  /-- TRNG: 0 testing, 1 healthy, 2 failed. -/
  trng : Nat
  trngSince : Nat
  /-- SPDM and IDE_KM requests since the link came up, oldest first: what their answers depend on (R513). -/
  doe : List Bytes
  deriving DecidableEq, Repr

end Sys2Proof.Machine
end

