-- ==== Sys2Proof/Machine/State.lean ====
section
/-! DEFINITION. The node's state, whole: plain data, one field per unit; how a step can stop; the machine right after
reset. -/

namespace Sys2Proof.Machine

open Sys2Proof

/-- Mailbox return codes that the manual names (R530, R531, R659). -/
inductive MailCode where
  | success | invalidInput | unsupported
  deriving DecidableEq, Repr

/-- What leaves the node: pulses, blocks, frames, CAP responses, host writes and interrupt messages, oldest first. -/
inductive Output where
  /-- A TIDE_OUT pulse: delay of its rising edge after the boundary in ns, phase of its falling edge. -/
  | tideOut (delayNs fall : Nat)
  | block (port : Nat) (bytes : Bytes)
  | frame (port link : Nat) (frame : Frame)
  /-- A frame that ends with the bitwise inverse of its CRC (R432). -/
  | stomped (port link : Nat) (frame : Frame)
  | cap (path : Path) (resp : CapResp)
  | hostWrite (addr : Nat) (bytes : Bytes)
  | msix (addr data : Nat)
  /-- A CXL.mem data response: bytes, or the poison bit set with zero bytes (R528). -/
  | memData (hpa : Nat) (poison : Bool) (bytes : Bytes)
  /-- A CXL.mem completion of a write. -/
  | memDone (hpa : Nat)
  /-- A back-invalidation of a line, or of a block of lines (R527). -/
  | bisnp (line count : Nat)
  /-- A mailbox output: return code and payload (R530). -/
  | mailbox (code : MailCode) (bytes : Bytes)
  /-- A memory request to BAR0 completed with Unsupported Request (R514). -/
  | unsupported
  /-- A DOE response. -/
  | doe (bytes : Bytes)
  /-- A response to a CXL.cache snoop: the line, whether it was held, its data where dirty data moves (R416). -/
  | snoop (line : Nat) (held : Bool) (data : Bytes)
  deriving DecidableEq, Repr

structure State where
  /-- Commands that wait, first in, first out. -/
  pending : List Instr
  out : List Output
  /-- The number of free values drawn so far: the model's own counter, no register of the part. -/
  free : Nat
  tide : TideUnit
  cat : CatUnit
  cap : CapUnit
  log : EventLog
  rst : ResetUnit
  pwr : PowerUnit
  strand : StrandUnit
  host : HostUnit
  idx : IndexUnit
  qry : QueryUnit
  chg : ChangeUnit
  mem : MemUnit
  key : KeyUnit
  coh : CohUnit
  nb : NbUnit
  flash : FlashUnit
  gph : GraphUnit
  berth : BerthUnit
  tbl : TableUnit
  rel : RelUnit
  sec : SecUnit
  deriving DecidableEq, Repr

/-- Why a step stops with a fault. -/
inductive Fault where
  /-- An access names a node physical address outside the memory map of R249: raised by the commands that name a raw node
  physical address (near-bank descriptors, cache and home-slice requests, firmware cache operations). Safe: the machine
  stops where the manual gives no memory. -/
  | noMemory (addr : Nat)
  deriving DecidableEq, Repr

/-- Why a step refuses a command. -/
inductive Refusal where
  /-- The command's meaning has not been written. Raised by Dispatch only. Safe: nothing can be proved of it. -/
  | notModelled (mnemonic : String)
  deriving DecidableEq, Repr

/-- The outcome of a command. -/
abbrev Result := Host.Outcome State Fault Refusal

/-! The units in a cold reset (R618, R619, the table "Effects by level and in Neap"). -/

/-- R38, R39. -/
def TideUnit.cold : TideUnit :=
  { running := false, master := false, periodNs := 100000, delayNs := 0, nextPeriod := none, count := 0, phase := 0
    overrun := 0, state := .acquiring, missedRun := 0, goodRun := 0, periodRun := 0, anyEdge := false, ignoredNs := 0
    placedNs := 0, made := 0, intervals := [], measuredNs := 0, periodFault := false, conflictFault := false, symbols := [], implied := none
    beacons := [], beaconAdopt := none }

def CatUnit.fresh : CatUnit :=
  { vals := [], waiting := [], history := [], tw := [], bootA := ⟨true, 0, []⟩, bootB := ⟨true, 0, []⟩, region5 := [], owed := [], bootRetry := false
    published := none }

def CapUnit.cold : CapUnit := ⟨[], none, 0⟩

def Port.cold : Port :=
  { state := .disabled, mask := 0, reversed := false, polarity := 0, neighbour := 0, txSeq := 0, rxSeq := 0, retry := []
    credits := List.replicate 48 0, queues := List.replicate 16 [], buckets := List.replicate 16 0
    deficits := List.replicate 16 0, next := 0, depthHist := List.replicate 256 0, delayHist := List.replicate 256 0
    laneSwitch := none, failed := [], spareUsed := false, fourLanes := false, faults := 0, helloTide := 0 }

def StrandUnit.cold : StrandUnit :=
  { ports := List.replicate 6 Port.cold, nodeId := 0, dimX := 1, dimY := 1, dimZ := 1, coordFault := false, requests := []
    ended := [], outMsgs := [], inMsgs := [], delivered := [], nextMsg := 0, nextTag := 0, requesterSeq := 0, replay := [], replayPages := [], regs := []
    registered := [], remoteLines := [], publishes := [], meters := [] }

def Pair.cold : Pair :=
  { sqBase := 0, cqBase := 0, sqM1 := 0, cqM1 := 0, qEnable := false, intEnable := false, vector := 0, enabled := false
    fault := false, cause := 0, coalCount := 0, coalUs := 0, sqTail := 0, cqHead := 0, sqHead := 0, cqTail := 0, phase := true
    stopped := false, winding := false, uncovered := 0 }

def HostUnit.cold : HostUnit :=
  { linkUp := false, degraded := false, ide := [], width := 0, rate := 0, enable := false, ready := false, draining := false
    linkLost := false, enablePending := none, disablePending := none, resumePending := none, drainFrom := 0
    pairs := List.replicate 64 Pair.cold, msix := List.replicate 64 ⟨0, 0, true, false⟩, cmds := [], nextCmd := 0
    hdmCommitted := false, hdmBase := 0, hdmError := false, hostHeld := [], bisnp := [], zeroNext := 0, zeroEnd := 0, held := [], nextHeld := 0, late := [], mailBusy := false, bar := [] }

def IndexUnit.cold : IndexUnit :=
  { copies := [], nodes := [], leaves := [], ledger := [], nextAddr := 64, closings := [], openings := [], kept := []
    windowEnd := 0, movedNow := 0, jobs := [], moved := [], records := [], found := [], changeLog := [], directory := [], extents := [] }

def QueryUnit.cold : QueryUnit :=
  { queries := [], frags := [], nextTag := 0, nextFrag := 0, turnaround := [], stragglers := [], delays := [], turns := 0 }

def ChangeUnit.cold : ChangeUnit := { intakes := [], held := [], accepted := [], sequenced := [], committing := [], nextTag := 0 }

def MemUnit.cold : MemUnit :=
  { cells := [], tags := [], bad := [], cellErrors := [], pages := [], fixed := [], moves := [], exported := 0, retired := [], leaving := [], nextSwap := 0
    demoting := false, windowBytes := 0, cachePages := 0, blank := [] }

def CohUnit.cold : CohUnit := { l1 := [], slice := [], dirs := [], busy := [], ended := [], lost := [], fullFrom := none, hostLines := [] }

def NbUnit.cold : NbUnit := { banks := [], thermal := List.replicate 8 ⟨32, 0, 0, 0, false⟩, duty := 16, answer := none, badRows := [], issues := [] }

def FlashUnit.fresh : FlashUnit :=
  { enumerated := false, rebuild := .none, chans := [], blocks := [], map := [], flushed := [], lastFlush := 0, flushDue := 0, flush := none
    epoch := 0, durable := 0, programs := [], erases := [], relocs := [], reads := [], done := [], nextRead := 0, seq := 0
    windowEnd := 0, urgent := [], urgentTide := false, queue := [], nextWrite := 0, retirements := [], nextRetire := 0
    lost := [], deadDies := [], divided := [], nextLog := 0
    journal := [], nextJournal := 0, mapPages := [] }

/-- The select registers have no reset value in the manual: they hold zeros (DESIGN CHOICE, notes/assumptions/89.md). -/
def GraphUnit.cold : GraphUnit := ⟨[], [], 0, List.replicate 2048 0, List.replicate 48 0⟩

def BerthUnit.fresh : BerthUnit :=
  { homes := [], owned := [], heldRecords := [], recordPages := [], answers := [], held := [], refused := [], meters := [], firstTide := 0, reports := [] }

def TableUnit.cold : TableUnit :=
  { dirs := [], granules := [], freeing := [], updates := [], staged := [], commands := [], migrations := [], hot := []
    looked := [], cachePages := [], served := [], ranked := [], loads := [], closings := [], openings := [], far := [], asks := []
    nextAsk := 0, owed := [], stored := [], ahead := [], bases := [], heldReads := [] }

def RelUnit.fresh : RelUnit :=
  { tests := [], transients := [], passed := [], spares := [], deadCores := [], deadClusters := [], halfChannels := [], clusterOn := [], spareRows := [], badColumns := [], badKeys := []
    signed := [], avoided := [], droop := [], slack := [], marginFrom := 0, logged := [] }

/-- A cold reset asserted by power-on (source 1), whose release point has not passed; nothing is released. -/
def ResetUnit.powerOn : ResetUnit :=
  { asserted := some ⟨1, 0, 0, 0, 0, 0⟩, running := none, toRelease := [], released := [], pause := .firmware, romStarting := false
    recovery := false, identityFault := false, requested := none, resetN := true, railsGood := true, alert := false
    thermTrip := false, hot := false, quiesceNext := [], quiescing := [], quiesced := [], powerState := 0, neapFrom := 0
    drains := [], slack := [], tap := .idcode }

def PowerUnit.cold : PowerUnit := ⟨2500, 0, 16, 16, [], false, false, false⟩

def SecUnit.fresh : SecUnit := ⟨[], [], Config.factoryImage, [], none, 0, 0, []⟩

/-- The machine right after reset: power has come up and asserted a cold reset on a part as delivered (every Catalogue
entry at its default, flash empty but for the firmware image, no key made), and no domain has been released. What
brings it up from there is commands (notes/assumptions/10.md). -/
def State.reset : State :=
  { pending := [], out := [], free := 0, tide := TideUnit.cold, cat := CatUnit.fresh, cap := CapUnit.cold, log := ⟨[], []⟩
    rst := ResetUnit.powerOn, pwr := PowerUnit.cold, strand := StrandUnit.cold, host := HostUnit.cold, idx := IndexUnit.cold
    qry := QueryUnit.cold, chg := ChangeUnit.cold, mem := MemUnit.cold, key := ⟨[], [], []⟩, coh := CohUnit.cold
    nb := NbUnit.cold, flash := FlashUnit.fresh, gph := GraphUnit.cold, berth := BerthUnit.fresh, tbl := TableUnit.cold
    rel := RelUnit.fresh, sec := SecUnit.fresh }

end Sys2Proof.Machine
end

