-- ==== Sys2Proof/Machine/Ops.lean ====
section
/-! DEFINITION. The named operations over the state that every unit uses: the Catalogue's values, what governs work of a
stamp, free values, outputs, status codes, bytes. -/

namespace Sys2Proof.Machine

open Sys2Proof

/-! Status codes (R10). -/

namespace St
abbrev ok : Nat := 0x00
abbrev partial_ : Nat := 0x01
abbrev deadline : Nat := 0x02
abbrev accessDenied : Nat := 0x10
abbrev badJob : Nat := 0x11
abbrev retry : Nat := 0x12
abbrev indeterminate : Nat := 0x13
abbrev responderReset : Nat := 0x14
abbrev staleOwner : Nat := 0x15
abbrev uncorrectable : Nat := 0x20
abbrev mediaFull : Nat := 0x21
abbrev aborted : Nat := 0x22
abbrev spareExhausted : Nat := 0x23
abbrev badImage : Nat := 0x30
abbrev badSignature : Nat := 0x31
end St

/-! Bytes (R5). -/

/-- The number that little-endian bytes spell. -/
def leNat (b : Bytes) : Nat := b.foldr (fun x acc => x.toNat + 256 * acc) 0

/-- `n` bytes of `b` from offset `o`, as a little-endian number; bytes past the end read 0. -/
def field (b : Bytes) (o n : Nat) : Nat := leNat ((b.drop o).take n)

/-- Bits hi:lo of a number. -/
def bits (v hi lo : Nat) : Nat := v / 2 ^ lo % 2 ^ (hi + 1 - lo)

def bit (v i : Nat) : Bool := v.testBit i

/-- One bit as a number. -/
def boolBit (b : Bool) (i : Nat) : Nat := if b then 2 ^ i else 0

/-- A byte string cut into records of `n` bytes, at most `k` of them. -/
def chunks (n : Nat) : Nat → Bytes → List Bytes
  | 0, _ => []
  | k + 1, b => if b.isEmpty then [] else b.take n :: chunks n k (b.drop n)

/-- The records of a DOMAIN of `n`-byte records. -/
def records (n : Nat) (b : Bytes) : List Bytes := chunks n (b.length / n + 1) b

/-- `b` with `v` written at offset `o`. -/
def splice (b : Bytes) (o : Nat) (v : Bytes) : Bytes := b.take o ++ v ++ b.drop (o + v.length)

/-! Lists. -/

/-- Change the element at an index; nothing where there is none. -/
def modifyAt {α : Type} (l : List α) (i : Nat) (f : α → α) : List α :=
  match l[i]? with
  | some x => l.set i (f x)
  | none => l

/-! The Catalogue's values. -/

/-- An entry of the tables that has this key, whatever its instance. -/
def Entry.has (e : Entry) (k : Nat) : Bool :=
  k % 256 == e.sub && e.base ≤ k / 256 && k / 256 < e.base + e.count

def findEntry (k : Nat) : Option Entry := entries.find? fun e => e.has k

/-- The default of a key; a number 0 where no entry is. -/
def dfltOf (k : Nat) : Val :=
  match findEntry k with
  | some e => e.dflt
  | none => .n 0

def Val.num : Val → Nat
  | .n v => v
  | .b _ => 0

def Val.bytes : Val → Bytes
  | .n _ => []
  | .b v => v

/-- Put a value under its key in an ascending list. -/
def putKey (k : Nat) (v : Val) : List (Nat × Val) → List (Nat × Val)
  | [] => [(k, v)]
  | (k', v') :: r => if k < k' then (k, v) :: (k', v') :: r else if k = k' then (k, v) :: r else (k', v') :: putKey k v r

/-- Remove a key. -/
def dropKey (k : Nat) (l : List (Nat × Val)) : List (Nat × Val) := l.filter fun p => p.1 != k

/-- The value most recently written or maintained (R542). -/
def CatUnit.get (c : CatUnit) (k : Nat) : Val :=
  match c.vals.lookup k with
  | some v => v
  | none => dfltOf k

/-- Store a value; a value equal to the default is not listed. -/
def CatUnit.put (c : CatUnit) (k : Nat) (v : Val) : CatUnit :=
  { c with vals := if v = dfltOf k then dropKey k c.vals else putKey k v c.vals }

/-- The value in force (R541). -/
def CatUnit.inForce (c : CatUnit) (k : Nat) : Val :=
  match c.waiting.find? fun w => w.key == k with
  | some w => w.val
  | none => c.get k

/-- The value that governs work stamped `t`: the value in force before the first later change (R60). -/
def CatUnit.asOf (c : CatUnit) (k t : Nat) : Val :=
  match c.history.find? fun h => h.key == k && t < h.tide with
  | some h => h.val
  | none => c.inForce k

/-- A numeric entry in force. -/
def State.cfg (s : State) (k : Nat) : Nat := (s.cat.inForce k).num

/-- A DOMAIN entry in force. -/
def State.cfgB (s : State) (k : Nat) : Bytes := (s.cat.inForce k).bytes

/-- A numeric entry as it governs work stamped `t`. -/
def State.cfgAt (s : State) (k t : Nat) : Nat := (s.cat.asOf k t).num

def State.cfgBAt (s : State) (k t : Nat) : Bytes := (s.cat.asOf k t).bytes

/-- The value of an entry that the node maintains. -/
def State.num (s : State) (k : Nat) : Nat := (s.cat.get k).num

def State.setVal (s : State) (k : Nat) (v : Val) : State := { s with cat := s.cat.put k v }

def State.setNum (s : State) (k v : Nat) : State := s.setVal k (.n v)

/-- Count `n` more in a counter entry. -/
def State.bump (s : State) (k : Nat) (n : Nat := 1) : State := s.setNum k (s.num k + n)

/-! Free values, outputs. -/

/-- The next free value: a draw that nothing constrains. -/
def State.drawFree (s : State) : Nat × State := (Config.freeValue s.free, { s with free := s.free + 1 })

/-- The next 512-bit value of the generator (R599). -/
def State.drawRandom (s : State) : BitVec 512 × State := (Config.drbgDraw s.free, { s with free := s.free + 1 })

def State.emit (s : State) (o : Output) : State := { s with out := s.out ++ [o] }

/-! Time and service. -/

/-- The current Tide. -/
def State.now (s : State) : Nat := s.tide.count

/-- Sub-ticks since Tide 0. -/
def State.subticks (s : State) : Nat := s.tide.count * 1024 + s.tide.phase + s.tide.overrun

/-- A domain is in service: released, and not in reset (R618). -/
def State.up (s : State) (d : Nat) : Bool := s.rst.released.contains d

/-- The management domain runs node firmware: released, and past the boot ROM of a cold reset (R619). -/
def State.mgmt (s : State) : Bool := s.up 3 && s.rst.pause != .firmware

/-- R632: work arrives at a cluster, whose clocks run again. -/
def State.wakeCluster (s : State) (cluster : Nat) : State := { s with rst := { s.rst with slack := s.rst.slack.filter (· != cluster) } }

/-- R632: a search or a run arrives. The manual does not say on which clusters the node lays it: no clock stays gated
(notes/assumptions/43.md). -/
def State.wakeAll (s : State) : State := { s with rst := { s.rst with slack := [] } }

/-- The node holds a count against which stamps and applies are judged. -/
def State.hasCount (s : State) : Bool := s.tide.state != .acquiring && s.tide.count != 0

/-- What a result leaves; a command that stops leaves nothing. -/
def after (r : Result) (s : State) : State :=
  match r with
  | .next t => t
  | _ => s

end Sys2Proof.Machine
end

