-- ==== Sys2Proof/Machine/Codes.lean ====
section
/-! DEFINITION. The check codes: CRC-8 (R46), CRC-16 (R442), CRC-32C (R68) and SHA-512 (PRESUMED from FIPS 180-4,
notes/assumptions/31.md), and RSASSA-PSS verification (R326; PRESUMED from RFC 8017, the same entry). -/

namespace Sys2Proof.Machine

open Sys2Proof

/-- `n` steps of a most-significant-bit-first CRC register of width `w`. -/
def crcShift (w poly : Nat) : Nat → Nat → Nat
  | 0, r => r
  | n + 1, r => crcShift w poly n (if r.testBit (w - 1) then (r * 2 % 2 ^ w) ^^^ poly else r * 2 % 2 ^ w)

/-- CRC-8 of R46: polynomial 0x07, initial value 0, no reflection, no final XOR. -/
def crc8 (b : Bytes) : Nat := b.foldl (fun r x => crcShift 8 0x07 8 (r ^^^ x.toNat)) 0

/-- CRC-16 of R442: polynomial 0x1021, initial value 0xFFFF, no reflection, no final XOR. -/
def crc16 (b : Bytes) : Nat := b.foldl (fun r x => crcShift 16 0x1021 8 (r ^^^ (x.toNat * 256))) 0xFFFF

/-- `n` steps of a reflected CRC register. -/
def crcReflect (poly : Nat) : Nat → Nat → Nat
  | 0, r => r
  | n + 1, r => crcReflect poly n (if r % 2 = 1 then (r / 2) ^^^ poly else r / 2)

/-- CRC-32C of R68: Castagnoli polynomial, reflected, initial value and final XOR 0xFFFF_FFFF. -/
def crc32c (b : Bytes) : Nat := (b.foldl (fun r x => crcReflect 0x82F63B78 8 (r ^^^ x.toNat)) 0xFFFFFFFF) ^^^ 0xFFFFFFFF

/-! SHA-512. -/

/-- The first 80 primes, from whose cube roots the round constants come. -/
def primes80 : List Nat :=
  [2, 3, 5, 7, 11, 13, 17, 19, 23, 29, 31, 37, 41, 43, 47, 53, 59, 61, 67, 71, 73, 79, 83, 89, 97, 101, 103, 107, 109,
   113, 127, 131, 137, 139, 149, 151, 157, 163, 167, 173, 179, 181, 191, 193, 197, 199, 211, 223, 227, 229, 233, 239,
   241, 251, 257, 263, 269, 271, 277, 281, 283, 293, 307, 311, 313, 317, 331, 337, 347, 349, 353, 359, 367, 373, 379,
   383, 389, 397, 401, 409]

/-- The greatest r of `bits` bits with r^k ≤ n, bit by bit from the top. -/
def rootGo (k n : Nat) : Nat → Nat → Nat
  | 0, r => r
  | b + 1, r => rootGo k n b (if (r + 2 ^ b) ^ k ≤ n then r + 2 ^ b else r)

/-- The first 64 fraction bits of the k-th root of a prime. -/
def rootFraction (k p : Nat) : Nat := rootGo k (p * 2 ^ (64 * k)) 70 0 % 2 ^ 64

def shaK : List Nat := primes80.map (rootFraction 3)

def shaInit : List Nat := (primes80.take 8).map (rootFraction 2)

def rotr (n v : Nat) : Nat := v / 2 ^ n + v % 2 ^ n * 2 ^ (64 - n)

/-- The 80-word message schedule, newest word first. -/
def shaSchedule : Nat → List Nat → List Nat
  | 0, w => w
  | n + 1, w =>
    let a := w.getD 14 0
    let b := w.getD 1 0
    let s0 := rotr 1 a ^^^ rotr 8 a ^^^ a / 128
    let s1 := rotr 19 b ^^^ rotr 61 b ^^^ b / 64
    shaSchedule n ((w.getD 15 0 + s0 + w.getD 6 0 + s1) % 2 ^ 64 :: w)

/-- One round on the eight working words. -/
def shaRound (v : List Nat) (kw : Nat) : List Nat :=
  match v with
  | [a, b, c, d, e, f, g, h] =>
    let s1 := rotr 14 e ^^^ rotr 18 e ^^^ rotr 41 e
    let ch := (e &&& f) ^^^ ((2 ^ 64 - 1 - e) &&& g)
    let t1 := h + s1 + ch + kw
    let s0 := rotr 28 a ^^^ rotr 34 a ^^^ rotr 39 a
    let maj := (a &&& b) ^^^ (a &&& c) ^^^ (b &&& c)
    [(t1 + s0 + maj) % 2 ^ 64, a, b, c, (d + t1) % 2 ^ 64, e, f, g]
  | _ => v

def beNat (b : Bytes) : Nat := b.foldl (fun acc x => acc * 256 + x.toNat) 0

/-- A number as `w` big-endian bytes. -/
def beBytes (w v : Nat) : Bytes := (leBytes w v).reverse

def shaBlock (h : List Nat) (block : Bytes) : List Nat :=
  let w0 := (chunks 8 16 block).map beNat
  let w := (shaSchedule 64 w0.reverse).reverse
  let v := (shaK.zip w).foldl (fun v p => shaRound v (p.1 + p.2)) h
  (h.zip v).map fun p => (p.1 + p.2) % 2 ^ 64

def sha512 (m : Bytes) : Bytes :=
  let z := (239 - m.length % 128) % 128
  let p := m ++ [0x80] ++ List.replicate z 0 ++ beBytes 16 (m.length * 8)
  (((chunks 128 (p.length / 128) p).foldl shaBlock shaInit).flatMap (beBytes 8))

/-- The first 8 bytes of SHA-512, read little-endian: the digest form of the Catalogue (R551, R326). -/
def digest64 (m : Bytes) : Nat := field (sha512 m) 0 8

/-! RSASSA-PSS (R326: SHA-512, MGF1 with SHA-512, a 64-byte salt, public exponent 65,537). -/

/-- b^(2^n) mod m by squaring. -/
def squareMod (m : Nat) : Nat → Nat → Nat
  | 0, b => b
  | n + 1, b => squareMod m n (b * b % m)

def mgf1 (seed : Bytes) (len : Nat) : Bytes :=
  ((List.range (len / 64 + 1)).flatMap fun i => sha512 (seed ++ beBytes 4 i)).take len

def xorBytes (a b : Bytes) : Bytes := (a.zip b).map fun p => p.1 ^^^ p.2

/-- EMSA-PSS verification of a 512-byte encoded message under a 4096-bit modulus, whose encoding has 4095 bits. -/
def pssVerify (m em : Bytes) : Bool :=
  let masked := em.take 447
  let h := (em.drop 447).take 64
  let db0 := xorBytes masked (mgf1 h 447)
  let db := match db0 with
    | [] => []
    | x :: r => (x &&& 0x7F) :: r
  let salt := db.drop 383
  em.length == 512 && em.getD 511 0 == 0xBC && (em.getD 0 0 &&& 0x80) == 0
    && (db.take 382).all (· == 0) && db.getD 382 0 == 1
    && sha512 (List.replicate 8 0 ++ sha512 m ++ salt) == h

/-- The signature verifies over `m` under the big-endian modulus (R326, R588, R608). -/
def rsaVerify (modulus m sig : Bytes) : Bool :=
  let n := beNat modulus
  let s := beNat sig
  sig.length == 512 && modulus.length == 512 && s < n && pssVerify m (beBytes 512 (squareMod n 16 s * s % n))

end Sys2Proof.Machine
end

