-- ==== Sys2Proof/Machine/Num.lean ====
section
/-! DEFINITION. Number formats, conversions and exact arithmetic (chapter "Number Formats, Quantisation and Engine
Arithmetic", R188-R218), the ordered keys of selection (R160-R163) and pairwise summation (R175). A value is decoded to
an exact dyadic number, computed on exactly, and rounded once. -/

namespace Sys2Proof.Num

open Sys2Proof

/-- Rounding modes, by the code of R192. -/
inductive Mode where
  | rne | ru | rd | rz
  /-- Stochastic rounding with the 16-bit field drawn for the element (R199-R201). -/
  | sr (r : Nat)
  deriving DecidableEq, Repr

/-- The floating-point formats of R189: exponent bits, stored significand bits, bias, and the E4M3 exceptions. -/
structure Fmt where
  ebits : Nat
  mbits : Nat
  bias  : Nat
  e4m3  : Bool
  deriving DecidableEq, Repr

def fp32 : Fmt := ⟨8, 23, 127, false⟩
def bf16 : Fmt := ⟨8, 7, 127, false⟩
def fp16 : Fmt := ⟨5, 10, 15, false⟩
def e4m3 : Fmt := ⟨4, 3, 7, true⟩
def e5m2 : Fmt := ⟨5, 2, 15, false⟩
def fp64 : Fmt := ⟨11, 52, 1023, false⟩

/-- A decoded value: NaN, an infinity, or the exact number (-1)^neg x m x 2^e (a zero keeps its sign). -/
inductive Fl where
  | nan
  | inf (neg : Bool)
  | fin (neg : Bool) (m : Nat) (e : Int)
  deriving DecidableEq, Repr

/-- 2 to a natural power taken from an integer (negative powers read as 2^0; callers shift first). -/
def pow2 (k : Int) : Nat := 2 ^ k.toNat

/-- Bits needed to write `n`. -/
def bitLen (n : Nat) : Nat := if n = 0 then 0 else Nat.log2 n + 1

/-- The width of a format in bits. -/
def Fmt.width (f : Fmt) : Nat := 1 + f.ebits + f.mbits

/-- The default NaN of a format (R191). -/
def Fmt.defaultNaN (f : Fmt) : Nat :=
  if f.e4m3 then 0x7F
  else (2 ^ f.ebits - 1) * 2 ^ f.mbits + 2 ^ (f.mbits - 1)

/-- The pattern of +infinity (formats that have one). -/
def Fmt.infBits (f : Fmt) : Nat := (2 ^ f.ebits - 1) * 2 ^ f.mbits

/-- The pattern of the greatest finite value. -/
def Fmt.maxBits (f : Fmt) : Nat := if f.e4m3 then 0x7E else f.infBits - 1

def Fmt.signBit (f : Fmt) : Nat := 2 ^ (f.ebits + f.mbits)

/-- Decode a bit pattern (R189, subnormals read as encoded under R190). -/
def decode (f : Fmt) (b : Nat) : Fl :=
  let neg := (b / f.signBit) % 2 = 1
  let ex := (b / 2 ^ f.mbits) % 2 ^ f.ebits
  let fr := b % 2 ^ f.mbits
  let top := ex = 2 ^ f.ebits - 1
  if f.e4m3 then
    if top ∧ fr = 2 ^ f.mbits - 1 then .nan
    else if ex = 0 then .fin neg fr (1 - f.bias - f.mbits)
    else .fin neg (2 ^ f.mbits + fr) ((ex : Int) - f.bias - f.mbits)
  else if top then (if fr = 0 then .inf neg else .nan)
  else if ex = 0 then .fin neg fr (1 - f.bias - f.mbits)
  else .fin neg (2 ^ f.mbits + fr) ((ex : Int) - f.bias - f.mbits)

/-- Should the magnitude round away from zero? `n` is the kept part, `rem` of `2^k` the dropped part, `sticky` says that
something non-zero lies below it (R192, R199). -/
def roundsUp (mode : Mode) (neg : Bool) (n rem k : Nat) (sticky : Bool) : Bool :=
  match mode with
  | .rne => if k = 0 then false else
      2 * rem > 2 ^ k || (2 * rem = 2 ^ k && (sticky || n % 2 = 1))
  | .ru => !neg && (rem ≠ 0 || sticky)
  | .rd => neg && (rem ≠ 0 || sticky)
  | .rz => false
  | .sr r => r < rem * 65536 / 2 ^ k

/-- The pattern a finite magnitude beyond the greatest finite value takes (R193). -/
def overflowBits (f : Fmt) (mode : Mode) (neg : Bool) : Nat :=
  if f.e4m3 then f.maxBits
  else match mode with
    | .rne => f.infBits
    | .sr _ => f.infBits
    | .ru => if neg then f.maxBits else f.infBits
    | .rd => if neg then f.infBits else f.maxBits
    | .rz => f.maxBits

/-- Round the magnitude (m + a fraction below one unit when `sticky`) x 2^e once to the format (R193, R199). -/
def roundMag (f : Fmt) (mode : Mode) (neg : Bool) (m : Nat) (e : Int) (sticky : Bool) : Nat :=
  let s := if neg then f.signBit else 0
  if m = 0 ∧ !sticky then s
  else
    let qmin : Int := 1 - f.bias - f.mbits
    let q : Int := max qmin ((bitLen m : Int) + e - 1 - f.mbits)
    let k : Int := q - e
    let n := if k ≤ 0 then m * pow2 (-k) else m / pow2 k
    let rem := if k ≤ 0 then 0 else m % pow2 k
    let n' := if roundsUp mode neg n rem k.toNat sticky then n + 1 else n
    let (n'', q') := if n' = 2 ^ (f.mbits + 1) then (2 ^ f.mbits, q + 1) else (n', q)
    let bits : Nat :=
      if n'' < 2 ^ f.mbits then n''
      else (q' + f.mbits + f.bias).toNat * 2 ^ f.mbits + (n'' - 2 ^ f.mbits)
    s + (if bits > f.maxBits then overflowBits f mode neg else bits)

/-- Round an exact value to a format (R191, R193). -/
def encode (f : Fmt) (mode : Mode) : Fl → Nat
  | .nan => f.defaultNaN
  | .inf neg => (if neg then f.signBit else 0) + (if f.e4m3 then f.maxBits else f.infBits)
  | .fin neg m e => roundMag f mode neg m e false

/-- The signed integer significand. -/
def signed (neg : Bool) (m : Nat) : Int := if neg then -(m : Int) else m

def ofInt (v : Int) (e : Int) : Fl := .fin (v < 0) v.natAbs e

/-- The exact integer value as a number. -/
def intFl (v : Int) : Fl := ofInt v 0

/-- Exact negation. -/
def neg : Fl → Fl
  | .nan => .nan
  | .inf s => .inf (!s)
  | .fin s m e => .fin (!s) m e

def abs : Fl → Fl
  | .nan => .nan
  | .inf _ => .inf false
  | .fin _ m e => .fin false m e

/-- Exact sum; `rdZero` gives an exact cancellation the sign that rounding toward minus infinity gives it. -/
def addX (rdZero : Bool) : Fl → Fl → Fl
  | .nan, _ => .nan
  | _, .nan => .nan
  | .inf a, .inf b => if a = b then .inf a else .nan
  | .inf a, .fin _ _ _ => .inf a
  | .fin _ _ _, .inf b => .inf b
  | .fin sa ma ea, .fin sb mb eb =>
    let e := min ea eb
    let v := signed sa (ma * pow2 (ea - e)) + signed sb (mb * pow2 (eb - e))
    if v = 0 then
      (if ma = 0 ∧ mb = 0 ∧ sa = sb then .fin sa 0 e else .fin rdZero 0 e)
    else ofInt v e

def add (a b : Fl) : Fl := addX false a b
def sub (a b : Fl) : Fl := add a (neg b)

/-- Exact product (R114: infinity x 0 is NaN). -/
def mul : Fl → Fl → Fl
  | .nan, _ => .nan
  | _, .nan => .nan
  | .inf a, .inf b => .inf (a != b)
  | .inf a, .fin sb mb _ => if mb = 0 then .nan else .inf (a != sb)
  | .fin sa ma _, .inf b => if ma = 0 then .nan else .inf (sa != b)
  | .fin sa ma ea, .fin sb mb eb => .fin (sa != sb) (ma * mb) (ea + eb)

/-- Is the value an exact zero? -/
def isZero : Fl → Bool
  | .fin _ m _ => m = 0
  | _ => false

def isNaN : Fl → Bool
  | .nan => true
  | _ => false

def isFinite : Fl → Bool
  | .fin _ _ _ => true
  | _ => false

/-- Numeric comparison of non-NaN values: a < b. -/
def lt : Fl → Fl → Bool
  | .nan, _ => false
  | _, .nan => false
  | .inf a, .inf b => a && !b
  | .inf a, .fin _ _ _ => a
  | .fin _ _ _, .inf b => !b
  | .fin sa ma ea, .fin sb mb eb =>
    let e := min ea eb
    signed sa (ma * pow2 (ea - e)) < signed sb (mb * pow2 (eb - e))

def le (a b : Fl) : Bool := !(isNaN a) && !(isNaN b) && !(lt b a)

/-- A quotient rounded once to a format in a mode (R213: division is correctly rounded). -/
def div (f : Fmt) (mode : Mode) : Fl → Fl → Nat
  | .nan, _ => f.defaultNaN
  | _, .nan => f.defaultNaN
  | .inf _, .inf _ => f.defaultNaN
  | .inf a, .fin sb _ _ => encode f mode (.inf (a != sb))
  | .fin sa _ _, .inf b => encode f mode (.fin (sa != b) 0 0)
  | .fin sa ma ea, .fin sb mb eb =>
    if mb = 0 then (if ma = 0 then f.defaultNaN else encode f mode (.inf (sa != sb)))
    else if ma = 0 then encode f mode (.fin (sa != sb) 0 0)
    else
      let sh := bitLen mb + 130 - bitLen ma
      let num := ma * 2 ^ sh
      roundMag f mode (sa != sb) (num / mb) (ea - eb - sh) (num % mb ≠ 0)

/-- Integer square root, one binary digit at a time from digit `k - 1` down. -/
def isqrtGo (n : Nat) : Nat → Nat → Nat
  | 0, r => r
  | k + 1, r => isqrtGo n k (if (r + 2 ^ k) * (r + 2 ^ k) ≤ n then r + 2 ^ k else r)

def isqrt (n : Nat) : Nat := isqrtGo n (bitLen n / 2 + 1) 0

/-- A square root rounded once to a format in a mode (R213). -/
def sqrt (f : Fmt) (mode : Mode) : Fl → Nat
  | .nan => f.defaultNaN
  | .inf s => if s then f.defaultNaN else encode f mode (.inf false)
  | .fin s m e =>
    if m = 0 then encode f mode (.fin s 0 0)
    else if s then f.defaultNaN
    else
      let sh0 := 280 - bitLen m
      let sh := if (e - sh0) % 2 = 0 then sh0 else sh0 + 1
      let v := m * 2 ^ sh
      let r := isqrt v
      roundMag f mode false r ((e - sh) / 2) (r * r ≠ v)

/-! ### exp and log, correctly rounded by an interval enclosure -/

/-- Working precision of the enclosures, in fraction bits. -/
def prec : Nat := 320

/-- An interval of fixed-point numbers with `prec` fraction bits: (lower bound, upper bound). -/
abbrev Iv := Nat × Nat

/-- Taylor terms of exp from term `i` on, for an argument below 1/2: returns the sums of the lower and upper terms. -/
def expTerms (y : Iv) : Nat → Nat → Iv → Iv → Iv
  | 0, _, _, acc => (acc.1, acc.2 + 1)
  | fuel + 1, i, t, acc =>
    let t' : Iv := (t.1 * y.1 / 2 ^ prec / i, t.2 * y.2 / 2 ^ prec / i + 2)
    expTerms y fuel (i + 1) t' (acc.1 + t'.1, acc.2 + t'.2)

def squareIv : Nat → Iv → Iv
  | 0, v => v
  | k + 1, v => squareIv k (v.1 * v.1 / 2 ^ prec, v.2 * v.2 / 2 ^ prec + 1)

/-- An enclosure of exp of a non-negative number m x 2^e below 2^10. -/
def expPos (m : Nat) (e : Int) : Iv :=
  let sh : Int := prec + e - 12
  let y : Iv := if sh ≥ 0 then (m * pow2 sh, m * pow2 sh) else (m / pow2 (-sh), m / pow2 (-sh) + 1)
  squareIv 12 (expTerms y 80 1 (2 ^ prec, 2 ^ prec) (2 ^ prec, 2 ^ prec))

/-- Round an enclosure of a positive irrational number: both ends must round alike, else the value stays open. -/
def roundIv (f : Fmt) (lo hi : Nat) (e : Int) (neg : Bool) (mode : Mode) (free : Nat) : Nat :=
  let a := roundMag f mode neg lo e true
  let b := roundMag f mode neg hi e true
  if a = b then a else free

/-- exp, correctly rounded (R172, R213). -/
def exp (f : Fmt) (mode : Mode) (x : Fl) : Nat :=
  match x with
  | .nan => f.defaultNaN
  | .inf s => if s then 0 else encode f mode (.inf false)
  | .fin s m e =>
    if m = 0 then encode f mode (.fin false 1 0)
    else if lt (.fin false 1024 0) (.fin false m e) then
      (if s then roundMag f mode false 0 (-2000) true else roundMag f mode false 1 5000 false)
    else
      let v := expPos m e
      if s then
        roundIv f (2 ^ (3 * prec + 1600) / v.2) (2 ^ (3 * prec + 1600) / v.1 + 1) (-(2 * prec + 1600)) false mode
          (Config.unroundedExp (f.mbits + 2 ^ 64 * m))
      else roundIv f v.1 v.2 (-prec) false mode (Config.unroundedExp (f.mbits + 2 ^ 64 * m))

/-- Terms t^(2i+1) / (2i+1) of atanh, for t at most 1/3. -/
def atanhTerms (t2 : Iv) : Nat → Nat → Iv → Iv → Iv
  | 0, _, _, acc => (acc.1, acc.2 + 4)
  | fuel + 1, d, p, acc =>
    atanhTerms t2 fuel (d + 2) (p.1 * t2.1 / 2 ^ prec, p.2 * t2.2 / 2 ^ prec + 1) (acc.1 + p.1 / d, acc.2 + p.2 / d + 1)

/-- An enclosure of 2 atanh(a / b), for a / b at most 1/3. -/
def atanh2 (a b : Nat) : Iv :=
  let t : Iv := (a * 2 ^ prec / b, a * 2 ^ prec / b + 1)
  let t2 : Iv := (t.1 * t.1 / 2 ^ prec, t.2 * t.2 / 2 ^ prec + 1)
  let s := atanhTerms t2 110 1 t (0, 0)
  (2 * s.1, 2 * s.2)

/-- An enclosure of the natural logarithm of a positive m x 2^e, with `prec` fraction bits; none for 1, whose logarithm is 0. -/
def logEnds (m : Nat) (e : Int) : Option (Int × Int) :=
  let l := bitLen m
  -- x = r * 2^k with r = m / 2^(l-1) in [1, 2), halved when above 1.5 so that r lies in [0.75, 1.5)
  let big := 2 * m > 3 * 2 ^ (l - 1)
  let den := if big then 2 ^ l else 2 ^ (l - 1)
  let k : Int := e + l - 1 + (if big then 1 else 0)
  let ln2 := atanh2 1 3
  let part : Int × Int :=
    if m ≥ den then let v := atanh2 (m - den) (m + den); (v.1, v.2)
    else let v := atanh2 (den - m) (m + den); (-(v.2 : Int), -(v.1 : Int))
  if m = den ∧ k = 0 then none
  else some (part.1 + (if k ≥ 0 then k * ln2.1 else k * ln2.2), part.2 + (if k ≥ 0 then k * ln2.2 else k * ln2.1))

/-- Natural logarithm, correctly rounded (R213). -/
def log (f : Fmt) (mode : Mode) (x : Fl) : Nat :=
  match x with
  | .nan => f.defaultNaN
  | .inf s => if s then f.defaultNaN else encode f mode (.inf false)
  | .fin s m e =>
    if m = 0 then encode f mode (.inf true)
    else if s then f.defaultNaN
    else match logEnds m e with
      | none => encode f mode (.fin false 0 0)
      | some v =>
        if v.1 > 0 then roundIv f v.1.natAbs v.2.natAbs (-prec) false mode (Config.unroundedLog (f.mbits + 2 ^ 64 * m))
        else roundIv f v.2.natAbs v.1.natAbs (-prec) true mode (Config.unroundedLog (f.mbits + 2 ^ 64 * m))

/-! ### Rounded operations on patterns -/

/-- Does the rounding direction give an exact zero sum the sign minus? -/
def Mode.rdZero : Mode → Bool
  | .rd => true
  | _ => false

def addR (f : Fmt) (mode : Mode) (a b : Nat) : Nat := encode f mode (addX mode.rdZero (decode f a) (decode f b))
def subR (f : Fmt) (mode : Mode) (a b : Nat) : Nat := encode f mode (addX mode.rdZero (decode f a) (neg (decode f b)))
def mulR (f : Fmt) (mode : Mode) (a b : Nat) : Nat := encode f mode (mul (decode f a) (decode f b))

/-- Convert a pattern between floating-point formats, one rounding (R193). -/
def convert (src dst : Fmt) (mode : Mode) (b : Nat) : Nat := encode dst mode (decode src b)

/-- Round an exact value to an integer in a mode. -/
def toInt (mode : Mode) (s : Bool) (m : Nat) (e : Int) : Int :=
  if e ≥ 0 then signed s (m * pow2 e)
  else
    let k := (-e).toNat
    let n := m / 2 ^ k
    let n' := if roundsUp mode s n (m % 2 ^ k) k false then n + 1 else n
    signed s n'

/-- Conversion to an integer format with `w` bits, as a two's complement pattern (R193: NaN gives 0, others saturate). -/
def toIntFmt (w : Nat) (mode : Mode) (v : Fl) : Int :=
  let hi : Int := 2 ^ (w - 1) - 1
  let lo : Int := -(2 ^ (w - 1))
  match v with
  | .nan => 0
  | .inf s => if s then lo else hi
  | .fin s m e => max lo (min hi (toInt mode s m e))

/-- The `w`-bit two's complement pattern of an integer. -/
def toBits (w : Nat) (v : Int) : Nat := (v % 2 ^ w).toNat

/-- Read a `w`-bit two's complement pattern. -/
def ofBits (w : Nat) (b : Nat) : Int :=
  let b' := b % 2 ^ w
  if b' < 2 ^ (w - 1) then b' else (b' : Int) - 2 ^ w

/-! ### Format codes (R189) -/

/-- The floating-point format of a code, if the code names one. -/
def fmtOf : Nat → Option Fmt
  | 0 => some fp32 | 1 => some bf16 | 2 => some fp16 | 3 => some e4m3 | 4 => some e5m2 | 8 => some fp64
  | _ => none

/-- The width in bits of a format code. -/
def widthOf : Nat → Nat
  | 0 => 32 | 1 => 16 | 2 => 16 | 3 => 8 | 4 => 8 | 5 => 8 | 6 => 4 | 7 => 32 | 8 => 64
  | _ => 0

/-- The exact value of a pattern in a format code; integer formats read as the integer. -/
def valueOf (code b : Nat) : Fl :=
  match fmtOf code with
  | some f => decode f b
  | none => intFl (ofBits (widthOf code) b)

/-- Round an exact value to a format code (R193). -/
def roundTo (code : Nat) (mode : Mode) (v : Fl) : Nat :=
  match fmtOf code with
  | some f => encode f mode v
  | none => toBits (widthOf code) (toIntFmt (widthOf code) mode v)

/-- Did a finite operand give an infinity, or saturate in E4M3 or an integer format (OverflowOutputs, 0x5000.08)? -/
def overflowed (code : Nat) (mode : Mode) (v : Fl) : Bool :=
  match v, fmtOf code with
  | .fin s m e, some f =>
    let b := roundMag f mode s m e false
    if f.e4m3 then lt (decode f f.maxBits) (.fin false m e) && b % f.signBit = f.maxBits
    else b % f.signBit ≥ f.infBits
  | .fin s m e, none =>
    let w := widthOf code
    let i := toInt mode s m e
    i > 2 ^ (w - 1) - 1 || i < -(2 ^ (w - 1))
  | _, _ => false

/-! ### Ordered keys (R160-R163) -/

def topKey : Nat := 0xFFFFFFFF
def sentinelKey : Nat := 0x007FFFFF

/-- The 32-bit ordered key of an fp32 pattern (R160). -/
def keyOf (b : Nat) : Nat :=
  if b / 2 ^ 23 % 256 = 255 ∧ b % 2 ^ 23 ≠ 0 then topKey
  else
    let b := if b = 0x80000000 then 0 else b
    if b < 0x80000000 then b + 0x80000000 else 0xFFFFFFFF - b

/-- The fp32 pattern a key stands for (R163). -/
def valueOfKey (k : Nat) : Nat :=
  if k = topKey then 0x7FC00000
  else if k ≥ 0x80000000 then k - 0x80000000
  else 0xFFFFFFFF - k

def negInf32 : Nat := 0xFF800000
def posInf32 : Nat := 0x7F800000
def posInf64 : Nat := 0x7FF0000000000000
def negInf64 : Nat := 0xFFF0000000000000

/-! ### Pairwise summation (R175, R211) -/

/-- The largest power of two below `n` (n at least 2). -/
def splitPoint (n : Nat) : Nat := 2 ^ Nat.log2 (n - 1)

/-- The pairwise sum of a list: `fuel` bounds the recursion by the list's length. -/
def pairwise {α : Type} (plus : α → α → α) (zero : α) : Nat → List α → α
  | 0, _ => zero
  | fuel + 1, l =>
    match l with
    | [] => zero
    | [x] => x
    | _ =>
      let h := splitPoint l.length
      plus (pairwise plus zero fuel (l.take h)) (pairwise plus zero fuel (l.drop h))

/-- R191: a NaN leaves an operation as the default NaN of its format, also where one element is all that is summed. -/
def plainNaN (f : Fmt) (p : Nat) : Nat := if isNaN (decode f p) then f.defaultNaN else p

/-- Pairwise sum in binary64, round to nearest even (R175). -/
def sum64 (l : List Nat) : Nat := plainNaN fp64 (pairwise (addR fp64 .rne) 0 (l.length + 1) l)

/-- Pairwise sum in fp32, round to nearest even (R211). -/
def sum32 (l : List Nat) : Nat := plainNaN fp32 (pairwise (addR fp32 .rne) 0 (l.length + 1) l)

/-- An fp32 pattern read exactly as binary64. -/
def f32to64 (b : Nat) : Nat := convert fp32 fp64 .rne b
/-- A binary64 pattern rounded to fp32, nearest even. -/
def f64to32 (b : Nat) : Nat := convert fp64 fp32 .rne b

/-! ### Stochastic rounding streams (R200-R202) -/

/-- One step of the 64-bit xorshift generator; the new state is the output word (R200). -/
def xorshift (z : BitVec 64) : BitVec 64 :=
  let z := z ^^^ (z <<< 13)
  let z := z ^^^ (z >>> 7)
  z ^^^ (z <<< 17)

/-- The stream's initial state for output row `i` of operator `op` in iteration `n` (R202). -/
def seedOf (runSeed : BitVec 64) (op n i : Nat) : BitVec 64 :=
  let z := runSeed ^^^ (BitVec.ofNat 64 (op % 65536) <<< 48) ^^^ (BitVec.ofNat 64 (n % 65536) <<< 32)
    ^^^ BitVec.ofNat 64 (i % 2 ^ 32)
  let z := (z ^^^ (z >>> 30)) * 0xBF58476D1CE4E5B9#64
  let z := (z ^^^ (z >>> 27)) * 0x94D049BB133111EB#64
  let z := z ^^^ (z >>> 31)
  if z = 0#64 then 0x9E3779B97F4A7C15#64 else z

/-- The 16-bit fields of a row's elements, in element order (R201). -/
def streamFields (z : BitVec 64) : Nat → List Nat
  | 0 => []
  | words + 1 =>
    let w := xorshift z
    [w.toNat % 65536, w.toNat / 2 ^ 16 % 65536, w.toNat / 2 ^ 32 % 65536, w.toNat / 2 ^ 48] ++ streamFields w words

def rowFields (z : BitVec 64) (n : Nat) : List Nat := (streamFields z ((n + 3) / 4)).take n

/-- The rounding mode of a code for an element whose random field is `r` (R192). -/
def modeOf (code r : Nat) : Mode :=
  match code with
  | 1 => .ru | 2 => .rd | 3 => .rz | 4 => .sr r | _ => .rne

/-! ### Per-row scales (R194-R198) -/

/-- The greatest finite value of a quantisation target (R194). -/
def fmaxOf : Nat → Nat
  | 5 => 127 | 6 => 7 | 3 => 448 | _ => 57344

/-- The greater magnitude of two finite values. -/
def maxAbs (a b : Fl) : Fl := if lt (abs a) (abs b) then abs b else abs a

/-- The bf16 scale of a row of exact values for a target format (R194, R197). -/
def rowScale (code : Nat) (row : List Fl) : Nat :=
  let a := (row.filter isFinite).foldl maxAbs (.fin false 0 0)
  div bf16 .ru a (.fin false (fmaxOf code) 0)

/-- The code of one element of a row with scale `s` (R195-R197). -/
def quantElem (code modeCode s r : Nat) (x : Fl) : Nat :=
  if !(isFinite x) then roundTo code (modeOf modeCode r) x
  else if isZero (decode bf16 s) then 0
  else roundTo code (modeOf modeCode r) (decode fp32 (div fp32 .rne x (decode bf16 s)))

/-- Quantise one row: its scale and its codes; `z` is the row's stream for mode SR (R194-R201). -/
def quantRow (code modeCode : Nat) (z : BitVec 64) (row : List Fl) : Nat × List Nat :=
  let s := rowScale code row
  (s, (row.zip (rowFields z row.length)).map fun p => quantElem code modeCode s p.2 p.1)

/-- Dequantise: the fp32 product of a code and its scale (R198). -/
def dequant (code q s : Nat) : Nat := encode fp32 .rne (mul (valueOf code q) (decode bf16 s))

/-! ### Binary sums with a direction (R81, R126) -/

/-- Round an exact value in binary64 toward a direction. -/
def r64 (mode : Mode) (v : Fl) : Fl := decode fp64 (encode fp64 mode v)
def r32 (mode : Mode) (v : Fl) : Fl := decode fp32 (encode fp32 mode v)

/-- A directed sum of exact terms in binary64, in list order (R126). -/
def dirSum (mode : Mode) (l : List Fl) : Fl := l.foldl (fun s t => r64 mode (addX mode.rdZero s t)) (.fin false 0 0)

/-- The larger operand minus the smaller, rounded in the bracket's direction (the |a - b| of the bound formulas). -/
def dirDiff (mode : Mode) (a b : Fl) : Fl := r64 mode (if lt a b then sub b a else sub a b)

/-- An upward square root in binary64. -/
def sqrt64 (mode : Mode) (v : Fl) : Fl := decode fp64 (sqrt fp64 mode v)

/-- The upward norm of a list of exact differences (R81). -/
def normUp (diffs : List Fl) : Fl :=
  sqrt64 .ru (diffs.foldl (fun s d => let a := r64 .ru (abs d); r64 .ru (add s (r64 .ru (mul a a)))) (.fin false 0 0))

end Sys2Proof.Num
end

