-- ==== Sys2Proof/Machine/Vectors.lean ====
section
/-! DEFINITION. Vectors, per-item codes and bounds: the stored vector (R73), the sketch (R75 to R77), the PQ code (R78 to
R80), the residual norm (R81), node, sketch and PQ bounds (R126 to R131) and the exact score (R114). -/

namespace Sys2Proof.Machine

open Sys2Proof Sys2Proof.Num

/-- What a collection's parameters are for work on it. -/
structure Params where
  metric : Nat
  format : Nat
  dim : Nat
  pq : Nat
  metaBytes : Nat
  seed : Nat
  shoals : Nat
  codebook : Bytes
  schema : Bytes
  deriving DecidableEq, Repr

/-- The vector bytes of a collection (R65's format table; D/8 for metric 3). -/
def Params.vecBytes (p : Params) : Nat := if p.metric = 3 then p.dim / 8 else p.dim * widthOf p.format / 8

/-- The element patterns of a byte string in a format; int4 elements stand two to a byte, the lower first. -/
def patterns (format : Nat) (b : Bytes) : List Nat :=
  if format = 6 then b.flatMap fun x => [x.toNat % 16, x.toNat / 16]
  else (records (widthOf format / 8) b).map leNat

/-- Element patterns as bytes of a format. -/
def packElems (format : Nat) (l : List Nat) : Bytes :=
  if format = 6 then (chunks2 l).map fun p => BitVec.ofNat 8 (p.1 + 16 * p.2)
  else l.flatMap (leBytes (widthOf format / 8))
where
  chunks2 : List Nat → List (Nat × Nat)
    | a :: b :: r => (a, b) :: chunks2 r
    | [a] => [(a, 0)]
    | [] => []

def elems (format : Nat) (b : Bytes) : List Fl := (patterns format b).map (valueOf format)

/-- Σ x² in binary64, in element order, nearest even at each step; then its square root (R73). -/
def norm64 (l : List Fl) : Fl :=
  sqrt64 .rne (l.foldl (fun s x => r64 .rne (add s (r64 .rne (mul x x)))) (.fin false 0 0))

/-- R73, R118: elements divided by the norm in binary64 and rounded to a format; unchanged when the norm is 0. -/
def normalise (format : Nat) (pats : List Nat) : List Nat :=
  let l := pats.map (valueOf format)
  let n := norm64 l
  if isZero n then pats else l.map fun x => roundTo format .rne (decode fp64 (div fp64 .rne x n))

/-- The stored vector of a host vector (R73, R222). -/
def Params.stored (p : Params) (v : Bytes) : Bytes :=
  if p.metric = 2 then packElems p.format (normalise p.format (patterns p.format v)) else v

/-- R74, R120: some element is a NaN or an infinity. -/
def openElems (l : List Fl) : Bool := l.any fun x => !isFinite x

def Params.isOpen (p : Params) (v : Bytes) : Bool := p.metric != 3 && openElems (elems p.format v)

/-- The sign sequence of R75: true for −1. -/
def signs : Nat → BitVec 64 → List Bool
  | 0, _ => []
  | n + 1, s => let s := xorshift s; s.getMsbD 0 :: signs n s

def signed_ (neg_ : Bool) (x : Fl) : Fl := if neg_ then neg x else x

/-- The group sums of R75 and R128: the signed elements i with i mod 128 = j, ascending. -/
def groups (sg : List Bool) (l : List Fl) : List (List Fl) :=
  let t := (sg.zip l).map fun p => signed_ p.1 p.2
  (List.range 128).map fun j => (List.range (t.length / 128 + 1)).filterMap fun a => t[128 * a + j]?

/-- Bits as a number, bit 0 first. -/
def bitsNat : List Bool → Nat
  | [] => 0
  | b :: r => (if b then 1 else 0) + 2 * bitsNat r

/-- The number that a Hamming vector's bits spell (R66). -/
def hammingNat (v : Bytes) : Nat := leNat v

def popcount (v : Nat) : Nat := go v (bitLen v)
where
  go (v : Nat) : Nat → Nat
    | 0 => 0
    | n + 1 => v % 2 + go (v / 2) n

/-- The 128-bit sketch of a stored vector (R74, R75, R77). -/
def Params.sketch (p : Params) (v : Bytes) : Nat :=
  if p.metric = 3 then hammingNat v % 2 ^ 128
  else if p.isOpen v then 2 ^ 128 - 1
  else bitsNat ((groups (signs p.dim (BitVec.ofNat 64 p.seed)) (elems p.format v)).map fun g =>
    !lt (g.foldl add (.fin false 0 0)) (.fin false 0 0))

/-- The bf16 centroid of code `c` in subspace `m` (R78). -/
def Params.centroid (p : Params) (m c : Nat) : List Fl :=
  let n := p.dim / p.pq
  elems 1 ((p.codebook.drop ((m * 256 + c) * n * 2)).take (n * 2))

def Params.subspace {α : Type} (p : Params) (l : List α) (m : Nat) : List α :=
  (l.drop (m * (p.dim / p.pq))).take (p.dim / p.pq)

/-- The squared distance in binary64, element order, nearest even (R79, R232). -/
def dist64 (a b : List Fl) : Fl :=
  (a.zip b).foldl (fun s q => let d := r64 .rne (sub q.1 q.2); r64 .rne (add s (r64 .rne (mul d d)))) (.fin false 0 0)

/-- `a` is nearer than `b`: a NaN distance ranks after every number. -/
def nearer (a b : Fl) : Bool := if isNaN a then false else if isNaN b then true else lt a b

/-- The first index of the nearest of a list of distances. -/
def nearest (l : List Fl) : Nat :=
  (l.foldl (fun (acc : Nat × Nat × Option Fl) d =>
    match acc with
    | (i, best, none) => (i + 1, best, some d)
    | (i, best, some e) => if nearer d e then (i + 1, i, some d) else (i + 1, best, some e)) (0, 0, none)).2.1

/-- The PQ code (R74, R79, R80). -/
def Params.code (p : Params) (v : Bytes) : Bytes :=
  if p.metric = 3 then (v.drop 16).take p.pq
  else if p.isOpen v then List.replicate p.pq 0
  else
    let l := elems p.format v
    (List.range p.pq).map fun m =>
      let x := p.subspace l m
      BitVec.ofNat 8 (nearest ((List.range 256).map fun c => dist64 x (p.centroid m c)))

/-- The reconstruction of a code (R81). -/
def Params.recon (p : Params) (code : Bytes) : List Fl :=
  (List.range p.pq).flatMap fun m => p.centroid m (code.getD m 0).toNat

/-- The residual norm as bf16 bits (R74, R81, R82). -/
def Params.residual (p : Params) (v code : Bytes) : Nat :=
  if p.metric = 3 then 0
  else if p.isOpen v then 0x7F80
  else encode bf16 .ru (normUp (((elems p.format v).zip (p.recon code)).map fun q => sub q.1 q.2))

/-! Ordered keys of binary64 bounds: the order of R160 carried over to binary64, so that bounds and scores compare. -/

def topKey64 : Nat := 2 ^ 64 - 1

/-- The ordered key of a bound or score; a NaN gives the key given for it (R131). -/
def key64 (nan : Nat) (v : Fl) : Nat :=
  match v with
  | .nan => nan
  | _ =>
    let b := encode fp64 .rne v
    let b := if b = 2 ^ 63 then 0 else b
    if b < 2 ^ 63 then b + 2 ^ 63 else 2 ^ 64 - 1 - b

def lowKey64 : Nat := 2 ^ 64 - 1 - negInf64

/-- An upper bound's key: NaN gives the top key. -/
def upKey (v : Fl) : Nat := key64 topKey64 v

/-- A lower bound's key: NaN gives −∞. -/
def dnKey (v : Fl) : Nat := key64 lowKey64 v

/-- The value that a bound's key stands for. -/
def ofKey64 (k : Nat) : Fl :=
  if k = topKey64 then .nan else decode fp64 (if 2 ^ 63 ≤ k then k - 2 ^ 63 else 2 ^ 64 - 1 - k)

/-- A score's key among bounds: R160's key of the fp32 pattern, widened. -/
def scoreKey (bits32 : Nat) : Nat := upKey (decode fp32 bits32)

/-- A score pattern of a key64 that came from an fp32 value, as R163 writes it. -/
def scoreOfKey (k : Nat) : Nat := if k = topKey64 then 0x7FC00000 else valueOfKey (keyOf (encode fp32 .rne (ofKey64 k)))

/-! Query-level quantities and bounds (R126 to R130). -/

/-- Σ of rounded products, every operation in one direction. -/
def dirDot (mode : Mode) (a b : List Fl) : Fl := dirSum mode ((a.zip b).map fun q => r64 mode (mul q.1 q.2))

/-- Σ |a − b|², every operation in one direction (R126's |a − b|). -/
def dirDist (mode : Mode) (a b : List Fl) : Fl :=
  dirSum mode ((a.zip b).map fun q => let d := dirDiff mode q.1 q.2; r64 mode (mul d d))

def zero : Fl := .fin false 0 0

def maxZero (v : Fl) : Fl := if lt v zero then zero else v

/-- A query with the quantities computed once per fragment. -/
structure QVec where
  metric : Nat
  q : List Fl
  /-- A Hamming query's bits. -/
  bits : Nat
  q2hi : Fl
  q2lo : Fl
  qn : Fl
  deriving DecidableEq, Repr

def QVec.of (p : Params) (vec : List Nat) : QVec :=
  if p.metric = 3 then ⟨3, [], leNat (vec.map (BitVec.ofNat 8)), zero, zero, zero⟩
  else
    let q := vec.map (decode fp32)
    let hi := dirDot .ru q q
    ⟨p.metric, q, 0, hi, dirDot .rd q q, sqrt64 .ru hi⟩

/-- R127: the upper bound of a child entry, as a key. -/
def QVec.nodeBound (x : QVec) (centroid : Bytes) (radius : Nat) : Nat :=
  if x.metric = 3 then
    upKey (intFl (-((popcount (x.bits ^^^ hammingNat centroid) - radius : Nat) : Int)))
  else
    let c := elems 1 centroid
    let r := decode fp32 radius
    if x.metric = 1 then
      let t := maxZero (r64 .rd (sub (sqrt64 .rd (dirDist .rd x.q c)) r))
      upKey (neg (r64 .rd (mul t t)))
    else upKey (r64 .ru (add (dirDot .ru x.q c) (r64 .ru (mul x.qn r))))

/-- R128: the query bits and the weights. -/
def QVec.weights (x : QVec) (p : Params) : List (Bool × Nat) :=
  if x.metric = 3 then (List.range 128).map fun j => (x.bits.testBit j, 1)
  else (groups (signs p.dim (BitVec.ofNat 64 p.seed)) x.q).map fun g =>
    let hl := dirSum .rd g
    let hu := dirSum .ru g
    if le hl zero ∧ le zero hu then (true, 0)
    else
      let m := let a := abs hl; let b := abs hu; if lt b a then b else a
      let dn2 (a b : Fl) := decode fp64 (div fp64 .rd a b)
      let w := r64 .rd (mul (dn2 (dn2 (r64 .rd (mul (r64 .rd (mul m m)) (intFl 128))) (intFl p.dim)) x.q2hi) (intFl 65536))
      (lt zero hl, (toInt .rd false (match w with | .fin _ m _ => m | _ => 0) (match w with | .fin _ _ e => e | _ => 0)).toNat)

/-- R129: the mismatch mass of a sketch. -/
def mass (ws : List (Bool × Nat)) (sketch : Nat) : Nat :=
  ((List.range ws.length).zip ws).foldl (fun m jw => if sketch.testBit jw.1 != jw.2.1 then m + jw.2.2 else m) 0

/-- R129: the sketch bound of a slot below a child entry, as a key. -/
def QVec.sketchBound (x : QVec) (centroid : Bytes) (radius m : Nat) : Nat :=
  if x.metric = 3 then upKey (intFl (-(m : Int)))
  else if x.metric = 1 then
    upKey (neg (r64 .rd (mul (r64 .rd (mul x.q2lo (intFl m))) (.fin false 1 (-16)))))
  else
    let c := elems 1 centroid
    let n := r64 .ru (add (sqrt64 .ru (dirDot .ru c c)) (decode fp32 radius))
    let root := sqrt64 .ru (sub (intFl 1) (.fin false m (-16)))
    upKey (r64 .ru (mul (r64 .ru (mul x.qn n)) root))

/-- R130: the table pair of a subspace and centroid, as fp32 values. -/
def QVec.tablePair (x : QVec) (p : Params) (m c : Nat) : Fl × Fl :=
  let q := p.subspace x.q m
  let ct := p.centroid m c
  if x.metric = 1 then (r32 .rd (dirDist .rd q ct), r32 .ru (dirDist .ru q ct))
  else (r32 .rd (dirDot .rd q ct), r32 .ru (dirDot .ru q ct))

def sum32dir (mode : Mode) (l : List Fl) : Fl := l.foldl (fun s t => r32 mode (addX mode.rdZero s t)) zero

/-- R130: the PQ interval of a slot, as two keys. -/
def QVec.interval (x : QVec) (p : Params) (sketch : Nat) (code : Bytes) (norm : Nat) : Nat × Nat :=
  if x.metric = 3 then
    let known := popcount (sketch ^^^ (x.bits % 2 ^ 128)) + popcount (leNat code ^^^ (x.bits / 2 ^ 128 % 2 ^ (8 * p.pq)))
    (dnKey (intFl (-((known + (p.dim - 128 - 8 * p.pq) : Nat) : Int))), upKey (intFl (-(known : Int))))
  else
    let prs := (List.range p.pq).map fun m => x.tablePair p m (code.getD m 0).toNat
    let sl := sum32dir .rd (prs.map (·.1))
    let sh := sum32dir .ru (prs.map (·.2))
    let rho := decode bf16 norm
    if x.metric = 1 then
      let dl := maxZero (r32 .rd (sub (decode fp32 (sqrt fp32 .rd sl)) rho))
      let dh := r32 .ru (add (decode fp32 (sqrt fp32 .ru sh)) rho)
      (dnKey (neg (r32 .ru (mul dh dh))), upKey (neg (r32 .rd (mul dl dl))))
    else
      let e := r32 .ru (mul (r32 .ru x.qn) rho)
      (dnKey (r32 .rd (sub sl e)), upKey (r32 .ru (add sh e)))

/-- R114: the exact score, rounded once to fp32, as its pattern. -/
def QVec.score (x : QVec) (p : Params) (v : Bytes) : Nat :=
  if x.metric = 3 then encode fp32 .rne (intFl (-(popcount (x.bits ^^^ hammingNat v) : Int)))
  else
    let l := elems p.format v
    let s :=
      if x.metric = 1 then neg (((x.q.zip l).map fun q => let d := sub q.1 q.2; mul d d).foldl add zero)
      else ((x.q.zip l).map fun q => mul q.1 q.2).foldl add zero
    encode fp32 .rne s

/-- A radius no smaller than ‖x − c‖ (R95), as fp32 bits; the Hamming distance for metric 3. -/
def Params.radius (p : Params) (v centroid : Bytes) : Nat :=
  if p.metric = 3 then popcount (hammingNat v ^^^ hammingNat centroid)
  else if p.isOpen v then posInf32
  else encode fp32 .ru (normUp (((elems p.format v).zip (elems 1 centroid)).map fun q => sub q.1 q.2))

/-- The greater of two radii of one metric (non-negative fp32 patterns compare as numbers). -/
def maxRadius (a b : Nat) : Nat := max a b

/-- R233: the centroid of a new entry. -/
def Params.entryCentroid (p : Params) (v : Bytes) : Bytes :=
  if p.metric = 3 then v else packElems 1 ((elems p.format v).map (encode bf16 .rne))

/-- R232: the distance of a stored vector from a centroid. -/
def Params.distance (p : Params) (v centroid : Bytes) : Fl :=
  if p.metric = 3 then intFl (popcount (hammingNat v ^^^ hammingNat centroid)) else dist64 (elems p.format v) (elems 1 centroid)

end Sys2Proof.Machine
end

