-- ==== Sys2Proof/Machine/Select.lean ====
section
/-! DEFINITION. Top-k selection and merging (05_selection.md): the select engine, its summary, the passes and the tally
above K = 256, and the merge of lists. -/

namespace Sys2Proof.Machine

open Sys2Proof Sys2Proof.Num

/-- A select entry: ordered key and Index; Index 0xFFFF_FFFF is invalid (R158). -/
structure SelEntry where
  key : Nat
  index : Nat
  deriving DecidableEq, Repr

def invalidIndex : Nat := 0xFFFFFFFF

def SelEntry.valid (e : SelEntry) : Bool := e.index != invalidIndex

/-- R167: what an output register holds past its last entry. -/
def SelEntry.sentinel : SelEntry := ⟨sentinelKey, invalidIndex⟩

/-- R164: the node order, descending key and then ascending Index. -/
def SelEntry.before (a b : SelEntry) : Bool := b.key < a.key || (a.key == b.key && a.index < b.index)

/-- A list cut into rows of `n` elements. -/
def cut {α : Type} (n : Nat) : Nat → List α → List (List α)
  | 0, _ => []
  | k + 1, l => if l.isEmpty then [] else l.take n :: cut n k (l.drop n)

/-- Insert into a list that is ranked by `before`, after its equals. -/
def insertBy {α : Type} (before : α → α → Bool) (x : α) : List α → List α
  | [] => [x]
  | y :: r => if before x y then x :: y :: r else y :: insertBy before x r

/-- Rank a list; the order of equals stays. -/
def sortBy {α : Type} (before : α → α → Bool) (l : List α) : List α := l.foldr (insertBy before) []

/-- The select summary (R168 to R174). -/
structure Summary48 where
  count : Nat
  restCount : Nat
  tiedLeftOut : Nat
  kthKey : Nat
  nanSelected : Nat
  nanRest : Nat
  sumSelected : Nat
  sumRest : Nat
  maxScore : Nat
  partial_ : Bool
  softmax : Bool
  deriving DecidableEq, Repr

/-- R171, R172: the term of an entry with score pattern `s` in a mode whose greatest non-NaN score is `m`. -/
def selTerm (softmax : Bool) (m s : Nat) : Nat :=
  if softmax then
    if m = posInf32 then (if s = posInf32 then 0x3FF0000000000000 else 0)
    else if m = negInf32 then 0x3FF0000000000000
    else if s = negInf32 then 0
    else exp fp64 .rne (decode fp64 (subR fp64 .rne (f32to64 s) (f32to64 m)))
  else f32to64 s

/-- R168 to R174: the figures of an input when the entries that `sel` names are selected. -/
def selFigures (softmax : Bool) (k : Nat) (l : List SelEntry) (sel : SelEntry → Bool) (kth : Nat) (n : Nat) : Summary48 :=
  let v := l.filter SelEntry.valid
  let scores := (v.filter fun e => e.key != topKey).map (·.key)
  let m := if scores.isEmpty then negInf32 else valueOfKey (scores.foldl max 0)
  let chosen := v.filter sel
  let rest := v.filter fun e => !sel e
  let term (want : Bool) (e : SelEntry) : Nat :=
    if e.valid && e.key != topKey && sel e == want then selTerm softmax m (valueOfKey e.key) else 0
  { count := n, restCount := rest.length
    tiedLeftOut := (rest.filter fun e => e.key == kth).length
    kthKey := kth
    nanSelected := (chosen.filter fun e => e.key == topKey).length
    nanRest := (rest.filter fun e => e.key == topKey).length
    sumSelected := sum64 (l.map (term true)), sumRest := sum64 (l.map (term false))
    maxScore := m, partial_ := n < k, softmax := softmax }

/-- R167: the 256 entries of the output register of a pass that selected `out`: past its last entry it holds sentinels. -/
def outputRegister (out : List SelEntry) : List SelEntry := out ++ List.replicate (256 - out.length) SelEntry.sentinel

/-- R178, R180: the output registers of the select passes for K, one after another; the first pass that falls short is the last. -/
def outputRegisters (k : Nat) (out : List SelEntry) : List (List SelEntry) :=
  (List.range (min ((k + 255) / 256) (out.length / 256 + 1))).map fun j => outputRegister ((out.drop (256 * j)).take 256)

/-- The 8 bytes of a select entry. -/
def SelEntry.bytes (e : SelEntry) : Bytes := leBytes 4 e.key ++ leBytes 4 e.index

/-- R167, R178 to R180: the first min(K, v) valid entries in node order and the summary of the whole input. -/
def selectTop (softmax : Bool) (k : Nat) (l : List SelEntry) : List SelEntry × Summary48 :=
  let ranked := sortBy SelEntry.before (l.filter SelEntry.valid)
  let out := ranked.take k
  match out.getLast? with
  | none => (out, selFigures softmax k l (fun _ => false) sentinelKey 0)
  | some cut => (out, selFigures softmax k l (fun e => e.before cut || e == cut) cut.key out.length)

/-- The 48 bytes of a select summary. -/
def Summary48.bytes (f : Summary48) : Bytes :=
  leBytes 4 f.count ++ leBytes 4 f.restCount ++ leBytes 4 f.tiedLeftOut ++ leBytes 4 f.kthKey ++ leBytes 4 f.nanSelected
    ++ leBytes 4 f.nanRest ++ leBytes 8 f.sumSelected ++ leBytes 8 f.sumRest ++ leBytes 4 f.maxScore
    ++ leBytes 1 (if f.partial_ then St.partial_ else St.ok)
    ++ leBytes 1 ((if f.tiedLeftOut = 0 then 0 else 1) + (if f.softmax then 2 else 0)) ++ leBytes 2 0

/-! Merging (R181 to R187). -/

/-- A merge entry. -/
structure MEntry where
  id : Nat
  key : Nat
  tier : Nat
  flags : Nat
  shoal : Nat
  deriving DecidableEq, Repr

/-- A list with the summary figures that a merge takes (R182). -/
structure MList where
  entries : List MEntry
  count : Nat
  restCount : Nat
  tiedLeftOut : Nat
  kthKey : Nat
  nanRest : Nat
  sumRest : Nat
  deriving DecidableEq, Repr

def noItem : Nat := 0xFFFFFFFFFFFFFFFF

/-- R165: the canonical order, descending key and then ascending item ID. -/
def MEntry.before (a b : MEntry) : Bool := b.key < a.key || (a.key == b.key && a.id < b.id)

/-- R183: `a` is kept before `b` of the same item, `a` being earlier in list order; a reserved Tier word is compared as a number
(DESIGN CHOICE, notes/assumptions/89.md). -/
def MEntry.kept (a b : MEntry) : MEntry :=
  if a.tier < b.tier || (a.tier == b.tier && a.key < b.key) then b else a

/-- R183: one entry for each item, and the number removed. -/
def dedup : List MEntry → List MEntry × Nat
  | [] => ([], 0)
  | e :: r =>
    let (out, n) := dedup r
    match out.find? fun x => x.id == e.id with
    | none => (e :: out, n)
    | some x => (e.kept x :: out.filter (fun y => y.id != e.id), n + 1)

/-- The merged list and figures (R184, R185). -/
structure Merged where
  list : List MEntry
  dropped : List MEntry
  duplicates : Nat
  kthKey : Nat
  sumSelected : Nat
  sumRest : Nat
  restCount : Nat
  nanRest : Nat
  tiedLeftOut : Nat
  deriving DecidableEq, Repr

/-- The term of a listed or dropped entry; a NaN's position contributes +0 (R174; DEDUCED for merges,
notes/assumptions/17.md). -/
def keyTerm (k : Nat) : Nat := if k = topKey then 0 else f32to64 (valueOfKey k)

def mergeLists (k : Nat) (ls : List MList) : Merged :=
  let (kept, dups) := dedup ((ls.flatMap (·.entries)).filter fun e => e.id != noItem)
  let ranked := sortBy MEntry.before kept
  let list := ranked.take k
  let dropped := ranked.drop k
  let kth := match list.getLast? with
    | some e => e.key
    | none => sentinelKey
  { list := list, dropped := dropped, duplicates := dups, kthKey := kth
    sumSelected := sum64 (list.map fun e => keyTerm e.key)
    sumRest := sum64 (ls.map (·.sumRest) ++ dropped.map fun e => keyTerm e.key)
    restCount := (ls.map (·.restCount)).sum + dropped.length
    nanRest := (ls.map (·.nanRest)).sum + (dropped.filter fun e => e.key == topKey).length
    tiedLeftOut := (ls.map fun l => if l.count = k ∧ l.kthKey = kth then l.tiedLeftOut else 0).sum
      + (dropped.filter fun e => e.key == kth).length }

end Sys2Proof.Machine
end

