-- ==== Sys2Proof/Machine/Tree.lean ====
section
/-! DEFINITION. Slots, leaves and internal nodes: visibility (R83 to R88), placement (R232 to R236), life of slots (R85 to
R87), retirement and reclamation (R239, R240), upkeep moves (R241 to R244). -/

namespace Sys2Proof.Machine

open Sys2Proof Sys2Proof.Num

/-! The stamp word. -/

abbrev slotEmpty : Nat := 0
abbrev slotSettled : Nat := 1
abbrev slotPending : Nat := 2
abbrev slotTombstone : Nat := 3
abbrev slotLedgered : Nat := 4

/-- The stamp word of a state and a Tide (R83). -/
def stampWord (st t : Nat) : Nat := t % 8192 * 8 + st

/-- R84: the one count in the range now − 8190 to now + 1 whose low 13 bits are the field. -/
def expandTide (now f : Nat) : Nat := now + 1 - (now + 1 + 8192 - f % 8192) % 8192

def Slot.state (x : Slot) : Nat := x.word % 8

/-- The Tide that a slot's Tide field names (R84). -/
def Slot.tide (now : Nat) (x : Slot) : Nat := expandTide now (x.word / 8)

/-- R83: visible to work stamped `q`; `c` is the commit boundary that the ledger holds for the slot. -/
def Slot.visible (now q : Nat) (c : Option Nat) (x : Slot) : Bool :=
  if x.state = slotSettled then true
  else if x.state = slotPending then x.tide now ≤ q
  else if x.state = slotTombstone then q < x.tide now
  else if x.state = slotLedgered then
    (match c with
     | some c => c ≤ q
     | none => false) && q < x.tide now
  else false

def Slot.live (x : Slot) : Bool := x.state == slotSettled || x.state == slotPending

/-! Local indexes (R71). -/

def localIndex (leaf slot : Nat) : Nat := leaf * 1024 + slot
def leafOf (l : Nat) : Nat := l / 1024
def slotOf (l : Nat) : Nat := l % 1024
def leafIdsMax : Nat := 3710976

namespace Index

def findLeaf (x : IndexUnit) (id : Nat) : Option Leaf := x.leaves.find? fun l => l.id == id
def findNode (x : IndexUnit) (a : Nat) : Option TreeNode := x.nodes.find? fun n => n.addr == a
def findCopy (x : IndexUnit) (c sh : Nat) : Option ShoalCopy := x.copies.find? fun p => p.coll == c && p.shoal == sh

def mapLeaf (x : IndexUnit) (id : Nat) (f : Leaf → Leaf) : IndexUnit :=
  { x with leaves := x.leaves.map fun l => if l.id == id then f l else l }

def mapNode (x : IndexUnit) (a : Nat) (f : TreeNode → TreeNode) : IndexUnit :=
  { x with nodes := x.nodes.map fun n => if n.addr == a then f n else n }

def mapCopy (x : IndexUnit) (c sh : Nat) (f : ShoalCopy → ShoalCopy) : IndexUnit :=
  { x with copies := x.copies.map fun p => if p.coll == c && p.shoal == sh then f p else p }

def slotAt (x : IndexUnit) (l : Nat) : Option Slot := (findLeaf x (leafOf l)).bind fun f => f.slots[slotOf l]?

def mapSlot (x : IndexUnit) (l : Nat) (f : Slot → Slot) : IndexUnit :=
  mapLeaf x (leafOf l) fun lf => { lf with slots := modifyAt lf.slots (slotOf l) f }

def ledgered (x : IndexUnit) (l : Nat) : Option Nat := x.ledger.lookup l

/-- The slots of a leaf with their local indexes. -/
def leafSlots (l : Leaf) : List (Nat × Slot) := (List.range l.slots.length).zip l.slots |>.map fun p => (localIndex l.id p.1, p.2)

/-- The leaf belongs to the tree that a shoal's copy uses. -/
def inUse (c sh : Nat) (l : Leaf) : Bool := l.coll == c && l.shoal == sh && l.kept.isNone

/-- Every slot of a shoal copy with its local index. -/
def shoalSlots (x : IndexUnit) (c sh : Nat) : List (Nat × Slot) := (x.leaves.filter (inUse c sh)).flatMap leafSlots

/-- The slot that makes an item present (R223): Settled or Pending. -/
def presentSlot (x : IndexUnit) (c sh item : Nat) : Option (Nat × Slot) :=
  (shoalSlots x c sh).find? fun p => p.2.id == item && p.2.live

/-! Placement. -/

/-- An empty child entry. -/
def noChild : Child := ⟨.empty, 0, 0, 0, 0, 0, []⟩

def nodeBytes (metric dim : Nat) : Nat := 64 + 64 * 32 + 64 * (if metric = 3 then dim / 8 else 2 * dim)

/-- R101: bytes of internal nodes in shelf memory, all nodes taken as this collection's size class by their centroids. -/
def shelfBytes (x : IndexUnit) (size : Nat → Nat) : Nat := ((x.nodes.filter fun n => n.shelf == some true).map fun n => size n.coll).sum

/-- Make a new internal node; its number is the next one in steps of its size (DESIGN CHOICE, notes/assumptions/18.md). -/
def newNode (x : IndexUnit) (c sh level parent created bytes : Nat) : Nat × IndexUnit :=
  (x.nextAddr, { x with
    nodes := x.nodes ++ [⟨x.nextAddr, 0, none, level, c, sh, parent, created, none, List.replicate 64 noChild⟩]
    nextAddr := x.nextAddr + (bytes + 63) / 64 * 64 })

/-- The lowest leaf ID not in use; one whose records are still readable is in use (R238). -/
def freeLeafId (x : IndexUnit) : Option Nat :=
  (List.range (x.leaves.length + x.records.length + 1)).find? fun i =>
    i < leafIdsMax && !(x.leaves.any fun l => l.id == i) && !(x.records.any fun r => leafOf r.local_ == i)

/-- R232: the candidate entries of a node: kinds 0b01 and 0b10, live, not the open child of a shoal root. -/
def descendable (n : TreeNode) : List (Nat × Child) :=
  ((List.range n.kids.length).zip n.kids).filter fun p =>
    (match p.2.ref with
     | .empty => false
     | _ => true) && p.2.retired == 0 && !(n.parent == 0 && p.1 == 63)

/-- R232: the entry with the nearest centroid, the lower entry number among equals. -/
def nearestEntry (p : Params) (v : Bytes) (n : TreeNode) : Option (Nat × Child) :=
  let l := descendable n
  l[nearest (l.map fun q => p.distance v q.2.centroid)]?

/-- R232: the descent path from a node: (node address, entry) pairs, the deepest last, and the leaf reached. -/
def descend (x : IndexUnit) (p : Params) (v : Bytes) : Nat → Nat → List (Nat × Nat) × Option Nat
  | 0, _ => ([], none)
  | fuel + 1, a =>
    match findNode x a with
    | none => ([], none)
    | some n =>
      match nearestEntry p v n with
      | none => ([(a, 64)], none)
      | some (i, c) =>
        match c.ref with
        | .leaf id => ([(a, i)], some id)
        | .node b => let r := descend x p v fuel b; ((a, i) :: r.1, r.2)
        | .empty => ([(a, 64)], none)

/-- The lowest free entry of a node that accession may use: not 62 of a shoal root or open node, not 63 of a root. -/
def freeEntry (isTop isRoot : Bool) (n : TreeNode) : Option Nat :=
  (List.range 64).find? fun i =>
    (match n.kids[i]? with
     | some c => c.ref == .empty
     | none => false) && !(isTop && i == 62) && !(isRoot && i == 63)

/-- R233: the deepest node of a path with a free entry, and the entry; `top` is the root or the open node. -/
def placeEntry (x : IndexUnit) (root top : Nat) (path : List Nat) : Option (Nat × Nat) :=
  path.reverse.findSome? fun a =>
    (findNode x a).bind fun n => (freeEntry (a == top) (a == root) n).map fun i => (a, i)

/-- Fill a child entry. -/
def setChild (x : IndexUnit) (a i : Nat) (c : Child) : IndexUnit :=
  mapNode x a fun n => { n with kids := n.kids.set i c }

def mapChild (x : IndexUnit) (a i : Nat) (f : Child → Child) : IndexUnit :=
  mapNode x a fun n => { n with kids := modifyAt n.kids i f }

/-- The entry of `parent` that refers to a child. -/
def entryOf (x : IndexUnit) (parent : Nat) (r : ChildRef) : Option Nat :=
  (findNode x parent).bind fun n => (List.range 64).find? fun i =>
    match n.kids[i]? with
    | some c => c.ref == r
    | none => false

/-- The (node, entry) pairs from a child up to the root. -/
def upward (x : IndexUnit) : Nat → Nat → ChildRef → List (Nat × Nat)
  | 0, _, _ => []
  | fuel + 1, parent, r =>
    match entryOf x parent r, findNode x parent with
    | some i, some n => (parent, i) :: (if n.parent = 0 then [] else upward x fuel n.parent (.node parent))
    | _, _ => []

/-- The path above a leaf. -/
def pathOf (x : IndexUnit) (id : Nat) : List (Nat × Nat) :=
  match findLeaf x id with
  | some l => upward x 9 l.parent (.leaf id)
  | none => []

/-- Change ItemCount on a path of entries (R94). -/
def countPath (x : IndexUnit) (path : List (Nat × Nat)) (f : Nat → Nat) : IndexUnit :=
  path.foldl (fun x q => mapChild x q.1 q.2 fun c => { c with count := f c.count }) x

/-- One item more, saturating (R94). -/
def oneMore (n : Nat) : Nat := min (n + 1) 0xFFFFFFFF

/-- Write a slot's stamp word; the counts above it follow where it becomes Empty or ceases to be. -/
def setWord (x : IndexUnit) (l w : Nat) : IndexUnit :=
  let was := ((slotAt x l).map Slot.state).getD slotEmpty
  let x := mapSlot x l fun s => { s with word := w }
  if was ≠ slotEmpty ∧ w % 8 = slotEmpty then countPath x (pathOf x (leafOf l)) (· - 1)
  else if was = slotEmpty ∧ w % 8 ≠ slotEmpty then countPath x (pathOf x (leafOf l)) oneMore
  else x

/-- R95: a child entry's bounds for one more item. -/
def Child.widen (p : Params) (v : Bytes) (norm : Nat) (c : Child) : Child :=
  { c with radius := maxRadius c.radius (p.radius v c.centroid), maxNorm := max c.maxNorm norm }

/-- R95, R235: enlarge the bounds on every entry above a leaf for one more item. -/
def enlarge (x : IndexUnit) (p : Params) (v : Bytes) (norm : Nat) (path : List (Nat × Nat)) : IndexUnit :=
  countPath (path.foldl (fun x q => mapChild x q.1 q.2 (Child.widen p v norm)) x) path oneMore

/-- R108: extend a leaf's summary records by an item's attributes. -/
def summaryKey (typ v : Nat) : Nat :=
  if typ = 6 then keyOf v else if typ = 4 ∨ typ = 5 then (v + 2 ^ 63) % 2 ^ 64 else v

/-- The value of an attribute record in an item's metadata, extended to 64 bits; none where it is absent (R107). -/
def attrValue (rec_ : Bytes) (metadata : Bytes) : Option Nat :=
  let o := field rec_ 0 2
  let n := field rec_ 2 2
  let t := field rec_ 4 1
  if o + n ≤ metadata.length then
    let v := field metadata o n
    some (if t = 4 then toBits 64 (ofBits 32 v) else v)
  else none

def extendSummary (schema metadata : Bytes) (r : Summary) : Summary :=
  match (records 8 schema)[r.attr]? with
  | none => r
  | some a =>
    match attrValue a metadata with
    | none => r
    | some v =>
      if r.mode = 2 then { r with low := r.low ||| v }
      else if r.mode = 1 then
        let t := field a 4 1
        if summaryKey t r.high < summaryKey t r.low then { r with low := v, high := v }
        else { r with low := if summaryKey t v < summaryKey t r.low then v else r.low
                      high := if summaryKey t r.high < summaryKey t v then v else r.high }
      else r

/-- A new leaf's summary records: the k-th serves the k-th attribute with a mode (R108); low above high in mode 1. -/
def emptySummaries (schema : Bytes) : List Summary :=
  let l := records 8 schema
  (((List.range l.length).zip l).filter fun p => field p.2 5 1 != 0).take 4 |>.map fun p =>
    let mode := field p.2 5 1
    let t := field p.2 4 1
    if mode = 1 then
      (if t = 6 then ⟨p.1, 1, posInf32, negInf32⟩
       else if t = 4 ∨ t = 5 then ⟨p.1, 1, 2 ^ 63 - 1, 2 ^ 63⟩ else ⟨p.1, 1, 2 ^ 64 - 1, 0⟩)
    else ⟨p.1, mode, 0, 0⟩

/-- The slot of an item (R92). -/
def slotFor (p : Params) (item word : Nat) (v : Bytes) : Slot :=
  let code := p.code v
  ⟨word, item, p.residual v code, p.sketch v, code⟩

/-- Append a slot to a leaf, with the leaf's own bounds (R92, R235). A move raises Watermark past its slot, and so past
accession slots that lie lower: the header table and R242 cannot both hold in a leaf that a fill shares with accessions
(DESIGN CHOICE, notes/assumptions/88.md). -/
def appendSlot (x : IndexUnit) (p : Params) (id : Nat) (s : Slot) (metadata : Bytes) (belowMark : Bool) : IndexUnit :=
  mapLeaf x id fun l =>
    { l with slots := l.slots ++ [s], maxNorm := max l.maxNorm s.norm,
             watermark := if belowMark then l.slots.length + 1 else l.watermark,
             summaries := l.summaries.map (extendSummary p.schema metadata) }

/-- Append a slot to a leaf and enlarge every bound above it (R92, R235). -/
def append (x : IndexUnit) (p : Params) (id item word : Nat) (v metadata : Bytes) (belowMark : Bool) : Nat × IndexUnit :=
  match findLeaf x id with
  | none => (0, x)
  | some l =>
    let s := slotFor p item word v
    let x := appendSlot x p id s metadata belowMark
    (localIndex id l.slots.length, enlarge x p v s.norm (pathOf x id))

/-- A new leaf under a node's entry (R233). -/
def addLeaf (x : IndexUnit) (p : Params) (c sh a i created : Nat) (v : Bytes) (centroid : Bytes) : Option (Nat × IndexUnit) :=
  match freeLeafId x with
  | none => none
  | some id =>
    let r := p.radius v centroid
    some (id, setChild
      { x with leaves := x.leaves ++ [⟨id, 0, none, c, sh, 0, a, created, 0, emptySummaries p.schema, []⟩] } a i
      ⟨.leaf id, r, r, 0, 0, 0, centroid⟩)

/-- R99: the open node of a shoal root, made when its first open item arrives. -/
def openNode (x : IndexUnit) (p : Params) (c sh root created : Nat) (v : Bytes) : Option (Nat × IndexUnit) :=
  match (findNode x root).bind fun n => n.kids[63]? with
  | none => none
  | some k =>
    match k.ref with
    | .node a => some (a, x)
    | _ =>
      let (a, x) := newNode x c sh 1 root created (nodeBytes p.metric p.dim)
      some (a, setChild x root 63 ⟨.node a, posInf32, posInf32, 0x7F80, 0, 0, p.entryCentroid v⟩)

/-- A new leaf for an item that finds none with room, with its item. Where `grow`, an entry of the upper half of a node
takes a new internal node with the leaf below it. -/
def addLeafFor (x : IndexUnit) (p : Params) (cp : ShoalCopy) (a i item word created : Nat) (v metadata : Bytes) (grow : Bool) :
    Option (Nat × IndexUnit) :=
  let level := ((findNode x a).map (·.level)).getD 7
  let ct := p.entryCentroid v
  let deeper := grow && decide (32 ≤ i) && decide (level < 7)
  let r := p.radius v ct
  let (b, k, x) := if deeper then
      let (b, x) := newNode x cp.coll cp.shoal (level + 1) a created (nodeBytes p.metric p.dim)
      (b, 0, setChild x a i ⟨.node b, r, r, 0, 0, 0, ct⟩)
    else (a, i, x)
  (addLeaf x p cp.coll cp.shoal b k created v ct).map fun (id, x) => append x p id item word v metadata grow

/-- The live internal nodes from `a` down; of a shoal root, not the open subtree. -/
def nodesBelow (x : IndexUnit) : Nat → Nat → List TreeNode
  | 0, _ => []
  | fuel + 1, a =>
    match findNode x a with
    | none => []
    | some n => n :: ((descendable n).map fun q => match q.2.ref with
        | .node b => nodesBelow x fuel b
        | _ => []).flatten

/-- Where a local move puts an item whose own path is full: a leaf of the tree with room, else a free entry of any of its
nodes (R245, R247; DESIGN CHOICE, notes/assumptions/25.md). -/
def placeElsewhere (x : IndexUnit) (p : Params) (cp : ShoalCopy) (top item word created : Nat) (v metadata : Bytes) :
    Option (Nat × IndexUnit) :=
  let ns := nodesBelow x 9 top
  let room := ns.findSome? fun n => (descendable n).findSome? fun q => match q.2.ref with
    | .leaf id => (findLeaf x id).bind fun l => if l.slots.length < 1024 then some id else none
    | _ => none
  match room with
  | some id => some (append x p id item word v metadata true)
  | none => match ns.findSome? fun n => (freeEntry (n.addr == top) (n.addr == cp.root) n).map fun i => (n.addr, i) with
    | some (a, i) => addLeafFor x p cp a i item word created v metadata true
    | none => none

/-- Place an item's new slot (R99, R232 to R235): none when no entry is free on its path (R234). A local move (R105, R245)
is not bound to that path. -/
def place (x : IndexUnit) (p : Params) (cp : ShoalCopy) (item word created : Nat) (v metadata : Bytes) (move : Bool) :
    Option (Nat × IndexUnit) :=
  let start : Option (Nat × IndexUnit) :=
    if p.isOpen v then openNode x p cp.coll cp.shoal cp.root created v else some (cp.root, x)
  match start with
  | none => none
  | some (top, x) =>
    let (path, leaf) := descend x p v 9 top
    let room : Option Nat := leaf.bind fun id => (findLeaf x id).bind fun l => if l.slots.length < 1024 then some id else none
    match room with
    | some id => some (append x p id item word v metadata move)
    | none =>
      match placeEntry x cp.root top (path.map (·.1)) with
      | some (a, i) => addLeafFor x p cp a i item word created v metadata move
      | none => if move then placeElsewhere x p cp top item word created v metadata else none

/-! The life of a slot. -/

/-- R85: what a deaccession or an upsert accepted during `t` makes of an item's slot: the new word and a ledger entry.
None when the change ledger is full (R86). -/
def removeSlot (x : IndexUnit) (t l : Nat) (s : Slot) : Option IndexUnit :=
  if s.state = slotSettled then some (setWord x l (stampWord slotTombstone (t + 1)))
  else if s.tide t = t + 1 then some (setWord x l 0)
  else if x.ledger.length < 262144 then
    some { setWord x l (stampWord slotLedgered (t + 1)) with ledger := x.ledger ++ [(l, s.tide t)] }
  else none

/-- R87: settle a slot against the low-water stamp. -/
def settleWord (now low : Nat) (s : Slot) : Nat :=
  if s.state = slotPending ∧ s.tide now ≤ low then stampWord slotSettled 0
  else if (s.state = slotTombstone ∨ s.state = slotLedgered) ∧ s.tide now ≤ low then 0
  else s.word

/-- R87, over every slot; a ledger entry is freed when its slot becomes Empty. -/
def settle (x : IndexUnit) (now low : Nat) : IndexUnit :=
  let fix (l : Leaf) : Leaf := { l with slots := l.slots.map fun s => { s with word := settleWord now low s } }
  let emptied (l : Leaf) : Nat := (l.slots.filter fun s => s.state != slotEmpty && settleWord now low s % 8 == slotEmpty).length
  let x := x.leaves.foldl (fun x l => countPath x (pathOf x l.id) (· - emptied l)) x
  let x := { x with leaves := x.leaves.map fix }
  { x with ledger := x.ledger.filter fun e =>
      match slotAt x e.1 with
      | some s => s.state == slotLedgered
      | none => false }

/-- A leaf without a Settled or Pending slot (R239). -/
def leafDead (x : IndexUnit) (id : Nat) : Bool :=
  match findLeaf x id with
  | some l => !(l.slots.any Slot.live)
  | none => false

/-- A node that an upkeep job has made and that stands in no entry yet. -/
def unlinked (x : IndexUnit) (a : Nat) : Bool := x.jobs.any fun j => j.nodes.contains a

/-- R239: retire, at a boundary, every child leaf without a live slot. -/
def retireLeaves (x : IndexUnit) (t : Nat) : IndexUnit :=
  let fix (c : Child) : Child :=
    match c.ref with
    | .leaf id => if c.retired = 0 ∧ leafDead x id then { c with retired := t } else c
    | _ => c
  { x with nodes := x.nodes.map fun n => if unlinked x n.addr then n else { n with kids := n.kids.map fix } }

/-- Every child of an internal node is retired or empty. -/
def nodeDead (x : IndexUnit) (a : Nat) : Bool :=
  match findNode x a with
  | some n => n.kids.all fun c => c.ref == .empty || c.retired != 0
  | none => false

/-- One upward pass of R239 over internal nodes. -/
def retireNodes (x : IndexUnit) (t : Nat) : IndexUnit :=
  let fix (n : TreeNode) (p : Nat × Child) : Child :=
    match p.2.ref with
    | .node a => if p.2.retired = 0 ∧ !(n.parent == 0 && p.1 == 63) ∧ nodeDead x a then { p.2 with retired := t } else p.2
    | _ => p.2
  { x with nodes := x.nodes.map fun n => if unlinked x n.addr then n else { n with kids := ((List.range 64).zip n.kids).map (fix n) } }

def retireUp (t : Nat) : Nat → IndexUnit → IndexUnit
  | 0, x => x
  | n + 1, x => retireUp t n (retireNodes x t)

/-- R239, whole: leaves first, then as many upward passes as a tree has levels. -/
def retire (x : IndexUnit) (t : Nat) : IndexUnit := retireUp t 8 (retireLeaves x t)

/-- The child entries of a collection whose retirement commits at a boundary, those that upkeep replaced among them. -/
def retiredAt (x : IndexUnit) (c t : Nat) : Nat :=
  ((x.nodes.filter fun n => n.coll == c).map fun n => (n.kids.filter fun k => k.retired == t && k.ref != .empty).length).sum

/-- R87: every slot of a leaf becomes Empty, and its ledger entries are freed. -/
def emptyLeaf (x : IndexUnit) (l : Leaf) : IndexUnit :=
  let n := (l.slots.filter fun s => s.state != slotEmpty).length
  let x := countPath x (pathOf x l.id) (· - n)
  { x with ledger := x.ledger.filter fun e => leafOf e.1 != l.id }

/-- R240: reclaim every retired child whose RetiredTide L exceeds, and free its entry; its records go with it (R238). The
last tombstone below it carries D no later than that, so that L has passed all of them (R87). -/
def reclaim (x : IndexUnit) (low : Nat) : IndexUnit :=
  let dead := x.nodes.flatMap fun n => (n.kids.filter fun c => c.retired != 0 && c.retired < low).map (·.ref)
  let x := (x.leaves.filter fun (l : Leaf) => dead.contains (ChildRef.leaf l.id)).foldl emptyLeaf x
  let fix (n : TreeNode) : TreeNode :=
    { n with kids := n.kids.map fun c => if c.retired != 0 && c.retired < low then noChild else c }
  let x := { x with
    leaves := x.leaves.filter fun (l : Leaf) => !dead.contains (ChildRef.leaf l.id)
    nodes := (x.nodes.filter fun (n : TreeNode) => !dead.contains (ChildRef.node n.addr)).map fix }
  let gone (l : Nat) : Bool := dead.contains (ChildRef.leaf (leafOf l))
  { x with records := x.records.filter fun r => !gone r.local_, directory := x.directory.filter fun e => !gone e.local_ }

/-- Free a shoal copy: its tree, leaves, ledger entries and records (R111, R112). -/
def freeShoal (x : IndexUnit) (c sh : Nat) : IndexUnit :=
  let gone := (x.leaves.filter fun l => l.coll == c && l.shoal == sh).map (·.id)
  let nodes := x.nodes.filter fun n => n.coll == c && n.shoal == sh
  { x with
    copies := x.copies.filter fun p => !(p.coll == c && p.shoal == sh)
    nodes := x.nodes.filter fun n => !(n.coll == c && n.shoal == sh)
    leaves := x.leaves.filter fun l => !(l.coll == c && l.shoal == sh)
    ledger := x.ledger.filter fun e => !gone.contains (leafOf e.1)
    records := x.records.filter fun r => !gone.contains (leafOf r.local_)
    changeLog := x.changeLog.filter fun e => !(e.coll == c && e.shoal == sh)
    directory := x.directory.filter fun e => !(e.coll == c && e.shoal == sh)
    kept := x.kept.filter fun k => !(k.coll == c && k.shoal == sh)
    jobs := x.jobs.filter fun j => !(nodes.any fun n => n.addr == j.node) }

/-- A copy gives up its tree, which running work may still read: the tree is kept until L exceeds `until_` (R112, R238). -/
def giveUpTree (x : IndexUnit) (cp : ShoalCopy) (until_ : Nat) : IndexUnit :=
  let mine (c sh : Nat) (k : Option Nat) : Bool := c == cp.coll && sh == cp.shoal && k.isNone
  { x with
    copies := x.copies.filter fun p => !(p.coll == cp.coll && p.shoal == cp.shoal)
    nodes := x.nodes.map fun n => if mine n.coll n.shoal n.kept then { n with kept := some cp.root } else n
    leaves := x.leaves.map fun l => if mine l.coll l.shoal l.kept then { l with kept := some cp.root } else l
    kept := x.kept ++ [⟨cp.coll, cp.shoal, cp.root, if cp.state = .serving then cp.since else until_ + 1, until_⟩]
    jobs := x.jobs.filter fun j => !(x.nodes.any fun n => n.addr == j.node && n.coll == cp.coll && n.shoal == cp.shoal) }

/-- Free a kept tree with its leaves, ledger entries and records. -/
def freeKept (x : IndexUnit) (root : Nat) : IndexUnit :=
  let gone := (x.leaves.filter fun l => l.kept == some root).map (·.id)
  { x with
    nodes := x.nodes.filter fun n => n.kept != some root
    leaves := x.leaves.filter fun l => l.kept != some root
    ledger := x.ledger.filter fun e => !gone.contains (leafOf e.1)
    records := x.records.filter fun r => !gone.contains (leafOf r.local_)
    kept := x.kept.filter fun k => k.root != root }

/-- The tree that work of a stamp reads: that of the copy Serving since then or before, or one that served
then and was given up no earlier (R30). -/
def rootFor (x : IndexUnit) (c sh stamp : Nat) : Option Nat :=
  match findCopy x c sh with
  | some p => if p.state = .serving ∧ p.since ≤ stamp then some p.root else keptRoot
  | none => keptRoot
where
  keptRoot : Option Nat := (x.kept.find? fun k => k.coll == c && k.shoal == sh && decide (k.since ≤ stamp) && decide (stamp ≤ k.until_)).map (·.root)

/-! Upkeep (R241 to R244). -/

/-- The trigger of a leaf's compaction: tombstoned and Empty slots reach a share of HighWater. -/
def compactable (percent : Nat) (l : Leaf) : Bool :=
  let dead := (l.slots.filter fun s => !s.live).length
  0 < l.slots.length && percent * l.slots.length ≤ 100 * dead && l.slots.any Slot.live

/-- A radius exceeds a share of the radius at creation (both fp32 patterns, or both U32 for metric 3). -/
def outgrown (metric percent : Nat) (c : Child) : Bool :=
  if metric = 3 then percent * c.radius0 < 100 * c.radius
  else lt (mul (decode fp32 c.radius0) (intFl percent)) (mul (decode fp32 c.radius) (intFl 100))

/-- The live leaves of a node that have not been retired. -/
def liveLeaves (n : TreeNode) : List (Child × Nat) :=
  n.kids.filterMap fun c =>
    match c.ref with
    | .leaf id => if c.retired = 0 then some (c, id) else none
    | _ => none

/-- A shoal root, or the open node, which its subtree takes for its root (R99). -/
def isTop (x : IndexUnit) (n : TreeNode) : Bool :=
  n.parent == 0 || (match findNode x n.parent with
    | some r => r.parent == 0 && (match r.kids[63]? with
      | some k => k.ref == .node n.addr
      | none => false)
    | none => false)

/-- R101: place the nodes not placed yet, level below `levels` in shelf memory within the budget. -/
def placeNodes (x : IndexUnit) (levels size : Nat → Nat) (budget : Nat) : IndexUnit :=
  (x.nodes.filter fun n => n.shelf.isNone).foldl (fun x n =>
    let fits := decide (n.level < levels n.coll) && decide (shelfBytes x size + size n.coll ≤ budget)
    mapNode x n.addr fun m => { m with shelf := some fits }) x

/-- R242: the centroid of a new entry for a leaf's items: that of its first live item (DESIGN CHOICE,
notes/assumptions/25.md); the old entry's where no record is at hand. -/
def freshCentroid (x : IndexUnit) (p : Params) (src : Nat) (old : Bytes) : Bytes :=
  match (findLeaf x src).bind fun l => (leafSlots l).find? fun q => q.2.live with
  | some q => match x.records.find? fun r => r.local_ == q.1 with
    | some r => p.entryCentroid r.vec
    | none => old
  | none => old

/-- The entries that upkeep may fill (R243): entries 62 and 63 of a root and 62 of the open node are kept. -/
def upkeepFree (x : IndexUnit) (n : TreeNode) : List Nat :=
  (List.range 64).filter fun i =>
    (match n.kids[i]? with
     | some c => c.ref == .empty
     | none => false) && !(isTop x n && i == 62) && !(n.parent == 0 && i == 63)

/-- A leaf that stands in no entry yet. -/
def freshLeaf (x : IndexUnit) (p : Params) (n : TreeNode) : Option (Nat × IndexUnit) :=
  (freeLeafId x).map fun id =>
    (id, { x with leaves := x.leaves ++ [⟨id, 0, none, n.coll, n.shoal, 0, n.addr, 0, 0, emptySummaries p.schema, []⟩] })

/-- What rebuilding a child makes: the new entry, the leaves whose items move with the leaves they move to. -/
structure Rebuilt where
  child : Child
  moves : List (Nat × Nat)
  index : IndexUnit

/-- One new leaf for the items of one leaf, or of two that merge (R242). -/
def rebuildLeaves (x : IndexUnit) (p : Params) (parent : TreeNode) (ids : List Nat) (old : Bytes) : Option Rebuilt :=
  (freshLeaf x p parent).map fun (id, y) =>
    ⟨⟨.leaf id, 0, 0, 0, 0, 0, freshCentroid x p (ids.headD 0) old⟩, ids.map fun i => (i, id), y⟩

/-- A child rebuilt under a parent: its live leaves anew, in the shape of its subtree (DESIGN CHOICE,
notes/assumptions/25.md); none where nothing below it lives. -/
def rebuildChild (p : Params) : Nat → IndexUnit → TreeNode → Child → Option Rebuilt
  | 0, _, _, _ => none
  | fuel + 1, x, parent, c =>
    if c.retired ≠ 0 then none
    else match c.ref with
    | .empty => none
    | .leaf id => if leafDead x id then none else rebuildLeaves x p parent [id] c.centroid
    | .node a => (findNode x a).bind fun n =>
        let (b, y) := newNode x n.coll n.shoal (parent.level + 1) parent.addr 0 (nodeBytes p.metric p.dim)
        (findNode y b).bind fun m =>
          let r := n.kids.foldl (fun (acc : IndexUnit × List (Nat × Nat) × List Child) k =>
            match rebuildChild p fuel acc.1 m k with
            | none => acc
            | some q => (setChild q.index b acc.2.2.length q.child, acc.2.1 ++ q.moves, acc.2.2 ++ [q.child])) (y, [], [])
          r.2.2.head?.map fun k => ⟨⟨.node b, 0, 0, 0, 0, 0, k.centroid⟩, r.2.1, r.1⟩

/-- A new internal node under a parent that holds children of another node, rebuilt. -/
def rebuildUnder (x : IndexUnit) (p : Params) (parent : TreeNode) (kids : List Child) : Option Rebuilt :=
  let (b, y) := newNode x parent.coll parent.shoal (parent.level + 1) parent.addr 0 (nodeBytes p.metric p.dim)
  (findNode y b).bind fun m =>
    let r := kids.foldl (fun (acc : IndexUnit × List (Nat × Nat) × List Child) k =>
      match rebuildChild p 9 acc.1 m k with
      | none => acc
      | some q => (setChild q.index b acc.2.2.length q.child, acc.2.1 ++ q.moves, acc.2.2 ++ [q.child])) (y, [], [])
    r.2.2.head?.map fun k => ⟨⟨.node b, 0, 0, 0, 0, 0, k.centroid⟩, r.2.1, r.1⟩

/-- The live children of a node. -/
def liveKids (n : TreeNode) : List Child := n.kids.filter fun c => c.ref != .empty && c.retired == 0

/-- The levels of internal nodes below a child. -/
def height (x : IndexUnit) : Nat → Child → Nat
  | 0, _ => 0
  | fuel + 1, c => match c.ref with
    | .node a => match findNode x a with
      | some n => 1 + ((liveKids n).map (height x fuel)).foldl max 0
      | none => 1
    | _ => 0

/-- The live slots below a child. -/
def liveBelow (x : IndexUnit) : Nat → Child → Nat
  | 0, _ => 0
  | fuel + 1, c => match c.ref with
    | .leaf id => match findLeaf x id with
      | some l => (l.slots.filter Slot.live).length
      | none => 0
    | .node a => match findNode x a with
      | some n => ((liveKids n).map (liveBelow x fuel)).sum
      | none => 0
    | .empty => 0

/-- The entries of live children, of a root not the open one, those with the fewest live slots first. -/
def lightest (x : IndexUnit) (n : TreeNode) : List Nat :=
  (sortBy (fun (a b : Nat × Child) => decide (liveBelow x 9 a.2 < liveBelow x 9 b.2)) ((descendable n).filter fun q => q.1 != 62)).map (·.1)

/-- The new entries of a job in a node with free entries for them: one for a leaf, for two that merge, or for an internal
node; two for a node that is split. -/
def rebuildHere (x : IndexUnit) (p : Params) (n : TreeNode) (j : Upkeep) (kids : List Child) : List (IndexUnit → Option Rebuilt) :=
  if j.split then
    match kids with
    | [c] => match c.ref with
      | .node a => match findNode x a with
        | some m =>
          let l := liveKids m
          let h := (l.length + 1) / 2
          [fun x => rebuildUnder x p n (l.take h), fun x => rebuildUnder x p n (l.drop h)]
        | none => []
      | _ => []
    | _ => []
  else match kids with
    | [c] => [fun x => rebuildChild p 9 x n c]
    | _ =>
      let ids := kids.filterMap fun c => match c.ref with
        | .leaf id => some id
        | _ => none
      if ids.length = kids.length ∧ (kids.map (liveBelow x 9)).sum ≤ 1024 then
        [fun x => rebuildLeaves x p n ids ((kids.headD noChild).centroid)]
      else []

/-- The leaves below a child. -/
def leavesBelow (x : IndexUnit) : ChildRef → List Nat
  | .leaf id => [id]
  | .node a => (nodesBelow x 9 a).flatMap fun m => m.kids.filterMap fun k => match k.ref with
    | .leaf id => some id
    | _ => none
  | .empty => []

/-- What a job needs in hand before its new children are made: no other job that has begun replaces a leaf of it. -/
def jobClear (x : IndexUnit) (refs : List ChildRef) : Bool :=
  let mine := refs.flatMap (leavesBelow x)
  !(x.jobs.any fun k => k.begun && (k.replaced.flatMap (leavesBelow x)).any mine.contains)

/-- A job with its new leaves and internal nodes, made from `x` by the parts in turn. -/
def makeParts (x : IndexUnit) (j : Upkeep) (refs : List ChildRef) (top : Bool) (parts : List (IndexUnit → Option Rebuilt)) :
    Option (IndexUnit × Upkeep) :=
  let j := { j with begun := true, top := top, replaced := refs }
  let r := parts.foldl (fun (acc : Option (IndexUnit × Upkeep)) f => acc.bind fun (y, j) =>
    (f y).map fun r => (r.index, { j with links := j.links ++ [r.child], moves := j.moves ++ r.moves })) (some (x, j))
  r.map fun (y, j) => (y, { j with
    nodes := (y.nodes.drop x.nodes.length).map (·.addr), leaves := (y.leaves.drop x.leaves.length).map (·.id) })

/-- R242, R243: begin a job: make its new children beside the old ones; where their node has no free entry, the node is
replaced instead; at the top, entry 62 takes a new internal node with the children that are replaced, at least two (DESIGN
CHOICE, notes/assumptions/25.md). -/
def beginJob (p : Params) : Nat → IndexUnit → Upkeep → Option (IndexUnit × Upkeep)
  | 0, _, _ => none
  | fuel + 1, x, j =>
    (findNode x j.node).bind fun n =>
      let kids := j.entries.filterMap fun i => n.kids[i]?.bind fun c => if c.ref = .empty ∨ c.retired ≠ 0 then none else some c
      let parts := rebuildHere x p n j kids
      let refs := kids.map (·.ref)
      if kids.length ≠ j.entries.length ∨ !jobClear x refs then none
      else if parts.length ≤ (upkeepFree x n).length && !parts.isEmpty then makeParts x j refs false parts
      else if isTop x n then
        let more := if j.entries.length < 2 then (lightest x n).filter (fun i => !j.entries.contains i) |>.take 1 else []
        let all := j.entries ++ more
        let kids : List Child := all.filterMap fun i => n.kids[i]?
        let refs : List ChildRef := kids.map fun c => c.ref
        let taken := (n.kids[62]?.map (·.ref)) != some ChildRef.empty
        let deep := decide (6 < n.level + (kids.map (height x 9)).foldl max 0)
        if taken || deep || !jobClear x refs then none
        else makeParts x { j with entries := all } refs true [fun x => rebuildUnder x p n kids]
      else match entryOf x n.parent (.node n.addr) with
        | some e => beginJob p fuel x (Upkeep.plan n.parent [e] (decide ((liveKids n).length = 64)))
        | none => none

/-- The slots of a leaf that may move now: Settled, or Pending at or before the current Tide. -/
def movable (x : IndexUnit) (now source : Nat) : List (Nat × Slot) :=
  match findLeaf x source with
  | some l => (leafSlots l).filter fun p => p.2.state == slotSettled || (p.2.state == slotPending && p.2.tide now ≤ now)
  | none => []

/-- The slots of a job that have no new slot yet: the leaf that takes each, its local index, the slot. -/
def jobTodo (x : IndexUnit) (now : Nat) (j : Upkeep) : List (Nat × Nat × Slot) :=
  (j.moves.flatMap fun m => (movable x now m.1).map fun q => (m.2, q.1, q.2)).filter fun q => !(j.staged.any fun p => p.1 == q.2.1)

/-- The entries that the new children of a job may fill now. -/
def linkEntries (x : IndexUnit) (n : TreeNode) (j : Upkeep) : List Nat :=
  if j.top then (match n.kids[62]? with
    | some c => if c.ref = .empty then [62] else []
    | none => [])
  else upkeepFree x n

/-- The replaced entries of a job that are still live. -/
def replacedLive (n : TreeNode) (j : Upkeep) : List Nat :=
  (j.entries.zip j.replaced).filterMap fun q => match n.kids[q.1]? with
    | some c => if c.ref = q.2 ∧ c.retired = 0 then some q.1 else none
    | none => none

/-- A job that has begun can still end: something of what it replaces lives, all of it in leaves that it empties, there is
room for what has no new slot yet, and its new children find entries. -/
def jobHolds (x : IndexUnit) (now : Nat) (n : TreeNode) (j : Upkeep) : Bool :=
  let below := (replacedLive n j).flatMap fun i => ((n.kids[i]?).map fun c => leavesBelow x c.ref).getD []
  let live (id : Nat) : Bool := (findLeaf x id).any fun l => l.slots.any Slot.live
  let todo := jobTodo x now j
  below.any live
    && below.all (fun id => !live id || j.moves.any fun m => m.1 == id)
    && j.leaves.all (fun id => (findLeaf x id).any fun l => decide (l.slots.length + (todo.filter fun q => q.1 == id).length ≤ 1024))
    && decide (j.links.length ≤ (linkEntries x n j).length)

/-- One move's new slot (R242), Empty until the job's boundary, with its new record, which carries the old one's
AccessionTide (R105). The slot takes its place above the old ones of its leaf. -/
def stageSlot (x : IndexUnit) (p : Params) (j : Upkeep) (target l : Nat) (s : Slot) : IndexUnit × Upkeep :=
  match x.records.find? fun r => r.local_ == l, findLeaf x target with
  | some r, some tl =>
    let n := localIndex target tl.slots.length
    ({ appendSlot x p target (slotFor p s.id 0 r.vec) r.metadata true with records := x.records ++ [{ r with local_ := n }] },
     { j with staged := j.staged ++ [(l, n)] })
  | _, _ => (x, j)

/-- The staged slots whose old slot still holds the item: the old local index, the new one, the old slot. -/
def jobPairs (x : IndexUnit) (now : Nat) (j : Upkeep) : List (Nat × Nat × Slot) :=
  j.staged.filterMap fun q =>
    match slotAt x q.1, slotAt x q.2 with
    | some s, some t =>
      if s.id = t.id ∧ (s.state = slotSettled ∨ s.state = slotPending ∧ s.tide now ≤ now) then some (q.1, q.2, s) else none
    | _, _ => none

/-- One move commits at the coming boundary: bounds above the new slot cover it (R89), it becomes Pending, the old slot a
Tombstone or, where it has not settled, a Ledgered tombstone. -/
def commitMove (x : IndexUnit) (p : Params) (now : Nat) (q : Nat × Nat × Slot) : IndexUnit :=
  match x.records.find? fun r => r.local_ == q.2.1, slotAt x q.2.1 with
  | some r, some s =>
    let path := pathOf x (leafOf q.2.1)
    let x := path.foldl (fun x e => mapChild x e.1 e.2 (Child.widen p r.vec s.norm)) x
    let x := setWord x q.2.1 (stampWord slotPending (now + 1))
    match removeSlot x now q.1 q.2.2 with
    | some x => { x with moved := x.moved ++ [⟨q.1, q.2.1, q.2.2.word⟩] }
    | none => x
  | _, _ => x

/-- R96, R242: at the coming boundary `now + 1` the new entries are filled, every move commits and the replaced entries
retire; the new entries have the radius that their items give them. -/
def swapJob (x : IndexUnit) (p : Params) (now : Nat) (n : TreeNode) (j : Upkeep) : IndexUnit :=
  let x := (j.links.zip (linkEntries x n j)).foldl (fun x q => setChild x n.addr q.2 q.1) x
  let x := { x with
    nodes := x.nodes.map fun m => if j.nodes.contains m.addr then { m with created := now + 1 } else m
    leaves := x.leaves.map fun l => if j.leaves.contains l.id then { l with created := now + 1 } else l }
  let x := (jobPairs x now j).foldl (fun x q => commitMove x p now q) x
  let x := (replacedLive n j).foldl (fun x i => mapChild x n.addr i fun c => { c with retired := now + 1 }) x
  let isNew (r : ChildRef) : Bool := match r with
    | .leaf id => j.leaves.contains id
    | .node a => j.nodes.contains a
    | .empty => false
  let settled (c : Child) : Child := if isNew c.ref then { c with radius0 := c.radius } else c
  { x with nodes := x.nodes.map fun m => if m.addr = n.addr ∨ j.nodes.contains m.addr then { m with kids := m.kids.map settled } else m }

/-- The ledger has room for the moves of slots that have not settled (R86). -/
def ledgerRoom (x : IndexUnit) (now : Nat) (j : Upkeep) : Bool :=
  decide (x.ledger.length + ((jobPairs x now j).filter fun q => q.2.2.state == slotPending).length ≤ 262144)

/-- R244: a user change to an item that moves at the coming boundary undoes the move: the new slot becomes Empty, the old
one is as it was. -/
def undoMove (x : IndexUnit) (m : MovedItem) : IndexUnit :=
  let y := setWord (setWord x m.new 0) m.old m.word
  { y with ledger := y.ledger.filter (fun e => e.1 != m.old), moved := y.moved.filter (fun q => q != m) }

/-- The move that a change to an item undoes. -/
def moveOf (x : IndexUnit) (c sh item : Nat) : Option MovedItem :=
  x.moved.find? fun m => (shoalSlots x c sh).any fun q => q.1 == m.new && q.2.id == item && q.2.state == slotPending

end Index

end Sys2Proof.Machine
end

