-- ==== Sys2Proof/Machine/Filter.lean ====
section
/-! DEFINITION. Metadata filters: their terms, when a filter is malformed (R146), when it is true for an item (R145), and
when a leaf's summaries show it false for every slot (R147). -/

namespace Sys2Proof.Machine

open Sys2Proof Sys2Proof.Num

/-- A filter term. -/
structure Term where
  attr : Nat
  op : Nat
  group : Nat
  a : Nat
  b : Nat
  deriving DecidableEq, Repr

def filterTerms (f : Bytes) : List Term :=
  (List.range (field f 0 2)).map fun i =>
    let o := 8 + 24 * i
    ⟨field f o 1, field f (o + 1) 1, field f (o + 2) 1, field f (o + 8) 8, field f (o + 16) 8⟩

def filterGroups (f : Bytes) : Nat := field f 2 1

/-- An attribute's record in a schema (R106). -/
def attrRecord (schema : Bytes) (a : Nat) : Option Bytes := (records 8 schema)[a]?

def attrType (r : Bytes) : Nat := field r 4 1

/-- The op is one that the attribute's type allows. -/
def opAllowed (typ op : Nat) : Bool :=
  if typ = 8 then op == 0 || op == 1 || op == 10 || op == 11
  else if typ = 7 then op == 0 || op == 1 || (decide (7 ≤ op) && decide (op ≤ 11))
  else decide (op ≤ 6) || op == 10 || op == 11

/-- The term compares with its operand A. -/
def readsOperand (op : Nat) : Bool := decide (op < 10)

def termBad (f schema : Bytes) (t : Term) : Bool :=
  match attrRecord schema t.attr with
  | none => true
  | some r =>
    let typ := attrType r
    !opAllowed typ t.op || decide (filterGroups f ≤ t.group)
      || (typ == 8 && readsOperand t.op && decide (f.length < t.a % 65536 + t.a / 65536 % 65536))
      || (typ == 6 && readsOperand t.op && (decide (2 ^ 32 ≤ t.a) || (t.op == 6 && decide (2 ^ 32 ≤ t.b))))

/-- R146: the filter is malformed. Bits 63:32 of an F32 operand that a term does not use are not judged, and neither is the
length of a string against its attribute's (DESIGN CHOICE, notes/assumptions/79.md). -/
def filterBad (f schema : Bytes) : Bool :=
  let n := field f 0 2
  let g := filterGroups f
  decide (n = 0) || decide (64 < n) || decide (g = 0) || decide (16 < g) || decide (f.length < 8 + 24 * n)
    || (filterTerms f).any (termBad f schema) || (List.range g).any fun k => !(filterTerms f).any fun t => t.group == k

/-- The order of an attribute's values and operands, as natural numbers (R146). -/
def ordered (typ v : Nat) : Nat :=
  if typ = 6 then keyOf v else if typ = 4 ∨ typ = 5 then (v + 2 ^ 63) % 2 ^ 64 else v

/-- The term's comparison of an attribute value (its number, or its bytes for type 8) that is present. A string of another
length than the attribute's differs from it: EQ is false and NE true (DESIGN CHOICE, notes/assumptions/79.md). -/
def termTrue (f : Bytes) (typ : Nat) (t : Term) (v : Nat) (raw : Bytes) : Bool :=
  if t.op = 10 then true
  else if t.op = 11 then false
  else if typ = 8 then
    let s := (f.drop (t.a % 65536)).take (t.a / 65536 % 65536)
    (decide (t.a / 65536 % 65536 = raw.length) && s == raw) == (t.op == 0)
  else
    let x := ordered typ v
    let a := ordered typ t.a
    let b := ordered typ t.b
    match t.op with
    | 0 => x == a
    | 1 => x != a
    | 2 => decide (x < a)
    | 3 => decide (x ≤ a)
    | 4 => decide (a < x)
    | 5 => decide (a ≤ x)
    | 6 => decide (a ≤ x) && decide (x ≤ b)
    | 7 => v &&& t.a != 0
    | 8 => v &&& t.a == t.a
    | _ => v &&& t.a == 0

/-- A term for an item's metadata (R107, R145). -/
def termHolds (f schema metadata : Bytes) (t : Term) : Bool :=
  match attrRecord schema t.attr with
  | none => false
  | some r =>
    match Index.attrValue r metadata with
    | none => t.op == 11
    | some v => termTrue f (attrType r) t v ((metadata.drop (field r 0 2)).take (field r 2 2))

/-- R145: the filter is true for an item. An empty filter excludes nothing. -/
def filterTrue (f schema metadata : Bytes) : Bool :=
  f.isEmpty || (List.range (filterGroups f)).all fun g =>
    (filterTerms f).any fun t => t.group == g && termHolds f schema metadata t

/-- The summary shows the term false for every slot (the last column of the operations table, R147). -/
def termSkips (schema : Bytes) (sums : List Summary) (t : Term) : Bool :=
  match attrRecord schema t.attr, sums.find? fun s => s.attr == t.attr && s.mode != 0 with
  | some r, some s =>
    let typ := attrType r
    if s.mode = 1 then
      let lo := ordered typ s.low
      let hi := ordered typ s.high
      let a := ordered typ t.a
      let b := ordered typ t.b
      if hi < lo then t.op != 11
      else match t.op with
        | 0 => decide (a < lo) || decide (hi < a)
        | 2 => decide (a ≤ lo)
        | 3 => decide (a < lo)
        | 4 => decide (hi ≤ a)
        | 5 => decide (hi < a)
        | 6 => decide (hi < a) || decide (b < lo)
        | _ => false
    else match t.op with
      | 0 => s.low &&& t.a != t.a
      | 7 => s.low &&& t.a == 0
      | 8 => s.low &&& t.a != t.a
      | _ => false
  | _, _ => false

/-- R147: the node skips a leaf without scanning it. -/
def leafSkipped (f schema : Bytes) (sums : List Summary) : Bool :=
  !f.isEmpty && (List.range (filterGroups f)).any fun g =>
    ((filterTerms f).filter fun t => t.group == g).all (termSkips schema sums)

end Sys2Proof.Machine
end

