-- ==== Sys2Proof/Machine/Events.lean ====
section
/-! DEFINITION. Event records and their two logs (R582, R583). -/

namespace Sys2Proof.Machine

open Sys2Proof

/-! Outcomes of an event record. -/
namespace Oc
abbrev transient : Nat := 1
abbrev spare : Nat := 2
abbrev noSpare : Nat := 3
abbrev emulated : Nat := 4
abbrev info : Nat := 5
end Oc

/-- A unit ID: kind in bits 31:24, instance in bits 23:0. -/
def unitId (kind instance_ : Nat) : Nat := kind * 2 ^ 24 + instance_ % 2 ^ 24

abbrev nodeUnit : Nat := 0x0C000000

/-- R582, R583: write the record of an event that was detected at a Tide and phase. -/
def State.logEventAt (s : State) (tide phase code outcome status spareKind unit detail : Nat) : State :=
  let n := s.num Ent.eventSeqNext
  let r : EventRec := ⟨n, tide, phase, code, outcome, status, spareKind, unit, detail, false⟩
  let ring := s.log.ring ++ [r]
  let out := ring.take (ring.length - 4096)
  let s := s.setNum Ent.eventSeqNext (n + 1)
  let s := if out.any fun r => !r.read then s.bump Ent.eventsOverwritten else s
  let lasting := if 2 ≤ outcome ∧ outcome ≤ 4 then s.log.lasting ++ [r] else s.log.lasting
  { s with log := { s.log with ring := ring.drop (ring.length - 4096), lasting := lasting.drop (lasting.length - 256) } }

/-- The record of an event that is detected now. -/
def State.logEvent (s : State) (code outcome status spareKind unit detail : Nat) : State :=
  s.logEventAt s.now s.tide.phase code outcome status spareKind unit detail

/-- The 32 bytes of an event record. -/
def EventRec.bytes (r : EventRec) : Bytes :=
  leBytes 8 r.seq ++ leBytes 6 r.tide ++ leBytes 2 r.phase ++ leBytes 1 r.code ++ leBytes 1 r.outcome ++ leBytes 1 r.status
    ++ leBytes 1 r.spareKind ++ leBytes 4 r.unit ++ leBytes 8 r.detail

end Sys2Proof.Machine
end

