-- ==== Sys2Proof/Machine/TreeBytes.lean ====
section
/-! DEFINITION. The bytes of leaves and internal nodes in stack and shelf memory (R90, R91, R94, R108): where a structure lies and
what each of its lines holds. The index unit keeps the structures as records; these are the same structures as memory holds them. -/

namespace Sys2Proof.Machine

open Sys2Proof Sys2Proof.Num

namespace Index

/-! Leaves (R90). -/

/-- Bytes of a leaf with P code bytes per slot. -/
def leafBytes (pq : Nat) : Nat := 28928 + 1024 * pq

/-- Slots of a leaf in some states. -/
def countSlots (l : Leaf) (f : Slot → Bool) : Nat := (l.slots.filter f).length

/-- The byte address of an internal node; 0 where it has none. -/
def nodeAt (x : IndexUnit) (a : Nat) : Nat := match findNode x a with
  | some n => n.at_
  | none => 0

/-- The 24 bytes of a summary record (R108). -/
def summaryBytes (r : Summary) : Bytes := leBytes 1 r.attr ++ leBytes 1 r.mode ++ List.replicate 6 0 ++ leBytes 8 r.low ++ leBytes 8 r.high

/-- The 256 bytes of a leaf header. -/
def leafHeader (x : IndexUnit) (l : Leaf) : Bytes :=
  let h := leBytes 4 l.id ++ leBytes 1 l.coll ++ [0] ++ leBytes 2 l.shoal ++ leBytes 2 l.slots.length ++ leBytes 2 l.watermark
    ++ leBytes 2 (countSlots l Slot.live) ++ leBytes 2 (countSlots l fun s => s.state == slotTombstone || s.state == slotLedgered)
    ++ leBytes 8 (nodeAt x l.parent) ++ leBytes 6 l.created ++ leBytes 2 l.maxNorm ++ List.replicate 32 0
  let r := (l.summaries.take 4).flatMap summaryBytes
  h ++ r ++ List.replicate (192 - r.length) 0

/-- R91: byte `j` of plane `p` of the sketch block: bit i is sketch bit p of slot 8j + i. -/
def sketchByte (l : Leaf) (p j : Nat) : Byte :=
  BitVec.ofNat 8 ((List.range 8).map fun i => match l.slots[8 * j + i]? with
    | some s => boolBit (s.sketch.testBit p) i
    | none => 0).sum

/-- A byte of a per-slot array of entries of `w` bytes. -/
def slotByte (l : Leaf) (w o : Nat) (f : Slot → Bytes) : Byte := match l.slots[o / w]? with
  | some s => (f s).getD (o % w) 0
  | none => 0

/-- The byte of a leaf at an offset (the table "Leaf layout"). -/
def leafByte (x : IndexUnit) (pq : Nat) (l : Leaf) (o : Nat) : Byte :=
  if o < 16384 then sketchByte l (o / 128) (o % 128)
  else if o < 16640 then (leafHeader x l).getD (o - 16384) 0
  else if o < 20736 then slotByte l 4 (o - 16640) fun s => leBytes 2 s.norm ++ leBytes 2 s.word
  else if o < 28928 then slotByte l 8 (o - 20736) fun s => leBytes 8 s.id
  else slotByte l (max 1 pq) (o - 28928) (·.code)

/-! Internal nodes (R94). -/

/-- Bytes of a centroid. -/
def centroidBytes (metric dim : Nat) : Nat := if metric = 3 then dim / 8 else 2 * dim

def nodeHeader (x : IndexUnit) (n : TreeNode) : Bytes :=
  leBytes 4 n.level ++ leBytes 1 n.coll ++ leBytes 1 (n.kids.filter fun k => k.ref != .empty).length ++ leBytes 2 n.shoal
    ++ leBytes 8 (nodeAt x n.parent) ++ leBytes 6 n.created ++ List.replicate 42 0

/-- The 64-bit ChildRef. -/
def refWord (x : IndexUnit) : ChildRef → Nat
  | .empty => 0
  | .node a => 2 ^ 62 + nodeAt x a
  | .leaf id => 2 ^ 63 + id

def childBytes (x : IndexUnit) (k : Child) : Bytes :=
  leBytes 8 (refWord x k.ref) ++ leBytes 4 k.radius ++ leBytes 2 k.maxNorm ++ [0, 0] ++ leBytes 6 k.retired ++ [0, 0] ++ leBytes 4 k.count
    ++ List.replicate 4 0

/-- The byte of an internal node at an offset. -/
def nodeByte (x : IndexUnit) (metric dim : Nat) (n : TreeNode) (o : Nat) : Byte :=
  let c := max 1 (centroidBytes metric dim)
  if o < 64 then (nodeHeader x n).getD o 0
  else if o < 2112 then match n.kids[(o - 64) / 32]? with
    | some k => (childBytes x k).getD ((o - 64) % 32) 0
    | none => 0
  else match n.kids[(o - 2112) / c]? with
    | some k => k.centroid.getD ((o - 2112) % c) 0
    | none => 0

end Index

/-! Lines. -/

/-- A structure of the index that lies in memory. -/
inductive TreePart where
  | leaf (l : Leaf)
  | node (n : TreeNode)
  deriving DecidableEq, Repr

/-- Bytes that a structure takes. -/
def State.treeSize (s : State) : TreePart → Nat
  | .leaf l => Index.leafBytes (s.cfg (Ent.collPqBytes l.coll))
  | .node n => Index.nodeBytes (s.cfg (Ent.collMetric n.coll)) (s.cfg (Ent.collDimension n.coll))

def TreePart.at_ : TreePart → Nat
  | .leaf l => l.at_
  | .node n => n.at_

/-- The structure that a byte address lies in, once it has been placed. -/
def State.treePart (s : State) (a : Nat) : Option TreePart :=
  let here (p : TreePart) : Bool := p.at_ != 0 && decide (p.at_ ≤ a) && decide (a < p.at_ + s.treeSize p)
  match s.idx.leaves.find? fun l => here (.leaf l) with
  | some l => some (.leaf l)
  | none => (s.idx.nodes.find? fun n => here (.node n)).map .node

def State.treeByte (s : State) (p : TreePart) (o : Nat) : Byte :=
  match p with
  | .leaf l => Index.leafByte s.idx (s.cfg (Ent.collPqBytes l.coll)) l o
  | .node n => Index.nodeByte s.idx (s.cfg (Ent.collMetric n.coll)) (s.cfg (Ent.collDimension n.coll)) n o

/-- The 64 bytes that the index keeps at a line; none where no structure lies. -/
def State.treeLine (s : State) (line : Nat) : Option Bytes :=
  (s.treePart (64 * line)).map fun p =>
    (List.range 64).map fun i => let o := 64 * line + i - p.at_; if o < s.treeSize p then s.treeByte p o else 0

end Sys2Proof.Machine
end

