-- ==== Sys2Proof/Machine/Curator.lean ====
section
/-! DEFINITION. The Curator: logical codewords (R474, R476), the map, buffers and programs (R478, R479), reads (R484 to
R486), relocations (R496 to R504), retirement (R505), capacity (R507 to R510), rebuild (R489 to R492). -/

namespace Sys2Proof.Machine

open Sys2Proof

/-! Logical codewords. -/

/-- Logical codeword `j` of a 64 KiB page `x` of a region: flash page 4x + j div 4 (R474). -/
def pageCodeword (region x j : Nat) : Nat := (region * 2 ^ 44 + 4 * x + j / 4) * 4 + j % 4

/-- The region of a logical codeword. -/
def regionOf (l : Nat) : Nat := l / 2 ^ 46

/-- Page number `x` of a Tiered page in its region (R474). -/
def flashPlace (id : PageId) (swap : Nat) : Nat × Nat :=
  match id with
  | .hdm p => (1, p)
  | _ => (3, swap)

def pageCodewords (id : PageId) (swap : Nat) : List Nat :=
  (List.range 16).map (pageCodeword (flashPlace id swap).1 (flashPlace id swap).2)

/-- R102: the number of codewords of a record. -/
def recordCodewords (vecBytes metaBytes : Nat) : Nat := (32 + vecBytes + metaBytes + 4095) / 4096

/-- R102: the logical codewords of the record of a slot. -/
def recordLogical (r l : Nat) : List Nat :=
  (List.range r).map fun j => leafOf l * 8192 + slotOf l * r + j

/-- The record of an item (the table "Item record"), without Check. -/
def ItemRec.head (r : ItemRec) : Bytes :=
  leBytes 8 r.id ++ leBytes 4 r.collId ++ leBytes 4 r.local_ ++ leBytes 6 r.accTide ++ leBytes 2 r.metadata.length
    ++ leBytes 2 r.dim ++ leBytes 1 r.format ++ leBytes 1 0

def ItemRec.bytes (r : ItemRec) : Bytes :=
  r.head ++ leBytes 4 (crc32c (r.head ++ r.vec ++ r.metadata)) ++ r.vec ++ r.metadata

/-- Read a record back; none where its Check does not match (R104). -/
def parseRecord (vecBytes : Nat) (b : Bytes) : Option ItemRec :=
  let r : ItemRec := ⟨field b 12 4, field b 0 8, field b 8 4, field b 16 6, field b 24 2, field b 26 1, (b.drop 32).take vecBytes,
    (b.drop (32 + vecBytes)).take (field b 22 2)⟩
  if field b 28 4 = crc32c (b.take 28 ++ r.vec ++ r.metadata) then some r else none

/-- A codeword's 4,096 data bytes. -/
def padTo (n : Nat) (b : Bytes) : Bytes := b.take n ++ List.replicate (n - b.length) 0

def codewordsOf (n : Nat) (b : Bytes) : List Bytes := (List.range n).map fun j => padTo 4096 (b.drop (4096 * j))

/-! Keys (R475). -/

/-- The XTS key of an owner slot: the storage key of slot 0 (R601), else what CREATE_KEY drew; a slot without a key has no lines. -/
def State.xtsKey (s : State) (k : Nat) : BitVec 512 :=
  if k = 0 then Config.storageKey
  else match s.key.gens.lookup k with
    | some n => Config.drbgDraw n
    | none => 0

/-- The key of a logical codeword's flash page: the storage key in region 5, else the owner slot's. -/
def flashKey (s : State) (logical owner : Nat) : BitVec 512 := if regionOf logical = 5 then Config.storageKey else s.xtsKey owner

/-! Access to the unit's lists. -/

namespace Flash

def chan (u : FlashUnit) (c : Nat) : Option Chan := u.chans.find? fun x => x.num == c

def mapChan (u : FlashUnit) (c : Nat) (f : Chan → Chan) : FlashUnit :=
  { u with chans := u.chans.map fun x => if x.num == c then f x else x }

def block (u : FlashUnit) (c b : Nat) : Option Block := u.blocks.find? fun x => x.chan == c && x.num == b

def mapBlock (u : FlashUnit) (c b : Nat) (f : Block → Block) : FlashUnit :=
  { u with blocks := u.blocks.map fun x => if x.chan == c && x.num == b then f x else x }

/-- The die of a block: its target × LUNs + LUN (DESIGN CHOICE, notes/assumptions/19.md). -/
def dieOf (c : Chan) (b : Nat) : Nat := b % max 1 (c.targets * c.luns)

/-- The unit instance of a flash die (R582): channel × 256 + target × 16 + LUN. -/
def dieUnit (c : Chan) (die : Nat) : Nat := unitId 0x09 (c.num * 256 + c.ids.getD (die / max 1 c.luns) 0 * 16 + die % max 1 c.luns)

/-- The die of an accepted target's LUN. -/
def dieAt (c : Chan) (target lun : Nat) : Option Nat := (c.ids.findIdx? (· == target)).map fun i => i * c.luns + lun

/-- R486: the target of a die advertises suspend. -/
def suspends (c : Chan) (die : Nat) : Bool := c.suspends.getD (die / max 1 c.luns) false

/-- The buffer of a stream. -/
def buffer (c : Chan) : Stream → List WriteItem
  | .data => c.writes
  | .copy => c.copies
  | .log => c.logs

def setBuffer (c : Chan) (st : Stream) (l : List WriteItem) : Chan :=
  match st with
  | .data => { c with writes := l }
  | .copy => { c with copies := l }
  | .log => { c with logs := l }

def codewordAt (u : FlashUnit) (p : Phys) : Option Cw := (block u p.chan p.block).bind fun b => b.cws[p.pos]?

/-- The logical codeword that the map gives a physical one. -/
def logicalAt (u : FlashUnit) (p : Phys) : Option Nat := (u.map.find? fun e => e.2 == p).map (·.1)

/-- The positions of a block that hold valid codewords. -/
def validAt (u : FlashUnit) (b : Block) : List Phys :=
  ((List.range b.cws.length).map fun i => (⟨b.chan, b.num, i⟩ : Phys)).filter fun p =>
    match codewordAt u p with
    | some w => w.kind != 2 && (logicalAt u p).isSome
    | none => false

/-- Free blocks of a channel, of its journal reserve or of its data blocks (R507). -/
def free (u : FlashUnit) (c : Chan) (reserve : Bool) : Nat :=
  (if reserve then c.reserve else c.inService)
    - (u.blocks.filter fun b => b.chan == c.num && b.reserve == reserve && b.stage != .free && b.stage != .retired).length

/-- Free data blocks of a channel. -/
def freeBlocks (u : FlashUnit) (c : Chan) : Nat := free u c false

/-- A program or an erase in flight on a die. -/
def dieBusy (u : FlashUnit) (c : Chan) (die : Nat) : Bool :=
  (u.programs.any fun p => p.chan == c.num && dieOf c p.block == die)
    || (u.erases.any fun e => e.chan == c.num && dieOf c e.block == die)

/-! The map. -/

/-- Drop the map entry of a logical codeword; the block it lay in notes the epoch. -/
def unmap1 (u : FlashUnit) (l : Nat) : FlashUnit :=
  match u.map.lookup l with
  | none => u
  | some p => mapBlock { u with map := u.map.filter fun e => e.1 != l } p.chan p.block fun b => { b with movedEpoch := u.epoch }

def setMap (u : FlashUnit) (l : Nat) (p : Phys) : FlashUnit :=
  let u := unmap1 u l
  { u with map := u.map ++ [(l, p)], lost := u.lost.filter (· != l) }

/-- R503: a map entry switches back to its source codeword; the failed block is not held for it. -/
def mapBack (u : FlashUnit) (l : Nat) (p : Phys) : FlashUnit := { u with map := (u.map.filter fun e => e.1 != l) ++ [(l, p)] }

/-- The map holds a codeword that was programmed with a higher write sequence. -/
def mappedAfter (u : FlashUnit) (l q : Nat) : Bool := ((u.map.lookup l).bind (codewordAt u)).any fun w => decide (q < w.seq)

/-- Marks a write in flight that was discarded: it is programmed as a padding codeword (R477). -/
def noLogical : Nat := 2 ^ 52

/-- Unmap a logical codeword and discard its buffered writes (R476). -/
def unmap (u : FlashUnit) (l : Nat) : FlashUnit :=
  let u := unmap1 u l
  let drop (x : Chan) : Chan := { x with
    writes := x.writes.filter fun (w : WriteItem) => w.logical != l, logs := x.logs.filter fun (w : WriteItem) => w.logical != l }
  let clear (q : Nat × WriteItem) : Nat × WriteItem := if q.2.logical = l ∧ q.2.src = none then (q.1, { q.2 with logical := noLogical }) else q
  { u with
    chans := u.chans.map drop
    programs := u.programs.map fun (p : Program) => { p with items := p.items.map clear }
    lost := u.lost.filter (· != l) }

def unmapAll (u : FlashUnit) (ls : List Nat) : FlashUnit := ls.foldl unmap u

/-- Region 5: the codeword of a berth record (R361), of a P entry's value (R547), of a flush (R488) (notes/assumptions/94.md). -/
def recordWord (n : Nat) : Nat := 5 * 2 ^ 46 + 2 ^ 40 + n
/-- Region 5: the codeword of an owner slot's graph keys (R604). -/
def keyWord (k : Nat) : Nat := 5 * 2 ^ 46 + 2 ^ 42 + k
/-- Region 5: the codeword of a retirement (R490). -/
def retireWord (n : Nat) : Nat := 5 * 2 ^ 46 + 2 ^ 43 + n
/-- Region 4: the codeword of a change-log entry; the item directory has the offsets below. -/
def logWord (n : Nat) : Nat := 4 * 2 ^ 46 + 2 ^ 45 + n
def isLogWord (l : Nat) : Bool := regionOf l == 4 && decide (2 ^ 45 ≤ l % 2 ^ 46)
/-- What the journal reserve holds (R509): the journal (flushes, berth records, retirements) and the change log. Kind 1 marks these
codewords (R477; DEDUCED, notes/assumptions/94.md). -/
def isJournal (l : Nat) : Bool := isLogWord l || (regionOf l == 5 && (decide (l % 2 ^ 46 < 2 ^ 41) || decide (2 ^ 43 ≤ l % 2 ^ 46)))
def flushWord (n : Nat) : Nat := 5 * 2 ^ 46 + n
def entryWords (k bytes : Nat) : List Nat := (List.range (bytes / 4096 + 1)).map fun j => 5 * 2 ^ 46 + 2 ^ 41 + 64 * k + j

/-- The writes that no program has completed, with their channels: their data is still in the buffer in Fixed stack pages. -/
def workPlaces (u : FlashUnit) : List (Nat × WriteItem) :=
  (u.chans.flatMap fun c => (c.writes ++ c.logs).map fun w => (c.num, w))
    ++ u.programs.flatMap fun p => (p.items.filter fun q => q.2.src == none).map fun q => (p.chan, q.2)

def inWorkItems (u : FlashUnit) : List WriteItem := (workPlaces u).map (·.2)

/-- The newest of the writes in work to one of these logical codewords, with its channel. -/
def newestWork (u : FlashUnit) (ls : List Nat) : Option (Nat × WriteItem) :=
  ((workPlaces u).filter fun w => ls.contains w.2.logical).foldl (fun acc w => match acc with
    | none => some w
    | some a => if a.2.num ≤ w.2.num then some w else some a) none

/-- A write of this codeword is still buffered or being programmed. -/
def inWork (u : FlashUnit) (l : Nat) : Bool := (inWorkItems u).any fun w => w.logical == l

/-- R479: durable. -/
def durable (u : FlashUnit) (l : Nat) : Bool := (u.map.lookup l).isSome && !inWork u l

/-- A flash log write is not programmed in full yet. -/
def writePending (u : FlashUnit) (n : Nat) : Bool := (inWorkItems u).any fun w => w.num == n

/-- R237, R479: every codeword of a flash log write is durable. -/
def writeDurable (u : FlashUnit) (n : Nat) : Bool := decide (n < u.nextWrite) && !writePending u n

/-! Capacity. -/

/-- Codewords of the user capacity (R507). -/
def capacity (u : FlashUnit) : Nat := (u.chans.map fun c => c.inService * c.perBlock * 88 / 100).sum

/-- Logical codewords with data, written or in work. -/
def writtenNow (u : FlashUnit) : List Nat := ((u.map.map (·.1)) ++ (inWorkItems u).map (·.logical)).eraseDups

/-- The regions whose codewords count as mapped one by one (R508): region 1 has its reservation, change-log entries do not count (R509), and
region 5 is the Curator's own. -/
def countsMapped (l : Nat) : Bool := regionOf l == 0 || regionOf l == 2 || regionOf l == 3 || (regionOf l == 4 && !isLogWord l)

def mappedNow (u : FlashUnit) : List Nat := (writtenNow u).filter countsMapped

/-- R508: mapped codewords with the HDM reservation. -/
def mapped (s : State) : Nat := (mappedNow s.flash).length + s.cfg Ent.hdmBytes / 4096

/-- Those of some logical codewords that are not mapped yet. -/
def fresh (u : FlashUnit) (ls : List Nat) : List Nat := let m := mappedNow u; ls.eraseDups.filter fun l => countsMapped l && !m.contains l

/-- R508: writing these logical codewords would raise the mapped codewords above the user capacity. -/
def wouldFill (s : State) (ls : List Nat) : Bool := decide (capacity s.flash < mapped s + (fresh s.flash ls).length)

/-- Bytes of regions 2 and 3 (R510). -/
def tieredBytes (u : FlashUnit) : Nat := ((mappedNow u).filter fun l => regionOf l == 2 || regionOf l == 3).length * 4096

/-- R510: writing these codewords of regions 2 and 3 would exceed TieredFlashMax. -/
def tieredFull (s : State) (ls : List Nat) : Bool :=
  s.cfg Ent.tieredFlashMax != 0 && decide (s.cfg Ent.tieredFlashMax < tieredBytes s.flash + 4096 * (fresh s.flash ls).length)

/-- Codewords of the journal reserve, and those that it holds (R509). -/
def reserve (u : FlashUnit) : Nat := (u.chans.map fun c => c.reserve * c.perBlock).sum

def logUsed (u : FlashUnit) : Nat := ((writtenNow u).filter isJournal).length

/-! Blocks. -/

/-- Take a free block, of the journal reserve or a data block: the one with the lowest erase count (R498), a block never used counting 0;
with `worn`, the one with the highest. Equal counts go to the lower block number. -/
def takeBlock (u : FlashUnit) (c : Chan) (worn reserve : Bool) : Option (Nat × FlashUnit) :=
  let listed := u.blocks.filter fun b => b.chan == c.num && b.stage == .free && b.reserve == reserve
  let freshFree := decide (listed.length < free u c reserve)
  let best := listed.foldl (fun (acc : Option Block) b => match acc with
    | none => some b
    | some a =>
      if (if worn then a.erases < b.erases else b.erases < a.erases) ∨ (a.erases = b.erases ∧ b.num < a.num) then some b else some a) none
  let opened (b : Block) : Block := { b with stage := .open_, openedEpoch := u.epoch }
  match best, freshFree with
  | some b, false => some (b.num, mapBlock u c.num b.num opened)
  | some b, true =>
    if worn || b.erases == 0 then some (b.num, mapBlock u c.num b.num opened)
    else some (next, unused u)
  | none, true => some (next, unused u)
  | none, false => none
where
  /-- The next block never used that lies on no dead die. -/
  next : Nat := match ((List.range (c.targets * c.luns)).map (c.fresh + ·)).find? fun n => !u.deadDies.contains (c.num, dieOf c n) with
    | some n => n
    | none => c.fresh
  unused (u : FlashUnit) : FlashUnit :=
    let u := mapChan u c.num fun x => { x with fresh := next + 1 }
    let b : Block := { chan := c.num, num := next, stage := .open_, erases := 0, reads := 0, fails := 0, reserve := reserve, openedEpoch := u.epoch
                       flushedCws := 0, marked := false, oldest := 0, movedEpoch := 0, cws := [] }
    { u with blocks := u.blocks ++ [b] }

/-- The block that the next word line of a stream goes to: the open block with room, or a new one. What the journal reserve holds stays in
its blocks (R509). -/
def targetBlock (u : FlashUnit) (c : Chan) (st : Stream) : Option (Nat × FlashUnit) :=
  let job := u.relocs.find? fun r => r.chan == c.num
  let isTarget (b : Block) : Bool := match job with
    | some r => r.target == some b.num
    | none => false
  let inReserve := match st with
    | .data => false
    | .log => true
    | .copy => (job.bind fun r => block u c.num r.source).any (·.reserve)
  let mine (b : Block) : Bool := b.chan == c.num && b.stage == .open_ && isTarget b == (st == .copy) && b.reserve == inReserve
  match u.blocks.find? fun b => mine b && decide (b.cws.length + c.wordLine ≤ c.perBlock) with
  | some b => some (b.num, u)
  | none =>
    let u := { u with blocks := u.blocks.map fun b => if mine b then { b with stage := .closed } else b }
    match takeBlock u c false inReserve with
    | none => none
    | some (n, u) =>
      if st = .copy then some (n, { u with relocs := u.relocs.map fun r => if r.chan == c.num then { r with target := some n } else r })
      else some (n, u)

/-- A copy of a relocation is still wanted: nothing has been written to its logical codeword since, and the codeword is mapped where it was
read. Others are dropped before their program, so that no rebuild finds them (R500; DEDUCED, notes/assumptions/94.md). -/
def liveCopy (u : FlashUnit) (w : WriteItem) : Bool := u.map.lookup w.logical == w.src && !inWork u w.logical

/-- R479: start the program of a channel's next word line, padded where the buffer does not fill it; nothing while the
buffer is empty, no block is free or the die is busy. -/
def startProgram (u : FlashUnit) (n : Nat) (st : Stream) : FlashUnit :=
  let u := if st = .copy then mapChan u n fun x => { x with copies := x.copies.filter (liveCopy u) } else u
  match chan u n with
  | none => u
  | some c =>
    let items := (buffer c st).take c.wordLine
    if items.isEmpty then u
    else match targetBlock u c st with
      | none => u
      | some (b, u) =>
        if dieBusy u c (dieOf c b) then u
        else
          let u := mapChan u n fun x => setBuffer x st ((buffer x st).drop c.wordLine)
          { u with
            programs := u.programs ++ [⟨n, b, st, (List.range items.length).map (u.seq + ·) |>.zip items, 0⟩]
            seq := u.seq + c.wordLine }

/-- Start the program of a full word line. -/
def startFull (u : FlashUnit) (n : Nat) (st : Stream) : FlashUnit :=
  match chan u n with
  | some c => if c.wordLine ≤ (buffer c st).length then startProgram u n st else u
  | none => u

/-- The channel of a write: the one with the most free blocks, the lowest among equals (DESIGN CHOICE,
notes/assumptions/20.md). -/
def chooseChan (u : FlashUnit) (reserve : Bool) : Option Nat :=
  (u.chans.foldl (fun (acc : Option (Nat × Nat)) c =>
    let f := free u c reserve
    match acc with
    | none => some (c.num, f)
    | some (n, g) => if g < f then some (c.num, f) else some (n, g)) none).map (·.1)

/-- Write logical codewords as one flash log write, all on one channel, at sub-tick `at_`. A codeword that is still in work is written
again on its channel, behind the earlier write. -/
def write (u : FlashUnit) (at_ owner : Nat) (ws : List (Nat × Bytes)) : FlashUnit :=
  let ls := ws.map (·.1)
  let log := ls.any isJournal
  let st : Stream := if log then .log else .data
  match (match newestWork u ls with
    | some w => some w.1
    | none => chooseChan u log) with
  | none => u
  | some n =>
    let drop (x : Chan) : Chan := if x.num == n then x else { x with writes := x.writes.filter fun (w : WriteItem) => !ls.contains w.logical }
    let u := { u with chans := u.chans.map drop, nextWrite := u.nextWrite + 1 }
    let u := mapChan u n fun x => setBuffer x st (buffer x st ++ ws.map fun w => ⟨w.1, owner, w.2, at_, none, u.nextWrite - 1⟩)
    startFull u n st

/-- The node's storage page that a Tiered page has in flash: its 16 codewords' data. -/
def pageWrites (id : PageId) (swap : Nat) (data : Bytes) : List (Nat × Bytes) :=
  (pageCodewords id swap).zip (codewordsOf 16 data)

/-- The newest write of this codeword that no program has completed. -/
def buffered (u : FlashUnit) (l : Nat) : Option WriteItem := (newestWork u [l]).map (·.2)

/-- Read one logical codeword: at once where it is still buffered, lost or not mapped (R476, R506), else through its LUN's
queue. -/
def read (u : FlashUnit) (l owner cls : Nat) (use : ReadUse) : FlashUnit :=
  if (buffered u l).isSome then
    { u with done := u.done ++ [⟨use, l, St.ok, padTo 4096 (((buffered u l).map (·.data)).getD [])⟩] }
  else if u.lost.contains l then { u with done := u.done ++ [⟨use, l, St.uncorrectable, []⟩] }
  else match u.map.lookup l with
    | none => { u with done := u.done ++ [⟨use, l, St.ok, List.replicate 4096 0⟩] }
    | some p => { u with reads := u.reads ++ [⟨u.nextRead, p, l, owner, cls, use, false⟩], nextRead := u.nextRead + 1 }

def readAll (u : FlashUnit) (ls : List Nat) (owner cls : Nat) (use : ReadUse) : FlashUnit :=
  ls.foldl (fun u l => read u l owner cls use) u

/-- Raise the class of a use's waiting reads (R268). -/
def hasten (u : FlashUnit) (use : ReadUse) (cls : Nat) : FlashUnit :=
  let fix (r : FlashRead) : FlashRead := if r.use = use then { r with cls := min r.cls cls } else r
  { u with reads := u.reads.map fix }

/-- Reads for a use are still outstanding. -/
def reading (u : FlashUnit) (use : ReadUse) : Bool := u.reads.any fun r => r.use == use

/-- The ended reads of a use, in the order of their logical codewords. -/
def ended (u : FlashUnit) (use : ReadUse) : List FlashDone :=
  sortBy (fun (a b : FlashDone) => decide (a.logical < b.logical)) (u.done.filter fun d => d.use == use)

def forget (u : FlashUnit) (use : ReadUse) : FlashUnit :=
  { u with done := u.done.filter fun d => d.use != use, reads := u.reads.filter fun r => r.use != use }

/-! The journal (R488). -/

/-- A physical place as one number. -/
def placeCode (p : Phys) : Nat := (p.chan * 2 ^ 32 + p.block) * 2 ^ 32 + p.pos

/-- The map changes and unmaps since the latest complete flush. -/
def changes (u : FlashUnit) : List (Nat × Nat) :=
  ((u.map.filter fun e => u.flushed.lookup e.1 != some e.2).map fun e => (e.1, placeCode e.2))
    ++ (u.flushed.filter fun e => (u.map.lookup e.1).isNone).map fun e => (e.1, 2 ^ 80)

/-- A retirement as a flush writes it. -/
def retireEntry (r : Nat × Nat) : Nat × Nat := (2 ^ 81 + r.1, r.2)

/-- Begin a flush at a boundary (R488): what changes from now on belongs to the next epoch. Its codewords hold the changes and retirements,
256 in each, or the whole map where the journal has grown longer than that (notes/assumptions/94.md). -/
def beginFlush (u : FlashUnit) (now at_ : Nat) : FlashUnit :=
  let whole := decide (u.map.length / 256 < u.journal.length)
  let entries := (if whole then u.map.map fun e => (e.1, placeCode e.2) else changes u) ++ u.retirements.map retireEntry
  let n := if u.chans.isEmpty then 0 else entries.length / 256 + 1
  let words := (List.range n).map fun i => flushWord (u.nextJournal + i)
  let places := (u.blocks.filter fun b => b.stage != .free && b.stage != .retired).map fun b => (b.chan, b.num, b.cws.length)
  let v := { u with flush := some ⟨now, u.map, u.epoch, words, whole, places⟩, epoch := u.epoch + 1, nextJournal := u.nextJournal + n, retirements := [] }
  write v at_ 0 (words.zip (codewordsOf n (Config.encodeFlush entries)))

/-- A flush is complete once its codewords are durable. -/
def flushDurable (u : FlashUnit) (f : Flush) : Bool := f.words.all (durable u)

/-- Complete a flush; the codewords of flushes that it replaces are unmapped. A rebuild applies the tags of what was programmed since it
began (R489). -/
def endFlush (u : FlashUnit) (f : Flush) : FlashUnit :=
  let u' := if f.whole then unmapAll u u.journal else u
  let seen (b : Block) : Block :=
    match f.places.find? fun (p : Nat × Nat × Nat) => p.1 == b.chan && p.2.1 == b.num && decide (b.openedEpoch ≤ f.epoch) && b.stage != .free with
    | some p => { b with flushedCws := p.2.2 }
    | none => b
  { u' with
    flush := none, flushed := f.map, lastFlush := f.boundary, durable := f.epoch + 1, blocks := u'.blocks.map seen
    journal := if f.whole then f.words else u.journal ++ f.words }

/-- The map but for the Curator's own codewords. -/
def ownMap (m : List (Nat × Phys)) : List (Nat × Phys) := m.filter fun e => regionOf e.1 != 5

/-! Relocation (R496 to R504). -/

/-- Begin to relocate a block's valid codewords; on a channel with a relocation under way it waits for that one. -/
def relocate (u : FlashUnit) (c b : Nat) (urgent : Bool) : FlashUnit :=
  if u.relocs.any fun r => r.chan == c then
    if (u.relocs.any fun r => r.chan == c && r.source == b) || (u.queue.any fun q => q.1 == c && q.2.1 == b) then u
    else { u with queue := u.queue ++ [(c, b, urgent)] }
  else match block u c b with
    | none => u
    | some k =>
      let u := { u with relocs := u.relocs ++ [⟨c, b, none, [], urgent⟩] }
      let k' : Block := { k with stage := if k.stage == .open_ then .closed else k.stage, marked := false }
      let u := mapBlock u c b fun _ => k'
      (validAt u k').foldl (fun u p =>
        match codewordAt u p, logicalAt u p with
        | some w, some l => { u with reads := u.reads ++ [⟨u.nextRead, p, l, w.owner, 4, .reloc, false⟩], nextRead := u.nextRead + 1 }
        | _, _ => u) u

/-- The closed blocks of a channel that hold some valid and some invalid codewords or were marked. -/
def victims (u : FlashUnit) (c : Nat) : List Block :=
  u.blocks.filter fun b => b.chan == c && b.stage == .closed && 0 < (validAt u b).length && (validAt u b).length < b.cws.length

/-- R496: the block with the fewest valid codewords, the lower erase count and then the lower number among equals. -/
def victim (u : FlashUnit) (c : Nat) : Option Nat :=
  ((victims u c).foldl (fun (acc : Option Block) b => match acc with
    | none => some b
    | some a =>
      let x := (validAt u a).length
      let y := (validAt u b).length
      if y < x ∨ (y = x ∧ (b.erases < a.erases ∨ (b.erases = a.erases ∧ b.num < a.num))) then some b else some a) none).map (·.num)

/-- R498: the in-service blocks' least and greatest erase count; a block never used counts 0. -/
def spread (u : FlashUnit) (c : Chan) : Nat × Nat :=
  let l := (u.blocks.filter fun b => b.chan == c.num && b.stage != .retired).map (·.erases)
  let hi := l.foldl max 0
  let lo := if l.length < c.inService then 0 else l.foldl min hi
  (lo, hi)

/-- A block in service with codewords to relocate, open or closed, that no relocation fills. -/
def holdsData (u : FlashUnit) (b : Block) : Bool :=
  (b.stage == .closed || b.stage == .open_) && decide (0 < (validAt u b).length) && !(u.relocs.any fun r => r.chan == b.chan && r.target == some b.num)

/-- R498: the in-service block with data and the lowest erase count. -/
def coldest (u : FlashUnit) (c : Nat) : Option Block :=
  (u.blocks.filter fun b => b.chan == c && holdsData u b).foldl
    (fun (acc : Option Block) b => match acc with
      | none => some b
      | some a => if b.erases < a.erases ∨ (b.erases = a.erases ∧ b.num < a.num) then some b else some a) none

/-- R499: the first block of a channel that a window relocates. -/
def worn (s : State) (c : Nat) : Option Nat :=
  let hours := s.cfg Ent.refreshAgeHours
  (s.flash.blocks.find? fun b => b.chan == c && holdsData s.flash b
    && (b.marked || s.cfg Ent.readDisturbLimit ≤ b.reads
      || hours * 3600 * 1000000000 < (s.now - b.oldest) * s.tide.periodNs)).map (·.num)

/-- R498: the move that lessens a spread above WearSpreadLimit. -/
def levelWear (s : State) (c : Chan) : State :=
  let (lo, hi) := spread s.flash c
  if hi - lo ≤ s.cfg Ent.wearSpreadLimit then s
  else match coldest s.flash c.num with
    | none => s
    | some b => match takeBlock s.flash c true b.reserve with
      | none => s
      | some (t, u) =>
        let u := relocate u c.num b.num false
        { s with flash := { u with relocs := u.relocs.map fun r => if r.chan == c.num then { r with target := some t } else r } }

/-- R496: a block that garbage collection takes; a journal reserve without a spare block is collected too (DESIGN CHOICE,
notes/assumptions/94.md). -/
def collects (u : FlashUnit) (c : Chan) (goal : Nat) : Option Nat :=
  if free u c false < goal || free u c true < 2 then victim u c.num else none

/-- What a channel with no relocation under way does next: what waited for it, then inside a window R499, R496 and R498; outside, R497. -/
def nextJob (s : State) (n : Nat) : State :=
  let u := s.flash
  match chan u n with
  | none => s
  | some c =>
    if u.relocs.any fun r => r.chan == n then s
    else match u.queue.find? fun q => q.1 == n with
    | some q => { s with flash := relocate { u with queue := u.queue.erase q } n q.2.1 q.2.2 }
    | none =>
      let go (b : Nat) (urgent : Bool) : State := { s with flash := relocate s.flash n b urgent }
      if s.now < u.windowEnd then
        match worn s n, collects u c (s.cfg Ent.gcHighBlocks) with
        | some b, _ => go b false
        | none, some b => go b false
        | none, none => levelWear s c
      else if u.urgent.contains n then
        if freeBlocks u c < 2 * s.cfg Ent.gcUrgentBlocks then
          match victim u n with
          | some b => go b true
          | none => s
        else { s with flash := { u with urgent := u.urgent.filter (· != n) } }
      else s

/-! Retirement (R502, R505). -/

/-- R490: a retirement is written to the journal at once. -/
def journalRetirement (u : FlashUnit) (at_ n b : Nat) : FlashUnit :=
  let w := retireWord u.nextRetire
  let u := write { u with retirements := u.retirements ++ [(n, b)], nextRetire := u.nextRetire + 1 } at_ 0 [(w, padTo 4096 (leBytes 1 n ++ leBytes 4 b))]
  u.chans.foldl (fun u c => if c.logs.any fun x => x.logical == w then startProgram u c.num .log else u) u

/-- R502, R505, R580: a block leaves service; its stage says so to every later rebuild (R490). A spare block replaces it; without one a
data block goes, also for a block of the journal reserve, and the bit of its kind in DegradedFlags is set (R581). -/
def retire (s : State) (n b : Nat) : State :=
  match chan s.flash n with
  | none => s
  | some c =>
    let kind := if (block s.flash n b).any (·.reserve) then 11 else 10
    let u := journalRetirement (mapBlock s.flash n b fun k => { k with stage := .retired }) s.subticks n b
    let s := { s with flash := u }.bump Ent.retiredBlocks
    let unit := dieUnit c (dieOf c b)
    if 0 < c.spares then
      let s := { s with flash := mapChan s.flash n fun x => { x with spares := x.spares - 1 } }
      let s := s.setNum (Ent.chanChannelSparesFree n) (c.spares - 1)
      let s := s.setNum Ent.spareBlocksFree (s.num Ent.spareBlocksFree - 1)
      s.logEvent 0x09 Oc.spare St.ok kind unit b
    else
      let s := { s with flash := mapChan s.flash n fun x => { x with inService := x.inService - 1 } }
      let s := s.setNum Ent.degradedFlags (s.num Ent.degradedFlags ||| 2 ^ kind)
      s.logEvent 0x09 Oc.noSpare St.spareExhausted 0 unit b

/-! Program ends. -/

/-- The codewords of a word line as they are programmed: its items and padding (R477, R479). -/
def programmed (s : State) (c : Chan) (p : Program) : List Cw :=
  let data : List Cw := p.items.map fun q =>
    if q.2.logical = noLogical then ⟨0, q.1, 0, 2, [], 0⟩
    else ⟨q.2.logical, q.1, q.2.owner, if isJournal q.2.logical then 1 else 0, q.2.data, flashKey s q.2.logical q.2.owner⟩
  let first := match p.items.head? with
    | some q => q.1
    | none => s.flash.seq
  data ++ (List.range (c.wordLine - data.length)).map fun i => ⟨0, first + data.length + i, 0, 2, [], 0⟩

/-- Complete a word line program (R479, R500): codewords become durable, map entries switch. -/
def programOk (s : State) (p : Program) : State :=
  let u := s.flash
  match chan u p.chan, block u p.chan p.block with
  | some c, some b =>
    let start := b.cws.length
    let u := mapBlock u p.chan p.block fun k =>
      { k with cws := k.cws ++ programmed s c p, oldest := if k.cws.isEmpty then s.now else k.oldest }
    let u := { u with programs := u.programs.filter fun x => !(x.chan == p.chan && x.block == p.block) }
    let u := ((List.range p.items.length).zip p.items).foldl (fun u q =>
      let l := q.2.2.logical
      let place : Phys := ⟨p.chan, p.block, start + q.1⟩
      match q.2.2.src with
      | none => if l = noLogical || mappedAfter u l q.2.1 then u else setMap u l place
      | some from_ =>
        if u.map.lookup l = some from_ then
          let u := setMap u l place
          { u with relocs := u.relocs.map fun r => if r.chan == p.chan then { r with moved := r.moved ++ [(l, from_)] } else r }
        else u) u
    let n := (p.items.filter fun q => q.2.src.isSome).length
    { s with flash := u }.bump Ent.relocatedCodewords n
  | _, _ => s

/-- R503: the map entries that point into the failed target switch back, and the whole copy is to go to another block. -/
def retarget (u : FlashUnit) (at_ : Nat) (p : Program) : FlashUnit :=
  let moved := (u.relocs.filter fun r => r.chan == p.chan).flatMap (·.moved)
  let back := moved.filter fun m => match u.map.lookup m.1 with
    | some q => q.chan == p.chan && q.block == p.block
    | none => false
  let u := back.foldl (fun u m => mapBack u m.1 m.2) u
  let redo : List WriteItem := back.filterMap fun m => (codewordAt u m.2).map fun w => ⟨m.1, w.owner, w.data, at_, some m.2, 0⟩
  let u := { u with relocs := u.relocs.map fun r => if r.chan == p.chan then { r with target := none, moved := [] } else r }
  mapChan u p.chan fun x => { x with copies := redo ++ p.items.map (·.2) ++ x.copies }

/-- A failed program (R503, R504). -/
def programFail (s : State) (p : Program) : State :=
  let s := s.bump Ent.programFailures
  let u := { s.flash with programs := s.flash.programs.filter fun x => !(x.chan == p.chan && x.block == p.block) }
  let again := (match block u p.chan p.block with
    | some b => b.fails
    | none => 0) + 1
  let u := mapBlock u p.chan p.block fun k => { k with stage := if k.stage == .retired then .retired else .closed, fails := again }
  let u := if p.stream = .copy then retarget u s.subticks p
    else
      let kept := (p.items.map (·.2)).filter fun w => w.logical != noLogical
      relocate (mapChan u p.chan fun x => setBuffer x p.stream (kept ++ buffer x p.stream)) p.chan p.block true
  let s := { s with flash := u }
  if 2 ≤ again && !((block s.flash p.chan p.block).any fun b => b.stage == .retired) then retire s p.chan p.block else s

/-- A relocation with nothing left to read, copy or program has ended; its target is closed. -/
def endJob (u : FlashUnit) (n : Nat) : FlashUnit :=
  match u.relocs.find? fun r => r.chan == n, chan u n with
  | some r, some c =>
    if (u.reads.any fun x => x.use == .reloc && x.at_.chan == n) || !c.copies.isEmpty
      || (u.programs.any fun p => p.chan == n && p.stream == .copy) then u
    else
      let u := { u with relocs := u.relocs.filter fun x => x.chan != n }
      match r.target with
      | some t => mapBlock u n t fun k => { k with stage := if k.stage == .open_ then .closed else k.stage }
      | none => u
  | _, _ => u

/-- After any end of work on a channel: full word lines start, a copy that nothing fills further starts, an ended
relocation makes room for the next. -/
def settleChan (s : State) (n : Nat) : State :=
  let u := startFull (startFull (startFull s.flash n .data) n .log) n .copy
  let u := if u.reads.any fun x => x.use == .reloc && x.at_.chan == n then u else startProgram u n .copy
  nextJob { s with flash := endJob u n } n

/-! Recovery. -/

/-- The codewords whose tags a rebuild applies: those programmed since the latest complete flush began. A block that was open then takes
more of them (R489; DEDUCED, notes/assumptions/94.md). -/
def scanned (u : FlashUnit) : List (Cw × Phys) :=
  (u.blocks.filter fun b => b.stage != .retired && b.stage != .free).flatMap fun b =>
    (((List.range b.cws.length).zip b.cws).drop b.flushedCws).map fun q => (q.2, (⟨b.chan, b.num, q.1⟩ : Phys))

/-- Read physical codewords for the rebuild (R485, class 1). -/
def scanAll (u : FlashUnit) (ps : List Phys) : FlashUnit :=
  ps.foldl (fun u p => { u with
    reads := u.reads ++ [⟨u.nextRead, p, ((codewordAt u p).map (·.logical)).getD 0, ((codewordAt u p).map (·.owner)).getD 0, 1, .scan p.chan p.block p.pos, false⟩]
    nextRead := u.nextRead + 1 }) u

/-- Codewords on flash, or in its buffers, that carry an owner slot (R493). -/
def ownedBy (u : FlashUnit) (k : Nat) : List Nat :=
  ((u.map.filter fun m => (codewordAt u m.2).any fun w => w.owner == k).map (·.1)
    ++ ((inWorkItems u).filter fun w => w.owner == k).map (·.logical)).eraseDups

/-- R489 steps 1 and 2: the rebuild reads the journal of the latest complete flush, and the tags. -/
def startRebuild (u : FlashUnit) : FlashUnit :=
  scanAll { u with rebuild := .tags } (u.journal.filterMap (fun l => u.flushed.lookup l) ++ (scanned u).map (·.2))

/-- A read of the rebuild is outstanding. -/
def scanning (u : FlashUnit) : Bool := u.reads.any fun r => match r.use with
  | .scan _ _ _ => true
  | _ => false

/-- What the rebuild has read of a physical codeword; none where it did not decode. -/
def scanOf (u : FlashUnit) (p : Phys) : Option Bytes :=
  (u.done.find? fun d => d.use == .scan p.chan p.block p.pos && d.status == St.ok).map (·.data)

/-- The rebuild has no more use for what it has read. -/
def forgetScans (u : FlashUnit) : FlashUnit :=
  { u with done := u.done.filter fun d => match d.use with
    | .scan _ _ _ => false
    | _ => true }

/-- R489 step 3: the map after a rebuild, and the number of tags read. Codewords that do not decode and padding are ignored. -/
def rebuildMap (u : FlashUnit) : List (Nat × Phys) × Nat :=
  let tags := scanned u
  let use := sortBy (fun (a b : Cw × Phys) => decide (a.1.seq < b.1.seq)) (tags.filter fun t => t.1.kind != 2 && (scanOf u t.2).isSome)
  (use.foldl (fun m t => (m.filter fun e => e.1 != t.1.logical) ++ [(t.1.logical, t.2)]) u.flushed, tags.length)

/-- R478: one above the highest write sequence found. -/
def nextSeqAfter (u : FlashUnit) : Nat :=
  ((u.blocks.filter fun b => b.stage != .retired).flatMap fun b => b.cws.map fun w => w.seq + 1).foldl max 0

/-- R494: abandon what is in flight: writes return to their buffers, reads are issued again, blocks close. -/
def abandon (u : FlashUnit) : FlashUnit :=
  let touched : List (Nat × Nat) := (u.programs.map fun p => (p.chan, p.block)) ++ (u.erases.map fun e => (e.chan, e.block))
  let mine (x : Chan) (st : Stream) : List WriteItem :=
    ((u.programs.filter fun p => p.chan == x.num && p.stream == st).flatMap fun p => p.items.map (·.2)).filter fun w => w.logical != noLogical
  let back (x : Chan) : Chan :=
    { x with writes := mine x .data ++ x.writes, copies := mine x .copy ++ x.copies, logs := mine x .log ++ x.logs }
  let fix (b : Block) : Block :=
    if touched.contains (b.chan, b.num) && b.stage != .retired then { b with stage := .closed, marked := true } else b
  { u with
    chans := u.chans.map back
    blocks := u.blocks.map fix
    programs := [], erases := []
    reads := u.reads.map fun r => { r with active := false } }

end Flash

end Sys2Proof.Machine
end

