-- ==== Sys2Proof/Machine/Memory.lean ====
section
/-! DEFINITION. Stack and shelf memory: cells and lines (R249 to R258), pages and their moves (R260 to R281), the reads and
writes of an agent of the node (R395, R402 to R406, R412), atomics (R408). -/

namespace Sys2Proof.Machine

open Sys2Proof

/-! Cells. -/

namespace Cells

/-- The canonical form: addresses strictly rising, no byte equal to what an unlisted address reads as (0). -/
def wf : List Host.Cell → Bool
  | [] => true
  | [c] => c.2 != 0
  | c :: d :: r => c.2 != 0 && decide (c.1 < d.1) && wf (d :: r)

/-- The byte at an address. -/
def read (m : List Host.Cell) (a : Nat) : Byte :=
  match m.find? fun c => c.1 == a with
  | some c => c.2
  | none => 0

/-- Write one byte. -/
def put (a : Nat) (v : Byte) : List Host.Cell → List Host.Cell
  | [] => if v = 0 then [] else [(a, v)]
  | c :: r =>
    if a < c.1 then (if v = 0 then c :: r else (a, v) :: c :: r)
    else if a = c.1 then (if v = 0 then r else (a, v) :: r)
    else c :: put a v r

/-- Write a byte string at consecutive addresses. -/
def write (m : List Host.Cell) (a : Nat) : Bytes → List Host.Cell
  | [] => m
  | v :: r => write (put a v m) (a + 1) r

/-- `n` bytes from an address. -/
def reads (m : List Host.Cell) (a n : Nat) : Bytes := (List.range n).map fun i => read m (a + i)

end Cells

/-! Addresses (R249). -/

def stackBase (s : Nat) : Nat := s * 0x1400000000
def shelfBase : Nat := 0x10000000000
def stackEnd : Nat := 0xA000000000
def shelfEnd : Nat := 0x10400000000

/-- R249: the address lies in stack or shelf memory. -/
def validAddr (a : Nat) : Bool := decide (a < stackEnd) || (decide (shelfBase ≤ a) && decide (a < shelfEnd))

def validRange (a n : Nat) : Bool := validAddr a && (n == 0 || validAddr (a + n - 1)) && (decide (stackEnd ≤ a) || decide (a + n ≤ stackEnd))

def lineOf (a : Nat) : Nat := a / 64
def pageOf (a : Nat) : Nat := a / 65536 * 65536

/-! Lines. -/

namespace Mem

def tag (m : MemUnit) (line : Nat) : Option LineTag := m.tags.find? fun t => t.line == line

/-- Set or clear a line's metadata; tags stay in ascending line order. -/
def putTag (t : LineTag) : List LineTag → List LineTag
  | [] => [t]
  | x :: r => if t.line < x.line then t :: x :: r else if t.line = x.line then t :: r else x :: putTag t r

def dropTag (line : Nat) (l : List LineTag) : List LineTag := l.filter fun t => t.line != line

/-- A line's data in the cells. -/
def line (m : MemUnit) (n : Nat) : Bytes := Cells.reads m.cells (n * 64) 64

/-- A store gives a line correct check bytes (R570). -/
def mend (m : MemUnit) (n : Nat) : MemUnit :=
  { m with bad := m.bad.filter (· != n), cellErrors := m.cellErrors.filter fun e => e.1 != n }

/-- Store a line: data and owner, or a Free line, which holds zeros. -/
def setLine (m : MemUnit) (n : Nat) (owner : Option (Nat × Bool)) (data : Bytes) : MemUnit :=
  match owner with
  | some (o, p) => { mend m n with cells := Cells.write m.cells (n * 64) (padTo 64 data), tags := putTag ⟨n, o, p⟩ m.tags }
  | none => { mend m n with cells := Cells.write m.cells (n * 64) (List.replicate 64 0), tags := dropTag n m.tags }

/-- Mark a line uncorrectable. -/
def spoil (m : MemUnit) (n : Nat) : MemUnit := if m.bad.contains n then m else { m with bad := m.bad ++ [n] }

/-- Return a page to Free. -/
def freePage (m : MemUnit) (a : Nat) : MemUnit :=
  let lo := lineOf a
  let mine := (m.tags.filter fun t => lo ≤ t.line && t.line < lo + 1024).map (·.line)
  { mine.foldl (fun m n => setLine m n none []) m with
    bad := m.bad.filter fun n => !(lo ≤ n && n < lo + 1024)
    cellErrors := m.cellErrors.filter fun e => !(lo ≤ e.1 && e.1 < lo + 1024) }

def page (m : MemUnit) (id : PageId) : Option Page := m.pages.find? fun p => p.id == id

def mapPage (m : MemUnit) (id : PageId) (f : Page → Page) : MemUnit :=
  { m with pages := m.pages.map fun p => if p.id == id then f p else p }

def Tier.addr : Tier → Option Nat
  | .stack a => some a
  | .shelf a => some a
  | .flash => none

/-- The Tiered page whose current place holds an address. -/
def pageAt (m : MemUnit) (a : Nat) : Option Page := m.pages.find? fun p => Tier.addr p.tier == some (pageOf a)

/-- The page at an address is a Plane page. -/
def planePage (m : MemUnit) (a : Nat) : Bool :=
  (m.pages.any fun p => Tier.addr p.tier == some (pageOf a) && p.plane) || (m.fixed.any fun f => f.addr == pageOf a && f.plane)

/-- The page at an address is allocated as a Plane page of an owner (R289). -/
def planeOf (m : MemUnit) (a owner : Nat) : Bool :=
  (m.pages.any fun p => Tier.addr p.tier == some (pageOf a) && p.plane && p.owner == owner)
    || (m.fixed.any fun f => f.addr == pageOf a && f.plane && f.owner == owner)

def move (m : MemUnit) (id : PageId) : Option Move := m.moves.find? fun v => v.id == id

/-! Free pages. -/

def stackPages : Nat := 10485760
def shelfPages : Nat := 262144

def taken (m : MemUnit) : List Nat :=
  (m.fixed.map (·.addr) ++ m.pages.filterMap (fun p => Tier.addr p.tier) ++ m.moves.filterMap (fun v => Tier.addr v.to_) ++ m.retired).eraseDups

def freeStack (m : MemUnit) : Nat :=
  stackPages - m.exported - ((taken m).filter fun a => a < stackEnd).length

def freeShelf (m : MemUnit) : Nat :=
  shelfPages - (m.windowBytes + 65535) / 65536 - m.cachePages - ((taken m).filter fun a => shelfBase ≤ a).length

/-- The free stack page of lowest address (DESIGN CHOICE, notes/assumptions/22.md). -/
def findStack (m : MemUnit) : Option Nat :=
  if freeStack m = 0 then none
  else ((List.range ((taken m).length + 1)).map (· * 65536)).find? fun a => !(taken m).contains a

def findShelf (m : MemUnit) : Option Nat :=
  if freeShelf m = 0 then none
  else ((List.range ((taken m).length + 1)).map fun i => shelfBase + i * 65536).find? fun a => !(taken m).contains a

/-- Allocate a Fixed stack page. -/
def allocFixed (m : MemUnit) (owner : Nat) (plane : Bool) : Option (Nat × MemUnit) :=
  (findStack m).map fun a => (a, { m with fixed := m.fixed ++ [⟨a, owner, plane⟩] })

/-- `n` pages from an address are free. -/
def freeRun (m : MemUnit) (a n : Nat) : Bool := (List.range n).all fun i => !(taken m).contains (a + 65536 * i)

/-- The lowest free run of `n` pages from `lo` on and below `hi`: it starts at `lo` or behind a page in use. -/
def findRun (m : MemUnit) (lo hi n : Nat) : Option Nat :=
  (sortBy (fun (a b : Nat) => decide (a < b)) (lo :: (taken m).map (· + 65536))).find? fun a =>
    decide (lo ≤ a) && decide (a + 65536 * n ≤ hi) && freeRun m a n

/-- Allocate a run of Fixed pages; the first may be a Plane page (R291). -/
def allocRun (m : MemUnit) (owner a n : Nat) (plane : Bool) : MemUnit :=
  { m with fixed := m.fixed ++ (List.range n).map fun i => (⟨a + 65536 * i, owner, plane && i == 0⟩ : FixedPage) }

/-- Return a run of Fixed pages to Free. -/
def freeFixed (m : MemUnit) (as : List Nat) : MemUnit :=
  as.foldl freePage { m with fixed := m.fixed.filter fun f => !as.contains f.addr }

/-- Store a byte string from an address on, in lines of an owner. -/
def storeBytes (m : MemUnit) (owner : Nat) (plane : Bool) (a : Nat) (b : Bytes) : MemUnit :=
  (List.range ((b.length + 63) / 64)).foldl (fun m i => setLine m (lineOf a + i) (some (owner, plane)) (b.drop (64 * i))) m

/-- Allocate a Tiered page in stack memory. -/
def allocPage (m : MemUnit) (id : PageId) (owner : Nat) (plane : Bool) (now : Nat) : Option (Nat × MemUnit) :=
  (findStack m).map fun a =>
    (a, { m with pages := m.pages ++ [⟨id, owner, plane, .stack a, m.nextSwap, [], [], 0, false, now, false, false⟩], nextSwap := m.nextSwap + 1 })

end Mem

/-! Owner slots. -/

/-- The state of an owner slot (0xA100.02). -/
def State.slotState (s : State) (k : Nat) : Nat := if k = 0 then 3 else (s.key.slots.lookup k).getD 0

/-- R258: lines of this slot may be read and written. -/
def State.keyed (s : State) (k : Nat) : Bool := s.slotState k == 1 || s.slotState k == 3

/-- An address lies in an Exported page (R261). Which pages are exported, the rule leaves open: the highest addresses of stack memory,
downwards from the end of stack 7 (DESIGN CHOICE, notes/assumptions/96.md). -/
def exportedAddr (s : State) (a : Nat) : Bool := decide (stackEnd - s.mem.exported * 65536 ≤ a) && decide (a < stackEnd)

/-! Copies of a line (R403). -/

namespace Coh

def holder (u : CohUnit) (line : Nat) (dirty : Bool) : Option L1Line :=
  u.l1.find? fun x => x.line == line && (if dirty then x.st == .m || x.st == .o else x.st == .e || x.st == .f)

def inSlice (u : CohUnit) (line : Nat) : Option SliceLine := u.slice.find? fun x => x.line == line

/-- A line as memory holds it: its data and owner slot. Where a leaf or an internal node lies and nothing else has been stored over it,
those are the structure's bytes under owner slot 0 (DEDUCED, notes/assumptions/21.md). -/
def memLine (s : State) (line : Nat) : Bytes × Option Nat :=
  match Mem.tag s.mem line, s.treeLine line with
  | some t, _ => (Mem.line s.mem line, some t.owner)
  | none, some b => if s.mem.blank.contains line then (Mem.line s.mem line, none) else (b, some 0)
  | none, none => (Mem.line s.mem line, none)

/-- A clean copy of a line of the index: the node keeps it as current as the structure. -/
def current (s : State) (line : Nat) (x : Bytes × Option Nat) : Bytes × Option Nat :=
  match Mem.tag s.mem line, s.treeLine line with
  | none, some b => if s.mem.blank.contains line then x else (b, some 0)
  | _, _ => x

/-- The supplier's data and tag (R403). -/
def supply (s : State) (line : Nat) : Bytes × Option Nat :=
  match holder s.coh line true, inSlice s.coh line, holder s.coh line false with
  | some x, _, _ => (x.data, x.tag)
  | none, some x, _ => if x.dirty then (x.data, x.tag) else current s line (x.data, x.tag)
  | none, none, some x => current s line (x.data, x.tag)
  | none, none, none => memLine s line

/-- The line would come from memory. -/
def fromMemory (u : CohUnit) (line : Nat) : Bool := !(u.l1.any fun x => x.line == line && x.st != .s) && (inSlice u line).isNone

/-- R398: the home slot of a line. -/
def slot (line : Nat) : Nat := ((List.range 7).map fun i => line / 2 ^ (5 * i) % 32).foldl (fun a b => a ^^^ b) 0

/-- R398: the cluster whose slice homes a line. -/
def homeCluster (s : State) (line : Nat) : Nat := ((s.cfgB Ent.sliceMap).getD (slot line) 0).toNat

/-- The caches forget a page: what is stored into its memory from here on is all that it holds. -/
def dropPage (u : CohUnit) (a : Nat) : CohUnit :=
  { u with
    l1 := u.l1.filter fun x => pageOf (x.line * 64) != a
    slice := u.slice.filter fun x => pageOf (x.line * 64) != a
    dirs := u.dirs.filter fun x => pageOf (x.line * 64) != a }

/-- Drop every copy of a line, dirty data too. -/
def dropLine (u : CohUnit) (line : Nat) : CohUnit :=
  { u with
    l1 := u.l1.filter fun x => x.line != line
    slice := u.slice.filter fun x => x.line != line
    dirs := u.dirs.filter fun x => x.line != line }

/-- Store a line in memory under its tag; a line of no owner stays Free. -/
def store (s : State) (line : Nat) (tag : Option Nat) (data : Bytes) : State :=
  { s with mem := Mem.setLine s.mem line (tag.map fun o => (o, Mem.planePage s.mem (line * 64))) data }

/-- R404: a slice evicts the data of a line: dirty data goes to memory, and a directory entry of the line stays. -/
def evict (s : State) (line : Nat) : State :=
  match inSlice s.coh line with
  | none => s
  | some x =>
    let s := if x.dirty then store s line x.tag x.data else s
    { s with coh := { s.coh with slice := s.coh.slice.filter fun y => y.line != line } }

/-- The set of a slice's data array that a line falls into: which one, the manual leaves open (DESIGN CHOICE,
notes/assumptions/32.md). -/
def dataSet (line : Nat) : Nat := line / 32 % 16384

/-- The lines of a slice's data array that share the set of a line. -/
def setOf (s : State) (line : Nat) : List SliceLine :=
  let near := s.coh.slice.filter fun y => dataSet y.line == dataSet line
  if near.length < 16 then near else near.filter fun y => homeCluster s y.line == homeCluster s line

/-- R404: make room for a line in its slice: a full set of 16 evicts one of its lines, which one is a free value (pseudo-LRU). -/
def makeWay (s : State) (line : Nat) : State :=
  if (inSlice s.coh line).isSome then s
  else
    let set_ := setOf s line
    if set_.length < 16 then s
    else
      let (f, s) := s.drawFree
      match set_[f % 16]? with
      | some y => evict s y.line
      | none => s

/-- Put a line into its slice's data array. -/
def fill (s : State) (x : SliceLine) : State :=
  let s := makeWay s x.line
  { s with coh := { s.coh with slice := (s.coh.slice.filter fun y => y.line != x.line) ++ [x] } }

/-- R274: a store to a page that moves to stack or shelf memory goes to the source and to the destination, and the transit map marks
the line. -/
def storeMoving (s : State) (v : Move) (line : Nat) (tag : Option Nat) (data : Bytes) : State :=
  let s := store s line tag data
  let dest : Option Nat := (Mem.Tier.addr v.to_).map fun b => lineOf b + line % 1024
  let s := match dest with
    | some n => { s with mem := Mem.setLine s.mem n (tag.map fun o => (o, Mem.planePage s.mem (line * 64))) data }
    | none => s
  let fix (x : Move) : Move := if x.id = v.id then { x with marked := x.marked ++ [line % 1024] } else x
  { s with mem := { s.mem with moves := s.mem.moves.map fix } }

/-- The move of the page that holds a line to stack or shelf memory. -/
def moveOf (s : State) (line : Nat) : Option Move :=
  ((Mem.pageAt s.mem (line * 64)).bind fun p => Mem.move s.mem p.id).filter fun v => v.to_ != .flash

/-- R418: make a line current in memory: M becomes E, O becomes F, slice data becomes clean. -/
def clean (s : State) (line : Nat) : State :=
  match holder s.coh line true, inSlice s.coh line with
  | some x, _ =>
    let s := store s line x.tag x.data
    let fix (y : L1Line) : L1Line :=
      if y.line = line then { y with st := if y.st = .m then .e else if y.st = .o then .f else y.st } else y
    let fixS (y : SliceLine) : SliceLine := if y.line = line then { y with data := x.data, dirty := false, tag := x.tag } else y
    { s with coh := { s.coh with l1 := s.coh.l1.map fix, slice := s.coh.slice.map fixS } }
  | none, some x =>
    if x.dirty then
      let s := store s line x.tag x.data
      let fixS (y : SliceLine) : SliceLine := if y.line = line then { y with dirty := false } else y
      { s with coh := { s.coh with slice := s.coh.slice.map fixS } }
    else s
  | none, none => s

/-- Write back and drop every copy of a line. -/
def flush (s : State) (line : Nat) : State := let s := clean s line; { s with coh := dropLine s.coh line }

def flushPage (s : State) (a : Nat) : State :=
  let lo := lineOf a
  let lines := ((s.coh.l1.map (·.line)) ++ s.coh.slice.map (·.line)).filter fun n => lo ≤ n && n < lo + 1024
  lines.foldl flush s

/-- R253, R406: the data of a line cannot be read. -/
def dataCheck (s : State) (line : Nat) : Nat :=
  if s.coh.lost.contains (line * 64) || (fromMemory s.coh line && s.mem.bad.contains line) then St.uncorrectable else St.ok

/-- R256, R258, R396: whether the owner slot of a line refuses an owner. -/
def ownerCheck (s : State) (owner line : Nat) : Nat :=
  match (supply s line).2 with
  | none => St.ok
  | some o => if o = owner ∧ s.keyed o then St.ok else St.accessDenied

/-- The status with which a read of an owner meets a line (R12). -/
def check (s : State) (owner line : Nat) : Nat := max (ownerCheck s owner line) (dataCheck s line)

/-- The owner slots of the lines that memory and caches hold of a page. -/
def pageOwners (s : State) (a : Nat) : List Nat :=
  let here (line : Nat) : Bool := pageOf (line * 64) == a
  ((s.mem.tags.filter fun t => here t.line).map (·.owner)) ++ ((s.coh.slice.filter fun x => here x.line).filterMap (·.tag))
    ++ ((s.coh.l1.filter fun x => here x.line).filterMap (·.tag))

/-- R260: the lines of a Tiered or Exported page are of one owner. -/
def pageCheck (s : State) (owner line : Nat) : Nat :=
  let a := line * 64
  match Mem.pageAt s.mem a with
  | some p => if p.owner = owner then St.ok else St.accessDenied
  | none => if exportedAddr s a && (pageOwners s (pageOf a)).any (· != owner) then St.accessDenied else St.ok

/-- The status with which a write meets a line; a write of the whole line needs nothing of the old data (R570). -/
def writeCheck (s : State) (owner line : Nat) (whole : Bool) : Nat :=
  max (max (ownerCheck s owner line) (pageCheck s owner line)) (if whole then St.ok else dataCheck s line)

end Coh

/-! Touch and cancellation (R262, R275). -/

/-- Cancel a move; its flash writes are discarded. -/
def cancelMove (s : State) (v : Move) : State :=
  let swap := match Mem.page s.mem v.id with
    | some p => p.swap
    | none => 0
  let s := { s with mem := { s.mem with moves := s.mem.moves.filter fun x => x.id != v.id } }
  match v.to_ with
  | .flash => { s with flash := Flash.unmapAll s.flash (pageCodewords v.id swap) }
  | .stack a => { s with mem := Mem.freePage s.mem a }
  | .shelf a => { s with mem := Mem.freePage s.mem a }

/-- R262, R275: an access touches its Tiered page and cancels a move of it to flash. -/
def touch (s : State) (id : PageId) : State :=
  let s := { s with mem := Mem.mapPage s.mem id fun p => { p with touched := true } }
  match Mem.move s.mem id with
  | some v => if v.to_ = .flash then (cancelMove s v).bump Ent.cancelledMoves else s
  | none => s

def touchAddr (s : State) (a : Nat) : State :=
  match Mem.pageAt s.mem a with
  | some p => touch s p.id
  | none => s

/-- The pages of a range of addresses. -/
def rangePages (a n : Nat) : List Nat := if n = 0 then [] else (List.range ((a + n - 1) / 65536 + 1 - a / 65536)).map fun i => pageOf a + 65536 * i

/-- R262: an access touches every page of its range. -/
def touchRange (s : State) (a n : Nat) : State := (rangePages a n).foldl touchAddr s

/-! Reads and writes of an agent without a cache: ReadOnce and WriteLine for each line of a range (R402). -/

def lines (a n : Nat) : List Nat := if n = 0 then [] else (List.range ((a + n - 1) / 64 + 1 - a / 64)).map (· + a / 64)

/-- The first status of a range that is not OK. -/
def checkRange (s : State) (owner a n : Nat) : Nat :=
  (lines a n).foldl (fun st l => if st = St.ok then Coh.check s owner l else st) St.ok

/-- Read a range for an owner: status, bytes, state after. -/
def rangeRead (s : State) (owner a n : Nat) : Nat × Bytes × State :=
  let st := checkRange s owner a n
  let s' := touchRange s a n
  if st = St.ok then (st, (((lines a n).flatMap fun l => (Coh.supply s l).1).drop (a % 64)).take n, s')
  else (st, [], s')

/-- R257, R406: write one line whole or in part through its home slice; of a page that moves, to memory (R274, R414). -/
def writeLine (s : State) (owner line off : Nat) (data : Bytes) : State :=
  let (old, tag) := Coh.supply s line
  let old := match tag with
    | none => List.replicate 64 0
    | some _ => padTo 64 old
  let new := splice old off data
  let u := Coh.dropLine s.coh line
  let s := match Coh.moveOf s line with
    | some v => Coh.storeMoving { s with coh := u } v line (some owner) new
    | none => Coh.fill { s with coh := u } ⟨line, new, true, some owner⟩
  if data.length = 64 then
    { s with coh := { s.coh with lost := s.coh.lost.filter (· != line * 64) }, mem := Mem.mend s.mem line }
  else s

/-- The first status that refuses a write of a range. -/
def writeRange (s : State) (owner a n : Nat) : Nat :=
  let whole (l : Nat) : Bool := decide (a ≤ l * 64) && decide (l * 64 + 64 ≤ a + n)
  (lines a n).foldl (fun st l => if st ≠ St.ok then st else Coh.writeCheck s owner l (whole l)) St.ok

/-- Write a range for an owner; nothing is written where a line refuses it. -/
def rangeWrite (s : State) (owner a : Nat) (data : Bytes) : Nat × State :=
  let n := data.length
  let st := writeRange s owner a n
  let s := touchRange s a n
  if st ≠ St.ok then (st, s)
  else (St.ok, (lines a n).foldl (fun s l =>
    let lo := max a (l * 64)
    let hi := min (a + n) (l * 64 + 64)
    writeLine s owner l (lo - l * 64) ((data.drop (lo - a)).take (hi - lo))) s)

/-- The parts of a byte range of an object that lies in pages: page number, offset in the page, length. -/
def pagePieces (off n : Nat) : List (Nat × Nat × Nat) :=
  (rangePages off n).map fun p =>
    let lo := max off p
    let hi := min (off + n) (p + 65536)
    (p / 65536, lo - p, hi - lo)

/-! Atomics (the table "Atomic operations"). -/

/-- The result written; none where a CAS does not match. Operations: 0 SWAP, 1 CAS, 2 ADD, 3 AND, 4 OR, 5 XOR, 6 UMAX,
7 UMIN. -/
def atomicResult (op : Nat) (old operand expected : Bytes) : Bytes :=
  let w := old.length
  let a := leNat old
  let b := leNat operand
  if op = 0 then operand
  else if op = 1 then (if old = expected then operand else old)
  else if op = 2 then leBytes w (a + b)
  else if op = 3 then leBytes w (a &&& b)
  else if op = 4 then leBytes w (a ||| b)
  else if op = 5 then leBytes w (a ^^^ b)
  else if op = 6 then leBytes w (max a b)
  else leBytes w (min a b)

/-- R408: every L1 copy of a line is recalled: dirty data goes to the slice. -/
def Coh.recallLine (s : State) (line : Nat) : State :=
  let s := match Coh.holder s.coh line true with
    | some x => Coh.fill s ⟨line, x.data, true, x.tag⟩
    | none => s
  { s with coh := { s.coh with l1 := s.coh.l1.filter fun x => x.line != line, dirs := s.coh.dirs.filter fun d => d.line != line } }

/-- R408: an atomic for an owner at an address; `fabric` when it arrived over Strand. Status, old value, state. A CAS that does not
match writes nothing. -/
def lineAtomic (s : State) (owner a op : Nat) (operand expected : Bytes) (fabric : Bool) : Nat × Bytes × State :=
  let line := lineOf a
  let st := Coh.writeCheck s owner line false
  if st ≠ St.ok then (st, [], touchAddr s a)
  else
    let data := padTo 64 (Coh.supply s line).1
    let old := (data.drop (a % 64)).take operand.length
    let new := splice data (a % 64) (atomicResult op old operand expected)
    let writes := op != 1 || old == expected
    let s := touchAddr s a
    if fabric && exportedAddr s a then
      let s := Coh.flush s line
      let s := if writes then { s with mem := Mem.setLine s.mem line (some (owner, Mem.planePage s.mem a)) new } else s
      (St.ok, old, s.bump Ent.memoryAtomics)
    else
      (St.ok, old, (if writes then writeLine s owner line 0 new else Coh.recallLine s line).bump Ent.sliceAtomics)

/-! Page moves. -/

/-- A run command on a berth that waits for its input or for stack pages: ATTEND, or GRAPH_RUN with UsesBerth. -/
def attendWaits (s : State) (b : Nat) : Bool :=
  s.host.cmds.any fun c => !c.started && c.accepted.isSome && field c.desc 40 8 == b
    && (c.opcode == 0x23 || (c.opcode == 0x11 && bit (field c.desc 1 1) 0))

/-- R264: a park, wake, handoff or checkpoint of the page's berth is queued or under way (as on a copy that comes in), or a run attends to
it or waits to. -/
def berthBusy (s : State) (id : PageId) : Bool :=
  match id with
  | .berth b _ => s.berth.owned.any fun o => o.id == b
      && (o.task != .none || o.state != .resident || o.holder.isSome || !o.waits.isEmpty || attendWaits s b || s.gph.runs.any fun r => r.berth == some b)
  | _ => false

/-- An access of the node's own DMA to an HDM page that waits on the host path (R411), or a command's input on it that waits for its
pages. -/
def dmaWaits (s : State) (id : PageId) : Bool :=
  match id with
  | .hdm n => (s.host.held.any fun h => h.inside && (h.hpa - s.host.hdmBase) / 65536 == n)
      || s.host.cmds.any fun c => !c.started && c.inputs.any fun q =>
        decide (q.1 < s.host.hdmBase + 65536 * (n + 1)) && decide (s.host.hdmBase + 65536 * n < q.1 + q.2)
  | _ => false

/-- R264: a page is busy. Any other DMA transfer of the model begins and ends within one command, so that none is queued or
running between two (notes/assumptions/84.md). -/
def pageBusy (s : State) (p : Page) : Bool :=
  p.busy || berthBusy s p.id || dmaWaits s p.id || (match Mem.Tier.addr p.tier with
    | some a => (s.nb.banks.any fun b => b.queue.any fun q => q.pages.contains a) || s.nb.issues.any fun i => i.pages.contains a
    | none => false)

/-- R275: new busy work on a page that moves to stack or shelf memory is held until the switch. -/
def dmaHeld (s : State) (id : PageId) : Bool :=
  match Mem.move s.mem id with
  | some v => v.to_ != .flash
  | none => false

/-- New busy work on the page at an address is held. -/
def pageHeld (s : State) (a : Nat) : Bool :=
  match Mem.pageAt s.mem a with
  | some p => dmaHeld s p.id
  | none => false

/-- The HDM pages that a pin range covers, within the range: first page and the page after the last. -/
def pinSpans (s : State) (ranges : Bytes) : List (Nat × Nat) :=
  let n := s.cfg Ent.hdmBytes / 65536
  (records 16 ranges).map fun r => (min n (field r 0 8), min n (field r 0 8 + field r 8 8))

/-- HDM pages that pin ranges cover, each counted once. -/
def pinnedHdm (s : State) (ranges : Bytes) : Nat :=
  ((sortBy (fun (a b : Nat × Nat) => decide (a.1 < b.1)) (pinSpans s ranges)).foldl (fun (acc : Nat × Nat) p =>
    (max acc.1 p.2, acc.2 + (p.2 - max acc.1 p.1))) (0, 0)).2

/-- R265, R267: Tiered pages that would be pinned under some pin ranges; every HDM page is Tiered, backed or not. -/
def pinnedWith (s : State) (ranges : Bytes) : Nat := (s.mem.pages.filter (·.pinned)).length + pinnedHdm s ranges

/-- R265: a page is pinned. -/
def pagePinned (s : State) (p : Page) : Bool :=
  p.pinned || (match p.id with
    | .hdm n => (records 16 (s.cfgB Ent.hdmPinRanges)).any fun r => field r 0 8 ≤ n && n < field r 0 8 + field r 8 8
    | _ => false)

/-- The address of a Tiered page in stack or shelf memory. -/
def pageAddr (s : State) (id : PageId) : Option Nat := (Mem.page s.mem id).bind fun p => Mem.Tier.addr p.tier

/-- The pages among these that work cannot use yet: they lie in flash, or move to stack or shelf memory (R272, R275). -/
def absentPages (s : State) (ids : List PageId) : List PageId := ids.filter fun id => (pageAddr s id).isNone || dmaHeld s id

def age (s : State) (p : Page) : Nat := s.now - p.last

/-- Power state Neap: no move starts (R277). -/
def inNeap (s : State) : Bool := s.rst.powerState == 2

/-- The lines of the page at an address whose data are uncorrectable, as places in the page. -/
def lostLinesOf (s : State) (a : Nat) : List Nat :=
  (List.range 1024).filter fun i => s.mem.bad.contains (lineOf a + i) || s.coh.lost.contains (a + 64 * i)

/-- The bytes of a page as they may leave it: an uncorrectable line's are not passed on (R570). -/
def pageBytes (s : State) (a : Nat) : Bytes :=
  let lost := lostLinesOf s a
  (List.range 1024).flatMap fun i => if lost.contains i then List.replicate 64 0 else Cells.reads s.mem.cells (a + 64 * i) 64

/-- R273: start a move to flash: every cached copy is written back, and the page's 16 codewords go to the Curator. -/
def startToFlash (s : State) (p : Page) : State :=
  match p.tier with
  | .stack a =>
    let s := Coh.flushPage s a
    let data := pageBytes s a
    let s := { s with mem := { s.mem with moves := s.mem.moves ++ [(⟨p.id, Tier.flash, []⟩ : Move)] } }
    { s with flash := Flash.write s.flash s.subticks p.owner (Flash.pageWrites p.id p.swap data) }
  | _ => s

/-- Start a move to a stack or shelf page. -/
def startToMemory (s : State) (p : Page) (dest : Tier) : State :=
  let s := match Mem.Tier.addr p.tier with
    | some a => Coh.flushPage s a
    | none => s
  { s with mem := { s.mem with moves := s.mem.moves ++ [(⟨p.id, dest, []⟩ : Move)] } }

/-- R268, R271: start a promotion from flash, its reads in a class of R485. False where no stack page is free. -/
def promote (s : State) (p : Page) (cls : Nat) : Bool × State :=
  if (Mem.move s.mem p.id).isSome then
    (true, { s with flash := Flash.hasten s.flash (.page p.id) cls })
  else match Mem.findStack s.mem with
    | none => (false, s.bump Ent.allocationStalls)
    | some a =>
      let s := startToMemory s p (.stack a)
      (true, { s with flash := Flash.readAll s.flash (pageCodewords p.id p.swap) p.owner cls (.page p.id) })

/-- R264, R272: work that waits for pages makes them busy and starts the promotion of those in flash. -/
def fetchPages (s : State) (ids : List PageId) : State :=
  ids.foldl (fun s id =>
    let s := { s with mem := Mem.mapPage s.mem id fun p => { p with busy := true } }
    match Mem.page s.mem id with
    | some p => if p.tier = .flash then (promote (touch s id) p 3).2 else s
    | none => s) s

/-- Pages are no longer busy with the work that waited for them. -/
def freePages (s : State) (ids : List PageId) : State :=
  { s with mem := ids.foldl (fun m id => Mem.mapPage m id fun p => { p with busy := false }) s.mem }

/-- R278: order of demotion: greatest age, then lower node physical address. -/
def demotable (s : State) (shelf : Bool) : List Page :=
  let ok (p : Page) : Bool :=
    (match p.tier with
     | .stack _ => !shelf
     | .shelf _ => shelf
     | .flash => false)
      && !pageBusy s p && (shelf || !pagePinned s p) && (Mem.move s.mem p.id).isNone
  sortBy (fun (p q : Page) => decide (age s q < age s p) ||
    (age s p == age s q && decide ((Mem.Tier.addr p.tier).getD 0 < (Mem.Tier.addr q.tier).getD 0))) (s.mem.pages.filter ok)

/-- R267, R281, R508, R510: flash takes the page: an HDM page has its space reserved, any other page needs user capacity and tiered space. -/
def flashTakes (s : State) (p : Page) : Bool :=
  (match p.id with
    | .hdm _ => true
    | _ => false) || !(Flash.tieredFull s (pageCodewords p.id p.swap) || Flash.wouldFill s (pageCodewords p.id p.swap))

/-- Stack pages that moves to flash will free. -/
def comingFree (s : State) : Nat := (s.mem.moves.filter fun v => v.to_ == .flash).length

/-- R278, R281: demote stack pages while the free stack pages that will result stay below the high mark. A page that flash does not
take stays in stack memory. -/
def demoteStack : Nat → State → State
  | 0, s => s
  | n + 1, s =>
    if s.cfg Ent.stackHighMarkPages ≤ Mem.freeStack s.mem + comingFree s then s
    else match (demotable s false).find? (flashTakes s) with
      | none => s
      | some p => demoteStack n (startToFlash s p)

/-- The demotions of a moment, with the refusal of a page that flash had no tiered space for (R278, R510). -/
def demoteNow (s : State) : State :=
  let refused := (demotable s false).any (fun p => !flashTakes s p) && decide (Mem.freeStack s.mem + comingFree s < s.cfg Ent.stackHighMarkPages)
  demoteStack s.mem.pages.length (if refused then s.bump Ent.mediaFullRefusals else s)

def shelfTiered (s : State) : Nat := (s.mem.pages.filter fun p => match p.tier with
  | .shelf _ => true
  | _ => false).length

/-- Shelf pages that a move takes away. -/
def leavingShelf (s : State) : Nat := (s.mem.moves.filter fun v => match v.to_, (Mem.page s.mem v.id).map (·.tier) with
  | .stack _, some (.shelf _) => true
  | _, _ => false).length

/-- Shelf pages that a move brings. -/
def comingShelf (s : State) : Nat := (s.mem.moves.filter fun v => match v.to_ with
  | .shelf _ => true
  | _ => false).length

/-- R279: demote shelf pages to stack memory until they no longer exceed ShelfTierBytes. -/
def demoteShelf : Nat → State → State
  | 0, s => s
  | n + 1, s =>
    if (shelfTiered s - leavingShelf s) * 65536 ≤ s.cfg Ent.shelfTierBytes then s
    else match demotable s true, Mem.findStack s.mem with
      | p :: _, some a => demoteShelf n (startToMemory s p (.stack a))
      | _, _ => s

/-- Set bits of a touch history. -/
def histBits (p : Page) : Nat := popcount p.hist

/-- R280, R272: candidates for shelf memory, highest count first and then lower address. -/
def promotable (s : State) : List Page :=
  let n := s.cfg Ent.shelfPromoteCount
  let ok (p : Page) : Bool :=
    (match p.tier with
     | .stack _ => true
     | _ => false) && decide (n ≤ histBits p) && !pageBusy s p && !p.plane && (Mem.move s.mem p.id).isNone
  if n = 0 then []
  else sortBy (fun (p q : Page) => decide (histBits q < histBits p) ||
    (histBits p == histBits q && decide ((Mem.Tier.addr p.tier).getD 0 < (Mem.Tier.addr q.tier).getD 0))) (s.mem.pages.filter ok)

/-- R279: a candidate goes to shelf memory where ShelfTierBytes and a free page have room for it beside every page there. Where they
do not, the oldest shelf page is demoted first if it is older: the candidate then goes at a later boundary. -/
def promoteOne (s : State) (p : Page) : State :=
  let fits (n : Nat) : Bool := decide ((n + comingShelf s + 1) * 65536 ≤ s.cfg Ent.shelfTierBytes)
  match Mem.findShelf s.mem with
  | some a => if fits (shelfTiered s) then startToMemory s p (.shelf a) else makeShelf (fits (shelfTiered s - leavingShelf s))
  | none => makeShelf (decide (0 < leavingShelf s))
where
  /-- Start the demotion of an older page, unless room is on its way. -/
  makeShelf (coming : Bool) : State :=
    if coming then s
    else match demotable s true, Mem.findStack s.mem with
      | q :: _, some b => if age s p < age s q then startToMemory s q (.stack b) else s
      | _, _ => s

/-- R279, R280: the promotions of a boundary. -/
def promoteShelf (s : State) : State := if inNeap s then s else (promotable s).foldl promoteOne s

/-- R262: the shift of every page's touch history at boundary T. -/
def shiftTouch (s : State) (t : Nat) : State :=
  let fix (p : Page) : Page := { p with
    hist := (2 * p.hist + if p.touched then 1 else 0) % 65536
    last := if p.touched then t - 1 else p.last
    touched := false }
  { s with mem := { s.mem with pages := s.mem.pages.map fix } }

/-- The lines of the page at an address that are not Free, as places in the page with their Plane states. -/
def lineStates (s : State) (a : Nat) : List (Nat × Bool) :=
  let lo := lineOf a
  (s.mem.tags.filter fun t => lo ≤ t.line && t.line < lo + 1024).map fun t => (t.line - lo, t.plane)

/-- A page now lies in flash; the Curator keeps its line states (R273), and which of its lines were uncorrectable (R570; DEDUCED,
notes/assumptions/84.md). -/
def switchToFlash (s : State) (p : Page) (a : Nat) : State :=
  let st := lineStates s a
  let lost := lostLinesOf s a
  let s := { s with coh := { s.coh with lost := s.coh.lost.filter fun x => pageOf x != a } }
  { s with mem := Mem.mapPage (Mem.freePage s.mem a) p.id fun q => { q with tier := .flash, states := st, lostLines := lost } }

/-- R570: lines of a page that no line tag names and that are uncorrectable stay so in its copy. -/
def copyBad (v : Move) (a b : Nat) (m : MemUnit) : MemUnit :=
  let mine := m.bad.filter fun n => lineOf a ≤ n && n < lineOf a + 1024 && !v.marked.contains (n - lineOf a)
  mine.foldl (fun m n => Mem.spoil m (lineOf b + (n - lineOf a))) m

/-- A page's 16 codewords have been read: its lines are written at `b`. -/
def switchFromFlash (s : State) (p : Page) (d : Tier) (b : Nat) : State :=
  let ds := Flash.ended s.flash (.page p.id)
  let lostCw := (ds.filter fun x => x.status != St.ok).map (·.logical)
  let cws := pageCodewords p.id p.swap
  let s := { s with coh := Coh.dropPage s.coh b }
  let s := p.states.foldl (fun s q =>
    let l := lineOf b + q.1
    let cw := cws.getD (q.1 / 64) 0
    let data := match ds.find? fun x => x.logical == cw with
      | some x => (x.data.drop (q.1 % 64 * 64)).take 64
      | none => []
    let s := { s with mem := Mem.setLine s.mem l (some (p.owner, q.2)) data }
    if lostCw.contains cw then { s with mem := Mem.spoil s.mem l } else s) s
  let s := { s with mem := p.lostLines.foldl (fun m i => Mem.spoil m (lineOf b + i)) s.mem }
  let s := { s with flash := Flash.unmapAll (Flash.forget s.flash (.page p.id)) cws }
  { s with mem := Mem.mapPage s.mem p.id fun q => { q with tier := d, states := [], lostLines := [] } }

/-- R274: the mover copies one line, unless a write has marked it. A line whose data are uncorrectable stays so (R570). -/
def copyLine (v : Move) (a b : Nat) (m : MemUnit) (t : LineTag) : MemUnit :=
  let i := t.line - lineOf a
  let bad := m.bad.contains t.line
  if v.marked.contains i then m
  else
    let m := Mem.setLine m (lineOf b + i) (some (t.owner, t.plane)) (Mem.line m t.line)
    if bad then Mem.spoil m (lineOf b + i) else m

/-- A page passes from `a` to `b` in memory; its lost lines (R406) go with it. -/
def switchInMemory (s : State) (v : Move) (p : Page) (a b : Nat) : State :=
  let s := Coh.flushPage s a
  let mine := s.mem.tags.filter fun t => lineOf a ≤ t.line && t.line < lineOf a + 1024
  let moved (x : Nat) : Nat := if pageOf x = a then b + x % 65536 else x
  let u := Coh.dropPage s.coh b
  let s := { s with mem := copyBad v a b (mine.foldl (copyLine v a b) s.mem), coh := { u with lost := u.lost.map moved } }
  { s with mem := Mem.mapPage (Mem.freePage s.mem a) p.id fun q => { q with tier := v.to_ } }

/-- R276: the switch of a move whose data is all there. Lines keep owner and state (R273). -/
def switchMove (s : State) (v : Move) (p : Page) : State :=
  let s := { s with mem := { s.mem with moves := s.mem.moves.filter fun x => x.id != v.id, leaving := s.mem.leaving.filter fun a => Mem.Tier.addr p.tier != some a } }
  let promoted := match p.tier, v.to_ with
    | .flash, _ => true
    | .stack _, .shelf _ => true
    | _, _ => false
  let s := s.bump (if promoted then Ent.promotions else Ent.demotions)
  match Mem.Tier.addr p.tier, Mem.Tier.addr v.to_ with
  | some a, some b => switchInMemory s v p a b
  | some a, none => switchToFlash s p a
  | none, some b => switchFromFlash s p v.to_ b
  | none, none => s

/-- Free a Tiered page in whatever tier it lies, with any move of it. -/
def releasePage (s : State) (id : PageId) : State :=
  match Mem.page s.mem id with
  | none => s
  | some p =>
    let s := match Mem.move s.mem id with
      | some v => cancelMove s v
      | none => s
    let s := { s with flash := Flash.unmapAll (Flash.forget s.flash (.page id)) (pageCodewords id p.swap) }
    let s := match Mem.Tier.addr p.tier with
      | some a => { s with mem := Mem.freePage s.mem a, coh := { s.coh with
          l1 := s.coh.l1.filter fun x => pageOf (x.line * 64) != a
          slice := s.coh.slice.filter fun x => pageOf (x.line * 64) != a
          lost := s.coh.lost.filter fun x => pageOf x != a } }
      | none => s
    { s with mem := { s.mem with pages := s.mem.pages.filter fun q => q.id != id } }

/-- Return Fixed pages to Free; no cached copy of their lines stays. -/
def freeFixedPages (s : State) (as : List Nat) : State :=
  { s with
    mem := Mem.freeFixed s.mem as
    coh := { s.coh with
      l1 := s.coh.l1.filter fun x => !as.contains (pageOf (x.line * 64))
      slice := s.coh.slice.filter fun x => !as.contains (pageOf (x.line * 64))
      lost := s.coh.lost.filter fun x => !as.contains (pageOf x) } }

/-- R259: return every page of an owner slot, in any tier, to Free. -/
def sweepOwner (s : State) (k : Nat) : State :=
  let s := ((s.mem.pages.filter fun p => p.owner == k).map (·.id)).foldl releasePage s
  let mine := (s.mem.tags.filter fun t => t.owner == k).map (·.line)
  let fixed := (s.mem.fixed.filter fun f => f.owner == k).map (·.addr)
  -- R406: the return of a line's page to Free removes the line from LostLines.
  let freed (x : Nat) : Bool := mine.contains (x / 64) || fixed.contains (pageOf x)
    || (exportedAddr s x && (Coh.pageOwners s (pageOf x)).contains k)
  let s := { s with coh := { s.coh with lost := s.coh.lost.filter fun x => !freed x } }
  let s := { s with mem := mine.foldl (fun m n => Mem.setLine m n none []) s.mem }
  { s with
    mem := { s.mem with fixed := s.mem.fixed.filter fun f => f.owner != k }
    coh := { s.coh with l1 := s.coh.l1.filter fun x => x.tag != some k, slice := s.coh.slice.filter fun x => x.tag != some k } }

/-- Pages and lines that still carry an owner slot (R259, R493). -/
def ownerCount (s : State) (k : Nat) : Nat :=
  (s.mem.pages.filter fun p => p.owner == k).length + (s.mem.tags.filter fun t => t.owner == k).length
    + (s.mem.fixed.filter fun f => f.owner == k).length

end Sys2Proof.Machine
end

