-- ==== Sys2Proof/Machine/Coherence.lean ====
section
/-! DEFINITION. Home slices and their directories (12_coherence.md): homes (R398, R399), the requests of R402 and their
suppliers (R403), directory entries and recalls (R404). -/

namespace Sys2Proof.Machine

open Sys2Proof

/-! Back-invalidation (R410, R527). -/

/-- Start a back-invalidation; past 64 outstanding it waits (R527). -/
def backInvalidate (s : State) (b : BackInv) : State :=
  let s := if s.host.bisnp.length < 64 then (s.emit (.bisnp b.line b.count)).bump Ent.hostBackInvalidates else s
  { s with host := { s.host with bisnp := s.host.bisnp ++ [b] } }

/-- The host has answered a back-invalidation: it holds those lines no more, and the next one that waits goes out. -/
def bisnpEnded (s : State) (b : BackInv) : State :=
  let rest := s.host.bisnp.erase b
  let s := { s with host := { s.host with
    bisnp := rest, hostHeld := s.host.hostHeld.filter fun l => !(b.line ≤ l && l < b.line + b.count) } }
  match rest[63]? with
  | some n => (s.emit (.bisnp n.line n.count)).bump Ent.hostBackInvalidates
  | none => s

namespace Coh

/-! Homes. -/

/-- R415, R416: the slices that `p` picks drop the lines of other nodes and of the host that they hold; modified lines of the host go
back to it while its link is up. -/
def dropOutside (s : State) (p : Nat → Bool) : State :=
  let mine := s.coh.hostLines.filter fun x => p (homeCluster s x.1)
  let rest := s.coh.hostLines.filter fun x => !p (homeCluster s x.1)
  let far := s.strand.remoteLines.filter fun x => !p (homeCluster s (lineOf x.2.2.1))
  let s := if s.host.linkUp then (mine.filter fun x => x.2.1 == 2).foldl (fun s x => s.emit (.hostWrite (x.1 * 64) x.2.2)) s else s
  { s with coh := { s.coh with hostLines := rest }, strand := { s.strand with remoteLines := far } }

/-- R399: write back what the slice of a cluster, or any L1 for its slots, holds, and drop it. -/
def emptySlice (s : State) (cluster : Nat) : State :=
  let lines := ((s.coh.l1.map (·.line)) ++ (s.coh.slice.map (·.line)) ++ s.coh.dirs.map (·.line)).eraseDups.filter fun l => homeCluster s l == cluster
  dropOutside (lines.foldl flush s) fun k => k == cluster

/-- R399: the slots of a cluster out of service pass to the next cluster in service. -/
def passSlots (s : State) (cluster : Nat) : State :=
  let next := ((List.range 32).map fun i => (cluster + 1 + i) % 32).find? fun c => c != cluster && !s.rel.deadClusters.contains c
  match next with
  | none => s
  | some n => s.setVal Ent.sliceMap (.b ((s.cfgB Ent.sliceMap).map fun b => if b.toNat = cluster then BitVec.ofNat 8 n else b))

/-! Directory entries. -/

def dir (u : CohUnit) (line : Nat) : Option Dir := u.dirs.find? fun d => d.line == line

def copies (u : CohUnit) (line : Nat) : List L1Line := u.l1.filter fun x => x.line == line

def l1 (u : CohUnit) (core line : Nat) : Option L1Line := u.l1.find? fun x => x.core == core && x.line == line

/-- The cores that an invalidation goes to: the owner and every sharer that the entry names, but for the requester. -/
def named (u : CohUnit) (line core : Nat) : List Nat :=
  let sharers := match dir u line with
    | some d => if d.coarse then d.sharers.flatMap fun k => (List.range 16).map (k * 16 + ·) else d.sharers
    | none => []
  ((((copies u line).filter fun x => x.st != .s).map (·.core)) ++ sharers).eraseDups.filter (· != core)

/-- The set of a directory that a line falls into: which one, the manual leaves open (DESIGN CHOICE,
notes/assumptions/32.md). -/
def dirSet (line : Nat) : Nat := line / 32 % 4096

/-- R404: make room for a line's entry: a full set recalls one of its entries, which one is a free value (pseudo-LRU). -/
def makeRoom (s : State) (line : Nat) : State :=
  let h := homeCluster s line
  let set_ := s.coh.dirs.filter fun d => dirSet d.line == dirSet line && homeCluster s d.line == h
  if (dir s.coh line).isSome ∨ set_.length < 8 then s
  else
    let (f, s) := s.drawFree
    match set_[f % 8]? with
    | some d => (recallLine s d.line).bump Ent.directoryRecalls
    | none => s

/-- Note the sharers of a line after a Read: a fifth S copy turns the entry Coarse. -/
def noteShare (s : State) (line : Nat) : State :=
  let now := ((copies s.coh line).filter fun x => x.st == .s).map (·.core)
  let old : Dir := (dir s.coh line).getD ⟨line, [], false⟩
  let add (d : Dir) : Dir × Bool :=
    if d.coarse then ({ d with sharers := (d.sharers ++ now.map (· / 16)).eraseDups }, false)
    else
      let all := (d.sharers ++ now).eraseDups
      if all.length ≤ 4 then ({ d with sharers := all }, false) else ({ d with sharers := (all.map (· / 16)).eraseDups, coarse := true }, true)
  let r := add old
  let s := { s with coh := { s.coh with dirs := (s.coh.dirs.filter fun (d : Dir) => d.line != line) ++ [r.1] } }
  s.bump Ent.coarseEntries (if r.2 then 1 else 0)

/-- Drop a core's copy of a line of which it tells the home slice. The entry stays while it names a copy. -/
def dropCopy (s : State) (core line : Nat) : State :=
  let l1 := s.coh.l1.filter fun x => !(x.core == core && x.line == line)
  let named (d : Dir) : Bool := (l1.any fun x => x.line == line && x.st != .s) || d.coarse || d.sharers.any (· != core)
  let fix (d : Dir) : Dir := if d.coarse then d else { d with sharers := d.sharers.filter (· != core) }
  { s with coh := { s.coh with l1 := l1, dirs := (s.coh.dirs.filter fun d => d.line != line || named d).map fun d => if d.line = line then fix d else d } }

/-- R401: an L1 evicts a line: M or O is written back to the home slice, E or F noticed there, S dropped without a word. -/
def leaveL1 (s : State) (x : L1Line) : State :=
  if x.st = .s then { s with coh := { s.coh with l1 := s.coh.l1.filter fun y => !(y.core == x.core && y.line == x.line) } }
  else dropCopy (if x.st = .m ∨ x.st = .o then fill s ⟨x.line, x.data, true, x.tag⟩ else s) x.core x.line

/-- The set of an L1 that a line falls into: which one, the manual leaves open (DESIGN CHOICE, notes/assumptions/32.md). -/
def l1Set (line : Nat) : Nat := line % 128

/-- Make room for a line in a core's L1: a full set of 8 evicts one of its lines, which one is a free value (pseudo-LRU). -/
def makeL1 (s : State) (core line : Nat) : State :=
  let set_ := s.coh.l1.filter fun x => x.core == core && l1Set x.line == l1Set line
  if set_.length < 8 ∨ (l1 s.coh core line).isSome then s
  else
    let (f, s) := s.drawFree
    match set_[f % 8]? with
    | some x => leaveL1 s x
    | none => s

/-- Give a core a copy of a line, with the line's directory entry. -/
def grant (s : State) (core line : Nat) (st : CState) (data : Bytes) (tag : Option Nat) : State :=
  let s := makeL1 (makeRoom s line) core line
  let l1 := s.coh.l1.filter fun x => !(x.core == core && x.line == line)
  noteShare { s with coh := { s.coh with l1 := l1 ++ [(⟨core, line, st, data, tag⟩ : L1Line)] } } line

/-! Requests. -/

def endReq (s : State) (q : CohReq) (status : Nat) (data : Bytes) : State :=
  { s with coh := { s.coh with ended := s.coh.ended ++ [(⟨q.kind, q.core, q.line, status, data⟩ : CohEnd)] } }

/-- R414: a page in a move is served at the home slice and cached in no L1. -/
def moving (s : State) (line : Nat) : Bool :=
  match Mem.pageAt s.mem (line * 64) with
  | some p => (Mem.move s.mem p.id).isSome
  | none => false

/-- R402, R403: a Read is granted. -/
def grantRead (s : State) (q : CohReq) : State :=
  match l1 s.coh q.core q.line with
  | some x => endReq s q St.ok (padTo 64 x.data)
  | none =>
    let (data, tag) := supply s q.line
    let data := padTo 64 data
    let dirty := (holder s.coh q.line true).isSome
    let alone := (copies s.coh q.line).isEmpty
    let s := if fromMemory s.coh q.line then fill s ⟨q.line, data, false, tag⟩ else s
    let fix (x : L1Line) : L1Line :=
      if x.line = q.line then { x with st := if x.st = .m then .o else if x.st = .e ∨ x.st = .f then .s else x.st } else x
    let s := { s with coh := { s.coh with l1 := s.coh.l1.map fix } }
    endReq (grant s q.core q.line (if alone then .e else if dirty then .s else .f) data tag) q St.ok data

/-- A store: the whole old line, zeros where it is Free, with the stored bytes in it. -/
def stored (old : Bytes × Option Nat) (off : Nat) (data : Bytes) : Bytes :=
  splice (match old.2 with
    | none => List.replicate 64 0
    | some _ => padTo 64 old.1) off data

/-- R402: a ReadOwn or Upgrade is granted: the requester holds the only copy, with its store in it. -/
def grantOwn (s : State) (q : CohReq) : State :=
  let old := match l1 s.coh q.core q.line with
    | some x => (x.data, x.tag)
    | none => supply s q.line
  let new := stored old q.off q.data
  let u := dropLine s.coh q.line
  endReq (grant { s with coh := u } q.core q.line .m new (some q.owner)) q St.ok []

/-- Carry out a request that has every acknowledgement it needs. -/
def execute (s : State) (q : CohReq) : State :=
  let s := touchAddr s (q.line * 64)
  let st := match q.kind with
    | .read => check s q.owner q.line
    | .readOnce => check s q.owner q.line
    | .writeLine => writeCheck s q.owner q.line true
    | _ => writeCheck s q.owner q.line false
  if st ≠ St.ok then endReq s q st []
  else match q.kind with
  | .read => if moving s q.line then endReq s q St.ok (padTo 64 (supply s q.line).1) else grantRead s q
  | .readOnce => endReq s q St.ok (padTo 64 (supply s q.line).1)
  | .readOwn => if moving s q.line then endReq (writeLine s q.owner q.line q.off q.data) q St.ok [] else grantOwn s q
  | .upgrade => if moving s q.line then endReq (writeLine s q.owner q.line q.off q.data) q St.ok [] else grantOwn s q
  | .writeLine => endReq (writeLine s q.owner q.line 0 (padTo 64 q.data)) q St.ok []
  | .atomic =>
    let (st, old, s) := lineAtomic s q.owner (q.line * 64 + q.off) q.op q.data q.expected q.atMemory
    endReq s q st old

/-- The caches whose acknowledgement a request waits for: an invalidation that finds no copy is acknowledged at once (R401). -/
def acksFor (s : State) (q : CohReq) : List Nat :=
  (asked).filter fun c => (l1 s.coh c q.line).isSome
where
  /-- The caches that an invalidation goes to. -/
  asked : List Nat := match q.kind with
  | .read => []
  | .readOnce => []
  | .atomic => named s.coh q.line 512
  | .writeLine => named s.coh q.line 512
  | _ => named s.coh q.line q.core

/-- The host among the agents whose acknowledgement a request waits for. -/
def hostAgent : Nat := 1024

/-- R410: the host line of a memory line that lies in a page of the committed range. -/
def hostLineOf (s : State) (line : Nat) : Option Nat :=
  match Mem.pageAt s.mem (line * 64) with
  | some p => match p.id with
    | .hdm n => some ((s.host.hdmBase + n * 65536 + line * 64 % 65536) / 64)
    | _ => none
  | none => none

/-- R410: a request that writes a line which the host may hold. -/
def hostHolds (s : State) (q : CohReq) : Option Nat :=
  if q.kind = .read ∨ q.kind = .readOnce then none else (hostLineOf s q.line).filter s.host.hostHeld.contains

/-- R410, R527: the host's answer to a back-invalidation that a request of a cache asked for, or what stands for it. -/
def hostYields (s : State) (line : Nat) : State :=
  match s.host.bisnp.find? fun b => b.grants == some line with
  | none => s
  | some b => bisnpEnded s b

/-- R402: a request reaches its home slice: it waits behind an earlier one, or for its acknowledgements, the host's among them where
the host may hold the line (R410). -/
def arrive (s : State) (q : CohReq) : State :=
  if s.coh.busy.any fun b => b.req.line == q.line then
    let fix (b : CohBusy) : CohBusy := if b.req.line = q.line then { b with queue := b.queue ++ [q] } else b
    { s with coh := { s.coh with busy := s.coh.busy.map fix } }
  else
    let acks := acksFor s q
    match hostHolds s q with
    | some h =>
      let s := backInvalidate s ⟨h, 1, 0, [], false, some q.line⟩
      { s with coh := { s.coh with busy := s.coh.busy ++ [(⟨q, acks ++ [hostAgent], []⟩ : CohBusy)] } }
    | none =>
      if acks.isEmpty then execute s q else { s with coh := { s.coh with busy := s.coh.busy ++ [(⟨q, acks, []⟩ : CohBusy)] } }

/-- The requests behind one that has ended. -/
def drain (s : State) (qs : List CohReq) : State := qs.foldl arrive s

/-- R402: a cache acknowledges the invalidation of its copy; dirty data comes with it. A WriteLine that is granted then discards it. -/
def acknowledge (s : State) (core line : Nat) : State :=
  match s.coh.busy.find? fun b => b.req.line == line && b.acks.contains core with
  | none => s
  | some b =>
    let s := if core = hostAgent then hostYields s line else s
    let s := match l1 s.coh core line with
      | some x => if x.st = CState.m ∨ x.st = CState.o then fill s ⟨line, x.data, true, x.tag⟩ else s
      | none => s
    let s := { s with coh := { s.coh with l1 := s.coh.l1.filter fun x => !(x.core == core && x.line == line) } }
    let left := b.acks.filter (· != core)
    if left.isEmpty then
      drain (execute { s with coh := { s.coh with busy := s.coh.busy.filter fun x => x.req.line != line } } b.req) b.queue
    else
      let fix (x : CohBusy) : CohBusy := if x.req.line = line then { x with acks := left } else x
      { s with coh := { s.coh with busy := s.coh.busy.map fix } }

/-- R402: the requests to a line that have come before are carried out, their acknowledgements coming now. -/
def settleLine : Nat → State → Nat → State
  | 0, s, _ => s
  | n + 1, s, line =>
    match s.coh.busy.find? fun b => b.req.line == line with
    | none => s
    | some b => settleLine n (b.acks.foldl (fun s c => acknowledge s c line) s) line

/-- The lines with a request that waits, among those that `p` names. -/
def settleLines (s : State) (p : Nat → Bool) : State :=
  let fuel := (s.coh.busy.map fun b => b.queue.length + 1).sum
  ((s.coh.busy.map fun b => b.req.line).filter p).foldl (settleLine fuel) s

/-- R402, R409: an access that is no request of a cache comes behind the earlier requests to the lines of its range. The model lets
their acknowledgements come then (DESIGN CHOICE, notes/assumptions/92.md). -/
def settled (s : State) (a n : Nat) : State :=
  if n = 0 then s else settleLines s fun l => decide (lineOf a ≤ l) && decide (l ≤ lineOf (a + n - 1))

end Coh

/-! Reads, writes and atomics of an agent without a cache: they come behind the requests that have reached the home slices before
(R402, R409, R417). -/

/-- Read a range for an owner: status, bytes, state after. -/
def agentRead (s : State) (owner a n : Nat) : Nat × Bytes × State := rangeRead (Coh.settled s a n) owner a n

/-- Write a range for an owner; nothing is written where a line refuses it. -/
def agentWrite (s : State) (owner a : Nat) (data : Bytes) : Nat × State := rangeWrite (Coh.settled s a data.length) owner a data

/-- R408: an atomic for an owner at an address; `fabric` when it arrived over Strand. -/
def agentAtomic (s : State) (owner a op : Nat) (operand expected : Bytes) (fabric : Bool) : Nat × Bytes × State :=
  lineAtomic (Coh.settled s a 1) owner a op operand expected fabric

/-- Read a byte range of an object whose pages lie at given addresses: the highest status, the bytes, the state after. -/
def readPaged (s : State) (owner : Nat) (addr : Nat → Option Nat) (off n : Nat) : Nat × Bytes × State :=
  (pagePieces off n).foldl (fun (acc : Nat × Bytes × State) p => match addr p.1 with
    | none => (max acc.1 St.uncorrectable, acc.2)
    | some a =>
      let r := agentRead acc.2.2 owner (a + p.2.1) p.2.2
      (max acc.1 r.1, acc.2.1 ++ padTo p.2.2 r.2.1, r.2.2)) (St.ok, [], s)

/-- Write a byte range of such an object: the highest status and the state after. -/
def writePaged (s : State) (owner : Nat) (addr : Nat → Option Nat) (off : Nat) (data : Bytes) : Nat × State :=
  (pagePieces off data.length).foldl (fun (acc : Nat × State) p => match addr p.1 with
    | none => (max acc.1 St.uncorrectable, acc.2)
    | some a =>
      let w := agentWrite acc.2 owner (a + p.2.1) ((data.drop (p.1 * 65536 + p.2.1 - off)).take p.2.2)
      (max acc.1 w.1, w.2)) (St.ok, s)

end Sys2Proof.Machine
end

