-- ==== Sys2Proof/Machine/HostOps.lean ====
section
/-! DEFINITION. What the node does towards its host: writes to host memory and into its own HDM range (R410 to R412, R267),
completion entries and interrupts (R520, R524, R525), the end of a command. -/

namespace Sys2Proof.Machine

open Sys2Proof

/-! The HDM range. -/

/-- The range of a host address lies in the committed HDM range (R526). -/
def inHdm (s : State) (a n : Nat) : Bool :=
  s.host.hdmCommitted && decide (s.host.hdmBase ≤ a) && decide (a + n ≤ s.host.hdmBase + s.cfg Ent.hdmBytes) && decide (0 < n)

def hdmPage (s : State) (hpa : Nat) : PageId := .hdm ((hpa - s.host.hdmBase) / 65536)

def hdmOwner (s : State) : Nat := s.cfg Ent.hdmOwnerSlot % 4096

/-- R269, R602: the range behaves as one whose key is destroyed. -/
def hdmDead (s : State) : Bool := s.slotState (hdmOwner s) != 1

/-- R267: back the page of a host address with Free lines; none where no stack page is free. -/
def hdmBack (s : State) (hpa : Nat) : Option State :=
  (Mem.allocPage s.mem (hdmPage s hpa) (hdmOwner s) false s.now).map fun r => { s with mem := r.2 }

/-- The node physical address of a host address whose page lies in stack or shelf memory. -/
def hdmAddr (s : State) (hpa : Nat) : Option Nat :=
  ((Mem.page s.mem (hdmPage s hpa)).bind fun p => Mem.Tier.addr p.tier).map fun a => a + (hpa - s.host.hdmBase) % 65536

/-- Put an access on hold; `promotion` where its page lies in flash (R268). -/
def holdAccess (s : State) (hpa : Nat) (write : Option Bytes) (inside promotion : Bool) : State :=
  { s with host := { s.host with
    held := s.host.held ++ [(⟨s.host.nextHeld, hpa, write, s.subticks, inside, promotion⟩ : HeldAccess)], nextHeld := s.host.nextHeld + 1 } }

/-- A write of part of one HDM line made by the node itself (R410, R411). In Neap no move starts (R277): the write waits. -/
def hdmStore (s : State) (hpa : Nat) (data : Bytes) : State :=
  if hdmDead s then s
  else if s.host.hostHeld.contains (hpa / 64) then backInvalidate s ⟨hpa / 64, 1, hpa % 64, data, false, none⟩
  else match Mem.page s.mem (hdmPage s hpa) with
    | none =>
      match hdmBack s hpa with
      | none => holdAccess (s.bump Ent.allocationStalls) hpa (some data) true false
      | some s =>
        match hdmAddr s hpa with
        | some a => (agentWrite s (hdmOwner s) a data).2
        | none => s
    | some p =>
      match hdmAddr s hpa with
      | some a => if dmaHeld s p.id then holdAccess s hpa (some data) true false else (agentWrite s (hdmOwner s) a data).2
      | none =>
        let s := touch s p.id
        if inNeap s then holdAccess s hpa (some data) true true
        else holdAccess ((promote s p 3).2.bump Ent.heldHostAccesses) hpa (some data) true true

/-- A byte string cut at line boundaries: address and bytes of each part. -/
def lineParts (a : Nat) (data : Bytes) : List (Nat × Bytes) :=
  (lines a data.length).map fun l =>
    let lo := max a (l * 64)
    let hi := min (a + data.length) (l * 64 + 64)
    (lo, (data.drop (lo - a)).take (hi - lo))

/-- R523, R411: a posted write; the lines that lie in the node's own HDM range are written inside the node. -/
def State.hostWrite (s : State) (a : Nat) (data : Bytes) : State :=
  if data.isEmpty then s
  else if (lines a data.length).any fun l => inHdm s (l * 64) 64 then
    (lineParts a data).foldl (fun s p => if inHdm s p.1 p.2.length then hdmStore s p.1 p.2 else posted s p.1 p.2) s
  else posted s a data
where
  /-- Over the link, where it stands. -/
  posted (s : State) (a : Nat) (data : Bytes) : State := if s.host.linkUp then s.emit (.hostWrite a data) else s

/-! Interrupts and completions. -/

def State.pair (s : State) (q : Nat) : Pair := s.host.pairs.getD q Pair.cold

def mapPair (s : State) (q : Nat) (f : Pair → Pair) : State :=
  { s with host := { s.host with pairs := modifyAt s.host.pairs q f } }

/-- R525: send the pair's message, or set the pending bit of a masked vector. -/
def sendInterrupt (s : State) (q : Nat) : State :=
  let p := s.pair q
  let s := mapPair s q fun p => { p with uncovered := 0 }
  match s.host.msix[p.vector]? with
  | none => s
  | some m =>
    if m.masked then { s with host := { s.host with msix := s.host.msix.set p.vector { m with pending := true } } }
    else s.emit (.msix m.addr m.data)

/-- The 32 bytes of a completion entry; `specific` goes to bytes 23:8. -/
def completionBytes (c : HostCmd) (p : Pair) (status : Nat) (specific : Bytes) (retry : Nat) : Bytes :=
  leBytes 1 status ++ leBytes 1 c.opcode ++ leBytes 2 c.commandId ++ leBytes 2 (c.pair % 64) ++ leBytes 2 p.sqHead
    ++ padTo 16 specific ++ leBytes 6 (if status = St.retry then retry else 0) ++ [0] ++ leBytes 1 (boolBit p.phase 0)

/-- R412: writes of the node into its HDM range that wait for the host or for a page. -/
def writesParked (s : State) : Bool := (s.host.held.any fun h => h.inside && h.write.isSome) || s.host.bisnp.any fun b => !b.zeroing && b.grants.isNone

/-- R524: write one completion entry; its interrupt is the next thing to go. -/
def putEntry (s : State) (c : HostCmd) (status : Nat) (specific : Bytes) (retry : Nat) : State :=
  let p := s.pair c.pair
  let s := s.hostWrite (p.cqBase + 32 * p.cqTail) (completionBytes c p status specific retry)
  let wraps := p.cqM1 ≤ p.cqTail
  let s := mapPair s c.pair fun p =>
    { p with cqTail := if wraps then 0 else p.cqTail + 1, phase := if wraps then !p.phase else p.phase, uncovered := p.uncovered + 1 }
  let s := s.bump Ent.commandsCompleted
  if p.intEnable ∧ max 1 p.coalCount ≤ p.uncovered + 1 then { s with host := { s.host with late := .signal c.pair :: s.host.late } } else s

/-- R412: completion entries and interrupts go in order, each once no earlier write of the node is parked. -/
def drainLate : Nat → State → State
  | 0, s => s
  | n + 1, s =>
    if writesParked s then s
    else match s.host.late with
      | [] => s
      | .signal q :: r =>
        let s := { s with host := { s.host with late := r } }
        drainLate n (if (s.pair q).uncovered = 0 then s else sendInterrupt s q)
      | .entry c st specific retry :: r => drainLate n (putEntry { s with host := { s.host with late := r } } c st specific retry)

/-- Send what can go now. -/
def sendLate (s : State) : State := drainLate (2 * s.host.late.length) s

/-- R525: the pair's message, behind the entries it covers. -/
def signalLate (s : State) (q : Nat) : State := sendLate { s with host := { s.host with late := s.host.late ++ [.signal q] } }

/-- R412, R524: a command's completion entry, behind its data writes. -/
def writeCompletion (s : State) (c : HostCmd) (status : Nat) (specific : Bytes) (retry : Nat) : State :=
  sendLate { s with host := { s.host with late := s.host.late ++ [.entry c status specific retry] } }

def State.cmd (s : State) (id : Nat) : Option HostCmd := s.host.cmds.find? fun c => c.id == id

/-- End a command: its completion entry, or its count among the discarded (R534, R535). -/
def State.finish (s : State) (id status : Nat) (specific : Bytes) (retry : Nat) : State :=
  match s.cmd id with
  | none => s
  | some c =>
    let s := { s with host := { s.host with cmds := s.host.cmds.filter fun c => c.id != id } }
    if c.lost then s.bump Ent.completionsDiscarded else writeCompletion s c status specific retry

/-- The results of a command, unless it was fetched before a link loss (R535). -/
def State.cmdWrite (s : State) (id a : Nat) (data : Bytes) : State :=
  match s.cmd id with
  | some c => if c.lost then s else s.hostWrite a data
  | none => s

/-- End a command with a status and no figures of its own. -/
def State.refuse (s : State) (id status : Nat) : State := s.finish id status [] (s.now + 1)

/-- End a command with RETRY and a suggested Tide. -/
def State.retryAt (s : State) (id retry : Nat) : State := s.finish id St.retry [] retry

/-- R519: the commands that were fetched from the same pair before have started: their rows have met them. -/
def startsInOrder (s : State) (c : HostCmd) : Bool :=
  !s.host.cmds.any fun x => x.pair == c.pair && decide (x.id < c.id) && !x.started && x.accepted.isNone

/-- A command that has been fetched, whose turn to start has come and whose row has not run. -/
def State.waitingCmd (s : State) (id op : Nat) : Option HostCmd :=
  (s.cmd id).filter fun c => c.opcode == op && !c.started && startsInOrder s c

/-- Its row runs now. -/
def startCmd (s : State) (id : Nat) : State :=
  let fix (c : HostCmd) : HostCmd := if c.id = id then { c with started := true } else c
  { s with host := { s.host with cmds := s.host.cmds.map fix } }

/-! Reads of command inputs (R411, R523). -/

/-- The bytes of one Tiered page in flash, as a promotion would place them: from buffers, programs in flight or the map. -/
def flashLine (s : State) (p : Page) (off : Nat) : Option Bytes :=
  if p.lostLines.contains (off / 64) then none
  else if !(p.states.any fun q => q.1 == off / 64) then some (List.replicate 64 0)
  else
    let l := (pageCodewords p.id p.swap).getD (off / 4096) 0
    if s.flash.lost.contains l then none
    else
      let data := match Flash.buffered s.flash l with
        | some w => w.data
        | none => match (s.flash.map.lookup l).bind (Flash.codewordAt s.flash) with
          | some w => w.data
          | none => []
      some (padTo 64 (data.drop (off % 4096)))

/-- One line of the HDM range as the node itself reads it for an owner (R256): status and bytes. -/
def hdmLine (s : State) (owner hpa : Nat) : Nat × Bytes :=
  if hdmDead s then (St.ok, List.replicate 64 0)
  else match Mem.page s.mem (hdmPage s hpa) with
    | none => (St.ok, List.replicate 64 0)
    | some p =>
      match hdmAddr s (hpa / 64 * 64) with
      | some a =>
        let s := Coh.settled s a 64
        let st := Coh.check s owner (lineOf a)
        if st = St.ok then (st, padTo 64 (Coh.supply s (lineOf a)).1) else (st, [])
      | none =>
        let off := (hpa - s.host.hdmBase) % 65536 / 64 * 64
        if p.owner ≠ owner ∧ p.states.any (fun q => q.1 == off / 64) then (St.accessDenied, [])
        else match flashLine s p off with
        | some b => (St.ok, b)
        | none => (St.uncorrectable, [])

/-- The status of a read over the link. -/
def linkStatus : HostRead → Nat
  | .ok _ => St.ok
  | .bad .poisoned => St.uncorrectable
  | .bad _ => St.accessDenied

/-- The line of a buffer that the host's answer gives; the buffer begins at byte `a`. -/
def linkLine (read : HostRead) (a n l : Nat) : Nat × Bytes :=
  let b := match read with
    | .ok b => padTo n b
    | .bad _ => []
  (linkStatus read, padTo 64 ((List.replicate (a % 64) 0 ++ b).drop (64 * (l - a / 64))))

/-- An input that an owner reads: its lines in the node's own HDM range from there (R411), the others as the host answered for
the buffer. The highest status of a line (R12) and the bytes. -/
def readFor (s : State) (owner a n : Nat) (read : HostRead) : Nat × Bytes :=
  if n = 0 then (St.ok, [])
  else
    let parts := (lines a n).map fun l => if inHdm s (l * 64) 64 then hdmLine s owner (l * 64) else linkLine read a n l
    let st := (parts.map (·.1)).foldl max St.ok
    if st ≠ St.ok then (st, []) else (St.ok, ((parts.flatMap (·.2)).drop (a % 64)).take n)

/-- An input of a command, read under the range's owner slot. -/
def readInput (s : State) (a n : Nat) (read : HostRead) : Nat × Bytes := readFor s (hdmOwner s) a n read

/-- The HDM pages of a range of host addresses. -/
def hdmPages (s : State) (a n : Nat) : List PageId :=
  (((lines a n).filter fun l => inHdm s (l * 64) 64).map fun l => hdmPage s (l * 64)).eraseDups

/-- R262, R402: the transfer of an input comes behind the earlier requests to its lines in the HDM range, and touches its pages
there. -/
def touchInput (s : State) (a n : Nat) : State :=
  let own := ((lines a n).filter fun l => inHdm s (l * 64) 64).filterMap fun l => hdmAddr s (l * 64)
  (hdmPages s a n).foldl touch (own.foldl (fun s b => Coh.settled s b 64) s)

/-- R272, R275, R411: work on an input waits while a page of it lies in flash, or moves to stack or shelf memory. -/
def inputHeld (s : State) (a n : Nat) : Bool :=
  !hdmDead s && (hdmPages s a n).any fun id => dmaHeld s id || (Mem.page s.mem id).any fun p => p.tier == .flash

/-- R268: the promotion of an input's pages in flash starts. -/
def fetchInput (s : State) (a n : Nat) : State :=
  if inNeap s || hdmDead s then s
  else (hdmPages s a n).foldl (fun s id => match Mem.page s.mem id with
    | some p => if p.tier = .flash then (promote (touch s id) p 3).2 else s
    | none => s) s

/-- Where a command is accepted: now, or where its row first met it (R31). -/
def acceptance (s : State) (c : HostCmd) : Nat × Nat := c.accepted.getD (s.now, s.subticks)

/-- A command whose row has met it waits; it counts as accepted from here on (R31). -/
def holdCmd (s : State) (id : Nat) : State :=
  let fix (c : HostCmd) : HostCmd := if c.id = id then { c with accepted := some (acceptance s c) } else c
  { s with host := { s.host with cmds := s.host.cmds.map fix } }

/-- A command waits for the pages of input buffers, whose promotion starts (R268, R272). -/
def holdInputs (s : State) (id : Nat) (l : List (Nat × Nat)) : State :=
  let s := holdCmd (l.foldl (fun s q => fetchInput s q.1 q.2) s) id
  let fix (c : HostCmd) : HostCmd := if c.id = id then { c with inputs := l } else c
  { s with host := { s.host with cmds := s.host.cmds.map fix } }

/-- R281: a command that needs stack pages waits for a demotion, which starts now; AllocationStalls counts the wait once. Its row may
run again. -/
def stallCmd (s : State) (id : Nat) : State :=
  let counted := match s.cmd id with
    | some c => c.stalled
    | none => true
  let fix (c : HostCmd) : HostCmd := if c.id = id then { c with started := false, stalled := true, accepted := some (acceptance s c) } else c
  let s := { s with host := { s.host with cmds := s.host.cmds.map fix } }
  s.bump Ent.allocationStalls (if counted then 0 else 1)

/-- R278, R281: demotions start when a request finds no free stack page. -/
def demoteFor (s : State) : State := if inNeap s || s.num Ent.flashReady == 0 then s else demoteNow s

/-- R281: demotions that will free stack pages are under way. -/
def pagesComing (s : State) : Bool := decide (0 < comingFree s)

/-- R281: a request for stack pages that no status ends waits until pages are free. -/
def awaitPages (s : State) (cmd : Nat) : State := stallCmd (demoteFor s) cmd

/-- R281, R349: a command for which no stack page is free waits for the demotions under way; where none will free a page, it ends. -/
def waitForPages (s : State) (cmd : Nat) (refused : State → State) : State :=
  let s := demoteFor s
  if pagesComing s then stallCmd s cmd else refused s

end Sys2Proof.Machine
end

