-- ==== Sys2Proof/Machine/NearBank.lean ====
section
/-! DEFINITION. Near-bank units (09_near_bank.md): where a row lies (R287), the command words and their checks (R294, R298),
row reads and writes (R289, R290), the effect of each command (R298 to R302), the end of a sequence (R297, R308), and the sequences
that operators and scans issue (R295, R304). -/

namespace Sys2Proof.Machine

open Sys2Proof Sys2Proof.Num

namespace Nb

/-! Banks and rows. -/

/-- A bank that has had no work. -/
def fresh (id : Nat) : Bank :=
  { id := id, queue := [], running := false, acc := List.replicate 1024 0, regs := List.replicate 8 0, emulated := false, opens := []
    opened := [], group := 0, refreshSlots := 0, staged := [], extWait := 0, grant := .none, recent := [], waited := 0
    visits := 0, extWaiting := false }

def bank (s : State) (id : Nat) : Bank :=
  match s.nb.banks.find? fun b => b.id == id with
  | some b => b
  | none => fresh id

/-- Change a bank; one without an entry gets one. -/
def mapBank (s : State) (id : Nat) (f : Bank → Bank) : State :=
  if s.nb.banks.any fun b => b.id == id then
    { s with nb := { s.nb with banks := s.nb.banks.map fun b => if b.id == id then f b else b } }
  else { s with nb := { s.nb with banks := s.nb.banks ++ [f (fresh id)] } }

/-- R287: the node physical address of a bank's row. -/
def rowAddr (bank row : Nat) : Nat :=
  stackBase (bank / 512) + (row / 32 * 512 + bank % 512) * 65536 + row % 32 * 2048

/-- R287: the row of a stack address. -/
def rowOf (a : Nat) : Nat :=
  let o := a % 0x1400000000
  o / 65536 / 512 * 32 + o / 2048 % 32

/-- R287: the global bank ID of a stack address. -/
def bankOf (a : Nat) : Nat := a / 0x1400000000 * 512 + a % 0x1400000000 / 65536 % 512

/-! Command words. -/

/-- Bytes that an ACCOUT writes for `n` accumulators of which `k` pass: padding excluded. -/
def outBytes (mode n k : Nat) : Nat :=
  match mode with
  | 0 => 8 * n
  | 1 => 4 * n
  | 4 => ((n + 7) / 8 + 3) / 4 * 4 + 4 * k
  | _ => (n + 7) / 8

/-- The rows that a command names (R288, R294). -/
def rows : NbCmd → List Nat
  | .rowCopy a b => [a, b]
  | .rowInit d _ _ => [d]
  | .rowLogic d a b op => if op = 6 then [d, a] else [d, a, b]
  | .opLoadRow _ r _ => [r]
  | .popAcc r .. => [r]
  | .accOut mode _ n row line _ => (List.range ((line * 64 + outBytes mode n n + 2047) / 2048)).map (row + ·)
  | _ => []

/-- R298: a decoded command whose fields lie in their ranges; the output of PACK32 is judged by its greatest length
(DEDUCED, notes/assumptions/28.md). -/
def fieldsOk : NbCmd → Bool
  | .rowInit _ p _ => p != 3
  | .rowLogic _ _ _ op => op != 7
  | .popAcc _ start n wl op r m base w sh _ _ =>
    start % 8 == 0 && decide (1 ≤ n) && decide (n ≤ 1024) && decide (wl ≤ 10) && decide (start + n * 2 ^ wl ≤ 16384) && decide (op ≤ 4)
      && decide (1 ≤ m) && decide (m ≤ 8) && decide (r + m ≤ 8) && (decide (2 ≤ op) || m == 1) && decide (base + n ≤ 1024)
      && decide (w * 2 ^ sh < 2 ^ 29)
  | .accOut mode base n row line _ =>
    decide (mode ≤ 4) && decide (1 ≤ n) && decide (n ≤ 1024) && decide (base + n ≤ 1024)
      && decide (row % 32 * 2048 + line * 64 + (outBytes mode n n + 63) / 64 * 64 ≤ 65536)
  | _ => true

/-- One command word, apart from the payload of an inline OPLOAD; none for a reserved opcode. -/
def decodeWord (w : Nat) (payload : Bytes) : Option NbCmd :=
  match bits w 7 0 with
  | 0 => some .end_
  | 1 => some (.rowCopy (bits w 24 8) (bits w 41 25))
  | 2 => some (.rowInit (bits w 24 8) (bits w 26 25) (bits w 29 27))
  | 3 => some (.rowLogic (bits w 24 8) (bits w 41 25) (bits w 58 42) (bits w 61 59))
  | 4 => if bit w 11 then some (.opLoadRow (bits w 10 8) (bits w 28 12) (bits w 32 29)) else some (.opLoadInline (bits w 10 8) (leNat payload))
  | 5 => some (.popAcc (bits w 24 8) (bits w 38 25) (bits w 49 39) (bits w 53 50) (bits w 56 54) (bits w 59 57) (bits w 63 60) (bits w 73 64)
      (bits w 90 74) (bits w 94 91) (bit w 95) (bit w 96))
  | 6 => some (.accOut (bits w 10 8) (bits w 20 11) (bits w 31 21) (bits w 48 32) (bits w 53 49) (bits w 95 64))
  | _ => none

/-- R294, R298: the commands of a list with their positions, or none where a check fails. An inline OPLOAD takes the 8
words after it, which are never decoded. -/
def decodeList : Nat → Nat → List Bytes → Option (List (Nat × NbCmd))
  | 0, _, _ => some []
  | _ + 1, _, [] => some []
  | n + 1, pos, w :: r =>
    match decodeWord (leNat w) (r.take 8).flatten with
    | none => none
    | some c =>
      if !fieldsOk c || (rows c).any fun x => decide (81919 < x) then none
      else match c with
        | .opLoadInline _ _ => if r.length < 8 then none else (decodeList n (pos + 9) (r.drop 8)).map ((pos, c) :: ·)
        | _ => (decodeList n (pos + 1) r).map ((pos, c) :: ·)

/-- Command words that a command takes. -/
def words : NbCmd → Nat
  | .opLoadInline _ _ => 9
  | _ => 1

/-! Opens. -/

/-- R320: a bank with an emulated unit is read and written through the stack port. -/
def byUnit (s : State) (id : Nat) : Nat := if (bank s id).emulated then 0 else 1

/-- R288, R314, R572: the physical row that serves a row: a spare row, numbered from 81,920 on, or its own. -/
def physRow (s : State) (bank row : Nat) : Nat :=
  match (s.rel.spareRows.filter fun x => x.1 == unitId 5 bank && x.2.1 == row).getLast? with
  | some x => 81920 + x.2.2
  | none => row

/-- R316, R317: note an open of a row by any use. -/
def noteOpen (s : State) (id row : Nat) : State :=
  let row := physRow s id row
  mapBank s id fun b =>
    let n := (b.opens.lookup row).getD 0
    { b with
      opens := (b.opens.filter fun (x : Nat × Nat) => x.1 != row) ++ [(row, n + 1)]
      opened := (b.opened.filter fun (x : Nat × Nat) => x.1 != row) ++ [(row, b.visits)] }

/-- R289, R290, R307, R319, R406: a line as the unit reads it from memory, under an owner. -/
def readLine (s : State) (owner line : Nat) : Except Nat (Option Bytes) :=
  if s.mem.bad.contains line || s.coh.lost.contains (line * 64) then .error St.uncorrectable
  else match Coh.memLine s line with
    | (_, none) => .ok none
    | (b, some o) => if o = owner ∧ s.keyed owner then .ok (some b) else .error St.accessDenied

/-- The lines of a row, or the first status that refuses one. -/
def readLines (s : State) (owner : Nat) : List Nat → Except Nat (List (Option Bytes))
  | [] => .ok []
  | l :: r => match readLine s owner l, readLines s owner r with
    | .error e, _ => .error e
    | .ok _, .error e => .error e
    | .ok x, .ok y => .ok (x :: y)

/-- The 32 line numbers of a row. -/
def rowLines (bank row : Nat) : List Nat := (List.range 32).map (· + lineOf (rowAddr bank row))

/-- Bring a row into a staging buffer unless it stands in one. -/
def openRow (s : State) (id row owner : Nat) : Except Nat (List (Option Bytes)) × State :=
  match (bank s id).staged.lookup row with
  | some d => (.ok d, s)
  | none =>
    let s := touchAddr (noteOpen (s.bump Ent.rowOpens (byUnit s id)) id row) (rowAddr id row)
    match readLines s owner (rowLines id row) with
    | .error e => (.error e, s)
    | .ok d => (.ok d, mapBank s id fun b => { b with staged := ((row, d) :: b.staged).take 2 })

def plain (x : Option Bytes) : Bytes := x.getD (List.replicate 64 0)

/-- The 16,384 bits of a row. -/
def rowBits (d : List (Option Bytes)) : Nat := leNat (d.flatMap plain)

/-! Writes. -/

/-- R290: write lines, Plane lines of an owner or Free lines. A Free line stays so where a leaf lies. -/
def putLines (s : State) (id owner first : Nat) (ls : List (Option Bytes)) : State :=
  let ns := (List.range ls.length).map (first + ·)
  let free := (ns.zip ls).filterMap fun q => if q.2.isNone && (s.treeLine q.1).isSome then some q.1 else none
  let s := { s with mem := { s.mem with blank := (s.mem.blank.filter fun l => !ns.contains l) ++ free } }
  let m := (ns.zip ls).foldl (fun (m : MemUnit) (q : Nat × Option Bytes) => match q.2 with
    | none => Mem.setLine m q.1 none []
    | some d => Mem.setLine m q.1 (some (owner, true)) d) s.mem
  let rowsHit := (ns.map fun n => rowOf (n * 64)).eraseDups
  let s := touchAddr { s with mem := m } (first * 64)
  let s := mapBank s id fun b =>
    let fix (q : NbSeq) : NbSeq := { q with wrote := (q.wrote ++ ns).eraseDups }
    { b with
      staged := b.staged.filter fun (x : Nat × List (Option Bytes)) => !rowsHit.contains x.1
      queue := match b.queue with
        | [] => []
        | q :: r => fix q :: r }
  rowsHit.foldl (fun s r => noteOpen (s.bump Ent.rowWrites (byUnit s id)) id r) s

def putRow (s : State) (id owner row : Nat) (ls : List (Option Bytes)) : State := putLines s id owner (lineOf (rowAddr id row)) ls

/-- A row of 32 Plane lines. -/
def planeRow (b : Bytes) : List (Option Bytes) := (List.range 32).map fun i => some (padTo 64 (b.drop (64 * i)))

/-! Arithmetic. -/

/-- ROWLOGIC on 2,048-byte rows. -/
def logic (op : Nat) (a b : Nat) : Nat :=
  let m := 2 ^ 16384 - 1
  match op with
  | 0 => a &&& b
  | 1 => a ||| b
  | 2 => a ^^^ b
  | 3 => m - (a ^^^ b)
  | 4 => a &&& (m - b)
  | 5 => a ||| (m - b)
  | _ => m - a

/-- R300: the value of one segment. -/
def segValue (regs : List Nat) (seg w op r m : Nat) (signedMask : Bool) : Int :=
  let ones := 2 ^ w - 1
  ((List.range m).map fun c =>
    let k := regs.getD (r + c) 0 % 2 ^ w
    let x := match op with
      | 0 => seg
      | 1 => ones - seg
      | 2 => seg &&& k
      | 3 => seg ^^^ k
      | _ => seg &&& (ones - k)
    let v : Int := (popcount x * 2 ^ c : Nat)
    if signedMask && c + 1 == m then -v else v).sum

/-- R300, R301: POPACC's sums added into the accumulators. -/
def popAcc (acc : List Int) (regs : List Nat) (row start n wl op r m base weight shift : Nat) (sub signedMask : Bool) : List Int :=
  let w := 2 ^ wl
  (List.range acc.length).zip acc |>.map fun q =>
    if base ≤ q.1 ∧ q.1 < base + n then
      let v := segValue regs (row / 2 ^ (start + (q.1 - base) * w) % 2 ^ w) w op r m signedMask
      let d := v * (weight * 2 ^ shift : Nat)
      if sub then q.2 - d else q.2 + d
    else q.2

/-- A value as int32, with the limit on its side beyond the range. -/
def sat32 (v : Int) : Int := if v < -(2 ^ 31) then -(2 ^ 31) else if 2 ^ 31 - 1 < v then 2 ^ 31 - 1 else v

/-- Two's complement in `n` bytes. -/
def intBytes (n : Nat) (v : Int) : Bytes := leBytes n (v % (2 ^ (8 * n) : Int)).toNat

def bitmap (l : List Bool) : Bytes :=
  (List.range ((l.length + 7) / 8)).map fun j => BitVec.ofNat 8 (((List.range 8).map fun i => boolBit (l.getD (8 * j + i) false) i).sum)

/-- R302: the output of an ACCOUT and the number of values it saturated. -/
def accOut (mode : Nat) (vs : List Int) (threshold : Nat) : Bytes × Nat :=
  let t : Int := ofBits 32 threshold
  let le := vs.map fun v => decide (v ≤ t)
  let clipped (l : List Int) : Nat := (l.filter fun v => sat32 v != v).length
  match mode with
  | 0 => (vs.flatMap (intBytes 8), 0)
  | 1 => (vs.flatMap fun v => intBytes 4 (sat32 v), clipped vs)
  | 2 => (bitmap le, 0)
  | 3 => (bitmap (vs.map fun v => decide (t ≤ v)), 0)
  | _ =>
    let some_ := vs.filter fun v => decide (v ≤ t)
    let m := bitmap le
    (m ++ List.replicate ((4 - m.length % 4) % 4) 0 ++ some_.flatMap fun v => intBytes 4 (sat32 v), clipped some_)

/-! Sequences. -/

/-- The sequence that a bank runs. -/
def current (s : State) (id : Nat) : Option NbSeq :=
  let b := bank s id
  if b.running then b.queue.head? else none

def mapSeq (s : State) (id : Nat) (f : NbSeq → NbSeq) : State :=
  mapBank s id fun b => { b with queue := match b.queue with
    | [] => []
    | q :: r => f q :: r }

/-- The next command is done. -/
def stepSeq (s : State) (id : Nat) (c : NbCmd) : State :=
  mapSeq s id fun q => { q with left := q.left.tail, done := q.done + words c }

/-- R297: the next command fails. -/
def failSeq (s : State) (id pos st : Nat) : State := mapSeq s id fun q => { q with left := [], status := st, failed := pos }

/-! What the commands do. -/

/-- The rows that a command opens. -/
def opens : NbCmd → List Nat
  | .rowCopy a _ => [a]
  | .rowLogic _ a b op => if op = 6 then [a] else [a, b]
  | .opLoadRow _ r _ => [r]
  | .popAcc r .. => [r]
  | _ => []

/-- The lines of a ROWINIT's pattern: Free lines, ones, or an operand register repeated. -/
def initLines (b : Bank) (p r : Nat) : List (Option Bytes) :=
  if p = 0 then List.replicate 32 none
  else if p = 1 then planeRow (List.replicate 2048 0xFF)
  else planeRow ((List.replicate 16 (leBytes 128 (b.regs.getD r 0))).flatten)

/-- The lines that a ROWLOGIC writes (R299). -/
def logicLines (op : Nat) (ds : List (List (Option Bytes))) : List (Option Bytes) :=
  planeRow (leBytes 2048 (logic op (rowBits (ds.headD [])) (rowBits (ds.getD 1 []))))

/-- An operand register of the bank's unit takes a value. -/
def setOperand (s : State) (id r v : Nat) : State := mapBank s id fun b => { b with regs := b.regs.set r v }

/-- OPLOAD (R298). -/
def loadEffect (id : Nat) (c : NbCmd) (ds : List (List (Option Bytes))) (s : State) : State :=
  match c with
  | .opLoadInline r v => setOperand s id r v
  | .opLoadRow r _ span => setOperand s id r (rowBits (ds.headD []) / 2 ^ (1024 * span) % 2 ^ 1024)
  | _ => s

/-- POPACC (R300). -/
def popEffect (id : Nat) (c : NbCmd) (ds : List (List (Option Bytes))) (s : State) : State :=
  match c with
  | .popAcc _ start n wl op r m base w sh sub sg =>
    mapBank s id fun b => { b with acc := popAcc b.acc b.regs (rowBits (ds.headD [])) start n wl op r m base w sh sub sg }
  | _ => s

/-- R302: whole lines from DstLine of DstRow on, the last padded with zeros. -/
def outEffect (id owner : Nat) (c : NbCmd) (s : State) : State :=
  match c with
  | .accOut mode base n row line t =>
    let out := accOut mode (((bank s id).acc.drop base).take n) t
    let ls : List (Option Bytes) := (List.range ((out.1.length + 63) / 64)).map fun i => some (padTo 64 (out.1.drop (64 * i)))
    let s := putLines s id owner (lineOf (rowAddr id row) + line) ls
    (mapSeq s id fun q => { q with outputBytes := out.1.length, saturated := q.saturated + out.2 }).bump Ent.saturatedOutputs out.2
  | _ => s

/-- The completion record (R297); Cycles is a free value: the model keeps no near-bank clock. -/
def record (q : NbSeq) (cycles : Nat) : Bytes :=
  leBytes 1 q.status ++ [1, 0, 0] ++ leBytes 4 q.tag ++ leBytes 4 q.done ++ leBytes 4 (if q.status = St.ok then 0xFFFFFFFF else q.failed)
    ++ leBytes 4 q.outputBytes ++ leBytes 4 q.saturated ++ leBytes 4 cycles ++ leBytes 4 0

/-- R297, R308: the sequence at the head of a bank's queue ends: cached copies of the lines it wrote are dropped, the
completion record is written, and its pages are no longer busy. A scan of firmware has no record (log 85). -/
def endSeq (s : State) (id : Nat) (q : NbSeq) : State :=
  let s := { s with coh := q.wrote.foldl Coh.dropLine s.coh }
  let s := if q.scan.isSome then s
    else
      let (c, s) := s.drawFree
      (agentWrite s q.owner q.completion (record q (c % 2 ^ 32))).2
  let s := mapBank s id fun b => { b with queue := b.queue.tail, running := false, staged := [] }
  s.bump (if q.status = St.ok then Ent.sequencesCompleted else Ent.sequencesFailed)

/-! Service of the units. -/

/-- The near-bank units run (they are reset with the clusters, R321). -/
def runs (s : State) : Bool := s.up 5 && s.up 7

/-- A bank whose unit is out of service for a block reset (R628). -/
def held (s : State) (id : Nat) : Bool := s.rst.quiescing.contains (3 * 2 ^ 24 + id) || s.rst.quiesced.contains (3 * 2 ^ 24 + id)

/-- A test of the bank's unit holds its queue (R571). -/
def tested (s : State) (id : Nat) : Bool := s.rel.tests.any fun t => t.begun && t.unit == unitId 7 id

/-- R293, R322: the issue port accepts a sequence for a bank. -/
def takes (s : State) (id : Nat) : Bool := runs s && decide ((bank s id).queue.length < 8) && !held s id && !inNeap s

/-- A bank that can take and run a sequence at once. -/
def idle (s : State) (id : Nat) : Bool := takes s id && (bank s id).queue.isEmpty && !tested s id

/-! Sequences that an operator or a scan issues and awaits. The bank's queue is empty; firmware reads the accumulators as the sequence
leaves them, and its command list and completion record are not kept (DESIGN CHOICE, notes/assumptions/85.md). -/

/-- One command of such a sequence, after the rows it opens. -/
def runCmd (id owner : Nat) (c : NbCmd) (s : State) : Nat × State :=
  let r := (opens c).foldl (fun (acc : Nat × List (List (Option Bytes)) × State) row =>
    if acc.1 ≠ St.ok then acc
    else match openRow acc.2.2 id row owner with
      | (.error e, s) =>
        (e, [], if e = St.uncorrectable then { s with nb := { s.nb with badRows := s.nb.badRows ++ [(id, row)] } } else s)
      | (.ok d, s) => (St.ok, acc.2.1 ++ [d], s)) (St.ok, [], s)
  if r.1 ≠ St.ok then (r.1, r.2.2)
  else (St.ok, mapSeq (outEffect id owner c (popEffect id c r.2.1 (loadEffect id c r.2.1 r.2.2))) id fun q => { q with done := q.done + words c })

/-- R307: every cached line of a page that has been modified is written back. -/
def writeBack (s : State) (a : Nat) : State :=
  let here (n : Nat) : Bool := pageOf (n * 64) == a
  (((s.coh.l1.map (·.line)) ++ s.coh.slice.map (·.line)).filter here).foldl Coh.clean s

/-- R293 to R297, R304: one sequence of firmware, from issue to end: its status and its accumulators. -/
def runSeq (s : State) (id owner : Nat) (cmds : List NbCmd) : Nat × List Int × State :=
  let pages := ((cmds.flatMap rows).map fun r => pageOf (rowAddr id r)).eraseDups
  if pages.any fun a => !Mem.planeOf s.mem a owner then (St.accessDenied, [], s.bump Ent.sequencesFailed)
  else
    let s := pages.foldl (fun s a => touchAddr (writeBack s a) a) s
    let q : NbSeq :=
      { owner := owner, tag := 0, completion := 0, cmds := [], left := [], count := cmds.length, done := 0, pages := pages
        outputBytes := 0, saturated := 0, wrote := [], status := St.ok, failed := 0, scan := none }
    let s := mapBank s id fun b => { b with queue := [q], running := true, acc := List.replicate 1024 0, staged := [] }
    let r := cmds.foldl (fun (acc : Nat × State) c => if acc.1 ≠ St.ok then acc else runCmd id owner c acc.2) (St.ok, s)
    let wrote := match (bank r.2 id).queue with
      | q :: _ => q.wrote
      | [] => []
    let acc := (bank r.2 id).acc
    let s := { r.2 with coh := wrote.foldl Coh.dropLine r.2.coh }
    let s := mapBank s id fun b => { b with queue := [], running := false, staged := [] }
    (r.1, acc, s.bump (if r.1 = St.ok then Ent.sequencesCompleted else Ent.sequencesFailed))

/-- R293, R294: a sequence of firmware that waits for its turn in the queue of a bank. -/
def enqueue (s : State) (id owner : Nat) (cmds : List NbCmd) (scan : SketchScan) : State :=
  let pages := ((cmds.flatMap rows).map fun r => pageOf (rowAddr id r)).eraseDups
  let s := pages.foldl (fun s a => touchAddr (writeBack s a) a) s
  let list := (List.range cmds.length).zip cmds
  let q : NbSeq :=
    { owner := owner, tag := 0, completion := 0, cmds := list, left := list, count := cmds.length, done := 0, pages := pages
      outputBytes := 0, saturated := 0, wrote := [], status := St.ok, failed := 0, scan := some scan }
  mapBank s id fun b => { b with queue := b.queue ++ [q] }

/-! The products of R304. -/

/-- The planes of a code vector: bit i of plane c is bit c of code i. -/
def codePlanes (m : Nat) (codes : List Nat) : List Nat :=
  (List.range m).map fun c => (((List.range codes.length).zip codes).map fun q => if q.2.testBit c then 2 ^ q.1 else 0).sum

/-- The binary logarithm of a power of two. -/
def log2 (n : Nat) : Nat := bitLen n - 1

def loadPlanes (planes : List Nat) : List NbCmd := ((List.range planes.length).zip planes).map fun q => .opLoadInline q.1 q.2

/-- POPACC over the B planes of a tile whose first row is given: `n` segments of `w` bits, added from an accumulator on. -/
def tilePops (row b n w m base : Nat) : List NbCmd :=
  (List.range b).map fun i => .popAcc (row + i) 0 n (log2 w) 2 0 m base 1 i (i + 1 == b) true

/-- The numbers of tiles, by the bank that holds each. -/
def byBank (addrs : List Nat) : List (Nat × List Nat) :=
  let ix := (List.range addrs.length).zip addrs
  ((addrs.map bankOf).eraseDups).map fun k => (k, (ix.filter fun q => bankOf q.2 == k).map (·.1))

/-- The banks that hold tiles can all take a sequence. -/
def idleAll (s : State) (addrs : List Nat) : Bool := addrs.all fun a => idle s (bankOf a)

/-- q·Kᵀ (R304) over tiles of `t` tokens at the given addresses: the sums of all their tokens in order. A sequence takes as many tiles of
its bank as the accumulators hold. -/
def keyProducts (s : State) (owner dh b t : Nat) (planes addrs : List Nat) : Nat × List Int × State :=
  let jobs : List (Nat × List Nat) := (byBank addrs).flatMap fun g => (cut (max 1 (1024 / t)) (g.2.length + 1) g.2).map fun l => (g.1, l)
  let r := jobs.foldl (fun (acc : Nat × List (Nat × List Int) × State) j =>
    if acc.1 ≠ St.ok then acc
    else
      let q := runSeq acc.2.2 j.1 owner (loadPlanes planes ++ ((List.range j.2.length).zip j.2).flatMap fun p =>
        tilePops (rowOf (addrs.getD p.2 0)) b t dh planes.length (p.1 * t))
      (q.1, acc.2.1 ++ ((List.range j.2.length).zip j.2).map (fun p => (p.2, (q.2.1.drop (p.1 * t)).take t)), q.2.2)) (St.ok, [], s)
  (r.1, (List.range addrs.length).flatMap fun i => (r.2.1.lookup i).getD [], r.2.2)

/-- p·V (R304) over tiles with their weight planes: one sequence for each bank; a core adds the sums of the banks (R295). -/
def valueProducts (s : State) (owner dh b t : Nat) (tiles : List (Nat × List Nat)) : Nat × List Int × State :=
  (byBank (tiles.map (·.1))).foldl (fun (acc : Nat × List Int × State) g =>
    if acc.1 ≠ St.ok then acc
    else
      let q := runSeq acc.2.2 g.1 owner (g.2.flatMap fun i =>
        let tile := tiles.getD i (0, [])
        loadPlanes tile.2 ++ tilePops (rowOf tile.1) b dh t tile.2.length 0)
      (q.1, (acc.2.1.zip q.2.1).map (fun p => p.1 + p.2), q.2.2)) (St.ok, List.replicate dh 0, s)

end Nb

end Sys2Proof.Machine
end

