-- ==== Sys2Proof/Machine/Tide.lean ====
section
/-! DEFINITION. The Tide unit's own arithmetic: pulse symbols, count frames, windows, periods, beacons (02_tide.md). What
a boundary does in the rest of the node is in Boundary.lean, and the commands are in TideRows.lean. -/

namespace Sys2Proof.Machine

open Sys2Proof

def TideState.code : TideState → Nat
  | .acquiring => 0
  | .locked => 1
  | .holdover => 2
  | .adrift => 3

/-- R45: the symbol of a pulse by the phase of its falling edge; no falling edge is Invalid, nor is one at phase 0 a symbol
(DESIGN CHOICE, notes/assumptions/80.md). -/
def classify : Option Nat → Symbol
  | none => .invalid
  | some p => if 1 ≤ p ∧ p ≤ 255 then .zero else if 256 ≤ p ∧ p ≤ 511 then .one
      else if 512 ≤ p ∧ p ≤ 767 then .marker else .invalid

/-- R44, R45: the phase at which the falling edge of a symbol is sent. -/
def Symbol.fall : Symbol → Nat
  | .zero => 128
  | .one => 384
  | .marker => 640
  | .invalid => 896

def Symbol.ofBit (b : Bool) : Symbol := if b then .one else .zero

/-- R46: the symbol that the boundary of count `c` carries in its frame. -/
def frameSymbol (c : Nat) : Symbol :=
  let i := c % 64
  let n := c - i
  if i = 0 then .marker
  else if i ≤ 48 then Symbol.ofBit (n.testBit (i - 1))
  else if i ≤ 56 then Symbol.ofBit ((crc8 (leBytes 6 n)).testBit (i - 49))
  else .zero

/-- The number that 0 and 1 symbols spell, bit 0 first; none where a marker or an invalid symbol stands among them. -/
def symbolsNat : List Symbol → Option Nat
  | [] => some 0
  | x :: r =>
    match x, symbolsNat r with
    | .zero, some v => some (2 * v)
    | .one, some v => some (2 * v + 1)
    | _, _ => none

/-- R46, R47: the implied count of the 64 symbols of a frame, or none where it is discarded, also for last symbols that are not all 0
(DESIGN CHOICE, notes/assumptions/80.md). -/
def frameCount (l : List Symbol) : Option Nat :=
  match l with
  | .marker :: r =>
    match symbolsNat (r.take 48), symbolsNat ((r.drop 48).take 8), symbolsNat (r.drop 56) with
    | some n, some c, some z =>
      if r.length = 63 ∧ n % 64 = 0 ∧ c = crc8 (leBytes 6 n) ∧ z = 0 then some (n + 64) else none
    | _, _, _ => none
  | _ => none

/-- R36: an interval lies within 0.1% of the period. -/
def atPeriod (period interval : Nat) : Bool :=
  (if interval < period then period - interval else interval - period) * 1000 ≤ period

/-- R43: how many sub-ticks a boundary that an edge places lies before that edge, by the period and delay that hold from it
on. -/
def TideUnit.delayTicks (t : TideUnit) : Nat :=
  let p := t.nextPeriod.getD (t.periodNs, t.delayNs)
  p.2 * 1024 / p.1

/-- Nanoseconds from the edge that placed a boundary last to an edge that comes `interval` after the edge before it; for a
first edge, the phase less the delay tells (notes/assumptions/14.md). -/
def TideUnit.elapsed (t : TideUnit) (interval : Nat) : Nat :=
  if t.anyEdge then t.placedNs + interval else (t.made * 1024 + t.phase + t.overrun) * t.periodNs / 1024 - t.delayNs

/-- R50: an edge so long after the last placed boundary comes within 64 sub-ticks of the next boundary. -/
def TideUnit.inWindow (t : TideUnit) (x : Nat) : Bool :=
  let due := (t.made + 1) * t.periodNs
  decide ((if x < due then due - x else x - due) * 16 ≤ t.periodNs)

/-- The node's own count at an edge: its boundary nearest to it. -/
def TideUnit.ownAtEdge (t : TideUnit) (x : Nat) : Nat := t.count + (2 * x + t.periodNs) / (2 * max 1 t.periodNs) - t.made

/-- R36, 0x2000.0B: note the interval of an edge that is not ignored, and set or clear the period fault by the mean of 64. Every
interval between consecutive edges counts, one that spans missed edges too (DEDUCED, notes/assumptions/14.md). The manual gives a
mean in ns and no rounding: it is rounded down (DESIGN CHOICE, notes/assumptions/80.md). -/
def TideUnit.measure (t : TideUnit) (interval : Nat) : TideUnit :=
  let l := (t.intervals ++ [interval]).drop (t.intervals.length + 1 - 64)
  let m := if l.length = 64 then l.sum / 64 else 0
  { t with
    intervals := l
    measuredNs := m
    periodFault := if l.length = 64 then !atPeriod t.periodNs m else t.periodFault
    periodRun := if atPeriod t.periodNs interval then t.periodRun + 1 else 0 }

/-- Note the symbol of a pulse. -/
def TideUnit.note (t : TideUnit) (x : Symbol) : TideUnit :=
  { t with symbols := (t.symbols ++ [x]).drop (t.symbols.length + 1 - 64) }

/-- Enter Locked at a count: LastLockTide, and ColdStartTide at the first Locked Tide after a cold reset (R459). -/
def State.lockAt (s : State) (c : Nat) : State :=
  let s := if s.tide.state = .locked then s else s.setNum Ent.lastLockTide c
  let s := if s.num Ent.coldStartTide = 0 then s.setNum Ent.coldStartTide c else s
  { s with tide := { s.tide with state := .locked, missedRun := 0 } }

/-- The 16 bytes of a control block: its bytes 13:0 and the CRC-16 over them (R442). -/
def sealBlock (b : Bytes) : Bytes :=
  let b := (b ++ List.replicate 14 0).take 14
  b ++ leBytes 2 (crc16 b)

/-- R433: the Beacon block of the boundary just made. -/
def State.beacon (s : State) : Bytes :=
  sealBlock (leBytes 1 1 ++ leBytes 1 s.tide.state.code ++ leBytes 6 s.tide.count ++ leBytes 3 s.strand.nodeId)

/-- R48, R433: a Beacon on every Up port. -/
def State.sendBeacons (s : State) : State :=
  (List.range 6).foldl (fun s p =>
    match s.strand.ports[p]? with
    | some q => if q.state = .up then s.emit (.block p s.beacon) else s
    | none => s) s

/-- R44: the pulse that a follower or master drives for the boundary just made; none in Acquiring or Adrift. -/
def State.drivePulse (s : State) (x : Symbol) : State :=
  match s.tide.state with
  | .acquiring => s
  | .adrift => s
  | _ => s.emit (.tideOut (if s.tide.master then 0 else 40) x.fall)

end Sys2Proof.Machine
end

