-- ==== Sys2Proof/Machine/Strand.lean ====
section
/-! DEFINITION. Strand: frames and their check codes (R442, R443), routing (R434 to R441), sending requests, responses and
messages (R444 to R446, R457), the receiver's checks (R447, R448). -/

namespace Sys2Proof

open Sys2Proof.Machine

/-- Header bytes 0 to 29 (the table "Frame header"). -/
def Frame.header (f : Frame) : Bytes :=
  leBytes 1 f.kind ++ leBytes 1 (f.cls % 16 + if f.adaptive then 16 else 0) ++ leBytes 1 f.hops ++ leBytes 1 f.vc
    ++ leBytes 4 f.dest ++ leBytes 4 f.src ++ leBytes 2 f.job ++ leBytes 2 f.payload.length ++ leBytes 4 f.seq
    ++ leBytes 8 f.addr ++ leBytes 1 f.status ++ leBytes 1 f.param

/-- R442: HeaderCrc. -/
def Frame.headerCrc (f : Frame) : Nat := crc16 f.header

/-- R442: the frame CRC, with bytes 1, 2 and 3 read as 0. -/
def Frame.crc (f : Frame) : Nat :=
  crc32c (f.header.take 1 ++ [0, 0, 0] ++ f.header.drop 4 ++ f.payload)

/-- R443: the frame bytes that credits, shapers and meters count. -/
def Frame.size (f : Frame) : Nat := 36 + f.payload.length

/-- R431: the credits that a frame needs. -/
def Frame.credits (f : Frame) : Nat := (f.size + 63) / 64

end Sys2Proof

namespace Sys2Proof.Machine

open Sys2Proof

/-! Frame kinds. -/
namespace Kind
abbrev read : Nat := 0x01
abbrev write : Nat := 0x02
abbrev atomic : Nat := 0x03
abbrev register : Nat := 0x04
abbrev unregister : Nat := 0x05
abbrev publish : Nat := 0x06
abbrev invalidate : Nat := 0x07
abbrev message : Nat := 0x08
end Kind

/-! Ports and routing. -/

def mapPort (s : State) (p : Nat) (f : Port → Port) : State :=
  { s with strand := { s.strand with ports := modifyAt s.strand.ports p f } }

def portUp (s : State) (p : Nat) : Bool :=
  match s.strand.ports[p]? with
  | some q => q.state == .up
  | none => false

/-- A node ID's coordinate in dimension 0, 1 or 2 (R434). -/
def coord (id dim : Nat) : Nat := if dim = 0 then bits id 19 13 else if dim = 1 then bits id 12 6 else bits id 5 0

def StrandUnit.size (u : StrandUnit) (dim : Nat) : Nat := if dim = 0 then u.dimX else if dim = 1 then u.dimY else u.dimZ

/-- The neighbour's node ID at a port (the table "Strand ports"). -/
def StrandUnit.neighbourAt (u : StrandUnit) (p : Nat) : Nat :=
  let d := p / 2
  let n := u.size d
  let step (i : Nat) : Nat :=
    if i = d then (if p % 2 = 0 then (coord u.nodeId i + 1) % n else (coord u.nodeId i + n - 1) % n) else coord u.nodeId i
  step 0 * 2 ^ 13 + step 1 * 2 ^ 6 + step 2

/-- R435: the port of a dimension toward a destination, none when the dimension is done. -/
def StrandUnit.toward (u : StrandUnit) (dest dim : Nat) : Option Nat :=
  let n := u.size dim
  let d := (coord dest dim + n - coord u.nodeId dim) % n
  if d = 0 then none else if d ≤ n - d then some (2 * dim) else some (2 * dim + 1)

/-- The productive ports, X first (R437). -/
def StrandUnit.productive (u : StrandUnit) (dest : Nat) : List Nat := [0, 1, 2].filterMap (u.toward dest)

/-- R436: the escape VC of a frame that leaves on port `p`, having come in on port `from_` with VC `vc`. -/
def StrandUnit.escapeVc (u : StrandUnit) (p : Nat) (came : Option (Nat × Nat)) : Nat :=
  let d := p / 2
  let here := coord u.nodeId d
  let wrap := if p % 2 = 0 then here + 1 == u.size d else here == 0
  let stays := match came with
    | some (q, vc) => q / 2 == d && vc == 1
    | none => false
  if wrap || stays then 1 else 0

def deterministic (cls : Nat) : Bool := cls == 0 || cls == 2 || cls == 4 || cls == 5

def Port.credit (p : Port) (cls vc : Nat) : Nat := p.credits.getD (cls * 3 + vc) 0

/-- R437: the adaptive choice on VC 2: most free credits, then the port of R435, then the lowest number. -/
def adaptivePort (s : State) (f : Frame) : Option Nat :=
  let prod := s.strand.productive f.dest
  let free (p : Nat) : Nat := match s.strand.ports[p]? with
    | some q => q.credit f.cls 2
    | none => 0
  let best := (prod.map free).foldl max 0
  if best = 0 then none
  else
    let top := prod.filter fun p => free p == best
    match prod.head? with
    | some d => if top.contains d then some d else top.foldl (fun a p => match a with
        | none => some p
        | some q => some (min q p)) none
    | none => none

/-- R439: the port of the first exception record that matches a destination. -/
def exceptionPort (s : State) (dest : Nat) : Option Nat :=
  ((records 8 (s.cfgB Ent.routeExceptions)).find? fun r =>
    (bits dest 19 0 ^^^ field r 0 4 % 2 ^ 20) &&& (field r 4 4 % 2 ^ 20) == 0).map fun r => bits (field r 0 4) 22 20

/-- R435 to R439: the port, VC and Adaptive bit with which a frame leaves; none when no usable route exists. -/
def routeOf (s : State) (f : Frame) (came : Option (Nat × Nat)) : Option (Nat × Nat × Bool) :=
  let first := (s.strand.productive f.dest).head?
  let onEscape := deterministic f.cls || (match came with
    | some (_, vc) => vc != 2
    | none => false)
  let choice : Option (Nat × Nat × Bool) :=
    match (if onEscape then none else adaptivePort s f), first with
    | some p, _ => some (p, 2, true)
    | none, some p => some (p, s.strand.escapeVc p came, false)
    | none, none => none
  match choice with
  | none => none
  | some c =>
    if portUp s c.1 then some c
    else match exceptionPort s f.dest with
      | some p => if portUp s p then some (p, s.strand.escapeVc p came, false) else none
      | none => none

/-- Put a frame into its egress queue (R461). -/
def enqueue (s : State) (p : Nat) (f : Frame) (pool : Option Pool) : State :=
  mapPort s p fun q => { q with queues := modifyAt q.queues f.cls fun l => l ++ [⟨f, s.subticks, pool, false⟩] }

/-- R435 to R440: originate a frame; none where it has no usable route at its first hop (R441). -/
def originate (s : State) (f : Frame) : Option State :=
  let f := { f with hops := s.cfg Ent.hopLimit, src := s.strand.nodeId }
  match routeOf s f none with
  | none => none
  | some (p, vc, ad) => some (enqueue s p { f with vc := vc, adaptive := ad } none)

/-- R439, R441: a frame of this node found no usable route: it is counted. -/
def State.unrouted (s : State) : State := s.bump Ent.unroutableFrames

/-- Originate a frame, dropping it where no route is usable (responses: R439 counts the frame). -/
def originateOrDrop (s : State) (f : Frame) : State :=
  match originate s f with
  | some s => s
  | none => s.unrouted

def emptyFrame : Frame := ⟨0, 0, false, 0, 0, 0, 0, 0, 0, 0, 0, 0, []⟩

/-- The response to a request (kind + 0x80, class 1; R444): status, suggested retry Tide under RETRY, payload. -/
def respond (s : State) (req : Frame) (status retry : Nat) (payload : Bytes) : State :=
  originateOrDrop s { emptyFrame with
    kind := req.kind + 0x80, cls := 1, dest := req.src, job := req.job, seq := req.seq
    addr := if status = St.retry then retry else 0, status := status, payload := payload }

/-! Messages. -/

/-- The manual lays out the bytes of these message types. -/
def laidOut (type : Nat) : Bool := type == 0x0001 || type == 0x0002 || type == 0x00F0

/-- A message's data: its bytes where the manual lays them out, the firmware's own layout otherwise (R446). -/
def messageData (type : Nat) (words : List Nat) (blobs : List Bytes) : Bytes :=
  if laidOut type then blobs.flatten else Config.encodeMessage type words blobs

def pad4 (b : Bytes) : Bytes := b ++ List.replicate ((4 - b.length % 4) % 4) 0

/-- The segments of a message (R446). -/
def segmentsOf (type : Nat) (data : Bytes) : List Bytes :=
  let parts := if data.isEmpty then [[]] else records 4088 data
  ((List.range parts.length).zip parts).map fun p =>
    leBytes 2 type ++ leBytes 2 p.1 ++ leBytes 2 parts.length ++ leBytes 2 0 ++ pad4 p.2

def messageFrames (m : OutMsg) : List Frame :=
  (segmentsOf m.type (messageData m.type m.words m.blobs)).map fun d =>
    { emptyFrame with kind := Kind.message, cls := m.cls, dest := m.dest, job := m.job, seq := m.id, payload := d }

/-- R590: a Fenced or Expelled node originates no request but class 0 frames; its requests are held. -/
def requestsHeld (s : State) (cls : Nat) : Bool := s.num Ent.nodeServiceState != 0 && cls != 0

/-- R441: a request of this node of a class has no usable route at its first hop. -/
def unsent (s : State) (dest cls : Nat) : Bool :=
  !requestsHeld s cls && (routeOf s { emptyFrame with cls := cls, dest := dest } none).isNone

/-- Send every segment of a message that is already in the table. -/
def transmit (s : State) (m : OutMsg) : State :=
  if requestsHeld s m.cls then s else (messageFrames m).foldl originateOrDrop s

/-- R446: send a message and keep it until its one response. `sent` is the Tide of its latest send. One without a route ends at once with
RETRY and the next Tide (R441): its unit, which R446 has send the whole message again at that Tide, does so there, as with one that R590
holds (notes/assumptions/36.md). A unit that acts on the RETRY otherwise asks `unsent` before it sends. -/
def sendMessage (s : State) (dest cls job type : Nat) (words : List Nat) (blobs : List Bytes) (use : MsgUse) : State :=
  let stays := requestsHeld s cls || unsent s dest cls
  let m : OutMsg := ⟨s.strand.nextMsg, dest, cls, job, type, words, blobs, use, if stays then s.now + 1 else s.now⟩
  let s := { s with strand := { s.strand with
    outMsgs := s.strand.outMsgs ++ [m], nextMsg := (s.strand.nextMsg + 1) % 2 ^ 32 } }
  if unsent s dest cls then s.unrouted
  else if stays then s else transmit s m

/-- The answer to a whole message (R446). -/
def answerWhole (s : State) (d : Delivered) (status : Nat) : State :=
  respond s { emptyFrame with kind := Kind.message, cls := d.cls, src := d.src, job := d.job, seq := d.id } status (s.now + 1) []

/-- The oldest whole message of a type from a node that waits for its answer, a green one before a yellow one (R468). -/
def deliveredOf (s : State) (src type : Nat) : Option Delivered :=
  let l := s.strand.delivered.filter fun d => d.src == src && d.type == type
  (l.find? fun d => !d.yellow).orElse fun _ => l.head?

/-- A whole message waits no more. -/
def takeDelivered (s : State) (d : Delivered) : State := { s with strand := { s.strand with delivered := s.strand.delivered.erase d } }

/-- R446: answer the oldest whole message of a type from a node; nothing where none waits for an answer. -/
def answerMsg (s : State) (src type status : Nat) : State :=
  match deliveredOf s src type with
  | none => s
  | some d => answerWhole (takeDelivered s d) d status

/-! Requests of this node. -/

/-- A request of this node goes onto the list of those outstanding. -/
def addRequest (s : State) (r : Request) : State := { s with strand := { s.strand with requests := s.strand.requests ++ [r] } }

/-- Send a READ, WRITE, REGISTER, UNREGISTER or PUBLISH under a new tag; it is held where it must `wait` (R453) or the node is Fenced
(R590). None where it has no usable route at its first hop (R441). -/
def sendRequest (s : State) (f : Frame) (use : Purpose) (wait : Bool) : Option State :=
  let f := { f with src := s.strand.nodeId, seq := s.strand.nextTag }
  let held := wait || requestsHeld s f.cls
  let s := { s with strand := { s.strand with nextTag := (s.strand.nextTag + 1) % 2 ^ 32 } }
  let r : Request := ⟨f, s.now, s.now, use, false, held⟩
  if held then some (addRequest s r) else (originate s f).map fun s => addRequest s r

/-- Send a request for an agent of the node; without a route it ends at once with RETRY and the next Tide (R441). -/
def issueRequest (s : State) (f : Frame) (use : Purpose) (wait : Bool) : State :=
  match sendRequest s f use wait with
  | some s => s
  | none => { s.unrouted with strand := { s.strand with
      nextTag := (s.strand.nextTag + 1) % 2 ^ 32, ended := s.strand.ended ++ [⟨s.strand.nextTag, f.kind, St.retry, [], s.now + 1⟩] } }

/-- R457: the next requester sequence. -/
def nextSeq (s : State) : Nat × State :=
  (s.strand.requesterSeq, { s with strand := { s.strand with requesterSeq := (s.strand.requesterSeq + 1) % 2 ^ 32 } })

/-- R457: send an ATOMIC under the next requester sequence, its payload behind the IssueTide. None where it has no usable route at its
first hop (R441). -/
def sendAtomic (s : State) (f : Frame) (operands : Bytes) (use : Purpose) : Option State :=
  let f := { f with kind := Kind.atomic, src := s.strand.nodeId, seq := s.strand.requesterSeq, payload := leBytes 8 s.now ++ operands }
  let held := requestsHeld s f.cls
  let r : Request := ⟨f, s.now, s.now, use, false, held⟩
  if held then some (addRequest (nextSeq s).2 r) else (originate s f).map fun s => addRequest (nextSeq s).2 r

/-- R450: a new 16-byte SWAP (op 0) or CAS (op 1) on an ownership word, class 2, JobId 0. -/
def sendWordAtomic (s : State) (home berth op : Nat) (operand expected : Bytes) (use : Purpose) : Option State :=
  sendAtomic s { emptyFrame with cls := 2, dest := home, addr := 2 ^ 56 + 16 * berth, param := op + 32 }
    (operand ++ (if op = 1 then expected else [])) use

/-- R451, R457: a request as it leaves now: at its first send its 48 Tides and the IssueTide of an ATOMIC begin. -/
def Request.sentNow (r : Request) (now : Nat) : Request :=
  if !r.held then { r with lastSend := now }
  else { r with
    lastSend := now, issue := now, held := false
    frame := if r.frame.kind = Kind.atomic then { r.frame with payload := leBytes 8 now ++ r.frame.payload.drop 8 } else r.frame }

/-! The receiver's checks (R448). -/

/-- The nodes of the composition in force with their roles (0x6000.03). -/
def compositionNodes (s : State) : List (Nat × Nat) :=
  (records 8 (s.cfgB Ent.compositionMap)).map fun r => (field r 0 4 % 2 ^ 20, field r 4 1)

def inComposition (s : State) (node : Nat) : Bool := (compositionNodes s).any fun p => p.1 == node

/-- The expelled nodes (R592). -/
def expelledNodes (s : State) : List Nat := (records 4 (s.cfgB Ent.expelledNodes)).map fun r => leNat r % 2 ^ 20

/-- A job's enabled record in JobTable. -/
def jobRecord (s : State) (job : Nat) : Option Bytes :=
  (records 32 (s.cfgB Ent.jobTable)).find? fun r => field r 0 2 == job && bit (field r 2 1) 0

/-- R448, steps 1 and 2: the status of the first check that fails, for a request whose kind is judged. -/
def jobCheck (s : State) (f : Frame) (ownershipWord : Bool) : Option Nat :=
  if f.job = 0 then
    if !inComposition s f.src then some St.accessDenied
    else if f.kind = Kind.message ∨ (f.kind = Kind.atomic ∧ ownershipWord) then none
    else some St.badJob
  else match jobRecord s f.job with
    | none => some St.badJob
    | some r => if bit (field r 2 1) 1 && !inComposition s f.src then some St.accessDenied else none

/-- The right that a kind needs (R448, step 4): 0 read, 1 write, 2 atomic, 3 register. -/
def rightOf (kind : Nat) : Nat := if kind = Kind.read then 0 else if kind = Kind.write then 1 else if kind = Kind.atomic then 2 else 3

/-- R448, steps 4 and 5: the window that holds a whole access: the owner slot and the node physical address. -/
def windowOf (s : State) (job kind addr len : Nat) : Option (Nat × Nat) :=
  ((records 32 (s.cfgB Ent.windowTable)).find? fun r =>
    field r 0 2 == job && bit (field r 2 1) (rightOf kind) && field r 8 8 ≤ addr && addr + len ≤ field r 8 8 + field r 16 8).map
    fun r => (field r 4 2 % 4096, field r 24 8 + (addr - field r 8 8))

end Sys2Proof.Machine
end

