-- ==== Sys2Proof/Machine/TreePlace.lean ====
section
/-! DEFINITION. Where the structures of the index lie (R90, R94, R101, R291): runs of Fixed pages of owner slot 0, each structure from a
page's first byte on and the first page of a leaf a Plane page (notes/assumptions/21.md). -/

namespace Sys2Proof.Machine

open Sys2Proof

/-- Pages that a structure takes. -/
def State.treePages (s : State) (p : TreePart) : Nat := (s.treeSize p + 65535) / 65536

/-- The end of the stack pages that are not Exported. -/
def State.stackTop (s : State) : Nat := stackEnd - s.mem.exported * 65536

/-- The address that a structure would take: a leaf in stack (leaf ID mod 8), a node in its tier. The byte address 0 stands for none. -/
def placeFor (s : State) (p : TreePart) : Option Nat :=
  let n := s.treePages p
  let stack (lo hi : Nat) : Option Nat := if Mem.freeStack s.mem < n then none else Mem.findRun s.mem (max 65536 lo) (min hi s.stackTop) n
  match p with
  | .leaf l => stack (stackBase (l.id % 8)) (stackBase (l.id % 8 + 1))
  | .node x =>
    if x.shelf = some true then (if Mem.freeShelf s.mem < n then none else Mem.findRun s.mem shelfBase shelfEnd n)
    else stack 0 stackEnd

/-- A structure now lies at an address. -/
def setPlace (x : IndexUnit) (p : TreePart) (a : Nat) : IndexUnit :=
  match p with
  | .leaf l => { x with leaves := x.leaves.map fun y => if y.id = l.id then { y with at_ := a } else y }
  | .node n => { x with nodes := x.nodes.map fun y => if y.addr = n.addr then { y with at_ := a } else y }

def TreePart.isLeaf : TreePart → Bool
  | .leaf _ => true
  | .node _ => false

/-- Give a structure pages at an address. -/
def placeAt (s : State) (p : TreePart) (a : Nat) : State :=
  let n := s.treePages p
  let x := setPlace s.idx p a
  let m := { s.mem with blank := s.mem.blank.filter fun l => !(decide (lineOf a ≤ l) && decide (l < lineOf a + 1024 * n)) }
  { s with mem := Mem.allocRun m 0 a n p.isLeaf, idx := { x with extents := x.extents ++ [(a, n)] } }

/-- Place a structure where there is room; otherwise it stays unplaced. -/
def place (s : State) (p : TreePart) : State :=
  match placeFor s p with
  | some a => placeAt s p a
  | none => s

/-- The structures of the index. -/
def State.treeParts (s : State) : List TreePart := s.idx.leaves.map .leaf ++ s.idx.nodes.map .node

/-- A node lies in the tier that R101 gives it. -/
def tierFits (n : TreeNode) : Bool := decide (shelfBase ≤ n.at_) == (n.shelf == some true)

/-- The pages of a run. -/
def runPages (e : Nat × Nat) : List Nat := (List.range e.2).map fun i => e.1 + 65536 * i

/-- Free the runs that no structure lies in any more. -/
def dropExtents (s : State) : State :=
  let s := { s with idx := { s.idx with nodes := s.idx.nodes.map fun n => if tierFits n then n else { n with at_ := 0 } } }
  let used (e : Nat × Nat) : Bool := s.treeParts.any fun p => p.at_ == e.1
  let gone := s.idx.extents.filter fun e => !used e
  let s := freeFixedPages s (gone.flatMap runPages)
  { s with idx := { s.idx with extents := s.idx.extents.filter used } }

/-- Pages follow the index: runs of structures that have gone are freed, and new structures are placed. -/
def placeExtents (s : State) : State :=
  let s := dropExtents s
  (s.treeParts.filter fun p => p.at_ == 0).foldl place s

/-- R574: a structure with a page out of service moves to another run; lines that were uncorrectable stay so. -/
def moveExtent (s : State) (p : TreePart) : State :=
  match placeFor s p with
  | none => s
  | some a =>
    let n := s.treePages p
    let lo := lineOf p.at_
    let bad := (s.mem.bad.filter fun l => lo ≤ l && l < lo + 1024 * n).map fun l => lineOf a + (l - lo)
    let s := dropExtents (placeAt s p a)
    { s with mem := { s.mem with bad := s.mem.bad ++ bad } }

/-- The structure that lies in a page. -/
def State.partIn (s : State) (a : Nat) : Option TreePart := s.treeParts.find? fun p => p.at_ != 0 && decide (p.at_ ≤ a) && decide (a < p.at_ + 65536 * s.treePages p)

/-- R570: a line of a structure is uncorrectable. -/
def State.partLost (s : State) (p : TreePart) : Bool :=
  let lo := lineOf p.at_
  let n := (s.treeSize p + 63) / 64
  p.at_ != 0 && (s.mem.bad.any (fun l => decide (lo ≤ l) && decide (l < lo + n)) || s.coh.lost.any fun a => decide (p.at_ ≤ a) && decide (a < p.at_ + 64 * n))

/-- Load the lines of a byte range of a structure into its slices. -/
def loadLines (s : State) (a n : Nat) : State :=
  (lines a n).foldl (fun s l =>
    if Coh.fromMemory s.coh l && !s.mem.bad.contains l then
      let d := Coh.memLine s l
      Coh.fill s ⟨l, d.1, false, d.2⟩
    else s) s

end Sys2Proof.Machine
end

