-- ==== Sys2Proof/Machine/Search.lean ====
section
/-! DEFINITION. Fragments: the best-first descent (R140 to R144), sketch and PQ stages (R129 to R135), verification (R135,
R136), completion and reply (R137 to R139, R148, R149, R154), and the routing of shoals to copies (R153, R595). -/

namespace Sys2Proof.Machine

open Sys2Proof Sys2Proof.Num

/-- A collection's parameters (R109: fixed while it is open). -/
def State.params (s : State) (c : Nat) : Params :=
  { metric := s.cfg (Ent.collMetric c), format := s.cfg (Ent.collFormat c), dim := s.cfg (Ent.collDimension c)
    pq := s.cfg (Ent.collPqBytes c), metaBytes := s.cfg (Ent.collMetadataBytes c), seed := s.cfg (Ent.collSketchSeed c)
    shoals := s.cfg (Ent.collShoalCount c), codebook := s.cfgB (Ent.collCodebook c), schema := s.cfgB (Ent.collMetadataSchema c) }

def State.collState (s : State) (c : Nat) : Nat := s.num (Ent.collStCollectionState c)

def State.collOwner (s : State) (c : Nat) : Nat := s.cfg (Ent.collOwnerSlot c) % 4096

/-- A shoal's primary and replica under the map as it governs work stamped `t`. -/
def shoalNodes (s : State) (c sh t : Nat) : Nat × Nat :=
  match (records 8 (s.cfgBAt (Ent.collShoalMap c) t))[sh]? with
  | some r => (field r 0 4 % 2 ^ 20, field r 4 4 % 2 ^ 20)
  | none => (2 ^ 20, 2 ^ 20)

def mapFrag (s : State) (id : Nat) (f : Fragment → Fragment) : State :=
  { s with qry := { s.qry with frags := s.qry.frags.map fun g => if g.id == id then f g else g } }

def State.frag (s : State) (id : Nat) : Option Fragment := s.qry.frags.find? fun g => g.id == id

/-! The descent. -/

/-- What one fragment computes with. -/
structure FragCtx where
  p : Params
  x : QVec
  ws : List (Bool × Nat)
  now : Nat
  deriving DecidableEq, Repr

def fragCtx (s : State) (g : Fragment) : FragCtx :=
  let p := s.params g.coll
  let x := QVec.of p g.vec
  ⟨p, x, if g.openQuery then [] else x.weights p, s.now⟩

/-- The frontier entries that a node's children give (R127, R131, R133, R141, R97), with the child count bounded. -/
def childFronts (x : IndexUnit) (c : FragCtx) (g : Fragment) (a least shoal : Nat) (openSub : Bool) : List Front :=
  match Index.findNode x a with
  | none => []
  | some n =>
    ((List.range n.kids.length).zip n.kids).filterMap fun q =>
      let k := q.2
      if k.ref = .empty ∨ (k.retired ≠ 0 ∧ k.retired ≤ g.stamp) then none
      else
        let op := openSub || (n.parent == 0 && q.1 == 63)
        let h := if op || g.openQuery then topKey64 else c.x.nodeBound k.centroid k.radius
        some ⟨k.ref, h, min least h, k.centroid, k.radius, op, shoal⟩

/-- R140: `a` is taken from the frontier before `b`; nodes that have no address yet come first, by number. -/
def Front.before (x : IndexUnit) (a b : Front) : Bool :=
  if a.h ≠ b.h then b.h < a.h
  else match a.ref, b.ref with
    | .node m, .node n => Index.nodeAt x m < Index.nodeAt x n || (Index.nodeAt x m == Index.nodeAt x n && decide (m < n))
    | .node _, _ => true
    | .leaf m, .leaf n => m < n
    | _, _ => false

/-- The assured scores (R132): resolved passing slots by their scores; without a filter, others by lo. An open slot is
counted with the lo = −∞ that R131 gives it (DESIGN CHOICE, notes/assumptions/79.md). -/
def assuredKeys (g : Fragment) : List Nat :=
  (g.resolved.filter (·.passes)).map (·.key) ++ (if g.filter.isEmpty then g.cands.map (·.lo) else [])

/-- R132: the threshold as a key; 0, below every key, stands for no threshold. -/
def threshold (g : Fragment) : Nat := (sortBy (fun (a b : Nat) => decide (b < a)) (assuredKeys g)).getD (g.k - 1) 0

/-- An upper bound's key as fp32, upward (R150, R154). -/
def ceilingBits (k : Nat) : Nat := if k = topKey64 then 0x7FC00000 else encode fp32 .ru (ofKey64 k)

/-- A bound in the order of R160, which orders fp32 values: the key of the bound rounded upward to fp32. No bound of an item
lies below the item's rounded score (R115). -/
def boundKey (k : Nat) : Nat := upKey (decode fp32 (ceilingBits k))

/-- R133: drop from the frontier and the candidates what lies strictly below the threshold. A slot being read stays
until its read returns. -/
def prune (g : Fragment) : Fragment :=
  let t := threshold g
  { g with front := g.front.filter fun f => t ≤ boundKey f.h, cands := g.cands.filter fun c => t ≤ boundKey c.hi }

/-- A candidate that the order of R135 takes before another. -/
def Cand.before (a b : Cand) : Bool := b.hi < a.hi || (a.hi == b.hi && a.id < b.id)

/-- Start the read of a candidate's record (R136): all its codewords, through the channel engines. -/
def readCand (s : State) (id : Nat) (c : Cand) (prefetch : Bool) : State :=
  match s.frag id with
  | none => s
  | some g =>
    let p := s.params g.coll
    let ls := recordLogical (recordCodewords p.vecBytes p.metaBytes) c.local_
    let s := { s with flash := Flash.readAll s.flash ls (s.collOwner g.coll) 3 (.verify id c.local_) }
    let mark (d : Cand) : Cand := if d.local_ = c.local_ then { d with reading := true } else d
    let s := mapFrag s id fun g => { g with
      reads := g.reads ++ [(c.local_, prefetch)], verifyReads := g.verifyReads + 1, cands := g.cands.map mark }
    s.bump (Ent.collStVerifyReads g.coll)

/-! Prefetch (R142) and the near-bank sketch scan (R304, R305). -/

/-- The greatest mass up to `max` that satisfies a test which a smaller mass satisfies too; none where 0 fails it. -/
def greatestMass (max : Nat) (ok : Nat → Bool) : Option Nat :=
  if ok 0 then some ((List.range 17).foldl (fun m i => let n := m + 2 ^ (16 - i); if n ≤ max && ok n then n else m) 0) else none

/-- R305: the Threshold of a leaf's sketch scan, an int32: masses above it have a sketch bound below the fragment's threshold. -/
def scanThreshold (c : FragCtx) (f : Front) (t : Nat) : Nat :=
  match greatestMass (if c.p.metric = 3 then 128 else 65536) fun m => decide (t ≤ boundKey (c.x.sketchBound f.centroid f.radius m)) with
  | some m => m
  | none => 2 ^ 32 - 1

/-- R304: the POPACCs of a sketch scan whose sketch block begins at a row. -/
def scanCommands (ws : List (Bool × Nat)) (row : Nat) : List NbCmd :=
  (((List.range ws.length).zip ws).filter fun q => q.2.2 != 0).map (fun q =>
    NbCmd.popAcc (row + q.1 / 16) (q.1 % 16 * 1024) 1024 0 (if q.2.1 then 1 else 0) 0 1 0 q.2.2 0 false false)

/-- A free page of a bank for the result of a scan. -/
def resultPage (s : State) (bank : Nat) : Option Nat :=
  let taken := Mem.taken s.mem
  if Mem.freeStack s.mem = 0 then none
  else ((List.range (taken.length + 1)).map fun i => stackBase (bank / 512) + (i * 512 + bank % 512) * 65536).find? fun a =>
    !taken.contains a && decide (a + 65536 ≤ min (stackBase (bank / 512 + 1)) s.stackTop)

/-- A page of a bank for a scan's output, as a Plane page of owner slot 0. -/
def takeResult (s : State) (bank : Nat) : Option Nat × State :=
  match resultPage s bank with
  | some a => (some a, { s with mem := { s.mem with fixed := s.mem.fixed ++ [⟨a, 0, true⟩] } })
  | none => (none, s)

/-- A leaf whose slots pass the sketch stage through its near-bank scan (R142), and that no summary skips (R147), while the scan
has not ended. -/
def needsScan (s : State) (g : Fragment) (c : FragCtx) (f : Front) (l : Leaf) : Bool :=
  l.at_ != 0 && Nb.runs s && !f.openSub && !g.openQuery && !c.ws.isEmpty && !leafSkipped g.filter c.p.schema l.summaries
    && !g.scans.any fun x => x.1 == l.id

/-- The end of a sketch scan: a core reads its output (R305) and its page is free again. Without a page the accumulators give the
output (DESIGN CHOICE, notes/assumptions/85.md). -/
def scanEnded (s : State) (z : SketchScan) (status : Nat) (acc : List Int) : State :=
  let out := match z.page with
    | some a => Cells.reads s.mem.cells a 4224
    | none => (Nb.accOut 4 acc z.threshold).1
  let s := freeFixedPages s z.page.toList
  mapFrag s z.frag fun g => { g with scans := g.scans ++ [(z.leaf, if status = St.ok then some out else none)] }

/-- R142, R293, R305: the sketch scan of a leaf is queued at its bank. On a bank without other work it runs to its end at once
(notes/assumptions/85.md); a full queue turns it away until a sequence of the bank has ended. -/
def scanSketches (s : State) (id : Nat) (c : FragCtx) (f : Front) (l : Leaf) : State :=
  match s.frag id with
  | none => s
  | some g =>
    let bank := Nb.bankOf l.at_
    let queue := (Nb.bank s bank).queue
    if !needsScan s g c f l || queue.any (fun q => q.scan.any fun z => z.frag == id && z.leaf == l.id) || !Nb.takes s bank then s
    else
      let t := scanThreshold c f (threshold g)
      let (page, s) := takeResult s bank
      let out : List NbCmd := match page with
        | some a => [.accOut 4 0 1024 (Nb.rowOf a) 0 t]
        | none => []
      let cmds := scanCommands c.ws (Nb.rowOf l.at_) ++ out
      let z : SketchScan := ⟨id, l.id, page, t⟩
      if Nb.idle s bank then
        let r := Nb.runSeq s bank 0 cmds
        scanEnded r.2.2 z r.1 r.2.1
      else Nb.enqueue s bank 0 cmds z

/-- The mass of a slot in a scan's output; none where the slot was left out (R302, R305). -/
def scanMass (out : Bytes) (slot : Nat) : Option Nat :=
  if bitAt' slot then some (field out (128 + 4 * ((List.range slot).filter fun i => bitAt' i).length) 4) else none
where
  bitAt' (i : Nat) : Bool := (out.getD (i / 8) 0).toNat.testBit (i % 8)

/-- R142: prefetch one frontier entry; of a leaf that the filter skips nothing is read (R147). -/
def prefetchEntry (id : Nat) (c : FragCtx) (s : State) (f : Front) : State :=
  match f.ref with
  | .empty => s
  | .node a => match Index.findNode s.idx a with
    | some n => if n.at_ = 0 then s else loadLines s (n.at_ + 64) (s.treeSize (.node n) - 64)
    | none => s
  | .leaf l => match Index.findLeaf s.idx l with
    | some lf =>
      if (s.frag id).any fun g => leafSkipped g.filter c.p.schema lf.summaries then s
      else scanSketches (if lf.at_ = 0 then s else loadLines s (lf.at_ + 16640) (s.treeSize (.leaf lf) - 16640)) id c f lf
    | none => s

/-- R142: prefetch the B best undiscarded frontier entries. -/
def prefetchFront (s : State) (id : Nat) (c : FragCtx) : State :=
  match s.frag id with
  | none => s
  | some g => ((sortBy (Front.before s.idx) (prune g).front).take g.width).foldl (prefetchEntry id c) s

/-- Scan a leaf (R134, R129, R130, R131, R147): its surviving slots become candidates; a slot whose ends meet resolves
without a read where the query has no filter (R135). -/
def scanLeaf (s : State) (id : Nat) (c : FragCtx) (f : Front) (leaf : Leaf) : State :=
  match s.frag id with
  | none => s
  | some g =>
    if leafSkipped g.filter c.p.schema leaf.summaries then s
    else
      let t := threshold g
      let found : List Cand := (Index.leafSlots leaf).filterMap fun q =>
        let sl := q.2
        if !sl.visible c.now g.stamp (Index.ledgered s.idx q.1) then none
        else if f.openSub || g.openQuery then some ⟨q.1, sl.id, f.shoal, lowKey64, topKey64, f.least, false⟩
        else
          let m := match g.scans.lookup leaf.id with
            | some (some out) => scanMass out (q.1 % 1024)
            | _ => some (mass c.ws sl.sketch)
          let h := match m with
            | some m => c.x.sketchBound f.centroid f.radius m
            | none => 0
          if m.isNone || decide (boundKey h < t) then none
          else
            let iv := c.x.interval c.p sl.sketch sl.code sl.norm
            some ⟨q.1, sl.id, f.shoal, iv.1, iv.2, min f.least (min h iv.2), false⟩
      let exact (d : Cand) : Bool := d.lo == d.hi && g.filter.isEmpty
      let res : List Resolved := (found.filter exact).map fun d => ⟨d.id, d.shoal, d.lo, true, d.least⟩
      let fresh := found.filter fun d => !exact d
      let s := mapFrag s id fun g => prune { g with
        leavesScanned := g.leavesScanned + 1, cands := g.cands ++ fresh, resolved := g.resolved ++ res }
      match s.frag id with
      | none => s
      | some g =>
        let mine := sortBy Cand.before (g.cands.filter fun d => fresh.any fun e => e.local_ == d.local_)
        (mine.take (s.cfgAt (Ent.collPrefetchPerLeaf g.coll) g.stamp)).foldl (fun s d => readCand s id d true) s

/-- R570: a fragment that has met an uncorrectable line of the index goes no further; it then ends with UNCORRECTABLE. -/
def failFrag (s : State) (id : Nat) : State := mapFrag s id fun g => { g with front := [], cands := [], failed := true }

/-- The next entry is a leaf whose sketch scan has not ended. -/
def scanPending (s : State) (g : Fragment) (c : FragCtx) (f : Front) : Bool :=
  match f.ref with
  | .leaf l => (Index.findLeaf s.idx l).any fun lf => needsScan s g c f lf && !s.partLost (.leaf lf)
  | _ => false

/-- R140, R142: take frontier entries until none is left undiscarded or the next leaf waits for its sketch scan; before each, the
best are prefetched. -/
def descendFrag (id : Nat) (c : FragCtx) : Nat → State → State
  | 0, s => s
  | fuel + 1, s =>
    let s := prefetchFront s id c
    match s.frag id with
    | none => s
    | some g =>
      match sortBy (Front.before s.idx) (prune g).front with
      | [] => mapFrag s id fun g => { prune g with front := [] }
      | f :: rest =>
        if scanPending s g c f then s
        else
        let s := mapFrag s id fun g => { prune g with front := rest }
        match f.ref with
        | .empty => descendFrag id c fuel s
        | .node a =>
          let lost := (Index.findNode s.idx a).any fun n => s.partLost (.node n)
          let kids := childFronts s.idx c g a f.least f.shoal f.openSub
          if lost then failFrag s id
          else descendFrag id c fuel (mapFrag s id fun g => prune { g with front := g.front ++ kids, nodesExpanded := g.nodesExpanded + 1 })
        | .leaf l =>
          match Index.findLeaf s.idx l with
          | none => descendFrag id c fuel s
          | some lf => if s.partLost (.leaf lf) then failFrag s id else descendFrag id c fuel (scanLeaf s id c f lf)

/-- R148: from its cutoff on, a fragment starts no work. -/
def State.pastCutoff (s : State) (g : Fragment) : Bool := decide (g.cutoff ≤ s.subticks)

/-- R135: verify the undiscarded slot whose turn it is, unless its read is under way. -/
def nextVerify (s : State) (id : Nat) : State :=
  let s := mapFrag s id prune
  match s.frag id with
  | none => s
  | some g =>
    if s.pastCutoff g || g.reads.any fun r => !r.2 then s
    else match sortBy Cand.before g.cands with
      | [] => s
      | c :: _ => if c.reading then s else readCand s id c false

/-- Begin the search of a fragment whose stamp's boundary has been processed (R32, R140), before its cutoff (R148). -/
def beginFrag (s : State) (id : Nat) : State :=
  match s.frag id with
  | none => s
  | some g =>
    if s.pastCutoff g then s
    else
    let c := fragCtx s g
    let roots := g.shoals.filterMap fun sh => (Index.rootFor s.idx g.coll sh g.stamp).map fun r => (r, sh)
    let first := roots.flatMap fun r => childFronts s.idx c g r.1 topKey64 r.2 false
    let waited := (s.subticks - g.arrived) * s.tide.periodNs / 1024
    let s := { s with qry := { s.qry with delays := s.qry.delays ++ g.shoals.map fun sh => (g.coll, sh, waited) } }
    let s := mapFrag s id fun g => { g with
      held := false, unserved := g.shoals.length - roots.length, front := first, nodesExpanded := roots.length }
    nextVerify (descendFrag id c (s.idx.nodes.length + s.idx.leaves.length + 2) s) id

/-- A fragment goes on after a sketch scan of its next leaf has ended. -/
def resumeFrag (s : State) (id : Nat) : State :=
  match s.frag id with
  | none => s
  | some g =>
    if g.held || g.front.isEmpty || s.pastCutoff g then s
    else nextVerify (descendFrag id (fragCtx s g) (s.idx.nodes.length + s.idx.leaves.length + 2) s) id

def resumeFrags (s : State) : State := (s.qry.frags.map (·.id)).foldl resumeFrag s

/-- R137: nothing undiscarded is left. -/
def fragDone (g : Fragment) : Bool := !g.held && g.front.isEmpty && (prune g).cands.isEmpty

/-! The reply. -/

/-- The listed entries of a fragment: score key, exact, item, shoal; unresolved slots count by lo when uncertified. -/
def fragRank (g : Fragment) (certified : Bool) : List (Nat × Bool × Nat × Nat) :=
  let done := (g.resolved.filter (·.passes)).map fun r => (r.key, true, r.id, r.shoal)
  let guess := if certified || !g.filter.isEmpty then [] else g.cands.map fun c => (c.lo, false, c.id, c.shoal)
  (sortBy (fun (a b : Nat × Bool × Nat × Nat) => decide (b.1 < a.1) || (a.1 == b.1 && decide (a.2.2.1 < b.2.2.1))) (done ++ guess))

/-- R138, R149: the listed places: the first K of them. -/
def fragList (g : Fragment) (certified : Bool) : List (Nat × Bool × Nat × Nat) := (fragRank g certified).take g.k

/-- R166: a run of equal keys straddles the K-th place, so that a tie completion runs. -/
def tieStraddles (g : Fragment) (certified : Bool) : Bool :=
  match (fragRank g certified)[g.k - 1]?, (fragRank g certified)[g.k]? with
  | some a, some b => decide (0 < g.k) && a.1 == b.1
  | _, _ => false

/-- R137 to R139, R149, R154: the reply of a fragment. -/
def fragReply (g : Fragment) (certified : Bool) : Reply :=
  let l := fragList g certified
  let listed := l.map fun e => e.2.2.1
  let sk := match l.getLast? with
    | some e => e.1
    | none => 0
  let rest := sortBy (fun (a b : Resolved) => decide (b.key < a.key) || (a.key == b.key && decide (a.id < b.id)))
    (g.resolved.filter fun r => r.passes && !listed.contains r.id && decide (sk ≤ boundKey r.least) && !l.isEmpty)
  let left := (prune g).cands.filter fun c => !listed.contains c.id
  let ceiling := ((prune g).front.map (·.h) ++ left.map (·.hi)).foldl max lowKey64
  let status := max (if l.length < g.k then St.partial_ else St.ok) (if certified then St.ok else St.deadline)
  { status := status, retry := 0, aged := false, certified := certified, openQuery := g.openQuery, notServed := g.unserved
    tiedLeftOut := (rest.filter fun r => r.key == sk).length
    ceiling := if certified then 0 else ceilingBits ceiling
    sumRest := sum64 (rest.map fun r => keyTerm (keyOf (scoreOfKey r.key)))
    restCount := rest.length, verifyReads := g.verifyReads, leavesScanned := g.leavesScanned, nodesExpanded := g.nodesExpanded
    list := l.map fun e => ⟨e.2.2.1, scoreOfKey e.1, e.2.1, e.2.2.2⟩ }

/-- A reply that carries a failure: no list, uncertified, the top key as its ceiling. -/
def failedReply (g : Fragment) (status retry : Nat) : Reply :=
  { status := status, retry := retry, aged := false, certified := false, openQuery := g.openQuery, notServed := g.shoals.length, tiedLeftOut := 0
    ceiling := 0x7FC00000, sumRest := 0, restCount := 0, verifyReads := g.verifyReads, leavesScanned := g.leavesScanned
    nodesExpanded := g.nodesExpanded, list := [] }

/-- The reply of a fragment that has nothing left to do (R137), or that has met uncorrectable data. -/
def doneReply (g : Fragment) (certified : Bool) : Reply := if g.failed then failedReply g St.uncorrectable 0 else fragReply g certified

/-- One 16-byte result entry. -/
def ListEntry.bytes (e : ListEntry) : Bytes :=
  leBytes 8 e.id ++ leBytes 4 e.score ++ leBytes 1 (boolBit e.exact 0) ++ [0] ++ leBytes 2 e.shoal

def entryOfBytes (b : Bytes) : ListEntry := ⟨field b 0 8, field b 8 4, bit (field b 12 1) 0, field b 14 2⟩

/-- The sum of the listed scores in canonical order (R177). -/
def listSum (l : List ListEntry) : Nat := sum64 (l.map fun e => keyTerm (keyOf e.score))

/-- R154: the reply as it travels. CommandId, which no request carries, is 0, and SumSelected of a refusal, which has no list, holds
its suggested retry Tide, and RestCount 1 where the stamp's age is refused (DESIGN CHOICE, notes/assumptions/79.md). -/
def Reply.bytes (r : Reply) (g : Fragment) : Bytes :=
  leBytes 1 r.status ++ leBytes 1 (boolBit (r.tiedLeftOut != 0) 0 + boolBit r.certified 1 + boolBit r.openQuery 2) ++ leBytes 2 0
    ++ leBytes 2 g.k ++ leBytes 2 r.list.length ++ leBytes 6 g.stamp ++ leBytes 2 r.notServed ++ leBytes 4 r.tiedLeftOut
    ++ leBytes 4 r.ceiling ++ leBytes 8 (if r.status = St.retry then r.retry else listSum r.list) ++ leBytes 8 r.sumRest ++ leBytes 4 (if r.aged then 1 else r.restCount)
    ++ leBytes 4 r.verifyReads ++ leBytes 4 r.leavesScanned ++ leBytes 4 r.nodesExpanded ++ leBytes 4 g.tag ++ leBytes 4 0
    ++ r.list.flatMap ListEntry.bytes

/-- The fields of a reply's bytes. -/
def replyOfBytes (b : Bytes) : Reply :=
  let f := field b 1 1
  { status := field b 0 1, retry := if field b 0 1 = St.retry then field b 24 8 else 0, aged := field b 0 1 == St.retry && field b 40 4 == 1, certified := bit f 1, openQuery := bit f 2, notServed := field b 14 2, tiedLeftOut := field b 16 4
    ceiling := field b 20 4, sumRest := field b 32 8, restCount := field b 40 4, verifyReads := field b 44 4
    leavesScanned := field b 48 4, nodesExpanded := field b 52 4
    list := (List.range (field b 6 2)).map fun i => entryOfBytes ((b.drop (64 + 16 * i)).take 16) }

end Sys2Proof.Machine
end

