-- ==== Sys2Proof/Machine/QueryOps.lean ====
section
/-! DEFINITION. Queries: routing of shoals to copies (R153, R595), fan-out and reissue (R156, R157), what a serving node
accepts (R32, R33, R630), merge and result (R122 to R125, R150, R155, R185 to R187). -/

namespace Sys2Proof.Machine

open Sys2Proof Sys2Proof.Num

/-! What a node takes on. -/

/-- R630: a function's bit of FunctionEnable. -/
def functionOn (s : State) (b : Nat) : Bool := bit (s.cfg Ent.functionEnable) b

/-- R630: the apply Tide of a pending write that enables the function again, or 0. -/
def functionRetry (s : State) (b : Nat) : Nat :=
  match s.cat.tw.find? fun w => w.key == Ent.functionEnable && bit w.val.num b with
  | some w => w.apply
  | none => 0

/-- R595: a copy is avoided. -/
def avoidedCopy (s : State) (c sh node : Nat) : Bool :=
  (expelledNodes s).contains node || (s.qry.stragglers.any fun p => p.1 == node && decide (s.now < p.2))
    || (s.rel.avoided.any fun a => a.1 == node && a.2.1 == c && a.2.2.1 == sh && decide (s.now < a.2.2.2))

/-- R595: the chosen and the other copy of a shoal, under the map that governs a stamp. -/
def routeShoal (s : State) (c sh stamp : Nat) : Nat × Nat × Nat :=
  let (p, r) := shoalNodes s c sh stamp
  let (d, o) := if sh % 2 = 0 then (p, r) else (r, p)
  if avoidedCopy s c sh d && !avoidedCopy s c sh o then (sh, o, d) else (sh, d, o)

/-- The default copy's node (R595). -/
def defaultCopy (s : State) (c sh stamp : Nat) : Nat :=
  let (p, r) := shoalNodes s c sh stamp
  if sh % 2 = 0 then p else r

/-! Requests as they travel. -/

/-- Pad to a multiple of 8 bytes. -/
def pad8 (b : Bytes) : Bytes := b ++ List.replicate ((8 - b.length % 8) % 8) 0

/-- The bytes of a query vector in a fragment request. -/
def queryBytes (metric : Nat) (vec : List Nat) : Bytes := if metric = 3 then vec.map (BitVec.ofNat 8) else vec.flatMap (leBytes 4)

/-- R153: a fragment request. -/
def requestBytes (s : State) (q : Query) (tag : Nat) (shoals : List Nat) : Bytes :=
  leBytes 1 1 ++ leBytes 1 (boolBit (!q.filter.isEmpty) 0 + boolBit q.openQuery 1) ++ leBytes 2 shoals.length
    ++ leBytes 4 s.strand.nodeId ++ leBytes 4 tag ++ leBytes 6 q.stamp ++ leBytes 6 (q.cutoff / 1024) ++ leBytes 2 (q.cutoff % 1024)
    ++ leBytes 1 q.coll ++ leBytes 1 q.width ++ leBytes 2 q.k ++ leBytes 2 q.filter.length ++ List.replicate 32 0
    ++ pad8 (shoals.flatMap (leBytes 2)) ++ queryBytes (s.params q.coll).metric q.vec ++ q.filter

/-- The fragment that a request describes, as it arrives. -/
def fragmentOf (s : State) (b : Bytes) : Fragment :=
  let n := field b 2 2
  let c := field b 26 1
  let p := s.params c
  let after := b.drop (64 + (2 * n + 7) / 8 * 8)
  let vb := if p.metric = 3 then p.dim / 8 else 4 * p.dim
  { id := s.qry.nextFrag, lead := field b 4 4 % 2 ^ 20, tag := field b 8 4, sub := field b 8 4, own := false, coll := c
    stamp := field b 12 6, cutoff := field b 18 6 * 1024 + field b 24 2 % 1024, k := field b 28 2, width := field b 27 1
    openQuery := bit (field b 1 1) 1
    filter := if bit (field b 1 1) 0 then (after.drop vb).take (field b 30 2) else []
    vec := if p.metric = 3 then (after.take vb).map (·.toNat) else (records 4 (after.take vb)).map leNat
    shoals := (List.range n).map fun i => field b (64 + 2 * i) 2
    held := true, unserved := 0, front := [], cands := [], resolved := [], verifyReads := 0, leavesScanned := 0, nodesExpanded := 0
    reads := [], arrived := s.subticks, scans := [], failed := false }

/-- A boundary that a list holds for a slot. -/
def boundaryOf (l : List Closing) (c : Nat) : Option Nat := (l.find? fun x => x.slot == c).map (·.boundary)

/-- The collection takes work of a stamp: from its opening boundary on, and not from its closing boundary on (R111). -/
def collServes (s : State) (c stamp : Nat) : Bool :=
  let begun := match boundaryOf s.idx.openings c with
    | some a => decide (a ≤ stamp)
    | none => true
  let ended := match boundaryOf s.idx.closings c with
    | some a => decide (a ≤ stamp)
    | none => false
  (s.collState c == 2 || s.collState c == 3) && begun && !ended

/-- R12: the highest status among the causes that hold, with its suggested Tide; of equal ones the first. -/
def worst (l : List (Bool × Nat × Nat)) : Option (Nat × Nat) :=
  l.foldl (fun (acc : Option (Nat × Nat)) c =>
    if !c.1 then acc
    else match acc with
      | none => some c.2
      | some a => if a.1 < c.2.1 then some c.2 else acc) none

/-- R50: in Acquiring the node refuses work that needs a stamp. -/
def acquiring (s : State) : Bool := s.tide.state == .acquiring

/-- R33: the stamp lies further back than QueryStampWindow. -/
def Fragment.aged (s : State) (g : Fragment) : Bool := decide (g.stamp + s.cfg Ent.queryStampWindow < s.now)

/-- The status and suggested Tide with which a serving node refuses a fragment (R12, R32, R33, R50, R245, R598, R630). -/
def fragRefusal (s : State) (g : Fragment) : Option (Nat × Nat) :=
  let copies := g.shoals.map fun sh => Index.findCopy s.idx g.coll sh
  worst [ (g.aged s, St.retry, s.now)
        , (decide (s.now + 2 < g.stamp), St.retry, g.stamp)
        , (acquiring s, St.retry, s.now + 1)
        , (decide (s.num Ent.fragmentTableSize ≤ s.qry.frags.length), St.retry, s.now + 1)
        , (!functionOn s 0, St.retry, functionRetry s 0)
        , (inNeap s, St.retry, s.now + 1)
        , (!collServes s g.coll g.stamp, St.badJob, 0)
        , (copies.any Option.isNone, St.badJob, 0)
        , (copies.any fun p => match p with
            | some p => p.state != .serving || (Index.rootFor s.idx g.coll p.shoal g.stamp).isNone
            | none => false, St.retry, s.now + 1)
        , (s.slotState (s.collOwner g.coll) != 1, St.accessDenied, 0) ]

/-- Take a fragment in: it starts at once where its stamp's boundary has been processed, and waits for it otherwise
(R32). -/
def takeFrag (s : State) (g : Fragment) : State :=
  let s := { s with qry := { s.qry with frags := s.qry.frags ++ [g], nextFrag := s.qry.nextFrag + 1 } }.wakeAll
  if g.stamp ≤ s.now then beginFrag s g.id else s

/-! The lead node. -/

def State.query (s : State) (tag : Nat) : Option Query := s.qry.queries.find? fun q => q.tag == tag

def mapQuery (s : State) (tag : Nat) (f : Query → Query) : State :=
  { s with qry := { s.qry with queries := s.qry.queries.map fun q => if q.tag == tag then f q else q } }

/-- A reply for one request of a query reaches its lead. -/
def noteReply (s : State) (src sub : Nat) (r : Reply) : State :=
  let fix (f : LeadFrag) : LeadFrag := if f.sub = sub ∧ f.node = src ∧ f.reply = none then { f with reply := some r } else f
  { s with qry := { s.qry with queries := s.qry.queries.map fun q => { q with frags := q.frags.map fix } } }

/-- The query and request that a reply names. -/
def findLead (s : State) (src sub : Nat) : Option (Query × LeadFrag) :=
  s.qry.queries.findSome? fun q => (q.frags.find? fun f => f.sub == sub && f.node == src && f.reply.isNone).map fun f => (q, f)

/-- What stands for the reply of a request that was refused, or stopped before it had begun. A fragment that holds no
frontier yet has the top key as its ceiling (DESIGN CHOICE, notes/assumptions/79.md). -/
def noReply (st retry notServed : Nat) (op : Bool) : Reply := ⟨st, retry, false, false, op, notServed, 0, 0x7FC00000, 0, 0, 0, 0, 0, []⟩

/-- R153: send one fragment of a query to a node, or start it here on the same terms. A node without a usable route at
the first hop answers RETRY (R441). -/
def sendFrag (s : State) (q : Query) (node place : Nat) (shoals : List Nat) (reissueOf : Option Nat) : State :=
  let sub := s.qry.nextTag
  let lf : LeadFrag := ⟨sub, place, node, shoals, reissueOf, false, none, s.subticks⟩
  let s := { s with qry := { s.qry with nextTag := (sub + 1) % 2 ^ 32 } }
  let s := mapQuery s q.tag fun q => { q with frags := q.frags ++ [lf] }
  if node = s.strand.nodeId then
    let g : Fragment := { fragmentOf s (requestBytes s q sub shoals) with own := true }
    match fragRefusal s g with
    | some r => noteReply s node sub { noReply r.1 r.2 shoals.length q.openQuery with aged := r.1 == St.retry && g.aged s }
    | none => if s.pastCutoff g then noteReply s node sub (noReply St.deadline 0 0 q.openQuery) else takeFrag s g
  else if (routeOf s { emptyFrame with cls := 3, dest := node } none).isNone then
    noteReply s.unrouted node sub (noReply St.retry (s.now + 1) shoals.length q.openQuery)
  else sendMessage s node 3 (s.cfg (Ent.collJobId q.coll)) 0x0001 [] [requestBytes s q sub shoals] (.fragment q.tag sub)

/-- Split a list into pieces of at most 256 shoals (R153). -/
def pieces256 : Nat → List Nat → List (List Nat)
  | 0, _ => []
  | n + 1, l => if l.isEmpty then [] else l.take 256 :: pieces256 n (l.drop 256)

/-- Group shoals by the node chosen for each, in order of the lowest shoal. -/
def groupByNode (l : List (Nat × Nat)) : List (Nat × List Nat) :=
  ((l.map (·.2)).eraseDups).map fun n => (n, (l.filter fun p => p.2 == n).map (·.1))

/-- R153: fan a query out. -/
def fanOut (s : State) (tag : Nat) : State :=
  match s.query tag with
  | none => s
  | some q =>
    (groupByNode (q.routes.map fun r => (r.1, r.2.1))).foldl (fun s g =>
      (pieces256 257 g.2).foldl (fun s sh =>
        let moved := sh.any fun x => defaultCopy s q.coll x q.stamp != g.1
        let s := if moved then s.bump Ent.fragmentsRerouted else s
        sendFrag s q g.1 (sh.headD 0) sh none) s) s

/-- The statuses of R156. -/
def isFailure (st : Nat) : Bool :=
  st == St.retry || st == St.uncorrectable || st == St.badJob || st == St.accessDenied || st == St.responderReset

/-- R595: note that a node failed the shoals of a fragment. -/
def noteAvoided (s : State) (c node : Nat) (shoals : List Nat) : State :=
  { s with rel := { s.rel with
    avoided := (s.rel.avoided.filter fun a => decide (s.now < a.2.2.2)) ++ shoals.map fun sh => ((node, c, sh, s.now + 16) : Nat × Nat × Nat × Nat) } }

/-- A reply whose list is not merged: it reports a failure, one of R156 or another (R157). -/
def unmerged (st : Nat) : Bool := st != St.ok && st != St.partial_ && st != St.deadline

/-- R156: reissue every failed fragment once, where the cutoff has not passed; no reissue is possible to an expelled node (R592). -/
def reissueFailed (s : State) (tag : Nat) : State :=
  match s.query tag with
  | none => s
  | some q =>
    let failed := q.frags.filter fun f => !f.reissued && f.reissueOf.isNone && (match f.reply with
      | some r => isFailure r.status
      | none => false)
    if q.cutoff ≤ s.subticks then s
    else failed.foldl (fun s f =>
      let fix (g : LeadFrag) : LeadFrag := if g.sub = f.sub then { g with reissued := true } else g
      let s := mapQuery s tag fun q => { q with frags := q.frags.map fix }
      let other (sh : Nat) : Nat := match q.routes.find? fun r => r.1 == sh with
        | some r => if r.2.1 = f.node then r.2.2 else r.2.1
        | none => f.node
      let there := (f.shoals.map fun sh => (sh, other sh)).filter fun x => !(expelledNodes s).contains x.2
      (groupByNode there).foldl (fun s g =>
        sendFrag (s.bump Ent.fragmentsReissued) q g.1 f.place g.2 (some f.sub)) s) s

/-- The fragments whose lists are merged, in list order (R187). -/
def mergedFrags (q : Query) : List (LeadFrag × Reply) :=
  sortBy (fun (a b : LeadFrag × Reply) =>
      decide (a.1.place < b.1.place) || (a.1.place == b.1.place && decide (a.1.shoals.headD 0 < b.1.shoals.headD 0)))
    (q.frags.filterMap fun f => match f.reply with
      | some r => if unmerged r.status then none else some (f, r)
      | none => none)

/-- R156: every shoal of a failed fragment has been reissued with success: the reissues replace the failed reply. -/
def resolved (q : Query) (f : LeadFrag) : Bool :=
  let done (g : LeadFrag) : Bool := match g.reply with
    | some r => !unmerged r.status
    | none => false
  f.reissued && f.shoals.all fun sh => q.frags.any fun g => g.reissueOf == some f.sub && g.shoals.contains sh && done g

def ListEntry.merge (e : ListEntry) : MEntry :=
  ⟨e.id, keyOf e.score, if e.exact then 2 else 1, boolBit e.exact 0, e.shoal⟩

/-- R182: a reply as an input of the merge. -/
def Reply.mlist (r : Reply) : MList :=
  { entries := r.list.map ListEntry.merge, count := r.list.length, restCount := r.restCount, tiedLeftOut := r.tiedLeftOut
    kthKey := match r.list.getLast? with
      | some e => keyOf e.score
      | none => sentinelKey
    nanRest := 0, sumRest := r.sumRest }

def sentinelEntry : Bytes := leBytes 8 noItem ++ leBytes 4 negInf32 ++ List.replicate 4 0

def MEntry.resultBytes (e : MEntry) : Bytes :=
  leBytes 8 e.id ++ leBytes 4 (valueOfKey e.key) ++ leBytes 1 (e.flags % 2) ++ [0] ++ leBytes 2 e.shoal

/-- R150: the Gap of an uncertified result, as fp32 bits. R149 leaves the slots that a fragment lists out of its C_f: where the merge
drops such an entry that is not exact, its hi may exceed this bound, against R151; the formulas of R149 and R150 are followed
(DESIGN CHOICE, notes/assumptions/79.md). -/
def gapBits (missing : Bool) (short : Bool) (ceilings : List Nat) (kth : Nat) : Nat :=
  let top := (ceilings.map keyOf).foldl max 0
  if missing || short || top == topKey then posInf32
  else if top ≤ kth then 0
  else encode fp32 .ru (addX false (decode fp32 (valueOfKey top)) (neg (decode fp32 (valueOfKey kth))))

/-- What a query writes: status, header, entries, and the number of NaN entries. -/
structure QueryResult where
  status : Nat
  certified : Bool
  bytes : Bytes
  nans : Nat
  dups : Nat
  deriving DecidableEq, Repr

/-- R122 to R125, R150, R155 to R157, R185. A query whose encoder run has not ended has merged no shoal. -/
def queryResult (q : Query) : QueryResult :=
  let ok := mergedFrags q
  let replies := (q.frags.filter fun f => !resolved q f).filterMap (·.reply)
  let missing := q.routes.length - (ok.map fun p => p.1.shoals.length - p.2.notServed).sum
  let m := mergeLists q.k (ok.map fun p => p.2.mlist)
  let n := m.list.length
  let cert := !q.encoding && missing == 0 && ok.all fun p => p.2.certified
  let fail := ((replies.map (·.status)).filter unmerged).foldl max 0
  let status := max fail (max (if n < q.k then St.partial_ else St.ok) (if cert then St.ok else St.deadline))
  let gap := if cert then 0 else gapBits (q.encoding || missing != 0) (decide (n < q.k)) ((ok.filter fun p => !p.2.certified).map fun p => p.2.ceiling) m.kthKey
  let sum (f : Reply → Nat) : Nat := (replies.map f).sum
  let header := leBytes 1 status ++ leBytes 1 (boolBit (m.tiedLeftOut != 0) 0 + boolBit cert 1 + boolBit q.openQuery 2)
    ++ leBytes 2 q.commandId ++ leBytes 2 q.k ++ leBytes 2 n ++ leBytes 6 q.stamp ++ leBytes 2 missing ++ leBytes 4 m.tiedLeftOut
    ++ leBytes 4 gap ++ leBytes 8 m.sumSelected ++ leBytes 8 m.sumRest ++ leBytes 4 m.restCount ++ leBytes 4 (sum (·.verifyReads))
    ++ leBytes 4 (sum (·.leavesScanned)) ++ leBytes 4 (sum (·.nodesExpanded)) ++ List.replicate 8 0
  { status := status, certified := cert
    bytes := header ++ m.list.flatMap MEntry.resultBytes ++ (List.replicate (q.k - n) sentinelEntry).flatten
    nans := (m.list.filter fun e => e.key == topKey).length, dups := m.duplicates }

/-- Drop the fragments that this node serves for its own query. -/
def dropOwnFrags (s : State) (q : Query) : State :=
  let mine := s.qry.frags.filter fun g => g.own && q.frags.any fun f => f.sub == g.sub
  let s := mine.foldl (fun s g => { s with flash := g.reads.foldl (fun (u : FlashUnit) (r : Nat × Bool) => Flash.forget u (.verify g.id r.1)) s.flash }) s
  { s with qry := { s.qry with frags := s.qry.frags.filter fun g => !mine.any fun m => m.id == g.id } }

/-- R124: write the result of a query, then its completion entry. -/
def completeQuery (s : State) (tag : Nat) : State :=
  match s.query tag with
  | none => s
  | some q =>
    let r := queryResult q
    let s := dropOwnFrags s q
    let s := { s with qry := { s.qry with queries := s.qry.queries.filter fun x => x.tag != tag } }
    let s := s.bump Ent.duplicatesDropped r.dups
    let s := s.bump Ent.naNSelected r.nans
    let s := s.bump (Ent.collStQueriesLed q.coll)
    let s := if r.certified then s else s.bump (Ent.collStUncertified q.coll)
    let s := match s.cmd q.cmd with
      | some c => if c.lost then s else s.hostWrite q.resultAddr r.bytes
      | none => s
    s.finish q.cmd r.status [] (s.now + 1)

/-- Nothing of a query is outstanding. -/
def queryDone (q : Query) : Bool := !q.encoding && q.frags.all fun f => f.reply.isSome

/-- R33: a query whose work was refused for its age is reissued whole under a new stamp. Every other RETRY is met by R156. -/
def restamp (s : State) (tag : Nat) : State :=
  match s.query tag with
  | none => s
  | some q =>
    let turned := q.frags.any fun f => match f.reply with
      | some r => r.aged
      | none => false
    if turned && decide (q.stamp < s.now) && decide (s.subticks < q.cutoff) then
      let s := dropOwnFrags s q
      let s := mapQuery s tag fun q => { q with
        stamp := s.now, frags := []
        routes := (List.range (s.params q.coll).shoals).map fun sh => routeShoal s q.coll sh s.now }
      fanOut s tag
    else s

/-- After replies: reissues, then the result once nothing is outstanding. -/
def settleQuery (s : State) (tag : Nat) : State :=
  let s := reissueFailed (restamp s tag) tag
  match s.query tag with
  | some q => if queryDone q then completeQuery s tag else s
  | none => s

/-- R155: a fragment reply reaches the lead node. -/
def leadReply (s : State) (src sub : Nat) (r : Reply) : State :=
  match findLead s src sub with
  | none => s
  | some (q, f) =>
    let s := noteReply s src sub r
    let ns := (s.subticks - f.sent) * s.tide.periodNs / 1024
    let s := { s with qry := { s.qry with turnaround := s.qry.turnaround ++ [(src, ns)] } }
    let s := if isFailure r.status then noteAvoided s q.coll src f.shoals else s
    settleQuery s q.tag

/-! The serving node's reply. -/

/-- R144: the prefetched reads still under way of slots that a complete fragment has discarded. -/
def droppedReads (g : Fragment) : Nat := (g.reads.filter (·.2)).length

/-- R154: reply to the lead and end the fragment. -/
def endFrag (s : State) (g : Fragment) (r : Reply) : State :=
  let s := if r.certified then s.bump (Ent.collStPrefetchUnused g.coll) (droppedReads g) else s
  let s := { s with flash := g.reads.foldl (fun (u : FlashUnit) (q : Nat × Bool) => Flash.forget u (.verify g.id q.1)) s.flash }
  let s := { s with qry := { s.qry with frags := s.qry.frags.filter fun h => h.id != g.id } }
  let s := s.bump (Ent.collStFragmentsServed g.coll)
  let s := if r.tiedLeftOut ≠ 0 ∨ (!r.list.isEmpty && tieStraddles g r.certified) = true then s.bump Ent.tieCompletions else s
  if g.own then leadReply s s.strand.nodeId g.sub r
  else sendMessage s g.lead 3 (s.cfg (Ent.collJobId g.coll)) 0x0002 [] [r.bytes g] .reply

/-- R148, R149: stop a fragment where it stands; one with nothing left to do is complete (R137). One that has not begun counts no
shoal as not served (DESIGN CHOICE, notes/assumptions/79.md). -/
def cutFrag (s : State) (id : Nat) : State :=
  match s.frag id with
  | none => s
  | some g => endFrag s g (if g.held then noReply St.deadline 0 0 g.openQuery else doneReply g (fragDone g))

/-- Take in a fragment of another node, or cut it at once where its cutoff has passed. -/
def serveFrag (s : State) (g : Fragment) : State :=
  let s' := takeFrag s g
  if s.pastCutoff g then cutFrag s' g.id else s'

/-- R153: a fragment request reaches a serving node. A refusal is the fragment's reply (R156). -/
def arriveFrag (s : State) (b : Bytes) : State :=
  let g := fragmentOf s b
  match fragRefusal s g with
  | some r => sendMessage s g.lead 3 (s.cfg (Ent.collJobId g.coll)) 0x0002 [] [{ failedReply g r.1 r.2 with aged := r.1 == St.retry && g.aged s }.bytes g] .reply
  | none => serveFrag s g

/-- R155: a fragment reply message reaches the lead node. -/
def arriveReply (s : State) (src : Nat) (b : Bytes) : State := leadReply s src (field b 56 4) (replyOfBytes b)

/-- R104: the record that a verification read returned does not match the slot it was asked for. -/
def badRecord (s : State) (id loc : Nat) : Bool :=
  match s.frag id with
  | none => false
  | some g =>
    let ds := Flash.ended s.flash (.verify id loc)
    !s.pastCutoff g && (g.reads.any fun r => r.1 == loc) && !Flash.reading s.flash (.verify id loc) && ds.all (fun d => d.status == St.ok)
      && g.cands.any (fun c => c.local_ == loc) && (match parseRecord (s.params g.coll).vecBytes (ds.flatMap (·.data)) with
        | none => true
        | some v => v.local_ != loc || !(g.cands.any fun c => c.local_ == loc && c.id == v.id))

/-- R136: what a verification read found; from the cutoff on it is discarded (R148). -/
def verifyDone (s : State) (id loc : Nat) : State :=
  match s.frag id with
  | none => s
  | some g =>
    match g.reads.find? fun r => r.1 == loc with
    | none => s
    | some r =>
      if Flash.reading s.flash (.verify id loc) then s
      else
        let ds := Flash.ended s.flash (.verify id loc)
        let bad := badRecord s id loc
        let s := { s with flash := Flash.forget s.flash (.verify id loc) }
        let g := { g with reads := g.reads.filter fun (q : Nat × Bool) => q.1 != loc }
        let keep (g : Fragment) : State := mapFrag s id fun _ => g
        if s.pastCutoff g then keep g
        else
        let g := prune g
        match g.cands.find? fun c => c.local_ == loc with
        | none => nextVerify ((keep g).bump (Ent.collStPrefetchUnused g.coll) (if r.2 then 1 else 0)) id
        | some c =>
          let p := s.params g.coll
          let rest := g.cands.filter fun d => d.local_ != loc
          match parseRecord p.vecBytes (ds.flatMap (·.data)) with
          | none => endFrag (keep g) g (failedReply g St.uncorrectable 0)
          | some v =>
            if bad || !ds.all fun d => d.status == St.ok then endFrag (keep g) g (failedReply g St.uncorrectable 0)
            else if filterTrue g.filter p.schema v.metadata then
              let x := QVec.of p g.vec
              let res : Resolved := ⟨c.id, c.shoal, scoreKey (x.score p v.vec), true, c.least⟩
              nextVerify (keep (prune { g with cands := rest, resolved := g.resolved ++ [res] })) id
            else nextVerify (keep { g with cands := rest }) id

end Sys2Proof.Machine
end

