-- ==== Sys2Proof/Machine/ChangeOps.lean ====
section
/-! DEFINITION. Accessions and deaccessions: the exchange of intake, primary and replica (R220 to R231), the write path
(R232 to R237), filling a copy (R245 to R247), upkeep windows (R241 to R244). -/

namespace Sys2Proof.Machine

open Sys2Proof Sys2Proof.Num

/-! Where a change goes. -/

/-- R68: the shoal of an item. -/
def shoalOf (p : Params) (item : Nat) : Nat := crc32c (leBytes 8 item) % max 1 p.shoals

/-- The primary of a shoal in the map in force, where it names one (R221). -/
def primaryOf (s : State) (c sh : Nat) : Option Nat :=
  ((records 8 (s.cfgB (Ent.collShoalMap c)))[sh]?).map fun r => field r 0 4 % 2 ^ 20

def replicaOf (s : State) (c sh : Nat) : Option Nat :=
  ((records 8 (s.cfgB (Ent.collShoalMap c)))[sh]?).map fun r => field r 4 4 % 2 ^ 20

/-- The apply Tide of a pending shoal map write (R221). -/
def pendingMap (s : State) (c : Nat) : Option Nat := (s.cat.tw.find? fun w => w.key == Ent.collShoalMap c).map (·.apply)

/-- The words and byte strings of a change forward. -/
def changeWords (c : Change) : List Nat :=
  [c.coll, c.shoal, c.item, boolBit c.deaccession 0 + boolBit c.ifAbsent 1, c.intake, c.tag]

/-! Outcomes at the intake node. -/

def doneBytes (d : ChangeDone) : Bytes := leBytes 6 d.commit ++ leBytes 1 d.result ++ [0]

/-- R229: end a change at its intake node; an OK that commits waits for boundary C. -/
def intakeDone (s : State) (i : Intake) (d : ChangeDone) : State :=
  if d.status = St.ok ∧ s.now < d.commit then
    let fix (x : Intake) : Intake := if x.tag = i.tag then { x with done := some d } else x
    { s with chg := { s.chg with intakes := s.chg.intakes.map fix } }
  else
    let s := { s with chg := { s.chg with intakes := s.chg.intakes.filter fun x => x.tag != i.tag } }
    s.finish i.cmd d.status (if d.status = St.ok then doneBytes d else []) d.retry

/-- Send a change's outcome to its intake node. -/
def outcome (s : State) (ch : Change) (d : ChangeDone) : State :=
  if ch.intake = s.strand.nodeId then
    if d.misdirected then againElsewhere
    else match s.chg.intakes.find? fun i => i.tag == ch.tag with
    | some i => intakeDone s i d
    | none => s
  else sendMessage s ch.intake 4 (s.cfg (Ent.collJobId ch.coll)) 0x0011
    [0, d.tag, d.status, d.commit, d.result, d.retry, boolBit d.misdirected 0] [] .outcome
where
  /-- R231: this intake node sends the change again to the primary that its map now names. -/
  againElsewhere : State := match primaryOf s ch.coll ch.shoal with
    | some n => if n = s.strand.nodeId then s
      else sendMessage s n 4 (s.cfg (Ent.collJobId ch.coll)) 0x0010 (changeWords ch) [ch.vec, ch.metadata] (.forward ch.tag)
    | none => s

def refusal (ch : Change) (st retry : Nat) : ChangeDone := ⟨ch.tag, st, 0, 0, retry, false⟩

/-! The write path. -/

/-- What applying a change to a copy did. -/
structure Applied where
  st : State
  /-- OK, or why the copy could not write. -/
  status : Nat
  retry : Nat
  /-- Existed (bit 0), Absent (bit 1), Declined (bit 3). -/
  result : Nat
  newSlot : Option Nat
  old : List OldSlot
  /-- The flash log write that it made (R237). -/
  write : Option Nat
  /-- The counter of the refusal, which the primary raises (R86, R227, R234). -/
  counter : Option Nat := none
  /-- The move that the change undid (R244). -/
  undone : Option MovedItem := none

/-- R101: new internal nodes go to shelf or stack memory; leaves and nodes take pages there. -/
def placeTrees (s : State) : State :=
  let size (c : Nat) : Nat := let p := s.params c; Index.nodeBytes p.metric p.dim
  placeExtents { s with idx := Index.placeNodes s.idx (fun c => s.cfg (Ent.collShelfLevels c)) size (s.cfg Ent.treeShelfBudget) }

/-- The start of the next upkeep window (R234). -/
def nextWindow (s : State) : Nat :=
  let p := max 1 (s.cfg Ent.upkeepPeriod)
  let o := s.cfg Ent.upkeepOffset
  let t := s.now + 1
  t + (p - (t + p - o % p) % p) % p

/-- R508: the user capacity has no room for `n` more codewords. -/
def noRoom (s : State) (n : Nat) : Bool := decide (Flash.capacity s.flash < Flash.mapped s + n)

/-- The next codeword of the item directory in region 4 (R474). -/
def dirNext (s : State) : Nat := 4 * 2 ^ 46 + s.flash.nextLog

/-- R237: write a change-log entry: item ID, local index and D; the number of its flash log write. One that withdraws an accession (R227) says so in the byte
after D (DESIGN CHOICE, notes/assumptions/88.md). -/
def writeLog (s : State) (c sh item l d : Nat) (withdrawn : Bool) : Nat × State :=
  let w := Flash.logWord s.flash.nextLog
  let s := { s with flash := { s.flash with nextLog := s.flash.nextLog + 1 } }
  let s := { s with idx := { s.idx with changeLog := s.idx.changeLog ++ [(⟨c, sh, item, l, d, withdrawn, w⟩ : LogEntry)] } }
  let data := leBytes 8 item ++ leBytes 4 l ++ leBytes 6 d ++ leBytes 1 (boolBit withdrawn 0)
  (s.flash.nextWrite, { s with flash := Flash.write s.flash s.subticks (s.collOwner c) [(w, padTo 4096 data)] })

/-! The item directory (R237). Its layout is internal to the node: here 256 entries of 16 bytes to a codeword of region 4
(DESIGN CHOICE, notes/assumptions/81.md). -/

/-- The codeword that takes a collection's next directory entry. -/
def dirCodeword (s : State) (c : Nat) : Nat × State :=
  let mine := s.idx.directory.filter fun e => e.coll == c
  match mine.getLast? with
  | some e => if (mine.filter fun x => x.codeword == e.codeword).length < 256 then (e.codeword, s) else fresh
  | none => fresh
where
  fresh : Nat × State := (dirNext s, { s with flash := { s.flash with nextLog := s.flash.nextLog + 1 } })

/-- The codewords by which `n` more entries of a collection can lengthen the directory. -/
def dirGrows (s : State) (c n : Nat) : Nat :=
  let mine := s.idx.directory.filter fun e => e.coll == c
  let room := match mine.getLast? with
    | some e => 256 - (mine.filter fun x => x.codeword == e.codeword).length
    | none => 0
  (n - room + 255) / 256

def ItemEntry.bytes (e : ItemEntry) : Bytes := leBytes 8 e.item ++ leBytes 4 e.local_ ++ leBytes 2 e.shoal ++ leBytes 1 e.coll ++ [0]

/-- A directory codeword as it is written. -/
def dirBytes (s : State) (w : Nat) : Bytes := padTo 4096 ((s.idx.directory.filter fun e => e.codeword == w).flatMap ItemEntry.bytes)

/-- The directory entry of an item names this slot; the codeword that holds it. -/
def setEntry (s : State) (c sh item l : Nat) : Nat × State :=
  let s := { s with idx := { s.idx with directory := s.idx.directory.filter fun e => !(e.coll == c && e.shoal == sh && e.item == item) } }
  let (w, s) := dirCodeword s c
  (w, { s with idx := { s.idx with directory := s.idx.directory ++ [⟨c, sh, item, l, w⟩] } })

/-- The codewords of an item record at the logical address of its slot (R102). -/
def recordData (s : State) (c : Nat) (r : ItemRec) : List (Nat × Bytes) :=
  let p := s.params c
  let n := recordCodewords p.vecBytes p.metaBytes
  (recordLogical n r.local_).zip (codewordsOf n r.bytes)

/-- R102, R237: write a record at the logical address of its slot, and its directory entry in the same write. The slot's
record in State is already there. The number of the flash log write. -/
def programRecord (s : State) (c : Nat) (r : ItemRec) : Nat × State :=
  let d := recordData s c r
  let (w, s) := setEntry s c (shoalOf (s.params c) r.id) r.id r.local_
  (s.flash.nextWrite, { s with flash := Flash.write s.flash s.subticks (s.collOwner c) (d ++ [(w, dirBytes s w)]) })

/-- R102, R237: write an item's record. -/
def writeRecord (s : State) (c l item acc : Nat) (v metadata : Bytes) : Nat × State :=
  let p := s.params c
  let r : ItemRec := ⟨l, item, s.cfg (Ent.collCollectionId c), acc, p.dim, p.format, v, metadata⟩
  programRecord { s with idx := { s.idx with records := s.idx.records ++ [r] } } c r

/-- Note a change that commits at a boundary. -/
def willCommit (s : State) (c kind commit : Nat) : State :=
  { s with chg := { s.chg with committing := s.chg.committing ++ [((c, kind, commit) : Nat × Nat × Nat)] } }

/-- What a slot holds before a change rewrites it. -/
def oldSlot (x : IndexUnit) (l : Nat) : OldSlot := ⟨l, ((Index.slotAt x l).map (·.word)).getD 0, Index.ledgered x l⟩

/-- Apply a change that commits at `commit` to a copy held here (R85, R86, R223 to R227, R232 to R237, R244, R509). Where it
changes nothing, or cannot be made, nothing is written. -/
def applyChange (s : State) (cp : ShoalCopy) (ch : Change) (commit : Nat) : Applied :=
  let p := s.params ch.coll
  let mv := Index.moveOf s.idx ch.coll ch.shoal ch.item
  let base := match mv with
    | some m => Index.undoMove s.idx m
    | none => s.idx
  let cur := Index.presentSlot base ch.coll ch.shoal ch.item
  let fail (st retry counter : Nat) : Applied :=
    { st := s, status := st, retry := retry, result := 0, newSlot := none, old := [], write := none, counter := some counter }
  let same (result : Nat) : Applied := { st := s, status := St.ok, retry := 0, result := result, newSlot := none, old := [], write := none }
  let old : List OldSlot := ((match mv with
    | some m => [m.new, m.old]
    | none => match cur with
      | some q => [q.1]
      | none => []).map (oldSlot s.idx))
  if ch.deaccession then
    match cur with
    | none => same 2
    | some (l, sl) =>
      if Flash.reserve s.flash < Flash.logUsed s.flash + 1 then { fail St.retry (s.now + s.cfg Ent.journalFlushTides) 0 with counter := none }
      else match Index.removeSlot base (commit - 1) l sl with
        | none => fail St.retry (s.now + 1) Ent.ledgerRefusals
        | some x =>
          let (w, s) := writeLog { s with idx := x } ch.coll ch.shoal ch.item l commit false
          { st := willCommit s ch.coll 1 commit, status := St.ok, retry := 0, result := 0, newSlot := none, old := old
            write := some w, undone := mv }
  else if ch.ifAbsent && cur.isSome then same 9
  else if noRoom s (recordCodewords p.vecBytes p.metaBytes + dirGrows s ch.coll 1) then fail St.mediaFull 0 Ent.mediaFullRefusals
  else
    let v := p.stored ch.vec
    let removed : Option IndexUnit := match cur with
      | some (l, sl) => Index.removeSlot base (commit - 1) l sl
      | none => some base
    match removed with
    | none => fail St.retry (s.now + 1) Ent.ledgerRefusals
    | some x =>
      match Index.place x p cp ch.item (stampWord slotPending commit) commit v ch.metadata false with
      | none => fail St.retry (nextWindow s) Ent.fullTreeRefusals
      | some (l, x) =>
        let (w, s) := writeRecord (placeTrees { s with idx := x }) ch.coll l ch.item commit v ch.metadata
        let s := willCommit s ch.coll 0 commit
        { st := if cur.isSome then willCommit s ch.coll 2 commit else s, status := St.ok, retry := 0
          result := if cur.isSome then 1 else 0, newSlot := some l, old := old, write := some w, undone := mv }

/-- A rewritten slot as it was. -/
def restoreSlot (x : IndexUnit) (o : OldSlot) : IndexUnit :=
  let y := Index.setWord x o.local_ o.word
  let rest := y.ledger.filter fun e => e.1 != o.local_
  { y with ledger := match o.ledger with
    | some c => rest ++ [(o.local_, c)]
    | none => rest }

/-- Directory codewords without an entry leave the map. -/
def pruneDirectory (s : State) (ws : List Nat) : State :=
  { s with flash := Flash.unmapAll s.flash (ws.eraseDups.filter fun w => !s.idx.directory.any fun e => e.codeword == w) }

/-- The change of the same Tide that was built on the slot of an accession: it made that slot Empty. -/
def builtOn (s : State) (a : Accepted) : Option Accepted :=
  s.chg.accepted.find? fun b => b.change.coll == a.change.coll && b.change.shoal == a.change.shoal && b.seq != a.seq
    && b.old.any fun o => some o.local_ == a.newSlot

/-- The change built on a withdrawn one stands as if it alone had been accepted: it takes over the old slots, which it too
removes, and what it found there (DESIGN CHOICE, notes/assumptions/88.md). -/
def rebase (s : State) (a b : Accepted) : State :=
  let existed := a.result % 2
  let result := if b.change.deaccession then (if existed = 1 then b.result else b.result / 4 * 4 + 2)
    else b.result / 2 * 2 + existed
  let old := (b.old.filter fun o => some o.local_ != a.newSlot) ++ a.old
  let b' : Accepted := { b with old := old, result := result, undone := a.undone }
  let e := (b.change.coll, if b.change.deaccession then 1 else 2, b.commit)
  let s := { s with chg := { s.chg with
    accepted := s.chg.accepted.map fun c => if c = b then b' else c
    committing := if existed = 1 then s.chg.committing else s.chg.committing.erase e } }
  if b.change.deaccession && existed == 0 then s.bump (Ent.collStAbsentDeaccessions b.change.coll) else s

/-- R227: take an accession's writes back. Its record stays readable until its leaf is reclaimed (R238); a change-log entry
keeps a rebuild from finding it (DESIGN CHOICE, notes/assumptions/88.md). -/
def withdraw (s : State) (a : Accepted) : State :=
  let x := match a.newSlot with
    | some l => Index.setWord s.idx l 0
    | none => s.idx
  let gone := (a.change.coll, 0, a.commit) :: if a.result % 2 = 1 then [(a.change.coll, 2, a.commit)] else []
  let s := { s with chg := { s.chg with committing := gone.foldl (fun (l : List (Nat × Nat × Nat)) e => l.erase e) s.chg.committing } }
  let ws := s.idx.directory.map (·.codeword)
  let named := { x with directory := x.directory.filter fun e => some e.local_ != a.newSlot }
  let s := match builtOn s a with
    | some b => rebase { s with idx := named } a b
    | none =>
      let x := a.old.foldl restoreSlot named
      { s with idx := match a.undone with
        | some m => { x with moved := x.moved ++ [m] }
        | none => x }
  let s := match a.newSlot with
    | some l => (writeLog s a.change.coll a.change.shoal a.change.item l a.commit true).2
    | none => s
  let s := match Index.presentSlot s.idx a.change.coll a.change.shoal a.change.item with
    | some (l, _) =>
      let (w, s) := setEntry s a.change.coll a.change.shoal a.change.item l
      { s with flash := Flash.write s.flash s.subticks (s.collOwner a.change.coll) [(w, dirBytes s w)] }
    | none => s
  pruneDirectory s ws

/-! The primary. -/

/-- A change accepted, with the fields that its end needs. -/
def acceptedDone (a : Accepted) : ChangeDone := ⟨a.change.tag, St.ok, if a.result % 16 / 2 % 2 = 1 ∨ a.result / 8 % 2 = 1 then 0 else a.commit, a.result, 0, false⟩

/-- R229: send the outcome of every accepted change that both copies hold durably. -/
def settleAccepted (s : State) : State :=
  let done := s.chg.accepted.filter fun a => a.ownDurable && a.replicaDurable
  let s := { s with chg := { s.chg with accepted := s.chg.accepted.filter fun a => !(a.ownDurable && a.replicaDurable) } }
  done.foldl (fun s a => outcome s a.change (acceptedDone a)) s

/-- Forward a sequenced change to another copy. -/
def forwardChange (s : State) (node : Nat) (ch : Change) (seq commit result tag : Nat) : State :=
  sendMessage s node 4 (s.cfg (Ent.collJobId ch.coll)) 0x0010 (changeWords ch ++ [seq, commit, result]) [ch.vec, ch.metadata] (.toReplica tag)

/-- R12, R50, R225, R231: why a primary refuses a change, with its status and suggested Tide. -/
def changeRefusal (s : State) (ch : Change) : Option ChangeDone :=
  let elsewhere := primaryOf s ch.coll ch.shoal != some s.strand.nodeId
  let serving := match Index.findCopy s.idx ch.coll ch.shoal with
    | some cp => cp.state == .serving
    | none => false
  (worst [ (elsewhere, St.retry, s.now + 1)
         , (s.collState ch.coll != 2, St.badJob, 0)
         , (acquiring s, St.retry, s.now + 1)
         , (!functionOn s 1, St.retry, functionRetry s 1)
         , (decide (s.num Ent.changeTableSize ≤ s.chg.accepted.length + s.chg.held.length), St.retry, s.now + 1)
         , (!serving, St.retry, s.now + 1)
         , (s.slotState (s.collOwner ch.coll) != 1, St.accessDenied, 0) ]).map fun r =>
    { refusal ch r.1 r.2 with misdirected := elsewhere && r.1 == St.retry }

/-- R224 to R226: the primary accepts a change in the current Tide, gives it the next sequence number, applies it, and
forwards it. -/
def acceptChange (s : State) (ch : Change) : State :=
  match changeRefusal s ch, Index.findCopy s.idx ch.coll ch.shoal with
  | some d, _ => outcome s ch d
  | none, none => s
  | none, some cp =>
    let commit := s.now + 1
    let a := applyChange s cp ch commit
    if a.status ≠ St.ok then outcome (a.counter.elim a.st a.st.bump) ch (refusal ch a.status a.retry)
    else
      let s := { a.st with idx := Index.mapCopy a.st.idx ch.coll ch.shoal fun c => { c with seq := c.seq + 1 } }
      let single := cp.replicaStale
      let acc : Accepted :=
        { change := ch, seq := cp.seq, commit := commit, result := a.result + (if single then 4 else 0), newSlot := a.newSlot
          old := a.old, write := a.write, undone := a.undone, ownDurable := a.write.isNone, replicaDurable := single, withdrawn := false }
      let s := { s with chg := { s.chg with accepted := s.chg.accepted ++ [acc] } }
      let s := if a.result = 2 then s.bump (Ent.collStAbsentDeaccessions ch.coll) else s
      let s := match replicaOf s ch.coll ch.shoal with
        | some n => if !single || (cp.forwardFrom != 0 && decide (cp.forwardFrom ≤ s.now)) then forwardChange s n ch cp.seq commit a.result cp.seq else s
        | none => s
      settleAccepted s

/-- R225: a change reaches its primary: accepted below the cutoff phase, held past it. -/
def primaryTake (s : State) (ch : Change) : State :=
  match changeRefusal s ch with
  | some d => outcome s ch d
  | none =>
    if s.tide.phase + s.tide.overrun < s.cfg Ent.changeCutoffPhase then acceptChange s ch
    else { s with chg := { s.chg with held := s.chg.held ++ [(s.now, ch)] } }

/-- Send a change of this intake node to its primary. -/
def sendChange (s : State) (ch : Change) : State :=
  match primaryOf s ch.coll ch.shoal with
  | none => s
  | some n =>
    if n = s.strand.nodeId then primaryTake s ch
    else sendMessage s n 4 (s.cfg (Ent.collJobId ch.coll)) 0x0010 (changeWords ch) [ch.vec, ch.metadata] (.forward ch.tag)

/-- R228: mark the replica of a shoal Stale; its changes go on with one copy, and it refills from the next boundary. Of a
replica that is Stale already, only the changes still in flight are settled. -/
def markStale (s : State) (c sh : Nat) : State :=
  match Index.findCopy s.idx c sh with
  | none => s
  | some cp =>
    if cp.replica then s
    else
      let s := if cp.replicaStale then s
        else { s with idx := Index.mapCopy s.idx c sh fun q => { q with replicaStale := true, forwardFrom := s.now + 1, streamed := none } }.bump
          (Ent.collStStaleEvents c)
      let fix (a : Accepted) : Accepted :=
        if a.change.coll = c ∧ a.change.shoal = sh ∧ !a.replicaDurable then { a with replicaDurable := true, result := a.result + 4 } else a
      settleAccepted { s with chg := { s.chg with accepted := s.chg.accepted.map fix } }

/-- R227, R228: the replica's report reaches the primary. -/
def noteAck (s : State) (k : Ack) : State :=
  match s.chg.accepted.find? fun a => a.change.coll == k.coll && a.change.shoal == k.shoal && a.seq == k.seq with
  | none => s
  | some a =>
    if a.replicaDurable then s
    else if k.status = St.mediaFull ∧ s.now < a.commit then
      let s := { s with chg := { s.chg with accepted := s.chg.accepted.filter fun b => !(b.change.coll == k.coll && b.change.shoal == k.shoal && b.seq == k.seq) } }
      outcome (withdraw s a) a.change (refusal a.change St.mediaFull 0)
    else if k.status ≠ St.ok ∨ !k.inTime ∨ k.result % 4 ≠ a.result % 4 then markStale s k.coll k.shoal
    else
      let fix (b : Accepted) : Accepted :=
        if b.change.coll = k.coll ∧ b.change.shoal = k.shoal ∧ b.seq = k.seq then { b with replicaDurable := true } else b
      settleAccepted { s with chg := { s.chg with accepted := s.chg.accepted.map fix } }

/-! The replica. -/

/-- The other copy's node of a shoal held here. -/
def otherCopy (s : State) (cp : ShoalCopy) : Option Nat := if cp.replica then primaryOf s cp.coll cp.shoal else replicaOf s cp.coll cp.shoal

/-- R245 step 1: a copy that is a source forwards what it receives. -/
def forwardOn (s : State) (cp : ShoalCopy) (q : Sequenced) : State :=
  if cp.forwardFrom = 0 ∨ s.now < cp.forwardFrom then s
  else match otherCopy s cp with
    | some n => forwardChange s n q.change q.seq q.commit q.result q.seq
    | none => s

/-- Send an acknowledgement or failure report to the primary. -/
def sendAck (s : State) (node : Nat) (k : Ack) : State :=
  if node = s.strand.nodeId then noteAck s k
  else sendMessage s node 4 (s.cfg (Ent.collJobId k.coll)) 0x0011
    [1, k.coll, k.shoal, k.seq, k.status, boolBit k.inTime 0, k.result] [] .ack

/-- The copy of a shoal applies forwarded changes. -/
def takesForwards (cp : ShoalCopy) : Bool := cp.state == .serving || cp.state == .filling

/-- R226: apply the next waiting change of a copy, in sequence order; a filling copy keeps a mark of each deaccession
(R246). A forward that came after C is written all the same: that it was late is no failure to complete it (R228). -/
def applyNext (s : State) (c sh : Nat) : Option State :=
  match Index.findCopy s.idx c sh with
  | none => none
  | some cp =>
    if !takesForwards cp || cp.seq = 0 then none
    else match s.chg.sequenced.find? fun q => q.change.coll == c && q.change.shoal == sh && !q.applied && q.seq == cp.seq with
      | none => none
      | some q =>
        let next (s : State) : State := forwardOn { s with idx := Index.mapCopy s.idx c sh fun p => { p with
          seq := p.seq + 1
          marks := if q.change.deaccession ∧ cp.state = .filling then p.marks ++ [(q.change.item, q.commit)] else p.marks } } cp q
        let drop (s : State) : State := { s with chg := { s.chg with
          sequenced := s.chg.sequenced.filter fun x => !(x.change.coll == c && x.change.shoal == sh && x.seq == q.seq) } }
        let report (st : Nat) (inTime : Bool) (result : Nat) : Ack := ⟨c, sh, q.seq, st, inTime, result⟩
        let a := applyChange s cp q.change q.commit
        if a.status = St.mediaFull then some (sendAck (next (drop a.st)) q.primary (report St.mediaFull true 0))
        else if a.status ≠ St.ok then some (sendAck (next (drop a.st)) q.primary (report St.ok false 0))
        else if a.write.isNone then some (sendAck (next (drop a.st)) q.primary (report St.ok true a.result))
        else
          let fix (x : Sequenced) : Sequenced :=
            if x.change.coll = c ∧ x.change.shoal = sh ∧ x.seq = q.seq then { x with applied := true, write := a.write, result := a.result } else x
          some (next { a.st with chg := { a.st.chg with sequenced := a.st.chg.sequenced.map fix } })

def applyWaiting (c sh : Nat) : Nat → State → State
  | 0, s => s
  | n + 1, s =>
    match applyNext s c sh with
    | none => s
    | some s => applyWaiting c sh n s

/-- R226, R631: a sequenced change reaches a replica or a filling copy. -/
def replicaTake (s : State) (src : Nat) (ch : Change) (seq commit result : Nat) : State :=
  let bad : Ack := ⟨ch.coll, ch.shoal, seq, St.ok, false, 0⟩
  match Index.findCopy s.idx ch.coll ch.shoal with
  | none => sendAck s src bad
  | some cp =>
    if !functionOn s 1 then sendAck s src bad
    else if !takesForwards cp then s
    else if cp.seq ≠ 0 ∧ seq < cp.seq then s
    else if s.chg.sequenced.any fun q => q.change.coll == ch.coll && q.change.shoal == ch.shoal && q.seq == seq then s
    else
      let s := { s with chg := { s.chg with sequenced := s.chg.sequenced ++ [(⟨ch, seq, commit, result, src, false, none⟩ : Sequenced)] } }
      applyWaiting ch.coll ch.shoal (s.chg.sequenced.length) s

/-! Durability. -/

def allDurable (s : State) (w : Option Nat) : Bool := w.all (Flash.writeDurable s.flash)

/-- R224 step 4, R229: after flash programs, acknowledge and complete what has become durable. -/
def settleDurable (s : State) : State :=
  let ready := s.chg.sequenced.filter fun q => q.applied && allDurable s q.write
  let s := { s with chg := { s.chg with sequenced := s.chg.sequenced.filter fun q => !(q.applied && allDurable s q.write) } }
  let s := ready.foldl (fun s q => sendAck s q.primary ⟨q.change.coll, q.change.shoal, q.seq, St.ok, true, q.result⟩) s
  let fix (a : Accepted) : Accepted := if allDurable s a.write then { a with ownDurable := true } else a
  settleAccepted { s with chg := { s.chg with accepted := s.chg.accepted.map fix } }

/-! Filling a copy (R245, R246). -/

def fillWords : FillItem → List Nat × List Bytes
  | .request c sh => ([0, c, sh], [])
  | .start c sh q => ([1, c, sh, q], [])
  | .record c sh id t v m => ([2, c, sh, id, t], [v, m])
  | .mark c sh i b => ([3, c, sh, i, b], [])
  | .finish c sh q => ([4, c, sh, q], [])
  | .serving c sh => ([5, c, sh], [])

def sendFill (s : State) (cp : ShoalCopy) (x : FillItem) : State :=
  match otherCopy s cp with
  | some n => sendMessage s n 8 (s.cfg (Ent.collJobId cp.coll)) 0x0012 (fillWords x).1 (fillWords x).2 .fill
  | none => s

/-- An empty tree for a copy (R110, R112). -/
def newCopy (s : State) (c sh : Nat) (replica : Bool) (st : CopyState) : State :=
  let p := s.params c
  let (root, x) := Index.newNode s.idx c sh 0 0 s.now (Index.nodeBytes p.metric p.dim)
  placeTrees { s with idx := { x with copies := x.copies ++
    [(⟨c, sh, replica, st, s.now, root, if st = .serving then 1 else 0, false, 0, false, [], none, false, 0, none, none, false⟩ : ShoalCopy)] } }

/-- Item records leave the map with what the index holds of them. -/
def unmapRecords (s : State) (c : Nat) (recs : List ItemRec) : State :=
  let p := s.params c
  let n := recordCodewords p.vecBytes p.metaBytes
  { s with flash := Flash.unmapAll s.flash (recs.flatMap fun (r : ItemRec) => recordLogical n r.local_) }

/-- R111, R112: free a copy with its records on flash, and every tree that it gave up. -/
def dropCopy (s : State) (c sh : Nat) : State :=
  let p := s.params c
  let mine (r : ItemRec) : Bool := r.collId == s.cfg (Ent.collCollectionId c) && shoalOf p r.id == sh
  let s := unmapRecords s c (s.idx.records.filter mine)
  let logs := (s.idx.changeLog.filter fun e => e.coll == c && e.shoal == sh).map (·.codeword)
  let s := { s with flash := Flash.unmapAll s.flash logs }
  let ws := s.idx.directory.map (·.codeword)
  let x := Index.freeShoal s.idx c sh
  pruneDirectory (placeTrees { s with idx := { x with records := x.records.filter fun r => !mine r, found := x.found.filter fun f => !mine f.item } }) ws

/-- Free a tree that its copy gave up, with its records. -/
def dropKept (s : State) (k : KeptTree) : State :=
  let leaves := (s.idx.leaves.filter fun l => l.kept == some k.root).map (·.id)
  let s := unmapRecords s k.coll (s.idx.records.filter fun r => leaves.contains (leafOf r.local_))
  let ws := s.idx.directory.map (·.codeword)
  let x := Index.freeKept s.idx k.root
  pruneDirectory (placeTrees { s with idx := { x with directory := x.directory.filter fun e => !leaves.contains (leafOf e.local_) } }) ws

/-- Start a copy's refill: work under way may still read its old tree (R238); a new one fills from the other copy. A shoal
that was kept under R112 keeps it until L passes the boundary of the map that took it away. -/
def startFill (s : State) (c sh : Nat) (replica : Bool) : State :=
  let s := match Index.findCopy s.idx c sh with
    | some cp => { s with idx := Index.giveUpTree s.idx cp (cp.releaseAt.getD s.now) }
    | none => s
  let s := newCopy s c sh replica .filling
  match Index.findCopy s.idx c sh with
  | some cp => sendFill s cp (.request c sh)
  | none => s

/-- The highest AccessionTide of a version of an item that a copy holds. -/
def heldVersion (s : State) (c sh item : Nat) : Option Nat :=
  (Index.presentSlot s.idx c sh item).bind fun q => (s.idx.records.find? fun r => r.local_ == q.1).map (·.accTide)

/-- R246: place a streamed item, or discard it. -/
def placeStreamed (s : State) (cp : ShoalCopy) (id acc : Nat) (v metadata : Bytes) : State :=
  let newer := match heldVersion s cp.coll cp.shoal id with
    | some t => decide (acc ≤ t)
    | none => false
  if newer || cp.marks.any fun m => m.1 == id && decide (acc < m.2) then s
  else
    let p := s.params cp.coll
    let x : Option IndexUnit := match Index.presentSlot s.idx cp.coll cp.shoal id with
      | some (l, sl) => Index.removeSlot s.idx s.now l sl
      | none => some s.idx
    match x.bind fun x => Index.place x p cp id (stampWord slotPending (s.now + 1)) (s.now + 1) v metadata true with
    | none => s
    | some (l, x) => (writeRecord (placeTrees { s with idx := x }) cp.coll l id acc v metadata).2

/-! A cold reset's rebuild from own flash (R247, R491). -/

/-- The slot whose collection, not Closed, has this CollectionId. -/
def slotOfColl (s : State) (id : Nat) : Option Nat :=
  (List.range 256).find? fun c => s.collState c != 0 && s.cfg (Ent.collCollectionId c) == id

/-- The item records among what the rebuild has read (R247). -/
def scanRecords (s : State) : List FoundRec :=
  let data (l : Nat) : Option Bytes := (s.flash.map.lookup l).bind (Flash.scanOf s.flash)
  s.flash.map.filterMap fun (m : Nat × Phys) =>
    if regionOf m.1 ≠ 0 then none
    else (data m.1).bind fun b => (slotOfColl s (field b 8 4)).bind fun c =>
      let p := s.params c
      let n := recordCodewords p.vecBytes p.metaBytes
      let ls := (List.range n).map (m.1 + ·)
      if (ls.map data).any Option.isNone then none
      else (parseRecord p.vecBytes (ls.flatMap fun l => padTo 4096 ((data l).getD []))).bind fun r =>
        if recordLogical n r.local_ = ls then some ⟨ls, r, ((Flash.codewordAt s.flash m.2).map (·.seq)).getD 0⟩ else none

/-- R247: rebuild a copy from what its own flash held; it serves from the next boundary. A deaccession ends the versions accessed before
D, and of those accessed for D the one whose slot its change-log entry names. Of several accessed for one Tide the one with the highest
write sequence stays (R491). -/
def rebuildOwn (s : State) (c sh : Nat) : State :=
  let p := s.params c
  let ours (f : FoundRec) : Bool := f.item.collId == s.cfg (Ent.collCollectionId c) && shoalOf p f.item.id == sh
  let mine := s.idx.found.filter ours
  let logged (f : FoundRec) (e : LogEntry) : Bool := e.coll == c && e.item == f.item.id
  let withdrawn (f : FoundRec) : Bool := s.idx.changeLog.any fun e =>
    logged f e && e.withdrawn && f.item.accTide == e.boundary && f.item.local_ == e.local_
  let dead (f : FoundRec) : Bool := s.idx.changeLog.any fun e => logged f e && !e.withdrawn
    && (decide (f.item.accTide < e.boundary) || (f.item.accTide == e.boundary && f.item.local_ == e.local_))
  let stood := mine.filter fun f => !withdrawn f
  let older (f : FoundRec) : Bool := stood.any fun g => g.item.id == f.item.id && (decide (f.item.accTide < g.item.accTide)
    || (f.item.accTide == g.item.accTide && decide (f.seq < g.seq)))
  let best := stood.filter fun f => !dead f && !older f
  let s := best.foldl (fun s f => match Index.findCopy s.idx c sh with
    | some cp => placeStreamed s cp f.item.id f.item.accTide f.item.vec f.item.metadata
    | none => s) s
  let s := { s with flash := Flash.unmapAll s.flash (mine.flatMap FoundRec.logicals) }
  let old (r : ItemRec) : Bool := mine.any fun f => f.item.local_ == r.local_
  let x := { s.idx with records := s.idx.records.filter fun r => !old r, found := s.idx.found.filter fun f => !ours f }
  { s with idx := Index.mapCopy x c sh fun q => { q with cold := false, servingNext := true, seq := 1 } }

/-- R247: the other copy's node answers that its copy does not serve: a copy that a cold reset lost rebuilds itself, and any
other asks again. -/
def fillRefused (s again : State) (c sh : Nat) : State :=
  match Index.findCopy s.idx c sh with
  | some cp =>
    if cp.state == .filling && !cp.servingNext && cp.seq == 0 then
      if cp.cold then rebuildOwn s c sh else again
    else s
  | none => s

/-- Ask for the fill of a copy; without another copy a cold one rebuilds itself. -/
def askFill (s : State) (cp : ShoalCopy) : State :=
  match otherCopy s cp with
  | some _ => sendFill s cp (.request cp.coll cp.shoal)
  | none => if cp.cold then rebuildOwn s cp.coll cp.shoal else s

/-- R508: the user capacity has no room for a streamed record and its directory entry. -/
def fillFull (s : State) (x : FillItem) : Bool :=
  match x with
  | .record c _ _ _ _ _ => let p := s.params c; noRoom s (recordCodewords p.vecBytes p.metaBytes + dirGrows s c 1)
  | _ => false

/-- A fill item reaches the filling copy or its source. A copy that its source holds Stale serves until the first item comes
(DESIGN CHOICE, notes/assumptions/24.md). -/
def fillTake (s : State) (x : FillItem) : State :=
  let withCopy (c sh : Nat) (f : ShoalCopy → State) : State := match Index.findCopy s.idx c sh with
    | some cp => f cp
    | none => s
  let filling (c sh : Nat) (f : ShoalCopy → State) : State := withCopy c sh fun cp => if cp.state = .filling then f cp else s
  if !functionOn s 1 then s
  else match x with
  | .request c sh => withCopy c sh fun cp =>
      if cp.state ≠ .serving then s
      else { s with idx := Index.mapCopy s.idx c sh fun p => { p with replicaStale := !cp.replica, forwardFrom := s.now + 1, streamed := none, reading := none } }
  | .start c sh q => withCopy c sh fun cp =>
      let s := if cp.state = .filling then s else newCopy { s with idx := Index.giveUpTree s.idx cp s.now } c sh cp.replica .filling
      let s := { s with
        idx := Index.mapCopy s.idx c sh fun p => { p with seq := q }
        chg := { s.chg with sequenced := s.chg.sequenced.filter fun x =>
          !(x.change.coll == c && x.change.shoal == sh && !x.applied && decide (x.seq < q)) } }
      applyWaiting c sh s.chg.sequenced.length s
  | .record c sh id t v m => filling c sh fun cp =>
      if fillFull s x then s.bump Ent.mediaFullRefusals else placeStreamed s cp id t v m
  | .mark c sh i b => filling c sh fun _ => { s with idx := Index.mapCopy s.idx c sh fun p => { p with marks := p.marks ++ [(i, b)] } }
  | .finish c sh q => filling c sh fun cp =>
      { s with idx := Index.mapCopy s.idx c sh fun p => { p with streamEnded := true, endSeq := q, seq := if cp.replica then p.seq else q } }
  | .serving c sh => withCopy c sh fun _ =>
      { s with idx := Index.mapCopy s.idx c sh fun p => { p with replicaStale := false, forwardFrom := 0, streamed := none, reading := none } }

/-- R245 step 4: every change that the source forwarded before it ended the stream has come, and every forwarded one with C up
to the current boundary has committed. -/
def fillReady (s : State) (cp : ShoalCopy) : Bool :=
  cp.state == .filling && cp.streamEnded && !cp.servingNext && cp.seq != 0 && decide (cp.endSeq ≤ cp.seq)
    && !(s.chg.sequenced.any fun q => q.change.coll == cp.coll && q.change.shoal == cp.shoal && !q.applied && decide (q.commit ≤ s.now))

/-- The slots of a leaf that the current Tide sees. -/
def leafVisible (s : State) (l : Leaf) : List (Nat × Slot) :=
  (Index.leafSlots l).filter fun q => q.2.visible s.now s.now (Index.ledgered s.idx q.1)

/-- The reads of a slot's record for a fill. -/
def fillUse (l : Leaf) (slot : Nat) : ReadUse := .fill l.coll l.shoal slot

/-- R245, R485: read the records of a leaf's visible items. -/
def readLeaf (s : State) (l : Leaf) : State :=
  let p := s.params l.coll
  (leafVisible s l).foldl (fun s q => { s with
    flash := Flash.readAll s.flash (recordLogical (recordCodewords p.vecBytes p.metaBytes) q.1) (s.collOwner l.coll) 3 (fillUse l q.1) }) s

/-- Reads of a leaf's records are outstanding. -/
def leafReading (s : State) (l : Leaf) : Bool := (Index.leafSlots l).any fun q => Flash.reading s.flash (fillUse l q.1)

/-- The records of a leaf have been handed over. -/
def forgetLeaf (s : State) (l : Leaf) : State :=
  { s with flash := (Index.leafSlots l).foldl (fun u q => Flash.forget u (fillUse l q.1)) s.flash }

/-- The record that was read for a slot, where it passes R104; none too where its reads were not made. -/
def readRecord (s : State) (l : Leaf) (slot item : Nat) : Option ItemRec :=
  let ds := Flash.ended s.flash (fillUse l slot)
  if ds.isEmpty || ds.any (fun d => d.status != St.ok) then none
  else (parseRecord (s.params l.coll).vecBytes (ds.flatMap (·.data))).bind fun r => if r.local_ = slot ∧ r.id = item then some r else none

/-- The items of a leaf that the current Tide sees and whose records were read. -/
def leafItems (s : State) (l : Leaf) : List ItemRec := (leafVisible s l).filterMap fun q => readRecord s l q.1 q.2.id

/-- A record that was read cannot be used (R104). -/
def leafUnreadable (s : State) (l : Leaf) : Bool :=
  (leafVisible s l).any fun q => !(Flash.ended s.flash (fillUse l q.1)).isEmpty && (readRecord s l q.1 q.2.id).isNone

/-- The leaf that a source streams next. -/
def nextStreamed (s : State) (cp : ShoalCopy) (sent : List Nat) : Option Leaf :=
  s.idx.leaves.find? fun l => Index.inUse cp.coll cp.shoal l && !sent.contains l.id

/-- What a source sent to fill a copy is not answered yet. -/
def fillUnderWay (s : State) (cp : ShoalCopy) : Bool :=
  s.strand.outMsgs.any fun m => m.use == .fill && m.words.getD 1 0 == cp.coll && m.words.getD 2 0 == cp.shoal

/-- R245 steps 1 and 2 at a boundary: a source that has reached F sends the first forwarded sequence number, then reads and sends one
leaf after the other, and, once all of it is answered, the end of the stream; a leaf with a record that cannot be read is read again
(DESIGN CHOICE, notes/assumptions/24.md). -/
def streamCopy (s : State) (cp : ShoalCopy) : State :=
  if cp.forwardFrom = 0 ∨ s.now < cp.forwardFrom ∨ cp.state ≠ .serving then s
  else
    let set_ (s : State) (l : Option (List Nat)) (r : Option Nat) : State :=
      { s with idx := Index.mapCopy s.idx cp.coll cp.shoal fun p => { p with streamed := l, reading := r } }
    match cp.streamed with
    | none => set_ (sendFill s cp (.start cp.coll cp.shoal cp.seq)) (some []) none
    | some sent =>
      if sent.contains leafIdsMax then s
      else match cp.reading.bind (fun i => s.idx.leaves.find? fun l => Index.inUse cp.coll cp.shoal l && l.id == i), nextStreamed s cp sent with
        | some l, _ =>
          if leafReading s l then s
          else if leafUnreadable s l then set_ (forgetLeaf s l) (some sent) none
          else
            let t := (leafItems s l).foldl (fun s r => sendFill s cp (.record cp.coll cp.shoal r.id r.accTide r.vec r.metadata)) s
            set_ (forgetLeaf t l) (some (sent ++ [l.id])) none
        | none, some l => set_ (readLeaf s l) (some sent) (some l.id)
        | none, none => if fillUnderWay s cp then s else set_ (sendFill s cp (.finish cp.coll cp.shoal cp.seq)) (some (sent ++ [leafIdsMax])) none

/-- Records of a shoal that no leaf holds: what a cold reset left on flash of a copy that has filled from its source. -/
def dropStrays (s : State) (c sh : Nat) : State :=
  let stray (r : ItemRec) : Bool := r.collId == s.cfg (Ent.collCollectionId c) && shoalOf (s.params c) r.id == sh
    && !(s.idx.leaves.any fun l => l.id == leafOf r.local_)
  let s := unmapRecords s c (s.idx.records.filter stray)
  { s with idx := { s.idx with records := s.idx.records.filter fun r => !stray r } }

/-- The copies that begin to serve at a boundary tell their sources. -/
def serveFilled (s : State) : State :=
  (s.idx.copies.filter (·.servingNext)).foldl (fun s cp =>
    let s := if cp.cold then dropStrays s cp.coll cp.shoal else s
    let s := { s with idx := Index.mapCopy s.idx cp.coll cp.shoal fun p => { p with
      state := .serving, since := s.now, servingNext := false, streamEnded := false, cold := false, marks := [] } }
    sendFill s cp (.serving cp.coll cp.shoal)) s

/-! Upkeep (R241 to R244). -/

/-- The window that opens at a boundary (R241). -/
def windowOpens (s : State) (t : Nat) : Bool :=
  let p := max 1 (s.cfg Ent.upkeepPeriod)
  (t + p - s.cfg Ent.upkeepOffset % p) % p == 0

/-- The live slots of a leaf. -/
def liveCount (l : Leaf) : Nat := (l.slots.filter Slot.live).length

/-- The entry of a node that holds a child. -/
def childAt (x : IndexUnit) (a : Nat) (r : ChildRef) : Option (Nat × Child) :=
  (Index.findNode x a).bind fun n => ((List.range n.kids.length).zip n.kids).find? fun q => q.2.ref == r

/-- The radius of a live entry has outgrown its creation (the table "Upkeep triggers"). -/
def entryOutgrown (s : State) (c : Nat) (k : Child) : Bool :=
  k.retired == 0 && Index.outgrown (s.cfg (Ent.collMetric c)) (s.cfg (Ent.collRebalanceRadiusPercent c)) k

/-- Two siblings are small enough to merge. -/
def smallLeaf (s : State) (l : Leaf) : Bool := decide (0 < liveCount l) && decide (liveCount l < s.cfg (Ent.collMergeLiveMax l.coll))

/-- The leaves below the entries that a job replaces. -/
def jobLeaves (x : IndexUnit) (j : Upkeep) : List Nat :=
  match Index.findNode x j.node with
  | none => []
  | some n => j.entries.flatMap fun i => ((n.kids[i]?).map fun c => Index.leavesBelow x c.ref).getD []

/-- Add a job whose leaves no other job replaces. -/
def addJob (x : IndexUnit) (j : Upkeep) : IndexUnit :=
  if (jobLeaves x j).any fun id => x.jobs.any fun k => (jobLeaves x k).contains id then x else { x with jobs := x.jobs ++ [j] }

/-- The jobs that a node asks for: a full one is split, one whose entry's radius outgrew its creation is rebuilt. A shoal
root or open node without a free entry for accession is relieved through entry 62, and what lies below entry 62 goes to an
entry that has become free, so that 62 is free again (R234, R243; DEDUCED, notes/assumptions/25.md). -/
def nodeJob (s : State) (x : IndexUnit) (n : TreeNode) : IndexUnit :=
  if n.kept.isSome then x
  else if Index.isTop x n then
    let held := (n.kids[62]?.map fun c => c.ref != .empty && c.retired == 0).getD false
    if held && !(Index.upkeepFree x n).isEmpty then addJob x (Upkeep.plan n.addr [62] false)
    else if !held && (Index.freeEntry true (n.parent == 0) n).isNone then addJob x (Upkeep.plan n.addr ((Index.lightest x n).take 2) false)
    else x
  else match childAt x n.parent (.node n.addr) with
    | some (i, c) =>
      if c.retired ≠ 0 then x
      else if n.kids.all fun k => k.ref != .empty then addJob x (Upkeep.plan n.parent [i] true)
      else if entryOutgrown s n.coll c then addJob x (Upkeep.plan n.parent [i] false)
      else x
    | none => x

/-- The job that a leaf asks for: it merges with a small sibling, it is compacted, or its entry's radius outgrew its
creation. -/
def leafJob (s : State) (x : IndexUnit) (l : Leaf) : IndexUnit :=
  if l.kept.isSome || !l.slots.any Slot.live then x
  else match childAt x l.parent (.leaf l.id), Index.findNode x l.parent with
    | some (i, c), some n =>
      let free (id : Nat) : Bool := !x.jobs.any fun k => (jobLeaves x k).contains id
      let partner := if !smallLeaf s l then none
        else (Index.liveLeaves n).find? fun q => q.2 != l.id && free q.2 && (match Index.findLeaf x q.2 with
          | some m => smallLeaf s m
          | none => false)
      match partner.bind fun q => childAt x l.parent (.leaf q.2) with
      | some (k, _) => addJob x (Upkeep.plan l.parent [i, k] false)
      | none =>
        if Index.compactable (s.cfg (Ent.collCompactionTombPercent l.coll)) l || entryOutgrown s l.coll c then
          addJob x (Upkeep.plan l.parent [i] false)
        else x
    | _, _ => x

/-- The jobs of a window that opens (the table "Upkeep triggers"). -/
def planUpkeep (s : State) : State :=
  { s with idx := s.idx.leaves.foldl (leafJob s) (s.idx.nodes.foldl (nodeJob s) s.idx) }

/-- What a job has made and not linked is freed, with its records (R241). -/
def dropJob (s : State) (j : Upkeep) : State :=
  let c := ((Index.findNode s.idx j.node).map (·.coll)).getD 0
  let mine (r : ItemRec) : Bool := j.leaves.contains (leafOf r.local_)
  let s := unmapRecords s c (s.idx.records.filter mine)
  placeTrees { s with idx := { s.idx with
    jobs := s.idx.jobs.filter fun k => k != j
    nodes := s.idx.nodes.filter fun n => !j.nodes.contains n.addr
    leaves := s.idx.leaves.filter fun l => !j.leaves.contains l.id
    records := s.idx.records.filter fun r => !mine r } }

/-- The jobs of a window end where they stand (R241). -/
def endJobs (s : State) : State :=
  let s := s.idx.jobs.foldl (fun s j => if j.begun then dropJob s j else s) s
  { s with idx := { s.idx with jobs := [] } }

/-- One new slot of a job, with its record on flash (R105). Where flash has no room for it (R508) nothing is written. -/
def stageItem (c : Nat) (a : State × Upkeep) (q : Nat × Nat × Slot) : State × Upkeep :=
  let s := a.1
  let p := s.params c
  if noRoom s (recordCodewords p.vecBytes p.metaBytes) then a
  else
    let (x, j) := Index.stageSlot s.idx p a.2 q.1 q.2.1 q.2.2
    match (x.records.drop s.idx.records.length).head? with
    | none => a
    | some r =>
      let s := { s with idx := { x with movedNow := x.movedNow + 1 } }
      ({ s with flash := Flash.write s.flash s.subticks (s.collOwner c) (recordData s c r) }, j)

/-- R96, R242, R244: everything that a job replaces has a new slot: its moves commit at the coming boundary, with the items'
directory entries. A source that has streamed a leaf of the job streams it again (R245). -/
def commitJob (s : State) (n : TreeNode) (j : Upkeep) : State :=
  let moved := Index.jobPairs s.idx s.now j
  let x := Index.swapJob s.idx (s.params n.coll) s.now n j
  let x := Index.mapCopy x n.coll n.shoal fun p => { p with streamed := p.streamed.map fun l => l.filter fun i => !j.leaves.contains i }
  let s := { s with idx := { x with jobs := x.jobs.filter fun k => k != j } }.bump Ent.itemsMoved moved.length
  let ws := s.idx.directory.map (·.codeword)
  let r := moved.foldl (fun (acc : List Nat × State) q =>
    let (w, s) := setEntry acc.2 n.coll n.shoal q.2.2.id q.2.1
    (acc.1 ++ [w], s)) ([], s)
  let s := r.2
  pruneDirectory { s with flash := Flash.write s.flash s.subticks (s.collOwner n.coll) (r.1.eraseDups.map fun w => (w, dirBytes s w)) } ws

/-- Work on one job within what is left of MoveBudget: its new leaves are filled beside the old ones, and once every live slot
that it replaces has its new one, all of them commit together, so that the new entries are filled and the old ones retire at
one boundary (R96, R242). MoveBudget counts the slots and records written in a Tide (DESIGN CHOICE, notes/assumptions/25.md). -/
def workJob (s : State) (j : Upkeep) : State :=
  let left := s.cfg Ent.moveBudget - s.idx.movedNow
  let without := { s with idx := { s.idx with jobs := s.idx.jobs.filter fun k => k != j } }
  match Index.findNode s.idx j.node with
  | none => dropJob s j
  | some m =>
    if left = 0 then s
    else match if j.begun then some (s.idx, j) else Index.beginJob (s.params m.coll) 9 s.idx j with
    | none => without
    | some (x, b) => match Index.findNode x b.node with
      | none => without
      | some n =>
        let s := placeTrees { s with idx := { x with jobs := x.jobs.map fun k => if k = j then b else k } }
        if !Index.jobHolds s.idx s.now n b then dropJob s b
        else
          let todo := Index.jobTodo s.idx s.now b
          let r := (todo.take left).foldl (stageItem n.coll) (s, b)
          let s := { r.1 with idx := { r.1.idx with jobs := r.1.idx.jobs.map fun k => if k = b then r.2 else k } }
          if (Index.jobTodo s.idx s.now r.2).isEmpty && Index.ledgerRoom s.idx s.now r.2
              && !noRoom s (dirGrows s n.coll (Index.jobPairs s.idx s.now r.2).length) then commitJob s n r.2 else s

/-- R241, R242: the moves of the Tide that begins at a boundary, at most MoveBudget. -/
def upkeepMoves (s : State) : State :=
  let s := { s with idx := { s.idx with movedNow := 0, moved := [] } }
  if s.idx.windowEnd ≤ s.now then s
  else s.idx.jobs.foldl workJob s

end Sys2Proof.Machine
end

