-- ==== Sys2Proof/Machine/Digest.lean ====
section
/-! DEFINITION. The bytes of an entry's value (R540) and the configuration digests (R551, R552). -/

namespace Sys2Proof.Machine

open Sys2Proof

def natVal (n : Nat) : Val := .n n

/-- What a number reads as in its width: past it, the manual states neither a wrap nor saturation. -/
def widthed (k w v : Nat) : Nat := if v < 2 ^ (8 * w) then v else Config.overflowed k v % 2 ^ (8 * w)

/-- The bytes of a value (R540). -/
def valBytes (e : Entry) (k : Nat) (v : Val) : Bytes :=
  match e.typ with
  | .bool => leBytes 1 (min 1 v.num)
  | .u w => leBytes w (widthed k w v.num)
  | .str => v.bytes
  | .dom => v.bytes

/-- The type code (R540). -/
def Typ.code : Typ → Nat
  | .bool => 1
  | .u w => if w = 1 then 2 else if w = 2 then 3 else if w = 4 then 4 else 5
  | .str => 0x0C
  | .dom => 0x0D

/-! Digests. -/

/-- The shared entries with their keys, in ascending index and subindex, over every instance. -/
def sharedKeys : List (Entry × Nat) :=
  let sh := entries.filter (·.shared)
  ((sh.map fun e => (e.base, e.count)).eraseDups).flatMap fun g =>
    (List.range g.2).flatMap fun i => (sh.filter fun e => e.base == g.1).map fun e => (e, (g.1 + i) * 256 + e.sub)

/-- An entry's part of a digest; no shared entry reports a unit's state, so a plain read is of the Catalogue alone (R542). -/
def digestPart (c : CatUnit) (p : Entry × Nat) : Bytes :=
  let v := valBytes p.1 p.2 (if p.1.acc = .tw then c.inForce p.2 else c.get p.2)
  leBytes 2 (p.2 / 256) ++ leBytes 1 (p.2 % 256) ++ leBytes 1 p.1.typ.code ++ leBytes 4 v.length ++ v

def digestOver (c : CatUnit) (p : Nat → Bool) : Nat := digest64 ((sharedKeys.filter fun q => p (q.2 / 256)).flatMap (digestPart c))

def inCollScope (i : Nat) : Bool := (decide (0x4100 ≤ i) && decide (i < 0x4200)) || (decide (0x4300 ≤ i) && decide (i < 0x4400))
def inTableScope (i : Nat) : Bool := decide (0x6500 ≤ i) && decide (i < 0x6600)

/-- The published scopes: code and digest, in ascending code. -/
def scopeRecords (c : CatUnit) : List (Nat × Nat) :=
  let colls := (List.range 256).filter fun i => (c.get (Ent.collStCollectionState i)).num != 0
  let tables := (List.range 256).filter fun t => (c.get (Ent.tableStTableState t)).num != 0
  [(0, digestOver c fun i => !inCollScope i && !inTableScope i)]
    ++ colls.map (fun n => (0x10000 + n, digestOver c fun i => i == 0x4100 + n || i == 0x4300 + n))
    ++ tables.map (fun t => (0x20000 + t, digestOver c fun i => i == 0x6500 + t))

/-- The Catalogue as the latest boundary saw it, with that boundary. -/
def publishedCat (c : CatUnit) : Option (Nat × CatUnit) := c.published.map fun p => (p.tide, { c with vals := p.vals, waiting := p.waiting })

/-- ConfigDigest (0x1000.0A). -/
def configDigest (c : CatUnit) : Nat := match publishedCat c with
  | some p => digestOver p.2 fun _ => true
  | none => 0

/-- ConfigState (0x1000.0B): the boundary, the generation and the digest. -/
def configState (c : CatUnit) : Bytes := match publishedCat c with
  | some p => leBytes 8 (p.1 % 2 ^ 48) ++ leBytes 8 (p.2.get Ent.configGeneration).num ++ leBytes 8 (configDigest c)
  | none => []

/-- ScopeDigests (0x1000.0C). -/
def scopeDigests (c : CatUnit) : Bytes := match publishedCat c with
  | some p => (scopeRecords p.2).flatMap fun r => leBytes 4 r.1 ++ List.replicate 4 0 ++ leBytes 8 r.2
  | none => []

end Sys2Proof.Machine
end

