-- ==== Sys2Proof/Machine/Persist.lean ====
section
/-! DEFINITION. How P values are kept: region 5 of the flash and the two boot copies (R547, R607). -/

namespace Sys2Proof.Machine

open Sys2Proof

/-- An entry of class P. -/
def isP (k : Nat) : Bool := match findEntry k with
  | some e => e.cls == .p
  | none => false

/-- The P values that the node maintains itself: neither software writes them nor the Tide unit its high-water count. -/
def maintainedP (k : Nat) : Bool := match findEntry k with
  | some e => e.cls == .p && e.acc != .rw && e.acc != .tw && k != Ent.tideHighWater
  | none => false

/-- What a boot copy holds (R607): every P value that is not its default. -/
def bootVals (s : State) : List (Nat × Val) := s.cat.vals.filter fun (p : Nat × Val) => isP p.1

/-- The boot copy that was written last, whether or not it verifies. -/
def newestCopy (c : CatUnit) : BootCopy := if c.bootA.writes < c.bootB.writes then c.bootB else c.bootA

/-- R547, R607: the value just stored takes the next write count, goes to the boot copy with the lower count and, once flash work is
accepted, to region 5. -/
def persist (s : State) (k : Nat) (v : Val) : State :=
  let s := s.bump Ent.catalogueWrites
  let n := s.num Ent.catalogueWrites
  let copy : BootCopy := ⟨true, n, bootVals s⟩
  let keep := s.cat.region5.filter fun x => x.key != k
  let data := match findEntry k with
    | some e => valBytes e k v
    | none => []
  let words := Flash.entryWords k data.length
  let c : CatUnit := { s.cat with region5 := keep ++ [(⟨k, v, n, words, s.flash.nextWrite⟩ : FlashVal)] }
  let u := Flash.write s.flash s.subticks 0 (words.zip (codewordsOf words.length (Config.encodeEntry k n data)))
  let ready := s.num Ent.flashReady == 1
  let c := if ready then c else s.cat
  { s with flash := if ready then u else s.flash, cat := if c.bootB.writes < c.bootA.writes then { c with bootB := copy } else { c with bootA := copy } }

/-- R607: the values of the node's own that neither region 5 nor, before flash work is accepted, the newest boot copy holds are written
there (DESIGN CHOICE, notes/assumptions/94.md). -/
def keepMaintained (s : State) : State :=
  let ready := s.num Ent.flashReady == 1
  let kept (k : Nat) : Val := if ready then match s.cat.region5.find? fun f => f.key == k with
      | some f => f.val
      | none => dfltOf k
    else ((newestCopy s.cat).vals.lookup k).getD (dfltOf k)
  (s.cat.vals.filter fun p => maintainedP p.1 && p.1 != Ent.catalogueWrites && kept p.1 != p.2).foldl (fun s p => persist s p.1 p.2) s

/-- Return entries to their defaults: written and waiting values and history go, and pending applies stay (R60); a P value's
default is persisted like a write. -/
def clearKeys (s : State) (mine : Nat → Bool) : State :=
  let gone := ((s.cat.vals.filter fun (v : Nat × Val) => mine v.1).map (·.1)).filter fun k => match findEntry k with
    | some e => e.cls == .p && (e.acc == .rw || e.acc == .tw)
    | none => false
  let s := { s with cat := { s.cat with
    vals := s.cat.vals.filter fun v => !mine v.1, waiting := s.cat.waiting.filter fun w => !mine w.key
    history := s.cat.history.filter fun h => !mine h.key } }
  gone.foldl (fun s k => persist s k (dfltOf k)) s

end Sys2Proof.Machine
end

