-- ==== Sys2Proof/Machine/ChangeRows.lean ====
section
/-! DEFINITION. The commands of changes, upkeep, fills and the index's own events (03_index_tree.md, 07_accession.md). -/

namespace Sys2Proof.Machine

open Sys2Proof

/-! Intake. -/

/-- R221: what the intake node refuses of a change descriptor, before it reads host data. -/
def intakeRefusal (s : State) (d : Bytes) (deaccession : Bool) : Option (Nat × Nat) :=
  let c := field d 4 1
  let p := s.params c
  let item := field d 8 8
  let sh := shoalOf p item
  let noPrimary := (primaryOf s c sh).isNone
  let pend := pendingMap s c
  let unopened := s.collState c != 2
  let bad := unopened || item == 2 ^ 64 - 1
    || (!deaccession && (field d 24 4 != p.vecBytes || decide (p.metaBytes < field d 28 2) || (field d 32 8 == 0 && field d 28 2 != 0)))
  worst [ (bad, St.badJob, 0)
        , (!functionOn s 1, St.retry, functionRetry s 1)
        , (!unopened && noPrimary && pend.isNone, St.badJob, 0)
        , (!unopened && noPrimary && pend.isSome, St.retry, pend.getD 0)
        , (!unopened && s.slotState (s.collOwner c) != 1, St.accessDenied, 0) ]

/-- R220: accept a change descriptor and send the change to its primary. -/
def intake (s : State) (cmd : Nat) (c : HostCmd) (deaccession : Bool) (vec metadata : Bytes) : State :=
  let d := c.desc
  let coll := field d 4 1
  let item := field d 8 8
  let tag := s.chg.nextTag
  let ch : Change :=
    { coll := coll, shoal := shoalOf (s.params coll) item, item := item, deaccession := deaccession
      ifAbsent := !deaccession && bit (field d 1 1) 0, vec := vec, metadata := metadata, intake := s.strand.nodeId, tag := tag }
  let s := startCmd s cmd
  let s := { s with chg := { s.chg with
    nextTag := (tag + 1) % 2 ^ 32, intakes := s.chg.intakes ++ [(⟨tag, cmd, ch, s.now, none⟩ : Intake)] } }
  sendChange s ch

/-- ACCESSION (R221). -/
def execAccession (cmd : Nat) (vec metadata : HostRead) (s : State) : Result :=
  match s.waitingCmd cmd 0x02 with
  | none => .next s
  | some c =>
    if !s.mgmt then .next s
    else match intakeRefusal s c.desc false with
    | some r => .next (s.finish cmd r.1 [] r.2)
    | none =>
      let v := readInput s (field c.desc 16 8) (field c.desc 24 4) vec
      let m := readInput s (field c.desc 32 8) (field c.desc 28 2) metadata
      if inputHeld s (field c.desc 16 8) (field c.desc 24 4) || inputHeld s (field c.desc 32 8) (field c.desc 28 2) then
        .next (holdInputs s cmd [(field c.desc 16 8, field c.desc 24 4), (field c.desc 32 8, field c.desc 28 2)])
      else
      let s := touchInput (touchInput s (field c.desc 16 8) (field c.desc 24 4)) (field c.desc 32 8) (field c.desc 28 2)
      if max v.1 m.1 ≠ St.ok then .next (s.refuse cmd (max v.1 m.1))
      else .next (intake s cmd c false v.2 m.2)

/-- DEACCESSION (R221). -/
def execDeaccession (cmd : Nat) (s : State) : Result :=
  match s.waitingCmd cmd 0x03 with
  | none => .next s
  | some c =>
    if !s.mgmt then .next s
    else match intakeRefusal s c.desc true with
    | some r => .next (s.finish cmd r.1 [] r.2)
    | none => .next (intake s cmd c true [] [])

/-- CHANGE_AT_PRIMARY (R225). -/
def execChangeAtPrimary (src : Nat) (change : Change) (s : State) : Result :=
  if s.mgmt then .next (primaryTake (answerMsg s src 0x0010 St.ok) change) else .next s

/-- CHANGE_HELD_ACCEPT (R225): the changes held in an earlier Tide, in order of arrival. -/
def execChangeHeldAccept (s : State) : Result :=
  let due := s.chg.held.filter fun h => decide (h.1 < s.now)
  if !s.mgmt then .next s
  else
    let s := { s with chg := { s.chg with held := s.chg.held.filter fun h => !decide (h.1 < s.now) } }
    .next (due.foldl (fun s h => acceptChange s h.2) s)

/-- CHANGE_AT_REPLICA (R226). -/
def execChangeAtReplica (src : Nat) (change : Change) (seq commit result : Nat) (s : State) : Result :=
  if s.mgmt then .next (replicaTake (answerMsg s src 0x0010 St.ok) src change seq commit result) else .next s

/-- CHANGE_ACKNOWLEDGEMENT (R228). -/
def execChangeAcknowledgement (src : Nat) (ack : Ack) (s : State) : Result :=
  if s.mgmt then .next (noteAck (answerMsg s src 0x0011 St.ok) ack) else .next s

/-- CHANGE_OUTCOME (R229): a misdirected change is sent again to the primary that the map in force names (R231), at
once (DESIGN CHOICE, notes/assumptions/23.md). -/
def execChangeOutcome (src : Nat) (done : ChangeDone) (s : State) : Result :=
  if !s.mgmt then .next s
  else
  let s := answerMsg s src 0x0011 St.ok
  match s.chg.intakes.find? fun i => i.tag == done.tag with
  | none => .next s
  | some i => if done.misdirected then .next (sendChange s i.change) else .next (intakeDone s i done)

/-- REPLICA_ACK_TIMEOUT (R228). -/
def execReplicaAckTimeout (coll shoal seq : Nat) (s : State) : Result :=
  let due := s.chg.accepted.any fun a => a.change.coll == coll && a.change.shoal == shoal && a.seq == seq && !a.replicaDurable
    && decide (a.commit + s.cfg Ent.replicaAckLimit ≤ s.now)
  if s.mgmt && due then .next (markStale s coll shoal) else .next s

/-- INTAKE_GIVE_UP (R230). -/
def execIntakeGiveUp (tag : Nat) (s : State) : Result :=
  match s.chg.intakes.find? fun i => i.tag == tag with
  | none => .next s
  | some i =>
    if s.mgmt && i.done.isNone && decide (i.accepted + s.cfg Ent.intakeGiveUp ≤ s.now) then
      let s := { s with chg := { s.chg with intakes := s.chg.intakes.filter fun x => x.tag != tag } }
      .next (s.refuse i.cmd St.indeterminate)
    else .next s

/-! The index's own events. -/

/-- Work that reads a collection: stamps of running and held queries and fragments (R86). -/
def readingStamps (s : State) : List Nat := (s.qry.queries.map (·.stamp)) ++ s.qry.frags.map (·.stamp)

/-- The low-water stamp L. -/
def lowWater (s : State) : Nat := (readingStamps s).foldl min s.now

/-- The stamp against which slots are settled and retired entries reclaimed: no work with an older stamp runs, is held, or
may still start here (R30, R33, R87, R98). -/
def settleStamp (s : State) : Nat := min (lowWater s) (s.now - s.cfg Ent.queryStampWindow)

/-- SLOT_SETTLE (R87). -/
def execSlotSettle (s : State) : Result :=
  if s.mgmt then .next { s with idx := Index.settle s.idx s.now (settleStamp s) } else .next s

/-- INDEX_AGE_LIMIT (R88): fragments past the age limit stop as at their cutoff (R152), queries complete with DEADLINE. -/
def execIndexAgeLimit (s : State) : Result :=
  if !s.mgmt then .next s
  else
    let old (t : Nat) : Bool := decide (t + s.num Ent.indexAgeLimit < s.now)
    let s := ((s.qry.frags.filter fun g => old g.stamp).map (·.id)).foldl cutFrag s
    .next (((s.qry.queries.filter fun q => old q.stamp).map (·.tag)).foldl completeQuery s)

/-- The records that a reclamation makes unreadable leave the map (R238, R240), and trees that their copies gave up with
them. -/
def reclaimTrees (s : State) : State :=
  let low := settleStamp s
  let x := Index.reclaim s.idx low
  let gone := s.idx.records.filter fun r => !x.records.any fun q => q.local_ == r.local_
  let ls := gone.flatMap fun (r : ItemRec) =>
    let c := (s.idx.leaves.find? fun l => l.id == leafOf r.local_).map (·.coll) |>.getD 0
    let p := s.params c
    recordLogical (recordCodewords p.vecBytes p.metaBytes) r.local_
  let ws := s.idx.directory.map (·.codeword)
  let s := pruneDirectory (placeTrees { s with idx := x, flash := Flash.unmapAll s.flash ls }) ws
  (s.idx.kept.filter fun k => decide (k.until_ < low)).foldl dropKept s

/-- RETIRED_RECLAIM (R240). -/
def execRetiredReclaim (s : State) : Result := if s.mgmt then .next (reclaimTrees s) else .next s

/-- UPKEEP_WINDOW_OPEN (R241). -/
def execUpkeepWindowOpen (s : State) : Result :=
  if s.mgmt && windowOpens s s.now && decide (s.idx.windowEnd ≤ s.now) then
    .next (planUpkeep { s with idx := { s.idx with windowEnd := s.now + s.cfg Ent.upkeepLength } })
  else .next s

/-- UPKEEP_WINDOW_CLOSE (R241): unfinished jobs end: what they have made stands in no entry and is freed. -/
def execUpkeepWindowClose (s : State) : Result :=
  if s.mgmt && s.idx.windowEnd != 0 && decide (s.idx.windowEnd ≤ s.now) then
    .next (endJobs { s with idx := { s.idx with windowEnd := 0 } })
  else .next s

/-- SHOAL_FILL_STREAM (R246). -/
def execShoalFillStream (src : Nat) (item : FillItem) (s : State) : Result :=
  let unserved : Bool := match item with
    | .request c sh => !((Index.findCopy s.idx c sh).any fun p => p.state == .serving)
    | _ => false
  if s.mgmt then .next (fillTake (answerMsg s src 0x0012 (if !functionOn s 1 then St.retry else if unserved then St.badJob else if fillFull s item then St.mediaFull else St.ok)) item) else .next s

/-- FILL_COMPLETE (R245): the copy serves from the next boundary. -/
def execFillComplete (coll shoal : Nat) (s : State) : Result :=
  match Index.findCopy s.idx coll shoal with
  | none => .next s
  | some cp =>
    if s.mgmt && fillReady s cp then .next { s with idx := Index.mapCopy s.idx coll shoal fun p => { p with servingNext := true } }
    else .next s

/-- SHOAL_RELEASE (R112): a shoal that the map no longer gives this node, and trees of it that a refill replaced, once L
has passed the boundary. -/
def execShoalRelease (coll shoal : Nat) (s : State) : Result :=
  if !s.mgmt then .next s
  else
    let old := s.idx.kept.filter fun k => k.coll == coll && k.shoal == shoal && decide (k.until_ < lowWater s)
    let s' := old.foldl dropKept s
    match (Index.findCopy s.idx coll shoal).bind (·.releaseAt) with
    | some a => if a < lowWater s then .next (dropCopy s' coll shoal) else .next s'
    | none => .next s'

/-- Return a slot to Empty: its entries at 0x41cc and 0x43cc go back to their defaults. -/
def clearSlot (s : State) (c : Nat) : State :=
  clearKeys s fun k => k / 256 == 0x4100 + c || k / 256 == 0x4300 + c || k == Ent.collStCollectionState c

/-- Records of a collection that no copy holds: those that a rebuild after a cold reset mapped again. -/
def dropRecords (s : State) (c : Nat) : State :=
  let id := s.cfg (Ent.collCollectionId c)
  let found := s.idx.found.filter fun (f : FoundRec) => f.item.collId == id
  let dirs := (s.idx.directory.filter fun e => e.coll == c).map (·.codeword)
  let logs := (s.idx.changeLog.filter fun e => e.coll == c).map (·.codeword)
  { s with
    flash := Flash.unmapAll s.flash (found.flatMap FoundRec.logicals ++ dirs ++ logs)
    idx := { s.idx with
      records := s.idx.records.filter fun r => r.collId != id
      found := s.idx.found.filter fun f => f.item.collId != id
      directory := s.idx.directory.filter fun e => e.coll != c
      changeLog := s.idx.changeLog.filter fun e => e.coll != c } }

/-- COLLECTION_STORAGE_RELEASE (R111): once L exceeds the closing boundary, with the flash map at hand (R491). -/
def execCollectionStorageRelease (coll : Nat) (s : State) : Result :=
  match s.idx.closings.find? fun x => x.slot == coll with
  | none => .next s
  | some x =>
    if s.mgmt && decide (x.boundary < lowWater s) && s.num Ent.flashReady == 1 then
      let s := ((s.idx.copies.filter fun p => p.coll == coll).map (·.shoal)).foldl (fun s sh => dropCopy s coll sh) s
      let s := dropRecords s coll
      .next (clearSlot { s with idx := { s.idx with
        closings := s.idx.closings.filter fun y => y.slot != coll, openings := s.idx.openings.filter fun y => y.slot != coll } } coll)
    else .next s

end Sys2Proof.Machine
end

