-- ==== Sys2Proof/Machine/Operators.lean ====
section
/-! DEFINITION. The arithmetic of the operators of a graph (06_arithmetic.md R193 to R216, 10_operator_graphs.md R331 to
R345), on tensors as lists of element patterns. Where the operands come from and where results go is in Graph.lean. -/

namespace Sys2Proof.Machine

open Sys2Proof Sys2Proof.Num

/-- A tensor's value: format code, dimensions (outermost first), element patterns in row-major order. -/
structure Tens where
  fmt : Nat
  dims : List Nat
  pats : List Nat
  deriving DecidableEq, Repr

/-- The last dimension. -/
def Tens.last (t : Tens) : Nat := t.dims.getLast?.getD 1

/-- The number of rows. -/
def Tens.rowCount (t : Tens) : Nat := t.dims.dropLast.foldl (· * ·) 1

def Tens.rows (t : Tens) : List (List Nat) := cut t.last (t.rowCount + 1) t.pats

/-- How an operator rounds: the output format, the rounding mode code, and the stream of each output row (R202). -/
structure Rnd where
  fmt : Nat
  mode : Nat
  seed : BitVec 64
  op : Nat
  iter : Nat
  deriving DecidableEq, Repr

/-- The random fields of a row. -/
def Rnd.fields (r : Rnd) (row n : Nat) : List Nat :=
  if r.mode = 4 then rowFields (seedOf r.seed r.op r.iter row) n else List.replicate n 0

/-- The operator computes in fp64 when its output is fp64, else in fp32 (R331). -/
def Rnd.cf (r : Rnd) : Fmt := if r.fmt = 8 then fp64 else fp32

/-- An input element as the operator reads it (R331). -/
def Rnd.inp (r : Rnd) (fmt p : Nat) : Fl := decode r.cf (encode r.cf .rne (valueOf fmt p))

/-- Round a step before the last. -/
def Rnd.step (r : Rnd) (v : Fl) : Fl := decode r.cf (encode r.cf .rne v)

/-! Quotients, roots, exp and log carried with enough bits below the last place for one rounding to any format. -/

/-- A magnitude with a sticky bit below it. -/
def jam (neg : Bool) (m : Nat) (e : Int) (sticky : Bool) : Fl := .fin neg (2 * m + if sticky then 1 else 0) (e - 1)

def divX : Fl → Fl → Fl
  | .nan, _ => .nan
  | _, .nan => .nan
  | .inf _, .inf _ => .nan
  | .inf a, .fin sb _ _ => .inf (a != sb)
  | .fin sa _ _, .inf b => .fin (sa != b) 0 0
  | .fin sa ma ea, .fin sb mb eb =>
    if mb = 0 then (if ma = 0 then .nan else .inf (sa != sb))
    else if ma = 0 then .fin (sa != sb) 0 0
    else
      let sh := bitLen mb + 130 - bitLen ma
      let num := ma * 2 ^ sh
      jam (sa != sb) (num / mb) (ea - eb - sh) (num % mb != 0)

def sqrtX : Fl → Fl
  | .nan => .nan
  | .inf s => if s then .nan else .inf false
  | .fin s m e =>
    if m = 0 then .fin s 0 0
    else if s then .nan
    else
      let sh0 := 280 - bitLen m
      let sh := if (e - sh0) % 2 = 0 then sh0 else sh0 + 1
      let v := m * 2 ^ sh
      let r := isqrt v
      jam false r ((e - sh) / 2) (r * r != v)

/-- Round to a format code with both ends of an enclosure; they must round alike, else the pattern stays open. -/
def roundBoth (code : Nat) (mode : Mode) (lo hi : Fl) (free : Nat) : Nat :=
  if roundTo code mode lo = roundTo code mode hi then roundTo code mode lo else free

/-- R213: exp, rounded once to any format. Below 0 the value stays below 1 however near to it. -/
def expTo (code : Nat) (mode : Mode) (x : Fl) : Nat :=
  match x with
  | .nan => roundTo code mode .nan
  | .inf s => roundTo code mode (if s then .fin false 0 0 else .inf false)
  | .fin s m e =>
    if m = 0 then roundTo code mode (.fin false 1 0)
    else if lt (.fin false 1024 0) (.fin false m e) then roundTo code mode (if s then .fin false 1 (-5000) else .fin false 1 5000)
    else
      let v := expPos m e
      if s then
        roundBoth code mode (jam false (2 ^ (3 * prec + 1600) / v.2) (-(2 * prec + 1600)) true)
          (jam false (min (2 ^ (3 * prec + 1600) / v.1 + 1) (2 ^ (2 * prec + 1600) - 1)) (-(2 * prec + 1600)) true) (Config.unroundedExp (code + 2 ^ 64 * m))
      else roundBoth code mode (jam false v.1 (-prec) true) (jam false v.2 (-prec) true) (Config.unroundedExp (code + 2 ^ 64 * m))

/-- R213: log, rounded once to any format. -/
def logTo (code : Nat) (mode : Mode) (x : Fl) : Nat :=
  match x with
  | .nan => roundTo code mode .nan
  | .inf s => roundTo code mode (if s then .nan else .inf false)
  | .fin s m e =>
    if m = 0 then roundTo code mode (.inf true)
    else if s then roundTo code mode .nan
    else match logEnds m e with
      | none => roundTo code mode (.fin false 0 0)
      | some v =>
        let free := Config.unroundedLog (code + 2 ^ 64 * m)
        if 0 < v.1 then roundBoth code mode (jam false v.1.natAbs (-prec) true) (jam false v.2.natAbs (-prec) true) free
        else roundBoth code mode (jam true v.2.natAbs (-prec) true) (jam true v.1.natAbs (-prec) true) free

/-! Elementwise functions. -/

/-- The greater operand: −0 below +0, NaN if either is NaN. -/
def maxFl (a b : Fl) : Fl :=
  if isNaN a || isNaN b then .nan
  else if lt a b then b else if lt b a then a
  else match a with
    | .fin true 0 _ => b
    | _ => a

def minFl (a b : Fl) : Fl :=
  if isNaN a || isNaN b then .nan
  else if lt a b then a else if lt b a then b
  else match a with
    | .fin false 0 _ => b
    | _ => a

def one : Fl := .fin false 1 0

/-- The step functions in the computing format. -/
def Rnd.expS (r : Rnd) (x : Fl) : Fl := decode r.cf (exp r.cf .rne x)
def Rnd.sigmoid (r : Rnd) (a : Fl) : Fl := r.step (divX one (r.step (add one (r.expS (neg a)))))
def Rnd.tanh (r : Rnd) (z : Fl) : Fl :=
  r.step (sub (r.step (mul (intFl 2) (r.sigmoid (r.step (mul (intFl 2) z))))) one)

def geluK : Fl := decode fp32 0x3F4C422A
def geluG : Fl := decode fp32 (div fp32 .rne (intFl 44715) (intFl 1000000))

/-- One element of ELEMENTWISE: the pattern in the output format (the function table of R332). An exact sum of zero is +0 in every
mode (DESIGN CHOICE, notes/assumptions/89.md). -/
def Rnd.elem (r : Rnd) (func : Nat) (mode : Mode) (a b c imm : Fl) : Nat :=
  let fin (v : Fl) : Nat := roundTo r.fmt mode v
  match func with
  | 0 => fin (add a b)
  | 1 => fin (sub a b)
  | 2 => fin (mul a b)
  | 3 => fin (divX a b)
  | 4 => fin (maxFl a b)
  | 5 => fin (minFl a b)
  | 6 => fin (add (mul a b) c)
  | 7 => fin (mul a imm)
  | 8 => fin (neg a)
  | 9 => fin (abs a)
  | 10 => fin (sqrtX a)
  | 11 => fin (divX one (r.step (sqrtX a)))
  | 12 => expTo r.fmt mode a
  | 13 => logTo r.fmt mode a
  | 14 => fin (divX one a)
  | 15 => fin (maxFl a (.fin false 0 0))
  | 16 => fin (divX one (r.step (add one (r.expS (neg a)))))
  | 17 => fin (mul a (r.sigmoid a))
  | _ =>
    let p := r.step (mul (r.step (mul (r.step (mul geluG a)) a)) a)
    let z := r.step (mul geluK (r.step (add a p)))
    let t := r.step (add one (r.tanh z))
    fin (mul (r.step (mul (.fin false 1 (-1)) a)) t)

/-- What an operator adds to the counters of 0x5000, and to DuplicatesDropped. -/
structure OpCount where
  quantised : Nat := 0
  zeroScale : Nat := 0
  nonFinite : Nat := 0
  stochastic : Nat := 0
  overflow : Nat := 0
  indexFaults : Nat := 0
  /-- Merge entries removed as duplicates (R183). -/
  duplicates : Nat := 0
  deriving DecidableEq, Repr

/-- An operator's outputs (element patterns of Out0, Out1, Out2) and counts. -/
structure OpOut where
  outs : List (List Nat)
  count : OpCount
  deriving DecidableEq, Repr

/-- The output is ±∞, or the greatest value of a format without infinities. -/
def isTop (code p : Nat) : Bool :=
  match valueOf code p with
  | .inf _ => true
  | v => (code == 3 && lt (.fin false 447 0) (abs v)) || (decide (5 ≤ code) && code != 8 && (
      let w := widthOf code
      ofBits w p == 2 ^ (w - 1) - 1 || ofBits w p == -(2 ^ (w - 1))))

/-- Rows rounded in mode SR. -/
def Rnd.srRows (r : Rnd) (n : Nat) : Nat := if r.mode = 4 then n else 0

/-- Apply a function to each element of the output, row by row: element position, mode. -/
def Rnd.build (r : Rnd) (n cols : Nat) (f : Nat → Mode → Nat) : List Nat :=
  (List.range n).flatMap fun i =>
    ((r.fields i cols).zip (List.range cols)).map fun q => f (i * cols + q.2) (modeOf r.mode q.1)

/-- R331, CONVERT. From int32 to fp32 it rounds RNE, whatever its RoundMode (R193). -/
def opConvert (r : Rnd) (x : Tens) : OpOut :=
  let outs := r.build x.rowCount x.last fun k m =>
    roundTo r.fmt (if x.fmt = 7 ∧ r.fmt = 0 then .rne else m) (valueOf x.fmt (x.pats.getD k 0))
  { outs := [outs]
    count := { stochastic := r.srRows x.rowCount
               overflow := ((x.pats.zip outs).filter fun q => isFinite (valueOf x.fmt q.1) && isTop r.fmt q.2
                 && overflowed r.fmt .rne (valueOf x.fmt q.1)).length } }

/-- TRANSPOSE: swap the last two dimensions. -/
def opTranspose (x : Tens) : OpOut :=
  let c := x.last
  let d := x.dims.dropLast.getLast?.getD 1
  let mats := cut (c * d) (x.pats.length + 1) x.pats
  { outs := [mats.flatMap fun m => (List.range c).flatMap fun j => (List.range d).map fun i => m.getD (i * c + j) 0], count := {} }

/-- Element `k` of an operand with the shape of A, a row, or one element (R332). -/
def operand (t : Option Tens) (cols k : Nat) : Nat × Nat :=
  match t with
  | none => (0, 0)
  | some t =>
    let n := t.pats.length
    (t.fmt, t.pats.getD (if n = 1 then 0 else if n = cols ∧ t.dims.length = 1 then k % cols else k) 0)

def opElementwise (r : Rnd) (func imm : Nat) (a : Tens) (b c : Option Tens) : OpOut :=
  let get (t : Option Tens) (k : Nat) : Fl := let q := operand t a.last k; r.inp q.1 q.2
  let used (k : Nat) : List Fl := get (some a) k :: ((if b.isSome then [get b k] else []) ++ (if c.isSome then [get c k] else []))
  let outs := r.build a.rowCount a.last fun k m => r.elem func m (get (some a) k) (get b k) (get c k) (decode fp32 imm)
  { outs := [outs]
    count := { stochastic := r.srRows a.rowCount
               overflow := (((List.range outs.length).zip outs).filter fun q => isTop r.fmt q.2 && (used q.1).all isFinite).length } }

/-- R214: REDUCE of one row, as an exact value before the conversion to the output format. A max or min has −0 below +0
(DESIGN CHOICE, notes/assumptions/89.md). -/
def reduceRow (kind fmt : Nat) (row : List Nat) : Fl :=
  if kind = 0 then decode fp64 (sum64 (row.map fun p => encode fp64 .rne (valueOf fmt p)))
  else
    match row.map (valueOf fmt) with
    | [] => .fin false 0 0
    | x :: l => l.foldl (if kind = 1 then maxFl else minFl) x

def opReduce (r : Rnd) (kind cols : Nat) (x : Tens) : OpOut :=
  let v := x.rows.map (reduceRow kind x.fmt)
  let outs := r.build (v.length / max 1 cols) cols fun k m =>
    roundTo r.fmt (if kind ≠ 0 ∧ x.fmt = 7 ∧ r.fmt = 0 then .rne else m) (v.getD k (.fin false 0 0))
  { outs := [outs]
    count := { stochastic := r.srRows (v.length / max 1 cols)
               overflow := ((x.rows.zip outs).filter fun q => isTop r.fmt q.2 && q.1.all fun p => isFinite (valueOf x.fmt p)).length } }

/-- Round in fp64. -/
def d64 (v : Fl) : Fl := decode fp64 (encode fp64 .rne v)
/-- Round in fp32. -/
def d32 (v : Fl) : Fl := decode fp32 (encode fp32 .rne v)

/-- R215: one softmax row. Its roundings are the ones R215 names, in fp32 whatever the output format, and the quotient is
then converted to that format (R193; DEDUCED against R331's fp64 computing, notes/assumptions/83.md). -/
def softmaxRow (x : List Fl) : List Fl :=
  let m := match x with
    | [] => .nan
    | a :: l => l.foldl maxFl a
  let e := x.map fun v => decode fp32 (exp fp32 .rne (d32 (sub v m)))
  let s := d32 (decode fp64 (sum64 (e.map fun v => encode fp64 .rne v)))
  e.map fun v => d32 (divX v s)

def opSoftmax (r : Rnd) (x : Tens) (mask : Option Tens) : OpOut :=
  let n := x.last
  let inp (k : Nat) : Fl := d32 (valueOf x.fmt (x.pats.getD k 0))
  let rows := ((List.range x.rowCount).map fun i => softmaxRow ((List.range n).map fun j =>
    let k := i * n + j
    match mask with
    | some t => if t.pats.getD k 0 = 0 then .inf true else inp k
    | none => inp k)).flatten
  { outs := [r.build x.rowCount n fun k m => roundTo r.fmt m (rows.getD k .nan)], count := { stochastic := r.srRows x.rowCount } }

/-- R216: one norm row. Its roundings are the ones R216 names, in fp32 and fp64 whatever the output format; x − mu is the difference
of the variance's line, rounded in fp64. The last sum is rounded to fp32 and then converted to the output format (R193;
DEDUCED against R331's fp64 computing, notes/assumptions/83.md). -/
def normRow (rms : Bool) (eps : Fl) (x g b : List Fl) : List Fl :=
  let n := intFl x.length
  let mu := if rms then .fin false 0 0 else d64 (divX (decode fp64 (sum64 (x.map (encode fp64 .rne)))) n)
  let dev := x.map fun v => d64 (sub v mu)
  let var := d64 (divX (decode fp64 (sum64 (dev.map fun d => encode fp64 .rne (mul d d)))) n)
  let rr := d64 (divX one (d64 (sqrtX (d64 (add var eps)))))
  (dev.zip (g.zip b)).map fun q => d32 (add (d32 (mul (d32 (mul q.1 rr)) q.2.1)) q.2.2)

def opNorm (r : Rnd) (rms : Bool) (eps : Nat) (x g : Tens) (b : Option Tens) : OpOut :=
  let n := x.last
  let in32 (fmt p : Nat) : Fl := d32 (valueOf fmt p)
  let gs := g.pats.map (in32 g.fmt)
  let bs := match b with
    | some t => t.pats.map (in32 t.fmt)
    | none => List.replicate n (.fin false 0 0)
  let rows := (x.rows.map fun row => normRow rms (decode fp32 eps) (row.map (in32 x.fmt)) gs bs).flatten
  { outs := [r.build x.rowCount n fun k m => roundTo r.fmt m (rows.getD k .nan)], count := { stochastic := r.srRows x.rowCount } }

/-- R194 to R197: QUANTISE to the codes' format; Out1 the scales. -/
def opQuantise (r : Rnd) (x : Tens) : OpOut :=
  let rows := x.rows.map fun row => row.map fun p => d32 (valueOf x.fmt p)
  let q := ((List.range rows.length).zip rows).map fun p => quantRow r.fmt r.mode (seedOf r.seed r.op r.iter p.1) p.2
  { outs := [q.flatMap (·.2), q.map (·.1)]
    count := { quantised := rows.length
               zeroScale := (rows.filter fun w => w.all fun v => !isFinite v || isZero v).length
               nonFinite := (rows.filter fun w => w.any fun v => !isFinite v).length
               stochastic := r.srRows rows.length } }

/-- R198: DEQUANTISE. -/
def opDequantise (r : Rnd) (x s : Tens) : OpOut :=
  let n := x.last
  let v := (List.range x.pats.length).map fun k => decode fp32 (dequant x.fmt (x.pats.getD k 0) (s.pats.getD (k / max 1 n) 0))
  let outs := r.build x.rowCount n fun k m => roundTo r.fmt m (v.getD k .nan)
  { outs := [outs]
    count := { stochastic := r.srRows x.rowCount, overflow := (outs.filter (isTop r.fmt)).length } }

/-- An exact integer dot product of two code rows (R206, R210). -/
def dotInt (fa fb : Nat) (a b : List Nat) : Int :=
  ((a.zip b).map fun q => ofBits (widthOf fa) q.1 * ofBits (widthOf fb) q.2).sum

/-- R207: a sequential fp32 dot product. -/
def dotSeq (fa fb : Nat) (a b : List Nat) : Fl :=
  (a.zip b).foldl (fun acc q => d32 (add acc (mul (valueOf fa q.1) (valueOf fb q.2)))) (.fin false 0 0)

/-- R208: scales after the sum. -/
def scaleOut (f sa sw : Fl) : Fl := d32 (mul (d32 (mul f sa)) sw)

/-- R205 to R208: MATMUL, each output before its conversion. -/
def opMatmul (r : Rnd) (a w : Tens) (sa sw bias : Option Tens) : OpOut :=
  let int := a.fmt == 5 || a.fmt == 6
  let wr := w.rows
  let scale (t : Option Tens) (i : Nat) : Fl := match t with
    | some t => decode bf16 (t.pats.getD i 0)
    | none => one
  let add1 (v : Fl) (j : Nat) : Fl := match bias with
    | some t => d32 (add v (decode fp32 (t.pats.getD j 0)))
    | none => v
  let arows := a.rows
  let out := ((List.range arows.length).zip arows).flatMap fun ra =>
    ((List.range wr.length).zip wr).map fun rw =>
      let acc := if int then d32 (intFl (dotInt a.fmt w.fmt ra.2 rw.2)) else dotSeq a.fmt w.fmt ra.2 rw.2
      add1 (scaleOut acc (scale sa ra.1) (scale sw rw.1)) rw.1
  let outs := r.build arows.length wr.length fun k m => roundTo r.fmt m (out.getD k .nan)
  { outs := [outs]
    count := { stochastic := r.srRows arows.length
               overflow := (((List.range outs.length).zip outs).filter fun q => isTop r.fmt q.2
                 && (arows.getD (q.1 / max 1 wr.length) []).all (fun p => isFinite (valueOf a.fmt p))
                 && (wr.getD (q.1 % max 1 wr.length) []).all fun p => isFinite (valueOf w.fmt p)).length } }

/-- R211: blocks of 512 positions, each a pairwise fp32 sum, added in order. -/
def blockSum (terms : List Nat) : Fl :=
  (cut 512 (terms.length + 1) terms).foldl (fun acc blk =>
    d32 (add acc (decode fp32 (sum32 (blk ++ List.replicate (512 - blk.length) 0))))) (.fin false 0 0)

/-- R334: one score of DISTANCE as an fp32 pattern. -/
def distScore (metric fmt : Nat) (q x : List Nat) (sq sx : Fl) : Nat :=
  if metric = 3 then
    encode fp32 .rne (intFl (-((q.zip x).map fun p => (popcount (p.1 ^^^ p.2) : Int)).sum))
  else if fmt = 5 then encode fp32 .rne (scaleOut (d32 (intFl (dotInt 5 5 q x))) sq sx)
  else if metric = 0 then
    encode fp32 .rne (blockSum ((q.zip x).map fun p => encode fp32 .rne (mul (decode bf16 p.1) (decode bf16 p.2))))
  else
    encode fp32 .rne (neg (blockSum ((q.zip x).map fun p =>
      let d := d32 (sub (decode bf16 p.1) (decode bf16 p.2))
      encode fp32 .rne (mul d d))))

def opDistance (metric : Nat) (q x : Tens) (sq sx : Option Tens) : OpOut :=
  let xr := x.rows
  let scale (t : Option Tens) (i : Nat) : Fl := match t with
    | some t => decode bf16 (t.pats.getD i 0)
    | none => one
  { outs := [((List.range q.rows.length).zip q.rows).flatMap fun a =>
      ((List.range xr.length).zip xr).map fun b => distScore metric q.fmt a.2 b.2 (scale sq a.1) (scale sx b.1)]
    count := {} }

/-- A count as an fp64 pattern. -/
def count64 (n : Nat) : Nat := encode fp64 .rne (intFl n)

/-- The eight words of a summary row (R335). -/
def summaryRow (f : Summary48) : List Nat :=
  [count64 f.count, count64 f.restCount, count64 f.tiedLeftOut, count64 f.nanSelected, count64 f.nanRest, f.sumSelected, f.sumRest,
   f32to64 f.maxScore]

def minusOne : Nat := 0xFFFFFFFF

/-- R335, R158: the select entries of row i of S: position j is Index j, and an element whose mask is 0 is invalid. -/
def selectRow (s : Tens) (mask : Option Tens) (i : Nat) (row : List Nat) : List SelEntry :=
  ((List.range s.last).zip row).map fun p =>
    let live := match mask with
      | some t => t.pats.getD (i * s.last + p.1) 0 != 0
      | none => true
    ⟨keyOf p.2, if live then p.1 else invalidIndex⟩

/-- The select operations of SELECT, one for each row of S: output entries and summary. -/
def selectRows (softmax : Bool) (k : Nat) (s : Tens) (mask : Option Tens) : List (List SelEntry × Summary48) :=
  ((List.range s.rows.length).zip s.rows).map fun q => selectTop softmax k (selectRow s mask q.1 q.2)

/-- R335: SELECT, row by row. The K places of a row are the first K entries of its output registers (R167), and sentinels where the
passes of an exhausted input gave fewer (R180): at a sentinel place they hold position −1 and score −∞. -/
def opSelect (softmax : Bool) (k : Nat) (s : Tens) (mask : Option Tens) : OpOut :=
  let res := (selectRows softmax k s mask).map fun q => (((outputRegisters k q.1).flatten ++ List.replicate k SelEntry.sentinel).take k, q.2)
  { outs := [res.flatMap fun q => q.1.map (·.index), res.flatMap fun q => q.1.map fun e => valueOfKey e.key, res.flatMap fun q => summaryRow q.2]
    count := {} }

/-- An fp64 count read back. -/
def natOf64 (p : Nat) : Nat := match decode fp64 p with
  | .fin false m e => (toInt .rz false m e).toNat
  | _ => 0

/-- R336: MERGE. MaxScore of its summary, for which R185 has no figure, is that of the entries left after duplicates, and the Tier
word of a place without an entry is −1 like its ID words; words of a summary that are no counts are read as numbers
(DESIGN CHOICE, notes/assumptions/89.md). -/
def opMerge (k : Nat) (es ss fs : Tens) : OpOut :=
  let kin := ss.last
  let lists : List MList := (List.range ss.rowCount).map fun l =>
    let f := (fs.pats.drop (l * 8)).take 8
    let ents : List MEntry := (List.range kin).map fun j =>
      let o := (l * kin + j) * 3
      ⟨es.pats.getD o 0 + 2 ^ 32 * es.pats.getD (o + 1) 0, keyOf (ss.pats.getD (l * kin + j) 0), es.pats.getD (o + 2) 0, 0, 0⟩
    let cnt := natOf64 (f.getD 0 0)
    ⟨ents, cnt, natOf64 (f.getD 1 0), natOf64 (f.getD 2 0),
     if cnt = 0 then sentinelKey else keyOf (ss.pats.getD (l * kin + cnt - 1) 0), natOf64 (f.getD 4 0), f.getD 6 0⟩
  let m := mergeLists k lists
  let fill := k - m.list.length
  let scores := m.list.map fun e => valueOfKey e.key
  let nonNaN := (m.list ++ m.dropped).filter fun e => e.key != topKey
  let top := if nonNaN.isEmpty then negInf32 else valueOfKey ((nonNaN.map (·.key)).foldl max 0)
  { outs := [m.list.flatMap (fun e => [e.id % 2 ^ 32, e.id / 2 ^ 32, e.tier]) ++ List.replicate (3 * fill) minusOne,
             scores ++ List.replicate fill negInf32,
             [count64 m.list.length, count64 m.restCount, count64 m.tiedLeftOut,
              count64 (m.list.filter fun e => e.key == topKey).length, count64 m.nanRest, m.sumSelected, m.sumRest, f32to64 top]]
    count := { duplicates := m.duplicates } }

/-- R338: GATHER from a tensor. -/
def opGather (src idx : Tens) : OpOut :=
  let rows := src.rows
  let ix := idx.pats.map (ofBits 32)
  let bad := ix.filter fun i => i < 0 || (rows.length : Int) ≤ i
  { outs := [ix.flatMap fun i => if i < 0 then List.replicate src.last 0 else (rows[i.toNat]?).getD (List.replicate src.last 0)]
    count := { indexFaults := bad.length } }

/-- R338: SCATTER. -/
def opScatter (outRows cols : Nat) (rows idx : Tens) (init : Option Tens) : OpOut :=
  let start := match init with
    | some t => t.rows
    | none => List.replicate outRows (List.replicate cols 0)
  let ix := idx.pats.map (ofBits 32)
  let fin := (ix.zip rows.rows).foldl (fun acc q => if q.1 < 0 then acc else acc.set q.1.toNat q.2) start
  { outs := [fin.flatten], count := { indexFaults := (ix.filter fun i => i < 0 || (outRows : Int) ≤ i).length } }

/-- R304, R208: the outputs of NB_MATVEC from the sums of its rows, the scales of the rows and that of x. -/
def opMatvec (accs : List Int) (ms xs : List Nat) : OpOut :=
  let sa := decode bf16 (xs.getD 0 0)
  { outs := [((List.range accs.length).zip accs).map fun q =>
      encode fp32 .rne (scaleOut (d32 (intFl q.2)) sa (decode bf16 (ms.getD q.1 0)))]
    count := {} }

/-! Attention (R344, R345): what the cores compute around the products of the near-bank units. -/

/-- Step 1 of R344: the scale and codes of one query head. -/
def attendQuery (r : Rnd) (qfmt row : Nat) (q : List Nat) : Nat × List Nat :=
  quantRow qfmt r.mode (seedOf r.seed r.op r.iter row) (q.map (decode fp32))

/-- Step 2 of R344: the scores of one query head from its sums and the K scales. -/
def attendScores (scale sq : Nat) (accs : List Int) (ks : List Nat) : List Nat :=
  (accs.zip ks).map fun t =>
    encode fp32 .rne (mul (d32 (mul (d32 (mul (d32 (intFl t.1)) (decode bf16 sq))) (decode bf16 t.2))) (decode fp32 scale))

/-- Step 5: the weights folded with the V scales. -/
def foldedWeights (vs p : List Nat) : List Fl := (p.zip vs).map fun q => d32 (mul (decode fp32 q.1) (decode bf16 q.2))

/-- Step 5: the scale and codes of the folded weights. -/
def attendFold (r : Rnd) (pfmt row : Nat) (vs p : List Nat) : Nat × List Nat :=
  quantRow pfmt r.mode (seedOf r.seed r.op r.iter row) (foldedWeights vs p)

/-- Step 7: the outputs of one query head from its sums. -/
def attendOut (sp : Nat) (accs : List Int) : List Nat := accs.map fun a => encode fp32 .rne (mul (d32 (intFl a)) (decode bf16 sp))

/-- The summary of a head without tokens. -/
def emptySummary : List Nat := summaryRow ⟨0, 0, 0, sentinelKey, 0, 0, 0, 0, negInf32, false, true⟩

/-- Step 3 of R344: the select operation of one query head. -/
def attendSelect (topk : Nat) (s : List Nat) : List SelEntry × Summary48 :=
  let es : List SelEntry := ((List.range s.length).zip s).map fun p => ⟨keyOf p.2, p.1⟩
  let (out, f) := selectTop true (if topk = 0 then s.length else topk) es
  (out, if topk = 0 then { f with sumRest := 0 } else f)

/-- Steps 3 and 4 of R344: the weights of one query head and its summary. -/
def attendWeights (topk : Nat) (s : List Nat) : List Nat × List Nat :=
  let (out, f) := attendSelect topk s
  let z := decode fp64 (addR fp64 .rne f.sumSelected f.sumRest)
  let chosen := out.map (·.index)
  let p := ((List.range s.length).zip s).map fun t =>
    if chosen.contains t.1 then
      let term := if keyOf t.2 = topKey then 0 else selTerm true f.maxScore t.2
      encode fp32 .rne (decode fp64 (div fp64 .rne (decode fp64 term) z))
    else 0
  (p, summaryRow f)

/-- R196, R197: what rows add to the counters when they are quantised. -/
def quantCount (r : Rnd) (rows : List (List Fl)) : OpCount :=
  { zeroScale := (rows.filter fun w => w.all fun v => !isFinite v || isZero v).length
    nonFinite := (rows.filter fun w => w.any fun v => !isFinite v).length
    stochastic := r.srRows rows.length }

def OpCount.plus (a b : OpCount) : OpCount :=
  ⟨a.quantised + b.quantised, a.zeroScale + b.zeroScale, a.nonFinite + b.nonFinite, a.stochastic + b.stochastic,
   a.overflow + b.overflow, a.indexFaults + b.indexFaults, a.duplicates + b.duplicates⟩

end Sys2Proof.Machine
end

