-- ==== Sys2Proof/Machine/BerthCache.lean ====
section
/-! DEFINITION. The pages of a berth and its attention cache: page numbers (R362), tiles and planes (R292 and the attention
cache geometry of 10_operator_graphs.md), reads for attention (R344) and appends (R345). -/

namespace Sys2Proof.Machine

open Sys2Proof Sys2Proof.Num

/-- T of R292. -/
def tileTokens (g : Geometry) : Nat := 16384 / max 1 g.headDim
/-- B: planes of the cache format. -/
def planeCount (g : Geometry) : Nat := if g.fmt = 6 then 4 else 8
/-- Tiles of a Plane page. -/
def pageTiles (g : Geometry) : Nat := 32 / planeCount g

def ceilDiv (a b : Nat) : Nat := (a + b - 1) / b

/-- R362. -/
def planePageCount (g : Geometry) : Nat :=
  if g.layers = 0 then 0 else ceilDiv (g.layers * g.kvHeads * 2 * (g.capacity / max 1 (tileTokens g))) (pageTiles g)
def scalePageCount (g : Geometry) : Nat := if g.layers = 0 then 0 else ceilDiv (g.layers * g.kvHeads * 2 * g.capacity * 2) 65536
def berthPageCount (g : Geometry) : Nat := planePageCount g + scalePageCount g + g.dataPages

/-- R362 and the geometry table: a geometry that CREATE takes. -/
def geometryOk (g : Geometry) (pagesMax : Nat) : Bool :=
  decide (g.dataPages ≤ 65536) && decide (berthPageCount g ≤ pagesMax)
    && (if g.layers = 0 then g.kvHeads == 0 && g.fmt == 0 && g.headDim == 0 && g.capacity == 0
        else decide (g.layers ≤ 256) && decide (1 ≤ g.kvHeads) && decide (g.kvHeads ≤ 64) && (g.fmt == 5 || g.fmt == 6)
          && [64, 128, 256, 512, 1024].contains g.headDim && decide (0 < g.capacity) && decide (g.capacity ≤ 1048576)
          && g.capacity % tileTokens g == 0)

/-- The sequence number of a layer, head and kind (0 K, 1 V). -/
def cacheSeq (g : Geometry) (l h k : Nat) : Nat := (l * g.kvHeads + h) * 2 + k

/-- The berth page and the first row of the tile that holds token t of a sequence. -/
def tilePlace (g : Geometry) (q t : Nat) : Nat × Nat :=
  let tile := q * (g.capacity / max 1 (tileTokens g)) + t / max 1 (tileTokens g)
  (tile / pageTiles g, tile % pageTiles g * planeCount g)

/-- The bit of element d of token t in each plane row (R292). -/
def tileBit (g : Geometry) (k t d : Nat) : Nat :=
  if k = 0 then t % tileTokens g * g.headDim + d else d * tileTokens g + t % tileTokens g

/-- The berth page and byte offset of a token's scale. -/
def scalePlace (g : Geometry) (q t : Nat) : Nat × Nat :=
  let o := (q * g.capacity + t) * 2
  (planePageCount g + o / 65536, o % 65536)

/-- The address of a berth page in stack or shelf memory. -/
def berthAddr (s : State) (b n : Nat) : Option Nat := pageAddr s (.berth b n)

/-- The number of tiles that hold the first `u` tokens of a sequence, and the berth pages of some of them. -/
def tileCount (g : Geometry) (u : Nat) : Nat := ceilDiv u (tileTokens g)
def tilePages (g : Geometry) (q : Nat) (tiles : List Nat) : List Nat := tiles.map fun j => (tilePlace g q (j * tileTokens g)).1

/-- The address of the first row of a tile. -/
def tileAddr (s : State) (b : Nat) (g : Geometry) (q j : Nat) : Nat :=
  let p := tilePlace g q (j * tileTokens g)
  (berthAddr s b p.1).getD 0 + p.2 * 2048

/-- The berth pages that hold the scales of the first `u` tokens of a sequence. -/
def scalePages (g : Geometry) (q u : Nat) : List Nat := (pagePieces (q * g.capacity * 2) (2 * u)).map fun p => planePageCount g + p.1

/-- The scales of the first `u` tokens of a sequence. -/
def readScales (s : State) (owner b : Nat) (g : Geometry) (q u : Nat) : Nat × List Nat × State :=
  let r := readPaged s owner (fun n => berthAddr s b (planePageCount g + n)) (q * g.capacity * 2) (2 * u)
  (r.1, (List.range u).map (fun t => field r.2.1 (2 * t) 2), r.2.2)

/-- Bit i of a byte string. -/
def bitAt (b : Bytes) (i : Nat) : Bool := (b.getD (i / 8) 0).toNat.testBit (i % 8)

/-- The codes of one token in a tile's planes. -/
def tokenCodes (g : Geometry) (k t : Nat) (planes : List Bytes) : List Nat :=
  (List.range g.headDim).map fun d =>
    ((List.range planes.length).zip planes).foldl (fun v p => v + if bitAt p.2 (tileBit g k t d) then 2 ^ p.1 else 0) 0

/-- A plane row with some bits set to new values. -/
def setBits (row : Bytes) (l : List (Nat × Bool)) : Bytes :=
  l.foldl (fun (b : Bytes) p =>
    let x := b.getD (p.1 / 8) 0
    let m : Byte := BitVec.ofNat 8 (2 ^ (p.1 % 8))
    b.set (p.1 / 8) (if p.2 then x ||| m else x &&& ~~~m)) (padTo 2048 row)

/-- R345: write one token's codes and scale of one head and kind. Highest status, pages written, state. -/
def appendToken (s : State) (owner b : Nat) (g : Geometry) (l h k t : Nat) (codes : List Nat) (scale : Nat) : Nat × List Nat × State :=
  let q := cacheSeq g l h k
  let (page, row) := tilePlace g q t
  let bits (i : Nat) : List (Nat × Bool) := ((List.range codes.length).zip codes).map fun c => (tileBit g k t c.1, c.2.testBit i)
  let r := (List.range (planeCount g)).foldl (fun (acc : Nat × State) i =>
    match berthAddr acc.2 b page with
    | none => (St.uncorrectable, acc.2)
    | some a =>
      let old := agentRead acc.2 owner (a + (row + i) * 2048) 2048
      if old.1 ≠ St.ok then (max acc.1 old.1, old.2.2)
      else
        let w := agentWrite old.2.2 owner (a + (row + i) * 2048) (setBits old.2.1 (bits i))
        (max acc.1 w.1, w.2)) (St.ok, s)
  let (sp, off) := scalePlace g q t
  match berthAddr r.2 b sp with
  | none => (St.uncorrectable, [], r.2)
  | some a =>
    let w := agentWrite r.2 owner (a + off) (leBytes 2 scale)
    (max r.1 w.1, [page, sp], w.2)

end Sys2Proof.Machine
end

