-- ==== Sys2Proof/Machine/BerthOps.lean ====
section
/-! DEFINITION. Berths: records and ownership words (R360 to R362, R371), leases and resolution (R372, R374), checkpoints and
shadows (R375, R376), parks, wakes, handoffs (R366, R367, R373), takeovers (R377). -/

namespace Sys2Proof

open Sys2Proof.Machine

/-- The 16 bytes of an ownership word. -/
def Machine.Word.bytes (w : Machine.Word) : Bytes :=
  leBytes 4 w.owner ++ leBytes 4 w.seq ++ leBytes 6 w.lease ++ leBytes 2 (boolBit w.parked 0 + boolBit w.recovering 1)

/-- An ownership word read from 16 bytes. -/
def wordOf (b : Bytes) : Machine.Word := ⟨field b 0 4 % 2 ^ 20, field b 4 4, field b 8 6, bit (field b 14 2) 0, bit (field b 14 2) 1⟩

end Sys2Proof

namespace Sys2Proof.Machine

open Sys2Proof

namespace Berth

def home (b : Nat) : Nat := b / 2 ^ 44 % 2 ^ 20
def num (b : Nat) : Nat := b % 2 ^ 24
def idOf (home num : Nat) : Nat := home * 2 ^ 44 + num

def find (s : State) (b : Nat) : Option OwnedBerth := s.berth.owned.find? fun o => o.id == b
def findHome (s : State) (n : Nat) : Option HomeBerth := s.berth.homes.find? fun h => h.num == n

def mapOwned (s : State) (b : Nat) (f : OwnedBerth → OwnedBerth) : State :=
  { s with berth := { s.berth with owned := s.berth.owned.map fun o => if o.id == b then f o else o } }

/-- Change what the home keeps of a number. -/
def mapHome (s : State) (n : Nat) (f : HomeBerth → HomeBerth) : State :=
  { s with berth := { s.berth with homes := s.berth.homes.map fun h => if h.num == n then f h else h } }

/-- The table of berth states. -/
def code : BerthState → Nat
  | .free => 0 | .resident => 1 | .moving => 2 | .parking => 3 | .parked => 4 | .waking => 5 | .recovering => 6 | .lost => 7

/-- The home of a berth is this node. -/
def homeHere (s : State) (b : Nat) : Bool := home b == s.strand.nodeId

/-- The state that a completion reports. -/
def stateOf (s : State) (b : Nat) : Nat :=
  match find s b with
  | some o => code o.state
  | none => match findHome s (num b) with
    | some h => if homeHere s b then code h.state else 0
    | none => 0

/-- The word as this node knows it: its own record as home, or what it holds as owner. -/
def wordHere (s : State) (b : Nat) : Word :=
  match homeHere s b, findHome s (num b), find s b with
  | true, some h, _ => h.word
  | _, _, some o => ⟨s.strand.nodeId, o.seq, o.lease, false, o.state == .recovering⟩
  | _, _, none => ⟨0, 0, 0, false, false⟩

/-- The berth completion's command-specific bytes. -/
def completion (s : State) (b eventTide : Nat) : Bytes :=
  let w := wordHere s b
  leBytes 4 w.seq ++ leBytes 4 w.owner ++ leBytes 6 eventTide ++ leBytes 1 (stateOf s b) ++ [0]

/-! Records (R361). -/

/-- R361: the Fixed stack page of a number's record and word, 64 bytes for each number; none where no page is free
(notes/assumptions/94.md). -/
def recordPage (s : State) (n : Nat) : Option State :=
  if s.berth.recordPages.any fun p => p.1 == n / 1024 then some s
  else (Mem.allocFixed s.mem 0 false).map fun r =>
    { s with mem := r.2, berth := { s.berth with recordPages := s.berth.recordPages ++ [(n / 1024, r.1)] } }

/-- The fields of a record and its word. -/
def recordWords (h : HomeBerth) : List Nat :=
  [h.num, code h.state, h.ownerSlot, h.geo.layers, h.geo.kvHeads, h.geo.headDim, h.geo.fmt, h.geo.capacity, h.geo.dataPages,
    boolBit h.pinned 0, h.checkpoints, h.checkpointTide, h.parkTide, h.lastCkpt, boolBit h.parkedCopy 0 + boolBit h.swept 1,
    h.word.owner, h.word.seq, h.word.lease, boolBit h.word.parked 0 + boolBit h.word.recovering 1]
    ++ (match h.shadow with
      | some n => [1, n]
      | none => [0, 0]) ++ h.tokens

/-- R361: journal a record and its word in flash, in the region 5 codeword of the number. -/
def journal (s : State) (h : HomeBerth) : State :=
  { s with flash := Flash.write s.flash s.subticks 0 [(Flash.recordWord h.num, Config.encodeRecord (recordWords h))] }

/-- The flash log write that holds the latest journal entry of a number, while it is not durable. -/
def journalWrite (s : State) (n : Nat) : Option Nat := (Flash.newestWork s.flash [Flash.recordWord n]).map (·.2.num)

/-- Send an answer whose journal entry is durable. -/
def emitAnswer (s : State) (a : BerthAnswer) : State :=
  match a with
  | .done cmd status b retry => s.finish cmd status b retry
  | .message src type status => answerMsg s src type status
  | .control dest ws => sendMessage s dest 2 0 0x0021 ws [] .none
  | .word f status old => respond s f status 0 (if status = St.ok then old else [])

/-- R361: answer a request on number n of this home: not before the journal holds every change to its record. -/
def answer (s : State) (n : Nat) (a : BerthAnswer) : State :=
  match journalWrite s n with
  | some w => { s with berth := { s.berth with answers := s.berth.answers ++ [(w, a)] } }
  | none => emitAnswer s a

/-- After flash programs: the answers whose journal entries are durable leave. -/
def settleAnswers (s : State) : State :=
  let ready (a : Nat × BerthAnswer) : Bool := !Flash.writePending s.flash a.1
  (s.berth.answers.filter ready).foldl (fun s a => emitAnswer s a.2) { s with berth := { s.berth with answers := s.berth.answers.filter fun a => !ready a } }

/-- Complete a command on a berth. -/
def finish (s : State) (cmd b status eventTide : Nat) : State :=
  if homeHere s b then answer s (num b) (.done cmd status (completion s b eventTide) (s.now + 1)) else s.finish cmd status (completion s b eventTide) (s.now + 1)

/-- R364: STALE_OWNER with the owner that a word names. -/
def finishStale (s : State) (cmd : Nat) (w : Word) : State :=
  s.finish cmd St.staleOwner (leBytes 4 w.seq ++ leBytes 4 w.owner ++ leBytes 6 0 ++ leBytes 1 (if w.parked then 4 else if w.recovering then 6 else 1) ++ [0]) 0

/-- Change a record or its word, journaled. -/
def mapRecord (s : State) (n : Nat) (f : HomeBerth → HomeBerth) : State :=
  match findHome s n with
  | none => s
  | some h => journal (mapHome s n f) (f h)

/-- A new record. -/
def putRecord (s : State) (h : HomeBerth) : State :=
  journal { s with berth := { s.berth with homes := (s.berth.homes.filter fun x => x.num != h.num) ++ [h] } } h

/-- The record of a number that no CREATE has used. -/
def unusedRecord (n : Nat) (w : Word) : HomeBerth :=
  { num := n, state := .free, ownerSlot := 0, geo := ⟨0, 0, 0, 0, 0, 0⟩, pinned := false, shadow := none, checkpoints := 0, checkpointTide := 0
    word := w, tokens := [], parkTide := 0, parkedCopy := false, parkedPages := [], refusedPark := 0, ckptAt := none, lastCkpt := 0, swept := false, waits := [] }

/-! Messages between home, owner and shadow. -/

def optWords : Option Nat → List Nat
  | some n => [1, n]
  | none => [0, 0]

def controlWords : BerthMsg → List Nat
  | .installed b q l c => [0, b, q, l, c]
  | .discard b => [1, b]
  | .report b c t => [2, b, c] ++ t
  | .create c o g p => [3, c, o, g.layers, g.kvHeads, g.headDim, g.fmt, g.capacity, g.dataPages, boolBit p 0]
  | .created c st n q l sh => [4, c, st, n, q, l] ++ optWords sh
  | .shadow b n => [5, b] ++ optWords n
  | .refused b n => [6, b, n]
  | .lost b q => [7, b, q]

def sendControl (s : State) (dest : Nat) (m : BerthMsg) : State := sendMessage s dest 2 0 0x0021 (controlWords m) [] .none

/-- The report of a checkpoint, whose answer ends it. -/
def sendReport (s : State) (b ckpt : Nat) (tokens : List Nat) : State :=
  sendMessage s (home b) 2 0 0x0021 (controlWords (.report b ckpt tokens)) [] (.control b)

/-! Words (R371). -/

/-- R376: the shadow that the home chooses: the next Attend node of the map that is neither the owner nor the node that refused the last
request. -/
def chooseShadow (s : State) (b owner : Nat) : Option Nat :=
  let refused := (s.berth.refused.filter fun r => r.1 == b).map (·.2)
  let all := sortBy (fun (a c : Nat) => decide (a < c)) (((compositionNodes s).filter fun p => p.2 == 1).map (·.1))
  let ok := all.filter fun n => n != owner && !refused.contains n
  match ok.find? fun n => home b < n with
  | some n => some n
  | none => ok.head?

def allPages (o : OwnedBerth) : List Nat := List.range (berthPageCount o.geo)

/-- The owner learns its shadow; with a new one its next checkpoint is full (R376). -/
def setShadow (s : State) (b : Nat) (sh : Option Nat) : State :=
  mapOwned s b fun o => if o.shadow = sh then o else { o with shadow := sh, unacked := [], dirty := allPages o }

/-- The home tells an owner its shadow. -/
def tellShadow (s : State) (b owner : Nat) (sh : Option Nat) : State :=
  if owner = s.strand.nodeId then setShadow s b sh else sendControl s owner (.shadow b sh)

/-- The home's record after its word has changed (R366, R371, R373, R376, R377). -/
def followWord (s : State) (n : Nat) (w : Word) : State :=
  match findHome s n with
  | none => putRecord s (unusedRecord n w)
  | some h =>
    let b := idOf s.strand.nodeId n
    let live := h.state != .free && h.state != .lost
    let sh := if h.shadow = some w.owner ∧ !w.recovering ∧ !w.parked then chooseShadow s b w.owner else h.shadow
    let s := mapRecord s n fun h => { h with
      word := w
      state := if !live then h.state else if w.parked then .parked else if w.recovering then .recovering else .resident
      shadow := sh, parkTide := if live && w.parked then s.now else h.parkTide, parkedCopy := h.parkedCopy || (live && w.parked) }
    if live && !w.parked && (w.owner != h.word.owner || sh != h.shadow) then tellShadow s b w.owner sh else s

/-- An atomic on a word at this home: SWAP (0) or CAS (1). The old 16 bytes, and the state after. -/
def wordAtomic (s : State) (n op : Nat) (operand expected : Bytes) : Bytes × State :=
  let old := match findHome s n with
    | some h => h.word.bytes
    | none => List.replicate 16 0
  if op = 1 ∧ old ≠ expected then (old, s)
  else (old, followWord s n (wordOf operand))

/-- The owner's own copy of the lease after a swap it made. -/
def noteLease (s : State) (b : Nat) (w : Word) : State :=
  mapOwned s b fun o => { o with seq := w.seq, lease := w.lease, renewed := s.now, expired := false }

/-! Pages. -/

def pageIds (o : OwnedBerth) : List PageId := (List.range (berthPageCount o.geo)).map fun n => .berth o.id n

/-- Give back every page of a berth that this node holds. -/
def freePages (s : State) (o : OwnedBerth) : State := (pageIds o).foldl releasePage s

/-- Allocate the pages of a berth as Tiered Free lines: Plane pages first (R362, R363); none where they do not fit. -/
def allocPages (s : State) (b ownerSlot : Nat) (g : Geometry) (pinned : Bool) : Option State :=
  (List.range (berthPageCount g)).foldl (fun (acc : Option State) n => acc.bind fun s =>
    (Mem.allocPage s.mem (.berth b n) ownerSlot (decide (n < planePageCount g)) s.now).map fun r =>
      { s with mem := Mem.mapPage r.2 (.berth b n) fun p => { p with pinned := pinned } }) (some s)

/-- R262: the bytes of a Tiered page in stack or shelf memory that a transfer reads, with its line states; none where part of it is
uncorrectable. -/
def pageData (s : State) (id : PageId) : Option (Bytes × List (Nat × Bool) × State) :=
  let s := touch s id
  (pageAddr s id).bind fun a =>
    let s := Coh.flushPage s a
    let lo := lineOf a
    if s.mem.bad.any (fun n => decide (lo ≤ n) && decide (n < lo + 1024)) || s.coh.lost.any (fun x => pageOf x == a) then none
    else some (Cells.reads s.mem.cells a 65536, lineStates s a, s)

/-- Write a page's lines into memory, and into the destination too where the page moves (R274): address, owner, bytes, line states. -/
def placePage (s : State) (a ownerSlot : Nat) (bytes : Bytes) (states : List (Nat × Bool)) : State :=
  states.foldl (fun s q =>
    let n := lineOf a + q.1
    let data := (bytes.drop (64 * q.1)).take 64
    match Coh.moveOf s n with
    | some v => Coh.storeMoving s v n (some ownerSlot) data
    | none => { s with mem := Mem.setLine s.mem n (some (ownerSlot, q.2)) data }) (touchAddr (Coh.flushPage s a) a)

/-- The logical codewords of a parked page at its home (R474, region 2). -/
def parkedCodewords (n page : Nat) : List Nat := (List.range 16).map (pageCodeword 2 (n * 2 ^ 18 + page))

/-- R366, R508, R510: the Curator has no space for these codewords of a park. -/
def parkFull (s : State) (ls : List Nat) : Bool := Flash.wouldFill s ls || Flash.tieredFull s ls

/-- Write a page of a park to the home's flash. -/
def parkPage (s : State) (n page ownerSlot : Nat) (bytes : Bytes) (states : List (Nat × Bool)) : State :=
  let s := mapHome s n fun h => { h with parkedPages := (h.parkedPages.filter fun (p : Nat × List (Nat × Bool)) => p.1 != page) ++ [(page, states)] }
  if states.isEmpty then s
  else { s with flash := Flash.write s.flash s.subticks ownerSlot ((parkedCodewords n page).zip (codewordsOf 16 bytes)) }

/-- A page lies in flash at its own node. -/
def inFlash (s : State) (id : PageId) : Option Page := (Mem.page s.mem id).filter fun p => p.tier == .flash

/-- Free the parked pages of a berth number. -/
def dropParked (s : State) (h : HomeBerth) : State :=
  let s := { s with flash := Flash.unmapAll s.flash (h.parkedPages.flatMap fun p => parkedCodewords h.num p.1) }
  mapHome s h.num fun h => { h with parkedPages := [] }

def pageWords (p : BerthPage) : List Nat :=
  [p.berth, (match p.use with
    | .copy => 0
    | .checkpoint => 1
    | .park => 2), p.page, p.ownerSlot, p.geo.layers, p.geo.kvHeads, p.geo.headDim, p.geo.fmt, p.geo.capacity, p.geo.dataPages,
    boolBit p.pinned 0, p.ckpt] ++ p.tokens ++ p.states.map fun q => 2 * q.1 + boolBit q.2 0

/-- The number of the checkpoint that an owner makes now: it rises with every checkpoint and every change of owner. -/
def ckptNumber (o : OwnedBerth) : Nat := o.seq * 2 ^ 32 + o.made

/-- Send a page's bytes to another node. -/
def sendBytes (s : State) (o : OwnedBerth) (dest : Nat) (use : BerthUse) (n : Nat) (bytes : Bytes) (states : List (Nat × Bool)) : State :=
  let p : BerthPage := ⟨o.id, use, n, bytes, states, o.ownerSlot, o.geo, o.pinned, o.tokens, ckptNumber o⟩
  sendMessage s dest 8 0 0x0020 (pageWords p) [bytes] (.pages o.id n use)

/-- R483, R485: a page in flash is read through its channels for a copy (class 3). -/
def fetchPage (s : State) (b dest : Nat) (use : BerthUse) (n : Nat) (p : Page) : State :=
  let under := match find s b with
    | some o => o.fetch.any fun f => f.1 == n
    | none => false
  let s := mapOwned (touch s p.id) b fun o => { o with fetch := o.fetch ++ [(n, use, dest)] }
  if under then s else { s with flash := Flash.readAll s.flash (pageCodewords p.id p.swap) p.owner 3 (.copy b n) }

/-- Send one page of a berth to another node, once it has been read where it lies in flash; none where the page is uncorrectable. -/
def sendPage (s : State) (o : OwnedBerth) (dest : Nat) (use : BerthUse) (n : Nat) : Option State :=
  match inFlash s (.berth o.id n) with
  | some p => if p.lostLines.isEmpty then some (fetchPage s o.id dest use n p) else none
  | none => (pageData s (.berth o.id n)).map fun r => sendBytes r.2.2 o dest use n r.1 r.2.1

/-- R439: a send that ended with RETRY found no route, which is counted. -/
def noRoute (s : State) (status : Nat) : State := if status = St.retry then s.unrouted else s

/-- Send pages of a berth, or the status with which that fails: RETRY without a route (R441), UNCORRECTABLE for a page that cannot be read. -/
def sendPages (s : State) (o : OwnedBerth) (dest : Nat) (use : BerthUse) (ps : List Nat) : Except Nat State :=
  if unsent s dest 8 then .error St.retry
  else match ps.foldl (fun acc n => acc.bind fun s => sendPage s o dest use n) (some s) with
    | some s => .ok s
    | none => .error St.uncorrectable

/-! The ends of an owner's hold. -/

/-- Complete the commands that wait on a berth that this node no longer serves. -/
def dropWaits (s : State) (o : OwnedBerth) (status : Nat) : State :=
  o.waits.foldl (fun s w => finish s w.cmd o.id status 0) s

/-- R364: they end with STALE_OWNER and the owner that the word at the home names. -/
def staleWaits (s : State) (o : OwnedBerth) (w : Word) : State :=
  o.waits.foldl (fun s x => if homeHere s o.id then finish s x.cmd o.id St.staleOwner 0 else finishStale s x.cmd w) s

/-- Read the word for a command that met another owner, and complete it with STALE_OWNER (R364). -/
def refuseStale (s : State) (cmd b : Nat) : State :=
  let z : Bytes := List.replicate 16 0
  if homeHere s b then finish s cmd b St.staleOwner 0
  else (sendWordAtomic (startCmd s cmd) (home b) (num b) 1 z z (.stale cmd)).getD (s.unrouted.refuse cmd St.retry)

/-- Stop holding a berth: its pages go. -/
def letGo (s : State) (o : OwnedBerth) : State :=
  let s := { s with flash := (o.fetch.map (·.1)).foldl (fun u n => Flash.forget u (.copy o.id n)) s.flash }
  let s := freePages s o
  { s with berth := { s.berth with owned := s.berth.owned.filter fun x => x.id != o.id } }

/-- Stop holding a berth; waiting commands end with a status. -/
def discard (s : State) (b status : Nat) : State :=
  match find s b with
  | none => s
  | some o => dropWaits (letGo s o) o status

/-- Stop holding a berth whose word names another owner. -/
def discardStale (s : State) (b : Nat) (w : Word) : State :=
  match find s b with
  | none => s
  | some o => staleWaits (letGo s o) o w

/-- R374: a copy whose ownership is not confirmed. -/
def unconfirm (s : State) (b : Nat) : State :=
  mapOwned s b fun o => { o with unconfirmed := true, resolveAt := s.now + s.cfg Ent.resolvePeriod }

/-! Leases (R372). -/

/-- The answer to a renewal: whether the swap took place, the old word, the word written. -/
def leaseAnswer (s : State) (b status : Nat) (old expected new : Word) : State :=
  match find s b with
  | none => s
  | some _ =>
    if status = St.ok then
      if old = expected then noteLease s b new
      else if old.owner = s.strand.nodeId ∧ old.seq = expected.seq then mapOwned s b fun o => { o with lease := old.lease }
      else discardStale s b old
    else if status = St.indeterminate ∨ status = St.responderReset then unconfirm s b
    else s

/-- Renew the lease of a berth by a swap (R371, R372). -/
def renew (s : State) (b : Nat) : State :=
  match find s b with
  | none => s
  | some _ =>
    let w := wordHere s b
    let new : Word := { w with lease := s.now + s.cfg Ent.leaseTides }
    if homeHere s b then
      let r := wordAtomic s (num b) 1 new.bytes w.bytes
      leaseAnswer r.2 b St.ok (wordOf r.1) w new
    else (sendWordAtomic s (home b) (num b) 1 new.bytes w.bytes (.lease b)).getD (leaseAnswer s.unrouted b St.retry w w new)

/-! Checkpoints (R375) and parks (R366). -/

/-- R375 steps 3 and 4 at the home. The parked copy of before is the checkpoint no more (R376). -/
def recordCheckpoint (s : State) (n ckpt : Nat) (tokens : List Nat) : State :=
  let s := match findHome s n with
    | some h => if h.state = BerthState.parked then s else dropParked s h
    | none => s
  let s := { s with berth := { s.berth with refused := s.berth.refused.filter fun r => r.1 != idOf s.strand.nodeId n } }
  (mapRecord s n fun h => { h with
    checkpoints := h.checkpoints + 1, checkpointTide := s.now, tokens := tokens, lastCkpt := ckpt, ckptAt := h.shadow
    parkedCopy := h.parkedCopy && h.state == .parked }).bump Ent.checkpoints

/-- The run completion of an ATTEND (R350 and the berth completion table). -/
def attendBytes (s : State) (b seed failed : Nat) : Bytes :=
  leBytes 8 seed ++ leBytes 2 failed ++ leBytes 4 0 ++ leBytes 1 (stateOf s b) ++ [0]

/-- The park's pages are durable at the home: each written one is programmed. -/
def parkedBytesDurable (s : State) (h : HomeBerth) : Bool :=
  h.parkedPages.all fun p => p.2.isEmpty || (parkedCodewords h.num p.1).all fun l => Flash.durable s.flash l

/-- Reads of pages in flash for a use stop. -/
def dropFetch (s : State) (b : Nat) (use : BerthUse) : State :=
  match find s b with
  | none => s
  | some o =>
    let left := o.fetch.filter fun f => f.2.1 != use
    let gone := (o.fetch.map (·.1)).filter fun n => !left.any fun f => f.1 == n
    mapOwned { s with flash := gone.foldl (fun u n => Flash.forget u (.copy b n)) s.flash } b fun o => { o with fetch := left }

/-- A park that cannot go on leaves the berth Resident. -/
def parkFail (s : State) (b : Nat) (cmd : Option Nat) (status : Nat) : State :=
  let s := if status = St.mediaFull then s.bump Ent.mediaFullRefusals else s
  let s := dropFetch s b .park
  let s := mapOwned s b fun o => { o with state := .resident, task := .none, uncopied := [] }
  match cmd with
  | some c => finish s c b status 0
  | none => s

/-- Every cached line of a berth's pages is written back. -/
def flushPages (s : State) (o : OwnedBerth) : State :=
  (allPages o).foldl (fun s n => match berthAddr s o.id n with
    | some a => Coh.flushPage s a
    | none => s) s

/-- A page of a berth holds lines that are not Free: only such pages are written. -/
def pageUsed (s : State) (id : PageId) : Bool :=
  match inFlash s id, pageAddr s id with
  | some p, _ => !p.states.isEmpty
  | none, some a => !(lineStates s a).isEmpty
  | none, none => false

/-- The codewords that a park at this home writes. -/
def parkWrites (s : State) (o : OwnedBerth) : List Nat :=
  ((allPages o).filter fun n => pageUsed s (.berth o.id n)).flatMap (parkedCodewords (num o.id))

/-- Write one page of a park at this home; none where it is uncorrectable. A page in flash does not pass through memory: its codewords are
read and programmed again as those of the parked page, whose number they then carry (R366, R474, R475, R477; DEDUCED,
notes/assumptions/94.md). -/
def parkOne (s : State) (o : OwnedBerth) (n : Nat) : Option State :=
  match inFlash s (.berth o.id n) with
  | some p => if p.lostLines.isEmpty then some (fetchPage (mapOwned s o.id fun o => { o with uncopied := o.uncopied ++ [n] }) o.id (home o.id) .park n p) else none
  | none => (pageData s (.berth o.id n)).map fun r => parkPage r.2.2 (num o.id) n o.ownerSlot r.1 r.2.1

/-- R366: the owner writes every page to the home's flash, once the checkpoint of the park has ended; an earlier parked copy is written over. -/
def parkPages (s : State) (b : Nat) (cmd : Option Nat) : State :=
  match find s b with
  | none => s
  | some o =>
    if homeHere s b then
      let s := flushPages s o
      if parkFull s (parkWrites s o) then parkFail s b cmd St.mediaFull
      else
        let s := match findHome s (num b) with
          | some h => mapRecord (dropParked s h) (num b) fun h => { h with parkedCopy := false }
          | none => s
        match (allPages o).foldl (fun (acc : Option State) n => acc.bind fun s => parkOne s o n) (some s) with
        | none => parkFail s b cmd St.uncorrectable
        | some s => s
    else match sendPages s o (home b) .park (allPages o) with
      | .error st => parkFail (noRoute s st) b cmd st
      | .ok s => mapOwned s b fun o => { o with uncopied := allPages o }

/-- The page moves of a park or handoff go on once the checkpoint stands. -/
def checkpointDone (s : State) (b status : Nat) : State :=
  match find s b with
  | none => s
  | some o =>
    let idle (s : State) : State := mapOwned s b fun o => { o with task := .none, state := if o.state = .moving then .resident else o.state }
    match o.task with
    | .checkpoint (some cmd) => let s := idle s; finish s cmd b status (if status = St.ok then s.now else 0)
    | .checkpoint none => idle s
    | .phaseEnd cmd seed st failed => let s := idle s; s.finish cmd (max st status) (attendBytes s b seed failed) (s.now + 1)
    | .park cmd => parkPages (mapOwned s b fun o => { o with eventTide := s.now }) b cmd
    | _ => mapOwned s b fun o => { o with eventTide := s.now }

/-- Every page of the checkpoint is at the shadow: report it to the home. -/
def reportCheckpoint (s : State) (b : Nat) : State :=
  match find s b with
  | none => s
  | some o =>
    if homeHere s b then checkpointDone (recordCheckpoint s (num b) (ckptNumber o) o.tokens) b St.ok
    else sendReport s b (ckptNumber o) o.tokens

/-- R376: the home replaces a shadow that refuses or fails; the next checkpoint is full. -/
def replaceAtHome (s : State) (b owner n : Nat) : State :=
  let s := { s with berth := { s.berth with refused := (s.berth.refused.filter fun r => r.1 != b) ++ [(b, n)] } }
  let sh := chooseShadow s b owner
  tellShadow (mapRecord s (num b) fun h => { h with shadow := sh }) b owner sh

/-- R376: a shadow to which no route leads has failed: the home, where it is this node, names others until one can be reached. -/
def reachShadow : Nat → State → Nat → State
  | 0, s, _ => s
  | k + 1, s, b => match (find s b).bind (·.shadow) with
    | none => s
    | some n => if homeHere s b && unsent s n 8 then reachShadow k (replaceAtHome s.unrouted b s.strand.nodeId n) b else s

/-- The owner reports a shadow that refused or failed to another home, and its checkpoint waits for a new one. -/
def reportShadow (s : State) (b n : Nat) : State :=
  let s := mapOwned (dropFetch s b .checkpoint) b fun o => { o with unacked := [], dirty := allPages o, seeking := true }
  sendControl s (home b) (.refused b n)

/-- Send the pages of the checkpoint to the shadow. Without a shadow it ends with RETRY (DESIGN CHOICE, notes/assumptions/27.md). -/
def sendCheckpoint (s : State) (b : Nat) : State :=
  match find s b with
  | none => s
  | some o =>
    match o.shadow with
    | none => checkpointDone s b St.retry
    | some n =>
      if o.dirty.isEmpty then reportCheckpoint s b
      else if unsent s n 8 && !homeHere s b then reportShadow s.unrouted b n
      else match sendPages s o n .checkpoint o.dirty with
        | .error st => checkpointDone (noRoute s st) b st
        | .ok s => mapOwned s b fun o => { o with unacked := o.dirty, dirty := [] }

/-- Start a checkpoint: the pages written since the last one go to the shadow. -/
def startCheckpoint (s : State) (b : Nat) : State :=
  sendCheckpoint (reachShadow ((compositionNodes s).length + 1) (mapOwned s b fun o => { o with made := o.made + 1 }) b) b

/-- A shadow that refuses or fails: the home names another, and the checkpoint is made there in full. -/
def replaceShadow (s : State) (b n : Nat) : State :=
  if homeHere s b then
    let s := mapOwned (dropFetch s b .checkpoint) b fun o => { o with unacked := [], dirty := allPages o }
    startCheckpoint (replaceAtHome s b s.strand.nodeId n) b
  else reportShadow s b n

/-- The home has named the shadow: a checkpoint that waited for it, or whose pages were on the way to another one, begins. -/
def shadowNamed (s : State) (b : Nat) (sh : Option Nat) : State :=
  match find s b with
  | none => s
  | some o =>
    let again := o.seeking || (o.shadow != sh && !o.unacked.isEmpty)
    let s := setShadow (if o.shadow = sh then s else dropFetch s b .checkpoint) b sh
    if again then startCheckpoint (mapOwned s b fun o => { o with seeking := false }) b else s

/-- R376: at a boundary the home replaces a shadow that has been expelled: one that fails without an answer (R592). -/
def dropExpelled (s : State) : State :=
  (s.berth.homes.filter fun h => (h.state == .resident || h.state == .waking) && h.shadow.any fun n => (expelledNodes s).contains n).foldl (fun s h =>
    let b := idOf s.strand.nodeId h.num
    match h.shadow with
    | none => s
    | some n =>
      if h.word.owner = s.strand.nodeId then
        let under := (find s b).any fun o => !o.unacked.isEmpty
        let s := replaceAtHome (dropFetch s b .checkpoint) b h.word.owner n
        if under then startCheckpoint s b else s
      else replaceAtHome s b h.word.owner n) s

/-- Start a park of a Resident berth with its checkpoint (R375). -/
def startPark (s : State) (b : Nat) (cmd : Option Nat) : State :=
  startCheckpoint (mapOwned s b fun o => { o with state := .parking, task := .park cmd, eventTide := 0 }) b

/-- Discard a shadow's checkpoint. -/
def dropHeld (s : State) (b : Nat) : State :=
  let mine (id : PageId) : Bool := match id with
    | .held x _ _ => x == b
    | _ => false
  let s := ((s.mem.pages.map (·.id)).filter mine).foldl releasePage s
  { s with berth := { s.berth with heldRecords := s.berth.heldRecords.filter fun p => p.berth != b } }

/-- RELEASE and R370 at the home: the number is Free, its word keeps its sequence; what waits on it ends. -/
def freeHome (s : State) (n status : Nat) : State :=
  match findHome s n with
  | none => s
  | some h =>
    let b := idOf s.strand.nodeId n
    let s := dropParked s h
    let s := { s with berth := { s.berth with refused := s.berth.refused.filter fun r => r.1 != b } }
    let s := mapRecord s n fun h => { h with
      state := .free, word := ⟨0, h.word.seq, 0, false, false⟩, shadow := none, checkpoints := 0, checkpointTide := 0, tokens := []
      parkedCopy := false, lastCkpt := 0, ckptAt := none, swept := status == St.accessDenied, waits := [] }
    h.waits.foldl (fun s w => finish s w.cmd b status 0) s

/-! Wakes (R367). -/

/-- Start a wake at the home: reserve the pages and read the parked ones; none where the pages do not fit (R281). -/
def startWake (s : State) (b : Nat) (cmd : Option Nat) : Option State :=
  match findHome s (num b) with
  | none => none
  | some h =>
    (allocPages s b h.ownerSlot h.geo h.pinned).map fun s =>
      let o : OwnedBerth :=
        { id := b, state := .waking, ownerSlot := h.ownerSlot, geo := h.geo, pinned := h.pinned, tokens := h.tokens, seq := h.word.seq
          lease := s.now + s.cfg Ent.leaseTides, renewed := s.now, unconfirmed := false, resolveAt := 0, shadow := h.shadow
          dirty := List.range (berthPageCount h.geo), unacked := [], uncopied := [], fetch := [], expired := false, task := .wake cmd s.now, holder := none, waits := h.waits
          made := 0, seeking := false, wakeReady := false, eventTide := s.now }
      let s := { s with berth := { s.berth with owned := s.berth.owned ++ [o] } }
      let s := mapRecord s (num b) fun h => { h with state := .waking, waits := [] }
      (h.parkedPages.filter fun p => !p.2.isEmpty).foldl (fun s p =>
        { s with flash := Flash.readAll s.flash (parkedCodewords (num b) p.1) h.ownerSlot 3 (.wake b p.1) }) s

/-- Write the pages of a wake whose reads have all ended; note the Tide of the last one. -/
def wakeProgress (s : State) (b : Nat) : State :=
  match find s b, findHome s (num b) with
  | some o, some h =>
    if o.state ≠ .waking ∨ o.wakeReady then s
    else if h.parkedPages.any fun p => Flash.reading s.flash (.wake b p.1) then s
    else
      let s := h.parkedPages.foldl (fun s p =>
        let ds := Flash.ended s.flash (.wake b p.1)
        match berthAddr s b p.1 with
        | none => s
        | some a =>
          let s := placePage s a o.ownerSlot (ds.flatMap fun d => padTo 4096 d.data) p.2
          let lostAt := ((List.range ds.length).zip ds).filterMap fun (d : Nat × FlashDone) => if d.2.status = St.ok then none else some d.1
          let s := { s with mem := { s.mem with bad := s.mem.bad ++ (p.2.filter fun (q : Nat × Bool) => lostAt.contains (q.1 / 64)).map fun (q : Nat × Bool) => lineOf a + q.1 } }
          { s with flash := Flash.forget s.flash (.wake b p.1) }) s
      mapOwned s b fun o => { o with wakeReady := true, eventTide := s.now }
  | _, _ => s

/-- The berth becomes Resident at the home: Parked is cleared in its word; its parked copy stays as its checkpoint (R376). -/
def wakeEnd (s : State) (b : Nat) : State :=
  match find s b, findHome s (num b) with
  | some o, some h =>
    let w : Word := ⟨s.strand.nodeId, h.word.seq, s.now + s.cfg Ent.leaseTides, false, false⟩
    let s := mapRecord s (num b) fun h => { h with word := w, state := .resident, parkedCopy := true }
    let s := noteLease s b w
    let s := mapOwned s b fun o => { o with state := .resident, task := .none, wakeReady := false }
    match o.task with
    | .wake cmd began =>
      let s := s.setNum Ent.maxWakeTides (max (s.num Ent.maxWakeTides) (s.now - began))
      match cmd with
      | some c => finish s c b St.ok s.now
      | none => s
    | _ => s
  | _, _ => s

/-- RELEASE at the home of a berth that no owner serves: the number is Free everywhere (R369). -/
def releaseHome (s : State) (b : Nat) : State :=
  match findHome s (num b) with
  | none => s
  | some h =>
    let s := match h.shadow with
      | some n => if n = s.strand.nodeId then dropHeld s b else sendControl s n (.discard b)
      | none => s
    freeHome s (num b) St.badJob

/-- A command on a berth that is Parked at this home (R365 to R369, R373, R375). -/
def onParked (s : State) (b cmd opcode : Nat) : State :=
  if opcode = 0x22 then (startWake s b (some cmd)).getD (awaitPages s cmd)
  else if opcode = 0x24 then finish (releaseHome s b) cmd b St.ok 0
  else if opcode = 0x25 then finish s cmd b St.badJob 0
  else finish s cmd b St.ok 0

/-- R366: end a park: the word names the home with Parked set and the sequence raised, and the owner frees its pages. What waits at the home
starts in order of acceptance (R365); at another node the home is now the owner. -/
def parkEnd (s : State) (b : Nat) (cmd : Option Nat) (w : Word) : State :=
  match find s b with
  | none => s
  | some o =>
    let s := letGo s o
    let s := if homeHere s b then mapRecord s (num b) fun h => { h with
      state := .parked, parkTide := s.now, tokens := o.tokens, parkedCopy := true, waits := o.waits } else s
    let s := match cmd with
      | some c => if homeHere s b then finish s c b St.ok s.now
          else s.finish c St.ok (leBytes 4 w.seq ++ leBytes 4 w.owner ++ leBytes 6 s.now ++ leBytes 1 4 ++ [0]) 0
      | none => s
    if homeHere s b then s else staleWaits s o w

/-- The answer to the park's swap. -/
def parkAnswer (s : State) (b status : Nat) (old expected new : Word) : State :=
  match find s b with
  | none => s
  | some o =>
    match o.task with
    | .park cmd =>
      if status = St.ok then
        if old = expected then parkEnd s b cmd new
        else if old.owner = s.strand.nodeId ∧ old.seq = expected.seq then
          -- only its lease differs: the swap is made again
          let s := mapOwned s b fun o => { o with lease := old.lease }
          (sendWordAtomic s (home b) (num b) 1 new.bytes old.bytes (.handoff b)).getD (parkFail s.unrouted b cmd St.retry)
        else
          let s := match cmd with
            | some c => finishStale s c old
            | none => s
          discardStale s b old
      else if status = St.indeterminate ∨ status = St.responderReset then
        let s := match cmd with
          | some c => finish s c b St.indeterminate 0
          | none => s
        unconfirm (mapOwned s b fun o => { o with state := .resident, task := .none }) b
      else parkFail s b cmd status
    | _ => s

/-- Swap the word of a park whose pages are durable. -/
def parkSwap (s : State) (b : Nat) : State :=
  let w := wordHere s b
  let new : Word := ⟨home b, (w.seq + 1) % 2 ^ 32, s.now, true, false⟩
  if homeHere s b then
    let r := wordAtomic s (num b) 1 new.bytes w.bytes
    parkAnswer r.2 b St.ok (wordOf r.1) w new
  else (sendWordAtomic s (home b) (num b) 1 new.bytes w.bytes (.handoff b)).getD (parkAnswer s.unrouted b St.retry w w new)

/-! Handoffs (R373). -/

/-- End a handoff that failed before its swap: the berth is Resident again. -/
def handoffFail (s : State) (b cmd target status : Nat) : State :=
  let s := dropFetch (sendControl s target (.discard b)) b .copy
  let s := mapOwned s b fun o => { o with state := .resident, task := .none, uncopied := [] }
  finish s cmd b status 0

/-- Steps 6 and 7: the answer to the handoff's swap. -/
def handoffAnswer (s : State) (b status : Nat) (old expected new : Word) : State :=
  match find s b with
  | none => s
  | some o =>
    match o.task with
    | .handoff cmd target _ =>
      if status = St.ok then
        if old = expected then
          let s := (sendControl s target (.installed b new.seq new.lease 0)).bump Ent.handoffs
          let s := letGo s o
          let bytes := leBytes 4 new.seq ++ leBytes 4 target ++ leBytes 6 o.eventTide ++ leBytes 1 1 ++ [0]
          staleWaits (s.finish cmd St.ok bytes 0) o new
        else if old.owner = s.strand.nodeId ∧ old.seq = expected.seq then
          -- only its lease differs: the swap is made again
          let s := mapOwned s b fun o => { o with lease := old.lease }
          (sendWordAtomic s (home b) (num b) 1 new.bytes old.bytes (.handoff b)).getD (handoffFail s.unrouted b cmd target St.retry)
        else
          let s := (sendControl s target (.discard b)).bump Ent.handoffsStale
          discardStale (finishStale s cmd old) b old
      else if status = St.indeterminate ∨ status = St.responderReset then
        unconfirm (mapOwned (finish s cmd b St.indeterminate 0) b fun o => { o with state := .resident, task := .none, uncopied := [] }) b
      else handoffFail s b cmd target status
    | _ => parkAnswer s b status old expected new

/-- Step 5: swap the word once the checkpoint is recorded and every page copied. -/
def handoffSwap (s : State) (b : Nat) : State :=
  match find s b with
  | none => s
  | some o =>
    match o.task with
    | .handoff cmd target false =>
      if !o.uncopied.isEmpty || !o.unacked.isEmpty || o.eventTide = 0 || o.unconfirmed then s
      else
        let s := mapOwned s b fun o => { o with task := .handoff cmd target true }
        let w := wordHere s b
        let new : Word := ⟨target, (w.seq + 1) % 2 ^ 32, s.now + s.cfg Ent.leaseTides, false, false⟩
        if homeHere s b then
          let r := wordAtomic s (num b) 1 new.bytes w.bytes
          handoffAnswer r.2 b St.ok (wordOf r.1) w new
        else (sendWordAtomic s (home b) (num b) 1 new.bytes w.bytes (.handoff b)).getD (handoffFail s.unrouted b cmd target St.retry)
    | _ => s

/-- Steps 1 to 4. -/
def startHandoff (s : State) (b cmd target : Nat) : State :=
  match find s b with
  | none => s
  | some o =>
    let s := mapOwned s b fun o => { o with state := .moving, task := .handoff cmd target false, uncopied := allPages o, eventTide := 0 }
    match sendPages s o target .copy (allPages o) with
    | .error st => handoffFail (noRoute s st) b cmd target st
    | .ok s => handoffSwap (startCheckpoint s b) b

/-! Resolution (R374). -/

/-- A copy becomes the berth (R373): where this node was the shadow it makes a full checkpoint at the new one before it accepts work. -/
def becomeOwner (s : State) (b : Nat) : State :=
  let wasShadow := s.berth.heldRecords.any fun r => r.berth == b
  let s := mapOwned s b fun o => { o with
    state := if wasShadow then .moving else .resident, dirty := allPages o, unacked := []
    task := if wasShadow then .checkpoint none else .none, seeking := wasShadow && o.shadow.isNone && !homeHere s b }
  if !wasShadow then s
  else
    let s := dropHeld s b
    match find s b with
    | some o => if o.seeking then s else startCheckpoint s b
    | none => s

/-- What a read of the word says: the named node resumes, any other discards its copy. -/
def resolveAnswer (s : State) (b status : Nat) (old : Word) : State :=
  match find s b with
  | none => s
  | some o =>
    if status ≠ St.ok then unconfirm s b
    else if old.owner = s.strand.nodeId then
      let copy := o.state == .moving && o.task == .none
      -- R377: the swap that cleared Recovering took effect though its outcome was not known.
      let served := o.state == .recovering && !old.recovering
      let s := mapOwned s b fun o => { o with
        unconfirmed := false, seq := old.seq, lease := old.lease, state := if served then .resident else o.state }
      handoffSwap (renew (if copy then becomeOwner s b else s) b) b
    else discardStale s b old

/-- Read the word: a compare-and-swap of zeros, which changes nothing. -/
def resolve (s : State) (b : Nat) : State :=
  let z : Bytes := List.replicate 16 0
  if homeHere s b then
    match findHome s (num b) with
    | some h => resolveAnswer s b St.ok h.word
    | none => s
  else (sendWordAtomic s (home b) (num b) 1 z z (.resolve b)).getD (unconfirm s.unrouted b)

/-! Answers to page and control messages. -/

/-- A page message to a node has been answered. -/
def pageAnswered (s : State) (dest b n : Nat) (use : BerthUse) (status : Nat) : State :=
  match find s b with
  | none => s
  | some o =>
    match use with
    | .checkpoint =>
      if o.shadow ≠ some dest ∨ o.seeking ∨ !o.unacked.contains n then s
      else if status ≠ St.ok then replaceShadow s b dest
      else
        let left := o.unacked.filter (· != n)
        let s := mapOwned s b fun o => { o with unacked := left }
        if left.isEmpty then handoffSwap (reportCheckpoint s b) b else s
    | .copy =>
      match o.task with
      | .handoff cmd target _ =>
        if status ≠ St.ok then handoffFail s b cmd target status
        else handoffSwap (mapOwned s b fun o => { o with uncopied := o.uncopied.filter (· != n) }) b
      | _ => s
    | .park =>
      match o.task with
      | .park cmd =>
        if status ≠ St.ok then parkFail s b cmd status
        else mapOwned s b fun o => { o with uncopied := o.uncopied.filter (· != n) }
      | _ => s

/-- A control message has been answered: a report that the home took ends the checkpoint. -/
def controlAnswered (s : State) (b status : Nat) : State :=
  match find s b with
  | none => s
  | some o =>
    if o.seeking then s
    else if (o.unacked.isEmpty && o.eventTide == 0) || (match o.task with
        | .checkpoint _ => true
        | .phaseEnd _ _ _ _ => true
        | _ => false)
    then handoffSwap (checkpointDone s b status) b else s

/-- A page that was to be copied out of flash cannot be sent. -/
def fetchFail (s : State) (b : Nat) (use : BerthUse) (status : Nat) : State :=
  match find s b with
  | none => s
  | some o => match use, o.task with
    | .copy, .handoff cmd target _ => handoffFail s b cmd target status
    | .park, .park cmd => parkFail s b cmd status
    | .checkpoint, _ =>
      checkpointDone (mapOwned (dropFetch s b .checkpoint) b fun o => { o with dirty := (o.dirty ++ o.unacked).eraseDups, unacked := [] }) b status
    | _, _ => s

/-- A page for one copy of it goes out: to another node, or into this home's flash. -/
def sendFetched (s : State) (b n : Nat) (bytes : Bytes) (states : List (Nat × Bool)) (f : Nat × BerthUse × Nat) : State :=
  match find s b with
  | none => s
  | some o =>
    if f.2.1 = .park ∧ homeHere s b then
      mapOwned (parkPage s (num b) n o.ownerSlot bytes states) b fun o => { o with uncopied := o.uncopied.filter (· != n) }
    else if unsent s f.2.2 8 then fetchFail s.unrouted b f.2.1 St.retry
    else sendBytes s o f.2.2 f.2.1 n bytes states

/-- Every codeword of a page in flash has been read for its copies (R483); a page that was promoted meanwhile goes out from memory. -/
def fetched (s : State) (b n : Nat) : State :=
  match find s b with
  | none => s
  | some o =>
    let mine := o.fetch.filter fun f => f.1 == n
    if mine.isEmpty || Flash.reading s.flash (.copy b n) then s
    else
      let ds := Flash.ended s.flash (.copy b n)
      let s := mapOwned { s with flash := Flash.forget s.flash (.copy b n) } b fun o => { o with fetch := o.fetch.filter fun f => f.1 != n }
      let data : Option (Bytes × List (Nat × Bool) × State) := match inFlash s (.berth b n) with
        | some p => if p.lostLines.isEmpty && ds.all (fun d => d.status == St.ok) then some (ds.flatMap fun d => padTo 4096 d.data, p.states, s) else none
        | none => pageData s (.berth b n)
      match data with
      | none => mine.foldl (fun s f => fetchFail s b f.2.1 St.uncorrectable) s
      | some (bytes, states, s) => mine.foldl (fun s f => sendFetched s b n bytes states f) s

/-- Pages whose codewords all lay in the buffers of flash are handed over at a boundary. -/
def settleFetches (s : State) : State :=
  (s.berth.owned.flatMap fun o => (o.fetch.map fun f => (o.id, f.1)).eraseDups).foldl (fun s f => fetched s f.1 f.2) s

/-! Arrivals. -/

def heldRecord (s : State) (b : Nat) : Option HeldRecord := s.berth.heldRecords.find? fun r => r.berth == b

/-- Give a Tiered page another name; its pages, moves and reads go on under it. -/
def renamePage (s : State) (old new : PageId) : State :=
  { s with mem := { s.mem with
    pages := s.mem.pages.map fun p => if p.id == old then { p with id := new } else p
    moves := s.mem.moves.map fun v => if v.id == old then { v with id := new } else v } }

/-- The pages of a checkpoint that came in are part of the last whole one. -/
def settleHeld (s : State) (b : Nat) : State :=
  let came := (s.mem.pages.map (·.id)).filterMap fun id => match id with
    | .held x n true => if x = b then some n else none
    | _ => none
  came.foldl (fun s n => renamePage (releasePage s (.held b n false)) (.held b n true) (.held b n false)) s

/-- The page of a checkpoint that comes in: a Tiered page of the owner slot (R375 step 2); none where none is free. -/
def heldPage (s : State) (p : BerthPage) : Option (Nat × State) :=
  let id : PageId := .held p.berth p.page true
  let s := releasePage s id
  (Mem.allocPage s.mem id p.ownerSlot (decide (p.page < planePageCount p.geo)) s.now).map fun r => (r.1, { s with mem := r.2 })

/-- R375 step 2: a page of a checkpoint; a new checkpoint of the owner begins when the one before is whole. -/
def takeCheckpoint (s : State) (p : BerthPage) : Nat × State :=
  let old := heldRecord s p.berth
  let fresh := match old with
    | some r => r.number != p.ckpt
    | none => true
  let s1 := if fresh then settleHeld s p.berth else s
  match heldPage s1 p with
  | none => (St.retry, s)
  | some (a, s1) =>
    let last := match old with
      | some r => if fresh then r.tokens else r.lastTokens
      | none => []
    let r : HeldRecord := ⟨p.berth, p.ownerSlot, p.geo, p.pinned, p.ckpt, p.tokens, last⟩
    (St.ok, placePage { s1 with berth := { s1.berth with heldRecords := (s1.berth.heldRecords.filter fun x => x.berth != p.berth) ++ [r] } }
      a p.ownerSlot p.bytes p.states)

/-- A berth that comes to this node: not confirmed yet, nothing under way. -/
def incoming (s : State) (b : Nat) (state : BerthState) (ownerSlot : Nat) (g : Geometry) (pinned : Bool) (tokens : List Nat) : OwnedBerth :=
  { id := b, state := state, ownerSlot := ownerSlot, geo := g, pinned := pinned, tokens := tokens, seq := 0, lease := 0, renewed := 0
    unconfirmed := true, resolveAt := s.now + s.cfg Ent.resolvePeriod, shadow := none, dirty := [], unacked := [], uncopied := [], fetch := [], made := 0
    seeking := false, expired := false, task := .none, holder := none, waits := [], wakeReady := false, eventTide := 0 }

/-- A page of a copy, checkpoint or park arrives: the status with which it is answered, and the state after. -/
def takePage (s : State) (p : BerthPage) : Nat × State :=
  match p.use with
  | .park =>
    match findHome s (num p.berth) with
    | none => (St.badJob, s)
    | some h =>
      -- R366, R508: a park that finds no space leaves nothing of itself here.
      if h.refusedPark = p.ckpt ∧ p.ckpt ≠ 0 then (St.mediaFull, s)
      else if !p.states.isEmpty && parkFull s (parkedCodewords h.num p.page) then
        (St.mediaFull, mapHome ((dropParked s h).bump Ent.mediaFullRefusals) h.num fun h => { h with parkedCopy := false, refusedPark := p.ckpt })
      else
        let s := mapHome s h.num fun h => { h with tokens := p.tokens, parkedCopy := false }
        (St.ok, parkPage s h.num p.page p.ownerSlot p.bytes p.states)
  | .checkpoint => takeCheckpoint s p
  | .copy =>
    let ready : Option State := match find s p.berth with
      | some _ => some s
      | none => (allocPages s p.berth p.ownerSlot p.geo p.pinned).map fun s =>
          { s with berth := { s.berth with owned := s.berth.owned ++ [incoming s p.berth .moving p.ownerSlot p.geo p.pinned p.tokens] } }
    match ready with
    | none => (St.retry, s)
    | some s =>
      match berthAddr s p.berth p.page with
      | none => (St.retry, s)
      | some a => (St.ok, mapOwned (placePage s a p.ownerSlot p.bytes p.states) p.berth fun o => { o with tokens := p.tokens })

/-! CREATE at the home (R363). -/

/-- The lowest Free berth number. -/
def freeNumber (s : State) : Option Nat :=
  (List.range (min (s.num Ent.berthsMax) (s.berth.homes.length + 1))).find? fun n => match findHome s n with
    | some h => h.state == .free
    | none => true

/-- The sequence that the next berth of a number begins with (R369). -/
def nextSeqOf (s : State) (n : Nat) : Nat :=
  match findHome s n with
  | some h => (h.word.seq + 1) % 2 ^ 32
  | none => 1

/-- The home's side of a CREATE: the record and the word of number n for an owner. -/
def record (s : State) (n owner ownerSlot : Nat) (g : Geometry) (pinned : Bool) (seq : Nat) (shadow : Option Nat) : State :=
  putRecord s { unusedRecord n ⟨owner, seq, s.now + s.cfg Ent.leaseTides, false, false⟩ with
    state := .resident, ownerSlot := ownerSlot, geo := g, pinned := pinned, shadow := shadow, tokens := List.replicate g.layers 0 }

/-- The home's answer to a CREATE that it refuses. -/
def refuseCreate (s : State) (src cmd st : Nat) : State := sendControl s src (.created cmd st 0 0 0 none)

/-- A CREATE of another node with its home here: the number taken, or the status that refuses it (R359, R363); none where no stack page is
free for the record. The answer leaves once the journal holds the record (R361). -/
def createHere (s : State) (src cmd ownerSlot : Nat) (g : Geometry) (pinned : Bool) : Option State :=
  if s.cfg Ent.poolRole ≠ 1 then some (refuseCreate s src cmd St.badJob)
  else match freeNumber s with
  | none => some (refuseCreate s src cmd St.retry)
  | some n => (recordPage s n).map fun s =>
      let b := idOf s.strand.nodeId n
      let q := nextSeqOf s n
      let sh := chooseShadow s b src
      answer (record s n src ownerSlot g pinned q sh) n (.control src (controlWords (.created cmd St.ok n q (s.now + s.cfg Ent.leaseTides) sh)))

/-- R281: a message that needs stack pages waits while a demotion will free some. -/
def holdMessage (s : State) (h : BerthHeld) (first : Bool) (refused : State → State) : State :=
  let s := demoteFor s
  if pagesComing s then
    { s with berth := { s.berth with held := s.berth.held ++ [h] } }.bump Ent.allocationStalls (if first then 1 else 0)
  else refused s

/-- A berth page arrives: it is taken, refused, or waits for a stack page (R281). -/
def receivePage (s : State) (src : Nat) (p : BerthPage) (first : Bool) : State :=
  let r := takePage s p
  if r.1 = St.retry then holdMessage s (.page src p) first fun s => answerMsg s src 0x0020 St.retry
  else answerMsg r.2 src 0x0020 r.1

/-- A CREATE arrives at the home that it names: it is answered, or waits for a stack page (R281). -/
def receiveCreate (s : State) (src cmd slot : Nat) (g : Geometry) (pinned first : Bool) : State :=
  (createHere s src cmd slot g pinned).getD (holdMessage s (.create src cmd slot g pinned) first fun s => refuseCreate s src cmd St.retry)

/-- The messages held for stack pages are tried again, in order. -/
def retryHeld (s : State) : State :=
  s.berth.held.foldl (fun s h => match h with
    | .page src p => receivePage s src p false
    | .create src cmd slot g pinned => receiveCreate s src cmd slot g pinned false) { s with berth := { s.berth with held := [] } }

/-- The owner's side of a CREATE. -/
def own (s : State) (b ownerSlot : Nat) (g : Geometry) (pinned : Bool) (seq lease : Nat) (shadow : Option Nat) : State :=
  let o : OwnedBerth := { incoming s b .resident ownerSlot g pinned (List.replicate g.layers 0) with
    seq := seq, lease := lease, renewed := s.now, unconfirmed := false, resolveAt := 0, shadow := shadow, dirty := List.range (berthPageCount g) }
  { s with berth := { s.berth with owned := s.berth.owned ++ [o] } }

/-- The completion of a CREATE: sequence, berth number, state Resident. -/
def createBytes (seq n : Nat) : Bytes := leBytes 4 seq ++ leBytes 4 n ++ leBytes 6 0 ++ leBytes 1 1 ++ [0]

/-- The geometry and size that a CREATE descriptor names. -/
def geometryOf (d : Bytes) : Geometry :=
  ⟨field d 24 2, field d 26 1, field d 28 2, field d 27 1, field d 30 4, field d 34 4⟩

/-- The answer of the home of a CREATE: the owner allocates the pages (R363 step 4). A command that is gone leaves the number to the home. -/
def createAnswered (s : State) (src cmd status n seq lease : Nat) (shadow : Option Nat) : State :=
  let b := idOf src n
  match (s.cmd cmd).filter fun c => c.opcode == 0x20 with
  | none => if status = St.ok then sendControl s src (.discard b) else s
  | some c =>
    if status ≠ St.ok then s.refuse cmd status
    else
      let g := geometryOf c.desc
      let slot := field c.desc 4 2 % 4096
      let pinned := bit (field c.desc 1 1) 0
      match allocPages s b slot g pinned with
      | none => waitForPages (sendControl s src (.discard b)) cmd fun s => s.refuse cmd St.retry
      | some s => (own s b slot g pinned seq lease shadow).finish cmd St.ok (createBytes seq n) 0

/-! Control messages. -/

/-- R377: the berth has no checkpoint to be taken over from: it is Lost. -/
def loseBerth (s : State) (n : Nat) : State := (mapRecord s n fun h => { h with state := .lost }).bump Ent.berthsLost

/-- Installed: a copy becomes the berth (step 6 of a handoff), or the shadow is to install its checkpoint (R377). -/
def takeInstalled (s : State) (b q l ckpt : Nat) : State :=
  match find s b with
  | some _ => becomeOwner (mapOwned s b fun o => { o with unconfirmed := false, seq := q, lease := l, renewed := s.now }) b
  | none =>
    match heldRecord s b with
    | none => if homeHere s b then loseBerth s (num b) else sendControl s (home b) (.lost b q)
    | some r =>
      let s := if r.number ≤ ckpt then settleHeld s b else s
      let o : OwnedBerth := { incoming s b .recovering r.ownerSlot r.geo r.pinned (if r.number ≤ ckpt then r.tokens else r.lastTokens) with
        seq := q, lease := l, renewed := s.now, unconfirmed := false, resolveAt := 0, dirty := List.range (berthPageCount r.geo) }
      { s with berth := { s.berth with owned := s.berth.owned ++ [o] } }

/-- This home's record names a node as the owner of a berth. -/
def ownedBy (s : State) (b src : Nat) : Bool :=
  homeHere s b && (match findHome s (num b) with
    | some h => h.word.owner == src && h.state != .free
    | none => false)

/-- A control message arrives. -/
def takeControl (s : State) (src : Nat) (m : BerthMsg) : State :=
  match m with
  | .installed b q l c => takeInstalled s b q l c
  | .discard b =>
    if ownedBy s b src then freeHome s (num b) St.badJob
    else
      let s := dropHeld s b
      match find s b with
      | some o => if o.unconfirmed then letGo (o.waits.foldl (fun s w => refuseStale s w.cmd b) s) o else s
      | none => s
  | .report b c t => if homeHere s b then recordCheckpoint s (num b) c t else s
  | .create cmd slot g pinned => receiveCreate s src cmd slot g pinned true
  | .created cmd st n q l sh => createAnswered s src cmd st n q l sh
  | .shadow b n => shadowNamed s b n
  | .refused b n => if ownedBy s b src then replaceAtHome s b src n else s
  | .lost b q => if ownedBy s b src && (findHome s (num b)).any (fun h => h.state == .recovering && h.word.seq == q) then loseBerth s (num b) else s

/-- The berth whose record at this home a control message can change. -/
def controlled : BerthMsg → Option Nat
  | .installed _ _ _ _ => none
  | .discard b => some b
  | .report b _ _ => some b
  | .create _ _ _ _ => none
  | .created _ _ _ _ _ _ => none
  | .shadow _ _ => none
  | .refused b _ => some b
  | .lost b _ => some b

/-- A control message and its answer, which waits for the journal (R361). -/
def receiveControl (s : State) (src : Nat) (m : BerthMsg) : State :=
  let s := takeControl s src m
  match (controlled m).filter (homeHere s) with
  | some b => answer s (num b) (.message src 0x0021 St.ok)
  | none => answerMsg s src 0x0021 St.ok

/-! Takeovers (R377, R378). -/

/-- Take over a berth from an expelled owner (or, after a cold reset, from this home itself): its parked copy, its
checkpoint at the shadow, or none. -/
def takeOver (s : State) (n : Nat) : State :=
  match findHome s n with
  | none => s
  | some h =>
    let b := idOf s.strand.nodeId n
    let q := (h.word.seq + 1) % 2 ^ 32
    let s := s.bump Ent.takeovers
    if h.parkedCopy then
      mapRecord s n fun h => { h with word := ⟨s.strand.nodeId, q, s.now, true, false⟩, state := .parked, parkTide := s.now }
    else match h.shadow.filter fun sh => h.checkpoints != 0 && h.ckptAt == some sh with
      | none => loseBerth s n
      | some sh =>
        let w : Word := ⟨sh, q, s.now + s.cfg Ent.leaseTides, false, true⟩
        let s := mapRecord s n fun h => { h with word := w, state := .recovering }
        if sh = s.strand.nodeId then takeInstalled s b q w.lease h.lastCkpt else sendControl s sh (.installed b q w.lease h.lastCkpt)

/-- R377: the swap that clears Recovering has been answered. -/
def recoveredAnswer (s : State) (b status : Nat) (old expected new : Word) : State :=
  if status = St.ok ∧ old = expected then mapOwned (noteLease s b new) b fun o => { o with state := .resident }
  else if status = St.ok then discardStale s b old
  else unconfirm s b

/-- The pages of the last whole checkpoint become the berth's, and the rest are allocated; none where they do not fit. -/
def adoptHeld (s : State) (o : OwnedBerth) : Option State :=
  (allPages o).foldl (fun (acc : Option State) n => acc.bind fun s =>
    if (Mem.page s.mem (.berth o.id n)).isSome then some s
    else if (Mem.page s.mem (.held o.id n false)).isSome then
      let s := renamePage s (.held o.id n false) (.berth o.id n)
      some { s with mem := Mem.mapPage s.mem (.berth o.id n) fun p => { p with pinned := o.pinned } }
    else (Mem.allocPage s.mem (.berth o.id n) o.ownerSlot (decide (n < planePageCount o.geo)) s.now).map fun r =>
      { s with mem := Mem.mapPage r.2 (.berth o.id n) fun p => { p with pinned := o.pinned } }) (some s)

/-- R377: install the checkpoint as the berth's pages and clear Recovering. -/
def installCheckpoint (s : State) (o : OwnedBerth) : State :=
  match adoptHeld s o with
  | none => demoteFor s
  | some s =>
    let s := dropHeld s o.id
    let w : Word := ⟨s.strand.nodeId, o.seq, o.lease, false, true⟩
    let new : Word := ⟨s.strand.nodeId, o.seq, s.now + s.cfg Ent.leaseTides, false, false⟩
    if homeHere s o.id then
      let r := wordAtomic s (num o.id) 1 new.bytes w.bytes
      recoveredAnswer r.2 o.id St.ok (wordOf r.1) w new
    else (sendWordAtomic s (home o.id) (num o.id) 1 new.bytes w.bytes (.recovered o.id)).getD (recoveredAnswer s.unrouted o.id St.retry w w new)

/-! Acceptance of commands. -/

/-- What a command on a berth meets at this node: none where the berth is owned and served here. -/
inductive Meets where
  | refuse (status : Nat)
  /-- Another node owns it: the word at the home names it. -/
  | stale
  deriving DecidableEq, Repr

/-- R360, R364, R370, R372, R374, R377. -/
def meets (s : State) (b : Nat) : Option Meets :=
  if !inComposition s (home b) || b % 2 ^ 44 != num b then some (.refuse St.badJob)
  else match find s b with
    | some o =>
      if s.slotState o.ownerSlot ≠ 1 then some (.refuse St.accessDenied)
      else if o.unconfirmed || o.expired || decide (o.lease ≤ s.now) then some (.refuse St.retry)
      else none
    | none =>
      if homeHere s b then
        match findHome s (num b) with
        | none => some (.refuse St.badJob)
        | some h =>
          if h.state = .free then some (.refuse (if h.swept then St.accessDenied else St.badJob))
          else if h.state = .lost then some (.refuse St.uncorrectable)
          else if s.slotState h.ownerSlot ≠ 1 then some (.refuse St.accessDenied)
          else some .stale
      else some .stale

/-- The home's answer to a read of the word for a command that met another owner. -/
def staleAnswer (s : State) (cmd status : Nat) (old : Word) : State :=
  if status ≠ St.ok then s.refuse cmd status else finishStale s cmd old

/-- R275, R365: the berth cannot take a command now: it is held or under way, or one of its pages moves to stack or shelf memory. -/
def mustWait (s : State) (o : OwnedBerth) : Bool :=
  o.holder.isSome || (pageIds o).any (dmaHeld s) || (match o.state with
    | .resident => o.task != .none
    | _ => true)

def wait (s : State) (b cmd opcode : Nat) : State :=
  mapOwned (startCmd s cmd) b fun o => { o with waits := o.waits ++ [(⟨cmd, opcode⟩ : BerthWait)] }

/-- R365: a command waits on a berth that is Parked here, behind what was accepted before. -/
def waitParked (s : State) (b cmd opcode : Nat) : State :=
  mapHome (startCmd s cmd) (num b) fun h => { h with waits := h.waits ++ [(⟨cmd, opcode⟩ : BerthWait)] }

end Berth

end Sys2Proof.Machine
end

