-- ==== Sys2Proof/Machine/GraphImage.lean ====
section
/-! DEFINITION. Graph images: header, tensors, operators (R325 to R329), and the checks of a load (R330, R332 to R345, R355,
with the limits of 06_arithmetic.md and R284). -/

namespace Sys2Proof.Machine

open Sys2Proof Sys2Proof.Num

/-! The tables. -/

/-- A tensor table entry. -/
structure TensorDef where
  kind : Nat
  fmt : Nat
  dims : List Nat
  scaled : Bool
  scale : Nat
  off : Nat
  size : Nat
  deriving DecidableEq, Repr

def TensorDef.elems (t : TensorDef) : Nat := t.dims.foldl (· * ·) 1
def TensorDef.last (t : TensorDef) : Nat := t.dims.getLast?.getD 1
def TensorDef.rowCount (t : TensorDef) : Nat := t.dims.dropLast.foldl (· * ·) 1
/-- R328: the bytes of a tensor; an int4 row is an even number of elements. -/
def TensorDef.bytes (t : TensorDef) : Nat := t.elems * widthOf t.fmt / 8

def imageOwner (b : Bytes) : Nat := field b 8 2 % 4096
def imageKind (b : Bytes) : Nat := field b 6 1
def imageRoles (b : Bytes) : Nat := field b 7 1
def tensorCount (b : Bytes) : Nat := field b 10 2
def operatorCount (b : Bytes) : Nat := field b 12 2
def imageWindow (b : Bytes) : Nat := field b 16 4
def encoderSeed (b : Bytes) : Nat := field b 24 8

/-- The 64 bytes of tensor t's entry. -/
def tensorEntry (b : Bytes) (t : Nat) : Bytes := (b.drop (field b 48 8 + 64 * t)).take 64
/-- The 64 bytes of operator i's entry. -/
def opEntry (b : Bytes) (i : Nat) : Bytes := (b.drop (field b 56 8 + 64 * i)).take 64

def tensorDef (b : Bytes) (t : Nat) : TensorDef :=
  let e := tensorEntry b t
  { kind := field e 0 1, fmt := field e 1 1, dims := (List.range (field e 2 1)).map fun i => field e (8 + 4 * i) 4
    scaled := bit (field e 3 1) 0, scale := field e 4 2, off := field e 24 8, size := field e 32 8 }

def imageTensors (b : Bytes) : List TensorDef := (List.range (tensorCount b)).map (tensorDef b)

/-- The stored bytes of a tensor of kinds 3 to 5. -/
def constBytes (b : Bytes) (t : TensorDef) : Bytes := (b.drop (field b 64 8 + t.off)).take t.size

def noTensor : Nat := 0xFFFF

def opCode (e : Bytes) : Nat := field e 0 2
def opMode (e : Bytes) : Nat := field e 2 1
def opIn (e : Bytes) (k : Nat) : Nat := field e (4 + 2 * k) 2
def opOutT (e : Bytes) (k : Nat) : Nat := field e (16 + 2 * k) 2

/-! Opcodes. -/
namespace Op
abbrev convert : Nat := 0x0001
abbrev reshape : Nat := 0x0002
abbrev transpose : Nat := 0x0003
abbrev elementwise : Nat := 0x0010
abbrev reduce : Nat := 0x0011
abbrev softmax : Nat := 0x0012
abbrev norm : Nat := 0x0013
abbrev quantise : Nat := 0x0020
abbrev dequantise : Nat := 0x0021
abbrev matmul : Nat := 0x0022
abbrev distance : Nat := 0x0030
abbrev select : Nat := 0x0031
abbrev merge : Nat := 0x0032
abbrev filter : Nat := 0x0033
abbrev gather : Nat := 0x0040
abbrev scatter : Nat := 0x0041
abbrev mergeUpdate : Nat := 0x0042
abbrev nbMatvec : Nat := 0x0050
abbrev attendQk : Nat := 0x0051
abbrev attendPv : Nat := 0x0052
abbrev attend : Nat := 0x0053
abbrev berthAppend : Nat := 0x0054
abbrev loop : Nat := 0x0060
abbrev branch : Nat := 0x0061
abbrev tideWait : Nat := 0x0062
end Op

/-- The operators that use the run's berth (R349). -/
def usesBerth (c : Nat) : Bool := c == Op.attendQk || c == Op.attendPv || c == Op.attend || c == Op.berthAppend

/-! Checks of a load. -/

/-- R325, R327 step 1. -/
def headerBad (b : Bytes) (descBytes : Nat) : Bool :=
  field b 0 4 != 0x3147564D || field b 4 2 != 1 || field b 40 8 != b.length || b.length != descBytes
    || decide (68719476736 < b.length) || b.length % 64 != 0 || decide (b.length < 640)

/-- The byte areas of an image: header, tables, data. -/
def imageAreas (b : Bytes) : List (Nat × Nat) :=
  [(0, 128), (field b 48 8, 64 * tensorCount b), (field b 56 8, 64 * operatorCount b), (field b 64 8, field b 72 8)]

/-- An area ends before a later one begins; an area of no bytes has no place. -/
def inOrder (p q : Nat × Nat) : Bool := p.2 == 0 || q.2 == 0 || decide (p.1 + p.2 ≤ q.1)

/-- R325: the header's other fields and the areas. -/
def layoutBad (b : Bytes) : Bool :=
  let a := imageAreas b
  let w := imageWindow b
  decide (3 < imageKind b) || decide (7 < imageRoles b) || field b 8 2 != imageOwner b || tensorCount b == 0
    || decide (65534 < tensorCount b) || operatorCount b == 0 || decide (16384 < operatorCount b) || field b 14 2 != 0
    || !(w == 0 || (decide (16777216 ≤ w) && decide (w ≤ 2147483648) && w % 1048576 == 0)) || field b 20 4 != 0
    || ((imageKind b == 1) != (encoderSeed b != 0)) || ((b.drop 80).take 48).any (· != 0)
    || a.any (fun p => p.1 % 64 != 0 || decide (b.length - 512 < p.1 + p.2))
    || (List.range 4).any fun i => (List.range i).any fun j => !inOrder (a.getD j (0, 0)) (a.getD i (0, 0))

/-- R328, R329: one tensor's entry. -/
def tensorBad (b : Bytes) (n : Nat) : Bool :=
  let e := tensorEntry b n
  let t := tensorDef b n
  let rank := field e 2 1
  let stored := decide (3 ≤ t.kind)
  let s := tensorDef b t.scale
  decide (5 < t.kind) || decide (8 < t.fmt) || rank == 0 || decide (4 < rank) || decide (1 < field e 3 1)
    || field e 6 2 != 0 || ((e.drop 40).take 24).any (· != 0) || t.dims.any (· == 0)
    || ((List.range 4).any fun i => decide (rank ≤ i) && field e (8 + 4 * i) 4 != 1) || (t.fmt == 6 && t.last % 2 != 0)
    || (if t.scaled then !(decide (3 ≤ t.fmt) && decide (t.fmt ≤ 6)) || decide (tensorCount b ≤ t.scale) || s.fmt != 1
          || s.dims != [t.rowCount]
        else t.scale != noTensor)
    || (if stored then t.size != t.bytes || decide (field b 72 8 < t.off + t.size) else t.off != 0 || t.size != 0)
    || (t.kind == 5 && !([64, 128, 256, 512, 1024].contains t.last && (t.fmt == 5 || t.fmt == 6)))

/-- What an operator's entry must have: required inputs and outputs, whether it rounds, and its parameter bytes. -/
structure OpShape where
  ins : List Nat
  outs : List Nat
  rounds : Bool
  params : List (Nat × Nat)

/-- The operator tables; none for an unknown opcode. -/
def opShape (c : Nat) (e : Bytes) : Option OpShape :=
  let common : List (Nat × Nat) := [(22, 9), (32, 2)]
  if c = Op.convert then some ⟨[0], [0], true, []⟩
  else if c = Op.reshape then some ⟨[0], [0], false, []⟩
  else if c = Op.transpose then some ⟨[0], [0], false, []⟩
  else if c = Op.elementwise then
    some ⟨if field e 22 1 = 6 then [0, 1, 2] else if field e 22 1 ≤ 5 then [0, 1] else [0], [0], true, [(22, 1), (24, 4)]⟩
  else if c = Op.reduce then some ⟨[0], [0], true, [(22, 1)]⟩
  else if c = Op.softmax then some ⟨[0], [0], true, []⟩
  else if c = Op.norm then some ⟨[0, 1], [0], true, [(22, 5)]⟩
  else if c = Op.quantise then some ⟨[0], [0, 1], true, []⟩
  else if c = Op.dequantise then some ⟨[0, 1], [0], true, []⟩
  else if c = Op.matmul then some ⟨[0, 1], [0], true, []⟩
  else if c = Op.distance then some ⟨[0, 1], [0], false, [(22, 1)]⟩
  else if c = Op.select then some ⟨[0], [0, 1, 2], false, [(22, 3)]⟩
  else if c = Op.merge then some ⟨[0, 1, 2], [0, 1, 2], false, [(22, 2)]⟩
  else if c = Op.filter then some ⟨[0, 1, 2], [0], false, [(22, 1)]⟩
  else if c = Op.gather then some ⟨if field e 22 4 = 0 then [0, 1] else [1], [0], false, [(22, 4)]⟩
  else if c = Op.scatter then some ⟨[0, 1], [0], false, []⟩
  else if c = Op.mergeUpdate then some ⟨[0, 1], [], false, [(22, 4)]⟩
  else if c = Op.nbMatvec then some ⟨[0, 1], [0], false, []⟩
  else if c = Op.attendQk then some ⟨[0], [0], true, common⟩
  else if c = Op.attendPv then some ⟨[0], [0], true, common⟩
  else if c = Op.attend then some ⟨[0], [0, 1], true, common⟩
  else if c = Op.berthAppend then some ⟨[0, 1], [], true, [(22, 1)]⟩
  else if c = Op.loop then some ⟨[], [], false, [(22, 6)]⟩
  else if c = Op.branch then some ⟨[0], [], false, [(22, 3)]⟩
  else if c = Op.tideWait then some ⟨[], [], false, [(22, 4)]⟩
  else none

def named (l : List (Nat × Nat)) (o : Nat) : Bool := l.any fun p => decide (p.1 ≤ o) && decide (o < p.1 + p.2)

def finite32 (p : Nat) : Bool := isFinite (decode fp32 p)

/-- The last operator of the innermost loop around operator i, and the nesting depth. -/
def enclosing (b : Bytes) (i : Nat) : List Nat :=
  (List.range i).filterMap fun j =>
    let e := opEntry b j
    if opCode e = Op.loop ∧ i ≤ field e 22 2 then some (field e 22 2) else none

/-- The tensors that a role of an operator names, or none. -/
def tens (b : Bytes) (n : Nat) : Option TensorDef := if n = noTensor then none else some (tensorDef b n)

/-- A tensor's format and dimensions are these. -/
def isT (t : Option TensorDef) (fmt : Nat) (dims : List Nat) : Bool :=
  match t with
  | some t => t.fmt == fmt && t.dims == dims
  | none => false

/-- An optional tensor is absent or has this format and these dimensions. -/
def optT (t : Option TensorDef) (fmt : Nat) (dims : List Nat) : Bool := t.isNone || isT t fmt dims

def rowsScale (s : Option TensorDef) (rows : Nat) : Bool := match s with
  | some s => s.fmt == 1 && s.elems == rows
  | none => false

/-- A Scaled tensor whose scale tensor is the one that an input names (R333). -/
def scaledBy (t : TensorDef) (n : Nat) : Bool := t.scaled && t.scale == n

/-- R331 to R345: the shape and format rules of one operator hold. -/
def opFits (b : Bytes) (i : Nat) (schemaOf : Nat → Bytes × Option Nat) : Bool :=
  let e := opEntry b i
  let c := opCode e
  let x := tens b (opIn e 0)
  let y := tens b (opIn e 1)
  let z := tens b (opIn e 2)
  let o := tens b (opOutT e 0)
  let p := tens b (opOutT e 1)
  let q := tens b (opOutT e 2)
  let X := x.getD ⟨0, 0, [], false, 0, 0, 0⟩
  let Y := y.getD ⟨0, 0, [], false, 0, 0, 0⟩
  let O := o.getD ⟨0, 0, [], false, 0, 0, 0⟩
  let shapeLike (t : Option TensorDef) : Bool := match t with
    | none => true
    | some t => t.dims == X.dims || t.dims == [X.last] || t.elems == 1
  if c = Op.convert then O.dims == X.dims
  else if c = Op.reshape then O.fmt == X.fmt && O.elems == X.elems
  else if c = Op.transpose then
    decide (2 ≤ X.dims.length) && O.fmt == X.fmt
      && O.dims == X.dims.dropLast.dropLast ++ [X.last, X.dims.dropLast.getLast?.getD 1]
      && (X.fmt != 6 || (X.last % 2 == 0 && X.dims.dropLast.getLast?.getD 1 % 2 == 0))
  else if c = Op.elementwise then decide (field e 22 1 ≤ 18) && shapeLike y && shapeLike z && O.dims == X.dims
  else if c = Op.reduce then
    decide (field e 22 1 ≤ 2) && O.dims == (if X.dims.length = 1 then [1] else X.dims.dropLast)
  else if c = Op.softmax then O.dims == X.dims && optT y 5 X.dims
  else if c = Op.norm then
    O.dims == X.dims && Y.dims == [X.last] && (z.isNone || (z.getD Y).dims == [X.last]) && finite32 (field e 22 4)
      && decide (field e 22 4 ≤ 0x80000000) && decide (field e 26 1 ≤ 1)
  else if c = Op.quantise then
    decide (3 ≤ O.fmt) && decide (O.fmt ≤ 6) && O.dims == X.dims && rowsScale p X.rowCount && (opMode e == 0 || opMode e == 4)
  else if c = Op.dequantise then
    decide (3 ≤ X.fmt) && decide (X.fmt ≤ 6) && rowsScale y X.rowCount && O.dims == X.dims
  else if c = Op.matmul then
    let bfl := X.fmt == 1 && Y.fmt == 1
    let ints := (X.fmt == 5 && Y.fmt == 5) || (X.fmt == 6 && Y.fmt == 6)
    let fp8 := (X.fmt == 3 || X.fmt == 4) && (Y.fmt == 3 || Y.fmt == 4)
    let n := Y.dims.headD 0
    (bfl || ints || fp8) && decide (2 ≤ X.dims.length) && Y.dims.length == 2 && X.last == Y.last && O.dims == X.dims.dropLast ++ [n]
      && decide (Y.last ≤ (if ints then 131071 else 1048576))
      && (if bfl then z.isNone && (tens b (opIn e 3)).isNone
          else scaledBy X (opIn e 2) && scaledBy Y (opIn e 3) && rowsScale z X.rowCount && isT (tens b (opIn e 3)) 1 [n])
      && optT (tens b (opIn e 4)) 0 [n]
      && (Y.kind != 4 || imageWindow b == 0 || decide (Y.last * widthOf Y.fmt / 8 ≤ imageWindow b / 2))
  else if c = Op.distance then
    let m := field e 22 1
    let i8 := X.fmt == 5 && Y.fmt == 5
    let bf := X.fmt == 1 && Y.fmt == 1
    X.dims.length == 2 && Y.dims.length == 2 && X.last == Y.last && isT o 0 [X.dims.headD 0, Y.dims.headD 0]
      && (if m = 0 then bf || (i8 && scaledBy X (opIn e 2) && scaledBy Y (opIn e 3))
          else if m = 1 then bf else m == 3 && i8)
      && !(m == 0 && i8 && decide (131071 < X.last))
  else if c = Op.select then
    let k := field e 22 2
    let r := X.dims.headD 0
    X.fmt == 0 && X.dims.length == 2 && optT y 5 X.dims && decide (1 ≤ k) && decide (k ≤ 4096) && decide (field e 24 1 ≤ 1)
      && isT o 7 [r, k] && isT p 0 [r, k] && isT q 8 [r, 8]
  else if c = Op.merge then
    let k := field e 22 2
    let lc := Y.dims.headD 0
    Y.fmt == 0 && Y.dims.length == 2 && isT x 7 [lc, Y.last, 3] && isT z 8 [lc, 8] && decide (1 ≤ k) && decide (k ≤ 4096)
      && decide (lc ≤ 65536) && isT o 7 [k, 3] && isT p 0 [k] && isT q 8 [8]
  else if c = Op.filter then
    let f := z.getD X
    X.fmt == 5 && X.dims.length == 2 && isT y 7 [X.dims.headD 0] && f.fmt == 5 && f.dims.length == 1
      && decide (8 ≤ f.last) && decide (f.last ≤ 4096) && isT o 5 [X.dims.headD 0]
      && !(f.kind == 3 && filterBad (constBytes b f) (schemaOf (field e 22 1)).1)
      && (schemaOf (field e 22 1)).2.all (· == X.last)
  else if c = Op.gather then
    Y.fmt == 7 && Y.dims.length == 1 && O.dims.length == 2 && O.dims.headD 0 == Y.last
      && (field e 22 4 != 0 || (X.dims.length == 2 && X.fmt == O.fmt && X.last == O.last))
  else if c = Op.scatter then
    X.dims.length == 2 && isT y 7 [X.dims.headD 0] && O.dims.length == 2 && O.fmt == X.fmt && O.last == X.last && optT z O.fmt O.dims
  else if c = Op.mergeUpdate then X.dims.length == 2 && isT y 7 [X.dims.headD 0] && field e 22 4 != 0
  else if c = Op.nbMatvec then
    X.kind == 5 && X.scaled && X.dims.length == 2 && (X.fmt == 5 || X.fmt == 6) && Y.scaled && (Y.fmt == 5 || Y.fmt == 6)
      && Y.dims == [X.last] && isT o 0 [X.dims.headD 0]
  else if c = Op.attendQk ∨ c = Op.attendPv ∨ c = Op.attend then
    let hq := field e 24 2
    (field e 23 1 == 5 || field e 23 1 == 6) && (field e 30 1 == 5 || field e 30 1 == 6) && decide (1 ≤ hq) && decide (hq ≤ 256)
      && finite32 (field e 26 4) && decide (field e 32 2 ≤ 4096) && field e 31 1 == 0 && X.fmt == 0 && X.dims.length == 2
      && X.dims.headD 0 == hq && O.fmt == 0 && O.dims.length == 2 && O.dims.headD 0 == hq
      && (c != Op.attend || (O.dims == X.dims && isT p 8 [hq, 8])) && (opMode e == 0 || opMode e == 4)
  else if c = Op.berthAppend then
    decide (X.fmt ≤ 2) && decide (Y.fmt ≤ 2) && X.dims.length == 3 && Y.dims == X.dims && (opMode e == 0 || opMode e == 4)
  else if c = Op.loop then
    let last := field e 22 2
    decide (i < last) && decide (last < operatorCount b) && (enclosing b i).all (fun l => decide (last ≤ l))
      && decide ((enclosing b i).length ≤ 3) && decide (field e 24 4 ≤ 65536) && optT x 7 [1]
  else if c = Op.branch then
    let t := field e 22 2
    decide (i < t) && decide (field e 24 1 ≤ 1) && isT x 7 [1]
      && decide (t ≤ (match (enclosing b i).getLast? with
        | some l => l + 1
        | none => operatorCount b))
  else decide (field e 22 4 ≤ 4096) && optT x 7 [1]

/-- R330: one operator's entry. -/
def opBad (b : Bytes) (i : Nat) (schemaOf : Nat → Bytes × Option Nat) : Bool :=
  let e := opEntry b i
  match opShape (opCode e) e with
  | none => true
  | some s =>
    let refs := (List.range 6).map (opIn e) ++ (List.range 3).map (opOutT e)
    let target := (tens b (opOutT e 0)).map (·.fmt)
    field e 3 1 != 0 || refs.any (fun n => n != noTensor && decide (tensorCount b ≤ n))
      || s.ins.any (fun k => opIn e k == noTensor) || s.outs.any (fun k => opOutT e k == noTensor)
      || ((List.range 3).any fun k => match tens b (opOutT e k) with
        | some t => decide (3 ≤ t.kind)
        | none => false)
      || ((List.range 42).any fun j => !named s.params (22 + j) && field e (22 + j) 1 != 0)
      || decide (4 < opMode e) || (!s.rounds && opMode e != 0)
      || (opMode e == 4 && (match target with
        | some f => !(decide (1 ≤ f) && decide (f ≤ 6)) && !usesBerth (opCode e)
        | none => !usesBerth (opCode e)))
      || !opFits b i schemaOf

/-- R355: what an encoder image must have. -/
def encoderBad (b : Bytes) : Bool :=
  let ts := imageTensors b
  let ins := ts.filter (·.kind == 0)
  let outs := ts.filter (·.kind == 1)
  imageKind b == 1 && (ins.length != 2 || !(match ts[0]?, ts[1]? with
      | some a, some c => a.kind == 0 && a.fmt == 5 && a.dims.length == 1 && c.kind == 0 && c.fmt == 7 && c.dims == [1]
      | _, _ => false)
    || outs.length != 1 || !(outs.all fun t => t.fmt == 0 && t.dims.length == 1)
    || (List.range (operatorCount b)).any fun i =>
      let c := opCode (opEntry b i)
      usesBerth c || c == Op.mergeUpdate || c == Op.tideWait)

/-- R327 step 3, R330. -/
def imageBad (b : Bytes) (schemaOf : Nat → Bytes × Option Nat) : Bool :=
  layoutBad b || (List.range (tensorCount b)).any (tensorBad b)
    || (List.range (operatorCount b)).any (fun i => opBad b i schemaOf) || encoderBad b

/-! What a loaded image takes. -/

def kindBytes (b : Bytes) (k : Nat) : Nat := ((imageTensors b).filter fun t => t.kind == k).map (·.bytes) |>.sum

def pagesFor (n : Nat) : Nat := (n + 65535) / 65536

/-- R292, R329: tokens of a tile, planes of a tile and tiles of a page, of a PlaneConstant tensor. -/
def TensorDef.tileRows (t : TensorDef) : Nat := 16384 / max 1 t.last
def TensorDef.planes (t : TensorDef) : Nat := widthOf t.fmt
def TensorDef.tiles (t : TensorDef) : Nat := (t.rowCount + t.tileRows - 1) / max 1 t.tileRows

/-- The pages that hold a stored tensor; each begins on a page of its own (DESIGN CHOICE, notes/assumptions/86.md). -/
def TensorDef.pages (t : TensorDef) : Nat :=
  if t.kind = 5 then (t.tiles + 32 / max 1 t.planes - 1) / max 1 (32 / max 1 t.planes) else pagesFor t.bytes

/-- Pages of the tensors of a kind. -/
def kindPages (b : Bytes) (k : Nat) : Nat := ((imageTensors b).filter fun t => t.kind == k).map (·.pages) |>.sum

/-- Stack pages of an image: plane constants; constants, and weights that stream (R283). -/
def planePages (b : Bytes) : Nat := kindPages b 5
def dataPagesOf (b : Bytes) : Nat := kindPages b 3 + if imageWindow b = 0 then 0 else kindPages b 4

/-- R282: the largest scale vector among the streamed tensors. -/
def scaleArea (b : Bytes) : Nat :=
  ((imageTensors b).filter fun t => t.kind == 4 && t.scaled).map (fun t => 2 * t.rowCount) |>.foldl max 0

/-- R282: shelf bytes of the window and its scale area. -/
def windowOfImage (b : Bytes) : Nat := if imageWindow b = 0 then 0 else imageWindow b + scaleArea b

/-- Shelf pages of weights that do not stream (R282). -/
def shelfPagesOf (b : Bytes) : Nat := if imageWindow b = 0 then kindPages b 4 else 0

/-- R284: rows of a chunk and chunks of a streamed weight tensor. -/
def chunkRows (b : Bytes) (t : TensorDef) : Nat := imageWindow b / 2 / max 1 (t.last * widthOf t.fmt / 8)
def chunkCount (b : Bytes) (t : TensorDef) : Nat := let r := max 1 (chunkRows b t); (t.dims.headD 0 + r - 1) / r

/-- The weight operand of a MATMUL that streams through the window (R284). -/
def streamedWeight (b e : Bytes) : Option TensorDef :=
  let w := tensorDef b (opIn e 1)
  if opCode e = Op.matmul ∧ w.kind = 4 ∧ imageWindow b ≠ 0 then some w else none

/-- R285: the chunks of the operators from `pc` on, in the order in which they stream. -/
def streamFrom (b : Bytes) (pc : Nat) : List (Nat × Nat) :=
  (List.range (operatorCount b)).flatMap fun i =>
    match (if pc ≤ i then streamedWeight b (opEntry b i) else none) with
    | some w => (List.range (chunkCount b w)).map fun k => (i, k)
    | none => []

/-- The scale vector of a streamed weight where it is stored with the image: its tensor number (R284). -/
def streamedScale (b e : Bytes) : Option Nat :=
  match streamedWeight b e with
  | some w => if w.scaled ∧ 3 ≤ (tensorDef b w.scale).kind then some w.scale else none
  | none => none

/-- The tensors that an operator reads through memory: its inputs and the scales of NB_MATVEC; the matrix of NB_MATVEC is read by the
near-bank units, a streamed weight and its stored scales come through the window. -/
def operatorReads (b e : Bytes) : List Nat :=
  let c := opCode e
  let ins := ((List.range 6).filter fun k => !(c == Op.nbMatvec && k == 0)
    && !(k == 1 && (streamedWeight b e).isSome) && !(k == 3 && (streamedScale b e).isSome)).map (opIn e)
  let scales := if c = Op.nbMatvec then [(tensorDef b (opIn e 0)).scale, (tensorDef b (opIn e 1)).scale] else []
  (ins ++ scales).filter (· != noTensor)

/-- R349: the place of an Intermediate tensor among the bytes of a run's scratch pages (DESIGN CHOICE, notes/assumptions/86.md). -/
def scratchOffset (b : Bytes) (n : Nat) : Nat :=
  (((List.range n).map (tensorDef b)).filter fun t => t.kind == 2).map (·.bytes) |>.sum

end Sys2Proof.Machine
end

