-- ==== Sys2Proof/Machine/Graph.lean ====
section
/-! DEFINITION. Graph slots and runs: loads (R325 to R330, R348), tensors in memory (R329), the window (R284, R285), one operator of a
run and the end of a run (R349 to R353), loops and branches (R341, R342), encoder runs (R356). -/

namespace Sys2Proof.Machine

open Sys2Proof Sys2Proof.Num

namespace Graph

def slot (s : State) (n : Nat) : Option GraphSlot := s.gph.slots.find? fun g => g.num == n

def run (s : State) (id : Nat) : Option Run := s.gph.runs.find? fun r => r.id == id

def mapRun (s : State) (id : Nat) (f : Run → Run) : State :=
  { s with gph := { s.gph with runs := s.gph.runs.map fun r => if r.id == id then f r else r } }

def imageOf (s : State) (r : Run) : Bytes := match slot s r.slot with
  | some g => g.image
  | none => []

def mapSlot (s : State) (n : Nat) (f : GraphSlot → GraphSlot) : State :=
  { s with gph := { s.gph with slots := s.gph.slots.map fun g => if g.num == n then f g else g } }

/-! Slots. -/

/-- The slot's entries in the Catalogue. -/
def putEntries (s : State) (n stage digest owner kind weights scratch : Nat) : State :=
  (((((s.setNum (Ent.slotSlotState n) stage).setNum (Ent.slotImageDigest n) digest).setNum (Ent.slotSlotOwner n) owner).setNum
    (Ent.slotSlotKind n) kind).setNum (Ent.slotWeightBytes n) weights).setNum (Ent.slotScratchBytes n) scratch

/-- Bytes of windows and scale areas of the loaded graphs (R282). -/
def windowsInUse (s : State) : Nat := (s.gph.slots.map fun g => windowOfImage g.image).sum

/-- The registered key of an owner slot whose digest a header names (R326, R604). -/
def signingKey (s : State) (b : Bytes) : Option Bytes :=
  (s.sec.graphKeys.find? fun k => k.1 == imageOwner b && digest64 k.2 == field b 32 8).map (·.2)

/-- R327, steps 1 to 3: the status of the first check that fails. -/
def imageRefusal (s : State) (b : Bytes) (descBytes : Nat) : Nat :=
  if headerBad b descBytes then St.badImage
  else
    let signed := match signingKey s b with
      | some k => rsaVerify k (b.take (b.length - 512)) (b.drop (b.length - 512))
      | none => false
    if !signed then St.badSignature
    else if imageBad b (fun c => ((s.params c).schema, if s.collState c = 2 then some (s.params c).metaBytes else none)) then St.badImage
    else St.ok

/-- The stack pages that an image asks for do not fit (R348). -/
def stackShort (s : State) (b : Bytes) : Bool := decide (Mem.freeStack s.mem < planePages b + dataPagesOf b)

/-- R282, R348: the window reservation of an image, or its shelf pages, do not fit. -/
def shelfShort (s : State) (b : Bytes) : Bool :=
  (imageWindow b != 0 && decide (s.cfg Ent.windowShelfMax < windowsInUse s + windowOfImage b))
    || decide (Mem.freeShelf s.mem < shelfPagesOf b + pagesFor (windowOfImage b))

/-- R348, R12: what a verified image still meets, but for the room in stack memory. -/
def placeRefusals (s : State) (b : Bytes) : List (Bool × Nat × Nat) :=
  [ (!bit (imageRoles b) (s.cfg Ent.poolRole), St.badJob, 0)
  , (s.slotState (imageOwner b) != 1, St.accessDenied, 0)
  , (shelfShort s b, St.retry, s.now + 1) ]

/-- The status of the refusals of a verified image, with the room in stack memory (R348). -/
def placeRefusal (s : State) (b : Bytes) : Nat :=
  match worst (placeRefusals s b ++ [(stackShort s b, St.retry, s.now + 1)]) with
  | some r => r.1
  | none => St.ok

/-- Fixed pages of an image in one tier: addresses and the memory after. -/
def allocPages (m : MemUnit) (owner : Nat) (plane shelf : Bool) : Nat → List Nat × MemUnit
  | 0 => ([], m)
  | n + 1 => match (if shelf then Mem.findShelf m else Mem.findStack m) with
    | none => ([], m)
    | some a =>
      let q := allocPages { m with fixed := m.fixed ++ [⟨a, owner, plane⟩] } owner plane shelf n
      (a :: q.1, q.2)

/-- Fill the pages of a Data tensor. -/
def storeData (m : MemUnit) (owner : Nat) (pages : List Nat) (b : Bytes) : MemUnit :=
  ((List.range pages.length).zip pages).foldl (fun m q => Mem.storeBytes m owner false q.2 ((b.drop (q.1 * 65536)).take 65536)) m

/-- The address of the first row of a tile of a PlaneConstant tensor. -/
def planeTile (t : TensorDef) (pages : List Nat) (j : Nat) : Nat :=
  let per := max 1 (32 / max 1 t.planes)
  pages.getD (j / per) 0 + j % per * t.planes * 2048

/-- R329: fill the pages of a PlaneConstant tensor in the K tile layout of R292, in which the elements of a tile in row-major order are
the bits of its plane rows in ascending order. -/
def storePlanes (m : MemUnit) (owner : Nat) (t : TensorDef) (pages codes : List Nat) : MemUnit :=
  (List.range t.tiles).foldl (fun m j =>
    let rows := Nb.codePlanes t.planes ((codes.drop (16384 * j)).take 16384)
    Mem.storeBytes m owner true (planeTile t pages j) (rows.flatMap (leBytes 2048))) m

/-- R329: allocate and fill the pages of the stored tensors, in tensor order. -/
def storeTensors (m : MemUnit) (owner : Nat) (b : Bytes) : List (Nat × List Nat) × MemUnit :=
  (List.range (tensorCount b)).foldl (fun (acc : List (Nat × List Nat) × MemUnit) n =>
    let t := tensorDef b n
    if t.kind < 3 then acc
    else
      let p := allocPages acc.2 owner (t.kind == 5) (t.kind == 4 && imageWindow b == 0) t.pages
      let data := constBytes b t
      (acc.1 ++ [(n, p.1)], if t.kind = 5 then storePlanes p.2 owner t p.1 ((patterns t.fmt data).take t.elems) else storeData p.2 owner p.1 data))
    ([], m)

/-- R348: the image is loaded. -/
def load (s : State) (n : Nat) (b : Bytes) : State :=
  let o := imageOwner b
  let p := storeTensors s.mem o b
  let pages := p.1.flatMap (·.2)
  let s := { s with
    mem := { p.2 with windowBytes := p.2.windowBytes + windowOfImage b }
    coh := pages.foldl Coh.dropPage s.coh }
  let w := kindBytes b 3 + kindBytes b 4 + kindBytes b 5
  let g : GraphSlot :=
    { num := n, stage := .loaded, image := b, digest := digest64 b, owner := o, kind := imageKind b, weightBytes := w
      scratchBytes := kindBytes b 2, pages := pages, shelf := windowOfImage b, unload := none
      places := p.1, halves := [none, none], turn := 0, scales := none }
  putEntries { s with gph := { s.gph with slots := s.gph.slots ++ [g] } } n 2 g.digest o g.kind w g.scratchBytes

/-- R354: free a slot's pages and window; the slot is Empty. -/
def clear (s : State) (g : GraphSlot) : State :=
  let s := freeFixedPages s g.pages
  let s := { s with mem := { s.mem with windowBytes := s.mem.windowBytes - g.shelf } }
  putEntries { s with gph := { s.gph with slots := s.gph.slots.filter fun x => x.num != g.num } } g.num 0 0 0 0 0 0

/-! Tensors (R329): Inputs and Outputs stand in the run's record, Intermediates in its scratch pages, stored tensors in the slot's
pages. -/

/-- Zeros where a run has written nothing. -/
def zeros (t : TensorDef) : List Nat := List.replicate t.elems 0

/-- An Input or Output tensor of a run. -/
def runTensor (r : Run) (b : Bytes) (n : Nat) : Tens :=
  let t := tensorDef b n
  ⟨t.fmt, t.dims, (r.tensors.lookup n).getD (zeros t)⟩

/-- The address of a page of a run's scratch space. -/
def scratchAddr (s : State) (r : Run) (n : Nat) : Option Nat := pageAddr s (.scratch r.id n)

/-- The scratch pages that hold an Intermediate tensor. -/
def scratchOf (r : Run) (b : Bytes) (n : Nat) : List PageId :=
  let t := tensorDef b n
  if t.kind = 2 then (pagePieces (scratchOffset b n) t.bytes).map fun p => .scratch r.id p.1 else []

/-- The pages of a stored tensor. -/
def placesOf (s : State) (r : Run) (n : Nat) : List Nat := ((slot s r.slot).bind fun g => g.places.lookup n).getD []

/-- Bytes of a stored Data tensor. -/
def readStored (s : State) (r : Run) (n off len : Nat) : Nat × Bytes × State :=
  readPaged s r.owner (fun k => (placesOf s r n)[k]?) off len

/-- The elements of a PlaneConstant tensor, read by a core from its plane rows. -/
def readPlanes (s : State) (r : Run) (t : TensorDef) (pages : List Nat) : Nat × List Nat × State :=
  let q := (List.range t.tiles).foldl (fun (acc : Nat × List Nat × State) j =>
    let rows := (List.range t.planes).foldl (fun (a : Nat × List Bytes × State) i =>
      let x := agentRead a.2.2 r.owner (planeTile t pages j + i * 2048) 2048
      (max a.1 x.1, a.2.1 ++ [x.2.1], x.2.2)) (acc.1, [], acc.2.2)
    let code (i : Nat) : Nat := (((List.range rows.2.1.length).zip rows.2.1).map fun p => if bitAt p.2 i then 2 ^ p.1 else 0).sum
    (rows.1, acc.2.1 ++ (List.range 16384).map code, rows.2.2)) (St.ok, [], s)
  (q.1, q.2.1.take t.elems, q.2.2)

/-- The value of a tensor for a run: status, tensor, state after. -/
def readTensor (s : State) (r : Run) (b : Bytes) (n : Nat) : Nat × Tens × State :=
  let t := tensorDef b n
  if t.kind < 2 then (St.ok, runTensor r b n, s)
  else if t.kind = 5 then
    let q := readPlanes s r t (placesOf s r n)
    (q.1, ⟨t.fmt, t.dims, q.2.1⟩, q.2.2)
  else
    let q := if t.kind = 2 then readPaged s r.owner (scratchAddr s r) (scratchOffset b n) t.bytes else readStored s r n 0 t.bytes
    (q.1, ⟨t.fmt, t.dims, (patterns t.fmt q.2.1).take t.elems⟩, q.2.2)

/-- The values of some tensors: the highest status, the tensors by number, the state after. -/
def readTensors (s : State) (r : Run) (b : Bytes) (ns : List Nat) : Nat × List (Nat × Tens) × State :=
  ns.foldl (fun (acc : Nat × List (Nat × Tens) × State) n =>
    let q := readTensor acc.2.2 r b n
    (max acc.1 q.1, acc.2.1 ++ [(n, q.2.1)], q.2.2)) (St.ok, [], s)

/-- Tensors of a kind, by number. -/
def ofKind (b : Bytes) (k : Nat) : List Nat := (List.range (tensorCount b)).filter fun n => (tensorDef b n).kind == k

/-! The window (R284, R285). -/

/-- The chunks that a run's slot holds for it, the oldest first. -/
def fillsOf (g : GraphSlot) (run : Nat) : List Fill :=
  [g.turn, 1 - g.turn].filterMap fun h => (g.halves.getD h none).filter fun f => f.run == run

/-- Drop the chunks that a run has no more use for: those that are not the next in its order. -/
def trimFills (s : State) (r : Run) : State :=
  mapSlot s r.slot fun g =>
    let mine := (fillsOf g r.id).map fun f => (f.op, f.chunk)
    if mine == ((streamFrom g.image r.pc).drop r.fills).take mine.length then g
    else { g with halves := g.halves.map fun h => h.filter fun f => f.run != r.id }

/-- Drop every chunk of a run. -/
def dropFills (s : State) (r : Run) : State :=
  mapSlot s r.slot fun g => { g with halves := g.halves.map fun h => h.filter fun f => f.run != r.id }

/-- Another run of the slot is in the midst of a streamed operand (DESIGN CHOICE: one at a time, notes/assumptions/86.md). -/
def streamBusy (s : State) (g : GraphSlot) (r : Run) : Bool :=
  s.gph.runs.any fun x => x.slot == g.num && x.id != r.id && !x.waiting && (streamedWeight g.image (opEntry g.image x.pc)).isSome
    && (x.fills != 0 || (fillsOf g x.id).any fun f => f.op == x.pc)

/-- R284: before a tensor's first chunk its scale vector is loaded into the scale area. -/
def loadScale (s : State) (r : Run) (b : Bytes) (op : Nat) : State :=
  match streamedScale b (opEntry b op) with
  | none => s
  | some n =>
    let q := readStored s r n 0 (tensorDef b n).bytes
    mapSlot q.2.2 r.slot fun g => { g with scales := some (n, q.1, q.2.1) }

/-- The next chunk of a run fills the half whose turn it is, once that is released. -/
def fillChunk (s : State) (g : GraphSlot) (r : Run) : State :=
  let b := g.image
  match ((streamFrom b r.pc).drop (r.fills + (fillsOf g r.id).length)).head? with
  | none => s
  | some (op, k) =>
    if (g.halves.getD g.turn none).any fun f => f.run == r.id then s
    else
      let n := opIn (opEntry b op) 1
      let w := tensorDef b n
      let row := w.last * widthOf w.fmt / 8
      let len := min (chunkRows b w) (w.dims.headD 0 - k * chunkRows b w) * row
      let s := if k = 0 then loadScale s r b op else s
      let q := readStored s r n (k * chunkRows b w * row) len
      let s := mapSlot q.2.2 g.num fun g => { g with
        halves := (g.halves.map fun h => h.filter fun f => f.run == r.id).set g.turn (some ⟨r.id, op, k, q.1, q.2.1⟩), turn := 1 - g.turn }
      s.bump Ent.windowStreamBytes len

/-! The end of a run. -/

/-- R350: the command-specific bytes of a run completion. -/
def runBytes (seed failed : Nat) : Bytes := leBytes 8 seed ++ leBytes 2 failed

/-- R356: the query of an encoder run that failed ends with the run's status, Count 0 and a Gap of +∞. -/
def failQuery (s : State) (tag status : Nat) : State :=
  match s.query tag with
  | none => s
  | some q =>
    let header := leBytes 1 status ++ leBytes 1 (boolBit q.openQuery 2) ++ leBytes 2 q.commandId ++ leBytes 2 q.k ++ leBytes 2 0
      ++ leBytes 6 q.stamp ++ leBytes 2 (s.params q.coll).shoals ++ leBytes 4 0 ++ leBytes 4 posInf32 ++ List.replicate 40 0
    let s := { s with qry := { s.qry with queries := s.qry.queries.filter fun x => x.tag != tag } }
    let s := (s.bump (Ent.collStQueriesLed q.coll)).bump (Ent.collStUncertified q.coll)
    let s := s.cmdWrite q.cmd q.resultAddr (padTo 64 header ++ (List.replicate q.k sentinelEntry).flatten)
    s.finish q.cmd status [] (s.now + 1)

/-- R118 to R120: the query's vector is there; its fragments go out. An encoded query of a metric 3 collection passes R121's
checks, and the manual does not say how D fp32 outputs become D/8 bytes: the low byte of each output pattern is taken, and of these the first D/8 count
(DESIGN CHOICE, notes/assumptions/79.md). -/
def startQuery (s : State) (tag : Nat) (pats : List Nat) : State :=
  match s.query tag with
  | none => s
  | some q =>
    let m := (s.params q.coll).metric
    let v := if m = 2 then normalise 0 pats else if m = 3 then (pats.take ((s.params q.coll).dim / 8)).map (· % 256) else pats
    let op := m != 3 && openElems (v.map (decode fp32))
    let s := mapQuery s tag fun q => { q with vec := v, openQuery := op, encoding := false }
    let s := if op then s.bump (Ent.collStOpenQueries q.coll) else s
    settleQuery (fanOut s tag) tag

/-- Write the Output tensors of a run to the host (R329). -/
def writeOutputs (s : State) (r : Run) (b : Bytes) : State :=
  ((ofKind b 1).zip r.outputs).foldl (fun s q =>
    let t := runTensor r b q.1
    s.hostWrite q.2.1 (packElems t.fmt t.pats)) s

/-- R256, R260, R350: an output in the node's HDM range is refused where the image's owner slot is not the range's. -/
def outputStatus (s : State) (r : Run) : Nat :=
  if (r.outputs.any fun q => inHdm s q.1 q.2) ∧ hdmOwner s ≠ r.owner ∧ !hdmDead s then St.accessDenied else St.ok

/-- The host command of a run has lost its queue, or the run has none. -/
def runLost (s : State) (r : Run) : Bool :=
  match r.use with
  | .command c => match s.cmd c with
    | some c => c.lost
    | none => true
  | .encode _ => true

/-- The counters and the entries of a graph slot after a run. -/
def countRun (s : State) (r : Run) (status failed : Nat) : State :=
  let s := if status = St.ok then s.bump Ent.runsCompleted else (s.bump Ent.runsFailed).bump (Ent.slotSlotFailedRuns r.slot)
  let s := s.bump (Ent.slotSlotRuns r.slot)
  if status = St.ok then s else s.setNum (Ent.slotLastFailedOperator r.slot) failed

/-- The scratch pages, the chunks, the pages waited for and the berth of a run are free again. -/
def releaseRun (s : State) (r : Run) : State :=
  let s := dropFills (freePages s r.needs) r
  let s := (List.range r.pages).foldl (fun s n => releasePage s (.scratch r.id n)) s
  let s := { s with gph := { s.gph with runs := s.gph.runs.filter fun x => x.id != r.id } }
  match r.berth with
  | none => s
  | some id => Berth.mapOwned s id fun o => if o.holder = some r.id then { o with holder := none } else o

/-- What waits for a run goes on: the query whose input it encoded, or its host command. -/
def answerRun (s : State) (r : Run) (b : Bytes) (status failed : Nat) : State :=
  match r.use, r.berth with
  | .encode q, _ => if status = St.ok then startQuery s q (match ofKind b 1 with
      | n :: _ => (runTensor r b n).pats
      | [] => []) else failQuery s q status
  | .command c, none => s.finish c status (runBytes r.seed failed) (s.now + 1)
  | .command c, some id =>
    let attend := match s.cmd c with
      | some h => h.opcode == 0x23
      | none => false
    if !attend then s.finish c status (runBytes r.seed failed) (s.now + 1)
    else if r.phaseEnd && (Berth.find s id).isSome then
      Berth.startCheckpoint (Berth.mapOwned s id fun o => { o with task := .phaseEnd c r.seed status failed }) id
    else s.finish c status (Berth.attendBytes s id r.seed failed) (s.now + 1)

/-- A run ends: outputs, counts, its scratch pages and its hold, and the command or query it was for (R350 to R352, R368). -/
def endRun (s : State) (r : Run) (status failed : Nat) : State :=
  let b := imageOf s r
  let status := if status = St.ok ∧ !runLost s r then outputStatus s r else status
  let s := if status = St.ok ∧ !runLost s r then writeOutputs s r b else s
  answerRun (releaseRun (countRun s r status failed) r) r b status failed

/-- End a run that stops at its present operator (R352). -/
def stopRun (s : State) (r : Run) (status : Nat) : State := endRun s r status r.pc

/-! The order of operators (R324, R341, R342). -/

/-- Close or repeat the loops that the pc has left. -/
def settleLoops : Nat → Run → Run
  | 0, r => r
  | n + 1, r =>
    match r.loops with
    | [] => r
    | l :: rest =>
      if r.pc ≤ l.last then r
      else if l.iter + 1 < l.count then { r with pc := l.op + 1, loops := { l with iter := l.iter + 1 } :: rest }
      else settleLoops n { r with loops := rest }

/-- Continue at an operator. -/
def goTo (r : Run) (pc : Nat) : Run := settleLoops (r.loops.length + 1) { r with
  pc := pc, fills := 0, streamed := [], scaleVec := [], holdTide := none, asked := false, answer := 0, needs := [] }

/-- The run goes on at an operator, or ends past the last one. -/
def advance (s : State) (r : Run) (pc : Nat) : State :=
  let s := freePages s r.needs
  let r := goTo r pc
  if operatorCount (imageOf s r) ≤ r.pc then endRun s r St.ok 0xFFFF else trimFills (mapRun s r.id fun _ => r) r

/-! One operator. -/

/-- What an operator sees: its run, the image, its own entry, the tensors that it has read. -/
structure Ctx where
  run : Run
  image : Bytes
  entry : Bytes
  ins : List (Nat × Tens)
  deriving DecidableEq, Repr

/-- How an operator ends: it has computed outputs (one per Out place), it goes on elsewhere, it stops the run, or it has
still to wait. -/
inductive Ended where
  | outs (o : OpOut) (s : State)
  | goes (r : Run) (pc : Nat) (s : State)
  | stops (status : Nat) (count : OpCount) (s : State)
  | waits (s : State)
  deriving DecidableEq, Repr

/-- The state that an operator leaves, however it ends. -/
def Ended.state : Ended → State
  | .outs _ s => s
  | .goes _ _ s => s
  | .stops _ _ s => s
  | .waits s => s

namespace Ctx

/-- A tensor that the operator has read. -/
def tensor (c : Ctx) (n : Nat) : Tens :=
  let t := tensorDef c.image n
  (c.ins.lookup n).getD ⟨t.fmt, t.dims, zeros t⟩

/-- An input tensor. -/
def x (c : Ctx) (k : Nat) : Tens := c.tensor (opIn c.entry k)

/-- An optional input. -/
def xo (c : Ctx) (k : Nat) : Option Tens := if opIn c.entry k = noTensor then none else some (c.x k)

/-- The definition of an output tensor. -/
def od (c : Ctx) (k : Nat) : TensorDef := tensorDef c.image (opOutT c.entry k)

/-- R331, R202: how the operator rounds into a format. -/
def rnd (c : Ctx) (fmt : Nat) : Rnd :=
  ⟨fmt, opMode c.entry, BitVec.ofNat 64 c.run.seed, c.run.pc, (c.run.loops.head?.map (·.iter)).getD 0⟩

def r0 (c : Ctx) : Rnd := c.rnd (c.od 0).fmt

end Ctx

/-- Count what an operator did (the entries of 0x5000, and 0x4000.13 for R183). -/
def addCounts (s : State) (n : OpCount) : State :=
  (((((((s.bump Ent.quantisedRows n.quantised).bump Ent.zeroScaleRows n.zeroScale).bump Ent.nonFiniteRows n.nonFinite).bump
    Ent.stochasticRows n.stochastic).bump Ent.overflowOutputs n.overflow).bump Ent.indexFaults n.indexFaults).bump
    Ent.duplicatesDropped n.duplicates)

/-- R347: each run under way occupies one cluster, and of those only the first GraphClusterMax execute (DESIGN CHOICE,
notes/assumptions/86.md). -/
def hasCluster (s : State) (r : Run) : Bool :=
  decide ((s.gph.runs.filter fun x => !x.waiting && x.holdTide.isNone && decide (x.id < r.id)).length < s.cfg Ent.graphClusterMax)

/-- A run stands at an operator of this code and may execute it. -/
def ready (s : State) (r : Run) (code : Nat) : Bool :=
  s.mgmt && s.up 7 && !r.waiting && r.holdTide.isNone && hasCluster s r && opCode (opEntry (imageOf s r) r.pc) == code

/-- R264, R272, R351: an operator goes on once the pages that it uses lie in stack or shelf memory; until then they are fetched. -/
def needPages (s : State) (r : Run) (ids : List PageId) (go : Unit → Ended) : Ended :=
  match absentPages s ids with
  | [] => go ()
  | l => .waits (mapRun (fetchPages s l) r.id fun x => { x with needs := (x.needs ++ l).eraseDups })

/-- The output tensors that an operator names, with their values. -/
def written (e : Bytes) (o : OpOut) : List (Nat × List Nat) :=
  ((List.range 3).zip o.outs).filterMap fun (q : Nat × List Nat) => if opOutT e q.1 = noTensor then none else some (opOutT e q.1, q.2)

/-- Store the outputs of an operator: Intermediates in the run's scratch pages, the others in its record. -/
def storeOuts (s : State) (r : Run) (b : Bytes) (ws : List (Nat × List Nat)) : Nat × Run × State :=
  ws.foldl (fun (acc : Nat × Run × State) w =>
    let t := tensorDef b w.1
    if t.kind = 2 then
      let q := writePaged acc.2.2 r.owner (scratchAddr acc.2.2 r) (scratchOffset b w.1) (packElems t.fmt w.2)
      (max acc.1 q.1, acc.2.1, q.2)
    else (acc.1, { acc.2.1 with tensors := (acc.2.1.tensors.filter fun x => x.1 != w.1) ++ [w] }, acc.2.2)) (St.ok, r, s)

/-- The end of an operator. -/
def settleOp (r : Run) (b e : Bytes) : Ended → State
  | .outs o s =>
    let q := storeOuts (addCounts s o.count) r b (written e o)
    if q.1 ≠ St.ok then stopRun q.2.2 r q.1 else advance q.2.2 q.2.1 (r.pc + 1)
  | .goes r pc s => advance s r pc
  | .stops st n s => stopRun (addCounts s n) r st
  | .waits s => s

/-- The tensors that an operator uses in its run's scratch pages. -/
def operatorScratch (r : Run) (b e : Bytes) : List PageId :=
  ((operatorReads b e ++ ((List.range 3).map (opOutT e)).filter (· != noTensor)).flatMap (scratchOf r b)).eraseDups

/-- R324, R352: execute the operator at which a run stands, once it has read its inputs. -/
def perform (s : State) (id code : Nat) (f : Ctx → State → Ended) : State :=
  match run s id with
  | none => s
  | some r =>
    if !ready s r code then s
    else
      let b := imageOf s r
      let e := opEntry b r.pc
      settleOp r b e (needPages s r (operatorScratch r b e) fun _ =>
        let q := readTensors s r b (operatorReads b e)
        if q.1 ≠ St.ok then .stops q.1 {} q.2.2 else f ⟨r, b, e, q.2.1⟩ q.2.2)

/-- An operator that always completes. -/
def pure (s : State) (id code : Nat) (f : Ctx → OpOut) : State := perform s id code fun c s => .outs (f c) s

/-- R284, R285: the engines work through the chunk of a streamed weight that is due and release it; with the last one the operand is
whole. -/
def streamEnds (c : Ctx) (w : TensorDef) (s : State) : Ended :=
  match slot s c.run.slot with
  | none => .waits s
  | some g =>
    match (fillsOf g c.run.id).head?.filter fun f => f.op == c.run.pc && f.chunk == c.run.fills with
    | none => .waits s
    | some f =>
      let sc : Nat × Bytes := match f.chunk, streamedScale c.image c.entry, g.scales with
        | 0, some n, some q => if q.1 = n then (q.2.1, q.2.2) else (St.ok, [])
        | _, _, _ => (St.ok, c.run.scaleVec)
      if max f.status sc.1 ≠ St.ok then .stops (max f.status sc.1) {} s
      else
        let r := { c.run with fills := c.run.fills + 1, streamed := c.run.streamed ++ f.data, scaleVec := sc.2 }
        let s := mapSlot s g.num fun g => { g with halves := g.halves.map fun h => h.filter fun x => x != f }
        if r.fills < chunkCount c.image w then .waits (mapRun s r.id fun _ => r)
        else
          let sw : Option Tens := match streamedScale c.image c.entry with
            | some n => some ⟨1, (tensorDef c.image n).dims, patterns 1 r.scaleVec⟩
            | none => c.xo 3
          .outs (opMatmul c.r0 (c.x 0) ⟨w.fmt, w.dims, (patterns w.fmt r.streamed).take w.elems⟩ (c.xo 2) sw (c.xo 4)) s

/-! Berths of operators. -/

/-- The berth of a run, served here; otherwise the status that stops the run (R364, R374). -/
def berthFor (s : State) (r : Run) : Except Nat OwnedBerth :=
  match r.berth.bind (Berth.find s) with
  | none => .error St.staleOwner
  | some o => if o.unconfirmed || o.expired then .error St.retry else .ok o

/-- The key/value head of query head h (R344). -/
def kvHead (o : OwnedBerth) (hq h : Nat) : Nat := h / max 1 (hq / max 1 o.geo.kvHeads)

/-- The sequences of a layer of one kind (0 K, 1 V). -/
def layerSeqs (o : OwnedBerth) (l k : Nat) : List Nat := (List.range o.geo.kvHeads).map fun h => cacheSeq o.geo l h k

def berthIds (o : OwnedBerth) (ps : List Nat) : List PageId := (ps.eraseDups).map fun n => .berth o.id n

/-- The scale pages of a layer's sequences of one kind. -/
def scaleIds (o : OwnedBerth) (l k u : Nat) : List PageId := berthIds o ((layerSeqs o l k).flatMap fun q => scalePages o.geo q u)

/-- The addresses of the tiles that hold the tokens of a sequence. -/
def tileAddrs (s : State) (o : OwnedBerth) (q u : Nat) : List Nat := (List.range (tileCount o.geo u)).map (tileAddr s o.id o.geo q)

/-- The pages of the K tiles of a layer. -/
def keyIds (o : OwnedBerth) (l u : Nat) : List PageId :=
  berthIds o ((layerSeqs o l 0).flatMap fun q => tilePages o.geo q (List.range (tileCount o.geo u)))

/-- Steps 1 and 2 of R344: the scores of every query head, the products from the near-bank units. -/
def scoreRows (c : Ctx) (s : State) (o : OwnedBerth) (l u : Nat) : Nat × List (List Nat) × State :=
  let g := o.geo
  let rows := (c.x 0).rows
  let qf := field c.entry 23 1
  ((List.range rows.length).zip rows).foldl (fun (acc : Nat × List (List Nat) × State) q =>
    if acc.1 ≠ St.ok then acc
    else
      let k := cacheSeq g l (kvHead o rows.length q.1) 0
      let code := attendQuery c.r0 qf q.1 q.2
      let z := readScales acc.2.2 c.run.owner o.id g k u
      let p := Nb.keyProducts z.2.2 c.run.owner g.headDim (planeCount g) (tileTokens g) (Nb.codePlanes (widthOf qf) code.2) (tileAddrs s o k u)
      (max z.1 p.1, acc.2.1 ++ [attendScores (field c.entry 26 4) code.1 (p.2.1.take u) z.2.1], p.2.2)) (St.ok, [], s)

/-- Step 5 of R344 for every query head: the V scales, with the scale and codes of the folded weights. -/
def foldRows (c : Ctx) (s : State) (o : OwnedBerth) (l u : Nat) (ws : List (List Nat)) : Nat × List (List Nat × Nat × List Nat) × State :=
  ((List.range ws.length).zip ws).foldl (fun (acc : Nat × List (List Nat × Nat × List Nat) × State) q =>
    let z := readScales acc.2.2 c.run.owner o.id o.geo (cacheSeq o.geo l (kvHead o ws.length q.1) 1) u
    (max acc.1 z.1, acc.2.1 ++ [(z.2.1, attendFold c.r0 (field c.entry 30 1) (ws.length + q.1) z.2.1 q.2)], z.2.2)) (St.ok, [], s)

/-- Step 6: the V tiles that hold a weight other than 0. -/
def usedTiles (g : Geometry) (u : Nat) (pq : List Nat) : List Nat :=
  (List.range (tileCount g u)).filter fun j => ((pq.drop (j * tileTokens g)).take (tileTokens g)).any (· != 0)

/-- What the second side of attention uses: the V tiles with a weight other than 0. -/
def valueIds (o : OwnedBerth) (l u : Nat) (fs : List (List Nat × Nat × List Nat)) : List PageId :=
  berthIds o (((List.range fs.length).zip fs).flatMap fun q =>
    tilePages o.geo (cacheSeq o.geo l (kvHead o fs.length q.1) 1) (usedTiles o.geo u q.2.2.2))

/-- Steps 6 and 7 of R344: the outputs of every query head, the products from the near-bank units. -/
def valueRows (c : Ctx) (s : State) (o : OwnedBerth) (l u : Nat) (fs : List (List Nat × Nat × List Nat)) : Nat × List (List Nat) × State :=
  let g := o.geo
  ((List.range fs.length).zip fs).foldl (fun (acc : Nat × List (List Nat) × State) q =>
    if acc.1 ≠ St.ok then acc
    else
      let k := cacheSeq g l (kvHead o fs.length q.1) 1
      let tiles := (usedTiles g u q.2.2.2).map fun j =>
        (tileAddr s o.id g k j, Nb.codePlanes (widthOf (field c.entry 30 1)) ((q.2.2.2.drop (j * tileTokens g)).take (tileTokens g)))
      let p := Nb.valueProducts acc.2.2 c.run.owner g.headDim (planeCount g) (tileTokens g) tiles
      (p.1, acc.2.1 ++ [attendOut q.2.2.1 p.2.1], p.2.2)) (St.ok, [], s)

/-- The banks of pages are free for a sequence each. -/
def banksIdle (s : State) (ids : List PageId) : Bool := Nb.idleAll s (ids.filterMap (pageAddr s))

/-- An attention operator over its layer: the berth, the layer and its tokens. -/
def attention (c : Ctx) (s : State) (f : OwnedBerth → Nat → Nat → Ended) : Ended :=
  match berthFor s c.run with
  | .error st => .stops st {} s
  | .ok o => f o (field c.entry 22 1) (o.tokens.getD (field c.entry 22 1) 0)

/-- The first side of attention: its pages, then the scores of every query head. -/
def keySide (c : Ctx) (s : State) (o : OwnedBerth) (l u : Nat) (more : List PageId) (f : List (List Nat) → State → Ended) : Ended :=
  needPages s c.run (keyIds o l u ++ scaleIds o l 0 u ++ more) fun _ =>
    if !banksIdle s (keyIds o l u) then .waits s
    else
      let r := scoreRows c s o l u
      if r.1 ≠ St.ok then .stops r.1 {} r.2.2 else f r.2.1 r.2.2

/-- The second side of attention, from the weights of every query head: the outputs and what the quantised rows count. `s0` is the state
that an operator which has to wait leaves. -/
def valueSide (c : Ctx) (s0 s : State) (o : OwnedBerth) (l u : Nat) (ws : List (List Nat)) (f : List (List Nat) → OpCount → State → Ended) : Ended :=
  let r := foldRows c s o l u ws
  if r.1 ≠ St.ok then .stops r.1 {} r.2.2
  else needPages s0 c.run (valueIds o l u r.2.1) fun _ =>
    if !banksIdle s0 (valueIds o l u r.2.1) then .waits s0
    else
      let v := valueRows c r.2.2 o l u r.2.1
      if v.1 ≠ St.ok then .stops v.1 {} v.2.2
      else f v.2.1 (quantCount c.r0 ((r.2.1.zip ws).map fun q => foldedWeights q.1.1 q.2)) v.2.2

end Graph

end Sys2Proof.Machine
end

