-- ==== Sys2Proof/Machine/Aes.lean ====
section
/-! DEFINITION. AES-256 (FIPS 197) and AES-256-XTS (IEEE 1619), the cipher of stored lines and flash pages (R254, R475). Bytes are
numbers below 256. -/

namespace Sys2Proof.Machine.Aes

open Sys2Proof

/-! GF(2^8) with x^8 + x^4 + x^3 + x + 1. -/

def twice (a : Nat) : Nat := if a < 128 then 2 * a else (2 * a) ^^^ 0x11B

def mulGo : Nat → Nat → Nat → Nat
  | 0, _, _ => 0
  | n + 1, a, b => (if b % 2 = 1 then a else 0) ^^^ mulGo n (twice a) (b / 2)

def mul (a b : Nat) : Nat := mulGo 8 a b

def inv (a : Nat) : Nat :=
  ((List.range 7).foldl (fun (acc : Nat × Nat) _ => let q := mul acc.1 acc.1; (q, mul acc.2 q)) (a, 1)).2

def rotl8 (a n : Nat) : Nat := (a * 2 ^ n + a / 2 ^ (8 - n)) % 256

/-- The S-box: the inverse, then the affine map. -/
def sbox (a : Nat) : Nat :=
  let b := inv a
  b ^^^ rotl8 b 1 ^^^ rotl8 b 2 ^^^ rotl8 b 3 ^^^ rotl8 b 4 ^^^ 0x63

/-- The inverse S-box. -/
def invSbox (a : Nat) : Nat := inv (rotl8 a 1 ^^^ rotl8 a 3 ^^^ rotl8 a 6 ^^^ 0x05)

def xors (a b : List Nat) : List Nat := (a.zip b).map fun p => p.1 ^^^ p.2

/-! The key schedule: 60 words of 4 bytes, the latest first while it grows. -/

/-- The word that the schedule adds to the word 8 places back. -/
def turn (i : Nat) (last : List Nat) : List Nat :=
  if i % 8 = 0 then xors ((last.tail ++ last.take 1).map sbox) [2 ^ (i / 8 - 1), 0, 0, 0]
  else if i % 8 = 4 then last.map sbox
  else last

def expandGo : Nat → Nat → List (List Nat) → List (List Nat)
  | 0, _, ws => ws
  | n + 1, i, ws => expandGo n (i + 1) (xors (ws.getD 7 []) (turn i (ws.headD [])) :: ws)

/-- `k` parts of `n` numbers each. -/
def parts (n : Nat) : Nat → List Nat → List (List Nat)
  | 0, _ => []
  | k + 1, l => l.take n :: parts n k (l.drop n)

/-- The 15 round keys of a 32-byte key, 16 bytes each. -/
def roundKeys (key : List Nat) : List (List Nat) := parts 16 15 ((expandGo 52 8 (parts 4 8 key).reverse).reverse).flatten

/-! Rounds on a 16-byte state, column by column. -/

def shiftRows (s : List Nat) : List Nat := (List.range 16).map fun i => s.getD ((i + 4 * (i % 4)) % 16) 0

def invShiftRows (s : List Nat) : List Nat := (List.range 16).map fun i => s.getD ((i + 12 * (i % 4)) % 16) 0

/-- Multiply each column by a circulant matrix, given by its first row. -/
def mixWith (row : List Nat) (s : List Nat) : List Nat :=
  (List.range 16).map fun i =>
    ((List.range 4).map fun j => mul (s.getD (i / 4 * 4 + j) 0) (row.getD ((4 + j - i % 4) % 4) 0)).foldl (· ^^^ ·) 0

def mixColumns : List Nat → List Nat := mixWith [2, 3, 1, 1]

def invMixColumns : List Nat → List Nat := mixWith [14, 11, 13, 9]

/-- One block under the round keys. -/
def encrypt (ks : List (List Nat)) (block : List Nat) : List Nat :=
  let s := ((ks.tail).take 13).foldl (fun s k => xors (mixColumns (shiftRows (s.map sbox))) k) (xors block (ks.headD []))
  xors (shiftRows (s.map sbox)) (ks.getD 14 [])

def decrypt (ks : List (List Nat)) (block : List Nat) : List Nat :=
  let s := (((ks.tail).take 13).reverse).foldl (fun s k => invMixColumns (xors ((invShiftRows s).map invSbox) k)) (xors block (ks.getD 14 []))
  xors ((invShiftRows s).map invSbox) (ks.headD [])

/-! XTS. -/

def toNats (b : Bytes) : List Nat := b.map (·.toNat)

def ofNats (l : List Nat) : Bytes := l.map (BitVec.ofNat 8)

/-- A 16-byte tweak value times α. -/
def nextTweak (t : Nat) : Nat := if t < 2 ^ 127 then 2 * t else (2 * t % 2 ^ 128) ^^^ 0x87

/-- The tweak value of block `j` of a data unit. -/
def tweakAt (t : Nat) : Nat → Nat
  | 0 => t
  | n + 1 => nextTweak (tweakAt t n)

/-- Blocks from number `first` of a data unit, under a 64-byte key and a tweak; `crypt` is the block cipher or its inverse. -/
def xts (crypt : List (List Nat) → List Nat → List Nat) (key : BitVec 512) (tweak first : Nat) (data : Bytes) : Bytes :=
  let k := toNats (leBytes 64 key.toNat)
  let k1 := roundKeys (k.take 32)
  let t0 := leNat (ofNats (encrypt (roundKeys (k.drop 32)) (toNats (leBytes 16 tweak))))
  let blocks := parts 16 (data.length / 16) (toNats data)
  ofNats (((List.range blocks.length).zip blocks).flatMap fun q =>
    let t := toNats (leBytes 16 (tweakAt t0 (first + q.1)))
    xors (crypt k1 (xors q.2 t)) t)

def xtsEncrypt : BitVec 512 → Nat → Nat → Bytes → Bytes := xts encrypt

def xtsDecrypt : BitVec 512 → Nat → Nat → Bytes → Bytes := xts decrypt

end Sys2Proof.Machine.Aes
end

