-- ==== Sys2Proof/Machine/Ecc.lean ====
section
/-! DEFINITION. The RS(72,66) code of stored lines (R252): arithmetic in GF(2^8), check bytes, and the correction of up to 3
bytes. Bytes are numbers below 256. -/

namespace Sys2Proof.Machine.Ecc

open Sys2Proof

/-! GF(2^8) with x^8 + x^4 + x^3 + x^2 + 1 (R252). -/

/-- The product with α = 0x02. -/
def twice (a : Nat) : Nat := if a < 128 then 2 * a else (2 * a) ^^^ 0x11D

/-- The sum of the multiples of `a` that the lowest `n` bits of `b` select. -/
def mulGo : Nat → Nat → Nat → Nat
  | 0, _, _ => 0
  | n + 1, a, b => (if b % 2 = 1 then a else 0) ^^^ mulGo n (twice a) (b / 2)

def mul (a b : Nat) : Nat := mulGo 8 a b

/-- α^n. -/
def alpha : Nat → Nat
  | 0 => 1
  | n + 1 => twice (alpha n)

/-- a^254, the inverse of a non-zero a: the squares a^2 to a^128 multiplied together. -/
def inv (a : Nat) : Nat :=
  ((List.range 7).foldl (fun (acc : Nat × Nat) _ => let q := mul acc.1 acc.1; (q, mul acc.2 q)) (a, 1)).2

def sum (l : List Nat) : Nat := l.foldl (· ^^^ ·) 0

/-! Check bytes (R252). -/

/-- The generator polynomial (x − α^0) … (x − α^5) without its leading 1, highest degree first. -/
def generator : List Nat :=
  ((List.range 6).foldl (fun (g : List Nat) i => ((g ++ [0]).zip (0 :: g)).map fun (p : Nat × Nat) => p.1 ^^^ mul p.2 (alpha i)) [1]).tail

/-- One step of the division by the generator. -/
def divStep (rem : List Nat) (x : Nat) : List Nat :=
  let q := rem.headD 0 ^^^ x
  ((rem.tail ++ [0]).zip generator).map fun (p : Nat × Nat) => p.1 ^^^ mul q p.2

/-- The 6 check bytes of a 66-byte message: the remainder, highest degree first. -/
def check (msg : List Nat) : List Nat := msg.foldl divStep (List.replicate 6 0)

/-- The 72 bytes of a codeword. -/
def encode (msg : List Nat) : List Nat := msg ++ check msg

/-! Correction. -/

/-- The locator of byte i of a codeword, whose degree is 71 − i. -/
def locator (i : Nat) : Nat := alpha (71 - i)

def power (a : Nat) : Nat → Nat
  | 0 => 1
  | n + 1 => mul a (power a n)

/-- The value of 72 bytes at α^j. -/
def syndrome (w : List Nat) (j : Nat) : Nat := w.foldl (fun acc x => mul acc (alpha j) ^^^ x) 0

def syndromes (w : List Nat) : List Nat := (List.range 6).map (syndrome w)

/-- Solve a linear system of n equations, each row with its right side last; none where it is singular. -/
def solve : Nat → List (List Nat) → Option (List Nat)
  | 0, _ => some []
  | n + 1, rows =>
    match rows.find? fun r => r.headD 0 != 0 with
    | none => none
    | some p =>
      let p := p.map (mul (inv (p.headD 0)))
      let rest := (rows.map fun r => ((r.zip p).map fun (q : Nat × Nat) => q.1 ^^^ mul (r.headD 0) q.2).tail).filter fun r => r.any (· != 0)
      (solve n rest).map fun xs => (p.getLastD 0 ^^^ sum ((xs.zip p.tail).map fun (q : Nat × Nat) => mul q.1 q.2)) :: xs

/-- The positions and values of n errors that explain the syndromes; none where n errors do not. -/
def errors (s : List Nat) (n : Nat) : Option (List (Nat × Nat)) :=
  (solve n ((List.range n).map fun j => (List.range n).map (fun c => s.getD (j + n - 1 - c) 0) ++ [s.getD (j + n) 0])).bind fun sigma =>
    let at_ (x : Nat) : Nat := sum (power x n :: ((List.range n).zip sigma).map fun (q : Nat × Nat) => mul q.2 (power x (n - 1 - q.1)))
    let places := (List.range 72).filter fun i => at_ (locator i) == 0
    if places.length ≠ n then none
    else (solve n ((List.range n).map fun j => places.map (fun i => power (locator i) j) ++ [s.getD j 0])).map fun vs => places.zip vs

/-- Add errors to 72 bytes. -/
def fix (w : List Nat) (es : List (Nat × Nat)) : List Nat := es.foldl (fun w e => w.set e.1 (w.getD e.1 0 ^^^ e.2)) w

/-- The codeword within 3 bytes of 72 bytes, and none where they show more than 3 erroneous bytes (R252, R253). -/
def decode (w : List Nat) : Option (List Nat) :=
  let s := syndromes w
  if s.all (· == 0) then some w
  else
    let tries := [1, 2, 3].filterMap fun n => (errors s n).map (fix w)
    tries.find? fun c => (syndromes c).all (· == 0)

end Sys2Proof.Machine.Ecc
end

