-- ==== Sys2Proof/Machine/Stored.lean ====
section
/-! DEFINITION. What cells and flash pages hold: the 72 bytes of a stored line (R251 to R255) and the ciphertext of a flash codeword
(R475). The state keeps lines and codewords in plaintext; under one key the two determine each other (notes/assumptions/9.md). -/

namespace Sys2Proof.Machine

open Sys2Proof

/-! Stored lines (the tables "Stored line" and "Line states"). -/

/-- The metadata word of a line's owner slot and state. -/
def metaWord : Option (Nat × Bool) → Nat
  | none => 0
  | some (o, plane) => o % 4096 + 4096 * (if plane then 2 else 1)

/-- R254: the 64 data bytes as stored: zeros of a Free line, else their ciphertext under the line's node physical address. -/
def lineCipher (s : State) (n : Nat) (t : Option (Nat × Bool)) (data : Bytes) : Bytes :=
  match t with
  | none => List.replicate 64 0
  | some (o, _) => Aes.xtsEncrypt (s.xtsKey o) (64 * n) 0 (padTo 64 data)

/-- R252, R254: the 72 bytes of a line: data as stored, metadata, check bytes over both. -/
def lineWord (s : State) (n : Nat) (t : Option (Nat × Bool)) (data : Bytes) : List Nat :=
  Ecc.encode (Aes.toNats (lineCipher s n t data ++ leBytes 2 (metaWord t)))

/-- The 72 bytes that were last stored for a line of memory. -/
def storedLine (s : State) (n : Nat) : List Nat :=
  match Mem.tag s.mem n, s.treeLine n with
  | some t, _ => lineWord s n (some (t.owner, t.plane)) (Mem.line s.mem n)
  | none, some b => lineWord s n (some (0, Mem.planePage s.mem (64 * n))) b
  | none, none => lineWord s n none []

/-- The 72 bytes that the cells hold of a line: what was stored, with its erroneous bytes. -/
def cellLine (s : State) (n : Nat) : List Nat :=
  match s.mem.cellErrors.lookup n with
  | some e => Aes.xors (storedLine s n) (Aes.toNats (padTo 72 e))
  | none => storedLine s n

/-- What the check of a line's 72 bytes finds (R252, R253). -/
inductive LineCheck where
  /-- The line as it was stored; up to 3 erroneous bytes are corrected. -/
  | same
  /-- A codeword that was not stored: more errors than the code corrects. -/
  | other (owner : Option (Nat × Bool)) (data : Bytes)
  | uncorrectable
  deriving DecidableEq, Repr

/-- A codeword as a line: its owner and state, its data decrypted; none of a reserved state (R253). -/
def readWord (s : State) (n : Nat) (w : List Nat) : LineCheck :=
  let m := w.getD 64 0 + 256 * w.getD 65 0
  let st := m / 4096
  if st = 0 then .other none []
  else if 3 ≤ st then .uncorrectable
  else .other (some (m % 4096, st == 2)) (Aes.xtsDecrypt (s.xtsKey (m % 4096)) (64 * n) 0 (Aes.ofNats (w.take 64)))

def checkLine (s : State) (n : Nat) : LineCheck :=
  match Ecc.decode (cellLine s n) with
  | none => .uncorrectable
  | some w => if w = storedLine s n then .same else readWord s n w

/-- Erroneous bytes strike the cells of a line; the next read checks them: corrected bytes are written back (R568), an uncorrectable
line keeps its contents and check bytes (R570). -/
def strikeLine (s : State) (n : Nat) (pattern : Bytes) : State :=
  let old := padTo 72 ((s.mem.cellErrors.lookup n).getD [])
  let e := Aes.ofNats (Aes.xors (Aes.toNats old) (Aes.toNats (padTo 72 pattern)))
  let s := { s with mem := { s.mem with cellErrors := (s.mem.cellErrors.filter fun x => x.1 != n) ++ [(n, e)] } }
  match checkLine s n with
  | .same => { s with mem := Mem.mend s.mem n }
  | .other t data => { s with mem := Mem.setLine s.mem n t data }
  | .uncorrectable => { s with mem := Mem.spoil s.mem n }

/-! Flash codewords (R475). -/

/-- R475: a codeword as flash holds it under a key: AES blocks 256k to 256k + 255 of its 16 KiB flash page, whose number is the tweak. -/
def flashCipher (key : BitVec 512) (logical : Nat) (data : Bytes) : Bytes :=
  Aes.xts Aes.encrypt key (logical / 4 % 2 ^ 48) (256 * (logical % 4)) (padTo 4096 data)

/-- What a channel engine reads from such a codeword. -/
def flashPlain (key : BitVec 512) (logical : Nat) (stored : Bytes) : Bytes :=
  Aes.xts Aes.decrypt key (logical / 4 % 2 ^ 48) (256 * (logical % 4)) stored

/-- The data bytes of a physical codeword in the flash array, under the key of its write; a padding codeword and the tag are stored in the
clear. -/
def Cw.stored (w : Cw) : Bytes := flashCipher w.key w.logical w.data

end Sys2Proof.Machine
end

