-- ==== Sys2Proof/Machine/StrandPort.lean ====
section
/-! DEFINITION. Strand ports: training and the states of a port (R425 to R429), control blocks (the table "Control
blocks"), link retry and credits (R430 to R432), egress queues and shapers (R461 to R465). -/

namespace Sys2Proof.Machine

open Sys2Proof

/-- The shore dies are in service and the port exists. -/
def portRuns (s : State) (p : Nat) : Bool := s.up 4 && decide (p < 6)

def State.port (s : State) (p : Nat) : Port := s.strand.ports.getD p Port.cold

/-- The port runs and is in a state. -/
def portIn (s : State) (p : Nat) (st : PortState) : Bool := portRuns s p && (s.port p).state == st

/-- A control block of a type with a good CRC (R442). -/
def blockOk (type : Nat) (b : Bytes) : Bool := b.length == 16 && field b 0 1 == type && crc16 (b.take 14) == field b 14 2

def sendBlock (s : State) (p : Nat) (b : Bytes) : State := s.emit (.block p (sealBlock b))

/-- Lane numbers of a mask. -/
def laneList (mask : Nat) : List Nat := (List.range 9).filter fun i => bit mask i

def laneMask (l : List Nat) : Nat := (l.map (2 ^ ·)).sum

/-! Credits (R431). -/

/-- Return the credits of a frame that leaves an ingress buffer. -/
def returnCredits (s : State) (f : Frame) (pool : Option Pool) : State :=
  match pool with
  | none => s
  | some q => if portIn s q.port .up then sendBlock s q.port (leBytes 1 2 ++ leBytes 1 (q.cls + 16 * q.vc) ++ leBytes 2 f.credits) else s

/-! States of a port. -/

/-- The state that a port starts in (R425, R434). -/
def startState (s : State) (p : Nat) : PortState :=
  if !bit (s.cfg Ent.portEnable) p || s.strand.size (p / 2) == 1 || s.strand.coordFault then .disabled else .detect

/-- The state of the link is gone: what waits in the egress queues is dropped (R429), and ingress credits are void. -/
def clearLink (s : State) (p : Nat) : State :=
  let q := s.port p
  let waiting := q.queues.flatten
  let s := waiting.foldl (fun s w => returnCredits s w.frame w.pool) s
  let s := if waiting.isEmpty then s else s.bump (Ent.portFramesDropped p) waiting.length
  let free (w : Queued) : Queued := match w.pool with
    | some x => if x.port = p then { w with pool := none } else w
    | none => w
  let ports := s.strand.ports.map fun (x : Port) => { x with queues := x.queues.map (·.map free) }
  let s := { s with strand := { s.strand with ports := ports } }
  mapPort s p fun x => { x with
    mask := 0, txSeq := 0, rxSeq := 0, retry := [], credits := List.replicate 48 0
    queues := List.replicate 16 [], deficits := List.replicate 16 0, next := 0, laneSwitch := none }

/-- Enter Detect; from Up, Miswired and Down it counts as a retrain. -/
def enterDetect (s : State) (p : Nat) : State :=
  let st := (s.port p).state
  let s := if st = .up ∨ st = .miswired ∨ st = .down then s.bump (Ent.portRetrains p) else s
  mapPort (clearLink s p) p fun x => { x with state := .detect }

def enterDown (s : State) (p : Nat) : State := mapPort (clearLink s p) p fun x => { x with state := .down }

/-- R426: the Hello block of a port. -/
def helloBlock (s : State) (p : Nat) : Bytes :=
  leBytes 1 5 ++ leBytes 1 p ++ leBytes 3 s.strand.nodeId ++ leBytes 1 (s.strand.dimX - 1) ++ leBytes 1 (s.strand.dimY - 1)
    ++ leBytes 1 (s.strand.dimZ - 1)

/-- R426: the Hello check. -/
def helloPasses (s : State) (p : Nat) (b : Bytes) : Bool :=
  field b 2 3 % 2 ^ 20 == s.strand.neighbourAt p && field b 1 1 == p ^^^ 1 && field b 5 1 + 1 == s.strand.dimX
    && field b 6 1 + 1 == s.strand.dimY && field b 7 1 + 1 == s.strand.dimZ

/-- The lanes that a port carries traffic on, of those that passed alignment: 8, or 4 (R428), or none. -/
def chooseLanes (good : List Nat) : List Nat := if 8 ≤ good.length then good.take 8 else if 4 ≤ good.length then good.take 4 else []

/-- The shaper record of a queue of a port, as it governs now: Rate, Burst, Weight. -/
def shaper (s : State) (p q : Nat) : Nat × Nat × Nat :=
  let b := (s.cfgB (Ent.egressShaperTable p)).drop (12 * q)
  (field b 0 4, field b 4 4, field b 8 1)

/-- R464: the buckets of a port full, where the record applies or the port starts. -/
def fullBuckets (s : State) (p : Nat) : List Nat := (List.range 16).map fun q => (shaper s p q).2.1 * 1024

/-- The ports after their domain's release (R425, R434). -/
def startPorts (s : State) : State :=
  (List.range 6).foldl (fun s p => mapPort s p fun x => { x with state := startState s p, buckets := fullBuckets s p }) s

/-! Lanes (R427, R428, R577). -/

/-- The spare lane of a port is free. -/
def laneSpareFree (s : State) (p : Nat) : Bool := !(s.port p).spareUsed

/-- R427: agree with the neighbour that a lane's traffic moves to the spare. The codeword at which both ends switch is 1,024
ahead of a count that the model does not hold: a free value. -/
def moveLane (s : State) (p lane : Nat) : State :=
  let q := s.port p
  let left := (laneList q.mask).filter (· != lane)
  match (List.range 9).find? fun i => !q.failed.contains i && !(laneList q.mask).contains i with
  | none => s
  | some spare =>
    let mask := laneMask (left ++ [spare])
    let (v, s) := s.drawFree
    let cw := v % 2 ^ 32
    let s := if q.state = .up then
        sendBlock s p (leBytes 1 6 ++ leBytes 1 lane ++ leBytes 4 cw ++ leBytes 1 mask ++ leBytes 1 (mask / 256))
      else s
    mapPort s p fun x => { x with spareUsed := true, laneSwitch := some ⟨lane, cw, mask⟩ }

/-! Link retry (R430). -/

/-- A 16-bit link sequence lies before another: at most half of the sequence space behind. -/
def linkBefore (a b : Nat) : Bool := decide (0 < (b + 65536 - a % 65536) % 65536) && decide ((b + 65536 - a % 65536) % 65536 ≤ 32768)

def retryBytes (q : Port) : Nat := (q.retry.map fun r => r.frame.size).sum

/-- The receiver names the first sequence it has not accepted. -/
def sendNak (s : State) (p : Nat) : State :=
  (sendBlock s p (leBytes 1 4 ++ leBytes 2 (s.port p).rxSeq)).bump (Ent.portLinkRetries p)

def ackLink (s : State) (p link : Nat) : State := sendBlock s p (leBytes 1 3 ++ leBytes 2 link)

/-- R430, R432: the link checks of a frame; true where it is accepted. A stomped frame is discarded with its sequence, and its credits
go back (R431). -/
def linkReceive (s : State) (p link : Nat) (f : Frame) (headerCrc frameCrc : Nat) (fecLost : Bool) : Bool × State :=
  let q := s.port p
  if fecLost then (false, sendNak (s.bump (Ent.portFecUncorrectable p)) p)
  else if headerCrc ≠ f.headerCrc then (false, sendNak s p)
  else if link ≠ q.rxSeq then
    if linkBefore link q.rxSeq then (false, ackLink s p ((q.rxSeq + 65535) % 65536)) else (false, sendNak s p)
  else
    let next (s : State) : State := mapPort (ackLink s p link) p fun x => { x with rxSeq := (link + 1) % 65536 }
    if frameCrc = f.crc then (true, next s)
    else if frameCrc = 2 ^ 32 - 1 - f.crc then (false, returnCredits ((next s).bump (Ent.portStompedFrames p)) f (some ⟨p, f.cls, f.vc⟩))
    else (false, sendNak s p)

/-- A frame as it leaves on a link. -/
def linkFrame (p : Nat) (r : Retry) : Output := if r.stomped then .stomped p r.link r.frame else .frame p r.link r.frame

/-- R435 to R440: forward a frame that came in on a port. -/
def forwardFrame (s : State) (p : Nat) (f : Frame) : State :=
  let pool : Pool := ⟨p, f.cls, f.vc⟩
  if f.hops = 0 then returnCredits (s.bump Ent.hopLimitDrops) f (some pool)
  else match routeOf s f (some (p, f.vc)) with
    | none => returnCredits s.unrouted f (some pool)
    | some (q, vc, ad) => enqueue s q { f with hops := f.hops - 1, vc := vc, adaptive := ad } (some pool)

/-! Egress (R461 to R465). -/

/-- R462, R463, R430: the head frame of a queue may start. -/
def eligible (s : State) (p q : Nat) : Bool :=
  let x := s.port p
  match (x.queues.getD q []).head? with
  | none => false
  | some w =>
    let f := w.frame
    decide (f.credits ≤ x.credit f.cls f.vc)
      && ((shaper s p q).1 == 0 || decide (f.size * 1024 ≤ x.buckets.getD q 0))
      && decide (retryBytes x + f.size ≤ 524288) && decide (x.retry.length < 32768)

def headSize (x : Port) (q : Nat) : Nat := match (x.queues.getD q []).head? with
  | some w => w.frame.size
  | none => 0

/-- R462: deficit-weighted round robin over queues 2 to 15 from the queue in turn: the queue chosen, the deficits, none
where no queue is eligible. A queue that is not in turn gains its quantum when its turn comes. -/
def roundRobin (s : State) (p : Nat) : Nat → Nat → Bool → List Nat → Option (Nat × List Nat)
  | 0, _, _, _ => none
  | n + 1, q, turn, ds =>
    let after := if q ≥ 15 then 2 else q + 1
    if eligible s p q then
      let d := ds.getD q 0 + (if turn then 0 else (shaper s p q).2.2 * 4096)
      let size := headSize (s.port p) q
      if size ≤ d then some (q, ds.set q (d - size)) else roundRobin s p n after false (ds.set q d)
    else roundRobin s p n after false (if ((s.port p).queues.getD q []).isEmpty then ds.set q 0 else ds)

/-- The queue that starts next, with the deficits after it. -/
def chooseQueue (s : State) (p : Nat) : Option (Nat × List Nat) :=
  let x := s.port p
  if eligible s p 0 then some (0, x.deficits)
  else if eligible s p 1 then some (1, x.deficits)
  else roundRobin s p 57 (max 2 x.next) true x.deficits

/-- R465: the bin of a value whose bin 0 lies below `unit` × 2. -/
def histBin (unit v : Nat) : Nat := if v < 2 * unit then 0 else min 15 (Nat.log2 (v / unit))

/-- One more in a histogram counter, which saturates. -/
def histAdd (h : List Nat) (q bin_ : Nat) : List Nat := modifyAt h (q * 16 + bin_) fun n => min (2 ^ 32 - 1) (n + 1)

/-- R465: the delay of a frame in ns. The model's clock has sub-ticks; where in them the frame came and left is a free value (DESIGN
CHOICE, notes/assumptions/35.md). -/
def queueDelay (s : State) (w : Queued) : Nat × State :=
  let (v, s) := s.drawFree
  let ticks := s.subticks - w.at_
  let part := if ticks = 0 then v % 1024 else v % 2048
  (((ticks - 1) * 1024 + part) * s.tide.periodNs / (1024 * 1024), s)

/-- Start the head frame of a queue. -/
def startFrame (s : State) (p q : Nat) (ds : List Nat) : State :=
  let x := s.port p
  match (x.queues.getD q []).head? with
  | none => s
  | some w =>
    let f := w.frame
    let (ns, s) := queueDelay s w
    let shaped := (shaper s p q).1 != 0
    let s := mapPort s p fun x => { x with
      queues := modifyAt x.queues q (·.drop 1)
      credits := modifyAt x.credits (f.cls * 3 + f.vc) (· - f.credits)
      buckets := if shaped then modifyAt x.buckets q (· - f.size * 1024) else x.buckets
      retry := x.retry ++ [(⟨x.txSeq, f, w.stomped⟩ : Retry)], txSeq := (x.txSeq + 1) % 65536
      deficits := ds, next := if 2 ≤ q then q else x.next
      delayHist := histAdd x.delayHist q (histBin 32 ns) }
    let s := (s.emit (linkFrame p ⟨x.txSeq, f, w.stomped⟩)).bump (Ent.egressFramesSent p)
    returnCredits s f w.pool

/-- R432: an error ends a frame whose forwarding has begun, as it has where nothing waits before it and its egress may start (DEDUCED,
notes/assumptions/93.md): the outbound frame ends with the inverse CRC. Its ingress credits go with the good copy. -/
def stompForward (s : State) (p : Nat) (f : Frame) : State :=
  if f.hops = 0 then s
  else match routeOf s f (some (p, f.vc)) with
    | none => s
    | some (q, vc, ad) =>
      let t := mapPort s q fun x => { x with queues := modifyAt x.queues f.cls fun l =>
        l ++ [⟨{ f with hops := f.hops - 1, vc := vc, adaptive := ad }, s.subticks, none, true⟩] }
      if ((s.port q).queues.getD f.cls []).isEmpty && eligible t q f.cls then t else s

/-- R463, R465: what one sub-tick does at a port: shapers refill, depths are sampled. -/
def tickPort (s : State) (p : Nat) : State :=
  let q := s.port p
  let refill := (List.range 16).map fun i =>
    let r := shaper s p i
    min (r.2.1 * 1024) (q.buckets.getD i 0 + r.1)
  let depth (i : Nat) : Nat := ((q.queues.getD i []).map fun (w : Queued) => w.frame.size).sum
  let hist := (List.range 16).foldl (fun h i => histAdd h i (histBin 256 (depth i))) q.depthHist
  mapPort s p fun x => { x with buckets := refill, depthHist := hist }

/-! Commands of the link layer. -/

/-- SIGNAL_DETECT (R425). -/
def execSignalDetect (port : Nat) (s : State) : Result :=
  if portIn s port .detect then .next (mapPort s port fun x => { x with state := .equalise }) else .next s

/-- EQUALISE_DONE (R425). -/
def execEqualiseDone (port : Nat) (s : State) : Result :=
  if portIn s port .equalise then .next (mapPort s port fun x => { x with state := .align }) else .next s

/-- ALIGN_DONE (R425, R422, R428): `lanes` is the mask of the lanes that aligned. -/
def execAlignDone (port lanes : Nat) (reversed : Bool) (polarity : Nat) (s : State) : Result :=
  if !portIn s port .align then .next s
  else
    let good := (laneList lanes).filter fun i => !(s.port port).failed.contains i
    let use := chooseLanes (if (s.port port).fourLanes then good.take 4 else good)
    if use.isEmpty then .next (enterDown s port)
    else
      let s := mapPort s port fun x => { x with
        state := .hello, mask := laneMask use, reversed := reversed, polarity := polarity % 512
        spareUsed := decide (good.length < 9)
        faults := if use.length = 4 then x.faults ||| 2 else x.faults &&& 1, helloTide := s.now }
      .next (sendBlock s port (helloBlock s port))

/-- HELLO (R426). -/
def execHello (port : Nat) (block : Bytes) (s : State) : Result :=
  if !(portIn s port .hello || portIn s port .miswired) || !blockOk 5 block then .next s
  else
    let s := mapPort s port fun x => { x with neighbour := field block 2 3 % 2 ^ 20 }
    if helloPasses s port block then
      let fresh (x : Port) : Port := { x with
        state := .up, faults := x.faults &&& 2, credits := List.replicate 48 128, txSeq := 0, rxSeq := 0, retry := [] }
      .next (mapPort s port fresh)
    else .next (mapPort s port fun x => { x with
      state := .miswired, faults := x.faults ||| 1, helloTide := if x.state = .miswired then x.helloTide else s.now })

/-- TRAIN_TIMEOUT (R425). -/
def execTrainTimeout (port : Nat) (s : State) : Result :=
  if portIn s port .equalise || portIn s port .align then .next (enterDown s port) else .next s

/-- DOWN_RETRY (R425). -/
def execDownRetry (port : Nat) (s : State) : Result :=
  if portIn s port .down then .next (enterDetect s port) else .next s

/-- MISWIRED_HELLO_REPEAT (R426). -/
def execMiswiredHelloRepeat (port : Nat) (s : State) : Result :=
  if portIn s port .miswired && decide ((s.port port).helloTide + 1024 ≤ s.now) then
    .next (sendBlock (mapPort s port fun x => { x with helloTide := s.now }) port (helloBlock s port))
  else .next s

/-- LANEMAP (R427): the neighbour has found one of this port's transmit lanes failing. -/
def execLanemap (port : Nat) (block : Bytes) (s : State) : Result :=
  if !portIn s port .up || !blockOk 6 block then .next s
  else .next (mapPort s port fun x => { x with
    laneSwitch := some ⟨field block 1 1, field block 2 4, field block 6 1 + 256 * (field block 7 1 % 2)⟩ })

/-- LANE_SWITCH (R427): the codeword of the switch has come. -/
def execLaneSwitch (port : Nat) (s : State) : Result :=
  if !portRuns s port then .next s
  else match (s.port port).laneSwitch with
    | none => .next s
    | some w => .next (mapPort s port fun x => { x with mask := w.mask, laneSwitch := none, spareUsed := true })

/-- CREDIT (R431). -/
def execCredit (port : Nat) (block : Bytes) (s : State) : Result :=
  if !portIn s port .up || !blockOk 2 block then .next s
  else
    let i := field block 1 1 % 16 * 3 + field block 1 1 / 16 % 4
    if field block 1 1 / 16 % 4 = 3 then .next s
    else .next (mapPort s port fun x => { x with credits := modifyAt x.credits i fun n => min 128 (n + field block 2 2) })

/-- ACK (R430). -/
def execAck (port : Nat) (block : Bytes) (s : State) : Result :=
  if !portIn s port .up || !blockOk 3 block then .next s
  else
    let n := field block 1 2
    .next (mapPort s port fun x => { x with retry := x.retry.filter fun r => !(r.link == n || linkBefore r.link n) })

/-- NAK (R430): the sender retransmits from the named frame on. -/
def execNak (port : Nat) (block : Bytes) (s : State) : Result :=
  if !portIn s port .up || !blockOk 4 block then .next s
  else
    let n := field block 1 2
    let s := mapPort s port fun x => { x with retry := x.retry.filter fun r => !linkBefore r.link n }
    .next ((s.port port).retry.foldl (fun s r => s.emit (linkFrame port r)) s)

/-- EGRESS_SELECT (R462). -/
def execEgressSelect (port : Nat) (s : State) : Result :=
  if !portIn s port .up then .next s
  else match chooseQueue s port with
    | none => .next s
    | some (q, ds) => .next (startFrame s port q ds)

/-- HISTOGRAM_PERIOD (R465): at a boundary that is a multiple of HistPeriod. -/
def execHistogramPeriod (s : State) : Result :=
  let n := s.cfg Ent.histPeriod
  if !s.up 4 || n == 0 || s.now % n != 0 then .next s
  else
    let copy (s : State) (p : Nat) : State :=
      let q := s.port p
      let s := s.setVal (Ent.egressDepthHistogram p) (.b (q.depthHist.flatMap (leBytes 4)))
      let s := s.setVal (Ent.egressDelayHistogram p) (.b (q.delayHist.flatMap (leBytes 4)))
      mapPort s p fun x => { x with depthHist := List.replicate 256 0, delayHist := List.replicate 256 0 }
    .next ((List.range 6).foldl copy s)

end Sys2Proof.Machine
end

