-- ==== Sys2Proof/Machine/Faults.lean ====
section
/-! DEFINITION. Errors, targeted self-tests, spares (17_reliability.md R567 to R581, 01_architecture.md R17 to R22), lost lines
(R405, R407). -/

namespace Sys2Proof.Machine

open Sys2Proof

/-! Units and parents. -/

def unitKind (u : Nat) : Nat := u / 2 ^ 24
def unitInst (u : Nat) : Nat := u % 2 ^ 24

/-- The units whose targeted test is that of a row (R572). -/
def isRowUnit (u : Nat) : Bool := unitKind u == 3 || unitKind u == 4 || unitKind u == 5

/-- The cluster of a core, matrix engine or L2 segment. -/
def unitCluster (u : Nat) : Option Nat :=
  if unitKind u = 1 then some (unitInst u / 16) else if unitKind u = 2 then some (unitInst u)
  else if unitKind u = 3 then some (unitInst u / 64) else none

/-- The parent unit within which spares of a kind are brought in one at a time (R575). -/
def parentOf (u : Nat) : Nat :=
  match unitKind u with
  | 1 => unitInst u / 16
  | 2 => 2 ^ 28 + unitInst u
  | 6 => 2 ^ 29 + unitInst u / 128
  | 8 => 2 ^ 30 + unitInst u / 16
  | 10 => 2 ^ 31 + unitInst u / 8192
  | _ => u * 2 ^ 32

/-- A place inside a unit under test: an L1 or register event of a core under test is the core's own unit ID, so that the
same unit ID means the same test but for rows, which are tested each (R573). -/
def sameTest (t : Test) (u place : Nat) : Bool := t.unit == u && (!isRowUnit u || t.place == place)

/-! Spares (the table "Spare kinds"). -/

/-- Spares of a kind in one parent unit. -/
def sparesOf (kind : Nat) : Nat :=
  match kind with
  | 1 => 1 | 2 => 1 | 3 => 2 | 4 => 2 | 5 => 4 | 6 => 2 | 7 => 1024 | 8 => 8 | 9 => 1 | 12 => 64
  | _ => 0

/-- Spares built in the part, by kind: what SpareInventory reports. -/
def sparesBuilt (kind : Nat) : Nat :=
  match kind with
  | 1 => 36 | 2 => 4 | 3 => 72 | 4 => 72 | 5 => 271360 | 6 => 135680 | 7 => 4194304 | 8 => 1024 | 9 => 6 | 12 => 128
  | _ => 0

def spareUsed (s : State) (kind parent : Nat) : Nat :=
  match s.rel.spares.find? fun x => x.kind == kind && x.parent == parent with
  | some x => x.used
  | none => 0

def spareFree (s : State) (kind parent : Nat) : Bool := decide (spareUsed s kind parent < sparesOf kind)

def takeSpare (s : State) (kind parent : Nat) : State :=
  let n := spareUsed s kind parent
  let rest := s.rel.spares.filter fun x => !(x.kind == kind && x.parent == parent)
  { s with rel := { s.rel with spares := rest ++ [(⟨kind, parent, n + 1⟩ : SpareUse)] } }

/-- The spare kind of a row of a unit. -/
def rowKind (u : Nat) : Nat := if unitKind u = 5 then 7 else 5

/-- R572: a row is served from the lowest spare row that is free. -/
def mapRow (s : State) (u row : Nat) : State :=
  let kind := rowKind u
  let k := ((List.range (sparesOf kind)).find? fun k => !s.rel.spareRows.any fun x => x.1 == u && x.2.2 == k).getD 0
  let s := takeSpare s kind u
  { s with rel := { s.rel with spareRows := s.rel.spareRows ++ [(u, row, k)] } }

/-- R572 step 4: a row is served from where it was before, and its latest spare is free again. -/
def RelUnit.unmapRow (r : RelUnit) (u row : Nat) : RelUnit :=
  match (r.spareRows.filter fun x => x.1 == u && x.2.1 == row).getLast? with
  | none => r
  | some x => { r with
    spareRows := r.spareRows.erase x
    spares := r.spares.map fun y => if y.kind == rowKind u && y.parent == u then { y with used := y.used - 1 } else y }

/-- R581: no spare of a kind was free. -/
def degrade (s : State) (kind : Nat) : State := s.setNum Ent.degradedFlags (s.num Ent.degradedFlags ||| 2 ^ kind)

/-! Clusters and cores (R17 to R20, R399). -/

/-- R399: every dirty line that an L1 of a cluster holds is written back, and its copies are dropped. -/
def leaveCaches (s : State) (cluster : Nat) : State :=
  ((s.coh.l1.filter fun x => x.core / 16 == cluster).map (·.line)).foldl Coh.flush s

/-- What a lasting fault brings in: its outcome, the spare kind, the status of its record. -/
structure Verdict where
  outcome : Nat
  spare : Nat
  status : Nat
  deriving DecidableEq, Repr

def Verdict.with_ (kind : Nat) : Verdict := ⟨Oc.spare, kind, St.ok⟩
def Verdict.without : Verdict := ⟨Oc.noSpare, 0, St.spareExhausted⟩

/-- A spare taken inside a cluster: its core, the rows and columns of its matrix engine, the rows and columns of the segments of
its L2 slice. -/
def insideCluster (cluster : Nat) (x : SpareUse) : Bool :=
  if x.kind = 5 ∨ x.kind = 6 then unitKind x.parent == 3 && unitCluster x.parent == some cluster
  else (x.kind == 1 || x.kind == 3 || x.kind == 4) && x.parent == cluster

/-- R18, R20: the die's spare cluster comes in with its own cores, engine and L2 segments, or the cluster leaves service. A
cluster that has left service already has nothing more to lose. -/
def clusterFault (s : State) (cluster : Nat) : Verdict × State :=
  if s.rel.deadClusters.contains cluster then (.without, s) else
  let die := cluster / 8
  let s := Coh.emptySlice (leaveCaches s cluster) cluster
  if spareFree s 2 die then
    let s := takeSpare s 2 die
    (.with_ 2, { s with rel := { s.rel with
      clusterOn := s.rel.clusterOn ++ [(die, cluster)]
      deadCores := s.rel.deadCores.filter fun c => c / 16 != cluster
      badColumns := s.rel.badColumns.filter fun b => !(unitKind b.1 == 3 && unitCluster b.1 == some cluster)
      spareRows := s.rel.spareRows.filter fun b => !(unitKind b.1 == 3 && unitCluster b.1 == some cluster)
      spares := s.rel.spares.filter fun x => !insideCluster cluster x } })
  else
    (.without, Coh.passSlots (degrade { s with rel := { s.rel with deadClusters := s.rel.deadClusters ++ [cluster] } } 2) cluster)

/-- Neither a core nor its cluster has left service (R19, R20). -/
def coreStands (s : State) (core : Nat) : Bool := !(s.rel.deadCores.contains core || s.rel.deadClusters.contains (core / 16))

/-- An agent whose cache requests are served: an agent that is no core, or a core in service. While a core is under test its cluster's spare
core serves in its place, where that is free (R571). -/
def coreServes (s : State) (core : Nat) : Bool :=
  decide (512 ≤ core) || (coreStands s core && (spareFree s 1 (core / 16) || !s.rel.tests.any fun t => t.begun && t.unit == unitId 1 core))

/-- R17, R19. A core that has left service is not removed again. The manual does not say what becomes of the lines in the L1 of a
core that a spare replaces or that leaves service: they stay held under the core's number (DESIGN CHOICE,
notes/assumptions/79.md). -/
def coreFault (s : State) (core : Nat) : Verdict × State :=
  let cluster := core / 16
  if !coreStands s core then (.without, s)
  else if spareFree s 1 cluster then (.with_ 1, takeSpare s 1 cluster)
  else if spareFree s 2 (cluster / 8) then clusterFault (degrade s 1) cluster
  else
    let s := degrade { s with rel := { s.rel with deadCores := s.rel.deadCores ++ [core] } } 1
    if (s.rel.deadCores.filter fun c => c / 16 == cluster).length < 16 then (.without, s) else clusterFault s cluster

/-! Pages out of service (R574). -/

/-- What names a Fixed page names another: the page table and the unit that holds it. -/
def moveFixed (s : State) (a b : Nat) : State :=
  let swap (x : Nat) : Nat := if x = a then b else x
  let fixF (f : FixedPage) : FixedPage := { f with addr := swap f.addr }
  let fixG (g : GraphSlot) : GraphSlot :=
    { g with pages := g.pages.map swap, places := g.places.map fun p => (p.1, p.2.map swap) }
  -- R406: the marks of lost lines go with their page.
  let moved (x : Nat) : Nat := if pageOf x = a then b + x % 65536 else x
  { s with
    flash := { s.flash with mapPages := s.flash.mapPages.map swap }, strand := { s.strand with replayPages := s.strand.replayPages.map swap }
    berth := { s.berth with recordPages := s.berth.recordPages.map fun p => (p.1, swap p.2) }
    mem := { s.mem with fixed := s.mem.fixed.map fixF }, coh := { s.coh with lost := s.coh.lost.map moved }, gph := { s.gph with slots := s.gph.slots.map fixG } }

/-- R574: node firmware copies a Fixed page to a new page; uncorrectable lines stay so. -/
def copyFixed (s : State) (a : Nat) : State :=
  match (if a < stackEnd then Mem.findStack s.mem else Mem.findShelf s.mem) with
  | none => s
  | some b =>
    let s := Coh.flushPage s a
    let mine := s.mem.tags.filter fun t => lineOf a ≤ t.line && t.line < lineOf a + 1024
    let v : Move := ⟨.hdm 0, .stack b, []⟩
    let m := copyBad v a b (mine.foldl (copyLine v a b) s.mem)
    moveFixed { s with mem := Mem.freePage m a, coh := Coh.dropPage s.coh b } a b

/-- R271, R574: a page out of service whose contents can leave it now: a structure of the index and any other Fixed page are copied, a Tiered
page that is not busy and not in a move starts to move. It is off the list once nothing of it is left there. -/
def leavePage (s : State) (a : Nat) : State :=
  let done (s : State) : State := { s with mem := { s.mem with leaving := s.mem.leaving.filter (· != a) } }
  match s.partIn a, Mem.pageAt s.mem a with
  | some p, _ => let s := moveExtent s p; if (s.partIn a).isSome then s else done s
  | none, some p =>
    if pageBusy s p || (Mem.move s.mem p.id).isSome || inNeap s then s
    else match Mem.findStack s.mem with
      | some b => startToMemory s p (.stack b)
      | none => s
  | none, none =>
    if s.mem.fixed.any (fun f => f.addr == a) then
      let s := copyFixed s a
      if s.mem.fixed.any (fun f => f.addr == a) then s else done s
    else done s

/-- The pages out of service whose contents still lie there, at a boundary. -/
def leavePages (s : State) : State := s.mem.leaving.foldl leavePage s

/-- R574: a page goes out of service. -/
def retirePage (s : State) (a : Nat) : State :=
  if s.mem.retired.contains a ∨ !validAddr a then s
  else
    let s := { s with mem := { s.mem with retired := s.mem.retired ++ [a], leaving := s.mem.leaving ++ [a] } }
    let k := if a < stackEnd then Ent.stackBytes else Ent.shelfBytes
    let s := (s.setNum k (s.num k - 65536)).bump Ent.retiredPages
    if (Mem.pageAt s.mem a).isSome then leavePage s a else s

/-! Lasting faults. -/

/-- A row of a unit has a lasting fault (R572, R574): one that its test has put on a spare stays there. A column that failed in two rows of a
segment is replaced too. -/
def rowFault (s : State) (u place : Nat) (column : Option Nat) (tested : Bool) (detail : Nat) : Verdict × State :=
  let kind := rowKind u
  if tested || spareFree s kind u then
    let s := if tested then s else mapRow s u place
    let again := s.rel.badColumns.any fun (b : Nat × Nat × Nat) => b.1 == u && column == some b.2.2 && b.2.1 != place
    let s := { s with rel := { s.rel with badColumns := s.rel.badColumns ++ column.toList.map fun k => (u, place, k) } }
    (.with_ kind, if !again || kind != 5 then s else if spareFree s 6 u then takeSpare s 6 u else degrade s 6)
  else (.without, let s := degrade s kind; if unitKind u = 3 then s else retirePage s (pageOf detail))

/-- R427, R577, R428: a failed lane's traffic is on the spare, or goes there where the spare is free; where it is in use the port retrains
on 4 lanes, or goes Down. -/
def laneFault (s : State) (port lane : Nat) : Verdict × State :=
  let q := s.port port
  let moved := !bit q.mask lane || q.laneSwitch.any fun w => w.lane == lane
  let s := mapPort s port fun p => { p with failed := (p.failed ++ [lane]).eraseDups }
  if spareFree s 9 port && (moved || laneSpareFree s port) then
    let s := takeSpare s 9 port
    (.with_ 9, if moved then mapPort s port fun p => { p with spareUsed := true } else moveLane s port lane)
  else
    let s := mapPort (degrade s 9) port fun p => { p with fourLanes := true }
    let good := (List.range 9).filter fun i => !(s.port port).failed.contains i
    (.without, if (s.port port).state = .disabled then s else if good.length < 4 then enterDown s port else enterDetect s port)

/-- R506, R581: the blocks of a die that leaves service, and its raw bytes: its share of the data blocks, the spares and the journal reserve,
which data blocks then make up (R580; DESIGN CHOICE, notes/assumptions/19.md). -/
def loseDie (s : State) (c : Chan) (die : Nat) : State :=
  let left := c.targets * c.luns - (s.flash.deadDies.filter fun d => d.1 == c.num).length
  let share (n : Nat) : Nat := n / max 1 left
  let mine (b : Block) : Bool := b.chan == c.num && Flash.dieOf c b.num == die
  let u := Flash.mapChan s.flash c.num fun x => { x with inService := x.inService - share x.inService - share x.reserve, spares := x.spares - share x.spares }
  let s := { s with flash := { u with
    deadDies := u.deadDies ++ [(c.num, die)], blocks := u.blocks.map fun b => if mine b then { b with stage := .retired } else b } }
  let s := (u.blocks.filter fun b => mine b && b.stage != .retired).foldl (fun s (b : Block) =>
    { s with flash := Flash.journalRetirement s.flash s.subticks b.chan b.num }) s
  let s := s.bump Ent.retiredBlocks (share c.inService + share c.reserve + share c.spares)
  let s := s.setNum (Ent.chanChannelSparesFree c.num) (c.spares - share c.spares)
  let s := s.setNum Ent.spareBlocksFree (s.num Ent.spareBlocksFree - share c.spares)
  s.setNum Ent.flashRawBytes (s.num Ent.flashRawBytes - c.lunBytes)

/-- R506: a flash die leaves service: its blocks retire, its codewords are lost, copies with a record on it refill, Parked
berths with a page on it are Lost. -/
def dieFault (s : State) (n target lun : Nat) : State :=
  match (Flash.chan s.flash n).bind fun c => (Flash.dieAt c target lun).map fun d => (c, d) with
  | none => s
  | some (c, die) =>
    if s.flash.deadDies.contains (n, die) then s else
    let mine (b : Nat) : Bool := Flash.dieOf c b == die
    let gone := (s.flash.map.filter fun m => m.2.chan == n && mine m.2.block).map (·.1)
    let s := loseDie s c die
    let s := { s with flash := { s.flash with
      lost := (s.flash.lost ++ gone).eraseDups, map := s.flash.map.filter fun m => !(m.2.chan == n && mine m.2.block) } }.bump Ent.lostCodewords gone.length
    let hit (p : ShoalCopy) : Bool := s.idx.records.any fun r =>
      let q := s.params p.coll
      (s.idx.leaves.any fun l => l.id == leafOf r.local_ && l.coll == p.coll && l.shoal == p.shoal)
        && (recordLogical (recordCodewords q.vecBytes q.metaBytes) r.local_).any fun l => gone.contains l
    let s := (s.idx.copies.filter hit).foldl (fun s p => startFill (s.bump (Ent.collStStaleEvents p.coll)) p.coll p.shoal p.replica) s
    let hurt (h : HomeBerth) : Bool := h.parkedPages.any fun p => (Berth.parkedCodewords h.num p.1).any fun l => gone.contains l
    let dead (h : HomeBerth) : Bool := h.state == .parked && hurt h
    let s := s.bump Ent.berthsLost (s.berth.homes.filter dead).length
    (s.berth.homes.filter hurt).foldl (fun s h => Berth.mapRecord s h.num fun h =>
      { h with state := if h.state == .parked then .lost else h.state, parkedCopy := false }) s

/-- The place that stands for a cluster's own logic outside its cores and its matrix engine (R20): a matrix engine has rows 0-129
and columns 130-259. -/
def clusterLogic : Nat := 260

/-- R579: a key cell has no good copy in a block: no spare was left for it, or its test, which writes it again from the other block, has not
ended. -/
def keyBad (s : State) (block slot : Nat) : Bool :=
  s.rel.badKeys.contains (block, slot)
    || s.rel.tests.any fun t => unitKind t.unit == 10 && unitInst t.unit / 8192 == block && t.events.any fun e => e.detail == slot

/-- R571: what the lasting fault of a unit brings in. -/
def lastingFault (s : State) (u place : Nat) (column : Option Nat) (tested : Bool) (detail : Nat) : Verdict × State :=
  let i := unitInst u
  match unitKind u with
  | 1 => coreFault s i
  | 2 =>
    let k := if place < 130 then 3 else 4
    if clusterLogic ≤ place then clusterFault s i
    else if spareFree s k i then (.with_ k, takeSpare s k i) else clusterFault (degrade s k) i
  | 3 => rowFault s u place column tested detail
  | 4 => rowFault s u place column tested detail
  | 5 => rowFault s u place column tested detail
  | 6 =>
    let ch := i / 128
    if spareFree s 8 ch then (.with_ 8, takeSpare s 8 ch)
    else (.without, degrade { s with rel := { s.rel with halfChannels := s.rel.halfChannels ++ [ch] } } 8)
  | 7 =>
    (⟨Oc.emulated, 0, St.ok⟩, Nb.mapBank s i fun b => { b with emulated := true })
  | 8 => laneFault s (i / 16) (i % 16)
  | 9 => (⟨Oc.noSpare, 0, St.ok⟩, dieFault s (i / 256) (i / 16 % 16) (i % 16))
  | 10 =>
    let block := i / 8192
    if spareFree s 12 block then (.with_ 12, takeSpare s 12 block)
    else (⟨Oc.noSpare, 0, if keyBad s (1 - block) detail then St.accessDenied else St.spareExhausted⟩,
      degrade { s with rel := { s.rel with badKeys := s.rel.badKeys ++ [(block, detail)] } } 12)
  | _ => (.without, s)

/-! Classification (R573). -/

/-- What counts and holdoffs are kept for: a row where rows are tested each, else the unit. -/
def testPlace (u place : Nat) : Nat := if isRowUnit u then place else 0

/-- Transient events of a unit or row within TransientWindowTides. -/
def transientCount (s : State) (u place : Nat) : Nat :=
  (s.rel.transients.filter fun t => t.1 == u && t.2.1 == testPlace u place && decide (s.now < t.2.2 + s.cfg Ent.transientWindowTides)).length

/-- Count and log one event as transient. -/
def noteTransient (s : State) (u place : Nat) (e : EventWait) : State :=
  let s := { s with rel := { s.rel with transients := s.rel.transients ++ [(u, testPlace u place, s.now)] } }
  (s.bump Ent.transientEvents).logEventAt e.tide e.phase e.code Oc.transient e.status 0 u e.detail

/-- A test that an error did not ask for (0xF000.01, R628) has failed: the table of event codes has no code for what it found, and
the code is a free value (DESIGN CHOICE, notes/assumptions/72.md). -/
def foundByTest (s : State) : List EventWait × State :=
  let (v, s) := s.drawFree
  ([⟨v % 256, St.ok, 0, s.now, s.tide.phase⟩], s)

/-- The node physical address of a row of the bank or segment that a unit names. -/
def rowAddress (u place : Nat) : Nat :=
  if unitKind u = 5 then Nb.rowAddr (unitInst u) place else shelfBase + unitInst u * 2 ^ 18

/-- Handle a unit's lasting fault and log its events (R571, R579, R581). -/
def noteLasting (s : State) (u place : Nat) (column : Option Nat) (tested : Bool) (es : List EventWait) : State :=
  let r := lastingFault s u place column tested ((es.head?.map (·.detail)).getD (rowAddress u place))
  let (es, t) := if es.isEmpty then foundByTest r.2 else (es, r.2)
  let status (e : EventWait) : Nat := if r.1.status = St.ok ∨ e.status = St.accessDenied then e.status else r.1.status
  es.foldl (fun s e => (s.bump Ent.lastingFaults).logEventAt e.tide e.phase e.code r.1.outcome (status e) r.1.spare u e.detail) t

/-- Classify an event from its count alone (R572, R573): the limit makes it lasting. -/
def classifyByCount (s : State) (u place : Nat) (e : EventWait) : State :=
  if s.cfg Ent.transientLimit ≤ transientCount s u place + 1 then noteLasting s u place none false [e] else noteTransient s u place e

/-- The lowest free block on a flash die, out of use while its test programs, reads and erases it (R578); blocks never used before it are
listed as free. -/
def takeDieBlock (s : State) (u : Nat) : Option (Nat × Nat) × State :=
  let n := unitInst u / 256
  match (Flash.chan s.flash n).bind fun c => (Flash.dieAt c (unitInst u / 16 % 16) (unitInst u % 16)).map fun d => (c, d) with
  | none => (none, s)
  | some (c, die) =>
    if Flash.free s.flash c false = 0 ∨ s.flash.deadDies.contains (n, die) then (none, s)
    else
      let isHere (b : Block) : Bool := b.chan == n && b.stage == .free && !b.reserve && Flash.dieOf c b.num == die
      let unused := (List.range (c.targets * c.luns)).map (c.fresh + ·)
      let more : List Nat := if s.flash.blocks.any isHere then [] else match unused.find? fun k => Flash.dieOf c k == die with
        | some k => (unused.filter fun j => decide (j ≤ k)).filter fun j => !s.flash.deadDies.contains (n, Flash.dieOf c j)
        | none => []
      let fresh (k : Nat) : Block := { chan := n, num := k, stage := .free, erases := 0, reads := 0, fails := 0, reserve := false, openedEpoch := 0
                                       flushedCws := 0, marked := false, oldest := 0, movedEpoch := 0, cws := [] }
      let u := { s.flash with blocks := s.flash.blocks ++ more.map fresh }
      let u := if more.isEmpty then u else Flash.mapChan u n fun x => { x with fresh := more.foldl max 0 + 1 }
      match (u.blocks.filter isHere).foldl (fun (a : Option Block) b => match a with
          | none => some b
          | some x => if b.num < x.num then some b else some x) none with
      | none => (none, { s with flash := u })
      | some b => (some (n, b.num), { s with flash := Flash.mapBlock u n b.num fun x => { x with stage := .erasing } })

/-- A flash die's test has ended: its block is free again, erased once more. -/
def freeDieBlock (s : State) (t : Test) : State :=
  match t.block with
  | none => s
  | some p => { s with flash := Flash.mapBlock s.flash p.1 p.2 fun x =>
      if x.stage == .erasing then { x with stage := .free, erases := x.erases + 1, reads := 0, fails := 0, flushedCws := 0, marked := false, cws := [] } else x }

/-- A test begins: its row is served from a spare (R572), a Strand lane's traffic moves to a free spare (R577), a flash die's test takes a
block (R578). -/
def beginTest (s : State) (t : Test) : State :=
  let x := if unitKind t.unit = 9 then takeDieBlock s t.unit else (none, s)
  let s := x.2
  let fix (y : Test) : Test := if y.unit = t.unit ∧ y.place = t.place then { y with begun := true, began := s.subticks, block := x.1 } else y
  let s := { s with rel := { s.rel with tests := s.rel.tests.map fix } }
  let port := unitInst t.unit / 16
  if isRowUnit t.unit then mapRow s t.unit t.place
  else if unitKind t.unit = 8 ∧ laneSpareFree s port ∧ bit (s.port port).mask (t.unit % 16) then moveLane s port (t.unit % 16)
  else s

def dropTest (s : State) (t : Test) : State :=
  { s with rel := { s.rel with tests := s.rel.tests.filter fun x => !(x.unit == t.unit && x.place == t.place) } }

/-- R575: the first test of a parent unit begins once none before it is left; a row without a free spare row cannot be tested, and its events
are classified from the count (R572). -/
def beginNext : Nat → State → Nat → State
  | 0, s, _ => s
  | n + 1, s, p => match s.rel.tests.find? fun t => parentOf t.unit == p with
    | none => s
    | some t =>
      if t.begun then s
      else if isRowUnit t.unit && !spareFree s (rowKind t.unit) t.unit then
        beginNext n (t.events.foldl (fun s e => classifyByCount s t.unit t.place e) (dropTest s t)) p
      else beginTest s t

/-- Ask for a targeted test; it begins at once where no other of its parent unit runs. -/
def startTest (s : State) (u place : Nat) (events : List EventWait) (requested afterReset : Bool) : State :=
  let s := { s with rel := { s.rel with tests := s.rel.tests ++ [(⟨u, place, false, s.subticks, events, requested, afterReset, none⟩ : Test)] } }
  beginNext (s.rel.tests.length + 1) s (parentOf u)

/-- R577: a tested lane that passes is the port's new spare. -/
def lanePassed (s : State) (u : Nat) : State :=
  let port := unitInst u / 16
  if unitKind u = 8 ∧ !(bit (s.port port).mask (u % 16) && (s.port port).laneSwitch.isNone) then
    mapPort s port fun p => { p with spareUsed := false }
  else s

/-- R567, R573: an error event of a unit that has a test. -/
def raiseEvent (s : State) (u place : Nat) (e : EventWait) : State :=
  let within (t : Test) : Bool := sameTest t u place
  if s.rel.tests.any within then
    let join (t : Test) : Test := if within t then { t with events := t.events ++ [e] } else t
    { s with rel := { s.rel with tests := s.rel.tests.map join } }
  else
    let fresh := s.rel.passed.any fun p => p.1 == u && p.2.1 == testPlace u place && decide (s.now < p.2.2 + s.cfg Ent.selfTestHoldoffTides)
    if fresh then classifyByCount s u place e else startTest s u place [e] false false

/-- R572 step 4: a row that has passed leaves its spare. -/
def rowPassed (s : State) (t : Test) : State := if isRowUnit t.unit then { s with rel := s.rel.unmapRow t.unit t.place } else s

/-- R573, R575, R576: a test has ended, and the next one of its parent unit begins. -/
def endTest (s : State) (t : Test) (column : Nat) (passed : Bool) : State :=
  let s := freeDieBlock (dropTest s t) t
  let lasting := !passed || (!t.events.isEmpty && decide (s.cfg Ent.transientLimit ≤ transientCount s t.unit t.place))
  let here (p : Nat × Nat × Nat) : Bool := p.1 == t.unit && p.2.1 == testPlace t.unit t.place
  let s := if passed then { s with rel := { s.rel with passed := (s.rel.passed.filter fun p => !here p) ++ [(t.unit, testPlace t.unit t.place, s.now)] } } else s
  let s := if !lasting then t.events.foldl (fun s e => noteTransient s t.unit t.place e) (rowPassed (lanePassed s t.unit) t)
    else noteLasting s t.unit t.place (if passed then none else some column) true t.events
  beginNext (s.rel.tests.length + 1) s (parentOf t.unit)

/-! Error events of the node (R567). -/

/-- R405: a dirty line whose copy is uncorrectable is lost; R407 where LostLines is full. -/
def loseLine (s : State) (line : Nat) : State :=
  let dirty := (Coh.holder s.coh line true).isSome || (match Coh.inSlice s.coh line with
    | some x => x.dirty
    | none => false)
  let s := { s with coh := Coh.dropLine s.coh line }
  if !dirty ∨ s.coh.lost.contains (line * 64) then s
  else if s.coh.lost.length < 4096 then { s with coh := { s.coh with lost := s.coh.lost ++ [line * 64] } }
  else
    let s := (s.bump Ent.lastingFaults).logEvent 0x13 Oc.noSpare St.ok 0 nodeUnit 0
    { s with coh := { s.coh with fullFrom := some (s.coh.fullFrom.getD (s.now + 1)) } }

/-- The codes that are error events of a tested unit. -/
def isErrorCode (c : Nat) : Bool := decide (1 ≤ c) && decide (c ≤ 0x0B)

/-- What a detected error does to stored data before its classification (R252, R253, R405, R568, R570). -/
def markError (s : State) (r : Sys2Proof.ErrorReport) : State :=
  if (r.code = 1 ∨ r.code = 2) ∧ !r.cells.isEmpty then strikeLine s (lineOf r.detail) r.cells
  else if r.code = 2 then { s with mem := Mem.spoil s.mem (lineOf r.detail) }
  else if r.code = 4 then loseLine s (lineOf r.detail)
  else s

/-- The status that the affected request has been given. -/
def errorStatus (code : Nat) : Nat := if code = 2 ∨ code = 4 ∨ code = 8 then St.uncorrectable else St.ok

/-- R567: an error event. -/
def detect (s : State) (r : Sys2Proof.ErrorReport) : State :=
  if isErrorCode r.code then
    let s := (markError s r).bump Ent.errorEvents
    let e : EventWait := ⟨r.code, errorStatus r.code, r.detail, s.now, s.tide.phase⟩
    if unitKind r.unit = 0x0B ∨ unitKind r.unit = 0x0C then s.logEvent r.code Oc.info e.status 0 r.unit r.detail
    else raiseEvent s r.unit r.place e
  else s.logEvent r.code Oc.info St.ok 0 r.unit r.detail

/-- R319: the bank's targeted self-test after a line that its unit found uncorrectable. -/
def nbLineError (s : State) (bank row : Nat) : State :=
  raiseEvent (s.bump Ent.errorEvents) (unitId 5 bank) row ⟨0x02, St.uncorrectable, Nb.rowAddr bank row, s.now, s.tide.phase⟩

/-- R319: the tests of the rows that work of operators and scans could not read. -/
def settleRows (s : State) : State :=
  s.nb.badRows.foldl (fun s r => nbLineError s r.1 r.2) { s with nb := { s.nb with badRows := [] } }

end Sys2Proof.Machine
end

