-- ==== Sys2Proof/Machine/GraphRows.lean ====
section
/-! DEFINITION. The commands of graphs and runs (10_operator_graphs.md): loads, runs, unloads, and every operator that reads
no embedding table. -/

namespace Sys2Proof.Machine

open Sys2Proof Sys2Proof.Num Sys2Proof.Machine.Graph

/-! Loading and unloading. -/

/-- R327, R348: what an image meets as it was read: nothing of it is judged where the read failed, and its place only after its
verification. -/
def imageRefusals (s : State) (r : Nat × Bytes) (bytes : Nat) : List (Bool × Nat × Nat) :=
  if r.1 ≠ St.ok then [(true, r.1, 0)]
  else
    let st := imageRefusal s r.2 bytes
    if st ≠ St.ok then [(true, st, 0)] else placeRefusals s r.2

/-- A load that ends with a refusal; LoadsRefused counts those of the image (0x5000.11). -/
def refusedLoad (s : State) (cmd : Nat) (r : Nat × Nat) : State :=
  (s.bump Ent.loadsRefused (if r.1 = St.badImage ∨ r.1 = St.badSignature then 1 else 0)).finish cmd r.1 [] r.2

/-- GRAPH_LOAD (R327, R348). Every status that applies is weighed (R12), but nothing of an image over MaxImageBytes is read. -/
def execGraphLoad (cmd : Nat) (image : HostRead) (s : State) : Result :=
  match s.waitingCmd cmd 0x10 with
  | none => .next s
  | some c =>
    let n := field c.desc 4 2
    let bytes := field c.desc 16 8
    if !s.mgmt then .next s
    else if inputHeld s (field c.desc 8 8) bytes then .next (holdInputs s cmd [(field c.desc 8 8, bytes)])
    else
      let descriptor : List (Bool × Nat × Nat) :=
        [ (n == 0 || decide (255 < n) || (slot s n).isSome || field c.desc 8 8 % 64 != 0, St.badJob, 0)
        , (!functionOn s 2, St.retry, functionRetry s 2) ]
      if s.num Ent.maxImageBytes < bytes then .next (refusedLoad s cmd (St.badImage, 0))
      else
        let r := readInput s (field c.desc 8 8) bytes image
        let s := touchInput s (field c.desc 8 8) bytes
        let short := r.1 == St.ok && imageRefusal s r.2 bytes == St.ok && stackShort s r.2
        match worst (descriptor ++ imageRefusals s r bytes) with
        | some q =>
          let noRoom := short && !pagesComing (demoteFor s)
          .next (refusedLoad s cmd ((worst [(true, q.1, q.2), (noRoom, St.retry, s.now + 1)]).getD q))
        | none =>
          if short then .next (waitForPages s cmd fun s => refusedLoad s cmd (St.retry, s.now + 1))
          else .next ((load s n r.2).finish cmd St.ok (leBytes 8 (digest64 r.2)) 0)

/-- GRAPH_UNLOAD (R354). -/
def execGraphUnload (cmd : Nat) (s : State) : Result :=
  match s.waitingCmd cmd 0x12 with
  | none => .next s
  | some c =>
    if !s.mgmt then .next s
    else match (slot s (field c.desc 4 2)).filter fun g => g.stage == .loaded with
    | none => .next (s.refuse cmd St.badJob)
    | some g =>
      let fix (x : GraphSlot) : GraphSlot := if x.num = g.num then { x with stage := .unloading, unload := some cmd } else x
      let s := startCmd s cmd
      .next (({ s with gph := { s.gph with slots := s.gph.slots.map fix } }).setNum (Ent.slotSlotState g.num) 3)

/-- UNLOAD_COMPLETE (R354). -/
def execUnloadComplete (slot : Nat) (s : State) : Result :=
  match (Graph.slot s slot).filter fun g => g.stage == .unloading with
  | none => .next s
  | some g =>
    if !s.mgmt || s.gph.runs.any (fun r => r.slot == slot) then .next s
    else
      let s := clear s g
      .next (match g.unload with
        | some c => s.finish c St.ok [] 0
        | none => s)

/-! Acceptance of a run (R349 to R351, R356, R368). -/

/-- The records of an input or output table: host address and length. -/
def tableRecords (b : Bytes) : List (Nat × Nat) := (records 16 b).map fun r => (field r 0 8, field r 8 8)

/-- R349: the records' lengths are those of the tensors of a kind. -/
def lengthsOk (b : Bytes) (kind : Nat) (rs : List (Nat × Nat)) : Bool :=
  rs.map (·.2) == (ofKind b kind).map fun n => (tensorDef b n).bytes

/-- R349: what the image's berth operators need of a geometry. No operator names a cache format, so an image needs none (DEDUCED,
notes/assumptions/86.md). -/
def geometryFits (b : Bytes) (g : Geometry) : Bool :=
  (List.range (operatorCount b)).all fun i =>
    let e := opEntry b i
    let c := opCode e
    let x := tensorDef b (opIn e 0)
    let o := tensorDef b (opOutT e 0)
    let dh := if c = Op.attendPv then o.last else x.last
    !usesBerth c || (dh == g.headDim && decide (field e 22 1 < g.layers)
      && (if c = Op.berthAppend then x.dims.getD 1 0 == g.kvHeads else field e 24 2 % max 1 g.kvHeads == 0))

/-- The berth as a run meets it: refused, another owner's, Parked here, or served here. -/
def runBerth (s : State) (b : Nat) : Option Berth.Meets × Option HomeBerth :=
  match Berth.meets s b with
  | some (.refuse st) => (some (.refuse st), none)
  | some .stale => (some .stale, (Berth.findHome s (Berth.num b)).filter fun h => Berth.homeHere s b && h.state == .parked)
  | none => (none, none)

/-- The order of acceptance of a waiting run. -/
def runOrder (r : Run) : Nat := match r.use with
  | .command c => c
  | .encode _ => 0

/-- R365: no command or run that was accepted before waits for the same berth (a waiting command does not stand before
itself). -/
def firstInLine (s : State) (b order : Nat) : Bool :=
  (match Berth.find s b with
    | some o => o.waits.all fun w => decide (order ≤ w.cmd)
    | none => match (Berth.findHome s (Berth.num b)).filter fun _ => Berth.homeHere s b with
      | some h => h.waits.all fun w => decide (order ≤ w.cmd)
      | none => true)
    && s.gph.runs.all fun r => !(r.berth == some b && r.waiting && decide (runOrder r < order))

/-- A run must wait for its berth (R351, R365). -/
def runWaits (s : State) (o : OwnedBerth) : Bool :=
  Berth.mustWait s o || !o.waits.isEmpty || s.gph.runs.any fun r => r.berth == some o.id && r.waiting

/-- Accept a run: its scratch pages, stamp, seed, deadline and hold. None where the scratch pages do not fit (R281). -/
def startRun (s : State) (use : RunUse) (g : GraphSlot) (stamp seed deadline : Nat) (berth : Option Nat) (phaseEnd : Bool)
    (inputs : List (Nat × List Nat)) (outputs : List (Nat × Nat)) : Option State :=
  let id := s.gph.nextRun
  let pages := pagesFor g.scratchBytes
  let taken := (List.range pages).foldl (fun (acc : Option State) n => acc.bind fun s =>
    (Mem.allocPage s.mem (.scratch id n) g.owner false s.now).map fun r => { s with mem := r.2 }) (some s)
  taken.map fun s =>
    let waits := match berth.bind (Berth.find s) with
      | some o => runWaits s o
      | none => berth.isSome
    let r : Run :=
      { id := id, use := use, slot := g.num, owner := g.owner, stamp := stamp, seed := seed, deadline := deadline, berth := berth
        phaseEnd := phaseEnd, waiting := waits, pc := 0, tensors := inputs, loops := [], holdTide := none, fills := 0
        streamed := [], scaleVec := [], outputs := outputs, pages := pages, asked := false, answer := 0, needs := [] }
    let s := { s with gph := { s.gph with runs := s.gph.runs ++ [r], nextRun := id + 1 } }.wakeAll
    match berth with
    | some b => if waits then s else Berth.mapOwned s b fun o => { o with holder := some id }
    | none => s

/-- What a run command meets at its berth whatever its slot holds (R349, R364); the wake of a Parked berth needs flash (R533). -/
def berthRefusals (s : State) (d : Bytes) (attend : Bool) : List (Bool × Nat × Nat) :=
  let uses := attend || bit (field d 1 1) 0
  let (m, parked) := runBerth s (field d 40 8)
  let met (st : Nat) : Bool := uses && m == some (.refuse st)
  [ (met St.badJob || (uses && m == some .stale && parked.isSome && !attend), St.badJob, 0)
  , (met St.accessDenied, St.accessDenied, 0)
  , (met St.retry || (attend && parked.isSome && s.num Ent.flashReady == 0), St.retry, s.now + 1)
  , (met St.uncorrectable, St.uncorrectable, 0) ]

/-- R364: a run command that names a berth which another node owns. -/
def runStale (s : State) (d : Bytes) (attend : Bool) : Bool :=
  (attend || bit (field d 1 1) 0) && (runBerth s (field d 40 8)).1 == some .stale && (runBerth s (field d 40 8)).2.isNone

/-- What a run command meets whatever its slot holds (R349, R50, R599, R630). -/
def runBusy (s : State) (d : Bytes) (attend : Bool) : List (Bool × Nat × Nat) :=
  [ (acquiring s, St.retry, s.now + 1)
  , (!functionOn s 2, St.retry, functionRetry s 2)
  , (attend && !functionOn s 3, St.retry, functionRetry s 3)
  , (field d 8 8 == 0 && s.sec.trng != 1, St.retry, s.now + 1)
  , (decide (s.num Ent.runTableSize ≤ s.gph.runs.length), St.retry, s.now + 1) ]

/-- R349, R12: what a run command meets before its inputs are read: the statuses with which its two tables were read, and their
records where both were. -/
def runRefusals (s : State) (d : Bytes) (attend : Bool) (g : GraphSlot) (tables : Nat) (ins outs : List (Nat × Nat)) :
    List (Bool × Nat × Nat) :=
  let b := g.image
  let uses := attend || bit (field d 1 1) 0
  let id := field d 40 8
  let (_, parked) := runBerth s id
  let geo : Option (Geometry × Nat) := match Berth.find s id, parked with
    | some o, _ => some (o.geo, o.ownerSlot)
    | none, some h => some (h.geo, h.ownerSlot)
    | none, none => none
    [ (tables != St.ok, tables, 0)
    , (g.stage != .loaded || (attend && g.kind != 3), St.badJob, 0)
    , (tables == St.ok && (!lengthsOk b 0 ins || !lengthsOk b 1 outs), St.badJob, 0)
    , (!uses && (List.range (operatorCount b)).any fun i => usesBerth (opCode (opEntry b i)), St.badJob, 0)
    , (uses && (match geo with
        | some p => !geometryFits b p.1
        | none => false), St.badJob, 0)
    , (uses && (match geo with
        | some p => p.2 != g.owner
        | none => false), St.accessDenied, 0)
    , (s.slotState g.owner != 1, St.accessDenied, 0) ]
    ++ berthRefusals s d attend ++ runBusy s d attend

/-- The worst of them, where both tables were read. -/
def runRefusal (s : State) (d : Bytes) (attend : Bool) (g : GraphSlot) (ins outs : List (Nat × Nat)) : Option (Nat × Nat) :=
  worst (runRefusals s d attend g St.ok ins outs)

/-- The input of a run command that has been read: start the run, with the wake of a Parked berth. RETRY where the scratch pages do
not fit (R349); the wake waits for its pages (R281, R368). -/
def beginRun (s : State) (cmd : Nat) (at_ : Nat × Nat) (d : Bytes) (attend : Bool) (g : GraphSlot) (parked : Bool) (got : List Bytes) (outs : List (Nat × Nat))
    (refused : State → State) : State :=
  let b := g.image
  let id := field d 40 8
  let drawn := field d 8 8 == 0
  let (rnd, s') := s.drawRandom
  let seed := if drawn then rnd.toNat % (2 ^ 64 - 1) + 1 else field d 8 8
  let dl := if field d 32 4 = 0 then s.cfg Ent.defaultRunDeadline else field d 32 4
  let tensors := ((ofKind b 0).zip got).map fun (q : Nat × Bytes) => (q.1, (patterns (tensorDef b q.1).fmt q.2).take (tensorDef b q.1).elems)
  let s1 := startCmd (if drawn then s'.bump Ent.seedsDrawn else s) cmd
  let begun := startRun s1 (.command cmd) g at_.1 seed (if dl = 0 then 0 else at_.2 + dl)
    (if attend || bit (field d 1 1) 0 then some id else none) (attend && bit (field d 1 1) 1) tensors outs
  match begun with
  | none => waitForPages s cmd refused
  | some s1 =>
    if !parked || !firstInLine s1 id cmd then s1
    else match Berth.startWake s1 id none with
      | none => awaitPages s cmd
      | some s2 => s2

/-- A run command, GRAPH_RUN or ATTEND. Its tables and inputs are read under the image's owner slot (R350). -/
def runCommand (s : State) (cmd : Nat) (c : HostCmd) (attend : Bool) (inTable outTable : HostRead) (inputs : List HostRead) : State :=
  let d := c.desc
  let refused (st retry : Nat) (s : State) : State :=
    s.finish cmd st (if attend then Berth.attendBytes s (field d 40 8) (field d 8 8) 0xFFFF else runBytes (field d 8 8) 0xFFFF) retry
  match slot s (field d 4 2) with
  | none =>
    let r := (worst ((true, St.badJob, 0) :: berthRefusals s d attend ++ runBusy s d attend)).getD (St.badJob, 0)
    if runStale s d attend then Berth.refuseStale s cmd (field d 40 8) else refused r.1 r.2 s
  | some g =>
    let b := g.image
    let n1 := 16 * (ofKind b 0).length
    let n2 := 16 * (ofKind b 1).length
    let t1 := readFor s g.owner (field d 16 8) n1 inTable
    let t2 := readFor s g.owner (field d 24 8) n2 outTable
    if inputHeld s (field d 16 8) n1 || inputHeld s (field d 24 8) n2 then holdInputs s cmd [(field d 16 8, n1), (field d 24 8, n2)]
    else
    let s := touchInput (touchInput s (field d 16 8) n1) (field d 24 8) n2
    let tables := max t1.1 t2.1
    let ins := tableRecords t1.2
    let outs := tableRecords t2.2
    let uses := attend || bit (field d 1 1) 0
    let id := field d 40 8
    let parked := (runBerth s id).2.isSome && uses
    if runStale s d attend && decide (tables ≤ St.staleOwner) then Berth.refuseStale s cmd id
    else match worst (runRefusals s d attend g tables ins outs) with
    | some r => refused r.1 r.2 s
    | none =>
      let got := (ins.zip inputs).map fun q => readFor s g.owner q.1.1 q.1.2 q.2
      let st := if got.length < ins.length then St.accessDenied else (got.map (·.1)).foldl max 0
      if ins.any fun q => inputHeld s q.1 q.2 then holdInputs s cmd ins
      else
      let s := ins.foldl (fun s q => touchInput s q.1 q.2) s
      if st ≠ St.ok then refused st 0 s
      else beginRun s cmd (acceptance s c) d attend g parked (got.map (·.2)) outs (refused St.retry (s.now + 1))

/-- GRAPH_RUN (R349). -/
def execGraphRun (cmd : Nat) (inTable outTable : HostRead) (inputs : List HostRead) (s : State) : Result :=
  match s.waitingCmd cmd 0x11 with
  | none => .next s
  | some c => if s.mgmt then .next (runCommand s cmd c false inTable outTable inputs) else .next s

/-- ATTEND (R368). -/
def execAttendCommand (cmd : Nat) (inTable outTable : HostRead) (inputs : List HostRead) (s : State) : Result :=
  match s.waitingCmd cmd 0x23 with
  | none => .next s
  | some c => if s.mgmt then .next (runCommand s cmd c true inTable outTable inputs) else .next s

/-- The run is an ATTEND's. -/
def isAttend (s : State) (r : Run) : Bool :=
  match r.use with
  | .command c => (match s.cmd c with
    | some h => h.opcode == 0x23
    | none => false)
  | .encode _ => false

/-- RUN_HOLD_RELEASE (R351, R365): a waiting run starts; where the berth has gone, it ends. -/
def execRunHoldRelease (run : Nat) (s : State) : Result :=
  match (Graph.run s run).filter fun r => r.waiting with
  | none => .next s
  | some r =>
    match r.berth with
    | none => .next s
    | some b =>
      if !s.mgmt || !firstInLine s b (runOrder r) then .next s
      else match Berth.find s b with
      | some o =>
        if Berth.mustWait s o || o.unconfirmed || o.expired then .next s
        else .next (mapRun (Berth.mapOwned s b fun o => { o with holder := some run }) run fun r => { r with waiting := false })
      | none =>
        let parked := (runBerth s b).2.isSome
        if parked && isAttend s r then .next ((Berth.startWake s b none).getD (demoteFor s))
        else .next (endRun s r (if parked then St.badJob else St.staleOwner) 0xFFFF)

/-- RUN_DEADLINE (R352). -/
def execRunDeadline (run : Nat) (s : State) : Result :=
  match Graph.run s run with
  | none => .next s
  | some r => if s.mgmt && r.deadline != 0 && decide (r.deadline ≤ s.subticks) then .next (stopRun s r St.deadline) else .next s

/-! Tensor and arithmetic operators. -/

/-- CONVERT (R331). -/
def execConvert (run : Nat) (s : State) : Result := .next (Graph.pure s run Op.convert fun c => opConvert c.r0 (c.x 0))

/-- RESHAPE (R331). -/
def execReshape (run : Nat) (s : State) : Result := .next (Graph.pure s run Op.reshape fun c => ⟨[(c.x 0).pats], {}⟩)

/-- TRANSPOSE (R331). -/
def execTranspose (run : Nat) (s : State) : Result := .next (Graph.pure s run Op.transpose fun c => opTranspose (c.x 0))

/-- ELEMENTWISE (R332). -/
def execElementwise (run : Nat) (s : State) : Result :=
  .next (Graph.pure s run Op.elementwise fun c => opElementwise c.r0 (field c.entry 22 1) (field c.entry 24 4) (c.x 0) (c.xo 1) (c.xo 2))

/-- REDUCE (R214). -/
def execReduce (run : Nat) (s : State) : Result :=
  .next (Graph.pure s run Op.reduce fun c => opReduce c.r0 (field c.entry 22 1) (c.od 0).last (c.x 0))

/-- SOFTMAX (R215). -/
def execSoftmax (run : Nat) (s : State) : Result := .next (Graph.pure s run Op.softmax fun c => opSoftmax c.r0 (c.x 0) (c.xo 1))

/-- NORM (R216). -/
def execNorm (run : Nat) (s : State) : Result :=
  .next (Graph.pure s run Op.norm fun c => opNorm c.r0 (field c.entry 26 1 == 1) (field c.entry 22 4) (c.x 0) (c.x 1) (c.xo 2))

/-- QUANTISE (R194). -/
def execQuantise (run : Nat) (s : State) : Result := .next (Graph.pure s run Op.quantise fun c => opQuantise c.r0 (c.x 0))

/-- DEQUANTISE (R198). -/
def execDequantise (run : Nat) (s : State) : Result := .next (Graph.pure s run Op.dequantise fun c => opDequantise c.r0 (c.x 0) (c.x 1))

/-- R333: the product; a streamed weight is worked through chunk by chunk (R285). -/
def matmulEnds (c : Ctx) (s : State) : Graph.Ended :=
  match streamedWeight c.image c.entry with
  | some w => streamEnds c w s
  | none => .outs (opMatmul c.r0 (c.x 0) (c.x 1) (c.xo 2) (c.xo 3) (c.xo 4)) s

/-- MATMUL (R333). -/
def execMatmul (run : Nat) (s : State) : Result := .next (perform s run Op.matmul matmulEnds)

/-- CHUNK_FILL_DONE (R285): the next chunk of a run has been filled. -/
def execChunkFillDone (run : Nat) (s : State) : Result :=
  match Graph.run s run with
  | none => .next s
  | some r => match Graph.slot s r.slot with
    | none => .next s
    | some g => if !s.mgmt || !s.up 7 || r.waiting || streamBusy s g r then .next s else .next (fillChunk s g r)

/-! Search and list operators. -/

/-- DISTANCE (R334). -/
def execDistance (run : Nat) (s : State) : Result :=
  .next (Graph.pure s run Op.distance fun c => opDistance (field c.entry 22 1) (c.x 0) (c.x 1) (c.xo 2) (c.xo 3))

/-- R167, R168: the output registers and the summary of the latest select operation, for K entries, stay in the engine. -/
def noteSelected (s : State) (k : Nat) (q : List SelEntry × Summary48) : State :=
  { s with gph := { s.gph with selected := (outputRegisters k q.1).flatten.flatMap SelEntry.bytes, summary := Summary48.bytes q.2 } }

/-- The select operations of SELECT: the latest is that on the last row. -/
def noteSelect (s : State) (softmax : Bool) (k : Nat) (x : Tens) (mask : Option Tens) : State :=
  match (selectRows softmax k x mask).getLast? with
  | none => s
  | some q => noteSelected s k q

/-- The select operations of ATTEND (step 3 of R344): the latest is that on the last head's scores. -/
def noteAttend (s : State) (topk : Nat) (ss : List (List Nat)) : State :=
  match ss.getLast? with
  | none => s
  | some x => noteSelected s (if topk = 0 then x.length else topk) (attendSelect topk x)

/-- SELECT (R335). -/
def execSelect (run : Nat) (s : State) : Result :=
  .next (perform s run Op.select fun c s =>
    let softmax := field c.entry 24 1 == 1
    let k := field c.entry 22 2
    .outs (opSelect softmax k (c.x 0) (c.xo 1)) (noteSelect s softmax k (c.x 0) (c.xo 1)))

/-- MERGE (R336). -/
def execMerge (run : Nat) (s : State) : Result :=
  .next (Graph.pure s run Op.merge fun c => opMerge (field c.entry 22 2) (c.x 0) (c.x 1) (c.x 2))

/-- A tensor of int8 elements as bytes. -/
def tensBytes (t : Tens) : Bytes := t.pats.map (BitVec.ofNat 8)

/-- FILTER (R337). A row of In0 is MetadataBytes long in every collection it runs with (R330): one loaded before the collection was opened
meets the rule at its run. -/
def execFilter (run : Nat) (s : State) : Result :=
  .next (perform s run Op.filter fun c s =>
    let coll := field c.entry 22 1
    let schema := (s.params coll).schema
    let f := tensBytes (c.x 2)
    if s.collState coll ≠ 2 ∨ (c.x 0).last ≠ (s.params coll).metaBytes ∨ filterBad f schema then .stops St.badJob {} s
    else
      let lens := (c.x 1).pats.map (ofBits 32)
      .outs ⟨[((c.x 0).rows.zip lens).map fun q => if filterTrue f schema ((q.1.take q.2.toNat).map (BitVec.ofNat 8)) then 1 else 0], {}⟩ s)

/-! Data movement. -/

/-- SCATTER (R338). -/
def execScatter (run : Nat) (s : State) : Result :=
  .next (Graph.pure s run Op.scatter fun c => opScatter ((c.od 0).dims.headD 0) (c.od 0).last (c.x 0) (c.x 1) (c.xo 2))

/-! Near-bank operators. -/

/-- R304, R346: NB_MATVEC on the banks that hold the matrix. -/
def matvecEnds (c : Ctx) (s : State) : Graph.Ended :=
  let m := tensorDef c.image (opIn c.entry 0)
  let x := tensorDef c.image (opIn c.entry 1)
  let pages := placesOf s c.run (opIn c.entry 0)
  if !Nb.idleAll s pages then .waits s
  else
    let p := Nb.keyProducts s c.run.owner m.last m.planes m.tileRows (Nb.codePlanes (widthOf x.fmt) (c.x 1).pats)
      ((List.range m.tiles).map (planeTile m pages))
    if p.1 ≠ St.ok then .stops p.1 {} p.2.2
    else .outs (opMatvec (p.2.1.take m.rowCount) (c.tensor m.scale).pats (c.tensor x.scale).pats) p.2.2

/-- NB_MATVEC (R304). -/
def execNbMatvec (run : Nat) (s : State) : Result := .next (settleRows (perform s run Op.nbMatvec matvecEnds))

/-- R344, steps 1 and 2; places from TokensUsed on hold −∞. -/
def attendQkEnds (c : Ctx) (s : State) : Graph.Ended :=
  attention c s fun o l u =>
    let rows := (c.x 0).rows
    let n := (c.od 0).last
    let count := quantCount c.r0 (rows.map fun r => r.map (decode fp32))
    keySide c s o l u [] fun ss s =>
      .outs ⟨[ss.flatMap fun r => r.take n ++ List.replicate (n - min n u) negInf32], count⟩ s

/-- ATTEND_QK (R344, steps 1 and 2). -/
def execAttendQk (run : Nat) (s : State) : Result := .next (settleRows (perform s run Op.attendQk attendQkEnds))

/-- R344, steps 5 to 7. -/
def attendPvEnds (c : Ctx) (s : State) : Graph.Ended :=
  attention c s fun o l u =>
    let rows := (c.x 0).rows
    if u = 0 then .outs ⟨[rows.flatMap fun _ => List.replicate o.geo.headDim 0], {}⟩ s
    else needPages s c.run (scaleIds o l 1 u) fun _ =>
      valueSide c s s o l u rows fun outs n s => .outs ⟨[outs.flatten], n⟩ s

/-- ATTEND_PV (R344, steps 5 to 7). -/
def execAttendPv (run : Nat) (s : State) : Result := .next (settleRows (perform s run Op.attendPv attendPvEnds))

/-- R344, whole. The select registers keep what they held where the V side stops it (DESIGN CHOICE, notes/assumptions/89.md). -/
def attendEnds (c : Ctx) (s : State) : Graph.Ended :=
  attention c s fun o l u =>
    let rows := (c.x 0).rows
    if u = 0 then .outs ⟨[rows.flatMap fun _ => List.replicate o.geo.headDim 0, rows.flatMap fun _ => emptySummary], {}⟩ s
    else keySide c s o l u (scaleIds o l 1 u) fun ss s1 =>
      let ws := ss.map (attendWeights (field c.entry 32 2))
      let count := quantCount c.r0 (rows.map fun r => r.map (decode fp32))
      valueSide c s s1 o l u (ws.map (·.1)) fun outs n s =>
        .outs ⟨[outs.flatten, ws.flatMap (·.2)], count.plus n⟩ (noteAttend s (field c.entry 32 2) ss)

/-- ATTEND (R344). -/
def execAttend (run : Nat) (s : State) : Result := .next (settleRows (perform s run Op.attend attendEnds))

/-- The places of the tokens that an append adds to a layer, in the order in which they are written: token, head, key or value. -/
def appendTodo (g : Geometry) (n : Nat) : List (Nat × Nat × Nat) :=
  (List.range n).flatMap fun t => (List.range g.kvHeads).flatMap fun h => [(t, h, 0), (t, h, 1)]

/-- The pages that an append of `n` tokens after the first `u` of a layer writes. -/
def appendIds (o : OwnedBerth) (l u n : Nat) : List PageId :=
  berthIds o ((List.range o.geo.kvHeads).flatMap fun h => (List.range n).flatMap fun t => [0, 1].flatMap fun k =>
    [(tilePlace o.geo (cacheSeq o.geo l h k) (u + t)).1, (scalePlace o.geo (cacheSeq o.geo l h k) (u + t)).1])

/-- The row that a token adds for a head, as a key (0) or a value (1). -/
def appendRow (c : Ctx) (g : Geometry) (q : Nat × Nat × Nat) : List Fl :=
  ((c.x q.2.2).rows.getD (q.1 * g.kvHeads + q.2.1) []).map fun p => d32 (valueOf (c.x q.2.2).fmt p)

/-- R345: quantise and write the rows of `n` tokens: the highest status, the pages written, the state after. -/
def appendRows (c : Ctx) (s : State) (o : OwnedBerth) (l u n : Nat) : Nat × List Nat × State :=
  (appendTodo o.geo n).foldl (fun (acc : Nat × List Nat × State) (q : Nat × Nat × Nat) =>
    let stream := (if q.2.2 = 0 then 0 else n * o.geo.kvHeads) + q.1 * o.geo.kvHeads + q.2.1
    let (sc, codes) := quantRow o.geo.fmt (opMode c.entry) (seedOf (c.rnd 0).seed (c.rnd 0).op (c.rnd 0).iter stream) (appendRow c o.geo q)
    let w := appendToken acc.2.2 c.run.owner o.id o.geo l q.2.1 q.2.2 (u + q.1) codes sc
    (max acc.1 w.1, acc.2.1 ++ w.2.1, w.2.2)) (St.ok, [], s)

/-- R345: what an append does at a berth: rows quantised, written, and the layer's token count raised. -/
def berthAppendEnds (c : Ctx) (s : State) : Graph.Ended :=
  match berthFor s c.run with
  | .error st => .stops st {} s
  | .ok o =>
    let l := field c.entry 22 1
    let u := o.tokens.getD l 0
    let n := (c.x 0).dims.headD 0
    if o.geo.capacity < u + n then .stops St.badJob {} s
    else needPages s c.run (appendIds o l u n) fun _ =>
      let r := appendRows c s o l u n
      let s := Berth.mapOwned r.2.2 o.id fun o => { o with dirty := (o.dirty ++ r.2.1).eraseDups }
      if r.1 ≠ St.ok then .stops r.1 {} s
      else .outs ⟨[], quantCount (c.rnd o.geo.fmt) ((appendTodo o.geo n).map (appendRow c o.geo))⟩
        (Berth.mapOwned s o.id fun o => { o with tokens := o.tokens.set l (u + n) })

/-- BERTH_APPEND (R345). -/
def execBerthAppend (run : Nat) (s : State) : Result := .next (perform s run Op.berthAppend berthAppendEnds)

/-! Control operators. -/

/-- The element of an int32 [1] input as an integer. -/
def scalarOf (t : Tens) : Int := ofBits 32 (t.pats.getD 0 0)

/-- LOOP (R341). -/
def execLoop (run : Nat) (s : State) : Result :=
  .next (perform s run Op.loop fun c s =>
    let last := field c.entry 22 2
    let n := match c.xo 0 with
      | some t => scalarOf t
      | none => field c.entry 24 4
    if n < 0 ∨ 65536 < n then .stops St.badJob {} s
    else if n = 0 then .goes c.run (last + 1) s
    else .goes { c.run with loops := ⟨c.run.pc, last, n.toNat, 0⟩ :: c.run.loops } (c.run.pc + 1) s)

/-- BRANCH (R342). -/
def execBranch (run : Nat) (s : State) : Result :=
  .next (perform s run Op.branch fun c s =>
    let hit := (scalarOf (c.x 0) == 0) == (field c.entry 24 1 == 0)
    .goes c.run (if hit then field c.entry 22 2 else c.run.pc + 1) s)

/-- TIDE_WAIT (R343). -/
def execTideWait (run : Nat) (s : State) : Result :=
  .next (perform s run Op.tideWait fun c s =>
    let n := match c.xo 0 with
      | some t => scalarOf t
      | none => field c.entry 22 4
    if n < 0 ∨ 4096 < n then .stops St.badJob {} s
    else
      let t := c.run.stamp + n.toNat
      if t ≤ s.now then .goes c.run (c.run.pc + 1) s
      else .waits (mapRun s run fun r => { r with holdTide := some t }))

/-- TIDE_WAIT_RELEASE (R343). -/
def execTideWaitRelease (run : Nat) (s : State) : Result :=
  match Graph.run s run with
  | none => .next s
  | some r =>
    match r.holdTide with
    | none => .next s
    | some t => if s.mgmt && decide (t ≤ s.now) then .next (advance s r (r.pc + 1)) else .next s

end Sys2Proof.Machine
end

