-- ==== Sys2Proof/Machine/BerthRows.lean ====
section
/-! DEFINITION. The commands of berths, ownership and metering (11_sessions_pools_tables.md R360 to R380). -/

namespace Sys2Proof.Machine

open Sys2Proof

namespace Berth

/-! CREATE (R363). -/

/-- Pages pinned at this node under the latest pin ranges (R265). -/
def pinnedPages (s : State) : Nat := pinnedWith s (s.cat.get Ent.hdmPinRanges).bytes

/-- The home node that a CREATE names. -/
def namedHome (s : State) (d : Bytes) : Nat := if bit (field d 8 4) 31 then s.strand.nodeId else field d 8 4 % 2 ^ 20

/-- R360, R363, R12: what a CREATE meets. -/
def createRefusal (s : State) (d : Bytes) : Option (Nat × Nat) :=
  let g := geometryOf d
  let home := namedHome s d
  worst [ (!geometryOk g (s.num Ent.berthPagesMax), St.badJob, 0)
        , (!(compositionNodes s).any (fun p => p.1 == home && p.2 == 1), St.badJob, 0)
        , (s.slotState (field d 4 2 % 4096) != 1, St.accessDenied, 0)
        , (!functionOn s 3, St.retry, functionRetry s 3)
        , (bit (field d 1 1) 0 && decide (s.cfg Ent.pinnedMaxPages < pinnedPages s + berthPageCount g), St.retry, s.now + 1)
        , (home == s.strand.nodeId && (freeNumber s).isNone, St.retry, s.now + 1) ]

end Berth

namespace Berth

/-- A CREATE with its home at this node. -/
def createLocal (s : State) (cmd : Nat) (d : Bytes) : State :=
  let g := geometryOf d
  let slot := field d 4 2 % 4096
  let pinned := bit (field d 1 1) 0
  match freeNumber s with
  | none => s.refuse cmd St.retry
  | some n =>
    let b := idOf s.strand.nodeId n
    let q := nextSeqOf s n
    match (recordPage s n).bind fun s => allocPages s b slot g pinned with
    | none => waitForPages s cmd fun s => s.refuse cmd St.retry
    | some s =>
      let sh := chooseShadow s b s.strand.nodeId
      let s := own (record s n s.strand.nodeId slot g pinned q sh) b slot g pinned q (s.now + s.cfg Ent.leaseTides) sh
      answer (startCmd s cmd) n (.done cmd St.ok (createBytes q n) 0)

/-- A CREATE with another home: the home is asked (R363 steps 2 and 3), and its answer ends the command. -/
def createRemote (s : State) (cmd home : Nat) (d : Bytes) : State :=
  if unsent s home 2 then s.unrouted.refuse cmd St.retry
  else sendMessage (startCmd s cmd) home 2 0 0x0021 (controlWords (.create cmd (field d 4 2 % 4096) (geometryOf d) (bit (field d 1 1) 0))) [] (.create cmd)

end Berth

/-- CREATE (R363). -/
def execCreate (cmd : Nat) (_ : Unit) (s : State) : Result :=
  match s.waitingCmd cmd 0x20 with
  | none => .next s
  | some c =>
    if !s.mgmt then .next s
    else match Berth.createRefusal s c.desc with
    | some r => .next (s.finish cmd r.1 [] r.2)
    | none =>
      let home := Berth.namedHome s c.desc
      .next (if home = s.strand.nodeId then Berth.createLocal s cmd c.desc else Berth.createRemote s cmd home c.desc)

namespace Berth

/-! Commands on a berth. -/

/-- RELEASE at the owner (R369). -/
def releaseOwned (s : State) (o : OwnedBerth) (cmd : Nat) : State :=
  let b := o.id
  let s := letGo s o
  let s := if homeHere s b then releaseHome s b
    else
      let s := match o.shadow with
        | some n => if n = s.strand.nodeId then dropHeld s b else sendControl s n (.discard b)
        | none => s
      sendControl s (home b) (.discard b)
  let s := s.finish cmd St.ok (leBytes 4 o.seq ++ leBytes 4 0 ++ leBytes 6 0 ++ [0, 0]) 0
  dropWaits s o St.badJob

/-- Run a command at the owner of a Resident berth that nothing holds (R366 to R369, R373, R375). -/
def onResident (s : State) (o : OwnedBerth) (c : HostCmd) : State :=
  let b := o.id
  let cmd := c.id
  if c.opcode = 0x21 then startPark s b (some cmd)
  else if c.opcode = 0x22 then finish s cmd b St.ok 0
  else if c.opcode = 0x24 then releaseOwned s o cmd
  else if c.opcode = 0x25 then
    let target := field c.desc 8 4 % 2 ^ 20
    if target = s.strand.nodeId ∨ !inComposition s target then finish s cmd b St.badJob 0 else startHandoff s b cmd target
  else startCheckpoint (mapOwned s b fun o => { o with task := .checkpoint (some cmd) }) b

/-- A command on a berth (opcodes 0x21, 0x22, 0x24 to 0x26). -/
def command (s : State) (cmd : Nat) (c : HostCmd) : State :=
  let b := field c.desc 16 8
  let wake := c.opcode == 0x22
  let release := c.opcode == 0x24
  let elsewhere := wake && !homeHere s b
  let stale := meets s b == some .stale
  let parked := homeHere s b && (match findHome s (num b) with
    | some h => h.state == .parked
    | none => false)
  let lost := meets s b == some (.refuse St.uncorrectable)
  let target := field c.desc 8 4 % 2 ^ 20
  let refusal := match meets s b with
    | some (.refuse st) => st
    | _ => 0
  if stale && !parked && !wake then refuseStale s cmd b
  else match worst
    [ (refusal == St.badJob, St.badJob, 0)
    , (elsewhere, St.badJob, 0)
    , (c.opcode == 0x25 && !inComposition s target, St.badJob, 0)
    , (refusal == St.accessDenied, St.accessDenied, 0)
    , (refusal == St.retry, St.retry, s.now + 1)
    , (lost && !release, St.uncorrectable, 0)
    , (!functionOn s 3, St.retry, functionRetry s 3) ] with
  | some r => s.finish cmd r.1 (completion s b 0) r.2
  | none =>
    if lost then finish (releaseHome s b) cmd b St.ok 0
    else match find s b with
    | some o => if runWaits s o then wait s b cmd c.opcode else onResident (startCmd s cmd) o c
    | none =>
      if !parked then finish s cmd b St.ok 0
      else if firstInLine s b cmd then onParked (startCmd s cmd) b cmd c.opcode
      else waitParked s b cmd c.opcode

end Berth

/-- A berth command's row: it runs once, on a command of its opcode. -/
def berthRow (s : State) (cmd opcode : Nat) : State :=
  match s.waitingCmd cmd opcode with
  | none => s
  | some c => if s.mgmt then Berth.command s cmd c else s

/-- PARK (R366). -/
def execPark (cmd : Nat) (s : State) : Result := .next (berthRow s cmd 0x21)

/-- WAKE (R367). -/
def execWake (cmd : Nat) (s : State) : Result := .next (berthRow s cmd 0x22)

/-- RELEASE (R369). -/
def execRelease (cmd : Nat) (s : State) : Result := .next (berthRow s cmd 0x24)

/-- HANDOFF (R373). -/
def execHandoff (cmd : Nat) (s : State) : Result := .next (berthRow s cmd 0x25)

/-- CHECKPOINT (R375). -/
def execCheckpoint (cmd : Nat) (s : State) : Result := .next (berthRow s cmd 0x26)

/-- PARK_DONE (R366): the pages are durable and the checkpoint stands. -/
def execParkDone (berth : Nat) (s : State) : Result :=
  match Berth.find s berth with
  | none => .next s
  | some o =>
    let durable := if Berth.homeHere s berth then match Berth.findHome s (Berth.num berth) with
        | some h => o.uncopied.isEmpty && Berth.parkedBytesDurable s h
        | none => false
      else o.uncopied.isEmpty
    if s.mgmt && o.state == .parking && durable && o.unacked.isEmpty && o.eventTide != 0 && !o.unconfirmed then .next (Berth.parkSwap s berth)
    else .next s

/-- WAKE_READY (R367): the first boundary after the last page has been written. -/
def execWakeReady (berth : Nat) (s : State) : Result :=
  match Berth.find s berth with
  | none => .next s
  | some o =>
    let s' := Berth.wakeProgress s berth
    if !s.mgmt || o.state != .waking then .next s
    else if o.wakeReady && decide (o.eventTide < s.now) then .next (Berth.wakeEnd s berth)
    else .next s'

/-- BERTH_PAGES (R375). -/
def execBerthPages (src : Nat) (page : BerthPage) (s : State) : Result :=
  .next (if s.mgmt then Berth.receivePage s src page true else s)

/-- BERTH_CONTROL (R374). -/
def execBerthControl (src : Nat) (msg : BerthMsg) (s : State) : Result :=
  .next (if s.mgmt then Berth.receiveControl s src msg else s)

namespace Berth

/-- R365: the command that waits first on a berth Parked here starts. -/
def releaseParked (s : State) (b : Nat) : State :=
  match (findHome s (num b)).filter fun h => homeHere s b && h.state == .parked with
  | none => s
  | some h =>
    match h.waits with
    | [] => s
    | w :: rest =>
      if !firstInLine s b w.cmd then s
      else onParked (mapHome s (num b) fun h => { h with waits := rest }) b w.cmd w.opcode

end Berth

/-- BERTH_COMMAND_RELEASE (R365): the waiting command accepted first starts. -/
def execBerthCommandRelease (berth : Nat) (s : State) : Result :=
  match Berth.find s berth with
  | none => .next (if s.mgmt then Berth.releaseParked s berth else s)
  | some o =>
    match o.waits with
    | [] => .next s
    | w :: rest =>
      if !s.mgmt || Berth.mustWait s o || o.unconfirmed || o.expired || !firstInLine s berth w.cmd then .next s
      else
        let s := Berth.mapOwned s berth fun o => { o with waits := rest }
        match s.cmd w.cmd with
        | none => .next s
        | some c => .next (Berth.onResident s { o with waits := rest } c)

/-- R370: the age of a Resident berth. -/
def berthAge (s : State) (o : OwnedBerth) : Nat :=
  s.now - ((Berth.pageIds o).map fun id => match Mem.page s.mem id with
    | some p => if p.touched then s.now else p.last
    | none => 0).foldl max 0

/-- AUTO_PARK (R370). -/
def execAutoPark (berth : Nat) (s : State) : Result :=
  match Berth.find s berth with
  | none => .next s
  | some o =>
    let limit := s.cfg Ent.autoParkAge
    if s.mgmt && limit != 0 && !o.pinned && !Berth.mustWait s o && !o.unconfirmed && !o.expired && decide (limit ≤ berthAge s o) then
      .next (Berth.startPark s berth none)
    else .next s

/-- LEASE_RENEWAL (R372). -/
def execLeaseRenewal (berth : Nat) (s : State) : Result :=
  match Berth.find s berth with
  | none => .next s
  | some o => if s.mgmt && !o.unconfirmed && o.state != .waking then .next (Berth.renew s berth) else .next s

/-- LEASE_EXPIRY (R372). -/
def execLeaseExpiry (berth : Nat) (s : State) : Result :=
  match Berth.find s berth with
  | none => .next s
  | some o =>
    if s.mgmt && decide (o.lease ≤ s.now) then .next (Berth.mapOwned s berth fun o => { o with expired := true }) else .next s

/-- RESOLVE_READ (R374). -/
def execResolveRead (berth : Nat) (s : State) : Result :=
  match Berth.find s berth with
  | none => .next s
  | some o => if s.mgmt && o.unconfirmed && decide (o.resolveAt ≤ s.now) then .next (Berth.resolve s berth) else .next s

/-- TAKEOVER (R377, R378). -/
def execTakeover (num : Nat) (s : State) : Result :=
  match Berth.findHome s num with
  | none => .next s
  | some h =>
    let live := h.state != .free && h.state != .lost && h.state != .parked
    let orphan := h.word.owner == s.strand.nodeId && (Berth.find s (Berth.idOf s.strand.nodeId num)).isNone
    if s.mgmt && live && decide (h.word.lease ≤ s.now) && ((expelledNodes s).contains h.word.owner || orphan) then
      .next (Berth.takeOver s num)
    else .next s

/-- CHECKPOINT_INSTALLED (R377). -/
def execCheckpointInstalled (berth : Nat) (s : State) : Result :=
  match Berth.find s berth with
  | none => .next s
  | some o => if s.mgmt && o.state == .recovering && !o.unconfirmed then .next (Berth.installCheckpoint s o) else .next s

/-! Metering (R380). -/

/-- The header and records of a usage report. -/
def reportBody (s : State) (seq : Nat) : Bytes :=
  let ms := s.berth.meters.filter fun m => m.2.2 != 0
  leBytes 4 0x5445534D ++ leBytes 4 s.strand.nodeId ++ leBytes 4 (s.cfg Ent.compositionId) ++ leBytes 4 seq
    ++ leBytes 6 s.berth.firstTide ++ leBytes 6 s.now ++ leBytes 4 ms.length ++ List.replicate 32 0
    ++ ms.flatMap fun m => leBytes 2 m.1 ++ leBytes 1 m.2.1 ++ List.replicate 5 0 ++ leBytes 8 m.2.2

/-- USAGE_REPORT (R380): once a period's last boundary has been counted and the generator is healthy (R600). -/
def execUsageReport (s : State) : Result :=
  let period := s.cfg Ent.meterPeriod
  let last := s.now / max 1 period * period
  if s.mgmt && s.berth.firstTide != 0 && decide (s.berth.firstTide ≤ last) && s.sec.trng == 1 then
    let seq := (s.num Ent.reportSeq + 1) % 2 ^ 32
    let body := reportBody s seq
    let report := body ++ padTo 512 (Config.identitySign s.free body)
    let s := { s with free := s.free + 1 }
    let s := (s.setNum Ent.reportSeq seq).setVal Ent.latestReport (.b report)
    let kept := s.berth.reports ++ [(seq, report)]
    .next { s with berth := { s.berth with meters := [], firstTide := s.now + 1, reports := kept.drop (kept.length - 16) } }
  else .next s

end Sys2Proof.Machine
end

