-- ==== Sys2Proof/Machine/CapOut.lean ====
section
/-! DEFINITION. How CAP responses leave (R531, R555, R565), and the answers that wait for a durable value (R547). -/

namespace Sys2Proof

def CapReq.pendingFlag (r : CapReq) : Bool := Machine.bit r.flags 1
def CapReq.forceFlag (r : CapReq) : Bool := Machine.bit r.flags 2
def CapReq.key (r : CapReq) : Nat := r.index * 256 + r.sub

end Sys2Proof

namespace Sys2Proof.Machine

open Sys2Proof

/-- The 32-byte header and the data. -/
def CapResp.bytes (r : CapResp) (pending : Bool) : Bytes :=
  [1] ++ leBytes 1 r.op ++ leBytes 1 (1 + boolBit pending 1) ++ leBytes 1 r.status ++ leBytes 2 r.session ++ leBytes 2 r.seq
    ++ leBytes 2 r.index ++ leBytes 1 r.sub ++ leBytes 1 r.typeCode ++ leBytes 4 r.offset ++ leBytes 2 r.data.length
    ++ leBytes 6 r.tideField ++ leBytes 4 r.totalLength ++ List.replicate 4 0 ++ r.data

/-- BAR0 is decoded: the port is in service, the link is up and not degraded (R514). -/
def barRuns (s : State) : Bool := s.up 9 && s.host.linkUp && !s.host.degraded

/-- R514: a memory request to BAR0 that is not decoded: a degraded link completes it with Unsupported Request. -/
def noBar (s : State) : State := if s.up 9 && s.host.linkUp && s.host.degraded then s.emit .unsupported else s

/-- R530: the output of the mailbox command under way; a link loss has ended it (R535). -/
def mailOut (s : State) (c : MailCode) (b : Bytes) : State :=
  if s.host.mailBusy then { s with host := { s.host with mailBusy := false } }.emit (.mailbox c b) else s

/-- Send a response over its path (R555, R531, R565): to a Strand message, as its one response, of class 1 (R444), whose payload is
padded to 4 bytes. -/
def capOut (s : State) (o : Owed) : State :=
  match o.frame, o.req.path with
  | some f, _ => respond s f St.ok 0 (pad4 (o.resp.bytes o.req.pendingFlag))
  | none, .mailbox => mailOut s .success (o.resp.bytes o.req.pendingFlag)
  | none, .field mac _ => s.emit (.cap (.field mac false) o.resp)
  | none, p => s.emit (.cap p o.resp)

/-- The flash log write that holds a P entry's latest value in region 5, while it is not durable. -/
def entryPending (s : State) (k : Nat) : Option Nat :=
  ((s.cat.region5.filter fun f => f.key == k).map (·.write)).find? fun w => Flash.writePending s.flash w

/-- R547: an accepted write of a P entry completes only when the value is durable. -/
def owes (s : State) (r : CapReq) (resp : CapResp) : Option Nat :=
  if r.op = 0x02 ∧ resp.status = St.ok then entryPending s r.key else none

/-- Send a response, or hold it until the value that it answers for is durable. -/
def answerCap (s : State) (o : Owed) : State :=
  match owes s o.req o.resp with
  | some w => { s with cat := { s.cat with owed := s.cat.owed ++ [(w, o)] } }
  | none => capOut s o

/-- After flash programs: the answers whose values have become durable leave. -/
def settleOwed (s : State) : State :=
  let wait (o : Nat × Owed) : Bool := Flash.writePending s.flash o.1
  let ready := s.cat.owed.filter fun o => !wait o
  (ready.map (·.2)).foldl capOut { s with cat := { s.cat with owed := s.cat.owed.filter wait } }

end Sys2Proof.Machine
end

