-- ==== Sys2Proof/Machine/FlashRows.lean ====
section
/-! DEFINITION. The commands of the flash channels and the Curator (14_flash_curator.md). -/

namespace Sys2Proof.Machine

open Sys2Proof

/-- The flash units and node firmware run. -/
def flashRuns (s : State) : Bool := s.up 8 && s.mgmt

/-! Enumeration (R471 to R473, R507). -/

def flashRates : List Nat := [3600, 3200, 2400, 1600]

/-- The geometry that every accepted target shares. -/
def targetGeometry (t : Target) : List Nat :=
  [t.dataBytes, t.spareBytes, t.pagesPerBlock, t.planes, t.luns, t.blocksPerLun, t.wordLinePages]

def targetBytes (t : Target) : Nat := t.dataBytes * t.pagesPerBlock * t.blocksPerLun * t.luns

/-- R471, but for the conditions on geometry and total. -/
def targetFits (t : Target) : Bool :=
  t.crcOk && decide (50 ≤ t.revision) && (t.rates.any fun r => decide (1600 ≤ r)) && t.dataBytes == 16384 && decide (512 ≤ t.spareBytes)
    && decide (256 ≤ t.pagesPerBlock) && decide (t.pagesPerBlock ≤ 4096) && decide (1 ≤ t.planes) && decide (t.planes ≤ 4)
    && decide (1 ≤ t.luns) && decide (t.luns ≤ 8) && (!t.shared || t.volume)

/-- R471: the accepted targets, in ascending channel and target order. -/
def acceptTargets (ts : List Target) : List Target :=
  (sortBy (fun (a b : Target) => decide (a.chan * 16 + a.target < b.chan * 16 + b.target)) ts).foldl (fun (acc : List Target) (t : Target) =>
    let same := match acc.head? with
      | some (h : Target) => targetGeometry h == targetGeometry t
      | none => true
    if targetFits t && same && decide ((acc.map targetBytes).sum + targetBytes t ≤ 128 * 2 ^ 40) then acc ++ [t] else acc) []

/-- R472: the rate of a channel, or none. -/
def channelRate (limit : Nat) (ts : List Target) : Option Nat :=
  flashRates.find? fun r => decide (r ≤ limit) && ts.all fun (t : Target) => t.rates.contains r && t.trains.contains r

/-- R507: a channel's record at the first cold reset with a set of targets. -/
def divideChannel (reserve sparePercent n rate : Nat) (ts : List Target) : Chan :=
  let good := (ts.map fun (t : Target) => t.luns * t.blocksPerLun - t.badBlocks).sum
  let spares := good * sparePercent / 100
  let t0 : Nat × Nat × Nat × Nat := match ts.head? with
    | some (t : Target) => (t.luns, t.pagesPerBlock, t.wordLinePages, t.dataBytes * t.pagesPerBlock * t.blocksPerLun)
    | none => (0, 0, 0, 0)
  { num := n, rate := rate, targets := ts.length, luns := t0.1, ids := ts.map (·.target), suspends := ts.map (·.suspend), lunBytes := t0.2.2.2
    perBlock := t0.2.1 * 4, wordLine := max 1 (t0.2.2.1 * 4), inService := good - spares - reserve, fresh := 0, spares := spares
    reserve := min reserve (good - spares), writes := [], copies := [], logs := [], reads := 0 }

/-- The berth number of a region 2 codeword. -/
def berthOfLogical (l : Nat) : Nat := l % 2 ^ 46 / 16 / 2 ^ 18

/-- R476: the map takes one more Fixed stack page where it has outgrown those it has, 4,096 codewords in each (notes/assumptions/94.md). -/
def growMap (s : State) : State :=
  if s.flash.map.length ≤ 4096 * s.flash.mapPages.length then s
  else match Mem.allocFixed s.mem 0 false with
    | some (a, m) => { s with mem := m, flash := { s.flash with mapPages := s.flash.mapPages ++ [a] } }
    | none => s

/-- A codeword that a rebuild keeps: no page of a stack or shelf that the reset cleared, no parked page that no berth has, no journal of an
earlier flush. -/
def rebuildKeeps (s : State) (l : Nat) : Bool :=
  let parked : Bool := s.berth.homes.any fun h => (h.state == .parked || h.parkedCopy) && h.num == berthOfLogical l
  match regionOf l with
  | 1 | 3 => false
  | 2 => parked
  | 5 => decide (2 ^ 40 ≤ l % 2 ^ 46) || s.flash.journal.contains l
  | _ => true

/-- R493: what still carries a destroyed slot leaves the map again, and the slot waits for the flush that holds this. -/
def sweepAgain (s : State) : State :=
  let u := Flash.unmapAll s.flash (s.key.sweeping.flatMap fun p => Flash.ownedBy s.flash p.1)
  { s with flash := u, key := { s.key with sweeping := s.key.sweeping.map fun p => (p.1, u.epoch) } }

/-- R489 step 3, once every tag is read: the map; then the item records and the directory are read (R247). -/
def settleRebuild (s : State) : State :=
  if s.flash.rebuild != .tags || Flash.scanning s.flash then s
  else
    let (m, n) := Flash.rebuildMap s.flash
    let gone := (m.filter fun e => !rebuildKeeps s e.1).map (·.1)
    let s := { s with flash := { Flash.forgetScans s.flash with map := m, seq := Flash.nextSeqAfter s.flash, flush := none, flushDue := s.now } }
    let s := { s with flash := Flash.unmapAll s.flash gone }
    let s := sweepAgain (s.setNum Ent.rebuildCodewords n)
    let s := (List.range ((s.flash.map.length + 4095) / 4096)).foldl (fun s _ => growMap s) s
    let todo := (s.flash.map.filter fun m => regionOf m.1 == 0 || regionOf m.1 == 4).map (·.2)
    { s with flash := Flash.scanAll { s.flash with rebuild := .records } todo }

/-- FLASH_ENUMERATION_DONE (R471 to R473, R507): the rebuild begins (R489). -/
def execFlashEnumerationDone (targets : List Target) (s : State) : Result :=
  if !flashRuns s || s.flash.enumerated then .next s
  else
    let acc := acceptTargets (targets.filter fun t => decide (t.chan < 32) && decide (t.target < 16))
    let of (c : Nat) : List Target := acc.filter fun t => t.chan == c
    let used := (List.range 32).filterMap fun c => if (of c).isEmpty then none else (channelRate (s.cfg Ent.flashMaxMTs) (of c)).map fun r => (c, r, of c)
    let ids := used.flatMap fun u => u.2.2.map fun t => (t.chan, t.target)
    let fresh := ids != s.flash.divided
    let chans : List Chan := used.map fun u =>
      let d := divideChannel (s.cfg Ent.journalReserveBlocks) (s.cfg Ent.spareBlocksPercent) u.1 u.2.1 u.2.2
      match Flash.chan s.flash u.1 with
      | some k => if fresh then { d with fresh := k.fresh } else { d with inService := k.inService, fresh := k.fresh, spares := k.spares, reserve := k.reserve }
      | none => d
    let there (c : Nat) : Bool := chans.any fun k => k.num == c
    let u : FlashUnit := { s.flash with
      enumerated := true, chans := chans, divided := ids, blocks := s.flash.blocks.filter fun b => there b.chan
      flushed := s.flash.flushed.filter fun m => there m.2.chan }
    let s := { s with flash := Flash.startRebuild u }
    let dead := (chans.map fun c => (s.flash.deadDies.filter fun d => d.1 == c.num).length * c.lunBytes).sum
    let s := s.setNum Ent.flashRawBytes ((used.flatMap fun u => u.2.2.map targetBytes).sum - dead)
    let s := s.setNum Ent.targetsAccepted ids.length
    let s := s.setNum Ent.targetsRefused (targets.length - ids.length)
    let s := s.setNum Ent.spareBlocksFree ((chans.map (·.spares)).sum)
    .next (settleRebuild (chans.foldl (fun s c => ((s.setNum (Ent.chanChannelMTs c.num) c.rate).setNum (Ent.chanTargets c.num) c.targets).setNum
      (Ent.chanChannelSparesFree c.num) c.spares) s))

/-! Reads. -/

/-- A channel engine out of service holds new reads (R628). -/
def channelHeld (s : State) (c : Nat) : Bool := s.rst.quiescing.contains (4 * 2 ^ 24 + c) || s.rst.quiesced.contains (4 * 2 ^ 24 + c)

/-- R479: the program of a stream is due on a channel. -/
def streamDue (s : State) (c : Chan) (st : Stream) : Bool :=
  match (Flash.buffer c st).head? with
  | some w => decide (w.arrival + s.cfg Ent.writeFlushSubticks ≤ s.subticks)
  | none => false

/-- R479: a program is due on a channel. -/
def programDue (s : State) (c : Chan) : Bool := streamDue s c .data || streamDue s c .log || streamDue s c .copy

/-- R486: suspend the operation on a die once more; none where it may not be suspended. -/
def suspendDie (s : State) (c : Chan) (die : Nat) : Option FlashUnit :=
  let u := s.flash
  let pMine (p : Program) : Bool := p.chan == c.num && Flash.dieOf c p.block == die
  let eMine (e : EraseOp) : Bool := e.chan == c.num && Flash.dieOf c e.block == die
  let ok := Flash.suspends c die && (u.programs.all fun p => !pMine p || decide (p.suspends < s.cfg Ent.suspendMax))
    && u.erases.all fun e => !eMine e || decide (e.suspends < s.cfg Ent.suspendMax)
  let fixP (p : Program) : Program := if pMine p then { p with suspends := p.suspends + 1 } else p
  let fixE (e : EraseOp) : EraseOp := if eMine e then { e with suspends := e.suspends + 1 } else e
  if ok then some { u with programs := u.programs.map fixP, erases := u.erases.map fixE } else none

/-- R571: the die's test runs, and its work waits. -/
def dieTested (s : State) (c : Chan) (die : Nat) : Bool :=
  s.rel.tests.any fun t => t.begun && unitKind t.unit == 9 && unitInst t.unit / 256 == c.num
    && Flash.dieAt c (unitInst t.unit / 16 % 16) (unitInst t.unit % 16) == some die

/-- LUN_READ_DISPATCH (R485, R486): the waiting read of the lowest class, the earliest among equals. -/
def execLunReadDispatch (chan die : Nat) (s : State) : Result :=
  match Flash.chan s.flash chan with
  | none => .next s
  | some c =>
    let mine := s.flash.reads.filter fun r => r.at_.chan == chan && Flash.dieOf c r.at_.block == die
    let best := (mine.filter fun r => !r.active).foldl (fun (acc : Option FlashRead) r => match acc with
      | none => some r
      | some a => if r.cls < a.cls then some r else some a) none
    match best with
    | none => .next s
    | some r =>
      if !flashRuns s || channelHeld s chan || dieTested s c die || mine.any (·.active) then .next s
      else
        let busy := Flash.dieBusy s.flash c die
        let ready : Option FlashUnit :=
          if r.cls = 4 then (if busy || programDue s c then none else some s.flash)
          else if busy then suspendDie s c die else some s.flash
        match ready with
        | none => .next s
        | some u =>
          let fix (x : FlashRead) : FlashRead := if x.id = r.id then { x with active := true } else x
          let u := Flash.mapBlock { u with reads := u.reads.map fix } chan r.at_.block fun b => { b with reads := b.reads + 1 }
          .next ({ s with flash := u }.bump (Ent.chanCodewordsRead chan))

/-- What an ended read hands over (R483, R500). -/
def deliverRead (s : State) (r : FlashRead) (status : Nat) (data : Bytes) : State :=
  match r.use with
  | .reloc =>
    if status ≠ St.ok then s
    else
      let w : WriteItem := ⟨r.logical, r.owner, data, s.subticks, some r.at_, 0⟩
      { s with flash := Flash.mapChan s.flash r.at_.chan fun x => { x with copies := x.copies ++ [w] } }
  | .wake b _ => Berth.wakeProgress { s with flash := { s.flash with done := s.flash.done ++ [⟨r.use, r.logical, status, data⟩] } } b
  | .copy b n => Berth.fetched { s with flash := { s.flash with done := s.flash.done ++ [⟨r.use, r.logical, status, data⟩] } } b n
  | _ => { s with flash := { s.flash with done := s.flash.done ++ [⟨r.use, r.logical, status, data⟩] } }

/-- R480: a verification read, whose engine checks the codeword's tag. -/
def isVerify : ReadUse → Bool
  | .verify _ _ => true
  | _ => false

/-- R475, R480: the plaintext of a codeword that a channel engine has read, under the key that its slot holds now. -/
def plainOf (s : State) (w : Cw) : Bytes :=
  let k := flashKey s w.logical w.owner
  if k = w.key then w.data else flashPlain k w.logical w.stored

/-- R506: the block lies on a die that has left service. -/
def blockGone (s : State) (n b : Nat) : Bool := (Flash.chan s.flash n).any fun c => s.flash.deadDies.contains (n, Flash.dieOf c b)

/-- FLASH_READ_DONE (R480, R484): `fails` attempts failed to decode, and the last one corrected `corrected` bits. -/
def execFlashReadDone (id fails corrected : Nat) (s : State) : Result :=
  match s.flash.reads.find? fun r => r.id == id && r.active with
  | none => .next s
  | some r =>
    if !flashRuns s then .next s
    else
      let most := s.cfg Ent.readRetryMax
      let s := { s with flash := { s.flash with reads := s.flash.reads.filter fun x => x.id != id } }
      let s := s.bump Ent.readRetries (min fails most)
      let good := match Flash.codewordAt s.flash r.at_ with
        | some w => if fails ≤ most ∧ !blockGone s r.at_.chan r.at_.block ∧ (!isVerify r.use ∨ (w.logical = r.logical ∧ w.owner = r.owner)) then some (plainOf s w) else none
        | none => none
      match good with
      | some d =>
        let s := if s.cfg Ent.relocateBits < corrected then
            { s with flash := Flash.mapBlock s.flash r.at_.chan r.at_.block fun b => { b with marked := true } }
          else s
        .next (Flash.settleChan (settleRebuild (deliverRead s r St.ok (padTo 4096 d))) r.at_.chan)
      | none =>
        let s := deliverRead (s.bump Ent.uncorrectableCodewords) r St.uncorrectable []
        let s := match Flash.chan s.flash r.at_.chan with
          | some c => raiseEvent (s.bump Ent.errorEvents) (Flash.dieUnit c (Flash.dieOf c r.at_.block)) 0 ⟨0x08, St.uncorrectable, r.logical, s.now, s.tide.phase⟩
          | none => s
        .next (Flash.settleChan (settleRebuild s) r.at_.chan)

/-! Programs and erases. -/

/-- R604: registered graph keys whose codeword is durable are in the table. -/
def settleKeys (s : State) : State :=
  let wait (g : Nat × Bytes) : Bool := Flash.inWork s.flash (Flash.keyWord g.1)
  { s with sec := { s.sec with
    graphKeys := s.sec.graphKeys ++ s.sec.keysPending.filter fun g => !wait g, keysPending := s.sec.keysPending.filter wait } }

/-- WRITE_FLUSH_TIMER (R479). -/
def execWriteFlushTimer (chan : Nat) (s : State) : Result :=
  match Flash.chan s.flash chan with
  | none => .next s
  | some c =>
    if flashRuns s then
      let start (u : FlashUnit) (st : Stream) : FlashUnit := if streamDue s c st then Flash.startProgram u chan st else u
      .next { s with flash := start (start (start s.flash .log) .data) .copy }
    else .next s

/-- FLASH_PROGRAM_DONE (R479, R500, R503, R504). -/
def execFlashProgramDone (chan block : Nat) (ok : Bool) (s : State) : Result :=
  match s.flash.programs.find? fun p => p.chan == chan && p.block == block with
  | none => .next s
  | some p =>
    if !flashRuns s then .next s
    else
      let s := if ok && !blockGone s chan block then settleKeys (Berth.settleAnswers (settleOwed (growMap (Flash.programOk s p)))) else Flash.programFail s p
      .next (Flash.settleChan (settleDurable s) chan)

/-- R501: the block may be erased. -/
def mayErase (s : State) (c : Chan) (b : Block) : Bool :=
  b.stage == .closed && (Flash.validAt s.flash b).isEmpty && decide (b.movedEpoch < s.flash.durable)
    && !(s.flash.reads.any fun r => r.at_.chan == b.chan && r.at_.block == b.num)
    && !(s.flash.relocs.any fun r => r.chan == b.chan && (r.source == b.num || r.target == some b.num))
    && !Flash.dieBusy s.flash c (Flash.dieOf c b.num) && !dieTested s c (Flash.dieOf c b.num)

/-- BLOCK_ERASE (R501). -/
def execBlockErase (chan block : Nat) (s : State) : Result :=
  match Flash.chan s.flash chan, Flash.block s.flash chan block with
  | some c, some b =>
    if flashRuns s && mayErase s c b then
      let u := Flash.mapBlock s.flash chan block fun k => { k with stage := .erasing }
      .next { s with flash := { u with erases := u.erases ++ [(⟨chan, block, 0⟩ : EraseOp)] } }
    else .next s
  | _, _ => .next s

/-- ERASE_DONE (R502, R505). -/
def execEraseDone (chan block : Nat) (ok : Bool) (s : State) : Result :=
  if !flashRuns s || !(s.flash.erases.any fun e => e.chan == chan && e.block == block) then .next s
  else
    let s := { s with flash := { s.flash with erases := s.flash.erases.filter fun e => !(e.chan == chan && e.block == block) } }
    let gone := (Flash.block s.flash chan block).any fun b => b.stage == .retired
    let s := if gone then s
      else if ok then
        { s with flash := Flash.mapBlock s.flash chan block fun k =>
          { k with stage := .free, erases := k.erases + 1, reads := 0, fails := 0, flushedCws := 0, marked := false, cws := [] } }
      else Flash.retire (s.bump Ent.eraseFailures) chan block
    .next (Flash.settleChan s chan)

/-! The journal and the rebuild. -/

/-- JOURNAL_FLUSH's effect: the flush begins, and the next is due JournalFlushTides boundaries later (R488). -/
def beginFlush (s : State) : State :=
  { s with flash := { Flash.beginFlush s.flash s.now s.subticks with flushDue := s.now + s.cfg Ent.journalFlushTides } }

/-- R495: nothing of the Curator's work is in flight, and no flush yet holds the map of a node that enters Neap. -/
def neapFlushDue (s : State) : Bool :=
  let u := s.flash
  s.rst.powerState == 1 && (Flash.workPlaces u).isEmpty && u.erases.isEmpty && u.relocs.isEmpty && u.reads.isEmpty
    && (decide (u.lastFlush < s.rst.neapFrom) || Flash.ownMap u.flushed != Flash.ownMap u.map)

/-- JOURNAL_FLUSH (R488, R495). -/
def execJournalFlush (s : State) : Result :=
  if flashRuns s && s.num Ent.flashReady == 1 && s.flash.flush.isNone && (decide (s.flash.flushDue ≤ s.now) || neapFlushDue s) then .next (beginFlush s)
  else .next s

/-- R509: every record of a change-log entry's item has been unmapped, and the unmap belongs to a complete flush. -/
def logFree (s : State) (e : LogEntry) : Bool :=
  let p := s.params e.coll
  let n := recordCodewords p.vecBytes p.metaBytes
  !(s.flash.flushed.any fun m => regionOf m.1 == 0 && m.1 % 8192 % n == 0 && (match Flash.codewordAt s.flash m.2 with
    | some w => field w.data 0 8 == e.item && field w.data 8 4 == s.cfg (Ent.collCollectionId e.coll)
    | none => false))
    && !(s.idx.records.any fun r => r.id == e.item && r.collId == s.cfg (Ent.collCollectionId e.coll))

/-- JOURNAL_FLUSH_DONE (R488, R509). -/
def execJournalFlushDone (s : State) : Result :=
  match s.flash.flush with
  | none => .next s
  | some f =>
    if !flashRuns s || !Flash.flushDurable s.flash f then .next s
    else
      let s := { s with flash := Flash.endFlush s.flash f }
      let done := s.idx.changeLog.filter (logFree s)
      let s := { s with idx := { s.idx with changeLog := s.idx.changeLog.filter fun e => !done.contains e } }
      .next { s with flash := Flash.unmapAll s.flash (done.map LogEntry.codeword) }

/-! Housekeeping. -/

/-- R496: a window opens at this boundary. -/
def housekeepingOpens (s : State) : Bool :=
  let p := max 1 (s.cfg Ent.housekeepPeriod)
  (s.now + p - s.cfg Ent.housekeepOffset % p) % p == 0

/-- R495: housekeeping runs. -/
def housekeeps (s : State) : Bool := flashRuns s && s.num Ent.flashReady == 1 && s.rst.powerState == 0

/-- HOUSEKEEPING_WINDOW_OPEN (R496 to R499). -/
def execHousekeepingWindowOpen (s : State) : Result :=
  if housekeeps s && housekeepingOpens s && decide (s.flash.windowEnd ≤ s.now) then
    let s := { s with flash := { s.flash with windowEnd := s.now + s.cfg Ent.housekeepLength } }
    .next ((s.flash.chans.map (·.num)).foldl Flash.nextJob s)
  else .next s

/-- HOUSEKEEPING_WINDOW_CLOSE: the jobs under way end as they stand, and none starts. -/
def execHousekeepingWindowClose (s : State) : Result :=
  if s.flash.windowEnd ≠ 0 ∧ s.flash.windowEnd ≤ s.now then .next { s with flash := { s.flash with windowEnd := 0 } } else .next s

/-- URGENT_GC (R497): outside a window, on a channel whose free blocks are below GcUrgentBlocks. -/
def execUrgentGc (chan : Nat) (s : State) : Result :=
  match Flash.chan s.flash chan with
  | none => .next s
  | some c =>
    if housekeeps s && decide (s.flash.windowEnd ≤ s.now) && decide (Flash.freeBlocks s.flash c < s.cfg Ent.gcUrgentBlocks)
        && !s.flash.urgent.contains chan then
      .next (Flash.nextJob { s with flash := { s.flash with urgent := s.flash.urgent ++ [chan], urgentTide := true } } chan)
    else .next s

/-- URGENT_RELOCATION (R499): a block whose reads reach twice ReadDisturbLimit. -/
def execUrgentRelocation (chan block : Nat) (s : State) : Result :=
  match Flash.block s.flash chan block with
  | none => .next s
  | some b =>
    if housekeeps s && (b.stage == .closed || b.stage == .open_) && decide (2 * s.cfg Ent.readDisturbLimit ≤ b.reads) then
      .next { s with flash := Flash.relocate s.flash chan block true }
    else .next s

end Sys2Proof.Machine
end

