-- ==== Sys2Proof/Machine/NearBankRows.lean ====
section
/-! DEFINITION. The commands of the near-bank units (09_near_bank.md). A command of a sequence is carried out when its row
comes; the bank slots that BANK_SLOT grants are timing only (R26, notes/assumptions/29.md). -/

namespace Sys2Proof.Machine

open Sys2Proof Sys2Proof.Num

/-- The issue port's answer to a descriptor. -/
def nbAnswer (s : State) (tag st : Nat) : State := { s with nb := { s.nb with answer := some (tag, st) } }

/-- A refusal at acceptance. -/
def nbRefuse (s : State) (tag st : Nat) : State := (nbAnswer s tag st).bump Ent.sequencesFailed

/-- NB_SEQUENCE_ISSUE (R293, R294, R289, R322): the 32 bytes of a sequence descriptor. One that names a page on the move to stack
memory is held until the switch (R275). What answers a faulty descriptor and one in Neap, and that a RETRY is no failed sequence, are
DESIGN CHOICE (notes/assumptions/28.md). -/
def execNbSequenceIssue (desc : Bytes) (s : State) : Result :=
  let id := field desc 0 2
  let owner := field desc 2 2 % 4096
  let n := field desc 4 4
  let list := field desc 8 8
  let comp := field desc 16 8
  let tag := field desc 24 4
  if !Nb.runs s then .next s
  else if 4096 ≤ id ∨ n = 0 ∨ 65536 < n ∨ list % 64 ≠ 0 ∨ comp % 32 ≠ 0 then .next (nbRefuse s tag St.badImage)
  else if !validRange list (16 * n) then .fault (.noMemory list)
  else if !validRange comp 32 then .fault (.noMemory comp)
  else
    let b := Nb.bank s id
    if 8 ≤ b.queue.length ∨ inNeap s ∨ Nb.held s id then .next (nbAnswer s tag St.retry)
    else
      let (st, bytes, s) := agentRead s owner list (16 * n)
      if st ≠ St.ok then .next (nbRefuse s tag st)
      else match Nb.decodeList n 0 (records 16 bytes) with
        | none => .next (nbRefuse s tag St.badImage)
        | some cs =>
          let pages := ((cs.flatMap fun c => Nb.rows c.2).map fun r => pageOf (Nb.rowAddr id r)).eraseDups
          if pages.any fun a => !Mem.planeOf s.mem a owner then .next (nbRefuse s tag St.accessDenied)
          else if pages.any fun a => pageHeld s a then .next { s with nb := { s.nb with issues := s.nb.issues ++ [⟨desc, pages⟩] } }
          else
            let s := pages.foldl touchAddr s
            let q : NbSeq := { owner := owner, tag := tag, completion := comp, cmds := cs, left := cs, count := n, done := 0, pages := pages
                               outputBytes := 0, saturated := 0, wrote := [], status := St.ok, failed := 0, scan := none }
            .next (nbAnswer (Nb.mapBank s id fun b => { b with queue := b.queue ++ [q] }) tag St.ok)

/-- The held descriptors come to the issue port again, in order. -/
def resumeIssues (s : State) : State :=
  s.nb.issues.foldl (fun s i => after (execNbSequenceIssue i.desc s) s) { s with nb := { s.nb with issues := [] } }

/-- NB_SEQUENCE_START (R296). -/
def execNbSequenceStart (bank : Nat) (s : State) : Result :=
  let b := Nb.bank s bank
  if !Nb.runs s || b.queue.isEmpty || b.running || Nb.tested s bank then .next s
  else .next (Nb.mapBank s bank fun b => { b with running := true, acc := List.replicate 1024 0, staged := [] })

/-- Open the rows of a command; the status of the first that cannot be read, after R319's test. -/
def openRows (s : State) (bank owner : Nat) : List Nat → Except (Nat × State) (List (List (Option Bytes)) × State)
  | [] => .ok ([], s)
  | r :: rest =>
    match Nb.openRow s bank r owner with
    | (.error e, s) => .error (e, if e = St.uncorrectable then nbLineError s bank r else s)
    | (.ok d, s) => match openRows s bank owner rest with
      | .error e => .error e
      | .ok (ds, s) => .ok (d :: ds, s)

/-- Run the next command of a bank where `rows` names it: `rows` gives the rows that it reads, `f` its effect on them. -/
def runNb (s : State) (bank : Nat) (rows : NbCmd → Option (List Nat)) (f : NbSeq → NbCmd → List (List (Option Bytes)) → State → State) : State :=
  match Nb.current s bank with
  | none => s
  | some q => match q.left with
    | [] => s
    | (pos, c) :: _ => match rows c with
      | none => s
      | some rs =>
        if !Nb.runs s then s
        else match openRows s bank q.owner rs with
          | .error (st, s) => Nb.failSeq s bank pos st
          | .ok (ds, s) => Nb.stepSeq (f q c ds s) bank c

def rowCopyEffect (bank : Nat) (q : NbSeq) (c : NbCmd) (ds : List (List (Option Bytes))) (s : State) : State :=
  match c with
  | .rowCopy a b => if a = b then s else Nb.putRow s bank q.owner b (ds.headD [])
  | _ => s

/-- ROWCOPY (R290). -/
def execRowcopy (bank : Nat) (s : State) : Result :=
  .next (runNb s bank (fun c => match c with
      | .rowCopy a _ => some [a]
      | _ => none) (rowCopyEffect bank))

def rowInitEffect (bank : Nat) (q : NbSeq) (c : NbCmd) (_ds : List (List (Option Bytes))) (s : State) : State :=
  match c with
  | .rowInit d p r => Nb.putRow s bank q.owner d (Nb.initLines (Nb.bank s bank) p r)
  | _ => s

/-- ROWINIT (R290). -/
def execRowinit (bank : Nat) (s : State) : Result :=
  .next (runNb s bank (fun c => match c with
      | .rowInit _ _ _ => some []
      | _ => none) (rowInitEffect bank))

def rowLogicEffect (bank : Nat) (q : NbSeq) (c : NbCmd) (ds : List (List (Option Bytes))) (s : State) : State :=
  match c with
  | .rowLogic d _ _ op => Nb.putRow s bank q.owner d (Nb.logicLines op ds)
  | _ => s

/-- ROWLOGIC (R299): both rows are read before the write. -/
def execRowlogic (bank : Nat) (s : State) : Result :=
  .next (runNb s bank (fun c => match c with
      | .rowLogic _ a b op => some (if op = 6 then [a] else [a, b])
      | _ => none) (rowLogicEffect bank))

/-- OPLOAD (R298). -/
def execOpload (bank : Nat) (s : State) : Result :=
  .next (runNb s bank (fun c => match c with
      | .opLoadInline _ _ => some []
      | .opLoadRow _ r _ => some [r]
      | _ => none) (fun _ c ds s => Nb.loadEffect bank c ds s))

/-- POPACC (R300). -/
def execPopacc (bank : Nat) (s : State) : Result :=
  .next (runNb s bank (fun c => match c with
      | .popAcc r .. => some [r]
      | _ => none) (fun _ c ds s => Nb.popEffect bank c ds s))

/-- ACCOUT (R302). -/
def execAccout (bank : Nat) (s : State) : Result :=
  .next (runNb s bank (fun c => match c with
      | .accOut .. => some []
      | _ => none) (fun q c _ s => Nb.outEffect bank q.owner c s))

/-- After a sequence: a sketch scan gives its fragment the output, and fragments that wait for the bank go on. -/
def seqEnded (bank : Nat) (q : NbSeq) (s : State) : State :=
  let s := match q.scan with
    | some z => scanEnded s z q.status (Nb.bank s bank).acc
    | none => s
  if s.mgmt then resumeFrags s else s

/-- END (R297, R308): at an END command, past the last command, or after a command that failed. -/
def execSeqEnd (bank : Nat) (s : State) : Result :=
  match Nb.current s bank with
  | none => .next s
  | some q =>
    if !Nb.runs s then .next s
    else match q.left with
    | [] => .next (seqEnded bank q (Nb.endSeq s bank q))
    | (_, .end_) :: _ => .next (seqEnded bank q (Nb.endSeq s bank { q with done := q.done + 1 }))
    | _ => .next s

/-! Sharing the bank (R310 to R313). -/

/-- R311: the duty in force of a stack, in sixteenths. -/
def dutyInForce (s : State) (stack : Nat) : Nat :=
  min (s.cfg Ent.nearBankDutyMax) (min s.nb.duty (if (s.nb.thermal.getD stack ⟨32, 0, 0, 0, false⟩).capped then 8 else 16))

/-- An access from outside has the slot: its row is open, and it has passed over the unit's access (R309). -/
def noteExternal (s : State) (bank : Nat) (g : Grant) (external : Option Nat) (wants : Bool) : State :=
  match g, external with
  | .external, some r => (Nb.noteOpen s bank r).bump Ent.externalPreemptions (if wants then 1 else 0)
  | _, _ => s

/-- The unit's next command needs a slot: it opens a row that stands in no staging buffer, or writes one (R309). The slot of a row that
the unit looks ahead to is taken in its command's own turn. -/
def needsSlot (b : Bank) : NbCmd → Bool
  | .end_ => false
  | .opLoadInline _ _ => false
  | .opLoadRow _ r _ => (b.staged.lookup r).isNone
  | .popAcc r .. => (b.staged.lookup r).isNone
  | _ => true

/-- The unit waits for a slot of its bank; an emulated unit takes none (R320). -/
def unitWants (s : State) (b : Bank) : Bool :=
  b.running && !b.emulated && Nb.runs s && (match b.queue.head?.bind (·.left.head?) with
    | some c => needsSlot b c.2
    | none => false)

/-- R313: the wait for the unit of an external request, in ns, after the slot that is granted now: the slot in progress when the request
came counts where the unit has it, taken as a whole slot; a refresh that comes into the wait adds to it (DEDUCED, notes/assumptions/30.md). -/
def extWaitAfter (b : Bank) (external : Bool) (g : Grant) : Nat :=
  let before := if b.extWaiting then b.extWait else if b.grant = .unit then 32 else 0
  if !external then 0
  else if g = .unit ∨ (g = .refresh ∧ 0 < before) then before + 32 else before

/-- BANK_SLOT (R310, R311, R313): the next slot of a bank; `external` is the row of a waiting external request. -/
def execBankSlot (bank : Nat) (external : Option Nat) (s : State) : Result :=
  if 4096 ≤ bank ∨ !s.up 5 then .next s
  else
    let b := Nb.bank s bank
    let wants := unitWants s b
    let duty := decide (((b.recent.take 15).filter id).length < dutyInForce s (bank / 512))
    let turn := decide (s.cfg Ent.externalBurstMax ≤ b.waited)
    let g : Grant :=
      if 0 < b.refreshSlots then .refresh
      else if external.isSome && !(wants && duty && turn) then .external
      else if wants && duty then .unit
      else .none
    let s := noteExternal s bank g external wants
    let wait := extWaitAfter b external.isSome g
    let s := s.setNum Ent.maxExternalWaitNs (max (s.num Ent.maxExternalWaitNs) wait)
    let waits := external.isSome && g != .external
    .next (Nb.mapBank s bank fun b => { b with
      refreshSlots := b.refreshSlots - 1, grant := g, recent := (decide (g = .unit) :: b.recent).take 16
      waited := if g = .external ∧ wants then b.waited + 1 else if g = .refresh then b.waited else 0
      extWait := if waits then wait else 0, extWaiting := waits })

/-! Refresh (R314 to R318). -/

/-- The refresh window of a bank's stack, in ms. -/
def bankWindow (s : State) (bank : Nat) : Nat := (s.nb.thermal.getD (bank / 512) ⟨32, 0, 0, 0, false⟩).window

/-- R314, R316: every row of a group has been opened within the last half window of `w` ms, which is 5,184 visits at its pace. An
open may lie as far back as the visit before it; the time since then, the interval to this visit included, counts. -/
def groupFresh (b : Bank) (w : Nat) : Bool :=
  (List.range 8).all fun i => match b.opened.lookup (b.group * 8 + i) with
    | some t => decide (b.visits + w - t ≤ 5184 * w)
    | none => false

/-- REFRESH_VISIT (R314, R316). -/
def execRefreshVisit (bank : Nat) (s : State) : Result :=
  if 4096 ≤ bank ∨ !s.up 5 then .next s
  else
    let b := Nb.bank s bank
    let next (n : Nat) : State := Nb.mapBank s bank fun b => { b with
      group := (b.group + 1) % 10368, refreshSlots := b.refreshSlots + n, visits := b.visits + bankWindow s bank }
    if s.cfg Ent.refreshSkip = 1 ∧ groupFresh b (bankWindow s bank) then
      .next ((next 0).bump Ent.refreshSkipped)
    else .next ((next 2).bump Ent.refreshEvents)

/-- NEIGHBOUR_REFRESH (R317). -/
def execNeighbourRefresh (bank row : Nat) (s : State) : Result :=
  let row := Nb.physRow s bank row
  let n := ((Nb.bank s bank).opens.lookup row).getD 0
  if s.up 5 && decide (s.cfg Ent.neighbourRefreshLimit ≤ n) then
    .next ((Nb.mapBank s bank fun b => { b with
      refreshSlots := b.refreshSlots + 1, opens := b.opens.filter fun (x : Nat × Nat) => x.1 != row }).bump Ent.neighbourRefreshes)
  else .next s

/-- R312, R315: one reading of a stack's temperature. Two consecutive readings span the 2 ms (DEDUCED,
notes/assumptions/30.md). -/
def readStack (k : Stack) (t : Nat) : Stack :=
  let c95 := if t ≤ 93 then k.cool95 + 1 else 0
  let c85 := if t ≤ 83 then k.cool85 + 1 else 0
  let w :=
    if 95 < t then 8
    else if 85 < t then (if k.window = 8 ∧ c95 < 2 then 8 else 16)
    else if k.window = 32 ∨ 2 ≤ c85 then 32
    else if k.window = 8 ∧ c95 < 2 then 8 else 16
  { window := w, temp := t, cool95 := c95, cool85 := c85, capped := if 100 < t then true else if t < 95 then false else k.capped }

/-- STACK_TEMP_READ (R312, R315): one reading for each stack. -/
def execStackTempRead (temps : List Nat) (s : State) : Result :=
  if !s.up 5 then .next s
  else .next { s with nb := { s.nb with thermal := (List.range s.nb.thermal.length).zip s.nb.thermal |>.map fun q => match temps[q.1]? with
    | some t => readStack q.2 t
    | none => q.2 } }

end Sys2Proof.Machine
end

