-- ==== Sys2Proof/Machine/MemRows.lean ====
section
/-! DEFINITION. The commands of stack and shelf memory and of the host's own range (08_memory_tiers.md, 15_host_interface.md
R526 to R529), with what ends a hold. -/

namespace Sys2Proof.Machine

open Sys2Proof

/-! Leaving Neap (R635). -/

/-- R635: an exit starts: out of Neap the clusters and flash units are powered and domains 7 and 8 wait for release; out of
EnteringNeap the entry ends. -/
def leaveNeap (s : State) (cause : Nat) : State :=
  if s.rst.powerState = 2 then
    { s with rst := { s.rst with powerState := 3, toRelease := [7, 8], neapFrom := s.now } }.setNum Ent.neapExitCause cause
  else if s.rst.powerState = 1 then
    { s with rst := { s.rst with powerState := 3, toRelease := [], neapFrom := s.now } }.setNum Ent.neapExitCause cause
  else s

/-! Host accesses. -/

/-- The line of an access. -/
def hostLine (hpa : Nat) : Nat := hpa / 64 * 64

/-- The host may hold the line from now on (R410). -/
def noteHostHeld (s : State) (hpa : Nat) : State :=
  if s.host.hostHeld.contains (hpa / 64) then s else { s with host := { s.host with hostHeld := s.host.hostHeld ++ [hpa / 64] } }

/-- A host read is answered with poison (R528, R529); the host may hold the poisoned line. -/
def poisonRead (s : State) (hpa : Nat) : State :=
  noteHostHeld ((s.emit (.memData hpa true (List.replicate 64 0))).bump Ent.poisonResponses) hpa

/-- The zeroing of R269 still waits for the host: its back-invalidations come before the first zero answer. -/
def zeroing (s : State) : Bool := decide (s.host.zeroNext < s.host.zeroEnd) || s.host.bisnp.any fun b => b.zeroing

/-- A read of a line whose page lies in memory (R527, R528), behind the earlier requests to the line (R402). -/
def readInMemory (s : State) (hpa a : Nat) : State :=
  let s := touchAddr (Coh.settled s a 64) a
  if Coh.check s (hdmOwner s) (lineOf a) = St.ok then
    noteHostHeld (s.emit (.memData hpa false (padTo 64 (Coh.supply s (lineOf a)).1))) hpa
  else (poisonRead s hpa).logEvent 0x12 Oc.info St.uncorrectable 0 nodeUnit a

/-- Answer a host access that nothing holds; none where it must be held: its page lies in flash, no stack page is free, or
the zeroing is not done. -/
def serveHost (s : State) (hpa : Nat) (write : Option Bytes) : Option State :=
  if hdmDead s then
    if zeroing s then none
    else match write with
      | none => some (noteHostHeld (s.emit (.memData hpa false (List.replicate 64 0))) hpa)
      | some _ => some (s.emit (.memDone hpa))
  else match Mem.page s.mem (hdmPage s hpa), write with
    | none, none => some (noteHostHeld (s.emit (.memData hpa false (List.replicate 64 0))) hpa)
    | none, some d =>
      (hdmBack s hpa).bind fun s => (hdmAddr s hpa).map fun a => (agentWrite s (hdmOwner s) a d).2.emit (.memDone hpa)
    | some _, none => (hdmAddr s hpa).map fun a => readInMemory s hpa a
    | some _, some d => (hdmAddr s hpa).map fun a => (agentWrite s (hdmOwner s) a d).2.emit (.memDone hpa)

/-- R268, R267: what holding an access starts and counts. -/
def startHold (s : State) (hpa : Nat) (write : Option Bytes) : State :=
  match Mem.page s.mem (hdmPage s hpa) with
  | none => holdAccess (if write.isSome ∧ !hdmDead s then s.bump Ent.allocationStalls else s) hpa write false false
  | some p =>
    if hdmDead s then holdAccess s hpa write false false
    else holdAccess ((promote (touch s p.id) p 2).2.bump Ent.heldHostAccesses) hpa write false true

/-- A host CXL.mem access reaches the node (R267, R268, R527, R634). -/
def hostAccess (s : State) (hpa : Nat) (write : Option Bytes) : State :=
  if !s.host.linkUp || !inHdm s hpa 64 then s
  else if inNeap s || s.rst.powerState == 3 then
    let flash := !hdmDead s && (Mem.page s.mem (hdmPage s hpa)).any fun p => p.tier == .flash
    leaveNeap (holdAccess (if flash then s.bump Ent.heldHostAccesses else s) hpa write false flash) 2
  else match serveHost s hpa write with
    | some s => s
    | none => startHold s hpa write

/-- HOST_MEM_READ (R527). -/
def execHostMemRead (hpa : Nat) (s : State) : Result := .next (hostAccess s (hostLine hpa) none)

/-- HOST_MEM_WRITE (R267). -/
def execHostMemWrite (hpa : Nat) (data : Bytes) (s : State) : Result := .next (hostAccess s (hostLine hpa) (some (padTo 64 data)))

/-! Holds. -/

/-- How long an access has been held, in ns. -/
def holdNs (s : State) (h : HeldAccess) : Nat := (s.subticks - h.since) * s.tide.periodNs / 1024

/-- The longest hold under R268, in ns. -/
def noteHold (s : State) (h : HeldAccess) : State :=
  if h.promotion && !h.inside then s.setNum Ent.maxHoldNs (max (s.num Ent.maxHoldNs) (holdNs s h)) else s

def dropHold (s : State) (h : HeldAccess) : State :=
  { s with host := { s.host with held := s.host.held.filter fun x => x.id != h.id } }

/-- Serve one held access if it can be served now: a write of the node itself goes the way of R410. -/
def serveOne (s : State) (h : HeldAccess) : State :=
  if h.inside then
    match h.write with
    | none => dropHold s h
    | some d =>
      let free := hdmDead s || ((hdmAddr s h.hpa).isSome && !dmaHeld s (hdmPage s h.hpa)) || ((Mem.page s.mem (hdmPage s h.hpa)).isNone && (Mem.findStack s.mem).isSome)
      if free then hdmStore (dropHold (noteHold s h) h) h.hpa d else s
  else match serveHost s h.hpa h.write with
    | some s' => dropHold (noteHold s' h) h
    | none => s

/-- R276, R635: after a switch, or out of Neap, the held accesses that can be served are served in order; a page in flash
whose promotion found no stack page is tried again. -/
def serveHeld (s : State) : State :=
  let again (s : State) (h : HeldAccess) : State := match Mem.page s.mem (hdmPage s h.hpa) with
    | some p => if p.tier == Tier.flash && (Mem.move s.mem p.id).isNone && (Mem.findStack s.mem).isSome then (promote s p (if h.inside then 3 else 2)).2 else s
    | none => s
  if inNeap s || s.rst.powerState == 3 then s
  else sendLate (s.host.held.foldl (fun s h => again (serveOne s h) h) s)

/-- The node physical address of a held access: of its page in memory, or where the page is on its way to; of a page in flash that
finds no stack page there is none, and the record holds a free value (DESIGN CHOICE, notes/assumptions/68.md). -/
def heldAddr (s : State) (hpa : Nat) : Nat × State :=
  let going := (Mem.move s.mem (hdmPage s hpa)).bind fun v => (Mem.Tier.addr v.to_).map (· + (hpa - s.host.hdmBase) % 65536)
  match hdmAddr s hpa, going with
  | some a, _ => (a, s)
  | none, some a => (a, s)
  | none, none => s.drawFree

/-- HOLD_TIMEOUT (R529): the time of the hold is measured on the phase PLL. -/
def execHoldTimeout (id : Nat) (s : State) : Result :=
  match s.host.held.find? fun h => h.id == id with
  | none => .next s
  | some h =>
    let stalled := (Mem.page s.mem (hdmPage s h.hpa)).isNone && !inNeap s && s.rst.powerState != 3 && !hdmDead s
    if h.inside || stalled || holdNs s h < s.cfg Ent.holdLimitNs then .next s
    else
      let s := dropHold (noteHold s h) h
      let s := match h.write with
        | none => poisonRead s h.hpa
        | some _ => s.emit (.memDone h.hpa)
      let (d, s) := heldAddr s h.hpa
      .next ((s.bump Ent.holdTimeouts).logEvent 0x12 Oc.info St.ok 0 nodeUnit d)

/-! Moves. -/

/-- The memory controllers and node firmware run, so that pages move. -/
def moverRuns (s : State) : Bool := s.up 5 && s.mgmt

/-- STACK_DEMOTION (R278): while free pages are below the low mark, or a demotion runs on to the high mark. -/
def execStackDemotion (s : State) : Result :=
  let due := s.mem.demoting || decide (Mem.freeStack s.mem < s.cfg Ent.stackLowMarkPages)
  if !moverRuns s || inNeap s || s.num Ent.flashReady = 0 || !due then .next s
  else
    let s := demoteNow s
    .next { s with mem := { s.mem with demoting := decide (Mem.freeStack s.mem < s.cfg Ent.stackHighMarkPages) } }

/-- SHELF_DEMOTION (R279). -/
def execShelfDemotion (s : State) : Result :=
  if !moverRuns s || inNeap s then .next s else .next (demoteShelf s.mem.pages.length s)

/-- R276: every line of a move has reached its destination. -/
def moveComplete (s : State) (v : Move) (p : Page) : Bool :=
  match p.tier, v.to_ with
  | .flash, _ => !Flash.reading s.flash (.page p.id)
  | _, .flash => (pageCodewords p.id p.swap).all fun l => Flash.durable s.flash l
  | _, _ => true

/-- PAGE_MOVE_SWITCH (R276): accesses held for the page are served after it. -/
def execPageMoveSwitch (page : PageId) (s : State) : Result :=
  match Mem.move s.mem page, Mem.page s.mem page with
  | some v, some p => if moverRuns s && moveComplete s v p then .next (resumeIssues (serveHeld (switchMove s v p))) else .next s
  | _, _ => .next s

/-- SWEEP_COMPLETE (R259, R493): the slot takes a new key once no page or line carries it and its unmaps belong to a
complete flush. -/
def execSweepComplete (slot : Nat) (s : State) : Result :=
  match s.key.sweeping.find? fun p => p.1 == slot with
  | none => .next s
  | some p =>
    if s.mgmt && ownerCount s slot == 0 && decide (p.2 < s.flash.durable) then
      .next { s with key := { s.key with
        sweeping := s.key.sweeping.filter fun q => q.1 != slot, slots := s.key.slots.filter fun q => q.1 != slot } }
    else .next s

/-! Zeroing of the host range (R269, R527, R602). -/

/-- Issue back-invalidations of the zeroing's next blocks while fewer than 64 are outstanding. -/
def sendBlocks : Nat → State → State
  | 0, s => s
  | n + 1, s =>
    if s.host.zeroNext < s.host.zeroEnd ∧ s.host.bisnp.length < 64 then
      let b := s.host.zeroNext
      sendBlocks n (backInvalidate { s with host := { s.host with zeroNext := b + 4 } } ⟨b, 4, 0, [], true, none⟩)
    else s

def sendZeroing (s : State) : State := sendBlocks 64 s

/-- R269, R527: back-invalidate the whole committed range in blocks of 4 lines. -/
def zeroRange (s : State) : State :=
  if s.host.hdmCommitted && s.host.linkUp then
    sendZeroing { s with host := { s.host with zeroNext := s.host.hdmBase / 64, zeroEnd := (s.host.hdmBase + s.cfg Ent.hdmBytes) / 64 } }
  else s

end Sys2Proof.Machine
end

