-- ==== Sys2Proof/Machine/TableOps.lean ====
section
/-! DEFINITION. Embedding tables (11_sessions_pools_tables.md R381 to R393): rows and granules, row pointers, lookups here and over
Strand, versions, merges of updates (R217), staged rows, storage on other nodes, load and migration. -/

namespace Sys2Proof.Machine

open Sys2Proof Sys2Proof.Num

namespace Table

/-! Parameters. -/

def state (s : State) (t : Nat) : Nat := s.num (Ent.tableStTableState t)

/-- The Open table slot of a TableId. -/
def find (s : State) (id : Nat) : Option Nat :=
  (List.range 256).find? fun t => id != 0 && s.cfg (Ent.tableTableId t) == id && state s t == 2

/-- The slot of a TableId that serves work of a stamp: from its opening boundary on, and not from its closing boundary on
(R60, R381). -/
def findAt (s : State) (id stamp : Nat) : Option Nat :=
  (List.range 256).find? fun t => id != 0 && s.cfg (Ent.tableTableId t) == id && (state s t == 2 || state s t == 3)
    && s.tbl.openings.all (fun x => x.slot != t || decide (x.boundary ≤ stamp))
    && s.tbl.closings.all (fun x => x.slot != t || decide (stamp < x.boundary))

/-- The Open or Closing slot of a TableId: work stamped before its closing boundary continues. -/
def findServing (s : State) (id : Nat) : Option Nat :=
  (List.range 256).find? fun t => id != 0 && s.cfg (Ent.tableTableId t) == id && (state s t == 2 || state s t == 3)

def id (s : State) (t : Nat) : Nat := s.cfg (Ent.tableTableId t)
def owner (s : State) (t : Nat) : Nat := s.cfg (Ent.tableOwnerSlot t) % 4096
def fmt (s : State) (t : Nat) : Nat := s.cfg (Ent.tableRowFormat t)
def elems (s : State) (t : Nat) : Nat := s.cfg (Ent.tableRowElements t)
def rowBytes (s : State) (t : Nat) : Nat := elems s t * widthOf (fmt s t) / 8
def rowCount (s : State) (t : Nat) : Nat := s.cfg (Ent.tableRowCount t)
def snapshot (s : State) (t : Nat) : Bool := s.cfg (Ent.tableMode t) == 1
def job (s : State) (t : Nat) : Nat := s.cfg (Ent.tableJobId t)
def shoals (s : State) (t : Nat) : Nat := max 1 (s.cfg (Ent.tableShoalCount t))

/-- The shoal nodes of a table, in shoal order. -/
def shoalNodes (s : State) (t : Nat) : List Nat :=
  ((records 4 (s.cfgB (Ent.tableShoalMap t))).map fun r => leNat r % 2 ^ 20).take (s.cfg (Ent.tableShoalCount t))

def shoalNode (s : State) (t row : Nat) : Nat := (shoalNodes s t).getD (row % shoals s t) 0

/-- The row's shoal node is this node. -/
def here (s : State) (t row : Nat) : Bool := shoalNode s t row == s.strand.nodeId

/-- R360: a row's shoal node lies in the composition. -/
def inMap (s : State) (t row : Nat) : Bool := inComposition s (shoalNode s t row)

/-- R381: the granules of a row. -/
def span (s : State) (t : Nat) : Nat := (rowBytes s t + 511) / 512

/-- The lines of a row. -/
def rowLines (s : State) (t : Nat) : Nat := (rowBytes s t + 63) / 64

/-! Row pointers. -/

def ptrFresh (p : Nat) : Bool := bit p 50
def ptrGranule (p : Nat) : Nat := bits p 49 20
def ptrNode (p : Nat) : Nat := bits p 19 0
def ptrTide (now p : Nat) : Nat := expandTide now (bits p 63 51)

def mkPtr (v granule node : Nat) : Nat := v % 8192 * 2 ^ 51 + 2 ^ 50 + granule * 2 ^ 20 + node

/-- R382: a version is visible to a stamp. -/
def visible (now stamp p : Nat) : Bool := !ptrFresh p || decide (ptrTide now p ≤ stamp)

/-- R382: the version of an entry that a stamp takes: Current, else Prior, else none. -/
def pick (now stamp : Nat) (e : Nat × Nat) : Option Nat :=
  if visible now stamp e.1 then some e.1 else if visible now stamp e.2 then some e.2 else none

/-- A version stored on another node. -/
def elsewhere (s : State) (p : Nat) : Bool := ptrGranule p != 0 && ptrNode p != s.strand.nodeId

/-! Granules (R384; the exported range of this node). -/

def base (s : State) : Nat := stackEnd - s.mem.exported * 65536

def addr (s : State) (g : Nat) : Nat := base s + 512 * g

/-- The lowest run of n granules in an exported range of `total` that no version uses. Granule 0 marks an absent row. -/
def freeRun (used : List Nat) (n total : Nat) : Option Nat :=
  (List.range (used.length * n + 2)).find? fun g =>
    g != 0 && decide (g + n ≤ total) && (List.range n).all fun i => !used.contains (g + i)

/-- Reserve granules for one version of a row. -/
def reserve (s : State) (t : Nat) : Option (Nat × State) :=
  let n := span s t
  (freeRun (s.tbl.granules.map (·.2)) n (s.mem.exported * 128)).map fun g =>
    (g, { s with tbl := { s.tbl with granules := s.tbl.granules ++ (List.range n).map fun i => (t, g + i) } })

/-- Give back the granules of one version. -/
def release (s : State) (t g : Nat) : State :=
  let mine := (List.range (span s t)).map (· + g)
  { s with tbl := { s.tbl with granules := s.tbl.granules.filter fun x => !mine.contains x.2 } }

/-- Free the granules of a version at a boundary. -/
def freeAt (s : State) (t p boundary : Nat) : State :=
  { s with tbl := { s.tbl with freeing := s.tbl.freeing ++ [(t, ptrGranule p, boundary)] } }

/-- Write a row into its granules; bytes beyond RowBytes are 0 (R381). -/
def writeRow (s : State) (t g : Nat) (data : Bytes) : Nat × State :=
  agentWrite s (owner s t) (addr s g) (padTo (512 * span s t) data)

/-- R392: a stored row has been read: `n` bytes of it, `c` more reads. -/
def noteServed (s : State) (t row c n : Nat) : State :=
  let mine (x : ServedRow) : Bool := x.slot == t && x.row == row
  let x := (s.tbl.served.find? mine).getD ⟨t, row, 0, 0⟩
  { s with tbl := { s.tbl with served := (s.tbl.served.filter fun x => !mine x) ++ [{ x with count := x.count + c, bytes := x.bytes + n }] } }

/-- The bytes that a pointer to this node's granules names; zeros for an absent row. -/
def bytesAt (s : State) (t p : Nat) : Nat × Bytes × State :=
  if ptrGranule p = 0 then (St.ok, List.replicate (rowBytes s t) 0, s)
  else agentRead s (owner s t) (addr s (ptrGranule p)) (rowBytes s t)

/-- Read a row that this node stores, as it is served (R392). -/
def readRow (s : State) (t row p : Nat) : Nat × Bytes × State :=
  let r := bytesAt s t p
  (r.1, r.2.1, if ptrGranule p = 0 then r.2.2 else noteServed r.2.2 t row 1 (rowBytes s t))

/-! The directory. -/

def entry (s : State) (t row : Nat) : DirEntry :=
  match s.tbl.dirs.find? fun d => d.slot == t && d.row == row with
  | some d => d
  | none => ⟨t, row, 0, 0⟩

def setEntry (s : State) (d : DirEntry) : State :=
  { s with tbl := { s.tbl with dirs := (s.tbl.dirs.filter fun x => !(x.slot == d.slot && x.row == d.row)) ++ [d] } }

/-! Messages of class 6. -/

def sumCode : SumKind → Nat
  | .updates => 0 | .sums => 1 | .base => 2 | .replace => 3 | .installed => 4
  | .reserve => 5 | .free => 6 | .abandon => 7 | .migrate => 8 | .failed => 9

def sendSums (s : State) (dest t : Nat) (kind : SumKind) (commit : Nat) (rows : List (Nat × Nat × Bytes)) (use : MsgUse) : State :=
  sendMessage s dest 6 (job s t) 0x0031 ([id s t, sumCode kind, commit] ++ rows.flatMap fun r => [r.1, r.2.1])
    (rows.map fun r => r.2.2) use

/-- R384: a version that no pointer names any longer is freed at the third boundary from now, by the node that stores it. -/
def retire (s : State) (t row p : Nat) : State :=
  if ptrGranule p = 0 then s
  else if ptrNode p = s.strand.nodeId then freeAt s t p (s.now + 3)
  else sendSums s (ptrNode p) t .free (s.now + 3) [(row, p, [])] .forward_

/-- R384: install a version by its pointer: Prior becomes the old Current. -/
def install (s : State) (t row p : Nat) : State :=
  let e := entry s t row
  let s := if e.prior = e.cur then s else retire s t row e.prior
  (setEntry s ⟨t, row, p, e.cur⟩).bump (Ent.tableStVersionsInstalled t)

/-- Write a new version of a row of this shoal node on this node and install it with Tide V. -/
def newVersion (s : State) (t row g v : Nat) (data : Bytes) : State :=
  install (writeRow s t g data).2 t row (mkPtr v g s.strand.nodeId)

/-! Lookups (R382, R383, R391). -/

/-- How a lookup ends. -/
inductive Found where
  | row (data : Bytes)
  | fails (status : Nat)
  deriving DecidableEq, Repr

/-- A version of the row is awaited from its storage node (R389): entry reads of its Tide or later wait. -/
def held (s : State) (t row stamp : Nat) : Bool :=
  s.tbl.updates.any fun u => u.slot == t && u.row == row && u.sent && decide (u.commit ≤ stamp)

def noteLookup (s : State) (t row : Nat) : State :=
  let mine (x : LookedRow) : Bool := x.slot == t && x.row == row
  let x := (s.tbl.looked.find? mine).getD ⟨t, row, 0⟩
  { s with tbl := { s.tbl with looked := (s.tbl.looked.filter fun x => !mine x) ++ [{ x with count := x.count + 1 }] } }

/-- R391: the cached row that a chosen pointer names. -/
def cached (s : State) (t row p : Nat) : Option HotRow :=
  s.tbl.hot.find? fun h => h.slot == t && h.row == row && h.ptr == p && !ptrFresh p

/-! Rows of other nodes (R382, R383): the entry and the granules are read over Strand, a line at a time. -/

def isFar (u : RowUser) (t row : Nat) (x : FarRow) : Bool := x.user == u && x.slot == t && x.row == row

def far (s : State) (u : RowUser) (t row : Nat) : Option FarRow := s.tbl.far.find? (isFar u t row)

def putFar (s : State) (f : FarRow) : State :=
  { s with tbl := { s.tbl with far := (s.tbl.far.filter fun x => !isFar f.user f.slot f.row x) ++ [f] } }

/-- A user has what it wanted, or is gone. -/
def dropFar (s : State) (gone : RowUser → Bool) : State := { s with tbl := { s.tbl with far := s.tbl.far.filter fun x => !gone x.user } }

/-- A READ of class 6 under the table's job. -/
def readLine (s : State) (t dest a : Nat) (use : Purpose) : Option State :=
  sendRequest s { emptyFrame with kind := Kind.read, cls := 6, dest := dest, job := job s t, addr := a } use false

/-- The line of a row's directory entry, and the entry's place in it (entry r div ShoalCount of the shoal's directory). -/
def entryLine (s : State) (t row : Nat) : Nat := 64 * (Config.directoryLine (id s t) (row % shoals s t) + row / shoals s t / 4)
def entryPlace (s : State) (t row : Nat) : Nat := row / shoals s t % 4 * 16

/-- Choose the version for a row whose entry has been read, and read its granules: from the cache, here, or over Strand. -/
def chooseFar (s : State) (f : FarRow) (e : Nat × Nat) : State :=
  match pick s.now f.stamp e with
  | none => putFar (s.bump Ent.snapshotMisses) { f with entry := some e, done := some (St.retry, []) }
  | some p =>
    let f := { f with entry := some e, ptr := p }
    match cached s f.slot f.row p with
    | some h => putFar (s.bump (Ent.tableStCacheHits f.slot)) { f with done := some (St.ok, h.data) }
    | none =>
      if elsewhere s p then
        let at_ := 512 * (Config.exportGranule (id s f.slot) (ptrNode p) + ptrGranule p)
        let sent := (List.range (rowLines s f.slot)).foldl (fun (acc : Option State) i => acc.bind fun s =>
          readLine s f.slot (ptrNode p) (at_ + 64 * i) (.granule f.user f.slot f.row i f.tide)) (some s)
        match sent with
        | some s => putFar s f
        | none => putFar s { f with done := some (St.retry, []) }
      else
        let r := readRow s f.slot f.row p
        putFar r.2.2 { f with done := some (r.1, r.2.1) }

/-- Begin to read a row: its entry, here or over Strand. P of R383 is the Tide in which the read of the entry leaves (DEDUCED,
notes/assumptions/90.md). -/
def beginFar (s : State) (u : RowUser) (t row stamp : Nat) : State :=
  let f : FarRow := ⟨u, t, row, stamp, s.now, none, 0, [], none⟩
  if here s t row then chooseFar s f ((entry s t row).cur, (entry s t row).prior)
  else match readLine s t (shoalNode s t row) (entryLine s t row) (.entry u t row s.now) with
    | some s => putFar s f
    | none => putFar s { f with done := some (St.retry, []) }

/-- R383: discard what has come and read the entry again. -/
def restartFar (s : State) (f : FarRow) : State := beginFar (s.bump Ent.lookupRestarts) f.user f.slot f.row f.stamp

/-- The read of an entry has ended. -/
def entryCame (s : State) (u : RowUser) (t row tide status : Nat) (line : Bytes) : State :=
  match far s u t row with
  | none => s
  | some f =>
    if f.tide ≠ tide ∨ f.done.isSome ∨ f.entry.isSome then s
    else if status ≠ St.ok then putFar s { f with done := some (status, []) }
    else chooseFar s f (field line (entryPlace s t row) 8, field line (entryPlace s t row + 8) 8)

/-- The read of a line of the granules has ended (R383): used only before boundary P + 2. -/
def granuleCame (s : State) (u : RowUser) (t row i tide status : Nat) (line : Bytes) : State :=
  match far s u t row with
  | none => s
  | some f =>
    if f.tide ≠ tide ∨ f.done.isSome then s
    else if status ≠ St.ok then putFar s { f with done := some (status, []) }
    else if f.tide + 2 ≤ s.now then
      (match u with
      | .base _ _ => putFar s { f with done := some (St.retry, []) }
      | _ => restartFar s f)
    else
      let ls := (f.lines.filter fun x => x.1 != i) ++ [(i, line)]
      if ls.length < rowLines s t then putFar s { f with lines := ls }
      else
        let data := (List.range (rowLines s t)).flatMap fun j => padTo 64 ((ls.lookup j).getD [])
        putFar s { f with lines := ls, done := some (St.ok, data.take (rowBytes s t)) }

/-- A lookup of this row needs reads over Strand. -/
def needsFar (s : State) (t row stamp : Nat) : Bool :=
  !here s t row || (match pick s.now stamp ((entry s t row).cur, (entry s t row).prior) with
    | some p => elsewhere s p && (cached s t row p).isNone
    | none => false)

/-- Make a row ready for a lookup: true where nothing is to be waited for. -/
def ready (s : State) (u : RowUser) (t row stamp : Nat) : Bool × State :=
  if here s t row && held s t row stamp then (false, s)
  else
    let s := if !(far s u t row).isSome && needsFar s t row stamp then beginFar s u t row stamp else s
    ((far s u t row).all (·.done.isSome), s)

/-- Make rows ready: all reads start at once. -/
def readyAll (s : State) (u : RowUser) (t stamp : Nat) (rows : List Nat) : Bool × State :=
  rows.foldl (fun acc r => let q := ready acc.2 u t r stamp; (acc.1 && q.1, q.2)) (true, s)

/-- Look up a row that is ready, for work of a stamp. -/
def lookup (s : State) (u : RowUser) (t row stamp : Nat) : Found × State :=
  let s := s.bump (Ent.tableStLookups t)
  let found (r : Nat × Bytes) (s : State) : Found × State := if r.1 = St.ok then (.row r.2, noteLookup s t row) else (.fails r.1, s)
  match far s u t row with
  | some f => found (f.done.getD (St.retry, [])) s
  | none =>
    match pick s.now stamp ((entry s t row).cur, (entry s t row).prior) with
    | none => (.fails St.retry, s.bump Ent.snapshotMisses)
    | some p => match cached s t row p with
      | some h => found (St.ok, h.data) (s.bump (Ent.tableStCacheHits t))
      | none => let r := readRow s t row p; found (r.1, r.2.1) r.2.2

/-! Sums (R217). -/

/-- The sum of one element's updates as an 8-byte pattern: binary64 for floating-point rows, int64 for integer rows. It starts
from the first update (DESIGN CHOICE, notes/assumptions/89.md). -/
def sumElem (fmt : Nat) (ps : List Nat) : Nat :=
  if fmt = 5 ∨ fmt = 7 then toBits 64 ((ps.map (ofBits (widthOf fmt))).sum)
  else match ps.map (fun p => encode fp64 .rne (valueOf fmt p)) with
    | [] => 0
    | x :: l => l.foldl (addR fp64 .rne) x

/-- The sum of a row's updates in order of requester node and sequence: 8 bytes per element. -/
def sumRows (fmt n : Nat) (us : List RowUpdate) : Bytes :=
  let us := sortBy (fun (a b : RowUpdate) => decide (a.node < b.node) || (a.node == b.node && decide (a.seq < b.seq))) us
  let ps := us.map fun u => patterns fmt u.data
  (List.range n).flatMap fun i => leBytes 8 (sumElem fmt (ps.map fun l => l.getD i 0))

/-- The stored row with a sum added: one rounding, nearest even, to the row format. -/
def addSum (fmt n : Nat) (old sum : Bytes) : Bytes :=
  let o := patterns fmt old
  packElems fmt ((List.range n).map fun i =>
    let q := field sum (8 * i) 8
    let d : Fl := if fmt = 5 ∨ fmt = 7 then intFl (ofBits 64 q) else decode fp64 q
    roundTo fmt .rne (add (valueOf fmt (o.getD i 0)) d))

/-! Row commands at their intake node. -/

def findCmd (s : State) (cmd : Nat) : Option RowCommand := s.tbl.commands.find? fun c => c.cmd == cmd

def mapCmd (s : State) (cmd : Nat) (f : RowCommand → RowCommand) : State :=
  { s with tbl := { s.tbl with commands := s.tbl.commands.map fun c => if c.cmd == cmd then f c else c } }

def endCmd (s : State) (c : RowCommand) (status : Nat) : State :=
  let s := { s with tbl := { s.tbl with commands := s.tbl.commands.filter fun x => x.cmd != c.cmd } }
  s.finish c.cmd status (if status = St.ok then leBytes 6 c.apply else []) (s.now + 1)

/-- The tag that a PUT's messages carry: the command's own number. -/
def putTag (s : State) (c : RowCommand) : Nat × Nat := (s.strand.nodeId, c.cmd)

def sendPut (s : State) (dest t code tag : Nat) (words : List Nat) (blobs : List Bytes) (use : MsgUse) : State :=
  sendMessage s dest 6 (job s t) 0x0030 ([code, tag, id s t] ++ words) blobs use

/-- Staged rows of a PUT have been committed. -/
def commitStaged (s : State) (put : Nat × Nat) : State :=
  { s with tbl := { s.tbl with staged := s.tbl.staged.map fun r => if r.put == put then { r with committed := true } else r } }

/-- Discard the staged rows of a PUT and free their granules. -/
def withdraw (s : State) (put : Nat × Nat) : State :=
  let mine := s.tbl.staged.filter fun r => r.put == put
  let s := { s with tbl := { s.tbl with staged := s.tbl.staged.filter fun r => r.put != put } }
  mine.foldl (fun s r => release s r.slot r.granule) s

/-- R388: Withdraw goes to every shoal node and the PUT completes with RETRY. -/
def withdrawPut (s : State) (c : RowCommand) : State :=
  let s := c.nodes.foldl (fun s n => sendPut s n c.slot 2 c.cmd [] [] .forward_) (withdraw s (putTag s c))
  endCmd s c St.retry

/-- Who waits for a request to a storage node. -/
def askers (a : Ask) : List Asker :=
  match a.kind with
  | .reserve us => us.map (·.1)
  | .replace w => [w]
  | _ => []

/-- The outcome of an asker's rows is awaited. -/
def awaited (s : State) (w : Asker) : Bool := s.tbl.asks.any fun a => (askers a).contains w

/-- Every shoal node has answered: a tide-snapshot PUT sends Commit, the other commands end. A node without a route is not asked; it
answers RETRY at once (R441). -/
def settleCmd (s : State) (cmd : Nat) : State :=
  match findCmd s cmd with
  | none => s
  | some c =>
    if !c.waiting.isEmpty || awaited s (.cmd cmd) then s
    else if c.put && snapshot s c.slot then
      if c.committed then s
      else if c.failed then withdrawPut s c
      else
        let s := mapCmd (commitStaged s (putTag s c)) cmd fun c => { c with committed := true, waiting := c.nodes }
        c.nodes.foldl (fun s n => sendPut s n c.slot 1 cmd [] [] (.rows cmd n)) s
    else endCmd s c c.status

/-- A shoal node has answered a row command. -/
def noteCmd (s : State) (cmd node status : Nat) : State :=
  mapCmd s cmd fun c => { c with
    waiting := if status = St.ok ∨ !c.committed then c.waiting.filter (· != node) else c.waiting
    failed := c.failed || status != St.ok, status := max c.status status }

def cmdAnswered (s : State) (cmd node status : Nat) : State := settleCmd (noteCmd s cmd node status) cmd

/-- R388: at boundary C a committed PUT completes: OK where every shoal node took the Commit, else INDETERMINATE. -/
def endPuts (s : State) : State :=
  (s.tbl.commands.filter fun c => c.put && c.committed && decide (c.apply ≤ s.now)).foldl (fun s c =>
    endCmd s c (if c.waiting.isEmpty then St.ok else St.indeterminate)) s

/-- Tell an asker the outcome of one of its rows; a message is answered once nothing of it is awaited. -/
def tell (s : State) (w : Asker) (status : Nat) : State :=
  match w with
  | .cmd c => settleCmd (mapCmd s c fun c => { c with failed := c.failed || status != St.ok, status := max c.status status }) c
  | .run r => { s with gph := { s.gph with runs := s.gph.runs.map fun (x : Run) => if x.id == r then { x with answer := max x.answer status } else x } }
  | .nobody => s
  | .msg d =>
    let st := max status ((s.tbl.owed.lookup d).getD St.ok)
    let rest := s.tbl.owed.filter fun x => x.1 != d
    if awaited s w then { s with tbl := { s.tbl with owed := rest ++ [(d, st)] } }
    else answerWhole { s with tbl := { s.tbl with owed := rest } } d st

/-! Accepting updates (R389, R390). -/

/-- The boundary at which an update that arrives now commits. -/
def commitTide (s : State) : Nat := if s.tide.phase < s.cfg Ent.mergeCutoffPhase then s.now + 1 else s.now + 2

def addUpdate (s : State) (u : RowUpdate) : State := { s with tbl := { s.tbl with updates := s.tbl.updates ++ [u] } }

/-- Ask a storage node, and keep what is asked until its answer. -/
def ask (s : State) (dest t row commit : Nat) (kind : AskKind) (msg : SumKind) (ptr : Nat) (data : Bytes) : State :=
  let tag := s.tbl.nextAsk
  let s := { s with tbl := { s.tbl with asks := s.tbl.asks ++ [⟨tag, t, row, commit, kind⟩], nextAsk := tag + 1 } }
  sendSums s dest t msg commit [(row, ptr, data)] (.storage tag)

/-- The reservation that a row's updates already wait for. -/
def reserving (s : State) (t row : Nat) : Option Ask := s.tbl.asks.find? fun a => a.slot == t && a.row == row && (match a.kind with
  | .reserve _ => true
  | _ => false)

/-- Accept one update of a row at its shoal node. Where another node stores the row, that node is asked for the granules of its next
version, and the update is accepted once it has them (DEDUCED, notes/assumptions/91.md). -/
def accept (s : State) (t row node seq : Nat) (data : Bytes) (who : Asker) : Nat × State :=
  let c := commitTide s
  let mine := s.tbl.updates.filter fun u => u.commit == c
  let asked := (s.tbl.asks.filter fun a => match a.kind with
    | .reserve _ => true
    | _ => false).map fun a => (a.slot, a.row)
  let rows := ((mine.map fun u => (u.slot, u.row) ) ++ asked).eraseDups.length
  let cur := (entry s t row).cur
  match mine.find? fun u => u.slot == t && u.row == row with
  | some u => (St.ok, addUpdate s ⟨t, row, c, node, seq, data, u.granule, false⟩)
  | none =>
    match reserving s t row with
    | some a =>
      let more (x : Ask) : Ask := match x.kind with
        | .reserve us => if x.tag = a.tag then { x with kind := .reserve (us ++ [(who, node, seq, data)]) } else x
        | _ => x
      (St.ok, { s with tbl := { s.tbl with asks := s.tbl.asks.map more } })
    | none =>
      if s.num Ent.mergeQueueRows ≤ rows then (St.retry, s)
      else if elsewhere s cur then
        if unsent s (ptrNode cur) 6 then (St.retry, s.unrouted)
        else (St.ok, ask s (ptrNode cur) t row c (.reserve [(who, node, seq, data)]) .reserve cur [])
      else match reserve s t with
        | none => (St.retry, s)
        | some r => (St.ok, addUpdate r.2 ⟨t, row, c, node, seq, data, r.1, false⟩)

/-! Storage for other shoal nodes (R389, R392): this node as storage node, or as H1 of a migration. -/

def migration (s : State) (t row : Nat) : Option Migration := s.tbl.migrations.find? fun m => m.slot == t && m.row == row

/-- R392 step 4: H1's report during a migration; once it holds the Current version, boundary W is named. -/
def copyReported (s : State) (t row ptr : Nat) (m : Migration) : State :=
  let s := match m.copy with
    | some old => retire s t row old
    | none => s
  let same := ptrTide s.now ptr == ptrTide s.now (entry s t row).cur
  let fix (x : Migration) : Migration :=
    if x.slot = t ∧ x.row = row then { x with
      copy := some ptr, switchAt := if x.switchAt.isNone ∧ same then some (s.now + 2) else x.switchAt } else x
  { s with tbl := { s.tbl with migrations := s.tbl.migrations.map fix } }

def storedPtr (s : State) (t row : Nat) : Nat := ((s.tbl.stored.find? fun x => x.1 == t && x.2.1 == row).map fun x => x.2.2).getD 0

def setStored (s : State) (t row p : Nat) : State :=
  { s with tbl := { s.tbl with stored := (s.tbl.stored.filter fun x => !(x.1 == t && x.2.1 == row)) ++ [(t, row, p)] } }

/-- This node stores a row no longer: what was reserved for its next version is given back. -/
def forgetStored (s : State) (t row : Nat) : State :=
  let mine := s.tbl.ahead.filter fun x => x.1 == t && x.2.1 == row
  let s := { s with tbl := { s.tbl with
    ahead := s.tbl.ahead.filter fun x => !(x.1 == t && x.2.1 == row), stored := s.tbl.stored.filter fun x => !(x.1 == t && x.2.1 == row) } }
  mine.foldl (fun s x => release s t x.2.2) s

/-- Granules for the next version of a row stored here: those reserved at acceptance, or others. -/
def nextGranule (s : State) (t row : Nat) : Option (Nat × State) :=
  match s.tbl.ahead.find? fun x => x.1 == t && x.2.1 == row with
  | some x => some (x.2.2, { s with tbl := { s.tbl with ahead := s.tbl.ahead.erase x } })
  | none => reserve s t

/-- Write a version with Tide V and report its pointer to the shoal node. -/
def storeVersion (s : State) (shoal t row g v : Nat) (data : Bytes) : State :=
  let p := mkPtr v g s.strand.nodeId
  let s := setStored (writeRow s t g data).2 t row p
  if shoal ≠ s.strand.nodeId then sendSums s shoal t .installed v [(row, p, [])] .forward_
  else match migration s t row with
    | some m => copyReported s t row p m
    | none => s

/-- Write a version from the one below and a sum (R217). -/
def storeSum (s : State) (shoal t row g v ptr : Nat) (sum : Bytes) : State :=
  let below := if storedPtr s t row = 0 then ptr else storedPtr s t row
  let r := bytesAt s t below
  storeVersion r.2.2 shoal t row g v (addSum (fmt s t) (elems s t) (padTo (rowBytes s t) r.2.1) sum)

/-- H1 forgets a copy: what is under way and what it holds. -/
def forgetCopy (s : State) (t row : Nat) : State :=
  let p := storedPtr s t row
  let s := dropFar s fun u => u == .base t row
  let s := forgetStored { s with tbl := { s.tbl with bases := s.tbl.bases.filter fun b => !(b.slot == t && b.row == row) } } t row
  if p = 0 then s else freeAt s t p (s.now + 3)

/-- R393: abandon a migration: the row stays at H0, and H1 frees its copy. -/
def dropMigration (s : State) (t row : Nat) : State :=
  match migration s t row with
  | none => s
  | some m =>
    let s := { s with tbl := { s.tbl with migrations := s.tbl.migrations.filter fun m => !(m.slot == t && m.row == row) } }
    if !m.begun then s
    else if m.target = s.strand.nodeId then forgetCopy s t row
    else sendSums s m.target t .abandon 0 [(row, 0, [])] .forward_

/-- Make the versions of the sums that waited for a base copy, in order. -/
def applySums (s : State) (shoal t row : Nat) (l : List (Nat × Bytes)) : Option State :=
  l.foldl (fun acc x => acc.bind fun s => (nextGranule s t row).map fun g => storeSum g.2 shoal t row g.1 x.1 0 x.2) (some s)

/-- R392 step 2: the base copies whose reads have ended become versions, and their sums are applied; one that failed, or that finds no
granule, is reported to the shoal node (R393). -/
def settleBases (s : State) : State :=
  s.tbl.bases.foldl (fun s b =>
    match (far s (.base b.slot b.row) b.slot b.row).bind (·.done) with
    | none => s
    | some d =>
      let s := dropFar s fun u => u == .base b.slot b.row
      let s := { s with tbl := { s.tbl with bases := s.tbl.bases.filter fun x => !(x.slot == b.slot && x.row == b.row) } }
      let made := if d.1 ≠ St.ok then none
        else (nextGranule s b.slot b.row).bind fun g => applySums (storeVersion g.2 b.shoal b.slot b.row g.1 b.commit d.2) b.shoal b.slot b.row b.sums
      match made with
      | some s => s
      | none =>
        if b.shoal = s.strand.nodeId then dropMigration s b.slot b.row
        else sendSums (forgetCopy s b.slot b.row) b.shoal b.slot .failed 0 [(b.row, 0, [])] .forward_) s

/-- One row of a message from a shoal node to this storage node: none where no granule is free. -/
def storageTake (s : State) (src t : Nat) (kind : SumKind) (commit : Nat) (r : Nat × Nat × Bytes) : Option State :=
  match kind with
  | .reserve => (reserve s t).map fun g => { g.2 with tbl := { g.2.tbl with ahead := g.2.tbl.ahead ++ [(t, r.1, g.1)] } }
  | .sums =>
    if s.tbl.bases.any fun b => b.slot == t && b.row == r.1 then
      let more (b : BaseCopy) : BaseCopy := if b.slot = t ∧ b.row = r.1 then { b with sums := b.sums ++ [(commit, r.2.2)] } else b
      some { s with tbl := { s.tbl with bases := s.tbl.bases.map more } }
    else (nextGranule s t r.1).map fun g => storeSum g.2 src t r.1 g.1 commit r.2.1 r.2.2
  | .replace => (reserve s t).map fun g => storeVersion g.2 src t r.1 g.1 commit r.2.2
  | .base =>
    let s := { s with tbl := { s.tbl with bases := s.tbl.bases ++ [⟨t, r.1, src, commit, []⟩] } }
    some (settleBases (chooseFar s ⟨.base t r.1, t, r.1, commit, s.now, none, 0, [], none⟩ (r.2.1, r.2.1)))
  | .free =>
    some (freeAt (if storedPtr s t r.1 = r.2.1 then forgetStored s t r.1 else s) t r.2.1 commit)
  | .abandon => some (forgetCopy s t r.1)
  | _ => some s

/-! Versions at the shoal node. -/

/-- R389, R392: the updates of one row commit at boundary `c`. -/
def commitRow (s : State) (t row c : Nat) : State :=
  let due (u : RowUpdate) : Bool := u.slot == t && u.row == row && u.commit == c && !u.sent
  let us := s.tbl.updates.filter due
  let sum := sumRows (fmt s t) (elems s t) us
  let cur := (entry s t row).cur
  let s := match migration s t row with
    | some m =>
      if !m.begun then s
      else if m.target = s.strand.nodeId then (storageTake s m.target t .sums c (row, cur, sum)).getD (dropMigration s t row)
      else ask s m.target t row c .migration .sums cur sum
    | none => s
  let rest := s.tbl.updates.filter fun u => !due u
  match us with
  | [] => s
  | u :: _ =>
    if elsewhere s cur then
      let s := ask s (ptrNode cur) t row c .sums .sums cur sum
      let s := if u.granule = 0 then s else release s t u.granule
      { s with tbl := { s.tbl with updates := rest ++ [{ u with data := sum, sent := true }] } }
    else match (if u.granule = 0 then reserve s t else some (u.granule, s)) with
      | none => s
      | some g =>
        let s := { g.2 with tbl := { g.2.tbl with updates := rest } }
        let r := bytesAt s t cur
        newVersion r.2.2 t row g.1 c (addSum (fmt s t) (elems s t) (padTo (rowBytes s t) r.2.1) sum)

/-- R29, R389: the updates due at a boundary commit. -/
def commitDue (s : State) : State :=
  let due := ((s.tbl.updates.filter fun u => !u.sent && decide (u.commit ≤ s.now)).map fun u => (u.slot, u.row, u.commit)).eraseDups
  due.foldl (fun s d => commitRow s d.1 d.2.1 d.2.2) s

/-! PUT (R387, R388). -/

/-- R387: replace one row in row mode. The status, and the state after; where another node stores the row, that node's answer follows. -/
def replace (s : State) (t row : Nat) (data : Bytes) (who : Asker) : Nat × State :=
  let s := dropMigration s t row
  let cur := (entry s t row).cur
  if elsewhere s cur then
    if unsent s (ptrNode cur) 6 then (St.retry, s.unrouted)
    else
      let s := ask s (ptrNode cur) t row s.now (.replace who) .replace cur data
      (St.ok, addUpdate s ⟨t, row, s.now, s.strand.nodeId, 0, data, 0, true⟩)
  else match reserve s t with
    | none => (St.retry, s)
    | some r => (St.ok, newVersion r.2 t row r.1 s.now data)

/-- Replace rows in order; the highest status. -/
def replaceAll (s : State) (t : Nat) (rows : List (Nat × Bytes)) (who : Asker) : Nat × State :=
  rows.foldl (fun acc r => let q := replace acc.2 t r.1 r.2 who; (max acc.1 q.1, q.2)) (St.ok, s)

/-- R388 step 2: stage rows here for a boundary. -/
def stage (s : State) (t apply : Nat) (put : Nat × Nat) (rows : List (Nat × Bytes)) : Option State :=
  rows.foldl (fun (acc : Option State) r => acc.bind fun s => (reserve s t).map fun q =>
    let s := (writeRow q.2 t q.1 r.2).2
    { s with tbl := { s.tbl with staged := s.tbl.staged ++ [(⟨t, r.1, q.1, apply, put, false⟩ : StagedRow)] } }) (some s)

/-- R388 step 4: the staged rows of boundary C are installed or discarded. -/
def installStaged (s : State) : State :=
  let due := s.tbl.staged.filter fun r => decide (r.apply ≤ s.now)
  let s := { s with tbl := { s.tbl with staged := s.tbl.staged.filter fun r => !decide (r.apply ≤ s.now) } }
  due.foldl (fun s r =>
    if r.committed then install (dropMigration s r.slot r.row) r.slot r.row (mkPtr r.apply r.granule s.strand.nodeId)
    else release s r.slot r.granule) s

/-! Reports of storage nodes (R389, R392). -/

/-- One version of a row is awaited no more. -/
def dropAwaited (s : State) (t row v : Nat) : State :=
  match s.tbl.updates.find? fun u => u.slot == t && u.row == row && u.commit == v && u.sent with
  | some u => { s with tbl := { s.tbl with updates := s.tbl.updates.erase u } }
  | none => s

/-- READs of directory lines go on once no version of the line is awaited: the rows that a line holds. -/
def lineRows (s : State) (job_ a : Nat) : Option (Nat × List Nat) :=
  (List.range 256).findSome? fun t =>
    if (state s t == 2 || state s t == 3) && job s t == job_ then
      (List.range (shoals s t)).findSome? fun k =>
        let lo := 64 * Config.directoryLine (id s t) k
        let rows := ((List.range 4).map fun i => ((a - lo) / 16 + i) * shoals s t + k).filter fun r => decide (r < rowCount s t)
        if decide (lo ≤ a) && !rows.isEmpty && (shoalNodes s t).getD k 0 == s.strand.nodeId then some (t, rows) else none
    else none

/-- The bytes of a directory line. -/
def lineBytes (s : State) (x : Nat × List Nat) : Bytes :=
  padTo 64 (x.2.flatMap fun r => leBytes 8 (entry s x.1 r).cur ++ leBytes 8 (entry s x.1 r).prior)

/-- R389: a READ of a directory line is answered, or held for a version of one of its rows; a yellow one waits also for every green one
of its class (R468). -/
def serveLine (s : State) (f : Frame) (yellow : Bool) (x : Nat × List Nat) : State :=
  if (x.2.any fun r => held s x.1 r s.now) || (yellow && s.tbl.heldReads.any fun h => !h.2 && h.1.cls == f.cls) then
    { s with tbl := { s.tbl with heldReads := s.tbl.heldReads ++ [(f, yellow)] } }
  else respond s f St.ok 0 (lineBytes s x)

/-- The held READs are tried again, the green ones first. -/
def releaseReads (s : State) : State :=
  let l := s.tbl.heldReads.filter (!·.2) ++ s.tbl.heldReads.filter (·.2)
  l.foldl (fun s h => match lineRows s h.1.job h.1.addr with
    | some x => serveLine s h.1 h.2 x
    | none => respond s h.1 St.accessDenied 0 []) { s with tbl := { s.tbl with heldReads := [] } }

/-- A storage node has installed a version: the awaited one, the migration's copy (R392 step 4), or one that nothing names (R393). -/
def installed (s : State) (t row v ptr : Nat) : State :=
  let waits := s.tbl.updates.any fun u => u.slot == t && u.row == row && u.commit == v && u.sent
  if waits && ptrNode ptr == ptrNode (entry s t row).cur then releaseReads (install (dropAwaited s t row v) t row ptr)
  else match migration s t row with
    | some m => if m.target = ptrNode ptr then copyReported s t row ptr m else retire s t row ptr
    | none => retire s t row ptr

/-- R393: a node of a migration has failed: it is expelled, or no route leads to it. -/
def hasFailed (s : State) (n : Nat) : Bool := n != s.strand.nodeId && ((expelledNodes s).contains n || unsent s n 6)

/-- R393: a failed H1 abandons its migrations: one that `hasFailed`, and one that has reported no version 64 Tides after boundary M or left
a sum unanswered for 64 Tides (DESIGN CHOICE, notes/assumptions/91.md). -/
def endMigrations (s : State) : State :=
  let silent (m : Migration) : Bool := (m.copy.isNone && decide (m.mark + 64 ≤ s.now))
    || s.strand.outMsgs.any fun o => match o.use with
      | .storage tag => o.dest == m.target && decide (o.sent + 64 ≤ s.now) && s.tbl.asks.any fun a => a.tag == tag && a.slot == m.slot && a.row == m.row && a.kind == .migration
      | _ => false
  (s.tbl.migrations.filter fun m => m.begun && (hasFailed s m.target || (m.target != s.strand.nodeId && silent m))).foldl (fun s m => dropMigration s m.slot m.row) s

/-- The answer of a storage node. `again` is the state in which the message is sent again. -/
def storageAnswered (done again : State) (tag status : Nat) : State :=
  match done.tbl.asks.find? fun a => a.tag == tag with
  | none => done
  | some a =>
    let s := { done with tbl := { done.tbl with asks := done.tbl.asks.filter fun x => x.tag != tag } }
    match a.kind with
    | .reserve us =>
      let c := commitTide s
      let later (s : State) (w : Asker) : State := match w with
        | .cmd n => mapCmd s n fun x => { x with apply := max x.apply c }
        | _ => s
      us.foldl (fun s u =>
        let s := if status = St.ok then addUpdate (later s u.1) ⟨a.slot, a.row, c, u.2.1, u.2.2.1, u.2.2.2, 0, false⟩ else s
        tell s u.1 status) s
    | .replace w => tell (if status = St.ok then s else releaseReads (dropAwaited s a.slot a.row a.commit)) w status
    | .sums => if status = St.retry then again else if status = St.ok then s else releaseReads (dropAwaited s a.slot a.row a.commit)
    | .migration =>
      if status = St.ok then s
      else if status = St.retry && !(migration s a.slot a.row).any fun m => hasFailed s m.target then again else dropMigration s a.slot a.row

/-! Load and migration (R392). -/

/-- Row bytes served in the period. -/
def load (s : State) (t : Nat) : Nat := ((s.tbl.served.filter fun x => x.slot == t).map (·.bytes)).sum

/-- The period ends: its rows are ranked, and the next period's are counted from 0. -/
def turnServed (s : State) (t : Nat) : State :=
  { s with tbl := { s.tbl with
    served := s.tbl.served.filter fun x => x.slot != t
    ranked := (s.tbl.ranked.filter fun x => x.slot != t) ++ s.tbl.served.filter fun x => x.slot == t } }

/-- The most-read stored rows of this node, ranked as in R391. -/
def mostRead (s : State) (t : Nat) : List Nat :=
  (sortBy (fun (a b : ServedRow) => decide (b.count < a.count) || (a.count == b.count && decide (a.row < b.row)))
    (s.tbl.ranked.filter fun x => x.slot == t)).map (·.row)

/-- R392 step 1: mark a row Migrating at the next boundary. -/
def beginMigration (s : State) (t target row : Nat) : State :=
  let p := (entry s t row).cur
  if (migration s t row).isSome ∨ ptrGranule p = 0 ∨ ptrNode p = target then s
  else { s with tbl := { s.tbl with migrations := s.tbl.migrations ++ [⟨t, row, target, s.now + 1, false, none, none⟩] } }

/-- R392 steps 1 and 2: at boundary M, once no version of the row is awaited, H1 is sent the Current pointer. -/
def startMigrations (s : State) : State :=
  s.tbl.migrations.foldl (fun (s : State) (m : Migration) =>
    if m.begun || decide (s.now < m.mark) || s.tbl.updates.any (fun u => u.slot == m.slot && u.row == m.row && u.sent) then s
    else
      let p := (entry s m.slot m.row).cur
      let fix (x : Migration) : Migration := if x.slot = m.slot ∧ x.row = m.row then { x with begun := true, mark := s.now } else x
      let s := { s with tbl := { s.tbl with migrations := s.tbl.migrations.map fix } }
      let v := ptrTide s.now p
      if m.target = s.strand.nodeId then (storageTake s m.target m.slot .base v (m.row, p, [])).getD s
      else ask s m.target m.slot m.row v .migration .base p []) s

/-- A row that this node stores is to migrate: its shoal node runs the migration. -/
def askMigration (s : State) (t target row : Nat) : State :=
  if here s t row then beginMigration s t target row
  else sendSums s (shoalNode s t row) t .migrate 0 [(row, target, [])] .forward_

/-- Once every shoal node's load of the period is known: a node above the limit migrates its most-read rows. -/
def considerSkew (s : State) (t : Nat) : State :=
  let nodes := (shoalNodes s t).eraseDups
  let of (n : Nat) : Option Nat := (s.tbl.loads.find? fun x => x.1 == t && x.2.1 == n).map fun x => x.2.2
  if nodes.any fun n => (of n).isNone then s
  else
    let loads := nodes.map fun n => ((of n).getD 0, n)
    let total := (loads.map (·.1)).sum
    let mine := (of s.strand.nodeId).getD 0
    let s := { s with tbl := { s.tbl with loads := s.tbl.loads.filter fun x => x.1 != t } }
    let least := sortBy (fun (a b : Nat × Nat) => decide (a.1 < b.1) || (a.1 == b.1 && decide (a.2 < b.2))) loads
    match least with
    | [] => s
    | l :: _ =>
      if l.2 ≠ s.strand.nodeId ∧ total * s.cfg (Ent.tableSkewLimitPercent t) < mine * 100 * nodes.length then
        ((mostRead s t).take (s.cfg (Ent.tableMigrateRowsMax t))).foldl (fun s r => askMigration s t l.2 r) s
      else s

/-- The rows of a hot-row cache whose reads have ended fill it (R391). -/
def settleCache (s : State) : State :=
  s.tbl.far.foldl (fun s f => match f.user, f.done with
    | .cache t, some d =>
      let s := { s with tbl := { s.tbl with far := s.tbl.far.filter fun x => !isFar f.user f.slot f.row x } }
      if d.1 = St.ok then { s with tbl := { s.tbl with hot := s.tbl.hot ++ [(⟨t, f.row, f.ptr, d.2⟩ : HotRow)] } } else s
    | _, _ => s) s

/-- A READ for a row has ended: the users that need no command of their own go on. -/
def rowCame (s : State) (p : Purpose) (status : Nat) (line : Bytes) : State :=
  match p with
  | .entry u t row tide => settleCache (settleBases (entryCame s u t row tide status line))
  | .granule u t row i tide => settleCache (settleBases (granuleCame s u t row i tide status line))
  | _ => s

/-- The table work of a boundary (step 3 of R61), with the users of remote rows that are gone. -/
def atBoundary (s : State) : State :=
  let s := startMigrations (endMigrations (endPuts (installStaged (commitDue s))))
  dropFar s fun u => match u with
    | .run r => !s.gph.runs.any fun x => x.id == r
    | .cmd c => (s.cmd c).isNone
    | _ => false

end Table

end Sys2Proof.Machine
end

