-- ==== Sys2Proof/Machine/StrandOps.lean ====
section
/-! DEFINITION. Strand requests at their destination (R447 to R459), the ingress meter (R466 to R469), responses at the
requester (R446, R451, R455, R460). -/

namespace Sys2Proof.Machine

open Sys2Proof

/-! The ingress meter. -/

/-- The rates and sizes of a job's meter: CIR, PIR, CBS, PBS. -/
def meterRates (s : State) (job : Nat) : Option (Nat × Nat × Nat × Nat) :=
  (jobRecord s job).bind fun r =>
    let q := (field r 4 4, field r 8 4, field r 12 4, field r 16 4)
    if q.1 = 0 ∧ q.2.1 = 0 then none else some q

/-- A job's meter; one not yet met is full (R467). -/
def meterOf (s : State) (job : Nat) : Meter :=
  match s.strand.meters.find? fun m => m.job == job, meterRates s job with
  | some m, _ => m
  | none, some r => ⟨job, r.2.2.1 * 1024, r.2.2.2 * 1024, 0, 0, 0⟩
  | none, none => ⟨job, 0, 0, 0, 0, 0⟩

def putMeter (s : State) (m : Meter) : State :=
  { s with strand := { s.strand with
    meters := if s.strand.meters.any fun x => x.job == m.job then s.strand.meters.map fun x => if x.job == m.job then m else x
      else s.strand.meters ++ [m] } }

/-- R466 to R468: meter a frame: the Tide that a red frame is told to retry at, none for an admitted one. -/
def meterFrame (s : State) (f : Frame) : Option Nat × State :=
  if f.cls < 2 ∨ f.job = 0 then (none, s)
  else match meterRates s f.job with
    | none => (none, s)
    | some (_, pir, _, _) =>
      let m := meterOf s f.job
      let b := f.size * 1024
      if m.p < b then (some (s.now + 1 + (b - m.p) / (pir * 1024)), (putMeter s { m with red := m.red + 1 }).bump Ent.redFrames)
      else if m.c < b then (none, (putMeter s { m with p := m.p - b, yellow := m.yellow + 1 }).bump Ent.yellowFrames)
      else (none, (putMeter s { m with c := m.c - b, p := m.p - b, green := m.green + 1 }).bump Ent.greenFrames)

/-- R466: an arriving frame is yellow. -/
def isYellow (s : State) (f : Frame) : Bool :=
  let m := meterOf s f.job
  decide (2 ≤ f.cls) && f.job != 0 && (meterRates s f.job).isSome && decide (f.size * 1024 ≤ m.p) && decide (m.c < f.size * 1024)

/-- R467: one sub-tick of every meter. -/
def tickMeters (s : State) : State :=
  let fill (m : Meter) : Meter := match meterRates s m.job with
    | some (cir, pir, cbs, pbs) => { m with c := min (cbs * 1024) (m.c + cir), p := min (pbs * 1024) (m.p + pir) }
    | none => m
  { s with strand := { s.strand with meters := s.strand.meters.map fill } }

/-- R467: the buckets of every job whose record changes are full at the boundary where it applies. -/
def refillMeters (old new : Bytes) (s : State) : State :=
  let recOf (b : Bytes) (j : Nat) : Option Bytes := (records 32 b).find? fun r => field r 0 2 == j
  let fill (m : Meter) : Meter :=
    if recOf old m.job = recOf new m.job then m
    else match recOf new m.job with
      | some r => { m with c := field r 12 4 * 1024, p := field r 16 4 * 1024 }
      | none => m
  { s with strand := { s.strand with meters := s.strand.meters.map fill } }

/-! What the whole node refuses. -/

/-- R407: all new work is refused from a boundary on. -/
def nodeFull (s : State) : Bool := match s.coh.fullFrom with
  | some t => decide (t ≤ s.now)
  | none => false

/-- R634: the Tide suggested in Neap: the apply Tide of a pending return to Active. -/
def neapRetry (s : State) : Nat :=
  match s.cat.tw.find? fun w => w.key == Ent.powerStateRequest && w.val.num == 0 with
  | some w => w.apply
  | none => s.now + 1

/-- The node is entering Neap, in Neap or leaving it (R633 to R635). -/
def neapRefuses (s : State) : Bool := s.rst.powerState != 0

/-- R407, R590 to R592, R634: what a request of classes 2 to 15 meets, with the suggested Tide. -/
def nodeRefusal (s : State) (src : Nat) : Option (Nat × Nat) :=
  if s.num Ent.nodeServiceState = 2 then some (St.accessDenied, 0)
  else if s.num Ent.nodeServiceState = 1 ∨ nodeFull s then some (St.retry, s.now + 1)
  else if neapRefuses s then some (St.retry, neapRetry s)
  else if (expelledNodes s).contains src then some (St.accessDenied, 0)
  else none

/-- Answer a request with a refusal, which is counted (R448). -/
def refuseFrame (s : State) (f : Frame) (status retry : Nat) : State :=
  let s := if status = St.badJob then s.bump Ent.badJobRefusals else if status = St.accessDenied then s.bump Ent.accessRefusals else s
  respond s f status retry []

/-- The checks before a request's own (R447, R448 steps 1 and 2), behind its metering (R466): the refusal, and the state. -/
def arrivalCheck (s : State) (f : Frame) (word : Bool) : Option (Nat × Nat) × State :=
  if f.cls = 0 then (none, s)
  else
    let m := meterFrame s f
    match nodeRefusal s f.src, m.1 with
    | some r, _ => (some r, m.2)
    | none, some t => (some (St.retry, t), m.2)
    | none, none => ((jobCheck s f word).map fun st => (st, 0), m.2)

/-- True where the request goes on; a refused one is answered. -/
def letIn (s : State) (f : Frame) (word : Bool) : Bool × State :=
  let r := arrivalCheck s f word
  match r.1 with
  | some x => (false, refuseFrame r.2 f x.1 x.2)
  | none => (true, r.2)

/-- The Strand unit takes frames that are addressed to this node. -/
def strandRuns (s : State) : Bool := s.up 4 && s.mgmt

/-- A frame whose Address or length breaks its kind's layout is answered with BAD_JOB (DEDUCED, notes/assumptions/37.md). -/
def malformed (s : State) (f : Frame) : State := refuseFrame s f St.badJob 0

/-- A request on a range through a window (R448 steps 4 and 5), of the kind's layout where `ok`: `go` gets the owner and the node
physical address. R447: class 0 needs no window; outside one its address is a node physical address of owner slot 0 (DESIGN CHOICE,
notes/assumptions/59.md). -/
def throughWindow (s : State) (f : Frame) (ok : Bool) (addr len : Nat) (go : State → Nat → Nat → State) : State :=
  let r := letIn s f false
  if !r.1 then r.2
  else if !ok then malformed r.2 f
  else match windowOf r.2 f.job f.kind addr len with
    | some w => go r.2 w.1 w.2
    | none =>
      if f.cls ≠ 0 then refuseFrame r.2 f St.accessDenied 0
      else if validRange addr len then go r.2 0 addr else malformed r.2 f

/-- The row of a table whose granules, of a version stored here, hold an address: slot, row, and the address's place in the row. -/
def storedRow (s : State) (a : Nat) : Option (Nat × Nat × Nat) :=
  let g := (a - Table.base s) / 512
  let mine (t p : Nat) : Bool :=
    decide (Table.base s ≤ a) && Table.ptrNode p == s.strand.nodeId && Table.ptrGranule p != 0 && decide (Table.ptrGranule p ≤ g)
      && decide (g < Table.ptrGranule p + Table.span s t)
  let all := s.tbl.dirs.flatMap (fun d => [(d.slot, d.row, d.cur), (d.slot, d.row, d.prior)]) ++ s.tbl.stored
  (all.find? fun x => mine x.1 x.2.2).map fun x => (x.1, x.2.1, a - Table.addr s (Table.ptrGranule x.2.2))

/-- Count a READ of a line of a stored row (R392): its first line counts as a read of the row. -/
def noteLine (s : State) (a : Nat) : State :=
  match storedRow s a with
  | some (t, row, i) => Table.noteServed s t row (if i = 0 then 1 else 0) (min 64 (Table.rowBytes s t - i))
  | none => s

/-! READ and WRITE (R448, R451). -/

/-- A line of a table's directory is read as the directory's entries (R382), any other line from memory. -/
def serveRead (s : State) (f : Frame) : State :=
  let yellow := isYellow s f
  throughWindow s f (f.addr % 64 == 0) f.addr 64 fun s owner a =>
    match Table.lineRows s f.job f.addr with
    | some x => Table.serveLine s f yellow x
    | none =>
      let r := agentRead s owner a 64
      if r.1 = St.ok then respond (noteLine r.2.2 a) f St.ok 0 r.2.1 else refuseFrame r.2.2 f r.1 0

def serveWrite (s : State) (f : Frame) : State :=
  throughWindow s f (f.addr % 64 == 0 && f.payload.length == 64) f.addr 64 fun s owner a =>
    let r := agentWrite s owner a f.payload
    if r.1 = St.ok then respond r.2 f St.ok 0 [] else refuseFrame r.2 f r.1 0

/-! ATOMIC (R450, R457 to R459). -/

def atomicOp (f : Frame) : Nat := f.param % 16
def atomicWidth (f : Frame) : Nat := 4 * 2 ^ (f.param / 16 % 4)
def atomicIssue (f : Frame) : Nat := field f.payload 0 6
def atomicOperand (f : Frame) : Bytes := (f.payload.drop 8).take (atomicWidth f)
def atomicExpected (f : Frame) : Bytes := (f.payload.drop (8 + atomicWidth f)).take (atomicWidth f)

/-- The table "Atomic operations" has the operation in this width, and the operand is naturally aligned. -/
def atomicOk (f : Frame) : Bool :=
  let w := atomicWidth f
  let op := atomicOp f
  f.param / 16 % 4 != 3 && decide (op ≤ 7) && (w != 16 || decide (op ≤ 1)) && f.addr % w == 0
    && f.payload.length == 8 + (if op = 1 then 2 * w else w)

/-- The berth number of an ownership word that a frame names (R450): below BerthsMax. -/
def wordNumber (s : State) (f : Frame) : Option Nat :=
  if f.job = 0 ∧ f.addr / 2 ^ 56 = 1 ∧ f.addr % 16 = 0 ∧ f.param / 16 % 4 = 2 ∧ atomicOp f ≤ 1 then
    (if f.addr % 2 ^ 56 / 16 < s.num Ent.berthsMax then some (f.addr % 2 ^ 56 / 16) else none)
  else none

/-- The replay cache has no entry left: it holds as many as it may, or no page is free for more (64 bytes each; DESIGN CHOICE,
notes/assumptions/60.md). -/
def replayFull (s : State) : Bool :=
  let n := s.strand.replay.length
  decide (262144 ≤ n) || (decide (1024 * s.strand.replayPages.length ≤ n) && (Mem.allocFixed s.mem 0 false).isNone)

/-- R459: one more Fixed stack page for the replay cache where its pages are full. -/
def growReplay (s : State) : State :=
  if s.strand.replay.length < 1024 * s.strand.replayPages.length then s
  else match Mem.allocFixed s.mem 0 false with
    | some (a, m) => { s with mem := m, strand := { s.strand with replayPages := s.strand.replayPages ++ [a] } }
    | none => s

/-- Step 6: keep the outcome for re-sends. -/
def keepOutcome (s : State) (f : Frame) (status : Nat) (old : Bytes) : State :=
  let s := growReplay s
  { s with strand := { s.strand with replay := s.strand.replay ++ [⟨f.src, f.seq, atomicIssue f, old, status, s.now⟩] } }

/-- Step 6: keep the outcome for re-sends, and answer. -/
def answerAtomic (s : State) (f : Frame) (status : Nat) (old : Bytes) : State :=
  let s := keepOutcome s f status old
  if status = St.ok then respond s f St.ok 0 old else refuseFrame s f status 0

/-- The answer to an atomic on an ownership word still waits for the journal (R361). -/
def wordHeld (s : State) (f : Frame) : Bool := s.berth.answers.any fun a => match a.2 with
  | .word q _ _ => q.src == f.src && q.seq == f.seq && atomicIssue q == atomicIssue f
  | _ => false

/-- R458: the six steps; `run` executes the atomic, keeps its outcome and answers. A re-send whose first answer still waits gets that one. -/
def exactlyOnce (s : State) (f : Frame) (run : State → State) : State :=
  let issue := atomicIssue f
  let start := s.num Ent.coldStartTide
  let reset (s : State) : State := respond (s.bump Ent.responderResets) f St.responderReset 0 []
  if start = 0 then reset s
  else match s.strand.replay.find? fun r => r.src == f.src && r.seq == f.seq && r.issue == issue with
    | some r =>
      let s := s.bump Ent.replayHits
      if wordHeld s f then s else respond s f r.status 0 (if r.status = St.ok then r.old else [])
    | none =>
      if issue < start then reset s
      else if issue + 48 < s.now then respond s f St.indeterminate 0 []
      else if replayFull s then respond (s.bump Ent.replayFullRefusals) f St.retry (s.now + 1) []
      else run s

def serveAtomic (s : State) (f : Frame) : State :=
  match wordNumber s f with
  | some n =>
    let r := letIn s f true
    if !r.1 then r.2
    else if !atomicOk f then malformed r.2 f
    else exactlyOnce r.2 f fun s =>
      let x := Berth.wordAtomic s n (atomicOp f) (atomicOperand f) (atomicExpected f)
      Berth.answer (keepOutcome x.2 f St.ok x.1) n (.word f St.ok x.1)
  | none =>
    throughWindow s f (atomicOk f) f.addr (atomicWidth f) fun s owner a =>
      exactlyOnce s f fun s =>
        let r := agentAtomic s owner a (atomicOp f) (atomicOperand f) (atomicExpected f) true
        answerAtomic r.2.2 f r.1 r.2.1

/-! Registrations and publishes (R452 to R456). -/

def serveRegister (s : State) (f : Frame) : State :=
  throughWindow s f (f.addr % 4096 == 0) f.addr 4096 fun s _ a =>
    if s.strand.regs.contains (a / 4096, f.src) then respond s f St.ok 0 []
    else if 2097152 ≤ s.strand.regs.length then respond (s.bump Ent.regRefusals) f St.retry (s.now + 1) []
    else respond { s with strand := { s.strand with regs := s.strand.regs ++ [(a / 4096, f.src)] } } f St.ok 0 []

def serveUnregister (s : State) (f : Frame) : State :=
  throughWindow s f (f.addr % 4096 == 0) f.addr 4096 fun s _ a =>
    respond { s with strand := { s.strand with regs := s.strand.regs.filter fun r => r != (a / 4096, f.src) } } f St.ok 0 []

def overlaps (a n b m : Nat) : Bool := decide (a < b + m) && decide (b < a + n)

/-- The INVALIDATE of a publish to one reader. -/
def sendInvalidate (s : State) (p : Publish) (reader : Nat) : State :=
  if requestsHeld s 5 then s
  else originateOrDrop s { emptyFrame with
    kind := Kind.invalidate, cls := 5, dest := reader, job := p.frame.job, seq := p.tag, addr := p.frame.addr, payload := leBytes 8 p.length }

/-- R453, step 5. -/
def publishDone (s : State) (p : Publish) : State :=
  respond { s with strand := { s.strand with publishes := s.strand.publishes.filter fun x => x.tag != p.tag } } p.frame St.ok 0 (leBytes 4 0)

/-- R453 steps 3 and 5, R454: start every publish that no earlier one of an overlapping range holds back. -/
def startPublishes : Nat → State → State
  | 0, s => s
  | n + 1, s =>
    let ps := s.strand.publishes
    let ready (i : Nat) (p : Publish) : Bool := !p.active && !(ps.take i).any fun q => overlaps q.start q.length p.start p.length
    match (((List.range ps.length).zip ps).find? fun (x : Nat × Publish) => ready x.1 x.2).map (·.2) with
    | none => s
    | some p =>
      let readers := ((s.strand.regs.filter fun r => r.2 != p.frame.src && overlaps (r.1 * 4096) 4096 p.start p.length).map (·.2)).eraseDups
      if readers.isEmpty then startPublishes n (publishDone s p)
      else
        let now := s.now
        let fix (x : Publish) : Publish := if x.tag = p.tag then { x with active := true, readers := readers.map fun r => (r, now) } else x
        let s := { s with strand := { s.strand with publishes := s.strand.publishes.map fix } }
        startPublishes n (readers.foldl (fun s r => sendInvalidate s p r) s)

def goOn (s : State) : State := startPublishes (s.strand.publishes.length + 1) s

def servePublish (s : State) (f : Frame) : State :=
  let len := field f.payload 0 8
  throughWindow s f (f.addr % 64 == 0 && len % 64 == 0 && len != 0 && decide (len ≤ 2 ^ 24)) f.addr len fun s _ a =>
    let p : Publish := ⟨f, s.strand.nextTag, a, len, [], false⟩
    goOn { s with strand := { s.strand with publishes := s.strand.publishes ++ [p], nextTag := (s.strand.nextTag + 1) % 2 ^ 32 } }

/-- A range of another node's memory changes: this node's copies of its lines are dropped, and READs under way install none (R415, R417,
R454, R455). -/
def spoilRemote (s : State) (home job addr len : Nat) : State :=
  let inside (a : Nat) : Bool := decide (addr ≤ a) && decide (a < addr + len)
  let mark (q : Request) : Request :=
    if q.frame.kind = Kind.read ∧ q.frame.dest = home ∧ q.frame.job = job ∧ inside q.frame.addr then { q with invalidated := true } else q
  { s with strand := { s.strand with
    remoteLines := s.strand.remoteLines.filter fun x => !(x.1 == home && x.2.1 == job && inside x.2.2.1)
    requests := s.strand.requests.map mark } }

/-- R455, R456: a reader drops the lines of the range, and answers. -/
def serveInvalidate (s : State) (f : Frame) : State :=
  let r := letIn s f false
  if !r.1 then r.2
  else
    let s := spoilRemote r.2 f.src f.job f.addr (field f.payload 0 8)
    respond s f St.ok 0 []

/-- A reader has answered, or is expelled. -/
def readerDone (s : State) (tag reader : Nat) : State :=
  let fix (p : Publish) : Publish := if p.tag = tag then { p with readers := p.readers.filter fun r => r.1 != reader } else p
  let s := { s with strand := { s.strand with publishes := s.strand.publishes.map fix } }
  match s.strand.publishes.find? fun p => p.tag == tag with
  | some p => if p.active && p.readers.isEmpty then goOn (publishDone s p) else s
  | none => s

/-- R456: the home has notice that a reader has been expelled. -/
def forgetReader (s : State) (reader : Nat) : State :=
  let s := { s with strand := { s.strand with regs := s.strand.regs.filter fun r => r.2 != reader } }
  (s.strand.publishes.map (·.tag)).foldl (fun s t => readerDone s t reader) s

/-! Responses at the requester. -/

/-- The outstanding request that a response answers. -/
def requestOf (s : State) (f : Frame) : Option Request :=
  s.strand.requests.find? fun r => r.frame.kind + 0x80 == f.kind && r.frame.seq == f.seq && r.frame.dest == f.src

def findRequest (s : State) (seq kind : Nat) : Option Request := s.strand.requests.find? fun r => r.frame.kind == kind && r.frame.seq == seq

/-- A request is outstanding no longer. -/
def dropRequest (s : State) (r : Request) : State :=
  { s with strand := { s.strand with
    requests := s.strand.requests.filter fun x => !(x.frame.kind == r.frame.kind && x.frame.seq == r.frame.seq) } }

/-- End a request for the agent that asked for it. -/
def endRequest (s : State) (r : Request) (status : Nat) (data : Bytes) (retry : Nat) : State :=
  let s := dropRequest s r
  { s with strand := { s.strand with ended := s.strand.ended ++ [(⟨r.frame.seq, r.frame.kind, status, data, retry⟩ : Sys2Proof.Machine.Ended)] } }

/-- The unit that sent an atomic acts on its end (R364, R371 to R377). -/
def atomicAnswered (s : State) (r : Request) (status : Nat) (data : Bytes) : State :=
  let old := wordOf data
  let expected := wordOf (atomicExpected r.frame)
  let new := wordOf (atomicOperand r.frame)
  match r.purpose with
  | .lease b => Berth.leaseAnswer s b status old expected new
  | .handoff b => Berth.handoffAnswer s b status old expected new
  | .resolve b => Berth.resolveAnswer s b status old
  | .recovered b => Berth.recoveredAnswer s b status old expected new
  | .stale cmd => Berth.staleAnswer s cmd status old
  | _ => s

/-! The reader's side (R415, R452, R455). -/

/-- The page of a line is registered at its home for this node and job (R452). -/
def isRegistered (s : State) (home job addr : Nat) : Bool := s.strand.registered.contains (home, job, addr / 4096)

/-- This node's copy of a line of another node is dropped. -/
def dropRemote (s : State) (home job addr : Nat) : State :=
  { s with strand := { s.strand with
    remoteLines := s.strand.remoteLines.filter fun x => !(x.1 == home && x.2.1 == job && x.2.2.1 == addr) } }

/-- A line read over Strand is cached in S where its page was registered as the READ left and no INVALIDATE of it came meanwhile (R415,
R452, R455). -/
def installLine (s : State) (r : Request) (data : Bytes) : State :=
  let f := r.frame
  if r.purpose = .line ∧ !r.invalidated ∧ isRegistered s f.dest f.job f.addr then
    let s := dropRemote s f.dest f.job f.addr
    { s with strand := { s.strand with remoteLines := s.strand.remoteLines ++ [(f.dest, f.job, f.addr, data)] } }
  else s

/-- The end of a READ: for a row of a table, or for the agent. -/
def readEnds (s : State) (r : Request) (status retry : Nat) (data : Bytes) : State :=
  let line := if status = St.ok then padTo 64 data else []
  match r.purpose with
  | .entry _ _ _ _ => Table.rowCame (dropRequest s r) r.purpose status line
  | .granule _ _ _ _ _ => Table.rowCame (dropRequest s r) r.purpose status line
  | _ => endRequest (if status = St.ok then installLine s r line else s) r status line retry

/-- The end of a REGISTER: with OK the reader may install lines of the page. -/
def registerEnds (s : State) (r : Request) (status retry : Nat) : State :=
  let s := endRequest s r status [] retry
  if status = St.ok then { s with strand := { s.strand with registered := s.strand.registered ++ [(r.frame.dest, r.frame.job, r.frame.addr / 4096)] } } else s

/-- The end of an UNREGISTER. -/
def unregisterEnds (s : State) (r : Request) (status retry : Nat) : State :=
  let s := endRequest s r status [] retry
  if status = St.ok then
    { s with strand := { s.strand with registered := s.strand.registered.filter fun x => x != (r.frame.dest, r.frame.job, r.frame.addr / 4096) } }
  else s

/-- The end of a request of any kind, by its response or for want of a route. -/
def requestEnds (s : State) (r : Request) (status retry : Nat) (data : Bytes) : State :=
  let k := r.frame.kind
  if k = Kind.read then readEnds s r status retry data
  else if k = Kind.atomic then atomicAnswered (endRequest s r status data retry) r status data
  else if k = Kind.register then registerEnds s r status retry
  else if k = Kind.unregister then unregisterEnds s r status retry
  else endRequest s r status data retry

/-- R453 step 1: a PUBLISH waits for the responses of this node's WRITEs to its range. -/
def publishWaits (s : State) (f : Frame) : Bool :=
  f.kind == Kind.publish && s.strand.requests.any fun w =>
    w.frame.kind == Kind.write && w.frame.dest == f.dest && w.frame.job == f.job && overlaps w.frame.addr 64 f.addr (field f.payload 0 8)

/-- Send a request again, or for the first time; that one ends at once with RETRY where it has no route (R441). -/
def resend (s : State) (r : Request) : State :=
  let now := s.now
  let fix (x : Request) : Request := if x.frame.kind = r.frame.kind ∧ x.frame.seq = r.frame.seq then x.sentNow now else x
  if r.held && unsent s r.frame.dest r.frame.cls then requestEnds s.unrouted r St.retry (s.now + 1) []
  else originateOrDrop { s with strand := { s.strand with requests := s.strand.requests.map fix } } (r.sentNow now).frame

/-- Held requests that may leave do so: those of a node in service again (R590), and PUBLISHes whose WRITEs are answered (R453). -/
def releaseHeld (s : State) : State :=
  (s.strand.requests.filter fun r => r.held && !requestsHeld s r.frame.cls && !publishWaits s r.frame).foldl resend s

/-- R415, R452: an agent reads a line of another node: this node's own copy, or a READ. The page is registered before a line of it is
cached; until then its lines are read without being cached. -/
def remoteRead (s : State) (f : Frame) : State :=
  match s.strand.remoteLines.find? fun x => x.1 == f.dest && x.2.1 == f.job && x.2.2.1 == f.addr with
  | some x => { s with strand := { s.strand with
      nextTag := (s.strand.nextTag + 1) % 2 ^ 32, ended := s.strand.ended ++ [⟨s.strand.nextTag, f.kind, St.ok, x.2.2.2, 0⟩] } }
  | none =>
    let page := f.addr / 4096 * 4096
    let asked := s.strand.requests.any fun r => r.frame.kind == Kind.register && r.frame.dest == f.dest && r.frame.job == f.job && r.frame.addr == page
    if isRegistered s f.dest f.job f.addr then issueRequest s f .line false
    else
      let s := issueRequest s f .none false
      if asked then s else issueRequest s { f with kind := Kind.register, cls := 5, addr := page } (.register (page / 4096)) false

/-- An agent of this node sends a request to another node (R415, R452, R453, R457): a store or an atomic drops this node's own copy of the
line, an UNREGISTER leaves only while the node holds no line of the page, a PUBLISH waits for the WRITEs of its range. -/
def originateRequest (s : State) (f : Frame) : State :=
  let line := f.addr / 64 * 64
  if f.kind = Kind.read then remoteRead s f
  else if f.kind = Kind.write then issueRequest (spoilRemote s f.dest f.job line 64) f .none false
  else if f.kind = Kind.atomic then
    let s := spoilRemote s f.dest f.job line 64
    (sendAtomic s f (f.payload.drop 8) .none).getD
      { s.unrouted with strand := { s.strand with ended := s.strand.ended ++ [⟨s.strand.requesterSeq, f.kind, St.retry, [], s.now + 1⟩] } }
  else if f.kind = Kind.unregister then
    if s.strand.remoteLines.any fun x => x.1 == f.dest && x.2.1 == f.job && x.2.2.1 / 4096 == f.addr / 4096 then s
    else issueRequest s f .none false
  else if f.kind = Kind.register then issueRequest s f (.register (f.addr / 4096)) false
  else issueRequest s f .publish (publishWaits s f)

/-! Messages (R446). -/

def messageOut (s : State) (f : Frame) : Option OutMsg := s.strand.outMsgs.find? fun m => m.id == f.seq && m.dest == f.src

def dropOut (s : State) (m : OutMsg) : State :=
  { s with strand := { s.strand with outMsgs := s.strand.outMsgs.filter fun x => x.id != m.id } }

/-- The sender sends the whole message again at the Tide suggested. -/
def sendLater (s : State) (m : OutMsg) (at_ : Nat) : State :=
  let t := max (s.now + 1) at_
  let fix (x : OutMsg) : OutMsg := if x.id = m.id then { x with sent := t } else x
  { s with strand := { s.strand with outMsgs := s.strand.outMsgs.map fix } }

/-- The one response of a message: the unit that sent it acts on it. -/
def messageAnswered (s : State) (m : OutMsg) (status retry : Nat) : State :=
  let done := dropOut s m
  let again := sendLater s m retry
  match m.use with
  | .fragment q sub =>
    if status = St.ok then done
    else leadReply done m.dest sub (noReply status retry 0 (match s.query q with
      | some x => x.openQuery
      | none => false))
  | .forward tag =>
    if status = St.ok then done
    else if status = St.retry then again
    else match s.chg.intakes.find? fun i => i.tag == tag with
      | some i => intakeDone done i ⟨tag, status, 0, 0, 0, false⟩
      | none => done
  | .fill => if status = St.retry ∨ status = St.mediaFull then again
      else if status ≠ St.ok ∧ m.words.getD 0 9 = 0 then fillRefused done again (m.words.getD 1 0) (m.words.getD 2 0) else done
  | .pages b n use => Berth.pageAnswered done m.dest b n use status
  | .create cmd => if status = St.retry then again else if status = St.ok then done else done.refuse cmd status
  | .control b => if status = St.retry then again else Berth.controlAnswered done b status
  | .rows cmd node => Table.cmdAnswered done cmd node status
  | .sums run => Table.tell done (.run run) status
  | .storage tag => Table.storageAnswered done again tag status
  | _ => if status = St.retry then again else done

/-- At a boundary: messages whose turn it is leave; one without a route meets RETRY (R441); held ones wait on. -/
def sendDue (s : State) : State :=
  (s.strand.outMsgs.filter fun m => m.sent == s.now).foldl (fun s m =>
    let probe := { emptyFrame with cls := m.cls, dest := m.dest }
    if requestsHeld s m.cls then sendLater s m 0
    else if (routeOf s probe none).isNone then messageAnswered s.unrouted m St.retry (s.now + 1)
    else transmit s m) s

/-- A message type of the table "Message types". -/
def knownType (t : Nat) : Bool := [0x0001, 0x0002, 0x0010, 0x0011, 0x0012, 0x0020, 0x0021, 0x0030, 0x0031, 0x0032, 0x00F0].contains t

/-- R448, step 3: the JobId of the collection or table that a message names, where it names one. -/
def namedJob (s : State) (type src : Nat) (data : Bytes) : Option Nat :=
  let word (i : Nat) : Option Nat := (Config.decodeMessage type data).bind fun m => m.1[i]?
  let coll (c : Option Nat) : Option Nat := c.map fun c => s.cfg (Ent.collJobId c)
  let table (t : Option Nat) : Option Nat := (t.bind (Table.findServing s)).map (Table.job s)
  match type with
  | 0x0001 => coll (some (field data 26 1))
  | 0x0002 => (findLead s src (field data 56 4)).map fun q => s.cfg (Ent.collJobId q.1.coll)
  | 0x0010 => coll (word 0)
  | 0x0011 =>
    if word 0 = some 1 then coll (word 1)
    else ((word 1).bind fun t => s.chg.intakes.find? fun i => i.tag == t).map fun i => s.cfg (Ent.collJobId i.change.coll)
  | 0x0012 => coll (word 1)
  | 0x0030 => table (word 2)
  | 0x0031 => table (word 0)
  | 0x0032 => table (word 0)
  | _ => none

/-- The answer to a message as a whole, from the frame of one of its segments. -/
def messageFrame (m : InMsg) : Frame := { emptyFrame with kind := Kind.message, cls := m.cls, src := m.src, job := m.job, seq := m.id }

def dropIn (s : State) (m : InMsg) : State :=
  { s with strand := { s.strand with inMsgs := s.strand.inMsgs.filter fun x => !(x.src == m.src && x.id == m.id) } }

def putIn (s : State) (m : InMsg) : State := let s := dropIn s m; { s with strand := { s.strand with inMsgs := s.strand.inMsgs ++ [m] } }

/-- A message has arrived whole: the unit that acts on it. Its content comes with that unit's own command, except for the
types whose bytes the manual lays out. `cap` serves type 0x00F0. -/
def deliver (s : State) (m : InMsg) (cap : State → InMsg → Bytes → State) : State :=
  let s := dropIn s m
  let f := messageFrame m
  let data := ((List.range m.count).map fun i => (m.segments.lookup i).getD []).flatten
  if !knownType m.type then refuseFrame s f St.badJob 0
  else if m.cls != 0 && m.job != 0 && (match namedJob s m.type m.src data with
      | some j => j != m.job
      | none => false) then refuseFrame s f St.accessDenied 0
  else if m.type = 0x0001 then
    let g := fragmentOf s data
    match fragRefusal s g with
    | some r => respond s f r.1 r.2 []
    | none => serveFrag (respond s f St.ok 0 []) g
  else if m.type = 0x0002 then arriveReply (respond s f St.ok 0 []) m.src data
  else if m.type = 0x00F0 then cap s m data
  else { s with strand := { s.strand with delivered := s.strand.delivered ++ [(⟨m.src, m.id, m.cls, m.job, m.type, m.yellow⟩ : Delivered)] } }

/-- MESSAGE: one segment arrives. -/
def serveSegment (s : State) (f : Frame) (cap : State → InMsg → Bytes → State) : State :=
  let type := field f.payload 0 2
  let i := field f.payload 2 2
  let n := field f.payload 4 2
  let held := s.strand.inMsgs.find? fun m => m.src == f.src && m.id == f.seq
  let fresh : InMsg := ⟨f.src, f.seq, f.cls, f.job, type, n, [], s.now, false, false⟩
  let m := held.getD fresh
  let full := held.isNone && decide (1024 ≤ (s.strand.inMsgs.filter fun x => !x.refused).length)
  let yellow := m.yellow || isYellow s f
  let checked := arrivalCheck s f false
  let s := checked.2
  let last := decide (m.count ≤ m.segments.length + 1)
  -- A refusal answers the message once; what is left of it is dropped as it comes.
  let rest (s : State) : State := if last then dropIn s m else putIn s { m with refused := true, segments := m.segments ++ [(i, [])] }
  if m.refused then rest s
  else match checked.1 with
    | some r => rest (refuseFrame s f r.1 r.2)
    | none =>
      if n = 0 ∨ 4096 < n ∨ n ≤ i ∨ m.type ≠ type ∨ m.count ≠ n ∨ f.payload.length < 8 then rest (refuseFrame s f St.badJob 0)
      else if full then rest (refuseFrame s f St.retry (s.now + 1))
      else if m.segments.any fun q => q.1 == i then s
      else
        let m := { m with segments := m.segments ++ [(i, f.payload.drop 8)], yellow := yellow }
        if m.segments.length = m.count then deliver s m cap else putIn s m

end Sys2Proof.Machine
end

