-- ==== Sys2Proof/Machine/Ending.lean ====
section
/-! DEFINITION. Work in flight that ends with one status: of an owner slot that is destroyed (R605), of a function that is
disabled (R630), of the whole node (R591, R537), of a reset (R353). -/

namespace Sys2Proof.Machine

open Sys2Proof

/-- What a command, run or other work in flight is, for the purpose of ending it. -/
structure Pick where
  query : Query → Bool
  frag : Fragment → Bool
  coll : Nat → Bool
  run : Run → Bool
  /-- Berths by their owner slot. -/
  berth : Nat → Bool
  table : Nat → Bool

def Pick.none : Pick := ⟨fun _ => false, fun _ => false, fun _ => false, fun _ => false, fun _ => false, fun _ => false⟩

/-- End a query with a status; it writes no result. -/
def endQuery (s : State) (q : Query) (status : Nat) : State :=
  let s := dropOwnFrags s q
  let ofQ (r : Run) : Bool := match r.use with
    | .encode t => t == q.tag
    | .command _ => false
  let s := (s.gph.runs.filter ofQ).foldl (fun s r => (List.range r.pages).foldl (fun s n => releasePage s (.scratch r.id n)) s) s
  let s := { s with gph := { s.gph with runs := s.gph.runs.filter fun r => !ofQ r } }
  let s := { s with qry := { s.qry with queries := s.qry.queries.filter fun x => x.tag != q.tag } }
  let s := (s.bump (Ent.collStQueriesLed q.coll)).bump (Ent.collStUncertified q.coll)
  s.finish q.cmd status [] (s.now + 1)

def endQueries (s : State) (p : Query → Bool) (status : Nat) : State :=
  (s.qry.queries.filter p).foldl (fun s q => endQuery s q status) s

/-- End fragments of other leads: each answers its lead with the status. -/
def endFrags (s : State) (p : Fragment → Bool) (status : Nat) : State :=
  (s.qry.frags.filter fun g => p g && !g.own).foldl (fun s g => endFrag s g (failedReply g status (s.now + 1))) s

/-- End the changes of some collections: at the intake node, at the primary, at the replica. -/
def endChanges (s : State) (p : Nat → Bool) (status : Nat) : State :=
  let held := s.chg.held.filter fun h => p h.2.coll
  let acc := s.chg.accepted.filter fun a => p a.change.coll
  let sq := s.chg.sequenced.filter fun a => p a.change.coll
  let mine := s.chg.intakes.filter fun i => p i.change.coll
  let s := { s with chg := { s.chg with
    held := s.chg.held.filter fun h => !p h.2.coll
    accepted := s.chg.accepted.filter fun a => !p a.change.coll
    sequenced := s.chg.sequenced.filter fun a => !p a.change.coll } }
  let s := held.foldl (fun s h => outcome s h.2 (refusal h.2 status (s.now + 1))) s
  let s := acc.foldl (fun s a => outcome (withdraw s a) a.change (refusal a.change status (s.now + 1))) s
  let s := sq.foldl (fun s a => Sys2Proof.Machine.sendAck s a.primary ⟨a.change.coll, a.change.shoal, a.seq, status, false, a.result⟩) s
  mine.foldl (fun s i => match s.chg.intakes.find? fun x => x.tag == i.tag with
    | some i => intakeDone s i ⟨i.tag, status, 0, 0, s.now + 1, false⟩
    | none => s) s

def endRuns (s : State) (p : Run → Bool) (status : Nat) : State :=
  (s.gph.runs.filter p).foldl (fun s r => match Graph.run s r.id with
    | some r => Graph.stopRun s r status
    | none => s) s

/-- End what a berth's commands do: the task of the berth and the commands that wait on it. -/
def endBerthWork (s : State) (o : OwnedBerth) (status : Nat) : State :=
  let fin (s : State) (c : Nat) : State := Berth.finish s c o.id status 0
  let s := match o.task with
    | .park (some c) => fin s c
    | .wake (some c) _ => fin s c
    | .handoff c t swapped => if swapped then fin s c else fin (Berth.sendControl s t (.discard o.id)) c
    | .checkpoint (some c) => fin s c
    | .phaseEnd c seed _ failed => s.finish c status (Berth.attendBytes s o.id seed failed) (s.now + 1)
    | _ => s
  let s := Berth.dropWaits s o status
  -- A handoff whose swap is under way has an owner that only the home's word can tell (R374).
  let swapping := match o.task with
    | .handoff _ _ b => b
    | _ => false
  let s := Berth.mapOwned s o.id fun x => { x with
    task := .none, waits := [], uncopied := [], unacked := []
    state := match x.state with
      | .moving => .resident
      | .parking => .resident
      | st => st }
  if swapping then Berth.unconfirm s o.id else s

def hasWork (o : OwnedBerth) : Bool := o.task != .none || !o.waits.isEmpty

/-- The commands that wait on a berth Parked here end. -/
def endParkedWaits (s : State) (h : HomeBerth) (status : Nat) : State :=
  let s := Berth.mapHome s h.num fun h => { h with waits := [] }
  h.waits.foldl (fun s w => Berth.finish s w.cmd (Berth.idOf s.strand.nodeId h.num) status 0) s

def endBerths (s : State) (p : Nat → Bool) (status : Nat) : State :=
  let s := (s.berth.owned.filter fun o => p o.ownerSlot && hasWork o).foldl (fun s o => endBerthWork s o status) s
  (s.berth.homes.filter fun h => p h.ownerSlot && !h.waits.isEmpty).foldl (fun s h => endParkedWaits s h status) s

def endTables (s : State) (p : Nat → Bool) (status : Nat) : State :=
  (s.tbl.commands.filter fun c => p c.slot).foldl (fun s c =>
    let s := if c.put ∧ !c.committed then c.nodes.foldl (fun s n => Table.sendPut s n c.slot 2 c.cmd [] [] .forward_) (Table.withdraw s (Table.putTag s c)) else s
    Table.endCmd s c status) s

/-- End all work that a choice picks. -/
def endPicked (s : State) (p : Pick) (status : Nat) : State :=
  endTables (endBerths (endRuns (endChanges (endFrags (endQueries s p.query status) p.frag status) p.coll status) p.run status) p.berth status)
    p.table status

/-- How much work in flight a choice picks. -/
def countPicked (s : State) (p : Pick) : Nat :=
  (s.qry.queries.filter p.query).length + (s.qry.frags.filter fun g => p.frag g && !g.own).length
    + (s.chg.intakes.filter fun i => p.coll i.change.coll).length + (s.chg.accepted.filter fun a => p.coll a.change.coll).length
    + (s.chg.held.filter fun h => p.coll h.2.coll).length + (s.chg.sequenced.filter fun a => p.coll a.change.coll).length
    + (s.gph.runs.filter p.run).length + (s.berth.owned.filter fun o => p.berth o.ownerSlot && hasWork o).length
    + ((s.berth.homes.filter fun h => p.berth h.ownerSlot).map fun h => h.waits.length).sum
    + (s.tbl.commands.filter fun c => p.table c.slot).length

/-! Functions (R630). -/

/-- An ATTEND's run is work of the Berth function, every other run of the Graph function. -/
def attendRun (s : State) (r : Run) : Bool := match r.use with
  | .command c => match s.cmd c with
    | some h => h.opcode == 0x23
    | none => r.berth.isSome
  | .encode _ => false

def functionPick (s : State) (b : Nat) : Pick :=
  match b with
  | 0 => { Pick.none with query := fun _ => true, frag := fun _ => true }
  | 1 => { Pick.none with coll := fun _ => true }
  | 2 => { Pick.none with run := fun r => !attendRun s r }
  | 3 => { Pick.none with berth := fun _ => true, run := attendRun s }
  | 4 => { Pick.none with table := fun _ => true }
  | _ => Pick.none

/-- R630, R633: what remains of a function ends with ABORTED_DISABLED, counted. -/
def abortFunction (s : State) (b : Nat) : State :=
  let p := functionPick s b
  let n := countPicked s p
  let s := endPicked s p St.aborted
  if n = 0 then s else s.bump Ent.disabledAborts n

def allPick : Pick := ⟨fun _ => true, fun _ => true, fun _ => true, fun _ => true, fun _ => true, fun _ => true⟩

/-- End every command of the host that is left. -/
def endCommands (s : State) (status : Nat) : State := (s.host.cmds.map (·.id)).foldl (fun s c => s.finish c status [] (s.now + 1)) s

/-- R591: an Expelled node ends every command and run in flight. -/
def endAll (s : State) (status : Nat) : State := endCommands (endPicked s allPick status) status

/-- R537: the host's commands that still run end. -/
def endHostWork (s : State) (status : Nat) : State :=
  endCommands (endPicked s { allPick with frag := fun _ => false, coll := fun _ => false, run := fun r => match r.use with
    | .command _ => true
    | .encode _ => false } status) status

/-! Owner slots (R605, R606). -/

def ownerPick (s : State) (k : Nat) : Pick :=
  { query := fun q => s.collOwner q.coll == k, frag := fun g => s.collOwner g.coll == k, coll := fun c => s.collOwner c == k
    run := fun r => r.owner == k, berth := fun o => o == k, table := fun t => Table.owner s t == k }

/-- The sequences of an owner leave every bank; no record is written, since their pages are swept. -/
def dropSequences (s : State) (p : NbSeq → Bool) : State :=
  let n := ((s.nb.banks.map fun b => (b.queue.filter p).length)).sum
  let fix (b : Bank) : Bank :=
    let headGone := match b.queue with
      | q :: _ => p q
      | [] => false
    { b with queue := b.queue.filter fun q => !p q, running := b.running && !headGone, staged := if headGone then [] else b.staged }
  let s := { s with nb := { s.nb with banks := s.nb.banks.map fix } }
  if n = 0 then s else s.bump Ent.sequencesFailed n

/-- R605 step 2, R275: every move of an owner's page is cancelled. -/
def cancelOwnerMoves (s : State) (k : Nat) : State :=
  let mine := s.mem.moves.filter fun v => match Mem.page s.mem v.id with
    | some p => p.owner == k
    | none => false
  mine.foldl (fun s v => (cancelMove s v).bump Ent.cancelledMoves) s

/-- Cache requests of an owner end with ACCESS_DENIED (R605). -/
def endCoherence (s : State) (k : Nat) : State :=
  let gone := s.coh.busy.filter fun (b : CohBusy) => b.req.owner == k
  let behind := (s.coh.busy.flatMap fun (b : CohBusy) => b.queue).filter fun (q : CohReq) => q.owner == k
  let keep (b : CohBusy) : CohBusy := { b with queue := b.queue.filter fun q => q.owner != k }
  let s := { s with coh := { s.coh with busy := (s.coh.busy.filter fun (b : CohBusy) => b.req.owner != k).map keep } }
  let s := (gone.map (·.req) ++ behind).foldl (fun s q => Coh.endReq s q St.accessDenied []) s
  Coh.drain s ((gone.flatMap fun (b : CohBusy) => b.queue).filter fun (q : CohReq) => q.owner != k)

/-- The graph slots of a key slot empty; an UNLOAD that waits ends ACCESS_DENIED. -/
def sweepGraphs (s : State) (k : Nat) : State :=
  (s.gph.slots.filter fun g => g.owner == k).foldl (fun s g => Graph.clear (match g.unload with
    | some c => s.refuse c St.accessDenied
    | none => s) g) s

/-- R259, R370, R606: what carries a destroyed slot returns to Free: berths, graph slots, pages in every tier. -/
def sweepSlot (s : State) (k : Nat) : State :=
  let s := (s.berth.owned.filter fun o => o.ownerSlot == k).foldl (fun s o => Berth.discard s o.id St.accessDenied) s
  let s := (s.berth.homes.filter fun h => h.ownerSlot == k && h.state != .free).foldl (fun s h => Berth.freeHome s h.num St.accessDenied) s
  let s := { s with berth := { s.berth with heldRecords := s.berth.heldRecords.filter fun r => r.ownerSlot != k } }
  let s := sweepOwner (sweepGraphs s k) k
  let u := Flash.unmapAll s.flash (Flash.ownedBy s.flash k)
  { s with flash := u, key := { s.key with sweeping := s.key.sweeping ++ [(k, u.epoch)] } }

end Sys2Proof.Machine
end

