-- ==== Sys2Proof/Machine/KeyOps.lean ====
section
/-! DEFINITION. Owner key slots and key commands (R597 to R606), Provenance records (R615, R616). -/

namespace Sys2Proof.Machine

open Sys2Proof

/-- Set an owner slot's state cell: 0 Empty, 1 Active, 2 Sweeping. -/
def setSlot (s : State) (k st : Nat) : State :=
  let rest := s.key.slots.filter fun p => p.1 != k
  { s with key := { s.key with slots := if st = 0 then rest else rest ++ [(k, st)] } }

/-- The random generator is healthy (R600). -/
def trngReady (s : State) : Bool := s.sec.trng == 1

/-- R603: draw until the two halves of the key differ. The key is held as the number of its draw: no rule reads its bits. -/
def drawKey : Nat → State → Nat × State
  | 0, s => (s.free, s)
  | n + 1, s =>
    let r := s.drawRandom
    if r.1.toNat / 2 ^ 256 = r.1.toNat % 2 ^ 256 then drawKey n r.2 else (s.free, r.2)

def createKey (s : State) (k : Nat) : State :=
  let r := drawKey 4 s
  setSlot { r.2 with key := { r.2.key with gens := (r.2.key.gens.filter fun g => g.1 != k) ++ [(k, r.1)] } } k 1

/-- R605: destroy an Active slot. Its pages go at once; R259 sets no pace (notes/assumptions/38.md). -/
def destroySlot (s : State) (k : Nat) : State :=
  let s := (setSlot s k 2).bump Ent.destroys
  let s := { s with
    sec := { s.sec with graphKeys := s.sec.graphKeys.filter fun g => g.1 != k, keysPending := s.sec.keysPending.filter fun g => g.1 != k }
    flash := Flash.unmap s.flash (Flash.keyWord k) }
  let s := endCoherence (cancelOwnerMoves (dropSequences (endPicked s (ownerPick s k) St.accessDenied) fun q => q.owner == k) k) k
  let s := { s with key := { s.key with gens := s.key.gens.filter fun g => g.1 != k } }
  let s := sweepSlot s k
  if hdmOwner s = k then serveHeld (zeroRange s) else s

/-- The registered graph keys, durable or not. -/
def allGraphKeys (s : State) : List (Nat × Bytes) := s.sec.graphKeys ++ s.sec.keysPending

/-- R604: a key of a slot is registered. -/
def keyListed (s : State) (k digest : Nat) : Bool := (allGraphKeys s).any fun g => g.1 == k && digest64 g.2 == digest

/-- R604: a change of a slot's graph keys takes the next Catalogue write count and goes to region 5. -/
def writeGraphKeys (s : State) (k : Nat) : State :=
  let s := s.bump Ent.catalogueWrites
  let data := Config.encodeGraphKeys (s.num Ent.catalogueWrites) (((allGraphKeys s).filter fun g => g.1 == k).map (·.2))
  { s with flash := Flash.write s.flash s.subticks 0 [(Flash.keyWord k, padTo 4096 data)] }

/-- R600, R603: CREATE_KEY. Status and suggested Tide. -/
def doCreateKey (s : State) (k : Nat) : Nat × Nat × State :=
  if s.slotState k = 2 ∨ !trngReady s then (St.retry, s.now + 1, s)
  else if s.slotState k ≠ 0 then (St.badJob, 0, s)
  else (St.ok, 0, createKey s k)

/-- R605: DESTROY. -/
def doDestroy (s : State) (k : Nat) : Nat × Nat × State :=
  if s.slotState k = 1 then (St.ok, 0, destroySlot s k)
  else if s.slotState k = 2 then (St.ok, 0, s)
  else (St.badJob, 0, s)

/-- R604 and the table "Key command outcomes": REGISTER_GRAPH_KEY takes an odd modulus of exactly 4096 bits. -/
def doRegisterKey (s : State) (k : Nat) (modulus : Bytes) : Nat × Nat × State :=
  let n := beNat modulus
  if keyListed s k (digest64 modulus) then (St.ok, 0, s)
  else if s.num Ent.flashReady = 0 then (St.retry, s.now + 1, s)
  else if s.slotState k ≠ 1 ∨ n.log2 ≠ 4095 ∨ n % 2 = 0 ∨ 4 ≤ ((allGraphKeys s).filter fun g => g.1 == k).length
      ∨ 1024 ≤ (allGraphKeys s).length then (St.badJob, 0, s)
  else (St.ok, 0, writeGraphKeys { s with sec := { s.sec with keysPending := s.sec.keysPending ++ [(k, modulus)] } } k)

/-- R604: REMOVE_GRAPH_KEY. -/
def doRemoveKey (s : State) (k digest : Nat) : Nat × Nat × State :=
  if !keyListed s k digest then (St.badJob, 0, s)
  else
    let keep (g : Nat × Bytes) : Bool := !(g.1 == k && digest64 g.2 == digest)
    (St.ok, 0, writeGraphKeys { s with sec := { s.sec with
      graphKeys := s.sec.graphKeys.filter keep, keysPending := s.sec.keysPending.filter keep } } k)

/-- The table "Key command outcomes": status, suggested Tide, state. What the command itself is refused with stands before the
BAD_JOB of its bytes where it is the higher (R12). -/
def keyCommand (s : State) (b : Bytes) : Nat × Nat × State :=
  let op := field b 0 1
  let k := field b 2 2
  let len := if op = 3 then 520 else if op = 4 then 16 else 8
  let r := if op = 1 then doCreateKey s k
    else if op = 2 then doDestroy s k
    else if op = 3 then doRegisterKey s k (b.drop 8)
    else doRemoveKey s k (field b 8 8)
  if op = 0 ∨ 4 < op ∨ b.length ≠ len ∨ field b 1 1 ≠ 0 ∨ k = 0 ∨ 4096 ≤ k ∨ field b 4 4 ≠ 0 then
    if St.badJob < r.1 then (r.1, r.2.1, s) else (St.badJob, 0, s)
  else r

/-- The records of GraphKeyTable, in ascending slot and digest. -/
def graphKeyTable (s : State) : Bytes :=
  (sortBy (fun (a b : Nat × Nat) => decide (a.1 < b.1) || (a.1 == b.1 && decide (a.2 < b.2))) (s.sec.graphKeys.map fun g => (g.1, digest64 g.2))).flatMap
    fun g => leBytes 2 g.1 ++ List.replicate 6 0 ++ leBytes 8 g.2

/-- R579: owner slots whose key cell is bad in both security blocks are treated as destroyed, and the records of their events carry
ACCESS_DENIED. -/
def destroyBadKeys (s : State) : State :=
  let tested := (s.rel.tests.filter fun t => unitKind t.unit == 10).flatMap fun t => t.events.map (·.detail)
  let bad := (s.rel.badKeys.map (·.2) ++ tested).eraseDups.filter fun k => keyBad s 0 k && keyBad s 1 k
  let deny (k : Nat) (e : EventWait) : EventWait := if e.detail = k then { e with status := St.accessDenied } else e
  let mark (k : Nat) (t : Test) : Test := if unitKind t.unit = 10 then { t with events := t.events.map (deny k) } else t
  bad.foldl (fun s k =>
    let s := { s with rel := { s.rel with tests := s.rel.tests.map (mark k) } }
    if s.slotState k = 1 then destroySlot s k else s) s

end Sys2Proof.Machine
end

