-- ==== Sys2Proof/Machine/Signed.lean ====
section
/-! DEFINITION. Signed commands of the fault authority (R587 to R592). -/

namespace Sys2Proof.Machine

open Sys2Proof

def keySetBytes : Nat := 2561

/-- The modulus of a key index in a key set. -/
def faultKey (keys : Bytes) (i : Nat) : Bytes := (keys.drop (1 + 512 * i)).take 512

/-- A key set is well formed: its length and quorum (the table "Signed command"). -/
def keySetOk (b : Bytes) : Bool := b.length == keySetBytes && decide (2 ≤ field b 0 1) && decide (field b 0 1 ≤ 5)

def signers (b : Bytes) : List Bytes := ((List.range (field b 5 1)).map fun i => (b.drop (64 + 520 * i)).take 520)

def keySetOf (b : Bytes) : Bytes := b.drop (64 + 520 * field b 5 1)

/-- R588: the layout of a signed command holds; every reserved field is 0 (R6). -/
def signedFormed (b : Bytes) : Bool :=
  let cmd := field b 4 1
  let n := field b 5 1
  field b 0 4 == 0x444D4346 && decide (1 ≤ cmd) && decide (cmd ≤ 5) && decide (1 ≤ n) && decide (n ≤ 5)
    && field b 6 2 == 0 && decide (field b 8 4 < 2 ^ 20) && field b 30 2 == 0 && field b 40 8 == 0 && field b 48 8 == 0 && field b 56 8 == 0
    && b.length == 64 + 520 * n + (if cmd = 5 then keySetBytes else 0)
    && (signers b).all (fun r => decide (field r 0 1 ≤ 4) && field r 1 7 == 0)
    && (if cmd = 5 then keySetOk (keySetOf b) else field b 32 8 == 0)

/-- R588: refused with BAD_JOB. -/
def signedBad (s : State) (b : Bytes) : Bool :=
  !signedFormed b || field b 12 4 != s.cfg Ent.compositionId || decide (field b 16 8 ≤ s.num Ent.signedNonce)
    || decide (field b 24 6 < s.now) || (field b 4 1 == 5 && digest64 (keySetOf b) != field b 32 8)

/-- R588: distinct key indexes that carry valid signatures. -/
def validSigners (s : State) (b : Bytes) : Nat :=
  let keys := s.cfgB Ent.faultKeys
  (((signers b).filter fun r => rsaVerify (faultKey keys (field r 0 1)) (b.take 64) (r.drop 8)).map fun r => field r 0 1).eraseDups.length

/-- R592: an EXPEL of another node that would need a 1,025th entry; notices that wait for their boundary count. -/
def expelFull (s : State) (target : Nat) : Bool :=
  let known := expelledNodes s ++ (s.rel.signed.filter fun e => e.command == 3 && e.target != s.strand.nodeId).map (·.target)
  target != s.strand.nodeId && !known.contains target && decide (1024 ≤ known.eraseDups.length)

/-- The 8 response bytes of a signed command. -/
def signedResponse (status command effect : Nat) : Bytes := leBytes 1 status ++ leBytes 1 command ++ leBytes 6 effect

/-- R587: the path on which signed commands are accepted. -/
def signedPath (s : State) (path : Path) : Bool :=
  match path with
  | .mailbox => s.cfg Ent.faultAuthority == 0
  | _ => s.cfg Ent.faultAuthority == 1

/-- A signed command is refused: counted and logged. -/
def refusedSigned (s : State) (st target : Nat) : State :=
  (s.bump Ent.signedRefusals).logEvent 0x26 Oc.info st 0 nodeUnit (target % 2 ^ 20)

/-- R587 to R592: judge a signed command that arrived whole. Status, suggested Tide, response data, state. -/
def signedCommand (s : State) (path : Path) (b : Bytes) : Nat × Nat × Bytes × State :=
  let cmd := field b 4 1
  let target := field b 8 4
  let refused (st retry : Nat) : Nat × Nat × Bytes × State :=
    (st, retry, signedResponse st cmd 0, refusedSigned s st target)
  match worst [ (!signedPath s path, St.accessDenied, 0)
              , (signedBad s b, St.badJob, 0)
              , (signedFormed b && decide (validSigners s b < s.num Ent.quorumNeeded), St.badSignature, 0)
              , (signedFormed b && cmd == 3 && expelFull s target, St.retry, s.now + 1) ] with
  | some r => refused r.1 r.2
  | none =>
    let e : SignedEffect := ⟨s.now + 1, cmd, target, if cmd = 5 then keySetOf b else []⟩
    let s := s.setNum Ent.signedNonce (field b 16 8)
    (St.ok, 0, signedResponse St.ok cmd (s.now + 1), { s with rel := { s.rel with signed := s.rel.signed ++ [e] } })

/-- R589: a key set applies. -/
def installKeys (s : State) (keys : Bytes) : State := (s.setVal Ent.faultKeys (.b keys)).setNum Ent.quorumNeeded (field keys 0 1)

def putExpelled (s : State) (l : List Nat) : State := s.setVal Ent.expelledNodes (.b (l.flatMap (leBytes 4)))

/-- The table "Effects of signed commands at boundary E". -/
def signedEffect (s : State) (e : SignedEffect) : State :=
  let me := e.target == s.strand.nodeId
  let note (s : State) (code : Nat) : State := s.logEvent code Oc.info St.ok 0 nodeUnit e.target
  match e.command with
  | 1 =>
    let s := note s 0x20
    if me && s.num Ent.nodeServiceState == 0 then s.setNum Ent.nodeServiceState 1 else s
  | 2 =>
    let s := note s 0x21
    if me && s.num Ent.nodeServiceState == 1 then releaseHeld (s.setNum Ent.nodeServiceState 0) else s
  | 3 =>
    if me then endAll ((note s 0x22).setNum Ent.nodeServiceState 2) St.aborted
    else
      let s := note s 0x23
      let l := expelledNodes s
      forgetReader (if l.contains e.target then s else putExpelled s (l ++ [e.target])) e.target
  | 4 =>
    let s := note s 0x24
    if me then s else putExpelled s ((expelledNodes s).filter (· != e.target))
  | 5 => note (installKeys s e.keys) 0x25
  | _ => s

/-- Signed commands whose boundary has come. -/
def signedEffects (s : State) : State :=
  let due := s.rel.signed.filter fun e => decide (e.at_ ≤ s.now)
  due.foldl signedEffect { s with rel := { s.rel with signed := s.rel.signed.filter fun e => !decide (e.at_ ≤ s.now) } }

end Sys2Proof.Machine
end

