-- ==== Sys2Proof/Machine/CapEntries.lean ====
section
/-! DEFINITION. What each Catalogue entry reads as: values last written, and the status entries that report a unit's state
(the entry tables of every chapter). -/

namespace Sys2Proof.Machine

open Sys2Proof

def bit01 (b : Bool) : Nat := if b then 1 else 0

/-! Collections and shoals. -/

/-- A shoal of a map that names this node, with its number and whether the node is the replica. -/
def mapHere (s : State) (b : Bytes) : List (Nat × Bool) :=
  let rs := records 8 b
  ((List.range rs.length).zip rs).filterMap fun (p : Nat × Bytes) =>
    if field p.2 0 4 % 2 ^ 20 = s.strand.nodeId then some (p.1, false)
    else if field p.2 4 4 % 2 ^ 20 = s.strand.nodeId then some (p.1, true) else none

/-- The pending TW value of a key. -/
def pendOf (s : State) (k : Nat) : Option TwPend := s.cat.tw.find? fun w => w.key == k

/-- Collection slots whose maps count under R69: Open, Closing, or with an open pending. -/
def countedColls (s : State) : List Nat :=
  (List.range 256).filter fun c =>
    s.collState c == 2 || s.collState c == 3 || (match pendOf s (Ent.collCollectionControl c) with
      | some w => w.val.num == 1
      | none => false)

/-- R69: the shoals that the node counts as held, each as slot and shoal. -/
def heldShoals (s : State) : List (Nat × Nat) :=
  let given (c : Nat) : List (Nat × Nat) :=
    let pend := match pendOf s (Ent.collShoalMap c) with
      | some w => mapHere s w.val.bytes
      | none => []
    (mapHere s (s.cfgB (Ent.collShoalMap c)) ++ pend).map fun (p : Nat × Bool) => (c, p.1)
  ((countedColls s).flatMap given ++ (s.idx.copies.filter fun p => p.releaseAt.isSome).map fun p => (p.coll, p.shoal)).eraseDups

def collLeaves (s : State) (c : Nat) : List Leaf := s.idx.leaves.filter fun l => l.coll == c

/-- Item records of a collection's live slots. -/
def liveRecords (s : State) (c : Nat) : List ItemRec :=
  let ls := ((collLeaves s c).filter fun l => l.kept.isNone).flatMap fun l => (Index.leafSlots l).filterMap fun (p : Nat × Slot) => if p.2.live then some p.1 else none
  s.idx.records.filter fun r => ls.contains r.local_

def collVisible (s : State) (c : Nat) : Nat :=
  (((collLeaves s c).filter fun l => l.kept.isNone).map fun l => ((Index.leafSlots l).filter fun (p : Nat × Slot) => p.2.visible s.now s.now (Index.ledgered s.idx p.1)).length).sum

def collNodes (s : State) (c : Nat) : List TreeNode := s.idx.nodes.filter fun n => n.coll == c

def collNodeBytes (s : State) (c : Nat) (p : TreeNode → Bool) : Nat :=
  ((collNodes s c).filter p).length * Index.nodeBytes (s.cfg (Ent.collMetric c)) (s.cfg (Ent.collDimension c))

def copyRecord (p : ShoalCopy) : Bytes :=
  leBytes 2 p.shoal ++ leBytes 1 (match p.state with
    | .serving => 0
    | .filling => 1
    | .stale => 2) ++ leBytes 1 (bit01 p.replica) ++ List.replicate 4 0

/-- 0x42cc: the entries that report a collection's trees. -/
def collLive (s : State) (c sub : Nat) : Option Val :=
  match sub with
  | 0x02 => some (natVal (s.idx.copies.filter fun p => p.coll == c).length)
  | 0x03 => some (natVal (collVisible s c))
  | 0x04 => some (natVal (collLeaves s c).length)
  | 0x05 => some (natVal ((collNodes s c).foldl (fun m n => max m (n.level + 1)) 0))
  | 0x06 => some (natVal (collNodeBytes s c fun n => n.shelf == some true))
  | 0x07 => some (natVal (collNodeBytes s c fun n => n.shelf == some false && decide (n.level < s.cfg (Ent.collShelfLevels c))))
  | 0x08 =>
    let p := s.params c
    some (natVal ((liveRecords s c).length * recordCodewords p.vecBytes p.metaBytes * 4096))
  | 0x09 => some (natVal ((liveRecords s c).filter fun r => (s.params c).isOpen r.vec).length)
  | 0x14 =>
    let l := sortBy (fun (a b : ShoalCopy) => decide (a.shoal < b.shoal)) (s.idx.copies.filter fun p => p.coll == c)
    some (.b (l.flatMap copyRecord))
  | _ => none

/-! Strand ports, queues, channels. -/

def PortState.code : PortState → Nat
  | .disabled => 0
  | .detect => 1
  | .equalise => 2
  | .align => 3
  | .hello => 4
  | .up => 5
  | .miswired => 6
  | .down => 7

/-- 0x71pp. -/
def portLive (s : State) (p sub : Nat) : Option Val :=
  let x := s.port p
  match sub with
  | 0x01 => some (natVal x.state.code)
  | 0x02 => some (natVal (laneList x.mask).length)
  | 0x03 => some (natVal x.mask)
  | 0x04 => some (natVal x.neighbour)
  | 0x09 => some (natVal (bit01 (!x.spareUsed)))
  | 0x0C => some (natVal x.faults)
  | _ => none

/-- 0x75pp.02: the depth of each queue. -/
def egressLive (s : State) (p sub : Nat) : Option Val :=
  if sub = 2 then some (.b ((s.port p).queues.flatMap fun (q : List Queued) => leBytes 4 ((q.map fun (x : Queued) => x.frame.size).sum))) else none

/-- 0x82cc. -/
def chanLive (s : State) (c sub : Nat) : Option Val :=
  match Flash.chan s.flash c with
  | none => none
  | some k =>
    match sub with
    | 0x03 => some (natVal (Flash.freeBlocks s.flash k))
    | 0x04 => some (natVal (Flash.spread s.flash k).1)
    | 0x05 => some (natVal (Flash.spread s.flash k).2)
    | 0x06 => some (natVal k.spares)
    | _ => none

def meterRecord (m : Meter) : Bytes := leBytes 2 m.job ++ List.replicate 6 0 ++ leBytes 8 m.green ++ leBytes 8 m.yellow ++ leBytes 8 m.red

/-! Cores, clusters and spares. -/

def activeClusters (s : State) : Nat := 32 - s.rel.deadClusters.length

def activeCores (s : State) : Nat :=
  16 * activeClusters s - (s.rel.deadCores.filter fun c => !s.rel.deadClusters.contains (c / 16)).length

/-- Spares of a kind used, over every parent. -/
def spareTotal (s : State) (kind : Nat) : Nat := ((s.rel.spares.filter fun x => x.kind == kind).map (·.used)).sum

def usedInDead (s : State) (kind : Nat) : Nat :=
  ((s.rel.spares.filter fun x => x.kind == kind && s.rel.deadClusters.contains x.parent).map (·.used)).sum

/-- 0x9000.0A. Kinds 10 and 11 count a channel's spare blocks once flash is enumerated; the journal draws from them. -/
def spareInventory (s : State) : Bytes :=
  let free := (s.flash.chans.map (·.spares)).sum
  let built := free + s.num Ent.retiredBlocks
  spareKinds.flatMap fun (k : Nat × Nat × Nat) =>
    if k.1 = 10 ∨ k.1 = 11 then (if s.flash.enumerated then spareRecord k.1 built free else spareRecord k.1 0 0)
    else spareRecord k.1 k.2.1 (k.2.2 - spareTotal s k.1)

/-! Memory, flash, keys, lock. -/

def tieredIn (s : State) (f : Tier → Bool) : Nat := (s.mem.pages.filter fun p => f p.tier).length

def Tier.isStack : Tier → Bool
  | .stack _ => true
  | _ => false

def Tier.isShelf : Tier → Bool
  | .shelf _ => true
  | _ => false

def oldestStack (s : State) : Nat := (s.mem.pages.filter fun p => p.tier.isStack).foldl (fun m p => max m (age s p)) 0

/-- HDM flash bytes reserved and not written. -/
def hdmUnwritten (s : State) : Nat :=
  s.cfg Ent.hdmBytes - ((Flash.writtenNow s.flash).filter fun l => regionOf l == 1).length * 4096

def slotBytes (s : State) : Bytes :=
  (List.range 4096).map fun k => BitVec.ofNat 8 (s.slotState k)

def slotsIn (s : State) (st : Nat) : Nat := (s.key.slots.filter fun p => p.2 == st).length

def Who.code : Who → Nat × Nat
  | .field m => (0, m)
  | .mailbox => (1, 0)
  | .strand n => (2, n)

/-- 0x1000.0D. -/
def lockBytes (s : State) : Bytes :=
  match s.cap.lock with
  | none => []
  | some (w, id, e) => leBytes 1 w.code.1 ++ [0] ++ leBytes 2 id ++ leBytes 8 w.code.2 ++ leBytes 4 e

/-- R583: up to 64 records from EventSelect on. -/
def selectedEvents (s : State) : List EventRec := (s.log.ring.filter fun r => decide (s.num Ent.eventSelect ≤ r.seq)).take 64

def selectedReport (s : State) : Bytes := (s.berth.reports.lookup (s.cfg Ent.reportSelect)).getD []

def isHdm : PageId → Bool
  | .hdm _ => true
  | _ => false

/-- Values of entries that report the present state of a unit, by key. -/
def liveTable (s : State) : List (Nat × (Unit → Val)) := [
  (Ent.firmwareVersion, fun _ => natVal (field s.sec.running 8 4)),
  (Ent.firmwareDigest, fun _ => natVal (if s.sec.running.isEmpty then 0 else digest64 s.sec.running)),
  (Ent.writeLockHolder, fun _ => .b (lockBytes s)),
  (Ent.activeClusters, fun _ => natVal (activeClusters s)),
  (Ent.activeCores, fun _ => natVal (activeCores s)),
  (Ent.spareCoresFree, fun _ => natVal (activeClusters s - (spareTotal s 1 - usedInDead s 1))),
  (Ent.spareClustersFree, fun _ => natVal (4 - spareTotal s 2)),
  (Ent.activeMatrixEngines, fun _ => natVal (activeClusters s)),
  (Ent.stackBytes, fun _ => natVal (687194767360 - 65536 * (s.mem.retired.filter fun a => decide (a < stackEnd)).length)),
  (Ent.shelfBytes, fun _ => natVal (17179869184 - 65536 * (s.mem.retired.filter fun a => decide (shelfBase ≤ a)).length)),
  (Ent.clusterClockMHz, fun _ => natVal s.pwr.clockMHz),
  (Ent.tideCount, fun _ => natVal s.tide.count),
  (Ent.tidePhase, fun _ => natVal s.tide.phase),
  (Ent.tideState, fun _ => natVal s.tide.state.code),
  (Ent.missedRun, fun _ => natVal (min 255 s.tide.missedRun)),
  (Ent.twPending, fun _ => natVal s.cat.tw.length),
  (Ent.measuredPeriodNs, fun _ => natVal s.tide.measuredNs),
  (Ent.tideFaults, fun _ => natVal (boolBit s.tide.periodFault 0 + boolBit s.tide.conflictFault 1)),
  (Ent.leafIdsUsed, fun _ => natVal s.idx.leaves.length),
  (Ent.shoalsHeld, fun _ => natVal (heldShoals s).length),
  (Ent.lowWaterStamp, fun _ => natVal (lowWater s)),
  (Ent.ledgerUsed, fun _ => natVal s.idx.ledger.length),
  (Ent.queriesInFlight, fun _ => natVal s.qry.queries.length),
  (Ent.fixedPages, fun _ => natVal s.mem.fixed.length),
  (Ent.exportedPages, fun _ => natVal s.mem.exported),
  (Ent.tieredShelfPages, fun _ => natVal (tieredIn s Tier.isShelf)),
  (Ent.tieredStackPages, fun _ => natVal (tieredIn s Tier.isStack)),
  (Ent.tieredFlashPages, fun _ => natVal (tieredIn s fun t => t == .flash)),
  (Ent.freeStackPages, fun _ => natVal (Mem.freeStack s.mem)),
  (Ent.oldestStackAge, fun _ => natVal (oldestStack s)),
  (Ent.hdmBackedPages, fun _ => natVal (s.mem.pages.filter fun p => isHdm p.id).length),
  (Ent.sweepPending, fun _ => natVal (slotsIn s 2)),
  (Ent.hdmFlashReserved, fun _ => natVal (s.cfg Ent.hdmBytes)),
  (Ent.windowBytesInUse, fun _ => natVal (Graph.windowsInUse s)),
  (Ent.refreshWindowMs, fun _ => .b (s.nb.thermal.map fun k => BitVec.ofNat 8 k.window)),
  (Ent.stackTempC, fun _ => .b (s.nb.thermal.map fun k => BitVec.ofNat 8 k.temp)),
  (Ent.dutyInForce, fun _ => .b ((List.range 8).map fun i => BitVec.ofNat 8 (dutyInForce s i))),
  (Ent.emulatedBanks, fun _ => natVal (s.nb.banks.filter (·.emulated)).length),
  (Ent.lostLines, fun _ => .b (s.coh.lost.flatMap (leBytes 8))),
  (Ent.lostLineCount, fun _ => natVal s.coh.lost.length),
  (Ent.runsInFlight, fun _ => natVal s.gph.runs.length),
  (Ent.roleInForce, fun _ => natVal (s.cfg Ent.poolRole)),
  (Ent.berthsResident, fun _ => natVal (s.berth.owned.filter fun o => o.state == .resident).length),
  (Ent.berthsParked, fun _ => natVal (s.berth.homes.filter fun h => h.state == .parked).length),
  (Ent.unconfirmedCopies, fun _ => natVal (s.berth.owned.filter (·.unconfirmed)).length),
  (Ent.selectedReport, fun _ => .b (selectedReport s)),
  (Ent.requesterSeqNext, fun _ => natVal s.strand.requesterSeq),
  (Ent.strandFaults, fun _ => natVal (bit01 s.strand.coordFault)),
  (Ent.regEntriesUsed, fun _ => natVal s.strand.regs.length),
  (Ent.replayUsed, fun _ => natVal s.strand.replay.length),
  (Ent.jobMeterCounts, fun _ => .b (s.strand.meters.flatMap meterRecord)),
  (Ent.userCapacityBytes, fun _ => natVal (Flash.capacity s.flash * 4096)),
  (Ent.mapBytes, fun _ => natVal (s.flash.mapPages.length * 65536)),
  (Ent.journalReserveUsed, fun _ => natVal (min 100 (100 * Flash.logUsed s.flash / max 1 (Flash.reserve s.flash)))),
  (Ent.mappedBytes, fun _ => natVal (Flash.mapped s * 4096)),
  (Ent.reservedBytes, fun _ => natVal (hdmUnwritten s)),
  (Ent.writeSequence, fun _ => natVal (s.flash.seq % 2 ^ 56)),
  (Ent.lastFlushTide, fun _ => natVal s.flash.lastFlush),
  (Ent.diesOutOfService, fun _ => natVal s.flash.deadDies.length),
  (Ent.lostCodewords, fun _ => natVal s.flash.lost.length),
  (Ent.linkState, fun _ => natVal (boolBit s.host.linkUp 0 + boolBit (!s.host.ide.isEmpty) 1 + boolBit s.host.degraded 2)),
  (Ent.linkWidth, fun _ => natVal s.host.width),
  (Ent.linkRate, fun _ => natVal s.host.rate),
  (Ent.queuePairsEnabled, fun _ => natVal (s.host.pairs.filter (·.enabled)).length),
  (Ent.selfTestsRunning, fun _ => natVal (s.rel.tests.filter (·.begun)).length),
  (Ent.spareInventory, fun _ => .b (spareInventory s)),
  (Ent.eventRecords, fun _ => .b ((selectedEvents s).flatMap EventRec.bytes)),
  (Ent.lastingRecords, fun _ => .b (s.log.lasting.flatMap EventRec.bytes)),
  (Ent.trngState, fun _ => natVal s.sec.trng),
  (Ent.slotStates, fun _ => .b (slotBytes s)),
  (Ent.slotsActive, fun _ => natVal (slotsIn s 1)),
  (Ent.graphKeyTable, fun _ => .b (graphKeyTable s)),
  (Ent.quiescedBlocks, fun _ => .b (s.rst.quiesced.flatMap (leBytes 4))),
  (Ent.powerState, fun _ => natVal s.rst.powerState),
  (Ent.slackClusters, fun _ => natVal s.rst.slack.length),
  (Ent.configDigest, fun _ => natVal (configDigest s.cat)),
  (Ent.configState, fun _ => .b (configState s.cat)),
  (Ent.scopeDigests, fun _ => .b (scopeDigests s.cat))]

/-- The value of a family's entry that reports a unit's state. -/
def liveFamily (s : State) (k : Nat) : Option Val :=
  let i := k / 256
  if 0x4200 ≤ i ∧ i < 0x4300 then collLive s (i - 0x4200) (k % 256)
  else if 0x7100 ≤ i ∧ i < 0x7106 then portLive s (i - 0x7100) (k % 256)
  else if 0x7500 ≤ i ∧ i < 0x7506 then egressLive s (i - 0x7500) (k % 256)
  else if 0x8200 ≤ i ∧ i < 0x8220 then chanLive s (i - 0x8200) (k % 256)
  else none

/-- Entries whose reading the manual ties to a physical or unsized quantity and gives no rule for: the corrected codewords
of a port, a channel's busy time, window waits. Each reads as a
free value below its bound (notes/assumptions/39.md). -/
def openReading (k : Nat) : Option Nat :=
  let i := k / 256
  if 0x7100 ≤ i ∧ i < 0x7106 ∧ k % 256 = 5 then some (2 ^ 64)
  else if 0x8200 ≤ i ∧ i < 0x8220 ∧ k % 256 = 8 then some 101
  else if k = Ent.windowWaitNs then some (2 ^ 64)
  else none

/-- R554: PlcaState. Whether a follower has seen beacons is a free value: no command brings a beacon. -/
def plcaState (s : State) : Nat :=
  let id := s.cfg Ent.fieldNodeId
  if id = 255 ∨ s.rst.recovery then 0 else if id = 0 then 2 else if Config.freeValue s.free % 2 = 0 then 1 else 3

/-- The value that a plain read of an entry returns (R542), before any free value is drawn. -/
def plainVal (s : State) (e : Entry) (k : Nat) : Val :=
  if e.acc = .tw then s.cat.inForce k
  else if k = Ent.plcaState then natVal (plcaState s)
  else
    match openReading k, (liveTable s).lookup k, liveFamily s k with
    | some m, _, _ => natVal (Config.freeValue s.free % m)
    | none, some f, _ => f ()
    | none, none, some v => v
    | none, none, none => s.cat.get k

def Access.code : Access → Nat
  | .const => 0
  | .ro => 1
  | .rw => 2
  | .wo => 3
  | .tw => 4

def Class.code : Class → Nat
  | .p => 0
  | .w => 1
  | .v => 2

/-- The highest subindex defined at an index; none where the index is reserved (R549). -/
def highestSub (i : Nat) : Option Nat :=
  let l := (entries.filter fun e => decide (e.base ≤ i) && decide (i < e.base + e.count)).map (·.sub)
  if l.isEmpty then none else some (l.foldl max 0)

/-- The entry of an index and subindex; subindex 0 is a U8 CONST that holds the highest subindex (R539). -/
def entryAt (i sub : Nat) : Option Entry :=
  if sub = 0 then (highestSub i).map fun h => ⟨i, 1, 0, "", .u 1, .const, .p, .n h, false, false, .boundary, .any, 1⟩
  else findEntry (i * 256 + sub)

/-- Whether a reading draws a free value. -/
def drawsReading (k : Nat) : Bool := (openReading k).isSome || k == Ent.plcaState

/-- Read an entry: its bytes, and the state with the free value drawn. -/
def readEntry (s : State) (e : Entry) (k : Nat) : Bytes × State :=
  let v := if e.sub = 0 then e.dflt else plainVal s e k
  (valBytes e k v, if drawsReading k then s.drawFree.2 else s)

end Sys2Proof.Machine
end

