-- ==== Sys2Proof/Machine/TableRows.lean ====
section
/-! DEFINITION. The commands of embedding tables (R381 to R393), and the two operators of a run that use them (R339, R340). -/

namespace Sys2Proof.Machine

open Sys2Proof Sys2Proof.Num

/-! Row commands. -/

/-- The row numbers of a row list. -/
def rowNumbers (b : Bytes) : List Nat := (records 8 b).map leNat

/-- R360, R386, R630, R602: what a row command meets. `rows` are known once the row list has been read. -/
def rowRefusal (s : State) (d : Bytes) (rows : List Nat) : Option (Nat × Nat) :=
  let found := Table.find s (field d 4 4)
  let n := field d 8 4
  let ap := field d 32 6
  let put := field d 1 1 == 1
  worst [ (found.isNone, St.badJob, 0)
        , (n == 0 || decide (65536 < n), St.badJob, 0)
        , (match found with
            | some t => rows.any fun r => decide (Table.rowCount s t ≤ r) || !Table.inMap s t r
            | none => false, St.badJob, 0)
        , (ap != 0 && (!put || decide (ap < s.now + s.cfg Ent.swapLeadMin) || decide (s.now + 65536 < ap)), St.badJob, 0)
        , (match found with
            | some t => ap != 0 && !Table.snapshot s t
            | none => false, St.badJob, 0)
        , (match found with
            | some t => s.slotState (Table.owner s t) != 1
            | none => false, St.accessDenied, 0)
        , (acquiring s, St.retry, s.now + 1)
        , (!functionOn s 4, St.retry, functionRetry s 4) ]

/-- A row command of one operation that has not run. -/
def rowCmd (s : State) (cmd op : Nat) : Option HostCmd := (s.waitingCmd cmd 0x30).filter fun c => field c.desc 1 1 == op

/-- The row list of a command and what it meets: a refusal, or the table slot and rows. -/
def rowList (s : State) (d : Bytes) (rows : HostRead) : Except (Nat × Nat) (Nat × List Nat) :=
  match rowRefusal s d [] with
  | some r => .error r
  | none =>
    let r := readInput s (field d 16 8) (8 * field d 8 4) rows
    if r.1 ≠ St.ok then .error (r.1, 0)
    else match rowRefusal s d (rowNumbers r.2), Table.find s (field d 4 4) with
      | some x, _ => .error x
      | none, some t => .ok (t, rowNumbers r.2)
      | none, none => .error (St.badJob, 0)

/-- Look up rows that are ready, in order; the first that fails ends it. -/
def lookupAll (s : State) (u : RowUser) (t stamp : Nat) (rows : List Nat) : Nat × Bytes × State :=
  rows.foldl (fun (a : Nat × Bytes × State) r =>
    if a.1 ≠ St.ok then a
    else match Table.lookup a.2.2 u t r stamp with
      | (.row b, s) => (a.1, a.2.1 ++ b, s)
      | (.fails st, s) => (st, a.2.1, s)) (St.ok, [], s)

/-- Look rows up for a stamp, or wait for the READs of those that other nodes hold (R382): false where it waits. -/
def lookupRows (s : State) (u : RowUser) (t stamp : Nat) (rows : List Nat) : Bool × Nat × Bytes × State :=
  let q := Table.readyAll s u t stamp rows
  if !q.1 then (false, St.ok, [], q.2)
  else
    let r := lookupAll q.2 u t stamp rows
    (true, r.1, r.2.1, Table.dropFar r.2.2 fun x => x == u)

/-- ROW_GET (R382): stamped at acceptance; a snapshot miss or an unreadable row ends it without data, and so does a stamp that is too old
(R385), with the status of a gather. -/
def execRowGet (cmd : Nat) (rows : HostRead) (_ : Unit) (s : State) : Result :=
  match rowCmd s cmd 0 with
  | none => .next s
  | some c =>
    if !s.mgmt then .next s
    else if inputHeld s (field c.desc 16 8) (8 * field c.desc 8 4) then .next (holdInputs s cmd [(field c.desc 16 8, 8 * field c.desc 8 4)])
    else match rowList s c.desc rows with
    | .error r => .next (s.finish cmd r.1 [] r.2)
    | .ok (t, ns) =>
      if (acceptance s c).1 + s.num Ent.tableAgeLimit < s.now then .next (s.refuse cmd St.deadline) else
      let q := lookupRows (touchInput s (field c.desc 16 8) (8 * field c.desc 8 4)) (.cmd cmd) t (acceptance s c).1 ns
      if !q.1 then .next (holdCmd q.2.2.2 cmd)
      else if q.2.1 ≠ St.ok then .next (q.2.2.2.refuse cmd q.2.1)
      else .next ((q.2.2.2.cmdWrite cmd (field c.desc 24 8) q.2.2.1).finish cmd St.ok [] 0)

/-- The rows of a command with their data. -/
def rowData (n : Nat) (rows : List Nat) (b : Bytes) : List (Nat × Bytes) := rows.zip (chunks n (rows.length) b)

/-- R386: within one PUT, the last occurrence of a row number wins. -/
def lastOf (rows : List (Nat × Bytes)) : List (Nat × Bytes) :=
  rows.foldl (fun acc r => (acc.filter fun (x : Nat × Bytes) => x.1 != r.1) ++ [r]) []

/-- ROW_PUT (R387, R388). -/
def execRowPut (cmd : Nat) (rows data : HostRead) (s : State) : Result :=
  match rowCmd s cmd 1 with
  | none => .next s
  | some c =>
    if !s.mgmt then .next s
    else if inputHeld s (field c.desc 16 8) (8 * field c.desc 8 4) then .next (holdInputs s cmd [(field c.desc 16 8, 8 * field c.desc 8 4)])
    else match rowList s c.desc rows with
    | .error r => .next (s.finish cmd r.1 [] r.2)
    | .ok (t, ns) =>
      let s := touchInput s (field c.desc 16 8) (8 * field c.desc 8 4)
      let rb := Table.rowBytes s t
      let d := readInput s (field c.desc 24 8) (ns.length * rb) data
      if inputHeld s (field c.desc 24 8) (ns.length * rb) then .next (holdInputs s cmd [(field c.desc 24 8, ns.length * rb)])
      else
      let s := touchInput s (field c.desc 24 8) (ns.length * rb)
      if d.1 ≠ St.ok then .next (s.refuse cmd d.1)
      else
        let all := lastOf (rowData rb ns d.2)
        let me := s.strand.nodeId
        let mine := all.filter fun r => Table.shoalNode s t r.1 == me
        let nodes := ((all.map fun r => Table.shoalNode s t r.1).eraseDups).filter (· != me)
        let snap := Table.snapshot s t
        let apply := if !snap then s.now else if field c.desc 32 6 = 0 then s.now + s.cfg Ent.swapLeadMin else field c.desc 32 6
        let rc : RowCommand := ⟨cmd, t, true, apply, nodes, nodes, false, false, St.ok⟩
        let s := startCmd s cmd
        let local_ : Option (Nat × State) := if snap then (Table.stage s t apply (Table.putTag s rc) mine).map fun s => (St.ok, s)
          else some (Table.replaceAll s t mine (.cmd cmd))
        match local_ with
        | none => .next (s.refuse cmd St.retry)
        | some (st, s) =>
          let s := { s with tbl := { s.tbl with commands := s.tbl.commands ++ [{ rc with status := st }] } }
          let s := nodes.foldl (fun s n =>
            let rs := all.filter fun r => Table.shoalNode s t r.1 == n
            if unsent s n 6 then Table.noteCmd s.unrouted cmd n St.retry
            else Table.sendPut s n t 0 cmd (apply :: rs.map (·.1)) (rs.map (·.2)) (.rows cmd n)) s
          .next (Table.settleCmd s cmd)

/-- A row update stays here or has a route to its shoal's node. -/
def rowLeaves (s : State) (t row : Nat) : Bool :=
  let n := Table.shoalNode s t row
  n == s.strand.nodeId || !unsent s n 6

/-- R457: the row updates that leave take the next values of the requester sequence. -/
def numberRows (rows : List (Nat × Bytes)) (s : State) : List (Nat × Nat × Bytes) × State :=
  rows.foldl (fun acc r => let q := nextSeq acc.2; (acc.1 ++ [(r.1, q.1, r.2)], q.2)) ([], s)

/-- ROW_UPDATE (R389). -/
def execRowUpdate (cmd : Nat) (rows data : HostRead) (s : State) : Result :=
  match rowCmd s cmd 2 with
  | none => .next s
  | some c =>
    if !s.mgmt then .next s
    else if inputHeld s (field c.desc 16 8) (8 * field c.desc 8 4) then .next (holdInputs s cmd [(field c.desc 16 8, 8 * field c.desc 8 4)])
    else match rowList s c.desc rows with
    | .error r => .next (s.finish cmd r.1 [] r.2)
    | .ok (t, ns) =>
      let s := touchInput s (field c.desc 16 8) (8 * field c.desc 8 4)
      let rb := Table.rowBytes s t
      let d := readInput s (field c.desc 24 8) (ns.length * rb) data
      if inputHeld s (field c.desc 24 8) (ns.length * rb) then .next (holdInputs s cmd [(field c.desc 24 8, ns.length * rb)])
      else
      let s := touchInput s (field c.desc 24 8) (ns.length * rb)
      if d.1 ≠ St.ok then .next (s.refuse cmd d.1)
      else
        let me := s.strand.nodeId
        let given := rowData rb ns d.2
        let nodes := ((given.map fun r => Table.shoalNode s t r.1).eraseDups).filter (· != me)
        let numbered := numberRows (given.filter fun r => rowLeaves s t r.1) (startCmd s cmd)
        let all := numbered.1
        let r := (all.filter fun r => Table.shoalNode s t r.1 == me).foldl (fun (acc : Nat × State) r =>
          let q := Table.accept acc.2 t r.1 me r.2.1 r.2.2 (.cmd cmd)
          (max acc.1 q.1, q.2)) (St.ok, numbered.2)
        let rc : RowCommand := ⟨cmd, t, false, Table.commitTide s, nodes, nodes, false, false, r.1⟩
        let s := { r.2 with tbl := { r.2.tbl with commands := r.2.tbl.commands ++ [rc] } }
        let s := nodes.foldl (fun s n =>
          if unsent s n 6 then Table.noteCmd s.unrouted cmd n St.retry
          else Table.sendSums s n t .updates 0 (all.filter fun r => Table.shoalNode s t r.1 == n) (.rows cmd n)) s
        .next (Table.settleCmd s cmd)

/-- PUT_ANSWER_DEADLINE (R388): boundary C − 1 has come without every answer. -/
def execPutAnswerDeadline (cmd : Nat) (s : State) : Result :=
  match Table.findCmd s cmd with
  | none => .next s
  | some c =>
    if s.mgmt && c.put && Table.snapshot s c.slot && !c.committed && decide (c.apply ≤ s.now + 1) then .next (Table.withdrawPut s c)
    else .next s

/-! Table messages (class 6). -/

/-- TABLE_PUT_ROWS (R388); in row mode the rows are replaced as they arrive (R387). -/
def execTablePutRows (src : Nat) (put : PutRows) (s : State) : Result :=
  if !s.mgmt then .next s
  else if !functionOn s 4 || acquiring s then .next (answerMsg s src 0x0030 St.retry)
  else match Table.find s put.table with
  | none => .next (answerMsg s src 0x0030 St.badJob)
  | some t =>
    let rows := put.rows.map fun r => (r.1, padTo (Table.rowBytes s t) r.2)
    if put.rows.any fun r => Table.shoalNode s t r.1 != s.strand.nodeId then .next (answerMsg s src 0x0030 St.badJob)
    else if Table.snapshot s t then
      if put.apply ≤ s.now then .next (answerMsg s src 0x0030 St.retry)
      else match Table.stage s t put.apply (src, put.tag) rows with
      | none => .next (answerMsg s src 0x0030 St.retry)
      | some s => .next (answerMsg s src 0x0030 St.ok)
    else match deliveredOf s src 0x0030 with
      | none => .next (Table.replaceAll s t rows .nobody).2
      | some d =>
        let r := Table.replaceAll (takeDelivered s d) t rows (.msg d)
        .next (Table.tell r.2 (.msg d) r.1)

/-- TABLE_PUT_COMMIT (R388). -/
def execTablePutCommit (src tag : Nat) (s : State) : Result :=
  if !s.mgmt then .next s
  else
    let known := s.tbl.staged.any fun r => r.put == (src, tag)
    .next (answerMsg (Table.commitStaged s (src, tag)) src 0x0030 (if known then St.ok else St.badJob))

/-- TABLE_PUT_WITHDRAW (R388). -/
def execTablePutWithdraw (src tag : Nat) (s : State) : Result :=
  if s.mgmt then .next (answerMsg (Table.withdraw s (src, tag)) src 0x0030 St.ok) else .next s

/-- The rows of a message of sums or of a storage node's reports. -/
def takeSums (s : State) (src t : Nat) (m : UpdateMsg) (who : Asker) : Nat × State :=
  match m.kind with
  | .updates => m.rows.foldl (fun (acc : Nat × State) q =>
      let a := Table.accept acc.2 t q.1 src q.2.1 q.2.2 who
      (max acc.1 a.1, a.2)) (St.ok, s)
  | .installed => (St.ok, m.rows.foldl (fun s q => Table.installed s t q.1 m.commit q.2.1) s)
  | .migrate => (St.ok, m.rows.foldl (fun s q => Table.beginMigration s t q.2.1 q.1) s)
  | .failed => (St.ok, m.rows.foldl (fun s q => Table.dropMigration s t q.1) s)
  | k => m.rows.foldl (fun (acc : Nat × State) q => match Table.storageTake acc.2 src t k m.commit q with
      | some s => (acc.1, s)
      | none => (St.retry, acc.2)) (St.ok, s)

/-- TABLE_UPDATE_SUMS (R50, R389, R392): updates that wait for a storage node are answered with its answer. -/
def execTableUpdateSums (src : Nat) (sums : UpdateMsg) (s : State) : Result :=
  if !s.mgmt then .next s
  else if !functionOn s 4 || (sums.kind == .updates && acquiring s) then .next (answerMsg s src 0x0031 St.retry)
  else match Table.findServing s sums.table with
  | none => .next (answerMsg s src 0x0031 St.badJob)
  | some t => match deliveredOf s src 0x0031 with
    | none => .next (takeSums s src t sums .nobody).2
    | some d =>
      let r := takeSums (takeDelivered s d) src t sums (.msg d)
      .next (Table.tell r.2 (.msg d) r.1)

/-- TABLE_LOAD_REPORT (R392). -/
def execTableLoadReport (src table load : Nat) (s : State) : Result :=
  if !s.mgmt then .next s
  else if !functionOn s 4 then .next (answerMsg s src 0x0032 St.retry)
  else match Table.find s table with
  | none => .next (answerMsg s src 0x0032 St.badJob)
  | some t =>
    let s := answerMsg s src 0x0032 St.ok
    let s := { s with tbl := { s.tbl with loads := (s.tbl.loads.filter fun x => !(x.1 == t && x.2.1 == src)) ++ [(t, src, load)] } }
    .next (Table.considerSkew s t)

/-! Events. -/

/-- LOAD_PERIOD (R392). -/
def execLoadPeriod (s : State) : Result :=
  let me := s.strand.nodeId
  if !s.mgmt || s.now % max 1 (s.cfg Ent.loadPeriod) != 0 then .next s
  else
    let ts := (List.range 256).filter fun t => Table.state s t == 2 && (Table.shoalNodes s t).contains me
    .next (ts.foldl (fun s t =>
      let l := Table.load s t
      let s := (Table.turnServed s t).setNum (Ent.tableStShoalLoad t) l
      let others := ((Table.shoalNodes s t).eraseDups).filter (· != me)
      let s := others.foldl (fun s n => sendMessage s n 6 (Table.job s t) 0x0032 [Table.id s t, l] [] .load) s
      let s := { s with tbl := { s.tbl with loads := (s.tbl.loads.filter fun x => !(x.1 == t && x.2.1 == me)) ++ [(t, me, l)] } }
      Table.considerSkew s t) s)

/-- MIGRATION_SWITCH (R392 step 5): Current becomes H1's copy of the same version. -/
def execMigrationSwitch (table row : Nat) (s : State) : Result :=
  match Table.find s table with
  | none => .next s
  | some t =>
    match Table.migration s t row with
    | none => .next s
    | some m =>
      let e := Table.entry s t row
      match m.copy, m.switchAt with
      | some p, some w =>
        let same := Table.ptrTide s.now p == Table.ptrTide s.now e.cur
        if s.mgmt && decide (w ≤ s.now) && same then
          let new := e.cur / 2 ^ 50 * 2 ^ 50 + p % 2 ^ 50
          let s := { s with tbl := { s.tbl with migrations := s.tbl.migrations.filter fun x => !(x.slot == t && x.row == row) } }
          let s := if m.target = s.strand.nodeId then Table.forgetStored s t row else s
          .next ((Table.setEntry (Table.retire s t row e.cur) { e with cur := new }).bump (Ent.tableStMigrations t))
        else .next s
      | _, _ => .next s

/-- R391: the rows that a refresh caches: highest count first, lower row number on ties, while they fit. -/
def hotRows (limit rowBytes : Nat) (rows : List LookedRow) : List LookedRow :=
  (sortBy (fun (a b : LookedRow) => decide (b.count < a.count) || (a.count == b.count && decide (a.row < b.row))) rows).take
    (limit / max 1 rowBytes)

/-- The shelf pages of a table's cache: as many of those that CacheBytes takes as are free beside what the table has (R391). -/
def takeCache (s : State) (t : Nat) : Nat × State :=
  let old := (s.tbl.cachePages.lookup t).getD 0
  let n := min ((s.cfg (Ent.tableCacheBytes t) + 65535) / 65536) (Mem.freeShelf s.mem + old)
  let rest := s.tbl.cachePages.filter fun x => x.1 != t
  (n, { s with
    mem := { s.mem with cachePages := s.mem.cachePages - old + n }
    tbl := { s.tbl with cachePages := if n = 0 then rest else rest ++ [(t, n)] } })

/-- HOT_ROW_REFRESH (R391): the rows of the highest counts are read again, those of other nodes over Strand. -/
def execHotRowRefresh (table : Nat) (s : State) : Result :=
  match Table.find s table with
  | none => .next s
  | some t =>
    if !s.mgmt || s.now % max 1 (s.cfg (Ent.tableHotRefreshTides t)) != 0 then .next s
    else
      let p := takeCache s t
      let limit := min (s.cfg (Ent.tableCacheBytes t)) (65536 * p.1)
      let keep := hotRows limit (Table.rowBytes s t) (s.tbl.looked.filter fun x => x.slot == t)
      let s := Table.dropFar p.2 fun u => u == .cache t
      let s := { s with tbl := { s.tbl with
        looked := s.tbl.looked.filter fun x => x.slot != t, hot := s.tbl.hot.filter fun x => x.slot != t } }
      .next (Table.settleCache (keep.foldl (fun s x => Table.beginFar s (.cache t) t x.row s.now) s))

/-- GRANULE_FREE (R384). -/
def execGranuleFree (s : State) : Result :=
  if !s.mgmt then .next s
  else
    let due := s.tbl.freeing.filter fun x => decide (x.2.2 ≤ s.now)
    let s := { s with tbl := { s.tbl with freeing := s.tbl.freeing.filter fun x => !decide (x.2.2 ≤ s.now) } }
    .next (due.foldl (fun s x => Table.release s x.1 x.2.1) s)

/-- FRESH_CLEAR (R384). -/
def execFreshClear (s : State) : Result :=
  let clear (p : Nat) : Nat := if Table.ptrFresh p && decide (Table.ptrTide s.now p + 4096 < s.now) then p - 2 ^ 50 else p
  if s.mgmt then .next { s with tbl := { s.tbl with dirs := s.tbl.dirs.map fun d => { d with cur := clear d.cur, prior := clear d.prior } } }
  else .next s

/-- Return a table slot to Empty: its entries at 0x65tt go back to their defaults. -/
def clearTable (s : State) (t : Nat) : State :=
  let s := clearKeys s fun k => k / 256 == 0x6500 + t || k == Ent.tableStTableState t
  { s with
    mem := { s.mem with cachePages := s.mem.cachePages - (s.tbl.cachePages.lookup t).getD 0 }
    tbl := { s.tbl with
      dirs := s.tbl.dirs.filter fun d => d.slot != t, granules := s.tbl.granules.filter fun g => g.1 != t
      freeing := s.tbl.freeing.filter fun g => g.1 != t, updates := s.tbl.updates.filter fun u => u.slot != t
      staged := s.tbl.staged.filter fun r => r.slot != t, migrations := s.tbl.migrations.filter fun m => m.slot != t
      hot := s.tbl.hot.filter fun h => h.slot != t, looked := s.tbl.looked.filter fun h => h.slot != t
      served := s.tbl.served.filter fun h => h.slot != t, ranked := s.tbl.ranked.filter fun h => h.slot != t
      loads := s.tbl.loads.filter fun h => h.1 != t, far := s.tbl.far.filter fun h => h.slot != t
      asks := s.tbl.asks.filter fun h => h.slot != t, stored := s.tbl.stored.filter fun h => h.1 != t
      ahead := s.tbl.ahead.filter fun h => h.1 != t, bases := s.tbl.bases.filter fun h => h.slot != t
      cachePages := s.tbl.cachePages.filter fun h => h.1 != t
      closings := s.tbl.closings.filter fun c => c.slot != t, openings := s.tbl.openings.filter fun c => c.slot != t } }

/-- TABLE_STORAGE_RELEASE (R381). -/
def execTableStorageRelease (table : Nat) (s : State) : Result :=
  match s.tbl.closings.find? fun c => c.slot == table with
  | none => .next s
  | some c => if s.mgmt && decide (c.boundary + 4096 ≤ s.now) then .next (clearTable s table) else .next s

/-! Operators of a run that use a table. -/

/-- The table that an operator names, as it serves the run's stamp, and what stops the run (R60, R340, R385). -/
def tableFor (s : State) (c : Graph.Ctx) (fmt cols : Nat) : Except Nat Nat :=
  match Table.findAt s (field c.entry 22 4) c.run.stamp with
  | none => .error St.badJob
  | some t =>
    if Table.owner s t ≠ c.run.owner then .error St.accessDenied
    else if fmt ≠ Table.fmt s t ∨ cols ≠ Table.elems s t then .error St.badJob
    else .ok t

/-- R338, R339: a gather reads its rows, or waits for those of other nodes. -/
def gatherEnds (c : Graph.Ctx) (s : State) : Graph.Ended :=
  if field c.entry 22 4 = 0 then .outs (opGather (c.x 0) (c.x 1)) s
  else match tableFor s c (c.od 0).fmt (c.od 0).last with
  | .error st => .stops st {} s
  | .ok t =>
    if c.run.stamp + s.num Ent.tableAgeLimit < s.now then .stops St.deadline {} s
    else
      let ix := (c.x 1).pats.map (ofBits 32)
      let inside (i : Int) : Bool := decide (0 ≤ i) && decide (i < Table.rowCount s t)
      let rows := (ix.filter inside).map (·.toNat)
      if rows.any fun r => !Table.inMap s t r then .stops St.badJob {} s
      else
        let q := lookupRows s (.run c.run.id) t c.run.stamp rows
        let faults : OpCount := { indexFaults := (ix.filter fun i => !inside i).length }
        if !q.1 then .waits q.2.2.2
        else if q.2.1 ≠ St.ok then .stops q.2.1 faults q.2.2.2
        else
          let data := chunks (Table.rowBytes s t) rows.length q.2.2.1
          let out := ix.foldl (fun (acc : Bytes × List Bytes) i =>
            if inside i then (acc.1 ++ acc.2.headD [], acc.2.drop 1) else (acc.1 ++ List.replicate (Table.rowBytes s t) 0, acc.2)) ([], data)
          .outs ⟨[patterns (c.od 0).fmt out.1], faults⟩ q.2.2.2

/-- GATHER (R338, R339): from a tensor, or from a table as of the run's stamp. -/
def execGather (run : Nat) (_ : Unit) (s : State) : Result := .next (Graph.perform s run Op.gather gatherEnds)

/-- R340: a merge update sends its rows to their shoals' nodes and waits for their answers. -/
def mergeEnds (run : Nat) (c : Graph.Ctx) (s : State) : Graph.Ended :=
  match tableFor s c (c.x 0).fmt (c.x 0).last with
  | .error st => .stops st {} s
  | .ok t =>
    let ix := (c.x 1).pats.map (ofBits 32)
    let inside (i : Int) : Bool := decide (0 ≤ i) && decide (i < Table.rowCount s t)
    let ended (s : State) (answer : Nat) : Graph.Ended :=
      let faults := (ix.filter fun i => !inside i).length
      if answer ≠ St.ok then .stops answer { indexFaults := faults } s else .outs ⟨[], { indexFaults := faults }⟩ s
    let waits (s : State) : Bool := (s.strand.outMsgs.any fun m => m.use == .sums run) || Table.awaited s (.run run)
    if c.run.asked then
      if waits s then .waits s else ended s c.run.answer
    else
      let me := s.strand.nodeId
      let given := ((ix.zip (c.x 0).rows).filter fun q => inside q.1).map fun q => (q.1.toNat, packElems (c.x 0).fmt q.2)
      if given.any fun q => !Table.inMap s t q.1 then .stops St.badJob {} s
      else
        let numbered := numberRows (given.filter fun q => rowLeaves s t q.1) s
        let rows := numbered.1
        let r := (rows.filter fun q => Table.shoalNode s t q.1 == me).foldl (fun (acc : Nat × State) q =>
          let a := Table.accept acc.2 t q.1 me q.2.1 q.2.2 (.run run)
          (max acc.1 a.1, a.2)) (St.ok, numbered.2)
        let nodes := ((given.map fun q => Table.shoalNode s t q.1).eraseDups).filter (· != me)
        let away := nodes.filter fun n => !unsent r.2 n 6
        let s := away.foldl (fun s n => Table.sendSums s n t .updates 0 (rows.filter fun q => Table.shoalNode s t q.1 == n) (.sums run)) r.2
        let s := s.bump Ent.unroutableFrames (nodes.length - away.length)
        let st := if away.length < nodes.length then max r.1 St.retry else r.1
        if waits s then .waits (Graph.mapRun s run fun x => { x with asked := true, answer := st }) else ended s st

/-- MERGE_UPDATE (R340). -/
def execMergeUpdate (run : Nat) (s : State) : Result := .next (Graph.perform s run Op.mergeUpdate (mergeEnds run))

end Sys2Proof.Machine
end

