-- ==== Sys2Proof/Machine/CapWrite.lean ====
section
/-! DEFINITION. Writes of Catalogue entries: the checks of R544, R545 and R56 to R58, the ranges of every chapter, the
states in which a write is allowed, and what an accepted write does (R541, R547). -/

namespace Sys2Proof.Machine

open Sys2Proof Sys2Proof.Num

/-- A refusal: its status and its suggested retry Tide. -/
abbrev Refuse := Nat × Nat

/-- R12: of several statuses, the highest. -/
def worstRefusal : List Refuse → Option Refuse
  | [] => none
  | x :: r => match worstRefusal r with
    | none => some x
    | some y => if x.1 < y.1 then some y else some x

def badIf (b : Bool) : List Refuse := if b then [(St.badJob, 0)] else []

/-! Values: types, reserved fields and ranges. -/

/-- Reserved fields of a value are ignored and read back as 0 (R6): the value that a write of `b` leaves. -/
def cleanBytes (k : Nat) (b : Bytes) : Bytes :=
  let i := k / 256
  let sub := k % 256
  let word (m : Nat) (r : Bytes) : Bytes := leBytes 4 (leNat r % m)
  if 0x4300 ≤ i ∧ i < 0x4400 ∧ sub = 1 then (records 4 b).flatMap (word (2 ^ 20))
  else if 0x6500 ≤ i ∧ i < 0x6600 ∧ sub = 8 then (records 4 b).flatMap (word (2 ^ 20))
  else if 0x4100 ≤ i ∧ i < 0x4200 ∧ sub = 0x0D then (records 8 b).flatMap fun r => padTo 8 (r.take 6)
  else if k = Ent.compositionMap then (records 8 b).flatMap fun r => word (2 ^ 20) (r.take 4) ++ leBytes 4 (field r 4 1)
  else if k = Ent.routeExceptions then (records 8 b).flatMap fun r => word (2 ^ 23) (r.take 4) ++ word (2 ^ 20) (r.drop 4)
  else if k = Ent.jobTable then (records 32 b).flatMap fun r => padTo 32 (r.take 2 ++ leBytes 1 (field r 2 1 % 4) ++ (r.drop 3).take 17)
  else if k = Ent.windowTable then
    (records 32 b).flatMap fun r => r.take 2 ++ leBytes 2 (field r 2 1 % 16) ++ leBytes 4 (field r 4 2 % 4096) ++ r.drop 8
  else if 0x7500 ≤ i ∧ i < 0x7506 ∧ sub = 1 then (records 12 b).flatMap fun r => padTo 12 (r.take 9)
  else b

def cleanNum (k v : Nat) : Nat :=
  let i := k / 256
  if 0x4100 ≤ i ∧ i < 0x4200 ∧ k % 256 = 0x0A then v % 4096
  else if 0x6500 ≤ i ∧ i < 0x6600 ∧ k % 256 = 2 then v % 4096
  else if k = Ent.hdmOwnerSlot then v % 4096
  else if k = Ent.nodeId then v % 2 ^ 20
  else if k = Ent.portEnable then v % 64
  else if k = Ent.functionEnable then v % 32
  else v

/-- The value of an entry's type that bytes spell; none where they break the type (R540). -/
def typedVal (e : Entry) (k : Nat) (b : Bytes) : Option Val :=
  match e.typ with
  | .bool => if b.length = 1 ∧ leNat b ≤ 1 then some (.n (leNat b)) else none
  | .u w => if b.length = w then some (.n (cleanNum k (leNat b))) else none
  | .str => if b.length ≤ e.maxLen then some (.b b) else none
  | .dom => if b.length ≤ e.maxLen then some (.b ((cleanBytes k b).take b.length)) else none

/-- R113: a schema record's type and summary mode. -/
def schemaOk (b : Bytes) : Bool :=
  b.length % 8 == 0 && decide (b.length ≤ 256) && (records 8 b).all fun r => decide (field r 4 1 ≤ 8) && decide (field r 5 1 ≤ 2)

/-- R469. -/
def jobRecordOk (r : Bytes) : Bool :=
  let cls := field r 3 1
  (cls == 7 || (decide (9 ≤ cls) && decide (cls ≤ 15))) && decide (field r 4 4 ≤ field r 8 4) && decide (4132 ≤ field r 12 4)
    && decide (4132 ≤ field r 16 4)

/-- A line of a range of Exported pages that memory or a cache holds under another owner slot: a page there carries that slot (R260). -/
def foreignLine (s : State) (owner a n : Nat) : Bool :=
  let here (line : Nat) : Bool := decide (a ≤ line * 64) && decide (line * 64 < a + n)
  let other (t : Option Nat) : Bool := t.any (· != owner)
  (s.mem.tags.any fun t => here t.line && t.owner != owner) || (s.coh.slice.any fun x => here x.line && other x.tag)
    || s.coh.l1.any fun x => here x.line && other x.tag

/-- R449: one window record, its range in Exported pages of its OwnerSlot. A page of which no line has an owner is of the owner slot
that a window gives it (DESIGN CHOICE, notes/assumptions/95.md). -/
def windowRecordOk (s : State) (r : Bytes) : Bool :=
  let base := field r 8 8
  let len := field r 16 8
  let node := field r 24 8
  base % 65536 == 0 && len % 65536 == 0 && node % 65536 == 0 && len != 0 && exportedAddr s node && exportedAddr s (node + len - 1)
    && !foreignLine s (field r 4 2) node len

def windowsApart (a b : Bytes) : Bool :=
  field a 0 2 != field b 0 2 || !overlaps (field a 8 8) (field a 16 8) (field b 8 8) (field b 16 8)

/-- Two windows over one Exported page name one OwnerSlot. -/
def windowsAgree (a b : Bytes) : Bool :=
  field a 4 2 == field b 4 2 || !overlaps (field a 24 8) (field a 16 8) (field b 24 8) (field b 16 8)

def windowsOk (s : State) (b : Bytes) : Bool :=
  let rs := records 32 b
  b.length % 32 == 0 && rs.all (windowRecordOk s) && (List.range rs.length).all fun i => (List.range i).all fun j =>
    windowsApart (rs.getD i []) (rs.getD j []) && windowsAgree (rs.getD i []) (rs.getD j [])

/-- R462, R464. -/
def shaperOk (b : Bytes) : Bool :=
  b.length == 192 && (List.range 16).all fun q =>
    let r := (b.drop (12 * q)).take 12
    decide (4132 ≤ field r 4 4) && (if q < 2 then field r 0 4 == 0 else field r 8 1 != 0)

/-- The range in an entry's Meaning. -/
def inRange (s : State) (e : Entry) (v : Val) : Bool :=
  let n := v.num
  let b := v.bytes
  match e.range with
  | .any => true
  | .nat lo hi => decide (lo ≤ n) && decide (n ≤ hi)
  | .step lo hi from_ by_ => decide (lo ≤ n) && decide (n ≤ hi) && (n - from_) % by_ == 0
  | .oneOf vs => vs.contains n
  | .zeroOr lo hi => n == 0 || (decide (lo ≤ n) && decide (n ≤ hi))
  | .multiple unit greatest => b.length % unit == 0 && decide (b.length ≤ greatest)
  | .exact len => b.length == len
  | .codebook => b.isEmpty || (b.length % 32768 == 0 && decide (65536 ≤ b.length) && decide (b.length ≤ 2097152))
  | .schema => schemaOk b
  | .routes => b.length % 8 == 0 && decide (b.length ≤ 8192) && (records 8 b).all fun r => decide (bits (field r 0 4) 22 20 ≤ 5)
  | .jobs => b.length % 32 == 0 && (records 32 b).all jobRecordOk
  | .windows => windowsOk s b
  | .shapers => shaperOk b

/-- R545: the pairs of entries whose ranges name each other, on the values most recently written. -/
def pairsOk (s : State) : Bool :=
  decide (s.num Ent.upkeepLength ≤ s.num Ent.upkeepPeriod) && decide (s.num Ent.upkeepOffset < s.num Ent.upkeepPeriod)
    && decide (s.num Ent.stackLowMarkPages < s.num Ent.stackHighMarkPages)
    && decide (2 * s.num Ent.gcUrgentBlocks ≤ s.num Ent.gcHighBlocks)
    && decide (s.num Ent.housekeepLength ≤ s.num Ent.housekeepPeriod) && decide (s.num Ent.housekeepOffset < s.num Ent.housekeepPeriod)

def pairKeys : List Nat :=
  [Ent.upkeepLength, Ent.upkeepOffset, Ent.upkeepPeriod, Ent.stackLowMarkPages, Ent.stackHighMarkPages, Ent.gcUrgentBlocks,
   Ent.gcHighBlocks, Ent.housekeepLength, Ent.housekeepOffset, Ent.housekeepPeriod]

/-! Opening a collection or a table (R67, R69, R110, R381, R602). -/

/-- The collection's parameters most recently written: with them the collection opens. -/
def writtenParams (s : State) (c : Nat) : Params :=
  { metric := s.num (Ent.collMetric c), format := s.num (Ent.collFormat c), dim := s.num (Ent.collDimension c)
    pq := s.num (Ent.collPqBytes c), metaBytes := s.num (Ent.collMetadataBytes c), seed := s.num (Ent.collSketchSeed c)
    shoals := s.num (Ent.collShoalCount c), codebook := (s.cat.get (Ent.collCodebook c)).bytes
    schema := (s.cat.get (Ent.collMetadataSchema c)).bytes }

/-- R106, R108: a schema's attributes. -/
def attrOk (metaBytes : Nat) (r : Bytes) : Bool :=
  let len := field r 2 2
  let typ := field r 4 1
  let mode := field r 5 1
  let want := match typ with
    | 0 => [1] | 1 => [2] | 2 => [4] | 3 => [8] | 4 => [4] | 5 => [8] | 6 => [4] | 7 => [8]
    | _ => []
  decide (field r 0 2 + len ≤ metaBytes) && (if typ = 8 then decide (1 ≤ len) && decide (len ≤ 64) else want.contains len)
    && (mode == 0 || (mode == 1 && decide (typ ≤ 6)) || (mode == 2 && typ == 7))

def schemaFits (p : Params) : Bool :=
  (records 8 p.schema).all (attrOk p.metaBytes) && decide (((records 8 p.schema).filter fun r => field r 5 1 != 0).length ≤ 4)

/-- R67. -/
def paramsOk (p : Params) : Bool :=
  let hamming := p.metric == 3
  decide (p.metric ≤ 3)
    && (if hamming then p.format == 5 else decide (p.format ≤ 6) && (p.metric != 2 || decide (p.format ≤ 4)))
    && decide (128 ≤ p.dim) && decide (p.dim ≤ 4096) && p.dim % (if hamming then 64 else 128) == 0
    && (if hamming then [0, 16, 32, 64, 128].contains p.pq && decide (128 + 8 * p.pq ≤ p.dim) else [16, 32, 64, 128].contains p.pq)
    && decide (p.metaBytes ≤ 256) && decide (32 + p.vecBytes + p.metaBytes ≤ 20480)
    && decide (1 ≤ p.shoals) && decide (p.shoals ≤ 65536)
    && (hamming || (p.seed != 0 && p.codebook.length == 512 * p.dim)) && schemaFits p

/-- R69: a map that this node may take: no node twice in one shoal, at most 256 shoals held. -/
def mapOk (s : State) (c : Nat) (map : Bytes) : Bool :=
  ((records 8 map).all fun r => field r 0 4 % 2 ^ 20 != field r 4 4 % 2 ^ 20)
    && decide ((heldShoals s ++ (mapHere s map).map fun (p : Nat × Bool) => (c, p.1)).eraseDups.length ≤ 256)

/-- The shoal map in force at a boundary, a pending apply included. -/
def mapAt (s : State) (k apply : Nat) : Bytes :=
  match pendOf s k with
  | some w => if w.apply ≤ apply then w.val.bytes else s.cfgB k
  | none => s.cfgB k

/-- R110, R359, R602: what refuses a write of 1 to CollectionControl. -/
def openRefusals (s : State) (c apply : Nat) : List Refuse :=
  let p := writtenParams s c
  let map := mapAt s (Ent.collShoalMap c) apply
  badIf (s.collState c != 1 || s.cfg Ent.poolRole != 0 || !paramsOk p || map.length != 8 * p.shoals || !mapOk s c map)
    ++ (if s.slotState (s.num (Ent.collOwnerSlot c) % 4096) = 1 then [] else [(St.accessDenied, 0)])

/-- R381, R602: the same for a table. -/
def tableOpenRefusals (s : State) (t apply : Nat) : List Refuse :=
  let rowBytes := s.num (Ent.tableRowElements t) * widthOf (s.num (Ent.tableRowFormat t)) / 8
  let rows := s.num (Ent.tableRowCount t)
  let shoals := s.num (Ent.tableShoalCount t)
  badIf (Table.state s t != 1 || !([0, 1, 2, 5, 7] : List Nat).contains (s.num (Ent.tableRowFormat t)) || rowBytes == 0 || decide (4096 < rowBytes)
      || rows == 0 || decide (2 ^ 40 < rows) || shoals == 0 || decide (4096 < shoals) || (mapAt s (Ent.tableShoalMap t) apply).length != 4 * shoals)
    ++ (if s.slotState (s.num (Ent.tableOwnerSlot t) % 4096) = 1 then [] else [(St.accessDenied, 0)])

/-- An open of a slot is pending until this Tide. -/
def openPending (s : State) (control : Nat) : Option Nat :=
  match pendOf s control with
  | some w => if w.val.num = 1 then some w.apply else none
  | none => none

/-- R109 to R112: the writes that a collection slot's state allows. -/
def collRefusals (s : State) (c sub : Nat) (isMap : Bool) (v : Val) (apply : Nat) : List Refuse :=
  let st := s.collState c
  if !isMap ∧ sub = 0x0F then (if v.num = 1 then openRefusals s c apply else badIf (st != 1 && st != 2))
  else
    let wait := match openPending s (Ent.collCollectionControl c) with
      | some a => if isMap then [] else [(St.retry, a)]
      | none => []
    let allowed :=
      if isMap then st == 1 || st == 2
      else if sub = 1 then st == 0 || st == 1
      else if sub ≤ 0x0D then st == 1
      else st == 1 || st == 2
    let map := isMap && st == 2 && (v.bytes.length != 8 * s.num (Ent.collShoalCount c) || !mapOk s c v.bytes)
    badIf (!allowed || map) ++ wait

/-- R381: the writes that a table slot's state allows. -/
def tableRefusals (s : State) (t sub : Nat) (v : Val) (apply : Nat) : List Refuse :=
  let st := Table.state s t
  if sub = 0x0F then (if v.num = 1 then tableOpenRefusals s t apply else badIf (st != 1 && st != 2))
  else
    let wait := match openPending s (Ent.tableTableControl t) with
      | some a => [(St.retry, a)]
      | none => []
    let allowed :=
      if sub = 1 then st == 0 || st == 1
      else if sub ≤ 8 ∨ sub = 0x0D then st == 1
      else st == 1 || st == 2
    badIf (!allowed) ++ wait

/-! Other writes that depend on the node's state. -/

def stateRefusals (s : State) (k : Nat) (v : Val) (apply : Nat) : List Refuse :=
  let i := k / 256
  if 0x4100 ≤ i ∧ i < 0x4200 then collRefusals s (i - 0x4100) (k % 256) false v apply
  else if 0x4300 ≤ i ∧ i < 0x4400 then collRefusals s (i - 0x4300) (k % 256) true v apply
  else if 0x6500 ≤ i ∧ i < 0x6600 then tableRefusals s (i - 0x6500) (k % 256) v apply
  else if k = Ent.faultKeys then badIf (!(s.cat.get Ent.faultKeys).bytes.isEmpty || !keySetOk v.bytes)
  else if k = Ent.hdmBytes then badIf (decide (Flash.capacity s.flash < (Flash.mappedNow s.flash).length + v.num / 4096))
  else if k = Ent.hopLimit then badIf (decide (v.num ≤ (List.range 3).foldl (fun n d => n + s.strand.size d / 2) 0))
  else if k = Ent.hdmPinRanges then badIf (decide (s.num Ent.pinnedMaxPages < pinnedWith s v.bytes))
  else if pairKeys.contains k then badIf (!pairsOk (s.setVal k v))
  else []

/-- R55, R56, R58: what the apply Tide and the pending entries refuse. -/
def twRefusals (s : State) (k apply : Nat) : List Refuse :=
  let lead := s.cfg Ent.twLeadMin
  if s.tide.state = .acquiring then [(St.retry, 0)]
  else if s.tide.state = .adrift then [(St.retry, s.now + 64)]
  else if apply < s.now + lead then [(St.retry, s.now + lead)]
  else if s.now + 2 ^ 24 < apply then [(St.retry, apply - 2 ^ 24)]
  else if (pendOf s k).isNone && decide (256 ≤ s.cat.tw.length) then
    [(St.retry, (s.cat.tw.map (·.apply)).min?.getD 0)]
  else []

/-! Accepted writes. -/

/-- R60: keep the value that governs work stamped before `a`, where the entry is not time-governed. -/
def noteHistory (s : State) (e : Entry) (k a : Nat) (old : Val) : State :=
  if e.timed then s else { s with cat := { s.cat with history := s.cat.history ++ [(⟨k, a, old⟩ : History)] } }

/-- R541: store an RW value; the value in force waits for its moment. -/
def storeRw (s : State) (e : Entry) (k : Nat) (v : Val) : State :=
  let old := s.cat.inForce k
  let waits := s.cat.waiting.any fun w => w.key == k
  let s := s.setVal k v
  let s := if e.moment = .once ∨ waits then s
    else { s with cat := { s.cat with waiting := s.cat.waiting ++ [(⟨k, old, e.moment, s.now⟩ : InForce)] } }
  if e.cls = .p then persist s k v else s

/-- R109, R381: a slot's ID takes effect at once: state 1 Defined, or Empty with every entry at its default. -/
def idWritten (s : State) (k v : Nat) : State :=
  let i := k / 256
  if 0x4100 ≤ i ∧ i < 0x4200 then
    let c := i - 0x4100
    if v = 0 then clearSlot s c else s.setNum (Ent.collStCollectionState c) 1
  else
    let t := i - 0x6500
    if v = 0 then clearTable s t else s.setNum (Ent.tableStTableState t) 1

def isSlotId (k : Nat) : Bool :=
  k % 256 == 1 && ((decide (0x4100 ≤ k / 256) && decide (k / 256 < 0x4200)) || (decide (0x6500 ≤ k / 256) && decide (k / 256 < 0x6600)))

/-- Discard a session's staged segments. -/
def dropStaged (s : State) (w : Who) (id : Nat) : State :=
  let fix (x : Session) : Session := if x.who == w && x.id == id then { x with staged := none } else x
  { s with cap := { s.cap with sessions := s.cap.sessions.map fix } }

/-- R561, R614: the lock is released: its holder's staged segments go, and an image being received. -/
def releaseLock (s : State) : State :=
  match s.cap.lock with
  | none => s
  | some (w, id, _) =>
    let s := dropStaged { s with cap := { s.cap with lock := none } } w id
    match s.sec.rx with
    | some r => if r.verifying || r.writing then s
      else { s with sec := { s.sec with rx := none } }.setNum Ent.firmwareUpdateState 0
    | none => s

/-- What an RW write does beside storing its value. -/
def rwEffect (s : State) (k : Nat) (v : Val) : State :=
  if isSlotId k then idWritten s k v.num
  else if k = Ent.fieldWriteEnable ∧ v.num = 0 then
    match s.cap.lock with
    | some (.field _, _, _) => releaseLock s
    | _ => s
  else if k = Ent.faultKeys then s.setNum Ent.quorumNeeded (field v.bytes 0 1)
  else s

/-- R58: hold a TW value until its apply Tide. -/
def storeTw (s : State) (k : Nat) (v : Val) (apply : Nat) : State :=
  { s with cat := { s.cat with tw := (s.cat.tw.filter fun w => w.key != k) ++ [(⟨k, v, apply⟩ : TwPend)] } }

/-! Write-only entries. -/

/-- A unit of the table of unit kinds that has a test. -/
def testable (u : Nat) : Bool :=
  let i := unitInst u
  match unitKind u with
  | 1 => decide (i < 512)
  | 2 => decide (i < 32)
  | 3 => decide (i < 2048)
  | 4 => decide (i < 65536)
  | 5 => decide (i < 4096)
  | 6 => decide (i < 16384)
  | 7 => decide (i < 4096)
  | 8 => decide (i / 16 < 6) && decide (i % 16 < 9)
  | 9 => decide (i / 256 < 32)
  | 10 => decide (i < 16384)
  | _ => false

/-- SelfTestRequest (0xF000.01). -/
def writeSelfTest (s : State) (u : Nat) : Nat × Nat × State :=
  if s.rel.tests.any fun t => t.unit == u then (St.retry, s.now + 1, s)
  else if !testable u then (St.badJob, 0, s)
  else
    let s := startTest s u 0 [] true false
    (St.ok, 0, (s.bump Ent.selfTestsRequested).logEvent 0x30 Oc.info St.ok 0 nodeUnit u)

/-- A BlockId of the table "ResetRequest". -/
def blockExists (b : Nat) : Bool :=
  let i := b % 2 ^ 24
  match b / 2 ^ 24 with
  | 1 => decide (i < 512)
  | 2 => decide (i < 32)
  | 3 => decide (i < 4096)
  | 4 => decide (i < 32)
  | 5 => decide (i < 6)
  | _ => false

def l2Domains : List Nat := [3, 4, 7, 8, 9]

/-- R621: the fused level of a source. -/
def fusedLevel (s : State) (source : Nat) : Nat := ((s.cfgB Ent.resetLevelMap).getD (source - 1) 0).toNat

/-- R627: a ResetRequest write on a path. -/
def writeReset (s : State) (path : Path) (b : Bytes) : Nat × Nat × State :=
  let level := field b 0 1
  let domain := field b 1 1
  let block := field b 4 4
  let source := match path with
    | .strand _ _ => 5
    | _ => 6
  let bad := decide (3 < level) || (level == 2 && !l2Domains.contains domain) || (level == 3 && !blockExists block)
  let refusals := badIf bad ++ (if level < fusedLevel s source then [(St.accessDenied, 0)] else [])
    ++ (if level = 3 ∧ !s.rst.quiesced.contains block then [(St.retry, s.now + 1)] else [])
  match worstRefusal refusals with
  | some r => (r.1, r.2, s)
  | none =>
    let who := match path with
      | .strand src _ => src % 2 ^ 20
      | _ => 0
    let cause : Cause := ⟨source, level, if level = 2 then domain else 0, if level = 3 then block else 0, who, s.now⟩
    let deeper := match s.rst.requested with
      | none => true
      | some o => decide (level < o.level) || (level == o.level && decide (source < o.source))
    if deeper then (St.ok, 0, { s with rst := { s.rst with requested := some cause } })
    else (St.ok, 0, s)

/-- R628: a BlockQuiesce write. -/
def writeQuiesce (s : State) (b : Nat) : Nat × Nat × State :=
  let l := s.rst.quiesceNext ++ s.rst.quiescing ++ s.rst.quiesced
  if l.contains b then (St.ok, 0, s)
  else if 64 ≤ l.length then (St.retry, s.now + 1, s)
  else if !blockExists b then (St.badJob, 0, s)
  else (St.ok, 0, { s with rst := { s.rst with quiesceNext := s.rst.quiesceNext ++ [b] } })

/-- A write of a WO entry: its status, suggested Tide and effect. -/
def writeOnly (s : State) (path : Path) (k : Nat) (b : Bytes) : Nat × Nat × State :=
  if k = Ent.keyCommand then keyCommand s b
  else if k = Ent.resetRequest then (if b.length = 8 then writeReset s path b else (St.badJob, 0, s))
  else if k = Ent.blockQuiesce then (if b.length = 4 then writeQuiesce s (leNat b) else (St.badJob, 0, s))
  else if b.length = 4 then writeSelfTest s (leNat b)
  else (St.badJob, 0, s)

/-- R547: before FlashReady, writes to P entries are refused. -/
def notReady (s : State) (e : Entry) : List Refuse := if e.cls = .p ∧ s.num Ent.flashReady = 0 then [(St.retry, s.now + 1)] else []

/-- R544: every refusal of a write of a value to an RW or TW entry. -/
def valueRefusals (s : State) (e : Entry) (k : Nat) (b : Bytes) (apply : Nat) : List Refuse :=
  (match typedVal e k b with
    | none => [(St.badJob, 0)]
    | some v => badIf (!inRange s e v))
    ++ stateRefusals s k ((typedVal e k b).getD (.b [])) apply
    ++ (if e.acc = .tw then twRefusals s k apply else [])
    ++ notReady s e

/-- A whole value written to an entry: status, suggested Tide, state. -/
def writeEntry (s : State) (path : Path) (i sub typeCode apply : Nat) (b : Bytes) : Nat × Nat × State :=
  let k := i * 256 + sub
  match entryAt i sub with
  | none => (St.badJob, 0, s)
  | some e =>
    let wrong := badIf (typeCode != e.typ.code)
    match e.acc with
    | .const => readOnly (wrong ++ badIf (typedVal e k b).isNone ++ notReady s e)
    | .ro => readOnly (wrong ++ badIf (typedVal e k b).isNone ++ notReady s e)
    | .wo =>
      let r := writeOnly s path k b
      if wrong.isEmpty then r else if r.1 = St.retry then (r.1, r.2.1, s) else (St.badJob, 0, s)
    | .rw =>
      match worstRefusal (wrong ++ valueRefusals s e k b apply), typedVal e k b with
      | none, some v => (St.ok, 0, rwEffect (storeRw s e k v) k v)
      | some r, _ => (r.1, r.2, s)
      | none, none => (St.badJob, 0, s)
    | .tw =>
      match worstRefusal (wrong ++ valueRefusals s e k b apply), typedVal e k b with
      | none, some v => (St.ok, 0, storeTw s k v apply)
      | some r, _ => (r.1, r.2, s)
      | none, none => (St.badJob, 0, s)
where
  readOnly (l : List Refuse) : Nat × Nat × State :=
    let r := (worstRefusal l).getD (St.accessDenied, 0)
    (r.1, r.2, s)

end Sys2Proof.Machine
end

