-- ==== Sys2Proof/Machine/Apply.lean ====
section
/-! DEFINITION. TW applies: what a value does at its apply boundary, in groups by apply Tide (R55 to R60, R110 to R112, R381,
R630, R633, R635). -/

namespace Sys2Proof.Machine

open Sys2Proof

/-! What an applied value does beside coming into force. -/

/-- R110: the collection opens with empty trees for the shoals that its map gives this node. -/
def openColl (s : State) (c a : Nat) : State :=
  let s := s.setNum (Ent.collStCollectionState c) 2
  let s := { s with idx := { s.idx with openings := s.idx.openings ++ [⟨c, a⟩] } }
  (mapHere s (s.cfgB (Ent.collShoalMap c))).foldl (fun s p => newCopy (dropCopy s c p.1) c p.1 p.2 .serving) s

/-- R110, R111: CollectionControl. -/
def applyControl (s : State) (c v a : Nat) : State :=
  let st := s.collState c
  if v = 1 then (if st = 1 then openColl s c a else s)
  else if st = 1 then clearSlot s c
  else if st = 2 then
    let s := s.setNum (Ent.collStCollectionState c) 3
    { s with idx := { s.idx with closings := s.idx.closings ++ [(⟨c, a⟩ : Closing)] } }
  else s

/-- R112: a map of an Open collection: new shoals fill, lost ones are kept until the low-water stamp has passed `a`. -/
def applyMap (s : State) (c a : Nat) : State :=
  if s.collState c ≠ 2 then s
  else
    let mine := mapHere s (s.cfgB (Ent.collShoalMap c))
    let held := s.idx.copies.filter fun p => p.coll == c
    let fix (q : ShoalCopy) : ShoalCopy :=
      if q.coll ≠ c then q
      else match mine.lookup q.shoal with
        | none => { q with releaseAt := some (q.releaseAt.getD a) }
        | some role => if q.releaseAt.isNone then { q with replica := role } else q
    let s := { s with idx := { s.idx with copies := s.idx.copies.map fix } }
    let fresh := mine.filter fun m => !held.any fun p => p.shoal == m.1 && p.releaseAt.isNone
    fresh.foldl (fun s m => startFill s c m.1 m.2) s

/-- R381: TableControl follows CollectionControl. -/
def applyTableControl (s : State) (t v a : Nat) : State :=
  let st := Table.state s t
  if v = 1 then (if st = 1 then
    { s with tbl := { s.tbl with openings := s.tbl.openings ++ [(⟨t, a⟩ : TableClosing)] } }.setNum (Ent.tableStTableState t) 2 else s)
  else if st = 1 then clearTable s t
  else if st = 2 then
    let s := s.setNum (Ent.tableStTableState t) 3
    { s with tbl := { s.tbl with closings := s.tbl.closings ++ [(⟨t, a⟩ : TableClosing)] } }
  else s

/-- R630: bits that FunctionEnable clears drain from the apply boundary; a bit set again stops its drain. -/
def applyFunctions (s : State) (old new a : Nat) : State :=
  let cleared := (List.range 5).filter fun b => bit old b && !bit new b
  let keep := s.rst.drains.filter fun d => !bit new d.bit
  { s with rst := { s.rst with drains := keep ++ cleared.map fun b => (⟨b, a⟩ : Drain) } }

/-- R633, R635: PowerStateRequest. -/
def applyPower (s : State) (v a : Nat) : State :=
  if v = 2 then
    if s.rst.powerState = 0 then { s with rst := { s.rst with powerState := 1, neapFrom := a } } else s
  else leaveNeap s 1

/-- What the applied value of a key does. -/
def applyEffect (s : State) (k a : Nat) (old new : Val) : State :=
  let i := k / 256
  if 0x4100 ≤ i ∧ i < 0x4200 then applyControl s (i - 0x4100) new.num a
  else if 0x4300 ≤ i ∧ i < 0x4400 then applyMap s (i - 0x4300) a
  else if 0x6500 ≤ i ∧ i < 0x6600 then (if k % 256 = 0x0F then applyTableControl s (i - 0x6500) new.num a else s)
  else if k = Ent.functionEnable then applyFunctions s old.num new.num a
  else if k = Ent.powerStateRequest then applyPower s new.num a
  else if k = Ent.jobTable then refillMeters old.bytes new.bytes s
  else if 0x7500 ≤ i ∧ i < 0x7506 then mapPort s (i - 0x7500) fun x => { x with buckets := fullBuckets s (i - 0x7500) }
  else s

/-- One applied value comes into force (R59, R60, R547). -/
def applyValue (s : State) (w : TwPend) : State :=
  match findEntry w.key with
  | none => s
  | some e =>
    let s := (noteHistory s e w.key w.apply (s.cat.inForce w.key)).setVal w.key w.val
    if e.cls = .p then persist s w.key w.val else s

/-- What a group of applied values does, once all of them are in force. -/
def applyEffects (old : CatUnit) (due : List TwPend) (s : State) : State :=
  due.foldl (fun s w => if (findEntry w.key).isSome then applyEffect s w.key w.apply (old.inForce w.key) w.val else s) s

/-- Pending applies in ascending index and subindex. -/
def byKey (l : List TwPend) : List TwPend := l.mergeSort fun a b => decide (a.key ≤ b.key)

/-- R59: the applies of one apply Tide, together, and one generation more. -/
def applyGroup (s : State) (a : Nat) : State :=
  let due := byKey (s.cat.tw.filter fun w => w.apply == a)
  if due.isEmpty then s
  else
    let s' := { s with cat := { s.cat with tw := s.cat.tw.filter fun w => w.apply != a } }
    (applyEffects s.cat due (due.foldl applyValue s')).bump Ent.configGeneration

/-- The apply Tides that have come, ascending. -/
def dueTides (s : State) : List Nat :=
  (((s.cat.tw.map (·.apply)).filter fun a => decide (a ≤ s.now)).eraseDups).mergeSort fun a b => decide (a ≤ b)

/-- R60: every apply that has come, in groups by apply Tide. -/
def applyDue (s : State) : State := (dueTides s).foldl applyGroup s

/-- R55: the applies of a boundary that an Adrift node made are discarded; those that fell due before, in a reset of the
management domain, still wait for its release. -/
def discardDue (s : State) : State :=
  let n := (s.cat.tw.filter fun w => w.apply == s.now).length
  if n = 0 then s else ({ s with cat := { s.cat with tw := s.cat.tw.filter fun w => w.apply != s.now } }).bump Ent.twMissed n

/-- Step 2 of R61, which the row TW_APPLY repeats: nothing is left of it once the boundary has made it. An apply waits for
the management domain (R60); it needs a count (R56). -/
def makeApplies (s : State) : State :=
  if !s.hasCount then s
  else if s.tide.state = .adrift then discardDue s
  else if s.mgmt then applyDue s
  else s

/-- R541: the RW values that wait for a boundary and are `due` come into force as of Tide `a`; work stamped earlier keeps the old ones
(R60). -/
def comeDue (s : State) (a : Nat) (due : InForce → Bool) : State :=
  let takes (w : InForce) : Bool := w.moment == .boundary && due w
  let s' := { s with cat := { s.cat with waiting := s.cat.waiting.filter fun w => !takes w } }
  (s.cat.waiting.filter takes).foldl (fun s w => match findEntry w.key with
    | some e => noteHistory s e w.key a w.val
    | none => s) s'

/-- R541: at a boundary every RW value that waits for one. -/
def writesInForce (s : State) : State := comeDue s s.now fun _ => true

/-- R60: at the management domain's release, the applies and the RW values whose boundaries have passed, in ascending order of their
Tides, the applies of each first. -/
def makeOverdue (s : State) : State :=
  let rw := ((s.cat.waiting.filter fun w => w.moment == .boundary).map fun w => w.tide + 1).filter fun a => decide (a ≤ s.now)
  ((dueTides s ++ rw).eraseDups.mergeSort fun a b => decide (a ≤ b)).foldl (fun s a =>
    comeDue (applyGroup s a) a fun w => decide (w.tide < a)) s

/-- History that no stamp in use can ask for is dropped: no work starts with a stamp older than 4,096 Tides (R33). -/
def pruneHistory (s : State) : State :=
  let oldest := ((s.gph.runs.map (·.stamp)).foldl min (lowWater s)) - 4096
  { s with cat := { s.cat with history := s.cat.history.filter fun h => decide (oldest < h.tide) } }

/-- R551, R552: the digests of a boundary are over the values of this moment; Digest.lean computes them when they are read. -/
def publishDigests (s : State) : State :=
  { s with cat := { s.cat with published := some ⟨s.now, s.cat.vals, s.cat.waiting⟩ } }

/-- TW_APPLY (R59). -/
def execTwApply (s : State) : Result := .next (makeApplies s)

end Sys2Proof.Machine
end

