-- ==== Sys2Proof/Machine/CoherenceRows.lean ====
section
/-! DEFINITION. The commands of the caches and home slices (12_coherence.md). A line is named by its line number, the node
physical address div 64. -/

namespace Sys2Proof.Machine

open Sys2Proof

/-- A request of an agent for a line, where the clusters and their slices run. -/
def request (s : State) (q : CohReq) : Result :=
  if !validAddr (q.line * 64) then .fault (.noMemory (q.line * 64))
  else if !s.up 7 || !coreServes s q.core then .next s
  else .next (Coh.arrive (if q.core < 512 then s.wakeCluster (q.core / 16) else s) q)

def plainReq (kind : CohKind) (core owner line : Nat) : CohReq := ⟨kind, core, owner, line, 0, [], 0, [], false⟩

/-- CACHE_READ (R403). -/
def execCacheRead (core owner line : Nat) (s : State) : Result := request s (plainReq .read core (owner % 4096) line)

/-- READ_OWN (R402): a store of `data` at byte `off` of a line that the core does not hold. -/
def execReadOwn (core owner line off : Nat) (data : Bytes) (s : State) : Result :=
  request s { plainReq .readOwn core (owner % 4096) line with off := off % 64, data := data.take (64 - off % 64) }

/-- UPGRADE (R402): a store to a line held in S, F or O; a core that holds it in E or M stores in place. -/
def execUpgrade (core owner line off : Nat) (data : Bytes) (s : State) : Result :=
  let q : CohReq := { plainReq .upgrade core (owner % 4096) line with off := off % 64, data := data.take (64 - off % 64) }
  match Coh.l1 s.coh core line with
  | some x =>
    if (x.st = .e ∨ x.st = .m) ∧ s.up 7 ∧ coreServes s core ∧ Coh.writeCheck s (owner % 4096) line false = St.ok then
      let fix (y : L1Line) : L1Line := if y.core = core ∧ y.line = line then
        { y with st := .m, data := Coh.stored (y.data, y.tag) q.off q.data, tag := some (owner % 4096) } else y
      let s := { s with coh := { s.coh with l1 := s.coh.l1.map fix, slice := s.coh.slice.filter fun y => y.line != line } }
      .next (Coh.endReq (touchAddr s (line * 64)) q St.ok [])
    else request s q
  | none => request s q

/-- WRITE_LINE (R402). -/
def execWriteLine (owner line : Nat) (data : Bytes) (s : State) : Result :=
  request s { plainReq .writeLine 512 (owner % 4096) line with data := padTo 64 data }

/-- READ_ONCE (R402). -/
def execReadOnce (owner line : Nat) (s : State) : Result := request s (plainReq .readOnce 512 (owner % 4096) line)

/-- WRITEBACK (R401): an L1 evicts a line in M or O; `lost` where its copy is found uncorrectable (R405). -/
def execWriteback (core line : Nat) (lost : Bool) (s : State) : Result :=
  match Coh.l1 s.coh core line with
  | none => .next s
  | some x =>
    if !s.up 7 || !(x.st == .m || x.st == .o) then .next s
    else if lost then .next (loseLine s line)
    else .next (Coh.leaveL1 s x)

/-- EVICTION_NOTICE (R401): an L1 evicts a line in E or F. -/
def execEvictionNotice (core line : Nat) (s : State) : Result :=
  match Coh.l1 s.coh core line with
  | none => .next s
  | some x => if s.up 7 && (x.st == .e || x.st == .f) then .next (Coh.leaveL1 s x) else .next s

/-- The table "Atomic operations": an operation with its width at a natural alignment. -/
def cohAtomicOk (addr op : Nat) (operand expected : Bytes) : Bool :=
  let w := operand.length
  (w == 4 || w == 8 || (w == 16 && decide (op ≤ 1))) && decide (op ≤ 7) && addr % w == 0 && (op != 1 || expected.length == w)

/-- CACHE_ATOMIC (R408): an atomic of an agent of the node, at the home slice. One that the table does not list ends with
BAD_JOB and changes nothing (DEDUCED from R458, notes/assumptions/33.md). -/
def execCacheAtomic (owner addr op : Nat) (operand expected : Bytes) (s : State) : Result :=
  let q : CohReq := { plainReq .atomic 512 (owner % 4096) (lineOf addr) with off := addr % 64, data := operand, op := op, expected := expected }
  if cohAtomicOk addr op operand expected then request s q else if s.up 7 then .next (Coh.endReq s q St.badJob []) else .next s

/-- INVALIDATION_ACK (R402). -/
def execInvalidationAck (core line : Nat) (s : State) : Result := if s.up 7 then .next (Coh.acknowledge s core line) else .next s

/-- The cached lines of a range of whole lines. -/
def cachedIn (s : State) (first n : Nat) : List Nat :=
  ((s.coh.l1.map (·.line)) ++ s.coh.slice.map (·.line)).eraseDups.filter fun l => first ≤ l && l < first + n

/-- FIRMWARE_WRITEBACK (R418). -/
def execFirmwareWriteback (addr lines : Nat) (s : State) : Result :=
  if !validRange (addr / 64 * 64) (64 * lines) then .fault (.noMemory addr)
  else if !s.up 7 then .next s
  else .next (((cachedIn s (addr / 64) lines).foldl Coh.clean s).bump Ent.writebackOps)

/-- FIRMWARE_INVALIDATE (R418). -/
def execFirmwareInvalidate (addr lines : Nat) (s : State) : Result :=
  if !validRange (addr / 64 * 64) (64 * lines) then .fault (.noMemory addr)
  else if !s.up 7 then .next s
  else .next ((cachedIn s (addr / 64) lines).foldl Coh.flush s)

/-- FIRMWARE_FENCE (R417): every request that waits at a home slice takes effect before what is issued after the fence; their
acknowledgements come now (DESIGN CHOICE, notes/assumptions/92.md). -/
def execFirmwareFence (s : State) : Result := .next (Coh.settleLines s fun _ => true)

/-! Host memory lines and host copies. -/

/-- HOST_SNOOP (R416): SnpData leaves a shared copy, SnpInv none, SnpCur what there was; modified data moves to the host
(PRESUMED from CXL 3.1, notes/assumptions/34.md). States: 0 Shared, 1 Exclusive, 2 Modified. -/
def execHostSnoop (line : Nat) (snoop : Snoop) (s : State) : Result :=
  if !s.host.linkUp then .next s
  else match s.coh.hostLines.find? fun x => x.1 == line with
  | none => .next (s.emit (.snoop line false []))
  | some x =>
    let rest := s.coh.hostLines.filter fun y => y.1 != line
    let data := if x.2.1 = 2 then x.2.2 else []
    let now : List (Nat × Nat × Bytes) := match snoop with
      | .data => rest ++ [(line, 0, x.2.2)]
      | .inv => rest
      | .cur => s.coh.hostLines
    .next ({ s with coh := { s.coh with hostLines := now } }.emit (.snoop line true data))

/-- BISNP_RESPONSE (R410, R527): the host has given up its copy: the node's write is granted, and the next waiting
back-invalidation goes out. -/
def execBisnpResponse (line : Nat) (s : State) : Result :=
  match (s.host.bisnp.take 64).find? fun b => b.line == line with
  | none => .next s
  | some b =>
    if !s.host.linkUp then .next s
    else
      let s := sendZeroing (bisnpEnded s b)
      .next (match b.grants with
        | some n => Coh.acknowledge s Coh.hostAgent n
        | none => if b.zeroing then (if zeroing s then s else serveHeld s) else sendLate (hdmStore s (line * 64 + b.off) b.data))

end Sys2Proof.Machine
end

