-- ==== Sys2Proof/Machine/Image.lean ====
section
/-! DEFINITION. Firmware images: their checks (R608) and transfers (R532, R611 to R614). -/

namespace Sys2Proof.Machine

open Sys2Proof

/-! The image (the table "Firmware image header"). -/

def imageKey (b : Bytes) : Nat := field b 6 1
def imageSecurity (b : Bytes) : Nat := field b 7 1
def imageVersion (b : Bytes) : Nat := field b 8 4
def imageRaises (b : Bytes) : Bool := bit (field b 12 1) 0

/-- The image has the length that its header names and names a key, so that its signature can be found. -/
def imageSized (b : Bytes) : Bool :=
  field b 16 8 == b.length && decide (65536 ≤ b.length) && decide (b.length ≤ 33554432) && b.length % 64 == 0 && decide (imageKey b ≤ 3)

/-- R608: the header's other fields. -/
def firmwareHeaderOk (s : State) (b : Bytes) : Bool :=
  field b 0 4 == 0x3157464C && field b 4 2 == 1 && decide (imageSecurity b ≤ 63) && decide (field b 12 1 < 2) && field b 13 3 == 0
    && ((b.drop 24).take 104).all (· == 0) && decide (s.num Ent.securityFloor ≤ imageSecurity b)

/-- R608: the key is revoked, or the signature fails. -/
def firmwareSignatureBad (s : State) (b : Bytes) : Bool :=
  bit (s.num Ent.firmwareKeyRevoked) (imageKey b)
    || !rsaVerify (Config.firmwareKeyModulus (imageKey b)) (b.take (b.length - 512)) (b.drop (b.length - 512))

/-- R608: OK, BAD_IMAGE or BAD_SIGNATURE. -/
def firmwareVerdict (s : State) (b : Bytes) : Nat :=
  if !imageSized b then St.badImage
  else if firmwareSignatureBad s b then St.badSignature
  else if !firmwareHeaderOk s b then St.badImage
  else St.ok

/-! Transfers (R532, R613, R614). -/

def setRx (s : State) (r : Option ImageRx) (st : Nat) : State := { s with sec := { s.sec with rx := r } }.setNum Ent.firmwareUpdateState st

/-- An image is being verified or written. -/
def imageBusy (s : State) : Bool := match s.sec.rx with
  | some r => r.verifying || r.writing
  | none => false

/-- R613: start. -/
def imageBegin (s : State) : Nat × Nat × State :=
  if imageBusy s then (St.retry, s.now + 1, s) else (St.ok, 0, setRx s (some ⟨none, [], false, false, none⟩) 1)

/-- R532: data in ascending contiguous offsets; anything else discards the transfer. -/
def imageAppend (s : State) (offset : Nat) (data : Bytes) : Nat × State :=
  if imageBusy s then (St.badImage, s)
  else
    match s.sec.rx with
    | none => (St.badImage, s)
    | some r =>
      if offset = r.bytes.length then (St.ok, { s with sec := { s.sec with rx := some { r with bytes := r.bytes ++ data } } })
      else (St.badImage, setRx s none 0)

/-- R613: the end action starts verification; its answer comes when the image has been refused or written. -/
def imageClose (s : State) (req : Option CapReq) : Option Nat × State :=
  if imageBusy s then (some St.badImage, s)
  else
    match s.sec.rx with
    | none => (some St.badImage, s)
    | some r =>
      let s := setRx s (some { r with req := req, verifying := true }) 2
      let s := (s.setNum Ent.stagedImageDigest (digest64 r.bytes)).setNum Ent.stagedFirmwareVersion (imageVersion r.bytes)
      (none, s.setNum Ent.stagedSecurityVersion (imageSecurity r.bytes))

/-- One transfer input (R532), of at most 4,080 bytes of image data: its status, none where the answer waits, the suggested Tide, the state. -/
def imageInput (s : State) (req : Option CapReq) (b : Bytes) : Option Nat × Nat × State :=
  if b.length < 16 ∨ 4096 < b.length then (some St.badImage, 0, s)
  else
    match field b 0 1 with
    | 0 => let r := imageBegin s; (some r.1, r.2.1, r.2.2)
    | 1 => let r := imageAppend s (field b 8 8) (b.drop 16); (some r.1, 0, r.2)
    | 2 => let r := imageClose s req; (r.1, 0, r.2)
    | _ => (some St.badImage, 0, s)

end Sys2Proof.Machine
end

