-- ==== Sys2Proof/Machine/Cap.lean ====
section
/-! DEFINITION. The Catalogue Access Protocol: sessions, segments, snapshots, the write lock, the operations, malformed
requests (R554 to R565, R659), recovery (R611), Provenance records (R615, R616). -/

namespace Sys2Proof

/-! Sessions (R556). -/

/-- The session of a request: the mailbox is one session. -/
def CapReq.who (r : CapReq) : Machine.Who := match r.path with
  | .field mac _ => .field mac
  | .mailbox => .mailbox
  | .strand src _ => .strand src

def CapReq.sid (r : CapReq) : Nat := match r.path with
  | .mailbox => 0
  | _ => r.session

def CapReq.onField (r : CapReq) : Bool := match r.path with
  | .field _ _ => true
  | _ => false

def CapReq.onStrand (r : CapReq) : Bool := match r.path with
  | .strand _ _ => true
  | _ => false

def CapReq.broadcast (r : CapReq) : Bool := match r.path with
  | .field _ b => b
  | _ => false


/-- A mirrored request without the bytes that pad its message to a multiple of 4 (R435, R565). -/
def CapReq.unpadded (r : CapReq) : CapReq :=
  if r.length ≤ r.data.length ∧ r.data.length < r.length + 4 then { r with data := r.data.take r.length } else r

/-- R659: a malformed request. -/
def CapReq.malformed (r : CapReq) : Bool := r.version != 1 || decide (1440 < r.length) || r.length != r.data.length || Machine.bit r.flags 0

/-- R555: a broadcast is answered only where it reads an identity entry. -/
def CapReq.ignored (r : CapReq) : Bool :=
  r.broadcast && !(r.op == 1 && r.index == 0x1000 && decide (1 ≤ r.sub) && decide (r.sub ≤ 8))

end Sys2Proof

namespace Sys2Proof.Machine

open Sys2Proof

namespace Cap

abbrev read : Nat := 0x01
abbrev write : Nat := 0x02
abbrev lock : Nat := 0x03
abbrev unlock : Nat := 0x04
abbrev describe : Nat := 0x05
abbrev signed : Nat := 0x10
abbrev image : Nat := 0x11

end Cap

def session (s : State) (r : CapReq) : Option Session := s.cap.sessions.find? fun x => x.who == r.who && x.id == r.sid

def mapSession (s : State) (r : CapReq) (f : Session → Session) : State :=
  let fix (x : Session) : Session := if x.who == r.who && x.id == r.sid then f x else x
  { s with cap := { s.cap with sessions := s.cap.sessions.map fix } }

def holdsLock (s : State) (w : Who) (id : Nat) : Bool := match s.cap.lock with
  | some (w', id', _) => w' == w && id' == id
  | none => false

/-- The session idle longest that does not hold the write lock. -/
def idlest (s : State) : Option Session :=
  (s.cap.sessions.filter fun x => !holdsLock s x.who x.id).foldl (fun m x => match m with
    | some y => if x.lastUse < y.lastUse then some x else m
    | none => some x) none

/-- R561: the lock's lease has run out. -/
def expireLock (s : State) : State := match s.cap.lock with
  | some (_, _, e) => if e ≤ s.now then releaseLock s else s
  | none => s

/-- R559: snapshots of sessions that went 256 Tides without a request. -/
def expireSnapshots (s : State) : State :=
  let fix (x : Session) : Session := if x.lastTide + 256 ≤ s.now then { x with snapshot := none } else x
  { s with cap := { s.cap with sessions := s.cap.sessions.map fix } }

/-- A request of the session: its Tide, its place in the order of idleness, and the lease of a lock it holds. -/
def noteUse (s : State) (r : CapReq) : State :=
  let s := mapSession s r fun x => { x with lastTide := s.now, lastUse := s.cap.uses }
  let s := { s with cap := { s.cap with uses := s.cap.uses + 1 } }
  if holdsLock s r.who r.sid then { s with cap := { s.cap with lock := some (r.who, r.sid, s.now + s.cfg Ent.lockLeaseTides) } } else s

/-- Open a session, dropping the idlest of 16; none where none may be dropped. -/
def openSession (s : State) (r : CapReq) : Option State :=
  let new : Session := ⟨r.who, r.sid, none, none, s.now, s.cap.uses, none, none, none⟩
  if s.cap.sessions.length < 16 then some { s with cap := { s.cap with sessions := s.cap.sessions ++ [new] } }
  else (idlest s).map fun y =>
    let keep := s.cap.sessions.filter fun x => !(x.who == y.who && x.id == y.id)
    { s with cap := { s.cap with sessions := keep ++ [new] } }

/-! Responses. -/

/-- A response without data that repeats the request's fields. -/
def capAnswer (r : CapReq) (status tideField : Nat) : CapResp :=
  ⟨r.op, status, r.session, r.seq, r.index, r.sub, r.typeCode, r.offset, tideField, r.totalLength, []⟩

/-- A request as it travels in the mailbox and in a message: 32 bytes and data; none where it is shorter. -/
def capReqOf (path : Path) (b : Bytes) : Option CapReq :=
  if b.length < 32 then none
  else some ⟨path, field b 0 1, field b 1 1, field b 2 1, field b 4 2, field b 6 2, field b 8 2, field b 10 1, field b 11 1, field b 12 4,
    field b 16 2, field b 18 6, field b 24 4, b.drop 32⟩

/-- What an operation answers: status, suggested Tide under RETRY, other header fields, data; none where the answer waits. -/
structure Answer where
  status : Nat
  retry : Nat
  typeCode : Option Nat
  total : Option Nat
  tideField : Option Nat
  data : Bytes
  deriving DecidableEq, Repr

def Answer.plain (status retry : Nat) : Answer := ⟨status, retry, none, none, none, []⟩

def capRespond (r : CapReq) (now : Nat) (a : Answer) : CapResp :=
  ⟨r.op, a.status, r.session, r.seq, r.index, r.sub, a.typeCode.getD r.typeCode, r.offset,
    if a.status = St.retry then a.retry else a.tideField.getD now, a.total.getD r.totalLength, a.data⟩

/-! Provenance (R615). -/

def provenanceBody (s : State) (nonce : Bytes) : Bytes :=
  let head := leBytes 4 0x564F5250 ++ leBytes 2 1 ++ leBytes 2 0 ++ leBytes 4 s.strand.nodeId ++ leBytes 4 (s.cfg Ent.compositionId)
    ++ leBytes 8 Config.serialNumber ++ leBytes 4 (field s.sec.running 8 4) ++ leBytes 1 (s.num Ent.securityFloor)
    ++ leBytes 1 (s.num Ent.bootState) ++ leBytes 2 0 ++ sha512 s.sec.running ++ leBytes 8 Config.identityKeyDigest
  let mid := padTo 24 (configState s.cat) ++ leBytes 6 s.now ++ leBytes 2 s.tide.phase ++ leBytes 2 (slotsIn s 1)
    ++ leBytes 2 (slotsIn s 2) ++ leBytes 2 (s.num Ent.degradedFlags) ++ leBytes 2 (activeCores s)
  head ++ mid ++ padTo 32 nonce ++ leBytes 8 (digest64 (graphKeyTable s)) ++ List.replicate 72 0

/-- R615: build and sign a record for the session's nonce. -/
def provenance (s : State) (r : CapReq) : Except Refuse (Bytes × State) :=
  let nonce := (session s r).bind (·.nonce)
  let refusals := badIf nonce.isNone ++ (if trngReady s then [] else [(St.retry, s.now + 1)])
  match worstRefusal refusals with
  | some x => .error x
  | none =>
    let body := provenanceBody s (nonce.getD [])
    .ok (body ++ padTo 512 (Config.identitySign s.free body), { s with free := s.free + 1 }.bump Ent.recordsIssued)

/-! READ (R542, R559). -/

/-- R583: the records that a snapshot of EventRecords holds count as read. -/
def markRead (s : State) : State :=
  let seen := (selectedEvents s).map (·.seq)
  let fix (x : EventRec) : EventRec := if seen.contains x.seq then { x with read := true } else x
  { s with log := { s.log with ring := s.log.ring.map fix } }

/-- The value that a READ with Offset 0 takes: the apply Tide of a Pending read, the bytes, the state. -/
def takeValue (s : State) (r : CapReq) (e : Entry) : Except Refuse (Nat × Bytes × State) :=
  if r.pendingFlag then
    match pendOf s r.key with
    | some w => .ok (w.apply, valBytes e r.key w.val, s)
    | none => .ok (0, [], s)
  else if r.key = Ent.provenanceRecord then (provenance s r).map fun p => (0, p)
  else if r.key = Ent.provenanceNonce then .ok (0, ((session s r).bind (·.nonce)).getD [], s)
  else
    let v := readEntry s e r.key
    .ok (0, v.1, if r.key = Ent.eventRecords then markRead v.2 else v.2)

def snapIdent (r : CapReq) : Nat := r.key + if r.pendingFlag then 2 ^ 32 else 0

/-- The segment of a snapshot from Offset. -/
def readSegment (r : CapReq) (e : Entry) (apply : Nat) (v : Bytes) : Answer :=
  ⟨St.ok, 0, some e.typ.code, some v.length, if r.pendingFlag then some apply else none, (v.drop r.offset).take 1440⟩

/-- The value of a P entry is unreadable in region 5: a codeword of it is lost and not rewritten (the table of CAP statuses). -/
def entryLost (s : State) (e : Entry) (k : Nat) : Bool :=
  e.cls == .p && (s.cat.region5.filter fun f => f.key == k).any fun f => f.words.any fun w => s.flash.lost.contains w && !Flash.inWork s.flash w

def capRead (s : State) (r : CapReq) : Answer × State :=
  let ended := mapSession s r fun x => { x with snapshot := none }
  match entryAt r.index r.sub with
  | none => (.plain St.badJob 0, ended)
  | some e =>
    if e.acc = .wo then (.plain (if r.offset = 0 then St.accessDenied else St.badJob) 0, ended)
    else if r.offset = 0 then
      if entryLost s e r.key then (.plain St.uncorrectable 0, ended)
      else match takeValue s r e with
      | .error x => (.plain x.1 x.2, ended)
      | .ok (apply, v, s) => (readSegment r e apply v, mapSession s r fun x => { x with snapshot := some (snapIdent r, apply, v) })
    else
      match (session s r).bind (·.snapshot) with
      | some (id, apply, v) =>
        if id = snapIdent r then
          if r.offset < v.length then (readSegment r e apply v, s) else (.plain St.badJob 0, s)
        else (.plain St.badJob 0, ended)
      | none => (.plain St.badJob 0, s)

/-! WRITE, SIGNED and IMAGE. -/

/-- R563: writes are refused on the field network. -/
def fieldBarred (s : State) (r : CapReq) : Bool := r.onField && s.num Ent.fieldWriteEnable == 0

/-- R560, R563, R615: the lock check, before every other check. -/
def lockDenies (s : State) (r : CapReq) : Bool :=
  fieldBarred s r || !(holdsLock s r.who r.sid || (r.op == Cap.write && r.key == Ent.provenanceNonce))

/-- R558: stage a segment. The whole value once the last segment has come; none while more are due; a fault otherwise. -/
def stageSegment (s : State) (r : CapReq) : Except Nat (Option Bytes × State) :=
  let old := (session s r).bind (·.staged)
  let put (x : Option Staged) : State := mapSession s r fun y => { y with staged := x }
  let base := match old with
    | none => if r.offset = 0 then some [] else none
    | some x =>
      if x.op = r.op ∧ x.key = r.key ∧ x.total = r.totalLength ∧ x.tideField = r.tideField ∧ r.offset = x.data.length ∧ r.offset ≠ 0
      then some x.data else none
  match base with
  | none => .error St.badJob
  | some b =>
    let all := b ++ r.data
    if all.length = r.totalLength then .ok (some all, put none)
    else if all.length < r.totalLength ∧ r.data.length = 1440 then
      .ok (none, put (some ⟨r.op, r.key, r.totalLength, r.tideField, all⟩))
    else .error St.badJob

def unstaged (s : State) (r : CapReq) : State := mapSession s r fun y => { y with staged := none }

/-- R615: the nonce of the session. -/
def writeNonce (s : State) (r : CapReq) (b : Bytes) : Nat × State :=
  if b.length = 32 ∧ r.typeCode = 0x0D then (St.ok, mapSession s r fun x => { x with nonce := some b }) else (St.badJob, s)

def capWrite (s : State) (r : CapReq) : Answer × State :=
  if lockDenies s r then (.plain St.accessDenied 0, s)
  else
    match stageSegment s r with
    | .error st => (.plain st 0, unstaged s r)
    | .ok (none, s) => (.plain St.ok 0, s)
    | .ok (some b, s) =>
      if r.key = Ent.provenanceNonce then let x := writeNonce s r b; (.plain x.1 0, x.2)
      else let x := writeEntry s r.path r.index r.sub r.typeCode r.tideField b; (.plain x.1 x.2.1, x.2.2)

def capSigned (s : State) (r : CapReq) : Answer × State :=
  if lockDenies s r then (.plain St.accessDenied 0, s)
  else match worst [(!signedPath s r.path, St.accessDenied, 0), (r.index != 0 || r.sub != 0, St.badJob, 0)] with
  | some q => (.plain q.1 0, unstaged (refusedSigned s q.1 (if r.offset = 0 then field r.data 8 4 else 0)) r)
  | none =>
    match stageSegment s r with
    | .error st => (.plain st 0, unstaged s r)
    | .ok (none, s) => (.plain St.ok 0, s)
    | .ok (some b, s) =>
      let x := signedCommand s r.path b
      (⟨x.1, x.2.1, none, some x.2.2.1.length, none, x.2.2.1⟩, x.2.2.2)

/-- Op IMAGE: a transfer input of R532; none where the answer waits for the image (R613). -/
def capImage (s : State) (r : CapReq) : Option Answer × State :=
  if lockDenies s r then (some (.plain St.accessDenied 0), s)
  else
    let x := imageInput s (some r) r.data
    (x.1.map fun st => ⟨st, x.2.1, none, some 1, none, leBytes 1 st⟩, x.2.2)

/-! LOCK, UNLOCK, DESCRIBE. -/

def capLock (s : State) (r : CapReq) : Answer × State :=
  let mine := holdsLock s r.who r.sid
  let barred := if fieldBarred s r ∨ (r.forceFlag ∧ !r.onStrand) then [(St.accessDenied, 0)] else []
  let breaks := r.forceFlag && r.onStrand
  let held := match s.cap.lock with
    | some (_, _, e) => if mine || breaks then [] else [(St.retry, e)]
    | none => []
  match worstRefusal (barred ++ held) with
  | some x => (.plain x.1 x.2, s)
  | none =>
    let s := if s.cap.lock.isSome && !mine then (releaseLock s).bump Ent.lockForceBreaks else s
    (.plain St.ok 0, { s with cap := { s.cap with lock := some (r.who, r.sid, s.now + s.cfg Ent.lockLeaseTides) } })

def capUnlock (s : State) (r : CapReq) : Answer × State :=
  if holdsLock s r.who r.sid then (.plain St.ok 0, releaseLock s)
  else (.plain (if s.cap.lock.isSome then St.accessDenied else St.ok) 0, s)

/-- The description record. -/
def description (e : Entry) (k : Nat) : Bytes :=
  let d := valBytes e k e.dflt
  leBytes 1 e.typ.code ++ leBytes 1 e.acc.code ++ leBytes 1 e.cls.code ++ leBytes 1 (bit01 e.shared) ++ leBytes 4 e.maxLen
    ++ padTo 32 (asciiOf e.name) ++ leBytes 8 d.length ++ d.take 1392

def capDescribe (s : State) (r : CapReq) : Answer × State :=
  match entryAt r.index r.sub with
  | none => (.plain St.badJob 0, s)
  | some e =>
    let d := description e r.key
    (⟨St.ok, 0, some 0, some d.length, none, d⟩, s)

/-! Handling. -/

/-- R611: what a node in recovery accepts. -/
def recoveryAccepts (r : CapReq) : Bool :=
  r.op == Cap.lock || r.op == Cap.unlock || r.op == Cap.image
    || ((r.op == Cap.read || r.op == Cap.describe) && ((r.index == 0x1000 && decide (1 ≤ r.sub) && decide (r.sub ≤ 8))
      || (decide (0xA000 ≤ r.index) && decide (r.index ≤ 0xA200))))

/-- One operation of a session: its answer, none where it waits. The lock is checked before every other check (R560). -/
def capOperate (s : State) (r : CapReq) : Option Answer × State :=
  if (r.op == Cap.write || r.op == Cap.signed || r.op == Cap.image) && lockDenies s r then (some (.plain St.accessDenied 0), s)
  else if s.rst.recovery && !recoveryAccepts r then (some (.plain St.retry 0), s)
  else if r.op = Cap.read then let x := capRead s r; (some x.1, x.2)
  else if r.op = Cap.write then let x := capWrite s r; (some x.1, x.2)
  else if r.op = Cap.lock then let x := capLock s r; (some x.1, x.2)
  else if r.op = Cap.unlock then let x := capUnlock s r; (some x.1, x.2)
  else if r.op = Cap.describe then let x := capDescribe s r; (some x.1, x.2)
  else if r.op = Cap.signed then let x := capSigned s r; (some x.1, x.2)
  else if r.op = Cap.image then capImage s r
  else (some (.plain St.badJob 0), s)

/-- The Catalogue answers: the firmware runs, or the ROM in recovery (R611). -/
def capUp (s : State) : Bool := s.mgmt || (s.up 3 && s.rst.recovery)

def countError (s : State) (status : Nat) : State := if status = St.ok then s else s.bump Ent.capErrors

/-- The session keeps the response for a repeat (R557). -/
def keepResponse (s : State) (r : CapReq) (resp : Option CapResp) : State :=
  mapSession s r fun x => { x with lastSeq := some r.seq, lastResp := resp }

/-- A well-formed request of a session that exists. -/
def capInSession (s : State) (r : CapReq) : Option CapResp × State :=
  match session s r with
  | none => (none, s)
  | some x =>
    if x.lastSeq = some r.seq then (x.lastResp, countError s ((x.lastResp.map (·.status)).getD St.ok))
    else
      let now := s.now
      let a := capOperate s r
      match a.1 with
      | none => (none, keepResponse a.2 r none)
      | some ans =>
        let resp := capRespond r now ans
        (some resp, countError (keepResponse a.2 r (some resp)) resp.status)

/-- Over Strand, CAP messages come with class 0 alone. -/
def capMirror (r : CapReq) : Bool :=
  match r.path with
  | .strand _ cls => cls == 0
  | _ => true

/-- A CAP request on any path: its response, and the state. The Strand mirror serves class 0 only (R565). -/
def capServe (s : State) (r : CapReq) : Option CapResp × State :=
  if !capUp s then (none, s)
  else if r.malformed then
    if r.onField then (none, s.bump Ent.framesDiscarded)
    else (some ⟨r.op, St.badJob, r.session, r.seq, r.index, r.sub, 0, 0, s.now, 0, []⟩, s.bump Ent.capErrors)
  else if r.ignored then (none, s)
  else if !capMirror r then (some (capAnswer r St.badJob s.now), s.bump Ent.capErrors)
  else
    let s := expireSnapshots (expireLock (s.bump Ent.capRequests))
    let opened := if (session s r).isSome then some s else openSession s r
    match opened with
    | none => (some (capAnswer r St.retry (s.now + 1)), s.bump Ent.capErrors)
    | some s => capInSession (noteUse s r) r

/-- Send a response over its path, once a P value that it answers for is durable. -/
def sendCap (s : State) (r : CapReq) (resp : CapResp) : State := answerCap s ⟨r, resp, none⟩

/-- The mailbox takes commands (R514, R530). -/
def mailRuns (s : State) : Bool := barRuns s && capUp s

/-- Serve a request and send its response. -/
def answerReq (s : State) (r : CapReq) : State :=
  let x := capServe s r
  match x.1 with
  | some resp => sendCap x.2 r resp
  | none => x.2

/-- A mailbox command (R530): one at a time, with a payload of at most 4,096 bytes (DESIGN CHOICE, notes/assumptions/97.md). -/
def mailCommand (s : State) (bytes : Nat) (f : State → State) : State :=
  if !mailRuns s then noBar s
  else if s.host.mailBusy then s
  else
    let s := { s with host := { s.host with mailBusy := true } }
    if 4096 < bytes then mailOut s .invalidInput [] else f s

/-- A request reaches the Catalogue over its path. -/
def handleCap (s : State) (r : CapReq) : State :=
  match r.path with
  | .mailbox => mailCommand s (32 + r.data.length) fun s => answerReq s r
  | _ => answerReq s r

/-! The answer of a firmware image (R613). -/

/-- Answer the end action: over the mailbox command, or in the CAP session that sent it. -/
def imageAnswer (s : State) (rx : ImageRx) (status : Nat) : State :=
  match rx.req with
  | none => mailOut s .success (padTo 8 (leBytes 1 status))
  | some r =>
    let resp := capRespond r s.now ⟨status, 0, none, some 1, none, leBytes 1 status⟩
    let fix (x : Session) : Session := if x.lastSeq = some r.seq then { x with lastResp := some resp } else x
    answerCap (countError (mapSession s r fix) status) ⟨r, resp, rx.frame⟩

end Sys2Proof.Machine
end

