-- ==== Sys2Proof/Machine/HostRows.lean ====
section
/-! DEFINITION. The commands of the host link: BAR0, queue pairs, fetching and interrupts, loss and training of the link, the
HDM decoder, the mailbox and DOE (15_host_interface.md), firmware image transfers (R611 to R614). -/

namespace Sys2Proof.Machine

open Sys2Proof

/-! BAR0 (R514, R515). -/

/-- A boundary has passed since a Tide. -/
def passed (s : State) (t : Option Nat) : Bool := match t with
  | some t => t != s.now
  | none => false

/-- R537: boundary D of a disable has passed: the drain runs from D. -/
def disableEffect (s : State) : State :=
  if passed s s.host.disablePending then
    { s with host := { s.host with disablePending := none, draining := true, drainFrom := s.host.disablePending.getD 0 + 1 } }
  else s

/-- R516, R537: a write of Enable = 1: it cancels a disable, or asks for Ready at the next boundary. -/
def enableHost (s : State) : State :=
  let s := disableEffect s
  let h := s.host
  let h := if h.disablePending.isSome then { h with disablePending := none }
    else if h.draining then { h with resumePending := some s.now }
    else if h.ready then h else { h with enablePending := some s.now }
  { s with host := { h with enable := true } }

/-- R537: a write of Enable = 0. -/
def disableHost (s : State) : State :=
  let s := disableEffect s
  let h := s.host
  let h := if h.draining then { h with resumePending := none }
    else if h.ready then { h with disablePending := some s.now } else { h with enablePending := none }
  { s with host := { h with enable := false } }

/-- Set a pair's Fault with its cause (R517, R518, R521); fetching from it ends. -/
def faultPair (s : State) (q cause : Nat) : State :=
  (mapPair s q fun p => { p with fault := true, cause := cause, stopped := true }).bump Ent.queueFaults

/-- R517: QEnable = 1. -/
def enablePair (s : State) (q word : Nat) : State :=
  let p := s.pair q
  if p.enabled then s
  else
    let s := mapPair s q fun p => { p with qEnable := true, intEnable := bit word 6, vector := bits word 13 8 }
    if 1 ≤ p.sqM1 ∧ p.sqM1 ≤ 4095 ∧ 1 ≤ p.cqM1 ∧ p.cqM1 ≤ 4095 then
      mapPair s q fun p => { p with
        enabled := true, sqHead := 0, cqHead := 0, sqTail := 0, cqTail := 0, phase := true, stopped := false, winding := false, uncovered := 0 }
    else faultPair s q 1

/-- R657: QEnable = 0; the pair's Fault is cleared. -/
def disablePair (s : State) (q word : Nat) : State :=
  let p := s.pair q
  let s := mapPair s q fun p => { p with qEnable := false, fault := false, cause := 0 }
  if p.enabled then mapPair s q fun p => { p with stopped := true, winding := true }
  else mapPair s q fun p => { p with intEnable := bit word 6, vector := bits word 13 8 }

def writeQenable (s : State) (q word : Nat) : State := if bit word 0 then enablePair s q word else disablePair s q word

/-- R518: SqTail. -/
def ringSq (s : State) (q v : Nat) : State :=
  let p := s.pair q
  let v := v % 65536
  if !p.enabled || p.winding then s
  else if p.sqM1 < v then faultPair s q 2
  else mapPair s q fun p => { p with sqTail := v }

/-- R518: CqHead; it may release only entries that the node has written. -/
def ringCq (s : State) (q v : Nat) : State :=
  let p := s.pair q
  let v := v % 65536
  let n := p.cqM1 + 1
  if !p.enabled then s
  else if n ≤ v ∨ (p.cqTail + n - p.cqHead) % n < (v + n - p.cqHead) % n then faultPair s q 2
  else mapPair s q fun p => { p with cqHead := v }

/-- One half of a 64-bit register. -/
def half (old v : Nat) (high : Bool) : Nat := if high then old % 2 ^ 32 + v * 2 ^ 32 else old / 2 ^ 32 * 2 ^ 32 + v

/-- A 4-byte write to a queue block (R517). -/
def writeBlock (s : State) (q off v : Nat) : State :=
  let free (f : Pair → Pair) : State := mapPair s q fun p => if p.enabled then p else f p
  match off with
  | 0x00 => free fun p => { p with sqBase := half p.sqBase v false / 64 * 64 }
  | 0x04 => free fun p => { p with sqBase := half p.sqBase v true }
  | 0x08 => free fun p => { p with cqBase := half p.cqBase v false / 32 * 32 }
  | 0x0C => free fun p => { p with cqBase := half p.cqBase v true }
  | 0x10 => free fun p => { p with sqM1 := v % 65536, cqM1 := v / 65536 }
  | 0x14 => writeQenable s q v
  | 0x1C => mapPair s q fun p => { p with coalCount := v % 256, coalUs := bits v 23 8 }
  | _ => s

/-- R525: unmask a vector; a pending message goes out. -/
def unmask (s : State) (v : Nat) : State :=
  match s.host.msix[v]? with
  | none => s
  | some m =>
    let s := { s with host := { s.host with msix := s.host.msix.set v { m with masked := false, pending := false } } }
    if m.pending then s.emit (.msix m.addr m.data) else s

/-- A 4-byte write to the MSI-X table. -/
def writeMsix (s : State) (vec off v : Nat) : State :=
  let put (f : MsixEntry → MsixEntry) : State := { s with host := { s.host with msix := modifyAt s.host.msix vec f } }
  match off with
  | 0 => put fun m => { m with addr := half m.addr v false }
  | 4 => put fun m => { m with addr := half m.addr v true }
  | 8 => put fun m => { m with data := v }
  | _ => if bit v 0 then put fun m => { m with masked := true } else unmask s vec

/-- A register of the two CXL blocks. -/
def barStored (s : State) (off : Nat) : Nat := (s.host.bar.lookup off).getD (Config.barDefault off).toNat

/-- The opcodes of the table "Mailbox commands". -/
def mailListed (o : Nat) : Bool := [0x0400, 0x0401, 0xC000, 0xC001].contains o

/-- R530: the mailbox's doorbell rings with an opcode that the table does not list; a listed one is a command of its own row. Command and
control register lie as CXL 3.1 has them (PRESUMED, notes/assumptions/97.md). -/
def ringMailbox (s : State) : State :=
  if mailListed (barStored s (0x10000 + Config.mailboxBase.toNat + 8) % 65536) then s else mailCommand s 0 fun s => mailOut s .unsupported []

/-- A 4-byte write to BAR0 at an aligned offset (the table "BAR0 regions"). -/
def barWord (s : State) (off v : Nat) : State :=
  if off < 0x20000 then
    let s := { s with host := { s.host with bar := (s.host.bar.filter fun p => p.1 != off) ++ [(off, v)] } }
    if off = 0x10000 + Config.mailboxBase.toNat + 4 ∧ bit v 0 then ringMailbox s else s
  else if off = 0x20004 then (if bit v 0 then enableHost s else disableHost s)
  else if off = 0x20008 then (if bit v 2 then { s with host := { s.host with linkLost := false } } else s)
  else if 0x21000 ≤ off ∧ off < 0x22000 then writeBlock s ((off - 0x21000) / 64) (off % 64) v
  else if 0x30000 ≤ off ∧ off < 0x30200 then (if off % 8 = 0 then ringSq s ((off - 0x30000) / 8) v else ringCq s ((off - 0x30000) / 8) v)
  else if 0x40000 ≤ off ∧ off < 0x40400 then writeMsix s ((off - 0x40000) / 16) (off % 16) v
  else s

/-- A 4-byte word of a queue block as it reads (R517). -/
def blockWord (p : Pair) (off : Nat) : Nat :=
  match off with
  | 0x00 => p.sqBase % 2 ^ 32
  | 0x04 => p.sqBase / 2 ^ 32
  | 0x08 => p.cqBase % 2 ^ 32
  | 0x0C => p.cqBase / 2 ^ 32
  | 0x10 => p.sqM1 + p.cqM1 * 65536
  | 0x14 => boolBit p.qEnable 0 + boolBit p.intEnable 6 + p.vector * 256
  | 0x18 => boolBit p.enabled 0 + boolBit p.fault 1 + p.cause * 4
  | 0x1C => p.coalCount + p.coalUs * 256
  | _ => 0

/-- A 4-byte word of the MSI-X table as it reads. -/
def msixWord (m : MsixEntry) (off : Nat) : Nat :=
  match off with
  | 0 => m.addr % 2 ^ 32
  | 4 => m.addr / 2 ^ 32
  | 8 => m.data
  | _ => boolBit m.masked 0

/-- R525: the pending bits of 32 vectors. -/
def pendingBits (s : State) (first : Nat) : Nat :=
  ((List.range 32).map fun i => boolBit ((s.host.msix[first + i]?).any (·.pending)) i).sum

/-- R515: what a 4-byte read of BAR0 gives; an offset that the table does not assign reads 0, and so do the doorbells. -/
def barReadWord (s : State) (off : Nat) : Nat :=
  if off < 0x20000 then barStored s off
  else if off = 0x20000 then 1 + 64 * 65536
  else if off = 0x20004 then boolBit s.host.enable 0
  else if off = 0x20008 then boolBit s.host.ready 0 + boolBit (s.num Ent.flashReady == 1) 1 + boolBit s.host.linkLost 2 + boolBit s.host.draining 3
  else if off = 0x20010 then s.now % 2 ^ 32
  else if off = 0x20014 then s.now / 2 ^ 32 % 2 ^ 16 + s.tide.phase * 65536
  else if off = 0x20018 then s.strand.nodeId
  else if 0x21000 ≤ off ∧ off < 0x22000 then blockWord (s.pair ((off - 0x21000) / 64)) (off % 64)
  else if 0x40000 ≤ off ∧ off < 0x40400 then ((s.host.msix[(off - 0x40000) / 16]?).map fun m => msixWord m (off % 16)).getD 0
  else if off = 0x41000 then pendingBits s 0
  else if off = 0x41004 then pendingBits s 32
  else 0

/-- R515: what a read of BAR0 gives: the register's bytes for an aligned 4-byte or 8-byte read, zeros for any other size or alignment.
An 8-byte read takes both words of one state, TideCount with TidePhase. No row of the table reads: it is a view of the state. -/
def barRead (s : State) (off size : Nat) : Bytes :=
  if size = 4 ∧ off % 4 = 0 ∧ off < 2 ^ 20 then leBytes 4 (barReadWord s off)
  else if size = 8 ∧ off % 8 = 0 ∧ off < 2 ^ 20 then leBytes 4 (barReadWord s off) ++ leBytes 4 (barReadWord s (off + 4))
  else List.replicate size 0

/-- R515: a write of BAR0; only aligned 4-byte and 8-byte writes count. -/
def barWrite (s : State) (off size v : Nat) : State :=
  if !barRuns s then noBar s
  else if size = 4 ∧ off % 4 = 0 ∧ off < 2 ^ 20 then barWord s off (v % 2 ^ 32)
  else if size = 8 ∧ off % 8 = 0 ∧ off < 2 ^ 20 then barWord (barWord s off (v % 2 ^ 32)) (off + 4) (v / 2 ^ 32 % 2 ^ 32)
  else s

/-- CONTROLLER_ENABLE (R516). -/
def execControllerEnable (s : State) : Result := .next (barWrite s 0x20004 4 1)

/-- CONTROLLER_DISABLE (R537). -/
def execControllerDisable (s : State) : Result := .next (barWrite s 0x20004 4 0)

/-- QUEUE_ENABLE (R517): a write of +0x14 with QEnable set. -/
def execQueueEnable (pair word : Nat) (s : State) : Result :=
  if pair < 64 ∧ bit word 0 then .next (barWrite s (0x21014 + 64 * pair) 4 word) else .next s

/-- QUEUE_DISABLE (R657): a write of +0x14 with QEnable clear. -/
def execQueueDisable (pair word : Nat) (s : State) : Result :=
  if pair < 64 ∧ !bit word 0 then .next (barWrite s (0x21014 + 64 * pair) 4 word) else .next s

/-- SQ_TAIL_DOORBELL (R518). -/
def execSqTailDoorbell (pair value : Nat) (s : State) : Result :=
  if pair < 64 then .next (barWrite s (0x30000 + 8 * pair) 4 value) else .next s

/-- CQ_HEAD_DOORBELL (R518). -/
def execCqHeadDoorbell (pair value : Nat) (s : State) : Result :=
  if pair < 64 then .next (barWrite s (0x30004 + 8 * pair) 4 value) else .next s

/-- LINK_LOST_CLEAR (R535). -/
def execLinkLostClear (s : State) : Result := .next (barWrite s 0x20008 4 4)

/-- BAR0_WRITE (R515). -/
def execBar0Write (offset size value : Nat) (s : State) : Result := .next (barWrite s offset size value)

/-- MSIX_UNMASK (R525). -/
def execMsixUnmask (vector : Nat) (s : State) : Result :=
  if vector < 64 then .next (barWrite s (0x4000C + 16 * vector) 4 0) else .next s

/-! Ready, drains (R516, R537, R657). -/

def setReady (s : State) : State :=
  let h := s.host
  let h := if passed s h.resumePending then { h with resumePending := none, draining := false } else h
  let h := if passed s h.enablePending && s.tide.state != .acquiring then { h with enablePending := none, ready := true } else h
  { s with host := h }

/-- READY_SET (R516): at the boundary after Enable = 1; also the end of a cancelled drain (R537). -/
def execReadySet (s : State) : Result := if barRuns s && s.mgmt then .next (setReady s) else .next s

/-- HOST_DISABLE_EFFECT (R537): boundary D. -/
def execHostDisableEffect (s : State) : Result :=
  if barRuns s && s.mgmt then .next (disableEffect s) else .next s

/-- R537: the drain's limit has come, and no write of Enable = 1 has cancelled the disable. -/
def endDrain (s : State) : State :=
  if s.host.draining && s.host.resumePending.isNone && decide (s.host.drainFrom + s.cfg Ent.hostDrainTides ≤ s.now) then
    let s := endHostWork s St.aborted
    let off (p : Pair) : Pair := { p with qEnable := false, enabled := false, winding := false, stopped := false }
    { s with host := { s.host with
      ready := false, draining := false, enable := false, resumePending := none, pairs := s.host.pairs.map off } }
  else s

/-- HOST_DRAIN_LIMIT (R537). -/
def execHostDrainLimit (s : State) : Result := if barRuns s && s.mgmt then .next (endDrain s) else .next s

/-- Commands of a pair that have been fetched and whose completion entries have not been written. -/
def pairCmds (s : State) (q : Nat) : Nat :=
  (s.host.cmds.filter fun c => c.pair == q && !c.lost).length + (s.host.late.filter fun x => x.entryOf == some q).length

/-- R412: an entry of the pair's completion queue, in the HDM range, that is written but not done. -/
def entryParked (s : State) (q : Nat) : Bool :=
  let p := s.pair q
  let mine (a : Nat) : Bool := decide (p.cqBase ≤ a) && decide (a < p.cqBase + 32 * (p.cqM1 + 1))
  (s.host.held.any fun h => h.inside && h.write.isSome && mine h.hpa)
    || s.host.bisnp.any fun b => !b.zeroing && b.grants.isNone && mine (b.line * 64 + b.off)

/-- R657, R525: the completions of a pair are written, and signalled where the pair signals. -/
def pairDone (s : State) (q : Nat) : Bool :=
  pairCmds s q == 0 && !entryParked s q && !(s.host.late.contains (.signal q)) && (!(s.pair q).intEnable || (s.pair q).uncovered == 0)

/-- QUEUE_DISABLE_DONE (R657): the last fetched command has completed, and its entry is written and signalled. -/
def execQueueDisableDone (pair : Nat) (s : State) : Result :=
  if barRuns s && (s.pair pair).winding && pairDone s pair then
    .next (mapPair s pair fun p => { p with enabled := false, winding := false, stopped := false })
  else .next s

/-! Fetching (R519 to R522). -/

def knownOpcode (o : Nat) : Bool := [0x01, 0x02, 0x03, 0x10, 0x11, 0x12, 0x20, 0x21, 0x22, 0x23, 0x24, 0x25, 0x26, 0x30].contains o

def berthOpcode (o : Nat) : Bool := decide (0x20 ≤ o) && decide (o ≤ 0x26)

/-- The table "Roles". -/
def roleAccepts (role o : Nat) : Bool :=
  match role with
  | 0 => !berthOpcode o
  | 1 => decide (0x10 ≤ o)
  | 2 => decide (0x10 ≤ o) && o != 0x22
  | _ => false

/-- Commands that need flash (R533): queries verify against it, changes and parks write it, wakes read it, and CREATE, RELEASE, HANDOFF and
CHECKPOINT change a record or word that is journaled there (R361; DEDUCED, notes/assumptions/94.md). -/
def needsFlash (o : Nat) : Bool := [0x01, 0x02, 0x03, 0x20, 0x21, 0x22, 0x24, 0x25, 0x26].contains o

/-- What refuses a command as it is fetched (R359, R407, R522, R533, R590, R591, R634). -/
def fetchRefusal (s : State) (o : Nat) : Option Refuse :=
  let service := s.num Ent.nodeServiceState
  worstRefusal (badIf (!knownOpcode o || !roleAccepts (s.cfg Ent.poolRole) o)
    ++ (if service = 2 then [(St.accessDenied, 0)] else [])
    ++ (if service = 1 ∨ nodeFull s ∨ (needsFlash o ∧ s.num Ent.flashReady = 0) then [(St.retry, s.now + 1)] else [])
    ++ (if neapRefuses s then [(St.retry, neapRetry s)] else []))

/-- A submission entry has been read. -/
def takeEntry (s : State) (q : Nat) (b : Bytes) : State :=
  let s := mapPair s q fun p => { p with sqHead := if p.sqM1 ≤ p.sqHead then 0 else p.sqHead + 1 }
  let c : HostCmd := ⟨s.host.nextCmd, q, field b 0 1, field b 2 2, b, false, false, false, none, []⟩
  let s := { s with host := { s.host with cmds := s.host.cmds ++ [c], nextCmd := c.id + 1 } }
  match fetchRefusal s c.opcode with
  | some r => s.finish c.id r.1 [] r.2
  | none => s

/-- The node may fetch from a pair (R516, R518, R520, R537: not from boundary D on). -/
def mayFetch (s : State) (q : Nat) : Bool :=
  let p := s.pair q
  let n := p.cqM1 + 1
  barRuns s && s.mgmt && s.host.ready && !s.host.draining && !passed s s.host.disablePending && p.enabled && !p.stopped && p.sqHead != p.sqTail
    && decide (pairCmds s q + (p.cqTail + n - p.cqHead) % n < p.cqM1)

/-- SQ_FETCH (R519). -/
def execSqFetch (pair : Nat) (read : HostRead) (s : State) : Result :=
  if !mayFetch s pair then .next s
  else
    let p := s.pair pair
    let r := readInput s (p.sqBase + 64 * p.sqHead) 64 read
    if inputHeld s (p.sqBase + 64 * p.sqHead) 64 then .next (fetchInput s (p.sqBase + 64 * p.sqHead) 64)
    else
    let s := touchInput s (p.sqBase + 64 * p.sqHead) 64
    if r.1 = St.ok then .next (takeEntry s pair r.2) else .next (faultPair s pair 3)

/-- COALESCE_TIMER (R525). -/
def execCoalesceTimer (pair : Nat) (s : State) : Result :=
  let p := s.pair pair
  if barRuns s && p.intEnable && decide (0 < p.uncovered) then .next (signalLate s pair) else .next s

/-! The link (R514, R526, R535). -/

/-- R535: a link loss. Writes that waited for a back-invalidation go on: the host holds nothing any more. -/
def loseLink (s : State) : State :=
  if !s.host.linkUp then s
  else
    let waiting := s.host.bisnp.filter fun b => !b.zeroing
    let unsent := (s.host.late.filter Late.isEntry).length
    let s := { s with host := { s.host with hostHeld := [], bisnp := [] } }
    let s := waiting.foldl (fun s b => match b.grants with
      | some n => Coh.acknowledge s Coh.hostAgent n
      | none => hdmStore s (b.line * 64 + b.off) b.data) s
    let lose (c : HostCmd) : HostCmd := { c with lost := true }
    let s := { s with
      host := { HostUnit.cold with
        cmds := s.host.cmds.map lose, nextCmd := s.host.nextCmd, linkLost := true, hdmBase := s.host.hdmBase
        held := s.host.held.filter (·.inside), nextHeld := s.host.nextHeld }
      sec := { s.sec with doe := [] } }
    (s.bump Ent.linkLosses).bump Ent.completionsDiscarded unsent

/-- LINK_LOSS (R535). -/
def execLinkLoss (s : State) : Result := .next (loseLink s)

/-- Values that wait for one of these moments come into force (R541). -/
def comeInForce (s : State) (ms : List Moment) : State :=
  { s with cat := { s.cat with waiting := s.cat.waiting.filter fun w => !ms.contains w.moment } }

/-- The widths and rates in GT/s at which training can end (R513, R514; 2 stands for 2.5 GT/s). -/
def linkWidths : List Nat := [1, 2, 4, 8]

def linkRates : List Nat := [2, 5, 8, 16, 32, 64]

/-- LINK_TRAINED (R514): within the widest link and highest rate configured. -/
def execLinkTrained (width rate : Nat) (s : State) : Result :=
  if !s.up 9 || s.host.linkUp then .next s
  else
    let s := comeInForce s [.training]
    if linkWidths.contains width ∧ linkRates.contains rate ∧ width ≤ s.cfg Ent.linkWidthMax ∧ rate ≤ s.cfg Ent.linkRateMax then
      .next { s with host := { s.host with
        linkUp := true, width := width, rate := rate, degraded := decide (rate < 32) || decide (width < 2) } }
    else .next s

/-- HDM_COMMIT (R526). -/
def execHdmCommit (base size : Nat) (s : State) : Result :=
  if !barRuns s || s.host.hdmCommitted then .next s
  else if size ≠ s.cfg Ent.hdmBytes ∨ base % 2 ^ 28 ≠ 0 then .next { s with host := { s.host with hdmError := true } }
  else if size = 0 then .next s
  else .next { s with host := { s.host with hdmCommitted := true, hdmBase := base, hdmError := false } }

/-! The mailbox (R530 to R532) and DOE (R513). -/

/-- GET_SUPPORTED_LOGS (R530). -/
def execGetSupportedLogs (s : State) : Result :=
  .next (mailCommand s 0 fun s => mailOut s .success Config.supportedLogs)

/-- GET_LOG (R530): UUID, offset and length. -/
def execGetLog (input : Bytes) (s : State) : Result :=
  .next (mailCommand s input.length fun s =>
    if input.take 16 = leBytes 16 Config.effectsLogUuid.toNat ∧ field input 16 4 + field input 20 4 ≤ Config.effectsLog.length
        ∧ field input 20 4 ≤ 4096 then
      mailOut s .success ((Config.effectsLog.drop (field input 16 4)).take (field input 20 4))
    else mailOut s .invalidInput [])

/-- CATALOGUE_TRANSACTION (R531, R659). -/
def execCatalogueTransaction (input : Bytes) (s : State) : Result :=
  .next (mailCommand s input.length fun s =>
    match capReqOf .mailbox input with
    | none => mailOut s .invalidInput []
    | some r => answerReq s r)

/-- The mailbox session's request of an image transfer: its lease and the lock check (R531, R560). -/
def mailImage (s : State) (input : Bytes) : State :=
  let s := expireLock s
  if !holdsLock s .mailbox 0 then mailOut s .success (padTo 8 (leBytes 1 St.accessDenied))
  else
    let s := { s with cap := { s.cap with lock := some (.mailbox, 0, s.now + s.cfg Ent.lockLeaseTides) } }
    let x := imageInput s none input
    match x.1 with
    | some st => mailOut x.2.2 .success (padTo 8 (leBytes 1 st))
    | none => x.2.2

/-- An image transfer input of one action. -/
def imageRow (s : State) (action : Nat) (x : ImageXfer) : State :=
  match x with
  | .mailbox b => if field b 0 1 == action then mailCommand s b.length fun s => mailImage s b else s
  | .cap r => if r.op == Cap.image && field r.data 0 1 == action then handleCap s r else s

/-- IMAGE_START (R532). -/
def execImageStart (xfer : ImageXfer) (s : State) : Result := .next (imageRow s 0 xfer)

/-- IMAGE_DATA (R532). -/
def execImageData (xfer : ImageXfer) (s : State) : Result := .next (imageRow s 1 xfer)

/-- IMAGE_END (R532). -/
def execImageEnd (xfer : ImageXfer) (s : State) : Result := .next (imageRow s 2 xfer)

/-- IMAGE_VERIFY_DONE (R612, R613): a failed image is discarded; a valid one is written over the image in the reserved
blocks, and in recovery it starts. -/
def execImageVerifyDone (s : State) : Result :=
  match s.sec.rx with
  | none => .next s
  | some r =>
    if !r.verifying || !capUp s then .next s
    else
      let st := firmwareVerdict s r.bytes
      if st ≠ St.ok then .next (imageAnswer (setRx s none 5) r st)
      else
        let s := setRx s (some { r with verifying := false, writing := true }) 3
        let s := { s with sec := { s.sec with image := [] } }
        if s.rst.recovery then
          .next ({ s with sec := { s.sec with running := r.bytes }, rst := { s.rst with recovery := false, romStarting := true } }.setNum Ent.bootState 1)
        else .next s

/-- IMAGE_WRITE_DONE (R613): the readback verifies, or it fails and leaves no valid image (R614). -/
def execImageWriteDone (verified : Bool) (s : State) : Result :=
  match s.sec.rx with
  | none => .next s
  | some r =>
    if !r.writing || !s.mgmt then .next s
    else if verified then
      let s := (setRx s none 4).bump Ent.imagesWritten
      .next (imageAnswer { s with sec := { s.sec with image := r.bytes } } r St.ok)
    else .next (imageAnswer (setRx s none 5) r St.uncorrectable)

/-- The port answers configuration requests. -/
def doeRuns (s : State) : Bool := s.up 9 && s.host.linkUp

/-- DOE_DISCOVERY (R513). -/
def execDoeDiscovery (index : Nat) (s : State) : Result :=
  if doeRuns s then .next (s.emit (.doe (Config.doeDiscovery index))) else .next s

/-- CDAT (R513, R526): the range as one region, with the bandwidth that the trained link has. -/
def execCdat (handle : Nat) (s : State) : Result :=
  if doeRuns s then .next (s.emit (.doe (Config.cdat handle (s.cfg Ent.hdmBytes) s.host.width s.host.rate))) else .next s

/-- SPDM (R513). -/
def execSpdm (request : Bytes) (s : State) : Result :=
  if !doeRuns s then .next s
  else
    let l := s.sec.doe ++ [request]
    .next ({ s with free := s.free + 1, sec := { s.sec with doe := l } }.emit (.doe (Config.spdmAnswer s.free l)))

/-- IDE_KM (R513). -/
def execIdeKm (request : Bytes) (s : State) : Result :=
  if !doeRuns s then .next s
  else
    let l := s.sec.doe ++ [request]
    .next ({ s with
      free := s.free + 1, sec := { s.sec with doe := l }, host := { s.host with ide := Config.ideStreams l } }.emit (.doe (Config.ideKmAnswer s.free l)))

end Sys2Proof.Machine
end

