-- ==== Sys2Proof/Machine/ResetOps.lean ====
section
/-! DEFINITION. What a reset clears: by domain, by block, and in a cold reset (the table "Effects by level and in Neap", R321,
R353, R494, R535, R546, R617 to R620, R656, R658). The sequencer and the sources are in ResetRows.lean. -/

namespace Sys2Proof.Machine

open Sys2Proof

/-! Entries (R546, R548). -/

def classOf (k : Nat) : Option Class := (findEntry k).map (·.cls)

/-- Entries of class V, kept as written by the node, that report a state rather than count events: they show it again
(R546). -/
def showsState (k : Nat) : Bool :=
  let i := k / 256
  ([Ent.flashReady, Ent.flashRawBytes, Ent.targetsAccepted, Ent.targetsRefused, Ent.rebuildCodewords, Ent.bootState
    , Ent.lastLockTide, Ent.vddCoreMv, Ent.junctionTempC, Ent.railMv, Ent.railAmps, Ent.opticalRxUw, Ent.opticalTxUw
    , Ent.packagePowerW, Ent.latestReport, Ent.firmwareUpdateState, Ent.stagedImageDigest, Ent.stagedFirmwareVersion
    , Ent.stagedSecurityVersion, Ent.railDroopMv, Ent.clusterSlackPs
    , Ent.shoalQueueDelay] : List Nat).contains k
    || (decide (0x8200 ≤ i) && decide (i < 0x8220) && (k % 256 == 1 || k % 256 == 2))

/-- Class V returns to its defaults. -/
def defaultV (s : State) : State :=
  let gone (k : Nat) : Bool := classOf k == some Class.v && !showsState k
  { s with cat := { s.cat with
    vals := s.cat.vals.filter fun p => !gone p.1, waiting := s.cat.waiting.filter fun w => !gone w.key
    history := s.cat.history.filter fun h => !gone h.key } }

/-! Domains. -/

/-- Domain 3: the write lock, the CAP sessions and class V go. A transfer of an image ends: an image being received or
verified is dropped, one being written has failed (R561, R614). -/
def clearManagement (s : State) : State :=
  let writing := match s.sec.rx with
    | some r => r.writing
    | none => false
  let s := defaultV s
  -- R546: counters of class V restart, those of JobMeterCounts with them.
  let s := { s with
    cap := CapUnit.cold, cat := { s.cat with owed := [] }
    strand := { s.strand with meters := s.strand.meters.map fun m => { m with green := 0, yellow := 0, red := 0 } } }
  if s.sec.rx.isNone then s else setRx s none (if writing then 5 else 0)

/-- A port in reset. -/
def resetPort (s : State) (p : Nat) : State :=
  mapPort (clearLink s p) p fun x => { x with state := .disabled, neighbour := 0, faults := 0 }

/-- Domain 4. -/
def clearFabric (s : State) : State := (List.range 6).foldl resetPort s

/-- Write back and drop every cached line of the node. -/
def flushCaches (s : State) : State :=
  (((s.coh.l1.map (·.line)) ++ s.coh.slice.map (·.line)).eraseDups).foldl Coh.flush s

/-- R620: write back some lines within 100 µs. How many of them the time suffices for is a free value; a dirty line that is
left becomes a lost line (R405). -/
def writeBack (s : State) (lines : List Nat) : State :=
  let ls := lines.eraseDups
  let (v, s) := s.drawFree
  let n := v % (ls.length + 1)
  (ls.drop n).foldl loseLine ((ls.take n).foldl Coh.clean s)

/-- The lines held dirty in an L1 that `p` picks, or in a slice whose cluster `q` picks. -/
def dirtyLines (s : State) (p q : Nat → Bool) : List Nat :=
  ((s.coh.l1.filter fun x => p x.core && (x.st == .m || x.st == .o)).map (·.line))
    ++ (s.coh.slice.filter fun x => x.dirty && q (Coh.homeCluster s x.line)).map (·.line)

/-- R321: every unit is reset and every bank queue emptied, without a completion record. Refresh is not affected. -/
def resetBank (b : Bank) : Bank :=
  { b with queue := [], running := false, acc := List.replicate 1024 0, regs := List.replicate 8 0, staged := [], recent := [], waited := 0 }

/-- The pages that the sketch scans in the bank queues hold for their output are free again. -/
def freeScans (s : State) (banks : List Bank) : State :=
  freeFixedPages s (banks.flatMap fun b => b.queue.filterMap fun q => q.scan.bind (·.page))

/-- R658: every query led here ends with ABORTED_DISABLED, one that was accepted and still waits among them, and every
fragment served here ends without a reply. -/
def endSearch (s : State) : State :=
  let s := endQueries s (fun _ => true) St.aborted
  let s := (s.host.cmds.filter fun c => c.accepted.isSome && !c.started && c.opcode == 0x01).foldl (fun s c => s.refuse c.id St.aborted) s
  { s with qry := { s.qry with frags := [] } }

/-- Domain 7. The runs end without outputs (R353); their commands complete where the host link still stands (R534). -/
def clearClusters (s : State) : State :=
  let s := Coh.dropOutside (writeBack s (dirtyLines s (fun _ => true) fun _ => true)) fun _ => true
  let s := freeScans (endSearch (endRuns s (fun _ => true) St.aborted)) s.nb.banks
  { s with
    coh := { s.coh with l1 := [], slice := [], dirs := [], busy := [] }
    nb := { s.nb with banks := s.nb.banks.map resetBank, answer := none, issues := [] }
    rst := { s.rst with slack := [] } }

/-- R614: an image being written is abandoned. -/
def failWriting (s : State) : State := match s.sec.rx with
  | some r => if r.writing then setRx s none 5 else s
  | none => s

/-- Domain 8 (R494). -/
def clearFlash (s : State) : State := failWriting { s with flash := Flash.abandon s.flash }

/-- R277: moves end; the source stays current. -/
def cancelMoves (s : State) : State := s.mem.moves.foldl (fun s v => (cancelMove s v).bump Ent.cancelledMoves) s

/-- What a reset of one domain short of a cold reset clears. -/
def clearDomain (s : State) (d : Nat) : State :=
  match d with
  | 3 => clearManagement s
  | 4 => clearFabric s
  | 6 => cancelMoves s
  | 7 => clearClusters s
  | 8 => clearFlash s
  | 9 => loseLink s
  | _ => s

/-- R618: the domains that a reset reaches, in the order in which they are cleared: the host link first, so that work which
ends with it writes no completion (R534), and management last. -/
def reached (level domain : Nat) : List Nat :=
  match level with
  | 0 => [1, 2, 3, 4, 5, 6, 7, 8, 9]
  | 1 => [9, 7, 8, 6, 4, 3]
  | 2 => [domain]
  | _ => []

/-! Blocks (R618, R623, R628). -/

def blockKind (b : Nat) : Nat := b / 2 ^ 24
def blockInst (b : Nat) : Nat := b % 2 ^ 24

/-- R494 for one channel. -/
def abandonChannel (u : FlashUnit) (c : Nat) : FlashUnit :=
  let here := { u with
    programs := u.programs.filter fun p => p.chan == c, erases := u.erases.filter fun e => e.chan == c
    reads := u.reads.filter fun r => r.at_.chan == c }
  let done := Flash.abandon here
  { done with
    programs := u.programs.filter fun p => p.chan != c, erases := u.erases.filter fun e => e.chan != c
    reads := u.reads.map fun r => if r.at_.chan == c then { r with active := false } else r }

/-- The lines of an L1. -/
def flushCore (s : State) (core : Nat) : State :=
  let s := writeBack s (dirtyLines s (fun c => c == core) fun _ => false)
  { s with coh := { s.coh with l1 := s.coh.l1.filter fun x => x.core != core } }

/-- The lines of a cluster's L1s and of its slice; the slice starts empty. -/
def flushCluster (s : State) (k : Nat) : State :=
  let s := writeBack s (dirtyLines s (fun c => c / 16 == k) fun h => h == k)
  let away (l : Nat) : Bool := Coh.homeCluster s l == k
  let gone := (s.coh.dirs.filter fun d => away d.line).map (·.line)
  -- The copies that a dropped directory entry names are recalled (R404).
  let s := gone.foldl (fun s l => Coh.flush s l) s
  let s := { s with coh := { s.coh with l1 := s.coh.l1.filter fun x => x.core / 16 != k, slice := s.coh.slice.filter fun x => !away x.line } }
  Coh.dropOutside s fun h => h == k

/-- What a block reset clears. A reset of a core, cluster or near-bank unit is one that R321 lists, so it ends the runs (R353) and
the queries led and fragments served (R658). -/
def clearBlock (s : State) (b : Nat) : State :=
  let i := blockInst b
  match blockKind b with
  | 1 => flushCore s i
  | 2 => flushCluster s i
  | 3 => endSearch (endRuns (Nb.mapBank (freeScans s [Nb.bank s i]) i resetBank) (fun _ => true) St.aborted)
  | 4 => { s with flash := abandonChannel s.flash i }
  | 5 => mapPort (clearLink s i) i fun x => { x with state := startState s i }
  | _ => s

/-! The Tide unit at a warm reset (R656). -/

/-- R42: the first count of a master that starts. -/
def firstCount (s : State) : Nat := max (s.cfg Ent.tideStartCount) (s.num Ent.tideHighWater + 65536)

/-- A master that starts: it waits for its first boundary, whose count this is (R41, R42). -/
def startMaster (s : State) : State :=
  { s with tide := { TideUnit.cold with
    running := true, master := true, periodNs := s.cfg Ent.tidePeriodNs, delayNs := s.cfg Ent.tideInDelayNs
    conflictFault := s.tide.conflictFault } }

def warmTide (s : State) : State :=
  let t := s.tide
  let master := s.cfg Ent.tideRole == 1
  let period := s.cfg Ent.tidePeriodNs
  let delay := s.cfg Ent.tideInDelayNs
  if !t.running then s
  else if master == t.master then { s with tide := { t with nextPeriod := some (period, delay) } }
  else if master then
    if t.state = .acquiring then startMaster s
    else
      let s := { s with tide := { t with
        master := true, periodNs := period, delayNs := delay, implied := none, beacons := [], beaconAdopt := none } }
      s.lockAt t.count
  else
    { s with tide := { t with
      master := false, nextPeriod := some (period, delay), state := .holdover, goodRun := 0, periodRun := 0
      anyEdge := false, ignoredNs := 0, placedNs := 0, made := 0, missedRun := 0, intervals := [], measuredNs := 0, symbols := [], implied := none, beacons := [], beaconAdopt := none } }

/-! A cold reset (R619). -/

/-- R494 without power: buffers in stack memory are lost, and what was in flight leaves its block closed. -/
def coldFlash (u : FlashUnit) : FlashUnit :=
  let erasing : List (Nat × Nat) := u.erases.map fun e => (e.chan, e.block)
  let fix (b : Block) : Block :=
    if b.stage = .retired then b
    else if erasing.contains (b.chan, b.num) then { b with stage := .closed, flushedCws := 0, cws := [] }
    else if b.stage = .open_ ∨ b.stage = .erasing then { b with stage := .closed } else b
  { u with
    enumerated := false, rebuild := .none, chans := u.chans.map fun c => { c with writes := [], copies := [], logs := [] }, blocks := u.blocks.map fix
    map := [], mapPages := [], flush := none, programs := [], erases := [], relocs := [], reads := [], done := [], windowEnd := 0, urgent := [], urgentTide := false, queue := [], retirements := [] }

/-- The catalogue of a cold reset before the boot ROM has read a copy. The values that the node maintains stay until then, for the
counts that go on meanwhile (R582, R626). -/
def coldCat (c : CatUnit) : CatUnit :=
  { c with vals := c.vals.filter fun p => maintainedP p.1, waiting := [], history := [], tw := [], owed := [], published := none }

/-- R270, R378: no berth page stays, Parked pages and the home's records do. -/
def coldBerth (u : BerthUnit) : BerthUnit :=
  { u with owned := [], heldRecords := [], refused := [], answers := [], held := [], recordPages := [], homes := u.homes.map fun h => { h with waits := [] } }

def coldRel (u : RelUnit) : RelUnit :=
  let u := (u.tests.filter fun t => t.begun && isRowUnit t.unit).foldl (fun u t => u.unmapRow t.unit t.place) u
  { u with tests := [], transients := [], passed := [], signed := [], avoided := [], droop := [], slack := [], marginFrom := 0, logged := [] }

/-- The lanes that have failed stay failed (R427, R577). -/
def coldStrand (u : StrandUnit) : StrandUnit :=
  { StrandUnit.cold with ports := u.ports.map fun p => { Port.cold with failed := p.failed, spareUsed := p.spareUsed, fourLanes := p.fourLanes } }

/-- What a cold reset clears. The P values that the node maintains have been written as they changed. -/
def clearAll (s : State) : State :=
  let s := keepMaintained s
  { s with
    tide := TideUnit.cold, cat := coldCat s.cat, cap := CapUnit.cold, log := { s.log with ring := [] }, pwr := PowerUnit.cold
    strand := coldStrand s.strand, host := HostUnit.cold
    idx := { IndexUnit.cold with
      closings := s.idx.closings, openings := s.idx.openings
      changeLog := s.idx.changeLog, directory := s.idx.directory }
    qry := QueryUnit.cold, chg := ChangeUnit.cold, mem := { MemUnit.cold with retired := s.mem.retired }, coh := CohUnit.cold
    nb := { NbUnit.cold with banks := (s.nb.banks.filter (·.emulated)).map fun b => { Nb.fresh b.id with emulated := true } }
    flash := coldFlash s.flash, gph := GraphUnit.cold, berth := coldBerth s.berth
    tbl := { TableUnit.cold with closings := s.tbl.closings, openings := s.tbl.openings }, rel := coldRel s.rel
    sec := { s.sec with keysPending := [], running := [], rx := none, trng := 0, trngSince := 0, doe := [] }
    rst := { s.rst with
      released := [], pause := .firmware, romStarting := false, recovery := false, identityFault := false, requested := none
      quiesceNext := [], quiescing := [], quiesced := [], drains := [], slack := [], hot := false, alert := false } }

/-! Assertion. -/

/-- R636: a reset ends Neap and the entry to it. -/
def endNeap (s : State) : State :=
  if s.rst.powerState = 0 then s
  else { s with rst := { s.rst with powerState := 0, neapFrom := 0 } }.setNum Ent.neapExitCause 3

/-- Clear what a reset reaches; its domains are in reset. -/
def clearFor (s : State) (c : Cause) : State :=
  if c.level = 0 then clearAll s
  else if c.level = 3 then clearBlock s c.block
  else
    let ds := reached c.level c.domain
    let s := if c.level = 1 then warmTide (comeInForce s [.warm]) else s
    let s := ds.foldl clearDomain s
    { s with rst := { s.rst with released := s.rst.released.filter fun d => !ds.contains d } }

/-- The reset that is asserted or whose release sequence runs. -/
def currentReset (s : State) : Option Cause := match s.rst.asserted with
  | some c => some c
  | none => if s.rst.toRelease.isEmpty then none else s.rst.running

/-- R624: a reset source asserts. -/
def assertReset (s : State) (c : Cause) : State :=
  let c := { c with tide := if s.tide.state = .locked then s.now else 0 }
  let go (s : State) : State :=
    let s := clearFor (endNeap s) c
    { s with rst := { s.rst with asserted := some c, running := none, toRelease := [] } }
  match currentReset s with
  | none => go s
  | some o =>
    if c.level < o.level then go s
    else if s.rst.asserted.isSome ∧ c.level = o.level ∧ c.source < o.source then
      { s with rst := { s.rst with asserted := some c } }
    else s

end Sys2Proof.Machine
end

