-- ==== Sys2Proof/Machine/BootRows.lean ====
section
/-! DEFINITION. Bring-up after a cold reset: the boot ROM (R598, R607, R610, R611), the start of the firmware (R434, R358,
R261, R247), the end of the Curator's rebuild (R489, R548, R607). -/

namespace Sys2Proof.Machine

open Sys2Proof

/-! P values (R548, R607). -/

/-- The valid boot copy with the higher write count. -/
def bootChoice (c : CatUnit) : Option BootCopy :=
  if c.bootA.valid ∧ (!c.bootB.valid ∨ c.bootB.writes ≤ c.bootA.writes) then some c.bootA
  else if c.bootB.valid then some c.bootB else none

/-- A maintained value that has changed since the cold reset, and EventSeqNext, which never repeats (R582), are not taken back. -/
def movedOn (s : State) (k : Nat) : Bool :=
  k == Ent.eventSeqNext || (maintainedP k && (s.cat.vals.lookup k).getD (dfltOf k) != ((newestCopy s.cat).vals.lookup k).getD (dfltOf k))

/-- The ROM takes the P values of the chosen copy, or their defaults; without a copy, event 0x14. -/
def loadBoot (s : State) : State :=
  let took (vals : List (Nat × Val)) : CatUnit :=
    (vals.filter fun p => !movedOn s p.1).foldl (fun c p => c.put p.1 p.2)
      { s.cat with vals := s.cat.vals.filter fun p => !maintainedP p.1 || movedOn s p.1 }
  match bootChoice s.cat with
  | some b => { s with cat := { took b.vals with bootRetry := false } }
  | none => { s with cat := took [] }.logEvent 0x14 Oc.info St.ok 0 nodeUnit (max s.cat.bootA.writes s.cat.bootB.writes)

/-- Adopt one region 5 value: it waits for the moment that its Meaning names (R548, R39). -/
def adopt (s : State) (f : FlashVal) : State :=
  let old := s.cat.inForce f.key
  let m := match findEntry f.key with
    | some e => e.moment
    | none => .once
  let waits := s.cat.waiting.any fun w => w.key == f.key
  let s := s.setVal f.key f.val
  if m = .once ∨ waits then s else { s with cat := { s.cat with waiting := s.cat.waiting ++ [(⟨f.key, old, m, s.now⟩ : InForce)] } }

/-- R548, R607: after the rebuild, region 5 values newer than the copy that was loaded; a copy is written with them, or both
where neither was valid, and then a cold reset is asserted once. -/
def adoptRegion5 (s : State) : State :=
  let loaded := bootChoice s.cat
  let base := match loaded with
    | some b => b.vals
    | none => []
  let stands (f : FlashVal) : Bool := !maintainedP f.key || (f.key != Ent.eventSeqNext
    && (s.cat.vals.lookup f.key).getD (dfltOf f.key) == (base.lookup f.key).getD (dfltOf f.key))
  let newer := (match loaded with
    | some b => s.cat.region5.filter fun (f : FlashVal) => decide (b.writes < f.writes)
    | none => s.cat.region5).filter stands
  let s := newer.foldl adopt s
  let s := s.setNum Ent.catalogueWrites ((newer.map (·.writes)).foldl max (s.num Ent.catalogueWrites))
  let copy : BootCopy := ⟨true, s.num Ent.catalogueWrites, bootVals s⟩
  match loaded with
  | some _ =>
    if newer.isEmpty then s
    else if s.cat.bootA.valid && (!s.cat.bootB.valid || decide (s.cat.bootB.writes < s.cat.bootA.writes)) then { s with cat := { s.cat with bootB := copy } }
    else { s with cat := { s.cat with bootA := copy } }
  | none =>
    let first := !s.cat.bootRetry
    let s := { s with cat := { s.cat with bootA := copy, bootB := copy, bootRetry := true } }
    if first then assertReset s ⟨6, 0, 0, 0, 0, 0⟩ else s

/-! The boot ROM (R619). -/

/-- Bit 0 of StrapsSampled. -/
def strapRecovery (s : State) : Bool := bit (s.num Ent.strapsSampled) 0

/-- The boot ROM's three steps, once domain 6 has been released in a cold reset. -/
def bootRom (s : State) : State :=
  if digest64 Config.identityModulus ≠ Config.identityKeyDigest then
    { s with rst := { s.rst with identityFault := true, alert := true, toRelease := [] } }
  else
    let s := loadBoot s
    if !strapRecovery s ∧ firmwareVerdict s s.sec.image = St.ok then
      { s with sec := { s.sec with running := s.sec.image }, rst := { s.rst with romStarting := true } }
    else { s with rst := { s.rst with recovery := true } }

/-! The firmware starts. -/

/-- R434: node ID and torus size. -/
def takeNodeId (s : State) : State :=
  let id := s.cfg Ent.nodeId
  let x := s.cfg Ent.dimX
  let y := s.cfg Ent.dimY
  let z := s.cfg Ent.dimZ
  { s with strand := { s.strand with
    nodeId := id, dimX := x, dimY := y, dimZ := z
    coordFault := decide (x ≤ coord id 0) || decide (y ≤ coord id 1) || decide (z ≤ coord id 2) } }

/-- R112: the records of shoals that the map gave away before a cold reset. The reset ended all work that could still need
them. -/
def dropStrayShoals (s : State) (c : Nat) : State :=
  let p := s.params c
  let held := (s.idx.records.filter fun r => r.collId == s.cfg (Ent.collCollectionId c)).map fun r => shoalOf p r.id
  let logged := (s.idx.changeLog.filter fun e => e.coll == c).map (·.shoal)
  ((held ++ logged).eraseDups.filter fun sh => (Index.findCopy s.idx c sh).isNone).foldl (fun s sh => dropCopy s c sh) s

/-- R247: every shoal copy that the maps of Open and Closing collections give this node starts Filling. -/
def coldCopies (s : State) : State :=
  ((List.range 256).filter fun c => s.collState c == 2 || s.collState c == 3).foldl (fun s c =>
    (mapHere s (s.cfgB (Ent.collShoalMap c))).foldl (fun s m =>
      if (Index.findCopy s.idx c m.1).isSome then s
      else
        let s := newCopy s c m.1 m.2 .filling
        { s with idx := Index.mapCopy s.idx c m.1 fun p => { p with cold := true } }) s) s

/-- R610: the security floor rises with an image that says so. -/
def raiseFloor (s : State) : State :=
  let b := s.sec.running
  if imageRaises b ∧ s.num Ent.securityFloor < imageSecurity b then s.setNum Ent.securityFloor (imageSecurity b) else s

/-- FIRMWARE_IMAGE_STARTED (R619). -/
def execFirmwareImageStarted (s : State) : Result :=
  if !s.rst.romStarting then .next s
  else
    let s := raiseFloor { s with rst := { s.rst with romStarting := false, pause := .none } }
    let s := takeNodeId s
    let s := { s with mem := { s.mem with exported := s.cfg Ent.exportBytes / 65536 } }
    let s := s.rel.deadClusters.foldl Coh.passSlots s
    .next (coldCopies (startPorts s))

/-- REBUILD_DONE (R489, R491, R492, R247, R548, R607): the rebuild has read what it needs. -/
def execRebuildDone (s : State) : Result :=
  if !flashRuns s || s.flash.rebuild != .records || Flash.scanning s.flash then .next s
  else
    let found := scanRecords s
    let read (l : Nat) : Bool := ((s.flash.map.lookup l).bind (Flash.scanOf s.flash)).isSome
    let s := { s with idx := { s.idx with
      records := found.map FoundRec.item, found := found
      directory := s.idx.directory.filter fun e => read e.codeword
      changeLog := s.idx.changeLog.filter fun e => read e.codeword } }
    let s := { s with flash := { Flash.forgetScans s.flash with rebuild := .none } }.setNum Ent.flashReady 1
    let s := adoptRegion5 (s.berth.homes.foldl (fun s h => (Berth.recordPage s h.num).getD s) s)
    if !s.mgmt then .next s
    else
      let s := coldCopies s
      let s := ((List.range 256).filter fun c => s.collState c == 2 || s.collState c == 3).foldl dropStrayShoals s
      .next ((s.idx.copies.filter fun (p : ShoalCopy) => p.cold).foldl askFill s)

end Sys2Proof.Machine
end

