-- ==== Sys2Proof/Machine/CapRows.lean ====
section
/-! DEFINITION. The commands that carry one CAP request. Each serves the requests that the table gives its row; another
request is another command, and leaves the state as it is. -/

namespace Sys2Proof.Machine

open Sys2Proof

/-- Which row of the table a request belongs to. -/
inductive CapKind where
  | collId | collOpen | collClose | shoalMap | tableId | tableOpen | tableClose
  | read | readPending | write | lock | lockForce | unlock | describe
  | nonce | provenance | events
  | createKey | destroy | registerKey | removeKey
  | fence | unfence | expel | reinstate | setFaultKeys | faultKeys
  | reset (level : Nat) | quiesce | functionDisable | functionEnable | neap | active | selfTest | image
  deriving DecidableEq, Repr

/-- The bytes of a request with the segments staged before it. -/
def wholeSoFar (s : State) (r : CapReq) : Bytes :=
  if r.offset = 0 then r.data else (((session s r).bind (·.staged)).map (·.data)).getD [] ++ r.data

/-- A write of a TW control or request entry, by its value. -/
def controlKind (sub v : Nat) (open_ close : CapKind) : CapKind := if sub = 0x0F then (if v = 1 then open_ else close) else .write

def keyKind (op : Nat) : CapKind := if op = 1 then .createKey else if op = 2 then .destroy else if op = 3 then .registerKey else if op = 4 then .removeKey else .write

def signedKind (cmd : Nat) : CapKind :=
  if cmd = 1 then .fence else if cmd = 2 then .unfence else if cmd = 3 then .expel else if cmd = 4 then .reinstate
  else if cmd = 5 then .setFaultKeys else .write

/-- A write of FunctionEnable disables where it clears a bit that is set (R630). -/
def functionKind (s : State) (v : Nat) : CapKind :=
  if (List.range 5).any fun i => bit (s.num Ent.functionEnable) i && !bit v i then .functionDisable else .functionEnable

def writeKind (s : State) (r : CapReq) : CapKind :=
  let i := r.index
  let v := leNat r.data
  let first := field r.data 0 1
  if 0x4100 ≤ i ∧ i < 0x4200 then (if r.sub = 1 then .collId else controlKind r.sub v .collOpen .collClose)
  else if 0x4300 ≤ i ∧ i < 0x4400 ∧ r.sub = 1 then .shoalMap
  else if 0x6500 ≤ i ∧ i < 0x6600 then (if r.sub = 1 then .tableId else controlKind r.sub v .tableOpen .tableClose)
  else if r.key = Ent.provenanceNonce then .nonce
  else if r.key = Ent.keyCommand then keyKind first
  else if r.key = Ent.faultKeys then .faultKeys
  else if r.key = Ent.resetRequest then (if first ≤ 3 then .reset first else .write)
  else if r.key = Ent.blockQuiesce then .quiesce
  else if r.key = Ent.functionEnable then functionKind s v
  else if r.key = Ent.powerStateRequest then (if v = 2 then .neap else if v = 0 then .active else .write)
  else if r.key = Ent.selfTestRequest then .selfTest
  else .write

def capKind (s : State) (r : CapReq) : CapKind :=
  if r.op = Cap.read then
    if r.pendingFlag then .readPending
    else if r.key = Ent.provenanceRecord then .provenance
    else if r.key = Ent.eventRecords then .events
    else .read
  else if r.op = Cap.lock then (if r.forceFlag then .lockForce else .lock)
  else if r.op = Cap.unlock then .unlock
  else if r.op = Cap.describe then .describe
  else if r.op = Cap.signed then signedKind (field (wholeSoFar s r) 4 1)
  else if r.op = Cap.image then .image
  else if r.op = Cap.write then writeKind s r
  else .write

/-- Serve a request as a command of one row. -/
def capRow (s : State) (k : CapKind) (r : CapReq) : State := if capKind s r = k then handleCap s r else s

/-- COLLECTION_ID_WRITE (R109). -/
def execCollectionIdWrite (req : CapReq) (s : State) : Result := .next (capRow s .collId req)

/-- COLLECTION_OPEN (R110). -/
def execCollectionOpen (req : CapReq) (s : State) : Result := .next (capRow s .collOpen req)

/-- COLLECTION_CLOSE (R111). -/
def execCollectionClose (req : CapReq) (s : State) : Result := .next (capRow s .collClose req)

/-- SHOAL_MAP_WRITE (R112). -/
def execShoalMapWrite (req : CapReq) (s : State) : Result := .next (capRow s .shoalMap req)

/-- TABLE_ID_WRITE (R381). -/
def execTableIdWrite (req : CapReq) (s : State) : Result := .next (capRow s .tableId req)

/-- TABLE_OPEN (R381). -/
def execTableOpen (req : CapReq) (s : State) : Result := .next (capRow s .tableOpen req)

/-- TABLE_CLOSE (R381). -/
def execTableClose (req : CapReq) (s : State) : Result := .next (capRow s .tableClose req)

/-- CAP_READ (R559). -/
def execCapRead (req : CapReq) (s : State) : Result := .next (capRow s .read req)

/-- CAP_READ_PENDING (R542). -/
def execCapReadPending (req : CapReq) (s : State) : Result := .next (capRow s .readPending req)

/-- CAP_WRITE (R541): an entry with no row of its own; a reserved Op is refused as an unknown entry. -/
def execCapWrite (req : CapReq) (s : State) : Result := .next (capRow s .write req)

/-- LOCK (R561). -/
def execLock (req : CapReq) (s : State) : Result := .next (capRow s .lock req)

/-- LOCK_FORCE (R562). -/
def execLockForce (req : CapReq) (s : State) : Result := .next (capRow s .lockForce req)

/-- UNLOCK (R561). -/
def execUnlock (req : CapReq) (s : State) : Result := .next (capRow s .unlock req)

/-- DESCRIBE (R549). -/
def execDescribe (req : CapReq) (s : State) : Result := .next (capRow s .describe req)

/-- LOCK_EXPIRY (R561, R614). -/
def execLockExpiry (s : State) : Result := .next (if capUp s then expireLock s else s)

/-- SNAPSHOT_EXPIRY (R559). -/
def execSnapshotExpiry (s : State) : Result := .next (if capUp s then expireSnapshots s else s)

/-- PROVENANCE_NONCE_WRITE (R615). -/
def execProvenanceNonceWrite (req : CapReq) (s : State) : Result := .next (capRow s .nonce req)

/-- PROVENANCE_RECORD_READ (R615). -/
def execProvenanceRecordRead (req : CapReq) (s : State) : Result := .next (capRow s .provenance req)

/-- EVENT_RECORDS_READ (R583). -/
def execEventRecordsRead (req : CapReq) (s : State) : Result := .next (capRow s .events req)

/-- CREATE_KEY (R603). -/
def execCreateKey (req : CapReq) (s : State) : Result := .next (capRow s .createKey req)

/-- DESTROY (R605). -/
def execDestroy (req : CapReq) (s : State) : Result := .next (capRow s .destroy req)

/-- REGISTER_GRAPH_KEY (R604). -/
def execRegisterGraphKey (req : CapReq) (s : State) : Result := .next (capRow s .registerKey req)

/-- REMOVE_GRAPH_KEY (R604). -/
def execRemoveGraphKey (req : CapReq) (s : State) : Result := .next (capRow s .removeKey req)

/-- FENCE (R590). -/
def execFence (req : CapReq) (s : State) : Result := .next (capRow s .fence req)

/-- UNFENCE (R590). -/
def execUnfence (req : CapReq) (s : State) : Result := .next (capRow s .unfence req)

/-- EXPEL (R591). -/
def execExpel (req : CapReq) (s : State) : Result := .next (capRow s .expel req)

/-- REINSTATE (R592). -/
def execReinstate (req : CapReq) (s : State) : Result := .next (capRow s .reinstate req)

/-- SET_FAULT_KEYS (R589). -/
def execSetFaultKeys (req : CapReq) (s : State) : Result := .next (capRow s .setFaultKeys req)

/-- SIGNED_COMMAND_EFFECT (R588): accepted signed commands whose boundary has come. -/
def execSignedCommandEffect (s : State) : Result := .next (if s.mgmt then signedEffects s else s)

/-- FAULT_KEYS_WRITE (R589). -/
def execFaultKeysWrite (req : CapReq) (s : State) : Result := .next (capRow s .faultKeys req)

/-- COLD_RESET_REQUEST (R627). -/
def execColdResetRequest (req : CapReq) (s : State) : Result := .next (capRow s (.reset 0) req)

/-- WARM_RESET_REQUEST (R627). -/
def execWarmResetRequest (req : CapReq) (s : State) : Result := .next (capRow s (.reset 1) req)

/-- DOMAIN_RESET_REQUEST (R627). -/
def execDomainResetRequest (req : CapReq) (s : State) : Result := .next (capRow s (.reset 2) req)

/-- BLOCK_RESET_REQUEST (R627). -/
def execBlockResetRequest (req : CapReq) (s : State) : Result := .next (capRow s (.reset 3) req)

/-- BLOCK_QUIESCE (R628). -/
def execBlockQuiesce (req : CapReq) (s : State) : Result := .next (capRow s .quiesce req)

/-- FUNCTION_DISABLE (R630). -/
def execFunctionDisable (req : CapReq) (s : State) : Result := .next (capRow s .functionDisable req)

/-- FUNCTION_ENABLE (R630). -/
def execFunctionEnable (req : CapReq) (s : State) : Result := .next (capRow s .functionEnable req)

/-- NEAP_REQUEST (R633). -/
def execNeapRequest (req : CapReq) (s : State) : Result := .next (capRow s .neap req)

/-- ACTIVE_REQUEST (R635). -/
def execActiveRequest (req : CapReq) (s : State) : Result := .next (capRow s .active req)

/-- SELF_TEST_REQUEST (R571). -/
def execSelfTestRequest (req : CapReq) (s : State) : Result := .next (capRow s .selfTest req)

end Sys2Proof.Machine
end

