-- ==== Sys2Proof/Machine/StrandRows.lean ====
section
/-! DEFINITION. The commands of Strand requests and responses: a frame of one kind that has reached its destination, and
the requester's and responder's timers (13_strand_fabric.md). Messages' segments are in FabricRows.lean. -/

namespace Sys2Proof.Machine

open Sys2Proof

/-- A request frame of one kind: one for this node is served, one that an agent of this node makes for another node is sent. -/
def onRequest (kind : Nat) (f : Frame) (s : State) (go : State → Frame → State) : Result :=
  if !strandRuns s || f.kind != kind then .next s
  else if f.dest = s.strand.nodeId then .next (go s f)
  else if f.src = s.strand.nodeId then .next (originateRequest s f)
  else .next s

/-- STRAND_READ (R448). -/
def execStrandRead (frame : Frame) (s : State) : Result := onRequest Kind.read frame s serveRead

/-- STRAND_WRITE (R451). -/
def execStrandWrite (frame : Frame) (s : State) : Result := onRequest Kind.write frame s serveWrite

/-- STRAND_ATOMIC (R458). -/
def execStrandAtomic (frame : Frame) (s : State) : Result := onRequest Kind.atomic frame s serveAtomic

/-- REGISTER (R452). -/
def execRegister (frame : Frame) (s : State) : Result := onRequest Kind.register frame s serveRegister

/-- UNREGISTER (R453). -/
def execUnregister (frame : Frame) (s : State) : Result := onRequest Kind.unregister frame s serveUnregister

/-- PUBLISH (R454). -/
def execPublish (frame : Frame) (s : State) : Result := onRequest Kind.publish frame s servePublish

/-- INVALIDATE (R456). -/
def execInvalidate (frame : Frame) (s : State) : Result := onRequest Kind.invalidate frame s serveInvalidate

/-- R446: an incomplete message is discarded; one not refused before is answered with RETRY. -/
def messageTimeout (s : State) (m : InMsg) : State :=
  let s := dropIn s m
  if m.refused then s else respond s (messageFrame m) St.retry (s.now + 1) []

/-- MESSAGE_REASSEMBLY_TIMEOUT (R446): 16 Tides after the first segment. -/
def execMessageReassemblyTimeout (src id : Nat) (s : State) : Result :=
  match s.strand.inMsgs.find? fun m => m.src == src && m.id == id with
  | none => .next s
  | some m => if strandRuns s && decide (m.first + 16 ≤ s.now) then .next (messageTimeout s m) else .next s

/-! Responses. -/

/-- A response to an outstanding request of this node. -/
def onResponse (kind : Nat) (f : Frame) (s : State) (go : State → Request → State) : Result :=
  if !strandRuns s || f.kind != kind + 0x80 then .next s
  else match requestOf s f with
    | none => .next s
    | some r => .next (go s r)

/-- READ_RESPONSE (R455). -/
def execReadResponse (frame : Frame) (s : State) : Result := onResponse Kind.read frame s fun s r => readEnds s r frame.status (frame.addr % 2 ^ 48) frame.payload

/-- WRITE_RESPONSE (R451). -/
def execWriteResponse (frame : Frame) (s : State) : Result :=
  onResponse Kind.write frame s fun s r => releaseHeld (endRequest s r frame.status [] (frame.addr % 2 ^ 48))

/-- ATOMIC_RESPONSE (R460). -/
def execAtomicResponse (frame : Frame) (s : State) : Result :=
  onResponse Kind.atomic frame s fun s r =>
    atomicAnswered (endRequest s r frame.status frame.payload (frame.addr % 2 ^ 48)) r frame.status frame.payload

/-- REGISTER_RESPONSE (R452). -/
def execRegisterResponse (frame : Frame) (s : State) : Result :=
  onResponse Kind.register frame s fun s r => registerEnds s r frame.status (frame.addr % 2 ^ 48)

/-- PUBLISH_RESPONSE (R454): the writer's own copies of the range go too. -/
def execPublishResponse (frame : Frame) (s : State) : Result :=
  onResponse Kind.publish frame s fun s r =>
    endRequest (spoilRemote s r.frame.dest r.frame.job r.frame.addr (field r.frame.payload 0 8)) r frame.status frame.payload (frame.addr % 2 ^ 48)

/-- INVALIDATE_RESPONSE (R454): a reader has dropped its lines. -/
def execInvalidateResponse (frame : Frame) (s : State) : Result :=
  if strandRuns s && frame.kind == Kind.invalidate + 0x80 && frame.status == St.ok then .next (readerDone s frame.seq frame.src) else .next s

/-- MESSAGE_RESPONSE (R446). -/
def execMessageResponse (frame : Frame) (s : State) : Result :=
  if !strandRuns s || frame.kind != Kind.message + 0x80 then .next s
  else match messageOut s frame with
    | none => .next s
    | some m => .next (messageAnswered s m frame.status (frame.addr % 2 ^ 48))

/-! Timers. -/

/-- READ_RESEND (R451): 4 Tides without a response. -/
def execReadResend (seq : Nat) (s : State) : Result :=
  match findRequest s seq Kind.read with
  | none => .next s
  | some r =>
    if strandRuns s && !r.held && !requestsHeld s r.frame.cls && decide (r.lastSend + 4 ≤ s.now) then .next (resend s r) else .next s

/-- STRAND_GIVE_UP (R451): a READ or WRITE without a response for 48 Tides. -/
def execStrandGiveUp (seq : Nat) (s : State) : Result :=
  let r := (findRequest s seq Kind.read).orElse fun _ => findRequest s seq Kind.write
  match r with
  | none => .next s
  | some r =>
    if !strandRuns s || r.held || decide (s.now < r.issue + 48) then .next s
    else if r.frame.kind = Kind.read then .next (readEnds s r St.indeterminate 0 [])
    else .next (releaseHeld (endRequest s r St.indeterminate [] 0))

/-- ATOMIC_RESEND (R460): sequence, IssueTide and operands unchanged. -/
def execAtomicResend (seq : Nat) (s : State) : Result :=
  match findRequest s seq Kind.atomic with
  | none => .next s
  | some r =>
    if strandRuns s && !requestsHeld s r.frame.cls && (r.held || decide (s.now < r.issue + 48))
      && (r.held || decide (r.lastSend + s.cfg Ent.atomicRetryTides ≤ s.now)) then .next (resend s r) else .next s

/-- ATOMIC_GIVE_UP (R460): at boundary IssueTide + 48. -/
def execAtomicGiveUp (seq : Nat) (s : State) : Result :=
  match findRequest s seq Kind.atomic with
  | none => .next s
  | some r =>
    if strandRuns s && !r.held && decide (r.issue + 48 ≤ s.now) then
      .next (atomicAnswered ((endRequest s r St.indeterminate [] 0).bump Ent.atomicsIndeterminate) r St.indeterminate [])
    else .next s

/-- INVALIDATE_RESEND (R456): InvalidateResend Tides without an answer of the reader. -/
def execInvalidateResend (seq src : Nat) (s : State) : Result :=
  match s.strand.publishes.find? fun p => p.tag == seq && p.active with
  | none => .next s
  | some p =>
    match p.readers.lookup src with
    | none => .next s
    | some t =>
      if strandRuns s && decide (t + s.cfg Ent.invalidateResend ≤ s.now) then
        let now := s.now
        let again (x : Publish) : Publish :=
          if x.tag = seq then { x with readers := x.readers.map fun (r : Nat × Nat) => if r.1 = src then (r.1, now) else r } else x
        .next (sendInvalidate { s with strand := { s.strand with publishes := s.strand.publishes.map again } } p src)
      else .next s

/-- PUBLISH_GIVE_UP (R456): a writer without a PUBLISH_RESP for 48 Tides. -/
def execPublishGiveUp (seq : Nat) (s : State) : Result :=
  match findRequest s seq Kind.publish with
  | none => .next s
  | some r =>
    if strandRuns s && !r.held && decide (r.issue + 48 ≤ s.now) then .next ((endRequest s r St.indeterminate [] 0).bump Ent.publishesIndeterminate) else .next s

/-- REPLAY_ENTRY_EXPIRY (R459): at boundary E + 64. -/
def execReplayEntryExpiry (s : State) : Result :=
  if s.up 5 then .next { s with strand := { s.strand with replay := s.strand.replay.filter fun r => decide (s.now < r.exec + 64) } } else .next s

end Sys2Proof.Machine
end

