-- ==== Sys2Proof/Machine/FabricRows.lean ====
section
/-! DEFINITION. FRAME_RECEIVED and MESSAGE_SEGMENT: a frame of a link is checked, then forwarded or handed to what its kind
asks for (R430 to R432, R435 to R440, R446, R565). -/

namespace Sys2Proof.Machine

open Sys2Proof

/-- R565: a message of type 0x00F0 that has come whole. A class other than 0 is answered with BAD_JOB, and so are data too
short for a CAP header (R659). A response that waits for an image or for a durable value leaves later, for the same message; without a CAP response it stays unanswered. -/
def serveMirror (s : State) (m : InMsg) (data : Bytes) : State :=
  let f := messageFrame m
  if m.cls ≠ 0 then refuseFrame s f St.badJob 0
  else match (capReqOf (.strand m.src 0) data).map CapReq.unpadded with
    | none => refuseFrame s f St.badJob 0
    | some r =>
      let x := capServe s r
      match x.1 with
      | some resp => answerCap x.2 ⟨r, resp, some f⟩
      | none => { x.2 with sec := { x.2.sec with rx := x.2.sec.rx.map fun i => if i.req == some r then { i with frame := some f } else i } }

/-- MESSAGE_SEGMENT (R446). -/
def execMessageSegment (frame : Frame) (s : State) : Result :=
  if strandRuns s && frame.kind == Kind.message then .next (serveSegment s frame serveMirror) else .next s

/-- A frame for this node: what its kind asks for; a kind that the table "Frame kinds" does not have is dropped. -/
def takeFrame (s : State) (f : Frame) : State :=
  let k := f.kind
  if k = Kind.read then after (execStrandRead f s) s
  else if k = Kind.write then after (execStrandWrite f s) s
  else if k = Kind.atomic then after (execStrandAtomic f s) s
  else if k = Kind.register then after (execRegister f s) s
  else if k = Kind.unregister then after (execUnregister f s) s
  else if k = Kind.publish then after (execPublish f s) s
  else if k = Kind.invalidate then after (execInvalidate f s) s
  else if k = Kind.message then after (execMessageSegment f s) s
  else if k = Kind.read + 0x80 then after (execReadResponse f s) s
  else if k = Kind.write + 0x80 then after (execWriteResponse f s) s
  else if k = Kind.atomic + 0x80 then after (execAtomicResponse f s) s
  else if k = Kind.register + 0x80 then after (execRegisterResponse f s) s
  else if k = Kind.unregister + 0x80 then after (onResponse Kind.unregister f s fun s r => unregisterEnds s r f.status (f.addr % 2 ^ 48)) s
  else if k = Kind.publish + 0x80 then after (execPublishResponse f s) s
  else if k = Kind.invalidate + 0x80 then after (execInvalidateResponse f s) s
  else if k = Kind.message + 0x80 then after (execMessageResponse f s) s
  else s

/-- FRAME_RECEIVED (R430). -/
def execFrameReceived (port link : Nat) (frame : Frame) (headerCrc frameCrc : Nat) (fecLost : Bool) (s : State) : Result :=
  if !portIn s port .up then .next s
  else
    let x := linkReceive s port link frame headerCrc frameCrc fecLost
    let broken := headerCrc == frame.headerCrc && link == (s.port port).rxSeq
      && (fecLost || (frameCrc != frame.crc && frameCrc != 2 ^ 32 - 1 - frame.crc))
    if !x.1 then .next (if broken && frame.dest != s.strand.nodeId then stompForward x.2 port frame else x.2)
    else if frame.dest ≠ s.strand.nodeId then .next (forwardFrame x.2 port frame)
    else .next (takeFrame (returnCredits x.2 frame (some ⟨port, frame.cls, frame.vc⟩)) frame)

end Sys2Proof.Machine
end

