-- ==== Sys2Proof/Machine/ResetRows.lean ====
section
/-! DEFINITION. The commands of reset sources, the sequencer, block quiescing, test port (19_reset_power.md R620 to R629,
20_electrical.md R642 to R650). -/

namespace Sys2Proof.Machine

open Sys2Proof

/-! Sources (R621). -/

/-- R643: a power-on reset. Without rails or clocks nothing of a running sequence is left that could absorb it, so R624 does
not judge it (DEDUCED, notes/assumptions/40.md). -/
def powerReset (s : State) : State :=
  let s := clearAll (endNeap s)
  { s with rst := { s.rst with asserted := some ⟨1, 0, 0, 0, 0, 0⟩, running := none, toRelease := [] } }

/-- POWER_ON (R621): `copyA` and `copyB` say which boot copies still verify: one that was being written at the power loss does
not (R607). -/
def execPowerOn (copyA copyB : Bool) (s : State) : Result :=
  let s := powerReset s
  let spoil (b : BootCopy) (ok : Bool) : BootCopy := { b with valid := b.valid && ok }
  .next { s with
    cat := { s.cat with bootA := spoil s.cat.bootA copyA, bootB := spoil s.cat.bootB copyB }
    rst := { s.rst with railsGood := true, thermTrip := false } }

/-- RESET_N_LOW (R622): low for 100 cycles. -/
def execResetNLow (s : State) : Result :=
  let s := assertReset s ⟨2, 0, 0, 0, 0, 0⟩
  .next { s with rst := { s.rst with resetN := false } }

/-- A power-on reset is asserted. -/
def inPowerOn (s : State) : Bool := match s.rst.asserted with
  | some c => c.source == 1
  | none => false

/-- RESET_N_RISE (R642). A rise without 100 cycles of low before it ends a pulse that the filter ignores (R622); EXTEST, CLAMP
and HIGHZ act only while the pin is low (R650). -/
def execResetNRise (s : State) : Result :=
  if s.rst.resetN then .next (if inPowerOn s then s else s.bump Ent.resetGlitches)
  else
    let t := match s.rst.tap with
      | .extest => Tap.bypass
      | .clamp => .bypass
      | .highz => .bypass
      | t => t
    .next { s with rst := { s.rst with resetN := true, tap := t } }

/-- RAIL_UNDERVOLTAGE (R643): THERMTRIP_N is released once VDD_STBY33, rail 6, falls (R652). -/
def execRailUndervoltage (rail : Nat) (s : State) : Result :=
  let s := powerReset s
  .next { s with rst := { s.rst with railsGood := false, thermTrip := s.rst.thermTrip && rail != 6 } }

/-- CLOCK_STOP (R643). -/
def execClockStop (s : State) : Result := .next (powerReset s)

/-- WATCHDOG_EXPIRY (R621). -/
def execWatchdogExpiry (s : State) : Result := if s.mgmt then .next (assertReset s ⟨3, 1, 0, 0, 0, 0⟩) else .next s

/-- RESET_ASSERT (R627): at the boundary after the accepted write, or in Acquiring once its time has passed. -/
def execResetAssert (s : State) : Result :=
  match s.rst.requested with
  | none => .next s
  | some c =>
    if s.mgmt && (c.tide != s.now || s.tide.state == .acquiring) then
      .next (assertReset { s with rst := { s.rst with requested := none } } c)
    else .next s

/-! The release point (R620, R625, R642, R648). -/

/-- The 16 bytes of LastResetCause. -/
def causeBytes (c : Cause) : Bytes :=
  leBytes 1 c.source ++ leBytes 1 c.level ++ leBytes 1 c.domain ++ [0] ++ leBytes 4 (if c.source = 5 then c.requester else c.block) ++ leBytes 6 c.tide ++ [0, 0]

/-- ResetCounts with one more at a level. -/
def countReset (s : State) (level : Nat) : State :=
  let l := (List.range 4).map fun i => field (s.cfgB Ent.resetCounts) (4 * i) 4 + if i = level then 1 else 0
  s.setVal Ent.resetCounts (.b (l.flatMap (leBytes 4)))

/-- The unit whose targeted test is the block's (R628); none for a channel engine, which the table of R571 gives no test. -/
def blockUnit (b : Nat) : Option Nat :=
  let i := blockInst b
  match blockKind b with
  | 1 => some (unitId 1 i)
  | 2 => some (unitId 2 i)
  | 3 => some (unitId 7 i)
  | 5 => some (unitId 8 (i * 16))
  | _ => none

/-- R628: a block returns to service. -/
def unquiesce (s : State) (b : Nat) : State := { s with rst := { s.rst with quiesced := s.rst.quiesced.filter (· != b) } }

/-- The end of a block reset. -/
def testBlock (s : State) (b : Nat) : State := match blockUnit b with
  | some u => startTest s u (if blockKind b = 2 then clusterLogic else 0) [] false true
  | none => unquiesce s b

/-- R648: the straps of a cold reset. -/
def sampleStraps (s : State) (straps : Nat) : State :=
  let s := s.setNum Ent.strapsSampled (straps % 16)
  if straps / 4 % 4 ≠ 0 then { s with rst := { s.rst with pause := .strap, alert := true } } else s

/-- RELEASE_POINT (R642): rails and clocks are back; RESET_N must have risen where it is the source. -/
def execReleasePoint (straps : Nat) (s : State) : Result :=
  match s.rst.asserted with
  | none => .next s
  | some c =>
    if !s.rst.resetN ∧ c.source ≤ 2 then .next s
    else
      let s := (countReset s c.level).setVal Ent.lastResetCause (.b (causeBytes c))
      let s := if c.level = 0 then sampleStraps s straps else s
      let todo := [1, 2, 3, 4, 5, 6, 7, 8, 9].filter fun d => !s.rst.released.contains d
      let s := { s with rst := { s.rst with asserted := none, running := some c, toRelease := todo, railsGood := true } }
      .next (if c.level = 3 then testBlock s c.block else s)

/-! The sequencer (R618, R619, R626, R649). -/

/-- The pause that stands lets a domain go. -/
def mayRelease (s : State) (d : Nat) : Bool := match s.rst.pause with
  | .none => true
  | .strap => d == 1
  | .firmware => decide (d ≤ 6) || (s.rst.recovery && d == 9)
  | .thermal => decide (d < 7)

/-- R640: three commands without an answer; the setpoint stays as last written. -/
def loseAvs (s : State) : State := ({ s with pwr := { s.pwr with avsLost := true } }).bump Ent.avsFaults

/-- R640: the management domain takes the regulator, which starts at 0.80 V. -/
def takeAvs (s : State) (fails : Bool) : State :=
  let s := if s.num Ent.vddCoreMv = 0 then s.setNum Ent.vddCoreMv 800 else s
  if fails then loseAvs s else s

/-- What a domain's release brings. -/
def releaseWork (s : State) (d : Nat) (avsFails : Bool) : State :=
  let cold := s.rst.pause == .firmware && (match s.rst.running with
    | some c => c.level == 0
    | none => false)
  match d with
  | 2 => { s with sec := { s.sec with trng := 0, trngSince := s.now } }
  | 3 =>
    let s := takeAvs s avsFails
    if s.mgmt && s.hasCount then makeOverdue s else s
  | 4 => if cold then s else startPorts s
  | 6 => if cold then bootRom s else s
  | 8 => if s.rst.powerState = 3 then { s with rst := { s.rst with neapFrom := s.now } } else s
  | _ => s

/-- DOMAIN_RELEASE (R618). -/
def execDomainRelease (avsFails : Bool) (s : State) : Result :=
  if s.rst.asserted.isSome then .next s
  else match s.rst.toRelease.find? (mayRelease s) with
    | none => .next s
    | some d =>
      let left := s.rst.toRelease.filter (· != d)
      let s := { s with rst := { s.rst with toRelease := left, released := s.rst.released ++ [d] } }
      let s := releaseWork s d avsFails
      .next (if s.rst.toRelease.isEmpty then { s with rst := { s.rst with running := none } } else s)

/-! Junction temperatures (R626, R651 to R653). -/

/-- R651: ALERT_N is driven. -/
def setAlert (s : State) : State :=
  { s with rst := { s.rst with alert := s.rst.hot || s.rst.identityFault || s.rst.pause == .strap } }

/-- A cold reset by temperature: its release pauses until the junctions are below 95 °C. -/
def thermalReset (s : State) : State :=
  let s := assertReset s ⟨4, 1, 0, 0, 0, 0⟩
  match s.rst.asserted with
  | some c => if c.source = 4 ∧ s.rst.pause = .none then { s with rst := { s.rst with pause := .thermal } } else s
  | none => s

/-- JUNCTION_SENSOR_READ (R653): the reading of each die. -/
def execJunctionSensorRead (temps : List Nat) (s : State) : Result :=
  if !s.up 1 then .next s
  else
    let ts := (List.range 6).map fun i => min 255 (temps.getD i 0)
    let top := ts.foldl max 0
    let most := (s.cfgB Ent.maxJunctionC)
    let s := s.setVal Ent.junctionTempC (.b (ts.map (BitVec.ofNat 8)))
    let s := s.setVal Ent.maxJunctionC (.b ((List.range 6).map fun i => BitVec.ofNat 8 (max (ts.getD i 0) (most.getD i 0).toNat)))
    let hot := decide (105 ≤ top) || (s.rst.hot && !decide (top < 100))
    let s := setAlert { s with rst := { s.rst with hot := hot, thermTrip := s.rst.thermTrip || decide (125 ≤ top) } }
    let s := if 105 ≤ top then { s with pwr := { s.pwr with
      clockMHz := min s.pwr.clockMHz (s.cfg Ent.clockFloorMHz), lowered := s.pwr.lowered + (s.pwr.clockMHz - s.cfg Ent.clockFloorMHz)
      matrixRate := 1, distanceRate := 1, throttled := true }, nb := { s.nb with duty := 4 } } else s
    let s := if 115 ≤ top then thermalReset s else s
    .next (if top < 95 ∧ s.rst.pause = .thermal then { s with rst := { s.rst with pause := .none } } else s)

/-! Blocks (R628). -/

/-- No work of a block that drains remains. -/
def blockIdle (s : State) (b : Nat) : Bool :=
  let i := blockInst b
  match blockKind b with
  | 1 => !s.coh.busy.any fun q => q.req.core == i || q.acks.contains i
  | 2 => !s.coh.busy.any fun q => q.req.core / 16 == i
  | 3 => (Nb.bank s i).queue.isEmpty
  | 4 => !(s.flash.programs.any fun p => p.chan == i) && !(s.flash.erases.any fun e => e.chan == i)
      && !(s.flash.reads.any fun r => r.active && r.at_.chan == i)
  | _ => (s.port i).state == .disabled

/-- BLOCK_QUIESCED (R628). -/
def execBlockQuiesced (block : Nat) (s : State) : Result :=
  if s.mgmt && s.rst.quiescing.contains block && blockIdle s block then
    .next { s with rst := { s.rst with quiescing := s.rst.quiescing.filter (· != block), quiesced := s.rst.quiesced ++ [block] } }
  else .next s

/-- R628: blocks named in the Tide before leave service at the boundary. -/
def takeQuiesced (s : State) : State :=
  let l := s.rst.quiesceNext
  let s := { s with rst := { s.rst with quiesceNext := [], quiescing := s.rst.quiescing ++ l } }
  (l.filter fun b => blockKind b == 5).foldl (fun s b => mapPort (clearLink s (blockInst b)) (blockInst b) fun x => { x with state := .disabled }) s

/-! The test access port (R650). -/

/-- TAP_INSTRUCTION (R650). -/
def execTapInstruction (tap : Tap) (s : State) : Result :=
  let t := match tap with
    | .extest => if s.rst.resetN then Tap.bypass else tap
    | .clamp => if s.rst.resetN then .bypass else tap
    | .highz => if s.rst.resetN then .bypass else tap
    | t => t
  .next { s with rst := { s.rst with tap := t } }

end Sys2Proof.Machine
end

