-- ==== Sys2Proof/Machine/FaultRows.lean ====
section
/-! DEFINITION. The commands of errors and self-tests (R567 to R580, R623, R628). -/

namespace Sys2Proof.Machine

open Sys2Proof

/-- ERROR_EVENT (R567). -/
def execErrorEvent (event : Sys2Proof.ErrorReport) (s : State) : Result := if s.mgmt then .next (destroyBadKeys (detect s event)) else .next s

/-- The first test of its parent: the next one starts only after its substitution (R575). -/
def firstOfParent (s : State) (t : Test) : Bool :=
  match s.rel.tests.find? fun x => parentOf x.unit == parentOf t.unit with
  | some x => x.unit == t.unit && x.place == t.place
  | none => false

/-- R628: the block whose test after a reset this is returns to service on a pass. -/
def blockTested (s : State) (t : Test) (passed : Bool) : State :=
  if t.afterReset ∧ passed then
    match s.rst.quiesced.find? fun b => blockUnit b == some t.unit with
    | some b => unquiesce s b
    | none => s
  else s

/-- SELF_TEST_DONE (R573). -/
def execSelfTestDone (unit place column : Nat) (passed : Bool) (s : State) : Result :=
  match s.rel.tests.find? fun t => t.unit == unit && t.place == place with
  | none => .next s
  | some t =>
    if s.mgmt && firstOfParent s t then .next (destroyBadKeys (blockTested (endTest s t column passed) t passed)) else .next s

/-! Escalation (R576, R623). -/

/-- The kinds and parents of the spares that a unit's lasting fault would draw on: its own and, for a core or a matrix engine, its die's spare
cluster (R18, R19). -/
def ownSpares (u place : Nat) : List (Nat × Nat) :=
  let i := unitInst u
  match unitKind u with
  | 1 => [(1, i / 16), (2, i / 128)]
  | 2 => if clusterLogic ≤ place then [(2, i / 8)] else [(3, i), (4, i), (2, i / 8)]
  | 3 => [(5, u), (6, u)]
  | 4 => [(5, u), (6, u)]
  | 5 => [(7, u)]
  | 6 => [(8, i / 128)]
  | 8 => [(9, i / 16)]
  | 10 => [(12, i / 8192)]
  | _ => []

/-- R576: the unit counts as having no spare while its fault is handled. -/
def withoutSpares (s : State) (u place : Nat) (f : State → State) : State :=
  let own (x : SpareUse) : Bool := (ownSpares u place).contains (x.kind, x.parent)
  let before := s.rel.spares
  let full : List SpareUse := (ownSpares u place).map fun p => ⟨p.1, p.2, sparesOf p.1⟩
  let s := f { s with rel := { s.rel with spares := (before.filter fun x => !own x) ++ full } }
  let rest := s.rel.spares.filter fun x => !own x
  let back := before.filter fun x => own x && s.rel.spares.any fun y => own y && y.kind == x.kind && y.parent == x.parent
  { s with rel := { s.rel with spares := rest ++ back } }

/-- R623: the block of an escalated unit that is a core, a cluster's own logic, a near-bank unit or a Strand lane; every other unit of the table of
unit kinds resets the node at L1. -/
def escalatedBlock (u place : Nat) : Option Nat :=
  let i := unitInst u
  match unitKind u with
  | 1 => some (2 ^ 24 + i)
  | 2 => if clusterLogic ≤ place then some (2 * 2 ^ 24 + i) else none
  | 7 => some (3 * 2 ^ 24 + i)
  | 8 => some (5 * 2 ^ 24 + i / 16)
  | _ => none

/-- SELF_TEST_ESCALATION (R576): a test has not ended after 10 times its nominal time. -/
def execSelfTestEscalation (unit place : Nat) (s : State) : Result :=
  match s.rel.tests.find? fun t => t.unit == unit && t.place == place with
  | none => .next s
  | some t =>
    if !s.mgmt || !firstOfParent s t then .next s
    else
      let s := rowPassed (freeDieBlock (dropTest s t) t) t
      let s := destroyBadKeys (withoutSpares (s.bump Ent.escalations) unit place fun s => noteLasting s unit place none false t.events)
      let s := beginNext (s.rel.tests.length + 1) s (parentOf t.unit)
      .next (match escalatedBlock unit place with
        | some b => assertReset s ⟨7, 3, 0, b, 0, 0⟩
        | none => assertReset s ⟨7, 1, 0, 0, 0, 0⟩)

end Sys2Proof.Machine
end

