-- ==== Sys2Proof/Machine/PowerRows.lean ====
section
/-! DEFINITION. The commands of power states, power management, margins and sensors (R24 to R26, R312, R584 to R586, R594,
R600, R630 to R640). -/

namespace Sys2Proof.Machine

open Sys2Proof

/-! Drains and Neap. -/

/-- R630: the drain of a function has reached its limit. -/
def endFunctionDrain (s : State) (d : Drain) : State :=
  if d.from_ + s.cfg Ent.drainLimitTides ≤ s.now then
    abortFunction { s with rst := { s.rst with drains := s.rst.drains.filter fun x => x.bit != d.bit } } d.bit
  else s

/-- R633: the drain of Neap entry has reached its limit. -/
def neapLimit (s : State) : Bool := s.rst.powerState == 1 && decide (s.rst.neapFrom + s.cfg Ent.drainLimitTides ≤ s.now)

/-- The drains of one function at their limit. -/
def drainBit (s : State) (bit : Nat) : State :=
  let s := (s.rst.drains.filter fun d => d.bit == bit).foldl endFunctionDrain s
  if neapLimit s then abortFunction s bit else s

/-- DRAIN_LIMIT (R630, R633). -/
def execDrainLimit (bit : Nat) (s : State) : Result := if s.mgmt then .next (drainBit s bit) else .next s

/-- R633, R322, R495: what Neap entry waits for. -/
def neapReady (s : State) : Bool :=
  let u := s.flash
  s.rst.powerState == 1 && countPicked s allPick == 0 && (s.host.cmds.all fun c => c.lost) && (s.nb.banks.all fun b => b.queue.isEmpty)
    && s.mem.moves.isEmpty && (Flash.workPlaces u).isEmpty && u.programs.isEmpty && u.erases.isEmpty && u.relocs.isEmpty && u.reads.isEmpty && u.flush.isNone
    && (s.num Ent.flashReady == 0 || (decide (s.rst.neapFrom ≤ u.lastFlush) && Flash.ownMap u.flushed == Flash.ownMap u.map))

/-- R633: caches are written back, and the clusters and flash units lose power. -/
def enterNeap (s : State) : State :=
  let s := Coh.dropOutside (flushCaches s) fun _ => true
  { s with
    coh := { s.coh with l1 := [], slice := [], dirs := [], busy := [] }
    nb := { s.nb with banks := s.nb.banks.map resetBank, answer := none }
    rst := { s.rst with slack := [], powerState := 2, released := s.rst.released.filter fun d => d != 7 && d != 8 } }.bump Ent.neapEntries

/-- NEAP_POWER_OFF (R633). -/
def execNeapPowerOff (s : State) : Result := if s.mgmt && neapReady s then .next (enterNeap s) else .next s

/-- NEAP_EXIT_DONE (R635): the first boundary after the release of domains 7 and 8, or after an exit out of EnteringNeap. -/
def execNeapExitDone (s : State) : Result :=
  if s.mgmt && s.rst.powerState == 3 && s.rst.toRelease.isEmpty && decide (s.rst.neapFrom < s.now) then
    .next (serveHeld { s with rst := { s.rst with powerState := 0 } })
  else .next s

/-- SLACK_ENTRY (R632): the cluster has had no work for SlackIdleNs. -/
def execSlackEntry (cluster : Nat) (s : State) : Result :=
  let works := s.coh.busy.any fun q => q.req.core / 16 == cluster || q.acks.any fun c => c / 16 == cluster
  if cluster < 32 && s.up 7 && !works && !s.rel.deadClusters.contains cluster && !s.rst.slack.contains cluster then
    .next { s with rst := { s.rst with slack := s.rst.slack ++ [cluster] } }
  else .next s

/-! Package power (R24 to R26, R312). -/

/-- R25, the last step: the clock goes down by a free number of steps of 100 MHz, not below its floor. -/
def lowerClock (s : State) : State :=
  let (w, s) := s.drawFree
  let clock := max (s.cfg Ent.clockFloorMHz) (s.pwr.clockMHz - (1 + w % 9) * 100)
  { s with pwr := { s.pwr with clockMHz := clock, lowered := s.pwr.lowered + (s.pwr.clockMHz - clock) } }

/-- R25: the near-bank units' issue rate goes down by a free number of steps, then the clock. -/
def lowerDuty (s : State) : State :=
  let (v, s) := s.drawFree
  let duty := max 4 (s.nb.duty - (1 + v % 12))
  let s := { s with nb := { s.nb with duty := duty } }
  if duty ≠ 4 then s else lowerClock s

/-- R25: the distance engines' issue rate goes down by a free number of steps, then what comes after it. -/
def lowerDistance (s : State) : State :=
  let (v, s) := s.drawFree
  let s := { s with pwr := { s.pwr with distanceRate := max 1 (s.pwr.distanceRate - (1 + v % 15)) } }
  if s.pwr.distanceRate ≠ 1 then s else lowerDuty s

/-- R25: one sample above the limit. The order is the rule's: matrix engines, distance engines, near-bank units, cluster clock.
The issue rates are in sixteenths with a floor of 1, by how many steps, one at the least, a sample lowers each is a free value, and each goes down
only once the one before it stands at its floor (DESIGN CHOICE, notes/assumptions/41.md). -/
def throttleDown (s : State) : State :=
  let (v, s) := s.drawFree
  let s := { s with pwr := { s.pwr with matrixRate := max 1 (s.pwr.matrixRate - (1 + v % 15)) } }
  if s.pwr.matrixRate ≠ 1 then s else lowerDistance s

/-- R312: below the limit the duty rises a step; by how many steps the engines' rates and the clock rise are free
values, the clock also where low slack lowered it (R585; DESIGN CHOICE, notes/assumptions/41.md). -/
def throttleUp (s : State) : State :=
  let (v, s) := s.drawFree
  let (w, s) := s.drawFree
  let clock := min 2500 (s.pwr.clockMHz + w % 10 * 100)
  { s with
    nb := { s.nb with duty := min 16 (s.nb.duty + 1) }
    pwr := { s.pwr with
      matrixRate := min 16 (s.pwr.matrixRate + v % 16), distanceRate := min 16 (s.pwr.distanceRate + v / 16 % 16)
      clockMHz := clock, lowered := if clock = 2500 then 0 else s.pwr.lowered - (clock - s.pwr.clockMHz) } }

/-- R25: some issue rate or the clock stands below what it is without throttling. -/
def throttledNow (s : State) : Bool :=
  decide (s.pwr.matrixRate < 16) || decide (s.pwr.distanceRate < 16) || decide (s.nb.duty < 16) || decide (0 < s.pwr.lowered)

/-- The 100 µs average that R24 and R25 judge: the mean of the samples held, which are the last 100, or fewer after a start. R25
speaks of a projected average and gives no projection: the model projects nothing. PackagePowerW and PeakPowerW hold the mean in
whole W, rounded down (DESIGN CHOICE, notes/assumptions/41.md). -/
def averagePower (u : PowerUnit) : Nat := u.samples.sum / max 1 u.samples.length

def u16 (v : Nat) : Nat := min 65535 v

/-- RAIL_CURRENT_SAMPLE (R25): package power in W and the current of each rail in A. -/
def execRailCurrentSample (watts : Nat) (amps : List Nat) (s : State) : Result :=
  if !s.mgmt then .next s
  else
    let s := s.setVal Ent.railAmps (.b ((List.range 7).flatMap fun i => leBytes 2 (u16 (amps.getD i 0))))
    let l := s.pwr.samples ++ [watts]
    let s := { s with pwr := { s.pwr with samples := l.drop (l.length - 100) } }
    let mean := u16 (averagePower s.pwr)
    let s := (s.setNum Ent.packagePowerW mean).setNum Ent.peakPowerW (max (s.num Ent.peakPowerW) mean)
    let above := decide (s.cfg Ent.packageLimitW * s.pwr.samples.length < s.pwr.samples.sum)
    let s := if above then throttleDown s else if s.rst.hot then s else throttleUp s
    let on := above || s.rst.hot || throttledNow s
    let s := if on && !s.pwr.counted then s.bump Ent.throttledTides else s
    .next { s with pwr := { s.pwr with throttled := on, counted := s.pwr.counted || on } }

/-! Margins (R584, R585, R640). -/

/-- Nominal rail voltages in mV, in the order of R639; VDD_CORE has its setpoint. -/
def railNominal (s : State) : List Nat := [s.num Ent.vddCoreMv, 750, 1100, 900, 1200, 1800, 3300]

/-- A slack of 16 bits in two's complement, in ps. -/
def slackPs (b : Nat) : Int := Num.ofBits 16 b

/-- R585: what low slack does. -/
def raiseMargin (s : State) (avsFails : Bool) : State :=
  let v := s.num Ent.vddCoreMv
  if v < 850 ∧ !s.pwr.avsLost then
    if avsFails then loseAvs s else s.setNum Ent.vddCoreMv (v + 5)
  else { s with pwr := { s.pwr with clockMHz := max (s.cfg Ent.clockFloorMHz) (s.pwr.clockMHz - 100) } }

/-- R585: event 0x10, once per MarginPeriod per cluster. -/
def noteLowSlack (s : State) (c b : Nat) : State :=
  if s.rel.logged.contains c then s
  else { s with rel := { s.rel with logged := s.rel.logged ++ [c] } }.logEvent 0x10 Oc.info St.ok 0 (unitId 2 c) b

/-- The lesser of the slack kept for a cluster and a new one. -/
def leastSlack (old : Option Nat) (b : Nat) : Nat := match old with
  | some o => if slackPs b < slackPs o then b else o
  | none => b

/-- MARGIN_SAMPLE (R584): the voltage of each rail in mV, the slack of each cluster as the bits of an I16 in ps. -/
def execMarginSample (millivolts slack : List Nat) (avsFails : Bool) (s : State) : Result :=
  if !s.mgmt then .next s
  else
    let s := s.setVal Ent.railMv (.b ((List.range 7).flatMap fun i => leBytes 2 (u16 (millivolts.getD i 0))))
    let nominal := railNominal s
    let droop := (List.range 7).map fun i => max (s.rel.droop.getD i 0) (nominal.getD i 0 - millivolts.getD i 0)
    let least := (List.range 32).map fun c => leastSlack s.rel.slack[c]? (slack.getD c 0 % 65536)
    let s := { s with rel := { s.rel with droop := droop, slack := least } }
    let low := (List.range 32).filter fun c =>
      s.up 7 && !s.rel.deadClusters.contains c && (match slack[c]? with
        | some b => decide (slackPs (b % 65536) < s.cfg Ent.slackLimitPs)
        | none => false)
    let s := low.foldl (fun s c => noteLowSlack s c (slack.getD c 0 % 65536)) s
    .next (if low.isEmpty then s else raiseMargin s avsFails)

/-- MARGIN_PERIOD (R584): the figures of the period are published. -/
def execMarginPeriod (s : State) : Result :=
  if s.mgmt && decide (s.rel.marginFrom + s.cfg Ent.marginPeriod ≤ s.now) then
    let s := s.setVal Ent.railDroopMv (.b ((List.range 7).flatMap fun i => leBytes 2 (u16 (s.rel.droop.getD i 0))))
    let s := s.setVal Ent.clusterSlackPs (.b ((List.range 32).flatMap fun c => leBytes 2 (s.rel.slack.getD c 0)))
    .next { s with rel := { s.rel with droop := [], slack := [], logged := [], marginFrom := s.now } }
  else .next s

/-! Optical modules (R586). -/

/-- A figure of each port and lane; 0 where no module answers. -/
def opticalBytes (ports : List CmisPort) (f : CmisPort → List Nat) : Bytes :=
  (List.range 6).flatMap fun p => (List.range 9).flatMap fun l =>
    leBytes 2 (u16 (match ports.find? fun x => x.port == p with
      | some x => (f x).getD l 0
      | none => 0))

/-- R586: one power of a lane against its thresholds. The event of a lane that is tested is recorded once the test has classified it (R582). -/
def pollPower (s : State) (lane v warning alarm : Nat) : State :=
  let u := unitId 8 lane
  if v < alarm then raiseEvent s u 0 ⟨0x11, St.ok, v, s.now, s.tide.phase⟩
  else if v < warning then s.logEvent 0x11 Oc.info St.ok 0 u v else s

/-- R586: one lane of a module. -/
def pollLane (s : State) (x : CmisPort) (lane : Nat) : State :=
  let n := x.port * 16 + lane
  pollPower (pollPower s n (x.tx.getD lane 0) x.txWarning x.txAlarm) n (x.rx.getD lane 0) x.rxWarning x.rxAlarm

/-- CMIS_POLL (R586). -/
def execCmisPoll (ports : List CmisPort) (s : State) : Result :=
  if s.mgmt && s.up 4 then
    let s := s.setVal Ent.opticalRxUw (.b (opticalBytes ports (·.rx)))
    let s := s.setVal Ent.opticalTxUw (.b (opticalBytes ports (·.tx)))
    .next ((ports.filter fun x => decide (x.port < 6)).foldl (fun s x => (List.range 9).foldl (fun s l => pollLane s x l) s) s)
  else .next s

/-! The random number generator (R600). -/

/-- R600: a failed health test. The table of event codes has none for it: the code is a free value. -/
def trngFails (s : State) : State :=
  let (v, s) := { s with sec := { s.sec with trng := 2 } }.drawFree
  (s.bump Ent.trngFailures).logEvent (v % 256) Oc.info St.ok 0 nodeUnit 0

/-- TRNG_HEALTH_FAIL (R600). -/
def execTrngHealthFail (s : State) : Result := if s.up 2 then .next (trngFails s) else .next s

/-- TRNG_STARTUP_DONE (R600): the start-up tests end, or a health test passes or fails again after a failure. -/
def execTrngStartupDone (ok : Bool) (s : State) : Result :=
  if s.up 2 && s.sec.trng != 1 then
    .next (if ok then { s with sec := { s.sec with trng := 1 } } else trngFails s)
  else .next s

/-! Stragglers (R594). -/

/-- The mark of a node whose hold has run out goes. -/
def endHold (s : State) (p : Nat → Bool) : State :=
  { s with qry := { s.qry with stragglers := s.qry.stragglers.filter fun x => !(p x.1 && decide (x.2 ≤ s.now)) } }

/-- STRAGGLER_HOLD_EXPIRY (R594). -/
def execStragglerHoldExpiry (node : Nat) (s : State) : Result := .next (endHold s fun n => n == node)

end Sys2Proof.Machine
end

