-- ==== Sys2Proof/Machine/SearchRows.lean ====
section
/-! DEFINITION. The commands of fragments and of led queries under way (04_query_execution.md). -/

namespace Sys2Proof.Machine

open Sys2Proof

/-- The management firmware and the clusters are in service: a query or fragment can be worked on. -/
def canSearch (s : State) : Bool := s.mgmt && s.up 7

/-- FRAGMENT_REQUEST (R153). -/
def execFragmentRequest (_src : Nat) (data : Bytes) (s : State) : Result :=
  if canSearch s then .next (settleRows (arriveFrag s data)) else .next s

/-- FRAGMENT_REPLY (R155). -/
def execFragmentReply (src : Nat) (data : Bytes) (s : State) : Result :=
  if s.mgmt then .next (arriveReply s src data) else .next s

/-- FRAGMENT_CUTOFF (R148). -/
def execFragmentCutoff (frag : Nat) (s : State) : Result :=
  match s.frag frag with
  | none => .next s
  | some g => if canSearch s && decide (g.cutoff ≤ s.subticks) then .next (cutFrag s frag) else .next s

/-- FRAGMENT_COMPLETE (R137). -/
def execFragmentComplete (frag : Nat) (s : State) : Result :=
  match s.frag frag with
  | none => .next s
  | some g => if canSearch s && fragDone g then .next (endFrag s g (doneReply g true)) else .next s

/-- QUERY_DEADLINE (R150). -/
def execQueryDeadline (query : Nat) (s : State) : Result :=
  match s.query query with
  | none => .next s
  | some q => if s.mgmt && decide (q.deadline ≤ s.subticks) then .next (completeQuery s query) else .next s

/-- R104, R484: a read that is treated as uncorrectable: counted, with an event of the die that holds the codeword. -/
def uncorrectableRead (s : State) (logical : Nat) : State :=
  let s := s.bump Ent.uncorrectableCodewords
  match (s.flash.map.lookup logical).bind fun p => (Flash.chan s.flash p.chan).map fun c => Flash.dieUnit c (Flash.dieOf c p.block) with
  | some u => raiseEvent (s.bump Ent.errorEvents) u 0 ⟨0x08, St.uncorrectable, logical, s.now, s.tide.phase⟩
  | none => s

/-- VERIFY_READ_DONE (R136). -/
def execVerifyReadDone (frag loc : Nat) (s : State) : Result :=
  if !canSearch s then .next s
  else
    let first := match s.frag frag with
      | some g => (recordLogical (recordCodewords (s.params g.coll).vecBytes (s.params g.coll).metaBytes) loc).headD 0
      | none => 0
    let s' := verifyDone s frag loc
    .next (if badRecord s frag loc then uncorrectableRead s' first else s')

end Sys2Proof.Machine
end

