-- ==== Sys2Proof/Machine/QueryRows.lean ====
section
/-! DEFINITION. The QUERY command (R117 to R122): what the lead node checks, and what acceptance starts. -/

namespace Sys2Proof.Machine

open Sys2Proof Sys2Proof.Num

/-- The host bytes of a query vector in its format. -/
def queryInputBytes (p : Params) (fmt : Nat) : Nat := if p.metric = 3 then p.dim / 8 else p.dim * widthOf fmt / 8

/-- R121: the encoder named by the descriptor fits the collection. -/
def encoderFits (s : State) (d : Bytes) (dim : Nat) : Bool :=
  match Graph.slot s (field d 44 2) with
  | none => false
  | some g =>
    g.stage == .loaded && g.kind == 1 && decide (field d 12 4 ≠ 0)
      && decide (field d 12 4 ≤ (tensorDef g.image 0).elems)
      && (Graph.ofKind g.image 1).all fun n => (tensorDef g.image n).dims == [dim]

/-- R121: a descriptor check fails. -/
def queryBad (s : State) (d : Bytes) : Bool :=
  let c := field d 4 1
  let p := s.params c
  let k := field d 6 2
  let enc := bit (field d 1 1) 0
  let fmt := field d 5 1
  s.collState c != 2 || k == 0 || decide (4096 < k) || decide (field d 40 4 < 64 + 16 * k) || field d 32 8 % 64 != 0
    || (!enc && (if p.metric = 3 then fmt != 5 else decide (2 < fmt)))
    || (if enc then !encoderFits s d p.dim else field d 12 4 != 0 || field d 44 2 != 0)
    || decide (4096 < field d 46 2) || decide (16 < field d 48 1) || decide (4194304 < field d 8 4)

/-- R12: what a query meets at its lead node before its inputs are read. -/
def queryRefusal (s : State) (d : Bytes) : Option (Nat × Nat) :=
  let c := field d 4 1
  let enc := bit (field d 1 1) 0
  let bad := queryBad s d
  worst [ (bad, St.badJob, 0)
        , (acquiring s, St.retry, s.now + 1)
        , (!functionOn s 0, St.retry, functionRetry s 0)
        , (enc && !functionOn s 2, St.retry, functionRetry s 2)
        , (enc && decide (s.num Ent.runTableSize ≤ s.gph.runs.length), St.retry, s.now + 1)
        , (decide (s.num Ent.queryTableSize ≤ s.qry.queries.length), St.retry, s.now + 1)
        , (!bad && s.slotState (s.collOwner c) != 1, St.accessDenied, 0) ]

/-- The accepted query (R122, R31): its stamp, deadline and cutoff follow from the acceptance point `at_`. -/
def acceptedQuery (s : State) (cmd : Nat) (at_ : Nat × Nat) (d filter : Bytes) : Query :=
  let c := field d 4 1
  let dl := at_.2 + (if field d 8 4 = 0 then s.cfgAt (Ent.collDefaultDeadline c) at_.1 else field d 8 4)
  { tag := s.qry.nextTag, cmd := cmd, coll := c, stamp := at_.1, k := field d 6 2, commandId := field d 2 2
    resultAddr := field d 32 8, width := if field d 48 1 = 0 then s.cfgAt (Ent.collPrefetchWidth c) at_.1 else field d 48 1
    deadline := dl, cutoff := dl - s.cfgAt (Ent.collReturnMargin c) at_.1, openQuery := false, filter := filter, vec := []
    encoding := bit (field d 1 1) 0
    routes := (List.range (s.params c).shoals).map fun sh => routeShoal s c sh at_.1, frags := [] }

/-- QUERY (R121). -/
def execQuery (cmd : Nat) (input filter : HostRead) (s : State) : Result :=
  match s.waitingCmd cmd 0x01 with
  | none => .next s
  | some c =>
    if !canSearch s then .next s
    else
      let d := c.desc
      let p := s.params (field d 4 1)
      let f := readInput s (field d 24 8) (field d 46 2) filter
      let badFilter := s.collState (field d 4 1) == 2 && f.1 == St.ok && !f.2.isEmpty && filterBad f.2 p.schema
      match worst [((queryRefusal s d).isSome, (queryRefusal s d).getD (0, 0)), (badFilter, St.badJob, 0)] with
      | some r => .next (s.finish cmd r.1 [] r.2)
      | none =>
        let enc := bit (field d 1 1) 0
        let n := if enc then field d 12 4 else queryInputBytes p (field d 5 1)
        let v := readInput s (field d 16 8) n input
        if inputHeld s (field d 24 8) (field d 46 2) || inputHeld s (field d 16 8) n then
          .next (holdInputs s cmd [(field d 24 8, field d 46 2), (field d 16 8, n)])
        else
        let s := touchInput (touchInput s (field d 24 8) (field d 46 2)) (field d 16 8) n
        if max f.1 v.1 ≠ St.ok then .next (s.refuse cmd (max f.1 v.1))
        else
          let q := acceptedQuery s cmd (acceptance s c) d f.2
          let s' := startCmd s cmd
          let s' := { s' with qry := { s'.qry with queries := s'.qry.queries ++ [q], nextTag := (q.tag + 1) % 2 ^ 32 } }
          if !enc then
            let pats := if p.metric = 3 then v.2.map (·.toNat)
              else (patterns (field d 5 1) v.2).map fun x => encode fp32 .rne (valueOf (field d 5 1) x)
            .next (Graph.startQuery s' q.tag pats)
          else match Graph.slot s (field d 44 2) with
            | none => .next s
            | some g =>
              let ins := [(0, (padTo (tensorDef g.image 0).elems v.2).map (·.toNat)), (1, [v.2.length])]
              match startRun s' (.encode q.tag) g q.stamp (encoderSeed g.image) 0 none false ins [] with
              | some s'' => .next s''
              | none => .next (waitForPages s cmd fun s => s.refuse cmd St.retry)

end Sys2Proof.Machine
end

