-- ==== Sys2Proof/Machine/Boundary.lean ====
section
/-! DEFINITION. The work of a boundary in the order of R61, with what the chapters place at every boundary (the table "Events
scheduled against Tides"). The edges and pulses that make boundaries are in TideRows.lean. -/

namespace Sys2Proof.Machine

open Sys2Proof

/-! Step 3: commits. -/

/-- R29, R229: changes whose boundary has come are counted as committed, and their intake commands complete with OK. -/
def commitChanges (s : State) : State :=
  let due := s.chg.committing.filter fun (e : Nat × Nat × Nat) => decide (e.2.2 ≤ s.now)
  let s := { s with chg := { s.chg with committing := s.chg.committing.filter fun (e : Nat × Nat × Nat) => !decide (e.2.2 ≤ s.now) } }
  let s := due.foldl (fun s e => s.bump (match e.2.1 with
    | 0 => Ent.collStAccessionsCommitted e.1
    | 1 => Ent.collStDeaccessionsCommitted e.1
    | _ => Ent.collStUpserts e.1)) s
  s.chg.intakes.foldl (fun s i => match i.done with
    | some d => if d.commit ≤ s.now then intakeDone s i d else s
    | none => s) s

/-- R239, R240: the retirements of a boundary, counted for each collection. -/
def retireEntries (s : State) : State :=
  let x := Index.retire s.idx s.now
  ((s.idx.nodes.map (·.coll)).eraseDups).foldl (fun s' c =>
    s'.bump (Ent.collStRetiredEntries c) (Index.retiredAt x c s.now)) { s with idx := x }

/-- R104: records of the leaf that a source streams which were read and are not those of their slots. -/
def noteUnreadable (s : State) : State :=
  s.idx.copies.foldl (fun s cp => match cp.reading.bind fun i => s.idx.leaves.find? fun l => Index.inUse cp.coll cp.shoal l && l.id == i with
    | some l =>
      let p := s.params cp.coll
      let bad := (leafVisible s l).filter fun q => let ds := Flash.ended s.flash (fillUse l q.1)
        !leafReading s l && !ds.isEmpty && ds.all (fun d => d.status == St.ok) && (readRecord s l q.1 q.2.id).isNone
      bad.foldl (fun s q => uncorrectableRead s ((recordLogical (recordCodewords p.vecBytes p.metaBytes) q.1).headD 0)) s
    | none => s) s

/-- Step 3 of R61, with the fills (R245) and the retirements (R239) of the boundary. -/
def commits (s : State) : State :=
  let s := Berth.settleFetches (Berth.dropExpelled (Table.atBoundary s))
  let s := serveFilled (settleDurable (commitChanges s))
  (retireEntries s).idx.copies.foldl streamCopy (noteUnreadable (retireEntries s))

/-! Step 4: expiries. -/

/-- R376: a shadow that has left a page of a checkpoint unanswered for 64 Tides fails (DESIGN CHOICE, notes/assumptions/27.md). -/
def silentShadows (s : State) : State :=
  (s.strand.outMsgs.filter fun m => decide (m.sent + 64 ≤ s.now) && (match m.use with
    | .pages _ _ .checkpoint => true
    | _ => false)).foldl (fun s m => messageAnswered s m St.indeterminate 0) s

/-- Requesters that give up (R451, R456, R460). -/
def giveUps (s : State) : State :=
  let s := silentShadows s
  (s.strand.requests.map fun r => (r.frame.kind, r.frame.seq)).foldl (fun s k =>
    if k.1 = Kind.atomic then after (execAtomicGiveUp k.2 s) s
    else if k.1 = Kind.publish then after (execPublishGiveUp k.2 s) s
    else if k.1 = Kind.read ∨ k.1 = Kind.write then after (execStrandGiveUp k.2 s) s
    else s) s

/-- Step 4 of R61. -/
def expiries (s : State) : State :=
  let s := (s.berth.owned.map (·.id)).foldl (fun s b => after (execLeaseExpiry b s) s) s
  let s := giveUps (after (execReplayEntryExpiry s) s)
  let s := (List.range 5).foldl drainBit s
  endHold (if barRuns s then endDrain s else s) fun _ => true

/-! Step 5: windows. -/

/-- Step 5 of R61, with the upkeep windows and the moves of the Tide that begins. -/
def windows (s : State) : State :=
  let s := after (execUpkeepWindowClose s) s
  let s := after (execUpkeepWindowOpen s) s
  let s := upkeepMoves s
  let s := after (execHousekeepingWindowClose s) s
  after (execHousekeepingWindowOpen s) s

/-! Measurements of the Tide before (R379, R497, R593, R594). -/

/-- Add to a meter. -/
def addMeter (l : List (Nat × Nat × Nat)) (owner cls n : Nat) : List (Nat × Nat × Nat) :=
  if n = 0 then l
  else if l.any fun m => m.1 == owner && m.2.1 == cls then
    l.map fun m => if m.1 = owner ∧ m.2.1 = cls then (m.1, m.2.1, m.2.2 + n) else m
  else l ++ [(owner, cls, n)]

/-- R379: what an owner slot holds of classes 0 to 2, 4 and 5: one entry per unit. -/
def heldUnits (s : State) : List (Nat × Nat) :=
  (s.mem.pages.map fun p => (p.owner, match p.tier with
    | .stack _ => 0
    | .shelf _ => 1
    | .flash => 2))
  ++ s.berth.homes.flatMap (fun h => h.parkedPages.map fun _ => (h.ownerSlot, 2))
  ++ (s.nb.banks.filter (·.running)).filterMap (fun b => b.queue.head?.map fun q => (q.owner, 4))
  ++ s.tbl.granules.map fun g => (Table.owner s g.1, 5)

/-- R379: the resource-Tides of a boundary. How many clusters the runs of an owner occupy is a free value (R347 gives the
most). -/
def meterUse (s : State) : State :=
  let l := (heldUnits s).foldl (fun l u => addMeter l u.1 u.2 1) s.berth.meters
  let first := if s.berth.firstTide = 0 then s.now else s.berth.firstTide
  let s := { s with berth := { s.berth with meters := l, firstTide := first } }
  ((s.gph.runs.map (·.owner)).eraseDups).foldl (fun (acc : Nat × State) k =>
    let (v, s) := acc.2.drawFree
    let n := v % (acc.1 + 1)
    (acc.1 - n, { s with berth := { s.berth with meters := addMeter s.berth.meters k 3 n } })) (s.cfg Ent.graphClusterMax, s) |>.2

/-- R593: the mean queue delay of a copy's fragments; where none began, the manual states no figure: a free value. -/
def delayRecord (s : State) (c sh : Nat) : Bytes × State :=
  let l := (s.qry.delays.filter fun (d : Nat × Nat × Nat) => d.1 == c && d.2.1 == sh).map (·.2.2)
  let (mean, s) := if l.isEmpty then s.drawFree else (l.sum / l.length, s)
  (leBytes 1 c ++ [0] ++ leBytes 2 sh ++ leBytes 4 (mean % 2 ^ 32), s)

def publishDelays (s : State) : State :=
  let r := s.idx.copies.foldl (fun (acc : Bytes × State) p =>
    let q := delayRecord acc.2 p.coll p.shoal
    (acc.1 ++ q.1, q.2)) ([], s)
  let s := r.2.setVal Ent.shoalQueueDelay (.b r.1)
  { s with qry := { s.qry with delays := [] } }

/-- A mean turnaround as a sum and a count. -/
structure Turn where
  node : Nat
  sum : Nat
  count : Nat
  deriving DecidableEq, Repr

/-- The means of the nodes that replied, other than this one. -/
def turns (s : State) : List Turn :=
  let l := s.qry.turnaround.filter fun (p : Nat × Nat) => p.1 != s.strand.nodeId
  ((l.map (·.1)).eraseDups).map fun n =>
    let mine := (l.filter fun (p : Nat × Nat) => p.1 == n).map (·.2)
    ⟨n, mine.sum, mine.length⟩

/-- The median of the means, as a fraction: of an even number of nodes, the mean of the middle two. -/
def medianTurn (l : List Turn) : Nat × Nat :=
  let o := l.mergeSort fun a b => decide (a.sum * b.count ≤ b.sum * a.count)
  match o[(o.length - 1) / 2]?, o[o.length / 2]? with
  | some a, some b => (a.sum * b.count + b.sum * a.count, 2 * a.count * b.count)
  | _, _ => (0, 1)

/-- R594. -/
def markStragglers (s : State) : State :=
  let l := turns s
  let m := medianTurn l
  let slow (t : Turn) : Bool :=
    decide (s.cfg Ent.stragglerFactorPercent * m.1 * t.count < t.sum * 100 * m.2) && decide (s.cfg Ent.stragglerFloorNs * t.count < t.sum)
  let bad := (l.filter slow).map (·.node)
  let until_ := s.now + s.cfg Ent.stragglerHoldTides
  let s := if bad.isEmpty then s else s.bump Ent.stragglersMarked bad.length
  { s with qry := { s.qry with
    turnaround := []
    stragglers := (s.qry.stragglers.filter fun (x : Nat × Nat) => !bad.contains x.1) ++ bad.map fun n => (n, until_) } }

/-- Counters of the Tide that has ended. -/
def endTide (s : State) : State :=
  let s := markStragglers (publishDelays (meterUse s))
  let s := if s.flash.urgentTide || !s.flash.urgent.isEmpty then s.bump Ent.urgentGcTides else s
  let s := { s with flash := { s.flash with urgentTide := false } }
  { s with pwr := { s.pwr with counted := false } }

/-! Step 6: held work. -/

/-- R32: fragments held for this boundary begin; those whose sketch scans have ended meanwhile go on. -/
def beginHeld (s : State) : State :=
  settleRows (resumeFrags (((s.qry.frags.filter fun g => g.held && decide (g.stamp ≤ s.now)).map (·.id)).foldl beginFrag s))

/-- R537: a host that enabled the interface again during a drain. -/
def resumeHost (s : State) : State :=
  if passed s s.host.resumePending then { s with host := { s.host with resumePending := none, draining := false } } else s

/-- Step 6 of R61, with messages and blocks whose boundary this is (R441, R628). -/
def releases (s : State) : State := serveHeld (Berth.retryHeld (sendDue (takeQuiesced (resumeHost (beginHeld s)))))

/-! The boundary. -/

/-- Steps 2 to 6 of R61. Everything but the touch histories and the replay entries is work of node firmware: while the
management domain is in reset it waits for a later boundary (R60; DEDUCED, notes/assumptions/42.md). -/
def boundaryWork (s : State) : State :=
  let s := makeApplies s
  let s := if s.up 5 then shiftTouch s s.now else s
  if !s.mgmt then after (execReplayEntryExpiry s) s
  else
    let s := publishDigests (pruneHistory (writesInForce s))
    keepMaintained (releases (windows (expiries (endTide (promoteShelf (leavePages (commits s)))))))

/-- An adopted count: the frames in the egress queues keep the time that they have waited (R465). -/
def shiftQueued (s : State) (c : Nat) : State :=
  let fix (w : Queued) : Queued := { w with at_ := w.at_ + c * 1024 - (s.tide.count + 1) * 1024 }
  { s with strand := { s.strand with ports := s.strand.ports.map fun (x : Port) => { x with queues := x.queues.map (·.map fix) } } }

/-- Step 1 of R61 but for edges and beacons: the count advances; the boundary lies `ticks` sub-ticks back, 0 where the command comes
at the boundary itself; a new period of R656 begins. -/
def setCount (s : State) (c ticks : Nat) : State :=
  let p := s.tide.nextPeriod.getD (s.tide.periodNs, s.tide.delayNs)
  let s := if c = s.tide.count + 1 then s else shiftQueued s c
  { s with tide := { s.tide with count := c, phase := min 1023 ticks, overrun := ticks - 1023, periodNs := p.1, delayNs := p.2, nextPeriod := none } }

/-- A boundary with its edge and beacons (R44, R48, R61). -/
def boundary (s : State) (c ticks : Nat) (x : Symbol) : State := boundaryWork (sendBeacons' (setCount s c ticks) x)
where
  sendBeacons' (s : State) (x : Symbol) : State := (s.drivePulse x).sendBeacons

/-- R53: `n` skipped boundaries, without edges and beacons. -/
def skipBoundaries : Nat → State → State
  | 0, s => s
  | n + 1, s => skipBoundaries n (boundaryWork (setCount s (s.now + 1) 0))

end Sys2Proof.Machine
end

