-- ==== Sys2Proof/Machine/TideRows.lean ====
section
/-! DEFINITION. The commands of the Tide unit (02_tide.md R36 to R54). A pulse on TIDE_IN is one command: its rising edge with
the interval in ns since the rising edge before it, and the phase of its falling edge (notes/assumptions/14.md). -/

namespace Sys2Proof.Machine

open Sys2Proof

/-- The Tide unit counts as a follower. -/
def follows (s : State) : Bool := s.tide.running && !s.tide.master

/-! The master (R41, R42, R46). -/

/-- R42: TideHighWater is written as every P value is (R547, R607). -/
def recordHighWater (s : State) (c : Nat) : State := persist (s.setNum Ent.tideHighWater c) Ent.tideHighWater (.n c)

/-- MASTER_BOUNDARY (R41). -/
def execMasterBoundary (s : State) : Result :=
  if !(s.tide.running && s.tide.master) then .next s
  else
    let c := if s.tide.count = 0 then firstCount s else s.tide.count + 1
    let s := if c % 65536 = 0 then recordHighWater s c else s
    .next (boundary (s.lockAt c) c 0 (frameSymbol c))

/-! Followers. -/

/-- The node's own boundary, placed by no edge: it lies where the phase wrapped. -/
def ownBoundary (s : State) (x : Symbol) : State :=
  boundary { s with tide := { s.tide with made := s.tide.made + 1 } } (s.now + 1) (s.tide.overrun - 1) x

/-- A boundary that the edge just received places (R43): at the edge less TideInDelayNs. -/
def placedBoundary (s : State) (c : Nat) (x : Symbol) : State :=
  boundary { s with tide := { s.tide with placedNs := 0, made := 0, missedRun := 0 } } c s.tide.delayTicks x

/-- Locked: a good edge places the boundary. -/
def lockedEdge (s : State) (x : Symbol) : State := placedBoundary s (s.now + 1) x

/-- Acquiring with a count (R50): the eighth good edge at the period locks. -/
def acquiringEdge (s : State) (x : Symbol) : State :=
  let n := if s.tide.periodRun = 0 then 0 else s.tide.goodRun + 1
  let s := { s with tide := { s.tide with goodRun := n } }
  placedBoundary (if 8 ≤ n ∧ !s.tide.periodFault then s.lockAt (s.now + 1) else s) (s.now + 1) x

/-- R51: Acquiring takes its count at an edge. -/
def adoptCount (s : State) (c : Nat) (x : Symbol) : State := placedBoundary { s with tide := { s.tide with goodRun := 0 } } c x

/-- R52: the edges and the frame's count allow the node to relock. -/
def mayRelock (t : TideUnit) (own n : Nat) : Bool :=
  !t.conflictFault && !t.periodFault && decide (8 ≤ t.periodRun) && decide (own ≤ n) && decide (n ≤ own + 65535)

/-- R52, R53: relock at the count of a frame. Where the edge comes just after the node's own boundary of that count, the
boundary has been made already and only the phase restarts. -/
def relock (s : State) (n : Nat) (x : Symbol) : State :=
  let c := s.now
  let s := s.lockAt n
  if n ≤ c then
    let d := s.tide.delayTicks
    { s with tide := { s.tide with phase := min 1023 d, overrun := d - 1023, placedNs := 0, made := 0 } }
  else placedBoundary (skipBoundaries (n - c - 1) s) n x

/-- Holdover and Adrift (R50, R52, R54): an edge in the window leaves the boundary to the node's own clock. -/
def driftingEdge (s : State) (e : Nat) (n : Option Nat) (x : Symbol) : State :=
  let t := s.tide
  let own := t.ownAtEdge e
  let conflict := match n with
    | some n => decide (n < own) || decide (own + 65535 < n)
    | none => false
  let s := if conflict then { s with tide := { t with conflictFault := true } } else s
  match n with
  | some n => if mayRelock s.tide own n then relock s n x else keep s
  | none => keep s
where
  keep (s : State) : State :=
    let t := s.tide
    let s' := { s with tide := { t with placedNs := e } }
    if t.inWindow e && !t.periodFault then ownBoundary { s' with tide := { s'.tide with missedRun := 0 } } x else s'

/-- An edge that is not ignored: its interval and symbol are noted, the count it would be given is taken. The manual does not say
for how long a beacon's count is kept: those gathered before an edge are dropped at it (DESIGN CHOICE,
notes/assumptions/80.md). -/
def noteEdge (s : State) (interval : Nat) (x : Symbol) : State :=
  let t := s.tide
  let t := if t.anyEdge then t.measure (t.ignoredNs + interval) else t
  { s with tide := { (t.note x) with anyEdge := true, ignoredNs := 0, implied := none, beacons := [], beaconAdopt := none } }

/-- TIDE_IN_EDGE (R43, R50). Where a valid frame and equal beacons both come before the same edge, the frame's count is adopted
(R51 says whichever comes first), and a master, which ignores TIDE_IN for timing (R41), measures no interval (0x2000.0B names every
Tide state, not the master): DESIGN CHOICE, notes/assumptions/80.md. -/
def execTideInEdge (interval : Nat) (fall : Option Nat) (s : State) : Result :=
  if !follows s then .next s
  else
    let t := s.tide
    let x := classify fall
    let e := t.elapsed interval
    let given := t.implied.orElse fun _ => t.beaconAdopt
    let bound := t.state == .locked || (t.state == .acquiring && t.count != 0)
    if bound && !t.inWindow e then
      .next ({ s with tide := { t with ignoredNs := t.ignoredNs + interval, placedNs := e, anyEdge := true } }.bump Ent.glitchEdges)
    else
      let s := noteEdge s interval x
      match t.state with
      | .locked =>
        if s.tide.periodFault then .next { s with tide := { s.tide with placedNs := e } } else .next (lockedEdge s x)
      | .acquiring =>
        if t.count != 0 then .next (acquiringEdge s x)
        else match given with
          | some c => .next (adoptCount s c x)
          | none => .next { s with tide := { s.tide with phase := 0, overrun := 0, placedNs := 0, made := 0 } }
      | _ => .next (driftingEdge s e t.implied x)

/-- R50: the states that missed edges lead to. After a count conflict the node stays in its state (R54). -/
def missedState (s : State) : TideState :=
  let n := s.tide.missedRun
  if s.tide.conflictFault then s.tide.state
  else match s.tide.state with
  | .locked => if s.cfg Ent.holdoverEdges ≤ n then .holdover else .locked
  | .holdover => if s.cfg Ent.adriftEdges ≤ n then .adrift else .holdover
  | st => st

/-- MISSED_EDGE (R50): the window of the next boundary has passed without an edge. The manual gives no symbol for the pulse of a
boundary without a received pulse: a free value. R47 compares a frame's implied count with the node's own at the first edge after
the frame; where that edge is missed, the count waits for the next received edge (DESIGN CHOICE, notes/assumptions/80.md). -/
def execMissedEdge (s : State) : Result :=
  if !follows s || s.tide.count == 0 then .next s
  else
    let s := { s with tide := { s.tide with missedRun := s.tide.missedRun + 1, goodRun := 0 } }.bump Ent.missedTotal
    let s := { s with tide := { s.tide with state := missedState s } }
    let (v, s) := s.drawFree
    let x := ([Symbol.zero, .one, .marker, .invalid] : List Symbol).getD (v % 4) .invalid
    .next (ownBoundary s x)

/-- COUNT_FRAME (R47): the symbols just received make a valid frame. -/
def execCountFrame (s : State) : Result :=
  if follows s then
    match frameCount s.tide.symbols with
    | some n => .next { s with tide := { s.tide with implied := some n } }
    | none => .next s
  else .next s

/-! Beacons (R49, R51). -/

/-- R51: beacons of two Locked neighbours agree on the count of the next edge. -/
def noteBeacon (s : State) (sender c : Nat) : State :=
  let t := s.tide
  let next := if t.phase < 512 ∧ t.overrun = 0 then c + 1 else c
  let rest := t.beacons.filter fun b => b.sender != sender
  let agree := rest.any fun b => b.count == next
  { s with tide := { t with
    beacons := rest ++ [(⟨sender, next⟩ : BeaconCount)], beaconAdopt := if agree && t.beaconAdopt.isNone then some next else t.beaconAdopt } }

/-- R49: a Locked node compares a Locked neighbour's count. -/
def compareBeacon (s : State) (port sender c : Nat) : State :=
  let t := s.tide
  let named := if t.phase < 512 ∧ t.overrun = 0 then t.count else t.count + 1
  if c = named then s
  else (s.bump Ent.beaconMismatch).logEvent 0x15 Oc.info St.ok 0 nodeUnit (sender % 2 ^ 20 + port * 2 ^ 20 + c % 2 ^ 32 * 2 ^ 32)

/-- TIDE_BEACON (R49). -/
def execTideBeacon (port : Nat) (block : Bytes) (s : State) : Result :=
  if portIn s port .up && blockOk 1 block then
    let sender := field block 8 3 % 2 ^ 20
    let c := field block 2 6
    let locked := field block 1 1 % 4 == 1
    if !locked then .next s
    else match s.tide.state with
      | .locked => .next (compareBeacon s port sender c)
      | .acquiring => .next (if follows s && s.tide.count == 0 && s.tide.anyEdge then noteBeacon s sender c else s)
      | _ => .next s
  else .next s

/-! The phase (R37). -/

/-- SUB_TICK (R37, R463, R467). -/
def execSubTick (s : State) : Result :=
  if !s.tide.running then .next s
  else
    let t := s.tide
    let s := { s with tide := if t.phase < 1023 ∧ t.overrun = 0 then { t with phase := t.phase + 1 } else { t with overrun := t.overrun + 1 } }
    .next (if s.up 4 then tickMeters ((List.range 6).foldl tickPort s) else s)

/-- TIDE_UNIT_START (R39): once the P values of the boot copy are there, but not in recovery (R611) and not after a failed
identity check (R598). -/
def execTideUnitStart (s : State) : Result :=
  let ready := s.up 6 && (s.rst.romStarting || s.rst.pause != .firmware) && !s.rst.recovery && !s.rst.identityFault
  if s.tide.running || !ready then .next s
  else if s.cfg Ent.tideRole = 1 then .next (startMaster s)
  else .next { s with tide := { s.tide with running := true, master := false, periodNs := s.cfg Ent.tidePeriodNs, delayNs := s.cfg Ent.tideInDelayNs } }

end Sys2Proof.Machine
end

