-- ==== Sys2Proof/Machine/Dispatch.lean ====
section
/-! DEFINITION. One arm per command: the command's meaning, a definition of its own. -/

namespace Sys2Proof.Machine

open Sys2Proof

def exec (i : Instr) (s : State) : Host.Outcome State Fault Refusal :=
  match i with
  | .masterBoundary => Sys2Proof.Machine.execMasterBoundary s
  | .tideInEdge interval fall => Sys2Proof.Machine.execTideInEdge interval fall s
  | .missedEdge => Sys2Proof.Machine.execMissedEdge s
  | .countFrame => Sys2Proof.Machine.execCountFrame s
  | .tideBeacon port block => Sys2Proof.Machine.execTideBeacon port block s
  | .subTick => Sys2Proof.Machine.execSubTick s
  | .tideUnitStart => Sys2Proof.Machine.execTideUnitStart s
  | .twApply => Sys2Proof.Machine.execTwApply s
  | .collectionIdWrite req => Sys2Proof.Machine.execCollectionIdWrite req s
  | .collectionOpen req => Sys2Proof.Machine.execCollectionOpen req s
  | .collectionClose req => Sys2Proof.Machine.execCollectionClose req s
  | .collectionStorageRelease coll => Sys2Proof.Machine.execCollectionStorageRelease coll s
  | .shoalMapWrite req => Sys2Proof.Machine.execShoalMapWrite req s
  | .shoalRelease coll shoal => Sys2Proof.Machine.execShoalRelease coll shoal s
  | .slotSettle => Sys2Proof.Machine.execSlotSettle s
  | .indexAgeLimit => Sys2Proof.Machine.execIndexAgeLimit s
  | .retiredReclaim => Sys2Proof.Machine.execRetiredReclaim s
  | .query cmd input filter => Sys2Proof.Machine.execQuery cmd input filter s
  | .fragmentRequest src data => Sys2Proof.Machine.execFragmentRequest src data s
  | .fragmentReply src data => Sys2Proof.Machine.execFragmentReply src data s
  | .fragmentCutoff frag => Sys2Proof.Machine.execFragmentCutoff frag s
  | .fragmentComplete frag => Sys2Proof.Machine.execFragmentComplete frag s
  | .queryDeadline query => Sys2Proof.Machine.execQueryDeadline query s
  | .verifyReadDone frag loc => Sys2Proof.Machine.execVerifyReadDone frag loc s
  | .accession cmd vec metadata => Sys2Proof.Machine.execAccession cmd vec metadata s
  | .deaccession cmd => Sys2Proof.Machine.execDeaccession cmd s
  | .changeAtPrimary src change => Sys2Proof.Machine.execChangeAtPrimary src change s
  | .changeHeldAccept => Sys2Proof.Machine.execChangeHeldAccept s
  | .changeAtReplica src change seq commit result => Sys2Proof.Machine.execChangeAtReplica src change seq commit result s
  | .changeAcknowledgement src ack => Sys2Proof.Machine.execChangeAcknowledgement src ack s
  | .changeOutcome src done => Sys2Proof.Machine.execChangeOutcome src done s
  | .replicaAckTimeout coll shoal seq => Sys2Proof.Machine.execReplicaAckTimeout coll shoal seq s
  | .intakeGiveUp tag => Sys2Proof.Machine.execIntakeGiveUp tag s
  | .upkeepWindowOpen => Sys2Proof.Machine.execUpkeepWindowOpen s
  | .upkeepWindowClose => Sys2Proof.Machine.execUpkeepWindowClose s
  | .shoalFillStream src item => Sys2Proof.Machine.execShoalFillStream src item s
  | .fillComplete coll shoal => Sys2Proof.Machine.execFillComplete coll shoal s
  | .hostMemRead hpa => Sys2Proof.Machine.execHostMemRead hpa s
  | .hostMemWrite hpa data => Sys2Proof.Machine.execHostMemWrite hpa data s
  | .holdTimeout id => Sys2Proof.Machine.execHoldTimeout id s
  | .stackDemotion => Sys2Proof.Machine.execStackDemotion s
  | .shelfDemotion => Sys2Proof.Machine.execShelfDemotion s
  | .pageMoveSwitch page => Sys2Proof.Machine.execPageMoveSwitch page s
  | .sweepComplete slot => Sys2Proof.Machine.execSweepComplete slot s
  | .nbSequenceIssue desc => Sys2Proof.Machine.execNbSequenceIssue desc s
  | .nbSequenceStart bank => Sys2Proof.Machine.execNbSequenceStart bank s
  | .rowcopy bank => Sys2Proof.Machine.execRowcopy bank s
  | .rowinit bank => Sys2Proof.Machine.execRowinit bank s
  | .rowlogic bank => Sys2Proof.Machine.execRowlogic bank s
  | .opload bank => Sys2Proof.Machine.execOpload bank s
  | .popacc bank => Sys2Proof.Machine.execPopacc bank s
  | .accout bank => Sys2Proof.Machine.execAccout bank s
  | .seqEnd bank => Sys2Proof.Machine.execSeqEnd bank s
  | .bankSlot bank external => Sys2Proof.Machine.execBankSlot bank external s
  | .refreshVisit bank => Sys2Proof.Machine.execRefreshVisit bank s
  | .neighbourRefresh bank row => Sys2Proof.Machine.execNeighbourRefresh bank row s
  | .stackTempRead temps => Sys2Proof.Machine.execStackTempRead temps s
  | .graphLoad cmd image => Sys2Proof.Machine.execGraphLoad cmd image s
  | .graphRun cmd inTable outTable inputs => Sys2Proof.Machine.execGraphRun cmd inTable outTable inputs s
  | .graphUnload cmd => Sys2Proof.Machine.execGraphUnload cmd s
  | .unloadComplete slot => Sys2Proof.Machine.execUnloadComplete slot s
  | .runHoldRelease run => Sys2Proof.Machine.execRunHoldRelease run s
  | .runDeadline run => Sys2Proof.Machine.execRunDeadline run s
  | .convert run => Sys2Proof.Machine.execConvert run s
  | .reshape run => Sys2Proof.Machine.execReshape run s
  | .transpose run => Sys2Proof.Machine.execTranspose run s
  | .elementwise run => Sys2Proof.Machine.execElementwise run s
  | .reduce run => Sys2Proof.Machine.execReduce run s
  | .softmax run => Sys2Proof.Machine.execSoftmax run s
  | .norm run => Sys2Proof.Machine.execNorm run s
  | .quantise run => Sys2Proof.Machine.execQuantise run s
  | .dequantise run => Sys2Proof.Machine.execDequantise run s
  | .matmul run => Sys2Proof.Machine.execMatmul run s
  | .chunkFillDone run => Sys2Proof.Machine.execChunkFillDone run s
  | .distance run => Sys2Proof.Machine.execDistance run s
  | .select run => Sys2Proof.Machine.execSelect run s
  | .merge run => Sys2Proof.Machine.execMerge run s
  | .filter run => Sys2Proof.Machine.execFilter run s
  | .gather run remote => Sys2Proof.Machine.execGather run remote s
  | .scatter run => Sys2Proof.Machine.execScatter run s
  | .mergeUpdate run => Sys2Proof.Machine.execMergeUpdate run s
  | .nbMatvec run => Sys2Proof.Machine.execNbMatvec run s
  | .attendQk run => Sys2Proof.Machine.execAttendQk run s
  | .attendPv run => Sys2Proof.Machine.execAttendPv run s
  | .attend run => Sys2Proof.Machine.execAttend run s
  | .berthAppend run => Sys2Proof.Machine.execBerthAppend run s
  | .loop run => Sys2Proof.Machine.execLoop run s
  | .branch run => Sys2Proof.Machine.execBranch run s
  | .tideWait run => Sys2Proof.Machine.execTideWait run s
  | .tideWaitRelease run => Sys2Proof.Machine.execTideWaitRelease run s
  | .create cmd answer => Sys2Proof.Machine.execCreate cmd answer s
  | .park cmd => Sys2Proof.Machine.execPark cmd s
  | .parkDone berth => Sys2Proof.Machine.execParkDone berth s
  | .wake cmd => Sys2Proof.Machine.execWake cmd s
  | .wakeReady berth => Sys2Proof.Machine.execWakeReady berth s
  | .attendCommand cmd inTable outTable inputs => Sys2Proof.Machine.execAttendCommand cmd inTable outTable inputs s
  | .release cmd => Sys2Proof.Machine.execRelease cmd s
  | .handoff cmd => Sys2Proof.Machine.execHandoff cmd s
  | .checkpoint cmd => Sys2Proof.Machine.execCheckpoint cmd s
  | .berthPages src page => Sys2Proof.Machine.execBerthPages src page s
  | .berthControl src msg => Sys2Proof.Machine.execBerthControl src msg s
  | .berthCommandRelease berth => Sys2Proof.Machine.execBerthCommandRelease berth s
  | .autoPark berth => Sys2Proof.Machine.execAutoPark berth s
  | .leaseRenewal berth => Sys2Proof.Machine.execLeaseRenewal berth s
  | .leaseExpiry berth => Sys2Proof.Machine.execLeaseExpiry berth s
  | .resolveRead berth => Sys2Proof.Machine.execResolveRead berth s
  | .takeover num => Sys2Proof.Machine.execTakeover num s
  | .usageReport => Sys2Proof.Machine.execUsageReport s
  | .tableIdWrite req => Sys2Proof.Machine.execTableIdWrite req s
  | .tableOpen req => Sys2Proof.Machine.execTableOpen req s
  | .tableClose req => Sys2Proof.Machine.execTableClose req s
  | .tableStorageRelease table => Sys2Proof.Machine.execTableStorageRelease table s
  | .rowGet cmd rows remote => Sys2Proof.Machine.execRowGet cmd rows remote s
  | .rowPut cmd rows data => Sys2Proof.Machine.execRowPut cmd rows data s
  | .rowUpdate cmd rows data => Sys2Proof.Machine.execRowUpdate cmd rows data s
  | .tablePutRows src put => Sys2Proof.Machine.execTablePutRows src put s
  | .tablePutCommit src tag => Sys2Proof.Machine.execTablePutCommit src tag s
  | .tablePutWithdraw src tag => Sys2Proof.Machine.execTablePutWithdraw src tag s
  | .putAnswerDeadline cmd => Sys2Proof.Machine.execPutAnswerDeadline cmd s
  | .tableUpdateSums src sums => Sys2Proof.Machine.execTableUpdateSums src sums s
  | .tableLoadReport src table load => Sys2Proof.Machine.execTableLoadReport src table load s
  | .loadPeriod => Sys2Proof.Machine.execLoadPeriod s
  | .migrationSwitch table row => Sys2Proof.Machine.execMigrationSwitch table row s
  | .hotRowRefresh table => Sys2Proof.Machine.execHotRowRefresh table s
  | .granuleFree => Sys2Proof.Machine.execGranuleFree s
  | .freshClear => Sys2Proof.Machine.execFreshClear s
  | .cacheRead core owner line => Sys2Proof.Machine.execCacheRead core owner line s
  | .readOwn core owner line off data => Sys2Proof.Machine.execReadOwn core owner line off data s
  | .upgrade core owner line off data => Sys2Proof.Machine.execUpgrade core owner line off data s
  | .writeLine owner line data => Sys2Proof.Machine.execWriteLine owner line data s
  | .readOnce owner line => Sys2Proof.Machine.execReadOnce owner line s
  | .writeback core line lost => Sys2Proof.Machine.execWriteback core line lost s
  | .evictionNotice core line => Sys2Proof.Machine.execEvictionNotice core line s
  | .cacheAtomic owner addr op operand expected => Sys2Proof.Machine.execCacheAtomic owner addr op operand expected s
  | .invalidationAck core line => Sys2Proof.Machine.execInvalidationAck core line s
  | .firmwareWriteback addr lines => Sys2Proof.Machine.execFirmwareWriteback addr lines s
  | .firmwareInvalidate addr lines => Sys2Proof.Machine.execFirmwareInvalidate addr lines s
  | .firmwareFence => Sys2Proof.Machine.execFirmwareFence s
  | .hostSnoop line snoop => Sys2Proof.Machine.execHostSnoop line snoop s
  | .bisnpResponse line => Sys2Proof.Machine.execBisnpResponse line s
  | .signalDetect port => Sys2Proof.Machine.execSignalDetect port s
  | .equaliseDone port => Sys2Proof.Machine.execEqualiseDone port s
  | .alignDone port lanes reversed polarity => Sys2Proof.Machine.execAlignDone port lanes reversed polarity s
  | .hello port block => Sys2Proof.Machine.execHello port block s
  | .trainTimeout port => Sys2Proof.Machine.execTrainTimeout port s
  | .downRetry port => Sys2Proof.Machine.execDownRetry port s
  | .miswiredHelloRepeat port => Sys2Proof.Machine.execMiswiredHelloRepeat port s
  | .lanemap port block => Sys2Proof.Machine.execLanemap port block s
  | .laneSwitch port => Sys2Proof.Machine.execLaneSwitch port s
  | .credit port block => Sys2Proof.Machine.execCredit port block s
  | .ack port block => Sys2Proof.Machine.execAck port block s
  | .nak port block => Sys2Proof.Machine.execNak port block s
  | .frameReceived port link frame headerCrc frameCrc fecLost => Sys2Proof.Machine.execFrameReceived port link frame headerCrc frameCrc fecLost s
  | .egressSelect port => Sys2Proof.Machine.execEgressSelect port s
  | .strandRead frame => Sys2Proof.Machine.execStrandRead frame s
  | .strandWrite frame => Sys2Proof.Machine.execStrandWrite frame s
  | .strandAtomic frame => Sys2Proof.Machine.execStrandAtomic frame s
  | .register frame => Sys2Proof.Machine.execRegister frame s
  | .unregister frame => Sys2Proof.Machine.execUnregister frame s
  | .publish frame => Sys2Proof.Machine.execPublish frame s
  | .invalidate frame => Sys2Proof.Machine.execInvalidate frame s
  | .messageSegment frame => Sys2Proof.Machine.execMessageSegment frame s
  | .messageReassemblyTimeout src id => Sys2Proof.Machine.execMessageReassemblyTimeout src id s
  | .readResponse frame => Sys2Proof.Machine.execReadResponse frame s
  | .writeResponse frame => Sys2Proof.Machine.execWriteResponse frame s
  | .atomicResponse frame => Sys2Proof.Machine.execAtomicResponse frame s
  | .registerResponse frame => Sys2Proof.Machine.execRegisterResponse frame s
  | .publishResponse frame => Sys2Proof.Machine.execPublishResponse frame s
  | .invalidateResponse frame => Sys2Proof.Machine.execInvalidateResponse frame s
  | .messageResponse frame => Sys2Proof.Machine.execMessageResponse frame s
  | .readResend seq => Sys2Proof.Machine.execReadResend seq s
  | .strandGiveUp seq => Sys2Proof.Machine.execStrandGiveUp seq s
  | .atomicResend seq => Sys2Proof.Machine.execAtomicResend seq s
  | .atomicGiveUp seq => Sys2Proof.Machine.execAtomicGiveUp seq s
  | .invalidateResend seq src => Sys2Proof.Machine.execInvalidateResend seq src s
  | .publishGiveUp seq => Sys2Proof.Machine.execPublishGiveUp seq s
  | .replayEntryExpiry => Sys2Proof.Machine.execReplayEntryExpiry s
  | .histogramPeriod => Sys2Proof.Machine.execHistogramPeriod s
  | .flashEnumerationDone targets => Sys2Proof.Machine.execFlashEnumerationDone targets s
  | .lunReadDispatch chan die => Sys2Proof.Machine.execLunReadDispatch chan die s
  | .flashReadDone id fails corrected => Sys2Proof.Machine.execFlashReadDone id fails corrected s
  | .writeFlushTimer chan => Sys2Proof.Machine.execWriteFlushTimer chan s
  | .flashProgramDone chan block ok => Sys2Proof.Machine.execFlashProgramDone chan block ok s
  | .blockErase chan block => Sys2Proof.Machine.execBlockErase chan block s
  | .eraseDone chan block ok => Sys2Proof.Machine.execEraseDone chan block ok s
  | .journalFlush => Sys2Proof.Machine.execJournalFlush s
  | .journalFlushDone => Sys2Proof.Machine.execJournalFlushDone s
  | .rebuildDone => Sys2Proof.Machine.execRebuildDone s
  | .housekeepingWindowOpen => Sys2Proof.Machine.execHousekeepingWindowOpen s
  | .housekeepingWindowClose => Sys2Proof.Machine.execHousekeepingWindowClose s
  | .urgentGc chan => Sys2Proof.Machine.execUrgentGc chan s
  | .urgentRelocation chan block => Sys2Proof.Machine.execUrgentRelocation chan block s
  | .controllerEnable => Sys2Proof.Machine.execControllerEnable s
  | .readySet => Sys2Proof.Machine.execReadySet s
  | .controllerDisable => Sys2Proof.Machine.execControllerDisable s
  | .hostDisableEffect => Sys2Proof.Machine.execHostDisableEffect s
  | .hostDrainLimit => Sys2Proof.Machine.execHostDrainLimit s
  | .queueEnable pair word => Sys2Proof.Machine.execQueueEnable pair word s
  | .queueDisable pair word => Sys2Proof.Machine.execQueueDisable pair word s
  | .queueDisableDone pair => Sys2Proof.Machine.execQueueDisableDone pair s
  | .sqTailDoorbell pair value => Sys2Proof.Machine.execSqTailDoorbell pair value s
  | .cqHeadDoorbell pair value => Sys2Proof.Machine.execCqHeadDoorbell pair value s
  | .linkLostClear => Sys2Proof.Machine.execLinkLostClear s
  | .bar0Write offset size value => Sys2Proof.Machine.execBar0Write offset size value s
  | .sqFetch pair read => Sys2Proof.Machine.execSqFetch pair read s
  | .coalesceTimer pair => Sys2Proof.Machine.execCoalesceTimer pair s
  | .msixUnmask vector => Sys2Proof.Machine.execMsixUnmask vector s
  | .linkLoss => Sys2Proof.Machine.execLinkLoss s
  | .linkTrained width rate => Sys2Proof.Machine.execLinkTrained width rate s
  | .hdmCommit base size => Sys2Proof.Machine.execHdmCommit base size s
  | .getSupportedLogs => Sys2Proof.Machine.execGetSupportedLogs s
  | .getLog input => Sys2Proof.Machine.execGetLog input s
  | .catalogueTransaction input => Sys2Proof.Machine.execCatalogueTransaction input s
  | .imageStart xfer => Sys2Proof.Machine.execImageStart xfer s
  | .imageData xfer => Sys2Proof.Machine.execImageData xfer s
  | .imageEnd xfer => Sys2Proof.Machine.execImageEnd xfer s
  | .imageVerifyDone => Sys2Proof.Machine.execImageVerifyDone s
  | .imageWriteDone verified => Sys2Proof.Machine.execImageWriteDone verified s
  | .doeDiscovery index => Sys2Proof.Machine.execDoeDiscovery index s
  | .cdat handle => Sys2Proof.Machine.execCdat handle s
  | .spdm request => Sys2Proof.Machine.execSpdm request s
  | .ideKm request => Sys2Proof.Machine.execIdeKm request s
  | .capRead req => Sys2Proof.Machine.execCapRead req s
  | .capReadPending req => Sys2Proof.Machine.execCapReadPending req s
  | .capWrite req => Sys2Proof.Machine.execCapWrite req s
  | .lock req => Sys2Proof.Machine.execLock req s
  | .lockForce req => Sys2Proof.Machine.execLockForce req s
  | .unlock req => Sys2Proof.Machine.execUnlock req s
  | .describe req => Sys2Proof.Machine.execDescribe req s
  | .lockExpiry => Sys2Proof.Machine.execLockExpiry s
  | .snapshotExpiry => Sys2Proof.Machine.execSnapshotExpiry s
  | .provenanceNonceWrite req => Sys2Proof.Machine.execProvenanceNonceWrite req s
  | .provenanceRecordRead req => Sys2Proof.Machine.execProvenanceRecordRead req s
  | .eventRecordsRead req => Sys2Proof.Machine.execEventRecordsRead req s
  | .createKey req => Sys2Proof.Machine.execCreateKey req s
  | .destroy req => Sys2Proof.Machine.execDestroy req s
  | .registerGraphKey req => Sys2Proof.Machine.execRegisterGraphKey req s
  | .removeGraphKey req => Sys2Proof.Machine.execRemoveGraphKey req s
  | .fence req => Sys2Proof.Machine.execFence req s
  | .unfence req => Sys2Proof.Machine.execUnfence req s
  | .expel req => Sys2Proof.Machine.execExpel req s
  | .reinstate req => Sys2Proof.Machine.execReinstate req s
  | .setFaultKeys req => Sys2Proof.Machine.execSetFaultKeys req s
  | .signedCommandEffect => Sys2Proof.Machine.execSignedCommandEffect s
  | .faultKeysWrite req => Sys2Proof.Machine.execFaultKeysWrite req s
  | .coldResetRequest req => Sys2Proof.Machine.execColdResetRequest req s
  | .warmResetRequest req => Sys2Proof.Machine.execWarmResetRequest req s
  | .domainResetRequest req => Sys2Proof.Machine.execDomainResetRequest req s
  | .blockResetRequest req => Sys2Proof.Machine.execBlockResetRequest req s
  | .resetAssert => Sys2Proof.Machine.execResetAssert s
  | .powerOn copyA copyB => Sys2Proof.Machine.execPowerOn copyA copyB s
  | .resetNLow => Sys2Proof.Machine.execResetNLow s
  | .resetNRise => Sys2Proof.Machine.execResetNRise s
  | .railUndervoltage rail => Sys2Proof.Machine.execRailUndervoltage rail s
  | .clockStop => Sys2Proof.Machine.execClockStop s
  | .releasePoint straps => Sys2Proof.Machine.execReleasePoint straps s
  | .watchdogExpiry => Sys2Proof.Machine.execWatchdogExpiry s
  | .domainRelease avsFails => Sys2Proof.Machine.execDomainRelease avsFails s
  | .selfTestEscalation unit place => Sys2Proof.Machine.execSelfTestEscalation unit place s
  | .junctionSensorRead temps => Sys2Proof.Machine.execJunctionSensorRead temps s
  | .blockQuiesce req => Sys2Proof.Machine.execBlockQuiesce req s
  | .blockQuiesced block => Sys2Proof.Machine.execBlockQuiesced block s
  | .functionDisable req => Sys2Proof.Machine.execFunctionDisable req s
  | .functionEnable req => Sys2Proof.Machine.execFunctionEnable req s
  | .drainLimit bit => Sys2Proof.Machine.execDrainLimit bit s
  | .neapRequest req => Sys2Proof.Machine.execNeapRequest req s
  | .activeRequest req => Sys2Proof.Machine.execActiveRequest req s
  | .neapPowerOff => Sys2Proof.Machine.execNeapPowerOff s
  | .neapExitDone => Sys2Proof.Machine.execNeapExitDone s
  | .slackEntry cluster => Sys2Proof.Machine.execSlackEntry cluster s
  | .railCurrentSample watts amps => Sys2Proof.Machine.execRailCurrentSample watts amps s
  | .marginSample millivolts slack avsFails => Sys2Proof.Machine.execMarginSample millivolts slack avsFails s
  | .marginPeriod => Sys2Proof.Machine.execMarginPeriod s
  | .cmisPoll ports => Sys2Proof.Machine.execCmisPoll ports s
  | .trngHealthFail => Sys2Proof.Machine.execTrngHealthFail s
  | .trngStartupDone ok => Sys2Proof.Machine.execTrngStartupDone ok s
  | .errorEvent event => Sys2Proof.Machine.execErrorEvent event s
  | .selfTestDone unit place column passed => Sys2Proof.Machine.execSelfTestDone unit place column passed s
  | .selfTestRequest req => Sys2Proof.Machine.execSelfTestRequest req s
  | .stragglerHoldExpiry node => Sys2Proof.Machine.execStragglerHoldExpiry node s
  | .firmwareImageStarted => Sys2Proof.Machine.execFirmwareImageStarted s
  | .checkpointInstalled berth => Sys2Proof.Machine.execCheckpointInstalled berth s
  | .tapInstruction tap => Sys2Proof.Machine.execTapInstruction tap s

end Sys2Proof.Machine
end

