-- ==== Sys2Proof/WellFormed.lean ====
section
/-! DEFINITION. Which commands the hardware around the block can send: every operand within the width or range that the manual
gives it. The machine is total all the same: `exec` answers on every command. -/

namespace Sys2Proof

/-- A 16-byte control block (R433, R442). -/
def blockWf (b : Bytes) : Bool := b.length == 16

/-- A node ID (R434). -/
def nodeWf (n : Nat) : Bool := decide (n < 2 ^ 20)

/-- An owner slot (R597). -/
def ownerWf (n : Nat) : Bool := decide (n < 4096)

/-- A collection slot, a shoal of it (R109, R112). -/
def shoalWf (c sh : Nat) : Bool := decide (c < 256) && decide (sh < 65536)

/-- A node physical address or a host one. -/
def addrWf (a : Nat) : Bool := decide (a < 2 ^ 64)

/-- A line of node memory: 64 bytes. -/
def lineWf (data : Bytes) : Bool := data.length == 64

/-- A frame: the header's widths and the payload's length (the table "Frame header"). -/
def Frame.wf (f : Frame) : Bool :=
  decide (f.kind < 256) && decide (f.cls < 16) && decide (f.hops < 256) && decide (f.vc < 3) && nodeWf f.dest && nodeWf f.src
    && decide (f.job < 65536) && decide (f.seq < 2 ^ 32) && addrWf f.addr && decide (f.status < 256) && decide (f.param < 65536)
    && decide (f.payload.length ≤ 4096) && f.payload.length % 4 == 0

/-- A path: a 48-bit MAC address, or a node ID and a class. -/
def Path.wf : Path → Bool
  | .field mac _ => decide (mac < 2 ^ 48)
  | .mailbox => true
  | .strand src cls => nodeWf src && decide (cls < 16)

/-- A CAP request: the header's widths (the table "CAP header"). -/
def CapReq.wf (r : CapReq) : Bool :=
  r.path.wf && decide (r.version < 256) && decide (r.op < 256) && decide (r.flags < 256) && decide (r.session < 65536)
    && decide (r.seq < 2 ^ 32) && decide (r.index < 65536) && decide (r.sub < 256) && decide (r.typeCode < 256)
    && decide (r.offset < 2 ^ 32) && decide (r.length < 65536) && decide (r.tideField < 2 ^ 48) && decide (r.totalLength < 2 ^ 32)

def ImageXfer.wf : ImageXfer → Bool
  | .mailbox _ => true
  | .cap req => req.wf

def PageId.wf : PageId → Bool
  | .hdm _ => true
  | .berth b n => addrWf b && decide (n < 2 ^ 18)
  | .scratch _ _ => true
  | .held b n _ => addrWf b && decide (n < 2 ^ 18)

/-- A change: its shoal and the ID of an item (R73). -/
def Change.wf (c : Change) : Bool := shoalWf c.coll c.shoal && addrWf c.item && nodeWf c.intake && decide (c.tag < 2 ^ 32)

/-- The operands of a command are within their widths. -/
def Instr.wf : Instr → Bool
  -- the Tide unit and the ports
  | .tideInEdge interval fall => decide (0 < interval) && (match fall with
      | some p => decide (p < 1024)
      | none => true)
  | .tideBeacon port block | .hello port block | .lanemap port block | .credit port block | .ack port block | .nak port block =>
      decide (port < 6) && blockWf block
  | .signalDetect port | .equaliseDone port | .trainTimeout port | .downRetry port | .miswiredHelloRepeat port | .laneSwitch port
  | .egressSelect port => decide (port < 6)
  | .alignDone port lanes _ polarity => decide (port < 6) && decide (lanes < 512) && decide (polarity < 512)
  | .frameReceived port link frame headerCrc frameCrc _ =>
      decide (port < 6) && decide (link < 65536) && frame.wf && decide (headerCrc < 65536) && decide (frameCrc < 2 ^ 32)
  | .strandRead f | .strandWrite f | .strandAtomic f | .register f | .unregister f | .publish f | .invalidate f | .messageSegment f
  | .readResponse f | .writeResponse f | .atomicResponse f | .registerResponse f | .publishResponse f | .invalidateResponse f
  | .messageResponse f => f.wf
  | .readResend seq | .strandGiveUp seq | .atomicResend seq | .atomicGiveUp seq | .publishGiveUp seq => decide (seq < 2 ^ 32)
  | .messageReassemblyTimeout src id => nodeWf src && decide (id < 2 ^ 32)
  | .invalidateResend seq src => decide (seq < 2 ^ 32) && nodeWf src
  -- the Catalogue
  | .collectionIdWrite r | .collectionOpen r | .collectionClose r | .shoalMapWrite r | .tableIdWrite r | .tableOpen r | .tableClose r
  | .capRead r | .capReadPending r | .capWrite r | .lock r | .lockForce r | .unlock r | .describe r | .provenanceNonceWrite r
  | .provenanceRecordRead r | .eventRecordsRead r | .createKey r | .destroy r | .registerGraphKey r | .removeGraphKey r | .fence r
  | .unfence r | .expel r | .reinstate r | .setFaultKeys r | .faultKeysWrite r | .coldResetRequest r | .warmResetRequest r
  | .domainResetRequest r | .blockResetRequest r | .blockQuiesce r | .functionDisable r | .functionEnable r | .neapRequest r
  | .activeRequest r | .selfTestRequest r => r.wf
  | .imageStart x | .imageData x | .imageEnd x => x.wf
  -- search and changes
  | .collectionStorageRelease coll => decide (coll < 256)
  | .shoalRelease coll shoal | .fillComplete coll shoal => shoalWf coll shoal
  | .fragmentRequest src _ | .fragmentReply src _ => nodeWf src
  | .changeAtPrimary src change => nodeWf src && change.wf
  | .changeAtReplica src change seq commit result => nodeWf src && change.wf && addrWf seq && decide (commit < 2 ^ 48) && decide (result < 256)
  | .changeAcknowledgement src a => nodeWf src && shoalWf a.coll a.shoal
  | .changeOutcome src d => nodeWf src && decide (d.tag < 2 ^ 32)
  | .replicaAckTimeout coll shoal seq => shoalWf coll shoal && addrWf seq
  | .intakeGiveUp tag => decide (tag < 2 ^ 32)
  | .shoalFillStream src _ => nodeWf src
  -- memory, caches, near-bank units
  | .hostMemRead hpa => addrWf hpa && hpa % 64 == 0
  | .hostMemWrite hpa data => addrWf hpa && hpa % 64 == 0 && lineWf data
  | .pageMoveSwitch page => page.wf
  | .sweepComplete slot => ownerWf slot
  | .nbSequenceIssue desc => desc.length == 32
  | .nbSequenceStart bank | .rowcopy bank | .rowinit bank | .rowlogic bank | .opload bank | .popacc bank | .accout bank | .seqEnd bank
  | .refreshVisit bank => decide (bank < 4096)
  | .bankSlot bank _ => decide (bank < 4096)
  | .neighbourRefresh bank row => decide (bank < 4096) && decide (row < 65536)
  | .stackTempRead temps => temps.length == 8
  | .cacheRead core owner line => decide (core < 512) && ownerWf owner && addrWf line
  | .readOwn core owner line off data | .upgrade core owner line off data =>
      decide (core < 512) && ownerWf owner && addrWf line && decide (off + data.length ≤ 64)
  | .writeLine owner line data => ownerWf owner && addrWf line && lineWf data
  | .readOnce owner line => ownerWf owner && addrWf line
  | .writeback core line _ => decide (core < 512) && addrWf line
  | .evictionNotice core line | .invalidationAck core line => decide (core < 512) && addrWf line
  | .cacheAtomic owner addr op operand expected =>
      ownerWf owner && addrWf addr && decide (op < 16) && decide (operand.length ≤ 16) && decide (expected.length ≤ 16)
  | .firmwareWriteback addr lines | .firmwareInvalidate addr lines => addrWf addr && addrWf lines
  | .hostSnoop line _ => addrWf line
  | .bisnpResponse line => addrWf line
  -- graphs, berths, tables
  | .unloadComplete slot => decide (slot < 256)
  | .berthPages src p => nodeWf src && addrWf p.berth && decide (p.page < 2 ^ 18) && ownerWf p.ownerSlot
  | .berthControl src _ => nodeWf src
  | .takeover num => decide (num < 2 ^ 24)
  | .parkDone b | .wakeReady b | .berthCommandRelease b | .autoPark b | .leaseRenewal b | .leaseExpiry b | .resolveRead b
  | .checkpointInstalled b => addrWf b
  | .tableStorageRelease t => decide (t < 256)
  | .tablePutRows src p => nodeWf src && decide (p.tag < 2 ^ 32)
  | .tablePutCommit src tag | .tablePutWithdraw src tag => nodeWf src && decide (tag < 2 ^ 32)
  | .tableUpdateSums src m => nodeWf src && decide (m.table < 2 ^ 32)
  | .tableLoadReport src _ _ => nodeWf src
  | .migrationSwitch table row => decide (table < 2 ^ 32) && addrWf row
  | .hotRowRefresh table => decide (table < 2 ^ 32)
  -- flash
  | .lunReadDispatch chan _ | .writeFlushTimer chan | .urgentGc chan => decide (chan < 32)
  | .flashProgramDone chan _ _ | .blockErase chan _ | .eraseDone chan _ _ | .urgentRelocation chan _ => decide (chan < 32)
  | .flashEnumerationDone targets => targets.all fun t => decide (t.chan < 32)
  -- the host interface
  | .queueEnable pair word | .queueDisable pair word | .sqTailDoorbell pair word | .cqHeadDoorbell pair word =>
      decide (pair < 64) && decide (word < 2 ^ 32)
  | .queueDisableDone pair | .coalesceTimer pair => decide (pair < 64)
  | .sqFetch pair _ => decide (pair < 64)
  | .msixUnmask vector => decide (vector < 64)
  | .bar0Write offset size value => decide (offset < 2 ^ 20) && (size == 4 || size == 8) && offset % size == 0 && decide (value < 2 ^ (8 * size))
  | .linkTrained width rate => decide (width ≤ 8) && decide (rate ≤ 64)
  | .hdmCommit base size => addrWf base && addrWf size
  | .doeDiscovery index => decide (index < 256)
  | .cdat handle => decide (handle < 65536)
  -- resets, power, errors
  | .railUndervoltage rail => decide (rail < 7)
  | .releasePoint straps => decide (straps < 16)
  | .selfTestEscalation unit _ | .selfTestDone unit _ _ _ => decide (unit < 2 ^ 32)
  | .junctionSensorRead temps => temps.length == 6
  | .blockQuiesced block => decide (block < 2 ^ 32)
  | .drainLimit bit => decide (bit < 5)
  | .slackEntry cluster => decide (cluster < 32)
  | .railCurrentSample _ amps => amps.length == 7
  | .marginSample millivolts slack _ => millivolts.length == 7 && slack.length == 32
  | .cmisPoll ports => ports.all fun p => decide (p.port < 6)
  | .errorEvent e => decide (e.code < 256) && decide (e.unit < 2 ^ 32)
  | .stragglerHoldExpiry node => nodeWf node
  -- no operand, or operands without a bound of their own
  | .query .. | .fragmentCutoff .. | .fragmentComplete .. | .queryDeadline .. | .verifyReadDone .. | .accession .. | .deaccession ..
  | .holdTimeout .. | .graphLoad .. | .graphRun .. | .graphUnload .. | .runHoldRelease .. | .runDeadline .. | .convert .. | .reshape ..
  | .transpose .. | .elementwise .. | .reduce .. | .softmax .. | .norm .. | .quantise .. | .dequantise .. | .matmul .. | .chunkFillDone ..
  | .distance .. | .select .. | .merge .. | .filter .. | .gather .. | .scatter .. | .mergeUpdate .. | .nbMatvec .. | .attendQk ..
  | .attendPv .. | .attend .. | .berthAppend .. | .loop .. | .branch .. | .tideWait .. | .tideWaitRelease .. | .create .. | .park ..
  | .wake .. | .attendCommand .. | .release .. | .handoff .. | .checkpoint .. | .rowGet .. | .rowPut .. | .rowUpdate ..
  | .putAnswerDeadline .. | .flashReadDone .. | .getLog .. | .catalogueTransaction .. | .imageWriteDone .. | .spdm .. | .ideKm ..
  | .powerOn .. | .domainRelease .. | .trngStartupDone .. | .tapInstruction ..
  | .masterBoundary | .missedEdge | .countFrame | .subTick | .tideUnitStart | .twApply | .slotSettle | .indexAgeLimit | .retiredReclaim
  | .changeHeldAccept | .upkeepWindowOpen | .upkeepWindowClose | .stackDemotion | .shelfDemotion | .usageReport | .loadPeriod
  | .granuleFree | .freshClear | .firmwareFence | .replayEntryExpiry | .histogramPeriod | .journalFlush | .journalFlushDone
  | .rebuildDone | .housekeepingWindowOpen | .housekeepingWindowClose | .controllerEnable | .readySet | .controllerDisable
  | .hostDisableEffect | .hostDrainLimit | .linkLostClear | .linkLoss | .getSupportedLogs | .imageVerifyDone | .lockExpiry
  | .snapshotExpiry | .signedCommandEffect | .resetAssert | .resetNLow | .resetNRise | .clockStop | .watchdogExpiry | .neapPowerOff
  | .neapExitDone | .marginPeriod | .trngHealthFail | .firmwareImageStarted => true

end Sys2Proof
end

