-- ==== Sys2Proof/Safety.lean ====
section
/-! DEFINITION. What counts as a safe step and a sound state, in the terms that the statements use. -/

namespace Sys2Proof.Machine

open Sys2Proof

/-- The memory's canonical form (Cells.wf): addresses strictly rising, no entry equal to what an unlisted address reads as. -/
def MemOk (s : State) : Prop := Cells.wf s.mem.cells = true

/-- The next step stops on no address outside the memory map of R249. -/
def NoFault (s : State) : Prop := ∀ a, step s ≠ .fault (.noMemory a)

/-- Every command that waits is within its operands' widths. -/
def QueueOk (s : State) : Prop := ∀ c ∈ s.pending, c.wf = true

/-- The units of the state, the queue apart. -/
inductive UnitName where
  | out | free | tide | cat | cap | log | rst | pwr | strand | host | idx | qry
  | chg | mem | key | coh | nb | flash | gph | berth | tbl | rel | sec
  deriving DecidableEq, Repr

/-- Two states hold the same in a unit. -/
def Same (a b : State) : UnitName → Prop
  | .out => a.out = b.out
  | .free => a.free = b.free
  | .tide => a.tide = b.tide
  | .cat => a.cat = b.cat
  | .cap => a.cap = b.cap
  | .log => a.log = b.log
  | .rst => a.rst = b.rst
  | .pwr => a.pwr = b.pwr
  | .strand => a.strand = b.strand
  | .host => a.host = b.host
  | .idx => a.idx = b.idx
  | .qry => a.qry = b.qry
  | .chg => a.chg = b.chg
  | .mem => a.mem = b.mem
  | .key => a.key = b.key
  | .coh => a.coh = b.coh
  | .nb => a.nb = b.nb
  | .flash => a.flash = b.flash
  | .gph => a.gph = b.gph
  | .berth => a.berth = b.berth
  | .tbl => a.tbl = b.tbl
  | .rel => a.rel = b.rel
  | .sec => a.sec = b.sec

/-- The families of the table of commands. -/
inductive Family where
  | tide | catalogue | changes | search | memory | nearBank | graphs | tables | berths | caches | ports | strand | flash | resets | host | faults | power
  deriving DecidableEq, Repr

/-- The family of a command. -/
def familyOf : Instr → Family
  | .masterBoundary | .tideInEdge .. | .missedEdge | .countFrame | .tideBeacon .. | .subTick | .tideUnitStart | .twApply => .tide
  | .collectionIdWrite .. | .collectionOpen .. | .collectionClose .. | .shoalMapWrite .. | .tableIdWrite .. | .tableOpen ..
  | .tableClose .. | .capRead .. | .capReadPending .. | .capWrite .. | .lock .. | .lockForce .. | .unlock .. | .describe ..
  | .lockExpiry | .snapshotExpiry | .provenanceNonceWrite .. | .provenanceRecordRead .. | .eventRecordsRead ..
  | .createKey .. | .destroy .. | .registerGraphKey .. | .removeGraphKey .. | .fence .. | .unfence .. | .expel ..
  | .reinstate .. | .setFaultKeys .. | .signedCommandEffect | .faultKeysWrite .. | .coldResetRequest ..
  | .warmResetRequest .. | .domainResetRequest .. | .blockResetRequest .. | .blockQuiesce .. | .functionDisable ..
  | .functionEnable .. | .neapRequest .. | .activeRequest .. | .selfTestRequest .. => .catalogue
  | .collectionStorageRelease .. | .shoalRelease .. | .slotSettle | .indexAgeLimit | .retiredReclaim | .accession ..
  | .deaccession .. | .changeAtPrimary .. | .changeHeldAccept | .changeAtReplica .. | .changeAcknowledgement ..
  | .changeOutcome .. | .replicaAckTimeout .. | .intakeGiveUp .. | .upkeepWindowOpen | .upkeepWindowClose
  | .shoalFillStream .. | .fillComplete .. => .changes
  | .query .. | .fragmentRequest .. | .fragmentReply .. | .fragmentCutoff .. | .fragmentComplete .. | .queryDeadline ..
  | .verifyReadDone .. => .search
  | .hostMemRead .. | .hostMemWrite .. | .holdTimeout .. | .stackDemotion | .shelfDemotion | .pageMoveSwitch ..
  | .sweepComplete .. => .memory
  | .nbSequenceIssue .. | .nbSequenceStart .. | .rowcopy .. | .rowinit .. | .rowlogic .. | .opload .. | .popacc ..
  | .accout .. | .seqEnd .. | .bankSlot .. | .refreshVisit .. | .neighbourRefresh .. | .stackTempRead .. => .nearBank
  | .graphLoad .. | .graphRun .. | .graphUnload .. | .unloadComplete .. | .runHoldRelease .. | .runDeadline .. | .convert ..
  | .reshape .. | .transpose .. | .elementwise .. | .reduce .. | .softmax .. | .norm .. | .quantise .. | .dequantise ..
  | .matmul .. | .chunkFillDone .. | .distance .. | .select .. | .merge .. | .filter .. | .scatter .. | .nbMatvec ..
  | .attendQk .. | .attendPv .. | .attend .. | .berthAppend .. | .loop .. | .branch .. | .tideWait .. | .tideWaitRelease ..
  | .attendCommand .. => .graphs
  | .gather .. | .mergeUpdate .. | .tableStorageRelease .. | .rowGet .. | .rowPut .. | .rowUpdate .. | .tablePutRows ..
  | .tablePutCommit .. | .tablePutWithdraw .. | .putAnswerDeadline .. | .tableUpdateSums .. | .tableLoadReport ..
  | .loadPeriod | .migrationSwitch .. | .hotRowRefresh .. | .granuleFree | .freshClear => .tables
  | .create .. | .park .. | .parkDone .. | .wake .. | .wakeReady .. | .release .. | .handoff .. | .checkpoint ..
  | .berthPages .. | .berthControl .. | .berthCommandRelease .. | .autoPark .. | .leaseRenewal .. | .leaseExpiry ..
  | .resolveRead .. | .takeover .. | .usageReport | .checkpointInstalled .. => .berths
  | .cacheRead .. | .readOwn .. | .upgrade .. | .writeLine .. | .readOnce .. | .writeback .. | .evictionNotice ..
  | .cacheAtomic .. | .invalidationAck .. | .firmwareWriteback .. | .firmwareInvalidate .. | .firmwareFence | .hostSnoop ..
  | .bisnpResponse .. => .caches
  | .signalDetect .. | .equaliseDone .. | .alignDone .. | .hello .. | .trainTimeout .. | .downRetry ..
  | .miswiredHelloRepeat .. | .lanemap .. | .laneSwitch .. | .credit .. | .ack .. | .nak .. | .egressSelect ..
  | .histogramPeriod => .ports
  | .frameReceived .. | .strandRead .. | .strandWrite .. | .strandAtomic .. | .register .. | .unregister .. | .publish ..
  | .invalidate .. | .messageSegment .. | .messageReassemblyTimeout .. | .readResponse .. | .writeResponse ..
  | .atomicResponse .. | .registerResponse .. | .publishResponse .. | .invalidateResponse .. | .messageResponse ..
  | .readResend .. | .strandGiveUp .. | .atomicResend .. | .atomicGiveUp .. | .invalidateResend .. | .publishGiveUp ..
  | .replayEntryExpiry => .strand
  | .flashEnumerationDone .. | .lunReadDispatch .. | .flashReadDone .. | .writeFlushTimer .. | .flashProgramDone ..
  | .blockErase .. | .eraseDone .. | .journalFlush | .journalFlushDone | .housekeepingWindowOpen | .housekeepingWindowClose
  | .urgentGc .. | .urgentRelocation .. => .flash
  | .rebuildDone | .resetAssert | .powerOn .. | .resetNLow | .resetNRise | .railUndervoltage .. | .clockStop
  | .releasePoint .. | .watchdogExpiry | .domainRelease .. | .junctionSensorRead .. | .blockQuiesced ..
  | .firmwareImageStarted | .tapInstruction .. => .resets
  | .controllerEnable | .readySet | .controllerDisable | .hostDisableEffect | .hostDrainLimit | .queueEnable ..
  | .queueDisable .. | .queueDisableDone .. | .sqTailDoorbell .. | .cqHeadDoorbell .. | .linkLostClear | .bar0Write ..
  | .sqFetch .. | .coalesceTimer .. | .msixUnmask .. | .linkLoss | .linkTrained .. | .hdmCommit .. | .getSupportedLogs
  | .getLog .. | .catalogueTransaction .. | .imageStart .. | .imageData .. | .imageEnd .. | .imageVerifyDone
  | .imageWriteDone .. | .doeDiscovery .. | .cdat .. | .spdm .. | .ideKm .. => .host
  | .selfTestEscalation .. | .errorEvent .. | .selfTestDone .. => .faults
  | .drainLimit .. | .neapPowerOff | .neapExitDone | .slackEntry .. | .railCurrentSample .. | .marginSample ..
  | .marginPeriod | .cmisPoll .. | .trngHealthFail | .trngStartupDone .. | .stragglerHoldExpiry .. => .power

/-- The units that a command may change, by what 95_what_each_step_holds.md lets it reach; every other unit stays as it is. -/
def mayChange : Instr → List UnitName
  | .masterBoundary | .tideInEdge .. | .missedEdge => [.out, .free, .tide, .cat, .log, .rst, .pwr, .strand, .host, .idx, .qry, .chg, .mem, .coh, .nb, .flash, .gph, .berth, .tbl, .rel]
  | .countFrame | .tideUnitStart => [.tide]
  | .tideBeacon .. => [.tide, .cat, .log]
  | .subTick => [.tide, .strand]
  | .twApply => [.cat, .rst, .strand, .idx, .mem, .coh, .flash, .tbl]
  | .collectionIdWrite .. | .collectionOpen .. | .collectionClose .. | .shoalMapWrite .. | .tableIdWrite ..
  | .tableOpen .. | .tableClose .. | .frameReceived .. | .messageSegment .. | .catalogueTransaction .. | .imageStart ..
  | .imageData .. | .imageEnd .. | .capRead .. | .capReadPending .. | .capWrite .. | .lock .. | .lockForce ..
  | .unlock .. | .describe .. | .provenanceNonceWrite .. | .provenanceRecordRead .. | .eventRecordsRead ..
  | .createKey .. | .destroy .. | .registerGraphKey .. | .removeGraphKey .. | .fence .. | .unfence .. | .expel ..
  | .reinstate .. | .setFaultKeys .. | .faultKeysWrite .. | .coldResetRequest .. | .warmResetRequest ..
  | .domainResetRequest .. | .blockResetRequest .. | .blockQuiesce .. | .functionDisable .. | .functionEnable ..
  | .neapRequest .. | .activeRequest .. | .selfTestRequest .. => [.out, .free, .cat, .cap, .log, .rst, .strand, .host, .idx, .qry, .chg, .mem, .key, .coh, .nb, .flash, .gph, .berth, .tbl, .rel, .sec]
  | .collectionStorageRelease .. => [.cat, .idx, .mem, .coh, .flash]
  | .shoalRelease .. | .retiredReclaim | .upkeepWindowClose => [.idx, .mem, .coh, .flash]
  | .slotSettle | .upkeepWindowOpen | .fillComplete .. => [.idx]
  | .indexAgeLimit | .fragmentReply .. | .fragmentCutoff .. | .fragmentComplete .. => [.out, .free, .cat, .rst, .strand, .host, .qry, .mem, .coh, .nb, .flash, .rel]
  | .query .. | .runHoldRelease .. | .runDeadline .. | .convert .. | .reshape .. | .transpose .. | .elementwise ..
  | .reduce .. | .softmax .. | .norm .. | .quantise .. | .dequantise .. | .matmul .. | .distance .. | .select ..
  | .merge .. | .filter .. | .scatter .. | .berthAppend .. | .loop .. | .branch .. | .tideWait .. | .tideWaitRelease .. => [.out, .free, .cat, .rst, .strand, .host, .qry, .mem, .coh, .nb, .flash, .gph, .berth]
  | .fragmentRequest .. | .verifyReadDone .. | .nbMatvec .. | .attendQk .. | .attendPv .. | .attend .. => [.out, .free, .cat, .log, .rst, .strand, .host, .idx, .qry, .mem, .coh, .nb, .flash, .gph, .berth, .rel]
  | .queryDeadline .. => [.out, .free, .cat, .host, .qry, .mem, .coh, .flash]
  | .accession .. | .deaccession .. | .changeAtPrimary .. | .changeHeldAccept | .changeAtReplica ..
  | .changeAcknowledgement .. | .changeOutcome .. | .replicaAckTimeout .. | .shoalFillStream .. => [.out, .free, .cat, .strand, .host, .idx, .chg, .mem, .coh, .flash]
  | .intakeGiveUp .. => [.out, .free, .cat, .host, .chg, .mem, .coh, .flash]
  | .hostMemRead .. | .hostMemWrite .. | .neapExitDone => [.out, .free, .cat, .log, .rst, .host, .mem, .coh, .flash]
  | .holdTimeout .. => [.out, .free, .cat, .log, .host]
  | .stackDemotion => [.cat, .mem, .coh, .flash]
  | .shelfDemotion | .firmwareInvalidate .. => [.mem, .coh]
  | .pageMoveSwitch .. => [.out, .free, .cat, .log, .host, .mem, .coh, .nb, .flash]
  | .sweepComplete .. => [.key]
  | .nbSequenceIssue .. => [.out, .free, .cat, .host, .mem, .coh, .nb, .flash]
  | .nbSequenceStart .. | .stackTempRead .. => [.nb]
  | .rowcopy .. | .rowinit .. | .rowlogic .. | .opload .. | .popacc .. | .accout .. | .cmisPoll .. => [.out, .free, .cat, .log, .strand, .idx, .mem, .coh, .nb, .flash, .gph, .berth, .rel]
  | .seqEnd .. => [.out, .free, .cat, .host, .qry, .mem, .coh, .nb, .flash]
  | .bankSlot .. | .refreshVisit .. | .neighbourRefresh .. => [.cat, .nb]
  | .graphLoad .. | .graphUnload .. | .unloadComplete .. | .chunkFillDone .. => [.out, .free, .cat, .host, .mem, .coh, .flash, .gph]
  | .graphRun .. | .attendCommand .. => [.out, .free, .cat, .rst, .strand, .host, .mem, .coh, .flash, .gph, .berth]
  | .gather .. | .mergeUpdate .. => [.out, .free, .cat, .rst, .strand, .host, .qry, .mem, .coh, .nb, .flash, .gph, .berth, .tbl]
  | .create .. | .park .. | .parkDone .. | .wake .. | .wakeReady .. | .release .. | .handoff .. | .checkpoint ..
  | .berthControl .. | .berthCommandRelease .. | .autoPark .. | .leaseRenewal .. | .resolveRead .. | .takeover ..
  | .strandAtomic .. | .atomicResponse .. | .atomicGiveUp .. | .checkpointInstalled .. => [.out, .free, .cat, .strand, .host, .mem, .coh, .flash, .berth]
  | .berthPages .. => [.cat, .strand, .mem, .coh, .flash, .berth]
  | .leaseExpiry .. => [.berth]
  | .usageReport => [.free, .cat, .berth]
  | .tableStorageRelease .. => [.cat, .mem, .flash, .tbl]
  | .rowGet .. | .rowPut .. | .rowUpdate .. | .putAnswerDeadline .. | .hotRowRefresh .. | .strandRead ..
  | .readResponse .. => [.out, .free, .cat, .strand, .host, .mem, .coh, .flash, .tbl]
  | .tablePutRows .. | .tableUpdateSums .. => [.out, .free, .cat, .strand, .host, .mem, .coh, .flash, .gph, .tbl]
  | .tablePutCommit .. | .tablePutWithdraw .. | .tableLoadReport .. | .loadPeriod | .migrationSwitch .. => [.cat, .strand, .tbl]
  | .granuleFree | .freshClear => [.tbl]
  | .cacheRead .. | .readOwn .. | .upgrade .. | .writeLine .. | .readOnce .. | .cacheAtomic .. => [.out, .free, .cat, .rst, .host, .mem, .coh, .flash]
  | .writeback .. => [.free, .cat, .log, .mem, .coh]
  | .evictionNotice .. => [.free, .mem, .coh]
  | .invalidationAck .. | .firmwareFence | .sqFetch .. | .coalesceTimer .. => [.out, .free, .cat, .host, .mem, .coh, .flash]
  | .firmwareWriteback .. => [.cat, .mem, .coh]
  | .hostSnoop .. => [.out, .coh]
  | .bisnpResponse .. => [.out, .free, .cat, .log, .host, .mem, .coh, .flash]
  | .signalDetect .. | .equaliseDone .. | .hello .. | .lanemap .. | .laneSwitch .. | .credit .. | .ack ..
  | .registerResponse .. | .publishResponse .. | .replayEntryExpiry => [.strand]
  | .alignDone .. | .trainTimeout .. | .downRetry .. => [.out, .cat, .strand]
  | .miswiredHelloRepeat .. | .nak .. => [.out, .strand]
  | .egressSelect .. => [.out, .free, .cat, .strand]
  | .strandWrite .. => [.out, .free, .cat, .strand, .host, .mem, .coh, .flash]
  | .register .. | .unregister .. | .publish .. | .invalidate .. | .messageReassemblyTimeout ..
  | .invalidateResponse .. | .invalidateResend .. | .publishGiveUp .. | .histogramPeriod => [.cat, .strand]
  | .writeResponse .. | .readResend .. | .strandGiveUp .. | .atomicResend .. => [.out, .free, .cat, .strand, .host, .mem, .coh, .flash, .berth, .tbl]
  | .messageResponse .. | .hostDrainLimit | .drainLimit .. => [.out, .free, .cat, .rst, .strand, .host, .idx, .qry, .chg, .mem, .coh, .nb, .flash, .gph, .berth, .tbl, .rel]
  | .flashEnumerationDone .. => [.cat, .mem, .key, .flash]
  | .lunReadDispatch .. => [.cat, .flash]
  | .flashReadDone .. => [.out, .free, .cat, .log, .strand, .host, .idx, .mem, .key, .coh, .nb, .flash, .gph, .berth, .rel]
  | .writeFlushTimer .. | .blockErase .. | .journalFlush | .housekeepingWindowOpen | .housekeepingWindowClose
  | .urgentGc .. | .urgentRelocation .. => [.flash]
  | .flashProgramDone .. => [.out, .free, .cat, .log, .strand, .host, .idx, .chg, .mem, .coh, .flash, .berth, .sec]
  | .eraseDone .. => [.cat, .log, .flash]
  | .journalFlushDone => [.idx, .flash]
  | .rebuildDone | .resetAssert | .resetNLow | .watchdogExpiry | .junctionSensorRead .. => [.out, .free, .tide, .cat, .cap, .log, .rst, .pwr, .strand, .host, .idx, .qry, .chg, .mem, .coh, .nb, .flash, .gph, .berth, .tbl, .rel, .sec]
  | .controllerEnable | .controllerDisable | .queueEnable .. | .queueDisable .. | .sqTailDoorbell ..
  | .cqHeadDoorbell .. | .linkLostClear | .bar0Write .. | .msixUnmask .. => [.out, .cat, .host]
  | .readySet | .hostDisableEffect | .queueDisableDone .. | .hdmCommit .. => [.host]
  | .linkLoss => [.out, .free, .cat, .host, .mem, .coh, .flash, .sec]
  | .linkTrained .. => [.cat, .host]
  | .getSupportedLogs | .getLog .. => [.out, .host]
  | .imageVerifyDone => [.out, .cat, .cap, .rst, .strand, .host, .sec]
  | .imageWriteDone .. => [.out, .cat, .cap, .strand, .host, .sec]
  | .doeDiscovery .. | .cdat .. => [.out]
  | .spdm .. => [.out, .free, .sec]
  | .ideKm .. => [.out, .free, .host, .sec]
  | .lockExpiry => [.cat, .cap, .sec]
  | .snapshotExpiry => [.cap]
  | .signedCommandEffect => [.out, .free, .cat, .log, .rst, .strand, .host, .idx, .qry, .chg, .mem, .coh, .nb, .flash, .gph, .berth, .tbl, .rel]
  | .powerOn .. | .railUndervoltage .. | .clockStop => [.tide, .cat, .cap, .log, .rst, .pwr, .strand, .host, .idx, .qry, .chg, .mem, .coh, .nb, .flash, .gph, .berth, .tbl, .rel, .sec]
  | .resetNRise => [.cat, .rst]
  | .releasePoint .. => [.out, .free, .cat, .log, .rst, .strand, .idx, .mem, .coh, .nb, .flash, .gph, .berth, .rel]
  | .domainRelease .. => [.cat, .log, .rst, .pwr, .strand, .idx, .mem, .coh, .flash, .tbl, .sec]
  | .selfTestEscalation .. => [.out, .free, .tide, .cat, .cap, .log, .rst, .pwr, .strand, .host, .idx, .qry, .chg, .mem, .key, .coh, .nb, .flash, .gph, .berth, .tbl, .rel, .sec]
  | .blockQuiesced .. | .slackEntry .. | .tapInstruction .. => [.rst]
  | .neapPowerOff => [.out, .cat, .rst, .strand, .mem, .coh, .nb]
  | .railCurrentSample .. => [.free, .cat, .pwr, .nb]
  | .marginSample .. => [.cat, .log, .pwr, .rel]
  | .marginPeriod => [.cat, .rel]
  | .trngHealthFail | .trngStartupDone .. => [.free, .cat, .log, .sec]
  | .errorEvent .. | .selfTestDone .. => [.out, .free, .cat, .log, .rst, .strand, .host, .idx, .qry, .chg, .mem, .key, .coh, .nb, .flash, .gph, .berth, .tbl, .rel, .sec]
  | .stragglerHoldExpiry .. => [.qry]
  | .firmwareImageStarted => [.cat, .rst, .strand, .idx, .mem, .coh]

/-- The ranges of node physical addresses that a command itself names: of the agents' requests for lines (R402, R403, R408), the firmware's
operations on ranges (R418) and a sequence descriptor (R293). -/
def namedRanges : Instr → List (Nat × Nat)
  | .cacheRead _ _ l | .readOwn _ _ l _ _ | .upgrade _ _ l _ _ | .writeLine _ l _ | .readOnce _ l => [(64 * l, 64)]
  | .cacheAtomic _ a _ _ _ => [(64 * lineOf a, 64)]
  | .firmwareWriteback a n | .firmwareInvalidate a n => [(a / 64 * 64, 64 * n)]
  | .nbSequenceIssue d => [(field d 8 8, 16 * field d 4 4), (field d 16 8, 32)]
  | _ => []

/-! CAP requests (R556 to R562). -/

/-- The state in which a request of a session is carried out: it has been counted, expired locks and snapshots are gone,
and the session's use is noted. -/
def capIn (s : State) (r : CapReq) : State := noteUse (expireSnapshots (expireLock (s.bump Ent.capRequests))) r

/-- A well-formed new request of a session that exists reaches a Catalogue that answers. -/
def CapReady (s : State) (r : CapReq) : Prop :=
  capUp s = true ∧ r.ignored = false ∧ capMirror r = true ∧ r.malformed = false
    ∧ (session (expireSnapshots (expireLock (s.bump Ent.capRequests))) r).isSome = true
    ∧ ∃ x, session (capIn s r) r = some x ∧ x.lastSeq ≠ some r.seq

/-- The commands that carry one CAP request, each with the kind of request that it serves. -/
def capRows (r : CapReq) : List (Instr × CapKind) :=
  [(.collectionIdWrite r, .collId), (.collectionOpen r, .collOpen), (.collectionClose r, .collClose), (.shoalMapWrite r, .shoalMap),
   (.tableIdWrite r, .tableId), (.tableOpen r, .tableOpen), (.tableClose r, .tableClose), (.capRead r, .read),
   (.capReadPending r, .readPending), (.capWrite r, .write), (.lock r, .lock), (.lockForce r, .lockForce), (.unlock r, .unlock)]
  ++ [(.describe r, .describe), (.provenanceNonceWrite r, .nonce), (.provenanceRecordRead r, .provenance),
   (.eventRecordsRead r, .events), (.createKey r, .createKey), (.destroy r, .destroy), (.registerGraphKey r, .registerKey),
   (.removeGraphKey r, .removeKey), (.fence r, .fence), (.unfence r, .unfence), (.expel r, .expel), (.reinstate r, .reinstate)]
  ++ [(.setFaultKeys r, .setFaultKeys), (.faultKeysWrite r, .faultKeys), (.coldResetRequest r, .reset 0), (.warmResetRequest r, .reset 1),
   (.domainResetRequest r, .reset 2), (.blockResetRequest r, .reset 3), (.blockQuiesce r, .quiesce), (.functionDisable r, .functionDisable),
   (.functionEnable r, .functionEnable), (.neapRequest r, .neap), (.activeRequest r, .active), (.selfTestRequest r, .selfTest)]


/-! Operators of a run (R324). -/

/-- The entry of the operator at which run `r` stands. -/
def entryOf (s : State) (r : Run) : Bytes := opEntry (Graph.imageOf s r) r.pc

/-- What that operator reads: the highest status, its tensors, the state after. -/
def inputsOf (s : State) (r : Run) : Nat × List (Nat × Tens) × State :=
  Graph.readTensors s r (Graph.imageOf s r) (operatorReads (Graph.imageOf s r) (entryOf s r))

/-- What the operator sees once it has read. -/
def ctxOf (s : State) (r : Run) : Graph.Ctx := ⟨r, Graph.imageOf s r, entryOf s r, (inputsOf s r).2.1⟩

/-- The run stands at an operator of this code that it may execute, the scratch pages that it uses lie in stack or shelf memory, and
its inputs read without an error. -/
def AtOperator (s : State) (i : Nat) (r : Run) (code : Nat) : Prop :=
  Graph.run s i = some r ∧ Graph.ready s r code = true
    ∧ absentPages s (Graph.operatorScratch r (Graph.imageOf s r) (entryOf s r)) = [] ∧ (inputsOf s r).1 = St.ok

/-- The outputs of an operator are counted and stored in run `r`, which leaves run `q` in state `t`. -/
def Stores (s : State) (c : Graph.Ctx) (o : OpOut) (q : Run) (t : State) : Prop :=
  Graph.storeOuts (Graph.addCounts s o.count) c.run c.image (Graph.written c.entry o) = (St.ok, q, t)

/-- The scale vector of a streamed weight (R284): with the first chunk what the scale area holds of it, else what the run took then. -/
def ScaleIs (c : Graph.Ctx) (g : GraphSlot) (f : Fill) (v : Bytes) : Prop :=
  (∃ n, f.chunk = 0 ∧ streamedScale c.image c.entry = some n ∧ g.scales = some (n, St.ok, v))
    ∨ ((f.chunk ≠ 0 ∨ streamedScale c.image c.entry = none) ∧ v = c.run.scaleVec)

/-- The operators that always complete, with their codes and what they compute of what they see. -/
def pureOps (i : Nat) : List (Instr × Nat × (Graph.Ctx → OpOut)) :=
  [(.convert i, Op.convert, fun c => opConvert c.r0 (c.x 0)), (.reshape i, Op.reshape, fun c => ⟨[(c.x 0).pats], {}⟩),
   (.transpose i, Op.transpose, fun c => opTranspose (c.x 0)),
   (.elementwise i, Op.elementwise, fun c => opElementwise c.r0 (field c.entry 22 1) (field c.entry 24 4) (c.x 0) (c.xo 1) (c.xo 2)),
   (.reduce i, Op.reduce, fun c => opReduce c.r0 (field c.entry 22 1) (c.od 0).last (c.x 0)),
   (.softmax i, Op.softmax, fun c => opSoftmax c.r0 (c.x 0) (c.xo 1)),
   (.norm i, Op.norm, fun c => opNorm c.r0 (field c.entry 26 1 == 1) (field c.entry 22 4) (c.x 0) (c.x 1) (c.xo 2)),
   (.quantise i, Op.quantise, fun c => opQuantise c.r0 (c.x 0)), (.dequantise i, Op.dequantise, fun c => opDequantise c.r0 (c.x 0) (c.x 1))]
  ++ [(.distance i, Op.distance, fun c => opDistance (field c.entry 22 1) (c.x 0) (c.x 1) (c.xo 2) (c.xo 3)),
   (.merge i, Op.merge, fun c => opMerge (field c.entry 22 2) (c.x 0) (c.x 1) (c.x 2)),
   (.scatter i, Op.scatter, fun c => opScatter ((c.od 0).dims.headD 0) (c.od 0).last (c.x 0) (c.x 1) (c.xo 2))]

/-! Memory as the node's agents see it (R403). -/

/-- The byte that a read of an address returns: that of the copy that supplies its line. -/
def byteSeen (s : State) (a : Nat) : Byte := (padTo 64 (Coh.supply s (lineOf a)).1).getD (a % 64) 0

/-- A slice that evicts a line (R404) leaves what the line supplies: its data, and its owner. -/
def evictKeeps (s : State) (line : Nat) : Prop :=
  padTo 64 (Coh.supply (Coh.evict s line) line).1 = padTo 64 (Coh.supply s line).1 ∧ (Coh.supply (Coh.evict s line) line).2 = (Coh.supply s line).2

/-- The line of the destination to which a store to a line also goes while its page moves to stack or shelf memory (R274). -/
def mirrorOf (s : State) (line : Nat) : Option Nat :=
  (Coh.moveOf s line).bind fun v => (Mem.Tier.addr v.to_).map fun b => lineOf b + line % 1024

end Sys2Proof.Machine
end

