-- ==== Sys2Proof/Certificates/Slice0/Obligations.lean ====
section
/-! DEFINITION. The statements for the provers. Each is a property of the model that a rule of the spec gives; where a statement
rests on a choice of the model, its docstring names the log entry. -/

open Sys2Proof Sys2Proof.Machine

/-- A step runs the command at the front of the queue; an empty queue idles (model choice, log entry 11). For every command c and state s whose queue
is c followed by rest, step s is exec c on s with the queue rest. With an empty queue step answers next s, which is the choice of log entry 11.
(95_what_each_step_holds.md) -/
def Obligations.StepRunsTheFrontCommand : Prop :=
  (∀ (c : Instr) (rest : List Instr) (s : State), s.pending = c :: rest → step s = exec c { s with pending := rest }) ∧
  (∀ s : State, s.pending = [] → step s = .next s)

/-- What the reset state holds: no Tide, nothing released, every Catalogue entry at its default. At State.reset the queue is empty, the Tide unit is not
running, its state is Acquiring and it holds no count, every reset domain is in reset with the power-on cold reset asserted, every Catalogue entry
reads its default both as last written and in force, and memory, caches, ports, queries, runs and host commands are empty. The default of an entry is
its Default column; that State.reset is the part at power-on is log entry 10. (02_tide.md R34, R38, R39, 19_reset_power.md R617, R618, R643,
16_catalogue.md (Default column)) -/
def Obligations.ResetHoldsTheStatedValues : Prop :=
  State.reset.pending = [] ∧ State.reset.out = [] ∧ State.reset.tide.running = false ∧ State.reset.tide.state = .acquiring ∧
  State.reset.tide.count = 0 ∧ State.reset.tide.phase = 0 ∧ (∀ d, State.reset.up d = false) ∧
  State.reset.rst.asserted = some ⟨1, 0, 0, 0, 0, 0⟩ ∧
  (∀ k, State.reset.cat.get k = dfltOf k ∧ State.reset.cat.inForce k = dfltOf k) ∧
  State.reset.mem.cells = [] ∧ State.reset.coh.l1 = [] ∧ State.reset.qry.queries = [] ∧ State.reset.gph.runs = [] ∧
  State.reset.host.cmds = [] ∧ (∀ p, p < 6 → (State.reset.port p).state = .disabled) ∧
  (∀ q, q < 64 → (State.reset.pair q).enabled = false)

/-- The reset state has canonical memory and a queue of well-formed commands. MemOk and QueueOk hold at State.reset: the invariant of StepKeepsSound
holds there. (08_memory_tiers.md R249) -/
def Obligations.SoundAtReset : Prop :=
  MemOk State.reset ∧ QueueOk State.reset

/-- Every step keeps memory canonical and the queue well formed. For every state s whose memory is in canonical form (addresses strictly rising, no
entry equal to what an unlisted address reads as) and whose queue holds well-formed commands, if step s answers next t then t has both. It holds for
every command from every such state, reached or not. (08_memory_tiers.md R249 to R251, 95_what_each_step_holds.md) -/
def Obligations.StepKeepsSound : Prop :=
  ∀ s t : State, MemOk s → QueueOk s → step s = .next t → MemOk t ∧ QueueOk t

/-- No command is refused, and only commands that name a raw address can fault. For every command c and state s, exec c s is no refusal; and where it
is a fault, c is a near-bank sequence issue, a request of an agent for a line (CACHE_READ, READ_OWN, UPGRADE, WRITE_LINE, READ_ONCE, CACHE_ATOMIC), or
a firmware cache operation, and the fault is noMemory. (08_memory_tiers.md R249, 95_what_each_step_holds.md) -/
def Obligations.ExecNeverRefuses : Prop :=
  ∀ (c : Instr) (s : State),
    (∀ r, exec c s ≠ .refused r) ∧
    (∀ f, exec c s = .fault f → (∃ a, f = .noMemory a) ∧
      ((∃ d, c = .nbSequenceIssue d) ∨ (∃ x y z, c = .cacheRead x y z) ∨ (∃ x y z u v, c = .readOwn x y z u v) ∨
       (∃ x y z u v, c = .upgrade x y z u v) ∨ (∃ x y z, c = .writeLine x y z) ∨ (∃ x y, c = .readOnce x y) ∨
       (∃ x y z u v, c = .cacheAtomic x y z u v) ∨ (∃ x y, c = .firmwareWriteback x y) ∨ (∃ x y, c = .firmwareInvalidate x y)))

/-- No command changes the queue of commands that wait. For every command c and states s and t, if exec c s answers next t then t has the queue of s.
(95_what_each_step_holds.md) -/
def Obligations.ExecLeavesTheQueue : Prop :=
  ∀ (c : Instr) (s t : State), exec c s = .next t → t.pending = s.pending

/-- Only the commands of the Tide unit and the resets change the Tide unit. For every command c other than the seven of the Tide unit, the reset sources
and asserts, the junction sensor, a self-test escalation and the end of the rebuild (which may assert a reset), if exec c s answers next t then the
whole Tide unit of t (count, phase, state, run lengths, fault bits, symbols) is that of s. (02_tide.md R34, R41, R43, R50, R53, 19_reset_power.md
R618) -/
def Obligations.TideCountMovesOnlyByTheTideAndResets : Prop :=
  ∀ (c : Instr) (s t : State), exec c s = .next t → familyOf c ≠ .tide → c ≠ .resetAssert → c ≠ .resetNLow → c ≠ .clockStop →
    c ≠ .watchdogExpiry → c ≠ .rebuildDone → (∀ a b, c ≠ .powerOn a b) → (∀ r, c ≠ .railUndervoltage r) →
    (∀ l, c ≠ .junctionSensorRead l) → (∀ u p, c ≠ .selfTestEscalation u p) → t.tide = s.tide

/-- Frame: Tide, change and search commands leave every unit outside their own alone. For every command c of these families (tide, changes, search) and
states s and t, if exec c s answers next t, then every unit of the state that mayChange c does not list is in t what it is in s: registers, queues,
memory, keys and flags alike. mayChange names the units by command, so that every unit of the machine is either named for a command or unchanged by
it. Where the memory unit is not named, every byte of memory reads as before. (02_tide.md, 04_query_execution.md, 07_accession.md,
95_what_each_step_holds.md) -/
def Obligations.TideAndSearchFrame : Prop :=
  ∀ (c : Instr) (s t : State), (familyOf c = .tide ∨ familyOf c = .changes ∨ familyOf c = .search) → exec c s = .next t →
    (∀ u, u ∉ mayChange c → Same t s u) ∧ (.mem ∉ mayChange c → ∀ a, Cells.read t.mem.cells a = Cells.read s.mem.cells a)

/-- Frame: CAP and host interface commands leave every unit outside their own alone. For every command c of these families (catalogue, host) and
states s and t, if exec c s answers next t, then every unit of the state that mayChange c does not list is in t what it is in s: registers, queues,
memory, keys and flags alike. mayChange names the units by command, so that every unit of the machine is either named for a command or unchanged by
it. Where the memory unit is not named, every byte of memory reads as before. (15_host_interface.md, 16_catalogue.md, 95_what_each_step_holds.md) -/
def Obligations.CatalogueAndHostFrame : Prop :=
  ∀ (c : Instr) (s t : State), (familyOf c = .catalogue ∨ familyOf c = .host) → exec c s = .next t →
    (∀ u, u ∉ mayChange c → Same t s u) ∧ (.mem ∉ mayChange c → ∀ a, Cells.read t.mem.cells a = Cells.read s.mem.cells a)

/-- Frame: memory, near-bank and cache commands leave every unit outside their own alone. For every command c of these families (memory, nearBank,
caches) and states s and t, if exec c s answers next t, then every unit of the state that mayChange c does not list is in t what it is in s:
registers, queues, memory, keys and flags alike. mayChange names the units by command, so that every unit of the machine is either named for a command
or unchanged by it. Where the memory unit is not named, every byte of memory reads as before. (08_memory_tiers.md, 09_near_bank.md, 12_coherence.md,
95_what_each_step_holds.md) -/
def Obligations.MemoryNearBankAndCacheFrame : Prop :=
  ∀ (c : Instr) (s t : State), (familyOf c = .memory ∨ familyOf c = .nearBank ∨ familyOf c = .caches) → exec c s = .next t →
    (∀ u, u ∉ mayChange c → Same t s u) ∧ (.mem ∉ mayChange c → ∀ a, Cells.read t.mem.cells a = Cells.read s.mem.cells a)

/-- Frame: graph, berth and table commands leave every unit outside their own alone. For every command c of these families (graphs, berths, tables) and
states s and t, if exec c s answers next t, then every unit of the state that mayChange c does not list is in t what it is in s: registers, queues,
memory, keys and flags alike. mayChange names the units by command, so that every unit of the machine is either named for a command or unchanged by
it. Where the memory unit is not named, every byte of memory reads as before. (10_operator_graphs.md, 11_sessions_pools_tables.md,
95_what_each_step_holds.md) -/
def Obligations.GraphBerthAndTableFrame : Prop :=
  ∀ (c : Instr) (s t : State), (familyOf c = .graphs ∨ familyOf c = .berths ∨ familyOf c = .tables) → exec c s = .next t →
    (∀ u, u ∉ mayChange c → Same t s u) ∧ (.mem ∉ mayChange c → ∀ a, Cells.read t.mem.cells a = Cells.read s.mem.cells a)

/-- Frame: Strand and flash commands leave every unit outside their own alone. For every command c of these families (ports, strand, flash) and states s
and t, if exec c s answers next t, then every unit of the state that mayChange c does not list is in t what it is in s: registers, queues, memory,
keys and flags alike. mayChange names the units by command, so that every unit of the machine is either named for a command or unchanged by it. Where
the memory unit is not named, every byte of memory reads as before. (13_strand_fabric.md, 14_flash_curator.md, 95_what_each_step_holds.md) -/
def Obligations.StrandAndFlashFrame : Prop :=
  ∀ (c : Instr) (s t : State), (familyOf c = .ports ∨ familyOf c = .strand ∨ familyOf c = .flash) → exec c s = .next t →
    (∀ u, u ∉ mayChange c → Same t s u) ∧ (.mem ∉ mayChange c → ∀ a, Cells.read t.mem.cells a = Cells.read s.mem.cells a)

/-- Frame: reset, fault and power commands leave every unit outside their own alone. For every command c of these families (resets, faults, power) and
states s and t, if exec c s answers next t, then every unit of the state that mayChange c does not list is in t what it is in s: registers, queues,
memory, keys and flags alike. mayChange names the units by command, so that every unit of the machine is either named for a command or unchanged by
it. Where the memory unit is not named, every byte of memory reads as before. (17_reliability.md, 19_reset_power.md, 20_electrical.md,
95_what_each_step_holds.md) -/
def Obligations.ResetFaultAndPowerFrame : Prop :=
  ∀ (c : Instr) (s t : State), (familyOf c = .resets ∨ familyOf c = .faults ∨ familyOf c = .power) → exec c s = .next t →
    (∀ u, u ∉ mayChange c → Same t s u) ∧ (.mem ∉ mayChange c → ∀ a, Cells.read t.mem.cells a = Cells.read s.mem.cells a)

/-- A read after a write gives the bytes written, and a write leaves every other byte alone. For every canonical memory, address and list of bytes: the
write is canonical again, reading the written range gives the bytes written in order, and every byte outside the range reads as before. That a byte
nothing has written reads 0 is the choice of log entry 45 and is not part of the statement. (08_memory_tiers.md R249, R250, 00_scope.md R5) -/
def Obligations.MemoryReadsWhatWasWritten : Prop :=
  ∀ (m : List Host.Cell) (a : Nat) (bs : Bytes), Cells.wf m = true →
    Cells.wf (Cells.write m a bs) = true ∧
    (∀ i, i < bs.length → Cells.read (Cells.write m a bs) (a + i) = bs.getD i 0) ∧
    (∀ b, (b < a ∨ a + bs.length ≤ b) → Cells.read (Cells.write m a bs) b = Cells.read m b)

/-- The Tide commands complete with the effect of their rules. MASTER_BOUNDARY on a running master makes a boundary: count is the first count or one
more, phase 0, Locked. MISSED_EDGE on a follower with a count makes the boundary: count one more, one more missed edge. COUNT_FRAME takes the implied
count of the frame. TIDE_IN_EDGE in Locked, in the window and at the period, places a boundary at count + 1 that lies before the edge by
TideInDelayNs, no missed run. TIDE_BEACON of a Locked neighbour notes the sender and the count it gives to the next edge. SUB_TICK advances the phase.
TIDE_UNIT_START takes role, period and delay. TW_APPLY makes the applies of the boundary. (R37, R39, R41, R43, R47, R49, R50, R51, R59) -/
def Obligations.TideCommandsComplete : Prop :=
  (∀ (s : State), s.tide.running = true → s.tide.master = true → ∃ t, exec .masterBoundary s = .next t ∧ t.tide.count = (if s.tide.count = 0 then firstCount s else s.tide.count + 1) ∧ t.tide.phase = 0 ∧ t.tide.overrun = 0 ∧ t.tide.state = .locked) ∧
  (∀ (s : State), follows s = true → s.tide.count ≠ 0 → ∃ t, exec .missedEdge s = .next t ∧ t.tide.count = s.tide.count + 1 ∧ t.tide.missedRun = s.tide.missedRun + 1 ∧ t.tide.goodRun = 0) ∧
  (∀ (n : Nat) (s : State), follows s = true → frameCount s.tide.symbols = some n → exec .countFrame s = .next ({ s with tide := { s.tide with implied := some n } })) ∧
  (∀ (i : Nat) (f : Option Nat) (s : State), follows s = true → s.tide.state = .locked → s.tide.inWindow (s.tide.elapsed i) = true → (noteEdge s i (classify f)).tide.periodFault = false → ∃ t, exec (.tideInEdge i f) s = .next t ∧ t.tide.count = s.tide.count + 1 ∧ t.tide.phase = min 1023 s.tide.delayTicks ∧ t.tide.missedRun = 0 ∧ t.tide.state = .locked) ∧
  (∀ (p : Nat) (b : Bytes) (s : State), portIn s p .up = true → blockOk 1 b = true → field b 1 1 % 4 = 1 → s.tide.state = .acquiring → follows s = true → s.tide.count = 0 → s.tide.anyEdge = true → ∃ t, exec (.tideBeacon p b) s = .next t ∧ (∃ n, ⟨field b 8 3 % 2 ^ 20, n⟩ ∈ t.tide.beacons ∧ n = (if s.tide.phase < 512 ∧ s.tide.overrun = 0 then field b 2 6 + 1 else field b 2 6)) ∧ t.tide.count = s.tide.count) ∧
  (∀ (s : State), s.tide.running = true → ∃ t, exec .subTick s = .next t ∧ t.tide.phase = (if s.tide.phase < 1023 ∧ s.tide.overrun = 0 then s.tide.phase + 1 else s.tide.phase) ∧ t.tide.count = s.tide.count ∧ t.subticks = s.subticks + 1) ∧
  (∀ (s : State), s.tide.running = false → s.up 6 = true → s.rst.romStarting = true → s.rst.recovery = false → s.rst.identityFault = false → ∃ t, exec .tideUnitStart s = .next t ∧ t.tide.running = true ∧ t.tide.master = decide (s.cfg Ent.tideRole = 1) ∧ t.tide.periodNs = s.cfg Ent.tidePeriodNs ∧ t.tide.delayNs = s.cfg Ent.tideInDelayNs) ∧
  (∀ (s : State), exec .twApply s = .next (makeApplies s))

/-- A Strand port trains: signal, equalise, align, Hello, retries. In the state that each event belongs to: SIGNAL_DETECT goes to Equalise,
EQUALISE_DONE to Align, ALIGN_DONE with enough lanes to Hello with the lanes used and sends the Hello block, HELLO that passes brings the port Up with
fresh credits and sequence numbers and HELLO that fails makes it Miswired with fault bit 0, TRAIN_TIMEOUT brings it Down, DOWN_RETRY to Detect, and a
Miswired port repeats its Hello after 1,024 Tides. (R422, R425, R426, R428) -/
def Obligations.PortTrainingCompletes : Prop :=
  (∀ (p : Nat) (s : State), portIn s p .detect = true → exec (.signalDetect p) s = .next (mapPort s p fun x => { x with state := .equalise })) ∧
  (∀ (p : Nat) (s : State), portIn s p .equalise = true → exec (.equaliseDone p) s = .next (mapPort s p fun x => { x with state := .align })) ∧
  (∀ (p l : Nat) (r : Bool) (q : Nat) (use : List Nat) (s : State), portIn s p .align = true → use = chooseLanes (if (s.port p).fourLanes then ((laneList l).filter fun i => !(s.port p).failed.contains i).take 4 else (laneList l).filter fun i => !(s.port p).failed.contains i) → use ≠ [] → exec (.alignDone p l r q) s = .next (sendBlock (mapPort s p fun x => { x with
      state := .hello, mask := laneMask use, reversed := r, polarity := q % 512
      spareUsed := decide (((laneList l).filter fun i => !(s.port p).failed.contains i).length < 9)
      faults := if use.length = 4 then x.faults ||| 2 else x.faults &&& 1, helloTide := s.now }) p
      (helloBlock (mapPort s p fun x => { x with
      state := .hello, mask := laneMask use, reversed := r, polarity := q % 512
      spareUsed := decide (((laneList l).filter fun i => !(s.port p).failed.contains i).length < 9)
      faults := if use.length = 4 then x.faults ||| 2 else x.faults &&& 1, helloTide := s.now }) p))) ∧
  (∀ (p : Nat) (b : Bytes) (u : State) (s : State), (portIn s p .hello || portIn s p .miswired) = true → blockOk 5 b = true → u = mapPort s p (fun x => { x with neighbour := field b 2 3 % 2 ^ 20 }) → helloPasses u p b = true → exec (.hello p b) s = .next (mapPort u p fun x => { x with state := .up, faults := x.faults &&& 2, credits := List.replicate 48 128, txSeq := 0, rxSeq := 0, retry := [] })) ∧
  (∀ (p : Nat) (b : Bytes) (u : State) (s : State), (portIn s p .hello || portIn s p .miswired) = true → blockOk 5 b = true → u = mapPort s p (fun x => { x with neighbour := field b 2 3 % 2 ^ 20 }) → helloPasses u p b = false → exec (.hello p b) s = .next (mapPort u p fun x => { x with state := .miswired, faults := x.faults ||| 1, helloTide := if x.state = .miswired then x.helloTide else s.now })) ∧
  (∀ (p : Nat) (s : State), (portIn s p .equalise || portIn s p .align) = true → exec (.trainTimeout p) s = .next (enterDown s p)) ∧
  (∀ (p : Nat) (s : State), portIn s p .down = true → exec (.downRetry p) s = .next (enterDetect s p)) ∧
  (∀ (p : Nat) (s : State), portIn s p .miswired = true → (s.port p).helloTide + 1024 ≤ s.now → exec (.miswiredHelloRepeat p) s = .next (sendBlock (mapPort s p fun x => { x with helloTide := s.now }) p (helloBlock s p)))

/-- A port in Up takes its control blocks, switches lanes, starts frames and publishes histograms. On a port that is Up: LANEMAP notes the switch it
names, LANE_SWITCH takes the new lanes, CREDIT adds credits of a class and VC up to 128, ACK drops the acknowledged frames from the retry buffer, NAK
drops those before the named frame and sends the rest again, EGRESS_SELECT starts the head frame of the chosen queue. HISTOGRAM_PERIOD at its boundary
leaves Tide, memory and requests alone and publishes through the Catalogue. (R427, R430, R431, R462, R465) -/
def Obligations.PortTrafficCompletes : Prop :=
  (∀ (p : Nat) (b : Bytes) (s : State), portIn s p .up = true → blockOk 6 b = true → exec (.lanemap p b) s = .next (mapPort s p fun x => { x with laneSwitch := some ⟨field b 1 1, field b 2 4, field b 6 1 + 256 * (field b 7 1 % 2)⟩ })) ∧
  (∀ (p : Nat) (w : LaneSwitch) (s : State), portRuns s p = true → (s.port p).laneSwitch = some w → exec (.laneSwitch p) s = .next (mapPort s p fun x => { x with mask := w.mask, laneSwitch := none, spareUsed := true })) ∧
  (∀ (p : Nat) (b : Bytes) (s : State), portIn s p .up = true → blockOk 2 b = true → field b 1 1 / 16 % 4 ≠ 3 → exec (.credit p b) s = .next (mapPort s p fun x => { x with credits := modifyAt x.credits (field b 1 1 % 16 * 3 + field b 1 1 / 16 % 4) fun n => min 128 (n + field b 2 2) })) ∧
  (∀ (p : Nat) (b : Bytes) (s : State), portIn s p .up = true → blockOk 3 b = true → exec (.ack p b) s = .next (mapPort s p fun x => { x with retry := x.retry.filter fun r => !(r.link == field b 1 2 || linkBefore r.link (field b 1 2)) })) ∧
  (∀ (p : Nat) (b : Bytes) (u : State) (s : State), portIn s p .up = true → blockOk 4 b = true → u = mapPort s p (fun x => { x with retry := x.retry.filter fun r => !linkBefore r.link (field b 1 2) }) → exec (.nak p b) s = .next ((u.port p).retry.foldl (fun s r => s.emit (linkFrame p r)) u)) ∧
  (∀ (p q : Nat) (ds : List Nat) (s : State), portIn s p .up = true → chooseQueue s p = some (q, ds) → exec (.egressSelect p) s = .next (startFrame s p q ds)) ∧
  (∀ (s : State), s.up 4 = true → s.cfg Ent.histPeriod ≠ 0 → s.now % s.cfg Ent.histPeriod = 0 → ∃ t, exec .histogramPeriod s = .next t ∧ t.strand.ports.length = s.strand.ports.length ∧ (∀ p, p < 6 → p < s.strand.ports.length → (t.port p).depthHist = List.replicate 256 0 ∧ (t.port p).delayHist = List.replicate 256 0))

/-- Request frames for this node are served by their kind. While the fabric and node firmware run, a frame of the kind that a row carries is served as
that kind: READ, WRITE, ATOMIC, REGISTER, UNREGISTER, PUBLISH, INVALIDATE, message segments. A request that an agent of this node makes for
another node is sent there. FRAME_RECEIVED on a port that is Up runs the link checks,
and a good frame for another node is forwarded while one for this node gives its credits back and is taken by its kind. A message whose first segment
is 16 Tides old is discarded, and answered with RETRY unless it was refused. (R430, R446, R448, R451, R452, R453, R454, R456, R458) -/
def Obligations.StrandRequestsAreServed : Prop :=
  (∀ (f : Frame) (s : State), strandRuns s = true → f.kind = Kind.read → f.dest = s.strand.nodeId → exec (.strandRead f) s = .next (serveRead s f)) ∧
  (∀ (f : Frame) (s : State), strandRuns s = true → f.kind = Kind.write → f.dest = s.strand.nodeId → exec (.strandWrite f) s = .next (serveWrite s f)) ∧
  (∀ (f : Frame) (s : State), strandRuns s = true → f.kind = Kind.atomic → f.dest = s.strand.nodeId → exec (.strandAtomic f) s = .next (serveAtomic s f)) ∧
  (∀ (f : Frame) (s : State), strandRuns s = true → f.kind = Kind.register → f.dest = s.strand.nodeId → exec (.register f) s = .next (serveRegister s f)) ∧
  (∀ (f : Frame) (s : State), strandRuns s = true → f.kind = Kind.unregister → f.dest = s.strand.nodeId → exec (.unregister f) s = .next (serveUnregister s f)) ∧
  (∀ (f : Frame) (s : State), strandRuns s = true → f.kind = Kind.publish → f.dest = s.strand.nodeId → exec (.publish f) s = .next (servePublish s f)) ∧
  (∀ (f : Frame) (s : State), strandRuns s = true → f.kind = Kind.invalidate → f.dest = s.strand.nodeId → exec (.invalidate f) s = .next (serveInvalidate s f)) ∧
  (∀ (f : Frame) (s : State), strandRuns s = true → f.kind = Kind.message → exec (.messageSegment f) s = .next (serveSegment s f serveMirror)) ∧
  (∀ (c : Instr) (f : Frame) (s : State), strandRuns s = true → f.dest ≠ s.strand.nodeId → f.src = s.strand.nodeId →
    (c, f.kind) ∈ [(.strandRead f, Kind.read), (.strandWrite f, Kind.write), (.strandAtomic f, Kind.atomic), (.register f, Kind.register),
      (.unregister f, Kind.unregister), (.publish f, Kind.publish)] → exec c s = .next (originateRequest s f)) ∧
  (∀ (p l : Nat) (f : Frame) (h g : Nat) (b : Bool) (u : State) (s : State), portIn s p .up = true → linkReceive s p l f h g b = (true, u) → f.dest = s.strand.nodeId → exec (.frameReceived p l f h g b) s = .next (takeFrame (returnCredits u f (some ⟨p, f.cls, f.vc⟩)) f)) ∧
  (∀ (p l : Nat) (f : Frame) (h g : Nat) (b : Bool) (u : State) (s : State), portIn s p .up = true → linkReceive s p l f h g b = (true, u) → f.dest ≠ s.strand.nodeId → exec (.frameReceived p l f h g b) s = .next (forwardFrame u p f)) ∧
  (∀ (a i : Nat) (m : InMsg) (s : State), strandRuns s = true → (s.strand.inMsgs.find? fun m => m.src == a && m.id == i) = some m → m.first + 16 ≤ s.now → exec (.messageReassemblyTimeout a i) s = .next (if m.refused then dropIn s m else respond (dropIn s m) (messageFrame m) St.retry (s.now + 1) []))

/-- A response ends the request it answers with its status and data. While the fabric runs, a response of a kind whose request is outstanding ends that
request with the status it carries: READ with 64 bytes where OK (and installs a registered line), WRITE and INVALIDATE without data, ATOMIC and
PUBLISH with their payload (the copies that this node holds of a published range go), REGISTER noting the page where OK. A message response answers its message. (R446, R451, R452, R454, R455, R460) -/
def Obligations.StrandResponsesEndTheirRequests : Prop :=
  (∀ (f : Frame) (r : Request) (s : State), strandRuns s = true → f.kind = Kind.read + 0x80 → requestOf s f = some r → f.status = St.ok → (r.purpose = .line ∨ r.purpose = .none) → exec (.readResponse f) s = .next (endRequest (installLine s r (padTo 64 f.payload)) r St.ok (padTo 64 f.payload) (f.addr % 2 ^ 48))) ∧
  (∀ (f : Frame) (r : Request) (s : State), strandRuns s = true → f.kind = Kind.read + 0x80 → requestOf s f = some r → f.status ≠ St.ok → (r.purpose = .line ∨ r.purpose = .none) → exec (.readResponse f) s = .next (endRequest s r f.status [] (f.addr % 2 ^ 48))) ∧
  (∀ (f : Frame) (r : Request) (s : State), strandRuns s = true → f.kind = Kind.read + 0x80 → requestOf s f = some r →
    ((∃ a b c d, r.purpose = .entry a b c d) ∨ ∃ a b c d e, r.purpose = .granule a b c d e) →
    exec (.readResponse f) s = .next (Table.rowCame (dropRequest s r) r.purpose f.status (if f.status = St.ok then padTo 64 f.payload else []))) ∧
  (∀ (f : Frame) (r : Request) (s : State), strandRuns s = true → f.kind = Kind.write + 0x80 → requestOf s f = some r → exec (.writeResponse f) s = .next (releaseHeld (endRequest s r f.status [] (f.addr % 2 ^ 48)))) ∧
  (∀ (f : Frame) (r : Request) (s : State), strandRuns s = true → f.kind = Kind.atomic + 0x80 → requestOf s f = some r → exec (.atomicResponse f) s = .next (atomicAnswered (endRequest s r f.status f.payload (f.addr % 2 ^ 48)) r f.status f.payload)) ∧
  (∀ (f : Frame) (r : Request) (u : State) (s : State), strandRuns s = true → f.kind = Kind.register + 0x80 → requestOf s f = some r → f.status = St.ok → u = endRequest s r St.ok [] (f.addr % 2 ^ 48) → exec (.registerResponse f) s = .next ({ u with strand := { u.strand with registered := u.strand.registered ++ [(r.frame.dest, r.frame.job, r.frame.addr / 4096)] } })) ∧
  (∀ (f : Frame) (r : Request) (s : State), strandRuns s = true → f.kind = Kind.publish + 0x80 → requestOf s f = some r → exec (.publishResponse f) s = .next (endRequest (spoilRemote s r.frame.dest r.frame.job r.frame.addr (field r.frame.payload 0 8)) r f.status f.payload (f.addr % 2 ^ 48))) ∧
  (∀ (f : Frame) (s : State), strandRuns s = true → f.kind = Kind.invalidate + 0x80 → f.status = St.ok → exec (.invalidateResponse f) s = .next (readerDone s f.seq f.src)) ∧
  (∀ (f : Frame) (m : OutMsg) (s : State), strandRuns s = true → f.kind = Kind.message + 0x80 → messageOut s f = some m → exec (.messageResponse f) s = .next (messageAnswered s m f.status (f.addr % 2 ^ 48)))

/-- Resends, give-ups and expiries act at the Tides that their rules name. A READ is sent again 4 Tides after its last send; READ and WRITE end with
INDETERMINATE 48 Tides after issue; an ATOMIC is sent again AtomicRetryTides after its last send while its 48 Tides last, and then ends with
INDETERMINATE and is counted; an INVALIDATE is sent again to a reader InvalidateResend Tides after the last; a PUBLISH ends with INDETERMINATE after
48 Tides and is counted; replay entries go 64 Tides after they were made. (R451, R456, R459, R460) -/
def Obligations.StrandTimersActAtTheirTides : Prop :=
  (∀ (n : Nat) (r : Request) (s : State), findRequest s n Kind.read = some r → strandRuns s = true → r.held = false → requestsHeld s r.frame.cls = false → r.lastSend + 4 ≤ s.now → exec (.readResend n) s = .next (resend s r)) ∧
  (∀ (n : Nat) (r : Request) (s : State), (findRequest s n Kind.read).orElse (fun _ => findRequest s n Kind.write) = some r → strandRuns s = true → r.held = false → r.issue + 48 ≤ s.now → exec (.strandGiveUp n) s = .next (if r.frame.kind = Kind.read then readEnds s r St.indeterminate 0 [] else releaseHeld (endRequest s r St.indeterminate [] 0))) ∧
  (∀ (n : Nat) (r : Request) (s : State), findRequest s n Kind.atomic = some r → strandRuns s = true → requestsHeld s r.frame.cls = false → r.held = false → s.now < r.issue + 48 → r.lastSend + s.cfg Ent.atomicRetryTides ≤ s.now → exec (.atomicResend n) s = .next (resend s r)) ∧
  (∀ (n : Nat) (r : Request) (s : State), findRequest s n Kind.atomic = some r → strandRuns s = true → r.held = false → r.issue + 48 ≤ s.now → exec (.atomicGiveUp n) s = .next (atomicAnswered ((endRequest s r St.indeterminate [] 0).bump Ent.atomicsIndeterminate) r St.indeterminate [])) ∧
  (∀ (n a t : Nat) (p : Publish) (s : State), (s.strand.publishes.find? fun p => p.tag == n && p.active) = some p → p.readers.lookup a = some t → strandRuns s = true → t + s.cfg Ent.invalidateResend ≤ s.now → exec (.invalidateResend n a) s = .next (sendInvalidate { s with strand := { s.strand with publishes := s.strand.publishes.map fun x =>
      if x.tag = n then { x with readers := x.readers.map fun (r : Nat × Nat) => if r.1 = a then (r.1, s.now) else r } else x } } p a)) ∧
  (∀ (n : Nat) (r : Request) (s : State), findRequest s n Kind.publish = some r → strandRuns s = true → r.held = false → r.issue + 48 ≤ s.now → exec (.publishGiveUp n) s = .next ((endRequest s r St.indeterminate [] 0).bump Ent.publishesIndeterminate)) ∧
  (∀ (s : State), s.up 5 = true → ∃ t, exec .replayEntryExpiry s = .next t ∧ (∀ r, r ∈ t.strand.replay ↔ r ∈ s.strand.replay ∧ s.now < r.exec + 64) ∧ t.tide = s.tide ∧ t.strand.ports = s.strand.ports)

/-- Host register writes take effect while BAR0 is decoded. While the port is in service, the link is up and not degraded: Enable = 1 and Enable = 0,
queue enable and disable of a pair, both doorbells, the clear of LinkLost, the unmask of a vector and any other aligned 4-byte write reach their
register. (R515, R516, R517, R518, R525, R535, R537, R657) -/
def Obligations.HostRegisterWritesComplete : Prop :=
  (∀ (s : State), barRuns s = true → exec .controllerEnable s = .next (enableHost s)) ∧
  (∀ (s : State), barRuns s = true → exec .controllerDisable s = .next (disableHost s)) ∧
  (∀ (q w : Nat) (s : State), barRuns s = true → q < 64 → w < 2 ^ 32 → bit w 0 = true → exec (.queueEnable q w) s = .next (enablePair s q w)) ∧
  (∀ (q w : Nat) (s : State), barRuns s = true → q < 64 → w < 2 ^ 32 → bit w 0 = false → exec (.queueDisable q w) s = .next (disablePair s q w)) ∧
  (∀ (q v : Nat) (s : State), barRuns s = true → q < 64 → v < 2 ^ 32 → exec (.sqTailDoorbell q v) s = .next (ringSq s q v)) ∧
  (∀ (q v : Nat) (s : State), barRuns s = true → q < 64 → v < 2 ^ 32 → exec (.cqHeadDoorbell q v) s = .next (ringCq s q v)) ∧
  (∀ (s : State), barRuns s = true → exec .linkLostClear s = .next ({ s with host := { s.host with linkLost := false } })) ∧
  (∀ (a v : Nat) (s : State), barRuns s = true → a % 4 = 0 → a < 2 ^ 20 → v < 2 ^ 32 → exec (.bar0Write a 4 v) s = .next (barWord s a v)) ∧
  (∀ (v : Nat) (s : State), barRuns s = true → v < 64 → exec (.msixUnmask v) s = .next (unmask s v))

/-- Ready, drains, fetches, interrupts and the link act by their rules. READY_SET sets Ready once a boundary has passed since the enable and a count is
held. HOST_DISABLE_EFFECT once boundary D has passed starts the drain, which counts from D. HOST_DRAIN_LIMIT ends one that nothing has cancelled and clears Ready, Enable and every pair
enable. QUEUE_DISABLE_DONE takes the pair out of service once its commands have completed and their entries are written and, where the pair has an
interrupt, signalled. SQ_FETCH takes the next entry, or sets the Fault of the pair where host memory could not be read. COALESCE_TIMER sends the
interrupt behind the entries that it covers. LINK_LOSS clears the link state. LINK_TRAINED at a width and rate that the port has brings the link up. HDM_COMMIT takes the base of a
range of the configured size. (R514, R516, R517, R519, R525, R526, R535, R537, R657) -/
def Obligations.HostQueuesAndLinkComplete : Prop :=
  (∀ (d : Nat) (s : State), barRuns s = true → s.mgmt = true → s.host.resumePending = none → s.host.enablePending = some d → d ≠ s.now → s.tide.state ≠ .acquiring → exec .readySet s = .next ({ s with host := { s.host with enablePending := none, ready := true } })) ∧
  (∀ (d : Nat) (s : State), barRuns s = true → s.mgmt = true → s.host.disablePending = some d → d ≠ s.now → exec .hostDisableEffect s = .next ({ s with host := { s.host with disablePending := none, draining := true, drainFrom := d + 1 } })) ∧
  (∀ (s : State), barRuns s = true → s.mgmt = true → s.host.draining = true → s.host.resumePending = none → s.host.drainFrom + s.cfg Ent.hostDrainTides ≤ s.now → ∃ t, exec .hostDrainLimit s = .next t ∧ t.host.ready = false ∧ t.host.draining = false ∧ t.host.enable = false ∧ (∀ p ∈ t.host.pairs, p.enabled = false ∧ p.qEnable = false)) ∧
  (∀ (q : Nat) (s : State), barRuns s = true → (s.pair q).winding = true → pairDone s q = true → exec (.queueDisableDone q) s = .next (mapPair s q fun p => { p with enabled := false, winding := false, stopped := false })) ∧
  (∀ (q : Nat) (r : HostRead) (b : Bytes) (s : State), mayFetch s q = true → readInput s ((s.pair q).sqBase + 64 * (s.pair q).sqHead) 64 r = (St.ok, b) → inputHeld s ((s.pair q).sqBase + 64 * (s.pair q).sqHead) 64 = false → exec (.sqFetch q r) s = .next (takeEntry (touchInput s ((s.pair q).sqBase + 64 * (s.pair q).sqHead) 64) q b)) ∧
  (∀ (q st : Nat) (r : HostRead) (b : Bytes) (s : State), mayFetch s q = true → readInput s ((s.pair q).sqBase + 64 * (s.pair q).sqHead) 64 r = (st, b) → st ≠ St.ok → inputHeld s ((s.pair q).sqBase + 64 * (s.pair q).sqHead) 64 = false → exec (.sqFetch q r) s = .next (faultPair (touchInput s ((s.pair q).sqBase + 64 * (s.pair q).sqHead) 64) q 3)) ∧
  (∀ (q : Nat) (s : State), barRuns s = true → (s.pair q).intEnable = true → 0 < (s.pair q).uncovered → exec (.coalesceTimer q) s = .next (signalLate s q)) ∧
  (∀ (s : State), s.host.linkUp = true → ∃ t, exec .linkLoss s = .next t ∧ t.host.linkUp = false ∧ t.host.linkLost = true ∧ t.host.enable = false ∧ t.host.ready = false ∧ t.host.bisnp = [] ∧ t.host.hostHeld = [] ∧ t.host.hdmCommitted = false ∧ t.sec.doe = []) ∧
  (∀ (w r : Nat) (u : State) (s : State), s.up 9 = true → s.host.linkUp = false → u = comeInForce s [.training] → w ∈ linkWidths → r ∈ linkRates → w ≤ u.cfg Ent.linkWidthMax → r ≤ u.cfg Ent.linkRateMax → exec (.linkTrained w r) s = .next ({ u with host := { u.host with linkUp := true, width := w, rate := r, degraded := decide (r < 32) || decide (w < 2) } })) ∧
  (∀ (b n : Nat) (s : State), barRuns s = true → s.host.hdmCommitted = false → n = s.cfg Ent.hdmBytes → n ≠ 0 → b % 2 ^ 28 = 0 → exec (.hdmCommit b n) s = .next ({ s with host := { s.host with hdmCommitted := true, hdmBase := b, hdmError := false } }))

/-- The mailbox, DOE and the firmware image transfer answer. Where the mailbox answers and has no command under way (log entry 97), and the input is
of at most 4,096 bytes: the list of logs and a log read inside the log are answered, a Catalogue transaction of at least a header is served, and so
are the three actions of an image transfer over the mailbox by the session that holds the lock. A verified image is to be written, a failed one is
discarded with its status. A written image that reads back is answered OK, counted and kept. DOE requests are answered while the link is up, and SPDM
and IDE_KM requests are kept in order. The contents that standards lay out are free (log entry 4). (R513, R530, R531, R532,
R612, R613, R659) -/
def Obligations.MailboxDoeAndImagesComplete : Prop :=
  (∀ (s : State), mailRuns s = true → s.host.mailBusy = false → exec .getSupportedLogs s = .next (s.emit (.mailbox .success Config.supportedLogs))) ∧
  (∀ (b : Bytes) (s : State), mailRuns s = true → s.host.mailBusy = false → b.length ≤ 4096 → field b 20 4 ≤ 4096 → b.take 16 = leBytes 16 Config.effectsLogUuid.toNat → field b 16 4 + field b 20 4 ≤ Config.effectsLog.length → exec (.getLog b) s = .next (s.emit (.mailbox .success ((Config.effectsLog.drop (field b 16 4)).take (field b 20 4))))) ∧
  (∀ (b : Bytes) (r : CapReq) (s : State), mailRuns s = true → s.host.mailBusy = false → b.length ≤ 4096 → capReqOf .mailbox b = some r → exec (.catalogueTransaction b) s = .next (answerReq { s with host := { s.host with mailBusy := true } } r)) ∧
  (∀ (b : Bytes) (s : State), mailRuns s = true → s.host.mailBusy = false → b.length ≤ 4096 → field b 0 1 = 0 → holdsLock (expireLock s) .mailbox 0 = true → exec (.imageStart (.mailbox b)) s = .next (mailImage { s with host := { s.host with mailBusy := true } } b)) ∧
  (∀ (b : Bytes) (s : State), mailRuns s = true → s.host.mailBusy = false → b.length ≤ 4096 → field b 0 1 = 1 → holdsLock (expireLock s) .mailbox 0 = true → exec (.imageData (.mailbox b)) s = .next (mailImage { s with host := { s.host with mailBusy := true } } b)) ∧
  (∀ (b : Bytes) (s : State), mailRuns s = true → s.host.mailBusy = false → b.length ≤ 4096 → field b 0 1 = 2 → holdsLock (expireLock s) .mailbox 0 = true → exec (.imageEnd (.mailbox b)) s = .next (mailImage { s with host := { s.host with mailBusy := true } } b)) ∧
  (∀ (r : ImageRx) (s : State), s.sec.rx = some r → r.verifying = true → capUp s = true → s.rst.recovery = false → ∃ t, exec .imageVerifyDone s = .next t ∧ (firmwareVerdict s r.bytes ≠ St.ok → t = imageAnswer (setRx s none 5) r (firmwareVerdict s r.bytes)) ∧
      (firmwareVerdict s r.bytes = St.ok → t.sec.rx = some { r with verifying := false, writing := true } ∧ t.sec.image = [] ∧ t.sec.running = s.sec.running)) ∧
  (∀ (r : ImageRx) (s : State), s.sec.rx = some r → r.writing = true → s.mgmt = true → exec (.imageWriteDone true) s = .next (imageAnswer { ((setRx s none 4).bump Ent.imagesWritten) with
      sec := { ((setRx s none 4).bump Ent.imagesWritten).sec with image := r.bytes } } r St.ok)) ∧
  (∀ (n : Nat) (s : State), doeRuns s = true → exec (.doeDiscovery n) s = .next (s.emit (.doe (Config.doeDiscovery n)))) ∧
  (∀ (n : Nat) (s : State), doeRuns s = true → exec (.cdat n) s = .next (s.emit (.doe (Config.cdat n (s.cfg Ent.hdmBytes) s.host.width s.host.rate)))) ∧
  (∀ (b : Bytes) (s : State), doeRuns s = true → ∃ t, exec (.spdm b) s = .next t ∧ t.sec.doe = s.sec.doe ++ [b] ∧ t.out.length = s.out.length + 1 ∧ t.host = s.host) ∧
  (∀ (b : Bytes) (s : State), doeRuns s = true → ∃ t, exec (.ideKm b) s = .next t ∧ t.sec.doe = s.sec.doe ++ [b] ∧ t.out.length = s.out.length + 1 ∧ t.host = { s.host with ide := Config.ideStreams (s.sec.doe ++ [b]) })

/-- Each CAP command carries its request out and sends the response. For every row that carries one CAP request (Catalogue reads and writes, lock and
unlock, describe, keys, nonce, Provenance, events, signed commands, reset, quiesce, function, power and self-test requests): where the request is of
the kind of the row, is well formed and new in its session, and the operation answers OK, the command answers the next state in which the operation
has been done, the session keeps the response, and the response is sent over the path of the request, or held until the value that it answers for is
durable. (16_catalogue.md R541 to R566, R659,
18_security.md R588 to R592, R603 to R605, R615, 19_reset_power.md R627 to R635) -/
def Obligations.CapCommandsComplete : Prop :=
  ∀ (r : CapReq) (s : State) (c : Instr) (k : CapKind) (a : Answer) (u : State), (c, k) ∈ capRows r → capKind s r = k → CapReady s r →
    capOperate (capIn s r) r = (some a, u) → a.status = St.ok →
    exec c s = .next (sendCap (keepResponse u r (some (capRespond r (capIn s r).now a))) r (capRespond r (capIn s r).now a))

/-- A CAP command that is refused answers with its status, counts CapErrors and completes. For every row that carries one CAP request of its kind, well
formed and new in its session: where the operation answers a status other than OK, the command answers a next state in which CapErrors has been
counted once more on the state of the operation, and the response sent carries that status, the session, sequence, index and subindex of the request.
(16_catalogue.md R557, R659, 00_scope.md R10) -/
def Obligations.CapRefusalsAreAnswered : Prop :=
  ∀ (r : CapReq) (s : State) (c : Instr) (k : CapKind) (a : Answer) (u : State), (c, k) ∈ capRows r → capKind s r = k → CapReady s r →
    capOperate (capIn s r) r = (some a, u) → a.status ≠ St.ok →
    ∃ p, p.status = a.status ∧ p.session = r.session ∧ p.seq = r.seq ∧ p.index = r.index ∧ p.sub = r.sub ∧
      exec c s = .next (sendCap ((keepResponse u r (some p)).bump Ent.capErrors) r p)

/-- Expiries and accepted signed commands take effect. LOCK_EXPIRY releases a lock whose lease has run out. SNAPSHOT_EXPIRY drops the snapshots of
sessions that went 256 Tides without a request. SIGNED_COMMAND_EFFECT carries out accepted signed commands whose boundary has come. (R559, R561, R588)
-/
def Obligations.CapEventsComplete : Prop :=
  (∀ (w : Who) (i e : Nat) (s : State), capUp s = true → s.cap.lock = some (w, i, e) → e ≤ s.now → exec .lockExpiry s = .next (releaseLock s)) ∧
  (∀ (s : State), capUp s = true → ∃ t, exec .snapshotExpiry s = .next t ∧ t.cap.sessions.length = s.cap.sessions.length ∧ (∀ x ∈ t.cap.sessions, x.lastTide + 256 ≤ s.now → x.snapshot = none) ∧ t.cap.lock = s.cap.lock) ∧
  (∀ (s : State), s.mgmt = true → exec .signedCommandEffect s = .next (signedEffects s))

/-- Queries and fragments move on by their events. While node firmware and clusters run: QUERY that is refused completes with the status, and with
BAD_JOB where its filter is malformed; one that meets no refusal and whose inputs are read is accepted with stamp, k and a fragment plan and starts.
FRAGMENT_REQUEST and FRAGMENT_REPLY are taken; FRAGMENT_CUTOFF at its cutoff cuts; FRAGMENT_COMPLETE with no work left replies in full; QUERY_DEADLINE
at its deadline completes the query; VERIFY_READ_DONE verifies a candidate, and a record that is another item's is counted and tested as an
uncorrectable read. (R104, R117, R121, R122, R136, R137, R148, R150, R153, R155) -/
def Obligations.SearchCommandsComplete : Prop :=
  (∀ (n : Nat) (i f : HostRead) (h : HostCmd) (fb v : Bytes) (w u : State) (s : State), s.waitingCmd n 0x01 = some h → canSearch s = true → queryRefusal s h.desc = none → bit (field h.desc 1 1) 0 = false → readInput s (field h.desc 24 8) (field h.desc 46 2) f = (St.ok, fb) → (!fb.isEmpty && filterBad fb (s.params (field h.desc 4 1)).schema) = false →
    readInput s (field h.desc 16 8) (queryInputBytes (s.params (field h.desc 4 1)) (field h.desc 5 1)) i = (St.ok, v) → inputHeld s (field h.desc 24 8) (field h.desc 46 2) = false → inputHeld s (field h.desc 16 8) (queryInputBytes (s.params (field h.desc 4 1)) (field h.desc 5 1)) = false →
    w = touchInput (touchInput s (field h.desc 24 8) (field h.desc 46 2)) (field h.desc 16 8) (queryInputBytes (s.params (field h.desc 4 1)) (field h.desc 5 1)) →
    u = { startCmd w n with qry := { (startCmd w n).qry with queries := (startCmd w n).qry.queries ++ [acceptedQuery w n (acceptance w h) h.desc fb], nextTag := ((acceptedQuery w n (acceptance w h) h.desc fb).tag + 1) % 2 ^ 32 } } → exec (.query n i f) s = .next (Graph.startQuery u (acceptedQuery w n (acceptance w h) h.desc fb).tag
      (if (s.params (field h.desc 4 1)).metric = 3 then v.map (·.toNat)
       else (patterns (field h.desc 5 1) v).map fun x => Num.encode Num.fp32 .rne (Num.valueOf (field h.desc 5 1) x)))) ∧
  (∀ (n st : Nat) (i f : HostRead) (h : HostCmd) (fb : Bytes) (b : Bool) (r : Nat × Nat) (s : State), s.waitingCmd n 0x01 = some h → canSearch s = true → readInput s (field h.desc 24 8) (field h.desc 46 2) f = (st, fb) →
    b = (s.collState (field h.desc 4 1) == 2 && st == St.ok && !fb.isEmpty && filterBad fb (s.params (field h.desc 4 1)).schema) →
    (queryRefusal s h.desc = some r ∧ b = false ∨ queryRefusal s h.desc = none ∧ b = true ∧ r = (St.badJob, 0)) → exec (.query n i f) s = .next (s.finish n r.1 [] r.2)) ∧
  (∀ (a : Nat) (b : Bytes) (s : State), canSearch s = true → exec (.fragmentRequest a b) s = .next (settleRows (arriveFrag s b))) ∧
  (∀ (a : Nat) (b : Bytes) (s : State), s.mgmt = true → exec (.fragmentReply a b) s = .next (arriveReply s a b)) ∧
  (∀ (i : Nat) (g : Fragment) (s : State), s.frag i = some g → canSearch s = true → g.cutoff ≤ s.subticks → exec (.fragmentCutoff i) s = .next (cutFrag s i)) ∧
  (∀ (i : Nat) (g : Fragment) (s : State), s.frag i = some g → canSearch s = true → fragDone g = true → exec (.fragmentComplete i) s = .next (endFrag s g (doneReply g true))) ∧
  (∀ (i : Nat) (q : Query) (s : State), s.query i = some q → s.mgmt = true → q.deadline ≤ s.subticks → exec (.queryDeadline i) s = .next (completeQuery s i)) ∧
  (∀ (i l : Nat) (s : State), canSearch s = true → badRecord s i l = false → exec (.verifyReadDone i l) s = .next (verifyDone s i l)) ∧
  (∀ (i l : Nat) (g : Fragment) (s : State), canSearch s = true → s.frag i = some g → badRecord s i l = true → exec (.verifyReadDone i l) s = .next (uncorrectableRead (verifyDone s i l)
    ((recordLogical (recordCodewords (s.params g.coll).vecBytes (s.params g.coll).metaBytes) l).headD 0)))

/-- Accessions, deaccessions and their copies complete. While node firmware runs: an ACCESSION or DEACCESSION that nothing refuses starts and sends its
change to the primary; a change at the primary and at the replica is answered and taken; changes held in an earlier Tide are accepted in order;
acknowledgements and outcomes reach their change; a copy whose acknowledgement is overdue goes Stale; an intake that waited IntakeGiveUp Tides ends
with INDETERMINATE. (R220, R221, R225, R226, R228, R229, R230, R231) -/
def Obligations.ChangeCommandsComplete : Prop :=
  (∀ (n : Nat) (v m : HostRead) (h : HostCmd) (a b : Bytes) (s : State), s.waitingCmd n 0x02 = some h → s.mgmt = true → intakeRefusal s h.desc false = none → readInput s (field h.desc 16 8) (field h.desc 24 4) v = (St.ok, a) → readInput s (field h.desc 32 8) (field h.desc 28 2) m = (St.ok, b) →
    inputHeld s (field h.desc 16 8) (field h.desc 24 4) = false → inputHeld s (field h.desc 32 8) (field h.desc 28 2) = false →
    exec (.accession n v m) s = .next (intake (touchInput (touchInput s (field h.desc 16 8) (field h.desc 24 4)) (field h.desc 32 8) (field h.desc 28 2)) n h false a b)) ∧
  (∀ (n : Nat) (h : HostCmd) (s : State), s.waitingCmd n 0x03 = some h → s.mgmt = true → intakeRefusal s h.desc true = none → exec (.deaccession n) s = .next (intake s n h true [] [])) ∧
  (∀ (a : Nat) (x : Change) (s : State), s.mgmt = true → exec (.changeAtPrimary a x) s = .next (primaryTake (answerMsg s a 0x0010 St.ok) x)) ∧
  (∀ (u : State) (s : State), s.mgmt = true → u = { s with chg := { s.chg with held := s.chg.held.filter fun h => !decide (h.1 < s.now) } } → exec .changeHeldAccept s = .next ((s.chg.held.filter fun h => decide (h.1 < s.now)).foldl (fun s h => acceptChange s h.2) u)) ∧
  (∀ (a : Nat) (x : Change) (q b r : Nat) (s : State), s.mgmt = true → exec (.changeAtReplica a x q b r) s = .next (replicaTake (answerMsg s a 0x0010 St.ok) a x q b r)) ∧
  (∀ (a : Nat) (k : Ack) (s : State), s.mgmt = true → exec (.changeAcknowledgement a k) s = .next (noteAck (answerMsg s a 0x0011 St.ok) k)) ∧
  (∀ (a : Nat) (d : ChangeDone) (i : Intake) (s : State), s.mgmt = true → ((answerMsg s a 0x0011 St.ok).chg.intakes.find? fun i => i.tag == d.tag) = some i → d.misdirected = false → exec (.changeOutcome a d) s = .next (intakeDone (answerMsg s a 0x0011 St.ok) i d)) ∧
  (∀ (a : Nat) (d : ChangeDone) (i : Intake) (s : State), s.mgmt = true → ((answerMsg s a 0x0011 St.ok).chg.intakes.find? fun i => i.tag == d.tag) = some i → d.misdirected = true → exec (.changeOutcome a d) s = .next (sendChange (answerMsg s a 0x0011 St.ok) i.change)) ∧
  (∀ (k sh q : Nat) (a : Accepted) (s : State), s.mgmt = true → a ∈ s.chg.accepted → a.change.coll = k → a.change.shoal = sh → a.seq = q → a.replicaDurable = false → a.commit + s.cfg Ent.replicaAckLimit ≤ s.now → exec (.replicaAckTimeout k sh q) s = .next (markStale s k sh)) ∧
  (∀ (g : Nat) (i : Intake) (s : State), s.mgmt = true → (s.chg.intakes.find? fun i => i.tag == g) = some i → i.done = none → i.accepted + s.cfg Ent.intakeGiveUp ≤ s.now → exec (.intakeGiveUp g) s = .next (State.refuse { s with chg := { s.chg with intakes := s.chg.intakes.filter fun x => x.tag != g } } i.cmd St.indeterminate))

/-- Settling, reclaiming, upkeep windows, fills and releases of the index complete. While node firmware runs: SLOT_SETTLE settles the slots that no
work can still need; work past the age limit is cut; retired children are reclaimed; an upkeep window opens for UpkeepLength Tides and closes with its
unfinished jobs; a fill stream is answered and taken; a fill that is ready serves from the next boundary; a shoal and the storage of a closed
collection go once L has passed their boundary. (R87, R88, R111, R112, R240, R241, R245, R246) -/
def Obligations.IndexUpkeepCompletes : Prop :=
  (∀ (s : State), s.mgmt = true → exec .slotSettle s = .next ({ s with idx := Index.settle s.idx s.now (settleStamp s) })) ∧
  (∀ (u : State) (s : State), s.mgmt = true → u = ((s.qry.frags.filter fun g => decide (g.stamp + s.num Ent.indexAgeLimit < s.now)).map (·.id)).foldl cutFrag s → ∃ t, exec .indexAgeLimit s = .next t ∧ t = ((u.qry.queries.filter fun q => decide (q.stamp + s.num Ent.indexAgeLimit < s.now)).map (·.tag)).foldl completeQuery u) ∧
  (∀ (s : State), s.mgmt = true → exec .retiredReclaim s = .next (reclaimTrees s)) ∧
  (∀ (u : State) (s : State), s.mgmt = true → windowOpens s s.now = true → s.idx.windowEnd ≤ s.now → u = { s with idx := { s.idx with windowEnd := s.now + s.cfg Ent.upkeepLength } } → exec .upkeepWindowOpen s = .next (planUpkeep u)) ∧
  (∀ (s : State), s.mgmt = true → s.idx.windowEnd ≠ 0 → s.idx.windowEnd ≤ s.now → exec .upkeepWindowClose s = .next (endJobs { s with idx := { s.idx with windowEnd := 0 } })) ∧
  (∀ (a k sh : Nat) (s : State), s.mgmt = true → functionOn s 1 = true → ((Index.findCopy s.idx k sh).any fun p => p.state == .serving) = true → exec (.shoalFillStream a (.request k sh)) s = .next (fillTake (answerMsg s a 0x0012 St.ok) (.request k sh))) ∧
  (∀ (k sh : Nat) (x : ShoalCopy) (s : State), s.mgmt = true → Index.findCopy s.idx k sh = some x → fillReady s x = true → exec (.fillComplete k sh) s = .next ({ s with idx := Index.mapCopy s.idx k sh fun p => { p with servingNext := true } })) ∧
  (∀ (k sh a : Nat) (x : ShoalCopy) (s t : State), s.mgmt = true → t = (s.idx.kept.filter fun y => y.coll == k && y.shoal == sh && decide (y.until_ < lowWater s)).foldl dropKept s → Index.findCopy s.idx k sh = some x → x.releaseAt = some a → a < lowWater s → exec (.shoalRelease k sh) s = .next (dropCopy t k sh)) ∧
  (∀ (k : Nat) (x : Closing) (u : State) (s : State), s.mgmt = true → (s.idx.closings.find? fun x => x.slot == k) = some x → x.boundary < lowWater s → s.num Ent.flashReady = 1 → u = dropRecords (((s.idx.copies.filter fun p => p.coll == k).map (·.shoal)).foldl (fun s sh => dropCopy s k sh) s) k → exec (.collectionStorageRelease k) s = .next (clearSlot { u with idx := { u.idx with closings := u.idx.closings.filter fun y => y.slot != k, openings := u.idx.openings.filter fun y => y.slot != k } } k))

/-- Host accesses, holds, demotions, page switches and sweeps complete. While the link is up, the node is neither in Neap nor leaving it, and the line
lies in the committed range: a host read or write that nothing holds is served, and one that must be held is held. A read whose page lies in memory
and which its owner may read is answered with the data of the line, behind the earlier requests to it; a read of a page that has no memory yet is
answered with zeros. An access to a page in flash is held, its promotion starts, and HeldHostAccesses counts it. In Neap or while the node leaves it,
an access is held and the node leaves Neap. A held access of which HoldLimitNs has passed is no longer held, a read is answered with poison and a
write is completed without being applied, and HoldTimeouts counts it. STACK_DEMOTION, while free stack pages are below the low mark or the demotions
that this began still run, demotes and runs on while they are below the high mark. SHELF_DEMOTION demotes shelf pages while they exceed their size. A
complete page move switches, and what was held for the page is served. A swept slot whose pages, lines and unmaps are gone is Empty, and no other slot
changes. (R259, R267, R268, R276, R278, R279, R527, R529) -/
def Obligations.MemoryCommandsComplete : Prop :=
  (∀ (p : Nat) (u : State) (s : State), s.host.linkUp = true → inHdm s (hostLine p) 64 = true → inNeap s = false → s.rst.powerState ≠ 3 → serveHost s (hostLine p) none = some u → exec (.hostMemRead p) s = .next u) ∧
  (∀ (p : Nat) (d : Bytes) (u : State) (s : State), s.host.linkUp = true → inHdm s (hostLine p) 64 = true → inNeap s = false → s.rst.powerState ≠ 3 → serveHost s (hostLine p) (some (padTo 64 d)) = some u → exec (.hostMemWrite p d) s = .next u) ∧
  (∀ (p : Nat) (s : State), s.host.linkUp = true → inHdm s (hostLine p) 64 = true → inNeap s = false → s.rst.powerState ≠ 3 → serveHost s (hostLine p) none = none → exec (.hostMemRead p) s = .next (startHold s (hostLine p) none)) ∧
  (∀ (p : Nat) (d : Bytes) (s : State), s.host.linkUp = true → inHdm s (hostLine p) 64 = true → inNeap s = false → s.rst.powerState ≠ 3 → serveHost s (hostLine p) (some (padTo 64 d)) = none → exec (.hostMemWrite p d) s = .next (startHold s (hostLine p) (some (padTo 64 d)))) ∧
  (∀ (p a : Nat) (u s : State), s.host.linkUp = true → inHdm s (hostLine p) 64 = true → inNeap s = false → s.rst.powerState ≠ 3 → hdmDead s = false → hdmAddr s (hostLine p) = some a → u = touchAddr (Coh.settled s a 64) a →
    Coh.check u (hdmOwner u) (lineOf a) = St.ok →
    exec (.hostMemRead p) s = .next (noteHostHeld (u.emit (.memData (hostLine p) false (padTo 64 (Coh.supply u (lineOf a)).1))) (hostLine p))) ∧
  (∀ (p : Nat) (s : State), s.host.linkUp = true → inHdm s (hostLine p) 64 = true → inNeap s = false → s.rst.powerState ≠ 3 → hdmDead s = false → Mem.page s.mem (hdmPage s (hostLine p)) = none →
    exec (.hostMemRead p) s = .next (noteHostHeld (s.emit (.memData (hostLine p) false (List.replicate 64 0))) (hostLine p))) ∧
  (∀ (p : Nat) (d : Bytes) (w : Option Bytes) (g : Page) (c : Instr) (s : State), (c, w) ∈ [(.hostMemRead p, none), (.hostMemWrite p d, some (padTo 64 d))] →
    s.host.linkUp = true → inHdm s (hostLine p) 64 = true → inNeap s = false → s.rst.powerState ≠ 3 → hdmDead s = false → Mem.page s.mem (hdmPage s (hostLine p)) = some g → g.tier = .flash →
    exec c s = .next (holdAccess ((promote (touch s g.id) g 2).2.bump Ent.heldHostAccesses) (hostLine p) w false true)) ∧
  (∀ (p : Nat) (d : Bytes) (w : Option Bytes) (b : Bool) (c : Instr) (s : State), (c, w) ∈ [(.hostMemRead p, none), (.hostMemWrite p d, some (padTo 64 d))] →
    s.host.linkUp = true → inHdm s (hostLine p) 64 = true → (inNeap s = true ∨ s.rst.powerState = 3) →
    b = (!hdmDead s && (Mem.page s.mem (hdmPage s (hostLine p))).any fun p => p.tier == .flash) →
    exec c s = .next (leaveNeap (holdAccess (if b then s.bump Ent.heldHostAccesses else s) (hostLine p) w false b) 2)) ∧
  (∀ (i : Nat) (h : HeldAccess) (s : State), (s.host.held.find? fun h => h.id == i) = some h → h.inside = false →
    ((Mem.page s.mem (hdmPage s h.hpa)).isSome = true ∨ inNeap s = true ∨ s.rst.powerState = 3 ∨ hdmDead s = true) → s.cfg Ent.holdLimitNs ≤ holdNs s h →
    ∃ t, exec (.holdTimeout i) s = .next t ∧ t.host.held = s.host.held.filter (fun x => x.id != h.id) ∧
      t.out = s.out ++ [if h.write.isNone then .memData h.hpa true (List.replicate 64 0) else .memDone h.hpa] ∧
      t.num Ent.holdTimeouts = s.num Ent.holdTimeouts + 1 ∧ t.mem = s.mem ∧ t.coh = s.coh ∧ t.flash = s.flash) ∧
  (∀ (s : State), moverRuns s = true → inNeap s = false → s.num Ent.flashReady ≠ 0 → (s.mem.demoting = true ∨ Mem.freeStack s.mem < s.cfg Ent.stackLowMarkPages) →
    exec .stackDemotion s = .next { demoteNow s with mem := { (demoteNow s).mem with
      demoting := decide (Mem.freeStack (demoteNow s).mem < (demoteNow s).cfg Ent.stackHighMarkPages) } }) ∧
  (∀ (s : State), moverRuns s = true → inNeap s = false → exec .shelfDemotion s = .next (demoteShelf s.mem.pages.length s)) ∧
  (∀ (i : PageId) (v : Move) (p : Page) (s : State), Mem.move s.mem i = some v → Mem.page s.mem i = some p → moverRuns s = true → moveComplete s v p = true →
    exec (.pageMoveSwitch i) s = .next (resumeIssues (serveHeld (switchMove s v p)))) ∧
  (∀ (k : Nat) (p : Nat × Nat) (s : State), s.mgmt = true → (s.key.sweeping.find? fun p => p.1 == k) = some p → ownerCount s k = 0 → p.2 < s.flash.durable →
    ∃ t, exec (.sweepComplete k) s = .next t ∧ (k ≠ 0 → t.slotState k = 0) ∧ (∀ j, j ≠ k → t.slotState j = s.slotState j) ∧ t.mem = s.mem ∧ t.flash = s.flash)

/-- Near-bank sequences are issued, started and carried out command by command. While the near-bank units run: a descriptor that fits, whose bank can
take it, whose list reads and decodes, and whose rows lie in planes of the owner and in no page that is held, is queued behind the sequences of its
bank with all its commands to run, and answered OK. A queued sequence starts with a cleared accumulator and empty staging buffers. Each of ROWCOPY,
ROWINIT, ROWLOGIC, OPLOAD, POPACC and ACCOUT carries out the next command of the running sequence where that command is its own and its rows open, and
the sequence goes on to the command after it. SEQ_END ends the sequence at an END command and past the last command. (R290, R293, R296, R297, R298,
R299, R300, R302) -/
def Obligations.NearBankCommandsComplete : Prop :=
  (∀ (d : Bytes) (n : Nat) (b : Bytes) (ps : List Nat) (u : State) (cs : List (Nat × NbCmd)) (s : State), Nb.runs s = true → field d 0 2 < 4096 → n = field d 4 4 → n ≠ 0 → n ≤ 65536 →
    field d 8 8 % 64 = 0 → field d 16 8 % 32 = 0 → validRange (field d 8 8) (16 * n) = true → validRange (field d 16 8) 32 = true → (Nb.bank s (field d 0 2)).queue.length < 8 →
    inNeap s = false → Nb.held s (field d 0 2) = false → agentRead s (field d 2 2 % 4096) (field d 8 8) (16 * n) = (St.ok, b, u) → Nb.decodeList n 0 (records 16 b) = some cs →
    ps = ((cs.flatMap fun c => Nb.rows c.2).map fun r => pageOf (Nb.rowAddr (field d 0 2) r)).eraseDups → (ps.any fun a => !Mem.planeOf u.mem a (field d 2 2 % 4096)) = false →
    (ps.any fun a => pageHeld u a) = false →
    ∃ q : NbSeq, q.owner = field d 2 2 % 4096 ∧ q.tag = field d 24 4 ∧ q.completion = field d 16 8 ∧ q.count = n ∧ q.left = cs ∧ q.done = 0 ∧ q.status = St.ok ∧ q.wrote = [] ∧
      exec (.nbSequenceIssue d) s = .next (nbAnswer (Nb.mapBank (ps.foldl touchAddr u) (field d 0 2) fun b => { b with queue := b.queue ++ [q] }) (field d 24 4) St.ok)) ∧
  (∀ (k : Nat) (s : State), Nb.runs s = true → (Nb.bank s k).queue ≠ [] → (Nb.bank s k).running = false → Nb.tested s k = false →
    exec (.nbSequenceStart k) s = .next (Nb.mapBank s k fun b => { b with running := true, acc := List.replicate 1024 0, staged := [] })) ∧
  (∀ (k i : Nat) (x : NbCmd) (q : NbSeq) (l : List (Nat × NbCmd)) (ds : List (List (Option Bytes))) (u : State) (rs : List Nat) (s : State), Nb.runs s = true → Nb.current s k = some q →
    q.left = (i, x) :: l → (∃ a b, x = .rowCopy a b ∧ rs = [a]) →
    openRows s k q.owner rs = .ok (ds, u) → exec (.rowcopy k) s = .next (Nb.stepSeq (rowCopyEffect k q x ds u) k x)) ∧
  (∀ (k i : Nat) (x : NbCmd) (q : NbSeq) (l : List (Nat × NbCmd)) (ds : List (List (Option Bytes))) (u : State) (rs : List Nat) (s : State), Nb.runs s = true → Nb.current s k = some q →
    q.left = (i, x) :: l → (∃ a b d, x = .rowInit a b d ∧ rs = []) →
    openRows s k q.owner rs = .ok (ds, u) → exec (.rowinit k) s = .next (Nb.stepSeq (rowInitEffect k q x ds u) k x)) ∧
  (∀ (k i : Nat) (x : NbCmd) (q : NbSeq) (l : List (Nat × NbCmd)) (ds : List (List (Option Bytes))) (u : State) (rs : List Nat) (s : State), Nb.runs s = true → Nb.current s k = some q →
    q.left = (i, x) :: l → (∃ d a b op, x = .rowLogic d a b op ∧ rs = if op = 6 then [a] else [a, b]) →
    openRows s k q.owner rs = .ok (ds, u) → exec (.rowlogic k) s = .next (Nb.stepSeq (rowLogicEffect k q x ds u) k x)) ∧
  (∀ (k i : Nat) (x : NbCmd) (q : NbSeq) (l : List (Nat × NbCmd)) (ds : List (List (Option Bytes))) (u : State) (rs : List Nat) (s : State), Nb.runs s = true → Nb.current s k = some q →
    q.left = (i, x) :: l → ((∃ a v, x = .opLoadInline a v ∧ rs = []) ∨ (∃ a r n, x = .opLoadRow a r n ∧ rs = [r])) →
    openRows s k q.owner rs = .ok (ds, u) → exec (.opload k) s = .next (Nb.stepSeq (Nb.loadEffect k x ds u) k x)) ∧
  (∀ (k i : Nat) (x : NbCmd) (q : NbSeq) (l : List (Nat × NbCmd)) (ds : List (List (Option Bytes))) (u : State) (rs : List Nat) (s : State), Nb.runs s = true → Nb.current s k = some q →
    q.left = (i, x) :: l → (∃ r a b d e f g h j m n p, x = .popAcc r a b d e f g h j m n p ∧ rs = [r]) →
    openRows s k q.owner rs = .ok (ds, u) → exec (.popacc k) s = .next (Nb.stepSeq (Nb.popEffect k x ds u) k x)) ∧
  (∀ (k i : Nat) (x : NbCmd) (q : NbSeq) (l : List (Nat × NbCmd)) (ds : List (List (Option Bytes))) (u : State) (rs : List Nat) (s : State), Nb.runs s = true → Nb.current s k = some q →
    q.left = (i, x) :: l → (∃ a b d e f g, x = .accOut a b d e f g ∧ rs = []) →
    openRows s k q.owner rs = .ok (ds, u) → exec (.accout k) s = .next (Nb.stepSeq (Nb.outEffect k q.owner x u) k x)) ∧
  (∀ (k : Nat) (q : NbSeq) (s : State), Nb.runs s = true → Nb.current s k = some q → q.left = [] → exec (.seqEnd k) s = .next (seqEnded k q (Nb.endSeq s k q))) ∧
  (∀ (k i : Nat) (q : NbSeq) (l : List (Nat × NbCmd)) (s : State), Nb.runs s = true → Nb.current s k = some q → q.left = (i, .end_) :: l →
    exec (.seqEnd k) s = .next (seqEnded k q (Nb.endSeq s k { q with done := q.done + 1 })))

/-- Bank slots, refreshes and temperatures. A bank slot with a refresh due goes to the refresh, which uses one of the slots due. With no refresh due
it goes to a waiting external request, unless the unit wants it, has waited through ExternalBurstMax slots and is within its duty; else to the unit
where it wants the slot within its duty; else to nobody. A refresh visit that is not skipped moves to the next group and takes two slots; one that
RefreshSkip allows and whose rows were all opened within the last half window moves on without a slot. A physical row opened NeighbourRefreshLimit
times has its neighbours refreshed in one slot, and its count starts anew. A reading of the temperatures sets the temperature, window and cap of each
stack that is read, and leaves the others. (R310, R311, R312, R314, R315, R316, R317) -/
def Obligations.BankSharingCompletes : Prop :=
  (∀ (k : Nat) (e : Option Nat) (s : State), k < 4096 → s.up 5 = true → 0 < (Nb.bank s k).refreshSlots →
    ∃ t, exec (.bankSlot k e) s = .next t ∧ (Nb.bank t k).refreshSlots = (Nb.bank s k).refreshSlots - 1 ∧ (Nb.bank t k).grant = .refresh ∧ t.mem = s.mem) ∧
  (∀ (k : Nat) (e : Option Nat) (w d b : Bool) (s : State), k < 4096 → s.up 5 = true → (Nb.bank s k).refreshSlots = 0 → w = unitWants s (Nb.bank s k) →
    d = decide ((((Nb.bank s k).recent.take 15).filter id).length < dutyInForce s (k / 512)) → b = decide (s.cfg Ent.externalBurstMax ≤ (Nb.bank s k).waited) →
    ∃ t, exec (.bankSlot k e) s = .next t ∧ (Nb.bank t k).refreshSlots = 0 ∧ t.mem = s.mem ∧
      (Nb.bank t k).grant = (if e.isSome ∧ ¬ (w = true ∧ d = true ∧ b = true) then .external else if w = true ∧ d = true then .unit else .none)) ∧
  (∀ (k : Nat) (s : State), k < 4096 → s.up 5 = true → (s.cfg Ent.refreshSkip ≠ 1 ∨ groupFresh (Nb.bank s k) (bankWindow s k) = false) →
    exec (.refreshVisit k) s = .next ((Nb.mapBank s k fun b => { b with
      group := (b.group + 1) % 10368, refreshSlots := b.refreshSlots + 2, visits := b.visits + bankWindow s k }).bump Ent.refreshEvents)) ∧
  (∀ (k : Nat) (s : State), k < 4096 → s.up 5 = true → s.cfg Ent.refreshSkip = 1 → groupFresh (Nb.bank s k) (bankWindow s k) = true →
    exec (.refreshVisit k) s = .next ((Nb.mapBank s k fun b => { b with group := (b.group + 1) % 10368, visits := b.visits + bankWindow s k }).bump Ent.refreshSkipped)) ∧
  (∀ (k r p : Nat) (s : State), s.up 5 = true → p = Nb.physRow s k r → s.cfg Ent.neighbourRefreshLimit ≤ ((Nb.bank s k).opens.lookup p).getD 0 →
    exec (.neighbourRefresh k r) s = .next ((Nb.mapBank s k fun b => { b with
      refreshSlots := b.refreshSlots + 1, opens := b.opens.filter fun (x : Nat × Nat) => x.1 != p }).bump Ent.neighbourRefreshes)) ∧
  (∀ (l : List Nat) (s : State), s.up 5 = true → ∃ t, exec (.stackTempRead l) s = .next t ∧ t.nb.thermal.length = s.nb.thermal.length ∧
    (∀ (i : Nat) x, s.nb.thermal[i]? = some x → t.nb.thermal[i]? = some (match l[i]? with
      | some v => readStack x v
      | none => x)))

/-- Requests of the agents reach the home slice and are carried out there. For an address of the memory map, while the clusters run: a read, ReadOwn
and Upgrade of a core in service wake the cluster of the core and arrive at the home slice of the line; WriteLine, ReadOnce and a listed atomic arrive
there. With no earlier request to the line waiting and, for the requests that write, no copy at the host: a Read whose owner may read the line gives
the core a copy and answers its data: E where no other copy is, S where another cache holds it dirty, else F; a core that holds the line is answered
from its copy, and a line of a page that moves is served and not cached. A ReadOwn or Upgrade with no copy at another core ends with the only copy in
M, its store in it; an Upgrade of a copy in E or M stores in place; of a page that moves, with no copy at a core, the store goes to the line and no
core holds it. A WriteLine with no copy at a core stores its line, and is what a reader is given next. A ReadOnce answers the line. A listed atomic
with no copy at a core answers the old value, and leaves the result in the line, a CAS where it matches. An atomic that the table does not list ends
with BAD_JOB (DEDUCED, log entry 33) (R19, R402, R403, R408, R410, R414) -/
def Obligations.CacheRequestsComplete : Prop :=
  (∀ (k o l : Nat) (s : State), validAddr (l * 64) = true → s.up 7 = true → k < 512 → coreServes s k = true → exec (.cacheRead k o l) s = .next (Coh.arrive (s.wakeCluster (k / 16)) (plainReq .read k (o % 4096) l))) ∧
  (∀ (k o l f : Nat) (d : Bytes) (s : State), validAddr (l * 64) = true → s.up 7 = true → k < 512 → coreServes s k = true → exec (.readOwn k o l f d) s = .next (Coh.arrive (s.wakeCluster (k / 16)) { plainReq .readOwn k (o % 4096) l with off := f % 64, data := d.take (64 - f % 64) })) ∧
  (∀ (k o l f : Nat) (d : Bytes) (s : State), validAddr (l * 64) = true → s.up 7 = true → k < 512 → coreServes s k = true → Coh.l1 s.coh k l = none → exec (.upgrade k o l f d) s = .next (Coh.arrive (s.wakeCluster (k / 16)) { plainReq .upgrade k (o % 4096) l with off := f % 64, data := d.take (64 - f % 64) })) ∧
  (∀ (o l : Nat) (d : Bytes) (s : State), validAddr (l * 64) = true → s.up 7 = true → exec (.writeLine o l d) s = .next (Coh.arrive s { plainReq .writeLine 512 (o % 4096) l with data := padTo 64 d })) ∧
  (∀ (o l : Nat) (s : State), validAddr (l * 64) = true → s.up 7 = true → exec (.readOnce o l) s = .next (Coh.arrive s (plainReq .readOnce 512 (o % 4096) l))) ∧
  (∀ (o a p : Nat) (d e : Bytes) (s : State), cohAtomicOk a p d e = true → validAddr (lineOf a * 64) = true → s.up 7 = true → exec (.cacheAtomic o a p d e) s = .next (Coh.arrive s { plainReq .atomic 512 (o % 4096) (lineOf a) with off := a % 64, data := d, op := p, expected := e })) ∧
  (∀ (k o l : Nat) (u s : State), validAddr (l * 64) = true → s.up 7 = true → k < 512 → coreServes s k = true → (∀ b ∈ s.coh.busy, b.req.line ≠ l) →
    u = touchAddr (s.wakeCluster (k / 16)) (l * 64) → Coh.check u (o % 4096) l = St.ok → Coh.moving u l = false → Coh.l1 u.coh k l = none →
    ∃ t, exec (.cacheRead k o l) s = .next t ∧ t.coh.ended = s.coh.ended ++ [⟨.read, k, l, St.ok, padTo 64 (Coh.supply u l).1⟩] ∧
      Coh.l1 t.coh k l = some ⟨k, l, if (Coh.copies u.coh l).isEmpty then .e else if (Coh.holder u.coh l true).isSome then .s else .f, padTo 64 (Coh.supply u l).1, (Coh.supply u l).2⟩) ∧
  (∀ (k o l : Nat) (x : L1Line) (u s : State), validAddr (l * 64) = true → s.up 7 = true → k < 512 → coreServes s k = true → (∀ b ∈ s.coh.busy, b.req.line ≠ l) →
    u = touchAddr (s.wakeCluster (k / 16)) (l * 64) → Coh.check u (o % 4096) l = St.ok → Coh.moving u l = false → Coh.l1 u.coh k l = some x →
    exec (.cacheRead k o l) s = .next (Coh.endReq u (plainReq .read k (o % 4096) l) St.ok (padTo 64 x.data))) ∧
  (∀ (k o l : Nat) (u s : State), validAddr (l * 64) = true → s.up 7 = true → k < 512 → coreServes s k = true → (∀ b ∈ s.coh.busy, b.req.line ≠ l) →
    u = touchAddr (s.wakeCluster (k / 16)) (l * 64) → Coh.check u (o % 4096) l = St.ok → Coh.moving u l = true →
    exec (.cacheRead k o l) s = .next (Coh.endReq u (plainReq .read k (o % 4096) l) St.ok (padTo 64 (Coh.supply u l).1))) ∧
  (∀ (k o l f : Nat) (d : Bytes) (u s : State) (c : Instr) (q : CohKind), (c, q) ∈ [(.readOwn k o l f d, .readOwn), (.upgrade k o l f d, .upgrade)] →
    validAddr (l * 64) = true → s.up 7 = true → k < 512 → coreServes s k = true → (∀ b ∈ s.coh.busy, b.req.line ≠ l) → (∀ x ∈ s.coh.l1, x.line = l → x.core = k) → (∀ h, Coh.hostLineOf s l = some h → h ∉ s.host.hostHeld) →
    (∀ x, Coh.l1 s.coh k l = some x → x.st ≠ .e ∧ x.st ≠ .m) →
    u = touchAddr (s.wakeCluster (k / 16)) (l * 64) → Coh.writeCheck u (o % 4096) l false = St.ok → Coh.moving u l = false →
    ∃ t, exec c s = .next t ∧ t.coh.ended = s.coh.ended ++ [⟨q, k, l, St.ok, []⟩] ∧ (∀ x ∈ t.coh.l1, x.line = l → x.core = k) ∧
      Coh.l1 t.coh k l = some ⟨k, l, .m, Coh.stored (match Coh.l1 u.coh k l with
        | some x => (x.data, x.tag)
        | none => Coh.supply u l) (f % 64) (d.take (64 - f % 64)), some (o % 4096)⟩) ∧
  (∀ (k o l f : Nat) (d : Bytes) (x : L1Line) (s : State), s.up 7 = true → k < 512 → coreServes s k = true → Coh.l1 s.coh k l = some x → (x.st = .e ∨ x.st = .m) →
    Coh.writeCheck s (o % 4096) l false = St.ok →
    ∃ t, exec (.upgrade k o l f d) s = .next t ∧ t.coh.ended = s.coh.ended ++ [⟨.upgrade, k, l, St.ok, []⟩] ∧
      Coh.l1 t.coh k l = some ⟨k, l, .m, Coh.stored (x.data, x.tag) (f % 64) (d.take (64 - f % 64)), some (o % 4096)⟩) ∧
  (∀ (o l : Nat) (d : Bytes) (u s : State), validAddr (l * 64) = true → s.up 7 = true → (∀ b ∈ s.coh.busy, b.req.line ≠ l) → (∀ x ∈ s.coh.l1, x.line ≠ l) → (∀ h, Coh.hostLineOf s l = some h → h ∉ s.host.hostHeld) →
    u = touchAddr s (l * 64) → Coh.writeCheck u (o % 4096) l true = St.ok → Coh.moveOf u l = none →
    ∃ t, exec (.writeLine o l d) s = .next t ∧ t.coh.ended = s.coh.ended ++ [⟨.writeLine, 512, l, St.ok, []⟩] ∧ Coh.supply t l = (padTo 64 d, some (o % 4096))) ∧
  (∀ (o l : Nat) (u s : State), validAddr (l * 64) = true → s.up 7 = true → (∀ b ∈ s.coh.busy, b.req.line ≠ l) → u = touchAddr s (l * 64) → Coh.check u (o % 4096) l = St.ok →
    exec (.readOnce o l) s = .next (Coh.endReq u (plainReq .readOnce 512 (o % 4096) l) St.ok (padTo 64 (Coh.supply u l).1))) ∧
  (∀ (o a p : Nat) (d e v : Bytes) (u s : State), cohAtomicOk a p d e = true → validAddr (lineOf a * 64) = true → s.up 7 = true → (∀ b ∈ s.coh.busy, b.req.line ≠ lineOf a) →
    (∀ x ∈ s.coh.l1, x.line ≠ lineOf a) → (∀ h, Coh.hostLineOf s (lineOf a) = some h → h ∉ s.host.hostHeld) → u = touchAddr s (lineOf a * 64) → Coh.writeCheck u (o % 4096) (lineOf a) false = St.ok → Coh.moveOf u (lineOf a) = none →
    v = ((padTo 64 (Coh.supply u (lineOf a)).1).drop (a % 64)).take d.length →
    ∃ t, exec (.cacheAtomic o a p d e) s = .next t ∧ t.coh.ended = s.coh.ended ++ [⟨.atomic, 512, lineOf a, St.ok, v⟩] ∧
      ((p = 1 → v = e) → Coh.supply t (lineOf a) = (splice (padTo 64 (Coh.supply u (lineOf a)).1) (a % 64) (atomicResult p v d e), some (o % 4096)))) ∧
  (∀ (k o l f : Nat) (d : Bytes) (u s : State) (c : Instr) (q : CohKind), (c, q) ∈ [(.readOwn k o l f d, .readOwn), (.upgrade k o l f d, .upgrade)] →
    validAddr (l * 64) = true → s.up 7 = true → k < 512 → coreServes s k = true → (∀ b ∈ s.coh.busy, b.req.line ≠ l) → (∀ x ∈ s.coh.l1, x.line ≠ l) → (∀ h, Coh.hostLineOf s l = some h → h ∉ s.host.hostHeld) →
    u = touchAddr (s.wakeCluster (k / 16)) (l * 64) → Coh.writeCheck u (o % 4096) l false = St.ok → Coh.moving u l = true →
    ∃ p, p.kind = q ∧ p.core = k ∧ p.line = l ∧ exec c s = .next (Coh.endReq (writeLine u (o % 4096) l (f % 64) (d.take (64 - f % 64))) p St.ok [])) ∧
  (∀ (o a p : Nat) (d e : Bytes) (s : State), cohAtomicOk a p d e = false → s.up 7 = true →
    ∃ t, exec (.cacheAtomic o a p d e) s = .next t ∧ t.coh.ended = s.coh.ended ++ [⟨.atomic, 512, lineOf a, St.badJob, []⟩] ∧ t.mem = s.mem)

/-- Write-backs, notices, acknowledgements, firmware cache operations and host copies. An evicted dirty line moves to its slice and leaves the core;
where its copy is uncorrectable and LostLines has room it is a lost line, cached nowhere, and memory is not written. An eviction notice drops the
copy. An acknowledgement is taken. Firmware write-back and invalidation clean or flush the cached lines of a range of the memory map, and a write-back
is counted. A fence settles every line with a request that waits, and changes nothing where none waits. A host snoop is answered with the data of a
modified line, and leaves the copy that its kind leaves (none, a shared one, or as it was; log entry 34); of a line that the node does not hold it is
answered so. The answer to a back-invalidation lets the next one go out; the write that waited for it is stored, the request of a cache that waited is
acknowledged, and after the last answer of a zeroing the held accesses are served (R401, R402, R405, R410, R416, R417, R418, R527) -/
def Obligations.CacheEventsComplete : Prop :=
  (∀ (k l : Nat) (x : L1Line) (s : State), s.up 7 = true → Coh.l1 s.coh k l = some x → (x.st = .m ∨ x.st = .o) → exec (.writeback k l false) s = .next (Coh.dropCopy (Coh.fill s ⟨x.line, x.data, true, x.tag⟩) x.core x.line)) ∧
  (∀ (k l : Nat) (x : L1Line) (s : State), s.up 7 = true → Coh.l1 s.coh k l = some x → (x.st = .m ∨ x.st = .o) → s.coh.lost.length < 4096 →
    ∃ t, exec (.writeback k l true) s = .next t ∧ l * 64 ∈ t.coh.lost ∧ (∀ y ∈ t.coh.l1, y.line ≠ l) ∧ (∀ y ∈ t.coh.slice, y.line ≠ l) ∧ t.mem = s.mem) ∧
  (∀ (k l : Nat) (x : L1Line) (s : State), s.up 7 = true → Coh.l1 s.coh k l = some x → (x.st = .e ∨ x.st = .f) → exec (.evictionNotice k l) s = .next (Coh.dropCopy s x.core x.line)) ∧
  (∀ (k l : Nat) (s : State), s.up 7 = true → exec (.invalidationAck k l) s = .next (Coh.acknowledge s k l)) ∧
  (∀ (a n : Nat) (s : State), validRange (a / 64 * 64) (64 * n) = true → s.up 7 = true → exec (.firmwareWriteback a n) s = .next (((cachedIn s (a / 64) n).foldl Coh.clean s).bump Ent.writebackOps)) ∧
  (∀ (a n : Nat) (s : State), validRange (a / 64 * 64) (64 * n) = true → s.up 7 = true → exec (.firmwareInvalidate a n) s = .next ((cachedIn s (a / 64) n).foldl Coh.flush s)) ∧
  (∀ (s : State), exec .firmwareFence s = .next (Coh.settleLines s fun _ => true)) ∧
  (∀ (s : State), s.coh.busy = [] → exec .firmwareFence s = .next s) ∧
  (∀ (l : Nat) (x : Nat × Nat × Bytes) (n : Snoop) (s : State), s.host.linkUp = true → (s.coh.hostLines.find? fun x => x.1 == l) = some x →
    ∃ t, exec (.hostSnoop l n) s = .next t ∧ t.out = s.out ++ [.snoop l true (if x.2.1 = 2 then x.2.2 else [])] ∧ t.coh.l1 = s.coh.l1 ∧
      t.coh.hostLines = match n with
        | .inv => s.coh.hostLines.filter (fun y => y.1 != l)
        | .data => s.coh.hostLines.filter (fun y => y.1 != l) ++ [(l, 0, x.2.2)]
        | .cur => s.coh.hostLines) ∧
  (∀ (l : Nat) (n : Snoop) (s : State), s.host.linkUp = true → (s.coh.hostLines.find? fun x => x.1 == l) = none → exec (.hostSnoop l n) s = .next (s.emit (.snoop l false []))) ∧
  (∀ (l : Nat) (b : BackInv) (u s : State), s.host.linkUp = true → ((s.host.bisnp.take 64).find? fun b => b.line == l) = some b → b.grants = none → b.zeroing = false →
    u = sendZeroing (bisnpEnded s b) → exec (.bisnpResponse l) s = .next (sendLate (hdmStore u (l * 64 + b.off) b.data))) ∧
  (∀ (l n : Nat) (b : BackInv) (u s : State), s.host.linkUp = true → ((s.host.bisnp.take 64).find? fun b => b.line == l) = some b → b.grants = some n →
    u = sendZeroing (bisnpEnded s b) → exec (.bisnpResponse l) s = .next (Coh.acknowledge u Coh.hostAgent n)) ∧
  (∀ (l : Nat) (b : BackInv) (u s : State), s.host.linkUp = true → ((s.host.bisnp.take 64).find? fun b => b.line == l) = some b → b.grants = none → b.zeroing = true →
    u = sendZeroing (bisnpEnded s b) → exec (.bisnpResponse l) s = .next (if zeroing u then u else serveHeld u))

/-- Each operator that computes its outputs from its inputs completes. Where a run stands at an operator of its code that it may execute, with its
scratch pages in memory, its inputs read and its outputs stored: CONVERT, RESHAPE, TRANSPOSE, ELEMENTWISE, REDUCE, SOFTMAX, NORM, QUANTISE,
DEQUANTISE, DISTANCE, MERGE and SCATTER answer the next state in which the tensors of the Out places hold what the operator computes, its counts are
counted, and the run stands at the next operator; SELECT too, and the engine keeps the output registers and summary of its last row; NB_MATVEC too,
where the banks of the matrix are idle, with the products of the near-bank units. (06_arithmetic.md R194, R198, R214 to R216, 05_selection.md R167,
09_near_bank.md R304, 10_operator_graphs.md R324, R331, R332, R334 to R336, R338) -/
def Obligations.PureOperatorsComputeTheirOutputs : Prop :=
  (∀ (i : Nat) (s t : State) (r q : Run) (c : Instr) (k : Nat) (f : Graph.Ctx → OpOut), (c, k, f) ∈ pureOps i → AtOperator s i r k →
    Stores (inputsOf s r).2.2 (ctxOf s r) (f (ctxOf s r)) q t → exec c s = .next (Graph.advance t q (r.pc + 1))) ∧
  (∀ (i k : Nat) (b : Bool) (s t : State) (r q : Run), AtOperator s i r Op.select → b = (field (ctxOf s r).entry 24 1 == 1) → k = field (ctxOf s r).entry 22 2 →
    Stores (noteSelect (inputsOf s r).2.2 b k ((ctxOf s r).x 0) ((ctxOf s r).xo 1)) (ctxOf s r) (opSelect b k ((ctxOf s r).x 0) ((ctxOf s r).xo 1)) q t → exec (.select i) s = .next (Graph.advance t q (r.pc + 1))) ∧
  (∀ (i : Nat) (s t u : State) (r q : Run) (m x : TensorDef) (ps : List Nat) (l : List Int), AtOperator s i r Op.nbMatvec →
    m = tensorDef (ctxOf s r).image (opIn (ctxOf s r).entry 0) → x = tensorDef (ctxOf s r).image (opIn (ctxOf s r).entry 1) →
    ps = Graph.placesOf (inputsOf s r).2.2 r (opIn (ctxOf s r).entry 0) → Nb.idleAll (inputsOf s r).2.2 ps = true →
    Nb.keyProducts (inputsOf s r).2.2 r.owner m.last m.planes m.tileRows (Nb.codePlanes (Num.widthOf x.fmt) ((ctxOf s r).x 1).pats)
      ((List.range m.tiles).map (Graph.planeTile m ps)) = (St.ok, l, u) →
    Stores u (ctxOf s r) (opMatvec (l.take m.rowCount) ((ctxOf s r).tensor m.scale).pats ((ctxOf s r).tensor x.scale).pats) q t →
    exec (.nbMatvec i) s = .next (settleRows (Graph.advance t q (r.pc + 1))))

/-- MATMUL, the fill of a chunk, FILTER, GATHER, MERGE_UPDATE, BERTH_APPEND, LOOP, BRANCH and TIDE_WAIT complete. Where a run stands at the operator
and may execute it, its scratch pages are in memory, its inputs are read and its outputs are stored: MATMUL with no streamed weight computes its
product; with a streamed weight it works through the chunk that is due and releases its half, and with the last chunk it computes the product. A chunk
that is due fills the half whose turn it is and its bytes are counted. FILTER over an Open collection whose metadata has the length of the rows, with
a good program, filters. GATHER from a tensor gathers; from a table whose rows are read as of the stamp of the run it gathers those rows, zeros at the
indexes outside the table, which it counts. MERGE_UPDATE whose rows all have this node as the node of their shoal adds them with the next requester
sequence numbers, and goes on where none waits for granules of another node; one whose other nodes have answered OK goes on. BERTH_APPEND with room,
its pages in memory and its rows written raises the token count. LOOP enters its body with its count, of the tensor that it names or of its entry, or
passes a body of no iterations; BRANCH goes where its condition says; TIDE_WAIT whose Tide has come goes on, and one whose Tide has not come holds;
TIDE_WAIT_RELEASE at its Tide goes on (R284, R285, R333, R337, R338, R339, R340, R341, R342, R343, R345) -/
def Obligations.StatefulOperatorsComplete : Prop :=
  (∀ (i : Nat) (s t : State) (r q : Run), AtOperator s i r Op.matmul → streamedWeight (ctxOf s r).image (ctxOf s r).entry = none →
    Stores (inputsOf s r).2.2 (ctxOf s r) (opMatmul (ctxOf s r).r0 ((ctxOf s r).x 0) ((ctxOf s r).x 1) ((ctxOf s r).xo 2) ((ctxOf s r).xo 3) ((ctxOf s r).xo 4)) q t → exec (.matmul i) s = .next (Graph.advance t q (r.pc + 1))) ∧
  (∀ (i : Nat) (s u : State) (r : Run) (w : TensorDef) (g : GraphSlot) (f : Fill) (v : Bytes), AtOperator s i r Op.matmul →
    streamedWeight (ctxOf s r).image (ctxOf s r).entry = some w → Graph.slot (inputsOf s r).2.2 r.slot = some g → (Graph.fillsOf g r.id).head? = some f → f.op = r.pc →
    f.chunk = r.fills → f.status = St.ok → ScaleIs (ctxOf s r) g f v →
    u = Graph.mapSlot (inputsOf s r).2.2 g.num (fun g => { g with halves := g.halves.map fun h => h.filter fun x => x != f }) →
    r.fills + 1 < chunkCount (ctxOf s r).image w → exec (.matmul i) s = .next (Graph.mapRun u r.id fun _ =>
      { r with fills := r.fills + 1, streamed := r.streamed ++ f.data, scaleVec := v })) ∧
  (∀ (i : Nat) (s t u : State) (r q : Run) (w : TensorDef) (g : GraphSlot) (f : Fill) (v : Bytes) (x : Option Tens), AtOperator s i r Op.matmul →
    streamedWeight (ctxOf s r).image (ctxOf s r).entry = some w → Graph.slot (inputsOf s r).2.2 r.slot = some g → (Graph.fillsOf g r.id).head? = some f → f.op = r.pc →
    f.chunk = r.fills → f.status = St.ok → ScaleIs (ctxOf s r) g f v →
    u = Graph.mapSlot (inputsOf s r).2.2 g.num (fun g => { g with halves := g.halves.map fun h => h.filter fun x => x != f }) →
    chunkCount (ctxOf s r).image w ≤ r.fills + 1 →
    x = (match streamedScale (ctxOf s r).image (ctxOf s r).entry with
      | some n => some ⟨1, (tensorDef (ctxOf s r).image n).dims, patterns 1 v⟩
      | none => (ctxOf s r).xo 3) →
    Stores u (ctxOf s r) (opMatmul (ctxOf s r).r0 ((ctxOf s r).x 0) ⟨w.fmt, w.dims, (patterns w.fmt (r.streamed ++ f.data)).take w.elems⟩ ((ctxOf s r).xo 2) x ((ctxOf s r).xo 4)) q t →
    exec (.matmul i) s = .next (Graph.advance t q (r.pc + 1))) ∧
  (∀ (i op k n row : Nat) (b : Bytes) (s u : State) (r : Run) (g : GraphSlot) (w : TensorDef) (x : Nat × Bytes × State), Graph.run s i = some r →
    Graph.slot s r.slot = some g → s.mgmt = true → s.up 7 = true → r.waiting = false → Graph.streamBusy s g r = false → b = g.image →
    ((streamFrom b r.pc).drop (r.fills + (Graph.fillsOf g r.id).length)).head? = some (op, k) →
    ((g.halves.getD g.turn none).any fun f => f.run == r.id) = false → n = opIn (opEntry b op) 1 → w = tensorDef b n → row = w.last * Num.widthOf w.fmt / 8 →
    u = (if k = 0 then Graph.loadScale s r b op else s) →
    x = Graph.readStored u r n (k * chunkRows b w * row) (min (chunkRows b w) (w.dims.headD 0 - k * chunkRows b w) * row) →
    exec (.chunkFillDone i) s = .next ((Graph.mapSlot x.2.2 g.num fun g => { g with
      halves := (g.halves.map fun h => h.filter fun f => f.run == r.id).set g.turn (some ⟨r.id, op, k, x.1, x.2.1⟩), turn := 1 - g.turn }).bump
      Ent.windowStreamBytes (min (chunkRows b w) (w.dims.headD 0 - k * chunkRows b w) * row))) ∧
  (∀ (i k : Nat) (s t u : State) (r q : Run), AtOperator s i r Op.filter → u = (inputsOf s r).2.2 → k = field (ctxOf s r).entry 22 1 → u.collState k = 2 → ((ctxOf s r).x 0).last = (u.params k).metaBytes →
    filterBad (tensBytes ((ctxOf s r).x 2)) (u.params k).schema = false →
    Stores u (ctxOf s r) ⟨[(((ctxOf s r).x 0).rows.zip (((ctxOf s r).x 1).pats.map (Num.ofBits 32))).map fun (q : List Nat × Int) =>
      if filterTrue (tensBytes ((ctxOf s r).x 2)) (u.params k).schema ((q.1.take q.2.toNat).map (BitVec.ofNat 8)) then 1 else 0], {}⟩ q t →
    exec (.filter i) s = .next (Graph.advance t q (r.pc + 1))) ∧
  (∀ (i : Nat) (s t : State) (r q : Run), AtOperator s i r Op.gather → field (ctxOf s r).entry 22 4 = 0 →
    Stores (inputsOf s r).2.2 (ctxOf s r) (opGather ((ctxOf s r).x 0) ((ctxOf s r).x 1)) q t → exec (.gather i ()) s = .next (Graph.advance t q (r.pc + 1))) ∧
  (∀ (i k : Nat) (ix : List Int) (rows : List Nat) (b : Bytes) (s t u v : State) (r q : Run), AtOperator s i r Op.gather → field (ctxOf s r).entry 22 4 ≠ 0 →
    u = (inputsOf s r).2.2 → tableFor u (ctxOf s r) ((ctxOf s r).od 0).fmt ((ctxOf s r).od 0).last = .ok k → u.now ≤ r.stamp + u.num Ent.tableAgeLimit →
    ix = ((ctxOf s r).x 1).pats.map (Num.ofBits 32) → rows = (ix.filter fun (j : Int) => decide (0 ≤ j) && decide (j < Table.rowCount u k)).map (·.toNat) →
    (∀ x ∈ rows, Table.inMap u k x = true) → lookupRows u (.run r.id) k r.stamp rows = (true, St.ok, b, v) →
    Stores v (ctxOf s r) ⟨[patterns ((ctxOf s r).od 0).fmt (ix.foldl (fun (acc : Bytes × List Bytes) (j : Int) =>
        if decide (0 ≤ j) && decide (j < Table.rowCount u k) then (acc.1 ++ acc.2.headD [], acc.2.drop 1) else (acc.1 ++ List.replicate (Table.rowBytes u k) 0, acc.2))
        ([], chunks (Table.rowBytes u k) rows.length b)).1],
      { indexFaults := (ix.filter fun (j : Int) => !(decide (0 ≤ j) && decide (j < Table.rowCount u k))).length }⟩ q t →
    exec (.gather i ()) s = .next (Graph.advance t q (r.pc + 1))) ∧
  (∀ (i k n : Nat) (s t u : State) (r q : Run), AtOperator s i r Op.mergeUpdate → u = (inputsOf s r).2.2 → tableFor u (ctxOf s r) ((ctxOf s r).x 0).fmt ((ctxOf s r).x 0).last = .ok k →
    r.asked = true → r.answer = St.ok → (u.strand.outMsgs.any fun m => m.use == .sums i) = false → Table.awaited u (.run i) = false →
    n = ((((ctxOf s r).x 1).pats.map (Num.ofBits 32)).filter fun (j : Int) => !(decide (0 ≤ j) && decide (j < Table.rowCount u k))).length →
    Stores u (ctxOf s r) ⟨[], { indexFaults := n }⟩ q t → exec (.mergeUpdate i) s = .next (Graph.advance t q (r.pc + 1))) ∧
  (∀ (i k : Nat) (ix : List Int) (given : List (Nat × Bytes)) (rows : List (Nat × Nat × Bytes)) (s t u v w : State) (r q : Run), AtOperator s i r Op.mergeUpdate →
    u = (inputsOf s r).2.2 → tableFor u (ctxOf s r) ((ctxOf s r).x 0).fmt ((ctxOf s r).x 0).last = .ok k → r.asked = false → ix = ((ctxOf s r).x 1).pats.map (Num.ofBits 32) →
    given = ((ix.zip ((ctxOf s r).x 0).rows).filter fun (x : Int × List Nat) => decide (0 ≤ x.1) && decide (x.1 < Table.rowCount u k)).map (fun (x : Int × List Nat) => (x.1.toNat, packElems ((ctxOf s r).x 0).fmt x.2)) →
    (∀ x ∈ given, Table.inMap u k x.1 = true ∧ Table.shoalNode u k x.1 = u.strand.nodeId) → numberRows given u = (rows, v) →
    (rows.foldl (fun (acc : Nat × State) x => (max acc.1 (Table.accept acc.2 k x.1 u.strand.nodeId x.2.1 x.2.2 (.run i)).1,
      (Table.accept acc.2 k x.1 u.strand.nodeId x.2.1 x.2.2 (.run i)).2)) (St.ok, v)) = (St.ok, w) →
    (w.strand.outMsgs.any fun m => m.use == .sums i) = false → Table.awaited w (.run i) = false →
    Stores (w.bump Ent.unroutableFrames 0) (ctxOf s r) ⟨[], { indexFaults := (ix.filter fun (j : Int) => !(decide (0 ≤ j) && decide (j < Table.rowCount u k))).length }⟩ q t →
    exec (.mergeUpdate i) s = .next (Graph.advance t q (r.pc + 1))) ∧
  (∀ (i l n : Nat) (o : OwnedBerth) (ps : List Nat) (s t u v : State) (r q : Run), AtOperator s i r Op.berthAppend → u = (inputsOf s r).2.2 →
    Graph.berthFor u r = .ok o → l = field (ctxOf s r).entry 22 1 → n = ((ctxOf s r).x 0).dims.headD 0 → o.tokens.getD l 0 + n ≤ o.geo.capacity →
    absentPages u (appendIds o l (o.tokens.getD l 0) n) = [] → appendRows (ctxOf s r) u o l (o.tokens.getD l 0) n = (St.ok, ps, v) →
    Stores (Berth.mapOwned (Berth.mapOwned v o.id fun o => { o with dirty := (o.dirty ++ ps).eraseDups }) o.id fun w =>
      { w with tokens := w.tokens.set l (o.tokens.getD l 0 + n) }) (ctxOf s r)
      ⟨[], quantCount ((ctxOf s r).rnd o.geo.fmt) ((appendTodo o.geo n).map (appendRow (ctxOf s r) o.geo))⟩ q t →
    exec (.berthAppend i) s = .next (Graph.advance t q (r.pc + 1))) ∧
  (∀ (i : Nat) (n : Int) (s : State) (r : Run), AtOperator s i r Op.loop → ((ctxOf s r).xo 0 = none ∧ n = (field (ctxOf s r).entry 24 4 : Nat) ∨ ∃ x, (ctxOf s r).xo 0 = some x ∧ n = scalarOf x) → 0 < n → n ≤ 65536 →
    exec (.loop i) s = .next (Graph.advance (inputsOf s r).2.2 { r with loops := ⟨r.pc, field (ctxOf s r).entry 22 2, n.toNat, 0⟩ :: r.loops } (r.pc + 1))) ∧
  (∀ (i : Nat) (s : State) (r : Run), AtOperator s i r Op.loop → ((ctxOf s r).xo 0 = none ∧ field (ctxOf s r).entry 24 4 = 0 ∨ ∃ x, (ctxOf s r).xo 0 = some x ∧ scalarOf x = 0) →
    exec (.loop i) s = .next (Graph.advance (inputsOf s r).2.2 r (field (ctxOf s r).entry 22 2 + 1))) ∧
  (∀ (i : Nat) (s : State) (r : Run), AtOperator s i r Op.branch →
    exec (.branch i) s = .next (Graph.advance (inputsOf s r).2.2 r (if (scalarOf ((ctxOf s r).x 0) == 0) == (field (ctxOf s r).entry 24 1 == 0) then field (ctxOf s r).entry 22 2 else r.pc + 1))) ∧
  (∀ (i : Nat) (n : Int) (s : State) (r : Run), AtOperator s i r Op.tideWait → ((ctxOf s r).xo 0 = none ∧ n = (field (ctxOf s r).entry 22 4 : Nat) ∨ ∃ x, (ctxOf s r).xo 0 = some x ∧ n = scalarOf x) → 0 ≤ n → n ≤ 4096 →
    r.stamp + n.toNat ≤ ((inputsOf s r).2.2).now → exec (.tideWait i) s = .next (Graph.advance (inputsOf s r).2.2 r (r.pc + 1))) ∧
  (∀ (i : Nat) (n : Int) (s : State) (r : Run), AtOperator s i r Op.tideWait → ((ctxOf s r).xo 0 = none ∧ n = (field (ctxOf s r).entry 22 4 : Nat) ∨ ∃ x, (ctxOf s r).xo 0 = some x ∧ n = scalarOf x) → 0 ≤ n → n ≤ 4096 →
    ((inputsOf s r).2.2).now < r.stamp + n.toNat → exec (.tideWait i) s = .next (Graph.mapRun (inputsOf s r).2.2 i fun x => { x with holdTide := some (r.stamp + n.toNat) })) ∧
  (∀ (i n : Nat) (r : Run) (s : State), Graph.run s i = some r → r.holdTide = some n → s.mgmt = true → n ≤ s.now → exec (.tideWaitRelease i) s = .next (Graph.advance s r (r.pc + 1)))

/-- ATTEND_QK, ATTEND_PV and ATTEND complete over a berth that is served here. Where the run stands at the operator and may execute it, its scratch
pages are in memory, its inputs are read and its outputs are stored. With the pages of the K tiles and scales in memory, their banks idle and the
scores of every query head computed by the units, ATTEND_QK ends with the scores, and with −∞ at the places past the tokens used. With no token used,
ATTEND_PV and ATTEND end with zeros, ATTEND with empty summaries. Else ATTEND_PV folds its weights with the V scales and, with the V tiles that hold a
weight other than 0 in memory and their banks idle, ends with the products; ATTEND does both sides one after the other. (10_operator_graphs.md R344,
R346, 09_near_bank.md R295, R304) -/
def Obligations.AttentionOperatorsComplete : Prop :=
  (∀ (i l n : Nat) (o : OwnedBerth) (ss : List (List Nat)) (s t u v : State) (r q : Run), AtOperator s i r Op.attendQk → u = (inputsOf s r).2.2 →
    Graph.berthFor u r = .ok o → l = field (ctxOf s r).entry 22 1 → n = o.tokens.getD l 0 →
    absentPages u (Graph.keyIds o l n ++ Graph.scaleIds o l 0 n) = [] → Graph.banksIdle u (Graph.keyIds o l n) = true →
    Graph.scoreRows (ctxOf s r) u o l n = (St.ok, ss, v) →
    Stores v (ctxOf s r) ⟨[ss.flatMap fun x => x.take ((ctxOf s r).od 0).last ++ List.replicate (((ctxOf s r).od 0).last - min ((ctxOf s r).od 0).last n) Num.negInf32],
      quantCount (ctxOf s r).r0 (((ctxOf s r).x 0).rows.map fun x => x.map (Num.decode Num.fp32))⟩ q t →
    exec (.attendQk i) s = .next (settleRows (Graph.advance t q (r.pc + 1)))) ∧
  (∀ (i l : Nat) (o : OwnedBerth) (s t u : State) (r q : Run), AtOperator s i r Op.attendPv → u = (inputsOf s r).2.2 → Graph.berthFor u r = .ok o →
    l = field (ctxOf s r).entry 22 1 → o.tokens.getD l 0 = 0 →
    Stores u (ctxOf s r) ⟨[((ctxOf s r).x 0).rows.flatMap fun _ => List.replicate o.geo.headDim 0], {}⟩ q t →
    exec (.attendPv i) s = .next (settleRows (Graph.advance t q (r.pc + 1)))) ∧
  (∀ (i l n : Nat) (o : OwnedBerth) (fs : List (List Nat × Nat × List Nat)) (os : List (List Nat)) (s t u v w : State) (r q : Run),
    AtOperator s i r Op.attendPv → u = (inputsOf s r).2.2 → Graph.berthFor u r = .ok o → l = field (ctxOf s r).entry 22 1 → n = o.tokens.getD l 0 → n ≠ 0 →
    absentPages u (Graph.scaleIds o l 1 n) = [] → Graph.foldRows (ctxOf s r) u o l n ((ctxOf s r).x 0).rows = (St.ok, fs, v) →
    absentPages u (Graph.valueIds o l n fs) = [] → Graph.banksIdle u (Graph.valueIds o l n fs) = true →
    Graph.valueRows (ctxOf s r) v o l n fs = (St.ok, os, w) →
    Stores w (ctxOf s r) ⟨[os.flatten], quantCount (ctxOf s r).r0 ((fs.zip ((ctxOf s r).x 0).rows).map fun p => foldedWeights p.1.1 p.2)⟩ q t →
    exec (.attendPv i) s = .next (settleRows (Graph.advance t q (r.pc + 1)))) ∧
  (∀ (i l : Nat) (o : OwnedBerth) (s t u : State) (r q : Run), AtOperator s i r Op.attend → u = (inputsOf s r).2.2 → Graph.berthFor u r = .ok o →
    l = field (ctxOf s r).entry 22 1 → o.tokens.getD l 0 = 0 →
    Stores u (ctxOf s r) ⟨[((ctxOf s r).x 0).rows.flatMap fun _ => List.replicate o.geo.headDim 0, ((ctxOf s r).x 0).rows.flatMap fun _ => emptySummary], {}⟩ q t →
    exec (.attend i) s = .next (settleRows (Graph.advance t q (r.pc + 1)))) ∧
  (∀ (i l n : Nat) (o : OwnedBerth) (ss os : List (List Nat)) (ws : List (List Nat × List Nat)) (fs : List (List Nat × Nat × List Nat))
    (s t u v w x : State) (r q : Run), AtOperator s i r Op.attend → u = (inputsOf s r).2.2 → Graph.berthFor u r = .ok o → l = field (ctxOf s r).entry 22 1 →
    n = o.tokens.getD l 0 → n ≠ 0 → absentPages u (Graph.keyIds o l n ++ Graph.scaleIds o l 0 n ++ Graph.scaleIds o l 1 n) = [] →
    Graph.banksIdle u (Graph.keyIds o l n) = true → Graph.scoreRows (ctxOf s r) u o l n = (St.ok, ss, v) →
    ws = ss.map (attendWeights (field (ctxOf s r).entry 32 2)) → Graph.foldRows (ctxOf s r) v o l n (ws.map (·.1)) = (St.ok, fs, w) →
    absentPages u (Graph.valueIds o l n fs) = [] → Graph.banksIdle u (Graph.valueIds o l n fs) = true →
    Graph.valueRows (ctxOf s r) w o l n fs = (St.ok, os, x) →
    Stores (noteAttend x (field (ctxOf s r).entry 32 2) ss) (ctxOf s r) ⟨[os.flatten, ws.flatMap (·.2)], (quantCount (ctxOf s r).r0 (((ctxOf s r).x 0).rows.map fun y => y.map (Num.decode Num.fp32))).plus
      (quantCount (ctxOf s r).r0 ((fs.zip (ws.map (·.1))).map fun p => foldedWeights p.1.1 p.2))⟩ q t →
    exec (.attend i) s = .next (settleRows (Graph.advance t q (r.pc + 1))))

/-- Graph loads, runs and unloads complete. GRAPH_LOAD into a free slot of an image that passes every check and has room loads it and completes OK
with the digest of the image. GRAPH_RUN and ATTEND run the checks of their descriptor and start or refuse; where the two tables and the inputs are
read and nothing refuses the command, the run starts at its first operator with the stamp of its acceptance, its seed (drawn where the descriptor
gives 0), its deadline, its inputs and its berth, and a berth that lies Parked begins to wake. GRAPH_UNLOAD of a loaded slot starts unloading;
UNLOAD_COMPLETE with no run left clears the slot and completes the command. A waiting run whose berth is free again holds it and goes on. A run at its
deadline is stopped with DEADLINE (R327, R348, R349, R350, R351, R352, R354, R365, R368) -/
def Obligations.GraphCommandsComplete : Prop :=
  (∀ (n k : Nat) (x : HostRead) (h : HostCmd) (b : Bytes) (s w : State), s.waitingCmd n 0x10 = some h → s.mgmt = true → k = field h.desc 4 2 → k ≠ 0 → k ≤ 255 →
    Graph.slot s k = none → field h.desc 8 8 % 64 = 0 → functionOn s 2 = true → field h.desc 16 8 ≤ s.num Ent.maxImageBytes →
    readInput s (field h.desc 8 8) (field h.desc 16 8) x = (St.ok, b) → inputHeld s (field h.desc 8 8) (field h.desc 16 8) = false →
    w = touchInput s (field h.desc 8 8) (field h.desc 16 8) → Graph.imageRefusal w b (field h.desc 16 8) = St.ok → worst (Graph.placeRefusals w b) = none →
    Graph.stackShort w b = false → exec (.graphLoad n x) s = .next ((Graph.load w k b).finish n St.ok (leBytes 8 (digest64 b)) 0)) ∧
  (∀ (n : Nat) (a b : HostRead) (l : List HostRead) (h : HostCmd) (s : State), s.waitingCmd n 0x11 = some h → s.mgmt = true → exec (.graphRun n a b l) s = .next (runCommand s n h false a b l)) ∧
  (∀ (n : Nat) (a b : HostRead) (l : List HostRead) (h : HostCmd) (s : State), s.waitingCmd n 0x23 = some h → s.mgmt = true → exec (.attendCommand n a b l) s = .next (runCommand s n h true a b l)) ∧
  (∀ (n o sd dl : Nat) (k parked : Bool) (a b : HostRead) (l : List HostRead) (h : HostCmd) (d : Bytes) (g : GraphSlot) (p q : Nat × Bytes) (ins : List (Nat × Nat))
    (got : List (Nat × Bytes)) (c : Instr) (s w v x y z : State), (c, k, o) ∈ [(.graphRun n a b l, false, 0x11), (.attendCommand n a b l, true, 0x23)] →
    s.waitingCmd n o = some h → s.mgmt = true → d = h.desc → Graph.slot s (field d 4 2) = some g →
    p = readFor s g.owner (field d 16 8) (16 * (Graph.ofKind g.image 0).length) a → q = readFor s g.owner (field d 24 8) (16 * (Graph.ofKind g.image 1).length) b → p.1 = St.ok → q.1 = St.ok →
    inputHeld s (field d 16 8) (16 * (Graph.ofKind g.image 0).length) = false → inputHeld s (field d 24 8) (16 * (Graph.ofKind g.image 1).length) = false →
    w = touchInput (touchInput s (field d 16 8) (16 * (Graph.ofKind g.image 0).length)) (field d 24 8) (16 * (Graph.ofKind g.image 1).length) →
    ins = tableRecords p.2 → runStale w d k = false → worst (runRefusals w d k g St.ok ins (tableRecords q.2)) = none →
    ins.length ≤ l.length → got = (ins.zip l).map (fun z => readFor w g.owner z.1.1 z.1.2 z.2) → (got.map (·.1)).foldl max 0 = St.ok → (∀ z ∈ ins, inputHeld w z.1 z.2 = false) →
    v = ins.foldl (fun s z => touchInput s z.1 z.2) w → sd = (if field d 8 8 = 0 then v.drawRandom.1.toNat % (2 ^ 64 - 1) + 1 else field d 8 8) →
    x = startCmd (if field d 8 8 = 0 then v.drawRandom.2.bump Ent.seedsDrawn else v) n →
    dl = (if field d 32 4 = 0 then v.cfg Ent.defaultRunDeadline else field d 32 4) →
    startRun x (.command n) g (acceptance v h).1 sd (if dl = 0 then 0 else (acceptance v h).2 + dl) (if k || bit (field d 1 1) 0 then some (field d 40 8) else none)
      (k && bit (field d 1 1) 1) (((Graph.ofKind g.image 0).zip (got.map (·.2))).map fun z => (z.1, (patterns (tensorDef g.image z.1).fmt z.2).take (tensorDef g.image z.1).elems))
      (tableRecords q.2) = some y →
    parked = ((runBerth w (field d 40 8)).2.isSome && (k || bit (field d 1 1) 0)) →
    (parked = false ∧ z = y ∨ parked = true ∧ firstInLine y (field d 40 8) n = true ∧ Berth.startWake y (field d 40 8) none = some z) → exec c s = .next z) ∧
  (∀ (n : Nat) (h : HostCmd) (g : GraphSlot) (s : State), s.waitingCmd n 0x12 = some h → s.mgmt = true → Graph.slot s (field h.desc 4 2) = some g → g.stage = .loaded → ∃ t, exec (.graphUnload n) s = .next t ∧ t.num (Ent.slotSlotState g.num) = 3 ∧ t.tide = s.tide ∧ t.mem = s.mem ∧ t.flash = s.flash) ∧
  (∀ (k n : Nat) (g : GraphSlot) (s : State), Graph.slot s k = some g → g.stage = .unloading → s.mgmt = true → (s.gph.runs.any fun r => r.slot == k) = false → g.unload = some n → exec (.unloadComplete k) s = .next ((Graph.clear s g).finish n St.ok [] 0)) ∧
  (∀ (i b : Nat) (r : Run) (w : OwnedBerth) (s : State), Graph.run s i = some r → r.waiting = true → r.berth = some b → s.mgmt = true → firstInLine s b (runOrder r) = true → Berth.find s b = some w → Berth.mustWait s w = false → w.unconfirmed = false → w.expired = false → exec (.runHoldRelease i) s = .next (Graph.mapRun (Berth.mapOwned s b fun w => { w with holder := some i }) i fun r => { r with waiting := false })) ∧
  (∀ (i : Nat) (r : Run) (s : State), Graph.run s i = some r → s.mgmt = true → r.deadline ≠ 0 → r.deadline ≤ s.subticks → exec (.runDeadline i) s = .next (Graph.stopRun s r St.deadline))

/-- Berth commands and messages complete. CREATE at this node with nothing to refuse and pages free makes the record and the owned berth and completes
OK with sequence and number once the journal holds the record; CREATE at another node that can be reached asks that node for them. PARK, WAKE,
RELEASE, HANDOFF and CHECKPOINT run on their berth. Where the berth is served here and nothing holds it: PARK begins to park it with a checkpoint,
WAKE at its home completes OK, RELEASE lets it go and completes OK, HANDOFF to another node of the composition sends it there, and CHECKPOINT begins a
checkpoint. Of a berth that lies Parked at this home, and that no earlier command waits for: WAKE begins to read its pages, RELEASE frees the record
and PARK completes OK. A page and a control word from another node are taken and answered. The command that waits first at a free berth starts.
AUTO_PARK parks a berth of the age limit. TAKEOVER takes a live berth whose lease has run out from an expelled owner, or from this home where it no
longer has the berth (R361, R363, R365, R366, R367, R369, R370, R373, R374, R375, R377) -/
def Obligations.BerthCommandsComplete : Prop :=
  (∀ (n k q : Nat) (h : HostCmd) (g : Geometry) (x : Option Nat) (u w : State) (s : State), s.waitingCmd n 0x20 = some h → s.mgmt = true → Berth.createRefusal s h.desc = none →
    Berth.namedHome s h.desc = s.strand.nodeId → Berth.freeNumber s = some k → q = Berth.nextSeqOf s k → g = Berth.geometryOf h.desc →
    (Berth.recordPage s k).bind (fun v => Berth.allocPages v (Berth.idOf s.strand.nodeId k) (field h.desc 4 2 % 4096) g (bit (field h.desc 1 1) 0)) = some u →
    x = Berth.chooseShadow u (Berth.idOf s.strand.nodeId k) u.strand.nodeId →
    w = Berth.own (Berth.record u k u.strand.nodeId (field h.desc 4 2 % 4096) g (bit (field h.desc 1 1) 0) q x)
      (Berth.idOf s.strand.nodeId k) (field h.desc 4 2 % 4096) g (bit (field h.desc 1 1) 0) q (u.now + u.cfg Ent.leaseTides) x →
    exec (.create n ()) s = .next (Berth.answer (startCmd w n) k (.done n St.ok (Berth.createBytes q k) 0))) ∧
  (∀ (n d : Nat) (h : HostCmd) (s : State), s.waitingCmd n 0x20 = some h → s.mgmt = true → Berth.createRefusal s h.desc = none → d = Berth.namedHome s h.desc → d ≠ s.strand.nodeId →
    unsent s d 2 = false → exec (.create n ()) s = .next (sendMessage (startCmd s n) d 2 0 0x0021
      (Berth.controlWords (.create n (field h.desc 4 2 % 4096) (Berth.geometryOf h.desc) (bit (field h.desc 1 1) 0))) [] (.create n))) ∧
  (∀ (n o : Nat) (h : HostCmd) (c : Instr) (s : State), (c, o) ∈ [(.park n, 0x21), (.wake n, 0x22), (.release n, 0x24), (.handoff n, 0x25), (.checkpoint n, 0x26)] →
    s.waitingCmd n o = some h → s.mgmt = true → exec c s = .next (Berth.command s n h)) ∧
  (∀ (n : Nat) (h : HostCmd) (o : OwnedBerth) (s : State), s.waitingCmd n 0x21 = some h → s.mgmt = true → Berth.meets s (field h.desc 16 8) = none → functionOn s 3 = true → Berth.find s (field h.desc 16 8) = some o → runWaits s o = false →
    exec (.park n) s = .next (Berth.startPark (startCmd s n) o.id (some n))) ∧
  (∀ (n : Nat) (h : HostCmd) (o : OwnedBerth) (s : State), s.waitingCmd n 0x22 = some h → s.mgmt = true → Berth.meets s (field h.desc 16 8) = none → functionOn s 3 = true → Berth.find s (field h.desc 16 8) = some o → runWaits s o = false →
    Berth.homeHere s (field h.desc 16 8) = true → exec (.wake n) s = .next (Berth.finish (startCmd s n) n o.id St.ok 0)) ∧
  (∀ (n : Nat) (h : HostCmd) (o : OwnedBerth) (s : State), s.waitingCmd n 0x24 = some h → s.mgmt = true → Berth.meets s (field h.desc 16 8) = none → functionOn s 3 = true → Berth.find s (field h.desc 16 8) = some o → runWaits s o = false →
    exec (.release n) s = .next (Berth.releaseOwned (startCmd s n) o n)) ∧
  (∀ (n d : Nat) (h : HostCmd) (o : OwnedBerth) (s : State), s.waitingCmd n 0x25 = some h → s.mgmt = true → Berth.meets s (field h.desc 16 8) = none → functionOn s 3 = true → Berth.find s (field h.desc 16 8) = some o → runWaits s o = false →
    d = field h.desc 8 4 % 2 ^ 20 → d ≠ s.strand.nodeId → inComposition s d = true →
    exec (.handoff n) s = .next (Berth.startHandoff (startCmd s n) o.id n d)) ∧
  (∀ (n : Nat) (h : HostCmd) (o : OwnedBerth) (s : State), s.waitingCmd n 0x26 = some h → s.mgmt = true → Berth.meets s (field h.desc 16 8) = none → functionOn s 3 = true → Berth.find s (field h.desc 16 8) = some o → runWaits s o = false →
    exec (.checkpoint n) s = .next (Berth.startCheckpoint (Berth.mapOwned (startCmd s n) o.id fun o => { o with task := .checkpoint (some n) }) o.id)) ∧
  (∀ (n b : Nat) (h : HostCmd) (r : HomeBerth) (t : State) (s : State), s.waitingCmd n 0x22 = some h → s.mgmt = true → b = field h.desc 16 8 → Berth.meets s b = some .stale → Berth.homeHere s b = true → Berth.findHome s (Berth.num b) = some r → r.state = .parked → functionOn s 3 = true → firstInLine s b n = true →
    Berth.startWake (startCmd s n) b (some n) = some t → exec (.wake n) s = .next t) ∧
  (∀ (n b : Nat) (h : HostCmd) (r : HomeBerth) (s : State), s.waitingCmd n 0x24 = some h → s.mgmt = true → b = field h.desc 16 8 → Berth.meets s b = some .stale → Berth.homeHere s b = true → Berth.findHome s (Berth.num b) = some r → r.state = .parked → functionOn s 3 = true → firstInLine s b n = true →
    exec (.release n) s = .next (Berth.finish (Berth.releaseHome (startCmd s n) b) n b St.ok 0)) ∧
  (∀ (n b : Nat) (h : HostCmd) (r : HomeBerth) (s : State), s.waitingCmd n 0x21 = some h → s.mgmt = true → b = field h.desc 16 8 → Berth.meets s b = some .stale → Berth.homeHere s b = true → Berth.findHome s (Berth.num b) = some r → r.state = .parked → functionOn s 3 = true → firstInLine s b n = true →
    exec (.park n) s = .next (Berth.finish (startCmd s n) n b St.ok 0)) ∧
  (∀ (a : Nat) (p : BerthPage) (s u : State) (st : Nat), s.mgmt = true → Berth.takePage s p = (st, u) → st ≠ St.retry → exec (.berthPages a p) s = .next (answerMsg u a 0x0020 st)) ∧
  (∀ (a : Nat) (p : BerthPage) (s : State), s.mgmt = true → exec (.berthPages a p) s = .next (Berth.receivePage s a p true)) ∧
  (∀ (a : Nat) (m : BerthMsg) (s : State), s.mgmt = true → exec (.berthControl a m) s = .next (Berth.receiveControl s a m)) ∧
  (∀ (a : Nat) (m : BerthMsg) (s : State), s.mgmt = true → (Berth.controlled m).filter (Berth.homeHere (Berth.takeControl s a m)) = none →
    exec (.berthControl a m) s = .next (answerMsg (Berth.takeControl s a m) a 0x0021 St.ok)) ∧
  (∀ (b : Nat) (x : OwnedBerth) (w : BerthWait) (l : List BerthWait) (h : HostCmd) (s : State), Berth.find s b = some x → x.waits = w :: l → s.mgmt = true → Berth.mustWait s x = false →
    x.unconfirmed = false → x.expired = false → firstInLine s b w.cmd = true → (Berth.mapOwned s b fun o => { o with waits := l }).cmd w.cmd = some h →
    exec (.berthCommandRelease b) s = .next (Berth.onResident (Berth.mapOwned s b fun o => { o with waits := l }) { x with waits := l } h)) ∧
  (∀ (b : Nat) (x : OwnedBerth) (s : State), Berth.find s b = some x → s.mgmt = true → s.cfg Ent.autoParkAge ≠ 0 → x.pinned = false → Berth.mustWait s x = false → x.unconfirmed = false →
    x.expired = false → s.cfg Ent.autoParkAge ≤ berthAge s x → exec (.autoPark b) s = .next (Berth.startPark s b none)) ∧
  (∀ (k : Nat) (h : HomeBerth) (s : State), Berth.findHome s k = some h → s.mgmt = true → h.state ≠ .free → h.state ≠ .lost → h.state ≠ .parked → h.word.lease ≤ s.now →
    ((expelledNodes s).contains h.word.owner = true ∨ h.word.owner = s.strand.nodeId ∧ Berth.find s (Berth.idOf s.strand.nodeId k) = none) →
    exec (.takeover k) s = .next (Berth.takeOver s k))

/-- Parks, wakes, leases, resolutions, installs and usage reports complete. A park whose pages are durable and acknowledged swaps the word; a wake whose
pages are all written ends at the first boundary after; a lease is renewed, or found expired at its Tide; an unconfirmed berth is resolved at its
Tide; a recovering berth is installed. USAGE_REPORT at the end of a period with a healthy generator issues the next sequence number and begins a new
period. (R366, R367, R372, R374, R377, R380) -/
def Obligations.BerthEventsComplete : Prop :=
  (∀ (b : Nat) (x : OwnedBerth) (s : State), Berth.find s b = some x → s.mgmt = true → x.state = .parking → Berth.homeHere s b = false → x.uncopied = [] → x.unacked = [] → x.eventTide ≠ 0 → x.unconfirmed = false → exec (.parkDone b) s = .next (Berth.parkSwap s b)) ∧
  (∀ (b : Nat) (x : OwnedBerth) (h : HomeBerth) (s : State), Berth.find s b = some x → s.mgmt = true → x.state = .parking → Berth.homeHere s b = true → Berth.findHome s (Berth.num b) = some h →
    Berth.parkedBytesDurable s h = true → x.uncopied = [] → x.unacked = [] → x.eventTide ≠ 0 → x.unconfirmed = false → exec (.parkDone b) s = .next (Berth.parkSwap s b)) ∧
  (∀ (b : Nat) (x : OwnedBerth) (s : State), Berth.find s b = some x → s.mgmt = true → x.state = .waking → x.wakeReady = true → x.eventTide < s.now → exec (.wakeReady b) s = .next (Berth.wakeEnd s b)) ∧
  (∀ (b : Nat) (x : OwnedBerth) (s : State), Berth.find s b = some x → s.mgmt = true → x.unconfirmed = false → x.state ≠ .waking → exec (.leaseRenewal b) s = .next (Berth.renew s b)) ∧
  (∀ (b : Nat) (x : OwnedBerth) (s : State), Berth.find s b = some x → s.mgmt = true → x.lease ≤ s.now → exec (.leaseExpiry b) s = .next (Berth.mapOwned s b fun o => { o with expired := true })) ∧
  (∀ (b : Nat) (x : OwnedBerth) (s : State), Berth.find s b = some x → s.mgmt = true → x.unconfirmed = true → x.resolveAt ≤ s.now → exec (.resolveRead b) s = .next (Berth.resolve s b)) ∧
  (∀ (b : Nat) (x : OwnedBerth) (s : State), Berth.find s b = some x → s.mgmt = true → x.state = .recovering → x.unconfirmed = false → exec (.checkpointInstalled b) s = .next (Berth.installCheckpoint s x)) ∧
  (∀ (s : State), s.mgmt = true → s.berth.firstTide ≠ 0 → s.berth.firstTide ≤ s.now / max 1 (s.cfg Ent.meterPeriod) * s.cfg Ent.meterPeriod → s.sec.trng = 1 → ∃ t, exec .usageReport s = .next t ∧ t.berth.meters = [] ∧ t.berth.firstTide = s.now + 1 ∧ t.num Ent.reportSeq = (s.num Ent.reportSeq + 1) % 2 ^ 32 ∧ t.berth.owned = s.berth.owned ∧ t.berth.homes = s.berth.homes)

/-- Row commands and table messages complete. ROW_GET whose stamp is not too old and whose rows are found writes them to the host and completes OK;
where a row lies at another node it waits. ROW_PUT whose rows and data are read replaces the rows of this node, or stages them for its apply Tide in a
table of snapshots, sends each other shoal node its rows, and completes once they have answered. ROW_UPDATE whose rows and data are read numbers the
rows that can leave, adds those of this node, and sends each other shoal node its rows. A row command that meets a refusal completes with it. A PUT
without every answer one boundary before its commit is withdrawn. Staged rows are committed or withdrawn by the message of their put. Rows, sums and
loads for a table that is Open here are taken and answered; updates at a node in Acquiring meet RETRY (R50, R382, R385, R386, R387, R388, R389, R392)
-/
def Obligations.TableCommandsComplete : Prop :=
  (∀ (n k : Nat) (x : HostRead) (h : HostCmd) (rows : List Nat) (b : Bytes) (u w : State) (s : State), rowCmd s n 0 = some h → s.mgmt = true → inputHeld s (field h.desc 16 8) (8 * field h.desc 8 4) = false → rowList s h.desc x = .ok (k, rows) →
    s.now ≤ (acceptance s h).1 + s.num Ent.tableAgeLimit → w = touchInput s (field h.desc 16 8) (8 * field h.desc 8 4) →
    lookupRows w (.cmd n) k (acceptance s h).1 rows = (true, St.ok, b, u) → exec (.rowGet n x ()) s = .next ((u.cmdWrite n (field h.desc 24 8) b).finish n St.ok [] 0)) ∧
  (∀ (n k : Nat) (x : HostRead) (h : HostCmd) (rows : List Nat) (b : Bytes) (u w : State) (s : State), rowCmd s n 0 = some h → s.mgmt = true → inputHeld s (field h.desc 16 8) (8 * field h.desc 8 4) = false → rowList s h.desc x = .ok (k, rows) →
    s.now ≤ (acceptance s h).1 + s.num Ent.tableAgeLimit → w = touchInput s (field h.desc 16 8) (8 * field h.desc 8 4) →
    lookupRows w (.cmd n) k (acceptance s h).1 rows = (false, St.ok, b, u) → exec (.rowGet n x ()) s = .next (holdCmd u n)) ∧
  (∀ (n k st apply : Nat) (x y : HostRead) (h : HostCmd) (rows nodes : List Nat) (b : Bytes) (all mine : List (Nat × Bytes)) (rc : RowCommand) (u v w : State) (s : State),
    rowCmd s n 1 = some h → s.mgmt = true → inputHeld s (field h.desc 16 8) (8 * field h.desc 8 4) = false → rowList s h.desc x = .ok (k, rows) → v = touchInput s (field h.desc 16 8) (8 * field h.desc 8 4) →
    readInput v (field h.desc 24 8) (rows.length * Table.rowBytes v k) y = (St.ok, b) → inputHeld v (field h.desc 24 8) (rows.length * Table.rowBytes v k) = false →
    w = touchInput v (field h.desc 24 8) (rows.length * Table.rowBytes v k) → all = lastOf (rowData (Table.rowBytes v k) rows b) →
    mine = (all.filter fun r => Table.shoalNode w k r.1 == w.strand.nodeId) → nodes = ((all.map fun r => Table.shoalNode w k r.1).eraseDups).filter (· != w.strand.nodeId) →
    apply = (if Table.snapshot w k = false then w.now else if field h.desc 32 6 = 0 then w.now + w.cfg Ent.swapLeadMin else field h.desc 32 6) →
    rc = ⟨n, k, true, apply, nodes, nodes, false, false, St.ok⟩ →
    (Table.snapshot w k = false ∧ Table.replaceAll (startCmd w n) k mine (.cmd n) = (st, u) ∨
      Table.snapshot w k = true ∧ st = St.ok ∧ Table.stage (startCmd w n) k apply (Table.putTag (startCmd w n) rc) mine = some u) →
    exec (.rowPut n x y) s = .next (Table.settleCmd (nodes.foldl (fun s d =>
        if unsent s d 6 then Table.noteCmd s.unrouted n d St.retry
        else Table.sendPut s d k 0 n (apply :: (all.filter fun r => Table.shoalNode s k r.1 == d).map (·.1)) ((all.filter fun r => Table.shoalNode s k r.1 == d).map (·.2)) (.rows n d))
      { u with tbl := { u.tbl with commands := u.tbl.commands ++ [{ rc with status := st }] } }) n)) ∧
  (∀ (n k st : Nat) (x y : HostRead) (h : HostCmd) (rows nodes : List Nat) (b : Bytes) (given : List (Nat × Bytes)) (all : List (Nat × Nat × Bytes)) (u v w z : State) (s : State),
    rowCmd s n 2 = some h → s.mgmt = true → inputHeld s (field h.desc 16 8) (8 * field h.desc 8 4) = false → rowList s h.desc x = .ok (k, rows) → v = touchInput s (field h.desc 16 8) (8 * field h.desc 8 4) →
    readInput v (field h.desc 24 8) (rows.length * Table.rowBytes v k) y = (St.ok, b) → inputHeld v (field h.desc 24 8) (rows.length * Table.rowBytes v k) = false →
    w = touchInput v (field h.desc 24 8) (rows.length * Table.rowBytes v k) → given = rowData (Table.rowBytes v k) rows b →
    nodes = ((given.map fun r => Table.shoalNode w k r.1).eraseDups).filter (· != w.strand.nodeId) →
    numberRows (given.filter fun r => rowLeaves w k r.1) (startCmd w n) = (all, z) →
    (all.filter fun r => Table.shoalNode w k r.1 == w.strand.nodeId).foldl (fun (acc : Nat × State) r =>
      (max acc.1 (Table.accept acc.2 k r.1 w.strand.nodeId r.2.1 r.2.2 (.cmd n)).1, (Table.accept acc.2 k r.1 w.strand.nodeId r.2.1 r.2.2 (.cmd n)).2)) (St.ok, z) = (st, u) →
    exec (.rowUpdate n x y) s = .next (Table.settleCmd (nodes.foldl (fun s d =>
        if unsent s d 6 then Table.noteCmd s.unrouted n d St.retry
        else Table.sendSums s d k .updates 0 (all.filter fun r => Table.shoalNode s k r.1 == d) (.rows n d))
      { u with tbl := { u.tbl with commands := u.tbl.commands ++ [⟨n, k, false, Table.commitTide w, nodes, nodes, false, false, st⟩] } }) n)) ∧
  (∀ (n o : Nat) (x y : HostRead) (h : HostCmd) (r : Nat × Nat) (c : Instr) (s : State), (c, o) ∈ [(.rowGet n x (), 0), (.rowPut n x y, 1), (.rowUpdate n x y, 2)] → rowCmd s n o = some h →
    s.mgmt = true → inputHeld s (field h.desc 16 8) (8 * field h.desc 8 4) = false → rowList s h.desc x = .error r → exec c s = .next (s.finish n r.1 [] r.2)) ∧
  (∀ (n : Nat) (k : RowCommand) (s : State), Table.findCmd s n = some k → s.mgmt = true → k.put = true → Table.snapshot s k.slot = true → k.committed = false → k.apply ≤ s.now + 1 → exec (.putAnswerDeadline n) s = .next (Table.withdrawPut s k)) ∧
  (∀ (a k : Nat) (p : PutRows) (u : State) (s : State), s.mgmt = true → functionOn s 4 = true → acquiring s = false → Table.find s p.table = some k → (p.rows.any fun r => Table.shoalNode s k r.1 != s.strand.nodeId) = false → Table.snapshot s k = true → s.now < p.apply → Table.stage s k p.apply (a, p.tag) (p.rows.map fun r => (r.1, padTo (Table.rowBytes s k) r.2)) = some u → exec (.tablePutRows a p) s = .next (answerMsg u a 0x0030 St.ok)) ∧
  (∀ (a g : Nat) (s : State), s.mgmt = true → (s.tbl.staged.any fun r => r.put == (a, g)) = true → exec (.tablePutCommit a g) s = .next (answerMsg (Table.commitStaged s (a, g)) a 0x0030 St.ok)) ∧
  (∀ (a g : Nat) (s : State), s.mgmt = true → exec (.tablePutWithdraw a g) s = .next (answerMsg (Table.withdraw s (a, g)) a 0x0030 St.ok)) ∧
  (∀ (a k : Nat) (p : PutRows) (s : State), s.mgmt = true → functionOn s 4 = true → acquiring s = false → Table.find s p.table = some k → (p.rows.any fun r => Table.shoalNode s k r.1 != s.strand.nodeId) = false → Table.snapshot s k = false →
    deliveredOf s a 0x0030 = none → exec (.tablePutRows a p) s = .next (Table.replaceAll s k (p.rows.map fun r => (r.1, padTo (Table.rowBytes s k) r.2)) .nobody).2) ∧
  (∀ (a k : Nat) (p : PutRows) (d : Delivered) (x : Nat × State) (s : State), s.mgmt = true → functionOn s 4 = true → acquiring s = false → Table.find s p.table = some k →
    (p.rows.any fun r => Table.shoalNode s k r.1 != s.strand.nodeId) = false → Table.snapshot s k = false → deliveredOf s a 0x0030 = some d →
    x = Table.replaceAll (takeDelivered s d) k (p.rows.map fun r => (r.1, padTo (Table.rowBytes s k) r.2)) (.msg d) → exec (.tablePutRows a p) s = .next (Table.tell x.2 (.msg d) x.1)) ∧
  (∀ (a k : Nat) (m : UpdateMsg) (s : State), s.mgmt = true → functionOn s 4 = true → (m.kind = .updates → acquiring s = false) → Table.findServing s m.table = some k → deliveredOf s a 0x0031 = none →
    exec (.tableUpdateSums a m) s = .next (takeSums s a k m .nobody).2) ∧
  (∀ (a k : Nat) (m : UpdateMsg) (d : Delivered) (x : Nat × State) (s : State), s.mgmt = true → functionOn s 4 = true → (m.kind = .updates → acquiring s = false) → Table.findServing s m.table = some k → deliveredOf s a 0x0031 = some d →
    x = takeSums (takeDelivered s d) a k m (.msg d) → exec (.tableUpdateSums a m) s = .next (Table.tell x.2 (.msg d) x.1)) ∧
  (∀ (a : Nat) (m : UpdateMsg) (s : State), s.mgmt = true → functionOn s 4 = true → m.kind = .updates → acquiring s = true →
    exec (.tableUpdateSums a m) s = .next (answerMsg s a 0x0031 St.retry)) ∧
  (∀ (a b n k : Nat) (u : State) (s : State), s.mgmt = true → functionOn s 4 = true → Table.find s b = some k → u = answerMsg s a 0x0032 St.ok → exec (.tableLoadReport a b n) s = .next (Table.considerSkew { u with tbl := { u.tbl with loads := (u.tbl.loads.filter fun x => !(x.1 == k && x.2.1 == a)) ++ [(k, a, n)] } } k))

/-- Load periods, migrations, refreshes, granules and releases of tables complete. At a load period the load of a table served here is what its rows
were read for: it becomes ShoalLoad, it is sent to the other shoal nodes, the rows read are ranked and the next period counts from 0; with no table
served here nothing changes. A migration whose switch Tide has come and whose copy is of the same version makes the copy Current, keeping TideField
and Fresh, and is counted. A hot row refresh begins to read the rows of highest count that fit. Granules whose time has come are freed. Fresh is
cleared in pointers of more than 4,096 Tides. The storage of a closed table goes 4,096 Tides after its boundary: its entries, granules and rows.
(R381, R384, R391, R392) -/
def Obligations.TableEventsComplete : Prop :=
  (∀ (s : State), s.mgmt = true → s.now % max 1 (s.cfg Ent.loadPeriod) = 0 → (∀ k, k < 256 → Table.state s k = 2 → (Table.shoalNodes s k).contains s.strand.nodeId = false) → exec .loadPeriod s = .next (s)) ∧
  (∀ (k l : Nat) (u : State) (s : State), s.mgmt = true → s.now % max 1 (s.cfg Ent.loadPeriod) = 0 →
    ((List.range 256).filter fun t => Table.state s t == 2 && (Table.shoalNodes s t).contains s.strand.nodeId) = [k] → l = Table.load s k →
    u = (((Table.shoalNodes s k).eraseDups).filter (· != s.strand.nodeId)).foldl (fun s n => sendMessage s n 6 (Table.job s k) 0x0032 [Table.id s k, l] [] .load)
      ((Table.turnServed s k).setNum (Ent.tableStShoalLoad k) l) →
    exec .loadPeriod s = .next (Table.considerSkew { u with tbl := { u.tbl with
      loads := (u.tbl.loads.filter fun x => !(x.1 == k && x.2.1 == s.strand.nodeId)) ++ [(k, s.strand.nodeId, l)] } } k)) ∧
  (∀ (k : Nat) (s : State), s.mgmt = true → s.now % max 1 (s.cfg Ent.loadPeriod) = 0 →
    ((List.range 256).filter fun t => Table.state s t == 2 && (Table.shoalNodes s t).contains s.strand.nodeId) = [k] →
    (Table.shoalNodes s k).eraseDups = [s.strand.nodeId] →
    ∃ t, exec .loadPeriod s = .next t ∧ t.num (Ent.tableStShoalLoad k) = Table.load s k ∧ Table.load t k = 0 ∧ (∀ x ∈ s.tbl.served, x.slot = k → x ∈ t.tbl.ranked)) ∧
  (∀ (b row k p w : Nat) (m : Migration) (u : State) (s : State), Table.find s b = some k → Table.migration s k row = some m → m.copy = some p → m.switchAt = some w → s.mgmt = true → w ≤ s.now → Table.ptrTide s.now p = Table.ptrTide s.now (Table.entry s k row).cur →
    u = { s with tbl := { s.tbl with migrations := s.tbl.migrations.filter fun x => !(x.slot == k && x.row == row) } } →
    ∃ t, exec (.migrationSwitch b row) s = .next t ∧
      t = (Table.setEntry (Table.retire (if m.target = s.strand.nodeId then Table.forgetStored u k row else u) k row (Table.entry s k row).cur)
        { Table.entry s k row with cur := (Table.entry s k row).cur / 2 ^ 50 * 2 ^ 50 + p % 2 ^ 50 }).bump (Ent.tableStMigrations k) ∧
      (Table.entry t k row).cur = (Table.entry s k row).cur / 2 ^ 50 * 2 ^ 50 + p % 2 ^ 50 ∧ (Table.entry t k row).prior = (Table.entry s k row).prior) ∧
  (∀ (b k : Nat) (x : Nat × State) (l : List LookedRow) (u : State) (s : State), Table.find s b = some k → s.mgmt = true → s.now % max 1 (s.cfg (Ent.tableHotRefreshTides k)) = 0 → x = takeCache s k →
    l = hotRows (min (s.cfg (Ent.tableCacheBytes k)) (65536 * x.1)) (Table.rowBytes s k) (s.tbl.looked.filter fun y => y.slot == k) →
    u = Table.dropFar x.2 (fun y => y == .cache k) → exec (.hotRowRefresh b) s = .next (Table.settleCache (l.foldl (fun s y => Table.beginFar s (.cache k) k y.row s.now)
      { u with tbl := { u.tbl with looked := u.tbl.looked.filter fun y => y.slot != k, hot := u.tbl.hot.filter fun y => y.slot != k } }))) ∧
  (∀ (s : State), s.mgmt = true → ∃ t, exec .granuleFree s = .next t ∧
    t = (s.tbl.freeing.filter fun x => decide (x.2.2 ≤ s.now)).foldl (fun s x => Table.release s x.1 x.2.1) { s with tbl := { s.tbl with freeing := s.tbl.freeing.filter fun x => !decide (x.2.2 ≤ s.now) } } ∧
    (∀ x, x ∈ t.tbl.freeing ↔ x ∈ s.tbl.freeing ∧ s.now < x.2.2) ∧
    (∀ x ∈ s.tbl.freeing, x.2.2 ≤ s.now → ∀ i, i < Table.span s x.1 → ∀ g ∈ t.tbl.granules, g.2 ≠ i + x.2.1)) ∧
  (∀ (s : State), s.mgmt = true → ∃ t, exec .freshClear s = .next t ∧ t.tbl.dirs.length = s.tbl.dirs.length ∧ (∀ d ∈ t.tbl.dirs, ∃ e ∈ s.tbl.dirs, d.slot = e.slot ∧ d.row = e.row ∧ (d.cur = e.cur ∨ d.cur = e.cur - 2 ^ 50) ∧
      d.cur = (if Table.ptrFresh e.cur = true ∧ Table.ptrTide s.now e.cur + 4096 < s.now then e.cur - 2 ^ 50 else e.cur) ∧
      d.prior = (if Table.ptrFresh e.prior = true ∧ Table.ptrTide s.now e.prior + 4096 < s.now then e.prior - 2 ^ 50 else e.prior)) ∧ t.tbl.granules = s.tbl.granules) ∧
  (∀ (k : Nat) (x : TableClosing) (s : State), (s.tbl.closings.find? fun x => x.slot == k) = some x → s.mgmt = true → x.boundary + 4096 ≤ s.now → ∃ t, exec (.tableStorageRelease k) s = .next t ∧ t = clearTable s k ∧
    (∀ d ∈ t.tbl.dirs, d.slot ≠ k) ∧ (∀ g ∈ t.tbl.granules, g.1 ≠ k) ∧ (∀ y ∈ t.tbl.closings, y.slot ≠ k) ∧ (∀ y ∈ t.tbl.hot, y.slot ≠ k))

/-- Enumeration, reads, programs and erases of the flash channels complete. The first enumeration accepts the targets that fit together and whose
channel has a common rate, and reports how many it accepted and how many it refused. Of the reads that wait for a die that is idle, or whose operation
it may suspend, the one of the lowest class, and of these the earliest, becomes active and is counted. A read that decodes, with its tag where it
verifies, is handed over in plaintext, and its block is marked where it corrected more than RelocateBits; one that does not decode within ReadRetryMax
is counted as uncorrectable, its reader is told, and an error event follows. The timer starts the programs of the streams of a channel that are due. A
program that passes does what it was started for and lets go what waited for it; one that fails, or whose die has left service, is dealt with as a
failure. A closed block without valid data whose unmaps are durable may be erased; an erased block is Free with one more erase, and one that fails to
erase is retired (R471, R472, R479, R480, R484, R485, R486, R500, R501, R502, R503, R505) -/
def Obligations.FlashReadsAndProgramsComplete : Prop :=
  (∀ (l : List Target) (s : State), flashRuns s = true → s.flash.enumerated = false → ∃ t, exec (.flashEnumerationDone l) s = .next t ∧ t.flash.enumerated = true ∧ t.tide = s.tide ∧
    t.num Ent.targetsAccepted = (((List.range 32).filter fun c => (channelRate (s.cfg Ent.flashMaxMTs) ((acceptTargets (l.filter fun t => decide (t.chan < 32) && decide (t.target < 16))).filter fun t => t.chan == c)).isSome).flatMap fun c =>
      (acceptTargets (l.filter fun t => decide (t.chan < 32) && decide (t.target < 16))).filter fun t => t.chan == c).length ∧ t.num Ent.targetsRefused = l.length - t.num Ent.targetsAccepted) ∧
  (∀ (k d : Nat) (x : Chan) (q : FlashRead) (m before after : List FlashRead) (u : FlashUnit) (s : State), Flash.chan s.flash k = some x → flashRuns s = true → channelHeld s k = false → dieTested s x d = false →
    m = (s.flash.reads.filter fun r => r.at_.chan == k && Flash.dieOf x r.at_.block == d) → (m.any fun r => r.active) = false →
    m = before ++ q :: after → (∀ r ∈ before, q.cls < r.cls) → (∀ r ∈ after, q.cls ≤ r.cls) →
    (Flash.dieBusy s.flash x d = false ∧ (q.cls = 4 → programDue s x = false) ∧ u = s.flash ∨ Flash.dieBusy s.flash x d = true ∧ q.cls ≠ 4 ∧ suspendDie s x d = some u) →
    exec (.lunReadDispatch k d) s = .next (State.bump { s with flash := (Flash.mapBlock { u with reads := u.reads.map fun y => if y.id = q.id then { y with active := true } else y } k q.at_.block
      (fun b => { b with reads := b.reads + 1 })) } (Ent.chanCodewordsRead k))) ∧
  (∀ (i n m : Nat) (q : FlashRead) (w : Cw) (u v s : State), (s.flash.reads.find? fun r => r.id == i && r.active) = some q → flashRuns s = true → u = State.bump { s with flash := { s.flash with reads := s.flash.reads.filter fun x => x.id != i } } Ent.readRetries (min n (s.cfg Ent.readRetryMax)) →
    Flash.codewordAt u.flash q.at_ = some w → n ≤ s.cfg Ent.readRetryMax → blockGone u q.at_.chan q.at_.block = false → (isVerify q.use = true → w.logical = q.logical ∧ w.owner = q.owner) →
    v = (if u.cfg Ent.relocateBits < m then { u with flash := Flash.mapBlock u.flash q.at_.chan q.at_.block fun b => { b with marked := true } } else u) →
    exec (.flashReadDone i n m) s = .next (Flash.settleChan (settleRebuild (deliverRead v q St.ok (padTo 4096 (plainOf u w)))) q.at_.chan)) ∧
  (∀ (i n m : Nat) (q : FlashRead) (u v s : State), (s.flash.reads.find? fun r => r.id == i && r.active) = some q → flashRuns s = true → u = State.bump { s with flash := { s.flash with reads := s.flash.reads.filter fun x => x.id != i } } Ent.readRetries (min n (s.cfg Ent.readRetryMax)) →
    (s.cfg Ent.readRetryMax < n ∨ Flash.codewordAt u.flash q.at_ = none ∨ blockGone u q.at_.chan q.at_.block = true ∨
      (∃ w, Flash.codewordAt u.flash q.at_ = some w ∧ isVerify q.use = true ∧ ¬ (w.logical = q.logical ∧ w.owner = q.owner))) →
    v = deliverRead (u.bump Ent.uncorrectableCodewords) q St.uncorrectable [] →
    exec (.flashReadDone i n m) s = .next (Flash.settleChan (settleRebuild (match Flash.chan v.flash q.at_.chan with
      | some c => raiseEvent (v.bump Ent.errorEvents) (Flash.dieUnit c (Flash.dieOf c q.at_.block)) 0 ⟨0x08, St.uncorrectable, q.logical, v.now, v.tide.phase⟩
      | none => v)) q.at_.chan)) ∧
  (∀ (k : Nat) (x : Chan) (u v s : State), Flash.chan s.flash k = some x → flashRuns s = true →
    u = (if streamDue s x .log then { s with flash := Flash.startProgram s.flash k .log } else s) →
    v = (if streamDue s x .data then { u with flash := Flash.startProgram u.flash k .data } else u) →
    exec (.writeFlushTimer k) s = .next (if streamDue s x .copy then { v with flash := Flash.startProgram v.flash k .copy } else v)) ∧
  (∀ (k b : Nat) (p : Program) (s : State), (s.flash.programs.find? fun p => p.chan == k && p.block == b) = some p → flashRuns s = true → blockGone s k b = false →
    exec (.flashProgramDone k b true) s = .next (Flash.settleChan (settleDurable (settleKeys (Berth.settleAnswers (settleOwed (growMap (Flash.programOk s p)))))) k)) ∧
  (∀ (k b : Nat) (o : Bool) (p : Program) (s : State), (s.flash.programs.find? fun p => p.chan == k && p.block == b) = some p → flashRuns s = true → (o = false ∨ blockGone s k b = true) →
    exec (.flashProgramDone k b o) s = .next (Flash.settleChan (settleDurable (Flash.programFail s p)) k)) ∧
  (∀ (k n : Nat) (x : Chan) (b : Block) (s : State), Flash.chan s.flash k = some x → Flash.block s.flash k n = some b → flashRuns s = true → mayErase s x b = true →
    exec (.blockErase k n) s = .next { s with flash := { (Flash.mapBlock s.flash k n fun b => { b with stage := .erasing }) with
      erases := (Flash.mapBlock s.flash k n fun b => { b with stage := .erasing }).erases ++ [⟨k, n, 0⟩] } }) ∧
  (∀ (k n : Nat) (o : Bool) (u : State) (s : State), flashRuns s = true → (s.flash.erases.any fun e => e.chan == k && e.block == n) = true →
    u = { s with flash := { s.flash with erases := s.flash.erases.filter fun e => !(e.chan == k && e.block == n) } } →
    ((Flash.block u.flash k n).any fun b => b.stage == .retired) = false →
    exec (.eraseDone k n o) s = .next (Flash.settleChan (if o = true then
      { u with flash := Flash.mapBlock u.flash k n fun b => { b with
        stage := .free, erases := b.erases + 1, reads := 0, fails := 0, flushedCws := 0, marked := false, cws := [] } }
      else Flash.retire (u.bump Ent.eraseFailures) k n) k))

/-- Journal flushes, the rebuild and housekeeping complete. A flush that is due, or that a node entering Neap still needs, takes the map of its
boundary, opens the next epoch and sets the next flush JournalFlushTides later; its end, once its codewords are durable, makes that epoch and map
durable and releases the log entries whose records are gone. REBUILD_DONE, once the tags and what the rebuild reads of the items have been read, takes
the item records that it found, keeps the directory and change-log entries that were read, makes flash ready, takes the values of region 5, and starts
the copies of the shoals that the maps give this node. A housekeeping window opens for HousekeepLength Tides, with a job for each channel, and closes
at its end; urgent collection starts on a channel short of free blocks outside a window; a block with data that was read twice its limit is relocated
(R112, R247, R488, R489, R495, R496, R497, R499, R509) -/
def Obligations.CuratorEventsComplete : Prop :=
  (∀ (s : State), flashRuns s = true → s.num Ent.flashReady = 1 → s.flash.flush = none → (s.flash.flushDue ≤ s.now ∨ neapFlushDue s = true) →
    ∃ t f, exec .journalFlush s = .next t ∧ t.flash.flush = some f ∧ f.boundary = s.now ∧ f.map = s.flash.map ∧ f.epoch = s.flash.epoch ∧ t.flash.epoch = s.flash.epoch + 1 ∧
      t.flash.flushDue = s.now + s.cfg Ent.journalFlushTides) ∧
  (∀ (f : Flush) (d : List LogEntry) (u s : State), s.flash.flush = some f → flashRuns s = true → Flash.flushDurable s.flash f = true → u = { s with flash := Flash.endFlush s.flash f } →
    d = u.idx.changeLog.filter (logFree u) → exec .journalFlushDone s = .next { u with
      idx := { u.idx with changeLog := (u.idx.changeLog.filter fun e => !d.contains e) }, flash := Flash.unmapAll u.flash (d.map LogEntry.codeword) }) ∧
  (∀ (f : Flush) (s : State), s.flash.flush = some f → flashRuns s = true → Flash.flushDurable s.flash f = true →
    ∃ t, exec .journalFlushDone s = .next t ∧ t.flash.flush = none ∧ t.flash.flushed = f.map ∧ t.flash.lastFlush = f.boundary ∧ t.flash.durable = f.epoch + 1) ∧
  (∀ (r : Nat → Bool) (u v w x s : State), flashRuns s = true → s.flash.rebuild = .records → Flash.scanning s.flash = false →
    r = (fun l => ((s.flash.map.lookup l).bind (Flash.scanOf s.flash)).isSome) →
    u = { s with idx := { s.idx with records := (scanRecords s).map FoundRec.item, found := scanRecords s, directory := (s.idx.directory.filter fun e => r e.codeword), changeLog := (s.idx.changeLog.filter fun e => r e.codeword) } } →
    v = { u with flash := { Flash.forgetScans u.flash with rebuild := .none } }.setNum Ent.flashReady 1 →
    w = adoptRegion5 (v.berth.homes.foldl (fun s h => (Berth.recordPage s h.num).getD s) v) → w.mgmt = true →
    x = ((List.range 256).filter fun c => (coldCopies w).collState c == 2 || (coldCopies w).collState c == 3).foldl dropStrayShoals (coldCopies w) →
    exec .rebuildDone s = .next ((x.idx.copies.filter fun (p : ShoalCopy) => p.cold).foldl askFill x)) ∧
  (∀ (b : BootCopy) (s : State), flashRuns s = true → s.flash.rebuild = .records → Flash.scanning s.flash = false → bootChoice s.cat = some b → s.cat.region5 = [] →
    s.berth.homes = [] → (∀ c, c < 256 → s.collState c ≠ 2 ∧ s.collState c ≠ 3) → s.idx.copies = [] →
    ∃ t, exec .rebuildDone s = .next t ∧ t.num Ent.flashReady = 1 ∧ t.flash.rebuild = .none ∧ t.flash.map = s.flash.map) ∧
  (∀ (s : State), housekeeps s = true → housekeepingOpens s = true → s.flash.windowEnd ≤ s.now →
    exec .housekeepingWindowOpen s = .next ((s.flash.chans.map (·.num)).foldl Flash.nextJob { s with flash := { s.flash with windowEnd := s.now + s.cfg Ent.housekeepLength } })) ∧
  (∀ (s : State), s.flash.windowEnd ≠ 0 → s.flash.windowEnd ≤ s.now → exec .housekeepingWindowClose s = .next ({ s with flash := { s.flash with windowEnd := 0 } })) ∧
  (∀ (k : Nat) (x : Chan) (s : State), Flash.chan s.flash k = some x → housekeeps s = true → s.flash.windowEnd ≤ s.now → Flash.freeBlocks s.flash x < s.cfg Ent.gcUrgentBlocks →
    s.flash.urgent.contains k = false → exec (.urgentGc k) s = .next (Flash.nextJob { s with flash := { s.flash with urgent := s.flash.urgent ++ [k], urgentTide := true } } k)) ∧
  (∀ (k n : Nat) (b : Block) (s : State), Flash.block s.flash k n = some b → housekeeps s = true → (b.stage = .closed ∨ b.stage = .open_) → 2 * s.cfg Ent.readDisturbLimit ≤ b.reads →
    exec (.urgentRelocation k n) s = .next ({ s with flash := Flash.relocate s.flash k n true }))

/-- Reset sources, the release point, domain releases and the boot complete. Power-on asserts a cold reset of source 1 with nothing released. RESET_N
low asserts source 2; its rise is seen. An undervoltage and a stopped clock assert the power-on reset. The watchdog asserts a warm reset of source 3.
An accepted request is asserted at a later boundary. The release point takes the cause out of assertion and lists the domains to release in order.
DOMAIN_RELEASE releases the first that the pause allows. The firmware image starts. The test port takes its instruction. (R618, R619, R621, R622,
R627, R642, R643, R650) -/
def Obligations.ResetCommandsComplete : Prop :=
  (∀ (a b : Bool) (s : State), ∃ t, exec (.powerOn a b) s = .next t ∧ t.rst.asserted = some ⟨1, 0, 0, 0, 0, 0⟩ ∧ t.rst.running = none ∧ t.rst.toRelease = [] ∧ t.rst.railsGood = true ∧ t.rst.thermTrip = false) ∧
  (∀ (s : State), exec .resetNLow s = .next ({ assertReset s ⟨2, 0, 0, 0, 0, 0⟩ with rst := { (assertReset s ⟨2, 0, 0, 0, 0, 0⟩).rst with resetN := false } })) ∧
  (∀ (s : State), s.rst.resetN = false → ∃ t, exec .resetNRise s = .next t ∧ t.rst.resetN = true ∧ (s.rst.tap = .extest → t.rst.tap = .bypass) ∧ (s.rst.tap = .idcode → t.rst.tap = .idcode) ∧ t.tide = s.tide ∧ t.cat = s.cat) ∧
  (∀ (r : Nat) (s : State), ∃ t, exec (.railUndervoltage r) s = .next t ∧ t.rst.asserted = some ⟨1, 0, 0, 0, 0, 0⟩ ∧ t.rst.railsGood = false ∧ (r = 6 → t.rst.thermTrip = false)) ∧
  (∀ (s : State), ∃ t, exec .clockStop s = .next t ∧ t.rst.asserted = some ⟨1, 0, 0, 0, 0, 0⟩ ∧ t.rst.running = none ∧ t.rst.toRelease = []) ∧
  (∀ (s : State), s.mgmt = true → exec .watchdogExpiry s = .next (assertReset s ⟨3, 1, 0, 0, 0, 0⟩)) ∧
  (∀ (k : Cause) (s : State), s.rst.requested = some k → s.mgmt = true → k.tide ≠ s.now → exec .resetAssert s = .next (assertReset { s with rst := { s.rst with requested := none } } k)) ∧
  (∀ (n : Nat) (k : Cause) (s : State), s.rst.asserted = some k → s.rst.resetN = true → k.level ≠ 3 → ∃ t, exec (.releasePoint n) s = .next t ∧ t.rst.asserted = none ∧ t.rst.running = some k ∧ t.rst.toRelease = [1, 2, 3, 4, 5, 6, 7, 8, 9].filter (fun d => !s.rst.released.contains d)) ∧
  (∀ (a : Bool) (d : Nat) (u : State) (s : State), s.rst.asserted = none → s.rst.toRelease.find? (mayRelease s) = some d → u = releaseWork { s with rst := { s.rst with toRelease := s.rst.toRelease.filter (· != d), released := s.rst.released ++ [d] } } d a → exec (.domainRelease a) s = .next (if u.rst.toRelease.isEmpty then { u with rst := { u.rst with running := none } } else u)) ∧
  (∀ (s : State), s.rst.romStarting = true → ∃ t, exec .firmwareImageStarted s = .next t ∧ t.rst.romStarting = false ∧ t.rst.pause = .none ∧ t.tide = s.tide ∧ t.key = s.key) ∧
  (∀ (x : Tap) (s : State), s.rst.resetN = false → exec (.tapInstruction x) s = .next ({ s with rst := { s.rst with tap := x } })) ∧
  (∀ (k : Nat) (s : State), s.mgmt = true → s.rst.quiescing.contains k = true → blockIdle s k = true → exec (.blockQuiesced k) s = .next ({ s with rst := { s.rst with quiescing := s.rst.quiescing.filter (· != k), quiesced := s.rst.quiesced ++ [k] } })) ∧
  (∀ (l : List Nat) (s : State), s.up 1 = true → (∀ i, i < 6 → l.getD i 0 < 95) → s.rst.hot = false → ∃ t, exec (.junctionSensorRead l) s = .next t ∧ t.rst.hot = false ∧ t.rst.thermTrip = s.rst.thermTrip ∧ t.rst.asserted = s.rst.asserted ∧ t.tide = s.tide ∧ t.nb = s.nb)

/-- Errors, tests, drains, Neap, margins and the generator complete. An error event is detected and keys lost to it are destroyed. A finished test
that is the first of its parent is concluded as it passed or failed, and so is the block whose test it is. An escalated test that is the first of its
parent is counted, its unit is treated as faulty without spares, the next test of its parent begins, and a reset of its block, or of the node, is
asserted. A drain at its limit ends its function. A node that may power off enters Neap and one whose exit is done is Active. An idle cluster enters
Slack. A current sample joins the last 100, PackagePowerW is their average, and the node counts as throttled where that is above the limit or its
near-bank duty is lowered. A margin sample shows the rails, keeps the greatest droop of each rail and the least slack of each cluster, and low slack
is noted and raises the margin; the end of a period publishes what was kept and begins anew. The powers of the modules are shown and their lanes are
polled. A failed health test stops the generator, a passed start-up makes it healthy and a failed one stops it. A straggler mark whose time has come
goes (R25, R567, R573, R576, R584, R585, R586, R594, R600, R630, R633, R635) -/
def Obligations.FaultAndPowerCommandsComplete : Prop :=
  (∀ (x : Sys2Proof.ErrorReport) (s : State), s.mgmt = true → exec (.errorEvent x) s = .next (destroyBadKeys (detect s x))) ∧
  (∀ (u p n : Nat) (b : Bool) (x : Test) (s : State), (s.rel.tests.find? fun t => t.unit == u && t.place == p) = some x → s.mgmt = true → firstOfParent s x = true → exec (.selfTestDone u p n b) s = .next (destroyBadKeys (blockTested (endTest s x n b) x b))) ∧
  (∀ (u p : Nat) (x : Test) (v w : State) (s : State), (s.rel.tests.find? fun t => t.unit == u && t.place == p) = some x → s.mgmt = true → firstOfParent s x = true →
    v = destroyBadKeys (withoutSpares ((rowPassed (freeDieBlock (dropTest s x) x) x).bump Ent.escalations) u p fun s => noteLasting s u p none false x.events) →
    w = beginNext (v.rel.tests.length + 1) v (parentOf x.unit) →
    exec (.selfTestEscalation u p) s = .next (assertReset w (match escalatedBlock u p with
      | some b => ⟨7, 3, 0, b, 0, 0⟩
      | none => ⟨7, 1, 0, 0, 0, 0⟩))) ∧
  (∀ (b : Nat) (s : State), s.mgmt = true → exec (.drainLimit b) s = .next (drainBit s b)) ∧
  (∀ (s : State), s.mgmt = true → neapReady s = true → exec .neapPowerOff s = .next (enterNeap s)) ∧
  (∀ (s : State), s.mgmt = true → s.rst.powerState = 3 → s.rst.toRelease = [] → s.rst.neapFrom < s.now → exec .neapExitDone s = .next (serveHeld { s with rst := { s.rst with powerState := 0 } })) ∧
  (∀ (k : Nat) (s : State), k < 32 → s.up 7 = true → s.coh.busy = [] → s.rel.deadClusters.contains k = false → s.rst.slack.contains k = false → exec (.slackEntry k) s = .next ({ s with rst := { s.rst with slack := s.rst.slack ++ [k] } })) ∧
  (∀ (w : Nat) (l : List Nat) (s : State), s.mgmt = true → ∃ t, exec (.railCurrentSample w l) s = .next t ∧ t.tide = s.tide ∧
    t.pwr.samples = (s.pwr.samples ++ [w]).drop ((s.pwr.samples ++ [w]).length - 100) ∧ t.num Ent.packagePowerW = u16 (averagePower { s.pwr with samples := t.pwr.samples }) ∧
    (s.cfg Ent.packageLimitW * t.pwr.samples.length < t.pwr.samples.sum → t.pwr.throttled = true) ∧ (t.nb.duty < 16 → t.pwr.throttled = true)) ∧
  (∀ (a b low : List Nat) (f : Bool) (u v s : State), s.mgmt = true → u = s.setVal Ent.railMv (.b ((List.range 7).flatMap fun i => leBytes 2 (u16 (a.getD i 0)))) →
    v = { u with rel := { u.rel with droop := ((List.range 7).map fun i => max (u.rel.droop.getD i 0) ((railNominal u).getD i 0 - a.getD i 0)), slack := ((List.range 32).map fun c => leastSlack u.rel.slack[c]? (b.getD c 0 % 65536)) } } →
    low = ((List.range 32).filter fun c => v.up 7 && !v.rel.deadClusters.contains c && (match b[c]? with
      | some x => decide (slackPs (x % 65536) < v.cfg Ent.slackLimitPs)
      | none => false)) →
    exec (.marginSample a b f) s = .next (if low = [] then v else raiseMargin (low.foldl (fun s c => noteLowSlack s c (b.getD c 0 % 65536)) v) f)) ∧
  (∀ (u s : State), s.mgmt = true → s.rel.marginFrom + s.cfg Ent.marginPeriod ≤ s.now →
    u = (s.setVal Ent.railDroopMv (.b ((List.range 7).flatMap fun i => leBytes 2 (u16 (s.rel.droop.getD i 0))))).setVal Ent.clusterSlackPs
      (.b ((List.range 32).flatMap fun c => leBytes 2 (s.rel.slack.getD c 0))) →
    exec .marginPeriod s = .next { u with rel := { u.rel with droop := [], slack := [], logged := [], marginFrom := s.now } }) ∧
  (∀ (l : List CmisPort) (s : State), s.mgmt = true → s.up 4 = true → exec (.cmisPoll l) s = .next ((l.filter fun x => decide (x.port < 6)).foldl (fun s x => (List.range 9).foldl (fun s l => pollLane s x l) s)
      ((s.setVal Ent.opticalRxUw (.b (opticalBytes l (·.rx)))).setVal Ent.opticalTxUw (.b (opticalBytes l (·.tx)))))) ∧
  (∀ (s : State), s.up 2 = true → ∃ t, exec .trngHealthFail s = .next t ∧ t.sec.trng = 2 ∧ t.num Ent.trngFailures = s.num Ent.trngFailures + 1) ∧
  (∀ (o : Bool) (s : State), s.up 2 = true → s.sec.trng ≠ 1 → exec (.trngStartupDone o) s = .next (if o = true then { s with sec := { s.sec with trng := 1 } } else trngFails s)) ∧
  (∀ (n : Nat) (s : State), ∃ t, exec (.stragglerHoldExpiry n) s = .next t ∧ (∀ x, x ∈ t.qry.stragglers ↔ x ∈ s.qry.stragglers ∧ ¬ (x.1 = n ∧ x.2 ≤ s.now)) ∧ t.tide = s.tide)

/-- A Tide field expands to the one count near the current Tide. For a current Tide now of at least 8190 and every field f below 8192: expandTide now f
lies in the range now - 8190 to now + 1, its low 13 bits are f, and it is the only count in that range whose low 13 bits are f. (R84) -/
def Obligations.TideFieldExpands : Prop :=
  ∀ now f : Nat, 8190 ≤ now → f < 8192 →
    (now - 8190 ≤ expandTide now f ∧ expandTide now f ≤ now + 1 ∧ expandTide now f % 8192 = f) ∧
    ∀ t, now - 8190 ≤ t → t ≤ now + 1 → t % 8192 = f → t = expandTide now f

/-- A write of a value outside its range is refused and the previous value stays. For every entry of the Catalogue that is not write-only, and every
value of the type of the entry that lies outside the range in its Meaning: writing the value answers a status other than OK and leaves the state as it
was, whatever the path, the type code of the request and the apply Tide. (R511, R63, R538, R637) -/
def Obligations.OutOfRangeWritesAreRefused : Prop :=
  ∀ (s : State) (p : Path) (i sub tc apply : Nat) (b : Bytes) (e : Entry) (v : Val), entryAt i sub = some e → e.acc ≠ .wo →
    typedVal e (i * 256 + sub) b = some v → inRange s e v = false →
    ∃ st n, writeEntry s p i sub tc apply b = (st, n, s) ∧ st ≠ St.ok

/-- LOCK with Force on the Strand mirror breaks a lock held by another. Where a lock is held by another session and a LOCK with Force arrives: on the
Strand mirror it answers OK, the requester holds the lock with a new lease, LockForceBreaks has counted one more, and no session of the previous
holder has a staged segment left. On another path it is refused and nothing changes, and the status is ACCESS_DENIED where no other refusal ranks
above it (no lock is held). (16_catalogue.md R560, R562) -/
def Obligations.ForceBreaksTheLock : Prop :=
  ∀ (s : State) (r : CapReq), r.forceFlag = true →
    (∀ w id e, r.onStrand = true → s.cap.lock = some (w, id, e) → holdsLock s r.who r.sid = false →
      ∃ t, capLock s r = (.plain St.ok 0, t) ∧ t.cap.lock = some (r.who, r.sid, s.now + s.cfg Ent.lockLeaseTides) ∧
        t.num Ent.lockForceBreaks = s.num Ent.lockForceBreaks + 1 ∧
        (∀ x ∈ t.cap.sessions, x.who = w → x.id = id → x.staged = none)) ∧
    (r.onStrand = false → ∃ st n, capLock s r = (.plain st n, s) ∧ st ≠ St.ok ∧ (s.cap.lock = none → st = St.accessDenied))

/-- The node order: descending Key, then ascending Index. For every two entries, the select engine ranks the first before the second exactly where its
Key is greater, or the Keys are equal and its Index is less. (R164) -/
def Obligations.SelectOrder : Prop :=
  ∀ a b : SelEntry, a.before b = true ↔ (b.key < a.key ∨ (a.key = b.key ∧ a.index < b.index))

/-- The select engine selects the min(K, v) valid entries that rank first. For every input and K: as many entries are selected as K and the number of
valid entries allow, each is a valid entry of the input, they stand in node order, and no valid entry of the input that was not selected ranks before
one that was. (05_selection.md R164, R167) -/
def Obligations.SelectTakesTheBest : Prop :=
  ∀ (m : Bool) (k : Nat) (l : List SelEntry),
    (selectTop m k l).1.length = min k (l.filter SelEntry.valid).length ∧
    (∀ e ∈ (selectTop m k l).1, e ∈ l ∧ e.valid = true) ∧
    (selectTop m k l).1.Pairwise (fun a b => b.before a = false) ∧
    (∀ e ∈ l, e.valid = true → e ∉ (selectTop m k l).1 → ∀ x ∈ (selectTop m k l).1, e.before x = false)

/-- The Tide count never decreases while the Tide unit runs, resets apart. For every state in which the Tide unit runs and every command that is of the
Tide family or cannot change the Tide unit (that is, every command but the reset sources, the asserts, the junction sensor, a test escalation and the
end of the rebuild): if exec answers next t, the count of t is at least that of s. A boundary adds one, a relock moves forward, and no other command
moves the count. (02_tide.md R34, R41, R43, R50 to R53) -/
def Obligations.TideCountNeverDecreases : Prop :=
  ∀ (c : Instr) (s t : State), s.tide.running = true → (familyOf c = .tide ∨ UnitName.tide ∉ mayChange c) → exec c s = .next t →
    s.tide.count ≤ t.tide.count

/-- An edge outside the window is ignored and counted in GlitchEdges. On a follower that is Locked, or Acquiring with a count, an edge outside the
window leaves count, phase, state and the runs of missed and good edges as they were, and GlitchEdges counts one more. (02_tide.md R50) -/
def Obligations.EdgesOutsideTheWindowAreIgnored : Prop :=
  ∀ (i : Nat) (f : Option Nat) (s : State), follows s = true → (s.tide.state = .locked ∨ (s.tide.state = .acquiring ∧ s.tide.count ≠ 0)) →
    s.tide.inWindow (s.tide.elapsed i) = false →
    ∃ t, exec (.tideInEdge i f) s = .next t ∧ t.tide.count = s.tide.count ∧ t.tide.phase = s.tide.phase ∧ t.tide.overrun = s.tide.overrun ∧
      t.tide.state = s.tide.state ∧ t.tide.missedRun = s.tide.missedRun ∧ t.tide.goodRun = s.tide.goodRun ∧
      t.num Ent.glitchEdges = s.num Ent.glitchEdges + 1

/-- Missed edges lead from Locked to Holdover to Adrift. On a follower with a count, a missed edge makes the boundary with one more missed edge in a
row. The state then is: from Locked, Holdover once HoldoverEdges edges in a row were missed; from Holdover, Adrift once AdriftEdges were; from Adrift
and Acquiring, as it was; after a count conflict, as it was. (02_tide.md R50 (table of Tide states), R54, HoldoverEdges, AdriftEdges) -/
def Obligations.MissedEdgesLeadToHoldoverAndAdrift : Prop :=
  ∀ s : State, follows s = true → s.tide.count ≠ 0 →
    ∃ t, exec .missedEdge s = .next t ∧ t.tide.count = s.tide.count + 1 ∧
      (s.tide.conflictFault = true → t.tide.state = s.tide.state) ∧
      (s.tide.conflictFault = false → s.tide.state = .locked → t.tide.state = if s.cfg Ent.holdoverEdges ≤ s.tide.missedRun + 1 then .holdover else .locked) ∧
      (s.tide.conflictFault = false → s.tide.state = .holdover → t.tide.state = if s.cfg Ent.adriftEdges ≤ s.tide.missedRun + 1 then .adrift else .holdover) ∧
      (s.tide.state = .adrift → t.tide.state = .adrift) ∧ (s.tide.state = .acquiring → t.tide.state = .acquiring)

/-- Every command completes. For every command and every state: if the ranges of memory that the command itself names lie in the memory map (only
CACHE_READ, READ_OWN, UPGRADE, WRITE_LINE, READ_ONCE, CACHE_ATOMIC, FIRMWARE_WRITEBACK, FIRMWARE_INVALIDATE and NB_SEQUENCE_ISSUE name any), exec
answers a next state with the queue as it was: no command ends in a fault or a refusal, whatever the state and its other operands. (08_memory_tiers.md
R249, 09_near_bank.md R293, 12_coherence.md R402, R403, R408, R418) -/
def Obligations.EveryCommandCompletes : Prop :=
  ∀ (c : Instr) (s : State), (∀ p ∈ namedRanges c, validRange p.1 p.2 = true) → ∃ t, exec c s = .next t ∧ t.pending = s.pending

/-- A stored line is a codeword of RS(72,66) with its layout. For every line number, owner and state, and 64 bytes of data: its 72 bytes are the 64
data bytes as stored, the metadata word with the lower byte first, and 6 check bytes, and its six syndromes are 0. The 72 bytes of a Free line are
zeros. A line whose cells hold no erroneous byte is checked as it was stored, and a codeword of a reserved line state is uncorrectable.
(08_memory_tiers.md R251, R252, R253, R254) -/
def Obligations.StoredLinesAreCodewords : Prop :=
  (∀ (s : State) (n : Nat) (t : Option (Nat × Bool)) (b : Bytes), (lineWord s n t b).length = 72 ∧
    (lineWord s n t b).take 66 = (lineCipher s n t b ++ leBytes 2 (metaWord t)).map (·.toNat) ∧
    ∀ j, j < 6 → Ecc.syndrome (lineWord s n t b) j = 0) ∧
  (∀ (s : State) (n : Nat) (b : Bytes), lineWord s n none b = List.replicate 72 0) ∧
  (∀ (s : State) (n : Nat), s.mem.cellErrors.lookup n = none → checkLine s n = .same) ∧
  (∀ (s : State) (n : Nat) (w : List Nat), 3 * 4096 ≤ w.getD 64 0 + 256 * w.getD 65 0 → readWord s n w = .uncorrectable)

/-- Multi-byte numbers are little-endian. For every width n and number v: the bytes of v are n bytes, byte i holds bits 8i + 7 to 8i of v, and reading
them gives v modulo 256 to the n; and reading n bytes always gives a number below 256 to the n. (00_scope.md R5) -/
def Obligations.NumbersAreLittleEndian : Prop :=
  (∀ n v : Nat, (leBytes n v).length = n ∧ leNat (leBytes n v) = v % 256 ^ n ∧
    ∀ i, i < n → (leBytes n v).getD i 0 = BitVec.ofNat 8 (v / 256 ^ i)) ∧
  ∀ b : Bytes, leNat b < 256 ^ b.length ∧ leBytes b.length (leNat b) = b

/-- The node physical address space holds eight stacks and four shelves and nothing else. An address holds memory exactly where it lies in stack s for
an s of 0 to 7 (from s times 0x14_0000_0000, that many bytes) or in the shelf of search die d for a d of 0 to 3 (from 0x0100_0000_0000 plus d times
0x1_0000_0000, that many bytes). (R249) -/
def Obligations.MemoryMapIsStacksAndShelves : Prop :=
  ∀ a : Nat, validAddr a = true ↔
    (∃ s, s < 8 ∧ s * 0x1400000000 ≤ a ∧ a ≤ s * 0x1400000000 + 0x13FFFFFFFF) ∨
    (∃ d, d < 4 ∧ 0x010000000000 + d * 0x100000000 ≤ a ∧ a ≤ 0x010000000000 + d * 0x100000000 + 0xFFFFFFFF)

/-- A write of an agent stores its bytes and leaves every other byte alone. In canonical memory, where a write of an owner at an address is taken and
no earlier request to a line of the range waits: each byte of the range then reads as written. Every byte outside the range whose line a slice may
evict without loss reads as before, where its line is not written at all or has an owner; in a line that was Free, bytes beside the range read 0. Of a
line in the destination of a page that moves, to which a store to the source also goes, nothing is said. (08_memory_tiers.md R257, R274,
12_coherence.md R402, R403, R404, R406) -/
def Obligations.AgentWriteStoresItsBytes : Prop :=
  ∀ (s : State) (w a : Nat) (d : Bytes), MemOk s → (∀ q ∈ s.coh.busy, q.req.line ∉ lines a d.length) → (agentWrite s w a d).1 = St.ok →
    (∀ i, i < d.length → (∀ n ∈ lines a d.length, mirrorOf s n ≠ some (lineOf (a + i))) →
      byteSeen (agentWrite s w a d).2 (a + i) = d.getD i 0) ∧
    (∀ b, (b < a ∨ a + d.length ≤ b) → evictKeeps s (lineOf b) → (∀ n ∈ lines a d.length, mirrorOf s n ≠ some (lineOf b)) →
      ((lineOf b ∉ lines a d.length ∨ (Coh.supply s (lineOf b)).2 ≠ none) → byteSeen (agentWrite s w a d).2 b = byteSeen s b) ∧
      (lineOf b ∈ lines a d.length → (Coh.supply s (lineOf b)).2 = none → byteSeen (agentWrite s w a d).2 b = 0))

/-- A host write to an HDM line in memory stores its 64 bytes and nothing else. Where memory is canonical, the link is up, the line lies in the
committed HDM range, the node is neither in Neap nor leaving it, the key of the range is live, the page lies in memory at the line address a, no
earlier request to the line waits and the line takes the write: the command completes, the 64 bytes at a read as written, every byte of every other
line that a slice may evict without loss reads as before (of the line in the destination of a page that moves, to which the store also goes, nothing
is said), and the host gets its completion. (08_memory_tiers.md R267, R274, 12_coherence.md R403, R404, 15_host_interface.md R527) -/
def Obligations.HostWriteStoresTheLine : Prop :=
  ∀ (p a : Nat) (d : Bytes) (s : State), MemOk s → s.host.linkUp = true → inHdm s (hostLine p) 64 = true → inNeap s = false → s.rst.powerState ≠ 3 →
    hdmDead s = false → hdmAddr s (hostLine p) = some a → a % 64 = 0 → (agentWrite s (hdmOwner s) a (padTo 64 d)).1 = St.ok →
    mirrorOf s (lineOf a) ≠ some (lineOf a) → (∀ q ∈ s.coh.busy, q.req.line ≠ lineOf a) →
    ∃ t, exec (.hostMemWrite p d) s = .next t ∧ (∀ i, i < 64 → byteSeen t (a + i) = (padTo 64 d).getD i 0) ∧
      (∀ b, lineOf b ≠ lineOf a → evictKeeps s (lineOf b) → mirrorOf s (lineOf a) ≠ some (lineOf b) → byteSeen t b = byteSeen s b) ∧
      t.out = s.out ++ [.memDone (hostLine p)]
end

