-- ==== Sys2Proof/Laws/Frame.lean ====
section
/-! SUPPORT. What it is for a function to leave units of the state as they are: one name for each set of units; and the
units of a state that a conditional or a fold builds.
A frame lemma is a conjunction over units. It is cited in a simp set as `f_frame ..`: applied so, simp takes its conjuncts
from the one lemma, where the bare name makes an auxiliary theorem of the file out of each. -/

namespace Sys2Proof.Machine

@[simp] theorem ite_fst {a b : Type} (c : Prop) [Decidable c] (x y : a × b) :
    (if c then x else y).1 = if c then x.1 else y.1 := apply_ite _ _ _ _

@[simp] theorem ite_snd {a b : Type} (c : Prop) [Decidable c] (x y : a × b) :
    (if c then x else y).2 = if c then x.2 else y.2 := apply_ite _ _ _ _

theorem foldl_keeps {b : Type} {R : State → State → Prop} {g : State → b → State} {l : List b} {s : State}
    (hr : ∀ s, R s s) (ht : ∀ x y z, R x y → R y z → R x z) (h : ∀ s x, R s (g s x)) : R s (l.foldl g s) := by
  induction l generalizing s with
  | nil => exact hr _
  | cons x l ih => exact ht _ _ _ (h s x) ih

theorem foldl_keeps_of {a b : Type} {R : State → State → Prop} {g : a → b → a} (st : a → State) {l : List b} {x : a}
    (hr : ∀ s, R s s) (ht : ∀ x y z, R x y → R y z → R x z) (h : ∀ x y, R (st x) (st (g x y))) : R (st x) (st (l.foldl g x)) := by
  induction l generalizing x with
  | nil => exact hr _
  | cons y l ih => exact ht _ _ _ (h x y) ih

theorem ite_keeps {R : State → State → Prop} {c : Prop} [Decidable c] {s x y : State} (hx : R s x) (hy : R s y) :
    R s (if c then x else y) := by
  split
  · exact hx
  · exact hy

theorem getD_keeps {R : State → State → Prop} {o : Option State} {s d : State} (h : ∀ t, o = some t → R s t) (hd : R s d) :
    R s (o.getD d) := by
  cases o with
  | none => exact hd
  | some t => exact h t rfl

theorem foldl_some_keeps {b : Type} {R : State → State → Prop} {f : State → b → Option State} {l : List b} {s t : State}
    (hr : ∀ s, R s s) (ht : ∀ x y z, R x y → R y z → R x z) (h : ∀ s x t, f s x = some t → R s t)
    (e : l.foldl (fun acc x => acc.bind fun s => f s x) (some s) = some t) : R s t := by
  induction l generalizing s with
  | nil => cases e; exact hr _
  | cons x l ih =>
    rw [List.foldl_cons, Option.bind_some] at e
    cases hf : f s x with
    | none =>
      rw [hf] at e
      have hn : ∀ l : List b, l.foldl (fun acc x => acc.bind fun s => f s x) none = none := by
        intro l
        induction l with
        | nil => rfl
        | cons y l ih => exact ih
      rw [hn] at e
      cases e
    | some u =>
      rw [hf] at e
      exact ht _ _ _ (h s x u hf) (ih e)

@[simp] theorem ite_pending (c : Prop) [Decidable c] (x y : State) :
    (if c then x else y).pending = if c then x.pending else y.pending := apply_ite _ _ _ _

@[simp] theorem foldl_pending {b : Type} (g : State → b → State) (l : List b) (s : State)
    (h : ∀ s x, (g s x).pending = s.pending) : (l.foldl g s).pending = s.pending := by
  induction l generalizing s with
  | nil => rfl
  | cons x l ih => rw [List.foldl_cons, ih, h]

@[simp] theorem foldl2_pending {a b : Type} (g : a × State → b → a × State) (l : List b) (s : a × State)
    (h : ∀ s x, (g s x).2.pending = s.2.pending) : (l.foldl g s).2.pending = s.2.pending := by
  induction l generalizing s with
  | nil => rfl
  | cons x l ih => rw [List.foldl_cons, ih, h]

@[simp] theorem foldl3_pending {a c b : Type} (g : a × c × State → b → a × c × State) (l : List b) (s : a × c × State)
    (h : ∀ s x, (g s x).2.2.pending = s.2.2.pending) : (l.foldl g s).2.2.pending = s.2.2.pending := by
  induction l generalizing s with
  | nil => rfl
  | cons x l ih => rw [List.foldl_cons, ih, h]

@[simp] theorem ite_out (c : Prop) [Decidable c] (x y : State) :
    (if c then x else y).out = if c then x.out else y.out := apply_ite _ _ _ _

@[simp] theorem foldl_out {b : Type} (g : State → b → State) (l : List b) (s : State)
    (h : ∀ s x, (g s x).out = s.out) : (l.foldl g s).out = s.out := by
  induction l generalizing s with
  | nil => rfl
  | cons x l ih => rw [List.foldl_cons, ih, h]

@[simp] theorem foldl2_out {a b : Type} (g : a × State → b → a × State) (l : List b) (s : a × State)
    (h : ∀ s x, (g s x).2.out = s.2.out) : (l.foldl g s).2.out = s.2.out := by
  induction l generalizing s with
  | nil => rfl
  | cons x l ih => rw [List.foldl_cons, ih, h]

@[simp] theorem foldl3_out {a c b : Type} (g : a × c × State → b → a × c × State) (l : List b) (s : a × c × State)
    (h : ∀ s x, (g s x).2.2.out = s.2.2.out) : (l.foldl g s).2.2.out = s.2.2.out := by
  induction l generalizing s with
  | nil => rfl
  | cons x l ih => rw [List.foldl_cons, ih, h]

@[simp] theorem ite_free (c : Prop) [Decidable c] (x y : State) :
    (if c then x else y).free = if c then x.free else y.free := apply_ite _ _ _ _

@[simp] theorem foldl_free {b : Type} (g : State → b → State) (l : List b) (s : State)
    (h : ∀ s x, (g s x).free = s.free) : (l.foldl g s).free = s.free := by
  induction l generalizing s with
  | nil => rfl
  | cons x l ih => rw [List.foldl_cons, ih, h]

@[simp] theorem foldl2_free {a b : Type} (g : a × State → b → a × State) (l : List b) (s : a × State)
    (h : ∀ s x, (g s x).2.free = s.2.free) : (l.foldl g s).2.free = s.2.free := by
  induction l generalizing s with
  | nil => rfl
  | cons x l ih => rw [List.foldl_cons, ih, h]

@[simp] theorem foldl3_free {a c b : Type} (g : a × c × State → b → a × c × State) (l : List b) (s : a × c × State)
    (h : ∀ s x, (g s x).2.2.free = s.2.2.free) : (l.foldl g s).2.2.free = s.2.2.free := by
  induction l generalizing s with
  | nil => rfl
  | cons x l ih => rw [List.foldl_cons, ih, h]

@[simp] theorem ite_tide (c : Prop) [Decidable c] (x y : State) :
    (if c then x else y).tide = if c then x.tide else y.tide := apply_ite _ _ _ _

@[simp] theorem foldl_tide {b : Type} (g : State → b → State) (l : List b) (s : State)
    (h : ∀ s x, (g s x).tide = s.tide) : (l.foldl g s).tide = s.tide := by
  induction l generalizing s with
  | nil => rfl
  | cons x l ih => rw [List.foldl_cons, ih, h]

@[simp] theorem foldl2_tide {a b : Type} (g : a × State → b → a × State) (l : List b) (s : a × State)
    (h : ∀ s x, (g s x).2.tide = s.2.tide) : (l.foldl g s).2.tide = s.2.tide := by
  induction l generalizing s with
  | nil => rfl
  | cons x l ih => rw [List.foldl_cons, ih, h]

@[simp] theorem foldl3_tide {a c b : Type} (g : a × c × State → b → a × c × State) (l : List b) (s : a × c × State)
    (h : ∀ s x, (g s x).2.2.tide = s.2.2.tide) : (l.foldl g s).2.2.tide = s.2.2.tide := by
  induction l generalizing s with
  | nil => rfl
  | cons x l ih => rw [List.foldl_cons, ih, h]

@[simp] theorem ite_cat (c : Prop) [Decidable c] (x y : State) :
    (if c then x else y).cat = if c then x.cat else y.cat := apply_ite _ _ _ _

@[simp] theorem foldl_cat {b : Type} (g : State → b → State) (l : List b) (s : State)
    (h : ∀ s x, (g s x).cat = s.cat) : (l.foldl g s).cat = s.cat := by
  induction l generalizing s with
  | nil => rfl
  | cons x l ih => rw [List.foldl_cons, ih, h]

@[simp] theorem foldl2_cat {a b : Type} (g : a × State → b → a × State) (l : List b) (s : a × State)
    (h : ∀ s x, (g s x).2.cat = s.2.cat) : (l.foldl g s).2.cat = s.2.cat := by
  induction l generalizing s with
  | nil => rfl
  | cons x l ih => rw [List.foldl_cons, ih, h]

@[simp] theorem foldl3_cat {a c b : Type} (g : a × c × State → b → a × c × State) (l : List b) (s : a × c × State)
    (h : ∀ s x, (g s x).2.2.cat = s.2.2.cat) : (l.foldl g s).2.2.cat = s.2.2.cat := by
  induction l generalizing s with
  | nil => rfl
  | cons x l ih => rw [List.foldl_cons, ih, h]

@[simp] theorem ite_cap (c : Prop) [Decidable c] (x y : State) :
    (if c then x else y).cap = if c then x.cap else y.cap := apply_ite _ _ _ _

@[simp] theorem foldl_cap {b : Type} (g : State → b → State) (l : List b) (s : State)
    (h : ∀ s x, (g s x).cap = s.cap) : (l.foldl g s).cap = s.cap := by
  induction l generalizing s with
  | nil => rfl
  | cons x l ih => rw [List.foldl_cons, ih, h]

@[simp] theorem foldl2_cap {a b : Type} (g : a × State → b → a × State) (l : List b) (s : a × State)
    (h : ∀ s x, (g s x).2.cap = s.2.cap) : (l.foldl g s).2.cap = s.2.cap := by
  induction l generalizing s with
  | nil => rfl
  | cons x l ih => rw [List.foldl_cons, ih, h]

@[simp] theorem foldl3_cap {a c b : Type} (g : a × c × State → b → a × c × State) (l : List b) (s : a × c × State)
    (h : ∀ s x, (g s x).2.2.cap = s.2.2.cap) : (l.foldl g s).2.2.cap = s.2.2.cap := by
  induction l generalizing s with
  | nil => rfl
  | cons x l ih => rw [List.foldl_cons, ih, h]

@[simp] theorem ite_log (c : Prop) [Decidable c] (x y : State) :
    (if c then x else y).log = if c then x.log else y.log := apply_ite _ _ _ _

@[simp] theorem foldl_log {b : Type} (g : State → b → State) (l : List b) (s : State)
    (h : ∀ s x, (g s x).log = s.log) : (l.foldl g s).log = s.log := by
  induction l generalizing s with
  | nil => rfl
  | cons x l ih => rw [List.foldl_cons, ih, h]

@[simp] theorem foldl2_log {a b : Type} (g : a × State → b → a × State) (l : List b) (s : a × State)
    (h : ∀ s x, (g s x).2.log = s.2.log) : (l.foldl g s).2.log = s.2.log := by
  induction l generalizing s with
  | nil => rfl
  | cons x l ih => rw [List.foldl_cons, ih, h]

@[simp] theorem foldl3_log {a c b : Type} (g : a × c × State → b → a × c × State) (l : List b) (s : a × c × State)
    (h : ∀ s x, (g s x).2.2.log = s.2.2.log) : (l.foldl g s).2.2.log = s.2.2.log := by
  induction l generalizing s with
  | nil => rfl
  | cons x l ih => rw [List.foldl_cons, ih, h]

@[simp] theorem ite_rst (c : Prop) [Decidable c] (x y : State) :
    (if c then x else y).rst = if c then x.rst else y.rst := apply_ite _ _ _ _

@[simp] theorem foldl_rst {b : Type} (g : State → b → State) (l : List b) (s : State)
    (h : ∀ s x, (g s x).rst = s.rst) : (l.foldl g s).rst = s.rst := by
  induction l generalizing s with
  | nil => rfl
  | cons x l ih => rw [List.foldl_cons, ih, h]

@[simp] theorem foldl2_rst {a b : Type} (g : a × State → b → a × State) (l : List b) (s : a × State)
    (h : ∀ s x, (g s x).2.rst = s.2.rst) : (l.foldl g s).2.rst = s.2.rst := by
  induction l generalizing s with
  | nil => rfl
  | cons x l ih => rw [List.foldl_cons, ih, h]

@[simp] theorem foldl3_rst {a c b : Type} (g : a × c × State → b → a × c × State) (l : List b) (s : a × c × State)
    (h : ∀ s x, (g s x).2.2.rst = s.2.2.rst) : (l.foldl g s).2.2.rst = s.2.2.rst := by
  induction l generalizing s with
  | nil => rfl
  | cons x l ih => rw [List.foldl_cons, ih, h]

@[simp] theorem ite_pwr (c : Prop) [Decidable c] (x y : State) :
    (if c then x else y).pwr = if c then x.pwr else y.pwr := apply_ite _ _ _ _

@[simp] theorem foldl_pwr {b : Type} (g : State → b → State) (l : List b) (s : State)
    (h : ∀ s x, (g s x).pwr = s.pwr) : (l.foldl g s).pwr = s.pwr := by
  induction l generalizing s with
  | nil => rfl
  | cons x l ih => rw [List.foldl_cons, ih, h]

@[simp] theorem foldl2_pwr {a b : Type} (g : a × State → b → a × State) (l : List b) (s : a × State)
    (h : ∀ s x, (g s x).2.pwr = s.2.pwr) : (l.foldl g s).2.pwr = s.2.pwr := by
  induction l generalizing s with
  | nil => rfl
  | cons x l ih => rw [List.foldl_cons, ih, h]

@[simp] theorem foldl3_pwr {a c b : Type} (g : a × c × State → b → a × c × State) (l : List b) (s : a × c × State)
    (h : ∀ s x, (g s x).2.2.pwr = s.2.2.pwr) : (l.foldl g s).2.2.pwr = s.2.2.pwr := by
  induction l generalizing s with
  | nil => rfl
  | cons x l ih => rw [List.foldl_cons, ih, h]

@[simp] theorem ite_strand (c : Prop) [Decidable c] (x y : State) :
    (if c then x else y).strand = if c then x.strand else y.strand := apply_ite _ _ _ _

@[simp] theorem foldl_strand {b : Type} (g : State → b → State) (l : List b) (s : State)
    (h : ∀ s x, (g s x).strand = s.strand) : (l.foldl g s).strand = s.strand := by
  induction l generalizing s with
  | nil => rfl
  | cons x l ih => rw [List.foldl_cons, ih, h]

@[simp] theorem foldl2_strand {a b : Type} (g : a × State → b → a × State) (l : List b) (s : a × State)
    (h : ∀ s x, (g s x).2.strand = s.2.strand) : (l.foldl g s).2.strand = s.2.strand := by
  induction l generalizing s with
  | nil => rfl
  | cons x l ih => rw [List.foldl_cons, ih, h]

@[simp] theorem foldl3_strand {a c b : Type} (g : a × c × State → b → a × c × State) (l : List b) (s : a × c × State)
    (h : ∀ s x, (g s x).2.2.strand = s.2.2.strand) : (l.foldl g s).2.2.strand = s.2.2.strand := by
  induction l generalizing s with
  | nil => rfl
  | cons x l ih => rw [List.foldl_cons, ih, h]

@[simp] theorem ite_host (c : Prop) [Decidable c] (x y : State) :
    (if c then x else y).host = if c then x.host else y.host := apply_ite _ _ _ _

@[simp] theorem foldl_host {b : Type} (g : State → b → State) (l : List b) (s : State)
    (h : ∀ s x, (g s x).host = s.host) : (l.foldl g s).host = s.host := by
  induction l generalizing s with
  | nil => rfl
  | cons x l ih => rw [List.foldl_cons, ih, h]

@[simp] theorem foldl2_host {a b : Type} (g : a × State → b → a × State) (l : List b) (s : a × State)
    (h : ∀ s x, (g s x).2.host = s.2.host) : (l.foldl g s).2.host = s.2.host := by
  induction l generalizing s with
  | nil => rfl
  | cons x l ih => rw [List.foldl_cons, ih, h]

@[simp] theorem foldl3_host {a c b : Type} (g : a × c × State → b → a × c × State) (l : List b) (s : a × c × State)
    (h : ∀ s x, (g s x).2.2.host = s.2.2.host) : (l.foldl g s).2.2.host = s.2.2.host := by
  induction l generalizing s with
  | nil => rfl
  | cons x l ih => rw [List.foldl_cons, ih, h]

@[simp] theorem ite_idx (c : Prop) [Decidable c] (x y : State) :
    (if c then x else y).idx = if c then x.idx else y.idx := apply_ite _ _ _ _

@[simp] theorem foldl_idx {b : Type} (g : State → b → State) (l : List b) (s : State)
    (h : ∀ s x, (g s x).idx = s.idx) : (l.foldl g s).idx = s.idx := by
  induction l generalizing s with
  | nil => rfl
  | cons x l ih => rw [List.foldl_cons, ih, h]

@[simp] theorem foldl2_idx {a b : Type} (g : a × State → b → a × State) (l : List b) (s : a × State)
    (h : ∀ s x, (g s x).2.idx = s.2.idx) : (l.foldl g s).2.idx = s.2.idx := by
  induction l generalizing s with
  | nil => rfl
  | cons x l ih => rw [List.foldl_cons, ih, h]

@[simp] theorem foldl3_idx {a c b : Type} (g : a × c × State → b → a × c × State) (l : List b) (s : a × c × State)
    (h : ∀ s x, (g s x).2.2.idx = s.2.2.idx) : (l.foldl g s).2.2.idx = s.2.2.idx := by
  induction l generalizing s with
  | nil => rfl
  | cons x l ih => rw [List.foldl_cons, ih, h]

@[simp] theorem ite_qry (c : Prop) [Decidable c] (x y : State) :
    (if c then x else y).qry = if c then x.qry else y.qry := apply_ite _ _ _ _

@[simp] theorem foldl_qry {b : Type} (g : State → b → State) (l : List b) (s : State)
    (h : ∀ s x, (g s x).qry = s.qry) : (l.foldl g s).qry = s.qry := by
  induction l generalizing s with
  | nil => rfl
  | cons x l ih => rw [List.foldl_cons, ih, h]

@[simp] theorem foldl2_qry {a b : Type} (g : a × State → b → a × State) (l : List b) (s : a × State)
    (h : ∀ s x, (g s x).2.qry = s.2.qry) : (l.foldl g s).2.qry = s.2.qry := by
  induction l generalizing s with
  | nil => rfl
  | cons x l ih => rw [List.foldl_cons, ih, h]

@[simp] theorem foldl3_qry {a c b : Type} (g : a × c × State → b → a × c × State) (l : List b) (s : a × c × State)
    (h : ∀ s x, (g s x).2.2.qry = s.2.2.qry) : (l.foldl g s).2.2.qry = s.2.2.qry := by
  induction l generalizing s with
  | nil => rfl
  | cons x l ih => rw [List.foldl_cons, ih, h]

@[simp] theorem ite_chg (c : Prop) [Decidable c] (x y : State) :
    (if c then x else y).chg = if c then x.chg else y.chg := apply_ite _ _ _ _

@[simp] theorem foldl_chg {b : Type} (g : State → b → State) (l : List b) (s : State)
    (h : ∀ s x, (g s x).chg = s.chg) : (l.foldl g s).chg = s.chg := by
  induction l generalizing s with
  | nil => rfl
  | cons x l ih => rw [List.foldl_cons, ih, h]

@[simp] theorem foldl2_chg {a b : Type} (g : a × State → b → a × State) (l : List b) (s : a × State)
    (h : ∀ s x, (g s x).2.chg = s.2.chg) : (l.foldl g s).2.chg = s.2.chg := by
  induction l generalizing s with
  | nil => rfl
  | cons x l ih => rw [List.foldl_cons, ih, h]

@[simp] theorem foldl3_chg {a c b : Type} (g : a × c × State → b → a × c × State) (l : List b) (s : a × c × State)
    (h : ∀ s x, (g s x).2.2.chg = s.2.2.chg) : (l.foldl g s).2.2.chg = s.2.2.chg := by
  induction l generalizing s with
  | nil => rfl
  | cons x l ih => rw [List.foldl_cons, ih, h]

@[simp] theorem ite_mem (c : Prop) [Decidable c] (x y : State) :
    (if c then x else y).mem = if c then x.mem else y.mem := apply_ite _ _ _ _

@[simp] theorem foldl_mem {b : Type} (g : State → b → State) (l : List b) (s : State)
    (h : ∀ s x, (g s x).mem = s.mem) : (l.foldl g s).mem = s.mem := by
  induction l generalizing s with
  | nil => rfl
  | cons x l ih => rw [List.foldl_cons, ih, h]

@[simp] theorem foldl2_mem {a b : Type} (g : a × State → b → a × State) (l : List b) (s : a × State)
    (h : ∀ s x, (g s x).2.mem = s.2.mem) : (l.foldl g s).2.mem = s.2.mem := by
  induction l generalizing s with
  | nil => rfl
  | cons x l ih => rw [List.foldl_cons, ih, h]

@[simp] theorem foldl3_mem {a c b : Type} (g : a × c × State → b → a × c × State) (l : List b) (s : a × c × State)
    (h : ∀ s x, (g s x).2.2.mem = s.2.2.mem) : (l.foldl g s).2.2.mem = s.2.2.mem := by
  induction l generalizing s with
  | nil => rfl
  | cons x l ih => rw [List.foldl_cons, ih, h]

@[simp] theorem ite_key (c : Prop) [Decidable c] (x y : State) :
    (if c then x else y).key = if c then x.key else y.key := apply_ite _ _ _ _

@[simp] theorem foldl_key {b : Type} (g : State → b → State) (l : List b) (s : State)
    (h : ∀ s x, (g s x).key = s.key) : (l.foldl g s).key = s.key := by
  induction l generalizing s with
  | nil => rfl
  | cons x l ih => rw [List.foldl_cons, ih, h]

@[simp] theorem foldl2_key {a b : Type} (g : a × State → b → a × State) (l : List b) (s : a × State)
    (h : ∀ s x, (g s x).2.key = s.2.key) : (l.foldl g s).2.key = s.2.key := by
  induction l generalizing s with
  | nil => rfl
  | cons x l ih => rw [List.foldl_cons, ih, h]

@[simp] theorem foldl3_key {a c b : Type} (g : a × c × State → b → a × c × State) (l : List b) (s : a × c × State)
    (h : ∀ s x, (g s x).2.2.key = s.2.2.key) : (l.foldl g s).2.2.key = s.2.2.key := by
  induction l generalizing s with
  | nil => rfl
  | cons x l ih => rw [List.foldl_cons, ih, h]

@[simp] theorem ite_coh (c : Prop) [Decidable c] (x y : State) :
    (if c then x else y).coh = if c then x.coh else y.coh := apply_ite _ _ _ _

@[simp] theorem foldl_coh {b : Type} (g : State → b → State) (l : List b) (s : State)
    (h : ∀ s x, (g s x).coh = s.coh) : (l.foldl g s).coh = s.coh := by
  induction l generalizing s with
  | nil => rfl
  | cons x l ih => rw [List.foldl_cons, ih, h]

@[simp] theorem foldl2_coh {a b : Type} (g : a × State → b → a × State) (l : List b) (s : a × State)
    (h : ∀ s x, (g s x).2.coh = s.2.coh) : (l.foldl g s).2.coh = s.2.coh := by
  induction l generalizing s with
  | nil => rfl
  | cons x l ih => rw [List.foldl_cons, ih, h]

@[simp] theorem foldl3_coh {a c b : Type} (g : a × c × State → b → a × c × State) (l : List b) (s : a × c × State)
    (h : ∀ s x, (g s x).2.2.coh = s.2.2.coh) : (l.foldl g s).2.2.coh = s.2.2.coh := by
  induction l generalizing s with
  | nil => rfl
  | cons x l ih => rw [List.foldl_cons, ih, h]

@[simp] theorem ite_nb (c : Prop) [Decidable c] (x y : State) :
    (if c then x else y).nb = if c then x.nb else y.nb := apply_ite _ _ _ _

@[simp] theorem foldl_nb {b : Type} (g : State → b → State) (l : List b) (s : State)
    (h : ∀ s x, (g s x).nb = s.nb) : (l.foldl g s).nb = s.nb := by
  induction l generalizing s with
  | nil => rfl
  | cons x l ih => rw [List.foldl_cons, ih, h]

@[simp] theorem foldl2_nb {a b : Type} (g : a × State → b → a × State) (l : List b) (s : a × State)
    (h : ∀ s x, (g s x).2.nb = s.2.nb) : (l.foldl g s).2.nb = s.2.nb := by
  induction l generalizing s with
  | nil => rfl
  | cons x l ih => rw [List.foldl_cons, ih, h]

@[simp] theorem foldl3_nb {a c b : Type} (g : a × c × State → b → a × c × State) (l : List b) (s : a × c × State)
    (h : ∀ s x, (g s x).2.2.nb = s.2.2.nb) : (l.foldl g s).2.2.nb = s.2.2.nb := by
  induction l generalizing s with
  | nil => rfl
  | cons x l ih => rw [List.foldl_cons, ih, h]

@[simp] theorem ite_flash (c : Prop) [Decidable c] (x y : State) :
    (if c then x else y).flash = if c then x.flash else y.flash := apply_ite _ _ _ _

@[simp] theorem foldl_flash {b : Type} (g : State → b → State) (l : List b) (s : State)
    (h : ∀ s x, (g s x).flash = s.flash) : (l.foldl g s).flash = s.flash := by
  induction l generalizing s with
  | nil => rfl
  | cons x l ih => rw [List.foldl_cons, ih, h]

@[simp] theorem foldl2_flash {a b : Type} (g : a × State → b → a × State) (l : List b) (s : a × State)
    (h : ∀ s x, (g s x).2.flash = s.2.flash) : (l.foldl g s).2.flash = s.2.flash := by
  induction l generalizing s with
  | nil => rfl
  | cons x l ih => rw [List.foldl_cons, ih, h]

@[simp] theorem foldl3_flash {a c b : Type} (g : a × c × State → b → a × c × State) (l : List b) (s : a × c × State)
    (h : ∀ s x, (g s x).2.2.flash = s.2.2.flash) : (l.foldl g s).2.2.flash = s.2.2.flash := by
  induction l generalizing s with
  | nil => rfl
  | cons x l ih => rw [List.foldl_cons, ih, h]

@[simp] theorem ite_gph (c : Prop) [Decidable c] (x y : State) :
    (if c then x else y).gph = if c then x.gph else y.gph := apply_ite _ _ _ _

@[simp] theorem foldl_gph {b : Type} (g : State → b → State) (l : List b) (s : State)
    (h : ∀ s x, (g s x).gph = s.gph) : (l.foldl g s).gph = s.gph := by
  induction l generalizing s with
  | nil => rfl
  | cons x l ih => rw [List.foldl_cons, ih, h]

@[simp] theorem foldl2_gph {a b : Type} (g : a × State → b → a × State) (l : List b) (s : a × State)
    (h : ∀ s x, (g s x).2.gph = s.2.gph) : (l.foldl g s).2.gph = s.2.gph := by
  induction l generalizing s with
  | nil => rfl
  | cons x l ih => rw [List.foldl_cons, ih, h]

@[simp] theorem foldl3_gph {a c b : Type} (g : a × c × State → b → a × c × State) (l : List b) (s : a × c × State)
    (h : ∀ s x, (g s x).2.2.gph = s.2.2.gph) : (l.foldl g s).2.2.gph = s.2.2.gph := by
  induction l generalizing s with
  | nil => rfl
  | cons x l ih => rw [List.foldl_cons, ih, h]

@[simp] theorem ite_berth (c : Prop) [Decidable c] (x y : State) :
    (if c then x else y).berth = if c then x.berth else y.berth := apply_ite _ _ _ _

@[simp] theorem foldl_berth {b : Type} (g : State → b → State) (l : List b) (s : State)
    (h : ∀ s x, (g s x).berth = s.berth) : (l.foldl g s).berth = s.berth := by
  induction l generalizing s with
  | nil => rfl
  | cons x l ih => rw [List.foldl_cons, ih, h]

@[simp] theorem foldl2_berth {a b : Type} (g : a × State → b → a × State) (l : List b) (s : a × State)
    (h : ∀ s x, (g s x).2.berth = s.2.berth) : (l.foldl g s).2.berth = s.2.berth := by
  induction l generalizing s with
  | nil => rfl
  | cons x l ih => rw [List.foldl_cons, ih, h]

@[simp] theorem foldl3_berth {a c b : Type} (g : a × c × State → b → a × c × State) (l : List b) (s : a × c × State)
    (h : ∀ s x, (g s x).2.2.berth = s.2.2.berth) : (l.foldl g s).2.2.berth = s.2.2.berth := by
  induction l generalizing s with
  | nil => rfl
  | cons x l ih => rw [List.foldl_cons, ih, h]

@[simp] theorem ite_tbl (c : Prop) [Decidable c] (x y : State) :
    (if c then x else y).tbl = if c then x.tbl else y.tbl := apply_ite _ _ _ _

@[simp] theorem foldl_tbl {b : Type} (g : State → b → State) (l : List b) (s : State)
    (h : ∀ s x, (g s x).tbl = s.tbl) : (l.foldl g s).tbl = s.tbl := by
  induction l generalizing s with
  | nil => rfl
  | cons x l ih => rw [List.foldl_cons, ih, h]

@[simp] theorem foldl2_tbl {a b : Type} (g : a × State → b → a × State) (l : List b) (s : a × State)
    (h : ∀ s x, (g s x).2.tbl = s.2.tbl) : (l.foldl g s).2.tbl = s.2.tbl := by
  induction l generalizing s with
  | nil => rfl
  | cons x l ih => rw [List.foldl_cons, ih, h]

@[simp] theorem foldl3_tbl {a c b : Type} (g : a × c × State → b → a × c × State) (l : List b) (s : a × c × State)
    (h : ∀ s x, (g s x).2.2.tbl = s.2.2.tbl) : (l.foldl g s).2.2.tbl = s.2.2.tbl := by
  induction l generalizing s with
  | nil => rfl
  | cons x l ih => rw [List.foldl_cons, ih, h]

@[simp] theorem ite_rel (c : Prop) [Decidable c] (x y : State) :
    (if c then x else y).rel = if c then x.rel else y.rel := apply_ite _ _ _ _

@[simp] theorem foldl_rel {b : Type} (g : State → b → State) (l : List b) (s : State)
    (h : ∀ s x, (g s x).rel = s.rel) : (l.foldl g s).rel = s.rel := by
  induction l generalizing s with
  | nil => rfl
  | cons x l ih => rw [List.foldl_cons, ih, h]

@[simp] theorem foldl2_rel {a b : Type} (g : a × State → b → a × State) (l : List b) (s : a × State)
    (h : ∀ s x, (g s x).2.rel = s.2.rel) : (l.foldl g s).2.rel = s.2.rel := by
  induction l generalizing s with
  | nil => rfl
  | cons x l ih => rw [List.foldl_cons, ih, h]

@[simp] theorem foldl3_rel {a c b : Type} (g : a × c × State → b → a × c × State) (l : List b) (s : a × c × State)
    (h : ∀ s x, (g s x).2.2.rel = s.2.2.rel) : (l.foldl g s).2.2.rel = s.2.2.rel := by
  induction l generalizing s with
  | nil => rfl
  | cons x l ih => rw [List.foldl_cons, ih, h]

@[simp] theorem ite_sec (c : Prop) [Decidable c] (x y : State) :
    (if c then x else y).sec = if c then x.sec else y.sec := apply_ite _ _ _ _

@[simp] theorem foldl_sec {b : Type} (g : State → b → State) (l : List b) (s : State)
    (h : ∀ s x, (g s x).sec = s.sec) : (l.foldl g s).sec = s.sec := by
  induction l generalizing s with
  | nil => rfl
  | cons x l ih => rw [List.foldl_cons, ih, h]

@[simp] theorem foldl2_sec {a b : Type} (g : a × State → b → a × State) (l : List b) (s : a × State)
    (h : ∀ s x, (g s x).2.sec = s.2.sec) : (l.foldl g s).2.sec = s.2.sec := by
  induction l generalizing s with
  | nil => rfl
  | cons x l ih => rw [List.foldl_cons, ih, h]

@[simp] theorem foldl3_sec {a c b : Type} (g : a × c × State → b → a × c × State) (l : List b) (s : a × c × State)
    (h : ∀ s x, (g s x).2.2.sec = s.2.2.sec) : (l.foldl g s).2.2.sec = s.2.2.sec := by
  induction l generalizing s with
  | nil => rfl
  | cons x l ih => rw [List.foldl_cons, ih, h]

abbrev Keeps1 (s t : State) : Prop :=
  t.pending = s.pending ∧ t.out = s.out ∧ t.free = s.free ∧ t.tide = s.tide ∧ t.cap = s.cap ∧ t.log = s.log ∧ t.rst = s.rst ∧ t.pwr = s.pwr ∧ t.strand = s.strand ∧ t.host = s.host ∧ t.idx = s.idx ∧ t.qry = s.qry ∧ t.chg = s.chg ∧ t.mem = s.mem ∧ t.key = s.key ∧ t.coh = s.coh ∧ t.nb = s.nb ∧ t.flash = s.flash ∧ t.gph = s.gph ∧ t.berth = s.berth ∧ t.tbl = s.tbl ∧ t.rel = s.rel ∧ t.sec = s.sec

abbrev Keeps2 (s t : State) : Prop :=
  t.pending = s.pending ∧ t.out = s.out ∧ t.tide = s.tide ∧ t.cat = s.cat ∧ t.cap = s.cap ∧ t.log = s.log ∧ t.rst = s.rst ∧ t.pwr = s.pwr ∧ t.strand = s.strand ∧ t.host = s.host ∧ t.idx = s.idx ∧ t.qry = s.qry ∧ t.chg = s.chg ∧ t.mem = s.mem ∧ t.key = s.key ∧ t.coh = s.coh ∧ t.nb = s.nb ∧ t.flash = s.flash ∧ t.gph = s.gph ∧ t.berth = s.berth ∧ t.tbl = s.tbl ∧ t.rel = s.rel ∧ t.sec = s.sec

abbrev Keeps3 (s t : State) : Prop :=
  t.pending = s.pending ∧ t.free = s.free ∧ t.tide = s.tide ∧ t.cat = s.cat ∧ t.cap = s.cap ∧ t.log = s.log ∧ t.rst = s.rst ∧ t.pwr = s.pwr ∧ t.strand = s.strand ∧ t.host = s.host ∧ t.idx = s.idx ∧ t.qry = s.qry ∧ t.chg = s.chg ∧ t.mem = s.mem ∧ t.key = s.key ∧ t.coh = s.coh ∧ t.nb = s.nb ∧ t.flash = s.flash ∧ t.gph = s.gph ∧ t.berth = s.berth ∧ t.tbl = s.tbl ∧ t.rel = s.rel ∧ t.sec = s.sec

abbrev Keeps4 (s t : State) : Prop :=
  t.pending = s.pending ∧ t.out = s.out ∧ t.free = s.free ∧ t.tide = s.tide ∧ t.cat = s.cat ∧ t.cap = s.cap ∧ t.log = s.log ∧ t.pwr = s.pwr ∧ t.strand = s.strand ∧ t.host = s.host ∧ t.idx = s.idx ∧ t.qry = s.qry ∧ t.chg = s.chg ∧ t.mem = s.mem ∧ t.key = s.key ∧ t.coh = s.coh ∧ t.nb = s.nb ∧ t.flash = s.flash ∧ t.gph = s.gph ∧ t.berth = s.berth ∧ t.tbl = s.tbl ∧ t.rel = s.rel ∧ t.sec = s.sec

abbrev Keeps5 (s t : State) : Prop :=
  t.pending = s.pending ∧ t.out = s.out ∧ t.free = s.free ∧ t.cap = s.cap ∧ t.log = s.log ∧ t.rst = s.rst ∧ t.pwr = s.pwr ∧ t.strand = s.strand ∧ t.host = s.host ∧ t.idx = s.idx ∧ t.qry = s.qry ∧ t.chg = s.chg ∧ t.mem = s.mem ∧ t.key = s.key ∧ t.coh = s.coh ∧ t.nb = s.nb ∧ t.flash = s.flash ∧ t.gph = s.gph ∧ t.berth = s.berth ∧ t.tbl = s.tbl ∧ t.rel = s.rel ∧ t.sec = s.sec

abbrev Keeps6 (s t : State) : Prop :=
  t.pending = s.pending ∧ t.out = s.out ∧ t.free = s.free ∧ t.tide = s.tide ∧ t.cat = s.cat ∧ t.cap = s.cap ∧ t.log = s.log ∧ t.rst = s.rst ∧ t.pwr = s.pwr ∧ t.host = s.host ∧ t.idx = s.idx ∧ t.qry = s.qry ∧ t.chg = s.chg ∧ t.mem = s.mem ∧ t.key = s.key ∧ t.coh = s.coh ∧ t.nb = s.nb ∧ t.flash = s.flash ∧ t.gph = s.gph ∧ t.berth = s.berth ∧ t.tbl = s.tbl ∧ t.rel = s.rel ∧ t.sec = s.sec

abbrev Keeps7 (s t : State) : Prop :=
  t.pending = s.pending ∧ t.out = s.out ∧ t.free = s.free ∧ t.tide = s.tide ∧ t.cap = s.cap ∧ t.log = s.log ∧ t.rst = s.rst ∧ t.pwr = s.pwr ∧ t.host = s.host ∧ t.idx = s.idx ∧ t.qry = s.qry ∧ t.chg = s.chg ∧ t.mem = s.mem ∧ t.key = s.key ∧ t.coh = s.coh ∧ t.nb = s.nb ∧ t.flash = s.flash ∧ t.gph = s.gph ∧ t.berth = s.berth ∧ t.tbl = s.tbl ∧ t.rel = s.rel ∧ t.sec = s.sec

abbrev Keeps8 (s t : State) : Prop :=
  t.pending = s.pending ∧ t.out = s.out ∧ t.free = s.free ∧ t.tide = s.tide ∧ t.cap = s.cap ∧ t.rst = s.rst ∧ t.pwr = s.pwr ∧ t.strand = s.strand ∧ t.host = s.host ∧ t.idx = s.idx ∧ t.qry = s.qry ∧ t.chg = s.chg ∧ t.mem = s.mem ∧ t.key = s.key ∧ t.coh = s.coh ∧ t.nb = s.nb ∧ t.flash = s.flash ∧ t.gph = s.gph ∧ t.berth = s.berth ∧ t.tbl = s.tbl ∧ t.rel = s.rel ∧ t.sec = s.sec

abbrev Keeps9 (s t : State) : Prop :=
  t.pending = s.pending ∧ t.free = s.free ∧ t.tide = s.tide ∧ t.cap = s.cap ∧ t.log = s.log ∧ t.rst = s.rst ∧ t.pwr = s.pwr ∧ t.host = s.host ∧ t.idx = s.idx ∧ t.qry = s.qry ∧ t.chg = s.chg ∧ t.mem = s.mem ∧ t.key = s.key ∧ t.coh = s.coh ∧ t.nb = s.nb ∧ t.flash = s.flash ∧ t.gph = s.gph ∧ t.berth = s.berth ∧ t.tbl = s.tbl ∧ t.rel = s.rel ∧ t.sec = s.sec

abbrev Keeps10 (s t : State) : Prop :=
  t.pending = s.pending ∧ t.tide = s.tide ∧ t.cat = s.cat ∧ t.cap = s.cap ∧ t.log = s.log ∧ t.rst = s.rst ∧ t.pwr = s.pwr ∧ t.host = s.host ∧ t.idx = s.idx ∧ t.qry = s.qry ∧ t.chg = s.chg ∧ t.mem = s.mem ∧ t.key = s.key ∧ t.coh = s.coh ∧ t.nb = s.nb ∧ t.flash = s.flash ∧ t.gph = s.gph ∧ t.berth = s.berth ∧ t.tbl = s.tbl ∧ t.rel = s.rel ∧ t.sec = s.sec

abbrev Keeps11 (s t : State) : Prop :=
  t.pending = s.pending ∧ t.free = s.free ∧ t.tide = s.tide ∧ t.cat = s.cat ∧ t.cap = s.cap ∧ t.log = s.log ∧ t.rst = s.rst ∧ t.pwr = s.pwr ∧ t.host = s.host ∧ t.idx = s.idx ∧ t.qry = s.qry ∧ t.chg = s.chg ∧ t.mem = s.mem ∧ t.key = s.key ∧ t.coh = s.coh ∧ t.nb = s.nb ∧ t.flash = s.flash ∧ t.gph = s.gph ∧ t.berth = s.berth ∧ t.tbl = s.tbl ∧ t.rel = s.rel ∧ t.sec = s.sec

abbrev Keeps12 (s t : State) : Prop :=
  t.pending = s.pending ∧ t.out = s.out ∧ t.free = s.free ∧ t.tide = s.tide ∧ t.cat = s.cat ∧ t.cap = s.cap ∧ t.log = s.log ∧ t.rst = s.rst ∧ t.pwr = s.pwr ∧ t.strand = s.strand ∧ t.host = s.host ∧ t.idx = s.idx ∧ t.qry = s.qry ∧ t.chg = s.chg ∧ t.mem = s.mem ∧ t.key = s.key ∧ t.coh = s.coh ∧ t.nb = s.nb ∧ t.gph = s.gph ∧ t.berth = s.berth ∧ t.tbl = s.tbl ∧ t.rel = s.rel ∧ t.sec = s.sec

abbrev Keeps13 (s t : State) : Prop :=
  t.pending = s.pending ∧ t.out = s.out ∧ t.free = s.free ∧ t.tide = s.tide ∧ t.cap = s.cap ∧ t.rst = s.rst ∧ t.pwr = s.pwr ∧ t.strand = s.strand ∧ t.host = s.host ∧ t.idx = s.idx ∧ t.qry = s.qry ∧ t.chg = s.chg ∧ t.mem = s.mem ∧ t.key = s.key ∧ t.coh = s.coh ∧ t.nb = s.nb ∧ t.gph = s.gph ∧ t.berth = s.berth ∧ t.tbl = s.tbl ∧ t.rel = s.rel ∧ t.sec = s.sec

abbrev Keeps14 (s t : State) : Prop :=
  t.pending = s.pending ∧ t.out = s.out ∧ t.free = s.free ∧ t.tide = s.tide ∧ t.cap = s.cap ∧ t.log = s.log ∧ t.rst = s.rst ∧ t.pwr = s.pwr ∧ t.strand = s.strand ∧ t.host = s.host ∧ t.idx = s.idx ∧ t.qry = s.qry ∧ t.chg = s.chg ∧ t.mem = s.mem ∧ t.key = s.key ∧ t.coh = s.coh ∧ t.nb = s.nb ∧ t.gph = s.gph ∧ t.berth = s.berth ∧ t.tbl = s.tbl ∧ t.rel = s.rel ∧ t.sec = s.sec

abbrev Keeps15 (s t : State) : Prop :=
  t.pending = s.pending ∧ t.out = s.out ∧ t.free = s.free ∧ t.tide = s.tide ∧ t.cat = s.cat ∧ t.cap = s.cap ∧ t.log = s.log ∧ t.rst = s.rst ∧ t.pwr = s.pwr ∧ t.strand = s.strand ∧ t.host = s.host ∧ t.idx = s.idx ∧ t.qry = s.qry ∧ t.chg = s.chg ∧ t.key = s.key ∧ t.coh = s.coh ∧ t.nb = s.nb ∧ t.flash = s.flash ∧ t.gph = s.gph ∧ t.berth = s.berth ∧ t.tbl = s.tbl ∧ t.rel = s.rel ∧ t.sec = s.sec

abbrev Keeps16 (s t : State) : Prop :=
  t.pending = s.pending ∧ t.out = s.out ∧ t.free = s.free ∧ t.tide = s.tide ∧ t.cat = s.cat ∧ t.cap = s.cap ∧ t.log = s.log ∧ t.rst = s.rst ∧ t.pwr = s.pwr ∧ t.strand = s.strand ∧ t.host = s.host ∧ t.idx = s.idx ∧ t.qry = s.qry ∧ t.chg = s.chg ∧ t.key = s.key ∧ t.nb = s.nb ∧ t.flash = s.flash ∧ t.gph = s.gph ∧ t.berth = s.berth ∧ t.tbl = s.tbl ∧ t.rel = s.rel ∧ t.sec = s.sec

abbrev Keeps17 (s t : State) : Prop :=
  t.pending = s.pending ∧ t.out = s.out ∧ t.free = s.free ∧ t.tide = s.tide ∧ t.cat = s.cat ∧ t.cap = s.cap ∧ t.log = s.log ∧ t.rst = s.rst ∧ t.pwr = s.pwr ∧ t.strand = s.strand ∧ t.host = s.host ∧ t.idx = s.idx ∧ t.qry = s.qry ∧ t.chg = s.chg ∧ t.key = s.key ∧ t.coh = s.coh ∧ t.nb = s.nb ∧ t.gph = s.gph ∧ t.berth = s.berth ∧ t.tbl = s.tbl ∧ t.rel = s.rel ∧ t.sec = s.sec

abbrev Keeps18 (s t : State) : Prop :=
  t.pending = s.pending ∧ t.out = s.out ∧ t.free = s.free ∧ t.tide = s.tide ∧ t.cap = s.cap ∧ t.log = s.log ∧ t.rst = s.rst ∧ t.pwr = s.pwr ∧ t.strand = s.strand ∧ t.host = s.host ∧ t.idx = s.idx ∧ t.qry = s.qry ∧ t.chg = s.chg ∧ t.key = s.key ∧ t.coh = s.coh ∧ t.nb = s.nb ∧ t.gph = s.gph ∧ t.berth = s.berth ∧ t.tbl = s.tbl ∧ t.rel = s.rel ∧ t.sec = s.sec

abbrev Keeps19 (s t : State) : Prop :=
  t.pending = s.pending ∧ t.out = s.out ∧ t.free = s.free ∧ t.tide = s.tide ∧ t.cap = s.cap ∧ t.log = s.log ∧ t.rst = s.rst ∧ t.pwr = s.pwr ∧ t.strand = s.strand ∧ t.host = s.host ∧ t.idx = s.idx ∧ t.qry = s.qry ∧ t.chg = s.chg ∧ t.key = s.key ∧ t.nb = s.nb ∧ t.gph = s.gph ∧ t.berth = s.berth ∧ t.tbl = s.tbl ∧ t.rel = s.rel ∧ t.sec = s.sec

abbrev Keeps20 (s t : State) : Prop :=
  t.pending = s.pending ∧ t.out = s.out ∧ t.free = s.free ∧ t.tide = s.tide ∧ t.cat = s.cat ∧ t.cap = s.cap ∧ t.log = s.log ∧ t.rst = s.rst ∧ t.pwr = s.pwr ∧ t.strand = s.strand ∧ t.host = s.host ∧ t.idx = s.idx ∧ t.qry = s.qry ∧ t.chg = s.chg ∧ t.key = s.key ∧ t.nb = s.nb ∧ t.gph = s.gph ∧ t.berth = s.berth ∧ t.tbl = s.tbl ∧ t.rel = s.rel ∧ t.sec = s.sec

abbrev Keeps21 (s t : State) : Prop :=
  t.pending = s.pending ∧ t.out = s.out ∧ t.free = s.free ∧ t.tide = s.tide ∧ t.cap = s.cap ∧ t.log = s.log ∧ t.rst = s.rst ∧ t.pwr = s.pwr ∧ t.strand = s.strand ∧ t.host = s.host ∧ t.idx = s.idx ∧ t.qry = s.qry ∧ t.chg = s.chg ∧ t.key = s.key ∧ t.coh = s.coh ∧ t.nb = s.nb ∧ t.flash = s.flash ∧ t.gph = s.gph ∧ t.berth = s.berth ∧ t.tbl = s.tbl ∧ t.rel = s.rel ∧ t.sec = s.sec

abbrev Keeps22 (s t : State) : Prop :=
  t.pending = s.pending ∧ t.out = s.out ∧ t.free = s.free ∧ t.tide = s.tide ∧ t.cat = s.cat ∧ t.cap = s.cap ∧ t.log = s.log ∧ t.rst = s.rst ∧ t.pwr = s.pwr ∧ t.strand = s.strand ∧ t.idx = s.idx ∧ t.qry = s.qry ∧ t.chg = s.chg ∧ t.mem = s.mem ∧ t.key = s.key ∧ t.coh = s.coh ∧ t.nb = s.nb ∧ t.flash = s.flash ∧ t.gph = s.gph ∧ t.berth = s.berth ∧ t.tbl = s.tbl ∧ t.rel = s.rel ∧ t.sec = s.sec

abbrev Keeps23 (s t : State) : Prop :=
  t.pending = s.pending ∧ t.free = s.free ∧ t.tide = s.tide ∧ t.cap = s.cap ∧ t.log = s.log ∧ t.rst = s.rst ∧ t.pwr = s.pwr ∧ t.strand = s.strand ∧ t.idx = s.idx ∧ t.qry = s.qry ∧ t.chg = s.chg ∧ t.mem = s.mem ∧ t.key = s.key ∧ t.coh = s.coh ∧ t.nb = s.nb ∧ t.flash = s.flash ∧ t.gph = s.gph ∧ t.berth = s.berth ∧ t.tbl = s.tbl ∧ t.rel = s.rel ∧ t.sec = s.sec

abbrev Keeps24 (s t : State) : Prop :=
  t.pending = s.pending ∧ t.free = s.free ∧ t.tide = s.tide ∧ t.cap = s.cap ∧ t.log = s.log ∧ t.rst = s.rst ∧ t.pwr = s.pwr ∧ t.strand = s.strand ∧ t.idx = s.idx ∧ t.qry = s.qry ∧ t.chg = s.chg ∧ t.key = s.key ∧ t.nb = s.nb ∧ t.gph = s.gph ∧ t.berth = s.berth ∧ t.tbl = s.tbl ∧ t.rel = s.rel ∧ t.sec = s.sec

abbrev Keeps25 (s t : State) : Prop :=
  t.pending = s.pending ∧ t.free = s.free ∧ t.tide = s.tide ∧ t.cat = s.cat ∧ t.cap = s.cap ∧ t.log = s.log ∧ t.rst = s.rst ∧ t.pwr = s.pwr ∧ t.strand = s.strand ∧ t.idx = s.idx ∧ t.qry = s.qry ∧ t.chg = s.chg ∧ t.mem = s.mem ∧ t.key = s.key ∧ t.coh = s.coh ∧ t.nb = s.nb ∧ t.flash = s.flash ∧ t.gph = s.gph ∧ t.berth = s.berth ∧ t.tbl = s.tbl ∧ t.rel = s.rel ∧ t.sec = s.sec

abbrev Keeps26 (s t : State) : Prop :=
  t.pending = s.pending ∧ t.out = s.out ∧ t.free = s.free ∧ t.tide = s.tide ∧ t.cat = s.cat ∧ t.cap = s.cap ∧ t.log = s.log ∧ t.rst = s.rst ∧ t.pwr = s.pwr ∧ t.strand = s.strand ∧ t.host = s.host ∧ t.idx = s.idx ∧ t.qry = s.qry ∧ t.chg = s.chg ∧ t.mem = s.mem ∧ t.key = s.key ∧ t.coh = s.coh ∧ t.nb = s.nb ∧ t.flash = s.flash ∧ t.gph = s.gph ∧ t.tbl = s.tbl ∧ t.rel = s.rel ∧ t.sec = s.sec

abbrev Keeps27 (s t : State) : Prop :=
  t.pending = s.pending ∧ t.out = s.out ∧ t.free = s.free ∧ t.tide = s.tide ∧ t.cat = s.cat ∧ t.cap = s.cap ∧ t.log = s.log ∧ t.rst = s.rst ∧ t.pwr = s.pwr ∧ t.strand = s.strand ∧ t.host = s.host ∧ t.idx = s.idx ∧ t.qry = s.qry ∧ t.chg = s.chg ∧ t.mem = s.mem ∧ t.key = s.key ∧ t.coh = s.coh ∧ t.nb = s.nb ∧ t.gph = s.gph ∧ t.tbl = s.tbl ∧ t.rel = s.rel ∧ t.sec = s.sec

abbrev Keeps29 (s t : State) : Prop :=
  t.pending = s.pending ∧ t.free = s.free ∧ t.tide = s.tide ∧ t.cap = s.cap ∧ t.log = s.log ∧ t.rst = s.rst ∧ t.pwr = s.pwr ∧ t.strand = s.strand ∧ t.idx = s.idx ∧ t.qry = s.qry ∧ t.chg = s.chg ∧ t.key = s.key ∧ t.nb = s.nb ∧ t.gph = s.gph ∧ t.tbl = s.tbl ∧ t.rel = s.rel ∧ t.sec = s.sec

abbrev Keeps30 (s t : State) : Prop :=
  t.pending = s.pending ∧ t.free = s.free ∧ t.tide = s.tide ∧ t.cap = s.cap ∧ t.log = s.log ∧ t.rst = s.rst ∧ t.pwr = s.pwr ∧ t.idx = s.idx ∧ t.qry = s.qry ∧ t.chg = s.chg ∧ t.key = s.key ∧ t.nb = s.nb ∧ t.gph = s.gph ∧ t.tbl = s.tbl ∧ t.rel = s.rel ∧ t.sec = s.sec

abbrev Keeps31 (s t : State) : Prop :=
  t.pending = s.pending ∧ t.out = s.out ∧ t.free = s.free ∧ t.tide = s.tide ∧ t.cap = s.cap ∧ t.log = s.log ∧ t.rst = s.rst ∧ t.pwr = s.pwr ∧ t.strand = s.strand ∧ t.host = s.host ∧ t.idx = s.idx ∧ t.qry = s.qry ∧ t.chg = s.chg ∧ t.mem = s.mem ∧ t.key = s.key ∧ t.coh = s.coh ∧ t.nb = s.nb ∧ t.flash = s.flash ∧ t.gph = s.gph ∧ t.tbl = s.tbl ∧ t.rel = s.rel ∧ t.sec = s.sec

abbrev Keeps32 (s t : State) : Prop :=
  t.pending = s.pending ∧ t.out = s.out ∧ t.free = s.free ∧ t.tide = s.tide ∧ t.cat = s.cat ∧ t.cap = s.cap ∧ t.log = s.log ∧ t.rst = s.rst ∧ t.pwr = s.pwr ∧ t.strand = s.strand ∧ t.host = s.host ∧ t.idx = s.idx ∧ t.qry = s.qry ∧ t.chg = s.chg ∧ t.key = s.key ∧ t.coh = s.coh ∧ t.nb = s.nb ∧ t.gph = s.gph ∧ t.tbl = s.tbl ∧ t.rel = s.rel ∧ t.sec = s.sec

abbrev Keeps33 (s t : State) : Prop :=
  t.pending = s.pending ∧ t.out = s.out ∧ t.free = s.free ∧ t.tide = s.tide ∧ t.cat = s.cat ∧ t.cap = s.cap ∧ t.log = s.log ∧ t.rst = s.rst ∧ t.pwr = s.pwr ∧ t.host = s.host ∧ t.idx = s.idx ∧ t.qry = s.qry ∧ t.chg = s.chg ∧ t.mem = s.mem ∧ t.key = s.key ∧ t.coh = s.coh ∧ t.nb = s.nb ∧ t.gph = s.gph ∧ t.tbl = s.tbl ∧ t.rel = s.rel ∧ t.sec = s.sec

abbrev Keeps34 (s t : State) : Prop :=
  t.pending = s.pending ∧ t.out = s.out ∧ t.free = s.free ∧ t.tide = s.tide ∧ t.cap = s.cap ∧ t.log = s.log ∧ t.rst = s.rst ∧ t.pwr = s.pwr ∧ t.strand = s.strand ∧ t.host = s.host ∧ t.idx = s.idx ∧ t.qry = s.qry ∧ t.chg = s.chg ∧ t.key = s.key ∧ t.coh = s.coh ∧ t.nb = s.nb ∧ t.gph = s.gph ∧ t.tbl = s.tbl ∧ t.rel = s.rel ∧ t.sec = s.sec

abbrev Keeps35 (s t : State) : Prop :=
  t.pending = s.pending ∧ t.free = s.free ∧ t.tide = s.tide ∧ t.cap = s.cap ∧ t.log = s.log ∧ t.rst = s.rst ∧ t.pwr = s.pwr ∧ t.idx = s.idx ∧ t.qry = s.qry ∧ t.chg = s.chg ∧ t.key = s.key ∧ t.nb = s.nb ∧ t.gph = s.gph ∧ t.berth = s.berth ∧ t.tbl = s.tbl ∧ t.rel = s.rel ∧ t.sec = s.sec

abbrev Keeps36 (s t : State) : Prop :=
  t.pending = s.pending ∧ t.out = s.out ∧ t.free = s.free ∧ t.tide = s.tide ∧ t.cat = s.cat ∧ t.cap = s.cap ∧ t.log = s.log ∧ t.rst = s.rst ∧ t.pwr = s.pwr ∧ t.strand = s.strand ∧ t.idx = s.idx ∧ t.qry = s.qry ∧ t.chg = s.chg ∧ t.mem = s.mem ∧ t.key = s.key ∧ t.coh = s.coh ∧ t.nb = s.nb ∧ t.flash = s.flash ∧ t.gph = s.gph ∧ t.tbl = s.tbl ∧ t.rel = s.rel ∧ t.sec = s.sec

abbrev Keeps37 (s t : State) : Prop :=
  t.pending = s.pending ∧ t.out = s.out ∧ t.free = s.free ∧ t.tide = s.tide ∧ t.cat = s.cat ∧ t.cap = s.cap ∧ t.log = s.log ∧ t.rst = s.rst ∧ t.pwr = s.pwr ∧ t.strand = s.strand ∧ t.host = s.host ∧ t.idx = s.idx ∧ t.chg = s.chg ∧ t.mem = s.mem ∧ t.key = s.key ∧ t.coh = s.coh ∧ t.nb = s.nb ∧ t.flash = s.flash ∧ t.gph = s.gph ∧ t.berth = s.berth ∧ t.tbl = s.tbl ∧ t.rel = s.rel ∧ t.sec = s.sec

abbrev Keeps38 (s t : State) : Prop :=
  t.pending = s.pending ∧ t.out = s.out ∧ t.free = s.free ∧ t.tide = s.tide ∧ t.cap = s.cap ∧ t.log = s.log ∧ t.rst = s.rst ∧ t.pwr = s.pwr ∧ t.strand = s.strand ∧ t.host = s.host ∧ t.idx = s.idx ∧ t.chg = s.chg ∧ t.mem = s.mem ∧ t.key = s.key ∧ t.coh = s.coh ∧ t.nb = s.nb ∧ t.gph = s.gph ∧ t.berth = s.berth ∧ t.tbl = s.tbl ∧ t.rel = s.rel ∧ t.sec = s.sec

abbrev Keeps41 (s t : State) : Prop :=
  t.pending = s.pending ∧ t.out = s.out ∧ t.free = s.free ∧ t.tide = s.tide ∧ t.cat = s.cat ∧ t.cap = s.cap ∧ t.log = s.log ∧ t.rst = s.rst ∧ t.pwr = s.pwr ∧ t.strand = s.strand ∧ t.host = s.host ∧ t.idx = s.idx ∧ t.qry = s.qry ∧ t.chg = s.chg ∧ t.mem = s.mem ∧ t.key = s.key ∧ t.coh = s.coh ∧ t.nb = s.nb ∧ t.flash = s.flash ∧ t.gph = s.gph ∧ t.berth = s.berth ∧ t.tbl = s.tbl ∧ t.sec = s.sec

abbrev Keeps42 (s t : State) : Prop :=
  t.pending = s.pending ∧ t.out = s.out ∧ t.free = s.free ∧ t.tide = s.tide ∧ t.cat = s.cat ∧ t.cap = s.cap ∧ t.log = s.log ∧ t.rst = s.rst ∧ t.pwr = s.pwr ∧ t.strand = s.strand ∧ t.host = s.host ∧ t.idx = s.idx ∧ t.chg = s.chg ∧ t.mem = s.mem ∧ t.key = s.key ∧ t.coh = s.coh ∧ t.nb = s.nb ∧ t.gph = s.gph ∧ t.berth = s.berth ∧ t.tbl = s.tbl ∧ t.rel = s.rel ∧ t.sec = s.sec

abbrev Keeps43 (s t : State) : Prop :=
  t.pending = s.pending ∧ t.free = s.free ∧ t.tide = s.tide ∧ t.cap = s.cap ∧ t.log = s.log ∧ t.rst = s.rst ∧ t.pwr = s.pwr ∧ t.strand = s.strand ∧ t.idx = s.idx ∧ t.chg = s.chg ∧ t.key = s.key ∧ t.nb = s.nb ∧ t.gph = s.gph ∧ t.berth = s.berth ∧ t.tbl = s.tbl ∧ t.rel = s.rel ∧ t.sec = s.sec

abbrev Keeps46 (s t : State) : Prop :=
  t.pending = s.pending ∧ t.free = s.free ∧ t.tide = s.tide ∧ t.cap = s.cap ∧ t.log = s.log ∧ t.rst = s.rst ∧ t.pwr = s.pwr ∧ t.strand = s.strand ∧ t.idx = s.idx ∧ t.qry = s.qry ∧ t.key = s.key ∧ t.nb = s.nb ∧ t.gph = s.gph ∧ t.berth = s.berth ∧ t.tbl = s.tbl ∧ t.rel = s.rel ∧ t.sec = s.sec

abbrev Keeps47 (s t : State) : Prop :=
  t.pending = s.pending ∧ t.free = s.free ∧ t.tide = s.tide ∧ t.cap = s.cap ∧ t.log = s.log ∧ t.rst = s.rst ∧ t.pwr = s.pwr ∧ t.idx = s.idx ∧ t.qry = s.qry ∧ t.key = s.key ∧ t.nb = s.nb ∧ t.gph = s.gph ∧ t.berth = s.berth ∧ t.tbl = s.tbl ∧ t.rel = s.rel ∧ t.sec = s.sec

abbrev Keeps48 (s t : State) : Prop :=
  t.pending = s.pending ∧ t.out = s.out ∧ t.free = s.free ∧ t.tide = s.tide ∧ t.cat = s.cat ∧ t.cap = s.cap ∧ t.log = s.log ∧ t.rst = s.rst ∧ t.pwr = s.pwr ∧ t.strand = s.strand ∧ t.host = s.host ∧ t.qry = s.qry ∧ t.chg = s.chg ∧ t.mem = s.mem ∧ t.key = s.key ∧ t.coh = s.coh ∧ t.nb = s.nb ∧ t.flash = s.flash ∧ t.gph = s.gph ∧ t.berth = s.berth ∧ t.tbl = s.tbl ∧ t.rel = s.rel ∧ t.sec = s.sec

abbrev Keeps49 (s t : State) : Prop :=
  t.pending = s.pending ∧ t.out = s.out ∧ t.free = s.free ∧ t.tide = s.tide ∧ t.cat = s.cat ∧ t.cap = s.cap ∧ t.log = s.log ∧ t.rst = s.rst ∧ t.pwr = s.pwr ∧ t.strand = s.strand ∧ t.host = s.host ∧ t.qry = s.qry ∧ t.chg = s.chg ∧ t.mem = s.mem ∧ t.key = s.key ∧ t.coh = s.coh ∧ t.nb = s.nb ∧ t.gph = s.gph ∧ t.berth = s.berth ∧ t.tbl = s.tbl ∧ t.rel = s.rel ∧ t.sec = s.sec

abbrev Keeps50 (s t : State) : Prop :=
  t.pending = s.pending ∧ t.out = s.out ∧ t.free = s.free ∧ t.tide = s.tide ∧ t.cat = s.cat ∧ t.cap = s.cap ∧ t.log = s.log ∧ t.rst = s.rst ∧ t.pwr = s.pwr ∧ t.strand = s.strand ∧ t.host = s.host ∧ t.idx = s.idx ∧ t.qry = s.qry ∧ t.mem = s.mem ∧ t.key = s.key ∧ t.coh = s.coh ∧ t.nb = s.nb ∧ t.flash = s.flash ∧ t.gph = s.gph ∧ t.berth = s.berth ∧ t.tbl = s.tbl ∧ t.rel = s.rel ∧ t.sec = s.sec

abbrev Keeps52 (s t : State) : Prop :=
  t.pending = s.pending ∧ t.out = s.out ∧ t.free = s.free ∧ t.tide = s.tide ∧ t.cat = s.cat ∧ t.cap = s.cap ∧ t.log = s.log ∧ t.rst = s.rst ∧ t.pwr = s.pwr ∧ t.strand = s.strand ∧ t.host = s.host ∧ t.qry = s.qry ∧ t.mem = s.mem ∧ t.key = s.key ∧ t.coh = s.coh ∧ t.nb = s.nb ∧ t.gph = s.gph ∧ t.berth = s.berth ∧ t.tbl = s.tbl ∧ t.rel = s.rel ∧ t.sec = s.sec

abbrev Keeps53 (s t : State) : Prop :=
  t.pending = s.pending ∧ t.free = s.free ∧ t.tide = s.tide ∧ t.cap = s.cap ∧ t.log = s.log ∧ t.rst = s.rst ∧ t.pwr = s.pwr ∧ t.qry = s.qry ∧ t.key = s.key ∧ t.nb = s.nb ∧ t.gph = s.gph ∧ t.berth = s.berth ∧ t.tbl = s.tbl ∧ t.rel = s.rel ∧ t.sec = s.sec

abbrev Keeps54 (s t : State) : Prop :=
  t.pending = s.pending ∧ t.out = s.out ∧ t.free = s.free ∧ t.tide = s.tide ∧ t.cat = s.cat ∧ t.cap = s.cap ∧ t.log = s.log ∧ t.rst = s.rst ∧ t.pwr = s.pwr ∧ t.host = s.host ∧ t.qry = s.qry ∧ t.chg = s.chg ∧ t.mem = s.mem ∧ t.key = s.key ∧ t.coh = s.coh ∧ t.nb = s.nb ∧ t.gph = s.gph ∧ t.berth = s.berth ∧ t.tbl = s.tbl ∧ t.rel = s.rel ∧ t.sec = s.sec

abbrev Keeps55 (s t : State) : Prop :=
  t.pending = s.pending ∧ t.out = s.out ∧ t.free = s.free ∧ t.tide = s.tide ∧ t.cat = s.cat ∧ t.cap = s.cap ∧ t.log = s.log ∧ t.rst = s.rst ∧ t.pwr = s.pwr ∧ t.host = s.host ∧ t.qry = s.qry ∧ t.chg = s.chg ∧ t.mem = s.mem ∧ t.key = s.key ∧ t.coh = s.coh ∧ t.nb = s.nb ∧ t.flash = s.flash ∧ t.gph = s.gph ∧ t.berth = s.berth ∧ t.tbl = s.tbl ∧ t.rel = s.rel ∧ t.sec = s.sec

abbrev Keeps56 (s t : State) : Prop :=
  t.pending = s.pending ∧ t.out = s.out ∧ t.free = s.free ∧ t.tide = s.tide ∧ t.cap = s.cap ∧ t.log = s.log ∧ t.rst = s.rst ∧ t.pwr = s.pwr ∧ t.strand = s.strand ∧ t.host = s.host ∧ t.qry = s.qry ∧ t.chg = s.chg ∧ t.mem = s.mem ∧ t.key = s.key ∧ t.coh = s.coh ∧ t.nb = s.nb ∧ t.gph = s.gph ∧ t.berth = s.berth ∧ t.tbl = s.tbl ∧ t.rel = s.rel ∧ t.sec = s.sec

abbrev Keeps57 (s t : State) : Prop :=
  t.pending = s.pending ∧ t.out = s.out ∧ t.free = s.free ∧ t.tide = s.tide ∧ t.cat = s.cat ∧ t.cap = s.cap ∧ t.log = s.log ∧ t.rst = s.rst ∧ t.pwr = s.pwr ∧ t.strand = s.strand ∧ t.host = s.host ∧ t.idx = s.idx ∧ t.qry = s.qry ∧ t.chg = s.chg ∧ t.mem = s.mem ∧ t.key = s.key ∧ t.coh = s.coh ∧ t.nb = s.nb ∧ t.flash = s.flash ∧ t.berth = s.berth ∧ t.tbl = s.tbl ∧ t.rel = s.rel ∧ t.sec = s.sec

abbrev Keeps58 (s t : State) : Prop :=
  t.pending = s.pending ∧ t.out = s.out ∧ t.free = s.free ∧ t.tide = s.tide ∧ t.cap = s.cap ∧ t.log = s.log ∧ t.rst = s.rst ∧ t.pwr = s.pwr ∧ t.strand = s.strand ∧ t.host = s.host ∧ t.idx = s.idx ∧ t.qry = s.qry ∧ t.chg = s.chg ∧ t.key = s.key ∧ t.coh = s.coh ∧ t.nb = s.nb ∧ t.flash = s.flash ∧ t.berth = s.berth ∧ t.tbl = s.tbl ∧ t.rel = s.rel ∧ t.sec = s.sec

abbrev Keeps59 (s t : State) : Prop :=
  t.pending = s.pending ∧ t.out = s.out ∧ t.free = s.free ∧ t.tide = s.tide ∧ t.cat = s.cat ∧ t.cap = s.cap ∧ t.log = s.log ∧ t.rst = s.rst ∧ t.pwr = s.pwr ∧ t.strand = s.strand ∧ t.host = s.host ∧ t.idx = s.idx ∧ t.qry = s.qry ∧ t.chg = s.chg ∧ t.key = s.key ∧ t.nb = s.nb ∧ t.tbl = s.tbl ∧ t.rel = s.rel ∧ t.sec = s.sec

abbrev Keeps62 (s t : State) : Prop :=
  t.pending = s.pending ∧ t.free = s.free ∧ t.tide = s.tide ∧ t.cap = s.cap ∧ t.log = s.log ∧ t.rst = s.rst ∧ t.pwr = s.pwr ∧ t.strand = s.strand ∧ t.idx = s.idx ∧ t.qry = s.qry ∧ t.chg = s.chg ∧ t.key = s.key ∧ t.nb = s.nb ∧ t.berth = s.berth ∧ t.tbl = s.tbl ∧ t.rel = s.rel ∧ t.sec = s.sec

abbrev Keeps63 (s t : State) : Prop :=
  t.pending = s.pending ∧ t.out = s.out ∧ t.free = s.free ∧ t.tide = s.tide ∧ t.cat = s.cat ∧ t.cap = s.cap ∧ t.log = s.log ∧ t.pwr = s.pwr ∧ t.strand = s.strand ∧ t.host = s.host ∧ t.idx = s.idx ∧ t.qry = s.qry ∧ t.chg = s.chg ∧ t.key = s.key ∧ t.coh = s.coh ∧ t.nb = s.nb ∧ t.flash = s.flash ∧ t.tbl = s.tbl ∧ t.rel = s.rel ∧ t.sec = s.sec

abbrev Keeps64 (s t : State) : Prop :=
  t.pending = s.pending ∧ t.tide = s.tide ∧ t.cap = s.cap ∧ t.log = s.log ∧ t.pwr = s.pwr ∧ t.idx = s.idx ∧ t.qry = s.qry ∧ t.chg = s.chg ∧ t.key = s.key ∧ t.nb = s.nb ∧ t.tbl = s.tbl ∧ t.rel = s.rel ∧ t.sec = s.sec

abbrev Keeps67 (s t : State) : Prop :=
  t.pending = s.pending ∧ t.out = s.out ∧ t.free = s.free ∧ t.tide = s.tide ∧ t.cat = s.cat ∧ t.cap = s.cap ∧ t.log = s.log ∧ t.rst = s.rst ∧ t.pwr = s.pwr ∧ t.strand = s.strand ∧ t.host = s.host ∧ t.idx = s.idx ∧ t.qry = s.qry ∧ t.chg = s.chg ∧ t.mem = s.mem ∧ t.key = s.key ∧ t.coh = s.coh ∧ t.nb = s.nb ∧ t.flash = s.flash ∧ t.gph = s.gph ∧ t.berth = s.berth ∧ t.rel = s.rel ∧ t.sec = s.sec

abbrev Keeps68 (s t : State) : Prop :=
  t.pending = s.pending ∧ t.out = s.out ∧ t.free = s.free ∧ t.tide = s.tide ∧ t.cap = s.cap ∧ t.log = s.log ∧ t.rst = s.rst ∧ t.pwr = s.pwr ∧ t.strand = s.strand ∧ t.host = s.host ∧ t.idx = s.idx ∧ t.qry = s.qry ∧ t.chg = s.chg ∧ t.key = s.key ∧ t.coh = s.coh ∧ t.nb = s.nb ∧ t.gph = s.gph ∧ t.berth = s.berth ∧ t.rel = s.rel ∧ t.sec = s.sec

abbrev Keeps69 (s t : State) : Prop :=
  t.pending = s.pending ∧ t.out = s.out ∧ t.free = s.free ∧ t.tide = s.tide ∧ t.cap = s.cap ∧ t.log = s.log ∧ t.rst = s.rst ∧ t.pwr = s.pwr ∧ t.strand = s.strand ∧ t.host = s.host ∧ t.idx = s.idx ∧ t.qry = s.qry ∧ t.chg = s.chg ∧ t.mem = s.mem ∧ t.key = s.key ∧ t.coh = s.coh ∧ t.nb = s.nb ∧ t.flash = s.flash ∧ t.gph = s.gph ∧ t.berth = s.berth ∧ t.rel = s.rel ∧ t.sec = s.sec

abbrev Keeps70 (s t : State) : Prop :=
  t.pending = s.pending ∧ t.out = s.out ∧ t.free = s.free ∧ t.tide = s.tide ∧ t.cap = s.cap ∧ t.log = s.log ∧ t.rst = s.rst ∧ t.pwr = s.pwr ∧ t.strand = s.strand ∧ t.host = s.host ∧ t.idx = s.idx ∧ t.qry = s.qry ∧ t.chg = s.chg ∧ t.key = s.key ∧ t.nb = s.nb ∧ t.gph = s.gph ∧ t.berth = s.berth ∧ t.rel = s.rel ∧ t.sec = s.sec

abbrev Keeps71 (s t : State) : Prop :=
  t.pending = s.pending ∧ t.out = s.out ∧ t.free = s.free ∧ t.tide = s.tide ∧ t.cap = s.cap ∧ t.log = s.log ∧ t.rst = s.rst ∧ t.pwr = s.pwr ∧ t.host = s.host ∧ t.idx = s.idx ∧ t.qry = s.qry ∧ t.chg = s.chg ∧ t.key = s.key ∧ t.nb = s.nb ∧ t.gph = s.gph ∧ t.berth = s.berth ∧ t.rel = s.rel ∧ t.sec = s.sec

abbrev Keeps72 (s t : State) : Prop :=
  t.pending = s.pending ∧ t.free = s.free ∧ t.tide = s.tide ∧ t.cap = s.cap ∧ t.log = s.log ∧ t.rst = s.rst ∧ t.pwr = s.pwr ∧ t.strand = s.strand ∧ t.idx = s.idx ∧ t.qry = s.qry ∧ t.chg = s.chg ∧ t.key = s.key ∧ t.nb = s.nb ∧ t.gph = s.gph ∧ t.berth = s.berth ∧ t.rel = s.rel ∧ t.sec = s.sec

abbrev Keeps73 (s t : State) : Prop :=
  t.pending = s.pending ∧ t.free = s.free ∧ t.tide = s.tide ∧ t.cap = s.cap ∧ t.log = s.log ∧ t.rst = s.rst ∧ t.pwr = s.pwr ∧ t.idx = s.idx ∧ t.qry = s.qry ∧ t.chg = s.chg ∧ t.key = s.key ∧ t.nb = s.nb ∧ t.gph = s.gph ∧ t.berth = s.berth ∧ t.rel = s.rel ∧ t.sec = s.sec

abbrev Keeps74 (s t : State) : Prop :=
  t.pending = s.pending ∧ t.out = s.out ∧ t.free = s.free ∧ t.tide = s.tide ∧ t.cat = s.cat ∧ t.cap = s.cap ∧ t.log = s.log ∧ t.rst = s.rst ∧ t.pwr = s.pwr ∧ t.host = s.host ∧ t.idx = s.idx ∧ t.qry = s.qry ∧ t.chg = s.chg ∧ t.mem = s.mem ∧ t.key = s.key ∧ t.coh = s.coh ∧ t.nb = s.nb ∧ t.flash = s.flash ∧ t.gph = s.gph ∧ t.berth = s.berth ∧ t.rel = s.rel ∧ t.sec = s.sec

abbrev Keeps75 (s t : State) : Prop :=
  t.pending = s.pending ∧ t.out = s.out ∧ t.free = s.free ∧ t.tide = s.tide ∧ t.cap = s.cap ∧ t.log = s.log ∧ t.rst = s.rst ∧ t.pwr = s.pwr ∧ t.host = s.host ∧ t.idx = s.idx ∧ t.qry = s.qry ∧ t.chg = s.chg ∧ t.key = s.key ∧ t.coh = s.coh ∧ t.nb = s.nb ∧ t.gph = s.gph ∧ t.berth = s.berth ∧ t.rel = s.rel ∧ t.sec = s.sec

abbrev Keeps76 (s t : State) : Prop :=
  t.pending = s.pending ∧ t.out = s.out ∧ t.free = s.free ∧ t.tide = s.tide ∧ t.cap = s.cap ∧ t.log = s.log ∧ t.rst = s.rst ∧ t.pwr = s.pwr ∧ t.host = s.host ∧ t.idx = s.idx ∧ t.qry = s.qry ∧ t.chg = s.chg ∧ t.key = s.key ∧ t.nb = s.nb ∧ t.gph = s.gph ∧ t.berth = s.berth ∧ t.tbl = s.tbl ∧ t.rel = s.rel ∧ t.sec = s.sec

abbrev Keeps77 (s t : State) : Prop :=
  t.pending = s.pending ∧ t.out = s.out ∧ t.free = s.free ∧ t.tide = s.tide ∧ t.cap = s.cap ∧ t.log = s.log ∧ t.rst = s.rst ∧ t.pwr = s.pwr ∧ t.host = s.host ∧ t.idx = s.idx ∧ t.qry = s.qry ∧ t.chg = s.chg ∧ t.key = s.key ∧ t.nb = s.nb ∧ t.gph = s.gph ∧ t.tbl = s.tbl ∧ t.rel = s.rel ∧ t.sec = s.sec

abbrev Keeps79 (s t : State) : Prop :=
  t.pending = s.pending ∧ t.out = s.out ∧ t.free = s.free ∧ t.tide = s.tide ∧ t.cat = s.cat ∧ t.cap = s.cap ∧ t.log = s.log ∧ t.rst = s.rst ∧ t.pwr = s.pwr ∧ t.strand = s.strand ∧ t.host = s.host ∧ t.idx = s.idx ∧ t.qry = s.qry ∧ t.chg = s.chg ∧ t.mem = s.mem ∧ t.key = s.key ∧ t.coh = s.coh ∧ t.flash = s.flash ∧ t.gph = s.gph ∧ t.berth = s.berth ∧ t.tbl = s.tbl ∧ t.rel = s.rel ∧ t.sec = s.sec

abbrev Keeps80 (s t : State) : Prop :=
  t.pending = s.pending ∧ t.out = s.out ∧ t.free = s.free ∧ t.tide = s.tide ∧ t.cap = s.cap ∧ t.log = s.log ∧ t.rst = s.rst ∧ t.pwr = s.pwr ∧ t.strand = s.strand ∧ t.host = s.host ∧ t.idx = s.idx ∧ t.qry = s.qry ∧ t.chg = s.chg ∧ t.key = s.key ∧ t.coh = s.coh ∧ t.gph = s.gph ∧ t.berth = s.berth ∧ t.tbl = s.tbl ∧ t.rel = s.rel ∧ t.sec = s.sec

abbrev Keeps81 (s t : State) : Prop :=
  t.pending = s.pending ∧ t.out = s.out ∧ t.tide = s.tide ∧ t.cap = s.cap ∧ t.log = s.log ∧ t.rst = s.rst ∧ t.pwr = s.pwr ∧ t.strand = s.strand ∧ t.host = s.host ∧ t.idx = s.idx ∧ t.qry = s.qry ∧ t.chg = s.chg ∧ t.key = s.key ∧ t.gph = s.gph ∧ t.berth = s.berth ∧ t.tbl = s.tbl ∧ t.rel = s.rel ∧ t.sec = s.sec

abbrev Keeps82 (s t : State) : Prop :=
  t.pending = s.pending ∧ t.out = s.out ∧ t.free = s.free ∧ t.tide = s.tide ∧ t.cat = s.cat ∧ t.cap = s.cap ∧ t.log = s.log ∧ t.rst = s.rst ∧ t.pwr = s.pwr ∧ t.strand = s.strand ∧ t.host = s.host ∧ t.idx = s.idx ∧ t.qry = s.qry ∧ t.chg = s.chg ∧ t.mem = s.mem ∧ t.key = s.key ∧ t.nb = s.nb ∧ t.flash = s.flash ∧ t.gph = s.gph ∧ t.berth = s.berth ∧ t.tbl = s.tbl ∧ t.rel = s.rel ∧ t.sec = s.sec

abbrev Keeps83 (s t : State) : Prop :=
  t.pending = s.pending ∧ t.out = s.out ∧ t.tide = s.tide ∧ t.cap = s.cap ∧ t.log = s.log ∧ t.rst = s.rst ∧ t.pwr = s.pwr ∧ t.strand = s.strand ∧ t.host = s.host ∧ t.idx = s.idx ∧ t.qry = s.qry ∧ t.chg = s.chg ∧ t.mem = s.mem ∧ t.key = s.key ∧ t.nb = s.nb ∧ t.flash = s.flash ∧ t.gph = s.gph ∧ t.berth = s.berth ∧ t.tbl = s.tbl ∧ t.rel = s.rel ∧ t.sec = s.sec

abbrev Keeps84 (s t : State) : Prop :=
  t.pending = s.pending ∧ t.out = s.out ∧ t.free = s.free ∧ t.tide = s.tide ∧ t.cap = s.cap ∧ t.log = s.log ∧ t.rst = s.rst ∧ t.pwr = s.pwr ∧ t.strand = s.strand ∧ t.host = s.host ∧ t.idx = s.idx ∧ t.qry = s.qry ∧ t.chg = s.chg ∧ t.mem = s.mem ∧ t.key = s.key ∧ t.nb = s.nb ∧ t.flash = s.flash ∧ t.gph = s.gph ∧ t.berth = s.berth ∧ t.tbl = s.tbl ∧ t.rel = s.rel ∧ t.sec = s.sec

abbrev Keeps85 (s t : State) : Prop :=
  t.pending = s.pending ∧ t.out = s.out ∧ t.tide = s.tide ∧ t.cap = s.cap ∧ t.log = s.log ∧ t.rst = s.rst ∧ t.pwr = s.pwr ∧ t.strand = s.strand ∧ t.host = s.host ∧ t.idx = s.idx ∧ t.qry = s.qry ∧ t.chg = s.chg ∧ t.key = s.key ∧ t.nb = s.nb ∧ t.gph = s.gph ∧ t.berth = s.berth ∧ t.tbl = s.tbl ∧ t.rel = s.rel ∧ t.sec = s.sec

abbrev Keeps86 (s t : State) : Prop :=
  t.pending = s.pending ∧ t.out = s.out ∧ t.free = s.free ∧ t.tide = s.tide ∧ t.cap = s.cap ∧ t.log = s.log ∧ t.pwr = s.pwr ∧ t.strand = s.strand ∧ t.host = s.host ∧ t.idx = s.idx ∧ t.qry = s.qry ∧ t.chg = s.chg ∧ t.mem = s.mem ∧ t.key = s.key ∧ t.coh = s.coh ∧ t.nb = s.nb ∧ t.flash = s.flash ∧ t.gph = s.gph ∧ t.berth = s.berth ∧ t.tbl = s.tbl ∧ t.rel = s.rel ∧ t.sec = s.sec

abbrev Keeps87 (s t : State) : Prop :=
  t.pending = s.pending ∧ t.free = s.free ∧ t.tide = s.tide ∧ t.cap = s.cap ∧ t.log = s.log ∧ t.rst = s.rst ∧ t.pwr = s.pwr ∧ t.strand = s.strand ∧ t.host = s.host ∧ t.idx = s.idx ∧ t.qry = s.qry ∧ t.chg = s.chg ∧ t.mem = s.mem ∧ t.key = s.key ∧ t.coh = s.coh ∧ t.nb = s.nb ∧ t.flash = s.flash ∧ t.gph = s.gph ∧ t.berth = s.berth ∧ t.tbl = s.tbl ∧ t.rel = s.rel ∧ t.sec = s.sec

abbrev Keeps88 (s t : State) : Prop :=
  t.pending = s.pending ∧ t.free = s.free ∧ t.tide = s.tide ∧ t.cap = s.cap ∧ t.rst = s.rst ∧ t.pwr = s.pwr ∧ t.strand = s.strand ∧ t.idx = s.idx ∧ t.qry = s.qry ∧ t.chg = s.chg ∧ t.key = s.key ∧ t.coh = s.coh ∧ t.nb = s.nb ∧ t.gph = s.gph ∧ t.berth = s.berth ∧ t.tbl = s.tbl ∧ t.rel = s.rel ∧ t.sec = s.sec

abbrev Keeps89 (s t : State) : Prop :=
  t.pending = s.pending ∧ t.free = s.free ∧ t.tide = s.tide ∧ t.cap = s.cap ∧ t.rst = s.rst ∧ t.pwr = s.pwr ∧ t.strand = s.strand ∧ t.idx = s.idx ∧ t.qry = s.qry ∧ t.chg = s.chg ∧ t.key = s.key ∧ t.nb = s.nb ∧ t.gph = s.gph ∧ t.berth = s.berth ∧ t.tbl = s.tbl ∧ t.rel = s.rel ∧ t.sec = s.sec

abbrev Keeps90 (s t : State) : Prop :=
  t.pending = s.pending ∧ t.out = s.out ∧ t.free = s.free ∧ t.tide = s.tide ∧ t.cap = s.cap ∧ t.log = s.log ∧ t.rst = s.rst ∧ t.pwr = s.pwr ∧ t.strand = s.strand ∧ t.idx = s.idx ∧ t.qry = s.qry ∧ t.chg = s.chg ∧ t.key = s.key ∧ t.nb = s.nb ∧ t.gph = s.gph ∧ t.berth = s.berth ∧ t.tbl = s.tbl ∧ t.rel = s.rel ∧ t.sec = s.sec

abbrev Keeps91 (s t : State) : Prop :=
  t.pending = s.pending ∧ t.free = s.free ∧ t.tide = s.tide ∧ t.cap = s.cap ∧ t.pwr = s.pwr ∧ t.strand = s.strand ∧ t.idx = s.idx ∧ t.qry = s.qry ∧ t.chg = s.chg ∧ t.key = s.key ∧ t.nb = s.nb ∧ t.gph = s.gph ∧ t.berth = s.berth ∧ t.tbl = s.tbl ∧ t.rel = s.rel ∧ t.sec = s.sec

abbrev Keeps92 (s t : State) : Prop :=
  t.pending = s.pending ∧ t.tide = s.tide ∧ t.cap = s.cap ∧ t.rst = s.rst ∧ t.pwr = s.pwr ∧ t.strand = s.strand ∧ t.idx = s.idx ∧ t.qry = s.qry ∧ t.chg = s.chg ∧ t.mem = s.mem ∧ t.key = s.key ∧ t.coh = s.coh ∧ t.nb = s.nb ∧ t.flash = s.flash ∧ t.gph = s.gph ∧ t.berth = s.berth ∧ t.tbl = s.tbl ∧ t.rel = s.rel ∧ t.sec = s.sec

abbrev Keeps93 (s t : State) : Prop :=
  t.pending = s.pending ∧ t.out = s.out ∧ t.free = s.free ∧ t.tide = s.tide ∧ t.cat = s.cat ∧ t.cap = s.cap ∧ t.log = s.log ∧ t.rst = s.rst ∧ t.pwr = s.pwr ∧ t.strand = s.strand ∧ t.host = s.host ∧ t.idx = s.idx ∧ t.qry = s.qry ∧ t.chg = s.chg ∧ t.mem = s.mem ∧ t.coh = s.coh ∧ t.nb = s.nb ∧ t.flash = s.flash ∧ t.gph = s.gph ∧ t.berth = s.berth ∧ t.tbl = s.tbl ∧ t.rel = s.rel ∧ t.sec = s.sec

abbrev Keeps94 (s t : State) : Prop :=
  t.pending = s.pending ∧ t.free = s.free ∧ t.tide = s.tide ∧ t.cap = s.cap ∧ t.log = s.log ∧ t.rst = s.rst ∧ t.pwr = s.pwr ∧ t.strand = s.strand ∧ t.idx = s.idx ∧ t.chg = s.chg ∧ t.key = s.key ∧ t.nb = s.nb ∧ t.berth = s.berth ∧ t.tbl = s.tbl ∧ t.rel = s.rel ∧ t.sec = s.sec

abbrev Keeps95 (s t : State) : Prop :=
  t.pending = s.pending ∧ t.out = s.out ∧ t.free = s.free ∧ t.tide = s.tide ∧ t.cap = s.cap ∧ t.log = s.log ∧ t.rst = s.rst ∧ t.pwr = s.pwr ∧ t.strand = s.strand ∧ t.host = s.host ∧ t.idx = s.idx ∧ t.qry = s.qry ∧ t.chg = s.chg ∧ t.mem = s.mem ∧ t.key = s.key ∧ t.coh = s.coh ∧ t.flash = s.flash ∧ t.gph = s.gph ∧ t.berth = s.berth ∧ t.tbl = s.tbl ∧ t.rel = s.rel ∧ t.sec = s.sec

abbrev Keeps96 (s t : State) : Prop :=
  t.pending = s.pending ∧ t.free = s.free ∧ t.tide = s.tide ∧ t.cap = s.cap ∧ t.log = s.log ∧ t.rst = s.rst ∧ t.pwr = s.pwr ∧ t.strand = s.strand ∧ t.idx = s.idx ∧ t.qry = s.qry ∧ t.chg = s.chg ∧ t.nb = s.nb ∧ t.tbl = s.tbl ∧ t.rel = s.rel ∧ t.sec = s.sec

abbrev Keeps97 (s t : State) : Prop :=
  t.pending = s.pending ∧ t.out = s.out ∧ t.free = s.free ∧ t.tide = s.tide ∧ t.cap = s.cap ∧ t.log = s.log ∧ t.rst = s.rst ∧ t.pwr = s.pwr ∧ t.strand = s.strand ∧ t.host = s.host ∧ t.idx = s.idx ∧ t.qry = s.qry ∧ t.chg = s.chg ∧ t.key = s.key ∧ t.nb = s.nb ∧ t.flash = s.flash ∧ t.gph = s.gph ∧ t.berth = s.berth ∧ t.tbl = s.tbl ∧ t.sec = s.sec

abbrev Keeps98 (s t : State) : Prop :=
  t.pending = s.pending ∧ t.out = s.out ∧ t.free = s.free ∧ t.tide = s.tide ∧ t.cat = s.cat ∧ t.cap = s.cap ∧ t.log = s.log ∧ t.rst = s.rst ∧ t.pwr = s.pwr ∧ t.strand = s.strand ∧ t.host = s.host ∧ t.idx = s.idx ∧ t.qry = s.qry ∧ t.chg = s.chg ∧ t.key = s.key ∧ t.coh = s.coh ∧ t.nb = s.nb ∧ t.flash = s.flash ∧ t.berth = s.berth ∧ t.tbl = s.tbl ∧ t.rel = s.rel ∧ t.sec = s.sec

abbrev Keeps99 (s t : State) : Prop :=
  t.pending = s.pending ∧ t.out = s.out ∧ t.free = s.free ∧ t.tide = s.tide ∧ t.cap = s.cap ∧ t.log = s.log ∧ t.rst = s.rst ∧ t.pwr = s.pwr ∧ t.strand = s.strand ∧ t.host = s.host ∧ t.idx = s.idx ∧ t.qry = s.qry ∧ t.chg = s.chg ∧ t.key = s.key ∧ t.nb = s.nb ∧ t.flash = s.flash ∧ t.berth = s.berth ∧ t.tbl = s.tbl ∧ t.rel = s.rel ∧ t.sec = s.sec

abbrev Keeps101 (s t : State) : Prop :=
  t.pending = s.pending ∧ t.free = s.free ∧ t.tide = s.tide ∧ t.cap = s.cap ∧ t.log = s.log ∧ t.rst = s.rst ∧ t.pwr = s.pwr ∧ t.host = s.host ∧ t.idx = s.idx ∧ t.qry = s.qry ∧ t.chg = s.chg ∧ t.mem = s.mem ∧ t.key = s.key ∧ t.coh = s.coh ∧ t.nb = s.nb ∧ t.flash = s.flash ∧ t.gph = s.gph ∧ t.berth = s.berth ∧ t.tbl = s.tbl ∧ t.sec = s.sec

abbrev Keeps103 (s t : State) : Prop :=
  t.pending = s.pending ∧ t.free = s.free ∧ t.tide = s.tide ∧ t.cap = s.cap ∧ t.log = s.log ∧ t.rst = s.rst ∧ t.pwr = s.pwr ∧ t.host = s.host ∧ t.qry = s.qry ∧ t.chg = s.chg ∧ t.key = s.key ∧ t.tbl = s.tbl ∧ t.sec = s.sec

abbrev Keeps104 (s t : State) : Prop :=
  t.pending = s.pending ∧ t.out = s.out ∧ t.free = s.free ∧ t.tide = s.tide ∧ t.cap = s.cap ∧ t.rst = s.rst ∧ t.pwr = s.pwr ∧ t.strand = s.strand ∧ t.host = s.host ∧ t.idx = s.idx ∧ t.qry = s.qry ∧ t.chg = s.chg ∧ t.mem = s.mem ∧ t.key = s.key ∧ t.coh = s.coh ∧ t.nb = s.nb ∧ t.flash = s.flash ∧ t.gph = s.gph ∧ t.berth = s.berth ∧ t.tbl = s.tbl ∧ t.sec = s.sec

abbrev Keeps106 (s t : State) : Prop :=
  t.pending = s.pending ∧ t.tide = s.tide ∧ t.cat = s.cat ∧ t.cap = s.cap ∧ t.log = s.log ∧ t.rst = s.rst ∧ t.pwr = s.pwr ∧ t.host = s.host ∧ t.idx = s.idx ∧ t.qry = s.qry ∧ t.chg = s.chg ∧ t.mem = s.mem ∧ t.key = s.key ∧ t.coh = s.coh ∧ t.nb = s.nb ∧ t.flash = s.flash ∧ t.gph = s.gph ∧ t.berth = s.berth ∧ t.tbl = s.tbl ∧ t.sec = s.sec

abbrev Keeps107 (s t : State) : Prop :=
  t.pending = s.pending ∧ t.tide = s.tide ∧ t.cap = s.cap ∧ t.rst = s.rst ∧ t.pwr = s.pwr ∧ t.host = s.host ∧ t.qry = s.qry ∧ t.chg = s.chg ∧ t.key = s.key ∧ t.tbl = s.tbl ∧ t.sec = s.sec

abbrev Keeps108 (s t : State) : Prop :=
  t.pending = s.pending ∧ t.out = s.out ∧ t.free = s.free ∧ t.tide = s.tide ∧ t.cap = s.cap ∧ t.rst = s.rst ∧ t.pwr = s.pwr ∧ t.strand = s.strand ∧ t.host = s.host ∧ t.idx = s.idx ∧ t.qry = s.qry ∧ t.chg = s.chg ∧ t.mem = s.mem ∧ t.key = s.key ∧ t.nb = s.nb ∧ t.flash = s.flash ∧ t.gph = s.gph ∧ t.berth = s.berth ∧ t.tbl = s.tbl ∧ t.rel = s.rel ∧ t.sec = s.sec

abbrev Keeps109 (s t : State) : Prop :=
  t.pending = s.pending ∧ t.out = s.out ∧ t.free = s.free ∧ t.tide = s.tide ∧ t.cap = s.cap ∧ t.rst = s.rst ∧ t.pwr = s.pwr ∧ t.strand = s.strand ∧ t.host = s.host ∧ t.idx = s.idx ∧ t.qry = s.qry ∧ t.chg = s.chg ∧ t.key = s.key ∧ t.nb = s.nb ∧ t.flash = s.flash ∧ t.gph = s.gph ∧ t.berth = s.berth ∧ t.tbl = s.tbl ∧ t.rel = s.rel ∧ t.sec = s.sec

abbrev Keeps110 (s t : State) : Prop :=
  t.pending = s.pending ∧ t.out = s.out ∧ t.tide = s.tide ∧ t.cat = s.cat ∧ t.cap = s.cap ∧ t.log = s.log ∧ t.rst = s.rst ∧ t.pwr = s.pwr ∧ t.strand = s.strand ∧ t.host = s.host ∧ t.idx = s.idx ∧ t.qry = s.qry ∧ t.chg = s.chg ∧ t.mem = s.mem ∧ t.coh = s.coh ∧ t.nb = s.nb ∧ t.flash = s.flash ∧ t.gph = s.gph ∧ t.berth = s.berth ∧ t.tbl = s.tbl ∧ t.rel = s.rel ∧ t.sec = s.sec

abbrev Keeps111 (s t : State) : Prop :=
  t.pending = s.pending ∧ t.tide = s.tide ∧ t.cap = s.cap ∧ t.pwr = s.pwr

abbrev Keeps112 (s t : State) : Prop :=
  t.pending = s.pending ∧ t.out = s.out ∧ t.free = s.free ∧ t.tide = s.tide ∧ t.cap = s.cap ∧ t.log = s.log ∧ t.rst = s.rst ∧ t.pwr = s.pwr ∧ t.strand = s.strand ∧ t.host = s.host ∧ t.idx = s.idx ∧ t.qry = s.qry ∧ t.chg = s.chg ∧ t.mem = s.mem ∧ t.key = s.key ∧ t.coh = s.coh ∧ t.nb = s.nb ∧ t.flash = s.flash ∧ t.gph = s.gph ∧ t.berth = s.berth ∧ t.tbl = s.tbl ∧ t.rel = s.rel

abbrev Keeps114 (s t : State) : Prop :=
  t.pending = s.pending ∧ t.out = s.out ∧ t.free = s.free ∧ t.tide = s.tide ∧ t.cap = s.cap ∧ t.log = s.log ∧ t.rst = s.rst ∧ t.pwr = s.pwr ∧ t.host = s.host ∧ t.idx = s.idx ∧ t.qry = s.qry ∧ t.chg = s.chg ∧ t.key = s.key ∧ t.coh = s.coh ∧ t.nb = s.nb ∧ t.gph = s.gph ∧ t.tbl = s.tbl ∧ t.rel = s.rel ∧ t.sec = s.sec

abbrev Keeps115 (s t : State) : Prop :=
  t.pending = s.pending ∧ t.out = s.out ∧ t.tide = s.tide ∧ t.cap = s.cap ∧ t.log = s.log ∧ t.rst = s.rst ∧ t.pwr = s.pwr ∧ t.strand = s.strand ∧ t.host = s.host ∧ t.idx = s.idx ∧ t.qry = s.qry ∧ t.chg = s.chg ∧ t.mem = s.mem ∧ t.key = s.key ∧ t.coh = s.coh ∧ t.nb = s.nb ∧ t.flash = s.flash ∧ t.gph = s.gph ∧ t.tbl = s.tbl ∧ t.rel = s.rel ∧ t.sec = s.sec

abbrev Keeps116 (s t : State) : Prop :=
  t.pending = s.pending ∧ t.free = s.free ∧ t.tide = s.tide ∧ t.cap = s.cap ∧ t.rst = s.rst ∧ t.pwr = s.pwr ∧ t.qry = s.qry ∧ t.key = s.key ∧ t.nb = s.nb ∧ t.gph = s.gph ∧ t.berth = s.berth ∧ t.tbl = s.tbl ∧ t.rel = s.rel ∧ t.sec = s.sec

abbrev Keeps117 (s t : State) : Prop :=
  t.pending = s.pending ∧ t.out = s.out ∧ t.free = s.free ∧ t.tide = s.tide ∧ t.cap = s.cap ∧ t.log = s.log ∧ t.rst = s.rst ∧ t.pwr = s.pwr ∧ t.host = s.host ∧ t.idx = s.idx ∧ t.qry = s.qry ∧ t.chg = s.chg ∧ t.mem = s.mem ∧ t.key = s.key ∧ t.coh = s.coh ∧ t.nb = s.nb ∧ t.flash = s.flash ∧ t.gph = s.gph ∧ t.berth = s.berth ∧ t.rel = s.rel ∧ t.sec = s.sec

abbrev Keeps119 (s t : State) : Prop :=
  t.pending = s.pending ∧ t.out = s.out ∧ t.free = s.free ∧ t.tide = s.tide ∧ t.cat = s.cat ∧ t.cap = s.cap ∧ t.log = s.log ∧ t.rst = s.rst ∧ t.pwr = s.pwr ∧ t.host = s.host ∧ t.idx = s.idx ∧ t.qry = s.qry ∧ t.chg = s.chg ∧ t.mem = s.mem ∧ t.key = s.key ∧ t.coh = s.coh ∧ t.nb = s.nb ∧ t.flash = s.flash ∧ t.berth = s.berth ∧ t.rel = s.rel ∧ t.sec = s.sec

abbrev Keeps120 (s t : State) : Prop :=
  t.pending = s.pending ∧ t.out = s.out ∧ t.free = s.free ∧ t.tide = s.tide ∧ t.cat = s.cat ∧ t.log = s.log ∧ t.rst = s.rst ∧ t.pwr = s.pwr ∧ t.strand = s.strand ∧ t.host = s.host ∧ t.idx = s.idx ∧ t.qry = s.qry ∧ t.chg = s.chg ∧ t.mem = s.mem ∧ t.key = s.key ∧ t.coh = s.coh ∧ t.nb = s.nb ∧ t.flash = s.flash ∧ t.gph = s.gph ∧ t.berth = s.berth ∧ t.tbl = s.tbl ∧ t.rel = s.rel ∧ t.sec = s.sec

abbrev Keeps121 (s t : State) : Prop :=
  t.pending = s.pending ∧ t.out = s.out ∧ t.free = s.free ∧ t.tide = s.tide ∧ t.log = s.log ∧ t.rst = s.rst ∧ t.pwr = s.pwr ∧ t.strand = s.strand ∧ t.host = s.host ∧ t.idx = s.idx ∧ t.qry = s.qry ∧ t.chg = s.chg ∧ t.mem = s.mem ∧ t.key = s.key ∧ t.coh = s.coh ∧ t.nb = s.nb ∧ t.flash = s.flash ∧ t.gph = s.gph ∧ t.berth = s.berth ∧ t.tbl = s.tbl ∧ t.rel = s.rel

abbrev Keeps122 (s t : State) : Prop :=
  t.pending = s.pending ∧ t.out = s.out ∧ t.free = s.free ∧ t.tide = s.tide ∧ t.log = s.log ∧ t.rst = s.rst ∧ t.pwr = s.pwr ∧ t.strand = s.strand ∧ t.host = s.host ∧ t.idx = s.idx ∧ t.qry = s.qry ∧ t.chg = s.chg ∧ t.mem = s.mem ∧ t.key = s.key ∧ t.coh = s.coh ∧ t.nb = s.nb ∧ t.flash = s.flash ∧ t.gph = s.gph ∧ t.berth = s.berth ∧ t.rel = s.rel

abbrev Keeps123 (s t : State) : Prop :=
  t.pending = s.pending ∧ t.tide = s.tide ∧ t.cap = s.cap ∧ t.rst = s.rst ∧ t.pwr = s.pwr ∧ t.host = s.host ∧ t.idx = s.idx ∧ t.qry = s.qry ∧ t.chg = s.chg ∧ t.mem = s.mem ∧ t.key = s.key ∧ t.coh = s.coh ∧ t.nb = s.nb ∧ t.flash = s.flash ∧ t.gph = s.gph ∧ t.berth = s.berth ∧ t.tbl = s.tbl ∧ t.sec = s.sec

abbrev Keeps124 (s t : State) : Prop :=
  t.pending = s.pending ∧ t.tide = s.tide ∧ t.pwr = s.pwr

abbrev Keeps126 (s t : State) : Prop :=
  t.pending = s.pending ∧ t.out = s.out ∧ t.tide = s.tide ∧ t.cap = s.cap ∧ t.log = s.log ∧ t.rst = s.rst ∧ t.pwr = s.pwr ∧ t.strand = s.strand ∧ t.host = s.host ∧ t.idx = s.idx ∧ t.qry = s.qry ∧ t.chg = s.chg ∧ t.mem = s.mem ∧ t.key = s.key ∧ t.coh = s.coh ∧ t.nb = s.nb ∧ t.flash = s.flash ∧ t.gph = s.gph ∧ t.berth = s.berth ∧ t.tbl = s.tbl ∧ t.rel = s.rel ∧ t.sec = s.sec

abbrev Keeps127 (s t : State) : Prop :=
  t.pending = s.pending ∧ t.out = s.out ∧ t.free = s.free ∧ t.tide = s.tide ∧ t.cat = s.cat ∧ t.cap = s.cap ∧ t.rst = s.rst ∧ t.pwr = s.pwr ∧ t.strand = s.strand ∧ t.host = s.host ∧ t.idx = s.idx ∧ t.qry = s.qry ∧ t.chg = s.chg ∧ t.mem = s.mem ∧ t.key = s.key ∧ t.coh = s.coh ∧ t.nb = s.nb ∧ t.flash = s.flash ∧ t.gph = s.gph ∧ t.berth = s.berth ∧ t.tbl = s.tbl ∧ t.rel = s.rel ∧ t.sec = s.sec

abbrev Keeps128 (s t : State) : Prop :=
  t.pending = s.pending ∧ t.out = s.out ∧ t.tide = s.tide ∧ t.cap = s.cap ∧ t.rst = s.rst ∧ t.pwr = s.pwr ∧ t.strand = s.strand ∧ t.host = s.host ∧ t.idx = s.idx ∧ t.qry = s.qry ∧ t.chg = s.chg ∧ t.mem = s.mem ∧ t.key = s.key ∧ t.coh = s.coh ∧ t.nb = s.nb ∧ t.flash = s.flash ∧ t.gph = s.gph ∧ t.berth = s.berth ∧ t.tbl = s.tbl ∧ t.rel = s.rel ∧ t.sec = s.sec

abbrev Keeps129 (s t : State) : Prop :=
  t.pending = s.pending ∧ t.out = s.out ∧ t.tide = s.tide ∧ t.rst = s.rst ∧ t.pwr = s.pwr ∧ t.strand = s.strand ∧ t.host = s.host ∧ t.idx = s.idx ∧ t.qry = s.qry ∧ t.chg = s.chg ∧ t.mem = s.mem ∧ t.key = s.key ∧ t.coh = s.coh ∧ t.nb = s.nb ∧ t.flash = s.flash ∧ t.gph = s.gph ∧ t.berth = s.berth ∧ t.tbl = s.tbl ∧ t.rel = s.rel ∧ t.sec = s.sec

abbrev Keeps130 (s t : State) : Prop :=
  t.pending = s.pending ∧ t.out = s.out ∧ t.free = s.free ∧ t.tide = s.tide ∧ t.rst = s.rst ∧ t.pwr = s.pwr ∧ t.strand = s.strand ∧ t.host = s.host ∧ t.idx = s.idx ∧ t.qry = s.qry ∧ t.chg = s.chg ∧ t.mem = s.mem ∧ t.key = s.key ∧ t.coh = s.coh ∧ t.nb = s.nb ∧ t.flash = s.flash ∧ t.gph = s.gph ∧ t.berth = s.berth ∧ t.tbl = s.tbl ∧ t.sec = s.sec

abbrev Keeps131 (s t : State) : Prop :=
  t.pending = s.pending ∧ t.out = s.out ∧ t.free = s.free ∧ t.tide = s.tide ∧ t.cat = s.cat ∧ t.cap = s.cap ∧ t.log = s.log ∧ t.rst = s.rst ∧ t.pwr = s.pwr ∧ t.strand = s.strand ∧ t.host = s.host ∧ t.idx = s.idx ∧ t.qry = s.qry ∧ t.chg = s.chg ∧ t.mem = s.mem ∧ t.key = s.key ∧ t.coh = s.coh ∧ t.nb = s.nb ∧ t.flash = s.flash ∧ t.gph = s.gph ∧ t.berth = s.berth ∧ t.tbl = s.tbl ∧ t.rel = s.rel ∧ t.sec = s.sec

abbrev Keeps132 (s t : State) : Prop :=
  t.pending = s.pending ∧ t.free = s.free ∧ t.tide = s.tide ∧ t.log = s.log ∧ t.rst = s.rst ∧ t.pwr = s.pwr ∧ t.strand = s.strand ∧ t.host = s.host ∧ t.idx = s.idx ∧ t.qry = s.qry ∧ t.chg = s.chg ∧ t.mem = s.mem ∧ t.key = s.key ∧ t.coh = s.coh ∧ t.nb = s.nb ∧ t.flash = s.flash ∧ t.gph = s.gph ∧ t.berth = s.berth ∧ t.tbl = s.tbl ∧ t.rel = s.rel ∧ t.sec = s.sec

abbrev Keeps133 (s t : State) : Prop :=
  t.pending = s.pending ∧ t.out = s.out ∧ t.free = s.free ∧ t.tide = s.tide ∧ t.cap = s.cap ∧ t.log = s.log ∧ t.rst = s.rst ∧ t.pwr = s.pwr ∧ t.strand = s.strand ∧ t.idx = s.idx ∧ t.qry = s.qry ∧ t.chg = s.chg ∧ t.mem = s.mem ∧ t.key = s.key ∧ t.coh = s.coh ∧ t.nb = s.nb ∧ t.flash = s.flash ∧ t.gph = s.gph ∧ t.berth = s.berth ∧ t.tbl = s.tbl ∧ t.rel = s.rel ∧ t.sec = s.sec

abbrev Keeps134 (s t : State) : Prop :=
  t.pending = s.pending ∧ t.free = s.free ∧ t.tide = s.tide ∧ t.cap = s.cap ∧ t.log = s.log ∧ t.rst = s.rst ∧ t.pwr = s.pwr ∧ t.strand = s.strand ∧ t.idx = s.idx ∧ t.qry = s.qry ∧ t.chg = s.chg ∧ t.key = s.key ∧ t.nb = s.nb ∧ t.gph = s.gph ∧ t.berth = s.berth ∧ t.tbl = s.tbl ∧ t.rel = s.rel

abbrev Keeps135 (s t : State) : Prop :=
  t.pending = s.pending ∧ t.free = s.free ∧ t.tide = s.tide ∧ t.log = s.log ∧ t.rst = s.rst ∧ t.pwr = s.pwr ∧ t.strand = s.strand ∧ t.host = s.host ∧ t.idx = s.idx ∧ t.qry = s.qry ∧ t.chg = s.chg ∧ t.mem = s.mem ∧ t.key = s.key ∧ t.coh = s.coh ∧ t.nb = s.nb ∧ t.flash = s.flash ∧ t.gph = s.gph ∧ t.berth = s.berth ∧ t.tbl = s.tbl ∧ t.rel = s.rel

abbrev Keeps136 (s t : State) : Prop :=
  t.pending = s.pending ∧ t.free = s.free ∧ t.tide = s.tide ∧ t.log = s.log ∧ t.pwr = s.pwr ∧ t.strand = s.strand ∧ t.host = s.host ∧ t.idx = s.idx ∧ t.qry = s.qry ∧ t.chg = s.chg ∧ t.mem = s.mem ∧ t.key = s.key ∧ t.coh = s.coh ∧ t.nb = s.nb ∧ t.flash = s.flash ∧ t.gph = s.gph ∧ t.berth = s.berth ∧ t.tbl = s.tbl ∧ t.rel = s.rel

abbrev Keeps137 (s t : State) : Prop :=
  t.pending = s.pending ∧ t.tide = s.tide ∧ t.cat = s.cat ∧ t.cap = s.cap ∧ t.log = s.log ∧ t.rst = s.rst ∧ t.pwr = s.pwr ∧ t.strand = s.strand ∧ t.host = s.host ∧ t.idx = s.idx ∧ t.qry = s.qry ∧ t.chg = s.chg ∧ t.mem = s.mem ∧ t.key = s.key ∧ t.coh = s.coh ∧ t.nb = s.nb ∧ t.flash = s.flash ∧ t.gph = s.gph ∧ t.berth = s.berth ∧ t.tbl = s.tbl ∧ t.rel = s.rel

abbrev Keeps138 (s t : State) : Prop :=
  t.pending = s.pending ∧ t.tide = s.tide ∧ t.cat = s.cat ∧ t.cap = s.cap ∧ t.log = s.log ∧ t.rst = s.rst ∧ t.pwr = s.pwr ∧ t.strand = s.strand ∧ t.idx = s.idx ∧ t.qry = s.qry ∧ t.chg = s.chg ∧ t.mem = s.mem ∧ t.key = s.key ∧ t.coh = s.coh ∧ t.nb = s.nb ∧ t.flash = s.flash ∧ t.gph = s.gph ∧ t.berth = s.berth ∧ t.tbl = s.tbl ∧ t.rel = s.rel

abbrev Keeps139 (s t : State) : Prop :=
  t.pending = s.pending ∧ t.out = s.out ∧ t.tide = s.tide ∧ t.cap = s.cap ∧ t.log = s.log ∧ t.pwr = s.pwr ∧ t.strand = s.strand ∧ t.host = s.host ∧ t.idx = s.idx ∧ t.qry = s.qry ∧ t.chg = s.chg ∧ t.key = s.key ∧ t.nb = s.nb ∧ t.gph = s.gph ∧ t.berth = s.berth ∧ t.tbl = s.tbl ∧ t.rel = s.rel ∧ t.sec = s.sec

abbrev Keeps140 (s t : State) : Prop :=
  t.pending = s.pending ∧ t.out = s.out ∧ t.free = s.free ∧ t.tide = s.tide ∧ t.cap = s.cap ∧ t.log = s.log ∧ t.rst = s.rst ∧ t.pwr = s.pwr ∧ t.strand = s.strand ∧ t.host = s.host ∧ t.idx = s.idx ∧ t.qry = s.qry ∧ t.chg = s.chg ∧ t.key = s.key ∧ t.nb = s.nb ∧ t.flash = s.flash ∧ t.gph = s.gph ∧ t.berth = s.berth ∧ t.tbl = s.tbl ∧ t.rel = s.rel ∧ t.sec = s.sec

abbrev Keeps141 (s t : State) : Prop :=
  t.pending = s.pending ∧ t.free = s.free ∧ t.tide = s.tide ∧ t.cat = s.cat ∧ t.cap = s.cap ∧ t.log = s.log ∧ t.rst = s.rst ∧ t.pwr = s.pwr ∧ t.strand = s.strand ∧ t.host = s.host ∧ t.idx = s.idx ∧ t.qry = s.qry ∧ t.chg = s.chg ∧ t.mem = s.mem ∧ t.key = s.key ∧ t.nb = s.nb ∧ t.flash = s.flash ∧ t.gph = s.gph ∧ t.berth = s.berth ∧ t.tbl = s.tbl ∧ t.rel = s.rel ∧ t.sec = s.sec

abbrev Keeps142 (s t : State) : Prop :=
  t.pending = s.pending ∧ t.out = s.out ∧ t.tide = s.tide ∧ t.cap = s.cap ∧ t.rst = s.rst ∧ t.pwr = s.pwr ∧ t.strand = s.strand ∧ t.host = s.host ∧ t.idx = s.idx ∧ t.qry = s.qry ∧ t.chg = s.chg ∧ t.key = s.key ∧ t.nb = s.nb ∧ t.flash = s.flash ∧ t.gph = s.gph ∧ t.berth = s.berth ∧ t.tbl = s.tbl ∧ t.rel = s.rel ∧ t.sec = s.sec

abbrev Keeps143 (s t : State) : Prop :=
  t.pending = s.pending ∧ t.tide = s.tide ∧ t.cap = s.cap ∧ t.pwr = s.pwr ∧ t.idx = s.idx ∧ t.chg = s.chg ∧ t.key = s.key ∧ t.tbl = s.tbl ∧ t.rel = s.rel ∧ t.sec = s.sec

abbrev Keeps144 (s t : State) : Prop :=
  t.pending = s.pending ∧ t.out = s.out ∧ t.free = s.free ∧ t.tide = s.tide ∧ t.cap = s.cap ∧ t.log = s.log ∧ t.rst = s.rst ∧ t.pwr = s.pwr ∧ t.strand = s.strand ∧ t.host = s.host ∧ t.idx = s.idx ∧ t.qry = s.qry ∧ t.chg = s.chg ∧ t.mem = s.mem ∧ t.key = s.key ∧ t.coh = s.coh ∧ t.nb = s.nb ∧ t.gph = s.gph ∧ t.berth = s.berth ∧ t.tbl = s.tbl ∧ t.rel = s.rel

abbrev Keeps145 (s t : State) : Prop :=
  t.pending = s.pending ∧ t.tide = s.tide ∧ t.pwr = s.pwr ∧ t.idx = s.idx ∧ t.chg = s.chg ∧ t.key = s.key ∧ t.tbl = s.tbl ∧ t.rel = s.rel

abbrev Keeps146 (s t : State) : Prop :=
  t.pending = s.pending ∧ t.tide = s.tide ∧ t.cap = s.cap ∧ t.rst = s.rst ∧ t.pwr = s.pwr ∧ t.idx = s.idx ∧ t.chg = s.chg ∧ t.key = s.key ∧ t.berth = s.berth ∧ t.tbl = s.tbl ∧ t.rel = s.rel ∧ t.sec = s.sec

abbrev Keeps147 (s t : State) : Prop :=
  t.pending = s.pending ∧ t.out = s.out ∧ t.free = s.free ∧ t.cat = s.cat ∧ t.cap = s.cap ∧ t.log = s.log ∧ t.rst = s.rst ∧ t.pwr = s.pwr ∧ t.strand = s.strand ∧ t.host = s.host ∧ t.idx = s.idx ∧ t.qry = s.qry ∧ t.chg = s.chg ∧ t.mem = s.mem ∧ t.key = s.key ∧ t.coh = s.coh ∧ t.nb = s.nb ∧ t.flash = s.flash ∧ t.gph = s.gph ∧ t.berth = s.berth ∧ t.tbl = s.tbl ∧ t.rel = s.rel ∧ t.sec = s.sec

abbrev Keeps148 (s t : State) : Prop :=
  t.pending = s.pending ∧ t.out = s.out ∧ t.free = s.free ∧ t.key = s.key

abbrev Keeps149 (s t : State) : Prop :=
  t.pending = s.pending ∧ t.key = s.key

abbrev Keeps150 (s t : State) : Prop :=
  t.pending = s.pending ∧ t.out = s.out ∧ t.free = s.free ∧ t.tide = s.tide ∧ t.cap = s.cap ∧ t.pwr = s.pwr ∧ t.strand = s.strand ∧ t.host = s.host ∧ t.idx = s.idx ∧ t.qry = s.qry ∧ t.chg = s.chg ∧ t.mem = s.mem ∧ t.key = s.key ∧ t.coh = s.coh ∧ t.nb = s.nb ∧ t.flash = s.flash ∧ t.gph = s.gph ∧ t.berth = s.berth ∧ t.tbl = s.tbl ∧ t.rel = s.rel

abbrev Keeps152 (s t : State) : Prop :=
  t.pending = s.pending ∧ t.tide = s.tide ∧ t.cat = s.cat ∧ t.cap = s.cap ∧ t.log = s.log ∧ t.pwr = s.pwr ∧ t.host = s.host ∧ t.idx = s.idx ∧ t.qry = s.qry ∧ t.chg = s.chg ∧ t.mem = s.mem ∧ t.key = s.key ∧ t.coh = s.coh ∧ t.nb = s.nb ∧ t.flash = s.flash ∧ t.gph = s.gph ∧ t.berth = s.berth ∧ t.tbl = s.tbl ∧ t.sec = s.sec

abbrev Keeps153 (s t : State) : Prop :=
  t.pending = s.pending ∧ t.tide = s.tide ∧ t.cap = s.cap ∧ t.log = s.log ∧ t.pwr = s.pwr ∧ t.host = s.host ∧ t.idx = s.idx ∧ t.qry = s.qry ∧ t.chg = s.chg ∧ t.mem = s.mem ∧ t.key = s.key ∧ t.coh = s.coh ∧ t.nb = s.nb ∧ t.flash = s.flash ∧ t.gph = s.gph ∧ t.berth = s.berth ∧ t.tbl = s.tbl ∧ t.sec = s.sec

abbrev Keeps154 (s t : State) : Prop :=
  t.pending = s.pending ∧ t.out = s.out ∧ t.free = s.free ∧ t.tide = s.tide ∧ t.cap = s.cap ∧ t.log = s.log ∧ t.rst = s.rst ∧ t.strand = s.strand ∧ t.host = s.host ∧ t.idx = s.idx ∧ t.qry = s.qry ∧ t.chg = s.chg ∧ t.mem = s.mem ∧ t.key = s.key ∧ t.coh = s.coh ∧ t.nb = s.nb ∧ t.flash = s.flash ∧ t.gph = s.gph ∧ t.berth = s.berth ∧ t.tbl = s.tbl ∧ t.rel = s.rel ∧ t.sec = s.sec

abbrev Keeps156 (s t : State) : Prop :=
  t.pending = s.pending ∧ t.free = s.free ∧ t.tide = s.tide ∧ t.cap = s.cap ∧ t.log = s.log ∧ t.pwr = s.pwr ∧ t.host = s.host ∧ t.idx = s.idx ∧ t.qry = s.qry ∧ t.chg = s.chg ∧ t.mem = s.mem ∧ t.key = s.key ∧ t.coh = s.coh ∧ t.nb = s.nb ∧ t.flash = s.flash ∧ t.gph = s.gph ∧ t.berth = s.berth ∧ t.tbl = s.tbl ∧ t.rel = s.rel ∧ t.sec = s.sec

abbrev Keeps157 (s t : State) : Prop :=
  t.pending = s.pending

abbrev Keeps158 (s t : State) : Prop :=
  t.pending = s.pending ∧ t.free = s.free ∧ t.tide = s.tide ∧ t.cap = s.cap ∧ t.log = s.log ∧ t.pwr = s.pwr ∧ t.host = s.host ∧ t.idx = s.idx ∧ t.qry = s.qry ∧ t.chg = s.chg ∧ t.key = s.key ∧ t.flash = s.flash ∧ t.gph = s.gph ∧ t.berth = s.berth ∧ t.tbl = s.tbl ∧ t.rel = s.rel ∧ t.sec = s.sec

abbrev Keeps159 (s t : State) : Prop :=
  t.pending = s.pending ∧ t.out = s.out ∧ t.tide = s.tide ∧ t.cat = s.cat ∧ t.cap = s.cap ∧ t.log = s.log ∧ t.rst = s.rst ∧ t.strand = s.strand ∧ t.host = s.host ∧ t.idx = s.idx ∧ t.qry = s.qry ∧ t.chg = s.chg ∧ t.mem = s.mem ∧ t.key = s.key ∧ t.coh = s.coh ∧ t.flash = s.flash ∧ t.gph = s.gph ∧ t.berth = s.berth ∧ t.tbl = s.tbl ∧ t.rel = s.rel ∧ t.sec = s.sec

abbrev Keeps160 (s t : State) : Prop :=
  t.pending = s.pending ∧ t.out = s.out ∧ t.tide = s.tide ∧ t.cap = s.cap ∧ t.log = s.log ∧ t.rst = s.rst ∧ t.strand = s.strand ∧ t.host = s.host ∧ t.idx = s.idx ∧ t.qry = s.qry ∧ t.chg = s.chg ∧ t.mem = s.mem ∧ t.key = s.key ∧ t.coh = s.coh ∧ t.flash = s.flash ∧ t.gph = s.gph ∧ t.berth = s.berth ∧ t.tbl = s.tbl ∧ t.rel = s.rel ∧ t.sec = s.sec

abbrev Keeps161 (s t : State) : Prop :=
  t.pending = s.pending ∧ t.out = s.out ∧ t.free = s.free ∧ t.tide = s.tide ∧ t.cap = s.cap ∧ t.rst = s.rst ∧ t.strand = s.strand ∧ t.host = s.host ∧ t.idx = s.idx ∧ t.qry = s.qry ∧ t.chg = s.chg ∧ t.mem = s.mem ∧ t.key = s.key ∧ t.coh = s.coh ∧ t.nb = s.nb ∧ t.flash = s.flash ∧ t.gph = s.gph ∧ t.berth = s.berth ∧ t.tbl = s.tbl ∧ t.sec = s.sec

abbrev Keeps162 (s t : State) : Prop :=
  t.pending = s.pending ∧ t.out = s.out ∧ t.free = s.free ∧ t.tide = s.tide ∧ t.cap = s.cap ∧ t.log = s.log ∧ t.rst = s.rst ∧ t.pwr = s.pwr ∧ t.strand = s.strand ∧ t.host = s.host ∧ t.idx = s.idx ∧ t.qry = s.qry ∧ t.chg = s.chg ∧ t.mem = s.mem ∧ t.key = s.key ∧ t.coh = s.coh ∧ t.nb = s.nb ∧ t.flash = s.flash ∧ t.gph = s.gph ∧ t.berth = s.berth ∧ t.tbl = s.tbl ∧ t.sec = s.sec

abbrev Keeps163 (s t : State) : Prop :=
  t.pending = s.pending ∧ t.out = s.out ∧ t.tide = s.tide ∧ t.cap = s.cap ∧ t.rst = s.rst ∧ t.pwr = s.pwr ∧ t.strand = s.strand ∧ t.host = s.host ∧ t.idx = s.idx ∧ t.qry = s.qry ∧ t.chg = s.chg ∧ t.mem = s.mem ∧ t.key = s.key ∧ t.coh = s.coh ∧ t.nb = s.nb ∧ t.flash = s.flash ∧ t.gph = s.gph ∧ t.berth = s.berth ∧ t.tbl = s.tbl ∧ t.rel = s.rel

abbrev Keeps165 (s t : State) : Prop :=
  t.pending = s.pending ∧ t.out = s.out ∧ t.tide = s.tide ∧ t.cat = s.cat ∧ t.cap = s.cap ∧ t.log = s.log ∧ t.rst = s.rst ∧ t.pwr = s.pwr ∧ t.strand = s.strand ∧ t.host = s.host ∧ t.idx = s.idx ∧ t.qry = s.qry ∧ t.chg = s.chg ∧ t.mem = s.mem ∧ t.key = s.key ∧ t.coh = s.coh ∧ t.nb = s.nb ∧ t.flash = s.flash ∧ t.gph = s.gph ∧ t.tbl = s.tbl ∧ t.rel = s.rel ∧ t.sec = s.sec

abbrev Keeps166 (s t : State) : Prop :=
  t.pending = s.pending ∧ t.out = s.out ∧ t.tide = s.tide ∧ t.cap = s.cap ∧ t.log = s.log ∧ t.rst = s.rst ∧ t.pwr = s.pwr ∧ t.strand = s.strand ∧ t.host = s.host ∧ t.idx = s.idx ∧ t.chg = s.chg ∧ t.mem = s.mem ∧ t.key = s.key ∧ t.coh = s.coh ∧ t.nb = s.nb ∧ t.flash = s.flash ∧ t.gph = s.gph ∧ t.berth = s.berth ∧ t.tbl = s.tbl ∧ t.rel = s.rel ∧ t.sec = s.sec

abbrev Keeps167 (s t : State) : Prop :=
  t.pending = s.pending ∧ t.out = s.out ∧ t.free = s.free ∧ t.tide = s.tide ∧ t.cap = s.cap ∧ t.log = s.log ∧ t.rst = s.rst ∧ t.pwr = s.pwr ∧ t.strand = s.strand ∧ t.host = s.host ∧ t.idx = s.idx ∧ t.chg = s.chg ∧ t.mem = s.mem ∧ t.key = s.key ∧ t.coh = s.coh ∧ t.nb = s.nb ∧ t.flash = s.flash ∧ t.gph = s.gph ∧ t.berth = s.berth ∧ t.tbl = s.tbl ∧ t.rel = s.rel ∧ t.sec = s.sec

abbrev Keeps168 (s t : State) : Prop :=
  t.pending = s.pending ∧ t.out = s.out ∧ t.tide = s.tide ∧ t.cap = s.cap ∧ t.log = s.log ∧ t.rst = s.rst ∧ t.strand = s.strand ∧ t.host = s.host ∧ t.idx = s.idx ∧ t.chg = s.chg ∧ t.mem = s.mem ∧ t.key = s.key ∧ t.coh = s.coh ∧ t.nb = s.nb ∧ t.flash = s.flash ∧ t.gph = s.gph ∧ t.tbl = s.tbl ∧ t.rel = s.rel ∧ t.sec = s.sec

abbrev Keeps171 (s t : State) : Prop :=
  t.pending = s.pending ∧ t.out = s.out ∧ t.free = s.free ∧ t.cap = s.cap ∧ t.rst = s.rst ∧ t.pwr = s.pwr ∧ t.strand = s.strand ∧ t.host = s.host ∧ t.idx = s.idx ∧ t.qry = s.qry ∧ t.chg = s.chg ∧ t.mem = s.mem ∧ t.key = s.key ∧ t.coh = s.coh ∧ t.nb = s.nb ∧ t.flash = s.flash ∧ t.gph = s.gph ∧ t.berth = s.berth ∧ t.tbl = s.tbl ∧ t.rel = s.rel ∧ t.sec = s.sec

abbrev Keeps172 (s t : State) : Prop :=
  t.pending = s.pending ∧ t.out = s.out ∧ t.free = s.free ∧ t.cat = s.cat ∧ t.cap = s.cap ∧ t.log = s.log ∧ t.rst = s.rst ∧ t.pwr = s.pwr ∧ t.host = s.host ∧ t.idx = s.idx ∧ t.qry = s.qry ∧ t.chg = s.chg ∧ t.mem = s.mem ∧ t.key = s.key ∧ t.coh = s.coh ∧ t.nb = s.nb ∧ t.flash = s.flash ∧ t.gph = s.gph ∧ t.berth = s.berth ∧ t.tbl = s.tbl ∧ t.rel = s.rel ∧ t.sec = s.sec

abbrev Keeps175 (s t : State) : Prop :=
  t.pending = s.pending ∧ t.out = s.out ∧ t.free = s.free ∧ t.tide = s.tide ∧ t.cat = s.cat ∧ t.cap = s.cap ∧ t.log = s.log ∧ t.rst = s.rst ∧ t.pwr = s.pwr ∧ t.strand = s.strand ∧ t.host = s.host ∧ t.qry = s.qry ∧ t.chg = s.chg ∧ t.key = s.key ∧ t.coh = s.coh ∧ t.nb = s.nb ∧ t.flash = s.flash ∧ t.gph = s.gph ∧ t.berth = s.berth ∧ t.tbl = s.tbl ∧ t.rel = s.rel ∧ t.sec = s.sec

abbrev Keeps178 (s t : State) : Prop :=
  t.pending = s.pending ∧ t.out = s.out ∧ t.tide = s.tide ∧ t.cat = s.cat ∧ t.cap = s.cap ∧ t.log = s.log ∧ t.rst = s.rst ∧ t.strand = s.strand ∧ t.host = s.host ∧ t.idx = s.idx ∧ t.qry = s.qry ∧ t.chg = s.chg ∧ t.mem = s.mem ∧ t.key = s.key ∧ t.coh = s.coh ∧ t.nb = s.nb ∧ t.flash = s.flash ∧ t.gph = s.gph ∧ t.berth = s.berth ∧ t.tbl = s.tbl ∧ t.rel = s.rel ∧ t.sec = s.sec

abbrev Keeps183 (s t : State) : Prop :=
  t.pending = s.pending ∧ t.out = s.out ∧ t.free = s.free ∧ t.tide = s.tide ∧ t.cat = s.cat ∧ t.cap = s.cap ∧ t.log = s.log ∧ t.rst = s.rst ∧ t.pwr = s.pwr ∧ t.strand = s.strand ∧ t.host = s.host ∧ t.qry = s.qry ∧ t.chg = s.chg ∧ t.key = s.key ∧ t.nb = s.nb ∧ t.flash = s.flash ∧ t.gph = s.gph ∧ t.berth = s.berth ∧ t.tbl = s.tbl ∧ t.rel = s.rel ∧ t.sec = s.sec

abbrev Keeps184 (s t : State) : Prop :=
  t.pending = s.pending ∧ t.out = s.out ∧ t.free = s.free ∧ t.tide = s.tide ∧ t.cat = s.cat ∧ t.cap = s.cap ∧ t.log = s.log ∧ t.rst = s.rst ∧ t.pwr = s.pwr ∧ t.host = s.host ∧ t.qry = s.qry ∧ t.chg = s.chg ∧ t.key = s.key ∧ t.nb = s.nb ∧ t.flash = s.flash ∧ t.gph = s.gph ∧ t.berth = s.berth ∧ t.tbl = s.tbl ∧ t.rel = s.rel ∧ t.sec = s.sec

abbrev Keeps185 (s t : State) : Prop :=
  t.pending = s.pending ∧ t.out = s.out ∧ t.free = s.free ∧ t.tide = s.tide ∧ t.cat = s.cat ∧ t.cap = s.cap ∧ t.log = s.log ∧ t.rst = s.rst ∧ t.pwr = s.pwr ∧ t.strand = s.strand ∧ t.host = s.host ∧ t.idx = s.idx ∧ t.qry = s.qry ∧ t.chg = s.chg ∧ t.key = s.key ∧ t.nb = s.nb ∧ t.flash = s.flash ∧ t.berth = s.berth ∧ t.tbl = s.tbl ∧ t.rel = s.rel ∧ t.sec = s.sec

abbrev Keeps186 (s t : State) : Prop :=
  t.pending = s.pending ∧ t.out = s.out ∧ t.free = s.free ∧ t.tide = s.tide ∧ t.cat = s.cat ∧ t.cap = s.cap ∧ t.log = s.log ∧ t.rst = s.rst ∧ t.pwr = s.pwr ∧ t.strand = s.strand ∧ t.host = s.host ∧ t.qry = s.qry ∧ t.chg = s.chg ∧ t.key = s.key ∧ t.nb = s.nb ∧ t.flash = s.flash ∧ t.berth = s.berth ∧ t.tbl = s.tbl ∧ t.rel = s.rel ∧ t.sec = s.sec

abbrev Keeps187 (s t : State) : Prop :=
  t.pending = s.pending ∧ t.out = s.out ∧ t.free = s.free ∧ t.tide = s.tide ∧ t.cat = s.cat ∧ t.cap = s.cap ∧ t.log = s.log ∧ t.rst = s.rst ∧ t.pwr = s.pwr ∧ t.strand = s.strand ∧ t.host = s.host ∧ t.qry = s.qry ∧ t.chg = s.chg ∧ t.key = s.key ∧ t.nb = s.nb ∧ t.gph = s.gph ∧ t.berth = s.berth ∧ t.tbl = s.tbl ∧ t.rel = s.rel ∧ t.sec = s.sec

abbrev Keeps188 (s t : State) : Prop :=
  t.pending = s.pending ∧ t.out = s.out ∧ t.free = s.free ∧ t.tide = s.tide ∧ t.cat = s.cat ∧ t.cap = s.cap ∧ t.log = s.log ∧ t.rst = s.rst ∧ t.pwr = s.pwr ∧ t.host = s.host ∧ t.qry = s.qry ∧ t.chg = s.chg ∧ t.key = s.key ∧ t.nb = s.nb ∧ t.gph = s.gph ∧ t.berth = s.berth ∧ t.tbl = s.tbl ∧ t.rel = s.rel ∧ t.sec = s.sec

abbrev Keeps191 (s t : State) : Prop :=
  t.pending = s.pending ∧ t.out = s.out ∧ t.free = s.free ∧ t.tide = s.tide ∧ t.cap = s.cap ∧ t.log = s.log ∧ t.rst = s.rst ∧ t.pwr = s.pwr ∧ t.strand = s.strand ∧ t.host = s.host ∧ t.qry = s.qry ∧ t.chg = s.chg ∧ t.mem = s.mem ∧ t.key = s.key ∧ t.coh = s.coh ∧ t.nb = s.nb ∧ t.flash = s.flash ∧ t.gph = s.gph ∧ t.berth = s.berth ∧ t.tbl = s.tbl ∧ t.rel = s.rel ∧ t.sec = s.sec

abbrev Keeps192 (s t : State) : Prop :=
  t.pending = s.pending ∧ t.out = s.out ∧ t.free = s.free ∧ t.tide = s.tide ∧ t.cap = s.cap ∧ t.log = s.log ∧ t.rst = s.rst ∧ t.pwr = s.pwr ∧ t.strand = s.strand ∧ t.host = s.host ∧ t.idx = s.idx ∧ t.qry = s.qry ∧ t.chg = s.chg ∧ t.key = s.key ∧ t.coh = s.coh ∧ t.nb = s.nb ∧ t.berth = s.berth ∧ t.tbl = s.tbl ∧ t.rel = s.rel ∧ t.sec = s.sec

abbrev Keeps193 (s t : State) : Prop :=
  t.pending = s.pending ∧ t.out = s.out ∧ t.free = s.free ∧ t.tide = s.tide ∧ t.cap = s.cap ∧ t.log = s.log ∧ t.pwr = s.pwr ∧ t.host = s.host ∧ t.qry = s.qry ∧ t.chg = s.chg ∧ t.key = s.key ∧ t.nb = s.nb ∧ t.flash = s.flash ∧ t.gph = s.gph ∧ t.berth = s.berth ∧ t.tbl = s.tbl ∧ t.rel = s.rel ∧ t.sec = s.sec

abbrev Keeps194 (s t : State) : Prop :=
  t.pending = s.pending ∧ t.out = s.out ∧ t.free = s.free ∧ t.tide = s.tide ∧ t.cap = s.cap ∧ t.log = s.log ∧ t.rst = s.rst ∧ t.pwr = s.pwr ∧ t.strand = s.strand ∧ t.host = s.host ∧ t.qry = s.qry ∧ t.chg = s.chg ∧ t.key = s.key ∧ t.nb = s.nb ∧ t.flash = s.flash ∧ t.berth = s.berth ∧ t.tbl = s.tbl ∧ t.rel = s.rel ∧ t.sec = s.sec

abbrev Keeps195 (s t : State) : Prop :=
  t.pending = s.pending ∧ t.out = s.out ∧ t.free = s.free ∧ t.tide = s.tide ∧ t.cap = s.cap ∧ t.log = s.log ∧ t.rst = s.rst ∧ t.pwr = s.pwr ∧ t.strand = s.strand ∧ t.host = s.host ∧ t.qry = s.qry ∧ t.chg = s.chg ∧ t.key = s.key ∧ t.nb = s.nb ∧ t.flash = s.flash ∧ t.berth = s.berth ∧ t.tbl = s.tbl ∧ t.sec = s.sec

abbrev Keeps196 (s t : State) : Prop :=
  t.pending = s.pending ∧ t.out = s.out ∧ t.free = s.free ∧ t.tide = s.tide ∧ t.cap = s.cap ∧ t.log = s.log ∧ t.rst = s.rst ∧ t.pwr = s.pwr ∧ t.strand = s.strand ∧ t.host = s.host ∧ t.idx = s.idx ∧ t.qry = s.qry ∧ t.chg = s.chg ∧ t.key = s.key ∧ t.gph = s.gph ∧ t.berth = s.berth ∧ t.tbl = s.tbl ∧ t.rel = s.rel ∧ t.sec = s.sec

abbrev Keeps197 (s t : State) : Prop :=
  t.pending = s.pending ∧ t.out = s.out ∧ t.free = s.free ∧ t.tide = s.tide ∧ t.cap = s.cap ∧ t.log = s.log ∧ t.rst = s.rst ∧ t.pwr = s.pwr ∧ t.strand = s.strand ∧ t.host = s.host ∧ t.idx = s.idx ∧ t.chg = s.chg ∧ t.key = s.key ∧ t.gph = s.gph ∧ t.berth = s.berth ∧ t.tbl = s.tbl ∧ t.rel = s.rel ∧ t.sec = s.sec

abbrev Keeps199 (s t : State) : Prop :=
  t.pending = s.pending ∧ t.out = s.out ∧ t.free = s.free ∧ t.tide = s.tide ∧ t.cap = s.cap ∧ t.log = s.log ∧ t.rst = s.rst ∧ t.pwr = s.pwr ∧ t.strand = s.strand ∧ t.host = s.host ∧ t.qry = s.qry ∧ t.chg = s.chg ∧ t.key = s.key ∧ t.nb = s.nb ∧ t.gph = s.gph ∧ t.berth = s.berth ∧ t.tbl = s.tbl ∧ t.rel = s.rel ∧ t.sec = s.sec

abbrev Keeps200 (s t : State) : Prop :=
  t.pending = s.pending ∧ t.out = s.out ∧ t.free = s.free ∧ t.tide = s.tide ∧ t.cap = s.cap ∧ t.log = s.log ∧ t.pwr = s.pwr ∧ t.host = s.host ∧ t.qry = s.qry ∧ t.chg = s.chg ∧ t.key = s.key ∧ t.nb = s.nb ∧ t.gph = s.gph ∧ t.berth = s.berth ∧ t.rel = s.rel ∧ t.sec = s.sec

abbrev Keeps201 (s t : State) : Prop :=
  t.pending = s.pending ∧ t.out = s.out ∧ t.free = s.free ∧ t.tide = s.tide ∧ t.cap = s.cap ∧ t.host = s.host ∧ t.qry = s.qry ∧ t.chg = s.chg ∧ t.key = s.key ∧ t.nb = s.nb ∧ t.gph = s.gph ∧ t.berth = s.berth ∧ t.rel = s.rel

abbrev Keeps207 (s t : State) : Prop :=
  t.pending = s.pending ∧ t.out = s.out ∧ t.free = s.free ∧ t.tide = s.tide ∧ t.cap = s.cap ∧ t.log = s.log ∧ t.rst = s.rst ∧ t.pwr = s.pwr ∧ t.host = s.host ∧ t.qry = s.qry ∧ t.chg = s.chg ∧ t.key = s.key ∧ t.nb = s.nb ∧ t.gph = s.gph ∧ t.tbl = s.tbl ∧ t.rel = s.rel ∧ t.sec = s.sec

abbrev Keeps210 (s t : State) : Prop :=
  t.pending = s.pending ∧ t.tide = s.tide ∧ t.cap = s.cap ∧ t.rst = s.rst ∧ t.pwr = s.pwr ∧ t.host = s.host ∧ t.chg = s.chg ∧ t.key = s.key ∧ t.tbl = s.tbl ∧ t.sec = s.sec

abbrev Keeps215 (s t : State) : Prop :=
  t.pending = s.pending ∧ t.free = s.free ∧ t.tide = s.tide ∧ t.cap = s.cap ∧ t.log = s.log ∧ t.pwr = s.pwr ∧ t.key = s.key ∧ t.sec = s.sec

abbrev Keeps217 (s t : State) : Prop :=
  t.pending = s.pending ∧ t.tide = s.tide ∧ t.cap = s.cap ∧ t.rst = s.rst ∧ t.pwr = s.pwr ∧ t.qry = s.qry ∧ t.key = s.key ∧ t.sec = s.sec

abbrev Keeps218 (s t : State) : Prop :=
  t.pending = s.pending ∧ t.tide = s.tide ∧ t.cap = s.cap ∧ t.pwr = s.pwr ∧ t.key = s.key ∧ t.sec = s.sec

abbrev Keeps219 (s t : State) : Prop :=
  t.pending = s.pending ∧ t.cap = s.cap ∧ t.key = s.key ∧ t.sec = s.sec

abbrev Keeps220 (s t : State) : Prop :=
  t.pending = s.pending ∧ t.tide = s.tide ∧ t.cap = s.cap ∧ t.key = s.key ∧ t.sec = s.sec

abbrev Keeps222 (s t : State) : Prop :=
  t.pending = s.pending ∧ t.out = s.out ∧ t.free = s.free ∧ t.tide = s.tide ∧ t.cap = s.cap ∧ t.log = s.log ∧ t.pwr = s.pwr ∧ t.strand = s.strand ∧ t.host = s.host ∧ t.idx = s.idx ∧ t.chg = s.chg ∧ t.key = s.key ∧ t.gph = s.gph ∧ t.berth = s.berth ∧ t.tbl = s.tbl ∧ t.rel = s.rel ∧ t.sec = s.sec

abbrev Keeps223 (s t : State) : Prop :=
  t.pending = s.pending ∧ t.out = s.out ∧ t.free = s.free ∧ t.tide = s.tide ∧ t.cap = s.cap ∧ t.log = s.log ∧ t.pwr = s.pwr ∧ t.host = s.host ∧ t.idx = s.idx ∧ t.chg = s.chg ∧ t.key = s.key ∧ t.gph = s.gph ∧ t.berth = s.berth ∧ t.tbl = s.tbl ∧ t.rel = s.rel ∧ t.sec = s.sec

abbrev Keeps224 (s t : State) : Prop :=
  t.pending = s.pending ∧ t.free = s.free ∧ t.tide = s.tide ∧ t.cap = s.cap ∧ t.log = s.log ∧ t.pwr = s.pwr ∧ t.idx = s.idx ∧ t.chg = s.chg ∧ t.key = s.key ∧ t.gph = s.gph ∧ t.berth = s.berth ∧ t.tbl = s.tbl ∧ t.rel = s.rel ∧ t.sec = s.sec

abbrev Keeps225 (s t : State) : Prop :=
  t.pending = s.pending ∧ t.free = s.free ∧ t.tide = s.tide ∧ t.cap = s.cap ∧ t.log = s.log ∧ t.pwr = s.pwr ∧ t.idx = s.idx ∧ t.chg = s.chg ∧ t.key = s.key ∧ t.gph = s.gph ∧ t.berth = s.berth ∧ t.tbl = s.tbl ∧ t.sec = s.sec

abbrev Keeps226 (s t : State) : Prop :=
  t.pending = s.pending ∧ t.free = s.free ∧ t.tide = s.tide ∧ t.cap = s.cap ∧ t.log = s.log ∧ t.pwr = s.pwr ∧ t.idx = s.idx ∧ t.chg = s.chg ∧ t.key = s.key ∧ t.gph = s.gph ∧ t.tbl = s.tbl ∧ t.rel = s.rel ∧ t.sec = s.sec

abbrev Keeps227 (s t : State) : Prop :=
  t.pending = s.pending ∧ t.free = s.free ∧ t.tide = s.tide ∧ t.cap = s.cap ∧ t.log = s.log ∧ t.pwr = s.pwr ∧ t.idx = s.idx ∧ t.chg = s.chg ∧ t.key = s.key ∧ t.tbl = s.tbl ∧ t.rel = s.rel ∧ t.sec = s.sec

abbrev Keeps229 (s t : State) : Prop :=
  t.pending = s.pending ∧ t.tide = s.tide ∧ t.cap = s.cap ∧ t.pwr = s.pwr ∧ t.chg = s.chg ∧ t.key = s.key ∧ t.tbl = s.tbl ∧ t.sec = s.sec

abbrev Keeps230 (s t : State) : Prop :=
  t.pending = s.pending ∧ t.free = s.free ∧ t.tide = s.tide ∧ t.cap = s.cap ∧ t.pwr = s.pwr ∧ t.key = s.key ∧ t.sec = s.sec

abbrev Keeps231 (s t : State) : Prop :=
  t.pending = s.pending ∧ t.out = s.out ∧ t.free = s.free ∧ t.tide = s.tide ∧ t.cap = s.cap ∧ t.log = s.log ∧ t.rst = s.rst ∧ t.pwr = s.pwr ∧ t.strand = s.strand ∧ t.host = s.host ∧ t.idx = s.idx ∧ t.qry = s.qry ∧ t.chg = s.chg ∧ t.key = s.key ∧ t.berth = s.berth ∧ t.tbl = s.tbl ∧ t.rel = s.rel ∧ t.sec = s.sec

abbrev Keeps232 (s t : State) : Prop :=
  t.pending = s.pending ∧ t.out = s.out ∧ t.free = s.free ∧ t.tide = s.tide ∧ t.cap = s.cap ∧ t.log = s.log ∧ t.rst = s.rst ∧ t.pwr = s.pwr ∧ t.strand = s.strand ∧ t.host = s.host ∧ t.qry = s.qry ∧ t.key = s.key ∧ t.nb = s.nb ∧ t.gph = s.gph ∧ t.berth = s.berth ∧ t.tbl = s.tbl ∧ t.rel = s.rel ∧ t.sec = s.sec

abbrev Keeps233 (s t : State) : Prop :=
  t.pending = s.pending ∧ t.out = s.out ∧ t.free = s.free ∧ t.tide = s.tide ∧ t.cap = s.cap ∧ t.log = s.log ∧ t.rst = s.rst ∧ t.pwr = s.pwr ∧ t.strand = s.strand ∧ t.host = s.host ∧ t.idx = s.idx ∧ t.qry = s.qry ∧ t.chg = s.chg ∧ t.key = s.key ∧ t.nb = s.nb ∧ t.tbl = s.tbl ∧ t.rel = s.rel ∧ t.sec = s.sec

abbrev Keeps234 (s t : State) : Prop :=
  t.pending = s.pending ∧ t.free = s.free ∧ t.tide = s.tide ∧ t.cap = s.cap ∧ t.log = s.log ∧ t.pwr = s.pwr ∧ t.idx = s.idx ∧ t.chg = s.chg ∧ t.key = s.key ∧ t.rel = s.rel ∧ t.sec = s.sec

abbrev Keeps235 (s t : State) : Prop :=
  t.pending = s.pending ∧ t.out = s.out ∧ t.free = s.free ∧ t.tide = s.tide ∧ t.cat = s.cat ∧ t.cap = s.cap ∧ t.log = s.log ∧ t.rst = s.rst ∧ t.pwr = s.pwr ∧ t.strand = s.strand ∧ t.host = s.host ∧ t.idx = s.idx ∧ t.qry = s.qry ∧ t.chg = s.chg ∧ t.mem = s.mem ∧ t.key = s.key ∧ t.coh = s.coh ∧ t.nb = s.nb ∧ t.flash = s.flash ∧ t.gph = s.gph ∧ t.berth = s.berth ∧ t.tbl = s.tbl ∧ t.rel = s.rel

abbrev Keeps236 (s t : State) : Prop :=
  t.pending = s.pending ∧ t.out = s.out ∧ t.free = s.free ∧ t.tide = s.tide ∧ t.cat = s.cat ∧ t.cap = s.cap ∧ t.log = s.log ∧ t.rst = s.rst ∧ t.pwr = s.pwr ∧ t.strand = s.strand ∧ t.host = s.host ∧ t.idx = s.idx ∧ t.qry = s.qry ∧ t.chg = s.chg ∧ t.key = s.key ∧ t.coh = s.coh ∧ t.nb = s.nb ∧ t.flash = s.flash ∧ t.gph = s.gph ∧ t.berth = s.berth ∧ t.rel = s.rel ∧ t.sec = s.sec

abbrev Keeps237 (s t : State) : Prop :=
  t.pending = s.pending ∧ t.free = s.free ∧ t.tide = s.tide ∧ t.cat = s.cat ∧ t.cap = s.cap ∧ t.log = s.log ∧ t.rst = s.rst ∧ t.pwr = s.pwr ∧ t.host = s.host ∧ t.idx = s.idx ∧ t.qry = s.qry ∧ t.chg = s.chg ∧ t.mem = s.mem ∧ t.key = s.key ∧ t.nb = s.nb ∧ t.flash = s.flash ∧ t.gph = s.gph ∧ t.berth = s.berth ∧ t.tbl = s.tbl ∧ t.rel = s.rel ∧ t.sec = s.sec

abbrev Keeps238 (s t : State) : Prop :=
  t.pending = s.pending ∧ t.out = s.out ∧ t.free = s.free ∧ t.tide = s.tide ∧ t.cat = s.cat ∧ t.cap = s.cap ∧ t.log = s.log ∧ t.rst = s.rst ∧ t.pwr = s.pwr ∧ t.strand = s.strand ∧ t.host = s.host ∧ t.idx = s.idx ∧ t.chg = s.chg ∧ t.key = s.key ∧ t.nb = s.nb ∧ t.flash = s.flash ∧ t.gph = s.gph ∧ t.berth = s.berth ∧ t.tbl = s.tbl ∧ t.rel = s.rel ∧ t.sec = s.sec

abbrev Keeps239 (s t : State) : Prop :=
  t.pending = s.pending ∧ t.free = s.free ∧ t.tide = s.tide ∧ t.cat = s.cat ∧ t.cap = s.cap ∧ t.log = s.log ∧ t.rst = s.rst ∧ t.pwr = s.pwr ∧ t.host = s.host ∧ t.idx = s.idx ∧ t.qry = s.qry ∧ t.chg = s.chg ∧ t.key = s.key ∧ t.nb = s.nb ∧ t.flash = s.flash ∧ t.gph = s.gph ∧ t.berth = s.berth ∧ t.tbl = s.tbl ∧ t.rel = s.rel ∧ t.sec = s.sec

abbrev Keeps240 (s t : State) : Prop :=
  t.pending = s.pending ∧ t.out = s.out ∧ t.tide = s.tide ∧ t.cat = s.cat ∧ t.cap = s.cap ∧ t.log = s.log ∧ t.rst = s.rst ∧ t.pwr = s.pwr ∧ t.strand = s.strand ∧ t.host = s.host ∧ t.idx = s.idx ∧ t.qry = s.qry ∧ t.chg = s.chg ∧ t.key = s.key ∧ t.nb = s.nb ∧ t.flash = s.flash ∧ t.gph = s.gph ∧ t.berth = s.berth ∧ t.tbl = s.tbl ∧ t.rel = s.rel ∧ t.sec = s.sec

abbrev Keeps241 (s t : State) : Prop :=
  t.pending = s.pending ∧ t.out = s.out ∧ t.free = s.free ∧ t.tide = s.tide ∧ t.cat = s.cat ∧ t.cap = s.cap ∧ t.log = s.log ∧ t.rst = s.rst ∧ t.pwr = s.pwr ∧ t.strand = s.strand ∧ t.host = s.host ∧ t.qry = s.qry ∧ t.key = s.key ∧ t.nb = s.nb ∧ t.gph = s.gph ∧ t.berth = s.berth ∧ t.tbl = s.tbl ∧ t.rel = s.rel ∧ t.sec = s.sec

abbrev Keeps242 (s t : State) : Prop :=
  t.pending = s.pending ∧ t.out = s.out ∧ t.free = s.free ∧ t.tide = s.tide ∧ t.cap = s.cap ∧ t.log = s.log ∧ t.rst = s.rst ∧ t.pwr = s.pwr ∧ t.host = s.host ∧ t.qry = s.qry ∧ t.chg = s.chg ∧ t.mem = s.mem ∧ t.key = s.key ∧ t.coh = s.coh ∧ t.nb = s.nb ∧ t.flash = s.flash ∧ t.gph = s.gph ∧ t.berth = s.berth ∧ t.tbl = s.tbl ∧ t.rel = s.rel ∧ t.sec = s.sec

abbrev Keeps243 (s t : State) : Prop :=
  t.pending = s.pending ∧ t.out = s.out ∧ t.free = s.free ∧ t.tide = s.tide ∧ t.cap = s.cap ∧ t.log = s.log ∧ t.rst = s.rst ∧ t.pwr = s.pwr ∧ t.host = s.host ∧ t.idx = s.idx ∧ t.qry = s.qry ∧ t.chg = s.chg ∧ t.mem = s.mem ∧ t.key = s.key ∧ t.coh = s.coh ∧ t.nb = s.nb ∧ t.flash = s.flash ∧ t.berth = s.berth ∧ t.rel = s.rel ∧ t.sec = s.sec

abbrev Keeps244 (s t : State) : Prop :=
  t.pending = s.pending ∧ t.tide = s.tide ∧ t.cap = s.cap ∧ t.log = s.log ∧ t.rst = s.rst ∧ t.pwr = s.pwr ∧ t.host = s.host ∧ t.idx = s.idx ∧ t.qry = s.qry ∧ t.chg = s.chg ∧ t.mem = s.mem ∧ t.key = s.key ∧ t.coh = s.coh ∧ t.nb = s.nb ∧ t.flash = s.flash ∧ t.gph = s.gph ∧ t.berth = s.berth ∧ t.tbl = s.tbl ∧ t.rel = s.rel ∧ t.sec = s.sec

abbrev Keeps245 (s t : State) : Prop :=
  t.pending = s.pending ∧ t.tide = s.tide ∧ t.cap = s.cap ∧ t.log = s.log ∧ t.rst = s.rst ∧ t.pwr = s.pwr ∧ t.host = s.host ∧ t.idx = s.idx ∧ t.qry = s.qry ∧ t.chg = s.chg ∧ t.mem = s.mem ∧ t.key = s.key ∧ t.coh = s.coh ∧ t.nb = s.nb ∧ t.flash = s.flash ∧ t.gph = s.gph ∧ t.berth = s.berth ∧ t.tbl = s.tbl ∧ t.sec = s.sec

abbrev Keeps246 (s t : State) : Prop :=
  t.pending = s.pending ∧ t.out = s.out ∧ t.free = s.free ∧ t.tide = s.tide ∧ t.cap = s.cap ∧ t.log = s.log ∧ t.rst = s.rst ∧ t.pwr = s.pwr ∧ t.host = s.host ∧ t.qry = s.qry ∧ t.chg = s.chg ∧ t.mem = s.mem ∧ t.key = s.key ∧ t.coh = s.coh ∧ t.nb = s.nb ∧ t.gph = s.gph ∧ t.berth = s.berth ∧ t.tbl = s.tbl ∧ t.rel = s.rel ∧ t.sec = s.sec

abbrev Keeps247 (s t : State) : Prop :=
  t.pending = s.pending ∧ t.free = s.free ∧ t.tide = s.tide ∧ t.cap = s.cap ∧ t.log = s.log ∧ t.rst = s.rst ∧ t.pwr = s.pwr ∧ t.host = s.host ∧ t.idx = s.idx ∧ t.qry = s.qry ∧ t.chg = s.chg ∧ t.key = s.key ∧ t.nb = s.nb ∧ t.flash = s.flash ∧ t.gph = s.gph ∧ t.berth = s.berth ∧ t.tbl = s.tbl ∧ t.sec = s.sec

abbrev Keeps248 (s t : State) : Prop :=
  t.pending = s.pending ∧ t.out = s.out ∧ t.free = s.free ∧ t.tide = s.tide ∧ t.cap = s.cap ∧ t.log = s.log ∧ t.rst = s.rst ∧ t.pwr = s.pwr ∧ t.host = s.host ∧ t.qry = s.qry ∧ t.chg = s.chg ∧ t.key = s.key ∧ t.nb = s.nb ∧ t.flash = s.flash ∧ t.gph = s.gph ∧ t.berth = s.berth ∧ t.tbl = s.tbl ∧ t.rel = s.rel ∧ t.sec = s.sec

abbrev Keeps249 (s t : State) : Prop :=
  t.pending = s.pending ∧ t.out = s.out ∧ t.tide = s.tide ∧ t.cap = s.cap ∧ t.log = s.log ∧ t.rst = s.rst ∧ t.pwr = s.pwr ∧ t.strand = s.strand ∧ t.host = s.host ∧ t.idx = s.idx ∧ t.qry = s.qry ∧ t.chg = s.chg ∧ t.key = s.key ∧ t.nb = s.nb ∧ t.flash = s.flash ∧ t.gph = s.gph ∧ t.berth = s.berth ∧ t.tbl = s.tbl ∧ t.rel = s.rel ∧ t.sec = s.sec

abbrev Keeps250 (s t : State) : Prop :=
  t.pending = s.pending ∧ t.tide = s.tide ∧ t.cap = s.cap ∧ t.rst = s.rst ∧ t.pwr = s.pwr ∧ t.host = s.host ∧ t.idx = s.idx ∧ t.qry = s.qry ∧ t.chg = s.chg ∧ t.key = s.key ∧ t.nb = s.nb ∧ t.flash = s.flash ∧ t.gph = s.gph ∧ t.berth = s.berth ∧ t.tbl = s.tbl ∧ t.rel = s.rel ∧ t.sec = s.sec

abbrev Keeps251 (s t : State) : Prop :=
  t.pending = s.pending ∧ t.out = s.out ∧ t.free = s.free ∧ t.tide = s.tide ∧ t.cap = s.cap ∧ t.log = s.log ∧ t.rst = s.rst ∧ t.pwr = s.pwr ∧ t.host = s.host ∧ t.qry = s.qry ∧ t.chg = s.chg ∧ t.key = s.key ∧ t.nb = s.nb ∧ t.gph = s.gph ∧ t.berth = s.berth ∧ t.tbl = s.tbl ∧ t.rel = s.rel ∧ t.sec = s.sec

abbrev Keeps252 (s t : State) : Prop :=
  t.pending = s.pending ∧ t.out = s.out ∧ t.tide = s.tide ∧ t.cap = s.cap ∧ t.log = s.log ∧ t.rst = s.rst ∧ t.pwr = s.pwr ∧ t.strand = s.strand ∧ t.host = s.host ∧ t.idx = s.idx ∧ t.qry = s.qry ∧ t.chg = s.chg ∧ t.key = s.key ∧ t.nb = s.nb ∧ t.gph = s.gph ∧ t.berth = s.berth ∧ t.rel = s.rel ∧ t.sec = s.sec

abbrev Keeps253 (s t : State) : Prop :=
  t.pending = s.pending ∧ t.out = s.out ∧ t.tide = s.tide ∧ t.cap = s.cap ∧ t.log = s.log ∧ t.rst = s.rst ∧ t.pwr = s.pwr ∧ t.host = s.host ∧ t.idx = s.idx ∧ t.qry = s.qry ∧ t.chg = s.chg ∧ t.key = s.key ∧ t.nb = s.nb ∧ t.gph = s.gph ∧ t.berth = s.berth ∧ t.tbl = s.tbl ∧ t.rel = s.rel ∧ t.sec = s.sec

abbrev Keeps254 (s t : State) : Prop :=
  t.pending = s.pending ∧ t.out = s.out ∧ t.tide = s.tide ∧ t.cap = s.cap ∧ t.log = s.log ∧ t.rst = s.rst ∧ t.pwr = s.pwr ∧ t.host = s.host ∧ t.idx = s.idx ∧ t.qry = s.qry ∧ t.chg = s.chg ∧ t.key = s.key ∧ t.nb = s.nb ∧ t.gph = s.gph ∧ t.berth = s.berth ∧ t.rel = s.rel ∧ t.sec = s.sec

abbrev Keeps255 (s t : State) : Prop :=
  t.pending = s.pending ∧ t.out = s.out ∧ t.tide = s.tide ∧ t.cap = s.cap ∧ t.log = s.log ∧ t.rst = s.rst ∧ t.pwr = s.pwr ∧ t.strand = s.strand ∧ t.host = s.host ∧ t.idx = s.idx ∧ t.chg = s.chg ∧ t.key = s.key ∧ t.gph = s.gph ∧ t.berth = s.berth ∧ t.tbl = s.tbl ∧ t.rel = s.rel ∧ t.sec = s.sec

abbrev Keeps256 (s t : State) : Prop :=
  t.pending = s.pending ∧ t.out = s.out ∧ t.tide = s.tide ∧ t.cap = s.cap ∧ t.log = s.log ∧ t.pwr = s.pwr ∧ t.strand = s.strand ∧ t.host = s.host ∧ t.idx = s.idx ∧ t.chg = s.chg ∧ t.key = s.key ∧ t.gph = s.gph ∧ t.berth = s.berth ∧ t.tbl = s.tbl ∧ t.rel = s.rel ∧ t.sec = s.sec

abbrev Keeps257 (s t : State) : Prop :=
  t.pending = s.pending ∧ t.out = s.out ∧ t.tide = s.tide ∧ t.cap = s.cap ∧ t.log = s.log ∧ t.pwr = s.pwr ∧ t.host = s.host ∧ t.idx = s.idx ∧ t.chg = s.chg ∧ t.key = s.key ∧ t.gph = s.gph ∧ t.berth = s.berth ∧ t.tbl = s.tbl ∧ t.rel = s.rel ∧ t.sec = s.sec

abbrev Keeps258 (s t : State) : Prop :=
  t.pending = s.pending ∧ t.tide = s.tide ∧ t.cap = s.cap ∧ t.log = s.log ∧ t.rst = s.rst ∧ t.pwr = s.pwr ∧ t.strand = s.strand ∧ t.idx = s.idx ∧ t.qry = s.qry ∧ t.chg = s.chg ∧ t.key = s.key ∧ t.nb = s.nb ∧ t.gph = s.gph ∧ t.berth = s.berth ∧ t.tbl = s.tbl ∧ t.rel = s.rel ∧ t.sec = s.sec

abbrev Keeps259 (s t : State) : Prop :=
  t.pending = s.pending ∧ t.tide = s.tide ∧ t.cap = s.cap ∧ t.log = s.log ∧ t.rst = s.rst ∧ t.pwr = s.pwr ∧ t.strand = s.strand ∧ t.idx = s.idx ∧ t.qry = s.qry ∧ t.chg = s.chg ∧ t.key = s.key ∧ t.nb = s.nb ∧ t.gph = s.gph ∧ t.berth = s.berth ∧ t.rel = s.rel ∧ t.sec = s.sec

abbrev Keeps260 (s t : State) : Prop :=
  t.pending = s.pending ∧ t.tide = s.tide ∧ t.cap = s.cap ∧ t.log = s.log ∧ t.rst = s.rst ∧ t.pwr = s.pwr ∧ t.idx = s.idx ∧ t.qry = s.qry ∧ t.chg = s.chg ∧ t.key = s.key ∧ t.nb = s.nb ∧ t.gph = s.gph ∧ t.berth = s.berth ∧ t.tbl = s.tbl ∧ t.rel = s.rel ∧ t.sec = s.sec

abbrev Keeps261 (s t : State) : Prop :=
  t.pending = s.pending ∧ t.tide = s.tide ∧ t.cap = s.cap ∧ t.log = s.log ∧ t.rst = s.rst ∧ t.pwr = s.pwr ∧ t.idx = s.idx ∧ t.qry = s.qry ∧ t.chg = s.chg ∧ t.key = s.key ∧ t.nb = s.nb ∧ t.gph = s.gph ∧ t.berth = s.berth ∧ t.rel = s.rel ∧ t.sec = s.sec

abbrev Keeps262 (s t : State) : Prop :=
  t.pending = s.pending ∧ t.tide = s.tide ∧ t.cap = s.cap ∧ t.log = s.log ∧ t.rst = s.rst ∧ t.pwr = s.pwr ∧ t.strand = s.strand ∧ t.idx = s.idx ∧ t.qry = s.qry ∧ t.chg = s.chg ∧ t.key = s.key ∧ t.nb = s.nb ∧ t.gph = s.gph ∧ t.berth = s.berth ∧ t.tbl = s.tbl ∧ t.rel = s.rel

abbrev Keeps263 (s t : State) : Prop :=
  t.pending = s.pending ∧ t.tide = s.tide ∧ t.cap = s.cap ∧ t.log = s.log ∧ t.rst = s.rst ∧ t.pwr = s.pwr ∧ t.strand = s.strand ∧ t.idx = s.idx ∧ t.chg = s.chg ∧ t.key = s.key ∧ t.nb = s.nb ∧ t.gph = s.gph ∧ t.berth = s.berth ∧ t.tbl = s.tbl ∧ t.rel = s.rel ∧ t.sec = s.sec

abbrev Keeps264 (s t : State) : Prop :=
  t.pending = s.pending ∧ t.tide = s.tide ∧ t.cap = s.cap ∧ t.log = s.log ∧ t.pwr = s.pwr ∧ t.idx = s.idx ∧ t.chg = s.chg ∧ t.key = s.key ∧ t.gph = s.gph ∧ t.berth = s.berth ∧ t.tbl = s.tbl ∧ t.rel = s.rel ∧ t.sec = s.sec

abbrev Keeps265 (s t : State) : Prop :=
  t.pending = s.pending ∧ t.tide = s.tide ∧ t.cap = s.cap ∧ t.log = s.log ∧ t.pwr = s.pwr ∧ t.idx = s.idx ∧ t.chg = s.chg ∧ t.key = s.key ∧ t.gph = s.gph ∧ t.berth = s.berth ∧ t.tbl = s.tbl ∧ t.sec = s.sec

abbrev Keeps266 (s t : State) : Prop :=
  t.pending = s.pending ∧ t.tide = s.tide ∧ t.cap = s.cap ∧ t.rst = s.rst ∧ t.pwr = s.pwr ∧ t.strand = s.strand ∧ t.idx = s.idx ∧ t.qry = s.qry ∧ t.chg = s.chg ∧ t.key = s.key ∧ t.nb = s.nb ∧ t.gph = s.gph ∧ t.berth = s.berth ∧ t.tbl = s.tbl ∧ t.rel = s.rel ∧ t.sec = s.sec

abbrev Keeps267 (s t : State) : Prop :=
  t.pending = s.pending ∧ t.tide = s.tide ∧ t.cap = s.cap ∧ t.pwr = s.pwr ∧ t.strand = s.strand ∧ t.idx = s.idx ∧ t.qry = s.qry ∧ t.chg = s.chg ∧ t.key = s.key ∧ t.nb = s.nb ∧ t.gph = s.gph ∧ t.berth = s.berth ∧ t.tbl = s.tbl ∧ t.rel = s.rel ∧ t.sec = s.sec

abbrev Keeps268 (s t : State) : Prop :=
  t.pending = s.pending ∧ t.tide = s.tide ∧ t.cap = s.cap ∧ t.rst = s.rst ∧ t.pwr = s.pwr ∧ t.strand = s.strand ∧ t.idx = s.idx ∧ t.qry = s.qry ∧ t.chg = s.chg ∧ t.key = s.key ∧ t.gph = s.gph ∧ t.berth = s.berth ∧ t.tbl = s.tbl ∧ t.rel = s.rel ∧ t.sec = s.sec

abbrev Keeps269 (s t : State) : Prop :=
  t.pending = s.pending ∧ t.out = s.out ∧ t.tide = s.tide ∧ t.cap = s.cap ∧ t.log = s.log ∧ t.rst = s.rst ∧ t.pwr = s.pwr ∧ t.strand = s.strand ∧ t.host = s.host ∧ t.idx = s.idx ∧ t.qry = s.qry ∧ t.chg = s.chg ∧ t.key = s.key ∧ t.nb = s.nb ∧ t.berth = s.berth ∧ t.tbl = s.tbl ∧ t.rel = s.rel ∧ t.sec = s.sec

abbrev Keeps270 (s t : State) : Prop :=
  t.pending = s.pending ∧ t.out = s.out ∧ t.tide = s.tide ∧ t.cap = s.cap ∧ t.log = s.log ∧ t.rst = s.rst ∧ t.pwr = s.pwr ∧ t.strand = s.strand ∧ t.host = s.host ∧ t.idx = s.idx ∧ t.qry = s.qry ∧ t.chg = s.chg ∧ t.key = s.key ∧ t.berth = s.berth ∧ t.tbl = s.tbl ∧ t.rel = s.rel ∧ t.sec = s.sec

abbrev Keeps271 (s t : State) : Prop :=
  t.pending = s.pending ∧ t.tide = s.tide ∧ t.cap = s.cap ∧ t.log = s.log ∧ t.rst = s.rst ∧ t.pwr = s.pwr ∧ t.strand = s.strand ∧ t.idx = s.idx ∧ t.qry = s.qry ∧ t.chg = s.chg ∧ t.key = s.key ∧ t.nb = s.nb ∧ t.berth = s.berth ∧ t.tbl = s.tbl ∧ t.rel = s.rel ∧ t.sec = s.sec

abbrev Keeps272 (s t : State) : Prop :=
  t.pending = s.pending ∧ t.tide = s.tide ∧ t.cap = s.cap ∧ t.log = s.log ∧ t.rst = s.rst ∧ t.pwr = s.pwr ∧ t.idx = s.idx ∧ t.qry = s.qry ∧ t.chg = s.chg ∧ t.key = s.key ∧ t.nb = s.nb ∧ t.berth = s.berth ∧ t.rel = s.rel ∧ t.sec = s.sec

abbrev Keeps273 (s t : State) : Prop :=
  t.pending = s.pending ∧ t.tide = s.tide ∧ t.cap = s.cap ∧ t.log = s.log ∧ t.rst = s.rst ∧ t.pwr = s.pwr ∧ t.strand = s.strand ∧ t.idx = s.idx ∧ t.chg = s.chg ∧ t.key = s.key ∧ t.nb = s.nb ∧ t.berth = s.berth ∧ t.tbl = s.tbl ∧ t.rel = s.rel ∧ t.sec = s.sec

abbrev Keeps274 (s t : State) : Prop :=
  t.pending = s.pending ∧ t.out = s.out ∧ t.free = s.free ∧ t.tide = s.tide ∧ t.cap = s.cap ∧ t.log = s.log ∧ t.rst = s.rst ∧ t.pwr = s.pwr ∧ t.strand = s.strand ∧ t.host = s.host ∧ t.idx = s.idx ∧ t.qry = s.qry ∧ t.mem = s.mem ∧ t.key = s.key ∧ t.coh = s.coh ∧ t.nb = s.nb ∧ t.flash = s.flash ∧ t.gph = s.gph ∧ t.berth = s.berth ∧ t.tbl = s.tbl ∧ t.rel = s.rel ∧ t.sec = s.sec

abbrev Keeps275 (s t : State) : Prop :=
  t.pending = s.pending ∧ t.out = s.out ∧ t.free = s.free ∧ t.tide = s.tide ∧ t.cap = s.cap ∧ t.log = s.log ∧ t.rst = s.rst ∧ t.pwr = s.pwr ∧ t.strand = s.strand ∧ t.host = s.host ∧ t.qry = s.qry ∧ t.mem = s.mem ∧ t.key = s.key ∧ t.coh = s.coh ∧ t.nb = s.nb ∧ t.gph = s.gph ∧ t.berth = s.berth ∧ t.tbl = s.tbl ∧ t.rel = s.rel ∧ t.sec = s.sec

abbrev Keeps276 (s t : State) : Prop :=
  t.pending = s.pending ∧ t.tide = s.tide ∧ t.cap = s.cap ∧ t.log = s.log ∧ t.rst = s.rst ∧ t.pwr = s.pwr ∧ t.strand = s.strand ∧ t.idx = s.idx ∧ t.qry = s.qry ∧ t.key = s.key ∧ t.nb = s.nb ∧ t.gph = s.gph ∧ t.berth = s.berth ∧ t.tbl = s.tbl ∧ t.rel = s.rel ∧ t.sec = s.sec

abbrev Keeps277 (s t : State) : Prop :=
  t.pending = s.pending ∧ t.tide = s.tide ∧ t.cap = s.cap ∧ t.log = s.log ∧ t.rst = s.rst ∧ t.pwr = s.pwr ∧ t.idx = s.idx ∧ t.qry = s.qry ∧ t.key = s.key ∧ t.nb = s.nb ∧ t.gph = s.gph ∧ t.berth = s.berth ∧ t.tbl = s.tbl ∧ t.rel = s.rel ∧ t.sec = s.sec

abbrev Keeps278 (s t : State) : Prop :=
  t.pending = s.pending ∧ t.tide = s.tide ∧ t.cap = s.cap ∧ t.log = s.log ∧ t.rst = s.rst ∧ t.pwr = s.pwr ∧ t.qry = s.qry ∧ t.key = s.key ∧ t.nb = s.nb ∧ t.gph = s.gph ∧ t.berth = s.berth ∧ t.tbl = s.tbl ∧ t.rel = s.rel ∧ t.sec = s.sec

abbrev Keeps279 (s t : State) : Prop :=
  t.pending = s.pending ∧ t.tide = s.tide ∧ t.cap = s.cap ∧ t.rst = s.rst ∧ t.pwr = s.pwr ∧ t.qry = s.qry ∧ t.key = s.key ∧ t.nb = s.nb ∧ t.gph = s.gph ∧ t.berth = s.berth ∧ t.tbl = s.tbl ∧ t.rel = s.rel

abbrev Keeps280 (s t : State) : Prop :=
  t.pending = s.pending ∧ t.free = s.free ∧ t.tide = s.tide ∧ t.log = s.log ∧ t.rst = s.rst ∧ t.pwr = s.pwr ∧ t.host = s.host ∧ t.idx = s.idx ∧ t.qry = s.qry ∧ t.chg = s.chg ∧ t.mem = s.mem ∧ t.key = s.key ∧ t.coh = s.coh ∧ t.nb = s.nb ∧ t.flash = s.flash ∧ t.gph = s.gph ∧ t.berth = s.berth ∧ t.tbl = s.tbl ∧ t.rel = s.rel ∧ t.sec = s.sec

abbrev Keeps281 (s t : State) : Prop :=
  t.pending = s.pending ∧ t.free = s.free ∧ t.tide = s.tide ∧ t.log = s.log ∧ t.rst = s.rst ∧ t.pwr = s.pwr ∧ t.host = s.host ∧ t.idx = s.idx ∧ t.qry = s.qry ∧ t.chg = s.chg ∧ t.mem = s.mem ∧ t.key = s.key ∧ t.coh = s.coh ∧ t.nb = s.nb ∧ t.flash = s.flash ∧ t.gph = s.gph ∧ t.berth = s.berth ∧ t.tbl = s.tbl ∧ t.rel = s.rel

abbrev Keeps282 (s t : State) : Prop :=
  t.pending = s.pending ∧ t.free = s.free ∧ t.tide = s.tide ∧ t.log = s.log ∧ t.pwr = s.pwr ∧ t.host = s.host ∧ t.idx = s.idx ∧ t.qry = s.qry ∧ t.chg = s.chg ∧ t.mem = s.mem ∧ t.key = s.key ∧ t.coh = s.coh ∧ t.nb = s.nb ∧ t.flash = s.flash ∧ t.gph = s.gph ∧ t.berth = s.berth ∧ t.tbl = s.tbl ∧ t.rel = s.rel

abbrev Keeps283 (s t : State) : Prop :=
  t.pending = s.pending ∧ t.out = s.out ∧ t.free = s.free ∧ t.tide = s.tide ∧ t.log = s.log ∧ t.rst = s.rst ∧ t.pwr = s.pwr ∧ t.strand = s.strand ∧ t.host = s.host ∧ t.idx = s.idx ∧ t.qry = s.qry ∧ t.chg = s.chg ∧ t.key = s.key ∧ t.coh = s.coh ∧ t.nb = s.nb ∧ t.gph = s.gph ∧ t.berth = s.berth ∧ t.rel = s.rel

abbrev Keeps284 (s t : State) : Prop :=
  t.pending = s.pending ∧ t.out = s.out ∧ t.free = s.free ∧ t.tide = s.tide ∧ t.cat = s.cat ∧ t.cap = s.cap ∧ t.log = s.log ∧ t.rst = s.rst ∧ t.pwr = s.pwr ∧ t.strand = s.strand ∧ t.host = s.host ∧ t.idx = s.idx ∧ t.qry = s.qry ∧ t.chg = s.chg ∧ t.key = s.key ∧ t.coh = s.coh ∧ t.nb = s.nb ∧ t.flash = s.flash ∧ t.gph = s.gph ∧ t.tbl = s.tbl ∧ t.rel = s.rel ∧ t.sec = s.sec

abbrev Keeps285 (s t : State) : Prop :=
  t.pending = s.pending ∧ t.out = s.out ∧ t.free = s.free ∧ t.tide = s.tide ∧ t.cat = s.cat ∧ t.cap = s.cap ∧ t.log = s.log ∧ t.rst = s.rst ∧ t.pwr = s.pwr ∧ t.strand = s.strand ∧ t.host = s.host ∧ t.idx = s.idx ∧ t.qry = s.qry ∧ t.chg = s.chg ∧ t.key = s.key ∧ t.nb = s.nb ∧ t.gph = s.gph ∧ t.tbl = s.tbl ∧ t.rel = s.rel ∧ t.sec = s.sec

abbrev Keeps286 (s t : State) : Prop :=
  t.pending = s.pending ∧ t.out = s.out ∧ t.free = s.free ∧ t.tide = s.tide ∧ t.cap = s.cap ∧ t.log = s.log ∧ t.rst = s.rst ∧ t.pwr = s.pwr ∧ t.host = s.host ∧ t.idx = s.idx ∧ t.qry = s.qry ∧ t.chg = s.chg ∧ t.mem = s.mem ∧ t.key = s.key ∧ t.coh = s.coh ∧ t.nb = s.nb ∧ t.flash = s.flash ∧ t.gph = s.gph ∧ t.tbl = s.tbl ∧ t.rel = s.rel ∧ t.sec = s.sec

abbrev Keeps287 (s t : State) : Prop :=
  t.pending = s.pending ∧ t.out = s.out ∧ t.free = s.free ∧ t.tide = s.tide ∧ t.cap = s.cap ∧ t.log = s.log ∧ t.rst = s.rst ∧ t.pwr = s.pwr ∧ t.strand = s.strand ∧ t.host = s.host ∧ t.idx = s.idx ∧ t.qry = s.qry ∧ t.chg = s.chg ∧ t.mem = s.mem ∧ t.key = s.key ∧ t.coh = s.coh ∧ t.nb = s.nb ∧ t.gph = s.gph ∧ t.tbl = s.tbl ∧ t.rel = s.rel ∧ t.sec = s.sec

abbrev Keeps288 (s t : State) : Prop :=
  t.pending = s.pending ∧ t.out = s.out ∧ t.free = s.free ∧ t.tide = s.tide ∧ t.cap = s.cap ∧ t.log = s.log ∧ t.rst = s.rst ∧ t.pwr = s.pwr ∧ t.host = s.host ∧ t.idx = s.idx ∧ t.qry = s.qry ∧ t.chg = s.chg ∧ t.mem = s.mem ∧ t.key = s.key ∧ t.coh = s.coh ∧ t.nb = s.nb ∧ t.gph = s.gph ∧ t.tbl = s.tbl ∧ t.rel = s.rel ∧ t.sec = s.sec

abbrev Keeps289 (s t : State) : Prop :=
  t.pending = s.pending ∧ t.out = s.out ∧ t.free = s.free ∧ t.tide = s.tide ∧ t.cap = s.cap ∧ t.log = s.log ∧ t.rst = s.rst ∧ t.pwr = s.pwr ∧ t.strand = s.strand ∧ t.host = s.host ∧ t.idx = s.idx ∧ t.qry = s.qry ∧ t.chg = s.chg ∧ t.key = s.key ∧ t.nb = s.nb ∧ t.gph = s.gph ∧ t.tbl = s.tbl ∧ t.rel = s.rel ∧ t.sec = s.sec

abbrev Keeps290 (s t : State) : Prop :=
  t.pending = s.pending ∧ t.out = s.out ∧ t.tide = s.tide ∧ t.cap = s.cap ∧ t.log = s.log ∧ t.rst = s.rst ∧ t.pwr = s.pwr ∧ t.host = s.host ∧ t.idx = s.idx ∧ t.qry = s.qry ∧ t.chg = s.chg ∧ t.key = s.key ∧ t.nb = s.nb ∧ t.gph = s.gph ∧ t.tbl = s.tbl ∧ t.rel = s.rel ∧ t.sec = s.sec

abbrev Keeps291 (s t : State) : Prop :=
  t.pending = s.pending ∧ t.tide = s.tide ∧ t.cap = s.cap ∧ t.log = s.log ∧ t.rst = s.rst ∧ t.pwr = s.pwr ∧ t.strand = s.strand ∧ t.idx = s.idx ∧ t.qry = s.qry ∧ t.chg = s.chg ∧ t.key = s.key ∧ t.nb = s.nb ∧ t.gph = s.gph ∧ t.tbl = s.tbl ∧ t.rel = s.rel ∧ t.sec = s.sec

abbrev Keeps292 (s t : State) : Prop :=
  t.pending = s.pending ∧ t.tide = s.tide ∧ t.cap = s.cap ∧ t.log = s.log ∧ t.rst = s.rst ∧ t.pwr = s.pwr ∧ t.idx = s.idx ∧ t.qry = s.qry ∧ t.chg = s.chg ∧ t.key = s.key ∧ t.nb = s.nb ∧ t.gph = s.gph ∧ t.tbl = s.tbl ∧ t.rel = s.rel ∧ t.sec = s.sec

abbrev Keeps293 (s t : State) : Prop :=
  t.pending = s.pending ∧ t.tide = s.tide ∧ t.cap = s.cap ∧ t.log = s.log ∧ t.rst = s.rst ∧ t.pwr = s.pwr ∧ t.idx = s.idx ∧ t.qry = s.qry ∧ t.chg = s.chg ∧ t.key = s.key ∧ t.nb = s.nb ∧ t.gph = s.gph ∧ t.rel = s.rel ∧ t.sec = s.sec

abbrev Keeps294 (s t : State) : Prop :=
  t.pending = s.pending ∧ t.tide = s.tide ∧ t.cap = s.cap ∧ t.log = s.log ∧ t.pwr = s.pwr ∧ t.idx = s.idx ∧ t.chg = s.chg ∧ t.key = s.key ∧ t.gph = s.gph ∧ t.tbl = s.tbl ∧ t.rel = s.rel ∧ t.sec = s.sec

abbrev Keeps295 (s t : State) : Prop :=
  t.pending = s.pending ∧ t.out = s.out ∧ t.tide = s.tide ∧ t.cap = s.cap ∧ t.log = s.log ∧ t.rst = s.rst ∧ t.pwr = s.pwr ∧ t.strand = s.strand ∧ t.host = s.host ∧ t.idx = s.idx ∧ t.qry = s.qry ∧ t.chg = s.chg ∧ t.key = s.key ∧ t.nb = s.nb ∧ t.tbl = s.tbl ∧ t.rel = s.rel ∧ t.sec = s.sec

abbrev Keeps296 (s t : State) : Prop :=
  t.pending = s.pending ∧ t.tide = s.tide ∧ t.cap = s.cap ∧ t.log = s.log ∧ t.rst = s.rst ∧ t.pwr = s.pwr ∧ t.host = s.host ∧ t.qry = s.qry ∧ t.chg = s.chg ∧ t.key = s.key ∧ t.tbl = s.tbl ∧ t.sec = s.sec

abbrev Keeps297 (s t : State) : Prop :=
  t.pending = s.pending ∧ t.out = s.out ∧ t.tide = s.tide ∧ t.cap = s.cap ∧ t.log = s.log ∧ t.pwr = s.pwr ∧ t.strand = s.strand ∧ t.idx = s.idx ∧ t.qry = s.qry ∧ t.chg = s.chg ∧ t.key = s.key ∧ t.nb = s.nb ∧ t.tbl = s.tbl ∧ t.rel = s.rel ∧ t.sec = s.sec

abbrev Keeps298 (s t : State) : Prop :=
  t.pending = s.pending ∧ t.tide = s.tide ∧ t.cap = s.cap ∧ t.log = s.log ∧ t.pwr = s.pwr ∧ t.idx = s.idx ∧ t.chg = s.chg ∧ t.key = s.key ∧ t.tbl = s.tbl ∧ t.rel = s.rel ∧ t.sec = s.sec

abbrev Keeps299 (s t : State) : Prop :=
  t.pending = s.pending ∧ t.tide = s.tide ∧ t.cap = s.cap ∧ t.log = s.log ∧ t.pwr = s.pwr ∧ t.idx = s.idx ∧ t.chg = s.chg ∧ t.key = s.key ∧ t.rel = s.rel ∧ t.sec = s.sec

abbrev Keeps300 (s t : State) : Prop :=
  t.pending = s.pending ∧ t.tide = s.tide ∧ t.cap = s.cap ∧ t.log = s.log ∧ t.rst = s.rst ∧ t.pwr = s.pwr ∧ t.strand = s.strand ∧ t.idx = s.idx ∧ t.qry = s.qry ∧ t.chg = s.chg ∧ t.nb = s.nb ∧ t.tbl = s.tbl ∧ t.rel = s.rel ∧ t.sec = s.sec

abbrev Keeps301 (s t : State) : Prop :=
  t.pending = s.pending ∧ t.tide = s.tide ∧ t.cap = s.cap ∧ t.log = s.log ∧ t.pwr = s.pwr ∧ t.key = s.key ∧ t.sec = s.sec

abbrev Keeps302 (s t : State) : Prop :=
  t.pending = s.pending ∧ t.out = s.out ∧ t.free = s.free ∧ t.tide = s.tide ∧ t.cat = s.cat ∧ t.cap = s.cap ∧ t.log = s.log ∧ t.rst = s.rst ∧ t.pwr = s.pwr ∧ t.host = s.host ∧ t.idx = s.idx ∧ t.qry = s.qry ∧ t.chg = s.chg ∧ t.key = s.key ∧ t.coh = s.coh ∧ t.nb = s.nb ∧ t.flash = s.flash ∧ t.gph = s.gph ∧ t.berth = s.berth ∧ t.tbl = s.tbl ∧ t.rel = s.rel ∧ t.sec = s.sec

abbrev Keeps303 (s t : State) : Prop :=
  t.pending = s.pending ∧ t.out = s.out ∧ t.free = s.free ∧ t.tide = s.tide ∧ t.cat = s.cat ∧ t.cap = s.cap ∧ t.log = s.log ∧ t.rst = s.rst ∧ t.pwr = s.pwr ∧ t.strand = s.strand ∧ t.host = s.host ∧ t.idx = s.idx ∧ t.qry = s.qry ∧ t.chg = s.chg ∧ t.mem = s.mem ∧ t.coh = s.coh ∧ t.nb = s.nb ∧ t.gph = s.gph ∧ t.berth = s.berth ∧ t.tbl = s.tbl ∧ t.rel = s.rel ∧ t.sec = s.sec

abbrev Keeps304 (s t : State) : Prop :=
  t.pending = s.pending ∧ t.tide = s.tide ∧ t.cat = s.cat ∧ t.cap = s.cap ∧ t.log = s.log ∧ t.rst = s.rst ∧ t.pwr = s.pwr ∧ t.host = s.host ∧ t.idx = s.idx ∧ t.qry = s.qry ∧ t.chg = s.chg ∧ t.mem = s.mem ∧ t.key = s.key ∧ t.coh = s.coh ∧ t.nb = s.nb ∧ t.gph = s.gph ∧ t.berth = s.berth ∧ t.tbl = s.tbl ∧ t.sec = s.sec

abbrev Keeps305 (s t : State) : Prop :=
  t.pending = s.pending ∧ t.out = s.out ∧ t.free = s.free ∧ t.tide = s.tide ∧ t.cap = s.cap ∧ t.log = s.log ∧ t.rst = s.rst ∧ t.pwr = s.pwr ∧ t.host = s.host ∧ t.idx = s.idx ∧ t.qry = s.qry ∧ t.chg = s.chg ∧ t.key = s.key ∧ t.coh = s.coh ∧ t.nb = s.nb ∧ t.flash = s.flash ∧ t.gph = s.gph ∧ t.berth = s.berth ∧ t.tbl = s.tbl ∧ t.rel = s.rel ∧ t.sec = s.sec

abbrev Keeps306 (s t : State) : Prop :=
  t.pending = s.pending ∧ t.free = s.free ∧ t.tide = s.tide ∧ t.cap = s.cap ∧ t.log = s.log ∧ t.rst = s.rst ∧ t.pwr = s.pwr ∧ t.idx = s.idx ∧ t.qry = s.qry ∧ t.chg = s.chg ∧ t.mem = s.mem ∧ t.key = s.key ∧ t.coh = s.coh ∧ t.nb = s.nb ∧ t.flash = s.flash ∧ t.gph = s.gph ∧ t.berth = s.berth ∧ t.tbl = s.tbl ∧ t.rel = s.rel ∧ t.sec = s.sec

abbrev Keeps307 (s t : State) : Prop :=
  t.pending = s.pending ∧ t.out = s.out ∧ t.free = s.free ∧ t.tide = s.tide ∧ t.cap = s.cap ∧ t.log = s.log ∧ t.rst = s.rst ∧ t.pwr = s.pwr ∧ t.strand = s.strand ∧ t.host = s.host ∧ t.idx = s.idx ∧ t.qry = s.qry ∧ t.chg = s.chg ∧ t.coh = s.coh ∧ t.nb = s.nb ∧ t.gph = s.gph ∧ t.berth = s.berth ∧ t.tbl = s.tbl ∧ t.rel = s.rel ∧ t.sec = s.sec

abbrev Keeps308 (s t : State) : Prop :=
  t.pending = s.pending ∧ t.tide = s.tide ∧ t.cap = s.cap ∧ t.log = s.log ∧ t.pwr = s.pwr ∧ t.strand = s.strand ∧ t.idx = s.idx ∧ t.qry = s.qry ∧ t.chg = s.chg ∧ t.key = s.key ∧ t.nb = s.nb ∧ t.gph = s.gph ∧ t.berth = s.berth ∧ t.tbl = s.tbl ∧ t.rel = s.rel ∧ t.sec = s.sec

abbrev Keeps309 (s t : State) : Prop :=
  t.pending = s.pending ∧ t.tide = s.tide ∧ t.cap = s.cap ∧ t.log = s.log ∧ t.rst = s.rst ∧ t.pwr = s.pwr ∧ t.strand = s.strand ∧ t.idx = s.idx ∧ t.qry = s.qry ∧ t.chg = s.chg ∧ t.key = s.key ∧ t.gph = s.gph ∧ t.berth = s.berth ∧ t.tbl = s.tbl ∧ t.rel = s.rel ∧ t.sec = s.sec

abbrev Keeps310 (s t : State) : Prop :=
  t.pending = s.pending ∧ t.tide = s.tide ∧ t.cap = s.cap ∧ t.log = s.log ∧ t.rst = s.rst ∧ t.pwr = s.pwr ∧ t.strand = s.strand ∧ t.idx = s.idx ∧ t.chg = s.chg ∧ t.key = s.key ∧ t.gph = s.gph ∧ t.berth = s.berth ∧ t.tbl = s.tbl ∧ t.rel = s.rel ∧ t.sec = s.sec

abbrev Keeps311 (s t : State) : Prop :=
  t.pending = s.pending ∧ t.tide = s.tide ∧ t.cap = s.cap ∧ t.log = s.log ∧ t.rst = s.rst ∧ t.pwr = s.pwr ∧ t.strand = s.strand ∧ t.idx = s.idx ∧ t.qry = s.qry ∧ t.chg = s.chg ∧ t.key = s.key ∧ t.berth = s.berth ∧ t.tbl = s.tbl ∧ t.rel = s.rel ∧ t.sec = s.sec

abbrev Keeps312 (s t : State) : Prop :=
  t.pending = s.pending ∧ t.out = s.out ∧ t.free = s.free ∧ t.tide = s.tide ∧ t.log = s.log ∧ t.rst = s.rst ∧ t.pwr = s.pwr ∧ t.host = s.host ∧ t.idx = s.idx ∧ t.qry = s.qry ∧ t.chg = s.chg ∧ t.mem = s.mem ∧ t.key = s.key ∧ t.coh = s.coh ∧ t.nb = s.nb ∧ t.flash = s.flash ∧ t.gph = s.gph ∧ t.berth = s.berth ∧ t.tbl = s.tbl ∧ t.rel = s.rel

abbrev Keeps313 (s t : State) : Prop :=
  t.pending = s.pending ∧ t.free = s.free ∧ t.tide = s.tide ∧ t.log = s.log ∧ t.rst = s.rst ∧ t.pwr = s.pwr ∧ t.idx = s.idx ∧ t.qry = s.qry ∧ t.chg = s.chg ∧ t.mem = s.mem ∧ t.key = s.key ∧ t.coh = s.coh ∧ t.nb = s.nb ∧ t.flash = s.flash ∧ t.gph = s.gph ∧ t.berth = s.berth ∧ t.tbl = s.tbl ∧ t.rel = s.rel ∧ t.sec = s.sec

abbrev Keeps314 (s t : State) : Prop :=
  t.pending = s.pending ∧ t.free = s.free ∧ t.tide = s.tide ∧ t.log = s.log ∧ t.rst = s.rst ∧ t.pwr = s.pwr ∧ t.strand = s.strand ∧ t.idx = s.idx ∧ t.qry = s.qry ∧ t.chg = s.chg ∧ t.mem = s.mem ∧ t.key = s.key ∧ t.coh = s.coh ∧ t.nb = s.nb ∧ t.flash = s.flash ∧ t.gph = s.gph ∧ t.berth = s.berth ∧ t.tbl = s.tbl ∧ t.rel = s.rel

abbrev Keeps315 (s t : State) : Prop :=
  t.pending = s.pending ∧ t.free = s.free ∧ t.tide = s.tide ∧ t.log = s.log ∧ t.rst = s.rst ∧ t.pwr = s.pwr ∧ t.idx = s.idx ∧ t.qry = s.qry ∧ t.chg = s.chg ∧ t.mem = s.mem ∧ t.key = s.key ∧ t.coh = s.coh ∧ t.nb = s.nb ∧ t.flash = s.flash ∧ t.gph = s.gph ∧ t.berth = s.berth ∧ t.tbl = s.tbl ∧ t.rel = s.rel

abbrev Keeps316 (s t : State) : Prop :=
  t.pending = s.pending ∧ t.free = s.free ∧ t.tide = s.tide ∧ t.log = s.log ∧ t.pwr = s.pwr ∧ t.idx = s.idx ∧ t.qry = s.qry ∧ t.chg = s.chg ∧ t.mem = s.mem ∧ t.key = s.key ∧ t.coh = s.coh ∧ t.nb = s.nb ∧ t.flash = s.flash ∧ t.gph = s.gph ∧ t.berth = s.berth ∧ t.tbl = s.tbl ∧ t.rel = s.rel

abbrev Keeps317 (s t : State) : Prop :=
  t.pending = s.pending ∧ t.out = s.out ∧ t.free = s.free ∧ t.tide = s.tide ∧ t.cat = s.cat ∧ t.cap = s.cap ∧ t.log = s.log ∧ t.rst = s.rst ∧ t.pwr = s.pwr ∧ t.host = s.host ∧ t.idx = s.idx ∧ t.qry = s.qry ∧ t.chg = s.chg ∧ t.key = s.key ∧ t.nb = s.nb ∧ t.tbl = s.tbl ∧ t.rel = s.rel ∧ t.sec = s.sec

abbrev Keeps318 (s t : State) : Prop :=
  t.pending = s.pending ∧ t.out = s.out ∧ t.free = s.free ∧ t.tide = s.tide ∧ t.cat = s.cat ∧ t.cap = s.cap ∧ t.log = s.log ∧ t.rst = s.rst ∧ t.pwr = s.pwr ∧ t.host = s.host ∧ t.qry = s.qry ∧ t.chg = s.chg ∧ t.key = s.key ∧ t.nb = s.nb ∧ t.tbl = s.tbl ∧ t.rel = s.rel ∧ t.sec = s.sec

abbrev Keeps319 (s t : State) : Prop :=
  t.pending = s.pending ∧ t.out = s.out ∧ t.tide = s.tide ∧ t.cap = s.cap ∧ t.log = s.log ∧ t.rst = s.rst ∧ t.strand = s.strand ∧ t.host = s.host ∧ t.idx = s.idx ∧ t.chg = s.chg ∧ t.mem = s.mem ∧ t.key = s.key ∧ t.coh = s.coh ∧ t.nb = s.nb ∧ t.gph = s.gph ∧ t.tbl = s.tbl ∧ t.rel = s.rel ∧ t.sec = s.sec

abbrev Keeps320 (s t : State) : Prop :=
  t.pending = s.pending ∧ t.out = s.out ∧ t.free = s.free ∧ t.tide = s.tide ∧ t.cap = s.cap ∧ t.log = s.log ∧ t.rst = s.rst ∧ t.pwr = s.pwr ∧ t.host = s.host ∧ t.qry = s.qry ∧ t.chg = s.chg ∧ t.key = s.key ∧ t.nb = s.nb ∧ t.tbl = s.tbl ∧ t.rel = s.rel ∧ t.sec = s.sec

abbrev Keeps321 (s t : State) : Prop :=
  t.pending = s.pending ∧ t.out = s.out ∧ t.free = s.free ∧ t.tide = s.tide ∧ t.cap = s.cap ∧ t.log = s.log ∧ t.rst = s.rst ∧ t.pwr = s.pwr ∧ t.host = s.host ∧ t.qry = s.qry ∧ t.chg = s.chg ∧ t.key = s.key ∧ t.nb = s.nb ∧ t.tbl = s.tbl ∧ t.sec = s.sec

abbrev Keeps322 (s t : State) : Prop :=
  t.pending = s.pending ∧ t.tide = s.tide ∧ t.cap = s.cap ∧ t.pwr = s.pwr ∧ t.host = s.host ∧ t.qry = s.qry ∧ t.chg = s.chg ∧ t.key = s.key ∧ t.tbl = s.tbl ∧ t.sec = s.sec

abbrev Keeps323 (s t : State) : Prop :=
  t.pending = s.pending ∧ t.tide = s.tide ∧ t.cap = s.cap ∧ t.log = s.log ∧ t.rst = s.rst ∧ t.pwr = s.pwr ∧ t.strand = s.strand ∧ t.idx = s.idx ∧ t.qry = s.qry ∧ t.chg = s.chg ∧ t.key = s.key ∧ t.nb = s.nb ∧ t.tbl = s.tbl ∧ t.rel = s.rel ∧ t.sec = s.sec

abbrev Keeps324 (s t : State) : Prop :=
  t.pending = s.pending ∧ t.tide = s.tide ∧ t.cap = s.cap ∧ t.log = s.log ∧ t.rst = s.rst ∧ t.pwr = s.pwr ∧ t.idx = s.idx ∧ t.qry = s.qry ∧ t.chg = s.chg ∧ t.nb = s.nb ∧ t.tbl = s.tbl ∧ t.rel = s.rel ∧ t.sec = s.sec

abbrev Keeps325 (s t : State) : Prop :=
  t.pending = s.pending ∧ t.tide = s.tide ∧ t.cap = s.cap ∧ t.rst = s.rst ∧ t.pwr = s.pwr ∧ t.qry = s.qry ∧ t.chg = s.chg ∧ t.tbl = s.tbl ∧ t.sec = s.sec

abbrev Keeps326 (s t : State) : Prop :=
  t.pending = s.pending ∧ t.tide = s.tide ∧ t.cap = s.cap ∧ t.rst = s.rst ∧ t.pwr = s.pwr ∧ t.qry = s.qry ∧ t.key = s.key ∧ t.nb = s.nb ∧ t.gph = s.gph ∧ t.tbl = s.tbl ∧ t.rel = s.rel

end Sys2Proof.Machine
end

