-- ==== Sys2Proof/Laws/Memory.lean ====
section
/-! SUPPORT. The laws of the memory's cells: a read after a write gives what was written, a write leaves every other byte
alone, and every write keeps the canonical form. -/

namespace Sys2Proof.Machine

open Sys2Proof

theorem Cells.wf_iff (l : List Host.Cell) :
    Cells.wf l = true ↔ l.Pairwise (fun c d => c.1 < d.1) ∧ ∀ c ∈ l, c.2 ≠ 0 := by
  induction l with
  | nil => simp [Cells.wf]
  | cons c l ih =>
    cases l with
    | nil => simp [Cells.wf]
    | cons d r =>
      rw [Cells.wf, Bool.and_eq_true, Bool.and_eq_true, ih]
      simp only [bne_iff_ne, decide_eq_true_eq, List.pairwise_cons, List.mem_cons, forall_eq_or_imp]
      constructor
      · rintro ⟨⟨hc, hcd⟩, ⟨hd, hr⟩, hd0, hr0⟩
        exact ⟨⟨⟨hcd, fun x hx => Nat.lt_trans hcd (hd x hx)⟩, hd, hr⟩, hc, hd0, hr0⟩
      · rintro ⟨⟨⟨hcd, _⟩, hd, hr⟩, hc, hd0, hr0⟩
        exact ⟨⟨hc, hcd⟩, ⟨hd, hr⟩, hd0, hr0⟩

theorem Cells.mem_put {a : Nat} {v : Byte} {l : List Host.Cell} {c : Host.Cell} (h : c ∈ Cells.put a v l) :
    (c = (a, v) ∧ v ≠ 0) ∨ c ∈ l := by
  induction l with
  | nil =>
    unfold Cells.put at h
    split at h
    · cases h
    · exact .inl ⟨List.mem_singleton.mp h, ‹_›⟩
  | cons d r ih =>
    unfold Cells.put at h
    split at h
    · split at h
      · exact .inr h
      · rcases List.mem_cons.mp h with h | h
        · exact .inl ⟨h, ‹_›⟩
        · exact .inr h
    · split at h
      · split at h
        · exact .inr (List.mem_cons_of_mem _ h)
        · rcases List.mem_cons.mp h with h | h
          · exact .inl ⟨h, ‹_›⟩
          · exact .inr (List.mem_cons_of_mem _ h)
      · rcases List.mem_cons.mp h with h | h
        · exact .inr (h ▸ List.mem_cons_self)
        · exact (ih h).imp id (List.mem_cons_of_mem _)

theorem Cells.wf_put (a : Nat) (v : Byte) (l : List Host.Cell) (h : Cells.wf l = true) : Cells.wf (Cells.put a v l) = true := by
  rw [Cells.wf_iff] at h ⊢
  refine ⟨?_, fun c hc => ?_⟩
  · obtain ⟨h, -⟩ := h
    induction l with
    | nil => unfold Cells.put; split <;> simp
    | cons d r ih =>
      have hd := List.pairwise_cons.mp h
      unfold Cells.put
      split
      · split
        · exact h
        · refine List.pairwise_cons.mpr ⟨fun x hx => ?_, h⟩
          rcases List.mem_cons.mp hx with hx | hx
          · subst hx; assumption
          · exact Nat.lt_trans ‹_› (hd.1 x hx)
      · split
        · split
          · exact hd.2
          · rename_i he _
            exact List.pairwise_cons.mpr ⟨fun x hx => he ▸ hd.1 x hx, hd.2⟩
        · refine List.pairwise_cons.mpr ⟨fun x hx => ?_, ih hd.2⟩
          rcases Cells.mem_put hx with ⟨hx, -⟩ | hx
          · subst hx; dsimp only; omega
          · exact hd.1 x hx
  · rcases Cells.mem_put hc with ⟨hc, hv⟩ | hc
    · subst hc; exact hv
    · exact h.2 c hc

theorem Cells.wf_write (l : List Host.Cell) (a : Nat) (bs : Bytes) (h : Cells.wf l = true) : Cells.wf (Cells.write l a bs) = true := by
  induction bs generalizing l a with
  | nil => exact h
  | cons v r ih => exact ih _ _ (Cells.wf_put a v l h)

theorem Cells.read_of_not_mem (l : List Host.Cell) (a : Nat) (h : ∀ c ∈ l, c.1 ≠ a) : Cells.read l a = 0 := by
  unfold Cells.read
  rw [List.find?_eq_none.mpr (fun c hc => by simpa using h c hc)]

/-- A byte reads as what was written to it. -/
theorem Cells.read_put_same (a : Nat) (v : Byte) (l : List Host.Cell) (h : Cells.wf l = true) :
    Cells.read (Cells.put a v l) a = v := by
  replace h := ((Cells.wf_iff l).mp h).1
  induction l with
  | nil =>
    unfold Cells.put
    split
    · subst_vars; rfl
    · simp [Cells.read]
  | cons d r ih =>
    have hd := List.pairwise_cons.mp h
    unfold Cells.put
    split
    · split
      · subst_vars
        refine Cells.read_of_not_mem _ _ fun c hc => ?_
        rcases List.mem_cons.mp hc with hc | hc
        · subst hc; omega
        · have := hd.1 c hc; omega
      · simp [Cells.read]
    · split
      · split
        · subst_vars
          exact Cells.read_of_not_mem _ _ fun c hc => by have := hd.1 c hc; omega
        · simp [Cells.read]
      · have hne : d.1 ≠ a := by omega
        simpa [Cells.read, hne] using ih hd.2

/-- A write leaves every other byte alone. -/
theorem Cells.read_put_other (a b : Nat) (v : Byte) (l : List Host.Cell) (h : b ≠ a) :
    Cells.read (Cells.put a v l) b = Cells.read l b := by
  induction l with
  | nil =>
    unfold Cells.put
    split
    · rfl
    · simp [Cells.read, Ne.symm h]
  | cons d r ih =>
    unfold Cells.put
    split
    · split
      · rfl
      · simp [Cells.read, Ne.symm h]
    · split
      · have hd : d.1 ≠ b := by omega
        split <;> simp [Cells.read, hd, Ne.symm h]
      · unfold Cells.read at ih ⊢
        rw [List.find?_cons, List.find?_cons]
        cases hb : d.1 == b with
        | true => rfl
        | false => exact ih

/-- Bytes outside those that a string is written to read as before. -/
theorem Cells.read_write_other (l : List Host.Cell) (a b : Nat) (bs : Bytes) (h : b < a ∨ a + bs.length ≤ b) :
    Cells.read (Cells.write l a bs) b = Cells.read l b := by
  induction bs generalizing l a with
  | nil => rfl
  | cons v r ih =>
    rw [List.length_cons] at h
    rw [Cells.write, ih _ _ (by omega), Cells.read_put_other _ _ _ _ (by omega)]

/-- A written byte string reads back. -/
theorem Cells.read_write (l : List Host.Cell) (a i : Nat) (bs : Bytes) (h : Cells.wf l = true) (hi : i < bs.length) :
    Cells.read (Cells.write l a bs) (a + i) = bs[i] := by
  induction bs generalizing l a i with
  | nil => cases hi
  | cons v r ih =>
    rw [Cells.write]
    cases i with
    | zero =>
      rw [Cells.read_write_other _ _ _ _ (by omega)]
      exact Cells.read_put_same a v l h
    | succ i =>
      have hr := ih (Cells.put a v l) (a + 1) i (Cells.wf_put a v l h) (Nat.lt_of_succ_lt_succ hi)
      rw [show a + (i + 1) = a + 1 + i from by omega, hr]
      rfl

@[simp] theorem Mem.setLine_wf (m : MemUnit) (n : Nat) (o : Option (Nat × Bool)) (d : Bytes) (h : Cells.wf m.cells = true) :
    Cells.wf (Mem.setLine m n o d).cells = true := by
  unfold Mem.setLine
  split
  · exact Cells.wf_write m.cells (n * 64) (padTo 64 d) h
  · generalize List.replicate 64 (0 : Byte) = z
    exact Cells.wf_write m.cells (n * 64) z h

@[simp] theorem Mem.mend_cells (m : MemUnit) (n : Nat) : (Mem.mend m n).cells = m.cells := rfl

@[simp] theorem Mem.spoil_cells (m : MemUnit) (n : Nat) : (Mem.spoil m n).cells = m.cells := by
  unfold Mem.spoil
  split <;> rfl

@[simp] theorem Mem.allocRun_cells (m : MemUnit) (o a n : Nat) (p : Bool) : (Mem.allocRun m o a n p).cells = m.cells := rfl

@[simp] theorem Mem.mapPage_cells (m : MemUnit) (id : PageId) (f : Page → Page) : (Mem.mapPage m id f).cells = m.cells := rfl

end Sys2Proof.Machine
end

