-- ==== Sys2Proof/Laws/Cells.lean ====
section
/-! SUPPORT. The canonical form of the memory's cells through conditionals and folds. -/

namespace Sys2Proof.Machine

open Sys2Proof

@[simp] theorem ite_cells (c : Prop) [Decidable c] (x y : MemUnit) :
    (if c then x else y).cells = if c then x.cells else y.cells := apply_ite _ _ _ _

@[simp] theorem ite_wf (c : Prop) [Decidable c] (x y : List Host.Cell) :
    Cells.wf (if c then x else y) = if c then Cells.wf x else Cells.wf y := apply_ite _ _ _ _

@[simp] theorem foldl_wf {b : Type} (g : State → b → State) (l : List b) (s : State)
    (h : ∀ s x, Cells.wf s.mem.cells = true → Cells.wf (g s x).mem.cells = true) (hm : Cells.wf s.mem.cells = true) :
    Cells.wf (l.foldl g s).mem.cells = true := by
  induction l generalizing s with
  | nil => exact hm
  | cons x l ih => exact ih _ (h s x hm)

@[simp] theorem foldl_mem_wf {b : Type} (g : MemUnit → b → MemUnit) (l : List b) (s : MemUnit)
    (h : ∀ s x, Cells.wf s.cells = true → Cells.wf (g s x).cells = true) (hm : Cells.wf s.cells = true) :
    Cells.wf (l.foldl g s).cells = true := by
  induction l generalizing s with
  | nil => exact hm
  | cons x l ih => exact ih _ (h s x hm)

@[simp] theorem foldl2_wf {a b : Type} (g : a × State → b → a × State) (l : List b) (s : a × State)
    (h : ∀ s x, Cells.wf s.2.mem.cells = true → Cells.wf (g s x).2.mem.cells = true) (hm : Cells.wf s.2.mem.cells = true) :
    Cells.wf (l.foldl g s).2.mem.cells = true := by
  induction l generalizing s with
  | nil => exact hm
  | cons x l ih => exact ih _ (h s x hm)

@[simp] theorem foldl3_wf {a c b : Type} (g : a × c × State → b → a × c × State) (l : List b) (s : a × c × State)
    (h : ∀ s x, Cells.wf s.2.2.mem.cells = true → Cells.wf (g s x).2.2.mem.cells = true) (hm : Cells.wf s.2.2.mem.cells = true) :
    Cells.wf (l.foldl g s).2.2.mem.cells = true := by
  induction l generalizing s with
  | nil => exact hm
  | cons x l ih => exact ih _ (h s x hm)

theorem next_wf {s post : State} (h : (Host.Outcome.next s : Host.Outcome State Fault Refusal) = .next post) (hm : Cells.wf s.mem.cells = true) :
    Cells.wf post.mem.cells = true := by
  injection h with h
  exact h ▸ hm

theorem cells_ite {c : Prop} [Decidable c] {x y : State} (hx : Cells.wf x.mem.cells = true) (hy : Cells.wf y.mem.cells = true) :
    Cells.wf (if c then x else y).mem.cells = true := by
  split
  · exact hx
  · exact hy

theorem after_wf {o : Host.Outcome State Fault Refusal} {s : State} (h : ∀ t, o = .next t → Cells.wf t.mem.cells = true)
    (hm : Cells.wf s.mem.cells = true) : Cells.wf (after o s).mem.cells = true := by
  cases o with
  | next t => exact h t rfl
  | fault _ => exact hm
  | refused _ => exact hm

theorem getD_wf {o : Option State} {d : State} (h : ∀ t, o = some t → Cells.wf t.mem.cells = true) (hd : Cells.wf d.mem.cells = true) :
    Cells.wf (o.getD d).mem.cells = true := by
  cases o with
  | none => exact hd
  | some t => exact h t rfl

theorem foldl_wf_of {a b : Type} (st : a → State) {g : a → b → a} {l : List b} {x : a}
    (h : ∀ x y, Cells.wf (st x).mem.cells = true → Cells.wf (st (g x y)).mem.cells = true) (hm : Cells.wf (st x).mem.cells = true) :
    Cells.wf (st (l.foldl g x)).mem.cells = true := by
  induction l generalizing x with
  | nil => exact hm
  | cons y l ih => exact ih (h x y hm)

theorem foldl_some_wf {b : Type} {f : State → b → Option State} {l : List b} {s t : State}
    (h : ∀ s x t, Cells.wf s.mem.cells = true → f s x = some t → Cells.wf t.mem.cells = true) (hm : Cells.wf s.mem.cells = true)
    (e : l.foldl (fun acc x => acc.bind fun s => f s x) (some s) = some t) : Cells.wf t.mem.cells = true :=
  foldl_some_keeps (R := fun s t => Cells.wf s.mem.cells = true → Cells.wf t.mem.cells = true) (fun _ => id)
    (fun _ _ _ h1 h2 hs => h2 (h1 hs)) (fun s x t hf hs => h s x t hs hf) e hm

@[simp] theorem Mem.freePage_wf (m : MemUnit) (a : Nat) (hm : Cells.wf m.cells = true) : Cells.wf (Mem.freePage m a).cells = true := by
  unfold Mem.freePage
  dsimp only
  apply foldl_mem_wf _ _ _ _ hm
  intro m n h
  exact Mem.setLine_wf m n none [] h

@[simp] theorem Mem.freeFixed_wf (m : MemUnit) (as : List Nat) (hm : Cells.wf m.cells = true) :
    Cells.wf (Mem.freeFixed m as).cells = true :=
  foldl_mem_wf Mem.freePage as _ (fun m a h => Mem.freePage_wf m a h) hm

@[simp] theorem Mem.storeBytes_wf (m : MemUnit) (o : Nat) (p : Bool) (a : Nat) (b : Bytes) (hm : Cells.wf m.cells = true) :
    Cells.wf (Mem.storeBytes m o p a b).cells = true :=
  foldl_mem_wf _ _ _ (fun m _ h => Mem.setLine_wf m _ _ _ h) hm

@[simp] theorem copyLine_wf (v : Move) (a b : Nat) (m : MemUnit) (t : LineTag) (hm : Cells.wf m.cells = true) :
    Cells.wf (copyLine v a b m t).cells = true := by
  unfold copyLine
  have h := Mem.setLine_wf m (lineOf b + (t.line - lineOf a)) (some (t.owner, t.plane)) (Mem.line m t.line) hm
  dsimp only
  repeat' split
  · exact hm
  · simpa using h
  · exact h

theorem Mem.allocFixed_cells {m : MemUnit} {o : Nat} {p : Bool} {r : Nat × MemUnit} (h : Mem.allocFixed m o p = some r) :
    r.2.cells = m.cells := by
  unfold Mem.allocFixed at h
  rw [Option.map_eq_some_iff] at h
  obtain ⟨a, -, h⟩ := h
  cases h
  rfl

theorem Mem.allocPage_cells {m : MemUnit} {id : PageId} {o : Nat} {p : Bool} {now : Nat} {r : Nat × MemUnit}
    (h : Mem.allocPage m id o p now = some r) : r.2.cells = m.cells := by
  unfold Mem.allocPage at h
  rw [Option.map_eq_some_iff] at h
  obtain ⟨a, -, h⟩ := h
  cases h
  rfl

end Sys2Proof.Machine
end

