-- ==== Sys2Proof/Laws/FrameOps.lean ====
section
/-! SUPPORT. Frames of Ops.lean: which units of the state each of its functions leaves as they are. -/

namespace Sys2Proof.Machine

set_option linter.unusedSimpArgs false
set_option linter.unusedVariables false
set_option linter.unusedTactic false
set_option linter.unreachableTactic false
set_option Elab.async false

open Sys2Proof Sys2Proof.Machine

theorem State.setVal_frame (s : State) (k : Nat) (v : Val) : Keeps1 s (State.setVal s k v) := by
  unfold Keeps1 State.setVal
  simp

theorem State.setNum_frame (s : State) (k v : Nat) : Keeps1 s (State.setNum s k v) := by
  unfold Keeps1 State.setNum
  simp [State.setVal_frame ..]

theorem State.bump_frame (s : State) (k : Nat) (n : Nat) : Keeps1 s (State.bump s k n) := by
  unfold Keeps1 State.bump
  simp [State.setNum_frame ..]

theorem State.drawFree_frame (s : State) : Keeps2 s (State.drawFree s).2 := by
  unfold Keeps2 State.drawFree
  simp

theorem State.drawRandom_frame (s : State) : Keeps2 s (State.drawRandom s).2 := by
  unfold Keeps2 State.drawRandom
  simp

theorem State.emit_frame (s : State) (o : Output) : Keeps3 s (State.emit s o) := by
  unfold Keeps3 State.emit
  simp

theorem State.wakeCluster_frame (s : State) (cluster : Nat) : Keeps4 s (State.wakeCluster s cluster) := by
  unfold Keeps4 State.wakeCluster
  simp

theorem State.wakeAll_frame (s : State) : Keeps4 s (State.wakeAll s) := by
  unfold Keeps4 State.wakeAll
  simp

end Sys2Proof.Machine
end

