-- ==== Sys2Proof/Laws/FrameEvents.lean ====
section
/-! SUPPORT. Frames of Events.lean: which units of the state each of its functions leaves as they are. -/

namespace Sys2Proof.Machine

set_option linter.unusedSimpArgs false
set_option linter.unusedVariables false
set_option linter.unusedTactic false
set_option linter.unreachableTactic false
set_option Elab.async false

open Sys2Proof Sys2Proof.Machine

theorem State.logEventAt_frame (s : State) (tide phase code outcome status spareKind unit detail : Nat) : Keeps8 s (State.logEventAt s tide phase code outcome status spareKind unit detail) := by
  unfold State.logEventAt
  dsimp only
  repeat' split
  all_goals simp [State.setNum_frame .., State.bump_frame .., Keeps8]

theorem State.logEvent_frame (s : State) (code outcome status spareKind unit detail : Nat) : Keeps8 s (State.logEvent s code outcome status spareKind unit detail) := by
  unfold Keeps8 State.logEvent
  simp [State.logEventAt_frame ..]

end Sys2Proof.Machine
end

