-- ==== Sys2Proof/Laws/FrameCurator.lean ====
section
/-! SUPPORT. Frames of Curator.lean: which units of the state each of its functions leaves as they are. -/

namespace Sys2Proof.Machine

set_option linter.unusedSimpArgs false
set_option linter.unusedVariables false
set_option linter.unusedTactic false
set_option linter.unreachableTactic false
set_option Elab.async false

open Sys2Proof Sys2Proof.Machine

namespace Flash

theorem levelWear_frame (s : State) (c : Chan) : Keeps12 s (levelWear s c) := by
  unfold levelWear
  repeat' split
  all_goals simp [Keeps12]

theorem nextJob_frame (s : State) (n : Nat) : Keeps12 s (nextJob s n) := by
  unfold nextJob
  dsimp only
  repeat' split
  all_goals simp [levelWear_frame .., Keeps12]

theorem retire_frame (s : State) (n b : Nat) : Keeps13 s (retire s n b) := by
  unfold retire
  repeat' split
  all_goals simp [State.setNum_frame .., State.logEvent_frame .., State.bump_frame .., Keeps13]

theorem programOk_frame (s : State) (p : Program) : Keeps14 s (programOk s p) := by
  unfold programOk
  dsimp only
  repeat' split
  all_goals simp [State.bump_frame .., Keeps14]

theorem programFail_frame (s : State) (p : Program) : Keeps13 s (programFail s p) := by
  unfold Keeps13 programFail
  simp [State.bump_frame .., retire_frame ..]

theorem settleChan_frame (s : State) (n : Nat) : Keeps12 s (settleChan s n) := by
  unfold Keeps12 settleChan
  simp [nextJob_frame ..]

end Flash

end Sys2Proof.Machine
end

