-- ==== Sys2Proof/Laws/FrameMemory.lean ====
section
/-! SUPPORT. Frames of Memory.lean: which units of the state each of its functions leaves as they are. -/

namespace Sys2Proof.Machine

set_option linter.unusedSimpArgs false
set_option linter.unusedVariables false
set_option linter.unusedTactic false
set_option linter.unreachableTactic false
set_option Elab.async false

open Sys2Proof Sys2Proof.Machine

namespace Coh

theorem store_frame (s : State) (line : Nat) (tag : Option Nat) (data : Bytes) : Keeps15 s (store s line tag data) := by
  unfold Keeps15 store
  simp

theorem evict_frame (s : State) (line : Nat) : Keeps16 s (evict s line) := by
  unfold evict
  repeat' split
  all_goals simp [store_frame .., Keeps16]

theorem makeWay_frame (s : State) (line : Nat) : Keeps240 s (makeWay s line) := by
  unfold makeWay
  dsimp only
  repeat' split
  all_goals simp [State.drawFree_frame .., evict_frame .., Keeps240]

theorem fill_frame (s : State) (x : SliceLine) : Keeps240 s (fill s x) := by
  unfold Keeps240 fill
  simp [makeWay_frame ..]

theorem storeMoving_frame (s : State) (v : Move) (line : Nat) (tag : Option Nat) (data : Bytes) : Keeps15 s (storeMoving s v line tag data) := by
  unfold storeMoving
  dsimp only
  repeat' split
  all_goals simp [store_frame .., Keeps15]

theorem clean_frame (s : State) (line : Nat) : Keeps16 s (clean s line) := by
  unfold clean
  repeat' split
  all_goals simp [store_frame .., Keeps16]

theorem flush_frame (s : State) (line : Nat) : Keeps16 s (flush s line) := by
  unfold Keeps16 flush
  simp [clean_frame ..]

theorem flushPage_frame (s : State) (a : Nat) : Keeps16 s (flushPage s a) := by
  unfold Keeps16 flushPage
  simp [flush_frame ..]

end Coh

theorem cancelMove_frame (s : State) (v : Move) : Keeps17 s (cancelMove s v) := by
  unfold cancelMove
  repeat' split
  all_goals simp [Keeps17]

theorem touch_frame (s : State) (id : PageId) : Keeps18 s (touch s id) := by
  unfold touch
  dsimp only
  repeat' split
  all_goals simp [cancelMove_frame .., State.bump_frame .., Keeps18]

theorem touchAddr_frame (s : State) (a : Nat) : Keeps18 s (touchAddr s a) := by
  unfold touchAddr
  repeat' split
  all_goals simp [touch_frame .., Keeps18]

theorem touchRange_frame (s : State) (a n : Nat) : Keeps18 s (touchRange s a n) := by
  unfold Keeps18 touchRange
  simp [touchAddr_frame ..]

theorem rangeRead_frame (s : State) (owner a n : Nat) : Keeps18 s (rangeRead s owner a n).2.2 := by
  unfold Keeps18 rangeRead
  simp [touchRange_frame ..]

theorem writeLine_frame (s : State) (owner line off : Nat) (data : Bytes) : Keeps240 s (writeLine s owner line off data) := by
  unfold writeLine
  repeat' split
  all_goals simp [Coh.storeMoving_frame .., Coh.fill_frame .., Keeps240]

theorem rangeWrite_frame (s : State) (owner a : Nat) (data : Bytes) : Keeps85 s (rangeWrite s owner a data).2 := by
  unfold Keeps85 rangeWrite
  simp [touchRange_frame .., writeLine_frame ..]

theorem Coh.recallLine_frame (s : State) (line : Nat) : Keeps240 s (Coh.recallLine s line) := by
  unfold Coh.recallLine
  repeat' split
  all_goals simp [Coh.fill_frame .., Keeps240]

theorem lineAtomic_frame (s : State) (owner a op : Nat) (operand expected : Bytes) (fabric : Bool) : Keeps85 s (lineAtomic s owner a op operand expected fabric).2.2 := by
  unfold Keeps85 lineAtomic
  simp [touchAddr_frame .., Coh.flush_frame .., State.bump_frame .., writeLine_frame .., Coh.recallLine_frame ..]

theorem startToFlash_frame (s : State) (p : Page) : Keeps20 s (startToFlash s p) := by
  unfold startToFlash
  repeat' split
  all_goals simp [Coh.flushPage_frame .., Keeps20]

theorem startToMemory_frame (s : State) (p : Page) (dest : Tier) : Keeps16 s (startToMemory s p dest) := by
  unfold startToMemory
  repeat' split
  all_goals simp [Coh.flushPage_frame .., Keeps16]

theorem promote_frame (s : State) (p : Page) (cls : Nat) : Keeps19 s (promote s p cls).2 := by
  unfold promote
  repeat' split
  all_goals simp [State.bump_frame .., startToMemory_frame .., Keeps19]

theorem fetchPages_frame (s : State) (ids : List PageId) : Keeps19 s (fetchPages s ids) := by
  unfold fetchPages
  apply foldl_keeps (R := Keeps19)
  · simp [promote_frame .., touch_frame .., Keeps19]
  · simp +contextual [promote_frame .., touch_frame .., Keeps19]
  · intro s x
    try dsimp only
    repeat' split
    all_goals simp [promote_frame .., touch_frame .., Keeps19]

theorem freePages_frame (s : State) (ids : List PageId) : Keeps15 s (freePages s ids) := by
  unfold Keeps15 freePages
  simp

theorem demoteStack_frame (n : Nat) (s : State) : Keeps20 s (demoteStack n s) := by
  induction n generalizing s with
  | zero => simp [startToFlash_frame .., State.bump_frame .., demoteStack, Keeps20]
  | succ n ih =>
    unfold demoteStack
    repeat' split
    all_goals simp [startToFlash_frame .., State.bump_frame .., Keeps20, ih]

theorem demoteNow_frame (s : State) : Keeps19 s (demoteNow s) := by
  unfold Keeps19 demoteNow
  simp [demoteStack_frame .., State.bump_frame ..]

theorem demoteShelf_frame (n : Nat) (s : State) : Keeps16 s (demoteShelf n s) := by
  induction n generalizing s with
  | zero => simp [startToMemory_frame .., demoteShelf, Keeps16]
  | succ n ih =>
    unfold demoteShelf
    repeat' split
    all_goals simp [startToMemory_frame .., Keeps16, ih]

theorem promoteOne_frame (s : State) (p : Page) : Keeps16 s (promoteOne s p) := by
  unfold promoteOne promoteOne.makeShelf
  dsimp only
  repeat' split
  all_goals simp [startToMemory_frame .., Keeps16]

theorem promoteShelf_frame (s : State) : Keeps16 s (promoteShelf s) := by
  unfold promoteShelf
  apply ite_keeps (R := Keeps16)
  · simp [Keeps16]
  · apply foldl_keeps (R := Keeps16)
    · simp [Keeps16]
    · simp +contextual [Keeps16]
    · exact promoteOne_frame

theorem shiftTouch_frame (s : State) (t : Nat) : Keeps15 s (shiftTouch s t) := by
  unfold Keeps15 shiftTouch
  simp

theorem switchToFlash_frame (s : State) (p : Page) (a : Nat) : Keeps16 s (switchToFlash s p a) := by
  unfold Keeps16 switchToFlash
  simp

theorem switchFromFlash_frame (s : State) (p : Page) (d : Tier) (b : Nat) : Keeps20 s (switchFromFlash s p d b) := by
  unfold Keeps20 switchFromFlash
  simp

theorem switchInMemory_frame (s : State) (v : Move) (p : Page) (a b : Nat) : Keeps16 s (switchInMemory s v p a b) := by
  unfold Keeps16 switchInMemory
  simp [Coh.flushPage_frame ..]

theorem switchMove_frame (s : State) (v : Move) (p : Page) : Keeps19 s (switchMove s v p) := by
  unfold switchMove
  repeat' split
  all_goals simp [State.bump_frame .., switchInMemory_frame .., switchToFlash_frame .., switchFromFlash_frame .., Coh.flushPage_frame .., Keeps19]

theorem releasePage_frame (s : State) (id : PageId) : Keeps20 s (releasePage s id) := by
  unfold releasePage
  repeat' split
  all_goals simp [cancelMove_frame .., Keeps20]

theorem freeFixedPages_frame (s : State) (as : List Nat) : Keeps16 s (freeFixedPages s as) := by
  unfold Keeps16 freeFixedPages
  simp

theorem sweepOwner_frame (s : State) (k : Nat) : Keeps20 s (sweepOwner s k) := by
  unfold Keeps20 sweepOwner
  simp [releasePage_frame ..]

end Sys2Proof.Machine
end

