-- ==== Sys2Proof/Laws/CellsMemory.lean ====
section
/-! SUPPORT. The functions of Memory.lean keep the canonical form of the memory's cells. -/

namespace Sys2Proof.Machine

set_option linter.unusedSimpArgs false
set_option linter.unusedVariables false
set_option linter.unusedTactic false
set_option linter.unreachableTactic false
set_option Elab.async false

open Sys2Proof Sys2Proof.Machine

namespace Coh

@[simp] theorem store_wf (s : State) (line : Nat) (tag : Option Nat) (data : Bytes) (hm : Cells.wf s.mem.cells = true) : Cells.wf (store s line tag data).mem.cells = true := by
  unfold store
  simp +contextual (maxDischargeDepth := 20) [hm]

@[simp] theorem evict_wf (s : State) (line : Nat) (hm : Cells.wf s.mem.cells = true) : Cells.wf (evict s line).mem.cells = true := by
  unfold evict
  repeat' split
  all_goals simp +contextual (maxDischargeDepth := 20) [hm]

@[simp] theorem makeWay_wf (s : State) (line : Nat) (hm : Cells.wf s.mem.cells = true) : Cells.wf (makeWay s line).mem.cells = true := by
  unfold makeWay
  dsimp only
  repeat' split
  all_goals simp +contextual (maxDischargeDepth := 20) [State.drawFree_frame .., hm]

@[simp] theorem fill_wf (s : State) (x : SliceLine) (hm : Cells.wf s.mem.cells = true) : Cells.wf (fill s x).mem.cells = true := by
  unfold fill
  simp +contextual (maxDischargeDepth := 20) [hm]

@[simp] theorem storeMoving_wf (s : State) (v : Move) (line : Nat) (tag : Option Nat) (data : Bytes) (hm : Cells.wf s.mem.cells = true) : Cells.wf (storeMoving s v line tag data).mem.cells = true := by
  unfold storeMoving
  dsimp only
  repeat' split
  all_goals simp +contextual (maxDischargeDepth := 20) [hm]

@[simp] theorem clean_wf (s : State) (line : Nat) (hm : Cells.wf s.mem.cells = true) : Cells.wf (clean s line).mem.cells = true := by
  unfold clean
  repeat' split
  all_goals simp +contextual (maxDischargeDepth := 20) [hm]

@[simp] theorem flush_wf (s : State) (line : Nat) (hm : Cells.wf s.mem.cells = true) : Cells.wf (flush s line).mem.cells = true := by
  unfold flush
  simp +contextual (maxDischargeDepth := 20) [hm]

@[simp] theorem flushPage_wf (s : State) (a : Nat) (hm : Cells.wf s.mem.cells = true) : Cells.wf (flushPage s a).mem.cells = true := by
  unfold flushPage
  apply foldl_wf
  · intro s x hm
    try dsimp only
    repeat' split
    all_goals simp +contextual (maxDischargeDepth := 20) [hm]
  · exact hm

end Coh

@[simp] theorem cancelMove_wf (s : State) (v : Move) (hm : Cells.wf s.mem.cells = true) : Cells.wf (cancelMove s v).mem.cells = true := by
  unfold cancelMove
  repeat' split
  all_goals simp +contextual (maxDischargeDepth := 20) [hm]

@[simp] theorem touch_wf (s : State) (id : PageId) (hm : Cells.wf s.mem.cells = true) : Cells.wf (touch s id).mem.cells = true := by
  unfold touch
  dsimp only
  repeat' split
  all_goals simp +contextual (maxDischargeDepth := 20) [State.bump_frame .., hm]

@[simp] theorem touchAddr_wf (s : State) (a : Nat) (hm : Cells.wf s.mem.cells = true) : Cells.wf (touchAddr s a).mem.cells = true := by
  unfold touchAddr
  repeat' split
  all_goals simp +contextual (maxDischargeDepth := 20) [hm]

@[simp] theorem touchRange_wf (s : State) (a n : Nat) (hm : Cells.wf s.mem.cells = true) : Cells.wf (touchRange s a n).mem.cells = true := by
  unfold touchRange
  simp +contextual (maxDischargeDepth := 20) [hm]

@[simp] theorem rangeRead_wf (s : State) (owner a n : Nat) (hm : Cells.wf s.mem.cells = true) : Cells.wf (rangeRead s owner a n).2.2.mem.cells = true := by
  unfold rangeRead
  simp +contextual (maxDischargeDepth := 20) [hm]

@[simp] theorem writeLine_wf (s : State) (owner line off : Nat) (data : Bytes) (hm : Cells.wf s.mem.cells = true) : Cells.wf (writeLine s owner line off data).mem.cells = true := by
  unfold writeLine
  repeat' split
  all_goals simp +contextual (maxDischargeDepth := 20) [hm]

@[simp] theorem rangeWrite_wf (s : State) (owner a : Nat) (data : Bytes) (hm : Cells.wf s.mem.cells = true) : Cells.wf (rangeWrite s owner a data).2.mem.cells = true := by
  unfold rangeWrite
  simp +contextual (maxDischargeDepth := 20) [hm]

@[simp] theorem Coh.recallLine_wf (s : State) (line : Nat) (hm : Cells.wf s.mem.cells = true) : Cells.wf (Coh.recallLine s line).mem.cells = true := by
  unfold Coh.recallLine
  repeat' split
  all_goals simp +contextual (maxDischargeDepth := 20) [hm]

@[simp] theorem lineAtomic_wf (s : State) (owner a op : Nat) (operand expected : Bytes) (fabric : Bool) (hm : Cells.wf s.mem.cells = true) : Cells.wf (lineAtomic s owner a op operand expected fabric).2.2.mem.cells = true := by
  unfold lineAtomic
  simp +contextual (maxDischargeDepth := 20) [State.bump_frame .., hm]

@[simp] theorem startToFlash_wf (s : State) (p : Page) (hm : Cells.wf s.mem.cells = true) : Cells.wf (startToFlash s p).mem.cells = true := by
  unfold startToFlash
  repeat' split
  all_goals simp +contextual (maxDischargeDepth := 20) [hm]

@[simp] theorem startToMemory_wf (s : State) (p : Page) (dest : Tier) (hm : Cells.wf s.mem.cells = true) : Cells.wf (startToMemory s p dest).mem.cells = true := by
  unfold startToMemory
  repeat' split
  all_goals simp +contextual (maxDischargeDepth := 20) [hm]

@[simp] theorem promote_wf (s : State) (p : Page) (cls : Nat) (hm : Cells.wf s.mem.cells = true) : Cells.wf (promote s p cls).2.mem.cells = true := by
  unfold promote
  repeat' split
  all_goals simp +contextual (maxDischargeDepth := 20) [State.bump_frame .., hm]

@[simp] theorem fetchPages_wf (s : State) (ids : List PageId) (hm : Cells.wf s.mem.cells = true) : Cells.wf (fetchPages s ids).mem.cells = true := by
  unfold fetchPages
  apply foldl_wf
  · intro s x hm
    try dsimp only
    repeat' split
    all_goals simp +contextual (maxDischargeDepth := 20) [hm]
  · exact hm

@[simp] theorem freePages_wf (s : State) (ids : List PageId) (hm : Cells.wf s.mem.cells = true) : Cells.wf (freePages s ids).mem.cells = true := by
  unfold freePages
  simp +contextual (maxDischargeDepth := 20) [hm]

@[simp] theorem demoteStack_wf (n : Nat) (s : State) (hm : Cells.wf s.mem.cells = true) : Cells.wf (demoteStack n s).mem.cells = true := by
  induction n generalizing s with
  | zero => simpa [demoteStack] using hm
  | succ n ih =>
    unfold demoteStack
    repeat' split
    all_goals simp [hm, ih]

@[simp] theorem demoteNow_wf (s : State) (hm : Cells.wf s.mem.cells = true) : Cells.wf (demoteNow s).mem.cells = true := by
  unfold demoteNow
  simp +contextual (maxDischargeDepth := 20) [State.bump_frame .., hm]

@[simp] theorem demoteShelf_wf (n : Nat) (s : State) (hm : Cells.wf s.mem.cells = true) : Cells.wf (demoteShelf n s).mem.cells = true := by
  induction n generalizing s with
  | zero => simpa [demoteShelf] using hm
  | succ n ih =>
    unfold demoteShelf
    repeat' split
    all_goals simp [hm, ih]

@[simp] theorem promoteOne_wf (s : State) (p : Page) (hm : Cells.wf s.mem.cells = true) : Cells.wf (promoteOne s p).mem.cells = true := by
  unfold promoteOne promoteOne.makeShelf
  dsimp only
  repeat' split
  all_goals simp (maxDischargeDepth := 20) [hm]

@[simp] theorem promoteShelf_wf (s : State) (hm : Cells.wf s.mem.cells = true) : Cells.wf (promoteShelf s).mem.cells = true := by
  unfold promoteShelf
  refine cells_ite hm ?_
  apply foldl_wf
  · intro s x hm
    repeat' split
    all_goals simp +contextual (maxDischargeDepth := 20) [hm]
  · exact hm

@[simp] theorem shiftTouch_wf (s : State) (t : Nat) (hm : Cells.wf s.mem.cells = true) : Cells.wf (shiftTouch s t).mem.cells = true := by
  unfold shiftTouch
  simp +contextual (maxDischargeDepth := 20) [hm]

@[simp] theorem switchToFlash_wf (s : State) (p : Page) (a : Nat) (hm : Cells.wf s.mem.cells = true) : Cells.wf (switchToFlash s p a).mem.cells = true := by
  unfold switchToFlash
  simp +contextual (maxDischargeDepth := 20) [hm]

@[simp] theorem switchFromFlash_wf (s : State) (p : Page) (d : Tier) (b : Nat) (hm : Cells.wf s.mem.cells = true) : Cells.wf (switchFromFlash s p d b).mem.cells = true := by
  unfold switchFromFlash
  have h1 : ∀ (l : List Nat) (m : MemUnit) (f : Nat → Nat), Cells.wf m.cells = true → Cells.wf (l.foldl (fun m i => Mem.spoil m (f i)) m).cells = true :=
    fun l m f h => foldl_mem_wf _ l m (fun m i h => by simpa using h) h
  simp only [Mem.mapPage_cells]
  refine h1 _ _ _ (foldl_wf _ _ _ ?_ hm)
  intro s q h
  have h2 := fun d => Mem.setLine_wf s.mem (lineOf b + q.1) (some (p.owner, q.2)) d h
  split
  · simpa using h2 _
  · exact h2 _

@[simp] theorem copyBad_wf (v : Move) (a b : Nat) (m : MemUnit) (hm : Cells.wf m.cells = true) : Cells.wf (copyBad v a b m).cells = true := by
  unfold copyBad
  exact foldl_mem_wf _ _ _ (fun m n h => by simpa [Mem.spoil] using h) hm

@[simp] theorem switchInMemory_wf (s : State) (v : Move) (p : Page) (a b : Nat) (hm : Cells.wf s.mem.cells = true) : Cells.wf (switchInMemory s v p a b).mem.cells = true := by
  unfold switchInMemory
  have h1 := Coh.flushPage_wf s a hm
  have h2 := fun l => foldl_mem_wf (copyLine v a b) l _ (fun m t h => copyLine_wf v a b m t h) h1
  have h3 := fun l => copyBad_wf v a b _ (h2 l)
  have h4 := fun l => Mem.freePage_wf _ a (h3 l)
  simpa using h4 _

@[simp] theorem switchMove_wf (s : State) (v : Move) (p : Page) (hm : Cells.wf s.mem.cells = true) : Cells.wf (switchMove s v p).mem.cells = true := by
  unfold switchMove
  repeat' split
  all_goals simp +contextual (maxDischargeDepth := 20) [State.bump_frame .., hm]

@[simp] theorem releasePage_wf (s : State) (id : PageId) (hm : Cells.wf s.mem.cells = true) : Cells.wf (releasePage s id).mem.cells = true := by
  unfold releasePage
  repeat' split
  all_goals simp +contextual (maxDischargeDepth := 20) [hm]

@[simp] theorem freeFixedPages_wf (s : State) (as : List Nat) (hm : Cells.wf s.mem.cells = true) : Cells.wf (freeFixedPages s as).mem.cells = true := by
  unfold freeFixedPages
  simp +contextual (maxDischargeDepth := 20) [hm]

@[simp] theorem sweepOwner_wf (s : State) (k : Nat) (hm : Cells.wf s.mem.cells = true) : Cells.wf (sweepOwner s k).mem.cells = true := by
  unfold sweepOwner
  dsimp only
  apply foldl_mem_wf
  · intro m n hm
    exact Mem.setLine_wf _ _ _ _ hm
  · apply foldl_wf _ _ _ _ hm
    intro s x hm
    simp (maxDischargeDepth := 20) [hm]

end Sys2Proof.Machine
end

