-- ==== Sys2Proof/Laws/FrameCoherence.lean ====
section
/-! SUPPORT. Frames of Coherence.lean: which units of the state each of its functions leaves as they are. -/

namespace Sys2Proof.Machine

set_option linter.unusedSimpArgs false
set_option linter.unusedVariables false
set_option linter.unusedTactic false
set_option linter.unreachableTactic false
set_option Elab.async false

open Sys2Proof Sys2Proof.Machine

theorem backInvalidate_frame (s : State) (b : BackInv) : Keeps23 s (backInvalidate s b) := by
  unfold Keeps23 backInvalidate
  simp [State.emit_frame .., State.bump_frame ..]

theorem bisnpEnded_frame (s : State) (b : BackInv) : Keeps23 s (bisnpEnded s b) := by
  unfold bisnpEnded
  dsimp only
  repeat' split
  all_goals simp [State.emit_frame .., State.bump_frame .., Keeps23]

namespace Coh

theorem dropOutside_frame (s : State) (p : Nat → Bool) : Keeps237 s (dropOutside s p) := by
  unfold Keeps237 dropOutside
  simp [State.emit_frame ..]

theorem emptySlice_frame (s : State) (cluster : Nat) : Keeps239 s (emptySlice s cluster) := by
  unfold Keeps239 emptySlice
  simp [dropOutside_frame .., flush_frame ..]

theorem passSlots_frame (s : State) (cluster : Nat) : Keeps1 s (passSlots s cluster) := by
  unfold passSlots
  dsimp only
  repeat' split
  all_goals simp [State.setVal_frame .., Keeps1]

theorem makeRoom_frame (s : State) (line : Nat) : Keeps249 s (makeRoom s line) := by
  unfold makeRoom
  dsimp only
  repeat' split
  all_goals simp [State.drawFree_frame .., recallLine_frame .., State.bump_frame .., Keeps249]

theorem noteShare_frame (s : State) (line : Nat) : Keeps84 s (noteShare s line) := by
  unfold Keeps84 noteShare
  simp [State.bump_frame ..]

theorem dropCopy_frame (s : State) (core line : Nat) : Keeps82 s (dropCopy s core line) := by
  unfold Keeps82 dropCopy
  simp

theorem leaveL1_frame (s : State) (x : L1Line) : Keeps240 s (leaveL1 s x) := by
  unfold Keeps240 leaveL1
  simp [dropCopy_frame .., fill_frame ..]

theorem makeL1_frame (s : State) (core line : Nat) : Keeps240 s (makeL1 s core line) := by
  unfold makeL1
  dsimp only
  repeat' split
  all_goals simp [State.drawFree_frame .., leaveL1_frame .., Keeps240]

theorem grant_frame (s : State) (core line : Nat) (st : CState) (data : Bytes) (tag : Option Nat) : Keeps249 s (grant s core line st data tag) := by
  unfold Keeps249 grant
  simp [makeL1_frame .., makeRoom_frame .., noteShare_frame ..]

theorem endReq_frame (s : State) (q : CohReq) (status : Nat) (data : Bytes) : Keeps82 s (endReq s q status data) := by
  unfold Keeps82 endReq
  simp

theorem grantRead_frame (s : State) (q : CohReq) : Keeps249 s (grantRead s q) := by
  unfold grantRead
  repeat' split
  all_goals simp [endReq_frame .., fill_frame .., grant_frame .., Keeps249]

theorem grantOwn_frame (s : State) (q : CohReq) : Keeps249 s (grantOwn s q) := by
  unfold Keeps249 grantOwn
  simp [endReq_frame .., grant_frame ..]

theorem execute_frame (s : State) (q : CohReq) : Keeps85 s (execute s q) := by
  unfold execute
  repeat' split
  all_goals simp [touchAddr_frame .., endReq_frame .., grantRead_frame .., writeLine_frame .., grantOwn_frame .., lineAtomic_frame .., Keeps85]

theorem hostYields_frame (s : State) (line : Nat) : Keeps23 s (hostYields s line) := by
  unfold hostYields
  repeat' split
  all_goals simp [bisnpEnded_frame .., Keeps23]

theorem arrive_frame (s : State) (q : CohReq) : Keeps258 s (arrive s q) := by
  unfold arrive
  repeat' split
  all_goals simp [backInvalidate_frame .., execute_frame .., Keeps258]

theorem drain_frame (s : State) (qs : List CohReq) : Keeps258 s (drain s qs) := by
  unfold Keeps258 drain
  simp [arrive_frame ..]

theorem acknowledge_frame (s : State) (core line : Nat) : Keeps258 s (acknowledge s core line) := by
  unfold acknowledge
  dsimp only
  repeat' split
  all_goals simp [hostYields_frame .., fill_frame .., drain_frame .., execute_frame .., Keeps258]

theorem settleLine_frame (n : Nat) (s : State) (n' : Nat) : Keeps258 s (settleLine n s n') := by
  induction n generalizing s with
  | zero => simp [acknowledge_frame .., settleLine, Keeps258]
  | succ n ih =>
    unfold settleLine
    repeat' split
    all_goals simp [acknowledge_frame .., Keeps258, ih]

theorem settleLines_frame (s : State) (p : Nat → Bool) : Keeps258 s (settleLines s p) := by
  unfold Keeps258 settleLines
  simp [settleLine_frame ..]

theorem settled_frame (s : State) (a n : Nat) : Keeps258 s (settled s a n) := by
  unfold Keeps258 settled
  simp [settleLines_frame ..]

end Coh

theorem agentRead_frame (s : State) (owner a n : Nat) : Keeps258 s (agentRead s owner a n).2.2 := by
  unfold Keeps258 agentRead
  simp [rangeRead_frame .., Coh.settled_frame .., touchRange_frame .., touchAddr_frame ..]

theorem agentWrite_frame (s : State) (owner a : Nat) (data : Bytes) : Keeps258 s (agentWrite s owner a data).2 := by
  unfold Keeps258 agentWrite
  simp [rangeWrite_frame .., Coh.settled_frame .., touchRange_frame .., writeLine_frame .., touchAddr_frame ..]

theorem agentAtomic_frame (s : State) (owner a op : Nat) (operand expected : Bytes) (fabric : Bool) : Keeps258 s (agentAtomic s owner a op operand expected fabric).2.2 := by
  unfold Keeps258 agentAtomic
  simp [lineAtomic_frame .., Coh.settled_frame .., touchAddr_frame .., Coh.flush_frame .., State.bump_frame .., writeLine_frame ..]

theorem readPaged_frame (s : State) (owner : Nat) (addr : Nat → Option Nat) (off n : Nat) : Keeps258 s (readPaged s owner addr off n).2.2 := by
  unfold readPaged
  refine foldl_keeps_of (R := Keeps258) (fun a : Nat × Bytes × State => a.2.2) (x := (St.ok, [], s)) ?_ ?_ ?_
  · simp [Keeps258]
  · simp +contextual [Keeps258]
  · intro x y
    dsimp only
    split <;> simp [agentRead_frame .., Keeps258]

theorem writePaged_frame (s : State) (owner : Nat) (addr : Nat → Option Nat) (off : Nat) (data : Bytes) : Keeps258 s (writePaged s owner addr off data).2 := by
  unfold writePaged
  refine foldl_keeps_of (R := Keeps258) (fun a : Nat × State => a.2) (x := (St.ok, s)) ?_ ?_ ?_
  · simp [Keeps258]
  · simp +contextual [Keeps258]
  · intro x y
    dsimp only
    split <;> simp [agentWrite_frame .., Keeps258]

end Sys2Proof.Machine
end

