-- ==== Sys2Proof/Laws/CellsCoherence.lean ====
section
/-! SUPPORT. The functions of Coherence.lean keep the canonical form of the memory's cells. -/

namespace Sys2Proof.Machine

set_option linter.unusedSimpArgs false
set_option linter.unusedVariables false
set_option linter.unusedTactic false
set_option linter.unreachableTactic false
set_option Elab.async false

open Sys2Proof Sys2Proof.Machine

namespace Coh

@[simp] theorem emptySlice_wf (s : State) (cluster : Nat) (hm : Cells.wf s.mem.cells = true) : Cells.wf (emptySlice s cluster).mem.cells = true := by
  unfold emptySlice
  simp +contextual (maxDischargeDepth := 20) [dropOutside_frame .., hm]

@[simp] theorem makeRoom_wf (s : State) (line : Nat) (hm : Cells.wf s.mem.cells = true) : Cells.wf (makeRoom s line).mem.cells = true := by
  unfold makeRoom
  dsimp only
  repeat' split
  all_goals simp +contextual (maxDischargeDepth := 20) [State.drawFree_frame .., State.bump_frame .., hm]

@[simp] theorem leaveL1_wf (s : State) (x : L1Line) (hm : Cells.wf s.mem.cells = true) : Cells.wf (leaveL1 s x).mem.cells = true := by
  unfold leaveL1
  simp +contextual (maxDischargeDepth := 20) [dropCopy_frame .., hm]

@[simp] theorem makeL1_wf (s : State) (core line : Nat) (hm : Cells.wf s.mem.cells = true) : Cells.wf (makeL1 s core line).mem.cells = true := by
  unfold makeL1
  dsimp only
  repeat' split
  all_goals simp +contextual (maxDischargeDepth := 20) [State.drawFree_frame .., hm]

@[simp] theorem grant_wf (s : State) (core line : Nat) (st : CState) (data : Bytes) (tag : Option Nat) (hm : Cells.wf s.mem.cells = true) : Cells.wf (grant s core line st data tag).mem.cells = true := by
  unfold grant
  simp +contextual (maxDischargeDepth := 20) [noteShare_frame .., hm]

@[simp] theorem grantRead_wf (s : State) (q : CohReq) (hm : Cells.wf s.mem.cells = true) : Cells.wf (grantRead s q).mem.cells = true := by
  unfold grantRead
  repeat' split
  all_goals simp +contextual (maxDischargeDepth := 20) [endReq_frame .., hm]

@[simp] theorem grantOwn_wf (s : State) (q : CohReq) (hm : Cells.wf s.mem.cells = true) : Cells.wf (grantOwn s q).mem.cells = true := by
  unfold grantOwn
  simp +contextual (maxDischargeDepth := 20) [endReq_frame .., hm]

@[simp] theorem execute_wf (s : State) (q : CohReq) (hm : Cells.wf s.mem.cells = true) : Cells.wf (execute s q).mem.cells = true := by
  unfold execute
  repeat' split
  all_goals simp +contextual (maxDischargeDepth := 20) [endReq_frame .., hm]

@[simp] theorem arrive_wf (s : State) (q : CohReq) (hm : Cells.wf s.mem.cells = true) : Cells.wf (arrive s q).mem.cells = true := by
  unfold arrive
  repeat' split
  all_goals simp +contextual (maxDischargeDepth := 20) [backInvalidate_frame .., hm]

@[simp] theorem drain_wf (s : State) (qs : List CohReq) (hm : Cells.wf s.mem.cells = true) : Cells.wf (drain s qs).mem.cells = true := by
  unfold drain
  simp +contextual (maxDischargeDepth := 20) [hm]

@[simp] theorem acknowledge_wf (s : State) (core line : Nat) (hm : Cells.wf s.mem.cells = true) : Cells.wf (acknowledge s core line).mem.cells = true := by
  unfold acknowledge
  dsimp only
  repeat' split
  all_goals simp +contextual (maxDischargeDepth := 20) [hostYields_frame .., hm]

@[simp] theorem settleLine_wf (n : Nat) (s : State) (n' : Nat) (hm : Cells.wf s.mem.cells = true) : Cells.wf (settleLine n s n').mem.cells = true := by
  induction n generalizing s with
  | zero => simp [settleLine, hm]
  | succ n ih =>
    unfold settleLine
    repeat' split
    all_goals simp +contextual (maxDischargeDepth := 20) [hm, ih]

@[simp] theorem settleLines_wf (s : State) (p : Nat → Bool) (hm : Cells.wf s.mem.cells = true) : Cells.wf (settleLines s p).mem.cells = true := by
  unfold settleLines
  simp +contextual (maxDischargeDepth := 20) [hm]

@[simp] theorem settled_wf (s : State) (a n : Nat) (hm : Cells.wf s.mem.cells = true) : Cells.wf (settled s a n).mem.cells = true := by
  unfold settled
  simp +contextual (maxDischargeDepth := 20) [hm]

end Coh

@[simp] theorem agentRead_wf (s : State) (owner a n : Nat) (hm : Cells.wf s.mem.cells = true) : Cells.wf (agentRead s owner a n).2.2.mem.cells = true := by
  unfold agentRead
  simp +contextual (maxDischargeDepth := 20) [hm]

@[simp] theorem agentWrite_wf (s : State) (owner a : Nat) (data : Bytes) (hm : Cells.wf s.mem.cells = true) : Cells.wf (agentWrite s owner a data).2.mem.cells = true := by
  unfold agentWrite
  simp +contextual (maxDischargeDepth := 20) [hm]

@[simp] theorem agentAtomic_wf (s : State) (owner a op : Nat) (operand expected : Bytes) (fabric : Bool) (hm : Cells.wf s.mem.cells = true) : Cells.wf (agentAtomic s owner a op operand expected fabric).2.2.mem.cells = true := by
  unfold agentAtomic
  simp +contextual (maxDischargeDepth := 20) [hm]

@[simp] theorem readPaged_wf (s : State) (owner : Nat) (addr : Nat → Option Nat) (off n : Nat) (hm : Cells.wf s.mem.cells = true) : Cells.wf (readPaged s owner addr off n).2.2.mem.cells = true := by
  unfold readPaged
  refine foldl_wf_of (fun a : Nat × Bytes × State => a.2.2) ?_ hm
  intro x y h
  dsimp only
  split
  · exact h
  · exact agentRead_wf _ _ _ _ h

@[simp] theorem writePaged_wf (s : State) (owner : Nat) (addr : Nat → Option Nat) (off : Nat) (data : Bytes) (hm : Cells.wf s.mem.cells = true) : Cells.wf (writePaged s owner addr off data).2.mem.cells = true := by
  unfold writePaged
  refine foldl_wf_of (fun a : Nat × State => a.2) ?_ hm
  intro x y h
  dsimp only
  split
  · exact h
  · exact agentWrite_wf _ _ _ _ h

end Sys2Proof.Machine
end

