-- ==== Sys2Proof/Laws/FrameHostOps.lean ====
section
/-! SUPPORT. Frames of HostOps.lean: which units of the state each of its functions leaves as they are. -/

namespace Sys2Proof.Machine

set_option linter.unusedSimpArgs false
set_option linter.unusedVariables false
set_option linter.unusedTactic false
set_option linter.unreachableTactic false
set_option Elab.async false

open Sys2Proof Sys2Proof.Machine

theorem hdmBack_frame (s : State) (hpa : Nat) {post} (h : hdmBack s hpa = some post) : Keeps15 s post := by
  unfold hdmBack at h
  rw [Option.map_eq_some_iff] at h
  obtain ⟨r, hr, h⟩ := h
  cases h
  simp [State.bump_frame .., Keeps15]

theorem holdAccess_frame (s : State) (hpa : Nat) (write : Option Bytes) (inside promotion : Bool) : Keeps22 s (holdAccess s hpa write inside promotion) := by
  unfold Keeps22 holdAccess
  simp

theorem hdmStore_frame (s : State) (hpa : Nat) (data : Bytes) : Keeps258 s (hdmStore s hpa data) := by
  unfold hdmStore
  repeat' split
  all_goals (try (have hk := hdmBack_frame _ _ (by assumption); unfold Keeps258 at hk))
  all_goals simp_all [backInvalidate_frame .., holdAccess_frame .., State.bump_frame .., agentWrite_frame .., touch_frame .., promote_frame .., Keeps258]

theorem State.hostWrite_frame (s : State) (a : Nat) (data : Bytes) : Keeps258 s (State.hostWrite s a data) := by
  have hp (t : State) (b : Nat) (d : Bytes) : Keeps258 t (State.hostWrite.posted t b d) := by
    unfold State.hostWrite.posted
    split <;> simp [Keeps258, State.emit_frame ..]
  unfold State.hostWrite
  apply ite_keeps (R := Keeps258) (by simp [Keeps258])
  apply ite_keeps (R := Keeps258) _ (hp ..)
  apply foldl_keeps (R := Keeps258)
  · simp [Keeps258]
  · simp +contextual [Keeps258]
  · intro s x
    apply ite_keeps (R := Keeps258) _ (hp ..)
    simp [hdmStore_frame .., Keeps258]

theorem mapPair_frame (s : State) (q : Nat) (f : Pair → Pair) : Keeps22 s (mapPair s q f) := by
  unfold Keeps22 mapPair
  simp

theorem sendInterrupt_frame (s : State) (q : Nat) : Keeps25 s (sendInterrupt s q) := by
  unfold sendInterrupt
  dsimp only
  repeat' split
  all_goals simp [mapPair_frame .., State.emit_frame .., Keeps25]

theorem putEntry_frame (s : State) (c : HostCmd) (status : Nat) (specific : Bytes) (retry : Nat) : Keeps258 s (putEntry s c status specific retry) := by
  unfold Keeps258 putEntry
  simp [State.hostWrite_frame .., mapPair_frame .., State.bump_frame ..]

theorem drainLate_frame (n : Nat) (s : State) : Keeps258 s (drainLate n s) := by
  induction n generalizing s with
  | zero => simp [sendInterrupt_frame .., putEntry_frame .., drainLate, Keeps258]
  | succ n ih =>
    unfold drainLate
    repeat' split
    all_goals simp [sendInterrupt_frame .., putEntry_frame .., Keeps258, ih]

theorem sendLate_frame (s : State) : Keeps258 s (sendLate s) := by
  unfold Keeps258 sendLate
  simp [drainLate_frame ..]

theorem signalLate_frame (s : State) (q : Nat) : Keeps258 s (signalLate s q) := by
  unfold Keeps258 signalLate
  simp [sendLate_frame ..]

theorem writeCompletion_frame (s : State) (c : HostCmd) (status : Nat) (specific : Bytes) (retry : Nat) : Keeps258 s (writeCompletion s c status specific retry) := by
  unfold Keeps258 writeCompletion
  simp [sendLate_frame .., State.hostWrite_frame .., mapPair_frame .., State.bump_frame .., sendInterrupt_frame ..]

theorem State.finish_frame (s : State) (id status : Nat) (specific : Bytes) (retry : Nat) : Keeps258 s (State.finish s id status specific retry) := by
  unfold State.finish
  repeat' split
  all_goals simp [State.bump_frame .., writeCompletion_frame .., Keeps258]

theorem State.cmdWrite_frame (s : State) (id a : Nat) (data : Bytes) : Keeps258 s (State.cmdWrite s id a data) := by
  unfold State.cmdWrite
  repeat' split
  all_goals simp [State.hostWrite_frame .., Keeps258]

theorem State.refuse_frame (s : State) (id status : Nat) : Keeps258 s (State.refuse s id status) := by
  unfold Keeps258 State.refuse
  simp [State.finish_frame ..]

theorem State.retryAt_frame (s : State) (id retry : Nat) : Keeps258 s (State.retryAt s id retry) := by
  unfold Keeps258 State.retryAt
  simp [State.finish_frame ..]

theorem startCmd_frame (s : State) (id : Nat) : Keeps22 s (startCmd s id) := by
  unfold Keeps22 startCmd
  simp

theorem touchInput_frame (s : State) (a n : Nat) : Keeps258 s (touchInput s a n) := by
  unfold Keeps258 touchInput
  simp [touch_frame .., Coh.settled_frame ..]

theorem fetchInput_frame (s : State) (a n : Nat) : Keeps19 s (fetchInput s a n) := by
  unfold fetchInput
  apply ite_keeps (R := Keeps19) (by simp [Keeps19])
  apply foldl_keeps (R := Keeps19)
  · simp [Keeps19]
  · simp +contextual [Keeps19]
  · intro s x
    repeat' split
    all_goals simp [promote_frame .., touch_frame .., Keeps19]

theorem holdCmd_frame (s : State) (id : Nat) : Keeps22 s (holdCmd s id) := by
  unfold Keeps22 holdCmd
  simp

theorem holdInputs_frame (s : State) (id : Nat) (l : List (Nat × Nat)) : Keeps90 s (holdInputs s id l) := by
  unfold Keeps90 holdInputs
  simp [holdCmd_frame .., fetchInput_frame ..]

theorem stallCmd_frame (s : State) (id : Nat) : Keeps133 s (stallCmd s id) := by
  unfold Keeps133 stallCmd
  simp [State.bump_frame ..]

theorem demoteFor_frame (s : State) : Keeps19 s (demoteFor s) := by
  unfold Keeps19 demoteFor
  simp [demoteNow_frame ..]

theorem awaitPages_frame (s : State) (cmd : Nat) : Keeps90 s (awaitPages s cmd) := by
  unfold Keeps90 awaitPages
  simp [stallCmd_frame .., demoteFor_frame ..]

@[simp] theorem waitForPages_pending (s : State) (cmd : Nat) (refused : State → State) (hf : ∀ t, (refused t).pending = t.pending) : (waitForPages s cmd refused).pending = s.pending := by
  unfold waitForPages
  simp [demoteFor_frame .., stallCmd_frame .., hf]

@[simp] theorem waitForPages_out (s : State) (cmd : Nat) (refused : State → State) (hf : ∀ t, (refused t).out = t.out) : (waitForPages s cmd refused).out = s.out := by
  unfold waitForPages
  simp [demoteFor_frame .., stallCmd_frame .., hf]

@[simp] theorem waitForPages_free (s : State) (cmd : Nat) (refused : State → State) (hf : ∀ t, (refused t).free = t.free) : (waitForPages s cmd refused).free = s.free := by
  unfold waitForPages
  simp [demoteFor_frame .., stallCmd_frame .., hf]

@[simp] theorem waitForPages_tide (s : State) (cmd : Nat) (refused : State → State) (hf : ∀ t, (refused t).tide = t.tide) : (waitForPages s cmd refused).tide = s.tide := by
  unfold waitForPages
  simp [demoteFor_frame .., stallCmd_frame .., hf]

@[simp] theorem waitForPages_cap (s : State) (cmd : Nat) (refused : State → State) (hf : ∀ t, (refused t).cap = t.cap) : (waitForPages s cmd refused).cap = s.cap := by
  unfold waitForPages
  simp [demoteFor_frame .., stallCmd_frame .., hf]

@[simp] theorem waitForPages_log (s : State) (cmd : Nat) (refused : State → State) (hf : ∀ t, (refused t).log = t.log) : (waitForPages s cmd refused).log = s.log := by
  unfold waitForPages
  simp [demoteFor_frame .., stallCmd_frame .., hf]

@[simp] theorem waitForPages_rst (s : State) (cmd : Nat) (refused : State → State) (hf : ∀ t, (refused t).rst = t.rst) : (waitForPages s cmd refused).rst = s.rst := by
  unfold waitForPages
  simp [demoteFor_frame .., stallCmd_frame .., hf]

@[simp] theorem waitForPages_pwr (s : State) (cmd : Nat) (refused : State → State) (hf : ∀ t, (refused t).pwr = t.pwr) : (waitForPages s cmd refused).pwr = s.pwr := by
  unfold waitForPages
  simp [demoteFor_frame .., stallCmd_frame .., hf]

@[simp] theorem waitForPages_strand (s : State) (cmd : Nat) (refused : State → State) (hf : ∀ t, (refused t).strand = t.strand) : (waitForPages s cmd refused).strand = s.strand := by
  unfold waitForPages
  simp [demoteFor_frame .., stallCmd_frame .., hf]

@[simp] theorem waitForPages_idx (s : State) (cmd : Nat) (refused : State → State) (hf : ∀ t, (refused t).idx = t.idx) : (waitForPages s cmd refused).idx = s.idx := by
  unfold waitForPages
  simp [demoteFor_frame .., stallCmd_frame .., hf]

@[simp] theorem waitForPages_qry (s : State) (cmd : Nat) (refused : State → State) (hf : ∀ t, (refused t).qry = t.qry) : (waitForPages s cmd refused).qry = s.qry := by
  unfold waitForPages
  simp [demoteFor_frame .., stallCmd_frame .., hf]

@[simp] theorem waitForPages_chg (s : State) (cmd : Nat) (refused : State → State) (hf : ∀ t, (refused t).chg = t.chg) : (waitForPages s cmd refused).chg = s.chg := by
  unfold waitForPages
  simp [demoteFor_frame .., stallCmd_frame .., hf]

@[simp] theorem waitForPages_key (s : State) (cmd : Nat) (refused : State → State) (hf : ∀ t, (refused t).key = t.key) : (waitForPages s cmd refused).key = s.key := by
  unfold waitForPages
  simp [demoteFor_frame .., stallCmd_frame .., hf]

@[simp] theorem waitForPages_nb (s : State) (cmd : Nat) (refused : State → State) (hf : ∀ t, (refused t).nb = t.nb) : (waitForPages s cmd refused).nb = s.nb := by
  unfold waitForPages
  simp [demoteFor_frame .., stallCmd_frame .., hf]

@[simp] theorem waitForPages_gph (s : State) (cmd : Nat) (refused : State → State) (hf : ∀ t, (refused t).gph = t.gph) : (waitForPages s cmd refused).gph = s.gph := by
  unfold waitForPages
  simp [demoteFor_frame .., stallCmd_frame .., hf]

@[simp] theorem waitForPages_berth (s : State) (cmd : Nat) (refused : State → State) (hf : ∀ t, (refused t).berth = t.berth) : (waitForPages s cmd refused).berth = s.berth := by
  unfold waitForPages
  simp [demoteFor_frame .., stallCmd_frame .., hf]

@[simp] theorem waitForPages_tbl (s : State) (cmd : Nat) (refused : State → State) (hf : ∀ t, (refused t).tbl = t.tbl) : (waitForPages s cmd refused).tbl = s.tbl := by
  unfold waitForPages
  simp [demoteFor_frame .., stallCmd_frame .., hf]

@[simp] theorem waitForPages_rel (s : State) (cmd : Nat) (refused : State → State) (hf : ∀ t, (refused t).rel = t.rel) : (waitForPages s cmd refused).rel = s.rel := by
  unfold waitForPages
  simp [demoteFor_frame .., stallCmd_frame .., hf]

@[simp] theorem waitForPages_sec (s : State) (cmd : Nat) (refused : State → State) (hf : ∀ t, (refused t).sec = t.sec) : (waitForPages s cmd refused).sec = s.sec := by
  unfold waitForPages
  simp [demoteFor_frame .., stallCmd_frame .., hf]

end Sys2Proof.Machine
end

