-- ==== Sys2Proof/Laws/CellsHostOps.lean ====
section
/-! SUPPORT. The functions of HostOps.lean keep the canonical form of the memory's cells. -/

namespace Sys2Proof.Machine

set_option linter.unusedSimpArgs false
set_option linter.unusedVariables false
set_option linter.unusedTactic false
set_option linter.unreachableTactic false
set_option Elab.async false

open Sys2Proof Sys2Proof.Machine

theorem hdmBack_wf (s : State) (hpa : Nat) (hm : Cells.wf s.mem.cells = true) {post} (h : hdmBack s hpa = some post) : Cells.wf post.mem.cells = true := by
  unfold hdmBack at h
  rw [Option.map_eq_some_iff] at h
  obtain ⟨r, hr, h⟩ := h
  cases h
  have hc := Mem.allocPage_cells hr
  simpa [hc] using hm

@[simp] theorem hdmStore_wf (s : State) (hpa : Nat) (data : Bytes) (hm : Cells.wf s.mem.cells = true) : Cells.wf (hdmStore s hpa data).mem.cells = true := by
  unfold hdmStore
  split
  · exact hm
  · split
    · simp (maxDischargeDepth := 20) [backInvalidate_frame .., holdAccess_frame .., State.bump_frame .., hm]
    · split
      · split
        · simp (maxDischargeDepth := 20) [backInvalidate_frame .., holdAccess_frame .., State.bump_frame .., hm]
        · rename_i h
          have h := hdmBack_wf _ _ hm h
          split
          · simp (maxDischargeDepth := 20) [backInvalidate_frame .., holdAccess_frame .., State.bump_frame .., h]
          · exact h
      · split
        · simp (maxDischargeDepth := 20) [backInvalidate_frame .., holdAccess_frame .., State.bump_frame .., hm]
        · simp (maxDischargeDepth := 20) [backInvalidate_frame .., holdAccess_frame .., State.bump_frame .., hm]

@[simp] theorem State.hostWrite_wf (s : State) (a : Nat) (data : Bytes) (hm : Cells.wf s.mem.cells = true) : Cells.wf (State.hostWrite s a data).mem.cells = true := by
  have hp (t : State) (b : Nat) (d : Bytes) (h : Cells.wf t.mem.cells = true) : Cells.wf (State.hostWrite.posted t b d).mem.cells = true := by
    unfold State.hostWrite.posted
    split <;> simp [State.emit_frame .., h]
  unfold State.hostWrite
  apply cells_ite hm
  apply cells_ite _ (hp _ _ _ hm)
  refine foldl_wf _ _ _ (fun s x hm => cells_ite ?_ (hp _ _ _ hm)) hm
  exact hdmStore_wf _ _ _ hm

@[simp] theorem putEntry_wf (s : State) (c : HostCmd) (status : Nat) (specific : Bytes) (retry : Nat) (hm : Cells.wf s.mem.cells = true) : Cells.wf (putEntry s c status specific retry).mem.cells = true := by
  unfold putEntry
  simp +contextual (maxDischargeDepth := 20) [mapPair_frame .., State.bump_frame .., hm]

@[simp] theorem drainLate_wf (n : Nat) (s : State) (hm : Cells.wf s.mem.cells = true) : Cells.wf (drainLate n s).mem.cells = true := by
  induction n generalizing s with
  | zero => simp [sendInterrupt_frame .., drainLate, hm]
  | succ n ih =>
    unfold drainLate
    repeat' split
    all_goals simp +contextual (maxDischargeDepth := 20) [sendInterrupt_frame .., hm, ih]

@[simp] theorem sendLate_wf (s : State) (hm : Cells.wf s.mem.cells = true) : Cells.wf (sendLate s).mem.cells = true := by
  unfold sendLate
  simp +contextual (maxDischargeDepth := 20) [hm]

@[simp] theorem signalLate_wf (s : State) (q : Nat) (hm : Cells.wf s.mem.cells = true) : Cells.wf (signalLate s q).mem.cells = true := by
  unfold signalLate
  simp +contextual (maxDischargeDepth := 20) [hm]

@[simp] theorem writeCompletion_wf (s : State) (c : HostCmd) (status : Nat) (specific : Bytes) (retry : Nat) (hm : Cells.wf s.mem.cells = true) : Cells.wf (writeCompletion s c status specific retry).mem.cells = true := by
  unfold writeCompletion
  simp +contextual (maxDischargeDepth := 20) [hm]

@[simp] theorem State.finish_wf (s : State) (id status : Nat) (specific : Bytes) (retry : Nat) (hm : Cells.wf s.mem.cells = true) : Cells.wf (State.finish s id status specific retry).mem.cells = true := by
  unfold State.finish
  repeat' split
  all_goals simp +contextual (maxDischargeDepth := 20) [State.bump_frame .., hm]

@[simp] theorem State.cmdWrite_wf (s : State) (id a : Nat) (data : Bytes) (hm : Cells.wf s.mem.cells = true) : Cells.wf (State.cmdWrite s id a data).mem.cells = true := by
  unfold State.cmdWrite
  repeat' split
  all_goals simp +contextual (maxDischargeDepth := 20) [hm]

@[simp] theorem State.refuse_wf (s : State) (id status : Nat) (hm : Cells.wf s.mem.cells = true) : Cells.wf (State.refuse s id status).mem.cells = true := by
  unfold State.refuse
  simp +contextual (maxDischargeDepth := 20) [hm]

@[simp] theorem State.retryAt_wf (s : State) (id retry : Nat) (hm : Cells.wf s.mem.cells = true) : Cells.wf (State.retryAt s id retry).mem.cells = true := by
  unfold State.retryAt
  simp +contextual (maxDischargeDepth := 20) [hm]

@[simp] theorem touchInput_wf (s : State) (a n : Nat) (hm : Cells.wf s.mem.cells = true) : Cells.wf (touchInput s a n).mem.cells = true := by
  unfold touchInput
  simp +contextual (maxDischargeDepth := 20) [hm]

@[simp] theorem fetchInput_wf (s : State) (a n : Nat) (hm : Cells.wf s.mem.cells = true) : Cells.wf (fetchInput s a n).mem.cells = true := by
  unfold fetchInput
  apply cells_ite hm
  refine foldl_wf _ _ _ (fun s x hm => ?_) hm
  repeat' split
  all_goals simp (maxDischargeDepth := 20) [hm]

@[simp] theorem holdInputs_wf (s : State) (id : Nat) (l : List (Nat × Nat)) (hm : Cells.wf s.mem.cells = true) : Cells.wf (holdInputs s id l).mem.cells = true := by
  unfold holdInputs
  simp +contextual (maxDischargeDepth := 20) [holdCmd_frame .., hm]

@[simp] theorem demoteFor_wf (s : State) (hm : Cells.wf s.mem.cells = true) : Cells.wf (demoteFor s).mem.cells = true := by
  unfold demoteFor
  simp +contextual (maxDischargeDepth := 20) [hm]

@[simp] theorem awaitPages_wf (s : State) (cmd : Nat) (hm : Cells.wf s.mem.cells = true) : Cells.wf (awaitPages s cmd).mem.cells = true := by
  unfold awaitPages
  simp +contextual (maxDischargeDepth := 20) [stallCmd_frame .., hm]

@[simp] theorem waitForPages_wf (s : State) (cmd : Nat) (refused : State → State) (hm : Cells.wf s.mem.cells = true) (hf : ∀ t, Cells.wf t.mem.cells = true → Cells.wf (refused t).mem.cells = true) : Cells.wf (waitForPages s cmd refused).mem.cells = true := by
  unfold waitForPages
  have h := demoteFor_wf s hm
  dsimp only
  split
  · simpa [stallCmd_frame ..] using h
  · exact hf _ h

end Sys2Proof.Machine
end

