-- ==== Sys2Proof/Laws/FrameNearBank.lean ====
section
/-! SUPPORT. Frames of NearBank.lean: which units of the state each of its functions leaves as they are. -/

namespace Sys2Proof.Machine

set_option linter.unusedSimpArgs false
set_option linter.unusedVariables false
set_option linter.unusedTactic false
set_option linter.unreachableTactic false
set_option Elab.async false

open Sys2Proof Sys2Proof.Num Sys2Proof.Machine

namespace Nb

theorem mapBank_frame (s : State) (id : Nat) (f : Bank → Bank) : Keeps79 s (mapBank s id f) := by
  unfold Keeps79 mapBank
  simp

theorem noteOpen_frame (s : State) (id row : Nat) : Keeps79 s (noteOpen s id row) := by
  unfold Keeps79 noteOpen
  simp [mapBank_frame ..]

theorem openRow_frame (s : State) (id row owner : Nat) : Keeps80 s (openRow s id row owner).2 := by
  unfold openRow
  dsimp only
  repeat' split
  all_goals simp [touchAddr_frame .., noteOpen_frame .., State.bump_frame .., mapBank_frame .., Keeps80]

theorem putLines_frame (s : State) (id owner first : Nat) (ls : List (Option Bytes)) : Keeps80 s (putLines s id owner first ls) := by
  unfold Keeps80 putLines
  simp [touchAddr_frame .., mapBank_frame .., noteOpen_frame .., State.bump_frame ..]

theorem putRow_frame (s : State) (id owner row : Nat) (ls : List (Option Bytes)) : Keeps80 s (putRow s id owner row ls) := by
  unfold Keeps80 putRow
  simp [putLines_frame ..]

theorem mapSeq_frame (s : State) (id : Nat) (f : NbSeq → NbSeq) : Keeps79 s (mapSeq s id f) := by
  unfold Keeps79 mapSeq
  simp [mapBank_frame ..]

theorem stepSeq_frame (s : State) (id : Nat) (c : NbCmd) : Keeps79 s (stepSeq s id c) := by
  unfold Keeps79 stepSeq
  simp [mapSeq_frame ..]

theorem failSeq_frame (s : State) (id pos st : Nat) : Keeps79 s (failSeq s id pos st) := by
  unfold Keeps79 failSeq
  simp [mapSeq_frame ..]

theorem setOperand_frame (s : State) (id r v : Nat) : Keeps79 s (setOperand s id r v) := by
  unfold Keeps79 setOperand
  simp [mapBank_frame ..]

theorem loadEffect_frame (id : Nat) (c : NbCmd) (ds : List (List (Option Bytes))) (s : State) : Keeps79 s (loadEffect id c ds s) := by
  unfold loadEffect
  repeat' split
  all_goals simp [setOperand_frame .., Keeps79]

theorem popEffect_frame (id : Nat) (c : NbCmd) (ds : List (List (Option Bytes))) (s : State) : Keeps79 s (popEffect id c ds s) := by
  unfold popEffect
  repeat' split
  all_goals simp [mapBank_frame .., Keeps79]

theorem outEffect_frame (id owner : Nat) (c : NbCmd) (s : State) : Keeps80 s (outEffect id owner c s) := by
  unfold outEffect
  repeat' split
  all_goals simp [putLines_frame .., mapSeq_frame .., State.bump_frame .., Keeps80]

theorem endSeq_frame (s : State) (id : Nat) (q : NbSeq) : Keeps309 s (endSeq s id q) := by
  unfold Keeps309 endSeq
  simp [State.drawFree_frame .., agentWrite_frame .., mapBank_frame .., State.bump_frame ..]

theorem runCmd_frame (id owner : Nat) (c : NbCmd) (s : State) : Keeps80 s (runCmd id owner c s).2 := by
  unfold runCmd
  dsimp only
  generalize hr : List.foldl _ (St.ok, [], s) _ = r
  have hk : Keeps80 s r.2.2 := by
    rw [← hr]
    refine foldl_keeps_of (R := Keeps80) (fun a : Nat × List (List (Option Bytes)) × State => a.2.2) (x := (St.ok, [], s)) ?_ ?_ ?_
    · simp [Keeps80]
    · simp +contextual [Keeps80]
    · intro x y
      split
      · simp [Keeps80]
      · have ho := openRow_frame x.2.2 id y owner
        split <;> rename_i h <;> rw [h] at ho
        · split <;> simpa [Keeps80] using ho
        · exact ho
  split
  · exact hk
  · simp_all [mapSeq_frame .., outEffect_frame .., popEffect_frame .., loadEffect_frame .., Keeps80]

theorem writeBack_frame (s : State) (a : Nat) : Keeps16 s (writeBack s a) := by
  unfold Keeps16 writeBack
  simp [Coh.clean_frame ..]

theorem runSeq_frame (s : State) (id owner : Nat) (cmds : List NbCmd) : Keeps196 s (runSeq s id owner cmds).2.2 := by
  unfold runSeq
  dsimp only
  split
  · simp [State.bump_frame .., Keeps196]
  · have h0 : ∀ (l : List Nat) (t : State), Keeps196 t (l.foldl (fun s a => touchAddr (writeBack s a) a) t) := by
      intro l t
      apply foldl_keeps (R := Keeps196)
      · simp [Keeps196]
      · simp +contextual [Keeps196]
      · intro s x
        simp [touchAddr_frame .., writeBack_frame .., Keeps196]
    have h1 : ∀ (l : List NbCmd) (t : State), Keeps196 t (l.foldl (fun (acc : Nat × State) c => if acc.1 ≠ St.ok then acc else runCmd id owner c acc.2) (St.ok, t)).2 := by
      intro l t
      refine foldl_keeps_of (R := Keeps196) (fun a : Nat × State => a.2) (x := (St.ok, t)) ?_ ?_ ?_
      · simp [Keeps196]
      · simp +contextual [Keeps196]
      · intro x y
        split
        · simp [Keeps196]
        · simp [runCmd_frame .., Keeps196]
    generalize hr : List.foldl _ (St.ok, _) cmds = r
    have hk : Keeps196 s r.2 := by
      have h2 := h1 cmds
      rw [← hr]
      clear hr
      generalize ht : List.foldl _ s _ = t
      have h3 : Keeps196 s t := ht ▸ h0 _ s
      clear ht h0 h1
      have h5 : ∀ g, Keeps196 s (mapBank t id g) := fun g => by simp_all only [mapBank_frame .., Keeps196, and_self]
      exact ((fun x y z (a : Keeps196 x y) (b : Keeps196 y z) => by simp_all only [Keeps196, and_self]) : ∀ x y z, Keeps196 x y → Keeps196 y z → Keeps196 x z) _ _ _ (h5 _) (h2 _)
    simp only [Keeps196] at hk
    simp [State.bump_frame .., mapBank_frame .., hk, Keeps196]

theorem enqueue_frame (s : State) (id owner : Nat) (cmds : List NbCmd) (scan : SketchScan) : Keeps196 s (enqueue s id owner cmds scan) := by
  unfold Keeps196 enqueue
  simp [touchAddr_frame .., writeBack_frame .., mapBank_frame ..]

theorem keyProducts_frame (s : State) (owner dh b t : Nat) (planes addrs : List Nat) : Keeps196 s (keyProducts s owner dh b t planes addrs).2.2 := by
  unfold Keeps196 keyProducts
  simp [runSeq_frame ..]

theorem valueProducts_frame (s : State) (owner dh b t : Nat) (tiles : List (Nat × List Nat)) : Keeps196 s (valueProducts s owner dh b t tiles).2.2 := by
  unfold Keeps196 valueProducts
  simp [runSeq_frame ..]

end Nb

end Sys2Proof.Machine
end

