-- ==== Sys2Proof/Laws/CellsNearBank.lean ====
section
/-! SUPPORT. The functions of NearBank.lean keep the canonical form of the memory's cells. -/

namespace Sys2Proof.Machine

set_option linter.unusedSimpArgs false
set_option linter.unusedVariables false
set_option linter.unusedTactic false
set_option linter.unreachableTactic false
set_option Elab.async false

open Sys2Proof Sys2Proof.Num Sys2Proof.Machine

namespace Nb

@[simp] theorem openRow_wf (s : State) (id row owner : Nat) (hm : Cells.wf s.mem.cells = true) : Cells.wf (openRow s id row owner).2.mem.cells = true := by
  unfold openRow
  dsimp only
  repeat' split
  all_goals simp +contextual (maxDischargeDepth := 20) [noteOpen_frame .., State.bump_frame .., mapBank_frame .., hm]

@[simp] theorem putLines_wf (s : State) (id owner first : Nat) (ls : List (Option Bytes)) (hm : Cells.wf s.mem.cells = true) : Cells.wf (putLines s id owner first ls).mem.cells = true := by
  unfold putLines
  dsimp only
  refine foldl_wf _ _ _ (fun s x hm => by simp (maxDischargeDepth := 20) [mapBank_frame .., noteOpen_frame .., State.bump_frame .., hm]) ?_
  simp only [mapBank_frame ..]
  apply touchAddr_wf
  refine foldl_mem_wf _ _ _ (fun m q h => ?_) hm
  split <;> exact Mem.setLine_wf _ _ _ _ h

@[simp] theorem putRow_wf (s : State) (id owner row : Nat) (ls : List (Option Bytes)) (hm : Cells.wf s.mem.cells = true) : Cells.wf (putRow s id owner row ls).mem.cells = true := by
  unfold putRow
  simp +contextual (maxDischargeDepth := 20) [hm]

@[simp] theorem outEffect_wf (id owner : Nat) (c : NbCmd) (s : State) (hm : Cells.wf s.mem.cells = true) : Cells.wf (outEffect id owner c s).mem.cells = true := by
  unfold outEffect
  repeat' split
  all_goals simp +contextual (maxDischargeDepth := 20) [mapSeq_frame .., State.bump_frame .., hm]

@[simp] theorem endSeq_wf (s : State) (id : Nat) (q : NbSeq) (hm : Cells.wf s.mem.cells = true) : Cells.wf (endSeq s id q).mem.cells = true := by
  unfold endSeq
  simp +contextual (maxDischargeDepth := 20) [State.drawFree_frame .., mapBank_frame .., State.bump_frame .., hm]

@[simp] theorem runCmd_wf (id owner : Nat) (c : NbCmd) (s : State) (hm : Cells.wf s.mem.cells = true) : Cells.wf (runCmd id owner c s).2.mem.cells = true := by
  unfold runCmd
  dsimp only
  generalize hr : List.foldl _ (St.ok, [], s) _ = r
  have hk : Cells.wf r.2.2.mem.cells = true := by
    rw [← hr]
    refine foldl_wf_of (fun a : Nat × List (List (Option Bytes)) × State => a.2.2) ?_ hm
    intro x y h
    split
    · exact h
    · have ho := openRow_wf x.2.2 id y owner h
      split <;> rename_i e <;> rw [e] at ho
      · split <;> exact ho
      · exact ho
  split
  · exact hk
  · simp (maxDischargeDepth := 20) [mapSeq_frame .., popEffect_frame .., loadEffect_frame .., hk]

@[simp] theorem writeBack_wf (s : State) (a : Nat) (hm : Cells.wf s.mem.cells = true) : Cells.wf (writeBack s a).mem.cells = true := by
  unfold writeBack
  simp +contextual (maxDischargeDepth := 20) [hm]

@[simp] theorem runSeq_wf (s : State) (id owner : Nat) (cmds : List NbCmd) (hm : Cells.wf s.mem.cells = true) : Cells.wf (runSeq s id owner cmds).2.2.mem.cells = true := by
  unfold runSeq
  dsimp only
  split
  · simp (maxDischargeDepth := 20) [State.bump_frame .., mapBank_frame .., hm]
  · generalize ht : List.foldl _ s _ = t
    have h1 : Cells.wf t.mem.cells = true := by
      rw [← ht]
      exact foldl_wf _ _ _ (fun s a h => by simp (maxDischargeDepth := 20) [State.bump_frame .., mapBank_frame .., h]) hm
    generalize hr : List.foldl _ (St.ok, _) cmds = r
    have h2 : Cells.wf r.2.mem.cells = true := by
      rw [← hr]
      clear hr
      refine foldl_wf_of (fun a : Nat × State => a.2) ?_ (show Cells.wf (mapBank t id _).mem.cells = true by
        rw [show ∀ g, (mapBank t id g).mem = t.mem from fun g => by simp [mapBank_frame ..]]
        exact h1)
      intro x c h
      split
      · exact h
      · exact runCmd_wf _ _ _ _ h
    have h3 : ∀ (u : State) k g n, ((mapBank u id g).bump k n).mem = u.mem := fun u k g n => by
      simp [mapBank_frame .., State.bump_frame ..]
    rw [h3]
    exact h2

@[simp] theorem enqueue_wf (s : State) (id owner : Nat) (cmds : List NbCmd) (scan : SketchScan) (hm : Cells.wf s.mem.cells = true) : Cells.wf (enqueue s id owner cmds scan).mem.cells = true := by
  unfold enqueue
  simp +contextual (maxDischargeDepth := 20) [mapBank_frame .., hm]

@[simp] theorem keyProducts_wf (s : State) (owner dh b t : Nat) (planes addrs : List Nat) (hm : Cells.wf s.mem.cells = true) : Cells.wf (keyProducts s owner dh b t planes addrs).2.2.mem.cells = true := by
  unfold keyProducts
  simp +contextual (maxDischargeDepth := 20) [hm]

@[simp] theorem valueProducts_wf (s : State) (owner dh b t : Nat) (tiles : List (Nat × List Nat)) (hm : Cells.wf s.mem.cells = true) : Cells.wf (valueProducts s owner dh b t tiles).2.2.mem.cells = true := by
  unfold valueProducts
  simp +contextual (maxDischargeDepth := 20) [hm]

end Nb

end Sys2Proof.Machine
end

