-- ==== Sys2Proof/Laws/FrameTreePlace.lean ====
section
/-! SUPPORT. Frames of TreePlace.lean: which units of the state each of its functions leaves as they are. -/

namespace Sys2Proof.Machine

set_option linter.unusedSimpArgs false
set_option linter.unusedVariables false
set_option linter.unusedTactic false
set_option linter.unreachableTactic false
set_option Elab.async false

open Sys2Proof

theorem placeAt_frame (s : State) (p : TreePart) (a : Nat) : Keeps175 s (placeAt s p a) := by
  unfold Keeps175 placeAt
  simp

theorem place_frame (s : State) (p : TreePart) : Keeps175 s (place s p) := by
  unfold place
  repeat' split
  all_goals simp [placeAt_frame .., Keeps175]

theorem dropExtents_frame (s : State) : Keeps183 s (dropExtents s) := by
  unfold Keeps183 dropExtents
  simp [freeFixedPages_frame ..]

theorem placeExtents_frame (s : State) : Keeps183 s (placeExtents s) := by
  unfold Keeps183 placeExtents
  simp [dropExtents_frame .., place_frame ..]

theorem moveExtent_frame (s : State) (p : TreePart) : Keeps183 s (moveExtent s p) := by
  unfold moveExtent
  repeat' split
  all_goals simp [dropExtents_frame .., placeAt_frame .., Keeps183]

theorem loadLines_frame (s : State) (a n : Nat) : Keeps240 s (loadLines s a n) := by
  unfold Keeps240 loadLines
  simp [Coh.fill_frame ..]

end Sys2Proof.Machine
end

