-- ==== Sys2Proof/Laws/CellsTreePlace.lean ====
section
/-! SUPPORT. The functions of TreePlace.lean keep the canonical form of the memory's cells. -/

namespace Sys2Proof.Machine

set_option linter.unusedSimpArgs false
set_option linter.unusedVariables false
set_option linter.unusedTactic false
set_option linter.unreachableTactic false
set_option Elab.async false

open Sys2Proof

@[simp] theorem placeAt_wf (s : State) (p : TreePart) (a : Nat) (hm : Cells.wf s.mem.cells = true) : Cells.wf (placeAt s p a).mem.cells = true := by
  unfold placeAt
  simp +contextual (maxDischargeDepth := 20) [hm]

@[simp] theorem place_wf (s : State) (p : TreePart) (hm : Cells.wf s.mem.cells = true) : Cells.wf (place s p).mem.cells = true := by
  unfold place
  repeat' split
  all_goals simp +contextual (maxDischargeDepth := 20) [hm]

@[simp] theorem dropExtents_wf (s : State) (hm : Cells.wf s.mem.cells = true) : Cells.wf (dropExtents s).mem.cells = true := by
  unfold dropExtents
  simp +contextual (maxDischargeDepth := 20) [hm]

@[simp] theorem placeExtents_wf (s : State) (hm : Cells.wf s.mem.cells = true) : Cells.wf (placeExtents s).mem.cells = true := by
  unfold placeExtents
  simp +contextual (maxDischargeDepth := 20) [hm]

@[simp] theorem moveExtent_wf (s : State) (p : TreePart) (hm : Cells.wf s.mem.cells = true) : Cells.wf (moveExtent s p).mem.cells = true := by
  unfold moveExtent
  repeat' split
  all_goals simp +contextual (maxDischargeDepth := 20) [hm]

@[simp] theorem loadLines_wf (s : State) (a n : Nat) (hm : Cells.wf s.mem.cells = true) : Cells.wf (loadLines s a n).mem.cells = true := by
  unfold loadLines
  simp +contextual (maxDischargeDepth := 20) [hm]

end Sys2Proof.Machine
end

