-- ==== Sys2Proof/Laws/FrameTide.lean ====
section
/-! SUPPORT. Frames of Tide.lean: which units of the state each of its functions leaves as they are. -/

namespace Sys2Proof.Machine

set_option linter.unusedSimpArgs false
set_option linter.unusedVariables false
set_option linter.unusedTactic false
set_option linter.unreachableTactic false
set_option Elab.async false

open Sys2Proof Sys2Proof.Machine

theorem State.lockAt_frame (s : State) (c : Nat) : Keeps5 s (State.lockAt s c) := by
  unfold Keeps5 State.lockAt
  simp [State.setNum_frame ..]

theorem State.sendBeacons_frame (s : State) : Keeps3 s (State.sendBeacons s) := by
  unfold State.sendBeacons
  apply foldl_keeps (R := Keeps3)
  · simp [State.emit_frame .., Keeps3]
  · simp +contextual [State.emit_frame .., Keeps3]
  · intro s x
    repeat' split
    all_goals simp [State.emit_frame .., Keeps3]

theorem State.drivePulse_frame (s : State) (x : Symbol) : Keeps3 s (State.drivePulse s x) := by
  unfold State.drivePulse
  repeat' split
  all_goals simp [State.emit_frame .., Keeps3]

end Sys2Proof.Machine
end

