-- ==== Sys2Proof/Laws/FrameStrand.lean ====
section
/-! SUPPORT. Frames of Strand.lean: which units of the state each of its functions leaves as they are. -/

namespace Sys2Proof.Machine

set_option linter.unusedSimpArgs false
set_option linter.unusedVariables false
set_option linter.unusedTactic false
set_option linter.unreachableTactic false
set_option Elab.async false

open Sys2Proof.Machine Sys2Proof

theorem mapPort_frame (s : State) (p : Nat) (f : Port → Port) : Keeps6 s (mapPort s p f) := by
  unfold Keeps6 mapPort
  simp

theorem enqueue_frame (s : State) (p : Nat) (f : Frame) (pool : Option Pool) : Keeps6 s (enqueue s p f pool) := by
  unfold Keeps6 enqueue
  simp [mapPort_frame ..]

theorem originate_frame (s : State) (f : Frame) {post} (h : originate s f = some post) : Keeps6 s post := by
  unfold originate at h
  dsimp only at h
  repeat' split at h
  all_goals (first | cases h | skip)
  all_goals simp [enqueue_frame .., Keeps6]
  all_goals (repeat' split)
  all_goals simp [enqueue_frame ..]

theorem State.unrouted_frame (s : State) : Keeps1 s (State.unrouted s) := by
  unfold Keeps1 State.unrouted
  simp [State.bump_frame ..]

theorem originateOrDrop_frame (s : State) (f : Frame) : Keeps7 s (originateOrDrop s f) := by
  unfold originateOrDrop
  repeat' split
  all_goals (try (have hk := originate_frame _ _ (by assumption); unfold Keeps7 at hk))
  all_goals simp_all [State.unrouted_frame .., State.bump_frame .., Keeps7]

theorem respond_frame (s : State) (req : Frame) (status retry : Nat) (payload : Bytes) : Keeps7 s (respond s req status retry payload) := by
  unfold Keeps7 respond
  simp [originateOrDrop_frame ..]

theorem transmit_frame (s : State) (m : OutMsg) : Keeps7 s (transmit s m) := by
  unfold Keeps7 transmit
  simp [originateOrDrop_frame ..]

theorem sendMessage_frame (s : State) (dest cls job type : Nat) (words : List Nat) (blobs : List Bytes) (use : MsgUse) : Keeps7 s (sendMessage s dest cls job type words blobs use) := by
  unfold Keeps7 sendMessage
  simp [State.unrouted_frame .., transmit_frame ..]

theorem answerWhole_frame (s : State) (d : Delivered) (status : Nat) : Keeps7 s (answerWhole s d status) := by
  unfold Keeps7 answerWhole
  simp [respond_frame ..]

theorem takeDelivered_frame (s : State) (d : Delivered) : Keeps6 s (takeDelivered s d) := by
  unfold Keeps6 takeDelivered
  simp

theorem answerMsg_frame (s : State) (src type status : Nat) : Keeps7 s (answerMsg s src type status) := by
  unfold answerMsg
  repeat' split
  all_goals simp [answerWhole_frame .., takeDelivered_frame .., respond_frame .., Keeps7]

theorem addRequest_frame (s : State) (r : Request) : Keeps6 s (addRequest s r) := by
  unfold Keeps6 addRequest
  simp

theorem sendRequest_frame (s : State) (f : Frame) (use : Purpose) (wait : Bool) {post} (h : sendRequest s f use wait = some post) : Keeps6 s post := by
  unfold sendRequest at h
  dsimp only at h
  split at h
  · injection h with h; subst h; simp [addRequest_frame .., Keeps6]
  · rw [Option.map_eq_some_iff] at h
    obtain ⟨t, ht, rfl⟩ := h
    have hk := originate_frame _ _ ht
    simp_all [addRequest_frame .., Keeps6]

theorem issueRequest_frame (s : State) (f : Frame) (use : Purpose) (wait : Bool) : Keeps7 s (issueRequest s f use wait) := by
  unfold issueRequest
  split
  · rename_i h
    have hk := sendRequest_frame _ _ _ _ h
    simp_all [Keeps7]
  · simp [State.unrouted_frame .., Keeps7]

theorem nextSeq_frame (s : State) : Keeps6 s (nextSeq s).2 := by
  unfold Keeps6 nextSeq
  simp

theorem sendAtomic_frame (s : State) (f : Frame) (operands : Bytes) (use : Purpose) {post} (h : sendAtomic s f operands use = some post) : Keeps6 s post := by
  unfold sendAtomic at h
  dsimp only at h
  split at h
  · injection h with h; subst h; simp [addRequest_frame .., nextSeq_frame .., Keeps6]
  · rw [Option.map_eq_some_iff] at h
    obtain ⟨t, ht, rfl⟩ := h
    have hk := originate_frame _ _ ht
    simp_all [addRequest_frame .., nextSeq_frame .., Keeps6]

theorem sendWordAtomic_frame (s : State) (home berth op : Nat) (operand expected : Bytes) (use : Purpose) {post} (h : sendWordAtomic s home berth op operand expected use = some post) : Keeps6 s post := by
  unfold sendWordAtomic at h
  exact sendAtomic_frame _ _ _ _ h

end Sys2Proof.Machine
end

