-- ==== Sys2Proof/Laws/FrameSearch.lean ====
section
/-! SUPPORT. Frames of Search.lean: which units of the state each of its functions leaves as they are. -/

namespace Sys2Proof.Machine

set_option linter.unusedSimpArgs false
set_option linter.unusedVariables false
set_option linter.unusedTactic false
set_option linter.unreachableTactic false
set_option Elab.async false

open Sys2Proof Sys2Proof.Num Sys2Proof.Machine

theorem mapFrag_frame (s : State) (id : Nat) (f : Fragment → Fragment) : Keeps37 s (mapFrag s id f) := by
  unfold Keeps37 mapFrag
  simp

theorem readCand_frame (s : State) (id : Nat) (c : Cand) (prefetch : Bool) : Keeps38 s (readCand s id c prefetch) := by
  unfold readCand
  repeat' split
  all_goals simp [mapFrag_frame .., State.bump_frame .., Keeps38]

theorem takeResult_frame (s : State) (bank : Nat) : Keeps15 s (takeResult s bank).2 := by
  unfold takeResult
  repeat' split
  all_goals simp [Keeps15]

theorem scanEnded_frame (s : State) (z : SketchScan) (status : Nat) (acc : List Int) : Keeps238 s (scanEnded s z status acc) := by
  unfold Keeps238 scanEnded
  simp [freeFixedPages_frame .., mapFrag_frame ..]

theorem scanSketches_frame (s : State) (id : Nat) (c : FragCtx) (f : Front) (l : Leaf) : Keeps197 s (scanSketches s id c f l) := by
  unfold scanSketches
  dsimp only
  repeat' split
  all_goals simp [takeResult_frame .., Nb.runSeq_frame .., scanEnded_frame .., Nb.enqueue_frame .., freeFixedPages_frame .., mapFrag_frame .., Keeps197]

theorem prefetchEntry_frame (id : Nat) (c : FragCtx) (s : State) (f : Front) : Keeps255 s (prefetchEntry id c s f) := by
  unfold prefetchEntry
  repeat' split
  all_goals simp [loadLines_frame .., scanSketches_frame .., Keeps255]

theorem prefetchFront_frame (s : State) (id : Nat) (c : FragCtx) : Keeps255 s (prefetchFront s id c) := by
  unfold prefetchFront
  repeat' split
  all_goals simp [prefetchEntry_frame .., Keeps255]

theorem scanLeaf_frame (s : State) (id : Nat) (c : FragCtx) (f : Front) (leaf : Leaf) : Keeps38 s (scanLeaf s id c f leaf) := by
  unfold scanLeaf
  dsimp only
  repeat' split
  all_goals simp [mapFrag_frame .., readCand_frame .., Keeps38]

theorem failFrag_frame (s : State) (id : Nat) : Keeps37 s (failFrag s id) := by
  unfold Keeps37 failFrag
  simp [mapFrag_frame ..]

theorem descendFrag_frame (id : Nat) (c : FragCtx) (n : Nat) (s : State) : Keeps255 s (descendFrag id c n s) := by
  induction n generalizing s with
  | zero => simp [prefetchFront_frame .., mapFrag_frame .., failFrag_frame .., scanLeaf_frame .., descendFrag, Keeps255]
  | succ n ih =>
    unfold descendFrag
    dsimp only
    repeat' split
    all_goals simp [prefetchFront_frame .., mapFrag_frame .., failFrag_frame .., scanLeaf_frame .., Keeps255, ih]

theorem nextVerify_frame (s : State) (id : Nat) : Keeps38 s (nextVerify s id) := by
  unfold nextVerify
  dsimp only
  repeat' split
  all_goals simp [mapFrag_frame .., readCand_frame .., Keeps38]

theorem beginFrag_frame (s : State) (id : Nat) : Keeps255 s (beginFrag s id) := by
  unfold beginFrag
  split
  · simp [mapFrag_frame .., nextVerify_frame .., descendFrag_frame .., Keeps255]
  · simp [mapFrag_frame .., nextVerify_frame .., descendFrag_frame .., Keeps255]

theorem resumeFrag_frame (s : State) (id : Nat) : Keeps255 s (resumeFrag s id) := by
  unfold resumeFrag
  repeat' split
  all_goals simp [nextVerify_frame .., descendFrag_frame .., Keeps255]

theorem resumeFrags_frame (s : State) : Keeps255 s (resumeFrags s) := by
  unfold Keeps255 resumeFrags
  simp [resumeFrag_frame ..]

end Sys2Proof.Machine
end

