-- ==== Sys2Proof/Laws/CellsSearch.lean ====
section
/-! SUPPORT. The functions of Search.lean keep the canonical form of the memory's cells. -/

namespace Sys2Proof.Machine

set_option linter.unusedSimpArgs false
set_option linter.unusedVariables false
set_option linter.unusedTactic false
set_option linter.unreachableTactic false
set_option Elab.async false

open Sys2Proof Sys2Proof.Num Sys2Proof.Machine

@[simp] theorem takeResult_wf (s : State) (bank : Nat) (hm : Cells.wf s.mem.cells = true) : Cells.wf (takeResult s bank).2.mem.cells = true := by
  unfold takeResult
  repeat' split
  all_goals simp +contextual (maxDischargeDepth := 20) [hm]

@[simp] theorem scanEnded_wf (s : State) (z : SketchScan) (status : Nat) (acc : List Int) (hm : Cells.wf s.mem.cells = true) : Cells.wf (scanEnded s z status acc).mem.cells = true := by
  unfold scanEnded
  simp +contextual (maxDischargeDepth := 20) [mapFrag_frame .., hm]

@[simp] theorem scanSketches_wf (s : State) (id : Nat) (c : FragCtx) (f : Front) (l : Leaf) (hm : Cells.wf s.mem.cells = true) : Cells.wf (scanSketches s id c f l).mem.cells = true := by
  unfold scanSketches
  dsimp only
  repeat' split
  all_goals simp +contextual (maxDischargeDepth := 20) [hm]

@[simp] theorem prefetchEntry_wf (id : Nat) (c : FragCtx) (s : State) (f : Front) (hm : Cells.wf s.mem.cells = true) : Cells.wf (prefetchEntry id c s f).mem.cells = true := by
  unfold prefetchEntry
  repeat' split
  all_goals simp +contextual (maxDischargeDepth := 20) [hm]

@[simp] theorem prefetchFront_wf (s : State) (id : Nat) (c : FragCtx) (hm : Cells.wf s.mem.cells = true) : Cells.wf (prefetchFront s id c).mem.cells = true := by
  unfold prefetchFront
  repeat' split
  all_goals simp +contextual (maxDischargeDepth := 20) [hm]

@[simp] theorem descendFrag_wf (id : Nat) (c : FragCtx) (n : Nat) (s : State) (hm : Cells.wf s.mem.cells = true) : Cells.wf (descendFrag id c n s).mem.cells = true := by
  induction n generalizing s with
  | zero => simp [mapFrag_frame .., failFrag_frame .., scanLeaf_frame .., descendFrag, hm]
  | succ n ih =>
    unfold descendFrag
    dsimp only
    repeat' split
    all_goals simp +contextual (maxDischargeDepth := 20) [mapFrag_frame .., failFrag_frame .., scanLeaf_frame .., hm, ih]

@[simp] theorem beginFrag_wf (s : State) (id : Nat) (hm : Cells.wf s.mem.cells = true) : Cells.wf (beginFrag s id).mem.cells = true := by
  unfold beginFrag
  repeat' split
  all_goals simp +contextual (maxDischargeDepth := 20) [mapFrag_frame .., nextVerify_frame .., hm]

@[simp] theorem resumeFrag_wf (s : State) (id : Nat) (hm : Cells.wf s.mem.cells = true) : Cells.wf (resumeFrag s id).mem.cells = true := by
  unfold resumeFrag
  repeat' split
  all_goals simp +contextual (maxDischargeDepth := 20) [nextVerify_frame .., hm]

@[simp] theorem resumeFrags_wf (s : State) (hm : Cells.wf s.mem.cells = true) : Cells.wf (resumeFrags s).mem.cells = true := by
  unfold resumeFrags
  simp +contextual (maxDischargeDepth := 20) [hm]

end Sys2Proof.Machine
end

