-- ==== Sys2Proof/Laws/FrameQueryOps.lean ====
section
/-! SUPPORT. Frames of QueryOps.lean: which units of the state each of its functions leaves as they are. -/

namespace Sys2Proof.Machine

set_option linter.unusedSimpArgs false
set_option linter.unusedVariables false
set_option linter.unusedTactic false
set_option linter.unreachableTactic false
set_option Elab.async false

open Sys2Proof Sys2Proof.Num Sys2Proof.Machine

theorem takeFrag_frame (s : State) (g : Fragment) : Keeps256 s (takeFrag s g) := by
  unfold Keeps256 takeFrag
  simp [beginFrag_frame .., State.wakeAll_frame ..]

theorem mapQuery_frame (s : State) (tag : Nat) (f : Query → Query) : Keeps37 s (mapQuery s tag f) := by
  unfold Keeps37 mapQuery
  simp

theorem noteReply_frame (s : State) (src sub : Nat) (r : Reply) : Keeps37 s (noteReply s src sub r) := by
  unfold Keeps37 noteReply
  simp

theorem sendFrag_frame (s : State) (q : Query) (node place : Nat) (shoals : List Nat) (reissueOf : Option Nat) : Keeps257 s (sendFrag s q node place shoals reissueOf) := by
  unfold sendFrag
  dsimp only
  repeat' split
  all_goals simp [mapQuery_frame .., noteReply_frame .., takeFrag_frame .., State.unrouted_frame .., sendMessage_frame .., Keeps257]

theorem fanOut_frame (s : State) (tag : Nat) : Keeps257 s (fanOut s tag) := by
  unfold fanOut
  repeat' split
  all_goals simp [State.bump_frame .., sendFrag_frame .., Keeps257]

theorem noteAvoided_frame (s : State) (c node : Nat) (shoals : List Nat) : Keeps41 s (noteAvoided s c node shoals) := by
  unfold Keeps41 noteAvoided
  simp

theorem reissueFailed_frame (s : State) (tag : Nat) : Keeps257 s (reissueFailed s tag) := by
  unfold reissueFailed
  repeat' split
  all_goals simp [mapQuery_frame .., sendFrag_frame .., State.bump_frame .., Keeps257]

theorem dropOwnFrags_frame (s : State) (q : Query) : Keeps42 s (dropOwnFrags s q) := by
  unfold Keeps42 dropOwnFrags
  simp

theorem completeQuery_frame (s : State) (tag : Nat) : Keeps263 s (completeQuery s tag) := by
  unfold completeQuery
  dsimp only
  repeat' split
  all_goals simp [dropOwnFrags_frame .., State.bump_frame .., State.hostWrite_frame .., State.finish_frame .., Keeps263]

theorem restamp_frame (s : State) (tag : Nat) : Keeps257 s (restamp s tag) := by
  unfold restamp
  repeat' split
  all_goals simp [dropOwnFrags_frame .., mapQuery_frame .., fanOut_frame .., Keeps257]

theorem settleQuery_frame (s : State) (tag : Nat) : Keeps264 s (settleQuery s tag) := by
  unfold settleQuery
  dsimp only
  repeat' split
  all_goals simp [reissueFailed_frame .., restamp_frame .., completeQuery_frame .., Keeps264]

theorem leadReply_frame (s : State) (src sub : Nat) (r : Reply) : Keeps265 s (leadReply s src sub r) := by
  unfold leadReply
  repeat' split
  all_goals simp [noteReply_frame .., noteAvoided_frame .., settleQuery_frame .., Keeps265]

theorem endFrag_frame (s : State) (g : Fragment) (r : Reply) : Keeps265 s (endFrag s g r) := by
  unfold Keeps265 endFrag
  simp [State.bump_frame .., leadReply_frame .., sendMessage_frame ..]

theorem cutFrag_frame (s : State) (id : Nat) : Keeps265 s (cutFrag s id) := by
  unfold cutFrag
  repeat' split
  all_goals simp [endFrag_frame .., Keeps265]

theorem serveFrag_frame (s : State) (g : Fragment) : Keeps265 s (serveFrag s g) := by
  unfold Keeps265 serveFrag
  simp [takeFrag_frame .., cutFrag_frame ..]

theorem arriveFrag_frame (s : State) (b : Bytes) : Keeps265 s (arriveFrag s b) := by
  unfold arriveFrag
  dsimp only
  repeat' split
  all_goals simp [sendMessage_frame .., serveFrag_frame .., Keeps265]

theorem arriveReply_frame (s : State) (src : Nat) (b : Bytes) : Keeps265 s (arriveReply s src b) := by
  unfold Keeps265 arriveReply
  simp [leadReply_frame ..]

theorem verifyDone_frame (s : State) (id loc : Nat) : Keeps265 s (verifyDone s id loc) := by
  unfold verifyDone
  dsimp only
  repeat' split
  all_goals simp [mapFrag_frame .., nextVerify_frame .., endFrag_frame .., State.bump_frame .., Keeps265]

end Sys2Proof.Machine
end

