-- ==== Sys2Proof/Laws/CellsQueryOps.lean ====
section
/-! SUPPORT. The functions of QueryOps.lean keep the canonical form of the memory's cells. -/

namespace Sys2Proof.Machine

set_option linter.unusedSimpArgs false
set_option linter.unusedVariables false
set_option linter.unusedTactic false
set_option linter.unreachableTactic false
set_option Elab.async false

open Sys2Proof Sys2Proof.Num Sys2Proof.Machine

@[simp] theorem takeFrag_wf (s : State) (g : Fragment) (hm : Cells.wf s.mem.cells = true) : Cells.wf (takeFrag s g).mem.cells = true := by
  unfold takeFrag
  simp +contextual (maxDischargeDepth := 20) [State.wakeAll_frame .., hm]

@[simp] theorem sendFrag_wf (s : State) (q : Query) (node place : Nat) (shoals : List Nat) (reissueOf : Option Nat) (hm : Cells.wf s.mem.cells = true) : Cells.wf (sendFrag s q node place shoals reissueOf).mem.cells = true := by
  unfold sendFrag
  dsimp only
  repeat' split
  all_goals simp +contextual (maxDischargeDepth := 20) [mapQuery_frame .., noteReply_frame .., State.unrouted_frame .., sendMessage_frame .., hm]

@[simp] theorem fanOut_wf (s : State) (tag : Nat) (hm : Cells.wf s.mem.cells = true) : Cells.wf (fanOut s tag).mem.cells = true := by
  unfold fanOut
  repeat' split
  all_goals simp +contextual (maxDischargeDepth := 20) [State.bump_frame .., hm]

@[simp] theorem reissueFailed_wf (s : State) (tag : Nat) (hm : Cells.wf s.mem.cells = true) : Cells.wf (reissueFailed s tag).mem.cells = true := by
  unfold reissueFailed
  repeat' split
  all_goals simp +contextual (maxDischargeDepth := 20) [mapQuery_frame .., State.bump_frame .., hm]

@[simp] theorem completeQuery_wf (s : State) (tag : Nat) (hm : Cells.wf s.mem.cells = true) : Cells.wf (completeQuery s tag).mem.cells = true := by
  unfold completeQuery
  dsimp only
  repeat' split
  all_goals simp +contextual (maxDischargeDepth := 20) [dropOwnFrags_frame .., State.bump_frame .., hm]

@[simp] theorem restamp_wf (s : State) (tag : Nat) (hm : Cells.wf s.mem.cells = true) : Cells.wf (restamp s tag).mem.cells = true := by
  unfold restamp
  repeat' split
  all_goals simp +contextual (maxDischargeDepth := 20) [dropOwnFrags_frame .., mapQuery_frame .., hm]

@[simp] theorem settleQuery_wf (s : State) (tag : Nat) (hm : Cells.wf s.mem.cells = true) : Cells.wf (settleQuery s tag).mem.cells = true := by
  unfold settleQuery
  dsimp only
  repeat' split
  all_goals simp +contextual (maxDischargeDepth := 20) [hm]

@[simp] theorem leadReply_wf (s : State) (src sub : Nat) (r : Reply) (hm : Cells.wf s.mem.cells = true) : Cells.wf (leadReply s src sub r).mem.cells = true := by
  unfold leadReply
  repeat' split
  all_goals simp +contextual (maxDischargeDepth := 20) [noteReply_frame .., noteAvoided_frame .., hm]

@[simp] theorem endFrag_wf (s : State) (g : Fragment) (r : Reply) (hm : Cells.wf s.mem.cells = true) : Cells.wf (endFrag s g r).mem.cells = true := by
  unfold endFrag
  simp +contextual (maxDischargeDepth := 20) [State.bump_frame .., sendMessage_frame .., hm]

@[simp] theorem cutFrag_wf (s : State) (id : Nat) (hm : Cells.wf s.mem.cells = true) : Cells.wf (cutFrag s id).mem.cells = true := by
  unfold cutFrag
  repeat' split
  all_goals simp +contextual (maxDischargeDepth := 20) [hm]

@[simp] theorem serveFrag_wf (s : State) (g : Fragment) (hm : Cells.wf s.mem.cells = true) : Cells.wf (serveFrag s g).mem.cells = true := by
  unfold serveFrag
  simp +contextual (maxDischargeDepth := 20) [hm]

@[simp] theorem arriveFrag_wf (s : State) (b : Bytes) (hm : Cells.wf s.mem.cells = true) : Cells.wf (arriveFrag s b).mem.cells = true := by
  unfold arriveFrag
  dsimp only
  repeat' split
  all_goals simp +contextual (maxDischargeDepth := 20) [sendMessage_frame .., hm]

@[simp] theorem arriveReply_wf (s : State) (src : Nat) (b : Bytes) (hm : Cells.wf s.mem.cells = true) : Cells.wf (arriveReply s src b).mem.cells = true := by
  unfold arriveReply
  simp +contextual (maxDischargeDepth := 20) [hm]

@[simp] theorem verifyDone_wf (s : State) (id loc : Nat) (hm : Cells.wf s.mem.cells = true) : Cells.wf (verifyDone s id loc).mem.cells = true := by
  unfold verifyDone
  dsimp only
  repeat' split
  all_goals simp +contextual (maxDischargeDepth := 20) [mapFrag_frame .., nextVerify_frame .., State.bump_frame .., hm]

end Sys2Proof.Machine
end

