-- ==== Sys2Proof/Laws/FrameChangeOps.lean ====
section
/-! SUPPORT. Frames of ChangeOps.lean: which units of the state each of its functions leaves as they are. -/

namespace Sys2Proof.Machine

set_option linter.unusedSimpArgs false
set_option linter.unusedVariables false
set_option linter.unusedTactic false
set_option linter.unreachableTactic false
set_option Elab.async false

open Sys2Proof Sys2Proof.Num Sys2Proof.Machine

theorem intakeDone_frame (s : State) (i : Intake) (d : ChangeDone) : Keeps276 s (intakeDone s i d) := by
  unfold Keeps276 intakeDone
  simp [State.finish_frame ..]

theorem outcome_frame (s : State) (ch : Change) (d : ChangeDone) : Keeps277 s (outcome s ch d) := by
  unfold outcome
  repeat' split
  all_goals simp [outcome.againElsewhere, intakeDone_frame .., sendMessage_frame .., Keeps277]
  repeat' split
  all_goals simp [sendMessage_frame ..]

theorem placeTrees_frame (s : State) : Keeps183 s (placeTrees s) := by
  unfold Keeps183 placeTrees
  simp [placeExtents_frame ..]

theorem writeLog_frame (s : State) (c sh item l d : Nat) (withdrawn : Bool) : Keeps49 s (writeLog s c sh item l d withdrawn).2 := by
  unfold Keeps49 writeLog
  simp

theorem dirCodeword_frame (s : State) (c : Nat) : Keeps12 s (dirCodeword s c).2 := by
  unfold dirCodeword
  dsimp only
  repeat' split
  all_goals simp [dirCodeword.fresh, Keeps12]

theorem setEntry_frame (s : State) (c sh item l : Nat) : Keeps49 s (setEntry s c sh item l).2 := by
  unfold Keeps49 setEntry
  simp [dirCodeword_frame ..]

theorem programRecord_frame (s : State) (c : Nat) (r : ItemRec) : Keeps49 s (programRecord s c r).2 := by
  unfold Keeps49 programRecord
  simp [setEntry_frame ..]

theorem writeRecord_frame (s : State) (c l item acc : Nat) (v metadata : Bytes) : Keeps49 s (writeRecord s c l item acc v metadata).2 := by
  unfold Keeps49 writeRecord
  simp [programRecord_frame ..]

theorem willCommit_frame (s : State) (c kind commit : Nat) : Keeps50 s (willCommit s c kind commit) := by
  unfold Keeps50 willCommit
  simp

theorem applyChange_frame (s : State) (cp : ShoalCopy) (ch : Change) (commit : Nat) : Keeps241 s (applyChange s cp ch commit).st := by
  unfold applyChange
  dsimp only
  repeat' split
  all_goals simp [State.bump_frame .., writeLog_frame .., willCommit_frame .., writeRecord_frame .., placeTrees_frame .., Keeps241]

theorem pruneDirectory_frame (s : State) (ws : List Nat) : Keeps12 s (pruneDirectory s ws) := by
  unfold Keeps12 pruneDirectory
  simp

theorem rebase_frame (s : State) (a b : Accepted) : Keeps274 s (rebase s a b) := by
  unfold Keeps274 rebase
  simp [State.bump_frame ..]

theorem withdraw_frame (s : State) (a : Accepted) : Keeps275 s (withdraw s a) := by
  unfold withdraw
  dsimp only
  repeat' split
  all_goals simp [rebase_frame .., writeLog_frame .., setEntry_frame .., pruneDirectory_frame .., Keeps275]

theorem settleAccepted_frame (s : State) : Keeps277 s (settleAccepted s) := by
  unfold Keeps277 settleAccepted
  simp [outcome_frame ..]

theorem forwardChange_frame (s : State) (node : Nat) (ch : Change) (seq commit result tag : Nat) : Keeps7 s (forwardChange s node ch seq commit result tag) := by
  unfold Keeps7 forwardChange
  simp [sendMessage_frame ..]

theorem acceptChange_frame (s : State) (ch : Change) : Keeps278 s (acceptChange s ch) := by
  unfold acceptChange
  split
  · simp [outcome_frame .., Keeps278]
  · simp [Keeps278]
  · dsimp only
    generalize ha : applyChange _ _ _ _ = a
    have ha : Keeps278 s a.st := by
      rw [← ha]
      simp [applyChange_frame .., Keeps278]
    with_reducible apply ite_keeps (R := Keeps278)
    · cases a.counter <;> simp_all [State.bump_frame .., outcome_frame .., Keeps278]
    · repeat' split
      all_goals simp_all [State.bump_frame .., forwardChange_frame .., settleAccepted_frame .., Keeps278]

theorem primaryTake_frame (s : State) (ch : Change) : Keeps278 s (primaryTake s ch) := by
  unfold primaryTake
  repeat' split
  all_goals simp [outcome_frame .., acceptChange_frame .., Keeps278]

theorem sendChange_frame (s : State) (ch : Change) : Keeps278 s (sendChange s ch) := by
  unfold sendChange
  repeat' split
  all_goals simp [primaryTake_frame .., sendMessage_frame .., Keeps278]

theorem markStale_frame (s : State) (c sh : Nat) : Keeps278 s (markStale s c sh) := by
  unfold markStale
  repeat' split
  all_goals simp [settleAccepted_frame .., State.bump_frame .., Keeps278]

theorem noteAck_frame (s : State) (k : Ack) : Keeps278 s (noteAck s k) := by
  unfold noteAck
  repeat' split
  all_goals simp [outcome_frame .., withdraw_frame .., markStale_frame .., settleAccepted_frame .., Keeps278]

theorem forwardOn_frame (s : State) (cp : ShoalCopy) (q : Sequenced) : Keeps7 s (forwardOn s cp q) := by
  unfold forwardOn
  repeat' split
  all_goals simp [forwardChange_frame .., Keeps7]

theorem sendAck_frame (s : State) (node : Nat) (k : Ack) : Keeps278 s (sendAck s node k) := by
  unfold Keeps278 sendAck
  simp [noteAck_frame .., sendMessage_frame ..]

theorem applyNext_frame (s : State) (c sh : Nat) {post} (h : applyNext s c sh = some post) : Keeps278 s post := by
  unfold applyNext at h
  split at h
  · cases h
  · split at h
    · cases h
    · split at h
      · cases h
      · dsimp only at h
        generalize ha : applyChange _ _ _ _ = a at h
        have ha : Keeps278 s a.st := by
          rw [← ha]
          simp [applyChange_frame .., Keeps278]
        repeat' split at h
        all_goals (injection h with h; subst h; simp_all [sendAck_frame .., forwardOn_frame .., Keeps278])

theorem applyWaiting_frame (c sh : Nat) (n : Nat) (s : State) : Keeps278 s (applyWaiting c sh n s) := by
  induction n generalizing s with
  | zero => simp [applyWaiting, Keeps278]
  | succ n ih =>
    unfold applyWaiting
    split
    · simp [Keeps278]
    · rename_i h
      have h := applyNext_frame _ _ _ h
      simp_all [Keeps278]

theorem replicaTake_frame (s : State) (src : Nat) (ch : Change) (seq commit result : Nat) : Keeps278 s (replicaTake s src ch seq commit result) := by
  unfold replicaTake
  dsimp only
  split
  · simp [sendAck_frame .., applyWaiting_frame .., Keeps278]
  · repeat' (with_reducible apply ite_keeps (R := Keeps278))
    all_goals simp [sendAck_frame .., applyWaiting_frame .., Keeps278]

theorem settleDurable_frame (s : State) : Keeps278 s (settleDurable s) := by
  unfold Keeps278 settleDurable
  simp [sendAck_frame .., settleAccepted_frame ..]

theorem sendFill_frame (s : State) (cp : ShoalCopy) (x : FillItem) : Keeps7 s (sendFill s cp x) := by
  unfold sendFill
  repeat' split
  all_goals simp [sendMessage_frame .., Keeps7]

theorem newCopy_frame (s : State) (c sh : Nat) (replica : Bool) (st : CopyState) : Keeps183 s (newCopy s c sh replica st) := by
  unfold Keeps183 newCopy
  simp [placeTrees_frame ..]

theorem unmapRecords_frame (s : State) (c : Nat) (recs : List ItemRec) : Keeps12 s (unmapRecords s c recs) := by
  unfold Keeps12 unmapRecords
  simp

theorem dropCopy_frame (s : State) (c sh : Nat) : Keeps187 s (dropCopy s c sh) := by
  unfold Keeps187 dropCopy
  simp [unmapRecords_frame .., pruneDirectory_frame .., placeTrees_frame ..]

theorem dropKept_frame (s : State) (k : KeptTree) : Keeps187 s (dropKept s k) := by
  unfold Keeps187 dropKept
  simp [unmapRecords_frame .., pruneDirectory_frame .., placeTrees_frame ..]

theorem startFill_frame (s : State) (c sh : Nat) (replica : Bool) : Keeps248 s (startFill s c sh replica) := by
  unfold startFill
  dsimp only
  repeat' split
  all_goals simp [newCopy_frame .., sendFill_frame .., dropCopy_frame .., Keeps248]

theorem placeStreamed_frame (s : State) (cp : ShoalCopy) (id acc : Nat) (v metadata : Bytes) : Keeps187 s (placeStreamed s cp id acc v metadata) := by
  unfold placeStreamed
  dsimp only
  repeat' split
  all_goals simp [writeRecord_frame .., placeTrees_frame .., Keeps187]

theorem rebuildOwn_frame (s : State) (c sh : Nat) : Keeps187 s (rebuildOwn s c sh) := by
  unfold rebuildOwn
  dsimp only
  have hf : ∀ (l : List FoundRec) (s : State), Keeps187 s (l.foldl (fun s f => match Index.findCopy s.idx c sh with
      | some cp => placeStreamed s cp f.item.id f.item.accTide f.item.vec f.item.metadata
      | none => s) s) := by
    intro l s
    apply foldl_keeps (R := Keeps187)
    · simp [placeStreamed_frame .., Keeps187]
    · simp +contextual [placeStreamed_frame .., Keeps187]
    · intro s x
      split <;> simp [placeStreamed_frame .., Keeps187]
  generalize hr : List.foldl _ s _ = r
  have hk : Keeps187 s r := by
    rw [← hr]
    exact hf _ _
  simp_all [placeStreamed_frame .., Keeps187]

theorem fillRefused_frame {R : State → State → Prop} (s again : State) (c sh : Nat) (hk : ∀ t, Keeps187 s t → R s t) (h : R s again) :
    R s (fillRefused s again c sh) := by
  unfold fillRefused
  repeat' split
  all_goals first
    | exact h
    | exact hk _ (by simp [rebuildOwn_frame .., Keeps187])

theorem askFill_frame (s : State) (cp : ShoalCopy) : Keeps251 s (askFill s cp) := by
  unfold askFill
  repeat' split
  all_goals simp [sendFill_frame .., rebuildOwn_frame .., Keeps251]

theorem fillTake_frame (s : State) (x : FillItem) : Keeps278 s (fillTake s x) := by
  unfold fillTake
  dsimp only
  with_reducible apply ite_keeps (R := Keeps278)
  · simp [newCopy_frame .., applyWaiting_frame .., State.bump_frame .., placeStreamed_frame .., dropCopy_frame .., Keeps278]
  · split
    all_goals split
    all_goals first
      | (simp [newCopy_frame .., applyWaiting_frame .., State.bump_frame .., placeStreamed_frame .., dropCopy_frame .., Keeps278]; done)
      | (with_reducible apply ite_keeps (R := Keeps278) <;> simp [newCopy_frame .., applyWaiting_frame .., State.bump_frame .., placeStreamed_frame .., dropCopy_frame .., Keeps278])

theorem readLeaf_frame (s : State) (l : Leaf) : Keeps12 s (readLeaf s l) := by
  unfold Keeps12 readLeaf
  simp

theorem forgetLeaf_frame (s : State) (l : Leaf) : Keeps12 s (forgetLeaf s l) := by
  unfold Keeps12 forgetLeaf
  simp

theorem streamCopy_frame (s : State) (cp : ShoalCopy) : Keeps246 s (streamCopy s cp) := by
  unfold streamCopy
  repeat' split
  all_goals simp [sendFill_frame .., forgetLeaf_frame .., readLeaf_frame .., Keeps246]

theorem dropStrays_frame (s : State) (c sh : Nat) : Keeps49 s (dropStrays s c sh) := by
  unfold Keeps49 dropStrays
  simp [unmapRecords_frame ..]

theorem serveFilled_frame (s : State) : Keeps246 s (serveFilled s) := by
  unfold Keeps246 serveFilled
  simp [dropStrays_frame .., sendFill_frame ..]

theorem planUpkeep_frame (s : State) : Keeps48 s (planUpkeep s) := by
  unfold Keeps48 planUpkeep
  simp

theorem dropJob_frame (s : State) (j : Upkeep) : Keeps187 s (dropJob s j) := by
  unfold Keeps187 dropJob
  simp [unmapRecords_frame .., placeTrees_frame ..]

theorem endJobs_frame (s : State) : Keeps187 s (endJobs s) := by
  unfold Keeps187 endJobs
  simp [dropJob_frame ..]

theorem stageItem_frame (c : Nat) (a : State × Upkeep) (q : Nat × Nat × Slot) : Keeps49 a.1 (stageItem c a q).1 := by
  unfold stageItem
  dsimp only
  repeat' split
  all_goals simp [Keeps49]

theorem commitJob_frame (s : State) (n : TreeNode) (j : Upkeep) : Keeps56 s (commitJob s n j) := by
  unfold Keeps56 commitJob
  simp [setEntry_frame .., pruneDirectory_frame .., State.bump_frame ..]

theorem workJob_frame (s : State) (j : Upkeep) : Keeps199 s (workJob s j) := by
  unfold workJob
  dsimp only
  split
  · simp [dropJob_frame .., Keeps199]
  apply ite_keeps (R := Keeps199) (by simp [Keeps199])
  split
  · simp [Keeps199]
  rename_i x b _
  split
  · simp [Keeps199]
  rename_i n _
  generalize hs : placeTrees _ = t
  have ht : Keeps199 s t := by
    rw [← hs]
    simp [placeTrees_frame .., Keeps199]
  apply ite_keeps (R := Keeps199) (by simp_all [dropJob_frame .., Keeps199])
  generalize hr : List.foldl (stageItem n.coll) (t, b) _ = r
  have hk : Keeps199 t r.1 := by
    rw [← hr]
    refine foldl_keeps_of (R := Keeps199) (fun a : State × Upkeep => a.1) (x := (t, b)) ?_ ?_ ?_
    · simp [Keeps199]
    · simp +contextual [Keeps199]
    · intro x y
      simp [stageItem_frame .., Keeps199]
  apply ite_keeps (R := Keeps199) <;> simp_all [commitJob_frame .., Keeps199]

theorem upkeepMoves_frame (s : State) : Keeps199 s (upkeepMoves s) := by
  unfold Keeps199 upkeepMoves
  simp [workJob_frame ..]

end Sys2Proof.Machine
end

