-- ==== Sys2Proof/Laws/CellsChangeOps.lean ====
section
/-! SUPPORT. The functions of ChangeOps.lean keep the canonical form of the memory's cells. -/

namespace Sys2Proof.Machine

set_option linter.unusedSimpArgs false
set_option linter.unusedVariables false
set_option linter.unusedTactic false
set_option linter.unreachableTactic false
set_option Elab.async false

open Sys2Proof Sys2Proof.Num Sys2Proof.Machine

@[simp] theorem intakeDone_wf (s : State) (i : Intake) (d : ChangeDone) (hm : Cells.wf s.mem.cells = true) : Cells.wf (intakeDone s i d).mem.cells = true := by
  unfold intakeDone
  simp +contextual (maxDischargeDepth := 20) [hm]

@[simp] theorem outcome_wf (s : State) (ch : Change) (d : ChangeDone) (hm : Cells.wf s.mem.cells = true) : Cells.wf (outcome s ch d).mem.cells = true := by
  unfold outcome
  split
  · split
    · unfold outcome.againElsewhere
      repeat' split
      all_goals simp (maxDischargeDepth := 20) [sendMessage_frame .., hm]
    · split
      · exact intakeDone_wf _ _ _ hm
      · exact hm
  · simp (maxDischargeDepth := 20) [sendMessage_frame .., hm]

@[simp] theorem placeTrees_wf (s : State) (hm : Cells.wf s.mem.cells = true) : Cells.wf (placeTrees s).mem.cells = true := by
  unfold placeTrees
  simp +contextual (maxDischargeDepth := 20) [hm]

@[simp] theorem applyChange_wf (s : State) (cp : ShoalCopy) (ch : Change) (commit : Nat) (hm : Cells.wf s.mem.cells = true) : Cells.wf (applyChange s cp ch commit).st.mem.cells = true := by
  unfold applyChange
  dsimp only
  repeat' split
  all_goals simp +contextual (maxDischargeDepth := 20) [writeLog_frame .., willCommit_frame .., writeRecord_frame .., hm]

@[simp] theorem settleAccepted_wf (s : State) (hm : Cells.wf s.mem.cells = true) : Cells.wf (settleAccepted s).mem.cells = true := by
  unfold settleAccepted
  simp +contextual (maxDischargeDepth := 20) [hm]

@[simp] theorem acceptChange_wf (s : State) (ch : Change) (hm : Cells.wf s.mem.cells = true) : Cells.wf (acceptChange s ch).mem.cells = true := by
  unfold acceptChange
  split
  · simp (maxDischargeDepth := 20) [State.bump_frame .., forwardChange_frame .., hm]
  · exact hm
  · dsimp only
    generalize ha : applyChange _ _ _ _ = a
    have ha : Cells.wf a.st.mem.cells = true := by
      rw [← ha]
      simp (maxDischargeDepth := 20) [State.bump_frame .., forwardChange_frame .., hm]
    with_reducible apply cells_ite
    · cases a.counter <;> simp (maxDischargeDepth := 20) [State.bump_frame .., forwardChange_frame .., outcome_frame .., ha]
    · repeat' split
      all_goals simp (maxDischargeDepth := 20) [State.bump_frame .., forwardChange_frame .., ha]

@[simp] theorem primaryTake_wf (s : State) (ch : Change) (hm : Cells.wf s.mem.cells = true) : Cells.wf (primaryTake s ch).mem.cells = true := by
  unfold primaryTake
  repeat' split
  all_goals simp +contextual (maxDischargeDepth := 20) [hm]

@[simp] theorem sendChange_wf (s : State) (ch : Change) (hm : Cells.wf s.mem.cells = true) : Cells.wf (sendChange s ch).mem.cells = true := by
  unfold sendChange
  repeat' split
  all_goals simp +contextual (maxDischargeDepth := 20) [sendMessage_frame .., hm]

@[simp] theorem markStale_wf (s : State) (c sh : Nat) (hm : Cells.wf s.mem.cells = true) : Cells.wf (markStale s c sh).mem.cells = true := by
  unfold markStale
  repeat' split
  all_goals simp +contextual (maxDischargeDepth := 20) [State.bump_frame .., hm]

@[simp] theorem noteAck_wf (s : State) (k : Ack) (hm : Cells.wf s.mem.cells = true) : Cells.wf (noteAck s k).mem.cells = true := by
  unfold noteAck
  repeat' split
  all_goals simp +contextual (maxDischargeDepth := 20) [withdraw_frame .., hm]

@[simp] theorem sendAck_wf (s : State) (node : Nat) (k : Ack) (hm : Cells.wf s.mem.cells = true) : Cells.wf (sendAck s node k).mem.cells = true := by
  unfold sendAck
  simp +contextual (maxDischargeDepth := 20) [sendMessage_frame .., hm]

theorem applyNext_wf (s : State) (c sh : Nat) (hm : Cells.wf s.mem.cells = true) {post} (h : applyNext s c sh = some post) : Cells.wf post.mem.cells = true := by
  unfold applyNext at h
  split at h
  · cases h
  · split at h
    · cases h
    · split at h
      · cases h
      · dsimp only at h
        repeat' split at h
        all_goals (injection h with h; rw [← h]; simp (maxDischargeDepth := 20) [forwardOn_frame .., hm])

@[simp] theorem applyWaiting_wf (c sh : Nat) (n : Nat) (s : State) (hm : Cells.wf s.mem.cells = true) : Cells.wf (applyWaiting c sh n s).mem.cells = true := by
  induction n generalizing s with
  | zero => simpa [applyWaiting] using hm
  | succ n ih =>
    unfold applyWaiting
    split
    · exact hm
    · rename_i h
      exact ih _ (applyNext_wf _ _ _ hm h)

@[simp] theorem replicaTake_wf (s : State) (src : Nat) (ch : Change) (seq commit result : Nat) (hm : Cells.wf s.mem.cells = true) : Cells.wf (replicaTake s src ch seq commit result).mem.cells = true := by
  unfold replicaTake
  dsimp only
  split
  · simp (maxDischargeDepth := 20) [hm]
  · simp (maxDischargeDepth := 20) [hm]

@[simp] theorem settleDurable_wf (s : State) (hm : Cells.wf s.mem.cells = true) : Cells.wf (settleDurable s).mem.cells = true := by
  unfold settleDurable
  simp +contextual (maxDischargeDepth := 20) [hm]

@[simp] theorem newCopy_wf (s : State) (c sh : Nat) (replica : Bool) (st : CopyState) (hm : Cells.wf s.mem.cells = true) : Cells.wf (newCopy s c sh replica st).mem.cells = true := by
  unfold newCopy
  simp +contextual (maxDischargeDepth := 20) [hm]

@[simp] theorem dropCopy_wf (s : State) (c sh : Nat) (hm : Cells.wf s.mem.cells = true) : Cells.wf (dropCopy s c sh).mem.cells = true := by
  unfold dropCopy
  simp +contextual (maxDischargeDepth := 20) [unmapRecords_frame .., pruneDirectory_frame .., hm]

@[simp] theorem dropKept_wf (s : State) (k : KeptTree) (hm : Cells.wf s.mem.cells = true) : Cells.wf (dropKept s k).mem.cells = true := by
  unfold dropKept
  simp +contextual (maxDischargeDepth := 20) [unmapRecords_frame .., pruneDirectory_frame .., hm]

@[simp] theorem startFill_wf (s : State) (c sh : Nat) (replica : Bool) (hm : Cells.wf s.mem.cells = true) : Cells.wf (startFill s c sh replica).mem.cells = true := by
  unfold startFill
  dsimp only
  repeat' split
  all_goals simp +contextual (maxDischargeDepth := 20) [sendFill_frame .., hm]

@[simp] theorem placeStreamed_wf (s : State) (cp : ShoalCopy) (id acc : Nat) (v metadata : Bytes) (hm : Cells.wf s.mem.cells = true) : Cells.wf (placeStreamed s cp id acc v metadata).mem.cells = true := by
  unfold placeStreamed
  dsimp only
  repeat' split
  all_goals simp +contextual (maxDischargeDepth := 20) [writeRecord_frame .., hm]

@[simp] theorem rebuildOwn_wf (s : State) (c sh : Nat) (hm : Cells.wf s.mem.cells = true) : Cells.wf (rebuildOwn s c sh).mem.cells = true := by
  unfold rebuildOwn
  apply foldl_wf
  · intro s x hm
    try dsimp only
    repeat' split
    all_goals simp +contextual (maxDischargeDepth := 20) [hm]
  · exact hm

@[simp] theorem fillRefused_wf (s again : State) (c sh : Nat) (hm : Cells.wf s.mem.cells = true) (ha : Cells.wf again.mem.cells = true) : Cells.wf (fillRefused s again c sh).mem.cells = true := by
  unfold fillRefused
  repeat' split
  all_goals simp (maxDischargeDepth := 20) [hm, ha]

@[simp] theorem askFill_wf (s : State) (cp : ShoalCopy) (hm : Cells.wf s.mem.cells = true) : Cells.wf (askFill s cp).mem.cells = true := by
  unfold askFill
  repeat' split
  all_goals simp +contextual (maxDischargeDepth := 20) [sendFill_frame .., hm]

@[simp] theorem fillTake_wf (s : State) (x : FillItem) (hm : Cells.wf s.mem.cells = true) : Cells.wf (fillTake s x).mem.cells = true := by
  unfold fillTake
  dsimp only
  split
  · exact hm
  · split
    all_goals split
    all_goals simp (maxDischargeDepth := 20) [State.bump_frame .., hm]

@[simp] theorem dropJob_wf (s : State) (j : Upkeep) (hm : Cells.wf s.mem.cells = true) : Cells.wf (dropJob s j).mem.cells = true := by
  unfold dropJob
  simp +contextual (maxDischargeDepth := 20) [unmapRecords_frame .., hm]

@[simp] theorem endJobs_wf (s : State) (hm : Cells.wf s.mem.cells = true) : Cells.wf (endJobs s).mem.cells = true := by
  unfold endJobs
  simp +contextual (maxDischargeDepth := 20) [hm]

@[simp] theorem stageItem_wf (c : Nat) (a : State × Upkeep) (q : Nat × Nat × Slot) (hm : Cells.wf a.1.mem.cells = true) : Cells.wf (stageItem c a q).1.mem.cells = true := by
  unfold stageItem
  dsimp only
  repeat' split
  all_goals simpa using hm

@[simp] theorem workJob_wf (s : State) (j : Upkeep) (hm : Cells.wf s.mem.cells = true) : Cells.wf (workJob s j).mem.cells = true := by
  unfold workJob
  dsimp only
  split
  · simp (maxDischargeDepth := 20) [commitJob_frame .., hm]
  apply cells_ite hm
  split
  · exact hm
  rename_i x b _
  split
  · exact hm
  rename_i n _
  generalize hs : placeTrees _ = t
  have ht : Cells.wf t.mem.cells = true := by
    rw [← hs]
    exact placeTrees_wf _ hm
  apply cells_ite (by simp (maxDischargeDepth := 20) [commitJob_frame .., ht])
  generalize hr : List.foldl (stageItem n.coll) (t, b) _ = r
  have hk : Cells.wf r.1.mem.cells = true := by
    rw [← hr]
    exact foldl_wf_of (fun a : State × Upkeep => a.1) (fun x y h => stageItem_wf _ _ _ h) ht
  apply cells_ite
  · simp (maxDischargeDepth := 20) [commitJob_frame .., hk]
  · exact hk

@[simp] theorem upkeepMoves_wf (s : State) (hm : Cells.wf s.mem.cells = true) : Cells.wf (upkeepMoves s).mem.cells = true := by
  unfold upkeepMoves
  simp +contextual (maxDischargeDepth := 20) [hm]

end Sys2Proof.Machine
end

