-- ==== Sys2Proof/Laws/FrameBerthCache.lean ====
section
/-! SUPPORT. Frames of BerthCache.lean: which units of the state each of its functions leaves as they are. -/

namespace Sys2Proof.Machine

set_option linter.unusedSimpArgs false
set_option linter.unusedVariables false
set_option linter.unusedTactic false
set_option linter.unreachableTactic false
set_option Elab.async false

open Sys2Proof Sys2Proof.Num Sys2Proof.Machine

theorem readScales_frame (s : State) (owner b : Nat) (g : Geometry) (q u : Nat) : Keeps258 s (readScales s owner b g q u).2.2 := by
  unfold Keeps258 readScales
  simp [readPaged_frame ..]

theorem appendToken_frame (s : State) (owner b : Nat) (g : Geometry) (l h k t : Nat) (codes : List Nat) (scale : Nat) : Keeps258 s (appendToken s owner b g l h k t codes scale).2.2 := by
  unfold appendToken
  dsimp only
  have hf : ∀ (l : List Nat) (x : Nat × State) (g : Nat × State → Nat → Nat × State),
      (∀ x y, Keeps258 x.2 (g x y).2) → Keeps258 x.2 (l.foldl g x).2 := by
    intro l x g hg
    refine foldl_keeps_of (R := Keeps258) (fun a : Nat × State => a.2) (x := x) ?_ ?_ hg
    · simp [agentRead_frame .., agentWrite_frame .., Keeps258]
    · simp +contextual [agentRead_frame .., agentWrite_frame .., Keeps258]
  generalize hr : List.foldl _ (St.ok, s) _ = r
  have hk : Keeps258 s r.2 := by
    rw [← hr]
    refine hf _ (St.ok, s) _ ?_
    intro x y
    split
    · simp [agentRead_frame .., agentWrite_frame .., Keeps258]
    · split <;> simp [agentRead_frame .., agentWrite_frame .., Keeps258]
  split
  · exact hk
  · simp_all [agentRead_frame .., agentWrite_frame .., Keeps258]

end Sys2Proof.Machine
end

