-- ==== Sys2Proof/Laws/CellsBerthCache.lean ====
section
/-! SUPPORT. The functions of BerthCache.lean keep the canonical form of the memory's cells. -/

namespace Sys2Proof.Machine

set_option linter.unusedSimpArgs false
set_option linter.unusedVariables false
set_option linter.unusedTactic false
set_option linter.unreachableTactic false
set_option Elab.async false

open Sys2Proof Sys2Proof.Num Sys2Proof.Machine

@[simp] theorem readScales_wf (s : State) (owner b : Nat) (g : Geometry) (q u : Nat) (hm : Cells.wf s.mem.cells = true) : Cells.wf (readScales s owner b g q u).2.2.mem.cells = true := by
  unfold readScales
  simp +contextual (maxDischargeDepth := 20) [hm]

@[simp] theorem appendToken_wf (s : State) (owner b : Nat) (g : Geometry) (l h k t : Nat) (codes : List Nat) (scale : Nat) (hm : Cells.wf s.mem.cells = true) : Cells.wf (appendToken s owner b g l h k t codes scale).2.2.mem.cells = true := by
  unfold appendToken
  dsimp only
  have hf : ∀ (l : List Nat) (x : Nat × State) (g : Nat × State → Nat → Nat × State),
      (∀ x y, Cells.wf x.2.mem.cells = true → Cells.wf (g x y).2.mem.cells = true) → Cells.wf x.2.mem.cells = true →
        Cells.wf (l.foldl g x).2.mem.cells = true := by
    intro l x g hg hx
    exact foldl_wf_of (fun a : Nat × State => a.2) (x := x) hg hx
  generalize hr : List.foldl _ (St.ok, s) _ = r
  have hk : Cells.wf r.2.mem.cells = true := by
    rw [← hr]
    refine hf _ (St.ok, s) _ ?_ hm
    intro x y hx
    split
    · exact hx
    · split <;> simp [hx]
  split
  · exact hk
  · simp (maxDischargeDepth := 20) [hk]

end Sys2Proof.Machine
end

