-- ==== Sys2Proof/Laws/FrameBerthOps.lean ====
section
/-! SUPPORT. Frames of BerthOps.lean: which units of the state each of its functions leaves as they are. -/

namespace Sys2Proof.Machine

set_option linter.unusedSimpArgs false
set_option linter.unusedVariables false
set_option linter.unusedTactic false
set_option linter.unreachableTactic false
set_option Elab.async false

open Sys2Proof.Machine Sys2Proof

namespace Berth

theorem mapOwned_frame (s : State) (b : Nat) (f : OwnedBerth → OwnedBerth) : Keeps26 s (mapOwned s b f) := by
  unfold Keeps26 mapOwned
  simp

theorem mapHome_frame (s : State) (n : Nat) (f : HomeBerth → HomeBerth) : Keeps26 s (mapHome s n f) := by
  unfold Keeps26 mapHome
  simp

theorem recordPage_frame (s : State) (n : Nat) {post} (h : recordPage s n = some post) : Keeps284 s post := by
  unfold recordPage at h
  split at h
  · injection h with h; subst h; simp [Keeps284]
  · rw [Option.map_eq_some_iff] at h
    obtain ⟨t, ht, rfl⟩ := h
    simp [Keeps284]

theorem journal_frame (s : State) (h : HomeBerth) : Keeps12 s (journal s h) := by
  unfold Keeps12 journal
  simp

theorem emitAnswer_frame (s : State) (a : BerthAnswer) : Keeps260 s (emitAnswer s a) := by
  unfold emitAnswer
  repeat' split
  all_goals simp [State.finish_frame .., answerMsg_frame .., sendMessage_frame .., respond_frame .., Keeps260]

theorem answer_frame (s : State) (n : Nat) (a : BerthAnswer) : Keeps292 s (answer s n a) := by
  unfold answer
  repeat' split
  all_goals simp [emitAnswer_frame .., Keeps292]

theorem settleAnswers_frame (s : State) : Keeps292 s (settleAnswers s) := by
  unfold Keeps292 settleAnswers
  simp [emitAnswer_frame ..]

theorem finish_frame (s : State) (cmd b status eventTide : Nat) : Keeps292 s (finish s cmd b status eventTide) := by
  unfold Keeps292 finish
  simp [answer_frame .., State.finish_frame ..]

theorem finishStale_frame (s : State) (cmd : Nat) (w : Word) : Keeps258 s (finishStale s cmd w) := by
  unfold Keeps258 finishStale
  simp [State.finish_frame ..]

theorem mapRecord_frame (s : State) (n : Nat) (f : HomeBerth → HomeBerth) : Keeps27 s (mapRecord s n f) := by
  unfold mapRecord
  repeat' split
  all_goals simp [journal_frame .., mapHome_frame .., Keeps27]

theorem putRecord_frame (s : State) (h : HomeBerth) : Keeps27 s (putRecord s h) := by
  unfold Keeps27 putRecord
  simp [journal_frame ..]

theorem sendControl_frame (s : State) (dest : Nat) (m : BerthMsg) : Keeps7 s (sendControl s dest m) := by
  unfold Keeps7 sendControl
  simp [sendMessage_frame ..]

theorem sendReport_frame (s : State) (b ckpt : Nat) (tokens : List Nat) : Keeps7 s (sendReport s b ckpt tokens) := by
  unfold Keeps7 sendReport
  simp [sendMessage_frame ..]

theorem setShadow_frame (s : State) (b : Nat) (sh : Option Nat) : Keeps26 s (setShadow s b sh) := by
  unfold Keeps26 setShadow
  simp [mapOwned_frame ..]

theorem tellShadow_frame (s : State) (b owner : Nat) (sh : Option Nat) : Keeps286 s (tellShadow s b owner sh) := by
  unfold Keeps286 tellShadow
  simp [setShadow_frame .., sendControl_frame ..]

theorem followWord_frame (s : State) (n : Nat) (w : Word) : Keeps288 s (followWord s n w) := by
  unfold followWord
  repeat' split
  all_goals simp [putRecord_frame .., mapRecord_frame .., tellShadow_frame .., Keeps288]

theorem wordAtomic_frame (s : State) (n op : Nat) (operand expected : Bytes) : Keeps288 s (wordAtomic s n op operand expected).2 := by
  unfold Keeps288 wordAtomic
  simp [followWord_frame ..]

theorem noteLease_frame (s : State) (b : Nat) (w : Word) : Keeps26 s (noteLease s b w) := by
  unfold Keeps26 noteLease
  simp [mapOwned_frame ..]

theorem freePages_frame (s : State) (o : OwnedBerth) : Keeps20 s (freePages s o) := by
  unfold Keeps20 freePages
  simp [releasePage_frame ..]

theorem allocPages_frame (s : State) (b ownerSlot : Nat) (g : Geometry) (pinned : Bool) {post} (h : allocPages s b ownerSlot g pinned = some post) : Keeps15 s post := by
  unfold allocPages at h
  apply foldl_some_keeps (R := Keeps15) _ _ _ h
  · simp [Keeps15]
  · simp +contextual [Keeps15]
  · intro s x t h
    rw [Option.map_eq_some_iff] at h
    obtain ⟨r, -, h⟩ := h
    cases h
    simp [Keeps15]

theorem pageData_frame (s : State) (id : PageId) {post} (h : pageData s id = some post) : Keeps19 s post.2.2 := by
  unfold pageData at h
  dsimp only at h
  rw [Option.bind_eq_some_iff] at h
  obtain ⟨a, -, h⟩ := h
  split at h
  · cases h
  · injection h with h; rw [← h]; simp [touch_frame .., Coh.flushPage_frame .., Keeps19]

theorem placePage_frame (s : State) (a ownerSlot : Nat) (bytes : Bytes) (states : List (Nat × Bool)) : Keeps19 s (placePage s a ownerSlot bytes states) := by
  have tr : ∀ x y z, Keeps19 x y → Keeps19 y z → Keeps19 x z := by simp +contextual [Keeps19]
  unfold placePage
  refine tr _ _ _ (?_ : Keeps19 s (touchAddr (Coh.flushPage s a) a)) (foldl_keeps (R := Keeps19) (by simp [Keeps19]) tr fun s x => ?_)
  · simp [touchAddr_frame .., Coh.flushPage_frame .., Keeps19]
  · dsimp only
    split <;> simp [Coh.storeMoving_frame .., Keeps19]

theorem parkPage_frame (s : State) (n page ownerSlot : Nat) (bytes : Bytes) (states : List (Nat × Bool)) : Keeps27 s (parkPage s n page ownerSlot bytes states) := by
  unfold Keeps27 parkPage
  simp [mapHome_frame ..]

theorem dropParked_frame (s : State) (h : HomeBerth) : Keeps27 s (dropParked s h) := by
  unfold Keeps27 dropParked
  simp [mapHome_frame ..]

theorem sendBytes_frame (s : State) (o : OwnedBerth) (dest : Nat) (use : BerthUse) (n : Nat) (bytes : Bytes) (states : List (Nat × Bool)) : Keeps7 s (sendBytes s o dest use n bytes states) := by
  unfold Keeps7 sendBytes
  simp [sendMessage_frame ..]

theorem fetchPage_frame (s : State) (b dest : Nat) (use : BerthUse) (n : Nat) (p : Page) : Keeps34 s (fetchPage s b dest use n p) := by
  unfold Keeps34 fetchPage
  simp [mapOwned_frame .., touch_frame ..]

theorem sendPage_frame (s : State) (o : OwnedBerth) (dest : Nat) (use : BerthUse) (n : Nat) {post} (h : sendPage s o dest use n = some post) : Keeps77 s post := by
  unfold sendPage at h
  split at h
  · split at h
    · injection h with h; subst h; simp [fetchPage_frame .., Keeps77]
    · cases h
  · rw [Option.map_eq_some_iff] at h
    obtain ⟨r, hr, h⟩ := h
    cases h
    have hr := pageData_frame _ _ hr
    simp_all [sendBytes_frame .., Keeps77]

theorem noRoute_frame (s : State) (status : Nat) : Keeps1 s (noRoute s status) := by
  unfold Keeps1 noRoute
  simp [State.unrouted_frame ..]

theorem sendPages_frame (s : State) (o : OwnedBerth) (dest : Nat) (use : BerthUse) (ps : List Nat) {post} (h : sendPages s o dest use ps = .ok post) : Keeps77 s post := by
  unfold sendPages at h
  split at h
  · cases h
  · split at h
    · rename_i h1
      injection h with h; subst h
      exact foldl_some_keeps (R := Keeps77) (by simp [Keeps77]) (by simp +contextual [Keeps77]) (fun s x t ht => sendPage_frame _ _ _ _ _ ht) h1
    · cases h

theorem dropWaits_frame (s : State) (o : OwnedBerth) (status : Nat) : Keeps292 s (dropWaits s o status) := by
  unfold Keeps292 dropWaits
  simp [finish_frame ..]

theorem staleWaits_frame (s : State) (o : OwnedBerth) (w : Word) : Keeps292 s (staleWaits s o w) := by
  unfold Keeps292 staleWaits
  simp [finish_frame .., finishStale_frame ..]

theorem refuseStale_frame (s : State) (cmd b : Nat) : Keeps292 s (refuseStale s cmd b) := by
  unfold refuseStale
  apply ite_keeps (R := Keeps292)
  · simp [finish_frame .., Keeps292]
  · refine getD_keeps (R := Keeps292) (fun t h => ?_) (by simp [State.refuse_frame .., State.unrouted_frame .., Keeps292])
    have h := sendWordAtomic_frame _ _ _ _ _ _ _ h
    simp_all [startCmd_frame .., Keeps292]

theorem letGo_frame (s : State) (o : OwnedBerth) : Keeps285 s (letGo s o) := by
  unfold Keeps285 letGo
  simp [freePages_frame ..]

theorem discard_frame (s : State) (b status : Nat) : Keeps292 s (discard s b status) := by
  unfold discard
  repeat' split
  all_goals simp [dropWaits_frame .., letGo_frame .., freePages_frame .., Keeps292]

theorem discardStale_frame (s : State) (b : Nat) (w : Word) : Keeps292 s (discardStale s b w) := by
  unfold discardStale
  repeat' split
  all_goals simp [staleWaits_frame .., letGo_frame .., Keeps292]

theorem unconfirm_frame (s : State) (b : Nat) : Keeps26 s (unconfirm s b) := by
  unfold Keeps26 unconfirm
  simp [mapOwned_frame ..]

theorem leaseAnswer_frame (s : State) (b status : Nat) (old expected new : Word) : Keeps292 s (leaseAnswer s b status old expected new) := by
  unfold leaseAnswer
  repeat' split
  all_goals simp [noteLease_frame .., mapOwned_frame .., discardStale_frame .., unconfirm_frame .., discard_frame .., Keeps292]

theorem renew_frame (s : State) (b : Nat) : Keeps292 s (renew s b) := by
  unfold renew
  split
  · simp [Keeps292]
  · dsimp only
    apply ite_keeps (R := Keeps292)
    · simp [leaseAnswer_frame .., wordAtomic_frame .., Keeps292]
    · refine getD_keeps (R := Keeps292) (fun t h => ?_) (by simp [leaseAnswer_frame .., State.unrouted_frame .., Keeps292])
      have h := sendWordAtomic_frame _ _ _ _ _ _ _ h
      simp_all [Keeps292]

theorem recordCheckpoint_frame (s : State) (n ckpt : Nat) (tokens : List Nat) : Keeps287 s (recordCheckpoint s n ckpt tokens) := by
  unfold recordCheckpoint
  repeat' split
  all_goals simp [dropParked_frame .., mapRecord_frame .., State.bump_frame .., Keeps287]

theorem dropFetch_frame (s : State) (b : Nat) (use : BerthUse) : Keeps27 s (dropFetch s b use) := by
  unfold dropFetch
  repeat' split
  all_goals simp [mapOwned_frame .., Keeps27]

theorem parkFail_frame (s : State) (b : Nat) (cmd : Option Nat) (status : Nat) : Keeps292 s (parkFail s b cmd status) := by
  unfold parkFail
  repeat' split
  all_goals simp [State.bump_frame .., dropFetch_frame .., mapOwned_frame .., finish_frame .., Keeps292]

theorem flushPages_frame (s : State) (o : OwnedBerth) : Keeps16 s (flushPages s o) := by
  unfold flushPages
  apply foldl_keeps (R := Keeps16)
  · simp [Keeps16]
  · simp +contextual [Keeps16]
  · intro s x
    try dsimp only
    repeat' split
    all_goals simp [Coh.flushPage_frame .., Keeps16]

theorem parkOne_frame (s : State) (o : OwnedBerth) (n : Nat) {post} (h : parkOne s o n = some post) : Keeps289 s post := by
  unfold parkOne at h
  split at h
  · split at h
    · injection h with h; subst h; simp [fetchPage_frame .., mapOwned_frame .., Keeps289]
    · cases h
  · rw [Option.map_eq_some_iff] at h
    obtain ⟨t, ht, rfl⟩ := h
    have hk := pageData_frame _ _ ht
    simp_all [parkPage_frame .., Keeps289]

theorem parkPages_frame (s : State) (b : Nat) (cmd : Option Nat) : Keeps292 s (parkPages s b cmd) := by
  have hg (v : State) (o : OwnedBerth) (t : State)
      (h : (allPages o).foldl (fun (acc : Option State) n => acc.bind fun s => parkOne s o n) (some v) = some t) : Keeps292 v t :=
    foldl_some_keeps (R := Keeps292) (by simp [Keeps292]) (by simp +contextual [Keeps292])
      (fun s x t ht => by have hk := parkOne_frame _ _ _ ht; simp_all [Keeps292]) h
  unfold parkPages
  split
  · simp [Keeps292]
  · rename_i o _
    apply ite_keeps (R := Keeps292)
    · extract_lets v u
      have h0 : Keeps292 s v := by simp [v, flushPages_frame .., Keeps292]
      have hv : Keeps292 v u := by
        unfold u
        split <;> simp [mapRecord_frame .., dropParked_frame .., Keeps292]
      clear_value u v
      apply ite_keeps (R := Keeps292)
      · clear hg hv; simp_all [parkFail_frame .., Keeps292]
      · split
        · clear hg; simp_all [parkFail_frame .., Keeps292]
        · rename_i h
          have hk := hg _ _ _ h
          clear hg h
          simp_all [Keeps292]
    · split
      · simp [parkFail_frame .., noRoute_frame .., Keeps292]
      · rename_i h
        have hk := sendPages_frame _ _ _ _ _ h
        simp_all [mapOwned_frame .., Keeps292]

theorem checkpointDone_frame (s : State) (b status : Nat) : Keeps292 s (checkpointDone s b status) := by
  unfold checkpointDone
  repeat' split
  all_goals simp [mapOwned_frame .., finish_frame .., State.finish_frame .., parkPages_frame .., Keeps292]

theorem reportCheckpoint_frame (s : State) (b : Nat) : Keeps292 s (reportCheckpoint s b) := by
  unfold reportCheckpoint
  repeat' split
  all_goals simp [checkpointDone_frame .., recordCheckpoint_frame .., sendReport_frame .., sendControl_frame .., Keeps292]

theorem replaceAtHome_frame (s : State) (b owner n : Nat) : Keeps288 s (replaceAtHome s b owner n) := by
  unfold Keeps288 replaceAtHome
  simp [tellShadow_frame .., mapRecord_frame ..]

theorem reachShadow_frame (n : Nat) (s : State) (n' : Nat) : Keeps288 s (reachShadow n s n') := by
  induction n generalizing s with
  | zero => simp [reachShadow, Keeps288]
  | succ n ih =>
    unfold reachShadow
    repeat' split
    all_goals simp [replaceAtHome_frame .., State.unrouted_frame .., Keeps288, ih]

theorem reportShadow_frame (s : State) (b n : Nat) : Keeps288 s (reportShadow s b n) := by
  unfold Keeps288 reportShadow
  simp [mapOwned_frame .., dropFetch_frame .., sendControl_frame ..]

theorem sendCheckpoint_frame (s : State) (b : Nat) : Keeps292 s (sendCheckpoint s b) := by
  unfold sendCheckpoint
  split
  · simp [Keeps292]
  · split
    · simp [checkpointDone_frame .., Keeps292]
    · apply ite_keeps (R := Keeps292)
      · simp [reportCheckpoint_frame .., Keeps292]
      · apply ite_keeps (R := Keeps292)
        · simp [reportShadow_frame .., State.unrouted_frame .., Keeps292]
        · split
          · simp [checkpointDone_frame .., noRoute_frame .., Keeps292]
          · rename_i h
            have hk := sendPages_frame _ _ _ _ _ h
            simp_all [mapOwned_frame .., Keeps292]

theorem startCheckpoint_frame (s : State) (b : Nat) : Keeps292 s (startCheckpoint s b) := by
  unfold startCheckpoint
  repeat' split
  all_goals (try (have hk := Berth.sendPages_frame _ _ _ _ _ (by assumption); unfold Keeps292 at hk))
  all_goals simp_all [sendCheckpoint_frame .., reachShadow_frame .., mapOwned_frame .., checkpointDone_frame .., reportCheckpoint_frame .., Keeps292]

theorem replaceShadow_frame (s : State) (b n : Nat) : Keeps292 s (replaceShadow s b n) := by
  unfold Keeps292 replaceShadow
  simp [mapOwned_frame .., dropFetch_frame .., startCheckpoint_frame .., replaceAtHome_frame .., reportShadow_frame .., sendControl_frame .., mapHome_frame ..]

theorem shadowNamed_frame (s : State) (b : Nat) (sh : Option Nat) : Keeps292 s (shadowNamed s b sh) := by
  unfold shadowNamed
  dsimp only
  repeat' split
  all_goals simp [setShadow_frame .., dropFetch_frame .., startCheckpoint_frame .., mapOwned_frame .., Keeps292]

theorem dropExpelled_frame (s : State) : Keeps292 s (dropExpelled s) := by
  unfold dropExpelled
  apply foldl_keeps (R := Keeps292)
  · simp [Keeps292]
  · simp +contextual [Keeps292]
  · intro s x
    try dsimp only
    repeat' split
    all_goals simp [replaceAtHome_frame .., dropFetch_frame .., startCheckpoint_frame .., Keeps292]

theorem startPark_frame (s : State) (b : Nat) (cmd : Option Nat) : Keeps292 s (startPark s b cmd) := by
  unfold startPark
  repeat' split
  all_goals simp [startCheckpoint_frame .., mapOwned_frame .., parkFail_frame .., Keeps292]

theorem dropHeld_frame (s : State) (b : Nat) : Keeps285 s (dropHeld s b) := by
  unfold Keeps285 dropHeld
  simp [releasePage_frame ..]

theorem freeHome_frame (s : State) (n status : Nat) : Keeps292 s (freeHome s n status) := by
  have tr : ∀ x y z, Keeps292 x y → Keeps292 y z → Keeps292 x z := by simp +contextual [Keeps292]
  have hd (h : HomeBerth) : Keeps292 s (dropParked s h) := by simp [dropParked_frame .., Keeps292]
  have hm (u : State) (g : HomeBerth → HomeBerth) : Keeps292 u (mapRecord u n g) := by simp [mapRecord_frame .., Keeps292]
  have hr (u : State) (l : List (Nat × Nat)) : Keeps292 u { u with berth := { u.berth with refused := l } } := by simp [Keeps292]
  have hw (u : State) (l : List BerthWait) (b : Nat) : Keeps292 u (l.foldl (fun s w => finish s w.cmd b status 0) u) :=
    foldl_keeps (R := Keeps292) (by simp [Keeps292]) tr fun s x => by simp [finish_frame .., Keeps292]
  unfold freeHome
  split
  · simp [Keeps292]
  · exact tr _ _ _ (tr _ _ _ (tr _ _ _ (hd _) (hr _ _)) (hm _ _)) (hw _ _ _)

theorem startWake_frame (s : State) (b : Nat) (cmd : Option Nat) {post} (h : startWake s b cmd = some post) : Keeps32 s post := by
  unfold startWake at h
  split at h
  · cases h
  · rw [Option.map_eq_some_iff] at h
    obtain ⟨t, ht, h⟩ := h
    cases h
    have ht := allocPages_frame _ _ _ _ _ ht
    simp_all [mapRecord_frame .., mapHome_frame .., Keeps32]

theorem wakeProgress_frame (s : State) (b : Nat) : Keeps289 s (wakeProgress s b) := by
  unfold wakeProgress
  split
  · split
    · simp [placePage_frame .., mapOwned_frame .., Keeps289]
    · split
      · simp [placePage_frame .., mapOwned_frame .., Keeps289]
      · dsimp only
        have hf : ∀ (l : List (Nat × List (Nat × Bool))) (s : State) (g : State → (Nat × List (Nat × Bool)) → State),
            (∀ s x, Keeps289 s (g s x)) → Keeps289 s (l.foldl g s) := by
          intro l s g hg
          apply foldl_keeps (R := Keeps289) _ _ hg
          · simp [placePage_frame .., mapOwned_frame .., Keeps289]
          · simp +contextual [placePage_frame .., mapOwned_frame .., Keeps289]
        generalize hr : List.foldl _ s _ = r
        have hk : Keeps289 s r := by
          rw [← hr]
          refine hf _ s _ ?_
          intro s x
          split <;> simp [placePage_frame .., mapOwned_frame .., Keeps289]
        simp_all [placePage_frame .., mapOwned_frame .., Keeps289]
  · simp [placePage_frame .., mapOwned_frame .., Keeps289]

theorem wakeEnd_frame (s : State) (b : Nat) : Keeps292 s (wakeEnd s b) := by
  unfold wakeEnd
  repeat' split
  all_goals simp [mapRecord_frame .., noteLease_frame .., mapOwned_frame .., State.setNum_frame .., finish_frame .., dropParked_frame .., mapHome_frame .., Keeps292]

theorem releaseHome_frame (s : State) (b : Nat) : Keeps292 s (releaseHome s b) := by
  unfold releaseHome
  repeat' split
  all_goals simp [dropHeld_frame .., sendControl_frame .., freeHome_frame .., Keeps292]

theorem onParked_frame (s : State) (b cmd opcode : Nat) : Keeps292 s (onParked s b cmd opcode) := by
  unfold onParked
  split
  · cases h : startWake s b (some cmd) with
    | none => simp [awaitPages_frame .., finish_frame .., releaseHome_frame .., State.retryAt_frame .., Keeps292]
    | some t => have h := startWake_frame _ _ _ h; simp_all [awaitPages_frame .., finish_frame .., releaseHome_frame .., State.retryAt_frame .., Keeps292]
  · split
    · simp [awaitPages_frame .., finish_frame .., releaseHome_frame .., State.retryAt_frame .., Keeps292]
    · split <;> simp [awaitPages_frame .., finish_frame .., releaseHome_frame .., State.retryAt_frame .., Keeps292]

theorem parkEnd_frame (s : State) (b : Nat) (cmd : Option Nat) (w : Word) : Keeps292 s (parkEnd s b cmd w) := by
  unfold parkEnd
  repeat' split
  all_goals simp [letGo_frame .., mapRecord_frame .., finish_frame .., State.finish_frame .., staleWaits_frame .., Keeps292]

theorem parkAnswer_frame (s : State) (b status : Nat) (old expected new : Word) : Keeps292 s (parkAnswer s b status old expected new) := by
  unfold parkAnswer
  split
  · simp [Keeps292]
  split
  · apply ite_keeps (R := Keeps292)
    · apply ite_keeps (R := Keeps292)
      · simp [parkEnd_frame .., Keeps292]
      · apply ite_keeps (R := Keeps292)
        · refine getD_keeps (R := Keeps292) (fun t h => ?_) (by simp [State.unrouted_frame .., parkFail_frame .., mapOwned_frame .., Keeps292])
          have h := sendWordAtomic_frame _ _ _ _ _ _ _ h
          simp_all [mapOwned_frame .., Keeps292]
        · dsimp only
          split <;> simp [finishStale_frame .., discardStale_frame .., Keeps292]
    · apply ite_keeps (R := Keeps292)
      · dsimp only
        split <;> simp [finish_frame .., unconfirm_frame .., mapOwned_frame .., Keeps292]
      · simp [parkFail_frame .., Keeps292]
  · simp [Keeps292]

theorem parkSwap_frame (s : State) (b : Nat) : Keeps292 s (parkSwap s b) := by
  unfold parkSwap
  dsimp only
  apply ite_keeps (R := Keeps292)
  · simp [parkAnswer_frame .., wordAtomic_frame .., Keeps292]
  · refine getD_keeps (R := Keeps292) (fun t h => ?_) (by simp [State.unrouted_frame .., parkAnswer_frame .., Keeps292])
    have h := sendWordAtomic_frame _ _ _ _ _ _ _ h
    simp_all [Keeps292]

theorem handoffFail_frame (s : State) (b cmd target status : Nat) : Keeps292 s (handoffFail s b cmd target status) := by
  unfold Keeps292 handoffFail
  simp [dropFetch_frame .., sendControl_frame .., mapOwned_frame .., finish_frame ..]

theorem handoffAnswer_frame (s : State) (b status : Nat) (old expected new : Word) : Keeps292 s (handoffAnswer s b status old expected new) := by
  unfold handoffAnswer
  split
  · simp [Keeps292]
  split
  · apply ite_keeps (R := Keeps292)
    · apply ite_keeps (R := Keeps292)
      · simp [staleWaits_frame .., State.finish_frame .., letGo_frame .., State.bump_frame .., sendControl_frame .., Keeps292]
      · apply ite_keeps (R := Keeps292)
        · refine getD_keeps (R := Keeps292) (fun t h => ?_) (by simp [State.unrouted_frame .., handoffFail_frame .., mapOwned_frame .., Keeps292])
          have h := sendWordAtomic_frame _ _ _ _ _ _ _ h
          simp_all [mapOwned_frame .., Keeps292]
        · simp [finishStale_frame .., discardStale_frame .., State.bump_frame .., sendControl_frame .., Keeps292]
    · apply ite_keeps (R := Keeps292)
      · simp [finish_frame .., unconfirm_frame .., mapOwned_frame .., Keeps292]
      · simp [handoffFail_frame .., Keeps292]
  · simp [parkAnswer_frame .., Keeps292]

theorem handoffSwap_frame (s : State) (b : Nat) : Keeps292 s (handoffSwap s b) := by
  unfold handoffSwap
  split
  · simp [Keeps292]
  split
  · apply ite_keeps (R := Keeps292)
    · simp [Keeps292]
    · dsimp only
      apply ite_keeps (R := Keeps292)
      · simp [handoffAnswer_frame .., wordAtomic_frame .., mapOwned_frame .., Keeps292]
      · refine getD_keeps (R := Keeps292) (fun t h => ?_) (by simp [State.unrouted_frame .., handoffFail_frame .., mapOwned_frame .., Keeps292])
        have h := sendWordAtomic_frame _ _ _ _ _ _ _ h
        simp_all [mapOwned_frame .., Keeps292]
  · simp [Keeps292]

theorem startHandoff_frame (s : State) (b cmd target : Nat) : Keeps292 s (startHandoff s b cmd target) := by
  unfold startHandoff
  split
  · simp [Keeps292]
  dsimp only
  split
  · simp [noRoute_frame .., handoffFail_frame .., mapOwned_frame .., Keeps292]
  · rename_i h
    have hk := sendPages_frame _ _ _ _ _ h
    simp_all [handoffSwap_frame .., startCheckpoint_frame .., mapOwned_frame .., Keeps292]

theorem becomeOwner_frame (s : State) (b : Nat) : Keeps292 s (becomeOwner s b) := by
  unfold becomeOwner
  dsimp only
  repeat' split
  all_goals simp [mapOwned_frame .., dropHeld_frame .., startCheckpoint_frame .., Keeps292]

theorem resolveAnswer_frame (s : State) (b status : Nat) (old : Word) : Keeps292 s (resolveAnswer s b status old) := by
  unfold resolveAnswer
  repeat' split
  all_goals simp [unconfirm_frame .., mapOwned_frame .., handoffSwap_frame .., renew_frame .., becomeOwner_frame .., discardStale_frame .., discard_frame .., Keeps292]

theorem resolve_frame (s : State) (b : Nat) : Keeps292 s (resolve s b) := by
  unfold resolve
  apply ite_keeps (R := Keeps292)
  · split <;> simp [resolveAnswer_frame .., Keeps292]
  · refine getD_keeps (R := Keeps292) (fun t h => ?_) (by simp [State.unrouted_frame .., unconfirm_frame .., Keeps292])
    have h := sendWordAtomic_frame _ _ _ _ _ _ _ h
    simp_all [Keeps292]

theorem pageAnswered_frame (s : State) (dest b n : Nat) (use : BerthUse) (status : Nat) : Keeps292 s (pageAnswered s dest b n use status) := by
  unfold pageAnswered
  repeat' split
  all_goals simp [replaceShadow_frame .., mapOwned_frame .., handoffSwap_frame .., reportCheckpoint_frame .., handoffFail_frame .., parkFail_frame .., startCheckpoint_frame .., finish_frame .., Keeps292]

theorem controlAnswered_frame (s : State) (b status : Nat) : Keeps292 s (controlAnswered s b status) := by
  unfold controlAnswered
  repeat' split
  all_goals simp [handoffSwap_frame .., checkpointDone_frame .., Keeps292]

theorem fetchFail_frame (s : State) (b : Nat) (use : BerthUse) (status : Nat) : Keeps292 s (fetchFail s b use status) := by
  unfold fetchFail
  repeat' split
  all_goals simp [handoffFail_frame .., parkFail_frame .., checkpointDone_frame .., mapOwned_frame .., dropFetch_frame .., Keeps292]

theorem sendFetched_frame (s : State) (b n : Nat) (bytes : Bytes) (states : List (Nat × Bool)) (f : Nat × BerthUse × Nat) : Keeps292 s (sendFetched s b n bytes states f) := by
  unfold sendFetched
  repeat' split
  all_goals simp [mapOwned_frame .., parkPage_frame .., fetchFail_frame .., State.unrouted_frame .., sendBytes_frame .., Keeps292]

theorem fetched_frame (s : State) (b n : Nat) : Keeps292 s (fetched s b n) := by
  have tr : ∀ x y z, Keeps292 x y → Keeps292 y z → Keeps292 x z := by simp +contextual [Keeps292]
  have hr : ∀ x, Keeps292 x x := by simp [Keeps292]
  unfold fetched
  split
  · exact hr _
  dsimp only
  apply ite_keeps (R := Keeps292) (hr _)
  generalize hu : mapOwned _ _ _ = u
  have hu : Keeps292 s u := by rw [← hu]; simp [mapOwned_frame .., Keeps292]
  split
  · exact tr _ _ _ hu (foldl_keeps (R := Keeps292) hr tr fun s x => by simp [fetchFail_frame .., Keeps292])
  · rename_i t h
    refine tr _ _ _ ?_ (foldl_keeps (R := Keeps292) hr tr fun s x => by simp [sendFetched_frame .., Keeps292])
    split at h
    · split at h
      · injection h with h; injection h with h1 h; injection h with h2 h; subst h; exact hu
      · cases h
    · have hk := pageData_frame _ _ h
      simp_all [Keeps292]

theorem settleFetches_frame (s : State) : Keeps292 s (settleFetches s) := by
  unfold Keeps292 settleFetches
  simp [fetched_frame ..]

theorem renamePage_frame (s : State) (old new : PageId) : Keeps15 s (renamePage s old new) := by
  unfold Keeps15 renamePage
  simp

theorem settleHeld_frame (s : State) (b : Nat) : Keeps20 s (settleHeld s b) := by
  unfold Keeps20 settleHeld
  simp [renamePage_frame .., releasePage_frame ..]

theorem heldPage_frame (s : State) (p : BerthPage) {post} (h : heldPage s p = some post) : Keeps20 s post.2 := by
  unfold heldPage at h
  dsimp only at h
  rw [Option.map_eq_some_iff] at h
  obtain ⟨t, ht, rfl⟩ := h
  simp [releasePage_frame .., Keeps20]

theorem takeCheckpoint_frame (s : State) (p : BerthPage) : Keeps289 s (takeCheckpoint s p).2 := by
  unfold takeCheckpoint
  dsimp only
  split
  · simp [demoteFor_frame .., Keeps289]
  · rename_i h
    have hk := heldPage_frame _ _ h
    have hu (c : Bool) : Keeps289 s (if c then settleHeld s p.berth else s) :=
      ite_keeps (R := Keeps289) (by simp [settleHeld_frame .., Keeps289]) (by simp [Keeps289])
    have hu := hu (match heldRecord s p.berth with
      | some r => r.number != p.ckpt
      | none => true)
    simp only [Keeps289] at hk hu ⊢
    simp only [placePage_frame ..]
    simp_all

theorem takePage_frame (s : State) (p : BerthPage) : Keeps289 s (takePage s p).2 := by
  unfold takePage
  split
  · split
    · simp [mapHome_frame .., dropParked_frame .., parkPage_frame .., takeCheckpoint_frame .., mapOwned_frame .., placePage_frame .., State.bump_frame .., demoteFor_frame .., Keeps289]
    · split <;> simp [mapHome_frame .., dropParked_frame .., parkPage_frame .., takeCheckpoint_frame .., mapOwned_frame .., placePage_frame .., State.bump_frame .., demoteFor_frame .., Keeps289]
  · simp [mapHome_frame .., dropParked_frame .., parkPage_frame .., takeCheckpoint_frame .., mapOwned_frame .., placePage_frame .., State.bump_frame .., demoteFor_frame .., Keeps289]
  · dsimp only
    split
    · simp [mapHome_frame .., dropParked_frame .., parkPage_frame .., takeCheckpoint_frame .., mapOwned_frame .., placePage_frame .., State.bump_frame .., demoteFor_frame .., Keeps289]
    · rename_i t h
      have hk : Keeps289 s t := by
        split at h
        · cases h; simp [mapHome_frame .., dropParked_frame .., parkPage_frame .., takeCheckpoint_frame .., mapOwned_frame .., placePage_frame .., State.bump_frame .., demoteFor_frame .., Keeps289]
        · rw [Option.map_eq_some_iff] at h
          obtain ⟨r, hr, h⟩ := h
          cases h
          have hr := allocPages_frame _ _ _ _ _ hr
          simp_all [mapHome_frame .., dropParked_frame .., parkPage_frame .., takeCheckpoint_frame .., mapOwned_frame .., placePage_frame .., State.bump_frame .., demoteFor_frame .., Keeps289]
      split
      · exact hk
      · simp_all [mapHome_frame .., dropParked_frame .., parkPage_frame .., takeCheckpoint_frame .., mapOwned_frame .., placePage_frame .., State.bump_frame .., demoteFor_frame .., Keeps289]

theorem record_frame (s : State) (n owner ownerSlot : Nat) (g : Geometry) (pinned : Bool) (seq : Nat) (shadow : Option Nat) : Keeps27 s (record s n owner ownerSlot g pinned seq shadow) := by
  unfold Keeps27 record
  simp [putRecord_frame ..]

theorem refuseCreate_frame (s : State) (src cmd st : Nat) : Keeps7 s (refuseCreate s src cmd st) := by
  unfold Keeps7 refuseCreate
  simp [sendControl_frame ..]

theorem createHere_frame (s : State) (src cmd ownerSlot : Nat) (g : Geometry) (pinned : Bool) {post} (h : createHere s src cmd ownerSlot g pinned = some post) : Keeps292 s post := by
  unfold createHere at h
  split at h
  · injection h with h; subst h; simp [refuseCreate_frame .., Keeps292]
  split at h
  · injection h with h; subst h; simp [refuseCreate_frame .., Keeps292]
  · rw [Option.map_eq_some_iff] at h
    obtain ⟨u, hu, rfl⟩ := h
    have hk := recordPage_frame _ _ hu
    simp_all [answer_frame .., record_frame .., Keeps292]

/-- What a message that needs stack pages can do: it waits, or it is refused. -/
theorem holdMessage_keeps {R : State → State → Prop} (s : State) (h : BerthHeld) (first : Bool) (refused : State → State)
    (hk : ∀ x y, Keeps289 x y → R x y) (ht : ∀ x y z, R x y → R y z → R x z) (hf : ∀ x, R x (refused x)) :
    R s (holdMessage s h first refused) := by
  have hd : R s (demoteFor s) := hk _ _ (by simp [demoteFor_frame .., Keeps289])
  unfold holdMessage
  dsimp only
  split
  · exact ht _ _ _ hd (hk _ _ (by simp [State.bump_frame .., Keeps289]))
  · exact ht _ _ _ hd (hf _)

theorem receivePage_frame (s : State) (src : Nat) (p : BerthPage) (first : Bool) : Keeps77 s (receivePage s src p first) := by
  unfold receivePage
  dsimp only
  apply ite_keeps (R := Keeps77)
  · exact holdMessage_keeps (R := Keeps77) _ _ _ _ (by simp +contextual [Keeps289, Keeps77]) (by simp +contextual [Keeps77]) fun x => by simp [answerMsg_frame .., Keeps77]
  · simp [answerMsg_frame .., takePage_frame .., Keeps77]

theorem receiveCreate_frame (s : State) (src cmd slot : Nat) (g : Geometry) (pinned first : Bool) : Keeps292 s (receiveCreate s src cmd slot g pinned first) := by
  unfold receiveCreate
  refine getD_keeps (R := Keeps292) (fun t h => createHere_frame _ _ _ _ _ _ h) ?_
  exact holdMessage_keeps (R := Keeps292) _ _ _ _ (by simp +contextual [Keeps289, Keeps292]) (by simp +contextual [Keeps292]) fun x => by simp [refuseCreate_frame .., Keeps292]

theorem retryHeld_frame (s : State) : Keeps292 s (retryHeld s) := by
  have tr : ∀ x y z, Keeps292 x y → Keeps292 y z → Keeps292 x z := by simp +contextual [Keeps292]
  unfold retryHeld
  refine tr _ _ _ ?_ (foldl_keeps (R := Keeps292) (by simp [Keeps292]) tr fun s x => ?_)
  · simp [Keeps292]
  · split <;> simp [receivePage_frame .., receiveCreate_frame .., Keeps292]

theorem own_frame (s : State) (b ownerSlot : Nat) (g : Geometry) (pinned : Bool) (seq lease : Nat) (shadow : Option Nat) : Keeps26 s (own s b ownerSlot g pinned seq lease shadow) := by
  unfold Keeps26 own
  simp

theorem createAnswered_frame (s : State) (src cmd status n seq lease : Nat) (shadow : Option Nat) : Keeps292 s (createAnswered s src cmd status n seq lease shadow) := by
  unfold createAnswered
  dsimp only
  split
  · apply ite_keeps (R := Keeps292) <;> simp [sendControl_frame .., Keeps292]
  apply ite_keeps (R := Keeps292) (by simp [State.refuse_frame .., Keeps292])
  split
  · unfold waitForPages
    dsimp only
    apply ite_keeps (R := Keeps292) <;> simp [sendControl_frame .., demoteFor_frame .., stallCmd_frame .., State.refuse_frame .., Keeps292]
  · rename_i h
    have hk := allocPages_frame _ _ _ _ _ h
    simp_all [own_frame .., State.finish_frame .., Keeps292]

theorem loseBerth_frame (s : State) (n : Nat) : Keeps287 s (loseBerth s n) := by
  unfold Keeps287 loseBerth
  simp [mapRecord_frame .., State.bump_frame ..]

theorem takeInstalled_frame (s : State) (b q l ckpt : Nat) : Keeps292 s (takeInstalled s b q l ckpt) := by
  unfold takeInstalled
  repeat' split
  all_goals simp [becomeOwner_frame .., mapOwned_frame .., loseBerth_frame .., sendControl_frame .., settleHeld_frame .., Keeps292]

theorem takeControl_frame (s : State) (src : Nat) (m : BerthMsg) : Keeps292 s (takeControl s src m) := by
  unfold takeControl
  dsimp only
  repeat' split
  all_goals simp [takeInstalled_frame .., freeHome_frame .., dropHeld_frame .., letGo_frame .., refuseStale_frame .., recordCheckpoint_frame .., receiveCreate_frame .., createAnswered_frame .., shadowNamed_frame .., replaceAtHome_frame .., loseBerth_frame .., createHere_frame .., mapOwned_frame .., startCheckpoint_frame .., discard_frame .., Keeps292]

theorem receiveControl_frame (s : State) (src : Nat) (m : BerthMsg) : Keeps292 s (receiveControl s src m) := by
  unfold receiveControl
  dsimp only
  repeat' split
  all_goals simp [takeControl_frame .., answer_frame .., answerMsg_frame .., Keeps292]

theorem takeOver_frame (s : State) (n : Nat) : Keeps292 s (takeOver s n) := by
  unfold takeOver
  repeat' split
  all_goals simp [State.bump_frame .., mapRecord_frame .., loseBerth_frame .., takeInstalled_frame .., sendControl_frame .., mapHome_frame .., takeControl_frame .., Keeps292]

theorem recoveredAnswer_frame (s : State) (b status : Nat) (old expected new : Word) : Keeps292 s (recoveredAnswer s b status old expected new) := by
  unfold Keeps292 recoveredAnswer
  simp [mapOwned_frame .., noteLease_frame .., discardStale_frame .., unconfirm_frame .., discard_frame ..]

theorem adoptHeld_frame (s : State) (o : OwnedBerth) {post} (h : adoptHeld s o = some post) : Keeps15 s post := by
  unfold adoptHeld at h
  refine foldl_some_keeps (R := Keeps15) (by simp [Keeps15]) (by simp +contextual [Keeps15]) (fun s x t ht => ?_) h
  dsimp only at ht
  split at ht
  · injection ht with ht; subst ht; simp [Keeps15]
  split at ht
  · injection ht with ht; subst ht; simp [renamePage_frame .., Keeps15]
  · rw [Option.map_eq_some_iff] at ht
    obtain ⟨u, hu, rfl⟩ := ht
    simp [Keeps15]

theorem installCheckpoint_frame (s : State) (o : OwnedBerth) : Keeps292 s (installCheckpoint s o) := by
  unfold installCheckpoint
  split
  · simp [demoteFor_frame .., Keeps292]
  rename_i h
  have hk := adoptHeld_frame _ _ h
  dsimp only
  apply ite_keeps (R := Keeps292)
  · simp_all [recoveredAnswer_frame .., wordAtomic_frame .., dropHeld_frame .., Keeps292]
  · refine getD_keeps (R := Keeps292) (fun t h => ?_) (by simp_all [State.unrouted_frame .., recoveredAnswer_frame .., dropHeld_frame .., Keeps292])
    have h := sendWordAtomic_frame _ _ _ _ _ _ _ h
    simp_all [dropHeld_frame .., Keeps292]

theorem staleAnswer_frame (s : State) (cmd status : Nat) (old : Word) : Keeps258 s (staleAnswer s cmd status old) := by
  unfold Keeps258 staleAnswer
  simp [State.refuse_frame .., finishStale_frame .., State.finish_frame ..]

theorem wait_frame (s : State) (b cmd opcode : Nat) : Keeps36 s (wait s b cmd opcode) := by
  unfold Keeps36 wait
  simp [mapOwned_frame .., startCmd_frame ..]

theorem waitParked_frame (s : State) (b cmd opcode : Nat) : Keeps36 s (waitParked s b cmd opcode) := by
  unfold Keeps36 waitParked
  simp [mapHome_frame .., startCmd_frame ..]

end Berth

end Sys2Proof.Machine
end

