-- ==== Sys2Proof/Laws/CellsBerthOps.lean ====
section
/-! SUPPORT. The functions of BerthOps.lean keep the canonical form of the memory's cells. -/

namespace Sys2Proof.Machine

set_option linter.unusedSimpArgs false
set_option linter.unusedVariables false
set_option linter.unusedTactic false
set_option linter.unreachableTactic false
set_option Elab.async false

open Sys2Proof.Machine Sys2Proof

namespace Berth

theorem recordPage_wf (s : State) (n : Nat) (hm : Cells.wf s.mem.cells = true) {post} (h : recordPage s n = some post) : Cells.wf post.mem.cells = true := by
  unfold recordPage at h
  split at h
  · injection h with h; exact h ▸ hm
  · rw [Option.map_eq_some_iff] at h
    obtain ⟨t, ht, rfl⟩ := h
    have ht := Mem.allocFixed_cells ht
    simpa [ht] using hm

@[simp] theorem emitAnswer_wf (s : State) (a : BerthAnswer) (hm : Cells.wf s.mem.cells = true) : Cells.wf (emitAnswer s a).mem.cells = true := by
  unfold emitAnswer
  repeat' split
  all_goals simp +contextual (maxDischargeDepth := 20) [answerMsg_frame .., sendMessage_frame .., respond_frame .., hm]

@[simp] theorem answer_wf (s : State) (n : Nat) (a : BerthAnswer) (hm : Cells.wf s.mem.cells = true) : Cells.wf (answer s n a).mem.cells = true := by
  unfold answer
  repeat' split
  all_goals simp +contextual (maxDischargeDepth := 20) [hm]

@[simp] theorem settleAnswers_wf (s : State) (hm : Cells.wf s.mem.cells = true) : Cells.wf (settleAnswers s).mem.cells = true := by
  unfold settleAnswers
  simp +contextual (maxDischargeDepth := 20) [hm]

@[simp] theorem finish_wf (s : State) (cmd b status eventTide : Nat) (hm : Cells.wf s.mem.cells = true) : Cells.wf (finish s cmd b status eventTide).mem.cells = true := by
  unfold finish
  simp +contextual (maxDischargeDepth := 20) [hm]

@[simp] theorem finishStale_wf (s : State) (cmd : Nat) (w : Word) (hm : Cells.wf s.mem.cells = true) : Cells.wf (finishStale s cmd w).mem.cells = true := by
  unfold finishStale
  simp +contextual (maxDischargeDepth := 20) [hm]

@[simp] theorem freePages_wf (s : State) (o : OwnedBerth) (hm : Cells.wf s.mem.cells = true) : Cells.wf (freePages s o).mem.cells = true := by
  unfold freePages
  simp +contextual (maxDischargeDepth := 20) [hm]

theorem allocPages_wf (s : State) (b ownerSlot : Nat) (g : Geometry) (pinned : Bool) (hm : Cells.wf s.mem.cells = true) {post} (h : allocPages s b ownerSlot g pinned = some post) : Cells.wf post.mem.cells = true := by
  unfold allocPages at h
  apply foldl_some_wf _ hm h
  intro s x t hm h
  rw [Option.map_eq_some_iff] at h
  obtain ⟨r, hr, h⟩ := h
  cases h
  have hc := Mem.allocPage_cells hr
  simpa [hc] using hm

theorem pageData_wf (s : State) (id : PageId) (hm : Cells.wf s.mem.cells = true) {post} (h : pageData s id = some post) : Cells.wf post.2.2.mem.cells = true := by
  unfold pageData at h
  dsimp only at h
  rw [Option.bind_eq_some_iff] at h
  obtain ⟨a, -, h⟩ := h
  split at h
  · cases h
  · injection h with h; rw [← h]; simp (maxDischargeDepth := 20) [hm]

@[simp] theorem placePage_wf (s : State) (a ownerSlot : Nat) (bytes : Bytes) (states : List (Nat × Bool)) (hm : Cells.wf s.mem.cells = true) : Cells.wf (placePage s a ownerSlot bytes states).mem.cells = true := by
  unfold placePage
  refine foldl_wf _ _ _ (fun s x hm => ?_) (by simp (maxDischargeDepth := 20) [hm])
  dsimp only
  split <;> simp (maxDischargeDepth := 20) [hm]

@[simp] theorem fetchPage_wf (s : State) (b dest : Nat) (use : BerthUse) (n : Nat) (p : Page) (hm : Cells.wf s.mem.cells = true) : Cells.wf (fetchPage s b dest use n p).mem.cells = true := by
  unfold fetchPage
  simp +contextual (maxDischargeDepth := 20) [mapOwned_frame .., hm]

theorem sendPage_wf (s : State) (o : OwnedBerth) (dest : Nat) (use : BerthUse) (n : Nat) (hm : Cells.wf s.mem.cells = true) {post} (h : sendPage s o dest use n = some post) : Cells.wf post.mem.cells = true := by
  unfold sendPage at h
  split at h
  · split at h
    · injection h with h; subst h; simp (maxDischargeDepth := 20) [sendBytes_frame .., hm]
    · cases h
  · rw [Option.map_eq_some_iff] at h
    obtain ⟨r, hr, rfl⟩ := h
    have hk := pageData_wf _ _ hm hr
    simp (maxDischargeDepth := 20) [sendBytes_frame .., hk]

theorem sendPages_wf (s : State) (o : OwnedBerth) (dest : Nat) (use : BerthUse) (ps : List Nat) (hm : Cells.wf s.mem.cells = true) {post} (h : sendPages s o dest use ps = .ok post) : Cells.wf post.mem.cells = true := by
  unfold sendPages at h
  split at h
  · cases h
  · split at h
    · rename_i h1
      injection h with h; subst h
      exact foldl_some_wf (fun s x t hm ht => sendPage_wf _ _ _ _ _ hm ht) hm h1
    · cases h

@[simp] theorem dropWaits_wf (s : State) (o : OwnedBerth) (status : Nat) (hm : Cells.wf s.mem.cells = true) : Cells.wf (dropWaits s o status).mem.cells = true := by
  unfold dropWaits
  simp +contextual (maxDischargeDepth := 20) [hm]

@[simp] theorem staleWaits_wf (s : State) (o : OwnedBerth) (w : Word) (hm : Cells.wf s.mem.cells = true) : Cells.wf (staleWaits s o w).mem.cells = true := by
  unfold staleWaits
  simp +contextual (maxDischargeDepth := 20) [hm]

@[simp] theorem refuseStale_wf (s : State) (cmd b : Nat) (hm : Cells.wf s.mem.cells = true) : Cells.wf (refuseStale s cmd b).mem.cells = true := by
  unfold refuseStale
  apply cells_ite
  · simp (maxDischargeDepth := 20) [startCmd_frame .., State.unrouted_frame .., hm]
  · refine getD_wf (fun t h => ?_) (by simp (maxDischargeDepth := 20) [startCmd_frame .., State.unrouted_frame .., hm])
    have h := sendWordAtomic_frame _ _ _ _ _ _ _ h
    simp only [Keeps6] at h
    simp (maxDischargeDepth := 20) [h, startCmd_frame .., State.unrouted_frame .., hm]

@[simp] theorem letGo_wf (s : State) (o : OwnedBerth) (hm : Cells.wf s.mem.cells = true) : Cells.wf (letGo s o).mem.cells = true := by
  unfold letGo
  simp +contextual (maxDischargeDepth := 20) [hm]

@[simp] theorem discard_wf (s : State) (b status : Nat) (hm : Cells.wf s.mem.cells = true) : Cells.wf (discard s b status).mem.cells = true := by
  unfold discard
  repeat' split
  all_goals simp +contextual (maxDischargeDepth := 20) [hm]

@[simp] theorem discardStale_wf (s : State) (b : Nat) (w : Word) (hm : Cells.wf s.mem.cells = true) : Cells.wf (discardStale s b w).mem.cells = true := by
  unfold discardStale
  repeat' split
  all_goals simp +contextual (maxDischargeDepth := 20) [hm]

@[simp] theorem leaseAnswer_wf (s : State) (b status : Nat) (old expected new : Word) (hm : Cells.wf s.mem.cells = true) : Cells.wf (leaseAnswer s b status old expected new).mem.cells = true := by
  unfold leaseAnswer
  repeat' split
  all_goals simp +contextual (maxDischargeDepth := 20) [noteLease_frame .., mapOwned_frame .., unconfirm_frame .., hm]

@[simp] theorem renew_wf (s : State) (b : Nat) (hm : Cells.wf s.mem.cells = true) : Cells.wf (renew s b).mem.cells = true := by
  unfold renew
  split
  · exact hm
  · dsimp only
    apply cells_ite
    · simp (maxDischargeDepth := 20) [wordAtomic_frame .., State.unrouted_frame .., hm]
    · refine getD_wf (fun t h => ?_) (by simp (maxDischargeDepth := 20) [wordAtomic_frame .., State.unrouted_frame .., hm])
      have h := sendWordAtomic_frame _ _ _ _ _ _ _ h
      simp only [Keeps6] at h
      simp [h, hm]

@[simp] theorem parkFail_wf (s : State) (b : Nat) (cmd : Option Nat) (status : Nat) (hm : Cells.wf s.mem.cells = true) : Cells.wf (parkFail s b cmd status).mem.cells = true := by
  unfold parkFail
  repeat' split
  all_goals simp +contextual (maxDischargeDepth := 20) [State.bump_frame .., dropFetch_frame .., mapOwned_frame .., hm]

@[simp] theorem flushPages_wf (s : State) (o : OwnedBerth) (hm : Cells.wf s.mem.cells = true) : Cells.wf (flushPages s o).mem.cells = true := by
  unfold flushPages
  apply foldl_wf
  · intro s x hm
    try dsimp only
    repeat' split
    all_goals simp +contextual (maxDischargeDepth := 20) [hm]
  · exact hm

theorem parkOne_wf (s : State) (o : OwnedBerth) (n : Nat) (hm : Cells.wf s.mem.cells = true) {post} (h : parkOne s o n = some post) : Cells.wf post.mem.cells = true := by
  unfold parkOne at h
  split at h
  · split at h
    · injection h with h; subst h; simp (maxDischargeDepth := 20) [mapOwned_frame .., parkPage_frame .., hm]
    · cases h
  · rw [Option.map_eq_some_iff] at h
    obtain ⟨t, ht, rfl⟩ := h
    have hk := pageData_wf _ _ hm ht
    simp (maxDischargeDepth := 20) [mapOwned_frame .., parkPage_frame .., hk]

@[simp] theorem parkPages_wf (s : State) (b : Nat) (cmd : Option Nat) (hm : Cells.wf s.mem.cells = true) : Cells.wf (parkPages s b cmd).mem.cells = true := by
  have hg (u : State) (o : OwnedBerth) (t : State) (hu : Cells.wf u.mem.cells = true)
      (h : (allPages o).foldl (fun (acc : Option State) n => acc.bind fun s => parkOne s o n) (some u) = some t) : Cells.wf t.mem.cells = true :=
    foldl_some_wf (fun s x t hm ht => parkOne_wf _ _ _ hm ht) hu h
  unfold parkPages
  split
  · exact hm
  · rename_i o _
    apply cells_ite
    · extract_lets v u
      have h0 : Cells.wf v.mem.cells = true := by simp (maxDischargeDepth := 20) [v, mapRecord_frame .., dropParked_frame .., noRoute_frame .., mapOwned_frame .., hm]
      have hv : Cells.wf u.mem.cells = true := by
        unfold u
        split <;> simp (maxDischargeDepth := 20) [mapRecord_frame .., dropParked_frame .., noRoute_frame .., mapOwned_frame .., h0]
      clear_value u v
      apply cells_ite
      · simp (maxDischargeDepth := 20) [mapRecord_frame .., dropParked_frame .., noRoute_frame .., mapOwned_frame .., h0]
      · split
        · simp (maxDischargeDepth := 20) [mapRecord_frame .., dropParked_frame .., noRoute_frame .., mapOwned_frame .., hv]
        · rename_i h
          exact hg _ _ _ hv h
    · split
      · simp (maxDischargeDepth := 20) [mapRecord_frame .., dropParked_frame .., noRoute_frame .., mapOwned_frame .., hm]
      · rename_i h
        have hk := sendPages_wf _ _ _ _ _ hm h
        simp (maxDischargeDepth := 20) [mapRecord_frame .., dropParked_frame .., noRoute_frame .., mapOwned_frame .., hk]

@[simp] theorem checkpointDone_wf (s : State) (b status : Nat) (hm : Cells.wf s.mem.cells = true) : Cells.wf (checkpointDone s b status).mem.cells = true := by
  unfold checkpointDone
  repeat' split
  all_goals simp +contextual (maxDischargeDepth := 20) [mapOwned_frame .., hm]

@[simp] theorem reportCheckpoint_wf (s : State) (b : Nat) (hm : Cells.wf s.mem.cells = true) : Cells.wf (reportCheckpoint s b).mem.cells = true := by
  unfold reportCheckpoint
  repeat' split
  all_goals simp +contextual (maxDischargeDepth := 20) [recordCheckpoint_frame .., sendReport_frame .., hm]

@[simp] theorem sendCheckpoint_wf (s : State) (b : Nat) (hm : Cells.wf s.mem.cells = true) : Cells.wf (sendCheckpoint s b).mem.cells = true := by
  unfold sendCheckpoint
  split
  · exact hm
  · split
    · simp (maxDischargeDepth := 20) [reportShadow_frame .., State.unrouted_frame .., noRoute_frame .., mapOwned_frame .., hm]
    · apply cells_ite
      · simp (maxDischargeDepth := 20) [reportShadow_frame .., State.unrouted_frame .., noRoute_frame .., mapOwned_frame .., hm]
      · apply cells_ite
        · simp (maxDischargeDepth := 20) [reportShadow_frame .., State.unrouted_frame .., noRoute_frame .., mapOwned_frame .., hm]
        · split
          · simp (maxDischargeDepth := 20) [reportShadow_frame .., State.unrouted_frame .., noRoute_frame .., mapOwned_frame .., hm]
          · rename_i h
            have hk := sendPages_wf _ _ _ _ _ hm h
            simp (maxDischargeDepth := 20) [reportShadow_frame .., State.unrouted_frame .., noRoute_frame .., mapOwned_frame .., hk]

@[simp] theorem startCheckpoint_wf (s : State) (b : Nat) (hm : Cells.wf s.mem.cells = true) : Cells.wf (startCheckpoint s b).mem.cells = true := by
  unfold startCheckpoint
  simp +contextual (maxDischargeDepth := 20) [reachShadow_frame .., mapOwned_frame .., hm]

@[simp] theorem replaceShadow_wf (s : State) (b n : Nat) (hm : Cells.wf s.mem.cells = true) : Cells.wf (replaceShadow s b n).mem.cells = true := by
  unfold replaceShadow
  simp +contextual (maxDischargeDepth := 20) [mapOwned_frame .., dropFetch_frame .., replaceAtHome_frame .., reportShadow_frame .., hm]

@[simp] theorem shadowNamed_wf (s : State) (b : Nat) (sh : Option Nat) (hm : Cells.wf s.mem.cells = true) : Cells.wf (shadowNamed s b sh).mem.cells = true := by
  unfold shadowNamed
  dsimp only
  repeat' split
  all_goals simp +contextual (maxDischargeDepth := 20) [setShadow_frame .., dropFetch_frame .., mapOwned_frame .., hm]

@[simp] theorem dropExpelled_wf (s : State) (hm : Cells.wf s.mem.cells = true) : Cells.wf (dropExpelled s).mem.cells = true := by
  unfold dropExpelled
  apply foldl_wf
  · intro s x hm
    try dsimp only
    repeat' split
    all_goals simp +contextual (maxDischargeDepth := 20) [replaceAtHome_frame .., dropFetch_frame .., hm]
  · exact hm

@[simp] theorem startPark_wf (s : State) (b : Nat) (cmd : Option Nat) (hm : Cells.wf s.mem.cells = true) : Cells.wf (startPark s b cmd).mem.cells = true := by
  unfold startPark
  repeat' split
  all_goals simp +contextual (maxDischargeDepth := 20) [mapOwned_frame .., hm]

@[simp] theorem dropHeld_wf (s : State) (b : Nat) (hm : Cells.wf s.mem.cells = true) : Cells.wf (dropHeld s b).mem.cells = true := by
  unfold dropHeld
  simp +contextual (maxDischargeDepth := 20) [hm]

theorem finishWaits_wf (f : State → Nat) (l : List BerthWait) (status : Nat) (s : State) (hm : Cells.wf s.mem.cells = true) :
    Cells.wf (l.foldl (fun s w => finish s w.cmd (f s) status 0) s).mem.cells = true :=
  foldl_wf _ _ _ (fun s x hm => finish_wf s x.cmd (f s) _ _ hm) hm

@[simp] theorem freeHome_wf (s : State) (n status : Nat) (hm : Cells.wf s.mem.cells = true) : Cells.wf (freeHome s n status).mem.cells = true := by
  unfold freeHome
  split
  · exact hm
  · rename_i h _
    exact finishWaits_wf (fun _ => idOf s.strand.nodeId n) _ _ _ (by simpa [dropParked_frame .., mapRecord_frame ..] using hm)

theorem startWake_wf (s : State) (b : Nat) (cmd : Option Nat) (hm : Cells.wf s.mem.cells = true) {post} (h : startWake s b cmd = some post) : Cells.wf post.mem.cells = true := by
  unfold startWake at h
  split at h
  · cases h
  · rw [Option.map_eq_some_iff] at h
    obtain ⟨t, ht, h⟩ := h
    cases h
    have ht := allocPages_wf _ _ _ _ _ hm ht
    simp [mapRecord_frame .., ht]

@[simp] theorem wakeProgress_wf (s : State) (b : Nat) (hm : Cells.wf s.mem.cells = true) : Cells.wf (wakeProgress s b).mem.cells = true := by
  unfold wakeProgress
  split
  · split
    · exact hm
    · split
      · exact hm
      · dsimp only
        generalize hr : List.foldl _ s _ = r
        have hk : Cells.wf r.mem.cells = true := by
          rw [← hr]
          apply foldl_wf
          · intro s x hm
            split <;> simp (maxDischargeDepth := 20) [mapOwned_frame .., hm]
          · exact hm
        simp (maxDischargeDepth := 20) [mapOwned_frame .., hk]
  · exact hm

@[simp] theorem wakeEnd_wf (s : State) (b : Nat) (hm : Cells.wf s.mem.cells = true) : Cells.wf (wakeEnd s b).mem.cells = true := by
  unfold wakeEnd
  repeat' split
  all_goals simp +contextual (maxDischargeDepth := 20) [mapRecord_frame .., noteLease_frame .., mapOwned_frame .., State.setNum_frame .., hm]

@[simp] theorem releaseHome_wf (s : State) (b : Nat) (hm : Cells.wf s.mem.cells = true) : Cells.wf (releaseHome s b).mem.cells = true := by
  unfold releaseHome
  dsimp only
  repeat' split
  all_goals simp +contextual (maxDischargeDepth := 20) [sendControl_frame .., hm]

@[simp] theorem onParked_wf (s : State) (b cmd opcode : Nat) (hm : Cells.wf s.mem.cells = true) : Cells.wf (onParked s b cmd opcode).mem.cells = true := by
  unfold onParked
  apply cells_ite
  · exact getD_wf (fun t h => startWake_wf _ _ _ hm h) (awaitPages_wf _ _ hm)
  · repeat' apply cells_ite
    all_goals simp (maxDischargeDepth := 20) [hm]

@[simp] theorem parkEnd_wf (s : State) (b : Nat) (cmd : Option Nat) (w : Word) (hm : Cells.wf s.mem.cells = true) : Cells.wf (parkEnd s b cmd w).mem.cells = true := by
  unfold parkEnd
  repeat' split
  all_goals simp +contextual (maxDischargeDepth := 20) [mapRecord_frame .., hm]

@[simp] theorem parkAnswer_wf (s : State) (b status : Nat) (old expected new : Word) (hm : Cells.wf s.mem.cells = true) : Cells.wf (parkAnswer s b status old expected new).mem.cells = true := by
  unfold parkAnswer
  split
  · exact hm
  split
  · apply cells_ite
    · apply cells_ite
      · simp (maxDischargeDepth := 20) [mapOwned_frame .., State.unrouted_frame .., unconfirm_frame .., hm]
      · apply cells_ite
        · refine getD_wf (fun t h => ?_) (by simp (maxDischargeDepth := 20) [mapOwned_frame .., State.unrouted_frame .., unconfirm_frame .., hm])
          have h := sendWordAtomic_frame _ _ _ _ _ _ _ h
          simp only [Keeps6] at h
          simp (maxDischargeDepth := 20) [h, mapOwned_frame .., State.unrouted_frame .., unconfirm_frame .., hm]
        · dsimp only
          split <;> simp (maxDischargeDepth := 20) [mapOwned_frame .., State.unrouted_frame .., unconfirm_frame .., hm]
    · apply cells_ite
      · dsimp only
        split <;> simp (maxDischargeDepth := 20) [mapOwned_frame .., State.unrouted_frame .., unconfirm_frame .., hm]
      · simp (maxDischargeDepth := 20) [mapOwned_frame .., State.unrouted_frame .., unconfirm_frame .., hm]
  · exact hm

@[simp] theorem parkSwap_wf (s : State) (b : Nat) (hm : Cells.wf s.mem.cells = true) : Cells.wf (parkSwap s b).mem.cells = true := by
  unfold parkSwap
  dsimp only
  apply cells_ite
  · simp (maxDischargeDepth := 20) [wordAtomic_frame .., State.unrouted_frame .., hm]
  · refine getD_wf (fun t h => ?_) (by simp (maxDischargeDepth := 20) [wordAtomic_frame .., State.unrouted_frame .., hm])
    have h := sendWordAtomic_frame _ _ _ _ _ _ _ h
    simp only [Keeps6] at h
    simp [h, hm]

@[simp] theorem handoffFail_wf (s : State) (b cmd target status : Nat) (hm : Cells.wf s.mem.cells = true) : Cells.wf (handoffFail s b cmd target status).mem.cells = true := by
  unfold handoffFail
  simp +contextual (maxDischargeDepth := 20) [dropFetch_frame .., sendControl_frame .., mapOwned_frame .., hm]

@[simp] theorem handoffAnswer_wf (s : State) (b status : Nat) (old expected new : Word) (hm : Cells.wf s.mem.cells = true) : Cells.wf (handoffAnswer s b status old expected new).mem.cells = true := by
  unfold handoffAnswer
  split
  · exact hm
  split
  · apply cells_ite
    · apply cells_ite
      · simp (maxDischargeDepth := 20) [sendControl_frame .., mapOwned_frame .., State.unrouted_frame .., unconfirm_frame .., State.bump_frame .., hm]
      · apply cells_ite
        · refine getD_wf (fun t h => ?_) (by simp (maxDischargeDepth := 20) [sendControl_frame .., mapOwned_frame .., State.unrouted_frame .., unconfirm_frame .., State.bump_frame .., hm])
          have h := sendWordAtomic_frame _ _ _ _ _ _ _ h
          simp only [Keeps6] at h
          simp (maxDischargeDepth := 20) [h, sendControl_frame .., mapOwned_frame .., State.unrouted_frame .., unconfirm_frame .., State.bump_frame .., hm]
        · simp (maxDischargeDepth := 20) [sendControl_frame .., mapOwned_frame .., State.unrouted_frame .., unconfirm_frame .., State.bump_frame .., hm]
    · apply cells_ite
      · simp (maxDischargeDepth := 20) [sendControl_frame .., mapOwned_frame .., State.unrouted_frame .., unconfirm_frame .., State.bump_frame .., hm]
      · simp (maxDischargeDepth := 20) [sendControl_frame .., mapOwned_frame .., State.unrouted_frame .., unconfirm_frame .., State.bump_frame .., hm]
  · simp (maxDischargeDepth := 20) [sendControl_frame .., mapOwned_frame .., State.unrouted_frame .., unconfirm_frame .., State.bump_frame .., hm]

@[simp] theorem handoffSwap_wf (s : State) (b : Nat) (hm : Cells.wf s.mem.cells = true) : Cells.wf (handoffSwap s b).mem.cells = true := by
  unfold handoffSwap
  split
  · exact hm
  split
  · apply cells_ite hm
    dsimp only
    apply cells_ite
    · simp (maxDischargeDepth := 20) [mapOwned_frame .., wordAtomic_frame .., State.unrouted_frame .., hm]
    · refine getD_wf (fun t h => ?_) (by simp (maxDischargeDepth := 20) [mapOwned_frame .., wordAtomic_frame .., State.unrouted_frame .., hm])
      have h := sendWordAtomic_frame _ _ _ _ _ _ _ h
      simp only [Keeps6] at h
      simp (maxDischargeDepth := 20) [h, mapOwned_frame .., wordAtomic_frame .., State.unrouted_frame .., hm]
  · exact hm

@[simp] theorem startHandoff_wf (s : State) (b cmd target : Nat) (hm : Cells.wf s.mem.cells = true) : Cells.wf (startHandoff s b cmd target).mem.cells = true := by
  unfold startHandoff
  split
  · exact hm
  dsimp only
  split
  · simp (maxDischargeDepth := 20) [mapOwned_frame .., noRoute_frame .., hm]
  · rename_i h
    have hk := sendPages_wf _ _ _ _ _ (by simp (maxDischargeDepth := 20) [mapOwned_frame .., noRoute_frame .., hm]) h
    simp (maxDischargeDepth := 20) [mapOwned_frame .., noRoute_frame .., hk]

@[simp] theorem becomeOwner_wf (s : State) (b : Nat) (hm : Cells.wf s.mem.cells = true) : Cells.wf (becomeOwner s b).mem.cells = true := by
  unfold becomeOwner
  dsimp only
  repeat' split
  all_goals simp +contextual (maxDischargeDepth := 20) [mapOwned_frame .., hm]

@[simp] theorem resolveAnswer_wf (s : State) (b status : Nat) (old : Word) (hm : Cells.wf s.mem.cells = true) : Cells.wf (resolveAnswer s b status old).mem.cells = true := by
  unfold resolveAnswer
  repeat' split
  all_goals simp +contextual (maxDischargeDepth := 20) [unconfirm_frame .., mapOwned_frame .., hm]

@[simp] theorem resolve_wf (s : State) (b : Nat) (hm : Cells.wf s.mem.cells = true) : Cells.wf (resolve s b).mem.cells = true := by
  unfold resolve
  apply cells_ite
  · split <;> simp (maxDischargeDepth := 20) [unconfirm_frame .., State.unrouted_frame .., hm]
  · refine getD_wf (fun t h => ?_) (by simp (maxDischargeDepth := 20) [unconfirm_frame .., State.unrouted_frame .., hm])
    have h := sendWordAtomic_frame _ _ _ _ _ _ _ h
    simp only [Keeps6] at h
    simp [h, hm]

@[simp] theorem pageAnswered_wf (s : State) (dest b n : Nat) (use : BerthUse) (status : Nat) (hm : Cells.wf s.mem.cells = true) : Cells.wf (pageAnswered s dest b n use status).mem.cells = true := by
  unfold pageAnswered
  repeat' split
  all_goals simp +contextual (maxDischargeDepth := 20) [mapOwned_frame .., hm]

@[simp] theorem controlAnswered_wf (s : State) (b status : Nat) (hm : Cells.wf s.mem.cells = true) : Cells.wf (controlAnswered s b status).mem.cells = true := by
  unfold controlAnswered
  repeat' split
  all_goals simp +contextual (maxDischargeDepth := 20) [hm]

@[simp] theorem fetchFail_wf (s : State) (b : Nat) (use : BerthUse) (status : Nat) (hm : Cells.wf s.mem.cells = true) : Cells.wf (fetchFail s b use status).mem.cells = true := by
  unfold fetchFail
  repeat' split
  all_goals simp +contextual (maxDischargeDepth := 20) [mapOwned_frame .., dropFetch_frame .., hm]

@[simp] theorem sendFetched_wf (s : State) (b n : Nat) (bytes : Bytes) (states : List (Nat × Bool)) (f : Nat × BerthUse × Nat) (hm : Cells.wf s.mem.cells = true) : Cells.wf (sendFetched s b n bytes states f).mem.cells = true := by
  unfold sendFetched
  repeat' split
  all_goals simp +contextual (maxDischargeDepth := 20) [mapOwned_frame .., parkPage_frame .., State.unrouted_frame .., sendBytes_frame .., hm]

@[simp] theorem fetched_wf (s : State) (b n : Nat) (hm : Cells.wf s.mem.cells = true) : Cells.wf (fetched s b n).mem.cells = true := by
  unfold fetched
  split
  · exact hm
  dsimp only
  apply cells_ite hm
  generalize hu : mapOwned _ _ _ = u
  have hu : Cells.wf u.mem.cells = true := by rw [← hu]; simp (maxDischargeDepth := 20) [mapOwned_frame .., hm]
  split
  · exact foldl_wf _ _ _ (fun s x hm => by simp (maxDischargeDepth := 20) [mapOwned_frame .., hm]) hu
  · rename_i t h
    refine foldl_wf _ _ _ (fun s x hm => by simp (maxDischargeDepth := 20) [mapOwned_frame .., hm]) ?_
    split at h
    · split at h
      · injection h with h; injection h with h1 h; injection h with h2 h; subst h; exact hu
      · cases h
    · exact pageData_wf _ _ hu h

@[simp] theorem settleFetches_wf (s : State) (hm : Cells.wf s.mem.cells = true) : Cells.wf (settleFetches s).mem.cells = true := by
  unfold settleFetches
  simp +contextual (maxDischargeDepth := 20) [hm]

@[simp] theorem renamePage_wf (s : State) (old new : PageId) (hm : Cells.wf s.mem.cells = true) : Cells.wf (renamePage s old new).mem.cells = true := by
  unfold renamePage
  simp +contextual (maxDischargeDepth := 20) [hm]

@[simp] theorem settleHeld_wf (s : State) (b : Nat) (hm : Cells.wf s.mem.cells = true) : Cells.wf (settleHeld s b).mem.cells = true := by
  unfold settleHeld
  simp +contextual (maxDischargeDepth := 20) [hm]

theorem heldPage_wf (s : State) (p : BerthPage) (hm : Cells.wf s.mem.cells = true) {post} (h : heldPage s p = some post) : Cells.wf post.2.mem.cells = true := by
  unfold heldPage at h
  dsimp only at h
  rw [Option.map_eq_some_iff] at h
  obtain ⟨t, ht, rfl⟩ := h
  have ht := Mem.allocPage_cells ht
  have hr := releasePage_wf s (.held p.berth p.page true) hm
  simpa [ht] using hr

@[simp] theorem takeCheckpoint_wf (s : State) (p : BerthPage) (hm : Cells.wf s.mem.cells = true) : Cells.wf (takeCheckpoint s p).2.mem.cells = true := by
  unfold takeCheckpoint
  dsimp only
  split
  · simp (maxDischargeDepth := 20) [hm]
  · rename_i h
    have hk := heldPage_wf _ _ (cells_ite (by simp (maxDischargeDepth := 20) [hm]) hm) h
    exact placePage_wf _ _ _ _ _ hk

@[simp] theorem takePage_wf (s : State) (p : BerthPage) (hm : Cells.wf s.mem.cells = true) : Cells.wf (takePage s p).2.mem.cells = true := by
  unfold takePage
  split
  · split
    · exact hm
    · dsimp only
      split <;> simp (maxDischargeDepth := 20) [mapHome_frame .., dropParked_frame .., parkPage_frame .., mapOwned_frame .., State.bump_frame .., hm]
  · simp (maxDischargeDepth := 20) [mapHome_frame .., dropParked_frame .., parkPage_frame .., mapOwned_frame .., State.bump_frame .., hm]
  · dsimp only
    split
    · simp (maxDischargeDepth := 20) [mapHome_frame .., dropParked_frame .., parkPage_frame .., mapOwned_frame .., State.bump_frame .., hm]
    · rename_i u h
      have hk : Cells.wf u.mem.cells = true := by
        revert h
        split
        · intro h; injection h with h; exact h ▸ hm
        · intro h
          rw [Option.map_eq_some_iff] at h
          obtain ⟨t, ht, rfl⟩ := h
          have ha := allocPages_wf _ _ _ _ _ hm ht
          exact ha
      split
      · exact hk
      · simp (maxDischargeDepth := 20) [mapHome_frame .., dropParked_frame .., parkPage_frame .., mapOwned_frame .., State.bump_frame .., hk]

theorem createHere_wf (s : State) (src cmd ownerSlot : Nat) (g : Geometry) (pinned : Bool) (hm : Cells.wf s.mem.cells = true) {post} (h : createHere s src cmd ownerSlot g pinned = some post) : Cells.wf post.mem.cells = true := by
  unfold createHere at h
  split at h
  · injection h with h; subst h; simp (maxDischargeDepth := 20) [refuseCreate_frame .., record_frame .., hm]
  split at h
  · injection h with h; subst h; simp (maxDischargeDepth := 20) [refuseCreate_frame .., record_frame .., hm]
  · rw [Option.map_eq_some_iff] at h
    obtain ⟨u, hu, rfl⟩ := h
    have hk := recordPage_wf _ _ hm hu
    simp (maxDischargeDepth := 20) [refuseCreate_frame .., record_frame .., hk]

@[simp] theorem holdMessage_wf (s : State) (h : BerthHeld) (first : Bool) (refused : State → State) (hm : Cells.wf s.mem.cells = true) (hf : ∀ x, Cells.wf x.mem.cells = true → Cells.wf (refused x).mem.cells = true) : Cells.wf (holdMessage s h first refused).mem.cells = true := by
  have hd := demoteFor_wf s hm
  unfold holdMessage
  dsimp only
  split
  · simpa [State.bump_frame ..] using hd
  · exact hf _ hd

@[simp] theorem receivePage_wf (s : State) (src : Nat) (p : BerthPage) (first : Bool) (hm : Cells.wf s.mem.cells = true) : Cells.wf (receivePage s src p first).mem.cells = true := by
  unfold receivePage
  dsimp only
  apply cells_ite
  · exact holdMessage_wf _ _ _ _ hm fun x hm => by simp (maxDischargeDepth := 20) [answerMsg_frame .., hm]
  · simp (maxDischargeDepth := 20) [answerMsg_frame .., hm]

@[simp] theorem receiveCreate_wf (s : State) (src cmd slot : Nat) (g : Geometry) (pinned first : Bool) (hm : Cells.wf s.mem.cells = true) : Cells.wf (receiveCreate s src cmd slot g pinned first).mem.cells = true := by
  unfold receiveCreate
  refine getD_wf (fun t h => createHere_wf _ _ _ _ _ _ hm h) ?_
  exact holdMessage_wf _ _ _ _ hm fun x hm => by simp (maxDischargeDepth := 20) [refuseCreate_frame .., hm]

@[simp] theorem retryHeld_wf (s : State) (hm : Cells.wf s.mem.cells = true) : Cells.wf (retryHeld s).mem.cells = true := by
  unfold retryHeld
  refine foldl_wf _ _ _ (fun s x hm => ?_) hm
  split <;> simp (maxDischargeDepth := 20) [hm]

@[simp] theorem createAnswered_wf (s : State) (src cmd status n seq lease : Nat) (shadow : Option Nat) (hm : Cells.wf s.mem.cells = true) : Cells.wf (createAnswered s src cmd status n seq lease shadow).mem.cells = true := by
  unfold createAnswered
  dsimp only
  split
  · apply cells_ite <;> simp (maxDischargeDepth := 20) [sendControl_frame .., own_frame .., hm]
  apply cells_ite (by simp (maxDischargeDepth := 20) [sendControl_frame .., own_frame .., hm])
  split
  · exact waitForPages_wf _ _ _ (by simp (maxDischargeDepth := 20) [sendControl_frame .., own_frame .., hm]) fun t ht => by simp (maxDischargeDepth := 20) [State.refuse_frame .., ht]
  · rename_i h
    have hk := allocPages_wf _ _ _ _ _ hm h
    simp (maxDischargeDepth := 20) [sendControl_frame .., own_frame .., hk]

@[simp] theorem takeInstalled_wf (s : State) (b q l ckpt : Nat) (hm : Cells.wf s.mem.cells = true) : Cells.wf (takeInstalled s b q l ckpt).mem.cells = true := by
  unfold takeInstalled
  repeat' split
  all_goals simp +contextual (maxDischargeDepth := 20) [mapOwned_frame .., loseBerth_frame .., sendControl_frame .., hm]

@[simp] theorem takeControl_wf (s : State) (src : Nat) (m : BerthMsg) (hm : Cells.wf s.mem.cells = true) : Cells.wf (takeControl s src m).mem.cells = true := by
  unfold takeControl
  dsimp only
  repeat' split
  all_goals simp +contextual (maxDischargeDepth := 20) [recordCheckpoint_frame .., replaceAtHome_frame .., loseBerth_frame .., hm]

@[simp] theorem receiveControl_wf (s : State) (src : Nat) (m : BerthMsg) (hm : Cells.wf s.mem.cells = true) : Cells.wf (receiveControl s src m).mem.cells = true := by
  unfold receiveControl
  dsimp only
  repeat' split
  all_goals simp +contextual (maxDischargeDepth := 20) [answerMsg_frame .., hm]

@[simp] theorem takeOver_wf (s : State) (n : Nat) (hm : Cells.wf s.mem.cells = true) : Cells.wf (takeOver s n).mem.cells = true := by
  unfold takeOver
  repeat' split
  all_goals simp +contextual (maxDischargeDepth := 20) [State.bump_frame .., mapRecord_frame .., loseBerth_frame .., sendControl_frame .., hm]

@[simp] theorem recoveredAnswer_wf (s : State) (b status : Nat) (old expected new : Word) (hm : Cells.wf s.mem.cells = true) : Cells.wf (recoveredAnswer s b status old expected new).mem.cells = true := by
  unfold recoveredAnswer
  simp +contextual (maxDischargeDepth := 20) [mapOwned_frame .., noteLease_frame .., unconfirm_frame .., hm]

theorem adoptHeld_wf (s : State) (o : OwnedBerth) (hm : Cells.wf s.mem.cells = true) {post} (h : adoptHeld s o = some post) : Cells.wf post.mem.cells = true := by
  unfold adoptHeld at h
  refine foldl_some_wf (fun s x t hm ht => ?_) hm h
  dsimp only at ht
  split at ht
  · injection ht with ht; exact ht ▸ hm
  split at ht
  · injection ht with ht; subst ht; simpa using renamePage_wf _ _ _ hm
  · rw [Option.map_eq_some_iff] at ht
    obtain ⟨u, hu, rfl⟩ := ht
    have hu := Mem.allocPage_cells hu
    simpa [hu] using hm

@[simp] theorem installCheckpoint_wf (s : State) (o : OwnedBerth) (hm : Cells.wf s.mem.cells = true) : Cells.wf (installCheckpoint s o).mem.cells = true := by
  unfold installCheckpoint
  split
  · simp (maxDischargeDepth := 20) [wordAtomic_frame .., State.unrouted_frame .., hm]
  rename_i h
  have hk := adoptHeld_wf _ _ hm h
  dsimp only
  apply cells_ite
  · simp (maxDischargeDepth := 20) [wordAtomic_frame .., State.unrouted_frame .., hk]
  · refine getD_wf (fun t h => ?_) (by simp (maxDischargeDepth := 20) [wordAtomic_frame .., State.unrouted_frame .., hk])
    have h := sendWordAtomic_frame _ _ _ _ _ _ _ h
    simp only [Keeps6] at h
    simp (maxDischargeDepth := 20) [h, wordAtomic_frame .., State.unrouted_frame .., hk]

@[simp] theorem staleAnswer_wf (s : State) (cmd status : Nat) (old : Word) (hm : Cells.wf s.mem.cells = true) : Cells.wf (staleAnswer s cmd status old).mem.cells = true := by
  unfold staleAnswer
  simp +contextual (maxDischargeDepth := 20) [hm]

end Berth

end Sys2Proof.Machine
end

