-- ==== Sys2Proof/Laws/FrameGraph.lean ====
section
/-! SUPPORT. Frames of Graph.lean: which units of the state each of its functions leaves as they are. -/

namespace Sys2Proof.Machine

set_option linter.unusedSimpArgs false
set_option linter.unusedVariables false
set_option linter.unusedTactic false
set_option linter.unreachableTactic false
set_option Elab.async false

open Sys2Proof Sys2Proof.Num Sys2Proof.Machine

namespace Graph

theorem mapRun_frame (s : State) (id : Nat) (f : Run → Run) : Keeps57 s (mapRun s id f) := by
  unfold Keeps57 mapRun
  simp

theorem mapSlot_frame (s : State) (n : Nat) (f : GraphSlot → GraphSlot) : Keeps57 s (mapSlot s n f) := by
  unfold Keeps57 mapSlot
  simp

theorem putEntries_frame (s : State) (n stage digest owner kind weights scratch : Nat) : Keeps1 s (putEntries s n stage digest owner kind weights scratch) := by
  unfold Keeps1 putEntries
  simp [State.setNum_frame ..]

theorem load_frame (s : State) (n : Nat) (b : Bytes) : Keeps99 s (load s n b) := by
  unfold Keeps99 load
  simp [putEntries_frame ..]

theorem clear_frame (s : State) (g : GraphSlot) : Keeps99 s (clear s g) := by
  unfold Keeps99 clear
  simp [freeFixedPages_frame .., putEntries_frame ..]

theorem readStored_frame (s : State) (r : Run) (n off len : Nat) : Keeps258 s (readStored s r n off len).2.2 := by
  unfold Keeps258 readStored
  simp [readPaged_frame ..]

theorem readPlanes_frame (s : State) (r : Run) (t : TensorDef) (pages : List Nat) : Keeps258 s (readPlanes s r t pages).2.2 := by
  unfold Keeps258 readPlanes
  simp [agentRead_frame ..]

theorem readTensor_frame (s : State) (r : Run) (b : Bytes) (n : Nat) : Keeps258 s (readTensor s r b n).2.2 := by
  unfold Keeps258 readTensor
  simp [readPlanes_frame .., readPaged_frame .., readStored_frame ..]

theorem readTensors_frame (s : State) (r : Run) (b : Bytes) (ns : List Nat) : Keeps258 s (readTensors s r b ns).2.2 := by
  unfold Keeps258 readTensors
  simp [readTensor_frame ..]

theorem trimFills_frame (s : State) (r : Run) : Keeps57 s (trimFills s r) := by
  unfold Keeps57 trimFills
  simp [mapSlot_frame ..]

theorem dropFills_frame (s : State) (r : Run) : Keeps57 s (dropFills s r) := by
  unfold Keeps57 dropFills
  simp [mapSlot_frame ..]

theorem loadScale_frame (s : State) (r : Run) (b : Bytes) (op : Nat) : Keeps271 s (loadScale s r b op) := by
  unfold loadScale
  repeat' split
  all_goals simp [readStored_frame .., mapSlot_frame .., Keeps271]

theorem fillChunk_frame (s : State) (g : GraphSlot) (r : Run) : Keeps271 s (fillChunk s g r) := by
  unfold fillChunk
  dsimp only
  repeat' split
  all_goals simp [loadScale_frame .., readStored_frame .., mapSlot_frame .., State.bump_frame .., Keeps271]

theorem failQuery_frame (s : State) (tag status : Nat) : Keeps263 s (failQuery s tag status) := by
  unfold failQuery
  dsimp only
  repeat' split
  all_goals simp [State.bump_frame .., State.cmdWrite_frame .., State.finish_frame .., State.hostWrite_frame .., Keeps263]

theorem startQuery_frame (s : State) (tag : Nat) (pats : List Nat) : Keeps264 s (startQuery s tag pats) := by
  unfold startQuery
  repeat' split
  all_goals simp [mapQuery_frame .., State.bump_frame .., settleQuery_frame .., fanOut_frame .., Keeps264]

theorem writeOutputs_frame (s : State) (r : Run) (b : Bytes) : Keeps258 s (writeOutputs s r b) := by
  unfold Keeps258 writeOutputs
  simp [State.hostWrite_frame ..]

theorem countRun_frame (s : State) (r : Run) (status failed : Nat) : Keeps1 s (countRun s r status failed) := by
  unfold Keeps1 countRun
  simp [State.bump_frame .., State.setNum_frame ..]

theorem releaseRun_frame (s : State) (r : Run) : Keeps59 s (releaseRun s r) := by
  unfold releaseRun
  repeat' split
  all_goals simp [dropFills_frame .., freePages_frame .., releasePage_frame .., Berth.mapOwned_frame .., Keeps59]

theorem answerRun_frame (s : State) (r : Run) (b : Bytes) (status failed : Nat) : Keeps294 s (answerRun s r b status failed) := by
  unfold answerRun
  repeat' split
  all_goals simp [startQuery_frame .., failQuery_frame .., State.finish_frame .., Berth.startCheckpoint_frame .., Berth.mapOwned_frame .., Keeps294]

theorem endRun_frame (s : State) (r : Run) (status failed : Nat) : Keeps298 s (endRun s r status failed) := by
  unfold endRun
  repeat' split
  all_goals simp [writeOutputs_frame .., answerRun_frame .., releaseRun_frame .., countRun_frame .., Keeps298]

theorem stopRun_frame (s : State) (r : Run) (status : Nat) : Keeps298 s (stopRun s r status) := by
  unfold Keeps298 stopRun
  simp [endRun_frame ..]

theorem advance_frame (s : State) (r : Run) (pc : Nat) : Keeps298 s (advance s r pc) := by
  unfold Keeps298 advance
  simp [freePages_frame .., endRun_frame .., trimFills_frame .., mapRun_frame ..]

@[simp] theorem Ended.state_outs (o : OpOut) (s : State) : (Ended.outs o s).state = s := by simp only [Ended.state]

@[simp] theorem Ended.state_goes (r : Run) (pc : Nat) (s : State) : (Ended.goes r pc s).state = s := by simp only [Ended.state]

@[simp] theorem Ended.state_stops (st : Nat) (n : OpCount) (s : State) : (Ended.stops st n s).state = s := by simp only [Ended.state]

@[simp] theorem Ended.state_waits (s : State) : (Ended.waits s).state = s := by simp only [Ended.state]

@[simp] theorem Ended.state_ite (c : Prop) [Decidable c] (x y : Ended) :
    (if c then x else y).state = if c then x.state else y.state := apply_ite _ _ _ _

theorem addCounts_frame (s : State) (n : OpCount) : Keeps1 s (addCounts s n) := by
  unfold Keeps1 addCounts
  simp [State.bump_frame ..]

/-- A part of the state that fetching pages leaves alone is left alone when what follows leaves it alone. -/
theorem needPages_keeps {a : Type} (p : State → a) (s : State) (r : Run) (ids : List PageId) (go : Unit → Ended)
    (hn : ∀ l f, p (mapRun (fetchPages s l) r.id f) = p s) (hf : p (go ()).state = p s) : p (needPages s r ids go).state = p s := by
  unfold needPages
  split
  · exact hf
  · exact hn _ _

@[simp] theorem needPages_pending (s : State) (r : Run) (ids : List PageId) (go : Unit → Ended) (hf : (go ()).state.pending = s.pending) : (needPages s r ids go).state.pending = s.pending :=
  needPages_keeps State.pending s r ids go (fun l f => by simp [mapRun_frame .., fetchPages_frame ..]) hf

@[simp] theorem needPages_out (s : State) (r : Run) (ids : List PageId) (go : Unit → Ended) (hf : (go ()).state.out = s.out) : (needPages s r ids go).state.out = s.out :=
  needPages_keeps State.out s r ids go (fun l f => by simp [mapRun_frame .., fetchPages_frame ..]) hf

@[simp] theorem needPages_free (s : State) (r : Run) (ids : List PageId) (go : Unit → Ended) (hf : (go ()).state.free = s.free) : (needPages s r ids go).state.free = s.free :=
  needPages_keeps State.free s r ids go (fun l f => by simp [mapRun_frame .., fetchPages_frame ..]) hf

@[simp] theorem needPages_tide (s : State) (r : Run) (ids : List PageId) (go : Unit → Ended) (hf : (go ()).state.tide = s.tide) : (needPages s r ids go).state.tide = s.tide :=
  needPages_keeps State.tide s r ids go (fun l f => by simp [mapRun_frame .., fetchPages_frame ..]) hf

@[simp] theorem needPages_cap (s : State) (r : Run) (ids : List PageId) (go : Unit → Ended) (hf : (go ()).state.cap = s.cap) : (needPages s r ids go).state.cap = s.cap :=
  needPages_keeps State.cap s r ids go (fun l f => by simp [mapRun_frame .., fetchPages_frame ..]) hf

@[simp] theorem needPages_log (s : State) (r : Run) (ids : List PageId) (go : Unit → Ended) (hf : (go ()).state.log = s.log) : (needPages s r ids go).state.log = s.log :=
  needPages_keeps State.log s r ids go (fun l f => by simp [mapRun_frame .., fetchPages_frame ..]) hf

@[simp] theorem needPages_rst (s : State) (r : Run) (ids : List PageId) (go : Unit → Ended) (hf : (go ()).state.rst = s.rst) : (needPages s r ids go).state.rst = s.rst :=
  needPages_keeps State.rst s r ids go (fun l f => by simp [mapRun_frame .., fetchPages_frame ..]) hf

@[simp] theorem needPages_pwr (s : State) (r : Run) (ids : List PageId) (go : Unit → Ended) (hf : (go ()).state.pwr = s.pwr) : (needPages s r ids go).state.pwr = s.pwr :=
  needPages_keeps State.pwr s r ids go (fun l f => by simp [mapRun_frame .., fetchPages_frame ..]) hf

@[simp] theorem needPages_strand (s : State) (r : Run) (ids : List PageId) (go : Unit → Ended) (hf : (go ()).state.strand = s.strand) : (needPages s r ids go).state.strand = s.strand :=
  needPages_keeps State.strand s r ids go (fun l f => by simp [mapRun_frame .., fetchPages_frame ..]) hf

@[simp] theorem needPages_host (s : State) (r : Run) (ids : List PageId) (go : Unit → Ended) (hf : (go ()).state.host = s.host) : (needPages s r ids go).state.host = s.host :=
  needPages_keeps State.host s r ids go (fun l f => by simp [mapRun_frame .., fetchPages_frame ..]) hf

@[simp] theorem needPages_idx (s : State) (r : Run) (ids : List PageId) (go : Unit → Ended) (hf : (go ()).state.idx = s.idx) : (needPages s r ids go).state.idx = s.idx :=
  needPages_keeps State.idx s r ids go (fun l f => by simp [mapRun_frame .., fetchPages_frame ..]) hf

@[simp] theorem needPages_qry (s : State) (r : Run) (ids : List PageId) (go : Unit → Ended) (hf : (go ()).state.qry = s.qry) : (needPages s r ids go).state.qry = s.qry :=
  needPages_keeps State.qry s r ids go (fun l f => by simp [mapRun_frame .., fetchPages_frame ..]) hf

@[simp] theorem needPages_chg (s : State) (r : Run) (ids : List PageId) (go : Unit → Ended) (hf : (go ()).state.chg = s.chg) : (needPages s r ids go).state.chg = s.chg :=
  needPages_keeps State.chg s r ids go (fun l f => by simp [mapRun_frame .., fetchPages_frame ..]) hf

@[simp] theorem needPages_key (s : State) (r : Run) (ids : List PageId) (go : Unit → Ended) (hf : (go ()).state.key = s.key) : (needPages s r ids go).state.key = s.key :=
  needPages_keeps State.key s r ids go (fun l f => by simp [mapRun_frame .., fetchPages_frame ..]) hf

@[simp] theorem needPages_nb (s : State) (r : Run) (ids : List PageId) (go : Unit → Ended) (hf : (go ()).state.nb = s.nb) : (needPages s r ids go).state.nb = s.nb :=
  needPages_keeps State.nb s r ids go (fun l f => by simp [mapRun_frame .., fetchPages_frame ..]) hf

@[simp] theorem needPages_berth (s : State) (r : Run) (ids : List PageId) (go : Unit → Ended) (hf : (go ()).state.berth = s.berth) : (needPages s r ids go).state.berth = s.berth :=
  needPages_keeps State.berth s r ids go (fun l f => by simp [mapRun_frame .., fetchPages_frame ..]) hf

@[simp] theorem needPages_tbl (s : State) (r : Run) (ids : List PageId) (go : Unit → Ended) (hf : (go ()).state.tbl = s.tbl) : (needPages s r ids go).state.tbl = s.tbl :=
  needPages_keeps State.tbl s r ids go (fun l f => by simp [mapRun_frame .., fetchPages_frame ..]) hf

@[simp] theorem needPages_rel (s : State) (r : Run) (ids : List PageId) (go : Unit → Ended) (hf : (go ()).state.rel = s.rel) : (needPages s r ids go).state.rel = s.rel :=
  needPages_keeps State.rel s r ids go (fun l f => by simp [mapRun_frame .., fetchPages_frame ..]) hf

@[simp] theorem needPages_sec (s : State) (r : Run) (ids : List PageId) (go : Unit → Ended) (hf : (go ()).state.sec = s.sec) : (needPages s r ids go).state.sec = s.sec :=
  needPages_keeps State.sec s r ids go (fun l f => by simp [mapRun_frame .., fetchPages_frame ..]) hf

theorem storeOuts_frame (s : State) (r : Run) (b : Bytes) (ws : List (Nat × List Nat)) : Keeps258 s (storeOuts s r b ws).2.2 := by
  unfold Keeps258 storeOuts
  simp [writePaged_frame ..]

/-- A part of the state that the ends of an operator leave alone is as the operator left it. -/
theorem settleOp_keeps {a : Type} (p : State → a) (r : Run) (b e : Bytes) (x : Ended)
    (hs : ∀ s r st, p (stopRun s r st) = p s) (ha : ∀ s r pc, p (advance s r pc) = p s) (hc : ∀ s n, p (addCounts s n) = p s)
    (ho : ∀ s r b ws, p (storeOuts s r b ws).2.2 = p s) : p (settleOp r b e x) = p x.state := by
  cases x <;> simp only [settleOp, Ended.state]
  · split <;> simp [hs, ha, hc, ho]
  · exact ha _ _ _
  · rw [hs, hc]

/-- A part of the state that running an operator leaves alone is left alone when its meaning leaves it alone. -/
theorem perform_keeps {a : Type} (p : State → a) (s : State) (id code : Nat) (f : Ctx → State → Ended)
    (hs : ∀ s r st, p (stopRun s r st) = p s) (ha : ∀ s r pc, p (advance s r pc) = p s) (hc : ∀ s n, p (addCounts s n) = p s)
    (ho : ∀ s r b ws, p (storeOuts s r b ws).2.2 = p s) (hn : ∀ s l n f, p (mapRun (fetchPages s l) n f) = p s)
    (hr : ∀ s r b l, p (readTensors s r b l).2.2 = p s) (hf : ∀ c t, p (f c t).state = p t) : p (perform s id code f) = p s := by
  unfold perform
  split
  · rfl
  · split
    · rfl
    · dsimp only
      rw [settleOp_keeps p _ _ _ _ hs ha hc ho]
      refine needPages_keeps p _ _ _ _ (fun l f => hn _ _ _ _) ?_
      split
      · exact hr _ _ _ _
      · exact (hf _ _).trans (hr _ _ _ _)

@[simp] theorem perform_pending (s : State) (id code : Nat) (f : Ctx → State → Ended) (hf : ∀ c t, (f c t).state.pending = t.pending) : (perform s id code f).pending = s.pending :=
  perform_keeps State.pending s id code f (fun _ _ _ => by simp [stopRun_frame ..]) (fun _ _ _ => by simp [advance_frame ..])
    (fun _ _ => by simp [addCounts_frame ..]) (fun _ _ _ _ => by simp [storeOuts_frame ..])
    (fun _ _ _ _ => by simp [mapRun_frame .., fetchPages_frame ..]) (fun _ _ _ _ => by simp [readTensors_frame ..]) hf

@[simp] theorem perform_tide (s : State) (id code : Nat) (f : Ctx → State → Ended) (hf : ∀ c t, (f c t).state.tide = t.tide) : (perform s id code f).tide = s.tide :=
  perform_keeps State.tide s id code f (fun _ _ _ => by simp [stopRun_frame ..]) (fun _ _ _ => by simp [advance_frame ..])
    (fun _ _ => by simp [addCounts_frame ..]) (fun _ _ _ _ => by simp [storeOuts_frame ..])
    (fun _ _ _ _ => by simp [mapRun_frame .., fetchPages_frame ..]) (fun _ _ _ _ => by simp [readTensors_frame ..]) hf

@[simp] theorem perform_cap (s : State) (id code : Nat) (f : Ctx → State → Ended) (hf : ∀ c t, (f c t).state.cap = t.cap) : (perform s id code f).cap = s.cap :=
  perform_keeps State.cap s id code f (fun _ _ _ => by simp [stopRun_frame ..]) (fun _ _ _ => by simp [advance_frame ..])
    (fun _ _ => by simp [addCounts_frame ..]) (fun _ _ _ _ => by simp [storeOuts_frame ..])
    (fun _ _ _ _ => by simp [mapRun_frame .., fetchPages_frame ..]) (fun _ _ _ _ => by simp [readTensors_frame ..]) hf

@[simp] theorem perform_log (s : State) (id code : Nat) (f : Ctx → State → Ended) (hf : ∀ c t, (f c t).state.log = t.log) : (perform s id code f).log = s.log :=
  perform_keeps State.log s id code f (fun _ _ _ => by simp [stopRun_frame ..]) (fun _ _ _ => by simp [advance_frame ..])
    (fun _ _ => by simp [addCounts_frame ..]) (fun _ _ _ _ => by simp [storeOuts_frame ..])
    (fun _ _ _ _ => by simp [mapRun_frame .., fetchPages_frame ..]) (fun _ _ _ _ => by simp [readTensors_frame ..]) hf

@[simp] theorem perform_pwr (s : State) (id code : Nat) (f : Ctx → State → Ended) (hf : ∀ c t, (f c t).state.pwr = t.pwr) : (perform s id code f).pwr = s.pwr :=
  perform_keeps State.pwr s id code f (fun _ _ _ => by simp [stopRun_frame ..]) (fun _ _ _ => by simp [advance_frame ..])
    (fun _ _ => by simp [addCounts_frame ..]) (fun _ _ _ _ => by simp [storeOuts_frame ..])
    (fun _ _ _ _ => by simp [mapRun_frame .., fetchPages_frame ..]) (fun _ _ _ _ => by simp [readTensors_frame ..]) hf

@[simp] theorem perform_idx (s : State) (id code : Nat) (f : Ctx → State → Ended) (hf : ∀ c t, (f c t).state.idx = t.idx) : (perform s id code f).idx = s.idx :=
  perform_keeps State.idx s id code f (fun _ _ _ => by simp [stopRun_frame ..]) (fun _ _ _ => by simp [advance_frame ..])
    (fun _ _ => by simp [addCounts_frame ..]) (fun _ _ _ _ => by simp [storeOuts_frame ..])
    (fun _ _ _ _ => by simp [mapRun_frame .., fetchPages_frame ..]) (fun _ _ _ _ => by simp [readTensors_frame ..]) hf

@[simp] theorem perform_chg (s : State) (id code : Nat) (f : Ctx → State → Ended) (hf : ∀ c t, (f c t).state.chg = t.chg) : (perform s id code f).chg = s.chg :=
  perform_keeps State.chg s id code f (fun _ _ _ => by simp [stopRun_frame ..]) (fun _ _ _ => by simp [advance_frame ..])
    (fun _ _ => by simp [addCounts_frame ..]) (fun _ _ _ _ => by simp [storeOuts_frame ..])
    (fun _ _ _ _ => by simp [mapRun_frame .., fetchPages_frame ..]) (fun _ _ _ _ => by simp [readTensors_frame ..]) hf

@[simp] theorem perform_key (s : State) (id code : Nat) (f : Ctx → State → Ended) (hf : ∀ c t, (f c t).state.key = t.key) : (perform s id code f).key = s.key :=
  perform_keeps State.key s id code f (fun _ _ _ => by simp [stopRun_frame ..]) (fun _ _ _ => by simp [advance_frame ..])
    (fun _ _ => by simp [addCounts_frame ..]) (fun _ _ _ _ => by simp [storeOuts_frame ..])
    (fun _ _ _ _ => by simp [mapRun_frame .., fetchPages_frame ..]) (fun _ _ _ _ => by simp [readTensors_frame ..]) hf

@[simp] theorem perform_tbl (s : State) (id code : Nat) (f : Ctx → State → Ended) (hf : ∀ c t, (f c t).state.tbl = t.tbl) : (perform s id code f).tbl = s.tbl :=
  perform_keeps State.tbl s id code f (fun _ _ _ => by simp [stopRun_frame ..]) (fun _ _ _ => by simp [advance_frame ..])
    (fun _ _ => by simp [addCounts_frame ..]) (fun _ _ _ _ => by simp [storeOuts_frame ..])
    (fun _ _ _ _ => by simp [mapRun_frame .., fetchPages_frame ..]) (fun _ _ _ _ => by simp [readTensors_frame ..]) hf

@[simp] theorem perform_rel (s : State) (id code : Nat) (f : Ctx → State → Ended) (hf : ∀ c t, (f c t).state.rel = t.rel) : (perform s id code f).rel = s.rel :=
  perform_keeps State.rel s id code f (fun _ _ _ => by simp [stopRun_frame ..]) (fun _ _ _ => by simp [advance_frame ..])
    (fun _ _ => by simp [addCounts_frame ..]) (fun _ _ _ _ => by simp [storeOuts_frame ..])
    (fun _ _ _ _ => by simp [mapRun_frame .., fetchPages_frame ..]) (fun _ _ _ _ => by simp [readTensors_frame ..]) hf

@[simp] theorem perform_sec (s : State) (id code : Nat) (f : Ctx → State → Ended) (hf : ∀ c t, (f c t).state.sec = t.sec) : (perform s id code f).sec = s.sec :=
  perform_keeps State.sec s id code f (fun _ _ _ => by simp [stopRun_frame ..]) (fun _ _ _ => by simp [advance_frame ..])
    (fun _ _ => by simp [addCounts_frame ..]) (fun _ _ _ _ => by simp [storeOuts_frame ..])
    (fun _ _ _ _ => by simp [mapRun_frame .., fetchPages_frame ..]) (fun _ _ _ _ => by simp [readTensors_frame ..]) hf

theorem pure_frame (s : State) (id code : Nat) (f : Ctx → OpOut) : Keeps298 s (pure s id code f) := by
  unfold pure
  simp [Keeps298]

theorem streamEnds_frame (c : Ctx) (w : TensorDef) (s : State) : Keeps57 s (streamEnds c w s).state := by
  unfold streamEnds
  repeat' split
  all_goals simp [mapSlot_frame .., mapRun_frame .., Keeps57]

theorem scoreRows_frame (c : Ctx) (s : State) (o : OwnedBerth) (l u : Nat) : Keeps309 s (scoreRows c s o l u).2.2 := by
  unfold Keeps309 scoreRows
  simp [readScales_frame .., Nb.keyProducts_frame ..]

theorem foldRows_frame (c : Ctx) (s : State) (o : OwnedBerth) (l u : Nat) (ws : List (List Nat)) : Keeps258 s (foldRows c s o l u ws).2.2 := by
  unfold Keeps258 foldRows
  simp [readScales_frame ..]

theorem valueRows_frame (c : Ctx) (s : State) (o : OwnedBerth) (l u : Nat) (fs : List (List Nat × Nat × List Nat)) : Keeps196 s (valueRows c s o l u fs).2.2 := by
  unfold Keeps196 valueRows
  simp [Nb.valueProducts_frame ..]

theorem attention_keeps {R : State → State → Prop} (c : Ctx) (s : State) (f : OwnedBerth → Nat → Nat → Ended) (hr : R s s)
    (hf : ∀ o l n, R s (f o l n).state) : R s (attention c s f).state := by
  unfold attention
  split
  · exact hr
  · exact hf _ _ _

@[simp] theorem attention_pending (c : Ctx) (s : State) (f : OwnedBerth → Nat → Nat → Ended) (hf : ∀ o l n, (f o l n).state.pending = s.pending) : (attention c s f).state.pending = s.pending := by
  unfold attention
  split
  · rfl
  · exact hf _ _ _

@[simp] theorem attention_out (c : Ctx) (s : State) (f : OwnedBerth → Nat → Nat → Ended) (hf : ∀ o l n, (f o l n).state.out = s.out) : (attention c s f).state.out = s.out := by
  unfold attention
  split
  · rfl
  · exact hf _ _ _

@[simp] theorem attention_free (c : Ctx) (s : State) (f : OwnedBerth → Nat → Nat → Ended) (hf : ∀ o l n, (f o l n).state.free = s.free) : (attention c s f).state.free = s.free := by
  unfold attention
  split
  · rfl
  · exact hf _ _ _

@[simp] theorem attention_tide (c : Ctx) (s : State) (f : OwnedBerth → Nat → Nat → Ended) (hf : ∀ o l n, (f o l n).state.tide = s.tide) : (attention c s f).state.tide = s.tide := by
  unfold attention
  split
  · rfl
  · exact hf _ _ _

@[simp] theorem attention_cat (c : Ctx) (s : State) (f : OwnedBerth → Nat → Nat → Ended) (hf : ∀ o l n, (f o l n).state.cat = s.cat) : (attention c s f).state.cat = s.cat := by
  unfold attention
  split
  · rfl
  · exact hf _ _ _

@[simp] theorem attention_cap (c : Ctx) (s : State) (f : OwnedBerth → Nat → Nat → Ended) (hf : ∀ o l n, (f o l n).state.cap = s.cap) : (attention c s f).state.cap = s.cap := by
  unfold attention
  split
  · rfl
  · exact hf _ _ _

@[simp] theorem attention_log (c : Ctx) (s : State) (f : OwnedBerth → Nat → Nat → Ended) (hf : ∀ o l n, (f o l n).state.log = s.log) : (attention c s f).state.log = s.log := by
  unfold attention
  split
  · rfl
  · exact hf _ _ _

@[simp] theorem attention_rst (c : Ctx) (s : State) (f : OwnedBerth → Nat → Nat → Ended) (hf : ∀ o l n, (f o l n).state.rst = s.rst) : (attention c s f).state.rst = s.rst := by
  unfold attention
  split
  · rfl
  · exact hf _ _ _

@[simp] theorem attention_pwr (c : Ctx) (s : State) (f : OwnedBerth → Nat → Nat → Ended) (hf : ∀ o l n, (f o l n).state.pwr = s.pwr) : (attention c s f).state.pwr = s.pwr := by
  unfold attention
  split
  · rfl
  · exact hf _ _ _

@[simp] theorem attention_strand (c : Ctx) (s : State) (f : OwnedBerth → Nat → Nat → Ended) (hf : ∀ o l n, (f o l n).state.strand = s.strand) : (attention c s f).state.strand = s.strand := by
  unfold attention
  split
  · rfl
  · exact hf _ _ _

@[simp] theorem attention_host (c : Ctx) (s : State) (f : OwnedBerth → Nat → Nat → Ended) (hf : ∀ o l n, (f o l n).state.host = s.host) : (attention c s f).state.host = s.host := by
  unfold attention
  split
  · rfl
  · exact hf _ _ _

@[simp] theorem attention_idx (c : Ctx) (s : State) (f : OwnedBerth → Nat → Nat → Ended) (hf : ∀ o l n, (f o l n).state.idx = s.idx) : (attention c s f).state.idx = s.idx := by
  unfold attention
  split
  · rfl
  · exact hf _ _ _

@[simp] theorem attention_qry (c : Ctx) (s : State) (f : OwnedBerth → Nat → Nat → Ended) (hf : ∀ o l n, (f o l n).state.qry = s.qry) : (attention c s f).state.qry = s.qry := by
  unfold attention
  split
  · rfl
  · exact hf _ _ _

@[simp] theorem attention_chg (c : Ctx) (s : State) (f : OwnedBerth → Nat → Nat → Ended) (hf : ∀ o l n, (f o l n).state.chg = s.chg) : (attention c s f).state.chg = s.chg := by
  unfold attention
  split
  · rfl
  · exact hf _ _ _

@[simp] theorem attention_mem (c : Ctx) (s : State) (f : OwnedBerth → Nat → Nat → Ended) (hf : ∀ o l n, (f o l n).state.mem = s.mem) : (attention c s f).state.mem = s.mem := by
  unfold attention
  split
  · rfl
  · exact hf _ _ _

@[simp] theorem attention_key (c : Ctx) (s : State) (f : OwnedBerth → Nat → Nat → Ended) (hf : ∀ o l n, (f o l n).state.key = s.key) : (attention c s f).state.key = s.key := by
  unfold attention
  split
  · rfl
  · exact hf _ _ _

@[simp] theorem attention_coh (c : Ctx) (s : State) (f : OwnedBerth → Nat → Nat → Ended) (hf : ∀ o l n, (f o l n).state.coh = s.coh) : (attention c s f).state.coh = s.coh := by
  unfold attention
  split
  · rfl
  · exact hf _ _ _

@[simp] theorem attention_nb (c : Ctx) (s : State) (f : OwnedBerth → Nat → Nat → Ended) (hf : ∀ o l n, (f o l n).state.nb = s.nb) : (attention c s f).state.nb = s.nb := by
  unfold attention
  split
  · rfl
  · exact hf _ _ _

@[simp] theorem attention_flash (c : Ctx) (s : State) (f : OwnedBerth → Nat → Nat → Ended) (hf : ∀ o l n, (f o l n).state.flash = s.flash) : (attention c s f).state.flash = s.flash := by
  unfold attention
  split
  · rfl
  · exact hf _ _ _

@[simp] theorem attention_gph (c : Ctx) (s : State) (f : OwnedBerth → Nat → Nat → Ended) (hf : ∀ o l n, (f o l n).state.gph = s.gph) : (attention c s f).state.gph = s.gph := by
  unfold attention
  split
  · rfl
  · exact hf _ _ _

@[simp] theorem attention_berth (c : Ctx) (s : State) (f : OwnedBerth → Nat → Nat → Ended) (hf : ∀ o l n, (f o l n).state.berth = s.berth) : (attention c s f).state.berth = s.berth := by
  unfold attention
  split
  · rfl
  · exact hf _ _ _

@[simp] theorem attention_tbl (c : Ctx) (s : State) (f : OwnedBerth → Nat → Nat → Ended) (hf : ∀ o l n, (f o l n).state.tbl = s.tbl) : (attention c s f).state.tbl = s.tbl := by
  unfold attention
  split
  · rfl
  · exact hf _ _ _

@[simp] theorem attention_rel (c : Ctx) (s : State) (f : OwnedBerth → Nat → Nat → Ended) (hf : ∀ o l n, (f o l n).state.rel = s.rel) : (attention c s f).state.rel = s.rel := by
  unfold attention
  split
  · rfl
  · exact hf _ _ _

@[simp] theorem attention_sec (c : Ctx) (s : State) (f : OwnedBerth → Nat → Nat → Ended) (hf : ∀ o l n, (f o l n).state.sec = s.sec) : (attention c s f).state.sec = s.sec := by
  unfold attention
  split
  · rfl
  · exact hf _ _ _

theorem keySide_keeps {a : Type} (p : State → a) (c : Ctx) (s : State) (o : OwnedBerth) (l u : Nat) (more : List PageId)
    (f : List (List Nat) → State → Ended) (hn : ∀ ids f, p (mapRun (fetchPages s ids) c.run.id f) = p s)
    (hr : p (scoreRows c s o l u).2.2 = p s) (hf : ∀ x t, p t = p s → p (f x t).state = p s) : p (keySide c s o l u more f).state = p s := by
  refine needPages_keeps p _ _ _ _ hn ?_
  split
  · rfl
  · dsimp only
    split
    · exact hr
    · exact hf _ _ hr

@[simp] theorem keySide_pending (c : Ctx) (s : State) (o : OwnedBerth) (l n : Nat) (more : List PageId) (f : List (List Nat) → State → Ended) (hf : ∀ x t, t.pending = s.pending → (f x t).state.pending = s.pending) : (keySide c s o l n more f).state.pending = s.pending :=
  keySide_keeps State.pending c s o l n more f (fun _ _ => by simp [mapRun_frame .., fetchPages_frame ..]) (by simp [scoreRows_frame ..]) hf

@[simp] theorem keySide_tide (c : Ctx) (s : State) (o : OwnedBerth) (l n : Nat) (more : List PageId) (f : List (List Nat) → State → Ended) (hf : ∀ x t, t.tide = s.tide → (f x t).state.tide = s.tide) : (keySide c s o l n more f).state.tide = s.tide :=
  keySide_keeps State.tide c s o l n more f (fun _ _ => by simp [mapRun_frame .., fetchPages_frame ..]) (by simp [scoreRows_frame ..]) hf

@[simp] theorem keySide_cap (c : Ctx) (s : State) (o : OwnedBerth) (l n : Nat) (more : List PageId) (f : List (List Nat) → State → Ended) (hf : ∀ x t, t.cap = s.cap → (f x t).state.cap = s.cap) : (keySide c s o l n more f).state.cap = s.cap :=
  keySide_keeps State.cap c s o l n more f (fun _ _ => by simp [mapRun_frame .., fetchPages_frame ..]) (by simp [scoreRows_frame ..]) hf

@[simp] theorem keySide_log (c : Ctx) (s : State) (o : OwnedBerth) (l n : Nat) (more : List PageId) (f : List (List Nat) → State → Ended) (hf : ∀ x t, t.log = s.log → (f x t).state.log = s.log) : (keySide c s o l n more f).state.log = s.log :=
  keySide_keeps State.log c s o l n more f (fun _ _ => by simp [mapRun_frame .., fetchPages_frame ..]) (by simp [scoreRows_frame ..]) hf

@[simp] theorem keySide_rst (c : Ctx) (s : State) (o : OwnedBerth) (l n : Nat) (more : List PageId) (f : List (List Nat) → State → Ended) (hf : ∀ x t, t.rst = s.rst → (f x t).state.rst = s.rst) : (keySide c s o l n more f).state.rst = s.rst :=
  keySide_keeps State.rst c s o l n more f (fun _ _ => by simp [mapRun_frame .., fetchPages_frame ..]) (by simp [scoreRows_frame ..]) hf

@[simp] theorem keySide_pwr (c : Ctx) (s : State) (o : OwnedBerth) (l n : Nat) (more : List PageId) (f : List (List Nat) → State → Ended) (hf : ∀ x t, t.pwr = s.pwr → (f x t).state.pwr = s.pwr) : (keySide c s o l n more f).state.pwr = s.pwr :=
  keySide_keeps State.pwr c s o l n more f (fun _ _ => by simp [mapRun_frame .., fetchPages_frame ..]) (by simp [scoreRows_frame ..]) hf

@[simp] theorem keySide_strand (c : Ctx) (s : State) (o : OwnedBerth) (l n : Nat) (more : List PageId) (f : List (List Nat) → State → Ended) (hf : ∀ x t, t.strand = s.strand → (f x t).state.strand = s.strand) : (keySide c s o l n more f).state.strand = s.strand :=
  keySide_keeps State.strand c s o l n more f (fun _ _ => by simp [mapRun_frame .., fetchPages_frame ..]) (by simp [scoreRows_frame ..]) hf

@[simp] theorem keySide_idx (c : Ctx) (s : State) (o : OwnedBerth) (l n : Nat) (more : List PageId) (f : List (List Nat) → State → Ended) (hf : ∀ x t, t.idx = s.idx → (f x t).state.idx = s.idx) : (keySide c s o l n more f).state.idx = s.idx :=
  keySide_keeps State.idx c s o l n more f (fun _ _ => by simp [mapRun_frame .., fetchPages_frame ..]) (by simp [scoreRows_frame ..]) hf

@[simp] theorem keySide_qry (c : Ctx) (s : State) (o : OwnedBerth) (l n : Nat) (more : List PageId) (f : List (List Nat) → State → Ended) (hf : ∀ x t, t.qry = s.qry → (f x t).state.qry = s.qry) : (keySide c s o l n more f).state.qry = s.qry :=
  keySide_keeps State.qry c s o l n more f (fun _ _ => by simp [mapRun_frame .., fetchPages_frame ..]) (by simp [scoreRows_frame ..]) hf

@[simp] theorem keySide_chg (c : Ctx) (s : State) (o : OwnedBerth) (l n : Nat) (more : List PageId) (f : List (List Nat) → State → Ended) (hf : ∀ x t, t.chg = s.chg → (f x t).state.chg = s.chg) : (keySide c s o l n more f).state.chg = s.chg :=
  keySide_keeps State.chg c s o l n more f (fun _ _ => by simp [mapRun_frame .., fetchPages_frame ..]) (by simp [scoreRows_frame ..]) hf

@[simp] theorem keySide_key (c : Ctx) (s : State) (o : OwnedBerth) (l n : Nat) (more : List PageId) (f : List (List Nat) → State → Ended) (hf : ∀ x t, t.key = s.key → (f x t).state.key = s.key) : (keySide c s o l n more f).state.key = s.key :=
  keySide_keeps State.key c s o l n more f (fun _ _ => by simp [mapRun_frame .., fetchPages_frame ..]) (by simp [scoreRows_frame ..]) hf

@[simp] theorem keySide_berth (c : Ctx) (s : State) (o : OwnedBerth) (l n : Nat) (more : List PageId) (f : List (List Nat) → State → Ended) (hf : ∀ x t, t.berth = s.berth → (f x t).state.berth = s.berth) : (keySide c s o l n more f).state.berth = s.berth :=
  keySide_keeps State.berth c s o l n more f (fun _ _ => by simp [mapRun_frame .., fetchPages_frame ..]) (by simp [scoreRows_frame ..]) hf

@[simp] theorem keySide_tbl (c : Ctx) (s : State) (o : OwnedBerth) (l n : Nat) (more : List PageId) (f : List (List Nat) → State → Ended) (hf : ∀ x t, t.tbl = s.tbl → (f x t).state.tbl = s.tbl) : (keySide c s o l n more f).state.tbl = s.tbl :=
  keySide_keeps State.tbl c s o l n more f (fun _ _ => by simp [mapRun_frame .., fetchPages_frame ..]) (by simp [scoreRows_frame ..]) hf

@[simp] theorem keySide_rel (c : Ctx) (s : State) (o : OwnedBerth) (l n : Nat) (more : List PageId) (f : List (List Nat) → State → Ended) (hf : ∀ x t, t.rel = s.rel → (f x t).state.rel = s.rel) : (keySide c s o l n more f).state.rel = s.rel :=
  keySide_keeps State.rel c s o l n more f (fun _ _ => by simp [mapRun_frame .., fetchPages_frame ..]) (by simp [scoreRows_frame ..]) hf

@[simp] theorem keySide_sec (c : Ctx) (s : State) (o : OwnedBerth) (l n : Nat) (more : List PageId) (f : List (List Nat) → State → Ended) (hf : ∀ x t, t.sec = s.sec → (f x t).state.sec = s.sec) : (keySide c s o l n more f).state.sec = s.sec :=
  keySide_keeps State.sec c s o l n more f (fun _ _ => by simp [mapRun_frame .., fetchPages_frame ..]) (by simp [scoreRows_frame ..]) hf

theorem valueSide_keeps {a : Type} (p : State → a) (c : Ctx) (s0 s : State) (o : OwnedBerth) (l u : Nat) (ws : List (List Nat))
    (f : List (List Nat) → OpCount → State → Ended) (hn : ∀ ids f, p (mapRun (fetchPages s0 ids) c.run.id f) = p s0)
    (h1 : p (foldRows c s o l u ws).2.2 = p s) (h2 : ∀ t fs, p (valueRows c t o l u fs).2.2 = p t) (h0 : p s = p s0)
    (hf : ∀ x n t, p (f x n t).state = p t) : p (valueSide c s0 s o l u ws f).state = p s0 := by
  unfold valueSide
  dsimp only
  split
  · exact h1.trans h0
  · refine needPages_keeps p _ _ _ _ hn ?_
    split
    · rfl
    · split
      · exact (h2 _ _).trans (h1.trans h0)
      · exact (hf _ _ _).trans ((h2 _ _).trans (h1.trans h0))

@[simp] theorem valueSide_pending (c : Ctx) (s0 s : State) (o : OwnedBerth) (l n : Nat) (ws : List (List Nat)) (f : List (List Nat) → OpCount → State → Ended) (h0 : s.pending = s0.pending) (hf : ∀ x k t, (f x k t).state.pending = t.pending) : (valueSide c s0 s o l n ws f).state.pending = s0.pending :=
  valueSide_keeps State.pending c s0 s o l n ws f (fun _ _ => by simp [mapRun_frame .., fetchPages_frame ..]) (by simp [foldRows_frame ..]) (fun _ _ => by simp [valueRows_frame ..]) h0 hf

@[simp] theorem valueSide_tide (c : Ctx) (s0 s : State) (o : OwnedBerth) (l n : Nat) (ws : List (List Nat)) (f : List (List Nat) → OpCount → State → Ended) (h0 : s.tide = s0.tide) (hf : ∀ x k t, (f x k t).state.tide = t.tide) : (valueSide c s0 s o l n ws f).state.tide = s0.tide :=
  valueSide_keeps State.tide c s0 s o l n ws f (fun _ _ => by simp [mapRun_frame .., fetchPages_frame ..]) (by simp [foldRows_frame ..]) (fun _ _ => by simp [valueRows_frame ..]) h0 hf

@[simp] theorem valueSide_cap (c : Ctx) (s0 s : State) (o : OwnedBerth) (l n : Nat) (ws : List (List Nat)) (f : List (List Nat) → OpCount → State → Ended) (h0 : s.cap = s0.cap) (hf : ∀ x k t, (f x k t).state.cap = t.cap) : (valueSide c s0 s o l n ws f).state.cap = s0.cap :=
  valueSide_keeps State.cap c s0 s o l n ws f (fun _ _ => by simp [mapRun_frame .., fetchPages_frame ..]) (by simp [foldRows_frame ..]) (fun _ _ => by simp [valueRows_frame ..]) h0 hf

@[simp] theorem valueSide_log (c : Ctx) (s0 s : State) (o : OwnedBerth) (l n : Nat) (ws : List (List Nat)) (f : List (List Nat) → OpCount → State → Ended) (h0 : s.log = s0.log) (hf : ∀ x k t, (f x k t).state.log = t.log) : (valueSide c s0 s o l n ws f).state.log = s0.log :=
  valueSide_keeps State.log c s0 s o l n ws f (fun _ _ => by simp [mapRun_frame .., fetchPages_frame ..]) (by simp [foldRows_frame ..]) (fun _ _ => by simp [valueRows_frame ..]) h0 hf

@[simp] theorem valueSide_rst (c : Ctx) (s0 s : State) (o : OwnedBerth) (l n : Nat) (ws : List (List Nat)) (f : List (List Nat) → OpCount → State → Ended) (h0 : s.rst = s0.rst) (hf : ∀ x k t, (f x k t).state.rst = t.rst) : (valueSide c s0 s o l n ws f).state.rst = s0.rst :=
  valueSide_keeps State.rst c s0 s o l n ws f (fun _ _ => by simp [mapRun_frame .., fetchPages_frame ..]) (by simp [foldRows_frame ..]) (fun _ _ => by simp [valueRows_frame ..]) h0 hf

@[simp] theorem valueSide_pwr (c : Ctx) (s0 s : State) (o : OwnedBerth) (l n : Nat) (ws : List (List Nat)) (f : List (List Nat) → OpCount → State → Ended) (h0 : s.pwr = s0.pwr) (hf : ∀ x k t, (f x k t).state.pwr = t.pwr) : (valueSide c s0 s o l n ws f).state.pwr = s0.pwr :=
  valueSide_keeps State.pwr c s0 s o l n ws f (fun _ _ => by simp [mapRun_frame .., fetchPages_frame ..]) (by simp [foldRows_frame ..]) (fun _ _ => by simp [valueRows_frame ..]) h0 hf

@[simp] theorem valueSide_strand (c : Ctx) (s0 s : State) (o : OwnedBerth) (l n : Nat) (ws : List (List Nat)) (f : List (List Nat) → OpCount → State → Ended) (h0 : s.strand = s0.strand) (hf : ∀ x k t, (f x k t).state.strand = t.strand) : (valueSide c s0 s o l n ws f).state.strand = s0.strand :=
  valueSide_keeps State.strand c s0 s o l n ws f (fun _ _ => by simp [mapRun_frame .., fetchPages_frame ..]) (by simp [foldRows_frame ..]) (fun _ _ => by simp [valueRows_frame ..]) h0 hf

@[simp] theorem valueSide_idx (c : Ctx) (s0 s : State) (o : OwnedBerth) (l n : Nat) (ws : List (List Nat)) (f : List (List Nat) → OpCount → State → Ended) (h0 : s.idx = s0.idx) (hf : ∀ x k t, (f x k t).state.idx = t.idx) : (valueSide c s0 s o l n ws f).state.idx = s0.idx :=
  valueSide_keeps State.idx c s0 s o l n ws f (fun _ _ => by simp [mapRun_frame .., fetchPages_frame ..]) (by simp [foldRows_frame ..]) (fun _ _ => by simp [valueRows_frame ..]) h0 hf

@[simp] theorem valueSide_qry (c : Ctx) (s0 s : State) (o : OwnedBerth) (l n : Nat) (ws : List (List Nat)) (f : List (List Nat) → OpCount → State → Ended) (h0 : s.qry = s0.qry) (hf : ∀ x k t, (f x k t).state.qry = t.qry) : (valueSide c s0 s o l n ws f).state.qry = s0.qry :=
  valueSide_keeps State.qry c s0 s o l n ws f (fun _ _ => by simp [mapRun_frame .., fetchPages_frame ..]) (by simp [foldRows_frame ..]) (fun _ _ => by simp [valueRows_frame ..]) h0 hf

@[simp] theorem valueSide_chg (c : Ctx) (s0 s : State) (o : OwnedBerth) (l n : Nat) (ws : List (List Nat)) (f : List (List Nat) → OpCount → State → Ended) (h0 : s.chg = s0.chg) (hf : ∀ x k t, (f x k t).state.chg = t.chg) : (valueSide c s0 s o l n ws f).state.chg = s0.chg :=
  valueSide_keeps State.chg c s0 s o l n ws f (fun _ _ => by simp [mapRun_frame .., fetchPages_frame ..]) (by simp [foldRows_frame ..]) (fun _ _ => by simp [valueRows_frame ..]) h0 hf

@[simp] theorem valueSide_key (c : Ctx) (s0 s : State) (o : OwnedBerth) (l n : Nat) (ws : List (List Nat)) (f : List (List Nat) → OpCount → State → Ended) (h0 : s.key = s0.key) (hf : ∀ x k t, (f x k t).state.key = t.key) : (valueSide c s0 s o l n ws f).state.key = s0.key :=
  valueSide_keeps State.key c s0 s o l n ws f (fun _ _ => by simp [mapRun_frame .., fetchPages_frame ..]) (by simp [foldRows_frame ..]) (fun _ _ => by simp [valueRows_frame ..]) h0 hf

@[simp] theorem valueSide_berth (c : Ctx) (s0 s : State) (o : OwnedBerth) (l n : Nat) (ws : List (List Nat)) (f : List (List Nat) → OpCount → State → Ended) (h0 : s.berth = s0.berth) (hf : ∀ x k t, (f x k t).state.berth = t.berth) : (valueSide c s0 s o l n ws f).state.berth = s0.berth :=
  valueSide_keeps State.berth c s0 s o l n ws f (fun _ _ => by simp [mapRun_frame .., fetchPages_frame ..]) (by simp [foldRows_frame ..]) (fun _ _ => by simp [valueRows_frame ..]) h0 hf

@[simp] theorem valueSide_tbl (c : Ctx) (s0 s : State) (o : OwnedBerth) (l n : Nat) (ws : List (List Nat)) (f : List (List Nat) → OpCount → State → Ended) (h0 : s.tbl = s0.tbl) (hf : ∀ x k t, (f x k t).state.tbl = t.tbl) : (valueSide c s0 s o l n ws f).state.tbl = s0.tbl :=
  valueSide_keeps State.tbl c s0 s o l n ws f (fun _ _ => by simp [mapRun_frame .., fetchPages_frame ..]) (by simp [foldRows_frame ..]) (fun _ _ => by simp [valueRows_frame ..]) h0 hf

@[simp] theorem valueSide_rel (c : Ctx) (s0 s : State) (o : OwnedBerth) (l n : Nat) (ws : List (List Nat)) (f : List (List Nat) → OpCount → State → Ended) (h0 : s.rel = s0.rel) (hf : ∀ x k t, (f x k t).state.rel = t.rel) : (valueSide c s0 s o l n ws f).state.rel = s0.rel :=
  valueSide_keeps State.rel c s0 s o l n ws f (fun _ _ => by simp [mapRun_frame .., fetchPages_frame ..]) (by simp [foldRows_frame ..]) (fun _ _ => by simp [valueRows_frame ..]) h0 hf

@[simp] theorem valueSide_sec (c : Ctx) (s0 s : State) (o : OwnedBerth) (l n : Nat) (ws : List (List Nat)) (f : List (List Nat) → OpCount → State → Ended) (h0 : s.sec = s0.sec) (hf : ∀ x k t, (f x k t).state.sec = t.sec) : (valueSide c s0 s o l n ws f).state.sec = s0.sec :=
  valueSide_keeps State.sec c s0 s o l n ws f (fun _ _ => by simp [mapRun_frame .., fetchPages_frame ..]) (by simp [foldRows_frame ..]) (fun _ _ => by simp [valueRows_frame ..]) h0 hf

end Graph

end Sys2Proof.Machine
end

