-- ==== Sys2Proof/Laws/CellsGraph.lean ====
section
/-! SUPPORT. The functions of Graph.lean keep the canonical form of the memory's cells. -/

namespace Sys2Proof.Machine

set_option linter.unusedSimpArgs false
set_option linter.unusedVariables false
set_option linter.unusedTactic false
set_option linter.unreachableTactic false
set_option Elab.async false

open Sys2Proof Sys2Proof.Num Sys2Proof.Machine

namespace Graph

theorem allocPages_cells (m : MemUnit) (owner : Nat) (plane shelf : Bool) (n : Nat) : (allocPages m owner plane shelf n).2.cells = m.cells := by
  induction n generalizing m with
  | zero => rfl
  | succ n ih =>
    unfold allocPages
    split
    · rfl
    · exact ih _

theorem storeTensors_wf (m : MemUnit) (owner : Nat) (b : Bytes) (hm : Cells.wf m.cells = true) : Cells.wf (storeTensors m owner b).2.cells = true := by
  have hs : ∀ {c : Type} (l : List c) (m : MemUnit) (g : MemUnit → c → MemUnit),
      (∀ m x, Cells.wf m.cells = true → Cells.wf (g m x).cells = true) → Cells.wf m.cells = true → Cells.wf (l.foldl g m).cells = true :=
    fun l m g h hm => foldl_mem_wf g l m h hm
  have hf : ∀ (l : List Nat) (x : List (Nat × List Nat) × MemUnit) (g : List (Nat × List Nat) × MemUnit → Nat → List (Nat × List Nat) × MemUnit),
      (∀ x n, Cells.wf x.2.cells = true → Cells.wf (g x n).2.cells = true) → Cells.wf x.2.cells = true → Cells.wf (l.foldl g x).2.cells = true := by
    intro l
    induction l with
    | nil => intro x g h hx; exact hx
    | cons n l ih => intro x g h hx; exact ih _ g h (h x n hx)
  unfold storeTensors
  refine hf _ _ _ ?_ hm
  intro x n hx
  dsimp only
  split
  · exact hx
  · have ha := allocPages_cells x.2 owner ((tensorDef b n).kind == 5) ((tensorDef b n).kind == 4 && imageWindow b == 0) (tensorDef b n).pages
    have hx : Cells.wf (allocPages x.2 owner ((tensorDef b n).kind == 5) ((tensorDef b n).kind == 4 && imageWindow b == 0) (tensorDef b n).pages).2.cells = true := by
      rw [ha]; exact hx
    split
    · exact hs _ _ _ (fun m j h => Mem.storeBytes_wf m _ _ _ _ h) hx
    · exact hs _ _ _ (fun m j h => Mem.storeBytes_wf m _ _ _ _ h) hx

@[simp] theorem load_wf (s : State) (n : Nat) (b : Bytes) (hm : Cells.wf s.mem.cells = true) : Cells.wf (load s n b).mem.cells = true := by
  unfold load
  have h := storeTensors_wf s.mem
  simp +contextual (maxDischargeDepth := 20) [putEntries_frame .., h, hm]

@[simp] theorem clear_wf (s : State) (g : GraphSlot) (hm : Cells.wf s.mem.cells = true) : Cells.wf (clear s g).mem.cells = true := by
  unfold clear
  simp +contextual (maxDischargeDepth := 20) [putEntries_frame .., hm]

@[simp] theorem readStored_wf (s : State) (r : Run) (n off len : Nat) (hm : Cells.wf s.mem.cells = true) : Cells.wf (readStored s r n off len).2.2.mem.cells = true := by
  unfold readStored
  simp +contextual (maxDischargeDepth := 20) [hm]

@[simp] theorem readPlanes_wf (s : State) (r : Run) (t : TensorDef) (pages : List Nat) (hm : Cells.wf s.mem.cells = true) : Cells.wf (readPlanes s r t pages).2.2.mem.cells = true := by
  unfold readPlanes
  simp +contextual (maxDischargeDepth := 20) [hm]

@[simp] theorem readTensor_wf (s : State) (r : Run) (b : Bytes) (n : Nat) (hm : Cells.wf s.mem.cells = true) : Cells.wf (readTensor s r b n).2.2.mem.cells = true := by
  unfold readTensor
  simp +contextual (maxDischargeDepth := 20) [hm]

@[simp] theorem readTensors_wf (s : State) (r : Run) (b : Bytes) (ns : List Nat) (hm : Cells.wf s.mem.cells = true) : Cells.wf (readTensors s r b ns).2.2.mem.cells = true := by
  unfold readTensors
  simp +contextual (maxDischargeDepth := 20) [hm]

@[simp] theorem loadScale_wf (s : State) (r : Run) (b : Bytes) (op : Nat) (hm : Cells.wf s.mem.cells = true) : Cells.wf (loadScale s r b op).mem.cells = true := by
  unfold loadScale
  repeat' split
  all_goals simp +contextual (maxDischargeDepth := 20) [mapSlot_frame .., hm]

@[simp] theorem fillChunk_wf (s : State) (g : GraphSlot) (r : Run) (hm : Cells.wf s.mem.cells = true) : Cells.wf (fillChunk s g r).mem.cells = true := by
  unfold fillChunk
  dsimp only
  repeat' split
  all_goals simp +contextual (maxDischargeDepth := 20) [mapSlot_frame .., State.bump_frame .., hm]

@[simp] theorem failQuery_wf (s : State) (tag status : Nat) (hm : Cells.wf s.mem.cells = true) : Cells.wf (failQuery s tag status).mem.cells = true := by
  unfold failQuery
  dsimp only
  repeat' split
  all_goals simp +contextual (maxDischargeDepth := 20) [State.bump_frame .., hm]

@[simp] theorem startQuery_wf (s : State) (tag : Nat) (pats : List Nat) (hm : Cells.wf s.mem.cells = true) : Cells.wf (startQuery s tag pats).mem.cells = true := by
  unfold startQuery
  repeat' split
  all_goals simp +contextual (maxDischargeDepth := 20) [mapQuery_frame .., State.bump_frame .., hm]

@[simp] theorem writeOutputs_wf (s : State) (r : Run) (b : Bytes) (hm : Cells.wf s.mem.cells = true) : Cells.wf (writeOutputs s r b).mem.cells = true := by
  unfold writeOutputs
  simp +contextual (maxDischargeDepth := 20) [hm]

@[simp] theorem releaseRun_wf (s : State) (r : Run) (hm : Cells.wf s.mem.cells = true) : Cells.wf (releaseRun s r).mem.cells = true := by
  unfold releaseRun
  repeat' split
  all_goals simp +contextual (maxDischargeDepth := 20) [dropFills_frame .., Berth.mapOwned_frame .., hm]

@[simp] theorem answerRun_wf (s : State) (r : Run) (b : Bytes) (status failed : Nat) (hm : Cells.wf s.mem.cells = true) : Cells.wf (answerRun s r b status failed).mem.cells = true := by
  unfold answerRun
  repeat' split
  all_goals simp +contextual (maxDischargeDepth := 20) [Berth.mapOwned_frame .., hm]

@[simp] theorem endRun_wf (s : State) (r : Run) (status failed : Nat) (hm : Cells.wf s.mem.cells = true) : Cells.wf (endRun s r status failed).mem.cells = true := by
  unfold endRun
  simp +contextual (maxDischargeDepth := 20) [countRun_frame .., hm]

@[simp] theorem stopRun_wf (s : State) (r : Run) (status : Nat) (hm : Cells.wf s.mem.cells = true) : Cells.wf (stopRun s r status).mem.cells = true := by
  unfold stopRun
  simp +contextual (maxDischargeDepth := 20) [hm]

@[simp] theorem advance_wf (s : State) (r : Run) (pc : Nat) (hm : Cells.wf s.mem.cells = true) : Cells.wf (advance s r pc).mem.cells = true := by
  unfold advance
  simp +contextual (maxDischargeDepth := 20) [trimFills_frame .., mapRun_frame .., hm]

@[simp] theorem needPages_wf (s : State) (r : Run) (ids : List PageId) (go : Unit → Ended) (hm : Cells.wf s.mem.cells = true) (hf : Cells.wf (go ()).state.mem.cells = true) : Cells.wf (needPages s r ids go).state.mem.cells = true := by
  unfold needPages
  split
  · exact hf
  · simp [mapRun_frame .., hm]

@[simp] theorem storeOuts_wf (s : State) (r : Run) (b : Bytes) (ws : List (Nat × List Nat)) (hm : Cells.wf s.mem.cells = true) : Cells.wf (storeOuts s r b ws).2.2.mem.cells = true := by
  unfold storeOuts
  simp +contextual (maxDischargeDepth := 20) [hm]

theorem settleOp_wf (r : Run) (b e : Bytes) (x : Ended) (hm : Cells.wf x.state.mem.cells = true) : Cells.wf (settleOp r b e x).mem.cells = true := by
  cases x <;> simp only [Ended.state] at hm <;> simp only [settleOp]
  · split <;> simp +contextual (maxDischargeDepth := 20) [addCounts_frame .., hm]
  · simp (maxDischargeDepth := 20) [hm]
  · simp (maxDischargeDepth := 20) [addCounts_frame .., hm]
  · exact hm

@[simp] theorem perform_wf (s : State) (id code : Nat) (f : Ctx → State → Ended) (hm : Cells.wf s.mem.cells = true) (hf : ∀ c t, Cells.wf t.mem.cells = true → Cells.wf (f c t).state.mem.cells = true) : Cells.wf (perform s id code f).mem.cells = true := by
  unfold perform
  split
  · exact hm
  · split
    · exact hm
    · dsimp only
      refine settleOp_wf _ _ _ _ (needPages_wf _ _ _ _ hm ?_)
      have hr (r : Run) (b : Bytes) (l : List Nat) : Cells.wf (readTensors s r b l).2.2.mem.cells = true := readTensors_wf _ _ _ _ hm
      split
      · exact hr _ _ _
      · exact hf _ _ (hr _ _ _)

@[simp] theorem pure_wf (s : State) (id code : Nat) (f : Ctx → OpOut) (hm : Cells.wf s.mem.cells = true) : Cells.wf (pure s id code f).mem.cells = true := by
  unfold pure
  simp +contextual (maxDischargeDepth := 20) [hm]

@[simp] theorem scoreRows_wf (c : Ctx) (s : State) (o : OwnedBerth) (l u : Nat) (hm : Cells.wf s.mem.cells = true) : Cells.wf (scoreRows c s o l u).2.2.mem.cells = true := by
  unfold scoreRows
  simp +contextual (maxDischargeDepth := 20) [hm]

@[simp] theorem foldRows_wf (c : Ctx) (s : State) (o : OwnedBerth) (l u : Nat) (ws : List (List Nat)) (hm : Cells.wf s.mem.cells = true) : Cells.wf (foldRows c s o l u ws).2.2.mem.cells = true := by
  unfold foldRows
  simp +contextual (maxDischargeDepth := 20) [hm]

@[simp] theorem valueRows_wf (c : Ctx) (s : State) (o : OwnedBerth) (l u : Nat) (fs : List (List Nat × Nat × List Nat)) (hm : Cells.wf s.mem.cells = true) : Cells.wf (valueRows c s o l u fs).2.2.mem.cells = true := by
  unfold valueRows
  simp +contextual (maxDischargeDepth := 20) [hm]

@[simp] theorem attention_wf (c : Ctx) (s : State) (f : OwnedBerth → Nat → Nat → Ended) (hm : Cells.wf s.mem.cells = true) (hf : ∀ o l n, Cells.wf (f o l n).state.mem.cells = true) : Cells.wf (attention c s f).state.mem.cells = true := by
  unfold attention
  split
  · exact hm
  · exact hf _ _ _

@[simp] theorem keySide_wf (c : Ctx) (s : State) (o : OwnedBerth) (l u : Nat) (more : List PageId) (f : List (List Nat) → State → Ended) (hm : Cells.wf s.mem.cells = true) (hf : ∀ x t, Cells.wf t.mem.cells = true → Cells.wf (f x t).state.mem.cells = true) : Cells.wf (keySide c s o l u more f).state.mem.cells = true := by
  refine needPages_wf _ _ _ _ hm ?_
  split
  · exact hm
  · dsimp only
    have hr := scoreRows_wf c s o l u hm
    split
    · exact hr
    · exact hf _ _ hr

@[simp] theorem valueSide_wf (c : Ctx) (s0 s : State) (o : OwnedBerth) (l u : Nat) (ws : List (List Nat)) (f : List (List Nat) → OpCount → State → Ended) (h0 : Cells.wf s0.mem.cells = true) (hm : Cells.wf s.mem.cells = true) (hf : ∀ x n t, Cells.wf t.mem.cells = true → Cells.wf (f x n t).state.mem.cells = true) : Cells.wf (valueSide c s0 s o l u ws f).state.mem.cells = true := by
  unfold valueSide
  dsimp only
  have hr := foldRows_wf c s o l u ws hm
  split
  · exact hr
  · refine needPages_wf _ _ _ _ h0 ?_
    split
    · exact h0
    · have hv (fs : List (List Nat × Nat × List Nat)) : Cells.wf (valueRows c (foldRows c s o l u ws).2.2 o l u fs).2.2.mem.cells = true := valueRows_wf _ _ _ _ _ _ hr
      split
      · exact hv _
      · exact hf _ _ _ (hv _)

end Graph

end Sys2Proof.Machine
end

