-- ==== Sys2Proof/Laws/FramePersist.lean ====
section
/-! SUPPORT. Frames of Persist.lean: which units of the state each of its functions leaves as they are. -/

namespace Sys2Proof.Machine

set_option linter.unusedSimpArgs false
set_option linter.unusedVariables false
set_option linter.unusedTactic false
set_option linter.unreachableTactic false
set_option Elab.async false

open Sys2Proof Sys2Proof.Machine

theorem persist_frame (s : State) (k : Nat) (v : Val) : Keeps14 s (persist s k v) := by
  unfold Keeps14 persist
  simp [State.bump_frame ..]

theorem keepMaintained_frame (s : State) : Keeps14 s (keepMaintained s) := by
  unfold Keeps14 keepMaintained
  simp [persist_frame ..]

theorem clearKeys_frame (s : State) (mine : Nat → Bool) : Keeps14 s (clearKeys s mine) := by
  unfold Keeps14 clearKeys
  simp [persist_frame ..]

end Sys2Proof.Machine
end

