-- ==== Sys2Proof/Laws/FrameChangeRows.lean ====
section
/-! SUPPORT. Frames of ChangeRows.lean: which units of the state each of its functions leaves as they are. -/

namespace Sys2Proof.Machine

set_option linter.unusedSimpArgs false
set_option linter.unusedVariables false
set_option linter.unusedTactic false
set_option linter.unreachableTactic false
set_option Elab.async false

open Sys2Proof Sys2Proof.Machine

theorem intake_frame (s : State) (cmd : Nat) (c : HostCmd) (deaccession : Bool) (vec metadata : Bytes) : Keeps278 s (intake s cmd c deaccession vec metadata) := by
  unfold Keeps278 intake
  simp [startCmd_frame .., sendChange_frame ..]

theorem execAccession_frame (cmd : Nat) (vec metadata : HostRead) (s : State) {post : State} (h : execAccession cmd vec metadata s = .next post) : Keeps278 s post := by
  unfold execAccession at h
  dsimp only at h
  repeat' split at h
  all_goals (injection h with h; subst h; simp [State.finish_frame .., holdInputs_frame .., touchInput_frame .., State.refuse_frame .., intake_frame .., holdCmd_frame .., fetchInput_frame .., Keeps278])

theorem execDeaccession_frame (cmd : Nat) (s : State) {post : State} (h : execDeaccession cmd s = .next post) : Keeps278 s post := by
  unfold execDeaccession at h
  repeat' split at h
  all_goals (injection h with h; subst h; simp [State.finish_frame .., intake_frame .., Keeps278])

theorem execChangeAtPrimary_frame (src : Nat) (change : Change) (s : State) {post : State} (h : execChangeAtPrimary src change s = .next post) : Keeps278 s post := by
  unfold execChangeAtPrimary at h
  repeat' split at h
  all_goals (injection h with h; subst h; simp [primaryTake_frame .., answerMsg_frame .., Keeps278])

theorem execChangeHeldAccept_frame (s : State) {post : State} (h : execChangeHeldAccept s = .next post) : Keeps278 s post := by
  unfold execChangeHeldAccept at h
  repeat' split at h
  all_goals (injection h with h; subst h; simp [acceptChange_frame .., Keeps278])

theorem execChangeAtReplica_frame (src : Nat) (change : Change) (seq commit result : Nat) (s : State) {post : State} (h : execChangeAtReplica src change seq commit result s = .next post) : Keeps278 s post := by
  unfold execChangeAtReplica at h
  repeat' split at h
  all_goals (injection h with h; subst h; simp [replicaTake_frame .., answerMsg_frame .., Keeps278])

theorem execChangeAcknowledgement_frame (src : Nat) (ack : Ack) (s : State) {post : State} (h : execChangeAcknowledgement src ack s = .next post) : Keeps278 s post := by
  unfold execChangeAcknowledgement at h
  repeat' split at h
  all_goals (injection h with h; subst h; simp [noteAck_frame .., answerMsg_frame .., Keeps278])

theorem execChangeOutcome_frame (src : Nat) (done : ChangeDone) (s : State) {post : State} (h : execChangeOutcome src done s = .next post) : Keeps278 s post := by
  unfold execChangeOutcome at h
  dsimp only at h
  repeat' split at h
  all_goals (injection h with h; subst h; simp [answerMsg_frame .., sendChange_frame .., intakeDone_frame .., Keeps278])

theorem execReplicaAckTimeout_frame (coll shoal seq : Nat) (s : State) {post : State} (h : execReplicaAckTimeout coll shoal seq s = .next post) : Keeps278 s post := by
  unfold execReplicaAckTimeout at h
  dsimp only at h
  repeat' split at h
  all_goals (injection h with h; subst h; simp [markStale_frame .., Keeps278])

theorem execIntakeGiveUp_frame (tag : Nat) (s : State) {post : State} (h : execIntakeGiveUp tag s = .next post) : Keeps276 s post := by
  unfold execIntakeGiveUp at h
  repeat' split at h
  all_goals (injection h with h; subst h; simp [State.refuse_frame .., Keeps276])

theorem execSlotSettle_frame (s : State) {post : State} (h : execSlotSettle s = .next post) : Keeps48 s post := by
  unfold execSlotSettle at h
  repeat' split at h
  all_goals (injection h with h; subst h; simp [Keeps48])

theorem execIndexAgeLimit_frame (s : State) {post : State} (h : execIndexAgeLimit s = .next post) : Keeps265 s post := by
  unfold execIndexAgeLimit at h
  repeat' split at h
  all_goals (injection h with h; subst h; simp [cutFrag_frame .., completeQuery_frame .., Keeps265])

theorem reclaimTrees_frame (s : State) : Keeps187 s (reclaimTrees s) := by
  unfold Keeps187 reclaimTrees
  simp [pruneDirectory_frame .., placeTrees_frame .., dropKept_frame ..]

theorem execRetiredReclaim_frame (s : State) {post : State} (h : execRetiredReclaim s = .next post) : Keeps187 s post := by
  unfold execRetiredReclaim at h
  repeat' split at h
  all_goals (injection h with h; subst h; simp [reclaimTrees_frame .., Keeps187])

theorem execUpkeepWindowOpen_frame (s : State) {post : State} (h : execUpkeepWindowOpen s = .next post) : Keeps48 s post := by
  unfold execUpkeepWindowOpen at h
  repeat' split at h
  all_goals (injection h with h; subst h; simp [planUpkeep_frame .., Keeps48])

theorem execUpkeepWindowClose_frame (s : State) {post : State} (h : execUpkeepWindowClose s = .next post) : Keeps187 s post := by
  unfold execUpkeepWindowClose at h
  repeat' split at h
  all_goals (injection h with h; subst h; simp [endJobs_frame .., Keeps187])

theorem execShoalFillStream_frame (src : Nat) (item : FillItem) (s : State) {post : State} (h : execShoalFillStream src item s = .next post) : Keeps278 s post := by
  unfold execShoalFillStream at h
  repeat' split at h
  all_goals (injection h with h; subst h; simp [fillTake_frame .., answerMsg_frame .., Keeps278])

theorem execFillComplete_frame (coll shoal : Nat) (s : State) {post : State} (h : execFillComplete coll shoal s = .next post) : Keeps48 s post := by
  unfold execFillComplete at h
  repeat' split at h
  all_goals (injection h with h; subst h; simp [Keeps48])

theorem execShoalRelease_frame (coll shoal : Nat) (s : State) {post : State} (h : execShoalRelease coll shoal s = .next post) : Keeps187 s post := by
  unfold execShoalRelease at h
  repeat' split at h
  all_goals (injection h with h; subst h; simp [dropKept_frame .., dropCopy_frame .., Keeps187])

theorem clearSlot_frame (s : State) (c : Nat) : Keeps14 s (clearSlot s c) := by
  unfold Keeps14 clearSlot
  simp [clearKeys_frame ..]

theorem dropRecords_frame (s : State) (c : Nat) : Keeps49 s (dropRecords s c) := by
  unfold Keeps49 dropRecords
  simp

theorem execCollectionStorageRelease_frame (coll : Nat) (s : State) {post : State} (h : execCollectionStorageRelease coll s = .next post) : Keeps199 s post := by
  unfold execCollectionStorageRelease at h
  repeat' split at h
  all_goals (injection h with h; subst h; simp [dropCopy_frame .., dropRecords_frame .., clearSlot_frame .., Keeps199])

end Sys2Proof.Machine
end

