-- ==== Sys2Proof/Laws/CellsChangeRows.lean ====
section
/-! SUPPORT. The functions of ChangeRows.lean keep the canonical form of the memory's cells. -/

namespace Sys2Proof.Machine

set_option linter.unusedSimpArgs false
set_option linter.unusedVariables false
set_option linter.unusedTactic false
set_option linter.unreachableTactic false
set_option Elab.async false

open Sys2Proof Sys2Proof.Machine

@[simp] theorem intake_wf (s : State) (cmd : Nat) (c : HostCmd) (deaccession : Bool) (vec metadata : Bytes) (hm : Cells.wf s.mem.cells = true) : Cells.wf (intake s cmd c deaccession vec metadata).mem.cells = true := by
  unfold intake
  simp +contextual (maxDischargeDepth := 20) [startCmd_frame .., hm]

theorem execAccession_wf (cmd : Nat) (vec metadata : HostRead) (s : State) (hm : Cells.wf s.mem.cells = true) {post : State} (h : execAccession cmd vec metadata s = .next post) : Cells.wf post.mem.cells = true := by
  unfold execAccession at h
  dsimp only at h
  repeat' split at h
  all_goals (injection h with h; subst h; simp +contextual (maxDischargeDepth := 20) [hm])

theorem execDeaccession_wf (cmd : Nat) (s : State) (hm : Cells.wf s.mem.cells = true) {post : State} (h : execDeaccession cmd s = .next post) : Cells.wf post.mem.cells = true := by
  unfold execDeaccession at h
  repeat' split at h
  all_goals (injection h with h; subst h; simp +contextual (maxDischargeDepth := 20) [hm])

theorem execChangeAtPrimary_wf (src : Nat) (change : Change) (s : State) (hm : Cells.wf s.mem.cells = true) {post : State} (h : execChangeAtPrimary src change s = .next post) : Cells.wf post.mem.cells = true := by
  unfold execChangeAtPrimary at h
  repeat' split at h
  all_goals (injection h with h; subst h; simp +contextual (maxDischargeDepth := 20) [answerMsg_frame .., hm])

theorem execChangeHeldAccept_wf (s : State) (hm : Cells.wf s.mem.cells = true) {post : State} (h : execChangeHeldAccept s = .next post) : Cells.wf post.mem.cells = true := by
  unfold execChangeHeldAccept at h
  repeat' split at h
  all_goals (injection h with h; subst h; simp +contextual (maxDischargeDepth := 20) [hm])

theorem execChangeAtReplica_wf (src : Nat) (change : Change) (seq commit result : Nat) (s : State) (hm : Cells.wf s.mem.cells = true) {post : State} (h : execChangeAtReplica src change seq commit result s = .next post) : Cells.wf post.mem.cells = true := by
  unfold execChangeAtReplica at h
  repeat' split at h
  all_goals (injection h with h; subst h; simp +contextual (maxDischargeDepth := 20) [answerMsg_frame .., hm])

theorem execChangeAcknowledgement_wf (src : Nat) (ack : Ack) (s : State) (hm : Cells.wf s.mem.cells = true) {post : State} (h : execChangeAcknowledgement src ack s = .next post) : Cells.wf post.mem.cells = true := by
  unfold execChangeAcknowledgement at h
  repeat' split at h
  all_goals (injection h with h; subst h; simp +contextual (maxDischargeDepth := 20) [answerMsg_frame .., hm])

theorem execChangeOutcome_wf (src : Nat) (done : ChangeDone) (s : State) (hm : Cells.wf s.mem.cells = true) {post : State} (h : execChangeOutcome src done s = .next post) : Cells.wf post.mem.cells = true := by
  unfold execChangeOutcome at h
  dsimp only at h
  repeat' split at h
  all_goals (injection h with h; subst h; simp +contextual (maxDischargeDepth := 20) [answerMsg_frame .., hm])

theorem execReplicaAckTimeout_wf (coll shoal seq : Nat) (s : State) (hm : Cells.wf s.mem.cells = true) {post : State} (h : execReplicaAckTimeout coll shoal seq s = .next post) : Cells.wf post.mem.cells = true := by
  unfold execReplicaAckTimeout at h
  dsimp only at h
  repeat' split at h
  all_goals (injection h with h; subst h; simp +contextual (maxDischargeDepth := 20) [hm])

theorem execIntakeGiveUp_wf (tag : Nat) (s : State) (hm : Cells.wf s.mem.cells = true) {post : State} (h : execIntakeGiveUp tag s = .next post) : Cells.wf post.mem.cells = true := by
  unfold execIntakeGiveUp at h
  repeat' split at h
  all_goals (injection h with h; subst h; simp +contextual (maxDischargeDepth := 20) [hm])

theorem execIndexAgeLimit_wf (s : State) (hm : Cells.wf s.mem.cells = true) {post : State} (h : execIndexAgeLimit s = .next post) : Cells.wf post.mem.cells = true := by
  unfold execIndexAgeLimit at h
  repeat' split at h
  all_goals (injection h with h; subst h; simp +contextual (maxDischargeDepth := 20) [hm])

@[simp] theorem reclaimTrees_wf (s : State) (hm : Cells.wf s.mem.cells = true) : Cells.wf (reclaimTrees s).mem.cells = true := by
  unfold reclaimTrees
  simp +contextual (maxDischargeDepth := 20) [pruneDirectory_frame .., hm]

theorem execRetiredReclaim_wf (s : State) (hm : Cells.wf s.mem.cells = true) {post : State} (h : execRetiredReclaim s = .next post) : Cells.wf post.mem.cells = true := by
  unfold execRetiredReclaim at h
  repeat' split at h
  all_goals (injection h with h; subst h; simp +contextual (maxDischargeDepth := 20) [hm])

theorem execUpkeepWindowClose_wf (s : State) (hm : Cells.wf s.mem.cells = true) {post : State} (h : execUpkeepWindowClose s = .next post) : Cells.wf post.mem.cells = true := by
  unfold execUpkeepWindowClose at h
  repeat' split at h
  all_goals (injection h with h; subst h; simp +contextual (maxDischargeDepth := 20) [hm])

theorem execShoalFillStream_wf (src : Nat) (item : FillItem) (s : State) (hm : Cells.wf s.mem.cells = true) {post : State} (h : execShoalFillStream src item s = .next post) : Cells.wf post.mem.cells = true := by
  unfold execShoalFillStream at h
  repeat' split at h
  all_goals (injection h with h; subst h; simp +contextual (maxDischargeDepth := 20) [answerMsg_frame .., hm])

theorem execShoalRelease_wf (coll shoal : Nat) (s : State) (hm : Cells.wf s.mem.cells = true) {post : State} (h : execShoalRelease coll shoal s = .next post) : Cells.wf post.mem.cells = true := by
  unfold execShoalRelease at h
  repeat' split at h
  all_goals (injection h with h; subst h; simp +contextual (maxDischargeDepth := 20) [hm])

theorem execCollectionStorageRelease_wf (coll : Nat) (s : State) (hm : Cells.wf s.mem.cells = true) {post : State} (h : execCollectionStorageRelease coll s = .next post) : Cells.wf post.mem.cells = true := by
  unfold execCollectionStorageRelease at h
  split at h
  · exact next_wf h hm
  · split at h
    · injection h with h
      subst h
      have h1 := foldl_wf (fun s sh => dropCopy s coll sh) ((s.idx.copies.filter fun p => p.coll == coll).map (·.shoal)) s (fun s sh h => dropCopy_wf _ _ _ h) hm
      simpa [dropRecords_frame .., clearSlot_frame ..] using h1
    · exact next_wf h hm

end Sys2Proof.Machine
end

