-- ==== Sys2Proof/Laws/FrameStored.lean ====
section
/-! SUPPORT. Frames of Stored.lean: which units of the state each of its functions leaves as they are. -/

namespace Sys2Proof.Machine

set_option linter.unusedSimpArgs false
set_option linter.unusedVariables false
set_option linter.unusedTactic false
set_option linter.unreachableTactic false
set_option Elab.async false

open Sys2Proof

theorem strikeLine_frame (s : State) (n : Nat) (pattern : Bytes) : Keeps15 s (strikeLine s n pattern) := by
  unfold strikeLine
  dsimp only
  repeat' split
  all_goals simp [Keeps15]

end Sys2Proof.Machine
end

