-- ==== Sys2Proof/Laws/CellsStored.lean ====
section
/-! SUPPORT. The functions of Stored.lean keep the canonical form of the memory's cells. -/

namespace Sys2Proof.Machine

set_option linter.unusedSimpArgs false
set_option linter.unusedVariables false
set_option linter.unusedTactic false
set_option linter.unreachableTactic false
set_option Elab.async false

open Sys2Proof

@[simp] theorem strikeLine_wf (s : State) (n : Nat) (pattern : Bytes) (hm : Cells.wf s.mem.cells = true) : Cells.wf (strikeLine s n pattern).mem.cells = true := by
  unfold strikeLine
  dsimp only
  repeat' split
  all_goals simp +contextual (maxDischargeDepth := 20) [hm]

end Sys2Proof.Machine
end

