-- ==== Sys2Proof/Laws/FrameStrandPort.lean ====
section
/-! SUPPORT. Frames of StrandPort.lean: which units of the state each of its functions leaves as they are. -/

namespace Sys2Proof.Machine

set_option linter.unusedSimpArgs false
set_option linter.unusedVariables false
set_option linter.unusedTactic false
set_option linter.unreachableTactic false
set_option Elab.async false

open Sys2Proof Sys2Proof.Machine

theorem sendBlock_frame (s : State) (p : Nat) (b : Bytes) : Keeps3 s (sendBlock s p b) := by
  unfold Keeps3 sendBlock
  simp [State.emit_frame ..]

theorem returnCredits_frame (s : State) (f : Frame) (pool : Option Pool) : Keeps3 s (returnCredits s f pool) := by
  unfold returnCredits
  repeat' split
  all_goals simp [sendBlock_frame .., Keeps3]

theorem clearLink_frame (s : State) (p : Nat) : Keeps9 s (clearLink s p) := by
  unfold Keeps9 clearLink
  simp [returnCredits_frame .., State.bump_frame .., mapPort_frame ..]

theorem enterDetect_frame (s : State) (p : Nat) : Keeps9 s (enterDetect s p) := by
  unfold Keeps9 enterDetect
  simp [State.bump_frame .., mapPort_frame .., clearLink_frame ..]

theorem enterDown_frame (s : State) (p : Nat) : Keeps9 s (enterDown s p) := by
  unfold Keeps9 enterDown
  simp [mapPort_frame .., clearLink_frame ..]

theorem startPorts_frame (s : State) : Keeps6 s (startPorts s) := by
  unfold Keeps6 startPorts
  simp [mapPort_frame ..]

theorem moveLane_frame (s : State) (p lane : Nat) : Keeps10 s (moveLane s p lane) := by
  unfold moveLane
  dsimp only
  repeat' split
  all_goals simp [State.drawFree_frame .., sendBlock_frame .., mapPort_frame .., Keeps10]

theorem sendNak_frame (s : State) (p : Nat) : Keeps87 s (sendNak s p) := by
  unfold Keeps87 sendNak
  simp [sendBlock_frame .., State.bump_frame .., mapPort_frame ..]

theorem ackLink_frame (s : State) (p link : Nat) : Keeps3 s (ackLink s p link) := by
  unfold Keeps3 ackLink
  simp [sendBlock_frame ..]

theorem linkReceive_frame (s : State) (p link : Nat) (f : Frame) (headerCrc frameCrc : Nat) (fecLost : Bool) : Keeps9 s (linkReceive s p link f headerCrc frameCrc fecLost).2 := by
  unfold Keeps9 linkReceive
  simp [sendNak_frame .., State.bump_frame .., ackLink_frame .., mapPort_frame .., returnCredits_frame ..]

theorem forwardFrame_frame (s : State) (p : Nat) (f : Frame) : Keeps9 s (forwardFrame s p f) := by
  unfold forwardFrame
  repeat' split
  all_goals simp [returnCredits_frame .., State.bump_frame .., State.unrouted_frame .., enqueue_frame .., Keeps9]

theorem queueDelay_frame (s : State) (w : Queued) : Keeps2 s (queueDelay s w).2 := by
  unfold Keeps2 queueDelay
  simp [State.drawFree_frame ..]

theorem startFrame_frame (s : State) (p q : Nat) (ds : List Nat) : Keeps244 s (startFrame s p q ds) := by
  unfold startFrame
  dsimp only
  repeat' split
  all_goals simp [queueDelay_frame .., mapPort_frame .., State.emit_frame .., returnCredits_frame .., State.bump_frame .., Keeps244]

theorem stompForward_frame (s : State) (p : Nat) (f : Frame) : Keeps6 s (stompForward s p f) := by
  unfold stompForward
  repeat' split
  all_goals simp [mapPort_frame .., Keeps6]

theorem tickPort_frame (s : State) (p : Nat) : Keeps6 s (tickPort s p) := by
  unfold Keeps6 tickPort
  simp [mapPort_frame ..]

theorem execSignalDetect_frame (port : Nat) (s : State) {post : State} (h : execSignalDetect port s = .next post) : Keeps6 s post := by
  unfold execSignalDetect at h
  repeat' split at h
  all_goals (injection h with h; subst h; simp [mapPort_frame .., Keeps6])

theorem execEqualiseDone_frame (port : Nat) (s : State) {post : State} (h : execEqualiseDone port s = .next post) : Keeps6 s post := by
  unfold execEqualiseDone at h
  repeat' split at h
  all_goals (injection h with h; subst h; simp [mapPort_frame .., Keeps6])

theorem execAlignDone_frame (port lanes : Nat) (reversed : Bool) (polarity : Nat) (s : State) {post : State} (h : execAlignDone port lanes reversed polarity s = .next post) : Keeps9 s post := by
  unfold execAlignDone at h
  dsimp only at h
  repeat' split at h
  all_goals (injection h with h; subst h; simp [enterDown_frame .., mapPort_frame .., sendBlock_frame .., Keeps9])

theorem execHello_frame (port : Nat) (block : Bytes) (s : State) {post : State} (h : execHello port block s = .next post) : Keeps6 s post := by
  unfold execHello at h
  dsimp only at h
  repeat' split at h
  all_goals (injection h with h; subst h; simp [mapPort_frame .., Keeps6])

theorem execTrainTimeout_frame (port : Nat) (s : State) {post : State} (h : execTrainTimeout port s = .next post) : Keeps9 s post := by
  unfold execTrainTimeout at h
  repeat' split at h
  all_goals (injection h with h; subst h; simp [enterDown_frame .., Keeps9])

theorem execDownRetry_frame (port : Nat) (s : State) {post : State} (h : execDownRetry port s = .next post) : Keeps9 s post := by
  unfold execDownRetry at h
  repeat' split at h
  all_goals (injection h with h; subst h; simp [enterDetect_frame .., Keeps9])

theorem execMiswiredHelloRepeat_frame (port : Nat) (s : State) {post : State} (h : execMiswiredHelloRepeat port s = .next post) : Keeps11 s post := by
  unfold execMiswiredHelloRepeat at h
  repeat' split at h
  all_goals (injection h with h; subst h; simp [sendBlock_frame .., mapPort_frame .., Keeps11])

theorem execLanemap_frame (port : Nat) (block : Bytes) (s : State) {post : State} (h : execLanemap port block s = .next post) : Keeps6 s post := by
  unfold execLanemap at h
  repeat' split at h
  all_goals (injection h with h; subst h; simp [mapPort_frame .., Keeps6])

theorem execLaneSwitch_frame (port : Nat) (s : State) {post : State} (h : execLaneSwitch port s = .next post) : Keeps6 s post := by
  unfold execLaneSwitch at h
  repeat' split at h
  all_goals (injection h with h; subst h; simp [mapPort_frame .., Keeps6])

theorem execCredit_frame (port : Nat) (block : Bytes) (s : State) {post : State} (h : execCredit port block s = .next post) : Keeps6 s post := by
  unfold execCredit at h
  repeat' split at h
  all_goals (injection h with h; subst h; simp [mapPort_frame .., Keeps6])

theorem execAck_frame (port : Nat) (block : Bytes) (s : State) {post : State} (h : execAck port block s = .next post) : Keeps6 s post := by
  unfold execAck at h
  repeat' split at h
  all_goals (injection h with h; subst h; simp [mapPort_frame .., Keeps6])

theorem execNak_frame (port : Nat) (block : Bytes) (s : State) {post : State} (h : execNak port block s = .next post) : Keeps11 s post := by
  unfold execNak at h
  repeat' split at h
  all_goals (injection h with h; subst h; simp [mapPort_frame .., State.emit_frame .., Keeps11])

theorem execEgressSelect_frame (port : Nat) (s : State) {post : State} (h : execEgressSelect port s = .next post) : Keeps244 s post := by
  unfold execEgressSelect at h
  repeat' split at h
  all_goals (injection h with h; subst h; simp [startFrame_frame .., Keeps244])

theorem execHistogramPeriod_frame (s : State) {post : State} (h : execHistogramPeriod s = .next post) : Keeps7 s post := by
  unfold execHistogramPeriod at h
  dsimp only at h
  split at h
  · cases h; simp [State.setVal_frame .., mapPort_frame .., Keeps7]
  · cases h
    apply foldl_keeps (R := Keeps7)
    · simp [State.setVal_frame .., mapPort_frame .., Keeps7]
    · simp +contextual [State.setVal_frame .., mapPort_frame .., Keeps7]
    · intro s x
      simp only [State.setVal_frame .., mapPort_frame .., Keeps7, and_self]

end Sys2Proof.Machine
end

