-- ==== Sys2Proof/Laws/FrameFaults.lean ====
section
/-! SUPPORT. Frames of Faults.lean: which units of the state each of its functions leaves as they are. -/

namespace Sys2Proof.Machine

set_option linter.unusedSimpArgs false
set_option linter.unusedVariables false
set_option linter.unusedTactic false
set_option linter.unreachableTactic false
set_option Elab.async false

open Sys2Proof Sys2Proof.Machine

theorem takeSpare_frame (s : State) (kind parent : Nat) : Keeps41 s (takeSpare s kind parent) := by
  unfold Keeps41 takeSpare
  simp

theorem mapRow_frame (s : State) (u row : Nat) : Keeps41 s (mapRow s u row) := by
  unfold Keeps41 mapRow
  simp [takeSpare_frame ..]

theorem degrade_frame (s : State) (kind : Nat) : Keeps1 s (degrade s kind) := by
  unfold Keeps1 degrade
  simp [State.setNum_frame ..]

theorem leaveCaches_frame (s : State) (cluster : Nat) : Keeps16 s (leaveCaches s cluster) := by
  unfold Keeps16 leaveCaches
  simp [Coh.flush_frame ..]

theorem clusterFault_frame (s : State) (cluster : Nat) : Keeps247 s (clusterFault s cluster).2 := by
  unfold Keeps247 clusterFault
  simp [Coh.emptySlice_frame .., leaveCaches_frame .., takeSpare_frame .., Coh.passSlots_frame .., degrade_frame ..]

theorem coreFault_frame (s : State) (core : Nat) : Keeps247 s (coreFault s core).2 := by
  unfold Keeps247 coreFault
  simp [takeSpare_frame .., clusterFault_frame .., degrade_frame ..]

theorem moveFixed_frame (s : State) (a b : Nat) : Keeps317 s (moveFixed s a b) := by
  unfold Keeps317 moveFixed
  simp

theorem copyFixed_frame (s : State) (a : Nat) : Keeps317 s (copyFixed s a) := by
  unfold copyFixed
  repeat' split
  all_goals simp [Coh.flushPage_frame .., moveFixed_frame .., Keeps317]

theorem leavePage_frame (s : State) (a : Nat) : Keeps318 s (leavePage s a) := by
  unfold leavePage
  repeat' split
  all_goals simp [moveExtent_frame .., startToMemory_frame .., copyFixed_frame .., Keeps318]

theorem leavePages_frame (s : State) : Keeps318 s (leavePages s) := by
  unfold Keeps318 leavePages
  simp [leavePage_frame ..]

theorem retirePage_frame (s : State) (a : Nat) : Keeps320 s (retirePage s a) := by
  unfold retirePage
  dsimp only
  repeat' split
  all_goals simp [State.setNum_frame .., leavePage_frame .., State.bump_frame .., moveFixed_frame .., startToMemory_frame .., Keeps320]

theorem rowFault_frame (s : State) (u place : Nat) (column : Option Nat) (tested : Bool) (detail : Nat) : Keeps321 s (rowFault s u place column tested detail).2 := by
  unfold Keeps321 rowFault
  simp [mapRow_frame .., takeSpare_frame .., degrade_frame .., retirePage_frame ..]

theorem laneFault_frame (s : State) (port lane : Nat) : Keeps245 s (laneFault s port lane).2 := by
  unfold Keeps245 laneFault
  simp [mapPort_frame .., takeSpare_frame .., moveLane_frame .., degrade_frame .., enterDown_frame .., enterDetect_frame ..]

theorem loseDie_frame (s : State) (c : Chan) (die : Nat) : Keeps14 s (loseDie s c die) := by
  unfold Keeps14 loseDie
  simp [State.bump_frame .., State.setNum_frame ..]

theorem dieFault_frame (s : State) (n target lun : Nat) : Keeps207 s (dieFault s n target lun) := by
  unfold dieFault
  repeat' split
  all_goals simp [loseDie_frame .., startFill_frame .., State.bump_frame .., Berth.mapRecord_frame .., Keeps207]

theorem lastingFault_frame (s : State) (u place : Nat) (column : Option Nat) (tested : Bool) (detail : Nat) : Keeps296 s (lastingFault s u place column tested detail).2 := by
  unfold lastingFault
  repeat' split
  all_goals simp [coreFault_frame .., clusterFault_frame .., takeSpare_frame .., degrade_frame .., rowFault_frame .., Nb.mapBank_frame .., laneFault_frame .., dieFault_frame .., Keeps296]

theorem noteTransient_frame (s : State) (u place : Nat) (e : EventWait) : Keeps104 s (noteTransient s u place e) := by
  unfold Keeps104 noteTransient
  simp [State.bump_frame .., State.logEventAt_frame .., State.logEvent_frame ..]

theorem foundByTest_frame (s : State) : Keeps2 s (foundByTest s).2 := by
  unfold Keeps2 foundByTest
  simp [State.drawFree_frame ..]

theorem noteLasting_frame (s : State) (u place : Nat) (column : Option Nat) (tested : Bool) (es : List EventWait) : Keeps107 s (noteLasting s u place column tested es) := by
  unfold Keeps107 noteLasting
  simp [lastingFault_frame .., foundByTest_frame .., State.bump_frame .., State.logEventAt_frame .., State.logEvent_frame ..]

theorem classifyByCount_frame (s : State) (u place : Nat) (e : EventWait) : Keeps107 s (classifyByCount s u place e) := by
  unfold Keeps107 classifyByCount
  simp [noteLasting_frame .., noteTransient_frame ..]

theorem takeDieBlock_frame (s : State) (u : Nat) : Keeps12 s (takeDieBlock s u).2 := by
  unfold takeDieBlock
  dsimp only
  repeat' split
  all_goals simp [Keeps12]

theorem freeDieBlock_frame (s : State) (t : Test) : Keeps12 s (freeDieBlock s t) := by
  unfold freeDieBlock
  repeat' split
  all_goals simp [Keeps12]

theorem beginTest_frame (s : State) (t : Test) : Keeps304 s (beginTest s t) := by
  unfold Keeps304 beginTest
  simp [takeDieBlock_frame .., mapRow_frame .., moveLane_frame ..]

theorem dropTest_frame (s : State) (t : Test) : Keeps41 s (dropTest s t) := by
  unfold Keeps41 dropTest
  simp

theorem beginNext_frame (n : Nat) (s : State) (n' : Nat) : Keeps107 s (beginNext n s n') := by
  induction n generalizing s with
  | zero => simp [beginNext, Keeps107]
  | succ n ih =>
    unfold beginNext
    repeat' split
    all_goals simp [classifyByCount_frame .., dropTest_frame .., beginTest_frame .., Keeps107, ih]

theorem startTest_frame (s : State) (u place : Nat) (events : List EventWait) (requested afterReset : Bool) : Keeps107 s (startTest s u place events requested afterReset) := by
  unfold Keeps107 startTest
  simp [beginNext_frame .., moveLane_frame ..]

theorem lanePassed_frame (s : State) (u : Nat) : Keeps6 s (lanePassed s u) := by
  unfold Keeps6 lanePassed
  simp [mapPort_frame ..]

theorem raiseEvent_frame (s : State) (u place : Nat) (e : EventWait) : Keeps107 s (raiseEvent s u place e) := by
  unfold Keeps107 raiseEvent
  simp [classifyByCount_frame .., startTest_frame ..]

theorem rowPassed_frame (s : State) (t : Test) : Keeps41 s (rowPassed s t) := by
  unfold Keeps41 rowPassed
  simp

theorem endTest_frame (s : State) (t : Test) (column : Nat) (passed : Bool) : Keeps107 s (endTest s t column passed) := by
  unfold Keeps107 endTest
  simp [freeDieBlock_frame .., dropTest_frame .., noteTransient_frame .., rowPassed_frame .., lanePassed_frame .., noteLasting_frame .., beginNext_frame ..]

theorem loseLine_frame (s : State) (line : Nat) : Keeps108 s (loseLine s line) := by
  unfold Keeps108 loseLine
  simp [State.bump_frame .., State.logEvent_frame ..]

theorem markError_frame (s : State) (r : Sys2Proof.ErrorReport) : Keeps109 s (markError s r) := by
  unfold Keeps109 markError
  simp [strikeLine_frame .., loseLine_frame ..]

theorem detect_frame (s : State) (r : Sys2Proof.ErrorReport) : Keeps107 s (detect s r) := by
  unfold Keeps107 detect
  simp [markError_frame .., State.logEvent_frame .., raiseEvent_frame .., State.bump_frame ..]

theorem nbLineError_frame (s : State) (bank row : Nat) : Keeps107 s (nbLineError s bank row) := by
  unfold Keeps107 nbLineError
  simp [raiseEvent_frame .., State.bump_frame ..]

theorem settleRows_frame (s : State) : Keeps107 s (settleRows s) := by
  unfold Keeps107 settleRows
  simp [nbLineError_frame ..]

end Sys2Proof.Machine
end

