-- ==== Sys2Proof/Laws/CellsFaults.lean ====
section
/-! SUPPORT. The functions of Faults.lean keep the canonical form of the memory's cells. -/

namespace Sys2Proof.Machine

set_option linter.unusedSimpArgs false
set_option linter.unusedVariables false
set_option linter.unusedTactic false
set_option linter.unreachableTactic false
set_option Elab.async false

open Sys2Proof Sys2Proof.Machine

@[simp] theorem leaveCaches_wf (s : State) (cluster : Nat) (hm : Cells.wf s.mem.cells = true) : Cells.wf (leaveCaches s cluster).mem.cells = true := by
  unfold leaveCaches
  simp +contextual (maxDischargeDepth := 20) [hm]

@[simp] theorem clusterFault_wf (s : State) (cluster : Nat) (hm : Cells.wf s.mem.cells = true) : Cells.wf (clusterFault s cluster).2.mem.cells = true := by
  unfold clusterFault
  simp +contextual (maxDischargeDepth := 20) [takeSpare_frame .., Coh.passSlots_frame .., degrade_frame .., hm]

@[simp] theorem coreFault_wf (s : State) (core : Nat) (hm : Cells.wf s.mem.cells = true) : Cells.wf (coreFault s core).2.mem.cells = true := by
  unfold coreFault
  simp +contextual (maxDischargeDepth := 20) [takeSpare_frame .., degrade_frame .., hm]

@[simp] theorem moveFixed_wf (s : State) (a b : Nat) (hm : Cells.wf s.mem.cells = true) : Cells.wf (moveFixed s a b).mem.cells = true := by
  unfold moveFixed
  simp +contextual (maxDischargeDepth := 20) [hm]

@[simp] theorem copyFixed_wf (s : State) (a : Nat) (hm : Cells.wf s.mem.cells = true) : Cells.wf (copyFixed s a).mem.cells = true := by
  unfold copyFixed
  split
  · exact hm
  · rename_i b _
    dsimp only
    have h1 := Coh.flushPage_wf s a hm
    exact moveFixed_wf _ _ _ (Mem.freePage_wf _ _ (copyBad_wf _ _ _ _ (foldl_mem_wf _ _ _ (fun m t h => copyLine_wf _ _ _ m t h) h1)))

@[simp] theorem leavePage_wf (s : State) (a : Nat) (hm : Cells.wf s.mem.cells = true) : Cells.wf (leavePage s a).mem.cells = true := by
  unfold leavePage
  repeat' split
  all_goals simp +contextual (maxDischargeDepth := 20) [hm]

@[simp] theorem leavePages_wf (s : State) (hm : Cells.wf s.mem.cells = true) : Cells.wf (leavePages s).mem.cells = true := by
  unfold leavePages
  simp +contextual (maxDischargeDepth := 20) [hm]

@[simp] theorem retirePage_wf (s : State) (a : Nat) (hm : Cells.wf s.mem.cells = true) : Cells.wf (retirePage s a).mem.cells = true := by
  unfold retirePage
  dsimp only
  repeat' split
  all_goals simp +contextual (maxDischargeDepth := 20) [State.setNum_frame .., State.bump_frame .., hm]

@[simp] theorem rowFault_wf (s : State) (u place : Nat) (column : Option Nat) (tested : Bool) (detail : Nat) (hm : Cells.wf s.mem.cells = true) : Cells.wf (rowFault s u place column tested detail).2.mem.cells = true := by
  unfold rowFault
  simp +contextual (maxDischargeDepth := 20) [mapRow_frame .., takeSpare_frame .., degrade_frame .., hm]

@[simp] theorem dieFault_wf (s : State) (n target lun : Nat) (hm : Cells.wf s.mem.cells = true) : Cells.wf (dieFault s n target lun).mem.cells = true := by
  unfold dieFault
  repeat' split
  all_goals simp +contextual (maxDischargeDepth := 20) [loseDie_frame .., State.bump_frame .., Berth.mapRecord_frame .., hm]

@[simp] theorem lastingFault_wf (s : State) (u place : Nat) (column : Option Nat) (tested : Bool) (detail : Nat) (hm : Cells.wf s.mem.cells = true) : Cells.wf (lastingFault s u place column tested detail).2.mem.cells = true := by
  unfold lastingFault
  repeat' split
  all_goals simp +contextual (maxDischargeDepth := 20) [takeSpare_frame .., degrade_frame .., Nb.mapBank_frame .., laneFault_frame .., hm]

@[simp] theorem noteLasting_wf (s : State) (u place : Nat) (column : Option Nat) (tested : Bool) (es : List EventWait) (hm : Cells.wf s.mem.cells = true) : Cells.wf (noteLasting s u place column tested es).mem.cells = true := by
  unfold noteLasting
  simp +contextual (maxDischargeDepth := 20) [foundByTest_frame .., State.bump_frame .., State.logEventAt_frame .., hm]

@[simp] theorem classifyByCount_wf (s : State) (u place : Nat) (e : EventWait) (hm : Cells.wf s.mem.cells = true) : Cells.wf (classifyByCount s u place e).mem.cells = true := by
  unfold classifyByCount
  simp +contextual (maxDischargeDepth := 20) [noteTransient_frame .., hm]

@[simp] theorem beginNext_wf (n : Nat) (s : State) (n' : Nat) (hm : Cells.wf s.mem.cells = true) : Cells.wf (beginNext n s n').mem.cells = true := by
  induction n generalizing s with
  | zero => simp [beginNext, hm]
  | succ n ih =>
    unfold beginNext
    repeat' split
    all_goals simp +contextual (maxDischargeDepth := 20) [dropTest_frame .., beginTest_frame .., hm, ih]

@[simp] theorem startTest_wf (s : State) (u place : Nat) (events : List EventWait) (requested afterReset : Bool) (hm : Cells.wf s.mem.cells = true) : Cells.wf (startTest s u place events requested afterReset).mem.cells = true := by
  unfold startTest
  simp +contextual (maxDischargeDepth := 20) [hm]

@[simp] theorem raiseEvent_wf (s : State) (u place : Nat) (e : EventWait) (hm : Cells.wf s.mem.cells = true) : Cells.wf (raiseEvent s u place e).mem.cells = true := by
  unfold raiseEvent
  simp +contextual (maxDischargeDepth := 20) [hm]

@[simp] theorem endTest_wf (s : State) (t : Test) (column : Nat) (passed : Bool) (hm : Cells.wf s.mem.cells = true) : Cells.wf (endTest s t column passed).mem.cells = true := by
  unfold endTest
  simp +contextual (maxDischargeDepth := 20) [freeDieBlock_frame .., dropTest_frame .., noteTransient_frame .., rowPassed_frame .., lanePassed_frame .., hm]

@[simp] theorem markError_wf (s : State) (r : Sys2Proof.ErrorReport) (hm : Cells.wf s.mem.cells = true) : Cells.wf (markError s r).mem.cells = true := by
  unfold markError
  simp +contextual (maxDischargeDepth := 20) [loseLine_frame .., hm]

@[simp] theorem detect_wf (s : State) (r : Sys2Proof.ErrorReport) (hm : Cells.wf s.mem.cells = true) : Cells.wf (detect s r).mem.cells = true := by
  unfold detect
  simp +contextual (maxDischargeDepth := 20) [State.logEvent_frame .., State.bump_frame .., hm]

@[simp] theorem nbLineError_wf (s : State) (bank row : Nat) (hm : Cells.wf s.mem.cells = true) : Cells.wf (nbLineError s bank row).mem.cells = true := by
  unfold nbLineError
  simp +contextual (maxDischargeDepth := 20) [State.bump_frame .., hm]

@[simp] theorem settleRows_wf (s : State) (hm : Cells.wf s.mem.cells = true) : Cells.wf (settleRows s).mem.cells = true := by
  unfold settleRows
  simp +contextual (maxDischargeDepth := 20) [hm]

end Sys2Proof.Machine
end

