-- ==== Sys2Proof/Laws/FrameGraphRows.lean ====
section
/-! SUPPORT. Frames of GraphRows.lean: which units of the state each of its functions leaves as they are. -/

namespace Sys2Proof.Machine

set_option linter.unusedSimpArgs false
set_option linter.unusedVariables false
set_option linter.unusedTactic false
set_option linter.unreachableTactic false
set_option Elab.async false

open Sys2Proof Sys2Proof.Num Sys2Proof.Machine.Graph Sys2Proof.Machine

theorem refusedLoad_frame (s : State) (cmd : Nat) (r : Nat × Nat) : Keeps258 s (refusedLoad s cmd r) := by
  unfold Keeps258 refusedLoad
  simp [State.bump_frame .., State.finish_frame ..]

theorem execGraphLoad_frame (cmd : Nat) (image : HostRead) (s : State) {post : State} (h : execGraphLoad cmd image s = .next post) : Keeps271 s post := by
  unfold execGraphLoad at h
  dsimp only at h
  repeat' split at h
  all_goals (injection h with h; subst h; simp [holdInputs_frame .., refusedLoad_frame .., touchInput_frame .., demoteFor_frame .., Graph.load_frame .., State.finish_frame .., holdCmd_frame .., fetchInput_frame .., State.bump_frame .., State.refuse_frame .., Keeps271])

theorem execGraphUnload_frame (cmd : Nat) (s : State) {post : State} (h : execGraphUnload cmd s = .next post) : Keeps271 s post := by
  unfold execGraphUnload at h
  repeat' split at h
  all_goals (injection h with h; subst h; simp [State.refuse_frame .., startCmd_frame .., State.setNum_frame .., Keeps271])

theorem execUnloadComplete_frame (slot : Nat) (s : State) {post : State} (h : execUnloadComplete slot s = .next post) : Keeps271 s post := by
  unfold execUnloadComplete at h
  repeat' split at h
  all_goals (injection h with h; subst h; simp [Graph.clear_frame .., State.finish_frame .., Keeps271])

theorem startRun_frame (s : State) (use : RunUse) (g : GraphSlot) (stamp seed deadline : Nat) (berth : Option Nat) (phaseEnd : Bool) (inputs : List (Nat × List Nat)) (outputs : List (Nat × Nat)) {post} (h : startRun s use g stamp seed deadline berth phaseEnd inputs outputs = some post) : Keeps63 s post := by
  unfold startRun at h
  dsimp only at h
  rw [Option.map_eq_some_iff] at h
  obtain ⟨t, ht, h⟩ := h
  have hk : Keeps63 s t := by
    apply foldl_some_keeps (R := Keeps63) _ _ _ ht
    · simp [Berth.mapOwned_frame .., State.wakeAll_frame .., Keeps63]
    · simp +contextual [Berth.mapOwned_frame .., State.wakeAll_frame .., Keeps63]
    · intro s x t h
      rw [Option.map_eq_some_iff] at h
      obtain ⟨r, -, h⟩ := h
      cases h
      simp [Berth.mapOwned_frame .., State.wakeAll_frame .., Keeps63]
  rw [← h]
  clear h ht
  split
  · with_reducible apply ite_keeps (R := Keeps63)
    · simp_all [Berth.mapOwned_frame .., State.wakeAll_frame .., Keeps63]
    · simp_all [Berth.mapOwned_frame .., State.wakeAll_frame .., Keeps63]
  · simp_all [Berth.mapOwned_frame .., State.wakeAll_frame .., Keeps63]

theorem beginRun_frame (s : State) (cmd : Nat) (at_ : Nat × Nat) (d : Bytes) (attend : Bool) (g : GraphSlot) (parked : Bool) (got : List Bytes) (outs : List (Nat × Nat)) (refused : State → State) (hf : ∀ t, Keeps64 t (refused t)) : Keeps64 s (beginRun s cmd at_ d attend g parked got outs refused) := by
  have hr := fun t => hf t
  simp only [Keeps64] at hr
  unfold beginRun
  dsimp only
  split
  · unfold waitForPages
    dsimp only
    split <;> simp_all [demoteFor_frame .., stallCmd_frame .., Keeps64]
  · rename_i u h
    generalize hs : startCmd _ cmd = v at h
    have hv : Keeps64 s v := by
      rw [← hs]
      split <;> simp [State.drawRandom_frame .., startCmd_frame .., State.bump_frame .., Keeps64]
    have h1 := startRun_frame _ _ _ _ _ _ _ _ _ _ h
    apply ite_keeps (R := Keeps64)
    · simp_all [Keeps64]
    · split
      · simp [awaitPages_frame .., Keeps64]
      · rename_i h2
        have h2 := Berth.startWake_frame _ _ _ h2
        simp_all [Keeps64]

theorem runCommand_frame (s : State) (cmd : Nat) (c : HostCmd) (attend : Bool) (inTable outTable : HostRead) (inputs : List HostRead) : Keeps64 s (runCommand s cmd c attend inTable outTable inputs) := by
  have tr : ∀ x y z, Keeps64 x y → Keeps64 y z → Keeps64 x z := by simp +contextual [Keeps64]
  have ti (l : List (Nat × Nat)) (u : State) : Keeps64 u (l.foldl (fun s q => touchInput s q.1 q.2) u) :=
    foldl_keeps (R := Keeps64) (by simp [Keeps64]) tr fun s x => by simp [touchInput_frame .., Keeps64]
  unfold runCommand
  dsimp only
  split
  · split <;> simp [Berth.refuseStale_frame .., State.finish_frame .., Keeps64]
  · apply ite_keeps (R := Keeps64) (by simp [holdInputs_frame .., Keeps64])
    apply ite_keeps (R := Keeps64) (by simp [touchInput_frame .., Berth.refuseStale_frame .., Keeps64])
    split
    · simp [touchInput_frame .., State.finish_frame .., Keeps64]
    · apply ite_keeps (R := Keeps64)
      · simp [touchInput_frame .., holdInputs_frame .., Keeps64]
      · apply ite_keeps (R := Keeps64)
        · simp only [Keeps64, State.finish_frame ..]
          refine tr _ _ _ ?_ (ti _ _)
          simp [touchInput_frame .., Keeps64]
        · refine tr _ _ _ ?_ (beginRun_frame _ _ _ _ _ _ _ _ _ _ ?_)
          · refine tr _ _ _ ?_ (ti _ _)
            simp [touchInput_frame .., Keeps64]
          · intro t
            simp [State.finish_frame .., Keeps64]

theorem execGraphRun_frame (cmd : Nat) (inTable outTable : HostRead) (inputs : List HostRead) (s : State) {post : State} (h : execGraphRun cmd inTable outTable inputs s = .next post) : Keeps64 s post := by
  unfold execGraphRun at h
  repeat' split at h
  all_goals (injection h with h; subst h; simp [runCommand_frame .., Keeps64])

theorem execAttendCommand_frame (cmd : Nat) (inTable outTable : HostRead) (inputs : List HostRead) (s : State) {post : State} (h : execAttendCommand cmd inTable outTable inputs s = .next post) : Keeps64 s post := by
  unfold execAttendCommand at h
  repeat' split at h
  all_goals (injection h with h; subst h; simp [runCommand_frame .., Keeps64])

theorem execRunHoldRelease_frame (run : Nat) (s : State) {post : State} (h : execRunHoldRelease run s = .next post) : Keeps298 s post := by
  have hw (b : Nat) : Keeps298 s ((Berth.startWake s b none).getD (demoteFor s)) := by
    cases h : Berth.startWake s b none with
    | none => simp [demoteFor_frame .., Keeps298]
    | some t => have h := Berth.startWake_frame _ _ _ h; simp_all [Keeps298]
  unfold execRunHoldRelease at h
  dsimp only at h
  repeat' split at h
  all_goals (injection h with h; subst h)
  all_goals first
    | exact hw _
    | simp [Graph.mapRun_frame .., Berth.mapOwned_frame .., demoteFor_frame .., Graph.endRun_frame .., Keeps298]

theorem execRunDeadline_frame (run : Nat) (s : State) {post : State} (h : execRunDeadline run s = .next post) : Keeps298 s post := by
  unfold execRunDeadline at h
  repeat' split at h
  all_goals (injection h with h; subst h; simp [Graph.stopRun_frame .., Keeps298])

theorem execConvert_frame (run : Nat) (s : State) {post : State} (h : execConvert run s = .next post) : Keeps298 s post := by
  unfold execConvert at h
  repeat' split at h
  all_goals (injection h with h; subst h; simp [Graph.pure_frame .., Keeps298])

theorem execReshape_frame (run : Nat) (s : State) {post : State} (h : execReshape run s = .next post) : Keeps298 s post := by
  unfold execReshape at h
  repeat' split at h
  all_goals (injection h with h; subst h; simp [Graph.pure_frame .., Keeps298])

theorem execTranspose_frame (run : Nat) (s : State) {post : State} (h : execTranspose run s = .next post) : Keeps298 s post := by
  unfold execTranspose at h
  repeat' split at h
  all_goals (injection h with h; subst h; simp [Graph.pure_frame .., Keeps298])

theorem execElementwise_frame (run : Nat) (s : State) {post : State} (h : execElementwise run s = .next post) : Keeps298 s post := by
  unfold execElementwise at h
  repeat' split at h
  all_goals (injection h with h; subst h; simp [Graph.pure_frame .., Keeps298])

theorem execReduce_frame (run : Nat) (s : State) {post : State} (h : execReduce run s = .next post) : Keeps298 s post := by
  unfold execReduce at h
  repeat' split at h
  all_goals (injection h with h; subst h; simp [Graph.pure_frame .., Keeps298])

theorem execSoftmax_frame (run : Nat) (s : State) {post : State} (h : execSoftmax run s = .next post) : Keeps298 s post := by
  unfold execSoftmax at h
  repeat' split at h
  all_goals (injection h with h; subst h; simp [Graph.pure_frame .., Keeps298])

theorem execNorm_frame (run : Nat) (s : State) {post : State} (h : execNorm run s = .next post) : Keeps298 s post := by
  unfold execNorm at h
  repeat' split at h
  all_goals (injection h with h; subst h; simp [Graph.pure_frame .., Keeps298])

theorem execQuantise_frame (run : Nat) (s : State) {post : State} (h : execQuantise run s = .next post) : Keeps298 s post := by
  unfold execQuantise at h
  repeat' split at h
  all_goals (injection h with h; subst h; simp [Graph.pure_frame .., Keeps298])

theorem execDequantise_frame (run : Nat) (s : State) {post : State} (h : execDequantise run s = .next post) : Keeps298 s post := by
  unfold execDequantise at h
  repeat' split at h
  all_goals (injection h with h; subst h; simp [Graph.pure_frame .., Keeps298])

theorem matmulEnds_frame (c : Ctx) (s : State) : Keeps57 s (matmulEnds c s).state := by
  unfold matmulEnds
  repeat' split
  all_goals simp [Graph.streamEnds_frame .., Keeps57]

theorem execMatmul_frame (run : Nat) (s : State) {post : State} (h : execMatmul run s = .next post) : Keeps298 s post := by
  unfold execMatmul at h
  repeat' split at h
  all_goals (injection h with h; subst h; simp [matmulEnds_frame .., Keeps298])

theorem execChunkFillDone_frame (run : Nat) (s : State) {post : State} (h : execChunkFillDone run s = .next post) : Keeps271 s post := by
  unfold execChunkFillDone at h
  repeat' split at h
  all_goals (injection h with h; subst h; simp [Graph.fillChunk_frame .., Keeps271])

theorem execDistance_frame (run : Nat) (s : State) {post : State} (h : execDistance run s = .next post) : Keeps298 s post := by
  unfold execDistance at h
  repeat' split at h
  all_goals (injection h with h; subst h; simp [Graph.pure_frame .., Keeps298])

theorem noteSelected_frame (s : State) (k : Nat) (q : List SelEntry × Summary48) : Keeps57 s (noteSelected s k q) := by
  unfold Keeps57 noteSelected
  simp

theorem noteSelect_frame (s : State) (softmax : Bool) (k : Nat) (x : Tens) (mask : Option Tens) : Keeps57 s (noteSelect s softmax k x mask) := by
  unfold noteSelect
  repeat' split
  all_goals simp [noteSelected_frame .., Keeps57]

theorem noteAttend_frame (s : State) (topk : Nat) (ss : List (List Nat)) : Keeps57 s (noteAttend s topk ss) := by
  unfold noteAttend
  repeat' split
  all_goals simp [noteSelected_frame .., Keeps57]

theorem execSelect_frame (run : Nat) (s : State) {post : State} (h : execSelect run s = .next post) : Keeps298 s post := by
  unfold execSelect at h
  repeat' split at h
  all_goals (injection h with h; subst h; simp [noteSelect_frame .., Graph.pure_frame .., Keeps298])

theorem execMerge_frame (run : Nat) (s : State) {post : State} (h : execMerge run s = .next post) : Keeps298 s post := by
  unfold execMerge at h
  repeat' split at h
  all_goals (injection h with h; subst h; simp [Graph.pure_frame .., Keeps298])

theorem execFilter_frame (run : Nat) (s : State) {post : State} (h : execFilter run s = .next post) : Keeps298 s post := by
  unfold execFilter at h
  repeat' split at h
  all_goals (injection h with h; subst h; simp [Keeps298])

theorem execScatter_frame (run : Nat) (s : State) {post : State} (h : execScatter run s = .next post) : Keeps298 s post := by
  unfold execScatter at h
  repeat' split at h
  all_goals (injection h with h; subst h; simp [Graph.pure_frame .., Keeps298])

theorem matvecEnds_frame (c : Ctx) (s : State) : Keeps196 s (matvecEnds c s).state := by
  unfold Keeps196 matvecEnds
  simp [Nb.keyProducts_frame ..]

theorem execNbMatvec_frame (run : Nat) (s : State) {post : State} (h : execNbMatvec run s = .next post) : Keeps229 s post := by
  unfold execNbMatvec at h
  repeat' split at h
  all_goals (injection h with h; subst h; simp [settleRows_frame .., matvecEnds_frame .., Graph.pure_frame .., Keeps229])

theorem attendQkEnds_frame (c : Ctx) (s : State) : Keeps311 s (attendQkEnds c s).state := by
  unfold attendQkEnds
  simp [Keeps311]

theorem execAttendQk_frame (run : Nat) (s : State) {post : State} (h : execAttendQk run s = .next post) : Keeps229 s post := by
  unfold execAttendQk at h
  repeat' split at h
  all_goals (injection h with h; subst h; simp [settleRows_frame .., attendQkEnds_frame .., Keeps229])

theorem attendPvEnds_frame (c : Ctx) (s : State) : Keeps311 s (attendPvEnds c s).state := by
  have hf (o : OwnedBerth) (l u : Nat) : Keeps311 s (let rows := (c.x 0).rows
    if u = 0 then (.outs ⟨[rows.flatMap fun _ => List.replicate o.geo.headDim 0], {}⟩ s : Graph.Ended)
    else needPages s c.run (scaleIds o l 1 u) fun _ =>
      valueSide c s s o l u rows fun outs n s => .outs ⟨[outs.flatten], n⟩ s).state := by
    dsimp only
    split <;> simp [Keeps311]
  exact attention_keeps (R := Keeps311) c s _ (by simp [Keeps311]) hf

theorem execAttendPv_frame (run : Nat) (s : State) {post : State} (h : execAttendPv run s = .next post) : Keeps229 s post := by
  unfold execAttendPv at h
  repeat' split at h
  all_goals (injection h with h; subst h; simp [settleRows_frame .., attendPvEnds_frame .., Keeps229])

theorem attendEnds_frame (c : Ctx) (s : State) : Keeps311 s (attendEnds c s).state := by
  unfold attendEnds
  have hf (o : OwnedBerth) (l u : Nat) : Keeps311 s (if u = 0 then (.outs ⟨[(c.x 0).rows.flatMap fun _ => List.replicate o.geo.headDim 0, (c.x 0).rows.flatMap fun _ => emptySummary], {}⟩ s : Graph.Ended)
    else keySide c s o l u (scaleIds o l 1 u) fun ss s1 =>
      valueSide c s s1 o l u ((ss.map (attendWeights (field c.entry 32 2))).map (·.1)) fun outs n s =>
        .outs ⟨[outs.flatten, (ss.map (attendWeights (field c.entry 32 2))).flatMap (·.2)], (quantCount c.r0 ((c.x 0).rows.map fun r => r.map (decode fp32))).plus n⟩
          (noteAttend s (field c.entry 32 2) ss)).state := by
    split
    · simp [Keeps311]
    · simp +contextual [noteAttend_frame .., Keeps311]
  exact attention_keeps (R := Keeps311) c s _ (by simp [Keeps311]) hf

theorem execAttend_frame (run : Nat) (s : State) {post : State} (h : execAttend run s = .next post) : Keeps229 s post := by
  unfold execAttend at h
  repeat' split at h
  all_goals first
    | (cases h; done)
    | (injection h with h; subst h; simp [settleRows_frame .., attendEnds_frame .., Keeps229])

theorem appendRows_frame (c : Ctx) (s : State) (o : OwnedBerth) (l u n : Nat) : Keeps258 s (appendRows c s o l u n).2.2 := by
  unfold appendRows
  refine foldl_keeps_of (R := Keeps258) (fun a : Nat × List Nat × State => a.2.2) (x := (St.ok, [], s)) ?_ ?_ ?_
  · simp [Keeps258]
  · simp +contextual [Keeps258]
  · intro x y
    simp [appendToken_frame .., Keeps258]

theorem berthAppendEnds_frame (c : Ctx) (s : State) : Keeps323 s (berthAppendEnds c s).state := by
  unfold berthAppendEnds
  split
  · simp [Keeps323]
  · dsimp only
    split
    · simp [Keeps323]
    · simp [Berth.mapOwned_frame .., appendRows_frame .., Keeps323]

theorem execBerthAppend_frame (run : Nat) (s : State) {post : State} (h : execBerthAppend run s = .next post) : Keeps298 s post := by
  unfold execBerthAppend at h
  repeat' split at h
  all_goals (injection h with h; subst h; simp [berthAppendEnds_frame .., Keeps298])

theorem execLoop_frame (run : Nat) (s : State) {post : State} (h : execLoop run s = .next post) : Keeps298 s post := by
  unfold execLoop at h
  repeat' split at h
  all_goals (injection h with h; subst h; simp [Keeps298])

theorem execBranch_frame (run : Nat) (s : State) {post : State} (h : execBranch run s = .next post) : Keeps298 s post := by
  unfold execBranch at h
  repeat' split at h
  all_goals (injection h with h; subst h; simp [Keeps298])

theorem execTideWait_frame (run : Nat) (s : State) {post : State} (h : execTideWait run s = .next post) : Keeps298 s post := by
  unfold execTideWait at h
  repeat' split at h
  all_goals (injection h with h; subst h; simp [Graph.mapRun_frame .., Keeps298])

theorem execTideWaitRelease_frame (run : Nat) (s : State) {post : State} (h : execTideWaitRelease run s = .next post) : Keeps298 s post := by
  unfold execTideWaitRelease at h
  repeat' split at h
  all_goals (injection h with h; subst h; simp [Graph.advance_frame .., Keeps298])

end Sys2Proof.Machine
end

