-- ==== Sys2Proof/Laws/CellsGraphRows.lean ====
section
/-! SUPPORT. The functions of GraphRows.lean keep the canonical form of the memory's cells. -/

namespace Sys2Proof.Machine

set_option linter.unusedSimpArgs false
set_option linter.unusedVariables false
set_option linter.unusedTactic false
set_option linter.unreachableTactic false
set_option Elab.async false

open Sys2Proof Sys2Proof.Num Sys2Proof.Machine.Graph Sys2Proof.Machine

@[simp] theorem refusedLoad_wf (s : State) (cmd : Nat) (r : Nat × Nat) (hm : Cells.wf s.mem.cells = true) : Cells.wf (refusedLoad s cmd r).mem.cells = true := by
  unfold refusedLoad
  simp +contextual (maxDischargeDepth := 20) [State.bump_frame .., hm]

theorem execGraphLoad_wf (cmd : Nat) (image : HostRead) (s : State) (hm : Cells.wf s.mem.cells = true) {post : State} (h : execGraphLoad cmd image s = .next post) : Cells.wf post.mem.cells = true := by
  unfold execGraphLoad at h
  dsimp only at h
  repeat' split at h
  all_goals (injection h with h; subst h; simp +contextual (maxDischargeDepth := 20) [hm])

theorem execGraphUnload_wf (cmd : Nat) (s : State) (hm : Cells.wf s.mem.cells = true) {post : State} (h : execGraphUnload cmd s = .next post) : Cells.wf post.mem.cells = true := by
  unfold execGraphUnload at h
  repeat' split at h
  all_goals (injection h with h; subst h; simp +contextual (maxDischargeDepth := 20) [startCmd_frame .., State.setNum_frame .., hm])

theorem execUnloadComplete_wf (slot : Nat) (s : State) (hm : Cells.wf s.mem.cells = true) {post : State} (h : execUnloadComplete slot s = .next post) : Cells.wf post.mem.cells = true := by
  unfold execUnloadComplete at h
  repeat' split at h
  all_goals (injection h with h; subst h; simp +contextual (maxDischargeDepth := 20) [hm])

theorem startRun_wf (s : State) (use : RunUse) (g : GraphSlot) (stamp seed deadline : Nat) (berth : Option Nat) (phaseEnd : Bool) (inputs : List (Nat × List Nat)) (outputs : List (Nat × Nat)) (hm : Cells.wf s.mem.cells = true) {post} (h : startRun s use g stamp seed deadline berth phaseEnd inputs outputs = some post) : Cells.wf post.mem.cells = true := by
  unfold startRun at h
  dsimp only at h
  rw [Option.map_eq_some_iff] at h
  obtain ⟨t, ht, h⟩ := h
  have hk : Cells.wf t.mem.cells = true := by
    apply foldl_some_wf _ hm ht
    intro s x t hm h
    rw [Option.map_eq_some_iff] at h
    obtain ⟨r, hr, h⟩ := h
    cases h
    have hc := Mem.allocPage_cells hr
    simpa [Berth.mapOwned_frame .., State.wakeAll_frame .., hc] using hm
  rw [← h]
  clear h ht
  split
  · with_reducible apply cells_ite
    · simpa [Berth.mapOwned_frame .., State.wakeAll_frame ..] using hk
    · simpa [Berth.mapOwned_frame .., State.wakeAll_frame ..] using hk
  · simpa [Berth.mapOwned_frame .., State.wakeAll_frame ..] using hk

@[simp] theorem beginRun_wf (s : State) (cmd : Nat) (at_ : Nat × Nat) (d : Bytes) (attend : Bool) (g : GraphSlot) (parked : Bool) (got : List Bytes) (outs : List (Nat × Nat)) (refused : State → State) (hm : Cells.wf s.mem.cells = true) (hf : ∀ t, Cells.wf t.mem.cells = true → Cells.wf (refused t).mem.cells = true) : Cells.wf (beginRun s cmd at_ d attend g parked got outs refused).mem.cells = true := by
  unfold beginRun
  dsimp only
  split
  · exact waitForPages_wf _ _ _ hm hf
  · rename_i u h
    generalize hs : startCmd _ cmd = v at h
    have hv : Cells.wf v.mem.cells = true := by
      rw [← hs]
      split <;> simp [State.drawRandom_frame .., startCmd_frame .., State.bump_frame .., hm]
    have h1 := startRun_wf _ _ _ _ _ _ _ _ _ _ hv h
    apply cells_ite h1
    split
    · exact awaitPages_wf _ _ hm
    · rename_i h2
      exact Berth.startWake_wf _ _ _ h1 h2

@[simp] theorem runCommand_wf (s : State) (cmd : Nat) (c : HostCmd) (attend : Bool) (inTable outTable : HostRead) (inputs : List HostRead) (hm : Cells.wf s.mem.cells = true) : Cells.wf (runCommand s cmd c attend inTable outTable inputs).mem.cells = true := by
  have hi : ∀ (l : List (Nat × Nat)) (t : State), Cells.wf t.mem.cells = true →
      Cells.wf (l.foldl (fun s q => touchInput s q.1 q.2) t).mem.cells = true :=
    fun l t h => foldl_wf _ _ _ (fun s q h => touchInput_wf _ _ _ h) h
  unfold runCommand
  dsimp only
  split
  · split <;> simp (maxDischargeDepth := 20) [hm]
  · with_reducible apply cells_ite
    · exact holdInputs_wf _ _ _ hm
    · generalize hu : touchInput (touchInput s _ _) _ _ = u
      have hu : Cells.wf u.mem.cells = true := by
        rw [← hu]
        exact touchInput_wf _ _ _ (touchInput_wf _ _ _ hm)
      with_reducible apply cells_ite
      · simp (maxDischargeDepth := 20) [hu]
      · split
        · simp (maxDischargeDepth := 20) [hu]
        · with_reducible apply cells_ite
          · exact holdInputs_wf _ _ _ hu
          · with_reducible apply cells_ite
            · exact State.finish_wf _ _ _ _ _ (hi _ _ hu)
            · exact beginRun_wf _ _ _ _ _ _ _ _ _ _ (hi _ _ hu) fun t ht => State.finish_wf _ _ _ _ _ ht

theorem execGraphRun_wf (cmd : Nat) (inTable outTable : HostRead) (inputs : List HostRead) (s : State) (hm : Cells.wf s.mem.cells = true) {post : State} (h : execGraphRun cmd inTable outTable inputs s = .next post) : Cells.wf post.mem.cells = true := by
  unfold execGraphRun at h
  repeat' split at h
  all_goals (injection h with h; subst h; simp +contextual (maxDischargeDepth := 20) [hm])

theorem execAttendCommand_wf (cmd : Nat) (inTable outTable : HostRead) (inputs : List HostRead) (s : State) (hm : Cells.wf s.mem.cells = true) {post : State} (h : execAttendCommand cmd inTable outTable inputs s = .next post) : Cells.wf post.mem.cells = true := by
  unfold execAttendCommand at h
  repeat' split at h
  all_goals (injection h with h; subst h; simp +contextual (maxDischargeDepth := 20) [hm])

theorem execRunHoldRelease_wf (run : Nat) (s : State) (hm : Cells.wf s.mem.cells = true) {post : State} (h : execRunHoldRelease run s = .next post) : Cells.wf post.mem.cells = true := by
  have hw (b : Nat) : Cells.wf ((Berth.startWake s b none).getD (demoteFor s)).mem.cells = true := by
    generalize hw : Berth.startWake _ _ _ = w
    cases w with
    | none => exact demoteFor_wf _ hm
    | some u => exact Berth.startWake_wf _ _ _ hm hw
  unfold execRunHoldRelease at h
  dsimp only at h
  repeat' split at h
  all_goals (injection h with h; subst h)
  all_goals first
    | exact hw _
    | simp (maxDischargeDepth := 20) [Graph.mapRun_frame .., Berth.mapOwned_frame .., hm]

theorem execRunDeadline_wf (run : Nat) (s : State) (hm : Cells.wf s.mem.cells = true) {post : State} (h : execRunDeadline run s = .next post) : Cells.wf post.mem.cells = true := by
  unfold execRunDeadline at h
  repeat' split at h
  all_goals (injection h with h; subst h; simp +contextual (maxDischargeDepth := 20) [hm])

theorem execConvert_wf (run : Nat) (s : State) (hm : Cells.wf s.mem.cells = true) {post : State} (h : execConvert run s = .next post) : Cells.wf post.mem.cells = true := by
  unfold execConvert at h
  repeat' split at h
  all_goals (injection h with h; subst h; simp +contextual (maxDischargeDepth := 20) [hm])

theorem execReshape_wf (run : Nat) (s : State) (hm : Cells.wf s.mem.cells = true) {post : State} (h : execReshape run s = .next post) : Cells.wf post.mem.cells = true := by
  unfold execReshape at h
  repeat' split at h
  all_goals (injection h with h; subst h; simp +contextual (maxDischargeDepth := 20) [hm])

theorem execTranspose_wf (run : Nat) (s : State) (hm : Cells.wf s.mem.cells = true) {post : State} (h : execTranspose run s = .next post) : Cells.wf post.mem.cells = true := by
  unfold execTranspose at h
  repeat' split at h
  all_goals (injection h with h; subst h; simp +contextual (maxDischargeDepth := 20) [hm])

theorem execElementwise_wf (run : Nat) (s : State) (hm : Cells.wf s.mem.cells = true) {post : State} (h : execElementwise run s = .next post) : Cells.wf post.mem.cells = true := by
  unfold execElementwise at h
  repeat' split at h
  all_goals (injection h with h; subst h; simp +contextual (maxDischargeDepth := 20) [hm])

theorem execReduce_wf (run : Nat) (s : State) (hm : Cells.wf s.mem.cells = true) {post : State} (h : execReduce run s = .next post) : Cells.wf post.mem.cells = true := by
  unfold execReduce at h
  repeat' split at h
  all_goals (injection h with h; subst h; simp +contextual (maxDischargeDepth := 20) [hm])

theorem execSoftmax_wf (run : Nat) (s : State) (hm : Cells.wf s.mem.cells = true) {post : State} (h : execSoftmax run s = .next post) : Cells.wf post.mem.cells = true := by
  unfold execSoftmax at h
  repeat' split at h
  all_goals (injection h with h; subst h; simp +contextual (maxDischargeDepth := 20) [hm])

theorem execNorm_wf (run : Nat) (s : State) (hm : Cells.wf s.mem.cells = true) {post : State} (h : execNorm run s = .next post) : Cells.wf post.mem.cells = true := by
  unfold execNorm at h
  repeat' split at h
  all_goals (injection h with h; subst h; simp +contextual (maxDischargeDepth := 20) [hm])

theorem execQuantise_wf (run : Nat) (s : State) (hm : Cells.wf s.mem.cells = true) {post : State} (h : execQuantise run s = .next post) : Cells.wf post.mem.cells = true := by
  unfold execQuantise at h
  repeat' split at h
  all_goals (injection h with h; subst h; simp +contextual (maxDischargeDepth := 20) [hm])

theorem execDequantise_wf (run : Nat) (s : State) (hm : Cells.wf s.mem.cells = true) {post : State} (h : execDequantise run s = .next post) : Cells.wf post.mem.cells = true := by
  unfold execDequantise at h
  repeat' split at h
  all_goals (injection h with h; subst h; simp +contextual (maxDischargeDepth := 20) [hm])

theorem execMatmul_wf (run : Nat) (s : State) (hm : Cells.wf s.mem.cells = true) {post : State} (h : execMatmul run s = .next post) : Cells.wf post.mem.cells = true := by
  have hf (c : Ctx) (t : State) (ht : Cells.wf t.mem.cells = true) : Cells.wf (matmulEnds c t).state.mem.cells = true := by
    simpa [matmulEnds_frame ..] using ht
  unfold execMatmul at h
  injection h with h
  subst h
  exact Graph.perform_wf _ _ _ _ hm hf

theorem execChunkFillDone_wf (run : Nat) (s : State) (hm : Cells.wf s.mem.cells = true) {post : State} (h : execChunkFillDone run s = .next post) : Cells.wf post.mem.cells = true := by
  unfold execChunkFillDone at h
  repeat' split at h
  all_goals (injection h with h; subst h; simp +contextual (maxDischargeDepth := 20) [hm])

theorem execDistance_wf (run : Nat) (s : State) (hm : Cells.wf s.mem.cells = true) {post : State} (h : execDistance run s = .next post) : Cells.wf post.mem.cells = true := by
  unfold execDistance at h
  repeat' split at h
  all_goals (injection h with h; subst h; simp +contextual (maxDischargeDepth := 20) [hm])

theorem execSelect_wf (run : Nat) (s : State) (hm : Cells.wf s.mem.cells = true) {post : State} (h : execSelect run s = .next post) : Cells.wf post.mem.cells = true := by
  unfold execSelect at h
  repeat' split at h
  all_goals (injection h with h; subst h; simp +contextual (maxDischargeDepth := 20) [noteSelect_frame .., hm])

theorem execMerge_wf (run : Nat) (s : State) (hm : Cells.wf s.mem.cells = true) {post : State} (h : execMerge run s = .next post) : Cells.wf post.mem.cells = true := by
  unfold execMerge at h
  repeat' split at h
  all_goals (injection h with h; subst h; simp +contextual (maxDischargeDepth := 20) [hm])

theorem execFilter_wf (run : Nat) (s : State) (hm : Cells.wf s.mem.cells = true) {post : State} (h : execFilter run s = .next post) : Cells.wf post.mem.cells = true := by
  unfold execFilter at h
  repeat' split at h
  all_goals (injection h with h; subst h; simp +contextual (maxDischargeDepth := 20) [hm])

theorem execScatter_wf (run : Nat) (s : State) (hm : Cells.wf s.mem.cells = true) {post : State} (h : execScatter run s = .next post) : Cells.wf post.mem.cells = true := by
  unfold execScatter at h
  repeat' split at h
  all_goals (injection h with h; subst h; simp +contextual (maxDischargeDepth := 20) [hm])

@[simp] theorem matvecEnds_wf (c : Ctx) (s : State) (hm : Cells.wf s.mem.cells = true) : Cells.wf (matvecEnds c s).state.mem.cells = true := by
  unfold matvecEnds
  simp +contextual (maxDischargeDepth := 20) [hm]

theorem execNbMatvec_wf (run : Nat) (s : State) (hm : Cells.wf s.mem.cells = true) {post : State} (h : execNbMatvec run s = .next post) : Cells.wf post.mem.cells = true := by
  unfold execNbMatvec at h
  repeat' split at h
  all_goals (injection h with h; subst h; simp +contextual (maxDischargeDepth := 20) [hm])

@[simp] theorem attendQkEnds_wf (c : Ctx) (s : State) (hm : Cells.wf s.mem.cells = true) : Cells.wf (attendQkEnds c s).state.mem.cells = true := by
  unfold attendQkEnds
  simp +contextual (maxDischargeDepth := 20) [hm]

theorem execAttendQk_wf (run : Nat) (s : State) (hm : Cells.wf s.mem.cells = true) {post : State} (h : execAttendQk run s = .next post) : Cells.wf post.mem.cells = true := by
  unfold execAttendQk at h
  repeat' split at h
  all_goals (injection h with h; subst h; simp +contextual (maxDischargeDepth := 20) [hm])

@[simp] theorem attendPvEnds_wf (c : Ctx) (s : State) (hm : Cells.wf s.mem.cells = true) : Cells.wf (attendPvEnds c s).state.mem.cells = true := by
  unfold attendPvEnds
  simp +contextual (maxDischargeDepth := 20) [hm]

theorem execAttendPv_wf (run : Nat) (s : State) (hm : Cells.wf s.mem.cells = true) {post : State} (h : execAttendPv run s = .next post) : Cells.wf post.mem.cells = true := by
  unfold execAttendPv at h
  repeat' split at h
  all_goals (injection h with h; subst h; simp +contextual (maxDischargeDepth := 20) [hm])

@[simp] theorem attendEnds_wf (c : Ctx) (s : State) (hm : Cells.wf s.mem.cells = true) : Cells.wf (attendEnds c s).state.mem.cells = true := by
  unfold attendEnds
  simp +contextual (maxDischargeDepth := 20) [noteAttend_frame .., hm]

theorem execAttend_wf (run : Nat) (s : State) (hm : Cells.wf s.mem.cells = true) {post : State} (h : execAttend run s = .next post) : Cells.wf post.mem.cells = true := by
  unfold execAttend at h
  repeat' split at h
  all_goals (injection h with h; subst h; simp +contextual (maxDischargeDepth := 20) [hm])

@[simp] theorem appendRows_wf (c : Ctx) (s : State) (o : OwnedBerth) (l u n : Nat) (hm : Cells.wf s.mem.cells = true) : Cells.wf (appendRows c s o l u n).2.2.mem.cells = true := by
  unfold appendRows
  simp +contextual (maxDischargeDepth := 20) [hm]

@[simp] theorem berthAppendEnds_wf (c : Ctx) (s : State) (hm : Cells.wf s.mem.cells = true) : Cells.wf (berthAppendEnds c s).state.mem.cells = true := by
  unfold berthAppendEnds
  repeat' split
  all_goals simp +contextual (maxDischargeDepth := 20) [Berth.mapOwned_frame .., hm]

theorem execBerthAppend_wf (run : Nat) (s : State) (hm : Cells.wf s.mem.cells = true) {post : State} (h : execBerthAppend run s = .next post) : Cells.wf post.mem.cells = true := by
  unfold execBerthAppend at h
  repeat' split at h
  all_goals (injection h with h; subst h; simp +contextual (maxDischargeDepth := 20) [hm])

theorem execLoop_wf (run : Nat) (s : State) (hm : Cells.wf s.mem.cells = true) {post : State} (h : execLoop run s = .next post) : Cells.wf post.mem.cells = true := by
  unfold execLoop at h
  repeat' split at h
  all_goals (injection h with h; subst h; simp +contextual (maxDischargeDepth := 20) [hm])

theorem execBranch_wf (run : Nat) (s : State) (hm : Cells.wf s.mem.cells = true) {post : State} (h : execBranch run s = .next post) : Cells.wf post.mem.cells = true := by
  unfold execBranch at h
  repeat' split at h
  all_goals (injection h with h; subst h; simp +contextual (maxDischargeDepth := 20) [hm])

theorem execTideWait_wf (run : Nat) (s : State) (hm : Cells.wf s.mem.cells = true) {post : State} (h : execTideWait run s = .next post) : Cells.wf post.mem.cells = true := by
  unfold execTideWait at h
  repeat' split at h
  all_goals (injection h with h; subst h; simp +contextual (maxDischargeDepth := 20) [Graph.mapRun_frame .., hm])

theorem execTideWaitRelease_wf (run : Nat) (s : State) (hm : Cells.wf s.mem.cells = true) {post : State} (h : execTideWaitRelease run s = .next post) : Cells.wf post.mem.cells = true := by
  unfold execTideWaitRelease at h
  repeat' split at h
  all_goals (injection h with h; subst h; simp +contextual (maxDischargeDepth := 20) [hm])

end Sys2Proof.Machine
end

