-- ==== Sys2Proof/Laws/FrameTableOps.lean ====
section
/-! SUPPORT. Frames of TableOps.lean: which units of the state each of its functions leaves as they are. -/

namespace Sys2Proof.Machine

set_option linter.unusedSimpArgs false
set_option linter.unusedVariables false
set_option linter.unusedTactic false
set_option linter.unreachableTactic false
set_option Elab.async false

open Sys2Proof Sys2Proof.Num Sys2Proof.Machine

namespace Table

theorem reserve_frame (s : State) (t : Nat) {post} (h : reserve s t = some post) : Keeps67 s post.2 := by
  unfold reserve at h
  dsimp only at h
  rw [Option.map_eq_some_iff] at h
  obtain ⟨g, -, h⟩ := h
  cases h
  simp [Keeps67]

theorem release_frame (s : State) (t g : Nat) : Keeps67 s (release s t g) := by
  unfold Keeps67 release
  simp

theorem freeAt_frame (s : State) (t p boundary : Nat) : Keeps67 s (freeAt s t p boundary) := by
  unfold Keeps67 freeAt
  simp

theorem writeRow_frame (s : State) (t g : Nat) (data : Bytes) : Keeps258 s (writeRow s t g data).2 := by
  unfold Keeps258 writeRow
  simp [agentWrite_frame ..]

theorem noteServed_frame (s : State) (t row c n : Nat) : Keeps67 s (noteServed s t row c n) := by
  unfold Keeps67 noteServed
  simp

theorem bytesAt_frame (s : State) (t p : Nat) : Keeps258 s (bytesAt s t p).2.2 := by
  unfold Keeps258 bytesAt
  simp [agentRead_frame ..]

theorem readRow_frame (s : State) (t row p : Nat) : Keeps259 s (readRow s t row p).2.2 := by
  unfold Keeps259 readRow
  simp [bytesAt_frame .., noteServed_frame .., agentRead_frame ..]

theorem setEntry_frame (s : State) (d : DirEntry) : Keeps67 s (setEntry s d) := by
  unfold Keeps67 setEntry
  simp

theorem sendSums_frame (s : State) (dest t : Nat) (kind : SumKind) (commit : Nat) (rows : List (Nat × Nat × Bytes)) (use : MsgUse) : Keeps7 s (sendSums s dest t kind commit rows use) := by
  unfold Keeps7 sendSums
  simp [sendMessage_frame ..]

theorem retire_frame (s : State) (t row p : Nat) : Keeps117 s (retire s t row p) := by
  unfold Keeps117 retire
  simp [freeAt_frame .., sendSums_frame ..]

theorem install_frame (s : State) (t row p : Nat) : Keeps117 s (install s t row p) := by
  unfold Keeps117 install
  simp [retire_frame .., setEntry_frame .., State.bump_frame ..]

theorem newVersion_frame (s : State) (t row g v : Nat) (data : Bytes) : Keeps261 s (newVersion s t row g v data) := by
  unfold Keeps261 newVersion
  simp [install_frame .., writeRow_frame ..]

theorem noteLookup_frame (s : State) (t row : Nat) : Keeps67 s (noteLookup s t row) := by
  unfold Keeps67 noteLookup
  simp

theorem putFar_frame (s : State) (f : FarRow) : Keeps67 s (putFar s f) := by
  unfold Keeps67 putFar
  simp

theorem dropFar_frame (s : State) (gone : RowUser → Bool) : Keeps67 s (dropFar s gone) := by
  unfold Keeps67 dropFar
  simp

theorem readLine_frame (s : State) (t dest a : Nat) (use : Purpose) {post} (h : readLine s t dest a use = some post) : Keeps6 s post := by
  unfold readLine at h
  exact sendRequest_frame _ _ _ _ h

theorem chooseFar_frame (s : State) (f : FarRow) (e : Nat × Nat) : Keeps261 s (chooseFar s f e) := by
  have tr : ∀ x y z, Keeps261 x y → Keeps261 y z → Keeps261 x z := by simp +contextual [Keeps261]
  unfold chooseFar
  split
  · simp [putFar_frame .., State.bump_frame .., Keeps261]
  dsimp only
  split
  · simp [putFar_frame .., State.bump_frame .., Keeps261]
  apply ite_keeps (R := Keeps261)
  · split
    · rename_i h
      have hk := foldl_some_keeps (R := Keeps261) (by simp [Keeps261]) tr
        (fun s x t ht => by have hk := readLine_frame _ _ _ _ _ ht; simp_all [Keeps261]) h
      simp_all [putFar_frame .., Keeps261]
    · simp [putFar_frame .., Keeps261]
  · simp [putFar_frame .., readRow_frame .., Keeps261]

theorem beginFar_frame (s : State) (u : RowUser) (t row stamp : Nat) : Keeps261 s (beginFar s u t row stamp) := by
  unfold beginFar
  dsimp only
  apply ite_keeps (R := Keeps261)
  · simp [chooseFar_frame .., Keeps261]
  · split
    · rename_i h
      have hk := readLine_frame _ _ _ _ _ h
      simp_all [putFar_frame .., Keeps261]
    · simp [putFar_frame .., Keeps261]

theorem restartFar_frame (s : State) (f : FarRow) : Keeps261 s (restartFar s f) := by
  unfold Keeps261 restartFar
  simp [beginFar_frame .., State.bump_frame ..]

theorem entryCame_frame (s : State) (u : RowUser) (t row tide status : Nat) (line : Bytes) : Keeps261 s (entryCame s u t row tide status line) := by
  unfold entryCame
  repeat' split
  all_goals simp [putFar_frame .., chooseFar_frame .., Keeps261]

theorem granuleCame_frame (s : State) (u : RowUser) (t row i tide status : Nat) (line : Bytes) : Keeps261 s (granuleCame s u t row i tide status line) := by
  unfold granuleCame
  repeat' split
  all_goals simp [putFar_frame .., restartFar_frame .., Keeps261]

theorem ready_frame (s : State) (u : RowUser) (t row stamp : Nat) : Keeps261 s (ready s u t row stamp).2 := by
  unfold Keeps261 ready
  simp [beginFar_frame ..]

theorem readyAll_frame (s : State) (u : RowUser) (t stamp : Nat) (rows : List Nat) : Keeps261 s (readyAll s u t stamp rows).2 := by
  unfold Keeps261 readyAll
  simp [ready_frame ..]

theorem lookup_frame (s : State) (u : RowUser) (t row stamp : Nat) : Keeps259 s (lookup s u t row stamp).2 := by
  unfold lookup
  dsimp only
  repeat' split
  all_goals simp [State.bump_frame .., noteLookup_frame .., readRow_frame .., Keeps259]

theorem mapCmd_frame (s : State) (cmd : Nat) (f : RowCommand → RowCommand) : Keeps67 s (mapCmd s cmd f) := by
  unfold Keeps67 mapCmd
  simp

theorem endCmd_frame (s : State) (c : RowCommand) (status : Nat) : Keeps259 s (endCmd s c status) := by
  unfold Keeps259 endCmd
  simp [State.finish_frame ..]

theorem sendPut_frame (s : State) (dest t code tag : Nat) (words : List Nat) (blobs : List Bytes) (use : MsgUse) : Keeps7 s (sendPut s dest t code tag words blobs use) := by
  unfold Keeps7 sendPut
  simp [sendMessage_frame ..]

theorem commitStaged_frame (s : State) (put : Nat × Nat) : Keeps67 s (commitStaged s put) := by
  unfold Keeps67 commitStaged
  simp

theorem withdraw_frame (s : State) (put : Nat × Nat) : Keeps67 s (withdraw s put) := by
  unfold Keeps67 withdraw
  simp [release_frame ..]

theorem withdrawPut_frame (s : State) (c : RowCommand) : Keeps261 s (withdrawPut s c) := by
  unfold Keeps261 withdrawPut
  simp [sendPut_frame .., withdraw_frame .., endCmd_frame ..]

theorem settleCmd_frame (s : State) (cmd : Nat) : Keeps261 s (settleCmd s cmd) := by
  unfold settleCmd
  repeat' split
  all_goals simp [withdrawPut_frame .., mapCmd_frame .., commitStaged_frame .., sendPut_frame .., endCmd_frame .., Keeps261]

theorem noteCmd_frame (s : State) (cmd node status : Nat) : Keeps67 s (noteCmd s cmd node status) := by
  unfold Keeps67 noteCmd
  simp [mapCmd_frame ..]

theorem cmdAnswered_frame (s : State) (cmd node status : Nat) : Keeps261 s (cmdAnswered s cmd node status) := by
  unfold Keeps261 cmdAnswered
  simp [settleCmd_frame .., noteCmd_frame .., mapCmd_frame ..]

theorem endPuts_frame (s : State) : Keeps259 s (endPuts s) := by
  unfold Keeps259 endPuts
  simp [endCmd_frame ..]

theorem tell_frame (s : State) (w : Asker) (status : Nat) : Keeps272 s (tell s w status) := by
  unfold tell
  repeat' split
  all_goals simp [settleCmd_frame .., mapCmd_frame .., answerWhole_frame .., Keeps272]

theorem addUpdate_frame (s : State) (u : RowUpdate) : Keeps67 s (addUpdate s u) := by
  unfold Keeps67 addUpdate
  simp

theorem ask_frame (s : State) (dest t row commit : Nat) (kind : AskKind) (msg : SumKind) (ptr : Nat) (data : Bytes) : Keeps117 s (ask s dest t row commit kind msg ptr data) := by
  unfold Keeps117 ask
  simp [sendSums_frame ..]

theorem accept_frame (s : State) (t row node seq : Nat) (data : Bytes) (who : Asker) : Keeps117 s (accept s t row node seq data who).2 := by
  unfold accept
  dsimp only
  split
  · simp [addUpdate_frame .., Keeps117]
  split
  · simp [Keeps117]
  split
  · simp [Keeps117]
  split
  · split <;> simp [ask_frame .., State.unrouted_frame .., Keeps117]
  · split
    · simp [Keeps117]
    · rename_i h
      have hk := reserve_frame _ _ h
      simp_all [addUpdate_frame .., Keeps117]

theorem copyReported_frame (s : State) (t row ptr : Nat) (m : Migration) : Keeps117 s (copyReported s t row ptr m) := by
  unfold copyReported
  repeat' split
  all_goals simp [retire_frame .., Keeps117]

theorem setStored_frame (s : State) (t row p : Nat) : Keeps67 s (setStored s t row p) := by
  unfold Keeps67 setStored
  simp

theorem forgetStored_frame (s : State) (t row : Nat) : Keeps67 s (forgetStored s t row) := by
  unfold Keeps67 forgetStored
  simp [release_frame ..]

theorem nextGranule_frame (s : State) (t row : Nat) {post} (h : nextGranule s t row = some post) : Keeps67 s post.2 := by
  unfold nextGranule at h
  split at h
  · injection h with h; subst h; simp [Keeps67]
  · have hk := reserve_frame _ _ h
    simp_all [Keeps67]

theorem storeVersion_frame (s : State) (shoal t row g v : Nat) (data : Bytes) : Keeps261 s (storeVersion s shoal t row g v data) := by
  unfold storeVersion
  dsimp only
  repeat' split
  all_goals simp [setStored_frame .., writeRow_frame .., sendSums_frame .., copyReported_frame .., Keeps261]

theorem storeSum_frame (s : State) (shoal t row g v ptr : Nat) (sum : Bytes) : Keeps261 s (storeSum s shoal t row g v ptr sum) := by
  unfold Keeps261 storeSum
  simp [bytesAt_frame .., storeVersion_frame ..]

theorem forgetCopy_frame (s : State) (t row : Nat) : Keeps67 s (forgetCopy s t row) := by
  unfold Keeps67 forgetCopy
  simp [dropFar_frame .., forgetStored_frame .., freeAt_frame ..]

theorem dropMigration_frame (s : State) (t row : Nat) : Keeps117 s (dropMigration s t row) := by
  unfold dropMigration
  repeat' split
  all_goals simp [forgetCopy_frame .., sendSums_frame .., Keeps117]

theorem applySums_frame (s : State) (shoal t row : Nat) (l : List (Nat × Bytes)) {post} (h : applySums s shoal t row l = some post) : Keeps261 s post := by
  unfold applySums at h
  refine foldl_some_keeps (R := Keeps261) (by simp [Keeps261]) (by simp +contextual [Keeps261]) (fun s x t ht => ?_) h
  rw [Option.map_eq_some_iff] at ht
  obtain ⟨g, hg, rfl⟩ := ht
  have hk := nextGranule_frame _ _ _ hg
  simp_all [storeSum_frame .., Keeps261]

theorem settleBases_frame (s : State) : Keeps261 s (settleBases s) := by
  unfold settleBases
  refine foldl_keeps (R := Keeps261) (by simp [Keeps261]) (by simp +contextual [Keeps261]) (fun s x => ?_)
  split
  · simp [Keeps261]
  dsimp only
  split
  · rename_i h
    split at h
    · cases h
    · rw [Option.bind_eq_some_iff] at h
      obtain ⟨g, hg, h⟩ := h
      have h1 := nextGranule_frame _ _ _ hg
      have h2 := applySums_frame _ _ _ _ _ h
      simp_all [storeVersion_frame .., dropFar_frame .., Keeps261]
  · apply ite_keeps (R := Keeps261) <;> simp [dropMigration_frame .., sendSums_frame .., forgetCopy_frame .., dropFar_frame .., Keeps261]

theorem storageTake_frame (s : State) (src t : Nat) (kind : SumKind) (commit : Nat) (r : Nat × Nat × Bytes) {post} (h : storageTake s src t kind commit r = some post) : Keeps261 s post := by
  unfold storageTake at h
  split at h
  · rw [Option.map_eq_some_iff] at h
    obtain ⟨g, hg, rfl⟩ := h
    have h1 := reserve_frame _ _ hg
    simp_all [Keeps261]
  · split at h
    · injection h with h; subst h; simp [Keeps261]
    · rw [Option.map_eq_some_iff] at h
      obtain ⟨g, hg, rfl⟩ := h
      have h1 := nextGranule_frame _ _ _ hg
      simp_all [storeSum_frame .., Keeps261]
  · rw [Option.map_eq_some_iff] at h
    obtain ⟨g, hg, rfl⟩ := h
    have h1 := reserve_frame _ _ hg
    simp_all [storeVersion_frame .., Keeps261]
  · injection h with h; subst h; simp [settleBases_frame .., chooseFar_frame .., Keeps261]
  · injection h with h; subst h
    simp only [Keeps261, freeAt_frame ..]
    split <;> simp [forgetStored_frame ..]
  · injection h with h; subst h; simp [forgetCopy_frame .., Keeps261]
  · injection h with h; subst h; simp [Keeps261]

theorem commitRow_frame (s : State) (t row c : Nat) : Keeps261 s (commitRow s t row c) := by
  unfold commitRow
  extract_lets due us sum cur u rest v
  have hu : Keeps261 s u := by
    simp only [u]
    split
    · apply ite_keeps (R := Keeps261) (by simp [Keeps261])
      apply ite_keeps (R := Keeps261)
      · refine getD_keeps (R := Keeps261) (fun t h => ?_) (by simp [dropMigration_frame .., Keeps261])
        have hk := storageTake_frame _ _ _ _ _ _ h
        simp_all [Keeps261]
      · simp [ask_frame .., Keeps261]
    · simp [Keeps261]
  clear_value u rest sum us
  split
  · exact hu
  · apply ite_keeps (R := Keeps261)
    · have hv : Keeps261 s v := by simp_all [v, ask_frame .., Keeps261]
      clear_value v
      extract_lets w
      have hw : Keeps261 s w := by
        simp only [w]
        split <;> simp_all [release_frame .., Keeps261]
      clear_value w
      simp_all [Keeps261]
    · split
      · exact hu
      · rename_i h
        split at h
        · have hk := reserve_frame _ _ h
          simp_all [newVersion_frame .., bytesAt_frame .., Keeps261]
        · cases h
          simp_all [newVersion_frame .., bytesAt_frame .., Keeps261]

theorem commitDue_frame (s : State) : Keeps261 s (commitDue s) := by
  unfold Keeps261 commitDue
  simp [commitRow_frame ..]

theorem replace_frame (s : State) (t row : Nat) (data : Bytes) (who : Asker) : Keeps261 s (replace s t row data who).2 := by
  unfold replace
  dsimp only
  split
  · simp [dropMigration_frame .., State.unrouted_frame .., ask_frame .., addUpdate_frame .., newVersion_frame .., sendSums_frame .., Keeps261]
  · split
    · simp [dropMigration_frame .., State.unrouted_frame .., ask_frame .., addUpdate_frame .., newVersion_frame .., sendSums_frame .., Keeps261]
    · rename_i h
      have h := reserve_frame _ _ h
      simp_all [dropMigration_frame .., State.unrouted_frame .., ask_frame .., addUpdate_frame .., newVersion_frame .., sendSums_frame .., Keeps261]

theorem replaceAll_frame (s : State) (t : Nat) (rows : List (Nat × Bytes)) (who : Asker) : Keeps261 s (replaceAll s t rows who).2 := by
  unfold Keeps261 replaceAll
  simp [replace_frame ..]

theorem stage_frame (s : State) (t apply : Nat) (put : Nat × Nat) (rows : List (Nat × Bytes)) {post} (h : stage s t apply put rows = some post) : Keeps259 s post := by
  unfold stage at h
  apply foldl_some_keeps (R := Keeps259) _ _ _ h
  · simp [writeRow_frame .., Keeps259]
  · simp +contextual [writeRow_frame .., Keeps259]
  · intro s x t h
    rw [Option.map_eq_some_iff] at h
    obtain ⟨q, hq, h⟩ := h
    cases h
    have hq := reserve_frame _ _ hq
    simp_all [writeRow_frame .., Keeps259]

theorem installStaged_frame (s : State) : Keeps117 s (installStaged s) := by
  unfold Keeps117 installStaged
  simp [install_frame .., dropMigration_frame .., release_frame ..]

theorem dropAwaited_frame (s : State) (t row v : Nat) : Keeps67 s (dropAwaited s t row v) := by
  unfold dropAwaited
  repeat' split
  all_goals simp [Keeps67]

theorem serveLine_frame (s : State) (f : Frame) (yellow : Bool) (x : Nat × List Nat) : Keeps117 s (serveLine s f yellow x) := by
  unfold Keeps117 serveLine
  simp [respond_frame ..]

theorem releaseReads_frame (s : State) : Keeps117 s (releaseReads s) := by
  unfold releaseReads
  apply foldl_keeps (R := Keeps117)
  · simp [serveLine_frame .., respond_frame .., Keeps117]
  · simp +contextual [serveLine_frame .., respond_frame .., Keeps117]
  · intro s x
    try dsimp only
    repeat' split
    all_goals simp [serveLine_frame .., respond_frame .., Keeps117]

theorem installed_frame (s : State) (t row v ptr : Nat) : Keeps117 s (installed s t row v ptr) := by
  unfold installed
  repeat' split
  all_goals simp [releaseReads_frame .., install_frame .., dropAwaited_frame .., copyReported_frame .., retire_frame .., Keeps117]

theorem endMigrations_frame (s : State) : Keeps117 s (endMigrations s) := by
  unfold Keeps117 endMigrations
  simp [dropMigration_frame ..]

theorem storageAnswered_frame (done again : State) (tag status : Nat) (ha : Keeps272 done again) : Keeps272 done (storageAnswered done again tag status) := by
  have tr : ∀ x y z, Keeps272 x y → Keeps272 y z → Keeps272 x z := by simp +contextual [Keeps272]
  have hr : ∀ x, Keeps272 x x := by simp [Keeps272]
  have ht (y : State) (w : Asker) : Keeps272 y (tell y w status) := by simp [tell_frame .., Keeps272]
  have hu2 (y : State) (v : RowUpdate) : Keeps272 y (addUpdate y v) := by simp [addUpdate_frame .., Keeps272]
  unfold storageAnswered
  split
  · simp [Keeps272]
  rename_i a _
  extract_lets z u c later
  have hu : Keeps272 done u := by simp [u, Keeps272]
  have hl (s : State) (w : Asker) : Keeps272 s (later s w) := by
    simp only [later]
    split <;> simp [mapCmd_frame .., Keeps272]
  clear_value u c later
  clear z
  split
  · refine tr _ _ _ hu (foldl_keeps (R := Keeps272) (by simp [Keeps272]) tr fun s x => ?_)
    dsimp only
    refine tr _ _ _ ?_ (ht _ _)
    exact ite_keeps (R := Keeps272) (tr _ _ _ (hl s x.1) (hu2 _ _)) (hr _)
  · refine tr _ _ _ ?_ (ht _ _)
    refine ite_keeps (R := Keeps272) hu (tr _ _ _ hu ?_)
    simp [releaseReads_frame .., dropAwaited_frame .., Keeps272]
  all_goals
    repeat' apply ite_keeps (R := Keeps272)
    all_goals first
      | exact ha
      | exact hu
      | exact tr _ _ _ hu (by simp [releaseReads_frame .., dropAwaited_frame .., dropMigration_frame .., Keeps272])

theorem turnServed_frame (s : State) (t : Nat) : Keeps67 s (turnServed s t) := by
  unfold Keeps67 turnServed
  simp

theorem beginMigration_frame (s : State) (t target row : Nat) : Keeps67 s (beginMigration s t target row) := by
  unfold Keeps67 beginMigration
  simp [sendSums_frame ..]

theorem startMigrations_frame (s : State) : Keeps261 s (startMigrations s) := by
  unfold startMigrations
  refine foldl_keeps (R := Keeps261) (by simp [Keeps261]) (by simp +contextual [Keeps261]) (fun s x => ?_)
  dsimp only
  apply ite_keeps (R := Keeps261) (by simp [Keeps261])
  apply ite_keeps (R := Keeps261)
  · refine getD_keeps (R := Keeps261) (fun t h => ?_) (by simp [Keeps261])
    have hk := storageTake_frame _ _ _ _ _ _ h
    simp_all [Keeps261]
  · simp [ask_frame .., Keeps261]

theorem askMigration_frame (s : State) (t target row : Nat) : Keeps117 s (askMigration s t target row) := by
  unfold Keeps117 askMigration
  simp [beginMigration_frame .., sendSums_frame ..]

theorem considerSkew_frame (s : State) (t : Nat) : Keeps117 s (considerSkew s t) := by
  unfold considerSkew
  dsimp only
  repeat' split
  all_goals simp [askMigration_frame .., beginMigration_frame .., Keeps117]

theorem settleCache_frame (s : State) : Keeps67 s (settleCache s) := by
  unfold settleCache
  apply foldl_keeps (R := Keeps67)
  · simp [Keeps67]
  · simp +contextual [Keeps67]
  · intro s x
    try dsimp only
    repeat' split
    all_goals simp [Keeps67]

theorem rowCame_frame (s : State) (p : Purpose) (status : Nat) (line : Bytes) : Keeps261 s (rowCame s p status line) := by
  unfold rowCame
  repeat' split
  all_goals simp [settleCache_frame .., settleBases_frame .., entryCame_frame .., granuleCame_frame .., Keeps261]

theorem atBoundary_frame (s : State) : Keeps261 s (atBoundary s) := by
  unfold Keeps261 atBoundary
  simp [startMigrations_frame .., endMigrations_frame .., endPuts_frame .., installStaged_frame .., commitDue_frame .., dropFar_frame ..]

end Table

end Sys2Proof.Machine
end

