-- ==== Sys2Proof/Laws/CellsTableOps.lean ====
section
/-! SUPPORT. The functions of TableOps.lean keep the canonical form of the memory's cells. -/

namespace Sys2Proof.Machine

set_option linter.unusedSimpArgs false
set_option linter.unusedVariables false
set_option linter.unusedTactic false
set_option linter.unreachableTactic false
set_option Elab.async false

open Sys2Proof Sys2Proof.Num Sys2Proof.Machine

namespace Table

@[simp] theorem writeRow_wf (s : State) (t g : Nat) (data : Bytes) (hm : Cells.wf s.mem.cells = true) : Cells.wf (writeRow s t g data).2.mem.cells = true := by
  unfold writeRow
  simp +contextual (maxDischargeDepth := 20) [hm]

@[simp] theorem bytesAt_wf (s : State) (t p : Nat) (hm : Cells.wf s.mem.cells = true) : Cells.wf (bytesAt s t p).2.2.mem.cells = true := by
  unfold bytesAt
  simp +contextual (maxDischargeDepth := 20) [hm]

@[simp] theorem readRow_wf (s : State) (t row p : Nat) (hm : Cells.wf s.mem.cells = true) : Cells.wf (readRow s t row p).2.2.mem.cells = true := by
  unfold readRow
  simp +contextual (maxDischargeDepth := 20) [noteServed_frame .., hm]

@[simp] theorem newVersion_wf (s : State) (t row g v : Nat) (data : Bytes) (hm : Cells.wf s.mem.cells = true) : Cells.wf (newVersion s t row g v data).mem.cells = true := by
  unfold newVersion
  simp +contextual (maxDischargeDepth := 20) [install_frame .., hm]

@[simp] theorem chooseFar_wf (s : State) (f : FarRow) (e : Nat × Nat) (hm : Cells.wf s.mem.cells = true) : Cells.wf (chooseFar s f e).mem.cells = true := by
  unfold chooseFar
  split
  · simp (maxDischargeDepth := 20) [putFar_frame .., State.bump_frame .., hm]
  dsimp only
  split
  · simp (maxDischargeDepth := 20) [putFar_frame .., State.bump_frame .., hm]
  apply cells_ite
  · split
    · rename_i h
      have hk := foldl_some_keeps (R := Keeps6) (by simp [Keeps6]) (by simp +contextual [Keeps6])
        (fun s x t ht => readLine_frame _ _ _ _ _ ht) h
      simp only [Keeps6] at hk
      simp (maxDischargeDepth := 20) [hk, putFar_frame .., State.bump_frame .., hm]
    · simp (maxDischargeDepth := 20) [putFar_frame .., State.bump_frame .., hm]
  · simp (maxDischargeDepth := 20) [putFar_frame .., State.bump_frame .., hm]

@[simp] theorem beginFar_wf (s : State) (u : RowUser) (t row stamp : Nat) (hm : Cells.wf s.mem.cells = true) : Cells.wf (beginFar s u t row stamp).mem.cells = true := by
  unfold beginFar
  dsimp only
  apply cells_ite
  · simp (maxDischargeDepth := 20) [putFar_frame .., hm]
  · split
    · rename_i h
      have hk := readLine_frame _ _ _ _ _ h
      simp only [Keeps6] at hk
      simp (maxDischargeDepth := 20) [hk, putFar_frame .., hm]
    · simp (maxDischargeDepth := 20) [putFar_frame .., hm]

@[simp] theorem restartFar_wf (s : State) (f : FarRow) (hm : Cells.wf s.mem.cells = true) : Cells.wf (restartFar s f).mem.cells = true := by
  unfold restartFar
  simp +contextual (maxDischargeDepth := 20) [State.bump_frame .., hm]

@[simp] theorem entryCame_wf (s : State) (u : RowUser) (t row tide status : Nat) (line : Bytes) (hm : Cells.wf s.mem.cells = true) : Cells.wf (entryCame s u t row tide status line).mem.cells = true := by
  unfold entryCame
  repeat' split
  all_goals simp +contextual (maxDischargeDepth := 20) [putFar_frame .., hm]

@[simp] theorem granuleCame_wf (s : State) (u : RowUser) (t row i tide status : Nat) (line : Bytes) (hm : Cells.wf s.mem.cells = true) : Cells.wf (granuleCame s u t row i tide status line).mem.cells = true := by
  unfold granuleCame
  repeat' split
  all_goals simp +contextual (maxDischargeDepth := 20) [putFar_frame .., hm]

@[simp] theorem ready_wf (s : State) (u : RowUser) (t row stamp : Nat) (hm : Cells.wf s.mem.cells = true) : Cells.wf (ready s u t row stamp).2.mem.cells = true := by
  unfold ready
  simp +contextual (maxDischargeDepth := 20) [hm]

@[simp] theorem readyAll_wf (s : State) (u : RowUser) (t stamp : Nat) (rows : List Nat) (hm : Cells.wf s.mem.cells = true) : Cells.wf (readyAll s u t stamp rows).2.mem.cells = true := by
  unfold readyAll
  simp +contextual (maxDischargeDepth := 20) [hm]

@[simp] theorem lookup_wf (s : State) (u : RowUser) (t row stamp : Nat) (hm : Cells.wf s.mem.cells = true) : Cells.wf (lookup s u t row stamp).2.mem.cells = true := by
  unfold lookup
  dsimp only
  repeat' split
  all_goals simp +contextual (maxDischargeDepth := 20) [State.bump_frame .., noteLookup_frame .., hm]

@[simp] theorem endCmd_wf (s : State) (c : RowCommand) (status : Nat) (hm : Cells.wf s.mem.cells = true) : Cells.wf (endCmd s c status).mem.cells = true := by
  unfold endCmd
  simp +contextual (maxDischargeDepth := 20) [hm]

@[simp] theorem withdrawPut_wf (s : State) (c : RowCommand) (hm : Cells.wf s.mem.cells = true) : Cells.wf (withdrawPut s c).mem.cells = true := by
  unfold withdrawPut
  simp +contextual (maxDischargeDepth := 20) [sendPut_frame .., withdraw_frame .., hm]

@[simp] theorem settleCmd_wf (s : State) (cmd : Nat) (hm : Cells.wf s.mem.cells = true) : Cells.wf (settleCmd s cmd).mem.cells = true := by
  unfold settleCmd
  repeat' split
  all_goals simp +contextual (maxDischargeDepth := 20) [mapCmd_frame .., commitStaged_frame .., sendPut_frame .., hm]

@[simp] theorem cmdAnswered_wf (s : State) (cmd node status : Nat) (hm : Cells.wf s.mem.cells = true) : Cells.wf (cmdAnswered s cmd node status).mem.cells = true := by
  unfold cmdAnswered
  simp +contextual (maxDischargeDepth := 20) [noteCmd_frame .., hm]

@[simp] theorem endPuts_wf (s : State) (hm : Cells.wf s.mem.cells = true) : Cells.wf (endPuts s).mem.cells = true := by
  unfold endPuts
  simp +contextual (maxDischargeDepth := 20) [hm]

@[simp] theorem tell_wf (s : State) (w : Asker) (status : Nat) (hm : Cells.wf s.mem.cells = true) : Cells.wf (tell s w status).mem.cells = true := by
  unfold tell
  repeat' split
  all_goals simp +contextual (maxDischargeDepth := 20) [mapCmd_frame .., answerWhole_frame .., hm]

@[simp] theorem storeVersion_wf (s : State) (shoal t row g v : Nat) (data : Bytes) (hm : Cells.wf s.mem.cells = true) : Cells.wf (storeVersion s shoal t row g v data).mem.cells = true := by
  unfold storeVersion
  dsimp only
  repeat' split
  all_goals simp +contextual (maxDischargeDepth := 20) [setStored_frame .., sendSums_frame .., copyReported_frame .., hm]

@[simp] theorem storeSum_wf (s : State) (shoal t row g v ptr : Nat) (sum : Bytes) (hm : Cells.wf s.mem.cells = true) : Cells.wf (storeSum s shoal t row g v ptr sum).mem.cells = true := by
  unfold storeSum
  simp +contextual (maxDischargeDepth := 20) [hm]

theorem applySums_wf (s : State) (shoal t row : Nat) (l : List (Nat × Bytes)) (hm : Cells.wf s.mem.cells = true) {post} (h : applySums s shoal t row l = some post) : Cells.wf post.mem.cells = true := by
  unfold applySums at h
  refine foldl_some_wf (fun s x t hm ht => ?_) hm h
  rw [Option.map_eq_some_iff] at ht
  obtain ⟨g, hg, rfl⟩ := ht
  have hk := nextGranule_frame _ _ _ hg
  simp only [Keeps67] at hk
  simp (maxDischargeDepth := 20) [hk, hm]

@[simp] theorem settleBases_wf (s : State) (hm : Cells.wf s.mem.cells = true) : Cells.wf (settleBases s).mem.cells = true := by
  unfold settleBases
  refine foldl_wf _ _ _ (fun s x hm => ?_) hm
  split
  · exact hm
  dsimp only
  split
  · rename_i h
    split at h
    · cases h
    · rw [Option.bind_eq_some_iff] at h
      obtain ⟨g, hg, h⟩ := h
      have h1 := nextGranule_frame _ _ _ hg
      simp only [Keeps67] at h1
      exact applySums_wf _ _ _ _ _ (by simp (maxDischargeDepth := 20) [dropFar_frame .., dropMigration_frame .., sendSums_frame .., forgetCopy_frame .., h1, hm]) h
  · apply cells_ite <;> simp (maxDischargeDepth := 20) [dropFar_frame .., dropMigration_frame .., sendSums_frame .., forgetCopy_frame .., hm]

theorem storageTake_wf (s : State) (src t : Nat) (kind : SumKind) (commit : Nat) (r : Nat × Nat × Bytes) (hm : Cells.wf s.mem.cells = true) {post} (h : storageTake s src t kind commit r = some post) : Cells.wf post.mem.cells = true := by
  unfold storageTake at h
  split at h
  · rw [Option.map_eq_some_iff] at h
    obtain ⟨g, hg, rfl⟩ := h
    have h1 := reserve_frame _ _ hg
    simp only [Keeps67] at h1
    simp (maxDischargeDepth := 20) [h1, freeAt_frame .., forgetStored_frame .., forgetCopy_frame .., hm]
  · split at h
    · injection h with h; subst h; exact hm
    · rw [Option.map_eq_some_iff] at h
      obtain ⟨g, hg, rfl⟩ := h
      have h1 := nextGranule_frame _ _ _ hg
      simp only [Keeps67] at h1
      simp (maxDischargeDepth := 20) [h1, freeAt_frame .., forgetStored_frame .., forgetCopy_frame .., hm]
  · rw [Option.map_eq_some_iff] at h
    obtain ⟨g, hg, rfl⟩ := h
    have h1 := reserve_frame _ _ hg
    simp only [Keeps67] at h1
    simp (maxDischargeDepth := 20) [h1, freeAt_frame .., forgetStored_frame .., forgetCopy_frame .., hm]
  · injection h with h; subst h; simp (maxDischargeDepth := 20) [freeAt_frame .., forgetStored_frame .., forgetCopy_frame .., hm]
  · injection h with h; subst h
    simp only [freeAt_frame ..]
    split <;> simp (maxDischargeDepth := 20) [freeAt_frame .., forgetStored_frame .., forgetCopy_frame .., hm]
  · injection h with h; subst h; simp (maxDischargeDepth := 20) [freeAt_frame .., forgetStored_frame .., forgetCopy_frame .., hm]
  · injection h with h; subst h; exact hm

@[simp] theorem commitRow_wf (s : State) (t row c : Nat) (hm : Cells.wf s.mem.cells = true) : Cells.wf (commitRow s t row c).mem.cells = true := by
  unfold commitRow
  extract_lets due us sum cur u rest v
  have hu : Cells.wf u.mem.cells = true := by
    simp only [u]
    split
    · apply cells_ite hm
      apply cells_ite
      · exact getD_wf (fun t h => storageTake_wf _ _ _ _ _ _ hm h) (by simp (maxDischargeDepth := 20) [dropMigration_frame .., ask_frame .., release_frame .., hm])
      · simp (maxDischargeDepth := 20) [dropMigration_frame .., ask_frame .., release_frame .., hm]
    · exact hm
  clear_value u rest sum us
  split
  · exact hu
  · apply cells_ite
    · have hv : Cells.wf v.mem.cells = true := by simp (maxDischargeDepth := 20) [v, dropMigration_frame .., ask_frame .., release_frame .., hu]
      clear_value v
      extract_lets w
      have hw : Cells.wf w.mem.cells = true := by
        simp only [w]
        split <;> simp (maxDischargeDepth := 20) [dropMigration_frame .., ask_frame .., release_frame .., hv]
      exact hw
    · split
      · exact hu
      · rename_i h
        split at h
        · have hk := reserve_frame _ _ h
          simp only [Keeps67] at hk
          simp (maxDischargeDepth := 20) [hk, dropMigration_frame .., ask_frame .., release_frame .., hu]
        · cases h
          simp (maxDischargeDepth := 20) [dropMigration_frame .., ask_frame .., release_frame .., hu]

@[simp] theorem commitDue_wf (s : State) (hm : Cells.wf s.mem.cells = true) : Cells.wf (commitDue s).mem.cells = true := by
  unfold commitDue
  simp +contextual (maxDischargeDepth := 20) [hm]

@[simp] theorem replace_wf (s : State) (t row : Nat) (data : Bytes) (who : Asker) (hm : Cells.wf s.mem.cells = true) : Cells.wf (replace s t row data who).2.mem.cells = true := by
  unfold replace
  dsimp only
  split
  · simp [dropMigration_frame .., State.unrouted_frame .., ask_frame .., addUpdate_frame .., hm]
  · split
    · simp [dropMigration_frame .., State.unrouted_frame .., ask_frame .., addUpdate_frame .., hm]
    · rename_i h
      have h := reserve_frame _ _ h
      have hk : (dropMigration s t row).mem = s.mem := by simp [dropMigration_frame .., State.unrouted_frame .., ask_frame .., addUpdate_frame ..]
      simp_all [dropMigration_frame .., State.unrouted_frame .., ask_frame .., addUpdate_frame ..]

@[simp] theorem replaceAll_wf (s : State) (t : Nat) (rows : List (Nat × Bytes)) (who : Asker) (hm : Cells.wf s.mem.cells = true) : Cells.wf (replaceAll s t rows who).2.mem.cells = true := by
  unfold replaceAll
  simp +contextual (maxDischargeDepth := 20) [hm]

theorem stage_wf (s : State) (t apply : Nat) (put : Nat × Nat) (rows : List (Nat × Bytes)) (hm : Cells.wf s.mem.cells = true) {post} (h : stage s t apply put rows = some post) : Cells.wf post.mem.cells = true := by
  unfold stage at h
  apply foldl_some_wf _ hm h
  intro s x t hm h
  rw [Option.map_eq_some_iff] at h
  obtain ⟨q, hq, h⟩ := h
  cases h
  have hq := reserve_frame _ _ hq
  simp_all

@[simp] theorem storageAnswered_wf (done again : State) (tag status : Nat) (hm : Cells.wf done.mem.cells = true) (ha : Cells.wf again.mem.cells = true) : Cells.wf (storageAnswered done again tag status).mem.cells = true := by
  unfold storageAnswered
  split
  · exact hm
  dsimp only
  split
  · refine foldl_wf _ _ _ (fun s x hm => ?_) hm
    refine tell_wf _ _ _ (cells_ite ?_ hm)
    split <;> simp (maxDischargeDepth := 20) [mapCmd_frame .., addUpdate_frame .., releaseReads_frame .., dropAwaited_frame .., dropMigration_frame .., hm]
  all_goals repeat' split
  all_goals simp (maxDischargeDepth := 20) [mapCmd_frame .., addUpdate_frame .., releaseReads_frame .., dropAwaited_frame .., dropMigration_frame .., hm, ha]

@[simp] theorem startMigrations_wf (s : State) (hm : Cells.wf s.mem.cells = true) : Cells.wf (startMigrations s).mem.cells = true := by
  unfold startMigrations
  refine foldl_wf _ _ _ (fun s x hm => ?_) hm
  dsimp only
  apply cells_ite hm
  apply cells_ite
  · refine getD_wf (fun t h => ?_) hm
    exact storageTake_wf _ _ _ _ _ _ (by exact hm) h
  · simp (maxDischargeDepth := 20) [ask_frame .., hm]

@[simp] theorem rowCame_wf (s : State) (p : Purpose) (status : Nat) (line : Bytes) (hm : Cells.wf s.mem.cells = true) : Cells.wf (rowCame s p status line).mem.cells = true := by
  unfold rowCame
  repeat' split
  all_goals simp +contextual (maxDischargeDepth := 20) [settleCache_frame .., hm]

@[simp] theorem atBoundary_wf (s : State) (hm : Cells.wf s.mem.cells = true) : Cells.wf (atBoundary s).mem.cells = true := by
  unfold atBoundary
  simp +contextual (maxDischargeDepth := 20) [endMigrations_frame .., installStaged_frame .., dropFar_frame .., hm]

end Table

end Sys2Proof.Machine
end

