-- ==== Sys2Proof/Laws/FrameTableRows.lean ====
section
/-! SUPPORT. Frames of TableRows.lean: which units of the state each of its functions leaves as they are. -/

namespace Sys2Proof.Machine

set_option linter.unusedSimpArgs false
set_option linter.unusedVariables false
set_option linter.unusedTactic false
set_option linter.unreachableTactic false
set_option Elab.async false

open Sys2Proof Sys2Proof.Num Sys2Proof.Machine

theorem lookupAll_frame (s : State) (u : RowUser) (t stamp : Nat) (rows : List Nat) : Keeps259 s (lookupAll s u t stamp rows).2.2 := by
  have tr : ∀ x y z, Keeps259 x y → Keeps259 y z → Keeps259 x z := by simp +contextual [Keeps259]
  unfold lookupAll
  refine foldl_keeps_of (R := Keeps259) (fun a : Nat × Bytes × State => a.2.2) (x := (St.ok, [], s)) (by simp [Keeps259]) tr fun x y => ?_
  split
  · simp [Keeps259]
  · have hk := Table.lookup_frame x.2.2 u t y stamp
    split <;> (rename_i h; rw [h] at hk; simpa only [Keeps259] using hk)

theorem lookupRows_frame (s : State) (u : RowUser) (t stamp : Nat) (rows : List Nat) : Keeps261 s (lookupRows s u t stamp rows).2.2.2 := by
  unfold Keeps261 lookupRows
  simp [Table.readyAll_frame .., lookupAll_frame .., Table.dropFar_frame ..]

theorem execRowGet_frame (cmd : Nat) (rows : HostRead) (x_ : Unit) (s : State) {post : State} (h : execRowGet cmd rows x_ s = .next post) : Keeps261 s post := by
  unfold execRowGet at h
  split at h
  · injection h with h; subst h; simp [Keeps261]
  split at h
  · injection h with h; subst h; simp [Keeps261]
  split at h
  · injection h with h; subst h; simp [holdInputs_frame .., Keeps261]
  split at h
  · injection h with h; subst h; simp [State.finish_frame .., Keeps261]
  split at h
  · injection h with h; subst h; simp [State.refuse_frame .., Keeps261]
  extract_lets q at h
  have hq : Keeps261 s q.2.2.2 := by simp [q, lookupRows_frame .., touchInput_frame .., Keeps261]
  clear_value q
  repeat' split at h
  all_goals (injection h with h; subst h; simp_all [holdCmd_frame .., State.finish_frame .., State.cmdWrite_frame .., State.refuse_frame .., Keeps261])

theorem execRowPut_frame (cmd : Nat) (rows data : HostRead) (s : State) {post : State} (h : execRowPut cmd rows data s = .next post) : Keeps261 s post := by
  have tr : ∀ x y z, Keeps261 x y → Keeps261 y z → Keeps261 x z := by simp +contextual [Keeps261]
  unfold execRowPut at h
  split at h
  · injection h with h; subst h; simp [Keeps261]
  split at h
  · injection h with h; subst h; simp [Keeps261]
  split at h
  · injection h with h; subst h; simp [holdInputs_frame .., Keeps261]
  split at h
  · injection h with h; subst h; simp [State.finish_frame .., Keeps261]
  dsimp only at h
  generalize readInput (touchInput s _ _) _ _ data = d at h
  split at h
  · injection h with h; subst h; simp [holdInputs_frame .., touchInput_frame .., Keeps261]
  split at h
  · injection h with h; subst h; simp [State.refuse_frame .., touchInput_frame .., Keeps261]
  split at h
  · injection h with h; subst h; simp [State.refuse_frame .., startCmd_frame .., touchInput_frame .., Keeps261]
  rename_i u hl
  injection h with h; subst h
  have hu : Keeps261 s u := by
    split at hl
    · rw [Option.map_eq_some_iff] at hl
      obtain ⟨x, hx, hl⟩ := hl
      cases hl
      have hx := Table.stage_frame _ _ _ _ _ hx
      simp_all [startCmd_frame .., touchInput_frame .., Keeps261]
    · injection hl with hl
      have hl := congrArg Prod.snd hl
      dsimp only at hl
      subst hl
      simp [Table.replaceAll_frame .., startCmd_frame .., touchInput_frame .., Keeps261]
  refine tr _ _ _ hu ?_
  simp only [Keeps261, Table.settleCmd_frame ..]
  refine tr _ _ _ (?_ : Keeps261 u _) (foldl_keeps (R := Keeps261) (by simp [Keeps261]) tr fun s x => ?_)
  · simp [Keeps261]
  · split <;> simp [Table.noteCmd_frame .., State.unrouted_frame .., Table.sendPut_frame .., Keeps261]

theorem numberRows_frame (rows : List (Nat × Bytes)) (s : State) : Keeps6 s (numberRows rows s).2 := by
  unfold Keeps6 numberRows
  simp [nextSeq_frame ..]

theorem execRowUpdate_frame (cmd : Nat) (rows data : HostRead) (s : State) {post : State} (h : execRowUpdate cmd rows data s = .next post) : Keeps261 s post := by
  unfold execRowUpdate at h
  dsimp only at h
  repeat' split at h
  all_goals (injection h with h; subst h; simp [holdInputs_frame .., State.finish_frame .., touchInput_frame .., State.refuse_frame .., numberRows_frame .., startCmd_frame .., Table.accept_frame .., Table.noteCmd_frame .., State.unrouted_frame .., Table.sendSums_frame .., Table.settleCmd_frame .., holdCmd_frame .., fetchInput_frame .., nextSeq_frame .., Keeps261])

theorem execPutAnswerDeadline_frame (cmd : Nat) (s : State) {post : State} (h : execPutAnswerDeadline cmd s = .next post) : Keeps261 s post := by
  unfold execPutAnswerDeadline at h
  repeat' split at h
  all_goals (injection h with h; subst h; simp [Table.withdrawPut_frame .., Keeps261])

theorem execTablePutRows_frame (src : Nat) (put : PutRows) (s : State) {post : State} (h : execTablePutRows src put s = .next post) : Keeps272 s post := by
  unfold execTablePutRows at h
  repeat' split at h
  all_goals first
    | (injection h with h; subst h; simp [answerMsg_frame .., Table.replaceAll_frame .., Keeps272]; done)
    | skip
  all_goals dsimp only at h
  all_goals repeat' split at h
  all_goals try (have hk := Table.stage_frame _ _ _ _ _ (by assumption))
  all_goals (injection h with h; subst h; simp_all [answerMsg_frame .., Table.replaceAll_frame .., takeDelivered_frame .., Table.tell_frame .., Keeps272])

theorem execTablePutCommit_frame (src tag : Nat) (s : State) {post : State} (h : execTablePutCommit src tag s = .next post) : Keeps117 s post := by
  unfold execTablePutCommit at h
  repeat' split at h
  all_goals (injection h with h; subst h; simp [answerMsg_frame .., Table.commitStaged_frame .., Keeps117])

theorem execTablePutWithdraw_frame (src tag : Nat) (s : State) {post : State} (h : execTablePutWithdraw src tag s = .next post) : Keeps117 s post := by
  unfold execTablePutWithdraw at h
  repeat' split at h
  all_goals (injection h with h; subst h; simp [answerMsg_frame .., Table.withdraw_frame .., Keeps117])

theorem takeSums_frame (s : State) (src t : Nat) (m : UpdateMsg) (who : Asker) : Keeps261 s (takeSums s src t m who).2 := by
  have tr : ∀ x y z, Keeps261 x y → Keeps261 y z → Keeps261 x z := by simp +contextual [Keeps261]
  have hr : ∀ x, Keeps261 x x := by simp [Keeps261]
  unfold takeSums
  split
  · refine foldl_keeps_of (R := Keeps261) (fun a : Nat × State => a.2) (x := (St.ok, s)) hr tr fun x y => ?_
    simp [Table.accept_frame .., Keeps261]
  · exact foldl_keeps (R := Keeps261) hr tr fun s x => by simp [Table.installed_frame .., Keeps261]
  · exact foldl_keeps (R := Keeps261) hr tr fun s x => by simp [Table.beginMigration_frame .., Keeps261]
  · exact foldl_keeps (R := Keeps261) hr tr fun s x => by simp [Table.dropMigration_frame .., Keeps261]
  · refine foldl_keeps_of (R := Keeps261) (fun a : Nat × State => a.2) (x := (St.ok, s)) hr tr fun x y => ?_
    split
    · rename_i h
      have hk := Table.storageTake_frame _ _ _ _ _ _ h
      simp_all [Keeps261]
    · exact hr _

theorem execTableUpdateSums_frame (src : Nat) (sums : UpdateMsg) (s : State) {post : State} (h : execTableUpdateSums src sums s = .next post) : Keeps272 s post := by
  unfold execTableUpdateSums at h
  repeat' split at h
  all_goals (injection h with h; subst h; simp [answerMsg_frame .., takeSums_frame .., takeDelivered_frame .., Table.tell_frame .., Table.accept_frame .., Table.installed_frame .., Keeps272])

theorem execTableLoadReport_frame (src table load : Nat) (s : State) {post : State} (h : execTableLoadReport src table load s = .next post) : Keeps117 s post := by
  unfold execTableLoadReport at h
  repeat' split at h
  all_goals (injection h with h; subst h; simp [answerMsg_frame .., Table.considerSkew_frame .., Keeps117])

theorem execLoadPeriod_frame (s : State) {post : State} (h : execLoadPeriod s = .next post) : Keeps117 s post := by
  unfold execLoadPeriod at h
  repeat' split at h
  all_goals (injection h with h; subst h; simp [Table.turnServed_frame .., sendMessage_frame .., Table.considerSkew_frame .., State.setNum_frame .., Keeps117])

theorem execMigrationSwitch_frame (table row : Nat) (s : State) {post : State} (h : execMigrationSwitch table row s = .next post) : Keeps117 s post := by
  unfold execMigrationSwitch at h
  dsimp only at h
  repeat' split at h
  all_goals (injection h with h; subst h; simp [Table.forgetStored_frame .., Table.setEntry_frame .., Table.retire_frame .., State.bump_frame .., Table.dropMigration_frame .., Keeps117])

theorem takeCache_frame (s : State) (t : Nat) : Keeps236 s (takeCache s t).2 := by
  unfold Keeps236 takeCache
  simp

theorem execHotRowRefresh_frame (table : Nat) (s : State) {post : State} (h : execHotRowRefresh table s = .next post) : Keeps261 s post := by
  unfold execHotRowRefresh at h
  repeat' split at h
  all_goals (injection h with h; subst h; simp [takeCache_frame .., Table.dropFar_frame .., Table.settleCache_frame .., Table.beginFar_frame .., Keeps261])

theorem execGranuleFree_frame (s : State) {post : State} (h : execGranuleFree s = .next post) : Keeps67 s post := by
  unfold execGranuleFree at h
  repeat' split at h
  all_goals (injection h with h; subst h; simp [Table.release_frame .., Keeps67])

theorem execFreshClear_frame (s : State) {post : State} (h : execFreshClear s = .next post) : Keeps67 s post := by
  unfold execFreshClear at h
  repeat' split at h
  all_goals (injection h with h; subst h; simp [Keeps67])

theorem clearTable_frame (s : State) (t : Nat) : Keeps68 s (clearTable s t) := by
  unfold Keeps68 clearTable
  simp [clearKeys_frame ..]

theorem execTableStorageRelease_frame (table : Nat) (s : State) {post : State} (h : execTableStorageRelease table s = .next post) : Keeps68 s post := by
  unfold execTableStorageRelease at h
  repeat' split at h
  all_goals (injection h with h; subst h; simp [clearTable_frame .., Keeps68])

theorem gatherEnds_frame (c : Graph.Ctx) (s : State) : Keeps261 s (gatherEnds c s).state := by
  unfold gatherEnds
  split
  · simp [Keeps261]
  · split
    · simp [Keeps261]
    · dsimp only
      repeat' split
      all_goals simp [lookupRows_frame .., Keeps261]

theorem execGather_frame (run : Nat) (x_ : Unit) (s : State) {post : State} (h : execGather run x_ s = .next post) : Keeps299 s post := by
  unfold execGather at h
  repeat' split at h
  all_goals (injection h with h; subst h; simp [gatherEnds_frame .., Keeps299])

theorem mergeEnds_frame (run : Nat) (c : Graph.Ctx) (s : State) : Keeps243 s (mergeEnds run c s).state := by
  unfold mergeEnds
  repeat' split
  all_goals simp [numberRows_frame .., Table.accept_frame .., Table.sendSums_frame .., State.bump_frame .., Graph.mapRun_frame .., nextSeq_frame .., Keeps243]

theorem execMergeUpdate_frame (run : Nat) (s : State) {post : State} (h : execMergeUpdate run s = .next post) : Keeps299 s post := by
  unfold execMergeUpdate at h
  repeat' split at h
  all_goals (injection h with h; subst h; simp [mergeEnds_frame .., Keeps299])

end Sys2Proof.Machine
end

