-- ==== Sys2Proof/Laws/CellsTableRows.lean ====
section
/-! SUPPORT. The functions of TableRows.lean keep the canonical form of the memory's cells. -/

namespace Sys2Proof.Machine

set_option linter.unusedSimpArgs false
set_option linter.unusedVariables false
set_option linter.unusedTactic false
set_option linter.unreachableTactic false
set_option Elab.async false

open Sys2Proof Sys2Proof.Num Sys2Proof.Machine

@[simp] theorem lookupAll_wf (s : State) (u : RowUser) (t stamp : Nat) (rows : List Nat) (hm : Cells.wf s.mem.cells = true) : Cells.wf (lookupAll s u t stamp rows).2.2.mem.cells = true := by
  unfold lookupAll
  refine foldl_wf_of (fun a : Nat × Bytes × State => a.2.2) (x := (St.ok, [], s)) (fun x y h => ?_) hm
  split
  · exact h
  · have hk := Table.lookup_wf x.2.2 u t y stamp h
    split <;> (rename_i h; rw [h] at hk; exact hk)

@[simp] theorem lookupRows_wf (s : State) (u : RowUser) (t stamp : Nat) (rows : List Nat) (hm : Cells.wf s.mem.cells = true) : Cells.wf (lookupRows s u t stamp rows).2.2.2.mem.cells = true := by
  unfold lookupRows
  simp +contextual (maxDischargeDepth := 20) [Table.dropFar_frame .., hm]

theorem execRowGet_wf (cmd : Nat) (rows : HostRead) (x_ : Unit) (s : State) (hm : Cells.wf s.mem.cells = true) {post : State} (h : execRowGet cmd rows x_ s = .next post) : Cells.wf post.mem.cells = true := by
  unfold execRowGet at h
  split at h
  · exact next_wf h hm
  split at h
  · exact next_wf h hm
  split at h
  · injection h with h; subst h; simp (maxDischargeDepth := 20) [holdCmd_frame .., hm]
  split at h
  · injection h with h; subst h; simp (maxDischargeDepth := 20) [holdCmd_frame .., hm]
  split at h
  · injection h with h; subst h; simp (maxDischargeDepth := 20) [holdCmd_frame .., hm]
  extract_lets q at h
  have hq : Cells.wf q.2.2.2.mem.cells = true := by simp (maxDischargeDepth := 20) [q, holdCmd_frame .., hm]
  clear_value q
  repeat' split at h
  all_goals (injection h with h; subst h; simp (maxDischargeDepth := 20) [holdCmd_frame .., hq])

theorem execRowPut_wf (cmd : Nat) (rows data : HostRead) (s : State) (hm : Cells.wf s.mem.cells = true) {post : State} (h : execRowPut cmd rows data s = .next post) : Cells.wf post.mem.cells = true := by
  unfold execRowPut at h
  split at h
  · exact next_wf h hm
  split at h
  · exact next_wf h hm
  split at h
  · injection h with h; subst h; simp (maxDischargeDepth := 20) [startCmd_frame .., Table.noteCmd_frame .., State.unrouted_frame .., Table.sendPut_frame .., hm]
  split at h
  · injection h with h; subst h; simp (maxDischargeDepth := 20) [startCmd_frame .., Table.noteCmd_frame .., State.unrouted_frame .., Table.sendPut_frame .., hm]
  dsimp only at h
  generalize readInput (touchInput s _ _) _ _ data = d at h
  split at h
  · injection h with h; subst h; simp (maxDischargeDepth := 20) [startCmd_frame .., Table.noteCmd_frame .., State.unrouted_frame .., Table.sendPut_frame .., hm]
  split at h
  · injection h with h; subst h; simp (maxDischargeDepth := 20) [startCmd_frame .., Table.noteCmd_frame .., State.unrouted_frame .., Table.sendPut_frame .., hm]
  split at h
  · injection h with h; subst h; simp (maxDischargeDepth := 20) [startCmd_frame .., Table.noteCmd_frame .., State.unrouted_frame .., Table.sendPut_frame .., hm]
  rename_i u hl
  injection h with h; subst h
  have hu : Cells.wf u.mem.cells = true := by
    split at hl
    · rw [Option.map_eq_some_iff] at hl
      obtain ⟨x, hx, hl⟩ := hl
      cases hl
      exact Table.stage_wf _ _ _ _ _ (by simp (maxDischargeDepth := 20) [startCmd_frame .., Table.noteCmd_frame .., State.unrouted_frame .., Table.sendPut_frame .., hm]) hx
    · injection hl with hl
      have hl := congrArg Prod.snd hl
      dsimp only at hl
      subst hl
      simp (maxDischargeDepth := 20) [startCmd_frame .., Table.noteCmd_frame .., State.unrouted_frame .., Table.sendPut_frame .., hm]
  refine Table.settleCmd_wf _ _ (foldl_wf _ _ _ (fun s x hm => ?_) hu)
  split <;> simp (maxDischargeDepth := 20) [startCmd_frame .., Table.noteCmd_frame .., State.unrouted_frame .., Table.sendPut_frame .., hm]

theorem execRowUpdate_wf (cmd : Nat) (rows data : HostRead) (s : State) (hm : Cells.wf s.mem.cells = true) {post : State} (h : execRowUpdate cmd rows data s = .next post) : Cells.wf post.mem.cells = true := by
  unfold execRowUpdate at h
  dsimp only at h
  repeat' split at h
  all_goals (injection h with h; subst h; simp +contextual (maxDischargeDepth := 20) [numberRows_frame .., startCmd_frame .., Table.accept_frame .., Table.noteCmd_frame .., State.unrouted_frame .., Table.sendSums_frame .., hm])

theorem execPutAnswerDeadline_wf (cmd : Nat) (s : State) (hm : Cells.wf s.mem.cells = true) {post : State} (h : execPutAnswerDeadline cmd s = .next post) : Cells.wf post.mem.cells = true := by
  unfold execPutAnswerDeadline at h
  repeat' split at h
  all_goals (injection h with h; subst h; simp +contextual (maxDischargeDepth := 20) [hm])

theorem execTablePutRows_wf (src : Nat) (put : PutRows) (s : State) (hm : Cells.wf s.mem.cells = true) {post : State} (h : execTablePutRows src put s = .next post) : Cells.wf post.mem.cells = true := by
  unfold execTablePutRows at h
  repeat' split at h
  all_goals first
    | (injection h with h; subst h; simp (maxDischargeDepth := 20) [answerMsg_frame .., takeDelivered_frame .., hm]; done)
    | skip
  all_goals dsimp only at h
  all_goals repeat' split at h
  all_goals first
    | (injection h with h; subst h; simp (maxDischargeDepth := 20) [answerMsg_frame .., takeDelivered_frame .., hm]; done)
    | (have hk := Table.stage_wf _ _ _ _ _ hm (by assumption); injection h with h; subst h; simp (maxDischargeDepth := 20) [answerMsg_frame .., takeDelivered_frame .., hk])

@[simp] theorem takeSums_wf (s : State) (src t : Nat) (m : UpdateMsg) (who : Asker) (hm : Cells.wf s.mem.cells = true) : Cells.wf (takeSums s src t m who).2.mem.cells = true := by
  unfold takeSums
  split
  · exact foldl_wf_of (fun a : Nat × State => a.2) (x := (St.ok, s)) (fun x y hm => by simp (maxDischargeDepth := 20) [Table.accept_frame .., Table.installed_frame .., Table.beginMigration_frame .., Table.dropMigration_frame .., hm]) hm
  · exact foldl_wf _ _ _ (fun s x hm => by simp (maxDischargeDepth := 20) [Table.accept_frame .., Table.installed_frame .., Table.beginMigration_frame .., Table.dropMigration_frame .., hm]) hm
  · exact foldl_wf _ _ _ (fun s x hm => by simp (maxDischargeDepth := 20) [Table.accept_frame .., Table.installed_frame .., Table.beginMigration_frame .., Table.dropMigration_frame .., hm]) hm
  · exact foldl_wf _ _ _ (fun s x hm => by simp (maxDischargeDepth := 20) [Table.accept_frame .., Table.installed_frame .., Table.beginMigration_frame .., Table.dropMigration_frame .., hm]) hm
  · refine foldl_wf_of (fun a : Nat × State => a.2) (x := (St.ok, s)) (fun x y hm => ?_) hm
    split
    · rename_i h
      exact Table.storageTake_wf _ _ _ _ _ _ hm h
    · exact hm

theorem execTableUpdateSums_wf (src : Nat) (sums : UpdateMsg) (s : State) (hm : Cells.wf s.mem.cells = true) {post : State} (h : execTableUpdateSums src sums s = .next post) : Cells.wf post.mem.cells = true := by
  unfold execTableUpdateSums at h
  repeat' split at h
  all_goals (injection h with h; subst h; simp +contextual (maxDischargeDepth := 20) [answerMsg_frame .., takeDelivered_frame .., hm])

@[simp] theorem takeCache_wf (s : State) (t : Nat) (hm : Cells.wf s.mem.cells = true) : Cells.wf (takeCache s t).2.mem.cells = true := by
  unfold takeCache
  simp +contextual (maxDischargeDepth := 20) [hm]

theorem execHotRowRefresh_wf (table : Nat) (s : State) (hm : Cells.wf s.mem.cells = true) {post : State} (h : execHotRowRefresh table s = .next post) : Cells.wf post.mem.cells = true := by
  unfold execHotRowRefresh at h
  repeat' split at h
  all_goals (injection h with h; subst h; simp +contextual (maxDischargeDepth := 20) [Table.dropFar_frame .., Table.settleCache_frame .., hm])

@[simp] theorem clearTable_wf (s : State) (t : Nat) (hm : Cells.wf s.mem.cells = true) : Cells.wf (clearTable s t).mem.cells = true := by
  unfold clearTable
  simp +contextual (maxDischargeDepth := 20) [clearKeys_frame .., hm]

theorem execTableStorageRelease_wf (table : Nat) (s : State) (hm : Cells.wf s.mem.cells = true) {post : State} (h : execTableStorageRelease table s = .next post) : Cells.wf post.mem.cells = true := by
  unfold execTableStorageRelease at h
  repeat' split at h
  all_goals (injection h with h; subst h; simp +contextual (maxDischargeDepth := 20) [hm])

@[simp] theorem gatherEnds_wf (c : Graph.Ctx) (s : State) (hm : Cells.wf s.mem.cells = true) : Cells.wf (gatherEnds c s).state.mem.cells = true := by
  unfold gatherEnds
  split
  · exact hm
  · split
    · exact hm
    · dsimp only
      repeat' split
      all_goals simp (maxDischargeDepth := 20) [hm]

theorem execGather_wf (run : Nat) (x_ : Unit) (s : State) (hm : Cells.wf s.mem.cells = true) {post : State} (h : execGather run x_ s = .next post) : Cells.wf post.mem.cells = true := by
  unfold execGather at h
  repeat' split at h
  all_goals (injection h with h; subst h; simp +contextual (maxDischargeDepth := 20) [hm])

theorem execMergeUpdate_wf (run : Nat) (s : State) (hm : Cells.wf s.mem.cells = true) {post : State} (h : execMergeUpdate run s = .next post) : Cells.wf post.mem.cells = true := by
  unfold execMergeUpdate at h
  repeat' split at h
  all_goals (injection h with h; subst h; simp +contextual (maxDischargeDepth := 20) [mergeEnds_frame .., hm])

end Sys2Proof.Machine
end

