-- ==== Sys2Proof/Laws/FrameBerthRows.lean ====
section
/-! SUPPORT. Frames of BerthRows.lean: which units of the state each of its functions leaves as they are. -/

namespace Sys2Proof.Machine

set_option linter.unusedSimpArgs false
set_option linter.unusedVariables false
set_option linter.unusedTactic false
set_option linter.unreachableTactic false
set_option Elab.async false

open Sys2Proof Sys2Proof.Machine

namespace Berth

theorem createLocal_frame (s : State) (cmd : Nat) (d : Bytes) : Keeps292 s (createLocal s cmd d) := by
  unfold createLocal
  dsimp only
  split
  · simp [State.refuse_frame .., Keeps292]
  split
  · unfold waitForPages
    dsimp only
    apply ite_keeps (R := Keeps292) <;> simp [demoteFor_frame .., stallCmd_frame .., State.refuse_frame .., Keeps292]
  · rename_i h
    rw [Option.bind_eq_some_iff] at h
    obtain ⟨t, ht, h⟩ := h
    have hk := recordPage_frame _ _ ht
    have hm := allocPages_frame _ _ _ _ _ h
    simp_all [own_frame .., record_frame .., startCmd_frame .., answer_frame .., Keeps292]

theorem createRemote_frame (s : State) (cmd home : Nat) (d : Bytes) : Keeps260 s (createRemote s cmd home d) := by
  unfold Keeps260 createRemote
  simp [State.unrouted_frame .., State.refuse_frame .., sendMessage_frame .., startCmd_frame ..]

end Berth

theorem execCreate_frame (cmd : Nat) (x_ : Unit) (s : State) {post : State} (h : execCreate cmd x_ s = .next post) : Keeps292 s post := by
  unfold execCreate at h
  repeat' split at h
  all_goals (injection h with h; subst h; simp [State.finish_frame .., Berth.createLocal_frame .., Berth.createRemote_frame .., Keeps292])

namespace Berth

theorem releaseOwned_frame (s : State) (o : OwnedBerth) (cmd : Nat) : Keeps292 s (releaseOwned s o cmd) := by
  unfold releaseOwned
  repeat' split
  all_goals simp [letGo_frame .., releaseHome_frame .., dropHeld_frame .., sendControl_frame .., State.finish_frame .., dropWaits_frame .., freePages_frame .., Keeps292]

theorem onResident_frame (s : State) (o : OwnedBerth) (c : HostCmd) : Keeps292 s (onResident s o c) := by
  unfold Keeps292 onResident
  simp [startPark_frame .., finish_frame .., releaseOwned_frame .., startHandoff_frame .., startCheckpoint_frame .., mapOwned_frame ..]

theorem command_frame (s : State) (cmd : Nat) (c : HostCmd) : Keeps292 s (command s cmd c) := by
  unfold command
  dsimp only
  repeat' split
  all_goals simp [refuseStale_frame .., State.finish_frame .., finish_frame .., releaseHome_frame .., wait_frame .., onResident_frame .., startCmd_frame .., onParked_frame .., waitParked_frame .., Keeps292]

end Berth

theorem berthRow_frame (s : State) (cmd opcode : Nat) : Keeps292 s (berthRow s cmd opcode) := by
  unfold berthRow
  repeat' split
  all_goals simp [Berth.command_frame .., Keeps292]

theorem execPark_frame (cmd : Nat) (s : State) {post : State} (h : execPark cmd s = .next post) : Keeps292 s post := by
  unfold execPark at h
  repeat' split at h
  all_goals (injection h with h; subst h; simp [berthRow_frame .., Keeps292])

theorem execWake_frame (cmd : Nat) (s : State) {post : State} (h : execWake cmd s = .next post) : Keeps292 s post := by
  unfold execWake at h
  repeat' split at h
  all_goals (injection h with h; subst h; simp [berthRow_frame .., Keeps292])

theorem execRelease_frame (cmd : Nat) (s : State) {post : State} (h : execRelease cmd s = .next post) : Keeps292 s post := by
  unfold execRelease at h
  repeat' split at h
  all_goals (injection h with h; subst h; simp [berthRow_frame .., Keeps292])

theorem execHandoff_frame (cmd : Nat) (s : State) {post : State} (h : execHandoff cmd s = .next post) : Keeps292 s post := by
  unfold execHandoff at h
  repeat' split at h
  all_goals (injection h with h; subst h; simp [berthRow_frame .., Keeps292])

theorem execCheckpoint_frame (cmd : Nat) (s : State) {post : State} (h : execCheckpoint cmd s = .next post) : Keeps292 s post := by
  unfold execCheckpoint at h
  repeat' split at h
  all_goals (injection h with h; subst h; simp [berthRow_frame .., Keeps292])

theorem execParkDone_frame (berth : Nat) (s : State) {post : State} (h : execParkDone berth s = .next post) : Keeps292 s post := by
  unfold execParkDone at h
  dsimp only at h
  repeat' split at h
  all_goals (injection h with h; subst h; simp [Berth.parkSwap_frame .., Keeps292])

theorem execWakeReady_frame (berth : Nat) (s : State) {post : State} (h : execWakeReady berth s = .next post) : Keeps292 s post := by
  unfold execWakeReady at h
  repeat' split at h
  all_goals (injection h with h; subst h; simp [Berth.wakeProgress_frame .., Berth.wakeEnd_frame .., Keeps292])

theorem execBerthPages_frame (src : Nat) (page : BerthPage) (s : State) {post : State} (h : execBerthPages src page s = .next post) : Keeps77 s post := by
  unfold execBerthPages at h
  repeat' split at h
  all_goals (injection h with h; subst h; simp [Berth.receivePage_frame .., Berth.takePage_frame .., answerMsg_frame .., Keeps77])

theorem execBerthControl_frame (src : Nat) (msg : BerthMsg) (s : State) {post : State} (h : execBerthControl src msg s = .next post) : Keeps292 s post := by
  unfold execBerthControl at h
  repeat' split at h
  all_goals (injection h with h; subst h; simp [Berth.receiveControl_frame .., Berth.takeControl_frame .., answerMsg_frame .., Keeps292])

namespace Berth

theorem releaseParked_frame (s : State) (b : Nat) : Keeps292 s (releaseParked s b) := by
  unfold releaseParked
  repeat' split
  all_goals simp [onParked_frame .., mapHome_frame .., Keeps292]

end Berth

theorem execBerthCommandRelease_frame (berth : Nat) (s : State) {post : State} (h : execBerthCommandRelease berth s = .next post) : Keeps292 s post := by
  unfold execBerthCommandRelease at h
  dsimp only at h
  repeat' split at h
  all_goals (injection h with h; subst h; simp [Berth.releaseParked_frame .., Berth.mapOwned_frame .., Berth.onResident_frame .., Keeps292])

theorem execAutoPark_frame (berth : Nat) (s : State) {post : State} (h : execAutoPark berth s = .next post) : Keeps292 s post := by
  unfold execAutoPark at h
  dsimp only at h
  repeat' split at h
  all_goals (injection h with h; subst h; simp [Berth.startPark_frame .., Keeps292])

theorem execLeaseRenewal_frame (berth : Nat) (s : State) {post : State} (h : execLeaseRenewal berth s = .next post) : Keeps292 s post := by
  unfold execLeaseRenewal at h
  repeat' split at h
  all_goals (injection h with h; subst h; simp [Berth.renew_frame .., Keeps292])

theorem execLeaseExpiry_frame (berth : Nat) (s : State) {post : State} (h : execLeaseExpiry berth s = .next post) : Keeps26 s post := by
  unfold execLeaseExpiry at h
  repeat' split at h
  all_goals (injection h with h; subst h; simp [Berth.mapOwned_frame .., Keeps26])

theorem execResolveRead_frame (berth : Nat) (s : State) {post : State} (h : execResolveRead berth s = .next post) : Keeps292 s post := by
  unfold execResolveRead at h
  repeat' split at h
  all_goals (injection h with h; subst h; simp [Berth.resolve_frame .., Keeps292])

theorem execTakeover_frame (num : Nat) (s : State) {post : State} (h : execTakeover num s = .next post) : Keeps292 s post := by
  unfold execTakeover at h
  dsimp only at h
  repeat' split at h
  all_goals (injection h with h; subst h; simp [Berth.takeOver_frame .., Keeps292])

theorem execCheckpointInstalled_frame (berth : Nat) (s : State) {post : State} (h : execCheckpointInstalled berth s = .next post) : Keeps292 s post := by
  unfold execCheckpointInstalled at h
  repeat' split at h
  all_goals (injection h with h; subst h; simp [Berth.installCheckpoint_frame .., Keeps292])

theorem execUsageReport_frame (s : State) {post : State} (h : execUsageReport s = .next post) : Keeps115 s post := by
  unfold execUsageReport at h
  dsimp only at h
  repeat' split at h
  all_goals (injection h with h; subst h; simp [State.setNum_frame .., State.setVal_frame .., Keeps115])

end Sys2Proof.Machine
end

