-- ==== Sys2Proof/Laws/FrameCapOut.lean ====
section
/-! SUPPORT. Frames of CapOut.lean: which units of the state each of its functions leaves as they are. -/

namespace Sys2Proof.Machine

set_option linter.unusedSimpArgs false
set_option linter.unusedVariables false
set_option linter.unusedTactic false
set_option linter.unreachableTactic false
set_option Elab.async false

open Sys2Proof

theorem noBar_frame (s : State) : Keeps3 s (noBar s) := by
  unfold Keeps3 noBar
  simp [State.emit_frame ..]

theorem mailOut_frame (s : State) (c : MailCode) (b : Bytes) : Keeps25 s (mailOut s c b) := by
  unfold Keeps25 mailOut
  simp [State.emit_frame ..]

theorem capOut_frame (s : State) (o : Owed) : Keeps306 s (capOut s o) := by
  unfold capOut
  repeat' split
  all_goals simp [respond_frame .., mailOut_frame .., State.emit_frame .., Keeps306]

theorem answerCap_frame (s : State) (o : Owed) : Keeps306 s (answerCap s o) := by
  unfold answerCap
  repeat' split
  all_goals simp [capOut_frame .., Keeps306]

theorem settleOwed_frame (s : State) : Keeps306 s (settleOwed s) := by
  unfold Keeps306 settleOwed
  simp [capOut_frame ..]

end Sys2Proof.Machine
end

