-- ==== Sys2Proof/Laws/FrameFlashRows.lean ====
section
/-! SUPPORT. Frames of FlashRows.lean: which units of the state each of its functions leaves as they are. -/

namespace Sys2Proof.Machine

set_option linter.unusedSimpArgs false
set_option linter.unusedVariables false
set_option linter.unusedTactic false
set_option linter.unreachableTactic false
set_option Elab.async false

open Sys2Proof Sys2Proof.Machine

theorem growMap_frame (s : State) : Keeps17 s (growMap s) := by
  unfold growMap
  repeat' split
  all_goals simp [Keeps17]

theorem sweepAgain_frame (s : State) : Keeps303 s (sweepAgain s) := by
  unfold Keeps303 sweepAgain
  simp

theorem settleRebuild_frame (s : State) : Keeps307 s (settleRebuild s) := by
  unfold Keeps307 settleRebuild
  simp [sweepAgain_frame .., State.setNum_frame .., growMap_frame ..]

theorem execFlashEnumerationDone_frame (targets : List Target) (s : State) {post : State} (h : execFlashEnumerationDone targets s = .next post) : Keeps307 s post := by
  unfold execFlashEnumerationDone at h
  repeat' split at h
  all_goals (injection h with h; subst h; simp [State.setNum_frame .., settleRebuild_frame .., Keeps307])

theorem execLunReadDispatch_frame (chan die : Nat) (s : State) {post : State} (h : execLunReadDispatch chan die s = .next post) : Keeps14 s post := by
  unfold execLunReadDispatch at h
  dsimp only at h
  repeat' split at h
  all_goals (injection h with h; subst h; simp [State.bump_frame .., Keeps14])

theorem deliverRead_frame (s : State) (r : FlashRead) (status : Nat) (data : Bytes) : Keeps292 s (deliverRead s r status data) := by
  unfold deliverRead
  repeat' split
  all_goals simp [Berth.wakeProgress_frame .., Berth.fetched_frame .., Keeps292]

theorem execFlashReadDone_frame (id fails corrected : Nat) (s : State) {post : State} (h : execFlashReadDone id fails corrected s = .next post) : Keeps325 s post := by
  unfold execFlashReadDone at h
  dsimp only at h
  repeat' split at h
  all_goals (injection h with h; subst h; simp [State.bump_frame .., Flash.settleChan_frame .., settleRebuild_frame .., deliverRead_frame .., raiseEvent_frame .., Keeps325])

theorem settleKeys_frame (s : State) : Keeps235 s (settleKeys s) := by
  unfold Keeps235 settleKeys
  simp

theorem execWriteFlushTimer_frame (chan : Nat) (s : State) {post : State} (h : execWriteFlushTimer chan s = .next post) : Keeps12 s post := by
  unfold execWriteFlushTimer at h
  repeat' split at h
  all_goals (injection h with h; subst h; simp [Keeps12])

theorem execFlashProgramDone_frame (chan block : Nat) (ok : Bool) (s : State) {post : State} (h : execFlashProgramDone chan block ok s = .next post) : Keeps326 s post := by
  unfold execFlashProgramDone at h
  repeat' split at h
  all_goals (injection h with h; subst h; simp [settleKeys_frame .., Berth.settleAnswers_frame .., settleOwed_frame .., growMap_frame .., Flash.programOk_frame .., Flash.programFail_frame .., Flash.settleChan_frame .., settleDurable_frame .., Keeps326])

theorem execBlockErase_frame (chan block : Nat) (s : State) {post : State} (h : execBlockErase chan block s = .next post) : Keeps12 s post := by
  unfold execBlockErase at h
  repeat' split at h
  all_goals (injection h with h; subst h; simp [Keeps12])

theorem execEraseDone_frame (chan block : Nat) (ok : Bool) (s : State) {post : State} (h : execEraseDone chan block ok s = .next post) : Keeps13 s post := by
  unfold execEraseDone at h
  repeat' split at h
  all_goals (injection h with h; subst h; simp [Flash.retire_frame .., State.bump_frame .., Flash.settleChan_frame .., Keeps13])

theorem beginFlush_frame (s : State) : Keeps12 s (beginFlush s) := by
  unfold Keeps12 beginFlush
  simp

theorem execJournalFlush_frame (s : State) {post : State} (h : execJournalFlush s = .next post) : Keeps12 s post := by
  unfold execJournalFlush at h
  repeat' split at h
  all_goals (injection h with h; subst h; simp [beginFlush_frame .., Keeps12])

theorem execJournalFlushDone_frame (s : State) {post : State} (h : execJournalFlushDone s = .next post) : Keeps49 s post := by
  unfold execJournalFlushDone at h
  repeat' split at h
  all_goals (injection h with h; subst h; simp [Keeps49])

theorem execHousekeepingWindowOpen_frame (s : State) {post : State} (h : execHousekeepingWindowOpen s = .next post) : Keeps12 s post := by
  unfold execHousekeepingWindowOpen at h
  repeat' split at h
  all_goals (injection h with h; subst h; simp [Flash.nextJob_frame .., Keeps12])

theorem execHousekeepingWindowClose_frame (s : State) {post : State} (h : execHousekeepingWindowClose s = .next post) : Keeps12 s post := by
  unfold execHousekeepingWindowClose at h
  repeat' split at h
  all_goals (injection h with h; subst h; simp [Keeps12])

theorem execUrgentGc_frame (chan : Nat) (s : State) {post : State} (h : execUrgentGc chan s = .next post) : Keeps12 s post := by
  unfold execUrgentGc at h
  repeat' split at h
  all_goals (injection h with h; subst h; simp [Flash.nextJob_frame .., Keeps12])

theorem execUrgentRelocation_frame (chan block : Nat) (s : State) {post : State} (h : execUrgentRelocation chan block s = .next post) : Keeps12 s post := by
  unfold execUrgentRelocation at h
  repeat' split at h
  all_goals (injection h with h; subst h; simp [Keeps12])

end Sys2Proof.Machine
end

