-- ==== Sys2Proof/Laws/FrameNearBankRows.lean ====
section
/-! SUPPORT. Frames of NearBankRows.lean: which units of the state each of its functions leaves as they are. -/

namespace Sys2Proof.Machine

set_option linter.unusedSimpArgs false
set_option linter.unusedVariables false
set_option linter.unusedTactic false
set_option linter.unreachableTactic false
set_option Elab.async false

open Sys2Proof Sys2Proof.Num Sys2Proof.Machine

theorem nbAnswer_frame (s : State) (tag st : Nat) : Keeps79 s (nbAnswer s tag st) := by
  unfold Keeps79 nbAnswer
  simp

theorem nbRefuse_frame (s : State) (tag st : Nat) : Keeps95 s (nbRefuse s tag st) := by
  unfold Keeps95 nbRefuse
  simp [nbAnswer_frame .., State.bump_frame ..]

theorem execNbSequenceIssue_frame (desc : Bytes) (s : State) {post : State} (h : execNbSequenceIssue desc s = .next post) : Keeps309 s post := by
  unfold execNbSequenceIssue at h
  dsimp only at h
  repeat' split at h
  all_goals (first | cases h | skip)
  all_goals simp [nbRefuse_frame .., nbAnswer_frame .., agentRead_frame .., touchAddr_frame .., Nb.mapBank_frame .., Keeps309]
  all_goals (repeat' split)
  all_goals simp [nbRefuse_frame .., nbAnswer_frame .., agentRead_frame .., touchAddr_frame .., Nb.mapBank_frame ..]

theorem resumeIssues_frame (s : State) : Keeps309 s (resumeIssues s) := by
  unfold resumeIssues
  have h := foldl_keeps (R := Keeps309) (g := fun s (i : HeldIssue) => after (execNbSequenceIssue i.desc s) s) (l := s.nb.issues)
    (s := { s with nb := { s.nb with issues := [] } }) (by simp [Keeps309]) (by simp +contextual [Keeps309]) ?_
  · simp_all [Keeps309]
  · intro s x
    generalize h : execNbSequenceIssue x.desc s = o
    cases o with
    | next t => have := execNbSequenceIssue_frame _ _ h; simp_all [after, Keeps309]
    | fault _ => simp [after, Keeps309]
    | refused _ => simp [after, Keeps309]

theorem execNbSequenceStart_frame (bank : Nat) (s : State) {post : State} (h : execNbSequenceStart bank s = .next post) : Keeps79 s post := by
  unfold execNbSequenceStart at h
  dsimp only at h
  split at h
  · injection h with h; subst h; simp [Nb.mapBank_frame .., Keeps79]
  · injection h with h; subst h; simp only [Nb.mapBank_frame .., Keeps79, and_self]

theorem openRows_frame (s : State) (bank owner : Nat) (l : List Nat) :
    (∀ r, openRows s bank owner l = .ok r → Keeps107 s r.2) ∧ (∀ e, openRows s bank owner l = .error e → Keeps107 s e.2) := by
  induction l generalizing s with
  | nil =>
    constructor
    · intro r h; cases h; simp [Nb.openRow_frame .., nbLineError_frame .., Keeps107]
    · intro e h; cases h
  | cons a l ih =>
    have ho := Nb.openRow_frame s bank a owner
    unfold openRows
    split
    · rename_i h
      rw [h] at ho
      constructor
      · intro r h; cases h
      · intro e h
        cases h
        split <;> simp_all [Nb.openRow_frame .., nbLineError_frame .., Keeps107]
    · rename_i t h
      rw [h] at ho
      split
      · rename_i he
        constructor
        · intro r h; cases h
        · intro e h
          cases h
          have hk := (ih t).2 _ he
          simp_all [Nb.openRow_frame .., nbLineError_frame .., Keeps107]
      · rename_i hr
        constructor
        · intro r h
          cases h
          have hk := (ih t).1 _ hr
          simp_all [Nb.openRow_frame .., nbLineError_frame .., Keeps107]
        · intro e h; cases h

@[simp] theorem runNb_pending (s : State) (bank : Nat) (rows : NbCmd → Option (List Nat)) (f : NbSeq → NbCmd → List (List (Option Bytes)) → State → State) (hf : ∀ q c ds s, (f q c ds s).pending = s.pending) : (runNb s bank rows f).pending = s.pending := by
  unfold runNb
  split
  · rfl
  · split
    · rfl
    · split
      · rfl
      · split
        · rfl
        · split
          · rename_i h
            have hk := (openRows_frame _ _ _ _).2 _ h
            simp_all [Nb.failSeq_frame .., Nb.stepSeq_frame .., Keeps107]
          · rename_i h
            have hk := (openRows_frame _ _ _ _).1 _ h
            simp_all [Nb.failSeq_frame .., Nb.stepSeq_frame .., Keeps107]

@[simp] theorem runNb_tide (s : State) (bank : Nat) (rows : NbCmd → Option (List Nat)) (f : NbSeq → NbCmd → List (List (Option Bytes)) → State → State) (hf : ∀ q c ds s, (f q c ds s).tide = s.tide) : (runNb s bank rows f).tide = s.tide := by
  unfold runNb
  split
  · rfl
  · split
    · rfl
    · split
      · rfl
      · split
        · rfl
        · split
          · rename_i h
            have hk := (openRows_frame _ _ _ _).2 _ h
            simp_all [Nb.failSeq_frame .., Nb.stepSeq_frame .., Keeps107]
          · rename_i h
            have hk := (openRows_frame _ _ _ _).1 _ h
            simp_all [Nb.failSeq_frame .., Nb.stepSeq_frame .., Keeps107]

@[simp] theorem runNb_cap (s : State) (bank : Nat) (rows : NbCmd → Option (List Nat)) (f : NbSeq → NbCmd → List (List (Option Bytes)) → State → State) (hf : ∀ q c ds s, (f q c ds s).cap = s.cap) : (runNb s bank rows f).cap = s.cap := by
  unfold runNb
  split
  · rfl
  · split
    · rfl
    · split
      · rfl
      · split
        · rfl
        · split
          · rename_i h
            have hk := (openRows_frame _ _ _ _).2 _ h
            simp_all [Nb.failSeq_frame .., Nb.stepSeq_frame .., Keeps107]
          · rename_i h
            have hk := (openRows_frame _ _ _ _).1 _ h
            simp_all [Nb.failSeq_frame .., Nb.stepSeq_frame .., Keeps107]

@[simp] theorem runNb_rst (s : State) (bank : Nat) (rows : NbCmd → Option (List Nat)) (f : NbSeq → NbCmd → List (List (Option Bytes)) → State → State) (hf : ∀ q c ds s, (f q c ds s).rst = s.rst) : (runNb s bank rows f).rst = s.rst := by
  unfold runNb
  split
  · rfl
  · split
    · rfl
    · split
      · rfl
      · split
        · rfl
        · split
          · rename_i h
            have hk := (openRows_frame _ _ _ _).2 _ h
            simp_all [Nb.failSeq_frame .., Nb.stepSeq_frame .., Keeps107]
          · rename_i h
            have hk := (openRows_frame _ _ _ _).1 _ h
            simp_all [Nb.failSeq_frame .., Nb.stepSeq_frame .., Keeps107]

@[simp] theorem runNb_pwr (s : State) (bank : Nat) (rows : NbCmd → Option (List Nat)) (f : NbSeq → NbCmd → List (List (Option Bytes)) → State → State) (hf : ∀ q c ds s, (f q c ds s).pwr = s.pwr) : (runNb s bank rows f).pwr = s.pwr := by
  unfold runNb
  split
  · rfl
  · split
    · rfl
    · split
      · rfl
      · split
        · rfl
        · split
          · rename_i h
            have hk := (openRows_frame _ _ _ _).2 _ h
            simp_all [Nb.failSeq_frame .., Nb.stepSeq_frame .., Keeps107]
          · rename_i h
            have hk := (openRows_frame _ _ _ _).1 _ h
            simp_all [Nb.failSeq_frame .., Nb.stepSeq_frame .., Keeps107]

@[simp] theorem runNb_host (s : State) (bank : Nat) (rows : NbCmd → Option (List Nat)) (f : NbSeq → NbCmd → List (List (Option Bytes)) → State → State) (hf : ∀ q c ds s, (f q c ds s).host = s.host) : (runNb s bank rows f).host = s.host := by
  unfold runNb
  split
  · rfl
  · split
    · rfl
    · split
      · rfl
      · split
        · rfl
        · split
          · rename_i h
            have hk := (openRows_frame _ _ _ _).2 _ h
            simp_all [Nb.failSeq_frame .., Nb.stepSeq_frame .., Keeps107]
          · rename_i h
            have hk := (openRows_frame _ _ _ _).1 _ h
            simp_all [Nb.failSeq_frame .., Nb.stepSeq_frame .., Keeps107]

@[simp] theorem runNb_qry (s : State) (bank : Nat) (rows : NbCmd → Option (List Nat)) (f : NbSeq → NbCmd → List (List (Option Bytes)) → State → State) (hf : ∀ q c ds s, (f q c ds s).qry = s.qry) : (runNb s bank rows f).qry = s.qry := by
  unfold runNb
  split
  · rfl
  · split
    · rfl
    · split
      · rfl
      · split
        · rfl
        · split
          · rename_i h
            have hk := (openRows_frame _ _ _ _).2 _ h
            simp_all [Nb.failSeq_frame .., Nb.stepSeq_frame .., Keeps107]
          · rename_i h
            have hk := (openRows_frame _ _ _ _).1 _ h
            simp_all [Nb.failSeq_frame .., Nb.stepSeq_frame .., Keeps107]

@[simp] theorem runNb_chg (s : State) (bank : Nat) (rows : NbCmd → Option (List Nat)) (f : NbSeq → NbCmd → List (List (Option Bytes)) → State → State) (hf : ∀ q c ds s, (f q c ds s).chg = s.chg) : (runNb s bank rows f).chg = s.chg := by
  unfold runNb
  split
  · rfl
  · split
    · rfl
    · split
      · rfl
      · split
        · rfl
        · split
          · rename_i h
            have hk := (openRows_frame _ _ _ _).2 _ h
            simp_all [Nb.failSeq_frame .., Nb.stepSeq_frame .., Keeps107]
          · rename_i h
            have hk := (openRows_frame _ _ _ _).1 _ h
            simp_all [Nb.failSeq_frame .., Nb.stepSeq_frame .., Keeps107]

@[simp] theorem runNb_key (s : State) (bank : Nat) (rows : NbCmd → Option (List Nat)) (f : NbSeq → NbCmd → List (List (Option Bytes)) → State → State) (hf : ∀ q c ds s, (f q c ds s).key = s.key) : (runNb s bank rows f).key = s.key := by
  unfold runNb
  split
  · rfl
  · split
    · rfl
    · split
      · rfl
      · split
        · rfl
        · split
          · rename_i h
            have hk := (openRows_frame _ _ _ _).2 _ h
            simp_all [Nb.failSeq_frame .., Nb.stepSeq_frame .., Keeps107]
          · rename_i h
            have hk := (openRows_frame _ _ _ _).1 _ h
            simp_all [Nb.failSeq_frame .., Nb.stepSeq_frame .., Keeps107]

@[simp] theorem runNb_tbl (s : State) (bank : Nat) (rows : NbCmd → Option (List Nat)) (f : NbSeq → NbCmd → List (List (Option Bytes)) → State → State) (hf : ∀ q c ds s, (f q c ds s).tbl = s.tbl) : (runNb s bank rows f).tbl = s.tbl := by
  unfold runNb
  split
  · rfl
  · split
    · rfl
    · split
      · rfl
      · split
        · rfl
        · split
          · rename_i h
            have hk := (openRows_frame _ _ _ _).2 _ h
            simp_all [Nb.failSeq_frame .., Nb.stepSeq_frame .., Keeps107]
          · rename_i h
            have hk := (openRows_frame _ _ _ _).1 _ h
            simp_all [Nb.failSeq_frame .., Nb.stepSeq_frame .., Keeps107]

@[simp] theorem runNb_sec (s : State) (bank : Nat) (rows : NbCmd → Option (List Nat)) (f : NbSeq → NbCmd → List (List (Option Bytes)) → State → State) (hf : ∀ q c ds s, (f q c ds s).sec = s.sec) : (runNb s bank rows f).sec = s.sec := by
  unfold runNb
  split
  · rfl
  · split
    · rfl
    · split
      · rfl
      · split
        · rfl
        · split
          · rename_i h
            have hk := (openRows_frame _ _ _ _).2 _ h
            simp_all [Nb.failSeq_frame .., Nb.stepSeq_frame .., Keeps107]
          · rename_i h
            have hk := (openRows_frame _ _ _ _).1 _ h
            simp_all [Nb.failSeq_frame .., Nb.stepSeq_frame .., Keeps107]

theorem rowCopyEffect_frame (bank : Nat) (q : NbSeq) (c : NbCmd) (ds : List (List (Option Bytes))) (s : State) : Keeps80 s (rowCopyEffect bank q c ds s) := by
  unfold rowCopyEffect
  repeat' split
  all_goals simp [Nb.putRow_frame .., Keeps80]

theorem execRowcopy_frame (bank : Nat) (s : State) {post : State} (h : execRowcopy bank s = .next post) : Keeps107 s post := by
  unfold execRowcopy at h
  repeat' split at h
  all_goals (injection h with h; subst h; simp [rowCopyEffect_frame .., Keeps107])

theorem rowInitEffect_frame (bank : Nat) (q : NbSeq) (c : NbCmd) (_ds : List (List (Option Bytes))) (s : State) : Keeps80 s (rowInitEffect bank q c _ds s) := by
  unfold rowInitEffect
  split
  all_goals simp only [Nb.putRow_frame .., Keeps80, and_self]

theorem execRowinit_frame (bank : Nat) (s : State) {post : State} (h : execRowinit bank s = .next post) : Keeps107 s post := by
  unfold execRowinit at h
  repeat' split at h
  all_goals (injection h with h; subst h; simp [rowInitEffect_frame .., Keeps107])

theorem rowLogicEffect_frame (bank : Nat) (q : NbSeq) (c : NbCmd) (ds : List (List (Option Bytes))) (s : State) : Keeps80 s (rowLogicEffect bank q c ds s) := by
  unfold rowLogicEffect
  repeat' split
  all_goals simp [Nb.putRow_frame .., Keeps80]

theorem execRowlogic_frame (bank : Nat) (s : State) {post : State} (h : execRowlogic bank s = .next post) : Keeps107 s post := by
  unfold execRowlogic at h
  repeat' split at h
  all_goals (injection h with h; subst h; simp [rowLogicEffect_frame .., Keeps107])

theorem execOpload_frame (bank : Nat) (s : State) {post : State} (h : execOpload bank s = .next post) : Keeps107 s post := by
  unfold execOpload at h
  repeat' split at h
  all_goals (injection h with h; subst h; simp [Nb.loadEffect_frame .., Keeps107])

theorem execPopacc_frame (bank : Nat) (s : State) {post : State} (h : execPopacc bank s = .next post) : Keeps107 s post := by
  unfold execPopacc at h
  repeat' split at h
  all_goals (injection h with h; subst h; simp [Nb.popEffect_frame .., Keeps107])

theorem execAccout_frame (bank : Nat) (s : State) {post : State} (h : execAccout bank s = .next post) : Keeps107 s post := by
  unfold execAccout at h
  repeat' split at h
  all_goals (injection h with h; subst h; simp [Nb.outEffect_frame .., Keeps107])

theorem seqEnded_frame (bank : Nat) (q : NbSeq) (s : State) : Keeps255 s (seqEnded bank q s) := by
  unfold seqEnded
  repeat' split
  all_goals simp [scanEnded_frame .., resumeFrags_frame .., Keeps255]

theorem execSeqEnd_frame (bank : Nat) (s : State) {post : State} (h : execSeqEnd bank s = .next post) : Keeps310 s post := by
  unfold execSeqEnd at h
  repeat' split at h
  all_goals (injection h with h; subst h; simp [seqEnded_frame .., Nb.endSeq_frame .., Keeps310])

theorem noteExternal_frame (s : State) (bank : Nat) (g : Grant) (external : Option Nat) (wants : Bool) : Keeps95 s (noteExternal s bank g external wants) := by
  unfold noteExternal
  repeat' split
  all_goals simp [Nb.noteOpen_frame .., State.bump_frame .., Keeps95]

theorem execBankSlot_frame (bank : Nat) (external : Option Nat) (s : State) {post : State} (h : execBankSlot bank external s = .next post) : Keeps95 s post := by
  unfold execBankSlot at h
  dsimp only at h
  with_reducible split at h
  · injection h with h; subst h; simp [noteExternal_frame .., State.setNum_frame .., Nb.mapBank_frame .., Keeps95]
  · injection h with h; subst h
    simp only [noteExternal_frame .., State.setNum_frame .., Nb.mapBank_frame .., Keeps95, and_self]

theorem execRefreshVisit_frame (bank : Nat) (s : State) {post : State} (h : execRefreshVisit bank s = .next post) : Keeps95 s post := by
  unfold execRefreshVisit at h
  dsimp only at h
  repeat' split at h
  all_goals (injection h with h; subst h; simp [Nb.mapBank_frame .., State.bump_frame .., Keeps95])

theorem execNeighbourRefresh_frame (bank row : Nat) (s : State) {post : State} (h : execNeighbourRefresh bank row s = .next post) : Keeps95 s post := by
  unfold execNeighbourRefresh at h
  dsimp only at h
  repeat' split at h
  all_goals (injection h with h; subst h; simp [Nb.mapBank_frame .., State.bump_frame .., Keeps95])

theorem execStackTempRead_frame (temps : List Nat) (s : State) {post : State} (h : execStackTempRead temps s = .next post) : Keeps79 s post := by
  unfold execStackTempRead at h
  repeat' split at h
  all_goals (injection h with h; subst h; simp [Keeps79])

end Sys2Proof.Machine
end

