-- ==== Sys2Proof/Laws/FrameMemRows.lean ====
section
/-! SUPPORT. Frames of MemRows.lean: which units of the state each of its functions leaves as they are. -/

namespace Sys2Proof.Machine

set_option linter.unusedSimpArgs false
set_option linter.unusedVariables false
set_option linter.unusedTactic false
set_option linter.unreachableTactic false
set_option Elab.async false

open Sys2Proof Sys2Proof.Machine

theorem leaveNeap_frame (s : State) (cause : Nat) : Keeps86 s (leaveNeap s cause) := by
  unfold Keeps86 leaveNeap
  simp [State.setNum_frame ..]

theorem noteHostHeld_frame (s : State) (hpa : Nat) : Keeps22 s (noteHostHeld s hpa) := by
  unfold Keeps22 noteHostHeld
  simp

theorem poisonRead_frame (s : State) (hpa : Nat) : Keeps23 s (poisonRead s hpa) := by
  unfold Keeps23 poisonRead
  simp [noteHostHeld_frame .., State.emit_frame .., State.bump_frame ..]

theorem readInMemory_frame (s : State) (hpa a : Nat) : Keeps266 s (readInMemory s hpa a) := by
  unfold Keeps266 readInMemory
  simp [touchAddr_frame .., Coh.settled_frame .., noteHostHeld_frame .., State.emit_frame .., poisonRead_frame .., State.logEvent_frame ..]

theorem serveHost_frame (s : State) (hpa : Nat) (write : Option Bytes) {post} (h : serveHost s hpa write = some post) : Keeps266 s post := by
  unfold serveHost at h
  split at h
  · split at h
    · cases h
    · split at h <;> cases h <;> simp [noteHostHeld_frame .., State.emit_frame .., agentWrite_frame .., readInMemory_frame .., Keeps266]
  · split at h
    · cases h; simp [noteHostHeld_frame .., State.emit_frame .., agentWrite_frame .., readInMemory_frame .., Keeps266]
    · rw [Option.bind_eq_some_iff] at h
      obtain ⟨t, ht, h⟩ := h
      rw [Option.map_eq_some_iff] at h
      obtain ⟨a, -, h⟩ := h
      cases h
      have hb := hdmBack_frame s hpa ht
      simp_all [noteHostHeld_frame .., State.emit_frame .., agentWrite_frame .., readInMemory_frame .., Keeps266]
    · rw [Option.map_eq_some_iff] at h
      obtain ⟨a, -, h⟩ := h
      cases h; simp [noteHostHeld_frame .., State.emit_frame .., agentWrite_frame .., readInMemory_frame .., Keeps266]
    · rw [Option.map_eq_some_iff] at h
      obtain ⟨a, -, h⟩ := h
      cases h; simp [noteHostHeld_frame .., State.emit_frame .., agentWrite_frame .., readInMemory_frame .., Keeps266]

theorem startHold_frame (s : State) (hpa : Nat) (write : Option Bytes) : Keeps90 s (startHold s hpa write) := by
  unfold startHold
  repeat' split
  all_goals simp [holdAccess_frame .., State.bump_frame .., promote_frame .., touch_frame .., Keeps90]

theorem hostAccess_frame (s : State) (hpa : Nat) (write : Option Bytes) : Keeps267 s (hostAccess s hpa write) := by
  unfold hostAccess
  repeat' split
  all_goals (try (have hk := serveHost_frame _ _ _ (by assumption); unfold Keeps267 at hk))
  all_goals simp_all [leaveNeap_frame .., holdAccess_frame .., State.bump_frame .., startHold_frame .., Keeps267]

theorem execHostMemRead_frame (hpa : Nat) (s : State) {post : State} (h : execHostMemRead hpa s = .next post) : Keeps267 s post := by
  unfold execHostMemRead at h
  repeat' split at h
  all_goals (injection h with h; subst h; simp [hostAccess_frame .., Keeps267])

theorem execHostMemWrite_frame (hpa : Nat) (data : Bytes) (s : State) {post : State} (h : execHostMemWrite hpa data s = .next post) : Keeps267 s post := by
  unfold execHostMemWrite at h
  repeat' split at h
  all_goals (injection h with h; subst h; simp [hostAccess_frame .., Keeps267])

theorem noteHold_frame (s : State) (h : HeldAccess) : Keeps1 s (noteHold s h) := by
  unfold Keeps1 noteHold
  simp [State.setNum_frame ..]

theorem dropHold_frame (s : State) (h : HeldAccess) : Keeps22 s (dropHold s h) := by
  unfold Keeps22 dropHold
  simp

theorem serveOne_frame (s : State) (h : HeldAccess) : Keeps266 s (serveOne s h) := by
  unfold serveOne
  repeat' split
  all_goals (try (have hk := serveHost_frame _ _ _ (by assumption); unfold Keeps266 at hk))
  all_goals simp_all [dropHold_frame .., hdmStore_frame .., noteHold_frame .., Keeps266]

theorem serveHeld_frame (s : State) : Keeps266 s (serveHeld s) := by
  unfold serveHeld
  dsimp only
  apply ite_keeps (R := Keeps266) (by simp [Keeps266])
  generalize hs : List.foldl _ s _ = t
  have ht : Keeps266 s t := by
    rw [← hs]
    apply foldl_keeps (R := Keeps266)
    · simp [Keeps266]
    · simp +contextual [Keeps266]
    · intro s x
      repeat' split
      all_goals simp [serveOne_frame .., promote_frame .., Keeps266]
  simp_all [sendLate_frame .., Keeps266]

theorem heldAddr_frame (s : State) (hpa : Nat) : Keeps2 s (heldAddr s hpa).2 := by
  unfold heldAddr
  dsimp only
  repeat' split
  all_goals simp [State.drawFree_frame .., Keeps2]

theorem execHoldTimeout_frame (id : Nat) (s : State) {post : State} (h : execHoldTimeout id s = .next post) : Keeps92 s post := by
  unfold execHoldTimeout at h
  dsimp only at h
  repeat' split at h
  all_goals (injection h with h; subst h; simp [dropHold_frame .., noteHold_frame .., poisonRead_frame .., State.emit_frame .., heldAddr_frame .., State.bump_frame .., State.logEvent_frame .., State.drawFree_frame .., Keeps92])

theorem execStackDemotion_frame (s : State) {post : State} (h : execStackDemotion s = .next post) : Keeps19 s post := by
  unfold execStackDemotion at h
  dsimp only at h
  split at h
  · cases h; simp [demoteNow_frame .., demoteStack_frame .., Keeps19]
  · cases h; simp [demoteNow_frame .., demoteStack_frame .., Keeps19]

theorem execShelfDemotion_frame (s : State) {post : State} (h : execShelfDemotion s = .next post) : Keeps16 s post := by
  unfold execShelfDemotion at h
  split at h
  · cases h; simp [demoteShelf_frame .., Keeps16]
  · cases h; simp [demoteShelf_frame .., Keeps16]

theorem execPageMoveSwitch_frame (page : PageId) (s : State) {post : State} (h : execPageMoveSwitch page s = .next post) : Keeps268 s post := by
  unfold execPageMoveSwitch at h
  repeat' split at h
  all_goals (injection h with h; subst h; simp [resumeIssues_frame .., serveHeld_frame .., switchMove_frame .., Keeps268])

theorem execSweepComplete_frame (slot : Nat) (s : State) {post : State} (h : execSweepComplete slot s = .next post) : Keeps93 s post := by
  unfold execSweepComplete at h
  repeat' split at h
  all_goals (injection h with h; subst h; simp [Keeps93])

theorem sendBlocks_frame (n : Nat) (s : State) : Keeps23 s (sendBlocks n s) := by
  induction n generalizing s with
  | zero => simp [backInvalidate_frame .., sendBlocks, Keeps23]
  | succ n ih =>
    unfold sendBlocks
    repeat' split
    all_goals simp [backInvalidate_frame .., Keeps23, ih]

theorem sendZeroing_frame (s : State) : Keeps23 s (sendZeroing s) := by
  unfold Keeps23 sendZeroing
  simp [sendBlocks_frame ..]

theorem zeroRange_frame (s : State) : Keeps23 s (zeroRange s) := by
  unfold Keeps23 zeroRange
  simp [sendZeroing_frame .., backInvalidate_frame ..]

end Sys2Proof.Machine
end

