-- ==== Sys2Proof/Laws/FrameStrandOps.lean ====
section
/-! SUPPORT. Frames of StrandOps.lean: which units of the state each of its functions leaves as they are. -/

namespace Sys2Proof.Machine

set_option linter.unusedSimpArgs false
set_option linter.unusedVariables false
set_option linter.unusedTactic false
set_option linter.unreachableTactic false
set_option Elab.async false

open Sys2Proof Sys2Proof.Machine

theorem putMeter_frame (s : State) (m : Meter) : Keeps6 s (putMeter s m) := by
  unfold Keeps6 putMeter
  simp

theorem meterFrame_frame (s : State) (f : Frame) : Keeps7 s (meterFrame s f).2 := by
  unfold meterFrame
  repeat' split
  all_goals simp [putMeter_frame .., State.bump_frame .., Keeps7]

theorem tickMeters_frame (s : State) : Keeps6 s (tickMeters s) := by
  unfold Keeps6 tickMeters
  simp

theorem refillMeters_frame (old new : Bytes) (s : State) : Keeps6 s (refillMeters old new s) := by
  unfold Keeps6 refillMeters
  simp

theorem refuseFrame_frame (s : State) (f : Frame) (status retry : Nat) : Keeps7 s (refuseFrame s f status retry) := by
  unfold Keeps7 refuseFrame
  simp [State.bump_frame .., respond_frame ..]

theorem arrivalCheck_frame (s : State) (f : Frame) (word : Bool) : Keeps7 s (arrivalCheck s f word).2 := by
  unfold arrivalCheck
  dsimp only
  repeat' split
  all_goals simp [meterFrame_frame .., Keeps7]

theorem letIn_frame (s : State) (f : Frame) (word : Bool) : Keeps7 s (letIn s f word).2 := by
  unfold letIn
  dsimp only
  repeat' split
  all_goals simp [arrivalCheck_frame .., refuseFrame_frame .., Keeps7]

theorem malformed_frame (s : State) (f : Frame) : Keeps7 s (malformed s f) := by
  unfold Keeps7 malformed
  simp [refuseFrame_frame ..]

theorem throughWindow_keeps {R : State → State → Prop} (s : State) (f : Frame) (ok : Bool) (addr len : Nat) (go : State → Nat → Nat → State)
    (h7 : ∀ x y, Keeps7 x y → R x y) (ht : ∀ x y z, R x y → R y z → R x z) (hf : ∀ s a n, R s (go s a n)) :
    R s (throughWindow s f ok addr len go) := by
  have hl : R s (letIn s f false).2 := h7 _ _ (letIn_frame ..)
  have hr (c : Nat) : R (letIn s f false).2 (refuseFrame (letIn s f false).2 f c 0) := h7 _ _ (by simp [refuseFrame_frame .., Keeps7])
  have hm : R (letIn s f false).2 (malformed (letIn s f false).2 f) := h7 _ _ (malformed_frame ..)
  unfold throughWindow
  dsimp only
  repeat' split
  all_goals first
    | exact hl
    | exact ht _ _ _ hl hm
    | exact ht _ _ _ hl (hf ..)
    | exact ht _ _ _ hl (hr _)

@[simp] theorem throughWindow_pending (s : State) (f : Frame) (ok : Bool) (addr len : Nat) (go : State → Nat → Nat → State) (hf : ∀ s a n, (go s a n).pending = s.pending) : (throughWindow s f ok addr len go).pending = s.pending := by
  unfold throughWindow
  dsimp only
  repeat' split
  all_goals simp [letIn_frame .., refuseFrame_frame .., malformed_frame .., hf]

@[simp] theorem throughWindow_out (s : State) (f : Frame) (ok : Bool) (addr len : Nat) (go : State → Nat → Nat → State) (hf : ∀ s a n, (go s a n).out = s.out) : (throughWindow s f ok addr len go).out = s.out := by
  unfold throughWindow
  dsimp only
  repeat' split
  all_goals simp [letIn_frame .., refuseFrame_frame .., malformed_frame .., hf]

@[simp] theorem throughWindow_free (s : State) (f : Frame) (ok : Bool) (addr len : Nat) (go : State → Nat → Nat → State) (hf : ∀ s a n, (go s a n).free = s.free) : (throughWindow s f ok addr len go).free = s.free := by
  unfold throughWindow
  dsimp only
  repeat' split
  all_goals simp [letIn_frame .., refuseFrame_frame .., malformed_frame .., hf]

@[simp] theorem throughWindow_tide (s : State) (f : Frame) (ok : Bool) (addr len : Nat) (go : State → Nat → Nat → State) (hf : ∀ s a n, (go s a n).tide = s.tide) : (throughWindow s f ok addr len go).tide = s.tide := by
  unfold throughWindow
  dsimp only
  repeat' split
  all_goals simp [letIn_frame .., refuseFrame_frame .., malformed_frame .., hf]

@[simp] theorem throughWindow_cap (s : State) (f : Frame) (ok : Bool) (addr len : Nat) (go : State → Nat → Nat → State) (hf : ∀ s a n, (go s a n).cap = s.cap) : (throughWindow s f ok addr len go).cap = s.cap := by
  unfold throughWindow
  dsimp only
  repeat' split
  all_goals simp [letIn_frame .., refuseFrame_frame .., malformed_frame .., hf]

@[simp] theorem throughWindow_log (s : State) (f : Frame) (ok : Bool) (addr len : Nat) (go : State → Nat → Nat → State) (hf : ∀ s a n, (go s a n).log = s.log) : (throughWindow s f ok addr len go).log = s.log := by
  unfold throughWindow
  dsimp only
  repeat' split
  all_goals simp [letIn_frame .., refuseFrame_frame .., malformed_frame .., hf]

@[simp] theorem throughWindow_rst (s : State) (f : Frame) (ok : Bool) (addr len : Nat) (go : State → Nat → Nat → State) (hf : ∀ s a n, (go s a n).rst = s.rst) : (throughWindow s f ok addr len go).rst = s.rst := by
  unfold throughWindow
  dsimp only
  repeat' split
  all_goals simp [letIn_frame .., refuseFrame_frame .., malformed_frame .., hf]

@[simp] theorem throughWindow_pwr (s : State) (f : Frame) (ok : Bool) (addr len : Nat) (go : State → Nat → Nat → State) (hf : ∀ s a n, (go s a n).pwr = s.pwr) : (throughWindow s f ok addr len go).pwr = s.pwr := by
  unfold throughWindow
  dsimp only
  repeat' split
  all_goals simp [letIn_frame .., refuseFrame_frame .., malformed_frame .., hf]

@[simp] theorem throughWindow_host (s : State) (f : Frame) (ok : Bool) (addr len : Nat) (go : State → Nat → Nat → State) (hf : ∀ s a n, (go s a n).host = s.host) : (throughWindow s f ok addr len go).host = s.host := by
  unfold throughWindow
  dsimp only
  repeat' split
  all_goals simp [letIn_frame .., refuseFrame_frame .., malformed_frame .., hf]

@[simp] theorem throughWindow_idx (s : State) (f : Frame) (ok : Bool) (addr len : Nat) (go : State → Nat → Nat → State) (hf : ∀ s a n, (go s a n).idx = s.idx) : (throughWindow s f ok addr len go).idx = s.idx := by
  unfold throughWindow
  dsimp only
  repeat' split
  all_goals simp [letIn_frame .., refuseFrame_frame .., malformed_frame .., hf]

@[simp] theorem throughWindow_qry (s : State) (f : Frame) (ok : Bool) (addr len : Nat) (go : State → Nat → Nat → State) (hf : ∀ s a n, (go s a n).qry = s.qry) : (throughWindow s f ok addr len go).qry = s.qry := by
  unfold throughWindow
  dsimp only
  repeat' split
  all_goals simp [letIn_frame .., refuseFrame_frame .., malformed_frame .., hf]

@[simp] theorem throughWindow_chg (s : State) (f : Frame) (ok : Bool) (addr len : Nat) (go : State → Nat → Nat → State) (hf : ∀ s a n, (go s a n).chg = s.chg) : (throughWindow s f ok addr len go).chg = s.chg := by
  unfold throughWindow
  dsimp only
  repeat' split
  all_goals simp [letIn_frame .., refuseFrame_frame .., malformed_frame .., hf]

@[simp] theorem throughWindow_mem (s : State) (f : Frame) (ok : Bool) (addr len : Nat) (go : State → Nat → Nat → State) (hf : ∀ s a n, (go s a n).mem = s.mem) : (throughWindow s f ok addr len go).mem = s.mem := by
  unfold throughWindow
  dsimp only
  repeat' split
  all_goals simp [letIn_frame .., refuseFrame_frame .., malformed_frame .., hf]

@[simp] theorem throughWindow_key (s : State) (f : Frame) (ok : Bool) (addr len : Nat) (go : State → Nat → Nat → State) (hf : ∀ s a n, (go s a n).key = s.key) : (throughWindow s f ok addr len go).key = s.key := by
  unfold throughWindow
  dsimp only
  repeat' split
  all_goals simp [letIn_frame .., refuseFrame_frame .., malformed_frame .., hf]

@[simp] theorem throughWindow_coh (s : State) (f : Frame) (ok : Bool) (addr len : Nat) (go : State → Nat → Nat → State) (hf : ∀ s a n, (go s a n).coh = s.coh) : (throughWindow s f ok addr len go).coh = s.coh := by
  unfold throughWindow
  dsimp only
  repeat' split
  all_goals simp [letIn_frame .., refuseFrame_frame .., malformed_frame .., hf]

@[simp] theorem throughWindow_nb (s : State) (f : Frame) (ok : Bool) (addr len : Nat) (go : State → Nat → Nat → State) (hf : ∀ s a n, (go s a n).nb = s.nb) : (throughWindow s f ok addr len go).nb = s.nb := by
  unfold throughWindow
  dsimp only
  repeat' split
  all_goals simp [letIn_frame .., refuseFrame_frame .., malformed_frame .., hf]

@[simp] theorem throughWindow_flash (s : State) (f : Frame) (ok : Bool) (addr len : Nat) (go : State → Nat → Nat → State) (hf : ∀ s a n, (go s a n).flash = s.flash) : (throughWindow s f ok addr len go).flash = s.flash := by
  unfold throughWindow
  dsimp only
  repeat' split
  all_goals simp [letIn_frame .., refuseFrame_frame .., malformed_frame .., hf]

@[simp] theorem throughWindow_gph (s : State) (f : Frame) (ok : Bool) (addr len : Nat) (go : State → Nat → Nat → State) (hf : ∀ s a n, (go s a n).gph = s.gph) : (throughWindow s f ok addr len go).gph = s.gph := by
  unfold throughWindow
  dsimp only
  repeat' split
  all_goals simp [letIn_frame .., refuseFrame_frame .., malformed_frame .., hf]

@[simp] theorem throughWindow_berth (s : State) (f : Frame) (ok : Bool) (addr len : Nat) (go : State → Nat → Nat → State) (hf : ∀ s a n, (go s a n).berth = s.berth) : (throughWindow s f ok addr len go).berth = s.berth := by
  unfold throughWindow
  dsimp only
  repeat' split
  all_goals simp [letIn_frame .., refuseFrame_frame .., malformed_frame .., hf]

@[simp] theorem throughWindow_tbl (s : State) (f : Frame) (ok : Bool) (addr len : Nat) (go : State → Nat → Nat → State) (hf : ∀ s a n, (go s a n).tbl = s.tbl) : (throughWindow s f ok addr len go).tbl = s.tbl := by
  unfold throughWindow
  dsimp only
  repeat' split
  all_goals simp [letIn_frame .., refuseFrame_frame .., malformed_frame .., hf]

@[simp] theorem throughWindow_rel (s : State) (f : Frame) (ok : Bool) (addr len : Nat) (go : State → Nat → Nat → State) (hf : ∀ s a n, (go s a n).rel = s.rel) : (throughWindow s f ok addr len go).rel = s.rel := by
  unfold throughWindow
  dsimp only
  repeat' split
  all_goals simp [letIn_frame .., refuseFrame_frame .., malformed_frame .., hf]

@[simp] theorem throughWindow_sec (s : State) (f : Frame) (ok : Bool) (addr len : Nat) (go : State → Nat → Nat → State) (hf : ∀ s a n, (go s a n).sec = s.sec) : (throughWindow s f ok addr len go).sec = s.sec := by
  unfold throughWindow
  dsimp only
  repeat' split
  all_goals simp [letIn_frame .., refuseFrame_frame .., malformed_frame .., hf]

theorem noteLine_frame (s : State) (a : Nat) : Keeps67 s (noteLine s a) := by
  unfold noteLine
  repeat' split
  all_goals simp [Table.noteServed_frame .., Keeps67]

theorem serveRead_frame (s : State) (f : Frame) : Keeps261 s (serveRead s f) := by
  unfold serveRead
  refine throughWindow_keeps (R := Keeps261) s f _ _ _ _ (by simp +contextual [Keeps261, Keeps7]) (by simp +contextual [Keeps261]) fun t a n => ?_
  dsimp only
  split
  · simp [Table.serveLine_frame .., Keeps261]
  · apply ite_keeps (R := Keeps261) <;> simp [respond_frame .., noteLine_frame .., refuseFrame_frame .., agentRead_frame .., Keeps261]

theorem serveWrite_frame (s : State) (f : Frame) : Keeps260 s (serveWrite s f) := by
  unfold Keeps260 serveWrite
  simp [agentWrite_frame .., respond_frame .., refuseFrame_frame .., malformed_frame ..]

theorem growReplay_frame (s : State) : Keeps302 s (growReplay s) := by
  unfold growReplay
  repeat' split
  all_goals simp [Keeps302]

theorem keepOutcome_frame (s : State) (f : Frame) (status : Nat) (old : Bytes) : Keeps302 s (keepOutcome s f status old) := by
  unfold Keeps302 keepOutcome
  simp [growReplay_frame ..]

theorem answerAtomic_frame (s : State) (f : Frame) (status : Nat) (old : Bytes) : Keeps305 s (answerAtomic s f status old) := by
  unfold Keeps305 answerAtomic
  simp [keepOutcome_frame .., respond_frame .., refuseFrame_frame ..]

/-- What an exactly-once atomic can do: it answers, or it runs. -/
theorem exactlyOnce_keeps {R : State → State → Prop} (s : State) (f : Frame) (run : State → State) (ha : ∀ t, Keeps7 s t → R s t)
    (hr : R s (run s)) : R s (exactlyOnce s f run) := by
  unfold exactlyOnce
  dsimp only
  repeat' split
  all_goals first
    | exact hr
    | (apply ha; simp [State.bump_frame .., respond_frame .., Keeps7])

theorem serveAtomic_frame (s : State) (f : Frame) : Keeps292 s (serveAtomic s f) := by
  unfold serveAtomic
  split
  · have h0 := letIn_frame s f true
    dsimp only
    generalize letIn s f true = r at h0
    apply ite_keeps (R := Keeps292) (by simp_all [Keeps292])
    apply ite_keeps (R := Keeps292) (by simp_all [malformed_frame .., Keeps292])
    rename_i n _
    have h1 : Keeps292 r.2 (exactlyOnce r.2 f fun s =>
        let x := Berth.wordAtomic s n (atomicOp f) (atomicOperand f) (atomicExpected f)
        Berth.answer (keepOutcome x.2 f St.ok x.1) n (.word f St.ok x.1)) := by
      refine exactlyOnce_keeps (R := Keeps292) _ _ _ (by simp +contextual [Keeps7, Keeps292]) ?_
      simp [Berth.answer_frame .., keepOutcome_frame .., Berth.wordAtomic_frame .., Keeps292]
    simp_all [Keeps292]
  · refine throughWindow_keeps (R := Keeps292) _ _ _ _ _ _ (by simp +contextual [Keeps7, Keeps292]) (by simp +contextual [Keeps292]) fun t a n => ?_
    refine exactlyOnce_keeps (R := Keeps292) _ _ _ (by simp +contextual [Keeps7, Keeps292]) ?_
    simp [agentAtomic_frame .., answerAtomic_frame .., Keeps292]

theorem serveRegister_frame (s : State) (f : Frame) : Keeps7 s (serveRegister s f) := by
  unfold Keeps7 serveRegister
  simp [respond_frame .., State.bump_frame .., malformed_frame ..]

theorem serveUnregister_frame (s : State) (f : Frame) : Keeps7 s (serveUnregister s f) := by
  unfold Keeps7 serveUnregister
  simp [respond_frame .., malformed_frame ..]

theorem sendInvalidate_frame (s : State) (p : Publish) (reader : Nat) : Keeps7 s (sendInvalidate s p reader) := by
  unfold Keeps7 sendInvalidate
  simp [originateOrDrop_frame ..]

theorem publishDone_frame (s : State) (p : Publish) : Keeps7 s (publishDone s p) := by
  unfold Keeps7 publishDone
  simp [respond_frame ..]

theorem startPublishes_frame (n : Nat) (s : State) : Keeps7 s (startPublishes n s) := by
  induction n generalizing s with
  | zero => simp [publishDone_frame .., sendInvalidate_frame .., startPublishes, Keeps7]
  | succ n ih =>
    unfold startPublishes
    dsimp only
    repeat' split
    all_goals simp [publishDone_frame .., sendInvalidate_frame .., Keeps7, ih]

theorem goOn_frame (s : State) : Keeps7 s (goOn s) := by
  unfold Keeps7 goOn
  simp [startPublishes_frame ..]

theorem servePublish_frame (s : State) (f : Frame) : Keeps7 s (servePublish s f) := by
  unfold Keeps7 servePublish
  simp [goOn_frame .., malformed_frame ..]

theorem spoilRemote_frame (s : State) (home job addr len : Nat) : Keeps6 s (spoilRemote s home job addr len) := by
  unfold Keeps6 spoilRemote
  simp

theorem serveInvalidate_frame (s : State) (f : Frame) : Keeps7 s (serveInvalidate s f) := by
  unfold Keeps7 serveInvalidate
  simp [letIn_frame .., spoilRemote_frame .., respond_frame ..]

theorem readerDone_frame (s : State) (tag reader : Nat) : Keeps7 s (readerDone s tag reader) := by
  unfold readerDone
  dsimp only
  repeat' split
  all_goals simp [goOn_frame .., publishDone_frame .., Keeps7]

theorem forgetReader_frame (s : State) (reader : Nat) : Keeps7 s (forgetReader s reader) := by
  unfold Keeps7 forgetReader
  simp [readerDone_frame ..]

theorem dropRequest_frame (s : State) (r : Request) : Keeps6 s (dropRequest s r) := by
  unfold Keeps6 dropRequest
  simp

theorem endRequest_frame (s : State) (r : Request) (status : Nat) (data : Bytes) (retry : Nat) : Keeps6 s (endRequest s r status data retry) := by
  unfold Keeps6 endRequest
  simp [dropRequest_frame ..]

theorem atomicAnswered_frame (s : State) (r : Request) (status : Nat) (data : Bytes) : Keeps292 s (atomicAnswered s r status data) := by
  unfold atomicAnswered
  repeat' split
  all_goals simp [Berth.leaseAnswer_frame .., Berth.handoffAnswer_frame .., Berth.resolveAnswer_frame .., Berth.recoveredAnswer_frame .., Berth.staleAnswer_frame .., Keeps292]

theorem dropRemote_frame (s : State) (home job addr : Nat) : Keeps6 s (dropRemote s home job addr) := by
  unfold Keeps6 dropRemote
  simp

theorem installLine_frame (s : State) (r : Request) (data : Bytes) : Keeps6 s (installLine s r data) := by
  unfold Keeps6 installLine
  simp [dropRemote_frame ..]

theorem readEnds_frame (s : State) (r : Request) (status retry : Nat) (data : Bytes) : Keeps261 s (readEnds s r status retry data) := by
  unfold readEnds
  repeat' split
  all_goals simp [Table.rowCame_frame .., dropRequest_frame .., endRequest_frame .., installLine_frame .., Keeps261]

theorem registerEnds_frame (s : State) (r : Request) (status retry : Nat) : Keeps6 s (registerEnds s r status retry) := by
  unfold Keeps6 registerEnds
  simp [endRequest_frame ..]

theorem unregisterEnds_frame (s : State) (r : Request) (status retry : Nat) : Keeps6 s (unregisterEnds s r status retry) := by
  unfold Keeps6 unregisterEnds
  simp [endRequest_frame ..]

theorem requestEnds_frame (s : State) (r : Request) (status retry : Nat) (data : Bytes) : Keeps293 s (requestEnds s r status retry data) := by
  unfold Keeps293 requestEnds
  simp [readEnds_frame .., atomicAnswered_frame .., endRequest_frame .., registerEnds_frame .., unregisterEnds_frame ..]

theorem resend_frame (s : State) (r : Request) : Keeps293 s (resend s r) := by
  unfold Keeps293 resend
  simp [requestEnds_frame .., State.unrouted_frame .., originateOrDrop_frame ..]

theorem releaseHeld_frame (s : State) : Keeps293 s (releaseHeld s) := by
  unfold Keeps293 releaseHeld
  simp [resend_frame ..]

theorem remoteRead_frame (s : State) (f : Frame) : Keeps7 s (remoteRead s f) := by
  unfold remoteRead
  repeat' split
  all_goals simp [issueRequest_frame .., Keeps7]

theorem originateRequest_frame (s : State) (f : Frame) : Keeps7 s (originateRequest s f) := by
  unfold originateRequest
  dsimp only
  apply ite_keeps (R := Keeps7) (by simp [remoteRead_frame .., Keeps7])
  apply ite_keeps (R := Keeps7) (by simp [issueRequest_frame .., spoilRemote_frame .., Keeps7])
  apply ite_keeps (R := Keeps7)
  · refine getD_keeps (R := Keeps7) (fun t h => ?_) (by simp [spoilRemote_frame .., State.unrouted_frame .., Keeps7])
    have hk := sendAtomic_frame _ _ _ _ h
    simp_all [spoilRemote_frame .., Keeps7]
  apply ite_keeps (R := Keeps7)
  · apply ite_keeps (R := Keeps7) <;> simp [issueRequest_frame .., Keeps7]
  apply ite_keeps (R := Keeps7) <;> simp [issueRequest_frame .., Keeps7]

theorem dropOut_frame (s : State) (m : OutMsg) : Keeps6 s (dropOut s m) := by
  unfold Keeps6 dropOut
  simp

theorem sendLater_frame (s : State) (m : OutMsg) (at_ : Nat) : Keeps6 s (sendLater s m at_) := by
  unfold Keeps6 sendLater
  simp

theorem messageAnswered_frame (s : State) (m : OutMsg) (status retry : Nat) : Keeps301 s (messageAnswered s m status retry) := by
  have hs : Keeps301 s (Table.storageAnswered (dropOut s m) (sendLater s m retry) (match m.use with
      | .storage tag => tag
      | _ => 0) status) := by
    have h1 : Keeps272 s (dropOut s m) := by simp [dropOut_frame .., Keeps272]
    have h2 : Keeps272 (dropOut s m) (sendLater s m retry) := by simp [dropOut_frame .., sendLater_frame .., Keeps272]
    have h3 := Table.storageAnswered_frame (dropOut s m) (sendLater s m retry) (match m.use with
      | .storage tag => tag
      | _ => 0) status h2
    simp_all [Keeps301, Keeps272]
  have hf (x y : Nat) : Keeps301 s (fillRefused (dropOut s m) (sendLater s m retry) x y) := by
    have h1 : Keeps301 s (dropOut s m) := by simp [dropOut_frame .., Keeps301]
    have h2 : Keeps301 (dropOut s m) (sendLater s m retry) := by simp [dropOut_frame .., sendLater_frame .., Keeps301]
    have h3 := fillRefused_frame (R := Keeps301) (dropOut s m) (sendLater s m retry) x y (by simp +contextual [Keeps187, Keeps301]) h2
    simp_all [Keeps301]
  unfold messageAnswered
  dsimp only
  split
  all_goals first
    | (rename_i h; simp only [h] at hs; exact hs)
    | (repeat' split) <;> first
      | exact hf _ _
      | simp [dropOut_frame .., sendLater_frame .., leadReply_frame .., intakeDone_frame .., Berth.pageAnswered_frame .., State.refuse_frame .., Berth.controlAnswered_frame .., Table.cmdAnswered_frame .., Table.tell_frame .., Keeps301]

theorem sendDue_frame (s : State) : Keeps301 s (sendDue s) := by
  unfold Keeps301 sendDue
  simp [sendLater_frame .., messageAnswered_frame .., State.unrouted_frame .., transmit_frame ..]

theorem dropIn_frame (s : State) (m : InMsg) : Keeps6 s (dropIn s m) := by
  unfold Keeps6 dropIn
  simp

theorem putIn_frame (s : State) (m : InMsg) : Keeps6 s (putIn s m) := by
  unfold Keeps6 putIn
  simp [dropIn_frame ..]

@[simp] theorem deliver_pending (s : State) (m : InMsg) (cap : State → InMsg → Bytes → State) (hf : ∀ s m b, (cap s m b).pending = s.pending) : (deliver s m cap).pending = s.pending := by
  unfold deliver
  dsimp only
  repeat' split
  all_goals simp [serveFrag_frame .., arriveReply_frame .., dropIn_frame .., refuseFrame_frame .., respond_frame .., hf]

@[simp] theorem deliver_tide (s : State) (m : InMsg) (cap : State → InMsg → Bytes → State) (hf : ∀ s m b, (cap s m b).tide = s.tide) : (deliver s m cap).tide = s.tide := by
  unfold deliver
  dsimp only
  repeat' split
  all_goals simp [serveFrag_frame .., arriveReply_frame .., dropIn_frame .., refuseFrame_frame .., respond_frame .., hf]

@[simp] theorem deliver_cap (s : State) (m : InMsg) (cap : State → InMsg → Bytes → State) (hf : ∀ s m b, (cap s m b).cap = s.cap) : (deliver s m cap).cap = s.cap := by
  unfold deliver
  dsimp only
  repeat' split
  all_goals simp [serveFrag_frame .., arriveReply_frame .., dropIn_frame .., refuseFrame_frame .., respond_frame .., hf]

@[simp] theorem deliver_log (s : State) (m : InMsg) (cap : State → InMsg → Bytes → State) (hf : ∀ s m b, (cap s m b).log = s.log) : (deliver s m cap).log = s.log := by
  unfold deliver
  dsimp only
  repeat' split
  all_goals simp [serveFrag_frame .., arriveReply_frame .., dropIn_frame .., refuseFrame_frame .., respond_frame .., hf]

@[simp] theorem deliver_pwr (s : State) (m : InMsg) (cap : State → InMsg → Bytes → State) (hf : ∀ s m b, (cap s m b).pwr = s.pwr) : (deliver s m cap).pwr = s.pwr := by
  unfold deliver
  dsimp only
  repeat' split
  all_goals simp [serveFrag_frame .., arriveReply_frame .., dropIn_frame .., refuseFrame_frame .., respond_frame .., hf]

@[simp] theorem deliver_idx (s : State) (m : InMsg) (cap : State → InMsg → Bytes → State) (hf : ∀ s m b, (cap s m b).idx = s.idx) : (deliver s m cap).idx = s.idx := by
  unfold deliver
  dsimp only
  repeat' split
  all_goals simp [serveFrag_frame .., arriveReply_frame .., dropIn_frame .., refuseFrame_frame .., respond_frame .., hf]

@[simp] theorem deliver_chg (s : State) (m : InMsg) (cap : State → InMsg → Bytes → State) (hf : ∀ s m b, (cap s m b).chg = s.chg) : (deliver s m cap).chg = s.chg := by
  unfold deliver
  dsimp only
  repeat' split
  all_goals simp [serveFrag_frame .., arriveReply_frame .., dropIn_frame .., refuseFrame_frame .., respond_frame .., hf]

@[simp] theorem deliver_key (s : State) (m : InMsg) (cap : State → InMsg → Bytes → State) (hf : ∀ s m b, (cap s m b).key = s.key) : (deliver s m cap).key = s.key := by
  unfold deliver
  dsimp only
  repeat' split
  all_goals simp [serveFrag_frame .., arriveReply_frame .., dropIn_frame .., refuseFrame_frame .., respond_frame .., hf]

@[simp] theorem deliver_gph (s : State) (m : InMsg) (cap : State → InMsg → Bytes → State) (hf : ∀ s m b, (cap s m b).gph = s.gph) : (deliver s m cap).gph = s.gph := by
  unfold deliver
  dsimp only
  repeat' split
  all_goals simp [serveFrag_frame .., arriveReply_frame .., dropIn_frame .., refuseFrame_frame .., respond_frame .., hf]

@[simp] theorem deliver_berth (s : State) (m : InMsg) (cap : State → InMsg → Bytes → State) (hf : ∀ s m b, (cap s m b).berth = s.berth) : (deliver s m cap).berth = s.berth := by
  unfold deliver
  dsimp only
  repeat' split
  all_goals simp [serveFrag_frame .., arriveReply_frame .., dropIn_frame .., refuseFrame_frame .., respond_frame .., hf]

@[simp] theorem deliver_tbl (s : State) (m : InMsg) (cap : State → InMsg → Bytes → State) (hf : ∀ s m b, (cap s m b).tbl = s.tbl) : (deliver s m cap).tbl = s.tbl := by
  unfold deliver
  dsimp only
  repeat' split
  all_goals simp [serveFrag_frame .., arriveReply_frame .., dropIn_frame .., refuseFrame_frame .., respond_frame .., hf]

@[simp] theorem deliver_sec (s : State) (m : InMsg) (cap : State → InMsg → Bytes → State) (hf : ∀ s m b, (cap s m b).sec = s.sec) : (deliver s m cap).sec = s.sec := by
  unfold deliver
  dsimp only
  repeat' split
  all_goals simp [serveFrag_frame .., arriveReply_frame .., dropIn_frame .., refuseFrame_frame .., respond_frame .., hf]

@[simp] theorem serveSegment_pending (s : State) (f : Frame) (cap : State → InMsg → Bytes → State) (hf : ∀ s m b, (cap s m b).pending = s.pending) : (serveSegment s f cap).pending = s.pending := by
  unfold serveSegment
  extract_lets _ _ _ _ _ _ _ _ checked t _ rest
  have ht : t.pending = s.pending := by simp [t, checked, arrivalCheck_frame ..]
  have hr (x : State) : (rest x).pending = x.pending := by
    simp only [rest]
    split <;> simp [dropIn_frame .., putIn_frame ..]
  clear_value rest t
  repeat' split
  all_goals simp [refuseFrame_frame .., putIn_frame .., hr, ht, hf]

@[simp] theorem serveSegment_tide (s : State) (f : Frame) (cap : State → InMsg → Bytes → State) (hf : ∀ s m b, (cap s m b).tide = s.tide) : (serveSegment s f cap).tide = s.tide := by
  unfold serveSegment
  extract_lets _ _ _ _ _ _ _ _ checked t _ rest
  have ht : t.tide = s.tide := by simp [t, checked, arrivalCheck_frame ..]
  have hr (x : State) : (rest x).tide = x.tide := by
    simp only [rest]
    split <;> simp [dropIn_frame .., putIn_frame ..]
  clear_value rest t
  repeat' split
  all_goals simp [refuseFrame_frame .., putIn_frame .., hr, ht, hf]

@[simp] theorem serveSegment_cap (s : State) (f : Frame) (cap : State → InMsg → Bytes → State) (hf : ∀ s m b, (cap s m b).cap = s.cap) : (serveSegment s f cap).cap = s.cap := by
  unfold serveSegment
  extract_lets _ _ _ _ _ _ _ _ checked t _ rest
  have ht : t.cap = s.cap := by simp [t, checked, arrivalCheck_frame ..]
  have hr (x : State) : (rest x).cap = x.cap := by
    simp only [rest]
    split <;> simp [dropIn_frame .., putIn_frame ..]
  clear_value rest t
  repeat' split
  all_goals simp [refuseFrame_frame .., putIn_frame .., hr, ht, hf]

@[simp] theorem serveSegment_log (s : State) (f : Frame) (cap : State → InMsg → Bytes → State) (hf : ∀ s m b, (cap s m b).log = s.log) : (serveSegment s f cap).log = s.log := by
  unfold serveSegment
  extract_lets _ _ _ _ _ _ _ _ checked t _ rest
  have ht : t.log = s.log := by simp [t, checked, arrivalCheck_frame ..]
  have hr (x : State) : (rest x).log = x.log := by
    simp only [rest]
    split <;> simp [dropIn_frame .., putIn_frame ..]
  clear_value rest t
  repeat' split
  all_goals simp [refuseFrame_frame .., putIn_frame .., hr, ht, hf]

@[simp] theorem serveSegment_pwr (s : State) (f : Frame) (cap : State → InMsg → Bytes → State) (hf : ∀ s m b, (cap s m b).pwr = s.pwr) : (serveSegment s f cap).pwr = s.pwr := by
  unfold serveSegment
  extract_lets _ _ _ _ _ _ _ _ checked t _ rest
  have ht : t.pwr = s.pwr := by simp [t, checked, arrivalCheck_frame ..]
  have hr (x : State) : (rest x).pwr = x.pwr := by
    simp only [rest]
    split <;> simp [dropIn_frame .., putIn_frame ..]
  clear_value rest t
  repeat' split
  all_goals simp [refuseFrame_frame .., putIn_frame .., hr, ht, hf]

@[simp] theorem serveSegment_idx (s : State) (f : Frame) (cap : State → InMsg → Bytes → State) (hf : ∀ s m b, (cap s m b).idx = s.idx) : (serveSegment s f cap).idx = s.idx := by
  unfold serveSegment
  extract_lets _ _ _ _ _ _ _ _ checked t _ rest
  have ht : t.idx = s.idx := by simp [t, checked, arrivalCheck_frame ..]
  have hr (x : State) : (rest x).idx = x.idx := by
    simp only [rest]
    split <;> simp [dropIn_frame .., putIn_frame ..]
  clear_value rest t
  repeat' split
  all_goals simp [refuseFrame_frame .., putIn_frame .., hr, ht, hf]

@[simp] theorem serveSegment_chg (s : State) (f : Frame) (cap : State → InMsg → Bytes → State) (hf : ∀ s m b, (cap s m b).chg = s.chg) : (serveSegment s f cap).chg = s.chg := by
  unfold serveSegment
  extract_lets _ _ _ _ _ _ _ _ checked t _ rest
  have ht : t.chg = s.chg := by simp [t, checked, arrivalCheck_frame ..]
  have hr (x : State) : (rest x).chg = x.chg := by
    simp only [rest]
    split <;> simp [dropIn_frame .., putIn_frame ..]
  clear_value rest t
  repeat' split
  all_goals simp [refuseFrame_frame .., putIn_frame .., hr, ht, hf]

@[simp] theorem serveSegment_key (s : State) (f : Frame) (cap : State → InMsg → Bytes → State) (hf : ∀ s m b, (cap s m b).key = s.key) : (serveSegment s f cap).key = s.key := by
  unfold serveSegment
  extract_lets _ _ _ _ _ _ _ _ checked t _ rest
  have ht : t.key = s.key := by simp [t, checked, arrivalCheck_frame ..]
  have hr (x : State) : (rest x).key = x.key := by
    simp only [rest]
    split <;> simp [dropIn_frame .., putIn_frame ..]
  clear_value rest t
  repeat' split
  all_goals simp [refuseFrame_frame .., putIn_frame .., hr, ht, hf]

@[simp] theorem serveSegment_gph (s : State) (f : Frame) (cap : State → InMsg → Bytes → State) (hf : ∀ s m b, (cap s m b).gph = s.gph) : (serveSegment s f cap).gph = s.gph := by
  unfold serveSegment
  extract_lets _ _ _ _ _ _ _ _ checked t _ rest
  have ht : t.gph = s.gph := by simp [t, checked, arrivalCheck_frame ..]
  have hr (x : State) : (rest x).gph = x.gph := by
    simp only [rest]
    split <;> simp [dropIn_frame .., putIn_frame ..]
  clear_value rest t
  repeat' split
  all_goals simp [refuseFrame_frame .., putIn_frame .., hr, ht, hf]

@[simp] theorem serveSegment_berth (s : State) (f : Frame) (cap : State → InMsg → Bytes → State) (hf : ∀ s m b, (cap s m b).berth = s.berth) : (serveSegment s f cap).berth = s.berth := by
  unfold serveSegment
  extract_lets _ _ _ _ _ _ _ _ checked t _ rest
  have ht : t.berth = s.berth := by simp [t, checked, arrivalCheck_frame ..]
  have hr (x : State) : (rest x).berth = x.berth := by
    simp only [rest]
    split <;> simp [dropIn_frame .., putIn_frame ..]
  clear_value rest t
  repeat' split
  all_goals simp [refuseFrame_frame .., putIn_frame .., hr, ht, hf]

@[simp] theorem serveSegment_tbl (s : State) (f : Frame) (cap : State → InMsg → Bytes → State) (hf : ∀ s m b, (cap s m b).tbl = s.tbl) : (serveSegment s f cap).tbl = s.tbl := by
  unfold serveSegment
  extract_lets _ _ _ _ _ _ _ _ checked t _ rest
  have ht : t.tbl = s.tbl := by simp [t, checked, arrivalCheck_frame ..]
  have hr (x : State) : (rest x).tbl = x.tbl := by
    simp only [rest]
    split <;> simp [dropIn_frame .., putIn_frame ..]
  clear_value rest t
  repeat' split
  all_goals simp [refuseFrame_frame .., putIn_frame .., hr, ht, hf]

@[simp] theorem serveSegment_sec (s : State) (f : Frame) (cap : State → InMsg → Bytes → State) (hf : ∀ s m b, (cap s m b).sec = s.sec) : (serveSegment s f cap).sec = s.sec := by
  unfold serveSegment
  extract_lets _ _ _ _ _ _ _ _ checked t _ rest
  have ht : t.sec = s.sec := by simp [t, checked, arrivalCheck_frame ..]
  have hr (x : State) : (rest x).sec = x.sec := by
    simp only [rest]
    split <;> simp [dropIn_frame .., putIn_frame ..]
  clear_value rest t
  repeat' split
  all_goals simp [refuseFrame_frame .., putIn_frame .., hr, ht, hf]

end Sys2Proof.Machine
end

