-- ==== Sys2Proof/Laws/FrameEnding.lean ====
section
/-! SUPPORT. Frames of Ending.lean: which units of the state each of its functions leaves as they are. -/

namespace Sys2Proof.Machine

set_option linter.unusedSimpArgs false
set_option linter.unusedVariables false
set_option linter.unusedTactic false
set_option linter.unreachableTactic false
set_option Elab.async false

open Sys2Proof Sys2Proof.Machine

theorem endQuery_frame (s : State) (q : Query) (status : Nat) : Keeps273 s (endQuery s q status) := by
  unfold Keeps273 endQuery
  simp [dropOwnFrags_frame .., releasePage_frame .., State.bump_frame .., State.finish_frame ..]

theorem endQueries_frame (s : State) (p : Query → Bool) (status : Nat) : Keeps273 s (endQueries s p status) := by
  unfold Keeps273 endQueries
  simp [endQuery_frame ..]

theorem endFrags_frame (s : State) (p : Fragment → Bool) (status : Nat) : Keeps265 s (endFrags s p status) := by
  unfold Keeps265 endFrags
  simp [endFrag_frame ..]

theorem endChanges_frame (s : State) (p : Nat → Bool) (status : Nat) : Keeps278 s (endChanges s p status) := by
  unfold endChanges
  dsimp only
  have hf (l : List Intake) (s : State) : Keeps278 s (l.foldl (fun s i => match s.chg.intakes.find? fun x => x.tag == i.tag with
      | some i => intakeDone s i ⟨i.tag, status, 0, 0, s.now + 1, false⟩
      | none => s) s) := by
    apply foldl_keeps (R := Keeps278)
    · simp [outcome_frame .., withdraw_frame .., intakeDone_frame .., sendAck_frame .., Keeps278]
    · simp +contextual [outcome_frame .., withdraw_frame .., intakeDone_frame .., sendAck_frame .., Keeps278]
    · intro s x
      split <;> simp [outcome_frame .., withdraw_frame .., intakeDone_frame .., sendAck_frame .., Keeps278]
  refine ((fun x y z (h1 : Keeps278 x y) (h2 : Keeps278 y z) => by simp_all [outcome_frame .., withdraw_frame .., intakeDone_frame .., sendAck_frame .., Keeps278]) : ∀ x y z, Keeps278 x y → Keeps278 y z → Keeps278 x z) _ _ _ ?_ (hf _ _)
  simp [outcome_frame .., withdraw_frame .., intakeDone_frame .., sendAck_frame .., Keeps278]

theorem endRuns_frame (s : State) (p : Run → Bool) (status : Nat) : Keeps298 s (endRuns s p status) := by
  unfold endRuns
  apply foldl_keeps (R := Keeps298)
  · simp [Graph.stopRun_frame .., Keeps298]
  · simp +contextual [Graph.stopRun_frame .., Keeps298]
  · intro s x
    try dsimp only
    repeat' split
    all_goals simp [Graph.stopRun_frame .., Keeps298]

theorem endBerthWork_frame (s : State) (o : OwnedBerth) (status : Nat) : Keeps292 s (endBerthWork s o status) := by
  unfold endBerthWork
  have tail (t : State) (b : Bool) (f : OwnedBerth → OwnedBerth) : Keeps292 t
      (if b then Berth.unconfirm (Berth.mapOwned (Berth.dropWaits t o status) o.id f) o.id
        else Berth.mapOwned (Berth.dropWaits t o status) o.id f) := by
    split <;> simp [Berth.dropWaits_frame .., Berth.mapOwned_frame .., Berth.unconfirm_frame .., Keeps292]
  refine ((fun x y z (h1 : Keeps292 x y) (h2 : Keeps292 y z) => by simp_all [Keeps292]) : ∀ x y z, Keeps292 x y → Keeps292 y z → Keeps292 x z)
    _ _ _ ?_ (tail _ _ _)
  repeat' split
  all_goals simp [Berth.finish_frame .., Berth.sendControl_frame .., State.finish_frame .., Keeps292]

/-- Commands that end on a berth, its number taken from the state, leave what the end of one leaves. -/
theorem finishAll_frame (f : State → Nat) (t : State) (status : Nat) (l : List BerthWait) :
    Keeps292 t (l.foldl (fun s w => Berth.finish s w.cmd (f s) status 0) t) :=
  foldl_keeps (R := Keeps292) (fun _ => by simp [Keeps292])
    (fun x y z (h1 : Keeps292 x y) (h2 : Keeps292 y z) => by simp_all [Keeps292])
    fun s w => by simp [Berth.finish_frame .., Keeps292]

theorem endParkedWaits_frame (s : State) (h : HomeBerth) (status : Nat) : Keeps292 s (endParkedWaits s h status) := by
  unfold endParkedWaits
  refine ((fun x y z (h1 : Keeps292 x y) (h2 : Keeps292 y z) => by simp_all [Keeps292]) : ∀ x y z, Keeps292 x y → Keeps292 y z → Keeps292 x z)
    _ _ _ ?_ (finishAll_frame (fun s => Berth.idOf s.strand.nodeId h.num) _ _ _)
  simp [Berth.mapHome_frame .., Keeps292]

theorem endBerths_frame (s : State) (p : Nat → Bool) (status : Nat) : Keeps292 s (endBerths s p status) := by
  unfold Keeps292 endBerths
  simp [endBerthWork_frame .., endParkedWaits_frame ..]

theorem endTables_frame (s : State) (p : Nat → Bool) (status : Nat) : Keeps261 s (endTables s p status) := by
  unfold Keeps261 endTables
  simp [Table.sendPut_frame .., Table.withdraw_frame .., Table.endCmd_frame ..]

theorem endPicked_frame (s : State) (p : Pick) (status : Nat) : Keeps301 s (endPicked s p status) := by
  unfold Keeps301 endPicked
  simp [endTables_frame .., endBerths_frame .., endRuns_frame .., endChanges_frame .., endFrags_frame .., endQueries_frame ..]

theorem abortFunction_frame (s : State) (b : Nat) : Keeps301 s (abortFunction s b) := by
  unfold Keeps301 abortFunction
  simp [endPicked_frame .., State.bump_frame ..]

theorem endCommands_frame (s : State) (status : Nat) : Keeps258 s (endCommands s status) := by
  unfold Keeps258 endCommands
  simp [State.finish_frame ..]

theorem endAll_frame (s : State) (status : Nat) : Keeps301 s (endAll s status) := by
  unfold Keeps301 endAll
  simp [endCommands_frame .., endPicked_frame ..]

theorem endHostWork_frame (s : State) (status : Nat) : Keeps301 s (endHostWork s status) := by
  unfold Keeps301 endHostWork
  simp [endCommands_frame .., endPicked_frame ..]

theorem dropSequences_frame (s : State) (p : NbSeq → Bool) : Keeps95 s (dropSequences s p) := by
  unfold Keeps95 dropSequences
  simp [State.bump_frame ..]

theorem cancelOwnerMoves_frame (s : State) (k : Nat) : Keeps18 s (cancelOwnerMoves s k) := by
  unfold Keeps18 cancelOwnerMoves
  simp [cancelMove_frame .., State.bump_frame ..]

theorem endCoherence_frame (s : State) (k : Nat) : Keeps258 s (endCoherence s k) := by
  unfold Keeps258 endCoherence
  simp [Coh.endReq_frame .., Coh.drain_frame ..]

theorem sweepGraphs_frame (s : State) (k : Nat) : Keeps271 s (sweepGraphs s k) := by
  unfold sweepGraphs
  apply foldl_keeps (R := Keeps271)
  · simp [Graph.clear_frame .., State.refuse_frame .., Keeps271]
  · simp +contextual [Graph.clear_frame .., State.refuse_frame .., Keeps271]
  · intro s x
    try dsimp only
    repeat' split
    all_goals simp [Graph.clear_frame .., State.refuse_frame .., Keeps271]

theorem sweepSlot_frame (s : State) (k : Nat) : Keeps324 s (sweepSlot s k) := by
  unfold Keeps324 sweepSlot
  simp [Berth.discard_frame .., Berth.freeHome_frame .., sweepOwner_frame .., sweepGraphs_frame ..]

end Sys2Proof.Machine
end

