-- ==== Sys2Proof/Laws/FrameKeyOps.lean ====
section
/-! SUPPORT. Frames of KeyOps.lean: which units of the state each of its functions leaves as they are. -/

namespace Sys2Proof.Machine

set_option linter.unusedSimpArgs false
set_option linter.unusedVariables false
set_option linter.unusedTactic false
set_option linter.unreachableTactic false
set_option Elab.async false

open Sys2Proof Sys2Proof.Machine

theorem setSlot_frame (s : State) (k st : Nat) : Keeps93 s (setSlot s k st) := by
  unfold Keeps93 setSlot
  simp

theorem drawKey_frame (n : Nat) (s : State) : Keeps2 s (drawKey n s).2 := by
  induction n generalizing s with
  | zero => simp [State.drawRandom_frame .., drawKey, Keeps2]
  | succ n ih =>
    unfold drawKey
    dsimp only
    repeat' split
    all_goals simp [State.drawRandom_frame .., Keeps2, ih]

theorem createKey_frame (s : State) (k : Nat) : Keeps110 s (createKey s k) := by
  unfold Keeps110 createKey
  simp [drawKey_frame .., setSlot_frame ..]

theorem destroySlot_frame (s : State) (k : Nat) : Keeps111 s (destroySlot s k) := by
  unfold Keeps111 destroySlot
  simp [setSlot_frame .., endCoherence_frame .., cancelOwnerMoves_frame .., dropSequences_frame .., endPicked_frame .., sweepSlot_frame .., serveHeld_frame .., zeroRange_frame .., State.bump_frame ..]

theorem writeGraphKeys_frame (s : State) (k : Nat) : Keeps14 s (writeGraphKeys s k) := by
  unfold Keeps14 writeGraphKeys
  simp [State.bump_frame ..]

theorem doCreateKey_frame (s : State) (k : Nat) : Keeps110 s (doCreateKey s k).2.2 := by
  unfold Keeps110 doCreateKey
  simp [createKey_frame ..]

theorem doDestroy_frame (s : State) (k : Nat) : Keeps111 s (doDestroy s k).2.2 := by
  unfold Keeps111 doDestroy
  simp [destroySlot_frame ..]

theorem doRegisterKey_frame (s : State) (k : Nat) (modulus : Bytes) : Keeps144 s (doRegisterKey s k modulus).2.2 := by
  unfold Keeps144 doRegisterKey
  simp [writeGraphKeys_frame ..]

theorem doRemoveKey_frame (s : State) (k digest : Nat) : Keeps144 s (doRemoveKey s k digest).2.2 := by
  unfold Keeps144 doRemoveKey
  simp [writeGraphKeys_frame ..]

theorem keyCommand_frame (s : State) (b : Bytes) : Keeps111 s (keyCommand s b).2.2 := by
  unfold Keeps111 keyCommand
  simp [doCreateKey_frame .., doDestroy_frame .., doRegisterKey_frame .., doRemoveKey_frame ..]

theorem destroyBadKeys_frame (s : State) : Keeps111 s (destroyBadKeys s) := by
  unfold Keeps111 destroyBadKeys
  simp [destroySlot_frame .., State.logEvent_frame ..]

end Sys2Proof.Machine
end

