-- ==== Sys2Proof/Laws/FrameSigned.lean ====
section
/-! SUPPORT. Frames of Signed.lean: which units of the state each of its functions leaves as they are. -/

namespace Sys2Proof.Machine

set_option linter.unusedSimpArgs false
set_option linter.unusedVariables false
set_option linter.unusedTactic false
set_option linter.unreachableTactic false
set_option Elab.async false

open Sys2Proof Sys2Proof.Machine

theorem refusedSigned_frame (s : State) (st target : Nat) : Keeps8 s (refusedSigned s st target) := by
  unfold Keeps8 refusedSigned
  simp [State.bump_frame .., State.logEvent_frame ..]

theorem signedCommand_frame (s : State) (path : Path) (b : Bytes) : Keeps104 s (signedCommand s path b).2.2.2 := by
  unfold signedCommand
  dsimp only
  repeat' split
  all_goals simp [refusedSigned_frame .., State.setNum_frame .., State.bump_frame .., State.logEvent_frame .., Keeps104]

theorem installKeys_frame (s : State) (keys : Bytes) : Keeps1 s (installKeys s keys) := by
  unfold Keeps1 installKeys
  simp [State.setVal_frame .., State.setNum_frame ..]

theorem putExpelled_frame (s : State) (l : List Nat) : Keeps1 s (putExpelled s l) := by
  unfold Keeps1 putExpelled
  simp [State.setVal_frame ..]

theorem signedEffect_frame (s : State) (e : SignedEffect) : Keeps218 s (signedEffect s e) := by
  unfold signedEffect
  repeat' split
  all_goals simp [State.logEvent_frame .., State.setNum_frame .., releaseHeld_frame .., endAll_frame .., forgetReader_frame .., putExpelled_frame .., installKeys_frame .., Keeps218]

theorem signedEffects_frame (s : State) : Keeps218 s (signedEffects s) := by
  unfold Keeps218 signedEffects
  simp [signedEffect_frame ..]

end Sys2Proof.Machine
end

