-- ==== Sys2Proof/Laws/FrameCapEntries.lean ====
section
/-! SUPPORT. Frames of CapEntries.lean: which units of the state each of its functions leaves as they are. -/

namespace Sys2Proof.Machine

set_option linter.unusedSimpArgs false
set_option linter.unusedVariables false
set_option linter.unusedTactic false
set_option linter.unreachableTactic false
set_option Elab.async false

open Sys2Proof Sys2Proof.Machine

theorem readEntry_frame (s : State) (e : Entry) (k : Nat) : Keeps2 s (readEntry s e k).2 := by
  unfold Keeps2 readEntry
  simp [State.drawFree_frame ..]

end Sys2Proof.Machine
end

