-- ==== Sys2Proof/Laws/FrameCapWrite.lean ====
section
/-! SUPPORT. Frames of CapWrite.lean: which units of the state each of its functions leaves as they are. -/

namespace Sys2Proof.Machine

set_option linter.unusedSimpArgs false
set_option linter.unusedVariables false
set_option linter.unusedTactic false
set_option linter.unreachableTactic false
set_option Elab.async false

open Sys2Proof Sys2Proof.Num Sys2Proof.Machine

theorem noteHistory_frame (s : State) (e : Entry) (k a : Nat) (old : Val) : Keeps1 s (noteHistory s e k a old) := by
  unfold Keeps1 noteHistory
  simp

theorem storeRw_frame (s : State) (e : Entry) (k : Nat) (v : Val) : Keeps14 s (storeRw s e k v) := by
  unfold Keeps14 storeRw
  simp [State.setVal_frame .., persist_frame ..]

theorem idWritten_frame (s : State) (k v : Nat) : Keeps68 s (idWritten s k v) := by
  unfold Keeps68 idWritten
  simp [clearSlot_frame .., State.setNum_frame .., clearTable_frame ..]

theorem dropStaged_frame (s : State) (w : Who) (id : Nat) : Keeps120 s (dropStaged s w id) := by
  unfold Keeps120 dropStaged
  simp

theorem releaseLock_frame (s : State) : Keeps121 s (releaseLock s) := by
  unfold releaseLock
  dsimp only
  repeat' split
  all_goals simp [dropStaged_frame .., State.setNum_frame .., Keeps121]

theorem rwEffect_frame (s : State) (k : Nat) (v : Val) : Keeps283 s (rwEffect s k v) := by
  unfold rwEffect
  repeat' split
  all_goals simp [idWritten_frame .., releaseLock_frame .., State.setNum_frame .., Keeps283]

theorem storeTw_frame (s : State) (k : Nat) (v : Val) (apply : Nat) : Keeps1 s (storeTw s k v apply) := by
  unfold Keeps1 storeTw
  simp

theorem writeSelfTest_frame (s : State) (u : Nat) : Keeps107 s (writeSelfTest s u).2.2 := by
  unfold Keeps107 writeSelfTest
  simp [startTest_frame .., State.bump_frame .., State.logEvent_frame ..]

theorem writeReset_frame (s : State) (path : Path) (b : Bytes) : Keeps4 s (writeReset s path b).2.2 := by
  unfold writeReset
  dsimp only
  repeat' split
  all_goals simp [Keeps4]

theorem writeQuiesce_frame (s : State) (b : Nat) : Keeps4 s (writeQuiesce s b).2.2 := by
  unfold Keeps4 writeQuiesce
  simp

theorem writeOnly_frame (s : State) (path : Path) (k : Nat) (b : Bytes) : Keeps111 s (writeOnly s path k b).2.2 := by
  unfold Keeps111 writeOnly
  simp [keyCommand_frame .., writeReset_frame .., writeQuiesce_frame .., writeSelfTest_frame ..]

theorem writeEntry_frame (s : State) (path : Path) (i sub typeCode apply : Nat) (b : Bytes) : Keeps124 s (writeEntry s path i sub typeCode apply b).2.2 := by
  unfold writeEntry
  dsimp only
  repeat' split
  all_goals simp_all [writeEntry.readOnly, writeOnly_frame .., rwEffect_frame .., storeRw_frame .., storeTw_frame .., Keeps124]

end Sys2Proof.Machine
end

