-- ==== Sys2Proof/Laws/FrameApply.lean ====
section
/-! SUPPORT. Frames of Apply.lean: which units of the state each of its functions leaves as they are. -/

namespace Sys2Proof.Machine

set_option linter.unusedSimpArgs false
set_option linter.unusedVariables false
set_option linter.unusedTactic false
set_option linter.unreachableTactic false
set_option Elab.async false

open Sys2Proof Sys2Proof.Machine

theorem openColl_frame (s : State) (c a : Nat) : Keeps199 s (openColl s c a) := by
  unfold Keeps199 openColl
  simp [State.setNum_frame .., newCopy_frame .., dropCopy_frame ..]

theorem applyControl_frame (s : State) (c v a : Nat) : Keeps199 s (applyControl s c v a) := by
  unfold Keeps199 applyControl
  simp [openColl_frame .., clearSlot_frame .., State.setNum_frame ..]

theorem applyMap_frame (s : State) (c a : Nat) : Keeps248 s (applyMap s c a) := by
  unfold Keeps248 applyMap
  simp [startFill_frame ..]

theorem applyTableControl_frame (s : State) (t v a : Nat) : Keeps68 s (applyTableControl s t v a) := by
  unfold Keeps68 applyTableControl
  simp [clearTable_frame .., State.setNum_frame ..]

theorem applyFunctions_frame (s : State) (old new a : Nat) : Keeps4 s (applyFunctions s old new a) := by
  unfold Keeps4 applyFunctions
  simp

theorem applyPower_frame (s : State) (v a : Nat) : Keeps86 s (applyPower s v a) := by
  unfold Keeps86 applyPower
  simp [leaveNeap_frame ..]

theorem applyEffect_frame (s : State) (k a : Nat) (old new : Val) : Keeps200 s (applyEffect s k a old new) := by
  unfold Keeps200 applyEffect
  simp [applyControl_frame .., applyMap_frame .., applyTableControl_frame .., applyFunctions_frame .., applyPower_frame .., refillMeters_frame .., mapPort_frame ..]

theorem applyValue_frame (s : State) (w : TwPend) : Keeps14 s (applyValue s w) := by
  unfold applyValue
  repeat' split
  all_goals simp [noteHistory_frame .., persist_frame .., State.setVal_frame .., Keeps14]

theorem applyEffects_frame (old : CatUnit) (due : List TwPend) (s : State) : Keeps200 s (applyEffects old due s) := by
  unfold Keeps200 applyEffects
  simp [applyEffect_frame ..]

theorem applyGroup_frame (s : State) (a : Nat) : Keeps200 s (applyGroup s a) := by
  unfold Keeps200 applyGroup
  simp [applyEffects_frame .., applyValue_frame .., State.bump_frame ..]

theorem applyDue_frame (s : State) : Keeps200 s (applyDue s) := by
  unfold Keeps200 applyDue
  simp [applyGroup_frame ..]

theorem discardDue_frame (s : State) : Keeps1 s (discardDue s) := by
  unfold Keeps1 discardDue
  simp [State.bump_frame ..]

theorem makeApplies_frame (s : State) : Keeps200 s (makeApplies s) := by
  unfold Keeps200 makeApplies
  simp [discardDue_frame .., applyDue_frame ..]

theorem comeDue_frame (s : State) (a : Nat) (due : InForce → Bool) : Keeps1 s (comeDue s a due) := by
  unfold comeDue
  apply foldl_keeps (R := Keeps1)
  · simp [Keeps1]
  · simp +contextual [Keeps1]
  · intro s x
    try dsimp only
    repeat' split
    all_goals simp [noteHistory_frame .., Keeps1]

theorem writesInForce_frame (s : State) : Keeps1 s (writesInForce s) := by
  unfold writesInForce
  apply foldl_keeps (R := Keeps1)
  · simp [comeDue_frame .., noteHistory_frame .., Keeps1]
  · simp +contextual [comeDue_frame .., noteHistory_frame .., Keeps1]
  · intro s x
    try dsimp only
    repeat' split
    all_goals simp [comeDue_frame .., noteHistory_frame .., Keeps1]

theorem makeOverdue_frame (s : State) : Keeps200 s (makeOverdue s) := by
  unfold Keeps200 makeOverdue
  simp [comeDue_frame .., applyGroup_frame ..]

theorem pruneHistory_frame (s : State) : Keeps1 s (pruneHistory s) := by
  unfold Keeps1 pruneHistory
  simp

theorem publishDigests_frame (s : State) : Keeps1 s (publishDigests s) := by
  unfold Keeps1 publishDigests
  simp

theorem execTwApply_frame (s : State) {post : State} (h : execTwApply s = .next post) : Keeps200 s post := by
  unfold execTwApply at h
  repeat' split at h
  all_goals (injection h with h; subst h; simp [makeApplies_frame .., Keeps200])

end Sys2Proof.Machine
end

