-- ==== Sys2Proof/Laws/CellsApply.lean ====
section
/-! SUPPORT. The functions of Apply.lean keep the canonical form of the memory's cells. -/

namespace Sys2Proof.Machine

set_option linter.unusedSimpArgs false
set_option linter.unusedVariables false
set_option linter.unusedTactic false
set_option linter.unreachableTactic false
set_option Elab.async false

open Sys2Proof Sys2Proof.Machine

@[simp] theorem openColl_wf (s : State) (c a : Nat) (hm : Cells.wf s.mem.cells = true) : Cells.wf (openColl s c a).mem.cells = true := by
  unfold openColl
  simp +contextual (maxDischargeDepth := 20) [State.setNum_frame .., hm]

@[simp] theorem applyControl_wf (s : State) (c v a : Nat) (hm : Cells.wf s.mem.cells = true) : Cells.wf (applyControl s c v a).mem.cells = true := by
  unfold applyControl
  simp +contextual (maxDischargeDepth := 20) [clearSlot_frame .., State.setNum_frame .., hm]

@[simp] theorem applyMap_wf (s : State) (c a : Nat) (hm : Cells.wf s.mem.cells = true) : Cells.wf (applyMap s c a).mem.cells = true := by
  unfold applyMap
  simp +contextual (maxDischargeDepth := 20) [hm]

@[simp] theorem applyTableControl_wf (s : State) (t v a : Nat) (hm : Cells.wf s.mem.cells = true) : Cells.wf (applyTableControl s t v a).mem.cells = true := by
  unfold applyTableControl
  simp +contextual (maxDischargeDepth := 20) [State.setNum_frame .., hm]

@[simp] theorem applyEffect_wf (s : State) (k a : Nat) (old new : Val) (hm : Cells.wf s.mem.cells = true) : Cells.wf (applyEffect s k a old new).mem.cells = true := by
  unfold applyEffect
  simp +contextual (maxDischargeDepth := 20) [applyFunctions_frame .., applyPower_frame .., refillMeters_frame .., mapPort_frame .., hm]

@[simp] theorem applyEffects_wf (old : CatUnit) (due : List TwPend) (s : State) (hm : Cells.wf s.mem.cells = true) : Cells.wf (applyEffects old due s).mem.cells = true := by
  unfold applyEffects
  simp +contextual (maxDischargeDepth := 20) [hm]

@[simp] theorem applyGroup_wf (s : State) (a : Nat) (hm : Cells.wf s.mem.cells = true) : Cells.wf (applyGroup s a).mem.cells = true := by
  unfold applyGroup
  dsimp only
  split
  · exact hm
  · generalize ht : List.foldl _ _ _ = t
    have h1 : Cells.wf t.mem.cells = true := by
      rw [← ht]
      exact foldl_wf _ _ _ (fun s a h => by simpa [applyValue_frame .., State.bump_frame ..] using h) hm
    simpa [applyValue_frame .., State.bump_frame ..] using applyEffects_wf s.cat (byKey (s.cat.tw.filter fun w => w.apply == a)) t h1

@[simp] theorem applyDue_wf (s : State) (hm : Cells.wf s.mem.cells = true) : Cells.wf (applyDue s).mem.cells = true := by
  unfold applyDue
  simp +contextual (maxDischargeDepth := 20) [hm]

@[simp] theorem makeApplies_wf (s : State) (hm : Cells.wf s.mem.cells = true) : Cells.wf (makeApplies s).mem.cells = true := by
  unfold makeApplies
  simp +contextual (maxDischargeDepth := 20) [discardDue_frame .., hm]

@[simp] theorem makeOverdue_wf (s : State) (hm : Cells.wf s.mem.cells = true) : Cells.wf (makeOverdue s).mem.cells = true := by
  unfold makeOverdue
  simp +contextual (maxDischargeDepth := 20) [comeDue_frame .., hm]

theorem execTwApply_wf (s : State) (hm : Cells.wf s.mem.cells = true) {post : State} (h : execTwApply s = .next post) : Cells.wf post.mem.cells = true := by
  unfold execTwApply at h
  repeat' split at h
  all_goals (injection h with h; subst h; simp +contextual (maxDischargeDepth := 20) [hm])

end Sys2Proof.Machine
end

