-- ==== Sys2Proof/Laws/CellsBerthRows.lean ====
section
/-! SUPPORT. The functions of BerthRows.lean keep the canonical form of the memory's cells. -/

namespace Sys2Proof.Machine

set_option linter.unusedSimpArgs false
set_option linter.unusedVariables false
set_option linter.unusedTactic false
set_option linter.unreachableTactic false
set_option Elab.async false

open Sys2Proof Sys2Proof.Machine

namespace Berth

@[simp] theorem createLocal_wf (s : State) (cmd : Nat) (d : Bytes) (hm : Cells.wf s.mem.cells = true) : Cells.wf (createLocal s cmd d).mem.cells = true := by
  unfold createLocal
  dsimp only
  split
  · simp (maxDischargeDepth := 20) [own_frame .., record_frame .., startCmd_frame .., hm]
  split
  · exact waitForPages_wf _ _ _ hm fun t ht => by simp (maxDischargeDepth := 20) [own_frame .., record_frame .., startCmd_frame .., ht]
  · rename_i h
    rw [Option.bind_eq_some_iff] at h
    obtain ⟨t, ht, h⟩ := h
    have hk := allocPages_wf _ _ _ _ _ (recordPage_wf _ _ hm ht) h
    simp (maxDischargeDepth := 20) [own_frame .., record_frame .., startCmd_frame .., hk]

@[simp] theorem createRemote_wf (s : State) (cmd home : Nat) (d : Bytes) (hm : Cells.wf s.mem.cells = true) : Cells.wf (createRemote s cmd home d).mem.cells = true := by
  unfold createRemote
  simp +contextual (maxDischargeDepth := 20) [State.unrouted_frame .., sendMessage_frame .., startCmd_frame .., hm]

end Berth

theorem execCreate_wf (cmd : Nat) (x_ : Unit) (s : State) (hm : Cells.wf s.mem.cells = true) {post : State} (h : execCreate cmd x_ s = .next post) : Cells.wf post.mem.cells = true := by
  unfold execCreate at h
  repeat' split at h
  all_goals (injection h with h; subst h; simp +contextual (maxDischargeDepth := 20) [hm])

namespace Berth

@[simp] theorem releaseOwned_wf (s : State) (o : OwnedBerth) (cmd : Nat) (hm : Cells.wf s.mem.cells = true) : Cells.wf (releaseOwned s o cmd).mem.cells = true := by
  unfold releaseOwned
  repeat' split
  all_goals simp +contextual (maxDischargeDepth := 20) [sendControl_frame .., hm]

@[simp] theorem onResident_wf (s : State) (o : OwnedBerth) (c : HostCmd) (hm : Cells.wf s.mem.cells = true) : Cells.wf (onResident s o c).mem.cells = true := by
  unfold onResident
  simp +contextual (maxDischargeDepth := 20) [mapOwned_frame .., hm]

@[simp] theorem command_wf (s : State) (cmd : Nat) (c : HostCmd) (hm : Cells.wf s.mem.cells = true) : Cells.wf (command s cmd c).mem.cells = true := by
  unfold command
  dsimp only
  repeat' split
  all_goals simp +contextual (maxDischargeDepth := 20) [wait_frame .., startCmd_frame .., waitParked_frame .., hm]

end Berth

@[simp] theorem berthRow_wf (s : State) (cmd opcode : Nat) (hm : Cells.wf s.mem.cells = true) : Cells.wf (berthRow s cmd opcode).mem.cells = true := by
  unfold berthRow
  repeat' split
  all_goals simp +contextual (maxDischargeDepth := 20) [hm]

theorem execPark_wf (cmd : Nat) (s : State) (hm : Cells.wf s.mem.cells = true) {post : State} (h : execPark cmd s = .next post) : Cells.wf post.mem.cells = true := by
  unfold execPark at h
  repeat' split at h
  all_goals (injection h with h; subst h; simp +contextual (maxDischargeDepth := 20) [hm])

theorem execWake_wf (cmd : Nat) (s : State) (hm : Cells.wf s.mem.cells = true) {post : State} (h : execWake cmd s = .next post) : Cells.wf post.mem.cells = true := by
  unfold execWake at h
  repeat' split at h
  all_goals (injection h with h; subst h; simp +contextual (maxDischargeDepth := 20) [hm])

theorem execRelease_wf (cmd : Nat) (s : State) (hm : Cells.wf s.mem.cells = true) {post : State} (h : execRelease cmd s = .next post) : Cells.wf post.mem.cells = true := by
  unfold execRelease at h
  repeat' split at h
  all_goals (injection h with h; subst h; simp +contextual (maxDischargeDepth := 20) [hm])

theorem execHandoff_wf (cmd : Nat) (s : State) (hm : Cells.wf s.mem.cells = true) {post : State} (h : execHandoff cmd s = .next post) : Cells.wf post.mem.cells = true := by
  unfold execHandoff at h
  repeat' split at h
  all_goals (injection h with h; subst h; simp +contextual (maxDischargeDepth := 20) [hm])

theorem execCheckpoint_wf (cmd : Nat) (s : State) (hm : Cells.wf s.mem.cells = true) {post : State} (h : execCheckpoint cmd s = .next post) : Cells.wf post.mem.cells = true := by
  unfold execCheckpoint at h
  repeat' split at h
  all_goals (injection h with h; subst h; simp +contextual (maxDischargeDepth := 20) [hm])

theorem execParkDone_wf (berth : Nat) (s : State) (hm : Cells.wf s.mem.cells = true) {post : State} (h : execParkDone berth s = .next post) : Cells.wf post.mem.cells = true := by
  unfold execParkDone at h
  dsimp only at h
  repeat' split at h
  all_goals (injection h with h; subst h; simp +contextual (maxDischargeDepth := 20) [hm])

theorem execWakeReady_wf (berth : Nat) (s : State) (hm : Cells.wf s.mem.cells = true) {post : State} (h : execWakeReady berth s = .next post) : Cells.wf post.mem.cells = true := by
  unfold execWakeReady at h
  repeat' split at h
  all_goals (injection h with h; subst h; simp +contextual (maxDischargeDepth := 20) [hm])

theorem execBerthPages_wf (src : Nat) (page : BerthPage) (s : State) (hm : Cells.wf s.mem.cells = true) {post : State} (h : execBerthPages src page s = .next post) : Cells.wf post.mem.cells = true := by
  unfold execBerthPages at h
  repeat' split at h
  all_goals (injection h with h; subst h; simp +contextual (maxDischargeDepth := 20) [hm])

theorem execBerthControl_wf (src : Nat) (msg : BerthMsg) (s : State) (hm : Cells.wf s.mem.cells = true) {post : State} (h : execBerthControl src msg s = .next post) : Cells.wf post.mem.cells = true := by
  unfold execBerthControl at h
  repeat' split at h
  all_goals (injection h with h; subst h; simp +contextual (maxDischargeDepth := 20) [hm])

namespace Berth

@[simp] theorem releaseParked_wf (s : State) (b : Nat) (hm : Cells.wf s.mem.cells = true) : Cells.wf (releaseParked s b).mem.cells = true := by
  unfold releaseParked
  repeat' split
  all_goals simp +contextual (maxDischargeDepth := 20) [mapHome_frame .., hm]

end Berth

theorem execBerthCommandRelease_wf (berth : Nat) (s : State) (hm : Cells.wf s.mem.cells = true) {post : State} (h : execBerthCommandRelease berth s = .next post) : Cells.wf post.mem.cells = true := by
  unfold execBerthCommandRelease at h
  dsimp only at h
  repeat' split at h
  all_goals (injection h with h; subst h; simp +contextual (maxDischargeDepth := 20) [Berth.mapOwned_frame .., hm])

theorem execAutoPark_wf (berth : Nat) (s : State) (hm : Cells.wf s.mem.cells = true) {post : State} (h : execAutoPark berth s = .next post) : Cells.wf post.mem.cells = true := by
  unfold execAutoPark at h
  dsimp only at h
  repeat' split at h
  all_goals (injection h with h; subst h; simp +contextual (maxDischargeDepth := 20) [hm])

theorem execLeaseRenewal_wf (berth : Nat) (s : State) (hm : Cells.wf s.mem.cells = true) {post : State} (h : execLeaseRenewal berth s = .next post) : Cells.wf post.mem.cells = true := by
  unfold execLeaseRenewal at h
  repeat' split at h
  all_goals (injection h with h; subst h; simp +contextual (maxDischargeDepth := 20) [hm])

theorem execResolveRead_wf (berth : Nat) (s : State) (hm : Cells.wf s.mem.cells = true) {post : State} (h : execResolveRead berth s = .next post) : Cells.wf post.mem.cells = true := by
  unfold execResolveRead at h
  repeat' split at h
  all_goals (injection h with h; subst h; simp +contextual (maxDischargeDepth := 20) [hm])

theorem execTakeover_wf (num : Nat) (s : State) (hm : Cells.wf s.mem.cells = true) {post : State} (h : execTakeover num s = .next post) : Cells.wf post.mem.cells = true := by
  unfold execTakeover at h
  dsimp only at h
  repeat' split at h
  all_goals (injection h with h; subst h; simp +contextual (maxDischargeDepth := 20) [hm])

theorem execCheckpointInstalled_wf (berth : Nat) (s : State) (hm : Cells.wf s.mem.cells = true) {post : State} (h : execCheckpointInstalled berth s = .next post) : Cells.wf post.mem.cells = true := by
  unfold execCheckpointInstalled at h
  repeat' split at h
  all_goals (injection h with h; subst h; simp +contextual (maxDischargeDepth := 20) [hm])

end Sys2Proof.Machine
end

