-- ==== Sys2Proof/Laws/CellsFlashRows.lean ====
section
/-! SUPPORT. The functions of FlashRows.lean keep the canonical form of the memory's cells. -/

namespace Sys2Proof.Machine

set_option linter.unusedSimpArgs false
set_option linter.unusedVariables false
set_option linter.unusedTactic false
set_option linter.unreachableTactic false
set_option Elab.async false

open Sys2Proof Sys2Proof.Machine

@[simp] theorem growMap_wf (s : State) (hm : Cells.wf s.mem.cells = true) : Cells.wf (growMap s).mem.cells = true := by
  unfold growMap
  split
  · exact hm
  split
  · rename_i h
    have h := Mem.allocFixed_cells h
    dsimp only at h ⊢
    rw [h]; exact hm
  · exact hm

@[simp] theorem settleRebuild_wf (s : State) (hm : Cells.wf s.mem.cells = true) : Cells.wf (settleRebuild s).mem.cells = true := by
  unfold settleRebuild
  simp +contextual (maxDischargeDepth := 20) [sweepAgain_frame .., State.setNum_frame .., hm]

theorem execFlashEnumerationDone_wf (targets : List Target) (s : State) (hm : Cells.wf s.mem.cells = true) {post : State} (h : execFlashEnumerationDone targets s = .next post) : Cells.wf post.mem.cells = true := by
  unfold execFlashEnumerationDone at h
  repeat' split at h
  all_goals (injection h with h; subst h; simp +contextual (maxDischargeDepth := 20) [State.setNum_frame .., hm])

@[simp] theorem deliverRead_wf (s : State) (r : FlashRead) (status : Nat) (data : Bytes) (hm : Cells.wf s.mem.cells = true) : Cells.wf (deliverRead s r status data).mem.cells = true := by
  unfold deliverRead
  repeat' split
  all_goals simp +contextual (maxDischargeDepth := 20) [hm]

theorem execFlashReadDone_wf (id fails corrected : Nat) (s : State) (hm : Cells.wf s.mem.cells = true) {post : State} (h : execFlashReadDone id fails corrected s = .next post) : Cells.wf post.mem.cells = true := by
  unfold execFlashReadDone at h
  dsimp only at h
  repeat' split at h
  all_goals (injection h with h; subst h; simp +contextual (maxDischargeDepth := 20) [State.bump_frame .., Flash.settleChan_frame .., hm])

theorem execFlashProgramDone_wf (chan block : Nat) (ok : Bool) (s : State) (hm : Cells.wf s.mem.cells = true) {post : State} (h : execFlashProgramDone chan block ok s = .next post) : Cells.wf post.mem.cells = true := by
  unfold execFlashProgramDone at h
  split at h
  · exact next_wf h hm
  · split at h
    · exact next_wf h hm
    · dsimp only at h
      injection h with h; subst h
      simp only [settleKeys_frame .., settleOwed_frame .., Flash.programOk_frame .., Flash.programFail_frame .., Flash.settleChan_frame ..]
      apply settleDurable_wf
      with_reducible apply cells_ite <;> simp (maxDischargeDepth := 20) [settleKeys_frame .., settleOwed_frame .., Flash.programOk_frame .., Flash.programFail_frame .., Flash.settleChan_frame .., hm]

end Sys2Proof.Machine
end

