-- ==== Sys2Proof/Laws/CellsNearBankRows.lean ====
section
/-! SUPPORT. The functions of NearBankRows.lean keep the canonical form of the memory's cells. -/

namespace Sys2Proof.Machine

set_option linter.unusedSimpArgs false
set_option linter.unusedVariables false
set_option linter.unusedTactic false
set_option linter.unreachableTactic false
set_option Elab.async false

open Sys2Proof Sys2Proof.Num Sys2Proof.Machine

theorem execNbSequenceIssue_wf (desc : Bytes) (s : State) (hm : Cells.wf s.mem.cells = true) {post : State} (h : execNbSequenceIssue desc s = .next post) : Cells.wf post.mem.cells = true := by
  unfold execNbSequenceIssue at h
  dsimp only at h
  repeat' split at h
  all_goals first
    | (cases h; done)
    | (injection h with h; subst h; simp +contextual (maxDischargeDepth := 20) [nbRefuse_frame .., nbAnswer_frame .., Nb.mapBank_frame .., hm])

@[simp] theorem resumeIssues_wf (s : State) (hm : Cells.wf s.mem.cells = true) : Cells.wf (resumeIssues s).mem.cells = true := by
  unfold resumeIssues
  refine foldl_wf _ _ _ (fun s x hm => ?_) hm
  generalize h : execNbSequenceIssue x.desc s = o
  cases o with
  | next t => exact execNbSequenceIssue_wf _ _ hm h
  | fault _ => exact hm
  | refused _ => exact hm

theorem openRows_wf (s : State) (bank owner : Nat) (l : List Nat) (hm : Cells.wf s.mem.cells = true) :
    (∀ r, openRows s bank owner l = .ok r → Cells.wf r.2.mem.cells = true) ∧ (∀ e, openRows s bank owner l = .error e → Cells.wf e.2.mem.cells = true) := by
  induction l generalizing s with
  | nil =>
    constructor
    · intro r h; cases h; exact hm
    · intro e h; cases h
  | cons a l ih =>
    have ho := Nb.openRow_wf s bank a owner hm
    unfold openRows
    split
    · rename_i h
      rw [h] at ho
      constructor
      · intro r h; cases h
      · intro e h
        cases h
        split
        · have hq := nbLineError_wf _ bank a ho
          exact hq
        · exact ho
    · rename_i t h
      rw [h] at ho
      split
      · rename_i he
        constructor
        · intro r h; cases h
        · intro e h
          cases h
          exact (ih t ho).2 _ he
      · rename_i hr
        constructor
        · intro r h
          cases h
          have hk := (ih t ho).1 _ hr
          exact hk
        · intro e h; cases h

@[simp] theorem runNb_wf (s : State) (bank : Nat) (rows : NbCmd → Option (List Nat)) (f : NbSeq → NbCmd → List (List (Option Bytes)) → State → State) (hm : Cells.wf s.mem.cells = true) (hf : ∀ q c ds s, Cells.wf s.mem.cells = true → Cells.wf (f q c ds s).mem.cells = true) : Cells.wf (runNb s bank rows f).mem.cells = true := by
  unfold runNb
  split
  · exact hm
  · split
    · exact hm
    · split
      · exact hm
      · split
        · exact hm
        · split
          · rename_i h
            have hk := (openRows_wf _ _ _ _ hm).2 _ h
            simpa [Nb.failSeq_frame .., Nb.stepSeq_frame ..] using hk
          · rename_i h
            have hk := (openRows_wf _ _ _ _ hm).1 _ h
            simpa [Nb.failSeq_frame .., Nb.stepSeq_frame ..] using hf _ _ _ _ hk

@[simp] theorem rowCopyEffect_wf (bank : Nat) (q : NbSeq) (c : NbCmd) (ds : List (List (Option Bytes))) (s : State) (hm : Cells.wf s.mem.cells = true) : Cells.wf (rowCopyEffect bank q c ds s).mem.cells = true := by
  unfold rowCopyEffect
  repeat' split
  all_goals simp +contextual (maxDischargeDepth := 20) [hm]

theorem execRowcopy_wf (bank : Nat) (s : State) (hm : Cells.wf s.mem.cells = true) {post : State} (h : execRowcopy bank s = .next post) : Cells.wf post.mem.cells = true := by
  unfold execRowcopy at h
  repeat' split at h
  all_goals (injection h with h; subst h; simp +contextual (maxDischargeDepth := 20) [hm])

@[simp] theorem rowInitEffect_wf (bank : Nat) (q : NbSeq) (c : NbCmd) (_ds : List (List (Option Bytes))) (s : State) (hm : Cells.wf s.mem.cells = true) : Cells.wf (rowInitEffect bank q c _ds s).mem.cells = true := by
  unfold rowInitEffect
  repeat' split
  all_goals simp +contextual (maxDischargeDepth := 20) [hm]

theorem execRowinit_wf (bank : Nat) (s : State) (hm : Cells.wf s.mem.cells = true) {post : State} (h : execRowinit bank s = .next post) : Cells.wf post.mem.cells = true := by
  unfold execRowinit at h
  repeat' split at h
  all_goals (injection h with h; subst h; simp +contextual (maxDischargeDepth := 20) [hm])

@[simp] theorem rowLogicEffect_wf (bank : Nat) (q : NbSeq) (c : NbCmd) (ds : List (List (Option Bytes))) (s : State) (hm : Cells.wf s.mem.cells = true) : Cells.wf (rowLogicEffect bank q c ds s).mem.cells = true := by
  unfold rowLogicEffect
  repeat' split
  all_goals simp +contextual (maxDischargeDepth := 20) [hm]

theorem execRowlogic_wf (bank : Nat) (s : State) (hm : Cells.wf s.mem.cells = true) {post : State} (h : execRowlogic bank s = .next post) : Cells.wf post.mem.cells = true := by
  unfold execRowlogic at h
  repeat' split at h
  all_goals (injection h with h; subst h; simp +contextual (maxDischargeDepth := 20) [hm])

theorem execOpload_wf (bank : Nat) (s : State) (hm : Cells.wf s.mem.cells = true) {post : State} (h : execOpload bank s = .next post) : Cells.wf post.mem.cells = true := by
  unfold execOpload at h
  repeat' split at h
  all_goals (injection h with h; subst h; simp +contextual (maxDischargeDepth := 20) [Nb.loadEffect_frame .., hm])

theorem execPopacc_wf (bank : Nat) (s : State) (hm : Cells.wf s.mem.cells = true) {post : State} (h : execPopacc bank s = .next post) : Cells.wf post.mem.cells = true := by
  unfold execPopacc at h
  repeat' split at h
  all_goals (injection h with h; subst h; simp +contextual (maxDischargeDepth := 20) [Nb.popEffect_frame .., hm])

theorem execAccout_wf (bank : Nat) (s : State) (hm : Cells.wf s.mem.cells = true) {post : State} (h : execAccout bank s = .next post) : Cells.wf post.mem.cells = true := by
  unfold execAccout at h
  repeat' split at h
  all_goals (injection h with h; subst h; simp +contextual (maxDischargeDepth := 20) [hm])

@[simp] theorem seqEnded_wf (bank : Nat) (q : NbSeq) (s : State) (hm : Cells.wf s.mem.cells = true) : Cells.wf (seqEnded bank q s).mem.cells = true := by
  unfold seqEnded
  repeat' split
  all_goals simp +contextual (maxDischargeDepth := 20) [hm]

theorem execSeqEnd_wf (bank : Nat) (s : State) (hm : Cells.wf s.mem.cells = true) {post : State} (h : execSeqEnd bank s = .next post) : Cells.wf post.mem.cells = true := by
  unfold execSeqEnd at h
  repeat' split at h
  all_goals (injection h with h; subst h; simp +contextual (maxDischargeDepth := 20) [hm])

end Sys2Proof.Machine
end

