-- ==== Sys2Proof/Laws/CellsMemRows.lean ====
section
/-! SUPPORT. The functions of MemRows.lean keep the canonical form of the memory's cells. -/

namespace Sys2Proof.Machine

set_option linter.unusedSimpArgs false
set_option linter.unusedVariables false
set_option linter.unusedTactic false
set_option linter.unreachableTactic false
set_option Elab.async false

open Sys2Proof Sys2Proof.Machine

@[simp] theorem readInMemory_wf (s : State) (hpa a : Nat) (hm : Cells.wf s.mem.cells = true) : Cells.wf (readInMemory s hpa a).mem.cells = true := by
  unfold readInMemory
  simp +contextual (maxDischargeDepth := 20) [noteHostHeld_frame .., State.emit_frame .., poisonRead_frame .., State.logEvent_frame .., hm]

theorem serveHost_wf (s : State) (hpa : Nat) (write : Option Bytes) (hm : Cells.wf s.mem.cells = true) {post} (h : serveHost s hpa write = some post) : Cells.wf post.mem.cells = true := by
  unfold serveHost at h
  split at h
  · split at h
    · cases h
    · split at h <;> cases h <;> simp (maxDischargeDepth := 20) [noteHostHeld_frame .., State.emit_frame .., hm]
  · split at h
    · cases h; simp (maxDischargeDepth := 20) [noteHostHeld_frame .., State.emit_frame .., hm]
    · rw [Option.bind_eq_some_iff] at h
      obtain ⟨t, ht, h⟩ := h
      rw [Option.map_eq_some_iff] at h
      obtain ⟨a, -, h⟩ := h
      cases h
      have hb := hdmBack_wf s _ hm ht
      simp [noteHostHeld_frame .., State.emit_frame .., hb]
    · rw [Option.map_eq_some_iff] at h
      obtain ⟨a, -, h⟩ := h
      cases h; simp (maxDischargeDepth := 20) [noteHostHeld_frame .., State.emit_frame .., hm]
    · rw [Option.map_eq_some_iff] at h
      obtain ⟨a, -, h⟩ := h
      cases h; simp (maxDischargeDepth := 20) [noteHostHeld_frame .., State.emit_frame .., hm]

@[simp] theorem startHold_wf (s : State) (hpa : Nat) (write : Option Bytes) (hm : Cells.wf s.mem.cells = true) : Cells.wf (startHold s hpa write).mem.cells = true := by
  unfold startHold
  repeat' split
  all_goals simp +contextual (maxDischargeDepth := 20) [holdAccess_frame .., State.bump_frame .., hm]

@[simp] theorem hostAccess_wf (s : State) (hpa : Nat) (write : Option Bytes) (hm : Cells.wf s.mem.cells = true) : Cells.wf (hostAccess s hpa write).mem.cells = true := by
  unfold hostAccess
  split
  · exact hm
  · split
    · simp (maxDischargeDepth := 20) [leaveNeap_frame .., holdAccess_frame .., State.bump_frame .., hm]
    · split
      · rename_i h
        exact serveHost_wf _ _ _ hm h
      · simp (maxDischargeDepth := 20) [leaveNeap_frame .., holdAccess_frame .., State.bump_frame .., hm]

theorem execHostMemRead_wf (hpa : Nat) (s : State) (hm : Cells.wf s.mem.cells = true) {post : State} (h : execHostMemRead hpa s = .next post) : Cells.wf post.mem.cells = true := by
  unfold execHostMemRead at h
  repeat' split at h
  all_goals (injection h with h; subst h; simp +contextual (maxDischargeDepth := 20) [hm])

theorem execHostMemWrite_wf (hpa : Nat) (data : Bytes) (s : State) (hm : Cells.wf s.mem.cells = true) {post : State} (h : execHostMemWrite hpa data s = .next post) : Cells.wf post.mem.cells = true := by
  unfold execHostMemWrite at h
  repeat' split at h
  all_goals (injection h with h; subst h; simp +contextual (maxDischargeDepth := 20) [hm])

@[simp] theorem serveOne_wf (s : State) (h : HeldAccess) (hm : Cells.wf s.mem.cells = true) : Cells.wf (serveOne s h).mem.cells = true := by
  unfold serveOne
  split
  · split
    · simp (maxDischargeDepth := 20) [dropHold_frame .., noteHold_frame .., hm]
    · dsimp only
      split <;> simp (maxDischargeDepth := 20) [dropHold_frame .., noteHold_frame .., hm]
  · split
    · rename_i h
      have h := serveHost_wf _ _ _ hm h
      simp (maxDischargeDepth := 20) [dropHold_frame .., noteHold_frame .., h]
    · exact hm

@[simp] theorem serveHeld_wf (s : State) (hm : Cells.wf s.mem.cells = true) : Cells.wf (serveHeld s).mem.cells = true := by
  unfold serveHeld
  dsimp only
  apply cells_ite hm
  refine sendLate_wf _ (foldl_wf _ _ _ (fun s x hm => ?_) hm)
  repeat' split
  all_goals simp (maxDischargeDepth := 20) [hm]

theorem execStackDemotion_wf (s : State) (hm : Cells.wf s.mem.cells = true) {post : State} (h : execStackDemotion s = .next post) : Cells.wf post.mem.cells = true := by
  unfold execStackDemotion at h
  dsimp only at h
  repeat' split at h
  all_goals (injection h with h; subst h; simp +contextual (maxDischargeDepth := 20) [hm])

theorem execShelfDemotion_wf (s : State) (hm : Cells.wf s.mem.cells = true) {post : State} (h : execShelfDemotion s = .next post) : Cells.wf post.mem.cells = true := by
  unfold execShelfDemotion at h
  split at h
  · cases h; exact hm
  · cases h; exact demoteShelf_wf _ _ hm

theorem execPageMoveSwitch_wf (page : PageId) (s : State) (hm : Cells.wf s.mem.cells = true) {post : State} (h : execPageMoveSwitch page s = .next post) : Cells.wf post.mem.cells = true := by
  unfold execPageMoveSwitch at h
  repeat' split at h
  all_goals (injection h with h; subst h; simp +contextual (maxDischargeDepth := 20) [hm])

end Sys2Proof.Machine
end

