-- ==== Sys2Proof/Laws/CellsStrandOps.lean ====
section
/-! SUPPORT. The functions of StrandOps.lean keep the canonical form of the memory's cells. -/

namespace Sys2Proof.Machine

set_option linter.unusedSimpArgs false
set_option linter.unusedVariables false
set_option linter.unusedTactic false
set_option linter.unreachableTactic false
set_option Elab.async false

open Sys2Proof Sys2Proof.Machine

@[simp] theorem throughWindow_wf (s : State) (f : Frame) (ok : Bool) (addr len : Nat) (go : State → Nat → Nat → State) (hm : Cells.wf s.mem.cells = true) (hf : ∀ s a n, Cells.wf s.mem.cells = true → Cells.wf (go s a n).mem.cells = true) : Cells.wf (throughWindow s f ok addr len go).mem.cells = true :=
  throughWindow_keeps (R := fun s t => Cells.wf s.mem.cells = true → Cells.wf t.mem.cells = true) s f ok addr len go
    (fun x y h hx => by simp only [Keeps7] at h; simp [h, hx]) (fun _ _ _ h1 h2 h => h2 (h1 h)) hf hm

@[simp] theorem serveRead_wf (s : State) (f : Frame) (hm : Cells.wf s.mem.cells = true) : Cells.wf (serveRead s f).mem.cells = true := by
  unfold serveRead
  refine throughWindow_wf _ _ _ _ _ _ hm fun s a n hm => ?_
  split
  · simp (maxDischargeDepth := 20) [Table.serveLine_frame .., respond_frame .., noteLine_frame .., refuseFrame_frame .., hm]
  · dsimp only
    split <;> simp (maxDischargeDepth := 20) [Table.serveLine_frame .., respond_frame .., noteLine_frame .., refuseFrame_frame .., hm]

@[simp] theorem serveWrite_wf (s : State) (f : Frame) (hm : Cells.wf s.mem.cells = true) : Cells.wf (serveWrite s f).mem.cells = true := by
  unfold serveWrite
  refine throughWindow_wf _ _ _ _ _ _ hm fun s a n hm => ?_
  dsimp only
  repeat' split
  all_goals simp (maxDischargeDepth := 20) [respond_frame .., refuseFrame_frame .., hm]

@[simp] theorem growReplay_wf (s : State) (hm : Cells.wf s.mem.cells = true) : Cells.wf (growReplay s).mem.cells = true := by
  unfold growReplay
  split
  · exact hm
  split
  · rename_i h
    have h := Mem.allocFixed_cells h
    dsimp only at h ⊢
    rw [h]; exact hm
  · exact hm

@[simp] theorem keepOutcome_wf (s : State) (f : Frame) (status : Nat) (old : Bytes) (hm : Cells.wf s.mem.cells = true) : Cells.wf (keepOutcome s f status old).mem.cells = true := by
  unfold keepOutcome
  simp +contextual (maxDischargeDepth := 20) [hm]

@[simp] theorem answerAtomic_wf (s : State) (f : Frame) (status : Nat) (old : Bytes) (hm : Cells.wf s.mem.cells = true) : Cells.wf (answerAtomic s f status old).mem.cells = true := by
  unfold answerAtomic
  simp +contextual (maxDischargeDepth := 20) [respond_frame .., refuseFrame_frame .., hm]

@[simp] theorem exactlyOnce_wf (s : State) (f : Frame) (run : State → State) (hm : Cells.wf s.mem.cells = true) (hf : Cells.wf (run s).mem.cells = true) : Cells.wf (exactlyOnce s f run).mem.cells = true := by
  unfold exactlyOnce
  dsimp only
  repeat' split
  all_goals first
    | exact hf
    | simp (maxDischargeDepth := 20) [State.bump_frame .., respond_frame .., hm]

@[simp] theorem serveAtomic_wf (s : State) (f : Frame) (hm : Cells.wf s.mem.cells = true) : Cells.wf (serveAtomic s f).mem.cells = true := by
  unfold serveAtomic
  split
  · dsimp only
    repeat' split
    · simp (maxDischargeDepth := 20) [letIn_frame .., malformed_frame .., Berth.wordAtomic_frame .., hm]
    · simp (maxDischargeDepth := 20) [letIn_frame .., malformed_frame .., Berth.wordAtomic_frame .., hm]
    · refine exactlyOnce_wf _ _ _ (by simp (maxDischargeDepth := 20) [letIn_frame .., malformed_frame .., Berth.wordAtomic_frame .., hm]) ?_
      simp (maxDischargeDepth := 20) [letIn_frame .., malformed_frame .., Berth.wordAtomic_frame .., hm]
  · refine throughWindow_wf _ _ _ _ _ _ hm fun s a n hm => ?_
    refine exactlyOnce_wf _ _ _ hm ?_
    simp (maxDischargeDepth := 20) [letIn_frame .., malformed_frame .., Berth.wordAtomic_frame .., hm]

@[simp] theorem atomicAnswered_wf (s : State) (r : Request) (status : Nat) (data : Bytes) (hm : Cells.wf s.mem.cells = true) : Cells.wf (atomicAnswered s r status data).mem.cells = true := by
  unfold atomicAnswered
  repeat' split
  all_goals simp +contextual (maxDischargeDepth := 20) [hm]

@[simp] theorem readEnds_wf (s : State) (r : Request) (status retry : Nat) (data : Bytes) (hm : Cells.wf s.mem.cells = true) : Cells.wf (readEnds s r status retry data).mem.cells = true := by
  unfold readEnds
  repeat' split
  all_goals simp +contextual (maxDischargeDepth := 20) [dropRequest_frame .., endRequest_frame .., installLine_frame .., hm]

@[simp] theorem requestEnds_wf (s : State) (r : Request) (status retry : Nat) (data : Bytes) (hm : Cells.wf s.mem.cells = true) : Cells.wf (requestEnds s r status retry data).mem.cells = true := by
  unfold requestEnds
  simp +contextual (maxDischargeDepth := 20) [endRequest_frame .., registerEnds_frame .., unregisterEnds_frame .., hm]

@[simp] theorem resend_wf (s : State) (r : Request) (hm : Cells.wf s.mem.cells = true) : Cells.wf (resend s r).mem.cells = true := by
  unfold resend
  simp +contextual (maxDischargeDepth := 20) [State.unrouted_frame .., originateOrDrop_frame .., hm]

@[simp] theorem releaseHeld_wf (s : State) (hm : Cells.wf s.mem.cells = true) : Cells.wf (releaseHeld s).mem.cells = true := by
  unfold releaseHeld
  simp +contextual (maxDischargeDepth := 20) [hm]

@[simp] theorem messageAnswered_wf (s : State) (m : OutMsg) (status retry : Nat) (hm : Cells.wf s.mem.cells = true) : Cells.wf (messageAnswered s m status retry).mem.cells = true := by
  unfold messageAnswered
  dsimp only
  repeat' split
  all_goals simp (maxDischargeDepth := 20) [dropOut_frame .., sendLater_frame .., hm]

@[simp] theorem sendDue_wf (s : State) (hm : Cells.wf s.mem.cells = true) : Cells.wf (sendDue s).mem.cells = true := by
  unfold sendDue
  simp +contextual (maxDischargeDepth := 20) [sendLater_frame .., State.unrouted_frame .., transmit_frame .., hm]

@[simp] theorem deliver_wf (s : State) (m : InMsg) (cap : State → InMsg → Bytes → State) (hm : Cells.wf s.mem.cells = true) (hf : ∀ s m b, Cells.wf s.mem.cells = true → Cells.wf (cap s m b).mem.cells = true) : Cells.wf (deliver s m cap).mem.cells = true := by
  unfold deliver
  dsimp only
  repeat' split
  all_goals simp (maxDischargeDepth := 20) [dropIn_frame .., refuseFrame_frame .., respond_frame .., hf, hm]

@[simp] theorem serveSegment_wf (s : State) (f : Frame) (cap : State → InMsg → Bytes → State) (hm : Cells.wf s.mem.cells = true) (hf : ∀ s m b, Cells.wf s.mem.cells = true → Cells.wf (cap s m b).mem.cells = true) : Cells.wf (serveSegment s f cap).mem.cells = true := by
  unfold serveSegment
  extract_lets _ _ _ _ _ _ _ _ checked t _ rest
  have ht : Cells.wf t.mem.cells = true := by simp [t, checked, arrivalCheck_frame .., hm]
  have hr (x : State) : (rest x).mem = x.mem := by
    simp only [rest]
    split <;> simp [dropIn_frame .., putIn_frame ..]
  clear_value rest t
  repeat' split
  all_goals first
    | exact deliver_wf _ _ _ ht hf
    | simp (maxDischargeDepth := 20) [refuseFrame_frame .., putIn_frame .., hr, ht]

end Sys2Proof.Machine
end

