-- ==== Sys2Proof/Laws/CellsEnding.lean ====
section
/-! SUPPORT. The functions of Ending.lean keep the canonical form of the memory's cells. -/

namespace Sys2Proof.Machine

set_option linter.unusedSimpArgs false
set_option linter.unusedVariables false
set_option linter.unusedTactic false
set_option linter.unreachableTactic false
set_option Elab.async false

open Sys2Proof Sys2Proof.Machine

@[simp] theorem endQuery_wf (s : State) (q : Query) (status : Nat) (hm : Cells.wf s.mem.cells = true) : Cells.wf (endQuery s q status).mem.cells = true := by
  unfold endQuery
  simp +contextual (maxDischargeDepth := 20) [dropOwnFrags_frame .., State.bump_frame .., hm]

@[simp] theorem endQueries_wf (s : State) (p : Query → Bool) (status : Nat) (hm : Cells.wf s.mem.cells = true) : Cells.wf (endQueries s p status).mem.cells = true := by
  unfold endQueries
  simp +contextual (maxDischargeDepth := 20) [hm]

@[simp] theorem endFrags_wf (s : State) (p : Fragment → Bool) (status : Nat) (hm : Cells.wf s.mem.cells = true) : Cells.wf (endFrags s p status).mem.cells = true := by
  unfold endFrags
  simp +contextual (maxDischargeDepth := 20) [hm]

@[simp] theorem endChanges_wf (s : State) (p : Nat → Bool) (status : Nat) (hm : Cells.wf s.mem.cells = true) : Cells.wf (endChanges s p status).mem.cells = true := by
  unfold endChanges
  dsimp only
  apply foldl_wf
  · intro s x hm
    split <;> simp [withdraw_frame .., hm]
  · simp +contextual (maxDischargeDepth := 20) [withdraw_frame .., hm]

@[simp] theorem endRuns_wf (s : State) (p : Run → Bool) (status : Nat) (hm : Cells.wf s.mem.cells = true) : Cells.wf (endRuns s p status).mem.cells = true := by
  unfold endRuns
  apply foldl_wf
  · intro s x hm
    try dsimp only
    repeat' split
    all_goals simp +contextual (maxDischargeDepth := 20) [hm]
  · exact hm

@[simp] theorem endBerthWork_wf (s : State) (o : OwnedBerth) (status : Nat) (hm : Cells.wf s.mem.cells = true) : Cells.wf (endBerthWork s o status).mem.cells = true := by
  unfold endBerthWork
  repeat' split
  all_goals simp +contextual (maxDischargeDepth := 20) [Berth.sendControl_frame .., Berth.mapOwned_frame .., Berth.unconfirm_frame .., hm]

@[simp] theorem endParkedWaits_wf (s : State) (h : HomeBerth) (status : Nat) (hm : Cells.wf s.mem.cells = true) : Cells.wf (endParkedWaits s h status).mem.cells = true := by
  unfold endParkedWaits
  exact Berth.finishWaits_wf (fun s => Berth.idOf s.strand.nodeId h.num) _ _ _ (by simpa [Berth.mapHome_frame ..] using hm)

@[simp] theorem endBerths_wf (s : State) (p : Nat → Bool) (status : Nat) (hm : Cells.wf s.mem.cells = true) : Cells.wf (endBerths s p status).mem.cells = true := by
  unfold endBerths
  repeat' split
  all_goals simp +contextual (maxDischargeDepth := 20) [hm]

@[simp] theorem endTables_wf (s : State) (p : Nat → Bool) (status : Nat) (hm : Cells.wf s.mem.cells = true) : Cells.wf (endTables s p status).mem.cells = true := by
  unfold endTables
  apply foldl_wf
  · intro s x hm
    try dsimp only
    repeat' split
    all_goals simp +contextual (maxDischargeDepth := 20) [Table.sendPut_frame .., Table.withdraw_frame .., hm]
  · exact hm

@[simp] theorem endPicked_wf (s : State) (p : Pick) (status : Nat) (hm : Cells.wf s.mem.cells = true) : Cells.wf (endPicked s p status).mem.cells = true := by
  unfold endPicked
  simp +contextual (maxDischargeDepth := 20) [hm]

@[simp] theorem abortFunction_wf (s : State) (b : Nat) (hm : Cells.wf s.mem.cells = true) : Cells.wf (abortFunction s b).mem.cells = true := by
  unfold abortFunction
  simp +contextual (maxDischargeDepth := 20) [State.bump_frame .., hm]

@[simp] theorem endCommands_wf (s : State) (status : Nat) (hm : Cells.wf s.mem.cells = true) : Cells.wf (endCommands s status).mem.cells = true := by
  unfold endCommands
  simp +contextual (maxDischargeDepth := 20) [hm]

@[simp] theorem endAll_wf (s : State) (status : Nat) (hm : Cells.wf s.mem.cells = true) : Cells.wf (endAll s status).mem.cells = true := by
  unfold endAll
  simp +contextual (maxDischargeDepth := 20) [hm]

@[simp] theorem endHostWork_wf (s : State) (status : Nat) (hm : Cells.wf s.mem.cells = true) : Cells.wf (endHostWork s status).mem.cells = true := by
  unfold endHostWork
  simp +contextual (maxDischargeDepth := 20) [hm]

@[simp] theorem cancelOwnerMoves_wf (s : State) (k : Nat) (hm : Cells.wf s.mem.cells = true) : Cells.wf (cancelOwnerMoves s k).mem.cells = true := by
  unfold cancelOwnerMoves
  simp +contextual (maxDischargeDepth := 20) [State.bump_frame .., hm]

@[simp] theorem endCoherence_wf (s : State) (k : Nat) (hm : Cells.wf s.mem.cells = true) : Cells.wf (endCoherence s k).mem.cells = true := by
  unfold endCoherence
  simp +contextual (maxDischargeDepth := 20) [Coh.endReq_frame .., hm]

@[simp] theorem sweepGraphs_wf (s : State) (k : Nat) (hm : Cells.wf s.mem.cells = true) : Cells.wf (sweepGraphs s k).mem.cells = true := by
  unfold sweepGraphs
  apply foldl_wf
  · intro s x hm
    try dsimp only
    repeat' split
    all_goals simp +contextual (maxDischargeDepth := 20) [hm]
  · exact hm

@[simp] theorem sweepSlot_wf (s : State) (k : Nat) (hm : Cells.wf s.mem.cells = true) : Cells.wf (sweepSlot s k).mem.cells = true := by
  unfold sweepSlot
  simp +contextual (maxDischargeDepth := 20) [hm]

end Sys2Proof.Machine
end

