-- ==== Sys2Proof/Laws/CellsKeyOps.lean ====
section
/-! SUPPORT. The functions of KeyOps.lean keep the canonical form of the memory's cells. -/

namespace Sys2Proof.Machine

set_option linter.unusedSimpArgs false
set_option linter.unusedVariables false
set_option linter.unusedTactic false
set_option linter.unreachableTactic false
set_option Elab.async false

open Sys2Proof Sys2Proof.Machine

@[simp] theorem destroySlot_wf (s : State) (k : Nat) (hm : Cells.wf s.mem.cells = true) : Cells.wf (destroySlot s k).mem.cells = true := by
  unfold destroySlot
  simp +contextual (maxDischargeDepth := 20) [setSlot_frame .., dropSequences_frame .., zeroRange_frame .., State.bump_frame .., hm]

@[simp] theorem doDestroy_wf (s : State) (k : Nat) (hm : Cells.wf s.mem.cells = true) : Cells.wf (doDestroy s k).2.2.mem.cells = true := by
  unfold doDestroy
  simp +contextual (maxDischargeDepth := 20) [hm]

@[simp] theorem keyCommand_wf (s : State) (b : Bytes) (hm : Cells.wf s.mem.cells = true) : Cells.wf (keyCommand s b).2.2.mem.cells = true := by
  unfold keyCommand
  simp +contextual (maxDischargeDepth := 20) [doCreateKey_frame .., doRegisterKey_frame .., doRemoveKey_frame .., hm]

@[simp] theorem destroyBadKeys_wf (s : State) (hm : Cells.wf s.mem.cells = true) : Cells.wf (destroyBadKeys s).mem.cells = true := by
  unfold destroyBadKeys
  simp +contextual (maxDischargeDepth := 20) [hm]

end Sys2Proof.Machine
end

