-- ==== Sys2Proof/Laws/CellsSigned.lean ====
section
/-! SUPPORT. The functions of Signed.lean keep the canonical form of the memory's cells. -/

namespace Sys2Proof.Machine

set_option linter.unusedSimpArgs false
set_option linter.unusedVariables false
set_option linter.unusedTactic false
set_option linter.unreachableTactic false
set_option Elab.async false

open Sys2Proof Sys2Proof.Machine

@[simp] theorem signedEffect_wf (s : State) (e : SignedEffect) (hm : Cells.wf s.mem.cells = true) : Cells.wf (signedEffect s e).mem.cells = true := by
  unfold signedEffect
  repeat' split
  all_goals simp +contextual (maxDischargeDepth := 20) [State.logEvent_frame .., State.setNum_frame .., forgetReader_frame .., putExpelled_frame .., installKeys_frame .., hm]

@[simp] theorem signedEffects_wf (s : State) (hm : Cells.wf s.mem.cells = true) : Cells.wf (signedEffects s).mem.cells = true := by
  unfold signedEffects
  simp +contextual (maxDischargeDepth := 20) [hm]

end Sys2Proof.Machine
end

