-- ==== Sys2Proof/Laws/CellsCapWrite.lean ====
section
/-! SUPPORT. The functions of CapWrite.lean keep the canonical form of the memory's cells. -/

namespace Sys2Proof.Machine

set_option linter.unusedSimpArgs false
set_option linter.unusedVariables false
set_option linter.unusedTactic false
set_option linter.unreachableTactic false
set_option Elab.async false

open Sys2Proof Sys2Proof.Num Sys2Proof.Machine

@[simp] theorem idWritten_wf (s : State) (k v : Nat) (hm : Cells.wf s.mem.cells = true) : Cells.wf (idWritten s k v).mem.cells = true := by
  unfold idWritten
  simp +contextual (maxDischargeDepth := 20) [clearSlot_frame .., State.setNum_frame .., hm]

@[simp] theorem rwEffect_wf (s : State) (k : Nat) (v : Val) (hm : Cells.wf s.mem.cells = true) : Cells.wf (rwEffect s k v).mem.cells = true := by
  unfold rwEffect
  repeat' split
  all_goals simp +contextual (maxDischargeDepth := 20) [releaseLock_frame .., State.setNum_frame .., hm]

@[simp] theorem writeSelfTest_wf (s : State) (u : Nat) (hm : Cells.wf s.mem.cells = true) : Cells.wf (writeSelfTest s u).2.2.mem.cells = true := by
  unfold writeSelfTest
  simp +contextual (maxDischargeDepth := 20) [State.bump_frame .., State.logEvent_frame .., hm]

@[simp] theorem writeOnly_wf (s : State) (path : Path) (k : Nat) (b : Bytes) (hm : Cells.wf s.mem.cells = true) : Cells.wf (writeOnly s path k b).2.2.mem.cells = true := by
  unfold writeOnly
  simp +contextual (maxDischargeDepth := 20) [writeReset_frame .., writeQuiesce_frame .., hm]

@[simp] theorem writeEntry_wf (s : State) (path : Path) (i sub typeCode apply : Nat) (b : Bytes) (hm : Cells.wf s.mem.cells = true) : Cells.wf (writeEntry s path i sub typeCode apply b).2.2.mem.cells = true := by
  unfold writeEntry
  dsimp only
  repeat' split
  all_goals simp +contextual (maxDischargeDepth := 20) [writeEntry.readOnly, storeRw_frame .., storeTw_frame .., hm]

end Sys2Proof.Machine
end

