-- ==== Sys2Proof/Laws/FrameCoherenceRows.lean ====
section
/-! SUPPORT. Frames of CoherenceRows.lean: which units of the state each of its functions leaves as they are. -/

namespace Sys2Proof.Machine

set_option linter.unusedSimpArgs false
set_option linter.unusedVariables false
set_option linter.unusedTactic false
set_option linter.unreachableTactic false
set_option Elab.async false

open Sys2Proof Sys2Proof.Machine

theorem request_frame (s : State) (q : CohReq) {post : State} (h : request s q = .next post) : Keeps308 s post := by
  unfold request at h
  repeat' split at h
  all_goals (first | cases h | skip)
  all_goals simp [Coh.arrive_frame .., State.wakeCluster_frame .., Keeps308]

theorem execCacheRead_frame (core owner line : Nat) (s : State) {post : State} (h : execCacheRead core owner line s = .next post) : Keeps308 s post := by
  unfold execCacheRead at h
  repeat' split at h
  all_goals (try (have hk := request_frame _ _ (by assumption); unfold Keeps308 at hk))
  all_goals (first | cases h | skip)
  all_goals simp_all [Keeps308]

theorem execReadOwn_frame (core owner line off : Nat) (data : Bytes) (s : State) {post : State} (h : execReadOwn core owner line off data s = .next post) : Keeps308 s post := by
  unfold execReadOwn at h
  repeat' split at h
  all_goals (try (have hk := request_frame _ _ (by assumption); unfold Keeps308 at hk))
  all_goals (first | cases h | skip)
  all_goals simp_all [Keeps308]

theorem execUpgrade_frame (core owner line off : Nat) (data : Bytes) (s : State) {post : State} (h : execUpgrade core owner line off data s = .next post) : Keeps308 s post := by
  unfold execUpgrade at h
  repeat' split at h
  all_goals (try (have hk := request_frame _ _ (by assumption); unfold Keeps308 at hk))
  all_goals (first | cases h | skip)
  all_goals simp_all [Coh.endReq_frame .., touchAddr_frame .., Keeps308]

theorem execWriteLine_frame (owner line : Nat) (data : Bytes) (s : State) {post : State} (h : execWriteLine owner line data s = .next post) : Keeps308 s post := by
  unfold execWriteLine at h
  repeat' split at h
  all_goals (try (have hk := request_frame _ _ (by assumption); unfold Keeps308 at hk))
  all_goals (first | cases h | skip)
  all_goals simp_all [Keeps308]

theorem execReadOnce_frame (owner line : Nat) (s : State) {post : State} (h : execReadOnce owner line s = .next post) : Keeps308 s post := by
  unfold execReadOnce at h
  repeat' split at h
  all_goals (try (have hk := request_frame _ _ (by assumption); unfold Keeps308 at hk))
  all_goals (first | cases h | skip)
  all_goals simp_all [Keeps308]

theorem execWriteback_frame (core line : Nat) (lost : Bool) (s : State) {post : State} (h : execWriteback core line lost s = .next post) : Keeps142 s post := by
  unfold execWriteback at h
  repeat' split at h
  all_goals (injection h with h; subst h; simp [loseLine_frame .., Coh.leaveL1_frame .., Coh.dropCopy_frame .., Keeps142])

theorem execEvictionNotice_frame (core line : Nat) (s : State) {post : State} (h : execEvictionNotice core line s = .next post) : Keeps240 s post := by
  unfold execEvictionNotice at h
  repeat' split at h
  all_goals (injection h with h; subst h; simp [Coh.leaveL1_frame .., Coh.dropCopy_frame .., Keeps240])

theorem execCacheAtomic_frame (owner addr op : Nat) (operand expected : Bytes) (s : State) {post : State} (h : execCacheAtomic owner addr op operand expected s = .next post) : Keeps308 s post := by
  unfold execCacheAtomic at h
  repeat' split at h
  all_goals (try (have hk := request_frame _ _ (by assumption); unfold Keeps308 at hk))
  all_goals (first | cases h | skip)
  all_goals simp_all [Coh.endReq_frame .., Keeps308]

theorem execInvalidationAck_frame (core line : Nat) (s : State) {post : State} (h : execInvalidationAck core line s = .next post) : Keeps258 s post := by
  unfold execInvalidationAck at h
  repeat' split at h
  all_goals (injection h with h; subst h; simp [Coh.acknowledge_frame .., Keeps258])

theorem execFirmwareWriteback_frame (addr lines : Nat) (s : State) {post : State} (h : execFirmwareWriteback addr lines s = .next post) : Keeps140 s post := by
  unfold execFirmwareWriteback at h
  repeat' split at h
  all_goals (first | cases h | skip)
  all_goals simp [Coh.clean_frame .., State.bump_frame .., Keeps140]

theorem execFirmwareInvalidate_frame (addr lines : Nat) (s : State) {post : State} (h : execFirmwareInvalidate addr lines s = .next post) : Keeps16 s post := by
  unfold execFirmwareInvalidate at h
  repeat' split at h
  all_goals (first | cases h | skip)
  all_goals simp [Coh.flush_frame .., Keeps16]

theorem execFirmwareFence_frame (s : State) {post : State} (h : execFirmwareFence s = .next post) : Keeps258 s post := by
  unfold execFirmwareFence at h
  repeat' split at h
  all_goals (injection h with h; subst h; simp [Coh.settleLines_frame .., Keeps258])

theorem execHostSnoop_frame (line : Nat) (snoop : Snoop) (s : State) {post : State} (h : execHostSnoop line snoop s = .next post) : Keeps141 s post := by
  unfold execHostSnoop at h
  repeat' split at h
  all_goals (injection h with h; subst h; simp [State.emit_frame .., Keeps141])

theorem execBisnpResponse_frame (line : Nat) (s : State) {post : State} (h : execBisnpResponse line s = .next post) : Keeps266 s post := by
  unfold execBisnpResponse at h
  dsimp only at h
  repeat' split at h
  all_goals (injection h with h; subst h; simp [sendZeroing_frame .., bisnpEnded_frame .., Coh.acknowledge_frame .., serveHeld_frame .., sendLate_frame .., hdmStore_frame .., State.emit_frame .., State.bump_frame .., Keeps266])

end Sys2Proof.Machine
end

