-- ==== Sys2Proof/Laws/CellsCoherenceRows.lean ====
section
/-! SUPPORT. The functions of CoherenceRows.lean keep the canonical form of the memory's cells. -/

namespace Sys2Proof.Machine

set_option linter.unusedSimpArgs false
set_option linter.unusedVariables false
set_option linter.unusedTactic false
set_option linter.unreachableTactic false
set_option Elab.async false

open Sys2Proof Sys2Proof.Machine

theorem request_wf (s : State) (q : CohReq) (hm : Cells.wf s.mem.cells = true) {post : State} (h : request s q = .next post) : Cells.wf post.mem.cells = true := by
  unfold request at h
  split at h
  · cases h
  · split at h
    · exact next_wf h hm
    · injection h with h; subst h; simp (maxDischargeDepth := 20) [State.wakeCluster_frame .., hm]

theorem execCacheRead_wf (core owner line : Nat) (s : State) (hm : Cells.wf s.mem.cells = true) {post : State} (h : execCacheRead core owner line s = .next post) : Cells.wf post.mem.cells = true := by
  unfold execCacheRead at h
  exact request_wf _ _ hm h

theorem execReadOwn_wf (core owner line off : Nat) (data : Bytes) (s : State) (hm : Cells.wf s.mem.cells = true) {post : State} (h : execReadOwn core owner line off data s = .next post) : Cells.wf post.mem.cells = true := by
  unfold execReadOwn at h
  exact request_wf _ _ hm h

theorem execUpgrade_wf (core owner line off : Nat) (data : Bytes) (s : State) (hm : Cells.wf s.mem.cells = true) {post : State} (h : execUpgrade core owner line off data s = .next post) : Cells.wf post.mem.cells = true := by
  unfold execUpgrade at h
  dsimp only at h
  split at h
  · split at h
    · injection h with h; subst h; simp (maxDischargeDepth := 20) [Coh.endReq_frame .., hm]
    · exact request_wf _ _ hm h
  · exact request_wf _ _ hm h

theorem execWriteLine_wf (owner line : Nat) (data : Bytes) (s : State) (hm : Cells.wf s.mem.cells = true) {post : State} (h : execWriteLine owner line data s = .next post) : Cells.wf post.mem.cells = true := by
  unfold execWriteLine at h
  exact request_wf _ _ hm h

theorem execReadOnce_wf (owner line : Nat) (s : State) (hm : Cells.wf s.mem.cells = true) {post : State} (h : execReadOnce owner line s = .next post) : Cells.wf post.mem.cells = true := by
  unfold execReadOnce at h
  exact request_wf _ _ hm h

theorem execWriteback_wf (core line : Nat) (lost : Bool) (s : State) (hm : Cells.wf s.mem.cells = true) {post : State} (h : execWriteback core line lost s = .next post) : Cells.wf post.mem.cells = true := by
  unfold execWriteback at h
  repeat' split at h
  all_goals (injection h with h; subst h; simp +contextual (maxDischargeDepth := 20) [loseLine_frame .., hm])

theorem execEvictionNotice_wf (core line : Nat) (s : State) (hm : Cells.wf s.mem.cells = true) {post : State} (h : execEvictionNotice core line s = .next post) : Cells.wf post.mem.cells = true := by
  unfold execEvictionNotice at h
  repeat' split at h
  all_goals (injection h with h; subst h; simp +contextual (maxDischargeDepth := 20) [hm])

theorem execCacheAtomic_wf (owner addr op : Nat) (operand expected : Bytes) (s : State) (hm : Cells.wf s.mem.cells = true) {post : State} (h : execCacheAtomic owner addr op operand expected s = .next post) : Cells.wf post.mem.cells = true := by
  unfold execCacheAtomic at h
  dsimp only at h
  split at h
  · exact request_wf _ _ hm h
  · split at h
    · injection h with h; subst h; simp (maxDischargeDepth := 20) [Coh.endReq_frame .., hm]
    · exact next_wf h hm

theorem execInvalidationAck_wf (core line : Nat) (s : State) (hm : Cells.wf s.mem.cells = true) {post : State} (h : execInvalidationAck core line s = .next post) : Cells.wf post.mem.cells = true := by
  unfold execInvalidationAck at h
  repeat' split at h
  all_goals (injection h with h; subst h; simp +contextual (maxDischargeDepth := 20) [hm])

theorem execFirmwareWriteback_wf (addr lines : Nat) (s : State) (hm : Cells.wf s.mem.cells = true) {post : State} (h : execFirmwareWriteback addr lines s = .next post) : Cells.wf post.mem.cells = true := by
  unfold execFirmwareWriteback at h
  repeat' split at h
  all_goals (first | cases h | skip)
  all_goals simp +contextual (maxDischargeDepth := 20) [State.bump_frame .., hm]

theorem execFirmwareInvalidate_wf (addr lines : Nat) (s : State) (hm : Cells.wf s.mem.cells = true) {post : State} (h : execFirmwareInvalidate addr lines s = .next post) : Cells.wf post.mem.cells = true := by
  unfold execFirmwareInvalidate at h
  repeat' split at h
  all_goals (first | cases h | skip)
  all_goals simp +contextual (maxDischargeDepth := 20) [hm]

theorem execFirmwareFence_wf (s : State) (hm : Cells.wf s.mem.cells = true) {post : State} (h : execFirmwareFence s = .next post) : Cells.wf post.mem.cells = true := by
  unfold execFirmwareFence at h
  repeat' split at h
  all_goals (injection h with h; subst h; simp +contextual (maxDischargeDepth := 20) [hm])

theorem execBisnpResponse_wf (line : Nat) (s : State) (hm : Cells.wf s.mem.cells = true) {post : State} (h : execBisnpResponse line s = .next post) : Cells.wf post.mem.cells = true := by
  unfold execBisnpResponse at h
  dsimp only at h
  repeat' split at h
  all_goals (injection h with h; subst h; simp +contextual (maxDischargeDepth := 20) [sendZeroing_frame .., bisnpEnded_frame .., hm])

end Sys2Proof.Machine
end

