-- ==== Sys2Proof/Laws/FrameImage.lean ====
section
/-! SUPPORT. Frames of Image.lean: which units of the state each of its functions leaves as they are. -/

namespace Sys2Proof.Machine

set_option linter.unusedSimpArgs false
set_option linter.unusedVariables false
set_option linter.unusedTactic false
set_option linter.unreachableTactic false
set_option Elab.async false

open Sys2Proof Sys2Proof.Machine

theorem setRx_frame (s : State) (r : Option ImageRx) (st : Nat) : Keeps112 s (setRx s r st) := by
  unfold Keeps112 setRx
  simp [State.setNum_frame ..]

theorem imageBegin_frame (s : State) : Keeps112 s (imageBegin s).2.2 := by
  unfold Keeps112 imageBegin
  simp [setRx_frame ..]

theorem imageAppend_frame (s : State) (offset : Nat) (data : Bytes) : Keeps112 s (imageAppend s offset data).2 := by
  unfold imageAppend
  repeat' split
  all_goals simp [setRx_frame .., Keeps112]

theorem imageClose_frame (s : State) (req : Option CapReq) : Keeps112 s (imageClose s req).2 := by
  unfold imageClose
  repeat' split
  all_goals simp [setRx_frame .., State.setNum_frame .., Keeps112]

theorem imageInput_frame (s : State) (req : Option CapReq) (b : Bytes) : Keeps112 s (imageInput s req b).2.2 := by
  unfold imageInput
  repeat' split
  all_goals simp [imageBegin_frame .., imageAppend_frame .., imageClose_frame .., Keeps112]

end Sys2Proof.Machine
end

