-- ==== Sys2Proof/Laws/FrameCap.lean ====
section
/-! SUPPORT. Frames of Cap.lean: which units of the state each of its functions leaves as they are. -/

namespace Sys2Proof.Machine

set_option linter.unusedSimpArgs false
set_option linter.unusedVariables false
set_option linter.unusedTactic false
set_option linter.unreachableTactic false
set_option Elab.async false

open Sys2Proof Sys2Proof.Machine

theorem mapSession_frame (s : State) (r : CapReq) (f : Session → Session) : Keeps120 s (mapSession s r f) := by
  unfold Keeps120 mapSession
  simp

theorem expireLock_frame (s : State) : Keeps121 s (expireLock s) := by
  unfold expireLock
  repeat' split
  all_goals simp [releaseLock_frame .., Keeps121]

theorem expireSnapshots_frame (s : State) : Keeps120 s (expireSnapshots s) := by
  unfold Keeps120 expireSnapshots
  simp

theorem noteUse_frame (s : State) (r : CapReq) : Keeps120 s (noteUse s r) := by
  unfold Keeps120 noteUse
  simp [mapSession_frame ..]

theorem openSession_frame (s : State) (r : CapReq) {post} (h : openSession s r = some post) : Keeps120 s post := by
  unfold openSession at h
  dsimp only at h
  split at h
  · injection h with h; subst h; simp [Keeps120]
  · rw [Option.map_eq_some_iff] at h
    obtain ⟨y, -, h⟩ := h
    cases h
    simp [Keeps120]

theorem provenance_frame (s : State) (r : CapReq) {post} (h : provenance s r = .ok post) : Keeps126 s post.2 := by
  unfold provenance at h
  dsimp only at h
  repeat' split at h
  all_goals (first | cases h | skip)
  all_goals simp [State.bump_frame .., Keeps126]
  all_goals (repeat' split)
  all_goals simp [State.bump_frame ..]

theorem markRead_frame (s : State) : Keeps127 s (markRead s) := by
  unfold Keeps127 markRead
  simp

theorem takeValue_frame (s : State) (r : CapReq) (e : Entry) {post} (h : takeValue s r e = .ok post) : Keeps128 s post.2.2 := by
  unfold takeValue at h
  dsimp only at h
  split at h
  · split at h
    · cases h; simp [readEntry_frame .., markRead_frame .., Keeps128]
    · cases h; simp [readEntry_frame .., markRead_frame .., Keeps128]
  · split at h
    · generalize hp : provenance s r = p
      rw [hp] at h
      cases p with
      | error e => cases h
      | ok q =>
        cases h
        have hp := provenance_frame _ _ hp
        simp_all [readEntry_frame .., markRead_frame .., Keeps128]
    · split at h
      · cases h; simp [readEntry_frame .., markRead_frame .., Keeps128]
      · cases h
        simp [readEntry_frame .., markRead_frame .., Keeps128]

theorem capRead_frame (s : State) (r : CapReq) : Keeps129 s (capRead s r).2 := by
  unfold capRead
  repeat' split
  all_goals (try (have hk := takeValue_frame _ _ _ (by assumption); unfold Keeps129 at hk))
  all_goals simp_all [mapSession_frame .., Keeps129]

theorem stageSegment_frame (s : State) (r : CapReq) {post} (h : stageSegment s r = .ok post) : Keeps120 s post.2 := by
  unfold stageSegment at h
  dsimp only at h
  repeat' split at h
  all_goals (first | cases h | skip)
  all_goals simp [mapSession_frame .., Keeps120]
  all_goals (repeat' split)
  all_goals simp [mapSession_frame ..]

theorem unstaged_frame (s : State) (r : CapReq) : Keeps120 s (unstaged s r) := by
  unfold Keeps120 unstaged
  simp [mapSession_frame ..]

theorem writeNonce_frame (s : State) (r : CapReq) (b : Bytes) : Keeps120 s (writeNonce s r b).2 := by
  unfold Keeps120 writeNonce
  simp [mapSession_frame ..]

theorem capWrite_frame (s : State) (r : CapReq) : Keeps124 s (capWrite s r).2 := by
  unfold capWrite
  repeat' split
  all_goals (try (have hk := stageSegment_frame _ _ (by assumption); unfold Keeps124 at hk))
  all_goals simp_all [unstaged_frame .., writeNonce_frame .., writeEntry_frame .., Keeps124]

theorem capSigned_frame (s : State) (r : CapReq) : Keeps130 s (capSigned s r).2 := by
  unfold capSigned
  repeat' split
  all_goals (try (have hk := stageSegment_frame _ _ (by assumption); unfold Keeps130 at hk))
  all_goals simp_all [unstaged_frame .., refusedSigned_frame .., signedCommand_frame .., Keeps130]

theorem capImage_frame (s : State) (r : CapReq) : Keeps112 s (capImage s r).2 := by
  unfold Keeps112 capImage
  simp [imageInput_frame ..]

theorem capLock_frame (s : State) (r : CapReq) : Keeps121 s (capLock s r).2 := by
  unfold capLock
  dsimp only
  repeat' split
  all_goals simp [releaseLock_frame .., State.bump_frame .., Keeps121]

theorem capUnlock_frame (s : State) (r : CapReq) : Keeps121 s (capUnlock s r).2 := by
  unfold Keeps121 capUnlock
  simp [releaseLock_frame ..]

theorem capDescribe_frame (s : State) (r : CapReq) : Keeps131 s (capDescribe s r).2 := by
  unfold capDescribe
  repeat' split
  all_goals simp [Keeps131]

theorem capOperate_frame (s : State) (r : CapReq) : Keeps124 s (capOperate s r).2 := by
  unfold Keeps124 capOperate
  simp [capRead_frame .., capWrite_frame .., capLock_frame .., capUnlock_frame .., capDescribe_frame .., capSigned_frame .., capImage_frame ..]

theorem countError_frame (s : State) (status : Nat) : Keeps1 s (countError s status) := by
  unfold Keeps1 countError
  simp [State.bump_frame ..]

theorem keepResponse_frame (s : State) (r : CapReq) (resp : Option CapResp) : Keeps120 s (keepResponse s r resp) := by
  unfold Keeps120 keepResponse
  simp [mapSession_frame ..]

theorem capInSession_frame (s : State) (r : CapReq) : Keeps124 s (capInSession s r).2 := by
  unfold capInSession
  dsimp only
  repeat' split
  all_goals simp [countError_frame .., capOperate_frame .., keepResponse_frame .., Keeps124]

theorem capServe_frame (s : State) (r : CapReq) : Keeps124 s (capServe s r).2 := by
  unfold capServe
  dsimp only
  split
  · simp [Keeps124]
  split
  · split <;> simp [State.bump_frame .., Keeps124]
  split
  · simp [Keeps124]
  split
  · simp [State.bump_frame .., Keeps124]
  split
  · simp [State.bump_frame .., expireSnapshots_frame .., expireLock_frame .., Keeps124]
  · rename_i t h
    have hk : Keeps124 s t := by
      split at h
      · cases h; simp [State.bump_frame .., expireSnapshots_frame .., expireLock_frame .., Keeps124]
      · have h := openSession_frame _ _ h
        simp_all [State.bump_frame .., expireSnapshots_frame .., expireLock_frame .., Keeps124]
    simp_all [capInSession_frame .., noteUse_frame .., Keeps124]

theorem sendCap_frame (s : State) (r : CapReq) (resp : CapResp) : Keeps306 s (sendCap s r resp) := by
  unfold sendCap
  repeat' split
  all_goals simp [answerCap_frame .., State.emit_frame .., Keeps306]

theorem answerReq_frame (s : State) (r : CapReq) : Keeps124 s (answerReq s r) := by
  unfold answerReq
  dsimp only
  repeat' split
  all_goals simp [capServe_frame .., sendCap_frame .., Keeps124]

/-- What a mailbox command can do: it is refused, or its own function runs. -/
theorem mailCommand_keeps {R : State → State → Prop} (s : State) (bytes : Nat) (f : State → State) (h25 : ∀ x y, Keeps25 x y → R x y)
    (ht : ∀ x y z, R x y → R y z → R x z) (hf : ∀ x, R x (f x)) : R s (mailCommand s bytes f) := by
  unfold mailCommand
  dsimp only
  repeat' split
  all_goals first
    | exact ht _ _ _ (h25 _ _ (by simp [Keeps25])) (hf _)
    | exact h25 _ _ (by simp [noBar_frame .., mailOut_frame .., Keeps25])

theorem handleCap_frame (s : State) (r : CapReq) : Keeps124 s (handleCap s r) := by
  unfold handleCap
  split
  all_goals first
    | exact mailCommand_keeps (R := Keeps124) _ _ _ (by simp +contextual [Keeps25, Keeps124]) (by simp +contextual [Keeps124]) fun x => by simp [answerReq_frame .., Keeps124]
    | simp [answerReq_frame .., Keeps124]

theorem imageAnswer_frame (s : State) (rx : ImageRx) (status : Nat) : Keeps313 s (imageAnswer s rx status) := by
  unfold imageAnswer
  repeat' split
  all_goals simp [mailOut_frame .., answerCap_frame .., countError_frame .., mapSession_frame .., State.emit_frame .., sendCap_frame .., Keeps313]

end Sys2Proof.Machine
end

