-- ==== Sys2Proof/Laws/CellsCap.lean ====
section
/-! SUPPORT. The functions of Cap.lean keep the canonical form of the memory's cells. -/

namespace Sys2Proof.Machine

set_option linter.unusedSimpArgs false
set_option linter.unusedVariables false
set_option linter.unusedTactic false
set_option linter.unreachableTactic false
set_option Elab.async false

open Sys2Proof Sys2Proof.Machine

@[simp] theorem capWrite_wf (s : State) (r : CapReq) (hm : Cells.wf s.mem.cells = true) : Cells.wf (capWrite s r).2.mem.cells = true := by
  unfold capWrite
  split
  · exact hm
  · split
    · simp [unstaged_frame .., writeNonce_frame .., hm]
    · rename_i h
      have h := stageSegment_frame _ _ h
      simp_all [unstaged_frame .., writeNonce_frame ..]
    · rename_i b t h
      have h := stageSegment_frame _ _ h
      have hk : t.mem = s.mem := by simp_all [unstaged_frame .., writeNonce_frame ..]
      have hm : Cells.wf t.mem.cells = true := by rw [hk]; exact hm
      split <;> simp (maxDischargeDepth := 20) [unstaged_frame .., writeNonce_frame .., hm]

@[simp] theorem capOperate_wf (s : State) (r : CapReq) (hm : Cells.wf s.mem.cells = true) : Cells.wf (capOperate s r).2.mem.cells = true := by
  unfold capOperate
  simp +contextual (maxDischargeDepth := 20) [capRead_frame .., capLock_frame .., capUnlock_frame .., capDescribe_frame .., capSigned_frame .., capImage_frame .., hm]

@[simp] theorem capInSession_wf (s : State) (r : CapReq) (hm : Cells.wf s.mem.cells = true) : Cells.wf (capInSession s r).2.mem.cells = true := by
  unfold capInSession
  dsimp only
  repeat' split
  all_goals simp +contextual (maxDischargeDepth := 20) [countError_frame .., keepResponse_frame .., hm]

@[simp] theorem capServe_wf (s : State) (r : CapReq) (hm : Cells.wf s.mem.cells = true) : Cells.wf (capServe s r).2.mem.cells = true := by
  unfold capServe
  dsimp only
  split
  · exact hm
  split
  · split <;> simp [State.bump_frame .., expireSnapshots_frame .., expireLock_frame .., noteUse_frame .., hm]
  split
  · exact hm
  split
  · simp [State.bump_frame .., expireSnapshots_frame .., expireLock_frame .., noteUse_frame .., hm]
  split
  · simp [State.bump_frame .., expireSnapshots_frame .., expireLock_frame .., noteUse_frame .., hm]
  · rename_i t h
    have hk : Cells.wf t.mem.cells = true := by
      split at h
      · cases h; simp [State.bump_frame .., expireSnapshots_frame .., expireLock_frame .., noteUse_frame .., hm]
      · have h := openSession_frame _ _ h
        simp_all [State.bump_frame .., expireSnapshots_frame .., expireLock_frame .., noteUse_frame ..]
    simp (maxDischargeDepth := 20) [State.bump_frame .., expireSnapshots_frame .., expireLock_frame .., noteUse_frame .., hk]

@[simp] theorem answerReq_wf (s : State) (r : CapReq) (hm : Cells.wf s.mem.cells = true) : Cells.wf (answerReq s r).mem.cells = true := by
  unfold answerReq
  dsimp only
  repeat' split
  all_goals simp +contextual (maxDischargeDepth := 20) [sendCap_frame .., hm]

@[simp] theorem mailCommand_wf (s : State) (bytes : Nat) (f : State → State) (hm : Cells.wf s.mem.cells = true) (hf : ∀ x, Cells.wf x.mem.cells = true → Cells.wf (f x).mem.cells = true) : Cells.wf (mailCommand s bytes f).mem.cells = true := by
  unfold mailCommand
  dsimp only
  repeat' split
  all_goals first
    | exact hf _ hm
    | simp (maxDischargeDepth := 20) [noBar_frame .., mailOut_frame .., hm]

@[simp] theorem handleCap_wf (s : State) (r : CapReq) (hm : Cells.wf s.mem.cells = true) : Cells.wf (handleCap s r).mem.cells = true := by
  unfold handleCap
  split
  all_goals first
    | exact mailCommand_wf _ _ _ hm fun x hm => by simp (maxDischargeDepth := 20) [hm]
    | simp (maxDischargeDepth := 20) [hm]

end Sys2Proof.Machine
end

