-- ==== Sys2Proof/Laws/FrameHostRows.lean ====
section
/-! SUPPORT. Frames of HostRows.lean: which units of the state each of its functions leaves as they are. -/

namespace Sys2Proof.Machine

set_option linter.unusedSimpArgs false
set_option linter.unusedVariables false
set_option linter.unusedTactic false
set_option linter.unreachableTactic false
set_option Elab.async false

open Sys2Proof Sys2Proof.Machine

theorem disableEffect_frame (s : State) : Keeps22 s (disableEffect s) := by
  unfold Keeps22 disableEffect
  simp

theorem enableHost_frame (s : State) : Keeps22 s (enableHost s) := by
  unfold Keeps22 enableHost
  simp [disableEffect_frame ..]

theorem disableHost_frame (s : State) : Keeps22 s (disableHost s) := by
  unfold Keeps22 disableHost
  simp [disableEffect_frame ..]

theorem faultPair_frame (s : State) (q cause : Nat) : Keeps133 s (faultPair s q cause) := by
  unfold Keeps133 faultPair
  simp [mapPair_frame .., State.bump_frame ..]

theorem enablePair_frame (s : State) (q word : Nat) : Keeps133 s (enablePair s q word) := by
  unfold Keeps133 enablePair
  simp [mapPair_frame .., faultPair_frame ..]

theorem disablePair_frame (s : State) (q word : Nat) : Keeps22 s (disablePair s q word) := by
  unfold Keeps22 disablePair
  simp [mapPair_frame ..]

theorem writeQenable_frame (s : State) (q word : Nat) : Keeps133 s (writeQenable s q word) := by
  unfold Keeps133 writeQenable
  simp [enablePair_frame .., disablePair_frame ..]

theorem ringSq_frame (s : State) (q v : Nat) : Keeps133 s (ringSq s q v) := by
  unfold Keeps133 ringSq
  simp [faultPair_frame .., mapPair_frame ..]

theorem ringCq_frame (s : State) (q v : Nat) : Keeps133 s (ringCq s q v) := by
  unfold Keeps133 ringCq
  simp [faultPair_frame .., mapPair_frame ..]

theorem writeBlock_frame (s : State) (q off v : Nat) : Keeps133 s (writeBlock s q off v) := by
  unfold writeBlock
  repeat' split
  all_goals simp [mapPair_frame .., writeQenable_frame .., Keeps133]

theorem unmask_frame (s : State) (v : Nat) : Keeps25 s (unmask s v) := by
  unfold unmask
  repeat' split
  all_goals simp [State.emit_frame .., Keeps25]

theorem writeMsix_frame (s : State) (vec off v : Nat) : Keeps25 s (writeMsix s vec off v) := by
  unfold writeMsix
  repeat' split
  all_goals simp [unmask_frame .., Keeps25]

theorem ringMailbox_frame (s : State) : Keeps25 s (ringMailbox s) := by
  unfold ringMailbox
  apply ite_keeps (R := Keeps25) (by simp [Keeps25])
  exact mailCommand_keeps (R := Keeps25) _ _ _ (by simp +contextual [Keeps25, Keeps25]) (by simp +contextual [Keeps25]) fun x => by simp [mailOut_frame .., Keeps25]

theorem barWord_frame (s : State) (off v : Nat) : Keeps23 s (barWord s off v) := by
  unfold Keeps23 barWord
  simp [ringMailbox_frame .., enableHost_frame .., disableHost_frame .., writeBlock_frame .., ringSq_frame .., ringCq_frame .., writeMsix_frame ..]

theorem barWrite_frame (s : State) (off size v : Nat) : Keeps23 s (barWrite s off size v) := by
  unfold Keeps23 barWrite
  simp [noBar_frame .., barWord_frame ..]

theorem execControllerEnable_frame (s : State) {post : State} (h : execControllerEnable s = .next post) : Keeps23 s post := by
  unfold execControllerEnable at h
  repeat' split at h
  all_goals (injection h with h; subst h; simp [barWrite_frame .., Keeps23])

theorem execControllerDisable_frame (s : State) {post : State} (h : execControllerDisable s = .next post) : Keeps23 s post := by
  unfold execControllerDisable at h
  repeat' split at h
  all_goals (injection h with h; subst h; simp [barWrite_frame .., Keeps23])

theorem execQueueEnable_frame (pair word : Nat) (s : State) {post : State} (h : execQueueEnable pair word s = .next post) : Keeps23 s post := by
  unfold execQueueEnable at h
  repeat' split at h
  all_goals (injection h with h; subst h; simp [barWrite_frame .., Keeps23])

theorem execQueueDisable_frame (pair word : Nat) (s : State) {post : State} (h : execQueueDisable pair word s = .next post) : Keeps23 s post := by
  unfold execQueueDisable at h
  repeat' split at h
  all_goals (injection h with h; subst h; simp [barWrite_frame .., Keeps23])

theorem execSqTailDoorbell_frame (pair value : Nat) (s : State) {post : State} (h : execSqTailDoorbell pair value s = .next post) : Keeps23 s post := by
  unfold execSqTailDoorbell at h
  repeat' split at h
  all_goals (injection h with h; subst h; simp [barWrite_frame .., Keeps23])

theorem execCqHeadDoorbell_frame (pair value : Nat) (s : State) {post : State} (h : execCqHeadDoorbell pair value s = .next post) : Keeps23 s post := by
  unfold execCqHeadDoorbell at h
  repeat' split at h
  all_goals (injection h with h; subst h; simp [barWrite_frame .., Keeps23])

theorem execLinkLostClear_frame (s : State) {post : State} (h : execLinkLostClear s = .next post) : Keeps23 s post := by
  unfold execLinkLostClear at h
  repeat' split at h
  all_goals (injection h with h; subst h; simp [barWrite_frame .., Keeps23])

theorem execBar0Write_frame (offset size value : Nat) (s : State) {post : State} (h : execBar0Write offset size value s = .next post) : Keeps23 s post := by
  unfold execBar0Write at h
  repeat' split at h
  all_goals (injection h with h; subst h; simp [barWrite_frame .., Keeps23])

theorem execMsixUnmask_frame (vector : Nat) (s : State) {post : State} (h : execMsixUnmask vector s = .next post) : Keeps23 s post := by
  unfold execMsixUnmask at h
  repeat' split at h
  all_goals (injection h with h; subst h; simp [barWrite_frame .., Keeps23])

theorem setReady_frame (s : State) : Keeps22 s (setReady s) := by
  unfold Keeps22 setReady
  simp

theorem execReadySet_frame (s : State) {post : State} (h : execReadySet s = .next post) : Keeps22 s post := by
  unfold execReadySet at h
  repeat' split at h
  all_goals (injection h with h; subst h; simp [setReady_frame .., Keeps22])

theorem execHostDisableEffect_frame (s : State) {post : State} (h : execHostDisableEffect s = .next post) : Keeps22 s post := by
  unfold execHostDisableEffect at h
  repeat' split at h
  all_goals (injection h with h; subst h; simp [disableEffect_frame .., Keeps22])

theorem endDrain_frame (s : State) : Keeps301 s (endDrain s) := by
  unfold Keeps301 endDrain
  simp [endHostWork_frame ..]

theorem execHostDrainLimit_frame (s : State) {post : State} (h : execHostDrainLimit s = .next post) : Keeps301 s post := by
  unfold execHostDrainLimit at h
  repeat' split at h
  all_goals (injection h with h; subst h; simp [endDrain_frame .., Keeps301])

theorem execQueueDisableDone_frame (pair : Nat) (s : State) {post : State} (h : execQueueDisableDone pair s = .next post) : Keeps22 s post := by
  unfold execQueueDisableDone at h
  repeat' split at h
  all_goals (injection h with h; subst h; simp [mapPair_frame .., Keeps22])

theorem takeEntry_frame (s : State) (q : Nat) (b : Bytes) : Keeps258 s (takeEntry s q b) := by
  unfold takeEntry
  dsimp only
  repeat' split
  all_goals simp [mapPair_frame .., State.finish_frame .., Keeps258]

theorem execSqFetch_frame (pair : Nat) (read : HostRead) (s : State) {post : State} (h : execSqFetch pair read s = .next post) : Keeps258 s post := by
  unfold execSqFetch at h
  dsimp only at h
  repeat' split at h
  all_goals (injection h with h; subst h; simp [fetchInput_frame .., touchInput_frame .., takeEntry_frame .., faultPair_frame .., Keeps258])

theorem execCoalesceTimer_frame (pair : Nat) (s : State) {post : State} (h : execCoalesceTimer pair s = .next post) : Keeps258 s post := by
  unfold execCoalesceTimer at h
  dsimp only at h
  repeat' split at h
  all_goals (injection h with h; subst h; simp [signalLate_frame .., sendInterrupt_frame .., Keeps258])

theorem loseLink_frame (s : State) : Keeps262 s (loseLink s) := by
  have tr : ∀ x y z, Keeps262 x y → Keeps262 y z → Keeps262 x z := by simp +contextual [Keeps262]
  have hf (u : State) (l : List BackInv) : Keeps262 u (l.foldl (fun s b => match b.grants with
      | some n => Coh.acknowledge s Coh.hostAgent n
      | none => hdmStore s (b.line * 64 + b.off) b.data) u) :=
    foldl_keeps (R := Keeps262) (by simp [Keeps262]) tr fun s x => by split <;> simp [Coh.acknowledge_frame .., hdmStore_frame .., Keeps262]
  unfold loseLink
  apply ite_keeps (R := Keeps262) (by simp [Keeps262])
  extract_lets w n _ u v _ _ _ x
  have hv : Keeps262 s v := tr _ u _ (by simp [u, Keeps262]) (hf u w)
  clear_value v
  clear hf
  simp_all [x, State.bump_frame .., Keeps262]

theorem execLinkLoss_frame (s : State) {post : State} (h : execLinkLoss s = .next post) : Keeps262 s post := by
  unfold execLinkLoss at h
  repeat' split at h
  all_goals (injection h with h; subst h; simp [loseLink_frame .., Keeps262])

theorem comeInForce_frame (s : State) (ms : List Moment) : Keeps1 s (comeInForce s ms) := by
  unfold Keeps1 comeInForce
  simp

theorem execLinkTrained_frame (width rate : Nat) (s : State) {post : State} (h : execLinkTrained width rate s = .next post) : Keeps133 s post := by
  unfold execLinkTrained at h
  dsimp only at h
  repeat' split at h
  all_goals (injection h with h; subst h; simp [comeInForce_frame .., Keeps133])

theorem execHdmCommit_frame (base size : Nat) (s : State) {post : State} (h : execHdmCommit base size s = .next post) : Keeps22 s post := by
  unfold execHdmCommit at h
  repeat' split at h
  all_goals (injection h with h; subst h; simp [Keeps22])

theorem execGetSupportedLogs_frame (s : State) {post : State} (h : execGetSupportedLogs s = .next post) : Keeps25 s post := by
  unfold execGetSupportedLogs at h
  injection h with h; subst h
  exact mailCommand_keeps (R := Keeps25) _ _ _ (by simp +contextual [Keeps25, Keeps25]) (by simp +contextual [Keeps25]) fun x => by simp [mailOut_frame .., Keeps25]

theorem execGetLog_frame (input : Bytes) (s : State) {post : State} (h : execGetLog input s = .next post) : Keeps25 s post := by
  unfold execGetLog at h
  injection h with h; subst h
  refine mailCommand_keeps (R := Keeps25) _ _ _ (by simp +contextual [Keeps25, Keeps25]) (by simp +contextual [Keeps25]) fun x => ?_
  repeat' split
  all_goals simp [mailOut_frame .., Keeps25]

theorem execCatalogueTransaction_frame (input : Bytes) (s : State) {post : State} (h : execCatalogueTransaction input s = .next post) : Keeps124 s post := by
  unfold execCatalogueTransaction at h
  injection h with h; subst h
  refine mailCommand_keeps (R := Keeps124) _ _ _ (by simp +contextual [Keeps25, Keeps124]) (by simp +contextual [Keeps124]) fun x => ?_
  repeat' split
  all_goals simp [mailOut_frame .., answerReq_frame .., handleCap_frame .., Keeps124]

theorem mailImage_frame (s : State) (input : Bytes) : Keeps314 s (mailImage s input) := by
  unfold mailImage
  dsimp only
  repeat' split
  all_goals simp [expireLock_frame .., mailOut_frame .., imageInput_frame .., State.emit_frame .., Keeps314]

theorem imageRow_frame (s : State) (action : Nat) (x : ImageXfer) : Keeps124 s (imageRow s action x) := by
  unfold imageRow
  split
  all_goals (try apply ite_keeps (R := Keeps124))
  all_goals first
    | exact mailCommand_keeps (R := Keeps124) _ _ _ (by simp +contextual [Keeps25, Keeps124]) (by simp +contextual [Keeps124]) fun x => by simp [mailImage_frame .., Keeps124]
    | simp [handleCap_frame .., Keeps124]

theorem execImageStart_frame (xfer : ImageXfer) (s : State) {post : State} (h : execImageStart xfer s = .next post) : Keeps124 s post := by
  unfold execImageStart at h
  repeat' split at h
  all_goals (injection h with h; subst h; simp [imageRow_frame .., Keeps124])

theorem execImageData_frame (xfer : ImageXfer) (s : State) {post : State} (h : execImageData xfer s = .next post) : Keeps124 s post := by
  unfold execImageData at h
  repeat' split at h
  all_goals (injection h with h; subst h; simp [imageRow_frame .., Keeps124])

theorem execImageEnd_frame (xfer : ImageXfer) (s : State) {post : State} (h : execImageEnd xfer s = .next post) : Keeps124 s post := by
  unfold execImageEnd at h
  repeat' split at h
  all_goals (injection h with h; subst h; simp [imageRow_frame .., Keeps124])

theorem execImageVerifyDone_frame (s : State) {post : State} (h : execImageVerifyDone s = .next post) : Keeps316 s post := by
  unfold execImageVerifyDone at h
  dsimp only at h
  repeat' split at h
  all_goals (injection h with h; subst h; simp [imageAnswer_frame .., setRx_frame .., State.setNum_frame .., Keeps316])

theorem execImageWriteDone_frame (verified : Bool) (s : State) {post : State} (h : execImageWriteDone verified s = .next post) : Keeps315 s post := by
  unfold execImageWriteDone at h
  repeat' split at h
  all_goals (injection h with h; subst h; simp [setRx_frame .., imageAnswer_frame .., State.bump_frame .., Keeps315])

theorem execDoeDiscovery_frame (index : Nat) (s : State) {post : State} (h : execDoeDiscovery index s = .next post) : Keeps3 s post := by
  unfold execDoeDiscovery at h
  repeat' split at h
  all_goals (injection h with h; subst h; simp [State.emit_frame .., Keeps3])

theorem execCdat_frame (handle : Nat) (s : State) {post : State} (h : execCdat handle s = .next post) : Keeps3 s post := by
  unfold execCdat at h
  repeat' split at h
  all_goals (injection h with h; subst h; simp [State.emit_frame .., Keeps3])

theorem execSpdm_frame (request : Bytes) (s : State) {post : State} (h : execSpdm request s = .next post) : Keeps137 s post := by
  unfold execSpdm at h
  repeat' split at h
  all_goals (injection h with h; subst h; simp [State.emit_frame .., Keeps137])

theorem execIdeKm_frame (request : Bytes) (s : State) {post : State} (h : execIdeKm request s = .next post) : Keeps138 s post := by
  unfold execIdeKm at h
  repeat' split at h
  all_goals (injection h with h; subst h; simp [State.emit_frame .., Keeps138])

end Sys2Proof.Machine
end

