-- ==== Sys2Proof/Laws/CellsHostRows.lean ====
section
/-! SUPPORT. The functions of HostRows.lean keep the canonical form of the memory's cells. -/

namespace Sys2Proof.Machine

set_option linter.unusedSimpArgs false
set_option linter.unusedVariables false
set_option linter.unusedTactic false
set_option linter.unreachableTactic false
set_option Elab.async false

open Sys2Proof Sys2Proof.Machine

@[simp] theorem endDrain_wf (s : State) (hm : Cells.wf s.mem.cells = true) : Cells.wf (endDrain s).mem.cells = true := by
  unfold endDrain
  simp +contextual (maxDischargeDepth := 20) [hm]

theorem execHostDrainLimit_wf (s : State) (hm : Cells.wf s.mem.cells = true) {post : State} (h : execHostDrainLimit s = .next post) : Cells.wf post.mem.cells = true := by
  unfold execHostDrainLimit at h
  repeat' split at h
  all_goals (injection h with h; subst h; simp +contextual (maxDischargeDepth := 20) [hm])

@[simp] theorem takeEntry_wf (s : State) (q : Nat) (b : Bytes) (hm : Cells.wf s.mem.cells = true) : Cells.wf (takeEntry s q b).mem.cells = true := by
  unfold takeEntry
  dsimp only
  repeat' split
  all_goals simp +contextual (maxDischargeDepth := 20) [mapPair_frame .., hm]

theorem execSqFetch_wf (pair : Nat) (read : HostRead) (s : State) (hm : Cells.wf s.mem.cells = true) {post : State} (h : execSqFetch pair read s = .next post) : Cells.wf post.mem.cells = true := by
  unfold execSqFetch at h
  dsimp only at h
  repeat' split at h
  all_goals (injection h with h; subst h; simp +contextual (maxDischargeDepth := 20) [faultPair_frame .., hm])

theorem execCoalesceTimer_wf (pair : Nat) (s : State) (hm : Cells.wf s.mem.cells = true) {post : State} (h : execCoalesceTimer pair s = .next post) : Cells.wf post.mem.cells = true := by
  unfold execCoalesceTimer at h
  dsimp only at h
  repeat' split at h
  all_goals (injection h with h; subst h; simp +contextual (maxDischargeDepth := 20) [hm])

@[simp] theorem loseLink_wf (s : State) (hm : Cells.wf s.mem.cells = true) : Cells.wf (loseLink s).mem.cells = true := by
  unfold loseLink
  apply cells_ite hm
  extract_lets w n _ u v _ _ _ x
  have hv : Cells.wf v.mem.cells = true := by
    refine foldl_wf _ _ _ (fun s x hm => ?_) hm
    split <;> simp (maxDischargeDepth := 20) [State.bump_frame .., hm]
  clear_value v
  simp (maxDischargeDepth := 20) [x, State.bump_frame .., hv]

theorem execLinkLoss_wf (s : State) (hm : Cells.wf s.mem.cells = true) {post : State} (h : execLinkLoss s = .next post) : Cells.wf post.mem.cells = true := by
  unfold execLinkLoss at h
  repeat' split at h
  all_goals (injection h with h; subst h; simp +contextual (maxDischargeDepth := 20) [hm])

theorem execCatalogueTransaction_wf (input : Bytes) (s : State) (hm : Cells.wf s.mem.cells = true) {post : State} (h : execCatalogueTransaction input s = .next post) : Cells.wf post.mem.cells = true := by
  unfold execCatalogueTransaction at h
  injection h with h; subst h
  refine mailCommand_wf _ _ _ hm fun x hm => ?_
  repeat' split
  all_goals simp (maxDischargeDepth := 20) [mailOut_frame .., hm]

@[simp] theorem imageRow_wf (s : State) (action : Nat) (x : ImageXfer) (hm : Cells.wf s.mem.cells = true) : Cells.wf (imageRow s action x).mem.cells = true := by
  unfold imageRow
  split
  all_goals (try apply cells_ite)
  all_goals first
    | exact mailCommand_wf _ _ _ hm fun x hm => by simp (maxDischargeDepth := 20) [mailImage_frame .., hm]
    | simp (maxDischargeDepth := 20) [mailImage_frame .., hm]

theorem execImageStart_wf (xfer : ImageXfer) (s : State) (hm : Cells.wf s.mem.cells = true) {post : State} (h : execImageStart xfer s = .next post) : Cells.wf post.mem.cells = true := by
  unfold execImageStart at h
  repeat' split at h
  all_goals (injection h with h; subst h; simp +contextual (maxDischargeDepth := 20) [hm])

theorem execImageData_wf (xfer : ImageXfer) (s : State) (hm : Cells.wf s.mem.cells = true) {post : State} (h : execImageData xfer s = .next post) : Cells.wf post.mem.cells = true := by
  unfold execImageData at h
  repeat' split at h
  all_goals (injection h with h; subst h; simp +contextual (maxDischargeDepth := 20) [hm])

theorem execImageEnd_wf (xfer : ImageXfer) (s : State) (hm : Cells.wf s.mem.cells = true) {post : State} (h : execImageEnd xfer s = .next post) : Cells.wf post.mem.cells = true := by
  unfold execImageEnd at h
  repeat' split at h
  all_goals (injection h with h; subst h; simp +contextual (maxDischargeDepth := 20) [hm])

end Sys2Proof.Machine
end

