-- ==== Sys2Proof/Laws/FrameResetOps.lean ====
section
/-! SUPPORT. Frames of ResetOps.lean: which units of the state each of its functions leaves as they are. -/

namespace Sys2Proof.Machine

set_option linter.unusedSimpArgs false
set_option linter.unusedVariables false
set_option linter.unusedTactic false
set_option linter.unreachableTactic false
set_option Elab.async false

open Sys2Proof Sys2Proof.Machine

theorem defaultV_frame (s : State) : Keeps1 s (defaultV s) := by
  unfold Keeps1 defaultV
  simp

theorem clearManagement_frame (s : State) : Keeps312 s (clearManagement s) := by
  unfold Keeps312 clearManagement
  simp [defaultV_frame .., setRx_frame ..]

theorem resetPort_frame (s : State) (p : Nat) : Keeps9 s (resetPort s p) := by
  unfold Keeps9 resetPort
  simp [mapPort_frame .., clearLink_frame ..]

theorem clearFabric_frame (s : State) : Keeps9 s (clearFabric s) := by
  unfold Keeps9 clearFabric
  simp [resetPort_frame ..]

theorem flushCaches_frame (s : State) : Keeps16 s (flushCaches s) := by
  unfold Keeps16 flushCaches
  simp [Coh.flush_frame ..]

theorem writeBack_frame (s : State) (lines : List Nat) : Keeps142 s (writeBack s lines) := by
  unfold Keeps142 writeBack
  simp [State.drawFree_frame .., loseLine_frame .., Coh.clean_frame ..]

theorem freeScans_frame (s : State) (banks : List Bank) : Keeps16 s (freeScans s banks) := by
  unfold Keeps16 freeScans
  simp [freeFixedPages_frame ..]

theorem endSearch_frame (s : State) : Keeps273 s (endSearch s) := by
  unfold Keeps273 endSearch
  simp [endQueries_frame .., State.refuse_frame ..]

theorem clearClusters_frame (s : State) : Keeps143 s (clearClusters s) := by
  unfold Keeps143 clearClusters
  simp [Coh.dropOutside_frame .., writeBack_frame .., freeScans_frame .., endSearch_frame .., endRuns_frame ..]

theorem failWriting_frame (s : State) : Keeps112 s (failWriting s) := by
  unfold failWriting
  repeat' split
  all_goals simp [setRx_frame .., Keeps112]

theorem clearFlash_frame (s : State) : Keeps144 s (clearFlash s) := by
  unfold Keeps144 clearFlash
  simp [failWriting_frame ..]

theorem cancelMoves_frame (s : State) : Keeps18 s (cancelMoves s) := by
  unfold Keeps18 cancelMoves
  simp [cancelMove_frame .., State.bump_frame ..]

theorem clearDomain_frame (s : State) (d : Nat) : Keeps145 s (clearDomain s d) := by
  unfold clearDomain
  repeat' split
  all_goals simp [clearManagement_frame .., clearFabric_frame .., cancelMoves_frame .., clearClusters_frame .., clearFlash_frame .., loseLink_frame .., Keeps145]

theorem flushCore_frame (s : State) (core : Nat) : Keeps142 s (flushCore s core) := by
  unfold Keeps142 flushCore
  simp [writeBack_frame ..]

theorem flushCluster_frame (s : State) (k : Nat) : Keeps250 s (flushCluster s k) := by
  unfold Keeps250 flushCluster
  simp [writeBack_frame .., Coh.flush_frame .., Coh.dropOutside_frame ..]

theorem clearBlock_frame (s : State) (b : Nat) : Keeps143 s (clearBlock s b) := by
  unfold clearBlock
  repeat' split
  all_goals simp [flushCore_frame .., flushCluster_frame .., endSearch_frame .., endRuns_frame .., Nb.mapBank_frame .., freeScans_frame .., mapPort_frame .., clearLink_frame .., Keeps143]

theorem startMaster_frame (s : State) : Keeps147 s (startMaster s) := by
  unfold Keeps147 startMaster
  simp

theorem warmTide_frame (s : State) : Keeps5 s (warmTide s) := by
  unfold Keeps5 warmTide
  simp [startMaster_frame .., State.lockAt_frame ..]

theorem clearAll_frame (s : State) : Keeps148 s (clearAll s) := by
  unfold Keeps148 clearAll
  simp [keepMaintained_frame ..]

theorem endNeap_frame (s : State) : Keeps86 s (endNeap s) := by
  unfold Keeps86 endNeap
  simp [State.setNum_frame ..]

theorem clearFor_frame (s : State) (c : Cause) : Keeps149 s (clearFor s c) := by
  unfold Keeps149 clearFor
  simp [clearAll_frame .., clearBlock_frame .., warmTide_frame .., comeInForce_frame .., clearDomain_frame ..]

theorem assertReset_frame (s : State) (c : Cause) : Keeps149 s (assertReset s c) := by
  unfold assertReset
  repeat' split
  all_goals simp [clearFor_frame .., endNeap_frame .., Keeps149]

end Sys2Proof.Machine
end

