-- ==== Sys2Proof/Laws/CellsResetOps.lean ====
section
/-! SUPPORT. The functions of ResetOps.lean keep the canonical form of the memory's cells. -/

namespace Sys2Proof.Machine

set_option linter.unusedSimpArgs false
set_option linter.unusedVariables false
set_option linter.unusedTactic false
set_option linter.unreachableTactic false
set_option Elab.async false

open Sys2Proof Sys2Proof.Machine

@[simp] theorem flushCaches_wf (s : State) (hm : Cells.wf s.mem.cells = true) : Cells.wf (flushCaches s).mem.cells = true := by
  unfold flushCaches
  simp +contextual (maxDischargeDepth := 20) [hm]

@[simp] theorem writeBack_wf (s : State) (lines : List Nat) (hm : Cells.wf s.mem.cells = true) : Cells.wf (writeBack s lines).mem.cells = true := by
  unfold writeBack
  simp +contextual (maxDischargeDepth := 20) [State.drawFree_frame .., loseLine_frame .., hm]

@[simp] theorem freeScans_wf (s : State) (banks : List Bank) (hm : Cells.wf s.mem.cells = true) : Cells.wf (freeScans s banks).mem.cells = true := by
  unfold freeScans
  simp +contextual (maxDischargeDepth := 20) [hm]

@[simp] theorem endSearch_wf (s : State) (hm : Cells.wf s.mem.cells = true) : Cells.wf (endSearch s).mem.cells = true := by
  unfold endSearch
  simp +contextual (maxDischargeDepth := 20) [hm]

@[simp] theorem clearClusters_wf (s : State) (hm : Cells.wf s.mem.cells = true) : Cells.wf (clearClusters s).mem.cells = true := by
  unfold clearClusters
  simp +contextual (maxDischargeDepth := 20) [Coh.dropOutside_frame .., hm]

@[simp] theorem cancelMoves_wf (s : State) (hm : Cells.wf s.mem.cells = true) : Cells.wf (cancelMoves s).mem.cells = true := by
  unfold cancelMoves
  simp +contextual (maxDischargeDepth := 20) [State.bump_frame .., hm]

@[simp] theorem clearDomain_wf (s : State) (d : Nat) (hm : Cells.wf s.mem.cells = true) : Cells.wf (clearDomain s d).mem.cells = true := by
  unfold clearDomain
  repeat' split
  all_goals simp +contextual (maxDischargeDepth := 20) [clearManagement_frame .., clearFabric_frame .., clearFlash_frame .., hm]

@[simp] theorem flushCore_wf (s : State) (core : Nat) (hm : Cells.wf s.mem.cells = true) : Cells.wf (flushCore s core).mem.cells = true := by
  unfold flushCore
  simp +contextual (maxDischargeDepth := 20) [hm]

@[simp] theorem flushCluster_wf (s : State) (k : Nat) (hm : Cells.wf s.mem.cells = true) : Cells.wf (flushCluster s k).mem.cells = true := by
  unfold flushCluster
  simp +contextual (maxDischargeDepth := 20) [Coh.dropOutside_frame .., hm]

@[simp] theorem clearBlock_wf (s : State) (b : Nat) (hm : Cells.wf s.mem.cells = true) : Cells.wf (clearBlock s b).mem.cells = true := by
  unfold clearBlock
  repeat' split
  all_goals simp +contextual (maxDischargeDepth := 20) [Nb.mapBank_frame .., mapPort_frame .., clearLink_frame .., hm]

@[simp] theorem clearAll_wf (s : State) (hm : Cells.wf s.mem.cells = true) : Cells.wf (clearAll s).mem.cells = true := by
  unfold clearAll
  rfl

@[simp] theorem clearFor_wf (s : State) (c : Cause) (hm : Cells.wf s.mem.cells = true) : Cells.wf (clearFor s c).mem.cells = true := by
  unfold clearFor
  simp +contextual (maxDischargeDepth := 20) [warmTide_frame .., comeInForce_frame .., hm]

@[simp] theorem assertReset_wf (s : State) (c : Cause) (hm : Cells.wf s.mem.cells = true) : Cells.wf (assertReset s c).mem.cells = true := by
  unfold assertReset
  repeat' split
  all_goals simp +contextual (maxDischargeDepth := 20) [endNeap_frame .., hm]

end Sys2Proof.Machine
end

