-- ==== Sys2Proof/Laws/FrameBootRows.lean ====
section
/-! SUPPORT. Frames of BootRows.lean: which units of the state each of its functions leaves as they are. -/

namespace Sys2Proof.Machine

set_option linter.unusedSimpArgs false
set_option linter.unusedVariables false
set_option linter.unusedTactic false
set_option linter.unreachableTactic false
set_option Elab.async false

open Sys2Proof Sys2Proof.Machine

theorem loadBoot_frame (s : State) : Keeps8 s (loadBoot s) := by
  unfold loadBoot
  repeat' split
  all_goals simp [State.logEvent_frame .., Keeps8]

theorem adopt_frame (s : State) (f : FlashVal) : Keeps1 s (adopt s f) := by
  unfold Keeps1 adopt
  simp [State.setVal_frame ..]

theorem adoptRegion5_frame (s : State) : Keeps149 s (adoptRegion5 s) := by
  unfold adoptRegion5
  dsimp only
  repeat' split
  all_goals simp [adopt_frame .., State.setNum_frame .., assertReset_frame .., Keeps149]

theorem bootRom_frame (s : State) : Keeps150 s (bootRom s) := by
  unfold Keeps150 bootRom
  simp [loadBoot_frame ..]

theorem takeNodeId_frame (s : State) : Keeps6 s (takeNodeId s) := by
  unfold Keeps6 takeNodeId
  simp

theorem dropStrayShoals_frame (s : State) (c : Nat) : Keeps187 s (dropStrayShoals s c) := by
  unfold Keeps187 dropStrayShoals
  simp [dropCopy_frame ..]

theorem coldCopies_frame (s : State) : Keeps183 s (coldCopies s) := by
  unfold Keeps183 coldCopies
  simp [newCopy_frame ..]

theorem raiseFloor_frame (s : State) : Keeps1 s (raiseFloor s) := by
  unfold Keeps1 raiseFloor
  simp [State.setNum_frame ..]

theorem execFirmwareImageStarted_frame (s : State) {post : State} (h : execFirmwareImageStarted s = .next post) : Keeps193 s post := by
  unfold execFirmwareImageStarted at h
  repeat' split at h
  all_goals (injection h with h; subst h; simp [raiseFloor_frame .., takeNodeId_frame .., Coh.passSlots_frame .., coldCopies_frame .., startPorts_frame .., Keeps193])

theorem execRebuildDone_frame (s : State) {post : State} (h : execRebuildDone s = .next post) : Keeps149 s post := by
  have tr : ∀ x y z, Keeps149 x y → Keeps149 y z → Keeps149 x z := by simp +contextual [Keeps149]
  have hr : ∀ x, Keeps149 x x := by simp [Keeps149]
  unfold execRebuildDone at h
  split at h
  · injection h with h; subst h; exact hr _
  dsimp only at h
  generalize hv : List.foldl (fun (s : State) (h : HomeBerth) => (Berth.recordPage s h.num).getD s) _ _ = v at h
  have hv : Keeps149 s v := by
    rw [← hv]
    refine tr _ _ _ (?_ : Keeps149 s _) (foldl_keeps (R := Keeps149) hr tr fun s x => getD_keeps (R := Keeps149) (fun t e => ?_) (hr _))
    · simp [State.setNum_frame .., Keeps149]
    · have e := Berth.recordPage_frame _ _ e
      simp_all [Keeps149]
  split at h
  · injection h with h; subst h; simp_all [adoptRegion5_frame .., Keeps149]
  · injection h with h; subst h
    refine tr _ _ _ (tr _ _ _ (?_ : Keeps149 s _) (foldl_keeps (R := Keeps149) hr tr fun s x => by simp [dropStrayShoals_frame .., Keeps149])) (foldl_keeps (R := Keeps149) hr tr fun s x => by simp [askFill_frame .., Keeps149])
    simp_all [adoptRegion5_frame .., coldCopies_frame .., Keeps149]

end Sys2Proof.Machine
end

