-- ==== Sys2Proof/Laws/CellsBootRows.lean ====
section
/-! SUPPORT. The functions of BootRows.lean keep the canonical form of the memory's cells. -/

namespace Sys2Proof.Machine

set_option linter.unusedSimpArgs false
set_option linter.unusedVariables false
set_option linter.unusedTactic false
set_option linter.unreachableTactic false
set_option Elab.async false

open Sys2Proof Sys2Proof.Machine

@[simp] theorem adoptRegion5_wf (s : State) (hm : Cells.wf s.mem.cells = true) : Cells.wf (adoptRegion5 s).mem.cells = true := by
  unfold adoptRegion5
  dsimp only
  repeat' split
  all_goals simp +contextual (maxDischargeDepth := 20) [adopt_frame .., State.setNum_frame .., hm]

@[simp] theorem dropStrayShoals_wf (s : State) (c : Nat) (hm : Cells.wf s.mem.cells = true) : Cells.wf (dropStrayShoals s c).mem.cells = true := by
  unfold dropStrayShoals
  simp +contextual (maxDischargeDepth := 20) [hm]

@[simp] theorem coldCopies_wf (s : State) (hm : Cells.wf s.mem.cells = true) : Cells.wf (coldCopies s).mem.cells = true := by
  unfold coldCopies
  simp +contextual (maxDischargeDepth := 20) [hm]

theorem execFirmwareImageStarted_wf (s : State) (hm : Cells.wf s.mem.cells = true) {post : State} (h : execFirmwareImageStarted s = .next post) : Cells.wf post.mem.cells = true := by
  unfold execFirmwareImageStarted at h
  repeat' split at h
  all_goals (injection h with h; subst h; simp +contextual (maxDischargeDepth := 20) [raiseFloor_frame .., takeNodeId_frame .., Coh.passSlots_frame .., startPorts_frame .., hm])

theorem execRebuildDone_wf (s : State) (hm : Cells.wf s.mem.cells = true) {post : State} (h : execRebuildDone s = .next post) : Cells.wf post.mem.cells = true := by
  unfold execRebuildDone at h
  split at h
  · exact next_wf h hm
  dsimp only at h
  generalize hv : List.foldl (fun (s : State) (h : HomeBerth) => (Berth.recordPage s h.num).getD s) _ _ = v at h
  have hv : Cells.wf v.mem.cells = true := by
    rw [← hv]
    refine foldl_wf _ _ _ (fun s x hm => getD_wf (fun t e => Berth.recordPage_wf _ _ hm e) hm) ?_
    simp (maxDischargeDepth := 20) [State.setNum_frame .., hm]
  split at h
  · injection h with h; subst h; simp (maxDischargeDepth := 20) [State.setNum_frame .., hv]
  · injection h with h; subst h
    refine foldl_wf _ _ _ (fun s x hm => by simp (maxDischargeDepth := 20) [State.setNum_frame .., hm]) (foldl_wf _ _ _ (fun s x hm => by simp (maxDischargeDepth := 20) [State.setNum_frame .., hm]) ?_)
    simp (maxDischargeDepth := 20) [State.setNum_frame .., hv]

end Sys2Proof.Machine
end

