-- ==== Sys2Proof/Laws/FrameStrandRows.lean ====
section
/-! SUPPORT. Frames of StrandRows.lean: which units of the state each of its functions leaves as they are. -/

namespace Sys2Proof.Machine

set_option linter.unusedSimpArgs false
set_option linter.unusedVariables false
set_option linter.unusedTactic false
set_option linter.unreachableTactic false
set_option Elab.async false

open Sys2Proof Sys2Proof.Machine

theorem execStrandRead_frame (frame : Frame) (s : State) {post : State} (h : execStrandRead frame s = .next post) : Keeps261 s post := by
  unfold execStrandRead onRequest at h
  repeat' split at h
  all_goals (injection h with h; subst h; simp [serveRead_frame .., originateRequest_frame .., Keeps261])

theorem execStrandWrite_frame (frame : Frame) (s : State) {post : State} (h : execStrandWrite frame s = .next post) : Keeps260 s post := by
  unfold execStrandWrite onRequest at h
  repeat' split at h
  all_goals (injection h with h; subst h; simp [serveWrite_frame .., originateRequest_frame .., Keeps260])

theorem execStrandAtomic_frame (frame : Frame) (s : State) {post : State} (h : execStrandAtomic frame s = .next post) : Keeps292 s post := by
  unfold execStrandAtomic onRequest at h
  repeat' split at h
  all_goals (injection h with h; subst h; simp [serveAtomic_frame .., originateRequest_frame .., Keeps292])

theorem execRegister_frame (frame : Frame) (s : State) {post : State} (h : execRegister frame s = .next post) : Keeps7 s post := by
  unfold execRegister onRequest at h
  repeat' split at h
  all_goals (injection h with h; subst h; simp [serveRegister_frame .., originateRequest_frame .., Keeps7])

theorem execUnregister_frame (frame : Frame) (s : State) {post : State} (h : execUnregister frame s = .next post) : Keeps7 s post := by
  unfold execUnregister onRequest at h
  repeat' split at h
  all_goals (injection h with h; subst h; simp [serveUnregister_frame .., originateRequest_frame .., Keeps7])

theorem execPublish_frame (frame : Frame) (s : State) {post : State} (h : execPublish frame s = .next post) : Keeps7 s post := by
  unfold execPublish onRequest at h
  repeat' split at h
  all_goals (injection h with h; subst h; simp [servePublish_frame .., originateRequest_frame .., Keeps7])

theorem execInvalidate_frame (frame : Frame) (s : State) {post : State} (h : execInvalidate frame s = .next post) : Keeps7 s post := by
  unfold execInvalidate onRequest at h
  repeat' split at h
  all_goals (injection h with h; subst h; simp [serveInvalidate_frame .., originateRequest_frame .., Keeps7])

theorem messageTimeout_frame (s : State) (m : InMsg) : Keeps7 s (messageTimeout s m) := by
  unfold Keeps7 messageTimeout
  simp [dropIn_frame .., respond_frame ..]

theorem execMessageReassemblyTimeout_frame (src id : Nat) (s : State) {post : State} (h : execMessageReassemblyTimeout src id s = .next post) : Keeps7 s post := by
  unfold execMessageReassemblyTimeout at h
  repeat' split at h
  all_goals (injection h with h; subst h; simp [messageTimeout_frame .., Keeps7])

theorem execReadResponse_frame (frame : Frame) (s : State) {post : State} (h : execReadResponse frame s = .next post) : Keeps261 s post := by
  unfold execReadResponse onResponse at h
  split at h
  · injection h with h; subst h; simp [readEnds_frame .., Keeps261]
  · split at h
    all_goals (injection h with h; subst h; simp [readEnds_frame .., Keeps261])

theorem execWriteResponse_frame (frame : Frame) (s : State) {post : State} (h : execWriteResponse frame s = .next post) : Keeps293 s post := by
  unfold execWriteResponse onResponse at h
  split at h
  · injection h with h; subst h; simp [releaseHeld_frame .., endRequest_frame .., Keeps293]
  · split at h
    all_goals (injection h with h; subst h; simp [releaseHeld_frame .., endRequest_frame .., Keeps293])

theorem execAtomicResponse_frame (frame : Frame) (s : State) {post : State} (h : execAtomicResponse frame s = .next post) : Keeps292 s post := by
  unfold execAtomicResponse onResponse at h
  split at h
  · injection h with h; subst h; simp [atomicAnswered_frame .., endRequest_frame .., Keeps292]
  · split at h
    all_goals (injection h with h; subst h; simp [atomicAnswered_frame .., endRequest_frame .., Keeps292])

theorem execRegisterResponse_frame (frame : Frame) (s : State) {post : State} (h : execRegisterResponse frame s = .next post) : Keeps6 s post := by
  unfold execRegisterResponse onResponse at h
  split at h
  · injection h with h; subst h; simp [registerEnds_frame .., Keeps6]
  · split at h
    all_goals (injection h with h; subst h; simp [registerEnds_frame .., Keeps6])

theorem execPublishResponse_frame (frame : Frame) (s : State) {post : State} (h : execPublishResponse frame s = .next post) : Keeps6 s post := by
  unfold execPublishResponse onResponse at h
  repeat' split at h
  all_goals (injection h with h; subst h; simp [endRequest_frame .., spoilRemote_frame .., Keeps6])

theorem execInvalidateResponse_frame (frame : Frame) (s : State) {post : State} (h : execInvalidateResponse frame s = .next post) : Keeps7 s post := by
  unfold execInvalidateResponse at h
  repeat' split at h
  all_goals (injection h with h; subst h; simp [readerDone_frame .., Keeps7])

theorem execMessageResponse_frame (frame : Frame) (s : State) {post : State} (h : execMessageResponse frame s = .next post) : Keeps301 s post := by
  unfold execMessageResponse at h
  repeat' split at h
  all_goals (injection h with h; subst h; simp [messageAnswered_frame .., Keeps301])

theorem execReadResend_frame (seq : Nat) (s : State) {post : State} (h : execReadResend seq s = .next post) : Keeps293 s post := by
  unfold execReadResend at h
  repeat' split at h
  all_goals (injection h with h; subst h; simp [resend_frame .., Keeps293])

theorem execStrandGiveUp_frame (seq : Nat) (s : State) {post : State} (h : execStrandGiveUp seq s = .next post) : Keeps293 s post := by
  unfold execStrandGiveUp at h
  dsimp only at h
  repeat' split at h
  all_goals (injection h with h; subst h; simp [readEnds_frame .., releaseHeld_frame .., endRequest_frame .., Keeps293])

theorem execAtomicResend_frame (seq : Nat) (s : State) {post : State} (h : execAtomicResend seq s = .next post) : Keeps293 s post := by
  unfold execAtomicResend at h
  repeat' split at h
  all_goals (injection h with h; subst h; simp [resend_frame .., Keeps293])

theorem execAtomicGiveUp_frame (seq : Nat) (s : State) {post : State} (h : execAtomicGiveUp seq s = .next post) : Keeps292 s post := by
  unfold execAtomicGiveUp at h
  repeat' split at h
  all_goals (injection h with h; subst h; simp [atomicAnswered_frame .., endRequest_frame .., State.bump_frame .., Keeps292])

theorem execInvalidateResend_frame (seq src : Nat) (s : State) {post : State} (h : execInvalidateResend seq src s = .next post) : Keeps7 s post := by
  unfold execInvalidateResend at h
  repeat' split at h
  all_goals (injection h with h; subst h; simp [sendInvalidate_frame .., Keeps7])

theorem execPublishGiveUp_frame (seq : Nat) (s : State) {post : State} (h : execPublishGiveUp seq s = .next post) : Keeps7 s post := by
  unfold execPublishGiveUp at h
  repeat' split at h
  all_goals (injection h with h; subst h; simp [endRequest_frame .., State.bump_frame .., Keeps7])

theorem execReplayEntryExpiry_frame (s : State) {post : State} (h : execReplayEntryExpiry s = .next post) : Keeps6 s post := by
  unfold execReplayEntryExpiry at h
  repeat' split at h
  all_goals (injection h with h; subst h; simp [Keeps6])

end Sys2Proof.Machine
end

