-- ==== Sys2Proof/Laws/CellsStrandRows.lean ====
section
/-! SUPPORT. The functions of StrandRows.lean keep the canonical form of the memory's cells. -/

namespace Sys2Proof.Machine

set_option linter.unusedSimpArgs false
set_option linter.unusedVariables false
set_option linter.unusedTactic false
set_option linter.unreachableTactic false
set_option Elab.async false

open Sys2Proof Sys2Proof.Machine

theorem execStrandRead_wf (frame : Frame) (s : State) (hm : Cells.wf s.mem.cells = true) {post : State} (h : execStrandRead frame s = .next post) : Cells.wf post.mem.cells = true := by
  unfold execStrandRead onRequest at h
  repeat' split at h
  all_goals (injection h with h; subst h; simp (maxDischargeDepth := 20) [serveRead_wf .., originateRequest_frame .., hm])

theorem execStrandWrite_wf (frame : Frame) (s : State) (hm : Cells.wf s.mem.cells = true) {post : State} (h : execStrandWrite frame s = .next post) : Cells.wf post.mem.cells = true := by
  unfold execStrandWrite onRequest at h
  repeat' split at h
  all_goals (injection h with h; subst h; simp (maxDischargeDepth := 20) [serveWrite_wf .., originateRequest_frame .., hm])

theorem execStrandAtomic_wf (frame : Frame) (s : State) (hm : Cells.wf s.mem.cells = true) {post : State} (h : execStrandAtomic frame s = .next post) : Cells.wf post.mem.cells = true := by
  unfold execStrandAtomic onRequest at h
  repeat' split at h
  all_goals (injection h with h; subst h; simp (maxDischargeDepth := 20) [serveAtomic_wf .., originateRequest_frame .., hm])

theorem execReadResponse_wf (frame : Frame) (s : State) (hm : Cells.wf s.mem.cells = true) {post : State} (h : execReadResponse frame s = .next post) : Cells.wf post.mem.cells = true := by
  unfold execReadResponse onResponse at h
  repeat' split at h
  all_goals (injection h with h; subst h; simp (maxDischargeDepth := 20) [readEnds_wf, hm])

theorem execWriteResponse_wf (frame : Frame) (s : State) (hm : Cells.wf s.mem.cells = true) {post : State} (h : execWriteResponse frame s = .next post) : Cells.wf post.mem.cells = true := by
  unfold execWriteResponse onResponse at h
  repeat' split at h
  all_goals (injection h with h; subst h; simp (maxDischargeDepth := 20) [endRequest_frame .., endRequest_frame .., hm])

theorem execAtomicResponse_wf (frame : Frame) (s : State) (hm : Cells.wf s.mem.cells = true) {post : State} (h : execAtomicResponse frame s = .next post) : Cells.wf post.mem.cells = true := by
  unfold execAtomicResponse onResponse at h
  split at h
  · injection h with h; subst h; simp +contextual (maxDischargeDepth := 20) [endRequest_frame .., hm]
  · split at h
    all_goals (injection h with h; subst h; simp +contextual (maxDischargeDepth := 20) [endRequest_frame .., hm])

theorem execMessageResponse_wf (frame : Frame) (s : State) (hm : Cells.wf s.mem.cells = true) {post : State} (h : execMessageResponse frame s = .next post) : Cells.wf post.mem.cells = true := by
  unfold execMessageResponse at h
  repeat' split at h
  all_goals (injection h with h; subst h; simp +contextual (maxDischargeDepth := 20) [hm])

theorem execReadResend_wf (seq : Nat) (s : State) (hm : Cells.wf s.mem.cells = true) {post : State} (h : execReadResend seq s = .next post) : Cells.wf post.mem.cells = true := by
  unfold execReadResend at h
  repeat' split at h
  all_goals (injection h with h; subst h; simp +contextual (maxDischargeDepth := 20) [hm])

theorem execStrandGiveUp_wf (seq : Nat) (s : State) (hm : Cells.wf s.mem.cells = true) {post : State} (h : execStrandGiveUp seq s = .next post) : Cells.wf post.mem.cells = true := by
  unfold execStrandGiveUp at h
  dsimp only at h
  repeat' split at h
  all_goals (injection h with h; subst h; simp +contextual (maxDischargeDepth := 20) [endRequest_frame .., hm])

theorem execAtomicResend_wf (seq : Nat) (s : State) (hm : Cells.wf s.mem.cells = true) {post : State} (h : execAtomicResend seq s = .next post) : Cells.wf post.mem.cells = true := by
  unfold execAtomicResend at h
  repeat' split at h
  all_goals (injection h with h; subst h; simp +contextual (maxDischargeDepth := 20) [hm])

theorem execAtomicGiveUp_wf (seq : Nat) (s : State) (hm : Cells.wf s.mem.cells = true) {post : State} (h : execAtomicGiveUp seq s = .next post) : Cells.wf post.mem.cells = true := by
  unfold execAtomicGiveUp at h
  repeat' split at h
  all_goals (injection h with h; subst h; simp +contextual (maxDischargeDepth := 20) [endRequest_frame .., State.bump_frame .., hm])

end Sys2Proof.Machine
end

