-- ==== Sys2Proof/Laws/FrameFabricRows.lean ====
section
/-! SUPPORT. Frames of FabricRows.lean: which units of the state each of its functions leaves as they are. -/

namespace Sys2Proof.Machine

set_option linter.unusedSimpArgs false
set_option linter.unusedVariables false
set_option linter.unusedTactic false
set_option linter.unreachableTactic false
set_option Elab.async false

open Sys2Proof Sys2Proof.Machine

theorem serveMirror_frame (s : State) (m : InMsg) (data : Bytes) : Keeps124 s (serveMirror s m data) := by
  unfold serveMirror
  dsimp only
  repeat' split
  all_goals simp [refuseFrame_frame .., capServe_frame .., answerCap_frame .., respond_frame .., Keeps124]

theorem execMessageSegment_frame (frame : Frame) (s : State) {post : State} (h : execMessageSegment frame s = .next post) : Keeps124 s post := by
  unfold execMessageSegment at h
  repeat' split at h
  all_goals (injection h with h; subst h; simp [serveMirror_frame .., Keeps124])

theorem after_execStrandRead_frame (frame : Frame) (s : State) : Keeps261 s (after (execStrandRead frame s) s) := by
  unfold after
  split
  · rename_i h
    exact execStrandRead_frame _ _ h
  · simp [Keeps261]

theorem after_execStrandWrite_frame (frame : Frame) (s : State) : Keeps260 s (after (execStrandWrite frame s) s) := by
  unfold after
  split
  · rename_i h
    exact execStrandWrite_frame _ _ h
  · simp [Keeps260]

theorem after_execStrandAtomic_frame (frame : Frame) (s : State) : Keeps292 s (after (execStrandAtomic frame s) s) := by
  unfold after
  split
  · rename_i h
    exact execStrandAtomic_frame _ _ h
  · simp [Keeps292]

theorem after_execRegister_frame (frame : Frame) (s : State) : Keeps7 s (after (execRegister frame s) s) := by
  unfold after
  split
  · rename_i h
    exact execRegister_frame _ _ h
  · simp [Keeps7]

theorem after_execUnregister_frame (frame : Frame) (s : State) : Keeps7 s (after (execUnregister frame s) s) := by
  unfold after
  split
  · rename_i h
    exact execUnregister_frame _ _ h
  · simp [Keeps7]

theorem after_execPublish_frame (frame : Frame) (s : State) : Keeps7 s (after (execPublish frame s) s) := by
  unfold after
  split
  · rename_i h
    exact execPublish_frame _ _ h
  · simp [Keeps7]

theorem after_execInvalidate_frame (frame : Frame) (s : State) : Keeps7 s (after (execInvalidate frame s) s) := by
  unfold after
  split
  · rename_i h
    exact execInvalidate_frame _ _ h
  · simp [Keeps7]

theorem after_execMessageSegment_frame (frame : Frame) (s : State) : Keeps124 s (after (execMessageSegment frame s) s) := by
  unfold after
  split
  · rename_i h
    exact execMessageSegment_frame _ _ h
  · simp [Keeps124]

theorem after_execReadResponse_frame (frame : Frame) (s : State) : Keeps261 s (after (execReadResponse frame s) s) := by
  unfold after
  split
  · rename_i h
    exact execReadResponse_frame _ _ h
  · simp [Keeps261]

theorem after_execWriteResponse_frame (frame : Frame) (s : State) : Keeps293 s (after (execWriteResponse frame s) s) := by
  unfold after
  split
  · rename_i h
    exact execWriteResponse_frame _ _ h
  · simp [Keeps293]

theorem after_execAtomicResponse_frame (frame : Frame) (s : State) : Keeps292 s (after (execAtomicResponse frame s) s) := by
  unfold after
  split
  · rename_i h
    exact execAtomicResponse_frame _ _ h
  · simp [Keeps292]

theorem after_execRegisterResponse_frame (frame : Frame) (s : State) : Keeps6 s (after (execRegisterResponse frame s) s) := by
  unfold after
  split
  · rename_i h
    exact execRegisterResponse_frame _ _ h
  · simp [Keeps6]

theorem after_execPublishResponse_frame (frame : Frame) (s : State) : Keeps6 s (after (execPublishResponse frame s) s) := by
  unfold after
  split
  · rename_i h
    exact execPublishResponse_frame _ _ h
  · simp [Keeps6]

theorem after_execInvalidateResponse_frame (frame : Frame) (s : State) : Keeps7 s (after (execInvalidateResponse frame s) s) := by
  unfold after
  split
  · rename_i h
    exact execInvalidateResponse_frame _ _ h
  · simp [Keeps7]

theorem after_execMessageResponse_frame (frame : Frame) (s : State) : Keeps301 s (after (execMessageResponse frame s) s) := by
  unfold after
  split
  · rename_i h
    exact execMessageResponse_frame _ _ h
  · simp [Keeps301]

theorem after_unregister_frame (s : State) (f : Frame) :
    Keeps6 s (after (onResponse Kind.unregister f s fun s r => unregisterEnds s r f.status (f.addr % 2 ^ 48)) s) := by
  unfold after onResponse
  split
  · rename_i h
    split at h
    · injection h with h; subst h; simp [unregisterEnds_frame .., Keeps6]
    · split at h
      all_goals (injection h with h; subst h; simp [unregisterEnds_frame .., Keeps6])
  · simp [unregisterEnds_frame .., Keeps6]

theorem takeFrame_frame (s : State) (f : Frame) : Keeps124 s (takeFrame s f) := by
  have hw : ∀ x y, Keeps6 x y → Keeps124 x y := by simp +contextual [Keeps124, Keeps6]
  unfold takeFrame
  dsimp only
  repeat' apply ite_keeps (R := Keeps124)
  all_goals first
    | (simp [after_execAtomicResponse_frame .., after_execInvalidateResponse_frame .., after_execInvalidate_frame .., after_execMessageResponse_frame .., after_execMessageSegment_frame .., after_execPublishResponse_frame .., after_execPublish_frame .., after_execReadResponse_frame .., after_execRegisterResponse_frame .., after_execRegister_frame .., after_execStrandAtomic_frame .., after_execStrandRead_frame .., after_execStrandWrite_frame .., after_execUnregister_frame .., after_execWriteResponse_frame .., after_unregister_frame .., Keeps124]; done)
    | exact hw _ _ (after_unregister_frame s f)

theorem execFrameReceived_frame (port link : Nat) (frame : Frame) (headerCrc frameCrc : Nat) (fecLost : Bool) (s : State) {post : State} (h : execFrameReceived port link frame headerCrc frameCrc fecLost s = .next post) : Keeps124 s post := by
  unfold execFrameReceived at h
  dsimp only at h
  repeat' split at h
  all_goals (injection h with h; subst h; simp [linkReceive_frame .., stompForward_frame .., forwardFrame_frame .., takeFrame_frame .., returnCredits_frame .., Keeps124])

end Sys2Proof.Machine
end

