-- ==== Sys2Proof/Laws/CellsFabricRows.lean ====
section
/-! SUPPORT. The functions of FabricRows.lean keep the canonical form of the memory's cells. -/

namespace Sys2Proof.Machine

set_option linter.unusedSimpArgs false
set_option linter.unusedVariables false
set_option linter.unusedTactic false
set_option linter.unreachableTactic false
set_option Elab.async false

open Sys2Proof Sys2Proof.Machine

@[simp] theorem serveMirror_wf (s : State) (m : InMsg) (data : Bytes) (hm : Cells.wf s.mem.cells = true) : Cells.wf (serveMirror s m data).mem.cells = true := by
  unfold serveMirror
  dsimp only
  repeat' split
  all_goals simp +contextual (maxDischargeDepth := 20) [refuseFrame_frame .., answerCap_frame .., hm]

theorem execMessageSegment_wf (frame : Frame) (s : State) (hm : Cells.wf s.mem.cells = true) {post : State} (h : execMessageSegment frame s = .next post) : Cells.wf post.mem.cells = true := by
  unfold execMessageSegment at h
  repeat' split at h
  all_goals (injection h with h; subst h; simp +contextual (maxDischargeDepth := 20) [hm])

@[simp] theorem after_execStrandRead_wf (frame : Frame) (s : State) (hm : Cells.wf s.mem.cells = true) : Cells.wf (after (execStrandRead frame s) s).mem.cells = true := by
  unfold after
  split
  · rename_i h
    exact execStrandRead_wf _ _ hm h
  · exact hm

@[simp] theorem after_execStrandWrite_wf (frame : Frame) (s : State) (hm : Cells.wf s.mem.cells = true) : Cells.wf (after (execStrandWrite frame s) s).mem.cells = true := by
  unfold after
  split
  · rename_i h
    exact execStrandWrite_wf _ _ hm h
  · exact hm

@[simp] theorem after_execStrandAtomic_wf (frame : Frame) (s : State) (hm : Cells.wf s.mem.cells = true) : Cells.wf (after (execStrandAtomic frame s) s).mem.cells = true := by
  unfold after
  split
  · rename_i h
    exact execStrandAtomic_wf _ _ hm h
  · exact hm

@[simp] theorem after_execMessageSegment_wf (frame : Frame) (s : State) (hm : Cells.wf s.mem.cells = true) : Cells.wf (after (execMessageSegment frame s) s).mem.cells = true := by
  unfold after
  split
  · rename_i h
    exact execMessageSegment_wf _ _ hm h
  · exact hm

@[simp] theorem after_execAtomicResponse_wf (frame : Frame) (s : State) (hm : Cells.wf s.mem.cells = true) : Cells.wf (after (execAtomicResponse frame s) s).mem.cells = true := by
  unfold after
  split
  · rename_i h
    exact execAtomicResponse_wf _ _ hm h
  · exact hm

@[simp] theorem after_execMessageResponse_wf (frame : Frame) (s : State) (hm : Cells.wf s.mem.cells = true) : Cells.wf (after (execMessageResponse frame s) s).mem.cells = true := by
  unfold after
  split
  · rename_i h
    exact execMessageResponse_wf _ _ hm h
  · exact hm

@[simp] theorem after_unregister_wf (s : State) (f : Frame) (hm : Cells.wf s.mem.cells = true) :
    Cells.wf (after (onResponse Kind.unregister f s fun s r => unregisterEnds s r f.status (f.addr % 2 ^ 48)) s).mem.cells = true := by
  have h := after_unregister_frame s f
  simp_all

@[simp] theorem takeFrame_wf (s : State) (f : Frame) (hm : Cells.wf s.mem.cells = true) : Cells.wf (takeFrame s f).mem.cells = true := by
  unfold takeFrame
  dsimp only
  apply cells_ite (after_wf (fun t h => execStrandRead_wf _ _ hm h) hm)
  apply cells_ite (after_wf (fun t h => execStrandWrite_wf _ _ hm h) hm)
  apply cells_ite (after_wf (fun t h => execStrandAtomic_wf _ _ hm h) hm)
  apply cells_ite (by simp [after_execRegister_frame .., hm])
  apply cells_ite (by simp [after_execUnregister_frame .., hm])
  apply cells_ite (by simp [after_execPublish_frame .., hm])
  apply cells_ite (by simp [after_execInvalidate_frame .., hm])
  apply cells_ite (after_wf (fun t h => execMessageSegment_wf _ _ hm h) hm)
  apply cells_ite (after_wf (fun t h => execReadResponse_wf _ _ hm h) hm)
  apply cells_ite (after_wf (fun t h => execWriteResponse_wf _ _ hm h) hm)
  apply cells_ite (after_wf (fun t h => execAtomicResponse_wf _ _ hm h) hm)
  apply cells_ite (by simp [after_execRegisterResponse_frame .., hm])
  apply cells_ite (after_unregister_wf _ _ hm)
  apply cells_ite (by simp [after_execPublishResponse_frame .., hm])
  apply cells_ite (by simp [after_execInvalidateResponse_frame .., hm])
  apply cells_ite (after_wf (fun t h => execMessageResponse_wf _ _ hm h) hm)
  exact hm

theorem execFrameReceived_wf (port link : Nat) (frame : Frame) (headerCrc frameCrc : Nat) (fecLost : Bool) (s : State) (hm : Cells.wf s.mem.cells = true) {post : State} (h : execFrameReceived port link frame headerCrc frameCrc fecLost s = .next post) : Cells.wf post.mem.cells = true := by
  unfold execFrameReceived at h
  dsimp only at h
  repeat' split at h
  all_goals first
    | (cases h; done)
    | (injection h with h; subst h; simp +contextual (maxDischargeDepth := 20) [linkReceive_frame .., stompForward_frame .., forwardFrame_frame .., returnCredits_frame .., hm])

end Sys2Proof.Machine
end

