-- ==== Sys2Proof/Laws/FrameResetRows.lean ====
section
/-! SUPPORT. Frames of ResetRows.lean: which units of the state each of its functions leaves as they are. -/

namespace Sys2Proof.Machine

set_option linter.unusedSimpArgs false
set_option linter.unusedVariables false
set_option linter.unusedTactic false
set_option linter.unreachableTactic false
set_option Elab.async false

open Sys2Proof Sys2Proof.Machine

theorem powerReset_frame (s : State) : Keeps148 s (powerReset s) := by
  unfold Keeps148 powerReset
  simp [clearAll_frame .., endNeap_frame ..]

theorem execPowerOn_frame (copyA copyB : Bool) (s : State) {post : State} (h : execPowerOn copyA copyB s = .next post) : Keeps148 s post := by
  unfold execPowerOn at h
  repeat' split at h
  all_goals (injection h with h; subst h; simp [powerReset_frame .., Keeps148])

theorem execResetNLow_frame (s : State) {post : State} (h : execResetNLow s = .next post) : Keeps149 s post := by
  unfold execResetNLow at h
  repeat' split at h
  all_goals (injection h with h; subst h; simp [assertReset_frame .., Keeps149])

theorem execResetNRise_frame (s : State) {post : State} (h : execResetNRise s = .next post) : Keeps86 s post := by
  unfold execResetNRise at h
  repeat' split at h
  all_goals (injection h with h; subst h; simp [State.bump_frame .., Keeps86])

theorem execRailUndervoltage_frame (rail : Nat) (s : State) {post : State} (h : execRailUndervoltage rail s = .next post) : Keeps148 s post := by
  unfold execRailUndervoltage at h
  repeat' split at h
  all_goals (injection h with h; subst h; simp [powerReset_frame .., Keeps148])

theorem execClockStop_frame (s : State) {post : State} (h : execClockStop s = .next post) : Keeps148 s post := by
  unfold execClockStop at h
  repeat' split at h
  all_goals (injection h with h; subst h; simp [powerReset_frame .., Keeps148])

theorem execWatchdogExpiry_frame (s : State) {post : State} (h : execWatchdogExpiry s = .next post) : Keeps149 s post := by
  unfold execWatchdogExpiry at h
  repeat' split at h
  all_goals (injection h with h; subst h; simp [assertReset_frame .., Keeps149])

theorem execResetAssert_frame (s : State) {post : State} (h : execResetAssert s = .next post) : Keeps149 s post := by
  unfold execResetAssert at h
  repeat' split at h
  all_goals (injection h with h; subst h; simp [assertReset_frame .., Keeps149])

theorem countReset_frame (s : State) (level : Nat) : Keeps1 s (countReset s level) := by
  unfold Keeps1 countReset
  simp [State.setVal_frame ..]

theorem unquiesce_frame (s : State) (b : Nat) : Keeps4 s (unquiesce s b) := by
  unfold Keeps4 unquiesce
  simp

theorem testBlock_frame (s : State) (b : Nat) : Keeps322 s (testBlock s b) := by
  unfold testBlock
  repeat' split
  all_goals simp [startTest_frame .., unquiesce_frame .., Keeps322]

theorem sampleStraps_frame (s : State) (straps : Nat) : Keeps86 s (sampleStraps s straps) := by
  unfold Keeps86 sampleStraps
  simp [State.setNum_frame ..]

theorem execReleasePoint_frame (straps : Nat) (s : State) {post : State} (h : execReleasePoint straps s = .next post) : Keeps322 s post := by
  unfold execReleasePoint at h
  repeat' split at h
  all_goals (injection h with h; subst h; simp [countReset_frame .., sampleStraps_frame .., testBlock_frame .., State.setVal_frame .., Keeps322])

theorem loseAvs_frame (s : State) : Keeps154 s (loseAvs s) := by
  unfold Keeps154 loseAvs
  simp [State.bump_frame ..]

theorem takeAvs_frame (s : State) (fails : Bool) : Keeps154 s (takeAvs s fails) := by
  unfold Keeps154 takeAvs
  simp [State.setNum_frame .., loseAvs_frame ..]

theorem releaseWork_frame (s : State) (d : Nat) (avsFails : Bool) : Keeps201 s (releaseWork s d avsFails) := by
  unfold releaseWork
  repeat' split
  all_goals simp [takeAvs_frame .., makeOverdue_frame .., startPorts_frame .., bootRom_frame .., applyDue_frame .., Keeps201]

theorem execDomainRelease_frame (avsFails : Bool) (s : State) {post : State} (h : execDomainRelease avsFails s = .next post) : Keeps201 s post := by
  unfold execDomainRelease at h
  repeat' split at h
  all_goals (injection h with h; subst h; simp [releaseWork_frame .., Keeps201])

theorem setAlert_frame (s : State) : Keeps4 s (setAlert s) := by
  unfold Keeps4 setAlert
  simp

theorem thermalReset_frame (s : State) : Keeps149 s (thermalReset s) := by
  unfold thermalReset
  dsimp only
  repeat' split
  all_goals simp [assertReset_frame .., Keeps149]

theorem execJunctionSensorRead_frame (temps : List Nat) (s : State) {post : State} (h : execJunctionSensorRead temps s = .next post) : Keeps149 s post := by
  unfold execJunctionSensorRead at h
  dsimp only at h
  repeat' split at h
  all_goals (injection h with h; subst h; simp [State.setVal_frame .., setAlert_frame .., thermalReset_frame .., Keeps149])

theorem execBlockQuiesced_frame (block : Nat) (s : State) {post : State} (h : execBlockQuiesced block s = .next post) : Keeps4 s post := by
  unfold execBlockQuiesced at h
  repeat' split at h
  all_goals (injection h with h; subst h; simp [Keeps4])

theorem takeQuiesced_frame (s : State) : Keeps156 s (takeQuiesced s) := by
  unfold Keeps156 takeQuiesced
  simp [mapPort_frame .., clearLink_frame ..]

theorem execTapInstruction_frame (tap : Tap) (s : State) {post : State} (h : execTapInstruction tap s = .next post) : Keeps4 s post := by
  unfold execTapInstruction at h
  repeat' split at h
  all_goals (injection h with h; subst h; simp [Keeps4])

end Sys2Proof.Machine
end

