-- ==== Sys2Proof/Laws/CellsResetRows.lean ====
section
/-! SUPPORT. The functions of ResetRows.lean keep the canonical form of the memory's cells. -/

namespace Sys2Proof.Machine

set_option linter.unusedSimpArgs false
set_option linter.unusedVariables false
set_option linter.unusedTactic false
set_option linter.unreachableTactic false
set_option Elab.async false

open Sys2Proof Sys2Proof.Machine

@[simp] theorem powerReset_wf (s : State) (hm : Cells.wf s.mem.cells = true) : Cells.wf (powerReset s).mem.cells = true := by
  unfold powerReset
  simp +contextual (maxDischargeDepth := 20) [endNeap_frame .., hm]

theorem execPowerOn_wf (copyA copyB : Bool) (s : State) (hm : Cells.wf s.mem.cells = true) {post : State} (h : execPowerOn copyA copyB s = .next post) : Cells.wf post.mem.cells = true := by
  unfold execPowerOn at h
  repeat' split at h
  all_goals (injection h with h; subst h; simp +contextual (maxDischargeDepth := 20) [hm])

theorem execResetNLow_wf (s : State) (hm : Cells.wf s.mem.cells = true) {post : State} (h : execResetNLow s = .next post) : Cells.wf post.mem.cells = true := by
  unfold execResetNLow at h
  repeat' split at h
  all_goals (injection h with h; subst h; simp +contextual (maxDischargeDepth := 20) [hm])

theorem execRailUndervoltage_wf (rail : Nat) (s : State) (hm : Cells.wf s.mem.cells = true) {post : State} (h : execRailUndervoltage rail s = .next post) : Cells.wf post.mem.cells = true := by
  unfold execRailUndervoltage at h
  repeat' split at h
  all_goals (injection h with h; subst h; simp +contextual (maxDischargeDepth := 20) [hm])

theorem execClockStop_wf (s : State) (hm : Cells.wf s.mem.cells = true) {post : State} (h : execClockStop s = .next post) : Cells.wf post.mem.cells = true := by
  unfold execClockStop at h
  repeat' split at h
  all_goals (injection h with h; subst h; simp +contextual (maxDischargeDepth := 20) [hm])

theorem execWatchdogExpiry_wf (s : State) (hm : Cells.wf s.mem.cells = true) {post : State} (h : execWatchdogExpiry s = .next post) : Cells.wf post.mem.cells = true := by
  unfold execWatchdogExpiry at h
  repeat' split at h
  all_goals (injection h with h; subst h; simp +contextual (maxDischargeDepth := 20) [hm])

theorem execResetAssert_wf (s : State) (hm : Cells.wf s.mem.cells = true) {post : State} (h : execResetAssert s = .next post) : Cells.wf post.mem.cells = true := by
  unfold execResetAssert at h
  repeat' split at h
  all_goals (injection h with h; subst h; simp +contextual (maxDischargeDepth := 20) [hm])

@[simp] theorem testBlock_wf (s : State) (b : Nat) (hm : Cells.wf s.mem.cells = true) : Cells.wf (testBlock s b).mem.cells = true := by
  unfold testBlock
  repeat' split
  all_goals simp +contextual (maxDischargeDepth := 20) [unquiesce_frame .., hm]

theorem execReleasePoint_wf (straps : Nat) (s : State) (hm : Cells.wf s.mem.cells = true) {post : State} (h : execReleasePoint straps s = .next post) : Cells.wf post.mem.cells = true := by
  unfold execReleasePoint at h
  repeat' split at h
  all_goals (injection h with h; subst h; simp +contextual (maxDischargeDepth := 20) [countReset_frame .., sampleStraps_frame .., State.setVal_frame .., hm])

@[simp] theorem releaseWork_wf (s : State) (d : Nat) (avsFails : Bool) (hm : Cells.wf s.mem.cells = true) : Cells.wf (releaseWork s d avsFails).mem.cells = true := by
  unfold releaseWork
  repeat' split
  all_goals simp +contextual (maxDischargeDepth := 20) [takeAvs_frame .., startPorts_frame .., bootRom_frame .., hm]

theorem execDomainRelease_wf (avsFails : Bool) (s : State) (hm : Cells.wf s.mem.cells = true) {post : State} (h : execDomainRelease avsFails s = .next post) : Cells.wf post.mem.cells = true := by
  unfold execDomainRelease at h
  repeat' split at h
  all_goals (injection h with h; subst h; simp +contextual (maxDischargeDepth := 20) [hm])

@[simp] theorem thermalReset_wf (s : State) (hm : Cells.wf s.mem.cells = true) : Cells.wf (thermalReset s).mem.cells = true := by
  unfold thermalReset
  dsimp only
  repeat' split
  all_goals simp +contextual (maxDischargeDepth := 20) [hm]

theorem execJunctionSensorRead_wf (temps : List Nat) (s : State) (hm : Cells.wf s.mem.cells = true) {post : State} (h : execJunctionSensorRead temps s = .next post) : Cells.wf post.mem.cells = true := by
  unfold execJunctionSensorRead at h
  dsimp only at h
  repeat' split at h
  all_goals (injection h with h; subst h; simp +contextual (maxDischargeDepth := 20) [State.setVal_frame .., setAlert_frame .., hm])

end Sys2Proof.Machine
end

