-- ==== Sys2Proof/Laws/FrameFaultRows.lean ====
section
/-! SUPPORT. Frames of FaultRows.lean: which units of the state each of its functions leaves as they are. -/

namespace Sys2Proof.Machine

set_option linter.unusedSimpArgs false
set_option linter.unusedVariables false
set_option linter.unusedTactic false
set_option linter.unreachableTactic false
set_option Elab.async false

open Sys2Proof Sys2Proof.Machine

theorem execErrorEvent_frame (event : Sys2Proof.ErrorReport) (s : State) {post : State} (h : execErrorEvent event s = .next post) : Keeps111 s post := by
  unfold execErrorEvent at h
  repeat' split at h
  all_goals (injection h with h; subst h; simp [destroyBadKeys_frame .., detect_frame .., Keeps111])

theorem blockTested_frame (s : State) (t : Test) (passed : Bool) : Keeps4 s (blockTested s t passed) := by
  unfold blockTested
  repeat' split
  all_goals simp [unquiesce_frame .., Keeps4]

theorem execSelfTestDone_frame (unit place column : Nat) (passed : Bool) (s : State) {post : State} (h : execSelfTestDone unit place column passed s = .next post) : Keeps111 s post := by
  unfold execSelfTestDone at h
  repeat' split at h
  all_goals (injection h with h; subst h; simp [destroyBadKeys_frame .., blockTested_frame .., endTest_frame .., Keeps111])

@[simp] theorem withoutSpares_pending (s : State) (u place : Nat) (f : State → State) (hf : ∀ s, (f s).pending = s.pending) : (withoutSpares s u place f).pending = s.pending := by
  unfold withoutSpares
  simp [hf]

@[simp] theorem withoutSpares_out (s : State) (u place : Nat) (f : State → State) (hf : ∀ s, (f s).out = s.out) : (withoutSpares s u place f).out = s.out := by
  unfold withoutSpares
  simp [hf]

@[simp] theorem withoutSpares_free (s : State) (u place : Nat) (f : State → State) (hf : ∀ s, (f s).free = s.free) : (withoutSpares s u place f).free = s.free := by
  unfold withoutSpares
  simp [hf]

@[simp] theorem withoutSpares_tide (s : State) (u place : Nat) (f : State → State) (hf : ∀ s, (f s).tide = s.tide) : (withoutSpares s u place f).tide = s.tide := by
  unfold withoutSpares
  simp [hf]

@[simp] theorem withoutSpares_cat (s : State) (u place : Nat) (f : State → State) (hf : ∀ s, (f s).cat = s.cat) : (withoutSpares s u place f).cat = s.cat := by
  unfold withoutSpares
  simp [hf]

@[simp] theorem withoutSpares_cap (s : State) (u place : Nat) (f : State → State) (hf : ∀ s, (f s).cap = s.cap) : (withoutSpares s u place f).cap = s.cap := by
  unfold withoutSpares
  simp [hf]

@[simp] theorem withoutSpares_log (s : State) (u place : Nat) (f : State → State) (hf : ∀ s, (f s).log = s.log) : (withoutSpares s u place f).log = s.log := by
  unfold withoutSpares
  simp [hf]

@[simp] theorem withoutSpares_rst (s : State) (u place : Nat) (f : State → State) (hf : ∀ s, (f s).rst = s.rst) : (withoutSpares s u place f).rst = s.rst := by
  unfold withoutSpares
  simp [hf]

@[simp] theorem withoutSpares_pwr (s : State) (u place : Nat) (f : State → State) (hf : ∀ s, (f s).pwr = s.pwr) : (withoutSpares s u place f).pwr = s.pwr := by
  unfold withoutSpares
  simp [hf]

@[simp] theorem withoutSpares_strand (s : State) (u place : Nat) (f : State → State) (hf : ∀ s, (f s).strand = s.strand) : (withoutSpares s u place f).strand = s.strand := by
  unfold withoutSpares
  simp [hf]

@[simp] theorem withoutSpares_host (s : State) (u place : Nat) (f : State → State) (hf : ∀ s, (f s).host = s.host) : (withoutSpares s u place f).host = s.host := by
  unfold withoutSpares
  simp [hf]

@[simp] theorem withoutSpares_idx (s : State) (u place : Nat) (f : State → State) (hf : ∀ s, (f s).idx = s.idx) : (withoutSpares s u place f).idx = s.idx := by
  unfold withoutSpares
  simp [hf]

@[simp] theorem withoutSpares_qry (s : State) (u place : Nat) (f : State → State) (hf : ∀ s, (f s).qry = s.qry) : (withoutSpares s u place f).qry = s.qry := by
  unfold withoutSpares
  simp [hf]

@[simp] theorem withoutSpares_chg (s : State) (u place : Nat) (f : State → State) (hf : ∀ s, (f s).chg = s.chg) : (withoutSpares s u place f).chg = s.chg := by
  unfold withoutSpares
  simp [hf]

@[simp] theorem withoutSpares_mem (s : State) (u place : Nat) (f : State → State) (hf : ∀ s, (f s).mem = s.mem) : (withoutSpares s u place f).mem = s.mem := by
  unfold withoutSpares
  simp [hf]

@[simp] theorem withoutSpares_key (s : State) (u place : Nat) (f : State → State) (hf : ∀ s, (f s).key = s.key) : (withoutSpares s u place f).key = s.key := by
  unfold withoutSpares
  simp [hf]

@[simp] theorem withoutSpares_coh (s : State) (u place : Nat) (f : State → State) (hf : ∀ s, (f s).coh = s.coh) : (withoutSpares s u place f).coh = s.coh := by
  unfold withoutSpares
  simp [hf]

@[simp] theorem withoutSpares_nb (s : State) (u place : Nat) (f : State → State) (hf : ∀ s, (f s).nb = s.nb) : (withoutSpares s u place f).nb = s.nb := by
  unfold withoutSpares
  simp [hf]

@[simp] theorem withoutSpares_flash (s : State) (u place : Nat) (f : State → State) (hf : ∀ s, (f s).flash = s.flash) : (withoutSpares s u place f).flash = s.flash := by
  unfold withoutSpares
  simp [hf]

@[simp] theorem withoutSpares_gph (s : State) (u place : Nat) (f : State → State) (hf : ∀ s, (f s).gph = s.gph) : (withoutSpares s u place f).gph = s.gph := by
  unfold withoutSpares
  simp [hf]

@[simp] theorem withoutSpares_berth (s : State) (u place : Nat) (f : State → State) (hf : ∀ s, (f s).berth = s.berth) : (withoutSpares s u place f).berth = s.berth := by
  unfold withoutSpares
  simp [hf]

@[simp] theorem withoutSpares_tbl (s : State) (u place : Nat) (f : State → State) (hf : ∀ s, (f s).tbl = s.tbl) : (withoutSpares s u place f).tbl = s.tbl := by
  unfold withoutSpares
  simp [hf]

@[simp] theorem withoutSpares_sec (s : State) (u place : Nat) (f : State → State) (hf : ∀ s, (f s).sec = s.sec) : (withoutSpares s u place f).sec = s.sec := by
  unfold withoutSpares
  simp [hf]

theorem execSelfTestEscalation_frame (unit place : Nat) (s : State) {post : State} (h : execSelfTestEscalation unit place s = .next post) : Keeps157 s post := by
  unfold execSelfTestEscalation at h
  repeat' split at h
  all_goals (injection h with h; subst h; simp [rowPassed_frame .., freeDieBlock_frame .., dropTest_frame .., destroyBadKeys_frame .., State.bump_frame .., noteLasting_frame .., beginNext_frame .., assertReset_frame .., Keeps157])

end Sys2Proof.Machine
end

