-- ==== Sys2Proof/Laws/CellsFaultRows.lean ====
section
/-! SUPPORT. The functions of FaultRows.lean keep the canonical form of the memory's cells. -/

namespace Sys2Proof.Machine

set_option linter.unusedSimpArgs false
set_option linter.unusedVariables false
set_option linter.unusedTactic false
set_option linter.unreachableTactic false
set_option Elab.async false

open Sys2Proof Sys2Proof.Machine

theorem execErrorEvent_wf (event : Sys2Proof.ErrorReport) (s : State) (hm : Cells.wf s.mem.cells = true) {post : State} (h : execErrorEvent event s = .next post) : Cells.wf post.mem.cells = true := by
  unfold execErrorEvent at h
  repeat' split at h
  all_goals (injection h with h; subst h; simp +contextual (maxDischargeDepth := 20) [hm])

theorem execSelfTestDone_wf (unit place column : Nat) (passed : Bool) (s : State) (hm : Cells.wf s.mem.cells = true) {post : State} (h : execSelfTestDone unit place column passed s = .next post) : Cells.wf post.mem.cells = true := by
  unfold execSelfTestDone at h
  repeat' split at h
  all_goals (injection h with h; subst h; simp +contextual (maxDischargeDepth := 20) [blockTested_frame .., hm])

@[simp] theorem withoutSpares_wf (s : State) (u place : Nat) (f : State → State) (hm : Cells.wf s.mem.cells = true) (hf : ∀ s, Cells.wf s.mem.cells = true → Cells.wf (f s).mem.cells = true) : Cells.wf (withoutSpares s u place f).mem.cells = true := by
  unfold withoutSpares
  exact hf _ hm

theorem execSelfTestEscalation_wf (unit place : Nat) (s : State) (hm : Cells.wf s.mem.cells = true) {post : State} (h : execSelfTestEscalation unit place s = .next post) : Cells.wf post.mem.cells = true := by
  unfold execSelfTestEscalation at h
  split at h
  · exact next_wf h hm
  · split at h
    · exact next_wf h hm
    · dsimp only at h
      injection h with h; subst h
      split <;> simp +contextual (maxDischargeDepth := 20) [rowPassed_frame .., freeDieBlock_frame .., dropTest_frame .., State.bump_frame .., hm]

end Sys2Proof.Machine
end

