-- ==== Sys2Proof/Laws/FramePowerRows.lean ====
section
/-! SUPPORT. Frames of PowerRows.lean: which units of the state each of its functions leaves as they are. -/

namespace Sys2Proof.Machine

set_option linter.unusedSimpArgs false
set_option linter.unusedVariables false
set_option linter.unusedTactic false
set_option linter.unreachableTactic false
set_option Elab.async false

open Sys2Proof Sys2Proof.Machine

theorem endFunctionDrain_frame (s : State) (d : Drain) : Keeps301 s (endFunctionDrain s d) := by
  unfold Keeps301 endFunctionDrain
  simp [abortFunction_frame ..]

theorem drainBit_frame (s : State) (bit : Nat) : Keeps301 s (drainBit s bit) := by
  unfold Keeps301 drainBit
  simp [endFunctionDrain_frame .., abortFunction_frame ..]

theorem execDrainLimit_frame (bit : Nat) (s : State) {post : State} (h : execDrainLimit bit s = .next post) : Keeps301 s post := by
  unfold execDrainLimit at h
  repeat' split at h
  all_goals (injection h with h; subst h; simp [drainBit_frame .., Keeps301])

theorem enterNeap_frame (s : State) : Keeps158 s (enterNeap s) := by
  unfold Keeps158 enterNeap
  simp [Coh.dropOutside_frame .., flushCaches_frame .., State.bump_frame ..]

theorem execNeapPowerOff_frame (s : State) {post : State} (h : execNeapPowerOff s = .next post) : Keeps158 s post := by
  unfold execNeapPowerOff at h
  repeat' split at h
  all_goals (injection h with h; subst h; simp [enterNeap_frame .., Keeps158])

theorem execNeapExitDone_frame (s : State) {post : State} (h : execNeapExitDone s = .next post) : Keeps267 s post := by
  unfold execNeapExitDone at h
  repeat' split at h
  all_goals (injection h with h; subst h; simp [serveHeld_frame .., Keeps267])

theorem execSlackEntry_frame (cluster : Nat) (s : State) {post : State} (h : execSlackEntry cluster s = .next post) : Keeps4 s post := by
  unfold execSlackEntry at h
  dsimp only at h
  repeat' split at h
  all_goals (injection h with h; subst h; simp [Keeps4])

theorem lowerClock_frame (s : State) : Keeps178 s (lowerClock s) := by
  unfold Keeps178 lowerClock
  simp [State.drawFree_frame ..]

theorem lowerDuty_frame (s : State) : Keeps159 s (lowerDuty s) := by
  unfold Keeps159 lowerDuty
  simp [State.drawFree_frame .., lowerClock_frame ..]

theorem lowerDistance_frame (s : State) : Keeps159 s (lowerDistance s) := by
  unfold Keeps159 lowerDistance
  simp [State.drawFree_frame .., lowerDuty_frame ..]

theorem throttleDown_frame (s : State) : Keeps159 s (throttleDown s) := by
  unfold Keeps159 throttleDown
  simp [State.drawFree_frame .., lowerDistance_frame ..]

theorem throttleUp_frame (s : State) : Keeps159 s (throttleUp s) := by
  unfold Keeps159 throttleUp
  simp [State.drawFree_frame ..]

theorem execRailCurrentSample_frame (watts : Nat) (amps : List Nat) (s : State) {post : State} (h : execRailCurrentSample watts amps s = .next post) : Keeps160 s post := by
  unfold execRailCurrentSample at h
  repeat' split at h
  all_goals (injection h with h; subst h; simp [State.setVal_frame .., State.setNum_frame .., throttleDown_frame .., throttleUp_frame .., State.bump_frame .., Keeps160])

theorem raiseMargin_frame (s : State) (avsFails : Bool) : Keeps154 s (raiseMargin s avsFails) := by
  unfold Keeps154 raiseMargin
  simp [loseAvs_frame .., State.setNum_frame ..]

theorem noteLowSlack_frame (s : State) (c b : Nat) : Keeps104 s (noteLowSlack s c b) := by
  unfold Keeps104 noteLowSlack
  simp [State.logEvent_frame ..]

theorem execMarginSample_frame (millivolts slack : List Nat) (avsFails : Bool) (s : State) {post : State} (h : execMarginSample millivolts slack avsFails s = .next post) : Keeps161 s post := by
  unfold execMarginSample at h
  repeat' split at h
  all_goals (injection h with h; subst h; simp [State.setVal_frame .., noteLowSlack_frame .., raiseMargin_frame .., Keeps161])

theorem execMarginPeriod_frame (s : State) {post : State} (h : execMarginPeriod s = .next post) : Keeps162 s post := by
  unfold execMarginPeriod at h
  repeat' split at h
  all_goals (injection h with h; subst h; simp [State.setVal_frame .., Keeps162])

theorem pollPower_frame (s : State) (lane v warning alarm : Nat) : Keeps107 s (pollPower s lane v warning alarm) := by
  unfold Keeps107 pollPower
  simp [raiseEvent_frame .., State.logEvent_frame ..]

theorem pollLane_frame (s : State) (x : CmisPort) (lane : Nat) : Keeps107 s (pollLane s x lane) := by
  unfold Keeps107 pollLane
  simp [pollPower_frame .., State.logEvent_frame .., startTest_frame ..]

theorem execCmisPoll_frame (ports : List CmisPort) (s : State) {post : State} (h : execCmisPoll ports s = .next post) : Keeps107 s post := by
  unfold execCmisPoll at h
  repeat' split at h
  all_goals (injection h with h; subst h; simp [State.setVal_frame .., pollLane_frame .., Keeps107])

theorem trngFails_frame (s : State) : Keeps163 s (trngFails s) := by
  unfold Keeps163 trngFails
  simp [State.bump_frame .., State.drawFree_frame .., State.logEvent_frame ..]

theorem execTrngHealthFail_frame (s : State) {post : State} (h : execTrngHealthFail s = .next post) : Keeps163 s post := by
  unfold execTrngHealthFail at h
  repeat' split at h
  all_goals (injection h with h; subst h; simp [trngFails_frame .., Keeps163])

theorem execTrngStartupDone_frame (ok : Bool) (s : State) {post : State} (h : execTrngStartupDone ok s = .next post) : Keeps163 s post := by
  unfold execTrngStartupDone at h
  repeat' split at h
  all_goals (injection h with h; subst h; simp [trngFails_frame .., Keeps163])

theorem endHold_frame (s : State) (p : Nat → Bool) : Keeps37 s (endHold s p) := by
  unfold Keeps37 endHold
  simp

theorem execStragglerHoldExpiry_frame (node : Nat) (s : State) {post : State} (h : execStragglerHoldExpiry node s = .next post) : Keeps37 s post := by
  unfold execStragglerHoldExpiry at h
  repeat' split at h
  all_goals (injection h with h; subst h; simp [endHold_frame .., Keeps37])

end Sys2Proof.Machine
end

