-- ==== Sys2Proof/Laws/CellsPowerRows.lean ====
section
/-! SUPPORT. The functions of PowerRows.lean keep the canonical form of the memory's cells. -/

namespace Sys2Proof.Machine

set_option linter.unusedSimpArgs false
set_option linter.unusedVariables false
set_option linter.unusedTactic false
set_option linter.unreachableTactic false
set_option Elab.async false

open Sys2Proof Sys2Proof.Machine

@[simp] theorem endFunctionDrain_wf (s : State) (d : Drain) (hm : Cells.wf s.mem.cells = true) : Cells.wf (endFunctionDrain s d).mem.cells = true := by
  unfold endFunctionDrain
  simp +contextual (maxDischargeDepth := 20) [hm]

@[simp] theorem drainBit_wf (s : State) (bit : Nat) (hm : Cells.wf s.mem.cells = true) : Cells.wf (drainBit s bit).mem.cells = true := by
  unfold drainBit
  simp +contextual (maxDischargeDepth := 20) [hm]

theorem execDrainLimit_wf (bit : Nat) (s : State) (hm : Cells.wf s.mem.cells = true) {post : State} (h : execDrainLimit bit s = .next post) : Cells.wf post.mem.cells = true := by
  unfold execDrainLimit at h
  repeat' split at h
  all_goals (injection h with h; subst h; simp +contextual (maxDischargeDepth := 20) [hm])

@[simp] theorem enterNeap_wf (s : State) (hm : Cells.wf s.mem.cells = true) : Cells.wf (enterNeap s).mem.cells = true := by
  unfold enterNeap
  simp +contextual (maxDischargeDepth := 20) [Coh.dropOutside_frame .., State.bump_frame .., hm]

theorem execNeapPowerOff_wf (s : State) (hm : Cells.wf s.mem.cells = true) {post : State} (h : execNeapPowerOff s = .next post) : Cells.wf post.mem.cells = true := by
  unfold execNeapPowerOff at h
  repeat' split at h
  all_goals (injection h with h; subst h; simp +contextual (maxDischargeDepth := 20) [hm])

theorem execNeapExitDone_wf (s : State) (hm : Cells.wf s.mem.cells = true) {post : State} (h : execNeapExitDone s = .next post) : Cells.wf post.mem.cells = true := by
  unfold execNeapExitDone at h
  repeat' split at h
  all_goals (injection h with h; subst h; simp +contextual (maxDischargeDepth := 20) [hm])

@[simp] theorem pollPower_wf (s : State) (lane v warning alarm : Nat) (hm : Cells.wf s.mem.cells = true) : Cells.wf (pollPower s lane v warning alarm).mem.cells = true := by
  unfold pollPower
  simp +contextual (maxDischargeDepth := 20) [State.logEvent_frame .., hm]

@[simp] theorem pollLane_wf (s : State) (x : CmisPort) (lane : Nat) (hm : Cells.wf s.mem.cells = true) : Cells.wf (pollLane s x lane).mem.cells = true := by
  unfold pollLane
  simp +contextual (maxDischargeDepth := 20) [hm]

theorem execCmisPoll_wf (ports : List CmisPort) (s : State) (hm : Cells.wf s.mem.cells = true) {post : State} (h : execCmisPoll ports s = .next post) : Cells.wf post.mem.cells = true := by
  unfold execCmisPoll at h
  repeat' split at h
  all_goals (injection h with h; subst h; simp +contextual (maxDischargeDepth := 20) [State.setVal_frame .., hm])

end Sys2Proof.Machine
end

