-- ==== Sys2Proof/Laws/FrameSearchRows.lean ====
section
/-! SUPPORT. Frames of SearchRows.lean: which units of the state each of its functions leaves as they are. -/

namespace Sys2Proof.Machine

set_option linter.unusedSimpArgs false
set_option linter.unusedVariables false
set_option linter.unusedTactic false
set_option linter.unreachableTactic false
set_option Elab.async false

open Sys2Proof Sys2Proof.Machine

theorem execFragmentRequest_frame (_src : Nat) (data : Bytes) (s : State) {post : State} (h : execFragmentRequest _src data s = .next post) : Keeps229 s post := by
  unfold execFragmentRequest at h
  repeat' split at h
  all_goals (injection h with h; subst h; simp [settleRows_frame .., arriveFrag_frame .., Keeps229])

theorem execFragmentReply_frame (src : Nat) (data : Bytes) (s : State) {post : State} (h : execFragmentReply src data s = .next post) : Keeps265 s post := by
  unfold execFragmentReply at h
  repeat' split at h
  all_goals (injection h with h; subst h; simp [arriveReply_frame .., Keeps265])

theorem execFragmentCutoff_frame (frag : Nat) (s : State) {post : State} (h : execFragmentCutoff frag s = .next post) : Keeps265 s post := by
  unfold execFragmentCutoff at h
  repeat' split at h
  all_goals (injection h with h; subst h; simp [cutFrag_frame .., Keeps265])

theorem execFragmentComplete_frame (frag : Nat) (s : State) {post : State} (h : execFragmentComplete frag s = .next post) : Keeps265 s post := by
  unfold execFragmentComplete at h
  repeat' split at h
  all_goals (injection h with h; subst h; simp [endFrag_frame .., Keeps265])

theorem execQueryDeadline_frame (query : Nat) (s : State) {post : State} (h : execQueryDeadline query s = .next post) : Keeps263 s post := by
  unfold execQueryDeadline at h
  repeat' split at h
  all_goals (injection h with h; subst h; simp [completeQuery_frame .., Keeps263])

theorem uncorrectableRead_frame (s : State) (logical : Nat) : Keeps107 s (uncorrectableRead s logical) := by
  unfold uncorrectableRead
  dsimp only
  repeat' split
  all_goals simp [State.bump_frame .., raiseEvent_frame .., Keeps107]

theorem execVerifyReadDone_frame (frag loc : Nat) (s : State) {post : State} (h : execVerifyReadDone frag loc s = .next post) : Keeps229 s post := by
  unfold execVerifyReadDone at h
  repeat' split at h
  all_goals (injection h with h; subst h; simp [verifyDone_frame .., uncorrectableRead_frame .., Keeps229])

end Sys2Proof.Machine
end

