-- ==== Sys2Proof/Laws/CellsSearchRows.lean ====
section
/-! SUPPORT. The functions of SearchRows.lean keep the canonical form of the memory's cells. -/

namespace Sys2Proof.Machine

set_option linter.unusedSimpArgs false
set_option linter.unusedVariables false
set_option linter.unusedTactic false
set_option linter.unreachableTactic false
set_option Elab.async false

open Sys2Proof Sys2Proof.Machine

theorem execFragmentRequest_wf (_src : Nat) (data : Bytes) (s : State) (hm : Cells.wf s.mem.cells = true) {post : State} (h : execFragmentRequest _src data s = .next post) : Cells.wf post.mem.cells = true := by
  unfold execFragmentRequest at h
  repeat' split at h
  all_goals (injection h with h; subst h; simp +contextual (maxDischargeDepth := 20) [hm])

theorem execFragmentReply_wf (src : Nat) (data : Bytes) (s : State) (hm : Cells.wf s.mem.cells = true) {post : State} (h : execFragmentReply src data s = .next post) : Cells.wf post.mem.cells = true := by
  unfold execFragmentReply at h
  repeat' split at h
  all_goals (injection h with h; subst h; simp +contextual (maxDischargeDepth := 20) [hm])

theorem execFragmentCutoff_wf (frag : Nat) (s : State) (hm : Cells.wf s.mem.cells = true) {post : State} (h : execFragmentCutoff frag s = .next post) : Cells.wf post.mem.cells = true := by
  unfold execFragmentCutoff at h
  repeat' split at h
  all_goals (injection h with h; subst h; simp +contextual (maxDischargeDepth := 20) [hm])

theorem execFragmentComplete_wf (frag : Nat) (s : State) (hm : Cells.wf s.mem.cells = true) {post : State} (h : execFragmentComplete frag s = .next post) : Cells.wf post.mem.cells = true := by
  unfold execFragmentComplete at h
  repeat' split at h
  all_goals (injection h with h; subst h; simp +contextual (maxDischargeDepth := 20) [hm])

theorem execQueryDeadline_wf (query : Nat) (s : State) (hm : Cells.wf s.mem.cells = true) {post : State} (h : execQueryDeadline query s = .next post) : Cells.wf post.mem.cells = true := by
  unfold execQueryDeadline at h
  repeat' split at h
  all_goals (injection h with h; subst h; simp +contextual (maxDischargeDepth := 20) [hm])

@[simp] theorem uncorrectableRead_wf (s : State) (logical : Nat) (hm : Cells.wf s.mem.cells = true) : Cells.wf (uncorrectableRead s logical).mem.cells = true := by
  unfold uncorrectableRead
  dsimp only
  repeat' split
  all_goals simp +contextual (maxDischargeDepth := 20) [State.bump_frame .., hm]

theorem execVerifyReadDone_wf (frag loc : Nat) (s : State) (hm : Cells.wf s.mem.cells = true) {post : State} (h : execVerifyReadDone frag loc s = .next post) : Cells.wf post.mem.cells = true := by
  unfold execVerifyReadDone at h
  repeat' split at h
  all_goals (injection h with h; subst h; simp +contextual (maxDischargeDepth := 20) [hm])

end Sys2Proof.Machine
end

