-- ==== Sys2Proof/Laws/FrameBoundary.lean ====
section
/-! SUPPORT. Frames of Boundary.lean: which units of the state each of its functions leaves as they are. -/

namespace Sys2Proof.Machine

set_option linter.unusedSimpArgs false
set_option linter.unusedVariables false
set_option linter.unusedTactic false
set_option linter.unreachableTactic false
set_option Elab.async false

open Sys2Proof Sys2Proof.Machine

theorem commitChanges_frame (s : State) : Keeps276 s (commitChanges s) := by
  unfold commitChanges
  dsimp only
  have hf (l : List Intake) (s : State) : Keeps276 s (l.foldl (fun s i => match i.done with
      | some d => if d.commit ≤ s.now then intakeDone s i d else s
      | none => s) s) := by
    apply foldl_keeps (R := Keeps276)
    · simp [State.bump_frame .., intakeDone_frame .., Keeps276]
    · simp +contextual [State.bump_frame .., intakeDone_frame .., Keeps276]
    · intro s x
      split
      · split <;> simp [State.bump_frame .., intakeDone_frame .., Keeps276]
      · simp [State.bump_frame .., intakeDone_frame .., Keeps276]
  refine ((fun x y z (h1 : Keeps276 x y) (h2 : Keeps276 y z) => by simp_all [State.bump_frame .., intakeDone_frame .., Keeps276]) : ∀ x y z, Keeps276 x y → Keeps276 y z → Keeps276 x z) _ _ _ ?_ (hf _ _)
  simp [State.bump_frame .., intakeDone_frame .., Keeps276]

theorem retireEntries_frame (s : State) : Keeps191 s (retireEntries s) := by
  unfold Keeps191 retireEntries
  simp [State.bump_frame ..]

theorem noteUnreadable_frame (s : State) : Keeps107 s (noteUnreadable s) := by
  unfold noteUnreadable
  apply foldl_keeps (R := Keeps107)
  · simp [uncorrectableRead_frame .., Keeps107]
  · simp +contextual [uncorrectableRead_frame .., Keeps107]
  · intro s x
    try dsimp only
    repeat' split
    all_goals simp [uncorrectableRead_frame .., Keeps107]

theorem commits_frame (s : State) : Keeps217 s (commits s) := by
  unfold Keeps217 commits
  simp [Berth.settleFetches_frame .., Berth.dropExpelled_frame .., Table.atBoundary_frame .., serveFilled_frame .., settleDurable_frame .., commitChanges_frame .., retireEntries_frame .., streamCopy_frame .., noteUnreadable_frame .., Table.endPuts_frame .., Table.installStaged_frame .., Table.commitDue_frame ..]

theorem after_execReplayEntryExpiry_frame (s : State) : Keeps6 s (after (execReplayEntryExpiry s) s) := by
  unfold after
  split
  · rename_i h
    exact execReplayEntryExpiry_frame _ h
  · simp [Keeps6]

theorem after_execAtomicGiveUp_frame (seq : Nat) (s : State) : Keeps292 s (after (execAtomicGiveUp seq s) s) := by
  unfold after
  split
  · rename_i h
    exact execAtomicGiveUp_frame _ _ h
  · simp [Keeps292]

theorem after_execPublishGiveUp_frame (seq : Nat) (s : State) : Keeps7 s (after (execPublishGiveUp seq s) s) := by
  unfold after
  split
  · rename_i h
    exact execPublishGiveUp_frame _ _ h
  · simp [Keeps7]

theorem after_execStrandGiveUp_frame (seq : Nat) (s : State) : Keeps293 s (after (execStrandGiveUp seq s) s) := by
  unfold after
  split
  · rename_i h
    exact execStrandGiveUp_frame _ _ h
  · simp [Keeps293]

theorem after_execLeaseExpiry_frame (berth : Nat) (s : State) : Keeps26 s (after (execLeaseExpiry berth s) s) := by
  unfold after
  split
  · rename_i h
    exact execLeaseExpiry_frame _ _ h
  · simp [Keeps26]

theorem after_execUpkeepWindowClose_frame (s : State) : Keeps187 s (after (execUpkeepWindowClose s) s) := by
  unfold after
  split
  · rename_i h
    exact execUpkeepWindowClose_frame _ h
  · simp [Keeps187]

theorem after_execUpkeepWindowOpen_frame (s : State) : Keeps48 s (after (execUpkeepWindowOpen s) s) := by
  unfold after
  split
  · rename_i h
    exact execUpkeepWindowOpen_frame _ h
  · simp [Keeps48]

theorem after_execHousekeepingWindowClose_frame (s : State) : Keeps12 s (after (execHousekeepingWindowClose s) s) := by
  unfold after
  split
  · rename_i h
    exact execHousekeepingWindowClose_frame _ h
  · simp [Keeps12]

theorem after_execHousekeepingWindowOpen_frame (s : State) : Keeps12 s (after (execHousekeepingWindowOpen s) s) := by
  unfold after
  split
  · rename_i h
    exact execHousekeepingWindowOpen_frame _ h
  · simp [Keeps12]

theorem silentShadows_frame (s : State) : Keeps301 s (silentShadows s) := by
  unfold Keeps301 silentShadows
  simp [messageAnswered_frame ..]

theorem giveUps_frame (s : State) : Keeps301 s (giveUps s) := by
  unfold Keeps301 giveUps
  simp [silentShadows_frame .., after_execAtomicGiveUp_frame .., after_execPublishGiveUp_frame .., after_execStrandGiveUp_frame ..]

theorem expiries_frame (s : State) : Keeps301 s (expiries s) := by
  unfold Keeps301 expiries
  simp [giveUps_frame .., drainBit_frame .., endHold_frame .., endDrain_frame .., after_execLeaseExpiry_frame .., after_execReplayEntryExpiry_frame ..]

theorem windows_frame (s : State) : Keeps199 s (windows s) := by
  unfold Keeps199 windows
  simp [upkeepMoves_frame .., after_execHousekeepingWindowClose_frame .., after_execHousekeepingWindowOpen_frame .., after_execUpkeepWindowClose_frame .., after_execUpkeepWindowOpen_frame ..]

theorem meterUse_frame (s : State) : Keeps165 s (meterUse s) := by
  unfold Keeps165 meterUse
  simp [State.drawFree_frame ..]

theorem delayRecord_frame (s : State) (c sh : Nat) : Keeps2 s (delayRecord s c sh).2 := by
  unfold Keeps2 delayRecord
  simp [State.drawFree_frame ..]

theorem publishDelays_frame (s : State) : Keeps166 s (publishDelays s) := by
  unfold Keeps166 publishDelays
  simp [delayRecord_frame .., State.setVal_frame ..]

theorem markStragglers_frame (s : State) : Keeps167 s (markStragglers s) := by
  unfold Keeps167 markStragglers
  simp [State.bump_frame ..]

theorem endTide_frame (s : State) : Keeps319 s (endTide s) := by
  unfold Keeps319 endTide
  simp [markStragglers_frame .., publishDelays_frame .., meterUse_frame .., State.bump_frame ..]

theorem beginHeld_frame (s : State) : Keeps210 s (beginHeld s) := by
  unfold Keeps210 beginHeld
  simp [settleRows_frame .., resumeFrags_frame .., beginFrag_frame ..]

theorem resumeHost_frame (s : State) : Keeps22 s (resumeHost s) := by
  unfold Keeps22 resumeHost
  simp

theorem releases_frame (s : State) : Keeps218 s (releases s) := by
  unfold Keeps218 releases
  simp [serveHeld_frame .., Berth.retryHeld_frame .., sendDue_frame .., takeQuiesced_frame .., resumeHost_frame .., beginHeld_frame ..]

theorem boundaryWork_frame (s : State) : Keeps220 s (boundaryWork s) := by
  unfold Keeps220 boundaryWork
  simp [makeApplies_frame .., shiftTouch_frame .., publishDigests_frame .., pruneHistory_frame .., writesInForce_frame .., keepMaintained_frame .., releases_frame .., windows_frame .., expiries_frame .., endTide_frame .., promoteShelf_frame .., leavePages_frame .., commits_frame .., after_execReplayEntryExpiry_frame ..]

theorem shiftQueued_frame (s : State) (c : Nat) : Keeps6 s (shiftQueued s c) := by
  unfold Keeps6 shiftQueued
  simp

theorem setCount_frame (s : State) (c ticks : Nat) : Keeps172 s (setCount s c ticks) := by
  unfold Keeps172 setCount
  simp [shiftQueued_frame ..]

theorem boundary_frame (s : State) (c ticks : Nat) (x : Symbol) : Keeps219 s (boundary s c ticks x) := by
  unfold boundary boundary.sendBeacons'
  simp [boundaryWork_frame .., setCount_frame .., State.drivePulse_frame .., State.sendBeacons_frame .., Keeps219]

theorem skipBoundaries_frame (n : Nat) (s : State) : Keeps219 s (skipBoundaries n s) := by
  induction n generalizing s with
  | zero => simp [boundaryWork_frame .., setCount_frame .., skipBoundaries, Keeps219]
  | succ n ih =>
    unfold skipBoundaries
    simp [boundaryWork_frame .., setCount_frame .., Keeps219, ih]

end Sys2Proof.Machine
end

