-- ==== Sys2Proof/Laws/CellsBoundary.lean ====
section
/-! SUPPORT. The functions of Boundary.lean keep the canonical form of the memory's cells. -/

namespace Sys2Proof.Machine

set_option linter.unusedSimpArgs false
set_option linter.unusedVariables false
set_option linter.unusedTactic false
set_option linter.unreachableTactic false
set_option Elab.async false

open Sys2Proof Sys2Proof.Machine

@[simp] theorem commitChanges_wf (s : State) (hm : Cells.wf s.mem.cells = true) : Cells.wf (commitChanges s).mem.cells = true := by
  unfold commitChanges
  dsimp only
  apply foldl_wf
  · intro s x hm
    split
    · split <;> simp [State.bump_frame .., hm]
    · exact hm
  · simp +contextual [State.bump_frame .., hm]

@[simp] theorem noteUnreadable_wf (s : State) (hm : Cells.wf s.mem.cells = true) : Cells.wf (noteUnreadable s).mem.cells = true := by
  unfold noteUnreadable
  apply foldl_wf
  · intro s x hm
    try dsimp only
    repeat' split
    all_goals simp +contextual (maxDischargeDepth := 20) [hm]
  · exact hm

@[simp] theorem commits_wf (s : State) (hm : Cells.wf s.mem.cells = true) : Cells.wf (commits s).mem.cells = true := by
  unfold commits
  simp +contextual (maxDischargeDepth := 20) [serveFilled_frame .., retireEntries_frame .., streamCopy_frame .., hm]

@[simp] theorem after_execAtomicGiveUp_wf (seq : Nat) (s : State) (hm : Cells.wf s.mem.cells = true) : Cells.wf (after (execAtomicGiveUp seq s) s).mem.cells = true := by
  unfold after
  split
  · rename_i h
    exact execAtomicGiveUp_wf _ _ hm h
  · exact hm

@[simp] theorem silentShadows_wf (s : State) (hm : Cells.wf s.mem.cells = true) : Cells.wf (silentShadows s).mem.cells = true := by
  unfold silentShadows
  simp +contextual (maxDischargeDepth := 20) [hm]

@[simp] theorem giveUps_wf (s : State) (hm : Cells.wf s.mem.cells = true) : Cells.wf (giveUps s).mem.cells = true := by
  unfold giveUps
  refine foldl_wf _ _ _ (fun s k hm => ?_) (silentShadows_wf _ hm)
  repeat' split
  · exact after_wf (fun t h => execAtomicGiveUp_wf _ _ hm h) hm
  · simp (maxDischargeDepth := 20) [after_execPublishGiveUp_frame .., hm]
  · exact after_wf (fun t h => execStrandGiveUp_wf _ _ hm h) hm
  · exact hm

@[simp] theorem expiries_wf (s : State) (hm : Cells.wf s.mem.cells = true) : Cells.wf (expiries s).mem.cells = true := by
  unfold expiries
  dsimp only
  generalize hu : List.foldl _ s _ = u
  have h1 : Cells.wf u.mem.cells = true := by
    rw [← hu]
    exact foldl_wf _ _ _ (fun s a h => by simp (maxDischargeDepth := 20) [after_execLeaseExpiry_frame .., after_execReplayEntryExpiry_frame .., endHold_frame .., h]) hm
  generalize ht : List.foldl drainBit _ _ = t
  have h2 : Cells.wf t.mem.cells = true := by
    rw [← ht]
    exact foldl_wf _ _ _ (fun s a h => drainBit_wf _ _ h) (giveUps_wf _ (by simp (maxDischargeDepth := 20) [after_execLeaseExpiry_frame .., after_execReplayEntryExpiry_frame .., endHold_frame .., h1]))
  split <;> simp (maxDischargeDepth := 20) [after_execLeaseExpiry_frame .., after_execReplayEntryExpiry_frame .., endHold_frame .., h2]

@[simp] theorem windows_wf (s : State) (hm : Cells.wf s.mem.cells = true) : Cells.wf (windows s).mem.cells = true := by
  unfold windows
  dsimp only
  generalize hu : upkeepMoves _ = u
  have h0 : Cells.wf (after (execUpkeepWindowClose s) s).mem.cells = true :=
    after_wf (fun t h => execUpkeepWindowClose_wf _ hm h) hm
  have h1 : Cells.wf u.mem.cells = true := by
    rw [← hu]
    exact upkeepMoves_wf _ (by simp (maxDischargeDepth := 20) [after_execUpkeepWindowOpen_frame .., after_execHousekeepingWindowClose_frame .., after_execHousekeepingWindowOpen_frame .., h0])
  simp (maxDischargeDepth := 20) [after_execUpkeepWindowOpen_frame .., after_execHousekeepingWindowClose_frame .., after_execHousekeepingWindowOpen_frame .., h1]

@[simp] theorem beginHeld_wf (s : State) (hm : Cells.wf s.mem.cells = true) : Cells.wf (beginHeld s).mem.cells = true := by
  unfold beginHeld
  simp +contextual (maxDischargeDepth := 20) [hm]

@[simp] theorem releases_wf (s : State) (hm : Cells.wf s.mem.cells = true) : Cells.wf (releases s).mem.cells = true := by
  unfold releases
  simp +contextual (maxDischargeDepth := 20) [takeQuiesced_frame .., resumeHost_frame .., hm]

@[simp] theorem boundaryWork_wf (s : State) (hm : Cells.wf s.mem.cells = true) : Cells.wf (boundaryWork s).mem.cells = true := by
  unfold boundaryWork
  dsimp only
  generalize hu : (ite (State.up _ 5 = true) (shiftTouch _ _) _ : State) = u
  have h1 : Cells.wf u.mem.cells = true := by
    rw [← hu]
    exact cells_ite (by simp [after_execReplayEntryExpiry_frame .., publishDigests_frame .., pruneHistory_frame .., writesInForce_frame .., keepMaintained_frame .., endTide_frame .., makeApplies_wf _ hm]) (makeApplies_wf _ hm)
  split
  · simp (maxDischargeDepth := 20) [after_execReplayEntryExpiry_frame .., publishDigests_frame .., pruneHistory_frame .., writesInForce_frame .., keepMaintained_frame .., endTide_frame .., h1]
  · generalize hv : publishDigests _ = v
    have h2 : Cells.wf v.mem.cells = true := by
      rw [← hv]
      simp (maxDischargeDepth := 20) [after_execReplayEntryExpiry_frame .., publishDigests_frame .., pruneHistory_frame .., writesInForce_frame .., keepMaintained_frame .., endTide_frame .., h1]
    have h3 := promoteShelf_wf _ (leavePages_wf _ (commits_wf v h2))
    generalize promoteShelf _ = w at h3
    have h4 := releases_wf _ (windows_wf _ (expiries_wf (endTide w) (by simpa [after_execReplayEntryExpiry_frame .., publishDigests_frame .., pruneHistory_frame .., writesInForce_frame .., keepMaintained_frame .., endTide_frame ..] using h3)))
    generalize releases _ = z at h4
    have hk : (keepMaintained z).mem = z.mem := by simp [keepMaintained_frame ..]
    generalize keepMaintained z = y at hk ⊢
    rw [hk]
    exact h4

@[simp] theorem boundary_wf (s : State) (c ticks : Nat) (x : Symbol) (hm : Cells.wf s.mem.cells = true) : Cells.wf (boundary s c ticks x).mem.cells = true := by
  unfold boundary boundary.sendBeacons'
  simp [setCount_frame .., State.drivePulse_frame .., State.sendBeacons_frame .., hm]

@[simp] theorem skipBoundaries_wf (n : Nat) (s : State) (hm : Cells.wf s.mem.cells = true) : Cells.wf (skipBoundaries n s).mem.cells = true := by
  induction n generalizing s with
  | zero => simpa [setCount_frame .., skipBoundaries] using hm
  | succ n ih =>
    unfold skipBoundaries
    simp [setCount_frame .., hm, ih]

end Sys2Proof.Machine
end

