-- ==== Sys2Proof/Laws/FrameCapRows.lean ====
section
/-! SUPPORT. Frames of CapRows.lean: which units of the state each of its functions leaves as they are. -/

namespace Sys2Proof.Machine

set_option linter.unusedSimpArgs false
set_option linter.unusedVariables false
set_option linter.unusedTactic false
set_option linter.unreachableTactic false
set_option Elab.async false

open Sys2Proof Sys2Proof.Machine

theorem capRow_frame (s : State) (k : CapKind) (r : CapReq) : Keeps124 s (capRow s k r) := by
  unfold Keeps124 capRow
  simp [handleCap_frame ..]

theorem execCollectionIdWrite_frame (req : CapReq) (s : State) {post : State} (h : execCollectionIdWrite req s = .next post) : Keeps124 s post := by
  unfold execCollectionIdWrite at h
  repeat' split at h
  all_goals (injection h with h; subst h; simp [capRow_frame .., Keeps124])

theorem execCollectionOpen_frame (req : CapReq) (s : State) {post : State} (h : execCollectionOpen req s = .next post) : Keeps124 s post := by
  unfold execCollectionOpen at h
  repeat' split at h
  all_goals (injection h with h; subst h; simp [capRow_frame .., Keeps124])

theorem execCollectionClose_frame (req : CapReq) (s : State) {post : State} (h : execCollectionClose req s = .next post) : Keeps124 s post := by
  unfold execCollectionClose at h
  repeat' split at h
  all_goals (injection h with h; subst h; simp [capRow_frame .., Keeps124])

theorem execShoalMapWrite_frame (req : CapReq) (s : State) {post : State} (h : execShoalMapWrite req s = .next post) : Keeps124 s post := by
  unfold execShoalMapWrite at h
  repeat' split at h
  all_goals (injection h with h; subst h; simp [capRow_frame .., Keeps124])

theorem execTableIdWrite_frame (req : CapReq) (s : State) {post : State} (h : execTableIdWrite req s = .next post) : Keeps124 s post := by
  unfold execTableIdWrite at h
  repeat' split at h
  all_goals (injection h with h; subst h; simp [capRow_frame .., Keeps124])

theorem execTableOpen_frame (req : CapReq) (s : State) {post : State} (h : execTableOpen req s = .next post) : Keeps124 s post := by
  unfold execTableOpen at h
  repeat' split at h
  all_goals (injection h with h; subst h; simp [capRow_frame .., Keeps124])

theorem execTableClose_frame (req : CapReq) (s : State) {post : State} (h : execTableClose req s = .next post) : Keeps124 s post := by
  unfold execTableClose at h
  repeat' split at h
  all_goals (injection h with h; subst h; simp [capRow_frame .., Keeps124])

theorem execCapRead_frame (req : CapReq) (s : State) {post : State} (h : execCapRead req s = .next post) : Keeps124 s post := by
  unfold execCapRead at h
  repeat' split at h
  all_goals (injection h with h; subst h; simp [capRow_frame .., Keeps124])

theorem execCapReadPending_frame (req : CapReq) (s : State) {post : State} (h : execCapReadPending req s = .next post) : Keeps124 s post := by
  unfold execCapReadPending at h
  repeat' split at h
  all_goals (injection h with h; subst h; simp [capRow_frame .., Keeps124])

theorem execCapWrite_frame (req : CapReq) (s : State) {post : State} (h : execCapWrite req s = .next post) : Keeps124 s post := by
  unfold execCapWrite at h
  repeat' split at h
  all_goals (injection h with h; subst h; simp [capRow_frame .., Keeps124])

theorem execLock_frame (req : CapReq) (s : State) {post : State} (h : execLock req s = .next post) : Keeps124 s post := by
  unfold execLock at h
  repeat' split at h
  all_goals (injection h with h; subst h; simp [capRow_frame .., Keeps124])

theorem execLockForce_frame (req : CapReq) (s : State) {post : State} (h : execLockForce req s = .next post) : Keeps124 s post := by
  unfold execLockForce at h
  repeat' split at h
  all_goals (injection h with h; subst h; simp [capRow_frame .., Keeps124])

theorem execUnlock_frame (req : CapReq) (s : State) {post : State} (h : execUnlock req s = .next post) : Keeps124 s post := by
  unfold execUnlock at h
  repeat' split at h
  all_goals (injection h with h; subst h; simp [capRow_frame .., Keeps124])

theorem execDescribe_frame (req : CapReq) (s : State) {post : State} (h : execDescribe req s = .next post) : Keeps124 s post := by
  unfold execDescribe at h
  repeat' split at h
  all_goals (injection h with h; subst h; simp [capRow_frame .., Keeps124])

theorem execLockExpiry_frame (s : State) {post : State} (h : execLockExpiry s = .next post) : Keeps121 s post := by
  unfold execLockExpiry at h
  repeat' split at h
  all_goals (injection h with h; subst h; simp [expireLock_frame .., Keeps121])

theorem execSnapshotExpiry_frame (s : State) {post : State} (h : execSnapshotExpiry s = .next post) : Keeps120 s post := by
  unfold execSnapshotExpiry at h
  repeat' split at h
  all_goals (injection h with h; subst h; simp [expireSnapshots_frame .., Keeps120])

theorem execProvenanceNonceWrite_frame (req : CapReq) (s : State) {post : State} (h : execProvenanceNonceWrite req s = .next post) : Keeps124 s post := by
  unfold execProvenanceNonceWrite at h
  repeat' split at h
  all_goals (injection h with h; subst h; simp [capRow_frame .., Keeps124])

theorem execProvenanceRecordRead_frame (req : CapReq) (s : State) {post : State} (h : execProvenanceRecordRead req s = .next post) : Keeps124 s post := by
  unfold execProvenanceRecordRead at h
  repeat' split at h
  all_goals (injection h with h; subst h; simp [capRow_frame .., Keeps124])

theorem execEventRecordsRead_frame (req : CapReq) (s : State) {post : State} (h : execEventRecordsRead req s = .next post) : Keeps124 s post := by
  unfold execEventRecordsRead at h
  repeat' split at h
  all_goals (injection h with h; subst h; simp [capRow_frame .., Keeps124])

theorem execCreateKey_frame (req : CapReq) (s : State) {post : State} (h : execCreateKey req s = .next post) : Keeps124 s post := by
  unfold execCreateKey at h
  repeat' split at h
  all_goals (injection h with h; subst h; simp [capRow_frame .., Keeps124])

theorem execDestroy_frame (req : CapReq) (s : State) {post : State} (h : execDestroy req s = .next post) : Keeps124 s post := by
  unfold execDestroy at h
  repeat' split at h
  all_goals (injection h with h; subst h; simp [capRow_frame .., Keeps124])

theorem execRegisterGraphKey_frame (req : CapReq) (s : State) {post : State} (h : execRegisterGraphKey req s = .next post) : Keeps124 s post := by
  unfold execRegisterGraphKey at h
  repeat' split at h
  all_goals (injection h with h; subst h; simp [capRow_frame .., Keeps124])

theorem execRemoveGraphKey_frame (req : CapReq) (s : State) {post : State} (h : execRemoveGraphKey req s = .next post) : Keeps124 s post := by
  unfold execRemoveGraphKey at h
  repeat' split at h
  all_goals (injection h with h; subst h; simp [capRow_frame .., Keeps124])

theorem execFence_frame (req : CapReq) (s : State) {post : State} (h : execFence req s = .next post) : Keeps124 s post := by
  unfold execFence at h
  repeat' split at h
  all_goals (injection h with h; subst h; simp [capRow_frame .., Keeps124])

theorem execUnfence_frame (req : CapReq) (s : State) {post : State} (h : execUnfence req s = .next post) : Keeps124 s post := by
  unfold execUnfence at h
  repeat' split at h
  all_goals (injection h with h; subst h; simp [capRow_frame .., Keeps124])

theorem execExpel_frame (req : CapReq) (s : State) {post : State} (h : execExpel req s = .next post) : Keeps124 s post := by
  unfold execExpel at h
  repeat' split at h
  all_goals (injection h with h; subst h; simp [capRow_frame .., Keeps124])

theorem execReinstate_frame (req : CapReq) (s : State) {post : State} (h : execReinstate req s = .next post) : Keeps124 s post := by
  unfold execReinstate at h
  repeat' split at h
  all_goals (injection h with h; subst h; simp [capRow_frame .., Keeps124])

theorem execSetFaultKeys_frame (req : CapReq) (s : State) {post : State} (h : execSetFaultKeys req s = .next post) : Keeps124 s post := by
  unfold execSetFaultKeys at h
  repeat' split at h
  all_goals (injection h with h; subst h; simp [capRow_frame .., Keeps124])

theorem execSignedCommandEffect_frame (s : State) {post : State} (h : execSignedCommandEffect s = .next post) : Keeps218 s post := by
  unfold execSignedCommandEffect at h
  repeat' split at h
  all_goals (injection h with h; subst h; simp [signedEffects_frame .., Keeps218])

theorem execFaultKeysWrite_frame (req : CapReq) (s : State) {post : State} (h : execFaultKeysWrite req s = .next post) : Keeps124 s post := by
  unfold execFaultKeysWrite at h
  repeat' split at h
  all_goals (injection h with h; subst h; simp [capRow_frame .., Keeps124])

theorem execColdResetRequest_frame (req : CapReq) (s : State) {post : State} (h : execColdResetRequest req s = .next post) : Keeps124 s post := by
  unfold execColdResetRequest at h
  repeat' split at h
  all_goals (injection h with h; subst h; simp [capRow_frame .., Keeps124])

theorem execWarmResetRequest_frame (req : CapReq) (s : State) {post : State} (h : execWarmResetRequest req s = .next post) : Keeps124 s post := by
  unfold execWarmResetRequest at h
  repeat' split at h
  all_goals (injection h with h; subst h; simp [capRow_frame .., Keeps124])

theorem execDomainResetRequest_frame (req : CapReq) (s : State) {post : State} (h : execDomainResetRequest req s = .next post) : Keeps124 s post := by
  unfold execDomainResetRequest at h
  repeat' split at h
  all_goals (injection h with h; subst h; simp [capRow_frame .., Keeps124])

theorem execBlockResetRequest_frame (req : CapReq) (s : State) {post : State} (h : execBlockResetRequest req s = .next post) : Keeps124 s post := by
  unfold execBlockResetRequest at h
  repeat' split at h
  all_goals (injection h with h; subst h; simp [capRow_frame .., Keeps124])

theorem execBlockQuiesce_frame (req : CapReq) (s : State) {post : State} (h : execBlockQuiesce req s = .next post) : Keeps124 s post := by
  unfold execBlockQuiesce at h
  repeat' split at h
  all_goals (injection h with h; subst h; simp [capRow_frame .., Keeps124])

theorem execFunctionDisable_frame (req : CapReq) (s : State) {post : State} (h : execFunctionDisable req s = .next post) : Keeps124 s post := by
  unfold execFunctionDisable at h
  repeat' split at h
  all_goals (injection h with h; subst h; simp [capRow_frame .., Keeps124])

theorem execFunctionEnable_frame (req : CapReq) (s : State) {post : State} (h : execFunctionEnable req s = .next post) : Keeps124 s post := by
  unfold execFunctionEnable at h
  repeat' split at h
  all_goals (injection h with h; subst h; simp [capRow_frame .., Keeps124])

theorem execNeapRequest_frame (req : CapReq) (s : State) {post : State} (h : execNeapRequest req s = .next post) : Keeps124 s post := by
  unfold execNeapRequest at h
  repeat' split at h
  all_goals (injection h with h; subst h; simp [capRow_frame .., Keeps124])

theorem execActiveRequest_frame (req : CapReq) (s : State) {post : State} (h : execActiveRequest req s = .next post) : Keeps124 s post := by
  unfold execActiveRequest at h
  repeat' split at h
  all_goals (injection h with h; subst h; simp [capRow_frame .., Keeps124])

theorem execSelfTestRequest_frame (req : CapReq) (s : State) {post : State} (h : execSelfTestRequest req s = .next post) : Keeps124 s post := by
  unfold execSelfTestRequest at h
  repeat' split at h
  all_goals (injection h with h; subst h; simp [capRow_frame .., Keeps124])

end Sys2Proof.Machine
end

