-- ==== Sys2Proof/Laws/CellsCapRows.lean ====
section
/-! SUPPORT. The functions of CapRows.lean keep the canonical form of the memory's cells. -/

namespace Sys2Proof.Machine

set_option linter.unusedSimpArgs false
set_option linter.unusedVariables false
set_option linter.unusedTactic false
set_option linter.unreachableTactic false
set_option Elab.async false

open Sys2Proof Sys2Proof.Machine

@[simp] theorem capRow_wf (s : State) (k : CapKind) (r : CapReq) (hm : Cells.wf s.mem.cells = true) : Cells.wf (capRow s k r).mem.cells = true := by
  unfold capRow
  simp +contextual (maxDischargeDepth := 20) [hm]

theorem execCollectionIdWrite_wf (req : CapReq) (s : State) (hm : Cells.wf s.mem.cells = true) {post : State} (h : execCollectionIdWrite req s = .next post) : Cells.wf post.mem.cells = true := by
  unfold execCollectionIdWrite at h
  repeat' split at h
  all_goals (injection h with h; subst h; simp +contextual (maxDischargeDepth := 20) [hm])

theorem execCollectionOpen_wf (req : CapReq) (s : State) (hm : Cells.wf s.mem.cells = true) {post : State} (h : execCollectionOpen req s = .next post) : Cells.wf post.mem.cells = true := by
  unfold execCollectionOpen at h
  repeat' split at h
  all_goals (injection h with h; subst h; simp +contextual (maxDischargeDepth := 20) [hm])

theorem execCollectionClose_wf (req : CapReq) (s : State) (hm : Cells.wf s.mem.cells = true) {post : State} (h : execCollectionClose req s = .next post) : Cells.wf post.mem.cells = true := by
  unfold execCollectionClose at h
  repeat' split at h
  all_goals (injection h with h; subst h; simp +contextual (maxDischargeDepth := 20) [hm])

theorem execShoalMapWrite_wf (req : CapReq) (s : State) (hm : Cells.wf s.mem.cells = true) {post : State} (h : execShoalMapWrite req s = .next post) : Cells.wf post.mem.cells = true := by
  unfold execShoalMapWrite at h
  repeat' split at h
  all_goals (injection h with h; subst h; simp +contextual (maxDischargeDepth := 20) [hm])

theorem execTableIdWrite_wf (req : CapReq) (s : State) (hm : Cells.wf s.mem.cells = true) {post : State} (h : execTableIdWrite req s = .next post) : Cells.wf post.mem.cells = true := by
  unfold execTableIdWrite at h
  repeat' split at h
  all_goals (injection h with h; subst h; simp +contextual (maxDischargeDepth := 20) [hm])

theorem execTableOpen_wf (req : CapReq) (s : State) (hm : Cells.wf s.mem.cells = true) {post : State} (h : execTableOpen req s = .next post) : Cells.wf post.mem.cells = true := by
  unfold execTableOpen at h
  repeat' split at h
  all_goals (injection h with h; subst h; simp +contextual (maxDischargeDepth := 20) [hm])

theorem execTableClose_wf (req : CapReq) (s : State) (hm : Cells.wf s.mem.cells = true) {post : State} (h : execTableClose req s = .next post) : Cells.wf post.mem.cells = true := by
  unfold execTableClose at h
  repeat' split at h
  all_goals (injection h with h; subst h; simp +contextual (maxDischargeDepth := 20) [hm])

theorem execCapRead_wf (req : CapReq) (s : State) (hm : Cells.wf s.mem.cells = true) {post : State} (h : execCapRead req s = .next post) : Cells.wf post.mem.cells = true := by
  unfold execCapRead at h
  repeat' split at h
  all_goals (injection h with h; subst h; simp +contextual (maxDischargeDepth := 20) [hm])

theorem execCapReadPending_wf (req : CapReq) (s : State) (hm : Cells.wf s.mem.cells = true) {post : State} (h : execCapReadPending req s = .next post) : Cells.wf post.mem.cells = true := by
  unfold execCapReadPending at h
  repeat' split at h
  all_goals (injection h with h; subst h; simp +contextual (maxDischargeDepth := 20) [hm])

theorem execCapWrite_wf (req : CapReq) (s : State) (hm : Cells.wf s.mem.cells = true) {post : State} (h : execCapWrite req s = .next post) : Cells.wf post.mem.cells = true := by
  unfold execCapWrite at h
  repeat' split at h
  all_goals (injection h with h; subst h; simp +contextual (maxDischargeDepth := 20) [hm])

theorem execLock_wf (req : CapReq) (s : State) (hm : Cells.wf s.mem.cells = true) {post : State} (h : execLock req s = .next post) : Cells.wf post.mem.cells = true := by
  unfold execLock at h
  repeat' split at h
  all_goals (injection h with h; subst h; simp +contextual (maxDischargeDepth := 20) [hm])

theorem execLockForce_wf (req : CapReq) (s : State) (hm : Cells.wf s.mem.cells = true) {post : State} (h : execLockForce req s = .next post) : Cells.wf post.mem.cells = true := by
  unfold execLockForce at h
  repeat' split at h
  all_goals (injection h with h; subst h; simp +contextual (maxDischargeDepth := 20) [hm])

theorem execUnlock_wf (req : CapReq) (s : State) (hm : Cells.wf s.mem.cells = true) {post : State} (h : execUnlock req s = .next post) : Cells.wf post.mem.cells = true := by
  unfold execUnlock at h
  repeat' split at h
  all_goals (injection h with h; subst h; simp +contextual (maxDischargeDepth := 20) [hm])

theorem execDescribe_wf (req : CapReq) (s : State) (hm : Cells.wf s.mem.cells = true) {post : State} (h : execDescribe req s = .next post) : Cells.wf post.mem.cells = true := by
  unfold execDescribe at h
  repeat' split at h
  all_goals (injection h with h; subst h; simp +contextual (maxDischargeDepth := 20) [hm])

theorem execProvenanceNonceWrite_wf (req : CapReq) (s : State) (hm : Cells.wf s.mem.cells = true) {post : State} (h : execProvenanceNonceWrite req s = .next post) : Cells.wf post.mem.cells = true := by
  unfold execProvenanceNonceWrite at h
  repeat' split at h
  all_goals (injection h with h; subst h; simp +contextual (maxDischargeDepth := 20) [hm])

theorem execProvenanceRecordRead_wf (req : CapReq) (s : State) (hm : Cells.wf s.mem.cells = true) {post : State} (h : execProvenanceRecordRead req s = .next post) : Cells.wf post.mem.cells = true := by
  unfold execProvenanceRecordRead at h
  repeat' split at h
  all_goals (injection h with h; subst h; simp +contextual (maxDischargeDepth := 20) [hm])

theorem execEventRecordsRead_wf (req : CapReq) (s : State) (hm : Cells.wf s.mem.cells = true) {post : State} (h : execEventRecordsRead req s = .next post) : Cells.wf post.mem.cells = true := by
  unfold execEventRecordsRead at h
  repeat' split at h
  all_goals (injection h with h; subst h; simp +contextual (maxDischargeDepth := 20) [hm])

theorem execCreateKey_wf (req : CapReq) (s : State) (hm : Cells.wf s.mem.cells = true) {post : State} (h : execCreateKey req s = .next post) : Cells.wf post.mem.cells = true := by
  unfold execCreateKey at h
  repeat' split at h
  all_goals (injection h with h; subst h; simp +contextual (maxDischargeDepth := 20) [hm])

theorem execDestroy_wf (req : CapReq) (s : State) (hm : Cells.wf s.mem.cells = true) {post : State} (h : execDestroy req s = .next post) : Cells.wf post.mem.cells = true := by
  unfold execDestroy at h
  repeat' split at h
  all_goals (injection h with h; subst h; simp +contextual (maxDischargeDepth := 20) [hm])

theorem execRegisterGraphKey_wf (req : CapReq) (s : State) (hm : Cells.wf s.mem.cells = true) {post : State} (h : execRegisterGraphKey req s = .next post) : Cells.wf post.mem.cells = true := by
  unfold execRegisterGraphKey at h
  repeat' split at h
  all_goals (injection h with h; subst h; simp +contextual (maxDischargeDepth := 20) [hm])

theorem execRemoveGraphKey_wf (req : CapReq) (s : State) (hm : Cells.wf s.mem.cells = true) {post : State} (h : execRemoveGraphKey req s = .next post) : Cells.wf post.mem.cells = true := by
  unfold execRemoveGraphKey at h
  repeat' split at h
  all_goals (injection h with h; subst h; simp +contextual (maxDischargeDepth := 20) [hm])

theorem execFence_wf (req : CapReq) (s : State) (hm : Cells.wf s.mem.cells = true) {post : State} (h : execFence req s = .next post) : Cells.wf post.mem.cells = true := by
  unfold execFence at h
  repeat' split at h
  all_goals (injection h with h; subst h; simp +contextual (maxDischargeDepth := 20) [hm])

theorem execUnfence_wf (req : CapReq) (s : State) (hm : Cells.wf s.mem.cells = true) {post : State} (h : execUnfence req s = .next post) : Cells.wf post.mem.cells = true := by
  unfold execUnfence at h
  repeat' split at h
  all_goals (injection h with h; subst h; simp +contextual (maxDischargeDepth := 20) [hm])

theorem execExpel_wf (req : CapReq) (s : State) (hm : Cells.wf s.mem.cells = true) {post : State} (h : execExpel req s = .next post) : Cells.wf post.mem.cells = true := by
  unfold execExpel at h
  repeat' split at h
  all_goals (injection h with h; subst h; simp +contextual (maxDischargeDepth := 20) [hm])

theorem execReinstate_wf (req : CapReq) (s : State) (hm : Cells.wf s.mem.cells = true) {post : State} (h : execReinstate req s = .next post) : Cells.wf post.mem.cells = true := by
  unfold execReinstate at h
  repeat' split at h
  all_goals (injection h with h; subst h; simp +contextual (maxDischargeDepth := 20) [hm])

theorem execSetFaultKeys_wf (req : CapReq) (s : State) (hm : Cells.wf s.mem.cells = true) {post : State} (h : execSetFaultKeys req s = .next post) : Cells.wf post.mem.cells = true := by
  unfold execSetFaultKeys at h
  repeat' split at h
  all_goals (injection h with h; subst h; simp +contextual (maxDischargeDepth := 20) [hm])

theorem execSignedCommandEffect_wf (s : State) (hm : Cells.wf s.mem.cells = true) {post : State} (h : execSignedCommandEffect s = .next post) : Cells.wf post.mem.cells = true := by
  unfold execSignedCommandEffect at h
  repeat' split at h
  all_goals (injection h with h; subst h; simp +contextual (maxDischargeDepth := 20) [hm])

theorem execFaultKeysWrite_wf (req : CapReq) (s : State) (hm : Cells.wf s.mem.cells = true) {post : State} (h : execFaultKeysWrite req s = .next post) : Cells.wf post.mem.cells = true := by
  unfold execFaultKeysWrite at h
  repeat' split at h
  all_goals (injection h with h; subst h; simp +contextual (maxDischargeDepth := 20) [hm])

theorem execColdResetRequest_wf (req : CapReq) (s : State) (hm : Cells.wf s.mem.cells = true) {post : State} (h : execColdResetRequest req s = .next post) : Cells.wf post.mem.cells = true := by
  unfold execColdResetRequest at h
  repeat' split at h
  all_goals (injection h with h; subst h; simp +contextual (maxDischargeDepth := 20) [hm])

theorem execWarmResetRequest_wf (req : CapReq) (s : State) (hm : Cells.wf s.mem.cells = true) {post : State} (h : execWarmResetRequest req s = .next post) : Cells.wf post.mem.cells = true := by
  unfold execWarmResetRequest at h
  repeat' split at h
  all_goals (injection h with h; subst h; simp +contextual (maxDischargeDepth := 20) [hm])

theorem execDomainResetRequest_wf (req : CapReq) (s : State) (hm : Cells.wf s.mem.cells = true) {post : State} (h : execDomainResetRequest req s = .next post) : Cells.wf post.mem.cells = true := by
  unfold execDomainResetRequest at h
  repeat' split at h
  all_goals (injection h with h; subst h; simp +contextual (maxDischargeDepth := 20) [hm])

theorem execBlockResetRequest_wf (req : CapReq) (s : State) (hm : Cells.wf s.mem.cells = true) {post : State} (h : execBlockResetRequest req s = .next post) : Cells.wf post.mem.cells = true := by
  unfold execBlockResetRequest at h
  repeat' split at h
  all_goals (injection h with h; subst h; simp +contextual (maxDischargeDepth := 20) [hm])

theorem execBlockQuiesce_wf (req : CapReq) (s : State) (hm : Cells.wf s.mem.cells = true) {post : State} (h : execBlockQuiesce req s = .next post) : Cells.wf post.mem.cells = true := by
  unfold execBlockQuiesce at h
  repeat' split at h
  all_goals (injection h with h; subst h; simp +contextual (maxDischargeDepth := 20) [hm])

theorem execFunctionDisable_wf (req : CapReq) (s : State) (hm : Cells.wf s.mem.cells = true) {post : State} (h : execFunctionDisable req s = .next post) : Cells.wf post.mem.cells = true := by
  unfold execFunctionDisable at h
  repeat' split at h
  all_goals (injection h with h; subst h; simp +contextual (maxDischargeDepth := 20) [hm])

theorem execFunctionEnable_wf (req : CapReq) (s : State) (hm : Cells.wf s.mem.cells = true) {post : State} (h : execFunctionEnable req s = .next post) : Cells.wf post.mem.cells = true := by
  unfold execFunctionEnable at h
  repeat' split at h
  all_goals (injection h with h; subst h; simp +contextual (maxDischargeDepth := 20) [hm])

theorem execNeapRequest_wf (req : CapReq) (s : State) (hm : Cells.wf s.mem.cells = true) {post : State} (h : execNeapRequest req s = .next post) : Cells.wf post.mem.cells = true := by
  unfold execNeapRequest at h
  repeat' split at h
  all_goals (injection h with h; subst h; simp +contextual (maxDischargeDepth := 20) [hm])

theorem execActiveRequest_wf (req : CapReq) (s : State) (hm : Cells.wf s.mem.cells = true) {post : State} (h : execActiveRequest req s = .next post) : Cells.wf post.mem.cells = true := by
  unfold execActiveRequest at h
  repeat' split at h
  all_goals (injection h with h; subst h; simp +contextual (maxDischargeDepth := 20) [hm])

theorem execSelfTestRequest_wf (req : CapReq) (s : State) (hm : Cells.wf s.mem.cells = true) {post : State} (h : execSelfTestRequest req s = .next post) : Cells.wf post.mem.cells = true := by
  unfold execSelfTestRequest at h
  repeat' split at h
  all_goals (injection h with h; subst h; simp +contextual (maxDischargeDepth := 20) [hm])

end Sys2Proof.Machine
end

