-- ==== Sys2Proof/Laws/FrameQueryRows.lean ====
section
/-! SUPPORT. Frames of QueryRows.lean: which units of the state each of its functions leaves as they are. -/

namespace Sys2Proof.Machine

set_option linter.unusedSimpArgs false
set_option linter.unusedVariables false
set_option linter.unusedTactic false
set_option linter.unreachableTactic false
set_option Elab.async false

open Sys2Proof Sys2Proof.Num Sys2Proof.Machine

theorem execQuery_frame (cmd : Nat) (input filter : HostRead) (s : State) {post : State} (h : execQuery cmd input filter s = .next post) : Keeps298 s post := by
  have tr : ∀ x y z, Keeps298 x y → Keeps298 y z → Keeps298 x z := by simp +contextual [Keeps298]
  unfold execQuery at h
  split at h
  · injection h with h; subst h; simp [Keeps298]
  · split at h
    · injection h with h; subst h; simp [Keeps298]
    · dsimp only at h
      generalize readInput s _ _ filter = f at h
      split at h
      · injection h with h; subst h; simp [State.finish_frame .., Keeps298]
      · generalize (ite (bit (field _ 1 1) 0 = true) (field _ 12 4) (queryInputBytes _ _)) = n at h
        generalize readInput s _ n input = v at h
        split at h
        · injection h with h; subst h; simp [holdInputs_frame .., Keeps298]
        · split at h
          · injection h with h; subst h; simp [State.refuse_frame .., touchInput_frame .., Keeps298]
          · generalize hs : ({ startCmd _ cmd with qry := _ } : State) = u at h
            split at h
            · injection h with h; subst h; subst hs; simp [Graph.startQuery_frame .., startCmd_frame .., touchInput_frame .., Keeps298]
            · split at h
              · injection h with h; subst h; simp [touchInput_frame .., Keeps298]
              · split at h
                · rename_i hr
                  injection h with h; subst h; subst hs
                  have hr := startRun_frame _ _ _ _ _ _ _ _ _ _ hr
                  simp_all [startCmd_frame .., touchInput_frame .., Keeps298]
                · injection h with h; subst h
                  unfold waitForPages
                  dsimp only
                  apply ite_keeps (R := Keeps298) <;> simp [State.refuse_frame .., touchInput_frame .., demoteFor_frame .., stallCmd_frame .., Keeps298]

end Sys2Proof.Machine
end

