-- ==== Sys2Proof/Laws/CellsQueryRows.lean ====
section
/-! SUPPORT. The functions of QueryRows.lean keep the canonical form of the memory's cells. -/

namespace Sys2Proof.Machine

set_option linter.unusedSimpArgs false
set_option linter.unusedVariables false
set_option linter.unusedTactic false
set_option linter.unreachableTactic false
set_option Elab.async false

open Sys2Proof Sys2Proof.Num Sys2Proof.Machine

theorem execQuery_wf (cmd : Nat) (input filter : HostRead) (s : State) (hm : Cells.wf s.mem.cells = true) {post : State} (h : execQuery cmd input filter s = .next post) : Cells.wf post.mem.cells = true := by
  unfold execQuery at h
  split at h
  · exact next_wf h hm
  · split at h
    · exact next_wf h hm
    · dsimp only at h
      generalize readInput s _ _ filter = f at h
      split at h
      · injection h with h; subst h; simp (maxDischargeDepth := 20) [startCmd_frame .., hm]
      · generalize (ite (bit (field _ 1 1) 0 = true) (field _ 12 4) (queryInputBytes _ _)) = n at h
        generalize readInput s _ n input = v at h
        split at h
        · injection h with h; subst h; simp (maxDischargeDepth := 20) [startCmd_frame .., hm]
        · split at h
          · injection h with h; subst h; simp (maxDischargeDepth := 20) [startCmd_frame .., hm]
          · generalize hs : ({ startCmd _ cmd with qry := _ } : State) = u at h
            have hu : Cells.wf u.mem.cells = true := by subst hs; simp (maxDischargeDepth := 20) [startCmd_frame .., hm]
            split at h
            · injection h with h; subst h; simp (maxDischargeDepth := 20) [startCmd_frame .., hu]
            · split at h
              · injection h with h; subst h; simp (maxDischargeDepth := 20) [startCmd_frame .., hm]
              · split at h
                · rename_i hr
                  injection h with h; subst h
                  exact startRun_wf _ _ _ _ _ _ _ _ _ _ hu hr
                · injection h with h; subst h
                  exact waitForPages_wf _ _ _ (by simp (maxDischargeDepth := 20) [startCmd_frame .., hm]) fun t ht => by simp (maxDischargeDepth := 20) [ht]

end Sys2Proof.Machine
end

