-- ==== Sys2Proof/Laws/FrameTideRows.lean ====
section
/-! SUPPORT. Frames of TideRows.lean: which units of the state each of its functions leaves as they are. -/

namespace Sys2Proof.Machine

set_option linter.unusedSimpArgs false
set_option linter.unusedVariables false
set_option linter.unusedTactic false
set_option linter.unreachableTactic false
set_option Elab.async false

open Sys2Proof Sys2Proof.Machine

theorem recordHighWater_frame (s : State) (c : Nat) : Keeps14 s (recordHighWater s c) := by
  unfold Keeps14 recordHighWater
  simp [persist_frame .., State.setNum_frame ..]

theorem execMasterBoundary_frame (s : State) {post : State} (h : execMasterBoundary s = .next post) : Keeps219 s post := by
  unfold execMasterBoundary at h
  repeat' split at h
  all_goals (injection h with h; subst h; simp [recordHighWater_frame .., boundary_frame .., State.lockAt_frame .., State.setNum_frame .., Keeps219])

theorem ownBoundary_frame (s : State) (x : Symbol) : Keeps219 s (ownBoundary s x) := by
  unfold Keeps219 ownBoundary
  simp [boundary_frame ..]

theorem placedBoundary_frame (s : State) (c : Nat) (x : Symbol) : Keeps219 s (placedBoundary s c x) := by
  unfold Keeps219 placedBoundary
  simp [boundary_frame ..]

theorem lockedEdge_frame (s : State) (x : Symbol) : Keeps219 s (lockedEdge s x) := by
  unfold Keeps219 lockedEdge
  simp [placedBoundary_frame ..]

theorem acquiringEdge_frame (s : State) (x : Symbol) : Keeps219 s (acquiringEdge s x) := by
  unfold Keeps219 acquiringEdge
  simp [placedBoundary_frame .., State.lockAt_frame ..]

theorem adoptCount_frame (s : State) (c : Nat) (x : Symbol) : Keeps219 s (adoptCount s c x) := by
  unfold Keeps219 adoptCount
  simp [placedBoundary_frame ..]

theorem relock_frame (s : State) (n : Nat) (x : Symbol) : Keeps219 s (relock s n x) := by
  unfold Keeps219 relock
  simp [State.lockAt_frame .., placedBoundary_frame .., skipBoundaries_frame ..]

theorem driftingEdge_frame (s : State) (e : Nat) (n : Option Nat) (x : Symbol) : Keeps219 s (driftingEdge s e n x) := by
  have hk (s : State) : Keeps219 s (driftingEdge.keep e x s) := by
    unfold driftingEdge.keep
    dsimp only
    split <;> simp [relock_frame .., ownBoundary_frame .., Keeps219]
  unfold driftingEdge
  dsimp only
  cases n with
  | none => simp [relock_frame .., ownBoundary_frame .., Keeps219, hk]
  | some n => simp [relock_frame .., ownBoundary_frame .., Keeps219, hk]

theorem noteEdge_frame (s : State) (interval : Nat) (x : Symbol) : Keeps147 s (noteEdge s interval x) := by
  unfold Keeps147 noteEdge
  simp

theorem execTideInEdge_frame (interval : Nat) (fall : Option Nat) (s : State) {post : State} (h : execTideInEdge interval fall s = .next post) : Keeps219 s post := by
  unfold execTideInEdge at h
  dsimp only at h
  repeat' split at h
  all_goals (injection h with h; subst h; simp [noteEdge_frame .., lockedEdge_frame .., acquiringEdge_frame .., adoptCount_frame .., driftingEdge_frame .., State.bump_frame .., Keeps219])

theorem execMissedEdge_frame (s : State) {post : State} (h : execMissedEdge s = .next post) : Keeps219 s post := by
  unfold execMissedEdge at h
  repeat' split at h
  all_goals (injection h with h; subst h; simp [State.drawFree_frame .., ownBoundary_frame .., State.bump_frame .., Keeps219])

theorem execCountFrame_frame (s : State) {post : State} (h : execCountFrame s = .next post) : Keeps147 s post := by
  unfold execCountFrame at h
  repeat' split at h
  all_goals (injection h with h; subst h; simp [Keeps147])

theorem noteBeacon_frame (s : State) (sender c : Nat) : Keeps147 s (noteBeacon s sender c) := by
  unfold Keeps147 noteBeacon
  simp

theorem compareBeacon_frame (s : State) (port sender c : Nat) : Keeps8 s (compareBeacon s port sender c) := by
  unfold Keeps8 compareBeacon
  simp [State.bump_frame .., State.logEvent_frame ..]

theorem execTideBeacon_frame (port : Nat) (block : Bytes) (s : State) {post : State} (h : execTideBeacon port block s = .next post) : Keeps171 s post := by
  unfold execTideBeacon at h
  dsimp only at h
  repeat' split at h
  all_goals (injection h with h; subst h; simp [compareBeacon_frame .., noteBeacon_frame .., Keeps171])

theorem execSubTick_frame (s : State) {post : State} (h : execSubTick s = .next post) : Keeps172 s post := by
  unfold execSubTick at h
  repeat' split at h
  all_goals (injection h with h; subst h; simp [tickMeters_frame .., tickPort_frame .., Keeps172])

theorem execTideUnitStart_frame (s : State) {post : State} (h : execTideUnitStart s = .next post) : Keeps147 s post := by
  unfold execTideUnitStart at h
  dsimp only at h
  repeat' split at h
  all_goals (injection h with h; subst h; simp [startMaster_frame .., Keeps147])

end Sys2Proof.Machine
end

