-- ==== Sys2Proof/Laws/CellsTideRows.lean ====
section
/-! SUPPORT. The functions of TideRows.lean keep the canonical form of the memory's cells. -/

namespace Sys2Proof.Machine

set_option linter.unusedSimpArgs false
set_option linter.unusedVariables false
set_option linter.unusedTactic false
set_option linter.unreachableTactic false
set_option Elab.async false

open Sys2Proof Sys2Proof.Machine

theorem execMasterBoundary_wf (s : State) (hm : Cells.wf s.mem.cells = true) {post : State} (h : execMasterBoundary s = .next post) : Cells.wf post.mem.cells = true := by
  unfold execMasterBoundary at h
  split at h
  · rw [Host.Outcome.next.injEq] at h; rw [← h]; exact hm
  · generalize (if s.tide.count = 0 then firstCount s else s.tide.count + 1) = c at h
    dsimp only at h
    rw [Host.Outcome.next.injEq] at h; rw [← h]
    apply boundary_wf
    simp only [recordHighWater_frame .., State.lockAt_frame ..]
    with_reducible apply cells_ite
    · simp only [recordHighWater_frame .., State.lockAt_frame ..]
      exact hm
    · exact hm

@[simp] theorem ownBoundary_wf (s : State) (x : Symbol) (hm : Cells.wf s.mem.cells = true) : Cells.wf (ownBoundary s x).mem.cells = true := by
  unfold ownBoundary
  simp +contextual (maxDischargeDepth := 20) [hm]

@[simp] theorem placedBoundary_wf (s : State) (c : Nat) (x : Symbol) (hm : Cells.wf s.mem.cells = true) : Cells.wf (placedBoundary s c x).mem.cells = true := by
  unfold placedBoundary
  simp +contextual (maxDischargeDepth := 20) [hm]

@[simp] theorem lockedEdge_wf (s : State) (x : Symbol) (hm : Cells.wf s.mem.cells = true) : Cells.wf (lockedEdge s x).mem.cells = true := by
  unfold lockedEdge
  simp +contextual (maxDischargeDepth := 20) [hm]

@[simp] theorem acquiringEdge_wf (s : State) (x : Symbol) (hm : Cells.wf s.mem.cells = true) : Cells.wf (acquiringEdge s x).mem.cells = true := by
  unfold acquiringEdge
  simp +contextual (maxDischargeDepth := 20) [State.lockAt_frame .., hm]

@[simp] theorem adoptCount_wf (s : State) (c : Nat) (x : Symbol) (hm : Cells.wf s.mem.cells = true) : Cells.wf (adoptCount s c x).mem.cells = true := by
  unfold adoptCount
  simp +contextual (maxDischargeDepth := 20) [hm]

@[simp] theorem relock_wf (s : State) (n : Nat) (x : Symbol) (hm : Cells.wf s.mem.cells = true) : Cells.wf (relock s n x).mem.cells = true := by
  unfold relock
  simp +contextual (maxDischargeDepth := 20) [State.lockAt_frame .., hm]

@[simp] theorem driftingEdge_wf (s : State) (e : Nat) (n : Option Nat) (x : Symbol) (hm : Cells.wf s.mem.cells = true) : Cells.wf (driftingEdge s e n x).mem.cells = true := by
  have hk (s : State) (hm : Cells.wf s.mem.cells = true) : Cells.wf (driftingEdge.keep e x s).mem.cells = true := by
    unfold driftingEdge.keep
    dsimp only
    split <;> simp [hm]
  unfold driftingEdge
  dsimp only
  cases n with
  | none =>
    exact hk _ hm
  | some n =>
    dsimp only
    with_reducible apply cells_ite
    · apply relock_wf
      with_reducible apply cells_ite <;> exact hm
    · apply hk
      with_reducible apply cells_ite <;> exact hm

theorem execTideInEdge_wf (interval : Nat) (fall : Option Nat) (s : State) (hm : Cells.wf s.mem.cells = true) {post : State} (h : execTideInEdge interval fall s = .next post) : Cells.wf post.mem.cells = true := by
  unfold execTideInEdge at h
  split at h
  · rw [Host.Outcome.next.injEq] at h; rw [← h]; exact hm
  · dsimp only at h
    generalize hn : noteEdge s interval (classify fall) = n at h
    have hw : Cells.wf n.mem.cells = true := by
      rw [← hn]
      simp [noteEdge_frame .., State.bump_frame .., hm]
    split at h
    · rw [Host.Outcome.next.injEq] at h; rw [← h]; simp [noteEdge_frame .., State.bump_frame .., hm]
    · split at h
      · split at h
        · rw [Host.Outcome.next.injEq] at h; rw [← h]; exact hw
        · rw [Host.Outcome.next.injEq] at h; rw [← h]; simp [noteEdge_frame .., State.bump_frame .., hw]
      · split at h
        · rw [Host.Outcome.next.injEq] at h; rw [← h]; simp [noteEdge_frame .., State.bump_frame .., hw]
        · split at h
          · rw [Host.Outcome.next.injEq] at h; rw [← h]; simp [noteEdge_frame .., State.bump_frame .., hw]
          · rw [Host.Outcome.next.injEq] at h; rw [← h]; exact hw
      · rw [Host.Outcome.next.injEq] at h; rw [← h]; simp [noteEdge_frame .., State.bump_frame .., hw]

theorem execMissedEdge_wf (s : State) (hm : Cells.wf s.mem.cells = true) {post : State} (h : execMissedEdge s = .next post) : Cells.wf post.mem.cells = true := by
  unfold execMissedEdge at h
  split at h
  · rw [Host.Outcome.next.injEq] at h; rw [← h]; exact hm
  · dsimp only at h
    rw [Host.Outcome.next.injEq] at h; rw [← h]
    apply ownBoundary_wf
    simp [State.drawFree_frame .., State.bump_frame .., hm]

end Sys2Proof.Machine
end

