-- ==== Sys2Proof/Laws/Exec.lean ====
section
/-! SUPPORT. What `exec` does with each command: one equation per arm, so that a proof about one command never unfolds the dispatch. -/

namespace Sys2Proof.Machine

@[simp] theorem exec_masterBoundary (s : State) : exec .masterBoundary s = execMasterBoundary s := rfl
@[simp] theorem exec_tideInEdge (s : State) (interval fall) : exec (.tideInEdge interval fall) s = execTideInEdge interval fall s := rfl
@[simp] theorem exec_missedEdge (s : State) : exec .missedEdge s = execMissedEdge s := rfl
@[simp] theorem exec_countFrame (s : State) : exec .countFrame s = execCountFrame s := rfl
@[simp] theorem exec_tideBeacon (s : State) (port block) : exec (.tideBeacon port block) s = execTideBeacon port block s := rfl
@[simp] theorem exec_subTick (s : State) : exec .subTick s = execSubTick s := rfl
@[simp] theorem exec_tideUnitStart (s : State) : exec .tideUnitStart s = execTideUnitStart s := rfl
@[simp] theorem exec_twApply (s : State) : exec .twApply s = execTwApply s := rfl
@[simp] theorem exec_collectionIdWrite (s : State) (req) : exec (.collectionIdWrite req) s = execCollectionIdWrite req s := rfl
@[simp] theorem exec_collectionOpen (s : State) (req) : exec (.collectionOpen req) s = execCollectionOpen req s := rfl
@[simp] theorem exec_collectionClose (s : State) (req) : exec (.collectionClose req) s = execCollectionClose req s := rfl
@[simp] theorem exec_collectionStorageRelease (s : State) (coll) : exec (.collectionStorageRelease coll) s = execCollectionStorageRelease coll s := rfl
@[simp] theorem exec_shoalMapWrite (s : State) (req) : exec (.shoalMapWrite req) s = execShoalMapWrite req s := rfl
@[simp] theorem exec_shoalRelease (s : State) (coll shoal) : exec (.shoalRelease coll shoal) s = execShoalRelease coll shoal s := rfl
@[simp] theorem exec_slotSettle (s : State) : exec .slotSettle s = execSlotSettle s := rfl
@[simp] theorem exec_indexAgeLimit (s : State) : exec .indexAgeLimit s = execIndexAgeLimit s := rfl
@[simp] theorem exec_retiredReclaim (s : State) : exec .retiredReclaim s = execRetiredReclaim s := rfl
@[simp] theorem exec_query (s : State) (cmd input filter) : exec (.query cmd input filter) s = execQuery cmd input filter s := rfl
@[simp] theorem exec_fragmentRequest (s : State) (src data) : exec (.fragmentRequest src data) s = execFragmentRequest src data s := rfl
@[simp] theorem exec_fragmentReply (s : State) (src data) : exec (.fragmentReply src data) s = execFragmentReply src data s := rfl
@[simp] theorem exec_fragmentCutoff (s : State) (frag) : exec (.fragmentCutoff frag) s = execFragmentCutoff frag s := rfl
@[simp] theorem exec_fragmentComplete (s : State) (frag) : exec (.fragmentComplete frag) s = execFragmentComplete frag s := rfl
@[simp] theorem exec_queryDeadline (s : State) (query) : exec (.queryDeadline query) s = execQueryDeadline query s := rfl
@[simp] theorem exec_verifyReadDone (s : State) (frag loc) : exec (.verifyReadDone frag loc) s = execVerifyReadDone frag loc s := rfl
@[simp] theorem exec_accession (s : State) (cmd vec metadata) : exec (.accession cmd vec metadata) s = execAccession cmd vec metadata s := rfl
@[simp] theorem exec_deaccession (s : State) (cmd) : exec (.deaccession cmd) s = execDeaccession cmd s := rfl
@[simp] theorem exec_changeAtPrimary (s : State) (src change) : exec (.changeAtPrimary src change) s = execChangeAtPrimary src change s := rfl
@[simp] theorem exec_changeHeldAccept (s : State) : exec .changeHeldAccept s = execChangeHeldAccept s := rfl
@[simp] theorem exec_changeAtReplica (s : State) (src change seq commit result) : exec (.changeAtReplica src change seq commit result) s = execChangeAtReplica src change seq commit result s := rfl
@[simp] theorem exec_changeAcknowledgement (s : State) (src ack) : exec (.changeAcknowledgement src ack) s = execChangeAcknowledgement src ack s := rfl
@[simp] theorem exec_changeOutcome (s : State) (src done) : exec (.changeOutcome src done) s = execChangeOutcome src done s := rfl
@[simp] theorem exec_replicaAckTimeout (s : State) (coll shoal seq) : exec (.replicaAckTimeout coll shoal seq) s = execReplicaAckTimeout coll shoal seq s := rfl
@[simp] theorem exec_intakeGiveUp (s : State) (tag) : exec (.intakeGiveUp tag) s = execIntakeGiveUp tag s := rfl
@[simp] theorem exec_upkeepWindowOpen (s : State) : exec .upkeepWindowOpen s = execUpkeepWindowOpen s := rfl
@[simp] theorem exec_upkeepWindowClose (s : State) : exec .upkeepWindowClose s = execUpkeepWindowClose s := rfl
@[simp] theorem exec_shoalFillStream (s : State) (src item) : exec (.shoalFillStream src item) s = execShoalFillStream src item s := rfl
@[simp] theorem exec_fillComplete (s : State) (coll shoal) : exec (.fillComplete coll shoal) s = execFillComplete coll shoal s := rfl
@[simp] theorem exec_hostMemRead (s : State) (hpa) : exec (.hostMemRead hpa) s = execHostMemRead hpa s := rfl
@[simp] theorem exec_hostMemWrite (s : State) (hpa data) : exec (.hostMemWrite hpa data) s = execHostMemWrite hpa data s := rfl
@[simp] theorem exec_holdTimeout (s : State) (id) : exec (.holdTimeout id) s = execHoldTimeout id s := rfl
@[simp] theorem exec_stackDemotion (s : State) : exec .stackDemotion s = execStackDemotion s := rfl
@[simp] theorem exec_shelfDemotion (s : State) : exec .shelfDemotion s = execShelfDemotion s := rfl
@[simp] theorem exec_pageMoveSwitch (s : State) (page) : exec (.pageMoveSwitch page) s = execPageMoveSwitch page s := rfl
@[simp] theorem exec_sweepComplete (s : State) (slot) : exec (.sweepComplete slot) s = execSweepComplete slot s := rfl
@[simp] theorem exec_nbSequenceIssue (s : State) (desc) : exec (.nbSequenceIssue desc) s = execNbSequenceIssue desc s := rfl
@[simp] theorem exec_nbSequenceStart (s : State) (bank) : exec (.nbSequenceStart bank) s = execNbSequenceStart bank s := rfl
@[simp] theorem exec_rowcopy (s : State) (bank) : exec (.rowcopy bank) s = execRowcopy bank s := rfl
@[simp] theorem exec_rowinit (s : State) (bank) : exec (.rowinit bank) s = execRowinit bank s := rfl
@[simp] theorem exec_rowlogic (s : State) (bank) : exec (.rowlogic bank) s = execRowlogic bank s := rfl
@[simp] theorem exec_opload (s : State) (bank) : exec (.opload bank) s = execOpload bank s := rfl
@[simp] theorem exec_popacc (s : State) (bank) : exec (.popacc bank) s = execPopacc bank s := rfl
@[simp] theorem exec_accout (s : State) (bank) : exec (.accout bank) s = execAccout bank s := rfl
@[simp] theorem exec_seqEnd (s : State) (bank) : exec (.seqEnd bank) s = execSeqEnd bank s := rfl
@[simp] theorem exec_bankSlot (s : State) (bank external) : exec (.bankSlot bank external) s = execBankSlot bank external s := rfl
@[simp] theorem exec_refreshVisit (s : State) (bank) : exec (.refreshVisit bank) s = execRefreshVisit bank s := rfl
@[simp] theorem exec_neighbourRefresh (s : State) (bank row) : exec (.neighbourRefresh bank row) s = execNeighbourRefresh bank row s := rfl
@[simp] theorem exec_stackTempRead (s : State) (temps) : exec (.stackTempRead temps) s = execStackTempRead temps s := rfl
@[simp] theorem exec_graphLoad (s : State) (cmd image) : exec (.graphLoad cmd image) s = execGraphLoad cmd image s := rfl
@[simp] theorem exec_graphRun (s : State) (cmd inTable outTable inputs) : exec (.graphRun cmd inTable outTable inputs) s = execGraphRun cmd inTable outTable inputs s := rfl
@[simp] theorem exec_graphUnload (s : State) (cmd) : exec (.graphUnload cmd) s = execGraphUnload cmd s := rfl
@[simp] theorem exec_unloadComplete (s : State) (slot) : exec (.unloadComplete slot) s = execUnloadComplete slot s := rfl
@[simp] theorem exec_runHoldRelease (s : State) (run) : exec (.runHoldRelease run) s = execRunHoldRelease run s := rfl
@[simp] theorem exec_runDeadline (s : State) (run) : exec (.runDeadline run) s = execRunDeadline run s := rfl
@[simp] theorem exec_convert (s : State) (run) : exec (.convert run) s = execConvert run s := rfl
@[simp] theorem exec_reshape (s : State) (run) : exec (.reshape run) s = execReshape run s := rfl
@[simp] theorem exec_transpose (s : State) (run) : exec (.transpose run) s = execTranspose run s := rfl
@[simp] theorem exec_elementwise (s : State) (run) : exec (.elementwise run) s = execElementwise run s := rfl
@[simp] theorem exec_reduce (s : State) (run) : exec (.reduce run) s = execReduce run s := rfl
@[simp] theorem exec_softmax (s : State) (run) : exec (.softmax run) s = execSoftmax run s := rfl
@[simp] theorem exec_norm (s : State) (run) : exec (.norm run) s = execNorm run s := rfl
@[simp] theorem exec_quantise (s : State) (run) : exec (.quantise run) s = execQuantise run s := rfl
@[simp] theorem exec_dequantise (s : State) (run) : exec (.dequantise run) s = execDequantise run s := rfl
@[simp] theorem exec_matmul (s : State) (run) : exec (.matmul run) s = execMatmul run s := rfl
@[simp] theorem exec_chunkFillDone (s : State) (run) : exec (.chunkFillDone run) s = execChunkFillDone run s := rfl
@[simp] theorem exec_distance (s : State) (run) : exec (.distance run) s = execDistance run s := rfl
@[simp] theorem exec_select (s : State) (run) : exec (.select run) s = execSelect run s := rfl
@[simp] theorem exec_merge (s : State) (run) : exec (.merge run) s = execMerge run s := rfl
@[simp] theorem exec_filter (s : State) (run) : exec (.filter run) s = execFilter run s := rfl
@[simp] theorem exec_gather (s : State) (run remote) : exec (.gather run remote) s = execGather run remote s := rfl
@[simp] theorem exec_scatter (s : State) (run) : exec (.scatter run) s = execScatter run s := rfl
@[simp] theorem exec_mergeUpdate (s : State) (run) : exec (.mergeUpdate run) s = execMergeUpdate run s := rfl
@[simp] theorem exec_nbMatvec (s : State) (run) : exec (.nbMatvec run) s = execNbMatvec run s := rfl
@[simp] theorem exec_attendQk (s : State) (run) : exec (.attendQk run) s = execAttendQk run s := rfl
@[simp] theorem exec_attendPv (s : State) (run) : exec (.attendPv run) s = execAttendPv run s := rfl
@[simp] theorem exec_attend (s : State) (run) : exec (.attend run) s = execAttend run s := rfl
@[simp] theorem exec_berthAppend (s : State) (run) : exec (.berthAppend run) s = execBerthAppend run s := rfl
@[simp] theorem exec_loop (s : State) (run) : exec (.loop run) s = execLoop run s := rfl
@[simp] theorem exec_branch (s : State) (run) : exec (.branch run) s = execBranch run s := rfl
@[simp] theorem exec_tideWait (s : State) (run) : exec (.tideWait run) s = execTideWait run s := rfl
@[simp] theorem exec_tideWaitRelease (s : State) (run) : exec (.tideWaitRelease run) s = execTideWaitRelease run s := rfl
@[simp] theorem exec_create (s : State) (cmd answer) : exec (.create cmd answer) s = execCreate cmd answer s := rfl
@[simp] theorem exec_park (s : State) (cmd) : exec (.park cmd) s = execPark cmd s := rfl
@[simp] theorem exec_parkDone (s : State) (berth) : exec (.parkDone berth) s = execParkDone berth s := rfl
@[simp] theorem exec_wake (s : State) (cmd) : exec (.wake cmd) s = execWake cmd s := rfl
@[simp] theorem exec_wakeReady (s : State) (berth) : exec (.wakeReady berth) s = execWakeReady berth s := rfl
@[simp] theorem exec_attendCommand (s : State) (cmd inTable outTable inputs) : exec (.attendCommand cmd inTable outTable inputs) s = execAttendCommand cmd inTable outTable inputs s := rfl
@[simp] theorem exec_release (s : State) (cmd) : exec (.release cmd) s = execRelease cmd s := rfl
@[simp] theorem exec_handoff (s : State) (cmd) : exec (.handoff cmd) s = execHandoff cmd s := rfl
@[simp] theorem exec_checkpoint (s : State) (cmd) : exec (.checkpoint cmd) s = execCheckpoint cmd s := rfl
@[simp] theorem exec_berthPages (s : State) (src page) : exec (.berthPages src page) s = execBerthPages src page s := rfl
@[simp] theorem exec_berthControl (s : State) (src msg) : exec (.berthControl src msg) s = execBerthControl src msg s := rfl
@[simp] theorem exec_berthCommandRelease (s : State) (berth) : exec (.berthCommandRelease berth) s = execBerthCommandRelease berth s := rfl
@[simp] theorem exec_autoPark (s : State) (berth) : exec (.autoPark berth) s = execAutoPark berth s := rfl
@[simp] theorem exec_leaseRenewal (s : State) (berth) : exec (.leaseRenewal berth) s = execLeaseRenewal berth s := rfl
@[simp] theorem exec_leaseExpiry (s : State) (berth) : exec (.leaseExpiry berth) s = execLeaseExpiry berth s := rfl
@[simp] theorem exec_resolveRead (s : State) (berth) : exec (.resolveRead berth) s = execResolveRead berth s := rfl
@[simp] theorem exec_takeover (s : State) (num) : exec (.takeover num) s = execTakeover num s := rfl
@[simp] theorem exec_usageReport (s : State) : exec .usageReport s = execUsageReport s := rfl
@[simp] theorem exec_tableIdWrite (s : State) (req) : exec (.tableIdWrite req) s = execTableIdWrite req s := rfl
@[simp] theorem exec_tableOpen (s : State) (req) : exec (.tableOpen req) s = execTableOpen req s := rfl
@[simp] theorem exec_tableClose (s : State) (req) : exec (.tableClose req) s = execTableClose req s := rfl
@[simp] theorem exec_tableStorageRelease (s : State) (table) : exec (.tableStorageRelease table) s = execTableStorageRelease table s := rfl
@[simp] theorem exec_rowGet (s : State) (cmd rows remote) : exec (.rowGet cmd rows remote) s = execRowGet cmd rows remote s := rfl
@[simp] theorem exec_rowPut (s : State) (cmd rows data) : exec (.rowPut cmd rows data) s = execRowPut cmd rows data s := rfl
@[simp] theorem exec_rowUpdate (s : State) (cmd rows data) : exec (.rowUpdate cmd rows data) s = execRowUpdate cmd rows data s := rfl
@[simp] theorem exec_tablePutRows (s : State) (src put) : exec (.tablePutRows src put) s = execTablePutRows src put s := rfl
@[simp] theorem exec_tablePutCommit (s : State) (src tag) : exec (.tablePutCommit src tag) s = execTablePutCommit src tag s := rfl
@[simp] theorem exec_tablePutWithdraw (s : State) (src tag) : exec (.tablePutWithdraw src tag) s = execTablePutWithdraw src tag s := rfl
@[simp] theorem exec_putAnswerDeadline (s : State) (cmd) : exec (.putAnswerDeadline cmd) s = execPutAnswerDeadline cmd s := rfl
@[simp] theorem exec_tableUpdateSums (s : State) (src sums) : exec (.tableUpdateSums src sums) s = execTableUpdateSums src sums s := rfl
@[simp] theorem exec_tableLoadReport (s : State) (src table load) : exec (.tableLoadReport src table load) s = execTableLoadReport src table load s := rfl
@[simp] theorem exec_loadPeriod (s : State) : exec .loadPeriod s = execLoadPeriod s := rfl
@[simp] theorem exec_migrationSwitch (s : State) (table row) : exec (.migrationSwitch table row) s = execMigrationSwitch table row s := rfl
@[simp] theorem exec_hotRowRefresh (s : State) (table) : exec (.hotRowRefresh table) s = execHotRowRefresh table s := rfl
@[simp] theorem exec_granuleFree (s : State) : exec .granuleFree s = execGranuleFree s := rfl
@[simp] theorem exec_freshClear (s : State) : exec .freshClear s = execFreshClear s := rfl
@[simp] theorem exec_cacheRead (s : State) (core owner line) : exec (.cacheRead core owner line) s = execCacheRead core owner line s := rfl
@[simp] theorem exec_readOwn (s : State) (core owner line off data) : exec (.readOwn core owner line off data) s = execReadOwn core owner line off data s := rfl
@[simp] theorem exec_upgrade (s : State) (core owner line off data) : exec (.upgrade core owner line off data) s = execUpgrade core owner line off data s := rfl
@[simp] theorem exec_writeLine (s : State) (owner line data) : exec (.writeLine owner line data) s = execWriteLine owner line data s := rfl
@[simp] theorem exec_readOnce (s : State) (owner line) : exec (.readOnce owner line) s = execReadOnce owner line s := rfl
@[simp] theorem exec_writeback (s : State) (core line lost) : exec (.writeback core line lost) s = execWriteback core line lost s := rfl
@[simp] theorem exec_evictionNotice (s : State) (core line) : exec (.evictionNotice core line) s = execEvictionNotice core line s := rfl
@[simp] theorem exec_cacheAtomic (s : State) (owner addr op operand expected) : exec (.cacheAtomic owner addr op operand expected) s = execCacheAtomic owner addr op operand expected s := rfl
@[simp] theorem exec_invalidationAck (s : State) (core line) : exec (.invalidationAck core line) s = execInvalidationAck core line s := rfl
@[simp] theorem exec_firmwareWriteback (s : State) (addr lines) : exec (.firmwareWriteback addr lines) s = execFirmwareWriteback addr lines s := rfl
@[simp] theorem exec_firmwareInvalidate (s : State) (addr lines) : exec (.firmwareInvalidate addr lines) s = execFirmwareInvalidate addr lines s := rfl
@[simp] theorem exec_firmwareFence (s : State) : exec .firmwareFence s = execFirmwareFence s := rfl
@[simp] theorem exec_hostSnoop (s : State) (line snoop) : exec (.hostSnoop line snoop) s = execHostSnoop line snoop s := rfl
@[simp] theorem exec_bisnpResponse (s : State) (line) : exec (.bisnpResponse line) s = execBisnpResponse line s := rfl
@[simp] theorem exec_signalDetect (s : State) (port) : exec (.signalDetect port) s = execSignalDetect port s := rfl
@[simp] theorem exec_equaliseDone (s : State) (port) : exec (.equaliseDone port) s = execEqualiseDone port s := rfl
@[simp] theorem exec_alignDone (s : State) (port lanes reversed polarity) : exec (.alignDone port lanes reversed polarity) s = execAlignDone port lanes reversed polarity s := rfl
@[simp] theorem exec_hello (s : State) (port block) : exec (.hello port block) s = execHello port block s := rfl
@[simp] theorem exec_trainTimeout (s : State) (port) : exec (.trainTimeout port) s = execTrainTimeout port s := rfl
@[simp] theorem exec_downRetry (s : State) (port) : exec (.downRetry port) s = execDownRetry port s := rfl
@[simp] theorem exec_miswiredHelloRepeat (s : State) (port) : exec (.miswiredHelloRepeat port) s = execMiswiredHelloRepeat port s := rfl
@[simp] theorem exec_lanemap (s : State) (port block) : exec (.lanemap port block) s = execLanemap port block s := rfl
@[simp] theorem exec_laneSwitch (s : State) (port) : exec (.laneSwitch port) s = execLaneSwitch port s := rfl
@[simp] theorem exec_credit (s : State) (port block) : exec (.credit port block) s = execCredit port block s := rfl
@[simp] theorem exec_ack (s : State) (port block) : exec (.ack port block) s = execAck port block s := rfl
@[simp] theorem exec_nak (s : State) (port block) : exec (.nak port block) s = execNak port block s := rfl
@[simp] theorem exec_frameReceived (s : State) (port link frame headerCrc frameCrc fecLost) : exec (.frameReceived port link frame headerCrc frameCrc fecLost) s = execFrameReceived port link frame headerCrc frameCrc fecLost s := rfl
@[simp] theorem exec_egressSelect (s : State) (port) : exec (.egressSelect port) s = execEgressSelect port s := rfl
@[simp] theorem exec_strandRead (s : State) (frame) : exec (.strandRead frame) s = execStrandRead frame s := rfl
@[simp] theorem exec_strandWrite (s : State) (frame) : exec (.strandWrite frame) s = execStrandWrite frame s := rfl
@[simp] theorem exec_strandAtomic (s : State) (frame) : exec (.strandAtomic frame) s = execStrandAtomic frame s := rfl
@[simp] theorem exec_register (s : State) (frame) : exec (.register frame) s = execRegister frame s := rfl
@[simp] theorem exec_unregister (s : State) (frame) : exec (.unregister frame) s = execUnregister frame s := rfl
@[simp] theorem exec_publish (s : State) (frame) : exec (.publish frame) s = execPublish frame s := rfl
@[simp] theorem exec_invalidate (s : State) (frame) : exec (.invalidate frame) s = execInvalidate frame s := rfl
@[simp] theorem exec_messageSegment (s : State) (frame) : exec (.messageSegment frame) s = execMessageSegment frame s := rfl
@[simp] theorem exec_messageReassemblyTimeout (s : State) (src id) : exec (.messageReassemblyTimeout src id) s = execMessageReassemblyTimeout src id s := rfl
@[simp] theorem exec_readResponse (s : State) (frame) : exec (.readResponse frame) s = execReadResponse frame s := rfl
@[simp] theorem exec_writeResponse (s : State) (frame) : exec (.writeResponse frame) s = execWriteResponse frame s := rfl
@[simp] theorem exec_atomicResponse (s : State) (frame) : exec (.atomicResponse frame) s = execAtomicResponse frame s := rfl
@[simp] theorem exec_registerResponse (s : State) (frame) : exec (.registerResponse frame) s = execRegisterResponse frame s := rfl
@[simp] theorem exec_publishResponse (s : State) (frame) : exec (.publishResponse frame) s = execPublishResponse frame s := rfl
@[simp] theorem exec_invalidateResponse (s : State) (frame) : exec (.invalidateResponse frame) s = execInvalidateResponse frame s := rfl
@[simp] theorem exec_messageResponse (s : State) (frame) : exec (.messageResponse frame) s = execMessageResponse frame s := rfl
@[simp] theorem exec_readResend (s : State) (seq) : exec (.readResend seq) s = execReadResend seq s := rfl
@[simp] theorem exec_strandGiveUp (s : State) (seq) : exec (.strandGiveUp seq) s = execStrandGiveUp seq s := rfl
@[simp] theorem exec_atomicResend (s : State) (seq) : exec (.atomicResend seq) s = execAtomicResend seq s := rfl
@[simp] theorem exec_atomicGiveUp (s : State) (seq) : exec (.atomicGiveUp seq) s = execAtomicGiveUp seq s := rfl
@[simp] theorem exec_invalidateResend (s : State) (seq src) : exec (.invalidateResend seq src) s = execInvalidateResend seq src s := rfl
@[simp] theorem exec_publishGiveUp (s : State) (seq) : exec (.publishGiveUp seq) s = execPublishGiveUp seq s := rfl
@[simp] theorem exec_replayEntryExpiry (s : State) : exec .replayEntryExpiry s = execReplayEntryExpiry s := rfl
@[simp] theorem exec_histogramPeriod (s : State) : exec .histogramPeriod s = execHistogramPeriod s := rfl
@[simp] theorem exec_flashEnumerationDone (s : State) (targets) : exec (.flashEnumerationDone targets) s = execFlashEnumerationDone targets s := rfl
@[simp] theorem exec_lunReadDispatch (s : State) (chan die) : exec (.lunReadDispatch chan die) s = execLunReadDispatch chan die s := rfl
@[simp] theorem exec_flashReadDone (s : State) (id fails corrected) : exec (.flashReadDone id fails corrected) s = execFlashReadDone id fails corrected s := rfl
@[simp] theorem exec_writeFlushTimer (s : State) (chan) : exec (.writeFlushTimer chan) s = execWriteFlushTimer chan s := rfl
@[simp] theorem exec_flashProgramDone (s : State) (chan block ok) : exec (.flashProgramDone chan block ok) s = execFlashProgramDone chan block ok s := rfl
@[simp] theorem exec_blockErase (s : State) (chan block) : exec (.blockErase chan block) s = execBlockErase chan block s := rfl
@[simp] theorem exec_eraseDone (s : State) (chan block ok) : exec (.eraseDone chan block ok) s = execEraseDone chan block ok s := rfl
@[simp] theorem exec_journalFlush (s : State) : exec .journalFlush s = execJournalFlush s := rfl
@[simp] theorem exec_journalFlushDone (s : State) : exec .journalFlushDone s = execJournalFlushDone s := rfl
@[simp] theorem exec_rebuildDone (s : State) : exec .rebuildDone s = execRebuildDone s := rfl
@[simp] theorem exec_housekeepingWindowOpen (s : State) : exec .housekeepingWindowOpen s = execHousekeepingWindowOpen s := rfl
@[simp] theorem exec_housekeepingWindowClose (s : State) : exec .housekeepingWindowClose s = execHousekeepingWindowClose s := rfl
@[simp] theorem exec_urgentGc (s : State) (chan) : exec (.urgentGc chan) s = execUrgentGc chan s := rfl
@[simp] theorem exec_urgentRelocation (s : State) (chan block) : exec (.urgentRelocation chan block) s = execUrgentRelocation chan block s := rfl
@[simp] theorem exec_controllerEnable (s : State) : exec .controllerEnable s = execControllerEnable s := rfl
@[simp] theorem exec_readySet (s : State) : exec .readySet s = execReadySet s := rfl
@[simp] theorem exec_controllerDisable (s : State) : exec .controllerDisable s = execControllerDisable s := rfl
@[simp] theorem exec_hostDisableEffect (s : State) : exec .hostDisableEffect s = execHostDisableEffect s := rfl
@[simp] theorem exec_hostDrainLimit (s : State) : exec .hostDrainLimit s = execHostDrainLimit s := rfl
@[simp] theorem exec_queueEnable (s : State) (pair word) : exec (.queueEnable pair word) s = execQueueEnable pair word s := rfl
@[simp] theorem exec_queueDisable (s : State) (pair word) : exec (.queueDisable pair word) s = execQueueDisable pair word s := rfl
@[simp] theorem exec_queueDisableDone (s : State) (pair) : exec (.queueDisableDone pair) s = execQueueDisableDone pair s := rfl
@[simp] theorem exec_sqTailDoorbell (s : State) (pair value) : exec (.sqTailDoorbell pair value) s = execSqTailDoorbell pair value s := rfl
@[simp] theorem exec_cqHeadDoorbell (s : State) (pair value) : exec (.cqHeadDoorbell pair value) s = execCqHeadDoorbell pair value s := rfl
@[simp] theorem exec_linkLostClear (s : State) : exec .linkLostClear s = execLinkLostClear s := rfl
@[simp] theorem exec_bar0Write (s : State) (offset size value) : exec (.bar0Write offset size value) s = execBar0Write offset size value s := rfl
@[simp] theorem exec_sqFetch (s : State) (pair read) : exec (.sqFetch pair read) s = execSqFetch pair read s := rfl
@[simp] theorem exec_coalesceTimer (s : State) (pair) : exec (.coalesceTimer pair) s = execCoalesceTimer pair s := rfl
@[simp] theorem exec_msixUnmask (s : State) (vector) : exec (.msixUnmask vector) s = execMsixUnmask vector s := rfl
@[simp] theorem exec_linkLoss (s : State) : exec .linkLoss s = execLinkLoss s := rfl
@[simp] theorem exec_linkTrained (s : State) (width rate) : exec (.linkTrained width rate) s = execLinkTrained width rate s := rfl
@[simp] theorem exec_hdmCommit (s : State) (base size) : exec (.hdmCommit base size) s = execHdmCommit base size s := rfl
@[simp] theorem exec_getSupportedLogs (s : State) : exec .getSupportedLogs s = execGetSupportedLogs s := rfl
@[simp] theorem exec_getLog (s : State) (input) : exec (.getLog input) s = execGetLog input s := rfl
@[simp] theorem exec_catalogueTransaction (s : State) (input) : exec (.catalogueTransaction input) s = execCatalogueTransaction input s := rfl
@[simp] theorem exec_imageStart (s : State) (xfer) : exec (.imageStart xfer) s = execImageStart xfer s := rfl
@[simp] theorem exec_imageData (s : State) (xfer) : exec (.imageData xfer) s = execImageData xfer s := rfl
@[simp] theorem exec_imageEnd (s : State) (xfer) : exec (.imageEnd xfer) s = execImageEnd xfer s := rfl
@[simp] theorem exec_imageVerifyDone (s : State) : exec .imageVerifyDone s = execImageVerifyDone s := rfl
@[simp] theorem exec_imageWriteDone (s : State) (verified) : exec (.imageWriteDone verified) s = execImageWriteDone verified s := rfl
@[simp] theorem exec_doeDiscovery (s : State) (index) : exec (.doeDiscovery index) s = execDoeDiscovery index s := rfl
@[simp] theorem exec_cdat (s : State) (handle) : exec (.cdat handle) s = execCdat handle s := rfl
@[simp] theorem exec_spdm (s : State) (request) : exec (.spdm request) s = execSpdm request s := rfl
@[simp] theorem exec_ideKm (s : State) (request) : exec (.ideKm request) s = execIdeKm request s := rfl
@[simp] theorem exec_capRead (s : State) (req) : exec (.capRead req) s = execCapRead req s := rfl
@[simp] theorem exec_capReadPending (s : State) (req) : exec (.capReadPending req) s = execCapReadPending req s := rfl
@[simp] theorem exec_capWrite (s : State) (req) : exec (.capWrite req) s = execCapWrite req s := rfl
@[simp] theorem exec_lock (s : State) (req) : exec (.lock req) s = execLock req s := rfl
@[simp] theorem exec_lockForce (s : State) (req) : exec (.lockForce req) s = execLockForce req s := rfl
@[simp] theorem exec_unlock (s : State) (req) : exec (.unlock req) s = execUnlock req s := rfl
@[simp] theorem exec_describe (s : State) (req) : exec (.describe req) s = execDescribe req s := rfl
@[simp] theorem exec_lockExpiry (s : State) : exec .lockExpiry s = execLockExpiry s := rfl
@[simp] theorem exec_snapshotExpiry (s : State) : exec .snapshotExpiry s = execSnapshotExpiry s := rfl
@[simp] theorem exec_provenanceNonceWrite (s : State) (req) : exec (.provenanceNonceWrite req) s = execProvenanceNonceWrite req s := rfl
@[simp] theorem exec_provenanceRecordRead (s : State) (req) : exec (.provenanceRecordRead req) s = execProvenanceRecordRead req s := rfl
@[simp] theorem exec_eventRecordsRead (s : State) (req) : exec (.eventRecordsRead req) s = execEventRecordsRead req s := rfl
@[simp] theorem exec_createKey (s : State) (req) : exec (.createKey req) s = execCreateKey req s := rfl
@[simp] theorem exec_destroy (s : State) (req) : exec (.destroy req) s = execDestroy req s := rfl
@[simp] theorem exec_registerGraphKey (s : State) (req) : exec (.registerGraphKey req) s = execRegisterGraphKey req s := rfl
@[simp] theorem exec_removeGraphKey (s : State) (req) : exec (.removeGraphKey req) s = execRemoveGraphKey req s := rfl
@[simp] theorem exec_fence (s : State) (req) : exec (.fence req) s = execFence req s := rfl
@[simp] theorem exec_unfence (s : State) (req) : exec (.unfence req) s = execUnfence req s := rfl
@[simp] theorem exec_expel (s : State) (req) : exec (.expel req) s = execExpel req s := rfl
@[simp] theorem exec_reinstate (s : State) (req) : exec (.reinstate req) s = execReinstate req s := rfl
@[simp] theorem exec_setFaultKeys (s : State) (req) : exec (.setFaultKeys req) s = execSetFaultKeys req s := rfl
@[simp] theorem exec_signedCommandEffect (s : State) : exec .signedCommandEffect s = execSignedCommandEffect s := rfl
@[simp] theorem exec_faultKeysWrite (s : State) (req) : exec (.faultKeysWrite req) s = execFaultKeysWrite req s := rfl
@[simp] theorem exec_coldResetRequest (s : State) (req) : exec (.coldResetRequest req) s = execColdResetRequest req s := rfl
@[simp] theorem exec_warmResetRequest (s : State) (req) : exec (.warmResetRequest req) s = execWarmResetRequest req s := rfl
@[simp] theorem exec_domainResetRequest (s : State) (req) : exec (.domainResetRequest req) s = execDomainResetRequest req s := rfl
@[simp] theorem exec_blockResetRequest (s : State) (req) : exec (.blockResetRequest req) s = execBlockResetRequest req s := rfl
@[simp] theorem exec_resetAssert (s : State) : exec .resetAssert s = execResetAssert s := rfl
@[simp] theorem exec_powerOn (s : State) (copyA copyB) : exec (.powerOn copyA copyB) s = execPowerOn copyA copyB s := rfl
@[simp] theorem exec_resetNLow (s : State) : exec .resetNLow s = execResetNLow s := rfl
@[simp] theorem exec_resetNRise (s : State) : exec .resetNRise s = execResetNRise s := rfl
@[simp] theorem exec_railUndervoltage (s : State) (rail) : exec (.railUndervoltage rail) s = execRailUndervoltage rail s := rfl
@[simp] theorem exec_clockStop (s : State) : exec .clockStop s = execClockStop s := rfl
@[simp] theorem exec_releasePoint (s : State) (straps) : exec (.releasePoint straps) s = execReleasePoint straps s := rfl
@[simp] theorem exec_watchdogExpiry (s : State) : exec .watchdogExpiry s = execWatchdogExpiry s := rfl
@[simp] theorem exec_domainRelease (s : State) (avsFails) : exec (.domainRelease avsFails) s = execDomainRelease avsFails s := rfl
@[simp] theorem exec_selfTestEscalation (s : State) (unit place) : exec (.selfTestEscalation unit place) s = execSelfTestEscalation unit place s := rfl
@[simp] theorem exec_junctionSensorRead (s : State) (temps) : exec (.junctionSensorRead temps) s = execJunctionSensorRead temps s := rfl
@[simp] theorem exec_blockQuiesce (s : State) (req) : exec (.blockQuiesce req) s = execBlockQuiesce req s := rfl
@[simp] theorem exec_blockQuiesced (s : State) (block) : exec (.blockQuiesced block) s = execBlockQuiesced block s := rfl
@[simp] theorem exec_functionDisable (s : State) (req) : exec (.functionDisable req) s = execFunctionDisable req s := rfl
@[simp] theorem exec_functionEnable (s : State) (req) : exec (.functionEnable req) s = execFunctionEnable req s := rfl
@[simp] theorem exec_drainLimit (s : State) (bit) : exec (.drainLimit bit) s = execDrainLimit bit s := rfl
@[simp] theorem exec_neapRequest (s : State) (req) : exec (.neapRequest req) s = execNeapRequest req s := rfl
@[simp] theorem exec_activeRequest (s : State) (req) : exec (.activeRequest req) s = execActiveRequest req s := rfl
@[simp] theorem exec_neapPowerOff (s : State) : exec .neapPowerOff s = execNeapPowerOff s := rfl
@[simp] theorem exec_neapExitDone (s : State) : exec .neapExitDone s = execNeapExitDone s := rfl
@[simp] theorem exec_slackEntry (s : State) (cluster) : exec (.slackEntry cluster) s = execSlackEntry cluster s := rfl
@[simp] theorem exec_railCurrentSample (s : State) (watts amps) : exec (.railCurrentSample watts amps) s = execRailCurrentSample watts amps s := rfl
@[simp] theorem exec_marginSample (s : State) (millivolts slack avsFails) : exec (.marginSample millivolts slack avsFails) s = execMarginSample millivolts slack avsFails s := rfl
@[simp] theorem exec_marginPeriod (s : State) : exec .marginPeriod s = execMarginPeriod s := rfl
@[simp] theorem exec_cmisPoll (s : State) (ports) : exec (.cmisPoll ports) s = execCmisPoll ports s := rfl
@[simp] theorem exec_trngHealthFail (s : State) : exec .trngHealthFail s = execTrngHealthFail s := rfl
@[simp] theorem exec_trngStartupDone (s : State) (ok) : exec (.trngStartupDone ok) s = execTrngStartupDone ok s := rfl
@[simp] theorem exec_errorEvent (s : State) (event) : exec (.errorEvent event) s = execErrorEvent event s := rfl
@[simp] theorem exec_selfTestDone (s : State) (unit place column passed) : exec (.selfTestDone unit place column passed) s = execSelfTestDone unit place column passed s := rfl
@[simp] theorem exec_selfTestRequest (s : State) (req) : exec (.selfTestRequest req) s = execSelfTestRequest req s := rfl
@[simp] theorem exec_stragglerHoldExpiry (s : State) (node) : exec (.stragglerHoldExpiry node) s = execStragglerHoldExpiry node s := rfl
@[simp] theorem exec_firmwareImageStarted (s : State) : exec .firmwareImageStarted s = execFirmwareImageStarted s := rfl
@[simp] theorem exec_checkpointInstalled (s : State) (berth) : exec (.checkpointInstalled berth) s = execCheckpointInstalled berth s := rfl
@[simp] theorem exec_tapInstruction (s : State) (tap) : exec (.tapInstruction tap) s = execTapInstruction tap s := rfl

end Sys2Proof.Machine
end

