-- ==== Sys2Proof/Laws/Operators.lean ====
section
/-! SUPPORT. What an operator of a graph does, once for each of the ways it can end. -/

namespace Sys2Proof.Machine

open Sys2Proof

theorem settleOp_outs {s t : State} {c : Graph.Ctx} {o : OpOut} {q : Run} (h : Stores s c o q t) :
    Graph.settleOp c.run c.image c.entry (.outs o s) = Graph.advance t q (c.run.pc + 1) := by
  unfold Stores at h
  simp [Graph.settleOp, h]

/-- An operator that may execute ends as its function says. -/
theorem perform_ends {s : State} {i code : Nat} {r : Run} {f : Graph.Ctx → State → Graph.Ended} (h : AtOperator s i r code) :
    Graph.perform s i code f = Graph.settleOp r (ctxOf s r).image (ctxOf s r).entry (f (ctxOf s r) (inputsOf s r).2.2) := by
  obtain ⟨hr, hc, hp, hi⟩ := h
  simp only [inputsOf, entryOf] at hp hi
  simp only [Graph.perform, hr, hc, Graph.needPages, hp, hi, Bool.not_true, Bool.false_eq_true, if_false, ne_eq, not_true_eq_false]
  rfl

theorem perform_outs {s u t : State} {i code : Nat} {r q : Run} {f : Graph.Ctx → State → Graph.Ended} {o : OpOut}
    (h : AtOperator s i r code) (hf : f (ctxOf s r) (inputsOf s r).2.2 = .outs o u) (hs : Stores u (ctxOf s r) o q t) :
    Graph.perform s i code f = Graph.advance t q (r.pc + 1) := by
  rw [perform_ends h, hf]
  exact settleOp_outs (c := ctxOf s r) hs

theorem perform_goes {s u : State} {i code pc : Nat} {r q : Run} {f : Graph.Ctx → State → Graph.Ended} (h : AtOperator s i r code)
    (hf : f (ctxOf s r) (inputsOf s r).2.2 = .goes q pc u) : Graph.perform s i code f = Graph.advance u q pc := by
  rw [perform_ends h, hf]
  rfl

theorem perform_stops {s u : State} {i code st : Nat} {n : OpCount} {r : Run} {f : Graph.Ctx → State → Graph.Ended}
    (h : AtOperator s i r code) (hf : f (ctxOf s r) (inputsOf s r).2.2 = .stops st n u) :
    Graph.perform s i code f = Graph.stopRun (Graph.addCounts u n) r st := by
  rw [perform_ends h, hf]
  rfl

theorem perform_waits {s u : State} {i code : Nat} {r : Run} {f : Graph.Ctx → State → Graph.Ended} (h : AtOperator s i r code)
    (hf : f (ctxOf s r) (inputsOf s r).2.2 = .waits u) : Graph.perform s i code f = u := by
  rw [perform_ends h, hf]
  rfl

theorem perform_unready {s : State} {i code : Nat} {r : Run} {f : Graph.Ctx → State → Graph.Ended} (hr : Graph.run s i = some r)
    (hc : Graph.ready s r code = false) : Graph.perform s i code f = s := by
  simp [Graph.perform, hr, hc]

end Sys2Proof.Machine
end

