-- ==== Sys2Proof/Laws/State.lean ====
section
/-! SUPPORT. One equation for each unit of the state and each of the shared updates of `Ops`, so that no later proof unfolds a record update;
and what the Catalogue reads after it was written. -/

namespace Sys2Proof.Machine

@[simp] theorem State.setVal_pending (s : State) (k : Nat) (v : Val) : (s.setVal k v).pending = s.pending := rfl
@[simp] theorem State.setVal_out (s : State) (k : Nat) (v : Val) : (s.setVal k v).out = s.out := rfl
@[simp] theorem State.setVal_free (s : State) (k : Nat) (v : Val) : (s.setVal k v).free = s.free := rfl
@[simp] theorem State.setVal_tide (s : State) (k : Nat) (v : Val) : (s.setVal k v).tide = s.tide := rfl
@[simp] theorem State.setVal_cap (s : State) (k : Nat) (v : Val) : (s.setVal k v).cap = s.cap := rfl
@[simp] theorem State.setVal_log (s : State) (k : Nat) (v : Val) : (s.setVal k v).log = s.log := rfl
@[simp] theorem State.setVal_rst (s : State) (k : Nat) (v : Val) : (s.setVal k v).rst = s.rst := rfl
@[simp] theorem State.setVal_pwr (s : State) (k : Nat) (v : Val) : (s.setVal k v).pwr = s.pwr := rfl
@[simp] theorem State.setVal_strand (s : State) (k : Nat) (v : Val) : (s.setVal k v).strand = s.strand := rfl
@[simp] theorem State.setVal_host (s : State) (k : Nat) (v : Val) : (s.setVal k v).host = s.host := rfl
@[simp] theorem State.setVal_idx (s : State) (k : Nat) (v : Val) : (s.setVal k v).idx = s.idx := rfl
@[simp] theorem State.setVal_qry (s : State) (k : Nat) (v : Val) : (s.setVal k v).qry = s.qry := rfl
@[simp] theorem State.setVal_chg (s : State) (k : Nat) (v : Val) : (s.setVal k v).chg = s.chg := rfl
@[simp] theorem State.setVal_mem (s : State) (k : Nat) (v : Val) : (s.setVal k v).mem = s.mem := rfl
@[simp] theorem State.setVal_key (s : State) (k : Nat) (v : Val) : (s.setVal k v).key = s.key := rfl
@[simp] theorem State.setVal_coh (s : State) (k : Nat) (v : Val) : (s.setVal k v).coh = s.coh := rfl
@[simp] theorem State.setVal_nb (s : State) (k : Nat) (v : Val) : (s.setVal k v).nb = s.nb := rfl
@[simp] theorem State.setVal_flash (s : State) (k : Nat) (v : Val) : (s.setVal k v).flash = s.flash := rfl
@[simp] theorem State.setVal_gph (s : State) (k : Nat) (v : Val) : (s.setVal k v).gph = s.gph := rfl
@[simp] theorem State.setVal_berth (s : State) (k : Nat) (v : Val) : (s.setVal k v).berth = s.berth := rfl
@[simp] theorem State.setVal_tbl (s : State) (k : Nat) (v : Val) : (s.setVal k v).tbl = s.tbl := rfl
@[simp] theorem State.setVal_rel (s : State) (k : Nat) (v : Val) : (s.setVal k v).rel = s.rel := rfl
@[simp] theorem State.setVal_sec (s : State) (k : Nat) (v : Val) : (s.setVal k v).sec = s.sec := rfl

@[simp] theorem State.setNum_pending (s : State) (k v : Nat) : (s.setNum k v).pending = s.pending := rfl
@[simp] theorem State.setNum_out (s : State) (k v : Nat) : (s.setNum k v).out = s.out := rfl
@[simp] theorem State.setNum_free (s : State) (k v : Nat) : (s.setNum k v).free = s.free := rfl
@[simp] theorem State.setNum_tide (s : State) (k v : Nat) : (s.setNum k v).tide = s.tide := rfl
@[simp] theorem State.setNum_cap (s : State) (k v : Nat) : (s.setNum k v).cap = s.cap := rfl
@[simp] theorem State.setNum_log (s : State) (k v : Nat) : (s.setNum k v).log = s.log := rfl
@[simp] theorem State.setNum_rst (s : State) (k v : Nat) : (s.setNum k v).rst = s.rst := rfl
@[simp] theorem State.setNum_pwr (s : State) (k v : Nat) : (s.setNum k v).pwr = s.pwr := rfl
@[simp] theorem State.setNum_strand (s : State) (k v : Nat) : (s.setNum k v).strand = s.strand := rfl
@[simp] theorem State.setNum_host (s : State) (k v : Nat) : (s.setNum k v).host = s.host := rfl
@[simp] theorem State.setNum_idx (s : State) (k v : Nat) : (s.setNum k v).idx = s.idx := rfl
@[simp] theorem State.setNum_qry (s : State) (k v : Nat) : (s.setNum k v).qry = s.qry := rfl
@[simp] theorem State.setNum_chg (s : State) (k v : Nat) : (s.setNum k v).chg = s.chg := rfl
@[simp] theorem State.setNum_mem (s : State) (k v : Nat) : (s.setNum k v).mem = s.mem := rfl
@[simp] theorem State.setNum_key (s : State) (k v : Nat) : (s.setNum k v).key = s.key := rfl
@[simp] theorem State.setNum_coh (s : State) (k v : Nat) : (s.setNum k v).coh = s.coh := rfl
@[simp] theorem State.setNum_nb (s : State) (k v : Nat) : (s.setNum k v).nb = s.nb := rfl
@[simp] theorem State.setNum_flash (s : State) (k v : Nat) : (s.setNum k v).flash = s.flash := rfl
@[simp] theorem State.setNum_gph (s : State) (k v : Nat) : (s.setNum k v).gph = s.gph := rfl
@[simp] theorem State.setNum_berth (s : State) (k v : Nat) : (s.setNum k v).berth = s.berth := rfl
@[simp] theorem State.setNum_tbl (s : State) (k v : Nat) : (s.setNum k v).tbl = s.tbl := rfl
@[simp] theorem State.setNum_rel (s : State) (k v : Nat) : (s.setNum k v).rel = s.rel := rfl
@[simp] theorem State.setNum_sec (s : State) (k v : Nat) : (s.setNum k v).sec = s.sec := rfl

@[simp] theorem State.bump_pending (s : State) (k n : Nat) : (s.bump k n).pending = s.pending := rfl
@[simp] theorem State.bump_out (s : State) (k n : Nat) : (s.bump k n).out = s.out := rfl
@[simp] theorem State.bump_free (s : State) (k n : Nat) : (s.bump k n).free = s.free := rfl
@[simp] theorem State.bump_tide (s : State) (k n : Nat) : (s.bump k n).tide = s.tide := rfl
@[simp] theorem State.bump_cap (s : State) (k n : Nat) : (s.bump k n).cap = s.cap := rfl
@[simp] theorem State.bump_log (s : State) (k n : Nat) : (s.bump k n).log = s.log := rfl
@[simp] theorem State.bump_rst (s : State) (k n : Nat) : (s.bump k n).rst = s.rst := rfl
@[simp] theorem State.bump_pwr (s : State) (k n : Nat) : (s.bump k n).pwr = s.pwr := rfl
@[simp] theorem State.bump_strand (s : State) (k n : Nat) : (s.bump k n).strand = s.strand := rfl
@[simp] theorem State.bump_host (s : State) (k n : Nat) : (s.bump k n).host = s.host := rfl
@[simp] theorem State.bump_idx (s : State) (k n : Nat) : (s.bump k n).idx = s.idx := rfl
@[simp] theorem State.bump_qry (s : State) (k n : Nat) : (s.bump k n).qry = s.qry := rfl
@[simp] theorem State.bump_chg (s : State) (k n : Nat) : (s.bump k n).chg = s.chg := rfl
@[simp] theorem State.bump_mem (s : State) (k n : Nat) : (s.bump k n).mem = s.mem := rfl
@[simp] theorem State.bump_key (s : State) (k n : Nat) : (s.bump k n).key = s.key := rfl
@[simp] theorem State.bump_coh (s : State) (k n : Nat) : (s.bump k n).coh = s.coh := rfl
@[simp] theorem State.bump_nb (s : State) (k n : Nat) : (s.bump k n).nb = s.nb := rfl
@[simp] theorem State.bump_flash (s : State) (k n : Nat) : (s.bump k n).flash = s.flash := rfl
@[simp] theorem State.bump_gph (s : State) (k n : Nat) : (s.bump k n).gph = s.gph := rfl
@[simp] theorem State.bump_berth (s : State) (k n : Nat) : (s.bump k n).berth = s.berth := rfl
@[simp] theorem State.bump_tbl (s : State) (k n : Nat) : (s.bump k n).tbl = s.tbl := rfl
@[simp] theorem State.bump_rel (s : State) (k n : Nat) : (s.bump k n).rel = s.rel := rfl
@[simp] theorem State.bump_sec (s : State) (k n : Nat) : (s.bump k n).sec = s.sec := rfl

@[simp] theorem State.drawFree_pending (s : State) : (s.drawFree.2).pending = s.pending := rfl
@[simp] theorem State.drawFree_out (s : State) : (s.drawFree.2).out = s.out := rfl
@[simp] theorem State.drawFree_tide (s : State) : (s.drawFree.2).tide = s.tide := rfl
@[simp] theorem State.drawFree_cat (s : State) : (s.drawFree.2).cat = s.cat := rfl
@[simp] theorem State.drawFree_cap (s : State) : (s.drawFree.2).cap = s.cap := rfl
@[simp] theorem State.drawFree_log (s : State) : (s.drawFree.2).log = s.log := rfl
@[simp] theorem State.drawFree_rst (s : State) : (s.drawFree.2).rst = s.rst := rfl
@[simp] theorem State.drawFree_pwr (s : State) : (s.drawFree.2).pwr = s.pwr := rfl
@[simp] theorem State.drawFree_strand (s : State) : (s.drawFree.2).strand = s.strand := rfl
@[simp] theorem State.drawFree_host (s : State) : (s.drawFree.2).host = s.host := rfl
@[simp] theorem State.drawFree_idx (s : State) : (s.drawFree.2).idx = s.idx := rfl
@[simp] theorem State.drawFree_qry (s : State) : (s.drawFree.2).qry = s.qry := rfl
@[simp] theorem State.drawFree_chg (s : State) : (s.drawFree.2).chg = s.chg := rfl
@[simp] theorem State.drawFree_mem (s : State) : (s.drawFree.2).mem = s.mem := rfl
@[simp] theorem State.drawFree_key (s : State) : (s.drawFree.2).key = s.key := rfl
@[simp] theorem State.drawFree_coh (s : State) : (s.drawFree.2).coh = s.coh := rfl
@[simp] theorem State.drawFree_nb (s : State) : (s.drawFree.2).nb = s.nb := rfl
@[simp] theorem State.drawFree_flash (s : State) : (s.drawFree.2).flash = s.flash := rfl
@[simp] theorem State.drawFree_gph (s : State) : (s.drawFree.2).gph = s.gph := rfl
@[simp] theorem State.drawFree_berth (s : State) : (s.drawFree.2).berth = s.berth := rfl
@[simp] theorem State.drawFree_tbl (s : State) : (s.drawFree.2).tbl = s.tbl := rfl
@[simp] theorem State.drawFree_rel (s : State) : (s.drawFree.2).rel = s.rel := rfl
@[simp] theorem State.drawFree_sec (s : State) : (s.drawFree.2).sec = s.sec := rfl

@[simp] theorem State.drawRandom_pending (s : State) : (s.drawRandom.2).pending = s.pending := rfl
@[simp] theorem State.drawRandom_out (s : State) : (s.drawRandom.2).out = s.out := rfl
@[simp] theorem State.drawRandom_tide (s : State) : (s.drawRandom.2).tide = s.tide := rfl
@[simp] theorem State.drawRandom_cat (s : State) : (s.drawRandom.2).cat = s.cat := rfl
@[simp] theorem State.drawRandom_cap (s : State) : (s.drawRandom.2).cap = s.cap := rfl
@[simp] theorem State.drawRandom_log (s : State) : (s.drawRandom.2).log = s.log := rfl
@[simp] theorem State.drawRandom_rst (s : State) : (s.drawRandom.2).rst = s.rst := rfl
@[simp] theorem State.drawRandom_pwr (s : State) : (s.drawRandom.2).pwr = s.pwr := rfl
@[simp] theorem State.drawRandom_strand (s : State) : (s.drawRandom.2).strand = s.strand := rfl
@[simp] theorem State.drawRandom_host (s : State) : (s.drawRandom.2).host = s.host := rfl
@[simp] theorem State.drawRandom_idx (s : State) : (s.drawRandom.2).idx = s.idx := rfl
@[simp] theorem State.drawRandom_qry (s : State) : (s.drawRandom.2).qry = s.qry := rfl
@[simp] theorem State.drawRandom_chg (s : State) : (s.drawRandom.2).chg = s.chg := rfl
@[simp] theorem State.drawRandom_mem (s : State) : (s.drawRandom.2).mem = s.mem := rfl
@[simp] theorem State.drawRandom_key (s : State) : (s.drawRandom.2).key = s.key := rfl
@[simp] theorem State.drawRandom_coh (s : State) : (s.drawRandom.2).coh = s.coh := rfl
@[simp] theorem State.drawRandom_nb (s : State) : (s.drawRandom.2).nb = s.nb := rfl
@[simp] theorem State.drawRandom_flash (s : State) : (s.drawRandom.2).flash = s.flash := rfl
@[simp] theorem State.drawRandom_gph (s : State) : (s.drawRandom.2).gph = s.gph := rfl
@[simp] theorem State.drawRandom_berth (s : State) : (s.drawRandom.2).berth = s.berth := rfl
@[simp] theorem State.drawRandom_tbl (s : State) : (s.drawRandom.2).tbl = s.tbl := rfl
@[simp] theorem State.drawRandom_rel (s : State) : (s.drawRandom.2).rel = s.rel := rfl
@[simp] theorem State.drawRandom_sec (s : State) : (s.drawRandom.2).sec = s.sec := rfl

@[simp] theorem State.emit_pending (s : State) (o : Output) : (s.emit o).pending = s.pending := rfl
@[simp] theorem State.emit_free (s : State) (o : Output) : (s.emit o).free = s.free := rfl
@[simp] theorem State.emit_tide (s : State) (o : Output) : (s.emit o).tide = s.tide := rfl
@[simp] theorem State.emit_cat (s : State) (o : Output) : (s.emit o).cat = s.cat := rfl
@[simp] theorem State.emit_cap (s : State) (o : Output) : (s.emit o).cap = s.cap := rfl
@[simp] theorem State.emit_log (s : State) (o : Output) : (s.emit o).log = s.log := rfl
@[simp] theorem State.emit_rst (s : State) (o : Output) : (s.emit o).rst = s.rst := rfl
@[simp] theorem State.emit_pwr (s : State) (o : Output) : (s.emit o).pwr = s.pwr := rfl
@[simp] theorem State.emit_strand (s : State) (o : Output) : (s.emit o).strand = s.strand := rfl
@[simp] theorem State.emit_host (s : State) (o : Output) : (s.emit o).host = s.host := rfl
@[simp] theorem State.emit_idx (s : State) (o : Output) : (s.emit o).idx = s.idx := rfl
@[simp] theorem State.emit_qry (s : State) (o : Output) : (s.emit o).qry = s.qry := rfl
@[simp] theorem State.emit_chg (s : State) (o : Output) : (s.emit o).chg = s.chg := rfl
@[simp] theorem State.emit_mem (s : State) (o : Output) : (s.emit o).mem = s.mem := rfl
@[simp] theorem State.emit_key (s : State) (o : Output) : (s.emit o).key = s.key := rfl
@[simp] theorem State.emit_coh (s : State) (o : Output) : (s.emit o).coh = s.coh := rfl
@[simp] theorem State.emit_nb (s : State) (o : Output) : (s.emit o).nb = s.nb := rfl
@[simp] theorem State.emit_flash (s : State) (o : Output) : (s.emit o).flash = s.flash := rfl
@[simp] theorem State.emit_gph (s : State) (o : Output) : (s.emit o).gph = s.gph := rfl
@[simp] theorem State.emit_berth (s : State) (o : Output) : (s.emit o).berth = s.berth := rfl
@[simp] theorem State.emit_tbl (s : State) (o : Output) : (s.emit o).tbl = s.tbl := rfl
@[simp] theorem State.emit_rel (s : State) (o : Output) : (s.emit o).rel = s.rel := rfl
@[simp] theorem State.emit_sec (s : State) (o : Output) : (s.emit o).sec = s.sec := rfl

@[simp] theorem State.wakeCluster_pending (s : State) (c : Nat) : (s.wakeCluster c).pending = s.pending := rfl
@[simp] theorem State.wakeCluster_out (s : State) (c : Nat) : (s.wakeCluster c).out = s.out := rfl
@[simp] theorem State.wakeCluster_free (s : State) (c : Nat) : (s.wakeCluster c).free = s.free := rfl
@[simp] theorem State.wakeCluster_tide (s : State) (c : Nat) : (s.wakeCluster c).tide = s.tide := rfl
@[simp] theorem State.wakeCluster_cat (s : State) (c : Nat) : (s.wakeCluster c).cat = s.cat := rfl
@[simp] theorem State.wakeCluster_cap (s : State) (c : Nat) : (s.wakeCluster c).cap = s.cap := rfl
@[simp] theorem State.wakeCluster_log (s : State) (c : Nat) : (s.wakeCluster c).log = s.log := rfl
@[simp] theorem State.wakeCluster_pwr (s : State) (c : Nat) : (s.wakeCluster c).pwr = s.pwr := rfl
@[simp] theorem State.wakeCluster_strand (s : State) (c : Nat) : (s.wakeCluster c).strand = s.strand := rfl
@[simp] theorem State.wakeCluster_host (s : State) (c : Nat) : (s.wakeCluster c).host = s.host := rfl
@[simp] theorem State.wakeCluster_idx (s : State) (c : Nat) : (s.wakeCluster c).idx = s.idx := rfl
@[simp] theorem State.wakeCluster_qry (s : State) (c : Nat) : (s.wakeCluster c).qry = s.qry := rfl
@[simp] theorem State.wakeCluster_chg (s : State) (c : Nat) : (s.wakeCluster c).chg = s.chg := rfl
@[simp] theorem State.wakeCluster_mem (s : State) (c : Nat) : (s.wakeCluster c).mem = s.mem := rfl
@[simp] theorem State.wakeCluster_key (s : State) (c : Nat) : (s.wakeCluster c).key = s.key := rfl
@[simp] theorem State.wakeCluster_coh (s : State) (c : Nat) : (s.wakeCluster c).coh = s.coh := rfl
@[simp] theorem State.wakeCluster_nb (s : State) (c : Nat) : (s.wakeCluster c).nb = s.nb := rfl
@[simp] theorem State.wakeCluster_flash (s : State) (c : Nat) : (s.wakeCluster c).flash = s.flash := rfl
@[simp] theorem State.wakeCluster_gph (s : State) (c : Nat) : (s.wakeCluster c).gph = s.gph := rfl
@[simp] theorem State.wakeCluster_berth (s : State) (c : Nat) : (s.wakeCluster c).berth = s.berth := rfl
@[simp] theorem State.wakeCluster_tbl (s : State) (c : Nat) : (s.wakeCluster c).tbl = s.tbl := rfl
@[simp] theorem State.wakeCluster_rel (s : State) (c : Nat) : (s.wakeCluster c).rel = s.rel := rfl
@[simp] theorem State.wakeCluster_sec (s : State) (c : Nat) : (s.wakeCluster c).sec = s.sec := rfl

@[simp] theorem State.wakeAll_pending (s : State) : (s.wakeAll).pending = s.pending := rfl
@[simp] theorem State.wakeAll_out (s : State) : (s.wakeAll).out = s.out := rfl
@[simp] theorem State.wakeAll_free (s : State) : (s.wakeAll).free = s.free := rfl
@[simp] theorem State.wakeAll_tide (s : State) : (s.wakeAll).tide = s.tide := rfl
@[simp] theorem State.wakeAll_cat (s : State) : (s.wakeAll).cat = s.cat := rfl
@[simp] theorem State.wakeAll_cap (s : State) : (s.wakeAll).cap = s.cap := rfl
@[simp] theorem State.wakeAll_log (s : State) : (s.wakeAll).log = s.log := rfl
@[simp] theorem State.wakeAll_pwr (s : State) : (s.wakeAll).pwr = s.pwr := rfl
@[simp] theorem State.wakeAll_strand (s : State) : (s.wakeAll).strand = s.strand := rfl
@[simp] theorem State.wakeAll_host (s : State) : (s.wakeAll).host = s.host := rfl
@[simp] theorem State.wakeAll_idx (s : State) : (s.wakeAll).idx = s.idx := rfl
@[simp] theorem State.wakeAll_qry (s : State) : (s.wakeAll).qry = s.qry := rfl
@[simp] theorem State.wakeAll_chg (s : State) : (s.wakeAll).chg = s.chg := rfl
@[simp] theorem State.wakeAll_mem (s : State) : (s.wakeAll).mem = s.mem := rfl
@[simp] theorem State.wakeAll_key (s : State) : (s.wakeAll).key = s.key := rfl
@[simp] theorem State.wakeAll_coh (s : State) : (s.wakeAll).coh = s.coh := rfl
@[simp] theorem State.wakeAll_nb (s : State) : (s.wakeAll).nb = s.nb := rfl
@[simp] theorem State.wakeAll_flash (s : State) : (s.wakeAll).flash = s.flash := rfl
@[simp] theorem State.wakeAll_gph (s : State) : (s.wakeAll).gph = s.gph := rfl
@[simp] theorem State.wakeAll_berth (s : State) : (s.wakeAll).berth = s.berth := rfl
@[simp] theorem State.wakeAll_tbl (s : State) : (s.wakeAll).tbl = s.tbl := rfl
@[simp] theorem State.wakeAll_rel (s : State) : (s.wakeAll).rel = s.rel := rfl
@[simp] theorem State.wakeAll_sec (s : State) : (s.wakeAll).sec = s.sec := rfl

@[simp] theorem State.emit_out (s : State) (o : Output) : (s.emit o).out = s.out ++ [o] := rfl
@[simp] theorem State.drawFree_free (s : State) : s.drawFree.2.free = s.free + 1 := rfl

theorem lookup_pair (a j : Nat) (b : Val) (l : List (Nat × Val)) : ((a, b) :: l).lookup j = if j = a then some b else l.lookup j := by
  by_cases h : j = a
  · simp [List.lookup, h]
  · simp [List.lookup, h, beq_eq_false_iff_ne.mpr h]

theorem lookup_putKey (k j : Nat) (v : Val) (l : List (Nat × Val)) : (putKey k v l).lookup j = if j = k then some v else l.lookup j := by
  induction l with
  | nil => simp [putKey, lookup_pair]
  | cons p r ih =>
    obtain ⟨k', v'⟩ := p
    unfold putKey
    split
    · simp only [lookup_pair]
    · split
      · simp only [lookup_pair]; split <;> simp_all
      · simp only [lookup_pair, ih]; split <;> split <;> simp_all

theorem lookup_dropKey (k j : Nat) (l : List (Nat × Val)) : (dropKey k l).lookup j = if j = k then none else l.lookup j := by
  induction l with
  | nil => simp [dropKey]
  | cons p r ih =>
    obtain ⟨k', v'⟩ := p
    unfold dropKey at ih
    by_cases h : k' = k
    · simp [dropKey, h, lookup_pair, ih]; split <;> simp_all
    · simp [dropKey, h, lookup_pair, ih]; split <;> split <;> simp_all

/-- R542: an entry reads the value written to it last, and a write touches no other entry. -/
@[simp] theorem CatUnit.get_put (c : CatUnit) (k j : Nat) (v : Val) : (c.put k v).get j = if j = k then v else c.get j := by
  unfold CatUnit.get CatUnit.put
  by_cases h : v = dfltOf k <;> by_cases hj : j = k <;> simp [h, hj, lookup_putKey, lookup_dropKey]

@[simp] theorem State.num_setNum (s : State) (k j v : Nat) : (s.setNum k v).num j = if j = k then v else s.num j := by
  simp only [State.num, State.setNum, State.setVal, CatUnit.get_put]
  split <;> rfl

@[simp] theorem State.num_bump (s : State) (k j n : Nat) : (s.bump k n).num j = if j = k then s.num k + n else s.num j := by
  simp [State.bump]

end Sys2Proof.Machine
end

