-- ==== Sys2Proof/Tests/Slice0.lean ====
section
/-! SUPPORT. Own tests: that the checks of WellFormed refuse what they should, and for each statement with hypotheses
a state and operands that meet them together. -/

namespace Sys2Proof.Tests

set_option maxRecDepth 65536
set_option linter.unusedVariables false
set_option Elab.async false

open Sys2Proof Sys2Proof.Machine

/-! The checks of WellFormed: each refuses a term just outside it. -/

def frame0 : Frame := ⟨0, 0, false, 0, 0, 0, 0, 0, 0, 0, 0, 0, []⟩
def req0 : CapReq := ⟨.mailbox, 1, 0, 0, 0, 0, 0, 0, 0, 0, 0, 0, 0, []⟩
def change0 : Change := ⟨0, 0, 1, false, false, [], [], 0, 0⟩

theorem test_blocks_and_ports_are_checked :
    Instr.wf (.tideBeacon 6 (List.replicate 16 0)) = false ∧ Instr.wf (.hello 0 (List.replicate 15 0)) = false ∧
    Instr.wf (.tideInEdge 0 none) = false ∧ Instr.wf (.tideInEdge 5 (some 1024)) = false ∧ Instr.wf (.signalDetect 6) = false ∧
    Instr.wf (.alignDone 0 512 false 0) = false ∧ Instr.wf (.tideBeacon 5 (List.replicate 16 0)) = true := by decide

theorem test_frames_are_checked :
    [({ frame0 with kind := 256 } : Frame), { frame0 with cls := 16 }, { frame0 with hops := 256 }, { frame0 with vc := 3 },
     { frame0 with dest := 2 ^ 20 }, { frame0 with src := 2 ^ 20 }, { frame0 with job := 65536 }, { frame0 with seq := 2 ^ 32 },
     { frame0 with addr := 2 ^ 64 }, { frame0 with status := 256 }, { frame0 with param := 65536 }, { frame0 with payload := [0] }].map Frame.wf
      = List.replicate 12 false ∧ frame0.wf = true := by decide

theorem test_requests_are_checked :
    [({ req0 with path := .field (2 ^ 48) false } : CapReq), { req0 with path := .strand (2 ^ 20) 0 }, { req0 with path := .strand 0 16 },
     { req0 with version := 256 }, { req0 with op := 256 }, { req0 with flags := 256 }, { req0 with session := 65536 },
     { req0 with seq := 2 ^ 32 }, { req0 with index := 65536 }, { req0 with sub := 256 }, { req0 with typeCode := 256 },
     { req0 with offset := 2 ^ 32 }, { req0 with length := 65536 }, { req0 with tideField := 2 ^ 48 }, { req0 with totalLength := 2 ^ 32 }].map CapReq.wf
      = List.replicate 15 false ∧ req0.wf = true ∧ Instr.wf (.imageStart (.cap { req0 with op := 256 })) = false := by decide

theorem test_changes_are_checked :
    [({ change0 with coll := 256 } : Change), { change0 with shoal := 65536 }, { change0 with item := 2 ^ 64 }, { change0 with intake := 2 ^ 20 },
     { change0 with tag := 2 ^ 32 }].map Change.wf = List.replicate 5 false ∧ change0.wf = true := by decide

theorem test_operands_are_checked :
    [Instr.shoalRelease 256 0, .shoalRelease 0 65536, .fragmentReply (2 ^ 20) [], .hostMemRead 1, .hostMemRead (2 ^ 64),
     .hostMemWrite 0 [], .pageMoveSwitch (.berth 0 (2 ^ 18)), .sweepComplete 4096, .rowcopy 4096, .neighbourRefresh 0 65536, .stackTempRead [],
     .cacheRead 512 0 0, .readOwn 0 0 0 64 [0], .writeLine 0 0 [], .cacheAtomic 0 0 16 [] [], .takeover (2 ^ 24), .unloadComplete 256,
     .writeFlushTimer 32, .queueEnable 64 0, .sqTailDoorbell 0 (2 ^ 32), .msixUnmask 64, .bar0Write 2 4 0, .bar0Write 0 2 0, .linkTrained 9 0,
     .railUndervoltage 7, .releasePoint 16, .drainLimit 5, .slackEntry 32, .junctionSensorRead [], .marginSample [] [] false].map Instr.wf
      = List.replicate 30 false := by decide


/-! States that the hypotheses of the statements meet: a node in service at Tide 100,000, and one change each. -/

/-- A follower in service: Locked, every domain released, the link up, flash ready, the generator healthy. -/
def base : State :=
  { State.reset with
    rst := { State.reset.rst with asserted := none, released := [1, 2, 3, 4, 5, 6, 7, 8, 9], pause := .none }
    tide := { State.reset.tide with running := true, count := 100000, state := .locked, anyEdge := true }
    host := { State.reset.host with linkUp := true, enable := true, ready := true }
    flash := { State.reset.flash with enumerated := true }
    sec := ⟨[], [], [], [], none, 1, 0, []⟩ }.setNum Ent.flashReady 1

/-- The same with the Tide unit otherwise. -/
def withTide (f : TideUnit → TideUnit) : State := { base with tide := f base.tide }

def withRst (f : ResetUnit → ResetUnit) : State := { base with rst := f base.rst }

/-- The same with port 5 in a state. -/
def withPort (x : Port) : State := { base with strand := { base.strand with ports := List.replicate 5 Port.cold ++ [x] } }

def port (st : PortState) : Port := { Port.cold with state := st, mask := 255 }

/-- A control block of a type with the bytes given, sealed. -/
def block (type : Nat) (b : Bytes) : Bytes := sealBlock (BitVec.ofNat 8 type :: b)

def withStrand (f : StrandUnit → StrandUnit) : State := { base with strand := f base.strand }

/-- A frame of a kind, and a request of that kind sent at Tide 99,000. -/
def frame (kind : Nat) : Frame := { frame0 with kind := kind, seq := 7 }

def asked (kind : Nat) : Request := ⟨frame kind, 99000, 99000, .none, false, false⟩

def withAsked (kind : Nat) : State := withStrand fun x => { x with requests := [asked kind] }

def withHost (f : HostUnit → HostUnit) : State := { base with host := f base.host }

/-- The same with pair 63 as given. -/
def withPair (x : Pair) : State := withHost fun h => { h with pairs := List.replicate 63 Pair.cold ++ [x] }

/-- The same with one command fetched, number 1. -/
def withCmd (op : Nat) (desc : Bytes) : State := withHost fun h => { h with cmds := [⟨1, 0, op, 0, desc, false, false, false, none, []⟩] }

def cmdOf (op : Nat) (desc : Bytes) : HostCmd := ⟨1, 0, op, 0, desc, false, false, false, none, []⟩

/-- Collection slot 255 Open: one shoal here, Hamming on 128 bits, owner slot 1 Active. -/
def openColl : State :=
  ((((((({ base with key := ⟨[(1, 1)], [], []⟩ } : State).setNum (Ent.collStCollectionState 255) 2).setNum (Ent.collMetric 255) 3).setNum
    (Ent.collFormat 255) 5).setNum (Ent.collDimension 255) 128).setNum (Ent.collShoalCount 255) 1).setNum (Ent.collOwnerSlot 255) 1).setVal
    (Ent.collShoalMap 255) (.b (List.replicate 8 0))

/-- Bytes with numbers put at offsets: offset, width, value. -/
def words (n : Nat) (l : List (Nat × Nat × Nat)) : Bytes := l.foldl (fun b x => splice b x.1 (leBytes x.2.1 x.2.2)) (List.replicate n 0)

def copyOf (st : CopyState) : ShoalCopy := ⟨255, 0, false, st, 0, 0, 0, true, 0, false, [], none, false, 0, none, none, false⟩

def withCopy (x : ShoalCopy) : State := { base with idx := { base.idx with copies := [x] } }

def fragment0 : Fragment := ⟨3, 0, 0, 0, true, 0, 0, 0, 1, 1, false, [], [], [], false, 0, [], [], [], 0, 0, 0, [], 0, [], false⟩

/-- The same with a verification read of slot 2 that returned no record of it. -/
def fragment1 : Fragment := { fragment0 with cutoff := 2 ^ 40, cands := [⟨2, 9, 0, 0, 0, 0, true⟩], reads := [(2, false)] }

/-- The host range committed at 2 to the 28, its owner slot 1 Active, its first page in stack memory. -/
def withHdm : State :=
  (({ base with
    key := ⟨[(1, 1)], [], []⟩
    host := { base.host with hdmCommitted := true, hdmBase := 2 ^ 28 }
    mem := { base.mem with pages := [⟨.hdm 0, 1, false, .stack 65536, 0, [], [], 0, false, 0, false, false⟩] } } : State).setNum Ent.hdmBytes (2 ^ 28)).setNum
    Ent.hdmOwnerSlot 1

/-- The same with that page in flash. -/
def withHdmFlash : State := { withHdm with mem := { withHdm.mem with pages := withHdm.mem.pages.map fun p => { p with tier := .flash } } }

/-- Bank 4095 with a sequence at its front. -/
def withSeq (running : Bool) (left : List (Nat × NbCmd)) : State :=
  { base with nb := { base.nb with banks := [{ Nb.bank base 4095 with queue := [⟨1, 0, 0, [], left, 1, 0, [], 0, 0, [], 0, 0, none⟩], running := running }] } }

def withLine (st : CState) : State := { base with coh := { base.coh with l1 := [⟨511, 0, st, [], none⟩] } }

/-! Graph runs, berths, tables, flash. -/

/-- An operator entry of an opcode, every tensor place empty but as given. -/
def opBytes (code : Nat) (l : List (Nat × Nat × Nat)) : Bytes :=
  words 64 ((0, 2, code) :: (4, 8, 2 ^ 64 - 1) :: (12, 4, 2 ^ 32 - 1) :: (16, 6, 2 ^ 48 - 1) :: l)

/-- An image of one tensor (int8, 32 elements) and one operator. -/
def imageOf1 (op : Bytes) (l : List (Nat × Nat × Nat)) : Bytes :=
  splice (words 256 ([(10, 2, 1), (12, 2, 1), (48, 8, 128), (56, 8, 192), (128, 1, 2), (129, 1, 5), (130, 1, 1), (136, 4, 32)] ++ l)) 192 op

def run0 : Run := ⟨1, .command 1, 255, 1, 99000, 0, 0, none, false, false, 0, [], [], none, 0, [], [], [], 0, false, 0, []⟩

def slotOf (st : SlotStage) (img : Bytes) (u : Option Nat) : GraphSlot := ⟨255, st, img, 0, 1, 0, 0, 0, [], 0, u, [], [none, none], 0, none⟩

/-- A state with one run at the operator of slot 255's image, owner slot 1 Active. -/
def withRun (r : Run) (img : Bytes) : State :=
  { base with key := ⟨[(1, 1)], [], []⟩, gph := ⟨[slotOf .loaded img none], [r], 2, [], []⟩ }

/-- One run at the first operator of an image, the first half of the window filled for it. -/
def withFilled (img : Bytes) : State :=
  { withRun run0 img with gph := ⟨[{ slotOf .loaded img none with halves := [some ⟨1, 0, 0, 0, []⟩, none] }], [run0], 2, [], []⟩ }

/-- An image of NB_MATVEC: a matrix of one row of 32 int8, an int8 vector and the scale of both. -/
def matvecImage : Bytes :=
  words 384 [(10, 2, 3), (12, 2, 1), (48, 8, 128), (56, 8, 320), (128, 1, 5), (129, 1, 5), (130, 1, 2), (132, 2, 2), (136, 4, 1), (140, 4, 32),
    (193, 1, 5), (194, 1, 1), (196, 2, 2), (200, 4, 32), (257, 1, 1), (258, 1, 1), (260, 2, 65535), (264, 4, 1), (320, 2, Op.nbMatvec),
    (326, 2, 1), (328, 8, 2 ^ 64 - 1), (336, 6, 2 ^ 48 - 1)]

/-- A run at it, the matrix in a Plane page. -/
def withMatrix : State :=
  { withRun run0 matvecImage with
    mem := { base.mem with fixed := [⟨65536, 1, true⟩] }
    gph := ⟨[{ slotOf .loaded matvecImage none with places := [(0, [65536])] }], [run0], 2, [], []⟩ }

/-- A run whose Input tensor 0 is a filter program. -/
def filterRun : Run := { run0 with tensors := [(0, (words 32 [(0, 2, 1), (2, 1, 1), (9, 1, 10)]).map (·.toNat))] }

def geo0 : Geometry := ⟨1, 1, 64, 5, 512, 1⟩

/-- Berth 5 of this node, Resident. -/
def berth0 : OwnedBerth :=
  ⟨5, .resident, 1, geo0, false, [0], 1, 200000, 99000, false, 0, none, [], [], [], [], 0, false, false, .none, none, [], false, 99000⟩

/-- The same with one token used. -/
def berth1 : OwnedBerth := { berth0 with tokens := [1] }

/-- The same with the pages of berth 5 in stack memory, page 0 a Plane page of tiles. -/
def withPages (s : State) : State :=
  { s with mem := { s.mem with pages := (List.range 4).map fun n => ⟨.berth 5 n, 1, n == 0, .stack (65536 * (n + 1)), 0, [], [], 0, false, 0, false, false⟩ } }

def withBerth (s : State) (b : OwnedBerth) : State := { s with berth := { s.berth with owned := [b] } }

def home0 (st : BerthState) : HomeBerth := ⟨5, st, 1, geo0, false, none, 0, 0, ⟨0, 1, 99999, false, false⟩, [0], 0, false, [], 0, none, 0, false, []⟩

/-- Table slot 0 Open: TableId 7, 8 rows of 64 int8, one shoal here, owner slot 1 Active. -/
def openTable (mode : Nat) : State :=
  (((((((((({ base with key := ⟨[(1, 1)], [], []⟩, mem := { base.mem with exported := 2 } } : State).setNum (Ent.tableStTableState 0) 2).setNum
    (Ent.tableTableId 0) 7).setNum (Ent.tableOwnerSlot 0) 1).setNum (Ent.tableMode 0) mode).setNum (Ent.tableRowFormat 0) 5).setNum
    (Ent.tableRowElements 0) 64).setNum (Ent.tableRowCount 0) 8).setNum (Ent.tableShoalCount 0) 1).setVal
    (Ent.tableShoalMap 0) (.b (List.replicate 4 0))).setVal Ent.compositionMap (.b (words 8 [(4, 1, 1)]))

/-- An image of one operator over table 7: tensor 0 is an int8 matrix of one row of 64, tensor 1 an int32 vector of one element. -/
def tableImage (code : Nat) (l : List (Nat × Nat × Nat)) : Bytes :=
  splice (words 320 [(10, 2, 2), (12, 2, 1), (48, 8, 128), (56, 8, 256), (129, 1, 5), (130, 1, 2), (132, 2, 65535), (136, 4, 1), (140, 4, 64),
    (193, 1, 7), (194, 1, 1), (196, 2, 65535), (200, 4, 1)]) 256 (opBytes code ((6, 2, 1) :: (22, 4, 7) :: l))

/-- A run at it that looks at row 3, tensor 0 all ones. -/
def tableRun : Run := { run0 with stamp := 99999, tensors := [(0, List.replicate 64 1), (1, [3])] }

def withTableRun (code : Nat) (l : List (Nat × Nat × Nat)) : State :=
  { openTable 0 with gph := (withRun tableRun (tableImage code l)).gph }.setNum Ent.mergeQueueRows 16

def withCmdIn (s : State) (op : Nat) (desc : Bytes) : State := { s with host := { s.host with cmds := [cmdOf op desc] } }

/-- A command on berth 5, whose home is here; owner slot 1 is Active. -/
def onBerth (op : Nat) (l : List (Nat × Nat × Nat)) (owned : List OwnedBerth) (homes : List HomeBerth) : State :=
  { withCmdIn { base with key := ⟨[(1, 1)], [], []⟩ } op (words 64 ((16, 8, 5) :: l)) with
    berth := { base.berth with owned := owned, homes := homes } }.setVal Ent.compositionMap (.b (words 16 [(4, 1, 1), (8, 4, 1), (12, 1, 1)]))

/-- The same table with its shoal on node 1, behind port 4, and one command. -/
def farTable (desc : Bytes) : State :=
  ((withCmdIn { openTable 0 with strand := { base.strand with dimZ := 2, ports := List.replicate 4 Port.cold ++ [port .up, Port.cold] } } 0x30 desc).setVal
    (Ent.tableShoalMap 0) (.b (words 4 [(0, 4, 1)]))).setVal Ent.compositionMap (.b (words 16 [(4, 1, 1), (8, 4, 1), (12, 1, 1)]))

def chan0 : Chan := ⟨31, 3600, 1, 1, [0], [false], 2 ^ 40, 4, 2, 8, 0, 0, 1, [], [], [], 0⟩

def block0 (st : BlockStage) : Block := ⟨31, 7, st, 0, 0, 0, false, 0, 0, false, 0, 0, []⟩

def withFlash (f : FlashUnit → FlashUnit) : State := { base with flash := f { base.flash with chans := [chan0] } }

def cause0 (l : Nat) : Cause := ⟨1, l, 0, 0, 0, 99999⟩

def withRel (f : RelUnit → RelUnit) : State := { base with rel := f base.rel }

/-! A graph image signed with RSASSA-PSS. -/

def signModulus : Nat := 0xd9b1f853a3664b20f8796f471c1d88340696c84f45de8b35ee3a2e24681daeb47db9faedf2390cdfc1b093ae5fb751ffbe81e4f9880b6503fbf3d9a876c5c54bcfdd21166cd134371d2d1ea30262c02ad12a24bec7af71b83dd5d8e20594fc7fc09b1ff72e6cc180d19d611e338c51300f022ca9c02325ee7ae51bcf8f05b08c019c3241cad017fb3e72e0e0dc462c82742fcd67481293b62d96883fb7d6b1bb9a1c30b789d090472546519bedd3a381653b38e45b171505da16071c29cef840980b4c3e7b11322ae43a06ab520cb9b9968332b066a6a0e351e1eba307fadeeee9b8cf34e56a52231cffa971c200bb2fdcd477d899886051e2f88e53678413d895bf0da46d7dc97f537da8021d41cad91037598bb1e3801e85ebb948b7d07710ad02df57cf9625a27b30e4a633907960eaf3f6fcdddb3a2f3a399d4c094ca36165bcfcb124804cd5cbb882613a3872159a273ad0ad6cce70cc7fe8a04a4ba2672d635d954b6b227e4607be82e98d2b7e807b71108dff8af0f69af54cd851146006aae4cc347316a4c4eb6c2daf5a6cff8610f766bc221ae8b04487bf71c0b02bf7a8d67065322fc393bc49b5967ac9e78854143e0c887e700478567cc80e108bd9d9af1f879fee84d00eeca0bee4ae0d09ea3ea754dc60e15cebd26dce7cd366e74886ddeae7738a2d09cac898280d41f7715e21b18b06129fe5da8830a96a49

def signature : Nat := 0x4c35606fdede7453e1ded476185f063a1fd6388c621c86f0eaa9a35c4e130bd435c28c3a46bd0ee1d8365d7edbfd08defd8d599bf4821dea7e3d33bd9f5fe3dcda680afa9b1473135aac9813bcefe5438243cbbb2227bb7bd7e49f03f0effe3254f3e3994a77fa843a4737996c1eb0e35e8dc0fc7fe02db6c74d602a7910063d10ad1218bc1d70b6f78339d3f57d3e7e5e202365c1e8b08f48cbd31785439ec07862e64cce708c1534a7549253c61b2868444a8f2d7403d2f368546fbe621a054748c4650ef8837a0cf10b62adc41841d5b369d2e078d9b362d35b5fadefb6a8049733660ca2601873b0253caed4db7ccb822f7b5c4de212da5fc2015364d7f701bd5c5510336e561cf0fd7a55f421934edbb6b0d4b22e44746f834b1483cba4ea42d5534bcdf842dd9fd44f499952697f9e6aed8857c519c3bada326ae5c9de0516862e7ad15811d873d597dc7556d376a527ef49f9dba4978577a5b01e45cdfeeb764c5cd29708cc5f3c2c07b496541e2f76a4e4953d40f769afe1000aedac0c0b5ad645af356f327238cc298d2e1a33ce61a838cf947ed678ce18387250511c46ddf8368aa66b8b9063813041bc8cba4318cdb044f9eef8b4e4392ef25ea6a19e1d8164053a6d94c0a176f012716a33fc589debab2e53b06aa6e5dff4ff98c58ee2385547b546efc0cea062dd4292c5fb01826ff2ff2a3062713339f92e3f

def signedImage : Bytes :=
  words 320 [(0, 4, 826758733), (4, 2, 1), (7, 1, 7), (8, 2, 1), (10, 2, 2), (12, 2, 1), (32, 8, 18117211173581988424), (40, 8, 832), (48, 8, 128), (56, 8, 256), (64, 8, 320), 
    (128, 1, 0), (129, 1, 5), (130, 1, 1), (132, 2, 65535), (136, 4, 32), (140, 4, 1), (144, 4, 1), (148, 4, 1), (192, 1, 1), (193, 1, 5), (194, 1, 1), (196, 2, 65535), (200, 4, 32), (204, 4, 1), (208, 4, 1), (212, 4, 1), 
    (256, 2, 2), (260, 2, 0), (262, 8, 18446744073709551615), (270, 2, 65535), (272, 2, 1), (274, 4, 4294967295)] ++ beBytes 512 signature

/-- An operation that ends with OK, by its parts. -/
theorem ends_ok {α β : Type} {p : Nat × α × β} (h : p.1 = St.ok) : p = (St.ok, p.2.1, p.2.2) := Prod.ext h rfl

theorem is_some {α : Type} {x : Option α} (h : x.isSome = true) : x = some (x.get h) := (Option.some_get h).symm

/-- A lookup that waits, by its parts. -/
theorem waits {p : Bool × Nat × Bytes × State} (h : p.1 = false ∧ p.2.1 = St.ok ∧ p.2.2.1 = []) : p = (false, St.ok, [], p.2.2.2) :=
  Prod.ext h.1 (Prod.ext h.2.1 (Prod.ext h.2.2 rfl))

/-- A lookup that ends, by its parts. -/
theorem ready_ok {p : Bool × Nat × Bytes × State} (h : p.1 = true ∧ p.2.1 = St.ok) : p = (true, St.ok, p.2.2.1, p.2.2.2) :=
  Prod.ext h.1 (Prod.ext h.2 rfl)

/-- The outputs of an operator are stored wherever no store ends with an error. -/
theorem stores_ends {s : State} {c : Graph.Ctx} {o : OpOut}
    (h : (Graph.storeOuts (Graph.addCounts s o.count) c.run c.image (Graph.written c.entry o)).1 = St.ok) :
    Stores s c o (Graph.storeOuts (Graph.addCounts s o.count) c.run c.image (Graph.written c.entry o)).2.1
      (Graph.storeOuts (Graph.addCounts s o.count) c.run c.image (Graph.written c.entry o)).2.2 := Prod.ext h rfl

theorem test_meets_TideCommandsComplete_1 :
  (∃ (s : State), s.tide.running = true ∧ s.tide.master = true) ∧
  (∃ (s : State), follows s = true ∧ s.tide.count ≠ 0) ∧
  (∃ (n : Nat) (s : State), follows s = true ∧ frameCount s.tide.symbols = some n) ∧
  (∃ (i : Nat) (f : Option Nat) (s : State), follows s = true ∧ s.tide.state = .locked ∧ s.tide.inWindow (s.tide.elapsed i) = true ∧ (noteEdge s i (classify f)).tide.periodFault = false) :=
  ⟨⟨(withTide fun t => { t with master := true }), by decide +kernel⟩,
   ⟨base, by decide +kernel⟩,
   ⟨64, (withTide fun t => { t with symbols := Symbol.marker :: List.replicate 63 .zero }), by decide +kernel⟩,
   ⟨100000, none, base, by decide +kernel⟩⟩

theorem test_meets_TideCommandsComplete_2 :
  (∃ (p : Nat) (b : Bytes) (s : State), portIn s p .up = true ∧ blockOk 1 b = true ∧ field b 1 1 % 4 = 1 ∧ s.tide.state = .acquiring ∧ follows s = true ∧ s.tide.count = 0 ∧ s.tide.anyEdge = true) ∧
  (∃ (s : State), s.tide.running = true) ∧
  (∃ (s : State), s.tide.running = false ∧ s.up 6 = true ∧ s.rst.romStarting = true ∧ s.rst.recovery = false ∧ s.rst.identityFault = false) :=
  ⟨⟨5, block 1 [1], ({ withPort (port .up) with tide := { base.tide with state := .acquiring, count := 0 } }), by decide +kernel⟩,
   ⟨base, by decide +kernel⟩,
   ⟨({ base with tide := TideUnit.cold, rst := { base.rst with romStarting := true } }), by decide +kernel⟩⟩

theorem test_meets_PortTrainingCompletes_1 :
  (∃ (p : Nat) (s : State), portIn s p .detect = true) ∧
  (∃ (p : Nat) (s : State), portIn s p .equalise = true) ∧
  (∃ (p l : Nat) (r : Bool) (q : Nat) (use : List Nat) (s : State), portIn s p .align = true ∧ use = chooseLanes (if (s.port p).fourLanes then ((laneList l).filter fun i => !(s.port p).failed.contains i).take 4 else (laneList l).filter fun i => !(s.port p).failed.contains i) ∧ use ≠ []) ∧
  (∃ (p : Nat) (b : Bytes) (u : State) (s : State), (portIn s p .hello || portIn s p .miswired) = true ∧ blockOk 5 b = true ∧ u = mapPort s p (fun x => { x with neighbour := field b 2 3 % 2 ^ 20 }) ∧ helloPasses u p b = true) :=
  ⟨⟨5, (withPort (port .detect)), by decide +kernel⟩,
   ⟨5, (withPort (port .equalise)), by decide +kernel⟩,
   ⟨5, 15, true, 511, _, (withPort (port .align)), by decide +kernel, rfl, by decide +kernel⟩,
   ⟨5, block 5 [4], _, (withPort (port .hello)), by decide +kernel, by decide +kernel, rfl, by decide +kernel⟩⟩

theorem test_meets_PortTrainingCompletes_2 :
  (∃ (p : Nat) (b : Bytes) (u : State) (s : State), (portIn s p .hello || portIn s p .miswired) = true ∧ blockOk 5 b = true ∧ u = mapPort s p (fun x => { x with neighbour := field b 2 3 % 2 ^ 20 }) ∧ helloPasses u p b = false) ∧
  (∃ (p : Nat) (s : State), (portIn s p .equalise || portIn s p .align) = true) ∧
  (∃ (p : Nat) (s : State), portIn s p .down = true) ∧
  (∃ (p : Nat) (s : State), portIn s p .miswired = true ∧ (s.port p).helloTide + 1024 ≤ s.now) :=
  ⟨⟨5, block 5 [3], _, (withPort (port .miswired)), by decide +kernel, by decide +kernel, rfl, by decide +kernel⟩,
   ⟨5, (withPort (port .align)), by decide +kernel⟩,
   ⟨5, (withPort (port .down)), by decide +kernel⟩,
   ⟨5, (withPort { port .miswired with helloTide := 98976 }), by decide +kernel⟩⟩

theorem test_meets_PortTrafficCompletes_1 :
  (∃ (p : Nat) (b : Bytes) (s : State), portIn s p .up = true ∧ blockOk 6 b = true) ∧
  (∃ (p : Nat) (w : LaneSwitch) (s : State), portRuns s p = true ∧ (s.port p).laneSwitch = some w) ∧
  (∃ (p : Nat) (b : Bytes) (s : State), portIn s p .up = true ∧ blockOk 2 b = true ∧ field b 1 1 / 16 % 4 ≠ 3) ∧
  (∃ (p : Nat) (b : Bytes) (s : State), portIn s p .up = true ∧ blockOk 3 b = true) :=
  ⟨⟨5, block 6 [], (withPort (port .up)), by decide +kernel⟩,
   ⟨5, ⟨8, 0, 510⟩, (withPort { port .up with laneSwitch := some ⟨8, 0, 510⟩ }), by decide +kernel⟩,
   ⟨5, block 2 [0x20], (withPort (port .up)), by decide +kernel⟩,
   ⟨5, block 3 [], (withPort (port .up)), by decide +kernel⟩⟩

theorem test_meets_PortTrafficCompletes_2 :
  (∃ (p : Nat) (b : Bytes) (u : State) (s : State), portIn s p .up = true ∧ blockOk 4 b = true ∧ u = mapPort s p (fun x => { x with retry := x.retry.filter fun r => !linkBefore r.link (field b 1 2) })) ∧
  (∃ (p q : Nat) (ds : List Nat) (s : State), portIn s p .up = true ∧ chooseQueue s p = some (q, ds)) ∧
  (∃ (s : State), s.up 4 = true ∧ s.cfg Ent.histPeriod ≠ 0 ∧ s.now % s.cfg Ent.histPeriod = 0) :=
  ⟨⟨5, block 4 [], _, (withPort (port .up)), by decide +kernel, by decide +kernel, rfl⟩,
   ⟨5, 0, List.replicate 16 0, (withPort { port .up with queues := [⟨frame 1, 0, none, false⟩] :: List.replicate 15 [], credits := List.replicate 48 200 }), by decide +kernel⟩,
   ⟨(withTide fun t => { t with count := 1024 }), by decide +kernel⟩⟩

theorem test_meets_StrandRequestsAreServed_1 :
  (∃ (f : Frame) (s : State), strandRuns s = true ∧ f.kind = Kind.read ∧ f.dest = s.strand.nodeId) ∧
  (∃ (f : Frame) (s : State), strandRuns s = true ∧ f.kind = Kind.write ∧ f.dest = s.strand.nodeId) ∧
  (∃ (f : Frame) (s : State), strandRuns s = true ∧ f.kind = Kind.atomic ∧ f.dest = s.strand.nodeId) ∧
  (∃ (f : Frame) (s : State), strandRuns s = true ∧ f.kind = Kind.register ∧ f.dest = s.strand.nodeId) :=
  ⟨⟨frame Kind.read, base, by decide +kernel⟩,
   ⟨frame Kind.write, base, by decide +kernel⟩,
   ⟨frame Kind.atomic, base, by decide +kernel⟩,
   ⟨frame Kind.register, base, by decide +kernel⟩⟩

theorem test_meets_StrandRequestsAreServed_2 :
  (∃ (f : Frame) (s : State), strandRuns s = true ∧ f.kind = Kind.unregister ∧ f.dest = s.strand.nodeId) ∧
  (∃ (f : Frame) (s : State), strandRuns s = true ∧ f.kind = Kind.publish ∧ f.dest = s.strand.nodeId) ∧
  (∃ (f : Frame) (s : State), strandRuns s = true ∧ f.kind = Kind.invalidate ∧ f.dest = s.strand.nodeId) ∧
  (∃ (f : Frame) (s : State), strandRuns s = true ∧ f.kind = Kind.message) :=
  ⟨⟨frame Kind.unregister, base, by decide +kernel⟩,
   ⟨frame Kind.publish, base, by decide +kernel⟩,
   ⟨frame Kind.invalidate, base, by decide +kernel⟩,
   ⟨frame Kind.message, base, by decide +kernel⟩⟩

theorem test_meets_StrandRequestsAreServed_3 :
  (∃ (c : Instr) (f : Frame) (s : State), strandRuns s = true ∧ f.dest ≠ s.strand.nodeId ∧ f.src = s.strand.nodeId ∧ (c, f.kind) ∈ [(.strandRead f, Kind.read), (.strandWrite f, Kind.write), (.strandAtomic f, Kind.atomic), (.register f, Kind.register), (.unregister f, Kind.unregister), (.publish f, Kind.publish)]) ∧
  (∃ (p l : Nat) (f : Frame) (h g : Nat) (b : Bool) (u : State) (s : State), portIn s p .up = true ∧ linkReceive s p l f h g b = (true, u) ∧ f.dest = s.strand.nodeId) ∧
  (∃ (p l : Nat) (f : Frame) (h g : Nat) (b : Bool) (u : State) (s : State), portIn s p .up = true ∧ linkReceive s p l f h g b = (true, u) ∧ f.dest ≠ s.strand.nodeId) ∧
  (∃ (a i : Nat) (m : InMsg) (s : State), strandRuns s = true ∧ (s.strand.inMsgs.find? fun m => m.src == a && m.id == i) = some m ∧ m.first + 16 ≤ s.now) :=
  ⟨⟨.strandRead { frame Kind.read with dest := 9 }, { frame Kind.read with dest := 9 }, base, by decide +kernel⟩,
   ⟨5, 0, frame 1, (frame 1).headerCrc, (frame 1).crc, false, _, (withPort (port .up)), by decide +kernel, rfl, by decide +kernel⟩,
   ⟨5, 0, frame 1, (frame 1).headerCrc, (frame 1).crc, false, _, ({ withPort (port .up) with strand := { (withPort (port .up)).strand with nodeId := 1 } }), by decide +kernel, rfl, by decide +kernel⟩,
   ⟨1, 2, ⟨1, 2, 0, 0, 0, 1, [], 99984, false, false⟩, (withStrand fun x => { x with inMsgs := [⟨1, 2, 0, 0, 0, 1, [], 99984, false, false⟩] }), by decide +kernel⟩⟩

theorem test_meets_StrandResponsesEndTheirRequests_1 :
  (∃ (f : Frame) (r : Request) (s : State), strandRuns s = true ∧ f.kind = Kind.read + 0x80 ∧ requestOf s f = some r ∧ f.status = St.ok ∧ (r.purpose = .line ∨ r.purpose = .none)) ∧
  (∃ (f : Frame) (r : Request) (s : State), strandRuns s = true ∧ f.kind = Kind.read + 0x80 ∧ requestOf s f = some r ∧ f.status ≠ St.ok ∧ (r.purpose = .line ∨ r.purpose = .none)) ∧
  (∃ (f : Frame) (r : Request) (s : State), strandRuns s = true ∧ f.kind = Kind.read + 0x80 ∧ requestOf s f = some r ∧ ((∃ a b c d, r.purpose = .entry a b c d) ∨ ∃ a b c d e, r.purpose = .granule a b c d e)) ∧
  (∃ (f : Frame) (r : Request) (s : State), strandRuns s = true ∧ f.kind = Kind.write + 0x80 ∧ requestOf s f = some r) :=
  ⟨⟨frame (Kind.read + 0x80), asked Kind.read, (withAsked Kind.read), by decide +kernel⟩,
   ⟨{ frame (Kind.read + 0x80) with status := 0x12 }, asked Kind.read, (withAsked Kind.read), by decide +kernel⟩,
   ⟨frame (Kind.read + 0x80), { asked Kind.read with purpose := .entry (.run 1) 0 7 99990 }, withStrand (fun x => { x with requests := [{ asked Kind.read with purpose := .entry (.run 1) 0 7 99990 }] }),
    by decide +kernel, by decide +kernel, by decide +kernel, .inl ⟨_, _, _, _, rfl⟩⟩,
   ⟨frame (Kind.write + 0x80), asked Kind.write, (withAsked Kind.write), by decide +kernel⟩⟩

theorem test_meets_StrandResponsesEndTheirRequests_2 :
  (∃ (f : Frame) (r : Request) (s : State), strandRuns s = true ∧ f.kind = Kind.atomic + 0x80 ∧ requestOf s f = some r) ∧
  (∃ (f : Frame) (r : Request) (u : State) (s : State), strandRuns s = true ∧ f.kind = Kind.register + 0x80 ∧ requestOf s f = some r ∧ f.status = St.ok ∧ u = endRequest s r St.ok [] (f.addr % 2 ^ 48)) ∧
  (∃ (f : Frame) (r : Request) (s : State), strandRuns s = true ∧ f.kind = Kind.publish + 0x80 ∧ requestOf s f = some r) ∧
  (∃ (f : Frame) (s : State), strandRuns s = true ∧ f.kind = Kind.invalidate + 0x80 ∧ f.status = St.ok) :=
  ⟨⟨frame (Kind.atomic + 0x80), asked Kind.atomic, (withAsked Kind.atomic), by decide +kernel⟩,
   by refine ⟨frame (Kind.register + 0x80), asked Kind.register, _, (withAsked Kind.register), ?_, ?_, ?_, ?_, rfl⟩ <;> decide +kernel,
   ⟨frame (Kind.publish + 0x80), asked Kind.publish, (withAsked Kind.publish), by decide +kernel⟩,
   ⟨frame (Kind.invalidate + 0x80), base, by decide +kernel⟩⟩

theorem test_meets_StrandResponsesEndTheirRequests_3 :
  (∃ (f : Frame) (m : OutMsg) (s : State), strandRuns s = true ∧ f.kind = Kind.message + 0x80 ∧ messageOut s f = some m) :=
  ⟨frame (Kind.message + 0x80), ⟨7, 0, 0, 0, 0, [], [], .none, 0⟩, (withStrand fun x => { x with outMsgs := [⟨7, 0, 0, 0, 0, [], [], .none, 0⟩] }), by decide +kernel⟩

theorem test_meets_StrandTimersActAtTheirTides_1 :
  (∃ (n : Nat) (r : Request) (s : State), findRequest s n Kind.read = some r ∧ strandRuns s = true ∧ r.held = false ∧ requestsHeld s r.frame.cls = false ∧ r.lastSend + 4 ≤ s.now) ∧
  (∃ (n : Nat) (r : Request) (s : State), (findRequest s n Kind.read).orElse (fun _ => findRequest s n Kind.write) = some r ∧ strandRuns s = true ∧ r.held = false ∧ r.issue + 48 ≤ s.now) ∧
  (∃ (n : Nat) (r : Request) (s : State), findRequest s n Kind.atomic = some r ∧ strandRuns s = true ∧ requestsHeld s r.frame.cls = false ∧ r.held = false ∧ s.now < r.issue + 48 ∧ r.lastSend + s.cfg Ent.atomicRetryTides ≤ s.now) ∧
  (∃ (n : Nat) (r : Request) (s : State), findRequest s n Kind.atomic = some r ∧ strandRuns s = true ∧ r.held = false ∧ r.issue + 48 ≤ s.now) :=
  ⟨⟨7, asked Kind.read, (withAsked Kind.read), by decide +kernel⟩,
   ⟨7, asked Kind.read, (withAsked Kind.read), by decide +kernel⟩,
   ⟨7, { asked Kind.atomic with issue := 99980 }, (withStrand fun x => { x with requests := [{ asked Kind.atomic with issue := 99980 }] }), by decide +kernel⟩,
   ⟨7, asked Kind.atomic, (withAsked Kind.atomic), by decide +kernel⟩⟩

theorem test_meets_StrandTimersActAtTheirTides_2 :
  (∃ (n a t : Nat) (p : Publish) (s : State), (s.strand.publishes.find? fun p => p.tag == n && p.active) = some p ∧ p.readers.lookup a = some t ∧ strandRuns s = true ∧ t + s.cfg Ent.invalidateResend ≤ s.now) ∧
  (∃ (n : Nat) (r : Request) (s : State), findRequest s n Kind.publish = some r ∧ strandRuns s = true ∧ r.held = false ∧ r.issue + 48 ≤ s.now) ∧
  (∃ (s : State), s.up 5 = true) :=
  ⟨⟨3, 9, 99000, ⟨frame Kind.publish, 3, 0, 64, [(9, 99000)], true⟩, (withStrand fun x => { x with publishes := [⟨frame Kind.publish, 3, 0, 64, [(9, 99000)], true⟩] }), by decide +kernel⟩,
   ⟨7, asked Kind.publish, (withAsked Kind.publish), by decide +kernel⟩,
   ⟨base, by decide +kernel⟩⟩

theorem test_meets_HostRegisterWritesComplete_1 :
  (∃ (s : State), barRuns s = true) ∧
  (∃ (s : State), barRuns s = true) ∧
  (∃ (q w : Nat) (s : State), barRuns s = true ∧ q < 64 ∧ w < 2 ^ 32 ∧ bit w 0 = true) ∧
  (∃ (q w : Nat) (s : State), barRuns s = true ∧ q < 64 ∧ w < 2 ^ 32 ∧ bit w 0 = false) :=
  ⟨⟨base, by decide +kernel⟩,
   ⟨base, by decide +kernel⟩,
   ⟨63, 2 ^ 32 - 1, base, by decide +kernel⟩,
   ⟨63, 2 ^ 32 - 2, base, by decide +kernel⟩⟩

theorem test_meets_HostRegisterWritesComplete_2 :
  (∃ (q v : Nat) (s : State), barRuns s = true ∧ q < 64 ∧ v < 2 ^ 32) ∧
  (∃ (q v : Nat) (s : State), barRuns s = true ∧ q < 64 ∧ v < 2 ^ 32) ∧
  (∃ (s : State), barRuns s = true) ∧
  (∃ (a v : Nat) (s : State), barRuns s = true ∧ a % 4 = 0 ∧ a < 2 ^ 20 ∧ v < 2 ^ 32) :=
  ⟨⟨63, 2 ^ 32 - 1, base, by decide +kernel⟩,
   ⟨63, 2 ^ 32 - 1, base, by decide +kernel⟩,
   ⟨base, by decide +kernel⟩,
   ⟨2 ^ 20 - 4, 2 ^ 32 - 1, base, by decide +kernel⟩⟩

theorem test_meets_HostRegisterWritesComplete_3 :
  (∃ (v : Nat) (s : State), barRuns s = true ∧ v < 64) :=
  ⟨63, base, by decide +kernel⟩

theorem test_meets_HostQueuesAndLinkComplete_1 :
  (∃ (d : Nat) (s : State), barRuns s = true ∧ s.mgmt = true ∧ s.host.resumePending = none ∧ s.host.enablePending = some d ∧ d ≠ s.now ∧ s.tide.state ≠ .acquiring) ∧
  (∃ (d : Nat) (s : State), barRuns s = true ∧ s.mgmt = true ∧ s.host.disablePending = some d ∧ d ≠ s.now) ∧
  (∃ (s : State), barRuns s = true ∧ s.mgmt = true ∧ s.host.draining = true ∧ s.host.resumePending = none ∧ s.host.drainFrom + s.cfg Ent.hostDrainTides ≤ s.now) ∧
  (∃ (q : Nat) (s : State), barRuns s = true ∧ (s.pair q).winding = true ∧ pairDone s q = true) :=
  ⟨⟨99999, (withHost fun h => { h with enablePending := some 99999 }), by decide +kernel⟩,
   ⟨99999, (withHost fun h => { h with disablePending := some 99999 }), by decide +kernel⟩,
   ⟨(withHost fun h => { h with draining := true }), by decide +kernel⟩,
   ⟨63, (withPair { Pair.cold with winding := true }), by decide +kernel⟩⟩

theorem test_meets_HostQueuesAndLinkComplete_2 :
  (∃ (q : Nat) (r : HostRead) (b : Bytes) (s : State), mayFetch s q = true ∧ readInput s ((s.pair q).sqBase + 64 * (s.pair q).sqHead) 64 r = (St.ok, b) ∧ inputHeld s ((s.pair q).sqBase + 64 * (s.pair q).sqHead) 64 = false) ∧
  (∃ (q st : Nat) (r : HostRead) (b : Bytes) (s : State), mayFetch s q = true ∧ readInput s ((s.pair q).sqBase + 64 * (s.pair q).sqHead) 64 r = (st, b) ∧ st ≠ St.ok ∧ inputHeld s ((s.pair q).sqBase + 64 * (s.pair q).sqHead) 64 = false) ∧
  (∃ (q : Nat) (s : State), barRuns s = true ∧ (s.pair q).intEnable = true ∧ 0 < (s.pair q).uncovered) ∧
  (∃ (s : State), s.host.linkUp = true) :=
  ⟨⟨63, .ok [], _, (withPair { Pair.cold with enabled := true, sqM1 := 15, cqM1 := 15, sqTail := 1 }), by decide +kernel, rfl, by decide +kernel⟩,
   ⟨63, _, .bad .poisoned, _, (withPair { Pair.cold with enabled := true, sqM1 := 15, cqM1 := 15, sqTail := 1 }), by decide +kernel, rfl, by decide +kernel⟩,
   ⟨63, (withPair { Pair.cold with intEnable := true, uncovered := 1 }), by decide +kernel⟩,
   ⟨base, by decide +kernel⟩⟩

theorem test_meets_HostQueuesAndLinkComplete_3 :
  (∃ (w r : Nat) (u : State) (s : State), s.up 9 = true ∧ s.host.linkUp = false ∧ u = comeInForce s [.training] ∧ w ∈ linkWidths ∧ r ∈ linkRates ∧ w ≤ u.cfg Ent.linkWidthMax ∧ r ≤ u.cfg Ent.linkRateMax) ∧
  (∃ (b n : Nat) (s : State), barRuns s = true ∧ s.host.hdmCommitted = false ∧ n = s.cfg Ent.hdmBytes ∧ n ≠ 0 ∧ b % 2 ^ 28 = 0) :=
  ⟨⟨4, 16, _, (withHost fun h => { h with linkUp := false }), by decide +kernel, by decide +kernel, rfl, by decide +kernel⟩,
   ⟨2 ^ 28, _, (base.setNum Ent.hdmBytes (2 ^ 28)), by decide +kernel, by decide +kernel, rfl, by decide +kernel⟩⟩

theorem test_meets_MailboxDoeAndImagesComplete_1 :
  (∃ (s : State), mailRuns s = true ∧ s.host.mailBusy = false) ∧
  (∃ (b : Bytes) (s : State), mailRuns s = true ∧ s.host.mailBusy = false ∧ b.length ≤ 4096 ∧ field b 20 4 ≤ 4096 ∧ b.take 16 = leBytes 16 Config.effectsLogUuid.toNat ∧ field b 16 4 + field b 20 4 ≤ Config.effectsLog.length) ∧
  (∃ (b : Bytes) (r : CapReq) (s : State), mailRuns s = true ∧ s.host.mailBusy = false ∧ b.length ≤ 4096 ∧ capReqOf .mailbox b = some r) ∧
  (∃ (b : Bytes) (s : State), mailRuns s = true ∧ s.host.mailBusy = false ∧ b.length ≤ 4096 ∧ field b 0 1 = 0 ∧ holdsLock (expireLock s) .mailbox 0 = true) :=
  ⟨⟨base, by decide +kernel⟩,
   ⟨leBytes 16 Config.effectsLogUuid.toNat ++ List.replicate 8 0, base, by decide +kernel, by decide +kernel, by decide +kernel, by decide +kernel, rfl, Nat.zero_le _⟩,
   ⟨List.replicate 32 0, _, base, by decide +kernel, by decide +kernel, by decide +kernel, rfl⟩,
   ⟨[0], ({ base with cap := { base.cap with lock := some (.mailbox, 0, 100001) } }), by decide +kernel⟩⟩

theorem test_meets_MailboxDoeAndImagesComplete_2 :
  (∃ (b : Bytes) (s : State), mailRuns s = true ∧ s.host.mailBusy = false ∧ b.length ≤ 4096 ∧ field b 0 1 = 1 ∧ holdsLock (expireLock s) .mailbox 0 = true) ∧
  (∃ (b : Bytes) (s : State), mailRuns s = true ∧ s.host.mailBusy = false ∧ b.length ≤ 4096 ∧ field b 0 1 = 2 ∧ holdsLock (expireLock s) .mailbox 0 = true) ∧
  (∃ (r : ImageRx) (s : State), s.sec.rx = some r ∧ r.verifying = true ∧ capUp s = true ∧ s.rst.recovery = false) ∧
  (∃ (r : ImageRx) (s : State), s.sec.rx = some r ∧ r.writing = true ∧ s.mgmt = true) :=
  ⟨⟨[1], ({ base with cap := { base.cap with lock := some (.mailbox, 0, 100001) } }), by decide +kernel⟩,
   ⟨[2], ({ base with cap := { base.cap with lock := some (.mailbox, 0, 100001) } }), by decide +kernel⟩,
   ⟨⟨none, [], true, false, none⟩, ({ base with sec := { base.sec with rx := some ⟨none, [], true, false, none⟩ } }), by decide +kernel⟩,
   ⟨⟨none, [], false, true, none⟩, ({ base with sec := { base.sec with rx := some ⟨none, [], false, true, none⟩ } }), by decide +kernel⟩⟩

theorem test_meets_MailboxDoeAndImagesComplete_3 :
  (∃ (n : Nat) (s : State), doeRuns s = true) ∧
  (∃ (n : Nat) (s : State), doeRuns s = true) ∧
  (∃ (b : Bytes) (s : State), doeRuns s = true) ∧
  (∃ (b : Bytes) (s : State), doeRuns s = true) :=
  ⟨⟨65535, base, by decide +kernel⟩,
   ⟨65535, base, by decide +kernel⟩,
   ⟨[0], base, by decide +kernel⟩,
   ⟨[0], base, by decide +kernel⟩⟩

theorem test_meets_CapEventsComplete :
  (∃ (w : Who) (i e : Nat) (s : State), capUp s = true ∧ s.cap.lock = some (w, i, e) ∧ e ≤ s.now) ∧
  (∃ (s : State), capUp s = true) ∧
  (∃ (s : State), s.mgmt = true) :=
  ⟨⟨.mailbox, 0, 100000, ({ base with cap := { base.cap with lock := some (.mailbox, 0, 100000) } }), by decide +kernel⟩,
   ⟨base, by decide +kernel⟩,
   ⟨base, by decide +kernel⟩⟩

theorem test_meets_SearchCommandsComplete_1 :
  (∃ (n : Nat) (i f : HostRead) (h : HostCmd) (fb v : Bytes) (w u : State) (s : State), s.waitingCmd n 0x01 = some h ∧ canSearch s = true ∧ queryRefusal s h.desc = none ∧ bit (field h.desc 1 1) 0 = false ∧ readInput s (field h.desc 24 8) (field h.desc 46 2) f = (St.ok, fb) ∧ (!fb.isEmpty && filterBad fb (s.params (field h.desc 4 1)).schema) = false ∧ readInput s (field h.desc 16 8) (queryInputBytes (s.params (field h.desc 4 1)) (field h.desc 5 1)) i = (St.ok, v) ∧ inputHeld s (field h.desc 24 8) (field h.desc 46 2) = false ∧ inputHeld s (field h.desc 16 8) (queryInputBytes (s.params (field h.desc 4 1)) (field h.desc 5 1)) = false ∧ w = touchInput (touchInput s (field h.desc 24 8) (field h.desc 46 2)) (field h.desc 16 8) (queryInputBytes (s.params (field h.desc 4 1)) (field h.desc 5 1)) ∧ u = { startCmd w n with qry := { (startCmd w n).qry with queries := (startCmd w n).qry.queries ++ [acceptedQuery w n (acceptance w h) h.desc fb], nextTag := ((acceptedQuery w n (acceptance w h) h.desc fb).tag + 1) % 2 ^ 32 } }) ∧
  (∃ (n st : Nat) (i f : HostRead) (h : HostCmd) (fb : Bytes) (b : Bool) (r : Nat × Nat) (s : State), s.waitingCmd n 0x01 = some h ∧ canSearch s = true ∧ readInput s (field h.desc 24 8) (field h.desc 46 2) f = (st, fb) ∧ b = (s.collState (field h.desc 4 1) == 2 && st == St.ok && !fb.isEmpty && filterBad fb (s.params (field h.desc 4 1)).schema) ∧ (queryRefusal s h.desc = some r ∧ b = false ∨ queryRefusal s h.desc = none ∧ b = true ∧ r = (St.badJob, 0))) ∧
  (∃ (a : Nat) (b : Bytes) (s : State), canSearch s = true) ∧
  (∃ (a : Nat) (b : Bytes) (s : State), s.mgmt = true) :=
  ⟨by refine ⟨1, .ok [], .ok [], cmdOf 0x01 (words 64 [(4, 1, 255), (5, 1, 5), (6, 2, 1), (40, 4, 80)]), [], List.replicate 16 0, _, _, ({ openColl with host := (withCmd 0x01 (words 64 [(4, 1, 255), (5, 1, 5), (6, 2, 1), (40, 4, 80)])).host }), ?_, ?_, ?_, ?_, ?_, ?_, ?_, ?_, ?_, rfl, rfl⟩ <;> decide +kernel,
   ⟨1, 0, .ok [], .ok [], cmdOf 0x01 [], [], false, (0x11, 0), (withCmd 0x01 []), by decide +kernel⟩,
   ⟨0, [], base, by decide +kernel⟩,
   ⟨0, [], base, by decide +kernel⟩⟩

theorem test_meets_SearchCommandsComplete_2 :
  (∃ (i : Nat) (g : Fragment) (s : State), s.frag i = some g ∧ canSearch s = true ∧ g.cutoff ≤ s.subticks) ∧
  (∃ (i : Nat) (g : Fragment) (s : State), s.frag i = some g ∧ canSearch s = true ∧ fragDone g = true) ∧
  (∃ (i : Nat) (q : Query) (s : State), s.query i = some q ∧ s.mgmt = true ∧ q.deadline ≤ s.subticks) ∧
  (∃ (i l : Nat) (s : State), canSearch s = true ∧ badRecord s i l = false) :=
  ⟨⟨3, fragment0, ({ base with qry := { base.qry with frags := [fragment0] } }), by decide +kernel⟩,
   ⟨3, fragment0, ({ base with qry := { base.qry with frags := [fragment0] } }), by decide +kernel⟩,
   ⟨2, _, ({ base with qry := { base.qry with queries := [⟨2, 0, 0, 0, 1, 0, 0, 1, 1, 1, false, [], [], false, [], []⟩] } }), rfl, by decide +kernel⟩,
   ⟨0, 0, base, by decide +kernel⟩⟩

theorem test_meets_SearchCommandsComplete_3 :
  (∃ (i l : Nat) (g : Fragment) (s : State), canSearch s = true ∧ s.frag i = some g ∧ badRecord s i l = true) :=
  ⟨3, 2, fragment1, ({ base with qry := { base.qry with frags := [fragment1] } }), by decide +kernel⟩

theorem test_meets_ChangeCommandsComplete_1 :
  (∃ (n : Nat) (v m : HostRead) (h : HostCmd) (a b : Bytes) (s : State), s.waitingCmd n 0x02 = some h ∧ s.mgmt = true ∧ intakeRefusal s h.desc false = none ∧ readInput s (field h.desc 16 8) (field h.desc 24 4) v = (St.ok, a) ∧ readInput s (field h.desc 32 8) (field h.desc 28 2) m = (St.ok, b) ∧ inputHeld s (field h.desc 16 8) (field h.desc 24 4) = false ∧ inputHeld s (field h.desc 32 8) (field h.desc 28 2) = false) ∧
  (∃ (n : Nat) (h : HostCmd) (s : State), s.waitingCmd n 0x03 = some h ∧ s.mgmt = true ∧ intakeRefusal s h.desc true = none) ∧
  (∃ (a : Nat) (x : Change) (s : State), s.mgmt = true) ∧
  (∃ (u : State) (s : State), s.mgmt = true ∧ u = { s with chg := { s.chg with held := s.chg.held.filter fun h => !decide (h.1 < s.now) } }) :=
  ⟨⟨1, .ok [], .ok [], cmdOf 0x02 (words 64 [(4, 1, 255), (8, 8, 9), (24, 4, 16)]), List.replicate 16 0, [], ({ openColl with host := (withCmd 0x02 (words 64 [(4, 1, 255), (8, 8, 9), (24, 4, 16)])).host }), by decide +kernel⟩,
   ⟨1, cmdOf 0x03 (words 64 [(4, 1, 255), (8, 8, 9), (24, 4, 16)]), ({ openColl with host := (withCmd 0x03 (words 64 [(4, 1, 255), (8, 8, 9), (24, 4, 16)])).host }), by decide +kernel⟩,
   ⟨0, change0, base, by decide +kernel⟩,
   ⟨_, base, by decide +kernel, rfl⟩⟩

theorem test_meets_ChangeCommandsComplete_2 :
  (∃ (a : Nat) (x : Change) (q b r : Nat) (s : State), s.mgmt = true) ∧
  (∃ (a : Nat) (k : Ack) (s : State), s.mgmt = true) ∧
  (∃ (a : Nat) (d : ChangeDone) (i : Intake) (s : State), s.mgmt = true ∧ ((answerMsg s a 0x0011 St.ok).chg.intakes.find? fun i => i.tag == d.tag) = some i ∧ d.misdirected = false) ∧
  (∃ (a : Nat) (d : ChangeDone) (i : Intake) (s : State), s.mgmt = true ∧ ((answerMsg s a 0x0011 St.ok).chg.intakes.find? fun i => i.tag == d.tag) = some i ∧ d.misdirected = true) :=
  ⟨⟨0, change0, 0, 0, 0, base, by decide +kernel⟩,
   ⟨0, ⟨0, 0, 0, 0, true, 0⟩, base, by decide +kernel⟩,
   ⟨0, ⟨5, 0, 1, 0, 0, false⟩, ⟨5, 1, change0, 99000, none⟩, ({ base with chg := { base.chg with intakes := [⟨5, 1, change0, 99000, none⟩] } }), by decide +kernel⟩,
   ⟨0, ⟨5, 0, 1, 0, 0, true⟩, ⟨5, 1, change0, 99000, none⟩, ({ base with chg := { base.chg with intakes := [⟨5, 1, change0, 99000, none⟩] } }), by decide +kernel⟩⟩

theorem test_meets_ChangeCommandsComplete_3 :
  (∃ (k sh q : Nat) (a : Accepted) (s : State), s.mgmt = true ∧ a ∈ s.chg.accepted ∧ a.change.coll = k ∧ a.change.shoal = sh ∧ a.seq = q ∧ a.replicaDurable = false ∧ a.commit + s.cfg Ent.replicaAckLimit ≤ s.now) ∧
  (∃ (g : Nat) (i : Intake) (s : State), s.mgmt = true ∧ (s.chg.intakes.find? fun i => i.tag == g) = some i ∧ i.done = none ∧ i.accepted + s.cfg Ent.intakeGiveUp ≤ s.now) :=
  ⟨⟨0, 0, 4, ⟨change0, 4, 99000, 0, none, [], none, none, false, false, false⟩, ({ base with chg := { base.chg with accepted := [⟨change0, 4, 99000, 0, none, [], none, none, false, false, false⟩] } }), by decide +kernel, List.mem_singleton.mpr rfl, by decide +kernel⟩,
   ⟨5, ⟨5, 1, change0, 99000, none⟩, ({ base with chg := { base.chg with intakes := [⟨5, 1, change0, 99000, none⟩] } }), by decide +kernel⟩⟩

theorem test_meets_IndexUpkeepCompletes_1 :
  (∃ (s : State), s.mgmt = true) ∧
  (∃ (u : State) (s : State), s.mgmt = true ∧ u = ((s.qry.frags.filter fun g => decide (g.stamp + s.num Ent.indexAgeLimit < s.now)).map (·.id)).foldl cutFrag s) ∧
  (∃ (s : State), s.mgmt = true) ∧
  (∃ (u : State) (s : State), s.mgmt = true ∧ windowOpens s s.now = true ∧ s.idx.windowEnd ≤ s.now ∧ u = { s with idx := { s.idx with windowEnd := s.now + s.cfg Ent.upkeepLength } }) :=
  ⟨⟨base, by decide +kernel⟩,
   ⟨_, base, by decide +kernel, rfl⟩,
   ⟨base, by decide +kernel⟩,
   ⟨_, ((base.setNum Ent.upkeepPeriod 10).setNum Ent.upkeepOffset 0), by decide +kernel, by decide +kernel, by decide +kernel, rfl⟩⟩

theorem test_meets_IndexUpkeepCompletes_2 :
  (∃ (s : State), s.mgmt = true ∧ s.idx.windowEnd ≠ 0 ∧ s.idx.windowEnd ≤ s.now) ∧
  (∃ (a k sh : Nat) (s : State), s.mgmt = true ∧ functionOn s 1 = true ∧ ((Index.findCopy s.idx k sh).any fun p => p.state == .serving) = true) ∧
  (∃ (k sh : Nat) (x : ShoalCopy) (s : State), s.mgmt = true ∧ Index.findCopy s.idx k sh = some x ∧ fillReady s x = true) ∧
  (∃ (k sh a : Nat) (x : ShoalCopy) (s t : State), s.mgmt = true ∧ t = (s.idx.kept.filter fun y => y.coll == k && y.shoal == sh && decide (y.until_ < lowWater s)).foldl dropKept s ∧ Index.findCopy s.idx k sh = some x ∧ x.releaseAt = some a ∧ a < lowWater s) :=
  ⟨⟨({ base with idx := { base.idx with windowEnd := 100000 } }), by decide +kernel⟩,
   ⟨0, 255, 0, (withCopy (copyOf .serving)), by decide +kernel⟩,
   ⟨255, 0, { copyOf .filling with seq := 1 }, withCopy { copyOf .filling with seq := 1 }, by decide +kernel⟩,
   ⟨255, 0, 99999, { copyOf .serving with releaseAt := some 99999 }, (withCopy { copyOf .serving with releaseAt := some 99999 }), _, by decide +kernel, rfl, by decide +kernel⟩⟩

theorem test_meets_IndexUpkeepCompletes_3 :
  (∃ (k : Nat) (x : Closing) (u : State) (s : State), s.mgmt = true ∧ (s.idx.closings.find? fun x => x.slot == k) = some x ∧ x.boundary < lowWater s ∧ s.num Ent.flashReady = 1 ∧ u = dropRecords (((s.idx.copies.filter fun p => p.coll == k).map (·.shoal)).foldl (fun s sh => dropCopy s k sh) s) k) :=
  ⟨255, ⟨255, 99999⟩, _, ({ base with idx := { base.idx with closings := [⟨255, 99999⟩] } }), by decide +kernel, by decide +kernel, by decide +kernel, by decide +kernel, rfl⟩

theorem test_meets_MemoryCommandsComplete_1 :
  (∃ (p : Nat) (u : State) (s : State), s.host.linkUp = true ∧ inHdm s (hostLine p) 64 = true ∧ inNeap s = false ∧ s.rst.powerState ≠ 3 ∧ serveHost s (hostLine p) none = some u) ∧
  (∃ (p : Nat) (d : Bytes) (u : State) (s : State), s.host.linkUp = true ∧ inHdm s (hostLine p) 64 = true ∧ inNeap s = false ∧ s.rst.powerState ≠ 3 ∧ serveHost s (hostLine p) (some (padTo 64 d)) = some u) ∧
  (∃ (p : Nat) (s : State), s.host.linkUp = true ∧ inHdm s (hostLine p) 64 = true ∧ inNeap s = false ∧ s.rst.powerState ≠ 3 ∧ serveHost s (hostLine p) none = none) ∧
  (∃ (p : Nat) (d : Bytes) (s : State), s.host.linkUp = true ∧ inHdm s (hostLine p) 64 = true ∧ inNeap s = false ∧ s.rst.powerState ≠ 3 ∧ serveHost s (hostLine p) (some (padTo 64 d)) = none) :=
  ⟨by refine ⟨2 ^ 28, _, withHdm, ?_, ?_, ?_, ?_, rfl⟩ <;> decide +kernel,
   by refine ⟨2 ^ 29 - 64, List.replicate 64 1, _, ({ withHdm with key := ⟨[], [], []⟩ }), ?_, ?_, ?_, ?_, rfl⟩ <;> decide +kernel,
   ⟨2 ^ 28, withHdmFlash, by decide +kernel⟩,
   ⟨2 ^ 28, List.replicate 64 1, withHdmFlash, by decide +kernel⟩⟩

theorem test_meets_MemoryCommandsComplete_2 :
  (∃ (p a : Nat) (u s : State), s.host.linkUp = true ∧ inHdm s (hostLine p) 64 = true ∧ inNeap s = false ∧ s.rst.powerState ≠ 3 ∧ hdmDead s = false ∧ hdmAddr s (hostLine p) = some a ∧ u = touchAddr (Coh.settled s a 64) a ∧ Coh.check u (hdmOwner u) (lineOf a) = St.ok) ∧
  (∃ (p : Nat) (s : State), s.host.linkUp = true ∧ inHdm s (hostLine p) 64 = true ∧ inNeap s = false ∧ s.rst.powerState ≠ 3 ∧ hdmDead s = false ∧ Mem.page s.mem (hdmPage s (hostLine p)) = none) ∧
  (∃ (p : Nat) (d : Bytes) (w : Option Bytes) (g : Page) (c : Instr) (s : State), (c, w) ∈ [(.hostMemRead p, none), (.hostMemWrite p d, some (padTo 64 d))] ∧ s.host.linkUp = true ∧ inHdm s (hostLine p) 64 = true ∧ inNeap s = false ∧ s.rst.powerState ≠ 3 ∧ hdmDead s = false ∧ Mem.page s.mem (hdmPage s (hostLine p)) = some g ∧ g.tier = .flash) ∧
  (∃ (p : Nat) (d : Bytes) (w : Option Bytes) (b : Bool) (c : Instr) (s : State), (c, w) ∈ [(.hostMemRead p, none), (.hostMemWrite p d, some (padTo 64 d))] ∧ s.host.linkUp = true ∧ inHdm s (hostLine p) 64 = true ∧ (inNeap s = true ∨ s.rst.powerState = 3) ∧ b = (!hdmDead s && (Mem.page s.mem (hdmPage s (hostLine p))).any fun p => p.tier == .flash)) :=
  ⟨⟨2 ^ 28, 65536, _, withHdm, by decide +kernel, by decide +kernel, by decide +kernel, by decide +kernel, by decide +kernel, by decide +kernel, rfl, by decide +kernel⟩,
   ⟨2 ^ 28 + 65536, withHdm, by decide +kernel⟩,
   ⟨2 ^ 28, [], none, ⟨.hdm 0, 1, false, .flash, 0, [], [], 0, false, 0, false, false⟩, .hostMemRead (2 ^ 28), withHdmFlash, by decide +kernel⟩,
   ⟨2 ^ 28, [1], some (padTo 64 [1]), true, .hostMemWrite (2 ^ 28) [1], { withHdmFlash with rst := { base.rst with powerState := 2 } }, by decide +kernel⟩⟩

theorem test_meets_MemoryCommandsComplete_3 :
  (∃ (i : Nat) (h : HeldAccess) (s : State), (s.host.held.find? fun h => h.id == i) = some h ∧ h.inside = false ∧ ((Mem.page s.mem (hdmPage s h.hpa)).isSome = true ∨ inNeap s = true ∨ s.rst.powerState = 3 ∨ hdmDead s = true) ∧ s.cfg Ent.holdLimitNs ≤ holdNs s h) ∧
  (∃ (s : State), moverRuns s = true ∧ inNeap s = false ∧ s.num Ent.flashReady ≠ 0 ∧ (s.mem.demoting = true ∨ Mem.freeStack s.mem < s.cfg Ent.stackLowMarkPages)) ∧
  (∃ (s : State), moverRuns s = true ∧ inNeap s = false) ∧
  (∃ (i : PageId) (v : Move) (p : Page) (s : State), Mem.move s.mem i = some v ∧ Mem.page s.mem i = some p ∧ moverRuns s = true ∧ moveComplete s v p = true) :=
  ⟨⟨1, ⟨1, 2 ^ 28, none, 0, false, true⟩, ({ withHdm with host := { withHdm.host with held := [⟨1, 2 ^ 28, none, 0, false, true⟩] } }), by decide +kernel⟩,
   ⟨({ base with mem := { base.mem with demoting := true } }), by decide +kernel⟩,
   ⟨base, by decide +kernel⟩,
   ⟨.hdm 0, ⟨.hdm 0, .stack 0, []⟩, _, ({ withHdm with mem := { withHdm.mem with moves := [⟨.hdm 0, .stack 0, []⟩] } }), by decide +kernel, rfl, by decide +kernel⟩⟩

theorem test_meets_MemoryCommandsComplete_4 :
  (∃ (k : Nat) (p : Nat × Nat) (s : State), s.mgmt = true ∧ (s.key.sweeping.find? fun p => p.1 == k) = some p ∧ ownerCount s k = 0 ∧ p.2 < s.flash.durable) :=
  ⟨4095, (4095, 0), ({ base with key := ⟨[(4095, 2)], [], [(4095, 0)]⟩, flash := { base.flash with durable := 1 } }), by decide +kernel⟩

theorem test_meets_NearBankCommandsComplete_1 :
  (∃ (d : Bytes) (n : Nat) (b : Bytes) (ps : List Nat) (u : State) (cs : List (Nat × NbCmd)) (s : State), Nb.runs s = true ∧ field d 0 2 < 4096 ∧ n = field d 4 4 ∧ n ≠ 0 ∧ n ≤ 65536 ∧ field d 8 8 % 64 = 0 ∧ field d 16 8 % 32 = 0 ∧ validRange (field d 8 8) (16 * n) = true ∧ validRange (field d 16 8) 32 = true ∧ (Nb.bank s (field d 0 2)).queue.length < 8 ∧ inNeap s = false ∧ Nb.held s (field d 0 2) = false ∧ agentRead s (field d 2 2 % 4096) (field d 8 8) (16 * n) = (St.ok, b, u) ∧ Nb.decodeList n 0 (records 16 b) = some cs ∧ ps = ((cs.flatMap fun c => Nb.rows c.2).map fun r => pageOf (Nb.rowAddr (field d 0 2) r)).eraseDups ∧ (ps.any fun a => !Mem.planeOf u.mem a (field d 2 2 % 4096)) = false ∧ (ps.any fun a => pageHeld u a) = false) ∧
  (∃ (k : Nat) (s : State), Nb.runs s = true ∧ (Nb.bank s k).queue ≠ [] ∧ (Nb.bank s k).running = false ∧ Nb.tested s k = false) ∧
  (∃ (k i : Nat) (x : NbCmd) (q : NbSeq) (l : List (Nat × NbCmd)) (ds : List (List (Option Bytes))) (u : State) (rs : List Nat) (s : State), Nb.runs s = true ∧ Nb.current s k = some q ∧ q.left = (i, x) :: l ∧ (∃ a b, x = .rowCopy a b ∧ rs = [a]) ∧ openRows s k q.owner rs = .ok (ds, u)) ∧
  (∃ (k i : Nat) (x : NbCmd) (q : NbSeq) (l : List (Nat × NbCmd)) (ds : List (List (Option Bytes))) (u : State) (rs : List Nat) (s : State), Nb.runs s = true ∧ Nb.current s k = some q ∧ q.left = (i, x) :: l ∧ (∃ a b d, x = .rowInit a b d ∧ rs = []) ∧ openRows s k q.owner rs = .ok (ds, u)) :=
  ⟨by refine ⟨words 32 [(0, 2, 4095), (4, 4, 1)], 1, _, _, _, [(0, .end_)], base, ?_, ?_, ?_, ?_, ?_, ?_, ?_, ?_, ?_, ?_, ?_, ?_, ends_ok (by decide +kernel), ?_, rfl, ?_, ?_⟩ <;> decide +kernel,
   ⟨4095, (withSeq false []), by decide +kernel⟩,
   ⟨4095, 0, (.rowCopy 1 2), _, [], _, _, [1], (withSeq true [(0, .rowCopy 1 2)]), by decide +kernel, rfl, rfl, ⟨1, 2, rfl, rfl⟩, rfl⟩,
   ⟨4095, 0, (.rowInit 1 0 0), _, [], _, _, [], (withSeq true [(0, .rowInit 1 0 0)]), by decide +kernel, rfl, rfl, ⟨1, 0, 0, rfl, rfl⟩, rfl⟩⟩

theorem test_meets_NearBankCommandsComplete_2 :
  (∃ (k i : Nat) (x : NbCmd) (q : NbSeq) (l : List (Nat × NbCmd)) (ds : List (List (Option Bytes))) (u : State) (rs : List Nat) (s : State), Nb.runs s = true ∧ Nb.current s k = some q ∧ q.left = (i, x) :: l ∧ (∃ d a b op, x = .rowLogic d a b op ∧ rs = if op = 6 then [a] else [a, b]) ∧ openRows s k q.owner rs = .ok (ds, u)) ∧
  (∃ (k i : Nat) (x : NbCmd) (q : NbSeq) (l : List (Nat × NbCmd)) (ds : List (List (Option Bytes))) (u : State) (rs : List Nat) (s : State), Nb.runs s = true ∧ Nb.current s k = some q ∧ q.left = (i, x) :: l ∧ ((∃ a v, x = .opLoadInline a v ∧ rs = []) ∨ (∃ a r n, x = .opLoadRow a r n ∧ rs = [r])) ∧ openRows s k q.owner rs = .ok (ds, u)) ∧
  (∃ (k i : Nat) (x : NbCmd) (q : NbSeq) (l : List (Nat × NbCmd)) (ds : List (List (Option Bytes))) (u : State) (rs : List Nat) (s : State), Nb.runs s = true ∧ Nb.current s k = some q ∧ q.left = (i, x) :: l ∧ (∃ r a b d e f g h j m n p, x = .popAcc r a b d e f g h j m n p ∧ rs = [r]) ∧ openRows s k q.owner rs = .ok (ds, u)) ∧
  (∃ (k i : Nat) (x : NbCmd) (q : NbSeq) (l : List (Nat × NbCmd)) (ds : List (List (Option Bytes))) (u : State) (rs : List Nat) (s : State), Nb.runs s = true ∧ Nb.current s k = some q ∧ q.left = (i, x) :: l ∧ (∃ a b d e f g, x = .accOut a b d e f g ∧ rs = []) ∧ openRows s k q.owner rs = .ok (ds, u)) :=
  ⟨⟨4095, 0, (.rowLogic 3 1 2 0), _, [], _, _, [1, 2], (withSeq true [(0, .rowLogic 3 1 2 0)]), by decide +kernel, rfl, rfl, ⟨3, 1, 2, 0, rfl, rfl⟩, rfl⟩,
   ⟨4095, 0, (.opLoadInline 1 2), _, [], _, _, [], (withSeq true [(0, .opLoadInline 1 2)]), by decide +kernel, rfl, rfl, .inl ⟨1, 2, rfl, rfl⟩, rfl⟩,
   ⟨4095, 0, (.popAcc 1 0 0 0 0 0 0 0 0 0 false false), _, [], _, _, [1], (withSeq true [(0, .popAcc 1 0 0 0 0 0 0 0 0 0 false false)]), by decide +kernel, rfl, rfl, ⟨1, 0, 0, 0, 0, 0, 0, 0, 0, 0, false, false, rfl, rfl⟩, rfl⟩,
   ⟨4095, 0, (.accOut 0 0 0 0 0 0), _, [], _, _, [], (withSeq true [(0, .accOut 0 0 0 0 0 0)]), by decide +kernel, rfl, rfl, ⟨0, 0, 0, 0, 0, 0, rfl, rfl⟩, rfl⟩⟩

theorem test_meets_NearBankCommandsComplete_3 :
  (∃ (k : Nat) (q : NbSeq) (s : State), Nb.runs s = true ∧ Nb.current s k = some q ∧ q.left = []) ∧
  (∃ (k i : Nat) (q : NbSeq) (l : List (Nat × NbCmd)) (s : State), Nb.runs s = true ∧ Nb.current s k = some q ∧ q.left = (i, .end_) :: l) :=
  ⟨⟨4095, _, (withSeq true []), by decide +kernel, rfl, by decide +kernel⟩,
   ⟨4095, 0, _, [], withSeq true [(0, .end_)], by decide +kernel, rfl, rfl⟩⟩

theorem test_meets_BankSharingCompletes_1 :
  (∃ (k : Nat) (e : Option Nat) (s : State), k < 4096 ∧ s.up 5 = true ∧ 0 < (Nb.bank s k).refreshSlots) ∧
  (∃ (k : Nat) (e : Option Nat) (w d b : Bool) (s : State), k < 4096 ∧ s.up 5 = true ∧ (Nb.bank s k).refreshSlots = 0 ∧ w = unitWants s (Nb.bank s k) ∧ d = decide ((((Nb.bank s k).recent.take 15).filter id).length < dutyInForce s (k / 512)) ∧ b = decide (s.cfg Ent.externalBurstMax ≤ (Nb.bank s k).waited)) ∧
  (∃ (k : Nat) (s : State), k < 4096 ∧ s.up 5 = true ∧ (s.cfg Ent.refreshSkip ≠ 1 ∨ groupFresh (Nb.bank s k) (bankWindow s k) = false)) ∧
  (∃ (k : Nat) (s : State), k < 4096 ∧ s.up 5 = true ∧ s.cfg Ent.refreshSkip = 1 ∧ groupFresh (Nb.bank s k) (bankWindow s k) = true) :=
  ⟨⟨4095, some 0, ({ base with nb := { base.nb with banks := [{ Nb.bank base 4095 with refreshSlots := 1 }] } }), by decide +kernel⟩,
   ⟨4095, some 0, _, _, _, base, by decide +kernel, by decide +kernel, by decide +kernel, rfl, rfl, rfl⟩,
   ⟨4095, (base.setNum Ent.refreshSkip 1), by decide +kernel⟩,
   ⟨4095, ({ base.setNum Ent.refreshSkip 1 with nb := { base.nb with banks := [{ Nb.bank base 4095 with opened := (List.range 8).map fun i => (i, 0) }] } }), by decide +kernel⟩⟩

theorem test_meets_BankSharingCompletes_2 :
  (∃ (k r p : Nat) (s : State), s.up 5 = true ∧ p = Nb.physRow s k r ∧ s.cfg Ent.neighbourRefreshLimit ≤ ((Nb.bank s k).opens.lookup p).getD 0) ∧
  (∃ (l : List Nat) (s : State), s.up 5 = true) :=
  ⟨⟨4095, 65535, 65535, ({ base with nb := { base.nb with banks := [{ Nb.bank base 4095 with opens := [(65535, 1000000)] }] } }), by decide +kernel⟩,
   ⟨[0], base, by decide +kernel⟩⟩

theorem test_meets_CacheRequestsComplete_1 :
  (∃ (k o l : Nat) (s : State), validAddr (l * 64) = true ∧ s.up 7 = true ∧ k < 512 ∧ coreServes s k = true) ∧
  (∃ (k o l f : Nat) (d : Bytes) (s : State), validAddr (l * 64) = true ∧ s.up 7 = true ∧ k < 512 ∧ coreServes s k = true) ∧
  (∃ (k o l f : Nat) (d : Bytes) (s : State), validAddr (l * 64) = true ∧ s.up 7 = true ∧ k < 512 ∧ coreServes s k = true ∧ Coh.l1 s.coh k l = none) ∧
  (∃ (o l : Nat) (d : Bytes) (s : State), validAddr (l * 64) = true ∧ s.up 7 = true) :=
  ⟨⟨511, 0, (0x103FFFFFFC0 / 64), base, by decide +kernel⟩,
   ⟨511, 0, (0x103FFFFFFC0 / 64), 63, [1], base, by decide +kernel⟩,
   ⟨511, 0, (0x103FFFFFFC0 / 64), 63, [1], base, by decide +kernel⟩,
   ⟨0, (0x103FFFFFFC0 / 64), [], base, by decide +kernel⟩⟩

theorem test_meets_CacheRequestsComplete_2 :
  (∃ (o l : Nat) (s : State), validAddr (l * 64) = true ∧ s.up 7 = true) ∧
  (∃ (o a p : Nat) (d e : Bytes) (s : State), cohAtomicOk a p d e = true ∧ validAddr (lineOf a * 64) = true ∧ s.up 7 = true) ∧
  (∃ (k o l : Nat) (u s : State), validAddr (l * 64) = true ∧ s.up 7 = true ∧ k < 512 ∧ coreServes s k = true ∧ (∀ b ∈ s.coh.busy, b.req.line ≠ l) ∧ u = touchAddr (s.wakeCluster (k / 16)) (l * 64) ∧ Coh.check u (o % 4096) l = St.ok ∧ Coh.moving u l = false ∧ Coh.l1 u.coh k l = none) ∧
  (∃ (k o l : Nat) (x : L1Line) (u s : State), validAddr (l * 64) = true ∧ s.up 7 = true ∧ k < 512 ∧ coreServes s k = true ∧ (∀ b ∈ s.coh.busy, b.req.line ≠ l) ∧ u = touchAddr (s.wakeCluster (k / 16)) (l * 64) ∧ Coh.check u (o % 4096) l = St.ok ∧ Coh.moving u l = false ∧ Coh.l1 u.coh k l = some x) :=
  ⟨⟨0, (0x103FFFFFFC0 / 64), base, by decide +kernel⟩,
   ⟨0, 0x103FFFFFFFC, 2, [1, 0, 0, 0], [], base, by decide +kernel⟩,
   by refine ⟨511, 0, (0x103FFFFFFC0 / 64), _, base, ?_, ?_, ?_, ?_, ?_, rfl, ?_⟩ <;> decide +kernel,
   by refine ⟨511, 0, 0, ⟨511, 0, .s, [], none⟩, _, withLine .s, ?_, ?_, ?_, ?_, ?_, rfl, ?_⟩ <;> decide +kernel⟩

theorem test_meets_CacheRequestsComplete_3 :
  (∃ (k o l : Nat) (u s : State), validAddr (l * 64) = true ∧ s.up 7 = true ∧ k < 512 ∧ coreServes s k = true ∧ (∀ b ∈ s.coh.busy, b.req.line ≠ l) ∧ u = touchAddr (s.wakeCluster (k / 16)) (l * 64) ∧ Coh.check u (o % 4096) l = St.ok ∧ Coh.moving u l = true) ∧
  (∃ (k o l f : Nat) (d : Bytes) (u s : State) (c : Instr) (q : CohKind), (c, q) ∈ [(.readOwn k o l f d, .readOwn), (.upgrade k o l f d, .upgrade)] ∧ validAddr (l * 64) = true ∧ s.up 7 = true ∧ k < 512 ∧ coreServes s k = true ∧ (∀ b ∈ s.coh.busy, b.req.line ≠ l) ∧ (∀ x ∈ s.coh.l1, x.line = l → x.core = k) ∧ (∀ h, Coh.hostLineOf s l = some h → h ∉ s.host.hostHeld) ∧ (∀ x, Coh.l1 s.coh k l = some x → x.st ≠ .e ∧ x.st ≠ .m) ∧ u = touchAddr (s.wakeCluster (k / 16)) (l * 64) ∧ Coh.writeCheck u (o % 4096) l false = St.ok ∧ Coh.moving u l = false) ∧
  (∃ (k o l f : Nat) (d : Bytes) (x : L1Line) (s : State), s.up 7 = true ∧ k < 512 ∧ coreServes s k = true ∧ Coh.l1 s.coh k l = some x ∧ (x.st = .e ∨ x.st = .m) ∧ Coh.writeCheck s (o % 4096) l false = St.ok) ∧
  (∃ (o l : Nat) (d : Bytes) (u s : State), validAddr (l * 64) = true ∧ s.up 7 = true ∧ (∀ b ∈ s.coh.busy, b.req.line ≠ l) ∧ (∀ x ∈ s.coh.l1, x.line ≠ l) ∧ (∀ h, Coh.hostLineOf s l = some h → h ∉ s.host.hostHeld) ∧ u = touchAddr s (l * 64) ∧ Coh.writeCheck u (o % 4096) l true = St.ok ∧ Coh.moveOf u l = none) :=
  ⟨by refine ⟨511, 1, 1024, _, ({ withHdm with mem := { withHdm.mem with moves := [⟨.hdm 0, .stack 0, []⟩] } }), ?_, ?_, ?_, ?_, ?_, rfl, ?_⟩ <;> decide +kernel,
   by refine ⟨511, 0, (0x103FFFFFFC0 / 64), 63, [1], _, base, .readOwn 511 0 (0x103FFFFFFC0 / 64) 63 [1], .readOwn, .head _, ?_, ?_, ?_, ?_, ?_, ?_, fun _ _ => List.not_mem_nil, ?_, rfl, ?_⟩ <;> decide +kernel,
   ⟨511, 0, 0, 63, [1], ⟨511, 0, .m, [], none⟩, withLine .m, by decide +kernel, by decide +kernel, by decide +kernel, by decide +kernel, .inr rfl, by decide +kernel⟩,
   by refine ⟨0, (0x103FFFFFFC0 / 64), [1], _, base, ?_, ?_, ?_, ?_, fun _ _ => List.not_mem_nil, rfl, ?_⟩ <;> decide +kernel⟩

theorem test_meets_CacheRequestsComplete_4 :
  (∃ (o l : Nat) (u s : State), validAddr (l * 64) = true ∧ s.up 7 = true ∧ (∀ b ∈ s.coh.busy, b.req.line ≠ l) ∧ u = touchAddr s (l * 64) ∧ Coh.check u (o % 4096) l = St.ok) ∧
  (∃ (o a p : Nat) (d e v : Bytes) (u s : State), cohAtomicOk a p d e = true ∧ validAddr (lineOf a * 64) = true ∧ s.up 7 = true ∧ (∀ b ∈ s.coh.busy, b.req.line ≠ lineOf a) ∧ (∀ x ∈ s.coh.l1, x.line ≠ lineOf a) ∧ (∀ h, Coh.hostLineOf s (lineOf a) = some h → h ∉ s.host.hostHeld) ∧ u = touchAddr s (lineOf a * 64) ∧ Coh.writeCheck u (o % 4096) (lineOf a) false = St.ok ∧ Coh.moveOf u (lineOf a) = none ∧ v = ((padTo 64 (Coh.supply u (lineOf a)).1).drop (a % 64)).take d.length) ∧
  (∃ (k o l f : Nat) (d : Bytes) (u s : State) (c : Instr) (q : CohKind), (c, q) ∈ [(.readOwn k o l f d, .readOwn), (.upgrade k o l f d, .upgrade)] ∧ validAddr (l * 64) = true ∧ s.up 7 = true ∧ k < 512 ∧ coreServes s k = true ∧ (∀ b ∈ s.coh.busy, b.req.line ≠ l) ∧ (∀ x ∈ s.coh.l1, x.line ≠ l) ∧ (∀ h, Coh.hostLineOf s l = some h → h ∉ s.host.hostHeld) ∧ u = touchAddr (s.wakeCluster (k / 16)) (l * 64) ∧ Coh.writeCheck u (o % 4096) l false = St.ok ∧ Coh.moving u l = true) ∧
  (∃ (o a p : Nat) (d e : Bytes) (s : State), cohAtomicOk a p d e = false ∧ s.up 7 = true) :=
  ⟨by refine ⟨0, (0x103FFFFFFC0 / 64), _, base, ?_, ?_, ?_, rfl, ?_⟩ <;> decide +kernel,
   by refine ⟨0, 0x103FFFFFFFC, 2, [1, 0, 0, 0], [], _, _, base, ?_, ?_, ?_, ?_, ?_, fun _ _ => List.not_mem_nil, rfl, ?_, ?_, rfl⟩ <;> decide +kernel,
   by refine ⟨511, 1, 1024, 63, [1], _, { withHdm with mem := { withHdm.mem with moves := [⟨.hdm 0, .stack 0, []⟩] } }, .upgrade 511 1 1024 63 [1], .upgrade, ?_, ?_, ?_, ?_, ?_, ?_, ?_, fun _ _ => List.not_mem_nil, rfl, ?_⟩ <;> decide +kernel,
   ⟨0, 1, 2, [1, 0, 0, 0], [], base, by decide +kernel⟩⟩

theorem test_meets_CacheEventsComplete_1 :
  (∃ (k l : Nat) (x : L1Line) (s : State), s.up 7 = true ∧ Coh.l1 s.coh k l = some x ∧ (x.st = .m ∨ x.st = .o)) ∧
  (∃ (k l : Nat) (x : L1Line) (s : State), s.up 7 = true ∧ Coh.l1 s.coh k l = some x ∧ (x.st = .m ∨ x.st = .o) ∧ s.coh.lost.length < 4096) ∧
  (∃ (k l : Nat) (x : L1Line) (s : State), s.up 7 = true ∧ Coh.l1 s.coh k l = some x ∧ (x.st = .e ∨ x.st = .f)) ∧
  (∃ (k l : Nat) (s : State), s.up 7 = true) :=
  ⟨⟨511, 0, ⟨511, 0, .o, [], none⟩, (withLine .o), by decide +kernel, by decide +kernel, .inr rfl⟩,
   ⟨511, 0, ⟨511, 0, .o, [], none⟩, (withLine .o), by decide +kernel, by decide +kernel, .inr rfl, by decide +kernel⟩,
   ⟨511, 0, ⟨511, 0, .e, [], none⟩, (withLine .e), by decide +kernel, by decide +kernel, .inl rfl⟩,
   ⟨511, 0, base, by decide +kernel⟩⟩

theorem test_meets_CacheEventsComplete_2 :
  (∃ (a n : Nat) (s : State), validRange (a / 64 * 64) (64 * n) = true ∧ s.up 7 = true) ∧
  (∃ (a n : Nat) (s : State), validRange (a / 64 * 64) (64 * n) = true ∧ s.up 7 = true) ∧
  (∃ (s : State), s.coh.busy = []) ∧
  (∃ (l : Nat) (x : Nat × Nat × Bytes) (n : Snoop) (s : State), s.host.linkUp = true ∧ (s.coh.hostLines.find? fun x => x.1 == l) = some x) :=
  ⟨⟨0x103FFFFFFC0, 1, base, by decide +kernel⟩,
   ⟨0x103FFFFFFC0, 1, base, by decide +kernel⟩,
   ⟨base, by decide +kernel⟩,
   ⟨0, (0, 2, []), .data, ({ base with coh := { base.coh with hostLines := [(0, 2, [])] } }), by decide +kernel⟩⟩

theorem test_meets_CacheEventsComplete_3 :
  (∃ (l : Nat) (n : Snoop) (s : State), s.host.linkUp = true ∧ (s.coh.hostLines.find? fun x => x.1 == l) = none) ∧
  (∃ (l : Nat) (b : BackInv) (u s : State), s.host.linkUp = true ∧ ((s.host.bisnp.take 64).find? fun b => b.line == l) = some b ∧ b.grants = none ∧ b.zeroing = false ∧ u = sendZeroing (bisnpEnded s b)) ∧
  (∃ (l n : Nat) (b : BackInv) (u s : State), s.host.linkUp = true ∧ ((s.host.bisnp.take 64).find? fun b => b.line == l) = some b ∧ b.grants = some n ∧ u = sendZeroing (bisnpEnded s b)) ∧
  (∃ (l : Nat) (b : BackInv) (u s : State), s.host.linkUp = true ∧ ((s.host.bisnp.take 64).find? fun b => b.line == l) = some b ∧ b.grants = none ∧ b.zeroing = true ∧ u = sendZeroing (bisnpEnded s b)) :=
  ⟨⟨0, .cur, base, by decide +kernel⟩,
   ⟨0, ⟨0, 1, 0, [], false, none⟩, _, withHost (fun h => { h with bisnp := [⟨0, 1, 0, [], false, none⟩] }), by decide +kernel, by decide +kernel, by decide +kernel, by decide +kernel, rfl⟩,
   ⟨0, 1024, ⟨0, 4, 0, [], false, some 1024⟩, _, withHost (fun h => { h with bisnp := [⟨0, 4, 0, [], false, some 1024⟩] }), by decide +kernel, by decide +kernel, by decide +kernel, rfl⟩,
   ⟨0, ⟨0, 1, 0, [], true, none⟩, _, withHost (fun h => { h with bisnp := [⟨0, 1, 0, [], true, none⟩] }), by decide +kernel, by decide +kernel, by decide +kernel, by decide +kernel, rfl⟩⟩

theorem test_meets_PureOperatorsComputeTheirOutputs :
  (∃ (i : Nat) (s t : State) (r q : Run) (c : Instr) (k : Nat) (f : Graph.Ctx → OpOut), (c, k, f) ∈ pureOps i ∧ AtOperator s i r k ∧ Stores (inputsOf s r).2.2 (ctxOf s r) (f (ctxOf s r)) q t) ∧
  (∃ (i k : Nat) (b : Bool) (s t : State) (r q : Run), AtOperator s i r Op.select ∧ b = (field (ctxOf s r).entry 24 1 == 1) ∧ k = field (ctxOf s r).entry 22 2 ∧ Stores (noteSelect (inputsOf s r).2.2 b k ((ctxOf s r).x 0) ((ctxOf s r).xo 1)) (ctxOf s r) (opSelect b k ((ctxOf s r).x 0) ((ctxOf s r).xo 1)) q t) ∧
  (∃ (i : Nat) (s t u : State) (r q : Run) (m x : TensorDef) (ps : List Nat) (l : List Int), AtOperator s i r Op.nbMatvec ∧ m = tensorDef (ctxOf s r).image (opIn (ctxOf s r).entry 0) ∧ x = tensorDef (ctxOf s r).image (opIn (ctxOf s r).entry 1) ∧ ps = Graph.placesOf (inputsOf s r).2.2 r (opIn (ctxOf s r).entry 0) ∧ Nb.idleAll (inputsOf s r).2.2 ps = true ∧ Nb.keyProducts (inputsOf s r).2.2 r.owner m.last m.planes m.tileRows (Nb.codePlanes (Num.widthOf x.fmt) ((ctxOf s r).x 1).pats) ((List.range m.tiles).map (Graph.planeTile m ps)) = (St.ok, l, u) ∧ Stores u (ctxOf s r) (opMatvec (l.take m.rowCount) ((ctxOf s r).tensor m.scale).pats ((ctxOf s r).tensor x.scale).pats) q t) :=
  ⟨⟨1, (withRun run0 (imageOf1 (opBytes Op.convert []) [])), _, run0, _, .convert 1, Op.convert, (fun c => opConvert c.r0 (c.x 0)), by unfold pureOps; simp, by unfold AtOperator; decide +kernel, stores_ends (by decide +kernel)⟩,
   ⟨1, 0, false, (withRun run0 (imageOf1 (opBytes Op.select []) [])), _, run0, _, by unfold AtOperator; decide +kernel, by decide +kernel, by decide +kernel, stores_ends (by decide +kernel)⟩,
   ⟨1, withMatrix, _, _, run0, _, _, _, _, _, by unfold AtOperator; decide +kernel, rfl, rfl, rfl, by decide +kernel, ends_ok (by decide +kernel), stores_ends (by decide +kernel)⟩⟩

theorem test_meets_StatefulOperatorsComplete_1 :
  (∃ (i : Nat) (s t : State) (r q : Run), AtOperator s i r Op.matmul ∧ streamedWeight (ctxOf s r).image (ctxOf s r).entry = none ∧ Stores (inputsOf s r).2.2 (ctxOf s r) (opMatmul (ctxOf s r).r0 ((ctxOf s r).x 0) ((ctxOf s r).x 1) ((ctxOf s r).xo 2) ((ctxOf s r).xo 3) ((ctxOf s r).xo 4)) q t) ∧
  (∃ (i : Nat) (s u : State) (r : Run) (w : TensorDef) (g : GraphSlot) (f : Fill) (v : Bytes), AtOperator s i r Op.matmul ∧ streamedWeight (ctxOf s r).image (ctxOf s r).entry = some w ∧ Graph.slot (inputsOf s r).2.2 r.slot = some g ∧ (Graph.fillsOf g r.id).head? = some f ∧ f.op = r.pc ∧ f.chunk = r.fills ∧ f.status = St.ok ∧ ScaleIs (ctxOf s r) g f v ∧ u = Graph.mapSlot (inputsOf s r).2.2 g.num (fun g => { g with halves := g.halves.map fun h => h.filter fun x => x != f }) ∧ r.fills + 1 < chunkCount (ctxOf s r).image w) ∧
  (∃ (i : Nat) (s t u : State) (r q : Run) (w : TensorDef) (g : GraphSlot) (f : Fill) (v : Bytes) (x : Option Tens), AtOperator s i r Op.matmul ∧ streamedWeight (ctxOf s r).image (ctxOf s r).entry = some w ∧ Graph.slot (inputsOf s r).2.2 r.slot = some g ∧ (Graph.fillsOf g r.id).head? = some f ∧ f.op = r.pc ∧ f.chunk = r.fills ∧ f.status = St.ok ∧ ScaleIs (ctxOf s r) g f v ∧ u = Graph.mapSlot (inputsOf s r).2.2 g.num (fun g => { g with halves := g.halves.map fun h => h.filter fun x => x != f }) ∧ chunkCount (ctxOf s r).image w ≤ r.fills + 1 ∧ x = (match streamedScale (ctxOf s r).image (ctxOf s r).entry with | some n => some ⟨1, (tensorDef (ctxOf s r).image n).dims, patterns 1 v⟩ | none => (ctxOf s r).xo 3) ∧ Stores u (ctxOf s r) (opMatmul (ctxOf s r).r0 ((ctxOf s r).x 0) ⟨w.fmt, w.dims, (patterns w.fmt (r.streamed ++ f.data)).take w.elems⟩ ((ctxOf s r).xo 2) x ((ctxOf s r).xo 4)) q t) ∧
  (∃ (i op k n row : Nat) (b : Bytes) (s u : State) (r : Run) (g : GraphSlot) (w : TensorDef) (x : Nat × Bytes × State), Graph.run s i = some r ∧ Graph.slot s r.slot = some g ∧ s.mgmt = true ∧ s.up 7 = true ∧ r.waiting = false ∧ Graph.streamBusy s g r = false ∧ b = g.image ∧ ((streamFrom b r.pc).drop (r.fills + (Graph.fillsOf g r.id).length)).head? = some (op, k) ∧ ((g.halves.getD g.turn none).any fun f => f.run == r.id) = false ∧ n = opIn (opEntry b op) 1 ∧ w = tensorDef b n ∧ row = w.last * Num.widthOf w.fmt / 8 ∧ u = (if k = 0 then Graph.loadScale s r b op else s) ∧ x = Graph.readStored u r n (k * chunkRows b w * row) (min (chunkRows b w) (w.dims.headD 0 - k * chunkRows b w) * row)) :=
  ⟨⟨1, (withRun run0 (imageOf1 (opBytes Op.matmul []) [])), _, run0, _, by unfold AtOperator; decide +kernel, by decide +kernel, stores_ends (by decide +kernel)⟩,
   by refine ⟨1, (withFilled (imageOf1 (opBytes Op.matmul [(6, 2, 0)]) [(16, 4, 16777216), (128, 1, 4), (130, 1, 2), (136, 4, 2), (140, 4, 8388608)])), _, run0, _, _, ⟨1, 0, 0, 0, []⟩, _, by unfold AtOperator; decide +kernel, rfl, rfl, ?_, ?_, ?_, ?_, .inr ⟨.inr (by decide +kernel), rfl⟩, rfl, ?_⟩ <;> decide +kernel,
   by refine ⟨1, (withFilled (imageOf1 (opBytes Op.matmul [(6, 2, 0)]) [(16, 4, 16777216), (128, 1, 4), (130, 1, 2), (136, 4, 1), (140, 4, 32)])), _, _, run0, _, _, _, ⟨1, 0, 0, 0, []⟩, _, _, by unfold AtOperator; decide +kernel, rfl, rfl, ?_, ?_, ?_, ?_, .inr ⟨.inr (by decide +kernel), rfl⟩, rfl, ?_, rfl, stores_ends (by decide +kernel)⟩ <;> decide +kernel,
   by refine ⟨1, 0, 0, _, _, _, (withRun run0 (imageOf1 (opBytes Op.matmul [(6, 2, 0)]) [(16, 4, 16777216), (128, 1, 4), (130, 1, 2), (136, 4, 2), (140, 4, 8388608)])), _, run0, _, _, _, ?_, rfl, ?_, ?_, ?_, ?_, rfl, ?_, ?_, rfl, rfl, rfl, rfl, rfl⟩ <;> decide +kernel⟩

theorem test_meets_StatefulOperatorsComplete_2 :
  (∃ (i k : Nat) (s t u : State) (r q : Run), AtOperator s i r Op.filter ∧ u = (inputsOf s r).2.2 ∧ k = field (ctxOf s r).entry 22 1 ∧ u.collState k = 2 ∧ ((ctxOf s r).x 0).last = (u.params k).metaBytes ∧ filterBad (tensBytes ((ctxOf s r).x 2)) (u.params k).schema = false ∧ Stores u (ctxOf s r) ⟨[(((ctxOf s r).x 0).rows.zip (((ctxOf s r).x 1).pats.map (Num.ofBits 32))).map fun (q : List Nat × Int) => if filterTrue (tensBytes ((ctxOf s r).x 2)) (u.params k).schema ((q.1.take q.2.toNat).map (BitVec.ofNat 8)) then 1 else 0], {}⟩ q t) ∧
  (∃ (i : Nat) (s t : State) (r q : Run), AtOperator s i r Op.gather ∧ field (ctxOf s r).entry 22 4 = 0 ∧ Stores (inputsOf s r).2.2 (ctxOf s r) (opGather ((ctxOf s r).x 0) ((ctxOf s r).x 1)) q t) ∧
  (∃ (i k : Nat) (ix : List Int) (rows : List Nat) (b : Bytes) (s t u v : State) (r q : Run), AtOperator s i r Op.gather ∧ field (ctxOf s r).entry 22 4 ≠ 0 ∧ u = (inputsOf s r).2.2 ∧ tableFor u (ctxOf s r) ((ctxOf s r).od 0).fmt ((ctxOf s r).od 0).last = .ok k ∧ u.now ≤ r.stamp + u.num Ent.tableAgeLimit ∧ ix = ((ctxOf s r).x 1).pats.map (Num.ofBits 32) ∧ rows = (ix.filter fun (j : Int) => decide (0 ≤ j) && decide (j < Table.rowCount u k)).map (·.toNat) ∧ (∀ x ∈ rows, Table.inMap u k x = true) ∧ lookupRows u (.run r.id) k r.stamp rows = (true, St.ok, b, v) ∧ Stores v (ctxOf s r) ⟨[patterns ((ctxOf s r).od 0).fmt (ix.foldl (fun (acc : Bytes × List Bytes) (j : Int) => if decide (0 ≤ j) && decide (j < Table.rowCount u k) then (acc.1 ++ acc.2.headD [], acc.2.drop 1) else (acc.1 ++ List.replicate (Table.rowBytes u k) 0, acc.2)) ([], chunks (Table.rowBytes u k) rows.length b)).1], { indexFaults := (ix.filter fun (j : Int) => !(decide (0 ≤ j) && decide (j < Table.rowCount u k))).length }⟩ q t) ∧
  (∃ (i k n : Nat) (s t u : State) (r q : Run), AtOperator s i r Op.mergeUpdate ∧ u = (inputsOf s r).2.2 ∧ tableFor u (ctxOf s r) ((ctxOf s r).x 0).fmt ((ctxOf s r).x 0).last = .ok k ∧ r.asked = true ∧ r.answer = St.ok ∧ (u.strand.outMsgs.any fun m => m.use == .sums i) = false ∧ Table.awaited u (.run i) = false ∧ n = ((((ctxOf s r).x 1).pats.map (Num.ofBits 32)).filter fun (j : Int) => !(decide (0 ≤ j) && decide (j < Table.rowCount u k))).length ∧ Stores u (ctxOf s r) ⟨[], { indexFaults := n }⟩ q t) :=
  ⟨⟨1, 255, ((((withRun filterRun (imageOf1 (opBytes Op.filter [(22, 1, 255), (8, 2, 0)]) [(128, 1, 0)])).setNum (Ent.collStCollectionState 255) 2).setVal (Ent.collMetadataSchema 255) (.b (words 8 [(4, 1, 1)]))).setNum (Ent.collMetadataBytes 255) 1), _, _, filterRun, _, by unfold AtOperator; decide +kernel, rfl, by decide +kernel, by decide +kernel, by decide +kernel, by decide +kernel, stores_ends (by decide +kernel)⟩,
   ⟨1, (withRun run0 (imageOf1 (opBytes Op.gather []) [])), _, run0, _, by unfold AtOperator; decide +kernel, by decide +kernel, stores_ends (by decide +kernel)⟩,
   by refine ⟨1, 0, _, _, _, withTableRun Op.gather [(16, 2, 0)], _, _, _, tableRun, _, by unfold AtOperator; decide +kernel, ?_, rfl, ?_, ?_, rfl, rfl, ?_, ready_ok (by decide +kernel), stores_ends (by decide +kernel)⟩ <;> decide +kernel,
   by refine ⟨1, 0, _, ({ openTable 0 with gph := (withRun { run0 with asked := true } (imageOf1 (opBytes Op.mergeUpdate [(22, 4, 7), (4, 2, 0)]) [(136, 4, 64), (128, 1, 0)])).gph }), _, _, { run0 with asked := true }, _, by unfold AtOperator; decide +kernel, rfl, ?_, ?_, ?_, ?_, ?_, rfl, stores_ends (by decide +kernel)⟩ <;> decide +kernel⟩

theorem test_meets_StatefulOperatorsComplete_3 :
  (∃ (i k : Nat) (ix : List Int) (given : List (Nat × Bytes)) (rows : List (Nat × Nat × Bytes)) (s t u v w : State) (r q : Run), AtOperator s i r Op.mergeUpdate ∧ u = (inputsOf s r).2.2 ∧ tableFor u (ctxOf s r) ((ctxOf s r).x 0).fmt ((ctxOf s r).x 0).last = .ok k ∧ r.asked = false ∧ ix = ((ctxOf s r).x 1).pats.map (Num.ofBits 32) ∧ given = ((ix.zip ((ctxOf s r).x 0).rows).filter fun (x : Int × List Nat) => decide (0 ≤ x.1) && decide (x.1 < Table.rowCount u k)).map (fun (x : Int × List Nat) => (x.1.toNat, packElems ((ctxOf s r).x 0).fmt x.2)) ∧ (∀ x ∈ given, Table.inMap u k x.1 = true ∧ Table.shoalNode u k x.1 = u.strand.nodeId) ∧ numberRows given u = (rows, v) ∧ (rows.foldl (fun (acc : Nat × State) x => (max acc.1 (Table.accept acc.2 k x.1 u.strand.nodeId x.2.1 x.2.2 (.run i)).1, (Table.accept acc.2 k x.1 u.strand.nodeId x.2.1 x.2.2 (.run i)).2)) (St.ok, v)) = (St.ok, w) ∧ (w.strand.outMsgs.any fun m => m.use == .sums i) = false ∧ Table.awaited w (.run i) = false ∧ Stores (w.bump Ent.unroutableFrames 0) (ctxOf s r) ⟨[], { indexFaults := (ix.filter fun (j : Int) => !(decide (0 ≤ j) && decide (j < Table.rowCount u k))).length }⟩ q t) ∧
  (∃ (i l n : Nat) (o : OwnedBerth) (ps : List Nat) (s t u v : State) (r q : Run), AtOperator s i r Op.berthAppend ∧ u = (inputsOf s r).2.2 ∧ Graph.berthFor u r = .ok o ∧ l = field (ctxOf s r).entry 22 1 ∧ n = ((ctxOf s r).x 0).dims.headD 0 ∧ o.tokens.getD l 0 + n ≤ o.geo.capacity ∧ absentPages u (appendIds o l (o.tokens.getD l 0) n) = [] ∧ appendRows (ctxOf s r) u o l (o.tokens.getD l 0) n = (St.ok, ps, v) ∧ Stores (Berth.mapOwned (Berth.mapOwned v o.id fun o => { o with dirty := (o.dirty ++ ps).eraseDups }) o.id fun w => { w with tokens := w.tokens.set l (o.tokens.getD l 0 + n) }) (ctxOf s r) ⟨[], quantCount ((ctxOf s r).rnd o.geo.fmt) ((appendTodo o.geo n).map (appendRow (ctxOf s r) o.geo))⟩ q t) ∧
  (∃ (i : Nat) (n : Int) (s : State) (r : Run), AtOperator s i r Op.loop ∧ ((ctxOf s r).xo 0 = none ∧ n = (field (ctxOf s r).entry 24 4 : Nat) ∨ ∃ x, (ctxOf s r).xo 0 = some x ∧ n = scalarOf x) ∧ 0 < n ∧ n ≤ 65536) ∧
  (∃ (i : Nat) (s : State) (r : Run), AtOperator s i r Op.loop ∧ ((ctxOf s r).xo 0 = none ∧ field (ctxOf s r).entry 24 4 = 0 ∨ ∃ x, (ctxOf s r).xo 0 = some x ∧ scalarOf x = 0)) :=
  ⟨by refine ⟨1, 0, _, _, _, withTableRun Op.mergeUpdate [(4, 2, 0)], _, _, _, _, tableRun, _, by unfold AtOperator; decide +kernel, rfl, ?_, ?_, rfl, rfl, ?_, rfl, Prod.ext (by decide +kernel) rfl, ?_, ?_, stores_ends (by decide +kernel)⟩ <;> decide +kernel,
   by refine ⟨1, 0, 0, berth0, _, (withBerth (withRun { run0 with berth := some 5 } (imageOf1 (opBytes Op.berthAppend []) [])) berth0), _, _, _, { run0 with berth := some 5 }, _, by unfold AtOperator; decide +kernel, rfl, ?_, ?_, ?_, ?_, ?_, ends_ok (by decide +kernel), stores_ends (by decide +kernel)⟩ <;> decide +kernel,
   ⟨1, 65536, (withRun run0 (imageOf1 (opBytes Op.loop [(24, 4, 65536)]) [])), run0, by unfold AtOperator; decide +kernel, .inl ⟨by decide +kernel, by decide +kernel⟩, by decide, by decide⟩,
   ⟨1, (withRun run0 (imageOf1 (opBytes Op.loop []) [])), run0, by unfold AtOperator; decide +kernel, .inl ⟨by decide +kernel, by decide +kernel⟩⟩⟩

theorem test_meets_StatefulOperatorsComplete_4 :
  (∃ (i : Nat) (s : State) (r : Run), AtOperator s i r Op.branch) ∧
  (∃ (i : Nat) (n : Int) (s : State) (r : Run), AtOperator s i r Op.tideWait ∧ ((ctxOf s r).xo 0 = none ∧ n = (field (ctxOf s r).entry 22 4 : Nat) ∨ ∃ x, (ctxOf s r).xo 0 = some x ∧ n = scalarOf x) ∧ 0 ≤ n ∧ n ≤ 4096 ∧ r.stamp + n.toNat ≤ ((inputsOf s r).2.2).now) ∧
  (∃ (i : Nat) (n : Int) (s : State) (r : Run), AtOperator s i r Op.tideWait ∧ ((ctxOf s r).xo 0 = none ∧ n = (field (ctxOf s r).entry 22 4 : Nat) ∨ ∃ x, (ctxOf s r).xo 0 = some x ∧ n = scalarOf x) ∧ 0 ≤ n ∧ n ≤ 4096 ∧ ((inputsOf s r).2.2).now < r.stamp + n.toNat) ∧
  (∃ (i n : Nat) (r : Run) (s : State), Graph.run s i = some r ∧ r.holdTide = some n ∧ s.mgmt = true ∧ n ≤ s.now) :=
  ⟨⟨1, (withRun run0 (imageOf1 (opBytes Op.branch []) [])), run0, by unfold AtOperator; decide +kernel⟩,
   ⟨1, 1000, (withRun run0 (imageOf1 (opBytes Op.tideWait [(22, 4, 1000)]) [])), run0, by unfold AtOperator; decide +kernel, .inl ⟨by decide +kernel, by decide +kernel⟩, by decide, by decide, by decide +kernel⟩,
   ⟨1, 2000, (withRun run0 (imageOf1 (opBytes Op.tideWait [(22, 4, 2000)]) [])), run0, by unfold AtOperator; decide +kernel, .inl ⟨by decide +kernel, by decide +kernel⟩, by decide, by decide, by decide +kernel⟩,
   ⟨1, 100000, { run0 with holdTide := some 100000 }, (withRun { run0 with holdTide := some 100000 } []), by decide +kernel⟩⟩

theorem test_meets_AttentionOperatorsComplete_1 :
  (∃ (i l n : Nat) (o : OwnedBerth) (ss : List (List Nat)) (s t u v : State) (r q : Run), AtOperator s i r Op.attendQk ∧ u = (inputsOf s r).2.2 ∧ Graph.berthFor u r = .ok o ∧ l = field (ctxOf s r).entry 22 1 ∧ n = o.tokens.getD l 0 ∧ absentPages u (Graph.keyIds o l n ++ Graph.scaleIds o l 0 n) = [] ∧ Graph.banksIdle u (Graph.keyIds o l n) = true ∧ Graph.scoreRows (ctxOf s r) u o l n = (St.ok, ss, v) ∧ Stores v (ctxOf s r) ⟨[ss.flatMap fun x => x.take ((ctxOf s r).od 0).last ++ List.replicate (((ctxOf s r).od 0).last - min ((ctxOf s r).od 0).last n) Num.negInf32], quantCount (ctxOf s r).r0 (((ctxOf s r).x 0).rows.map fun x => x.map (Num.decode Num.fp32))⟩ q t) ∧
  (∃ (i l : Nat) (o : OwnedBerth) (s t u : State) (r q : Run), AtOperator s i r Op.attendPv ∧ u = (inputsOf s r).2.2 ∧ Graph.berthFor u r = .ok o ∧ l = field (ctxOf s r).entry 22 1 ∧ o.tokens.getD l 0 = 0 ∧ Stores u (ctxOf s r) ⟨[((ctxOf s r).x 0).rows.flatMap fun _ => List.replicate o.geo.headDim 0], {}⟩ q t) ∧
  (∃ (i l n : Nat) (o : OwnedBerth) (fs : List (List Nat × Nat × List Nat)) (os : List (List Nat)) (s t u v w : State) (r q : Run), AtOperator s i r Op.attendPv ∧ u = (inputsOf s r).2.2 ∧ Graph.berthFor u r = .ok o ∧ l = field (ctxOf s r).entry 22 1 ∧ n = o.tokens.getD l 0 ∧ n ≠ 0 ∧ absentPages u (Graph.scaleIds o l 1 n) = [] ∧ Graph.foldRows (ctxOf s r) u o l n ((ctxOf s r).x 0).rows = (St.ok, fs, v) ∧ absentPages u (Graph.valueIds o l n fs) = [] ∧ Graph.banksIdle u (Graph.valueIds o l n fs) = true ∧ Graph.valueRows (ctxOf s r) v o l n fs = (St.ok, os, w) ∧ Stores w (ctxOf s r) ⟨[os.flatten], quantCount (ctxOf s r).r0 ((fs.zip ((ctxOf s r).x 0).rows).map fun p => foldedWeights p.1.1 p.2)⟩ q t) ∧
  (∃ (i l : Nat) (o : OwnedBerth) (s t u : State) (r q : Run), AtOperator s i r Op.attend ∧ u = (inputsOf s r).2.2 ∧ Graph.berthFor u r = .ok o ∧ l = field (ctxOf s r).entry 22 1 ∧ o.tokens.getD l 0 = 0 ∧ Stores u (ctxOf s r) ⟨[((ctxOf s r).x 0).rows.flatMap fun _ => List.replicate o.geo.headDim 0, ((ctxOf s r).x 0).rows.flatMap fun _ => emptySummary], {}⟩ q t) :=
  ⟨by refine ⟨1, 0, 0, berth0, _, (withBerth (withRun { run0 with berth := some 5 } (imageOf1 (opBytes Op.attendQk []) [])) berth0), _, _, _, { run0 with berth := some 5 }, _, by unfold AtOperator; decide +kernel, rfl, ?_, ?_, ?_, ?_, ?_, ends_ok (by decide +kernel), stores_ends (by decide +kernel)⟩ <;> decide +kernel,
   ⟨1, 0, berth0, (withBerth (withRun { run0 with berth := some 5 } (imageOf1 (opBytes Op.attendPv []) [])) berth0), _, _, { run0 with berth := some 5 }, _, by unfold AtOperator; decide +kernel, rfl, by decide +kernel, by decide +kernel, by decide +kernel, stores_ends (by decide +kernel)⟩,
   by refine ⟨1, 0, 1, berth1, _, _, (withPages (withBerth (withRun { run0 with berth := some 5 } (imageOf1 (opBytes Op.attendPv []) [])) berth1)), _, _, _, _, { run0 with berth := some 5 }, _, by unfold AtOperator; decide +kernel, rfl, ?_, ?_, ?_, ?_, ?_, ends_ok (by decide +kernel), ?_, ?_, ends_ok (by decide +kernel), stores_ends (by decide +kernel)⟩ <;> decide +kernel,
   ⟨1, 0, berth0, (withBerth (withRun { run0 with berth := some 5 } (imageOf1 (opBytes Op.attend []) [])) berth0), _, _, { run0 with berth := some 5 }, _, by unfold AtOperator; decide +kernel, rfl, by decide +kernel, by decide +kernel, by decide +kernel, stores_ends (by decide +kernel)⟩⟩

theorem test_meets_AttentionOperatorsComplete_2 :
  (∃ (i l n : Nat) (o : OwnedBerth) (ss os : List (List Nat)) (ws : List (List Nat × List Nat)) (fs : List (List Nat × Nat × List Nat)) (s t u v w x : State) (r q : Run), AtOperator s i r Op.attend ∧ u = (inputsOf s r).2.2 ∧ Graph.berthFor u r = .ok o ∧ l = field (ctxOf s r).entry 22 1 ∧ n = o.tokens.getD l 0 ∧ n ≠ 0 ∧ absentPages u (Graph.keyIds o l n ++ Graph.scaleIds o l 0 n ++ Graph.scaleIds o l 1 n) = [] ∧ Graph.banksIdle u (Graph.keyIds o l n) = true ∧ Graph.scoreRows (ctxOf s r) u o l n = (St.ok, ss, v) ∧ ws = ss.map (attendWeights (field (ctxOf s r).entry 32 2)) ∧ Graph.foldRows (ctxOf s r) v o l n (ws.map (·.1)) = (St.ok, fs, w) ∧ absentPages u (Graph.valueIds o l n fs) = [] ∧ Graph.banksIdle u (Graph.valueIds o l n fs) = true ∧ Graph.valueRows (ctxOf s r) w o l n fs = (St.ok, os, x) ∧ Stores (noteAttend x (field (ctxOf s r).entry 32 2) ss) (ctxOf s r) ⟨[os.flatten, ws.flatMap (·.2)], (quantCount (ctxOf s r).r0 (((ctxOf s r).x 0).rows.map fun y => y.map (Num.decode Num.fp32))).plus (quantCount (ctxOf s r).r0 ((fs.zip (ws.map (·.1))).map fun p => foldedWeights p.1.1 p.2))⟩ q t) :=
  by refine ⟨1, 0, 1, berth1, _, _, _, _, (withPages (withBerth (withRun { run0 with berth := some 5 } (imageOf1 (opBytes Op.attend []) [])) berth1)), _, _, _, _, _, { run0 with berth := some 5 }, _, by unfold AtOperator; decide +kernel, rfl, ?_, ?_, ?_, ?_, ?_, ?_, ends_ok (by decide +kernel), rfl, ends_ok (by decide +kernel), ?_, ?_, ends_ok (by decide +kernel), stores_ends (by decide +kernel)⟩ <;> decide +kernel

theorem test_meets_GraphCommandsComplete_1 :
  (∃ (n k : Nat) (x : HostRead) (h : HostCmd) (b : Bytes) (s w : State), s.waitingCmd n 0x10 = some h ∧ s.mgmt = true ∧ k = field h.desc 4 2 ∧ k ≠ 0 ∧ k ≤ 255 ∧ Graph.slot s k = none ∧ field h.desc 8 8 % 64 = 0 ∧ functionOn s 2 = true ∧ field h.desc 16 8 ≤ s.num Ent.maxImageBytes ∧ readInput s (field h.desc 8 8) (field h.desc 16 8) x = (St.ok, b) ∧ inputHeld s (field h.desc 8 8) (field h.desc 16 8) = false ∧ w = touchInput s (field h.desc 8 8) (field h.desc 16 8) ∧ Graph.imageRefusal w b (field h.desc 16 8) = St.ok ∧ worst (Graph.placeRefusals w b) = none ∧ Graph.stackShort w b = false) ∧
  (∃ (n : Nat) (a b : HostRead) (l : List HostRead) (h : HostCmd) (s : State), s.waitingCmd n 0x11 = some h ∧ s.mgmt = true) ∧
  (∃ (n : Nat) (a b : HostRead) (l : List HostRead) (h : HostCmd) (s : State), s.waitingCmd n 0x23 = some h ∧ s.mgmt = true) ∧
  (∃ (n o sd dl : Nat) (k parked : Bool) (a b : HostRead) (l : List HostRead) (h : HostCmd) (d : Bytes) (g : GraphSlot) (p q : Nat × Bytes) (ins : List (Nat × Nat)) (got : List (Nat × Bytes)) (c : Instr) (s w v x y z : State), (c, k, o) ∈ [(.graphRun n a b l, false, 0x11), (.attendCommand n a b l, true, 0x23)] ∧ s.waitingCmd n o = some h ∧ s.mgmt = true ∧ d = h.desc ∧ Graph.slot s (field d 4 2) = some g ∧ p = readFor s g.owner (field d 16 8) (16 * (Graph.ofKind g.image 0).length) a ∧ q = readFor s g.owner (field d 24 8) (16 * (Graph.ofKind g.image 1).length) b ∧ p.1 = St.ok ∧ q.1 = St.ok ∧ inputHeld s (field d 16 8) (16 * (Graph.ofKind g.image 0).length) = false ∧ inputHeld s (field d 24 8) (16 * (Graph.ofKind g.image 1).length) = false ∧ w = touchInput (touchInput s (field d 16 8) (16 * (Graph.ofKind g.image 0).length)) (field d 24 8) (16 * (Graph.ofKind g.image 1).length) ∧ ins = tableRecords p.2 ∧ runStale w d k = false ∧ worst (runRefusals w d k g St.ok ins (tableRecords q.2)) = none ∧ ins.length ≤ l.length ∧ got = (ins.zip l).map (fun z => readFor w g.owner z.1.1 z.1.2 z.2) ∧ (got.map (·.1)).foldl max 0 = St.ok ∧ (∀ z ∈ ins, inputHeld w z.1 z.2 = false) ∧ v = ins.foldl (fun s z => touchInput s z.1 z.2) w ∧ sd = (if field d 8 8 = 0 then v.drawRandom.1.toNat % (2 ^ 64 - 1) + 1 else field d 8 8) ∧ x = startCmd (if field d 8 8 = 0 then v.drawRandom.2.bump Ent.seedsDrawn else v) n ∧ dl = (if field d 32 4 = 0 then v.cfg Ent.defaultRunDeadline else field d 32 4) ∧ startRun x (.command n) g (acceptance v h).1 sd (if dl = 0 then 0 else (acceptance v h).2 + dl) (if k || bit (field d 1 1) 0 then some (field d 40 8) else none) (k && bit (field d 1 1) 1) (((Graph.ofKind g.image 0).zip (got.map (·.2))).map fun z => (z.1, (patterns (tensorDef g.image z.1).fmt z.2).take (tensorDef g.image z.1).elems)) (tableRecords q.2) = some y ∧ parked = ((runBerth w (field d 40 8)).2.isSome && (k || bit (field d 1 1) 0)) ∧ (parked = false ∧ z = y ∨ parked = true ∧ firstInLine y (field d 40 8) n = true ∧ Berth.startWake y (field d 40 8) none = some z)) :=
  ⟨by refine ⟨1, 255, .ok signedImage, cmdOf 0x10 (words 64 [(4, 2, 255), (8, 8, 4096), (16, 8, 832)]), signedImage, { withCmdIn { base with key := ⟨[(1, 1)], [], []⟩ } 0x10 (words 64 [(4, 2, 255), (8, 8, 4096), (16, 8, 832)]) with sec := { base.sec with graphKeys := [(1, beBytes 512 signModulus)] } }, _, ?_, ?_, ?_, ?_, ?_, ?_, ?_, ?_, ?_, ?_, ?_, rfl, ?_, ?_, ?_⟩ <;> decide +kernel,
   ⟨1, .ok [], .ok [], [], cmdOf 0x11 [], (withCmd 0x11 []), by decide +kernel⟩,
   ⟨1, .ok [], .ok [], [], cmdOf 0x23 [], (withCmd 0x23 []), by decide +kernel⟩,
   by refine ⟨1, 0x11, _, _, false, _, .ok [], .ok [], [], cmdOf 0x11 (words 64 [(4, 2, 255)]), _, slotOf .loaded [] none, _, _, _, _, .graphRun 1 (.ok []) (.ok []) [], withCmdIn (withRun run0 []) 0x11 (words 64 [(4, 2, 255)]), _, _, _, _, _, .head _, ?_, ?_, rfl, ?_, rfl, rfl, ?_, ?_, ?_, ?_, rfl, rfl, ?_, ?_, ?_, rfl, ?_, ?_, rfl, rfl, rfl, rfl, is_some (by decide +kernel), rfl, .inl ⟨by decide +kernel, rfl⟩⟩ <;> decide +kernel⟩

theorem test_meets_GraphCommandsComplete_2 :
  (∃ (n : Nat) (h : HostCmd) (g : GraphSlot) (s : State), s.waitingCmd n 0x12 = some h ∧ s.mgmt = true ∧ Graph.slot s (field h.desc 4 2) = some g ∧ g.stage = .loaded) ∧
  (∃ (k n : Nat) (g : GraphSlot) (s : State), Graph.slot s k = some g ∧ g.stage = .unloading ∧ s.mgmt = true ∧ (s.gph.runs.any fun r => r.slot == k) = false ∧ g.unload = some n) ∧
  (∃ (i b : Nat) (r : Run) (w : OwnedBerth) (s : State), Graph.run s i = some r ∧ r.waiting = true ∧ r.berth = some b ∧ s.mgmt = true ∧ firstInLine s b (runOrder r) = true ∧ Berth.find s b = some w ∧ Berth.mustWait s w = false ∧ w.unconfirmed = false ∧ w.expired = false) ∧
  (∃ (i : Nat) (r : Run) (s : State), Graph.run s i = some r ∧ s.mgmt = true ∧ r.deadline ≠ 0 ∧ r.deadline ≤ s.subticks) :=
  ⟨⟨1, cmdOf 0x12 (words 8 [(4, 2, 255)]), slotOf .loaded [] none, (withCmdIn (withRun run0 []) 0x12 (words 8 [(4, 2, 255)])), by decide +kernel⟩,
   ⟨255, 1, slotOf .unloading [] (some 1), ({ base with gph := ⟨[slotOf .unloading [] (some 1)], [], 2, [], []⟩ }), by decide +kernel⟩,
   ⟨1, 5, { run0 with berth := some 5, waiting := true }, berth0, (withBerth (withRun { run0 with berth := some 5, waiting := true } []) berth0), by decide +kernel⟩,
   ⟨1, { run0 with deadline := 1 }, (withRun { run0 with deadline := 1 } []), by decide +kernel⟩⟩

theorem test_meets_BerthCommandsComplete_1 :
  (∃ (n k q : Nat) (h : HostCmd) (g : Geometry) (x : Option Nat) (u w : State) (s : State), s.waitingCmd n 0x20 = some h ∧ s.mgmt = true ∧ Berth.createRefusal s h.desc = none ∧ Berth.namedHome s h.desc = s.strand.nodeId ∧ Berth.freeNumber s = some k ∧ q = Berth.nextSeqOf s k ∧ g = Berth.geometryOf h.desc ∧ (Berth.recordPage s k).bind (fun v => Berth.allocPages v (Berth.idOf s.strand.nodeId k) (field h.desc 4 2 % 4096) g (bit (field h.desc 1 1) 0)) = some u ∧ x = Berth.chooseShadow u (Berth.idOf s.strand.nodeId k) u.strand.nodeId ∧ w = Berth.own (Berth.record u k u.strand.nodeId (field h.desc 4 2 % 4096) g (bit (field h.desc 1 1) 0) q x) (Berth.idOf s.strand.nodeId k) (field h.desc 4 2 % 4096) g (bit (field h.desc 1 1) 0) q (u.now + u.cfg Ent.leaseTides) x) ∧
  (∃ (n d : Nat) (h : HostCmd) (s : State), s.waitingCmd n 0x20 = some h ∧ s.mgmt = true ∧ Berth.createRefusal s h.desc = none ∧ d = Berth.namedHome s h.desc ∧ d ≠ s.strand.nodeId ∧ unsent s d 2 = false) ∧
  (∃ (n o : Nat) (h : HostCmd) (c : Instr) (s : State), (c, o) ∈ [(.park n, 0x21), (.wake n, 0x22), (.release n, 0x24), (.handoff n, 0x25), (.checkpoint n, 0x26)] ∧ s.waitingCmd n o = some h ∧ s.mgmt = true) ∧
  (∃ (n : Nat) (h : HostCmd) (o : OwnedBerth) (s : State), s.waitingCmd n 0x21 = some h ∧ s.mgmt = true ∧ Berth.meets s (field h.desc 16 8) = none ∧ functionOn s 3 = true ∧ Berth.find s (field h.desc 16 8) = some o ∧ runWaits s o = false) :=
  ⟨by refine ⟨1, 0, _, cmdOf 0x20 (words 64 [(4, 2, 1), (8, 4, 2147483648), (24, 2, 1), (26, 1, 1), (27, 1, 5), (28, 2, 64), (30, 4, 512), (34, 4, 1)]), _, _, _, _, ((withCmdIn { base with key := ⟨[(1, 1)], [], []⟩ } 0x20 (words 64 [(4, 2, 1), (8, 4, 2147483648), (24, 2, 1), (26, 1, 1), (27, 1, 5), (28, 2, 64), (30, 4, 512), (34, 4, 1)])).setVal Ent.compositionMap (.b (words 8 [(4, 1, 1)]))), ?_, ?_, ?_, ?_, ?_, rfl, rfl, is_some (by decide +kernel), rfl, rfl⟩ <;> decide +kernel,
   ⟨1, 1, cmdOf 0x20 (words 64 [(4, 2, 1), (8, 4, 1), (24, 2, 1), (26, 1, 1), (27, 1, 5), (28, 2, 64), (30, 4, 512), (34, 4, 1)]), { (withCmdIn { base with key := ⟨[(1, 1)], [], []⟩ } 0x20 (words 64 [(4, 2, 1), (8, 4, 1), (24, 2, 1), (26, 1, 1), (27, 1, 5), (28, 2, 64), (30, 4, 512), (34, 4, 1)])).setVal Ent.compositionMap (.b (words 16 [(4, 1, 1), (8, 4, 1), (12, 1, 1)])) with strand := { base.strand with dimZ := 2, ports := List.replicate 4 Port.cold ++ [port .up, Port.cold] } }, by decide +kernel⟩,
   ⟨1, 0x25, cmdOf 0x25 (words 64 [(16, 8, 5)]), .handoff 1, onBerth 0x25 [] [berth0] [], by decide +kernel⟩,
   ⟨1, cmdOf 0x21 (words 64 [(16, 8, 5)]), berth0, onBerth 0x21 [] [berth0] [], by decide +kernel⟩⟩

theorem test_meets_BerthCommandsComplete_2 :
  (∃ (n : Nat) (h : HostCmd) (o : OwnedBerth) (s : State), s.waitingCmd n 0x22 = some h ∧ s.mgmt = true ∧ Berth.meets s (field h.desc 16 8) = none ∧ functionOn s 3 = true ∧ Berth.find s (field h.desc 16 8) = some o ∧ runWaits s o = false ∧ Berth.homeHere s (field h.desc 16 8) = true) ∧
  (∃ (n : Nat) (h : HostCmd) (o : OwnedBerth) (s : State), s.waitingCmd n 0x24 = some h ∧ s.mgmt = true ∧ Berth.meets s (field h.desc 16 8) = none ∧ functionOn s 3 = true ∧ Berth.find s (field h.desc 16 8) = some o ∧ runWaits s o = false) ∧
  (∃ (n d : Nat) (h : HostCmd) (o : OwnedBerth) (s : State), s.waitingCmd n 0x25 = some h ∧ s.mgmt = true ∧ Berth.meets s (field h.desc 16 8) = none ∧ functionOn s 3 = true ∧ Berth.find s (field h.desc 16 8) = some o ∧ runWaits s o = false ∧ d = field h.desc 8 4 % 2 ^ 20 ∧ d ≠ s.strand.nodeId ∧ inComposition s d = true) ∧
  (∃ (n : Nat) (h : HostCmd) (o : OwnedBerth) (s : State), s.waitingCmd n 0x26 = some h ∧ s.mgmt = true ∧ Berth.meets s (field h.desc 16 8) = none ∧ functionOn s 3 = true ∧ Berth.find s (field h.desc 16 8) = some o ∧ runWaits s o = false) :=
  ⟨⟨1, cmdOf 0x22 (words 64 [(16, 8, 5)]), berth0, onBerth 0x22 [] [berth0] [], by decide +kernel⟩,
   ⟨1, cmdOf 0x24 (words 64 [(16, 8, 5)]), berth0, onBerth 0x24 [] [berth0] [], by decide +kernel⟩,
   ⟨1, 1, cmdOf 0x25 (words 64 [(16, 8, 5), (8, 4, 1)]), berth0, onBerth 0x25 [(8, 4, 1)] [berth0] [], by decide +kernel⟩,
   ⟨1, cmdOf 0x26 (words 64 [(16, 8, 5)]), berth0, onBerth 0x26 [] [berth0] [], by decide +kernel⟩⟩

theorem test_meets_BerthCommandsComplete_3 :
  (∃ (n b : Nat) (h : HostCmd) (r : HomeBerth) (t : State) (s : State), s.waitingCmd n 0x22 = some h ∧ s.mgmt = true ∧ b = field h.desc 16 8 ∧ Berth.meets s b = some .stale ∧ Berth.homeHere s b = true ∧ Berth.findHome s (Berth.num b) = some r ∧ r.state = .parked ∧ functionOn s 3 = true ∧ firstInLine s b n = true ∧ Berth.startWake (startCmd s n) b (some n) = some t) ∧
  (∃ (n b : Nat) (h : HostCmd) (r : HomeBerth) (s : State), s.waitingCmd n 0x24 = some h ∧ s.mgmt = true ∧ b = field h.desc 16 8 ∧ Berth.meets s b = some .stale ∧ Berth.homeHere s b = true ∧ Berth.findHome s (Berth.num b) = some r ∧ r.state = .parked ∧ functionOn s 3 = true ∧ firstInLine s b n = true) ∧
  (∃ (n b : Nat) (h : HostCmd) (r : HomeBerth) (s : State), s.waitingCmd n 0x21 = some h ∧ s.mgmt = true ∧ b = field h.desc 16 8 ∧ Berth.meets s b = some .stale ∧ Berth.homeHere s b = true ∧ Berth.findHome s (Berth.num b) = some r ∧ r.state = .parked ∧ functionOn s 3 = true ∧ firstInLine s b n = true) ∧
  (∃ (a : Nat) (p : BerthPage) (s u : State) (st : Nat), s.mgmt = true ∧ Berth.takePage s p = (st, u) ∧ st ≠ St.retry) :=
  ⟨by refine ⟨1, 5, cmdOf 0x22 (words 64 [(16, 8, 5)]), home0 .parked, _, onBerth 0x22 [] [] [home0 .parked], ?_, ?_, ?_, ?_, ?_, ?_, ?_, ?_, ?_, is_some (by decide +kernel)⟩ <;> decide +kernel,
   ⟨1, 5, cmdOf 0x24 (words 64 [(16, 8, 5)]), home0 .parked, onBerth 0x24 [] [] [home0 .parked], by decide +kernel⟩,
   ⟨1, 5, cmdOf 0x21 (words 64 [(16, 8, 5)]), home0 .parked, onBerth 0x21 [] [] [home0 .parked], by decide +kernel⟩,
   ⟨9, ⟨5, .park, 0, [], [], 1, geo0, false, [0], 0⟩, { base with berth := { base.berth with homes := [home0 .parking] } }, _, _, by decide +kernel, rfl, by decide +kernel⟩⟩

theorem test_meets_BerthCommandsComplete_4 :
  (∃ (a : Nat) (p : BerthPage) (s : State), s.mgmt = true) ∧
  (∃ (a : Nat) (m : BerthMsg) (s : State), s.mgmt = true) ∧
  (∃ (a : Nat) (m : BerthMsg) (s : State), s.mgmt = true ∧ (Berth.controlled m).filter (Berth.homeHere (Berth.takeControl s a m)) = none) ∧
  (∃ (b : Nat) (x : OwnedBerth) (w : BerthWait) (l : List BerthWait) (h : HostCmd) (s : State), Berth.find s b = some x ∧ x.waits = w :: l ∧ s.mgmt = true ∧ Berth.mustWait s x = false ∧ x.unconfirmed = false ∧ x.expired = false ∧ firstInLine s b w.cmd = true ∧ (Berth.mapOwned s b fun o => { o with waits := l }).cmd w.cmd = some h) :=
  ⟨⟨9, ⟨5, .park, 0, [], [], 1, geo0, false, [0], 0⟩, base, by decide +kernel⟩,
   ⟨9, .discard 5, base, by decide +kernel⟩,
   ⟨9, .discard (2 ^ 44 + 5), base, by decide +kernel⟩,
   ⟨5, { berth0 with waits := [⟨1, 0x24⟩] }, ⟨1, 0x24⟩, [], cmdOf 0x24 [], (withBerth (withCmd 0x24 []) { berth0 with waits := [⟨1, 0x24⟩] }), by decide +kernel⟩⟩

theorem test_meets_BerthCommandsComplete_5 :
  (∃ (b : Nat) (x : OwnedBerth) (s : State), Berth.find s b = some x ∧ s.mgmt = true ∧ s.cfg Ent.autoParkAge ≠ 0 ∧ x.pinned = false ∧ Berth.mustWait s x = false ∧ x.unconfirmed = false ∧ x.expired = false ∧ s.cfg Ent.autoParkAge ≤ berthAge s x) ∧
  (∃ (k : Nat) (h : HomeBerth) (s : State), Berth.findHome s k = some h ∧ s.mgmt = true ∧ h.state ≠ .free ∧ h.state ≠ .lost ∧ h.state ≠ .parked ∧ h.word.lease ≤ s.now ∧ ((expelledNodes s).contains h.word.owner = true ∨ h.word.owner = s.strand.nodeId ∧ Berth.find s (Berth.idOf s.strand.nodeId k) = none)) :=
  ⟨⟨5, berth0, ((withBerth base berth0).setNum Ent.autoParkAge 100000), by decide +kernel⟩,
   ⟨5, home0 .resident, { base with berth := { base.berth with homes := [home0 .resident] } }, by decide +kernel⟩⟩

theorem test_meets_BerthEventsComplete_1 :
  (∃ (b : Nat) (x : OwnedBerth) (s : State), Berth.find s b = some x ∧ s.mgmt = true ∧ x.state = .parking ∧ Berth.homeHere s b = false ∧ x.uncopied = [] ∧ x.unacked = [] ∧ x.eventTide ≠ 0 ∧ x.unconfirmed = false) ∧
  (∃ (b : Nat) (x : OwnedBerth) (h : HomeBerth) (s : State), Berth.find s b = some x ∧ s.mgmt = true ∧ x.state = .parking ∧ Berth.homeHere s b = true ∧ Berth.findHome s (Berth.num b) = some h ∧ Berth.parkedBytesDurable s h = true ∧ x.uncopied = [] ∧ x.unacked = [] ∧ x.eventTide ≠ 0 ∧ x.unconfirmed = false) ∧
  (∃ (b : Nat) (x : OwnedBerth) (s : State), Berth.find s b = some x ∧ s.mgmt = true ∧ x.state = .waking ∧ x.wakeReady = true ∧ x.eventTide < s.now) ∧
  (∃ (b : Nat) (x : OwnedBerth) (s : State), Berth.find s b = some x ∧ s.mgmt = true ∧ x.unconfirmed = false ∧ x.state ≠ .waking) :=
  ⟨⟨2 ^ 44, { berth0 with id := 2 ^ 44, state := .parking }, (withBerth base { berth0 with id := 2 ^ 44, state := .parking }), by decide +kernel⟩,
   ⟨5, { berth0 with state := .parking }, home0 .parking, { withBerth base { berth0 with state := .parking } with berth := { (withBerth base { berth0 with state := .parking }).berth with homes := [home0 .parking] } }, by decide +kernel⟩,
   ⟨5, { berth0 with state := .waking, wakeReady := true }, (withBerth base { berth0 with state := .waking, wakeReady := true }), by decide +kernel⟩,
   ⟨5, berth0, (withBerth base berth0), by decide +kernel⟩⟩

theorem test_meets_BerthEventsComplete_2 :
  (∃ (b : Nat) (x : OwnedBerth) (s : State), Berth.find s b = some x ∧ s.mgmt = true ∧ x.lease ≤ s.now) ∧
  (∃ (b : Nat) (x : OwnedBerth) (s : State), Berth.find s b = some x ∧ s.mgmt = true ∧ x.unconfirmed = true ∧ x.resolveAt ≤ s.now) ∧
  (∃ (b : Nat) (x : OwnedBerth) (s : State), Berth.find s b = some x ∧ s.mgmt = true ∧ x.state = .recovering ∧ x.unconfirmed = false) ∧
  (∃ (s : State), s.mgmt = true ∧ s.berth.firstTide ≠ 0 ∧ s.berth.firstTide ≤ s.now / max 1 (s.cfg Ent.meterPeriod) * s.cfg Ent.meterPeriod ∧ s.sec.trng = 1) :=
  ⟨⟨5, { berth0 with lease := 100000 }, (withBerth base { berth0 with lease := 100000 }), by decide +kernel⟩,
   ⟨5, { berth0 with unconfirmed := true }, (withBerth base { berth0 with unconfirmed := true }), by decide +kernel⟩,
   ⟨5, { berth0 with state := .recovering }, (withBerth base { berth0 with state := .recovering }), by decide +kernel⟩,
   ⟨({ base with berth := { base.berth with firstTide := 1 } }), by decide +kernel⟩⟩

theorem test_meets_TableCommandsComplete_1 :
  (∃ (n k : Nat) (x : HostRead) (h : HostCmd) (rows : List Nat) (b : Bytes) (u w : State) (s : State), rowCmd s n 0 = some h ∧ s.mgmt = true ∧ inputHeld s (field h.desc 16 8) (8 * field h.desc 8 4) = false ∧ rowList s h.desc x = .ok (k, rows) ∧ s.now ≤ (acceptance s h).1 + s.num Ent.tableAgeLimit ∧ w = touchInput s (field h.desc 16 8) (8 * field h.desc 8 4) ∧ lookupRows w (.cmd n) k (acceptance s h).1 rows = (true, St.ok, b, u)) ∧
  (∃ (n k : Nat) (x : HostRead) (h : HostCmd) (rows : List Nat) (b : Bytes) (u w : State) (s : State), rowCmd s n 0 = some h ∧ s.mgmt = true ∧ inputHeld s (field h.desc 16 8) (8 * field h.desc 8 4) = false ∧ rowList s h.desc x = .ok (k, rows) ∧ s.now ≤ (acceptance s h).1 + s.num Ent.tableAgeLimit ∧ w = touchInput s (field h.desc 16 8) (8 * field h.desc 8 4) ∧ lookupRows w (.cmd n) k (acceptance s h).1 rows = (false, St.ok, b, u)) ∧
  (∃ (n k st apply : Nat) (x y : HostRead) (h : HostCmd) (rows nodes : List Nat) (b : Bytes) (all mine : List (Nat × Bytes)) (rc : RowCommand) (u v w : State) (s : State), rowCmd s n 1 = some h ∧ s.mgmt = true ∧ inputHeld s (field h.desc 16 8) (8 * field h.desc 8 4) = false ∧ rowList s h.desc x = .ok (k, rows) ∧ v = touchInput s (field h.desc 16 8) (8 * field h.desc 8 4) ∧ readInput v (field h.desc 24 8) (rows.length * Table.rowBytes v k) y = (St.ok, b) ∧ inputHeld v (field h.desc 24 8) (rows.length * Table.rowBytes v k) = false ∧ w = touchInput v (field h.desc 24 8) (rows.length * Table.rowBytes v k) ∧ all = lastOf (rowData (Table.rowBytes v k) rows b) ∧ mine = (all.filter fun r => Table.shoalNode w k r.1 == w.strand.nodeId) ∧ nodes = ((all.map fun r => Table.shoalNode w k r.1).eraseDups).filter (· != w.strand.nodeId) ∧ apply = (if Table.snapshot w k = false then w.now else if field h.desc 32 6 = 0 then w.now + w.cfg Ent.swapLeadMin else field h.desc 32 6) ∧ rc = ⟨n, k, true, apply, nodes, nodes, false, false, St.ok⟩ ∧ (Table.snapshot w k = false ∧ Table.replaceAll (startCmd w n) k mine (.cmd n) = (st, u) ∨ Table.snapshot w k = true ∧ st = St.ok ∧ Table.stage (startCmd w n) k apply (Table.putTag (startCmd w n) rc) mine = some u)) ∧
  (∃ (n k st : Nat) (x y : HostRead) (h : HostCmd) (rows nodes : List Nat) (b : Bytes) (given : List (Nat × Bytes)) (all : List (Nat × Nat × Bytes)) (u v w z : State) (s : State), rowCmd s n 2 = some h ∧ s.mgmt = true ∧ inputHeld s (field h.desc 16 8) (8 * field h.desc 8 4) = false ∧ rowList s h.desc x = .ok (k, rows) ∧ v = touchInput s (field h.desc 16 8) (8 * field h.desc 8 4) ∧ readInput v (field h.desc 24 8) (rows.length * Table.rowBytes v k) y = (St.ok, b) ∧ inputHeld v (field h.desc 24 8) (rows.length * Table.rowBytes v k) = false ∧ w = touchInput v (field h.desc 24 8) (rows.length * Table.rowBytes v k) ∧ given = rowData (Table.rowBytes v k) rows b ∧ nodes = ((given.map fun r => Table.shoalNode w k r.1).eraseDups).filter (· != w.strand.nodeId) ∧ numberRows (given.filter fun r => rowLeaves w k r.1) (startCmd w n) = (all, z) ∧ (all.filter fun r => Table.shoalNode w k r.1 == w.strand.nodeId).foldl (fun (acc : Nat × State) r => (max acc.1 (Table.accept acc.2 k r.1 w.strand.nodeId r.2.1 r.2.2 (.cmd n)).1, (Table.accept acc.2 k r.1 w.strand.nodeId r.2.1 r.2.2 (.cmd n)).2)) (St.ok, z) = (st, u)) :=
  ⟨by refine ⟨1, 0, .ok (leBytes 8 7), cmdOf 0x30 (words 64 [(1, 1, 0), (4, 4, 7), (8, 4, 1), (16, 8, 4096), (24, 8, 8192)]), [7], _, _, _, withCmdIn (openTable 0) 0x30 (words 64 [(1, 1, 0), (4, 4, 7), (8, 4, 1), (16, 8, 4096), (24, 8, 8192)]), ?_, ?_, ?_, ?_, ?_, rfl, ready_ok (by decide +kernel)⟩ <;> decide +kernel,
   by refine ⟨1, 0, .ok (leBytes 8 7), cmdOf 0x30 (words 64 [(1, 1, 0), (4, 4, 7), (8, 4, 1), (16, 8, 4096), (24, 8, 8192)]), [7], _, _, _, farTable (words 64 [(1, 1, 0), (4, 4, 7), (8, 4, 1), (16, 8, 4096), (24, 8, 8192)]), ?_, ?_, ?_, ?_, ?_, rfl, waits (by decide +kernel)⟩ <;> decide +kernel,
   by refine ⟨1, 0, _, _, .ok (leBytes 8 7), .ok (List.replicate 64 1), cmdOf 0x30 (words 64 [(1, 1, 1), (4, 4, 7), (8, 4, 1), (16, 8, 4096), (24, 8, 8192)]), [7], _, List.replicate 64 1, _, _, _, _, _, _, withCmdIn (openTable 0) 0x30 (words 64 [(1, 1, 1), (4, 4, 7), (8, 4, 1), (16, 8, 4096), (24, 8, 8192)]), ?_, ?_, ?_, ?_, rfl, ?_, ?_, rfl, rfl, rfl, rfl, rfl, rfl, .inl ⟨?_, rfl⟩⟩ <;> decide +kernel,
   by refine ⟨1, 0, _, .ok (leBytes 8 7), .ok (List.replicate 64 1), cmdOf 0x30 (words 64 [(1, 1, 2), (4, 4, 7), (8, 4, 1), (16, 8, 4096), (24, 8, 8192)]), [7], _, List.replicate 64 1, _, _, _, _, _, _, (withCmdIn (openTable 0) 0x30 (words 64 [(1, 1, 2), (4, 4, 7), (8, 4, 1), (16, 8, 4096), (24, 8, 8192)])).setNum Ent.mergeQueueRows 16, ?_, ?_, ?_, ?_, rfl, ?_, ?_, rfl, rfl, rfl, rfl, rfl⟩ <;> decide +kernel⟩

theorem test_meets_TableCommandsComplete_2 :
  (∃ (n o : Nat) (x y : HostRead) (h : HostCmd) (r : Nat × Nat) (c : Instr) (s : State), (c, o) ∈ [(.rowGet n x (), 0), (.rowPut n x y, 1), (.rowUpdate n x y, 2)] ∧ rowCmd s n o = some h ∧ s.mgmt = true ∧ inputHeld s (field h.desc 16 8) (8 * field h.desc 8 4) = false ∧ rowList s h.desc x = .error r) ∧
  (∃ (n : Nat) (k : RowCommand) (s : State), Table.findCmd s n = some k ∧ s.mgmt = true ∧ k.put = true ∧ Table.snapshot s k.slot = true ∧ k.committed = false ∧ k.apply ≤ s.now + 1) ∧
  (∃ (a k : Nat) (p : PutRows) (u : State) (s : State), s.mgmt = true ∧ functionOn s 4 = true ∧ acquiring s = false ∧ Table.find s p.table = some k ∧ (p.rows.any fun r => Table.shoalNode s k r.1 != s.strand.nodeId) = false ∧ Table.snapshot s k = true ∧ s.now < p.apply ∧ Table.stage s k p.apply (a, p.tag) (p.rows.map fun r => (r.1, padTo (Table.rowBytes s k) r.2)) = some u) ∧
  (∃ (a g : Nat) (s : State), s.mgmt = true ∧ (s.tbl.staged.any fun r => r.put == (a, g)) = true) :=
  ⟨⟨1, 2, .ok (leBytes 8 7), .ok [], cmdOf 0x30 (words 64 [(1, 1, 2), (4, 4, 8), (8, 4, 1), (16, 8, 4096), (24, 8, 8192)]), (St.badJob, 0), .rowUpdate 1 (.ok (leBytes 8 7)) (.ok []), withCmdIn (openTable 0) 0x30 (words 64 [(1, 1, 2), (4, 4, 8), (8, 4, 1), (16, 8, 4096), (24, 8, 8192)]), by decide +kernel⟩,
   ⟨1, ⟨1, 0, true, 100001, [0], [0], false, false, 0⟩, ({ openTable 1 with tbl := { base.tbl with commands := [⟨1, 0, true, 100001, [0], [0], false, false, 0⟩] } }), by decide +kernel⟩,
   by refine ⟨9, 0, ⟨1, 7, 100100, [(7, [1])]⟩, _, (openTable 1), ?_, ?_, ?_, ?_, ?_, ?_, ?_, rfl⟩ <;> decide +kernel,
   ⟨9, 1, ({ base with tbl := { base.tbl with staged := [⟨0, 7, 1, 100100, (9, 1), false⟩] } }), by decide +kernel⟩⟩

theorem test_meets_TableCommandsComplete_3 :
  (∃ (a g : Nat) (s : State), s.mgmt = true) ∧
  (∃ (a k : Nat) (p : PutRows) (s : State), s.mgmt = true ∧ functionOn s 4 = true ∧ acquiring s = false ∧ Table.find s p.table = some k ∧ (p.rows.any fun r => Table.shoalNode s k r.1 != s.strand.nodeId) = false ∧ Table.snapshot s k = false ∧ deliveredOf s a 0x0030 = none) ∧
  (∃ (a k : Nat) (p : PutRows) (d : Delivered) (x : Nat × State) (s : State), s.mgmt = true ∧ functionOn s 4 = true ∧ acquiring s = false ∧ Table.find s p.table = some k ∧ (p.rows.any fun r => Table.shoalNode s k r.1 != s.strand.nodeId) = false ∧ Table.snapshot s k = false ∧ deliveredOf s a 0x0030 = some d ∧ x = Table.replaceAll (takeDelivered s d) k (p.rows.map fun r => (r.1, padTo (Table.rowBytes s k) r.2)) (.msg d)) ∧
  (∃ (a k : Nat) (m : UpdateMsg) (s : State), s.mgmt = true ∧ functionOn s 4 = true ∧ (m.kind = .updates → acquiring s = false) ∧ Table.findServing s m.table = some k ∧ deliveredOf s a 0x0031 = none) :=
  ⟨⟨9, 1, base, by decide +kernel⟩,
   ⟨9, 0, ⟨7, 7, 99999, [(7, [1])]⟩, openTable 0, by decide +kernel⟩,
   by refine ⟨9, 0, ⟨1, 7, 99999, [(7, [1])]⟩, ⟨9, 1, 4, 0, 0x0030, false⟩, _, { openTable 0 with strand := { base.strand with delivered := [⟨9, 1, 4, 0, 0x0030, false⟩] } }, ?_, ?_, ?_, ?_, ?_, ?_, ?_, rfl⟩ <;> decide +kernel,
   ⟨9, 0, ⟨7, .installed, 99999, []⟩, (openTable 0), by decide +kernel⟩⟩

theorem test_meets_TableCommandsComplete_4 :
  (∃ (a k : Nat) (m : UpdateMsg) (d : Delivered) (x : Nat × State) (s : State), s.mgmt = true ∧ functionOn s 4 = true ∧ (m.kind = .updates → acquiring s = false) ∧ Table.findServing s m.table = some k ∧ deliveredOf s a 0x0031 = some d ∧ x = takeSums (takeDelivered s d) a k m (.msg d)) ∧
  (∃ (a : Nat) (m : UpdateMsg) (s : State), s.mgmt = true ∧ functionOn s 4 = true ∧ m.kind = .updates ∧ acquiring s = true) ∧
  (∃ (a b n k : Nat) (u : State) (s : State), s.mgmt = true ∧ functionOn s 4 = true ∧ Table.find s b = some k ∧ u = answerMsg s a 0x0032 St.ok) :=
  ⟨⟨9, 0, ⟨7, .installed, 99999, []⟩, ⟨9, 1, 4, 0, 0x0031, false⟩, _, { openTable 0 with strand := { base.strand with delivered := [⟨9, 1, 4, 0, 0x0031, false⟩] } }, by decide +kernel, by decide +kernel, by simp, by decide +kernel, by decide +kernel, rfl⟩,
   ⟨9, ⟨7, .updates, 99999, []⟩, withTide fun t => { t with state := .acquiring }, by decide +kernel⟩,
   ⟨9, 7, 1, 0, _, (openTable 0), by decide +kernel, by decide +kernel, by decide +kernel, rfl⟩⟩

theorem test_meets_TableEventsComplete_1 :
  (∃ (s : State), s.mgmt = true ∧ s.now % max 1 (s.cfg Ent.loadPeriod) = 0 ∧ (∀ k, k < 256 → Table.state s k = 2 → (Table.shoalNodes s k).contains s.strand.nodeId = false)) ∧
  (∃ (k l : Nat) (u : State) (s : State), s.mgmt = true ∧ s.now % max 1 (s.cfg Ent.loadPeriod) = 0 ∧ ((List.range 256).filter fun t => Table.state s t == 2 && (Table.shoalNodes s t).contains s.strand.nodeId) = [k] ∧ l = Table.load s k ∧ u = (((Table.shoalNodes s k).eraseDups).filter (· != s.strand.nodeId)).foldl (fun s n => sendMessage s n 6 (Table.job s k) 0x0032 [Table.id s k, l] [] .load) ((Table.turnServed s k).setNum (Ent.tableStShoalLoad k) l)) ∧
  (∃ (k : Nat) (s : State), s.mgmt = true ∧ s.now % max 1 (s.cfg Ent.loadPeriod) = 0 ∧ ((List.range 256).filter fun t => Table.state s t == 2 && (Table.shoalNodes s t).contains s.strand.nodeId) = [k] ∧ (Table.shoalNodes s k).eraseDups = [s.strand.nodeId]) ∧
  (∃ (b row k p w : Nat) (m : Migration) (u : State) (s : State), Table.find s b = some k ∧ Table.migration s k row = some m ∧ m.copy = some p ∧ m.switchAt = some w ∧ s.mgmt = true ∧ w ≤ s.now ∧ Table.ptrTide s.now p = Table.ptrTide s.now (Table.entry s k row).cur ∧ u = { s with tbl := { s.tbl with migrations := s.tbl.migrations.filter fun x => !(x.slot == k && x.row == row) } }) :=
  ⟨⟨(base.setNum Ent.loadPeriod 1000), by decide +kernel⟩,
   by refine ⟨0, _, _, (openTable 0).setNum Ent.loadPeriod 1000, ?_, ?_, ?_, rfl, rfl⟩ <;> decide +kernel,
   ⟨0, (openTable 0).setNum Ent.loadPeriod 1000, by decide +kernel⟩,
   ⟨7, 7, 0, 0, 100000, ⟨0, 7, 9, 99999, true, some 0, some 100000⟩, _, ({ openTable 0 with tbl := { base.tbl with migrations := [⟨0, 7, 9, 99999, true, some 0, some 100000⟩] } }), by decide +kernel, by decide +kernel, by decide +kernel, by decide +kernel, by decide +kernel, by decide +kernel, by decide +kernel, rfl⟩⟩

theorem test_meets_TableEventsComplete_2 :
  (∃ (b k : Nat) (x : Nat × State) (l : List LookedRow) (u : State) (s : State), Table.find s b = some k ∧ s.mgmt = true ∧ s.now % max 1 (s.cfg (Ent.tableHotRefreshTides k)) = 0 ∧ x = takeCache s k ∧ l = hotRows (min (s.cfg (Ent.tableCacheBytes k)) (65536 * x.1)) (Table.rowBytes s k) (s.tbl.looked.filter fun y => y.slot == k) ∧ u = Table.dropFar x.2 (fun y => y == .cache k)) ∧
  (∃ (s : State), s.mgmt = true) ∧
  (∃ (s : State), s.mgmt = true) ∧
  (∃ (k : Nat) (x : TableClosing) (s : State), (s.tbl.closings.find? fun x => x.slot == k) = some x ∧ s.mgmt = true ∧ x.boundary + 4096 ≤ s.now) :=
  ⟨⟨7, 0, _, _, _, ((openTable 0).setNum (Ent.tableHotRefreshTides 0) 1000), by decide +kernel, by decide +kernel, by decide +kernel, rfl, rfl, rfl⟩,
   ⟨base, by decide +kernel⟩,
   ⟨base, by decide +kernel⟩,
   ⟨0, ⟨0, 95904⟩, ({ base with tbl := { base.tbl with closings := [⟨0, 95904⟩] } }), by decide +kernel⟩⟩

theorem test_meets_FlashReadsAndProgramsComplete_1 :
  (∃ (l : List Target) (s : State), flashRuns s = true ∧ s.flash.enumerated = false) ∧
  (∃ (k d : Nat) (x : Chan) (q : FlashRead) (m before after : List FlashRead) (u : FlashUnit) (s : State), Flash.chan s.flash k = some x ∧ flashRuns s = true ∧ channelHeld s k = false ∧ dieTested s x d = false ∧ m = (s.flash.reads.filter fun r => r.at_.chan == k && Flash.dieOf x r.at_.block == d) ∧ (m.any fun r => r.active) = false ∧ m = before ++ q :: after ∧ (∀ r ∈ before, q.cls < r.cls) ∧ (∀ r ∈ after, q.cls ≤ r.cls) ∧ (Flash.dieBusy s.flash x d = false ∧ (q.cls = 4 → programDue s x = false) ∧ u = s.flash ∨ Flash.dieBusy s.flash x d = true ∧ q.cls ≠ 4 ∧ suspendDie s x d = some u)) ∧
  (∃ (i n m : Nat) (q : FlashRead) (w : Cw) (u v s : State), (s.flash.reads.find? fun r => r.id == i && r.active) = some q ∧ flashRuns s = true ∧ u = State.bump { s with flash := { s.flash with reads := s.flash.reads.filter fun x => x.id != i } } Ent.readRetries (min n (s.cfg Ent.readRetryMax)) ∧ Flash.codewordAt u.flash q.at_ = some w ∧ n ≤ s.cfg Ent.readRetryMax ∧ blockGone u q.at_.chan q.at_.block = false ∧ (isVerify q.use = true → w.logical = q.logical ∧ w.owner = q.owner) ∧ v = (if u.cfg Ent.relocateBits < m then { u with flash := Flash.mapBlock u.flash q.at_.chan q.at_.block fun b => { b with marked := true } } else u)) ∧
  (∃ (i n m : Nat) (q : FlashRead) (u v s : State), (s.flash.reads.find? fun r => r.id == i && r.active) = some q ∧ flashRuns s = true ∧ u = State.bump { s with flash := { s.flash with reads := s.flash.reads.filter fun x => x.id != i } } Ent.readRetries (min n (s.cfg Ent.readRetryMax)) ∧ (s.cfg Ent.readRetryMax < n ∨ Flash.codewordAt u.flash q.at_ = none ∨ blockGone u q.at_.chan q.at_.block = true ∨ (∃ w, Flash.codewordAt u.flash q.at_ = some w ∧ isVerify q.use = true ∧ ¬ (w.logical = q.logical ∧ w.owner = q.owner))) ∧ v = deliverRead (u.bump Ent.uncorrectableCodewords) q St.uncorrectable []) :=
  ⟨⟨[], ({ base with flash := { base.flash with enumerated := false } }), by decide +kernel⟩,
   by refine ⟨31, 0, chan0, ⟨1, ⟨31, 7, 0⟩, 9, 0, 1, .reloc, false⟩, _, [], [], _, withFlash (fun u => { u with reads := [⟨1, ⟨31, 7, 0⟩, 9, 0, 1, .reloc, false⟩] }), ?_, ?_, ?_, ?_, rfl, ?_, ?_, ?_, ?_, .inl ⟨?_, ?_, rfl⟩⟩ <;> decide +kernel,
   by refine ⟨1, 0, 0, ⟨1, ⟨31, 7, 0⟩, 9, 0, 1, .reloc, true⟩, ⟨9, 1, 0, 0, [7], 0⟩, _, _, withFlash (fun u => { u with reads := [⟨1, ⟨31, 7, 0⟩, 9, 0, 1, .reloc, true⟩], blocks := [{ block0 .closed with cws := [⟨9, 1, 0, 0, [7], 0⟩] }] }), ?_, ?_, rfl, ?_, ?_, ?_, ?_, rfl⟩ <;> decide +kernel,
   ⟨1, 4, 0, ⟨1, ⟨31, 7, 0⟩, 9, 0, 1, .reloc, true⟩, _, _, (withFlash (fun u => { u with reads := [⟨1, ⟨31, 7, 0⟩, 9, 0, 1, .reloc, true⟩], blocks := [{ block0 .closed with cws := [⟨9, 1, 0, 0, [7], 0⟩] }] })).setNum Ent.readRetryMax 3, by decide +kernel, by decide +kernel, rfl, .inl (by decide +kernel), rfl⟩⟩

theorem test_meets_FlashReadsAndProgramsComplete_2 :
  (∃ (k : Nat) (x : Chan) (u v s : State), Flash.chan s.flash k = some x ∧ flashRuns s = true ∧ u = (if streamDue s x .log then { s with flash := Flash.startProgram s.flash k .log } else s) ∧ v = (if streamDue s x .data then { u with flash := Flash.startProgram u.flash k .data } else u)) ∧
  (∃ (k b : Nat) (p : Program) (s : State), (s.flash.programs.find? fun p => p.chan == k && p.block == b) = some p ∧ flashRuns s = true ∧ blockGone s k b = false) ∧
  (∃ (k b : Nat) (o : Bool) (p : Program) (s : State), (s.flash.programs.find? fun p => p.chan == k && p.block == b) = some p ∧ flashRuns s = true ∧ (o = false ∨ blockGone s k b = true)) ∧
  (∃ (k n : Nat) (x : Chan) (b : Block) (s : State), Flash.chan s.flash k = some x ∧ Flash.block s.flash k n = some b ∧ flashRuns s = true ∧ mayErase s x b = true) :=
  ⟨⟨31, chan0, _, _, withFlash id, by decide +kernel, by decide +kernel, rfl, rfl⟩,
   ⟨31, 7, ⟨31, 7, .data, [], 0⟩, withFlash (fun u => { u with programs := [⟨31, 7, .data, [], 0⟩] }), by decide +kernel⟩,
   ⟨31, 7, false, ⟨31, 7, .data, [], 0⟩, withFlash (fun u => { u with programs := [⟨31, 7, .data, [], 0⟩] }), by decide +kernel⟩,
   ⟨31, 7, chan0, block0 .closed, (withFlash fun u => { u with blocks := [block0 .closed], durable := 1 }), by decide +kernel⟩⟩

theorem test_meets_FlashReadsAndProgramsComplete_3 :
  (∃ (k n : Nat) (o : Bool) (u : State) (s : State), flashRuns s = true ∧ (s.flash.erases.any fun e => e.chan == k && e.block == n) = true ∧ u = { s with flash := { s.flash with erases := s.flash.erases.filter fun e => !(e.chan == k && e.block == n) } } ∧ ((Flash.block u.flash k n).any fun b => b.stage == .retired) = false) :=
  ⟨31, 7, false, _, withFlash (fun u => { u with erases := [⟨31, 7, 0⟩] }), by decide +kernel, by decide +kernel, rfl, by decide +kernel⟩

theorem test_meets_CuratorEventsComplete_1 :
  (∃ (s : State), flashRuns s = true ∧ s.num Ent.flashReady = 1 ∧ s.flash.flush = none ∧ (s.flash.flushDue ≤ s.now ∨ neapFlushDue s = true)) ∧
  (∃ (f : Flush) (d : List LogEntry) (u s : State), s.flash.flush = some f ∧ flashRuns s = true ∧ Flash.flushDurable s.flash f = true ∧ u = { s with flash := Flash.endFlush s.flash f } ∧ d = u.idx.changeLog.filter (logFree u)) ∧
  (∃ (f : Flush) (s : State), s.flash.flush = some f ∧ flashRuns s = true ∧ Flash.flushDurable s.flash f = true) ∧
  (∃ (r : Nat → Bool) (u v w x s : State), flashRuns s = true ∧ s.flash.rebuild = .records ∧ Flash.scanning s.flash = false ∧ r = (fun l => ((s.flash.map.lookup l).bind (Flash.scanOf s.flash)).isSome) ∧ u = { s with idx := { s.idx with records := (scanRecords s).map FoundRec.item, found := scanRecords s, directory := (s.idx.directory.filter fun e => r e.codeword), changeLog := (s.idx.changeLog.filter fun e => r e.codeword) } } ∧ v = { u with flash := { Flash.forgetScans u.flash with rebuild := .none } }.setNum Ent.flashReady 1 ∧ w = adoptRegion5 (v.berth.homes.foldl (fun s h => (Berth.recordPage s h.num).getD s) v) ∧ w.mgmt = true ∧ x = ((List.range 256).filter fun c => (coldCopies w).collState c == 2 || (coldCopies w).collState c == 3).foldl dropStrayShoals (coldCopies w)) :=
  ⟨⟨base, by decide +kernel⟩,
   ⟨⟨99990, [], 1, [], false, []⟩, _, _, withFlash (fun u => { u with flush := some ⟨99990, [], 1, [], false, []⟩ }), by decide +kernel, by decide +kernel, by decide +kernel, rfl, rfl⟩,
   ⟨⟨99990, [], 1, [], false, []⟩, (withFlash fun u => { u with flush := some ⟨99990, [], 1, [], false, []⟩ }), by decide +kernel⟩,
   ⟨_, _, _, _, _, { base.setNum Ent.flashReady 0 with cat := { (base.setNum Ent.flashReady 0).cat with bootA := ⟨true, 1, []⟩ }, flash := { base.flash with rebuild := .records } }, by decide +kernel, by decide +kernel, by decide +kernel, rfl, rfl, rfl, rfl, by decide +kernel, rfl⟩⟩

theorem test_meets_CuratorEventsComplete_2 :
  (∃ (b : BootCopy) (s : State), flashRuns s = true ∧ s.flash.rebuild = .records ∧ Flash.scanning s.flash = false ∧ bootChoice s.cat = some b ∧ s.cat.region5 = [] ∧ s.berth.homes = [] ∧ (∀ c, c < 256 → s.collState c ≠ 2 ∧ s.collState c ≠ 3) ∧ s.idx.copies = []) ∧
  (∃ (s : State), housekeeps s = true ∧ housekeepingOpens s = true ∧ s.flash.windowEnd ≤ s.now) ∧
  (∃ (s : State), s.flash.windowEnd ≠ 0 ∧ s.flash.windowEnd ≤ s.now) ∧
  (∃ (k : Nat) (x : Chan) (s : State), Flash.chan s.flash k = some x ∧ housekeeps s = true ∧ s.flash.windowEnd ≤ s.now ∧ Flash.freeBlocks s.flash x < s.cfg Ent.gcUrgentBlocks ∧ s.flash.urgent.contains k = false) :=
  ⟨⟨⟨true, 1, []⟩, { base.setNum Ent.flashReady 0 with cat := { (base.setNum Ent.flashReady 0).cat with bootA := ⟨true, 1, []⟩ }, flash := { base.flash with rebuild := .records } }, by decide +kernel⟩,
   ⟨((base.setNum Ent.housekeepPeriod 1000).setNum Ent.housekeepOffset 0), by decide +kernel⟩,
   ⟨(withFlash fun u => { u with windowEnd := 100000 }), by decide +kernel⟩,
   ⟨31, { chan0 with inService := 0 }, ((withFlash fun u => { u with chans := [{ chan0 with inService := 0 }] }).setNum Ent.gcUrgentBlocks 3), by decide +kernel⟩⟩

theorem test_meets_CuratorEventsComplete_3 :
  (∃ (k n : Nat) (b : Block) (s : State), Flash.block s.flash k n = some b ∧ housekeeps s = true ∧ (b.stage = .closed ∨ b.stage = .open_) ∧ 2 * s.cfg Ent.readDisturbLimit ≤ b.reads) :=
  ⟨31, 7, { block0 .open_ with reads := 20000 }, ((withFlash fun u => { u with blocks := [{ block0 .open_ with reads := 20000 }] }).setNum Ent.readDisturbLimit 10000), by decide +kernel⟩

theorem test_meets_ResetCommandsComplete_1 :
  (∃ (s : State), s.rst.resetN = false) ∧
  (∃ (s : State), s.mgmt = true) ∧
  (∃ (k : Cause) (s : State), s.rst.requested = some k ∧ s.mgmt = true ∧ k.tide ≠ s.now) ∧
  (∃ (n : Nat) (k : Cause) (s : State), s.rst.asserted = some k ∧ s.rst.resetN = true ∧ k.level ≠ 3) :=
  ⟨⟨(withRst fun r => { r with resetN := false }), by decide +kernel⟩,
   ⟨base, by decide +kernel⟩,
   ⟨cause0 1, (withRst fun r => { r with requested := some (cause0 1) }), by decide +kernel⟩,
   ⟨9, cause0 1, (withRst fun r => { r with asserted := some (cause0 1), resetN := true }), by decide +kernel⟩⟩

theorem test_meets_ResetCommandsComplete_2 :
  (∃ (a : Bool) (d : Nat) (u : State) (s : State), s.rst.asserted = none ∧ s.rst.toRelease.find? (mayRelease s) = some d ∧ u = releaseWork { s with rst := { s.rst with toRelease := s.rst.toRelease.filter (· != d), released := s.rst.released ++ [d] } } d a) ∧
  (∃ (s : State), s.rst.romStarting = true) ∧
  (∃ (x : Tap) (s : State), s.rst.resetN = false) ∧
  (∃ (k : Nat) (s : State), s.mgmt = true ∧ s.rst.quiescing.contains k = true ∧ blockIdle s k = true) :=
  ⟨⟨false, 9, _, (withRst fun r => { r with toRelease := [9], released := [1, 2, 3, 4, 5, 6, 7, 8] }), by decide +kernel, by decide +kernel, rfl⟩,
   ⟨(withRst fun r => { r with romStarting := true }), by decide +kernel⟩,
   ⟨.idcode, (withRst fun r => { r with resetN := false }), by decide +kernel⟩,
   ⟨2 ^ 24, (withRst fun r => { r with quiescing := [2 ^ 24] }), by decide +kernel⟩⟩

theorem test_meets_ResetCommandsComplete_3 :
  (∃ (l : List Nat) (s : State), s.up 1 = true ∧ (∀ i, i < 6 → l.getD i 0 < 95) ∧ s.rst.hot = false) :=
  ⟨[94, 94, 94, 94, 94, 94], base, by decide +kernel⟩

theorem test_meets_FaultAndPowerCommandsComplete_1 :
  (∃ (x : Sys2Proof.ErrorReport) (s : State), s.mgmt = true) ∧
  (∃ (u p n : Nat) (b : Bool) (x : Test) (s : State), (s.rel.tests.find? fun t => t.unit == u && t.place == p) = some x ∧ s.mgmt = true ∧ firstOfParent s x = true) ∧
  (∃ (u p : Nat) (x : Test) (v w : State) (s : State), (s.rel.tests.find? fun t => t.unit == u && t.place == p) = some x ∧ s.mgmt = true ∧ firstOfParent s x = true ∧ v = destroyBadKeys (withoutSpares ((rowPassed (freeDieBlock (dropTest s x) x) x).bump Ent.escalations) u p fun s => noteLasting s u p none false x.events) ∧ w = beginNext (v.rel.tests.length + 1) v (parentOf x.unit)) ∧
  (∃ (b : Nat) (s : State), s.mgmt = true) :=
  ⟨⟨⟨0x10, 0, 0, 0, []⟩, base, by decide +kernel⟩,
   ⟨0, 5, 0, true, ⟨0, 5, true, 99000, [], false, false, none⟩, (withRel fun r => { r with tests := [⟨0, 5, true, 99000, [], false, false, none⟩] }), by decide +kernel⟩,
   ⟨0, 5, ⟨0, 5, true, 99000, [], false, false, none⟩, _, _, withRel (fun r => { r with tests := [⟨0, 5, true, 99000, [], false, false, none⟩] }), by decide +kernel, by decide +kernel, by decide +kernel, rfl, rfl⟩,
   ⟨4, base, by decide +kernel⟩⟩

theorem test_meets_FaultAndPowerCommandsComplete_2 :
  (∃ (s : State), s.mgmt = true ∧ neapReady s = true) ∧
  (∃ (s : State), s.mgmt = true ∧ s.rst.powerState = 3 ∧ s.rst.toRelease = [] ∧ s.rst.neapFrom < s.now) ∧
  (∃ (k : Nat) (s : State), k < 32 ∧ s.up 7 = true ∧ s.coh.busy = [] ∧ s.rel.deadClusters.contains k = false ∧ s.rst.slack.contains k = false) ∧
  (∃ (w : Nat) (l : List Nat) (s : State), s.mgmt = true) :=
  ⟨⟨({ base with rst := { base.rst with powerState := 1 }, flash := { base.flash with lastFlush := 99999 } }), by decide +kernel⟩,
   ⟨(withRst fun r => { r with powerState := 3, toRelease := [] }), by decide +kernel⟩,
   ⟨31, base, by decide +kernel⟩,
   ⟨6, [], base, by decide +kernel⟩⟩

theorem test_meets_FaultAndPowerCommandsComplete_3 :
  (∃ (a b low : List Nat) (f : Bool) (u v s : State), s.mgmt = true ∧ u = s.setVal Ent.railMv (.b ((List.range 7).flatMap fun i => leBytes 2 (u16 (a.getD i 0)))) ∧ v = { u with rel := { u.rel with droop := ((List.range 7).map fun i => max (u.rel.droop.getD i 0) ((railNominal u).getD i 0 - a.getD i 0)), slack := ((List.range 32).map fun c => leastSlack u.rel.slack[c]? (b.getD c 0 % 65536)) } } ∧ low = ((List.range 32).filter fun c => v.up 7 && !v.rel.deadClusters.contains c && (match b[c]? with | some x => decide (slackPs (x % 65536) < v.cfg Ent.slackLimitPs) | none => false))) ∧
  (∃ (u s : State), s.mgmt = true ∧ s.rel.marginFrom + s.cfg Ent.marginPeriod ≤ s.now ∧ u = (s.setVal Ent.railDroopMv (.b ((List.range 7).flatMap fun i => leBytes 2 (u16 (s.rel.droop.getD i 0))))).setVal Ent.clusterSlackPs (.b ((List.range 32).flatMap fun c => leBytes 2 (s.rel.slack.getD c 0)))) ∧
  (∃ (l : List CmisPort) (s : State), s.mgmt = true ∧ s.up 4 = true) ∧
  (∃ (s : State), s.up 2 = true) :=
  ⟨⟨[], [], _, true, _, _, base, by decide +kernel, rfl, rfl, rfl⟩,
   ⟨_, base.setNum Ent.marginPeriod 1024, by decide +kernel, by decide +kernel, rfl⟩,
   ⟨[], base, by decide +kernel⟩,
   ⟨base, by decide +kernel⟩⟩

theorem test_meets_FaultAndPowerCommandsComplete_4 :
  (∃ (o : Bool) (s : State), s.up 2 = true ∧ s.sec.trng ≠ 1) :=
  ⟨true, { base with sec := { base.sec with trng := 0 } }, by decide +kernel⟩

/-! The other statements with hypotheses. -/

theorem test_meets_StepRunsTheFrontCommand :
    (∃ (c : Instr) (rest : List Instr) (s : State), s.pending = c :: rest) ∧ ∃ s : State, s.pending = [] :=
  ⟨⟨.missedEdge, [.countFrame], { base with pending := [.missedEdge, .countFrame] }, rfl⟩, base, rfl⟩

theorem test_meets_StepKeepsSound : ∃ s t : State, MemOk s ∧ QueueOk s ∧ step s = .next t :=
  ⟨{ State.reset with pending := [.countFrame] }, _, by unfold MemOk; decide +kernel, by unfold QueueOk; decide +kernel, rfl⟩

theorem test_meets_ExecNeverRefuses : ∃ (c : Instr) (s : State) (f : Fault), exec c s = .fault f :=
  ⟨.cacheRead 0 0 (0x14000000000 / 64 * 8), base, _, rfl⟩

theorem test_meets_ExecLeavesTheQueue : ∃ (c : Instr) (s t : State), exec c s = .next t := ⟨.missedEdge, base, _, rfl⟩

theorem test_meets_TideCountMovesOnlyByTheTideAndResets :
    ∃ (c : Instr) (s t : State), exec c s = .next t ∧ familyOf c ≠ .tide ∧ c ≠ .resetAssert ∧ c ≠ .resetNLow ∧ c ≠ .clockStop ∧
      c ≠ .watchdogExpiry ∧ c ≠ .rebuildDone ∧ (∀ a b, c ≠ .powerOn a b) ∧ (∀ r, c ≠ .railUndervoltage r) ∧
      (∀ l, c ≠ .junctionSensorRead l) ∧ (∀ u p, c ≠ .selfTestEscalation u p) :=
  ⟨.granuleFree, base, _, rfl, by decide, by decide, by decide, by decide, by decide, by decide, by simp, by simp, by simp, by simp⟩

theorem test_meets_TideAndSearchFrame :
    ∃ (c : Instr) (s t : State) (u : UnitName), (familyOf c = .tide ∨ familyOf c = .changes ∨ familyOf c = .search) ∧ exec c s = .next t ∧
      u ∉ mayChange c ∧ .mem ∉ mayChange c :=
  ⟨.tideBeacon 5 (block 1 [1]), base, _, .key, .inl rfl, rfl, by decide, by decide⟩

theorem test_meets_CatalogueAndHostFrame :
    ∃ (c : Instr) (s t : State) (u : UnitName), (familyOf c = .catalogue ∨ familyOf c = .host) ∧ exec c s = .next t ∧
      u ∉ mayChange c ∧ .mem ∉ mayChange c :=
  ⟨.queueEnable 63 1, base, _, .tide, .inr rfl, rfl, by decide, by decide⟩

theorem test_meets_MemoryNearBankAndCacheFrame :
    ∃ (c : Instr) (s t : State) (u : UnitName), (familyOf c = .memory ∨ familyOf c = .nearBank ∨ familyOf c = .caches) ∧
      exec c s = .next t ∧ u ∉ mayChange c ∧ .mem ∉ mayChange c :=
  ⟨.bankSlot 4095 none, base, _, .tide, .inr (.inl rfl), rfl, by decide, by decide⟩

theorem test_meets_GraphBerthAndTableFrame :
    ∃ (c : Instr) (s t : State) (u : UnitName), (familyOf c = .graphs ∨ familyOf c = .berths ∨ familyOf c = .tables) ∧
      exec c s = .next t ∧ u ∉ mayChange c ∧ .mem ∉ mayChange c :=
  ⟨.tableLoadReport 9 7 1, openTable 0, _, .tide, .inr (.inr rfl), rfl, by decide, by decide⟩

theorem test_meets_StrandAndFlashFrame :
    ∃ (c : Instr) (s t : State) (u : UnitName), (familyOf c = .ports ∨ familyOf c = .strand ∨ familyOf c = .flash) ∧
      exec c s = .next t ∧ u ∉ mayChange c ∧ .mem ∉ mayChange c :=
  ⟨.signalDetect 5, withPort (port .detect), _, .tide, .inl rfl, rfl, by decide, by decide⟩

theorem test_meets_ResetFaultAndPowerFrame :
    ∃ (c : Instr) (s t : State) (u : UnitName), (familyOf c = .resets ∨ familyOf c = .faults ∨ familyOf c = .power) ∧
      exec c s = .next t ∧ u ∉ mayChange c ∧ .mem ∉ mayChange c :=
  ⟨.tapInstruction .bypass, base, _, .tide, .inl rfl, rfl, by decide, by decide⟩

theorem test_meets_MemoryReadsWhatWasWritten :
    ∃ (m : List Host.Cell) (bs : Bytes) (i b a : Nat), Cells.wf m = true ∧ i < bs.length ∧ (b < a ∨ a + bs.length ≤ b) :=
  ⟨Cells.write [] 5 [7], [1, 2], 1, 7, 5, by decide, by decide, by decide⟩

/-- A request of the mailbox, and a state with its session. -/
def capReq0 (op sub : Nat) : CapReq := { req0 with version := 1, op := op, seq := 7, index := 0x1000, sub := sub }

def capState (r : CapReq) : State := { base with cap := { base.cap with sessions := [⟨r.who, r.sid, none, none, 0, 0, none, none, none⟩] } }

theorem test_meets_CapCommandsComplete :
    ∃ (r : CapReq) (s : State) (c : Instr) (k : CapKind) (a : Answer) (u : State), (c, k) ∈ capRows r ∧ capKind s r = k ∧ CapReady s r ∧
      capOperate (capIn s r) r = (some a, u) ∧ a.status = St.ok :=
  ⟨capReq0 Cap.lock 0, capState (capReq0 Cap.lock 0), .lock (capReq0 Cap.lock 0), .lock, _, _, by decide, rfl,
   ⟨by decide +kernel, by decide +kernel, by decide +kernel, by decide +kernel, by decide +kernel, _, rfl, by decide +kernel⟩, rfl, by decide +kernel⟩

theorem test_meets_CapRefusalsAreAnswered :
    ∃ (r : CapReq) (s : State) (c : Instr) (k : CapKind) (a : Answer) (u : State), (c, k) ∈ capRows r ∧ capKind s r = k ∧ CapReady s r ∧
      capOperate (capIn s r) r = (some a, u) ∧ a.status ≠ St.ok :=
  ⟨capReq0 Cap.describe 255, capState (capReq0 Cap.describe 255), .describe (capReq0 Cap.describe 255), .describe, _, _, by decide, rfl,
   ⟨by decide +kernel, by decide +kernel, by decide +kernel, by decide +kernel, by decide +kernel, _, rfl, by decide +kernel⟩, rfl, by decide +kernel⟩

theorem test_meets_TideFieldExpands :
    ∃ now f t : Nat, 8190 ≤ now ∧ f < 8192 ∧ now - 8190 ≤ t ∧ t ≤ now + 1 ∧ t % 8192 = f := ⟨8190, 8191, 8191, by decide⟩

theorem test_meets_OutOfRangeWritesAreRefused :
    ∃ (i sub : Nat) (s : State) (b : Bytes) (e : Entry) (v : Val), entryAt i sub = some e ∧ e.acc ≠ .wo ∧
      typedVal e (i * 256 + sub) b = some v ∧ inRange s e v = false :=
  ⟨Ent.gcUrgentBlocks / 256, Ent.gcUrgentBlocks % 256, base, [0, 0], _, _, rfl, by decide +kernel, rfl, by decide +kernel⟩

theorem test_meets_ForceBreaksTheLock :
    (∃ (s : State) (r : CapReq) (w : Who) (id e : Nat), r.forceFlag = true ∧ r.onStrand = true ∧ s.cap.lock = some (w, id, e) ∧
      holdsLock s r.who r.sid = false) ∧
    ∃ (s : State) (r : CapReq), r.forceFlag = true ∧ r.onStrand = false ∧ s.cap.lock = none :=
  ⟨⟨{ base with cap := { base.cap with lock := some (.mailbox, 0, 100001) } }, { req0 with path := .strand 9 0, flags := 255 }, _, _, _,
    by decide +kernel, by decide +kernel, rfl, by decide +kernel⟩,
   base, { req0 with flags := 255 }, by decide +kernel, by decide +kernel, by decide +kernel⟩

theorem test_meets_TideCountNeverDecreases :
    (∃ (c : Instr) (s t : State), s.tide.running = true ∧ familyOf c = .tide ∧ exec c s = .next t) ∧
    ∃ (c : Instr) (s t : State), s.tide.running = true ∧ UnitName.tide ∉ mayChange c ∧ exec c s = .next t :=
  ⟨⟨.missedEdge, base, _, by decide +kernel, rfl, rfl⟩, .granuleFree, base, _, by decide +kernel, by decide, rfl⟩

theorem test_meets_EdgesOutsideTheWindowAreIgnored :
    (∃ (i : Nat) (s : State), follows s = true ∧ s.tide.state = .locked ∧ s.tide.inWindow (s.tide.elapsed i) = false) ∧
    ∃ (i : Nat) (s : State), follows s = true ∧ (s.tide.state = .acquiring ∧ s.tide.count ≠ 0) ∧
      s.tide.inWindow (s.tide.elapsed i) = false :=
  ⟨⟨0, base, by decide +kernel, by decide +kernel, by decide +kernel⟩,
   0, withTide fun t => { t with state := .acquiring }, by decide +kernel, by decide +kernel, by decide +kernel⟩

theorem test_meets_MissedEdgesLeadToHoldoverAndAdrift :
    (∃ s : State, follows s = true ∧ s.tide.count ≠ 0 ∧ s.tide.conflictFault = true) ∧
    (∃ s : State, follows s = true ∧ s.tide.count ≠ 0 ∧ s.tide.conflictFault = false ∧ s.tide.state = .locked) ∧
    (∃ s : State, follows s = true ∧ s.tide.count ≠ 0 ∧ s.tide.conflictFault = false ∧ s.tide.state = .holdover) ∧
    (∃ s : State, follows s = true ∧ s.tide.count ≠ 0 ∧ s.tide.state = .adrift) ∧
    ∃ s : State, follows s = true ∧ s.tide.count ≠ 0 ∧ s.tide.state = .acquiring :=
  ⟨⟨withTide fun t => { t with conflictFault := true }, by decide +kernel⟩, ⟨base, by decide +kernel⟩,
   ⟨withTide fun t => { t with state := .holdover }, by decide +kernel⟩, ⟨withTide fun t => { t with state := .adrift }, by decide +kernel⟩,
   withTide fun t => { t with state := .acquiring }, by decide +kernel⟩

theorem test_meets_EveryCommandCompletes : ∃ c : Instr, namedRanges c ≠ [] ∧ ∀ p ∈ namedRanges c, validRange p.1 p.2 = true :=
  ⟨.cacheRead 511 0 (0x103FFFFFFC0 / 64), by decide⟩

theorem test_meets_StoredLinesAreCodewords :
    (∃ (s : State) (n : Nat), s.mem.cellErrors.lookup n = none) ∧ ∃ w : List Nat, 3 * 4096 ≤ w.getD 64 0 + 256 * w.getD 65 0 :=
  ⟨⟨base, 0, by decide +kernel⟩, List.replicate 65 0 ++ [48], by decide⟩

theorem test_meets_AgentWriteStoresItsBytes :
    ∃ (s : State) (w a : Nat) (d : Bytes) (i b : Nat), MemOk s ∧ (∀ q ∈ s.coh.busy, q.req.line ∉ lines a d.length) ∧ (agentWrite s w a d).1 = St.ok ∧
      i < d.length ∧ evictKeeps s (lineOf b) ∧
      (∀ n ∈ lines a d.length, mirrorOf s n ≠ some (lineOf (a + i))) ∧ (b < a ∨ a + d.length ≤ b) ∧
      (∀ n ∈ lines a d.length, mirrorOf s n ≠ some (lineOf b)) ∧ lineOf b ∈ lines a d.length ∧ (Coh.supply s (lineOf b)).2 = none :=
  ⟨withHdm, 1, 65536, [1, 2], 1, 65538, by unfold MemOk evictKeeps; decide +kernel⟩

theorem test_meets_HostWriteStoresTheLine :
    ∃ (p a : Nat) (d : Bytes) (s : State), MemOk s ∧ s.host.linkUp = true ∧ inHdm s (hostLine p) 64 = true ∧ inNeap s = false ∧
      s.rst.powerState ≠ 3 ∧ hdmDead s = false ∧ hdmAddr s (hostLine p) = some a ∧ a % 64 = 0 ∧
      (agentWrite s (hdmOwner s) a (padTo 64 d)).1 = St.ok ∧ mirrorOf s (lineOf a) ≠ some (lineOf a) ∧
      (∀ q ∈ s.coh.busy, q.req.line ≠ lineOf a) ∧ evictKeeps s (lineOf (a + 64)) ∧ mirrorOf s (lineOf a) ≠ some (lineOf (a + 64)) :=
  ⟨2 ^ 28, 65536, List.replicate 64 1, withHdm, by unfold MemOk evictKeeps; decide +kernel⟩

/-! Worked examples of the manual. -/

/-- The example after R88 (03_index_tree.md). -/
theorem test_stamp_word_of_the_example :
    expandTide 1000000 577 = 1000001 ∧ stampWord 2 1000001 = 0x120A ∧ stampWord 4 1000002 = 0x1214 := by decide

/-- The examples after R93 and R105. -/
theorem test_local_index_of_the_example :
    leafOf 0x048D16A7 = 0x12345 ∧ Machine.slotOf 0x048D16A7 = 679 ∧ recordLogical 1 0x048D16A7 = [610837159] := by decide

/-- The line of owner slot 0x1A7 at 0x3E_0000_1FC0 (08_memory_tiers.md, 09_near_bank.md, 12_coherence.md). -/
theorem test_line_of_the_example :
    metaWord (some (0x1A7, false)) = 0x11A7 ∧ Nb.bankOf 0x3E00001FC0 = 1536 ∧ Nb.rowOf 0x3E00001FC0 = 8195 ∧
    Coh.homeCluster base (lineOf 0x3E00001FC0) = 3 := by decide +kernel

/-- The example of Streamed weights: a chunk of 4,096 rows, 6 chunks. -/
theorem test_chunks_of_the_example :
    let b : Bytes := words 64 [(16, 4, 2 ^ 29)]
    let t : TensorDef := ⟨2, 5, [24576, 65536], true, 0, 0, 0⟩
    chunkRows b t = 4096 ∧ chunkCount b t = 6 := by decide +kernel

/-- The berth of the example of 11_sessions_pools_tables.md. -/
theorem test_berth_of_the_example : Berth.home 0x0021200000015A07 = 0x212 := by decide

/-- The row pointer of the example of 11_sessions_pools_tables.md: the run stamped 90000 does not see it. -/
theorem test_row_pointer_of_the_example :
    Table.mkPtr 90001 0x12345 0x150 = 0xFC8C001234500150 ∧ Table.visible 90001 90001 0xFC8C001234500150 = true ∧
    Table.visible 90001 90000 0xFC8C001234500150 = false := by decide

/-- The AES-256 block of FIPS 197, C.3. -/
theorem test_aes_block_of_fips_197 :
    Aes.encrypt (Aes.roundKeys (List.range 32)) ((List.range 16).map (17 * ·)) =
      [0x8e, 0xa2, 0xb7, 0xca, 0x51, 0x67, 0x45, 0xbf, 0xea, 0xfc, 0x49, 0x90, 0x4b, 0x49, 0x60, 0x89] := by decide +kernel

/-! A command reaches its meaning through the queue. -/

theorem test_a_step_runs_the_front_command :
    step { base with pending := [.missedEdge, .countFrame] } = exec .missedEdge { base with pending := [.countFrame] } := rfl

end Sys2Proof.Tests
end

/-!
Little-endian numbers (R5): what `leBytes` stores and what `leNat` reads back, byte by byte.
-/
namespace Sys2Proof.Machine

@[simp] theorem leBytes_zero (v : Nat) : leBytes 0 v = [] := rfl

theorem leBytes_succ (n v : Nat) : leBytes (n + 1) v = BitVec.ofNat 8 v :: leBytes n (v / 256) := rfl

@[simp] theorem leNat_nil : leNat [] = 0 := rfl

@[simp] theorem leNat_cons (x : Byte) (b : Bytes) : leNat (x :: b) = x.toNat + 256 * leNat b := rfl

@[simp] theorem leBytes_length (n v : Nat) : (leBytes n v).length = n := by
  induction n generalizing v with
  | zero => rfl
  | succ n ih => rw [leBytes_succ, List.length_cons, ih]

theorem leNat_leBytes (n v : Nat) : leNat (leBytes n v) = v % 256 ^ n := by
  induction n generalizing v with
  | zero => simp [Nat.mod_one]
  | succ n ih =>
    calc leNat (leBytes (n + 1) v)
        = v % 256 + 256 * (v / 256 % 256 ^ n) := by rw [leBytes_succ, leNat_cons, ih, BitVec.toNat_ofNat]
      _ = v % 256 ^ (n + 1) := by rw [Nat.pow_succ', Nat.mod_mul]

theorem leBytes_getD (n v i : Nat) (hi : i < n) : (leBytes n v).getD i 0 = BitVec.ofNat 8 (v / 256 ^ i) := by
  induction n generalizing v i with
  | zero => exact absurd hi (Nat.not_lt_zero i)
  | succ n ih =>
    rw [leBytes_succ]
    cases i with
    | zero => rw [List.getD_cons_zero, Nat.pow_zero, Nat.div_one]
    | succ i => rw [List.getD_cons_succ, ih _ _ (Nat.lt_of_succ_lt_succ hi), Nat.div_div_eq_div_mul, Nat.pow_succ']

theorem leNat_lt (b : Bytes) : leNat b < 256 ^ b.length := by
  induction b with
  | nil => exact Nat.one_pos
  | cons x b ih =>
    have hx : x.toNat < 256 := x.isLt
    rw [leNat_cons, List.length_cons, Nat.pow_succ']
    omega

/-- The lowest byte is the remainder by 256 and the bytes above it are the quotient. -/
theorem leBytes_leNat (b : Bytes) : leBytes b.length (leNat b) = b := by
  induction b with
  | nil => rfl
  | cons x b ih =>
    have hx : x.toNat < 256 := x.isLt
    have hlow : BitVec.ofNat 8 (leNat (x :: b)) = x := by
      apply BitVec.eq_of_toNat_eq
      rw [leNat_cons, BitVec.toNat_ofNat]
      omega
    have hrest : leNat (x :: b) / 256 = leNat b := by
      rw [leNat_cons]
      omega
    rw [List.length_cons, leBytes_succ, hlow, hrest, ih]

/-- Settles O57: storing is characterised by length, value and each byte; reading is bounded and is undone by storing. -/
theorem numbersAreLittleEndian : Obligations.NumbersAreLittleEndian :=
  ⟨fun n v => ⟨leBytes_length n v, leNat_leBytes n v, leBytes_getD n v⟩,
    fun b => ⟨leNat_lt b, leBytes_leNat b⟩⟩

end Sys2Proof.Machine

/-!
Requests at the home slices (12_coherence.md): what the functions of a slice leave of the copies in the L1s and of the ended requests,
when a request that arrives is carried out at once, and what it leaves then.
-/
namespace Sys2Proof.Machine

open Sys2Proof

/-! Bytes of a line. -/

theorem length_padTo (n : Nat) (b : Bytes) : (padTo n b).length = n := by
  simp only [padTo, List.length_append, List.length_take, List.length_replicate]
  omega

theorem padTo_padTo (n : Nat) (b : Bytes) : padTo n (padTo n b) = padTo n b := by
  have hlen : (padTo n b).length = n := length_padTo n b
  rw [padTo, hlen, Nat.sub_self, List.replicate_zero, List.append_nil, List.take_of_length_le hlen.le]

theorem length_splice {b v : Bytes} {o : Nat} (h : o + v.length ≤ b.length) : (splice b o v).length = b.length := by
  simp only [splice, List.length_append, List.length_take, List.length_drop]
  omega

@[simp] theorem touchAddr_coh (s : State) (a : Nat) : (touchAddr s a).coh = s.coh := by
  simp [touchAddr_frame ..]

namespace Coh

/-! Making room in a slice moves no copy of an L1 and ends no request. -/

theorem evict_copies (s : State) (line : Nat) :
    (evict s line).coh.l1 = s.coh.l1 ∧ (evict s line).coh.ended = s.coh.ended := by
  unfold evict
  split
  · exact ⟨rfl, rfl⟩
  · dsimp only
    split <;> exact ⟨rfl, rfl⟩

theorem makeWay_copies (s : State) (line : Nat) :
    (makeWay s line).coh.l1 = s.coh.l1 ∧ (makeWay s line).coh.ended = s.coh.ended := by
  unfold makeWay
  dsimp only
  split
  · exact ⟨rfl, rfl⟩
  · split
    · exact ⟨rfl, rfl⟩
    · split
      · exact evict_copies s.drawFree.2 _
      · exact ⟨rfl, rfl⟩

@[simp] theorem fill_l1 (s : State) (x : SliceLine) : (fill s x).coh.l1 = s.coh.l1 := (makeWay_copies s x.line).1

@[simp] theorem fill_ended (s : State) (x : SliceLine) : (fill s x).coh.ended = s.coh.ended := (makeWay_copies s x.line).2

/-! Making room in the directory and in an L1 only drops copies. -/

/-- Copies may leave L1s; none comes and no request ends. -/
def OnlyDrops (s t : State) : Prop := t.coh.ended = s.coh.ended ∧ t.coh.l1 ⊆ s.coh.l1

theorem OnlyDrops.refl (s : State) : OnlyDrops s s := ⟨rfl, List.Subset.refl _⟩

theorem OnlyDrops.trans {s t u : State} (h : OnlyDrops s t) (g : OnlyDrops t u) : OnlyDrops s u :=
  ⟨g.1.trans h.1, List.Subset.trans g.2 h.2⟩

theorem fill_onlyDrops (s : State) (x : SliceLine) : OnlyDrops s (fill s x) :=
  ⟨fill_ended s x, by rw [fill_l1]; exact List.Subset.refl _⟩

theorem recallLine_onlyDrops (s : State) (line : Nat) : OnlyDrops s (recallLine s line) := by
  unfold recallLine
  dsimp only
  split
  · exact (fill_onlyDrops s _).trans ⟨rfl, List.filter_subset_self _⟩
  · exact ⟨rfl, List.filter_subset_self _⟩

theorem makeRoom_onlyDrops (s : State) (line : Nat) : OnlyDrops s (makeRoom s line) := by
  unfold makeRoom
  dsimp only
  split
  · exact .refl s
  · split
    · exact recallLine_onlyDrops s.drawFree.2 _
    · exact .refl s

theorem leaveL1_onlyDrops (s : State) (x : L1Line) : OnlyDrops s (leaveL1 s x) := by
  unfold leaveL1
  split
  · exact ⟨rfl, List.filter_subset_self _⟩
  · split
    · exact (fill_onlyDrops s _).trans ⟨rfl, List.filter_subset_self _⟩
    · exact ⟨rfl, List.filter_subset_self _⟩

theorem makeL1_onlyDrops (s : State) (core line : Nat) : OnlyDrops s (makeL1 s core line) := by
  unfold makeL1
  dsimp only
  split
  · exact .refl s
  · split
    · exact leaveL1_onlyDrops s.drawFree.2 _
    · exact .refl s

/-! A grant. -/

theorem grant_onlyAdds (s : State) (core line : Nat) (st : CState) (data : Bytes) (tag : Option Nat) :
    (grant s core line st data tag).coh.ended = s.coh.ended ∧
      ∃ rest, (∀ x ∈ rest, x ∈ s.coh.l1 ∧ ¬(x.core = core ∧ x.line = line)) ∧
        (grant s core line st data tag).coh.l1 = rest ++ [⟨core, line, st, data, tag⟩] := by
  obtain ⟨hended, hcopies⟩ := (makeRoom_onlyDrops s line).trans (makeL1_onlyDrops _ core line)
  refine ⟨hended, _, fun x hx => ?_, rfl⟩
  obtain ⟨hmem, hother⟩ := List.mem_filter.mp hx
  exact ⟨hcopies hmem, by simpa [← not_and_or] using hother⟩

@[simp] theorem grant_ended (s : State) (core line : Nat) (st : CState) (data : Bytes) (tag : Option Nat) :
    (grant s core line st data tag).coh.ended = s.coh.ended := (grant_onlyAdds ..).1

@[simp] theorem l1_grant (s : State) (core line : Nat) (st : CState) (data : Bytes) (tag : Option Nat) :
    l1 (grant s core line st data tag).coh core line = some ⟨core, line, st, data, tag⟩ := by
  obtain ⟨-, rest, hrest, hl1⟩ := grant_onlyAdds s core line st data tag
  have hnone : rest.find? (fun x => x.core == core && x.line == line) = none :=
    List.find?_eq_none.mpr fun x hx => by simpa using (hrest x hx).2
  simp [l1, hl1, List.find?_append, hnone]

theorem mem_grant_l1 {s : State} {core line : Nat} {st : CState} {data : Bytes} {tag : Option Nat} {x : L1Line}
    (hx : x ∈ (grant s core line st data tag).coh.l1) : x ∈ s.coh.l1 ∨ x.core = core := by
  obtain ⟨-, rest, hrest, hl1⟩ := grant_onlyAdds s core line st data tag
  rw [hl1, List.mem_append, List.mem_singleton] at hx
  exact hx.imp (fun h => (hrest x h).1) (fun h => by rw [h])

/-! What each kind of grant leaves (R402, R403). -/

@[simp] theorem endReq_ended (s : State) (q : CohReq) (status : Nat) (data : Bytes) :
    (endReq s q status data).coh.ended = s.coh.ended ++ [⟨q.kind, q.core, q.line, status, data⟩] := rfl

@[simp] theorem endReq_l1 (s : State) (q : CohReq) (status : Nat) (data : Bytes) :
    (endReq s q status data).coh.l1 = s.coh.l1 := rfl

@[simp] theorem l1_endReq (s : State) (q : CohReq) (status : Nat) (data : Bytes) (core line : Nat) :
    l1 (endReq s q status data).coh core line = l1 s.coh core line := rfl

@[simp] theorem supply_endReq (s : State) (q : CohReq) (status : Nat) (data : Bytes) (line : Nat) :
    supply (endReq s q status data) line = supply s line := rfl

theorem grantRead_hit {s : State} {q : CohReq} {x : L1Line} (h : l1 s.coh q.core q.line = some x) :
    grantRead s q = endReq s q St.ok (padTo 64 x.data) := by
  unfold grantRead
  rw [h]

theorem grantRead_miss {s : State} {q : CohReq} (h : l1 s.coh q.core q.line = none) :
    (grantRead s q).coh.ended = s.coh.ended ++ [⟨q.kind, q.core, q.line, St.ok, padTo 64 (supply s q.line).1⟩] ∧
    l1 (grantRead s q).coh q.core q.line =
      some ⟨q.core, q.line, if (copies s.coh q.line).isEmpty then .e else if (holder s.coh q.line true).isSome then .s else .f,
        padTo 64 (supply s q.line).1, (supply s q.line).2⟩ := by
  have hfilled (c : Prop) [Decidable c] (y : SliceLine) : (if c then (fill s y).coh else s.coh).ended = s.coh.ended := by
    split <;> simp
  unfold grantRead
  simp [h, hfilled]

/-- The line that a core stores into: its own copy, else what the slice supplies. -/
def beforeStore (s : State) (core line : Nat) : Bytes × Option Nat :=
  match l1 s.coh core line with
  | some x => (x.data, x.tag)
  | none => supply s line

theorem grantOwn_eq (s : State) (q : CohReq) :
    grantOwn s q = endReq (grant { s with coh := dropLine s.coh q.line } q.core q.line .m
      (stored (beforeStore s q.core q.line) q.off q.data) (some q.owner)) q St.ok [] := rfl

theorem grantOwn_ended (s : State) (q : CohReq) :
    (grantOwn s q).coh.ended = s.coh.ended ++ [⟨q.kind, q.core, q.line, St.ok, []⟩] := by
  rw [grantOwn_eq, endReq_ended, grant_ended]
  rfl

theorem l1_grantOwn (s : State) (q : CohReq) :
    l1 (grantOwn s q).coh q.core q.line =
      some ⟨q.core, q.line, .m, stored (beforeStore s q.core q.line) q.off q.data, some q.owner⟩ := by
  rw [grantOwn_eq, l1_endReq, l1_grant]

theorem grantOwn_onlyCopy (s : State) (q : CohReq) : ∀ x ∈ (grantOwn s q).coh.l1, x.line = q.line → x.core = q.core := by
  intro x hx hline
  rw [grantOwn_eq, endReq_l1] at hx
  obtain hmem | hcore := mem_grant_l1 hx
  · exact absurd hline (by simpa using (List.mem_filter.mp hmem).2)
  · exact hcore

/-! A store at the home slice (R406). -/

/-- A store of the whole line leaves nothing of the old one. -/
theorem stored_whole (old : Bytes × Option Nat) {data : Bytes} (h : data.length = 64) : stored old 0 data = data := by
  have hdrop {b : Bytes} (hb : b.length = 64) : splice b 0 data = data := by
    simp [splice, h, ← hb]
  unfold stored
  split
  · exact hdrop List.length_replicate
  · exact hdrop (length_padTo 64 _)

theorem supply_of_slice {s : State} {line : Nat} {x : SliceLine} (hl1 : ∀ y ∈ s.coh.l1, y.line ≠ line)
    (hx : inSlice s.coh line = some x) (hdirty : x.dirty = true) : supply s line = (x.data, x.tag) := by
  have hnone : holder s.coh line true = none := List.find?_eq_none.mpr fun y hy => by simp [hl1 y hy]
  simp [supply, hnone, hx, hdirty]

theorem inSlice_fill (s : State) (x : SliceLine) : inSlice (fill s x).coh x.line = some x := by
  have hnone (l : List SliceLine) : (l.filter fun y => y.line != x.line).find? (fun y => y.line == x.line) = none :=
    List.find?_eq_none.mpr fun y hy => by simpa using (List.mem_filter.mp hy).2
  simp [inSlice, fill, List.find?_append, hnone]

/-- The line with the store in it, dirty in its slice and in no L1. -/
def slicedStore (s : State) (owner line off : Nat) (data : Bytes) : State :=
  fill { s with coh := dropLine s.coh line } ⟨line, stored (supply s line) off data, true, some owner⟩

theorem writeLine_of_still {s : State} {line : Nat} (owner off : Nat) (data : Bytes) (h : moveOf s line = none) :
    writeLine s owner line off data =
      let t := slicedStore s owner line off data
      if data.length = 64 then
        { t with coh := { t.coh with lost := t.coh.lost.filter (· != line * 64) }, mem := Mem.mend t.mem line }
      else t := by
  unfold writeLine
  simp only [h]
  rfl

theorem writeLine_inSlice {s : State} {line : Nat} (owner off : Nat) (data : Bytes) (h : moveOf s line = none) :
    inSlice (writeLine s owner line off data).coh line = some ⟨line, stored (supply s line) off data, true, some owner⟩ ∧
      ∀ y ∈ (writeLine s owner line off data).coh.l1, y.line ≠ line := by
  have hslice : inSlice (slicedStore s owner line off data).coh line =
    some ⟨line, stored (supply s line) off data, true, some owner⟩ := inSlice_fill _ _
  have hl1 : ∀ y ∈ (slicedStore s owner line off data).coh.l1, y.line ≠ line := by
    intro y hy
    rw [slicedStore, fill_l1] at hy
    simpa using (List.mem_filter.mp hy).2
  rw [writeLine_of_still owner off data h]
  dsimp only
  split
  · exact ⟨hslice, hl1⟩
  · exact ⟨hslice, hl1⟩

theorem supply_writeLine {s : State} {line : Nat} (owner off : Nat) (data : Bytes) (h : moveOf s line = none) :
    supply (writeLine s owner line off data) line = (stored (supply s line) off data, some owner) := by
  obtain ⟨hslice, hl1⟩ := writeLine_inSlice owner off data h
  exact supply_of_slice hl1 hslice rfl

theorem storeMoving_coh (s : State) (v : Move) (line : Nat) (tag : Option Nat) (data : Bytes) :
    (storeMoving s v line tag data).coh = s.coh := by
  simp [storeMoving_frame ..]

@[simp] theorem writeLine_ended (s : State) (owner line off : Nat) (data : Bytes) :
    (writeLine s owner line off data).coh.ended = s.coh.ended := by
  cases h : moveOf s line with
  | none =>
    have hended : (slicedStore s owner line off data).coh.ended = s.coh.ended := fill_ended _ _
    rw [writeLine_of_still owner off data h]
    dsimp only
    split <;> exact hended
  | some v =>
    have hended (tag new) : (storeMoving { s with coh := dropLine s.coh line } v line tag new).coh.ended = s.coh.ended := by
      rw [storeMoving_coh]
      rfl
    simp only [writeLine, h]
    split <;> exact hended _ _

end Coh

/-! A touch leaves the moves to stack and shelf memory (R275). -/

theorem pageAt_mapPage (m : MemUnit) (id : PageId) (f : Page → Page) (a : Nat) (h : ∀ p, (f p).tier = p.tier) :
    Mem.pageAt (Mem.mapPage m id f) a = (Mem.pageAt m a).map fun p => if p.id == id then f p else p := by
  have htier (p : Page) : (if p.id == id then f p else p).tier = p.tier := by split <;> simp [h]
  simp only [Mem.pageAt, Mem.mapPage, List.find?_map, Function.comp_def, htier]

theorem move_filter (l : List Move) (id j : PageId) :
    (l.filter fun x => x.id != j).find? (fun v => v.id == id) = if id = j then none else l.find? fun v => v.id == id := by
  split
  next h => exact List.find?_eq_none.mpr fun v hv => by simpa [h] using (List.mem_filter.mp hv).2
  next h =>
    rw [List.find?_filter]
    congr 1
    funext v
    by_cases hv : v.id = id <;> simp [hv, h]

namespace Coh

theorem moveOf_touched (s : State) (id : PageId) (line : Nat) :
    moveOf { s with mem := Mem.mapPage s.mem id fun p => { p with touched := true } } line = moveOf s line := by
  have hid (p : Page) : (if p.id == id then { p with touched := true } else p).id = p.id := by split <;> rfl
  simp only [moveOf, pageAt_mapPage, implies_true]
  cases Mem.pageAt s.mem (line * 64) with
  | none => rfl
  | some p => simp only [Option.map_some, Option.bind_some, hid]; rfl

theorem moveOf_cancelMove {s : State} {v : Move} (line : Nat) (hv : Mem.move s.mem v.id = some v) (hf : v.to_ = .flash) :
    moveOf (cancelMove s v) line = moveOf s line := by
  have hmem : (cancelMove s v).mem = { s.mem with moves := s.mem.moves.filter fun x => x.id != v.id } := by
    simp [cancelMove, hf]
  have hat : Mem.pageAt (cancelMove s v).mem (line * 64) = Mem.pageAt s.mem (line * 64) := by rw [hmem]; rfl
  simp only [moveOf, hat]
  cases Mem.pageAt s.mem (line * 64) with
  | none => rfl
  | some p =>
    have hmove : Mem.move (cancelMove s v).mem p.id = if p.id = v.id then none else Mem.move s.mem p.id := by
      rw [hmem]; exact move_filter _ _ _
    rw [Option.bind_some, Option.bind_some, hmove]
    split
    next hp => simp [hp, hv, hf, Option.filter]
    next => rfl

@[simp] theorem moveOf_touchAddr (s : State) (a line : Nat) : moveOf (touchAddr s a) line = moveOf s line := by
  unfold touchAddr
  split
  next p _ =>
    have hmoves : Mem.move (Mem.mapPage s.mem p.id fun p => { p with touched := true }) p.id = Mem.move s.mem p.id := rfl
    unfold touch
    dsimp only
    rw [hmoves]
    split
    next v hv =>
      have hid : v.id = p.id := by simpa using List.find?_some hv
      split
      next hf => exact (moveOf_cancelMove line (by rw [hid]; exact hv) hf).trans (moveOf_touched s p.id line)
      next => exact moveOf_touched s p.id line
    next => exact moveOf_touched s p.id line
  next => rfl

/-! When a request is carried out as it arrives (R402, R410). -/

theorem l1_some {u : CohUnit} {core line : Nat} {x : L1Line} (h : l1 u core line = some x) :
    x ∈ u.l1 ∧ x.core = core ∧ x.line = line :=
  ⟨List.mem_of_find?_eq_some h, by simpa using List.find?_some h⟩

theorem acksFor_eq_nil {s : State} {q : CohReq} (h : ∀ x ∈ s.coh.l1, x.line = q.line → x.core ∉ acksFor.asked s q) :
    acksFor s q = [] := by
  refine List.filter_eq_nil_iff.mpr fun c hc hsome => ?_
  obtain ⟨x, hx⟩ := Option.isSome_iff_exists.mp hsome
  obtain ⟨hmem, hcore, hline⟩ := l1_some hx
  exact h x hmem hline (hcore ▸ hc)

/-- No earlier request to the line waits, and no cache and no host has an acknowledgement to give. -/
structure Unhindered (s : State) (q : CohReq) : Prop where
  free : ∀ b ∈ s.coh.busy, b.req.line ≠ q.line
  acks : acksFor s q = []
  host : hostHolds s q = none

theorem arrive_of_unhindered {s : State} {q : CohReq} (h : Unhindered s q) : arrive s q = execute s q := by
  have hfree : (s.coh.busy.any fun b => b.req.line == q.line) = false := by simpa using h.free
  simp [arrive, hfree, h.acks, h.host]

theorem hostHolds_eq_none {s : State} {q : CohReq} (h : ∀ n, hostLineOf s q.line = some n → n ∉ s.host.hostHeld) :
    hostHolds s q = none := by
  unfold hostHolds
  split
  · rfl
  · exact Option.filter_eq_none_iff.mpr fun n hn => by simpa using h n hn

theorem unhindered_of_reads {s : State} {q : CohReq} (hk : q.kind = .read ∨ q.kind = .readOnce)
    (hb : ∀ b ∈ s.coh.busy, b.req.line ≠ q.line) : Unhindered s q where
  free := hb
  acks := acksFor_eq_nil fun x _ _ => by obtain hk | hk := hk <;> simp [acksFor.asked, hk]
  host := by simp [hostHolds, hk]

theorem unhindered_of_noCopy {s : State} {q : CohReq} (hb : ∀ b ∈ s.coh.busy, b.req.line ≠ q.line)
    (hc : ∀ x ∈ s.coh.l1, x.line ≠ q.line) (hh : ∀ n, hostLineOf s q.line = some n → n ∉ s.host.hostHeld) : Unhindered s q where
  free := hb
  acks := acksFor_eq_nil fun x hx hline => absurd hline (hc x hx)
  host := hostHolds_eq_none hh

theorem unhindered_of_ownCopy {s : State} {q : CohReq} (hk : q.kind = .readOwn ∨ q.kind = .upgrade)
    (hb : ∀ b ∈ s.coh.busy, b.req.line ≠ q.line) (hc : ∀ x ∈ s.coh.l1, x.line = q.line → x.core = q.core)
    (hh : ∀ n, hostLineOf s q.line = some n → n ∉ s.host.hostHeld) : Unhindered s q where
  free := hb
  acks := acksFor_eq_nil fun x hx hline => by
    rw [hc x hx hline]
    obtain hk | hk := hk <;> simp [acksFor.asked, hk, named]
  host := hostHolds_eq_none hh

/-! What carrying out a request does, kind by kind, where the line admits its owner. The access touches the page first. -/

section
variable {s u : State} {q : CohReq} (hu : touchAddr s (q.line * 64) = u)
include hu

theorem execute_read (hk : q.kind = .read) (hc : check u q.owner q.line = St.ok) :
    execute s q = if moving u q.line then endReq u q St.ok (padTo 64 (supply u q.line).1) else grantRead u q := by
  simp [execute, hu, hk, hc]

theorem execute_readOnce (hk : q.kind = .readOnce) (hc : check u q.owner q.line = St.ok) :
    execute s q = endReq u q St.ok (padTo 64 (supply u q.line).1) := by
  simp [execute, hu, hk, hc]

theorem execute_store (hk : q.kind = .readOwn ∨ q.kind = .upgrade) (hc : writeCheck u q.owner q.line false = St.ok) :
    execute s q = if moving u q.line then endReq (writeLine u q.owner q.line q.off q.data) q St.ok [] else grantOwn u q := by
  obtain hk | hk := hk <;> simp [execute, hu, hk, hc]

theorem execute_writeLine (hk : q.kind = .writeLine) (hc : writeCheck u q.owner q.line true = St.ok) :
    execute s q = endReq (writeLine u q.owner q.line 0 (padTo 64 q.data)) q St.ok [] := by
  simp [execute, hu, hk, hc]

theorem execute_atomic (hk : q.kind = .atomic) (hc : writeCheck u q.owner q.line false = St.ok) :
    execute s q =
      let r := lineAtomic u q.owner (q.line * 64 + q.off) q.op q.data q.expected q.atMemory
      endReq r.2.2 q r.1 r.2.1 := by
  simp [execute, hu, hk, hc]

end

end Coh

/-! An atomic at the home slice (R408). -/

theorem length_atomicResult {op : Nat} {old operand expected : Bytes} (h : old.length = operand.length) :
    (atomicResult op old operand expected).length = operand.length := by
  unfold atomicResult
  dsimp only
  repeat' split
  all_goals simp [h]

/-- A listed atomic lies in one line: its width divides its address. -/
theorem cohAtomicOk_fits {a p : Nat} {d e : Bytes} (h : cohAtomicOk a p d e = true) : a % 64 + d.length ≤ 64 := by
  simp only [cohAtomicOk, Bool.and_eq_true, Bool.or_eq_true, beq_iff_eq] at h
  obtain ⟨⟨⟨hw, -⟩, halign⟩, -⟩ := h
  obtain (hw | hw) | ⟨hw, -⟩ := hw <;> rw [hw] at halign ⊢ <;> omega

/-- The old value that an atomic on `n` bytes of a line answers. -/
def atomicOld (s : State) (a n : Nat) : Bytes := ((padTo 64 (Coh.supply s (lineOf a)).1).drop (a % 64)).take n

/-- The line with the result of an atomic in it. -/
def atomicLine (s : State) (a op : Nat) (operand expected : Bytes) : Bytes :=
  splice (padTo 64 (Coh.supply s (lineOf a)).1) (a % 64) (atomicResult op (atomicOld s a operand.length) operand expected)

theorem length_atomicLine {s : State} {a op : Nat} {operand expected : Bytes} (h : a % 64 + operand.length ≤ 64) :
    (atomicLine s a op operand expected).length = 64 := by
  have hold : (atomicOld s a operand.length).length = operand.length := by
    rw [atomicOld, List.length_take, List.length_drop, length_padTo]
    omega
  rw [atomicLine, length_splice, length_padTo]
  rwa [length_atomicResult hold, length_padTo]

theorem lineAtomic_at_slice {s : State} {owner a : Nat} (op : Nat) (operand expected : Bytes)
    (hc : Coh.writeCheck s owner (lineOf a) false = St.ok) :
    lineAtomic s owner a op operand expected false = (St.ok, atomicOld s a operand.length,
      (if op != 1 || atomicOld s a operand.length == expected
        then writeLine (touchAddr s a) owner (lineOf a) 0 (atomicLine s a op operand expected)
        else Coh.recallLine (touchAddr s a) (lineOf a)).bump Ent.sliceAtomics) := by
  simp [lineAtomic, hc, atomicOld, atomicLine]

theorem lineAtomic_ended {s : State} {owner a : Nat} (op : Nat) (operand expected : Bytes)
    (hc : Coh.writeCheck s owner (lineOf a) false = St.ok) :
    (lineAtomic s owner a op operand expected false).2.2.coh.ended = s.coh.ended := by
  rw [lineAtomic_at_slice op operand expected hc, State.bump_coh]
  split
  · rw [Coh.writeLine_ended, touchAddr_coh]
  · rw [(Coh.recallLine_onlyDrops _ _).1, touchAddr_coh]

theorem supply_lineAtomic {s : State} {owner a op : Nat} {operand expected : Bytes}
    (hc : Coh.writeCheck s owner (lineOf a) false = St.ok) (hm : Coh.moveOf s (lineOf a) = none)
    (hfit : a % 64 + operand.length ≤ 64) (hwrites : op = 1 → atomicOld s a operand.length = expected) :
    Coh.supply (lineAtomic s owner a op operand expected false).2.2 (lineOf a) = (atomicLine s a op operand expected, some owner) := by
  have hw : (op != 1 || atomicOld s a operand.length == expected) = true := by
    by_cases h : op = 1 <;> simp [h, hwrites]
  obtain ⟨hslice, hl1⟩ := Coh.writeLine_inSlice owner 0 (atomicLine s a op operand expected) ((Coh.moveOf_touchAddr s a _).trans hm)
  rw [Coh.stored_whole _ (length_atomicLine hfit)] at hslice
  rw [lineAtomic_at_slice op operand expected hc, if_pos hw]
  exact Coh.supply_of_slice (s := State.bump _ _ _) hl1 hslice rfl

/-! The rows of the requests (R402). -/

theorem request_of_core {s : State} {q : CohReq} (hv : validAddr (q.line * 64) = true) (hu : s.up 7 = true) (hk : q.core < 512)
    (hs : coreServes s q.core = true) : request s q = .next (Coh.arrive (s.wakeCluster (q.core / 16)) q) := by
  simp [request, hv, hu, hk, hs]

theorem request_of_agent {s : State} {q : CohReq} (hq : q.core = 512) (hv : validAddr (q.line * 64) = true) (hu : s.up 7 = true) :
    request s q = .next (Coh.arrive s q) := by
  have hs : coreServes s q.core = true := by simp [coreServes, hq]
  rw [hq] at hs
  simp [request, hv, hu, hs, hq]

theorem request_of_core_unhindered {s : State} {q : CohReq} (h : Coh.Unhindered s q) (hv : validAddr (q.line * 64) = true)
    (hu : s.up 7 = true) (hk : q.core < 512) (hs : coreServes s q.core = true) :
    request s q = .next (Coh.execute (s.wakeCluster (q.core / 16)) q) := by
  have hawake : Coh.Unhindered (s.wakeCluster (q.core / 16)) q := ⟨h.free, h.acks, h.host⟩
  rw [request_of_core hv hu hk hs, Coh.arrive_of_unhindered hawake]

theorem request_of_agent_unhindered {s : State} {q : CohReq} (h : Coh.Unhindered s q) (hq : q.core = 512)
    (hv : validAddr (q.line * 64) = true) (hu : s.up 7 = true) : request s q = .next (Coh.execute s q) := by
  rw [request_of_agent hq hv hu, Coh.arrive_of_unhindered h]

/-- The request of a core that stores `d` at byte `f` of a line. -/
def storeReq (kind : CohKind) (k o l f : Nat) (d : Bytes) : CohReq :=
  { plainReq kind k (o % 4096) l with off := f % 64, data := d.take (64 - f % 64) }

/-- The request of an agent that writes a whole line. -/
def writeLineReq (o l : Nat) (d : Bytes) : CohReq := { plainReq .writeLine 512 (o % 4096) l with data := padTo 64 d }

/-- The request of an atomic at an address. -/
def atomicReq (o a p : Nat) (d e : Bytes) : CohReq :=
  { plainReq .atomic 512 (o % 4096) (lineOf a) with off := a % 64, data := d, op := p, expected := e }

theorem exec_readOwn_request (k o l f : Nat) (d : Bytes) (s : State) :
    exec (.readOwn k o l f d) s = request s (storeReq .readOwn k o l f d) := rfl

theorem exec_upgrade_request {k o l f : Nat} {d : Bytes} {s : State} (h : ∀ x, Coh.l1 s.coh k l = some x → x.st ≠ .e ∧ x.st ≠ .m) :
    exec (.upgrade k o l f d) s = request s (storeReq .upgrade k o l f d) := by
  rw [exec_upgrade, execUpgrade]
  dsimp only
  split
  next x hx => exact if_neg fun hc => hc.1.elim (h x hx).1 (h x hx).2
  next => rfl

/-- READ_OWN and UPGRADE bring the same request, but for its kind. -/
theorem exec_store_request {k o l f : Nat} {d : Bytes} {s : State} {c : Instr} {q : CohKind}
    (hcq : (c, q) ∈ [(.readOwn k o l f d, .readOwn), (.upgrade k o l f d, .upgrade)])
    (h : ∀ x, Coh.l1 s.coh k l = some x → x.st ≠ .e ∧ x.st ≠ .m) :
    (q = .readOwn ∨ q = .upgrade) ∧ exec c s = request s (storeReq q k o l f d) := by
  simp only [List.mem_cons, List.not_mem_nil, or_false, Prod.mk.injEq] at hcq
  obtain ⟨rfl, rfl⟩ | ⟨rfl, rfl⟩ := hcq
  · exact ⟨.inl rfl, exec_readOwn_request ..⟩
  · exact ⟨.inr rfl, exec_upgrade_request h⟩

theorem exec_cacheAtomic_request {o a p : Nat} {d e : Bytes} {s : State} (h : cohAtomicOk a p d e = true) :
    exec (.cacheAtomic o a p d e) s = request s (atomicReq o a p d e) := by
  rw [exec_cacheAtomic, execCacheAtomic]
  exact if_pos h

/-! A store in place: the core holds the line in E or M. -/

/-- A copy with a store in it. -/
def storedCopy (o f : Nat) (d : Bytes) (y : L1Line) : L1Line :=
  { y with st := .m, data := Coh.stored (y.data, y.tag) (f % 64) (d.take (64 - f % 64)), tag := some (o % 4096) }

/-- The copy of a core takes a store; the slice keeps no data of the line. -/
def storeInPlace (s : State) (k o l f : Nat) (d : Bytes) : State :=
  { s with coh := { s.coh with
    l1 := s.coh.l1.map fun y => if y.core = k ∧ y.line = l then storedCopy o f d y else y
    slice := s.coh.slice.filter fun y => y.line != l } }

theorem l1_storeInPlace {s : State} {k l : Nat} {x : L1Line} (o f : Nat) (d : Bytes) (hx : Coh.l1 s.coh k l = some x) :
    Coh.l1 (storeInPlace s k o l f d).coh k l = some (storedCopy o f d x) := by
  have hcore (y : L1Line) : (if y.core = k ∧ y.line = l then storedCopy o f d y else y).core = y.core := by split <;> rfl
  have hline (y : L1Line) : (if y.core = k ∧ y.line = l then storedCopy o f d y else y).line = y.line := by split <;> rfl
  have hfind : s.coh.l1.find? (fun y => y.core == k && y.line == l) = some x := hx
  simp [Coh.l1, storeInPlace, List.find?_map, hcore, hline, hfind, (Coh.l1_some hx).2]

theorem exec_upgrade_inPlace {k o l f : Nat} {d : Bytes} {s : State} {x : L1Line} (hu : s.up 7 = true) (hs : coreServes s k = true)
    (hx : Coh.l1 s.coh k l = some x) (hst : x.st = .e ∨ x.st = .m) (hc : Coh.writeCheck s (o % 4096) l false = St.ok) :
    exec (.upgrade k o l f d) s =
      .next (Coh.endReq (touchAddr (storeInPlace s k o l f d) (l * 64)) (storeReq .upgrade k o l f d) St.ok []) := by
  rw [exec_upgrade, execUpgrade]
  simp only [hx]
  exact if_pos ⟨hst, hu, hs, hc⟩

/-! What each row does where nothing hinders its request and the line admits its owner; `u` is the state with the page touched. -/

section
variable {k o l : Nat} {s u : State} (hv : validAddr (l * 64) = true) (hup : s.up 7 = true) (hb : ∀ b ∈ s.coh.busy, b.req.line ≠ l)
include hv hup hb

theorem exec_cacheRead_executes (hk : k < 512) (hs : coreServes s k = true) (hu : u = touchAddr (s.wakeCluster (k / 16)) (l * 64))
    (hc : Coh.check u (o % 4096) l = St.ok) :
    exec (.cacheRead k o l) s = .next (if Coh.moving u l
      then Coh.endReq u (plainReq .read k (o % 4096) l) St.ok (padTo 64 (Coh.supply u l).1)
      else Coh.grantRead u (plainReq .read k (o % 4096) l)) := by
  have hun : Coh.Unhindered s (plainReq .read k (o % 4096) l) := Coh.unhindered_of_reads (.inl rfl) hb
  have hexecute := Coh.execute_read (q := plainReq .read k (o % 4096) l) hu.symm rfl hc
  exact (request_of_core_unhindered hun hv hup hk hs).trans (congrArg _ hexecute)

theorem exec_readOnce_executes (hu : u = touchAddr s (l * 64)) (hc : Coh.check u (o % 4096) l = St.ok) :
    exec (.readOnce o l) s = .next (Coh.endReq u (plainReq .readOnce 512 (o % 4096) l) St.ok (padTo 64 (Coh.supply u l).1)) := by
  have hun : Coh.Unhindered s (plainReq .readOnce 512 (o % 4096) l) := Coh.unhindered_of_reads (.inr rfl) hb
  have hexecute := Coh.execute_readOnce (q := plainReq .readOnce 512 (o % 4096) l) hu.symm rfl hc
  exact (request_of_agent_unhindered hun rfl hv hup).trans (congrArg _ hexecute)

variable (hh : ∀ h, Coh.hostLineOf s l = some h → h ∉ s.host.hostHeld)
include hh

theorem exec_store_executes {f : Nat} {d : Bytes} {c : Instr} {q : CohKind}
    (hcq : (c, q) ∈ [(.readOwn k o l f d, .readOwn), (.upgrade k o l f d, .upgrade)]) (hk : k < 512) (hs : coreServes s k = true)
    (hown : ∀ x ∈ s.coh.l1, x.line = l → x.core = k) (hst : ∀ x, Coh.l1 s.coh k l = some x → x.st ≠ .e ∧ x.st ≠ .m)
    (hu : u = touchAddr (s.wakeCluster (k / 16)) (l * 64)) (hc : Coh.writeCheck u (o % 4096) l false = St.ok) :
    exec c s = .next (if Coh.moving u l
      then Coh.endReq (writeLine u (o % 4096) l (f % 64) (d.take (64 - f % 64))) (storeReq q k o l f d) St.ok []
      else Coh.grantOwn u (storeReq q k o l f d)) := by
  obtain ⟨hq, hrequest⟩ := exec_store_request hcq hst
  have hun : Coh.Unhindered s (storeReq q k o l f d) := Coh.unhindered_of_ownCopy hq hb hown hh
  have hexecute := Coh.execute_store (q := storeReq q k o l f d) hu.symm hq hc
  exact hrequest.trans ((request_of_core_unhindered hun hv hup hk hs).trans (congrArg _ hexecute))

theorem exec_writeLine_executes {d : Bytes} (hno : ∀ x ∈ s.coh.l1, x.line ≠ l) (hu : u = touchAddr s (l * 64))
    (hc : Coh.writeCheck u (o % 4096) l true = St.ok) :
    exec (.writeLine o l d) s = .next (Coh.endReq (writeLine u (o % 4096) l 0 (padTo 64 d)) (writeLineReq o l d) St.ok []) := by
  have hun : Coh.Unhindered s (writeLineReq o l d) := Coh.unhindered_of_noCopy hb hno hh
  have hexecute := Coh.execute_writeLine (q := writeLineReq o l d) hu.symm rfl hc
  have hdata : padTo 64 (writeLineReq o l d).data = padTo 64 d := padTo_padTo 64 d
  rw [hdata] at hexecute
  exact (request_of_agent_unhindered hun rfl hv hup).trans (congrArg _ hexecute)

end

theorem exec_cacheAtomic_executes {o a p : Nat} {d e : Bytes} {s u : State} (hok : cohAtomicOk a p d e = true)
    (hv : validAddr (lineOf a * 64) = true) (hup : s.up 7 = true) (hb : ∀ b ∈ s.coh.busy, b.req.line ≠ lineOf a)
    (hno : ∀ x ∈ s.coh.l1, x.line ≠ lineOf a) (hh : ∀ h, Coh.hostLineOf s (lineOf a) = some h → h ∉ s.host.hostHeld)
    (hu : u = touchAddr s (lineOf a * 64)) (hc : Coh.writeCheck u (o % 4096) (lineOf a) false = St.ok) :
    exec (.cacheAtomic o a p d e) s = .next (Coh.endReq (lineAtomic u (o % 4096) a p d e false).2.2 (atomicReq o a p d e) St.ok
      (atomicOld u a d.length)) := by
  have hun : Coh.Unhindered s (atomicReq o a p d e) := Coh.unhindered_of_noCopy hb hno hh
  have hexecute := Coh.execute_atomic (q := atomicReq o a p d e) hu.symm rfl hc
  have haddr : (atomicReq o a p d e).line * 64 + (atomicReq o a p d e).off = a := Nat.div_add_mod' a 64
  have hatomic := lineAtomic_at_slice p d e hc
  rw [haddr] at hexecute
  rw [exec_cacheAtomic_request hok, request_of_agent_unhindered hun rfl hv hup, hexecute]
  change Host.Outcome.next (Coh.endReq _ _ (lineAtomic u (o % 4096) a p d e false).1 (lineAtomic u (o % 4096) a p d e false).2.1) = _
  rw [congrArg Prod.fst hatomic, congrArg (fun r => r.2.1) hatomic]
  rfl

/-- Settles O33: each request reaches its home slice, and one that nothing hinders is carried out there as its kind says. -/
theorem cacheRequestsComplete : Obligations.CacheRequestsComplete := by
  refine ⟨?readArrives, ?readOwnArrives, ?upgradeArrives, ?writeLineArrives, ?readOnceArrives, ?atomicArrives, ?readMiss, ?readHit,
    ?readOfMovingPage, ?storeOwns, ?upgradeInPlace, ?writeLineStores, ?readOnceAnswers, ?atomicActs, ?storeToMovingPage, ?unlistedAtomic⟩
  case readArrives =>
    intro k o l s hv hup hk hs
    exact request_of_core (q := plainReq .read k (o % 4096) l) hv hup hk hs
  case readOwnArrives =>
    intro k o l f d s hv hup hk hs
    exact request_of_core (q := storeReq .readOwn k o l f d) hv hup hk hs
  case upgradeArrives =>
    intro k o l f d s hv hup hk hs hnone
    rw [exec_upgrade_request (by simp [hnone])]
    exact request_of_core (q := storeReq .upgrade k o l f d) hv hup hk hs
  case writeLineArrives =>
    intro o l d s hv hup
    exact request_of_agent (q := writeLineReq o l d) rfl hv hup
  case readOnceArrives =>
    intro o l s hv hup
    exact request_of_agent (q := plainReq .readOnce 512 (o % 4096) l) rfl hv hup
  case atomicArrives =>
    intro o a p d e s hok hv hup
    rw [exec_cacheAtomic_request hok]
    exact request_of_agent (q := atomicReq o a p d e) rfl hv hup
  case readMiss =>
    intro k o l u s hv hup hk hs hb hu hc hmoving hmiss
    obtain ⟨hended, hcopy⟩ := Coh.grantRead_miss (q := plainReq .read k (o % 4096) l) hmiss
    have hexec := exec_cacheRead_executes hv hup hb hk hs hu hc
    rw [hmoving] at hexec
    rw [hu, touchAddr_coh, ← hu] at hended
    exact ⟨_, hexec, hended, hcopy⟩
  case readHit =>
    intro k o l x u s hv hup hk hs hb hu hc hmoving hhit
    rw [exec_cacheRead_executes hv hup hb hk hs hu hc, hmoving]
    exact congrArg _ (Coh.grantRead_hit hhit)
  case readOfMovingPage =>
    intro k o l u s hv hup hk hs hb hu hc hmoving
    rw [exec_cacheRead_executes hv hup hb hk hs hu hc, if_pos hmoving]
  case storeOwns =>
    intro k o l f d u s c q hcq hv hup hk hs hb hown hh hst hu hc hmoving
    have hexec := exec_store_executes hv hup hb hh hcq hk hs hown hst hu hc
    have hended := Coh.grantOwn_ended u (storeReq q k o l f d)
    rw [hmoving] at hexec
    rw [hu, touchAddr_coh, ← hu] at hended
    exact ⟨_, hexec, hended, Coh.grantOwn_onlyCopy u (storeReq q k o l f d), Coh.l1_grantOwn u (storeReq q k o l f d)⟩
  case upgradeInPlace =>
    intro k o l f d x s hup hk hs hx hst hc
    refine ⟨_, exec_upgrade_inPlace hup hs hx hst hc, ?_, ?_⟩
    · rw [Coh.endReq_ended, touchAddr_coh]
      rfl
    · obtain ⟨-, hcore, hline⟩ := Coh.l1_some hx
      rw [Coh.l1_endReq, touchAddr_coh, l1_storeInPlace o f d hx, storedCopy, hcore, hline]
  case writeLineStores =>
    intro o l d u s hv hup hb hno hh hu hc hstill
    refine ⟨_, exec_writeLine_executes hv hup hb hh hno hu hc, ?_, ?_⟩
    · rw [Coh.endReq_ended, Coh.writeLine_ended, hu, touchAddr_coh]
      rfl
    · rw [Coh.supply_endReq, Coh.supply_writeLine _ _ _ hstill, Coh.stored_whole _ (length_padTo 64 d)]
  case readOnceAnswers =>
    intro o l u s hv hup hb hu hc
    exact exec_readOnce_executes hv hup hb hu hc
  case atomicActs =>
    intro o a p d e v u s hok hv hup hb hno hh hu hc hstill hold
    refine ⟨_, exec_cacheAtomic_executes hok hv hup hb hno hh hu hc, ?_, fun hwrites => ?_⟩
    · rw [Coh.endReq_ended, lineAtomic_ended p d e hc, hu, touchAddr_coh, ← hu, hold]
      rfl
    · rw [Coh.supply_endReq, hold]
      exact supply_lineAtomic hc hstill (cohAtomicOk_fits hok) fun hp => hold.symm.trans (hwrites hp)
  case storeToMovingPage =>
    intro k o l f d u s c q hcq hv hup hk hs hb hno hh hu hc hmoving
    have hst (x : L1Line) (hx : Coh.l1 s.coh k l = some x) : x.st ≠ .e ∧ x.st ≠ .m :=
      absurd (Coh.l1_some hx).2.2 (hno x (Coh.l1_some hx).1)
    refine ⟨storeReq q k o l f d, rfl, rfl, rfl, ?_⟩
    rw [exec_store_executes hv hup hb hh hcq hk hs (fun x hx hline => absurd hline (hno x hx)) hst hu hc, if_pos hmoving]
  case unlistedAtomic =>
    intro o a p d e s hok hup
    refine ⟨Coh.endReq s (atomicReq o a p d e) St.badJob [], ?_, rfl, rfl⟩
    simp [execCacheAtomic, hok, hup, atomicReq]

end Sys2Proof.Machine

/-!
Errors, power and margins (17_reliability.md, 19_reset_power.md, 20_electrical.md): what a write to the Catalogue leaves of the entries
in force, what an event record leaves of the counters, and what a current sample does.
-/
namespace Sys2Proof.Machine

open Sys2Proof

/-! The Catalogue under writes to other entries. -/

theorem State.cfg_setVal_of_ne (s : State) {k j : Nat} (v : Val) (h : k ≠ j) : (s.setVal j v).cfg k = s.cfg k := by
  have hget : (s.setVal j v).cat.get k = s.cat.get k := by simp [State.setVal, h]
  have hwaiting : (s.setVal j v).cat.waiting = s.cat.waiting := rfl
  rw [State.cfg, State.cfg, CatUnit.inForce, CatUnit.inForce, hget, hwaiting]

theorem State.cfg_setNum_of_ne (s : State) {k j : Nat} (v : Nat) (h : k ≠ j) : (s.setNum j v).cfg k = s.cfg k :=
  s.cfg_setVal_of_ne _ h

theorem State.num_log (s : State) (l : EventLog) (k : Nat) : State.num { s with log := l } k = s.num k := rfl

theorem State.num_pwr (s : State) (u : PowerUnit) (k : Nat) : State.num { s with pwr := u } k = s.num k := rfl

/-- R583: a record counts itself and what it overwrites, and nothing else. -/
theorem State.num_logEvent (s : State) (code outcome status spareKind unit detail : Nat) {k : Nat} (hseq : k ≠ Ent.eventSeqNext)
    (hover : k ≠ Ent.eventsOverwritten) : (s.logEvent code outcome status spareKind unit detail).num k = s.num k := by
  have hnext : (s.setNum Ent.eventSeqNext (s.num Ent.eventSeqNext + 1)).num k = s.num k := by simp [hseq]
  rw [State.logEvent, State.logEventAt]
  dsimp only
  rw [State.num_log]
  split
  · rw [State.num_bump, if_neg hover, hnext]
  · exact hnext

/-! A current sample (R24, R25; the average is the mean of the samples held, log entry 41). -/

/-- The rails' currents shown and the sample among the last 100. -/
def withSample (watts : Nat) (amps : List Nat) (s : State) : State :=
  let s := s.setVal Ent.railAmps (.b ((List.range 7).flatMap fun i => leBytes 2 (u16 (amps.getD i 0))))
  let l := s.pwr.samples ++ [watts]
  { s with pwr := { s.pwr with samples := l.drop (l.length - 100) } }

/-- The average of the samples shown, and its peak. -/
def showPower (s : State) : State :=
  let mean := u16 (averagePower s.pwr)
  (s.setNum Ent.packagePowerW mean).setNum Ent.peakPowerW (max (s.num Ent.peakPowerW) mean)

/-- The average is above the limit. -/
def aboveLimit (s : State) : Bool := decide (s.cfg Ent.packageLimitW * s.pwr.samples.length < s.pwr.samples.sum)

/-- The rates go down where the average is above the limit, and up where it is not, unless the node is hot. -/
def throttle (above : Bool) (s : State) : State := if above then throttleDown s else if s.rst.hot then s else throttleUp s

/-- The node counts as throttled or not, and its first throttled sample of a Tide is counted. -/
def markThrottled (on : Bool) (s : State) : State :=
  let s := if on && !s.pwr.counted then s.bump Ent.throttledTides else s
  { s with pwr := { s.pwr with throttled := on, counted := s.pwr.counted || on } }

/-- What a node does with the average shown. -/
def judgePower (s : State) : State :=
  markThrottled (aboveLimit s || (throttle (aboveLimit s) s).rst.hot || throttledNow (throttle (aboveLimit s) s)) (throttle (aboveLimit s) s)

theorem exec_railCurrentSample_of_mgmt {s : State} (w : Nat) (l : List Nat) (h : s.mgmt = true) :
    exec (.railCurrentSample w l) s = .next (judgePower (showPower (withSample w l s))) := by
  rw [exec_railCurrentSample, execRailCurrentSample, h]
  extract_lets s1 l1 u1 sampled mean shown above rated on
  have hshown : shown = showPower (withSample w l s) := rfl
  have habove : above = aboveLimit shown := rfl
  have hrated : rated = throttle above shown := rfl
  have hon : on = (above || rated.rst.hot || throttledNow rated) := rfl
  rw [judgePower, ← hshown, ← habove, ← hrated, ← hon]
  clear_value on
  rfl

theorem lowerDuty_samples (s : State) : (lowerDuty s).pwr.samples = s.pwr.samples := by
  unfold lowerDuty
  dsimp only
  split <;> rfl

theorem lowerDistance_samples (s : State) : (lowerDistance s).pwr.samples = s.pwr.samples := by
  unfold lowerDistance
  dsimp only
  split
  · rfl
  · exact lowerDuty_samples _

theorem throttleDown_samples (s : State) : (throttleDown s).pwr.samples = s.pwr.samples := by
  unfold throttleDown
  dsimp only
  split
  · rfl
  · exact lowerDistance_samples _

theorem throttle_samples (above : Bool) (s : State) : (throttle above s).pwr.samples = s.pwr.samples := by
  unfold throttle
  split
  · exact throttleDown_samples s
  · split <;> rfl

theorem throttle_tide (above : Bool) (s : State) : (throttle above s).tide = s.tide := by
  simp [throttle, throttleDown_frame .., throttleUp_frame ..]

theorem throttle_cat (above : Bool) (s : State) : (throttle above s).cat = s.cat := by
  simp [throttle, throttleDown_frame .., throttleUp_frame ..]

theorem markThrottled_keeps (on : Bool) (s : State) : (markThrottled on s).tide = s.tide ∧ (markThrottled on s).nb = s.nb ∧
    (markThrottled on s).pwr.samples = s.pwr.samples ∧ (markThrottled on s).pwr.throttled = on := by
  unfold markThrottled
  dsimp only
  split <;> exact ⟨rfl, rfl, rfl, rfl⟩

theorem num_markThrottled (on : Bool) (s : State) {k : Nat} (h : k ≠ Ent.throttledTides) : (markThrottled on s).num k = s.num k := by
  rw [markThrottled]
  dsimp only
  rw [State.num_pwr]
  split
  · rw [State.num_bump, if_neg h]
  · rfl

theorem showPower_withSample (w : Nat) (l : List Nat) (s : State) :
    (showPower (withSample w l s)).tide = s.tide ∧
      (showPower (withSample w l s)).pwr.samples = (s.pwr.samples ++ [w]).drop ((s.pwr.samples ++ [w]).length - 100) := by
  simp only [showPower, withSample, State.setNum_tide, State.setNum_pwr, State.setVal_tide, State.setVal_pwr, and_self]

theorem showPower_packagePowerW (s : State) : (showPower s).num Ent.packagePowerW = u16 (averagePower s.pwr) := by
  simp [showPower]

theorem showPower_packageLimitW (s : State) : (showPower s).cfg Ent.packageLimitW = s.cfg Ent.packageLimitW := by
  rw [showPower, State.cfg_setNum_of_ne _ _ (by decide), State.cfg_setNum_of_ne _ _ (by decide)]

theorem withSample_packageLimitW (w : Nat) (l : List Nat) (s : State) :
    (withSample w l s).cfg Ent.packageLimitW = s.cfg Ent.packageLimitW :=
  State.cfg_setVal_of_ne s _ (by decide)

theorem throttledNow_of_duty {s : State} (h : s.nb.duty < 16) : throttledNow s = true := by
  simp [throttledNow, h]

/-- What the judgement of a sample leaves, and when the node counts as throttled. -/
theorem judgePower_spec (s : State) :
    (judgePower s).tide = s.tide ∧ (judgePower s).pwr.samples = s.pwr.samples ∧
      (judgePower s).num Ent.packagePowerW = s.num Ent.packagePowerW ∧
      (aboveLimit s = true → (judgePower s).pwr.throttled = true) ∧
      ((judgePower s).nb.duty < 16 → (judgePower s).pwr.throttled = true) := by
  have hnum (above : Bool) : (throttle above s).num Ent.packagePowerW = s.num Ent.packagePowerW := by
    rw [State.num, throttle_cat, State.num]
  rw [judgePower]
  obtain ⟨htide, hnb, hsamples, hon⟩ := markThrottled_keeps
    (aboveLimit s || (throttle (aboveLimit s) s).rst.hot || throttledNow (throttle (aboveLimit s) s)) (throttle (aboveLimit s) s)
  rw [htide, hnb, hsamples, hon, throttle_tide, throttle_samples, num_markThrottled _ _ (by decide), hnum]
  refine ⟨rfl, rfl, rfl, fun habove => ?_, fun hduty => ?_⟩
  · rw [habove, Bool.true_or, Bool.true_or]
  · rw [throttledNow_of_duty hduty, Bool.or_true]

theorem railCurrentSample_completes (w : Nat) (l : List Nat) (s : State) (h : s.mgmt = true) :
    ∃ t, exec (.railCurrentSample w l) s = .next t ∧ t.tide = s.tide ∧
      t.pwr.samples = (s.pwr.samples ++ [w]).drop ((s.pwr.samples ++ [w]).length - 100) ∧
      t.num Ent.packagePowerW = u16 (averagePower { s.pwr with samples := t.pwr.samples }) ∧
      (s.cfg Ent.packageLimitW * t.pwr.samples.length < t.pwr.samples.sum → t.pwr.throttled = true) ∧
      (t.nb.duty < 16 → t.pwr.throttled = true) := by
  obtain ⟨htide, hsamples, hpower, habove, hduty⟩ := judgePower_spec (showPower (withSample w l s))
  obtain ⟨hshownTide, hshownSamples⟩ := showPower_withSample w l s
  refine ⟨_, exec_railCurrentSample_of_mgmt w l h, htide.trans hshownTide, hsamples.trans hshownSamples, ?_, fun hlimit => ?_, hduty⟩
  · rw [hpower, showPower_packagePowerW, hsamples, hshownSamples]
    rfl
  · rw [hsamples] at hlimit
    apply habove
    rw [aboveLimit, showPower_packageLimitW, withSample_packageLimitW]
    exact decide_eq_true hlimit

/-! The generator and the stragglers. -/

/-- R600: a failed test stops the generator and is counted. -/
theorem trngFails_stops (s : State) :
    (trngFails s).sec.trng = 2 ∧ (trngFails s).num Ent.trngFailures = s.num Ent.trngFailures + 1 := by
  constructor
  · simp [trngFails, State.logEvent_frame ..]
  · rw [trngFails]
    dsimp only
    rw [State.num_logEvent _ _ _ _ _ _ _ (by decide) (by decide), State.num_bump, if_pos rfl]
    rfl

theorem mem_endHold_stragglers (s : State) (n : Nat) (x : Nat × Nat) :
    x ∈ (endHold s fun m => m == n).qry.stragglers ↔ x ∈ s.qry.stragglers ∧ ¬(x.1 = n ∧ x.2 ≤ s.now) := by
  simp only [endHold, List.mem_filter, Bool.not_eq_true', Bool.and_eq_false_iff, beq_eq_false_iff_ne, decide_eq_false_iff_not, not_and_or,
    ne_eq]

/-- R632: a cluster with no request at the slices does no work. -/
theorem exec_slackEntry_of_idle {k : Nat} {s : State} (hk : k < 32) (hu : s.up 7 = true) (hb : s.coh.busy = [])
    (hd : s.rel.deadClusters.contains k = false) (hs : s.rst.slack.contains k = false) :
    exec (.slackEntry k) s = .next { s with rst := { s.rst with slack := s.rst.slack ++ [k] } } := by
  rw [exec_slackEntry, execSlackEntry, hb, hu, hd, hs]
  simp [hk]

/-- R584, R585: the margin is raised where a cluster of low slack was noted. -/
theorem exec_marginSample_eq {s u v : State} {a b low : List Nat} (f : Bool) (h : s.mgmt = true)
    (hu : u = s.setVal Ent.railMv (.b ((List.range 7).flatMap fun i => leBytes 2 (u16 (a.getD i 0)))))
    (hv : v = { u with rel := { u.rel with
      droop := (List.range 7).map fun i => max (u.rel.droop.getD i 0) ((railNominal u).getD i 0 - a.getD i 0)
      slack := (List.range 32).map fun c => leastSlack u.rel.slack[c]? (b.getD c 0 % 65536) } })
    (hlow : low = (List.range 32).filter fun c => v.up 7 && !v.rel.deadClusters.contains c && (match b[c]? with
      | some x => decide (slackPs (x % 65536) < v.cfg Ent.slackLimitPs)
      | none => false)) :
    exec (.marginSample a b f) s =
      .next (if low = [] then v else raiseMargin (low.foldl (fun s c => noteLowSlack s c (b.getD c 0 % 65536)) v) f) := by
  have hexec : exec (.marginSample a b f) s = .next (if low.isEmpty then low.foldl (fun s c => noteLowSlack s c (b.getD c 0 % 65536)) v
      else raiseMargin (low.foldl (fun s c => noteLowSlack s c (b.getD c 0 % 65536)) v) f) := by
    subst hlow hv hu
    rw [exec_marginSample, execMarginSample, h]
    rfl
  rw [hexec]
  cases low <;> rfl

/-- Settles O46: each row reduces to the step that its guard admits; the current sample, the margin sample, the generator and the
stragglers by the lemmas above. -/
theorem faultAndPowerCommandsComplete : Obligations.FaultAndPowerCommandsComplete := by
  refine ⟨?errorEvent, ?testDone, ?testEscalated, ?drainLimit, ?neapEntered, ?neapLeft, ?slackEntered,
    ?currentSample, ?marginSample, ?marginPeriod, ?modulesPolled, ?generatorFails, ?generatorStarts, ?stragglerMarkGoes⟩
  case errorEvent =>
    intro x s h
    exact if_pos h
  case testDone =>
    intro u p n b x s hx h hfirst
    simp [execSelfTestDone, hx, h, hfirst]
  case testEscalated =>
    rintro u p x _ _ s hx h hfirst rfl rfl
    simp only [exec_selfTestEscalation, execSelfTestEscalation, hx, h, hfirst]
    cases escalatedBlock u p <;> rfl
  case drainLimit =>
    intro b s h
    exact if_pos h
  case neapEntered =>
    intro s h hready
    simp [execNeapPowerOff, h, hready]
  case neapLeft =>
    intro s h hstate hrelease hfrom
    simp [execNeapExitDone, h, hstate, hrelease, hfrom]
  case slackEntered =>
    intro k s hk hu hb hd hs
    exact exec_slackEntry_of_idle hk hu hb hd hs
  case currentSample => exact railCurrentSample_completes
  case marginSample =>
    intro a b low f u v s h hu hv hlow
    exact exec_marginSample_eq f h hu hv hlow
  case marginPeriod =>
    rintro _ s h hdue rfl
    rw [exec_marginPeriod, execMarginPeriod, h, decide_eq_true hdue]
    rfl
  case modulesPolled =>
    intro l s h hu
    rw [exec_cmisPoll, execCmisPoll, h, hu]
    rfl
  case generatorFails =>
    intro s hu
    exact ⟨trngFails s, if_pos hu, trngFails_stops s⟩
  case generatorStarts =>
    intro o s hu htrng
    simp [execTrngStartupDone, hu, htrng]
  case stragglerMarkGoes =>
    intro n s
    exact ⟨_, rfl, mem_endHold_stragglers s n, rfl⟩

end Sys2Proof.Machine

/-!
The Tide unit and the other units (02_tide.md, 95_what_each_step_holds.md): only the Tide commands and the commands that may assert a
reset change it.
-/
namespace Sys2Proof.Machine

open Sys2Proof

/-- The commands outside the Tide family that may assert a reset, in which the Tide unit takes part (R618, R656). -/
def mayReset : Instr → Bool
  | .resetAssert | .resetNLow | .clockStop | .watchdogExpiry | .rebuildDone | .powerOn .. | .railUndervoltage _
  | .junctionSensorRead _ | .selfTestEscalation .. => true
  | _ => false

/-- Every other command has a frame that names the Tide unit. -/
theorem exec_keeps_tide {c : Instr} {s t : State} (htide : familyOf c ≠ .tide) (hreset : mayReset c = false)
    (h : exec c s = .next t) : t.tide = s.tide := by
  cases c with
  | masterBoundary => exact absurd rfl htide
  | tideInEdge => exact absurd rfl htide
  | missedEdge => exact absurd rfl htide
  | countFrame => exact absurd rfl htide
  | tideBeacon => exact absurd rfl htide
  | subTick => exact absurd rfl htide
  | tideUnitStart => exact absurd rfl htide
  | twApply => exact absurd rfl htide
  | collectionIdWrite => simp [execCollectionIdWrite_frame (h := h) ..]
  | collectionOpen => simp [execCollectionOpen_frame (h := h) ..]
  | collectionClose => simp [execCollectionClose_frame (h := h) ..]
  | collectionStorageRelease => simp [execCollectionStorageRelease_frame (h := h) ..]
  | shoalMapWrite => simp [execShoalMapWrite_frame (h := h) ..]
  | shoalRelease => simp [execShoalRelease_frame (h := h) ..]
  | slotSettle => simp [execSlotSettle_frame (h := h) ..]
  | indexAgeLimit => simp [execIndexAgeLimit_frame (h := h) ..]
  | retiredReclaim => simp [execRetiredReclaim_frame (h := h) ..]
  | query => simp [execQuery_frame (h := h) ..]
  | fragmentRequest src data => simp [execFragmentRequest_frame src data s h]
  | fragmentReply => simp [execFragmentReply_frame (h := h) ..]
  | fragmentCutoff => simp [execFragmentCutoff_frame (h := h) ..]
  | fragmentComplete => simp [execFragmentComplete_frame (h := h) ..]
  | queryDeadline => simp [execQueryDeadline_frame (h := h) ..]
  | verifyReadDone => simp [execVerifyReadDone_frame (h := h) ..]
  | accession => simp [execAccession_frame (h := h) ..]
  | deaccession => simp [execDeaccession_frame (h := h) ..]
  | changeAtPrimary => simp [execChangeAtPrimary_frame (h := h) ..]
  | changeHeldAccept => simp [execChangeHeldAccept_frame (h := h) ..]
  | changeAtReplica => simp [execChangeAtReplica_frame (h := h) ..]
  | changeAcknowledgement => simp [execChangeAcknowledgement_frame (h := h) ..]
  | changeOutcome => simp [execChangeOutcome_frame (h := h) ..]
  | replicaAckTimeout => simp [execReplicaAckTimeout_frame (h := h) ..]
  | intakeGiveUp => simp [execIntakeGiveUp_frame (h := h) ..]
  | upkeepWindowOpen => simp [execUpkeepWindowOpen_frame (h := h) ..]
  | upkeepWindowClose => simp [execUpkeepWindowClose_frame (h := h) ..]
  | shoalFillStream => simp [execShoalFillStream_frame (h := h) ..]
  | fillComplete => simp [execFillComplete_frame (h := h) ..]
  | hostMemRead => simp [execHostMemRead_frame (h := h) ..]
  | hostMemWrite => simp [execHostMemWrite_frame (h := h) ..]
  | holdTimeout => simp [execHoldTimeout_frame (h := h) ..]
  | stackDemotion => simp [execStackDemotion_frame (h := h) ..]
  | shelfDemotion => simp [execShelfDemotion_frame (h := h) ..]
  | pageMoveSwitch => simp [execPageMoveSwitch_frame (h := h) ..]
  | sweepComplete => simp [execSweepComplete_frame (h := h) ..]
  | nbSequenceIssue => simp [execNbSequenceIssue_frame (h := h) ..]
  | nbSequenceStart => simp [execNbSequenceStart_frame (h := h) ..]
  | rowcopy => simp [execRowcopy_frame (h := h) ..]
  | rowinit => simp [execRowinit_frame (h := h) ..]
  | rowlogic => simp [execRowlogic_frame (h := h) ..]
  | opload => simp [execOpload_frame (h := h) ..]
  | popacc => simp [execPopacc_frame (h := h) ..]
  | accout => simp [execAccout_frame (h := h) ..]
  | seqEnd => simp [execSeqEnd_frame (h := h) ..]
  | bankSlot => simp [execBankSlot_frame (h := h) ..]
  | refreshVisit => simp [execRefreshVisit_frame (h := h) ..]
  | neighbourRefresh => simp [execNeighbourRefresh_frame (h := h) ..]
  | stackTempRead => simp [execStackTempRead_frame (h := h) ..]
  | graphLoad => simp [execGraphLoad_frame (h := h) ..]
  | graphRun => simp [execGraphRun_frame (h := h) ..]
  | graphUnload => simp [execGraphUnload_frame (h := h) ..]
  | unloadComplete => simp [execUnloadComplete_frame (h := h) ..]
  | runHoldRelease => simp [execRunHoldRelease_frame (h := h) ..]
  | runDeadline => simp [execRunDeadline_frame (h := h) ..]
  | convert => simp [execConvert_frame (h := h) ..]
  | reshape => simp [execReshape_frame (h := h) ..]
  | transpose => simp [execTranspose_frame (h := h) ..]
  | elementwise => simp [execElementwise_frame (h := h) ..]
  | reduce => simp [execReduce_frame (h := h) ..]
  | softmax => simp [execSoftmax_frame (h := h) ..]
  | norm => simp [execNorm_frame (h := h) ..]
  | quantise => simp [execQuantise_frame (h := h) ..]
  | dequantise => simp [execDequantise_frame (h := h) ..]
  | matmul => simp [execMatmul_frame (h := h) ..]
  | chunkFillDone => simp [execChunkFillDone_frame (h := h) ..]
  | distance => simp [execDistance_frame (h := h) ..]
  | select => simp [execSelect_frame (h := h) ..]
  | merge => simp [execMerge_frame (h := h) ..]
  | filter => simp [execFilter_frame (h := h) ..]
  | gather run remote => simp [execGather_frame run remote s h]
  | scatter => simp [execScatter_frame (h := h) ..]
  | mergeUpdate => simp [execMergeUpdate_frame (h := h) ..]
  | nbMatvec => simp [execNbMatvec_frame (h := h) ..]
  | attendQk => simp [execAttendQk_frame (h := h) ..]
  | attendPv => simp [execAttendPv_frame (h := h) ..]
  | attend => simp [execAttend_frame (h := h) ..]
  | berthAppend => simp [execBerthAppend_frame (h := h) ..]
  | loop => simp [execLoop_frame (h := h) ..]
  | branch => simp [execBranch_frame (h := h) ..]
  | tideWait => simp [execTideWait_frame (h := h) ..]
  | tideWaitRelease => simp [execTideWaitRelease_frame (h := h) ..]
  | create cmd answer => simp [execCreate_frame cmd answer s h]
  | park => simp [execPark_frame (h := h) ..]
  | parkDone => simp [execParkDone_frame (h := h) ..]
  | wake => simp [execWake_frame (h := h) ..]
  | wakeReady => simp [execWakeReady_frame (h := h) ..]
  | attendCommand => simp [execAttendCommand_frame (h := h) ..]
  | release => simp [execRelease_frame (h := h) ..]
  | handoff => simp [execHandoff_frame (h := h) ..]
  | checkpoint => simp [execCheckpoint_frame (h := h) ..]
  | berthPages => simp [execBerthPages_frame (h := h) ..]
  | berthControl => simp [execBerthControl_frame (h := h) ..]
  | berthCommandRelease => simp [execBerthCommandRelease_frame (h := h) ..]
  | autoPark => simp [execAutoPark_frame (h := h) ..]
  | leaseRenewal => simp [execLeaseRenewal_frame (h := h) ..]
  | leaseExpiry => simp [execLeaseExpiry_frame (h := h) ..]
  | resolveRead => simp [execResolveRead_frame (h := h) ..]
  | takeover => simp [execTakeover_frame (h := h) ..]
  | usageReport => simp [execUsageReport_frame (h := h) ..]
  | tableIdWrite => simp [execTableIdWrite_frame (h := h) ..]
  | tableOpen => simp [execTableOpen_frame (h := h) ..]
  | tableClose => simp [execTableClose_frame (h := h) ..]
  | tableStorageRelease => simp [execTableStorageRelease_frame (h := h) ..]
  | rowGet cmd rows remote => simp [execRowGet_frame cmd rows remote s h]
  | rowPut => simp [execRowPut_frame (h := h) ..]
  | rowUpdate => simp [execRowUpdate_frame (h := h) ..]
  | tablePutRows => simp [execTablePutRows_frame (h := h) ..]
  | tablePutCommit => simp [execTablePutCommit_frame (h := h) ..]
  | tablePutWithdraw => simp [execTablePutWithdraw_frame (h := h) ..]
  | putAnswerDeadline => simp [execPutAnswerDeadline_frame (h := h) ..]
  | tableUpdateSums => simp [execTableUpdateSums_frame (h := h) ..]
  | tableLoadReport => simp [execTableLoadReport_frame (h := h) ..]
  | loadPeriod => simp [execLoadPeriod_frame (h := h) ..]
  | migrationSwitch => simp [execMigrationSwitch_frame (h := h) ..]
  | hotRowRefresh => simp [execHotRowRefresh_frame (h := h) ..]
  | granuleFree => simp [execGranuleFree_frame (h := h) ..]
  | freshClear => simp [execFreshClear_frame (h := h) ..]
  | cacheRead => simp [execCacheRead_frame (h := h) ..]
  | readOwn => simp [execReadOwn_frame (h := h) ..]
  | upgrade => simp [execUpgrade_frame (h := h) ..]
  | writeLine => simp [execWriteLine_frame (h := h) ..]
  | readOnce => simp [execReadOnce_frame (h := h) ..]
  | writeback => simp [execWriteback_frame (h := h) ..]
  | evictionNotice => simp [execEvictionNotice_frame (h := h) ..]
  | cacheAtomic => simp [execCacheAtomic_frame (h := h) ..]
  | invalidationAck => simp [execInvalidationAck_frame (h := h) ..]
  | firmwareWriteback => simp [execFirmwareWriteback_frame (h := h) ..]
  | firmwareInvalidate => simp [execFirmwareInvalidate_frame (h := h) ..]
  | firmwareFence => simp [execFirmwareFence_frame (h := h) ..]
  | hostSnoop => simp [execHostSnoop_frame (h := h) ..]
  | bisnpResponse => simp [execBisnpResponse_frame (h := h) ..]
  | signalDetect => simp [execSignalDetect_frame (h := h) ..]
  | equaliseDone => simp [execEqualiseDone_frame (h := h) ..]
  | alignDone => simp [execAlignDone_frame (h := h) ..]
  | hello => simp [execHello_frame (h := h) ..]
  | trainTimeout => simp [execTrainTimeout_frame (h := h) ..]
  | downRetry => simp [execDownRetry_frame (h := h) ..]
  | miswiredHelloRepeat => simp [execMiswiredHelloRepeat_frame (h := h) ..]
  | lanemap => simp [execLanemap_frame (h := h) ..]
  | laneSwitch => simp [execLaneSwitch_frame (h := h) ..]
  | credit => simp [execCredit_frame (h := h) ..]
  | ack => simp [execAck_frame (h := h) ..]
  | nak => simp [execNak_frame (h := h) ..]
  | frameReceived => simp [execFrameReceived_frame (h := h) ..]
  | egressSelect => simp [execEgressSelect_frame (h := h) ..]
  | strandRead => simp [execStrandRead_frame (h := h) ..]
  | strandWrite => simp [execStrandWrite_frame (h := h) ..]
  | strandAtomic => simp [execStrandAtomic_frame (h := h) ..]
  | register => simp [execRegister_frame (h := h) ..]
  | unregister => simp [execUnregister_frame (h := h) ..]
  | publish => simp [execPublish_frame (h := h) ..]
  | invalidate => simp [execInvalidate_frame (h := h) ..]
  | messageSegment => simp [execMessageSegment_frame (h := h) ..]
  | messageReassemblyTimeout => simp [execMessageReassemblyTimeout_frame (h := h) ..]
  | readResponse => simp [execReadResponse_frame (h := h) ..]
  | writeResponse => simp [execWriteResponse_frame (h := h) ..]
  | atomicResponse => simp [execAtomicResponse_frame (h := h) ..]
  | registerResponse => simp [execRegisterResponse_frame (h := h) ..]
  | publishResponse => simp [execPublishResponse_frame (h := h) ..]
  | invalidateResponse => simp [execInvalidateResponse_frame (h := h) ..]
  | messageResponse => simp [execMessageResponse_frame (h := h) ..]
  | readResend => simp [execReadResend_frame (h := h) ..]
  | strandGiveUp => simp [execStrandGiveUp_frame (h := h) ..]
  | atomicResend => simp [execAtomicResend_frame (h := h) ..]
  | atomicGiveUp => simp [execAtomicGiveUp_frame (h := h) ..]
  | invalidateResend => simp [execInvalidateResend_frame (h := h) ..]
  | publishGiveUp => simp [execPublishGiveUp_frame (h := h) ..]
  | replayEntryExpiry => simp [execReplayEntryExpiry_frame (h := h) ..]
  | histogramPeriod => simp [execHistogramPeriod_frame (h := h) ..]
  | flashEnumerationDone => simp [execFlashEnumerationDone_frame (h := h) ..]
  | lunReadDispatch => simp [execLunReadDispatch_frame (h := h) ..]
  | flashReadDone => simp [execFlashReadDone_frame (h := h) ..]
  | writeFlushTimer => simp [execWriteFlushTimer_frame (h := h) ..]
  | flashProgramDone => simp [execFlashProgramDone_frame (h := h) ..]
  | blockErase => simp [execBlockErase_frame (h := h) ..]
  | eraseDone => simp [execEraseDone_frame (h := h) ..]
  | journalFlush => simp [execJournalFlush_frame (h := h) ..]
  | journalFlushDone => simp [execJournalFlushDone_frame (h := h) ..]
  | rebuildDone => cases hreset
  | housekeepingWindowOpen => simp [execHousekeepingWindowOpen_frame (h := h) ..]
  | housekeepingWindowClose => simp [execHousekeepingWindowClose_frame (h := h) ..]
  | urgentGc => simp [execUrgentGc_frame (h := h) ..]
  | urgentRelocation => simp [execUrgentRelocation_frame (h := h) ..]
  | controllerEnable => simp [execControllerEnable_frame (h := h) ..]
  | readySet => simp [execReadySet_frame (h := h) ..]
  | controllerDisable => simp [execControllerDisable_frame (h := h) ..]
  | hostDisableEffect => simp [execHostDisableEffect_frame (h := h) ..]
  | hostDrainLimit => simp [execHostDrainLimit_frame (h := h) ..]
  | queueEnable => simp [execQueueEnable_frame (h := h) ..]
  | queueDisable => simp [execQueueDisable_frame (h := h) ..]
  | queueDisableDone => simp [execQueueDisableDone_frame (h := h) ..]
  | sqTailDoorbell => simp [execSqTailDoorbell_frame (h := h) ..]
  | cqHeadDoorbell => simp [execCqHeadDoorbell_frame (h := h) ..]
  | linkLostClear => simp [execLinkLostClear_frame (h := h) ..]
  | bar0Write => simp [execBar0Write_frame (h := h) ..]
  | sqFetch => simp [execSqFetch_frame (h := h) ..]
  | coalesceTimer => simp [execCoalesceTimer_frame (h := h) ..]
  | msixUnmask => simp [execMsixUnmask_frame (h := h) ..]
  | linkLoss => simp [execLinkLoss_frame (h := h) ..]
  | linkTrained => simp [execLinkTrained_frame (h := h) ..]
  | hdmCommit => simp [execHdmCommit_frame (h := h) ..]
  | getSupportedLogs => simp [execGetSupportedLogs_frame (h := h) ..]
  | getLog => simp [execGetLog_frame (h := h) ..]
  | catalogueTransaction => simp [execCatalogueTransaction_frame (h := h) ..]
  | imageStart => simp [execImageStart_frame (h := h) ..]
  | imageData => simp [execImageData_frame (h := h) ..]
  | imageEnd => simp [execImageEnd_frame (h := h) ..]
  | imageVerifyDone => simp [execImageVerifyDone_frame (h := h) ..]
  | imageWriteDone => simp [execImageWriteDone_frame (h := h) ..]
  | doeDiscovery => simp [execDoeDiscovery_frame (h := h) ..]
  | cdat => simp [execCdat_frame (h := h) ..]
  | spdm => simp [execSpdm_frame (h := h) ..]
  | ideKm => simp [execIdeKm_frame (h := h) ..]
  | capRead => simp [execCapRead_frame (h := h) ..]
  | capReadPending => simp [execCapReadPending_frame (h := h) ..]
  | capWrite => simp [execCapWrite_frame (h := h) ..]
  | lock => simp [execLock_frame (h := h) ..]
  | lockForce => simp [execLockForce_frame (h := h) ..]
  | unlock => simp [execUnlock_frame (h := h) ..]
  | describe => simp [execDescribe_frame (h := h) ..]
  | lockExpiry => simp [execLockExpiry_frame (h := h) ..]
  | snapshotExpiry => simp [execSnapshotExpiry_frame (h := h) ..]
  | provenanceNonceWrite => simp [execProvenanceNonceWrite_frame (h := h) ..]
  | provenanceRecordRead => simp [execProvenanceRecordRead_frame (h := h) ..]
  | eventRecordsRead => simp [execEventRecordsRead_frame (h := h) ..]
  | createKey => simp [execCreateKey_frame (h := h) ..]
  | destroy => simp [execDestroy_frame (h := h) ..]
  | registerGraphKey => simp [execRegisterGraphKey_frame (h := h) ..]
  | removeGraphKey => simp [execRemoveGraphKey_frame (h := h) ..]
  | fence => simp [execFence_frame (h := h) ..]
  | unfence => simp [execUnfence_frame (h := h) ..]
  | expel => simp [execExpel_frame (h := h) ..]
  | reinstate => simp [execReinstate_frame (h := h) ..]
  | setFaultKeys => simp [execSetFaultKeys_frame (h := h) ..]
  | signedCommandEffect => simp [execSignedCommandEffect_frame (h := h) ..]
  | faultKeysWrite => simp [execFaultKeysWrite_frame (h := h) ..]
  | coldResetRequest => simp [execColdResetRequest_frame (h := h) ..]
  | warmResetRequest => simp [execWarmResetRequest_frame (h := h) ..]
  | domainResetRequest => simp [execDomainResetRequest_frame (h := h) ..]
  | blockResetRequest => simp [execBlockResetRequest_frame (h := h) ..]
  | resetAssert => cases hreset
  | powerOn => cases hreset
  | resetNLow => cases hreset
  | resetNRise => simp [execResetNRise_frame (h := h) ..]
  | railUndervoltage => cases hreset
  | clockStop => cases hreset
  | releasePoint => simp [execReleasePoint_frame (h := h) ..]
  | watchdogExpiry => cases hreset
  | domainRelease => simp [execDomainRelease_frame (h := h) ..]
  | selfTestEscalation => cases hreset
  | junctionSensorRead => cases hreset
  | blockQuiesce => simp [execBlockQuiesce_frame (h := h) ..]
  | blockQuiesced => simp [execBlockQuiesced_frame (h := h) ..]
  | functionDisable => simp [execFunctionDisable_frame (h := h) ..]
  | functionEnable => simp [execFunctionEnable_frame (h := h) ..]
  | drainLimit => simp [execDrainLimit_frame (h := h) ..]
  | neapRequest => simp [execNeapRequest_frame (h := h) ..]
  | activeRequest => simp [execActiveRequest_frame (h := h) ..]
  | neapPowerOff => simp [execNeapPowerOff_frame (h := h) ..]
  | neapExitDone => simp [execNeapExitDone_frame (h := h) ..]
  | slackEntry => simp [execSlackEntry_frame (h := h) ..]
  | railCurrentSample => simp [execRailCurrentSample_frame (h := h) ..]
  | marginSample => simp [execMarginSample_frame (h := h) ..]
  | marginPeriod => simp [execMarginPeriod_frame (h := h) ..]
  | cmisPoll => simp [execCmisPoll_frame (h := h) ..]
  | trngHealthFail => simp [execTrngHealthFail_frame (h := h) ..]
  | trngStartupDone => simp [execTrngStartupDone_frame (h := h) ..]
  | errorEvent => simp [execErrorEvent_frame (h := h) ..]
  | selfTestDone => simp [execSelfTestDone_frame (h := h) ..]
  | selfTestRequest => simp [execSelfTestRequest_frame (h := h) ..]
  | stragglerHoldExpiry => simp [execStragglerHoldExpiry_frame (h := h) ..]
  | firmwareImageStarted => simp [execFirmwareImageStarted_frame (h := h) ..]
  | checkpointInstalled => simp [execCheckpointInstalled_frame (h := h) ..]
  | tapInstruction => simp [execTapInstruction_frame (h := h) ..]

/-- Settles O7: a command that may assert a reset is one of those that the statement leaves out. -/
theorem tideCountMovesOnlyByTheTideAndResets : Obligations.TideCountMovesOnlyByTheTideAndResets := by
  intro c s t h htide hassert hlow hclock hwatchdog hrebuild hpower hrail hsensor htest
  refine exec_keeps_tide htide (Bool.eq_false_iff.mpr fun hreset => ?_) h
  unfold mayReset at hreset
  split at hreset
  · exact hassert rfl
  · exact hlow rfl
  · exact hclock rfl
  · exact hwatchdog rfl
  · exact hrebuild rfl
  · exact hpower _ _ rfl
  · exact hrail _ rfl
  · exact hsensor _ rfl
  · exact htest _ _ rfl
  · cases hreset

theorem mayReset_changes_tide {c : Instr} (h : mayReset c = true) : UnitName.tide ∈ mayChange c := by
  unfold mayReset at h
  split at h
  case h_10 => cases h
  all_goals simp [mayChange]

end Sys2Proof.Machine

/-!
The Tide unit at a boundary (02_tide.md R41, R43, R50 to R54): the count, phase and state that each kind of boundary and each edge leaves.
-/
namespace Sys2Proof.Machine

open Sys2Proof

/-- A command answers one next state. -/
theorem next_unique {r : Result} {t u : State} (ht : r = .next t) (hu : r = .next u) : t = u :=
  Host.Outcome.next.inj (ht.symm.trans hu)

/-! The shared operations of a boundary. -/

@[simp] theorem boundaryWork_tide (s : State) : (boundaryWork s).tide = s.tide := by
  simp [boundaryWork_frame ..]

/-- The Tide unit with the boundary of a count, which lies `ticks` sub-ticks back; a period that waited for it begins (R656). -/
def TideUnit.atBoundary (t : TideUnit) (c ticks : Nat) : TideUnit :=
  let p := t.nextPeriod.getD (t.periodNs, t.delayNs)
  { t with count := c, phase := min 1023 ticks, overrun := ticks - 1023, periodNs := p.1, delayNs := p.2, nextPeriod := none }

section
variable (t : TideUnit) (c ticks : Nat)

@[simp] theorem TideUnit.atBoundary_count : (t.atBoundary c ticks).count = c := rfl
@[simp] theorem TideUnit.atBoundary_phase : (t.atBoundary c ticks).phase = min 1023 ticks := rfl
@[simp] theorem TideUnit.atBoundary_overrun : (t.atBoundary c ticks).overrun = ticks - 1023 := rfl
@[simp] theorem TideUnit.atBoundary_state : (t.atBoundary c ticks).state = t.state := rfl
@[simp] theorem TideUnit.atBoundary_missedRun : (t.atBoundary c ticks).missedRun = t.missedRun := rfl
@[simp] theorem TideUnit.atBoundary_goodRun : (t.atBoundary c ticks).goodRun = t.goodRun := rfl

end

@[simp] theorem setCount_tide (s : State) (c ticks : Nat) : (setCount s c ticks).tide = s.tide.atBoundary c ticks := by
  rw [setCount]
  dsimp only
  split <;> rfl

@[simp] theorem boundary_tide (s : State) (c ticks : Nat) (x : Symbol) :
    (boundary s c ticks x).tide = s.tide.atBoundary c ticks := by
  rw [boundary, boundaryWork_tide, boundary.sendBeacons']
  simp [State.sendBeacons_frame .., State.drivePulse_frame ..]

@[simp] theorem lockAt_tide (s : State) (c : Nat) :
    (s.lockAt c).tide = { s.tide with state := .locked, missedRun := 0 } := by
  unfold State.lockAt
  simp only [apply_ite State.tide, State.setNum_tide, ite_self]

@[simp] theorem ownBoundary_tide (s : State) (x : Symbol) :
    (ownBoundary s x).tide = { s.tide with made := s.tide.made + 1 }.atBoundary (s.tide.count + 1) (s.tide.overrun - 1) := by
  rw [ownBoundary, boundary_tide]
  rfl

@[simp] theorem placedBoundary_tide (s : State) (c : Nat) (x : Symbol) :
    (placedBoundary s c x).tide = { s.tide with placedNs := 0, made := 0, missedRun := 0 }.atBoundary c s.tide.delayTicks := by
  rw [placedBoundary, boundary_tide]

/-! The master (R41, R42). -/

/-- The count of a master's next boundary. -/
def masterCount (s : State) : Nat := if s.tide.count = 0 then firstCount s else s.tide.count + 1

@[simp] theorem recordHighWater_tide (s : State) (c : Nat) : (recordHighWater s c).tide = s.tide := by
  simp [recordHighWater_frame ..]

theorem execMasterBoundary_of_idle {s : State} (h : (s.tide.running && s.tide.master) = false) : execMasterBoundary s = .next s := by
  simp [execMasterBoundary, h]

theorem execMasterBoundary_of_master {s : State} (h : (s.tide.running && s.tide.master) = true) :
    ∃ t, execMasterBoundary s = .next t ∧
      t.tide = { s.tide with state := .locked, missedRun := 0 }.atBoundary (masterCount s) 0 := by
  refine ⟨_, by rw [execMasterBoundary, h]; rfl, ?_⟩
  simp only [boundary_tide, lockAt_tide, apply_ite State.tide, recordHighWater_tide, ite_self]
  rfl

/-! Missed edges (R50, R54). -/

/-- A state with one more missed edge in a row, counted. -/
def withMissed (s : State) : State :=
  { s with tide := { s.tide with missedRun := s.tide.missedRun + 1, goodRun := 0 } }.bump Ent.missedTotal

theorem execMissedEdge_of_idle {s : State} (h : ¬(follows s = true ∧ s.tide.count ≠ 0)) : execMissedEdge s = .next s := by
  refine if_pos ?_
  by_cases hf : follows s = true <;> simp_all

theorem execMissedEdge_of_count {s : State} (hf : follows s = true) (hc : s.tide.count ≠ 0) :
    ∃ t, execMissedEdge s = .next t ∧
      t.tide = { (withMissed s).tide with state := missedState (withMissed s), made := s.tide.made + 1 }.atBoundary
        (s.tide.count + 1) (s.tide.overrun - 1) := by
  refine ⟨_, if_neg (by simp [hf, hc]), ?_⟩
  rw [ownBoundary_tide]
  rfl

theorem withMissed_cfg (s : State) {k : Nat} (h : k ≠ Ent.missedTotal) : (withMissed s).cfg k = s.cfg k :=
  State.cfg_setNum_of_ne _ _ h

theorem missedState_of_conflict {s : State} (h : s.tide.conflictFault = true) : missedState s = s.tide.state := if_pos h

theorem missedState_locked {s : State} (h : s.tide.conflictFault = false) (hs : s.tide.state = .locked) :
    missedState s = if s.cfg Ent.holdoverEdges ≤ s.tide.missedRun then .holdover else .locked := by
  simp [missedState, h, hs]

theorem missedState_holdover {s : State} (h : s.tide.conflictFault = false) (hs : s.tide.state = .holdover) :
    missedState s = if s.cfg Ent.adriftEdges ≤ s.tide.missedRun then .adrift else .holdover := by
  simp [missedState, h, hs]

theorem missedState_stays {s : State} (hs : s.tide.state = .adrift ∨ s.tide.state = .acquiring) : missedState s = s.tide.state := by
  obtain hs | hs := hs <;> simp [missedState, hs]

/-- Settles O54: the boundary of a missed edge takes the state of `missedState`, which reads its limits beside the counter that moved. -/
theorem missedEdgesLeadToHoldoverAndAdrift : Obligations.MissedEdgesLeadToHoldoverAndAdrift := by
  intro s hf hc
  obtain ⟨t, hexec, htide⟩ := execMissedEdge_of_count hf hc
  have hstate : t.tide.state = missedState (withMissed s) := by rw [htide, TideUnit.atBoundary_state]
  refine ⟨t, hexec, ?_, fun hconf => ?_, fun hconf hs => ?_, fun hconf hs => ?_, fun hs => ?_, fun hs => ?_⟩
  · rw [htide, TideUnit.atBoundary_count]
  · exact hstate.trans (missedState_of_conflict hconf)
  · rw [hstate, missedState_locked (s := withMissed s) hconf hs, withMissed_cfg s (by decide)]
    rfl
  · rw [hstate, missedState_holdover (s := withMissed s) hconf hs, withMissed_cfg s (by decide)]
    rfl
  · exact (hstate.trans (missedState_stays (.inl hs))).trans hs
  · exact (hstate.trans (missedState_stays (.inr hs))).trans hs

/-! Edges (R43, R50 to R53). -/

/-- An edge is held to the window of the next boundary: in Locked, and in Acquiring with a count. -/
def TideUnit.windowed (t : TideUnit) : Bool := t.state == .locked || (t.state == .acquiring && t.count != 0)

/-- An edge that is ignored: only its time is kept (R50). -/
def ignoreEdge (s : State) (interval : Nat) : State :=
  { s with tide := { s.tide with
    ignoredNs := s.tide.ignoredNs + interval, placedNs := s.tide.elapsed interval, anyEdge := true } }.bump Ent.glitchEdges

section
variable {i : Nat} {f : Option Nat} {s : State}

theorem execTideInEdge_of_idle (hf : follows s = false) : execTideInEdge i f s = .next s := by
  simp [execTideInEdge, hf]

theorem execTideInEdge_of_glitch (hf : follows s = true) (hb : s.tide.windowed = true)
    (hw : s.tide.inWindow (s.tide.elapsed i) = false) : execTideInEdge i f s = .next (ignoreEdge s i) := by
  unfold TideUnit.windowed at hb
  rw [execTideInEdge, hf]
  dsimp only
  rw [hb, hw]
  rfl

theorem execTideInEdge_of_locked (hf : follows s = true) (hs : s.tide.state = .locked)
    (hw : s.tide.inWindow (s.tide.elapsed i) = true) :
    execTideInEdge i f s = .next (
      let u := noteEdge s i (classify f)
      if u.tide.periodFault then { u with tide := { u.tide with placedNs := s.tide.elapsed i } } else lockedEdge u (classify f)) := by
  simp only [execTideInEdge, hf, hs, hw, apply_ite Host.Outcome.next]
  rfl

theorem execTideInEdge_of_acquiring (hf : follows s = true) (hs : s.tide.state = .acquiring) (hc : s.tide.count ≠ 0)
    (hw : s.tide.inWindow (s.tide.elapsed i) = true) :
    execTideInEdge i f s = .next (acquiringEdge (noteEdge s i (classify f)) (classify f)) := by
  simp [execTideInEdge, hf, hs, hw, hc]

theorem execTideInEdge_of_drifting (hf : follows s = true) (hs : s.tide.state = .holdover ∨ s.tide.state = .adrift) :
    execTideInEdge i f s = .next (driftingEdge (noteEdge s i (classify f)) (s.tide.elapsed i) s.tide.implied (classify f)) := by
  obtain hs | hs := hs <;> simp [execTideInEdge, hf, hs]

end

/-- Settles O53: such an edge is held to the window and is ignored. -/
theorem edgesOutsideTheWindowAreIgnored : Obligations.EdgesOutsideTheWindowAreIgnored := by
  intro i f s hf hstate hw
  have hb : s.tide.windowed = true := by
    obtain hs | ⟨hs, hc⟩ := hstate
    · simp [TideUnit.windowed, hs]
    · simp [TideUnit.windowed, hs, hc]
  refine ⟨_, execTideInEdge_of_glitch hf hb hw, rfl, rfl, rfl, rfl, rfl, rfl, ?_⟩
  rw [ignoreEdge, State.num_bump, if_pos rfl]
  rfl

@[simp] theorem noteEdge_count (s : State) (i : Nat) (x : Symbol) : (noteEdge s i x).tide.count = s.tide.count := by
  simp [noteEdge, TideUnit.note, apply_ite TideUnit.count, TideUnit.measure]

theorem noteEdge_state (s : State) (i : Nat) (x : Symbol) : (noteEdge s i x).tide.state = s.tide.state := by
  simp [noteEdge, TideUnit.note, apply_ite TideUnit.state, TideUnit.measure]

theorem noteEdge_delayTicks (s : State) (i : Nat) (x : Symbol) : (noteEdge s i x).tide.delayTicks = s.tide.delayTicks := by
  simp only [noteEdge, TideUnit.note, TideUnit.delayTicks]
  split <;> rfl

/-! The count only grows. -/

theorem le_masterCount (s : State) : s.tide.count ≤ masterCount s := by
  unfold masterCount
  split <;> omega

theorem acquiringEdge_count (s : State) (x : Symbol) : (acquiringEdge s x).tide.count = s.tide.count + 1 := by
  rw [acquiringEdge, placedBoundary_tide]
  rfl

/-- R52, R53: a relock moves the count forward to that of the frame. -/
theorem relock_count (s : State) (n : Nat) (x : Symbol) : (relock s n x).tide.count = max s.tide.count n := by
  unfold relock
  dsimp only
  split
  next h => rw [lockAt_tide]; exact (max_eq_left h).symm
  next h => rw [placedBoundary_tide]; exact (max_eq_right (Nat.le_of_not_le h)).symm

theorem driftingEdge_keep_count_le (s : State) (e : Nat) (x : Symbol) : s.tide.count ≤ (driftingEdge.keep e x s).tide.count := by
  unfold driftingEdge.keep
  dsimp only
  split
  · rw [ownBoundary_tide]; exact Nat.le_succ _
  · exact Nat.le_refl _

/-- Where the count of a frame contradicts the node's own, the conflict fault is set (R52). -/
def noteConflict (s : State) (e n : Nat) : State :=
  if decide (n < s.tide.ownAtEdge e) || decide (s.tide.ownAtEdge e + 65535 < n)
  then { s with tide := { s.tide with conflictFault := true } } else s

@[simp] theorem noteConflict_count (s : State) (e n : Nat) : (noteConflict s e n).tide.count = s.tide.count := by
  unfold noteConflict
  split <;> rfl

theorem driftingEdge_some (s : State) (e n : Nat) (x : Symbol) :
    driftingEdge s e (some n) x =
      if mayRelock (noteConflict s e n).tide (s.tide.ownAtEdge e) n then relock (noteConflict s e n) n x
      else driftingEdge.keep e x (noteConflict s e n) := rfl

theorem driftingEdge_count_le (s : State) (e : Nat) (n : Option Nat) (x : Symbol) :
    s.tide.count ≤ (driftingEdge s e n x).tide.count := by
  cases n with
  | none => exact driftingEdge_keep_count_le s e x
  | some n =>
    rw [driftingEdge_some, ← noteConflict_count s e n]
    split
    · rw [relock_count]; exact Nat.le_max_left ..
    · exact driftingEdge_keep_count_le _ e x

theorem ignoreEdge_count (s : State) (i : Nat) : (ignoreEdge s i).tide.count = s.tide.count := rfl

theorem lockedEdge_count (s : State) (x : Symbol) : (lockedEdge s x).tide.count = s.tide.count + 1 := by
  rw [lockedEdge, placedBoundary_tide]
  rfl

theorem execTideInEdge_count_le {i : Nat} {f : Option Nat} {s t : State} (h : execTideInEdge i f s = .next t) :
    s.tide.count ≤ t.tide.count := by
  by_cases hzero : s.tide.count = 0
  · rw [hzero]; exact Nat.zero_le _
  by_cases hf : follows s = true
  case neg =>
    rw [← next_unique (execTideInEdge_of_idle (Bool.eq_false_iff.mpr hf)) h]
  have hnote := (noteEdge_count s i (classify f)).ge
  have hignored (hs : s.tide.windowed = true) (hw : ¬s.tide.inWindow (s.tide.elapsed i) = true) : s.tide.count ≤ t.tide.count := by
    rw [← next_unique (execTideInEdge_of_glitch hf hs (Bool.eq_false_iff.mpr hw)) h, ignoreEdge_count]
  have hdrifts (hs : s.tide.state = .holdover ∨ s.tide.state = .adrift) : s.tide.count ≤ t.tide.count := by
    rw [← next_unique (execTideInEdge_of_drifting hf hs) h]
    exact hnote.trans (driftingEdge_count_le ..)
  cases hs : s.tide.state with
  | locked =>
    by_cases hw : s.tide.inWindow (s.tide.elapsed i) = true
    · rw [← next_unique (execTideInEdge_of_locked hf hs hw) h]
      dsimp only
      split
      · exact hnote
      · rw [lockedEdge_count]; exact hnote.trans (Nat.le_succ _)
    · exact hignored (by simp [TideUnit.windowed, hs]) hw
  | acquiring =>
    by_cases hw : s.tide.inWindow (s.tide.elapsed i) = true
    · rw [← next_unique (execTideInEdge_of_acquiring hf hs hzero hw) h, acquiringEdge_count]
      exact hnote.trans (Nat.le_succ _)
    · exact hignored (by simp [TideUnit.windowed, hs, hzero]) hw
  | holdover => exact hdrifts (.inl hs)
  | adrift => exact hdrifts (.inr hs)

theorem execMasterBoundary_count_le {s t : State} (h : execMasterBoundary s = .next t) : s.tide.count ≤ t.tide.count := by
  by_cases hm : (s.tide.running && s.tide.master) = true
  · obtain ⟨u, hu, htide⟩ := execMasterBoundary_of_master hm
    rw [← next_unique hu h, htide, TideUnit.atBoundary_count]
    exact le_masterCount s
  · rw [← next_unique (execMasterBoundary_of_idle (Bool.eq_false_iff.mpr hm)) h]

theorem execMissedEdge_count_le {s t : State} (h : execMissedEdge s = .next t) : s.tide.count ≤ t.tide.count := by
  by_cases hm : follows s = true ∧ s.tide.count ≠ 0
  · obtain ⟨u, hu, htide⟩ := execMissedEdge_of_count hm.1 hm.2
    rw [← next_unique hu h, htide, TideUnit.atBoundary_count]
    exact Nat.le_succ _
  · rw [← next_unique (execMissedEdge_of_idle hm) h]

/-! The other commands of the family leave the count (R37, R39, R47, R49, R51). -/

theorem execCountFrame_count {s t : State} (h : execCountFrame s = .next t) : t.tide.count = s.tide.count := by
  unfold execCountFrame at h
  split at h
  · split at h <;> cases h <;> rfl
  · cases h; rfl

@[simp] theorem compareBeacon_tide (s : State) (p sender c : Nat) : (compareBeacon s p sender c).tide = s.tide := by
  simp [compareBeacon_frame ..]

theorem noteBeacon_count (s : State) (sender c : Nat) : (noteBeacon s sender c).tide.count = s.tide.count := rfl

theorem execTideBeacon_count {p : Nat} {b : Bytes} {s t : State} (h : execTideBeacon p b s = .next t) :
    t.tide.count = s.tide.count := by
  unfold execTideBeacon at h
  split at h
  case isFalse => cases h; rfl
  dsimp only at h
  split at h
  case isTrue => cases h; rfl
  split at h
  · cases h; rw [compareBeacon_tide]
  · cases h
    split
    · rw [noteBeacon_count]
    · rfl
  · cases h; rfl

/-- The Tide unit one sub-tick later: the phase holds at 1,023 and what passes until the next boundary is counted beside it (R37). -/
def TideUnit.tick (t : TideUnit) : TideUnit :=
  if t.phase < 1023 ∧ t.overrun = 0 then { t with phase := t.phase + 1 } else { t with overrun := t.overrun + 1 }

theorem TideUnit.tick_count (t : TideUnit) : t.tick.count = t.count := by
  unfold tick
  split <;> rfl

theorem TideUnit.tick_phase (t : TideUnit) :
    t.tick.phase = if t.phase < 1023 ∧ t.overrun = 0 then t.phase + 1 else t.phase := by
  unfold tick
  split <;> rfl

theorem TideUnit.tick_sum (t : TideUnit) : t.tick.phase + t.tick.overrun = t.phase + t.overrun + 1 := by
  unfold tick
  split <;> (dsimp only; omega)

theorem execSubTick_of_idle {s : State} (h : s.tide.running = false) : execSubTick s = .next s := by
  simp [execSubTick, h]

theorem execSubTick_of_running {s : State} (h : s.tide.running = true) :
    ∃ t, execSubTick s = .next t ∧ t.tide = s.tide.tick := by
  refine ⟨_, by rw [execSubTick, h]; rfl, ?_⟩
  simp only [TideUnit.tick, ite_tide, tickMeters_frame .., foldl_tide, tickPort_frame .., implies_true, ite_self]

theorem execSubTick_count {s t : State} (h : execSubTick s = .next t) : t.tide.count = s.tide.count := by
  cases hr : s.tide.running with
  | false => rw [← next_unique (execSubTick_of_idle hr) h]
  | true =>
    obtain ⟨u, hu, htide⟩ := execSubTick_of_running hr
    rw [← next_unique hu h, htide, TideUnit.tick_count]

theorem execTideUnitStart_of_running {s : State} (h : s.tide.running = true) : execTideUnitStart s = .next s := by
  simp [execTideUnitStart, h]

@[simp] theorem makeApplies_tide (s : State) : (makeApplies s).tide = s.tide := by
  simp [makeApplies_frame ..]

theorem execTwApply_count {s t : State} (h : execTwApply s = .next t) : t.tide.count = s.tide.count := by
  cases h
  rw [makeApplies_tide]

/-- A command of the Tide family never takes the count of a running unit back. -/
theorem exec_tide_count_le {c : Instr} {s t : State} (hrun : s.tide.running = true) (hc : familyOf c = .tide)
    (h : exec c s = .next t) : s.tide.count ≤ t.tide.count := by
  cases c with
  | masterBoundary => exact execMasterBoundary_count_le h
  | tideInEdge i f => exact execTideInEdge_count_le (i := i) (f := f) h
  | missedEdge => exact execMissedEdge_count_le h
  | countFrame => exact (execCountFrame_count h).ge
  | tideBeacon p b => exact (execTideBeacon_count (p := p) (b := b) h).ge
  | subTick => exact (execSubTick_count h).ge
  | tideUnitStart =>
    rw [← next_unique (execTideUnitStart_of_running (s := s) hrun) h]
  | twApply => exact (execTwApply_count h).ge
  | _ => cases hc

/-- Settles O52: a Tide command moves the count forward or leaves it; a command that cannot change the Tide unit asserts no reset. -/
theorem tideCountNeverDecreases : Obligations.TideCountNeverDecreases := by
  intro c s t hrun hc h
  by_cases htide : familyOf c = .tide
  · exact exec_tide_count_le hrun htide h
  · have hkept : UnitName.tide ∉ mayChange c := hc.resolve_left htide
    have hreset : mayReset c = false := Bool.eq_false_iff.mpr fun hr => hkept (mayReset_changes_tide hr)
    rw [exec_keeps_tide htide hreset h]

end Sys2Proof.Machine

/-!
The Tide commands (02_tide.md): each of them where its rule applies; and the state after reset.
-/
namespace Sys2Proof.Machine

open Sys2Proof

/-- R47: a valid frame gives its count to the next edge. -/
theorem execCountFrame_of_frame {n : Nat} {s : State} (hf : follows s = true) (h : frameCount s.tide.symbols = some n) :
    execCountFrame s = .next { s with tide := { s.tide with implied := some n } } := by
  simp [execCountFrame, hf, h]

/-- R51: in Acquiring without a count, a Locked neighbour's beacon is noted once an edge has been seen. -/
theorem execTideBeacon_of_acquiring {p : Nat} {b : Bytes} {s : State} (hp : portIn s p .up = true) (hb : blockOk 1 b = true)
    (hl : field b 1 1 % 4 = 1) (hs : s.tide.state = .acquiring) (hf : follows s = true) (hc : s.tide.count = 0)
    (he : s.tide.anyEdge = true) :
    execTideBeacon p b s = .next (noteBeacon s (field b 8 3 % 2 ^ 20) (field b 2 6)) := by
  simp [execTideBeacon, hp, hb, hl, hs, hf, hc, he]

theorem mem_noteBeacon_beacons (s : State) (sender c : Nat) :
    ⟨sender, if s.tide.phase < 512 ∧ s.tide.overrun = 0 then c + 1 else c⟩ ∈ (noteBeacon s sender c).tide.beacons :=
  List.mem_append_right _ (List.mem_singleton_self _)

/-- R39: the unit starts with the role, period and delay in force. -/
theorem execTideUnitStart_of_ready {s : State} (hr : s.tide.running = false) (hu : s.up 6 = true) (hrom : s.rst.romStarting = true)
    (hrec : s.rst.recovery = false) (hid : s.rst.identityFault = false) :
    ∃ t, execTideUnitStart s = .next t ∧ t.tide.running = true ∧ t.tide.master = decide (s.cfg Ent.tideRole = 1) ∧
      t.tide.periodNs = s.cfg Ent.tidePeriodNs ∧ t.tide.delayNs = s.cfg Ent.tideInDelayNs := by
  have hready : (s.tide.running || !(s.up 6 && (s.rst.romStarting || s.rst.pause != .firmware) && !s.rst.recovery &&
      !s.rst.identityFault)) = false := by simp [hr, hu, hrom, hrec, hid]
  rw [execTideUnitStart]
  dsimp only
  rw [hready, if_neg Bool.false_ne_true]
  by_cases hrole : s.cfg Ent.tideRole = 1
  · rw [if_pos hrole]
    exact ⟨_, rfl, rfl, (decide_eq_true hrole).symm, rfl, rfl⟩
  · rw [if_neg hrole]
    exact ⟨_, rfl, rfl, (decide_eq_false hrole).symm, rfl, rfl⟩

/-- R43: in Locked an edge in the window and at the period places the boundary. -/
theorem execTideInEdge_places {i : Nat} {f : Option Nat} {s : State} (hf : follows s = true) (hs : s.tide.state = .locked)
    (hw : s.tide.inWindow (s.tide.elapsed i) = true) (hp : (noteEdge s i (classify f)).tide.periodFault = false) :
    execTideInEdge i f s = .next (lockedEdge (noteEdge s i (classify f)) (classify f)) := by
  rw [execTideInEdge_of_locked hf hs hw]
  dsimp only
  rw [hp, if_neg Bool.false_ne_true]

/-- Settles O15: each command by its equation, and what its boundary, edge or sub-tick leaves of the Tide unit. -/
theorem tideCommandsComplete : Obligations.TideCommandsComplete := by
  refine ⟨?masterBoundary, ?missedEdge, ?countFrame, ?tideInEdge, ?tideBeacon, ?subTick, ?tideUnitStart, ?twApply⟩
  case masterBoundary =>
    intro s hrun hmaster
    obtain ⟨t, hexec, htide⟩ := execMasterBoundary_of_master (s := s) (by rw [hrun, hmaster, Bool.and_self])
    exact ⟨t, hexec, by simp [htide, masterCount], by simp [htide], by simp [htide], by simp [htide]⟩
  case missedEdge =>
    intro s hf hc
    obtain ⟨t, hexec, htide⟩ := execMissedEdge_of_count hf hc
    refine ⟨t, hexec, ?_, ?_, ?_⟩
    · rw [htide, TideUnit.atBoundary_count]
    · rw [htide, TideUnit.atBoundary_missedRun]; rfl
    · rw [htide, TideUnit.atBoundary_goodRun]; rfl
  case countFrame =>
    intro n s hf hframe
    exact execCountFrame_of_frame hf hframe
  case tideInEdge =>
    intro i f s hf hs hw hp
    have htide := placedBoundary_tide (noteEdge s i (classify f)) ((noteEdge s i (classify f)).now + 1) (classify f)
    rw [noteEdge_delayTicks] at htide
    refine ⟨_, execTideInEdge_places hf hs hw hp, ?_, ?_, ?_, ?_⟩
    · rw [lockedEdge_count, noteEdge_count]
    · rw [lockedEdge, htide, TideUnit.atBoundary_phase]
    · rw [lockedEdge, htide, TideUnit.atBoundary_missedRun]
    · rw [lockedEdge, htide, TideUnit.atBoundary_state]; exact (noteEdge_state s i (classify f)).trans hs
  case tideBeacon =>
    intro p b s hp hb hl hs hf hc he
    exact ⟨_, execTideBeacon_of_acquiring hp hb hl hs hf hc he, ⟨_, mem_noteBeacon_beacons .., rfl⟩, noteBeacon_count ..⟩
  case subTick =>
    intro s hrun
    obtain ⟨t, hexec, htide⟩ := execSubTick_of_running hrun
    refine ⟨t, hexec, by rw [htide, TideUnit.tick_phase], by rw [htide, TideUnit.tick_count], ?_⟩
    have hsum := s.tide.tick_sum
    rw [State.subticks, State.subticks, htide, TideUnit.tick_count]
    omega
  case tideUnitStart =>
    intro s hrun hup hrom hrec hid
    exact execTideUnitStart_of_ready hrun hup hrom hrec hid
  case twApply =>
    intro s
    rfl

/-! The state after reset. -/

/-- An entry that was never written reads its default, as last written and in force. -/
theorem fresh_reads_default (k : Nat) : CatUnit.fresh.get k = dfltOf k ∧ CatUnit.fresh.inForce k = dfltOf k := ⟨rfl, rfl⟩

theorem reset_port (p : Nat) : State.reset.port p = Port.cold :=
  (List.getD_eq_getElem?_getD ..).trans (List.getElem?_getD_replicate_default_eq ..)

theorem reset_pair (q : Nat) : State.reset.pair q = Pair.cold :=
  (List.getD_eq_getElem?_getD ..).trans (List.getElem?_getD_replicate_default_eq ..)

/-- Settles O2: the records of the units in a cold reset hold these values as written. -/
theorem resetHoldsTheStatedValues : Obligations.ResetHoldsTheStatedValues :=
  ⟨rfl, rfl, rfl, rfl, rfl, rfl, fun _ => rfl, rfl, fresh_reads_default, rfl, rfl, rfl, rfl, rfl,
    fun p _ => congrArg Port.state (reset_port p),
    fun q _ => congrArg Pair.enabled (reset_pair q)⟩

end Sys2Proof.Machine

/-!
Row commands and table messages (11_sessions_pools_tables.md R382 to R392).
-/
namespace Sys2Proof.Machine

open Sys2Proof

/-! Row commands whose row list is at hand. -/

section
variable {n k : Nat} {x y : HostRead} {h : HostCmd} {rows : List Nat} {s : State}

/-- A row command of operation `o` waits, the management domain runs, and its row list is not held. -/
structure RowCommandRuns (s : State) (n o : Nat) (h : HostCmd) : Prop where
  cmd : rowCmd s n o = some h
  mgmt : s.mgmt = true
  free : inputHeld s (field h.desc 16 8) (8 * field h.desc 8 4) = false

/-- R386: a refusal met with the row list ends the command. -/
theorem execRowGet_of_refused {r : Nat × Nat} (hrun : RowCommandRuns s n 0 h) (hlist : rowList s h.desc x = .error r) :
    execRowGet n x () s = .next (s.finish n r.1 [] r.2) := by
  simp [execRowGet, hrun.cmd, hrun.mgmt, hrun.free, hlist]

theorem execRowPut_of_refused {r : Nat × Nat} (hrun : RowCommandRuns s n 1 h) (hlist : rowList s h.desc x = .error r) :
    execRowPut n x y s = .next (s.finish n r.1 [] r.2) := by
  simp [execRowPut, hrun.cmd, hrun.mgmt, hrun.free, hlist]

theorem execRowUpdate_of_refused {r : Nat × Nat} (hrun : RowCommandRuns s n 2 h) (hlist : rowList s h.desc x = .error r) :
    execRowUpdate n x y s = .next (s.finish n r.1 [] r.2) := by
  simp [execRowUpdate, hrun.cmd, hrun.mgmt, hrun.free, hlist]

/-- R382, R385: a stamp that is young enough looks the rows up; the command waits, ends with the rows, or fails. -/
theorem execRowGet_of_rows (hrun : RowCommandRuns s n 0 h) (hlist : rowList s h.desc x = .ok (k, rows))
    (hage : s.now ≤ (acceptance s h).1 + s.num Ent.tableAgeLimit) {q : Bool × Nat × Bytes × State}
    (hq : lookupRows (touchInput s (field h.desc 16 8) (8 * field h.desc 8 4)) (.cmd n) k (acceptance s h).1 rows = q) :
    execRowGet n x () s = .next (if !q.1 then holdCmd q.2.2.2 n else if q.2.1 ≠ St.ok then q.2.2.2.refuse n q.2.1
      else (q.2.2.2.cmdWrite n (field h.desc 24 8) q.2.2.1).finish n St.ok [] 0) := by
  simp only [execRowGet, hrun.cmd, hrun.mgmt, hrun.free, hlist, hq, Nat.not_lt.mpr hage, apply_ite Host.Outcome.next]
  rfl

end

/-- R50: only updates wait for a count; the reports of a storage node do not. -/
theorem takes_sums {s : State} {m : UpdateMsg} (h : m.kind = .updates → acquiring s = false) :
    (m.kind == .updates && acquiring s) = false := by
  by_cases hk : m.kind = .updates <;> simp [hk, h]

/-- Settles O41: with its operands at hand each command runs down the one branch of its rule that the state admits; a PUT replaces its
rows at once in row mode and stages them in snapshot mode. -/
theorem tableCommandsComplete : Obligations.TableCommandsComplete := by
  refine ⟨?getFound, ?getWaits, ?put, ?update, ?refused, ?deadline, ?putStaged, ?putCommitted, ?putWithdrawn, ?putReplaced,
    ?putReplacedAnswered, ?sumsTaken, ?sumsAnswered, ?sumsRetry, ?loadTaken⟩
  case getFound =>
    intro n k x h rows b u w s hcmd hmgmt hfree hlist hage hw hlook
    rw [hw] at hlook
    exact execRowGet_of_rows ⟨hcmd, hmgmt, hfree⟩ hlist hage hlook
  case getWaits =>
    intro n k x h rows b u w s hcmd hmgmt hfree hlist hage hw hlook
    rw [hw] at hlook
    exact execRowGet_of_rows ⟨hcmd, hmgmt, hfree⟩ hlist hage hlook
  case put =>
    rintro n k st apply x y h rows nodes b all mine rc u v w s hcmd hmgmt hfree hlist rfl hread hheld rfl rfl rfl rfl rfl rfl hlocal
    simp only [exec_rowPut, execRowPut, hcmd, hmgmt, hfree, hlist, hread, hheld]
    obtain ⟨hsnap, hrep⟩ | ⟨hsnap, rfl, hstage⟩ := hlocal
    · simp [hsnap, hrep]
    · simp only [hsnap, Bool.true_eq_false, ↓reduceIte] at hstage
      simp [hsnap, hstage]
  case update =>
    rintro n k st x y h rows nodes b given all u v w z s hcmd hmgmt hfree hlist rfl hread hheld rfl rfl rfl hnum hacc
    simp only [exec_rowUpdate, execRowUpdate, hcmd, hmgmt, hfree, hlist, hread, hheld, hnum, hacc]
    rfl
  case refused =>
    intro n o x y h r c s hc hcmd hmgmt hfree hlist
    simp only [List.mem_cons, List.not_mem_nil, or_false, Prod.mk.injEq] at hc
    obtain ⟨rfl, rfl⟩ | ⟨rfl, rfl⟩ | ⟨rfl, rfl⟩ := hc
    · exact execRowGet_of_refused ⟨hcmd, hmgmt, hfree⟩ hlist
    · exact execRowPut_of_refused ⟨hcmd, hmgmt, hfree⟩ hlist
    · exact execRowUpdate_of_refused ⟨hcmd, hmgmt, hfree⟩ hlist
  case deadline =>
    intro n k s hfind hmgmt hput hsnap hopen happly
    simp [execPutAnswerDeadline, hfind, hmgmt, hput, hsnap, hopen, happly]
  case putStaged =>
    intro a k p u s hmgmt hon hacq hfind hhere hsnap happly hstage
    simp [execTablePutRows, hmgmt, hon, hacq, hfind, hhere, hsnap, happly, hstage]
  case putCommitted =>
    intro a g s hmgmt hstaged
    simp [execTablePutCommit, hmgmt, hstaged]
  case putWithdrawn =>
    intro a g s hmgmt
    exact if_pos hmgmt
  case putReplaced =>
    intro a k p s hmgmt hon hacq hfind hhere hsnap hd
    simp [execTablePutRows, hmgmt, hon, hacq, hfind, hhere, hsnap, hd]
  case putReplacedAnswered =>
    rintro a k p d x s hmgmt hon hacq hfind hhere hsnap hd rfl
    simp [execTablePutRows, hmgmt, hon, hacq, hfind, hhere, hsnap, hd]
  case sumsTaken =>
    intro a k m s hmgmt hon hacq hfind hd
    simp only [exec_tableUpdateSums, execTableUpdateSums, hmgmt, hon, takes_sums hacq, hfind, hd]
    rfl
  case sumsAnswered =>
    rintro a k m d x s hmgmt hon hacq hfind hd rfl
    simp only [exec_tableUpdateSums, execTableUpdateSums, hmgmt, hon, takes_sums hacq, hfind, hd]
    rfl
  case sumsRetry =>
    intro a m s hmgmt hon hkind hacq
    simp [execTableUpdateSums, hmgmt, hon, hkind, hacq]
  case loadTaken =>
    rintro a b n k u s hmgmt hon hfind rfl
    simp [execTableLoadReport, hmgmt, hon, hfind]

end Sys2Proof.Machine

/-!
The index tree (03_index_tree.md, 04_query_execution.md): Tide fields, a query at its lead node, the events of queries and fragments, and the
upkeep of the index.
-/
namespace Sys2Proof.Machine

open Sys2Proof

/-! Tide fields (R84). -/

theorem expandTide_window (now f : Nat) : now - 8190 ≤ expandTide now f ∧ expandTide now f ≤ now + 1 := by
  unfold expandTide
  omega

theorem expandTide_mod {now f : Nat} (hnow : 8190 ≤ now) (hf : f < 8192) : expandTide now f % 8192 = f := by
  unfold expandTide
  omega

/-- Settles O47: the range holds 8,192 counts in a row, so no two of them have the same low 13 bits. -/
theorem tideFieldExpands : Obligations.TideFieldExpands := by
  intro now f hnow hf
  obtain ⟨hlow, hhigh⟩ := expandTide_window now f
  have hmod := expandTide_mod hnow hf
  refine ⟨⟨hlow, hhigh, hmod⟩, fun t htlow hthigh htmod => ?_⟩
  have hsame : t % 8192 = expandTide now f % 8192 := htmod.trans hmod.symm
  omega

/-! A query at its lead node (R12, R121). -/

/-- The filter that was read of a query does not fit the schema of its Open collection (R146). -/
def filterMalformed (s : State) (d : Bytes) (f : Nat × Bytes) : Bool :=
  s.collState (field d 4 1) == 2 && f.1 == St.ok && !f.2.isEmpty && filterBad f.2 (s.params (field d 4 1)).schema

/-- R12: of what a query meets and of what its filter shows, the status that ends it. -/
def queryEnd (s : State) (d : Bytes) (f : Nat × Bytes) : Option (Nat × Nat) :=
  worst [((queryRefusal s d).isSome, (queryRefusal s d).getD (0, 0)), (filterMalformed s d f, St.badJob, 0)]

theorem queryEnd_of_wellFormed {s : State} {d : Bytes} {f : Nat × Bytes} (h : filterMalformed s d f = false) :
    queryEnd s d f = queryRefusal s d := by
  rw [queryEnd, h]
  cases queryRefusal s d <;> rfl

theorem queryEnd_of_malformed {s : State} {d : Bytes} {f : Nat × Bytes} (hr : queryRefusal s d = none)
    (h : filterMalformed s d f = true) : queryEnd s d f = some (St.badJob, 0) := by
  rw [queryEnd, hr, h]
  rfl

section
variable {n : Nat} {i f : HostRead} {h : HostCmd} {s : State}

/-- QUERY `n` waits with descriptor `h.desc`, and its node can search. -/
structure QueryRuns (s : State) (n : Nat) (h : HostCmd) : Prop where
  cmd : s.waitingCmd n 0x01 = some h
  runs : canSearch s = true

theorem execQuery_of_end {r : Nat × Nat} (hrun : QueryRuns s n h)
    (hend : queryEnd s h.desc (readInput s (field h.desc 24 8) (field h.desc 46 2) f) = some r) :
    execQuery n i f s = .next (s.finish n r.1 [] r.2) := by
  rw [queryEnd, filterMalformed] at hend
  simp [execQuery, hrun.cmd, hrun.runs, hend]

/-- The elements of a query vector as the search holds them: bytes under metric 3, else FP32 (R117). -/
def queryPatterns (s : State) (d v : Bytes) : List Nat :=
  if (s.params (field d 4 1)).metric = 3 then v.map (·.toNat)
  else (patterns (field d 5 1) v).map fun x => Num.encode Num.fp32 .rne (Num.valueOf (field d 5 1) x)

/-- The bytes of a query vector that its descriptor points to. -/
def vectorLength (s : State) (d : Bytes) : Nat := queryInputBytes (s.params (field d 4 1)) (field d 5 1)

/-- The inputs of a query touched. -/
def touchQueryInputs (s : State) (d : Bytes) : State :=
  touchInput (touchInput s (field d 24 8) (field d 46 2)) (field d 16 8) (vectorLength s d)

/-- Command `n` started and its query listed. -/
def listQuery (s : State) (n : Nat) (q : Query) : State :=
  let s := startCmd s n
  { s with qry := { s.qry with queries := s.qry.queries ++ [q], nextTag := (q.tag + 1) % 2 ^ 32 } }

/-- R121: a query that nothing ends, with its vector at hand, is accepted and starts. -/
theorem execQuery_accepts {fb v : Bytes} (hrun : QueryRuns s n h) (hplain : bit (field h.desc 1 1) 0 = false)
    (hfilter : readInput s (field h.desc 24 8) (field h.desc 46 2) f = (St.ok, fb)) (hend : queryEnd s h.desc (St.ok, fb) = none)
    (hvector : readInput s (field h.desc 16 8) (vectorLength s h.desc) i = (St.ok, v))
    (hfilterHeld : inputHeld s (field h.desc 24 8) (field h.desc 46 2) = false)
    (hvectorHeld : inputHeld s (field h.desc 16 8) (vectorLength s h.desc) = false) :
    execQuery n i f s =
      let t := touchQueryInputs s h.desc
      let q := acceptedQuery t n (acceptance t h) h.desc fb
      .next (Graph.startQuery (listQuery t n q) q.tag (queryPatterns s h.desc v)) := by
  simp only [queryEnd, filterMalformed] at hend
  rw [vectorLength] at hvector hvectorHeld
  simp only [execQuery, hrun.cmd, hrun.runs, hplain, hfilter, hend, Bool.false_eq_true, ↓reduceIte, hvector, hfilterHeld, hvectorHeld]
  rfl

end

/-- Settles O27: a query ends with the worst of what it meets or starts with its inputs read; each event of a query or a fragment
reduces to the step that its guard admits. -/
theorem searchCommandsComplete : Obligations.SearchCommandsComplete := by
  refine ⟨?accepted, ?refused, ?request, ?reply, ?cutoff, ?complete, ?deadline, ?verified, ?misplaced⟩
  case accepted =>
    rintro n i f h fb v _ _ s hcmd hrun hrefusal hplain hfilter hwell hvector hfheld hvheld rfl rfl
    have hwhole : filterMalformed s h.desc (St.ok, fb) = false := by
      rw [filterMalformed, Bool.and_assoc, hwell, Bool.and_false]
    exact execQuery_accepts ⟨hcmd, hrun⟩ hplain hfilter ((queryEnd_of_wellFormed hwhole).trans hrefusal) hvector hfheld hvheld
  case refused =>
    rintro n st i f h fb _ r s hcmd hrun hfilter rfl hr
    apply execQuery_of_end ⟨hcmd, hrun⟩
    rw [hfilter]
    obtain ⟨hrefusal, hwell⟩ | ⟨hrefusal, hbad, rfl⟩ := hr
    · exact (queryEnd_of_wellFormed (f := (st, fb)) hwell).trans hrefusal
    · exact queryEnd_of_malformed (f := (st, fb)) hrefusal hbad
  case request =>
    intro a b s h
    exact if_pos h
  case reply =>
    intro a b s h
    exact if_pos h
  case cutoff =>
    intro i g s hg h hdue
    simp [execFragmentCutoff, hg, h, hdue]
  case complete =>
    intro i g s hg h hdone
    simp [execFragmentComplete, hg, h, hdone]
  case deadline =>
    intro i q s hq h hdue
    simp [execQueryDeadline, hq, h, hdue]
  case verified =>
    intro i l s h hown
    simp [execVerifyReadDone, h, hown]
  case misplaced =>
    intro i l g s h hg hother
    simp [execVerifyReadDone, h, hg, hother]

/-! The upkeep of the index. -/

/-- R88: the fragments past the age limit are cut, then the queries past it complete. -/
theorem execIndexAgeLimit_of_mgmt {s u : State} (h : s.mgmt = true)
    (hu : u = ((s.qry.frags.filter fun g => decide (g.stamp + s.num Ent.indexAgeLimit < s.now)).map (·.id)).foldl cutFrag s) :
    execIndexAgeLimit s = .next
      (((u.qry.queries.filter fun q => decide (q.stamp + s.num Ent.indexAgeLimit < s.now)).map (·.tag)).foldl completeQuery u) := by
  subst hu
  simp [execIndexAgeLimit, h]

/-- A copy that serves answers a request for its fill with OK; no record comes with it, so no capacity is short. -/
theorem execShoalFillStream_of_served {s : State} {k sh : Nat} (a : Nat) (h : s.mgmt = true) (hon : functionOn s 1 = true)
    (hserving : ((Index.findCopy s.idx k sh).any fun p => p.state == .serving) = true) :
    execShoalFillStream a (.request k sh) s = .next (fillTake (answerMsg s a 0x0012 St.ok) (.request k sh)) := by
  simp [execShoalFillStream, h, hon, hserving, fillFull]

/-- Settles O29: each event reduces to the step that its guard admits. -/
theorem indexUpkeepCompletes : Obligations.IndexUpkeepCompletes := by
  refine ⟨?slotSettle, ?ageLimit, ?reclaim, ?windowOpens, ?windowCloses, ?fillRequested, ?fillReady, ?shoalReleased, ?collectionReleased⟩
  case slotSettle =>
    intro s h
    exact if_pos h
  case ageLimit =>
    intro u s h hu
    exact ⟨_, execIndexAgeLimit_of_mgmt h hu, rfl⟩
  case reclaim =>
    intro s h
    exact if_pos h
  case windowOpens =>
    rintro _ s h hopens hended rfl
    simp [execUpkeepWindowOpen, h, hopens, hended]
  case windowCloses =>
    intro s h hopen hended
    simp [execUpkeepWindowClose, h, hopen, hended]
  case fillRequested =>
    intro a k sh s h hon hserving
    exact execShoalFillStream_of_served a h hon hserving
  case fillReady =>
    intro k sh x s h hx hready
    simp [execFillComplete, h, hx, hready]
  case shoalReleased =>
    rintro k sh a x s _ h rfl hx hrelease hlow
    simp [execShoalRelease, h, hx, hrelease, hlow]
  case collectionReleased =>
    rintro k x _ s h hx hlow hready rfl
    simp [execCollectionStorageRelease, h, hx, hlow, hready]

end Sys2Proof.Machine

/-!
The Curator (14_flash_curator.md): what its operations leave of the flushes, the journal, the rebuild and housekeeping.
-/
namespace Sys2Proof.Machine

open Sys2Proof

namespace Flash

/-- What the flash keeps of its flushes: the one under way, the current and the durable epoch, and what the latest complete one holds. -/
structure FlushState where
  current : Option Flush
  epoch : Nat
  flushed : List (Nat × Phys)
  lastFlush : Nat
  durable : Nat

/-- The flushes of a flash. -/
def flushState (u : FlashUnit) : FlushState := ⟨u.flush, u.epoch, u.flushed, u.lastFlush, u.durable⟩

theorem flushState_unmap (u : FlashUnit) (l : Nat) : flushState (unmap u l) = flushState u := by
  have hmap : flushState (unmap1 u l) = flushState u := by
    unfold unmap1
    split <;> rfl
  exact hmap

theorem flushState_unmapAll (u : FlashUnit) (ls : List Nat) : flushState (unmapAll u ls) = flushState u := by
  induction ls generalizing u with
  | nil => rfl
  | cons l ls ih => exact (ih (unmap u l)).trans (flushState_unmap u l)

theorem flushState_takeBlock {u v : FlashUnit} {c : Chan} {worn reserve : Bool} {n : Nat} (h : takeBlock u c worn reserve = some (n, v)) :
    flushState v = flushState u := by
  unfold takeBlock at h
  dsimp only at h
  split at h
  · cases h; rfl
  · split at h <;> (cases h; rfl)
  · cases h; rfl
  · cases h

theorem flushState_targetBlock {u v : FlashUnit} {c : Chan} {st : Stream} {n : Nat} (h : targetBlock u c st = some (n, v)) :
    flushState v = flushState u := by
  unfold targetBlock at h
  dsimp only at h
  split at h
  · cases h; rfl
  · split at h
    · cases h
    next htake =>
      have htaken := flushState_takeBlock htake
      split at h <;> (cases h; exact htaken)

theorem flushState_startProgram (u : FlashUnit) (n : Nat) (st : Stream) : flushState (startProgram u n st) = flushState u := by
  unfold startProgram
  extract_lets v
  have hv : flushState v = flushState u := by
    unfold v
    split <;> rfl
  clear_value v
  split
  · exact hv
  · dsimp only
    split
    · exact hv
    · split
      · exact hv
      next htarget =>
        have ht := (flushState_targetBlock htarget).trans hv
        split
        · exact ht
        · exact ht

theorem flushState_startFull (u : FlashUnit) (n : Nat) (st : Stream) : flushState (startFull u n st) = flushState u := by
  unfold startFull
  split
  · split
    · exact flushState_startProgram u n st
    · rfl
  · rfl

theorem flushState_write (u : FlashUnit) (at_ owner : Nat) (ws : List (Nat × Bytes)) : flushState (write u at_ owner ws) = flushState u := by
  unfold write
  extract_lets
  split
  · rfl
  · exact flushState_startFull _ _ _

/-- R488: the flush holds the map of its boundary, and what changes from now on belongs to the next epoch. -/
theorem beginFlush_spec (u : FlashUnit) (now at_ : Nat) : (beginFlush u now at_).epoch = u.epoch + 1 ∧
    ∃ f, (beginFlush u now at_).flush = some f ∧ f.boundary = now ∧ f.map = u.map ∧ f.epoch = u.epoch := by
  unfold beginFlush
  extract_lets whole entries n words places v
  have hwrite := flushState_write v at_ 0 (words.zip (codewordsOf n (Config.encodeFlush entries)))
  exact ⟨congrArg FlushState.epoch hwrite, _, congrArg FlushState.current hwrite, rfl, rfl, rfl⟩

end Flash

/-! The journal (R488, R495, R509). -/

theorem execJournalFlush_of_due {s : State} (hruns : flashRuns s = true) (hready : s.num Ent.flashReady = 1) (hidle : s.flash.flush = none)
    (hdue : s.flash.flushDue ≤ s.now ∨ neapFlushDue s = true) : execJournalFlush s = .next (beginFlush s) := by
  simp [execJournalFlush, hruns, hready, hidle, hdue]

/-- The log entries whose records are gone leave the change log, and their codewords are unmapped (R509). -/
def releaseLog (s : State) : State :=
  let d := s.idx.changeLog.filter (logFree s)
  { s with
    idx := { s.idx with changeLog := s.idx.changeLog.filter fun e => !d.contains e }
    flash := Flash.unmapAll s.flash (d.map LogEntry.codeword) }

theorem releaseLog_flushState (s : State) : Flash.flushState (releaseLog s).flash = Flash.flushState s.flash :=
  Flash.flushState_unmapAll s.flash _

theorem execJournalFlushDone_of_durable {s : State} {f : Flush} (hf : s.flash.flush = some f) (hruns : flashRuns s = true)
    (hdurable : Flash.flushDurable s.flash f = true) :
    execJournalFlushDone s = .next (releaseLog { s with flash := Flash.endFlush s.flash f }) := by
  simp only [execJournalFlushDone, hf, hruns, hdurable]
  rfl

/-! The rebuild. -/

/-- R548: with no value of region 5 beside a boot copy that is valid, only the count of writes is set, to its own value. -/
theorem adoptRegion5_of_empty {s : State} {b : BootCopy} (hb : bootChoice s.cat = some b) (h : s.cat.region5 = []) :
    adoptRegion5 s = s.setNum Ent.catalogueWrites (s.num Ent.catalogueWrites) := by
  simp [adoptRegion5, hb, h]

theorem collState_setNum_of_ne (s : State) {k c : Nat} (v : Nat) (h : k ≠ Ent.collStCollectionState c) :
    (s.setNum k v).collState c = s.collState c := by
  rw [State.collState, State.num_setNum, if_neg h.symm, State.collState]

/-- The slots whose collections are Open or Closing. -/
def livingSlots (s : State) : List Nat := (List.range 256).filter fun c => s.collState c == 2 || s.collState c == 3

theorem livingSlots_eq_nil {s : State} (h : ∀ c, c < 256 → s.collState c ≠ 2 ∧ s.collState c ≠ 3) : livingSlots s = [] := by
  rw [livingSlots, List.filter_eq_nil_iff]
  intro c hc
  simpa using h c (List.mem_range.mp hc)

theorem coldCopies_of_livingSlots_nil {s : State} (h : livingSlots s = []) : coldCopies s = s := by
  rw [livingSlots] at h
  rw [coldCopies, h, List.foldl_nil]

/-- The records found, and the directory and change-log entries that were read (R489). -/
def takeRecords (s : State) : State :=
  let read (l : Nat) : Bool := ((s.flash.map.lookup l).bind (Flash.scanOf s.flash)).isSome
  { s with idx := { s.idx with
    records := (scanRecords s).map FoundRec.item, found := scanRecords s
    directory := s.idx.directory.filter fun e => read e.codeword
    changeLog := s.idx.changeLog.filter fun e => read e.codeword } }

/-- The rebuild over and flash ready. -/
def endRebuild (s : State) : State :=
  { s with flash := { Flash.forgetScans s.flash with rebuild := .none } }.setNum Ent.flashReady 1

/-- What the rebuild leaves before the firmware works on. -/
def rebuilt (s : State) : State :=
  let v := endRebuild (takeRecords s)
  adoptRegion5 (v.berth.homes.foldl (fun s h => (Berth.recordPage s h.num).getD s) v)

/-- R247, R112: the copies that the maps give this node start, what the maps gave away goes, and the cold copies ask for their fills. -/
def startCopies (s : State) : State :=
  let s := coldCopies s
  let s := (livingSlots s).foldl dropStrayShoals s
  (s.idx.copies.filter fun (p : ShoalCopy) => p.cold).foldl askFill s

theorem execRebuildDone_of_read {s : State} (hruns : flashRuns s = true) (hrecords : s.flash.rebuild = .records)
    (hread : Flash.scanning s.flash = false) :
    execRebuildDone s = .next (if (rebuilt s).mgmt then startCopies (rebuilt s) else rebuilt s) := by
  have hexec : execRebuildDone s = if !(rebuilt s).mgmt then .next (rebuilt s) else .next (startCopies (rebuilt s)) := by
    rw [execRebuildDone, hruns, hrecords, hread]
    rfl
  rw [hexec]
  cases (rebuilt s).mgmt <;> rfl

theorem startCopies_of_none {s : State} (hslots : livingSlots s = []) (hcopies : s.idx.copies = []) : startCopies s = s := by
  rw [startCopies, coldCopies_of_livingSlots_nil hslots, hslots, List.foldl_nil, hcopies]
  rfl

/-- A rebuild that finds no berth's home and no value of region 5. -/
theorem rebuilt_of_empty {s : State} {b : BootCopy} (hb : bootChoice s.cat = some b) (h5 : s.cat.region5 = [])
    (hhomes : s.berth.homes = []) :
    rebuilt s = (endRebuild (takeRecords s)).setNum Ent.catalogueWrites (s.num Ent.catalogueWrites) := by
  have hnum : (endRebuild (takeRecords s)).num Ent.catalogueWrites = s.num Ent.catalogueWrites := by
    rw [endRebuild, State.num_setNum, if_neg (by decide)]
    rfl
  have hnone : (endRebuild (takeRecords s)).berth.homes = [] := hhomes
  rw [rebuilt, hnone, List.foldl_nil, adoptRegion5_of_empty (s := endRebuild (takeRecords s)) hb h5, hnum]

theorem collState_rebuilt_of_empty {s : State} {b : BootCopy} (hb : bootChoice s.cat = some b) (h5 : s.cat.region5 = [])
    (hhomes : s.berth.homes = []) {c : Nat} (hc : c < 256) : (rebuilt s).collState c = s.collState c := by
  have hready : Ent.flashReady ≠ Ent.collStCollectionState c := by
    unfold Ent.flashReady Ent.collStCollectionState
    omega
  have hwrites : Ent.catalogueWrites ≠ Ent.collStCollectionState c := by
    unfold Ent.catalogueWrites Ent.collStCollectionState
    omega
  rw [rebuilt_of_empty hb h5 hhomes, collState_setNum_of_ne _ _ hwrites, endRebuild, collState_setNum_of_ne _ _ hready]
  rfl

/-- R489: a node without collections, berths and values of region 5 ends its rebuild with flash ready and its map. -/
theorem execRebuildDone_of_empty {s : State} {b : BootCopy} (hruns : flashRuns s = true) (hrecords : s.flash.rebuild = .records)
    (hread : Flash.scanning s.flash = false) (hb : bootChoice s.cat = some b) (h5 : s.cat.region5 = []) (hhomes : s.berth.homes = [])
    (hclosed : ∀ c, c < 256 → s.collState c ≠ 2 ∧ s.collState c ≠ 3) (hcopies : s.idx.copies = []) :
    execRebuildDone s = .next (rebuilt s) := by
  have hslots : livingSlots (rebuilt s) = [] := by
    apply livingSlots_eq_nil
    intro c hc
    rw [collState_rebuilt_of_empty hb h5 hhomes hc]
    exact hclosed c hc
  have hnone : (rebuilt s).idx.copies = [] := by
    rw [rebuilt_of_empty hb h5 hhomes]
    exact hcopies
  rw [execRebuildDone_of_read hruns hrecords hread, startCopies_of_none hslots hnone, ite_self]

/-- Settles O44: a flush by what a log write and unmapping leave of the flushes, the rebuild stage by stage, and each housekeeping
event by the step that its guard admits. -/
theorem curatorEventsComplete : Obligations.CuratorEventsComplete := by
  refine ⟨?flush, ?flushDone, ?flushHeld, ?rebuild, ?emptyRebuild, ?opens, ?closes, ?urgentGc, ?urgentRelocation⟩
  case flush =>
    intro s hruns hready hidle hdue
    obtain ⟨hepoch, f, hf, hboundary, hmap, hfepoch⟩ := Flash.beginFlush_spec s.flash s.now s.subticks
    exact ⟨_, f, execJournalFlush_of_due hruns hready hidle hdue, hf, hboundary, hmap, hfepoch, hepoch, rfl⟩
  case flushDone =>
    rintro f _ _ s hf hruns hdurable rfl rfl
    exact execJournalFlushDone_of_durable hf hruns hdurable
  case flushHeld =>
    intro f s hf hruns hdurable
    have hstate := releaseLog_flushState { s with flash := Flash.endFlush s.flash f }
    exact ⟨_, execJournalFlushDone_of_durable hf hruns hdurable, congrArg Flash.FlushState.current hstate,
      congrArg Flash.FlushState.flushed hstate, congrArg Flash.FlushState.lastFlush hstate, congrArg Flash.FlushState.durable hstate⟩
  case rebuild =>
    rintro _ _ _ _ _ s hruns hrecords hread rfl rfl rfl rfl hmgmt rfl
    exact (execRebuildDone_of_read hruns hrecords hread).trans (congrArg _ (if_pos hmgmt))
  case emptyRebuild =>
    intro b s hruns hrecords hread hb h5 hhomes hclosed hcopies
    refine ⟨rebuilt s, execRebuildDone_of_empty hruns hrecords hread hb h5 hhomes hclosed hcopies, ?_⟩
    rw [rebuilt_of_empty hb h5 hhomes]
    exact ⟨by simp [endRebuild], rfl, rfl⟩
  case opens =>
    intro s h hopens hended
    simp [execHousekeepingWindowOpen, h, hopens, hended]
  case closes =>
    intro s hopen hended
    exact if_pos ⟨hopen, hended⟩
  case urgentGc =>
    intro k x s hx h hended hfew hfirst
    simp only [exec_urgentGc, execUrgentGc, hx, h, hended, hfew, hfirst]
    rfl
  case urgentRelocation =>
    intro k n b s hb h hstage hreads
    simp [execUrgentRelocation, hb, h, hstage, hreads]

end Sys2Proof.Machine

/-!
The selection (05_selection.md): ranking a list, the node order, and what the select engine takes of its input.
-/
namespace Sys2Proof.Machine

open Sys2Proof

/-! Ranking a list. -/

section
variable {α : Type} {before : α → α → Bool}

theorem insertBy_eq_orderedInsert (x : α) (l : List α) :
    insertBy before x l = l.orderedInsert (fun a b => before a b = true) x := by
  induction l with
  | nil => rfl
  | cons y l ih => rw [insertBy, List.orderedInsert_cons, ih]

theorem sortBy_eq_insertionSort (l : List α) : sortBy before l = l.insertionSort (fun a b => before a b = true) := by
  induction l with
  | nil => rfl
  | cons x l ih =>
    calc sortBy before (x :: l) = insertBy before x (sortBy before l) := rfl
      _ = (x :: l).insertionSort (fun a b => before a b = true) := by
        rw [ih, insertBy_eq_orderedInsert, List.insertionSort_cons]

theorem sortBy_perm (l : List α) : (sortBy before l).Perm l :=
  sortBy_eq_insertionSort l ▸ List.perm_insertionSort _ l

/-- The order need not be total: that `before` is asymmetric and its complement transitive is enough. -/
theorem insertBy_pairwise (hasymm : ∀ a b, before a b = true → before b a = false)
    (htrans : ∀ a b c, before b a = false → before c b = false → before c a = false) (x : α) {l : List α}
    (hl : l.Pairwise fun a b => before b a = false) : (insertBy before x l).Pairwise fun a b => before b a = false := by
  induction l with
  | nil => exact List.pairwise_singleton _ x
  | cons y l ih =>
    obtain ⟨hy, hl'⟩ := List.pairwise_cons.mp hl
    rw [insertBy]
    split
    case isTrue hxy =>
      have hyx := hasymm x y hxy
      exact hl.cons <| List.forall_mem_cons.mpr ⟨hyx, fun z hz => htrans x y z hyx (hy z hz)⟩
    case isFalse hxy =>
      refine (ih hl').cons fun z hz => ?_
      rw [insertBy_eq_orderedInsert, List.mem_orderedInsert] at hz
      obtain rfl | hz := hz
      · exact Bool.eq_false_of_not_eq_true hxy
      · exact hy z hz

theorem sortBy_pairwise (hasymm : ∀ a b, before a b = true → before b a = false)
    (htrans : ∀ a b c, before b a = false → before c b = false → before c a = false) (l : List α) :
    (sortBy before l).Pairwise fun a b => before b a = false := by
  induction l with
  | nil => exact .nil
  | cons x l ih => exact insertBy_pairwise hasymm htrans x ih

end

/-! The node order (R164). -/

/-- Settles O50: the two comparisons of `SelEntry.before`, read as propositions. -/
theorem selectOrder : Obligations.SelectOrder := by
  intro a b
  simp [SelEntry.before]

theorem SelEntry.before_eq_false {a b : SelEntry} :
    a.before b = false ↔ a.key < b.key ∨ (a.key = b.key ∧ b.index ≤ a.index) := by
  rw [← Bool.not_eq_true, selectOrder a b]
  omega

theorem SelEntry.before_asymm (a b : SelEntry) (h : a.before b = true) : b.before a = false := by
  rw [selectOrder a b] at h
  rw [before_eq_false]
  omega

theorem SelEntry.not_before_trans (a b c : SelEntry) (hba : b.before a = false) (hcb : c.before b = false) :
    c.before a = false := by
  rw [before_eq_false] at *
  omega

/-! The selected entries (R167). -/

/-- The valid entries of an input in node order. -/
def rankedValid (l : List SelEntry) : List SelEntry := sortBy SelEntry.before (l.filter SelEntry.valid)

theorem selectTop_fst (softmax : Bool) (k : Nat) (l : List SelEntry) : (selectTop softmax k l).1 = (rankedValid l).take k := by
  simp only [selectTop]
  split <;> rfl

theorem rankedValid_length (l : List SelEntry) : (rankedValid l).length = (l.filter SelEntry.valid).length :=
  (sortBy_perm _).length_eq

theorem mem_rankedValid {l : List SelEntry} {e : SelEntry} : e ∈ rankedValid l ↔ e ∈ l ∧ e.valid = true :=
  (sortBy_perm _).mem_iff.trans List.mem_filter

theorem rankedValid_pairwise (l : List SelEntry) : (rankedValid l).Pairwise fun a b => b.before a = false :=
  sortBy_pairwise SelEntry.before_asymm SelEntry.not_before_trans _

/-- Settles O51: the selection is the front of the ranked valid entries, so an entry left out stands behind each selected one. -/
theorem selectTakesTheBest : Obligations.SelectTakesTheBest := by
  intro softmax k l
  rw [selectTop_fst]
  have hranked := rankedValid_pairwise l
  refine ⟨?count, ?valid, hranked.sublist (List.take_sublist k _), ?best⟩
  case count => rw [List.length_take, rankedValid_length]
  case valid => exact fun e he => mem_rankedValid.mp (List.mem_of_mem_take he)
  case best =>
    rw [← List.take_append_drop k (rankedValid l)] at hranked
    obtain ⟨-, -, hfront⟩ := List.pairwise_append.mp hranked
    intro e he hvalid hout x hx
    have hmem : e ∈ (rankedValid l).take k ++ (rankedValid l).drop k := by
      rw [List.take_append_drop]
      exact mem_rankedValid.mpr ⟨he, hvalid⟩
    exact hfront x hx e ((List.mem_append.mp hmem).resolve_left hout)

end Sys2Proof.Machine

/-!
Operators that compute their outputs (06_arithmetic.md R194, R198, R214 to R216, 10_operator_graphs.md R331 to R338): a pure operator, a
select, and a product on the near-bank units, each ending with its outputs stored and its run at the next operator.
-/
namespace Sys2Proof.Machine

open Sys2Proof

/-! Operators that only compute. -/

/-- R324: an operator that always completes stores what it computes, and its run goes on. -/
theorem pure_outs {s t : State} {i k : Nat} {r q : Run} {f : Graph.Ctx → OpOut} (h : AtOperator s i r k)
    (hs : Stores (inputsOf s r).2.2 (ctxOf s r) (f (ctxOf s r)) q t) :
    Graph.pure s i k f = Graph.advance t q (r.pc + 1) :=
  perform_outs h rfl hs

/-- Each row of `pureOps` names the code and the function with which its command runs. -/
theorem exec_of_mem_pureOps (i : Nat) (s : State) :
    ∀ op ∈ pureOps i, exec op.1 s = .next (Graph.pure s i op.2.1 op.2.2) := by
  simp only [pureOps, List.forall_mem_append, List.forall_mem_cons, List.not_mem_nil, false_implies,
    implies_true, and_true]
  exact ⟨⟨rfl, rfl, rfl, rfl, rfl, rfl, rfl, rfl, rfl⟩, rfl, rfl, rfl⟩

/-! Products on the near-bank units. -/

/-- R304: on idle banks whose units read every tile, NB_MATVEC ends with the scaled products of the rows of the matrix. -/
theorem matvecEnds_outs {c : Graph.Ctx} {s u : State} {m x : TensorDef} {ps : List Nat} {l : List Int}
    (hm : m = tensorDef c.image (opIn c.entry 0)) (hx : x = tensorDef c.image (opIn c.entry 1))
    (hps : ps = Graph.placesOf s c.run (opIn c.entry 0)) (hidle : Nb.idleAll s ps = true)
    (hproducts : Nb.keyProducts s c.run.owner m.last m.planes m.tileRows (Nb.codePlanes (Num.widthOf x.fmt) (c.x 1).pats)
      ((List.range m.tiles).map (Graph.planeTile m ps)) = (St.ok, l, u)) :
    matvecEnds c s = .outs (opMatvec (l.take m.rowCount) (c.tensor m.scale).pats (c.tensor x.scale).pats) u := by
  subst hm hx hps
  simp [matvecEnds, hidle, hproducts]

/-- Settles O35: each operator ends with its outputs, the select and the near-bank product in the state that they leave. -/
theorem pureOperatorsComputeTheirOutputs : Obligations.PureOperatorsComputeTheirOutputs := by
  refine ⟨?pure, ?select, ?matvec⟩
  case pure =>
    intro i s t r q c k f hop hat hs
    rw [exec_of_mem_pureOps i s (c, k, f) hop, pure_outs hat hs]
  case select =>
    intro i k b s t r q hat hb hk hs
    subst hb hk
    rw [exec_select, execSelect, perform_outs hat rfl hs]
  case matvec =>
    intro i s t u r q m x ps l hat hm hx hps hidle hproducts hs
    have hends := matvecEnds_outs hm hx hps hidle hproducts
    rw [exec_nbMatvec, execNbMatvec, perform_outs hat hends hs]

end Sys2Proof.Machine

/-!
Accession (07_accession.md): the commands of changes at their intake node, at the primary and at the replica, and the limits on their waits.
-/
namespace Sys2Proof.Machine

open Sys2Proof

/-! Intake (R220, R221). -/

/-- A change command `n` of kind `op` waits with descriptor `h.desc`, node firmware runs, and nothing refuses its descriptor. -/
structure ChangeAdmitted (s : State) (n op : Nat) (deaccession : Bool) (h : HostCmd) : Prop where
  cmd : s.waitingCmd n op = some h
  runs : s.mgmt = true
  unrefused : intakeRefusal s h.desc deaccession = none

/-- The input of `n` bytes at `a` is at hand: no page of it is held, and its read gives the bytes `b`. -/
structure InputReads (s : State) (a n : Nat) (read : HostRead) (b : Bytes) : Prop where
  bytes : readInput s a n read = (St.ok, b)
  free : inputHeld s a n = false

/-- The inputs of an accession touched: its vector, then its metadata. -/
def touchAccessionInputs (s : State) (d : Bytes) : State :=
  touchInput (touchInput s (field d 16 8) (field d 24 4)) (field d 32 8) (field d 28 2)

/-- R221: an admitted accession whose vector and metadata are at hand is taken in. -/
theorem execAccession_admits {s : State} {n : Nat} {h : HostCmd} {v m : HostRead} {a b : Bytes} (hcmd : ChangeAdmitted s n 0x02 false h)
    (hvector : InputReads s (field h.desc 16 8) (field h.desc 24 4) v a)
    (hmetadata : InputReads s (field h.desc 32 8) (field h.desc 28 2) m b) :
    execAccession n v m s = .next (intake (touchAccessionInputs s h.desc) n h false a b) := by
  simp [execAccession, hcmd.cmd, hcmd.runs, hcmd.unrefused, hvector.bytes, hvector.free, hmetadata.bytes, hmetadata.free,
    touchAccessionInputs]

/-- R221: an admitted deaccession is taken in; it has no inputs. -/
theorem execDeaccession_admits {s : State} {n : Nat} {h : HostCmd} (hcmd : ChangeAdmitted s n 0x03 true h) :
    execDeaccession n s = .next (intake s n h true [] []) := by
  simp [execDeaccession, hcmd.cmd, hcmd.runs, hcmd.unrefused]

/-! The outcome of a change at its intake node, and the replica's acknowledgement that is overdue (R228 to R231). -/

/-- R229, R231: the outcome of a change that its intake node still holds ends it; a misdirected one is sent again, at once by the model's
choice (notes/assumptions/23.md). -/
theorem execChangeOutcome_of_found {s : State} {src : Nat} {d : ChangeDone} {i : Intake} (hruns : s.mgmt = true)
    (hfound : ((answerMsg s src 0x0011 St.ok).chg.intakes.find? fun i => i.tag == d.tag) = some i) :
    execChangeOutcome src d s = .next
      (if d.misdirected then sendChange (answerMsg s src 0x0011 St.ok) i.change else intakeDone (answerMsg s src 0x0011 St.ok) i d) := by
  cases hd : d.misdirected <;> simp [execChangeOutcome, hruns, hfound, hd]

/-- R228: the replica goes Stale of a shoal with a change that it has not acknowledged for ReplicaAckLimit Tides. -/
theorem execReplicaAckTimeout_of_overdue {s : State} {a : Accepted} (hruns : s.mgmt = true) (ha : a ∈ s.chg.accepted)
    (hopen : a.replicaDurable = false) (hdue : a.commit + s.cfg Ent.replicaAckLimit ≤ s.now) :
    execReplicaAckTimeout a.change.coll a.change.shoal a.seq s = .next (markStale s a.change.coll a.change.shoal) := by
  have hoverdue : (s.chg.accepted.any fun x => x.change.coll == a.change.coll && x.change.shoal == a.change.shoal && x.seq == a.seq
      && !x.replicaDurable && decide (x.commit + s.cfg Ent.replicaAckLimit ≤ s.now)) = true :=
    List.any_eq_true.mpr ⟨a, ha, by simp [hopen, hdue]⟩
  simp only [execReplicaAckTimeout, hruns, hoverdue, Bool.and_self, ↓reduceIte]

/-- Settles O28: a change command that is admitted is taken in; each event of a change reduces to the step that its guard admits. -/
theorem changeCommandsComplete : Obligations.ChangeCommandsComplete := by
  refine ⟨?accession, ?deaccession, ?atPrimary, ?heldAccepted, ?atReplica, ?acknowledged, ?ended, ?misdirected, ?overdue, ?givenUp⟩
  case accession =>
    intro n v m h a b s hcmd hruns hunrefused hvector hmetadata hvfree hmfree
    exact execAccession_admits ⟨hcmd, hruns, hunrefused⟩ ⟨hvector, hvfree⟩ ⟨hmetadata, hmfree⟩
  case deaccession =>
    intro n h s hcmd hruns hunrefused
    exact execDeaccession_admits ⟨hcmd, hruns, hunrefused⟩
  case atPrimary =>
    intro a x s hruns
    exact if_pos hruns
  case heldAccepted =>
    rintro _ s hruns rfl
    simp [execChangeHeldAccept, hruns]
  case atReplica =>
    intro a x q b r s hruns
    exact if_pos hruns
  case acknowledged =>
    intro a k s hruns
    exact if_pos hruns
  case ended =>
    intro a d i s hruns hfound hd
    rw [exec_changeOutcome, execChangeOutcome_of_found hruns hfound, hd, if_neg Bool.false_ne_true]
  case misdirected =>
    intro a d i s hruns hfound hd
    rw [exec_changeOutcome, execChangeOutcome_of_found hruns hfound, hd, if_pos rfl]
  case overdue =>
    rintro _ _ _ a s hruns ha rfl rfl rfl hopen hdue
    exact execReplicaAckTimeout_of_overdue hruns ha hopen hdue
  case givenUp =>
    intro g i s hruns hfound hopen hdue
    simp [execIntakeGiveUp, hfound, hruns, hopen, hdue]

end Sys2Proof.Machine

/-!
What every step keeps and how every command ends (95_what_each_step_holds.md): the canonical memory and the queue of commands, a next
state, and the one fault, which a range outside the memory map of R249 brings.
-/
namespace Sys2Proof.Machine

open Sys2Proof

/-! What every step keeps. -/

/-- Settles O3: the cells and the queue of the reset state are empty. -/
theorem soundAtReset : Obligations.SoundAtReset := by
  refine ⟨rfl, fun c hc => ?_⟩
  exact absurd hc List.not_mem_nil

/-- Every command has a frame that names the queue. -/
theorem exec_keeps_pending {c : Instr} {s t : State} (h : exec c s = .next t) : t.pending = s.pending := by
  cases c with
  | masterBoundary => exact (execMasterBoundary_frame (h := h) ..).1
  | tideInEdge => exact (execTideInEdge_frame (h := h) ..).1
  | missedEdge => exact (execMissedEdge_frame (h := h) ..).1
  | countFrame => exact (execCountFrame_frame (h := h) ..).1
  | tideBeacon => exact (execTideBeacon_frame (h := h) ..).1
  | subTick => exact (execSubTick_frame (h := h) ..).1
  | tideUnitStart => exact (execTideUnitStart_frame (h := h) ..).1
  | twApply => exact (execTwApply_frame (h := h) ..).1
  | collectionIdWrite => exact (execCollectionIdWrite_frame (h := h) ..).1
  | collectionOpen => exact (execCollectionOpen_frame (h := h) ..).1
  | collectionClose => exact (execCollectionClose_frame (h := h) ..).1
  | collectionStorageRelease => exact (execCollectionStorageRelease_frame (h := h) ..).1
  | shoalMapWrite => exact (execShoalMapWrite_frame (h := h) ..).1
  | shoalRelease => exact (execShoalRelease_frame (h := h) ..).1
  | slotSettle => exact (execSlotSettle_frame (h := h) ..).1
  | indexAgeLimit => exact (execIndexAgeLimit_frame (h := h) ..).1
  | retiredReclaim => exact (execRetiredReclaim_frame (h := h) ..).1
  | query => exact (execQuery_frame (h := h) ..).1
  | fragmentRequest src data => exact (execFragmentRequest_frame src data s h).1
  | fragmentReply => exact (execFragmentReply_frame (h := h) ..).1
  | fragmentCutoff => exact (execFragmentCutoff_frame (h := h) ..).1
  | fragmentComplete => exact (execFragmentComplete_frame (h := h) ..).1
  | queryDeadline => exact (execQueryDeadline_frame (h := h) ..).1
  | verifyReadDone => exact (execVerifyReadDone_frame (h := h) ..).1
  | accession => exact (execAccession_frame (h := h) ..).1
  | deaccession => exact (execDeaccession_frame (h := h) ..).1
  | changeAtPrimary => exact (execChangeAtPrimary_frame (h := h) ..).1
  | changeHeldAccept => exact (execChangeHeldAccept_frame (h := h) ..).1
  | changeAtReplica => exact (execChangeAtReplica_frame (h := h) ..).1
  | changeAcknowledgement => exact (execChangeAcknowledgement_frame (h := h) ..).1
  | changeOutcome => exact (execChangeOutcome_frame (h := h) ..).1
  | replicaAckTimeout => exact (execReplicaAckTimeout_frame (h := h) ..).1
  | intakeGiveUp => exact (execIntakeGiveUp_frame (h := h) ..).1
  | upkeepWindowOpen => exact (execUpkeepWindowOpen_frame (h := h) ..).1
  | upkeepWindowClose => exact (execUpkeepWindowClose_frame (h := h) ..).1
  | shoalFillStream => exact (execShoalFillStream_frame (h := h) ..).1
  | fillComplete => exact (execFillComplete_frame (h := h) ..).1
  | hostMemRead => exact (execHostMemRead_frame (h := h) ..).1
  | hostMemWrite => exact (execHostMemWrite_frame (h := h) ..).1
  | holdTimeout => exact (execHoldTimeout_frame (h := h) ..).1
  | stackDemotion => exact (execStackDemotion_frame (h := h) ..).1
  | shelfDemotion => exact (execShelfDemotion_frame (h := h) ..).1
  | pageMoveSwitch => exact (execPageMoveSwitch_frame (h := h) ..).1
  | sweepComplete => exact (execSweepComplete_frame (h := h) ..).1
  | nbSequenceIssue => exact (execNbSequenceIssue_frame (h := h) ..).1
  | nbSequenceStart => exact (execNbSequenceStart_frame (h := h) ..).1
  | rowcopy => exact (execRowcopy_frame (h := h) ..).1
  | rowinit => exact (execRowinit_frame (h := h) ..).1
  | rowlogic => exact (execRowlogic_frame (h := h) ..).1
  | opload => exact (execOpload_frame (h := h) ..).1
  | popacc => exact (execPopacc_frame (h := h) ..).1
  | accout => exact (execAccout_frame (h := h) ..).1
  | seqEnd => exact (execSeqEnd_frame (h := h) ..).1
  | bankSlot => exact (execBankSlot_frame (h := h) ..).1
  | refreshVisit => exact (execRefreshVisit_frame (h := h) ..).1
  | neighbourRefresh => exact (execNeighbourRefresh_frame (h := h) ..).1
  | stackTempRead => exact (execStackTempRead_frame (h := h) ..).1
  | graphLoad => exact (execGraphLoad_frame (h := h) ..).1
  | graphRun => exact (execGraphRun_frame (h := h) ..).1
  | graphUnload => exact (execGraphUnload_frame (h := h) ..).1
  | unloadComplete => exact (execUnloadComplete_frame (h := h) ..).1
  | runHoldRelease => exact (execRunHoldRelease_frame (h := h) ..).1
  | runDeadline => exact (execRunDeadline_frame (h := h) ..).1
  | convert => exact (execConvert_frame (h := h) ..).1
  | reshape => exact (execReshape_frame (h := h) ..).1
  | transpose => exact (execTranspose_frame (h := h) ..).1
  | elementwise => exact (execElementwise_frame (h := h) ..).1
  | reduce => exact (execReduce_frame (h := h) ..).1
  | softmax => exact (execSoftmax_frame (h := h) ..).1
  | norm => exact (execNorm_frame (h := h) ..).1
  | quantise => exact (execQuantise_frame (h := h) ..).1
  | dequantise => exact (execDequantise_frame (h := h) ..).1
  | matmul => exact (execMatmul_frame (h := h) ..).1
  | chunkFillDone => exact (execChunkFillDone_frame (h := h) ..).1
  | distance => exact (execDistance_frame (h := h) ..).1
  | select => exact (execSelect_frame (h := h) ..).1
  | merge => exact (execMerge_frame (h := h) ..).1
  | filter => exact (execFilter_frame (h := h) ..).1
  | gather run remote => exact (execGather_frame run remote s h).1
  | scatter => exact (execScatter_frame (h := h) ..).1
  | mergeUpdate => exact (execMergeUpdate_frame (h := h) ..).1
  | nbMatvec => exact (execNbMatvec_frame (h := h) ..).1
  | attendQk => exact (execAttendQk_frame (h := h) ..).1
  | attendPv => exact (execAttendPv_frame (h := h) ..).1
  | attend => exact (execAttend_frame (h := h) ..).1
  | berthAppend => exact (execBerthAppend_frame (h := h) ..).1
  | loop => exact (execLoop_frame (h := h) ..).1
  | branch => exact (execBranch_frame (h := h) ..).1
  | tideWait => exact (execTideWait_frame (h := h) ..).1
  | tideWaitRelease => exact (execTideWaitRelease_frame (h := h) ..).1
  | create cmd answer => exact (execCreate_frame cmd answer s h).1
  | park => exact (execPark_frame (h := h) ..).1
  | parkDone => exact (execParkDone_frame (h := h) ..).1
  | wake => exact (execWake_frame (h := h) ..).1
  | wakeReady => exact (execWakeReady_frame (h := h) ..).1
  | attendCommand => exact (execAttendCommand_frame (h := h) ..).1
  | release => exact (execRelease_frame (h := h) ..).1
  | handoff => exact (execHandoff_frame (h := h) ..).1
  | checkpoint => exact (execCheckpoint_frame (h := h) ..).1
  | berthPages => exact (execBerthPages_frame (h := h) ..).1
  | berthControl => exact (execBerthControl_frame (h := h) ..).1
  | berthCommandRelease => exact (execBerthCommandRelease_frame (h := h) ..).1
  | autoPark => exact (execAutoPark_frame (h := h) ..).1
  | leaseRenewal => exact (execLeaseRenewal_frame (h := h) ..).1
  | leaseExpiry => exact (execLeaseExpiry_frame (h := h) ..).1
  | resolveRead => exact (execResolveRead_frame (h := h) ..).1
  | takeover => exact (execTakeover_frame (h := h) ..).1
  | usageReport => exact (execUsageReport_frame (h := h) ..).1
  | tableIdWrite => exact (execTableIdWrite_frame (h := h) ..).1
  | tableOpen => exact (execTableOpen_frame (h := h) ..).1
  | tableClose => exact (execTableClose_frame (h := h) ..).1
  | tableStorageRelease => exact (execTableStorageRelease_frame (h := h) ..).1
  | rowGet cmd rows remote => exact (execRowGet_frame cmd rows remote s h).1
  | rowPut => exact (execRowPut_frame (h := h) ..).1
  | rowUpdate => exact (execRowUpdate_frame (h := h) ..).1
  | tablePutRows => exact (execTablePutRows_frame (h := h) ..).1
  | tablePutCommit => exact (execTablePutCommit_frame (h := h) ..).1
  | tablePutWithdraw => exact (execTablePutWithdraw_frame (h := h) ..).1
  | putAnswerDeadline => exact (execPutAnswerDeadline_frame (h := h) ..).1
  | tableUpdateSums => exact (execTableUpdateSums_frame (h := h) ..).1
  | tableLoadReport => exact (execTableLoadReport_frame (h := h) ..).1
  | loadPeriod => exact (execLoadPeriod_frame (h := h) ..).1
  | migrationSwitch => exact (execMigrationSwitch_frame (h := h) ..).1
  | hotRowRefresh => exact (execHotRowRefresh_frame (h := h) ..).1
  | granuleFree => exact (execGranuleFree_frame (h := h) ..).1
  | freshClear => exact (execFreshClear_frame (h := h) ..).1
  | cacheRead => exact (execCacheRead_frame (h := h) ..).1
  | readOwn => exact (execReadOwn_frame (h := h) ..).1
  | upgrade => exact (execUpgrade_frame (h := h) ..).1
  | writeLine => exact (execWriteLine_frame (h := h) ..).1
  | readOnce => exact (execReadOnce_frame (h := h) ..).1
  | writeback => exact (execWriteback_frame (h := h) ..).1
  | evictionNotice => exact (execEvictionNotice_frame (h := h) ..).1
  | cacheAtomic => exact (execCacheAtomic_frame (h := h) ..).1
  | invalidationAck => exact (execInvalidationAck_frame (h := h) ..).1
  | firmwareWriteback => exact (execFirmwareWriteback_frame (h := h) ..).1
  | firmwareInvalidate => exact (execFirmwareInvalidate_frame (h := h) ..).1
  | firmwareFence => exact (execFirmwareFence_frame (h := h) ..).1
  | hostSnoop => exact (execHostSnoop_frame (h := h) ..).1
  | bisnpResponse => exact (execBisnpResponse_frame (h := h) ..).1
  | signalDetect => exact (execSignalDetect_frame (h := h) ..).1
  | equaliseDone => exact (execEqualiseDone_frame (h := h) ..).1
  | alignDone => exact (execAlignDone_frame (h := h) ..).1
  | hello => exact (execHello_frame (h := h) ..).1
  | trainTimeout => exact (execTrainTimeout_frame (h := h) ..).1
  | downRetry => exact (execDownRetry_frame (h := h) ..).1
  | miswiredHelloRepeat => exact (execMiswiredHelloRepeat_frame (h := h) ..).1
  | lanemap => exact (execLanemap_frame (h := h) ..).1
  | laneSwitch => exact (execLaneSwitch_frame (h := h) ..).1
  | credit => exact (execCredit_frame (h := h) ..).1
  | ack => exact (execAck_frame (h := h) ..).1
  | nak => exact (execNak_frame (h := h) ..).1
  | frameReceived => exact (execFrameReceived_frame (h := h) ..).1
  | egressSelect => exact (execEgressSelect_frame (h := h) ..).1
  | strandRead => exact (execStrandRead_frame (h := h) ..).1
  | strandWrite => exact (execStrandWrite_frame (h := h) ..).1
  | strandAtomic => exact (execStrandAtomic_frame (h := h) ..).1
  | register => exact (execRegister_frame (h := h) ..).1
  | unregister => exact (execUnregister_frame (h := h) ..).1
  | publish => exact (execPublish_frame (h := h) ..).1
  | invalidate => exact (execInvalidate_frame (h := h) ..).1
  | messageSegment => exact (execMessageSegment_frame (h := h) ..).1
  | messageReassemblyTimeout => exact (execMessageReassemblyTimeout_frame (h := h) ..).1
  | readResponse => exact (execReadResponse_frame (h := h) ..).1
  | writeResponse => exact (execWriteResponse_frame (h := h) ..).1
  | atomicResponse => exact (execAtomicResponse_frame (h := h) ..).1
  | registerResponse => exact (execRegisterResponse_frame (h := h) ..).1
  | publishResponse => exact (execPublishResponse_frame (h := h) ..).1
  | invalidateResponse => exact (execInvalidateResponse_frame (h := h) ..).1
  | messageResponse => exact (execMessageResponse_frame (h := h) ..).1
  | readResend => exact (execReadResend_frame (h := h) ..).1
  | strandGiveUp => exact (execStrandGiveUp_frame (h := h) ..).1
  | atomicResend => exact (execAtomicResend_frame (h := h) ..).1
  | atomicGiveUp => exact (execAtomicGiveUp_frame (h := h) ..).1
  | invalidateResend => exact (execInvalidateResend_frame (h := h) ..).1
  | publishGiveUp => exact (execPublishGiveUp_frame (h := h) ..).1
  | replayEntryExpiry => exact (execReplayEntryExpiry_frame (h := h) ..).1
  | histogramPeriod => exact (execHistogramPeriod_frame (h := h) ..).1
  | flashEnumerationDone => exact (execFlashEnumerationDone_frame (h := h) ..).1
  | lunReadDispatch => exact (execLunReadDispatch_frame (h := h) ..).1
  | flashReadDone => exact (execFlashReadDone_frame (h := h) ..).1
  | writeFlushTimer => exact (execWriteFlushTimer_frame (h := h) ..).1
  | flashProgramDone => exact (execFlashProgramDone_frame (h := h) ..).1
  | blockErase => exact (execBlockErase_frame (h := h) ..).1
  | eraseDone => exact (execEraseDone_frame (h := h) ..).1
  | journalFlush => exact (execJournalFlush_frame (h := h) ..).1
  | journalFlushDone => exact (execJournalFlushDone_frame (h := h) ..).1
  | rebuildDone => exact (execRebuildDone_frame (h := h) ..).1
  | housekeepingWindowOpen => exact (execHousekeepingWindowOpen_frame (h := h) ..).1
  | housekeepingWindowClose => exact (execHousekeepingWindowClose_frame (h := h) ..).1
  | urgentGc => exact (execUrgentGc_frame (h := h) ..).1
  | urgentRelocation => exact (execUrgentRelocation_frame (h := h) ..).1
  | controllerEnable => exact (execControllerEnable_frame (h := h) ..).1
  | readySet => exact (execReadySet_frame (h := h) ..).1
  | controllerDisable => exact (execControllerDisable_frame (h := h) ..).1
  | hostDisableEffect => exact (execHostDisableEffect_frame (h := h) ..).1
  | hostDrainLimit => exact (execHostDrainLimit_frame (h := h) ..).1
  | queueEnable => exact (execQueueEnable_frame (h := h) ..).1
  | queueDisable => exact (execQueueDisable_frame (h := h) ..).1
  | queueDisableDone => exact (execQueueDisableDone_frame (h := h) ..).1
  | sqTailDoorbell => exact (execSqTailDoorbell_frame (h := h) ..).1
  | cqHeadDoorbell => exact (execCqHeadDoorbell_frame (h := h) ..).1
  | linkLostClear => exact (execLinkLostClear_frame (h := h) ..).1
  | bar0Write => exact (execBar0Write_frame (h := h) ..).1
  | sqFetch => exact (execSqFetch_frame (h := h) ..).1
  | coalesceTimer => exact (execCoalesceTimer_frame (h := h) ..).1
  | msixUnmask => exact (execMsixUnmask_frame (h := h) ..).1
  | linkLoss => exact (execLinkLoss_frame (h := h) ..).1
  | linkTrained => exact (execLinkTrained_frame (h := h) ..).1
  | hdmCommit => exact (execHdmCommit_frame (h := h) ..).1
  | getSupportedLogs => exact (execGetSupportedLogs_frame (h := h) ..).1
  | getLog => exact (execGetLog_frame (h := h) ..).1
  | catalogueTransaction => exact (execCatalogueTransaction_frame (h := h) ..).1
  | imageStart => exact (execImageStart_frame (h := h) ..).1
  | imageData => exact (execImageData_frame (h := h) ..).1
  | imageEnd => exact (execImageEnd_frame (h := h) ..).1
  | imageVerifyDone => exact (execImageVerifyDone_frame (h := h) ..).1
  | imageWriteDone => exact (execImageWriteDone_frame (h := h) ..).1
  | doeDiscovery => exact (execDoeDiscovery_frame (h := h) ..).1
  | cdat => exact (execCdat_frame (h := h) ..).1
  | spdm => exact (execSpdm_frame (h := h) ..).1
  | ideKm => exact (execIdeKm_frame (h := h) ..).1
  | capRead => exact (execCapRead_frame (h := h) ..).1
  | capReadPending => exact (execCapReadPending_frame (h := h) ..).1
  | capWrite => exact (execCapWrite_frame (h := h) ..).1
  | lock => exact (execLock_frame (h := h) ..).1
  | lockForce => exact (execLockForce_frame (h := h) ..).1
  | unlock => exact (execUnlock_frame (h := h) ..).1
  | describe => exact (execDescribe_frame (h := h) ..).1
  | lockExpiry => exact (execLockExpiry_frame (h := h) ..).1
  | snapshotExpiry => exact (execSnapshotExpiry_frame (h := h) ..).1
  | provenanceNonceWrite => exact (execProvenanceNonceWrite_frame (h := h) ..).1
  | provenanceRecordRead => exact (execProvenanceRecordRead_frame (h := h) ..).1
  | eventRecordsRead => exact (execEventRecordsRead_frame (h := h) ..).1
  | createKey => exact (execCreateKey_frame (h := h) ..).1
  | destroy => exact (execDestroy_frame (h := h) ..).1
  | registerGraphKey => exact (execRegisterGraphKey_frame (h := h) ..).1
  | removeGraphKey => exact (execRemoveGraphKey_frame (h := h) ..).1
  | fence => exact (execFence_frame (h := h) ..).1
  | unfence => exact (execUnfence_frame (h := h) ..).1
  | expel => exact (execExpel_frame (h := h) ..).1
  | reinstate => exact (execReinstate_frame (h := h) ..).1
  | setFaultKeys => exact (execSetFaultKeys_frame (h := h) ..).1
  | signedCommandEffect => exact (execSignedCommandEffect_frame (h := h) ..).1
  | faultKeysWrite => exact (execFaultKeysWrite_frame (h := h) ..).1
  | coldResetRequest => exact (execColdResetRequest_frame (h := h) ..).1
  | warmResetRequest => exact (execWarmResetRequest_frame (h := h) ..).1
  | domainResetRequest => exact (execDomainResetRequest_frame (h := h) ..).1
  | blockResetRequest => exact (execBlockResetRequest_frame (h := h) ..).1
  | resetAssert => exact (execResetAssert_frame (h := h) ..).1
  | powerOn => exact (execPowerOn_frame (h := h) ..).1
  | resetNLow => exact (execResetNLow_frame (h := h) ..).1
  | resetNRise => exact (execResetNRise_frame (h := h) ..).1
  | railUndervoltage => exact (execRailUndervoltage_frame (h := h) ..).1
  | clockStop => exact (execClockStop_frame (h := h) ..).1
  | releasePoint => exact (execReleasePoint_frame (h := h) ..).1
  | watchdogExpiry => exact (execWatchdogExpiry_frame (h := h) ..).1
  | domainRelease => exact (execDomainRelease_frame (h := h) ..).1
  | selfTestEscalation => exact execSelfTestEscalation_frame (h := h) ..
  | junctionSensorRead => exact (execJunctionSensorRead_frame (h := h) ..).1
  | blockQuiesce => exact (execBlockQuiesce_frame (h := h) ..).1
  | blockQuiesced => exact (execBlockQuiesced_frame (h := h) ..).1
  | functionDisable => exact (execFunctionDisable_frame (h := h) ..).1
  | functionEnable => exact (execFunctionEnable_frame (h := h) ..).1
  | drainLimit => exact (execDrainLimit_frame (h := h) ..).1
  | neapRequest => exact (execNeapRequest_frame (h := h) ..).1
  | activeRequest => exact (execActiveRequest_frame (h := h) ..).1
  | neapPowerOff => exact (execNeapPowerOff_frame (h := h) ..).1
  | neapExitDone => exact (execNeapExitDone_frame (h := h) ..).1
  | slackEntry => exact (execSlackEntry_frame (h := h) ..).1
  | railCurrentSample => exact (execRailCurrentSample_frame (h := h) ..).1
  | marginSample => exact (execMarginSample_frame (h := h) ..).1
  | marginPeriod => exact (execMarginPeriod_frame (h := h) ..).1
  | cmisPoll => exact (execCmisPoll_frame (h := h) ..).1
  | trngHealthFail => exact (execTrngHealthFail_frame (h := h) ..).1
  | trngStartupDone => exact (execTrngStartupDone_frame (h := h) ..).1
  | errorEvent => exact (execErrorEvent_frame (h := h) ..).1
  | selfTestDone => exact (execSelfTestDone_frame (h := h) ..).1
  | selfTestRequest => exact (execSelfTestRequest_frame (h := h) ..).1
  | stragglerHoldExpiry => exact (execStragglerHoldExpiry_frame (h := h) ..).1
  | firmwareImageStarted => exact (execFirmwareImageStarted_frame (h := h) ..).1
  | checkpointInstalled => exact (execCheckpointInstalled_frame (h := h) ..).1
  | tapInstruction => exact (execTapInstruction_frame (h := h) ..).1

/-- Every command leaves the memory's cells alone or keeps their canonical form. -/
theorem exec_keeps_memOk {c : Instr} {s t : State} (hm : MemOk s) (h : exec c s = .next t) : MemOk t := by
  unfold MemOk at hm ⊢
  cases c with
  | masterBoundary => exact execMasterBoundary_wf (hm := hm) (h := h) ..
  | tideInEdge => exact execTideInEdge_wf (hm := hm) (h := h) ..
  | missedEdge => exact execMissedEdge_wf (hm := hm) (h := h) ..
  | countFrame => simpa [execCountFrame_frame (h := h) ..] using hm
  | tideBeacon => simpa [execTideBeacon_frame (h := h) ..] using hm
  | subTick => simpa [execSubTick_frame (h := h) ..] using hm
  | tideUnitStart => simpa [execTideUnitStart_frame (h := h) ..] using hm
  | twApply => exact execTwApply_wf (hm := hm) (h := h) ..
  | collectionIdWrite => exact execCollectionIdWrite_wf (hm := hm) (h := h) ..
  | collectionOpen => exact execCollectionOpen_wf (hm := hm) (h := h) ..
  | collectionClose => exact execCollectionClose_wf (hm := hm) (h := h) ..
  | collectionStorageRelease => exact execCollectionStorageRelease_wf (hm := hm) (h := h) ..
  | shoalMapWrite => exact execShoalMapWrite_wf (hm := hm) (h := h) ..
  | shoalRelease => exact execShoalRelease_wf (hm := hm) (h := h) ..
  | slotSettle => simpa [execSlotSettle_frame (h := h) ..] using hm
  | indexAgeLimit => exact execIndexAgeLimit_wf (hm := hm) (h := h) ..
  | retiredReclaim => exact execRetiredReclaim_wf (hm := hm) (h := h) ..
  | query => exact execQuery_wf (hm := hm) (h := h) ..
  | fragmentRequest src data => exact execFragmentRequest_wf src data s hm h
  | fragmentReply => exact execFragmentReply_wf (hm := hm) (h := h) ..
  | fragmentCutoff => exact execFragmentCutoff_wf (hm := hm) (h := h) ..
  | fragmentComplete => exact execFragmentComplete_wf (hm := hm) (h := h) ..
  | queryDeadline => exact execQueryDeadline_wf (hm := hm) (h := h) ..
  | verifyReadDone => exact execVerifyReadDone_wf (hm := hm) (h := h) ..
  | accession => exact execAccession_wf (hm := hm) (h := h) ..
  | deaccession => exact execDeaccession_wf (hm := hm) (h := h) ..
  | changeAtPrimary => exact execChangeAtPrimary_wf (hm := hm) (h := h) ..
  | changeHeldAccept => exact execChangeHeldAccept_wf (hm := hm) (h := h) ..
  | changeAtReplica => exact execChangeAtReplica_wf (hm := hm) (h := h) ..
  | changeAcknowledgement => exact execChangeAcknowledgement_wf (hm := hm) (h := h) ..
  | changeOutcome => exact execChangeOutcome_wf (hm := hm) (h := h) ..
  | replicaAckTimeout => exact execReplicaAckTimeout_wf (hm := hm) (h := h) ..
  | intakeGiveUp => exact execIntakeGiveUp_wf (hm := hm) (h := h) ..
  | upkeepWindowOpen => simpa [execUpkeepWindowOpen_frame (h := h) ..] using hm
  | upkeepWindowClose => exact execUpkeepWindowClose_wf (hm := hm) (h := h) ..
  | shoalFillStream => exact execShoalFillStream_wf (hm := hm) (h := h) ..
  | fillComplete => simpa [execFillComplete_frame (h := h) ..] using hm
  | hostMemRead => exact execHostMemRead_wf (hm := hm) (h := h) ..
  | hostMemWrite => exact execHostMemWrite_wf (hm := hm) (h := h) ..
  | holdTimeout => simpa [execHoldTimeout_frame (h := h) ..] using hm
  | stackDemotion => exact execStackDemotion_wf (hm := hm) (h := h) ..
  | shelfDemotion => exact execShelfDemotion_wf (hm := hm) (h := h) ..
  | pageMoveSwitch => exact execPageMoveSwitch_wf (hm := hm) (h := h) ..
  | sweepComplete => simpa [execSweepComplete_frame (h := h) ..] using hm
  | nbSequenceIssue => exact execNbSequenceIssue_wf (hm := hm) (h := h) ..
  | nbSequenceStart => simpa [execNbSequenceStart_frame (h := h) ..] using hm
  | rowcopy => exact execRowcopy_wf (hm := hm) (h := h) ..
  | rowinit => exact execRowinit_wf (hm := hm) (h := h) ..
  | rowlogic => exact execRowlogic_wf (hm := hm) (h := h) ..
  | opload => exact execOpload_wf (hm := hm) (h := h) ..
  | popacc => exact execPopacc_wf (hm := hm) (h := h) ..
  | accout => exact execAccout_wf (hm := hm) (h := h) ..
  | seqEnd => exact execSeqEnd_wf (hm := hm) (h := h) ..
  | bankSlot => simpa [execBankSlot_frame (h := h) ..] using hm
  | refreshVisit => simpa [execRefreshVisit_frame (h := h) ..] using hm
  | neighbourRefresh => simpa [execNeighbourRefresh_frame (h := h) ..] using hm
  | stackTempRead => simpa [execStackTempRead_frame (h := h) ..] using hm
  | graphLoad => exact execGraphLoad_wf (hm := hm) (h := h) ..
  | graphRun => exact execGraphRun_wf (hm := hm) (h := h) ..
  | graphUnload => exact execGraphUnload_wf (hm := hm) (h := h) ..
  | unloadComplete => exact execUnloadComplete_wf (hm := hm) (h := h) ..
  | runHoldRelease => exact execRunHoldRelease_wf (hm := hm) (h := h) ..
  | runDeadline => exact execRunDeadline_wf (hm := hm) (h := h) ..
  | convert => exact execConvert_wf (hm := hm) (h := h) ..
  | reshape => exact execReshape_wf (hm := hm) (h := h) ..
  | transpose => exact execTranspose_wf (hm := hm) (h := h) ..
  | elementwise => exact execElementwise_wf (hm := hm) (h := h) ..
  | reduce => exact execReduce_wf (hm := hm) (h := h) ..
  | softmax => exact execSoftmax_wf (hm := hm) (h := h) ..
  | norm => exact execNorm_wf (hm := hm) (h := h) ..
  | quantise => exact execQuantise_wf (hm := hm) (h := h) ..
  | dequantise => exact execDequantise_wf (hm := hm) (h := h) ..
  | matmul => exact execMatmul_wf (hm := hm) (h := h) ..
  | chunkFillDone => exact execChunkFillDone_wf (hm := hm) (h := h) ..
  | distance => exact execDistance_wf (hm := hm) (h := h) ..
  | select => exact execSelect_wf (hm := hm) (h := h) ..
  | merge => exact execMerge_wf (hm := hm) (h := h) ..
  | filter => exact execFilter_wf (hm := hm) (h := h) ..
  | gather run remote => exact execGather_wf run remote s hm h
  | scatter => exact execScatter_wf (hm := hm) (h := h) ..
  | mergeUpdate => exact execMergeUpdate_wf (hm := hm) (h := h) ..
  | nbMatvec => exact execNbMatvec_wf (hm := hm) (h := h) ..
  | attendQk => exact execAttendQk_wf (hm := hm) (h := h) ..
  | attendPv => exact execAttendPv_wf (hm := hm) (h := h) ..
  | attend => exact execAttend_wf (hm := hm) (h := h) ..
  | berthAppend => exact execBerthAppend_wf (hm := hm) (h := h) ..
  | loop => exact execLoop_wf (hm := hm) (h := h) ..
  | branch => exact execBranch_wf (hm := hm) (h := h) ..
  | tideWait => exact execTideWait_wf (hm := hm) (h := h) ..
  | tideWaitRelease => exact execTideWaitRelease_wf (hm := hm) (h := h) ..
  | create cmd answer => exact execCreate_wf cmd answer s hm h
  | park => exact execPark_wf (hm := hm) (h := h) ..
  | parkDone => exact execParkDone_wf (hm := hm) (h := h) ..
  | wake => exact execWake_wf (hm := hm) (h := h) ..
  | wakeReady => exact execWakeReady_wf (hm := hm) (h := h) ..
  | attendCommand => exact execAttendCommand_wf (hm := hm) (h := h) ..
  | release => exact execRelease_wf (hm := hm) (h := h) ..
  | handoff => exact execHandoff_wf (hm := hm) (h := h) ..
  | checkpoint => exact execCheckpoint_wf (hm := hm) (h := h) ..
  | berthPages => exact execBerthPages_wf (hm := hm) (h := h) ..
  | berthControl => exact execBerthControl_wf (hm := hm) (h := h) ..
  | berthCommandRelease => exact execBerthCommandRelease_wf (hm := hm) (h := h) ..
  | autoPark => exact execAutoPark_wf (hm := hm) (h := h) ..
  | leaseRenewal => exact execLeaseRenewal_wf (hm := hm) (h := h) ..
  | leaseExpiry => simpa [execLeaseExpiry_frame (h := h) ..] using hm
  | resolveRead => exact execResolveRead_wf (hm := hm) (h := h) ..
  | takeover => exact execTakeover_wf (hm := hm) (h := h) ..
  | usageReport => simpa [execUsageReport_frame (h := h) ..] using hm
  | tableIdWrite => exact execTableIdWrite_wf (hm := hm) (h := h) ..
  | tableOpen => exact execTableOpen_wf (hm := hm) (h := h) ..
  | tableClose => exact execTableClose_wf (hm := hm) (h := h) ..
  | tableStorageRelease => exact execTableStorageRelease_wf (hm := hm) (h := h) ..
  | rowGet cmd rows remote => exact execRowGet_wf cmd rows remote s hm h
  | rowPut => exact execRowPut_wf (hm := hm) (h := h) ..
  | rowUpdate => exact execRowUpdate_wf (hm := hm) (h := h) ..
  | tablePutRows => exact execTablePutRows_wf (hm := hm) (h := h) ..
  | tablePutCommit => simpa [execTablePutCommit_frame (h := h) ..] using hm
  | tablePutWithdraw => simpa [execTablePutWithdraw_frame (h := h) ..] using hm
  | putAnswerDeadline => exact execPutAnswerDeadline_wf (hm := hm) (h := h) ..
  | tableUpdateSums => exact execTableUpdateSums_wf (hm := hm) (h := h) ..
  | tableLoadReport => simpa [execTableLoadReport_frame (h := h) ..] using hm
  | loadPeriod => simpa [execLoadPeriod_frame (h := h) ..] using hm
  | migrationSwitch => simpa [execMigrationSwitch_frame (h := h) ..] using hm
  | hotRowRefresh => exact execHotRowRefresh_wf (hm := hm) (h := h) ..
  | granuleFree => simpa [execGranuleFree_frame (h := h) ..] using hm
  | freshClear => simpa [execFreshClear_frame (h := h) ..] using hm
  | cacheRead => exact execCacheRead_wf (hm := hm) (h := h) ..
  | readOwn => exact execReadOwn_wf (hm := hm) (h := h) ..
  | upgrade => exact execUpgrade_wf (hm := hm) (h := h) ..
  | writeLine => exact execWriteLine_wf (hm := hm) (h := h) ..
  | readOnce => exact execReadOnce_wf (hm := hm) (h := h) ..
  | writeback => exact execWriteback_wf (hm := hm) (h := h) ..
  | evictionNotice => exact execEvictionNotice_wf (hm := hm) (h := h) ..
  | cacheAtomic => exact execCacheAtomic_wf (hm := hm) (h := h) ..
  | invalidationAck => exact execInvalidationAck_wf (hm := hm) (h := h) ..
  | firmwareWriteback => exact execFirmwareWriteback_wf (hm := hm) (h := h) ..
  | firmwareInvalidate => exact execFirmwareInvalidate_wf (hm := hm) (h := h) ..
  | firmwareFence => exact execFirmwareFence_wf (hm := hm) (h := h) ..
  | hostSnoop => simpa [execHostSnoop_frame (h := h) ..] using hm
  | bisnpResponse => exact execBisnpResponse_wf (hm := hm) (h := h) ..
  | signalDetect => simpa [execSignalDetect_frame (h := h) ..] using hm
  | equaliseDone => simpa [execEqualiseDone_frame (h := h) ..] using hm
  | alignDone => simpa [execAlignDone_frame (h := h) ..] using hm
  | hello => simpa [execHello_frame (h := h) ..] using hm
  | trainTimeout => simpa [execTrainTimeout_frame (h := h) ..] using hm
  | downRetry => simpa [execDownRetry_frame (h := h) ..] using hm
  | miswiredHelloRepeat => simpa [execMiswiredHelloRepeat_frame (h := h) ..] using hm
  | lanemap => simpa [execLanemap_frame (h := h) ..] using hm
  | laneSwitch => simpa [execLaneSwitch_frame (h := h) ..] using hm
  | credit => simpa [execCredit_frame (h := h) ..] using hm
  | ack => simpa [execAck_frame (h := h) ..] using hm
  | nak => simpa [execNak_frame (h := h) ..] using hm
  | frameReceived => exact execFrameReceived_wf (hm := hm) (h := h) ..
  | egressSelect => simpa [execEgressSelect_frame (h := h) ..] using hm
  | strandRead => exact execStrandRead_wf (hm := hm) (h := h) ..
  | strandWrite => exact execStrandWrite_wf (hm := hm) (h := h) ..
  | strandAtomic => exact execStrandAtomic_wf (hm := hm) (h := h) ..
  | register => simpa [execRegister_frame (h := h) ..] using hm
  | unregister => simpa [execUnregister_frame (h := h) ..] using hm
  | publish => simpa [execPublish_frame (h := h) ..] using hm
  | invalidate => simpa [execInvalidate_frame (h := h) ..] using hm
  | messageSegment => exact execMessageSegment_wf (hm := hm) (h := h) ..
  | messageReassemblyTimeout => simpa [execMessageReassemblyTimeout_frame (h := h) ..] using hm
  | readResponse => exact execReadResponse_wf (hm := hm) (h := h) ..
  | writeResponse => exact execWriteResponse_wf (hm := hm) (h := h) ..
  | atomicResponse => exact execAtomicResponse_wf (hm := hm) (h := h) ..
  | registerResponse => simpa [execRegisterResponse_frame (h := h) ..] using hm
  | publishResponse => simpa [execPublishResponse_frame (h := h) ..] using hm
  | invalidateResponse => simpa [execInvalidateResponse_frame (h := h) ..] using hm
  | messageResponse => exact execMessageResponse_wf (hm := hm) (h := h) ..
  | readResend => exact execReadResend_wf (hm := hm) (h := h) ..
  | strandGiveUp => exact execStrandGiveUp_wf (hm := hm) (h := h) ..
  | atomicResend => exact execAtomicResend_wf (hm := hm) (h := h) ..
  | atomicGiveUp => exact execAtomicGiveUp_wf (hm := hm) (h := h) ..
  | invalidateResend => simpa [execInvalidateResend_frame (h := h) ..] using hm
  | publishGiveUp => simpa [execPublishGiveUp_frame (h := h) ..] using hm
  | replayEntryExpiry => simpa [execReplayEntryExpiry_frame (h := h) ..] using hm
  | histogramPeriod => simpa [execHistogramPeriod_frame (h := h) ..] using hm
  | flashEnumerationDone => exact execFlashEnumerationDone_wf (hm := hm) (h := h) ..
  | lunReadDispatch => simpa [execLunReadDispatch_frame (h := h) ..] using hm
  | flashReadDone => exact execFlashReadDone_wf (hm := hm) (h := h) ..
  | writeFlushTimer => simpa [execWriteFlushTimer_frame (h := h) ..] using hm
  | flashProgramDone => exact execFlashProgramDone_wf (hm := hm) (h := h) ..
  | blockErase => simpa [execBlockErase_frame (h := h) ..] using hm
  | eraseDone => simpa [execEraseDone_frame (h := h) ..] using hm
  | journalFlush => simpa [execJournalFlush_frame (h := h) ..] using hm
  | journalFlushDone => simpa [execJournalFlushDone_frame (h := h) ..] using hm
  | rebuildDone => exact execRebuildDone_wf (hm := hm) (h := h) ..
  | housekeepingWindowOpen => simpa [execHousekeepingWindowOpen_frame (h := h) ..] using hm
  | housekeepingWindowClose => simpa [execHousekeepingWindowClose_frame (h := h) ..] using hm
  | urgentGc => simpa [execUrgentGc_frame (h := h) ..] using hm
  | urgentRelocation => simpa [execUrgentRelocation_frame (h := h) ..] using hm
  | controllerEnable => simpa [execControllerEnable_frame (h := h) ..] using hm
  | readySet => simpa [execReadySet_frame (h := h) ..] using hm
  | controllerDisable => simpa [execControllerDisable_frame (h := h) ..] using hm
  | hostDisableEffect => simpa [execHostDisableEffect_frame (h := h) ..] using hm
  | hostDrainLimit => exact execHostDrainLimit_wf (hm := hm) (h := h) ..
  | queueEnable => simpa [execQueueEnable_frame (h := h) ..] using hm
  | queueDisable => simpa [execQueueDisable_frame (h := h) ..] using hm
  | queueDisableDone => simpa [execQueueDisableDone_frame (h := h) ..] using hm
  | sqTailDoorbell => simpa [execSqTailDoorbell_frame (h := h) ..] using hm
  | cqHeadDoorbell => simpa [execCqHeadDoorbell_frame (h := h) ..] using hm
  | linkLostClear => simpa [execLinkLostClear_frame (h := h) ..] using hm
  | bar0Write => simpa [execBar0Write_frame (h := h) ..] using hm
  | sqFetch => exact execSqFetch_wf (hm := hm) (h := h) ..
  | coalesceTimer => exact execCoalesceTimer_wf (hm := hm) (h := h) ..
  | msixUnmask => simpa [execMsixUnmask_frame (h := h) ..] using hm
  | linkLoss => exact execLinkLoss_wf (hm := hm) (h := h) ..
  | linkTrained => simpa [execLinkTrained_frame (h := h) ..] using hm
  | hdmCommit => simpa [execHdmCommit_frame (h := h) ..] using hm
  | getSupportedLogs => simpa [execGetSupportedLogs_frame (h := h) ..] using hm
  | getLog => simpa [execGetLog_frame (h := h) ..] using hm
  | catalogueTransaction => exact execCatalogueTransaction_wf (hm := hm) (h := h) ..
  | imageStart => exact execImageStart_wf (hm := hm) (h := h) ..
  | imageData => exact execImageData_wf (hm := hm) (h := h) ..
  | imageEnd => exact execImageEnd_wf (hm := hm) (h := h) ..
  | imageVerifyDone => simpa [execImageVerifyDone_frame (h := h) ..] using hm
  | imageWriteDone => simpa [execImageWriteDone_frame (h := h) ..] using hm
  | doeDiscovery => simpa [execDoeDiscovery_frame (h := h) ..] using hm
  | cdat => simpa [execCdat_frame (h := h) ..] using hm
  | spdm => simpa [execSpdm_frame (h := h) ..] using hm
  | ideKm => simpa [execIdeKm_frame (h := h) ..] using hm
  | capRead => exact execCapRead_wf (hm := hm) (h := h) ..
  | capReadPending => exact execCapReadPending_wf (hm := hm) (h := h) ..
  | capWrite => exact execCapWrite_wf (hm := hm) (h := h) ..
  | lock => exact execLock_wf (hm := hm) (h := h) ..
  | lockForce => exact execLockForce_wf (hm := hm) (h := h) ..
  | unlock => exact execUnlock_wf (hm := hm) (h := h) ..
  | describe => exact execDescribe_wf (hm := hm) (h := h) ..
  | lockExpiry => simpa [execLockExpiry_frame (h := h) ..] using hm
  | snapshotExpiry => simpa [execSnapshotExpiry_frame (h := h) ..] using hm
  | provenanceNonceWrite => exact execProvenanceNonceWrite_wf (hm := hm) (h := h) ..
  | provenanceRecordRead => exact execProvenanceRecordRead_wf (hm := hm) (h := h) ..
  | eventRecordsRead => exact execEventRecordsRead_wf (hm := hm) (h := h) ..
  | createKey => exact execCreateKey_wf (hm := hm) (h := h) ..
  | destroy => exact execDestroy_wf (hm := hm) (h := h) ..
  | registerGraphKey => exact execRegisterGraphKey_wf (hm := hm) (h := h) ..
  | removeGraphKey => exact execRemoveGraphKey_wf (hm := hm) (h := h) ..
  | fence => exact execFence_wf (hm := hm) (h := h) ..
  | unfence => exact execUnfence_wf (hm := hm) (h := h) ..
  | expel => exact execExpel_wf (hm := hm) (h := h) ..
  | reinstate => exact execReinstate_wf (hm := hm) (h := h) ..
  | setFaultKeys => exact execSetFaultKeys_wf (hm := hm) (h := h) ..
  | signedCommandEffect => exact execSignedCommandEffect_wf (hm := hm) (h := h) ..
  | faultKeysWrite => exact execFaultKeysWrite_wf (hm := hm) (h := h) ..
  | coldResetRequest => exact execColdResetRequest_wf (hm := hm) (h := h) ..
  | warmResetRequest => exact execWarmResetRequest_wf (hm := hm) (h := h) ..
  | domainResetRequest => exact execDomainResetRequest_wf (hm := hm) (h := h) ..
  | blockResetRequest => exact execBlockResetRequest_wf (hm := hm) (h := h) ..
  | resetAssert => exact execResetAssert_wf (hm := hm) (h := h) ..
  | powerOn => exact execPowerOn_wf (hm := hm) (h := h) ..
  | resetNLow => exact execResetNLow_wf (hm := hm) (h := h) ..
  | resetNRise => simpa [execResetNRise_frame (h := h) ..] using hm
  | railUndervoltage => exact execRailUndervoltage_wf (hm := hm) (h := h) ..
  | clockStop => exact execClockStop_wf (hm := hm) (h := h) ..
  | releasePoint => exact execReleasePoint_wf (hm := hm) (h := h) ..
  | watchdogExpiry => exact execWatchdogExpiry_wf (hm := hm) (h := h) ..
  | domainRelease => exact execDomainRelease_wf (hm := hm) (h := h) ..
  | selfTestEscalation => exact execSelfTestEscalation_wf (hm := hm) (h := h) ..
  | junctionSensorRead => exact execJunctionSensorRead_wf (hm := hm) (h := h) ..
  | blockQuiesce => exact execBlockQuiesce_wf (hm := hm) (h := h) ..
  | blockQuiesced => simpa [execBlockQuiesced_frame (h := h) ..] using hm
  | functionDisable => exact execFunctionDisable_wf (hm := hm) (h := h) ..
  | functionEnable => exact execFunctionEnable_wf (hm := hm) (h := h) ..
  | drainLimit => exact execDrainLimit_wf (hm := hm) (h := h) ..
  | neapRequest => exact execNeapRequest_wf (hm := hm) (h := h) ..
  | activeRequest => exact execActiveRequest_wf (hm := hm) (h := h) ..
  | neapPowerOff => exact execNeapPowerOff_wf (hm := hm) (h := h) ..
  | neapExitDone => exact execNeapExitDone_wf (hm := hm) (h := h) ..
  | slackEntry => simpa [execSlackEntry_frame (h := h) ..] using hm
  | railCurrentSample => simpa [execRailCurrentSample_frame (h := h) ..] using hm
  | marginSample => simpa [execMarginSample_frame (h := h) ..] using hm
  | marginPeriod => simpa [execMarginPeriod_frame (h := h) ..] using hm
  | cmisPoll => exact execCmisPoll_wf (hm := hm) (h := h) ..
  | trngHealthFail => simpa [execTrngHealthFail_frame (h := h) ..] using hm
  | trngStartupDone => simpa [execTrngStartupDone_frame (h := h) ..] using hm
  | errorEvent => exact execErrorEvent_wf (hm := hm) (h := h) ..
  | selfTestDone => exact execSelfTestDone_wf (hm := hm) (h := h) ..
  | selfTestRequest => exact execSelfTestRequest_wf (hm := hm) (h := h) ..
  | stragglerHoldExpiry => simpa [execStragglerHoldExpiry_frame (h := h) ..] using hm
  | firmwareImageStarted => exact execFirmwareImageStarted_wf (hm := hm) (h := h) ..
  | checkpointInstalled => exact execCheckpointInstalled_wf (hm := hm) (h := h) ..
  | tapInstruction => simpa [execTapInstruction_frame (h := h) ..] using hm

/-- Settles O4: the command at the front leaves the queue behind it, and the memory canonical. -/
theorem stepKeepsSound : Obligations.StepKeepsSound := by
  intro s t hm hq h
  unfold step at h
  split at h
  next => cases h; exact ⟨hm, hq⟩
  next c rest hpending =>
    refine ⟨exec_keeps_memOk (s := { s with pending := rest }) hm h, fun d hd => ?_⟩
    have hrest : t.pending = rest := exec_keeps_pending h
    exact hq d (by rw [hpending]; exact List.mem_cons_of_mem c (hrest ▸ hd))

/-! How a command ends. -/

theorem onRequest_completes (kind : Nat) (f : Frame) (s : State) (go : State → Frame → State) :
    ∃ t, onRequest kind f s go = .next t := by
  unfold onRequest
  repeat' split
  all_goals exact ⟨_, rfl⟩

theorem onResponse_completes (kind : Nat) (f : Frame) (s : State) (go : State → Request → State) :
    ∃ t, onResponse kind f s go = .next t := by
  unfold onResponse
  repeat' split
  all_goals exact ⟨_, rfl⟩

/-! The rows with the most branches, each by itself. -/

theorem execQuery_completes (cmd : Nat) (input filter : HostRead) (s : State) : ∃ t, execQuery cmd input filter s = .next t := by
  dsimp only [execQuery]
  repeat' split
  all_goals exact ⟨_, rfl⟩

theorem execRowPut_completes (cmd : Nat) (rows data : HostRead) (s : State) : ∃ t, execRowPut cmd rows data s = .next t := by
  dsimp only [execRowPut]
  repeat' split
  all_goals exact ⟨_, rfl⟩

theorem execJunctionSensorRead_completes (temps : List Nat) (s : State) : ∃ t, execJunctionSensorRead temps s = .next t := by
  dsimp only [execJunctionSensorRead]
  repeat' split
  all_goals exact ⟨_, rfl⟩

theorem execBankSlot_completes (bank : Nat) (external : Option Nat) (s : State) : ∃ t, execBankSlot bank external s = .next t := by
  dsimp only [execBankSlot]
  repeat' split
  all_goals exact ⟨_, rfl⟩

theorem execFlashEnumerationDone_completes (targets : List Target) (s : State) : ∃ t, execFlashEnumerationDone targets s = .next t := by
  dsimp only [execFlashEnumerationDone]
  repeat' split
  all_goals exact ⟨_, rfl⟩

/-- A command that names no address completes: its row is a tree of conditions, and each branch answers a next state. -/
theorem exec_completes {c : Instr} {s : State} (h : namedRanges c = []) : ∃ t, exec c s = .next t := by
  cases c
  case nbSequenceIssue | cacheRead | readOwn | upgrade | writeLine | readOnce | cacheAtomic | firmwareWriteback | firmwareInvalidate =>
    exact absurd h (List.cons_ne_nil _ _)
  case query => exact execQuery_completes ..
  case rowPut => exact execRowPut_completes ..
  case junctionSensorRead => exact execJunctionSensorRead_completes ..
  case bankSlot => exact execBankSlot_completes ..
  case flashEnumerationDone => exact execFlashEnumerationDone_completes ..
  -- Rows that answer the one state that their function gives.
  case twApply | collectionIdWrite | collectionOpen | collectionClose | shoalMapWrite | hostMemRead | hostMemWrite | rowcopy | rowinit |
      rowlogic | opload | popacc | accout | convert | reshape | transpose | elementwise | reduce | softmax | norm | quantise | dequantise |
      matmul | distance | select | merge | filter | gather | scatter | mergeUpdate | nbMatvec | attendQk | attendPv | attend | berthAppend |
      loop | branch | tideWait | park | wake | release | handoff | checkpoint | berthPages | berthControl | tableIdWrite | tableOpen |
      tableClose | firmwareFence | controllerEnable | controllerDisable | linkLostClear | bar0Write | linkLoss | getSupportedLogs | getLog |
      catalogueTransaction | imageStart | imageData | imageEnd | capRead | capReadPending | capWrite | lock | lockForce | unlock | describe
      | lockExpiry | snapshotExpiry | provenanceNonceWrite | provenanceRecordRead | eventRecordsRead | createKey | destroy |
      registerGraphKey | removeGraphKey | fence | unfence | expel | reinstate | setFaultKeys | signedCommandEffect | faultKeysWrite |
      coldResetRequest | warmResetRequest | domainResetRequest | blockResetRequest | powerOn | resetNLow | railUndervoltage | clockStop |
      blockQuiesce | functionDisable | functionEnable | neapRequest | activeRequest | selfTestRequest | stragglerHoldExpiry | tapInstruction
      =>
    exact ⟨_, rfl⟩
  -- The Tide unit.
  case masterBoundary | tideInEdge | missedEdge | countFrame | tideBeacon | subTick | tideUnitStart =>
    dsimp only [exec_masterBoundary, exec_tideInEdge, exec_missedEdge, exec_countFrame, exec_tideBeacon, exec_subTick, exec_tideUnitStart,
      execMasterBoundary, execTideInEdge, execMissedEdge, execCountFrame, execTideBeacon, execSubTick, execTideUnitStart]
    repeat' split
    all_goals exact ⟨_, rfl⟩
  -- Changes and the upkeep of the index.
  case collectionStorageRelease | shoalRelease | slotSettle | indexAgeLimit | retiredReclaim | accession | deaccession | changeAtPrimary |
      changeHeldAccept | changeAtReplica | changeAcknowledgement | changeOutcome | replicaAckTimeout | intakeGiveUp | upkeepWindowOpen |
      upkeepWindowClose | shoalFillStream | fillComplete =>
    dsimp only [exec_collectionStorageRelease, exec_shoalRelease, exec_slotSettle, exec_indexAgeLimit, exec_retiredReclaim, exec_accession,
      exec_deaccession, exec_changeAtPrimary, exec_changeHeldAccept, exec_changeAtReplica, exec_changeAcknowledgement, exec_changeOutcome,
      exec_replicaAckTimeout, exec_intakeGiveUp, exec_upkeepWindowOpen, exec_upkeepWindowClose, exec_shoalFillStream, exec_fillComplete,
      execCollectionStorageRelease, execShoalRelease, execSlotSettle, execIndexAgeLimit, execRetiredReclaim, execAccession, execDeaccession,
      execChangeAtPrimary, execChangeHeldAccept, execChangeAtReplica, execChangeAcknowledgement, execChangeOutcome, execReplicaAckTimeout,
      execIntakeGiveUp, execUpkeepWindowOpen, execUpkeepWindowClose, execShoalFillStream, execFillComplete]
    repeat' split
    all_goals exact ⟨_, rfl⟩
  -- Queries.
  case fragmentRequest | fragmentReply | fragmentCutoff | fragmentComplete | queryDeadline | verifyReadDone =>
    dsimp only [exec_fragmentRequest, exec_fragmentReply, exec_fragmentCutoff, exec_fragmentComplete, exec_queryDeadline,
      exec_verifyReadDone, execFragmentRequest, execFragmentReply, execFragmentCutoff, execFragmentComplete, execQueryDeadline,
      execVerifyReadDone]
    repeat' split
    all_goals exact ⟨_, rfl⟩
  -- Memory.
  case holdTimeout | stackDemotion | shelfDemotion | pageMoveSwitch | sweepComplete =>
    dsimp only [exec_holdTimeout, exec_stackDemotion, exec_shelfDemotion, exec_pageMoveSwitch, exec_sweepComplete, execHoldTimeout,
      execStackDemotion, execShelfDemotion, execPageMoveSwitch, execSweepComplete]
    repeat' split
    all_goals exact ⟨_, rfl⟩
  -- Near-bank units.
  case nbSequenceStart | seqEnd | refreshVisit | neighbourRefresh | stackTempRead =>
    dsimp only [exec_nbSequenceStart, exec_seqEnd, exec_refreshVisit, exec_neighbourRefresh, exec_stackTempRead,
      execNbSequenceStart, execSeqEnd, execRefreshVisit, execNeighbourRefresh, execStackTempRead]
    repeat' split
    all_goals exact ⟨_, rfl⟩
  -- Graphs.
  case graphLoad | graphRun | graphUnload | unloadComplete | runHoldRelease | runDeadline | chunkFillDone | tideWaitRelease | attendCommand
      =>
    dsimp only [exec_graphLoad, exec_graphRun, exec_graphUnload, exec_unloadComplete, exec_runHoldRelease, exec_runDeadline,
      exec_chunkFillDone, exec_tideWaitRelease, exec_attendCommand, execGraphLoad, execGraphRun, execGraphUnload, execUnloadComplete,
      execRunHoldRelease, execRunDeadline, execChunkFillDone, execTideWaitRelease, execAttendCommand]
    repeat' split
    all_goals exact ⟨_, rfl⟩
  -- Tables.
  case tableStorageRelease | rowGet | rowUpdate | tablePutRows | tablePutCommit | tablePutWithdraw | putAnswerDeadline |
      tableUpdateSums | tableLoadReport | loadPeriod | migrationSwitch | hotRowRefresh | granuleFree | freshClear =>
    dsimp only [exec_tableStorageRelease, exec_rowGet, exec_rowUpdate, exec_tablePutRows, exec_tablePutCommit,
      exec_tablePutWithdraw, exec_putAnswerDeadline, exec_tableUpdateSums, exec_tableLoadReport, exec_loadPeriod, exec_migrationSwitch,
      exec_hotRowRefresh, exec_granuleFree, exec_freshClear, execTableStorageRelease, execRowGet, execRowUpdate,
      execTablePutRows, execTablePutCommit, execTablePutWithdraw, execPutAnswerDeadline, execTableUpdateSums, execTableLoadReport,
      execLoadPeriod, execMigrationSwitch, execHotRowRefresh, execGranuleFree, execFreshClear]
    repeat' split
    all_goals exact ⟨_, rfl⟩
  -- Berths.
  case create | parkDone | wakeReady | berthCommandRelease | autoPark | leaseRenewal | leaseExpiry | resolveRead | takeover | usageReport |
      checkpointInstalled =>
    dsimp only [exec_create, exec_parkDone, exec_wakeReady, exec_berthCommandRelease, exec_autoPark, exec_leaseRenewal, exec_leaseExpiry,
      exec_resolveRead, exec_takeover, exec_usageReport, exec_checkpointInstalled, execCreate, execParkDone, execWakeReady,
      execBerthCommandRelease, execAutoPark, execLeaseRenewal, execLeaseExpiry, execResolveRead, execTakeover, execUsageReport,
      execCheckpointInstalled]
    repeat' split
    all_goals exact ⟨_, rfl⟩
  -- Caches.
  case writeback | evictionNotice | invalidationAck | hostSnoop | bisnpResponse =>
    dsimp only [exec_writeback, exec_evictionNotice, exec_invalidationAck, exec_hostSnoop, exec_bisnpResponse, execWriteback,
      execEvictionNotice, execInvalidationAck, execHostSnoop, execBisnpResponse]
    repeat' split
    all_goals exact ⟨_, rfl⟩
  -- Ports.
  case signalDetect | equaliseDone | alignDone | hello | trainTimeout | downRetry | miswiredHelloRepeat | lanemap | laneSwitch | credit |
      ack | nak | egressSelect | histogramPeriod =>
    dsimp only [exec_signalDetect, exec_equaliseDone, exec_alignDone, exec_hello, exec_trainTimeout, exec_downRetry,
      exec_miswiredHelloRepeat, exec_lanemap, exec_laneSwitch, exec_credit, exec_ack, exec_nak, exec_egressSelect, exec_histogramPeriod,
      execSignalDetect, execEqualiseDone, execAlignDone, execHello, execTrainTimeout, execDownRetry, execMiswiredHelloRepeat, execLanemap,
      execLaneSwitch, execCredit, execAck, execNak, execEgressSelect, execHistogramPeriod]
    repeat' split
    all_goals exact ⟨_, rfl⟩
  -- Strand.
  case strandRead | strandWrite | strandAtomic | register | unregister | publish | invalidate => exact onRequest_completes ..
  case readResponse | writeResponse | atomicResponse | registerResponse | publishResponse =>
    dsimp only [exec_readResponse, exec_writeResponse, exec_atomicResponse, exec_registerResponse, exec_publishResponse, execReadResponse,
      execWriteResponse, execAtomicResponse, execRegisterResponse, execPublishResponse]
    exact onResponse_completes ..
  case frameReceived | messageSegment | messageReassemblyTimeout | invalidateResponse | messageResponse | readResend | strandGiveUp |
      atomicResend | atomicGiveUp | invalidateResend | publishGiveUp | replayEntryExpiry =>
    dsimp only [exec_frameReceived, exec_messageSegment, exec_messageReassemblyTimeout, exec_invalidateResponse, exec_messageResponse,
      exec_readResend, exec_strandGiveUp, exec_atomicResend, exec_atomicGiveUp, exec_invalidateResend, exec_publishGiveUp,
      exec_replayEntryExpiry, execFrameReceived, execMessageSegment, execMessageReassemblyTimeout, execInvalidateResponse,
      execMessageResponse, execReadResend, execStrandGiveUp, execAtomicResend, execAtomicGiveUp, execInvalidateResend, execPublishGiveUp,
      execReplayEntryExpiry]
    repeat' split
    all_goals exact ⟨_, rfl⟩
  -- Flash.
  case lunReadDispatch | flashReadDone | writeFlushTimer | flashProgramDone | blockErase | eraseDone | journalFlush |
      journalFlushDone | housekeepingWindowOpen | housekeepingWindowClose | urgentGc | urgentRelocation =>
    dsimp only [exec_lunReadDispatch, exec_flashReadDone, exec_writeFlushTimer, exec_flashProgramDone,
      exec_blockErase, exec_eraseDone, exec_journalFlush, exec_journalFlushDone, exec_housekeepingWindowOpen, exec_housekeepingWindowClose,
      exec_urgentGc, exec_urgentRelocation, execLunReadDispatch, execFlashReadDone, execWriteFlushTimer,
      execFlashProgramDone, execBlockErase, execEraseDone, execJournalFlush, execJournalFlushDone, execHousekeepingWindowOpen,
      execHousekeepingWindowClose, execUrgentGc, execUrgentRelocation]
    repeat' split
    all_goals exact ⟨_, rfl⟩
  -- Resets.
  case rebuildDone | resetAssert | resetNRise | releasePoint | watchdogExpiry | domainRelease | blockQuiesced |
      firmwareImageStarted =>
    dsimp only [exec_rebuildDone, exec_resetAssert, exec_resetNRise, exec_releasePoint, exec_watchdogExpiry, exec_domainRelease,
      exec_blockQuiesced, exec_firmwareImageStarted, execRebuildDone, execResetAssert, execResetNRise,
      execReleasePoint, execWatchdogExpiry, execDomainRelease, execBlockQuiesced, execFirmwareImageStarted]
    repeat' split
    all_goals exact ⟨_, rfl⟩
  -- The host interface.
  case readySet | hostDisableEffect | hostDrainLimit | queueEnable | queueDisable | queueDisableDone | sqTailDoorbell | cqHeadDoorbell |
      sqFetch | coalesceTimer | msixUnmask | linkTrained | hdmCommit | imageVerifyDone | imageWriteDone | doeDiscovery | cdat | spdm | ideKm
      =>
    dsimp only [exec_readySet, exec_hostDisableEffect, exec_hostDrainLimit, exec_queueEnable, exec_queueDisable, exec_queueDisableDone,
      exec_sqTailDoorbell, exec_cqHeadDoorbell, exec_sqFetch, exec_coalesceTimer, exec_msixUnmask, exec_linkTrained, exec_hdmCommit,
      exec_imageVerifyDone, exec_imageWriteDone, exec_doeDiscovery, exec_cdat, exec_spdm, exec_ideKm, execReadySet, execHostDisableEffect,
      execHostDrainLimit, execQueueEnable, execQueueDisable, execQueueDisableDone, execSqTailDoorbell, execCqHeadDoorbell, execSqFetch,
      execCoalesceTimer, execMsixUnmask, execLinkTrained, execHdmCommit, execImageVerifyDone, execImageWriteDone, execDoeDiscovery,
      execCdat, execSpdm, execIdeKm]
    repeat' split
    all_goals exact ⟨_, rfl⟩
  -- Faults.
  case selfTestEscalation | errorEvent | selfTestDone =>
    dsimp only [exec_selfTestEscalation, exec_errorEvent, exec_selfTestDone, execSelfTestEscalation, execErrorEvent, execSelfTestDone]
    repeat' split
    all_goals exact ⟨_, rfl⟩
  -- Power.
  case drainLimit | neapPowerOff | neapExitDone | slackEntry | railCurrentSample | marginSample | marginPeriod | cmisPoll | trngHealthFail |
      trngStartupDone =>
    dsimp only [exec_drainLimit, exec_neapPowerOff, exec_neapExitDone, exec_slackEntry, exec_railCurrentSample, exec_marginSample,
      exec_marginPeriod, exec_cmisPoll, exec_trngHealthFail, exec_trngStartupDone, execDrainLimit, execNeapPowerOff, execNeapExitDone,
      execSlackEntry, execRailCurrentSample, execMarginSample, execMarginPeriod, execCmisPoll, execTrngHealthFail, execTrngStartupDone]
    repeat' split
    all_goals exact ⟨_, rfl⟩

/-! Commands that name a raw address. -/

/-- An outcome is a next state, or under a condition a fault at some address. -/
def CompletesUnless (bad : Prop) (o : Result) : Prop := (∃ t, o = .next t) ∨ bad ∧ ∃ a, o = .fault (.noMemory a)

theorem CompletesUnless.next {bad : Prop} (t : State) : CompletesUnless bad (.next t) := .inl ⟨t, rfl⟩

theorem CompletesUnless.fault {bad : Prop} (h : bad) (a : Nat) : CompletesUnless bad (.fault (.noMemory a)) := .inr ⟨h, a, rfl⟩

theorem CompletesUnless.mono {bad worse : Prop} {o : Result} (h : CompletesUnless bad o) (hi : bad → worse) : CompletesUnless worse o :=
  h.imp_right (And.imp_left hi)

/-- The command names a range that is not in the memory map. -/
def NamesNoMemory (c : Instr) : Prop := ∃ p ∈ namedRanges c, validRange p.1 p.2 = false

theorem validRange_of_not_validAddr {a : Nat} (n : Nat) (h : validAddr a = false) : validRange a n = false := by
  simp [validRange, h]

theorem request_outcome (s : State) (q : CohReq) : CompletesUnless (validAddr (64 * q.line) = false) (request s q) := by
  unfold request
  rw [Nat.mul_comm q.line 64]
  split
  next h => exact .fault (by simpa using h) _
  next => split <;> exact .next _

/-- A request for a line whose range the command names. -/
theorem request_outcome_of_named {c : Instr} {q : CohReq} (s : State) (hr : namedRanges c = [(64 * q.line, 64)]) :
    CompletesUnless (NamesNoMemory c) (request s q) :=
  (request_outcome s q).mono fun hv => ⟨(64 * q.line, 64), by simp [hr], validRange_of_not_validAddr 64 hv⟩

theorem execNbSequenceIssue_outcome (d : Bytes) (s : State) :
    CompletesUnless (NamesNoMemory (.nbSequenceIssue d)) (execNbSequenceIssue d s) := by
  unfold execNbSequenceIssue
  dsimp only
  split
  · exact .next _
  split
  · exact .next _
  split
  next hlist => exact .fault ⟨_, List.mem_cons_self, by simpa using hlist⟩ _
  split
  next hcomp => exact .fault ⟨_, List.mem_cons_of_mem _ List.mem_cons_self, by simpa using hcomp⟩ _
  repeat' split
  all_goals exact .next _

theorem exec_outcome (c : Instr) (s : State) : CompletesUnless (NamesNoMemory c) (exec c s) := by
  by_cases h : namedRanges c = []
  · exact .inl (exec_completes h)
  unfold namedRanges at h
  split at h
  case h_10 => exact absurd rfl h
  case h_1 | h_2 | h_4 | h_5 => exact request_outcome_of_named s rfl
  case h_3 =>
    rw [exec_upgrade, execUpgrade]
    dsimp only
    split
    · split
      · exact .next _
      · exact request_outcome_of_named s rfl
    · exact request_outcome_of_named s rfl
  case h_6 =>
    rw [exec_cacheAtomic, execCacheAtomic]
    dsimp only
    split
    · exact request_outcome_of_named s rfl
    · split <;> exact .next _
  case h_7 =>
    rw [exec_firmwareWriteback, execFirmwareWriteback]
    split
    next hv => exact .fault ⟨_, List.mem_cons_self, by simpa using hv⟩ _
    next => split <;> exact .next _
  case h_8 =>
    rw [exec_firmwareInvalidate, execFirmwareInvalidate]
    split
    next hv => exact .fault ⟨_, List.mem_cons_self, by simpa using hv⟩ _
    next => split <;> exact .next _
  case h_9 d => exact execNbSequenceIssue_outcome d s

/-- Settles O5: a fault comes of a range that the command names, and only these commands name one. -/
theorem execNeverRefuses : Obligations.ExecNeverRefuses := by
  intro c s
  obtain ⟨t, hnext⟩ | ⟨⟨p, hp, -⟩, a, hfault⟩ := exec_outcome c s
  · rw [hnext]
    exact ⟨fun r h => (nomatch h), fun f h => (nomatch h)⟩
  · rw [hfault]
    refine ⟨fun r h => (nomatch h), fun f h => ⟨⟨a, by cases h; rfl⟩, ?_⟩⟩
    unfold namedRanges at hp
    split at hp
    case h_10 => exact absurd hp List.not_mem_nil
    all_goals simp

/-- Settles O55: where every range that the command names is valid it does not fault, and its frame names the queue. -/
theorem everyCommandCompletes : Obligations.EveryCommandCompletes := by
  intro c s hvalid
  obtain ⟨t, hnext⟩ | ⟨⟨p, hp, hinvalid⟩, -⟩ := exec_outcome c s
  · exact ⟨t, hnext, exec_keeps_pending hnext⟩
  · exact absurd (hvalid p hp) (by simp [hinvalid])

end Sys2Proof.Machine

/-!
Stack and shelf memory (08_memory_tiers.md R249, R250): the memory map, and reads after writes.
-/
namespace Sys2Proof.Machine

open Sys2Proof

/-- Settles O14: the three laws of `Cells.write`, by the laws of one byte's write along the bytes written. -/
theorem memoryReadsWhatWasWritten : Obligations.MemoryReadsWhatWasWritten := by
  intro m a bs hwf
  refine ⟨Cells.wf_write m a bs hwf, fun i hi => ?_, fun b hb => Cells.read_write_other m a b bs hb⟩
  rw [Cells.read_write m a i bs hwf hi, List.getD_eq_getElem _ _ hi]

theorem validAddr_iff (a : Nat) : validAddr a = true ↔ a < 0xA000000000 ∨ 0x10000000000 ≤ a ∧ a < 0x10400000000 := by
  simp only [validAddr, Bool.or_eq_true, Bool.and_eq_true, decide_eq_true_eq]
  rfl

/-- Settles O58: an address of the map gives its stack or its die by division, and each stack and each shelf lies within the bounds. -/
theorem memoryMapIsStacksAndShelves : Obligations.MemoryMapIsStacksAndShelves := by
  intro a
  rw [validAddr_iff]
  constructor
  · rintro (hstack | ⟨hlo, hhi⟩)
    · exact .inl ⟨a / 0x1400000000, by omega, by omega, by omega⟩
    · exact .inr ⟨(a - 0x10000000000) / 0x100000000, by omega, by omega, by omega⟩
  · rintro (⟨s, hs, hlo, hhi⟩ | ⟨d, hd, hlo, hhi⟩)
    · exact .inl (by omega)
    · exact .inr (by omega)

end Sys2Proof.Machine

/-!
The code and the cipher of stored lines (08_memory_tiers.md R251 to R254): a codeword of RS(72,66) has syndromes 0, because the check
bytes are the remainder of the division by the generator.
-/
namespace Sys2Proof.Machine.Ecc

open Sys2Proof

/-! Maps of bytes that keep sums and the product with α: every product with a constant is one, and where two of them agree at 1 they agree
(R252). -/

theorem two_mul_xor (a b : Nat) : 2 * (a ^^^ b) = 2 * a ^^^ 2 * b := by
  simpa [Nat.shiftLeft_eq, Nat.mul_comm] using @Nat.shiftLeft_xor_distrib 1 a b

/-- The reduction by the polynomial, by the highest bit of the byte. -/
theorem twice_eq {a : Nat} (h : a < 256) : twice a = 2 * a ^^^ (if a / 128 % 2 = 1 then 0x11D else 0) := by
  unfold twice
  by_cases ha : a < 128
  · rw [if_pos ha, if_neg (by omega), Nat.xor_zero]
  · rw [if_neg ha, if_pos (by omega)]

theorem twice_lt {a : Nat} (h : a < 256) : twice a < 256 := by
  unfold twice
  split
  next => omega
  next hlarge =>
    have hlt : 2 * a ^^^ 0x11D < 2 ^ 9 := Nat.xor_lt_two_pow (by omega) (by norm_num)
    have hhigh : (2 * a ^^^ 0x11D) / 256 = 2 * a / 256 ^^^ 1 := Nat.xor_div_two_pow (n := 8)
    rw [show 2 * a / 256 = 1 by omega, Nat.xor_self] at hhigh
    omega

theorem xor_lt {a b : Nat} (ha : a < 256) (hb : b < 256) : a ^^^ b < 256 := Nat.xor_lt_two_pow (n := 8) ha hb

theorem twice_xor {a b : Nat} (ha : a < 256) (hb : b < 256) : twice (a ^^^ b) = twice a ^^^ twice b := by
  have hbit : (a ^^^ b) / 128 % 2 = 1 ↔ ¬(a / 128 % 2 = 1 ↔ b / 128 % 2 = 1) := by
    rw [show (a ^^^ b) / 128 = a / 128 ^^^ b / 128 from Nat.xor_div_two_pow (n := 7)]
    exact Nat.xor_mod_two_eq_one
  have hreduce : (if (a ^^^ b) / 128 % 2 = 1 then 0x11D else 0)
      = (if a / 128 % 2 = 1 then 0x11D else 0) ^^^ (if b / 128 % 2 = 1 then 0x11D else 0) := by
    by_cases h1 : a / 128 % 2 = 1 <;> by_cases h2 : b / 128 % 2 = 1 <;> simp [hbit, h1, h2]
  rw [twice_eq ha, twice_eq hb, twice_eq (xor_lt ha hb), two_mul_xor, hreduce]
  ac_rfl

/-- A map of bytes that keeps sums and the product with α. -/
structure ByteLinear (f : Nat → Nat) : Prop where
  lt : ∀ a, a < 256 → f a < 256
  xor : ∀ a b, a < 256 → b < 256 → f (a ^^^ b) = f a ^^^ f b
  twice : ∀ a, a < 256 → f (twice a) = twice (f a)

namespace ByteLinear

variable {f g : Nat → Nat}

theorem id : ByteLinear fun a => a := ⟨fun _ h => h, fun _ _ _ _ => rfl, fun _ _ => rfl⟩

theorem zero : ByteLinear fun _ => 0 := ⟨fun _ _ => by decide, fun _ _ _ _ => rfl, fun _ _ => rfl⟩

theorem byTwice : ByteLinear Ecc.twice := ⟨fun _ => twice_lt, fun _ _ => twice_xor, fun _ _ => rfl⟩

theorem comp (hf : ByteLinear f) (hg : ByteLinear g) : ByteLinear fun a => f (g a) where
  lt a ha := hf.lt _ (hg.lt a ha)
  xor a b ha hb := by rw [hg.xor a b ha hb, hf.xor _ _ (hg.lt a ha) (hg.lt b hb)]
  twice a ha := by rw [hg.twice a ha, hf.twice _ (hg.lt a ha)]

theorem sum (hf : ByteLinear f) (hg : ByteLinear g) : ByteLinear fun a => f a ^^^ g a where
  lt a ha := xor_lt (hf.lt a ha) (hg.lt a ha)
  xor a b ha hb := by rw [hf.xor a b ha hb, hg.xor a b ha hb]; ac_rfl
  twice a ha := by rw [hf.twice a ha, hg.twice a ha, twice_xor (hf.lt a ha) (hg.lt a ha)]

theorem iterate (hf : ByteLinear f) (n : Nat) : ByteLinear f^[n] := by
  induction n with
  | zero => exact id
  | succ n ih => exact ih.comp hf

theorem map_zero (hf : ByteLinear f) : f 0 = 0 := by simpa using hf.xor 0 0 (by decide) (by decide)

theorem mulGo (n b : Nat) : ByteLinear fun a => mulGo n a b := by
  induction n generalizing b with
  | zero => exact zero
  | succ n ih =>
    have hlow : ByteLinear fun a => if b % 2 = 1 then a else 0 := by
      split
      · exact id
      · exact zero
    exact hlow.sum ((ih (b / 2)).comp byTwice)

theorem mul (b : Nat) : ByteLinear fun a => mul a b := mulGo 8 b

/-- A byte is the sum of its lowest bit and of twice the rest. -/
theorem lowBit_xor_twice {q : Nat} (hq : q < 256) : q % 2 ^^^ Ecc.twice (q / 2) = q := by
  rw [Ecc.twice, if_pos (by omega)]
  obtain h | h := Nat.mod_two_eq_zero_or_one q
  · rw [h, Nat.zero_xor]
    omega
  · rw [h, Nat.xor_comm, Nat.xor_one_of_even (even_two_mul _)]
    omega

theorem ext (hf : ByteLinear f) (hg : ByteLinear g) (h : f 1 = g 1) {q : Nat} (hq : q < 256) : f q = g q := by
  induction q using Nat.strong_induction_on with
  | _ q ih =>
    by_cases hzero : q = 0
    · rw [hzero, hf.map_zero, hg.map_zero]
    have hbit : f (q % 2) = g (q % 2) := by
      obtain hb | hb := Nat.mod_two_eq_zero_or_one q
      · rw [hb, hf.map_zero, hg.map_zero]
      · rw [hb, h]
    have hlow : q % 2 < 256 := by omega
    have hhalf : q / 2 < 256 := by omega
    rw [← lowBit_xor_twice hq, hf.xor _ _ hlow (twice_lt hhalf), hg.xor _ _ hlow (twice_lt hhalf), hf.twice _ hhalf, hg.twice _ hhalf,
      hbit, ih (q / 2) (by omega) hhalf]

end ByteLinear

/-! The value of a polynomial, highest degree first, where `T` is the product with the place. -/

def horner (T : Nat → Nat) (acc : Nat) (w : List Nat) : Nat := w.foldl (fun acc x => T acc ^^^ x) acc

def AllBytes (w : List Nat) : Prop := ∀ x ∈ w, x < 256

theorem AllBytes.cons_iff {x : Nat} {w : List Nat} : AllBytes (x :: w) ↔ x < 256 ∧ AllBytes w := List.forall_mem_cons

theorem syndrome_eq_horner (w : List Nat) (j : Nat) : syndrome w j = horner (fun a => mul a (alpha j)) 0 w := rfl

section
variable {T : Nat → Nat} (hT : ByteLinear T)
include hT

theorem horner_lt {acc : Nat} {w : List Nat} (ha : acc < 256) (hw : AllBytes w) : horner T acc w < 256 := by
  induction w generalizing acc with
  | nil => exact ha
  | cons x w ih =>
    obtain ⟨hx, hw⟩ := AllBytes.cons_iff.mp hw
    exact ih (xor_lt (hT.lt _ ha) hx) hw

theorem horner_zipWith_xor {a b : Nat} {u v : List Nat} (ha : a < 256) (hb : b < 256) (hu : AllBytes u) (hv : AllBytes v)
    (hlen : u.length = v.length) : horner T (a ^^^ b) (List.zipWith (· ^^^ ·) u v) = horner T a u ^^^ horner T b v := by
  induction u generalizing a b v with
  | nil =>
    obtain rfl := List.eq_nil_of_length_eq_zero hlen.symm
    rfl
  | cons x u ih =>
    cases v with
    | nil => cases hlen
    | cons y v =>
      obtain ⟨hx, hu⟩ := AllBytes.cons_iff.mp hu
      obtain ⟨hy, hv⟩ := AllBytes.cons_iff.mp hv
      have hstep : T (a ^^^ b) ^^^ (x ^^^ y) = T a ^^^ x ^^^ (T b ^^^ y) := by rw [hT.xor a b ha hb]; ac_rfl
      have hrest := ih (xor_lt (hT.lt a ha) hx) (xor_lt (hT.lt b hb) hy) hu hv (Nat.succ.inj hlen)
      rw [← hstep] at hrest
      exact hrest

theorem horner_of_start {a : Nat} {w : List Nat} (ha : a < 256) (hw : AllBytes w) :
    horner T a w = T^[w.length] a ^^^ horner T 0 w := by
  induction w generalizing a with
  | nil => exact (Nat.xor_zero a).symm
  | cons x w ih =>
    obtain ⟨hx, hw⟩ := AllBytes.cons_iff.mp hw
    have hlift : T^[w.length] (T a ^^^ x) = T^[w.length] (T a) ^^^ T^[w.length] x :=
      (hT.iterate _).xor _ _ (hT.lt a ha) hx
    calc horner T a (x :: w) = T^[w.length] (T a ^^^ x) ^^^ horner T 0 w := ih (xor_lt (hT.lt a ha) hx) hw
      _ = T^[w.length] (T a) ^^^ (T^[w.length] x ^^^ horner T 0 w) := by rw [hlift, Nat.xor_assoc]
      _ = T^[w.length + 1] a ^^^ horner T x w := by rw [← ih hx hw]; rfl
      _ = T^[w.length + 1] a ^^^ horner T 0 (x :: w) := by simp [horner, hT.map_zero]

theorem byteLinear_horner_map {f : Nat → Nat} (hf : ByteLinear f) (w : List Nat) :
    ByteLinear fun q => horner T (f q) (w.map (Ecc.mul q)) := by
  induction w generalizing f with
  | nil => exact hf
  | cons x w ih => exact ih ((hT.comp hf).sum (.mul x))

/-! The division by the generator, at a place where the generator is 0. -/

variable (hroot : horner T 0 (generator.map (mul 1)) = T^[6] 1)
include hroot

theorem horner_generator {q : Nat} (hq : q < 256) : horner T 0 (generator.map (mul q)) = T^[6] q :=
  (byteLinear_horner_map hT .zero generator).ext (hT.iterate 6) hroot hq

end

theorem generator_eq : generator = [63, 1, 218, 32, 227, 38] := by decide

theorem divStep_eq (rem : List Nat) (x : Nat) :
    divStep rem x = List.zipWith (· ^^^ ·) (rem.tail ++ [0]) (generator.map (mul (rem.headD 0 ^^^ x))) := by
  rw [List.zipWith_map_right, divStep, List.zip_eq_zipWith, List.map_zipWith]

theorem length_divStep {rem : List Nat} (x : Nat) (h : rem.length = 6) : (divStep rem x).length = 6 := by
  simp [divStep, h, generator_eq]

theorem allBytes_zipWith_xor {u v : List Nat} (hu : AllBytes u) (hv : AllBytes v) : AllBytes (List.zipWith (· ^^^ ·) u v) := by
  intro x hx
  obtain ⟨i, hi, rfl⟩ := List.mem_iff_getElem.mp hx
  rw [List.getElem_zipWith]
  exact xor_lt (hu _ (List.getElem_mem _)) (hv _ (List.getElem_mem _))

theorem allBytes_map_mul {q : Nat} (w : List Nat) (hq : q < 256) : AllBytes (w.map (mul q)) := by
  intro x hx
  obtain ⟨y, -, rfl⟩ := List.mem_map.mp hx
  exact (ByteLinear.mul y).lt q hq

theorem divStep_cons (r x : Nat) (rem : List Nat) :
    divStep (r :: rem) x = List.zipWith (· ^^^ ·) (rem ++ [0]) (generator.map (mul (r ^^^ x))) := divStep_eq (r :: rem) x

theorem AllBytes.append_zero {w : List Nat} (h : AllBytes w) : AllBytes (w ++ [0]) := by
  intro x hx
  obtain hx | hx := List.mem_append.mp hx
  · exact h x hx
  · rw [List.mem_singleton.mp hx]; decide

theorem allBytes_divStep {rem : List Nat} {x : Nat} (hrem : AllBytes rem) (hx : x < 256) : AllBytes (divStep rem x) := by
  have hhead : rem.headD 0 < 256 := by
    cases rem with
    | nil => decide
    | cons r rem => exact hrem r List.mem_cons_self
  have htail : AllBytes rem.tail := fun y hy => hrem y (List.mem_of_mem_tail hy)
  rw [divStep_eq]
  exact allBytes_zipWith_xor htail.append_zero (allBytes_map_mul _ (xor_lt hhead hx))

section
variable {T : Nat → Nat} (hT : ByteLinear T) (hroot : horner T 0 (generator.map (mul 1)) = T^[6] 1)
include hT hroot

theorem horner_divStep {rem : List Nat} {x : Nat} (hlen : rem.length = 6) (hrem : AllBytes rem) (hx : x < 256) :
    horner T 0 (divStep rem x) = T (horner T 0 rem) ^^^ T^[6] x := by
  cases rem with
  | nil => cases hlen
  | cons r rem =>
    obtain ⟨hr, hrem⟩ := AllBytes.cons_iff.mp hrem
    have hrest : horner T 0 rem < 256 := horner_lt hT (by decide) hrem
    have hlong : (rem ++ [0]).length = (generator.map (mul (r ^^^ x))).length := by
      rw [List.length_map, List.length_append]
      exact hlen
    have hdeg : rem.length = 5 := Nat.succ.inj hlen
    have hshift : horner T 0 (rem ++ [0]) = T (horner T 0 rem) := by simp [horner]
    have hsum : horner T 0 (List.zipWith (· ^^^ ·) (rem ++ [0]) (generator.map (mul (r ^^^ x))))
        = horner T 0 (rem ++ [0]) ^^^ horner T 0 (generator.map (mul (r ^^^ x))) :=
      horner_zipWith_xor hT (a := 0) (b := 0) (by decide) (by decide) hrem.append_zero (allBytes_map_mul _ (xor_lt hr hx)) hlong
    have hfirst : T (horner T 0 (r :: rem)) = T^[6] r ^^^ T (horner T 0 rem) := by
      have hstart : horner T 0 (r :: rem) = T^[5] r ^^^ horner T 0 rem := by
        rw [← hdeg, ← horner_of_start hT hr hrem]
        simp [horner, hT.map_zero]
      rw [hstart, hT.xor _ _ ((hT.iterate 5).lt r hr) hrest, ← Function.iterate_succ_apply' T 5 r]
    calc horner T 0 (divStep (r :: rem) x)
        = T (horner T 0 rem) ^^^ T^[6] (r ^^^ x) := by
          rw [divStep_cons, hsum, hshift, horner_generator hT hroot (xor_lt hr hx)]
      _ = T (horner T 0 (r :: rem)) ^^^ T^[6] x := by
          rw [(hT.iterate 6).xor r x hr hx, hfirst]
          ac_rfl

theorem horner_foldl_divStep {msg rem : List Nat} {a : Nat} (hmsg : AllBytes msg) (ha : a < 256) (hlen : rem.length = 6)
    (hrem : AllBytes rem) (h : horner T 0 rem = T^[6] a) : horner T 0 (msg.foldl divStep rem) = T^[6] (horner T a msg) := by
  induction msg generalizing rem a with
  | nil => exact h
  | cons x msg ih =>
    obtain ⟨hx, hmsg⟩ := AllBytes.cons_iff.mp hmsg
    refine ih hmsg (xor_lt (hT.lt a ha) hx) (length_divStep x hlen) (allBytes_divStep hrem hx) ?_
    rw [horner_divStep hT hroot hlen hrem hx, h, (hT.iterate 6).xor _ _ (hT.lt a ha) hx, ← Function.iterate_succ_apply' T 6 a,
      Function.iterate_succ_apply]

end

theorem length_check (msg : List Nat) : (check msg).length = 6 := by
  have h : ∀ rem : List Nat, rem.length = 6 → (msg.foldl divStep rem).length = 6 := by
    induction msg with
    | nil => exact fun _ h => h
    | cons x msg ih => exact fun rem h => ih _ (length_divStep x h)
  exact h _ List.length_replicate

theorem allBytes_foldl_divStep {msg rem : List Nat} (hmsg : AllBytes msg) (hrem : AllBytes rem) : AllBytes (msg.foldl divStep rem) := by
  induction msg generalizing rem with
  | nil => exact hrem
  | cons x msg ih =>
    obtain ⟨hx, hmsg⟩ := AllBytes.cons_iff.mp hmsg
    exact ih hmsg (allBytes_divStep hrem hx)

theorem divStep_zeros : divStep (List.replicate 6 0) 0 = List.replicate 6 0 := by
  simp [divStep, generator_eq, mul, mulGo, twice]

theorem check_zeros (n : Nat) : check (List.replicate n 0) = List.replicate 6 0 := by
  induction n with
  | zero => rfl
  | succ n ih => rwa [List.replicate_succ, check, List.foldl_cons, divStep_zeros]

/-- The generator is 0 at α^0 to α^5. -/
theorem generator_root : ∀ j < 6, horner (fun a => mul a (alpha j)) 0 (generator.map (mul 1)) = (fun a => mul a (alpha j))^[6] 1 := by
  intro j hj
  interval_cases j <;> simp [generator_eq, horner, mul, mulGo, twice, alpha]

theorem syndrome_encode {msg : List Nat} (hmsg : AllBytes msg) {j : Nat} (hj : j < 6) : syndrome (encode msg) j = 0 := by
  have hT : ByteLinear fun a => mul a (alpha j) := .mul (alpha j)
  have hzeros : AllBytes (List.replicate 6 0) := by unfold AllBytes; decide
  have hstart : horner (fun a => mul a (alpha j)) 0 (List.replicate 6 0) = (fun a => mul a (alpha j))^[6] 0 := by
    rw [(hT.iterate 6).map_zero]
    simp [horner, hT.map_zero]
  have hcheck : horner (fun a => mul a (alpha j)) 0 (check msg)
      = (fun a => mul a (alpha j))^[6] (horner (fun a => mul a (alpha j)) 0 msg) :=
    horner_foldl_divStep hT (generator_root j hj) hmsg (by decide) List.length_replicate hzeros hstart
  have hvalue : horner (fun a => mul a (alpha j)) 0 msg < 256 := horner_lt hT (by decide) hmsg
  have hbytes : AllBytes (check msg) := allBytes_foldl_divStep hmsg hzeros
  have happend : syndrome (encode msg) j = horner (fun a => mul a (alpha j)) (horner (fun a => mul a (alpha j)) 0 msg) (check msg) :=
    List.foldl_append
  rw [happend, horner_of_start hT hvalue hbytes, length_check, hcheck, Nat.xor_self]

end Sys2Proof.Machine.Ecc

namespace Sys2Proof.Machine.Aes

/-! Lengths: a key schedule has 15 round keys of 16 bytes, and a cipher keeps the length of whole blocks (R254). -/

@[simp] theorem length_toNats (b : Bytes) : (toNats b).length = b.length := List.length_map _

@[simp] theorem length_ofNats (l : List Nat) : (ofNats l).length = l.length := List.length_map _

@[simp] theorem length_xors (a b : List Nat) : (xors a b).length = min a.length b.length := by simp [xors]

@[simp] theorem length_parts (n k : Nat) (l : List Nat) : (parts n k l).length = k := by
  induction k generalizing l with
  | zero => rfl
  | succ k ih => simp [parts, ih]

theorem length_of_mem_parts {n k : Nat} {l p : List Nat} (hl : l.length = n * k) (hp : p ∈ parts n k l) : p.length = n := by
  induction k generalizing l with
  | zero => cases hp
  | succ k ih =>
    rw [Nat.mul_succ] at hl
    obtain rfl | hp := List.mem_cons.mp hp
    · rw [List.length_take]
      omega
    · exact ih (by rw [List.length_drop]; omega) hp

/-- Words of 4 bytes, 8 of them at least: what the schedule grows from. -/
def IsSchedule (ws : List (List Nat)) : Prop := 8 ≤ ws.length ∧ ∀ w ∈ ws, w.length = 4

theorem length_turn {last : List Nat} (i : Nat) (h : last.length = 4) : (turn i last).length = 4 := by
  unfold turn
  split
  · simp [h]
  · split <;> simp [h]

theorem IsSchedule.grow {ws : List (List Nat)} (h : IsSchedule ws) (i : Nat) :
    IsSchedule (xors (ws.getD 7 []) (turn i (ws.headD [])) :: ws) := by
  obtain ⟨hlen, hwords⟩ := h
  have hback : (ws.getD 7 []).length = 4 := by
    rw [List.getD_eq_getElem _ _ (by omega)]
    exact hwords _ (List.getElem_mem _)
  have hlast : (ws.headD []).length = 4 := by
    cases ws with
    | nil => cases hlen
    | cons w ws => exact hwords w List.mem_cons_self
  refine ⟨Nat.le_succ_of_le hlen, List.forall_mem_cons.mpr ⟨?_, hwords⟩⟩
  rw [length_xors, hback, length_turn i hlast, Nat.min_self]

theorem expandGo_isSchedule {ws : List (List Nat)} (n i : Nat) (h : IsSchedule ws) :
    IsSchedule (expandGo n i ws) ∧ (expandGo n i ws).length = n + ws.length := by
  induction n generalizing i ws with
  | zero => exact ⟨h, (Nat.zero_add _).symm⟩
  | succ n ih =>
    obtain ⟨hs, hlen⟩ := ih (i + 1) (h.grow i)
    refine ⟨hs, hlen.trans ?_⟩
    rw [List.length_cons]
    omega

theorem length_roundKey {key : List Nat} (h : key.length = 32) : ((roundKeys key).getD 14 []).length = 16 := by
  have hwords : IsSchedule (parts 4 8 key).reverse :=
    ⟨by simp, fun w hw => length_of_mem_parts (by rw [h]) (List.mem_reverse.mp hw)⟩
  obtain ⟨⟨-, hfour⟩, hlen⟩ := expandGo_isSchedule 52 8 hwords
  have hbytes : ((expandGo 52 8 (parts 4 8 key).reverse).reverse).flatten.length = 16 * 15 := by
    rw [List.length_flatten, List.map_congr_left (g := fun _ => 4) fun w hw => hfour w (List.mem_reverse.mp hw)]
    simp [hlen]
  have hkeys : (roundKeys key).length = 15 := length_parts ..
  rw [List.getD_eq_getElem _ _ (by omega)]
  exact length_of_mem_parts hbytes (List.getElem_mem _)

@[simp] theorem length_encrypt {ks : List (List Nat)} (block : List Nat) (h : (ks.getD 14 []).length = 16) :
    (encrypt ks block).length = 16 := by
  rw [encrypt, length_xors, h]
  simp [shiftRows]

theorem length_xtsEncrypt (key : BitVec 512) (tweak first : Nat) {data : Bytes} {n : Nat} (h : data.length = 16 * n) :
    (xtsEncrypt key tweak first data).length = 16 * n := by
  have hkey : ((toNats (leBytes 64 key.toNat)).take 32).length = 32 := by simp
  have hblocks : data.length / 16 = n := by omega
  rw [xtsEncrypt, xts, length_ofNats, List.length_flatMap, List.map_congr_left (g := fun _ => 16)]
  · simp [hblocks]
    omega
  · intro q hq
    simp [length_encrypt _ (length_roundKey hkey)]

theorem allBytes_toNats (b : Bytes) : Ecc.AllBytes (toNats b) := by
  intro x hx
  obtain ⟨y, -, rfl⟩ := List.mem_map.mp hx
  exact y.isLt

end Sys2Proof.Machine.Aes

namespace Sys2Proof.Machine

open Sys2Proof

/-! Stored lines (R251 to R254). -/

theorem length_lineCipher (s : State) (n : Nat) (t : Option (Nat × Bool)) (b : Bytes) : (lineCipher s n t b).length = 64 := by
  unfold lineCipher
  split
  · exact List.length_replicate
  · exact Aes.length_xtsEncrypt _ _ _ (n := 4) (length_padTo 64 b)

theorem syndrome_lineWord (s : State) (n : Nat) (t : Option (Nat × Bool)) (b : Bytes) {j : Nat} (hj : j < 6) :
    Ecc.syndrome (lineWord s n t b) j = 0 := Ecc.syndrome_encode (Aes.allBytes_toNats _) hj

/-- The 66 bytes that the check bytes cover. -/
theorem length_lineMessage (s : State) (n : Nat) (t : Option (Nat × Bool)) (b : Bytes) :
    (Aes.toNats (lineCipher s n t b ++ leBytes 2 (metaWord t))).length = 66 := by
  simp [length_lineCipher]

theorem storedLine_isLineWord (s : State) (n : Nat) : ∃ t b, storedLine s n = lineWord s n t b := by
  unfold storedLine
  split <;> exact ⟨_, _, rfl⟩

theorem decode_of_syndromes_zero {w : List Nat} (h : ∀ j, j < 6 → Ecc.syndrome w j = 0) : Ecc.decode w = some w := by
  have hall : (Ecc.syndromes w).all (· == 0) = true := by
    simp only [Ecc.syndromes, List.all_map, List.all_eq_true, List.mem_range, Function.comp_apply, beq_iff_eq]
    exact h
  simp [Ecc.decode, hall]

theorem checkLine_of_no_errors {s : State} {n : Nat} (h : s.mem.cellErrors.lookup n = none) : checkLine s n = .same := by
  obtain ⟨t, b, hline⟩ := storedLine_isLineWord s n
  have hcells : cellLine s n = storedLine s n := by simp [cellLine, h]
  have hdecode : Ecc.decode (storedLine s n) = some (storedLine s n) :=
    decode_of_syndromes_zero fun j hj => by rw [hline, syndrome_lineWord s n t b hj]
  simp [checkLine, hcells, hdecode]

/-- Settles O56: the check bytes are the remainder by the generator, which is 0 at the places of the syndromes. -/
theorem storedLinesAreCodewords : Obligations.StoredLinesAreCodewords := by
  refine ⟨fun s n t b => ⟨?_, ?_, fun j hj => syndrome_lineWord s n t b hj⟩, fun s n b => ?_, fun s n => checkLine_of_no_errors,
    fun s n w hw => ?_⟩
  · rw [lineWord, Ecc.encode, List.length_append, length_lineMessage, Ecc.length_check]
  · rw [lineWord, Ecc.encode, List.take_left' (length_lineMessage s n t b)]
    rfl
  · have hzeros : Aes.toNats (lineCipher s n none b ++ leBytes 2 (metaWord none)) = List.replicate 66 0 := rfl
    rw [lineWord, Ecc.encode, hzeros, Ecc.check_zeros, List.replicate_append_replicate]
  · have hreserved : 3 ≤ (w.getD 64 0 + 256 * w.getD 65 0) / 4096 := by omega
    rw [readWord, if_neg (by omega), if_pos hreserved]

end Sys2Proof.Machine

/-!
Lines as the node's agents see them (08_memory_tiers.md R257, R262, R274, 12_coherence.md R402 to R406): what a write of an agent gives
its bytes, and what stores, evictions, touches and moves leave of every other line.
-/
namespace Sys2Proof.Machine

open Sys2Proof

/-! Lines of memory (R250, R257): a store to a line gives it its bytes and owner, and leaves every other line alone. -/

theorem Mem.tag_putTag (t : LineTag) (l : List LineTag) (n : Nat) :
    (Mem.putTag t l).find? (fun x => x.line == n) = if t.line = n then some t else l.find? fun x => x.line == n := by
  induction l with
  | nil => by_cases h : t.line = n <;> simp [Mem.putTag, h]
  | cons x r ih =>
    unfold Mem.putTag
    split
    · by_cases h : t.line = n <;> simp [h]
    · split
      next he =>
        rw [List.find?_cons, List.find?_cons, ← he]
        by_cases h : t.line = n
        · simp [h]
        · have hb : (t.line == n) = false := by simpa using h
          rw [hb, if_neg h]
      next hne =>
        rw [List.find?_cons, ih, List.find?_cons]
        by_cases h : t.line = n
        · have hx : (x.line == n) = false := by simpa [← h] using fun hxt => hne hxt.symm
          simp [h, hx]
        · simp [h]

theorem Mem.tag_dropTag (m n : Nat) (l : List LineTag) :
    (Mem.dropTag m l).find? (fun x => x.line == n) = if m = n then none else l.find? fun x => x.line == n := by
  split
  next h => exact List.find?_eq_none.mpr fun x hx => by simpa [h] using (List.mem_filter.mp hx).2
  next h =>
    rw [Mem.dropTag, List.find?_filter]
    congr 1
    funext x
    by_cases hx : x.line = n <;> simp [hx, Ne.symm h]

theorem Mem.tag_setLine (m : MemUnit) (line n : Nat) (o : Option (Nat × Bool)) (d : Bytes) :
    Mem.tag (Mem.setLine m line o d) n = if line = n then o.map (fun q => ⟨line, q.1, q.2⟩) else Mem.tag m n := by
  cases o with
  | none => exact Mem.tag_dropTag line n m.tags
  | some q => exact Mem.tag_putTag ⟨line, q.1, q.2⟩ m.tags n

/-- The bytes that a store puts into a line. -/
def storedBytes (o : Option (Nat × Bool)) (d : Bytes) : Bytes := if o.isSome then padTo 64 d else List.replicate 64 0

theorem length_storedBytes (o : Option (Nat × Bool)) (d : Bytes) : (storedBytes o d).length = 64 := by
  unfold storedBytes
  split
  · exact length_padTo 64 d
  · exact List.length_replicate

theorem Mem.setLine_cells (m : MemUnit) (line : Nat) (o : Option (Nat × Bool)) (d : Bytes) :
    (Mem.setLine m line o d).cells = Cells.write m.cells (line * 64) (storedBytes o d) := by
  unfold Mem.setLine storedBytes
  cases o with
  | none => dsimp only [Mem.mend, Option.isSome_none]; rw [if_neg (by decide)]
  | some q => dsimp only [Mem.mend, Option.isSome_some]; rw [if_pos rfl]

@[simp] theorem Mem.setLine_pages (m : MemUnit) (line : Nat) (o : Option (Nat × Bool)) (d : Bytes) :
    (Mem.setLine m line o d).pages = m.pages := by
  unfold Mem.setLine
  split <;> dsimp only [Mem.mend]

@[simp] theorem Mem.setLine_moves (m : MemUnit) (line : Nat) (o : Option (Nat × Bool)) (d : Bytes) :
    (Mem.setLine m line o d).moves = m.moves := by
  unfold Mem.setLine
  split <;> dsimp only [Mem.mend]

@[simp] theorem Mem.setLine_blank (m : MemUnit) (line : Nat) (o : Option (Nat × Bool)) (d : Bytes) :
    (Mem.setLine m line o d).blank = m.blank := by
  unfold Mem.setLine
  split <;> dsimp only [Mem.mend]

theorem Mem.line_setLine_same {m : MemUnit} (line : Nat) (o : Option (Nat × Bool)) (d : Bytes) (h : Cells.wf m.cells = true) :
    Mem.line (Mem.setLine m line o d) line = storedBytes o d := by
  have hlen := length_storedBytes o d
  refine List.ext_getElem (by simp [Mem.line, Cells.reads, hlen]) fun i hi hj => ?_
  simp only [Mem.line, Cells.reads, List.getElem_map, List.getElem_range, Mem.setLine_cells]
  exact Cells.read_write m.cells (line * 64) i _ h hj

theorem Mem.line_setLine_of_ne (m : MemUnit) {line n : Nat} (o : Option (Nat × Bool)) (d : Bytes) (h : line ≠ n) :
    Mem.line (Mem.setLine m line o d) n = Mem.line m n := by
  have hlen := length_storedBytes o d
  unfold Mem.line Cells.reads
  refine List.map_congr_left fun i hi => ?_
  have hi : i < 64 := List.mem_range.mp hi
  rw [Mem.setLine_cells]
  exact Cells.read_write_other _ _ _ _ (by omega)

/-! Where structures of the index lie, and what bytes they have there, the index and the Catalogue say. -/

theorem treeLine_congr {s t : State} (hidx : t.idx = s.idx) (hcfg : ∀ k, k ≠ Ent.cancelledMoves → t.cfg k = s.cfg k) (n : Nat) :
    t.treeLine n = s.treeLine n := by
  have hpq (c : Nat) : t.cfg (Ent.collPqBytes c) = s.cfg (Ent.collPqBytes c) :=
    hcfg (Ent.collPqBytes c) (by unfold Ent.collPqBytes Ent.cancelledMoves; omega)
  have hmetric (c : Nat) : t.cfg (Ent.collMetric c) = s.cfg (Ent.collMetric c) :=
    hcfg (Ent.collMetric c) (by unfold Ent.collMetric Ent.cancelledMoves; omega)
  have hdim (c : Nat) : t.cfg (Ent.collDimension c) = s.cfg (Ent.collDimension c) :=
    hcfg (Ent.collDimension c) (by unfold Ent.collDimension Ent.cancelledMoves; omega)
  have hsize : t.treeSize = s.treeSize := by
    funext p
    cases p with
    | leaf l => rw [State.treeSize, State.treeSize, hpq]
    | node d => rw [State.treeSize, State.treeSize, hmetric, hdim]
  have hbyte : t.treeByte = s.treeByte := by
    funext p o
    cases p with
    | leaf l => rw [State.treeByte, State.treeByte, hidx, hpq]
    | node d => rw [State.treeByte, State.treeByte, hidx, hmetric, hdim]
  rw [State.treeLine, State.treeLine, State.treePart, State.treePart, hidx, hsize, hbyte]

theorem treeLine_of_units {s t : State} (hidx : t.idx = s.idx) (hcat : t.cat = s.cat) (n : Nat) : t.treeLine n = s.treeLine n :=
  treeLine_congr hidx (fun k _ => by rw [State.cfg, State.cfg, hcat]) n

/-! What a line supplies (R403), and which steps leave it. -/

/-- Two states agree on what the supplier of line `n` depends on. -/
structure SameLine (s t : State) (n : Nat) : Prop where
  holder : ∀ d, Coh.holder t.coh n d = Coh.holder s.coh n d
  slice : Coh.inSlice t.coh n = Coh.inSlice s.coh n
  owner : (Mem.tag t.mem n).map (·.owner) = (Mem.tag s.mem n).map (·.owner)
  data : Mem.line t.mem n = Mem.line s.mem n
  blank : t.mem.blank = s.mem.blank
  tree : t.treeLine n = s.treeLine n

namespace SameLine

variable {s t u : State} {n : Nat}

theorem refl (s : State) (n : Nat) : SameLine s s n := ⟨fun _ => rfl, rfl, rfl, rfl, rfl, rfl⟩

theorem trans (h : SameLine s t n) (g : SameLine t u n) : SameLine s u n :=
  ⟨fun d => (g.holder d).trans (h.holder d), g.slice.trans h.slice, g.owner.trans h.owner, g.data.trans h.data, g.blank.trans h.blank,
    g.tree.trans h.tree⟩

/-- States that differ outside memory, caches, index and Catalogue. -/
theorem of_units (hcoh : t.coh = s.coh) (hmem : t.mem = s.mem) (hidx : t.idx = s.idx) (hcat : t.cat = s.cat) (n : Nat) : SameLine s t n :=
  ⟨fun _ => by rw [hcoh], by rw [hcoh], by rw [hmem], by rw [hmem], by rw [hmem], treeLine_of_units hidx hcat n⟩

end SameLine

namespace Coh

variable {s t : State} {n : Nat}

theorem memLine_eq (s : State) (n : Nat) : memLine s n = match (Mem.tag s.mem n).map (·.owner), s.treeLine n with
    | some o, _ => (Mem.line s.mem n, some o)
    | none, some b => if s.mem.blank.contains n then (Mem.line s.mem n, none) else (b, some 0)
    | none, none => (Mem.line s.mem n, none) := by
  unfold memLine
  cases Mem.tag s.mem n <;> cases s.treeLine n <;> rfl

theorem current_eq (s : State) (n : Nat) (x : Bytes × Option Nat) : current s n x =
    match (Mem.tag s.mem n).map (·.owner), s.treeLine n with
    | none, some b => if s.mem.blank.contains n then x else (b, some 0)
    | _, _ => x := by
  unfold current
  cases Mem.tag s.mem n <;> cases s.treeLine n <;> rfl

theorem supply_congr (h : SameLine s t n) : supply t n = supply s n := by
  have hmem : memLine t n = memLine s n := by rw [memLine_eq, memLine_eq, h.owner, h.data, h.blank, h.tree]
  have hcurrent (x : Bytes × Option Nat) : current t n x = current s n x := by
    rw [current_eq, current_eq, h.owner, h.blank, h.tree]
  simp only [supply, h.holder, h.slice, hmem, hcurrent]

/-! Stores. -/

theorem store_sameLine (s : State) {line n : Nat} (tag : Option Nat) (d : Bytes) (h : line ≠ n) : SameLine s (store s line tag d) n where
  holder _ := rfl
  slice := rfl
  owner := by rw [store, Mem.tag_setLine, if_neg h]
  data := Mem.line_setLine_of_ne s.mem _ d h
  blank := Mem.setLine_blank ..
  tree := treeLine_of_units rfl rfl n

theorem store_owner (s : State) (n : Nat) (tag : Option Nat) (d : Bytes) : (Mem.tag (store s n tag d).mem n).map (·.owner) = tag := by
  rw [store, Mem.tag_setLine, if_pos rfl]
  cases tag <;> rfl

theorem store_data {s : State} (n : Nat) (tag : Option Nat) (d : Bytes) (hm : MemOk s) :
    Mem.line (store s n tag d).mem n = if tag.isSome then padTo 64 d else List.replicate 64 0 := by
  rw [store, Mem.line_setLine_same n _ d hm, storedBytes]
  cases tag <;> rfl

theorem inSlice_filter_ne (l : List SliceLine) {line n : Nat} (h : line ≠ n) :
    (l.filter fun y => y.line != line).find? (fun y => y.line == n) = l.find? fun y => y.line == n := by
  rw [List.find?_filter]
  congr 1
  funext y
  by_cases hy : y.line = n <;> simp [hy, Ne.symm h]

theorem inSlice_filter_same (l : List SliceLine) (n : Nat) : (l.filter fun y => y.line != n).find? (fun y => y.line == n) = none :=
  List.find?_eq_none.mpr fun y hy => by simpa using (List.mem_filter.mp hy).2

/-! Evictions. -/

theorem evict_of_none {line : Nat} (h : inSlice s.coh line = none) : evict s line = s := by
  unfold evict
  rw [h]

/-- What an eviction of a line that the slice holds leaves, but for the slice's entry. -/
def written (s : State) (x : SliceLine) (line : Nat) : State := if x.dirty then store s line x.tag x.data else s

theorem evict_of_some {line : Nat} {x : SliceLine} (h : inSlice s.coh line = some x) :
    evict s line = { written s x line with coh := { s.coh with slice := s.coh.slice.filter fun y => y.line != line } } := by
  unfold evict written
  rw [h]
  dsimp only
  split <;> rfl

theorem written_sameLine (s : State) (x : SliceLine) {line : Nat} (h : line ≠ n) : SameLine s (written s x line) n := by
  unfold written
  split
  · exact store_sameLine s _ _ h
  · exact .refl s n

theorem evict_sameLine (s : State) {line : Nat} (h : line ≠ n) : SameLine s (evict s line) n := by
  cases hx : inSlice s.coh line with
  | none => rw [evict_of_none hx]; exact .refl s n
  | some x =>
    have hw := written_sameLine s x h
    rw [evict_of_some hx]
    exact ⟨fun _ => rfl, inSlice_filter_ne _ h, hw.owner, hw.data, hw.blank, hw.tree⟩

@[simp] theorem inSlice_evict_same (s : State) (line : Nat) : inSlice (evict s line).coh line = none := by
  cases hx : inSlice s.coh line with
  | none => rw [evict_of_none hx, hx]
  | some x => rw [evict_of_some hx]; exact inSlice_filter_same _ line

theorem evict_congr (h : SameLine s t n) (hs : MemOk s) (ht : MemOk t) : SameLine (evict s n) (evict t n) n := by
  cases hx : inSlice s.coh n with
  | none => rwa [evict_of_none hx, evict_of_none (h.slice.trans hx)]
  | some x =>
    rw [evict_of_some hx, evict_of_some (h.slice.trans hx)]
    have hw : SameLine (written s x n) (written t x n) n := by
      unfold written
      split
      · exact ⟨h.holder, h.slice, by rw [store_owner, store_owner], by rw [store_data n _ _ hs, store_data n _ _ ht],
          (Mem.setLine_blank ..).trans (h.blank.trans (Mem.setLine_blank ..).symm),
          (treeLine_of_units rfl rfl n).trans (h.tree.trans (treeLine_of_units rfl rfl n).symm)⟩
      · exact h
    exact ⟨h.holder, (inSlice_filter_same _ n).trans (inSlice_filter_same _ n).symm, hw.owner, hw.data, hw.blank, hw.tree⟩

/-- What making room in a slice can do: nothing, or the eviction of one line; a free value may have been drawn. -/
theorem makeWay_cases (s : State) (line : Nat) :
    makeWay s line = s ∨ makeWay s line = s.drawFree.2 ∨ ∃ m, makeWay s line = evict s.drawFree.2 m := by
  unfold makeWay
  dsimp only
  split
  · exact .inl rfl
  · split
    · exact .inl rfl
    · split
      · exact .inr (.inr ⟨_, rfl⟩)
      · exact .inr (.inl rfl)

end Coh

/-! A line as the agents see it, and that it stays so when a slice evicts it. -/

/-- The 64 bytes and the owner that the supplier of a line gives. -/
def lineSeen (s : State) (n : Nat) : Bytes × Option Nat := (padTo 64 (Coh.supply s n).1, (Coh.supply s n).2)

theorem byteSeen_eq (s : State) (a : Nat) : byteSeen s a = (lineSeen s (lineOf a)).1.getD (a % 64) 0 := rfl

theorem evictKeeps_iff (s : State) (n : Nat) : evictKeeps s n ↔ lineSeen (Coh.evict s n) n = lineSeen s n := by
  rw [evictKeeps, lineSeen, lineSeen, Prod.mk.injEq]

theorem lineSeen_congr {s t : State} {n : Nat} (h : SameLine s t n) : lineSeen t n = lineSeen s n := by
  rw [lineSeen, lineSeen, Coh.supply_congr h]

/-- In canonical memory the line is seen as `v`, and an eviction leaves it so. -/
structure Holds (s : State) (n : Nat) (v : Bytes × Option Nat) : Prop where
  ok : MemOk s
  seen : lineSeen s n = v
  keeps : evictKeeps s n

namespace Holds

variable {s t : State} {n : Nat} {v : Bytes × Option Nat}

theorem of_same (h : Holds s n v) (hsame : SameLine s t n) (ht : MemOk t) : Holds t n v where
  ok := ht
  seen := (lineSeen_congr hsame).trans h.seen
  keeps := by
    have hkeeps := (evictKeeps_iff s n).mp h.keeps
    rw [evictKeeps_iff, lineSeen_congr (Coh.evict_congr hsame h.ok ht), hkeeps, lineSeen_congr hsame]

/-- A line that its slice does not hold. -/
theorem of_no_slice (hm : MemOk s) (hseen : lineSeen s n = v) (hslice : Coh.inSlice s.coh n = none) : Holds s n v :=
  ⟨hm, hseen, by rw [evictKeeps_iff, Coh.evict_of_none hslice]⟩

theorem evict (h : Holds s n v) (line : Nat) : Holds (Coh.evict s line) n v := by
  have hm : MemOk (Coh.evict s line) := Coh.evict_wf s line h.ok
  by_cases hl : line = n
  · subst hl
    exact of_no_slice hm (((evictKeeps_iff s line).mp h.keeps).trans h.seen) (Coh.inSlice_evict_same s line)
  · exact h.of_same (Coh.evict_sameLine s hl) hm

theorem drawFree (h : Holds s n v) : Holds s.drawFree.2 n v := h.of_same (.of_units (s := s) (t := s.drawFree.2) rfl rfl rfl rfl n) h.ok

theorem makeWay (h : Holds s n v) (line : Nat) : Holds (Coh.makeWay s line) n v := by
  obtain hw | hw | ⟨m, hw⟩ := Coh.makeWay_cases s line
  · rwa [hw]
  · rw [hw]; exact h.drawFree
  · rw [hw]; exact h.drawFree.evict m

theorem fill (h : Holds s n v) {x : SliceLine} (hx : x.line ≠ n) : Holds (Coh.fill s x) n v := by
  have hw := h.makeWay x.line
  refine hw.of_same ⟨fun _ => rfl, ?_, rfl, rfl, rfl, treeLine_of_units rfl rfl n⟩ (Coh.fill_wf s x h.ok)
  simp [Coh.fill, Coh.inSlice, List.find?_append, Coh.inSlice_filter_ne _ hx, hx]

theorem store (h : Holds s n v) {line : Nat} (tag : Option Nat) (d : Bytes) (hl : line ≠ n) : Holds (Coh.store s line tag d) n v :=
  h.of_same (Coh.store_sameLine s tag d hl) (Coh.store_wf s line tag d h.ok)

theorem dropLine (h : Holds s n v) {line : Nat} (hl : line ≠ n) : Holds { s with coh := Coh.dropLine s.coh line } n v := by
  refine h.of_same ⟨fun d => ?_, Coh.inSlice_filter_ne _ hl, rfl, rfl, rfl, treeLine_of_units rfl rfl n⟩ h.ok
  unfold Coh.holder Coh.dropLine
  rw [List.find?_filter]
  congr 1
  funext y
  by_cases hy : y.line = n
  · have hyl : (y.line != line) = true := by simpa [hy] using Ne.symm hl
    simp only [hyl, true_and, Bool.decide_eq_true]
  · simp [hy]

end Holds

/-! A touch (R262, R275): the page's mark, and the end of a move to flash. -/

/-- What a touch of a page can leave of memory, the Catalogue and the caches. -/
theorem touch_cases (s : State) (id : PageId) :
    (touch s id).coh = s.coh ∧ (touch s id).idx = s.idx ∧ (∀ k, k ≠ Ent.cancelledMoves → (touch s id).cfg k = s.cfg k) ∧
      ∃ pages moves, (touch s id).mem = { s.mem with pages := pages, moves := moves } := by
  unfold touch
  dsimp only
  split
  next v _ =>
    split
    next hf =>
      refine ⟨?_, ?_, fun k hk => ?_, ?_⟩
      · simp [cancelMove, hf]
      · simp [cancelMove, hf]
      · rw [State.bump, State.cfg_setNum_of_ne _ _ hk]
        simp [cancelMove, hf, State.cfg]
      · exact ⟨_, _, by simp [cancelMove, hf, Mem.mapPage]; exact ⟨rfl, rfl⟩⟩
    next => exact ⟨rfl, rfl, fun _ _ => rfl, _, _, rfl⟩
  next => exact ⟨rfl, rfl, fun _ _ => rfl, _, _, rfl⟩

theorem touchAddr_sameLine (s : State) (a n : Nat) : SameLine s (touchAddr s a) n := by
  unfold touchAddr
  split
  next p _ =>
    obtain ⟨hcoh, hidx, hcfg, pages, moves, hmem⟩ := touch_cases s p.id
    exact ⟨fun _ => by rw [hcoh], by rw [hcoh], by rw [hmem]; rfl, by rw [hmem]; rfl, by rw [hmem], treeLine_congr hidx hcfg n⟩
  next => exact .refl s n

/-! The moves of pages to stack and shelf memory, which the writes to lines leave but for their marks (R274). -/

theorem mirrorOf_eq (s : State) (n : Nat) :
    mirrorOf s n = ((Coh.moveOf s n).map (·.to_)).bind fun d => (Mem.Tier.addr d).map fun b => lineOf b + n % 1024 := by
  rw [mirrorOf, Option.bind_map]
  rfl

/-- The two states move the same pages to the same places in memory. -/
def SameMoves (s t : State) : Prop := ∀ n, (Coh.moveOf t n).map (·.to_) = (Coh.moveOf s n).map (·.to_)

namespace SameMoves

variable {s t u : State}

theorem refl (s : State) : SameMoves s s := fun _ => rfl

theorem trans (h : SameMoves s t) (g : SameMoves t u) : SameMoves s u := fun n => (g n).trans (h n)

theorem of_mem (hpages : t.mem.pages = s.mem.pages) (hmoves : t.mem.moves = s.mem.moves) : SameMoves s t := fun n => by
  simp only [Coh.moveOf, Mem.pageAt, Mem.move, hpages, hmoves]

theorem mirrorOf (h : SameMoves s t) (n : Nat) : mirrorOf t n = mirrorOf s n := by
  rw [mirrorOf_eq, mirrorOf_eq, h n]

theorem touchAddr (s : State) (a : Nat) : SameMoves s (touchAddr s a) := fun n => by rw [Coh.moveOf_touchAddr]

theorem fill (s : State) (x : SliceLine) : SameMoves s (Coh.fill s x) := by
  have hevict (s : State) (m : Nat) : (Coh.evict s m).mem.pages = s.mem.pages ∧ (Coh.evict s m).mem.moves = s.mem.moves := by
    cases hx : Coh.inSlice s.coh m with
    | none => rw [Coh.evict_of_none hx]; exact ⟨rfl, rfl⟩
    | some y =>
      rw [Coh.evict_of_some hx, Coh.written]
      split
      · exact ⟨Mem.setLine_pages .., Mem.setLine_moves ..⟩
      · exact ⟨rfl, rfl⟩
  have hway : (Coh.makeWay s x.line).mem.pages = s.mem.pages ∧ (Coh.makeWay s x.line).mem.moves = s.mem.moves := by
    obtain hw | hw | ⟨m, hw⟩ := Coh.makeWay_cases s x.line
    · rw [hw]; exact ⟨rfl, rfl⟩
    · rw [hw]; exact ⟨rfl, rfl⟩
    · rw [hw]; exact hevict s.drawFree.2 m
  exact of_mem hway.1 hway.2

end SameMoves

namespace Coh

/-- What a store to a moving page does beyond the store to its line: the line of the destination, and the mark of the move. -/
theorem storeMoving_mem (s : State) (v : Move) (line : Nat) (tag : Option Nat) (d : Bytes) :
    ∃ (m : MemUnit) (marked : Move → Move), (∀ x, (marked x).id = x.id ∧ (marked x).to_ = x.to_) ∧
      (storeMoving s v line tag d).mem = { m with moves := m.moves.map marked } ∧
      (m = (store s line tag d).mem ∨ ∃ n o, ((Mem.Tier.addr v.to_).map fun b => lineOf b + line % 1024) = some n ∧
        m = Mem.setLine (store s line tag d).mem n o d) := by
  have hmarked (x : Move) : (if x.id = v.id then { x with marked := x.marked ++ [line % 1024] } else x).id = x.id ∧
      (if x.id = v.id then { x with marked := x.marked ++ [line % 1024] } else x).to_ = x.to_ := by split <;> exact ⟨rfl, rfl⟩
  unfold storeMoving
  dsimp only
  split
  next n hn => exact ⟨_, _, hmarked, rfl, .inr ⟨n, _, hn, rfl⟩⟩
  next => exact ⟨_, _, hmarked, rfl, .inl rfl⟩

theorem storeMoving_sameLine (s : State) {v : Move} {line n : Nat} (tag : Option Nat) (d : Bytes)
    (hdest : ((Mem.Tier.addr v.to_).map fun b => lineOf b + line % 1024) ≠ some n) :
    SameLine (store s line tag d) (storeMoving s v line tag d) n := by
  have hcoh : (storeMoving s v line tag d).coh = (store s line tag d).coh := storeMoving_coh ..
  have htree : (storeMoving s v line tag d).treeLine n = (store s line tag d).treeLine n := by
    refine treeLine_of_units ?_ ?_ n <;> simp [storeMoving_frame .., store]
  obtain ⟨m, marked, -, hmem, rfl | ⟨k, o, hk, rfl⟩⟩ := storeMoving_mem s v line tag d
  · exact ⟨fun _ => by rw [hcoh], by rw [hcoh], by rw [hmem]; rfl, by rw [hmem]; rfl, by rw [hmem], htree⟩
  · have hkn : k ≠ n := fun h => hdest (h ▸ hk)
    have htag := Mem.tag_setLine (store s line tag d).mem k n o d
    rw [if_neg hkn] at htag
    refine ⟨fun _ => by rw [hcoh], by rw [hcoh], ?_, ?_, ?_, htree⟩
    · rw [hmem]
      exact congrArg _ htag
    · rw [hmem]
      exact Mem.line_setLine_of_ne _ o d hkn
    · rw [hmem]
      exact Mem.setLine_blank ..

theorem storeMoving_sameMoves (s : State) (v : Move) (line : Nat) (tag : Option Nat) (d : Bytes) :
    SameMoves s (storeMoving s v line tag d) := by
  obtain ⟨m, marked, hmarked, hmem, hm⟩ := storeMoving_mem s v line tag d
  have hunit : m.pages = s.mem.pages ∧ m.moves = s.mem.moves := by
    obtain rfl | ⟨k, o, -, rfl⟩ := hm <;> simp [store]
  have hpages : (storeMoving s v line tag d).mem.pages = s.mem.pages := by rw [hmem]; exact hunit.1
  have hmoves : (storeMoving s v line tag d).mem.moves = s.mem.moves.map marked := by rw [hmem, hunit.2]
  intro n
  have hfind (id : PageId) : (s.mem.moves.map marked).find? (fun x => x.id == id) = (s.mem.moves.find? fun x => x.id == id).map marked := by
    rw [List.find?_map]
    congr 2
    funext x
    simp [(hmarked x).1]
  simp only [moveOf, Mem.pageAt, Mem.move, hpages, hmoves, hfind]
  cases s.mem.pages.find? fun p => Mem.Tier.addr p.tier == some (pageOf (n * 64)) with
  | none => rfl
  | some p =>
    simp only [Option.bind_some]
    cases s.mem.moves.find? fun x => x.id == p.id with
    | none => rfl
    | some x =>
      simp only [Option.map_some, Option.filter_some, (hmarked x).2]
      split
      · rw [Option.map_some, Option.map_some, (hmarked x).2]
      · rfl

/-! A write to a line (R257, R406). -/

/-- What a write leaves, but for the mark of a lost line and the check bytes: the new line stands in its slice, or where its page moves in
memory at both places. -/
def placed (s : State) (owner line off : Nat) (data : Bytes) : State :=
  match moveOf s line with
  | some v => storeMoving { s with coh := dropLine s.coh line } v line (some owner) (stored (supply s line) off data)
  | none => fill { s with coh := dropLine s.coh line } ⟨line, stored (supply s line) off data, true, some owner⟩

theorem writeLine_eq (s : State) (owner line off : Nat) (data : Bytes) :
    ∃ (lost : List Nat) (bad : List Nat) (errors : List (Nat × Bytes)), writeLine s owner line off data =
      { placed s owner line off data with
        coh := { (placed s owner line off data).coh with lost := lost }
        mem := { (placed s owner line off data).mem with bad := bad, cellErrors := errors } } := by
  unfold writeLine
  dsimp only
  split
  · exact ⟨_, _, _, rfl⟩
  · exact ⟨_, _, _, rfl⟩

theorem writeLine_sameLine_placed (s : State) (owner line off : Nat) (data : Bytes) (n : Nat) :
    SameLine (placed s owner line off data) (writeLine s owner line off data) n := by
  obtain ⟨lost, bad, errors, h⟩ := writeLine_eq s owner line off data
  rw [h]
  exact ⟨fun _ => rfl, rfl, rfl, rfl, rfl, treeLine_of_units rfl rfl n⟩

theorem writeLine_sameMoves (s : State) (owner line off : Nat) (data : Bytes) : SameMoves s (writeLine s owner line off data) := by
  have hplaced : SameMoves s (placed s owner line off data) := by
    unfold placed
    split
    · exact storeMoving_sameMoves { s with coh := dropLine s.coh line } _ _ _ _
    · exact SameMoves.fill { s with coh := dropLine s.coh line } _
  obtain ⟨lost, bad, errors, h⟩ := writeLine_eq s owner line off data
  rw [h]
  exact hplaced.trans (.of_mem rfl rfl)

theorem length_stored (old : Bytes × Option Nat) {off : Nat} {data : Bytes} (h : off + data.length ≤ 64) :
    (stored old off data).length = 64 := by
  have hlong {b : Bytes} (hb : b.length = 64) : (splice b off data).length = 64 := (length_splice (by rw [hb]; exact h)).trans hb
  unfold stored
  split
  · exact hlong List.length_replicate
  · exact hlong (length_padTo 64 _)

end Coh

theorem mirrorOf_of_moveOf {s : State} {n : Nat} {v : Move} (h : Coh.moveOf s n = some v) :
    mirrorOf s n = (Mem.Tier.addr v.to_).map fun b => lineOf b + n % 1024 := by rw [mirrorOf, h]; rfl

namespace Holds

variable {s : State} {n : Nat} {v : Bytes × Option Nat}

theorem touchAddr (h : Holds s n v) (a : Nat) : Holds (touchAddr s a) n v :=
  h.of_same (touchAddr_sameLine s a n) (touchAddr_wf s a h.ok)

/-- A write to another line, whose page does not move onto this one, leaves the line as it is seen. -/
theorem writeLine (h : Holds s n v) {line : Nat} (owner off : Nat) (data : Bytes) (hl : line ≠ n) (hmirror : mirrorOf s line ≠ some n) :
    Holds (writeLine s owner line off data) n v := by
  have hdrop := h.dropLine hl
  have hwrite : MemOk (Machine.writeLine s owner line off data) := writeLine_wf s owner line off data h.ok
  refine of_same (s := Coh.placed s owner line off data) ?_ (Coh.writeLine_sameLine_placed s owner line off data n) hwrite
  unfold Coh.placed
  split
  next w hw =>
    rw [mirrorOf_of_moveOf hw] at hmirror
    exact (hdrop.store _ _ hl).of_same (Coh.storeMoving_sameLine _ _ _ hmirror) (Coh.storeMoving_wf _ _ _ _ _ hdrop.ok)
  next => exact hdrop.fill hl

/-- A dirty line of an owner in its slice, with no copy in an L1. -/
theorem of_dirty {x : SliceLine} {o : Nat} (hm : MemOk s) (hslice : Coh.inSlice s.coh n = some x) (hdirty : x.dirty = true)
    (htag : x.tag = some o) (hl1 : ∀ y ∈ s.coh.l1, y.line ≠ n) : Holds s n (padTo 64 x.data, some o) := by
  have hnone (d : Bool) : Coh.holder s.coh n d = none := List.find?_eq_none.mpr fun y hy => by simp [hl1 y hy]
  have hseen : lineSeen s n = (padTo 64 x.data, some o) := by rw [lineSeen, Coh.supply_of_slice hl1 hslice hdirty, htag]
  refine ⟨hm, hseen, ?_⟩
  have hstore : (Coh.evict s n).mem = (Coh.store s n (some o) x.data).mem := by
    rw [Coh.evict_of_some hslice, Coh.written, if_pos hdirty, htag]
  have hholder (d : Bool) : Coh.holder (Coh.evict s n).coh n d = none := by
    rw [Coh.evict_of_some hslice]
    exact hnone d
  have hmem : Coh.memLine (Coh.evict s n) n = (padTo 64 x.data, some o) := by
    rw [Coh.memLine_eq, hstore, Coh.store_owner, Coh.store_data n _ _ hm]
    rfl
  rw [evictKeeps_iff, hseen, lineSeen, Coh.supply]
  simp only [hholder, Coh.inSlice_evict_same, hmem, padTo_padTo]

/-- A line of an owner in memory, with no cached copy. -/
theorem of_memory {d : Bytes} {o : Nat} (hm : MemOk s) (hslice : Coh.inSlice s.coh n = none) (hl1 : ∀ y ∈ s.coh.l1, y.line ≠ n)
    (howner : (Mem.tag s.mem n).map (·.owner) = some o) (hdata : Mem.line s.mem n = padTo 64 d) : Holds s n (padTo 64 d, some o) := by
  have hnone (d : Bool) : Coh.holder s.coh n d = none := List.find?_eq_none.mpr fun y hy => by simp [hl1 y hy]
  have hmem : Coh.memLine s n = (padTo 64 d, some o) := by
    rw [Coh.memLine_eq, howner, hdata]
  refine of_no_slice hm ?_ hslice
  rw [lineSeen, Coh.supply]
  simp only [hnone, hslice, hmem, padTo_padTo]

/-- A written line is seen as written. -/
theorem of_writeLine (hm : MemOk s) (owner off : Nat) {data : Bytes} (hfit : off + data.length ≤ 64) (hmirror : mirrorOf s n ≠ some n) :
    Holds (Machine.writeLine s owner n off data) n (Coh.stored (Coh.supply s n) off data, some owner) := by
  have hdropped : ∀ y ∈ (Coh.dropLine s.coh n).l1, y.line ≠ n := fun y hy => by simpa using (List.mem_filter.mp hy).2
  have hwrite : MemOk (Machine.writeLine s owner n off data) := writeLine_wf s owner n off data hm
  have hwhole : padTo 64 (Coh.stored (Coh.supply s n) off data) = Coh.stored (Coh.supply s n) off data := by
    simp [padTo, Coh.length_stored _ hfit]
  rw [← hwhole]
  refine of_same (s := Coh.placed s owner n off data) ?_ (Coh.writeLine_sameLine_placed s owner n off data n) hwrite
  unfold Coh.placed
  split
  next w hw =>
    rw [mirrorOf_of_moveOf hw] at hmirror
    have hdrop : MemOk { s with coh := Coh.dropLine s.coh n } := hm
    have hstore : Holds (Coh.store { s with coh := Coh.dropLine s.coh n } n (some owner) (Coh.stored (Coh.supply s n) off data)) n
        (padTo 64 (Coh.stored (Coh.supply s n) off data), some owner) :=
      of_memory (Coh.store_wf _ n _ _ hdrop) (Coh.inSlice_filter_same s.coh.slice n) hdropped (Coh.store_owner ..)
        (Coh.store_data n _ _ hdrop)
    exact hstore.of_same (Coh.storeMoving_sameLine _ _ _ hmirror) (Coh.storeMoving_wf _ _ _ _ _ hdrop)
  next =>
    exact of_dirty (x := ⟨n, Coh.stored (Coh.supply s n) off data, true, some owner⟩) (Coh.fill_wf _ _ hm)
      (Coh.inSlice_fill _ _) rfl rfl
      fun y hy => hdropped y (by rwa [Coh.fill_l1] at hy)

end Holds

/-! The lines of a range, and the piece of the data that each takes (R257). -/

theorem mem_lines {a n l : Nat} : l ∈ lines a n ↔ 0 < n ∧ a / 64 ≤ l ∧ l ≤ (a + n - 1) / 64 := by
  unfold lines
  split
  next h => simp [h]
  next h =>
    simp only [List.mem_map, List.mem_range]
    constructor
    · rintro ⟨i, hi, rfl⟩
      omega
    · rintro ⟨-, hlo, hhi⟩
      exact ⟨l - a / 64, by omega, by omega⟩

theorem nodup_lines (a n : Nat) : (lines a n).Nodup := by
  unfold lines
  split
  · exact List.nodup_nil
  · exact List.nodup_range.map fun x y h => Nat.add_right_cancel h

theorem lineOf_mem_lines {a n i : Nat} (hi : i < n) : lineOf (a + i) ∈ lines a n := by
  rw [mem_lines, lineOf]
  exact ⟨by omega, Nat.div_le_div_right (by omega), Nat.div_le_div_right (by omega)⟩

/-- The byte of line `l` at which its piece of a write to `a` begins. -/
def pieceOff (a l : Nat) : Nat := max a (l * 64) - l * 64

/-- The bytes of a write of `d` to `a` that go to line `l`. -/
def piece (a : Nat) (d : Bytes) (l : Nat) : Bytes := (d.drop (max a (l * 64) - a)).take (min (a + d.length) (l * 64 + 64) - max a (l * 64))

theorem length_piece (a : Nat) (d : Bytes) (l : Nat) : (piece a d l).length = min (a + d.length) (l * 64 + 64) - max a (l * 64) := by
  rw [piece, List.length_take, List.length_drop]
  omega

theorem piece_fits {a : Nat} {d : Bytes} {l : Nat} (hl : l ∈ lines a d.length) : pieceOff a l + (piece a d l).length ≤ 64 := by
  obtain ⟨hn, hlo, hhi⟩ := mem_lines.mp hl
  rw [pieceOff, length_piece]
  omega

theorem piece_getD {a i : Nat} {d : Bytes} (hi : i < d.length) :
    (piece a d (lineOf (a + i))).getD ((a + i) % 64 - pieceOff a (lineOf (a + i))) 0 = d.getD i 0 := by
  have hstart : max a (lineOf (a + i) * 64) - a + ((a + i) % 64 - pieceOff a (lineOf (a + i))) = i := by
    rw [pieceOff, lineOf]
    omega
  have hin : (a + i) % 64 - pieceOff a (lineOf (a + i)) < min (a + d.length) (lineOf (a + i) * 64 + 64) - max a (lineOf (a + i) * 64) := by
    rw [pieceOff, lineOf]
    omega
  rw [piece, List.getD_eq_getElem?_getD, List.getElem?_take_of_lt hin, List.getElem?_drop, hstart, ← List.getD_eq_getElem?_getD]

/-- A byte of a line after a store into it. -/
theorem splice_getD {b v : Bytes} {o j : Nat} (h : o + v.length ≤ b.length) :
    (splice b o v).getD j 0 = if o ≤ j ∧ j < o + v.length then v.getD (j - o) 0 else b.getD j 0 := by
  have htake : (b.take o).length = o := by rw [List.length_take]; omega
  simp only [splice, List.getD_eq_getElem?_getD, List.getElem?_append, List.length_append, htake]
  by_cases hlow : j < o
  · rw [if_pos (by omega), if_pos hlow, if_neg (by omega), List.getElem?_take_of_lt hlow]
  · by_cases hmid : j < o + v.length
    · rw [if_pos hmid, if_neg hlow, if_pos ⟨by omega, hmid⟩]
    · rw [if_neg hmid, if_neg fun hc => hmid hc.2, List.getElem?_drop]
      congr 2
      omega

/-- The line before a store into it: zeros where it is Free. -/
def beforeBytes (old : Bytes × Option Nat) : Bytes := if old.2 = none then List.replicate 64 0 else padTo 64 old.1

theorem stored_eq (old : Bytes × Option Nat) (off : Nat) (d : Bytes) : Coh.stored old off d = splice (beforeBytes old) off d := by
  obtain ⟨b, _ | o⟩ := old <;> rfl

theorem length_beforeBytes (old : Bytes × Option Nat) : (beforeBytes old).length = 64 := by
  unfold beforeBytes
  split
  · exact List.length_replicate
  · exact length_padTo 64 _

theorem stored_getD {a l : Nat} {d : Bytes} (old : Bytes × Option Nat) (j : Nat) (hl : l ∈ lines a d.length) :
    (Coh.stored old (pieceOff a l) (piece a d l)).getD j 0 =
      if pieceOff a l ≤ j ∧ j < pieceOff a l + (piece a d l).length then (piece a d l).getD (j - pieceOff a l) 0
      else (beforeBytes old).getD j 0 := by
  rw [stored_eq, splice_getD (by rw [length_beforeBytes]; exact piece_fits hl)]

/-! A write of a range, line by line. -/

/-- The writes to the lines of a range in turn. -/
def writePieces (s : State) (owner a : Nat) (d : Bytes) (ls : List Nat) : State :=
  ls.foldl (fun s l => writeLine s owner l (pieceOff a l) (piece a d l)) s

theorem rangeWrite_ok {s : State} {owner a : Nat} {d : Bytes} (h : (rangeWrite s owner a d).1 = St.ok) :
    (rangeWrite s owner a d).2 = writePieces (touchRange s a d.length) owner a d (lines a d.length) := by
  unfold rangeWrite at h ⊢
  dsimp only at h ⊢
  split at h
  next hst => exact absurd h hst
  next hst => rw [if_neg hst]; rfl

theorem touchRange_keeps (s : State) (a n : Nat) :
    SameMoves s (touchRange s a n) ∧ ∀ l v, Holds s l v → Holds (touchRange s a n) l v := by
  unfold touchRange
  generalize rangePages a n = ps
  induction ps generalizing s with
  | nil => exact ⟨.refl s, fun _ _ h => h⟩
  | cons p ps ih =>
    obtain ⟨hmoves, hholds⟩ := ih (touchAddr s p)
    exact ⟨(SameMoves.touchAddr s p).trans hmoves, fun l v h => hholds l v (h.touchAddr p)⟩

section
variable {s : State} {owner a : Nat} {d : Bytes} {ls : List Nat}

theorem writePieces_cons (l : Nat) : writePieces s owner a d (l :: ls) =
    writePieces (writeLine s owner l (pieceOff a l) (piece a d l)) owner a d ls := rfl

theorem writePieces_memOk (hm : MemOk s) : MemOk (writePieces s owner a d ls) :=
  foldl_wf _ _ _ (fun s l h => writeLine_wf s owner l _ _ h) hm

theorem writePieces_sameMoves : SameMoves s (writePieces s owner a d ls) := by
  induction ls generalizing s with
  | nil => exact .refl s
  | cons l ls ih => exact (Coh.writeLine_sameMoves _ _ _ _ _).trans ih

/-- The writes leave a line that is none of theirs. -/
theorem Holds.writePieces {n : Nat} {v : Bytes × Option Nat} (h : Holds s n v) (hn : n ∉ ls)
    (hmirror : ∀ l ∈ ls, mirrorOf s l ≠ some n) :
    Holds (writePieces s owner a d ls) n v := by
  induction ls generalizing s with
  | nil => exact h
  | cons l ls ih =>
    obtain ⟨hl, hrest⟩ := List.forall_mem_cons.mp hmirror
    have hwrite := h.writeLine owner (pieceOff a l) (piece a d l) (fun hln => hn (hln ▸ List.mem_cons_self)) hl
    refine ih hwrite (fun hmem => hn (List.mem_cons_of_mem l hmem)) fun k hk => ?_
    rw [(Coh.writeLine_sameMoves _ _ _ _ _).mirrorOf]
    exact hrest k hk

/-- A line among them is seen as its own write has left it, in a state in which what the earlier writes leave still holds. -/
theorem writePieces_written {n : Nat} (hm : MemOk s) (hn : n ∈ ls) (hnodup : ls.Nodup) (hfit : pieceOff a n + (piece a d n).length ≤ 64)
    (hmirror : ∀ l ∈ ls, mirrorOf s l ≠ some n) :
    ∃ u, (∀ v, Holds s n v → Holds u n v) ∧
      Holds (writePieces s owner a d ls) n (Coh.stored (Coh.supply u n) (pieceOff a n) (piece a d n), some owner) := by
  induction ls generalizing s with
  | nil => cases hn
  | cons l ls ih =>
    obtain ⟨hl, hrest⟩ := List.forall_mem_cons.mp hmirror
    obtain ⟨hnotin, hnodup⟩ := List.nodup_cons.mp hnodup
    have hrest' : ∀ k ∈ ls, mirrorOf (Machine.writeLine s owner l (pieceOff a l) (piece a d l)) k ≠ some n := fun k hk => by
      rw [(Coh.writeLine_sameMoves _ _ _ _ _).mirrorOf]
      exact hrest k hk
    rw [writePieces_cons]
    by_cases hln : l = n
    · subst hln
      exact ⟨s, fun _ h => h, (Holds.of_writeLine hm owner (pieceOff a l) hfit hl).writePieces hnotin hrest'⟩
    · have hmem : n ∈ ls := (List.mem_cons.mp hn).resolve_left fun h => hln h.symm
      obtain ⟨u, hu, hwritten⟩ := ih (writeLine_wf s owner l _ _ hm) hmem hnodup hrest'
      exact ⟨u, fun v h => hu v (h.writeLine owner _ _ hln hl), hwritten⟩

end

/-! A write of an agent to which no earlier request stands in the way. -/

theorem settled_of_free {s : State} {a n : Nat} (h : ∀ q ∈ s.coh.busy, q.req.line ∉ lines a n) : Coh.settled s a n = s := by
  unfold Coh.settled
  split
  next => rfl
  next hn =>
    have hnone :
        ((s.coh.busy.map fun b => b.req.line).filter fun l => decide (lineOf a ≤ l) && decide (l ≤ lineOf (a + n - 1))) = [] := by
      refine List.filter_eq_nil_iff.mpr fun l hl hin => ?_
      obtain ⟨q, hq, rfl⟩ := List.mem_map.mp hl
      simp only [Bool.and_eq_true, decide_eq_true_eq] at hin
      exact h q hq (mem_lines.mpr ⟨by omega, hin⟩)
    rw [Coh.settleLines, hnone]
    rfl

theorem Holds.byteSeen {s : State} {b : Nat} {v : Bytes × Option Nat} (h : Holds s (lineOf b) v) : byteSeen s b = v.1.getD (b % 64) 0 := by
  rw [byteSeen_eq, h.seen]

/-- What is seen of a line is what its supplier gives, of a line of an owner. -/
theorem beforeBytes_of_seen {s : State} {n : Nat} {v : Bytes × Option Nat} (h : lineSeen s n = v) :
    beforeBytes (Coh.supply s n) = if v.2 = none then List.replicate 64 0 else v.1 := by
  rw [← h]
  rfl

section
variable {s : State} {owner a : Nat} {d : Bytes} (hfree : ∀ q ∈ s.coh.busy, q.req.line ∉ lines a d.length)
  (hok : (agentWrite s owner a d).1 = St.ok)
include hfree hok

theorem agentWrite_eq : (agentWrite s owner a d).2 = writePieces (touchRange s a d.length) owner a d (lines a d.length) := by
  unfold agentWrite at hok ⊢
  rw [settled_of_free hfree] at hok ⊢
  exact rangeWrite_ok hok

theorem agentWrite_keeps {n : Nat} {v : Bytes × Option Nat} (h : Holds s n v) (hn : n ∉ lines a d.length)
    (hmirror : ∀ l ∈ lines a d.length, mirrorOf s l ≠ some n) : Holds (agentWrite s owner a d).2 n v := by
  obtain ⟨hmoves, hholds⟩ := touchRange_keeps s a d.length
  rw [agentWrite_eq hfree hok]
  exact (hholds n v h).writePieces hn fun l hl => by rw [hmoves.mirrorOf]; exact hmirror l hl

variable (hm : MemOk s)
include hm

theorem agentWrite_written {n : Nat} (hn : n ∈ lines a d.length) (hmirror : ∀ l ∈ lines a d.length, mirrorOf s l ≠ some n) :
    ∃ u, (∀ v, Holds s n v → Holds u n v) ∧
      Holds (agentWrite s owner a d).2 n (Coh.stored (Coh.supply u n) (pieceOff a n) (piece a d n), some owner) := by
  obtain ⟨hmoves, hholds⟩ := touchRange_keeps s a d.length
  obtain ⟨u, hu, hwritten⟩ := writePieces_written (owner := owner) (touchRange_wf s a d.length hm) hn (nodup_lines a d.length)
    (piece_fits hn)
    fun l hl => by rw [hmoves.mirrorOf]; exact hmirror l hl
  rw [agentWrite_eq hfree hok]
  exact ⟨u, fun v h => hu v (hholds n v h), hwritten⟩

theorem byteSeen_agentWrite_inside {i : Nat} (hi : i < d.length)
    (hmirror : ∀ l ∈ lines a d.length, mirrorOf s l ≠ some (lineOf (a + i))) :
    byteSeen (agentWrite s owner a d).2 (a + i) = d.getD i 0 := by
  have hl : lineOf (a + i) ∈ lines a d.length := lineOf_mem_lines hi
  obtain ⟨u, -, hwritten⟩ := agentWrite_written hfree hok hm hl hmirror
  have hin : pieceOff a (lineOf (a + i)) ≤ (a + i) % 64 ∧
      (a + i) % 64 < pieceOff a (lineOf (a + i)) + (piece a d (lineOf (a + i))).length := by
    rw [length_piece, pieceOff, lineOf]
    omega
  rw [hwritten.byteSeen, stored_getD _ _ hl, if_pos hin, piece_getD hi]

theorem byteSeen_agentWrite_other {b : Nat} (hkeeps : evictKeeps s (lineOf b)) (hb : lineOf b ∉ lines a d.length)
    (hmirror : ∀ l ∈ lines a d.length, mirrorOf s l ≠ some (lineOf b)) : byteSeen (agentWrite s owner a d).2 b = byteSeen s b := by
  have hholds : Holds s (lineOf b) (lineSeen s (lineOf b)) := ⟨hm, rfl, hkeeps⟩
  rw [(agentWrite_keeps hfree hok hholds hb hmirror).byteSeen, byteSeen_eq]

/-- A byte beside the range in a line of it: as before, or 0 where the line was Free. -/
theorem byteSeen_agentWrite_beside {b : Nat} (hkeeps : evictKeeps s (lineOf b)) (hout : b < a ∨ a + d.length ≤ b)
    (hb : lineOf b ∈ lines a d.length) (hmirror : ∀ l ∈ lines a d.length, mirrorOf s l ≠ some (lineOf b)) :
    byteSeen (agentWrite s owner a d).2 b = if (Coh.supply s (lineOf b)).2 = none then 0 else byteSeen s b := by
  have hholds : Holds s (lineOf b) (lineSeen s (lineOf b)) := ⟨hm, rfl, hkeeps⟩
  obtain ⟨u, hu, hwritten⟩ := agentWrite_written hfree hok hm hb hmirror
  have hnotin : ¬(pieceOff a (lineOf b) ≤ b % 64 ∧ b % 64 < pieceOff a (lineOf b) + (piece a d (lineOf b)).length) := by
    rw [length_piece, pieceOff, lineOf]
    omega
  have hbefore := beforeBytes_of_seen (hu _ hholds).seen
  rw [hwritten.byteSeen, stored_getD _ _ hb, if_neg hnotin, hbefore]
  have htag : (lineSeen s (lineOf b)).2 = (Coh.supply s (lineOf b)).2 := rfl
  rw [htag]
  split
  · rw [List.getD_replicate _ (by omega)]
  · rfl

end

/-- Settles O59: each line of the range takes its piece once; of the lines beside it a slice may only evict. -/
theorem agentWriteStoresItsBytes : Obligations.AgentWriteStoresItsBytes := by
  intro s w a d hm hfree hok
  refine ⟨fun i hi hmirror => byteSeen_agentWrite_inside hfree hok hm hi hmirror,
    fun b hout hkeeps hmirror => ⟨?_, fun hb hnone => ?_⟩⟩
  · intro hcase
    by_cases hb : lineOf b ∈ lines a d.length
    · rw [byteSeen_agentWrite_beside hfree hok hm hkeeps hout hb hmirror, if_neg (hcase.resolve_left fun h => h hb)]
    · exact byteSeen_agentWrite_other hfree hok hm hkeeps hb hmirror
  · rw [byteSeen_agentWrite_beside hfree hok hm hkeeps hout hb hmirror, if_pos hnone]

/-! A host write (R267, R527). -/

theorem lines_whole {a : Nat} (h : a % 64 = 0) : lines a 64 = [lineOf a] := by
  have hcount : (a + 63) / 64 + 1 - a / 64 = 1 := by omega
  simp [lines, hcount, lineOf]

theorem agentWrite_out {s : State} {owner a : Nat} {d : Bytes} (hfree : ∀ q ∈ s.coh.busy, q.req.line ∉ lines a d.length) :
    (agentWrite s owner a d).2.out = s.out := by
  rw [agentWrite, settled_of_free hfree]
  simp [rangeWrite_frame ..]

/-- A host write to a line in memory that nothing holds is a write of the slot that owns the range. -/
theorem exec_hostMemWrite_inMemory {s : State} {p a : Nat} {d : Bytes} (hlink : s.host.linkUp = true)
    (hrange : inHdm s (hostLine p) 64 = true)
    (hneap : inNeap s = false) (hpower : s.rst.powerState ≠ 3) (hlive : hdmDead s = false) (haddr : hdmAddr s (hostLine p) = some a) :
    exec (.hostMemWrite p d) s = .next ((agentWrite s (hdmOwner s) a (padTo 64 d)).2.emit (.memDone (hostLine p))) := by
  obtain ⟨g, hg⟩ : ∃ g, Mem.page s.mem (hdmPage s (hostLine p)) = some g := by
    cases hg : Mem.page s.mem (hdmPage s (hostLine p)) with
    | none => simp [hdmAddr, hg] at haddr
    | some g => exact ⟨g, rfl⟩
  have hserve : serveHost s (hostLine p) (some (padTo 64 d))
      = some ((agentWrite s (hdmOwner s) a (padTo 64 d)).2.emit (.memDone (hostLine p))) := by
    simp [serveHost, hlive, hg, haddr]
  simp [execHostMemWrite, hostAccess, hlink, hrange, hneap, hpower, hserve]

/-- Settles O60: the command is the agent's write of one whole line, with the completion put out behind it. -/
theorem hostWriteStoresTheLine : Obligations.HostWriteStoresTheLine := by
  intro p a d s hm hlink hrange hneap hpower hlive haddr halign hok hself hbusy
  have hlen : (padTo 64 d).length = 64 := length_padTo 64 d
  have hlines : lines a (padTo 64 d).length = [lineOf a] := by rw [hlen, lines_whole halign]
  have hfree : ∀ q ∈ s.coh.busy, q.req.line ∉ lines a (padTo 64 d).length := fun q hq => by
    rw [hlines, List.mem_singleton]
    exact hbusy q hq
  refine ⟨_, exec_hostMemWrite_inMemory hlink hrange hneap hpower hlive haddr, fun i hi => ?_, fun b hb hkeeps hmirror => ?_, ?_⟩
  · have hline : lineOf (a + i) = lineOf a := by rw [lineOf, lineOf]; omega
    refine byteSeen_agentWrite_inside hfree hok hm (by rwa [hlen]) fun l hl => ?_
    rw [hlines, List.mem_singleton] at hl
    rw [hl, hline]
    exact hself
  · refine byteSeen_agentWrite_other hfree hok hm hkeeps (by rwa [hlines, List.mem_singleton]) fun l hl => ?_
    rw [hlines, List.mem_singleton] at hl
    rw [hl]
    exact hmirror
  · rw [← agentWrite_out (owner := hdmOwner s) hfree]
    rfl

end Sys2Proof.Machine

/-!
Host accesses to the HDM range, holds, demotions, moves and sweeps (08_memory_tiers.md R259, R267, R268, R278, R279, 15_host_interface.md
R527, R529).
-/
namespace Sys2Proof.Machine

open Sys2Proof

/-! Host accesses in the committed range (R267, R268, R527, R634). -/

section
variable {s : State} {p : Nat} (hlink : s.host.linkUp = true) (hrange : inHdm s (hostLine p) 64 = true)
include hlink hrange

/-- In Neap or while the node leaves it an access is held, and the node leaves Neap. -/
theorem hostAccess_neap (w : Option Bytes) (hneap : inNeap s = true ∨ s.rst.powerState = 3) :
    hostAccess s (hostLine p) w =
      leaveNeap (holdAccess (if !hdmDead s && (Mem.page s.mem (hdmPage s (hostLine p))).any fun p => p.tier == .flash
        then s.bump Ent.heldHostAccesses else s) (hostLine p) w false
        (!hdmDead s && (Mem.page s.mem (hdmPage s (hostLine p))).any fun p => p.tier == .flash)) 2 := by
  have hn : (inNeap s || s.rst.powerState == 3) = true := by simpa using hneap
  simp only [hostAccess, hlink, hrange, hn, Bool.not_true, Bool.or_self, Bool.false_eq_true, if_false, if_true]

variable (hneap : inNeap s = false) (hpower : s.rst.powerState ≠ 3)
include hneap hpower

/-- Else it is served, or held where it cannot be. -/
theorem hostAccess_awake (w : Option Bytes) :
    hostAccess s (hostLine p) w = (serveHost s (hostLine p) w).getD (startHold s (hostLine p) w) := by
  have hn : (inNeap s || s.rst.powerState == 3) = false := by simp [hneap, hpower]
  simp only [hostAccess, hlink, hrange, hn, Bool.not_true, Bool.or_self, Bool.false_eq_true, if_false]
  cases serveHost s (hostLine p) w <;> rfl

theorem hostAccess_served {w : Option Bytes} {u : State} (h : serveHost s (hostLine p) w = some u) : hostAccess s (hostLine p) w = u := by
  rw [hostAccess_awake hlink hrange hneap hpower, h]
  rfl

theorem hostAccess_held {w : Option Bytes} (h : serveHost s (hostLine p) w = none) :
    hostAccess s (hostLine p) w = startHold s (hostLine p) w := by
  rw [hostAccess_awake hlink hrange hneap hpower, h]
  rfl

variable (hlive : hdmDead s = false)
include hlive

/-- R268: an access to a page in flash is held while its promotion runs. -/
theorem hostAccess_flash {w : Option Bytes} {g : Page} (hg : Mem.page s.mem (hdmPage s (hostLine p)) = some g) (hflash : g.tier = .flash) :
    hostAccess s (hostLine p) w =
      holdAccess ((promote (touch s g.id) g 2).2.bump Ent.heldHostAccesses) (hostLine p) w false true := by
  have haddr : hdmAddr s (hostLine p) = none := by simp [hdmAddr, hg, hflash, Mem.Tier.addr]
  have hserve : serveHost s (hostLine p) w = none := by cases w <;> simp [serveHost, hlive, hg, haddr]
  rw [hostAccess_held hlink hrange hneap hpower hserve]
  simp [startHold, hg, hlive]

end

theorem page_of_hdmAddr {s : State} {hpa a : Nat} (h : hdmAddr s hpa = some a) : ∃ g, Mem.page s.mem (hdmPage s hpa) = some g := by
  cases hg : Mem.page s.mem (hdmPage s hpa) with
  | none => simp [hdmAddr, hg] at h
  | some g => exact ⟨g, rfl⟩

theorem readInMemory_ok {s u : State} {hpa a : Nat} (hu : u = touchAddr (Coh.settled s a 64) a)
    (hc : Coh.check u (hdmOwner u) (lineOf a) = St.ok) :
    readInMemory s hpa a = noteHostHeld (u.emit (.memData hpa false (padTo 64 (Coh.supply u (lineOf a)).1))) hpa := by
  rw [hu] at hc
  simp [readInMemory, hc, hu]

/-- HOST_MEM_READ and HOST_MEM_WRITE bring the same access, but for what they write. -/
theorem exec_hostMem {p : Nat} {d : Bytes} {c : Instr} {w : Option Bytes} (s : State)
    (hcw : (c, w) ∈ [(.hostMemRead p, none), (.hostMemWrite p d, some (padTo 64 d))]) :
    exec c s = .next (hostAccess s (hostLine p) w) := by
  simp only [List.mem_cons, List.not_mem_nil, or_false, Prod.mk.injEq] at hcw
  obtain ⟨rfl, rfl⟩ | ⟨rfl, rfl⟩ := hcw
  · rfl
  · rfl

/-! The limit of a hold (R529). -/

/-- The state with a hold ended by its limit and its access answered: a read with poison, a write without being applied. -/
def holdEnded (s : State) (h : HeldAccess) : State := match h.write with
  | none => poisonRead (dropHold (noteHold s h) h) h.hpa
  | some _ => (dropHold (noteHold s h) h).emit (.memDone h.hpa)

@[simp] theorem noteHostHeld_held (s : State) (hpa : Nat) : (noteHostHeld s hpa).host.held = s.host.held := by
  unfold noteHostHeld
  split <;> rfl

@[simp] theorem noteHostHeld_num (s : State) (hpa k : Nat) : (noteHostHeld s hpa).num k = s.num k := by
  unfold noteHostHeld
  split <;> rfl

theorem noteHold_num (s : State) (h : HeldAccess) {k : Nat} (hk : k ≠ Ent.maxHoldNs) : (noteHold s h).num k = s.num k := by
  unfold noteHold
  split
  · rw [State.num_setNum, if_neg hk]
  · rfl

theorem holdEnded_held (s : State) (h : HeldAccess) : (holdEnded s h).host.held = s.host.held.filter (fun x => x.id != h.id) := by
  have hdrop : (dropHold (noteHold s h) h).host.held = s.host.held.filter (fun x => x.id != h.id) := by
    simp [dropHold, noteHold_frame ..]
  unfold holdEnded
  split
  · rw [poisonRead, noteHostHeld_held, ← hdrop]
    rfl
  · exact hdrop

theorem holdEnded_out (s : State) (h : HeldAccess) :
    (holdEnded s h).out = s.out ++ [if h.write.isNone then .memData h.hpa true (List.replicate 64 0) else .memDone h.hpa] := by
  unfold holdEnded
  split
  next hw => simp [poisonRead, noteHostHeld_frame .., dropHold_frame .., noteHold_frame .., hw]
  next hw => simp [dropHold_frame .., noteHold_frame .., hw]

theorem holdEnded_num (s : State) (h : HeldAccess) {k : Nat} (hmax : k ≠ Ent.maxHoldNs) (hpoison : k ≠ Ent.poisonResponses) :
    (holdEnded s h).num k = s.num k := by
  have hdrop : (dropHold (noteHold s h) h).num k = s.num k := noteHold_num s h hmax
  unfold holdEnded
  split
  · rw [poisonRead, noteHostHeld_num, State.num_bump, if_neg hpoison]
    exact hdrop
  · exact hdrop

theorem holdEnded_memory (s : State) (h : HeldAccess) :
    (holdEnded s h).mem = s.mem ∧ (holdEnded s h).coh = s.coh ∧ (holdEnded s h).flash = s.flash := by
  unfold holdEnded
  split
  · simp [poisonRead_frame .., dropHold_frame .., noteHold_frame ..]
  · simp [dropHold_frame .., noteHold_frame ..]

theorem heldAddr_cat (s : State) (hpa : Nat) : (heldAddr s hpa).2.cat = s.cat := by
  simp [heldAddr_frame ..]

/-- R529: a hold that does not wait for a stack page ends at its limit, with a record. -/
theorem execHoldTimeout_due {s : State} {i : Nat} {h : HeldAccess} (hfound : (s.host.held.find? fun h => h.id == i) = some h)
    (hin : h.inside = false)
    (hfree : (Mem.page s.mem (hdmPage s h.hpa)).isSome = true ∨ inNeap s = true ∨ s.rst.powerState = 3 ∨ hdmDead s = true)
    (hdue : s.cfg Ent.holdLimitNs ≤ holdNs s h) :
    execHoldTimeout i s = .next (((heldAddr (holdEnded s h) h.hpa).2.bump Ent.holdTimeouts).logEvent 0x12 Oc.info St.ok 0 nodeUnit
      (heldAddr (holdEnded s h) h.hpa).1) := by
  have hstalled : ((Mem.page s.mem (hdmPage s h.hpa)).isNone && !inNeap s && s.rst.powerState != 3 && !hdmDead s) = false := by
    obtain hbacked | hneap | hpower | hdead := hfree
    · simp [Option.isNone_eq_false_iff.mpr hbacked]
    · simp [hneap]
    · simp [hpower]
    · simp [hdead]
  have hlate : ¬holdNs s h < s.cfg Ent.holdLimitNs := Nat.not_lt.mpr hdue
  unfold execHoldTimeout holdEnded
  simp only [hfound]
  refine (if_neg (by simp [hin, hstalled, hlate])).trans ?_
  cases h.write <;> rfl

/-! A sweep that ends (R259, R493). -/

theorem lookup_filter_ne (k j : Nat) (l : List (Nat × Nat)) :
    (l.filter fun q => q.1 != k).lookup j = if j = k then none else l.lookup j := by
  induction l with
  | nil => simp
  | cons q l ih =>
    obtain ⟨a, b⟩ := q
    by_cases ha : a = k
    · rw [List.filter_cons_of_neg (by simpa using ha), ih]
      split
      next => rfl
      next hj =>
        have hb : (j == a) = false := by simpa [ha] using hj
        rw [List.lookup_cons, hb]
    · rw [List.filter_cons_of_pos (by simpa using ha), List.lookup_cons, List.lookup_cons, ih]
      by_cases hj : j = a
      · have hb : (j == a) = true := by simpa using hj
        have hjk : j ≠ k := fun h => ha (hj.symm.trans h)
        simp only [hb, if_neg hjk]
      · have hb : (j == a) = false := by simpa using hj
        rw [hb]

/-- The state with a swept slot Empty. -/
def slotEmptied (s : State) (k : Nat) : State :=
  { s with key := { s.key with sweeping := s.key.sweeping.filter fun q => q.1 != k, slots := s.key.slots.filter fun q => q.1 != k } }

theorem slotState_slotEmptied (s : State) (k j : Nat) :
    (slotEmptied s k).slotState j = if j ≠ 0 ∧ j = k then 0 else s.slotState j := by
  by_cases hj : j = 0
  · simp [State.slotState, hj]
  · rw [State.slotState, State.slotState, if_neg hj, if_neg hj, slotEmptied, lookup_filter_ne]
    by_cases hk : j = k
    · rw [if_pos hk, if_pos ⟨hj, hk⟩]
      rfl
    · rw [if_neg hk, if_neg fun h => hk h.2]

/-- Settles O30: an access by the one way that the state of the node and of its page leaves it, the others by the branch that their
condition admits. -/
theorem memoryCommandsComplete : Obligations.MemoryCommandsComplete := by
  refine ⟨?readServed, ?writeServed, ?readHeld, ?writeHeld, ?readInMemory, ?readUnbacked, ?inFlash, ?inNeap, ?timeout, ?demotion,
    ?shelfDemotion, ?switch, ?swept⟩
  case readServed =>
    intro p u s hlink hrange hneap hpower hserve
    rw [exec_hostMemRead, execHostMemRead, hostAccess_served hlink hrange hneap hpower hserve]
  case writeServed =>
    intro p d u s hlink hrange hneap hpower hserve
    rw [exec_hostMemWrite, execHostMemWrite, hostAccess_served hlink hrange hneap hpower hserve]
  case readHeld =>
    intro p s hlink hrange hneap hpower hserve
    rw [exec_hostMemRead, execHostMemRead, hostAccess_held hlink hrange hneap hpower hserve]
  case writeHeld =>
    intro p d s hlink hrange hneap hpower hserve
    rw [exec_hostMemWrite, execHostMemWrite, hostAccess_held hlink hrange hneap hpower hserve]
  case readInMemory =>
    intro p a u s hlink hrange hneap hpower hlive haddr hu hc
    obtain ⟨g, hg⟩ := page_of_hdmAddr haddr
    have hserve : serveHost s (hostLine p) none = some (readInMemory s (hostLine p) a) := by simp [serveHost, hlive, hg, haddr]
    rw [exec_hostMemRead, execHostMemRead, hostAccess_served hlink hrange hneap hpower hserve, readInMemory_ok hu hc]
  case readUnbacked =>
    intro p s hlink hrange hneap hpower hlive hnone
    rw [exec_hostMemRead, execHostMemRead, hostAccess_served hlink hrange hneap hpower (by simp only [serveHost, hlive, hnone]; rfl)]
  case inFlash =>
    intro p d w g c s hcw hlink hrange hneap hpower hlive hg hflash
    rw [exec_hostMem s hcw, hostAccess_flash hlink hrange hneap hpower hlive hg hflash]
  case inNeap =>
    intro p d w b c s hcw hlink hrange hneap hb
    rw [exec_hostMem s hcw, hostAccess_neap hlink hrange w hneap, ← hb]
  case timeout =>
    intro i h s hfound hin hfree hdue
    obtain ⟨hmem, hcoh, hflash⟩ := holdEnded_memory s h
    refine ⟨_, execHoldTimeout_due hfound hin hfree hdue, ?_, ?_, ?_, ?_, ?_, ?_⟩
    · simpa [State.logEvent_frame .., heldAddr_frame ..] using holdEnded_held s h
    · simpa [State.logEvent_frame .., heldAddr_frame ..] using holdEnded_out s h
    · rw [State.num_logEvent _ _ _ _ _ _ _ (by decide) (by decide), State.num_bump, if_pos rfl, State.num, heldAddr_cat, ← State.num,
        holdEnded_num s h (by decide) (by decide)]
    · simpa [State.logEvent_frame .., heldAddr_frame ..] using hmem
    · simpa [State.logEvent_frame .., heldAddr_frame ..] using hcoh
    · simpa [State.logEvent_frame .., heldAddr_frame ..] using hflash
  case demotion =>
    intro s hruns hneap hready hdue
    have hstart : (s.mem.demoting || decide (Mem.freeStack s.mem < s.cfg Ent.stackLowMarkPages)) = true := by simpa using hdue
    simp [execStackDemotion, hruns, hneap, hready, hstart]
  case shelfDemotion =>
    intro s hruns hneap
    simp [execShelfDemotion, hruns, hneap]
  case switch =>
    intro i v p s hmove hpage hruns hdone
    simp [execPageMoveSwitch, hmove, hpage, hruns, hdone]
  case swept =>
    intro k p s hmgmt hfound hcount hdurable
    have hexec : exec (.sweepComplete k) s = .next (slotEmptied s k) := by
      simp [execSweepComplete, hfound, hmgmt, hcount, hdurable, slotEmptied]
    refine ⟨_, hexec, fun hk => ?_, fun j hj => ?_, rfl, rfl⟩
    · rw [slotState_slotEmptied, if_pos ⟨hk, rfl⟩]
    · rw [slotState_slotEmptied, if_neg fun h => hj h.2]

end Sys2Proof.Machine

/-! The stateful operators of a run (R284, R285, R333, R337 to R343, R345): MATMUL with a streamed weight and the fill of its chunks,
FILTER, GATHER, MERGE_UPDATE, BERTH_APPEND, LOOP, BRANCH and TIDE_WAIT. For each, what its `Graph.Ended` function gives;
`perform` then ends so. -/

namespace Sys2Proof.Machine

open Sys2Proof

/-! ### MATMUL and the chunks of a streamed weight -/

theorem matmulEnds_whole {c : Graph.Ctx} {s : State} (hw : streamedWeight c.image c.entry = none) :
    matmulEnds c s = .outs (opMatmul c.r0 (c.x 0) (c.x 1) (c.xo 2) (c.xo 3) (c.xo 4)) s := by
  simp [matmulEnds, hw]

theorem matmulEnds_streamed {c : Graph.Ctx} {s : State} {w : TensorDef} (hw : streamedWeight c.image c.entry = some w) :
    matmulEnds c s = Graph.streamEnds c w s := by
  simp [matmulEnds, hw]

/-- The state in which the half that held fill `f` of slot `num` is free again (R285). -/
def releaseFill (s : State) (num : Nat) (f : Fill) : State :=
  Graph.mapSlot s num fun g => { g with halves := g.halves.map fun h => h.filter fun x => x != f }

/-- The run that has worked through fill `f` with the scale vector `v` (R285). -/
def takeFill (r : Run) (f : Fill) (v : Bytes) : Run :=
  { r with fills := r.fills + 1, streamed := r.streamed ++ f.data, scaleVec := v }

/-- The scale tensor of the product with a streamed weight: the vector of the scale area, or the input that the operator names (R284). -/
def streamedScaleTensor (c : Graph.Ctx) (v : Bytes) : Option Tens :=
  match streamedScale c.image c.entry with
  | some n => some ⟨1, (tensorDef c.image n).dims, patterns 1 v⟩
  | none => c.xo 3

/-- The product with a streamed weight whose chunks end with fill `f` (R333). -/
def streamedProduct (c : Graph.Ctx) (w : TensorDef) (f : Fill) (v : Bytes) : OpOut :=
  opMatmul c.r0 (c.x 0) ⟨w.fmt, w.dims, (patterns w.fmt (c.run.streamed ++ f.data)).take w.elems⟩ (c.xo 2) (streamedScaleTensor c v)
    (c.xo 4)

/-- The chunk that is due has come whole into its half, and its scale vector is known. -/
structure ChunkDue (c : Graph.Ctx) (s : State) (g : GraphSlot) (f : Fill) (v : Bytes) : Prop where
  slot : Graph.slot s c.run.slot = some g
  head : (Graph.fillsOf g c.run.id).head? = some f
  op : f.op = c.run.pc
  chunk : f.chunk = c.run.fills
  status : f.status = St.ok
  scale : ScaleIs c g f v

/-- The status and the bytes of the scale vector of fill `f`: with the first chunk those of the scale area, then those of the run (R284). -/
def chunkScale (c : Graph.Ctx) (g : GraphSlot) (f : Fill) : Nat × Bytes :=
  match f.chunk, streamedScale c.image c.entry, g.scales with
  | 0, some n, some q => if q.1 = n then (q.2.1, q.2.2) else (St.ok, [])
  | _, _, _ => (St.ok, c.run.scaleVec)

theorem chunkScale_of_scaleIs {c : Graph.Ctx} {g : GraphSlot} {f : Fill} {v : Bytes} (h : ScaleIs c g f v) :
    chunkScale c g f = (St.ok, v) := by
  rcases h with ⟨n, hfirst, hn, hg⟩ | ⟨hlater | hnone, rfl⟩
  case inl => simp [chunkScale, hfirst, hn, hg]
  case inr.inl =>
    unfold chunkScale
    split
    next hfirst _ _ => exact absurd hfirst hlater
    next => rfl
  case inr.inr => simp [chunkScale, hnone]

theorem streamEnds_eq {c : Graph.Ctx} {w : TensorDef} {s : State} {g : GraphSlot} {f : Fill} (hslot : Graph.slot s c.run.slot = some g)
    (hdue : ((Graph.fillsOf g c.run.id).head?.filter fun f => f.op == c.run.pc && f.chunk == c.run.fills) = some f) :
    Graph.streamEnds c w s =
      if max f.status (chunkScale c g f).1 ≠ St.ok then .stops (max f.status (chunkScale c g f).1) {} s
      else if c.run.fills + 1 < chunkCount c.image w then
        .waits (Graph.mapRun (releaseFill s g.num f) c.run.id fun _ => takeFill c.run f (chunkScale c g f).2)
      else .outs (streamedProduct c w f (chunkScale c g f).2) (releaseFill s g.num f) := by
  simp only [Graph.streamEnds, hslot, hdue]
  rfl

theorem streamEnds_of_due {c : Graph.Ctx} {w : TensorDef} {s : State} {g : GraphSlot} {f : Fill} {v : Bytes} (h : ChunkDue c s g f v) :
    Graph.streamEnds c w s =
      if c.run.fills + 1 < chunkCount c.image w then .waits (Graph.mapRun (releaseFill s g.num f) c.run.id fun _ => takeFill c.run f v)
      else .outs (streamedProduct c w f v) (releaseFill s g.num f) := by
  have hdue : ((Graph.fillsOf g c.run.id).head?.filter fun f => f.op == c.run.pc && f.chunk == c.run.fills) = some f := by
    simp [h.head, Option.filter, h.op, h.chunk]
  rw [streamEnds_eq h.slot hdue, chunkScale_of_scaleIs h.scale]
  simp [h.status]

theorem fillChunk_eq {s : State} {g : GraphSlot} {r : Run} {op k : Nat}
    (hnext : ((streamFrom g.image r.pc).drop (r.fills + (Graph.fillsOf g r.id).length)).head? = some (op, k))
    (hhalf : ((g.halves.getD g.turn none).any fun f => f.run == r.id) = false)
    {n row len : Nat} {w : TensorDef} (hn : n = opIn (opEntry g.image op) 1) (hw : w = tensorDef g.image n)
    (hrow : row = w.last * Num.widthOf w.fmt / 8)
    (hlen : len = min (chunkRows g.image w) (w.dims.headD 0 - k * chunkRows g.image w) * row) {x : Nat × Bytes × State}
    (hx : x = Graph.readStored (if k = 0 then Graph.loadScale s r g.image op else s) r n (k * chunkRows g.image w * row) len) :
    Graph.fillChunk s g r = (Graph.mapSlot x.2.2 g.num fun g => { g with
      halves := (g.halves.map fun h => h.filter fun f => f.run == r.id).set g.turn (some ⟨r.id, op, k, x.1, x.2.1⟩)
      turn := 1 - g.turn }).bump Ent.windowStreamBytes len := by
  subst hx hlen hrow hw hn
  simp only [Graph.fillChunk, hnext, hhalf, Bool.false_eq_true, if_false]

theorem exec_chunkFillDone_fills {s : State} {i : Nat} {r : Run} {g : GraphSlot} (hrun : Graph.run s i = some r)
    (hslot : Graph.slot s r.slot = some g) (hmgmt : s.mgmt = true) (hup : s.up 7 = true) (hwait : r.waiting = false)
    (hbusy : Graph.streamBusy s g r = false) : exec (.chunkFillDone i) s = .next (Graph.fillChunk s g r) := by
  rw [exec_chunkFillDone]
  simp [execChunkFillDone, hrun, hslot, hmgmt, hup, hwait, hbusy]

/-! ### FILTER and GATHER -/

theorem exec_filter_outs {s t : State} {i k : Nat} {r q : Run} (hat : AtOperator s i r Op.filter) (hk : k = field (ctxOf s r).entry 22 1)
    (hopen : (inputsOf s r).2.2.collState k = 2) (hlast : ((ctxOf s r).x 0).last = ((inputsOf s r).2.2.params k).metaBytes)
    (hgood : filterBad (tensBytes ((ctxOf s r).x 2)) ((inputsOf s r).2.2.params k).schema = false)
    (hs : Stores (inputsOf s r).2.2 (ctxOf s r)
      ⟨[(((ctxOf s r).x 0).rows.zip (((ctxOf s r).x 1).pats.map (Num.ofBits 32))).map fun (q : List Nat × Int) =>
        if filterTrue (tensBytes ((ctxOf s r).x 2)) ((inputsOf s r).2.2.params k).schema ((q.1.take q.2.toNat).map (BitVec.ofNat 8))
        then 1 else 0], {}⟩ q t) :
    exec (.filter i) s = .next (Graph.advance t q (r.pc + 1)) := by
  subst hk
  rw [exec_filter, execFilter, perform_outs hat _ hs]
  simp [hopen, hlast, hgood]

theorem gatherEnds_tensor {c : Graph.Ctx} {s : State} (hfrom : field c.entry 22 4 = 0) :
    gatherEnds c s = .outs (opGather (c.x 0) (c.x 1)) s := by
  simp [gatherEnds, hfrom]

/-- Index `j` names a row of table `k`. -/
def namesRow (s : State) (k : Nat) (j : Int) : Bool := decide (0 ≤ j) && decide (j < Table.rowCount s k)

theorem gatherEnds_table {c : Graph.Ctx} {s v : State} {k : Nat} {ix : List Int} {rows : List Nat} {b : Bytes}
    (hfrom : field c.entry 22 4 ≠ 0) (htable : tableFor s c (c.od 0).fmt (c.od 0).last = .ok k)
    (hage : s.now ≤ c.run.stamp + s.num Ent.tableAgeLimit) (hix : ix = (c.x 1).pats.map (Num.ofBits 32))
    (hrows : rows = (ix.filter (namesRow s k)).map (·.toNat)) (hmap : ∀ x ∈ rows, Table.inMap s k x = true)
    (hlook : lookupRows s (.run c.run.id) k c.run.stamp rows = (true, St.ok, b, v)) :
    gatherEnds c s = .outs ⟨[patterns (c.od 0).fmt (ix.foldl (fun (acc : Bytes × List Bytes) (j : Int) =>
        if namesRow s k j then (acc.1 ++ acc.2.headD [], acc.2.drop 1) else (acc.1 ++ List.replicate (Table.rowBytes s k) 0, acc.2))
        ([], chunks (Table.rowBytes s k) rows.length b)).1], { indexFaults := (ix.filter fun j => !namesRow s k j).length }⟩ v := by
  have hin : (rows.any fun x => !Table.inMap s k x) = false := by simpa using hmap
  subst hix hrows
  unfold namesRow at *
  simp only [gatherEnds, hfrom, htable, hin, hlook, Nat.not_lt.mpr hage, if_false, Bool.not_true, Bool.false_eq_true, ne_eq,
    not_true_eq_false]

/-! ### MERGE_UPDATE -/

theorem mergeEnds_answered {i k : Nat} {c : Graph.Ctx} {s : State} (htable : tableFor s c (c.x 0).fmt (c.x 0).last = .ok k)
    (hasked : c.run.asked = true) (hanswer : c.run.answer = St.ok) (hsent : (s.strand.outMsgs.any fun m => m.use == .sums i) = false)
    (hawait : Table.awaited s (.run i) = false) :
    mergeEnds i c s
      = .outs ⟨[], { indexFaults := (((c.x 1).pats.map (Num.ofBits 32)).filter fun j => !namesRow s k j).length }⟩ s := by
  simp only [mergeEnds, htable, hasked, hanswer, hsent, hawait, if_true, Bool.or_self, Bool.false_eq_true, if_false, ne_eq,
    not_true_eq_false]
  rfl

/-- Giving the rows their sequence numbers leaves which rows they are (R457). -/
theorem map_fst_numberRows (given : List (Nat × Bytes)) (s : State) : (numberRows given s).1.map (·.1) = given.map (·.1) := by
  have general : ∀ (l : List (Nat × Bytes)) (acc : List (Nat × Nat × Bytes) × State),
      (l.foldl (fun acc r => let q := nextSeq acc.2; (acc.1 ++ [(r.1, q.1, r.2)], q.2)) acc).1.map (·.1)
        = acc.1.map (·.1) ++ l.map (·.1) := by
    intro l
    induction l with
    | nil => simp
    | cons x l ih => intro acc; simp [ih]
  simpa [numberRows] using general given ([], s)

theorem rowLeaves_of_local {s : State} {k row : Nat} (h : Table.shoalNode s k row = s.strand.nodeId) : rowLeaves s k row = true := by
  simp [rowLeaves, h]

/-- The rows that a merge update gives: those that an index names, with their elements as stored (R340). -/
def givenRows (c : Graph.Ctx) (s : State) (k : Nat) (ix : List Int) : List (Nat × Bytes) :=
  ((ix.zip (c.x 0).rows).filter fun x => namesRow s k x.1).map fun x => (x.1.toNat, packElems (c.x 0).fmt x.2)

/-- Accept numbered rows one after the other for run `i`: the highest status and the state after. -/
def acceptRows (s : State) (k i : Nat) (rows : List (Nat × Nat × Bytes)) (v : State) : Nat × State :=
  rows.foldl (fun (acc : Nat × State) x => (max acc.1 (Table.accept acc.2 k x.1 s.strand.nodeId x.2.1 x.2.2 (.run i)).1,
    (Table.accept acc.2 k x.1 s.strand.nodeId x.2.1 x.2.2 (.run i)).2)) (St.ok, v)

theorem filter_numberRows_local {s u v : State} {k : Nat} {given : List (Nat × Bytes)} {rows : List (Nat × Nat × Bytes)}
    (hlocal : ∀ x ∈ given, Table.shoalNode s k x.1 = s.strand.nodeId) (hnum : numberRows given u = (rows, v)) :
    (rows.filter fun x => Table.shoalNode s k x.1 == s.strand.nodeId) = rows := by
  have hfst : rows.map (·.1) = given.map (·.1) := by simpa [hnum] using map_fst_numberRows given u
  refine List.filter_eq_self.mpr fun x hx => ?_
  have hmem : x.1 ∈ given.map (·.1) := hfst ▸ List.mem_map_of_mem hx
  obtain ⟨y, hy, hyx⟩ := List.mem_map.mp hmem
  simp [← hyx, hlocal y hy]

/-- Rows of this node alone name no other node. -/
theorem otherNodes_of_local {s : State} {k : Nat} {given : List (Nat × Bytes)}
    (hlocal : ∀ x ∈ given, Table.shoalNode s k x.1 = s.strand.nodeId) :
    ((given.map fun x => Table.shoalNode s k x.1).eraseDups.filter fun n => n != s.strand.nodeId) = [] := by
  refine List.filter_eq_nil_iff.mpr fun n hn => ?_
  obtain ⟨x, hx, rfl⟩ := List.mem_map.mp (List.mem_eraseDups.mp hn)
  simp [hlocal x hx]

theorem mergeEnds_local {i k : Nat} {c : Graph.Ctx} {s v w : State} {ix : List Int} {given : List (Nat × Bytes)}
    {rows : List (Nat × Nat × Bytes)} (htable : tableFor s c (c.x 0).fmt (c.x 0).last = .ok k) (hasked : c.run.asked = false)
    (hix : ix = (c.x 1).pats.map (Num.ofBits 32)) (hgiven : given = givenRows c s k ix)
    (hlocal : ∀ x ∈ given, Table.inMap s k x.1 = true ∧ Table.shoalNode s k x.1 = s.strand.nodeId)
    (hnum : numberRows given s = (rows, v)) (hacc : acceptRows s k i rows v = (St.ok, w))
    (hsent : (w.strand.outMsgs.any fun m => m.use == .sums i) = false) (hawait : Table.awaited w (.run i) = false) :
    mergeEnds i c s
      = .outs ⟨[], { indexFaults := (ix.filter fun j => !namesRow s k j).length }⟩ (w.bump Ent.unroutableFrames 0) := by
  have hnode : ∀ x ∈ given, Table.shoalNode s k x.1 = s.strand.nodeId := fun x hx => (hlocal x hx).2
  have hmap : (given.any fun x => !Table.inMap s k x.1) = false := by
    simpa using fun x y hx => (hlocal (x, y) hx).1
  have hleave : (given.filter fun x => rowLeaves s k x.1) = given :=
    List.filter_eq_self.mpr fun x hx => rowLeaves_of_local (hnode x hx)
  have hmine := filter_numberRows_local hnode hnum
  have hothers := otherNodes_of_local hnode
  subst hix
  unfold givenRows at hgiven
  unfold namesRow at hgiven
  unfold acceptRows at hacc
  have hsent' : ((w.bump Ent.unroutableFrames 0).strand.outMsgs.any fun m => m.use == .sums i) = false := hsent
  have hawait' : Table.awaited (w.bump Ent.unroutableFrames 0) (.run i) = false := hawait
  simp only [mergeEnds, htable, hasked, ← hgiven, hmap, hleave, hnum, hmine, hacc, hothers, Bool.false_eq_true, if_false,
    List.filter_nil, List.foldl_nil, List.length_nil, Nat.sub_self, Nat.lt_irrefl, hsent', hawait', Bool.or_self, ne_eq, not_true_eq_false]
  rfl

/-! ### BERTH_APPEND -/

theorem needPages_here {s : State} {r : Run} {ids : List PageId} {go : Unit → Graph.Ended} (h : absentPages s ids = []) :
    Graph.needPages s r ids go = go () := by
  simp [Graph.needPages, h]

/-- Berth `o` once the pages `ps` of it are written and layer `l` holds `n` tokens (R345). -/
def appended (s : State) (o : OwnedBerth) (ps : List Nat) (l n : Nat) : State :=
  Berth.mapOwned (Berth.mapOwned s o.id fun x => { x with dirty := (x.dirty ++ ps).eraseDups }) o.id fun x =>
    { x with tokens := x.tokens.set l n }

theorem berthAppendEnds_outs {c : Graph.Ctx} {s v : State} {o : OwnedBerth} {l n : Nat} {ps : List Nat}
    (hberth : Graph.berthFor s c.run = .ok o) (hl : l = field c.entry 22 1) (hn : n = (c.x 0).dims.headD 0)
    (hroom : o.tokens.getD l 0 + n ≤ o.geo.capacity) (hpages : absentPages s (appendIds o l (o.tokens.getD l 0) n) = [])
    (hrows : appendRows c s o l (o.tokens.getD l 0) n = (St.ok, ps, v)) :
    berthAppendEnds c s = .outs ⟨[], quantCount (c.rnd o.geo.fmt) ((appendTodo o.geo n).map (appendRow c o.geo))⟩
      (appended v o ps l (o.tokens.getD l 0 + n)) := by
  subst hl hn
  simp only [berthAppendEnds, hberth, Nat.not_lt.mpr hroom, if_false, needPages_here hpages, hrows, ne_eq, not_true_eq_false]
  rfl

/-! ### LOOP, BRANCH and TIDE_WAIT -/

/-- The number of a control operator: of its input where it names one, else of the field of its entry. -/
def controlCount (c : Graph.Ctx) (n : Nat) : Int :=
  match c.xo 0 with
  | some x => scalarOf x
  | none => n

theorem controlCount_eq {c : Graph.Ctx} {k : Nat} {n : Int}
    (h : c.xo 0 = none ∧ n = (k : Int) ∨ ∃ x, c.xo 0 = some x ∧ n = scalarOf x) :
    controlCount c k = n := by
  rcases h with ⟨hnone, rfl⟩ | ⟨x, hx, rfl⟩
  · simp [controlCount, hnone]
  · simp [controlCount, hx]

/-- What LOOP does with what it sees (R341). -/
def loopEnds (c : Graph.Ctx) (s : State) : Graph.Ended :=
  if controlCount c (field c.entry 24 4) < 0 ∨ 65536 < controlCount c (field c.entry 24 4) then .stops St.badJob {} s
  else if controlCount c (field c.entry 24 4) = 0 then .goes c.run (field c.entry 22 2 + 1) s
  else .goes { c.run with loops := ⟨c.run.pc, field c.entry 22 2, (controlCount c (field c.entry 24 4)).toNat, 0⟩ :: c.run.loops }
    (c.run.pc + 1) s

theorem exec_loop_perform (i : Nat) (s : State) : exec (.loop i) s = .next (Graph.perform s i Op.loop loopEnds) := rfl

/-- What TIDE_WAIT of run `i` does with what it sees (R343). -/
def tideWaitEnds (i : Nat) (c : Graph.Ctx) (s : State) : Graph.Ended :=
  if controlCount c (field c.entry 22 4) < 0 ∨ 4096 < controlCount c (field c.entry 22 4) then .stops St.badJob {} s
  else if c.run.stamp + (controlCount c (field c.entry 22 4)).toNat ≤ s.now then .goes c.run (c.run.pc + 1) s
  else .waits (Graph.mapRun s i fun x => { x with holdTide := some (c.run.stamp + (controlCount c (field c.entry 22 4)).toNat) })

theorem exec_tideWait_perform (i : Nat) (s : State) :
    exec (.tideWait i) s = .next (Graph.perform s i Op.tideWait (tideWaitEnds i)) := rfl

theorem exec_loop_enters {s : State} {i : Nat} {n : Int} {r : Run} (hat : AtOperator s i r Op.loop)
    (hn : controlCount (ctxOf s r) (field (ctxOf s r).entry 24 4) = n) (hpos : 0 < n) (hmax : n ≤ 65536) :
    exec (.loop i) s = .next (Graph.advance (inputsOf s r).2.2
      { r with loops := ⟨r.pc, field (ctxOf s r).entry 22 2, n.toNat, 0⟩ :: r.loops } (r.pc + 1)) := by
  rw [exec_loop_perform, perform_goes hat]
  simp only [loopEnds, hn, not_or.mpr ⟨not_lt.mpr hpos.le, not_lt.mpr hmax⟩, hpos.ne', if_false]
  rfl

theorem exec_loop_passes {s : State} {i : Nat} {r : Run} (hat : AtOperator s i r Op.loop)
    (hn : controlCount (ctxOf s r) (field (ctxOf s r).entry 24 4) = 0) :
    exec (.loop i) s = .next (Graph.advance (inputsOf s r).2.2 r (field (ctxOf s r).entry 22 2 + 1)) := by
  rw [exec_loop_perform, perform_goes hat]
  simp [loopEnds, hn]
  rfl

theorem exec_branch_goes {s : State} {i : Nat} {r : Run} (hat : AtOperator s i r Op.branch) :
    exec (.branch i) s = .next (Graph.advance (inputsOf s r).2.2 r
      (if (scalarOf ((ctxOf s r).x 0) == 0) == (field (ctxOf s r).entry 24 1 == 0) then field (ctxOf s r).entry 22 2 else r.pc + 1)) := by
  rw [exec_branch, execBranch, perform_goes hat rfl]
  rfl

theorem exec_tideWait_goes {s : State} {i : Nat} {n : Int} {r : Run} (hat : AtOperator s i r Op.tideWait)
    (hn : controlCount (ctxOf s r) (field (ctxOf s r).entry 22 4) = n) (hpos : 0 ≤ n) (hmax : n ≤ 4096)
    (hcome : r.stamp + n.toNat ≤ (inputsOf s r).2.2.now) :
    exec (.tideWait i) s = .next (Graph.advance (inputsOf s r).2.2 r (r.pc + 1)) := by
  have hcome' : (ctxOf s r).run.stamp + n.toNat ≤ (inputsOf s r).2.2.now := hcome
  rw [exec_tideWait_perform, perform_goes hat]
  simp only [tideWaitEnds, hn, not_or.mpr ⟨not_lt.mpr hpos, not_lt.mpr hmax⟩, hcome', if_false, if_true]
  rfl

theorem exec_tideWait_holds {s : State} {i : Nat} {n : Int} {r : Run} (hat : AtOperator s i r Op.tideWait)
    (hn : controlCount (ctxOf s r) (field (ctxOf s r).entry 22 4) = n) (hpos : 0 ≤ n) (hmax : n ≤ 4096)
    (hlater : (inputsOf s r).2.2.now < r.stamp + n.toNat) :
    exec (.tideWait i) s = .next (Graph.mapRun (inputsOf s r).2.2 i fun x => { x with holdTide := some (r.stamp + n.toNat) }) := by
  have hlater' : ¬ (ctxOf s r).run.stamp + n.toNat ≤ (inputsOf s r).2.2.now := not_le.mpr hlater
  rw [exec_tideWait_perform, perform_waits hat]
  simp only [tideWaitEnds, hn, not_or.mpr ⟨not_lt.mpr hpos, not_lt.mpr hmax⟩, hlater', if_false]
  rfl

theorem exec_tideWaitRelease_goes {s : State} {i n : Nat} {r : Run} (hrun : Graph.run s i = some r) (hhold : r.holdTide = some n)
    (hmgmt : s.mgmt = true) (hcome : n ≤ s.now) : exec (.tideWaitRelease i) s = .next (Graph.advance s r (r.pc + 1)) := by
  rw [exec_tideWaitRelease]
  simp [execTideWaitRelease, hrun, hhold, hmgmt, hcome]

/-- Settles O36: an operator at which a run stands ends as its function says, and for each case that function is evaluated once above. -/
theorem statefulOperatorsComplete : Obligations.StatefulOperatorsComplete := by
  unfold Obligations.StatefulOperatorsComplete
  refine ⟨?matmulWhole, ?matmulChunk, ?matmulLast, ?fill, ?filter, ?gatherTensor, ?gatherTable, ?mergeAnswered, ?mergeLocal, ?append,
    ?loopEnters, ?loopPasses, ?branch, ?waitGoes, ?waitHolds, ?release⟩
  case matmulWhole =>
    intro i s t r q hat hw hs
    rw [exec_matmul, execMatmul, perform_outs hat (matmulEnds_whole hw) hs]
  case matmulChunk =>
    intro i s u r w g f v hat hw hslot hhead hop hchunk hstatus hscale hu hmore
    have hends := streamEnds_of_due (c := ctxOf s r) (w := w) ⟨hslot, hhead, hop, hchunk, hstatus, hscale⟩
    subst hu
    rw [exec_matmul, execMatmul, perform_waits hat ((matmulEnds_streamed hw).trans (hends.trans (if_pos hmore)))]
    rfl
  case matmulLast =>
    intro i s t u r q w g f v x hat hw hslot hhead hop hchunk hstatus hscale hu hlast hx hs
    have hends := streamEnds_of_due (c := ctxOf s r) (w := w) ⟨hslot, hhead, hop, hchunk, hstatus, hscale⟩
    subst hu hx
    rw [exec_matmul, execMatmul, perform_outs hat ((matmulEnds_streamed hw).trans (hends.trans (if_neg hlast.not_gt))) hs]
  case fill =>
    intro i op k n row b s u r g w x hrun hslot hmgmt hup hwait hbusy hb hnext hhalf hn hw hrow hu hx
    subst hb hu
    rw [exec_chunkFillDone_fills hrun hslot hmgmt hup hwait hbusy, fillChunk_eq hnext hhalf hn hw hrow rfl hx]
  case filter =>
    intro i k s t u r q hat hu hk hopen hlast hgood hs
    subst hu
    exact exec_filter_outs hat hk hopen hlast hgood hs
  case gatherTensor =>
    intro i s t r q hat hfrom hs
    rw [exec_gather, execGather, perform_outs hat (gatherEnds_tensor hfrom) hs]
  case gatherTable =>
    intro i k ix rows b s t u v r q hat hfrom hu htable hage hix hrows hmap hlook hs
    subst hu
    rw [exec_gather, execGather, perform_outs hat (gatherEnds_table hfrom htable hage hix hrows hmap hlook) hs]
  case mergeAnswered =>
    intro i k n s t u r q hat hu htable hasked hanswer hsent hawait hn hs
    subst hu hn
    rw [exec_mergeUpdate, execMergeUpdate, perform_outs hat (mergeEnds_answered htable hasked hanswer hsent hawait) hs]
  case mergeLocal =>
    intro i k ix given rows s t u v w r q hat hu htable hasked hix hgiven hlocal hnum hacc hsent hawait hs
    subst hu
    rw [exec_mergeUpdate, execMergeUpdate,
      perform_outs hat (mergeEnds_local htable hasked hix hgiven hlocal hnum hacc hsent hawait) hs]
  case append =>
    intro i l n o ps s t u v r q hat hu hberth hl hn hroom hpages hrows hs
    subst hu
    rw [exec_berthAppend, execBerthAppend, perform_outs hat (berthAppendEnds_outs hberth hl hn hroom hpages hrows) hs]
  case loopEnters => exact fun i n s r hat hn hpos hmax => exec_loop_enters hat (controlCount_eq hn) hpos hmax
  case loopPasses =>
    intro i s r hat hn
    refine exec_loop_passes hat (controlCount_eq ?_)
    exact hn.imp (And.imp_right fun h => by simp [h]) fun ⟨x, hx, hzero⟩ => ⟨x, hx, hzero.symm⟩
  case branch => exact fun i s r hat => exec_branch_goes hat
  case waitGoes => exact fun i n s r hat hn hpos hmax hcome => exec_tideWait_goes hat (controlCount_eq hn) hpos hmax hcome
  case waitHolds => exact fun i n s r hat hn hpos hmax hlater => exec_tideWait_holds hat (controlCount_eq hn) hpos hmax hlater
  case release => exact fun i n r s hrun hhold hmgmt hcome => exec_tideWaitRelease_goes hrun hhold hmgmt hcome

end Sys2Proof.Machine

/-!
The near-bank units (09_near_bank.md): the issue, start, commands and end of a sequence (R290 to R302), and what shares a bank with its
unit: slots, refreshes and temperatures (R310 to R317).
-/
namespace Sys2Proof.Machine

open Sys2Proof

/-! Issue and start of a sequence (R293, R294, R296). -/

/-- R293, R294: descriptor `d` names a bank and a count in range, and an aligned list and completion record in the memory map. -/
structure DescriptorFits (d : Bytes) : Prop where
  bank : field d 0 2 < 4096
  nonempty : field d 4 4 ≠ 0
  most : field d 4 4 ≤ 65536
  listAligned : field d 8 8 % 64 = 0
  recordAligned : field d 16 8 % 32 = 0
  listRange : validRange (field d 8 8) (16 * field d 4 4) = true
  recordRange : validRange (field d 16 8) 32 = true

/-- The list of descriptor `d` reads as the commands `cs`, and leaves the state `u`. -/
structure ListReads (s : State) (d : Bytes) (cs : List (Nat × NbCmd)) (b : Bytes) (u : State) : Prop where
  bytes : agentRead s (field d 2 2 % 4096) (field d 8 8) (16 * field d 4 4) = (St.ok, b, u)
  commands : Nb.decodeList (field d 4 4) 0 (records 16 b) = some cs

/-- The pages of the rows that the commands of a list name in a bank. -/
def pagesOfCmds (bank : Nat) (cs : List (Nat × NbCmd)) : List Nat :=
  ((cs.flatMap fun c => Nb.rows c.2).map fun r => pageOf (Nb.rowAddr bank r)).eraseDups

/-- The sequence of descriptor `d` with the commands `cs`, all of them still to run. -/
def issuedSeq (d : Bytes) (cs : List (Nat × NbCmd)) : NbSeq :=
  { owner := field d 2 2 % 4096, tag := field d 24 4, completion := field d 16 8, cmds := cs, left := cs, count := field d 4 4, done := 0
    pages := pagesOfCmds (field d 0 2) cs, outputBytes := 0, saturated := 0, wrote := [], status := St.ok, failed := 0, scan := none }

/-- R293: a bank takes a sequence where the units run and its queue has room, in service and outside Neap. -/
theorem Nb.takes_iff {s : State} {k : Nat} :
    Nb.takes s k = true ↔ Nb.runs s = true ∧ (Nb.bank s k).queue.length < 8 ∧ Nb.held s k = false ∧ inNeap s = false := by
  simp [Nb.takes, and_assoc]

/-- R293, R294: a descriptor that fits, whose list reads and whose rows lie in planes of the owner, is queued and answered OK. -/
theorem execNbSequenceIssue_queues {s u : State} {d b : Bytes} {cs : List (Nat × NbCmd)} (hfits : DescriptorFits d)
    (htakes : Nb.takes s (field d 0 2) = true) (hlist : ListReads s d cs b u)
    (howned : ((pagesOfCmds (field d 0 2) cs).any fun a => !Mem.planeOf u.mem a (field d 2 2 % 4096)) = false)
    (hfree : ((pagesOfCmds (field d 0 2) cs).any fun a => pageHeld u a) = false) :
    execNbSequenceIssue d s = .next (nbAnswer (Nb.mapBank ((pagesOfCmds (field d 0 2) cs).foldl touchAddr u) (field d 0 2) fun b =>
      { b with queue := b.queue ++ [issuedSeq d cs] }) (field d 24 4) St.ok) := by
  obtain ⟨hruns, hroom, hserves, hawake⟩ := Nb.takes_iff.mp htakes
  obtain ⟨hbank, hsome, hmost, halist, harecord, hlistRange, hrecordRange⟩ := hfits
  have hwell : ¬ (4096 ≤ field d 0 2 ∨ field d 4 4 = 0 ∨ 65536 < field d 4 4 ∨ field d 8 8 % 64 ≠ 0 ∨ field d 16 8 % 32 ≠ 0) := by
    omega
  have haccepts : ¬ (8 ≤ (Nb.bank s (field d 0 2)).queue.length ∨ inNeap s = true ∨ Nb.held s (field d 0 2) = true) := by
    simp [hroom, hserves, hawake]
  unfold pagesOfCmds at howned hfree
  simp only [execNbSequenceIssue, hruns, hlistRange, hrecordRange, if_neg hwell, if_neg haccepts, hlist.bytes, hlist.commands, howned,
    hfree, Bool.not_true, Bool.false_eq_true, ne_eq, not_true_eq_false, if_false]
  rfl

/-- R296: the sequence at the head of an idle bank's queue starts. -/
theorem execNbSequenceStart_starts {s : State} {k : Nat} (hruns : Nb.runs s = true) (hqueue : (Nb.bank s k).queue ≠ [])
    (hidle : (Nb.bank s k).running = false) (huntested : Nb.tested s k = false) :
    execNbSequenceStart k s = .next (Nb.mapBank s k fun b => { b with running := true, acc := List.replicate 1024 0, staged := [] }) := by
  unfold execNbSequenceStart
  exact if_neg (by simp [hruns, hqueue, hidle, huntested])

/-! Commands of the running sequence (R297). -/

/-- R297: the next command of the running sequence is carried out by the row that it belongs to, on the rows that it opens. -/
theorem runNb_of_opened {s u : State} {k i : Nat} {q : NbSeq} {x : NbCmd} {l : List (Nat × NbCmd)} {rs : List Nat}
    {ds : List (List (Option Bytes))} {rows : NbCmd → Option (List Nat)}
    {f : NbSeq → NbCmd → List (List (Option Bytes)) → State → State} (hruns : Nb.runs s = true) (hcurrent : Nb.current s k = some q)
    (hleft : q.left = (i, x) :: l) (hopen : openRows s k q.owner rs = .ok (ds, u)) (hrows : rows x = some rs) :
    runNb s k rows f = Nb.stepSeq (f q x ds u) k x := by
  simp [runNb, hcurrent, hleft, hrows, hruns, hopen]

/-- R297: past its last command a sequence ends. -/
theorem execSeqEnd_past_last {s : State} {k : Nat} {q : NbSeq} (hruns : Nb.runs s = true) (hcurrent : Nb.current s k = some q)
    (hleft : q.left = []) : execSeqEnd k s = .next (seqEnded k q (Nb.endSeq s k q)) := by
  simp [execSeqEnd, hcurrent, hruns, hleft]

/-- R297: at an END command a sequence ends, with END among the commands done. -/
theorem execSeqEnd_at_end {s : State} {k i : Nat} {q : NbSeq} {l : List (Nat × NbCmd)} (hruns : Nb.runs s = true)
    (hcurrent : Nb.current s k = some q) (hleft : q.left = (i, .end_) :: l) :
    execSeqEnd k s = .next (seqEnded k q (Nb.endSeq s k { q with done := q.done + 1 })) := by
  simp [execSeqEnd, hcurrent, hruns, hleft]

/-- Settles O31: a sequence is queued and started by the one branch left, its commands all by `runNb_of_opened`, and it ends at END or
past its last command. -/
theorem nearBankCommandsComplete : Obligations.NearBankCommandsComplete := by
  refine ⟨?issue, ?start, ?rowcopy, ?rowinit, ?rowlogic, ?opload, ?popacc, ?accout, ?pastLast, ?atEnd⟩
  case issue =>
    rintro d n b ps u cs s hruns hbank rfl hsome hmost halist harecord hlistRange hrecordRange hroom hawake hserves hread hdecode rfl
      howned hfree
    exact ⟨issuedSeq d cs, rfl, rfl, rfl, rfl, rfl, rfl, rfl, rfl,
      execNbSequenceIssue_queues ⟨hbank, hsome, hmost, halist, harecord, hlistRange, hrecordRange⟩
        (Nb.takes_iff.mpr ⟨hruns, hroom, hserves, hawake⟩) ⟨hread, hdecode⟩ howned hfree⟩
  case start =>
    intro k s hruns hqueue hidle huntested
    exact execNbSequenceStart_starts hruns hqueue hidle huntested
  case rowcopy =>
    rintro k i _ q l ds u _ s hruns hcurrent hleft ⟨a, b, rfl, rfl⟩ hopen
    rw [exec_rowcopy, execRowcopy, runNb_of_opened hruns hcurrent hleft hopen rfl]
  case rowinit =>
    rintro k i _ q l ds u _ s hruns hcurrent hleft ⟨a, b, d, rfl, rfl⟩ hopen
    rw [exec_rowinit, execRowinit, runNb_of_opened hruns hcurrent hleft hopen rfl]
  case rowlogic =>
    rintro k i _ q l ds u _ s hruns hcurrent hleft ⟨d, a, b, op, rfl, rfl⟩ hopen
    rw [exec_rowlogic, execRowlogic, runNb_of_opened hruns hcurrent hleft hopen rfl]
  case opload =>
    rintro k i _ q l ds u _ s hruns hcurrent hleft (⟨a, v, rfl, rfl⟩ | ⟨a, r, n, rfl, rfl⟩) hopen
    · rw [exec_opload, execOpload, runNb_of_opened hruns hcurrent hleft hopen rfl]
    · rw [exec_opload, execOpload, runNb_of_opened hruns hcurrent hleft hopen rfl]
  case popacc =>
    rintro k i _ q l ds u _ s hruns hcurrent hleft ⟨r, a, b, d, e, f, g, h, j, m, n, p, rfl, rfl⟩ hopen
    rw [exec_popacc, execPopacc, runNb_of_opened hruns hcurrent hleft hopen rfl]
  case accout =>
    rintro k i _ q l ds u _ s hruns hcurrent hleft ⟨a, b, d, e, f, g, rfl, rfl⟩ hopen
    rw [exec_accout, execAccout, runNb_of_opened hruns hcurrent hleft hopen rfl]
  case pastLast => exact fun k q s hruns hcurrent hleft => execSeqEnd_past_last hruns hcurrent hleft
  case atEnd => exact fun k i q l s hruns hcurrent hleft => execSeqEnd_at_end hruns hcurrent hleft

/-! A bank after a change. -/

@[simp] theorem Nb.fresh_id (k : Nat) : (Nb.fresh k).id = k := rfl

/-- A change that keeps the bank's ID is read back; a bank without an entry is changed from its fresh state. -/
theorem Nb.bank_mapBank {s : State} {k : Nat} {f : Bank → Bank} (hid : ∀ b, (f b).id = b.id) :
    Nb.bank (Nb.mapBank s k f) k = f (Nb.bank s k) := by
  have hkeeps (b : Bank) : ((if b.id = k then f b else b).id == k) = (b.id == k) := by
    split
    · rw [hid]
    · rfl
  cases hfound : s.nb.banks.find? fun b => b.id == k with
  | none =>
    have hnone : (s.nb.banks.any fun b => b.id == k) = false := by simpa using hfound
    simp [Nb.bank, Nb.mapBank, hnone, hfound, hid]
  | some b =>
    have hb : b.id = k := by simpa using List.find?_some hfound
    have hany : (s.nb.banks.any fun b => b.id == k) = true := List.any_eq_true.mpr ⟨b, List.mem_of_find?_eq_some hfound, by simp [hb]⟩
    simp [Nb.bank, Nb.mapBank, hany, List.find?_map, hkeeps, hfound, hb]

/-- What is read of a bank depends on the near-bank unit alone. -/
theorem Nb.bank_congr {s t : State} (h : s.nb = t.nb) (k : Nat) : Nb.bank s k = Nb.bank t k := by
  rw [Nb.bank, Nb.bank, h]

/-- An open of a row takes no refresh slot. -/
theorem Nb.noteOpen_refreshSlots (s : State) (k row : Nat) :
    (Nb.bank (Nb.noteOpen s k row) k).refreshSlots = (Nb.bank s k).refreshSlots := by
  rw [Nb.noteOpen, Nb.bank_mapBank (by intro b; rfl)]

theorem noteExternal_refreshSlots (s : State) (k : Nat) (g : Grant) (e : Option Nat) (w : Bool) :
    (Nb.bank (noteExternal s k g e w) k).refreshSlots = (Nb.bank s k).refreshSlots := by
  unfold noteExternal
  split
  · rw [Nb.bank_congr (State.bump_nb ..), Nb.noteOpen_refreshSlots]
  · rfl

/-- The guard of the rows of a bank passes where its number is in range and domain 5 is up. -/
theorem bank_served {s : State} {k : Nat} (hk : k < 4096) (hup : s.up 5 = true) : ¬ (4096 ≤ k ∨ (!s.up 5) = true) := by
  simp [hk, hup]

/-! Slots of a bank (R310, R311). -/

/-- R311: the unit's use of the last 15 slots leaves it the next one. -/
def withinDuty (s : State) (k : Nat) : Bool :=
  decide ((((Nb.bank s k).recent.take 15).filter id).length < dutyInForce s (k / 512))

/-- R310: the unit has waited for external requests through ExternalBurstMax slots. -/
def burstOver (s : State) (k : Nat) : Bool := decide (s.cfg Ent.externalBurstMax ≤ (Nb.bank s k).waited)

/-- R310: who gets the next slot of a bank, in the order of its claims. -/
def nextGrant (s : State) (k : Nat) (external : Option Nat) : Grant :=
  let wants := unitWants s (Nb.bank s k)
  if 0 < (Nb.bank s k).refreshSlots then .refresh
  else if external.isSome && !(wants && withinDuty s k && burstOver s k) then .external
  else if wants && withinDuty s k then .unit
  else .none

theorem nextGrant_of_none_due {s : State} {k : Nat} {e : Option Nat} (h : (Nb.bank s k).refreshSlots = 0) :
    nextGrant s k e =
      if e.isSome ∧ ¬ (unitWants s (Nb.bank s k) = true ∧ withinDuty s k = true ∧ burstOver s k = true) then .external
      else if unitWants s (Nb.bank s k) = true ∧ withinDuty s k = true then .unit
      else .none := by
  have hnone : ¬ 0 < (Nb.bank s k).refreshSlots := by omega
  simp only [nextGrant, hnone, if_false, Bool.and_eq_true, Bool.not_eq_true', ← Bool.not_eq_true, and_assoc]

/-- What BANK_SLOT makes of a bank: a refresh slot that is due is used up, and the slot is granted. -/
structure TakesSlot (g : Grant) (b c : Bank) : Prop where
  id : c.id = b.id
  refreshSlots : c.refreshSlots = b.refreshSlots - 1
  grant : c.grant = g

/-- R310: the slot goes to `nextGrant`; beside it only an open of the external access's row and the longest wait are noted. -/
theorem execBankSlot_takes {s : State} {k : Nat} (e : Option Nat) (hk : k < 4096) (hup : s.up 5 = true) :
    ∃ wait f, execBankSlot k e s = .next (Nb.mapBank
        ((noteExternal s k (nextGrant s k e) e (unitWants s (Nb.bank s k))).setNum Ent.maxExternalWaitNs wait) k f) ∧
      ∀ b, TakesSlot (nextGrant s k e) b (f b) := by
  rw [execBankSlot, if_neg (bank_served hk hup)]
  exact ⟨_, _, rfl, fun _ => ⟨rfl, rfl, rfl⟩⟩

/-- R310: the bank after its slot; no memory changes. -/
theorem execBankSlot_grants {s : State} {k : Nat} (e : Option Nat) (hk : k < 4096) (hup : s.up 5 = true) :
    ∃ t, execBankSlot k e s = .next t ∧ (Nb.bank t k).refreshSlots = (Nb.bank s k).refreshSlots - 1 ∧
      (Nb.bank t k).grant = nextGrant s k e ∧ t.mem = s.mem := by
  obtain ⟨wait, f, hexec, htakes⟩ := execBankSlot_takes e hk hup
  have hbank := Nb.bank_mapBank (k := k) (s := (noteExternal s k (nextGrant s k e) e (unitWants s (Nb.bank s k))).setNum
    Ent.maxExternalWaitNs wait) fun b => (htakes b).id
  refine ⟨_, hexec, ?_, ?_, by simp [execBankSlot_frame k e s hexec]⟩
  · rw [hbank, (htakes _).refreshSlots, Nb.bank_congr (State.setNum_nb ..), noteExternal_refreshSlots]
  · rw [hbank, (htakes _).grant]

/-! Refreshes (R314, R316, R317). -/

/-- R316: a visit that is not skipped takes two slots. -/
theorem execRefreshVisit_refreshes {s : State} {k : Nat} (hk : k < 4096) (hup : s.up 5 = true)
    (hdue : s.cfg Ent.refreshSkip ≠ 1 ∨ groupFresh (Nb.bank s k) (bankWindow s k) = false) :
    execRefreshVisit k s = .next ((Nb.mapBank s k fun b => { b with
      group := (b.group + 1) % 10368, refreshSlots := b.refreshSlots + 2, visits := b.visits + bankWindow s k }).bump Ent.refreshEvents) := by
  have hperforms : ¬ (s.cfg Ent.refreshSkip = 1 ∧ groupFresh (Nb.bank s k) (bankWindow s k) = true) := by
    rwa [not_and_or, Bool.not_eq_true]
  rw [execRefreshVisit, if_neg (bank_served hk hup)]
  exact if_neg hperforms

/-- R316: a visit that RefreshSkip allows takes no slot where every row of its group was opened within the last half window, by the clock of
visits (notes/assumptions/30.md). -/
theorem execRefreshVisit_skips {s : State} {k : Nat} (hk : k < 4096) (hup : s.up 5 = true) (hskip : s.cfg Ent.refreshSkip = 1)
    (hfresh : groupFresh (Nb.bank s k) (bankWindow s k) = true) :
    execRefreshVisit k s = .next ((Nb.mapBank s k fun b => { b with
      group := (b.group + 1) % 10368, visits := b.visits + bankWindow s k }).bump Ent.refreshSkipped) := by
  rw [execRefreshVisit, if_neg (bank_served hk hup)]
  exact if_pos ⟨hskip, hfresh⟩

/-- R317: at the limit of opens of a row its neighbours take one slot, and its count starts anew. -/
theorem execNeighbourRefresh_refreshes {s : State} {k r : Nat} (hup : s.up 5 = true)
    (hlimit : s.cfg Ent.neighbourRefreshLimit ≤ ((Nb.bank s k).opens.lookup (Nb.physRow s k r)).getD 0) :
    execNeighbourRefresh k r s = .next ((Nb.mapBank s k fun b => { b with
      refreshSlots := b.refreshSlots + 1
      opens := b.opens.filter fun (x : Nat × Nat) => x.1 != Nb.physRow s k r }).bump Ent.neighbourRefreshes) := by
  simp [execNeighbourRefresh, hup, hlimit]

/-! Temperatures (R312, R315). -/

/-- R312, R315: a reading takes each stack that it covers by `readStack`, where two readings in a row span the 2 ms
(notes/assumptions/30.md), and leaves the others. -/
theorem execStackTempRead_reads {s : State} (l : List Nat) (hup : s.up 5 = true) :
    ∃ t, execStackTempRead l s = .next t ∧ t.nb.thermal.length = s.nb.thermal.length ∧
      ∀ (i : Nat) (x : Stack), s.nb.thermal[i]? = some x → t.nb.thermal[i]? = some ((l[i]?.map (readStack x)).getD x) := by
  refine ⟨_, by rw [execStackTempRead, if_neg (by simp [hup])], by simp, ?_⟩
  intro i x hx
  obtain ⟨hi, rfl⟩ := List.getElem?_eq_some_iff.mp hx
  cases hl : l[i]? <;> simp [hi, hl]

/-- Settles O32: a slot goes to `nextGrant`, whose order is the statement's; a visit, a neighbour refresh and a reading each by the branch
that their conditions leave. -/
theorem bankSharingCompletes : Obligations.BankSharingCompletes := by
  refine ⟨?slotDue, ?slotFree, ?visit, ?skip, ?neighbour, ?temperatures⟩
  case slotDue =>
    intro k e s hk hup hdue
    obtain ⟨t, hexec, hslots, hgrant, hmem⟩ := execBankSlot_grants e hk hup
    exact ⟨t, hexec, hslots, hgrant.trans (if_pos hdue), hmem⟩
  case slotFree =>
    rintro k e _ _ _ s hk hup hnone rfl rfl rfl
    obtain ⟨t, hexec, hslots, hgrant, hmem⟩ := execBankSlot_grants e hk hup
    refine ⟨t, hexec, by rw [hslots, hnone], hmem, ?_⟩
    rw [hgrant, nextGrant_of_none_due hnone, withinDuty, burstOver]
  case visit => exact fun k s hk hup hdue => execRefreshVisit_refreshes hk hup hdue
  case skip => exact fun k s hk hup hskip hfresh => execRefreshVisit_skips hk hup hskip hfresh
  case neighbour =>
    rintro k r _ s hup rfl hlimit
    exact execNeighbourRefresh_refreshes hup hlimit
  case temperatures =>
    intro l s hup
    obtain ⟨t, hexec, hlength, hread⟩ := execStackTempRead_reads l hup
    refine ⟨t, hexec, hlength, fun i x hx => ?_⟩
    rw [hread i x hx]
    cases l[i]? <;> rfl

end Sys2Proof.Machine

/-!
Operator graphs (10_operator_graphs.md): attention over a berth that is served here (R344, R346), and the load, the runs and the unload of
a graph (R327, R348 to R354, R365, R368).
-/
namespace Sys2Proof.Machine

open Sys2Proof

/-! ### Attention over a berth that is served here

The sequences of a near-bank unit run to their end within the command of the operator, on banks that are idle (notes/assumptions/85.md). -/

theorem attention_of_berth {c : Graph.Ctx} {s : State} {o : OwnedBerth} {f : OwnedBerth → Nat → Nat → Graph.Ended}
    (hberth : Graph.berthFor s c.run = .ok o) :
    Graph.attention c s f = f o (field c.entry 22 1) (o.tokens.getD (field c.entry 22 1) 0) := by
  simp [Graph.attention, hberth]

/-- R344, steps 1 and 2: with its pages in memory and its banks idle, the first side goes on with the scores. -/
theorem keySide_scores {c : Graph.Ctx} {s v : State} {o : OwnedBerth} {l n : Nat} {more : List PageId} {ss : List (List Nat)}
    {f : List (List Nat) → State → Graph.Ended} (hpages : absentPages s (Graph.keyIds o l n ++ Graph.scaleIds o l 0 n ++ more) = [])
    (hidle : Graph.banksIdle s (Graph.keyIds o l n) = true) (hscores : Graph.scoreRows c s o l n = (St.ok, ss, v)) :
    Graph.keySide c s o l n more f = f ss v := by
  rw [Graph.keySide, needPages_here hpages]
  simp [hidle, hscores]

/-- R344, step 5: the weights `ws` fold with the V scales into `fs`, and the tiles that `fs` uses lie in memory on idle banks of the state
`s0`. -/
structure FoldsWeights (c : Graph.Ctx) (s0 s : State) (o : OwnedBerth) (l n : Nat) (ws : List (List Nat))
    (fs : List (List Nat × Nat × List Nat)) (w : State) : Prop where
  folded : Graph.foldRows c s o l n ws = (St.ok, fs, w)
  pages : absentPages s0 (Graph.valueIds o l n fs) = []
  idle : Graph.banksIdle s0 (Graph.valueIds o l n fs) = true

/-- R344, steps 5 to 7: the second side goes on with the products. -/
theorem valueSide_products {c : Graph.Ctx} {s0 s w x : State} {o : OwnedBerth} {l n : Nat} {ws os : List (List Nat)}
    {fs : List (List Nat × Nat × List Nat)} {f : List (List Nat) → OpCount → State → Graph.Ended}
    (hfold : FoldsWeights c s0 s o l n ws fs w) (hproducts : Graph.valueRows c w o l n fs = (St.ok, os, x)) :
    Graph.valueSide c s0 s o l n ws f = f os (quantCount c.r0 ((fs.zip ws).map fun p => foldedWeights p.1.1 p.2)) x := by
  simp [Graph.valueSide, hfold.folded, needPages_here hfold.pages, hfold.idle, hproducts]

section
variable {c : Graph.Ctx} {s : State} {o : OwnedBerth} {l n : Nat}

theorem attendQkEnds_outs {v : State} {ss : List (List Nat)} (hberth : Graph.berthFor s c.run = .ok o) (hl : l = field c.entry 22 1)
    (hn : n = o.tokens.getD l 0) (hpages : absentPages s (Graph.keyIds o l n ++ Graph.scaleIds o l 0 n) = [])
    (hidle : Graph.banksIdle s (Graph.keyIds o l n) = true) (hscores : Graph.scoreRows c s o l n = (St.ok, ss, v)) :
    attendQkEnds c s = .outs
      ⟨[ss.flatMap fun x => x.take (c.od 0).last ++ List.replicate ((c.od 0).last - min (c.od 0).last n) Num.negInf32],
        quantCount c.r0 ((c.x 0).rows.map fun x => x.map (Num.decode Num.fp32))⟩ v := by
  subst hl hn
  rw [← List.append_nil (_ ++ _)] at hpages
  rw [attendQkEnds, attention_of_berth hberth]
  exact keySide_scores hpages hidle hscores

theorem attendPvEnds_empty (hberth : Graph.berthFor s c.run = .ok o) (hl : l = field c.entry 22 1) (hnone : o.tokens.getD l 0 = 0) :
    attendPvEnds c s = .outs ⟨[(c.x 0).rows.flatMap fun _ => List.replicate o.geo.headDim 0], {}⟩ s := by
  subst hl
  rw [attendPvEnds, attention_of_berth hberth]
  exact if_pos hnone

theorem attendPvEnds_outs {w x : State} {os : List (List Nat)} {fs : List (List Nat × Nat × List Nat)}
    (hberth : Graph.berthFor s c.run = .ok o) (hl : l = field c.entry 22 1) (hn : n = o.tokens.getD l 0) (hsome : n ≠ 0)
    (hscales : absentPages s (Graph.scaleIds o l 1 n) = []) (hfold : FoldsWeights c s s o l n (c.x 0).rows fs w)
    (hproducts : Graph.valueRows c w o l n fs = (St.ok, os, x)) :
    attendPvEnds c s = .outs ⟨[os.flatten], quantCount c.r0 ((fs.zip (c.x 0).rows).map fun p => foldedWeights p.1.1 p.2)⟩ x := by
  subst hl hn
  rw [attendPvEnds, attention_of_berth hberth]
  exact (if_neg hsome).trans ((needPages_here hscales).trans (valueSide_products hfold hproducts))

theorem attendEnds_empty (hberth : Graph.berthFor s c.run = .ok o) (hl : l = field c.entry 22 1) (hnone : o.tokens.getD l 0 = 0) :
    attendEnds c s = .outs
      ⟨[(c.x 0).rows.flatMap fun _ => List.replicate o.geo.headDim 0, (c.x 0).rows.flatMap fun _ => emptySummary], {}⟩ s := by
  subst hl
  rw [attendEnds, attention_of_berth hberth]
  exact if_pos hnone

theorem attendEnds_outs {v w x : State} {ss os : List (List Nat)} {ws : List (List Nat × List Nat)}
    {fs : List (List Nat × Nat × List Nat)} (hberth : Graph.berthFor s c.run = .ok o) (hl : l = field c.entry 22 1)
    (hn : n = o.tokens.getD l 0) (hsome : n ≠ 0)
    (hpages : absentPages s (Graph.keyIds o l n ++ Graph.scaleIds o l 0 n ++ Graph.scaleIds o l 1 n) = [])
    (hidle : Graph.banksIdle s (Graph.keyIds o l n) = true) (hscores : Graph.scoreRows c s o l n = (St.ok, ss, v))
    (hws : ws = ss.map (attendWeights (field c.entry 32 2))) (hfold : FoldsWeights c s v o l n (ws.map (·.1)) fs w)
    (hproducts : Graph.valueRows c w o l n fs = (St.ok, os, x)) :
    attendEnds c s = .outs ⟨[os.flatten, ws.flatMap (·.2)],
      (quantCount c.r0 ((c.x 0).rows.map fun y => y.map (Num.decode Num.fp32))).plus
        (quantCount c.r0 ((fs.zip (ws.map (·.1))).map fun p => foldedWeights p.1.1 p.2))⟩ (noteAttend x (field c.entry 32 2) ss) := by
  subst hl hn hws
  rw [attendEnds, attention_of_berth hberth]
  exact (if_neg hsome).trans ((keySide_scores hpages hidle hscores).trans (valueSide_products hfold hproducts))

end

/-- Settles O37: each operator ends as its sides do, and those go on once what they need is in memory and idle. -/
theorem attentionOperatorsComplete : Obligations.AttentionOperatorsComplete := by
  refine ⟨?qk, ?pvEmpty, ?pv, ?attendEmpty, ?attend⟩
  case qk =>
    rintro i l n o ss s t u v r q hat rfl hberth hl hn hpages hidle hscores hs
    have hends := attendQkEnds_outs hberth hl hn hpages hidle hscores
    rw [exec_attendQk, execAttendQk, perform_outs hat hends hs]
  case pvEmpty =>
    rintro i l o s t u r q hat rfl hberth hl hnone hs
    rw [exec_attendPv, execAttendPv, perform_outs hat (attendPvEnds_empty hberth hl hnone) hs]
  case pv =>
    rintro i l n o fs os s t u v w r q hat rfl hberth hl hn hsome hscales hfold hpages hidle hproducts hs
    have hends := attendPvEnds_outs hberth hl hn hsome hscales ⟨hfold, hpages, hidle⟩ hproducts
    rw [exec_attendPv, execAttendPv, perform_outs hat hends hs]
  case attendEmpty =>
    rintro i l o s t u r q hat rfl hberth hl hnone hs
    rw [exec_attend, execAttend, perform_outs hat (attendEnds_empty hberth hl hnone) hs]
  case attend =>
    rintro i l n o ss os ws fs s t u v w x r q hat rfl hberth hl hn hsome hpages hidle hscores hws hfold hvpages hvidle hproducts hs
    have hends := attendEnds_outs hberth hl hn hsome hpages hidle hscores hws ⟨hfold, hvpages, hvidle⟩ hproducts
    rw [exec_attend, execAttend, perform_outs hat hends hs]

/-! ### The worst of what a command meets (R12) -/

/-- One more cause: the worst is as before where it does not hold, and there is one where it does. -/
theorem worst_append_singleton_eq_none {l : List (Bool × Nat × Nat)} {c : Bool × Nat × Nat} :
    worst (l ++ [c]) = none ↔ worst l = none ∧ c.1 = false := by
  obtain ⟨_ | _, r⟩ := c
  · simp [worst]
  · simp only [worst, List.foldl_append, List.foldl_cons, List.foldl_nil, Bool.not_true, Bool.false_eq_true, if_false,
      Bool.true_eq_false, and_false, iff_false]
    split
    next => simp
    next a hl => split <;> simp only [hl, reduceCtorEq, not_false_eq_true]

/-- R12: nothing refuses a command of whose causes none holds, and only such a one. -/
theorem worst_eq_none_iff {l : List (Bool × Nat × Nat)} : worst l = none ↔ ∀ c ∈ l, c.1 = false := by
  induction l using List.reverseRecOn with
  | nil => simp [worst]
  | append_singleton l c ih => rw [worst_append_singleton_eq_none, ih]; simp [or_imp, forall_and]

/-! ### Load (R327, R348) -/

theorem imageRefusals_of_read {s : State} {b : Bytes} {n : Nat} (h : Graph.imageRefusal s b n = St.ok) :
    imageRefusals s (St.ok, b) n = Graph.placeRefusals s b := by
  simp [imageRefusals, h]

/-- R348: the descriptor of GRAPH_LOAD names a free slot and an aligned image of at most MaxImageBytes, and graphs are in service. -/
structure LoadFits (s : State) (d : Bytes) : Prop where
  named : field d 4 2 ≠ 0
  most : field d 4 2 ≤ 255
  free : Graph.slot s (field d 4 2) = none
  aligned : field d 8 8 % 64 = 0
  service : functionOn s 2 = true
  size : field d 16 8 ≤ s.num Ent.maxImageBytes

/-- R327, R348: image `b` passes every check and has its place and its room. -/
structure ImageFits (s : State) (b : Bytes) (n : Nat) : Prop where
  checked : Graph.imageRefusal s b n = St.ok
  placed : worst (Graph.placeRefusals s b) = none
  room : Graph.stackShort s b = false

/-- R348: an image that fits is loaded, and the command completes with its digest. -/
theorem execGraphLoad_loads {s w : State} {n : Nat} {x : HostRead} {h : HostCmd} {b : Bytes} (hcmd : s.waitingCmd n 0x10 = some h)
    (hmgmt : s.mgmt = true) (hfits : LoadFits s h.desc) (hread : readInput s (field h.desc 8 8) (field h.desc 16 8) x = (St.ok, b))
    (hfree : inputHeld s (field h.desc 8 8) (field h.desc 16 8) = false) (hw : w = touchInput s (field h.desc 8 8) (field h.desc 16 8))
    (himage : ImageFits w b (field h.desc 16 8)) :
    execGraphLoad n x s = .next ((Graph.load w (field h.desc 4 2) b).finish n St.ok (leBytes 8 (digest64 b)) 0) := by
  have hdescriptor : (field h.desc 4 2 == 0 || decide (255 < field h.desc 4 2) || (Graph.slot s (field h.desc 4 2)).isSome
      || field h.desc 8 8 % 64 != 0) = false := by
    simp [hfits.named, hfits.most, hfits.free, hfits.aligned]
  have hworst : worst ([(false, St.badJob, 0), (false, St.retry, functionRetry s 2)] ++ Graph.placeRefusals w b) = none :=
    worst_eq_none_iff.mpr (by simpa using worst_eq_none_iff.mp himage.placed)
  subst hw
  simp only [execGraphLoad, hcmd, hmgmt, hfree, hdescriptor, hfits.service, Nat.not_lt.mpr hfits.size, hread,
    imageRefusals_of_read himage.checked, himage.room, Bool.not_true, Bool.and_false, Bool.false_eq_true, if_false, hworst]

/-! ### Start of a run (R349 to R351, R368) -/

/-- R350: the seed of a run, drawn where its descriptor gives 0. -/
def runSeed (s : State) (d : Bytes) : Nat :=
  if field d 8 8 = 0 then s.drawRandom.1.toNat % (2 ^ 64 - 1) + 1 else field d 8 8

/-- The state once the seed of a run is known. -/
def seeded (s : State) (d : Bytes) : State := if field d 8 8 = 0 then s.drawRandom.2.bump Ent.seedsDrawn else s

/-- R352: the sub-ticks from acceptance to the deadline of a run, 0 for none. -/
def runAllowance (s : State) (d : Bytes) : Nat := if field d 32 4 = 0 then s.cfg Ent.defaultRunDeadline else field d 32 4

/-- The input tensors of a run from the bytes that were read for them. -/
def runInputs (b : Bytes) (got : List Bytes) : List (Nat × List Nat) :=
  ((Graph.ofKind b 0).zip got).map fun z => (z.1, (patterns (tensorDef b z.1).fmt z.2).take (tensorDef b z.1).elems)

/-- The run of command `n` accepted at `at_`: None where its scratch pages do not fit. -/
def acceptRun (s : State) (n : Nat) (at_ : Nat × Nat) (d : Bytes) (attend : Bool) (g : GraphSlot) (got : List Bytes)
    (outs : List (Nat × Nat)) : Option State :=
  startRun (startCmd (seeded s d) n) (.command n) g at_.1 (runSeed s d) (if runAllowance s d = 0 then 0 else at_.2 + runAllowance s d)
    (if attend || bit (field d 1 1) 0 then some (field d 40 8) else none) (attend && bit (field d 1 1) 1) (runInputs g.image got) outs

/-- R368: a run over a Parked berth wakes it, once it stands first in its line; any other run has begun when it is accepted. -/
def WakesIfParked (y : State) (b n : Nat) (parked : Bool) (z : State) : Prop :=
  parked = false ∧ z = y ∨ parked = true ∧ firstInLine y b n = true ∧ Berth.startWake y b none = some z

theorem beginRun_eq (s : State) (n : Nat) (at_ : Nat × Nat) (d : Bytes) (attend : Bool) (g : GraphSlot) (parked : Bool)
    (got : List Bytes) (outs : List (Nat × Nat)) (refused : State → State) :
    beginRun s n at_ d attend g parked got outs refused =
      match acceptRun s n at_ d attend g got outs with
      | none => waitForPages s n refused
      | some y =>
        if !parked || !firstInLine y (field d 40 8) n then y
        else match Berth.startWake y (field d 40 8) none with
          | none => awaitPages s n
          | some z => z := by
  simp only [beginRun, beq_iff_eq]
  rfl

theorem beginRun_of_accepted {s y z : State} {n : Nat} {at_ : Nat × Nat} {d : Bytes} {attend : Bool} {g : GraphSlot} {parked : Bool}
    {got : List Bytes} {outs : List (Nat × Nat)} (refused : State → State)
    (haccepted : acceptRun s n at_ d attend g got outs = some y) (hwakes : WakesIfParked y (field d 40 8) n parked z) :
    beginRun s n at_ d attend g parked got outs refused = z := by
  rw [beginRun_eq, haccepted]
  obtain ⟨hserved, rfl⟩ | ⟨hparked, hfirst, hwake⟩ := hwakes
  · simp [hserved]
  · simp [hparked, hfirst, hwake]

section
variable {s w : State} {d : Bytes} {g : GraphSlot} {a b : HostRead} {l : List HostRead} {ins outs : List (Nat × Nat)}

/-- The two tables of a run command touched. -/
def touchTables (s : State) (d : Bytes) (g : GraphSlot) : State :=
  touchInput (touchInput s (field d 16 8) (16 * (Graph.ofKind g.image 0).length)) (field d 24 8) (16 * (Graph.ofKind g.image 1).length)

/-- The inputs that a table names, read for an owner. -/
def readRecords (s : State) (owner : Nat) (ins : List (Nat × Nat)) (l : List HostRead) : List (Nat × Bytes) :=
  (ins.zip l).map fun z => readFor s owner z.1.1 z.1.2 z.2

/-- The inputs that a table names touched. -/
def touchRecords (s : State) (ins : List (Nat × Nat)) : State := ins.foldl (fun s z => touchInput s z.1 z.2) s

/-- R349, R350: the two tables of a run command are read under the owner of the slot, as the records `ins` and `outs`. -/
structure TablesRead (s : State) (d : Bytes) (g : GraphSlot) (a b : HostRead) (ins outs : List (Nat × Nat)) : Prop where
  slot : Graph.slot s (field d 4 2) = some g
  inStatus : (readFor s g.owner (field d 16 8) (16 * (Graph.ofKind g.image 0).length) a).1 = St.ok
  outStatus : (readFor s g.owner (field d 24 8) (16 * (Graph.ofKind g.image 1).length) b).1 = St.ok
  inFree : inputHeld s (field d 16 8) (16 * (Graph.ofKind g.image 0).length) = false
  outFree : inputHeld s (field d 24 8) (16 * (Graph.ofKind g.image 1).length) = false
  ins : ins = tableRecords (readFor s g.owner (field d 16 8) (16 * (Graph.ofKind g.image 0).length) a).2
  outs : outs = tableRecords (readFor s g.owner (field d 24 8) (16 * (Graph.ofKind g.image 1).length) b).2

/-- R350: every input that the records `ins` name is read. -/
structure InputsRead (s : State) (owner : Nat) (ins : List (Nat × Nat)) (l : List HostRead) : Prop where
  all : ins.length ≤ l.length
  status : ((readRecords s owner ins l).map (·.1)).foldl max 0 = St.ok
  free : ∀ z ∈ ins, inputHeld s z.1 z.2 = false

/-- The end of a run command that is refused. -/
def refuseRun (s : State) (n : Nat) (d : Bytes) (attend : Bool) (st retry : Nat) : State :=
  s.finish n st (if attend then Berth.attendBytes s (field d 40 8) (field d 8 8) 0xFFFF else Graph.runBytes (field d 8 8) 0xFFFF) retry

/-- R349: a run command that nothing refuses, with its tables and inputs read, begins its run. -/
theorem runCommand_begins {n : Nat} {h : HostCmd} {attend : Bool} (hw : w = touchTables s h.desc g)
    (htables : TablesRead s h.desc g a b ins outs) (howner : runStale w h.desc attend = false)
    (hnone : worst (runRefusals w h.desc attend g St.ok ins outs) = none) (hinputs : InputsRead w g.owner ins l) :
    runCommand s n h attend a b l = beginRun (touchRecords w ins) n (acceptance (touchRecords w ins) h) h.desc attend g
      ((runBerth w (field h.desc 40 8)).2.isSome && (attend || bit (field h.desc 1 1) 0)) ((readRecords w g.owner ins l).map (·.2)) outs
      fun t => refuseRun t n h.desc attend St.retry ((touchRecords w ins).now + 1) := by
  obtain ⟨hslot, hinStatus, houtStatus, hinFree, houtFree, hins, houts⟩ := htables
  have hlength : ¬ (readRecords w g.owner ins l).length < ins.length := by simp [readRecords, hinputs.all]
  have hfree : (ins.any fun q => inputHeld w q.1 q.2) = false := by simpa using fun x y hx => hinputs.free (x, y) hx
  have hstatus := hinputs.status
  unfold touchTables at hw
  unfold readRecords at hlength hstatus
  simp only [runCommand, hslot, hinFree, houtFree, Bool.or_self, Bool.false_eq_true, if_false, ← hw, howner, Bool.false_and, hinStatus,
    houtStatus, Nat.max_self, ← hins, ← houts, hnone, hfree, hlength, hstatus, ne_eq, not_true_eq_false]
  rfl

end

theorem execGraphRun_runs {s : State} {n : Nat} {a b : HostRead} {l : List HostRead} {h : HostCmd} (hcmd : s.waitingCmd n 0x11 = some h)
    (hmgmt : s.mgmt = true) : execGraphRun n a b l s = .next (runCommand s n h false a b l) := by
  simp [execGraphRun, hcmd, hmgmt]

theorem execAttendCommand_runs {s : State} {n : Nat} {a b : HostRead} {l : List HostRead} {h : HostCmd}
    (hcmd : s.waitingCmd n 0x23 = some h) (hmgmt : s.mgmt = true) :
    execAttendCommand n a b l s = .next (runCommand s n h true a b l) := by
  simp [execAttendCommand, hcmd, hmgmt]

/-! ### Unload, waits and deadlines (R351, R352, R354, R365) -/

/-- R354: a loaded slot starts to unload. -/
theorem execGraphUnload_starts {s : State} {n : Nat} {h : HostCmd} {g : GraphSlot} (hcmd : s.waitingCmd n 0x12 = some h)
    (hmgmt : s.mgmt = true) (hslot : Graph.slot s (field h.desc 4 2) = some g) (hloaded : g.stage = .loaded) :
    ∃ u : State, execGraphUnload n s = .next (u.setNum (Ent.slotSlotState g.num) 3) ∧ u.tide = s.tide ∧ u.mem = s.mem ∧
      u.flash = s.flash := by
  have hfound : (some g).filter (fun g => g.stage == .loaded) = some g := by simp [hloaded]
  simp only [execGraphUnload, hcmd, hmgmt, hslot, hfound, Bool.not_true, Bool.false_eq_true, if_false]
  exact ⟨_, rfl, rfl, rfl, rfl⟩

/-- R354: the unload ends with the last run of the slot. -/
theorem execUnloadComplete_clears {s : State} {k n : Nat} {g : GraphSlot} (hslot : Graph.slot s k = some g)
    (hstage : g.stage = .unloading) (hmgmt : s.mgmt = true) (hruns : (s.gph.runs.any fun r => r.slot == k) = false)
    (hunload : g.unload = some n) : execUnloadComplete k s = .next ((Graph.clear s g).finish n St.ok [] 0) := by
  have hfound : (some g).filter (fun g => g.stage == .unloading) = some g := by simp [hstage]
  simp only [execUnloadComplete, hslot, hfound, hmgmt, hruns, hunload, Bool.not_true, Bool.or_self, Bool.false_eq_true, if_false]

/-- R351, R365: the run that stands first in the line of a free berth holds it and goes on. -/
theorem execRunHoldRelease_holds {s : State} {i b : Nat} {r : Run} {o : OwnedBerth} (hrun : Graph.run s i = some r)
    (hwaits : r.waiting = true) (hberth : r.berth = some b) (hmgmt : s.mgmt = true) (hfirst : firstInLine s b (runOrder r) = true)
    (hfound : Berth.find s b = some o) (hfree : Berth.mustWait s o = false) (hconfirmed : o.unconfirmed = false)
    (hlease : o.expired = false) :
    execRunHoldRelease i s = .next (Graph.mapRun (Berth.mapOwned s b fun o => { o with holder := some i }) i fun r =>
      { r with waiting := false }) := by
  have hwaiting : (some r).filter (fun r => r.waiting) = some r := by simp [hwaits]
  simp only [execRunHoldRelease, hrun, hwaiting, hberth, hmgmt, hfirst, hfound, hfree, hconfirmed, hlease, Bool.not_true, Bool.or_self,
    Bool.false_eq_true, if_false]

/-- R352: a run at its deadline stops. -/
theorem execRunDeadline_stops {s : State} {i : Nat} {r : Run} (hrun : Graph.run s i = some r) (hmgmt : s.mgmt = true)
    (hset : r.deadline ≠ 0) (hdue : r.deadline ≤ s.subticks) : execRunDeadline i s = .next (Graph.stopRun s r St.deadline) := by
  simp [execRunDeadline, hrun, hmgmt, hset, hdue]

/-- Settles O38: a load that nothing refuses loads its image; a run command that nothing refuses begins its run with what was read for it; the
events of a slot and of a run take the one branch that their conditions leave. -/
theorem graphCommandsComplete : Obligations.GraphCommandsComplete := by
  refine ⟨?load, ?graphRun, ?attend, ?starts, ?unload, ?unloaded, ?holds, ?deadline⟩
  case load =>
    rintro n _ x h b s w hcmd hmgmt rfl hnamed hmost hfreeSlot haligned hservice hsize hread hfree hw hchecked hplaced hroom
    exact execGraphLoad_loads hcmd hmgmt ⟨hnamed, hmost, hfreeSlot, haligned, hservice, hsize⟩ hread hfree hw ⟨hchecked, hplaced, hroom⟩
  case graphRun => exact fun n a b l h s hcmd hmgmt => execGraphRun_runs hcmd hmgmt
  case attend => exact fun n a b l h s hcmd hmgmt => execAttendCommand_runs hcmd hmgmt
  case starts =>
    rintro n o sd dl attend parked a b l h _ g _ _ ins got c s w v x y z hc hcmd hmgmt rfl hslot rfl rfl hinStatus houtStatus hinFree
      houtFree hw hins howner hnone hall rfl hstatus hfree rfl rfl rfl rfl hstart rfl hwakes
    have hexec : exec c s = .next (runCommand s n h attend a b l) := by
      simp only [List.mem_cons, List.not_mem_nil, or_false, Prod.mk.injEq] at hc
      obtain ⟨rfl, rfl, rfl⟩ | ⟨rfl, rfl, rfl⟩ := hc
      · exact execGraphRun_runs hcmd hmgmt
      · exact execAttendCommand_runs hcmd hmgmt
    have hbegins := runCommand_begins (n := n) hw ⟨hslot, hinStatus, houtStatus, hinFree, houtFree, hins, rfl⟩ howner hnone
      ⟨hall, hstatus, hfree⟩
    rw [hexec, hbegins]
    exact congrArg _ (beginRun_of_accepted _ hstart hwakes)
  case unload =>
    intro n h g s hcmd hmgmt hslot hloaded
    obtain ⟨u, hexec, htide, hmem, hflash⟩ := execGraphUnload_starts hcmd hmgmt hslot hloaded
    exact ⟨_, hexec, by simp, htide, hmem, hflash⟩
  case unloaded => exact fun k n g s hslot hstage hmgmt hruns hunload => execUnloadComplete_clears hslot hstage hmgmt hruns hunload
  case holds =>
    exact fun i b r o s hrun hwaits hberth hmgmt hfirst hfound hfree hconfirmed hlease =>
      execRunHoldRelease_holds hrun hwaits hberth hmgmt hfirst hfound hfree hconfirmed hlease
  case deadline => exact fun i r s hrun hmgmt hset hdue => execRunDeadline_stops hrun hmgmt hset hdue

end Sys2Proof.Machine

/-!
Sessions (11_sessions_pools_tables.md): the commands and messages of berths (R361 to R377) and their events (R366, R367, R372, R374, R377,
R380).
-/
namespace Sys2Proof.Machine

open Sys2Proof

/-! ### The commands of a berth (R364 to R369, R373, R375)

A PARK of a berth that lies Parked completes OK, and a CREATE with another home is answered by that home's message
(notes/assumptions/65.md). -/

theorem waitingCmd_eq_some {s : State} {n o : Nat} {h : HostCmd} (hcmd : s.waitingCmd n o = some h) : h.id = n ∧ h.opcode = o := by
  obtain ⟨hfound, hwaits⟩ := Option.filter_eq_some_iff.mp hcmd
  have hid : (h.id == n) = true := List.find?_some (p := fun c : HostCmd => c.id == n) hfound
  simp only [Bool.and_eq_true, beq_iff_eq] at hid hwaits
  exact ⟨hid, hwaits.1.1⟩

theorem berthRow_runs {s : State} {n o : Nat} {h : HostCmd} (hcmd : s.waitingCmd n o = some h) (hmgmt : s.mgmt = true) :
    berthRow s n o = Berth.command s n h := by
  simp [berthRow, hcmd, hmgmt]

/-- Each berth command runs the row of its opcode. -/
theorem exec_berthCommand {s : State} {n o : Nat} {h : HostCmd} {c : Instr}
    (hc : (c, o) ∈ [(.park n, 0x21), (.wake n, 0x22), (.release n, 0x24), (.handoff n, 0x25), (.checkpoint n, 0x26)])
    (hcmd : s.waitingCmd n o = some h) (hmgmt : s.mgmt = true) : exec c s = .next (Berth.command s n h) := by
  have hrow : exec c s = .next (berthRow s n o) := by
    simp only [List.mem_cons, List.not_mem_nil, or_false, Prod.mk.injEq] at hc
    obtain ⟨rfl, rfl⟩ | ⟨rfl, rfl⟩ | ⟨rfl, rfl⟩ | ⟨rfl, rfl⟩ | ⟨rfl, rfl⟩ := hc <;> rfl
  rw [hrow, berthRow_runs hcmd hmgmt]

/-- R360, R364, R365: the berth that a command names is served here and nothing holds it. -/
structure ServedFree (s : State) (h : HostCmd) (o : OwnedBerth) : Prop where
  accepted : Berth.meets s (field h.desc 16 8) = none
  service : functionOn s 3 = true
  found : Berth.find s (field h.desc 16 8) = some o
  free : runWaits s o = false

/-- R365: the berth that command `n` names lies Parked at this home, and no command accepted before waits for it. -/
structure ParkedFirst (s : State) (n : Nat) (h : HostCmd) (r : HomeBerth) : Prop where
  stale : Berth.meets s (field h.desc 16 8) = some .stale
  atHome : Berth.homeHere s (field h.desc 16 8) = true
  record : Berth.findHome s (Berth.num (field h.desc 16 8)) = some r
  parked : r.state = .parked
  service : functionOn s 3 = true
  first : firstInLine s (field h.desc 16 8) n = true

/-- R364: a berth that another node owns is not served here. -/
theorem Berth.find_of_meets_stale {s : State} {b : Nat} (h : Berth.meets s b = some .stale) : Berth.find s b = none := by
  revert h
  unfold Berth.meets
  split
  · simp
  · cases Berth.find s b with
    | none => simp
    | some o =>
      dsimp only
      split
      · simp
      · split <;> simp

section
variable {s : State} {n : Nat} {h : HostCmd}

theorem command_of_servedFree {o : OwnedBerth} (hserved : ServedFree s h o)
    (hwake : h.opcode = 0x22 → Berth.homeHere s (field h.desc 16 8) = true)
    (hhandoff : h.opcode = 0x25 → inComposition s (field h.desc 8 4 % 2 ^ 20) = true) :
    Berth.command s n h = Berth.onResident (startCmd s n) o h := by
  have helsewhere : (h.opcode == 0x22 && !Berth.homeHere s (field h.desc 16 8)) = false := by simpa using hwake
  have htarget : (h.opcode == 0x25 && !inComposition s (field h.desc 8 4 % 2 ^ 20)) = false := by simpa using hhandoff
  obtain ⟨haccepted, hservice, hfound, hfree⟩ := hserved
  simp only [Berth.command, haccepted, helsewhere, htarget, hservice, hfound, hfree]
  rw [worst_eq_none_iff.mpr] <;> simp

theorem command_of_parkedFirst {r : HomeBerth} (hparked : ParkedFirst s n h r) (hhandoff : h.opcode ≠ 0x25) :
    Berth.command s n h = Berth.onParked (startCmd s n) (field h.desc 16 8) n h.opcode := by
  obtain ⟨hstale, hhome, hrecord, hstate, hservice, hfirst⟩ := hparked
  simp only [Berth.command, hstale, hhome, hrecord, hstate, hservice, Berth.find_of_meets_stale hstale, hfirst]
  rw [worst_eq_none_iff.mpr] <;> simp [hhandoff]

theorem execPark_served {o : OwnedBerth} (hcmd : s.waitingCmd n 0x21 = some h) (hmgmt : s.mgmt = true) (hserved : ServedFree s h o) :
    execPark n s = .next (Berth.startPark (startCmd s n) o.id (some n)) := by
  obtain ⟨hid, hop⟩ := waitingCmd_eq_some hcmd
  rw [execPark, berthRow_runs hcmd hmgmt, command_of_servedFree hserved (by simp [hop]) (by simp [hop])]
  simp [Berth.onResident, hop, hid]

theorem execWake_served {o : OwnedBerth} (hcmd : s.waitingCmd n 0x22 = some h) (hmgmt : s.mgmt = true) (hserved : ServedFree s h o)
    (hhome : Berth.homeHere s (field h.desc 16 8) = true) :
    execWake n s = .next (Berth.finish (startCmd s n) n o.id St.ok 0) := by
  obtain ⟨hid, hop⟩ := waitingCmd_eq_some hcmd
  rw [execWake, berthRow_runs hcmd hmgmt, command_of_servedFree hserved (fun _ => hhome) (by simp [hop])]
  simp [Berth.onResident, hop, hid]

theorem execRelease_served {o : OwnedBerth} (hcmd : s.waitingCmd n 0x24 = some h) (hmgmt : s.mgmt = true)
    (hserved : ServedFree s h o) : execRelease n s = .next (Berth.releaseOwned (startCmd s n) o n) := by
  obtain ⟨hid, hop⟩ := waitingCmd_eq_some hcmd
  rw [execRelease, berthRow_runs hcmd hmgmt, command_of_servedFree hserved (by simp [hop]) (by simp [hop])]
  simp [Berth.onResident, hop, hid]

/-- R373: a HANDOFF to another node of the composition sends the berth there. -/
theorem execHandoff_served {o : OwnedBerth} {d : Nat} (hcmd : s.waitingCmd n 0x25 = some h) (hmgmt : s.mgmt = true)
    (hserved : ServedFree s h o) (hd : d = field h.desc 8 4 % 2 ^ 20) (hother : d ≠ s.strand.nodeId) (hin : inComposition s d = true) :
    execHandoff n s = .next (Berth.startHandoff (startCmd s n) o.id n d) := by
  obtain ⟨hid, hop⟩ := waitingCmd_eq_some hcmd
  subst hd
  have hnode : (startCmd s n).strand.nodeId = s.strand.nodeId := rfl
  have hmap : inComposition (startCmd s n) (field h.desc 8 4 % 2 ^ 20) = true := hin
  rw [execHandoff, berthRow_runs hcmd hmgmt, command_of_servedFree hserved (by simp [hop]) (fun _ => hin)]
  simp only [Berth.onResident, hop, hid, hnode, hother, hmap, Nat.reduceEqDiff, Bool.not_true, Bool.false_eq_true, or_self, if_false,
    if_true]

theorem execCheckpoint_served {o : OwnedBerth} (hcmd : s.waitingCmd n 0x26 = some h) (hmgmt : s.mgmt = true)
    (hserved : ServedFree s h o) : execCheckpoint n s = .next (Berth.startCheckpoint
      (Berth.mapOwned (startCmd s n) o.id fun o => { o with task := .checkpoint (some n) }) o.id) := by
  obtain ⟨hid, hop⟩ := waitingCmd_eq_some hcmd
  rw [execCheckpoint, berthRow_runs hcmd hmgmt, command_of_servedFree hserved (by simp [hop]) (by simp [hop])]
  simp [Berth.onResident, hop, hid]

/-- R367: the wake of a Parked berth begins where its pages fit. -/
theorem execWake_parked {r : HomeBerth} {t : State} (hcmd : s.waitingCmd n 0x22 = some h) (hmgmt : s.mgmt = true)
    (hparked : ParkedFirst s n h r) (hstart : Berth.startWake (startCmd s n) (field h.desc 16 8) (some n) = some t) :
    execWake n s = .next t := by
  obtain ⟨_, hop⟩ := waitingCmd_eq_some hcmd
  rw [execWake, berthRow_runs hcmd hmgmt, command_of_parkedFirst hparked (by simp [hop])]
  simp [Berth.onParked, hop, hstart]

theorem execRelease_parked {r : HomeBerth} (hcmd : s.waitingCmd n 0x24 = some h) (hmgmt : s.mgmt = true)
    (hparked : ParkedFirst s n h r) : execRelease n s = .next (Berth.finish (Berth.releaseHome (startCmd s n) (field h.desc 16 8)) n
      (field h.desc 16 8) St.ok 0) := by
  obtain ⟨_, hop⟩ := waitingCmd_eq_some hcmd
  rw [execRelease, berthRow_runs hcmd hmgmt, command_of_parkedFirst hparked (by simp [hop])]
  simp [Berth.onParked, hop]

theorem execPark_parked {r : HomeBerth} (hcmd : s.waitingCmd n 0x21 = some h) (hmgmt : s.mgmt = true)
    (hparked : ParkedFirst s n h r) : execPark n s = .next (Berth.finish (startCmd s n) n (field h.desc 16 8) St.ok 0) := by
  obtain ⟨_, hop⟩ := waitingCmd_eq_some hcmd
  rw [execPark, berthRow_runs hcmd hmgmt, command_of_parkedFirst hparked (by simp [hop])]
  simp [Berth.onParked, hop]

/-! ### CREATE (R363) -/

theorem execCreate_here (hcmd : s.waitingCmd n 0x20 = some h) (hmgmt : s.mgmt = true) (hnone : Berth.createRefusal s h.desc = none)
    (hhome : Berth.namedHome s h.desc = s.strand.nodeId) : execCreate n () s = .next (Berth.createLocal s n h.desc) := by
  simp [execCreate, hcmd, hmgmt, hnone, hhome]

/-- R363: with a free number and pages, the berth is made with its record, owned by this node. -/
theorem createLocal_makes {u : State} {d : Bytes} {k : Nat} (hnumber : Berth.freeNumber s = some k)
    (hpages : (Berth.recordPage s k).bind (fun v => Berth.allocPages v (Berth.idOf s.strand.nodeId k) (field d 4 2 % 4096)
      (Berth.geometryOf d) (bit (field d 1 1) 0)) = some u) :
    Berth.createLocal s n d = Berth.answer (startCmd (Berth.own
      (Berth.record u k u.strand.nodeId (field d 4 2 % 4096) (Berth.geometryOf d) (bit (field d 1 1) 0) (Berth.nextSeqOf s k)
        (Berth.chooseShadow u (Berth.idOf s.strand.nodeId k) u.strand.nodeId))
      (Berth.idOf s.strand.nodeId k) (field d 4 2 % 4096) (Berth.geometryOf d) (bit (field d 1 1) 0) (Berth.nextSeqOf s k)
      (u.now + u.cfg Ent.leaseTides) (Berth.chooseShadow u (Berth.idOf s.strand.nodeId k) u.strand.nodeId)) n) k
      (.done n St.ok (Berth.createBytes (Berth.nextSeqOf s k) k) 0) := by
  simp only [Berth.createLocal, hnumber, hpages]

/-- R363: a home that can be reached is asked for the number and the record. -/
theorem execCreate_asks (hcmd : s.waitingCmd n 0x20 = some h) (hmgmt : s.mgmt = true) (hnone : Berth.createRefusal s h.desc = none)
    (hother : Berth.namedHome s h.desc ≠ s.strand.nodeId) (hroute : unsent s (Berth.namedHome s h.desc) 2 = false) :
    execCreate n () s = .next (sendMessage (startCmd s n) (Berth.namedHome s h.desc) 2 0 0x0021 (Berth.controlWords
      (.create n (field h.desc 4 2 % 4096) (Berth.geometryOf h.desc) (bit (field h.desc 1 1) 0))) [] (.create n)) := by
  simp [execCreate, hcmd, hmgmt, hnone, hother, Berth.createRemote, hroute]

end

/-! ### Messages, waiting commands, parks by age and takeovers (R365, R370, R374, R375, R377) -/

section
variable {s : State}

/-- R375: a page that its taking does not leave to wait is answered with the status of the taking. -/
theorem receivePage_answers {u : State} {a st : Nat} {p : BerthPage} (first : Bool) (htaken : Berth.takePage s p = (st, u))
    (hst : st ≠ St.retry) : Berth.receivePage s a p first = answerMsg u a 0x0020 st := by
  simp [Berth.receivePage, htaken, hst]

/-- R374: a control word that changes no record of this home is answered at once. -/
theorem receiveControl_answers {a : Nat} {m : BerthMsg}
    (hnone : (Berth.controlled m).filter (Berth.homeHere (Berth.takeControl s a m)) = none) :
    Berth.receiveControl s a m = answerMsg (Berth.takeControl s a m) a 0x0021 St.ok := by
  simp [Berth.receiveControl, hnone]

theorem execBerthPages_receives {a : Nat} {p : BerthPage} (hmgmt : s.mgmt = true) :
    execBerthPages a p s = .next (Berth.receivePage s a p true) := by
  simp [execBerthPages, hmgmt]

theorem execBerthControl_receives {a : Nat} {m : BerthMsg} (hmgmt : s.mgmt = true) :
    execBerthControl a m s = .next (Berth.receiveControl s a m) := by
  simp [execBerthControl, hmgmt]

/-- R365: the command that waits first at a berth that is free and confirmed starts. -/
theorem execBerthCommandRelease_starts {b : Nat} {o : OwnedBerth} {w : BerthWait} {l : List BerthWait} {h : HostCmd}
    (hfound : Berth.find s b = some o) (hwaits : o.waits = w :: l) (hmgmt : s.mgmt = true) (hfree : Berth.mustWait s o = false)
    (hconfirmed : o.unconfirmed = false) (hlease : o.expired = false) (hfirst : firstInLine s b w.cmd = true)
    (hcmd : (Berth.mapOwned s b fun o => { o with waits := l }).cmd w.cmd = some h) :
    execBerthCommandRelease b s =
      .next (Berth.onResident (Berth.mapOwned s b fun o => { o with waits := l }) { o with waits := l } h) := by
  simp [execBerthCommandRelease, hfound, hwaits, hmgmt, hfree, hconfirmed, hlease, hfirst, hcmd]

theorem execAutoPark_parks {b : Nat} {o : OwnedBerth} (hfound : Berth.find s b = some o) (hmgmt : s.mgmt = true)
    (hlimit : s.cfg Ent.autoParkAge ≠ 0) (hpinned : o.pinned = false) (hfree : Berth.mustWait s o = false)
    (hconfirmed : o.unconfirmed = false) (hlease : o.expired = false) (hage : s.cfg Ent.autoParkAge ≤ berthAge s o) :
    execAutoPark b s = .next (Berth.startPark s b none) := by
  simp [execAutoPark, hfound, hmgmt, hlimit, hpinned, hfree, hconfirmed, hlease, hage]

/-- R377: a live berth whose lease has run out is taken over from an expelled owner, or from this home that no longer has it. -/
theorem execTakeover_takes {k : Nat} {h : HomeBerth} (hrecord : Berth.findHome s k = some h) (hmgmt : s.mgmt = true)
    (hfree : h.state ≠ .free) (hlost : h.state ≠ .lost) (hparked : h.state ≠ .parked) (hlease : h.word.lease ≤ s.now)
    (howner : (expelledNodes s).contains h.word.owner = true ∨
      h.word.owner = s.strand.nodeId ∧ Berth.find s (Berth.idOf s.strand.nodeId k) = none) :
    execTakeover k s = .next (Berth.takeOver s k) := by
  have hgone : ((expelledNodes s).contains h.word.owner ||
      (h.word.owner == s.strand.nodeId && (Berth.find s (Berth.idOf s.strand.nodeId k)).isNone)) = true := by
    simpa only [Bool.or_eq_true, Bool.and_eq_true, beq_iff_eq, Option.isNone_iff_eq_none] using howner
  have hlive : (h.state != .free && h.state != .lost && h.state != .parked) = true := by simp [hfree, hlost, hparked]
  simp only [execTakeover, hrecord, hmgmt, hlive, hlease, hgone, Bool.and_self, decide_true, if_true]

end

/-- Settles O39: a command meets no refusal at a berth that is served and free, or that lies Parked and first in line, and so does what its
opcode says there; the messages and the events take the branch that their conditions leave. -/
theorem berthCommandsComplete : Obligations.BerthCommandsComplete := by
  refine ⟨?create, ?createAsks, ?commands, ?park, ?wake, ?release, ?handoff, ?checkpoint, ?wakeParked, ?releaseParked, ?parkParked, ?page,
    ?pages, ?control, ?controlAnswered, ?waiting, ?autoPark, ?takeover⟩
  case create =>
    rintro n k _ h _ _ u _ s hcmd hmgmt hnone hhome hnumber rfl rfl hpages rfl rfl
    exact (execCreate_here hcmd hmgmt hnone hhome).trans (congrArg _ (createLocal_makes hnumber hpages))
  case createAsks =>
    rintro n _ h s hcmd hmgmt hnone rfl hother hroute
    exact execCreate_asks hcmd hmgmt hnone hother hroute
  case commands => exact fun n o h c s hc hcmd hmgmt => exec_berthCommand hc hcmd hmgmt
  case park =>
    exact fun n h o s hcmd hmgmt haccepted hservice hfound hfree => execPark_served hcmd hmgmt ⟨haccepted, hservice, hfound, hfree⟩
  case wake =>
    exact fun n h o s hcmd hmgmt haccepted hservice hfound hfree hhome =>
      execWake_served hcmd hmgmt ⟨haccepted, hservice, hfound, hfree⟩ hhome
  case release =>
    exact fun n h o s hcmd hmgmt haccepted hservice hfound hfree => execRelease_served hcmd hmgmt ⟨haccepted, hservice, hfound, hfree⟩
  case handoff =>
    exact fun n d h o s hcmd hmgmt haccepted hservice hfound hfree hd hother hin =>
      execHandoff_served hcmd hmgmt ⟨haccepted, hservice, hfound, hfree⟩ hd hother hin
  case checkpoint =>
    exact fun n h o s hcmd hmgmt haccepted hservice hfound hfree =>
      execCheckpoint_served hcmd hmgmt ⟨haccepted, hservice, hfound, hfree⟩
  case wakeParked =>
    rintro n _ h r t s hcmd hmgmt rfl hstale hhome hrecord hparked hservice hfirst hstart
    exact execWake_parked hcmd hmgmt ⟨hstale, hhome, hrecord, hparked, hservice, hfirst⟩ hstart
  case releaseParked =>
    rintro n _ h r s hcmd hmgmt rfl hstale hhome hrecord hparked hservice hfirst
    exact execRelease_parked hcmd hmgmt ⟨hstale, hhome, hrecord, hparked, hservice, hfirst⟩
  case parkParked =>
    rintro n _ h r s hcmd hmgmt rfl hstale hhome hrecord hparked hservice hfirst
    exact execPark_parked hcmd hmgmt ⟨hstale, hhome, hrecord, hparked, hservice, hfirst⟩
  case page =>
    exact fun a p s u st hmgmt htaken hst => (execBerthPages_receives hmgmt).trans (congrArg _ (receivePage_answers true htaken hst))
  case pages => exact fun a p s hmgmt => execBerthPages_receives hmgmt
  case control => exact fun a m s hmgmt => execBerthControl_receives hmgmt
  case controlAnswered =>
    exact fun a m s hmgmt hnone => (execBerthControl_receives hmgmt).trans (congrArg _ (receiveControl_answers hnone))
  case waiting =>
    exact fun b o w l h s hfound hwaits hmgmt hfree hconfirmed hlease hfirst hcmd =>
      execBerthCommandRelease_starts hfound hwaits hmgmt hfree hconfirmed hlease hfirst hcmd
  case autoPark =>
    exact fun b o s hfound hmgmt hlimit hpinned hfree hconfirmed hlease hage =>
      execAutoPark_parks hfound hmgmt hlimit hpinned hfree hconfirmed hlease hage
  case takeover =>
    exact fun k h s hrecord hmgmt hfree hlost hparked hlease howner =>
      execTakeover_takes hrecord hmgmt hfree hlost hparked hlease howner

/-! ### Parks, wakes, leases, resolutions and installs (R366, R367, R372, R374, R377) -/

section
variable {s : State} {b : Nat} {o : OwnedBerth}

/-- R366: a park swaps the word once its checkpoint has been reported and its pages are written: durable at this home, or acknowledged by
another (notes/assumptions/65.md). -/
theorem execParkDone_swaps (hfound : Berth.find s b = some o) (hmgmt : s.mgmt = true) (hstate : o.state = .parking)
    (hdurable : Berth.homeHere s b = true → ∃ h, Berth.findHome s (Berth.num b) = some h ∧ Berth.parkedBytesDurable s h = true)
    (hcopied : o.uncopied = []) (hacked : o.unacked = []) (hreported : o.eventTide ≠ 0) (hconfirmed : o.unconfirmed = false) :
    execParkDone b s = .next (Berth.parkSwap s b) := by
  cases hhome : Berth.homeHere s b with
  | false => simp [execParkDone, hfound, hmgmt, hstate, hhome, hcopied, hacked, hreported, hconfirmed]
  | true =>
    obtain ⟨h, hrecord, hbytes⟩ := hdurable hhome
    simp [execParkDone, hfound, hmgmt, hstate, hhome, hrecord, hbytes, hcopied, hacked, hreported, hconfirmed]

theorem execWakeReady_ends (hfound : Berth.find s b = some o) (hmgmt : s.mgmt = true) (hstate : o.state = .waking)
    (hready : o.wakeReady = true) (hafter : o.eventTide < s.now) : execWakeReady b s = .next (Berth.wakeEnd s b) := by
  simp [execWakeReady, hfound, hmgmt, hstate, hready, hafter]

theorem execLeaseRenewal_renews (hfound : Berth.find s b = some o) (hmgmt : s.mgmt = true) (hconfirmed : o.unconfirmed = false)
    (hstate : o.state ≠ .waking) : execLeaseRenewal b s = .next (Berth.renew s b) := by
  simp [execLeaseRenewal, hfound, hmgmt, hconfirmed, hstate]

theorem execLeaseExpiry_expires (hfound : Berth.find s b = some o) (hmgmt : s.mgmt = true) (hdue : o.lease ≤ s.now) :
    execLeaseExpiry b s = .next (Berth.mapOwned s b fun o => { o with expired := true }) := by
  simp [execLeaseExpiry, hfound, hmgmt, hdue]

theorem execResolveRead_resolves (hfound : Berth.find s b = some o) (hmgmt : s.mgmt = true) (hunconfirmed : o.unconfirmed = true)
    (hdue : o.resolveAt ≤ s.now) : execResolveRead b s = .next (Berth.resolve s b) := by
  simp [execResolveRead, hfound, hmgmt, hunconfirmed, hdue]

theorem execCheckpointInstalled_installs (hfound : Berth.find s b = some o) (hmgmt : s.mgmt = true) (hstate : o.state = .recovering)
    (hconfirmed : o.unconfirmed = false) : execCheckpointInstalled b s = .next (Berth.installCheckpoint s o) := by
  simp [execCheckpointInstalled, hfound, hmgmt, hstate, hconfirmed]

end

/-! ### Usage reports (R380) -/

theorem State.num_setVal_of_ne (s : State) {k j : Nat} (v : Val) (h : j ≠ k) : (s.setVal k v).num j = s.num j := by
  simp [State.num, State.setVal, h]

/-- R380: the state once report `seq` has been signed and published, before its period is closed. -/
def publishReport (s : State) (seq : Nat) (report : Bytes) : State :=
  (({ s with free := s.free + 1 } : State).setNum Ent.reportSeq seq).setVal Ent.latestReport (.b report)

theorem publishReport_reportSeq (s : State) (seq : Nat) (report : Bytes) : (publishReport s seq report).num Ent.reportSeq = seq := by
  rw [publishReport, State.num_setVal_of_ne _ _ (by decide), State.num_setNum, if_pos rfl]

/-- R380: at the end of a period with a healthy generator a report is issued and the next period begins. -/
theorem execUsageReport_issues {s : State} (hmgmt : s.mgmt = true) (hbegun : s.berth.firstTide ≠ 0)
    (hover : s.berth.firstTide ≤ s.now / max 1 (s.cfg Ent.meterPeriod) * s.cfg Ent.meterPeriod) (htrng : s.sec.trng = 1) :
    ∃ report reports, execUsageReport s = .next { publishReport s ((s.num Ent.reportSeq + 1) % 2 ^ 32) report with
      berth := { s.berth with meters := [], firstTide := s.now + 1, reports := reports } } := by
  have hdue : (s.mgmt && s.berth.firstTide != 0 &&
      decide (s.berth.firstTide ≤ s.now / max 1 (s.cfg Ent.meterPeriod) * s.cfg Ent.meterPeriod) && s.sec.trng == 1) = true := by
    simp [hmgmt, hbegun, hover, htrng]
  simp only [execUsageReport, if_pos hdue]
  exact ⟨_, _, rfl⟩

/-- Settles O40: each event finds its conditions met and takes the one branch that they leave; a usage report leaves what it issues in the
Catalogue and a period that has just begun. -/
theorem berthEventsComplete : Obligations.BerthEventsComplete := by
  refine ⟨?parkElsewhere, ?parkHere, ?wake, ?renewal, ?expiry, ?resolve, ?install, ?usage⟩
  case parkElsewhere =>
    exact fun b o s hfound hmgmt hstate hhome hcopied hacked hreported hconfirmed =>
      execParkDone_swaps hfound hmgmt hstate (fun hhere => absurd (hhome.symm.trans hhere) Bool.false_ne_true) hcopied hacked hreported
        hconfirmed
  case parkHere =>
    exact fun b o h s hfound hmgmt hstate _ hrecord hdurable hcopied hacked hreported hconfirmed =>
      execParkDone_swaps hfound hmgmt hstate (fun _ => ⟨h, hrecord, hdurable⟩) hcopied hacked hreported hconfirmed
  case wake => exact fun b o s hfound hmgmt hstate hready hafter => execWakeReady_ends hfound hmgmt hstate hready hafter
  case renewal => exact fun b o s hfound hmgmt hconfirmed hstate => execLeaseRenewal_renews hfound hmgmt hconfirmed hstate
  case expiry => exact fun b o s hfound hmgmt hdue => execLeaseExpiry_expires hfound hmgmt hdue
  case resolve => exact fun b o s hfound hmgmt hunconfirmed hdue => execResolveRead_resolves hfound hmgmt hunconfirmed hdue
  case install => exact fun b o s hfound hmgmt hstate hconfirmed => execCheckpointInstalled_installs hfound hmgmt hstate hconfirmed
  case usage =>
    intro s hmgmt hbegun hover htrng
    obtain ⟨report, reports, hexec⟩ := execUsageReport_issues hmgmt hbegun hover htrng
    exact ⟨_, hexec, rfl, rfl, publishReport_reportSeq s _ report, rfl, rfl⟩

end Sys2Proof.Machine

/-!
Embedding tables (11_sessions_pools_tables.md): load periods, migrations, refreshes, granules and the release of a table's storage (R381,
R384, R391, R392).
-/
namespace Sys2Proof.Machine

open Sys2Proof

/-! ### Load periods (R392) -/

theorem State.cfgB_setNum_of_ne (s : State) {k j : Nat} (v : Nat) (h : k ≠ j) : (s.setNum j v).cfgB k = s.cfgB k := by
  have hget : (s.setNum j v).cat.get k = s.cat.get k := by simp [State.setNum, State.setVal, h]
  have hwaiting : (s.setNum j v).cat.waiting = s.cat.waiting := rfl
  rw [State.cfgB, State.cfgB, CatUnit.inForce, CatUnit.inForce, hget, hwaiting]

namespace Table

/-- The loads of the current period that are known. -/
def withLoads (s : State) (l : List (Nat × Nat × Nat)) : State := { s with tbl := { s.tbl with loads := l } }

/-- The load of table `t` at a shoal node is known. -/
def noteLoad (s : State) (t node l : Nat) : State :=
  withLoads s ((s.tbl.loads.filter fun x => !(x.1 == t && x.2.1 == node)) ++ [(t, node, l)])

/-- The load of a table is shown and its next period counts from 0. -/
def showLoad (s : State) (t : Nat) : State := (turnServed s t).setNum (Ent.tableStShoalLoad t) (load s t)

/-- The load of a table is sent to shoal nodes. -/
def reportLoad (s : State) (t l : Nat) (nodes : List Nat) : State :=
  nodes.foldl (fun u n => sendMessage u n 6 (job u t) 0x0032 [id u t, l] [] .load) s

/-- The other shoal nodes of a table. -/
def otherNodes (s : State) (t : Nat) : List Nat := ((shoalNodes s t).eraseDups).filter (· != s.strand.nodeId)

theorem shoalNodes_showLoad (s : State) (t : Nat) : shoalNodes (showLoad s t) t = shoalNodes s t := by
  have hmap : (showLoad s t).cfgB (Ent.tableShoalMap t) = s.cfgB (Ent.tableShoalMap t) :=
    State.cfgB_setNum_of_ne (turnServed s t) _ (by simp only [Ent.tableShoalMap, Ent.tableStShoalLoad]; omega)
  have hcount : (showLoad s t).cfg (Ent.tableShoalCount t) = s.cfg (Ent.tableShoalCount t) :=
    State.cfg_setNum_of_ne (turnServed s t) _ (by simp only [Ent.tableShoalCount, Ent.tableStShoalLoad]; omega)
  simp only [shoalNodes, hmap, hcount]

/-- R392: where this node is the only shoal node no row migrates; the loads of the period are forgotten and nothing else changes. -/
theorem considerSkew_alone {s : State} {t : Nat} (halone : (shoalNodes s t).eraseDups = [s.strand.nodeId]) :
    ∃ l, considerSkew s t = withLoads s l := by
  simp only [considerSkew, halone]
  split
  · exact ⟨_, rfl⟩
  · exact ⟨s.tbl.loads.filter fun x => x.1 != t, by simp [sortBy, insertBy, withLoads]⟩

theorem load_turnServed (s : State) (t : Nat) : load (turnServed s t) t = 0 := by
  have hnone : (turnServed s t).tbl.served.filter (fun x => x.slot == t) = [] := by simp [turnServed]
  rw [load, hnone]
  rfl

theorem mem_ranked_turnServed {s : State} {t : Nat} {x : ServedRow} (hx : x ∈ s.tbl.served) (hslot : x.slot = t) :
    x ∈ (turnServed s t).tbl.ranked := by
  simp [turnServed, hx, hslot]

end Table

/-- The tables that are Open with this node among their shoal nodes. -/
def servedTables (s : State) : List Nat :=
  (List.range 256).filter fun t => Table.state s t == 2 && (Table.shoalNodes s t).contains s.strand.nodeId

section
variable {s : State}

/-- The load period of one table ends (R392). -/
def endPeriod (s : State) (t : Nat) : State :=
  Table.considerSkew (Table.noteLoad (Table.reportLoad (Table.showLoad s t) t (Table.load s t) (Table.otherNodes s t)) t s.strand.nodeId
    (Table.load s t)) t

theorem execLoadPeriod_none (hmgmt : s.mgmt = true) (hperiod : s.now % max 1 (s.cfg Ent.loadPeriod) = 0) (hnone : servedTables s = []) :
    execLoadPeriod s = .next s := by
  rw [servedTables] at hnone
  simp only [execLoadPeriod, hmgmt, hperiod, hnone, bne_self_eq_false, Bool.not_true, Bool.or_self, Bool.false_eq_true, if_false,
    List.foldl_nil]

/-- R392: the load of the one table served here is shown, sent to its other shoal nodes and weighed. -/
theorem execLoadPeriod_one {k : Nat} (hmgmt : s.mgmt = true) (hperiod : s.now % max 1 (s.cfg Ent.loadPeriod) = 0)
    (hone : servedTables s = [k]) : execLoadPeriod s = .next (endPeriod s k) := by
  rw [servedTables] at hone
  have hothers : Table.otherNodes (Table.showLoad s k) k = Table.otherNodes s k := by
    rw [Table.otherNodes, Table.otherNodes, Table.shoalNodes_showLoad]
    rfl
  simp only [execLoadPeriod, hmgmt, hperiod, hone, bne_self_eq_false, Bool.not_true, Bool.or_self, Bool.false_eq_true, if_false,
    List.foldl_cons, List.foldl_nil]
  rw [endPeriod, ← hothers]
  rfl

/-- R392: a node that serves its table alone shows the load, ranks the rows read and counts the next period from 0. -/
theorem endPeriod_alone {k : Nat} (halone : (Table.shoalNodes s k).eraseDups = [s.strand.nodeId]) :
    ∃ l, endPeriod s k = Table.withLoads (Table.showLoad s k) l := by
  have hothers : Table.otherNodes s k = [] := by simp [Table.otherNodes, halone]
  have hnodes : (Table.shoalNodes (Table.noteLoad (Table.showLoad s k) k s.strand.nodeId (Table.load s k)) k).eraseDups =
      [s.strand.nodeId] := (congrArg List.eraseDups (Table.shoalNodes_showLoad s k)).trans halone
  rw [endPeriod, hothers]
  exact Table.considerSkew_alone hnodes
end

/-! ### Migrations (R384, R392) -/

namespace Table

theorem entry_setEntry {s : State} {t row : Nat} {d : DirEntry} (hslot : d.slot = t) (hrow : d.row = row) :
    entry (setEntry s d) t row = d := by
  have hothers : (s.tbl.dirs.filter fun x => !(x.slot == d.slot && x.row == d.row)).find?
      (fun x => x.slot == t && x.row == row) = none := by
    rw [List.find?_eq_none, hslot, hrow]
    intro x hx hmine
    exact absurd (List.mem_filter.mp hx).2 (by simp [hmine])
  have hlast : (setEntry s d).tbl.dirs.find? (fun x => x.slot == t && x.row == row) = some d := by
    rw [setEntry, List.find?_append, hothers]
    simp [hslot, hrow]
  rw [entry, hlast]

theorem entry_slot_row (s : State) (t row : Nat) : (entry s t row).slot = t ∧ (entry s t row).row = row := by
  unfold entry
  split
  next d hfound => simpa using List.find?_some hfound
  next => exact ⟨rfl, rfl⟩

end Table

/-- The migration of a row is over. -/
def dropSwitched (s : State) (t row : Nat) : State :=
  { s with tbl := { s.tbl with migrations := s.tbl.migrations.filter fun x => !(x.slot == t && x.row == row) } }

/-- R392 step 5: Current names the copy; TideField and Fresh stay. -/
def switchedEntry (s : State) (t row p : Nat) : DirEntry :=
  { Table.entry s t row with cur := (Table.entry s t row).cur / 2 ^ 50 * 2 ^ 50 + p % 2 ^ 50 }

/-- R392 step 5: a copy of the version that Current names becomes Current at the switch Tide. -/
theorem execMigrationSwitch_switches {s : State} {b row k p w : Nat} {m : Migration} (hfound : Table.find s b = some k)
    (hmigration : Table.migration s k row = some m) (hcopy : m.copy = some p) (hswitch : m.switchAt = some w) (hmgmt : s.mgmt = true)
    (hdue : w ≤ s.now) (hsame : Table.ptrTide s.now p = Table.ptrTide s.now (Table.entry s k row).cur) :
    execMigrationSwitch b row s = .next ((Table.setEntry (Table.retire
      (if m.target = s.strand.nodeId then Table.forgetStored (dropSwitched s k row) k row else dropSwitched s k row) k row
      (Table.entry s k row).cur) (switchedEntry s k row p)).bump (Ent.tableStMigrations k)) := by
  have hgoes : (s.mgmt && decide (w ≤ s.now) && Table.ptrTide s.now p == Table.ptrTide s.now (Table.entry s k row).cur) = true := by
    simp [hmgmt, hdue, hsame]
  simp only [execMigrationSwitch, hfound, hmigration, hcopy, hswitch, if_pos hgoes]
  rfl

theorem entry_switched (s u : State) (k row p c : Nat) :
    Table.entry ((Table.setEntry u (switchedEntry s k row p)).bump c) k row = switchedEntry s k row p :=
  Table.entry_setEntry (Table.entry_slot_row s k row).1 (Table.entry_slot_row s k row).2

/-! ### Hot rows (R391)

The cache takes whole shelf pages, as many as are free (notes/assumptions/66.md). -/

/-- R391: what was cached and counted of a table is forgotten. -/
def forgetHot (s : State) (k : Nat) : State :=
  { s with tbl := { s.tbl with looked := s.tbl.looked.filter fun y => y.slot != k, hot := s.tbl.hot.filter fun y => y.slot != k } }

/-- R391: the rows of highest count that fit in the pages taken. -/
def refreshRows (s : State) (k : Nat) : List LookedRow :=
  hotRows (min (s.cfg (Ent.tableCacheBytes k)) (65536 * (takeCache s k).1)) (Table.rowBytes s k) (s.tbl.looked.filter fun y => y.slot == k)

theorem execHotRowRefresh_refreshes {s : State} {b k : Nat} (hfound : Table.find s b = some k) (hmgmt : s.mgmt = true)
    (hperiod : s.now % max 1 (s.cfg (Ent.tableHotRefreshTides k)) = 0) :
    execHotRowRefresh b s = .next (Table.settleCache ((refreshRows s k).foldl (fun v y => Table.beginFar v (.cache k) k y.row v.now)
      (forgetHot (Table.dropFar (takeCache s k).2 fun y => y == .cache k) k))) := by
  simp only [execHotRowRefresh, hfound, hmgmt, hperiod, bne_self_eq_false, Bool.not_true, Bool.or_self, Bool.false_eq_true, if_false]
  rfl

/-! ### Granules and pointers (R384) -/

namespace Table

theorem freeing_foldl_release (l : List (Nat × Nat × Nat)) (s : State) :
    (l.foldl (fun s x => release s x.1 x.2.1) s).tbl.freeing = s.tbl.freeing := by
  induction l generalizing s with
  | nil => rfl
  | cons x l ih => exact (ih _).trans rfl

theorem granules_foldl_release_subset (l : List (Nat × Nat × Nat)) (s : State) :
    (l.foldl (fun s x => release s x.1 x.2.1) s).tbl.granules ⊆ s.tbl.granules := by
  induction l generalizing s with
  | nil => exact List.Subset.refl _
  | cons x l ih => exact List.Subset.trans (ih _) (List.filter_subset_self _)

theorem ne_of_mem_release {s : State} {t g i : Nat} {x : Nat × Nat} (hi : i < span s t) (hx : x ∈ (release s t g).tbl.granules) :
    x.2 ≠ i + g := by
  intro heq
  have hkept := (List.mem_filter.mp hx).2
  simp [heq, hi] at hkept

/-- R384: no granule of a version that is released stays in use. -/
theorem ne_of_mem_foldl_release {l : List (Nat × Nat × Nat)} {s : State} {x : Nat × Nat × Nat} {i : Nat} {y : Nat × Nat} (hx : x ∈ l)
    (hi : i < span s x.1) (hy : y ∈ (l.foldl (fun s x => release s x.1 x.2.1) s).tbl.granules) : y.2 ≠ i + x.2.1 := by
  induction l generalizing s with
  | nil => exact absurd hx (List.not_mem_nil)
  | cons z l ih =>
    rcases List.mem_cons.mp hx with rfl | hl
    · exact ne_of_mem_release hi (granules_foldl_release_subset l _ hy)
    · exact ih (s := release s z.1 z.2.1) hl hi hy

/-- R384: FRESH_CLEAR of a pointer. -/
def clearFresh (now p : Nat) : Nat := if ptrFresh p && decide (ptrTide now p + 4096 < now) then p - 2 ^ 50 else p

end Table

theorem execGranuleFree_frees {s : State} (hmgmt : s.mgmt = true) :
    execGranuleFree s = .next ((s.tbl.freeing.filter fun x => decide (x.2.2 ≤ s.now)).foldl (fun s x => Table.release s x.1 x.2.1)
      { s with tbl := { s.tbl with freeing := s.tbl.freeing.filter fun x => !decide (x.2.2 ≤ s.now) } }) := by
  simp only [execGranuleFree, hmgmt, Bool.not_true, Bool.false_eq_true, if_false]

theorem execFreshClear_clears {s : State} (hmgmt : s.mgmt = true) :
    execFreshClear s = .next { s with tbl := { s.tbl with
      dirs := s.tbl.dirs.map fun d => { d with cur := Table.clearFresh s.now d.cur, prior := Table.clearFresh s.now d.prior } } } := by
  rw [execFreshClear, if_pos hmgmt]
  rfl

/-! ### Storage of a closed table (R381) -/

theorem execTableStorageRelease_clears {s : State} {k : Nat} {x : TableClosing}
    (hclosing : (s.tbl.closings.find? fun x => x.slot == k) = some x) (hmgmt : s.mgmt = true) (hdue : x.boundary + 4096 ≤ s.now) :
    execTableStorageRelease k s = .next (clearTable s k) := by
  simp [execTableStorageRelease, hclosing, hmgmt, hdue]

/-- R381: of what a table had stored, nothing stays. -/
theorem clearTable_leaves_nothing (s : State) (k : Nat) :
    (∀ d ∈ (clearTable s k).tbl.dirs, d.slot ≠ k) ∧ (∀ g ∈ (clearTable s k).tbl.granules, g.1 ≠ k) ∧
      (∀ y ∈ (clearTable s k).tbl.closings, y.slot ≠ k) ∧ (∀ y ∈ (clearTable s k).tbl.hot, y.slot ≠ k) := by
  have hkept {α : Type} (f : α → Nat) (l : List α) (x : α) (hx : x ∈ l.filter fun x => f x != k) : f x ≠ k := by
    simpa using (List.mem_filter.mp hx).2
  exact ⟨hkept _ _, hkept _ _, hkept _ _, hkept _ _⟩

/-- Settles O42: a load period ends for the one table that is served, or does nothing; the other events take the branch that their
conditions leave, and what stays is read off the lists that they filter. -/
theorem tableEventsComplete : Obligations.TableEventsComplete := by
  refine ⟨?idle, ?period, ?alone, ?switch, ?refresh, ?granules, ?fresh, ?storage⟩
  case idle =>
    intro s hmgmt hperiod hnone
    refine execLoadPeriod_none hmgmt hperiod (List.filter_eq_nil_iff.mpr fun t ht => ?_)
    simpa using fun hopen => by simpa using hnone t (List.mem_range.mp ht) hopen
  case period =>
    rintro k _ _ s hmgmt hperiod hone rfl rfl
    exact execLoadPeriod_one hmgmt hperiod hone
  case alone =>
    intro k s hmgmt hperiod hone halone
    obtain ⟨l, hends⟩ := endPeriod_alone halone
    refine ⟨_, (execLoadPeriod_one hmgmt hperiod hone).trans (congrArg _ hends), ?_, Table.load_turnServed s k,
      fun x hx hslot => Table.mem_ranked_turnServed hx hslot⟩
    exact (State.num_setNum _ _ _ _).trans (if_pos rfl)
  case switch =>
    rintro b row k p w m _ s hfound hmigration hcopy hswitch hmgmt hdue hsame rfl
    refine ⟨_, execMigrationSwitch_switches hfound hmigration hcopy hswitch hmgmt hdue hsame, rfl, ?_, ?_⟩
    · rw [entry_switched]
      rfl
    · rw [entry_switched]
      rfl
  case refresh =>
    rintro b k _ _ _ s hfound hmgmt hperiod rfl rfl rfl
    exact execHotRowRefresh_refreshes hfound hmgmt hperiod
  case granules =>
    intro s hmgmt
    refine ⟨_, execGranuleFree_frees hmgmt, rfl, fun x => ?_, fun x hx hdue i hi y hy => ?_⟩
    · rw [Table.freeing_foldl_release]
      simp
    · have hmem : x ∈ s.tbl.freeing.filter fun y => decide (y.2.2 ≤ s.now) := List.mem_filter.mpr ⟨hx, decide_eq_true hdue⟩
      refine Table.ne_of_mem_foldl_release hmem ?_ hy
      exact hi
  case fresh =>
    intro s hmgmt
    refine ⟨_, execFreshClear_clears hmgmt, List.length_map _, fun d hd => ?_, rfl⟩
    obtain ⟨e, he, rfl⟩ := List.mem_map.mp hd
    refine ⟨e, he, rfl, rfl, ?_, ?_, ?_⟩
    · simp only [Table.clearFresh]
      split
      · exact .inr rfl
      · exact .inl rfl
    · simp [Table.clearFresh]
    · simp [Table.clearFresh]
  case storage =>
    intro k x s hclosing hmgmt hdue
    obtain ⟨hdirs, hgranules, hclosings, hhot⟩ := clearTable_leaves_nothing s k
    exact ⟨_, execTableStorageRelease_clears hclosing hmgmt hdue, rfl, hdirs, hgranules, hclosings, hhot⟩

end Sys2Proof.Machine

/-!
Frames (95_what_each_step_holds.md): every unit that `mayChange` does not list for a command is after it what it was before.
-/
namespace Sys2Proof.Machine

open Sys2Proof

/-- The units of the state, in the order of its fields. -/
def allUnits : List UnitName :=
  [.out, .free, .tide, .cat, .cap, .log, .rst, .pwr, .strand, .host, .idx, .qry, .chg, .mem, .key, .coh, .nb, .flash, .gph, .berth, .tbl, .rel, .sec]

theorem mem_allUnits (u : UnitName) : u ∈ allUnits := by
  cases u <;> decide

/-- Two states hold the same in each unit of a list: the shape of every row's frame. -/
def SameIn (t s : State) : List UnitName → Prop
  | [] => True
  | [u] => Same t s u
  | u :: v :: l => Same t s u ∧ SameIn t s (v :: l)

theorem SameIn.same {t s : State} {u : UnitName} : ∀ {l : List UnitName}, SameIn t s l → u ∈ l → Same t s u
  | [_], h, hu => List.mem_singleton.mp hu ▸ h
  | _ :: _ :: _, ⟨hv, hl⟩, hu => (List.mem_cons.mp hu).elim (fun huv => huv ▸ hv) hl.same

/-- The units that a command leaves as they are. -/
def keptUnits (c : Instr) : List UnitName := allUnits.diff (mayChange c)

theorem mem_keptUnits {c : Instr} {u : UnitName} (hu : u ∉ mayChange c) : u ∈ keptUnits c :=
  List.mem_diff_of_mem (mem_allUnits u) hu

/-- Every row has a frame that names all the units outside its own. -/
theorem exec_sameIn_keptUnits {c : Instr} {s t : State} (h : exec c s = .next t) : SameIn t s (keptUnits c) := by
  cases c with
  | masterBoundary => exact (execMasterBoundary_frame (h := h) ..).2
  | tideInEdge => exact (execTideInEdge_frame (h := h) ..).2
  | missedEdge => exact (execMissedEdge_frame (h := h) ..).2
  | countFrame => exact (execCountFrame_frame (h := h) ..).2
  | tideBeacon => exact (execTideBeacon_frame (h := h) ..).2
  | subTick => exact (execSubTick_frame (h := h) ..).2
  | tideUnitStart => exact (execTideUnitStart_frame (h := h) ..).2
  | twApply => exact (execTwApply_frame (h := h) ..).2
  | collectionIdWrite => exact (execCollectionIdWrite_frame (h := h) ..).2
  | collectionOpen => exact (execCollectionOpen_frame (h := h) ..).2
  | collectionClose => exact (execCollectionClose_frame (h := h) ..).2
  | collectionStorageRelease => exact (execCollectionStorageRelease_frame (h := h) ..).2
  | shoalMapWrite => exact (execShoalMapWrite_frame (h := h) ..).2
  | shoalRelease => exact (execShoalRelease_frame (h := h) ..).2
  | slotSettle => exact (execSlotSettle_frame (h := h) ..).2
  | indexAgeLimit => exact (execIndexAgeLimit_frame (h := h) ..).2
  | retiredReclaim => exact (execRetiredReclaim_frame (h := h) ..).2
  | query => exact (execQuery_frame (h := h) ..).2
  | fragmentRequest src data => exact (execFragmentRequest_frame src data s h).2
  | fragmentReply => exact (execFragmentReply_frame (h := h) ..).2
  | fragmentCutoff => exact (execFragmentCutoff_frame (h := h) ..).2
  | fragmentComplete => exact (execFragmentComplete_frame (h := h) ..).2
  | queryDeadline => exact (execQueryDeadline_frame (h := h) ..).2
  | verifyReadDone => exact (execVerifyReadDone_frame (h := h) ..).2
  | accession => exact (execAccession_frame (h := h) ..).2
  | deaccession => exact (execDeaccession_frame (h := h) ..).2
  | changeAtPrimary => exact (execChangeAtPrimary_frame (h := h) ..).2
  | changeHeldAccept => exact (execChangeHeldAccept_frame (h := h) ..).2
  | changeAtReplica => exact (execChangeAtReplica_frame (h := h) ..).2
  | changeAcknowledgement => exact (execChangeAcknowledgement_frame (h := h) ..).2
  | changeOutcome => exact (execChangeOutcome_frame (h := h) ..).2
  | replicaAckTimeout => exact (execReplicaAckTimeout_frame (h := h) ..).2
  | intakeGiveUp => exact (execIntakeGiveUp_frame (h := h) ..).2
  | upkeepWindowOpen => exact (execUpkeepWindowOpen_frame (h := h) ..).2
  | upkeepWindowClose => exact (execUpkeepWindowClose_frame (h := h) ..).2
  | shoalFillStream => exact (execShoalFillStream_frame (h := h) ..).2
  | fillComplete => exact (execFillComplete_frame (h := h) ..).2
  | hostMemRead => exact (execHostMemRead_frame (h := h) ..).2
  | hostMemWrite => exact (execHostMemWrite_frame (h := h) ..).2
  | holdTimeout => exact (execHoldTimeout_frame (h := h) ..).2
  | stackDemotion => exact (execStackDemotion_frame (h := h) ..).2
  | shelfDemotion => exact (execShelfDemotion_frame (h := h) ..).2
  | pageMoveSwitch => exact (execPageMoveSwitch_frame (h := h) ..).2
  | sweepComplete => exact (execSweepComplete_frame (h := h) ..).2
  | nbSequenceIssue => exact (execNbSequenceIssue_frame (h := h) ..).2
  | nbSequenceStart => exact (execNbSequenceStart_frame (h := h) ..).2
  | rowcopy => exact (execRowcopy_frame (h := h) ..).2
  | rowinit => exact (execRowinit_frame (h := h) ..).2
  | rowlogic => exact (execRowlogic_frame (h := h) ..).2
  | opload => exact (execOpload_frame (h := h) ..).2
  | popacc => exact (execPopacc_frame (h := h) ..).2
  | accout => exact (execAccout_frame (h := h) ..).2
  | seqEnd => exact (execSeqEnd_frame (h := h) ..).2
  | bankSlot => exact (execBankSlot_frame (h := h) ..).2
  | refreshVisit => exact (execRefreshVisit_frame (h := h) ..).2
  | neighbourRefresh => exact (execNeighbourRefresh_frame (h := h) ..).2
  | stackTempRead => exact (execStackTempRead_frame (h := h) ..).2
  | graphLoad => exact (execGraphLoad_frame (h := h) ..).2
  | graphRun => exact (execGraphRun_frame (h := h) ..).2
  | graphUnload => exact (execGraphUnload_frame (h := h) ..).2
  | unloadComplete => exact (execUnloadComplete_frame (h := h) ..).2
  | runHoldRelease => exact (execRunHoldRelease_frame (h := h) ..).2
  | runDeadline => exact (execRunDeadline_frame (h := h) ..).2
  | convert => exact (execConvert_frame (h := h) ..).2
  | reshape => exact (execReshape_frame (h := h) ..).2
  | transpose => exact (execTranspose_frame (h := h) ..).2
  | elementwise => exact (execElementwise_frame (h := h) ..).2
  | reduce => exact (execReduce_frame (h := h) ..).2
  | softmax => exact (execSoftmax_frame (h := h) ..).2
  | norm => exact (execNorm_frame (h := h) ..).2
  | quantise => exact (execQuantise_frame (h := h) ..).2
  | dequantise => exact (execDequantise_frame (h := h) ..).2
  | matmul => exact (execMatmul_frame (h := h) ..).2
  | chunkFillDone => exact (execChunkFillDone_frame (h := h) ..).2
  | distance => exact (execDistance_frame (h := h) ..).2
  | select => exact (execSelect_frame (h := h) ..).2
  | merge => exact (execMerge_frame (h := h) ..).2
  | filter => exact (execFilter_frame (h := h) ..).2
  | gather run remote => exact (execGather_frame run remote s h).2
  | scatter => exact (execScatter_frame (h := h) ..).2
  | mergeUpdate => exact (execMergeUpdate_frame (h := h) ..).2
  | nbMatvec => exact (execNbMatvec_frame (h := h) ..).2
  | attendQk => exact (execAttendQk_frame (h := h) ..).2
  | attendPv => exact (execAttendPv_frame (h := h) ..).2
  | attend => exact (execAttend_frame (h := h) ..).2
  | berthAppend => exact (execBerthAppend_frame (h := h) ..).2
  | loop => exact (execLoop_frame (h := h) ..).2
  | branch => exact (execBranch_frame (h := h) ..).2
  | tideWait => exact (execTideWait_frame (h := h) ..).2
  | tideWaitRelease => exact (execTideWaitRelease_frame (h := h) ..).2
  | create cmd answer => exact (execCreate_frame cmd answer s h).2
  | park => exact (execPark_frame (h := h) ..).2
  | parkDone => exact (execParkDone_frame (h := h) ..).2
  | wake => exact (execWake_frame (h := h) ..).2
  | wakeReady => exact (execWakeReady_frame (h := h) ..).2
  | attendCommand => exact (execAttendCommand_frame (h := h) ..).2
  | release => exact (execRelease_frame (h := h) ..).2
  | handoff => exact (execHandoff_frame (h := h) ..).2
  | checkpoint => exact (execCheckpoint_frame (h := h) ..).2
  | berthPages => exact (execBerthPages_frame (h := h) ..).2
  | berthControl => exact (execBerthControl_frame (h := h) ..).2
  | berthCommandRelease => exact (execBerthCommandRelease_frame (h := h) ..).2
  | autoPark => exact (execAutoPark_frame (h := h) ..).2
  | leaseRenewal => exact (execLeaseRenewal_frame (h := h) ..).2
  | leaseExpiry => exact (execLeaseExpiry_frame (h := h) ..).2
  | resolveRead => exact (execResolveRead_frame (h := h) ..).2
  | takeover => exact (execTakeover_frame (h := h) ..).2
  | usageReport => exact (execUsageReport_frame (h := h) ..).2
  | tableIdWrite => exact (execTableIdWrite_frame (h := h) ..).2
  | tableOpen => exact (execTableOpen_frame (h := h) ..).2
  | tableClose => exact (execTableClose_frame (h := h) ..).2
  | tableStorageRelease => exact (execTableStorageRelease_frame (h := h) ..).2
  | rowGet cmd rows remote => exact (execRowGet_frame cmd rows remote s h).2
  | rowPut => exact (execRowPut_frame (h := h) ..).2
  | rowUpdate => exact (execRowUpdate_frame (h := h) ..).2
  | tablePutRows => exact (execTablePutRows_frame (h := h) ..).2
  | tablePutCommit => exact (execTablePutCommit_frame (h := h) ..).2
  | tablePutWithdraw => exact (execTablePutWithdraw_frame (h := h) ..).2
  | putAnswerDeadline => exact (execPutAnswerDeadline_frame (h := h) ..).2
  | tableUpdateSums => exact (execTableUpdateSums_frame (h := h) ..).2
  | tableLoadReport => exact (execTableLoadReport_frame (h := h) ..).2
  | loadPeriod => exact (execLoadPeriod_frame (h := h) ..).2
  | migrationSwitch => exact (execMigrationSwitch_frame (h := h) ..).2
  | hotRowRefresh => exact (execHotRowRefresh_frame (h := h) ..).2
  | granuleFree => exact (execGranuleFree_frame (h := h) ..).2
  | freshClear => exact (execFreshClear_frame (h := h) ..).2
  | cacheRead => exact (execCacheRead_frame (h := h) ..).2
  | readOwn => exact (execReadOwn_frame (h := h) ..).2
  | upgrade => exact (execUpgrade_frame (h := h) ..).2
  | writeLine => exact (execWriteLine_frame (h := h) ..).2
  | readOnce => exact (execReadOnce_frame (h := h) ..).2
  | writeback => exact (execWriteback_frame (h := h) ..).2
  | evictionNotice => exact (execEvictionNotice_frame (h := h) ..).2
  | cacheAtomic => exact (execCacheAtomic_frame (h := h) ..).2
  | invalidationAck => exact (execInvalidationAck_frame (h := h) ..).2
  | firmwareWriteback => exact (execFirmwareWriteback_frame (h := h) ..).2
  | firmwareInvalidate => exact (execFirmwareInvalidate_frame (h := h) ..).2
  | firmwareFence => exact (execFirmwareFence_frame (h := h) ..).2
  | hostSnoop => exact (execHostSnoop_frame (h := h) ..).2
  | bisnpResponse => exact (execBisnpResponse_frame (h := h) ..).2
  | signalDetect => exact (execSignalDetect_frame (h := h) ..).2
  | equaliseDone => exact (execEqualiseDone_frame (h := h) ..).2
  | alignDone => exact (execAlignDone_frame (h := h) ..).2
  | hello => exact (execHello_frame (h := h) ..).2
  | trainTimeout => exact (execTrainTimeout_frame (h := h) ..).2
  | downRetry => exact (execDownRetry_frame (h := h) ..).2
  | miswiredHelloRepeat => exact (execMiswiredHelloRepeat_frame (h := h) ..).2
  | lanemap => exact (execLanemap_frame (h := h) ..).2
  | laneSwitch => exact (execLaneSwitch_frame (h := h) ..).2
  | credit => exact (execCredit_frame (h := h) ..).2
  | ack => exact (execAck_frame (h := h) ..).2
  | nak => exact (execNak_frame (h := h) ..).2
  | frameReceived => exact (execFrameReceived_frame (h := h) ..).2
  | egressSelect => exact (execEgressSelect_frame (h := h) ..).2
  | strandRead => exact (execStrandRead_frame (h := h) ..).2
  | strandWrite => exact (execStrandWrite_frame (h := h) ..).2
  | strandAtomic => exact (execStrandAtomic_frame (h := h) ..).2
  | register => exact (execRegister_frame (h := h) ..).2
  | unregister => exact (execUnregister_frame (h := h) ..).2
  | publish => exact (execPublish_frame (h := h) ..).2
  | invalidate => exact (execInvalidate_frame (h := h) ..).2
  | messageSegment => exact (execMessageSegment_frame (h := h) ..).2
  | messageReassemblyTimeout => exact (execMessageReassemblyTimeout_frame (h := h) ..).2
  | readResponse => exact (execReadResponse_frame (h := h) ..).2
  | writeResponse => exact (execWriteResponse_frame (h := h) ..).2
  | atomicResponse => exact (execAtomicResponse_frame (h := h) ..).2
  | registerResponse => exact (execRegisterResponse_frame (h := h) ..).2
  | publishResponse => exact (execPublishResponse_frame (h := h) ..).2
  | invalidateResponse => exact (execInvalidateResponse_frame (h := h) ..).2
  | messageResponse => exact (execMessageResponse_frame (h := h) ..).2
  | readResend => exact (execReadResend_frame (h := h) ..).2
  | strandGiveUp => exact (execStrandGiveUp_frame (h := h) ..).2
  | atomicResend => exact (execAtomicResend_frame (h := h) ..).2
  | atomicGiveUp => exact (execAtomicGiveUp_frame (h := h) ..).2
  | invalidateResend => exact (execInvalidateResend_frame (h := h) ..).2
  | publishGiveUp => exact (execPublishGiveUp_frame (h := h) ..).2
  | replayEntryExpiry => exact (execReplayEntryExpiry_frame (h := h) ..).2
  | histogramPeriod => exact (execHistogramPeriod_frame (h := h) ..).2
  | flashEnumerationDone => exact (execFlashEnumerationDone_frame (h := h) ..).2
  | lunReadDispatch => exact (execLunReadDispatch_frame (h := h) ..).2
  | flashReadDone => exact (execFlashReadDone_frame (h := h) ..).2
  | writeFlushTimer => exact (execWriteFlushTimer_frame (h := h) ..).2
  | flashProgramDone => exact (execFlashProgramDone_frame (h := h) ..).2
  | blockErase => exact (execBlockErase_frame (h := h) ..).2
  | eraseDone => exact (execEraseDone_frame (h := h) ..).2
  | journalFlush => exact (execJournalFlush_frame (h := h) ..).2
  | journalFlushDone => exact (execJournalFlushDone_frame (h := h) ..).2
  | rebuildDone => exact (execRebuildDone_frame (h := h) ..).2
  | housekeepingWindowOpen => exact (execHousekeepingWindowOpen_frame (h := h) ..).2
  | housekeepingWindowClose => exact (execHousekeepingWindowClose_frame (h := h) ..).2
  | urgentGc => exact (execUrgentGc_frame (h := h) ..).2
  | urgentRelocation => exact (execUrgentRelocation_frame (h := h) ..).2
  | controllerEnable => exact (execControllerEnable_frame (h := h) ..).2
  | readySet => exact (execReadySet_frame (h := h) ..).2
  | controllerDisable => exact (execControllerDisable_frame (h := h) ..).2
  | hostDisableEffect => exact (execHostDisableEffect_frame (h := h) ..).2
  | hostDrainLimit => exact (execHostDrainLimit_frame (h := h) ..).2
  | queueEnable => exact (execQueueEnable_frame (h := h) ..).2
  | queueDisable => exact (execQueueDisable_frame (h := h) ..).2
  | queueDisableDone => exact (execQueueDisableDone_frame (h := h) ..).2
  | sqTailDoorbell => exact (execSqTailDoorbell_frame (h := h) ..).2
  | cqHeadDoorbell => exact (execCqHeadDoorbell_frame (h := h) ..).2
  | linkLostClear => exact (execLinkLostClear_frame (h := h) ..).2
  | bar0Write => exact (execBar0Write_frame (h := h) ..).2
  | sqFetch => exact (execSqFetch_frame (h := h) ..).2
  | coalesceTimer => exact (execCoalesceTimer_frame (h := h) ..).2
  | msixUnmask => exact (execMsixUnmask_frame (h := h) ..).2
  | linkLoss => exact (execLinkLoss_frame (h := h) ..).2
  | linkTrained => exact (execLinkTrained_frame (h := h) ..).2
  | hdmCommit => exact (execHdmCommit_frame (h := h) ..).2
  | getSupportedLogs => exact (execGetSupportedLogs_frame (h := h) ..).2
  | getLog => exact (execGetLog_frame (h := h) ..).2
  | catalogueTransaction => exact (execCatalogueTransaction_frame (h := h) ..).2
  | imageStart => exact (execImageStart_frame (h := h) ..).2
  | imageData => exact (execImageData_frame (h := h) ..).2
  | imageEnd => exact (execImageEnd_frame (h := h) ..).2
  | imageVerifyDone => exact (execImageVerifyDone_frame (h := h) ..).2
  | imageWriteDone => exact (execImageWriteDone_frame (h := h) ..).2
  | doeDiscovery => exact (execDoeDiscovery_frame (h := h) ..).2
  | cdat => exact (execCdat_frame (h := h) ..).2
  | spdm => exact (execSpdm_frame (h := h) ..).2
  | ideKm => exact (execIdeKm_frame (h := h) ..).2
  | capRead => exact (execCapRead_frame (h := h) ..).2
  | capReadPending => exact (execCapReadPending_frame (h := h) ..).2
  | capWrite => exact (execCapWrite_frame (h := h) ..).2
  | lock => exact (execLock_frame (h := h) ..).2
  | lockForce => exact (execLockForce_frame (h := h) ..).2
  | unlock => exact (execUnlock_frame (h := h) ..).2
  | describe => exact (execDescribe_frame (h := h) ..).2
  | lockExpiry => exact (execLockExpiry_frame (h := h) ..).2
  | snapshotExpiry => exact (execSnapshotExpiry_frame (h := h) ..).2
  | provenanceNonceWrite => exact (execProvenanceNonceWrite_frame (h := h) ..).2
  | provenanceRecordRead => exact (execProvenanceRecordRead_frame (h := h) ..).2
  | eventRecordsRead => exact (execEventRecordsRead_frame (h := h) ..).2
  | createKey => exact (execCreateKey_frame (h := h) ..).2
  | destroy => exact (execDestroy_frame (h := h) ..).2
  | registerGraphKey => exact (execRegisterGraphKey_frame (h := h) ..).2
  | removeGraphKey => exact (execRemoveGraphKey_frame (h := h) ..).2
  | fence => exact (execFence_frame (h := h) ..).2
  | unfence => exact (execUnfence_frame (h := h) ..).2
  | expel => exact (execExpel_frame (h := h) ..).2
  | reinstate => exact (execReinstate_frame (h := h) ..).2
  | setFaultKeys => exact (execSetFaultKeys_frame (h := h) ..).2
  | signedCommandEffect => exact (execSignedCommandEffect_frame (h := h) ..).2
  | faultKeysWrite => exact (execFaultKeysWrite_frame (h := h) ..).2
  | coldResetRequest => exact (execColdResetRequest_frame (h := h) ..).2
  | warmResetRequest => exact (execWarmResetRequest_frame (h := h) ..).2
  | domainResetRequest => exact (execDomainResetRequest_frame (h := h) ..).2
  | blockResetRequest => exact (execBlockResetRequest_frame (h := h) ..).2
  | resetAssert => exact (execResetAssert_frame (h := h) ..).2
  | powerOn => exact (execPowerOn_frame (h := h) ..).2
  | resetNLow => exact (execResetNLow_frame (h := h) ..).2
  | resetNRise => exact (execResetNRise_frame (h := h) ..).2
  | railUndervoltage => exact (execRailUndervoltage_frame (h := h) ..).2
  | clockStop => exact (execClockStop_frame (h := h) ..).2
  | releasePoint => exact (execReleasePoint_frame (h := h) ..).2
  | watchdogExpiry => exact (execWatchdogExpiry_frame (h := h) ..).2
  | domainRelease => exact (execDomainRelease_frame (h := h) ..).2
  | selfTestEscalation => trivial
  | junctionSensorRead => exact (execJunctionSensorRead_frame (h := h) ..).2
  | blockQuiesce => exact (execBlockQuiesce_frame (h := h) ..).2
  | blockQuiesced => exact (execBlockQuiesced_frame (h := h) ..).2
  | functionDisable => exact (execFunctionDisable_frame (h := h) ..).2
  | functionEnable => exact (execFunctionEnable_frame (h := h) ..).2
  | drainLimit => exact (execDrainLimit_frame (h := h) ..).2
  | neapRequest => exact (execNeapRequest_frame (h := h) ..).2
  | activeRequest => exact (execActiveRequest_frame (h := h) ..).2
  | neapPowerOff => exact (execNeapPowerOff_frame (h := h) ..).2
  | neapExitDone => exact (execNeapExitDone_frame (h := h) ..).2
  | slackEntry => exact (execSlackEntry_frame (h := h) ..).2
  | railCurrentSample => exact (execRailCurrentSample_frame (h := h) ..).2
  | marginSample => exact (execMarginSample_frame (h := h) ..).2
  | marginPeriod => exact (execMarginPeriod_frame (h := h) ..).2
  | cmisPoll => exact (execCmisPoll_frame (h := h) ..).2
  | trngHealthFail => exact (execTrngHealthFail_frame (h := h) ..).2
  | trngStartupDone => exact (execTrngStartupDone_frame (h := h) ..).2
  | errorEvent => exact (execErrorEvent_frame (h := h) ..).2
  | selfTestDone => exact (execSelfTestDone_frame (h := h) ..).2
  | selfTestRequest => exact (execSelfTestRequest_frame (h := h) ..).2
  | stragglerHoldExpiry => exact (execStragglerHoldExpiry_frame (h := h) ..).2
  | firmwareImageStarted => exact (execFirmwareImageStarted_frame (h := h) ..).2
  | checkpointInstalled => exact (execCheckpointInstalled_frame (h := h) ..).2
  | tapInstruction => exact (execTapInstruction_frame (h := h) ..).2

theorem exec_frame {c : Instr} {s t : State} (h : exec c s = .next t) (u : UnitName) (hu : u ∉ mayChange c) : Same t s u :=
  (exec_sameIn_keptUnits h).same (mem_keptUnits hu)

/-- Where the memory unit is kept, so is every byte of memory. -/
theorem exec_frame_bytes {c : Instr} {s t : State} (h : exec c s = .next t) :
    (∀ u, u ∉ mayChange c → Same t s u) ∧ (.mem ∉ mayChange c → ∀ a, Cells.read t.mem.cells a = Cells.read s.mem.cells a) := by
  refine ⟨exec_frame h, fun hmem a => ?_⟩
  have hsame : t.mem = s.mem := exec_frame h .mem hmem
  rw [hsame]

/-- Settles O6: every row's frame names the queue. -/
theorem execLeavesTheQueue : Obligations.ExecLeavesTheQueue := fun _ _ _ h => exec_keeps_pending h

/-- Settles O8: the frames of the rows. -/
theorem tideAndSearchFrame : Obligations.TideAndSearchFrame := fun _ _ _ _ h => exec_frame_bytes h

/-- Settles O9: the frames of the rows. -/
theorem catalogueAndHostFrame : Obligations.CatalogueAndHostFrame := fun _ _ _ _ h => exec_frame_bytes h

/-- Settles O10: the frames of the rows. -/
theorem memoryNearBankAndCacheFrame : Obligations.MemoryNearBankAndCacheFrame := fun _ _ _ _ h => exec_frame_bytes h

/-- Settles O11: the frames of the rows. -/
theorem graphBerthAndTableFrame : Obligations.GraphBerthAndTableFrame := fun _ _ _ _ h => exec_frame_bytes h

/-- Settles O12: the frames of the rows. -/
theorem strandAndFlashFrame : Obligations.StrandAndFlashFrame := fun _ _ _ _ h => exec_frame_bytes h

/-- Settles O13: the frames of the rows. -/
theorem resetFaultAndPowerFrame : Obligations.ResetFaultAndPowerFrame := fun _ _ _ _ h => exec_frame_bytes h

/-- Settles O1: the queue decides which of the two arms of `step` runs. -/
theorem stepRunsTheFrontCommand : Obligations.StepRunsTheFrontCommand := by
  refine ⟨fun c rest s hfront => ?front, fun s hempty => ?idle⟩
  case front => rw [step, hfront]
  case idle => rw [step, hempty]

end Sys2Proof.Machine

/-!
Caches and home slices (12_coherence.md): evictions, acknowledgements, firmware operations on ranges, host copies and the host's answers to
back-invalidations (R401, R405, R410, R416 to R418, R527).
-/
namespace Sys2Proof.Machine

open Sys2Proof

/-! ### Evictions (R401, R405) -/

/-- A core's dirty copy makes its line one that some L1 holds dirty. -/
theorem Coh.holder_of_dirty {u : CohUnit} {core line : Nat} {x : L1Line} (h : Coh.l1 u core line = some x) (hdirty : x.st = .m ∨ x.st = .o) :
    (Coh.holder u line true).isSome = true := by
  obtain ⟨hmem, -, hline⟩ := Coh.l1_some h
  refine List.find?_isSome.mpr ⟨x, hmem, ?_⟩
  simpa [hline] using hdirty

/-- R405: a dirty line that LostLines has room for is lost, and cached nowhere. -/
theorem loseLine_loses {s : State} {line : Nat} (hdirty : (Coh.holder s.coh line true).isSome = true) (hroom : s.coh.lost.length < 4096) :
    line * 64 ∈ (loseLine s line).coh.lost ∧ (∀ y ∈ (loseLine s line).coh.l1, y.line ≠ line) ∧
      (∀ y ∈ (loseLine s line).coh.slice, y.line ≠ line) ∧ (loseLine s line).mem = s.mem := by
  by_cases hlost : line * 64 ∈ s.coh.lost <;> simp [loseLine, hdirty, hroom, hlost, Coh.dropLine]

theorem execWriteback_leaves {core line : Nat} {x : L1Line} {s : State} (hup : s.up 7 = true) (hx : Coh.l1 s.coh core line = some x)
    (hdirty : x.st = .m ∨ x.st = .o) (lost : Bool) :
    execWriteback core line lost s = .next (if lost then loseLine s line else Coh.leaveL1 s x) := by
  have hst : (x.st == .m || x.st == .o) = true := by simpa using hdirty
  cases lost <;> simp [execWriteback, hx, hup, hst]

theorem Coh.leaveL1_dirty {s : State} {x : L1Line} (hdirty : x.st = .m ∨ x.st = .o) :
    Coh.leaveL1 s x = Coh.dropCopy (Coh.fill s ⟨x.line, x.data, true, x.tag⟩) x.core x.line := by
  have hst : x.st ≠ .s := by obtain h | h := hdirty <;> simp [h]
  simp [Coh.leaveL1, hst, hdirty]

theorem Coh.leaveL1_clean {s : State} {x : L1Line} (hclean : x.st = .e ∨ x.st = .f) : Coh.leaveL1 s x = Coh.dropCopy s x.core x.line := by
  obtain h | h := hclean <;> simp [Coh.leaveL1, h]

/-! ### Fences (R417) -/

theorem Coh.settleLines_idle {s : State} (hidle : s.coh.busy = []) (p : Nat → Bool) : Coh.settleLines s p = s := by
  simp [Coh.settleLines, hidle]

/-! ### The host's copies and answers (R410, R416, R527) -/

/-- What is left at the host of a line that it snoops for (log entry 34). -/
theorem execHostSnoop_held {line : Nat} {x : Nat × Nat × Bytes} {s : State} (n : Snoop) (hlink : s.host.linkUp = true)
    (hx : (s.coh.hostLines.find? fun x => x.1 == line) = some x) :
    ∃ t, execHostSnoop line n s = .next t ∧ t.out = s.out ++ [.snoop line true (if x.2.1 = 2 then x.2.2 else [])] ∧ t.coh.l1 = s.coh.l1 ∧
      t.coh.hostLines = match n with
        | .inv => s.coh.hostLines.filter (fun y => y.1 != line)
        | .data => s.coh.hostLines.filter (fun y => y.1 != line) ++ [(line, 0, x.2.2)]
        | .cur => s.coh.hostLines := by
  cases n <;> simp [execHostSnoop, hlink, hx]

/-- The host has answered the back-invalidation `b`, and the next one goes out: what then goes on is what `b` was sent for. -/
theorem execBisnpResponse_answered {line : Nat} {b : BackInv} {s : State} (hlink : s.host.linkUp = true)
    (hb : ((s.host.bisnp.take 64).find? fun b => b.line == line) = some b) :
    execBisnpResponse line s = .next (match b.grants with
      | some n => Coh.acknowledge (sendZeroing (bisnpEnded s b)) Coh.hostAgent n
      | none => if b.zeroing then (if zeroing (sendZeroing (bisnpEnded s b)) then sendZeroing (bisnpEnded s b)
            else serveHeld (sendZeroing (bisnpEnded s b)))
          else sendLate (hdmStore (sendZeroing (bisnpEnded s b)) (line * 64 + b.off) b.data)) := by
  rw [execBisnpResponse, hb]
  exact if_neg (by rw [hlink]; decide)

/-- Settles O34: each row takes the branch that its hypotheses leave. -/
theorem cacheEventsComplete : Obligations.CacheEventsComplete := by
  refine ⟨?dirty, ?lost, ?clean, ?acknowledged, ?writtenBack, ?invalidated, ?fence, ?idleFence, ?snooped, ?snoopMissed, ?stored, ?granted,
    ?zeroed⟩
  case dirty =>
    intro k l x s hup hx hdirty
    rw [exec_writeback, execWriteback_leaves hup hx hdirty, if_neg Bool.false_ne_true, Coh.leaveL1_dirty hdirty]
  case lost =>
    intro k l x s hup hx hdirty hroom
    refine ⟨loseLine s l, ?_, ?_⟩
    · rw [exec_writeback, execWriteback_leaves hup hx hdirty, if_pos rfl]
    · exact loseLine_loses (Coh.holder_of_dirty hx hdirty) hroom
  case clean =>
    intro k l x s hup hx hclean
    have hst : (x.st == .e || x.st == .f) = true := by simpa using hclean
    simp [execEvictionNotice, hx, hup, hst, Coh.leaveL1_clean hclean]
  case acknowledged =>
    intro k l s hup
    exact if_pos hup
  case writtenBack =>
    intro a n s hrange hup
    simp [execFirmwareWriteback, hrange, hup]
  case invalidated =>
    intro a n s hrange hup
    simp [execFirmwareInvalidate, hrange, hup]
  case fence => exact fun s => rfl
  case idleFence =>
    intro s hidle
    rw [exec_firmwareFence, execFirmwareFence, Coh.settleLines_idle hidle]
  case snooped =>
    intro l x n s hlink hx
    exact execHostSnoop_held n hlink hx
  case snoopMissed =>
    intro l n s hlink hx
    simp [execHostSnoop, hlink, hx]
  case stored =>
    rintro l b _ s hlink hb hgrants hzeroing rfl
    rw [exec_bisnpResponse, execBisnpResponse_answered hlink hb, hgrants, hzeroing]
    rfl
  case granted =>
    rintro l n b _ s hlink hb hgrants rfl
    rw [exec_bisnpResponse, execBisnpResponse_answered hlink hb, hgrants]
  case zeroed =>
    rintro l b _ s hlink hb hgrants hzeroing rfl
    rw [exec_bisnpResponse, execBisnpResponse_answered hlink hb, hgrants, hzeroing]
    rfl

end Sys2Proof.Machine

/-!
Strand ports (13_strand_fabric.md): training, control blocks, lanes, egress and histograms (R422 to R431, R462, R465).
-/
namespace Sys2Proof.Machine

open Sys2Proof

/-! ### Training (R422, R425, R426, R428) -/

/-- R426: a Hello block of the neighbour is judged on the port that has noted the neighbour. -/
theorem execHello_judged {p : Nat} {b : Bytes} {s : State} (hst : (portIn s p .hello || portIn s p .miswired) = true)
    (hblock : blockOk 5 b = true) :
    execHello p b s =
      let u := mapPort s p fun x => { x with neighbour := field b 2 3 % 2 ^ 20 }
      .next (if helloPasses u p b then mapPort u p fun x => { x with
          state := .up, faults := x.faults &&& 2, credits := List.replicate 48 128, txSeq := 0, rxSeq := 0, retry := [] }
        else mapPort u p fun x => { x with
          state := .miswired, faults := x.faults ||| 1, helloTide := if x.state = .miswired then x.helloTide else u.now }) := by
  simp only [execHello, hst, hblock, Bool.not_true, Bool.or_false, Bool.false_eq_true, if_false]
  split <;> rfl

/-- Settles O16: in the state that an event belongs to, its guard holds. -/
theorem portTrainingCompletes : Obligations.PortTrainingCompletes := by
  refine ⟨?signal, ?equalised, ?aligned, ?passes, ?fails, ?timeout, ?retried, ?repeated⟩
  case signal =>
    intro p s hst
    exact if_pos hst
  case equalised =>
    intro p s hst
    exact if_pos hst
  case aligned =>
    rintro p l r q _ s hst rfl huse
    rw [exec_alignDone, execAlignDone, if_neg (by rw [hst]; decide)]
    exact if_neg (mt List.isEmpty_iff.mp huse)
  case passes =>
    rintro p b _ s hst hblock rfl hpass
    rw [exec_hello, execHello_judged hst hblock]
    exact congrArg _ (if_pos hpass)
  case fails =>
    rintro p b _ s hst hblock rfl hfail
    rw [exec_hello, execHello_judged hst hblock]
    exact congrArg _ (if_neg (Bool.eq_false_iff.mp hfail))
  case timeout =>
    intro p s hst
    exact if_pos hst
  case retried =>
    intro p s hst
    exact if_pos hst
  case repeated =>
    intro p s hst hdue
    simp [execMiswiredHelloRepeat, hst, hdue]

/-! ### Histograms (R465) -/

theorem modifyAt_eq_modify {α : Type} (l : List α) (i : Nat) (f : α → α) : modifyAt l i f = l.modify i f := by
  rw [List.modify_eq_set_getElem?]
  unfold modifyAt
  cases l[i]? <;> rfl

/-- A port whose histograms begin anew. -/
def clearHist (x : Port) : Port := { x with depthHist := List.replicate 256 0, delayHist := List.replicate 256 0 }

theorem clearHist_clearHist (x : Port) : clearHist (clearHist x) = clearHist x := rfl

/-- R465: the end of a period publishes the histograms of a port, and begins them anew. -/
def publishHist (s : State) (p : Nat) : State :=
  mapPort ((s.setVal (Ent.egressDepthHistogram p) (.b ((s.port p).depthHist.flatMap (leBytes 4)))).setVal (Ent.egressDelayHistogram p)
    (.b ((s.port p).delayHist.flatMap (leBytes 4)))) p clearHist

theorem execHistogramPeriod_publishes {s : State} (hup : s.up 4 = true) (hperiod : s.cfg Ent.histPeriod ≠ 0)
    (hdue : s.now % s.cfg Ent.histPeriod = 0) : execHistogramPeriod s = .next ((List.range 6).foldl publishHist s) := by
  have hguard : (!s.up 4 || s.cfg Ent.histPeriod == 0 || s.now % s.cfg Ent.histPeriod != 0) = false := by simp [hup, hperiod, hdue]
  rw [execHistogramPeriod]
  exact if_neg (Bool.eq_false_iff.mp hguard)

theorem publishHist_ports (s : State) (p : Nat) : (publishHist s p).strand.ports = s.strand.ports.modify p clearHist :=
  modifyAt_eq_modify _ _ _

theorem length_ports_publishHist (l : List Nat) (s : State) : (l.foldl publishHist s).strand.ports.length = s.strand.ports.length := by
  induction l generalizing s with
  | nil => rfl
  | cons p l ih => rw [List.foldl_cons, ih, publishHist_ports, List.length_modify]

/-- The ports of the list, and no others, have begun anew. -/
theorem ports_foldl_publishHist (l : List Nat) (s : State) (q : Nat) :
    (l.foldl publishHist s).strand.ports[q]? = (s.strand.ports[q]?).map fun x => if q ∈ l then clearHist x else x := by
  induction l generalizing s with
  | nil => simp
  | cons p l ih =>
    rw [List.foldl_cons, ih, publishHist_ports, List.getElem?_modify, Option.map_eq_map, Option.map_map]
    congr 1
    funext x
    by_cases hp : p = q
    · simp [hp, clearHist_clearHist]
    · simp [hp, Ne.symm hp]

/-- Settles O17: the port is Up, so each block and event takes its effect; the histograms by the lemmas above. -/
theorem portTrafficCompletes : Obligations.PortTrafficCompletes := by
  refine ⟨?lanemap, ?switched, ?credited, ?acked, ?naked, ?selected, ?published⟩
  case lanemap =>
    intro p b s hst hblock
    simp [execLanemap, hst, hblock]
  case switched =>
    intro p w s hruns hswitch
    simp [execLaneSwitch, hruns, hswitch]
  case credited =>
    intro p b s hst hblock hvc
    simp [execCredit, hst, hblock, hvc]
  case acked =>
    intro p b s hst hblock
    simp [execAck, hst, hblock]
  case naked =>
    rintro p b _ s hst hblock rfl
    simp [execNak, hst, hblock]
  case selected =>
    intro p q ds s hst hchosen
    simp [execEgressSelect, hst, hchosen]
  case published =>
    intro s hup hperiod hdue
    refine ⟨_, execHistogramPeriod_publishes hup hperiod hdue, length_ports_publishHist _ s, fun p hp hlength => ?_⟩
    have hport : ((List.range 6).foldl publishHist s).port p = clearHist (s.port p) := by
      simp [State.port, List.getD_eq_getElem?_getD, ports_foldl_publishHist, hp, List.getElem?_eq_getElem hlength]
    rw [hport]
    exact ⟨rfl, rfl⟩

end Sys2Proof.Machine

/-!
Strand requests, responses and timers (13_strand_fabric.md R430, R446 to R460).
-/
namespace Sys2Proof.Machine

open Sys2Proof

/-! ### Requests (R447 to R458) -/

section
variable {kind : Nat} {f : Frame} {s : State} (hruns : strandRuns s = true) (hkind : f.kind = kind)
include hruns hkind

/-- A request frame of the row's kind for this node is served. -/
theorem onRequest_serves (go : State → Frame → State) (hdest : f.dest = s.strand.nodeId) : onRequest kind f s go = .next (go s f) := by
  simp [onRequest, hruns, hkind, hdest]

/-- One that an agent of this node makes for another node is sent there. -/
theorem onRequest_originates (go : State → Frame → State) (hdest : f.dest ≠ s.strand.nodeId) (hsrc : f.src = s.strand.nodeId) :
    onRequest kind f s go = .next (originateRequest s f) := by
  simp [onRequest, hruns, hkind, hdest, hsrc]

end

/-- R430: a frame that the link checks accept goes on, or is taken. -/
theorem execFrameReceived_accepted {p l h g : Nat} {f : Frame} {b : Bool} {s u : State} (hst : portIn s p .up = true)
    (haccepted : linkReceive s p l f h g b = (true, u)) :
    execFrameReceived p l f h g b s =
      .next (if f.dest ≠ s.strand.nodeId then forwardFrame u p f else takeFrame (returnCredits u f (some ⟨p, f.cls, f.vc⟩)) f) := by
  simp only [execFrameReceived, hst, haccepted, Bool.not_true, Bool.false_eq_true, if_false]
  split <;> rfl

/-- Settles O18: each row serves the kind that it carries, and a link frame goes where its destination says. -/
theorem strandRequestsAreServed : Obligations.StrandRequestsAreServed := by
  refine ⟨fun f s hr hk hd => onRequest_serves hr hk _ hd, fun f s hr hk hd => onRequest_serves hr hk _ hd,
    fun f s hr hk hd => onRequest_serves hr hk _ hd, fun f s hr hk hd => onRequest_serves hr hk _ hd,
    fun f s hr hk hd => onRequest_serves hr hk _ hd, fun f s hr hk hd => onRequest_serves hr hk _ hd,
    fun f s hr hk hd => onRequest_serves hr hk _ hd, ?segment, ?originated, ?taken, ?forwarded, ?expired⟩
  case segment =>
    intro f s hruns hkind
    simp [execMessageSegment, hruns, hkind]
  case originated =>
    intro c f s hruns hdest hsrc hrow
    simp only [List.mem_cons, Prod.mk.injEq, List.not_mem_nil, or_false] at hrow
    obtain ⟨rfl, hk⟩ | ⟨rfl, hk⟩ | ⟨rfl, hk⟩ | ⟨rfl, hk⟩ | ⟨rfl, hk⟩ | ⟨rfl, hk⟩ := hrow
    all_goals exact onRequest_originates hruns hk _ hdest hsrc
  case taken =>
    intro p l f h g b u s hst haccepted hdest
    rw [exec_frameReceived, execFrameReceived_accepted hst haccepted, if_neg (not_not.mpr hdest)]
  case forwarded =>
    intro p l f h g b u s hst haccepted hdest
    rw [exec_frameReceived, execFrameReceived_accepted hst haccepted, if_pos hdest]
  case expired =>
    intro a i m s hruns hfound hdue
    have hnow : (dropIn s m).now = s.now := rfl
    simp [execMessageReassemblyTimeout, hfound, hruns, hdue, messageTimeout, hnow]

/-! ### Responses (R446, R451 to R455, R460) -/

/-- A response of the row's kind to an outstanding request reaches the request. -/
theorem onResponse_ends {kind : Nat} {f : Frame} {r : Request} {s : State} (hruns : strandRuns s = true) (hkind : f.kind = kind + 0x80)
    (hreq : requestOf s f = some r) (go : State → Request → State) : onResponse kind f s go = .next (go s r) := by
  simp [onResponse, hruns, hkind, hreq]

/-- R455: a READ of an agent ends with its line, which the node keeps where it may. -/
theorem readEnds_line {s : State} {r : Request} (hpurpose : r.purpose = .line ∨ r.purpose = .none) (status retry : Nat) (data : Bytes) :
    readEnds s r status retry data = endRequest (if status = St.ok then installLine s r (if status = St.ok then padTo 64 data else []) else s) r
      status (if status = St.ok then padTo 64 data else []) retry := by
  obtain h | h := hpurpose <;> simp [readEnds, h]

/-- A READ of a row of a table ends at the table. -/
theorem readEnds_row {s : State} {r : Request}
    (hpurpose : (∃ a b c d, r.purpose = .entry a b c d) ∨ ∃ a b c d e, r.purpose = .granule a b c d e) (status retry : Nat) (data : Bytes) :
    readEnds s r status retry data = Table.rowCame (dropRequest s r) r.purpose status (if status = St.ok then padTo 64 data else []) := by
  obtain ⟨a, b, c, d, h⟩ | ⟨a, b, c, d, e, h⟩ := hpurpose <;> simp [readEnds, h]

/-- Settles O19: the response finds its request, whose end is that of its kind. -/
theorem strandResponsesEndTheirRequests : Obligations.StrandResponsesEndTheirRequests := by
  refine ⟨?readOk, ?readRefused, ?row, ?write, ?atomic, ?register, ?publish, ?invalidate, ?message⟩
  case readOk =>
    intro f r s hruns hkind hreq hok hpurpose
    rw [exec_readResponse, execReadResponse, onResponse_ends hruns hkind hreq, readEnds_line hpurpose]
    simp only [hok, if_true]
  case readRefused =>
    intro f r s hruns hkind hreq hrefused hpurpose
    rw [exec_readResponse, execReadResponse, onResponse_ends hruns hkind hreq, readEnds_line hpurpose]
    simp only [hrefused, if_false]
  case row =>
    intro f r s hruns hkind hreq hpurpose
    rw [exec_readResponse, execReadResponse, onResponse_ends hruns hkind hreq, readEnds_row hpurpose]
  case write =>
    intro f r s hruns hkind hreq
    rw [exec_writeResponse, execWriteResponse, onResponse_ends hruns hkind hreq]
  case atomic =>
    intro f r s hruns hkind hreq
    rw [exec_atomicResponse, execAtomicResponse, onResponse_ends hruns hkind hreq]
  case register =>
    rintro f r _ s hruns hkind hreq hok rfl
    rw [exec_registerResponse, execRegisterResponse, onResponse_ends hruns hkind hreq, registerEnds, hok]
    exact congrArg _ (if_pos rfl)
  case publish =>
    intro f r s hruns hkind hreq
    rw [exec_publishResponse, execPublishResponse, onResponse_ends hruns hkind hreq]
  case invalidate =>
    intro f s hruns hkind hok
    simp [execInvalidateResponse, hruns, hkind, hok]
  case message =>
    intro f m s hruns hkind hout
    simp [execMessageResponse, hruns, hkind, hout]

/-! ### Timers (R451, R456, R459, R460) -/

/-- Settles O20: the Tide of each timer has come, and nothing holds its request. -/
theorem strandTimersActAtTheirTides : Obligations.StrandTimersActAtTheirTides := by
  refine ⟨?readResent, ?givenUp, ?atomicResent, ?atomicGivenUp, ?invalidateResent, ?publishGivenUp, ?replayExpired⟩
  case readResent =>
    intro n r s hfound hruns hfree hopen hdue
    simp [execReadResend, hfound, hruns, hfree, hopen, hdue]
  case givenUp =>
    intro n r s hfound hruns hfree hdue
    have hlate : ¬ s.now < r.issue + 48 := by omega
    simp only [exec_strandGiveUp, execStrandGiveUp, hfound]
    simp [hruns, hfree, hlate, apply_ite Host.Outcome.next]
  case atomicResent =>
    intro n r s hfound hruns hopen hfree hearly hdue
    simp [execAtomicResend, hfound, hruns, hfree, hopen, hearly, hdue]
  case atomicGivenUp =>
    intro n r s hfound hruns hfree hdue
    simp [execAtomicGiveUp, hfound, hruns, hfree, hdue]
  case invalidateResent =>
    intro n a t p s hfound hreader hruns hdue
    simp [execInvalidateResend, hfound, hreader, hruns, hdue]
  case publishGivenUp =>
    intro n r s hfound hruns hfree hdue
    simp [execPublishGiveUp, hfound, hruns, hfree, hdue]
  case replayExpired =>
    intro s hup
    refine ⟨_, if_pos hup, fun r => ?_, rfl, rfl⟩
    simp

end Sys2Proof.Machine

/-!
The Catalogue Access Protocol (16_catalogue.md): writes outside a range, the write lock, expiries, and what the mailbox answers (R511, R531,
R557 to R562, R588).
-/
namespace Sys2Proof.Machine

open Sys2Proof

/-! ### Refusals of a write (R12, R544) -/

/-- R12: the status that a write is refused with is at least that of each refusal. -/
theorem exists_worstRefusal_of_mem {x : Refuse} {l : List Refuse} (h : x ∈ l) : ∃ r, worstRefusal l = some r ∧ x.1 ≤ r.1 := by
  induction l with
  | nil => cases h
  | cons y l ih =>
    rw [worstRefusal]
    obtain rfl | hl := List.mem_cons.mp h
    · cases worstRefusal l with
      | none => exact ⟨x, rfl, le_rfl⟩
      | some z =>
        by_cases hz : x.1 < z.1
        · exact ⟨z, if_pos hz, hz.le⟩
        · exact ⟨x, if_neg hz, le_rfl⟩
    · obtain ⟨z, hz, hxz⟩ := ih hl
      rw [hz]
      by_cases hy : y.1 < z.1
      · exact ⟨z, if_pos hy, hxz⟩
      · exact ⟨y, if_neg hy, hxz.trans (Nat.le_of_not_lt hy)⟩

theorem mem_of_worstRefusal {r : Refuse} {l : List Refuse} (h : worstRefusal l = some r) : r ∈ l := by
  induction l generalizing r with
  | nil => cases h
  | cons y l ih =>
    rw [worstRefusal] at h
    split at h
    · cases h
      exact List.mem_cons_self
    · next z hz =>
      split at h
      · cases h
        exact List.mem_cons_of_mem y (ih hz)
      · cases h
        exact List.mem_cons_self

theorem fst_of_mem_badIf {x : Refuse} {b : Bool} (h : x ∈ badIf b) : x.1 = St.badJob := by
  cases b
  · cases h
  · rw [List.mem_singleton.mp h]

/-- A write to an entry that cannot be written is refused, whatever else refuses it. -/
theorem writeEntry_readOnly_refuses (s : State) (e : Entry) (b c : Bool) :
    ∃ st n, writeEntry.readOnly s (badIf b ++ badIf c ++ notReady s e) = (st, n, s) ∧ st ≠ St.ok := by
  refine ⟨_, _, rfl, ?_⟩
  cases h : worstRefusal (badIf b ++ badIf c ++ notReady s e) with
  | none => decide
  | some r =>
    have hr := mem_of_worstRefusal h
    simp only [List.mem_append] at hr
    obtain (hb | hc) | hn := hr
    · exact ne_of_eq_of_ne (fst_of_mem_badIf hb) (by decide)
    · exact ne_of_eq_of_ne (fst_of_mem_badIf hc) (by decide)
    · unfold notReady at hn
      split at hn
      · rw [List.mem_singleton.mp hn]
        simp
      · cases hn

/-- R511: a value outside the range of its entry is among what refuses the write. -/
theorem badJob_mem_valueRefusals {s : State} {e : Entry} {k apply : Nat} {b : Bytes} {v : Val} (htyped : typedVal e k b = some v)
    (hrange : inRange s e v = false) : (St.badJob, 0) ∈ valueRefusals s e k b apply := by
  simp [valueRefusals, htyped, hrange, badIf]

/-- Settles O48: of an entry that may be written, the range refuses the value; of another, the access does. -/
theorem outOfRangeWritesAreRefused : Obligations.OutOfRangeWritesAreRefused := by
  intro s p i sub tc apply b e v hentry hacc htyped hrange
  obtain ⟨r, hr, hworst⟩ : ∃ r, worstRefusal (badIf (tc != e.typ.code) ++ valueRefusals s e (i * 256 + sub) b apply) = some r ∧
      St.badJob ≤ r.1 :=
    exists_worstRefusal_of_mem (List.mem_append_right _ (badJob_mem_valueRefusals htyped hrange))
  have hrefused : r.1 ≠ St.ok := Nat.ne_of_gt (lt_of_lt_of_le (by decide) hworst)
  cases h : e.acc <;> simp only [writeEntry, hentry, h, hr]
  case const => exact writeEntry_readOnly_refuses s e _ _
  case ro => exact writeEntry_readOnly_refuses s e _ _
  case wo => exact absurd h hacc
  case rw => exact ⟨_, _, rfl, hrefused⟩
  case tw => exact ⟨_, _, rfl, hrefused⟩

/-! ### The write lock (R560 to R562) -/

/-- R561: a release touches the Catalogue only where it ends the transfer of an image. -/
theorem releaseLock_cat (s : State) :
    (releaseLock s).cat = s.cat ∨ (releaseLock s).cat = (s.setNum Ent.firmwareUpdateState 0).cat := by
  unfold releaseLock
  split
  · exact .inl rfl
  · dsimp only
    split
    · split
      · exact .inl rfl
      · exact .inr rfl
    · exact .inl rfl

theorem releaseLock_num (s : State) {k : Nat} (hk : k ≠ Ent.firmwareUpdateState) : (releaseLock s).num k = s.num k := by
  rw [State.num, State.num]
  obtain h | h := releaseLock_cat s
  · rw [h]
  · rw [h]
    exact (State.num_setNum s _ _ _).trans (if_neg hk)

theorem releaseLock_cfg (s : State) {k : Nat} (hk : k ≠ Ent.firmwareUpdateState) : (releaseLock s).cfg k = s.cfg k := by
  rw [State.cfg, State.cfg]
  obtain h | h := releaseLock_cat s
  · rw [h]
  · rw [h]
    exact State.cfg_setNum_of_ne s 0 hk

/-- R561: of the sessions of the lock's holder, none has a staged segment left. -/
theorem releaseLock_unstages {s : State} {w : Who} {id e : Nat} (hlock : s.cap.lock = some (w, id, e)) :
    ∀ x ∈ (releaseLock s).cap.sessions, x.who = w → x.id = id → x.staged = none := by
  have hsessions : (releaseLock s).cap.sessions = (dropStaged { s with cap := { s.cap with lock := none } } w id).cap.sessions := by
    simp only [releaseLock, hlock]
    split
    · split <;> rfl
    · rfl
  rw [hsessions]
  intro x hx hwho hid
  obtain ⟨y, -, rfl⟩ := List.mem_map.mp hx
  split at hwho
  · next h => rw [if_pos h]
  · next h =>
    rw [if_neg h] at hid
    exact absurd (by simp [hwho, hid]) h

/-- R562: on the Strand mirror, Force breaks a lock that another session holds. -/
theorem capLock_breaks {s : State} {r : CapReq} {w : Who} {id e : Nat} (hforce : r.forceFlag = true) (hstrand : r.onStrand = true)
    (hlock : s.cap.lock = some (w, id, e)) (hother : holdsLock s r.who r.sid = false) :
    capLock s r = (.plain St.ok 0, let t := (releaseLock s).bump Ent.lockForceBreaks
      { t with cap := { t.cap with lock := some (r.who, r.sid, t.now + t.cfg Ent.lockLeaseTides) } }) := by
  have hpath : r.onField = false := by
    unfold CapReq.onStrand at hstrand
    unfold CapReq.onField
    split at hstrand
    · next h => rw [h]
    · cases hstrand
  simp [capLock, fieldBarred, hforce, hstrand, hlock, hother, hpath, worstRefusal]

/-- R562: on every other path, Force is refused. -/
theorem capLock_bars {s : State} {r : CapReq} (hforce : r.forceFlag = true) (hstrand : r.onStrand = false) :
    ∃ st n, capLock s r = (.plain st n, s) ∧ st ≠ St.ok ∧ (s.cap.lock = none → st = St.accessDenied) := by
  cases hlock : s.cap.lock with
  | none => exact ⟨St.accessDenied, 0, by simp [capLock, hforce, hstrand, hlock, worstRefusal], by decide, fun _ => rfl⟩
  | some x =>
    cases hmine : holdsLock s r.who r.sid with
    | true => exact ⟨St.accessDenied, 0, by simp [capLock, hforce, hstrand, hlock, hmine, worstRefusal], by decide, fun h => nomatch h⟩
    | false =>
      exact ⟨St.retry, x.2.2, by simp [capLock, hforce, hstrand, hlock, hmine, worstRefusal, St.accessDenied, St.retry], by decide,
        fun h => nomatch h⟩

/-- Settles O49: what the break leaves is what the release of the lock leaves. -/
theorem forceBreaksTheLock : Obligations.ForceBreaksTheLock := by
  intro s r hforce
  refine ⟨fun w id e hstrand hlock hother => ?_, fun hstrand => capLock_bars hforce hstrand⟩
  refine ⟨_, capLock_breaks hforce hstrand hlock hother, ?lease, ?counted, releaseLock_unstages hlock⟩
  case lease =>
    have hcfg : ((releaseLock s).bump Ent.lockForceBreaks).cfg Ent.lockLeaseTides = s.cfg Ent.lockLeaseTides := by
      rw [State.bump, State.cfg_setNum_of_ne _ _ (by decide), releaseLock_cfg s (by decide)]
    have hnow : ((releaseLock s).bump Ent.lockForceBreaks).now = s.now := by
      simp [State.now, releaseLock_frame ..]
    simp only [hcfg, hnow]
  case counted =>
    refine (State.num_bump _ _ _ _).trans ?_
    rw [if_pos rfl, releaseLock_num s (by decide)]

/-! ### Expiries and signed commands (R559, R561, R588) -/

theorem expireLock_releases {s : State} {w : Who} {i e : Nat} (hlock : s.cap.lock = some (w, i, e)) (hdue : e ≤ s.now) :
    expireLock s = releaseLock s := by
  simp [expireLock, hlock, hdue]

/-- R559: a session that went 256 Tides without a request has no snapshot left. -/
theorem expireSnapshots_drops {s : State} {x : Session} (hx : x ∈ (expireSnapshots s).cap.sessions) (hidle : x.lastTide + 256 ≤ s.now) :
    x.snapshot = none := by
  obtain ⟨y, -, rfl⟩ := List.mem_map.mp hx
  split at hidle
  · next h => rw [if_pos h]
  · next h => exact absurd hidle h

/-- Settles O26: the Catalogue answers, so each event has its effect. -/
theorem capEventsComplete : Obligations.CapEventsComplete := by
  refine ⟨?lock, ?snapshot, ?signed⟩
  case lock =>
    intro w i e s hup hlock hdue
    rw [exec_lockExpiry, execLockExpiry, if_pos hup, expireLock_releases hlock hdue]
  case snapshot =>
    intro s hup
    refine ⟨expireSnapshots s, congrArg _ (if_pos hup), List.length_map _, fun x hx hidle => expireSnapshots_drops hx hidle, rfl⟩
  case signed =>
    intro s hmgmt
    exact congrArg _ (if_pos hmgmt)

end Sys2Proof.Machine

/-!
CAP requests over the mailbox (R530, R531): the response leaves as the output of the mailbox command that carries the request, so that a state
in which no such command is under way sends none.
-/
namespace Sys2Proof.Machine

open Sys2Proof

/-- R530: without a mailbox command under way there is no output to give; a response to anything but a WRITE waits for nothing. -/
theorem sendCap_idle_mailbox {s : State} {r : CapReq} (p : CapResp) (hpath : r.path = .mailbox) (hop : r.op ≠ Cap.write)
    (hidle : s.host.mailBusy = false) : sendCap s r p = s := by
  have howes : owes s r p = none := if_neg fun h => hop h.1
  simp [sendCap, answerCap, howes, capOut, hpath, mailOut, hidle]

/-- A request of the mailbox for the entry 0x1000.`sub`. -/
def mailRequest (op sub : Nat) : CapReq := ⟨.mailbox, 1, op, 0, 0, 7, 0x1000, sub, 0, 0, 0, 0, 0, []⟩

/-- A node in service that has met the mailbox's session before, with no mailbox command under way. -/
def mailState : State :=
  { State.reset with
    rst := { State.reset.rst with asserted := none, released := [1, 2, 3, 4, 5, 6, 7, 8, 9], pause := .none }
    host := { State.reset.host with linkUp := true }
    cap := { State.reset.cap with sessions := [⟨.mailbox, 0, none, none, 0, 0, none, none, none⟩] } }

/-- The outputs that a command leaves behind. -/
def outputsOf : Result → Nat
  | .next t => t.out.length
  | _ => 0

/-- Refutes O24: LOCK over the mailbox of a node in service. The command gives the mailbox an output; the statement's state, on which no
mailbox command is under way, gives none. -/
theorem not_capCommandsComplete : ¬ Obligations.CapCommandsComplete := by
  unfold Obligations.CapCommandsComplete
  intro h
  have hready : CapReady mailState (mailRequest Cap.lock 0) :=
    ⟨by decide +kernel, by decide +kernel, by decide +kernel, by decide +kernel, by decide +kernel, _, rfl, by decide +kernel⟩
  have hexec := h (mailRequest Cap.lock 0) mailState (.lock (mailRequest Cap.lock 0)) .lock _ _ (by decide) rfl hready rfl rfl
  rw [sendCap_idle_mailbox _ rfl (by decide) (by decide +kernel)] at hexec
  exact absurd (congrArg outputsOf hexec) (by decide +kernel)

/-- Refutes O25: DESCRIBE of an entry that is not in the Catalogue, over the same mailbox. -/
theorem not_capRefusalsAreAnswered : ¬ Obligations.CapRefusalsAreAnswered := by
  unfold Obligations.CapRefusalsAreAnswered
  intro h
  have hready : CapReady mailState (mailRequest Cap.describe 255) :=
    ⟨by decide +kernel, by decide +kernel, by decide +kernel, by decide +kernel, by decide +kernel, _, rfl, by decide +kernel⟩
  obtain ⟨p, -, -, -, -, -, hexec⟩ := h (mailRequest Cap.describe 255) mailState (.describe (mailRequest Cap.describe 255)) .describe _ _
    (by decide) rfl hready rfl (by decide +kernel)
  rw [sendCap_idle_mailbox _ rfl (by decide) (by simp only [State.bump_frame .., keepResponse_frame ..]; decide +kernel)] at hexec
  have hout : outputsOf (exec (.describe (mailRequest Cap.describe 255)) mailState) = 0 := by
    rw [hexec]
    simp only [outputsOf, State.bump_frame .., keepResponse_frame ..]
    decide +kernel
  exact absurd hout (by decide +kernel)

end Sys2Proof.Machine

/-!
The host interface (15_host_interface.md): BAR0 writes, queue pairs and drains, the link, the mailbox, DOE and image transfers (R513 to R537,
R612, R613, R657).
-/
namespace Sys2Proof.Machine

open Sys2Proof

/-! ### BAR0 (R515) -/

/-- R515: an aligned 4-byte write of a decoded BAR0 reaches its register. -/
theorem barWrite_word {s : State} {off v : Nat} (hbar : barRuns s = true) (halign : off % 4 = 0) (hoff : off < 2 ^ 20) (hv : v < 2 ^ 32) :
    barWrite s off 4 v = barWord s off v := by
  rw [barWrite, hbar, if_neg (by decide), if_pos ⟨rfl, halign, hoff⟩, Nat.mod_eq_of_lt hv]

/-- R517: the enable word of a pair's block. -/
theorem barWord_qenable (s : State) {q : Nat} (v : Nat) (hq : q < 64) : barWord s (0x21014 + 64 * q) v = writeQenable s q v := by
  have hpair : (0x21014 + 64 * q - 0x21000) / 64 = q := by omega
  have hword : (0x21014 + 64 * q) % 64 = 0x14 := by omega
  rw [barWord, if_neg (by omega), if_neg (by omega), if_neg (by omega), if_pos (by omega), hpair, hword]
  rfl

/-- R518: the doorbells of a pair. -/
theorem barWord_sqTail (s : State) {q : Nat} (v : Nat) (hq : q < 64) : barWord s (0x30000 + 8 * q) v = ringSq s q v := by
  have hpair : (0x30000 + 8 * q - 0x30000) / 8 = q := by omega
  rw [barWord, if_neg (by omega), if_neg (by omega), if_neg (by omega), if_neg (by omega), if_pos (by omega), if_pos (by omega), hpair]

theorem barWord_cqHead (s : State) {q : Nat} (v : Nat) (hq : q < 64) : barWord s (0x30004 + 8 * q) v = ringCq s q v := by
  have hpair : (0x30004 + 8 * q - 0x30000) / 8 = q := by omega
  rw [barWord, if_neg (by omega), if_neg (by omega), if_neg (by omega), if_neg (by omega), if_pos (by omega), if_neg (by omega), hpair]

/-- R525: the control word of a vector, without its mask bit. -/
theorem barWord_unmask (s : State) {v : Nat} (hv : v < 64) : barWord s (0x4000C + 16 * v) 0 = unmask s v := by
  have hvector : (0x4000C + 16 * v - 0x40000) / 16 = v := by omega
  have hword : (0x4000C + 16 * v) % 16 = 0xC := by omega
  rw [barWord, if_neg (by omega), if_neg (by omega), if_neg (by omega), if_neg (by omega), if_neg (by omega), if_pos (by omega), hvector, hword]
  rfl

/-- Settles O21: each row writes the register that it names. -/
theorem hostRegisterWritesComplete : Obligations.HostRegisterWritesComplete := by
  refine ⟨?enable, ?disable, ?queueEnable, ?queueDisable, ?sqTail, ?cqHead, ?linkLost, ?word, ?unmask⟩
  case enable => exact fun s hbar => congrArg _ (barWrite_word hbar (by decide) (by decide) (by decide))
  case disable => exact fun s hbar => congrArg _ (barWrite_word hbar (by decide) (by decide) (by decide))
  case queueEnable =>
    intro q w s hbar hq hw hset
    rw [exec_queueEnable, execQueueEnable, if_pos ⟨hq, hset⟩, barWrite_word hbar (by omega) (by omega) hw, barWord_qenable s w hq, writeQenable,
      if_pos hset]
  case queueDisable =>
    intro q w s hbar hq hw hclear
    rw [exec_queueDisable, execQueueDisable, if_pos ⟨hq, by rw [hclear]; rfl⟩, barWrite_word hbar (by omega) (by omega) hw,
      barWord_qenable s w hq, writeQenable, if_neg (Bool.eq_false_iff.mp hclear)]
  case sqTail =>
    intro q v s hbar hq hv
    rw [exec_sqTailDoorbell, execSqTailDoorbell, if_pos hq, barWrite_word hbar (by omega) (by omega) hv, barWord_sqTail s v hq]
  case cqHead =>
    intro q v s hbar hq hv
    rw [exec_cqHeadDoorbell, execCqHeadDoorbell, if_pos hq, barWrite_word hbar (by omega) (by omega) hv, barWord_cqHead s v hq]
  case linkLost => exact fun s hbar => congrArg _ (barWrite_word hbar (by decide) (by decide) (by decide))
  case word => exact fun a v s hbar halign ha hv => congrArg _ (barWrite_word hbar halign ha hv)
  case unmask =>
    intro v s hbar hv
    rw [exec_msixUnmask, execMsixUnmask, if_pos hv, barWrite_word hbar (by omega) (by omega) (by decide), barWord_unmask s hv]

/-! ### Ready, drains, fetches and the link (R516, R519, R526, R535, R537) -/

theorem passed_some {s : State} {d : Nat} (h : d ≠ s.now) : passed s (some d) = true := by
  simpa [passed] using h

/-- R516: Ready, where no drain has been cancelled. -/
theorem setReady_enabled {s : State} {d : Nat} (hresume : s.host.resumePending = none) (hpending : s.host.enablePending = some d)
    (hd : d ≠ s.now) (hcount : s.tide.state ≠ .acquiring) :
    setReady s = { s with host := { s.host with enablePending := none, ready := true } } := by
  have hnone : passed s s.host.resumePending = false := by rw [hresume]; rfl
  have hsome : (passed s s.host.enablePending && s.tide.state != .acquiring) = true := by simp [hpending, passed_some hd, hcount]
  simp only [setReady, hnone, Bool.false_eq_true, if_false, hsome, if_true]

/-- R537: the end of a drain that nothing has cancelled. -/
theorem endDrain_ends {s : State} (hdrain : s.host.draining = true) (hresume : s.host.resumePending = none)
    (hdue : s.host.drainFrom + s.cfg Ent.hostDrainTides ≤ s.now) :
    (endDrain s).host.ready = false ∧ (endDrain s).host.draining = false ∧ (endDrain s).host.enable = false ∧
      ∀ p ∈ (endDrain s).host.pairs, p.enabled = false ∧ p.qEnable = false := by
  have hguard : (s.host.draining && s.host.resumePending.isNone && decide (s.host.drainFrom + s.cfg Ent.hostDrainTides ≤ s.now)) = true := by
    simp [hdrain, hresume, hdue]
  rw [endDrain, if_pos hguard]
  dsimp only
  refine ⟨rfl, rfl, rfl, fun p hp => ?_⟩
  obtain ⟨q, -, rfl⟩ := List.mem_map.mp hp
  exact ⟨rfl, rfl⟩

/-- R519: a fetch that may start, of an entry that can be read, ends with what the read gave. -/
theorem execSqFetch_reads {q st : Nat} {r : HostRead} {b : Bytes} {s : State} (hmay : mayFetch s q = true)
    (hread : readInput s ((s.pair q).sqBase + 64 * (s.pair q).sqHead) 64 r = (st, b))
    (hheld : inputHeld s ((s.pair q).sqBase + 64 * (s.pair q).sqHead) 64 = false) :
    execSqFetch q r s = .next (
      let u := touchInput s ((s.pair q).sqBase + 64 * (s.pair q).sqHead) 64
      if st = St.ok then takeEntry u q b else faultPair u q 3) := by
  simp only [execSqFetch, hmay, hread, hheld, Bool.not_true, Bool.false_eq_true, if_false]
  split <;> rfl

/-- R535: what a link loss leaves of the link. -/
theorem loseLink_clears {s : State} (hlink : s.host.linkUp = true) :
    (loseLink s).host.linkUp = false ∧ (loseLink s).host.linkLost = true ∧ (loseLink s).host.enable = false ∧
      (loseLink s).host.ready = false ∧
      (loseLink s).host.bisnp = [] ∧ (loseLink s).host.hostHeld = [] ∧ (loseLink s).host.hdmCommitted = false ∧ (loseLink s).sec.doe = [] := by
  rw [loseLink, hlink, if_neg (by decide)]
  exact ⟨rfl, rfl, rfl, rfl, rfl, rfl, rfl, rfl⟩

/-- Settles O22: the guard of each event holds; the drain, the fetch and the loss by the lemmas above. -/
theorem hostQueuesAndLinkComplete : Obligations.HostQueuesAndLinkComplete := by
  refine ⟨?ready, ?disabled, ?drained, ?queueDone, ?fetched, ?faulted, ?signalled, ?lost, ?trained, ?committed⟩
  case ready =>
    intro d s hbar hmgmt hresume hpending hd hcount
    simp [execReadySet, hbar, hmgmt, setReady_enabled hresume hpending hd hcount]
  case disabled =>
    intro d s hbar hmgmt hpending hd
    simp [execHostDisableEffect, hbar, hmgmt, disableEffect, hpending, passed_some hd]
  case drained =>
    intro s hbar hmgmt hdrain hresume hdue
    exact ⟨_, if_pos (by rw [hbar, hmgmt]; rfl), endDrain_ends hdrain hresume hdue⟩
  case queueDone =>
    intro q s hbar hwinding hdone
    simp [execQueueDisableDone, hbar, hwinding, hdone]
  case fetched =>
    intro q r b s hmay hread hheld
    rw [exec_sqFetch, execSqFetch_reads hmay hread hheld]
    rfl
  case faulted =>
    intro q st r b s hmay hread hst hheld
    rw [exec_sqFetch, execSqFetch_reads hmay hread hheld]
    exact congrArg _ (if_neg hst)
  case signalled =>
    intro q s hbar hint huncovered
    simp [execCoalesceTimer, hbar, hint, huncovered]
  case lost =>
    intro s hlink
    exact ⟨_, rfl, loseLink_clears hlink⟩
  case trained =>
    rintro w r _ s hup hlink rfl hw hr hwidth hrate
    have hwidths : linkWidths.contains w = true := List.contains_iff_mem.mpr hw
    have hrates : linkRates.contains r = true := List.contains_iff_mem.mpr hr
    rw [exec_linkTrained, execLinkTrained, if_neg (by rw [hup, hlink]; decide)]
    exact if_pos ⟨hwidths, hrates, hwidth, hrate⟩
  case committed =>
    rintro b _ s hbar hfree rfl hsize halign
    rw [exec_hdmCommit, execHdmCommit, if_neg (by rw [hbar, hfree]; decide),
      if_neg (not_or.mpr ⟨not_not.mpr rfl, not_not.mpr halign⟩), if_neg hsize]

/-! ### The mailbox (R530 to R532) and DOE (R513) -/

/-- R530: a mailbox that answers and has no command under way carries out one of at most 4,096 bytes. -/
theorem mailCommand_runs {s : State} {n : Nat} (f : State → State) (hmail : mailRuns s = true) (hfree : s.host.mailBusy = false)
    (hn : n ≤ 4096) : mailCommand s n f = f { s with host := { s.host with mailBusy := true } } := by
  rw [mailCommand, hmail, if_neg (by decide), hfree, if_neg Bool.false_ne_true]
  exact if_neg (Nat.not_lt.mpr hn)

/-- The output of a command that did nothing else leaves the mailbox as it was before the command. -/
theorem mailOut_of_free {s : State} (c : MailCode) (b : Bytes) (hfree : s.host.mailBusy = false) :
    mailOut { s with host := { s.host with mailBusy := true } } c b = s.emit (.mailbox c b) := by
  obtain ⟨⟩ := s
  simp only at hfree
  simp [mailOut, State.emit, ← hfree]

/-- R613: where a node is not in recovery, the verdict on an image decides what becomes of it. -/
theorem execImageVerifyDone_judges {r : ImageRx} {s : State} (hrx : s.sec.rx = some r) (hverifying : r.verifying = true) (hup : capUp s = true)
    (hnormal : s.rst.recovery = false) :
    execImageVerifyDone s = .next (if firmwareVerdict s r.bytes ≠ St.ok then imageAnswer (setRx s none 5) r (firmwareVerdict s r.bytes)
      else let u := setRx s (some { r with verifying := false, writing := true }) 3
        { u with sec := { u.sec with image := [] } }) := by
  have hrecovery (x : Option ImageRx) (n : Nat) : (setRx s x n).rst.recovery = false := by simp [setRx_frame .., hnormal]
  simp [execImageVerifyDone, hrx, hverifying, hup, hrecovery, apply_ite Host.Outcome.next]

/-- Settles O23: the mailbox and DOE answer, and an image in transfer meets its verdict. -/
theorem mailboxDoeAndImagesComplete : Obligations.MailboxDoeAndImagesComplete := by
  refine ⟨?supportedLogs, ?log, ?transaction, ?imageStart, ?imageData, ?imageEnd, ?verified, ?written, ?discovery, ?cdat, ?spdm, ?ideKm⟩
  case supportedLogs =>
    intro s hmail hfree
    rw [exec_getSupportedLogs, execGetSupportedLogs, mailCommand_runs _ hmail hfree (Nat.zero_le _), mailOut_of_free _ _ hfree]
  case log =>
    intro b s hmail hfree hb hlength huuid hinside
    rw [exec_getLog, execGetLog, mailCommand_runs _ hmail hfree hb, if_pos ⟨huuid, hinside, hlength⟩, mailOut_of_free _ _ hfree]
  case transaction =>
    intro b r s hmail hfree hb hreq
    rw [exec_catalogueTransaction, execCatalogueTransaction, mailCommand_runs _ hmail hfree hb, hreq]
  case imageStart =>
    intro b s hmail hfree hb haction hlock
    simp [execImageStart, imageRow, haction, mailCommand_runs _ hmail hfree hb]
  case imageData =>
    intro b s hmail hfree hb haction hlock
    simp [execImageData, imageRow, haction, mailCommand_runs _ hmail hfree hb]
  case imageEnd =>
    intro b s hmail hfree hb haction hlock
    simp [execImageEnd, imageRow, haction, mailCommand_runs _ hmail hfree hb]
  case verified =>
    intro r s hrx hverifying hup hnormal
    refine ⟨_, execImageVerifyDone_judges hrx hverifying hup hnormal, fun hfailed => if_pos hfailed, fun hok => ?_⟩
    rw [if_neg (not_not.mpr hok)]
    exact ⟨rfl, rfl, rfl⟩
  case written =>
    intro r s hrx hwriting hmgmt
    simp [execImageWriteDone, hrx, hwriting, hmgmt]
  case discovery => exact fun n s hdoe => if_pos hdoe
  case cdat => exact fun n s hdoe => if_pos hdoe
  case spdm =>
    intro b s hdoe
    exact ⟨_, if_neg (by rw [hdoe]; decide), rfl, List.length_append, rfl⟩
  case ideKm =>
    intro b s hdoe
    exact ⟨_, if_neg (by rw [hdoe]; decide), rfl, List.length_append, rfl⟩

end Sys2Proof.Machine

/-!
Reset sources, the release point, domain releases and the boot (19_reset_power.md, 20_electrical.md R618 to R653).
-/
namespace Sys2Proof.Machine

open Sys2Proof

/-! ### The sources and the release point (R621, R625, R642, R648) -/

/-- R643: a power-on reset is asserted, and nothing of a running sequence is left. -/
theorem powerReset_asserts (s : State) :
    (powerReset s).rst.asserted = some ⟨1, 0, 0, 0, 0, 0⟩ ∧ (powerReset s).rst.running = none ∧ (powerReset s).rst.toRelease = [] :=
  ⟨rfl, rfl, rfl⟩

theorem sampleStraps_released (s : State) (straps : Nat) : (sampleStraps s straps).rst.released = s.rst.released := by
  unfold sampleStraps
  dsimp only
  split <;> simp

/-- R642: the release point of a reset that clears more than a block. -/
theorem execReleasePoint_lists {n : Nat} {c : Cause} {s : State} (hasserted : s.rst.asserted = some c) (hpin : s.rst.resetN = true)
    (hlevel : c.level ≠ 3) :
    ∃ t, execReleasePoint n s = .next t ∧ t.rst.asserted = none ∧ t.rst.running = some c ∧
      t.rst.toRelease = [1, 2, 3, 4, 5, 6, 7, 8, 9].filter fun d => !s.rst.released.contains d := by
  have hreleased (u : State) (hu : u.rst.released = s.rst.released) :
      (if c.level = 0 then sampleStraps u n else u).rst.released = s.rst.released := by
    split
    · rw [sampleStraps_released, hu]
    · exact hu
  simp only [execReleasePoint, hasserted, hpin, Bool.not_true, Bool.false_eq_true, false_and, if_false, hlevel]
  refine ⟨_, rfl, rfl, rfl, ?_⟩
  dsimp only
  rw [hreleased _ (by simp [countReset_frame ..])]

/-! ### The firmware starts (R619) -/

theorem execFirmwareImageStarted_runs {s : State} (hrom : s.rst.romStarting = true) :
    ∃ t, execFirmwareImageStarted s = .next t ∧ t.rst.romStarting = false ∧ t.rst.pause = .none ∧ t.tide = s.tide ∧ t.key = s.key := by
  refine ⟨_, if_neg (by rw [hrom]; decide), ?_⟩
  simp [raiseFloor_frame .., takeNodeId_frame .., Coh.passSlots_frame .., coldCopies_frame .., startPorts_frame ..]

/-! ### Junction temperatures (R651, R653) -/

/-- The readings of the six dies, none above what one byte holds, stay below a limit that each reading stays below. -/
theorem foldl_max_temps_lt {temps : List Nat} {limit : Nat} (hlimit : 0 < limit) (hcool : ∀ i, i < 6 → temps.getD i 0 < limit) :
    ((List.range 6).map fun i => min 255 (temps.getD i 0)).foldl max 0 < limit := by
  refine List.foldlRecOn (motive := (· < limit)) _ max hlimit fun top htop x hx => max_lt htop ?_
  obtain ⟨i, hi, rfl⟩ := List.mem_map.mp hx
  exact (min_le_right _ _).trans_lt (hcool i (List.mem_range.mp hi))

/-- R653: while every junction is below 95 °C and none was hot, nothing trips and nothing is lowered. -/
theorem execJunctionSensorRead_cool {temps : List Nat} {s : State} (hup : s.up 1 = true) (hcool : ∀ i, i < 6 → temps.getD i 0 < 95)
    (hhot : s.rst.hot = false) :
    ∃ t, execJunctionSensorRead temps s = .next t ∧ t.rst.hot = false ∧ t.rst.thermTrip = s.rst.thermTrip ∧
      t.rst.asserted = s.rst.asserted ∧ t.tide = s.tide ∧ t.nb = s.nb := by
  have htop := foldl_max_temps_lt (by decide) hcool
  generalize hts : (List.range 6).map (fun i => min 255 (temps.getD i 0)) = ts at htop
  have h105 : ¬ 105 ≤ ts.foldl max 0 := by omega
  have h115 : ¬ 115 ≤ ts.foldl max 0 := by omega
  have h125 : ¬ 125 ≤ ts.foldl max 0 := by omega
  simp only [execJunctionSensorRead, hup, hts, h105, h115, h125, htop, Bool.not_true, Bool.false_eq_true, if_false, decide_false, Bool.or_false,
    Bool.false_or]
  refine ⟨_, rfl, ?_⟩
  split <;> simp [setAlert, hhot]

/-- Settles O45: each source, release and step of the boot takes the branch that its hypotheses leave. -/
theorem resetCommandsComplete : Obligations.ResetCommandsComplete := by
  refine ⟨?powerOn, fun s => rfl, ?rise, ?undervoltage, ?clocks, ?watchdog, ?requested, ?released, ?domain, ?firmware, ?tap, ?quiesced,
    ?junctions⟩
  case powerOn =>
    intro a b s
    obtain ⟨hasserted, hrunning, htodo⟩ := powerReset_asserts s
    exact ⟨_, rfl, hasserted, hrunning, htodo, rfl, rfl⟩
  case rise =>
    intro s hlow
    refine ⟨_, if_neg (Bool.eq_false_iff.mp hlow), rfl, fun h => ?_, fun h => ?_, rfl, rfl⟩
    · simp only [h]
    · simp only [h]
  case undervoltage =>
    intro r s
    refine ⟨_, rfl, (powerReset_asserts s).1, rfl, ?_⟩
    rintro rfl
    exact Bool.and_false _
  case clocks => exact fun s => ⟨_, rfl, powerReset_asserts s⟩
  case watchdog => exact fun s hmgmt => if_pos hmgmt
  case requested =>
    intro k s hrequested hmgmt htide
    simp [execResetAssert, hrequested, hmgmt, htide]
  case released => exact fun n k s hasserted hpin hlevel => execReleasePoint_lists hasserted hpin hlevel
  case domain =>
    rintro a d _ s hasserted hfind rfl
    simp only [exec_domainRelease, execDomainRelease, hasserted, hfind, Option.isSome_none, Bool.false_eq_true, if_false]
  case firmware => exact fun s hrom => execFirmwareImageStarted_runs hrom
  case tap =>
    intro x s hlow
    cases x <;> simp [execTapInstruction, hlow]
  case quiesced =>
    intro k s hmgmt hquiescing hidle
    simp only [exec_blockQuiesced, execBlockQuiesced, hmgmt, hquiescing, hidle, Bool.and_self, if_true]
  case junctions => exact fun l s hup hcool hhot => execJunctionSensorRead_cool hup hcool hhot

end Sys2Proof.Machine

/-!
Flash channels (14_flash_curator.md): enumeration, reads, programs and erases (R471, R472, R479, R480, R484 to R486, R500 to R505).
-/
namespace Sys2Proof.Machine

open Sys2Proof

/-! ### Enumeration (R471, R472) -/

theorem Flash.unmapAll_enumerated (u : FlashUnit) (ls : List Nat) : (Flash.unmapAll u ls).enumerated = u.enumerated := by
  refine List.foldlRecOn (motive := fun v : FlashUnit => v.enumerated = u.enumerated) ls Flash.unmap rfl fun v hv l _ => ?_
  have hmap : (Flash.unmap1 v l).enumerated = v.enumerated := by
    unfold Flash.unmap1
    split <;> rfl
  exact hmap.trans hv

theorem Flash.scanAll_enumerated (u : FlashUnit) (ps : List Phys) : (Flash.scanAll u ps).enumerated = u.enumerated :=
  List.foldlRecOn (motive := fun v : FlashUnit => v.enumerated = u.enumerated) ps _ rfl fun _ hv _ _ => hv

theorem growMap_enumerated (s : State) : (growMap s).flash.enumerated = s.flash.enumerated := by
  unfold growMap
  split
  · rfl
  · split <;> rfl

/-- R489: the end of a rebuild's first part leaves the enumeration. -/
theorem settleRebuild_enumerated (s : State) : (settleRebuild s).flash.enumerated = s.flash.enumerated := by
  unfold settleRebuild
  split
  · rfl
  · dsimp only
    rw [Flash.scanAll_enumerated]
    refine Eq.trans (foldl_keeps (R := fun a b => b.flash.enumerated = a.flash.enumerated) (fun _ => rfl) (fun _ _ _ h g => g.trans h)
      fun u _ => growMap_enumerated u) ?_
    exact (Flash.unmapAll_enumerated _ _).trans (Flash.unmapAll_enumerated _ _)

/-- Of the Catalogue it writes only how many codewords the rebuild has read. -/
theorem settleRebuild_num (s : State) {k : Nat} (hk : k ≠ Ent.rebuildCodewords) : (settleRebuild s).num k = s.num k := by
  have hcat : (settleRebuild s).cat = s.cat ∨ ∃ n, (settleRebuild s).cat = (s.setNum Ent.rebuildCodewords n).cat := by
    unfold settleRebuild
    split
    · exact .inl rfl
    · exact .inr ⟨(Flash.rebuildMap s.flash).2, by simp [growMap_frame .., sweepAgain_frame .., State.setNum, State.setVal]⟩
  obtain h | ⟨n, h⟩ := hcat
  · rw [State.num, h, State.num]
  · rw [State.num, h]
    exact (State.num_setNum s _ _ _).trans (if_neg hk)

/-- R472: the Catalogue shows the rate, the targets and the free spares of a channel. -/
def showChan (s : State) (c : Chan) : State :=
  ((s.setNum (Ent.chanChannelMTs c.num) c.rate).setNum (Ent.chanTargets c.num) c.targets).setNum (Ent.chanChannelSparesFree c.num) c.spares

theorem foldl_showChan_num {k : Nat} (hk : k < 0x820000) (cs : List Chan) (s : State) : (cs.foldl showChan s).num k = s.num k := by
  refine List.foldlRecOn (motive := fun t : State => t.num k = s.num k) cs showChan rfl fun t ht c _ => ?_
  have hrate : k ≠ Ent.chanChannelMTs c.num := by
    unfold Ent.chanChannelMTs
    omega
  have htargets : k ≠ Ent.chanTargets c.num := by
    unfold Ent.chanTargets
    omega
  have hspares : k ≠ Ent.chanChannelSparesFree c.num := by
    unfold Ent.chanChannelSparesFree
    omega
  simp only [showChan, State.num_setNum, hrate, htargets, hspares, if_false, ht]

theorem foldl_showChan_flash (cs : List Chan) (s : State) : (cs.foldl showChan s).flash = s.flash :=
  foldl_keeps (R := fun a b => b.flash = a.flash) (fun _ => rfl) (fun _ _ _ h g => g.trans h) fun _ _ => rfl

/-- R471: the targets of the channels that have both targets and a rate are those of the channels that have a rate. -/
theorem length_usedTargets {α : Type} (rate : Nat → Option Nat) (on : Nat → List α) (id : Nat → α → Nat × Nat) (cs : List Nat) :
    ((cs.filterMap fun c => if (on c).isEmpty then none else (rate c).map fun r => (c, r, on c)).flatMap fun u => u.2.2.map (id u.1)).length =
      ((cs.filter fun c => (rate c).isSome).flatMap on).length := by
  induction cs with
  | nil => rfl
  | cons c cs ih =>
    cases hrate : rate c with
    | none =>
      simpa only [List.filterMap_cons, List.filter_cons, hrate, Option.map_none, ite_self, Option.isSome_none, Bool.false_eq_true, if_false]
        using ih
    | some r =>
      cases hon : on c with
      | nil =>
        simpa only [List.filterMap_cons, List.filter_cons, List.flatMap_cons, hrate, hon, List.isEmpty_nil, if_true, Option.isSome_some,
          List.nil_append] using ih
      | cons a as =>
        simp only [List.filterMap_cons, List.filter_cons, List.flatMap_cons, hrate, hon, List.isEmpty_cons, Bool.false_eq_true, if_false,
          Option.map_some, Option.isSome_some, if_true, List.length_append, List.length_map, ih]

theorem execFlashEnumerationDone_tide {l : List Target} {s t : State} (h : execFlashEnumerationDone l s = .next t) : t.tide = s.tide := by
  simp [execFlashEnumerationDone_frame (h := h) ..]

/-- R471, R472: the first enumeration reports what it accepted and what it refused; then the rebuild begins. -/
theorem execFlashEnumerationDone_reports {l : List Target} {s : State} (hruns : flashRuns s = true) (hfirst : s.flash.enumerated = false) :
    ∃ t, execFlashEnumerationDone l s = .next t ∧ t.flash.enumerated = true ∧ t.tide = s.tide ∧
      t.num Ent.targetsAccepted = (((List.range 32).filter fun c => (channelRate (s.cfg Ent.flashMaxMTs)
        ((acceptTargets (l.filter fun t => decide (t.chan < 32) && decide (t.target < 16))).filter fun t => t.chan == c)).isSome).flatMap fun c =>
          (acceptTargets (l.filter fun t => decide (t.chan < 32) && decide (t.target < 16))).filter fun t => t.chan == c).length ∧
      t.num Ent.targetsRefused = l.length - t.num Ent.targetsAccepted := by
  have hexec : execFlashEnumerationDone l s = .next _ := if_neg (by rw [hruns, hfirst]; decide)
  refine ⟨_, hexec, ?enumerated, execFlashEnumerationDone_tide hexec, ?accepted, ?refused⟩
  case enumerated =>
    rw [settleRebuild_enumerated]
    refine (congrArg FlashUnit.enumerated (foldl_showChan_flash _ _)).trans ?_
    exact Flash.scanAll_enumerated _ _
  case accepted =>
    rw [settleRebuild_num _ (by decide)]
    refine (foldl_showChan_num (by decide) _ _).trans ?_
    rw [State.num_setNum, if_neg (by decide), State.num_setNum, if_neg (by decide), State.num_setNum, if_pos rfl]
    exact length_usedTargets _ _ (fun _ (t : Target) => (t.chan, t.target)) _
  case refused =>
    rw [settleRebuild_num _ (by decide), settleRebuild_num _ (by decide)]
    refine (foldl_showChan_num (by decide) _ _).trans ?_
    refine Eq.trans ?_ (congrArg _ (foldl_showChan_num (by decide) _ _).symm)
    simp only [State.num_setNum]
    rfl

/-! ### Reads (R480, R484 to R486) -/

/-- R485: the waiting read of the lowest class, the earliest among equals. -/
def leastRead (acc : Option FlashRead) (r : FlashRead) : Option FlashRead := match acc with
  | none => some r
  | some a => if r.cls < a.cls then some r else some a

theorem foldl_leastRead {before after : List FlashRead} {q : FlashRead} (hbefore : ∀ r ∈ before, q.cls < r.cls)
    (hafter : ∀ r ∈ after, q.cls ≤ r.cls) : (before ++ q :: after).foldl leastRead none = some q := by
  have hprior : ∀ a ∈ before.foldl leastRead none, a ∈ before := by
    refine List.foldlRecOn (motive := fun acc : Option FlashRead => ∀ a ∈ acc, a ∈ before) before leastRead (by simp)
      fun acc hacc r hr a ha => ?_
    cases acc with
    | none => exact Option.mem_some_iff.mp ha ▸ hr
    | some b =>
      dsimp only [leastRead] at ha
      split at ha
      · exact Option.mem_some_iff.mp ha ▸ hr
      · exact hacc a ha
  have hmeets : leastRead (before.foldl leastRead none) q = some q := by
    cases hacc : before.foldl leastRead none with
    | none => rfl
    | some a => exact if_pos (hbefore a (hprior a hacc))
  rw [List.foldl_append, List.foldl_cons, hmeets]
  refine List.foldlRecOn (motive := fun acc : Option FlashRead => acc = some q) after leastRead rfl fun acc hacc r hr => ?_
  rw [hacc]
  exact if_neg (Nat.not_lt.mpr (hafter r hr))

/-- R485, R486: the read that is first starts, on a die that is idle or has been suspended for it. -/
theorem execLunReadDispatch_starts {k d : Nat} {x : Chan} {q : FlashRead} {m : List FlashRead} {u : FlashUnit} {s : State}
    (hchan : Flash.chan s.flash k = some x) (hruns : flashRuns s = true) (hheld : channelHeld s k = false) (htest : dieTested s x d = false)
    (hmine : m = s.flash.reads.filter fun r => r.at_.chan == k && Flash.dieOf x r.at_.block == d) (hidle : (m.any fun r => r.active) = false)
    (hbest : m.foldl leastRead none = some q)
    (hready : (if q.cls = 4 then (if Flash.dieBusy s.flash x d || programDue s x then none else some s.flash)
      else if Flash.dieBusy s.flash x d then suspendDie s x d else some s.flash) = some u) :
    execLunReadDispatch k d s = .next (State.bump { s with flash := (Flash.mapBlock
      { u with reads := u.reads.map fun y => if y.id = q.id then { y with active := true } else y } k q.at_.block
      (fun b => { b with reads := b.reads + 1 })) } (Ent.chanCodewordsRead k)) := by
  have hwaiting : (m.filter fun r => !r.active) = m := by
    refine List.filter_eq_self.mpr fun r hr => ?_
    have hr := List.any_eq_false.mp hidle r hr
    simpa using hr
  rw [execLunReadDispatch, hchan]
  dsimp only
  rw [← hmine, hwaiting]
  split
  next hnone => exact absurd (hbest.symm.trans hnone) (Option.some_ne_none q)
  next r hsome =>
    obtain rfl : q = r := Option.some.inj (hbest.symm.trans hsome)
    rw [if_neg (by simp [hruns, hheld, htest, hidle]), hready]

/-- R480, R484: a read that decodes, with its tag where it verifies. -/
theorem execFlashReadDone_decodes {i n c : Nat} {q : FlashRead} {w : Cw} {u s : State}
    (hread : (s.flash.reads.find? fun r => r.id == i && r.active) = some q) (hruns : flashRuns s = true)
    (hu : u = State.bump { s with flash := { s.flash with reads := s.flash.reads.filter fun x => x.id != i } } Ent.readRetries
      (min n (s.cfg Ent.readRetryMax)))
    (hw : Flash.codewordAt u.flash q.at_ = some w) (hretries : n ≤ s.cfg Ent.readRetryMax)
    (hthere : blockGone u q.at_.chan q.at_.block = false) (htag : isVerify q.use = true → w.logical = q.logical ∧ w.owner = q.owner) :
    execFlashReadDone i n c s = .next (Flash.settleChan (settleRebuild (deliverRead (if u.cfg Ent.relocateBits < c then
      { u with flash := Flash.mapBlock u.flash q.at_.chan q.at_.block fun b => { b with marked := true } } else u) q St.ok
        (padTo 4096 (plainOf u w)))) q.at_.chan) := by
  have htag' : (!isVerify q.use) = true ∨ (w.logical = q.logical ∧ w.owner = q.owner) := by
    cases h : isVerify q.use with
    | false => exact .inl rfl
    | true => exact .inr (htag h)
  rw [execFlashReadDone, hread]
  dsimp only
  rw [if_neg (by rw [hruns]; decide), ← hu, hw]
  dsimp only
  rw [if_pos ⟨hretries, by rw [hthere]; rfl, htag'⟩]

/-- R484: one that does not. -/
theorem execFlashReadDone_fails {i n c : Nat} {q : FlashRead} {u s : State}
    (hread : (s.flash.reads.find? fun r => r.id == i && r.active) = some q) (hruns : flashRuns s = true)
    (hu : u = State.bump { s with flash := { s.flash with reads := s.flash.reads.filter fun x => x.id != i } } Ent.readRetries
      (min n (s.cfg Ent.readRetryMax)))
    (hfailed : s.cfg Ent.readRetryMax < n ∨ Flash.codewordAt u.flash q.at_ = none ∨ blockGone u q.at_.chan q.at_.block = true ∨
      ∃ w, Flash.codewordAt u.flash q.at_ = some w ∧ isVerify q.use = true ∧ ¬ (w.logical = q.logical ∧ w.owner = q.owner)) :
    execFlashReadDone i n c s =
      let v := deliverRead (u.bump Ent.uncorrectableCodewords) q St.uncorrectable []
      .next (Flash.settleChan (settleRebuild (match Flash.chan v.flash q.at_.chan with
        | some c => raiseEvent (v.bump Ent.errorEvents) (Flash.dieUnit c (Flash.dieOf c q.at_.block)) 0
            ⟨0x08, St.uncorrectable, q.logical, v.now, v.tide.phase⟩
        | none => v)) q.at_.chan) := by
  rw [execFlashReadDone, hread]
  dsimp only
  rw [if_neg (by rw [hruns]; decide), ← hu]
  cases hw : Flash.codewordAt u.flash q.at_ with
  | none => rfl
  | some w =>
    have hbad : ¬ (n ≤ s.cfg Ent.readRetryMax ∧ (!blockGone u q.at_.chan q.at_.block) = true ∧
        ((!isVerify q.use) = true ∨ (w.logical = q.logical ∧ w.owner = q.owner))) := by
      rintro ⟨hretries, hthere, htag⟩
      obtain h | h | h | ⟨x, hx, hverify, hwrong⟩ := hfailed
      · exact absurd hretries (Nat.not_le.mpr h)
      · exact Option.some_ne_none w (hw.symm.trans h)
      · rw [h] at hthere
        exact Bool.false_ne_true hthere
      · obtain rfl : w = x := Option.some.inj (hw.symm.trans hx)
        rw [hverify] at htag
        exact htag.elim (fun h => Bool.false_ne_true h) hwrong
    dsimp only
    rw [if_neg hbad] <;> rfl

/-! ### Programs and erases (R479, R500 to R505) -/

/-- R479: a program of a stream starts where it is due. -/
def startDue (k : Nat) (due : Bool) (st : Stream) (s : State) : State :=
  if due then { s with flash := Flash.startProgram s.flash k st } else s

theorem startDue_eq (k : Nat) (due : Bool) (st : Stream) (s : State) :
    startDue k due st s = { s with flash := if due then Flash.startProgram s.flash k st else s.flash } := by
  cases due <;> rfl

/-- R479: the streams of a channel start in turn. -/
theorem execWriteFlushTimer_starts {k : Nat} {x : Chan} {s : State} (hchan : Flash.chan s.flash k = some x) (hruns : flashRuns s = true) :
    execWriteFlushTimer k s = .next (startDue k (streamDue s x .copy) .copy (startDue k (streamDue s x .data) .data
      (startDue k (streamDue s x .log) .log s))) := by
  simp only [startDue_eq]
  rw [execWriteFlushTimer, hchan]
  exact if_pos hruns

/-- Settles O43: each row takes the branch that its hypotheses leave, by the lemmas above. -/
theorem flashReadsAndProgramsComplete : Obligations.FlashReadsAndProgramsComplete := by
  refine ⟨?enumerated, ?dispatched, ?decoded, ?undecoded, ?flushed, ?programmed, ?programFailed, ?erasing, ?erased⟩
  case enumerated => exact fun l s hruns hfirst => execFlashEnumerationDone_reports hruns hfirst
  case dispatched =>
    intro k d x q m before after u s hchan hruns hheld htest hmine hidle hsplit hbefore hafter hready
    refine execLunReadDispatch_starts hchan hruns hheld htest hmine hidle (hsplit ▸ foldl_leastRead hbefore hafter) ?_
    obtain ⟨hfree, hdue, rfl⟩ | ⟨hbusy, hcls, hsuspend⟩ := hready
    · by_cases hcls : q.cls = 4
      · simp [hcls, hfree, hdue hcls]
      · simp [hcls, hfree]
    · simp [hcls, hbusy, hsuspend]
  case decoded =>
    rintro i n c q w u _ s hread hruns hu hw hretries hthere htag rfl
    exact execFlashReadDone_decodes hread hruns hu hw hretries hthere htag
  case undecoded =>
    rintro i n c q u _ s hread hruns hu hfailed rfl
    exact execFlashReadDone_fails hread hruns hu hfailed
  case flushed =>
    rintro k x _ _ s hchan hruns rfl rfl
    exact execWriteFlushTimer_starts hchan hruns
  case programmed =>
    intro k b p s hfound hruns hthere
    simp [execFlashProgramDone, hfound, hruns, hthere]
  case programFailed =>
    intro k b o p s hfound hruns hfailed
    have hguard : (o && !blockGone s k b) = false := by
      obtain h | h := hfailed <;> simp [h]
    simp only [exec_flashProgramDone, execFlashProgramDone, hfound, hruns, hguard, Bool.not_true, Bool.false_eq_true, if_false]
  case erasing =>
    intro k n x b s hchan hblock hruns hmay
    simp [execBlockErase, hchan, hblock, hruns, hmay]
  case erased =>
    rintro k n o _ s hruns hfound rfl hlive
    rw [exec_eraseDone, execEraseDone, if_neg (by rw [hruns, hfound]; decide)]
    dsimp only at hlive ⊢
    rw [hlive, if_neg Bool.false_ne_true]

end Sys2Proof.Machine
